-- ==== Sys2Proof/Word.lean ====
section
/-! DEFINITION. The word types of the device: bytes, and the 32-bit words of which every register is made (R15). -/

namespace Sys2Proof

/-- One byte. -/
abbrev Byte := BitVec 8

/-- One register (R15: all registers are 32 bits wide). -/
abbrev Word := BitVec 32

end Sys2Proof
end

