-- ==== Sys2Proof/Types.lean ====
section
/-! DEFINITION. The operand types of the commands: what the world outside the device supplies when it acts on it. -/

namespace Sys2Proof

/-- How a read of the device ends (R103, R116, R132): with data, with a fault kind of R132 (7 and 8 are read errors), or with
poisoned data, which is a read error (R124). -/
inductive ReadResult where
  | data (bytes : List Byte)
  | fault (kind : Nat)
  | poisoned
deriving DecidableEq, Repr

/-- Through which path a register access comes (R11): BAR0, remote access over the chain, the debug port, or the
device's own firmware while it loads the image (R49). -/
inductive RegPath where
  | bar0
  | remote
  | debug
  | firmware
deriving DecidableEq, Repr

/-- Memory as an operation's accesses find it: the bytes at bus addresses of the host, page tables among them (R129). A read of a byte
that is not listed ends without data (R132, kinds 7 and 8); a read of a byte of `poison` ends with poisoned data. `badDram`: addresses
of device DRAM at which a read meets an uncorrectable error (R160). -/
structure HostData where
  data : List (Nat × List Byte) := []
  poison : List Nat := []
  badDram : List Nat := []
deriving DecidableEq, Repr

/-- The same, and how many of its requests the unit has in flight at once, 0 acting as 1 (log 10). -/
structure HostMem extends HostData where
  inFlight : Nat := 1
deriving DecidableEq, Repr

/-- The non-posted read that a completion timeout ends (R103): a granule of a DMA copy or staging entry, or of a PLAY buffer, by its
offset. -/
inductive TimedOut where
  | ringFetch (ring : Nat)
  | walk (ctx page : Nat)
  | descriptors (ring index : Nat)
  | fence (key : Nat)
  | bulk (ring index at_ : Nat) (mem : HostMem)
  | staging (ring index at_ : Nat) (mem : HostMem)
  | audio (ring index at_ : Nat)
  | layer (region layer : Nat)
deriving DecidableEq, Repr

/-- A PCIe configuration access (R101 to R105): a write of the completion timeout in microseconds, of 10-Bit Tag Requester Enable, of
Max Read Request Size, of a base address register (0, 2 or 4) or of another word; or a read of a word of the header, of what the
capabilities report, or of the AER status words. -/
inductive ConfigWrite where
  | completionTimeout (us : Nat)
  | tag10 (enable : Bool)
  | maxReadRequest (bytes : Nat)
  | base (bar value : Nat)
  | other (offset value : Nat)
  | readHeader (offset : Nat)
  | readCapabilities
  | readAer
deriving DecidableEq, Repr

/-- What a driver-load slot meets at its pins and in DRAM (R373, R380, R381): the status bits that each port of PORT_MASK shifts in,
first bit in bit 0; the row groups whose fetch fails twice; the pins that read back wrong (bits 7 to 0 DRV_D, 8 DRV_K, 9 DRV_L)
and the number of differing pin-bits; the row groups of the slot that are loaded before SYNC cuts the slot, every one where nothing cuts
it (R375); and the values written to SCN_FRAME_ADDR while the slot runs, each with the row group before whose start it lands (R378). -/
structure LoadInput where
  status : List Nat
  failed : List Nat
  pins : Nat
  pinBits : Nat
  loads : Nat
  writes : List (Nat × BitVec 32)
deriving DecidableEq, Repr

end Sys2Proof
end

