-- ==== Sys2Proof/Syntax.lean ====
section
/-! DEFINITION. The commands: one constructor per row of spec/opcode_table.json, with the operands that the row's rule
names. -/

namespace Sys2Proof

/-- The commands that the block takes from outside, and the events at its pins and inside it that the spec gives as commands. -/
inductive Instr where
  /-- R547. PWRGOOD rises at instant `t` (1/64 ns), with UMBER_N low or high and the two diode readings (1/16 °C); what a programmer on the
  xSPI bus has written to the NVM meanwhile, as addresses and bytes (R489). -/
  | powerOn (umberLow : Bool) (diode0 diode1 : Int) (t : Nat) (programmed : List (Nat × List Byte) := [])
  /-- R547. RESET_N rises after at least 400 crystal cycles low, PWRGOOD being high; what a programmer has written meanwhile (R489). -/
  | deviceReset (umberLow : Bool) (diode0 diode1 : Int) (t : Nat) (programmed : List (Nat × List Byte) := [])
  /-- R546. A monitored rail has been low for 1 us. -/
  | railUndervoltage
  /-- R50. A section has been read; `got`: the bytes delivered, where they differ from those the NVM holds. -/
  | imageSectionReadDone (index : Nat) (got : Option (List Byte))
  /-- R55. The NVM does not answer a read of a section, or of the directory or header, within 10 ms. -/
  | nvmReadTimeout (sec : Option Nat)
  /-- R161. Training of a DRAM channel ends: its MR8 density code, the least density code of any enabled channel, its eye margin in
  ps, the MR4 multiplier in quarters, whether verification of stored settings and full training pass, and its settings. -/
  | dramTrainingDone (channel density cap margin mr4 : Nat) (verified trained : Bool) (settings : List Byte)
  /-- R49. Firmware ends the load of the image and runs the consistency checks. -/
  | loadingComplete
  /-- R482. The boot watchdog runs out. -/
  | bootWatchdogExpiry
  /-- R11. A write of `size` bytes at a BAR0 offset by one of the three access paths. -/
  | registerWrite (path : RegPath) (off value size : Nat) (enables : Bool)
  /-- R13. A read of `size` bytes at a BAR0 offset by one of the three access paths; a low half latches its high half. -/
  | lowHalfRead (path : RegPath) (off size : Nat) (enables : Bool)
  /-- R70. A qualifying GLK_IN edge at instant `t` (1/64 ns). -/
  | referenceEdge (t : Nat)
  /-- R70. The window of an expected edge closes with no edge accepted. -/
  | edgeMissing
  /-- R69. The next numbered tick is raised, at the instant the tick engine has fixed for it; UMBER_N low or high, where the device
  restarts at this tick (R485, R498). -/
  | tick (umberLow : Bool)
  /-- R75. The natural next tick becomes a repeat boundary. -/
  | repeatBoundary
  /-- R78. A MARKER slot of a chain port sends the marker of the next tick, with its OFFSET_UI. -/
  | tickMarkerSend (port offset : Nat)
  /-- R80. A tick-marker word arrives at instant `t` (1/64 ns) on a chain port, or on the pair port (port 16). -/
  | tickMarkerReceived (port payload t : Nat)
  /-- R82. No valid marker arrives at a port for a predicted tick. -/
  | markerMissing (port : Nat)
  /-- R23. An ENUM word is sent on an output chain at instant `t`. -/
  | enumSend (port t : Nat)
  /-- R23. An ENUM word arrives on a chain port. -/
  | enumReceived (port payload : Nat)
  /-- R83. A PROBE slot sends a probe to the position of a chain whose turn it is; `t1` in 1/8 ns. -/
  | delayProbe (port position t1 : Nat)
  /-- R83. A probe arrives at `t2`, and its echo leaves at `t3`, in 1/8 ns. -/
  | probeReceived (port payload t2 t3 : Nat)
  /-- R85. A PROBE_ECHO cell arrives at `t4`, in 1/8 ns. -/
  | probeEchoReceived (port : Nat) (cell : List Byte) (t4 : Nat)
  /-- R85. A DELAY_ASSIGN packet arrives. -/
  | delayAssignReceived (port : Nat) (packet : List Byte)
  /-- R206. A fetch-and-compose slot runs; memory as its fetches find it, and how many it has in flight. -/
  | fetchComposeSlot (region slot : Nat) (late : Bool) (mem : HostData) (inFlight : Nat)
  /-- R213. A handoff row frees. -/
  | handoffRowFree (region : Nat)
  /-- R238. An encode slot runs. -/
  | encodeSlot (region slot : Nat) (late : Bool)
  /-- R284. A TRANSMIT slot opens its window; `aligns`: the ALIGN words that fall inside it. -/
  | transmitWindow (region slot aligns : Nat)
  /-- R94. The work of an elastic slot completes at `fin` schedule units after the tick. -/
  | elasticSlotComplete (region slot fin : Nat)
  /-- R240. A SEGMENT packet comes in, whole or aborted. -/
  | segmentReceived (port : Nat) (packet : List Byte) (aborted : Bool)
  /-- R282. A packet with a reserved PTYPE arrives. -/
  | reservedPacket (port : Nat) (packet : List Byte)
  /-- R242. A decode slot runs. -/
  | decodeSlot (region slot : Nat)
  /-- R245. A cascaded-input decode slot runs. -/
  | cascadedInputDecode (region slot : Nat)
  /-- R173. A cascaded input frame completes at instant t. -/
  | cascadeFrameComplete (port t : Nat)
  /-- R241. A row's cutoff passes. -/
  | rowCutoff (region slot row : Nat) (late : Bool)
  /-- R332. A lamp pipeline slot runs. -/
  | lampPipelineSlot (region slot : Nat) (late : Bool)
  /-- R343. A wear sample slot runs. -/
  | wearSampleSlot (region slot : Nat) (late : Bool)
  /-- R361. A driver load slot runs. -/
  | driverLoadSlot (region slot : Nat) (late : Bool) (input : LoadInput)
  /-- R365. The broadcast sync command. -/
  | broadcastSync
  /-- R366. An edge of a TE pin. -/
  | teEdge (region : Nat) (rising : Bool)
  /-- R366. A TE timeout. -/
  | teTimeout (group : Nat)
  /-- R369. A grey pulse window opens. -/
  | greyPulseWindow (region slot : Nat)
  /-- R422. An audio window serves a target; memory as the reads of its buffers find it, and how many it has in flight. -/
  | audioWindow (region slot target aligns : Nat) (mem : HostData) (inFlight : Nat)
  /-- R216. A capture slot writes its rows; host memory as its translations find it. -/
  | hostCaptureWrite (region slot : Nat) (mem : HostMem)
  /-- R184. The compile deadline of the period. -/
  | compileDeadline
  /-- R180. The fence word of a record (64 * ring + record number) is read. -/
  | fenceWordRead (key : Nat)
  /-- R180. A fence-word read ends. -/
  | fenceReadComplete (key : Nat) (result : ReadResult)
  /-- R186. A release completion falls due. -/
  | releaseDue (ring index : Nat)
  /-- R104. The link reaches L0 at a speed (1 to 4) and width. -/
  | pcieLinkUp (speed width : Nat)
  /-- R108. The link goes down (DL_Down). -/
  | pcieLinkDown
  /-- R109. A hot reset is received. -/
  | hotReset
  /-- R109. Initiate FLR is written. -/
  | functionLevelReset
  /-- R109. Power State D3hot is written. -/
  | d3hotEntry
  /-- R109. Power State D0 is written from D3hot. -/
  | d3hotToD0
  /-- R107. A host access to device DRAM: write or read, address, read length, write data; `bad`: a poisoned write, or a read whose
  DRAM data cannot be corrected (R160). -/
  | bar2Access (write : Bool) (addr len : Nat) (bytes : List Byte) (bad : Bool)
  /-- R103. A non-posted read has no completion at the timeout. -/
  | completionTimeout (what : TimedOut)
  /-- R103. A completion arrives after its read has ended. -/
  | unexpectedCompletion
  /-- R120. A BAR4 write, or a read of BAR4. -/
  | doorbellWrite (offset size value : Nat) (read : Bool := false)
  /-- R122. The mask bit of a vector's table entry is written from 1 to 0. -/
  | msixUnmask (vector : Nat)
  /-- R121. The ring engine issues a fetch of up to `count` entries for the ring that its order selects. -/
  | ringFetch (count : Nat)
  /-- R116. The fetch of a ring that starts at SQ index `first` returns. -/
  | sqReadComplete (ring first : Nat) (result : ReadResult)
  /-- R115. The NOP entry at an SQ index of a ring executes. -/
  | nop (ring index : Nat)
  /-- R118. An entry with a reserved opcode executes. -/
  | reservedOpcode (ring index : Nat)
  /-- R115. A RING_CREATE entry executes. -/
  | ringCreate (ring index : Nat)
  /-- R119. A RING_DESTROY entry executes. -/
  | ringDestroy (ring index : Nat)
  /-- R116. A RING_RESET entry executes. -/
  | ringReset (ring index : Nat)
  /-- R115. A VECTOR_MAP entry executes. -/
  | vectorMap (ring index : Nat)
  /-- R126. An XLT_CONTEXT entry with OP SET executes. -/
  | xltSet (ring index : Nat)
  /-- R126. An XLT_CONTEXT entry with OP DISABLE executes. -/
  | xltDisable (ring index : Nat)
  /-- R126. An XLT_CONTEXT entry with OP INVALIDATE_ALL executes. -/
  | xltInvalidateAll (ring index : Nat)
  /-- R126. An XLT_CONTEXT entry with OP INVALIDATE_RANGE executes. -/
  | xltInvalidateRange (ring index : Nat)
  /-- R128. What used removed translations has ended. -/
  | invalidationDrained (ring index : Nat)
  /-- R133. The walk of a context for a 4 KiB page ends; `reads` are the table entries it read, top level first, none where a read
  failed. -/
  | translationWalkDone (ctx page : Nat) (reads : List (Option Nat))
  /-- R136. A memory operation of a region completes: its class, host or DRAM, write or read, in a shared or a reserved entry. -/
  | operationComplete (region cls : Nat) (host write shared : Bool)
  /-- R140. A DMA_COPY entry executes. -/
  | dmaCopy (ring index : Nat)
  /-- R142. The granules of a copy have run, with its last write or up to a fault; memory as they find it, and how many were in flight. -/
  | dmaCopyDone (ring index : Nat) (mem : HostData) (inFlight : Nat)
  /-- R153. A granule ends and the arbiter grants; reads that have arrived (class, kind of port, address, length, and how many requests
  the channel had accepted before); the time of the granted operation. -/
  | dramGrant (channel : Nat) (arrivals : List (Nat × Nat × Nat × Nat × Nat)) (ns : Nat)
  /-- R150. A write reaches its channel's write queue. -/
  | dramWriteAccept (channel cls kind addr len : Nat)
  /-- R160. A read returns: 0 clean, 1 corrected, 2 uncorrectable. -/
  | dramReadComplete (channel cls addr ecc : Nat)
  /-- R152. A port's buffer fill, in 64ths, crosses its threshold; `full`: of a decoder's buffers, the display write buffer. -/
  | portPanicEnter (channel kind fill : Nat) (full : Bool)
  /-- R152. The fill is back on the safe side. -/
  | portPanicExit (channel kind fill : Nat) (full : Bool)
  /-- R155. The panic window ends. -/
  | panicWindowEnd (channel : Nat)
  /-- R154. A request has waited AGE. -/
  | requestAged (channel cls addr : Nat)
  /-- R157. A tREFI interval ends. -/
  | refreshIntervalEnd (channel : Nat)
  /-- R159. MR4 is read at instant t: its refresh multiplier in quarters. -/
  | mr4Poll (channel quarters : Nat) (t : Nat := 0)
  /-- R166. DMC_CH_PAT_CTL is written with START set. -/
  | patternRunStart (channel pattern : Nat) (write : Bool) (length : Nat) (path : RegPath)
  /-- R166. A pattern run ends. -/
  | patternRunDone (channel dqErr bursts : Nat)
  /-- R174, R175. A COMMIT entry is next on its ring. -/
  | commit (ring index : Nat)
  /-- R176. The read of a commit's descriptor list ends. -/
  | commitDescriptorReadDone (ring index : Nat) (result : ReadResult)
  /-- R174. A FENCE_SIGNAL entry executes. -/
  | fenceSignal (ring index : Nat)
  /-- R214. A CAPTURE_BUFFER entry is next on its ring. -/
  | captureBuffer (ring index : Nat)
  /-- R424. A PLAY entry executes. -/
  | play (ring index : Nat)
  /-- R424. A CAPTURE entry executes. -/
  | audioCapture (ring index : Nat)
  /-- R427. A MASK entry executes. -/
  | mask (ring index : Nat)
  /-- R426. A START entry executes. -/
  | audioStart (ring index : Nat)
  /-- R426. A STOP entry executes. -/
  | audioStop (ring index : Nat)
  /-- R294. A REMOTE_REG entry with OP 0 (or a reserved OP) executes. -/
  | remoteRegRead (ring index : Nat)
  /-- R294. A REMOTE_REG entry with OP 1 executes. -/
  | remoteRegWrite (ring index : Nat)
  /-- R293. A REG_REQ packet arrives at a tile. -/
  | regReqReceived (port : Nat) (packet : List Byte)
  /-- R294. A REG_RSP cell arrives. -/
  | regRspReceived (port : Nat) (cell : List Byte)
  /-- R294. A REG_REQ has had no reply for REG_TIMEOUT ticks. -/
  | regReqTimeout (chain tag : Nat)
  /-- R292. An ACK packet arrives. -/
  | ackReceived (port : Nat) (packet : List Byte)
  /-- R292. A return packet has had no acknowledgement in time; stream 0 is a tile's own, 1 + p that of the cascaded input on port
  p. -/
  | returnAckTimeout (stream seq : Nat)
  /-- R290. An EMPTY cell of a period passes through the tile; SEQ of the return ALIGN word. -/
  | returnCellPass (cell alignSeq : Nat)
  /-- R279. The ALIGN word of a period is sent. -/
  | alignSend (port : Nat)
  /-- R265. A KEY_REQ cell arrives at instant t. -/
  | keyRequestReceived (port : Nat) (cell : List Byte) (t : Nat)
  /-- R512. An EVENT cell arrives. -/
  | remoteEventReceived (port : Nat) (cell : List Byte)
  /-- R513. A TELEMETRY cell arrives. -/
  | telemetryReceived (port : Nat) (cell : List Byte)
  /-- R513. An admitted tile has sent no HEADROOM for 4 consecutive wear cycles. -/
  | telemetryStale (chain position : Nat)
  /-- R494. A STAGE_ACK cell arrives. -/
  | stageAckReceived (port : Nat) (cell : List Byte)
  /-- R276. Word lock of a chain port is lost; `invalid` headers have been found since the last loss (R275). -/
  | wordLockLoss (port : Nat) (invalid : Nat := 16)
  /-- R299. The forwarded clock of a port is lost. -/
  | rxClockLost (port : Nat)
  /-- R299. A TS1 word arrives at an UP port. -/
  | ts1Received (port : Nat)
  /-- R295. Eight consecutive valid TS words have arrived, TS1 or TS2, with the far side's offer (3: none). -/
  | tsWordsReceived (port : Nat) (ts2 : Bool) (offer : Nat)
  /-- R295. Equalisation at the agreed rate settles with these settings, FOM and data-to-clock skew. -/
  | equalisationDone (port ctle t1 t2 t3 fom skew : Nat)
  /-- R295. 1,024 consecutive words that are not TS words have arrived; `h` is a tile's forward repeat latency in 1/8 ns. -/
  | portUp (port h : Nat)
  /-- R295. A training attempt has taken more than 50 ms. -/
  | trainingAttemptTimeout (port : Nat)
  /-- R299. 10 ms have passed since a failed attempt. -/
  | trainingRetryTimer (port : Nat)
  /-- R299. The receive clock shows activity after at least 10 ms without any. -/
  | rxClockActivity (port : Nat)
  /-- R301. LNK_TEST.RETRY of a port is written. -/
  | linkTestRetry (port : Nat) (path : RegPath)
  /-- R301. LNK_TEST.FORCE_DOWN of a port is written. -/
  | linkTestForceDown (port : Nat) (path : RegPath)
  /-- R297. The eye monitor measures the main settings or the candidate: eye width and height. -/
  | fomMeasurement (port : Nat) (main : Bool) (ew eh : Nat)
  /-- R297. The word after an ALIGN word adopts a better candidate. -/
  | eqStepAdopt (port : Nat)
  /-- R305. HELLO goes out on the pair port. -/
  | helloSend
  /-- R305. A HELLO payload arrives, from its PSEQ on. -/
  | helloReceived (payload : List Byte)
  /-- R309. A COMMIT_ANN payload arrives. -/
  | commitAnnReceived (payload : List Byte)
  /-- R309. A KEY_ANN payload arrives. -/
  | keyAnnReceived (payload : List Byte)
  /-- R309. A CYCLE_ANN payload arrives. -/
  | cycleAnnReceived (payload : List Byte)
  /-- R319. A SNAPSHOT payload arrives. -/
  | snapshotReceived (payload : List Byte)
  /-- R315. A RELAY payload arrives. -/
  | relayReceived (payload : List Byte)
  /-- R314. A DEPOSE payload arrives. -/
  | deposeReceived (payload : List Byte)
  /-- R313. A HANDOVER payload arrives. -/
  | handoverReceived (payload : List Byte)
  /-- R304. A PAIR_ACK payload arrives. -/
  | pairAckReceived (payload : List Byte)
  /-- R308. A READ_DONE payload arrives. -/
  | readDoneReceived (payload : List Byte)
  /-- R316. A REUNITE payload arrives. -/
  | reuniteReceived (payload : List Byte)
  /-- R304. A pair packet has had no acknowledgement for 100 us. -/
  | pairPacketTimeout (pseq : Nat)
  /-- R311. The comparison deadline of a chain for the frame that lights at a tick. -/
  | comparisonDeadline (chain frame : Nat)
  /-- R313. ACK_WAIT has passed since a DEPOSE with CAUSE 0. -/
  | deposeAckTimeout
  /-- R309. An announcement has not arrived ANN_MARGIN before its tick. -/
  | announcementMissing
  /-- R316. The ports beside a break have been read; whether all four are UP. -/
  | reunitePoll (chain : Nat) (up : Bool)
  /-- R320. 256 ticks in SUSPECT may have passed. -/
  | suspectTimeout
  /-- R324. 2 s have passed since JOINING began. -/
  | pairPortTimeout
  /-- R325. PAIR_TEST.HANDOVER is written 1. -/
  | pairTestHandover (path : RegPath)
  /-- R325. PAIR_TEST.FOREIGN is written 1. -/
  | pairTestForeign (path : RegPath)
  /-- R349. The ceiling check. -/
  | ceilingCheck
  /-- R352. A CEILING command arrives. -/
  | ceilingReceived (port : Nat) (packet : List Byte)
  /-- R469. The THROTTLE check of every 64 ticks. -/
  | wallThrottleCheck
  /-- R469. A THROTTLE command arrives at a tile. -/
  | throttleReceived (port : Nat) (packet : List Byte)
  /-- R352. The resending of every 256 ticks. -/
  | wallCmdResend
  /-- R427. A SLOT_MASK command arrives at a tile. -/
  | slotMaskReceived (port : Nat) (packet : List Byte)
  /-- R483. Every 64 ticks the serving unit reads its tiles. -/
  | admissionPoll
  /-- R484. An ADMIT command arrives at a tile. -/
  | admitReceived (port : Nat) (packet : List Byte)
  /-- R485. A RESTART command arrives at a tile. -/
  | restartReceived (port : Nat) (packet : List Byte)
  /-- R484. An ATTEST command arrives at a tile. -/
  | attestCommandReceived (port : Nat) (packet : List Byte)
  /-- R339. A blend update. -/
  | blendRequest (updates : List (Nat × List Byte))
  /-- R345. A board sensor has been read. -/
  | sensorRead (board value : Nat)
  /-- R391. The presence poll of a bus slot. -/
  | presencePoll (bus slot : Nat) (header : List Byte)
  /-- R392. The reads of an attachment are done. -/
  | attachReadsDone (board : Nat) (reads : Option (List (Nat × List Byte)))
  /-- R398. LBD_TEST.RELEASE is written 1 for a board. -/
  | boardRelease (board : Nat) (path : RegPath)
  /-- R406. LBD_TEST.RETEST is written 1 for a board. -/
  | boardRetest (board : Nat) (path : RegPath)
  /-- R400. The wear store timer. -/
  | wearStoreTimer
  /-- R401. A chunk has been written. -/
  | chunkWriteDone (bus : Nat) (ok : Bool)
  /-- R402. A store pass is done. -/
  | storePassDone (bus : Nat)
  /-- R406. The fault copy is written. -/
  | faultCopyWrite (board : Nat)
  /-- R411. A minute of unverified lighting. -/
  | unverifiedMinute
  /-- R412. The hourly persistence. -/
  | persistHourly
  /-- R63. An NVM program or erase of the records completes. -/
  | nvmWriteComplete
  /-- R423. An AUDIO packet arrives at a tile. -/
  | audioPacketReceived (port : Nat) (packet : List Byte)
  /-- R423. 1 ms before the samples of a tick are due. -/
  | audioPacketDeadline (tick : Nat)
  /-- R431. An audio frame at instant t: its BCLK periods, what its slots carry, and an overflow or underflow of the converter's buffer. -/
  | audioFrame (port t bclks : Nat) (slots : List Nat) (overflow underflow : Bool)
  /-- R431. BCLK is absent for more than 4 expected periods. -/
  | bclkLoss (port : Nat)
  /-- R431. BCLK returns. -/
  | bclkReturn (port : Nat)
  /-- R431. The converter of a port locks. -/
  | audioPortLocked (port : Nat)
  /-- R431. The fade of a port ends. -/
  | audioFadeDone (port : Nat)
  /-- R436. VDD_MTR rises; the level of MTR_CAL_EN and the domain's temperature in °C. -/
  | meterPowerOn (calEn : Bool) (temp : Int)
  /-- R441. A reporting interval ends: MTR_MCLK in Hz, the decimated voltage and current samples of each point, and the domain's
  temperature. -/
  | meterInterval (mclk : Nat) (samples : List (List (Int × Int))) (temp : Int)
  /-- R443. A bitstream shows no transition for 4,096 cycles. -/
  | bitstreamStuck (point : Nat)
  /-- R444. An energy save is due. -/
  | energySave
  /-- R450. A read of MTR_REC_REQ. -/
  | recordRequestRead (path : RegPath)
  /-- R450. A signed record is published. -/
  | recordSigned
  /-- R437. The shutdown notice arrives. -/
  | shutdownNotice
  /-- R458. The activation notice arrives; whether the written slot verifies. -/
  | meterActivationNotice (verified : Bool)
  /-- R447. MTR_CAL_EN is asserted. -/
  | calEnAssert
  /-- R447. MTR_CAL_EN is released. -/
  | calEnRelease
  /-- R453. Calibration command 1. -/
  | calStart (path : RegPath)
  /-- R453. Calibration command 2. -/
  | calZero (path : RegPath)
  /-- R453. Calibration command 3. -/
  | calVref (path : RegPath)
  /-- R453. Calibration command 4. -/
  | calIref (path : RegPath)
  /-- R453. Calibration command 5. -/
  | calDelay (path : RegPath)
  /-- R453, R455. Calibration command 6. -/
  | calCommit (path : RegPath)
  /-- R453. Calibration command 7. -/
  | calAbort (path : RegPath)
  /-- R453, R456. Calibration command 8. -/
  | calSeal (path : RegPath)
  /-- R453. Calibration command 0. -/
  | calNone (path : RegPath)
  /-- R453. A reserved calibration command. -/
  | calBadCmd (cmd : Nat) (path : RegPath)
  /-- R465. A model update at instant t: the diodes in 1/16 °C and each region's busy sums. -/
  | thermalModelUpdate (d0 d1 : Int) (busy : List (List Nat)) (t : Nat := 0)
  /-- R464. MTR_INTERVAL_LO has not advanced for 3 s. -/
  | meteringStaleTimeout
  /-- R468. A thermal evaluation. -/
  | thermalEvaluation
  /-- R474. THM_TEST.SHUTDOWN is written 1. -/
  | thmTestShutdown (path : RegPath)
  /-- R475. The pending writes of a shutdown end, or SHUT_TIMEOUT expires. -/
  | shutdownTimeout
  /-- R476. A diode reaches 125 degrees. -/
  | diodeTrip
  /-- R477. Both diodes have stayed at or below RESTART_T for 10 s; UMBER_N, the diode readings in 1/16 °C and the instant. -/
  | thermalRestart (umberLow : Bool) (d0 d1 : Int) (t : Nat)
  /-- R487. CTL_UMB_CMD is written with 0. -/
  | umberNone
  /-- R487. CTL_UMB_CMD is written with 1. -/
  | umberFormat
  /-- R487. CTL_UMB_CMD is written with 2. -/
  | umberOpen
  /-- R487. CTL_UMB_CMD is written with 3. -/
  | umberBlock
  /-- R487. A BLOCK has been programmed and read back. -/
  | umberBlockProgrammed (readback : Bool)
  /-- R487. CTL_UMB_CMD is written with 4. -/
  | umberClose
  /-- R487. CTL_UMB_CMD is written with 5. -/
  | umberDiscard
  /-- R487. CTL_UMB_CMD is written with 6; what a programmer has written before, in Umber mode of cause STRAP (R489). -/
  | umberRestart (programmed : List (Nat × List Byte) := [])
  /-- R487. CTL_UMB_CMD is written with 7. -/
  | umberBootActive
  /-- R487. CTL_UMB_CMD is written with a reserved command. -/
  | umberBadCmd (cmd : Nat)
  /-- R493. A STAGE entry with OP OPEN executes. -/
  | stageOpen (ring index : Nat)
  /-- R493. A STAGE entry with OP DATA executes; memory as its reads find it, and how many it has in flight. -/
  | stageData (ring index : Nat) (mem : HostData) (inFlight : Nat)
  /-- R493. A STAGE entry with OP CLOSE executes. -/
  | stageClose (ring index : Nat)
  /-- R493. A STAGE entry with OP DISCARD executes. -/
  | stageDiscard (ring index : Nat)
  /-- R493. A CLOSE entry reaches CLOSE_LIMIT. -/
  | stageCloseTimeout
  /-- R494. A STAGE packet with OP OPEN arrives at a tile. -/
  | stageOpenPacket (port : Nat) (packet : List Byte)
  /-- R494. A STAGE packet with OP DATA arrives at a tile. -/
  | stageDataPacket (port : Nat) (packet : List Byte)
  /-- R494. A STAGE packet with OP CLOSE arrives at a tile. -/
  | stageClosePacket (port : Nat) (packet : List Byte)
  /-- R494. A STAGE packet with OP DISCARD arrives at a tile. -/
  | stageDiscardPacket (port : Nat) (packet : List Byte)
  /-- R494. A STAGE packet with OP QUERY arrives at a tile. -/
  | stageQueryPacket (port : Nat) (packet : List Byte)
  /-- R494. A target has programmed its staging and read it back. -/
  | stageProgramDone (readback : Bool)
  /-- R498. A WALL_RESTART entry executes. -/
  | wallRestart (ring index : Nat)
  /-- R497. After OPERATIONAL the activation copy starts or resumes. -/
  | activationCopy
  /-- R497. A sector of the copy has been programmed and read back; `same`: it reads back as it was programmed. -/
  | activationSectorDone (sector : Nat) (same : Bool)
  /-- R499. An ATTEST entry with TKIND LOCAL (or a reserved TKIND) executes. -/
  | attestLocal (ring index : Nat)
  /-- R499. An ATTEST entry with TKIND TILE executes. -/
  | attestTile (ring index : Nat)
  /-- R500. A signed report is published. -/
  | attestReportDone
  /-- R505. A write of CTL_EVT_STATUS[i]; `coincident` names the events that occur in the same cycle. -/
  | eventStatusClear (path : RegPath) (i value : Nat) (coincident : List Nat)
  /-- R507. A write of CTL_EVT_MASK[i]. -/
  | eventMaskWrite (path : RegPath) (i value : Nat)
  /-- R518. CTL_CNT_GLOBAL.SNAP is written 1. -/
  | counterSnap (path : RegPath)
  /-- R518. CTL_CNT_GLOBAL.CLEAR is written 1. -/
  | counterClear (path : RegPath)
  /-- R518. CTL_CNT_CFG[c].RESET is written 1. -/
  | counterReset (path : RegPath) (c : Nat)
  /-- R517. A counter of cycles passes 2^48 - 1. -/
  | counterWrap (c : Nat)
  /-- R523. A cell's storage fault (or a failed consistency check) on a row; whether the retry fails too; UMBER_N as a restart would
  sample it. -/
  | cellFault (region block cell chain position row : Nat) (check again umberLow : Bool)
  /-- R522. A cell has made no progress on a row for 1 ms; whether the retry stalls too. -/
  | cellStall (region block cell chain position row : Nat) (again umberLow : Bool)
  /-- R525. An error in a block's arbiter or shared buffer. -/
  | blockFault (region block : Nat) (umberLow : Bool)
  /-- R525. A block's restart completes. -/
  | blockRestartDone (region block : Nat)
  /-- R523. A block's restart may be overdue. -/
  | blockRestartTimeout (region block : Nat) (umberLow : Bool)
  /-- R526. An error in a region's operation table or interconnect port. -/
  | regionFault (region : Nat) (umberLow : Bool)
  /-- R527. Reinitialisation of a fenced region completes; its channels that train afresh, with their settings, and those whose training
fails (R161, R162). -/
  | regionReturn (region : Nat) (retrained : List (Nat × List Byte)) (failed : List Nat := [])
  /-- R529. A chip-level error of the control complex. -/
  | chipError (cell : Nat) (umberLow : Bool)
  /-- R522. The run-time firmware watchdog of a core expires. -/
  | firmwareWatchdogExpiry (core : Nat) (umberLow : Bool)
  /-- R556. A test-logic reset of the debug port. -/
  | jtagReset
  /-- R556. EXTEST is selected and the boundary register is updated with `levels`. -/
  | jtagExtest (levels : Nat)
  /-- R556. SAMPLE/PRELOAD: `width` pins are sampled and `levels` are shifted in. -/
  | jtagSamplePreload (pins levels width : Nat)
  /-- R556. BYPASS or an unlisted code is selected. -/
  | jtagBypass (code : Nat)
  /-- R557. Update-DR of REGACC with the 54 bits `dr`; `busy`: the previous access has not completed. -/
  | jtagRegaccUpdate (dr : Nat) (busy : Bool)
  /-- R557. Capture-DR of REGACC. -/
  | jtagRegaccCapture
  /-- R103. The host writes PCIe configuration space. -/
  | configurationWrite (access : ConfigWrite)
  /-- R124. The link changes speed or width while staying up. -/
  | pcieLinkSpeedChange (speed width : Nat)
  /-- R124. A correctable error is logged in AER. -/
  | pcieCorrectableError
  /-- R289. A return cell that fails its checks arrives. -/
  | cellDrop (port : Nat) (cell : List Byte)
  /-- R304. A pair packet with a reserved PTYPE arrives. -/
  | pairPacketReserved (ptype : Nat)
  /-- R436. VDD_MTR falls below its threshold. -/
  | meterPowerLoss
  /-- R547. PWRGOOD falls. -/
  | pwrgoodFall
  /-- R546. The rail recovers. -/
  | monitoredRailRecovery (umberLow : Bool) (diode0 diode1 : Int) (t : Nat)
  /-- R51. The mean of the diode readings crosses the write window's limits. -/
  | diodeWindowChange (diode0 diode1 : Int)
deriving DecidableEq, Repr

end Sys2Proof
end

