-- ==== Sys2Proof/Config.lean ====
section
/-! DEFINITION. What an implementation fixes and the spec leaves open: constants without a body, so that no proof can
see a value of them. Each names its assumption-log entry. -/

namespace Sys2Proof

/-- The free values (log 2): the k-th value the device produces that the spec does not state. A step takes the next `k`
from `Io.fresh`. -/
opaque Config.freeNat : Nat → Nat

/-- The set of a translation cache that a page of a context falls in: 256 sets (R133); the hash is not stated (log 11). -/
opaque Config.tcSet : Nat → Nat → Nat

/-- The Tamtonus public keys that OTP holds (R48): modulus and exponent by key identity, none where OTP holds no key of that
identity (log 12). -/
opaque Config.tamtonusKey : List Byte → Option (Nat × Nat)

/-- The integrator public key that a key identity names (R48): modulus and exponent. Where the device finds it is not stated (log 12). -/
opaque Config.integratorKey : List Byte → Nat × Nat

/-- The metering public key (R46, R451): modulus and exponent (log 12). -/
opaque Config.meterKey : Nat × Nat

/-- The sealing key of the metering domain's key block, modulus and exponent, and the hash of it that the metering OTP holds (R445, R456)
(log 12). -/
opaque Config.sealingKey : Nat × Nat
opaque Config.sealingKeyHash : List Byte

/-- The signature that a device's own key makes over a byte string (R450, R500) (log 12). -/
opaque Config.sign : Nat → List Byte → List Byte

/-- The record format version that the running firmware supports for an RTYPE (R64), and its version as a whole (log 18). -/
opaque Config.fwVersion : Nat → Nat
opaque Config.fwPersistVersion : Nat

/-- What section 0x000B gives a port, the pair port as 16, at a rate (R298): TX_PRESET, the starting CTLE and three starting taps as
register codes (log 47). -/
opaque Config.lanePreset : List Byte → Nat → Nat → List Nat

/-- The conversion of a record of an RTYPE from an older version to the supported one (R64) (log 18). -/
opaque Config.convertRecord : Nat → Nat → List Byte → List Byte

/-- The SHA-512 of the boot ROM, and the identity of the device key (R500) (log 12). -/
opaque Config.romDigest : List Byte
opaque Config.deviceKeyId : List Byte

/-- The digest of the metering firmware in force (R500) (log 12). -/
opaque Config.meterDigest : List Byte

/-- The code word length of a lamp that has no driver channel, by its slice pixel and colour, before it is brought into the range
of R363 (log 30). -/
opaque Config.freeWordBits : Nat → Nat → Nat → Nat

/-- The version that a metering firmware section states, and the identity of the metering key (R451, R458) (log 12). -/
opaque Config.meterVersion : List Byte → Nat
opaque Config.meterKeyId : List Byte

end Sys2Proof
end

