-- ==== Sys2Proof/Machine/Bytes.lean ====
section
/-! DEFINITION. Byte order, bit ranges and the sparse canonical list by which memories and register files are held. -/

namespace Sys2Proof.Machine

/-- Bits [lo + width - 1 : lo] of `v`. -/
def bits (v lo width : Nat) : Nat := v / 2 ^ lo % 2 ^ width

/-- Bit `i` of `v`. -/
def bit (v i : Nat) : Bool := v / 2 ^ i % 2 = 1

/-- `v` with bits [lo + width - 1 : lo] replaced by the low bits of `x`. -/
def putBits (v lo width x : Nat) : Nat :=
  v / 2 ^ (lo + width) * 2 ^ (lo + width) + x % 2 ^ width * 2 ^ lo + v % 2 ^ lo

/-- One bit as a number. -/
def flag (b : Bool) : Nat := if b then 1 else 0

/-- The value of a little-endian byte string (R15). -/
def leNat : List Byte → Nat
  | [] => 0
  | b :: t => b.toNat + 256 * leNat t

/-- The `n` bytes of `v`, little-endian (R15). -/
def leBytes : Nat → Nat → List Byte
  | 0, _ => []
  | n + 1, v => BitVec.ofNat 8 v :: leBytes n (v / 256)

/-- `n` zero bytes. -/
def zeros (n : Nat) : List Byte := List.replicate n 0

/-- Bytes `[off, off + len)` of a byte string; bytes beyond its end read 0. -/
def sub (bs : List Byte) (off len : Nat) : List Byte :=
  let t := (bs.drop off).take len
  t ++ zeros (len - t.length)

/-- The little-endian field of `len` bytes at offset `off`. -/
def fieldAt (bs : List Byte) (off len : Nat) : Nat := leNat (sub bs off len)

/-- Whether bytes `[off, off + len)` are all 0. -/
def allZero (bs : List Byte) (off len : Nat) : Bool := (sub bs off len).all (· == 0)

/-- The two's complement reading of a `w`-bit value. -/
def signed (w v : Nat) : Int := if v % 2 ^ w < 2 ^ (w - 1) then (v % 2 ^ w : Nat) else ((v % 2 ^ w : Nat) : Int) - (2 ^ w : Nat)

/-- The `w`-bit two's complement code of `x`. -/
def unsigned (w : Nat) (x : Int) : Nat := (x % (2 ^ w : Nat)).toNat

/-- `x` clamped to the range from `lo` to `hi`. -/
def clampN (lo hi x : Nat) : Nat := if x < lo then lo else if hi < x then hi else x

/-- `x` clamped to the range from `lo` to `hi`. -/
def clampI (lo hi x : Int) : Int := if x < lo then lo else if hi < x then hi else x

/-- The quotient rounded up. -/
def ceilDiv (a b : Nat) : Nat := (a + b - 1) / b

/-- Entry `i` of a list of numbers; 0 beyond its end. -/
def nth (l : List Nat) (i : Nat) : Nat := l.getD i 0

/-- `l` with entry `i` replaced (unchanged when `i` is beyond its end). -/
def setNth {α : Type} : List α → Nat → α → List α
  | [], _, _ => []
  | _ :: t, 0, v => v :: t
  | x :: t, i + 1, v => x :: setNth t i v

/-- What a sparse list reads at `a`: the listed value, or `d a` where nothing is listed. -/
def Sparse.get {α : Type} (d : Nat → α) : List (Nat × α) → Nat → α
  | [], a => d a
  | (k, v) :: t, a => if k = a then v else Sparse.get d t a

/-- `l` without the entries of `a`. -/
def Sparse.erase {α : Type} (l : List (Nat × α)) (a : Nat) : List (Nat × α) :=
  l.filter (fun p => p.1 != a)

/-- `(a, v)` entered before the first larger address. -/
def Sparse.ins {α : Type} : List (Nat × α) → Nat → α → List (Nat × α)
  | [], a, v => [(a, v)]
  | (k, w) :: t, a, v => if k < a then (k, w) :: Sparse.ins t a v else (a, v) :: (k, w) :: t

/-- `l` with `v` at `a`, in canonical form: no entry is listed that equals what an unlisted address reads as. -/
def Sparse.set {α : Type} [DecidableEq α] (d : Nat → α) (l : List (Nat × α)) (a : Nat) (v : α) : List (Nat × α) :=
  if v = d a then Sparse.erase l a else Sparse.ins (Sparse.erase l a) a v

/-- Whether every address of `l` is above `a`, and the addresses rise. -/
def Sparse.rising {α : Type} : List (Nat × α) → Bool
  | [] => true
  | [_] => true
  | (a, _) :: (b, w) :: t => decide (a < b) && Sparse.rising ((b, w) :: t)

/-- The canonical form: addresses strictly rising, no entry equal to the unlisted value. -/
def Sparse.wf {α : Type} [DecidableEq α] (d : Nat → α) (l : List (Nat × α)) : Bool :=
  Sparse.rising l && l.all (fun p => decide (p.2 ≠ d p.1))

/-- What a byte of device DRAM reads as when nothing has written it (DESIGN CHOICE, log 3). -/
def dramDefault (_ : Nat) : Byte := 0

/-- `bs` written to the sparse byte memory from address `a` up. -/
def memWrite (d : Nat → Byte) : List (Nat × Byte) → Nat → List Byte → List (Nat × Byte)
  | m, _, [] => m
  | m, a, b :: t => memWrite d (Sparse.set d m a b) (a + 1) t

/-- The `n` bytes of the sparse byte memory from address `a` up. -/
def memRead (d : Nat → Byte) (m : List (Nat × Byte)) (a : Nat) : Nat → List Byte
  | 0 => []
  | n + 1 => Sparse.get d m a :: memRead d m (a + 1) n

end Sys2Proof.Machine
end

