-- ==== Sys2Proof/Machine/RegMap.lean ====
section
/-! DEFINITION. The register map of BAR0: one address function `Reg.X` for each register of the spec's register tables,
one field `Fld.X_F` for each of its fields (R34 to R36 place the pages and the region windows), and the access table that
`REGISTER_WRITE` and the resets consult (R10). The rule that tables a register is named beside it. An index counts modulo the
number of copies; the chain-port registers have one copy more, of region 4, that keeps the pair port's and has no offset in
the table. -/

namespace Sys2Proof.Machine

/-- A bit field of a register: the register's BAR0 offset, the field's lowest bit and its width. -/
structure Field where
  reg : Nat
  lo : Nat
  width : Nat
deriving DecidableEq, Repr

/-- One row of the access table: a register kind, its copies (count and stride, outermost first), its value at reset
(`reset + mul * index`), the bits of each access code of R10 (a bit in none of the masks is RO or RSV), and what resets
it: 0 every device reset, 1 power-on only, 2 a reset of the metering domain only, 3 nothing (fuses and OTP). -/
structure RegRow where
  base : Nat
  dims : List (Nat × Nat)
  reset : Nat
  mul : Nat
  rw : Nat
  rwl : Nat
  w1c : Nat
  w1s : Nat
  rc : Nat
  keep : Nat
deriving DecidableEq, Repr

/-- R6. -/
def Reg.CTL_VARIANT : Nat := 0x10
def Fld.CTL_VARIANT_PART : Field := ⟨Reg.CTL_VARIANT, 0, 8⟩
def Fld.CTL_VARIANT_ROLE : Field := ⟨Reg.CTL_VARIANT, 8, 2⟩
def Fld.CTL_VARIANT_REGION_MASK : Field := ⟨Reg.CTL_VARIANT, 10, 4⟩
def Fld.CTL_VARIANT_PAIR_PORT : Field := ⟨Reg.CTL_VARIANT, 14, 1⟩
def Fld.CTL_VARIANT_METER_SEALED : Field := ⟨Reg.CTL_VARIANT, 15, 1⟩
def Fld.CTL_VARIANT_METER_FITTED : Field := ⟨Reg.CTL_VARIANT, 16, 1⟩
def Fld.CTL_VARIANT_PKG : Field := ⟨Reg.CTL_VARIANT, 17, 1⟩
def Fld.CTL_VARIANT_PCIE_WIDTH : Field := ⟨Reg.CTL_VARIANT, 18, 2⟩
def Fld.CTL_VARIANT_STEPPING : Field := ⟨Reg.CTL_VARIANT, 20, 4⟩
/-- R26. -/
def Reg.CTL_TILE_ADDR : Nat := 0x14
def Fld.CTL_TILE_ADDR_POSITION : Field := ⟨Reg.CTL_TILE_ADDR, 0, 6⟩
def Fld.CTL_TILE_ADDR_CHAIN : Field := ⟨Reg.CTL_TILE_ADDR, 6, 4⟩
def Fld.CTL_TILE_ADDR_UPSTREAM : Field := ⟨Reg.CTL_TILE_ADDR, 10, 1⟩
def Fld.CTL_TILE_ADDR_VALID : Field := ⟨Reg.CTL_TILE_ADDR, 11, 1⟩
def Fld.CTL_TILE_ADDR_LOCAL : Field := ⟨Reg.CTL_TILE_ADDR, 12, 1⟩
/-- R61. -/
def Reg.CTL_IMG_INFO : Nat := 0x100
def Fld.CTL_IMG_INFO_FORMAT_MINOR : Field := ⟨Reg.CTL_IMG_INFO, 0, 16⟩
def Fld.CTL_IMG_INFO_FORMAT_MAJOR : Field := ⟨Reg.CTL_IMG_INFO, 16, 4⟩
def Fld.CTL_IMG_INFO_SECTIONS : Field := ⟨Reg.CTL_IMG_INFO, 20, 7⟩
def Fld.CTL_IMG_INFO_INTEGRATOR : Field := ⟨Reg.CTL_IMG_INFO, 27, 1⟩
def Fld.CTL_IMG_INFO_HOSTLESS : Field := ⟨Reg.CTL_IMG_INFO, 28, 1⟩
def Fld.CTL_IMG_INFO_PAIR_IMAGE : Field := ⟨Reg.CTL_IMG_INFO, 29, 1⟩
/-- R61. -/
def Reg.CTL_IMG_ROLLBACK : Nat := 0x104
def Fld.CTL_IMG_ROLLBACK : Field := ⟨Reg.CTL_IMG_ROLLBACK, 0, 32⟩
/-- R61. -/
def Reg.CTL_IMG_WALL_SEQ : Nat := 0x108
def Fld.CTL_IMG_WALL_SEQ : Field := ⟨Reg.CTL_IMG_WALL_SEQ, 0, 32⟩
/-- R61. -/
def Reg.CTL_IMG_WALL_ID_LO : Nat := 0x10c
def Fld.CTL_IMG_WALL_ID_LO : Field := ⟨Reg.CTL_IMG_WALL_ID_LO, 0, 32⟩
/-- R61. -/
def Reg.CTL_IMG_WALL_ID_HI : Nat := 0x110
def Fld.CTL_IMG_WALL_ID_HI : Field := ⟨Reg.CTL_IMG_WALL_ID_HI, 0, 32⟩
/-- R61. -/
def Reg.CTL_IMG_DEFECT : Nat := 0x114
def Fld.CTL_IMG_DEFECT_CODE : Field := ⟨Reg.CTL_IMG_DEFECT, 0, 8⟩
def Fld.CTL_IMG_DEFECT_SECTION : Field := ⟨Reg.CTL_IMG_DEFECT, 8, 6⟩
def Fld.CTL_IMG_DEFECT_VALID : Field := ⟨Reg.CTL_IMG_DEFECT, 14, 1⟩
def Fld.CTL_IMG_DEFECT_SECTION_VALID : Field := ⟨Reg.CTL_IMG_DEFECT, 15, 1⟩
/-- R61. -/
def Reg.CTL_IMG_COMPILER : Nat := 0x118
def Fld.CTL_IMG_COMPILER : Field := ⟨Reg.CTL_IMG_COMPILER, 0, 32⟩
/-- R61. -/
def Reg.CTL_IMG_DIGEST (n : Nat) : Nat := 0x140 + 4 * (n % 16)
def Fld.CTL_IMG_DIGEST (n : Nat) : Field := ⟨(Reg.CTL_IMG_DIGEST n), 0, 32⟩
/-- R98. -/
def Reg.TCK_STATE : Nat := 0x20000
def Fld.TCK_STATE_MODE : Field := ⟨Reg.TCK_STATE, 0, 3⟩
def Fld.TCK_STATE_SOURCE : Field := ⟨Reg.TCK_STATE, 4, 2⟩
def Fld.TCK_STATE_RATE_SET : Field := ⟨Reg.TCK_STATE, 8, 3⟩
def Fld.TCK_STATE_REF_PRESENT : Field := ⟨Reg.TCK_STATE, 11, 1⟩
def Fld.TCK_STATE_REPEAT_PENDING : Field := ⟨Reg.TCK_STATE, 12, 1⟩
def Fld.TCK_STATE_END : Field := ⟨Reg.TCK_STATE, 13, 1⟩
def Fld.TCK_STATE_ALIGN_FAULT : Field := ⟨Reg.TCK_STATE, 14, 1⟩
/-- R98. -/
def Reg.TCK_COUNT_LO : Nat := 0x20004
def Fld.TCK_COUNT_LO : Field := ⟨Reg.TCK_COUNT_LO, 0, 32⟩
/-- R98. -/
def Reg.TCK_COUNT_HI : Nat := 0x20008
def Fld.TCK_COUNT_HI : Field := ⟨Reg.TCK_COUNT_HI, 0, 16⟩
/-- R98. -/
def Reg.TCK_PERIOD : Nat := 0x2000c
def Fld.TCK_PERIOD : Field := ⟨Reg.TCK_PERIOD, 0, 32⟩
/-- R98. -/
def Reg.TCK_REF_PERIOD : Nat := 0x20010
def Fld.TCK_REF_PERIOD : Field := ⟨Reg.TCK_REF_PERIOD, 0, 32⟩
/-- R98. -/
def Reg.TCK_PHASE_ERR : Nat := 0x20014
def Fld.TCK_PHASE_ERR : Field := ⟨Reg.TCK_PHASE_ERR, 0, 32⟩
/-- R98. -/
def Reg.TCK_GLK_CFG : Nat := 0x20018
def Fld.TCK_GLK_CFG_ENABLE : Field := ⟨Reg.TCK_GLK_CFG, 0, 1⟩
def Fld.TCK_GLK_CFG_POLARITY : Field := ⟨Reg.TCK_GLK_CFG, 1, 1⟩
def Fld.TCK_GLK_CFG_INPUT : Field := ⟨Reg.TCK_GLK_CFG, 2, 1⟩
def Fld.TCK_GLK_CFG_POLICY : Field := ⟨Reg.TCK_GLK_CFG, 3, 1⟩
def Fld.TCK_GLK_CFG_PHASE_OFFSET : Field := ⟨Reg.TCK_GLK_CFG, 8, 24⟩
/-- R98. -/
def Reg.TCK_GLK_OUT : Nat := 0x2001c
def Fld.TCK_GLK_OUT_ENABLE : Field := ⟨Reg.TCK_GLK_OUT, 0, 1⟩
def Fld.TCK_GLK_OUT_POLARITY : Field := ⟨Reg.TCK_GLK_OUT, 1, 1⟩
def Fld.TCK_GLK_OUT_WIDTH : Field := ⟨Reg.TCK_GLK_OUT, 8, 8⟩
/-- R98. -/
def Reg.TCK_GLITCH_COUNT : Nat := 0x20020
def Fld.TCK_GLITCH_COUNT : Field := ⟨Reg.TCK_GLITCH_COUNT, 0, 32⟩
/-- R98. -/
def Reg.TCK_MISS_COUNT : Nat := 0x20024
def Fld.TCK_MISS_COUNT : Field := ⟨Reg.TCK_MISS_COUNT, 0, 32⟩
/-- R98. -/
def Reg.TCK_REPEAT_COUNT : Nat := 0x20028
def Fld.TCK_REPEAT_COUNT : Field := ⟨Reg.TCK_REPEAT_COUNT, 0, 32⟩
/-- R98. -/
def Reg.TCK_MARKER_LEAD : Nat := 0x2002c
def Fld.TCK_MARKER_LEAD : Field := ⟨Reg.TCK_MARKER_LEAD, 0, 24⟩
/-- R98. -/
def Reg.TCK_TEST : Nat := 0x20030
def Fld.TCK_TEST_REF_MASK : Field := ⟨Reg.TCK_TEST, 0, 1⟩
/-- R98. -/
def Reg.TCK_DELAY_A : Nat := 0x20040
def Fld.TCK_DELAY_A_VALUE : Field := ⟨Reg.TCK_DELAY_A, 0, 24⟩
def Fld.TCK_DELAY_A_VALID : Field := ⟨Reg.TCK_DELAY_A, 31, 1⟩
/-- R98. -/
def Reg.TCK_DELAY_B : Nat := 0x20044
def Fld.TCK_DELAY_B_VALUE : Field := ⟨Reg.TCK_DELAY_B, 0, 24⟩
def Fld.TCK_DELAY_B_VALID : Field := ⟨Reg.TCK_DELAY_B, 31, 1⟩
/-- R98. -/
def Reg.TCK_REPEAT_H : Nat := 0x20048
def Fld.TCK_REPEAT_H : Field := ⟨Reg.TCK_REPEAT_H, 0, 24⟩
/-- R98. -/
def Reg.TCK_MARKER_ERR : Nat := 0x2004c
def Fld.TCK_MARKER_ERR : Field := ⟨Reg.TCK_MARKER_ERR, 0, 32⟩
/-- R98. -/
def Reg.TCK_END_DELAY (n : Nat) : Nat := 0x20080 + 4 * (n % 16)
def Fld.TCK_END_DELAY_VALUE (n : Nat) : Field := ⟨(Reg.TCK_END_DELAY n), 0, 24⟩
def Fld.TCK_END_DELAY_VALID (n : Nat) : Field := ⟨(Reg.TCK_END_DELAY n), 31, 1⟩
/-- R98. -/
def Reg.TCK_HOP_DELAY (n i : Nat) : Nat := 0x21000 + 0x100 * (n % 16) + 4 * (i % 64)
def Fld.TCK_HOP_DELAY_VALUE (n i : Nat) : Field := ⟨(Reg.TCK_HOP_DELAY n i), 0, 24⟩
def Fld.TCK_HOP_DELAY_VALID (n i : Nat) : Field := ⟨(Reg.TCK_HOP_DELAY n i), 31, 1⟩
/-- R99. -/
def Reg.TCK_SLOT_STAT (n : Nat) : Nat := 0x24000 + 0x4000 * (n % 4)
def Fld.TCK_SLOT_STAT_CURRENT (n : Nat) : Field := ⟨(Reg.TCK_SLOT_STAT n), 0, 12⟩
def Fld.TCK_SLOT_STAT_LATE (n : Nat) : Field := ⟨(Reg.TCK_SLOT_STAT n), 12, 1⟩
/-- R99. -/
def Reg.TCK_LATE_MAX (n : Nat) : Nat := 0x24004 + 0x4000 * (n % 4)
def Fld.TCK_LATE_MAX (n : Nat) : Field := ⟨(Reg.TCK_LATE_MAX n), 0, 24⟩
/-- R99. -/
def Reg.TCK_OVERRUN_COUNT (n : Nat) : Nat := 0x24008 + 0x4000 * (n % 4)
def Fld.TCK_OVERRUN_COUNT (n : Nat) : Field := ⟨(Reg.TCK_OVERRUN_COUNT n), 0, 32⟩
/-- R99. -/
def Reg.TCK_CUT_COUNT (n : Nat) : Nat := 0x2400c + 0x4000 * (n % 4)
def Fld.TCK_CUT_COUNT (n : Nat) : Field := ⟨(Reg.TCK_CUT_COUNT n), 0, 32⟩
/-- R99. -/
def Reg.TCK_SLOTS (n : Nat) : Nat := 0x24010 + 0x4000 * (n % 4)
def Fld.TCK_SLOTS (n : Nat) : Field := ⟨(Reg.TCK_SLOTS n), 0, 13⟩
/-- R123. -/
def Reg.HRG_LINK : Nat := 0x40000
def Fld.HRG_LINK_SPEED : Field := ⟨Reg.HRG_LINK, 0, 4⟩
def Fld.HRG_LINK_WIDTH : Field := ⟨Reg.HRG_LINK, 4, 5⟩
def Fld.HRG_LINK_TAG10 : Field := ⟨Reg.HRG_LINK, 9, 1⟩
/-- R123. -/
def Reg.HRG_RIGHTS : Nat := 0x40004
def Fld.HRG_RIGHTS_CONTROL : Field := ⟨Reg.HRG_RIGHTS, 0, 1⟩
def Fld.HRG_RIGHTS_COMMIT : Field := ⟨Reg.HRG_RIGHTS, 1, 1⟩
def Fld.HRG_RIGHTS_AUDIO : Field := ⟨Reg.HRG_RIGHTS, 2, 1⟩
def Fld.HRG_RIGHTS_CAPTURE : Field := ⟨Reg.HRG_RIGHTS, 3, 1⟩
def Fld.HRG_RIGHTS_BULK : Field := ⟨Reg.HRG_RIGHTS, 4, 1⟩
def Fld.HRG_RIGHTS_EVENT : Field := ⟨Reg.HRG_RIGHTS, 5, 1⟩
/-- R123. -/
def Reg.HRG_RING0_SQ_LO : Nat := 0x40008
def Fld.HRG_RING0_SQ_LO : Field := ⟨Reg.HRG_RING0_SQ_LO, 0, 32⟩
/-- R123. -/
def Reg.HRG_RING0_SQ_HI : Nat := 0x4000c
def Fld.HRG_RING0_SQ_HI : Field := ⟨Reg.HRG_RING0_SQ_HI, 0, 32⟩
/-- R123. -/
def Reg.HRG_RING0_CQ_LO : Nat := 0x40010
def Fld.HRG_RING0_CQ_LO : Field := ⟨Reg.HRG_RING0_CQ_LO, 0, 32⟩
/-- R123. -/
def Reg.HRG_RING0_CQ_HI : Nat := 0x40014
def Fld.HRG_RING0_CQ_HI : Field := ⟨Reg.HRG_RING0_CQ_HI, 0, 32⟩
/-- R123. -/
def Reg.HRG_FETCH_CFG : Nat := 0x40018
def Fld.HRG_FETCH_CFG_MAX_FETCH : Field := ⟨Reg.HRG_FETCH_CFG, 0, 7⟩
def Fld.HRG_FETCH_CFG_MAX_NP : Field := ⟨Reg.HRG_FETCH_CFG, 16, 10⟩
/-- R123. -/
def Reg.HRG_CPL_TIMEOUT : Nat := 0x4001c
def Fld.HRG_CPL_TIMEOUT : Field := ⟨Reg.HRG_CPL_TIMEOUT, 0, 20⟩
/-- R123. -/
def Reg.HRG_DB_IGNORED : Nat := 0x40020
def Fld.HRG_DB_IGNORED : Field := ⟨Reg.HRG_DB_IGNORED, 0, 32⟩
/-- R123. -/
def Reg.HRG_RING_ERRORS : Nat := 0x40024
def Fld.HRG_RING_ERRORS : Field := ⟨Reg.HRG_RING_ERRORS, 0, 32⟩
/-- R123. -/
def Reg.HRG_LAST_ERR : Nat := 0x40028
def Fld.HRG_LAST_ERR_RING : Field := ⟨Reg.HRG_LAST_ERR, 0, 16⟩
def Fld.HRG_LAST_ERR_CODE : Field := ⟨Reg.HRG_LAST_ERR, 16, 8⟩
/-- R123. -/
def Reg.HRG_FN_RESETS : Nat := 0x4002c
def Fld.HRG_FN_RESETS : Field := ⟨Reg.HRG_FN_RESETS, 0, 32⟩
/-- R123. -/
def Reg.HRG_OUTSTANDING : Nat := 0x40030
def Fld.HRG_OUTSTANDING_NP_READS : Field := ⟨Reg.HRG_OUTSTANDING, 0, 10⟩
def Fld.HRG_OUTSTANDING_FETCHES : Field := ⟨Reg.HRG_OUTSTANDING, 10, 7⟩
/-- R123. -/
def Reg.HRG_EVT_VEC (n : Nat) : Nat := 0x40800 + 4 * (n % 256)
def Fld.HRG_EVT_VEC_VEC_EVEN (n : Nat) : Field := ⟨(Reg.HRG_EVT_VEC n), 0, 9⟩
def Fld.HRG_EVT_VEC_VEC_ODD (n : Nat) : Field := ⟨(Reg.HRG_EVT_VEC n), 16, 9⟩
/-- R144. -/
def Reg.XLT_OPT_CFG : Nat := 0x60000
def Fld.XLT_OPT_CFG_RT_BORROW : Field := ⟨Reg.XLT_OPT_CFG, 0, 10⟩
def Fld.XLT_OPT_CFG_ISO_BORROW : Field := ⟨Reg.XLT_OPT_CFG, 10, 10⟩
def Fld.XLT_OPT_CFG_MGT_BORROW : Field := ⟨Reg.XLT_OPT_CFG, 20, 10⟩
/-- R144. -/
def Reg.XLT_OPT_HOST : Nat := 0x60004
def Fld.XLT_OPT_HOST_RT_HOST : Field := ⟨Reg.XLT_OPT_HOST, 0, 10⟩
/-- R144. -/
def Reg.XLT_WALKS : Nat := 0x60008
def Fld.XLT_WALKS_IN_FLIGHT : Field := ⟨Reg.XLT_WALKS, 0, 5⟩
def Fld.XLT_WALKS_WAITING : Field := ⟨Reg.XLT_WALKS, 16, 12⟩
/-- R144. -/
def Reg.XLT_WALK_COUNT : Nat := 0x6000c
def Fld.XLT_WALK_COUNT : Field := ⟨Reg.XLT_WALK_COUNT, 0, 32⟩
/-- R144. -/
def Reg.XLT_FAULT_COUNT : Nat := 0x60010
def Fld.XLT_FAULT_COUNT : Field := ⟨Reg.XLT_FAULT_COUNT, 0, 32⟩
/-- R144. -/
def Reg.XLT_INVAL_COUNT : Nat := 0x60014
def Fld.XLT_INVAL_COUNT : Field := ⟨Reg.XLT_INVAL_COUNT, 0, 32⟩
/-- R144. -/
def Reg.XLT_DMA_ACTIVE : Nat := 0x60018
def Fld.XLT_DMA_ACTIVE_COPIES : Field := ⟨Reg.XLT_DMA_ACTIVE, 0, 5⟩
/-- R144. -/
def Reg.XLT_CTX_MODE (n : Nat) : Nat := 0x61000 + 0x10 * (n % 256)
def Fld.XLT_CTX_MODE_MODE (n : Nat) : Field := ⟨(Reg.XLT_CTX_MODE n), 0, 2⟩
def Fld.XLT_CTX_MODE_WIDTH (n : Nat) : Field := ⟨(Reg.XLT_CTX_MODE n), 2, 1⟩
/-- R144. -/
def Reg.XLT_CTX_ROOT_LO (n : Nat) : Nat := 0x61004 + 0x10 * (n % 256)
def Fld.XLT_CTX_ROOT_LO (n : Nat) : Field := ⟨(Reg.XLT_CTX_ROOT_LO n), 0, 32⟩
/-- R144. -/
def Reg.XLT_CTX_ROOT_HI (n : Nat) : Nat := 0x61008 + 0x10 * (n % 256)
def Fld.XLT_CTX_ROOT_HI (n : Nat) : Field := ⟨(Reg.XLT_CTX_ROOT_HI n), 0, 32⟩
/-- R145. -/
def Reg.XLT_OPT_USE_A (n : Nat) : Nat := 0x64000 + 0x4000 * (n % 4)
def Fld.XLT_OPT_USE_A_RT (n : Nat) : Field := ⟨(Reg.XLT_OPT_USE_A n), 0, 10⟩
def Fld.XLT_OPT_USE_A_ISO (n : Nat) : Field := ⟨(Reg.XLT_OPT_USE_A n), 10, 10⟩
def Fld.XLT_OPT_USE_A_MGT (n : Nat) : Field := ⟨(Reg.XLT_OPT_USE_A n), 20, 10⟩
/-- R145. -/
def Reg.XLT_OPT_USE_B (n : Nat) : Nat := 0x64004 + 0x4000 * (n % 4)
def Fld.XLT_OPT_USE_B_BULK (n : Nat) : Field := ⟨(Reg.XLT_OPT_USE_B n), 0, 10⟩
def Fld.XLT_OPT_USE_B_TOTAL (n : Nat) : Field := ⟨(Reg.XLT_OPT_USE_B n), 10, 11⟩
/-- R145. -/
def Reg.XLT_OPT_PEAK (n : Nat) : Nat := 0x64008 + 0x4000 * (n % 4)
def Fld.XLT_OPT_PEAK (n : Nat) : Field := ⟨(Reg.XLT_OPT_PEAK n), 0, 11⟩
/-- R145. -/
def Reg.XLT_HELD_COUNT (n : Nat) : Nat := 0x6400c + 0x4000 * (n % 4)
def Fld.XLT_HELD_COUNT (n : Nat) : Field := ⟨(Reg.XLT_HELD_COUNT n), 0, 32⟩
/-- R145. -/
def Reg.XLT_TC_HIT (n : Nat) : Nat := 0x64010 + 0x4000 * (n % 4)
def Fld.XLT_TC_HIT (n : Nat) : Field := ⟨(Reg.XLT_TC_HIT n), 0, 32⟩
/-- R145. -/
def Reg.XLT_TC_MISS (n : Nat) : Nat := 0x64014 + 0x4000 * (n % 4)
def Fld.XLT_TC_MISS (n : Nat) : Field := ⟨(Reg.XLT_TC_MISS n), 0, 32⟩
/-- R145. -/
def Reg.XLT_FAULT_HEAD (n : Nat) : Nat := 0x64018 + 0x4000 * (n % 4)
def Fld.XLT_FAULT_HEAD_NEXT (n : Nat) : Field := ⟨(Reg.XLT_FAULT_HEAD n), 0, 4⟩
def Fld.XLT_FAULT_HEAD_WRAPPED (n : Nat) : Field := ⟨(Reg.XLT_FAULT_HEAD n), 4, 1⟩
/-- R145. -/
def Reg.XLT_FLOG_IOVA_LO (n i : Nat) : Nat := 0x64100 + 0x4000 * (n % 4) + 0x10 * (i % 16)
def Fld.XLT_FLOG_IOVA_LO (n i : Nat) : Field := ⟨(Reg.XLT_FLOG_IOVA_LO n i), 0, 32⟩
/-- R145. -/
def Reg.XLT_FLOG_IOVA_HI (n i : Nat) : Nat := 0x64104 + 0x4000 * (n % 4) + 0x10 * (i % 16)
def Fld.XLT_FLOG_IOVA_HI (n i : Nat) : Field := ⟨(Reg.XLT_FLOG_IOVA_HI n i), 0, 32⟩
/-- R145. -/
def Reg.XLT_FLOG_INFO (n i : Nat) : Nat := 0x64108 + 0x4000 * (n % 4) + 0x10 * (i % 16)
def Fld.XLT_FLOG_INFO_KIND (n i : Nat) : Field := ⟨(Reg.XLT_FLOG_INFO n i), 0, 4⟩
def Fld.XLT_FLOG_INFO_CLASS (n i : Nat) : Field := ⟨(Reg.XLT_FLOG_INFO n i), 4, 2⟩
def Fld.XLT_FLOG_INFO_CTX (n i : Nat) : Field := ⟨(Reg.XLT_FLOG_INFO n i), 6, 8⟩
def Fld.XLT_FLOG_INFO_REQ (n i : Nat) : Field := ⟨(Reg.XLT_FLOG_INFO n i), 14, 6⟩
def Fld.XLT_FLOG_INFO_LAYER (n i : Nat) : Field := ⟨(Reg.XLT_FLOG_INFO n i), 20, 6⟩
def Fld.XLT_FLOG_INFO_LAYER_VALID (n i : Nat) : Field := ⟨(Reg.XLT_FLOG_INFO n i), 26, 1⟩
def Fld.XLT_FLOG_INFO_WRITE (n i : Nat) : Field := ⟨(Reg.XLT_FLOG_INFO n i), 27, 1⟩
/-- R145. -/
def Reg.XLT_FLOG_TICK (n i : Nat) : Nat := 0x6410c + 0x4000 * (n % 4) + 0x10 * (i % 16)
def Fld.XLT_FLOG_TICK (n i : Nat) : Field := ⟨(Reg.XLT_FLOG_TICK n i), 0, 32⟩
/-- R165. -/
def Reg.DMC_CFG : Nat := 0x80000
def Fld.DMC_CFG_RATE : Field := ⟨Reg.DMC_CFG, 0, 2⟩
def Fld.DMC_CFG_GRAIN : Field := ⟨Reg.DMC_CFG, 2, 2⟩
def Fld.DMC_CFG_LINK_ECC : Field := ⟨Reg.DMC_CFG, 4, 1⟩
/-- R165. -/
def Reg.DMC_ARB : Nat := 0x80004
def Fld.DMC_ARB_AGE : Field := ⟨Reg.DMC_ARB, 0, 8⟩
def Fld.DMC_ARB_PANIC_MAX : Field := ⟨Reg.DMC_ARB, 8, 8⟩
def Fld.DMC_ARB_PANIC_WINDOW : Field := ⟨Reg.DMC_ARB, 16, 8⟩
/-- R165. -/
def Reg.DMC_PANIC_LVL_A : Nat := 0x80008
def Fld.DMC_PANIC_LVL_A_SCALER : Field := ⟨Reg.DMC_PANIC_LVL_A, 0, 6⟩
def Fld.DMC_PANIC_LVL_A_ENCODER : Field := ⟨Reg.DMC_PANIC_LVL_A, 8, 6⟩
def Fld.DMC_PANIC_LVL_A_DECODER : Field := ⟨Reg.DMC_PANIC_LVL_A, 16, 6⟩
def Fld.DMC_PANIC_LVL_A_LAMP : Field := ⟨Reg.DMC_PANIC_LVL_A, 24, 6⟩
/-- R165. -/
def Reg.DMC_PANIC_LVL_B : Nat := 0x8000c
def Fld.DMC_PANIC_LVL_B_DRIVER : Field := ⟨Reg.DMC_PANIC_LVL_B, 0, 6⟩
def Fld.DMC_PANIC_LVL_B_LINK : Field := ⟨Reg.DMC_PANIC_LVL_B, 8, 6⟩
/-- R165. -/
def Reg.DMC_TEMP : Nat := 0x80010
def Fld.DMC_TEMP_MODEL_HOT : Field := ⟨Reg.DMC_TEMP, 0, 1⟩
/-- R165. -/
def Reg.DMC_DENSITY : Nat := 0x80014
def Fld.DMC_DENSITY_CAP : Field := ⟨Reg.DMC_DENSITY, 0, 2⟩
/-- R166. -/
def Reg.DMC_CH_STAT (n i : Nat) : Nat := 0x84000 + 0x4000 * (n % 4) + 0x400 * (i % 4)
def Fld.DMC_CH_STAT_STATE (n i : Nat) : Field := ⟨(Reg.DMC_CH_STAT n i), 0, 2⟩
def Fld.DMC_CH_STAT_DOUBLED (n i : Nat) : Field := ⟨(Reg.DMC_CH_STAT n i), 2, 1⟩
def Fld.DMC_CH_STAT_OWED (n i : Nat) : Field := ⟨(Reg.DMC_CH_STAT n i), 3, 4⟩
def Fld.DMC_CH_STAT_PANIC (n i : Nat) : Field := ⟨(Reg.DMC_CH_STAT n i), 7, 1⟩
def Fld.DMC_CH_STAT_DENSITY (n i : Nat) : Field := ⟨(Reg.DMC_CH_STAT n i), 8, 2⟩
def Fld.DMC_CH_STAT_WQ_LEVEL (n i : Nat) : Field := ⟨(Reg.DMC_CH_STAT n i), 10, 7⟩
/-- R166. -/
def Reg.DMC_CH_REFRESHES (n i : Nat) : Nat := 0x84004 + 0x4000 * (n % 4) + 0x400 * (i % 4)
def Fld.DMC_CH_REFRESHES (n i : Nat) : Field := ⟨(Reg.DMC_CH_REFRESHES n i), 0, 32⟩
/-- R166. -/
def Reg.DMC_CH_FORCED (n i : Nat) : Nat := 0x84008 + 0x4000 * (n % 4) + 0x400 * (i % 4)
def Fld.DMC_CH_FORCED (n i : Nat) : Field := ⟨(Reg.DMC_CH_FORCED n i), 0, 32⟩
/-- R166. -/
def Reg.DMC_CH_PANICS (n i : Nat) : Nat := 0x8400c + 0x4000 * (n % 4) + 0x400 * (i % 4)
def Fld.DMC_CH_PANICS (n i : Nat) : Field := ⟨(Reg.DMC_CH_PANICS n i), 0, 32⟩
/-- R166. -/
def Reg.DMC_CH_PANIC_CAPPED (n i : Nat) : Nat := 0x84010 + 0x4000 * (n % 4) + 0x400 * (i % 4)
def Fld.DMC_CH_PANIC_CAPPED (n i : Nat) : Field := ⟨(Reg.DMC_CH_PANIC_CAPPED n i), 0, 32⟩
/-- R166. -/
def Reg.DMC_CH_HAZARDS (n i : Nat) : Nat := 0x84014 + 0x4000 * (n % 4) + 0x400 * (i % 4)
def Fld.DMC_CH_HAZARDS (n i : Nat) : Field := ⟨(Reg.DMC_CH_HAZARDS n i), 0, 32⟩
/-- R166. -/
def Reg.DMC_CH_ECC_CORR (n i : Nat) : Nat := 0x84018 + 0x4000 * (n % 4) + 0x400 * (i % 4)
def Fld.DMC_CH_ECC_CORR (n i : Nat) : Field := ⟨(Reg.DMC_CH_ECC_CORR n i), 0, 32⟩
/-- R166. -/
def Reg.DMC_CH_ECC_UNCORR (n i : Nat) : Nat := 0x8401c + 0x4000 * (n % 4) + 0x400 * (i % 4)
def Fld.DMC_CH_ECC_UNCORR (n i : Nat) : Field := ⟨(Reg.DMC_CH_ECC_UNCORR n i), 0, 32⟩
/-- R166. -/
def Reg.DMC_CH_TRAIN (n i : Nat) : Nat := 0x84020 + 0x4000 * (n % 4) + 0x400 * (i % 4)
def Fld.DMC_CH_TRAIN_RESULT (n i : Nat) : Field := ⟨(Reg.DMC_CH_TRAIN n i), 0, 2⟩
def Fld.DMC_CH_TRAIN_MARGIN (n i : Nat) : Field := ⟨(Reg.DMC_CH_TRAIN n i), 2, 8⟩
/-- R166. -/
def Reg.DMC_CH_PAT_CTL (n i : Nat) : Nat := 0x84040 + 0x4000 * (n % 4) + 0x400 * (i % 4)
def Fld.DMC_CH_PAT_CTL_PATTERN (n i : Nat) : Field := ⟨(Reg.DMC_CH_PAT_CTL n i), 0, 2⟩
def Fld.DMC_CH_PAT_CTL_WRITE (n i : Nat) : Field := ⟨(Reg.DMC_CH_PAT_CTL n i), 2, 1⟩
def Fld.DMC_CH_PAT_CTL_START (n i : Nat) : Field := ⟨(Reg.DMC_CH_PAT_CTL n i), 3, 1⟩
def Fld.DMC_CH_PAT_CTL_LENGTH (n i : Nat) : Field := ⟨(Reg.DMC_CH_PAT_CTL n i), 4, 20⟩
/-- R166. -/
def Reg.DMC_CH_PAT_ADDR (n i : Nat) : Nat := 0x84044 + 0x4000 * (n % 4) + 0x400 * (i % 4)
def Fld.DMC_CH_PAT_ADDR (n i : Nat) : Field := ⟨(Reg.DMC_CH_PAT_ADDR n i), 0, 32⟩
/-- R166. -/
def Reg.DMC_CH_CMP (n i : Nat) : Nat := 0x84048 + 0x4000 * (n % 4) + 0x400 * (i % 4)
def Fld.DMC_CH_CMP_DQ_ERR (n i : Nat) : Field := ⟨(Reg.DMC_CH_CMP n i), 0, 16⟩
def Fld.DMC_CH_CMP_BURSTS (n i : Nat) : Field := ⟨(Reg.DMC_CH_CMP n i), 16, 16⟩
/-- R166. -/
def Reg.DMC_CH_PAT_DATA (n i j : Nat) : Nat := 0x84080 + 0x4000 * (n % 4) + 0x400 * (i % 4) + 4 * (j % 16)
def Fld.DMC_CH_PAT_DATA (n i j : Nat) : Field := ⟨(Reg.DMC_CH_PAT_DATA n i j), 0, 32⟩
/-- R190. -/
def Reg.CMP_COMMIT_CFG : Nat := 0xa0000
def Fld.CMP_COMMIT_CFG_MAX_WAITS : Field := ⟨Reg.CMP_COMMIT_CFG, 0, 8⟩
def Fld.CMP_COMMIT_CFG_FENCE_LEAD : Field := ⟨Reg.CMP_COMMIT_CFG, 8, 8⟩
def Fld.CMP_COMMIT_CFG_CASCADE_STALE : Field := ⟨Reg.CMP_COMMIT_CFG, 16, 4⟩
def Fld.CMP_COMMIT_CFG_CASCADE_MARGIN : Field := ⟨Reg.CMP_COMMIT_CFG, 20, 8⟩
/-- R190. -/
def Reg.CMP_COMMIT_APPLIED : Nat := 0xa0004
def Fld.CMP_COMMIT_APPLIED : Field := ⟨Reg.CMP_COMMIT_APPLIED, 0, 32⟩
/-- R190. -/
def Reg.CMP_COMMIT_REJECTED : Nat := 0xa0008
def Fld.CMP_COMMIT_REJECTED : Field := ⟨Reg.CMP_COMMIT_REJECTED, 0, 32⟩
/-- R190. -/
def Reg.CMP_COMMIT_TIMEOUTS : Nat := 0xa000c
def Fld.CMP_COMMIT_TIMEOUTS : Field := ⟨Reg.CMP_COMMIT_TIMEOUTS, 0, 32⟩
/-- R190. -/
def Reg.CMP_COMMIT_WAITS : Nat := 0xa0010
def Fld.CMP_COMMIT_WAITS : Field := ⟨Reg.CMP_COMMIT_WAITS, 0, 32⟩
/-- R190. -/
def Reg.CMP_LAST_REJECT : Nat := 0xa0014
def Fld.CMP_LAST_REJECT_REASON : Field := ⟨Reg.CMP_LAST_REJECT, 0, 8⟩
def Fld.CMP_LAST_REJECT_LAYER : Field := ⟨Reg.CMP_LAST_REJECT, 8, 6⟩
def Fld.CMP_LAST_REJECT_LAYER_VALID : Field := ⟨Reg.CMP_LAST_REJECT, 14, 1⟩
def Fld.CMP_LAST_REJECT_RING : Field := ⟨Reg.CMP_LAST_REJECT, 16, 16⟩
/-- R190. -/
def Reg.CMP_FALLBACK_COUNT : Nat := 0xa0018
def Fld.CMP_FALLBACK_COUNT : Field := ⟨Reg.CMP_FALLBACK_COUNT, 0, 32⟩
/-- R190. -/
def Reg.CMP_STATIC : Nat := 0xa001c
def Fld.CMP_STATIC_COUNT : Field := ⟨Reg.CMP_STATIC, 0, 7⟩
def Fld.CMP_STATIC_HOSTLESS : Field := ⟨Reg.CMP_STATIC, 7, 1⟩
/-- R190. -/
def Reg.CMP_LAYER_CFG (n : Nat) : Nat := 0xa0100 + 4 * (n % 64)
def Fld.CMP_LAYER_CFG_PREDEC (n : Nat) : Field := ⟨(Reg.CMP_LAYER_CFG n), 0, 2⟩
/-- R190. -/
def Reg.CMP_LAYER_STATE (n : Nat) : Nat := 0xa0200 + 0x10 * (n % 64)
def Fld.CMP_LAYER_STATE_ENABLED (n : Nat) : Field := ⟨(Reg.CMP_LAYER_STATE n), 0, 1⟩
def Fld.CMP_LAYER_STATE_SRC_KIND (n : Nat) : Field := ⟨(Reg.CMP_LAYER_STATE n), 1, 4⟩
def Fld.CMP_LAYER_STATE_Z (n : Nat) : Field := ⟨(Reg.CMP_LAYER_STATE n), 5, 4⟩
def Fld.CMP_LAYER_STATE_FALLBACK (n : Nat) : Field := ⟨(Reg.CMP_LAYER_STATE n), 9, 2⟩
def Fld.CMP_LAYER_STATE_FALLBACK_SHOWN (n : Nat) : Field := ⟨(Reg.CMP_LAYER_STATE n), 11, 1⟩
def Fld.CMP_LAYER_STATE_CASCADE_STALE (n : Nat) : Field := ⟨(Reg.CMP_LAYER_STATE n), 12, 1⟩
/-- R190. -/
def Reg.CMP_LAYER_TAG (n : Nat) : Nat := 0xa0204 + 0x10 * (n % 64)
def Fld.CMP_LAYER_TAG (n : Nat) : Field := ⟨(Reg.CMP_LAYER_TAG n), 0, 32⟩
/-- R190. -/
def Reg.CMP_LAYER_RING (n : Nat) : Nat := 0xa0208 + 0x10 * (n % 64)
def Fld.CMP_LAYER_RING (n : Nat) : Field := ⟨(Reg.CMP_LAYER_RING n), 0, 16⟩
/-- R190. -/
def Reg.CMP_LAYER_SINCE (n : Nat) : Nat := 0xa020c + 0x10 * (n % 64)
def Fld.CMP_LAYER_SINCE (n : Nat) : Field := ⟨(Reg.CMP_LAYER_SINCE n), 0, 32⟩
/-- R190. -/
def Reg.CMP_FENCE_LO (n : Nat) : Nat := 0xa0600 + 8 * (n % 256)
def Fld.CMP_FENCE_LO (n : Nat) : Field := ⟨(Reg.CMP_FENCE_LO n), 0, 32⟩
/-- R190. -/
def Reg.CMP_FENCE_HI (n : Nat) : Nat := 0xa0604 + 8 * (n % 256)
def Fld.CMP_FENCE_HI (n : Nat) : Field := ⟨(Reg.CMP_FENCE_HI n), 0, 32⟩
/-- R191. -/
def Reg.CMP_RASTER (n : Nat) : Nat := 0xa4000 + 0x4000 * (n % 4)
def Fld.CMP_RASTER_WIDTH (n : Nat) : Field := ⟨(Reg.CMP_RASTER n), 0, 16⟩
def Fld.CMP_RASTER_HEIGHT (n : Nat) : Field := ⟨(Reg.CMP_RASTER n), 16, 16⟩
/-- R218. -/
def Reg.CMP_COLOUR : Nat := 0xa1000
def Fld.CMP_COLOUR_DOMAIN : Field := ⟨Reg.CMP_COLOUR, 0, 1⟩
def Fld.CMP_COLOUR_RASTER_PRIM : Field := ⟨Reg.CMP_COLOUR, 1, 2⟩
def Fld.CMP_COLOUR_SDR_WHITE : Field := ⟨Reg.CMP_COLOUR, 16, 16⟩
/-- R218. -/
def Reg.CMP_CLAMP_COUNT : Nat := 0xa1004
def Fld.CMP_CLAMP_COUNT : Field := ⟨Reg.CMP_CLAMP_COUNT, 0, 32⟩
/-- R218. -/
def Reg.CMP_CAPTURE_ROWS : Nat := 0xa1008
def Fld.CMP_CAPTURE_ROWS : Field := ⟨Reg.CMP_CAPTURE_ROWS, 0, 32⟩
/-- R218. -/
def Reg.CMP_CAPTURE_SKIPPED : Nat := 0xa100c
def Fld.CMP_CAPTURE_SKIPPED : Field := ⟨Reg.CMP_CAPTURE_SKIPPED, 0, 32⟩
/-- R219. -/
def Reg.CMP_BG_RG (n : Nat) : Nat := 0xa4100 + 0x4000 * (n % 4)
def Fld.CMP_BG_RG_R (n : Nat) : Field := ⟨(Reg.CMP_BG_RG n), 0, 16⟩
def Fld.CMP_BG_RG_G (n : Nat) : Field := ⟨(Reg.CMP_BG_RG n), 16, 16⟩
/-- R219. -/
def Reg.CMP_BG_B (n : Nat) : Nat := 0xa4104 + 0x4000 * (n % 4)
def Fld.CMP_BG_B_B (n : Nat) : Field := ⟨(Reg.CMP_BG_B n), 0, 16⟩
/-- R219. -/
def Reg.CMP_ROW_STAT (n : Nat) : Nat := 0xa4108 + 0x4000 * (n % 4)
def Fld.CMP_ROW_STAT_LAST_ROW (n : Nat) : Field := ⟨(Reg.CMP_ROW_STAT n), 0, 12⟩
def Fld.CMP_ROW_STAT_HANDOFF (n : Nat) : Field := ⟨(Reg.CMP_ROW_STAT n), 12, 3⟩
def Fld.CMP_ROW_STAT_CAP_QUEUE (n : Nat) : Field := ⟨(Reg.CMP_ROW_STAT n), 15, 3⟩
def Fld.CMP_ROW_STAT_CAP_FIFO (n : Nat) : Field := ⟨(Reg.CMP_ROW_STAT n), 18, 3⟩
/-- R219. -/
def Reg.CMP_ROWS_COMPOSED (n : Nat) : Nat := 0xa410c + 0x4000 * (n % 4)
def Fld.CMP_ROWS_COMPOSED (n : Nat) : Field := ⟨(Reg.CMP_ROWS_COMPOSED n), 0, 32⟩
/-- R219. -/
def Reg.CMP_BLOCKS_DROPPED (n : Nat) : Nat := 0xa4110 + 0x4000 * (n % 4)
def Fld.CMP_BLOCKS_DROPPED (n : Nat) : Field := ⟨(Reg.CMP_BLOCKS_DROPPED n), 0, 32⟩
/-- R219. -/
def Reg.CMP_BLOCKS_HELD (n : Nat) : Nat := 0xa4114 + 0x4000 * (n % 4)
def Fld.CMP_BLOCKS_HELD (n : Nat) : Field := ⟨(Reg.CMP_BLOCKS_HELD n), 0, 32⟩
/-- R219. -/
def Reg.CMP_HANDOFF_WAITS (n : Nat) : Nat := 0xa4118 + 0x4000 * (n % 4)
def Fld.CMP_HANDOFF_WAITS (n : Nat) : Field := ⟨(Reg.CMP_HANDOFF_WAITS n), 0, 32⟩
/-- R219. -/
def Reg.CMP_SRC_PIXELS (n : Nat) : Nat := 0xa411c + 0x4000 * (n % 4)
def Fld.CMP_SRC_PIXELS (n : Nat) : Field := ⟨(Reg.CMP_SRC_PIXELS n), 0, 32⟩
/-- R246. -/
def Reg.ENC_CFG : Nat := 0xc0000
def Fld.ENC_CFG_LTSKIP_EN : Field := ⟨Reg.ENC_CFG, 0, 1⟩
def Fld.ENC_CFG_DCOPY_EN : Field := ⟨Reg.ENC_CFG, 1, 1⟩
def Fld.ENC_CFG_DX_RANGE : Field := ⟨Reg.ENC_CFG, 2, 7⟩
def Fld.ENC_CFG_DY_RANGE : Field := ⟨Reg.ENC_CFG, 9, 5⟩
/-- R247. -/
def Reg.ENC_CELL_STAT (n : Nat) : Nat := 0xc4000 + 0x4000 * (n % 4)
def Fld.ENC_CELL_STAT_BUSY (n : Nat) : Field := ⟨(Reg.ENC_CELL_STAT n), 0, 4⟩
/-- R247. -/
def Reg.ENC_ROWS (n : Nat) : Nat := 0xc4004 + 0x4000 * (n % 4)
def Fld.ENC_ROWS (n : Nat) : Field := ⟨(Reg.ENC_ROWS n), 0, 32⟩
/-- R247. -/
def Reg.ENC_BITS_LO (n : Nat) : Nat := 0xc4008 + 0x4000 * (n % 4)
def Fld.ENC_BITS_LO (n : Nat) : Field := ⟨(Reg.ENC_BITS_LO n), 0, 32⟩
/-- R247. -/
def Reg.ENC_BITS_HI (n : Nat) : Nat := 0xc400c + 0x4000 * (n % 4)
def Fld.ENC_BITS_HI (n : Nat) : Field := ⟨(Reg.ENC_BITS_HI n), 0, 16⟩
/-- R247. -/
def Reg.ENC_BLK_SKIP (n : Nat) : Nat := 0xc4010 + 0x4000 * (n % 4)
def Fld.ENC_BLK_SKIP (n : Nat) : Field := ⟨(Reg.ENC_BLK_SKIP n), 0, 32⟩
/-- R247. -/
def Reg.ENC_BLK_LTSKIP (n : Nat) : Nat := 0xc4014 + 0x4000 * (n % 4)
def Fld.ENC_BLK_LTSKIP (n : Nat) : Field := ⟨(Reg.ENC_BLK_LTSKIP n), 0, 32⟩
/-- R247. -/
def Reg.ENC_BLK_DCOPY (n : Nat) : Nat := 0xc4018 + 0x4000 * (n % 4)
def Fld.ENC_BLK_DCOPY (n : Nat) : Field := ⟨(Reg.ENC_BLK_DCOPY n), 0, 32⟩
/-- R247. -/
def Reg.ENC_BLK_INTRA (n : Nat) : Nat := 0xc401c + 0x4000 * (n % 4)
def Fld.ENC_BLK_INTRA (n : Nat) : Field := ⟨(Reg.ENC_BLK_INTRA n), 0, 32⟩
/-- R247. -/
def Reg.ENC_BLK_RAW (n : Nat) : Nat := 0xc4020 + 0x4000 * (n % 4)
def Fld.ENC_BLK_RAW (n : Nat) : Field := ⟨(Reg.ENC_BLK_RAW n), 0, 32⟩
/-- R247. -/
def Reg.ENC_BLK_FLOOR (n : Nat) : Nat := 0xc4024 + 0x4000 * (n % 4)
def Fld.ENC_BLK_FLOOR (n : Nat) : Field := ⟨(Reg.ENC_BLK_FLOOR n), 0, 32⟩
/-- R247. -/
def Reg.ENC_OCHRE_ROWS (n : Nat) : Nat := 0xc4028 + 0x4000 * (n % 4)
def Fld.ENC_OCHRE_ROWS (n : Nat) : Field := ⟨(Reg.ENC_OCHRE_ROWS n), 0, 32⟩
/-- R247. -/
def Reg.ENC_KEY_ROWS (n : Nat) : Nat := 0xc402c + 0x4000 * (n % 4)
def Fld.ENC_KEY_ROWS (n : Nat) : Field := ⟨(Reg.ENC_KEY_ROWS n), 0, 32⟩
/-- R247. -/
def Reg.ENC_HOLD_SEGS (n : Nat) : Nat := 0xc4030 + 0x4000 * (n % 4)
def Fld.ENC_HOLD_SEGS (n : Nat) : Field := ⟨(Reg.ENC_HOLD_SEGS n), 0, 32⟩
/-- R247. -/
def Reg.ENC_ROWS_LOSSLESS (n : Nat) : Nat := 0xc4034 + 0x4000 * (n % 4)
def Fld.ENC_ROWS_LOSSLESS (n : Nat) : Field := ⟨(Reg.ENC_ROWS_LOSSLESS n), 0, 32⟩
/-- R247. -/
def Reg.ENC_RETRIES (n : Nat) : Nat := 0xc4038 + 0x4000 * (n % 4)
def Fld.ENC_RETRIES (n : Nat) : Field := ⟨(Reg.ENC_RETRIES n), 0, 32⟩
/-- R248. -/
def Reg.DEC_CFG : Nat := 0xe0000
def Fld.DEC_CFG_DOMAIN : Field := ⟨Reg.DEC_CFG, 0, 1⟩
/-- R248. -/
def Reg.DEC_CASCADE_DOMAIN : Nat := 0xe0004
def Fld.DEC_CASCADE_DOMAIN_PORT : Field := ⟨Reg.DEC_CASCADE_DOMAIN, 0, 16⟩
/-- R249. -/
def Reg.DEC_CELL_STAT (n : Nat) : Nat := 0xe4000 + 0x4000 * (n % 4)
def Fld.DEC_CELL_STAT_BUSY (n : Nat) : Field := ⟨(Reg.DEC_CELL_STAT n), 0, 2⟩
/-- R249. -/
def Reg.DEC_ROWS (n : Nat) : Nat := 0xe4004 + 0x4000 * (n % 4)
def Fld.DEC_ROWS (n : Nat) : Field := ⟨(Reg.DEC_ROWS n), 0, 32⟩
/-- R249. -/
def Reg.DEC_SEG_KEPT (n : Nat) : Nat := 0xe4008 + 0x4000 * (n % 4)
def Fld.DEC_SEG_KEPT (n : Nat) : Field := ⟨(Reg.DEC_SEG_KEPT n), 0, 32⟩
/-- R249. -/
def Reg.DEC_SEG_DISCARDED (n : Nat) : Nat := 0xe400c + 0x4000 * (n % 4)
def Fld.DEC_SEG_DISCARDED (n : Nat) : Field := ⟨(Reg.DEC_SEG_DISCARDED n), 0, 32⟩
/-- R249. -/
def Reg.DEC_SEG_ERRORS (n : Nat) : Nat := 0xe4010 + 0x4000 * (n % 4)
def Fld.DEC_SEG_ERRORS (n : Nat) : Field := ⟨(Reg.DEC_SEG_ERRORS n), 0, 32⟩
/-- R249. -/
def Reg.DEC_RETRIES (n : Nat) : Nat := 0xe4014 + 0x4000 * (n % 4)
def Fld.DEC_RETRIES (n : Nat) : Field := ⟨(Reg.DEC_RETRIES n), 0, 32⟩
/-- R249. -/
def Reg.DEC_LATE_ROWS (n : Nat) : Nat := 0xe4018 + 0x4000 * (n % 4)
def Fld.DEC_LATE_ROWS (n : Nat) : Field := ⟨(Reg.DEC_LATE_ROWS n), 0, 32⟩
/-- R249. -/
def Reg.DEC_SLATE_ROWS (n : Nat) : Nat := 0xe401c + 0x4000 * (n % 4)
def Fld.DEC_SLATE_ROWS (n : Nat) : Field := ⟨(Reg.DEC_SLATE_ROWS n), 0, 32⟩
/-- R249. -/
def Reg.DEC_REF_MISSING (n : Nat) : Nat := 0xe4020 + 0x4000 * (n % 4)
def Fld.DEC_REF_MISSING (n : Nat) : Field := ⟨(Reg.DEC_REF_MISSING n), 0, 32⟩
/-- R249. -/
def Reg.DEC_HOLDS (n : Nat) : Nat := 0xe4024 + 0x4000 * (n % 4)
def Fld.DEC_HOLDS (n : Nat) : Field := ⟨(Reg.DEC_HOLDS n), 0, 32⟩
/-- R249. -/
def Reg.DEC_LAST_ERR (n : Nat) : Nat := 0xe4028 + 0x4000 * (n % 4)
def Fld.DEC_LAST_ERR_KIND (n : Nat) : Field := ⟨(Reg.DEC_LAST_ERR n), 0, 4⟩
def Fld.DEC_LAST_ERR_ROW (n : Nat) : Field := ⟨(Reg.DEC_LAST_ERR n), 4, 12⟩
def Fld.DEC_LAST_ERR_TICK_LO (n : Nat) : Field := ⟨(Reg.DEC_LAST_ERR n), 16, 8⟩
/-- R249. -/
def Reg.DEC_LAST_HOLD (n : Nat) : Nat := 0xe402c + 0x4000 * (n % 4)
def Fld.DEC_LAST_HOLD_ROW (n : Nat) : Field := ⟨(Reg.DEC_LAST_HOLD n), 0, 12⟩
def Fld.DEC_LAST_HOLD_TICK_LO (n : Nat) : Field := ⟨(Reg.DEC_LAST_HOLD n), 12, 8⟩
/-- R300. -/
def Reg.LNK_CFG : Nat := 0x100000
def Fld.LNK_CFG_ACK_TIMEOUT : Field := ⟨Reg.LNK_CFG, 0, 4⟩
def Fld.LNK_CFG_RETRY_MAX : Field := ⟨Reg.LNK_CFG, 4, 2⟩
def Fld.LNK_CFG_REG_TIMEOUT : Field := ⟨Reg.LNK_CFG, 6, 4⟩
/-- R300. -/
def Reg.LNK_EQ_CFG : Nat := 0x100004
def Fld.LNK_EQ_CFG_FOM_MIN : Field := ⟨Reg.LNK_EQ_CFG, 0, 8⟩
def Fld.LNK_EQ_CFG_FOM_DOWN : Field := ⟨Reg.LNK_EQ_CFG, 8, 8⟩
def Fld.LNK_EQ_CFG_HYST : Field := ⟨Reg.LNK_EQ_CFG, 16, 4⟩
def Fld.LNK_EQ_CFG_DOWN_COUNT : Field := ⟨Reg.LNK_EQ_CFG, 20, 4⟩
/-- R300. -/
def Reg.LNK_RET_STAT : Nat := 0x100008
def Fld.LNK_RET_STAT_OUTSTANDING : Field := ⟨Reg.LNK_RET_STAT, 0, 4⟩
/-- R300. -/
def Reg.LNK_RET_GIVEUP : Nat := 0x10000c
def Fld.LNK_RET_GIVEUP : Field := ⟨Reg.LNK_RET_GIVEUP, 0, 32⟩
/-- R301. -/
def Reg.LNK_PORT_CFG (n i : Nat) : Nat := 0x104000 + 0x4000 * (n % 5) + 0x400 * (i % 4)
def Fld.LNK_PORT_CFG_ENABLE (n i : Nat) : Field := ⟨(Reg.LNK_PORT_CFG n i), 0, 1⟩
def Fld.LNK_PORT_CFG_DIR (n i : Nat) : Field := ⟨(Reg.LNK_PORT_CFG n i), 1, 1⟩
def Fld.LNK_PORT_CFG_RATE (n i : Nat) : Field := ⟨(Reg.LNK_PORT_CFG n i), 2, 2⟩
def Fld.LNK_PORT_CFG_TX_PRESET (n i : Nat) : Field := ⟨(Reg.LNK_PORT_CFG n i), 4, 3⟩
/-- R301. -/
def Reg.LNK_STATE (n i : Nat) : Nat := 0x104004 + 0x4000 * (n % 5) + 0x400 * (i % 4)
def Fld.LNK_STATE_STATE (n i : Nat) : Field := ⟨(Reg.LNK_STATE n i), 0, 3⟩
def Fld.LNK_STATE_RATE_NOW (n i : Nat) : Field := ⟨(Reg.LNK_STATE n i), 3, 2⟩
def Fld.LNK_STATE_SELECTED (n i : Nat) : Field := ⟨(Reg.LNK_STATE n i), 5, 1⟩
def Fld.LNK_STATE_ORIGIN (n i : Nat) : Field := ⟨(Reg.LNK_STATE n i), 6, 1⟩
def Fld.LNK_STATE_ATTEMPT (n i : Nat) : Field := ⟨(Reg.LNK_STATE n i), 7, 2⟩
/-- R301. -/
def Reg.LNK_FOM (n i : Nat) : Nat := 0x104008 + 0x4000 * (n % 5) + 0x400 * (i % 4)
def Fld.LNK_FOM_FOM (n i : Nat) : Field := ⟨(Reg.LNK_FOM n i), 0, 8⟩
def Fld.LNK_FOM_FOM_LOW (n i : Nat) : Field := ⟨(Reg.LNK_FOM n i), 8, 8⟩
def Fld.LNK_FOM_CTLE (n i : Nat) : Field := ⟨(Reg.LNK_FOM n i), 16, 4⟩
/-- R301. -/
def Reg.LNK_DFE (n i : Nat) : Nat := 0x10400c + 0x4000 * (n % 5) + 0x400 * (i % 4)
def Fld.LNK_DFE_TAP1 (n i : Nat) : Field := ⟨(Reg.LNK_DFE n i), 0, 6⟩
def Fld.LNK_DFE_TAP2 (n i : Nat) : Field := ⟨(Reg.LNK_DFE n i), 8, 5⟩
def Fld.LNK_DFE_TAP3 (n i : Nat) : Field := ⟨(Reg.LNK_DFE n i), 16, 5⟩
/-- R301. -/
def Reg.LNK_DESKEW (n i : Nat) : Nat := 0x104010 + 0x4000 * (n % 5) + 0x400 * (i % 4)
def Fld.LNK_DESKEW_SKEW (n i : Nat) : Field := ⟨(Reg.LNK_DESKEW n i), 0, 8⟩
/-- R301. -/
def Reg.LNK_WORD_ERR (n i : Nat) : Nat := 0x104014 + 0x4000 * (n % 5) + 0x400 * (i % 4)
def Fld.LNK_WORD_ERR (n i : Nat) : Field := ⟨(Reg.LNK_WORD_ERR n i), 0, 32⟩
/-- R301. -/
def Reg.LNK_CW_ERR (n i : Nat) : Nat := 0x104018 + 0x4000 * (n % 5) + 0x400 * (i % 4)
def Fld.LNK_CW_ERR (n i : Nat) : Field := ⟨(Reg.LNK_CW_ERR n i), 0, 32⟩
/-- R301. -/
def Reg.LNK_HDR_CRC_ERR (n i : Nat) : Nat := 0x10401c + 0x4000 * (n % 5) + 0x400 * (i % 4)
def Fld.LNK_HDR_CRC_ERR (n i : Nat) : Field := ⟨(Reg.LNK_HDR_CRC_ERR n i), 0, 32⟩
/-- R301. -/
def Reg.LNK_PAY_CRC_ERR (n i : Nat) : Nat := 0x104020 + 0x4000 * (n % 5) + 0x400 * (i % 4)
def Fld.LNK_PAY_CRC_ERR (n i : Nat) : Field := ⟨(Reg.LNK_PAY_CRC_ERR n i), 0, 32⟩
/-- R301. -/
def Reg.LNK_LOCK_LOSS (n i : Nat) : Nat := 0x104024 + 0x4000 * (n % 5) + 0x400 * (i % 4)
def Fld.LNK_LOCK_LOSS (n i : Nat) : Field := ⟨(Reg.LNK_LOCK_LOSS n i), 0, 32⟩
/-- R301. -/
def Reg.LNK_RETRAINS (n i : Nat) : Nat := 0x104028 + 0x4000 * (n % 5) + 0x400 * (i % 4)
def Fld.LNK_RETRAINS (n i : Nat) : Field := ⟨(Reg.LNK_RETRAINS n i), 0, 32⟩
/-- R301. -/
def Reg.LNK_EQ_STEPS (n i : Nat) : Nat := 0x10402c + 0x4000 * (n % 5) + 0x400 * (i % 4)
def Fld.LNK_EQ_STEPS (n i : Nat) : Field := ⟨(Reg.LNK_EQ_STEPS n i), 0, 32⟩
/-- R301. -/
def Reg.LNK_KEYREQ_RX (n i : Nat) : Nat := 0x104030 + 0x4000 * (n % 5) + 0x400 * (i % 4)
def Fld.LNK_KEYREQ_RX (n i : Nat) : Field := ⟨(Reg.LNK_KEYREQ_RX n i), 0, 32⟩
/-- R301. -/
def Reg.LNK_CELL_DROP (n i : Nat) : Nat := 0x104034 + 0x4000 * (n % 5) + 0x400 * (i % 4)
def Fld.LNK_CELL_DROP (n i : Nat) : Field := ⟨(Reg.LNK_CELL_DROP n i), 0, 32⟩
/-- R301. -/
def Reg.LNK_PKT_UNKNOWN (n i : Nat) : Nat := 0x104038 + 0x4000 * (n % 5) + 0x400 * (i % 4)
def Fld.LNK_PKT_UNKNOWN (n i : Nat) : Field := ⟨(Reg.LNK_PKT_UNKNOWN n i), 0, 32⟩
/-- R301. -/
def Reg.LNK_TEST (n i : Nat) : Nat := 0x10403c + 0x4000 * (n % 5) + 0x400 * (i % 4)
def Fld.LNK_TEST_RETRY (n i : Nat) : Field := ⟨(Reg.LNK_TEST n i), 0, 1⟩
def Fld.LNK_TEST_FORCE_DOWN (n i : Nat) : Field := ⟨(Reg.LNK_TEST n i), 1, 1⟩
/-- R326. -/
def Reg.PAIR_STATE : Nat := 0x120000
def Fld.PAIR_STATE_STATE : Field := ⟨Reg.PAIR_STATE, 0, 3⟩
def Fld.PAIR_STATE_UNIT : Field := ⟨Reg.PAIR_STATE, 3, 1⟩
def Fld.PAIR_STATE_UNIT_VALID : Field := ⟨Reg.PAIR_STATE, 4, 1⟩
def Fld.PAIR_STATE_LINK : Field := ⟨Reg.PAIR_STATE, 5, 1⟩
def Fld.PAIR_STATE_FOREIGN : Field := ⟨Reg.PAIR_STATE, 6, 1⟩
def Fld.PAIR_STATE_JOIN_PHASE : Field := ⟨Reg.PAIR_STATE, 7, 2⟩
def Fld.PAIR_STATE_ATTEMPTS : Field := ⟨Reg.PAIR_STATE, 9, 2⟩
/-- R326. -/
def Reg.PAIR_CFG : Nat := 0x120004
def Fld.PAIR_CFG_JOIN_MAX : Field := ⟨Reg.PAIR_CFG, 0, 2⟩
def Fld.PAIR_CFG_ANN_MARGIN : Field := ⟨Reg.PAIR_CFG, 2, 8⟩
def Fld.PAIR_CFG_ACK_WAIT : Field := ⟨Reg.PAIR_CFG, 10, 8⟩
def Fld.PAIR_CFG_AUTO_REUNITE : Field := ⟨Reg.PAIR_CFG, 18, 1⟩
/-- R326. -/
def Reg.PAIR_EPOCH : Nat := 0x120008
def Fld.PAIR_EPOCH : Field := ⟨Reg.PAIR_EPOCH, 0, 32⟩
/-- R326. -/
def Reg.PAIR_CLEAN : Nat := 0x12000c
def Fld.PAIR_CLEAN : Field := ⟨Reg.PAIR_CLEAN, 0, 9⟩
/-- R326. -/
def Reg.PAIR_FEED : Nat := 0x120010
def Fld.PAIR_FEED_CHAINS : Field := ⟨Reg.PAIR_FEED, 0, 16⟩
/-- R326. -/
def Reg.PAIR_OBSERVED : Nat := 0x120014
def Fld.PAIR_OBSERVED_CHAINS : Field := ⟨Reg.PAIR_OBSERVED, 0, 16⟩
/-- R326. -/
def Reg.PAIR_COMPARED_LO : Nat := 0x120018
def Fld.PAIR_COMPARED_LO : Field := ⟨Reg.PAIR_COMPARED_LO, 0, 32⟩
/-- R326. -/
def Reg.PAIR_COMPARED_HI : Nat := 0x12001c
def Fld.PAIR_COMPARED_HI : Field := ⟨Reg.PAIR_COMPARED_HI, 0, 16⟩
/-- R326. -/
def Reg.PAIR_MISMATCHED : Nat := 0x120020
def Fld.PAIR_MISMATCHED : Field := ⟨Reg.PAIR_MISMATCHED, 0, 32⟩
/-- R326. -/
def Reg.PAIR_EXCUSED : Nat := 0x120024
def Fld.PAIR_EXCUSED : Field := ⟨Reg.PAIR_EXCUSED, 0, 32⟩
/-- R326. -/
def Reg.PAIR_DECISIONS : Nat := 0x120028
def Fld.PAIR_DECISIONS : Field := ⟨Reg.PAIR_DECISIONS, 0, 32⟩
/-- R326. -/
def Reg.PAIR_TAKEOVERS : Nat := 0x12002c
def Fld.PAIR_TAKEOVERS : Field := ⟨Reg.PAIR_TAKEOVERS, 0, 32⟩
/-- R326. -/
def Reg.PAIR_LAST_MISMATCH : Nat := 0x120030
def Fld.PAIR_LAST_MISMATCH_CHAIN : Field := ⟨Reg.PAIR_LAST_MISMATCH, 0, 4⟩
def Fld.PAIR_LAST_MISMATCH_POSITION : Field := ⟨Reg.PAIR_LAST_MISMATCH, 4, 6⟩
def Fld.PAIR_LAST_MISMATCH_ROW : Field := ⟨Reg.PAIR_LAST_MISMATCH, 10, 12⟩
def Fld.PAIR_LAST_MISMATCH_TICK_LO : Field := ⟨Reg.PAIR_LAST_MISMATCH, 22, 8⟩
def Fld.PAIR_LAST_MISMATCH_KIND : Field := ⟨Reg.PAIR_LAST_MISMATCH, 30, 2⟩
/-- R326. -/
def Reg.PAIR_PKT_UNKNOWN : Nat := 0x120034
def Fld.PAIR_PKT_UNKNOWN : Field := ⟨Reg.PAIR_PKT_UNKNOWN, 0, 32⟩
/-- R326. -/
def Reg.PAIR_PARTNER_SERIAL_LO : Nat := 0x120038
def Fld.PAIR_PARTNER_SERIAL_LO : Field := ⟨Reg.PAIR_PARTNER_SERIAL_LO, 0, 32⟩
/-- R326. -/
def Reg.PAIR_PARTNER_SERIAL_HI : Nat := 0x12003c
def Fld.PAIR_PARTNER_SERIAL_HI : Field := ⟨Reg.PAIR_PARTNER_SERIAL_HI, 0, 32⟩
/-- R326. -/
def Reg.PAIR_HOP_DELAY : Nat := 0x120040
def Fld.PAIR_HOP_DELAY_VALUE : Field := ⟨Reg.PAIR_HOP_DELAY, 0, 24⟩
def Fld.PAIR_HOP_DELAY_VALID : Field := ⟨Reg.PAIR_HOP_DELAY, 31, 1⟩
/-- R326. -/
def Reg.PAIR_TEST : Nat := 0x120044
def Fld.PAIR_TEST_HANDOVER : Field := ⟨Reg.PAIR_TEST, 0, 1⟩
def Fld.PAIR_TEST_FOREIGN : Field := ⟨Reg.PAIR_TEST, 1, 1⟩
/-- R326. -/
def Reg.PAIR_LINK_LOSSES : Nat := 0x120048
def Fld.PAIR_LINK_LOSSES : Field := ⟨Reg.PAIR_LINK_LOSSES, 0, 32⟩
/-- R357. -/
def Reg.LMP_CFG : Nat := 0x140000
def Fld.LMP_CFG_SCOPE : Field := ⟨Reg.LMP_CFG, 0, 1⟩
def Fld.LMP_CFG_RAISE : Field := ⟨Reg.LMP_CFG, 1, 1⟩
def Fld.LMP_CFG_RAMP_FRAMES : Field := ⟨Reg.LMP_CFG, 2, 13⟩
/-- R357. -/
def Reg.LMP_GAIN_CFG : Nat := 0x140004
def Fld.LMP_GAIN_CFG_GMAX : Field := ⟨Reg.LMP_GAIN_CFG, 0, 16⟩
def Fld.LMP_GAIN_CFG_GSTEP : Field := ⟨Reg.LMP_GAIN_CFG, 16, 11⟩
/-- R357. -/
def Reg.LMP_CEIL_CFG : Nat := 0x140008
def Fld.LMP_CEIL_CFG_MARGIN : Field := ⟨Reg.LMP_CEIL_CFG, 0, 16⟩
def Fld.LMP_CEIL_CFG_HYST : Field := ⟨Reg.LMP_CEIL_CFG, 16, 16⟩
/-- R357. -/
def Reg.LMP_CEIL_LIMITS : Nat := 0x14000c
def Fld.LMP_CEIL_LIMITS_MIN : Field := ⟨Reg.LMP_CEIL_LIMITS, 0, 16⟩
def Fld.LMP_CEIL_LIMITS_INIT : Field := ⟨Reg.LMP_CEIL_LIMITS, 16, 16⟩
/-- R357. -/
def Reg.LMP_CEIL_STEP : Nat := 0x140010
def Fld.LMP_CEIL_STEP_TICKS : Field := ⟨Reg.LMP_CEIL_STEP, 0, 21⟩
/-- R357. -/
def Reg.LMP_CEIL : Nat := 0x140014
def Fld.LMP_CEIL_Q : Field := ⟨Reg.LMP_CEIL, 0, 16⟩
def Fld.LMP_CEIL_TARGET : Field := ⟨Reg.LMP_CEIL, 16, 16⟩
/-- R357. -/
def Reg.LMP_CEIL_START_LO : Nat := 0x140018
def Fld.LMP_CEIL_START_LO_START : Field := ⟨Reg.LMP_CEIL_START_LO, 0, 32⟩
/-- R357. -/
def Reg.LMP_CEIL_START_HI : Nat := 0x14001c
def Fld.LMP_CEIL_START_HI_START : Field := ⟨Reg.LMP_CEIL_START_HI, 0, 16⟩
def Fld.LMP_CEIL_START_HI_Q_START : Field := ⟨Reg.LMP_CEIL_START_HI, 16, 16⟩
/-- R357. -/
def Reg.LMP_HEADROOM : Nat := 0x140020
def Fld.LMP_HEADROOM_HMIN : Field := ⟨Reg.LMP_HEADROOM, 0, 16⟩
def Fld.LMP_HEADROOM_BOARD : Field := ⟨Reg.LMP_HEADROOM, 16, 6⟩
def Fld.LMP_HEADROOM_VALID : Field := ⟨Reg.LMP_HEADROOM, 22, 1⟩
/-- R357. -/
def Reg.LMP_SET : Nat := 0x140024
def Fld.LMP_SET_ACTIVE : Field := ⟨Reg.LMP_SET, 0, 1⟩
def Fld.LMP_SET_RAMPING : Field := ⟨Reg.LMP_SET, 1, 1⟩
def Fld.LMP_SET_PENDING : Field := ⟨Reg.LMP_SET, 2, 1⟩
def Fld.LMP_SET_ALPHA : Field := ⟨Reg.LMP_SET, 16, 13⟩
/-- R357. -/
def Reg.LMP_WEAR_CYCLES : Nat := 0x140028
def Fld.LMP_WEAR_CYCLES : Field := ⟨Reg.LMP_WEAR_CYCLES, 0, 32⟩
/-- R357. -/
def Reg.LMP_LIMITED_PIXELS : Nat := 0x14002c
def Fld.LMP_LIMITED_PIXELS : Field := ⟨Reg.LMP_LIMITED_PIXELS, 0, 32⟩
/-- R357. -/
def Reg.LMP_SATURATED : Nat := 0x140030
def Fld.LMP_SATURATED : Field := ⟨Reg.LMP_SATURATED, 0, 32⟩
/-- R357. -/
def Reg.LMP_SAMPLES_LOST : Nat := 0x140034
def Fld.LMP_SAMPLES_LOST : Field := ⟨Reg.LMP_SAMPLES_LOST, 0, 32⟩
/-- R357. -/
def Reg.LMP_TAKEBACK_SHORT : Nat := 0x140038
def Fld.LMP_TAKEBACK_SHORT : Field := ⟨Reg.LMP_TAKEBACK_SHORT, 0, 32⟩
/-- R357. -/
def Reg.LMP_GREY_APPLIED : Nat := 0x14003c
def Fld.LMP_GREY_APPLIED : Field := ⟨Reg.LMP_GREY_APPLIED, 0, 32⟩
/-- R357. -/
def Reg.LMP_UNCORRECTABLE : Nat := 0x140040
def Fld.LMP_UNCORRECTABLE : Field := ⟨Reg.LMP_UNCORRECTABLE, 0, 32⟩
/-- R357. -/
def Reg.LMP_GAIN_CAPPED : Nat := 0x140044
def Fld.LMP_GAIN_CAPPED : Field := ⟨Reg.LMP_GAIN_CAPPED, 0, 32⟩
/-- R357. -/
def Reg.LMP_RAMPS : Nat := 0x140048
def Fld.LMP_RAMPS : Field := ⟨Reg.LMP_RAMPS, 0, 32⟩
/-- R357. -/
def Reg.LMP_BASE_RECA : Nat := 0x140080
def Fld.LMP_BASE_RECA : Field := ⟨Reg.LMP_BASE_RECA, 0, 32⟩
/-- R357. -/
def Reg.LMP_BASE_RECB : Nat := 0x140084
def Fld.LMP_BASE_RECB : Field := ⟨Reg.LMP_BASE_RECB, 0, 32⟩
/-- R357. -/
def Reg.LMP_BASE_GAIN : Nat := 0x140088
def Fld.LMP_BASE_GAIN : Field := ⟨Reg.LMP_BASE_GAIN, 0, 32⟩
/-- R357. -/
def Reg.LMP_BASE_DITHER : Nat := 0x14008c
def Fld.LMP_BASE_DITHER : Field := ⟨Reg.LMP_BASE_DITHER, 0, 32⟩
/-- R357. -/
def Reg.LMP_BASE_WEAR : Nat := 0x140090
def Fld.LMP_BASE_WEAR : Field := ⟨Reg.LMP_BASE_WEAR, 0, 32⟩
/-- R357. -/
def Reg.LMP_LIM (n : Nat) : Nat := 0x140100 + 4 * (n % 64)
def Fld.LMP_LIM (n : Nat) : Field := ⟨(Reg.LMP_LIM n), 0, 16⟩
/-- R358. -/
def Reg.LMP_CELL_STAT (n : Nat) : Nat := 0x144000 + 0x4000 * (n % 4)
def Fld.LMP_CELL_STAT_BUSY (n : Nat) : Field := ⟨(Reg.LMP_CELL_STAT n), 0, 2⟩
/-- R358. -/
def Reg.LMP_ROWS (n : Nat) : Nat := 0x144004 + 0x4000 * (n % 4)
def Fld.LMP_ROWS (n : Nat) : Field := ⟨(Reg.LMP_ROWS n), 0, 32⟩
/-- R358. -/
def Reg.LMP_ROWS_FAILED (n : Nat) : Nat := 0x144008 + 0x4000 * (n % 4)
def Fld.LMP_ROWS_FAILED (n : Nat) : Field := ⟨(Reg.LMP_ROWS_FAILED n), 0, 32⟩
/-- R358. -/
def Reg.LMP_RETRIES (n : Nat) : Nat := 0x14400c + 0x4000 * (n % 4)
def Fld.LMP_RETRIES (n : Nat) : Field := ⟨(Reg.LMP_RETRIES n), 0, 32⟩
/-- R383. -/
def Reg.SCN_FRAME_ADDR : Nat := 0x160000
def Fld.SCN_FRAME_ADDR_USE : Field := ⟨Reg.SCN_FRAME_ADDR, 0, 1⟩
def Fld.SCN_FRAME_ADDR_BASE : Field := ⟨Reg.SCN_FRAME_ADDR, 1, 31⟩
/-- R383. -/
def Reg.SCN_PIPE_BASE0 : Nat := 0x160004
def Fld.SCN_PIPE_BASE0 : Field := ⟨Reg.SCN_PIPE_BASE0, 0, 32⟩
/-- R383. -/
def Reg.SCN_PIPE_BASE1 : Nat := 0x160008
def Fld.SCN_PIPE_BASE1 : Field := ⟨Reg.SCN_PIPE_BASE1, 0, 32⟩
/-- R383. -/
def Reg.SCN_STAT : Nat := 0x16000c
def Fld.SCN_STAT_FROM_BASE : Field := ⟨Reg.SCN_STAT, 0, 1⟩
def Fld.SCN_STAT_RANGE : Field := ⟨Reg.SCN_STAT, 1, 1⟩
/-- R383. -/
def Reg.DRV_SYNC_COUNT : Nat := 0x160010
def Fld.DRV_SYNC_COUNT : Field := ⟨Reg.DRV_SYNC_COUNT, 0, 32⟩
/-- R383. -/
def Reg.SCN_RANGE_ERR : Nat := 0x160014
def Fld.SCN_RANGE_ERR : Field := ⟨Reg.SCN_RANGE_ERR, 0, 32⟩
/-- R383. -/
def Reg.SCN_CRC_XY (n : Nat) : Nat := 0x160040 + 0x10 * (n % 4)
def Fld.SCN_CRC_XY_X (n : Nat) : Field := ⟨(Reg.SCN_CRC_XY n), 0, 16⟩
def Fld.SCN_CRC_XY_Y (n : Nat) : Field := ⟨(Reg.SCN_CRC_XY n), 16, 16⟩
/-- R383. -/
def Reg.SCN_CRC_WH (n : Nat) : Nat := 0x160044 + 0x10 * (n % 4)
def Fld.SCN_CRC_WH_W (n : Nat) : Field := ⟨(Reg.SCN_CRC_WH n), 0, 16⟩
def Fld.SCN_CRC_WH_H (n : Nat) : Field := ⟨(Reg.SCN_CRC_WH n), 16, 16⟩
/-- R383. -/
def Reg.SCN_CRC_VAL (n : Nat) : Nat := 0x160048 + 0x10 * (n % 4)
def Fld.SCN_CRC_VAL (n : Nat) : Field := ⟨(Reg.SCN_CRC_VAL n), 0, 32⟩
/-- R383. -/
def Reg.SCN_CRC_TICK (n : Nat) : Nat := 0x16004c + 0x10 * (n % 4)
def Fld.SCN_CRC_TICK_TICK (n : Nat) : Field := ⟨(Reg.SCN_CRC_TICK n), 0, 31⟩
def Fld.SCN_CRC_TICK_VALID (n : Nat) : Field := ⟨(Reg.SCN_CRC_TICK n), 31, 1⟩
/-- R383. -/
def Reg.DRV_PROF_A (n : Nat) : Nat := 0x160100 + 8 * (n % 8)
def Fld.DRV_PROF_A_WORD_BITS (n : Nat) : Field := ⟨(Reg.DRV_PROF_A n), 0, 5⟩
def Fld.DRV_PROF_A_CHANNELS (n : Nat) : Field := ⟨(Reg.DRV_PROF_A n), 5, 6⟩
def Fld.DRV_PROF_A_SCAN (n : Nat) : Field := ⟨(Reg.DRV_PROF_A n), 11, 7⟩
def Fld.DRV_PROF_A_MSB_FIRST (n : Nat) : Field := ⟨(Reg.DRV_PROF_A n), 18, 1⟩
def Fld.DRV_PROF_A_SELF_REFRESH (n : Nat) : Field := ⟨(Reg.DRV_PROF_A n), 19, 1⟩
def Fld.DRV_PROF_A_STATUS_EN (n : Nat) : Field := ⟨(Reg.DRV_PROF_A n), 20, 1⟩
def Fld.DRV_PROF_A_DIV (n : Nat) : Field := ⟨(Reg.DRV_PROF_A n), 22, 10⟩
/-- R383. -/
def Reg.DRV_PROF_B (n : Nat) : Nat := 0x160104 + 8 * (n % 8)
def Fld.DRV_PROF_B_GROUP_LINES (n : Nat) : Field := ⟨(Reg.DRV_PROF_B n), 0, 7⟩
/-- R384. -/
def Reg.DRV_TE_CFG (n : Nat) : Nat := 0x164000 + 0x4000 * (n % 4)
def Fld.DRV_TE_CFG_ENABLE (n : Nat) : Field := ⟨(Reg.DRV_TE_CFG n), 0, 1⟩
def Fld.DRV_TE_CFG_POLARITY (n : Nat) : Field := ⟨(Reg.DRV_TE_CFG n), 1, 1⟩
/-- R384. -/
def Reg.DRV_TE_STAT (n : Nat) : Nat := 0x164004 + 0x4000 * (n % 4)
def Fld.DRV_TE_STAT_LEVEL (n : Nat) : Field := ⟨(Reg.DRV_TE_STAT n), 0, 1⟩
/-- R384. -/
def Reg.DRV_TE_MISSING (n : Nat) : Nat := 0x164008 + 0x4000 * (n % 4)
def Fld.DRV_TE_MISSING (n : Nat) : Field := ⟨(Reg.DRV_TE_MISSING n), 0, 32⟩
/-- R384. -/
def Reg.DRV_TE_OVERRUN (n : Nat) : Nat := 0x16400c + 0x4000 * (n % 4)
def Fld.DRV_TE_OVERRUN (n : Nat) : Field := ⟨(Reg.DRV_TE_OVERRUN n), 0, 32⟩
/-- R384. -/
def Reg.DRV_GROUP_CFG (n i : Nat) : Nat := 0x164100 + 0x4000 * (n % 4) + 0x20 * (i % 12)
def Fld.DRV_GROUP_CFG_PROFILE (n i : Nat) : Field := ⟨(Reg.DRV_GROUP_CFG n i), 0, 3⟩
def Fld.DRV_GROUP_CFG_USED (n i : Nat) : Field := ⟨(Reg.DRV_GROUP_CFG n i), 3, 1⟩
def Fld.DRV_GROUP_CFG_NDM1 (n i : Nat) : Field := ⟨(Reg.DRV_GROUP_CFG n i), 4, 4⟩
def Fld.DRV_GROUP_CFG_PORT_MASK (n i : Nat) : Field := ⟨(Reg.DRV_GROUP_CFG n i), 8, 8⟩
/-- R384. -/
def Reg.DRV_GROUP_STAT (n i : Nat) : Nat := 0x164104 + 0x4000 * (n % 4) + 0x20 * (i % 12)
def Fld.DRV_GROUP_STAT_STATE (n i : Nat) : Field := ⟨(Reg.DRV_GROUP_STAT n i), 0, 2⟩
def Fld.DRV_GROUP_STAT_LOADING (n i : Nat) : Field := ⟨(Reg.DRV_GROUP_STAT n i), 2, 1⟩
def Fld.DRV_GROUP_STAT_ROW_GROUP (n i : Nat) : Field := ⟨(Reg.DRV_GROUP_STAT n i), 3, 6⟩
def Fld.DRV_GROUP_STAT_FROM_BASE (n i : Nat) : Field := ⟨(Reg.DRV_GROUP_STAT n i), 9, 1⟩
/-- R384. -/
def Reg.DRV_LOADS (n i : Nat) : Nat := 0x164108 + 0x4000 * (n % 4) + 0x20 * (i % 12)
def Fld.DRV_LOADS (n i : Nat) : Field := ⟨(Reg.DRV_LOADS n i), 0, 32⟩
/-- R384. -/
def Reg.DRV_CUTS (n i : Nat) : Nat := 0x16410c + 0x4000 * (n % 4) + 0x20 * (i % 12)
def Fld.DRV_CUTS (n i : Nat) : Field := ⟨(Reg.DRV_CUTS n i), 0, 32⟩
/-- R384. -/
def Reg.DRV_FETCH_FAIL (n i : Nat) : Nat := 0x164110 + 0x4000 * (n % 4) + 0x20 * (i % 12)
def Fld.DRV_FETCH_FAIL (n i : Nat) : Field := ⟨(Reg.DRV_FETCH_FAIL n i), 0, 32⟩
/-- R384. -/
def Reg.DRV_RB_ERR (n i : Nat) : Nat := 0x164114 + 0x4000 * (n % 4) + 0x20 * (i % 12)
def Fld.DRV_RB_ERR (n i : Nat) : Field := ⟨(Reg.DRV_RB_ERR n i), 0, 32⟩
/-- R384. -/
def Reg.DRV_RB_PINS (n i : Nat) : Nat := 0x164118 + 0x4000 * (n % 4) + 0x20 * (i % 12)
def Fld.DRV_RB_PINS_D (n i : Nat) : Field := ⟨(Reg.DRV_RB_PINS n i), 0, 8⟩
def Fld.DRV_RB_PINS_K (n i : Nat) : Field := ⟨(Reg.DRV_RB_PINS n i), 8, 1⟩
def Fld.DRV_RB_PINS_L (n i : Nat) : Field := ⟨(Reg.DRV_RB_PINS n i), 9, 1⟩
/-- R384. -/
def Reg.DRV_STATUS_READS (n i : Nat) : Nat := 0x16411c + 0x4000 * (n % 4) + 0x20 * (i % 12)
def Fld.DRV_STATUS_READS (n i : Nat) : Field := ⟨(Reg.DRV_STATUS_READS n i), 0, 32⟩
/-- R413. -/
def Reg.LBD_CFG : Nat := 0x180000
def Fld.LBD_CFG_GREY_AFTER : Field := ⟨Reg.LBD_CFG, 0, 16⟩
def Fld.LBD_CFG_GREY_EN : Field := ⟨Reg.LBD_CFG, 16, 1⟩
def Fld.LBD_CFG_DIAG_BLACK : Field := ⟨Reg.LBD_CFG, 17, 1⟩
/-- R413. -/
def Reg.LBD_FAULT_CFG : Nat := 0x180004
def Fld.LBD_FAULT_CFG_OPEN_ACTION : Field := ⟨Reg.LBD_FAULT_CFG, 0, 2⟩
def Fld.LBD_FAULT_CFG_SHORT_ACTION : Field := ⟨Reg.LBD_FAULT_CFG, 2, 2⟩
def Fld.LBD_FAULT_CFG_OPEN_CONFIRM : Field := ⟨Reg.LBD_FAULT_CFG, 4, 4⟩
def Fld.LBD_FAULT_CFG_SHORT_CONFIRM : Field := ⟨Reg.LBD_FAULT_CFG, 8, 4⟩
def Fld.LBD_FAULT_CFG_CLEAR_CONFIRM : Field := ⟨Reg.LBD_FAULT_CFG, 12, 8⟩
/-- R413. -/
def Reg.LBD_LIFE_CFG : Nat := 0x180008
def Fld.LBD_LIFE_CFG_WARN_EFF : Field := ⟨Reg.LBD_LIFE_CFG, 0, 16⟩
/-- R413. -/
def Reg.LBD_WEAR_STORE : Nat := 0x18000c
def Fld.LBD_WEAR_STORE_SECONDS : Field := ⟨Reg.LBD_WEAR_STORE, 0, 17⟩
/-- R413. -/
def Reg.LBD_TEST : Nat := 0x180010
def Fld.LBD_TEST_BOARD : Field := ⟨Reg.LBD_TEST, 0, 6⟩
def Fld.LBD_TEST_RELEASE : Field := ⟨Reg.LBD_TEST, 6, 1⟩
def Fld.LBD_TEST_RETEST : Field := ⟨Reg.LBD_TEST, 7, 1⟩
/-- R413. -/
def Reg.LBD_GREY_PULSES : Nat := 0x180014
def Fld.LBD_GREY_PULSES : Field := ⟨Reg.LBD_GREY_PULSES, 0, 32⟩
/-- R413. -/
def Reg.LBD_WEAR_WRITES : Nat := 0x180018
def Fld.LBD_WEAR_WRITES : Field := ⟨Reg.LBD_WEAR_WRITES, 0, 32⟩
/-- R413. -/
def Reg.LBD_SIG_FAIL : Nat := 0x18001c
def Fld.LBD_SIG_FAIL : Field := ⟨Reg.LBD_SIG_FAIL, 0, 32⟩
/-- R413. -/
def Reg.LBD_FLOG_HEAD : Nat := 0x180020
def Fld.LBD_FLOG_HEAD_NEXT : Field := ⟨Reg.LBD_FLOG_HEAD, 0, 6⟩
def Fld.LBD_FLOG_HEAD_WRAPPED : Field := ⟨Reg.LBD_FLOG_HEAD, 6, 1⟩
/-- R413. -/
def Reg.LBD_UNVERIFIED : Nat := 0x180024
def Fld.LBD_UNVERIFIED : Field := ⟨Reg.LBD_UNVERIFIED, 0, 19⟩
/-- R413. -/
def Reg.LBD_BOARD_STAT (n : Nat) : Nat := 0x180100 + 0x20 * (n % 64)
def Fld.LBD_BOARD_STAT_STATE (n : Nat) : Field := ⟨(Reg.LBD_BOARD_STAT n), 0, 3⟩
def Fld.LBD_BOARD_STAT_REASON (n : Nat) : Field := ⟨(Reg.LBD_BOARD_STAT n), 3, 5⟩
def Fld.LBD_BOARD_STAT_SENSOR (n : Nat) : Field := ⟨(Reg.LBD_BOARD_STAT n), 8, 1⟩
def Fld.LBD_BOARD_STAT_SENSOR_FAULT (n : Nat) : Field := ⟨(Reg.LBD_BOARD_STAT n), 9, 1⟩
def Fld.LBD_BOARD_STAT_LIFE_WARN (n : Nat) : Field := ⟨(Reg.LBD_BOARD_STAT n), 10, 1⟩
def Fld.LBD_BOARD_STAT_MODEL_INVALID (n : Nat) : Field := ⟨(Reg.LBD_BOARD_STAT n), 11, 1⟩
/-- R413. -/
def Reg.LBD_BOARD_FAULTS (n : Nat) : Nat := 0x180104 + 0x20 * (n % 64)
def Fld.LBD_BOARD_FAULTS_OPEN (n : Nat) : Field := ⟨(Reg.LBD_BOARD_FAULTS n), 0, 14⟩
def Fld.LBD_BOARD_FAULTS_SHORT (n : Nat) : Field := ⟨(Reg.LBD_BOARD_FAULTS n), 14, 14⟩
/-- R413. -/
def Reg.LBD_BOARD_UNVER (n : Nat) : Nat := 0x180108 + 0x20 * (n % 64)
def Fld.LBD_BOARD_UNVER_COUNT (n : Nat) : Field := ⟨(Reg.LBD_BOARD_UNVER n), 0, 14⟩
def Fld.LBD_BOARD_UNVER_LONGEST (n : Nat) : Field := ⟨(Reg.LBD_BOARD_UNVER n), 16, 16⟩
/-- R413. -/
def Reg.LBD_BOARD_TEMP (n : Nat) : Nat := 0x18010c + 0x20 * (n % 64)
def Fld.LBD_BOARD_TEMP (n : Nat) : Field := ⟨(Reg.LBD_BOARD_TEMP n), 0, 16⟩
/-- R413. -/
def Reg.LBD_BOARD_SERIAL (n i : Nat) : Nat := 0x180110 + 0x20 * (n % 64) + 4 * (i % 4)
def Fld.LBD_BOARD_SERIAL (n i : Nat) : Field := ⟨(Reg.LBD_BOARD_SERIAL n i), 0, 32⟩
/-- R413. -/
def Reg.LBD_FLOG_CHAN (n : Nat) : Nat := 0x181000 + 0x10 * (n % 64)
def Fld.LBD_FLOG_CHAN_BOARD (n : Nat) : Field := ⟨(Reg.LBD_FLOG_CHAN n), 0, 6⟩
def Fld.LBD_FLOG_CHAN_PORT (n : Nat) : Field := ⟨(Reg.LBD_FLOG_CHAN n), 6, 4⟩
def Fld.LBD_FLOG_CHAN_DRIVER (n : Nat) : Field := ⟨(Reg.LBD_FLOG_CHAN n), 10, 4⟩
def Fld.LBD_FLOG_CHAN_CHANNEL (n : Nat) : Field := ⟨(Reg.LBD_FLOG_CHAN n), 14, 6⟩
/-- R413. -/
def Reg.LBD_FLOG_INFO (n : Nat) : Nat := 0x181004 + 0x10 * (n % 64)
def Fld.LBD_FLOG_INFO_KIND (n : Nat) : Field := ⟨(Reg.LBD_FLOG_INFO n), 0, 3⟩
/-- R413. -/
def Reg.LBD_FLOG_TICK (n : Nat) : Nat := 0x181008 + 0x10 * (n % 64)
def Fld.LBD_FLOG_TICK (n : Nat) : Field := ⟨(Reg.LBD_FLOG_TICK n), 0, 32⟩
/-- R414. -/
def Reg.LBD_BUS_STAT (n i : Nat) : Nat := 0x184000 + 0x4000 * (n % 4) + 0x10 * (i % 4)
def Fld.LBD_BUS_STAT_PRESENT (n i : Nat) : Field := ⟨(Reg.LBD_BUS_STAT n i), 0, 4⟩
def Fld.LBD_BUS_STAT_LIT (n i : Nat) : Field := ⟨(Reg.LBD_BUS_STAT n i), 4, 4⟩
def Fld.LBD_BUS_STAT_PASS (n i : Nat) : Field := ⟨(Reg.LBD_BUS_STAT n i), 8, 1⟩
/-- R414. -/
def Reg.LBD_BUS_ERR (n i : Nat) : Nat := 0x184004 + 0x4000 * (n % 4) + 0x10 * (i % 4)
def Fld.LBD_BUS_ERR (n i : Nat) : Field := ⟨(Reg.LBD_BUS_ERR n i), 0, 32⟩
/-- R414. -/
def Reg.LBD_GREY_DEFERRED (n : Nat) : Nat := 0x184040 + 0x4000 * (n % 4)
def Fld.LBD_GREY_DEFERRED (n : Nat) : Field := ⟨(Reg.LBD_GREY_DEFERRED n), 0, 32⟩
/-- R414. -/
def Reg.LBD_READOUTS_DISCARDED (n : Nat) : Nat := 0x184044 + 0x4000 * (n % 4)
def Fld.LBD_READOUTS_DISCARDED (n : Nat) : Field := ⟨(Reg.LBD_READOUTS_DISCARDED n), 0, 32⟩
/-- R433. -/
def Reg.AUD_STATE : Nat := 0x1a0000
def Fld.AUD_STATE_SPT : Field := ⟨Reg.AUD_STATE, 0, 14⟩
/-- R433. -/
def Reg.AUD_SAMPLE_LO : Nat := 0x1a0004
def Fld.AUD_SAMPLE_LO : Field := ⟨Reg.AUD_SAMPLE_LO, 0, 32⟩
/-- R433. -/
def Reg.AUD_SAMPLE_HI : Nat := 0x1a0008
def Fld.AUD_SAMPLE_HI : Field := ⟨Reg.AUD_SAMPLE_HI, 0, 16⟩
/-- R433. -/
def Reg.AUD_LEAD : Nat := 0x1a000c
def Fld.AUD_LEAD : Field := ⟨Reg.AUD_LEAD, 0, 24⟩
/-- R433. -/
def Reg.AUD_PLAY_RUN : Nat := 0x1a0010
def Fld.AUD_PLAY_RUN_TARGETS : Field := ⟨Reg.AUD_PLAY_RUN, 0, 17⟩
/-- R433. -/
def Reg.AUD_CAP_RUN : Nat := 0x1a0014
def Fld.AUD_CAP_RUN_PORTS : Field := ⟨Reg.AUD_CAP_RUN, 0, 16⟩
/-- R433. -/
def Reg.AUD_MISSING : Nat := 0x1a0018
def Fld.AUD_MISSING : Field := ⟨Reg.AUD_MISSING, 0, 32⟩
/-- R433. -/
def Reg.AUD_MASK_LATE : Nat := 0x1a001c
def Fld.AUD_MASK_LATE : Field := ⟨Reg.AUD_MASK_LATE, 0, 32⟩
/-- R433. -/
def Reg.AUD_UNDERRUN (n : Nat) : Nat := 0x1a0100 + 4 * (n % 17)
def Fld.AUD_UNDERRUN (n : Nat) : Field := ⟨(Reg.AUD_UNDERRUN n), 0, 32⟩
/-- R433. -/
def Reg.AUD_OVERRUN (n : Nat) : Nat := 0x1a0180 + 4 * (n % 16)
def Fld.AUD_OVERRUN (n : Nat) : Field := ⟨(Reg.AUD_OVERRUN n), 0, 32⟩
/-- R434. -/
def Reg.AUD_PORT_CFG (n i : Nat) : Nat := 0x1a4000 + 0x4000 * (n % 4) + 0x100 * (i % 4)
def Fld.AUD_PORT_CFG_ENABLE (n i : Nat) : Field := ⟨(Reg.AUD_PORT_CFG n i), 0, 1⟩
def Fld.AUD_PORT_CFG_DIR (n i : Nat) : Field := ⟨(Reg.AUD_PORT_CFG n i), 1, 1⟩
def Fld.AUD_PORT_CFG_MASTER (n i : Nat) : Field := ⟨(Reg.AUD_PORT_CFG n i), 2, 1⟩
def Fld.AUD_PORT_CFG_FORMAT (n i : Nat) : Field := ⟨(Reg.AUD_PORT_CFG n i), 3, 2⟩
def Fld.AUD_PORT_CFG_SLOTS_M1 (n i : Nat) : Field := ⟨(Reg.AUD_PORT_CFG n i), 5, 5⟩
def Fld.AUD_PORT_CFG_WIDTH (n i : Nat) : Field := ⟨(Reg.AUD_PORT_CFG n i), 10, 2⟩
def Fld.AUD_PORT_CFG_CHAN_BASE (n i : Nat) : Field := ⟨(Reg.AUD_PORT_CFG n i), 12, 5⟩
/-- R434. -/
def Reg.AUD_PORT_STAT (n i : Nat) : Nat := 0x1a4004 + 0x4000 * (n % 4) + 0x100 * (i % 4)
def Fld.AUD_PORT_STAT_STATE (n i : Nat) : Field := ⟨(Reg.AUD_PORT_STAT n i), 0, 3⟩
def Fld.AUD_PORT_STAT_CLASS (n i : Nat) : Field := ⟨(Reg.AUD_PORT_STAT n i), 3, 5⟩
/-- R434. -/
def Reg.AUD_MASK (n i : Nat) : Nat := 0x1a4008 + 0x4000 * (n % 4) + 0x100 * (i % 4)
def Fld.AUD_MASK (n i : Nat) : Field := ⟨(Reg.AUD_MASK n i), 0, 32⟩
/-- R434. -/
def Reg.AUD_MASK_SHADOW (n i : Nat) : Nat := 0x1a400c + 0x4000 * (n % 4) + 0x100 * (i % 4)
def Fld.AUD_MASK_SHADOW (n i : Nat) : Field := ⟨(Reg.AUD_MASK_SHADOW n i), 0, 32⟩
/-- R434. -/
def Reg.AUD_RATE (n i : Nat) : Nat := 0x1a4010 + 0x4000 * (n % 4) + 0x100 * (i % 4)
def Fld.AUD_RATE (n i : Nat) : Field := ⟨(Reg.AUD_RATE n i), 0, 32⟩
/-- R434. -/
def Reg.AUD_RATIO (n i : Nat) : Nat := 0x1a4014 + 0x4000 * (n % 4) + 0x100 * (i % 4)
def Fld.AUD_RATIO (n i : Nat) : Field := ⟨(Reg.AUD_RATIO n i), 0, 32⟩
/-- R434. -/
def Reg.AUD_FRAME_ERR (n i : Nat) : Nat := 0x1a4018 + 0x4000 * (n % 4) + 0x100 * (i % 4)
def Fld.AUD_FRAME_ERR (n i : Nat) : Field := ⟨(Reg.AUD_FRAME_ERR n i), 0, 32⟩
/-- R434. -/
def Reg.AUD_CLOCK_LOSS (n i : Nat) : Nat := 0x1a401c + 0x4000 * (n % 4) + 0x100 * (i % 4)
def Fld.AUD_CLOCK_LOSS (n i : Nat) : Field := ⟨(Reg.AUD_CLOCK_LOSS n i), 0, 32⟩
/-- R434. -/
def Reg.AUD_RELOCKS (n i : Nat) : Nat := 0x1a4020 + 0x4000 * (n % 4) + 0x100 * (i % 4)
def Fld.AUD_RELOCKS (n i : Nat) : Field := ⟨(Reg.AUD_RELOCKS n i), 0, 32⟩
/-- R459. -/
def Reg.MTR_STATE : Nat := 0x1c0000
def Fld.MTR_STATE_SEALED : Field := ⟨Reg.MTR_STATE, 0, 1⟩
def Fld.MTR_STATE_CAL : Field := ⟨Reg.MTR_STATE, 1, 1⟩
def Fld.MTR_STATE_STALE : Field := ⟨Reg.MTR_STATE, 2, 1⟩
def Fld.MTR_STATE_INDICATIVE : Field := ⟨Reg.MTR_STATE, 3, 1⟩
/-- R459. -/
def Reg.MTR_HEALTH : Nat := 0x1c0004
def Fld.MTR_HEALTH_MCLK_FAULT : Field := ⟨Reg.MTR_HEALTH, 0, 1⟩
def Fld.MTR_HEALTH_LOG_FULL : Field := ⟨Reg.MTR_HEALTH, 1, 1⟩
def Fld.MTR_HEALTH_CAL_EN : Field := ⟨Reg.MTR_HEALTH, 2, 1⟩
def Fld.MTR_HEALTH_FW_SLOT : Field := ⟨Reg.MTR_HEALTH, 3, 1⟩
def Fld.MTR_HEALTH_FW_REFUSED : Field := ⟨Reg.MTR_HEALTH, 4, 1⟩
/-- R459. -/
def Reg.MTR_INTERVAL_LO : Nat := 0x1c0008
def Fld.MTR_INTERVAL_LO : Field := ⟨Reg.MTR_INTERVAL_LO, 0, 32⟩
/-- R459. -/
def Reg.MTR_INTERVAL_HI : Nat := 0x1c000c
def Fld.MTR_INTERVAL_HI : Field := ⟨Reg.MTR_INTERVAL_HI, 0, 32⟩
/-- R459. -/
def Reg.MTR_MCLK_MEAS : Nat := 0x1c0010
def Fld.MTR_MCLK_MEAS : Field := ⟨Reg.MTR_MCLK_MEAS, 0, 32⟩
/-- R459. -/
def Reg.MTR_FW_VERSION : Nat := 0x1c0014
def Fld.MTR_FW_VERSION : Field := ⟨Reg.MTR_FW_VERSION, 0, 32⟩
/-- R459. -/
def Reg.MTR_LOG_COUNT : Nat := 0x1c0018
def Fld.MTR_LOG_COUNT_USED : Field := ⟨Reg.MTR_LOG_COUNT, 0, 11⟩
/-- R459. -/
def Reg.MTR_LOG_DROPPED : Nat := 0x1c001c
def Fld.MTR_LOG_DROPPED : Field := ⟨Reg.MTR_LOG_DROPPED, 0, 32⟩
/-- R459. -/
def Reg.MTR_SEAL_BREAKS : Nat := 0x1c0020
def Fld.MTR_SEAL_BREAKS : Field := ⟨Reg.MTR_SEAL_BREAKS, 0, 32⟩
/-- R459. -/
def Reg.MTR_REC_REQ : Nat := 0x1c0024
def Fld.MTR_REC_REQ : Field := ⟨Reg.MTR_REC_REQ, 0, 1⟩
/-- R459. -/
def Reg.MTR_REC_STAT : Nat := 0x1c0028
def Fld.MTR_REC_STAT : Field := ⟨Reg.MTR_REC_STAT, 0, 32⟩
/-- R459. -/
def Reg.MTR_FW_DIGEST (n : Nat) : Nat := 0x1c0040 + 4 * (n % 16)
def Fld.MTR_FW_DIGEST (n : Nat) : Field := ⟨(Reg.MTR_FW_DIGEST n), 0, 32⟩
/-- R459. -/
def Reg.MTR_CAL_CMD : Nat := 0x1c0300
def Fld.MTR_CAL_CMD_CMD : Field := ⟨Reg.MTR_CAL_CMD, 0, 8⟩
/-- R459. -/
def Reg.MTR_CAL_ARG0 : Nat := 0x1c0304
def Fld.MTR_CAL_ARG0_POINTS : Field := ⟨Reg.MTR_CAL_ARG0, 0, 16⟩
/-- R459. -/
def Reg.MTR_CAL_ARG1 : Nat := 0x1c0308
def Fld.MTR_CAL_ARG1 : Field := ⟨Reg.MTR_CAL_ARG1, 0, 32⟩
/-- R459. -/
def Reg.MTR_CAL_ARG2 : Nat := 0x1c030c
def Fld.MTR_CAL_ARG2_AC : Field := ⟨Reg.MTR_CAL_ARG2, 0, 1⟩
/-- R459. -/
def Reg.MTR_CAL_CERT (n : Nat) : Nat := 0x1c0310 + 4 * (n % 4)
def Fld.MTR_CAL_CERT (n : Nat) : Field := ⟨(Reg.MTR_CAL_CERT n), 0, 32⟩
/-- R459. -/
def Reg.MTR_CAL_STAT : Nat := 0x1c0320
def Fld.MTR_CAL_STAT_BUSY : Field := ⟨Reg.MTR_CAL_STAT, 0, 1⟩
def Fld.MTR_CAL_STAT_SESSION : Field := ⟨Reg.MTR_CAL_STAT, 1, 1⟩
def Fld.MTR_CAL_STAT_SEAL_PENDING : Field := ⟨Reg.MTR_CAL_STAT, 2, 1⟩
def Fld.MTR_CAL_STAT_RESULT : Field := ⟨Reg.MTR_CAL_STAT, 8, 8⟩
/-- R459. -/
def Reg.MTR_CAL_DATA (n : Nat) : Nat := 0x1c0400 + 4 * (n % 128)
def Fld.MTR_CAL_DATA (n : Nat) : Field := ⟨(Reg.MTR_CAL_DATA n), 0, 32⟩
/-- R459. -/
def Reg.MTR_REC (n : Nat) : Nat := 0x1c1000 + 4 * (n % 256)
def Fld.MTR_REC (n : Nat) : Field := ⟨(Reg.MTR_REC n), 0, 32⟩
/-- R459. -/
def Reg.MTR_LOG (n : Nat) : Nat := 0x1d0000 + 4 * (n % 16384)
def Fld.MTR_LOG (n : Nat) : Field := ⟨(Reg.MTR_LOG n), 0, 32⟩
/-- R460. -/
def Reg.MTR_ENERGY_LO (n : Nat) : Nat := 0x1c0100 + 0x20 * (n % 16)
def Fld.MTR_ENERGY_LO (n : Nat) : Field := ⟨(Reg.MTR_ENERGY_LO n), 0, 32⟩
/-- R460. -/
def Reg.MTR_ENERGY_HI (n : Nat) : Nat := 0x1c0104 + 0x20 * (n % 16)
def Fld.MTR_ENERGY_HI (n : Nat) : Field := ⟨(Reg.MTR_ENERGY_HI n), 0, 32⟩
/-- R460. -/
def Reg.MTR_POWER (n : Nat) : Nat := 0x1c0108 + 0x20 * (n % 16)
def Fld.MTR_POWER (n : Nat) : Field := ⟨(Reg.MTR_POWER n), 0, 32⟩
/-- R460. -/
def Reg.MTR_VRMS (n : Nat) : Nat := 0x1c010c + 0x20 * (n % 16)
def Fld.MTR_VRMS (n : Nat) : Field := ⟨(Reg.MTR_VRMS n), 0, 32⟩
/-- R460. -/
def Reg.MTR_IRMS (n : Nat) : Nat := 0x1c0110 + 0x20 * (n % 16)
def Fld.MTR_IRMS (n : Nat) : Field := ⟨(Reg.MTR_IRMS n), 0, 32⟩
/-- R460. -/
def Reg.MTR_POINT_STAT (n : Nat) : Nat := 0x1c0114 + 0x20 * (n % 16)
def Fld.MTR_POINT_STAT_STALE (n : Nat) : Field := ⟨(Reg.MTR_POINT_STAT n), 0, 1⟩
def Fld.MTR_POINT_STAT_OVERRANGE (n : Nat) : Field := ⟨(Reg.MTR_POINT_STAT n), 1, 1⟩
def Fld.MTR_POINT_STAT_REVERSED (n : Nat) : Field := ⟨(Reg.MTR_POINT_STAT n), 2, 1⟩
def Fld.MTR_POINT_STAT_STUCK (n : Nat) : Field := ⟨(Reg.MTR_POINT_STAT n), 3, 1⟩
def Fld.MTR_POINT_STAT_RAMP (n : Nat) : Field := ⟨(Reg.MTR_POINT_STAT n), 4, 7⟩
def Fld.MTR_POINT_STAT_CAL_SEQ (n : Nat) : Field := ⟨(Reg.MTR_POINT_STAT n), 16, 16⟩
/-- R478. -/
def Reg.THM_STATE : Nat := 0x1e0000
def Fld.THM_STATE_STATE : Field := ⟨Reg.THM_STATE, 0, 2⟩
def Fld.THM_STATE_WINDOW : Field := ⟨Reg.THM_STATE, 2, 1⟩
def Fld.THM_STATE_ERASE_OK : Field := ⟨Reg.THM_STATE, 3, 1⟩
def Fld.THM_STATE_CORE_METERED : Field := ⟨Reg.THM_STATE, 4, 1⟩
def Fld.THM_STATE_WALL_TH : Field := ⟨Reg.THM_STATE, 5, 1⟩
/-- R478. -/
def Reg.THM_CFG : Nat := 0x1e0004
def Fld.THM_CFG_THR_SCOPE : Field := ⟨Reg.THM_CFG, 0, 1⟩
def Fld.THM_CFG_AUTO_RESTART : Field := ⟨Reg.THM_CFG, 1, 1⟩
/-- R478. -/
def Reg.THM_THR : Nat := 0x1e0008
def Fld.THM_THR_DIE_THR : Field := ⟨Reg.THM_THR, 0, 8⟩
def Fld.THM_THR_BOARD_THR : Field := ⟨Reg.THM_THR, 8, 8⟩
def Fld.THM_THR_HYST : Field := ⟨Reg.THM_THR, 16, 4⟩
def Fld.THM_THR_LAMP_MAX : Field := ⟨Reg.THM_THR, 20, 8⟩
/-- R478. -/
def Reg.THM_KNEE : Nat := 0x1e000c
def Fld.THM_KNEE_KNEE : Field := ⟨Reg.THM_KNEE, 0, 8⟩
def Fld.THM_KNEE_SLOPE : Field := ⟨Reg.THM_KNEE, 8, 7⟩
def Fld.THM_KNEE_FLOOR : Field := ⟨Reg.THM_KNEE, 16, 16⟩
/-- R478. -/
def Reg.THM_WINDOW : Nat := 0x1e0010
def Fld.THM_WINDOW_WIN_LO : Field := ⟨Reg.THM_WINDOW, 0, 8⟩
def Fld.THM_WINDOW_WIN_HI : Field := ⟨Reg.THM_WINDOW, 8, 8⟩
def Fld.THM_WINDOW_RESTART_T : Field := ⟨Reg.THM_WINDOW, 16, 8⟩
/-- R478. -/
def Reg.THM_CCLK : Nat := 0x1e0014
def Fld.THM_CCLK_CUR : Field := ⟨Reg.THM_CCLK, 0, 11⟩
def Fld.THM_CCLK_MIN : Field := ⟨Reg.THM_CCLK, 16, 11⟩
/-- R478. -/
def Reg.THM_TH : Nat := 0x1e0018
def Fld.THM_TH_LOCAL : Field := ⟨Reg.THM_TH, 0, 16⟩
def Fld.THM_TH_APPLIED : Field := ⟨Reg.THM_TH, 16, 16⟩
/-- R478. -/
def Reg.THM_CAUSE : Nat := 0x1e001c
def Fld.THM_CAUSE_LAST : Field := ⟨Reg.THM_CAUSE, 0, 3⟩
def Fld.THM_CAUSE_STOPS : Field := ⟨Reg.THM_CAUSE, 3, 2⟩
/-- R478. -/
def Reg.THM_QUEUE : Nat := 0x1e0020
def Fld.THM_QUEUE_PENDING : Field := ⟨Reg.THM_QUEUE, 0, 4⟩
/-- R478. -/
def Reg.THM_TEST : Nat := 0x1e0024
def Fld.THM_TEST_SHUTDOWN : Field := ⟨Reg.THM_TEST, 0, 1⟩
/-- R478. -/
def Reg.THM_STEPS_DOWN : Nat := 0x1e0028
def Fld.THM_STEPS_DOWN : Field := ⟨Reg.THM_STEPS_DOWN, 0, 32⟩
/-- R478. -/
def Reg.THM_STEPS_UP : Nat := 0x1e002c
def Fld.THM_STEPS_UP : Field := ⟨Reg.THM_STEPS_UP, 0, 32⟩
/-- R478. -/
def Reg.THM_CCLK_STEPS : Nat := 0x1e0030
def Fld.THM_CCLK_STEPS : Field := ⟨Reg.THM_CCLK_STEPS, 0, 32⟩
/-- R478. -/
def Reg.THM_WRITES_DEFERRED : Nat := 0x1e0034
def Fld.THM_WRITES_DEFERRED : Field := ⟨Reg.THM_WRITES_DEFERRED, 0, 32⟩
/-- R478. -/
def Reg.THM_POWER_CORE : Nat := 0x1e0040
def Fld.THM_POWER_CORE : Field := ⟨Reg.THM_POWER_CORE, 0, 32⟩
/-- R478. -/
def Reg.THM_POWER_LED : Nat := 0x1e0044
def Fld.THM_POWER_LED : Field := ⟨Reg.THM_POWER_LED, 0, 32⟩
/-- R478. -/
def Reg.THM_NODE (n : Nat) : Nat := 0x1e0080 + 4 * (n % 7)
def Fld.THM_NODE (n : Nat) : Field := ⟨(Reg.THM_NODE n), 0, 16⟩
/-- R478. -/
def Reg.THM_DIODE (n : Nat) : Nat := 0x1e00a0 + 4 * (n % 2)
def Fld.THM_DIODE (n : Nat) : Field := ⟨(Reg.THM_DIODE n), 0, 16⟩
/-- R478. -/
def Reg.THM_LAMP_T (n : Nat) : Nat := 0x1e0100 + 8 * (n % 64)
def Fld.THM_LAMP_T_T (n : Nat) : Field := ⟨(Reg.THM_LAMP_T n), 0, 16⟩
def Fld.THM_LAMP_T_SRC (n : Nat) : Field := ⟨(Reg.THM_LAMP_T n), 16, 1⟩
def Fld.THM_LAMP_T_MODE (n : Nat) : Field := ⟨(Reg.THM_LAMP_T n), 17, 1⟩
/-- R478. -/
def Reg.THM_LAMP_S (n : Nat) : Nat := 0x1e0104 + 8 * (n % 64)
def Fld.THM_LAMP_S (n : Nat) : Field := ⟨(Reg.THM_LAMP_S n), 0, 16⟩
/-- R501. -/
def Reg.CTL_BOOT : Nat := 0
def Fld.CTL_BOOT_STATE : Field := ⟨Reg.CTL_BOOT, 0, 3⟩
def Fld.CTL_BOOT_ACTIVATING : Field := ⟨Reg.CTL_BOOT, 3, 1⟩
def Fld.CTL_BOOT_STRAP : Field := ⟨Reg.CTL_BOOT, 4, 1⟩
/-- R501. -/
def Reg.CTL_UMBER : Nat := 4
def Fld.CTL_UMBER_CAUSE : Field := ⟨Reg.CTL_UMBER, 0, 4⟩
/-- R501. -/
def Reg.CTL_BOOT_TIME : Nat := 8
def Fld.CTL_BOOT_TIME : Field := ⟨Reg.CTL_BOOT_TIME, 0, 20⟩
/-- R501. -/
def Reg.CTL_WDOG : Nat := 12
def Fld.CTL_WDOG_PERIOD : Field := ⟨Reg.CTL_WDOG, 0, 8⟩
def Fld.CTL_WDOG_LEFT : Field := ⟨Reg.CTL_WDOG, 8, 8⟩
def Fld.CTL_WDOG_STOPPED : Field := ⟨Reg.CTL_WDOG, 16, 1⟩
/-- R501. -/
def Reg.CTL_SERIAL_LO : Nat := 0x18
def Fld.CTL_SERIAL_LO : Field := ⟨Reg.CTL_SERIAL_LO, 0, 32⟩
/-- R501. -/
def Reg.CTL_SERIAL_HI : Nat := 0x1c
def Fld.CTL_SERIAL_HI : Field := ⟨Reg.CTL_SERIAL_HI, 0, 32⟩
/-- R501. -/
def Reg.CTL_UPD_STATE : Nat := 0x200
def Fld.CTL_UPD_STATE_STATE : Field := ⟨Reg.CTL_UPD_STATE, 0, 3⟩
def Fld.CTL_UPD_STATE_TXN : Field := ⟨Reg.CTL_UPD_STATE, 16, 16⟩
/-- R501. -/
def Reg.CTL_UPD_PROGRESS : Nat := 0x204
def Fld.CTL_UPD_PROGRESS_CHUNKS : Field := ⟨Reg.CTL_UPD_PROGRESS, 0, 24⟩
/-- R501. -/
def Reg.CTL_UPD_RESULT : Nat := 0x208
def Fld.CTL_UPD_RESULT_CODE : Field := ⟨Reg.CTL_UPD_RESULT, 0, 8⟩
def Fld.CTL_UPD_RESULT_WHERE : Field := ⟨Reg.CTL_UPD_RESULT, 8, 2⟩
def Fld.CTL_UPD_RESULT_VALID : Field := ⟨Reg.CTL_UPD_RESULT, 10, 1⟩
/-- R501. -/
def Reg.CTL_UPD_CFG : Nat := 0x20c
def Fld.CTL_UPD_CFG_CLOSE_LIMIT : Field := ⟨Reg.CTL_UPD_CFG, 0, 16⟩
def Fld.CTL_UPD_CFG_ROUNDS : Field := ⟨Reg.CTL_UPD_CFG, 16, 4⟩
/-- R501. -/
def Reg.CTL_OTP_ROLLBACK : Nat := 0x210
def Fld.CTL_OTP_ROLLBACK : Field := ⟨Reg.CTL_OTP_ROLLBACK, 0, 32⟩
/-- R501. -/
def Reg.CTL_UMB_CMD : Nat := 0x300
def Fld.CTL_UMB_CMD_CMD : Field := ⟨Reg.CTL_UMB_CMD, 0, 8⟩
/-- R501. -/
def Reg.CTL_UMB_OFFSET : Nat := 0x304
def Fld.CTL_UMB_OFFSET : Field := ⟨Reg.CTL_UMB_OFFSET, 0, 32⟩
/-- R501. -/
def Reg.CTL_UMB_LENGTH : Nat := 0x308
def Fld.CTL_UMB_LENGTH_LENGTH : Field := ⟨Reg.CTL_UMB_LENGTH, 0, 32⟩
/-- R501. -/
def Reg.CTL_UMB_STAT : Nat := 0x30c
def Fld.CTL_UMB_STAT_BUSY : Field := ⟨Reg.CTL_UMB_STAT, 0, 1⟩
def Fld.CTL_UMB_STAT_RESULT : Field := ⟨Reg.CTL_UMB_STAT, 8, 8⟩
/-- R501. -/
def Reg.CTL_ATT_STAT : Nat := 0x400
def Fld.CTL_ATT_STAT_SEQ : Field := ⟨Reg.CTL_ATT_STAT, 0, 16⟩
def Fld.CTL_ATT_STAT_BUSY : Field := ⟨Reg.CTL_ATT_STAT, 16, 1⟩
/-- R501. -/
def Reg.CTL_ATT_REPORT (n : Nat) : Nat := 0x1000 + 4 * (n % 256)
def Fld.CTL_ATT_REPORT (n : Nat) : Field := ⟨(Reg.CTL_ATT_REPORT n), 0, 32⟩
/-- R501. -/
def Reg.CTL_UMB_BUF (n : Nat) : Nat := 0x10000 + 4 * (n % 16384)
def Fld.CTL_UMB_BUF (n : Nat) : Field := ⟨(Reg.CTL_UMB_BUF n), 0, 32⟩
/-- R520. -/
def Reg.CTL_EVT_STATUS (n : Nat) : Nat := 0x2000 + 4 * (n % 16)
def Fld.CTL_EVT_STATUS (n : Nat) : Field := ⟨(Reg.CTL_EVT_STATUS n), 0, 32⟩
/-- R520. -/
def Reg.CTL_EVT_MASK (n : Nat) : Nat := 0x2040 + 4 * (n % 16)
def Fld.CTL_EVT_MASK (n : Nat) : Field := ⟨(Reg.CTL_EVT_MASK n), 0, 32⟩
/-- R520. -/
def Reg.CTL_EVT_FWD (n : Nat) : Nat := 0x2080 + 4 * (n % 16)
def Fld.CTL_EVT_FWD (n : Nat) : Field := ⟨(Reg.CTL_EVT_FWD n), 0, 32⟩
/-- R520. -/
def Reg.CTL_EVT_LOST : Nat := 0x20c0
def Fld.CTL_EVT_LOST : Field := ⟨Reg.CTL_EVT_LOST, 0, 32⟩
/-- R520. -/
def Reg.CTL_EVT_REMOTE_RX : Nat := 0x20c4
def Fld.CTL_EVT_REMOTE_RX : Field := ⟨Reg.CTL_EVT_REMOTE_RX, 0, 32⟩
/-- R520. -/
def Reg.CTL_EVT_FWD_LOST : Nat := 0x20c8
def Fld.CTL_EVT_FWD_LOST : Field := ⟨Reg.CTL_EVT_FWD_LOST, 0, 32⟩
/-- R520. -/
def Reg.CTL_EVT_COUNT (n : Nat) : Nat := 0x2800 + 4 * (n % 512)
def Fld.CTL_EVT_COUNT (n : Nat) : Field := ⟨(Reg.CTL_EVT_COUNT n), 0, 16⟩
/-- R520. -/
def Reg.CTL_CNT_CFG (n : Nat) : Nat := 0x4000 + 4 * (n % 64)
def Fld.CTL_CNT_CFG_EVENT (n : Nat) : Field := ⟨(Reg.CTL_CNT_CFG n), 0, 10⟩
def Fld.CTL_CNT_CFG_MODE (n : Nat) : Field := ⟨(Reg.CTL_CNT_CFG n), 10, 1⟩
def Fld.CTL_CNT_CFG_ENABLE (n : Nat) : Field := ⟨(Reg.CTL_CNT_CFG n), 11, 1⟩
def Fld.CTL_CNT_CFG_RFILT (n : Nat) : Field := ⟨(Reg.CTL_CNT_CFG n), 12, 3⟩
def Fld.CTL_CNT_CFG_RESET (n : Nat) : Field := ⟨(Reg.CTL_CNT_CFG n), 15, 1⟩
/-- R520. -/
def Reg.CTL_CNT_LO (n : Nat) : Nat := 0x4100 + 8 * (n % 64)
def Fld.CTL_CNT_LO (n : Nat) : Field := ⟨(Reg.CTL_CNT_LO n), 0, 32⟩
/-- R520. -/
def Reg.CTL_CNT_HI (n : Nat) : Nat := 0x4104 + 8 * (n % 64)
def Fld.CTL_CNT_HI (n : Nat) : Field := ⟨(Reg.CTL_CNT_HI n), 0, 16⟩
/-- R520. -/
def Reg.CTL_CNT_SNAP_LO (n : Nat) : Nat := 0x4300 + 8 * (n % 64)
def Fld.CTL_CNT_SNAP_LO (n : Nat) : Field := ⟨(Reg.CTL_CNT_SNAP_LO n), 0, 32⟩
/-- R520. -/
def Reg.CTL_CNT_SNAP_HI (n : Nat) : Nat := 0x4304 + 8 * (n % 64)
def Fld.CTL_CNT_SNAP_HI (n : Nat) : Field := ⟨(Reg.CTL_CNT_SNAP_HI n), 0, 16⟩
/-- R520. -/
def Reg.CTL_CNT_GLOBAL : Nat := 0x4500
def Fld.CTL_CNT_GLOBAL_FREEZE : Field := ⟨Reg.CTL_CNT_GLOBAL, 0, 1⟩
def Fld.CTL_CNT_GLOBAL_SNAP : Field := ⟨Reg.CTL_CNT_GLOBAL, 1, 1⟩
def Fld.CTL_CNT_GLOBAL_SNAP_AT_TICK : Field := ⟨Reg.CTL_CNT_GLOBAL, 2, 1⟩
def Fld.CTL_CNT_GLOBAL_USER : Field := ⟨Reg.CTL_CNT_GLOBAL, 3, 1⟩
def Fld.CTL_CNT_GLOBAL_CLEAR : Field := ⟨Reg.CTL_CNT_GLOBAL, 4, 1⟩
/-- R520. -/
def Reg.CTL_CNT_OVF_A : Nat := 0x4504
def Fld.CTL_CNT_OVF_A : Field := ⟨Reg.CTL_CNT_OVF_A, 0, 32⟩
/-- R520. -/
def Reg.CTL_CNT_OVF_B : Nat := 0x4508
def Fld.CTL_CNT_OVF_B : Field := ⟨Reg.CTL_CNT_OVF_B, 0, 32⟩
/-- R520. -/
def Reg.CTL_CNT_SNAP_SEQ : Nat := 0x450c
def Fld.CTL_CNT_SNAP_SEQ : Field := ⟨Reg.CTL_CNT_SNAP_SEQ, 0, 32⟩
/-- R520. -/
def Reg.CTL_CNT_SNAP_TICK_LO : Nat := 0x4510
def Fld.CTL_CNT_SNAP_TICK_LO : Field := ⟨Reg.CTL_CNT_SNAP_TICK_LO, 0, 32⟩
/-- R520. -/
def Reg.CTL_CNT_SNAP_TICK_HI : Nat := 0x4514
def Fld.CTL_CNT_SNAP_TICK_HI : Field := ⟨Reg.CTL_CNT_SNAP_TICK_HI, 0, 16⟩
/-- R536. -/
def Reg.CTL_ERR_STAT : Nat := 0x500
def Fld.CTL_ERR_STAT_FENCED : Field := ⟨Reg.CTL_ERR_STAT, 0, 4⟩
def Fld.CTL_ERR_STAT_FENCE_HELD : Field := ⟨Reg.CTL_ERR_STAT, 4, 4⟩
def Fld.CTL_ERR_STAT_RESTART_BLOCKED : Field := ⟨Reg.CTL_ERR_STAT, 8, 1⟩
def Fld.CTL_ERR_STAT_RESTARTS : Field := ⟨Reg.CTL_ERR_STAT, 9, 2⟩
/-- R536. -/
def Reg.CTL_ERR_CELL_RETRY : Nat := 0x504
def Fld.CTL_ERR_CELL_RETRY : Field := ⟨Reg.CTL_ERR_CELL_RETRY, 0, 32⟩
/-- R536. -/
def Reg.CTL_ERR_CELL_SUBST : Nat := 0x508
def Fld.CTL_ERR_CELL_SUBST : Field := ⟨Reg.CTL_ERR_CELL_SUBST, 0, 32⟩
/-- R536. -/
def Reg.CTL_ERR_BLOCK_RESTARTS : Nat := 0x50c
def Fld.CTL_ERR_BLOCK_RESTARTS : Field := ⟨Reg.CTL_ERR_BLOCK_RESTARTS, 0, 32⟩
/-- R536. -/
def Reg.CTL_ERR_FENCES : Nat := 0x510
def Fld.CTL_ERR_FENCES : Field := ⟨Reg.CTL_ERR_FENCES, 0, 32⟩
/-- R536. -/
def Reg.CTL_ERR_CHIP : Nat := 0x514
def Fld.CTL_ERR_CHIP : Field := ⟨Reg.CTL_ERR_CHIP, 0, 32⟩
/-- R536. -/
def Reg.CTL_ALERT : Nat := 0x518
def Fld.CTL_ALERT_CAUSES : Field := ⟨Reg.CTL_ALERT, 0, 8⟩
/-- R536. -/
def Reg.CTL_ERR_HEAD : Nat := 0x51c
def Fld.CTL_ERR_HEAD_NEXT : Field := ⟨Reg.CTL_ERR_HEAD, 0, 4⟩
def Fld.CTL_ERR_HEAD_WRAPPED : Field := ⟨Reg.CTL_ERR_HEAD, 4, 1⟩
/-- R536. -/
def Reg.CTL_ERR_LOG_A (n : Nat) : Nat := 0x600 + 0x10 * (n % 16)
def Fld.CTL_ERR_LOG_A_LEVEL (n : Nat) : Field := ⟨(Reg.CTL_ERR_LOG_A n), 0, 2⟩
def Fld.CTL_ERR_LOG_A_REGION (n : Nat) : Field := ⟨(Reg.CTL_ERR_LOG_A n), 2, 2⟩
def Fld.CTL_ERR_LOG_A_BLOCK (n : Nat) : Field := ⟨(Reg.CTL_ERR_LOG_A n), 4, 4⟩
def Fld.CTL_ERR_LOG_A_CELL (n : Nat) : Field := ⟨(Reg.CTL_ERR_LOG_A n), 8, 4⟩
def Fld.CTL_ERR_LOG_A_CAUSE (n : Nat) : Field := ⟨(Reg.CTL_ERR_LOG_A n), 12, 4⟩
def Fld.CTL_ERR_LOG_A_VALID (n : Nat) : Field := ⟨(Reg.CTL_ERR_LOG_A n), 16, 1⟩
/-- R536. -/
def Reg.CTL_ERR_LOG_TICK (n : Nat) : Nat := 0x604 + 0x10 * (n % 16)
def Fld.CTL_ERR_LOG_TICK (n : Nat) : Field := ⟨(Reg.CTL_ERR_LOG_TICK n), 0, 32⟩
/-- R536. -/
def Reg.CTL_ERR_LOG_ROW (n : Nat) : Nat := 0x608 + 0x10 * (n % 16)
def Fld.CTL_ERR_LOG_ROW_ROW (n : Nat) : Field := ⟨(Reg.CTL_ERR_LOG_ROW n), 0, 12⟩
def Fld.CTL_ERR_LOG_ROW_TILE (n : Nat) : Field := ⟨(Reg.CTL_ERR_LOG_ROW n), 12, 10⟩
/-- R561. -/
def Reg.CTL_SVC_CFG_A : Nat := 0x5000
/-- R561. The field of pin p, p from 0 to 7. -/
def Fld.CTL_SVC_CFG_A_FUNC (p : Nat) : Field := ⟨Reg.CTL_SVC_CFG_A, 4 * p, 4⟩
/-- R561. -/
def Reg.CTL_SVC_CFG_B : Nat := 0x5004
/-- R561. The field of pin 8 + p, p from 0 to 7. -/
def Fld.CTL_SVC_CFG_B_FUNC (p : Nat) : Field := ⟨Reg.CTL_SVC_CFG_B, 4 * p, 4⟩
/-- R561. -/
def Reg.CTL_SVC_IN : Nat := 0x5008
def Fld.CTL_SVC_IN_LEVEL : Field := ⟨Reg.CTL_SVC_IN, 0, 16⟩
/-- R122. -/
def Reg.HRG_MSIX_ADDR_LO (n : Nat) : Nat := 0x50000 + 0x10 * (n % 512)
def Fld.HRG_MSIX_ADDR_LO (n : Nat) : Field := ⟨(Reg.HRG_MSIX_ADDR_LO n), 0, 32⟩
/-- R122. -/
def Reg.HRG_MSIX_ADDR_HI (n : Nat) : Nat := 0x50004 + 0x10 * (n % 512)
def Fld.HRG_MSIX_ADDR_HI (n : Nat) : Field := ⟨(Reg.HRG_MSIX_ADDR_HI n), 0, 32⟩
/-- R122. -/
def Reg.HRG_MSIX_DATA (n : Nat) : Nat := 0x50008 + 0x10 * (n % 512)
def Fld.HRG_MSIX_DATA (n : Nat) : Field := ⟨(Reg.HRG_MSIX_DATA n), 0, 32⟩
/-- R122. -/
def Reg.HRG_MSIX_CTL (n : Nat) : Nat := 0x5000c + 0x10 * (n % 512)
def Fld.HRG_MSIX_CTL (n : Nat) : Field := ⟨(Reg.HRG_MSIX_CTL n), 0, 1⟩
/-- R122. -/
def Reg.HRG_MSIX_PBA (n : Nat) : Nat := 0x52000 + 4 * (n % 16)
def Fld.HRG_MSIX_PBA (n : Nat) : Field := ⟨(Reg.HRG_MSIX_PBA n), 0, 32⟩

/-- The access table of page 0 (CTL_). -/
def regRowsCTL : List RegRow := [
  ⟨0x10, [], 0x194e06, 0, 0, 0, 0, 0, 0, 3⟩,
  ⟨0x14, [], 0, 0, 0, 0, 0, 0, 0, 0⟩,
  ⟨0x100, [], 0, 0, 0, 0, 0, 0, 0, 0⟩,
  ⟨0x104, [], 0, 0, 0, 0, 0, 0, 0, 0⟩,
  ⟨0x108, [], 0, 0, 0, 0, 0, 0, 0, 0⟩,
  ⟨0x10c, [], 0, 0, 0, 0, 0, 0, 0, 0⟩,
  ⟨0x110, [], 0, 0, 0, 0, 0, 0, 0, 0⟩,
  ⟨0x114, [], 0, 0, 0, 0, 0, 0, 0, 0⟩,
  ⟨0x118, [], 0, 0, 0, 0, 0, 0, 0, 0⟩,
  ⟨0x140, [(16, 4)], 0, 0, 0, 0, 0, 0, 0, 0⟩,
  ⟨0, [], 0, 0, 0, 0, 0, 0, 0, 0⟩,
  ⟨4, [], 0, 0, 0, 0, 0, 0, 0, 0⟩,
  ⟨8, [], 0, 0, 0, 0, 0, 0, 0, 0⟩,
  ⟨12, [], 0x14, 0, 0, 0, 0, 0, 0, 0⟩,
  ⟨0x18, [], 1, 0, 0, 0, 0, 0, 0, 3⟩,
  ⟨0x1c, [], 0, 0, 0, 0, 0, 0, 0, 3⟩,
  ⟨0x200, [], 0, 0, 0, 0, 0, 0, 0, 0⟩,
  ⟨0x204, [], 0, 0, 0, 0, 0, 0, 0, 0⟩,
  ⟨0x208, [], 0, 0, 0, 0, 0, 0, 0, 0⟩,
  ⟨0x20c, [], 0x80258, 0, 0, 0xfffff, 0, 0, 0, 0⟩,
  ⟨0x210, [], 0, 0, 0, 0, 0, 0, 0, 3⟩,
  ⟨0x300, [], 0, 0, 0xff, 0, 0, 0, 0, 0⟩,
  ⟨0x304, [], 0, 0, 0xffffffff, 0, 0, 0, 0, 0⟩,
  ⟨0x308, [], 0, 0, 0xffffffff, 0, 0, 0, 0, 0⟩,
  ⟨0x30c, [], 0, 0, 0, 0, 0, 0, 0, 0⟩,
  ⟨0x400, [], 0, 0, 0, 0, 0, 0, 0, 0⟩,
  ⟨0x1000, [(256, 4)], 0, 0, 0, 0, 0, 0, 0, 0⟩,
  ⟨0x10000, [(16384, 4)], 0, 0, 0xffffffff, 0, 0, 0, 0, 0⟩,
  ⟨0x2000, [(16, 4)], 0, 0, 0, 0, 0xffffffff, 0, 0, 0⟩,
  ⟨0x2040, [(16, 4)], 0xffffffff, 0, 0xffffffff, 0, 0, 0, 0, 0⟩,
  ⟨0x2080, [(16, 4)], 0, 0, 0xffffffff, 0, 0, 0, 0, 0⟩,
  ⟨0x20c0, [], 0, 0, 0, 0, 0, 0, 0, 1⟩,
  ⟨0x20c4, [], 0, 0, 0, 0, 0, 0, 0, 1⟩,
  ⟨0x20c8, [], 0, 0, 0, 0, 0, 0, 0, 1⟩,
  ⟨0x2800, [(512, 4)], 0, 0, 0, 0, 0, 0, 0, 0⟩,
  ⟨0x4000, [(64, 4)], 0, 0, 0x7fff, 0, 0, 0x8000, 0, 0⟩,
  ⟨0x4100, [(64, 8)], 0, 0, 0, 0, 0, 0, 0, 0⟩,
  ⟨0x4104, [(64, 8)], 0, 0, 0, 0, 0, 0, 0, 0⟩,
  ⟨0x4300, [(64, 8)], 0, 0, 0, 0, 0, 0, 0, 0⟩,
  ⟨0x4304, [(64, 8)], 0, 0, 0, 0, 0, 0, 0, 0⟩,
  ⟨0x4500, [], 0, 0, 13, 0, 0, 0x12, 0, 0⟩,
  ⟨0x4504, [], 0, 0, 0, 0, 0xffffffff, 0, 0, 0⟩,
  ⟨0x4508, [], 0, 0, 0, 0, 0xffffffff, 0, 0, 0⟩,
  ⟨0x450c, [], 0, 0, 0, 0, 0, 0, 0, 0⟩,
  ⟨0x4510, [], 0, 0, 0, 0, 0, 0, 0, 0⟩,
  ⟨0x4514, [], 0, 0, 0, 0, 0, 0, 0, 0⟩,
  ⟨0x500, [], 0, 0, 0, 0, 0, 0, 0, 1⟩,
  ⟨0x504, [], 0, 0, 0, 0, 0, 0, 0, 1⟩,
  ⟨0x508, [], 0, 0, 0, 0, 0, 0, 0, 1⟩,
  ⟨0x50c, [], 0, 0, 0, 0, 0, 0, 0, 1⟩,
  ⟨0x510, [], 0, 0, 0, 0, 0, 0, 0, 1⟩,
  ⟨0x514, [], 0, 0, 0, 0, 0, 0, 0, 1⟩,
  ⟨0x518, [], 0, 0, 0, 0, 0, 0, 0, 1⟩,
  ⟨0x51c, [], 0, 0, 0, 0, 0, 0, 0, 1⟩,
  ⟨0x600, [(16, 0x10)], 0, 0, 0, 0, 0, 0, 0, 1⟩,
  ⟨0x604, [(16, 0x10)], 0, 0, 0, 0, 0, 0, 0, 1⟩,
  ⟨0x608, [(16, 0x10)], 0, 0, 0, 0, 0, 0, 0, 1⟩,
  ⟨0x5000, [], 0, 0, 0, 0xffffffff, 0, 0, 0, 0⟩,
  ⟨0x5004, [], 0, 0, 0, 0xffffffff, 0, 0, 0, 0⟩,
  ⟨0x5008, [], 0, 0, 0, 0, 0, 0, 0, 0⟩]
/-- The access table of page 1 (TCK_). -/
def regRowsTCK : List RegRow := [
  ⟨0x20000, [], 0, 0, 0, 0, 0, 0, 0, 0⟩,
  ⟨0x20004, [], 0, 0, 0, 0, 0, 0, 0, 0⟩,
  ⟨0x20008, [], 0, 0, 0, 0, 0, 0, 0, 0⟩,
  ⟨0x2000c, [], 0, 0, 0, 0, 0, 0, 0, 0⟩,
  ⟨0x20010, [], 0, 0, 0, 0, 0, 0, 0, 0⟩,
  ⟨0x20014, [], 0, 0, 0, 0, 0, 0, 0, 0⟩,
  ⟨0x20018, [], 0, 0, 0, 0xffffff0f, 0, 0, 0, 0⟩,
  ⟨0x2001c, [], 0x100, 0, 0, 0xff03, 0, 0, 0, 0⟩,
  ⟨0x20020, [], 0, 0, 0, 0, 0, 0, 0, 0⟩,
  ⟨0x20024, [], 0, 0, 0, 0, 0, 0, 0, 0⟩,
  ⟨0x20028, [], 0, 0, 0, 0, 0, 0, 0, 0⟩,
  ⟨0x2002c, [], 0, 0, 0, 0xffffff, 0, 0, 0, 0⟩,
  ⟨0x20030, [], 0, 0, 1, 0, 0, 0, 0, 0⟩,
  ⟨0x20040, [], 0, 0, 0, 0, 0, 0, 0, 0⟩,
  ⟨0x20044, [], 0, 0, 0, 0, 0, 0, 0, 0⟩,
  ⟨0x20048, [], 0, 0, 0, 0, 0, 0, 0, 0⟩,
  ⟨0x2004c, [], 0, 0, 0, 0, 0, 0, 0, 0⟩,
  ⟨0x20080, [(16, 4)], 0, 0, 0, 0, 0, 0, 0, 0⟩,
  ⟨0x21000, [(16, 0x100), (64, 4)], 0, 0, 0, 0, 0, 0, 0, 0⟩,
  ⟨0x24000, [(4, 0x4000)], 0, 0, 0, 0, 0, 0, 0, 0⟩,
  ⟨0x24004, [(4, 0x4000)], 0, 0, 0, 0, 0, 0, 0, 0⟩,
  ⟨0x24008, [(4, 0x4000)], 0, 0, 0, 0, 0, 0, 0, 0⟩,
  ⟨0x2400c, [(4, 0x4000)], 0, 0, 0, 0, 0, 0, 0, 0⟩,
  ⟨0x24010, [(4, 0x4000)], 0, 0, 0, 0, 0, 0, 0, 0⟩]
/-- The access table of page 2 (HRG_). -/
def regRowsHRG : List RegRow := [
  ⟨0x40000, [], 0, 0, 0, 0, 0, 0, 0, 0⟩,
  ⟨0x40004, [], 0x3f, 0, 0, 0x3f, 0, 0, 0, 0⟩,
  ⟨0x40008, [], 0, 0, 0, 0, 0, 0, 0, 0⟩,
  ⟨0x4000c, [], 0, 0, 0, 0, 0, 0, 0, 0⟩,
  ⟨0x40010, [], 0, 0, 0, 0, 0, 0, 0, 0⟩,
  ⟨0x40014, [], 0, 0, 0, 0, 0, 0, 0, 0⟩,
  ⟨0x40018, [], 0x2000040, 0, 0, 0x3ff007f, 0, 0, 0, 0⟩,
  ⟨0x4001c, [], 0xc350, 0, 0, 0, 0, 0, 0, 0⟩,
  ⟨0x40020, [], 0, 0, 0, 0, 0, 0, 0, 0⟩,
  ⟨0x40024, [], 0, 0, 0, 0, 0, 0, 0, 0⟩,
  ⟨0x40028, [], 0, 0, 0, 0, 0, 0, 0, 0⟩,
  ⟨0x4002c, [], 0, 0, 0, 0, 0, 0, 0, 0⟩,
  ⟨0x40030, [], 0, 0, 0, 0, 0, 0, 0, 0⟩,
  ⟨0x40800, [(256, 4)], 0x10000, 0x20002, 0, 0, 0, 0, 0, 0⟩,
  ⟨0x50000, [(512, 0x10)], 0, 0, 0xfffffffc, 0, 0, 0, 0, 0⟩,
  ⟨0x50004, [(512, 0x10)], 0, 0, 0xffffffff, 0, 0, 0, 0, 0⟩,
  ⟨0x50008, [(512, 0x10)], 0, 0, 0xffffffff, 0, 0, 0, 0, 0⟩,
  ⟨0x5000c, [(512, 0x10)], 1, 0, 1, 0, 0, 0, 0, 0⟩,
  ⟨0x52000, [(16, 4)], 0, 0, 0, 0, 0, 0, 0, 0⟩]
/-- The access table of page 3 (XLT_). -/
def regRowsXLT : List RegRow := [
  ⟨0x60000, [], 0x2010100, 0, 0, 0x3fffffff, 0, 0, 0, 0⟩,
  ⟨0x60004, [], 0xc0, 0, 0, 0x3ff, 0, 0, 0, 0⟩,
  ⟨0x60008, [], 0, 0, 0, 0, 0, 0, 0, 0⟩,
  ⟨0x6000c, [], 0, 0, 0, 0, 0, 0, 0, 1⟩,
  ⟨0x60010, [], 0, 0, 0, 0, 0, 0, 0, 0⟩,
  ⟨0x60014, [], 0, 0, 0, 0, 0, 0, 0, 0⟩,
  ⟨0x60018, [], 0, 0, 0, 0, 0, 0, 0, 0⟩,
  ⟨0x61000, [(256, 0x10)], 0, 0, 0, 0, 0, 0, 0, 0⟩,
  ⟨0x61004, [(256, 0x10)], 0, 0, 0, 0, 0, 0, 0, 0⟩,
  ⟨0x61008, [(256, 0x10)], 0, 0, 0, 0, 0, 0, 0, 0⟩,
  ⟨0x64000, [(4, 0x4000)], 0, 0, 0, 0, 0, 0, 0, 0⟩,
  ⟨0x64004, [(4, 0x4000)], 0, 0, 0, 0, 0, 0, 0, 0⟩,
  ⟨0x64008, [(4, 0x4000)], 0, 0, 0, 0, 0, 0, 0, 1⟩,
  ⟨0x6400c, [(4, 0x4000)], 0, 0, 0, 0, 0, 0, 0, 0⟩,
  ⟨0x64010, [(4, 0x4000)], 0, 0, 0, 0, 0, 0, 0, 0⟩,
  ⟨0x64014, [(4, 0x4000)], 0, 0, 0, 0, 0, 0, 0, 0⟩,
  ⟨0x64018, [(4, 0x4000)], 0, 0, 0, 0, 0, 0, 0, 0⟩,
  ⟨0x64100, [(4, 0x4000), (16, 0x10)], 0, 0, 0, 0, 0, 0, 0, 0⟩,
  ⟨0x64104, [(4, 0x4000), (16, 0x10)], 0, 0, 0, 0, 0, 0, 0, 0⟩,
  ⟨0x64108, [(4, 0x4000), (16, 0x10)], 0, 0, 0, 0, 0, 0, 0, 0⟩,
  ⟨0x6410c, [(4, 0x4000), (16, 0x10)], 0, 0, 0, 0, 0, 0, 0, 0⟩]
/-- The access table of page 4 (DMC_). -/
def regRowsDMC : List RegRow := [
  ⟨0x80000, [], 0x17, 0, 0, 0x1f, 0, 0, 0, 0⟩,
  ⟨0x80004, [], 0x50140a, 0, 0, 0xffffff, 0, 0, 0, 0⟩,
  ⟨0x80008, [], 0x10101010, 0, 0, 0x3f3f3f3f, 0, 0, 0, 0⟩,
  ⟨0x8000c, [], 0x1018, 0, 0, 0x3f3f, 0, 0, 0, 0⟩,
  ⟨0x80010, [], 0, 0, 0, 0, 0, 0, 0, 0⟩,
  ⟨0x80014, [], 3, 0, 0, 0, 0, 0, 0, 0⟩,
  ⟨0x84000, [(4, 0x4000), (4, 0x400)], 0x300, 0, 0, 0, 0, 0, 0, 0⟩,
  ⟨0x84004, [(4, 0x4000), (4, 0x400)], 0, 0, 0, 0, 0, 0, 0, 1⟩,
  ⟨0x84008, [(4, 0x4000), (4, 0x400)], 0, 0, 0, 0, 0, 0, 0, 1⟩,
  ⟨0x8400c, [(4, 0x4000), (4, 0x400)], 0, 0, 0, 0, 0, 0, 0, 1⟩,
  ⟨0x84010, [(4, 0x4000), (4, 0x400)], 0, 0, 0, 0, 0, 0, 0, 1⟩,
  ⟨0x84014, [(4, 0x4000), (4, 0x400)], 0, 0, 0, 0, 0, 0, 0, 1⟩,
  ⟨0x84018, [(4, 0x4000), (4, 0x400)], 0, 0, 0, 0, 0, 0, 0, 1⟩,
  ⟨0x8401c, [(4, 0x4000), (4, 0x400)], 0, 0, 0, 0, 0, 0, 0, 1⟩,
  ⟨0x84020, [(4, 0x4000), (4, 0x400)], 0, 0, 0, 0, 0, 0, 0, 0⟩,
  ⟨0x84040, [(4, 0x4000), (4, 0x400)], 0, 0, 0, 0xffffff, 0, 0, 0, 0⟩,
  ⟨0x84044, [(4, 0x4000), (4, 0x400)], 0, 0, 0, 0xffffffff, 0, 0, 0, 0⟩,
  ⟨0x84048, [(4, 0x4000), (4, 0x400)], 0, 0, 0, 0, 0, 0, 0, 0⟩,
  ⟨0x84080, [(4, 0x4000), (4, 0x400), (16, 4)], 0, 0, 0, 0xffffffff, 0, 0, 0, 0⟩]
/-- The access table of page 5 (CMP_). -/
def regRowsCMP : List RegRow := [
  ⟨0xa0000, [], 0xa43208, 0, 0, 0xfffffff, 0, 0, 0, 0⟩,
  ⟨0xa0004, [], 0, 0, 0, 0, 0, 0, 0, 1⟩,
  ⟨0xa0008, [], 0, 0, 0, 0, 0, 0, 0, 1⟩,
  ⟨0xa000c, [], 0, 0, 0, 0, 0, 0, 0, 1⟩,
  ⟨0xa0010, [], 0, 0, 0, 0, 0, 0, 0, 1⟩,
  ⟨0xa0014, [], 0, 0, 0, 0, 0, 0, 0, 0⟩,
  ⟨0xa0018, [], 0, 0, 0, 0, 0, 0, 0, 1⟩,
  ⟨0xa001c, [], 0, 0, 0, 0, 0, 0, 0, 0⟩,
  ⟨0xa0100, [(64, 4)], 0, 0, 0, 3, 0, 0, 0, 0⟩,
  ⟨0xa0200, [(64, 0x10)], 0, 0, 0, 0, 0, 0, 0, 0⟩,
  ⟨0xa0204, [(64, 0x10)], 0, 0, 0, 0, 0, 0, 0, 0⟩,
  ⟨0xa0208, [(64, 0x10)], 0, 0, 0, 0, 0, 0, 0, 0⟩,
  ⟨0xa020c, [(64, 0x10)], 0, 0, 0, 0, 0, 0, 0, 0⟩,
  ⟨0xa0600, [(256, 8)], 0, 0, 0, 0, 0, 0, 0, 0⟩,
  ⟨0xa0604, [(256, 8)], 0, 0, 0, 0, 0, 0, 0, 0⟩,
  ⟨0xa4000, [(4, 0x4000)], 0, 0, 0, 0, 0, 0, 0, 0⟩,
  ⟨0xa1000, [], 0xcb0002, 0, 0, 0xffff0007, 0, 0, 0, 0⟩,
  ⟨0xa1004, [], 0, 0, 0, 0, 0, 0, 0, 1⟩,
  ⟨0xa1008, [], 0, 0, 0, 0, 0, 0, 0, 1⟩,
  ⟨0xa100c, [], 0, 0, 0, 0, 0, 0, 0, 1⟩,
  ⟨0xa4100, [(4, 0x4000)], 0, 0, 0, 0xffffffff, 0, 0, 0, 0⟩,
  ⟨0xa4104, [(4, 0x4000)], 0, 0, 0, 0xffff, 0, 0, 0, 0⟩,
  ⟨0xa4108, [(4, 0x4000)], 0, 0, 0, 0, 0, 0, 0, 0⟩,
  ⟨0xa410c, [(4, 0x4000)], 0, 0, 0, 0, 0, 0, 0, 0⟩,
  ⟨0xa4110, [(4, 0x4000)], 0, 0, 0, 0, 0, 0, 0, 0⟩,
  ⟨0xa4114, [(4, 0x4000)], 0, 0, 0, 0, 0, 0, 0, 0⟩,
  ⟨0xa4118, [(4, 0x4000)], 0, 0, 0, 0, 0, 0, 0, 0⟩,
  ⟨0xa411c, [(4, 0x4000)], 0, 0, 0, 0, 0, 0, 0, 0⟩]
/-- The access table of page 6 (ENC_). -/
def regRowsENC : List RegRow := [
  ⟨0xc0000, [], 0x1043, 0, 0, 0x3fff, 0, 0, 0, 0⟩,
  ⟨0xc4000, [(4, 0x4000)], 0, 0, 0, 0, 0, 0, 0, 0⟩,
  ⟨0xc4004, [(4, 0x4000)], 0, 0, 0, 0, 0, 0, 0, 1⟩,
  ⟨0xc4008, [(4, 0x4000)], 0, 0, 0, 0, 0, 0, 0, 1⟩,
  ⟨0xc400c, [(4, 0x4000)], 0, 0, 0, 0, 0, 0, 0, 1⟩,
  ⟨0xc4010, [(4, 0x4000)], 0, 0, 0, 0, 0, 0, 0, 1⟩,
  ⟨0xc4014, [(4, 0x4000)], 0, 0, 0, 0, 0, 0, 0, 1⟩,
  ⟨0xc4018, [(4, 0x4000)], 0, 0, 0, 0, 0, 0, 0, 1⟩,
  ⟨0xc401c, [(4, 0x4000)], 0, 0, 0, 0, 0, 0, 0, 1⟩,
  ⟨0xc4020, [(4, 0x4000)], 0, 0, 0, 0, 0, 0, 0, 1⟩,
  ⟨0xc4024, [(4, 0x4000)], 0, 0, 0, 0, 0, 0, 0, 1⟩,
  ⟨0xc4028, [(4, 0x4000)], 0, 0, 0, 0, 0, 0, 0, 1⟩,
  ⟨0xc402c, [(4, 0x4000)], 0, 0, 0, 0, 0, 0, 0, 1⟩,
  ⟨0xc4030, [(4, 0x4000)], 0, 0, 0, 0, 0, 0, 0, 1⟩,
  ⟨0xc4034, [(4, 0x4000)], 0, 0, 0, 0, 0, 0, 0, 1⟩,
  ⟨0xc4038, [(4, 0x4000)], 0, 0, 0, 0, 0, 0, 0, 1⟩]
/-- The access table of page 7 (DEC_). -/
def regRowsDEC : List RegRow := [
  ⟨0xe0000, [], 0, 0, 0, 1, 0, 0, 0, 0⟩,
  ⟨0xe0004, [], 0, 0, 0, 0xffff, 0, 0, 0, 0⟩,
  ⟨0xe4000, [(4, 0x4000)], 0, 0, 0, 0, 0, 0, 0, 0⟩,
  ⟨0xe4004, [(4, 0x4000)], 0, 0, 0, 0, 0, 0, 0, 1⟩,
  ⟨0xe4008, [(4, 0x4000)], 0, 0, 0, 0, 0, 0, 0, 1⟩,
  ⟨0xe400c, [(4, 0x4000)], 0, 0, 0, 0, 0, 0, 0, 1⟩,
  ⟨0xe4010, [(4, 0x4000)], 0, 0, 0, 0, 0, 0, 0, 1⟩,
  ⟨0xe4014, [(4, 0x4000)], 0, 0, 0, 0, 0, 0, 0, 1⟩,
  ⟨0xe4018, [(4, 0x4000)], 0, 0, 0, 0, 0, 0, 0, 1⟩,
  ⟨0xe401c, [(4, 0x4000)], 0, 0, 0, 0, 0, 0, 0, 1⟩,
  ⟨0xe4020, [(4, 0x4000)], 0, 0, 0, 0, 0, 0, 0, 1⟩,
  ⟨0xe4024, [(4, 0x4000)], 0, 0, 0, 0, 0, 0, 0, 1⟩,
  ⟨0xe4028, [(4, 0x4000)], 0, 0, 0, 0, 0, 0, 0, 0⟩,
  ⟨0xe402c, [(4, 0x4000)], 0, 0, 0, 0, 0, 0, 0, 0⟩]
/-- The access table of page 8 (LNK_). -/
def regRowsLNK : List RegRow := [
  ⟨0x100000, [], 0xb3, 0, 0, 0x3ff, 0, 0, 0, 0⟩,
  ⟨0x100004, [], 0x441840, 0, 0, 0xffffff, 0, 0, 0, 0⟩,
  ⟨0x100008, [], 0, 0, 0, 0, 0, 0, 0, 0⟩,
  ⟨0x10000c, [], 0, 0, 0, 0, 0, 0, 0, 1⟩,
  ⟨0x104000, [(4, 0x4000), (4, 0x400)], 8, 0, 0, 0x7f, 0, 0, 0, 0⟩,
  ⟨0x104004, [(4, 0x4000), (4, 0x400)], 0, 0, 0, 0, 0, 0, 0, 0⟩,
  ⟨0x104008, [(4, 0x4000), (4, 0x400)], 0, 0, 0, 0, 0, 0, 0, 0⟩,
  ⟨0x10400c, [(4, 0x4000), (4, 0x400)], 0, 0, 0, 0, 0, 0, 0, 0⟩,
  ⟨0x104010, [(4, 0x4000), (4, 0x400)], 0, 0, 0, 0, 0, 0, 0, 0⟩,
  ⟨0x104014, [(4, 0x4000), (4, 0x400)], 0, 0, 0, 0, 0, 0, 0, 1⟩,
  ⟨0x104018, [(4, 0x4000), (4, 0x400)], 0, 0, 0, 0, 0, 0, 0, 1⟩,
  ⟨0x10401c, [(4, 0x4000), (4, 0x400)], 0, 0, 0, 0, 0, 0, 0, 1⟩,
  ⟨0x104020, [(4, 0x4000), (4, 0x400)], 0, 0, 0, 0, 0, 0, 0, 1⟩,
  ⟨0x104024, [(4, 0x4000), (4, 0x400)], 0, 0, 0, 0, 0, 0, 0, 1⟩,
  ⟨0x104028, [(4, 0x4000), (4, 0x400)], 0, 0, 0, 0, 0, 0, 0, 1⟩,
  ⟨0x10402c, [(4, 0x4000), (4, 0x400)], 0, 0, 0, 0, 0, 0, 0, 1⟩,
  ⟨0x104030, [(4, 0x4000), (4, 0x400)], 0, 0, 0, 0, 0, 0, 0, 1⟩,
  ⟨0x104034, [(4, 0x4000), (4, 0x400)], 0, 0, 0, 0, 0, 0, 0, 1⟩,
  ⟨0x104038, [(4, 0x4000), (4, 0x400)], 0, 0, 0, 0, 0, 0, 0, 1⟩,
  ⟨0x10403c, [(4, 0x4000), (4, 0x400)], 0, 0, 0, 0, 0, 3, 0, 0⟩]
/-- The access table of page 9 (PAIR_). -/
def regRowsPAIR : List RegRow := [
  ⟨0x120000, [], 0, 0, 0, 0, 0, 0, 0, 0⟩,
  ⟨0x120004, [], 0x428cb, 0, 0, 0x7ffff, 0, 0, 0, 0⟩,
  ⟨0x120008, [], 0, 0, 0, 0, 0, 0, 0, 0⟩,
  ⟨0x12000c, [], 0, 0, 0, 0, 0, 0, 0, 0⟩,
  ⟨0x120010, [], 0, 0, 0, 0, 0, 0, 0, 0⟩,
  ⟨0x120014, [], 0, 0, 0, 0, 0, 0, 0, 0⟩,
  ⟨0x120018, [], 0, 0, 0, 0, 0, 0, 0, 1⟩,
  ⟨0x12001c, [], 0, 0, 0, 0, 0, 0, 0, 1⟩,
  ⟨0x120020, [], 0, 0, 0, 0, 0, 0, 0, 1⟩,
  ⟨0x120024, [], 0, 0, 0, 0, 0, 0, 0, 1⟩,
  ⟨0x120028, [], 0, 0, 0, 0, 0, 0, 0, 1⟩,
  ⟨0x12002c, [], 0, 0, 0, 0, 0, 0, 0, 1⟩,
  ⟨0x120030, [], 0, 0, 0, 0, 0, 0, 0, 0⟩,
  ⟨0x120034, [], 0, 0, 0, 0, 0, 0, 0, 1⟩,
  ⟨0x120038, [], 0, 0, 0, 0, 0, 0, 0, 0⟩,
  ⟨0x12003c, [], 0, 0, 0, 0, 0, 0, 0, 0⟩,
  ⟨0x120040, [], 0, 0, 0, 0, 0, 0, 0, 0⟩,
  ⟨0x120044, [], 0, 0, 0, 0, 0, 3, 0, 0⟩,
  ⟨0x120048, [], 0, 0, 0, 0, 0, 0, 0, 1⟩]
/-- The access table of page 10 (LMP_). -/
def regRowsLMP : List RegRow := [
  ⟨0x140000, [], 0x400, 0, 0, 0x7fff, 0, 0, 0, 0⟩,
  ⟨0x140004, [], 0x16000, 0, 0, 0x7ffffff, 0, 0, 0, 0⟩,
  ⟨0x140008, [], 0x14800a4, 0, 0, 0xffffffff, 0, 0, 0, 0⟩,
  ⟨0x14000c, [], 0x80004000, 0, 0, 0xffffffff, 0, 0, 0, 0⟩,
  ⟨0x140010, [], 0x1000, 0, 0, 0x1fffff, 0, 0, 0, 0⟩,
  ⟨0x140014, [], 0, 0, 0, 0, 0, 0, 0, 0⟩,
  ⟨0x140018, [], 0, 0, 0, 0, 0, 0, 0, 0⟩,
  ⟨0x14001c, [], 0, 0, 0, 0, 0, 0, 0, 0⟩,
  ⟨0x140020, [], 0, 0, 0, 0, 0, 0, 0, 0⟩,
  ⟨0x140024, [], 0, 0, 0, 0, 0, 0, 0, 0⟩,
  ⟨0x140028, [], 0, 0, 0, 0, 0, 0, 0, 1⟩,
  ⟨0x14002c, [], 0, 0, 0, 0, 0, 0, 0, 1⟩,
  ⟨0x140030, [], 0, 0, 0, 0, 0, 0, 0, 1⟩,
  ⟨0x140034, [], 0, 0, 0, 0, 0, 0, 0, 1⟩,
  ⟨0x140038, [], 0, 0, 0, 0, 0, 0, 0, 1⟩,
  ⟨0x14003c, [], 0, 0, 0, 0, 0, 0, 0, 1⟩,
  ⟨0x140040, [], 0, 0, 0, 0, 0, 0, 0, 1⟩,
  ⟨0x140044, [], 0, 0, 0, 0, 0, 0, 0, 1⟩,
  ⟨0x140048, [], 0, 0, 0, 0, 0, 0, 0, 1⟩,
  ⟨0x140080, [], 0, 0, 0, 0xffffffff, 0, 0, 0, 0⟩,
  ⟨0x140084, [], 0, 0, 0, 0xffffffff, 0, 0, 0, 0⟩,
  ⟨0x140088, [], 0, 0, 0, 0xffffffff, 0, 0, 0, 0⟩,
  ⟨0x14008c, [], 0, 0, 0, 0xffffffff, 0, 0, 0, 0⟩,
  ⟨0x140090, [], 0, 0, 0, 0xffffffff, 0, 0, 0, 0⟩,
  ⟨0x140100, [(64, 4)], 0x8000, 0, 0, 0, 0, 0, 0, 0⟩,
  ⟨0x144000, [(4, 0x4000)], 0, 0, 0, 0, 0, 0, 0, 0⟩,
  ⟨0x144004, [(4, 0x4000)], 0, 0, 0, 0, 0, 0, 0, 1⟩,
  ⟨0x144008, [(4, 0x4000)], 0, 0, 0, 0, 0, 0, 0, 1⟩,
  ⟨0x14400c, [(4, 0x4000)], 0, 0, 0, 0, 0, 0, 0, 1⟩]
/-- The access table of page 11 (DRV_). -/
def regRowsDRV : List RegRow := [
  ⟨0x160000, [], 0, 0, 0xffffffff, 0, 0, 0, 0, 0⟩,
  ⟨0x160004, [], 0, 0, 0, 0xffffffff, 0, 0, 0, 0⟩,
  ⟨0x160008, [], 0, 0, 0, 0xffffffff, 0, 0, 0, 0⟩,
  ⟨0x16000c, [], 0, 0, 0, 0, 0, 0, 0, 0⟩,
  ⟨0x160010, [], 0, 0, 0, 0, 0, 0, 0, 1⟩,
  ⟨0x160014, [], 0, 0, 0, 0, 0, 0, 0, 1⟩,
  ⟨0x160040, [(4, 0x10)], 0, 0, 0xffffffff, 0, 0, 0, 0, 0⟩,
  ⟨0x160044, [(4, 0x10)], 0, 0, 0xffffffff, 0, 0, 0, 0, 0⟩,
  ⟨0x160048, [(4, 0x10)], 0, 0, 0, 0, 0, 0, 0, 0⟩,
  ⟨0x16004c, [(4, 0x10)], 0, 0, 0, 0, 0, 0, 0, 0⟩,
  ⟨0x160100, [(8, 8)], 0, 0, 0, 0xffdfffff, 0, 0, 0, 0⟩,
  ⟨0x160104, [(8, 8)], 0, 0, 0, 0x7f, 0, 0, 0, 0⟩,
  ⟨0x164000, [(4, 0x4000)], 0, 0, 0, 3, 0, 0, 0, 0⟩,
  ⟨0x164004, [(4, 0x4000)], 0, 0, 0, 0, 0, 0, 0, 0⟩,
  ⟨0x164008, [(4, 0x4000)], 0, 0, 0, 0, 0, 0, 0, 1⟩,
  ⟨0x16400c, [(4, 0x4000)], 0, 0, 0, 0, 0, 0, 0, 1⟩,
  ⟨0x164100, [(4, 0x4000), (12, 0x20)], 0, 0, 0, 0xffff, 0, 0, 0, 0⟩,
  ⟨0x164104, [(4, 0x4000), (12, 0x20)], 0, 0, 0, 0, 0, 0, 0, 0⟩,
  ⟨0x164108, [(4, 0x4000), (12, 0x20)], 0, 0, 0, 0, 0, 0, 0, 1⟩,
  ⟨0x16410c, [(4, 0x4000), (12, 0x20)], 0, 0, 0, 0, 0, 0, 0, 1⟩,
  ⟨0x164110, [(4, 0x4000), (12, 0x20)], 0, 0, 0, 0, 0, 0, 0, 1⟩,
  ⟨0x164114, [(4, 0x4000), (12, 0x20)], 0, 0, 0, 0, 0, 0, 0, 1⟩,
  ⟨0x164118, [(4, 0x4000), (12, 0x20)], 0, 0, 0, 0, 0, 0, 0, 0⟩,
  ⟨0x16411c, [(4, 0x4000), (12, 0x20)], 0, 0, 0, 0, 0, 0, 0, 1⟩]
/-- The access table of page 12 (LBD_). -/
def regRowsLBD : List RegRow := [
  ⟨0x180000, [], 0x100f0, 0, 0, 0x3ffff, 0, 0, 0, 0⟩,
  ⟨0x180004, [], 0xf0338, 0, 0, 0xfffff, 0, 0, 0, 0⟩,
  ⟨0x180008, [], 0x6666, 0, 0, 0xffff, 0, 0, 0, 0⟩,
  ⟨0x18000c, [], 0x258, 0, 0, 0x1ffff, 0, 0, 0, 0⟩,
  ⟨0x180010, [], 0, 0, 0x3f, 0, 0, 0xc0, 0, 0⟩,
  ⟨0x180014, [], 0, 0, 0, 0, 0, 0, 0, 1⟩,
  ⟨0x180018, [], 0, 0, 0, 0, 0, 0, 0, 1⟩,
  ⟨0x18001c, [], 0, 0, 0, 0, 0, 0, 0, 1⟩,
  ⟨0x180020, [], 0, 0, 0, 0, 0, 0, 0, 0⟩,
  ⟨0x180024, [], 0, 0, 0, 0, 0, 0, 0, 0⟩,
  ⟨0x180100, [(64, 0x20)], 0, 0, 0, 0, 0, 0, 0, 0⟩,
  ⟨0x180104, [(64, 0x20)], 0, 0, 0, 0, 0, 0, 0, 0⟩,
  ⟨0x180108, [(64, 0x20)], 0, 0, 0, 0, 0, 0, 0, 0⟩,
  ⟨0x18010c, [(64, 0x20)], 0, 0, 0, 0, 0, 0, 0, 0⟩,
  ⟨0x180110, [(64, 0x20), (4, 4)], 0, 0, 0, 0, 0, 0, 0, 0⟩,
  ⟨0x181000, [(64, 0x10)], 0, 0, 0, 0, 0, 0, 0, 0⟩,
  ⟨0x181004, [(64, 0x10)], 0, 0, 0, 0, 0, 0, 0, 0⟩,
  ⟨0x181008, [(64, 0x10)], 0, 0, 0, 0, 0, 0, 0, 0⟩,
  ⟨0x184000, [(4, 0x4000), (4, 0x10)], 0, 0, 0, 0, 0, 0, 0, 0⟩,
  ⟨0x184004, [(4, 0x4000), (4, 0x10)], 0, 0, 0, 0, 0, 0, 0, 1⟩,
  ⟨0x184040, [(4, 0x4000)], 0, 0, 0, 0, 0, 0, 0, 1⟩,
  ⟨0x184044, [(4, 0x4000)], 0, 0, 0, 0, 0, 0, 0, 1⟩]
/-- The access table of page 13 (AUD_). -/
def regRowsAUD : List RegRow := [
  ⟨0x1a0000, [], 0, 0, 0, 0, 0, 0, 0, 0⟩,
  ⟨0x1a0004, [], 0, 0, 0, 0, 0, 0, 0, 0⟩,
  ⟨0x1a0008, [], 0, 0, 0, 0, 0, 0, 0, 0⟩,
  ⟨0x1a000c, [], 0, 0, 0, 0xffffff, 0, 0, 0, 0⟩,
  ⟨0x1a0010, [], 0, 0, 0, 0, 0, 0, 0, 0⟩,
  ⟨0x1a0014, [], 0, 0, 0, 0, 0, 0, 0, 0⟩,
  ⟨0x1a0018, [], 0, 0, 0, 0, 0, 0, 0, 1⟩,
  ⟨0x1a001c, [], 0, 0, 0, 0, 0, 0, 0, 1⟩,
  ⟨0x1a0100, [(17, 4)], 0, 0, 0, 0, 0, 0, 0, 1⟩,
  ⟨0x1a0180, [(16, 4)], 0, 0, 0, 0, 0, 0, 0, 1⟩,
  ⟨0x1a4000, [(4, 0x4000), (4, 0x100)], 0x20, 0, 0, 0x1ffff, 0, 0, 0, 0⟩,
  ⟨0x1a4004, [(4, 0x4000), (4, 0x100)], 0, 0, 0, 0, 0, 0, 0, 0⟩,
  ⟨0x1a4008, [(4, 0x4000), (4, 0x100)], 0, 0, 0, 0, 0, 0, 0, 0⟩,
  ⟨0x1a400c, [(4, 0x4000), (4, 0x100)], 0, 0, 0, 0, 0, 0, 0, 0⟩,
  ⟨0x1a4010, [(4, 0x4000), (4, 0x100)], 0, 0, 0, 0, 0, 0, 0, 0⟩,
  ⟨0x1a4014, [(4, 0x4000), (4, 0x100)], 0, 0, 0, 0, 0, 0, 0, 0⟩,
  ⟨0x1a4018, [(4, 0x4000), (4, 0x100)], 0, 0, 0, 0, 0, 0, 0, 1⟩,
  ⟨0x1a401c, [(4, 0x4000), (4, 0x100)], 0, 0, 0, 0, 0, 0, 0, 1⟩,
  ⟨0x1a4020, [(4, 0x4000), (4, 0x100)], 0, 0, 0, 0, 0, 0, 0, 1⟩]
/-- The access table of page 14 (MTR_). -/
def regRowsMTR : List RegRow := [
  ⟨0x1c0000, [], 0, 0, 0, 0, 0, 0, 0, 2⟩,
  ⟨0x1c0004, [], 0, 0, 0, 0, 0, 0, 0, 2⟩,
  ⟨0x1c0008, [], 0, 0, 0, 0, 0, 0, 0, 2⟩,
  ⟨0x1c000c, [], 0, 0, 0, 0, 0, 0, 0, 2⟩,
  ⟨0x1c0010, [], 0, 0, 0, 0, 0, 0, 0, 2⟩,
  ⟨0x1c0014, [], 0, 0, 0, 0, 0, 0, 0, 2⟩,
  ⟨0x1c0018, [], 0, 0, 0, 0, 0, 0, 0, 2⟩,
  ⟨0x1c001c, [], 0, 0, 0, 0, 0, 0, 0, 2⟩,
  ⟨0x1c0020, [], 0, 0, 0, 0, 0, 0, 0, 2⟩,
  ⟨0x1c0024, [], 1, 0, 0, 0, 0, 0, 1, 2⟩,
  ⟨0x1c0028, [], 0, 0, 0, 0, 0, 0, 0, 2⟩,
  ⟨0x1c0040, [(16, 4)], 0, 0, 0, 0, 0, 0, 0, 2⟩,
  ⟨0x1c0300, [], 0, 0, 0xff, 0, 0, 0, 0, 2⟩,
  ⟨0x1c0304, [], 0, 0, 0xffff, 0, 0, 0, 0, 2⟩,
  ⟨0x1c0308, [], 0, 0, 0xffffffff, 0, 0, 0, 0, 2⟩,
  ⟨0x1c030c, [], 0, 0, 1, 0, 0, 0, 0, 2⟩,
  ⟨0x1c0310, [(4, 4)], 0, 0, 0xffffffff, 0, 0, 0, 0, 2⟩,
  ⟨0x1c0320, [], 0, 0, 0, 0, 0, 0, 0, 2⟩,
  ⟨0x1c0400, [(128, 4)], 0, 0, 0xffffffff, 0, 0, 0, 0, 2⟩,
  ⟨0x1c1000, [(256, 4)], 0, 0, 0, 0, 0, 0, 0, 2⟩,
  ⟨0x1d0000, [(16384, 4)], 0, 0, 0, 0, 0, 0, 0, 2⟩,
  ⟨0x1c0100, [(16, 0x20)], 0, 0, 0, 0, 0, 0, 0, 2⟩,
  ⟨0x1c0104, [(16, 0x20)], 0, 0, 0, 0, 0, 0, 0, 2⟩,
  ⟨0x1c0108, [(16, 0x20)], 0, 0, 0, 0, 0, 0, 0, 2⟩,
  ⟨0x1c010c, [(16, 0x20)], 0, 0, 0, 0, 0, 0, 0, 2⟩,
  ⟨0x1c0110, [(16, 0x20)], 0, 0, 0, 0, 0, 0, 0, 2⟩,
  ⟨0x1c0114, [(16, 0x20)], 0, 0, 0, 0, 0, 0, 0, 2⟩]
/-- The access table of page 15 (THM_). -/
def regRowsTHM : List RegRow := [
  ⟨0x1e0000, [], 0, 0, 0, 0, 0, 0, 0, 0⟩,
  ⟨0x1e0004, [], 2, 0, 0, 3, 0, 0, 0, 0⟩,
  ⟨0x1e0008, [], 0x5535064, 0, 0, 0xfffffff, 0, 0, 0, 0⟩,
  ⟨0x1e000c, [], 0x33331441, 0, 0, 0xffff7fff, 0, 0, 0, 0⟩,
  ⟨0x1e0010, [], 0x554600, 0, 0, 0xffffff, 0, 0, 0, 0⟩,
  ⟨0x1e0014, [], 0x3e8, 0, 0, 0, 0, 0, 0, 0⟩,
  ⟨0x1e0018, [], 0x80008000, 0, 0, 0, 0, 0, 0, 0⟩,
  ⟨0x1e001c, [], 0, 0, 0, 0, 0, 0, 0, 1⟩,
  ⟨0x1e0020, [], 0, 0, 0, 0, 0, 0, 0, 0⟩,
  ⟨0x1e0024, [], 0, 0, 0, 0, 0, 1, 0, 0⟩,
  ⟨0x1e0028, [], 0, 0, 0, 0, 0, 0, 0, 1⟩,
  ⟨0x1e002c, [], 0, 0, 0, 0, 0, 0, 0, 1⟩,
  ⟨0x1e0030, [], 0, 0, 0, 0, 0, 0, 0, 1⟩,
  ⟨0x1e0034, [], 0, 0, 0, 0, 0, 0, 0, 1⟩,
  ⟨0x1e0040, [], 0, 0, 0, 0, 0, 0, 0, 0⟩,
  ⟨0x1e0044, [], 0, 0, 0, 0, 0, 0, 0, 0⟩,
  ⟨0x1e0080, [(7, 4)], 0, 0, 0, 0, 0, 0, 0, 0⟩,
  ⟨0x1e00a0, [(2, 4)], 0, 0, 0, 0, 0, 0, 0, 0⟩,
  ⟨0x1e0100, [(64, 8)], 0, 0, 0, 0, 0, 0, 0, 0⟩,
  ⟨0x1e0104, [(64, 8)], 0x8000, 0, 0, 0, 0, 0, 0, 0⟩]

/-- The access table of the page that holds BAR0 offset `a` (R35). -/
def regRowsAt (a : Nat) : List RegRow :=
  match a / 0x20000 with
  | 0 => regRowsCTL
  | 1 => regRowsTCK
  | 2 => regRowsHRG
  | 3 => regRowsXLT
  | 4 => regRowsDMC
  | 5 => regRowsCMP
  | 6 => regRowsENC
  | 7 => regRowsDEC
  | 8 => regRowsLNK
  | 9 => regRowsPAIR
  | 10 => regRowsLMP
  | 11 => regRowsDRV
  | 12 => regRowsLBD
  | 13 => regRowsAUD
  | 14 => regRowsMTR
  | 15 => regRowsTHM
  | _ => []

/-- The index of offset `d` within a register kind of these copies, innermost fastest, when it is one of them. -/
def dimIndex : List (Nat × Nat) → Nat → Option Nat
  | [], d => if d = 0 then some 0 else none
  | (c, st) :: t, d => if d / st < c then (dimIndex t (d % st)).map (fun r => t.foldl (fun m e => m * e.1) (d / st) + r) else none

/-- The row that describes BAR0 offset `a`, and `a`'s index in it; none at a reserved offset. -/
def regFind (a : Nat) : List RegRow → Option (RegRow × Nat)
  | [] => none
  | r :: t =>
    if r.base ≤ a then
      match dimIndex r.dims (a - r.base) with
      | some i => some (r, i)
      | none => regFind a t
    else regFind a t

/-- The row of BAR0 offset `a`. -/
def regRow (a : Nat) : Option (RegRow × Nat) := regFind a (regRowsAt a)

/-- The reset value of the register at BAR0 offset `a`; a reserved offset reads 0 (R34). -/
def regReset (a : Nat) : BitVec 32 :=
  match regRow a with
  | some (r, i) => BitVec.ofNat 32 (r.reset + r.mul * i)
  | none => 0

end Sys2Proof.Machine
end

