-- ==== Sys2Proof/Machine/State/Io.lean ====
section
/-! DEFINITION. The part of the state that every subsystem shares: the register file, the rings, the translation caches,
the region operation tables, device DRAM, the event collector's queues, the performance counters and what has left the
device. -/

namespace Sys2Proof.Machine

/-- What the endpoint reports of itself (R101, R103). -/
structure Capabilities where
  /-- The greatest link speed (4: 16.0 GT/s) and width. -/
  speed : Nat
  width : Nat
  maxPayload : Nat
  maxReadRequest : Nat
  tag10 : Bool
  msixVectors : Nat
  msi : Bool
  intx : Bool
  aer : Bool
  ecrc : Bool
  flr : Bool
  noSoftReset : Bool
  aspm : Bool
  l1pm : Bool
  sriov : Bool
  ats : Bool
  pasid : Bool
  /-- The completion timeout ranges in microseconds, and the value in force. -/
  timeouts : List (Nat × Nat)
  timeout : Nat
deriving DecidableEq, Repr

/-- What has left the device, in the model's own words (log 5: the model's record of the device's outputs). Byte strings
are in the order in which they are sent. -/
inductive Out where
  /-- An MSI-X message on a vector, with the address and data words of its table entry (R122). -/
  | msix (vector addr data : Nat)
  /-- A memory write to the host at a bus address, with the No Snoop attribute or without it (R130). -/
  | hostWrite (bus : Nat) (bytes : List Byte) (ns : Bool)
  /-- A memory read request to the host at a bus address. -/
  | hostRead (bus len : Nat) (ns : Bool)
  /-- A completion to a host read: its bytes, poisoned or not. -/
  | barData (bytes : List Byte) (poisoned : Bool)
  /-- A completion with Unsupported Request. -/
  | barUR
  /-- The completion of a configuration read: a word of the header. -/
  | config (offset value : Nat)
  /-- What the capabilities of configuration space report. -/
  | capabilities (c : Capabilities)
  /-- The AER status words: correctable and uncorrectable. -/
  | aer (correctable uncorrectable : Nat)
  /-- A control word sent on a chain port, forward or return, with its 64-bit payload (R278). -/
  | control (port : Nat) (payload : Nat)
  /-- A packet sent on a chain port (R280): header, payload and CRC. -/
  | packet (port : Nat) (bytes : List Byte)
  /-- A return cell sent on a chain port (R289). -/
  | cell (port : Nat) (bytes : List Byte)
  /-- A pair packet: its PTYPE and payload (R304). -/
  | pair (ptype : Nat) (payload : List Byte)
  /-- Slice segments handed to the part's own decoder over the on-die path (R22). -/
  | ownSegment (bytes : List Byte)
  /-- GLK_OUT asserts for a width in microseconds (R77). -/
  | glkOut (width : Nat) (high : Bool)
  /-- The broadcast sync of a driver group (R374). -/
  | sync (group : Nat)
  /-- The bits of a driver port's data line for one row group (R370, R371). -/
  | driver (group port : Nat) (words : List Nat)
  /-- A command to the drivers of a group (R372, R380, R381). -/
  | driverCmd (group cmd arg : Nat)
  /-- A program of the configuration NVM: offset and bytes. -/
  | nvmWrite (off : Nat) (bytes : List Byte)
  /-- An erase of one 4 KiB sector of the configuration NVM. -/
  | nvmErase (off : Nat)
  /-- A write to a lamp board's identity memory. -/
  | boardWrite (board off : Nat) (bytes : List Byte)
  /-- Audio samples put out on an audio port. -/
  | audio (port : Nat) (samples : List Int)
  /-- A word shifted out of the debug port. -/
  | tdo (value width : Nat)
  /-- Levels driven by EXTEST on the boundary cells. -/
  | boundary (value : Nat)
  /-- Training words sent on a port: 1 TS1, 2 TS2 (R295). -/
  | training (port kind : Nat)
  /-- A refresh burst of a DRAM channel. -/
  | refresh (channel count : Nat)
  /-- The settings of a port's equaliser change. -/
  | equaliser (port : Nat) (values : List Nat)
  /-- The host link is taken down (controlled restart, R108). -/
  | linkDown
deriving DecidableEq, Repr

/-- Whose memory operation it is. -/
inductive Waiter where
  /-- A completion of a ring: its bytes, and the vector to signal after it. -/
  | cq (ring : Nat) (bytes : List Byte) (msg : Option Nat)
  /-- An event record for an EVENT ring. -/
  | record (ring : Nat) (bytes : List Byte) (msg : Option Nat)
  /-- A fetch of a ring: first index and entry count. -/
  | fetch (ring first count : Nat)
  /-- The descriptor list of a commit entry (R176). -/
  | descriptors (ring index : Nat)
  /-- The fence word of a layer record (R180), by 64 * ring + record number. -/
  | fence (key : Nat)
  /-- The operation of a ring entry: a DMA copy, a staging read, an audio or capture buffer, a report. -/
  | entry (ring index : Nat)
  /-- A fetch-and-compose slot (R206). -/
  | slot (region slot : Nat)
  /-- The walk of a context's page: its table reads (R133). -/
  | walk (ctx page : Nat)
  /-- The table reads of a walk that a command carries out as a whole (R133). -/
  | table (ctx page : Nat)
  /-- The BAR2 access in progress (R107). -/
  | bar2
  /-- A cell of a region, by lane, whose operands in DRAM the spec does not place (log 64). -/
  | cell (region lane : Nat)
deriving DecidableEq, Repr

/-- One access of the device to memory that a region operation table carries (R135). -/
structure Access where
  /-- To host memory (true) or to device DRAM. -/
  host : Bool
  write : Bool
  /-- Bus address or DRAM address. -/
  addr : Nat
  bytes : List Byte
  len : Nat
  /-- The vector whose message follows the access (R118, R508). -/
  msg : Option Nat := none
  who : Waiter
  /-- The No Snoop attribute (R130). -/
  ns : Bool := false
  /-- The context through which it was translated. -/
  ctx : Option Nat := none
deriving DecidableEq, Repr

/-- A request held for want of an operation-table entry (R136, R138). -/
structure Held where
  /-- Class: 0 RT, 1 ISO, 2 MGT, 3 BULK (R134). -/
  cls : Nat
  acc : Access
  /-- An invalidation waits for it: it uses a translation that has been removed (R128). -/
  old : Bool := false
deriving DecidableEq, Repr

/-- An entry in use of a region operation table (R136): the class that holds it, whether it is one of the shared
entries, and what the operation is. -/
structure OpEntry where
  cls : Nat
  shared : Bool
  host : Bool
  write : Bool
  addr : Nat
  /-- The tags that its PCIe reads use (R102, R135). -/
  tags : Nat
  who : Waiter
  ctx : Option Nat
  old : Bool := false
deriving DecidableEq, Repr

/-- One region operation table (R136): the entries in use, oldest first, and the held requests, oldest first. -/
structure OpTable where
  used : List OpEntry := []
  held : List Held := []
deriving DecidableEq, Repr

/-- A request waiting on a walk: who, its region and class, the address, write or read, the length, and the bytes that it writes. -/
structure WalkReq where
  who : Waiter
  region : Nat
  cls : Nat
  iova : Nat
  write : Bool
  len : Nat
  bytes : List Byte := []
  msg : Option Nat := none
deriving DecidableEq, Repr

/-- A page walk: its context, the 4 KiB page that missed, whether it runs (or waits for a walker slot), whether an
invalidation forbids caching its result (R128), the table it reads and its level (R129), and the merged requests, oldest first. -/
structure Walk where
  ctx : Nat
  page : Nat
  running : Bool
  stale : Bool
  level : Nat
  table : Nat
  reqs : List WalkReq
deriving DecidableEq, Repr

/-- A translation-cache entry of a region (R133): context, IOVA base, log2 of the page size, bus base, permissions. -/
structure TcEntry where
  region : Nat
  ctx : Nat
  base : Nat
  log2 : Nat
  bus : Nat
  r : Bool
  w : Bool
  ns : Bool
deriving DecidableEq, Repr

/-- One ring context (R110) and what the ring engine keeps beside it. -/
structure Ring where
  /-- 0 IDLE, 1 RUNNING, 2 ERROR. -/
  state : Nat := 0
  cls : Nat := 0
  sqLog2 : Nat := 0
  cqLog2 : Nat := 0
  entry64 : Bool := false
  sqDram : Bool := false
  cqDram : Bool := false
  ctx : Nat := 0
  error : Nat := 0
  vector : Nat := 0
  sqBase : Nat := 0
  cqBase : Nat := 0
  sqTail : Nat := 0
  sqHead : Nat := 0
  cqTail : Nat := 0
  cqHead : Nat := 0
  cqReserved : Nat := 0
  errIndex : Nat := 0
  entries : Nat := 0
  /-- Outstanding fetches: first index and count. -/
  fetches : List (Nat × Nat) := []
  /-- Entries fetched and not yet executed: index and bytes. -/
  fetched : List (Nat × List Byte) := []
  /-- Entries executed whose completion is still owed: index and bytes. -/
  active : List (Nat × List Byte) := []
  /-- Fetching has stopped for a RING_DESTROY (R119): the CONTROL ring that carries it, its index and its bytes. -/
  destroying : Option (Nat × Nat × List Byte) := none
  /-- EVENT ring: records written since the last message; none before the first (R508). -/
  sinceMsg : Option Nat := none
  /-- EVENT ring: the next record carries LOST_BEFORE (R508). -/
  lostBefore : Bool := false
deriving DecidableEq, Repr

/-- A record in a tile's forward queue (R511): 20 payload bytes, LOST_BEFORE apart, and the event. -/
structure FwdRecord where
  event : Nat
  lostBefore : Bool
  payload : List Byte
deriving DecidableEq, Repr

/-- How an entry completes (R118). -/
structure Done where
  status : Nat := 0
  detail : Nat := 0
  kind : Nat := 0
  info : Nat := 0
deriving DecidableEq, Repr

/-- An executed entry whose last operations are still in the tables (R118, R140): its ring, index and bytes, and how it completes. -/
structure Owed where
  ring : Nat
  index : Nat
  entry : List Byte
  done : Done
deriving DecidableEq, Repr

/-- A BAR2 access that waits for the ones before it (R172): write or read, its address, its length and bytes, and whether the data
that a read returns is poisoned (R160). -/
structure Bar2Access where
  write : Bool
  addr : Nat
  len : Nat
  bytes : List Byte
  bad : Bool
deriving DecidableEq, Repr

/-- The shared part of the state. -/
structure Io where
  /-- The registers of BAR0 that differ from their reset values: offset and word (R34). -/
  regs : List (Nat × BitVec 32) := []
  /-- The halves latched by low-half reads: offset of the high half and its latched value (R13). -/
  latch : List (Nat × BitVec 32) := []
  /-- The low halves of wide registers held until their high half is written (R13). -/
  wideHold : List (Nat × BitVec 32) := []
  /-- The performance counters that are not 0 (R514). -/
  cnt : List (Nat × Nat) := []
  /-- The snapshot registers that are not 0 (R518). -/
  snap : List (Nat × Nat) := []
  /-- The rings that are not IDLE (R110). -/
  rings : List (Nat × Ring) := []
  /-- The translation caches, most recently used first (R133). -/
  tc : List TcEntry := []
  /-- The walks, oldest first (R133). -/
  walks : List Walk := []
  /-- The four region operation tables (R136). -/
  ops : List OpTable := List.replicate 4 {}
  /-- What the granted reads of device DRAM have found: whose, the address and the bytes. -/
  reads : List (Waiter × Nat × List Byte) := []
  /-- Whose reads of device DRAM have met an uncorrectable error (R160). -/
  badReads : List Waiter := []
  /-- The BAR2 accesses that have not ended, oldest first; the oldest is in the tables (R172). -/
  bar2 : List Bar2Access := []
  /-- The executed entries that wait for their last operations. -/
  owed : List Owed := []
  /-- Max Read Request Size in bytes (R101, R135). -/
  maxRead : Nat := 512
  /-- Device DRAM that differs from its unlisted value. -/
  dram : List (Nat × Byte) := []
  /-- A tile's forward queue, oldest first, at most 32 records (R511). -/
  fwd : List FwdRecord := []
  /-- The next forwarded record carries LOST_BEFORE (R511). -/
  fwdLost : Bool := false
  /-- The occurrences already counted in this tick period under an at-most-once limit: event and object key. -/
  once : List (Nat × Nat) := []
  /-- VDD_MTR is up and the metering core has started (R438). -/
  meterUp : Bool := false
  /-- The PCIe link is in L0 (R104). -/
  linkUp : Bool := false
  /-- The function is in D3hot (R109). -/
  d3hot : Bool := false
  /-- The model's own counter for free values (log 2): the next unused number. -/
  fresh : Nat := 0
  /-- Elapsed time, in units of 1/64 ns (log 6). -/
  now : Nat := 0
  /-- What has left the device, newest first (log 5). -/
  out : List Out := []
deriving DecidableEq, Repr

end Sys2Proof.Machine
end

