-- ==== Sys2Proof/Machine/Regs.lean ====
section
/-! DEFINITION. Access to the register file: words, fields, saturating counters, which resources a part has (R2 to R4),
and the free values. Every read and write of a register by a meaning goes through these. -/

namespace Sys2Proof.Machine

/-- The word of the register at BAR0 offset `a`. -/
def Io.getReg (s : Io) (a : Nat) : BitVec 32 := Sparse.get regReset s.regs a

/-- The register at BAR0 offset `a` set to `v`. -/
def Io.setReg (s : Io) (a : Nat) (v : BitVec 32) : Io := { s with regs := Sparse.set regReset s.regs a v }

/-- The value of a register field. -/
def Io.getF (s : Io) (f : Field) : Nat := bits (s.getReg f.reg).toNat f.lo f.width

/-- A register field set to the low bits of `v`. -/
def Io.setF (s : Io) (f : Field) (v : Nat) : Io :=
  s.setReg f.reg (BitVec.ofNat 32 (putBits (s.getReg f.reg).toNat f.lo f.width v))

/-- A counter field increased by `n`, saturating at its greatest value. -/
def Io.bumpF (s : Io) (f : Field) (n : Nat := 1) : Io := s.setF f (min (s.getF f + n) (2 ^ f.width - 1))

/-- Whether a one-bit field is 1. -/
def Io.isF (s : Io) (f : Field) : Bool := s.getF f = 1

/-- A wide value kept in a low and a high register. -/
def Io.getWide (s : Io) (lo hi : Field) : Nat := s.getF lo + 2 ^ 32 * s.getF hi

/-- Both halves of a wide value set. -/
def Io.setWide (s : Io) (lo hi : Field) (v : Nat) : Io := (s.setF lo v).setF hi (v / 2 ^ 32)

/-- A wide counter increased by `n`, wrapping at the width of its halves. -/
def Io.addWide (s : Io) (lo hi : Field) (n : Nat) : Io := s.setWide lo hi (s.getWide lo hi + n)

/-- A leaving value recorded. -/
def Io.emit (s : Io) (o : Out) : Io := { s with out := o :: s.out }

/-- The next free value (log 2). -/
def Io.free (s : Io) : Nat := Config.freeNat s.fresh

/-- The free value in use is spent. -/
def Io.spend (s : Io) : Io := { s with fresh := s.fresh + 1 }

/-- The part code (R7). -/
def Io.part (s : Io) : Nat := s.getF Fld.CTL_VARIANT_PART
/-- ROLE is Tile (R6). -/
def Io.isTile (s : Io) : Bool := s.getF Fld.CTL_VARIANT_ROLE = 1
/-- ROLE is Combined (R6). -/
def Io.isCombined (s : Io) : Bool := s.getF Fld.CTL_VARIANT_ROLE = 2
/-- ROLE is Sender (R6). -/
def Io.isSender (s : Io) : Bool := s.getF Fld.CTL_VARIANT_ROLE = 0
/-- The part has a tile half: lamps, drivers, boards. -/
def Io.hasLamps (s : Io) : Bool := s.isTile || s.isCombined
/-- The part has a sender half: composition, encoders, a host. -/
def Io.hasHost (s : Io) : Bool := !s.isTile
/-- Region `n` is active (R6). -/
def Io.regionActive (s : Io) (n : Nat) : Bool := decide (n < 4) && bit (s.getF Fld.CTL_VARIANT_REGION_MASK) n
/-- The number of active regions. -/
def Io.regions (s : Io) : Nat := ((List.range 4).filter s.regionActive).length
/-- DRAM channels of one active region: 4, or 1 in Tile parts (R3). -/
def Io.chansPerRegion (s : Io) : Nat := if s.isTile then 1 else 4
/-- Local port `i` of region `n` is present: all four in Sender and Combined parts, CH0 and CH1 in Tile parts (R3, R301). -/
def Io.portPresent (s : Io) (n i : Nat) : Bool :=
  s.regionActive n && (if s.isTile then decide (n = 0 ∧ i < 2) else decide (i < 4))
/-- Chain port CH`p` is present. -/
def Io.chPresent (s : Io) (p : Nat) : Bool := s.portPresent (p / 4) (p % 4)

/-- Subsystem `k` of R35 is fitted in this part (R2, R4). -/
def Io.subsystem (s : Io) (k : Nat) : Bool :=
  match k with
  | 2 | 5 | 6 => s.hasHost
  | 9 => s.isF Fld.CTL_VARIANT_PAIR_PORT
  | 10 | 11 | 12 => s.hasLamps
  | 14 => s.isF Fld.CTL_VARIANT_METER_FITTED
  | _ => true

/-- Whether page `k` has region windows (R35). -/
def pageRegional (k : Nat) : Bool := [1, 3, 4, 5, 6, 7, 8, 10, 11, 12, 13].contains k

/-- An entry of a chip-wide register array belongs to a resource that this part has (R4): the layers of a region (R168), and the chains and
audio targets of a chain port. `k` is the page and `o` the offset in it. -/
def Io.entryPresent (s : Io) (k o : Nat) : Bool :=
  if k = 5 ∧ 0x100 ≤ o ∧ o < 0x200 then s.regionActive ((o - 0x100) / 4 / 16)
  else if k = 5 ∧ 0x200 ≤ o ∧ o < 0x600 then s.regionActive ((o - 0x200) / 16 / 16)
  else if k = 1 ∧ 0x80 ≤ o ∧ o < 0xC0 then s.chPresent ((o - 0x80) / 4)
  else if k = 1 ∧ 0x1000 ≤ o ∧ o < 0x2000 then s.chPresent ((o - 0x1000) / 256)
  else if k = 13 ∧ 0x100 ≤ o ∧ o < 0x140 then s.chPresent ((o - 0x100) / 4)
  else if k = 13 ∧ 0x180 ≤ o ∧ o < 0x1C0 then s.chPresent ((o - 0x180) / 4)
  else true

/-- The register at BAR0 offset `a` belongs to a resource that this part has (R4). -/
def Io.regPresent (s : Io) (a : Nat) : Bool :=
  let k := a / 0x20000
  let o := a % 0x20000
  s.subsystem k &&
  (if pageRegional k && decide (0x4000 ≤ o) then
    let n := o / 0x4000 - 1
    let w := o % 0x4000
    s.regionActive n &&
      (if s.isTile && k == 8 then decide (n = 0 ∧ w < 0x800)
       else if s.isTile && k == 4 then decide (w < 0x400)
       else true)
   else if s.isTile && k == 3 then decide (o < 0x1000)
   else s.entryPresent k o)

/-- The page-wide value that a read of register `a` returns, before the special views of other chapters: 0 where the
resource is absent (R4); CTL_TILE_ADDR as each role reports it (R26); counter controls of a Tile part (R515). -/
def Io.readWord (s : Io) (a : Nat) : BitVec 32 :=
  if !s.regPresent a || (decide (a / 0x20000 = 14) && !s.meterUp) then 0
  else if a = Reg.CTL_TILE_ADDR then
    if s.isCombined then 0x1800 else if s.isSender then 0 else s.getReg a
  else if s.isTile && decide (Reg.CTL_CNT_CFG 0 ≤ a ∧ a < Reg.CTL_CNT_CFG 0 + 0x100) then
    let c := (a - Reg.CTL_CNT_CFG 0) / 4
    if c < 16 then BitVec.ofNat 32 (putBits (s.getReg a).toNat 0 10 (512 + c)) else 0
  else s.getReg a

/-- The boot state codes of CTL_BOOT.STATE (R17, R480). -/
def stROM : Nat := 0
def stLOADING : Nat := 1
def stTRAINING : Nat := 2
def stJOINING : Nat := 3
def stOPERATIONAL : Nat := 4
def stUMBER : Nat := 5

/-- CTL_BOOT.STATE. -/
def Io.boot (s : Io) : Nat := s.getF Fld.CTL_BOOT_STATE

/-- The device is in OPERATIONAL. -/
def Io.operational (s : Io) : Bool := s.boot = stOPERATIONAL

/-- The 48-bit tick count (R98). -/
def Io.tick (s : Io) : Nat := s.getWide Fld.TCK_COUNT_LO Fld.TCK_COUNT_HI

end Sys2Proof.Machine
end

