-- ==== Sys2Proof/Machine/Memory.lean ====
section
/-! DEFINITION. Memory operations: the DRAM address map (R149), the region operation tables (R136), address translation
through a context and its cache (R125 to R133), the fault log (R143) and MSI-X messages (R122). These operations answer
the occurrences they cause as a list, which the event collector takes in. -/

namespace Sys2Proof.Machine

/-- An occurrence of an event (R503): its number, the region instance that raised it (none for the chip level), the
object that its record names (R510) and the record's DETAIL bytes (R509). -/
structure Occ where
  event : Nat
  region : Option Nat := none
  obj : Nat := 0
  detail : List Byte := []
deriving DecidableEq, Repr

/-- The interleave grain g in bytes (R165). -/
def grainBytes (code : Nat) : Nat := match code with | 0 => 256 | 1 => 1024 | 2 => 4096 | _ => 65536

/-- The capacity in use of one channel, in bytes; 0 while no channel is trained (R148, R165). -/
def capBytes (code : Nat) : Nat := match code with | 0 => 2 ^ 30 | 1 => 2 ^ 31 | 2 => 2 ^ 32 | _ => 0

/-- The installed DRAM of R107 in bytes: channel count times cap (R148). -/
def Io.installed (s : Io) : Nat := s.regions * s.chansPerRegion * capBytes (s.getF Fld.DMC_DENSITY_CAP)

/-- Whether `len` bytes at DRAM address `a` lie wholly or partly beyond installed DRAM (R107). -/
def Io.beyond (s : Io) (a len : Nat) : Bool := decide (s.installed < a + len)

/-- Where a DRAM address lies (R149). -/
structure DramLoc where
  region : Nat
  channel : Nat
  off : Nat
  column : Nat
  bankGroup : Nat
  bank : Nat
  row : Nat
deriving DecidableEq, Repr

/-- The address map of R149; none beyond installed DRAM. -/
def Io.dramLoc (s : Io) (a : Nat) : Option DramLoc :=
  let k := s.chansPerRegion
  let cap := capBytes (s.getF Fld.DMC_DENSITY_CAP)
  let g := grainBytes (s.getF Fld.DMC_CFG_GRAIN)
  if s.installed ≤ a then none
  else
    let r := a / (k * cap)
    let o := a % (k * cap)
    let cl := o / g % k
    let off := o / (g * k) * g + o % g
    some { region := r, channel := if k = 4 then 4 * r + cl else 4 * r, off := off, column := bits off 0 11,
           bankGroup := bits off 11 2, bank := bits off 13 2, row := bits off 15 17 }

/-- The bytes of device DRAM from `a`. -/
def Io.readDram (s : Io) (a n : Nat) : List Byte := memRead dramDefault s.dram a n

/-- Bytes written to device DRAM from `a`. -/
def Io.writeDram (s : Io) (a : Nat) (bs : List Byte) : Io := { s with dram := memWrite dramDefault s.dram a bs }

/-- The occurrence, when no occurrence of this event for this key has been counted in this tick period. -/
def Io.oncePer (s : Io) (key : Nat) (o : Occ) : Io × List Occ :=
  if s.once.contains (o.event, key) then (s, []) else ({ s with once := (o.event, key) :: s.once }, [o])

/-- The message of one of the 512 vectors (R122): sent, or held pending while the vector is masked. Nothing leaves while the
link is down or the function is in D3hot (R109). -/
def Io.message (s : Io) (v : Nat) : Io :=
  if !s.linkUp || s.d3hot || decide (512 ≤ v) then s
  else if s.isF (Fld.HRG_MSIX_CTL v) then
    let a := Reg.HRG_MSIX_PBA (v / 32)
    s.setReg a (BitVec.ofNat 32 (putBits (s.getReg a).toNat (v % 32) 1 1))
  else s.emit (.msix v (s.getWide (Fld.HRG_MSIX_ADDR_LO v) (Fld.HRG_MSIX_ADDR_HI v)) (s.getF (Fld.HRG_MSIX_DATA v)))

/-- The device may issue requests to host memory: the link is up and the function is not in D3hot (R109). -/
def Io.hostOpen (s : Io) : Bool := s.linkUp && !s.d3hot

/-- The tags that an operation uses (R135): a host read of more than 128 bytes is two PCIe reads where Max Read Request Size is
128 bytes. -/
def Io.tagsOf (s : Io) (a : Access) : Nat :=
  if !a.host || a.write then 0 else if s.maxRead ≤ 128 ∧ 128 < a.len then 2 else 1

/-- An access that has its table entry is carried out; the message that follows it is sent (R118). What a read of device DRAM finds
is kept for its requester. -/
def Io.perform (s : Io) (a : Access) : Io :=
  let s1 :=
    if a.host then
      if a.write then s.emit (.hostWrite a.addr a.bytes a.ns)
      else if s.tagsOf a = 2 then (s.emit (.hostRead a.addr 128 a.ns)).emit (.hostRead (a.addr + 128) (a.len - 128) a.ns)
      else s.emit (.hostRead a.addr a.len a.ns)
    else if a.write then s.writeDram a.addr a.bytes
    else match a.who with
      | .fetch _ _ _ | .descriptors _ _ | .fence _ | .bar2 => { s with reads := s.reads ++ [(a.who, a.addr, s.readDram a.addr a.len)] }
      | _ => s
  match a.msg with
  | some v => s1.message v
  | none => s1

/-- The bytes that the granted DRAM reads of `w` have found, from `a` up (R151: a read shows no write that comes after it). -/
def Io.found (s : Io) (w : Waiter) (a n : Nat) : List Byte :=
  (List.range n).map (fun i =>
    match s.reads.find? (fun r => r.1 == w && decide (r.2.1 ≤ a + i ∧ a + i < r.2.1 + r.2.2.length)) with
    | some r => r.2.2.getD (a + i - r.2.1) 0
    | none => 0)

/-- The reads of `w` are done with. -/
def Io.forget (s : Io) (w : Waiter) : Io := { s with reads := s.reads.filter (·.1 != w), badReads := s.badReads.filter (· != w) }

/-- Region `n`'s operation table. -/
def Io.opTable (s : Io) (n : Nat) : OpTable := s.ops.getD n {}

/-- The entries in use that satisfy `p`. -/
def OpTable.count (t : OpTable) (p : OpEntry → Bool) : Nat := (t.used.filter p).length
/-- Entries a class holds, reserved and borrowed (R145). -/
def OpTable.holds (t : OpTable) (cls : Nat) : Nat := t.count (·.cls == cls)
/-- Reserved entries a class holds. -/
def OpTable.reserved (t : OpTable) (cls : Nat) : Nat := t.count (fun e => e.cls == cls && !e.shared)
/-- Shared entries a class has borrowed; for BULK, the shared entries it holds. -/
def OpTable.borrowed (t : OpTable) (cls : Nat) : Nat := t.count (fun e => e.cls == cls && e.shared)
/-- Shared entries in use. -/
def OpTable.shared (t : OpTable) : Nat := t.count (·.shared)
/-- RT operations to host memory (R137). -/
def OpTable.rtHost (t : OpTable) : Nat := t.count (fun e => e.cls == 0 && e.host)

/-- The tags in use: non-posted reads in flight (R102, R123). -/
def Io.npUsed (s : Io) : Nat := s.ops.foldl (fun a t => t.used.foldl (fun a e => a + e.tags) a) 0

/-- Non-posted reads that may be outstanding (R102, R123). -/
def Io.maxNp (s : Io) : Nat :=
  let v := s.getF Fld.HRG_FETCH_CFG_MAX_NP
  min (if v = 0 ∨ 512 < v then 512 else v) (if s.isF Fld.HRG_LINK_TAG10 then 512 else 256)

/-- Region `n`'s operation table replaced; its registers and HRG_OUTSTANDING report it (R123, R145). -/
def Io.setOpTable (s : Io) (n : Nat) (t : OpTable) : Io :=
  let s := { s with ops := setNth s.ops n t }
  let s := if s.hasHost then s.setF Fld.HRG_OUTSTANDING_NP_READS s.npUsed else s
  let s := s.setReg (Reg.XLT_OPT_USE_A n) (BitVec.ofNat 32 (t.holds 0 + 2 ^ 10 * t.holds 1 + 2 ^ 20 * t.holds 2))
  let s := s.setReg (Reg.XLT_OPT_USE_B n) (BitVec.ofNat 32 (t.holds 3 + 2 ^ 10 * t.used.length))
  s.setF (Fld.XLT_OPT_PEAK n) (max (s.getF (Fld.XLT_OPT_PEAK n)) t.used.length)

/-- The shared entries a reserved class may borrow: values above 576 act as 576 (R144). -/
def Io.borrowLimit (s : Io) (cls : Nat) : Nat :=
  min 576 (match cls with
    | 0 => s.getF Fld.XLT_OPT_CFG_RT_BORROW
    | 1 => s.getF Fld.XLT_OPT_CFG_ISO_BORROW
    | _ => s.getF Fld.XLT_OPT_CFG_MGT_BORROW)

/-- The cap on RT host operations; values above 832 act as 832 (R144). -/
def Io.rtHostLimit (s : Io) : Nat := min 832 (s.getF Fld.XLT_OPT_HOST_RT_HOST)

/-- The reserved entries of a class (R136). -/
def reservedSize (cls : Nat) : Nat := match cls with | 0 => 256 | 1 => 128 | 2 => 64 | _ => 0

/-- The grant rule of R136: the entry that the request takes, or none where it is held. -/
def Io.grant (s : Io) (t : OpTable) (cls : Nat) (a : Access) : Option OpEntry :=
  if cls = 0 && a.host && decide (s.rtHostLimit ≤ t.rtHost) then none
  else
    let e : OpEntry := { cls := cls, shared := false, host := a.host, write := a.write, addr := a.addr, tags := s.tagsOf a, who := a.who, ctx := a.ctx }
    if cls ≠ 3 ∧ t.reserved cls < reservedSize cls then some e
    else if t.shared < 576 ∧ (cls = 3 ∨ t.borrowed cls < s.borrowLimit cls) then some { e with shared := true }
    else none

/-- The counters of signals (R516): every enabled counter whose source is `src` counts once, by its region filter when
it is an event. The counters that wrap set their overflow bit, and event 18 fires for each (R517). -/
def Io.countOne (s : Io) (c : Nat) : Io × List Occ :=
  let v := Sparse.get (fun _ => 0) s.cnt c + 1
  if v < 2 ^ 48 then ({ s with cnt := Sparse.set (fun _ => 0) s.cnt c v }, [])
  else
    let s := { s with cnt := Sparse.set (fun _ => 0) s.cnt c 0 }
    (if c < 32 then s.setReg Reg.CTL_CNT_OVF_A (BitVec.ofNat 32 (putBits (s.getReg Reg.CTL_CNT_OVF_A).toNat c 1 1))
     else s.setReg Reg.CTL_CNT_OVF_B (BitVec.ofNat 32 (putBits (s.getReg Reg.CTL_CNT_OVF_B).toNat (c % 32) 1 1)), [{ event := 18 }])

/-- The counter that the CTL_CNT_CFG word at `a` controls, when it counts source `src` now. `src` is an event number in
edge mode, or 512 plus a signal number; a pulse counts once in either mode (R515, R516). In a Tile part counter c has
the fixed source of signal c. -/
def Io.counterOf (s : Io) (src : Nat) (region : Option Nat) (p : Nat × BitVec 32) : Option Nat :=
  let w := p.2.toNat
  if p.1 < Reg.CTL_CNT_CFG 0 ∨ Reg.CTL_CNT_CFG 0 + 0x100 ≤ p.1 then none
  else
    let c := (p.1 - Reg.CTL_CNT_CFG 0) / 4
    let source := if s.isTile then 512 + c else bits w 0 10
    let rf := bits w 12 3
    let regionOk := decide (512 ≤ src) || rf == 0 || decide (4 < rf) || region == some (rf - 1)
    let modeOk := decide (512 ≤ src) || !bit w 10
    if bit w 11 && source == src && regionOk && modeOk && (!s.isTile || decide (c < 16)) then some c else none

/-- Every counter of source `src` counts once, unless the counters are frozen (R514). -/
def Io.countSource (s : Io) (src : Nat) (region : Option Nat) : Io × List Occ :=
  if s.isF Fld.CTL_CNT_GLOBAL_FREEZE then (s, [])
  else
    (s.regs.filterMap (s.counterOf src region)).foldl
      (fun (acc : Io × List Occ) c => let (s', o) := acc.1.countOne c; (s', acc.2 ++ o)) (s, [])

/-- A granted request takes its entry and is carried out; event 99 fires the first time in a period that RT_HOST is
reached (R137). -/
def Io.take (s : Io) (n : Nat) (e : OpEntry) (a : Access) : Io × List Occ :=
  let t := { s.opTable n with used := (s.opTable n).used ++ [e] }
  let s := (s.setOpTable n t).perform a
  let (s, o1) := if a.host then (s, []) else s.countSource (if a.write then 518 else 517) none
  if e.cls = 0 && e.host && decide (t.rtHost = s.rtHostLimit) then
    let (s, o2) := s.oncePer n { event := 99, region := some n }
    (s, o1 ++ o2)
  else (s, o1)

/-- Region `n` is fenced: its operation table grants nothing (R526). -/
def Io.regionFenced (s : Io) (n : Nat) : Bool := bit (s.getF Fld.CTL_ERR_STAT_FENCED) n

/-- A host operation must wait for something other than an entry: for the link, for D0 (R109), or for a tag (R102). -/
def Io.hostWaits (s : Io) (a : Access) : Bool :=
  a.host && (!s.hostOpen || (decide (s.tagsOf a ≠ 0) && decide (s.maxNp < s.npUsed + s.tagsOf a)))

/-- At most 16 granules of one DMA copy are in flight (R140). -/
def Io.copyFull (s : Io) (a : Access) : Bool :=
  match a.who with
  | .entry n i => decide (16 ≤ s.ops.foldl (fun k (t : OpTable) => k + t.count (fun e => e.who == .entry n i)) 0)
  | _ => false

/-- The entry that a request of class `cls` takes now (R102, R109, R136, R140, R526). -/
def Io.admits (s : Io) (n : Nat) (t : OpTable) (cls : Nat) (a : Access) : Option OpEntry :=
  if s.regionFenced n || s.hostWaits a || s.copyFull a then none else s.grant t cls a

/-- No request is held in any table (R138, R516). -/
def Io.noneHeld (s : Io) : Bool := s.ops.all (fun t => t.held.isEmpty)

/-- A request for an operation-table entry of region `n` (R136): granted and carried out, or held in its place; a request held for
want of an entry is counted (R138). -/
def Io.request (s : Io) (n cls : Nat) (a : Access) : Io × List Occ :=
  let t := s.opTable n
  match s.admits n t cls a with
  | some e => s.take n e a
  | none =>
    let (s, o1) := if s.noneHeld then s.countSource 521 none else (s, [])
    let s := s.setOpTable n { t with held := t.held ++ [{ cls := cls, acc := a }] }
    if !s.regionFenced n && (s.grant t cls a).isSome then (s, o1)
    else
      let (s, o2) := (s.bumpF (Fld.XLT_HELD_COUNT n)).oncePer n { event := 98, region := some n }
      (s, o1 ++ o2)

/-- `l` without its first element that satisfies `p`. -/
def eraseFirst {α : Type} (p : α → Bool) : List α → List α
  | [] => []
  | x :: t => if p x then t else x :: eraseFirst p t

/-- Held requests take the entry that has freed (R136): a reserved entry only of its own class, a shared entry the
highest-priority request that may take it, oldest first within its class. -/
def Io.nextHeld (s : Io) (n : Nat) (t : OpTable) : Option (Held × OpEntry) :=
  ([0, 1, 2, 3].findSome? fun c =>
    t.held.findSome? fun h => if h.cls = c then (s.admits n t c h.acc).map (fun e => (h, { e with old := h.old })) else none)

/-- Held requests of region `n` are granted while entries allow. -/
def Io.grantHeld : Nat → Nat → Io → Io × List Occ
  | 0, _, s => (s, [])
  | k + 1, n, s =>
    let t := s.opTable n
    match s.nextHeld n t with
    | none => (s, [])
    | some (h, e) =>
      let s := { s with ops := setNth s.ops n { t with held := eraseFirst (· == h) t.held } }
      let (s, o1) := s.take n e h.acc
      let (s, o2) := Io.grantHeld k n s
      (s, o1 ++ o2)

/-- Held requests of every region are granted while entries and tags allow (R102, R136). -/
def Io.grantAll (s : Io) : Io × List Occ :=
  [0, 1, 2, 3].foldl (fun (acc : Io × List Occ) n =>
    let (s', o) := Io.grantHeld (acc.1.opTable n).held.length n acc.1
    (s', acc.2 ++ o)) (s, [])

/-- The oldest entry of region `n` that satisfies `p` frees, and held requests are granted (R135, R136). -/
def Io.release (s : Io) (n : Nat) (p : OpEntry → Bool) : Io × List Occ :=
  let t := s.opTable n
  if t.used.any p then (s.setOpTable n { t with used := eraseFirst p t.used }).grantAll else (s, [])

/-- `w` holds an entry. -/
def Io.inFlight (s : Io) (w : Waiter) : Bool := s.ops.any (fun t => t.used.any (·.who == w))

/-- A request of `w` is held, or waits for its translation. -/
def Io.held (s : Io) (w : Waiter) : Bool :=
  s.ops.any (fun t => t.held.any (·.acc.who == w)) || s.walks.any (fun k => k.reqs.any (·.who == w))

/-- An operation of `w` has not ended. -/
def Io.busy (s : Io) (w : Waiter) : Bool := s.inFlight w || s.held w

/-- How many entries `w` holds. -/
def Io.usedBy (s : Io) (w : Waiter) : Nat := s.ops.foldl (fun a (t : OpTable) => a + t.count (·.who == w)) 0

/-- The operations of `w` in flight complete, one after another, and with them those that are granted meanwhile (R135). -/
def Io.finishOwn : Nat → Waiter → Io → Io × List Occ
  | 0, _, s => (s, [])
  | k + 1, w, s =>
    match [0, 1, 2, 3].find? (fun n => (s.opTable n).used.any (·.who == w)) with
    | none => (s, [])
    | some n =>
      let (s, o1) := s.release n (·.who == w)
      let (s, o2) := Io.finishOwn k w s
      (s, o1 ++ o2)

/-- The operations of `w` that are in flight, or come to be granted, complete. -/
def Io.completeOwn (s : Io) (w : Waiter) : Io × List Occ :=
  Io.finishOwn (s.ops.foldl (fun a (t : OpTable) => a + t.count (·.who == w) + (t.held.filter (·.acc.who == w)).length) 0) w s

/-- A unit issues the operations of a list in order, with at most `k` in flight at once, and completes them (R135). Those that the
tables hold stay held. -/
def Io.burst (s : Io) (w : Waiter) (k : Nat) (as : List (Nat × Nat × Access)) : Io × List Occ :=
  let (s, o1) := as.foldl (fun (acc : Io × List Occ) a =>
    let (s, o) := if max 1 k ≤ acc.1.usedBy w then acc.1.completeOwn w else (acc.1, [])
    let (s, o') := s.request a.1 a.2.1 a.2.2
    (s, acc.2 ++ o ++ o')) (s, [])
  let (s, o2) := s.completeOwn w
  (s, o1 ++ o2)

/-- The requests of `w` that have not been issued are withdrawn (R138). -/
def Io.withdraw (s : Io) (w : Waiter) : Io :=
  { s with ops := s.ops.map (fun t => { t with held := t.held.filter (·.acc.who != w) }),
           walks := s.walks.map (fun k => { k with reqs := k.reqs.filter (·.who != w) }) }

/-- The region whose table a DRAM operation takes an entry of (R135). -/
def Io.dramRegion (s : Io) (a : Nat) : Nat := match s.dramLoc a with | some l => l.region | none => 0

/-- The class of R134 that a ring class of R111 fixes: CONTROL, COMMIT and EVENT management, AUDIO and CAPTURE
isochronous, BULK shared. -/
def ringTableClass (cls : Nat) : Nat := match cls with | 2 | 3 => 1 | 4 => 3 | _ => 2

/-- One entry written to region `n`'s fault log (R143): address, kind, class, context, requester, layer, write. -/
def Io.logFault (s : Io) (n iova kind cls ctx req : Nat) (layer : Option Nat) (write : Bool) : Io × List Occ :=
  let e := s.getF (Fld.XLT_FAULT_HEAD_NEXT n)
  let wrapped := s.getF (Fld.XLT_FLOG_INFO_KIND n e) ≠ 0
  let s := (s.setReg (Reg.XLT_FLOG_IOVA_LO n e) (BitVec.ofNat 32 iova)).setReg (Reg.XLT_FLOG_IOVA_HI n e) (BitVec.ofNat 32 (iova / 2 ^ 32))
  let s := s.setReg (Reg.XLT_FLOG_INFO n e) (BitVec.ofNat 32 (kind + 2 ^ 4 * cls + 2 ^ 6 * ctx + 2 ^ 14 * req
    + 2 ^ 20 * layer.getD 0 + 2 ^ 26 * flag layer.isSome + 2 ^ 27 * flag write))
  let s := s.setReg (Reg.XLT_FLOG_TICK n e) (BitVec.ofNat 32 s.tick)
  let s := (s.setF (Fld.XLT_FAULT_HEAD_NEXT n) ((e + 1) % 16)).setF (Fld.XLT_FAULT_HEAD_WRAPPED n)
    (if wrapped then 1 else s.getF (Fld.XLT_FAULT_HEAD_WRAPPED n))
  (s, { event := 96, region := some n } :: (if wrapped then [{ event := 102, region := some n }] else []))

/-- A fault counted (R143: every fault, whether logged or not). -/
def Io.countFault (s : Io) : Io := s.bumpF Fld.XLT_FAULT_COUNT

/-- How a translation ends at once (R125, R132, R133): at a bus address with its No Snoop attribute, with a fault kind, or in a
walk. -/
inductive Xlate where
  | bus (addr : Nat) (ns : Bool)
  | fault (kind : Nat)
  | miss
deriving DecidableEq, Repr

/-- The IOVA width of a WALK context (R126). -/
def Io.ctxWidth (s : Io) (c : Nat) : Nat := if s.isF (Fld.XLT_CTX_MODE_WIDTH c) then 39 else 48

/-- The mode of context `c` (R125). -/
def Io.ctxMode (s : Io) (c : Nat) : Nat := s.getF (Fld.XLT_CTX_MODE_MODE c)

/-- Whether cache entry `t` translates an access to `iova` of context `c` in region `n`. An entry that does not permit the access does
not: its translation has not been cached for it, and the access walks (R132). -/
def TcEntry.covers (t : TcEntry) (n c iova : Nat) (write : Bool) : Bool :=
  t.region == n && t.ctx == c && decide (t.base ≤ iova ∧ iova < t.base + 2 ^ t.log2) && (if write then t.w else t.r)

/-- An access of region `n` through context `c` (R125, R132, R133). A hit moves its entry to the front of the
least-recently-used order. -/
def Io.translate (s : Io) (n c iova : Nat) (write : Bool) : Io × Xlate :=
  match s.ctxMode c with
  | 2 => (s, .bus iova false)
  | 1 =>
    if 2 ^ s.ctxWidth c ≤ iova then (s, .fault 5)
    else match s.tc.find? (·.covers n c iova write) with
      | some t => ({ (s.bumpF (Fld.XLT_TC_HIT n)) with tc := t :: s.tc.filter (· != t) }, .bus (t.bus + (iova - t.base)) t.ns)
      | none => (s.bumpF (Fld.XLT_TC_MISS n), .miss)
  | _ => (s, .fault 6)

/-- The walks that run: at most 16 (R133). -/
def Io.walksRunning (s : Io) : Nat := (s.walks.filter (·.running)).length

/-- XLT_WALKS reports the walks that run and wait (R144). -/
def Io.reportWalks (s : Io) : Io :=
  s.setReg Reg.XLT_WALKS (BitVec.ofNat 32 (s.walksRunning + 2 ^ 16 * (s.walks.length - s.walksRunning)))

/-- The highest class (lowest number) among a walk's requests. -/
def Walk.cls (w : Walk) : Nat := w.reqs.foldl (fun m q => min m q.cls) 3

/-- The index of the waiting walk that starts next: class order, oldest first within a class (R133). -/
def nextWalk : List Walk → Option Walk
  | [] => none
  | w :: t =>
    match nextWalk t with
    | some v => if w.running then some v else if v.cls < w.cls then some v else some w
    | none => if w.running then none else some w

/-- The level at which the walks of a context start (R129): 3 for a 48-bit IOVA, 2 for a 39-bit one. -/
def Io.topLevel (s : Io) (c : Nat) : Nat := if s.isF (Fld.XLT_CTX_MODE_WIDTH c) then 2 else 3

/-- ROOT of a context (R126). -/
def Io.rootOf (s : Io) (c : Nat) : Nat := s.getWide (Fld.XLT_CTX_ROOT_LO c) (Fld.XLT_CTX_ROOT_HI c)

/-- The bus address of the entry that an IOVA selects in a table of level `l` (R129). -/
def entryAddr (table l iova : Nat) : Nat := table + 8 * bits iova (12 + 9 * l) 9

/-- The table read of a walk at its level: a read of 8 bytes in the RG0 table, in the class of the access that missed (R133). -/
def Walk.tableRead (w : Walk) : Access :=
  { host := true, write := false, addr := entryAddr w.table w.level (w.page * 4096), bytes := [], len := 8, who := .walk w.ctx w.page }

/-- A waiting walk starts: it is counted and issues its first table read (R133, R144). -/
def Io.startWalk (s : Io) (w : Walk) : Io × List Occ :=
  let v : Walk := { w with running := true, level := s.topLevel w.ctx, table := s.rootOf w.ctx }
  ({ s with walks := s.walks.map (fun x => if x == w then v else x) }.bumpF Fld.XLT_WALK_COUNT).request 0 w.cls v.tableRead

/-- The waiting walk whose turn it is starts, when fewer than 16 run (R133). -/
def Io.startNext (s : Io) : Io × List Occ :=
  if 16 ≤ s.walksRunning then (s, [])
  else match nextWalk s.walks with
    | none => (s, [])
    | some w => s.startWalk w

/-- At most `k` waiting walks start, while fewer than 16 run (R133). -/
def Io.startWalks (k : Nat) (s : Io) : Io × List Occ :=
  let p := (List.range k).foldl (fun (acc : Io × List Occ) _ =>
    let (s', o) := acc.1.startNext
    (s', acc.2 ++ o)) (s, [])
  (p.1.reportWalks, p.2)

/-- A request that missed joins the walk of its page and context, or starts one (R133). -/
def Io.addWalk (s : Io) (ctx : Nat) (q : WalkReq) : Io × List Occ :=
  let page := q.iova / 4096
  if s.walks.any (fun w => w.ctx == ctx && w.page == page && !w.stale) then
    ({ s with walks := s.walks.map (fun w => if w.ctx == ctx && w.page == page && !w.stale then { w with reqs := w.reqs ++ [q] } else w) }, [])
  else Io.startWalks 16 { s with walks := s.walks ++ [{ ctx := ctx, page := page, running := false, stale := false, level := 0, table := 0, reqs := [q] }] }

/-- The pieces of `len` bytes at `a` that do not cross a 256-byte boundary (R135), `k` bounding their number: address and length. -/
def pieces : Nat → Nat → Nat → List (Nat × Nat)
  | 0, _, _ => []
  | k + 1, a, len => if len = 0 then [] else let n := min len (256 - a % 256); (a, n) :: pieces k (a + n) (len - n)

/-- The operations of a transfer: address and length of each. -/
def opsOf (a len : Nat) : List (Nat × Nat) := pieces (len / 256 + 2) a len

end Sys2Proof.Machine
end

