-- ==== Sys2Proof/Machine/Collector.lean ====
section
/-! DEFINITION. The event collector (R503 to R512) and the writing of completion queues (R117, R118): an occurrence sets
status and count, sends a message, writes a record to every EVENT ring and counts in the performance counters. What an
occurrence causes (a record lost, a queue write that faults, a counter that wraps) is itself an occurrence. -/

namespace Sys2Proof.Machine

/-- The number of events that each subsystem defines from number 32 s up (the event tables of the chapters); events 13
to 15 of the control complex are reserved between its two groups. -/
def eventCount : List Nat := [22, 13, 12, 7, 10, 11, 4, 5, 12, 15, 12, 10, 16, 12, 17, 12]

/-- Event `e` is no reserved number (R504). -/
def eventDefined (e : Nat) : Bool :=
  decide (e < 512) && decide (e % 32 < nth eventCount (e / 32)) && !(decide (13 ≤ e) && decide (e < 16))

/-- The collector runs from entry to LOADING until the device leaves OPERATIONAL (R503). -/
def Io.collecting (s : Io) : Bool := decide (stLOADING ≤ s.boot ∧ s.boot ≤ stOPERATIONAL)

/-- Event `e` can fire in this part: R4 silences the events of an absent subsystem or region. -/
def Io.canFire (s : Io) (o : Occ) : Bool :=
  s.collecting && eventDefined o.event && s.subsystem (o.event / 32) &&
  (match o.region with | some n => s.regionActive n | none => true)

/-- Bit `e` of CTL_EVT_STATUS. -/
def Io.evtStatus (s : Io) (e : Nat) : Bool := bit (s.getReg (Reg.CTL_EVT_STATUS (e / 32))).toNat (e % 32)
/-- Bit `e` of CTL_EVT_MASK. -/
def Io.evtMask (s : Io) (e : Nat) : Bool := bit (s.getReg (Reg.CTL_EVT_MASK (e / 32))).toNat (e % 32)
/-- Bit `e` of CTL_EVT_FWD. -/
def Io.evtFwd (s : Io) (e : Nat) : Bool := bit (s.getReg (Reg.CTL_EVT_FWD (e / 32))).toNat (e % 32)

/-- Bit `e` of CTL_EVT_STATUS set to `v`. -/
def Io.setStatus (s : Io) (e v : Nat) : Io :=
  let a := Reg.CTL_EVT_STATUS (e / 32)
  s.setReg a (BitVec.ofNat 32 (putBits (s.getReg a).toNat (e % 32) 1 v))

/-- The vector that HRG_EVT_VEC maps for event `e` (R122). -/
def Io.evtVector (s : Io) (e : Nat) : Nat :=
  if e % 2 = 0 then s.getF (Fld.HRG_EVT_VEC_VEC_EVEN (e / 2)) else s.getF (Fld.HRG_EVT_VEC_VEC_ODD (e / 2))

/-- The message of event `e` (R507); Tile parts have no host port. -/
def Io.evtMessage (s : Io) (e : Nat) : Io := if s.hasHost then s.message (s.evtVector e) else s

/-- Ring `n`; an unlisted ring is IDLE. -/
def Io.ring (s : Io) (n : Nat) : Ring := Sparse.get (fun _ => {}) s.rings n

/-- Ring `n` replaced. -/
def Io.setRing (s : Io) (n : Nat) (r : Ring) : Io := { s with rings := Sparse.set (fun _ => {}) s.rings n r }

/-- Ring `n`, in RUNNING, enters ERROR with a code (R116); event 68 fires. A fault of a ring that has left RUNNING changes nothing. -/
def Io.ringError (s : Io) (n code idx : Nat) : Io × List Occ :=
  let r := s.ring n
  if r.state ≠ 1 then (s, [])
  else
    let s := s.setRing n { r with state := 2, error := code, errIndex := idx }
    let s := s.setReg Reg.HRG_LAST_ERR (BitVec.ofNat 32 (n + 2 ^ 16 * code))
    (s.bumpF Fld.HRG_RING_ERRORS, [{ event := 68 }])

/-- The address of CQ slot `i` of a ring (R110). -/
def Ring.cqSlot (r : Ring) (i : Nat) : Nat := r.cqBase + 32 * (i % 2 ^ r.cqLog2)

/-- PHASE of CQ index `i`: 1 on the first pass, inverted on each wrap (R118). -/
def Ring.phase (r : Ring) (i : Nat) : Nat := 1 - i / 2 ^ r.cqLog2 % 2

/-- The number of unconsumed completions (R117). -/
def Ring.cqUsed (r : Ring) : Nat := (r.cqTail + 2 ^ 32 - r.cqHead) % 2 ^ 32

/-- 32 bytes written into slot `i` of ring `n`'s CQ, with the message that follows. A translation that faults loses them
and puts the ring in ERROR with CQ_FAULT (R116, R141); the fault is logged in RG0 (R143). -/
def Io.cqWrite (s : Io) (n i : Nat) (bs : List Byte) (msg : Option Nat) (isRecord : Bool) : Io × List Occ :=
  let r := s.ring n
  let a := r.cqSlot i
  let cls := ringTableClass r.cls
  let who := if isRecord then Waiter.record n bs msg else .cq n bs msg
  if r.cqDram then
    s.request (s.dramRegion a) cls { host := false, write := true, addr := a, bytes := bs, len := 32, msg := msg, who := who }
  else
    match s.translate 0 r.ctx a true with
    | (s, .bus b ns) =>
      s.request 0 cls { host := true, write := true, addr := b, bytes := bs, len := 32, msg := msg, who := who, ns := ns, ctx := some r.ctx }
    | (s, .fault k) =>
      let (s, o1) := (s.countFault).logFault 0 a k cls r.ctx (if isRecord then 37 else 35) none true
      let (s, o2) := s.ringError n 4 r.sqHead
      (s, o1 ++ o2)
    | (s, .miss) => s.addWalk r.ctx { who := who, region := 0, cls := cls, iova := a, write := true, len := 32, bytes := bs, msg := msg }

/-- The bytes of an event record (R509), less LOST_BEFORE and PHASE. -/
def recordBytes (event source chain position count tick obj : Nat) (detail : List Byte) (flags : Nat) : List Byte :=
  leBytes 2 event ++ leBytes 1 source ++ leBytes 1 chain ++ leBytes 1 position ++ zeros 1 ++ leBytes 2 count
    ++ leBytes 6 tick ++ zeros 1 ++ leBytes 1 flags ++ leBytes 2 obj ++ sub detail 0 14

/-- The part of a record that does not depend on the ring. -/
structure RecordHead where
  event : Nat
  source : Nat
  chain : Nat
  position : Nat
  count : Nat
  tick : Nat
  obj : Nat
  detail : List Byte
deriving DecidableEq, Repr

/-- One record for one EVENT ring (R508): lost while its CQ is full, with event 16 unless it is itself a record of event
16; otherwise written, and its vector sent for the first record and then once per 64 records. -/
def Io.writeRecord (s : Io) (h : RecordHead) (n : Nat) : Io × List Occ :=
  let r := s.ring n
  if 2 ^ r.cqLog2 ≤ r.cqUsed then
    let s := (s.setRing n { r with lostBefore := true }).bumpF Fld.CTL_EVT_LOST
    (s, if h.event = 16 then [] else [{ event := 16 }])
  else
    let bs := recordBytes h.event (putBits h.source 4 1 (flag (bit h.source 4 || r.lostBefore))) h.chain h.position h.count h.tick h.obj h.detail (r.phase r.cqTail)
    let send := match r.sinceMsg with | none => true | some k => decide (64 ≤ k)
    let since := if send then 0 else r.sinceMsg.getD 0 + 1
    let i := r.cqTail
    let s := s.setRing n { r with cqTail := (i + 1) % 2 ^ 32, lostBefore := false, sinceMsg := some since }
    s.cqWrite n i bs (if send then some r.vector else none) true

/-- The EVENT rings in RUNNING (R508). -/
def Io.eventRings (s : Io) : List Nat := (s.rings.filter (fun p => p.2.cls == 5 && p.2.state == 1)).map (·.1)

/-- One record to every EVENT ring in RUNNING. -/
def Io.writeRecords (s : Io) (h : RecordHead) : Io × List Occ :=
  s.eventRings.foldl (fun (acc : Io × List Occ) n => let (s', o) := acc.1.writeRecord h n; (s', acc.2 ++ o)) (s, [])

/-- A record lost on its way from a tile (R511): event 20 fires, unless it is itself a record of event 20. -/
def Io.forwardLost (s : Io) (event : Nat) : Io × List Occ :=
  (({ s with fwdLost := true }).bumpF Fld.CTL_EVT_FWD_LOST, if event = 20 then [] else [{ event := 20 }])

/-- A tile places an unmasked occurrence with its forward bit set in its forward queue of 32 records (R511); it forwards
nothing before it holds an address. -/
def Io.forwardRecord (s : Io) (h : RecordHead) : Io × List Occ :=
  if !s.isTile || !s.evtFwd h.event || !s.isF Fld.CTL_TILE_ADDR_VALID then (s, [])
  else if 32 ≤ s.fwd.length then s.forwardLost h.event
  else
    let payload := leBytes 2 h.event ++ leBytes 1 (h.source + 16 * flag s.fwdLost) ++ zeros 1 ++ leBytes 6 h.tick
      ++ leBytes 2 h.count ++ leBytes 2 h.obj ++ sub h.detail 0 6
    ({ s with fwd := s.fwd ++ [{ event := h.event, lostBefore := s.fwdLost, payload := payload }], fwdLost := false }, [])

/-- One occurrence enters the collector (R504, R507, R508, R511, R515). `again` holds when a clear of the status bit
coincides with it: the set wins, the count becomes 1 and a message is sent (R505). -/
def Io.occur (s : Io) (o : Occ) (again : Bool := false) : Io × List Occ :=
  if !s.canFire o then (s, [])
  else
    let e := o.event
    let was := s.evtStatus e && !again
    let s := if again then s.setF (Fld.CTL_EVT_COUNT e) 0 else s
    let s := (s.setStatus e 1).bumpF (Fld.CTL_EVT_COUNT e)
    let (s, o1) := s.countSource e o.region
    if s.evtMask e then (s, o1)
    else
      let s := if was then s else s.evtMessage e
      let h : RecordHead := { event := e, source := (match o.region with | some n => n + 4 | none => 0), chain := 0, position := 0,
                              count := s.getF (Fld.CTL_EVT_COUNT e), tick := s.tick, obj := o.obj, detail := o.detail }
      let (s, o2) := s.writeRecords h
      let (s, o3) := s.forwardRecord h
      (s, o1 ++ o2 ++ o3)

/-- The occurrences of a list enter in order, and those they cause after them (R503: none is dropped). `fuel` bounds the
number that enter. -/
def Io.drain : Nat → List Occ → Io → Io
  | 0, _, s => s
  | _, [], s => s
  | k + 1, o :: t, s => let (s', more) := s.occur o; Io.drain k (t ++ more) s'

/-- A number that no chain of occurrences reaches: each ring fails at most once, each failure and each loss adds a fixed
number of occurrences, and each counter wraps at most once. -/
def Io.drainFuel (s : Io) (n : Nat) : Nat := (4 * s.rings.length + 70 + n) * (s.rings.length + 8)

/-- Every occurrence of a list fires. -/
def Io.fires (s : Io) (os : List Occ) : Io := Io.drain (s.drainFuel os.length) os s

/-- An operation's own occurrences fire. -/
def Io.settle (p : Io × List Occ) : Io := p.1.fires p.2

/-- Event `e` fires at the chip level. -/
def Io.fire (s : Io) (e : Nat) : Io := s.fires [{ event := e }]

/-- Event `e` fires, naming an object (R510) and with DETAIL bytes. -/
def Io.fireObj (s : Io) (e : Nat) (region : Option Nat) (obj : Nat) (detail : List Byte := []) : Io :=
  s.fires [{ event := e, region := region, obj := obj, detail := detail }]

/-- Event `e` fires in region `n`. -/
def Io.fireIn (s : Io) (e n : Nat) : Io := s.fires [{ event := e, region := some n }]

/-- Event `e` fires unless it has fired for `key` in this tick period. -/
def Io.fireOnce (s : Io) (key : Nat) (o : Occ) : Io := Io.settle (s.oncePer key o)

/-- A pulse of hardware signal `k` (R516). -/
def Io.pulse (s : Io) (k : Nat) : Io := Io.settle (s.countSource (512 + k) none)

/-- `n` pulses of hardware signal `k`. -/
def Io.pulses (k : Nat) : Nat → Io → Io
  | 0, s => s
  | n + 1, s => Io.pulses k n (s.pulse k)

/-- The object code of a tile (R510). -/
def objTile (chain pos : Nat) : Nat := pos % 64 + 64 * (chain % 16)

/-- A completion entry (R118). -/
def completionBytes (tag index ring opcode status detail kind phase tick info : Nat) : List Byte :=
  leBytes 4 tag ++ leBytes 4 index ++ leBytes 2 ring ++ leBytes 1 opcode ++ leBytes 1 status ++ leBytes 2 detail
    ++ leBytes 1 kind ++ leBytes 1 phase ++ leBytes 6 tick ++ zeros 2 ++ leBytes 8 info

/-- The completion of entry `entry` (its bytes) of ring `n` at SQ index `index` is written into a slot it has reserved,
and the ring's vector follows when INT is set (R115, R117, R118). A COMMIT-class entry writes its completions whatever
CPL holds; another entry without CPL frees its slot and writes nothing. -/
def Io.complete (s : Io) (n index : Nat) (entry : List Byte) (d : Done) : Io :=
  let r := s.ring n
  let r := { r with cqReserved := r.cqReserved - 1 }
  let flags := fieldAt entry 1 1
  if !(bit flags 0 || r.cls == 1) then s.setRing n r
  else
    let i := r.cqTail
    let bs := completionBytes (fieldAt entry 4 4) index n (fieldAt entry 0 1) d.status d.detail d.kind (r.phase i) s.tick d.info
    let s := s.setRing n { r with cqTail := (i + 1) % 2 ^ 32 }
    Io.settle (s.cqWrite n i bs (if bit flags 1 then some r.vector else none) false)

/-- A reserved slot that no completion will use is freed (R117). -/
def Io.freeSlot (s : Io) (n : Nat) : Io :=
  let r := s.ring n
  s.setRing n { r with cqReserved := r.cqReserved - 1 }

end Sys2Proof.Machine
end

