-- ==== Sys2Proof/Machine/State/Audio.lean ====
section
/-! DEFINITION. The state of the audio ports, the AUDIO rings' buffers and the slot masks (R416 to R435), beside their registers.
Samples are 32-bit signed numbers; instants are in 1/64 ns. -/

namespace Sys2Proof.Machine

/-- A PLAY or CAPTURE buffer that has been accepted (R424, R425): its entry, the wall index of its first sample once it has one,
and the frames consumed or filled. -/
structure AudioBuf where
  ring : Nat
  index : Nat
  entry : List Byte
  first : Option Nat
  done : Nat
deriving DecidableEq, Repr

/-- A START or STOP that waits for its tick (R426). -/
structure AudioOrder where
  ring : Nat
  index : Nat
  entry : List Byte
  stop : Bool
  tick : Nat
deriving DecidableEq, Repr

/-- A slot mask on its way (R427): the entry it came in, if any; its target (0 to 15 a chain, 16 an own port), class and port; and
its apply tick, none while its packet waits for a BULK window. -/
structure MaskOrder where
  entry : Option (Nat × Nat × List Byte)
  target : Nat
  cls : Nat
  port : Nat
  mask : Nat
  apply : Option Nat
deriving DecidableEq, Repr

/-- The samples of one tick for the ports of this device (R422, R423): SPT frames of its target's channels. -/
structure AudioPack where
  tick : Nat
  frames : List (List Int)
deriving DecidableEq, Repr

/-- A numbered tick as audio uses it (R417): its instant, and the period, rate set and samples per tick in force. -/
structure AudioBase where
  tick : Nat
  at_ : Nat
  period : Nat
  rset : Nat
  spt : Nat
deriving DecidableEq, Repr

/-- An audio port (R429 to R431). -/
structure AudioPort where
  port : Nat
  /-- Frames since the measurement began, and the instant at which it began. -/
  frames : Nat := 0
  base : Option Nat := none
  /-- REF, and the rate at lock, in mHz. -/
  ref : Option Nat := none
  lock : Option Nat := none
  /-- Consecutive framing errors. -/
  bad : Nat := 0
  /-- The rate measured last since the port began to acquire. -/
  rated : Option Nat := none
  /-- The rate measured last lies outside the range (R431). -/
  outside : Bool := false
  /-- The instant at which the clock was lost. -/
  lost : Nat := 0
  /-- The wall sample that capture delivers next. -/
  next : Nat := 0
deriving DecidableEq, Repr

/-- Audio. -/
structure AudioState where
  plays : List AudioBuf := []
  caps : List AudioBuf := []
  orders : List AudioOrder := []
  masks : List MaskOrder := []
  /-- The masks in force of chain-target ports that a MASK entry has changed: chain, class, port and mask. -/
  walls : List (Nat × Nat × Nat × Nat) := []
  packets : List AudioPack := []
  /-- Ticks presented as silence (R423), and ticks before which a repeat period lay (R418). -/
  silent : List Nat := []
  gaps : List Nat := []
  /-- Ports, and targets as 32 + target, whose samples of a tick a cell fault has silenced (R524). -/
  mute : List (Nat × Nat) := []
  /-- The last numbered ticks, newest first. -/
  bases : List AudioBase := []
  ports : List AudioPort := []
  /-- The targets whose AUDIO packets have been built in this period, and what is left to send of them: target, begun, and bytes. -/
  built : List Nat := []
  left : List (Nat × Bool × List Byte) := []
deriving DecidableEq, Repr

end Sys2Proof.Machine
end

