-- ==== Sys2Proof/Machine/State/Boot.lean ====
section
/-! DEFINITION. The state of start-up, the configuration NVM, staging and update, and the power of the device (chapters
on the image, start-up, temperature and package). -/

namespace Sys2Proof.Machine

/-- One entry of an image's section directory (R45). -/
structure Section where
  typ : Nat
  optional : Bool
  /-- SVERSION, which the device reports nowhere and does not check. -/
  version : Nat
  off : Nat
  len : Nat
  digest : List Byte
deriving DecidableEq, Repr

/-- What the JOURNAL partition records of an activating start (R497). Its byte layout is the device's own. -/
inductive Journal where
  | clear
  | booting
  /-- The copy runs; the sectors recorded as copied. -/
  | copying (sectors : List Nat)
  | failed
deriving DecidableEq, Repr

/-- A persistent record (R62): RTYPE, RVERSION, RSEQ and payload. -/
structure Record where
  rtype : Nat
  version : Nat
  seq : Nat
  payload : List Byte
deriving DecidableEq, Repr

/-- One write to PERSIST (R63, R64): a record into a slot of its type (0 A, 1 B, 2 migration slot), or the clearing of the
migration slots. -/
inductive NvmOp where
  | put (slot : Nat) (r : Record)
  | clear
deriving DecidableEq, Repr

/-- The configuration NVM and the writes that wait for it. The NVM keeps its content through every reset. -/
structure Nvm where
  /-- Bytes that differ from the erased value 0xFF. -/
  mem : List (Nat × Byte) := []
  journal : Journal := .clear
  /-- The write queue (R63), oldest first. -/
  queue : List (Nat × List Byte) := []
  /-- The migration sequence still to be written (R64). -/
  sequence : List NvmOp := []
  /-- The write in progress: its slot is not valid until it completes. -/
  busy : Option NvmOp := none
  /-- The erasure of the staging header waits for the window (R472, R473). -/
  eraseWaits : Bool := false
  /-- The FAILED record of R497 waits for the window. -/
  failedWaits : Bool := false
  /-- A staging program waits for the window (R495). -/
  programWaits : Bool := false
  /-- The records that the running firmware works from, converted where R64 says so. -/
  records : List Record := []
deriving DecidableEq, Repr

/-- A STAGE entry that runs at the unit (R493 to R495). -/
structure StageJob where
  ring : Nat
  index : Nat
  op : Nat
  tkind : Nat
  chain : Nat
  position : Nat
  part : Nat
  /-- The DATA bytes still to be placed in STAGE packets: next offset and end. -/
  off : Nat
  fin : Nat
  /-- CLOSE: the targets, each with the rounds given to it and its outcome: 0 open, 1 armed, 2 not armed. -/
  targets : List (Nat × Nat × Nat × Nat)
deriving DecidableEq, Repr

/-- Staging at this device as a target (R492 to R495). The state codes and TXN are in CTL_UPD_STATE. -/
structure Stage where
  total : Nat := 0
  /-- The chunks received: 4 KiB index. -/
  chunks : List Nat := []
  /-- The chunks kept in DRAM until they are programmed, by staging offset (R494). -/
  bytes : List (Nat × Byte) := []
  /-- The chunks that an Umber device has programmed. -/
  programmed : List Nat := []
  /-- Read-backs that have failed in the program in progress. -/
  fails : Nat := 0
  /-- The transaction number that this unit gives next (R493). -/
  nextTxn : Nat := 1
  /-- The TXN and TOTAL that the unit has opened for chain targets: chain targets use the same TXN. -/
  opened : Option (Nat × Nat) := none
  /-- The DATA bytes sent to chain targets in that transaction, by staging offset, from which missing chunks are resent. -/
  sentBytes : List (Nat × Byte) := []
  job : Option StageJob := none
  /-- A running Umber BLOCK: offset and bytes, with the read-backs that failed (R487). -/
  block : Option (Nat × List Byte × Nat) := none
deriving DecidableEq, Repr

/-- A WALL_RESTART that the unit is sending (R498). -/
structure WallRestart where
  ring : Nat
  index : Nat
  tkind : Nat
  chain : Nat
  position : Nat
  part : Nat
  tick : Nat
  localToo : Bool
deriving DecidableEq, Repr

/-- Start-up and the power of the device. -/
structure BootState where
  /-- The device is held in ROM by R8 or R530, or PWRGOOD or RESET_N is low. -/
  held : Bool := true
  /-- PWRGOOD, as the pins and the rail monitor give it (R546, R547). -/
  pwrgood : Bool := false
  /-- A monitored rail is below its threshold (R546). -/
  railLow : Bool := false
  /-- When ROM started, in 1/64 ns. -/
  startedAt : Nat := 0
  /-- When PWRGOOD rose, in 1/64 ns (CTL_BOOT_TIME). -/
  powerAt : Nat := 0
  /-- The NVM address of the image that runs, its header bytes and its section directory. -/
  base : Nat := 0
  header : List Byte := []
  dir : List Section := []
  /-- The sections whose first read failed (R50). -/
  failedReads : List Nat := []
  /-- The sections read and checked: directory index and bytes. -/
  loaded : List (Nat × List Byte) := []
  /-- The RWL registers are locked (R49). -/
  locked : Bool := false
  /-- Events that wait for OPERATIONAL: 9 and 491. -/
  owed : List Nat := []
  /-- The tick at which an ADMIT takes effect (R484). -/
  admitAt : Option Nat := none
  /-- The tick of an adopted RESTART (R485), and whether its dark frame has been latched: the tick after which the device
  restarts. -/
  restartAt : Option Nat := none
  restartAfter : Option Nat := none
  /-- A defect of the staged image has been found and its header waits to be erased, after which the device restarts. -/
  fallback : Bool := false
  /-- The integrator key hash, where one is programmed in OTP (R48). -/
  otpIntegrator : Option (List Byte) := none
  /-- 0: powered; 1: a controlled shutdown runs; 2: PD2 to PD19 are off (R475, R476). -/
  power : Nat := 0
  /-- The forward drivers are silenced (R314, R475, R529). -/
  silent : Bool := false
  /-- Limits of 0 are latched in place of LMP_LIM from the next tick on (R475, R485). -/
  dark : Bool := false
  /-- The diode readings, two's complement in 1/16 °C, as the device last read them. -/
  diode0 : Int := 400
  diode1 : Int := 400
  /-- PD0's controlled restarts and thermal stops, in 1/64 ns, newest first (R477, R530). -/
  restarts : List Nat := []
  stops : List Nat := []
  /-- AUTO_RESTART as PD0 holds it through a stop (R477). -/
  autoRestart : Bool := true
  /-- The next start follows an automatic thermal restart (R477). -/
  thermalRestart : Bool := false
  /-- The metering core has taken or refused the package's part (R458, R497). -/
  meterReported : Bool := false
  nvm : Nvm := {}
  stage : Stage := {}
  wallRestart : Option WallRestart := none
  /-- An attestation being built for the host: ring and index of its entry, none for an ATTEST command, with the NONCE. -/
  attest : Option (Option (Nat × Nat) × Nat) := none
  /-- A report that is being read from a tile: ring, index, chain, position and the words read (R499). -/
  attestTile : Option (Nat × Nat × Nat × Nat × List Nat) := none
deriving DecidableEq, Repr

end Sys2Proof.Machine
end

