-- ==== Sys2Proof/Machine/State/Lamp.lean ====
section
/-! DEFINITION. The state of the lamp pipeline, the driver groups, the lamp boards and the luminance ceiling, beside their
registers and the structures that lie in device DRAM (R328 to R415). -/

namespace Sys2Proof.Machine

/-- A ceiling schedule (R351). -/
structure Schedule where
  qStart : Nat
  target : Nat
  start : Nat
deriving DecidableEq, Repr

/-- The luminance ceiling (R350 to R354): Q and TARGET in force, the schedule held, the instant at which the RTYPE 0x0004 record
was last requested, and whether Q has changed since. -/
structure WallState where
  q : Nat := 0
  target : Nat := 0
  schedule : Option Schedule := none
  writtenAt : Nat := 0
  changed : Bool := false
  /-- The schedule that stays in force until START of the one held (R351). -/
  before : Option Schedule := none
deriving DecidableEq, Repr

/-- What R331 latches for the frame that lights at `frame`: the active record set, α while a blend runs, Q, LMP_LIM, the boards
that are lit, the lamp temperatures in 1/16 °C (R345), and the CRC rectangles as x, y, width and height (R382). -/
structure LampLatch where
  frame : Nat
  active : Nat
  alpha : Option Nat
  q : Nat
  lims : List Nat
  lit : List Nat
  temps : List Int
  rects : List (Nat × Nat × Nat × Nat)
deriving DecidableEq, Repr

/-- A block row of a frame as the lamp cells left it: whether it yielded new values, the codes v in raster order (R, G and B of
each pixel), and the lamps that are OFF or have d = 0 (R402). -/
structure LampRow where
  frame : Nat
  row : Nat
  ok : Bool
  codes : List Nat
  dark : List Bool
deriving DecidableEq, Repr

/-- One diagnosed driver channel (R401 to R411): its board, board-local port, driver and channel, its device number (R409), its
state (0 UNKNOWN, 1 GOOD, 2 OPEN, 3 SHORT), the consecutive applied read-outs of each kind, UNMEAS, its class in the latest
completed frame (0 MEASURED, 1 BLACK, 2 LOW), the frames in which it was MEASURED and whose read-out is open, and its unverified
time. -/
structure Channel where
  board : Nat
  port : Nat
  driver : Nat
  chan : Nat
  number : Nat
  state : Nat := 0
  openRun : Nat := 0
  shortRun : Nat := 0
  clearRun : Nat := 0
  unmeas : Nat := 0
  cls : Nat := 2
  measured : List Nat := []
  unverified : Bool := false
  minutes : Nat := 0
deriving DecidableEq, Repr

/-- A store pass of a board (R400): what starts it (0 periodic, 1 release, 2 shutdown; 9 abandoned), its RSEQ, the next
chunk, whether that chunk's journal copy is written, whether its write has failed once, and the chunk's bytes. -/
structure StorePass where
  board : Nat
  why : Nat
  seq : Nat
  chunk : Nat
  inPlace : Bool
  failed : Bool
  bytes : List Byte
deriving DecidableEq, Repr

/-- A lamp board (R395 to R413), by its board number. -/
structure Board where
  index : Nat
  /-- The first 1,024 bytes of its identity memory, once read. -/
  header : List Byte := []
  /-- Its life model, where it is valid (R344). -/
  model : Option (List Byte) := none
  channels : List Channel := []
  /-- Its integrals in DRAM are those of this SERIAL since reset (R397). -/
  kept : Option (List Byte) := none
  /-- The RSEQ of its last store pass and of its last fault copy, and the copy written last (R394, R400). -/
  seq : Nat := 0
  faultSeq : Nat := 0
  faultCopy : Nat := 0
  /-- A lamp's efficiency lay below WARN_EFF in this wear cycle (R401). -/
  weak : Bool := false
  /-- The events that this attach has fired: 389 and 396. -/
  fired : List Nat := []
  /-- A release waits for its pass (R398). -/
  releasing : Bool := false
  /-- OPEN or SHORT has changed and no fault copy has been written since (R400). -/
  dirty : Bool := false
deriving DecidableEq, Repr

/-- A slot of a lamp-board bus (R388): present or not, and the consecutive polls that said otherwise. -/
structure BoardSlot where
  bus : Nat
  slot : Nat
  present : Bool := false
  run : Nat := 0
deriving DecidableEq, Repr

/-- A driver group (R360, R370 to R378): the frame it loads or has loaded last, the next row group, whether that load took a row
group from BASE or fell back, whether the next load begins with GC_WRITE and CONFIG_WRITE, a SELF_REFRESH load that waits for TE
(its slot), and the pins that differed in this period. -/
structure Group where
  group : Nat
  frame : Nat := 0
  next : Nat := 0
  fromBase : Bool := false
  range : Bool := false
  init : Bool := true
  waiting : Option (Nat × LoadInput) := none
  pins : Nat := 0
deriving DecidableEq, Repr

/-- The lamp pipeline, the driver groups and the boards. -/
structure LampState where
  /-- The tick at which the running blend started (R356). -/
  blend : Option Nat := none
  latches : List LampLatch := []
  rows : List LampRow := []
  /-- The least H of this wear cycle and its board (R348). -/
  least : Option (Nat × Nat) := none
  /-- The last frame of the wear cycle that has ended last (R348). -/
  cycled : Nat := 0
  /-- Event 329 has fired in this wear cycle (R347). -/
  capped : Bool := false
  /-- Channels that a Grey-pulse window has selected: frame and channel number (R409). -/
  grey : List (Nat × Nat) := []
  /-- The wear-sample slots that have run: frame, region and slot (R348). -/
  wearRun : List (Nat × Nat × Nat) := []
  groups : List Group := []
  /-- Read-outs to discard: group and frame lit (R403). -/
  spoiled : List (Nat × Nat) := []
  boards : List Board := []
  slots : List BoardSlot := []
  passes : List StorePass := []
  /-- Boards of which an UNVERIFIED channel has been reported in this wear cycle (R411). -/
  unverified : List Nat := []
  /-- Record changes that wait for the next blend: board and channel numbers (R405). -/
  changes : List Nat := []
  /-- A blend request that waits for the running blend to end: the records updated in service (R356). -/
  again : Option (List (Nat × List Byte)) := none
deriving DecidableEq, Repr

end Sys2Proof.Machine
end

