-- ==== Sys2Proof/Machine/State/Link.lean ====
section
/-! DEFINITION. The state of the chain link beside its registers. -/

namespace Sys2Proof.Machine

/-- One chain port (R295 to R299). -/
structure Port where
  /-- The port has been UP since reset (R295). -/
  wasUp : Bool := false
  /-- A set of attempts runs (R299); otherwise the port waits or is DOWN. -/
  trying : Bool := false
  /-- The far side's offer in its TS words: 0 to 2 a rate, 3 none. -/
  farOffer : Nat := 3
  /-- TS2 words are being sent (R295 step 3). -/
  ts2 : Bool := false
  /-- Both sides have switched to the agreed rate (R295 step 5). -/
  agreed : Bool := false
  /-- Equalisation at the agreed rate has settled and IDLE is sent (R295 step 7). -/
  idle : Bool := false
  /-- Consecutive main measurements below FOM_DOWN (R299). -/
  low : Nat := 0
  /-- The adaptation candidate that comes next, 0 to 7 (R297). -/
  candidate : Nat := 0
  /-- A candidate whose settings are adopted after the next ALIGN word (R297). -/
  adopt : Option Nat := none
  /-- SEQ of the next ALIGN word that the port originates (R279). -/
  alignSeq : Nat := 0
  /-- The packet that a video window broke off: its remaining bytes (R284). -/
  carried : List Byte := []
  /-- SEGMENT and AUDIO packets waiting for their windows, oldest first. -/
  video : List (List Byte) := []
  /-- Bulk packets waiting for room, oldest first (R284). -/
  bulk : List (List Byte) := []
  /-- Segments that the slot tables still list for the chain in this period (R284). -/
  videoLeft : Nat := 0
  /-- The learned settings, stored or queued to be stored: rate, CTLE and the three taps (R298). -/
  record : Option (List Nat) := none
deriving DecidableEq, Repr

/-- A return packet of a tile (R291, R292). -/
structure RetPacket where
  ptype : Nat
  payload : List Byte
  /-- SEQ once sent; none while it waits. PROBE_ECHO and TELEMETRY carry the next SEQ too but are not outstanding. -/
  seq : Option Nat
  /-- The tick at which it was last sent. -/
  sent : Nat
  repeats : Nat
deriving DecidableEq, Repr

/-- A REG_REQ that a Sender awaits (R294): chain, position and TAG, the ring entry, the request, when it was sent. The
request of the device's own firmware has ring 65536. -/
structure RegWait where
  chain : Nat
  position : Nat
  tag : Nat
  ring : Nat
  index : Nat
  op : Nat
  offset : Nat
  value : Nat
  sent : Nat
  repeats : Nat
deriving DecidableEq, Repr

/-- The chain link. -/
structure LinkState where
  /-- CH0 to CH15, and the pair port as port 16 (R303). -/
  ports : List Port := List.replicate 17 {}
  /-- A tile's return packets that wait to be sent, oldest first. -/
  waiting : List RetPacket := []
  /-- A tile's packets sent and not acknowledged (R291: at most 8). -/
  outstanding : List RetPacket := []
  /-- The next SEQ (R292). -/
  seq : Nat := 0
  /-- A tile's last 4 REG_RSP replies: TAG and payload (R293). -/
  replies : List (Nat × List Byte) := []
  /-- The last 16 SEQ values accepted from each tile, newest first: 64 chain + position (R292). -/
  seen : List (Nat × List Nat) := []
  /-- ACK entries to send: chain and entry word (R292). -/
  acks : List (Nat × Nat) := []
  /-- The next TAG of each chain (R294). -/
  tags : List (Nat × Nat) := []
  /-- REG_REQ packets without a reply (R294). -/
  regs : List RegWait := []
  /-- A tile's chain length N, from the ENUM word (R23). -/
  chainLen : Nat := 0
  /-- The output chains on which an ENUM word has been sent since the port came UP. -/
  enumSent : List Nat := []
deriving DecidableEq, Repr

end Sys2Proof.Machine
end

