-- ==== Sys2Proof/Machine/State/Meter.lean ====
section
/-! DEFINITION. The state of the metering domain beside the MTR_ page (R436 to R461): its sealed configuration and energy, which
outlast a loss of VDD_MTR, and the work in progress, which does not. -/

namespace Sys2Proof.Machine

/-- The coefficients of a measuring point (R439): scales in µV and µA per full scale, offsets in sample LSB, and the delay of
the current samples. -/
structure Coef where
  vScale : Int := 60000000
  vOfs : Int := 0
  iScale : Int := 10000000
  iOfs : Int := 0
  delay : Int := 0
deriving DecidableEq, Repr

/-- A measuring point. -/
structure MeterPoint where
  /-- The sealed coefficients and calibration count (R445). -/
  coef : Coef := {}
  calSeq : Nat := 0
  /-- The accumulator, in 0.01 Wh * 2^-32 (R442). -/
  acc : Nat := 0
  /-- The session's candidate (R454). -/
  cand : Coef := {}
  /-- The coefficients used for the last published interval, and where a ramp began (R455). -/
  pub : Coef := {}
  rampFrom : Coef := {}
  ramp : Nat := 0
  /-- A bitstream is stuck in the interval in progress (R443). -/
  stuck : Bool := false
  /-- The last 64 sample pairs of the interval before, newest first. -/
  tail : List (Int × Int) := []
  /-- The intervals of the last events 456 and 457. -/
  overAt : Option Nat := none
  revAt : Option Nat := none
deriving DecidableEq, Repr

/-- An energy record (R444). -/
structure EnergyRecord where
  seq : Nat
  interval : Nat
  recSeq : Nat
  accs : List Nat
  shutdown : Bool
deriving DecidableEq, Repr

/-- A ZERO, VREF or IREF command that averages 16 intervals (R453): the command, its point, reference and AC, the intervals
to come, and the sums of the samples and of their products with themselves. -/
structure CalRun where
  cmd : Nat
  point : Nat
  reference : Nat
  ac : Bool
  left : Nat := 16
  n : Nat := 0
  sumV : Int := 0
  sumI : Int := 0
  sqV : Int := 0
  sqI : Int := 0
deriving DecidableEq, Repr

/-- The metering domain. -/
structure MeterState where
  /-- The sealed configuration (R445): MTR_MCLK in Hz, the save period in s, and the write window in °C. -/
  mclkHz : Nat := 16384000
  saveS : Nat := 60
  tempLo : Int := 0
  tempHi : Int := 70
  points : List MeterPoint := List.replicate 16 {}
  /-- The two energy sectors, oldest record first, and the one in use (R444). -/
  sectorA : List EnergyRecord := []
  sectorB : List EnergyRecord := []
  intoB : Bool := false
  /-- The audit log (R448). -/
  log : List (List Byte) := []
  /-- Bytes of METER that wait for the write window, by offset, oldest first (R444). -/
  unwritten : List (Nat × List Byte) := []
  /-- The copies of the sealed configuration written since the factory: the last went to B where it is odd (R445). -/
  configSeq : Nat := 0
  /-- An M part's seal is intact (R446), and the seal breaks since the factory. -/
  intact : Bool := true
  breaks : Nat := 0
  recSeq : Nat := 0
  /-- The running firmware: its digest (none for the factory's), version and slot (R458), and the anti-rollback counter. -/
  digest : Option (List Byte) := none
  version : Nat := 1
  slotB : Bool := false
  otp : Nat := 0
  interval : Nat := 0
  /-- Seconds of metered time since the last save, and a save that waits for the write window (R444): with its SHUTDOWN flag. -/
  sinceSave : Nat := 0
  waiting : Option Bool := none
  /-- The domain's own temperature in °C. -/
  temp : Int := 25
  /-- A shutdown notice has been sent (R437). -/
  notice : Bool := false
  /-- The points held in the interval in progress, and the mask of the open session (R454). -/
  held : Nat := 0
  session : Nat := 0
  /-- The session has been committed and closes at the next boundary (R455). -/
  closing : Bool := false
  run : Option CalRun := none
  /-- A record has been requested; the interval at whose boundary the last was built; the record built and not published. -/
  request : Bool := false
  lastRecord : Option Nat := none
  built : Option (List Byte) := none
  /-- Firmware installed in the other slot, for the next boundary: digest and version. -/
  install : Option (List Byte × Nat) := none
  /-- Event 461 has fired. -/
  infoFull : Bool := false
deriving DecidableEq, Repr

end Sys2Proof.Machine
end

