-- ==== Sys2Proof/Machine/State/Pair.lean ====
section
/-! DEFINITION. The state of the redundant pair beside its registers (R303 to R326). -/

namespace Sys2Proof.Machine

/-- A pair packet that awaits its acknowledgement (R304). -/
structure PairSent where
  pseq : Nat
  ptype : Nat
  payload : List Byte
  repeats : Nat
deriving DecidableEq, Repr

/-- What HELLO told of the partner (R304, R305). -/
structure Partner where
  serial : Nat
  epoch : Nat
  state : Nat
  wallId : Nat
  foreign : Bool
deriving DecidableEq, Repr

/-- A segment that the standby expects to receive (R311): its place, the tick at which it lights, its own digest, and its
outcome once decided: 0 MATCH, 1 mismatched, 2 EXCUSED. -/
structure Expect where
  chain : Nat
  position : Nat
  row : Nat
  tick : Nat
  digest : Nat
  outcome : Option Nat
deriving DecidableEq, Repr

/-- A segment that has come in on a compared port (R310): its fields, its digest, and whether it was aborted (R311). -/
structure Seen where
  chain : Nat
  position : Nat
  row : Nat
  tickLo : Nat
  digest : Nat
  aborted : Bool
  /-- Its payload CRC failed (R311). -/
  bad : Bool
deriving DecidableEq, Repr

/-- The redundant pair. -/
structure PairUnit where
  /-- The next PSEQ sent and the next expected (R304). -/
  txSeq : Nat := 0
  rxSeq : Nat := 0
  sent : List PairSent := []
  partner : Option Partner := none
  /-- The unit is, or as ACTIVE its partner is, in lockstep (R308). -/
  lockstep : Bool := false
  /-- The PSEQ of the SNAPSHOT whose acknowledgement begins the partner's lockstep. -/
  snapshotSeq : Option Nat := none
  /-- The tick of the partner's last READ_DONE (R308). -/
  readDone : Nat := 0
  /-- The PSEQ of a DEPOSE with CAUSE 0 that awaits its acknowledgement (R313). -/
  deposeSeq : Option Nat := none
  /-- The instant of a takeover's trigger (R314). -/
  trigger : Option Nat := none
  /-- The partner has sent READ_DONE since it last applied a snapshot (R308). -/
  gotRead : Bool := false
  /-- The tick T at which this unit becomes ACTIVE (R314, R325). -/
  takeAt : Option Nat := none
  /-- The tick T + 4 at which a new active unit's mirror becomes invalid (R314). -/
  invalidAt : Option Nat := none
  /-- The tick H at which the active unit silences itself for a planned handover (R325). -/
  silenceAt : Option Nat := none
  /-- The tick c of the join in progress (R318). -/
  joinCycle : Option Nat := none
  /-- The tick at which the unit entered SUSPECT. -/
  suspectAt : Nat := 0
  /-- The active unit sends a SNAPSHOT at the next tick (R318, R319). -/
  snapshotDue : Bool := false
  /-- Chains that the standby begins to feed at its next tick, and stops feeding at a tick W (R315, R316). -/
  feedNext : List Nat := []
  reunite : List (Nat × Nat) := []
  /-- Consecutive good reads of the ports beside the break of a chain (R316). -/
  goodReads : List (Nat × Nat) := []
  /-- The active unit's record of the chains that the standby feeds: bulk packets for them are relayed (R315). -/
  splitChains : List Nat := []
  /-- The segments expected, in stream order (R311). -/
  expect : List Expect := []
  /-- Segments received and not yet matched, in order. -/
  early : List Seen := []
  /-- Ports on which an excusing event has happened in this period, and in the one before (R311). -/
  excuse : List Nat := []
  excuseOld : List Nat := []
  /-- Ports on which a segment has been compared in this period (R313). -/
  seenPorts : List Nat := []
  /-- Reunited chains and the frame from which comparison resumes (R316). -/
  compareFrom : List (Nat × Nat) := []
  /-- The frame's tick and its mismatched segments over all chains (R312). -/
  frameBad : List (Nat × Nat) := []
  /-- The frames for which a decision has been taken (R312). -/
  decided : List Nat := []
deriving DecidableEq, Repr

end Sys2Proof.Machine
end

