-- ==== Sys2Proof/Machine/Float.lean ====
section
/-! DEFINITION. Floating point by exact dyadic numbers, rounded to nearest with ties to even: binary16 and binary32 of the
composition chapter and binary64 of the thermal model. -/

namespace Sys2Proof.Machine

/-- The dyadic number m * 2^e. -/
structure Fp where
  m : Int
  e : Int
deriving DecidableEq, Repr

/-- A format: bits of precision and the exponent of its least step. -/
structure FpFormat where
  p : Nat
  emin : Int

/-- binary16, binary32 and binary64 of IEEE 754. -/
def f16 : FpFormat := ⟨11, -24⟩
def f32 : FpFormat := ⟨24, -149⟩
def f64 : FpFormat := ⟨53, -1074⟩

/-- The quotient a / b rounded to the nearest, ties to even. -/
def roundDiv (a b : Nat) : Nat :=
  let q := a / b
  let r := a % b
  if 2 * r < b then q else if b < 2 * r then q + 1 else if q % 2 = 0 then q else q + 1

/-- The number of bits of `n`. -/
def bitLen (n : Nat) : Nat := if n = 0 then 0 else n.log2 + 1

/-- 0. -/
def Fp.zero : Fp := ⟨0, 0⟩

/-- An integer. -/
def Fp.ofInt (i : Int) : Fp := ⟨i, 0⟩

/-- The integer m scaled by 2^k, with k at or above 0. -/
def scaleUp (m : Int) (k : Int) : Int := m * (2 ^ k.toNat : Nat)

/-- `x` rounded to a format. -/
def Fp.round (f : FpFormat) (x : Fp) : Fp :=
  if x.m = 0 then Fp.zero
  else
    let a := x.m.natAbs
    let e' := max (x.e + (bitLen a : Int) - (f.p : Int)) f.emin
    if e' ≤ x.e then ⟨scaleUp x.m (x.e - e'), e'⟩
    else
      let q := roundDiv a (2 ^ (e' - x.e).toNat)
      if q = 0 then Fp.zero else ⟨if x.m < 0 then -(q : Int) else (q : Int), e'⟩

/-- The exact sum. -/
def Fp.addExact (x y : Fp) : Fp :=
  let e := min x.e y.e
  ⟨scaleUp x.m (x.e - e) + scaleUp y.m (y.e - e), e⟩

/-- −x. -/
def Fp.neg (x : Fp) : Fp := ⟨-x.m, x.e⟩

/-- The exact product. -/
def Fp.mulExact (x y : Fp) : Fp := ⟨x.m * y.m, x.e + y.e⟩

/-- The rounded sum, difference and product. -/
def Fp.add (f : FpFormat) (x y : Fp) : Fp := (x.addExact y).round f
def Fp.sub (f : FpFormat) (x y : Fp) : Fp := (x.addExact y.neg).round f
def Fp.mul (f : FpFormat) (x y : Fp) : Fp := (x.mulExact y).round f

/-- The rounded quotient; 0 where `y` is 0. Two sticky bits keep the rounding exact. -/
def Fp.div (f : FpFormat) (x y : Fp) : Fp :=
  if y.m = 0 then Fp.zero
  else
    let a := x.m.natAbs
    let b := y.m.natAbs
    let k := f.p + 3 + bitLen b
    let q := a * 2 ^ k / b
    let r := a * 2 ^ k % b
    let m : Nat := 2 * q + (if r = 0 then 0 else 1)
    let neg := decide (x.m < 0) != decide (y.m < 0)
    (⟨if neg then -(m : Int) else (m : Int), x.e - y.e - (k : Int) - 1⟩ : Fp).round f

/-- The rounded quotient of two naturals. -/
def Fp.ratio (f : FpFormat) (a b : Nat) : Fp := Fp.div f (Fp.ofInt a) (Fp.ofInt b)

/-- x < y. -/
def Fp.lt (x y : Fp) : Bool := decide ((x.addExact y.neg).m < 0)

/-- x ≤ y. -/
def Fp.le (x y : Fp) : Bool := decide ((x.addExact y.neg).m ≤ 0)

/-- The greatest integer at or below x. -/
def Fp.floor (x : Fp) : Int := if 0 ≤ x.e then scaleUp x.m x.e else x.m / (2 ^ (-x.e).toNat : Nat)

/-- The nearest integer to x, ties upward. -/
def Fp.nearest (x : Fp) : Int := (x.addExact ⟨1, -1⟩).floor

end Sys2Proof.Machine
end

