-- ==== Sys2Proof/Machine/State/Thermal.lean ====
section
/-! DEFINITION. The state of the thermal and power manager beside its registers. -/

namespace Sys2Proof.Machine

/-- The thermal and power manager (R462 to R477). -/
structure Therm where
  /-- T[i] of R465 in °C, in binary64: nodes 0 to 6 and the lamp boards. -/
  temps : List Fp := []
  /-- The number of the next evaluation (R468). -/
  evalN : Nat := 0
  /-- Consecutive updates in which a diode and its node differed by more than 10 °C (R465). -/
  disagree : List Nat := [0, 0]
  /-- Every measuring point is treated as absent (R464). -/
  absent : Bool := false
  /-- th_wall in force (R469). -/
  thWall : Nat := 32768
  /-- The THROTTLE command in force, sent or adopted: TH and APPLY. -/
  thCmd : Option (Nat × Nat) := none
  /-- A THROTTLE command that waits for its APPLY tick. -/
  thNext : Option (Nat × Nat) := none
  /-- The valid sensor readings, in 1/128 °C, by lamp board (R388). -/
  sensors : List (Nat × Int) := []
  /-- The SENSOR-mode boards that are handled in MODEL mode (R467). -/
  fallback : List Nat := []
  /-- The codes that the lamp cells have reported since the last update, by board: their sum, and lamps times maxcode (R464). -/
  drive : List (Nat × Nat × Nat) := []
  /-- The board node was at or below 82 °C at the last update of the model (R159). -/
  boardCool : Bool := true
  /-- The CCLK that the next tick boundary takes (R471). -/
  cclkNext : Option Nat := none
deriving DecidableEq, Repr

end Sys2Proof.Machine
end

