-- ==== Sys2Proof/Machine/State/Tick.lean ====
section
/-! DEFINITION. The state of the tick and schedule engine and of the DRAM channels beside their registers. -/

namespace Sys2Proof.Machine

/-- One slot entry (R89). Times are in schedule units of 4 ns. -/
structure Slot where
  nomStart : Nat
  kind : Nat
  nomDur : Nat
  lane : Nat
  minDur : Nat
  depValid : Bool
  dep : Nat
  operand : Nat
deriving DecidableEq, Repr

/-- One rate set of the clock plan with its slot tables, one per region (R67). Rates are in mHz, times in SU. -/
structure RSet where
  nom : Nat
  low : Nat
  high : Nat
  compileDeadline : Nat
  decodeLead : Nat
  tables : List (List Slot)
deriving DecidableEq, Repr

/-- A decided transition that takes effect at a tick boundary (R69, R73, R74, R76): the mode entered, the rate set and
the period from then on (in 1/64 ns), whether it goes through a repeat period (R75), and whether it is the loss of the reference or of
the markers (R71, R82). -/
structure Pending where
  mode : Nat
  rateSet : Nat
  period : Nat
  jump : Bool
  lost : Bool := false
deriving DecidableEq, Repr

/-- An elastic slot that runs (R93, R94): its index and entry, its start and allotment in SU after the tick it belongs to, and how many
SU before the present tick that tick was. -/
structure Running where
  slot : Nat
  entry : Slot
  start : Nat
  allot : Nat
  base : Nat
deriving DecidableEq, Repr

/-- What one lane of a region carries (R93, R94): its lateness, the end of its last slot and the slot that runs, in SU. -/
structure Lane where
  region : Nat
  lane : Nat
  late : Nat
  prevEnd : Nat
  running : Option Running
deriving DecidableEq, Repr

/-- The tick and schedule engine. Times are in 1/64 ns unless said otherwise. -/
structure TickState where
  /-- The instant of the next tick boundary; none in a tile before its first valid marker (R82). -/
  next : Option Nat := none
  /-- The instant of the last numbered tick. -/
  last : Nat := 0
  /-- The transitions that the next tick boundaries take, one each. -/
  pending : List Pending := []
  /-- The number that a marker gives the next tick (R81); none where it is the count plus 1. -/
  number : Option Nat := none
  /-- A repeat boundary has been passed and its gap runs (R75), since the instant given. -/
  inGap : Bool := false
  gapFrom : Nat := 0
  /-- The repeat boundary that a REPEAT marker has announced to a follower, not yet reached (R80). -/
  repeatAt : Option Nat := none
  /-- The rate set that waits for the running slots of the old tables (R96). -/
  switching : Option Nat := none
  /-- The last qualifying edge, accepted or not (R72). -/
  edge : Option Nat := none
  /-- The next expected edge (R70). -/
  expected : Option Nat := none
  /-- The last accepted edge. -/
  accepted : Option Nat := none
  /-- The last accepted intervals, newest first, at most 8 (R70). -/
  intervals : List Nat := []
  /-- The last intervals of every qualifying edge, newest first, at most 8 (R72). -/
  every : List Nat := []
  /-- Consecutive accepted edges of an acquisition or in HOLDOVER (R69, R70). -/
  run : Nat := 0
  /-- Consecutive missing edges (R71). -/
  missing : Nat := 0
  /-- Consecutive ticks with a phase error of at most 100 ns (R69). -/
  inPhase : Nat := 0
  /-- The reference period of the last rate change found (R72), until the tick tracks a reference again. -/
  found : Option Nat := none
  /-- A tile or standby has had a valid marker since reset (R82). -/
  marked : Bool := false
  /-- Consecutive valid markers. -/
  valid : Nat := 0
  /-- Consecutive missing markers (R82). -/
  lost : Nat := 0
  /-- A marker has fixed the next tick, and raises it late (R80). -/
  fixed : Bool := false
  late : Bool := false
  /-- The interval from the last numbered tick to the next measures the period: both follow markers, with no gap and no phase step between
  them. -/
  steady : Bool := false
  /-- A follower is in HOLDOVER for want of markers (R82). -/
  lossHeld : Bool := false
  /-- TICK_HI of the ENUM word from which the tile took its address (R81). -/
  tickHi : Nat := 0
  /-- The rate set that the next tick takes from its marker (R80). -/
  nextRateSet : Nat := 0
  /-- Markers missed and received in a row on each chain port, for the port selection of R288: port, missed, valid. -/
  ports : List (Nat × Nat × Nat) := []
  /-- The delay values that a tile moves toward: END 0 and END 1, in 1/8 ns (R85). -/
  towardA : Nat := 0
  towardB : Nat := 0
  /-- A tile's or unit's own forward repeat latency per direction is a register; a Sender keeps each tile's h: 64 chain
  + position and value (R86). -/
  repeatH : List (Nat × Nat) := []
  /-- The position that the next PROBE slot of a chain probes: port and position; 0 where none is listed (R83). -/
  probeNext : List (Nat × Nat) := []
  /-- Probes in flight: chain, position and t1 in 1/8 ns (R83). -/
  probes : List (Nat × Nat × Nat) := []
  /-- The last measurements of each tile, newest first, at most 4: 64 chain + position (position N is the B-end unit). -/
  measured : List (Nat × List Nat) := []
  /-- The lanes that carry work or lateness. -/
  lanes : List Lane := []
  /-- The slots completed in this period: region, slot and end in SU. -/
  ends : List (Nat × Nat × Nat) := []
  /-- The greatest lateness of each region in this period (R99). -/
  lateMax : List Nat := List.replicate 4 0
deriving DecidableEq, Repr

/-- One request in a DRAM channel (R150 to R154). -/
structure DReq where
  /-- The number under which the channel accepted it. -/
  id : Nat
  write : Bool
  /-- Class of R134. -/
  cls : Nat
  /-- Kind of RT port, 0 to 5 in the order of R152's table; 6 for a port that cannot panic. -/
  kind : Nat
  addr : Nat
  len : Nat
  aged : Bool
  /-- How often the arbiter has passed it over (R153). -/
  passed : Nat
deriving DecidableEq, Repr

/-- One DRAM channel (R150 to R159). -/
structure Chan where
  /-- Requests accepted and not yet issued, oldest first: the write queue and the waiting reads. -/
  queue : List DReq := []
  /-- Reads issued and not yet completed. -/
  issued : List DReq := []
  /-- Writes held because their class's entries are full, oldest first (R150). -/
  heldWrites : List DReq := []
  nextId : Nat := 0
  /-- The open row of each bank, by 4 * bank group + bank. -/
  open_ : List (Nat × Nat) := []
  /-- The kinds of port in panic (R152); 7 is the decoder's display write buffer, 2 its reference prefetch. -/
  panic : List Nat := []
  /-- Panic service given in this window, in ns (R155). -/
  panicUsed : Nat := 0
  /-- The allowance is spent in this window. -/
  capped : Bool := false
  /-- The previous grant went to an aged request (R153). -/
  lastAged : Bool := false
  /-- The end of the refresh interval in progress, in 1/64 ns (R157, R158). -/
  intervalEnd : Nat := 0
  /-- The last multiplier read from MR4, in quarters (R159). -/
  mr4 : Nat := 4
  /-- The training settings in use (R161), 256 bytes or none. -/
  settings : List Byte := []
  /-- Refreshes issued since the drift was last tracked, and the delay adjustment in force, a free value (R164, log 2). -/
  untracked : Nat := 0
  delay : Nat := 0
  /-- The channel's density code, as MR8 gave it (R148). -/
  density : Nat := 0
deriving DecidableEq, Repr

end Sys2Proof.Machine
end

