-- ==== Sys2Proof/Machine/State/Video.lean ====
section
/-! DEFINITION. The state of layers and commits, composition, capture, the encoders' mirrors, rate control and the decoders
(R168 to R273), beside their registers. A picture is held block by block: one 16×8 block is 384 numbers, R, G and B of each
pixel, line 0 first. -/

namespace Sys2Proof.Machine

/-- The commit in execution on a COMMIT ring (R176, R183): its entry, its descriptor once read, and its wait count. -/
structure CommitRun where
  ring : Nat
  index : Nat
  entry : List Byte
  desc : Option (List Byte)
  waits : Nat
deriving DecidableEq, Repr

/-- A commit compiled into the plan of the next period (R184), or announced to a standby (R185): the tick at which it takes
effect and its records. A ring of none is the initial static state or an announcement. -/
structure Compiled where
  ring : Option (Nat × Nat × List Byte)
  records : List (List Byte)
  tick : Nat
deriving DecidableEq, Repr

/-- A release completion that is owed (R186): the tick at which it falls due and its mask. -/
structure ReleaseDue where
  ring : Nat
  index : Nat
  entry : List Byte
  mask : Nat
  tick : Nat
deriving DecidableEq, Repr

/-- A cascaded frame in one of its input's four frame buffers (R173): its number, the instant at which it completed (in 1/64
ns; none while it is being written), and its blocks by 256 * row + column. A block that the decoder held in Slate has its earlier
content. -/
structure CascadeFrame where
  number : Nat
  done : Option Nat
  blocks : List (Nat × List Nat)
deriving DecidableEq, Repr

/-- One cascaded input as composition sees it (R173). -/
structure CascadeIn where
  port : Nat
  frames : List CascadeFrame := []
  /-- The frame number in use by composition in this period, and the one pinned for the next. -/
  inUse : Option Nat := none
  pinned : Option Nat := none
  /-- The frame that was in use in the period before, for slots that run late (R97). -/
  before : Option Nat := none
deriving DecidableEq, Repr

/-- A cascaded input as the routing section describes it (R240, R249): its port, the address its segments carry, and the
size of its picture in pixels. Its coding domain is in DEC_CASCADE_DOMAIN. -/
structure CascadePort where
  port : Nat
  chain : Nat
  position : Nat
  width : Nat
  height : Nat
  /-- The index of its budget entry (R563, kind 0x000A). -/
  budget : Nat := 0
deriving DecidableEq, Repr

/-- A fence word read for the next deadline (R180): the record's key (64 * ring + record number), the SQ index of its commit, and the
value, none until it returns or when it cannot be used. -/
structure FenceWord where
  key : Nat
  index : Nat
  value : Option Nat
deriving DecidableEq, Repr

/-- A fence-word read that has been issued and has not ended: the record's key, the SQ index of its commit, the period whose deadline it
serves, whether it is of host memory, its context and its address. -/
structure FenceRead where
  key : Nat
  index : Nat
  period : Nat
  host : Bool
  ctx : Nat
  addr : Nat
deriving DecidableEq, Repr

/-- Layers, commits and buffer ownership. -/
structure LayerState where
  /-- The records in force of the enabled layers, by layer (R177). -/
  layers : List (Nat × List Byte) := []
  /-- The records that were in force in the period before, for slots that run late (R96). -/
  before : List (Nat × List Byte) := []
  commits : List CommitRun := []
  compiled : List Compiled := []
  releases : List ReleaseDue := []
  /-- The fence words read for the next deadline. -/
  fences : List FenceWord := []
  fenceReads : List FenceRead := []
  /-- The tick whose period's deadline has passed. -/
  deadline : Option Nat := none
  cascades : List CascadeIn := []
  /-- Deadlines in a row without a new frame, by layer (R173). -/
  staleRun : List (Nat × Nat) := []
  /-- The layers shown as a fallback in this period (R192). -/
  shown : List Nat := []
  /-- The routing section's raster size of each region (R168) and cascaded inputs (R240). -/
  rasters : List (Nat × Nat) := []
  inputs : List CascadePort := []
deriving DecidableEq, Repr

/-- One composed block of a block row: held (R211), or its 384 binary16 values. -/
structure ComposedBlock where
  held : Bool
  values : List Nat
deriving DecidableEq, Repr

/-- One composed block row of a region for a frame (R213). -/
structure ComposedRow where
  region : Nat
  row : Nat
  frame : Nat
  blocks : List ComposedBlock
deriving DecidableEq, Repr

/-- A source line in the line buffers (R205): its region, layer and frame, its plane and line, the address of its first byte and its
bytes. -/
structure SourceLine where
  region : Nat
  layer : Nat
  frame : Nat
  plane : Nat
  line : Nat
  addr : Nat
  bytes : List Byte
deriving DecidableEq, Repr

/-- A fetch-and-compose slot that runs (R206, R213): its region, slot and next and last block rows, the frame it composes, the
layers' records in its row plan, host memory as its fetches find it, whether it runs late, whether the fetches of the next row have
been issued, and whether it waits for a handoff row. -/
structure ComposeRun where
  region : Nat
  slot : Nat
  next : Nat
  last : Nat
  frame : Nat
  plan : List (Nat × List Byte)
  mem : HostMem
  late : Bool
  fetched : Bool
  waiting : Bool
deriving DecidableEq, Repr

/-- A capture buffer (R214 to R217): its entry, the frame it captures once it is taken, the rows written and skipped. -/
structure CaptureBuf where
  ring : Nat
  index : Nat
  entry : List Byte
  region : Nat
  frame : Option Nat
  /-- Rows written, and bytes written in order. -/
  written : Nat
  bytes : Nat := 0
  skipped : Nat
  /-- Block rows of the rectangle still to come. -/
  left : Nat
deriving DecidableEq, Repr

/-- The encoder's mirror of one tile's pool (R259 to R263) and its pending key set (R268). Blocks are keyed by slot * 2^20 +
row * 2^8 + block column, slot 4 being the long-term picture; a listed block is valid. -/
structure Mirror where
  chain : Nat
  position : Nat
  blocks : List (Nat × List Nat) := []
  /-- The tick that each slot was last written for. -/
  slotTick : List (Option Nat) := [none, none, none, none]
  /-- The pending key set: order key and row. -/
  keys : List (Nat × Nat) := []
  /-- Key requests accepted for a tick: tick, first and last row (R266). -/
  requests : List (Nat × Nat × Nat) := []
deriving DecidableEq, Repr

/-- A segment that a decoder has kept (R240, R252): the tick it lights at, its row and its bytes. -/
structure KeptSegment where
  tick : Nat
  row : Nat
  bytes : List Byte
deriving DecidableEq, Repr

/-- Causes of a key request (R264): first and last row, the tick of the earliest frame, SLATE, DISCARD and RESET. -/
structure KeyCause where
  first : Nat
  last : Nat
  tick : Nat
  slate : Bool
  discard : Bool
  reset : Bool
deriving DecidableEq, Repr

/-- One decoder's view of one stream: a tile's slice, a Combined part's own section or a cascaded input (R259, R272). -/
structure Decoder where
  /-- 0 the part's own slice; 1 + p the cascaded input on port p. -/
  stream : Nat
  /-- The pool and long-term picture, keyed as a mirror's. -/
  pool : List (Nat × List Nat) := []
  /-- The display buffer, by row * 2^8 + block column. -/
  display : List (Nat × List Nat) := []
  /-- The blocks of the display buffer flagged stale, keyed as it is (R243). -/
  stale : List Nat := []
  kept : List KeptSegment := []
  /-- Rows accepted for a tick, and rows resolved: tick and row (R240). -/
  accepted : List (Nat × Nat) := []
  resolved : List (Nat × Nat) := []
  /-- The causes that no posted request carries (R264). -/
  cause : Option KeyCause := none
  /-- The posted requests without an acknowledgement: payload and the causes carried. -/
  posted : List (List Byte × KeyCause) := []
  /-- The tick of the frame of the last request. -/
  lastPost : Option Nat := none
  /-- The stream has been reset and no request has told so yet. -/
  fresh : Bool := true
  /-- The frame whose end has been looked at for a request, or that completed (R173). -/
  ended : Nat := 0
  /-- A cascaded input: the frame in progress, the next SEQ of its return direction, and the cells in flight: SEQ, the tick at
  which the cell was sent, its repeats and its payload (R272, R292). -/
  frame : Option Nat := none
  seq : Nat := 0
  cells : List (Nat × Nat × Nat × List Byte) := []
deriving DecidableEq, Repr

/-- A row whose processing a cell fault has disturbed (R523, R524): its region, block, tile or stream (chain and position), row
and tick of the period, and whether the retry has failed too. -/
structure BadRow where
  region : Nat
  block : Nat
  /-- The cell within the block. -/
  cell : Nat
  chain : Nat
  position : Nat
  row : Nat
  tick : Nat
  failed : Bool
deriving DecidableEq, Repr

/-- Segments of an encode slot that wait for their turn in the chain's order (R244): chain, slot and packets. -/
structure SlotSegments where
  region : Nat
  slot : Nat
  chain : Nat
  packets : List (List Byte)
deriving DecidableEq, Repr

/-- The video path. -/
structure VideoState where
  lay : LayerState := {}
  composing : List ComposeRun := []
  /-- The line buffers (R205). -/
  lines : List SourceLine := []
  /-- The layers shown as their fallback in a frame: layer and frame (R141). -/
  faulted : List (Nat × Nat) := []
  /-- Rows in the handoff rows of each region, and rows that the encoder cells have taken (R213). -/
  handoff : List ComposedRow := []
  taken : List ComposedRow := []
  captures : List CaptureBuf := []
  /-- The capture FIFOs: the rows that wait to be written (R216). -/
  fifo : List ComposedRow := []
  mirrors : List Mirror := []
  /-- The full-key cycle's start tick (R270). -/
  cycle : Option Nat := none
  segments : List SlotSegments := []
  /-- Encode slots that have run in this period: region and slot. -/
  encoded : List (Nat × Nat) := []
  decoders : List Decoder := []
  /-- The tick whose frame was last shown by a broadcast sync. -/
  synced : Nat := 0
  /-- Regions fenced (R526). -/
  fenced : List Nat := []
  bad : List BadRow := []
  /-- Blocks stopped by a restart (R525): region, block and the tick at which it resumes; those whose restart has completed; and the
  tick of each block's last return (R523). -/
  stopped : List (Nat × Nat × Nat) := []
  ready : List (Nat × Nat) := []
  returned : List (Nat × Nat × Nat) := []
  /-- Fences: region and instant (R527), and the regions that return at the next tick. -/
  fences : List (Nat × Nat) := []
  returning : List Nat := []
deriving DecidableEq, Repr

end Sys2Proof.Machine
end

