-- ==== Sys2Proof/Machine/State.lean ====
section
/-! DEFINITION. The state of the device. -/

namespace Sys2Proof.Machine

/-- What the host port keeps beside its registers. -/
structure HostState where
  /-- The ring last served of each class, for round-robin order (R121). -/
  served : List (Nat × Nat) := []
  /-- The base address registers that differ from their reset value: number and the 64-bit base that the host has written (R105). -/
  bars : List (Nat × Nat) := []
  /-- The Command and Device Control bits and the other writable words of configuration space: offset and value (R101, log 91). -/
  config : List (Nat × Nat) := []
  /-- The status words of the AER capability (R101, R103): correctable and uncorrectable. -/
  aerCor : Nat := 0
  aerUncor : Nat := 0
deriving DecidableEq, Repr

/-- What a unit keeps of one tile (R513, R483): its newest HEADROOM and THROTTLE reports, and how admission sees it. -/
structure TileInfo where
  chain : Nat
  position : Nat
  /-- HMIN, board and VALID of the newest HEADROOM report (R348, R513). -/
  headroom : Option (Nat × Nat × Bool)
  /-- th of the newest THROTTLE report. -/
  th : Option Nat
  /-- The tick of the last HEADROOM report, or the APPLY tick of admission (R513). -/
  reported : Nat
  /-- Event 21 has fired in this episode (R513). -/
  stale : Bool
  /-- The tile has been admitted (R483). -/
  admitted : Bool
  /-- The tile's part code, once read (R493). -/
  part : Option Nat := none
  /-- What the admission poll in progress has read: offset and value (R483). -/
  read : List (Nat × Nat) := []
deriving DecidableEq, Repr

/-- One chain of the routing table: its number, its tile count and whether it is a ring (R18, R19). -/
structure Route where
  chain : Nat
  tiles : Nat
  ring : Bool
deriving DecidableEq, Repr

/-- One entry of the position table (R56). -/
structure Position where
  chain : Nat
  position : Nat
  cls : Nat
  x : Nat
  y : Nat
  width : Nat
  height : Nat
  budget : Nat
  /-- The first block rows of the slice's region bands, ascending (R33). -/
  bands : List Nat := []
  /-- The region to which each of those bands is given (R33). -/
  bandRegions : List Nat := []
deriving DecidableEq, Repr

/-- The parsed image: what Ulitoand compiled and the device runs from. -/
structure Plan where
  rsets : List RSet := []
  /-- The routing table: chain, tile count N, whether the chain is a ring (R18, R19). -/
  routes : List Route := []
  /-- The position table (R56). -/
  positions : List Position := []
  /-- The position-table entry of a Combined part's own section (R22, R272), by the chain and position that its encode slots name. -/
  own : Option Position := none
deriving DecidableEq, Repr

/-- The debug port (R556, R557): its instruction, the status and data of the last REGACC access, the boundary register's update latch,
and whether it controls the pins. -/
structure Jtag where
  ir : Nat := 15
  status : Nat := 0
  data : Nat := 0
  boundary : Nat := 0
  extest : Bool := false
deriving DecidableEq, Repr

/-- The faults of a step: none; every command of the table is carried out or, where its condition does not hold, changes nothing. -/
inductive Fault where
deriving DecidableEq, Repr

/-- The refusals of a step. -/
inductive Refusal where
  /-- A command without a meaning; no arm of exec answers with it. Safe: nothing is claimed of such a command. -/
  | notModelled (mnemonic : String)
deriving DecidableEq, Repr

structure State where
  io : Io := {}
  tick : TickState := {}
  link : LinkState := {}
  tiles : List TileInfo := []
  chans : List Chan := List.replicate 16 {}
  host : HostState := {}
  plan : Plan := {}
  boot : BootState := {}
  therm : Therm := {}
  pairUnit : PairUnit := {}
  video : VideoState := {}
  lamp : LampState := {}
  wall : WallState := {}
  audio : AudioState := {}
  meter : MeterState := {}
  jtag : Jtag := {}
  /-- The commands that wait, first in, first out. -/
  pending : List Instr := []
deriving DecidableEq, Repr

/-- The device as it stands before PWRGOOD first rises: every register at the value its table gives (R6 and R7 for the
fused part, log 1), no image read, and nothing pending. -/
def State.reset : State := {}

end Sys2Proof.Machine
end

