-- ==== Sys2Proof/Machine/Ops.lean ====
section
/-! DEFINITION. Operations over the whole state that every family uses. -/

namespace Sys2Proof.Machine

/-- The outcome type of a meaning. -/
abbrev Result := Host.Outcome State Fault Refusal

/-- An operation on the shared part of the state. -/
def State.on (s : State) (f : Io → Io) : State := { s with io := f s.io }

/-- A register field of the state. -/
def State.getF (s : State) (f : Field) : Nat := s.io.getF f

/-- Whether a one-bit field of the state is 1. -/
def State.isF (s : State) (f : Field) : Bool := s.io.isF f

/-- Event `e` fires at the chip level. -/
def State.fire (s : State) (e : Nat) : State := s.on (·.fire e)

/-- A register field set. -/
def State.setF (s : State) (f : Field) (v : Nat) : State := s.on (·.setF f v)

/-- A counter increased. -/
def State.bumpF (s : State) (f : Field) (n : Nat := 1) : State := s.on (·.bumpF f n)

/-- A leaving value recorded. -/
def State.emit (s : State) (o : Out) : State := s.on (·.emit o)

/-- Cause `i` of R531 holds or not; ALERT_N is low while any cause holds. -/
def State.alert (s : State) (i : Nat) (on : Bool) : State :=
  s.setF Fld.CTL_ALERT_CAUSES (putBits (s.getF Fld.CTL_ALERT_CAUSES) i 1 (flag on))

/-- ALERT_N is driven low: outside reset, while a cause holds (R531, R547). -/
def State.alertLow (s : State) : Bool := s.boot.pwrgood && decide (s.getF Fld.CTL_ALERT_CAUSES ≠ 0)

/-- Time does not run backwards: the state at instant `t` (log 6). -/
def Io.at (s : Io) (t : Nat) : Io := { s with now := max s.now t }

/-! ### The sections of the image that have been read -/

/-- The first section of a type, by directory index. -/
def dirIndex (dir : List Section) (t : Nat) : Option Nat := (List.range dir.length).find? (fun i => (dir[i]?.map (·.typ)) == some t)

/-- The bytes of the first section of a type, once read. -/
def State.sect (s : State) (t : Nat) : Option (List Byte) :=
  (dirIndex s.boot.dir t).bind (fun i => (s.boot.loaded.find? (fun e => e.1 == i)).map (·.2))

/-- Section `t`, or no bytes. -/
def State.sectOr (s : State) (t : Nat) : List Byte := (s.sect t).getD []

end Sys2Proof.Machine
end

