-- ==== Sys2Proof/Machine/Host.lean ====
section
/-! DEFINITION. The host port: link and function resets (R101 to R109), BAR2 (R107), doorbells (R120), MSI-X (R122), ring
fetching (R121) and the ring-management entries (R115 to R119). -/

namespace Sys2Proof.Machine

/-- The registers that satisfy `p` return to their reset values. -/
def Io.clearRegs (s : Io) (p : Nat → Bool) : Io := { s with regs := s.regs.filter (fun e => !p e.1) }

/-- The registers that are host state (R108): the event-to-vector map, the MSI-X table and its pending bits, the event
masks, the fence counters and the translation contexts. -/
def hostStateReg (a : Nat) : Bool :=
  decide (Reg.HRG_EVT_VEC 0 ≤ a ∧ a < Reg.HRG_EVT_VEC 0 + 0x400) ||
  decide (Reg.HRG_MSIX_ADDR_LO 0 ≤ a ∧ a < Reg.HRG_MSIX_PBA 0 + 64) ||
  decide (Reg.CTL_EVT_MASK 0 ≤ a ∧ a < Reg.CTL_EVT_MASK 0 + 64) ||
  decide (Reg.CMP_FENCE_LO 0 ≤ a ∧ a < Reg.CMP_FENCE_LO 0 + 0x800) ||
  decide (Reg.XLT_CTX_MODE 0 ≤ a ∧ a < Reg.XLT_CTX_MODE 0 + 0x1000)

/-- Ring 0 as it is created (R112): CONTROL, 256 entries of 64 bytes, in device DRAM where the image places it. -/
def Io.ring0 (s : Io) : Ring :=
  { state := 1, cls := 0, sqLog2 := 8, cqLog2 := 8, entry64 := true, sqDram := true, cqDram := true,
    sqBase := s.getWide Fld.HRG_RING0_SQ_LO Fld.HRG_RING0_SQ_HI,
    cqBase := s.getWide Fld.HRG_RING0_CQ_LO Fld.HRG_RING0_CQ_HI }

/-- Operations that a reset of the function ends or withdraws (R109): those to host memory, and those of the ring engine. -/
def Access.ofHost (a : Access) : Bool :=
  a.host || (match a.who with
    | .cq _ _ _ | .record _ _ _ | .fetch _ _ _ | .descriptors _ _ | .fence _ | .entry _ _ => true
    | _ => false)

/-- The entry of a read whose data another command delivers. -/
def OpEntry.awaited (e : OpEntry) : Bool :=
  match e.who with
  | .fetch _ _ _ | .descriptors _ _ | .fence _ | .walk _ _ => true
  | _ => false

/-- An operation table after a reset of the function: reads already issued end as failed reads, and what was held is withdrawn. -/
def OpTable.afterReset (t : OpTable) (bar2Read : Bool) : OpTable :=
  { used := t.used.filter (fun e => !(e.host && !e.write) && !e.awaited),
    held := t.held.filter (fun h => !h.acc.ofHost && !(bar2Read && h.acc.who == .bar2)) }

/-- Host state cleared (R108): ring contexts, reservations, MSI-X table, event map and masks, fence counters and
translation contexts. Entries that this frees go to held requests (R136). -/
def Io.clearHostState (s : Io) : Io :=
  let rd := match s.bar2 with | a :: _ => !a.write | [] => false
  let s := s.clearRegs hostStateReg
  let s := { s with rings := [], tc := [], walks := [], reads := [], badReads := [], owed := [], bar2 := s.bar2.filter (·.write) }
  let s := [0, 1, 2, 3].foldl (fun s n => s.setOpTable n ((s.opTable n).afterReset rd)) s
  Io.settle ((((s.setF Fld.HRG_OUTSTANDING_FETCHES 0).setF Fld.XLT_DMA_ACTIVE_COPIES 0).reportWalks).grantAll)

/-- Ring 0 re-created empty; it exists in every device in OPERATIONAL (R109, R112). -/
def Io.createRing0 (s : Io) : Io := if s.operational && s.hasHost then s.setRing 0 s.ring0 else s

/-- A reset of the function (R109): event `e` is recorded before the host state is cleared, ring 0 is re-created at the
same offsets, and the wall runs on. -/
def Io.functionReset (s : Io) (e : Nat) : Io :=
  ((s.bumpF Fld.HRG_FN_RESETS).fire e).clearHostState.createRing0

/-- The lanes fitted (R101, CTL_VARIANT.PCIE_WIDTH). -/
def Io.fittedWidth (s : Io) : Nat := match s.getF Fld.CTL_VARIANT_PCIE_WIDTH with | 1 => 8 | 2 => 16 | _ => 0

/-- A speed and width to which the link can train (R101). -/
def Io.trains (s : Io) (speed width : Nat) : Bool :=
  decide (1 ≤ speed ∧ speed ≤ 4 ∧ width ≤ s.fittedWidth) && [1, 2, 4, 8, 16].contains width

/-- R104: the link reaches L0 at a speed and width; event 64 fires. -/
def Io.pcieUp (s : Io) (speed width : Nat) : Io :=
  if !s.hasHost || s.linkUp || !s.trains speed width then s
  else (({ s with linkUp := true }.setF Fld.HRG_LINK_SPEED speed).setF Fld.HRG_LINK_WIDTH width).fire 64

/-- R108: the link goes down, which acts as a hot reset; event 65 and then event 67 are recorded before host state is
cleared. No message leaves on the link that is down. -/
def Io.pcieDown (s : Io) : Io :=
  if !s.linkUp then s
  else
    let s := { (s.setF Fld.HRG_LINK_SPEED 0).setF Fld.HRG_LINK_WIDTH 0 with linkUp := false, d3hot := false }
    (s.fire 65).functionReset 67

/-- R109: a hot reset. -/
def Io.hotReset (s : Io) : Io := if s.hasHost then { s.functionReset 67 with d3hot := false } else s

/-- R109: a Function Level Reset. -/
def Io.flr (s : Io) : Io := if s.hasHost then s.functionReset 66 else s

/-- R109: D3hot is entered; no memory request is issued from then on. -/
def Io.d3Enter (s : Io) : Io := if s.hasHost then { s with d3hot := true } else s

/-- R109: the return to D0 clears host state as for an FLR. -/
def Io.d3Exit (s : Io) : Io := if s.d3hot then { s.functionReset 66 with d3hot := false } else s

def execPcieLinkUp (speed width : Nat) (s : State) : Result := .next (s.on (·.pcieUp speed width))
def execD3hotEntry (s : State) : Result := .next (s.on Io.d3Enter)

/-- The completion timeout ranges that the device reports, in microseconds (R103). -/
def timeoutRanges : List (Nat × Nat) := [(50, 10000), (16000, 55000), (65000, 210000)]

/-- A completion timeout that the host may select (R103). -/
def timeoutOk (us : Nat) : Bool := timeoutRanges.any (fun r => decide (r.1 ≤ us ∧ us ≤ r.2))

/-- The Max Read Request Sizes that are honoured (R101). -/
def maxReadOk (n : Nat) : Bool := [128, 256, 512, 1024, 2048, 4096].contains n

/-- The size of a base address register in bytes (R105): BAR0, BAR2 by the part's channel count, BAR4. -/
def Io.barSize (s : Io) (bar : Nat) : Nat :=
  match bar with
  | 0 => 2 ^ 23
  | 2 => 2 ^ 32 * (s.regions * s.chansPerRegion)
  | 4 => 2 ^ 19
  | _ => 0

/-- The 64-bit value of a base address register (R105): the type bits of a 64-bit BAR, prefetchable but for BAR0 (log 91), and the
base as written, whose bits below the size read 0. -/
def State.barValue (s : State) (bar : Nat) : Nat :=
  let size := s.io.barSize bar
  if size = 0 then 0
  else Sparse.get (fun _ => 0) s.host.bars bar / size * size + 4 + 8 * flag (bar != 0)

/-- Vendor ID and Device ID (R101). -/
def Io.deviceId (s : Io) : Nat := 0x1E8F + 2 ^ 16 * (0x7000 + s.part)

/-- A word of the configuration header (R101, R105; the layout is the PCI Express Base Specification's, log 91). -/
def State.headerWord (s : State) (off : Nat) : Nat :=
  match off with
  | 0x00 => s.io.deviceId
  | 0x08 => 0x038000 * 2 ^ 8
  | 0x2C => s.io.deviceId
  | 0x10 => s.barValue 0 % 2 ^ 32
  | 0x14 => s.barValue 0 / 2 ^ 32
  | 0x18 => s.barValue 2 % 2 ^ 32
  | 0x1C => s.barValue 2 / 2 ^ 32
  | 0x20 => s.barValue 4 % 2 ^ 32
  | 0x24 => s.barValue 4 / 2 ^ 32
  | _ => Sparse.get (fun _ => 0) s.host.config off

/-- What the capabilities report (R101, R103). -/
def State.capabilities (s : State) : Capabilities :=
  { speed := 4, width := s.io.fittedWidth, maxPayload := 512, maxReadRequest := s.io.maxRead, tag10 := true, msixVectors := 512, msi := false,
    intx := false, aer := true, ecrc := true, flr := true, noSoftReset := false, aspm := false, l1pm := false, sriov := false, ats := false,
    pasid := false, timeouts := timeoutRanges, timeout := s.getF Fld.HRG_CPL_TIMEOUT }

/-- A host data structure changed. -/
def State.onHost (s : State) (f : HostState → HostState) : State := { s with host := f s.host }

/-- R101 to R105: a configuration access: writes change the completion timeout in force, 10-bit tags, the read request size, a base
address or another word; reads are answered whatever the boot state, once the part's link is up (R104). -/
def execConfigurationWrite (w : ConfigWrite) (s : State) : Result :=
  .next (if !s.io.hasHost then s else
    match w with
    | .completionTimeout us => if timeoutOk us then s.on (·.setF Fld.HRG_CPL_TIMEOUT us) else s
    | .tag10 en => s.on (fun io => Io.settle ((io.setF Fld.HRG_LINK_TAG10 (flag en)).grantAll))
    | .maxReadRequest n => if maxReadOk n then s.on (fun io => { io with maxRead := n }) else s
    | .base bar v => if s.io.barSize bar = 0 then s else s.onHost (fun h => { h with bars := Sparse.set (fun _ => 0) h.bars bar (v % 2 ^ 64) })
    | .other off v => s.onHost (fun h => { h with config := Sparse.set (fun _ => 0) h.config off (v % 2 ^ 32) })
    | .readHeader off => s.emit (.config off (s.headerWord off))
    | .readCapabilities => s.emit (.capabilities s.capabilities)
    | .readAer => s.emit (.aer s.host.aerCor s.host.aerUncor))

/-- A bit of the AER uncorrectable status word is set (R103; the bits are the PCI Express Base Specification's, log 91). -/
def State.aerUncorrectable (s : State) (b : Nat) : State := s.onHost (fun h => { h with aerUncor := putBits h.aerUncor b 1 1 })

/-- Poisoned data is received: event 72 fires (R124). -/
def State.poisonSeen (s : State) (res : ReadResult) : State :=
  match res with
  | .poisoned => (s.aerUncorrectable 12).fire 72
  | _ => s

/-- The data of a read, or the fault kind with which it ends (R132): poisoned data is a read error. -/
def readOutcome (r : ReadResult) : List Byte ⊕ Nat :=
  match r with
  | .data bs => .inl bs
  | .fault k => .inr k
  | .poisoned => .inr 8

/-- R124: speed or width changes while the link stays up; event 75 fires. -/
def execPcieLinkSpeedChange (speed width : Nat) (s : State) : Result :=
  .next (if s.io.linkUp && s.io.trains speed width && !(s.getF Fld.HRG_LINK_SPEED == speed && s.getF Fld.HRG_LINK_WIDTH == width) then
    s.on (fun io => ((io.setF Fld.HRG_LINK_SPEED speed).setF Fld.HRG_LINK_WIDTH width).fire 75) else s)

/-- R124: a correctable error is logged in AER; event 73 fires. -/
def execPcieCorrectableError (s : State) : Result :=
  .next (if s.io.hasHost then (s.onHost (fun h => { h with aerCor := putBits h.aerCor 0 1 1 })).fire 73 else s)

/-- R103: a completion that arrives after its read has ended is discarded as unexpected. -/
def execUnexpectedCompletion (s : State) : Result := .next (if s.io.hasHost then s.aerUncorrectable 16 else s)

/-- The 256-byte operations of a transfer of `bs` at `a` (R135), with fuel for the number of them. -/
def granules : Nat → Nat → List Byte → List (Nat × List Byte)
  | 0, _, _ => []
  | _, _, [] => []
  | k + 1, a, bs =>
    let n := 256 - a % 256
    (a, bs.take n) :: granules k (a + n) (bs.drop n)

/-- The operations of a BAR2 access enter the tables of their regions in the shared class (R107, R135). -/
def Io.bar2Issue (s : Io) (a : Bar2Access) : Io :=
  if a.write then
    (granules (a.bytes.length + 1) a.addr a.bytes).foldl (fun s g => Io.settle (s.request (s.dramRegion g.1) 3
      { host := false, write := true, addr := g.1, bytes := g.2, len := g.2.length, who := .bar2 })) s
  else
    (opsOf a.addr a.len).foldl (fun s g => Io.settle (s.request (s.dramRegion g.1) 3
      { host := false, write := false, addr := g.1, bytes := [], len := g.2, who := .bar2 })) s

/-- The BAR2 accesses are carried out in the order in which they arrived (R172): the oldest ends once none of its operations is
held, a read with its data, and the next begins. -/
def Io.bar2Pump : Nat → Io → Io
  | 0, s => s
  | k + 1, s =>
    match s.bar2 with
    | [] => s
    | a :: t =>
      if s.held .bar2 then s
      else
        let s := if a.write then s else (s.emit (.barData (s.found .bar2 a.addr a.len) a.bad)).forget .bar2
        let s := { s with bar2 := t }
        match t with
        | [] => s
        | b :: _ => Io.bar2Pump k (s.bar2Issue b)

/-- The BAR2 accesses that can go on do. -/
def Io.bar2Run (s : Io) : Io := Io.bar2Pump s.bar2.length s

/-- R107: a BAR2 access: one operation per granule in the shared class of the addressed channel. Before OPERATIONAL it is
ignored with event 70 (R104); beyond installed DRAM a read completes with Unsupported Request and a write is discarded,
with event 70; a poisoned write is discarded, with event 72. `bad` on a read: the DRAM read had an uncorrectable error, and
the read completes with poisoned data (R160). In D3hot the function answers no memory request (R109). -/
def Io.bar2Access (s : Io) (write : Bool) (addr len : Nat) (bs : List Byte) (bad : Bool) : Io :=
  if !s.hasHost then s
  else if s.d3hot then (if write then s else s.emit .barUR)
  else if !s.operational then s.fire 70
  else if write && s.beyond addr bs.length then s.fire 70
  else if write && bad then s.fire 72
  else if !write && s.beyond addr len then (s.emit .barUR).fire 70
  else
    let a : Bar2Access := { write := write, addr := addr, len := len, bytes := bs, bad := bad }
    let s' := { s with bar2 := s.bar2 ++ [a] }
    (if s.bar2.isEmpty then s'.bar2Issue a else s').bar2Run

def execBar2Access (write : Bool) (addr len : Nat) (bs : List Byte) (bad : Bool) (s : State) : Result :=
  .next (s.on (·.bar2Access write addr len bs bad))

/-- A 32-bit index difference (R110: indices are free-running). -/
def idxDiff (a b : Nat) : Nat := (a + 2 ^ 32 - b) % 2 ^ 32

/-- An ignored doorbell is counted, and event 69 fires (R120). -/
def Io.ignoreDoorbell (s : Io) : Io := (s.bumpF Fld.HRG_DB_IGNORED).fire 69

/-- The SQ_TAIL part of a doorbell (R120, R116), and whether it is ignored. -/
def Io.doorbellTail (s : Io) (n v : Nat) : Io × Bool :=
  let r := s.ring n
  if r.state ≠ 1 ∨ r.destroying.isSome then (s, true)
  else if v = r.sqTail then (s, false)
  else if 2 ^ r.sqLog2 < idxDiff v r.sqHead then (Io.settle (s.ringError n 1 r.sqHead), false)
  else (s.setRing n { r with sqTail := v }, false)

/-- The CQ_HEAD part of a doorbell (R120), and whether it is ignored: a value that moves backwards or past CQ_TAIL is. -/
def Io.doorbellHead (s : Io) (n v : Nat) : Io × Bool :=
  let r := s.ring n
  if r.state = 0 ∨ r.destroying.isSome then (s, true)
  else if idxDiff r.cqTail r.cqHead < idxDiff v r.cqHead then (s, true)
  else (s.setRing n { r with cqHead := v }, false)

/-- A doorbell, or a part of one, that is ignored is counted once. -/
def Io.countIgnored (p : Io × Bool) : Io := if p.2 then p.1.ignoreDoorbell else p.1

/-- A BAR4 write (R120); before OPERATIONAL doorbell writes are ignored with event 70 (R104). -/
def Io.doorbell (s : Io) (off size v : Nat) : Io :=
  if !s.hasHost || s.d3hot then s
  else if !s.operational then s.fire 70
  else if 2 ^ 19 ≤ off then s.ignoreDoorbell
  else
    let n := off / 8
    if size = 8 ∧ off % 8 = 0 then
      let (s, i) := s.doorbellTail n (v % 2 ^ 32)
      let (s, j) := s.doorbellHead n (v / 2 ^ 32 % 2 ^ 32)
      Io.countIgnored (s, i || j)
    else if size = 4 ∧ off % 8 = 0 then Io.countIgnored (s.doorbellTail n (v % 2 ^ 32))
    else if size = 4 ∧ off % 8 = 4 then Io.countIgnored (s.doorbellHead n (v % 2 ^ 32))
    else s.ignoreDoorbell

/-- A BAR4 read returns the last accepted SQ_TAIL and CQ_HEAD (R120). -/
def Io.doorbellRead (s : Io) (off size : Nat) : Io :=
  if !s.hasHost then s
  else if s.d3hot then s.emit .barUR
  else
    let word := fun (a : Nat) => let r := s.ring (a / 8); leBytes 4 r.sqTail ++ leBytes 4 r.cqHead
    s.emit (.barData ((List.range size).map (fun i => (word (off + i)).getD ((off + i) % 8) 0)) false)

/-- R120: a write of a doorbell, or a read of BAR4. -/
def execDoorbellWrite (off size v : Nat) (s : State) (read : Bool := false) : Result :=
  .next (s.on (fun io => if read then io.doorbellRead off size else io.doorbell off size v))

/-- R122: the mask bit of a vector is cleared; a pending message is sent. -/
def Io.msixUnmask (s : Io) (v : Nat) : Io :=
  if !s.hasHost || decide (512 ≤ v) then s
  else
    let a := Reg.HRG_MSIX_PBA (v / 32)
    let s := s.setF (Fld.HRG_MSIX_CTL v) 0
    if bit (s.getReg a).toNat (v % 32) then
      (s.setReg a (BitVec.ofNat 32 (putBits (s.getReg a).toNat (v % 32) 1 0))).message v
    else s

def execMsixUnmask (v : Nat) (s : State) : Result := .next (s.on (·.msixUnmask v))

/-! ### Ring fetching -/

/-- The fetch priority of a ring class (R111); EVENT rings are not fetched. -/
def fetchPriority (cls : Nat) : Nat := cls

/-- Completion slots that one entry of the class reserves (R117). -/
def slotNeed (cls : Nat) : Nat := if cls = 1 then 2 else 1

/-- Entry size in bytes (R110). -/
def Ring.entryBytes (r : Ring) : Nat := if r.entry64 then 64 else 32

/-- Whether a ring has work that may be fetched now (R117, R121). -/
def Ring.fetchable (r : Ring) : Bool :=
  r.state == 1 && r.destroying.isNone && decide (r.cls < 5) && decide (r.sqHead ≠ r.sqTail) && decide (r.fetches.length < 2)
    && decide (r.cqUsed + r.cqReserved + slotNeed r.cls ≤ 2 ^ r.cqLog2)

/-- The greatest number of entries that one fetch of the ring may read (R117, R121): at most 8 and 512 bytes, not across
the wrap point, not beyond the tail, with every completion reserved. -/
def Ring.fetchLimit (r : Ring) : Nat :=
  min (min 8 (512 / r.entryBytes)) (min (2 ^ r.sqLog2 - r.sqHead % 2 ^ r.sqLog2)
    (min (idxDiff r.sqTail r.sqHead) ((2 ^ r.cqLog2 - r.cqUsed - r.cqReserved) / slotNeed r.cls)))

/-- The ring that the engine takes next (R121): the lowest priority number first; within a class round-robin order of
ring number after the ring last served. -/
def Io.nextRing (s : Io) (served : List (Nat × Nat)) : Option Nat :=
  [0, 1, 2, 3, 4].findSome? fun c =>
    let l := (s.rings.filter (fun p => p.2.cls == c && p.2.fetchable)).map (·.1)
    let last := Sparse.get (fun _ => 65536) served c
    match l.find? (fun n => decide (last < n)) with
    | some n => some n
    | none => l.head?

/-- Fetches that may be outstanding (R121, R123). -/
def Io.maxFetch (s : Io) : Nat :=
  let v := s.getF Fld.HRG_FETCH_CFG_MAX_FETCH
  if v = 0 ∨ 64 < v then 64 else v

/-- A counter field reduced by one. -/
def Io.dropF (s : Io) (f : Field) : Io := s.setF f (s.getF f - 1)

/-- A RING_DESTROY completes, on the ring that carries it, once its ring owes nothing more (R119). -/
def Io.finishDestroy (s : Io) (n : Nat) : Io :=
  let r := s.ring n
  match r.destroying with
  | some (c, i, e) =>
    if r.fetches.isEmpty && r.fetched.isEmpty && r.active.isEmpty && decide (r.cqReserved = flag (c == n)) then
      let s := s.complete c i e {}
      let s := { s with rings := Sparse.erase s.rings n }
      s
    else s
  | none => s

/-- A fetch of ring `n` ends without data: its slots free, the ring enters ERROR (R116), and a waiting RING_DESTROY is looked at. A
read error is FETCH_ERROR, a translation fault FETCH_FAULT. The fault is counted and logged at `a` (R143). -/
def Io.fetchFailed (s : Io) (n first count kind a : Nat) : Io :=
  let r := s.ring n
  let w := Waiter.fetch n first count
  let s := Io.settle ((s.withdraw w).completeOwn w)
  let s := (s.forget w).setRing n { (s.ring n) with fetches := eraseFirst (· == (first, count)) r.fetches, cqReserved := r.cqReserved - count * slotNeed r.cls }
  let s := s.dropF Fld.HRG_OUTSTANDING_FETCHES
  let (s, o1) := (s.countFault).logFault 0 a kind (ringTableClass r.cls) (if r.sqDram then 0 else r.ctx) 35 none false
  let (s, o2) := s.ringError n (if kind = 8 then 3 else 2) first
  (s.fires (o1 ++ o2)).finishDestroy n

/-- The translations of the operations of a host access (R133, R135), up to the first that faults: each with its result, and that
fault's kind and address. -/
def Io.translateOps (s : Io) (n ctx : Nat) (write : Bool) : List (Nat × Nat) → Io × List (Nat × Nat × Xlate) × Option (Nat × Nat)
  | [] => (s, [], none)
  | (a, len) :: t =>
    match s.translate n ctx a write with
    | (s, .fault k) => (s, [], some (k, a))
    | (s, x) =>
      let (s, l, f) := s.translateOps n ctx write t
      (s, (a, len, x) :: l, f)

/-- A read that the chip level makes for ring work (R135), at an address of device DRAM or of a context: its operations are issued
or join walks, or it faults at once with a kind at an address, and none is issued. -/
def Io.issueRead (s : Io) (w : Waiter) (cls : Nat) (dram : Bool) (ctx a len : Nat) : Io × Option (Nat × Nat) :=
  if dram then
    if s.beyond a len then (s, some (5, max a s.installed))
    else ((opsOf a len).foldl (fun s g => Io.settle (s.request (s.dramRegion g.1) cls
      { host := false, write := false, addr := g.1, bytes := [], len := g.2, who := w })) s, none)
  else
    match s.translateOps 0 ctx false (opsOf a len) with
    | (s, _, some f) => (s, some f)
    | (s, l, none) =>
      (l.foldl (fun s (g : Nat × Nat × Xlate) =>
        match g.2.2 with
        | .bus b ns => Io.settle (s.request 0 cls { host := true, write := false, addr := b, bytes := [], len := g.2.1, who := w, ns := ns, ctx := some ctx })
        | _ => Io.settle (s.addWalk ctx { who := w, region := 0, cls := cls, iova := g.1, write := false, len := g.2.1 })) s, none)

/-- An SQ read of ring `n` is issued (R121), or faults at once. -/
def Io.issueFetch (s : Io) (n first count : Nat) : Io :=
  let r := s.ring n
  match s.issueRead (.fetch n first count) (ringTableClass r.cls) r.sqDram r.ctx (r.sqBase + r.entryBytes * (first % 2 ^ r.sqLog2)) (r.entryBytes * count) with
  | (s, none) => s
  | (s, some (k, a)) => s.fetchFailed n first count k a

/-- R121: the engine reserves completion slots and issues one fetch of up to `count` entries for the ring that R121's
order selects, while the limits on fetches and non-posted reads allow. -/
def Io.ringFetch (s : Io) (served : List (Nat × Nat)) (count : Nat) : Io × Option Nat :=
  if !s.operational || decide (s.maxFetch ≤ s.getF Fld.HRG_OUTSTANDING_FETCHES) || decide (s.maxNp ≤ s.getF Fld.HRG_OUTSTANDING_NP_READS) then (s, none)
  else match s.nextRing served with
    | none => (s, none)
    | some n =>
      let r := s.ring n
      let k := min (max 1 count) r.fetchLimit
      let s := s.setRing n { r with fetches := r.fetches ++ [(r.sqHead, k)], sqHead := (r.sqHead + k) % 2 ^ 32,
                                    cqReserved := r.cqReserved + k * slotNeed r.cls }
      ((s.bumpF Fld.HRG_OUTSTANDING_FETCHES).issueFetch n r.sqHead k, some n)

def execRingFetch (count : Nat) (s : State) : Result :=
  .next (match s.io.ringFetch s.host.served count with
    | (io, some n) => { s with io := io, host := { s.host with served := Sparse.set (fun _ => 65536) s.host.served (io.ring n).cls n } }
    | (io, none) => { s with io := io })

/-- The entries of a fetch, each with its index. -/
def splitEntries (size : Nat) : Nat → Nat → List Byte → List (Nat × List Byte)
  | 0, _, _ => []
  | k + 1, i, bs => (i, sub bs 0 size) :: splitEntries size k ((i + 1) % 2 ^ 32) (bs.drop size)

/-- R116: the fetch of ring `n` that starts at index `first` returns, once all its reads have been issued. Its entries wait to be
executed; a queue in device DRAM gives what its reads found. A fault puts the ring in ERROR. -/
def Io.sqReadComplete (s : Io) (n first : Nat) (res : ReadResult) : Io :=
  let r := s.ring n
  match r.fetches.find? (fun f => f.1 == first) with
  | none => s
  | some (_, count) =>
    let w := Waiter.fetch n first count
    let a := r.sqBase + r.entryBytes * (first % 2 ^ r.sqLog2)
    if s.held w then s
    else match (if s.badReads.contains w then .inr 8 else readOutcome res) with
      | .inr k => s.fetchFailed n first count k a
      | .inl bs =>
        let bytes := if r.sqDram then s.found w a (r.entryBytes * count) else bs
        let s := (Io.settle (s.completeOwn w)).forget w
        (s.setRing n { s.ring n with fetches := eraseFirst (· == (first, count)) (s.ring n).fetches,
                                     fetched := (s.ring n).fetched ++ splitEntries r.entryBytes count first bytes,
                                     entries := ((s.ring n).entries + count) % 2 ^ 48 }).dropF Fld.HRG_OUTSTANDING_FETCHES

/-! ### Ring entries -/

/-- The class an opcode belongs to (R115): none for a reserved opcode, `some none` for NOP, which any ring may carry. -/
def opcodeClass (op : Nat) : Option (Option Nat) :=
  if op = 0 then some none
  else if op ≤ 0x06 then some (some 0)
  else if op = 0x10 ∨ op = 0x11 then some (some 1)
  else if 0x20 ≤ op ∧ op ≤ 0x24 then some (some 2)
  else if op = 0x30 then some (some 3)
  else if op = 0x40 ∨ op = 0x41 ∨ op = 0x42 ∨ op = 0x43 then some (some 4)
  else none

/-- An entry of the ring before index `i` has not been executed, or is still being fetched. -/
def Ring.earlier (r : Ring) (i : Nat) : Bool :=
  r.fetched.any (fun e => e.1 != i && decide (idxDiff i e.1 < 2 ^ 31)) || r.fetches.any (fun f => decide (idxDiff i f.1 < 2 ^ 31))

/-- The entry that a ring executes at index `i`: CONTROL and COMMIT entries in INDEX order, on a COMMIT ring not before the
entry in execution has its first completion (R176); CAPTURE entries in order too, behind one that waits for its region's queue (R215);
the others as they come (R118). -/
def Ring.entryAt (r : Ring) (i : Nat) : Option (List Byte) :=
  if r.cls = 1 ∧ !r.active.isEmpty then none
  else if (r.cls ≤ 1 ∨ r.cls = 3) ∧ r.earlier i then none
  else (r.fetched.find? (fun e => e.1 == i)).map (·.2)

/-- The header's reserved fields are 0 (R115): FLAGS bits [7:2] and bytes 2 and 3. -/
def headerOk (e : List Byte) : Bool := decide (fieldAt e 1 1 < 4) && allZero e 2 2

/-- The first of STATUS 0x03, 0x05 and 0x08 that applies to an entry of ring `n` (R113, R118); none where its opcode's own
checks decide. `need64` and `fieldsOk` are the opcode's own. -/
def Io.entryStatus (s : Io) (n : Nat) (r : Ring) (e : List Byte) (need64 fieldsOk : Bool) : Option Nat :=
  let op := fieldAt e 0 1
  let wrongClass := match opcodeClass op with | some (some c) => c != r.cls | _ => false
  let withheld := n == 0 && !s.isF Fld.HRG_RIGHTS_CONTROL && !(op == 0x00 || op == 0x06)
  if wrongClass || withheld then some 0x03
  else if (need64 && !r.entry64) || !headerOk e || !fieldsOk then some 0x05
  else if r.cls = 1 ∧ 2 ≤ s.getF Fld.PAIR_STATE_STATE then some 0x08
  else none

/-- The fetched entry at index `i` leaves the ring's fetched list. -/
def Io.popEntry (s : Io) (n i : Nat) : Io :=
  let r := s.ring n
  s.setRing n { r with fetched := eraseFirst (fun e => e.1 == i) r.fetched }

/-- An entry of ring `n` completes at once: its completion is written, on a COMMIT ring the slot of its release frees,
and a waiting RING_DESTROY is looked at. -/
def Io.answer (s : Io) (n i : Nat) (e : List Byte) (d : Done) : Io :=
  let s := (s.popEntry n i).complete n i e d
  let s := if (s.ring n).cls = 1 then s.freeSlot n else s
  s.finishDestroy n

/-- Executing an entry (R118): when the entry at index `i` of ring `n` has opcode `op`, the statuses common to all opcodes
are checked and then `body` runs; otherwise nothing is executed. -/
def Io.onEntry (s : Io) (n i op : Nat) (need64 : Bool) (fieldsOk : List Byte → Bool) (body : Ring → List Byte → Io → Io) : Io :=
  let r := s.ring n
  match r.entryAt i with
  | none => s
  | some e =>
    if fieldAt e 0 1 ≠ op then s
    else match s.entryStatus n r e need64 (fieldsOk e) with
      | some st =>
        let s := if st = 0x03 ∧ n = 0 ∧ !s.isF Fld.HRG_RIGHTS_CONTROL then s.fire 74 else s
        s.answer n i e { status := st }
      | none => body r e s

/-- R115: NOP completes. -/
def execNop (ring i : Nat) (s : State) : Result :=
  .next (s.on (fun io => io.onEntry ring i 0x00 false (fun _ => true) (fun _ e io => io.answer ring i e {})))

/-- R118: an entry with a reserved opcode completes with STATUS 0x04. -/
def execReservedOpcode (ring i : Nat) (s : State) : Result :=
  .next (s.on fun io =>
    match (io.ring ring).entryAt i with
    | some e => if opcodeClass (fieldAt e 0 1) = none then io.answer ring i e { status := 0x04 } else io
    | none => io)

/-- The case of RING_CREATE's table that holds first (R115); 0 when none does. -/
def Io.createCase (s : Io) (e : List Byte) : Nat :=
  let n := fieldAt e 8 2
  let cls := fieldAt e 10 1
  let sq := fieldAt e 11 1
  let cq := fieldAt e 12 1
  let mode := fieldAt e 13 1
  let size := if bit mode 2 then 64 else 32
  if n = 0 ∨ (s.ring n).state ≠ 0 then 1
  else if 5 < cls ∨ sq < 3 ∨ 16 < sq ∨ cq < 3 ∨ 16 < cq ∨ 511 < fieldAt e 16 2 then 2
  else if fieldAt e 24 8 % size ≠ 0 ∨ fieldAt e 32 8 % 32 ≠ 0 then 3
  else if cls ≤ 1 ∧ ¬ bit mode 2 then 4
  else if cls = 1 ∧ cq < sq + 1 then 5
  else if (bit mode 3 && s.beyond (fieldAt e 24 8) (size * 2 ^ sq)) || (bit mode 4 && s.beyond (fieldAt e 32 8) (32 * 2 ^ cq)) then 6
  else 0

/-- The reserved fields of RING_CREATE (R115). -/
def createFieldsOk (e : List Byte) : Bool :=
  allZero e 15 1 && allZero e 18 6 && allZero e 40 24 && decide (bits (fieldAt e 13 1) 0 2 = 0) && decide (fieldAt e 13 1 < 32)

/-- R115: RING_CREATE; a class whose right is withheld gives STATUS 0x03 and event 74 (R113). -/
def Io.ringCreate (s : Io) (ring i : Nat) : Io :=
  let rightBit := fun (e : List Byte) => decide (fieldAt e 10 1 < 6) && !bit (s.getReg Reg.HRG_RIGHTS).toNat (fieldAt e 10 1)
  let r := s.ring ring
  match r.entryAt i with
  | none => s
  | some e =>
    if fieldAt e 0 1 = 0x01 ∧ r.cls = 0 ∧ rightBit e ∧ s.isF Fld.HRG_RIGHTS_CONTROL then (s.fire 74).answer ring i e { status := 0x03 }
    else s.onEntry ring i 0x01 true createFieldsOk fun _ e s =>
      match s.createCase e with
      | 0 =>
        let n := fieldAt e 8 2
        let mode := fieldAt e 13 1
        (s.setRing n { state := 1, cls := fieldAt e 10 1, sqLog2 := fieldAt e 11 1, cqLog2 := fieldAt e 12 1, entry64 := bit mode 2,
                       sqDram := bit mode 3, cqDram := bit mode 4, ctx := fieldAt e 14 1, vector := fieldAt e 16 2,
                       sqBase := fieldAt e 24 8, cqBase := fieldAt e 32 8 }).answer ring i e {}
      | d => s.answer ring i e { status := 0x01, detail := d }

def execRingCreate (ring i : Nat) (s : State) : Result := .next (s.on (·.ringCreate ring i))

/-- Bytes from `off` to the end of an entry of a ring are 0. -/
def tailZero (e : List Byte) (off : Nat) : Bool := (e.drop off).all (· == 0)

/-- R119: RING_DESTROY stops fetching; the ring returns to IDLE, and the entry completes, once it owes nothing more. -/
def Io.ringDestroy (s : Io) (ring i : Nat) : Io :=
  s.onEntry ring i 0x02 false (fun e => tailZero e 10) fun _ e s =>
    let n := fieldAt e 8 2
    let t := s.ring n
    if n = 0 ∨ t.state = 0 then s.answer ring i e { status := 0x01, detail := 1 }
    else
      let s := s.popEntry ring i
      (s.setRing n { (s.ring n) with destroying := some (ring, i, e) }).finishDestroy n


/-- R116: RING_RESET discards the unfetched entries, sets SQ_HEAD to SQ_TAIL, clears ERROR and returns the ring to RUNNING. -/
def Io.ringReset (s : Io) (ring i : Nat) : Io :=
  s.onEntry ring i 0x03 false (fun e => tailZero e 10) fun _ e s =>
    let n := fieldAt e 8 2
    let t := s.ring n
    if n = 0 ∨ t.state = 0 then s.answer ring i e { status := 0x01, detail := 1 }
    else (s.setRing n { t with state := 1, error := 0, errIndex := 0, sqHead := t.sqTail, sinceMsg := none }).answer ring i e {}


/-- R115: VECTOR_MAP sets the vector that an event signals. -/
def Io.vectorMap (s : Io) (ring i : Nat) : Io :=
  s.onEntry ring i 0x04 false (fun e => tailZero e 12) fun _ e s =>
    let ev := fieldAt e 8 2
    let v := fieldAt e 10 2
    if 511 < ev ∨ 511 < v then s.answer ring i e { status := 0x01, detail := 2 }
    else (if ev % 2 = 0 then s.setF (Fld.HRG_EVT_VEC_VEC_EVEN (ev / 2)) v else s.setF (Fld.HRG_EVT_VEC_VEC_ODD (ev / 2)) v).answer ring i e {}

def execVectorMap (ring i : Nat) (s : State) : Result := .next (s.on (·.vectorMap ring i))

end Sys2Proof.Machine
end

