-- ==== Sys2Proof/Machine/Xlt.lean ====
section
/-! DEFINITION. Translation contexts and their page walks (R125 to R133), XLT_CONTEXT entries (R126 to R128), and DMA
copies (R139 to R142). -/

namespace Sys2Proof.Machine

/-- How a walk ends: a translation (bus base, log2 of the page size, R, W, NS) or a fault kind. -/
inductive WalkEnd where
  | leaf (bus log2 : Nat) (r w ns : Bool)
  | fault (kind : Nat)
deriving DecidableEq, Repr

/-- Bits [51:12] of a table entry as an address. -/
def pteAddr (e : Nat) : Nat := bits e 12 40 * 4096

/-- What the entry `e` that a walk reads at level `l` gives (R130, R131): the end of the walk, or the next table. V = 0 ends it with
NOT_VALID, and a broken "must" with RESERVED_BITS. -/
def tableStep (l e : Nat) : WalkEnd ⊕ Nat :=
  if !bit e 0 then .inl (.fault 1)
  else
    let leaf := bit e 3
    let contig := bit e 4
    let rsv := bits e 6 6 ≠ 0 ∨ bits e 52 12 ≠ 0
    if l = 0 then
      if rsv ∨ ¬ leaf then .inl (.fault 4)
      else if contig then .inl (.leaf (pteAddr e / 65536 * 65536) 16 (bit e 1) (bit e 2) (bit e 5))
      else .inl (.leaf (pteAddr e) 12 (bit e 1) (bit e 2) (bit e 5))
    else if l = 1 ∧ leaf then
      if rsv ∨ contig ∨ bits e 12 9 ≠ 0 then .inl (.fault 4)
      else .inl (.leaf (pteAddr e) 21 (bit e 1) (bit e 2) (bit e 5))
    else if rsv ∨ leaf ∨ contig ∨ bit e 5 then .inl (.fault 4)
    else .inr (pteAddr e)

/-- The fault that an access meets at a leaf (R132). -/
def WalkEnd.faultOf (w : WalkEnd) (write : Bool) : Option Nat :=
  match w with
  | .fault k => some k
  | .leaf _ _ r wr _ => if write && !wr then some 3 else if !write && !r then some 2 else none

/-- A translation enters region `n`'s cache (R133): 256 sets of 8 ways, the least recently used entry of the set replaced. -/
def Io.cacheFill (s : Io) (t : TcEntry) : Io :=
  let rest := s.tc.filter (fun u => !(u.region == t.region && u.ctx == t.ctx && u.base == t.base && u.log2 == t.log2))
  let inSet := fun (u : TcEntry) => u.region == t.region && Config.tcSet u.ctx (u.base / 2 ^ u.log2) == Config.tcSet t.ctx (t.base / 2 ^ t.log2)
  let victims := (rest.filter inSet).drop 7
  { s with tc := t :: rest.filter (fun u => !victims.contains u) }

/-- The cache entry that the leaf of a walk for `iova` gives region `n`. -/
def leafEntry (n ctx iova bus log2 : Nat) (r w ns : Bool) : TcEntry :=
  { region := n, ctx := ctx, base := iova / 2 ^ log2 * 2 ^ log2, log2 := log2, bus := bus, r := r, w := w, ns := ns }

/-- An access that waited goes on at bus address `b` (R133); `old`: an invalidation waits for it (R128). -/
def Io.proceed (s : Io) (ctx : Nat) (q : WalkReq) (b : Nat) (ns old : Bool) : Io :=
  let a : Access := { host := true, write := q.write, addr := b, bytes := q.bytes, len := q.len, msg := q.msg, who := q.who, ns := ns, ctx := some ctx }
  let s := Io.settle (s.request q.region q.cls a)
  if old then
    { s with ops := s.ops.map (fun t => { used := t.used.map (fun e => if e.who = q.who then { e with old := true } else e),
                                          held := t.held.map (fun h => if h.acc = a then { h with old := true } else h) }) }
  else s

/-- The requester code of the fault log (R145). -/
def Waiter.reqCode : Waiter → Nat
  | .cq _ _ _ | .fetch _ _ _ => 35
  | .record _ _ _ => 37
  | .cell _ l => l
  | .slot _ _ => 0
  | _ => 38

/-- The end of a request whose walk has ended: it proceeds, or it faults, which is counted and logged (R143) and answered
to the caller with its address. A completion or record that faults puts its ring in ERROR (R116). -/
def Io.endRequest (s : Io) (ctx : Nat) (w : WalkEnd) (old : Bool) (q : WalkReq) : Io × Option (Waiter × Nat × Nat) :=
  match w.faultOf q.write, w with
  | none, .leaf bus log2 _ _ ns => (s.proceed ctx q (bus + q.iova % 2 ^ log2) ns old, none)
  | k?, _ =>
    let k := k?.getD 0
    match q.who with
    | .cq n _ _ | .record n _ _ =>
      let s := Io.settle ((s.countFault).logFault q.region q.iova k q.cls ctx q.who.reqCode none q.write)
      (Io.settle (s.ringError n 4 (s.ring n).sqHead), none)
    | .fetch n first count => (if (s.ring n).fetches.contains (first, count) then s.fetchFailed n first count k q.iova else s, none)
    | _ => (s, some (q.who, k, q.iova))

/-- The walk reads on (R133): each entry read ends its table read; the next table read is issued, and while it is held the walk waits.
A read without data ends the walk with WALK_ERROR. `reads` are what the reads return, in order; none left counts as a failed read. -/
def Io.walkOn : Nat → Walk → List (Option Nat) → Io → Io × Walk × Option WalkEnd
  | 0, w, _, s => (s, w, some (.fault 7))
  | k + 1, w, reads, s =>
    let who := Waiter.walk w.ctx w.page
    if s.held who then (s, w, none)
    else
      let s := Io.settle (s.completeOwn who)
      match reads with
      | some e :: t =>
        match tableStep w.level e with
        | .inl r => (s, w, some r)
        | .inr table =>
          let v := { w with level := w.level - 1, table := table }
          let s := { s with walks := s.walks.map (fun x => if x == w then v else x) }
          Io.walkOn k v t (Io.settle (s.request 0 w.cls v.tableRead))
      | _ => (s, w, some (.fault 7))

/-- A walk of `ctx` for `page` ends (R133): its translation is cached in each region with an access that it permits (R132), unless an
invalidation forbids it (R128), and every merged request goes on or faults. Event 97 fires at kind WALK_ERROR (R146). A walk in a
context that has left WALK ends its requests with CONTEXT_OFF (R141). The faulted requests are answered, with kind and address. -/
def Io.walkDone (s : Io) (ctx page : Nat) (reads : List (Option Nat)) : Io × List (Waiter × Nat × Nat) :=
  match s.walks.find? (fun w => w.ctx == ctx && w.page == page && w.running) with
  | none => (s, [])
  | some w0 =>
    match Io.walkOn 5 w0 reads s with
    | (s, _, none) => (s, [])
    | (s, w, some r) =>
      let res := if s.ctxMode ctx ≠ 1 then WalkEnd.fault 6 else r
      let s := Io.settle (Io.startWalks 16 { s with walks := eraseFirst (· == w) s.walks })
      let s := match res with
        | .fault 7 => s.fireIn 97 0
        | .leaf bus log2 r wr ns =>
          if w.stale then s
          else [0, 1, 2, 3].foldl (fun s n =>
            if w.reqs.any (fun q => q.region == n && (res.faultOf q.write).isNone) then s.cacheFill (leafEntry n ctx (page * 4096) bus log2 r wr ns) else s) s
        | _ => s
      w.reqs.foldl (fun (acc : Io × List (Waiter × Nat × Nat)) q =>
        let (s', f) := acc.1.endRequest ctx res w.stale q
        (s', acc.2 ++ f.toList)) (s, [])

/-! ### Accesses that a command carries out as a whole -/

/-- The byte of host memory at a bus address, where the read finds one. -/
def hostByte (m : HostMem) (a : Nat) : Option Byte :=
  m.data.findSome? (fun d => if d.1 ≤ a ∧ a < d.1 + d.2.length then d.2[a - d.1]? else none)

/-- `n` bytes of host memory, where a read of all of them ends with data. -/
def hostBytes (m : HostMem) (a n : Nat) : Option (List Byte) :=
  (List.range n).foldr (fun i acc => match hostByte m (a + i), acc with | some b, some t => some (b :: t) | _, _ => none) (some [])

/-- A read of host memory meets poisoned data. -/
def hostPoisons (m : HostMem) (a n : Nat) : Bool := m.poison.any (fun p => decide (a ≤ p ∧ p < a + n))

/-- A read of host memory ends: with its bytes, or as a failed read; event 72 fires for poisoned data (R124, R132). -/
def Io.endRead (s : Io) (m : HostMem) (a n : Nat) : Io × Option (List Byte) :=
  if hostPoisons m a n then (s.fire 72, none) else (s, hostBytes m a n)

/-- A walk carried out as a whole from level `l` and a table down (R129 to R133): each table read takes an entry of RG0. -/
def Io.syncWalk (m : HostMem) (ctx cls iova : Nat) : Nat → Nat → Io → Io × WalkEnd
  | l, table, s =>
    let a := entryAddr table l iova
    let w := Waiter.table ctx (iova / 4096)
    let s := Io.settle (s.burst w 1 [(0, cls, { host := true, write := false, addr := a, bytes := [], len := 8, who := w })])
    match s.endRead m a 8 with
    | (s, none) => (s, .fault 7)
    | (s, some bs) =>
      match tableStep l (leNat bs) with
      | .inl r => (s, r)
      | .inr next =>
        match l with
        | 0 => (s, .fault 4)
        | l' + 1 => Io.syncWalk m ctx cls iova l' next s

/-- An access of region `n` is translated, with a walk where its cache misses (R125 to R133): its bus address and No Snoop attribute, or
its fault kind. While the link is down or the function is in D3hot the access fails (R109, log 90). -/
def Io.resolve (s : Io) (m : HostMem) (n cls ctx iova : Nat) (write : Bool) : Io × (Nat × Bool ⊕ Nat) :=
  match s.translate n ctx iova write with
  | (s, .fault k) => (s, .inr k)
  | (s, .bus b ns) => (s, if s.hostOpen then .inl (b, ns) else .inr 8)
  | (s, .miss) =>
    if !s.hostOpen then (s, .inr 8)
    else
      match Io.syncWalk m ctx cls iova (s.topLevel ctx) (s.rootOf ctx) (s.bumpF Fld.XLT_WALK_COUNT) with
      | (s, .fault k) => (if k = 7 then s.fireIn 97 0 else s, .inr k)
      | (s, .leaf bus log2 r wr ns) =>
        match (WalkEnd.leaf bus log2 r wr ns).faultOf write with
        | some k => (s, .inr k)
        | none => (s.cacheFill (leafEntry n ctx iova bus log2 r wr ns), .inl (bus + iova % 2 ^ log2, ns))

/-- An operation of a unit is issued, when fewer than `k` of its operations are in flight or the others have completed (R135). -/
def Io.issue (s : Io) (w : Waiter) (k n cls : Nat) (a : Access) : Io :=
  let s := if max 1 k ≤ s.usedBy w then Io.settle (s.completeOwn w) else s
  Io.settle (s.request n cls a)

/-- R160: a read of channel `ch` meets an error that cannot be corrected: it is counted, and event 133 fires. -/
def Io.uncorrectable (s : Io) (ch : Nat) : Io := (s.bumpF (Fld.DMC_CH_ECC_UNCORR (ch / 4) (ch % 4))).fireIn 133 (ch / 4)

/-- One read of at most 256 bytes by a unit of region `n` (R135): of device DRAM, or of host memory through a context. Its bytes, or a
fault kind. -/
def Io.readOp (s : Io) (m : HostMem) (w : Waiter) (n cls : Nat) (dram : Bool) (ctx a len : Nat) : Io × (List Byte ⊕ Nat) :=
  if dram then
    if s.beyond a len then (s, .inr 5)
    else
      let bs := s.readDram a len
      let s := s.issue w m.inFlight (s.dramRegion a) cls { host := false, write := false, addr := a, bytes := [], len := len, who := w }
      match s.dramLoc a with
      | some l => if s.isF Fld.DMC_CFG_LINK_ECC && m.badDram.any (fun p => decide (a ≤ p ∧ p < a + len)) then (s.uncorrectable l.channel, .inr 8) else (s, .inl bs)
      | none => (s, .inl bs)
  else
    match s.resolve m n cls ctx a false with
    | (s, .inr k) => (s, .inr k)
    | (s, .inl (b, ns)) =>
      let s := s.issue w m.inFlight n cls { host := true, write := false, addr := b, bytes := [], len := len, who := w, ns := ns, ctx := some ctx }
      match s.endRead m b len with
      | (s, some bs) => (s, .inl bs)
      | (s, none) => (s, .inr 8)

/-- The reads of `len` bytes at `a`, in ascending order, up to the first that faults: the bytes, and that fault's kind and address. -/
def Io.readOps (m : HostMem) (w : Waiter) (n cls : Nat) (dram : Bool) (ctx : Nat) : List (Nat × Nat) → Io → Io × List Byte × Option (Nat × Nat)
  | [], s => (s, [], none)
  | (a, len) :: t, s =>
    match s.readOp m w n cls dram ctx a len with
    | (s, .inr k) => (s, [], some (k, a))
    | (s, .inl bs) =>
      let (s, r, f) := Io.readOps m w n cls dram ctx t s
      (s, bs ++ r, f)

/-- The writes of a unit's bytes at `a`, in ascending order, up to the first that faults: that fault's kind and address. -/
def Io.writeOps (m : HostMem) (w : Waiter) (n cls : Nat) (dram : Bool) (ctx : Nat) : List (Nat × List Byte) → Io → Io × Option (Nat × Nat)
  | [], s => (s, none)
  | (a, bs) :: t, s =>
    if dram then
      if s.beyond a bs.length then (s, some (5, a))
      else Io.writeOps m w n cls dram ctx t
        (s.issue w m.inFlight (s.dramRegion a) cls { host := false, write := true, addr := a, bytes := bs, len := bs.length, who := w })
    else
      match s.resolve m n cls ctx a true with
      | (s, .inr k) => (s, some (k, a))
      | (s, .inl (b, ns)) => Io.writeOps m w n cls dram ctx t
        (s.issue w m.inFlight n cls { host := true, write := true, addr := b, bytes := bs, len := bs.length, who := w, ns := ns, ctx := some ctx })

/-- A write of a unit whose translation may have to wait (R133): its operations are issued or join walks, up to the first that faults at
once: that fault's kind and address. -/
def Io.issueWrite (w : Waiter) (n cls : Nat) (dram : Bool) (ctx : Nat) : List (Nat × List Byte) → Io → Io × Option (Nat × Nat)
  | [], s => (s, none)
  | (a, bs) :: t, s =>
    if dram then
      if s.beyond a bs.length then (s, some (5, a))
      else Io.issueWrite w n cls dram ctx t (Io.settle (s.request (s.dramRegion a) cls
        { host := false, write := true, addr := a, bytes := bs, len := bs.length, who := w }))
    else
      match s.translate n ctx a true with
      | (s, .fault k) => (s, some (k, a))
      | (s, .bus b ns) => Io.issueWrite w n cls dram ctx t (Io.settle (s.request n cls
          { host := true, write := true, addr := b, bytes := bs, len := bs.length, who := w, ns := ns, ctx := some ctx }))
      | (s, .miss) => Io.issueWrite w n cls dram ctx t (Io.settle (s.addWalk ctx
          { who := w, region := n, cls := cls, iova := a, write := true, len := bs.length, bytes := bs }))

/-- The operations of a unit's write: address and bytes of each (R135). -/
def writesOf (a : Nat) (bs : List Byte) : List (Nat × List Byte) := granules (bs.length / 256 + 2) a bs

/-! ### XLT_CONTEXT -/

/-- The case of R127's table that holds first; 0 when none does. -/
def Io.xltCase (s : Io) (e : List Byte) : Nat :=
  let op := fieldAt e 8 1
  let ctx := fieldAt e 9 1
  let mode := fieldAt e 10 1
  let width := fieldAt e 11 1
  let root := fieldAt e 16 8
  let base := fieldAt e 24 8
  let pages := fieldAt e 32 8
  let walk := op = 0 ∧ mode = 1
  let off := s.getF (Fld.XLT_CTX_MODE_MODE ctx) = 0
  if 3 < op then 1
  else if (op = 0 ∧ ¬ (mode = 1 ∨ mode = 2)) ∨ (walk ∧ 1 < width) then 2
  else if (walk ∧ root % 4096 ≠ 0) ∨ (op = 3 ∧ base % 4096 ≠ 0) then 3
  else if op = 3 ∧ (pages = 0 ∨ 2 ^ 36 < pages ∨ 2 ^ s.ctxWidth ctx < base + pages * 4096) then 4
  else if op = 0 ∧ ¬ off then 5
  else if op ≠ 0 ∧ off then 6
  else if (op ≠ 0 ∧ mode ≠ 0) ∨ (¬ walk ∧ (width ≠ 0 ∨ root ≠ 0)) ∨ (op ≠ 3 ∧ (base ≠ 0 ∨ pages ≠ 0)) then 7
  else 0

/-- The reserved bytes of XLT_CONTEXT (R126). -/
def xltFieldsOk (e : List Byte) : Bool := allZero e 12 4 && allZero e 40 24

/-- R126: an XLT_CONTEXT entry whose OP satisfies `mine`, with the operation's own effect once R127's checks pass. -/
def Io.xltContext (s : Io) (ring i : Nat) (mine : Nat → Bool) (run : List Byte → Io → Io) : Io :=
  match (s.ring ring).entryAt i with
  | none => s
  | some e =>
    if !mine (fieldAt e 8 1) then s
    else s.onEntry ring i 0x05 true xltFieldsOk fun _ e s =>
      match s.xltCase e with
      | 0 => run e s
      | d => s.answer ring i e { status := 0x01, detail := d }

/-- R126: SET moves an OFF context to its mode; a reserved OP is rejected here (R127, DETAIL 1). -/
def Io.xltSet (s : Io) (ring i : Nat) : Io :=
  s.xltContext ring i (fun op => op == 0 || decide (3 < op)) fun e s =>
    let c := fieldAt e 9 1
    let s := (s.setF (Fld.XLT_CTX_MODE_MODE c) (fieldAt e 10 1)).setF (Fld.XLT_CTX_MODE_WIDTH c) (fieldAt e 11 1)
    (s.setWide (Fld.XLT_CTX_ROOT_LO c) (Fld.XLT_CTX_ROOT_HI c) (fieldAt e 16 8)).answer ring i e {}

/-- Cache entries removed, walks of the context barred from the cache, and the entry left waiting for R128's drain of them and of the
operations that the context translates now. -/
def Io.invalidate (s : Io) (ring i : Nat) (e : List Byte) (c : Nat) (hit : TcEntry → Bool) : Io :=
  let s := { s with tc := s.tc.filter (fun (t : TcEntry) => !(t.ctx == c && hit t)),
                    walks := s.walks.map (fun (w : Walk) => if w.ctx == c then { w with stale := true } else w),
                    ops := s.ops.map (fun (t : OpTable) =>
                      { used := t.used.map (fun (u : OpEntry) => if u.ctx = some c then { u with old := true } else u),
                        held := t.held.map (fun (h : Held) => if h.acc.ctx = some c then { h with old := true } else h) }) }
  let s := s.popEntry ring i
  s.setRing ring { (s.ring ring) with active := (s.ring ring).active ++ [(i, e)] }

/-- R126: DISABLE moves the context to OFF and removes its cache entries. -/
def Io.xltDisable (s : Io) (ring i : Nat) : Io :=
  s.xltContext ring i (· == 1) fun e s =>
    let c := fieldAt e 9 1
    ((s.setF (Fld.XLT_CTX_MODE_MODE c) 0).setF (Fld.XLT_CTX_MODE_WIDTH c) 0 |>.setWide (Fld.XLT_CTX_ROOT_LO c) (Fld.XLT_CTX_ROOT_HI c) 0).invalidate
      ring i e c (fun _ => true)

/-- R126: INVALIDATE_ALL removes every cache entry of the context. -/
def Io.xltInvalidateAll (s : Io) (ring i : Nat) : Io :=
  s.xltContext ring i (· == 2) fun e s => s.invalidate ring i e (fieldAt e 9 1) (fun _ => true)

/-- R126: INVALIDATE_RANGE removes every cache entry that overlaps the range. -/
def Io.xltInvalidateRange (s : Io) (ring i : Nat) : Io :=
  s.xltContext ring i (· == 3) fun e s =>
    let base := fieldAt e 24 8
    let top := base + fieldAt e 32 8 * 4096
    s.invalidate ring i e (fieldAt e 9 1) (fun t => decide (t.base < top ∧ base < t.base + 2 ^ t.log2))

def execXltSet (ring i : Nat) (s : State) : Result := .next (s.on (·.xltSet ring i))
def execXltDisable (ring i : Nat) (s : State) : Result := .next (s.on (·.xltDisable ring i))
def execXltInvalidateAll (ring i : Nat) (s : State) : Result := .next (s.on (·.xltInvalidateAll ring i))
def execXltInvalidateRange (ring i : Nat) (s : State) : Result := .next (s.on (·.xltInvalidateRange ring i))

/-- An executed entry completes: it leaves the ring's active list, its completion is written, and a waiting RING_DESTROY is
looked at. -/
def Io.finish (s : Io) (n i : Nat) (e : List Byte) (d : Done) : Io :=
  let r := s.ring n
  ((s.setRing n { r with active := eraseFirst (fun a => a.1 == i) r.active }).complete n i e d).finishDestroy n

/-- The active entry of a ring at an index, when its opcode is `op`. -/
def Io.activeEntry (s : Io) (n i op : Nat) : Option (List Byte) :=
  match (s.ring n).active.find? (fun a => a.1 == i) with
  | some (_, e) => if fieldAt e 0 1 = op then some e else none
  | none => none

/-- What an invalidation of a context waits for (R128): its walks that ran then, and the operations that used what it removed. -/
def Io.drained (s : Io) (c : Nat) : Bool :=
  !s.walks.any (fun w => w.ctx == c && w.stale)
    && !s.ops.any (fun t => t.used.any (fun u => u.ctx == some c && u.old) || t.held.any (fun h => h.acc.ctx == some c && h.old))

/-- R128: the walks and operations that used removed translations have ended; the entry completes and is counted. -/
def Io.invalidationDrained (s : Io) (ring i : Nat) : Io :=
  match s.activeEntry ring i 0x05 with
  | some e => if s.drained (fieldAt e 9 1) then (s.bumpF Fld.XLT_INVAL_COUNT).finish ring i e {} else s
  | none => s

def execInvalidationDrained (ring i : Nat) (s : State) : Result := .next (s.on (·.invalidationDrained ring i))

/-! ### DMA copies -/

/-- The reserved fields of DMA_COPY (R140). -/
def dmaFieldsOk (e : List Byte) : Bool :=
  allZero e 13 3 && decide (fieldAt e 32 1 < 4) && allZero e 35 29
    && (!bit (fieldAt e 32 1) 0 || allZero e 33 1) && (!bit (fieldAt e 32 1) 1 || allZero e 34 1)

/-- Another DMA entry of the ring comes before the one at index `i` (R140): it runs, waits, or is still being fetched. -/
def Ring.copyBefore (r : Ring) (i : Nat) : Bool :=
  r.active.any (fun a => decide (fieldAt a.2 0 1 = 0x40))
    || r.fetched.any (fun f => decide (fieldAt f.2 0 1 = 0x40) && decide (idxDiff i f.1 < 2 ^ 31) && f.1 != i)
    || r.fetches.any (fun f => decide (idxDiff i f.1 < 2 ^ 31))

/-- R140: a DMA copy starts: at most 16 run chip-wide, and the entries of one ring one after another. A device DRAM range
beyond installed DRAM is rejected before any granule issues. -/
def Io.dmaCopy (s : Io) (ring i : Nat) : Io :=
  if (s.ring ring).copyBefore i then s
  else s.onEntry ring i 0x40 true dmaFieldsOk fun _ e s =>
    let len := fieldAt e 8 5
    let sp := fieldAt e 32 1
    if (bit sp 0 && s.beyond (fieldAt e 16 8) len) || (bit sp 1 && s.beyond (fieldAt e 24 8) len) then
      s.answer ring i e { status := 0x01, detail := 1 }
    else if 16 ≤ s.getF Fld.XLT_DMA_ACTIVE_COPIES then s
    else
      let s := s.popEntry ring i
      (s.setRing ring { (s.ring ring) with active := (s.ring ring).active ++ [(i, e)] }).bumpF Fld.XLT_DMA_ACTIVE_COPIES

def execDmaCopy (ring i : Nat) (s : State) : Result := .next (s.on (·.dmaCopy ring i))

/-- Granules of a copy in ascending destination order, each read and then written (R139, R140), up to the first that faults: its kind,
its offset, and whether the fault is on the destination. `late`: the offset whose read has timed out (R103). `k` bounds their number. -/
def Io.copyGranules (m : HostMem) (w : Waiter) (e : List Byte) (late : Option Nat) : Nat → Nat → Nat → Io → Io × Option (Nat × Nat × Bool)
  | 0, _, _, s => (s, none)
  | k + 1, off, len, s =>
    if len = 0 then (s, none)
    else
      let src := fieldAt e 16 8
      let dst := fieldAt e 24 8
      let sp := fieldAt e 32 1
      let n := min len (256 - (dst + off) % 256)
      if (match late with | some d => decide (d < off + n) | none => false) then (s, some (8, off, false))
      else match Io.readOps m w 0 3 (bit sp 0) (fieldAt e 33 1) (opsOf (src + off) n) s with
        | (s, _, some (kind, _)) => (s, some (kind, off, false))
        | (s, bs, none) =>
          match Io.writeOps m w 0 3 (bit sp 1) (fieldAt e 34 1) [(dst + off, bs)] s with
          | (s, some (kind, _)) => (s, some (kind, off, true))
          | (s, none) => Io.copyGranules m w e late k (off + n) (len - n) s

/-- An executed entry whose operations have ended completes (R118); a copy leaves the running ones, and a copy or staging read that
faulted fires event 100 (R146). -/
def Io.pay (s : Io) (o : Owed) : Io :=
  let s := { s with owed := eraseFirst (· == o) s.owed }
  let s := if fieldAt o.entry 0 1 = 0x40 then s.dropF Fld.XLT_DMA_ACTIVE_COPIES else s
  let s := if (fieldAt o.entry 0 1 = 0x40 ∨ fieldAt o.entry 0 1 = 0x42) ∧ o.done.status = 6 then s.fireIn 100 0 else s
  s.finish o.ring o.index o.entry o.done

/-- The executed entries whose last operations have ended complete. -/
def Io.payAll (s : Io) : Io :=
  s.owed.foldl (fun s o => if s.busy (.entry o.ring o.index) then s else s.pay o) s

/-- An executed entry completes once its operations have ended. -/
def Io.owe (s : Io) (o : Owed) : Io := { s with owed := s.owed ++ [o] }.payAll

/-- R142: a copy ends with its last write, or with a fault of a kind at offset DONE on its source or destination: STATUS
0x06, a resume record in INFO, the fault logged in RG0, and events 96 and 100. At most 16 granules are in flight (R140). -/
def Io.dmaCopyDone (s : Io) (ring i : Nat) (m : HostMem) (late : Option Nat) : Io :=
  match s.activeEntry ring i 0x40 with
  | none => s
  | some e =>
    if s.owed.any (fun o => o.ring == ring && o.index == i) then s
    else
      let len := fieldAt e 8 5
      let w := Waiter.entry ring i
      let (s, f) := Io.copyGranules { m with inFlight := min 16 m.inFlight } w e late (len + 1) 0 len s
      let s := Io.settle (s.completeOwn w)
      match f with
      | none => s.owe { ring := ring, index := i, entry := e, done := { info := len } }
      | some (k, d, onDst) =>
        let s := Io.settle ((s.countFault).logFault 0 ((if onDst then fieldAt e 24 8 else fieldAt e 16 8) + d) k 3
          (if onDst then fieldAt e 34 1 else fieldAt e 33 1) 36 none onDst)
        s.owe { ring := ring, index := i, entry := e, done := { status := 0x06, detail := k + 16 * flag onDst, info := d } }

def execDmaCopyDone (ring i : Nat) (mem : HostData) (inFlight : Nat) (s : State) : Result :=
  .next (s.on (·.dmaCopyDone ring i { mem with inFlight := inFlight } none))

end Sys2Proof.Machine
end

