-- ==== Sys2Proof/Machine/Dmc.lean ====
section
/-! DEFINITION. The DRAM channels (R147 to R167): write queues, hazards, arbitration and panic, refresh, link ECC and the
pattern helper. A channel is numbered as R3 numbers it; its registers lie in block `ch % 4` of region `ch / 4`. -/

namespace Sys2Proof.Machine

/-- Channel `ch`. -/
def State.chan (s : State) (ch : Nat) : Chan := s.chans.getD ch {}

/-- The write-queue entries in use. -/
def Chan.level (c : Chan) : Nat := (c.queue.filter (·.write)).length

/-- Channel `ch` replaced; DMC_CH_STAT reports panic and the write queue's level (R166). -/
def State.setChan (s : State) (ch : Nat) (c : Chan) : State :=
  { s with chans := setNth s.chans ch c,
           io := (s.io.setF (Fld.DMC_CH_STAT_PANIC (ch / 4) (ch % 4)) (flag (!c.panic.isEmpty))).setF
                   (Fld.DMC_CH_STAT_WQ_LEVEL (ch / 4) (ch % 4)) c.level }

/-- The DRAM address of the buffer that the DRAM plan places under a kind and index (R563); the start of region `n`'s DRAM where it
places none. -/
def State.planBuffer (s : State) (kind index n : Nat) : Nat :=
  let d := s.sectOr 0x0005
  match (List.range (fieldAt d 2 2)).find? (fun e => fieldAt d (16 + 16 * e) 2 == kind && fieldAt d (18 + 16 * e) 2 == index) with
  | some e => fieldAt d (24 + 16 * e) 8
  | none => n * (s.io.chansPerRegion * capBytes (s.getF Fld.DMC_DENSITY_CAP))

/-- The operations of class `cls` of a cell of region `n` on `bytes` bytes from address `base`: one for each 256-byte granule, one after
another (R134, R135, log 64). -/
def State.unitOps (s : State) (n lane cls base : Nat) (write : Bool) (bytes : Nat) : State :=
  let w := Waiter.cell n lane
  s.on (fun io => Io.settle (io.burst w 1 ((List.range (ceilDiv (base % 256 + bytes) 256)).map (fun i =>
    let a := base / 256 * 256 + 256 * i
    (io.dramRegion a, cls, ({ host := false, write := write, addr := a, bytes := [], len := 256, who := w } : Access))))))

/-- A real-time cell's operations on a buffer of the DRAM plan whose layout the spec leaves to Ulitoand: from the buffer's start (log 64). -/
def State.cellOps (s : State) (n lane kind index : Nat) (write : Bool) (bytes : Nat) : State :=
  if bytes = 0 then s else s.unitOps n lane 0 (s.planBuffer kind index n) write bytes

/-- The bytes of one block of 128 pixels in a picture buffer: three 12-bit codes a pixel (log 64). -/
def blockBytes : Nat := 576

/-- Whether a channel is enabled and runs (R166). -/
def State.chanRunning (s : State) (ch : Nat) : Bool := s.getF (Fld.DMC_CH_STAT_STATE (ch / 4) (ch % 4)) = 1

/-- Two accesses overlap at 64-byte granularity (R151). -/
def DReq.overlaps (a b : DReq) : Bool :=
  decide (a.addr / 64 ≤ (b.addr + b.len - 1) / 64 ∧ b.addr / 64 ≤ (a.addr + a.len - 1) / 64)

/-- `q` must be issued before `r`: read after write, write after write, write after read (R151). -/
def DReq.before (q r : DReq) : Bool := decide (q.id < r.id) && q.overlaps r && (q.write || r.write)

/-- A request that waits for no other (R151). -/
def Chan.ready (c : Chan) (r : DReq) : Bool := !c.queue.any (·.before r)

/-- The class at which a request is granted: a write that a read waits for takes the read's class (R151). -/
def Chan.effClass (c : Chan) (r : DReq) : Nat :=
  match c.queue.filter (fun q => !q.write && r.write && r.before q) with
  | [] => r.cls
  | q :: t => t.foldl (fun m q => min m q.cls) q.cls

/-- A port of a kind is in panic (R152): the decoder's, while one of its buffers is on the panic side. -/
def Chan.inPanic (c : Chan) (kind : Nat) : Bool := c.panic.contains kind || (kind == 2 && c.panic.contains 7)

/-- A request of a port in panic, or a write that a read of a port in panic waits for (R151, R152). -/
def Chan.isPanic (c : Chan) (r : DReq) : Bool :=
  c.inPanic r.kind || c.queue.any (fun q => !q.write && r.write && r.before q && c.inPanic q.kind)

/-- Writes of a class that the write queue holds at once (R150). -/
def wqSize (cls : Nat) : Nat := match cls with | 0 => 32 | 1 => 8 | 2 => 8 | _ => 16

/-- The channel has no free write-queue entry of a class (R150). -/
def Chan.full (c : Chan) (cls : Nat) : Bool := decide (wqSize cls ≤ (c.queue.filter (fun q => q.write && q.cls == cls)).length)

/-- A write that takes an entry of its class. -/
def Chan.enter (c : Chan) (r : DReq) : Chan := { c with queue := c.queue ++ [{ r with id := c.nextId }], nextId := c.nextId + 1 }

/-- A request as it reaches the channel. -/
def newReq (write : Bool) (cls kind addr len : Nat) : DReq :=
  { id := 0, write := write, cls := cls, kind := kind, addr := addr, len := len, aged := false, passed := 0 }

/-- A write taken into an entry of its class, or held while the class's entries are full (R150). -/
def Chan.accept (c : Chan) (cls kind addr len : Nat) : Chan :=
  let r := newReq true cls kind addr len
  if c.full cls then { c with heldWrites := c.heldWrites ++ [r] } else c.enter r

/-- Held writes enter as their class's entries free, oldest first (R150); those that have entered. -/
def Chan.admitHeld (c : Chan) : Chan × List DReq :=
  c.heldWrites.foldl (fun (acc : Chan × List DReq) r =>
    if acc.1.full r.cls then acc
    else ({ acc.1 with heldWrites := eraseFirst (· == r) acc.1.heldWrites }.enter r, acc.2 ++ [r])) (c, [])

/-- A read that arrived when the channel had accepted `at_` requests takes its place among those that wait (R151). -/
def Chan.enterRead (c : Chan) (at_ : Nat) (r : DReq) : Chan :=
  let k := min at_ c.nextId
  let later := fun (q : DReq) => if k ≤ q.id then { q with id := q.id + 1 } else q
  { c with queue := (c.queue.filter (fun q => decide (q.id < k))) ++ { r with id := k } :: (c.queue.filter (fun q => decide (k ≤ q.id))).map later,
           nextId := c.nextId + 1 }

/-- The reads that arrive before a grant, each accepted; the number that a hazard holds (R151). -/
def Chan.arrive (c : Chan) (rs : List (Nat × Nat × Nat × Nat × Nat)) : Chan × Nat :=
  rs.foldl (fun (acc : Chan × Nat) (cls, kind, addr, len, at_) =>
    let c := acc.1.enterRead at_ (newReq false cls kind addr len)
    let id := min at_ acc.1.nextId
    (c, acc.2 + flag (c.queue.any (fun r => r.id == id && c.queue.any (·.before r))))) (c, 0)

/-- A request hits an open row (R149, R153). -/
def State.rowHit (s : State) (c : Chan) (r : DReq) : Bool :=
  match s.io.dramLoc r.addr with
  | some l => c.open_.contains (4 * l.bankGroup + l.bank, l.row)
  | none => false

/-- Within one class: a request passed over 16 times first, then the oldest that hits an open row, then the oldest (R153). -/
def State.pickIn (s : State) (c : Chan) (l : List DReq) : Option DReq :=
  match l.find? (fun r => decide (16 ≤ r.passed)) with
  | some r => some r
  | none => match l.find? (s.rowHit c) with
    | some r => some r
    | none => l.head?

/-- The panic allowance in ns (R155, R165). -/
def State.panicMax (s : State) : Nat :=
  let w := max 1 (s.getF Fld.DMC_ARB_PANIC_WINDOW)
  100 * min (s.getF Fld.DMC_ARB_PANIC_MAX) (w / 2)

/-- The panic allowance of the window remains (R155). -/
def State.allowance (s : State) (c : Chan) : Bool := !c.capped && decide (c.panicUsed < s.panicMax)

/-- What the arbiter grants (R153 to R155, log 92): a request, and whether it was as an aged one or as one in panic. A request of a port
in panic comes first while the allowance remains; then an aged one, when the previous grant did not go to an aged one; then the others
in class order, of which an aged one only where nothing else waits. -/
def State.arbitrate (s : State) (c : Chan) : Option (DReq × Bool × Bool) :=
  let l := c.queue.filter c.ready
  let byClass := fun (l : List DReq) => [0, 1, 2, 3].findSome? fun k => s.pickIn c (l.filter (fun r => c.effClass r == k))
  match (if s.allowance c then s.pickIn c (l.filter c.isPanic) else none) with
  | some r => some (r, r.aged, true)
  | none =>
    match (if c.lastAged then none else l.find? (·.aged)) with
    | some r => some (r, true, false)
    | none =>
      match byClass (l.filter (!·.aged)) with
      | some r => some (r, false, false)
      | none => (byClass l).map (fun r => (r, true, false))

/-- Refreshes issued on a channel: all banks are precharged; a forced burst is counted and fires event 128 (R157). At every 64th refresh while OPERATIONAL
the drift of WCK to DQ is tracked and the delays are adjusted; the adjustment is a free value (R164). -/
def State.refresh (s : State) (ch n : Nat) (forced : Bool) : State :=
  let s := { s with io := ((s.io.bumpF (Fld.DMC_CH_REFRESHES (ch / 4) (ch % 4)) n).emit (.refresh ch n)).pulse 7 }
  let s := if forced then s.on (fun io => (io.bumpF (Fld.DMC_CH_FORCED (ch / 4) (ch % 4)) n).fireIn 128 (ch / 4)) else s
  let c := s.chan ch
  let m := c.untracked + n
  if s.io.operational && decide (64 ≤ m) then
    (s.setChan ch { c with open_ := [], untracked := m % 64, delay := s.io.free }).on Io.spend
  else s.setChan ch { c with open_ := [], untracked := m }

/-- The owed count set to `n`; the excess above 8 issues at once as a forced burst (R157). -/
def State.setOwed (s : State) (ch n : Nat) : State :=
  let s := if 8 < n then s.refresh ch (n - 8) true else s
  s.on (·.setF (Fld.DMC_CH_STAT_OWED (ch / 4) (ch % 4)) (min 8 n))

/-- tREFI in 1/64 ns (R157). -/
def trefi (doubled : Bool) : Nat := if doubled then 1950 * 64 else 3900 * 64

/-- The channel runs at the doubled rate. -/
def State.doubled (s : State) (ch : Nat) : Bool := s.isF (Fld.DMC_CH_STAT_DOUBLED (ch / 4) (ch % 4))

/-- R157: an interval ends at its time; the owed count rises, and the next interval starts there. -/
def State.intervalEnd (s : State) (ch : Nat) : State :=
  if !s.chanRunning ch then s
  else
    let c := s.chan ch
    let s := s.on (·.at c.intervalEnd)
    let s := s.setChan ch { c with intervalEnd := c.intervalEnd + trefi (s.doubled ch) }
    s.setOwed ch (s.getF (Fld.DMC_CH_STAT_OWED (ch / 4) (ch % 4)) + 1)

def execRefreshIntervalEnd (ch : Nat) (s : State) : Result := .next (s.intervalEnd ch)

/-- R157 to R159: the rate of a channel changes at once: the owed count is recounted rounding up, the interval in progress
ends at its scheduled end or one new tREFI from now, and event 129 fires. -/
def State.setRate (s : State) (ch : Nat) (dbl : Bool) : State :=
  if s.doubled ch = dbl then s
  else
    let n := s.getF (Fld.DMC_CH_STAT_OWED (ch / 4) (ch % 4))
    let s := s.on (·.setF (Fld.DMC_CH_STAT_DOUBLED (ch / 4) (ch % 4)) (flag dbl))
    let c := s.chan ch
    let s := s.setChan ch { c with intervalEnd := min c.intervalEnd (s.io.now + trefi dbl) }
    (s.setOwed ch (if dbl then 2 * n else (n + 1) / 2)).on (·.fireIn 129 (ch / 4))

/-- The rate that R159 gives a channel: doubled at a multiplier of 2 or more or a hot board node, normal at 1 or less
with a cool one, otherwise unchanged. -/
def State.decideRate (s : State) (ch : Nat) : State :=
  if !s.chanRunning ch then s
  else
    let m := (s.chan ch).mr4
    if s.isF Fld.DMC_TEMP_MODEL_HOT || decide (8 ≤ m) then s.setRate ch true
    else if m ≤ 4 ∧ s.therm.boardCool then s.setRate ch false else s

/-- The thermal model's board node in degrees, at an update of the model (R159). -/
def State.boardNode (s : State) (above85 atMost82 : Bool) : State :=
  let s := if above85 then s.on (·.setF Fld.DMC_TEMP_MODEL_HOT 1) else if atMost82 then s.on (·.setF Fld.DMC_TEMP_MODEL_HOT 0) else s
  let s := { s with therm := { s.therm with boardCool := atMost82 } }
  (List.range 16).foldl State.decideRate s

/-- R159: MR4 read at instant `t`; the multiplier is given in quarters. Event 137 fires above 2. -/
def State.mr4Poll (s : State) (ch quarters t : Nat) : State :=
  if !s.chanRunning ch then s
  else
    let s := s.on (·.at t)
    let s := (s.setChan ch { s.chan ch with mr4 := quarters }).decideRate ch
    if 8 < quarters then s.on (·.fireIn 137 (ch / 4)) else s

/-- A DRAM write has been accepted: its operation completes and its operation-table entry frees (R135, R150). -/
def State.freeWrite (s : State) (ch cls addr : Nat) : State :=
  s.on (fun io => Io.settle (io.release (ch / 4) (fun e => e.cls == cls && !e.host && e.write && e.addr / 256 == addr / 256)))

/-- The grant at the end of a granule (R153): first a refresh that is owed while no panic request waits, otherwise the
arbiter's request, which takes `ns`. Reads that arrived meanwhile enter first, and held writes take the entries that free. -/
def State.dramGrant (s : State) (ch : Nat) (arrivals : List (Nat × Nat × Nat × Nat × Nat)) (ns : Nat) : State :=
  if !s.chanRunning ch then s
  else
    let (c, held) := (s.chan ch).arrive arrivals
    let s := (s.setChan ch c).on (·.bumpF (Fld.DMC_CH_HAZARDS (ch / 4) (ch % 4)) held)
    let owed := s.getF (Fld.DMC_CH_STAT_OWED (ch / 4) (ch % 4))
    if 0 < owed ∧ ¬ c.queue.any c.isPanic then
      ((s.setChan ch { c with lastAged := false }).refresh ch 1 false).on (·.setF (Fld.DMC_CH_STAT_OWED (ch / 4) (ch % 4)) (owed - 1))
    else match s.arbitrate c with
      | none => s
      | some (r, wasAged, inPanic) =>
        let k := c.effClass r
        let queue := (eraseFirst (· == r) c.queue).map (fun q =>
          if q.id < r.id && c.effClass q == k && c.ready q then { q with passed := q.passed + 1 } else q)
        let open_ := match s.io.dramLoc r.addr with
          | some l => (4 * l.bankGroup + l.bank, l.row) :: c.open_.filter (fun o => o.1 != 4 * l.bankGroup + l.bank)
          | none => c.open_
        let used := if inPanic then c.panicUsed + ns else c.panicUsed
        let spent := inPanic && decide (s.panicMax ≤ used)
        let c' : Chan := { c with queue := queue, issued := if r.write then c.issued else c.issued ++ [r], open_ := open_,
                                  lastAged := wasAged, panicUsed := used, capped := c.capped || spent }
        let (c', entered) := c'.admitHeld
        let s := entered.foldl (fun s q => s.freeWrite ch q.cls q.addr) (s.setChan ch c')
        if spent then s.on (fun io => (io.bumpF (Fld.DMC_CH_PANIC_CAPPED (ch / 4) (ch % 4))).fireIn 131 (ch / 4)) else s

/-- R150: a write reaches its channel: it completes when it takes a write-queue entry; held, it keeps its operation-table entry. -/
def State.writeAccept (s : State) (ch cls kind addr len : Nat) : State :=
  if !s.chanRunning ch then s
  else
    let c := s.chan ch
    let s := s.setChan ch (c.accept cls kind addr len)
    if c.full cls then s else s.freeWrite ch cls addr

/-- A write to DRAM that its channel holds has not completed (R150). -/
def State.writeHeld (s : State) (e : OpEntry) : Bool :=
  e.write && !e.host && s.chans.any (fun c => c.heldWrites.any (fun r => r.cls == e.cls && r.addr / 256 == e.addr / 256))

/-- R160: the oldest issued read of a class and address returns: clean (0), corrected (1) or uncorrectable (2), with which a read of a
queue, a descriptor or a fence word ends as a read error. The cell fault of an RT requester is a command of its own (R523). -/
def State.readComplete (s : State) (ch cls addr ecc : Nat) : State :=
  let c := s.chan ch
  let mine := fun (r : DReq) => r.cls == cls && r.addr == addr
  if !c.issued.any mine then s
  else
    let s := s.setChan ch { c with issued := eraseFirst mine c.issued }
    if !s.isF Fld.DMC_CFG_LINK_ECC then s
    else match ecc with
      | 1 => s.on fun io => (io.bumpF (Fld.DMC_CH_ECC_CORR (ch / 4) (ch % 4))).fireOnce ch { event := 132, region := some (ch / 4) }
      | 2 => s.on fun io =>
        let io := io.uncorrectable ch
        let hit := (io.opTable (ch / 4)).used.filter (fun e => e.cls == cls && !e.host && !e.write && e.addr == addr && e.awaited)
        { io with badReads := io.badReads ++ hit.map (·.who) }
      | _ => s

def execDramReadComplete (ch cls addr ecc : Nat) (s : State) : Result := .next (s.readComplete ch cls addr ecc)

/-- The panic threshold of a kind of port (R152, R165): 0 disables panic. -/
def State.panicLevel (s : State) (kind : Nat) : Nat :=
  match kind with
  | 0 => s.getF Fld.DMC_PANIC_LVL_A_SCALER
  | 1 => s.getF Fld.DMC_PANIC_LVL_A_ENCODER
  | 2 => s.getF Fld.DMC_PANIC_LVL_A_DECODER
  | 3 => s.getF Fld.DMC_PANIC_LVL_A_LAMP
  | 4 => s.getF Fld.DMC_PANIC_LVL_B_DRIVER
  | 5 => s.getF Fld.DMC_PANIC_LVL_B_LINK
  | _ => 0

/-- The buffer of a kind's port that a level is of (R152): the decoder's display write buffer has a flag of its own. -/
def panicKey (kind : Nat) (full : Bool) : Nat := if kind = 2 ∧ full then 7 else kind

/-- Whether a buffer's fill, in 64ths, is on the panic side of its kind's threshold (R152): above 64 − LEVEL for LINK and for the
decoder's display write buffer, below LEVEL for the others. -/
def State.panicSide (s : State) (kind fill : Nat) (full : Bool) : Bool :=
  let lv := s.panicLevel kind
  decide (lv ≠ 0) && (if kind = 5 ∨ panicKey kind full = 7 then decide (64 - lv < fill) else decide (fill < lv))

/-- R152: a port's buffer level crosses its threshold; the port enters panic where it was not in panic. -/
def execPortPanicEnter (ch kind fill : Nat) (full : Bool) (s : State) : Result :=
  .next (
    let key := panicKey kind full
    if s.chanRunning ch && s.panicSide kind fill full && !(s.chan ch).panic.contains key then
      let was := (s.chan ch).inPanic kind
      let high := s.chans.any (fun c => !c.panic.isEmpty)
      let s := s.setChan ch { s.chan ch with panic := key :: (s.chan ch).panic }
      if was then s
      else
        let s := s.on fun io => (io.bumpF (Fld.DMC_CH_PANICS (ch / 4) (ch % 4))).fireOnce ch { event := 130, region := some (ch / 4) }
        if high then s else s.on (·.pulse 8)
    else s)

/-- R152: the level is back on the safe side. -/
def execPortPanicExit (ch kind fill : Nat) (full : Bool) (s : State) : Result :=
  .next (if s.panicSide kind fill full then s
    else s.setChan ch { s.chan ch with panic := (s.chan ch).panic.filter (· != panicKey kind full) })

/-- R155: the panic window ends and the allowance is restored. -/
def execPanicWindowEnd (ch : Nat) (s : State) : Result :=
  .next (s.setChan ch { s.chan ch with panicUsed := 0, capped := false })

/-- R154: the oldest waiting request of a class ISO, MGT or BULK at an address has waited AGE microseconds. -/
def execRequestAged (ch cls addr : Nat) (s : State) : Result :=
  .next (
    let c := s.chan ch
    if cls = 0 then s
    else match c.queue.find? (fun r => r.cls == cls && r.addr == addr && !r.aged) with
      | some r => s.setChan ch { c with queue := c.queue.map (fun q => if q.id = r.id then { q with aged := true } else q) }
      | none => s)

/-- The DRAM address of a byte offset within a channel: the inverse of R149, for a capacity code. While no channel is trained (CAP 3)
the channel is laid out by its own density (log 93). -/
def State.chanAddr (s : State) (ch off : Nat) : Nat :=
  let k := s.io.chansPerRegion
  let g := grainBytes (s.getF Fld.DMC_CFG_GRAIN)
  let code := s.getF Fld.DMC_DENSITY_CAP
  let cap := capBytes (if code = 3 then s.getF (Fld.DMC_CH_STAT_DENSITY (ch / 4) (ch % 4)) else code)
  (ch / 4) * (k * (if cap = 0 then 2 ^ 32 else cap)) + off / g * (g * k) + (if k = 4 then ch % 4 else 0) * g + off % g

/-- The 64 bytes that a pattern run writes to each burst: the user pattern of DMC_CH_PAT_DATA, or free values where the
spec does not lay out the pattern's bits (log 16). -/
def State.patternBurst (s : State) (ch pattern burst : Nat) : List Byte :=
  if pattern = 3 then
    (List.range 16).flatMap (fun i => leBytes 4 (s.io.getReg (Reg.DMC_CH_PAT_DATA (ch / 4) (ch % 4) i)).toNat)
  else (List.range 64).map (fun i => BitVec.ofNat 8 (Config.freeNat (s.io.fresh + 64 * burst + i)))

/-- The bursts of a pattern run written to a channel from an offset. -/
def State.writePattern (ch pattern off : Nat) : Nat → State → State
  | 0, s => s
  | n + 1, s =>
    let bs := s.patternBurst ch pattern n
    State.writePattern ch pattern off n (s.on (·.writeDram (s.chanAddr ch (off + 64 * n)) bs))

/-- R166: PAT_CTL is written with START set: a run of LENGTH bursts starts, writing the pattern first when WRITE is 1; a
LENGTH of 0 ends it at once, without a miscompare. -/
def State.patternStart (s : State) (ch pattern : Nat) (write : Bool) (length : Nat) : State :=
  let n := ch / 4
  let c := ch % 4
  let s := s.on (·.setReg (Reg.DMC_CH_PAT_CTL n c) (BitVec.ofNat 32 (pattern % 4 + 4 * flag write + 8 * flag (decide (length % 2 ^ 20 ≠ 0)) + 16 * (length % 2 ^ 20))))
  if length % 2 ^ 20 = 0 then s.on (·.setReg (Reg.DMC_CH_CMP n c) 0)
  else if write then
    let s' := State.writePattern ch (pattern % 4) (64 * s.getF (Fld.DMC_CH_PAT_ADDR n c)) (length % 2 ^ 20) s
    { s' with io := { s'.io with fresh := s'.io.fresh + 64 * (length % 2 ^ 20) } }
  else s

/-- R166: a run ends and its miscompares are recorded. -/
def execPatternRunDone (ch dqErr bursts : Nat) (s : State) : Result :=
  .next (
    let n := ch / 4
    let c := ch % 4
    if s.isF (Fld.DMC_CH_PAT_CTL_START n c) then
      s.on fun io => (io.setF (Fld.DMC_CH_PAT_CTL_START n c) 0).setReg (Reg.DMC_CH_CMP n c) (BitVec.ofNat 32 (dqErr % 2 ^ 16 + 2 ^ 16 * min bursts 65535))
    else s)

end Sys2Proof.Machine
end

