-- ==== Sys2Proof/Machine/Colour.lean ====
section
/-! DEFINITION. Internal colour and its transfer functions (R194, R198, R221): a binary16 colour value, which is never
negative, is held as its multiple of 2^-24. -/

namespace Sys2Proof.Machine

/-- The rational num / den, in units of 2^-24, rounded to binary16 (to nearest, ties to even). -/
def half (num den : Nat) : Nat :=
  let q := num / den
  if q < 2048 then roundDiv num den
  else
    let k := bitLen q - 11
    roundDiv num (den * 2 ^ k) * 2 ^ k

/-- A signed rational in units of 2^-24 rounded to binary16 and clamped to the range from 0 to `ceil` (R194). -/
def halfClamp (ceil : Nat) (num : Int) (den : Nat) : Nat := if num ≤ 0 then 0 else min ceil (half num.toNat den)

/-- The binary16 code of a colour value. -/
def halfBits (n : Nat) : Nat :=
  if n < 1024 then n
  else
    let e := bitLen n - 11
    (e + 1) * 1024 + n / 2 ^ e % 1024

/-- How a binary16 code reads: NaN, an infinity, or a finite value in units of 2^-24 with its sign. -/
inductive HalfValue where
  | nan
  | inf (negative : Bool)
  | finite (negative : Bool) (n : Nat)
deriving DecidableEq, Repr

/-- A binary16 code decoded. -/
def readHalf (c : Nat) : HalfValue :=
  let e := bits c 10 5
  let m := bits c 0 10
  let neg := bit c 15
  if e = 31 then (if m = 0 then .inf neg else .nan)
  else .finite neg (if e = 0 then m else (1024 + m) * 2 ^ (e - 1))

/-- A binary16 colour taken into use from a register or record (R194): NaN and negative values act as 0, +Inf and values
above the ceiling as the ceiling. -/
def takeHalf (ceil c : Nat) : Nat :=
  match readHalf c with
  | .nan | .inf true | .finite true _ => 0
  | .inf false => ceil
  | .finite false n => min ceil n

/-- A source colour of RGBA16F (R199): its value, and whether it was replaced. -/
def sourceHalf (ceil c : Nat) : Nat × Bool :=
  match readHalf c with
  | .nan | .inf true => (0, true)
  | .inf false => (ceil, true)
  | .finite true n => (0, decide (n ≠ 0))
  | .finite false n => (min ceil n, false)

/-- Bit `i` down to bit 0 of the integer k-th root of `n`. -/
def rootBits (k n : Nat) : Nat → Nat → Nat
  | 0, r => r
  | i + 1, r => rootBits k n i (if (r + 2 ^ i) ^ k ≤ n then r + 2 ^ i else r)

/-- The integer part of the k-th root of `n`, which is below 2^b. -/
def iroot (k b n : Nat) : Nat := rootBits k n b 0

/-- (num / den)^(12/5) times (sn / sd), rounded to binary16: the fifth root is taken of the exact twelfth power, with a
sticky bit below 2^-30. -/
def powerScaled (num den sn sd : Nat) : Nat :=
  let a := num ^ 12 * sn ^ 5 * 2 ^ 150
  let b := den ^ 12 * sd ^ 5
  let r := iroot 5 48 (a / b)
  half (2 * r + flag (r ^ 5 * b != a)) 128

/-- Fraction bits of the fixed-point evaluation of the ST 2084 curve (log 23). -/
def pqBits : Nat := 96

/-- The k-th root of a fixed-point value of at most 1. -/
def fixRoot (k x : Nat) : Nat := iroot k (pqBits + 1) (x * 2 ^ (pqBits * (k - 1)))

/-- The product of two fixed-point values. -/
def fixMul (x y : Nat) : Nat := x * y / 2 ^ pqBits

/-- A fixed-point value raised to the power 2^n. -/
def fixSquare (x : Nat) : Nat → Nat
  | 0 => x
  | n + 1 => fixSquare (fixMul x x) n

/-- The ST 2084 EOTF of code / 4095 in fixed point, 1 meaning 10,000 cd/m²: m1 = 1305/8192, m2 = 2523/32, c1 = 3424/4096,
c2 = 2413/128, c3 = 2392/128. -/
def pqFix (code : Nat) : Nat :=
  let one := 2 ^ pqBits
  let a := fixSquare (fixRoot 29 (fixRoot 29 (fixRoot 3 (code * one / 4095)))) 5
  let num := a - one * 3424 / 4096
  let den := one * 2413 / 128 - a * 2392 / 128
  fixSquare (fixRoot 29 (fixRoot 5 (fixRoot 3 (fixRoot 3 (num * one / den))))) 13

/-- The ST 2084 EOTF in units of 2^-24 of 100 cd/m², times sn / sd, rounded to binary16; the value is exact at the ends. -/
def pqScaled (code sn sd : Nat) : Nat :=
  if code = 0 then 0
  else if 4095 ≤ code then half (100 * 2 ^ 24 * sn) sd
  else half ((2 * (pqFix code * 100 * sn * 2 ^ 30 / (sd * 2 ^ pqBits)) + 1) * 1) 128

/-- CEIL of R194 in units of 2^-24: DOMAIN 0 is PQ, 1 is gamma 2.4. -/
def ceilOf (gamma : Bool) : Nat := if gamma then 2 ^ 24 else 100 * 2 ^ 24

/-- Entry `code` of the table of R198 for a TRANSFER, in a raster of a domain with an SDR white in cd/m². -/
def eotfEntry (gamma : Bool) (white transfer code : Nat) : Nat :=
  let sn := if gamma then 1 else white
  let sd := if gamma then 1 else 100
  match transfer with
  | 0 => half (code * 2 ^ 24 * sn) (4095 * sd)
  | 1 =>
    if code * 100000 ≤ 4045 * 4095 then half (code * 100 * 2 ^ 24 * sn) (4095 * 1292 * sd)
    else powerScaled (code * 1000 + 55 * 4095) (1055 * 4095) sn sd
  | 2 => powerScaled code 4095 sn sd
  | _ => if gamma then pqScaled code 100 white else pqScaled code 1 1

/-- The table T of R221: TRANSFER 3 in a PQ raster, TRANSFER 2 in a gamma-2.4 raster. -/
def codingEntry (gamma : Bool) (white code : Nat) : Nat := eotfEntry gamma white (if gamma then 2 else 3) code

/-- The least code from `lo` on whose entry is at least `v`, by halving 2^i codes; 4096 when there is none. -/
def leastCode (t : Nat → Nat) (v : Nat) : Nat → Nat → Nat
  | 0, lo => if lo < 4096 ∧ t lo < v then lo + 1 else lo
  | i + 1, lo => leastCode t v i (if t (lo + 2 ^ i - 1) < v then lo + 2 ^ i else lo)

/-- The index that minimises |T[c] - v| over 0 to 4095, the lower one on a tie (R221). The table does not fall from one
code to the next. -/
def nearestCode (t : Nat → Nat) (v : Nat) : Nat :=
  let c := leastCode t v 12 0
  if c = 0 then 0
  else
    let p := leastCode t (t (c - 1)) 12 0
    if 4095 < c then p
    else if v - t p ≤ t c - v then p else c

/-- The coefficients of R198 over 2^14: the inverse YCbCr matrices of BT.601, BT.709 and BT.2020, and the identity that maps
Y to G, Cb to B and Cr to R. -/
def yccMatrix (m : Nat) : List Int :=
  match m with
  | 0 => [16384, 0, 22970, 16384, -5638, -11700, 16384, 29032, 0]
  | 1 => [16384, 0, 25802, 16384, -3069, -7670, 16384, 30402, 0]
  | 2 => [16384, 0, 24160, 16384, -2696, -9361, 16384, 30825, 0]
  | _ => [0, 0, 16384, 16384, 0, 0, 0, 16384, 0]

/-- The primaries' matrices of R198 over 2^14, from source primaries (1 BT.709, 2 BT.2020, 3 P3) to raster primaries (0
BT.709, 1 BT.2020, 2 P3); none is the identity. -/
def primMatrix (src raster : Nat) : Option (List Int) :=
  match src, raster with
  | 1, 1 => some [10279, 5395, 710, 1132, 15066, 186, 269, 1442, 14673]
  | 1, 2 => some [13475, 2909, 0, 544, 15840, 0, 280, 1186, 14918]
  | 2, 0 => some [27205, -9628, -1194, -2041, 18561, -137, -297, -1648, 18329]
  | 2, 2 => some [22013, -4623, -1006, -1070, 17626, -172, 46, -321, 16659]
  | 3, 0 => some [20069, -3685, 0, -689, 17073, 0, -322, -1288, 17994]
  | 3, 1 => some [12351, 3254, 779, 749, 15430, 204, -20, 288, 16115]
  | _, _ => none

end Sys2Proof.Machine
end

