-- ==== Sys2Proof/Machine/Scale.lean ====
section
/-! DEFINITION. Layer records (R177, R195, R196), the geometry of scaling (R201 to R203) and what a row of a layer reads (R182,
R205, R207, R212). -/

namespace Sys2Proof.Machine

/-- A layer record: 128 bytes (R177). -/
abbrev LayerRec := List Byte

def LayerRec.layer (r : LayerRec) : Nat := fieldAt r 0 1
def LayerRec.action (r : LayerRec) : Nat := fieldAt r 1 1
def LayerRec.kind (r : LayerRec) : Nat := bits (fieldAt r 2 1) 0 4
def LayerRec.fallback (r : LayerRec) : Nat := bits (fieldAt r 2 1) 4 2
def LayerRec.alphaMode (r : LayerRec) : Nat := bits (fieldAt r 2 1) 6 2
def LayerRec.format (r : LayerRec) : Nat := fieldAt r 4 1
def LayerRec.z (r : LayerRec) : Nat := fieldAt r 5 1
def LayerRec.alpha (r : LayerRec) : Nat := fieldAt r 6 2
def LayerRec.addr (r : LayerRec) (plane : Nat) : Nat := fieldAt r (8 + 8 * plane) 8
def LayerRec.pitch (r : LayerRec) (plane : Nat) : Nat := fieldAt r (24 + 4 * plane) 4
def LayerRec.ctx (r : LayerRec) : Nat := fieldAt r 32 1
def LayerRec.index (r : LayerRec) : Nat := fieldAt r 33 1
def LayerRec.srcX (r : LayerRec) : Nat := fieldAt r 36 2
def LayerRec.srcY (r : LayerRec) : Nat := fieldAt r 38 2
def LayerRec.srcW (r : LayerRec) : Nat := fieldAt r 40 2
def LayerRec.srcH (r : LayerRec) : Nat := fieldAt r 42 2
def LayerRec.dstX (r : LayerRec) : Nat := fieldAt r 44 2
def LayerRec.dstY (r : LayerRec) : Nat := fieldAt r 46 2
def LayerRec.dstW (r : LayerRec) : Nat := fieldAt r 48 2
def LayerRec.dstH (r : LayerRec) : Nat := fieldAt r 50 2
def LayerRec.colour (r : LayerRec) (ch : Nat) : Nat := fieldAt r (52 + 2 * ch) 2
def LayerRec.fenceKind (r : LayerRec) : Nat := fieldAt r 60 1
def LayerRec.fenceCtx (r : LayerRec) : Nat := fieldAt r 61 1
def LayerRec.fenceCounter (r : LayerRec) : Nat := fieldAt r 62 2
def LayerRec.fenceAddr (r : LayerRec) : Nat := fieldAt r 64 8
def LayerRec.fenceValue (r : LayerRec) : Nat := fieldAt r 72 8
/-- HFILT or VFILT (R196). -/
def LayerRec.filter (r : LayerRec) (vertical : Bool) : Nat := bits (fieldAt r 80 1) (if vertical then 2 else 0) 2
def LayerRec.transfer (r : LayerRec) : Nat := bits (fieldAt r 80 1) 4 2
def LayerRec.matrix (r : LayerRec) : Nat := bits (fieldAt r 80 1) 6 2
def LayerRec.narrow (r : LayerRec) : Bool := bit (fieldAt r 81 1) 0
def LayerRec.site (r : LayerRec) (vertical : Bool) : Bool := bit (fieldAt r 81 1) (if vertical then 2 else 1)
def LayerRec.prim (r : LayerRec) : Nat := bits (fieldAt r 81 1) 3 2
/-- HOFS or VOFS (R196). -/
def LayerRec.ofs (r : LayerRec) (vertical : Bool) : Int := signed 16 (fieldAt r (if vertical then 84 else 82) 2)
/-- The layer fetches pixels (R170). -/
def LayerRec.fetches (r : LayerRec) : Bool := r.kind != 5
/-- An opaque layer (R182). -/
def LayerRec.isOpaque (r : LayerRec) : Bool := r.alpha == 0xFFFF && (r.alphaMode == 0 || r.kind == 5)

/-- PREDEC's divisor of layer `n` (R169, R190). -/
def State.predec (s : State) (n : Nat) : Nat := match s.getF (Fld.CMP_LAYER_CFG_PREDEC n) with | 1 => 2 | 2 => 4 | _ => 1

/-- W′ and H′ of R201. -/
def LayerRec.size (r : LayerRec) (p : Nat) (vertical : Bool) : Nat := ceilDiv (if vertical then r.srcH else r.srcW) p

/-- p(x) of R202, in units of 2^-20 pixel. -/
def scalePos (x wp dst : Nat) (ofs : Int) : Int := ((2 * x + 1) * wp * 2 ^ 19 / dst : Nat) - 2 ^ 19 + ofs * 256

/-- round(16384 · sinc(d) · sinc(d / 4)) as R203 rounds it, for d = 0 to 4 in steps of 1/64. -/
def sincWeights : List Int :=
  [16384, 16377, 16356, 16321, 16272, 16210, 16134, 16044, 15940, 15824, 15694, 15552, 15397, 15230, 15050, 14859,
   14656, 14442, 14218, 13982, 13737, 13482, 13218, 12945, 12664, 12374, 12077, 11773, 11463, 11146, 10824, 10496] ++
  [10164, 9828, 9489, 9146, 8800, 8453, 8104, 7754, 7403, 7053, 6702, 6353, 6005, 5659, 5316, 4975, 4637, 4304, 3974,
   3649, 3329, 3014, 2705, 2402, 2106, 1816, 1533, 1258, 990, 730, 478, 235] ++
  [0, -226, -443, -651, -850, -1040, -1220, -1391, -1552, -1704, -1846, -1978, -2101, -2215, -2319, -2413, -2499,
   -2575, -2642, -2700, -2749, -2790, -2822, -2846, -2862, -2870, -2870, -2863, -2849, -2828, -2800, -2767] ++
  [-2727, -2681, -2629, -2573, -2512, -2446, -2375, -2301, -2223, -2142, -2057, -1970, -1881, -1789, -1695, -1600,
   -1504, -1406, -1308, -1210, -1111, -1012, -914, -816, -719, -624, -529, -436, -345, -255, -168, -83] ++
  [0, 80, 158, 232, 304, 373, 439, 501, 560, 616, 668, 717, 763, 805, 843, 878, 910, 938, 962, 984, 1001, 1016, 1027,
   1036, 1041, 1043, 1042, 1038, 1032, 1023, 1012, 998] ++
  [982, 963, 943, 921, 897, 871, 844, 815, 785, 754, 722, 689, 656, 621, 587, 552, 516, 481, 445, 410, 375, 340, 305,
   271, 238, 205, 173, 142, 111, 82, 53, 26] ++
  [0, -25, -49, -71, -93, -113, -132, -149, -165, -180, -193, -205, -216, -226, -234, -241, -247, -252, -255, -257,
   -259, -259, -258, -256, -254, -250, -246, -241, -236, -229, -223, -215] ++
  [-207, -199, -191, -182, -173, -164, -154, -145, -136, -126, -117, -108, -99, -90, -81, -73, -65, -58, -50, -44,
   -37, -31, -26, -21, -17, -13, -9, -6, -4, -2, -1, 0]

/-- The weight of the Keys cubic with a = −0.5 at distance n / 64 (R203). -/
def cubicWeight (n : Int) : Int :=
  let a : Int := n.natAbs
  let num : Int := if a ≤ 64 then 3 * a ^ 3 - 320 * a ^ 2 + 2 * 64 ^ 3 else -a ^ 3 + 320 * a ^ 2 - 8 * 64 ^ 2 * a + 4 * 64 ^ 3
  if 128 ≤ a then 0 else (2 * 16384 * num + 2 * 64 ^ 3) / (2 * (2 * 64 ^ 3))

/-- The weight of the windowed sinc at distance n / 64 (R203). -/
def sincWeight (n : Int) : Int := if 256 ≤ n.natAbs then 0 else sincWeights.getD n.natAbs 0

/-- The taps of a filter at position p: index, not yet clamped, and weight (R203). -/
def filterTaps (filter : Nat) (p : Int) : List (Int × Int) :=
  let i := p / 2 ^ 20
  let phi := p % 2 ^ 20 / 2 ^ 14
  let kernel := fun (lo n : Nat) (w : Int → Int) =>
    let l := (List.range n).map (fun (k : Nat) => let j : Int := (k : Int) - lo; (j, w (64 * j - phi)))
    let rest : Int := 16384 - l.foldl (fun a t => a + t.2) 0
    l.map (fun t => (i + t.1, if t.1 = (if phi < 32 then 0 else 1) then t.2 + rest else t.2))
  match filter with
  | 0 => [((p + 2 ^ 19) / 2 ^ 20, 16384)]
  | 1 => [(i, (64 - phi) * 256), (i + 1, phi * 256)]
  | 2 => kernel 1 4 cubicWeight
  | _ => kernel 3 8 sincWeight

/-- A tap index replaced by the nearest one in range (R203). -/
def clampTap (n : Nat) (i : Int) : Nat := (clampI 0 ((n : Int) - 1) i).toNat

/-- The taps of output column or line `x` of a layer, in the pre-decimated picture. -/
def LayerRec.taps (r : LayerRec) (p : Nat) (vertical : Bool) (x : Nat) : List (Nat × Int) :=
  let wp := r.size p vertical
  (filterTaps (r.filter vertical) (scalePos x wp (if vertical then r.dstH else r.dstW) (r.ofs vertical))).map
    (fun t => (clampTap wp t.1, t.2))

/-- The output lines of the layer in block row `row`, counted from its top. -/
def LayerRec.linesOf (r : LayerRec) (row : Nat) : List Nat :=
  ((List.range 8).map (8 * row + ·)).filterMap (fun y => if r.dstY ≤ y ∧ y < r.dstY + r.dstH then some (y - r.dstY) else none)

/-- The block columns of a block row that the destination rectangle touches. -/
def LayerRec.columnsOf (r : LayerRec) : List Nat :=
  if r.dstW = 0 then [] else (List.range ((r.dstX + r.dstW - 1) / 16 + 1)).drop (r.dstX / 16)

/-- The layer covers the whole block in column `c` of row `row` and is opaque (R182). -/
def LayerRec.covers (r : LayerRec) (c row : Nat) : Bool :=
  r.isOpaque && decide (r.dstX ≤ 16 * c ∧ 16 * c + 16 ≤ r.dstX + r.dstW ∧ r.dstY ≤ 8 * row ∧ 8 * row + 8 ≤ r.dstY + r.dstH)

/-- The layer is dropped from a block by a higher layer of `all`, the enabled layers of its region (R182). -/
def LayerRec.dropped (r : LayerRec) (all : List LayerRec) (c row : Nat) : Bool :=
  all.any (fun m => decide (r.z < m.z) && m.covers c row)

/-- The block columns of the layer left in a row after R182; none where the layer has no line in the row. -/
def LayerRec.left (r : LayerRec) (all : List LayerRec) (row : Nat) : List Nat :=
  if (r.linesOf row).isEmpty then [] else r.columnsOf.filter (fun c => !r.dropped all c row)

/-- The destination columns of the layer inside block column `c`, counted from its left edge. -/
def LayerRec.pixelsOf (r : LayerRec) (c : Nat) : List Nat :=
  ((List.range 16).map (16 * c + ·)).filterMap (fun x => if r.dstX ≤ x ∧ x < r.dstX + r.dstW then some (x - r.dstX) else none)

/-- The least and greatest of a list of numbers. -/
def bounds : List Nat → Option (Nat × Nat)
  | [] => none
  | x :: t => match bounds t with | some (a, b) => some (min x a, max x b) | none => some (x, x)

/-- The span of R207 in a row: its leftmost and rightmost pre-decimated pixel. -/
def LayerRec.spanOf (r : LayerRec) (p : Nat) (cols : List Nat) : Option (Nat × Nat) :=
  bounds ((cols.flatMap r.pixelsOf).flatMap (fun x => (r.taps p false x).map (·.1)))

/-- The source lines that a row of the layer counts (R207): first and one past the last. -/
def LayerRec.newLines (r : LayerRec) (p row : Nat) : Nat × Nat :=
  let read := fun q => bounds ((r.linesOf q).flatMap (fun y => (r.taps p true y).map (·.1)))
  match read row with
  | none => (0, 0)
  | some (lo, hi) =>
    let before := if row = r.dstY / 8 then lo else match (if row = 0 then none else read (row - 1)) with | some (_, h) => h + 1 | none => lo
    (before, hi + 1)

/-- lines_in × span of a layer in a row (R207). -/
def LayerRec.need (r : LayerRec) (p : Nat) (all : List LayerRec) (row : Nat) : Nat :=
  if !r.fetches then 0
  else match r.spanOf p (r.left all row) with
    | none => 0
    | some (a, b) => ((r.newLines p row).2 - (r.newLines p row).1) * (b - a + 1)

end Sys2Proof.Machine
end

