-- ==== Sys2Proof/Machine/Words.lean ====
section
/-! DEFINITION. Check sums and the formats of control words, forward packets and return cells (R79, R278 to R283, R289),
with the CRC-64 of the pair's comparison (R310). -/

namespace Sys2Proof.Machine

/-- One bit of the CRC-8 of R79. -/
def crc8Step (crc : Nat) (b : Bool) : Nat :=
  let fb := b != bit crc 7
  let c := crc * 2 % 256
  if fb then Nat.xor c 0x07 else c

/-- The CRC-8 over the low `n` bits of a payload, bit 0 first (R79). -/
def crc8 (payload : Nat) (n : Nat) : Nat := (List.range n).foldl (fun c i => crc8Step c (bit payload i)) 0

/-- An 8-bit value with its bits reversed. -/
def rev8 (v : Nat) : Nat := (List.range 8).foldl (fun a i => a + flag (bit v i) * 2 ^ (7 - i)) 0

/-- A control word's payload from its bits [55:0]: the CRC-8 with its coefficient of x^7 in bit 56 (R79, R278). -/
def sealWord (body : Nat) : Nat := body % 2 ^ 56 + 2 ^ 56 * rev8 (crc8 (body % 2 ^ 56) 56)

/-- Whether a control word's CRC-8 is right: the same loop over all 64 bits leaves 0 (R79). -/
def wordOk (payload : Nat) : Bool := crc8 payload 64 = 0

/-- TYPE of a control word (R278). -/
def wordType (payload : Nat) : Nat := bits payload 0 8

/-- The tick marker of R79: TICK, OFFSET_UI, MODE, REPEAT, END and RATE_SET. -/
def markerWord (tick offset mode : Nat) (rep : Bool) (endB : Nat) (rateSet : Nat) : Nat :=
  sealWord (0x07 + 2 ^ 8 * (tick % 2 ^ 24) + 2 ^ 32 * (offset % 2 ^ 7) + 2 ^ 39 * (mode % 8) + 2 ^ 42 * flag rep
    + 2 ^ 43 * (endB % 2) + 2 ^ 44 * (rateSet % 8))

/-- The ENUM word (R278). -/
def enumWord (chain n endB hop tickHi : Nat) : Nat :=
  sealWord (0x09 + 2 ^ 8 * (chain % 16) + 2 ^ 12 * (n % 128) + 2 ^ 19 * (endB % 2) + 2 ^ 20 * (hop % 128) + 2 ^ 27 * (tickHi % 2 ^ 24))

/-- The PROBE word (R278). -/
def probeWord (position : Nat) : Nat := sealWord (0x08 + 2 ^ 8 * (position % 128))

/-- The ALIGN word (R278). -/
def alignWord (seq : Nat) : Nat := sealWord (0x02 + 2 ^ 8 * (seq % 2 ^ 16))

/-- The SOB word (R278). -/
def sobWord (cont : Bool) : Nat := sealWord (0x05 + 2 ^ 8 * flag cont)

/-- The EOB word (R278). -/
def eobWord (abort fill4 : Bool) : Nat := sealWord (0x06 + 2 ^ 8 * flag abort + 2 ^ 9 * flag fill4)

/-- One bit of the reflected CRC-32 of IEEE 802.3. -/
def crc32Step (c : Nat) : Nat := if c % 2 = 1 then Nat.xor (c / 2) 0xEDB88320 else c / 2

/-- One byte of the CRC-32. -/
def crc32Byte (c : Nat) (b : Byte) : Nat :=
  (List.range 8).foldl (fun c _ => crc32Step c) (Nat.xor c b.toNat)

/-- The CRC-32 of R283: initial value of all ones, reflected, final complement. -/
def crc32 (bs : List Byte) : Nat := Nat.xor (bs.foldl crc32Byte 0xFFFFFFFF) 0xFFFFFFFF

/-- A forward packet (R281): header, CRC-32, payload and CRC-32. -/
def packetBytes (ptype : Nat) (bcast : Bool) (chain position : Nat) (payload : List Byte) : List Byte :=
  let h := leBytes 1 ptype ++ leBytes 1 (flag bcast) ++ leBytes 3 (payload.length / 4) ++ leBytes 1 chain ++ leBytes 1 position ++ zeros 1
  h ++ leBytes 4 (crc32 h) ++ payload ++ leBytes 4 (crc32 payload)

/-- The header fields of a forward packet (R281). -/
structure PacketHead where
  ptype : Nat
  bcast : Bool
  words : Nat
  chain : Nat
  position : Nat
deriving DecidableEq, Repr

/-- How a received packet reads (R285): a header that fails its CRC, or a header with its payload and whether the payload's
CRC holds. -/
inductive PacketRead where
  | badHeader
  | packet (h : PacketHead) (payload : List Byte) (payloadOk : Bool)
deriving DecidableEq, Repr

/-- A forward packet read from its bytes (R281, R285). -/
def readPacket (bs : List Byte) : PacketRead :=
  if crc32 (sub bs 0 8) ≠ fieldAt bs 8 4 then .badHeader
  else
    let h : PacketHead := { ptype := fieldAt bs 0 1, bcast := bit (fieldAt bs 1 1) 0, words := fieldAt bs 2 3,
                            chain := fieldAt bs 5 1 % 16, position := fieldAt bs 6 1 % 64 }
    let p := sub bs 12 (4 * h.words)
    .packet h p (decide (crc32 p = fieldAt bs (12 + 4 * h.words) 4))

/-- A FULL return cell (R289): the CELL word, 20 payload bytes and the CRC-32 over bits [55:0] of word 0 and them. -/
def cellBytes (ptype chain position seq : Nat) (payload : List Byte) : List Byte :=
  let w := sealWord (0x0A + 2 ^ 8 + 2 ^ 9 * (ptype % 16) + 2 ^ 13 * (chain % 16) + 2 ^ 17 * (position % 64) + 2 ^ 23 * (seq % 256)
    + 2 ^ 31 * (payload.length / 4 % 8))
  let p := sub payload 0 20
  leBytes 8 w ++ p ++ leBytes 4 (crc32 (leBytes 7 w ++ p))

/-- The fields of a return cell (R289). -/
structure Cell where
  ptype : Nat
  chain : Nat
  position : Nat
  seq : Nat
  len : Nat
  payload : List Byte
  crcOk : Bool
deriving DecidableEq, Repr

/-- A return cell read from its 32 bytes. -/
def readCell (bs : List Byte) : Cell :=
  let w := fieldAt bs 0 8
  { ptype := bits w 9 4, chain := bits w 13 4, position := bits w 17 6, seq := bits w 23 8, len := bits w 31 3,
    payload := sub bs 8 20, crcOk := wordOk w && decide (crc32 (sub bs 0 7 ++ sub bs 8 20) = fieldAt bs 28 4) }

end Sys2Proof.Machine
end

