-- ==== Sys2Proof/Machine/Tick.lean ====
section
/-! DEFINITION. The tick and schedule engine (R65 to R100): reference edges, tick states, repeat periods, markers, hop
delays and the lateness of slots. Instants are in 1/64 ns. -/

namespace Sys2Proof.Machine

/-- TCK_STATE.MODE codes (R98). -/
def mFREE : Nat := 0
def mTRACKING : Nat := 1
def mLOCKED : Nat := 2
def mSLEWING : Nat := 3
def mHOLDOVER : Nat := 4

/-- The period of a rate in mHz, in 1/64 ns, to the nearest unit. -/
def periodOf (mHz : Nat) : Nat := if mHz = 0 then 0 else (64 * 10 ^ 12 + mHz / 2) / mHz

/-- Rate set `i` of the clock plan. -/
def State.rset (s : State) (i : Nat) : RSet :=
  s.plan.rsets.getD i { nom := 0, low := 0, high := 0, compileDeadline := 0, decodeLead := 0, tables := [] }

/-- A rate set accepts a period (R68), exactly. -/
def RSet.accepts (r : RSet) (p : Nat) : Bool := decide (r.low * p ≤ 64 * 10 ^ 12 ∧ 64 * 10 ^ 12 ≤ r.high * p)

/-- The lowest-numbered rate set that contains the rate of period `p` (R68). -/
def State.rateSetOf (s : State) (p : Nat) : Option Nat :=
  (List.range s.plan.rsets.length).find? (fun i => (s.rset i).accepts p)

/-- The rate set in force. -/
def State.rateSet (s : State) : Nat := s.getF Fld.TCK_STATE_RATE_SET

/-- The tick period in force. -/
def State.period (s : State) : Nat := s.getF Fld.TCK_PERIOD

/-- TCK_STATE.MODE. -/
def State.mode (s : State) : Nat := s.getF Fld.TCK_STATE_MODE

/-- PAIR_STATE codes (R17, R326). -/
def pSOLO : Nat := 0
def pACTIVE : Nat := 1
def pJOINING : Nat := 2
def pARMED : Nat := 3
def pSUSPECT : Nat := 4

/-- PAIR_STATE.STATE. -/
def State.pair (s : State) : Nat := s.getF Fld.PAIR_STATE_STATE

/-- The device serves the wall from its own tick: a Sender or Combined part that is SOLO or ACTIVE (R65). -/
def State.serving (s : State) : Bool := s.io.hasHost && decide (s.pair ≤ pACTIVE)

/-- The device follows tick markers: a Tile part, or a standby Sender (R65). -/
def State.follows (s : State) : Bool := s.io.isTile || decide (pJOINING ≤ s.pair)

/-- TCK_STATE.SOURCE (R65). -/
def State.source (s : State) : Nat :=
  if s.io.isTile then (if s.tick.marked then 3 else 0)
  else if s.follows then (if s.tick.marked then 2 else 0)
  else if s.isF Fld.TCK_GLK_CFG_ENABLE && !(s.mode == mFREE || s.mode == mHOLDOVER) then 1 else 0

/-- TCK_STATE.SOURCE reports the source in use. -/
def State.showSource (s : State) : State := s.on (·.setF Fld.TCK_STATE_SOURCE s.source)

/-- MODE changes; event 33 fires when it does (R100). The count of small phase errors of R69 begins anew in every mode, and a rate change
found before is forgotten once the tick tracks a reference or runs free. -/
def State.setMode (s : State) (m : Nat) : State :=
  if s.mode = m then s
  else
    let s := s.on (fun io => (io.setF Fld.TCK_STATE_MODE m).fire 33)
    { s with tick := { s.tick with inPhase := 0, found := if m = mSLEWING ∨ m = mHOLDOVER then s.tick.found else none } }.showSource

/-- The rate set in force changes; event 44 fires when it does, and TCK_SLOTS reports each region's slot count (R99, R100). -/
def State.setRateSet (s : State) (i : Nat) : State :=
  let changed := s.rateSet ≠ i
  let s := s.on (·.setF Fld.TCK_STATE_RATE_SET i)
  let tables := (s.rset i).tables
  let s := (List.range 4).foldl (fun s n => s.on (·.setF (Fld.TCK_SLOTS n) (tables.getD n []).length)) s
  if changed then s.on (·.fire 44) else s

/-- A slot of some lane runs. -/
def TickState.busy (k : TickState) : Bool := k.lanes.any (fun l => l.running.isSome)

/-- R96: the tables of a rate set come into force once every running slot of the old ones has completed. -/
def State.switchRateSet (s : State) (i : Nat) : State :=
  if s.rateSet ≠ i ∧ s.tick.busy then { s with tick := { s.tick with switching := some i } }
  else { s.setRateSet i with tick := { (s.setRateSet i).tick with switching := none } }

/-- A switch that waited for the last running slot (R96). -/
def State.finishSwitch (s : State) : State := match s.tick.switching with | some i => s.switchRateSet i | none => s

/-- The transitions that the next tick boundaries take; REPEAT_PENDING shows whether a repeat boundary is decided (R98). -/
def State.awaitChange (s : State) (ps : List Pending) : State :=
  { s with tick := { s.tick with pending := ps }, io := s.io.setF Fld.TCK_STATE_REPEAT_PENDING (flag (ps.any (·.jump) || s.tick.repeatAt.isSome)) }

/-- A decided transition takes effect at a tick boundary: its mode, rate set and period (R69). With the reference lost, no reference period is
measured (R98). -/
def State.change (s : State) (p : Pending) : State :=
  let s := ((s.setMode p.mode).switchRateSet p.rateSet).on (·.setF Fld.TCK_PERIOD p.period)
  if p.lost then s.on (·.setF Fld.TCK_REF_PERIOD 0) else s

/-- GLK_IN is judged: a serving Sender or Combined part with its reference enabled and not masked (R65, R70). -/
def State.refUsed (s : State) : Bool := s.serving && s.isF Fld.TCK_GLK_CFG_ENABLE && !s.isF Fld.TCK_TEST_REF_MASK

/-- |x − y|. -/
def absDiff (x y : Nat) : Nat := (x - y) + (y - x)

/-- The period lies within ±5 % of the old rate, compared as rates (R73). -/
def withinFive (newP oldP : Nat) : Bool := decide (absDiff newP oldP * 20 ≤ newP)

/-- Event 36's condition (R72): 8 intervals within ±0.05 % of their mean, which differs from the tick period by more than
200 ppm, and from the rate change found last by more than 200 ppm: the same rate measured again is no new change (DEDUCED, log 87). The
mean, when it holds. -/
def State.rateChange (s : State) (ivs : List Nat) : Option Nat :=
  let sum := ivs.foldl (· + ·) 0
  let known := match s.tick.found with | some q => decide (absDiff sum (8 * q) * 5000 ≤ 8 * q) | none => false
  if ivs.length = 8 ∧ ivs.all (fun i => decide (absDiff (8 * i) sum * 2000 ≤ sum)) ∧ 8 * s.period < absDiff sum (8 * s.period) * 5000 ∧ !known
  then some (sum / 8) else none

/-- The mean of accepted intervals, rounded down to 1/64 ns (DESIGN CHOICE, log 88). -/
def meanOf (ivs : List Nat) : Nat := ivs.foldl (· + ·) 0 / ivs.length

/-- The reference period is measured anew from accepted intervals, up to the edge at `t` (R70, R98). -/
def State.measure (s : State) (t : Nat) (ivs : List Nat) : State :=
  { (s.on (fun io => (io.setF Fld.TCK_REF_PERIOD (meanOf ivs)).setF Fld.TCK_STATE_REF_PRESENT 1)) with
    tick := { s.tick with intervals := ivs, accepted := some t, expected := some (t + meanOf ivs), missing := 0 } }

/-- R73, R74: what a detected rate change decides. The transitions take effect at tick boundaries. -/
def State.onRateChange (s : State) (t p : Nat) (ivs : List Nat) : State :=
  let s := s.on (·.fire 36)
  let s := { s with tick := { s.tick with every := [], found := some p } }.measure t ivs
  match s.rateSetOf p with
  | none => (s.awaitChange [{ mode := mHOLDOVER, rateSet := s.rateSet, period := s.period, jump := false }]).on (·.fire 38)
  | some i =>
    if i = s.rateSet ∧ withinFive p s.period then
      if s.isF Fld.TCK_GLK_CFG_POLICY then s.awaitChange [{ mode := mTRACKING, rateSet := i, period := p, jump := true }]
      else s.awaitChange [{ mode := mSLEWING, rateSet := i, period := s.period, jump := false }]
    else s.awaitChange [{ mode := mFREE, rateSet := s.rateSet, period := s.period, jump := false }, { mode := mTRACKING, rateSet := i, period := p, jump := true }]

/-- The window of R70 in TRACKING, LOCKED and SLEWING: an edge within ±2 % of the reference period around the expected
edge is accepted; another is ignored and counted, with event 35. The span over a missing edge is no accepted interval (DEDUCED, log 87). -/
def State.windowEdge (s : State) (t : Nat) : State :=
  let ref := s.getF Fld.TCK_REF_PERIOD
  match s.tick.expected with
  | some e =>
    if absDiff t e * 50 ≤ ref then
      s.measure t (if s.tick.missing = 0 then ((t - s.tick.accepted.getD (t - ref)) :: s.tick.intervals).take 8 else s.tick.intervals)
    else s.on (fun io => (io.bumpF Fld.TCK_GLITCH_COUNT).fire 35)
  | none => s

/-- An edge while a decision waits for its tick boundary outside the window's states: the reference is already measured, and the edge that
lies within ±2 % of a whole number of periods from the last accepted one is the new last accepted edge (R70, R74; DEDUCED, log 87). -/
def State.trackEdge (s : State) (t : Nat) : State :=
  let ref := s.getF Fld.TCK_REF_PERIOD
  match s.tick.accepted with
  | some a =>
    let off := (t - a) % max 1 ref
    if ref ≠ 0 ∧ min off (ref - off) * 50 ≤ ref then { s with tick := { s.tick with accepted := some t, expected := some (t + ref), missing := 0 } } else s
  | none => s

/-- The acquisition of R70 in FREE: an edge whose interval lies within ±2 % of the interval before it is accepted; eight in
a row measure the reference, and R69 and R76 decide. It does not apply while R74 carries the tick through FREE. -/
def State.acquireEdge (s : State) (t iv : Nat) (before : List Nat) : State :=
  if !s.tick.pending.isEmpty then s.trackEdge t
  else match before with
    | b :: _ =>
      if absDiff iv b * 50 ≤ b then
        let ivs := (iv :: s.tick.intervals).take 8
        let s := { s with tick := { s.tick with run := s.tick.run + 1, intervals := ivs } }
        if s.tick.run < 8 then s
        else
          let s := s.measure t ivs
          match s.rateSetOf (meanOf ivs) with
          | some i => { s.awaitChange [{ mode := mTRACKING, rateSet := i, period := meanOf ivs, jump := true }] with tick :=
              { (s.awaitChange [{ mode := mTRACKING, rateSet := i, period := meanOf ivs, jump := true }]).tick with run := 0, every := [] } }
          | none => s
      else { s with tick := { s.tick with run := 0, intervals := [] } }
    | [] => s

/-- An edge in HOLDOVER: accepted when its interval lies within ±200 ppm of the held period; eight in a row return the
tick to TRACKING (R69, R70). -/
def State.holdoverEdge (s : State) (t iv : Nat) : State :=
  if !s.tick.pending.isEmpty then s.trackEdge t
  else if absDiff iv s.period * 5000 ≤ s.period then
    let ivs := (iv :: s.tick.intervals).take 8
    let s := { s with tick := { s.tick with run := s.tick.run + 1, intervals := ivs } }
    if s.tick.run < 8 then s
    else
      let s := (s.measure t ivs).awaitChange [{ mode := mTRACKING, rateSet := s.rateSet, period := s.period, jump := false }]
      { s with tick := { s.tick with run := 0 } }
  else { s with tick := { s.tick with run := 0, intervals := [] } }

/-- R69, R70, R72: an edge at `t`, `iv` after the edge before it, is judged as the mode has it. -/
def State.judgeEdge (s : State) (t iv : Nat) (before : List Nat) : State :=
  if s.mode = mFREE then s.acquireEdge t iv before
  else
    let s := if s.mode = mHOLDOVER then s.holdoverEdge t iv else s.windowEdge t
    match s.rateChange s.tick.every with
    | some p => s.onRateChange t p s.tick.every
    | none => s

/-- An edge at `t` is the last one; `every` are the intervals of R72 with its own. -/
def State.noteEdge (s : State) (t : Nat) (every : List Nat) : State := { s with tick := { s.tick with edge := some t, every := every } }

/-- R70, R72: a qualifying edge of GLK_IN at instant `t`. -/
def State.referenceEdge (s : State) (t : Nat) : State :=
  if !s.refUsed then s
  else
    match s.tick.edge with
    | none => { (s.on (·.at t)) with tick := { s.tick with edge := some t, accepted := some t } }
    | some e => ((s.on (·.at t)).noteEdge t (((t - e) :: s.tick.every).take 8)).judgeEdge t (t - e) s.tick.every

def execReferenceEdge (t : Nat) (s : State) : Result := .next (s.referenceEdge t)

/-- R70, R71: one more expected edge is missing; the next one is expected a reference period later. -/
def State.missEdge (s : State) : State :=
  { (s.on (fun io => (io.bumpF Fld.TCK_MISS_COUNT).setF Fld.TCK_STATE_REF_PRESENT 0)) with
    tick := { s.tick with missing := s.tick.missing + 1, expected := s.tick.expected.map (· + s.getF Fld.TCK_REF_PERIOD) } }

/-- The intervals measured before the reference was lost are forgotten (R71). -/
def State.forgetEdges (s : State) : State := { s with tick := { s.tick with run := 0, intervals := [], every := [], found := none } }

/-- R70, R71: the window of an expected edge closes with no edge accepted; three in a row enter HOLDOVER at the period in
force, with event 34 when it takes effect. -/
def State.edgeMissing (s : State) : State :=
  let m := s.mode
  if !(s.serving && s.isF Fld.TCK_GLK_CFG_ENABLE) || !(m == mTRACKING || m == mLOCKED || m == mSLEWING) then s
  else
    let s := s.missEdge
    if s.tick.missing = 3 then
      (s.awaitChange [{ mode := mHOLDOVER, rateSet := s.rateSet, period := s.period, jump := false, lost := true }]).forgetEdges
    else s

def execEdgeMissing (s : State) : Result := .next s.edgeMissing

/-- The gap of R75 at the natural next tick `n` for a jump to period `p`: (next target edge + PHASE_OFFSET − n) modulo `p`. -/
def State.gap (s : State) (n p : Nat) : Nat :=
  let off := s.getF Fld.TCK_GLK_CFG_PHASE_OFFSET * 256
  let e := s.tick.accepted.getD 0
  if p = 0 then 0 else (((e + off : Nat) : Int) - (n : Int)) % (p : Int) |>.toNat

/-- The jump that the next tick boundary takes, with its gap, when there is one (R75: none when the gap is 0). -/
def State.dueJump (s : State) : Option (Pending × Nat) :=
  match s.tick.pending, s.tick.next with
  | p :: _, some n => if p.jump ∧ s.gap n p.period ≠ 0 then some (p, s.gap n p.period) else none
  | _, _ => none

/-- A repeat boundary at instant `n` is passed: counted, with event 37, and its gap runs (R75). -/
def State.passRepeat (s : State) (n : Nat) : State :=
  let s := s.on (fun io => (((io.at n).setF Fld.TCK_STATE_REPEAT_PENDING 0).bumpF Fld.TCK_REPEAT_COUNT).fire 37)
  { s with tick := { s.tick with inGap := true, gapFrom := n, repeatAt := none } }

/-- R75: the natural next tick becomes a repeat boundary. No tick number advances and no sync is issued; the tables of the new rate set
come into force (R74), and the next numbered tick falls G later, where the mode and the period change. A device that follows markers passes
the boundary that a REPEAT marker has announced; until the next marker it predicts its next tick one period later (DEDUCED, log 87). -/
def State.repeatBoundary (s : State) : State :=
  match s.tick.repeatAt with
  | some n =>
    if !s.follows then s
    else
      let s := s.passRepeat n
      { s with tick := { s.tick with steady := false, next := if s.tick.fixed then s.tick.next else some (n + s.period) } }
  | none => match s.dueJump, s.tick.next with
    | some (p, g), some n =>
      if !s.serving then s
      else
        let s := (s.passRepeat n).switchRateSet p.rateSet
        { s with tick := { s.tick with next := some (n + g), pending := { p with jump := false } :: s.tick.pending.tail } }
    | _, _ => s

def execRepeatBoundary (s : State) : Result := .next s.repeatBoundary

/-- A signed phase wrapped into half a period each way (DESIGN CHOICE, log 88). -/
def wrapPhase (x : Int) (p : Nat) : Int :=
  if p = 0 then 0
  else
    let y := x % (p : Int)
    if y * 2 > (p : Int) then y - p else y

/-- The phase error of a tick at `n`, in 1/64 ns: tick minus (reference edge + PHASE_OFFSET). -/
def State.phase (s : State) (n : Nat) : Int :=
  let off := s.getF Fld.TCK_GLK_CFG_PHASE_OFFSET * 256
  wrapPhase ((n : Int) - ((s.tick.accepted.getD 0 + off : Nat) : Int)) s.period

/-- The phase error of R98 in ns, rounded down (DESIGN CHOICE, log 88). -/
def State.phaseErr (s : State) (n : Nat) : Int := s.phase n / 64

/-- The states that follow from the phase error at a tick (R69). -/
def State.phaseState (s : State) (err : Int) : State :=
  let m := s.mode
  let small := decide (err.natAbs ≤ 100)
  let k := if small then s.tick.inPhase + 1 else 0
  let s := { s with tick := { s.tick with inPhase := k } }
  if (m = mTRACKING ∨ m = mSLEWING) ∧ 8 ≤ k then s.setMode mLOCKED
  else if m = mLOCKED ∧ 1000 < err.natAbs then s.setMode mTRACKING
  else s

/-- The greatest difference from the reference period from which a phase error `e` still ends at 0 without overshoot, when the difference
may fall by `d` at each tick: the error falls by it, then by `d` less each time. -/
def closing (e d : Nat) : Nat :=
  if d = 0 then 0
  else
    let m := (1 + Nat.sqrt (1 + 8 * e / d)) / 2
    (e + d * (m * (m - 1) / 2)) / max 1 m

/-- The period that brings phase error `e` to 0 in the least time (R69): within 1,000 ppm of the reference period `r`, and changed by at most
`d` from period `p`, that change being the stricter limit (DEDUCED, log 17). -/
def steered (p r d : Nat) (e : Int) : Nat :=
  let want := min (closing e.natAbs d) (r / 1000)
  clampN (p - d) (p + d) (if 0 < e then r - want else r + want)

/-- The period of the next tick (R69): constant in FREE and HOLDOVER; otherwise steered toward the reference. A change of 1,000 ppm in a
second is `p` * `p` / (64 * 10^12) in one period. -/
def State.steer (s : State) (e : Int) : State :=
  let p := s.period
  if s.mode = mFREE ∨ s.mode = mHOLDOVER then s
  else s.on (·.setF Fld.TCK_PERIOD (steered p (s.getF Fld.TCK_REF_PERIOD) (p * p / (64 * 10 ^ 12)) e))

/-- The time since the last numbered tick at boundary `n`, and the part of it that a repeat gap took, in SU. -/
def State.sinceTick (s : State) (n : Nat) : Nat × Nat :=
  ((if s.tick.last = 0 then s.period else n - s.tick.last) / 256, if s.tick.inGap then (n - s.tick.gapFrom) / 256 else 0)

/-- The slots of a period are done with at boundary `n`: the greatest lateness is latched, and lanes carry theirs over, less the gap of a
repeat period (R96, R99). A slot that runs on belongs to the period that ends. -/
def State.latchSlots (s : State) (n : Nat) : State :=
  let (per, gap) := s.sinceTick n
  let s := (List.range 4).foldl (fun s n => s.on (·.setF (Fld.TCK_LATE_MAX n) (nth s.tick.lateMax n))) s
  let s := { s with tick := { s.tick with lateMax := [0, 0, 0, 0], ends := [],
                                          lanes := s.tick.lanes.map (fun l => { l with late := l.late - gap, prevEnd := l.prevEnd - per,
                                                                                       running := l.running.map (fun r => { r with base := r.base + per }) }) } }
  (List.range 4).foldl (fun s n => s.on (·.setF (Fld.TCK_SLOT_STAT_LATE n) (flag (s.tick.lanes.any (fun l => l.region == n && decide (0 < l.late)))))) s

/-- An applied delay moves toward its target by at most 1 ns at a tick (R85). -/
def moveDelay (now target : Nat) : Nat := if now < target then min target (now + 8) else max target (now - 8)

/-- A tile's applied delays move (R85). -/
def State.moveDelays (s : State) : State :=
  s.on fun io =>
    let io := if io.isF Fld.TCK_DELAY_A_VALID then io.setF Fld.TCK_DELAY_A_VALUE (moveDelay (io.getF Fld.TCK_DELAY_A_VALUE) s.tick.towardA) else io
    if io.isF Fld.TCK_DELAY_B_VALID then io.setF Fld.TCK_DELAY_B_VALUE (moveDelay (io.getF Fld.TCK_DELAY_B_VALUE) s.tick.towardB) else io

/-- Whether a tick can be raised: an instant is known, and no repeat boundary stands before it (R75). -/
def State.tickReady (s : State) : Bool :=
  s.tick.next.isSome && s.tick.repeatAt.isNone && !(s.serving && s.dueJump.isSome)

/-- Entering HOLDOVER through R71 or R82 fires event 34. -/
def State.fireRefLost (s : State) (before : Nat) (p : Pending) : State :=
  if p.lost && before != mHOLDOVER then s.on (·.fire 34) else s

/-- The boundary at timebase instant `n`: the count, the slots latched, the transition that was decided (R69, R96). -/
def State.enterPeriod (s : State) (n : Nat) : State :=
  let number := s.tick.number.getD (s.io.tick + 1) % 2 ^ 48
  let s := s.on (fun io => { (io.at n).setWide Fld.TCK_COUNT_LO Fld.TCK_COUNT_HI number with once := [] })
  let s := s.latchSlots n
  match s.tick.pending with
  | p :: t => ((s.change p).awaitChange t).fireRefLost s.mode p
  | [] => s

/-- A follower's period at boundary `n`: the rate set of its marker, the last tick-to-tick interval (DESIGN CHOICE, log 88), and moved delays
(R80 to R83). -/
def State.followPeriod (s : State) (n : Nat) : State :=
  let s := if s.tick.fixed then s.switchRateSet s.tick.nextRateSet else s
  let s := if s.tick.steady && s.tick.fixed && decide (s.tick.last < n) then s.on (·.setF Fld.TCK_PERIOD (n - s.tick.last)) else s
  let s := s.on (·.setF Fld.TCK_STATE_ALIGN_FAULT (flag (s.tick.fixed && s.tick.late && s.io.isTile)))
  s.moveDelays

/-- The period from boundary `n` on: as the markers give it, steered by the phase error, or free (R69). -/
def State.runPeriod (s : State) (n : Nat) : State :=
  if s.follows then s.followPeriod n
  else if s.isF Fld.TCK_GLK_CFG_ENABLE && s.tick.accepted.isSome && !(s.mode == mFREE || s.mode == mHOLDOVER) then
    let e := s.phase n
    ((s.on (·.setF Fld.TCK_PHASE_ERR (unsigned 32 (s.phaseErr n)))).phaseState (s.phaseErr n)).steer e
  else if !s.isF Fld.TCK_GLK_CFG_ENABLE then s.setMode mFREE
  else s

/-- What boundary `n` shows: the next instant, the source, the genlock output (R77), and the tick's event and pulse. -/
def State.showPeriod (s : State) (n : Nat) : State :=
  let s := { s with tick := { s.tick with last := n, next := some (n + s.period), number := none, steady := s.tick.fixed || !s.follows,
                                          fixed := false, late := false, inGap := false } }.showSource
  let s := if s.isF Fld.TCK_STATE_ALIGN_FAULT then s.on (·.fire 43) else s
  let s := if s.isF Fld.TCK_GLK_OUT_ENABLE then s.on (·.emit (.glkOut (max 1 (s.getF Fld.TCK_GLK_OUT_WIDTH)) (!s.isF Fld.TCK_GLK_OUT_POLARITY))) else s
  s.on (fun io => (io.fire 32).pulse 1)

/-- The tick engine's own part of raising a numbered tick at its instant (R69). -/
def State.raiseTick (s : State) : State :=
  match s.tick.next with
  | none => s
  | some n => ((s.enterPeriod n).runPeriod n).showPeriod n

/-! ### Markers -/

/-- The port number under which a unit of a pair hears its partner on the pair port (R303). -/
def pairPort : Nat := 16

/-- The end from which this device sends on a chain, and on the pair port (R306): the B end of a ring for the second unit of a pair; the A end of every other chain
(R19, R305). -/
def State.endB (s : State) (chain : Nat) : Nat :=
  let ring := match s.plan.routes.find? (·.chain == chain) with | some r => r.ring | none => false
  if (ring || chain == pairPort) && s.isF Fld.PAIR_STATE_UNIT_VALID then s.getF Fld.PAIR_STATE_UNIT else 0

/-- Chain port `p`'s block: its state code (R301). -/
def State.portState (s : State) (p : Nat) : Nat := s.getF (Fld.LNK_STATE_STATE (p / 4) (p % 4))

/-- Port `p` is UP. -/
def State.portUp (s : State) (p : Nat) : Bool := s.portState p = 2

/-- Port `p` of a Sender or Combined part is an enabled output (R20, R301). -/
def State.isOutput (s : State) (p : Nat) : Bool :=
  s.io.hasHost && s.io.chPresent p && s.isF (Fld.LNK_PORT_CFG_ENABLE (p / 4) (p % 4)) && !s.isF (Fld.LNK_PORT_CFG_DIR (p / 4) (p % 4))

/-- This unit transmits forward on port `p`: the active or solo unit on its outputs, and a standby on the chains that it
feeds from its own end (R19, R315), while its forward drivers are not silenced (R314). -/
def State.transmits (s : State) (p : Nat) : Bool :=
  s.isOutput p && !s.boot.silent && (s.serving || bit (s.getF Fld.PAIR_FEED_CHAINS) p)

/-- The takeover under way makes this unit ACTIVE at the tick whose instant is `n` and whose number is `k`: the first tick whose
marker's send time lies at least 20 microseconds after the trigger, or the tick of a planned handover (R314, R325). -/
def State.takesOver (s : State) (n k : Nat) : Bool :=
  (match s.pairUnit.trigger with
   | some tr => s.pairUnit.deposeSeq.isNone && decide (tr + 1280000 + s.getF Fld.TCK_MARKER_LEAD * 256 ≤ n)
   | none => false)
  || (match s.pairUnit.takeAt with | some h => decide (h ≤ k) | none => false)

/-- This unit sends markers and probes on port `p`: forward on a chain that it transmits on, and, while it is ACTIVE, on the pair
port (R83, R306). -/
def State.sendsTime (s : State) (p : Nat) : Bool :=
  s.portUp p && (if p = pairPort then decide (s.pair = pACTIVE) && !s.boot.silent else s.transmits p ||
    (s.isOutput p && !s.boot.silent && (match s.tick.next with | some n => s.takesOver n (s.tick.number.getD (s.io.tick + 1)) | none => false)))

/-- The first slot of a kind on a lane in a region's table in force. -/
def State.slotOn (s : State) (n kind lane : Nat) : Option Nat :=
  let t := (s.rset s.rateSet).tables.getD n []
  (List.range t.length).find? (fun i => match t[i]? with | some sl => sl.kind == kind && sl.lane == lane | none => false)

/-- R78, R79: the marker of the next tick, with its OFFSET_UI; when the next boundary is a repeat boundary, it carries REPEAT and the
previous number. -/
def State.markerSend (s : State) (p offset : Nat) : State :=
  let rep := s.dueJump.isSome
  let next := s.tick.number.getD (s.io.tick + 1)
  let rs := match s.tick.pending with | q :: _ => q.rateSet | [] => s.rateSet
  s.on (·.emit (.control p (markerWord (if rep then s.io.tick else next) offset s.mode rep (s.endB p) rs)))

/-- A control word that is not acted on (R278): counted, with event 261 at most once per port per period. -/
def State.cwError (s : State) (p : Nat) : State :=
  s.on (fun io => (io.bumpF (Fld.LNK_CW_ERR (p / 4) (p % 4))).fireOnce p { event := 261, region := some (p / 4), obj := p % 4 })

/-- The markers missed and received in a row on a port (R288). -/
def State.portRun (s : State) (p : Nat) : Nat × Nat :=
  match s.tick.ports.find? (fun e => e.1 == p) with | some (_, m, v) => (m, v) | none => (0, 0)

/-- A port's runs replaced. -/
def State.setPortRun (s : State) (p m v : Nat) : State :=
  { s with tick := { s.tick with ports := (p, m, v) :: s.tick.ports.filter (fun e => e.1 != p) } }

/-- The tile's selected port, if any (R288). -/
def State.selected (s : State) : Option Nat := [0, 1].find? (fun p => s.isF (Fld.LNK_STATE_SELECTED 0 p))

/-- A field of a port's register block set (R301). -/
def State.portF (s : State) (f : Nat → Nat → Field) (p v : Nat) : State := s.on (·.setF (f (p / 4) (p % 4)) v)

/-- A counter of a port's register block increased. -/
def State.portBump (s : State) (f : Nat → Nat → Field) (p : Nat) : State := s.on (·.bumpF (f (p / 4) (p % 4)))

/-- An event that names a port (R302). -/
def State.firePort (s : State) (e p : Nat) : State := s.on (·.fireObj e (some (p / 4)) (p % 4))

/-- An event that names a port, at most once per port per period. -/
def State.firePortOnce (s : State) (e p : Nat) : State := s.on (·.fireOnce p { event := e, region := some (p / 4), obj := p % 4 })

/-- Whether port `p` is the return originator (R288): a tile's selected port while its other port is not UP; a Sender or
Combined port that does not transmit forward. -/
def State.originates (s : State) (p : Nat) : Bool :=
  s.portUp p &&
  (if s.io.isTile then s.selected == some p && !s.portUp (1 - p)
   else s.io.chPresent p && !s.transmits p)

/-- LNK_STATE.ORIGIN follows R288; event 267 fires where it sets. -/
def State.updateOrigin (s : State) : State :=
  (List.range 16).foldl (fun s p =>
    if !s.io.chPresent p then s
    else
      let o := s.originates p
      let was := s.isF (Fld.LNK_STATE_ORIGIN (p / 4) (p % 4))
      if o == was then s
      else
        let s := s.portF Fld.LNK_STATE_ORIGIN p (flag o)
        if o then s.firePort 267 p else s) s

/-- The tile selects a port as its forward input (R288), which may make it the return originator. -/
def State.select (s : State) (p : Nat) : State :=
  (s.on (fun io => ((io.setF (Fld.LNK_STATE_SELECTED 0 0) (flag (p == 0))).setF (Fld.LNK_STATE_SELECTED 0 1) (flag (p == 1))))).updateOrigin

/-- A marker that counts as missing for the tick that is followed (R82): the third in a row enters HOLDOVER. -/
def State.missMarker (s : State) : State :=
  let k := s.tick.lost + 1
  let s := s.on (fun io => (io.bumpF Fld.TCK_MARKER_ERR).setF Fld.TCK_STATE_REF_PRESENT 0)
  let s := { s with tick := { s.tick with lost := k, valid := 0 } }
  if s.tick.marked ∧ k = 3 then
    let s := s.awaitChange [{ mode := mHOLDOVER, rateSet := s.rateSet, period := s.period, jump := false, lost := true }]
    { s with tick := { s.tick with lossHeld := true } }.on (·.fire 42)
  else s

/-- A tile's forward input (R288): the selected port, or, while it has selected none, the port that a forward word comes in on. -/
def State.forwardFrom (s : State) (p : Nat) : Bool := s.io.isTile && (s.selected == some p || s.selected == none)

/-- R84, R287: a tile repeats a forward word that comes in on its forward input onward on its other port, where that is UP, and changes nothing
in it. -/
def State.repeatWord (s : State) (p payload : Nat) : State :=
  if s.forwardFrom p && s.portUp (1 - p) then s.on (·.emit (.control (1 - p) payload)) else s

/-- The unit interval of a rate code, in 1/6400 ns: 320, 160 and 80 ps (R275). -/
def uiUnits (rate : Nat) : Nat := match rate with | 0 => 2048 | 1 => 1024 | _ => 512

/-- R80: the tick instant that a marker gives, and whether it is late. The tick falls on the next edge of the 1 GHz
timebase. -/
def State.markerTick (s : State) (p t payload : Nat) : Nat × Bool :=
  let off := bits payload 32 7
  let endB := bit payload 43
  let d := if p = pairPort then s.getF Fld.PAIR_HOP_DELAY_VALUE * 8
           else if endB then s.getF Fld.TCK_DELAY_B_VALUE * 8 else s.getF Fld.TCK_DELAY_A_VALUE * 8
  let l := s.getF Fld.TCK_MARKER_LEAD * 256
  let ui := if p = pairPort then 0 else off * uiUnits (s.getF (Fld.LNK_STATE_RATE_NOW (p / 4) (p % 4))) / 100
  let late := decide (l < d + 64000)
  let x := if late then t + 64000 else t + l - d - ui
  ((x + 63) / 64 * 64, late)

/-- R81: the 48-bit number nearest to `next`, the previous count + 1, whose low 24 bits are those of `tick24`. -/
def nearestTick (next tick24 : Nat) : Nat :=
  let base := next / 2 ^ 24 * 2 ^ 24 + tick24 % 2 ^ 24
  let cands := (if base < 2 ^ 24 then [] else [base - 2 ^ 24]) ++ [base + 2 ^ 24]
  cands.foldl (fun best c => if absDiff c next < absDiff best next then c else best) base

/-- R81: the number that a marker's TICK gives. At the first valid marker there is no previous count: the high bits are those that an ENUM word
has given, or 0. -/
def State.extendTick (s : State) (tick24 : Nat) : Nat :=
  if s.tick.marked then nearestTick (s.io.tick + 1) tick24 else s.tick.tickHi * 2 ^ 24 + tick24

/-- A REPEAT marker announces a repeat boundary at instant `x` (R75, R80): it raises no tick. -/
def State.announceRepeat (s : State) (x : Nat) : State :=
  { (s.on (·.setF Fld.TCK_STATE_REPEAT_PENDING 1)) with tick := { s.tick with repeatAt := some x, next := some x, fixed := false, lost := 0, marked := true } }.showSource

/-- A valid marker is followed (R80 to R82): it fixes the instant, number, rate set and mode of the next tick; a REPEAT
marker announces a repeat boundary. In HOLDOVER for want of markers, and at the first marker, the phase steps at once. -/
def State.followMarker (s : State) (p t payload : Nat) : State :=
  let (x, late) := s.markerTick p t payload
  let first := !s.tick.marked
  let v := s.tick.valid + 1
  let held := s.tick.lossHeld && !first
  let number := s.extendTick (bits payload 8 24)
  let s := s.on (fun io =>
    let io := io.setF Fld.TCK_STATE_REF_PRESENT 1
    if io.isTile then io.setF Fld.TCK_STATE_END (bits payload 43 1) else io)
  let s := { s with tick := { s.tick with valid := v } }
  if held && decide (v < 2) then s
  else if bit payload 42 then s.announceRepeat x
  else
    let mode := if first then mTRACKING else if 2 ≤ v then bits payload 39 3 else s.mode
    let rs := bits payload 44 3
    let s := { s with tick := { s.tick with
        next := some x, fixed := true, late := late, number := some number, lost := 0, marked := true, lossHeld := false, nextRateSet := rs,
        steady := s.tick.steady && !held && !first } }.showSource
    s.awaitChange (if mode = s.mode then [] else [{ mode := mode, rateSet := rs, period := s.period, jump := false }])

/-- A marker's CRC and field checks (R79). -/
def markerOk (payload : Nat) : Bool := wordOk payload && wordType payload == 0x07 && decide (bits payload 32 7 ≤ 65 ∧ bits payload 39 3 ≤ 4)

/-- The window of R82: while markers are followed, the tick a marker would raise must fall within ±100 ns of the predicted
instant. A prediction needs one interval between ticks that markers raised: none applies before it, in a repeat gap and after one, or to a
REPEAT marker (DEDUCED, log 87). -/
def State.inWindow (s : State) (p t payload : Nat) : Bool :=
  !s.tick.marked || s.tick.lossHeld || s.tick.inGap || s.tick.repeatAt.isSome || !s.tick.steady || bit payload 42 ||
  (match s.tick.next with | some n => decide (absDiff (s.markerTick p t payload).1 n ≤ 6400) | none => true)

/-- R288: a marker arrives at the selected port, or at a standby's pair port: it is followed, or counts as missing. -/
def State.ownMarker (s : State) (p payload t : Nat) : State :=
  let ok := markerOk payload
  let s := if ok && s.io.isTile then s.select p else s
  if ok && s.inWindow p t payload then s.followMarker p t payload else s.missMarker

/-- R288: a marker arrives at a port that is not selected: with its second consecutive valid marker the tile switches to it, when
the selected port has missed three. -/
def State.otherMarker (s : State) (p payload t : Nat) : State :=
  if markerOk payload && decide (2 ≤ (s.portRun p).2) && decide (3 ≤ (s.portRun (s.selected.getD 0)).1) then
    ((s.select p).on (·.fireObj 266 (some 0) p)).followMarker p t payload
  else s

/-- A marker at instant `t` counts in the runs of its port; a damaged word counts as an error of the port (R278). -/
def State.countMarker (s : State) (p payload t : Nat) : State :=
  let s := s.on (·.at t)
  let s := if !wordOk payload && decide (p ≠ pairPort) then s.cwError p else s
  if markerOk payload then s.setPortRun p 0 ((s.portRun p).2 + 1) else s.setPortRun p ((s.portRun p).1 + 1) 0

/-- R80, R82, R287, R288: a tick-marker word arrives at a tile's chain port, or at a standby's pair port, at instant `t`. -/
def State.markerReceived (s : State) (p payload t : Nat) : State :=
  if !s.follows || decide (p ≠ pairPort) != s.io.isTile then s
  else
    let s := s.countMarker p payload t
    let s := if !s.io.isTile || s.selected == some p || s.selected == none then s.ownMarker p payload t else s.otherMarker p payload t
    s.repeatWord p payload

/-- R82: no marker arrives at port `p` for a predicted tick; the tick is raised at the predicted instant. -/
def State.markerMissing (s : State) (p : Nat) : State :=
  if !s.follows || !s.tick.marked then s
  else
    let (m, _) := s.portRun p
    let s := s.setPortRun p (m + 1) 0
    let mine := !s.io.isTile || s.selected == some p || s.selected == none
    if mine then s.missMarker else s

/-! ### Hop delays -/

/-- A bulk packet waits for room in the chain's windows (R284). -/
def State.queueBulk (s : State) (chain : Nat) (bs : List Byte) : State :=
  let pt := s.link.ports.getD chain {}
  { s with link := { s.link with ports := setNth s.link.ports chain { pt with bulk := pt.bulk ++ [bs] } } }

/-- The route of a chain. -/
def State.route (s : State) (chain : Nat) : Option Route := s.plan.routes.find? (·.chain == chain)

/-- A return packet waits in a tile to be sent (R291). -/
def State.queueReturn (s : State) (ptype : Nat) (payload : List Byte) : State :=
  { s with link := { s.link with waiting := s.link.waiting ++ [{ ptype := ptype, payload := payload, seq := none, sent := 0, repeats := 0 }] } }

/-- The position that the next PROBE slot of a chain probes (R83): 0 to N − 1, then N, the B-end unit, when the chain is a ring. On the pair
port there is the partner alone. -/
def State.probePosition (s : State) (p : Nat) : Nat :=
  match s.route p with
  | some r =>
    let k := ((s.tick.probeNext.find? (·.1 == p)).map (·.2)).getD 0
    if k < r.tiles + flag r.ring then k else 0
  | none => 0

/-- A probe leaves on a chain at `t1`, in 1/8 ns (R83). -/
def State.sendProbe (s : State) (p t1 : Nat) : State :=
  let pos := s.probePosition p
  let s := { s with tick := { s.tick with probes := (p, pos, t1) :: s.tick.probes.filter (fun e => !(e.1 == p && e.2.1 == pos)),
                                          probeNext := (p, pos + 1) :: s.tick.probeNext.filter (·.1 != p) } }
  s.on (·.emit (.control p (probeWord pos)))


/-- This device answers probes for a position that come in on port `p` (R83): a tile at its own, the B-end unit of a ring at N, and a standby
on the pair port. -/
def State.probeMine (s : State) (p pos : Nat) : Bool :=
  if p = pairPort then decide (pJOINING ≤ s.pair) && pos == 0
  else if s.io.isTile then s.isF Fld.CTL_TILE_ADDR_VALID && s.getF Fld.CTL_TILE_ADDR_POSITION == pos
  else !s.transmits p && (match s.route p with | some r => decide (r.ring ∧ r.tiles = pos) | none => false)

/-- R83, R84: a probe arrives at `t2`, and its echo leaves at `t3`, in 1/8 ns; a tile repeats onward a probe that is not addressed to it. -/
def State.probeReceived (s : State) (p payload t2 t3 : Nat) : State :=
  if !wordOk payload then (if p = pairPort then s else (s.cwError p).repeatWord p payload)
  else if wordType payload ≠ 0x08 || (s.io.isTile && !s.forwardFrom p) then s
  else
    let pos := bits payload 8 7
    if s.probeMine p pos then
      let pl := leBytes 3 (t3 - t2) ++ zeros 1 ++ leBytes 3 (s.getF Fld.TCK_REPEAT_H) ++ zeros 1
      if s.io.isTile then s.queueReturn 0x5 pl
      else s.on (·.emit (.cell p (cellBytes 0x5 p pos 0 pl)))
    else s.repeatWord p payload

def execProbeReceived (port payload t2 t3 : Nat) (s : State) : Result := .next (s.probeReceived port payload t2 t3)

/-- The key of a tile in the delay and telemetry lists. -/
def tileKey (chain pos : Nat) : Nat := 64 * chain + pos

/-- R85: four measurements agree within ±1 ns of their mean; the accepted value, rounded down to 1/8 ns (DESIGN CHOICE, log 88). -/
def agreed (ms : List Nat) : Option Nat :=
  let sum := ms.foldl (· + ·) 0
  if ms.length = 4 ∧ ms.all (fun m => decide (absDiff (4 * m) sum ≤ 32)) then some (sum / 4) else none

/-- The delay-assignment packet of a tile (R85, R86): D_A, and D_B from the B-end delay when the chain is a ring and its
parts are known. A unit at the B end assigns what it measures as D_B. -/
def State.delayAssign (s : State) (chain pos : Nat) : List Byte :=
  let i := Fld.TCK_HOP_DELAY_VALUE chain pos
  let d := s.getF i
  let known := s.isF (Fld.TCK_HOP_DELAY_VALID chain pos)
  let h := Sparse.get (fun _ => 0) s.tick.repeatH (tileKey chain pos)
  let endV := s.isF (Fld.TCK_END_DELAY_VALID chain)
  let ring := match s.route chain with | some r => r.ring | none => false
  let b := s.getF (Fld.TCK_END_DELAY_VALUE chain) - d - h
  let (a, va, bv, vb) := if s.endB chain = 1 then (0, false, d, known) else (d, known, b, known && endV && ring)
  packetBytes 0x05 false chain pos (leBytes 3 a ++ leBytes 3 bv ++ leBytes 2 (flag va + 2 * flag vb))

/-- R85, R86: an echo gives a one-way delay, half the round trip rounded down to 1/8 ns (DESIGN CHOICE, log 88); when four in a row agree their mean is accepted, stored and sent to the tile,
and event 41 fires when it differs from the previous one by more than 10 ns. -/
def State.echoDelay (s : State) (chain pos turn h t4 : Nat) : State :=
  match s.tick.probes.find? (fun e => e.1 == chain && e.2.1 == pos) with
  | none => s
  | some (_, _, t1) =>
    let key := tileKey chain pos
    let d := (t4 - t1 - turn) / 2
    let ms := (d :: ((s.tick.measured.find? (·.1 == key)).map (·.2)).getD []).take 4
    let s := { s with tick := { s.tick with
      probes := s.tick.probes.filter (fun e => !(e.1 == chain && e.2.1 == pos)),
      repeatH := Sparse.set (fun _ => 0) s.tick.repeatH key h,
      measured := (key, ms) :: s.tick.measured.filter (fun e => e.1 != key) } }
    match agreed ms with
    | none => s
    | some v =>
      if chain = pairPort then
        { s with tick := { s.tick with measured := s.tick.measured.filter (fun e => e.1 != key) } }.emit
          (.packet pairPort (packetBytes 0x05 false 0 0 (leBytes 3 v ++ zeros 3 ++ leBytes 2 1)))
      else
      let atEnd := match s.route chain with | some r => decide (r.tiles ≤ pos) | none => false
      let moved := if atEnd then s.isF (Fld.TCK_END_DELAY_VALID chain) && decide (80 < absDiff v (s.getF (Fld.TCK_END_DELAY_VALUE chain)))
                   else s.isF (Fld.TCK_HOP_DELAY_VALID chain pos) && decide (80 < absDiff v (s.getF (Fld.TCK_HOP_DELAY_VALUE chain pos)))
      let s := if atEnd then (s.setF (Fld.TCK_END_DELAY_VALUE chain) v).setF (Fld.TCK_END_DELAY_VALID chain) 1
               else (s.setF (Fld.TCK_HOP_DELAY_VALUE chain pos) v).setF (Fld.TCK_HOP_DELAY_VALID chain pos) 1
      let s := { s with tick := { s.tick with measured := s.tick.measured.filter (fun e => e.1 != key) } }
      let s := if moved then s.on (·.fireObj 41 none (objTile chain pos)) else s
      if atEnd then s else s.queueBulk chain (s.delayAssign chain pos)

/-- R85: a tile takes the delays of a DELAY_ASSIGN payload: the first value for an end at once, later ones by steps. -/
def State.takeDelays (s : State) (payload : List Byte) : State :=
  let va := bit (fieldAt payload 6 2) 0
  let vb := bit (fieldAt payload 6 2) 1
  let a := fieldAt payload 0 3
  let b := fieldAt payload 3 3
  let s := if va then
      let s := if s.isF Fld.TCK_DELAY_A_VALID then s else s.on (fun io => (io.setF Fld.TCK_DELAY_A_VALUE a).setF Fld.TCK_DELAY_A_VALID 1)
      { s with tick := { s.tick with towardA := a } }
    else s
  if vb then
    let s := if s.isF Fld.TCK_DELAY_B_VALID then s else s.on (fun io => (io.setF Fld.TCK_DELAY_B_VALUE b).setF Fld.TCK_DELAY_B_VALID 1)
    { s with tick := { s.tick with towardB := b } }
  else s

/-! ### Enumeration -/

/-- R23, R81, R279: an ENUM word leaves on an output chain: only while the next tick is more than 100 microseconds away. -/
def State.enumSend (s : State) (p t : Nat) : State :=
  match s.route p, s.tick.next with
  | some r, some n =>
    if s.transmits p && s.portUp p && decide (t + 6400000 < n) then
      let s := s.on (·.at t)
      let hi := (s.tick.number.getD (s.io.tick + 1)) / 2 ^ 24
      let s := { s with link := { s.link with enumSent := p :: s.link.enumSent.filter (· != p) } }
      s.on (·.emit (.control p (enumWord p r.tiles (s.endB p) 0 hi)))
    else s
  | _, _ => s

/-- The position-table entry of an address (R56). -/
def State.positionOf (s : State) (chain pos : Nat) : Option Position :=
  s.plan.positions.find? (fun e => e.chain == chain && e.position == pos)

/-- The position that an ENUM word gives this tile: the hop count from the A end, N − 1 − hop from the B end; none below 0
or at N or above (R23, R24), and none where N is not from 1 to 64 (R278). -/
def enumPosition (payload : Nat) : Option Nat :=
  let n := bits payload 12 7
  let hop := bits payload 20 7
  if n ≤ hop ∨ 64 < n then none else if bit payload 19 then some (n - 1 - hop) else some hop

/-- R23: the ENUM word goes on with HOP increased, and the tile learns its chain's tile count. -/
def State.passEnum (s : State) (p payload : Nat) : State :=
  let onward := enumWord (bits payload 8 4) (bits payload 12 7) (bits payload 19 1) (bits payload 20 7 + 1) (bits payload 27 24)
  let s := if s.portUp (1 - p) then s.on (·.emit (.control (1 - p) onward)) else s
  { s with link := { s.link with chainLen := bits payload 12 7 } }

/-- R25: a tile that holds an address checks it against a later word. -/
def State.checkAddress (s : State) (chain pos hi : Nat) : State :=
  let next := s.tick.number.getD (s.io.tick + 1)
  if s.getF Fld.CTL_TILE_ADDR_POSITION ≠ pos ∨ s.getF Fld.CTL_TILE_ADDR_CHAIN ≠ chain ∨ next / 2 ^ 24 ≠ hi then s.on (·.fire 2) else s

/-- R26, R81: a tile that holds no address takes one, records the port that faces the sending end, and extends its tick number. -/
def State.takeAddress (s : State) (p chain pos endB hi : Nat) : State :=
  let up := if endB = 0 then p else 1 - p
  let s := s.on (·.setReg Reg.CTL_TILE_ADDR (BitVec.ofNat 32 (pos + 2 ^ 6 * chain + 2 ^ 10 * up + 2 ^ 11)))
  let next := s.tick.number.getD (s.io.tick + 1)
  let fixed := hi * 2 ^ 24 + next % 2 ^ 24
  let s := if s.tick.marked then
      { s with tick := { s.tick with number := s.tick.number.map (fun _ => fixed) },
               io := s.io.setWide Fld.TCK_COUNT_LO Fld.TCK_COUNT_HI ((fixed + 2 ^ 48 - 1 - (next - (s.io.tick + 1))) % 2 ^ 48) }
    else { s with tick := { s.tick with tickHi := hi } }
  if (s.positionOf chain pos).isSome then s else s.on (·.fire 2)

/-- R23 to R25, R56, R81: a tile takes its address from the first ENUM word, or checks it against a later one, and passes
the word on with HOP increased. -/
def State.enumReceived (s : State) (p payload : Nat) : State :=
  if !s.io.isTile then s
  else if !wordOk payload || wordType payload ≠ 0x09 then (s.cwError p).repeatWord p payload
  else
    match enumPosition payload with
    | none => (s.passEnum p payload).on (·.fire 2)
    | some pos =>
      if s.isF Fld.CTL_TILE_ADDR_VALID then (s.passEnum p payload).checkAddress (bits payload 8 4) pos (bits payload 27 24)
      else (s.passEnum p payload).takeAddress p (bits payload 8 4) pos (bits payload 19 1) (bits payload 27 24)

/-! ### Slots -/

/-- Slot `i` of region `n`'s table in force. -/
def State.slot (s : State) (n i : Nat) : Option Slot := ((s.rset s.rateSet).tables.getD n []).drop i |>.head?

/-- The lane record of a region (R90). -/
def State.laneOf (s : State) (n l : Nat) : Lane :=
  (s.tick.lanes.find? (fun e => e.region == n && e.lane == l)).getD { region := n, lane := l, late := 0, prevEnd := 0, running := none }

/-- The BUSY bit of the cell that a lane is (R247, R248, R358): encoder, decoder and lamp cells have one. -/
def busyBit (n l : Nat) : Option (Field × Nat) :=
  if 5 ≤ l ∧ l ≤ 8 then some (Fld.ENC_CELL_STAT_BUSY n, l - 5)
  else if l = 9 ∨ l = 10 then some (Fld.DEC_CELL_STAT_BUSY n, l - 9)
  else if l = 11 ∨ l = 12 then some (Fld.LMP_CELL_STAT_BUSY n, l - 11)
  else none

/-- The hardware signal that is high while a slot runs in a lane (R516): a decoder cell busy, a lamp cell busy, a driver group loading. -/
def laneSignal (l : Nat) : Option Nat :=
  if l = 9 ∨ l = 10 then some 2 else if l = 11 ∨ l = 12 then some 3 else if 13 ≤ l ∧ l ≤ 24 then some 4 else none

/-- Signal `k` is high: a slot runs in one of its lanes, in any region. -/
def State.laneHigh (s : State) (k : Nat) : Bool := s.tick.lanes.any (fun e => laneSignal e.lane == some k && e.running.isSome)

/-- A signal rises that was not high in `s` and is in `t` (R515, R516). -/
def State.laneEdge (s t : State) (l : Nat) : State :=
  match laneSignal l with
  | some k => if !s.laneHigh k && t.laneHigh k then t.on (·.pulse k) else t
  | none => t

/-- A lane's record replaced; its cell is busy while a slot runs in the lane. -/
def State.setLane (s : State) (e : Lane) : State :=
  let was := s
  let s := { s with tick := { s.tick with lanes := e :: s.tick.lanes.filter (fun f => !(f.region == e.region && f.lane == e.lane)) } }
  match busyBit e.region e.lane with
  | some (f, i) => was.laneEdge (s.on (fun io => io.setF f (putBits (io.getF f) i 1 (flag e.running.isSome)))) e.lane
  | none => was.laneEdge s e.lane

/-- The slots that run in lanes of a region end with no effect, and a rate-set switch waits for them no longer (R96, R525). -/
def State.idleLanes (s : State) (n : Nat) (ls : List Nat) : State :=
  (ls.foldl (fun (s : State) l =>
    let e := s.laneOf n l
    if e.running.isSome then s.setLane { e with running := none } else s) s).finishSwitch

/-- A slot that may start now: not in a repeat gap, not while the tables of a new rate set wait (R96), and not in a tile that has raised no
tick (R82). -/
def State.dueSlot (s : State) (n i : Nat) : Option Slot :=
  if s.tick.inGap || s.tick.switching.isSome || (s.io.isTile && !s.tick.marked) then none else s.slot n i

/-- A cut slot withdraws the requests that it has not issued (R138), and composes no further row. -/
def State.withdrawSlot (s : State) (n l slot : Nat) : State :=
  { s with io := (s.io.withdraw (.slot n slot)).withdraw (.cell n l),
           video := { s.video with composing := s.video.composing.filter (fun c => !(c.region == n && c.slot == slot)) } }

/-- R95: the elastic slot that runs in a lane is cut by a fixed slot: counted, with event 40. -/
def State.cutLane (s : State) (n l : Nat) : State :=
  let e := s.laneOf n l
  match e.running with
  | none => s
  | some r => ((s.withdrawSlot n l r.slot).setLane { e with running := none }).on (fun io => (io.bumpF (Fld.TCK_CUT_COUNT n)).fireObj 40 (some n) 0 (leBytes 2 r.slot))

/-- TCK_SLOT_STAT.LATE shows whether some lane of a region carries lateness (R99). -/
def State.showLate (s : State) (n : Nat) : State :=
  s.on (·.setF (Fld.TCK_SLOT_STAT_LATE n) (flag (s.tick.lanes.any (fun l => l.region == n && decide (0 < l.late)))))

/-- R93, R94: when an elastic slot starts and what it is allotted, in SU after its tick: in a lane whose previous slot ended at `prev` and that
carries `lam`; `dep` is the end of its DEP slot. -/
def slotStart (sl : Slot) (prev dep : Nat) : Nat := max sl.nomStart (max prev (if sl.depValid then dep else 0))
def allotment (sl : Slot) (lam : Nat) : Nat := max sl.minDur (sl.nomDur - lam)

/-- An elastic slot starts in its lane (R93). `late`: it belongs to the period before (R96). -/
def State.startElastic (s : State) (n i : Nat) (sl : Slot) (late : Bool) : State :=
  let e := s.laneOf n sl.lane
  let base := if late then s.period / 256 else 0
  let dep := ((s.tick.ends.find? (fun x => x.1 == n && x.2.1 == sl.dep)).map (·.2.2)).getD 0
  s.setLane { e with running := some { slot := i, entry := sl, start := slotStart sl (e.prevEnd + base) dep, allot := allotment sl e.late, base := base } }

/-- A fixed slot starts at its NOM_START and lasts NOM_DUR (R91): it cuts what runs in its lane, which is on time after it. -/
def State.startFixed (s : State) (n : Nat) (sl : Slot) : State :=
  let s := s.cutLane n sl.lane
  ((s.setLane { region := n, lane := sl.lane, late := 0, prevEnd := sl.nomStart + sl.nomDur, running := none }).showLate n).finishSwitch

/-- A slot of a region is the one most recently started (R99), and occupies its lane. -/
def State.startSlot (s : State) (n i : Nat) (elastic : Bool) (late : Bool := false) : State :=
  let s := s.on (·.setF (Fld.TCK_SLOT_STAT_CURRENT n) i)
  match s.slot n i with
  | some sl => if elastic then s.startElastic n i sl late else s.startFixed n sl
  | none => s

/-- The first slot of a fixed kind on a lane of a region starts, where the table has one. -/
def State.startKind (s : State) (n kind lane : Nat) : State :=
  match s.slotOn n kind lane with | some i => s.startSlot n i false | none => s

/-- R94: the elastic slot that runs in a lane completes at `fin` SU after the present tick. -/
def State.slotEnd (s : State) (n : Nat) (e : Lane) (r : Running) (fin : Nat) : State :=
  let endAt := fin + r.base
  let lam := endAt - (r.entry.nomStart + r.entry.nomDur)
  let s := s.setLane { e with late := lam, prevEnd := fin, running := none }
  let s := { s with tick := { s.tick with ends := if r.base = 0 then (n, r.slot, fin) :: s.tick.ends else s.tick.ends,
                                          lateMax := setNth s.tick.lateMax n (max (nth s.tick.lateMax n) lam) } }
  let s := s.showLate n
  let s := if r.allot < endAt - r.start then s.on (fun io => (io.bumpF (Fld.TCK_OVERRUN_COUNT n)).fireObj 39 (some n) 0 (leBytes 2 r.slot)) else s
  s.finishSwitch

/-- R94: an elastic slot of a region completes at `fin` SU after the tick. -/
def State.slotComplete (s : State) (n i fin : Nat) : State :=
  match s.tick.lanes.find? (fun e => e.region == n && (e.running.map (·.slot)) == some i) with
  | some e => match e.running with | some r => s.slotEnd n e r fin | none => s
  | none => s

def execElasticSlotComplete (region slot fin : Nat) (s : State) : Result := .next (s.slotComplete region slot fin)

/-! ### The slots of markers and probes -/

/-- R78: the MARKER slot of a chain port sends the marker of the next tick, with its OFFSET_UI from 0 to 65; on the pair port the active unit
sends it (R306). -/
def execTickMarkerSend (port offset : Nat) (s : State) : Result :=
  .next (
    if !s.sendsTime port ∨ 65 < offset then s
    else if port = pairPort then s.markerSend port offset
    else match s.slotOn (port / 4) 0x08 (25 + port % 4) with
      | some i => (s.startSlot (port / 4) i false).markerSend port offset
      | none => s)

/-- R83: the PROBE slot of a chain port sends a probe to the position whose turn it is, at `t1`, in 1/8 ns; on the pair port the active
unit sends it (R306). -/
def execDelayProbe (port position t1 : Nat) (s : State) : Result :=
  .next (
    if !s.sendsTime port || position != s.probePosition port then s
    else if port = pairPort then s.sendProbe port t1
    else if s.tick.inGap then s
    else match s.slotOn (port / 4) 0x0F (25 + port % 4) with
      | some i => (s.startSlot (port / 4) i false).sendProbe port t1
      | none => s)

end Sys2Proof.Machine
end

