-- ==== Sys2Proof/Machine/PairBase.lean ====
section
/-! DEFINITION. The pair port's packets (R304), the loss of the pair link, and the handing over of the service (R313, R529). The
pair port trains as a chain port does (R303): the model keeps it as port 16 of the link, whose register block no bus address
reaches. -/

namespace Sys2Proof.Machine

/-- The pair part of the state replaced. -/
def State.onPair (s : State) (f : PairUnit → PairUnit) : State := { s with pairUnit := f s.pairUnit }

/-- An excusing event on a port in this period (R311). -/
def State.excusePort (s : State) (p : Nat) : State :=
  s.onPair (fun u => { u with excuse := if u.excuse.contains p then u.excuse else p :: u.excuse })

/-- The image makes this unit one of a pair (R324). -/
def State.paired (s : State) : Bool := s.isF Fld.CTL_IMG_INFO_PAIR_IMAGE && s.isF Fld.CTL_VARIANT_PAIR_PORT

/-- PAIR_STATE.STATE changes, with event 288. -/
def State.setPairState (s : State) (st : Nat) : State :=
  if s.pair = st then s else ((s.setF Fld.PAIR_STATE_STATE st).showSource).fire 288

/-- The pair link is up. -/
def State.pairLink (s : State) : Bool := s.isF Fld.PAIR_STATE_LINK

/-- A pair packet is sent under the next PSEQ and awaits its acknowledgement (R304). -/
def State.sendPair (s : State) (ptype : Nat) (body : List Byte) : State :=
  if !s.pairLink then s
  else
    let q := s.pairUnit.txSeq
    let pl := leBytes 4 q ++ body
    let s := s.onPair (fun u => { u with txSeq := (q + 1) % 2 ^ 32, sent := u.sent ++ [{ pseq := q, ptype := ptype, payload := pl, repeats := 0 }] })
    s.emit (.pair ptype pl)

/-- A PAIR_ACK (R304); it carries the next PSEQ and takes none (log 22). -/
def State.sendPairAck (s : State) (pseq : Nat) : State := s.emit (.pair 0x18 (leBytes 4 s.pairUnit.txSeq ++ leBytes 4 pseq))

/-- A pair packet arrives with a payload: it is acknowledged; its body, when it is the next in PSEQ order (R304). -/
def State.takePair (s : State) (payload : List Byte) : State × Option (List Byte) :=
  let q := fieldAt payload 0 4
  if !s.pairLink then (s, none)
  else if q = s.pairUnit.rxSeq then
    ((s.onPair (fun u => { u with rxSeq := (q + 1) % 2 ^ 32 })).sendPairAck q, some (payload.drop 4))
  else if (s.pairUnit.rxSeq + 2 ^ 32 - q) % 2 ^ 32 < 2 ^ 31 then (s.sendPairAck q, none)
  else (s, none)

/-- JOIN_PHASE changes. -/
def State.joinPhase (s : State) (p : Nat) : State := s.setF Fld.PAIR_STATE_JOIN_PHASE p

/-- The unit returns to STANDBY_JOINING: its comparisons stop (R309, R314, R320). -/
def State.toJoining (s : State) : State :=
  let s := ((s.setPairState pJOINING).joinPhase 0).setF Fld.PAIR_CLEAN 0
  s.onPair (fun u => { u with lockstep := false, joinCycle := none, expect := [], early := [], frameBad := [], deposeSeq := none, trigger := none })

/-- The unit leaves lockstep while its port is UP: it first sends READ_DONE with the greatest tick (R308). -/
def State.leaveLockstep (s : State) : State :=
  let s := if s.pairUnit.lockstep && s.pair ≠ pACTIVE then s.sendPair 0x19 (leBytes 6 (2 ^ 48 - 1)) else s
  s.toJoining

/-- R304: the pair link is lost. A SUSPECT or joining unit returns to STANDBY_JOINING (R320). -/
def State.pairLost (s : State) : State :=
  if !s.pairLink then s
  else
    let s := ((s.setF Fld.PAIR_STATE_LINK 0).bumpF Fld.PAIR_LINK_LOSSES).fire 296
    let s := s.onPair (fun u => { u with sent := [], snapshotSeq := none, snapshotDue := false,
                                         lockstep := if s.pair = pACTIVE then false else u.lockstep })
    let s := if s.pair = pSUSPECT then s.alert 2 false else s
    if s.pair = pSUSPECT ∨ s.pair = pJOINING then s.toJoining else s

/-- R313, R475, R529: an ACTIVE unit resigns with HANDOVER CAUSE 2; every unit silences its forward drivers. -/
def State.resign (s : State) : State :=
  let s := if s.pair = pACTIVE then s.sendPair 0x17 (leBytes 6 s.io.tick ++ leBytes 1 2) else s
  { s with boot := { s.boot with silent := true } }

end Sys2Proof.Machine
end

