-- ==== Sys2Proof/Machine/Link.lean ====
section
/-! DEFINITION. The chain link (R274 to R302): training and retraining, adaptation, transmit windows, forward packets, return
cells and their acknowledgement, and remote register entries at the Sender. -/

namespace Sys2Proof.Machine

/-- Chain port `p`'s record. -/
def State.port (s : State) (p : Nat) : Port := s.link.ports.getD p {}

/-- Chain port `p`'s record replaced. -/
def State.setPort (s : State) (p : Nat) (v : Port) : State := { s with link := { s.link with ports := setNth s.link.ports p v } }

/-- The rate that a port offers in its TS words (R295): 3 is no offer. -/
def State.offer (s : State) (p : Nat) : Nat :=
  if s.io.isTile then (if s.portUp (1 - p) then s.getF (Fld.LNK_STATE_RATE_NOW 0 (1 - p)) else 3)
  else min 2 (s.getF (Fld.LNK_PORT_CFG_RATE (p / 4) (p % 4)))

/-- A port starts a set of attempts (R295, R299) in a shown state. -/
def State.startAttempts (s : State) (p state : Nat) : State :=
  let s := (s.portF Fld.LNK_STATE_STATE p state).portF Fld.LNK_STATE_ATTEMPT p 0
  (s.setPort p { s.port p with trying := true, ts2 := false, agreed := false, idle := false, farOffer := 3 }).on (·.emit (.training p 1))

/-- An UP port begins retraining (R299): traffic stops, TS1 is sent, and event 258 fires. -/
def State.retrain (s : State) (p : Nat) : State :=
  if !s.portUp p then s
  else
    let s := (s.startAttempts p 3).portBump Fld.LNK_RETRAINS p
    let s := s.setPort p { s.port p with low := 0, adopt := none, carried := [] }
    let s := if p = pairPort then s.pairLost else s
    ((s.excusePort p).firePort 258 p).updateOrigin

/-- An attempt fails (R295, R299): the third leaves the port DOWN with event 257. -/
def State.attemptFailed (s : State) (p : Nat) : State :=
  if !(s.port p).trying then s
  else
    let k := s.getF (Fld.LNK_STATE_ATTEMPT (p / 4) (p % 4)) + 1
    let s := s.portF Fld.LNK_STATE_ATTEMPT p k
    let s := s.setPort p { s.port p with ts2 := false, agreed := false, idle := false, trying := false }
    if k < 3 then s else (s.portF Fld.LNK_STATE_STATE p 4).firePort 257 p

/-- R275, R276: word lock is lost: counted, with event 259 at most once per port per period, and an UP port retrains. `invalid` headers have
been found since the last loss, among them the 16 of this one; each is counted. -/
def State.wordLockLoss (s : State) (p invalid : Nat) : State :=
  if s.portState p = 0 then s
  else
    let s := s.on (·.bumpF (Fld.LNK_WORD_ERR (p / 4) (p % 4)) (max 16 invalid))
    (((s.portBump Fld.LNK_LOCK_LOSS p).firePortOnce 259 p).excusePort p).retrain p

def execWordLockLoss (port : Nat) (s : State) (invalid : Nat := 16) : Result := .next (s.wordLockLoss port invalid)

/-- R299: the forwarded clock of an UP port is lost. -/
def execRxClockLost (port : Nat) (s : State) : Result :=
  .next (s.retrain port)

/-- R299: a TS1 word arrives at an UP port. -/
def execTs1Received (port : Nat) (s : State) : Result := .next (s.retrain port)

/-- Equalisation starts at the agreed rate (R295 step 6): from the learned record when it is valid for the port and the rate, from the image
preset otherwise, with the preset's transmit de-emphasis. An Umber device keeps the settings of R488. -/
def State.equaliseFrom (s : State) (p rate : Nat) : State :=
  if s.io.boot = stUMBER then s
  else
    let preset := Config.lanePreset (s.sectOr 0x000B) p rate
    let start := match (s.port p).record with
      | some (r :: old) => if r = rate then old else preset.drop 1
      | _ => preset.drop 1
    s.on (fun io => ((((io.setF (Fld.LNK_PORT_CFG_TX_PRESET (p / 4) (p % 4)) (nth preset 0)).setF (Fld.LNK_FOM_CTLE (p / 4) (p % 4)) (nth start 0)).setF
      (Fld.LNK_DFE_TAP1 (p / 4) (p % 4)) (nth start 1)).setF (Fld.LNK_DFE_TAP2 (p / 4) (p % 4)) (nth start 2)).setF (Fld.LNK_DFE_TAP3 (p / 4) (p % 4)) (nth start 3))

/-- R295: 8 consecutive valid TS words have arrived, TS1 or TS2, with the far side's offer. After TS words the port sends
TS2; after TS2 words, when either side offers a rate, both switch to the lower offer. -/
def State.tsWords (s : State) (p : Nat) (ts2 : Bool) (offer : Nat) : State :=
  let pt := s.port p
  if !pt.trying || pt.agreed then s
  else
    let s := s.setPort p { pt with ts2 := true, farOffer := offer }
    let s := if pt.ts2 then s else s.on (·.emit (.training p 2))
    let mine := s.offer p
    if ts2 ∧ ¬ (mine = 3 ∧ offer = 3) then
      ((s.setPort p { s.port p with agreed := true }).portF Fld.LNK_STATE_RATE_NOW p (min mine offer)).equaliseFrom p (min mine offer)
    else s

def execTsWordsReceived (port : Nat) (ts2 : Bool) (offer : Nat) (s : State) : Result := .next (s.tsWords port ts2 offer)

/-- R277, R295, R296: equalisation settles with its settings, FOM and measured skew. -/
def State.equalised (s : State) (p ctle t1 t2 t3 fom skew : Nat) : State :=
  if !(s.port p).trying || !(s.port p).agreed then s
  else
    let s := s.on (fun io => (((io.setF (Fld.LNK_FOM_CTLE (p / 4) (p % 4)) ctle).setF (Fld.LNK_DFE_TAP1 (p / 4) (p % 4)) t1).setF
      (Fld.LNK_DFE_TAP2 (p / 4) (p % 4)) t2).setF (Fld.LNK_DFE_TAP3 (p / 4) (p % 4)) t3)
    let s := (s.portF Fld.LNK_DESKEW_SKEW p skew).portF Fld.LNK_FOM_FOM p fom
    if s.getF Fld.LNK_EQ_CFG_FOM_MIN ≤ fom then s.setPort p { s.port p with idle := true } else s.attemptFailed p

/-- The settings of a port: CTLE and the three taps. -/
def State.eqSettings (s : State) (p : Nat) : List Nat :=
  [s.getF (Fld.LNK_FOM_CTLE (p / 4) (p % 4)), s.getF (Fld.LNK_DFE_TAP1 (p / 4) (p % 4)),
   s.getF (Fld.LNK_DFE_TAP2 (p / 4) (p % 4)), s.getF (Fld.LNK_DFE_TAP3 (p / 4) (p % 4))]

/-- Two lists of settings differ by more than one step in some setting (R298): CTLE unsigned, the taps in two's complement. -/
def settingsDiffer (r now : List Nat) : Bool :=
  (List.range 4).any (fun i =>
    let w := match i with | 1 => 6 | _ => 5
    let a : Int := if i = 0 then (nth now i : Int) else signed w (nth now i)
    let b : Int := if i = 0 then (nth r i : Int) else signed w (nth r i)
    decide (1 < (a - b).natAbs))

/-- R295: 1,024 words that are not TS words: the port is UP, with event 256. A tile reports its repeat latency `h`. -/
def State.portComesUp (s : State) (p h : Nat) : State :=
  if !(s.port p).idle then s
  else
    let s := (s.portF Fld.LNK_STATE_STATE p 2).portF Fld.LNK_STATE_ATTEMPT p 0
    let s := s.portF Fld.LNK_FOM_FOM_LOW p (s.getF (Fld.LNK_FOM_FOM (p / 4) (p % 4)))
    let s := s.setPort p { s.port p with wasUp := true, trying := false, idle := false, ts2 := false, agreed := false, low := 0, alignSeq := 0 }
    let s := if s.io.isTile then s.on (·.setF Fld.TCK_REPEAT_H h) else s
    let s := { s with link := { s.link with enumSent := s.link.enumSent.filter (· != p) } }
    (s.firePort 256 p).updateOrigin

/-- R299: 10 ms after a failed attempt the next one starts. -/
def execTrainingRetryTimer (port : Nat) (s : State) : Result :=
  .next (
    let st := s.portState port
    if (st = 1 ∨ st = 3) ∧ !(s.port port).trying then
      (s.setPort port { s.port port with trying := true, farOffer := 3 }).on (·.emit (.training port 1))
    else s)

/-- R299: the receive clock of a port shows activity after at least 10 ms without any: a DOWN port starts a new set. -/
def execRxClockActivity (port : Nat) (s : State) : Result :=
  .next (if s.portState port = 4 then s.startAttempts port (if (s.port port).wasUp then 3 else 1) else s)

/-! ### Adaptation -/

/-- Candidate `k` of R297 applied to settings, when it stays in range: CTLE 0 to 15, TAP1 −32 to 31, TAP2 and TAP3 −16 to 15. -/
def eqCandidate (k : Nat) (cfg : List Nat) : Option (List Nat) :=
  let i := k / 2
  let up := k % 2 = 0
  let v := nth cfg i
  match i with
  | 0 => if up then (if v < 15 then some (setNth cfg 0 (v + 1)) else none) else (if 0 < v then some (setNth cfg 0 (v - 1)) else none)
  | _ =>
    let w := if i = 1 then 6 else 5
    let x := signed w v + (if up then 1 else -1)
    if x < -(2 ^ (w - 1) : Int) ∨ (2 ^ (w - 1) : Int) ≤ x then none else some (setNth cfg i (unsigned w x))

/-- The next candidate in R297's order whose settings stay in range. -/
def nextCandidate (cfg : List Nat) : Nat → Nat → Nat
  | 0, k => k
  | f + 1, k => let k' := (k + 1) % 8; if (eqCandidate k' cfg).isSome then k' else nextCandidate cfg f k'

/-- R296, R297, R299: the eye monitor measures the main settings, or the current candidate. -/
def State.fomMeasured (s : State) (p : Nat) (main : Bool) (ew eh : Nat) : State :=
  if !s.portUp p then s
  else
    let fom := min (min ew eh) 255
    let pt := s.port p
    if main then
      let s := s.portF Fld.LNK_FOM_FOM p fom
      let s := s.portF Fld.LNK_FOM_FOM_LOW p (min fom (s.getF (Fld.LNK_FOM_FOM_LOW (p / 4) (p % 4))))
      if fom < s.getF Fld.LNK_EQ_CFG_FOM_DOWN then
        let s := (s.setPort p { s.port p with low := pt.low + 1 }).firePortOnce 262 p
        if max 1 (s.getF Fld.LNK_EQ_CFG_DOWN_COUNT) ≤ pt.low + 1 then s.retrain p else s
      else s.setPort p { s.port p with low := 0 }
    else
      let better := decide (s.getF (Fld.LNK_FOM_FOM (p / 4) (p % 4)) + max 1 (s.getF Fld.LNK_EQ_CFG_HYST) ≤ fom)
      s.setPort p { pt with adopt := if better then some pt.candidate else none, candidate := nextCandidate (s.eqSettings p) 8 pt.candidate }

def execFomMeasurement (port : Nat) (main : Bool) (ew eh : Nat) (s : State) : Result := .next (s.fomMeasured port main ew eh)

/-- R297: a better candidate is adopted on the word that follows the next ALIGN word. -/
def State.eqAdopt (s : State) (p : Nat) : State :=
  match (s.port p).adopt with
  | none => s
  | some k =>
    let s := s.setPort p { s.port p with adopt := none }
    match eqCandidate k (s.eqSettings p) with
    | none => s
    | some c =>
      let s := (s.portF Fld.LNK_FOM_CTLE p (nth c 0)).portF Fld.LNK_DFE_TAP1 p (nth c 1)
      let s := (s.portF Fld.LNK_DFE_TAP2 p (nth c 2)).portF Fld.LNK_DFE_TAP3 p (nth c 3)
      (s.portBump Fld.LNK_EQ_STEPS p).on (·.emit (.equaliser p c))

def execEqStepAdopt (port : Nat) (s : State) : Result := .next (s.eqAdopt port)

/-- R279: the originator of a direction sends the ALIGN word of a period. -/
def State.alignSend (s : State) (p : Nat) : State :=
  if !s.portUp p || !(s.transmits p || s.originates p) then s
  else
    let pt := s.port p
    (s.setPort p { pt with alignSeq := (pt.alignSeq + 1) % 2 ^ 16 }).on (·.emit (.control p (alignWord pt.alignSeq)))

def execAlignSend (port : Nat) (s : State) : Result := .next (s.alignSend port)

/-! ### Transmit windows -/

/-- Picoseconds of one word of 66 bits at a rate code. -/
def wordTime (rate : Nat) : Nat := 66 * (match rate with | 0 => 320 | 1 => 160 | _ => 80)

/-- The packet bytes that a window of `dur` SU carries with `m` control words inside it (R284). -/
def windowBytes (dur rate m : Nat) : Nat := 8 * (dur * 4000 / wordTime rate - 2 - m)

/-- Whole bulk packets that end inside the room left, in order: those placed, those left, and the room then left (R284). -/
def placeBulk : List (List Byte) → Nat → List (List Byte) × List (List Byte) × Nat
  | [], room => ([], [], room)
  | b :: t, room =>
    if b.length ≤ room then
      let (p, l, r) := placeBulk t (room - b.length)
      (b :: p, l, r)
    else ([], b :: t, room)

/-- Video packets into the room left: those sent whole or in part, those left, what a broken packet still owes, and the room
then left (R284). -/
def placeVideo : List (List Byte) → Nat → List (List Byte) × List (List Byte) × List Byte × Nat
  | [], room => ([], [], [], room)
  | b :: t, room =>
    if room = 0 then ([], b :: t, [], 0)
    else if b.length ≤ room then
      let (p, l, c, r) := placeVideo t (room - b.length)
      (b :: p, l, c, r)
    else ([b.take room], t, b.drop room, 0)

/-- The packets of the ACK entries that wait for a chain: up to 64 entries each, broadcast (R292). -/
def ackPackets : Nat → List Nat → List (List Byte)
  | 0, _ => []
  | _, [] => []
  | k + 1, es => packetBytes 0x03 true 0 0 ((es.take 64).flatMap (leBytes 4)) :: ackPackets k (es.drop 64)

/-- The slot is the last VIDEO window of its chain in the period (R284). -/
def State.lastVideo (s : State) (n i : Nat) (lane : Nat) : Bool :=
  !(((s.rset s.rateSet).tables.getD n []).drop (i + 1)).any (fun sl => sl.kind == 0x03 && sl.lane == lane && sl.operand % 4 == 0)

/-- The last VIDEO window of a chain port's lane in the tables in force, by slot index (R284). -/
def State.lastWindow (s : State) (n lane : Nat) : Nat :=
  let t := (s.rset s.rateSet).tables.getD n []
  ((List.range t.length).filter (fun i => match t[i]? with | some sl => sl.kind == 0x03 && sl.lane == lane && sl.operand % 4 == 0 | none => false)).getLast?.getD 0

/-- A SLOT_MASK command placed in a BULK window of period j gets APPLY = j + 1 (R427); other packets go as they are. The mask's
entry completes at that tick. -/
def State.stampMask (s : State) (bs : List Byte) : State × List Byte :=
  match readPacket bs with
  | .packet h pl _ =>
    if h.ptype ≠ 7 ∨ fieldAt pl 0 1 ≠ 4 then (s, bs)
    else
      let at_ := s.io.tick + 1
      let mine := fun (m : MaskOrder) => m.apply.isNone && m.target == h.chain && m.cls == fieldAt pl 4 1 && m.port == fieldAt pl 5 1 && m.mask == fieldAt pl 6 4
      let masks := s.audio.masks.map (fun m => if mine m then { m with apply := some at_ } else m)
      ({ s with audio := { s.audio with masks := masks } },
        packetBytes h.ptype h.bcast h.chain h.position (sub pl 0 10 ++ leBytes 6 at_))
  | .badHeader => (s, bs)

/-- The packets of a window as they leave. -/
def State.stampMasks : State → List (List Byte) → State × List (List Byte)
  | s, [] => (s, [])
  | s, b :: t =>
    let (s, b) := s.stampMask b
    let (s, t) := s.stampMasks t
    (s, b :: t)

/-- R284: a transmit window opens a burst and fills it with its class's packets; `m` is the number of ALIGN words that fall
inside it. A segment that misses its chain's last VIDEO window is cut (R95). -/
def State.transmitWindow (s : State) (n i m : Nat) : State :=
  match s.dueSlot n i with
  | none => s
  | some sl =>
    let p := 4 * n + (sl.lane - 25)
    if sl.kind ≠ 0x03 ∨ sl.lane < 25 ∨ 28 < sl.lane ∨ !s.transmits p ∨ !s.portUp p then s
    else
      let s := s.startSlot n i false
      let pt := s.port p
      let room := windowBytes sl.nomDur (s.getF (Fld.LNK_STATE_RATE_NOW n (p % 4))) m
      let acks := ackPackets (s.link.acks.length + 1) ((s.link.acks.filter (fun a => a.1 == p)).map (·.2))
      let isVideo := decide (sl.operand % 4 = 0)
      let cont := isVideo && !pt.carried.isEmpty
      let (v, vl, vc, room) :=
        if isVideo then placeVideo ((if pt.carried.isEmpty then [] else [pt.carried]) ++ pt.video) room else ([], pt.video, pt.carried, room)
      let bulkOk := !isVideo || (vl.isEmpty && vc.isEmpty && pt.videoLeft == 0)
      let (b, bl, _) := if bulkOk then placeBulk (acks ++ pt.bulk) room else ([], acks ++ pt.bulk, room)
      let abort := isVideo && s.lastVideo n i sl.lane && !vc.isEmpty
      let missed := if isVideo && s.lastVideo n i sl.lane then vl.length + flag (!vc.isEmpty) else 0
      let (s, b) := s.stampMasks b
      let sent := v ++ b
      let fill4 := decide (((sent.map List.length).foldl (· + ·) 0) % 8 = 4)
      let s := s.on (·.emit (.control p (sobWord cont)))
      let s := sent.foldl (fun s q => s.on (·.emit (.packet p q))) s
      let s := s.on (·.emit (.control p (eobWord abort fill4)))
      let s := if s.pair = pACTIVE ∧ s.pairUnit.splitChains.contains p
        then b.foldl (fun s q => s.sendPair 0x15 (leBytes 1 p ++ zeros 3 ++ q)) s else s
      let s := { s with link := { s.link with acks := s.link.acks.filter (fun a => a.1 != p) } }
      let s := s.setPort p { s.port p with video := if missed = 0 then vl else [], carried := if missed = 0 then vc else [], bulk := bl }
      (List.range missed).foldl (fun s _ => s.on (fun io => (io.bumpF (Fld.TCK_CUT_COUNT n)).fireObj 40 (some n) 0 (leBytes 2 i))) s

/-! ### Forward packets at a tile -/

/-- Whether a tile keeps a packet (R285): it is broadcast, or it names the tile's address. -/
def State.keeps (s : State) (h : PacketHead) : Bool :=
  h.bcast || (s.isF Fld.CTL_TILE_ADDR_VALID && s.getF Fld.CTL_TILE_ADDR_CHAIN == h.chain && s.getF Fld.CTL_TILE_ADDR_POSITION == h.position)

/-- R27, R287: a tile repeats a packet that comes in on its selected port onward on its other port, where that is UP, without waiting for its
CRC. -/
def State.repeatPacket (s : State) (p : Nat) (bs : List Byte) : State :=
  if s.io.isTile && s.portUp (1 - p) then s.on (·.emit (.packet (1 - p) bs)) else s

/-- R287: a tile repeats a return cell that comes in on the port that is not selected onward on its selected port. -/
def State.repeatCell (s : State) (p : Nat) (bs : List Byte) : State :=
  if s.io.isTile && s.selected == some (1 - p) && s.portUp (1 - p) then s.on (·.emit (.cell (1 - p) bs)) else s

/-- A tile takes a packet from its selected port and repeats it (R285, R287, R288): header and payload CRC failures are counted, with event 260 at
most once per port per period; the header and payload of a packet that can be read, and whether its payload is sound. -/
def State.takePacket (s : State) (p : Nat) (bs : List Byte) : State × Option (PacketHead × List Byte × Bool) :=
  if s.io.isTile && s.selected != some p then (s, none)
  else
    let s := s.repeatPacket p bs
    match readPacket bs with
    | .badHeader => ((s.portBump Fld.LNK_HDR_CRC_ERR p).firePortOnce 260 p, none)
    | .packet h pl ok =>
      let s := if ok then s else (s.portBump Fld.LNK_PAY_CRC_ERR p).firePortOnce 260 p
      (s, some (h, pl, ok))

/-- A packet of type `t` that this tile keeps with a sound payload. -/
def State.kept (s : State) (p t : Nat) (bs : List Byte) : State × Option (List Byte) :=
  match s.takePacket p bs with
  | (s, some (h, pl, true)) => if h.ptype = t ∧ s.keeps h then (s, some pl) else (s, none)
  | (s, _) => (s, none)

/-- R282: a packet with a reserved PTYPE is skipped by LENGTH and counted. -/
def execReservedPacket (port : Nat) (packet : List Byte) (s : State) : Result :=
  .next (match s.takePacket port packet with
    | (s, some (h, _, _)) => if h.ptype = 0 ∨ 8 ≤ h.ptype then s.portBump Fld.LNK_PKT_UNKNOWN port else s
    | (s, none) => s)

/-- R306: a standby takes the accepted delay of the pair port (log 39). -/
def State.takePairDelay (s : State) (packet : List Byte) : State :=
  match readPacket packet with
  | .packet h pl true =>
    if h.ptype = 5 ∧ pJOINING ≤ s.pair then (s.setF Fld.PAIR_HOP_DELAY_VALUE (fieldAt pl 0 3)).setF Fld.PAIR_HOP_DELAY_VALID 1 else s
  | _ => s

/-! ### Return packets of a tile -/

/-- The order in which a tile fills cells (R291): PROBE_ECHO, key requests, event records, REG_RSP and STAGE_ACK, telemetry. -/
def returnRank (ptype : Nat) : Nat := match ptype with | 0x5 => 0 | 0x1 => 1 | 0x2 => 2 | 0x3 => 3 | 0x6 => 3 | _ => 4

/-- A packet that is acknowledged (R291). -/
def acknowledged (ptype : Nat) : Bool := ptype == 0x1 || ptype == 0x2 || ptype == 0x3 || ptype == 0x6

/-- The packets sent and not acknowledged, and those that wait to be sent again (R291). -/
def State.unacked (s : State) : Nat := s.link.outstanding.length + (s.link.waiting.filter (·.seq.isSome)).length

/-- LNK_RET_STAT reports the outstanding packets. -/
def State.reportReturn (s : State) : State := s.on (·.setF Fld.LNK_RET_STAT_OUTSTANDING s.unacked)

/-- Records of the forward queue become return EVENT packets behind the packets that wait (R511). -/
def State.drainForward (s : State) : State :=
  match s.io.fwd with
  | [] => s
  | r :: t =>
    if s.link.waiting.any (fun q => q.ptype == 0x2 && q.seq.isNone) then s
    else { (s.queueReturn 0x2 r.payload) with io := { s.io with fwd := t } }

/-- The packet that a tile puts into the next cell it may fill (R291): the first of the best rank; one that would exceed the
limit of 8 waits. -/
def State.nextReturn (s : State) : Option RetPacket :=
  let ok := fun (q : RetPacket) => !acknowledged q.ptype || q.seq.isSome || decide (s.unacked < 8)
  [0, 1, 2, 3, 4].findSome? (fun k => s.link.waiting.find? (fun q => decide (returnRank q.ptype = k) && ok q))

/-- A tile may fill cell `c` of a period with ALIGN sequence `sq` (R290): the cell is reserved for its position, has passed
the tile it is reserved for, or is reserved for a position at N or above. -/
def State.mayFill (s : State) (c sq : Nat) : Bool :=
  let res := (c + 65536 - sq % 64) % 64
  let pos := s.getF Fld.CTL_TILE_ADDR_POSITION
  let passed := if s.isF Fld.TCK_STATE_END then decide (res < pos) else decide (pos < res)
  s.isF Fld.CTL_TILE_ADDR_VALID && (decide (res = pos) || passed || decide (s.link.chainLen ≤ res))

/-- An EMPTY return cell (R289). -/
def emptyCell : List Byte := leBytes 8 (sealWord 0x0A) ++ zeros 24

/-- R287, R288: an EMPTY cell leaves on a tile's selected port as it came in, or as its originator sends it. -/
def State.passEmpty (s : State) (p : Nat) : State := if s.portUp p then s.on (·.emit (.cell p emptyCell)) else s

/-- R290: an EMPTY cell passes through a tile, which fills it with its highest-ranked ready packet. -/
def State.cellPass (s : State) (c sq : Nat) : State :=
  if !s.io.isTile then s
  else
  let s := s.drainForward
  match s.selected, s.nextReturn with
  | none, _ => s
  | some p, none => s.passEmpty p
  | some p, some q =>
    if !s.mayFill c sq then s.passEmpty p
    else
      let ack := acknowledged q.ptype
      let seq := q.seq.getD s.link.seq
      let chain := s.getF Fld.CTL_TILE_ADDR_CHAIN
      let pos := s.getF Fld.CTL_TILE_ADDR_POSITION
      let out : RetPacket := { q with seq := some seq, sent := s.io.tick }
      let s := { s with link := { s.link with
        waiting := eraseFirst (· == q) s.link.waiting,
        outstanding := if ack then s.link.outstanding ++ [out] else s.link.outstanding,
        seq := if ack && q.seq.isNone then (s.link.seq + 1) % 256 else s.link.seq } }
      (s.reportReturn).on (fun io => (io.emit (.cell p (cellBytes q.ptype chain pos seq q.payload))).pulse 12)

def execReturnCellPass (cell alignSeq : Nat) (s : State) : Result := .next (s.cellPass cell alignSeq)

/-- The SEQ values that an ACK payload releases for this tile (R292). -/
def State.ackedSeqs (s : State) (pl : List Byte) : List Nat :=
  ((List.range (pl.length / 4)).map (fun i => fieldAt pl (4 * i) 4)).filterMap (fun w =>
    if bits w 0 4 = s.getF Fld.CTL_TILE_ADDR_CHAIN ∧ bits w 4 6 = s.getF Fld.CTL_TILE_ADDR_POSITION then some (bits w 10 8) else none)

/-- R292: an ACK packet releases the outstanding packets it names. -/
def State.ackReceived (s : State) (p : Nat) (packet : List Byte) : State :=
  match s.kept p 0x03 packet with
  | (s, some pl) =>
    let seqs := s.ackedSeqs pl
    let gone := fun (q : RetPacket) => match q.seq with | some k => seqs.contains k | none => false
    { s with link := { s.link with outstanding := s.link.outstanding.filter (fun q => !gone q),
                                   waiting := s.link.waiting.filter (fun q => !(acknowledged q.ptype && gone q)) } }.reportReturn
  | (s, none) => s

/-- R292: a return packet has had no acknowledgement for ACK_TIMEOUT ticks: it is sent again, or given up after RETRY_MAX
repeats with event 263. A given-up event record is lost (R511). -/
def State.returnTimeout (s : State) (seq : Nat) : State :=
  match s.link.outstanding.find? (fun q => q.seq == some seq) with
  | none => s
  | some q =>
    if s.io.tick < q.sent + max 1 (s.getF Fld.LNK_CFG_ACK_TIMEOUT) then s
    else
      let s := { s with link := { s.link with outstanding := eraseFirst (· == q) s.link.outstanding } }
      if q.repeats < s.getF Fld.LNK_CFG_RETRY_MAX then
        { s with link := { s.link with waiting := { q with repeats := q.repeats + 1 } :: s.link.waiting } }
      else
        let s := s.reportReturn.on (fun io => (io.bumpF Fld.LNK_RET_GIVEUP).fireObj 263 (some 0) (s.selected.getD 0))
        if q.ptype = 0x2 then s.on (fun io => Io.settle (io.forwardLost (fieldAt q.payload 0 2))) else s

/-! ### Return cells at the Sender -/

/-- A cell names a tile of the chain it came on (R289). A probe's echo may come from position N of a ring, the B-end unit (R83), whose 6-bit
POSITION is N modulo 64 (DEDUCED, log 89). -/
def State.namesTile (s : State) (p : Nat) (c : Cell) : Bool :=
  c.chain == p && (match s.route p with
    | some r => decide (c.position < r.tiles) || (r.ring && c.ptype == 5 && c.position == r.tiles % 64)
    | none => false)

/-- A cell that is discarded (R289). -/
def State.cellBad (s : State) (p : Nat) (c : Cell) : Bool :=
  !c.crcOk || c.ptype == 0 || decide (6 < c.ptype) || decide (5 < c.len) || !s.namesTile p c

/-- R289: a cell is discarded: counted, with event 264 at most once per port per period. -/
def State.cellDrop (s : State) (p : Nat) : State := (s.portBump Fld.LNK_CELL_DROP p).firePortOnce 264 p

/-- R251 of the table, R289: a cell with a bad CRC, a reserved PTYPE or LEN, or no tile. -/
def execCellDrop (port : Nat) (cell : List Byte) (s : State) : Result :=
  .next (if s.io.isTile then s.repeatCell port cell else if s.io.hasHost && s.cellBad port (readCell cell) then s.cellDrop port else s)

/-- A cell of type `t` arrives at the unit that transmits a chain (R289, R292): it is checked, acknowledged, and answered when
it is not a duplicate of the last 16. A tile repeats it (R287). -/
def State.acceptCell (s : State) (p t : Nat) (bs : List Byte) : State × Option Cell :=
  let c := readCell bs
  if !s.io.hasHost then (s.repeatCell p bs, none)
  else if s.cellBad p c then (s.cellDrop p, none)
  else if c.ptype ≠ t then (s, none)
  else if pJOINING ≤ s.pair ∧ bit (s.getF Fld.PAIR_FEED_CHAINS) p then (s.sendPair 0x15 (leBytes 1 p ++ zeros 3 ++ sub bs 0 32), none)
  else if !acknowledged t then (s, some c)
  else
    let key := tileKey c.chain c.position
    let seen := ((s.link.seen.find? (·.1 == key)).map (·.2)).getD []
    let s := { s with link := { s.link with acks := s.link.acks ++ [(p, c.chain + 2 ^ 4 * c.position + 2 ^ 10 * c.seq)] } }
    if seen.contains c.seq then (s, none)
    else ({ s with link := { s.link with seen := (key, (c.seq :: seen).take 16) :: s.link.seen.filter (fun e => e.1 != key) } }, some c)

/-- The position whose probe a cell answers: the one last probed, where N = 64 of a ring reads as position 0 (R83, log 89). -/
def State.echoFrom (s : State) (c : Cell) : Nat :=
  match s.tick.probes.find? (fun e => e.1 == c.chain && e.2.1 % 64 == c.position) with
  | some (_, pos, _) => pos
  | none => c.position

/-- R85, R306: a probe's echo arrives, on a chain or on the pair port. -/
def execProbeEchoReceived (port : Nat) (cell : List Byte) (t4 : Nat) (s : State) : Result :=
  .next (if port = pairPort then
    let c := readCell cell
    if c.crcOk && c.ptype == 5 then s.echoDelay pairPort 0 (fieldAt c.payload 0 3) (fieldAt c.payload 4 3) t4 else s
  else match s.acceptCell port 0x5 cell with
    | (s, some c) => s.echoDelay c.chain (s.echoFrom c) (fieldAt c.payload 0 3) (fieldAt c.payload 4 3) t4
    | (s, none) => s)

/-- R512: a remote record for every EVENT ring in RUNNING; event 17 fires at most once per period. -/
def State.remoteEvent (s : State) (chain pos : Nat) (pl : List Byte) : State :=
  let h : RecordHead := { event := fieldAt pl 0 2, source := putBits (fieldAt pl 2 1) 3 1 1, chain := chain, position := pos,
                          count := fieldAt pl 10 2, tick := fieldAt pl 4 6, obj := fieldAt pl 12 2, detail := sub pl 14 6 }
  s.on fun io =>
    let io := io.bumpF Fld.CTL_EVT_REMOTE_RX
    let io := Io.settle (io.writeRecords h)
    io.fireOnce 0 { event := 17 }

def execRemoteEventReceived (port : Nat) (cell : List Byte) (s : State) : Result :=
  .next (match s.acceptCell port 0x2 cell with
    | (s, some c) => s.remoteEvent c.chain c.position c.payload
    | (s, none) => s)

/-- What the unit keeps of a tile. -/
def State.tile (s : State) (chain pos : Nat) : TileInfo :=
  (s.tiles.find? (fun t => t.chain == chain && t.position == pos)).getD
    { chain := chain, position := pos, headroom := none, th := none, reported := 0, stale := false, admitted := false }

/-- What the unit keeps of a tile, replaced. -/
def State.setTile (s : State) (t : TileInfo) : State :=
  { s with tiles := t :: s.tiles.filter (fun u => !(u.chain == t.chain && u.position == t.position)) }

/-- R513: the newest HEADROOM or THROTTLE value of a tile is kept. -/
def State.telemetry (s : State) (chain pos : Nat) (pl : List Byte) : State :=
  let t := s.tile chain pos
  match fieldAt pl 6 1 with
  | 0 => s.setTile { t with headroom := some (fieldAt pl 8 2, fieldAt pl 10 1, bit (fieldAt pl 11 1) 0), reported := s.io.tick, stale := false }
  | 1 => s.setTile { t with th := some (fieldAt pl 8 2) }
  | _ => s

def execTelemetryReceived (port : Nat) (cell : List Byte) (s : State) : Result :=
  .next (match s.acceptCell port 0x4 cell with
    | (s, some c) => s.telemetry c.chain c.position c.payload
    | (s, none) => s)

/-- R513: an admitted tile has sent no HEADROOM for 4 consecutive wear cycles: event 21 fires once per episode, naming it. -/
def execTelemetryStale (chain position : Nat) (s : State) : Result :=
  .next (
    let t := s.tile chain position
    if s.io.hasHost && t.admitted && !t.stale then
      (s.setTile { t with stale := true }).on (·.fireObj 21 none (objTile chain position))
    else s)

/-! ### Remote register access at the Sender -/

/-- The payload of a REG_REQ (R293). -/
def regReqPayload (tag op off v : Nat) : List Byte := leBytes 2 tag ++ leBytes 1 op ++ zeros 1 ++ leBytes 4 off ++ leBytes 4 v

/-- A REG_REQ is sent to a tile under the chain's next TAG; its reply is awaited (R294). -/
def State.sendRegReq (s : State) (chain pos ring index op off v : Nat) : State :=
  let tag := Sparse.get (fun _ => 0) s.link.tags chain
  let s := { s with link := { s.link with
    tags := Sparse.set (fun _ => 0) s.link.tags chain ((tag + 1) % 65536),
    regs := s.link.regs ++ [({ chain := chain, position := pos, tag := tag, ring := ring, index := index, op := op, offset := off,
                               value := v, sent := s.io.tick, repeats := 0 } : RegWait)] } }
  s.queueBulk chain (packetBytes 0x04 false chain pos (regReqPayload tag op off v))

/-- The reserved fields of REMOTE_REG (R294). -/
def remoteFieldsOk (e : List Byte) : Bool :=
  allZero e 11 1 && allZero e 20 44 && decide (fieldAt e 8 1 < 16) && decide (fieldAt e 9 1 < 64)

/-- An entry moves from the fetched list to the active list of its ring. -/
def Io.activate (s : Io) (n i : Nat) (e : List Byte) : Io :=
  let s := s.popEntry n i
  s.setRing n { (s.ring n) with active := (s.ring n).active ++ [(i, e)] }

/-- R294: a REMOTE_REG entry whose OP satisfies `mine`. -/
def State.remoteReg (s : State) (ring i : Nat) (mine : Nat → Bool) : State :=
  match (s.io.ring ring).entryAt i with
  | none => s
  | some e =>
    if fieldAt e 0 1 ≠ 0x41 ∨ !mine (fieldAt e 10 1) then s
    else match s.io.entryStatus ring (s.io.ring ring) e true (remoteFieldsOk e) with
      | some st => s.on (·.answer ring i e { status := st })
      | none =>
        let chain := fieldAt e 8 1
        if 1 < fieldAt e 10 1 then s.on (·.answer ring i e { status := 0x01, detail := 1 })
        else if !s.isOutput chain then s.on (·.answer ring i e { status := 0x01, detail := 2 })
        else if s.portState chain = 4 then s.on (·.answer ring i e { status := 0x01, detail := 3 })
        else (s.on (·.activate ring i e)).sendRegReq chain (fieldAt e 9 1) ring i (fieldAt e 10 1) (fieldAt e 12 4) (fieldAt e 16 4)

/-- R294: a read; an entry with a reserved OP is rejected here. -/
def execRemoteRegRead (ring i : Nat) (s : State) : Result := .next (s.remoteReg ring i (· != 1))
/-- R294: a write. -/
def execRemoteRegWrite (ring i : Nat) (s : State) : Result := .next (s.remoteReg ring i (· == 1))

/-- R294: no reply by the REG_TIMEOUT-th tick: the request is sent again, or after RETRY_MAX repeats its entry completes with
STATUS 0x02 and event 265. -/
def State.regTimeout (s : State) (chain tag : Nat) : State :=
  match s.link.regs.find? (fun w => w.chain == chain && w.tag == tag) with
  | none => s
  | some w =>
    if s.io.tick < w.sent + max 1 (s.getF Fld.LNK_CFG_REG_TIMEOUT) then s
    else if w.repeats < s.getF Fld.LNK_CFG_RETRY_MAX then
      let s := { s with link := { s.link with regs := s.link.regs.map (fun (v : RegWait) => if v == w then ({ w with sent := s.io.tick, repeats := w.repeats + 1 } : RegWait) else v) } }
      s.queueBulk chain (packetBytes 0x04 false chain w.position (regReqPayload tag w.op w.offset w.value))
    else
      let s := { s with link := { s.link with regs := eraseFirst (· == w) s.link.regs } }
      let s := s.on (·.fireObj 265 (some (chain / 4)) (chain % 4))
      match (s.io.ring w.ring).active.find? (fun a => a.1 == w.index) with
      | some (_, e) => s.on (·.finish w.ring w.index e { status := 0x02 })
      | none => s

end Sys2Proof.Machine
end

