-- ==== Sys2Proof/Machine/Nvm.lean ====
section
/-! DEFINITION. The configuration NVM: its directory and partitions (R39 to R42), the write window and the erase rule (R472,
R473), persistent records, their write queue and their migration (R62 to R64). -/

namespace Sys2Proof.Machine

/-- An erased NVM byte. -/
def nvmErased (_ : Nat) : Byte := 0xFF

/-- The NVM's size: the least that R39 asks for (log 19). -/
def nvmSize : Nat := 2 ^ 27

/-- The NVM part of the state replaced. -/
def State.onNvm (s : State) (f : Nvm → Nvm) : State := { s with boot := { s.boot with nvm := f s.boot.nvm } }

/-- The journal records a copy in progress (R497). -/
def State.copying (s : State) : Bool := match s.boot.nvm.journal with | .copying _ => true | _ => false

/-- R489: the NVM port pins are high-impedance: in reset, and throughout Umber mode entered with cause STRAP. -/
def State.nvmHiZ (s : State) : Bool := !s.boot.pwrgood || s.boot.railLow || (decide (s.io.boot = stUMBER) && decide (s.getF Fld.CTL_UMBER_CAUSE = 3))

/-- `n` bytes of the NVM at `a`. While the pins are high-impedance nothing answers, and every byte reads as erased (log 94). -/
def State.nvmRead (s : State) (a n : Nat) : List Byte := if s.nvmHiZ then List.replicate n 0xFF else memRead nvmErased s.boot.nvm.mem a n

/-- A programmer on the xSPI bus writes bytes of any partition (R489): METER is not protected from it. -/
def State.program (s : State) (ws : List (Nat × List Byte)) : State :=
  s.onNvm (fun v => { v with mem := ws.foldl (fun m w => memWrite nvmErased m w.1 w.2) v.mem })

/-- The little-endian value at NVM address `a`. -/
def State.nvmNat (s : State) (a n : Nat) : Nat := leNat (s.nvmRead a n)

/-- A partition of the directory (R40): TYPE, START and SIZE. -/
structure Partition where
  typ : Nat
  start : Nat
  size : Nat
deriving DecidableEq, Repr

/-- The entries of a directory copy, the ones that the device ignores left out: unused entries and reserved types (R40, R41). -/
def State.dirEntries (s : State) (at_ : Nat) : List Partition :=
  ((List.range (s.nvmNat (at_ + 8) 4)).map (fun i =>
    let e := at_ + 0x40 + 32 * i
    ({ typ := s.nvmNat e 2, start := s.nvmNat (e + 4) 4, size := s.nvmNat (e + 8) 4 } : Partition))).filter (fun p => decide (1 ≤ p.typ ∧ p.typ ≤ 5))

/-- Two partitions overlap. -/
def Partition.overlaps (p q : Partition) : Bool := decide (p.start < q.start + q.size ∧ q.start < p.start + p.size)

/-- No two partitions of a list overlap. -/
def noOverlap : List Partition → Bool
  | [] => true
  | p :: t => t.all (fun q => !p.overlaps q) && noOverlap t

/-- A directory copy is valid (R40). -/
def State.dirValid (s : State) (at_ : Nat) : Bool :=
  s.nvmRead at_ 4 == [0x4E, 0x56, 0x4D, 0x44] &&
  decide (1 ≤ s.nvmNat (at_ + 8) 4 ∧ s.nvmNat (at_ + 8) 4 ≤ 16) &&
  decide (crc32 (s.nvmRead at_ 0xFFC) = s.nvmNat (at_ + 0xFFC) 4) &&
  (s.dirEntries at_).all (fun p => decide (p.start + p.size ≤ nvmSize ∧ p.start % 0x10000 = 0)) &&
  noOverlap (s.dirEntries at_)

/-- Sequence number `a` is higher than `b`, modulo 2^32 (R40, R63). -/
def seqAbove (a b : Nat) : Bool := decide (a ≠ b ∧ (a + 2 ^ 32 - b) % 2 ^ 32 < 2 ^ 31)

/-- The directory in use (R40): none where neither copy is valid. Where both are valid with one sequence number, the copy at 0 is used
(DESIGN CHOICE, log 84). -/
def State.directory (s : State) : Option (List Partition) :=
  match s.dirValid 0, s.dirValid 0x10000 with
  | true, true => some (s.dirEntries (if seqAbove (s.nvmNat 0x10004 4) (s.nvmNat 4 4) then 0x10000 else 0))
  | true, false => some (s.dirEntries 0)
  | false, true => some (s.dirEntries 0x10000)
  | false, false => none

/-- The partition of a type, when it appears exactly once. -/
def partitionOf (ps : List Partition) (t : Nat) : Option Partition :=
  match ps.filter (fun p => p.typ == t) with
  | [p] => some p
  | _ => none

/-- The device has a METER partition: M, T and C parts (R41). -/
def State.needsMeter (s : State) : Bool := s.isF Fld.CTL_VARIANT_METER_FITTED

/-- The partitions that the device uses (R41): none where a required one is missing or too small, or a type appears twice. -/
def State.partitions (s : State) : Option (List Partition) :=
  match s.directory with
  | none => none
  | some ps =>
    let known := [1, 2, 3, 4, 5]
    let once := known.all (fun t => decide ((ps.filter (fun p => p.typ == t)).length ≤ 1))
    let needed := if s.needsMeter then known else [1, 2, 4, 5]
    let there := needed.all (fun t => (partitionOf ps t).isSome)
    let big := fun (t least : Nat) => match partitionOf ps t with | some p => decide (least ≤ p.size) | none => true
    let active := match partitionOf ps 1 with | some p => p.size | none => 0
    if once && there && big 2 active && big 3 0x100000 && big 4 0x400000 && big 5 0x40000 then some ps else none

/-- The partition of a type in the directory in use. -/
def State.partition (s : State) (t : Nat) : Option Partition := s.partitions.bind (partitionOf · t)

/-- Bytes programmed by the boot core or the control cores. A write that touches METER is not performed, and event 3 fires
(R42). While the pins are high-impedance nothing is written (R489). -/
def State.nvmWrite (s : State) (a : Nat) (bs : List Byte) : State :=
  let clash := match s.partition 3 with
    | some p => ({ typ := 3, start := a, size := bs.length } : Partition).overlaps p
    | none => false
  if s.nvmHiZ then s
  else if clash then s.fire 3
  else (s.onNvm (fun v => { v with mem := memWrite nvmErased v.mem a bs })).emit (.nvmWrite a bs)

/-! ### The write window -/

/-- The window is open (THM_STATE.WINDOW). -/
def State.windowOpen (s : State) : Bool := s.isF Fld.THM_STATE_WINDOW

/-- Erases are permitted (THM_STATE.ERASE_OK). -/
def State.eraseOk (s : State) : Bool := s.isF Fld.THM_STATE_ERASE_OK

/-- A temperature field of one byte, in °C, as 1/16 °C. -/
def State.degrees (s : State) (f : Field) : Int := signed 8 (s.getF f) * 16

/-- R472: whether the window is open at an NVM temperature `t` (1/16 °C), it having been `was`. -/
def State.windowAt (s : State) (was : Bool) (t : Int) : Bool :=
  let lo := s.degrees Fld.THM_WINDOW_WIN_LO
  let hi := s.degrees Fld.THM_WINDOW_WIN_HI
  if was then decide (lo ≤ t ∧ t ≤ hi) else decide (lo + 32 ≤ t ∧ t ≤ hi - 32)

/-- R473: no node 0 to 4 lies at or above 105 °C, and no controlled shutdown runs. -/
def State.erasable (s : State) : Bool :=
  decide (s.boot.power = 0) && (List.range 5).all (fun i => decide (signed 16 (s.getF (Fld.THM_NODE i)) < 105 * 16))

/-- THM_QUEUE reports the records that wait. -/
def State.reportQueue (s : State) : State := s.setF Fld.THM_QUEUE_PENDING (min 8 s.boot.nvm.queue.length)

/-! ### Records in PERSIST -/

/-- A record's bytes (R62): the 32-byte header with its CRC-32, then the payload. -/
def Record.bytes (r : Record) : List Byte :=
  let head := fun crc => leBytes 2 r.rtype ++ leBytes 2 r.version ++ leBytes 4 r.seq ++ leBytes 4 r.payload.length ++ leBytes 4 crc ++ zeros 16
  head (crc32 (head 0 ++ r.payload)) ++ r.payload

/-- The size of a slot (DESIGN CHOICE, log 84). -/
def slotSize : Nat := 0x20000

/-- The NVM address of a slot of RTYPE `t`: 0 A, 1 B, 2 migration slot. Firmware assigns the offsets (R62; DESIGN CHOICE, log 84). -/
def State.slotAt (s : State) (t slot : Nat) : Option Nat := (s.partition 4).map (fun p => p.start + slotSize * (3 * (t - 1) + slot))

/-- The record of a slot, where the slot is valid (R62, R63): its RCRC matches and its RTYPE is the slot's. -/
def State.slotRecord (s : State) (t slot : Nat) : Option Record :=
  match s.slotAt t slot with
  | none => none
  | some a =>
    let n := s.nvmNat (a + 8) 4
    if n + 32 ≤ slotSize ∧ s.nvmNat a 2 = t ∧ crc32 (s.nvmRead a 12 ++ zeros 4 ++ s.nvmRead (a + 16) (16 + n)) = s.nvmNat (a + 12) 4 then
      some { rtype := t, version := s.nvmNat (a + 2) 2, seq := s.nvmNat (a + 4) 4, payload := s.nvmRead (a + 32) n }
    else none

/-- The record in use of a type, and whether it is the B copy (R63). Where both copies carry one RSEQ, A is used (DESIGN CHOICE, log 84). -/
def State.newest (s : State) (t : Nat) : Option (Record × Bool) :=
  match s.slotRecord t 0, s.slotRecord t 1 with
  | some a, some b => if seqAbove b.seq a.seq then some (b, true) else some (a, false)
  | some a, none => some (a, false)
  | none, some b => some (b, true)
  | none, none => none

/-- The slot that the next write of a type goes to, and the RSEQ that it carries (R63). Where neither copy is valid the record goes to A
with RSEQ 1 (DESIGN CHOICE, log 84). -/
def State.nextSlot (s : State) (t : Nat) : Nat × Nat :=
  match s.newest t with
  | some (r, b) => (flag (!b), (r.seq + 1) % 2 ^ 32)
  | none => (0, 1)

/-- The bytes from `a` on erased. -/
def Nvm.blank (v : Nvm) (a n : Nat) : Nvm := { v with mem := v.mem.filter (fun e => !decide (a ≤ e.1 ∧ e.1 < a + n)) }

/-- The record format version that the firmware supports for an RTYPE; the marker's is that of the firmware as a whole (R64). -/
def supported (t : Nat) : Nat := if t = 7 then Config.fwPersistVersion else Config.fwVersion t

/-- A write starts: the slots that it replaces are no longer valid. -/
def State.startOp (s : State) (op : NvmOp) : State :=
  let s := s.onNvm (fun v => { v with busy := some op })
  match op with
  | .put slot r => match s.slotAt r.rtype slot with
    | some a => s.onNvm (·.blank a slotSize)
    | none => s
  | .clear => (List.range 8).foldl (fun (s : State) i => match s.slotAt (i + 1) 2 with
    | some a => s.onNvm (·.blank a slotSize)
    | none => s) s

/-- The write that starts next (R63, R64): the migration sequence in its order, and the oldest queued record once it has ended. -/
def State.begin (s : State) : State :=
  let v := s.boot.nvm
  match v.busy, v.sequence with
  | some _, _ => s
  | none, w :: rest => (s.onNvm (fun v => { v with sequence := rest })).startOp w
  | none, [] =>
    match v.queue with
    | (t, p) :: rest =>
      let (slot, seq) := s.nextSlot t
      (s.onNvm (fun v => { v with queue := rest })).startOp (.put slot { rtype := t, version := supported t, seq := seq, payload := p })
    | [] => s

/-- The cores may write records: not in ROM, LOADING or Umber mode (R51), nor once power is off. -/
def State.mayWrite (s : State) : Bool := decide (stTRAINING ≤ s.io.boot ∧ s.io.boot ≤ stOPERATIONAL ∧ s.boot.power ≤ 1)

/-- The next write starts when the window is open (R472). -/
def State.startWrite (s : State) : State :=
  if s.mayWrite && s.windowOpen then s.begin.reportQueue else s.reportQueue

/-- R63: a record is requested: it joins the queue, replacing an older request of its type, whose place it takes (DESIGN CHOICE,
log 84). -/
def State.queueRecord (s : State) (t : Nat) (payload : List Byte) : State :=
  let s := if s.windowOpen then s else s.bumpF Fld.THM_WRITES_DEFERRED
  let q := s.boot.nvm.queue
  let q := if q.any (fun e => e.1 == t) then q.map (fun e => if e.1 == t then (t, payload) else e) else q ++ [(t, payload)]
  (s.onNvm (fun v => { v with queue := q })).startWrite

/-- A completed write takes effect: the slot holds the record. -/
def State.finishWrite (s : State) : State :=
  let t := s.onNvm (fun v => { v with busy := none })
  match s.boot.nvm.busy with
  | some (.put slot r) => match s.slotAt r.rtype slot with
    | some a => t.nvmWrite a r.bytes
    | none => t
  | _ => t

/-- R63: an NVM program or erase completes, and the next queued write may start. -/
def execNvmWriteComplete (s : State) : Result :=
  .next (if s.boot.nvm.busy.isSome then s.finishWrite.startWrite else s)

/-- The record of a type that the firmware works from. -/
def State.record (s : State) (t : Nat) : Option (List Byte) := (s.boot.nvm.records.find? (fun r => r.rtype == t)).map (·.payload)

/-- R64: a record written to both copies, the older copy first: the first carries RSEQ one higher than the copy in use, the second one
higher again. -/
def State.writeCopies (s : State) (r : Record) : List NvmOp :=
  let (slot, seq) := s.nextSlot r.rtype
  [.put slot { r with seq := seq }, .put (1 - slot) { r with seq := (seq + 1) % 2 ^ 32 }]

/-- The migration writes of R64 for the records to migrate: the clearing of the migration slots, the slots, the marker in two copies,
the A and B copies, and the clearing. The marker is the record of RTYPE 0x0007 (DEDUCED, log 84). -/
def State.migrationWrites (s : State) (ms : List Record) : List NvmOp :=
  .clear :: ms.map (.put 2) ++ s.writeCopies { rtype := 7, version := Config.fwPersistVersion, seq := 0, payload := [] } ++
  ms.flatMap s.writeCopies ++ [.clear]

/-- R64: the records at a start. Equal versions are used, lower ones are migrated, higher ones are absent with event 4; with the marker
written, the migration slots are used where valid. -/
def State.loadRecords (s : State) : State :=
  let types := [1, 2, 3, 4, 5, 6, 7, 8]
  let done := match s.newest 7 with | some (m, _) => decide (m.version = Config.fwPersistVersion) | none => false
  let found := types.filterMap (fun t => match if done then s.slotRecord t 2 else none with
    | some r => some r
    | none => (s.newest t).map (·.1))
  let newer := found.filter (fun r => decide (supported r.rtype < r.version))
  let equal := found.filter (fun r => r.version == supported r.rtype)
  let older := if done then [] else found.filter (fun r => decide (r.version < supported r.rtype))
  let migrated := older.map (fun r => { r with version := supported r.rtype, payload := Config.convertRecord r.rtype r.version r.payload })
  let s := s.onNvm (fun v => { v with records := equal ++ migrated, sequence := if done then [] else s.migrationWrites migrated })
  newer.foldl (fun s _ => s.fire 4) s

/-! ### The staging header -/

/-- The staging header of 64 bytes (R492). -/
def stagingHeader (armed txn total : Nat) : List Byte :=
  let h := [0x53, 0x54, 0x47, 0x48] ++ leBytes 1 armed ++ leBytes 2 txn ++ leBytes 4 total ++ zeros 49
  h ++ leBytes 4 (crc32 h)

/-- R492: a staging area is ARMED when its header is valid and ARMED is 0x01. -/
def State.stagingArmed (s : State) : Bool :=
  match s.partition 2 with
  | none => false
  | some p =>
    s.nvmRead p.start 4 == [0x53, 0x54, 0x47, 0x48] && decide (s.nvmNat (p.start + 4) 1 = 1) &&
    decide (crc32 (s.nvmRead p.start 60) = s.nvmNat (p.start + 60) 4)

/-- The staging header's sector is erased. -/
def State.eraseHeaderNow (s : State) : State :=
  match s.partition 2 with
  | none => s
  | some p =>
    (s.onNvm (fun v => { (v.blank p.start 0x1000) with eraseWaits := false })).emit (.nvmErase p.start)

/-- The staging header is erased, once the window and R473 allow it. -/
def State.eraseHeader (s : State) : State :=
  if s.windowOpen && s.eraseOk then s.eraseHeaderNow else s.onNvm (fun v => { v with eraseWaits := true })

end Sys2Proof.Machine
end

