-- ==== Sys2Proof/Machine/Sha.lean ====
section
/-! DEFINITION. The digest and the signatures of images, manifests, metering records and lamp-board certificates (R45, R48): SHA-512
(FIPS 180-4) and RSA-4096 with PKCS#1 v2.2 PSS, SHA-512 and a 64-byte salt. -/

namespace Sys2Proof.Machine

/-! ### SHA-512 -/

/-- A 64-bit word of FIPS 180-4. -/
abbrev Word64 := BitVec 64

/-- The round constants of SHA-512. -/
def shaRound : List Word64 :=
  [0x428a2f98d728ae22, 0x7137449123ef65cd, 0xb5c0fbcfec4d3b2f, 0xe9b5dba58189dbbc,
   0x3956c25bf348b538, 0x59f111f1b605d019, 0x923f82a4af194f9b, 0xab1c5ed5da6d8118,
   0xd807aa98a3030242, 0x12835b0145706fbe, 0x243185be4ee4b28c, 0x550c7dc3d5ffb4e2,
   0x72be5d74f27b896f, 0x80deb1fe3b1696b1, 0x9bdc06a725c71235, 0xc19bf174cf692694,
   0xe49b69c19ef14ad2, 0xefbe4786384f25e3, 0x0fc19dc68b8cd5b5, 0x240ca1cc77ac9c65,
   0x2de92c6f592b0275, 0x4a7484aa6ea6e483, 0x5cb0a9dcbd41fbd4, 0x76f988da831153b5,
   0x983e5152ee66dfab, 0xa831c66d2db43210, 0xb00327c898fb213f, 0xbf597fc7beef0ee4,
   0xc6e00bf33da88fc2, 0xd5a79147930aa725, 0x06ca6351e003826f, 0x142929670a0e6e70,
   0x27b70a8546d22ffc, 0x2e1b21385c26c926, 0x4d2c6dfc5ac42aed, 0x53380d139d95b3df,
   0x650a73548baf63de, 0x766a0abb3c77b2a8, 0x81c2c92e47edaee6, 0x92722c851482353b] ++
  [0xa2bfe8a14cf10364, 0xa81a664bbc423001, 0xc24b8b70d0f89791, 0xc76c51a30654be30,
   0xd192e819d6ef5218, 0xd69906245565a910, 0xf40e35855771202a, 0x106aa07032bbd1b8,
   0x19a4c116b8d2d0c8, 0x1e376c085141ab53, 0x2748774cdf8eeb99, 0x34b0bcb5e19b48a8,
   0x391c0cb3c5c95a63, 0x4ed8aa4ae3418acb, 0x5b9cca4f7763e373, 0x682e6ff3d6b2b8a3,
   0x748f82ee5defb2fc, 0x78a5636f43172f60, 0x84c87814a1f0ab72, 0x8cc702081a6439ec,
   0x90befffa23631e28, 0xa4506cebde82bde9, 0xbef9a3f7b2c67915, 0xc67178f2e372532b,
   0xca273eceea26619c, 0xd186b8c721c0c207, 0xeada7dd6cde0eb1e, 0xf57d4f7fee6ed178,
   0x06f067aa72176fba, 0x0a637dc5a2c898a6, 0x113f9804bef90dae, 0x1b710b35131c471b,
   0x28db77f523047d84, 0x32caab7b40c72493, 0x3c9ebe0a15c9bebc, 0x431d67c49c100d4c,
   0x4cc5d4becb3e42b6, 0x597f299cfc657e2a, 0x5fcb6fab3ad6faec, 0x6c44198c4a475817]

/-- The initial hash value of SHA-512. -/
def shaInit : List Word64 :=
  [0x6a09e667f3bcc908, 0xbb67ae8584caa73b, 0x3c6ef372fe94f82b, 0xa54ff53a5f1d36f1,
   0x510e527fade682d1, 0x9b05688c2b3e6c1f, 0x1f83d9abfb41bd6b, 0x5be0cd19137e2179]

/-- The big-endian value of a byte string. -/
def beNat (bs : List Byte) : Nat := bs.foldl (fun a b => 256 * a + b.toNat) 0

/-- The `n` bytes of `v`, big-endian. -/
def beBytes (n v : Nat) : List Byte := (leBytes n v).reverse

/-- The message with its padding: a 1 bit, zeros, and the length in bits as 128 bits. -/
def shaPad (m : List Byte) : List Byte := m ++ 0x80 :: zeros ((239 - m.length % 128) % 128) ++ beBytes 16 (8 * m.length)

/-- The small sigma functions of the message schedule and the large ones of the rounds. -/
def shaSmall0 (x : Word64) : Word64 := x.rotateRight 1 ^^^ x.rotateRight 8 ^^^ (x >>> 7)
def shaSmall1 (x : Word64) : Word64 := x.rotateRight 19 ^^^ x.rotateRight 61 ^^^ (x >>> 6)
def shaBig0 (x : Word64) : Word64 := x.rotateRight 28 ^^^ x.rotateRight 34 ^^^ x.rotateRight 39
def shaBig1 (x : Word64) : Word64 := x.rotateRight 14 ^^^ x.rotateRight 18 ^^^ x.rotateRight 41

/-- `k` more words of the message schedule, the latest word first. -/
def shaExtend : Nat → List Word64 → List Word64
  | 0, w => w
  | k + 1, w => shaExtend k ((shaSmall1 (w.getD 1 0) + w.getD 6 0 + shaSmall0 (w.getD 14 0) + w.getD 15 0) :: w)

/-- One round on the eight working variables. -/
def shaStep (v : List Word64) (kw : Word64 × Word64) : List Word64 :=
  match v with
  | [a, b, c, d, e, f, g, h] =>
    let t1 := h + shaBig1 e + ((e &&& f) ^^^ (~~~e &&& g)) + kw.1 + kw.2
    let t2 := shaBig0 a + ((a &&& b) ^^^ (a &&& c) ^^^ (b &&& c))
    [t1 + t2, a, b, c, d + t1, e, f, g]
  | _ => v

/-- The hash value after one 128-byte block. -/
def shaBlock (h : List Word64) (block : List Byte) : List Word64 :=
  let first := ((List.range 16).map (fun i => BitVec.ofNat 64 (beNat (sub block (8 * i) 8)))).reverse
  let w := (shaExtend 64 first).reverse
  List.zipWith (· + ·) h ((shaRound.zip w).foldl shaStep h)

/-- SHA-512 of a byte string (R45). -/
def sha512 (m : List Byte) : List Byte :=
  let p := shaPad m
  ((List.range (p.length / 128)).foldl (fun h i => shaBlock h (sub p (128 * i) 128)) shaInit).flatMap (fun x => beBytes 8 x.toNat)

/-! ### RSA-4096 with PSS -/

/-- An RSA-4096 public key: modulus and public exponent. -/
structure RsaKey where
  modulus : Nat
  exponent : Nat
deriving DecidableEq, Repr

/-- `b` to the power `e` modulo `n`, over the low `k` bits of `e`. -/
def modPow (n b : Nat) : Nat → Nat → Nat
  | 0, _ => 1 % n
  | k + 1, e => let r := modPow n b k (e / 2)
                let q := r * r % n
                if e % 2 = 1 then q * b % n else q

/-- The mask of `n` bytes that MGF1 with SHA-512 makes from a seed. -/
def mgf1 (seed : List Byte) (n : Nat) : List Byte :=
  ((List.range (ceilDiv n 64)).flatMap (fun i => sha512 (seed ++ beBytes 4 i))).take n

/-- EMSA-PSS verification of a 512-byte encoded message with 4,095 bits, a 64-byte digest and a 64-byte salt. -/
def pssOk (digest em : List Byte) : Bool :=
  let masked := em.take 447
  let h := sub em 447 64
  let db := List.zipWith (· ^^^ ·) masked (mgf1 h 447)
  let db := ((db.headD 0) &&& 0x7F) :: db.drop 1
  decide ((masked.headD 0).toNat < 128) && (em.getD 511 0 == 0xBC) && allZero db 0 382 && (db.getD 382 0 == 0x01) &&
  sha512 (zeros 8 ++ digest ++ sub db 383 64) == h

/-- A 512-byte signature, an octet string as PKCS#1 gives it, verifies over a message with a key (R48). -/
def RsaKey.verifies (k : RsaKey) (message signature : List Byte) : Bool :=
  let s := beNat signature
  decide (signature.length = 512 ∧ s < k.modulus) && pssOk (sha512 message) (beBytes 512 (modPow k.modulus s 32 k.exponent))

end Sys2Proof.Machine
end

