-- ==== Sys2Proof/Machine/Rom.lean ====
section
/-! DEFINITION. ROM, resets and Umber mode (R8, R44 to R55, R480 to R497, R546 to R548): the checks of the boot core, what a
reset keeps, entry to Umber mode, and the reads of the image's sections. -/

namespace Sys2Proof.Machine

/-- The boot part of the state replaced. -/
def State.onBoot (s : State) (f : BootState → BootState) : State := { s with boot := f s.boot }

/-! ### Boot states -/

/-- CTL_BOOT.STATE changes; event 0 fires at TRAINING, JOINING and OPERATIONAL (R480, R502). -/
def State.enter (s : State) (st : Nat) : State :=
  let s := s.setF Fld.CTL_BOOT_STATE st
  if stTRAINING ≤ st ∧ st ≤ stOPERATIONAL then s.fire 0 else s

/-- The boot watchdog stops (R482). -/
def State.stopWatchdog (s : State) : State := (s.setF Fld.CTL_WDOG_LEFT 0).setF Fld.CTL_WDOG_STOPPED 1

/-- The image registers take a header `h` and its digest `dg`; with no bytes they read 0 (R61). -/
def State.showImage (s : State) (h dg : List Byte) : State :=
  let f := fun a n => fieldAt h a n
  let fl := f 0x0E 2
  let s := s.on (fun io =>
    let io := ((io.setF Fld.CTL_IMG_INFO_FORMAT_MINOR (f 4 2)).setF Fld.CTL_IMG_INFO_FORMAT_MAJOR (f 6 2)).setF Fld.CTL_IMG_INFO_SECTIONS (f 0x20 2)
    let io := ((io.setF Fld.CTL_IMG_INFO_INTEGRATOR fl).setF Fld.CTL_IMG_INFO_HOSTLESS (fl / 2)).setF Fld.CTL_IMG_INFO_PAIR_IMAGE (fl / 4)
    let io := (io.setF Fld.CTL_IMG_ROLLBACK (f 0x10 4)).setF Fld.CTL_IMG_WALL_SEQ (f 0x14 4)
    ((io.setF Fld.CTL_IMG_WALL_ID_LO (f 0x18 4)).setF Fld.CTL_IMG_WALL_ID_HI (f 0x1C 4)).setF Fld.CTL_IMG_COMPILER (f 0x24 4))
  (List.range 16).foldl (fun (s : State) i => s.setF (Fld.CTL_IMG_DIGEST i) (fieldAt dg (4 * i) 4)) s

/-- R486: Umber mode with a cause: only the boot core runs, ALERT_N is low, and the image registers read 0 (R61). A Tile trains both
chain ports with CTLE 8 and all taps at 0 (R488). -/
def State.enterUmber (s : State) (cause : Nat) : State :=
  let s := s.showImage [] []
  let s := ((s.setF Fld.CTL_BOOT_STATE stUMBER).setF Fld.CTL_UMBER_CAUSE cause).stopWatchdog
  let s := (s.alert 1 true).on (fun io => { io with rings := [], tc := [], walks := [], ops := List.replicate 4 {} })
  let s := { s with tick := {}, link := {}, tiles := [], chans := List.replicate 16 {}, plan := {} }
  let s := s.onBoot (fun b => { b with locked := false, admitAt := none, restartAt := none, restartAfter := none, dark := false,
                                       nvm := { b.nvm with queue := [], sequence := [], busy := none } })
  if s.io.isTile then
    [0, 1].foldl (fun s p =>
      (((((s.portF Fld.LNK_FOM_CTLE p 8).portF Fld.LNK_DFE_TAP1 p 0).portF Fld.LNK_DFE_TAP2 p 0).portF Fld.LNK_DFE_TAP3 p 0)).startAttempts p 1) s
  else s

/-! ### What a reset keeps -/

/-- What resets the register at an offset, as the register map gives it. -/
def regKeep (a : Nat) : Nat := match regRow a with | some (r, _) => r.keep | none => 0

/-- The counters of R123, which restart only at power-on and device reset. -/
def hostCounter (a : Nat) : Bool := [Reg.HRG_DB_IGNORED, Reg.HRG_RING_ERRORS, Reg.HRG_FN_RESETS].contains a

/-- The WRAPPED bits that say what has happened since power-on (R145, R413): their place in the register at an offset. -/
def wrappedBits (a : Nat) : Nat :=
  if [0, 1, 2, 3].any (fun n => Reg.XLT_FAULT_HEAD n == a) then 2 ^ 4 else if a = Reg.LBD_FLOG_HEAD then 2 ^ 6 else 0

/-- What a register holds after a reset. Fuses, OTP and the metering domain's keep their value always, counters and the error
registers but at power-on (R477, R535), CTL_UPD_RESULT where `result` says so (R497), and the host port's counters but at power-on and
`device` reset (R123). Of the others only the wrapped bits stay, but at power-on. -/
def keptValue (powerOn result device : Bool) (e : Nat × BitVec 32) : BitVec 32 :=
  if decide ((if powerOn then 2 else 1) ≤ regKeep e.1) || (result && e.1 == Reg.CTL_UPD_RESULT) || (!powerOn && !device && hostCounter e.1) then e.2
  else
    let m := BitVec.ofNat 32 (if powerOn then 0 else wrappedBits e.1)
    regReset e.1 &&& ~~~m ||| e.2 &&& m

/-- The registers after a reset. -/
def keptRegs (powerOn result device : Bool) (l : List (Nat × BitVec 32)) : List (Nat × BitVec 32) :=
  (l.map (fun e => (e.1, keptValue powerOn result device e))).filter (fun e => decide (e.2 ≠ regReset e.1))

/-- The device in reset: every register and every other part of the state takes its reset value but what the NVM, OTP, PD0
and the metering domain keep. Device DRAM keeps its bytes (log 20). -/
def State.cleared (s : State) (powerOn result : Bool) (device : Bool := false) : State :=
  let s0 := if s.io.linkUp then s.emit .linkDown else s
  let io : Io := { regs := keptRegs powerOn result device s0.io.regs, dram := s0.io.dram, fresh := s0.io.fresh, now := s0.io.now, out := s0.io.out, meterUp := s0.io.meterUp }
  let b := s.boot
  let nvm : Nvm := { mem := b.nvm.mem, journal := b.nvm.journal }
  let boot : BootState := {
    pwrgood := b.pwrgood, railLow := b.railLow, powerAt := b.powerAt, otpIntegrator := b.otpIntegrator,
    diode0 := b.diode0, diode1 := b.diode1, restarts := if powerOn then [] else b.restarts, stops := if powerOn then [] else b.stops,
    thermalRestart := !powerOn && b.thermalRestart, owed := if result then b.owed else [], nvm := nvm,
    stage := { nextTxn := b.stage.nextTxn } }
  let t : State := { State.reset with io := io, boot := boot, meter := s.meter, jtag := s.jtag, pending := s.pending }
  let t := t.setF Fld.CTL_ALERT_CAUSES (Nat.land (t.getF Fld.CTL_ALERT_CAUSES) 0x71)
  (t.setF Fld.CTL_ERR_STAT_FENCED 0).setF Fld.CTL_ERR_STAT_FENCE_HELD 0

/-! ### Fuses and image checks -/

/-- The role, active regions, pair port, sealed and fitted metering, package and PCIe width of a part code (R2, R7). -/
def partFuses (part : Nat) : Option (List Nat) :=
  match part with
  | 1 => some [0, 15, 1, 0, 0, 0, 2]
  | 2 => some [0, 3, 1, 0, 0, 0, 2]
  | 3 => some [0, 1, 1, 0, 0, 0, 1]
  | 4 => some [0, 1, 0, 0, 0, 0, 1]
  | 5 => some [2, 1, 0, 0, 1, 0, 1]
  | 6 => some [2, 3, 1, 0, 1, 0, 2]
  | 7 => some [1, 15, 0, 0, 1, 1, 0]
  | 8 => some [1, 3, 0, 0, 1, 1, 0]
  | 9 => some [1, 1, 0, 0, 1, 1, 0]
  | 10 => some [1, 15, 0, 1, 1, 1, 0]
  | 11 => some [1, 3, 0, 1, 1, 1, 0]
  | 12 => some [1, 1, 0, 1, 1, 1, 0]
  | _ => none

/-- R8: the fuses agree with R2. -/
def State.fusesOk (s : State) : Bool :=
  decide (partFuses s.io.part = some [s.getF Fld.CTL_VARIANT_ROLE, s.getF Fld.CTL_VARIANT_REGION_MASK, s.getF Fld.CTL_VARIANT_PAIR_PORT,
    s.getF Fld.CTL_VARIANT_METER_SEALED, s.getF Fld.CTL_VARIANT_METER_FITTED, s.getF Fld.CTL_VARIANT_PKG, s.getF Fld.CTL_VARIANT_PCIE_WIDTH])

/-- R52: a TARGET_PART and STEPPING_RANGE against CTL_VARIANT: defect 0x04 or 0x05. -/
def State.targetDefect (s : State) (part range : Nat) : Option Nat :=
  let st := s.getF Fld.CTL_VARIANT_STEPPING
  if part ≠ s.io.part then some 0x04
  else if st < range % 16 ∨ range / 16 < st then some 0x05
  else none

/-- A Tamtonus signature block verifies over a signed message with the key of its identity in OTP (R48). -/
def tamtonusOk (block signed : List Byte) : Bool :=
  match Config.tamtonusKey (sub block 0 16) with
  | some (n, e) => RsaKey.verifies { modulus := n, exponent := e } signed (sub block 16 512)
  | none => false

/-- An integrator signature block verifies over a signed message (R48). Where OTP holds an integrator key hash, the key's SHA-512 must be
that hash (DEDUCED, log 12). -/
def State.integratorOk (s : State) (block signed : List Byte) : Bool :=
  let (n, e) := Config.integratorKey (sub block 0 16)
  (match s.boot.otpIntegrator with | some h => sha512 (leBytes 512 n ++ leBytes 4 e) == h | none => true) &&
  RsaKey.verifies { modulus := n, exponent := e } signed (sub block 16 512)

/-- The metering-key signature over a message verifies (R451, R458). -/
def meterKeyOk (signed sig : List Byte) : Bool :=
  RsaKey.verifies { modulus := Config.meterKey.1, exponent := Config.meterKey.2 } signed sig

/-- The section directory of an image at NVM address `a` (R45). R44 names no defect for a SECTION_COUNT outside 1 to 64: a count above 64
is taken as 64, and a count of 0 holds no section (DESIGN CHOICE, log 85). -/
def State.imageDir (s : State) (a : Nat) : List Section :=
  (List.range (min 64 (s.nvmNat (a + 0x20) 2))).map (fun i =>
    let e := a + 0x100 + 96 * i
    { typ := s.nvmNat e 2, optional := bit (s.nvmNat (e + 2) 2) 0, version := s.nvmNat (e + 4) 4, off := s.nvmNat (e + 8) 8, len := s.nvmNat (e + 16) 8, digest := s.nvmRead (e + 24) 64 })

/-- R43, R55: no section lies outside IMAGE_SIZE, off a 4 KiB boundary, in the header, or over another section. -/
def layoutOk (size : Nat) (dir : List Section) : Bool :=
  dir.all (fun d => decide (d.off % 4096 = 0 ∧ 0x3000 ≤ d.off ∧ d.off + d.len ≤ size)) &&
  noOverlap (dir.map (fun d => { typ := 1, start := d.off, size := d.len }))

/-- The first section that lies outside IMAGE_SIZE, off a 4 KiB boundary, in the header, or over an earlier section, by directory
index. -/
def layoutFault (size : Nat) (dir : List Section) : Option Nat :=
  (List.range dir.length).find? (fun i => !layoutOk size (dir.take (i + 1)))

/-- The boot core's checks of an image's header at NVM address `a` in a partition of `size` bytes, in the order of R49: the
first defect. An image is erased when its first four bytes are 0xFF (R55; DESIGN CHOICE, log 85). -/
def State.headerDefect (s : State) (a size : Nat) : Option Nat :=
  let flags := s.nvmNat (a + 0x0E) 2
  let image := s.nvmNat (a + 8) 4
  if s.nvmRead a 4 = [0xFF, 0xFF, 0xFF, 0xFF] then some 0x01
  else if s.nvmRead a 4 ≠ [0x49, 0x41, 0x47, 0x52] then some 0x02
  else if s.nvmNat (a + 6) 2 ≠ 2 ∨ size < image then some 0x03
  else match s.targetDefect (s.nvmNat (a + 0x0C) 1) (s.nvmNat (a + 0x0D) 1) with
    | some d => some d
    | none =>
      if s.nvmNat (a + 0x10) 4 < s.getF Fld.CTL_OTP_ROLLBACK then some 0x06
      else if !tamtonusOk (s.nvmRead (a + 0x2000) 768) (s.nvmRead a 0x2000) then some 0x07
      else if bit flags 0 && !s.integratorOk (s.nvmRead (a + 0x2300) 768) (s.nvmRead a 0x2000) then some 0x08
      else if !bit flags 0 && s.boot.otpIntegrator.isSome then some 0x08
      else if !layoutOk image (s.imageDir a) then some 0x0C
      else if (dirIndex (s.imageDir a) 1).isNone then some 0x0A
      else none

/-! ### Checks of an ARMED staging area -/

/-- One part of a manifest (R491). -/
structure ManifestPart where
  kind : Nat
  target : Nat
  off : Nat
  len : Nat
  digest : List Byte
deriving DecidableEq, Repr

/-- The parts of the manifest at NVM address `m`. -/
def State.manifestParts (s : State) (m : Nat) : List ManifestPart :=
  (List.range 16).map (fun i =>
    let e := m + 0x20 + 96 * i
    { kind := s.nvmNat e 1, target := s.nvmNat (e + 1) 1, off := s.nvmNat (e + 4) 4, len := s.nvmNat (e + 8) 8, digest := s.nvmRead (e + 32) 64 })

/-- The reserved fields of a manifest are 0 (R491, R496). -/
def State.manifestReserved (s : State) (m : Nat) : Bool :=
  allZero (s.nvmRead (m + 0x1A) 6) 0 6 && allZero (s.nvmRead (m + 0x620) 224) 0 224 && decide (s.nvmNat (m + 7) 1 < 2) &&
  (List.range 16).all (fun i => allZero (s.nvmRead (m + 0x22 + 96 * i) 2) 0 2 && allZero (s.nvmRead (m + 0x30 + 96 * i) 16) 0 16)

/-- R496: the checks of an ARMED staging area at NVM address `st`, in order: the first failure, with WHERE (1 manifest, 2
image part, 3 metering part). -/
def State.activationDefect (s : State) (st : Nat) : Option (Nat × Nat) :=
  let m := st + 0x1000
  let total := s.nvmNat (st + 7) 4
  let parts := s.manifestParts m
  let mine := parts.filter (fun p => p.kind ≠ 0 && p.target == s.io.part)
  let images := mine.filter (·.kind == 1)
  let signed := s.nvmRead m 0x700
  let integrator := bit (s.nvmNat (m + 7) 1) 0
  let wherePart := fun (p : ManifestPart) => if p.kind = 1 then 2 else 3
  let badPlace := fun (p : ManifestPart) => !decide (p.off % 4096 = 0 ∧ 0x2000 ≤ p.off ∧ p.off + p.len ≤ total)
  let badDigest := fun (p : ManifestPart) => sha512 (s.nvmRead (st + p.off) p.len) != p.digest
  if s.nvmRead m 4 ≠ [0x4D, 0x4E, 0x46, 0x54] then some (0x02, 1)
  else if s.nvmNat (m + 4) 2 ≠ 1 ∨ !s.manifestReserved m then some (0x03, 1)
  else if !tamtonusOk (s.nvmRead (m + 0x700) 768) signed then some (0x07, 1)
  else if (integrator && !s.integratorOk (s.nvmRead (m + 0xA00) 768) signed) || (!integrator && s.boot.otpIntegrator.isSome) then some (0x08, 1)
  else if s.nvmNat (m + 8) 4 < s.getF Fld.CTL_OTP_ROLLBACK then some (0x06, 1)
  else if parts.any (fun p => decide (2 < p.kind)) then some (0x0B, 1)
  else if images.length ≠ 1 then some (0x0A, 1)
  else match mine.find? badPlace with
    | some p => some (0x0C, wherePart p)
    | none => match mine.find? badDigest with
      | some p => some (0x09, wherePart p)
      | none => match images with
        | [] => none
        | p :: _ =>
          let a := st + p.off
          match s.targetDefect (s.nvmNat (a + 0x0C) 1) (s.nvmNat (a + 0x0D) 1) with
          | some d => some (d, 2)
          | none =>
            if s.nvmNat (a + 0x10) 4 ≠ s.nvmNat (m + 8) 4 then some (0x06, 2)
            else match s.headerDefect a p.len with
              | some d => some (d, 2)
              | none =>
                if mine.any (fun q => q.kind == 2 && !meterKeyOk (s.nvmRead (st + q.off) (q.len - 768)) (s.nvmRead (st + q.off + q.len - 752) 512))
                then some (0x0D, 3) else none

/-- CTL_UPD_RESULT records a defect of staging (R496). -/
def State.updResult (s : State) (code place : Nat) : State :=
  ((s.setF Fld.CTL_UPD_RESULT_CODE code).setF Fld.CTL_UPD_RESULT_WHERE place).setF Fld.CTL_UPD_RESULT_VALID 1

/-! ### ROM -/

/-- A defect of ACTIVE: CTL_IMG_DEFECT holds it, with the section it concerns, and the device enters Umber mode (R55). -/
def State.activeDefect (s : State) (code : Nat) (sec : Option Nat) : State :=
  let s := ((s.setF Fld.CTL_IMG_DEFECT_CODE code).setF Fld.CTL_IMG_DEFECT_VALID 1)
  let s := match sec with
    | some i => (s.setF Fld.CTL_IMG_DEFECT_SECTION i).setF Fld.CTL_IMG_DEFECT_SECTION_VALID 1
    | none => s
  s.enterUmber (if code = 1 then 1 else 2)

/-- ROM boots the image at NVM address `a`: its header is held, and section 0x0001 is read next (R49). -/
def State.bootImage (s : State) (a : Nat) : State :=
  s.onBoot (fun b => { b with held := false, base := a, header := s.nvmRead a 0x2000, dir := s.imageDir a, failedReads := [], loaded := [] })

/-- ROM boots ACTIVE, or enters Umber mode with its defect. -/
def State.bootActive (s : State) : State :=
  match s.partition 1 with
  | none => s.activeDefect 0x01 none
  | some p => match s.headerDefect p.start p.size with
    | some d => s.activeDefect d (if d = 0x0C then layoutFault (s.nvmNat (p.start + 8) 4) (s.imageDir p.start) else none)
    | none => s.bootImage p.start

/-- A staging area that fails its checks is given up: CTL_UPD_RESULT records the defect, the header is erased, and event 9
waits for OPERATIONAL (R496). -/
def State.discardStaging (s : State) (code place : Nat) : State :=
  ((s.updResult code place).eraseHeader).onBoot (fun b => { b with owed := if b.owed.contains 9 then b.owed else b.owed ++ [9] })

/-- ROM looks for an update (R496, R497): an ARMED staging area that passes its checks boots in place of ACTIVE, BOOTING being
recorded first, which the window must allow. -/
def State.bootStagedOr (s : State) : State :=
  match s.partition 2 with
  | none => s.bootActive
  | some p =>
    if !s.stagingArmed then s.bootActive
    else match s.activationDefect p.start with
      | some (code, place) => (s.discardStaging code place).bootActive
      | none =>
        let m := p.start + 0x1000
        let mine := (s.manifestParts m).filter (fun q => q.kind == 1 && q.target == s.io.part)
        let resume := s.copying
        if !resume && !s.windowOpen then s.bootActive
        else
          let s := if resume then s else s.onNvm (fun v => { v with journal := .booting })
          let w := s.nvmNat (m + 0x18) 2
          let s := (s.setF Fld.CTL_BOOT_ACTIVATING 1).setF Fld.CTL_WDOG_PERIOD (if w = 0 then 20 else w)
          let s := s.setF Fld.CTL_WDOG_LEFT (s.getF Fld.CTL_WDOG_PERIOD)
          s.bootImage (p.start + (mine.head?.map (·.off)).getD 0)

/-- R472 in ROM, LOADING and Umber mode: the window from the mean of the two diode readings. -/
def State.bootWindow (s : State) (was : Bool) : State :=
  let m := (s.boot.diode0 + s.boot.diode1) / 2
  (s.setF Fld.THM_STATE_WINDOW (flag (s.windowAt was m))).setF Fld.THM_STATE_ERASE_OK (flag s.erasable)

/-- ROM starts (R480, R548): fuse check, the hold of R530, UMBER_N, the journal, the directory, staging and ACTIVE. -/
def State.rom (s : State) (umberLow : Bool) : State :=
  let s := s.onBoot (fun b => { b with held := false, startedAt := s.io.now })
  let s := (s.setF Fld.CTL_BOOT_STATE stROM).bootWindow true
  let s := (s.setF Fld.CTL_WDOG_LEFT (s.getF Fld.CTL_WDOG_PERIOD)).setF Fld.CTL_WDOG_STOPPED 0
  if !s.fusesOk then (s.alert 0 true).onBoot (fun b => { b with held := true })
  else if s.isF Fld.CTL_ERR_STAT_RESTART_BLOCKED then s.onBoot (fun b => { b with held := true })
  else if umberLow then (s.setF Fld.CTL_BOOT_STRAP 1).enterUmber 3
  else if s.boot.nvm.journal = .failed then s.enterUmber 6
  else if s.partitions.isNone then s.activeDefect 0x01 none
  else s.bootStagedOr

/-- The device restarts from ROM, UMBER_N being high or low. -/
def State.restart (s : State) (result : Bool) (umberLow : Bool := false) : State := (s.cleared false result).rom umberLow

/-- What PWRGOOD, RESET_N and the pins give the boot core as ROM starts: UMBER_N and the two diode readings in 1/16 °C, and
the instant (1/64 ns). -/
def State.startPins (s : State) (d0 d1 : Int) (t : Nat) : State :=
  (s.on (·.at t)).onBoot (fun b => { b with diode0 := d0, diode1 := d1 })

/-- R547: PWRGOOD rises: power-on. `programmed`: what a programmer wrote to the NVM while the device was in reset (R489). -/
def execPowerOn (umberLow : Bool) (d0 d1 : Int) (t : Nat) (s : State) (programmed : List (Nat × List Byte) := []) : Result :=
  .next (
    if s.boot.pwrgood || s.boot.railLow then s.onBoot (fun b => { b with pwrgood := true })
    else
      let s := (s.startPins d0 d1 t).onBoot (fun b => { b with pwrgood := true, powerAt := max s.io.now t })
      ((s.program programmed).cleared true false).rom umberLow)

/-- R547: RESET_N has been low for at least 400 crystal cycles and rises, PWRGOOD being high. `programmed` as at power-on. -/
def execDeviceReset (umberLow : Bool) (d0 d1 : Int) (t : Nat) (s : State) (programmed : List (Nat × List Byte) := []) : Result :=
  .next (
    if !s.boot.pwrgood || s.boot.railLow then s
    else
      let s := (s.startPins d0 d1 t).onBoot (fun b => { b with thermalRestart := false })
      (((s.setF Fld.CTL_ERR_STAT_RESTART_BLOCKED 0).program programmed).cleared false false true).rom umberLow)

/-- The device enters reset (R547): operations in progress are cut, and the pins are held. -/
def State.inReset (s : State) : State := (s.cleared false false true).onBoot (fun b => { b with held := true })

/-- R547: PWRGOOD falls. -/
def execPwrgoodFall (s : State) : Result := .next (if s.boot.pwrgood then s.inReset.onBoot (fun b => { b with pwrgood := false }) else s)

/-- R546: a monitored rail is low: the effect of PWRGOOD falling. -/
def execRailUndervoltage (s : State) : Result := .next (s.inReset.onBoot (fun b => { b with railLow := true }))

/-- R546: the rail recovers: PWRGOOD's effect ends, and the device starts as at power-on where PWRGOOD is high. -/
def execMonitoredRailRecovery (umberLow : Bool) (d0 d1 : Int) (t : Nat) (s : State) : Result :=
  .next (
    if !s.boot.railLow then s
    else
      let s := s.onBoot (fun b => { b with railLow := false })
      if s.boot.pwrgood then
        let s := (s.startPins d0 d1 t).onBoot (fun b => { b with powerAt := max s.io.now t })
        (s.cleared true false).rom umberLow
      else s)

/-! ### LOADING -/

/-- A defect found while the image is read (R55): in ACTIVE it leads to Umber mode; in a staged image the header is erased,
the code recorded with WHERE = 2, and the device restarts into ACTIVE once the header is erased (R497). -/
def State.imageDefect (s : State) (code : Nat) (sec : Option Nat) : State :=
  if s.isF Fld.CTL_BOOT_ACTIVATING then
    let s := s.discardStaging code 2
    if s.boot.nvm.eraseWaits then s.onBoot (fun b => { b with fallback := true, held := true }) else s.restart true
  else s.activeDefect code sec

/-- The channels that the part enables (R3, R147). -/
def State.enabledChannels (s : State) : List Nat :=
  (List.range 16).filter (fun c => s.io.regionActive (c / 4) && (!s.io.isTile || decide (c % 4 = 0)))

/-- A channel's RESULT code. -/
def State.trainResult (s : State) (c : Nat) : Nat := s.getF (Fld.DMC_CH_TRAIN_RESULT (c / 4) (c % 4))

/-- DRAM is up: every enabled channel is trained. -/
def State.dramUp (s : State) : Bool := s.enabledChannels.all (fun c => s.trainResult c == 1 || s.trainResult c == 2)

/-- The section that is read next (R49): 0x0001, then 0x0005, then, once DRAM is up, the rest in directory order. Sections that R46
skips are not read. -/
def State.nextSection (s : State) : Option Nat :=
  let unread := fun i => !(s.boot.loaded.any (fun e => e.1 == i))
  let pick := fun t => (dirIndex s.boot.dir t).filter unread
  match pick 1 with
  | some i => some i
  | none => match pick 5 with
    | some i => some i
    | none => if (dirIndex s.boot.dir 5).isSome && !s.dramUp then none else (List.range s.boot.dir.length).find? (fun i => unread i &&
        (match s.boot.dir[i]? with | some d => !(decide (0x10 ≤ d.typ) && d.optional) | none => false))

/-- CC0 to CC3 start: the device enters LOADING, where the event collector starts, the persistent records are read and, when
the PCIe link is up, event 64 fires (R480, R503, R64). -/
def State.startLoading (s : State) : State :=
  let s := (s.enter stLOADING).loadRecords
  if s.io.linkUp then s.fire 64 else s

/-- R50: a section has been read: the bytes that the NVM delivered, where they differ from those it holds. -/
def State.sectionRead (s : State) (i : Nat) (got : Option (List Byte)) : State :=
  if s.boot.held || decide (stLOADING < s.io.boot) || s.nextSection != some i then s
  else match s.boot.dir[i]? with
    | none => s
    | some d =>
      if d.typ = 0 ∨ (0x10 ≤ d.typ ∧ !d.optional) then s.imageDefect 0x0B (some i)
      else
        let bs := got.getD (s.nvmRead (s.boot.base + d.off) d.len)
        if sha512 bs = d.digest then
          let s := s.onBoot (fun b => { b with loaded := b.loaded ++ [(i, bs)] })
          if d.typ = 1 ∧ s.io.boot = stROM then s.startLoading else s
        else if s.boot.failedReads.contains i then s.imageDefect 0x09 (some i)
        else s.onBoot (fun b => { b with failedReads := i :: b.failedReads })

def execImageSectionReadDone (index : Nat) (got : Option (List Byte)) (s : State) : Result := .next (s.sectionRead index got)

/-- R55: the NVM does not answer a read within 10 ms, while the image is being read. -/
def execNvmReadTimeout (sec : Option Nat) (s : State) : Result :=
  .next (if s.boot.held || !s.boot.pwrgood || decide (stLOADING < s.io.boot) then s else s.imageDefect 0x11 sec)

/-- R482: the watchdog expires. At an activating start before its copy has begun, FAILED is recorded, once the window allows
it (R497). -/
def State.watchdogExpiry (s : State) : State :=
  if s.boot.held || !s.boot.pwrgood || s.isF Fld.CTL_WDOG_STOPPED || decide (stOPERATIONAL ≤ s.io.boot) then s
  else
    let fail := s.isF Fld.CTL_BOOT_ACTIVATING && !s.copying
    let s := (s.enterUmber 4).bootWindow s.windowOpen
    if !fail then s
    else if s.windowOpen then s.onNvm (fun v => { v with journal := .failed })
    else s.onNvm (fun v => { v with failedWaits := true })

def execBootWatchdogExpiry (s : State) : Result := .next s.watchdogExpiry

/-- An Umber BLOCK is programmed, or waits for the window (R487); METER is protected by R42. -/
def State.programBlock (s : State) : State :=
  match s.boot.stage.block, s.partition 2 with
  | some (off, bs, _), some p => if s.windowOpen && s.eraseOk then s.nvmWrite (p.start + off) bs else s
  | _, _ => s

/-- R51: in ROM, LOADING or Umber mode the mean of the diode readings crosses the window's limits: waiting writes proceed. -/
def State.diodeWindow (s : State) (d0 d1 : Int) : State :=
  if !s.boot.pwrgood || !(decide (s.io.boot ≤ stLOADING) || s.io.boot == stUMBER) then s
  else
    let was := s.windowOpen
    let s := (s.onBoot (fun b => { b with diode0 := d0, diode1 := d1 })).bootWindow was
    if was || !s.windowOpen then s
    else
      let s := if s.boot.nvm.failedWaits then s.onNvm (fun v => { v with journal := .failed, failedWaits := false }) else s
      let s := if s.boot.nvm.eraseWaits && s.eraseOk then s.eraseHeaderNow else s
      let s := if s.eraseOk then s.onNvm (fun v => { v with programWaits := false }) else s
      let s := s.programBlock
      if s.boot.fallback && !s.boot.nvm.eraseWaits then s.restart true else s

def execDiodeWindowChange (d0 d1 : Int) (s : State) : Result := .next (s.diodeWindow d0 d1)

end Sys2Proof.Machine
end

