-- ==== Sys2Proof/Machine/Umber.lean ====
section
/-! DEFINITION. Staging at a device as a target (R492 to R495) and the commands of Umber mode (R486 to R490). -/

namespace Sys2Proof.Machine

/-- The staging part of the state replaced. -/
def State.onStage (s : State) (f : Stage → Stage) : State := s.onBoot (fun b => { b with stage := f b.stage })

/-- CTL_UPD_STATE.STATE codes (R501). -/
def uIDLE : Nat := 0
def uRECEIVING : Nat := 1
def uPROGRAMMING : Nat := 2
def uARMED : Nat := 3
def uFAILED : Nat := 4
def uCOPYING : Nat := 5

/-- CTL_UPD_STATE.STATE. -/
def State.upd (s : State) : Nat := s.getF Fld.CTL_UPD_STATE_STATE

/-- The chunks of a staging of TOTAL bytes: the 4 KiB blocks from offset 0x1000 up. -/
def stageChunks (total : Nat) : List Nat := (List.range (ceilDiv total 4096)).drop 1

/-- The chunks of this device's staging that have not been received. -/
def State.missingChunks (s : State) : List Nat := (stageChunks s.boot.stage.total).filter (fun c => !s.boot.stage.chunks.contains c)

/-- OPEN at a target (R493): its staging and any failed-activation record are discarded, and transaction TXN begins. -/
def State.stageOpen (s : State) (txn total : Nat) : State :=
  let s := s.eraseHeader.onNvm (fun v => { v with journal := if v.journal = .failed then .clear else v.journal })
  let s := s.onStage (fun g => { g with total := total, chunks := [], bytes := [], programmed := [], fails := 0 })
  let s := ((s.setF Fld.CTL_UPD_STATE_STATE uRECEIVING).setF Fld.CTL_UPD_STATE_TXN txn).setF Fld.CTL_UPD_PROGRESS_CHUNKS 0
  s.setF Fld.CTL_UPD_RESULT_VALID 0

/-- The chunks that bytes `[off, off + n)` of a staging of TOTAL bytes cover whole. -/
def coveredChunks (total off n : Nat) : List Nat :=
  (stageChunks total).filter (fun c => decide (off ≤ 4096 * c ∧ min total (4096 * (c + 1)) ≤ off + n))

/-- DATA at a target: the bytes are kept in DRAM and their chunks marked. -/
def State.stageKeep (s : State) (off : Nat) (bs : List Byte) : State :=
  let s := s.onStage (fun g =>
    let cs := coveredChunks g.total off bs.length
    { g with bytes := memWrite nvmErased g.bytes off bs, chunks := g.chunks ++ cs.filter (fun c => !g.chunks.contains c) })
  s.setF Fld.CTL_UPD_PROGRESS_CHUNKS s.boot.stage.chunks.length

/-- The staged bytes are programmed into STAGING (R494, R42). -/
def State.stageProgram (s : State) : State :=
  match s.partition 2 with
  | none => s
  | some p => s.nvmWrite (p.start + 0x1000) (memRead nvmErased s.boot.stage.bytes 0x1000 (s.boot.stage.total - 0x1000))

/-- The staging header is written: the staging is ARMED, and event 7 fires (R492, R502). -/
def State.stageArm (s : State) : State :=
  match s.partition 2 with
  | none => s
  | some p =>
    ((s.nvmWrite p.start (stagingHeader 1 (s.getF Fld.CTL_UPD_STATE_TXN) s.boot.stage.total)).setF Fld.CTL_UPD_STATE_STATE uARMED).fire 7

/-- CLOSE at a target: with every chunk received it programs and verifies its staging, waiting for the window (R494, R495). -/
def State.stageClose (s : State) : State :=
  if s.upd = uRECEIVING ∧ s.missingChunks.isEmpty then
    if s.io.boot = stUMBER ∧ (stageChunks s.boot.stage.total).all s.boot.stage.programmed.contains then s.stageArm
    else (s.setF Fld.CTL_UPD_STATE_STATE uPROGRAMMING).onNvm (fun v => { v with programWaits := !(s.windowOpen && s.eraseOk) })
  else s

/-- DISCARD at a target: the staging header is erased. -/
def State.stageDiscard (s : State) : State :=
  (s.eraseHeader.onStage (fun g => { g with total := 0, chunks := [], bytes := [], programmed := [], fails := 0 })).setF Fld.CTL_UPD_STATE_STATE uIDLE

/-! ### Umber commands -/

/-- A write to CTL_UMB_CMD is accepted: Umber mode, and no command runs (R487). -/
def State.umberReady (s : State) : Bool := decide (s.io.boot = stUMBER) && !s.isF Fld.CTL_UMB_STAT_BUSY

/-- A command ends with a RESULT. -/
def State.umberEnd (s : State) (r : Nat) : State := (s.setF Fld.CTL_UMB_STAT_BUSY 0).setF Fld.CTL_UMB_STAT_RESULT r

/-- The RESULT of a command whose writes are read back: NVM_ERROR while the port's pins are high-impedance (R489, log 94), else OK. -/
def State.nvmResult (s : State) : Nat := if s.nvmHiZ then 4 else 0

/-- CTL_UMB_CMD holds the command written. -/
def State.umberCmd (s : State) (cmd : Nat) (f : State → State) : State :=
  if s.umberReady then f (s.setF Fld.CTL_UMB_CMD_CMD cmd) else s

def execUmberNone (s : State) : Result := .next (s.umberCmd 0 (·.umberEnd 0))

/-- An entry of a directory (R40). -/
def dirEntry (p : Partition) : List Byte := leBytes 2 p.typ ++ zeros 2 ++ leBytes 4 p.start ++ leBytes 4 p.size ++ zeros 20

/-- The default layout of R490. -/
def State.defaultLayout (s : State) : List Partition :=
  [{ typ := 5, start := 0x20000, size := 0x80000 }] ++
  (if s.io.isSender then [] else [{ typ := 3, start := 0x100000, size := 0x100000 }]) ++
  [{ typ := 4, start := 0x200000, size := 0xE00000 }, { typ := 1, start := 0x1000000, size := 0x3800000 },
   { typ := 2, start := 0x4800000, size := 0x3800000 }]

/-- A directory copy with a list of partitions (R40): sequence number 0. -/
def directoryBytes (ps : List Partition) : List Byte :=
  let h := [0x4E, 0x56, 0x4D, 0x44] ++ leBytes 4 0 ++ leBytes 4 ps.length ++ zeros 52 ++ ps.flatMap dirEntry
  let b := h ++ zeros (0xFFC - h.length)
  b ++ leBytes 4 (crc32 b)

/-- R487: FORMAT writes both directory copies when no valid copy exists. -/
def State.umberFormat (s : State) : State :=
  if s.directory.isSome then s.umberEnd 3
  else
    let d := directoryBytes s.defaultLayout
    ((s.nvmWrite 0 d).nvmWrite 0x10000 d).umberEnd s.nvmResult

def execUmberFormat (s : State) : Result := .next (s.umberCmd 1 State.umberFormat)

/-- R487: OPEN begins a local staging transaction of CTL_UMB_LENGTH bytes. -/
def State.umberOpen (s : State) : State :=
  if (s.partition 2).isNone then s.umberEnd 3
  else
    let txn := s.boot.stage.nextTxn
    ((s.onStage (fun g => { g with nextTxn := (g.nextTxn + 1) % 65536 })).stageOpen txn (s.getF Fld.CTL_UMB_LENGTH_LENGTH)).umberEnd 0

def execUmberOpen (s : State) : Result := .next (s.umberCmd 2 State.umberOpen)

/-- The first `n` bytes of the Umber buffer. -/
def State.umberBuf (s : State) (n : Nat) : List Byte :=
  ((List.range (ceilDiv n 4)).flatMap (fun i => leBytes 4 (s.getF (Fld.CTL_UMB_BUF i)))).take n

/-- R487: BLOCK programs the buffer into STAGING; while the window is closed it waits with BUSY. -/
def State.umberBlock (s : State) : State :=
  let n := s.getF Fld.CTL_UMB_LENGTH_LENGTH
  let off := s.getF Fld.CTL_UMB_OFFSET
  if n % 4 ≠ 0 ∨ n < 4 ∨ 65536 < n ∨ off % 4096 ≠ 0 ∨ off < 0x1000 ∨ s.boot.stage.total < off + n then s.umberEnd 2
  else if s.upd ≠ uRECEIVING ∨ (s.partition 2).isNone then s.umberEnd 3
  else if (match s.partition 2 with | some p => decide (p.size < off + n) | none => false) then s.umberEnd 2
  else
    let s := s.onStage (fun g => { g with block := some (off, s.umberBuf n, 0) })
    (s.setF Fld.CTL_UMB_STAT_BUSY 1).programBlock

def execUmberBlock (s : State) : Result := .next (s.umberCmd 3 State.umberBlock)

/-- R487: a BLOCK has been programmed and read back: OK, or NVM_ERROR after a second failed read-back. -/
def execUmberBlockProgrammed (readback : Bool) (s : State) : Result :=
  .next (match s.boot.stage.block with
    | none => s
    | some (off, bs, fails) =>
      if !s.windowOpen || s.io.boot ≠ stUMBER then s
      else if readback && !s.nvmHiZ then
        let s := s.onStage (fun g =>
          let cs := coveredChunks g.total off bs.length
          { g with block := none, chunks := g.chunks ++ cs.filter (fun c => !g.chunks.contains c), programmed := g.programmed ++ cs })
        (s.setF Fld.CTL_UPD_PROGRESS_CHUNKS s.boot.stage.chunks.length).umberEnd 0
      else if fails = 0 then (s.onStage (fun g => { g with block := some (off, bs, 1) })).programBlock
      else (s.onStage (fun g => { g with block := none })).umberEnd 4)

/-- R487: CLOSE arms the staging when every chunk up to TOTAL has been programmed. -/
def execUmberClose (s : State) : Result :=
  .next (s.umberCmd 4 fun s => if s.upd = uRECEIVING ∧ s.missingChunks.isEmpty then s.stageArm.umberEnd s.nvmResult else s.umberEnd 3)

/-- R487: DISCARD erases the staging header. -/
def execUmberDiscard (s : State) : Result := .next (s.umberCmd 5 (fun s => s.stageDiscard.umberEnd s.nvmResult))

/-- R487: RESTART restarts from ROM. `programmed`: what a programmer wrote in Umber mode of cause STRAP (R489). -/
def execUmberRestart (s : State) (programmed : List (Nat × List Byte) := []) : Result :=
  .next (s.umberCmd 6 (fun s => (if s.nvmHiZ then s.program programmed else s).restart false))

/-- R487: BOOT_ACTIVE clears a failed activation from the journal, discards the staging and restarts. -/
def execUmberBootActive (s : State) : Result :=
  .next (s.umberCmd 7 fun s => (s.stageDiscard.onNvm (fun v => { v with journal := .clear })).restart false)

/-- R487: a reserved command reports BAD_CMD. -/
def execUmberBadCmd (cmd : Nat) (s : State) : Result := .next (s.umberCmd cmd (·.umberEnd 1))

end Sys2Proof.Machine
end

