-- ==== Sys2Proof/Machine/Stage.lean ====
section
/-! DEFINITION. STAGE entries and packets, activation, WALL_RESTART and attestation (R493 to R500), and wall commands (R484). -/

namespace Sys2Proof.Machine

/-- Executing an entry whose effect reaches beyond the shared part (R118): as `Io.onEntry`. -/
def State.onEntry (s : State) (n i op : Nat) (need64 : Bool) (fieldsOk : List Byte → Bool) (body : List Byte → State → State) : State :=
  let r := s.io.ring n
  match r.entryAt i with
  | none => s
  | some e =>
    if fieldAt e 0 1 ≠ op then s
    else match s.io.entryStatus n r e need64 (fieldsOk e) with
      | some st =>
        let s := if st = 0x03 ∧ n = 0 ∧ !s.isF Fld.HRG_RIGHTS_CONTROL then s.fire 74 else s
        s.on (·.answer n i e { status := st })
      | none => body e s

/-! ### Wall commands -/

/-- The output chains of this unit. -/
def State.outputs (s : State) : List Nat := (List.range 16).filter (fun p => s.isOutput p && (s.route p).isSome)

/-- The payload of a WALL_CMD (R484). -/
def wallPayload (cmd : Nat) (body : List Byte) : List Byte := leBytes 1 cmd ++ zeros 3 ++ sub body 0 12

/-- A WALL_CMD addressed to a tile. -/
def State.wallCmdTo (s : State) (chain pos cmd : Nat) (body : List Byte) : State :=
  s.queueBulk chain (packetBytes 0x07 false chain pos (wallPayload cmd body))

/-- A WALL_CMD broadcast on the output chains that satisfy `p`. -/
def State.wallCmdAll (s : State) (p : Nat → Bool) (cmd : Nat) (body : List Byte) : State :=
  (s.outputs.filter p).foldl (fun s c => s.queueBulk c (packetBytes 0x07 true c 0 (wallPayload cmd body))) s

/-- A WALL_CMD with a given CMD that this tile keeps, in a boot state where it is acted on: its body (R484). -/
def State.keptCmd (s : State) (p cmd : Nat) (bs : List Byte) (states : List Nat) : State × Option (List Byte) :=
  match s.kept p 0x07 bs with
  | (s, some pl) => if s.io.isTile ∧ fieldAt pl 0 1 = cmd ∧ states.contains s.io.boot then (s, some (pl.drop 4)) else (s, none)
  | (s, none) => (s, none)

/-! ### STAGE packets -/

/-- The payload of a STAGE packet (R494). -/
def stagePayload (op part txn word n : Nat) (bs : List Byte) : List Byte :=
  leBytes 1 op ++ leBytes 1 part ++ leBytes 2 txn ++ leBytes 4 word ++ leBytes 4 n ++ zeros 4 ++ bs

/-- The chains that a STAGE or WALL_RESTART entry reaches: TKIND 1 and 2 name one chain, 3 every output chain. -/
def State.targetChains (s : State) (tkind chain : Nat) : List Nat := if tkind = 3 then s.outputs else [chain]

/-- A STAGE packet queued for the targets of an entry: addressed for a TILE, broadcast for CHAIN and WALL (R494). -/
def State.stageSend (s : State) (tkind chain pos : Nat) (payload : List Byte) : State :=
  (s.targetChains tkind chain).foldl (fun s c => s.queueBulk c (packetBytes 0x06 (tkind != 1) c (if tkind = 1 then pos else 0) payload)) s

/-- The DATA packets of bytes at staging offset `off`, in chunks of at most 4,096 bytes. -/
def State.stageSendData (tkind chain pos part txn : Nat) : Nat → Nat → List Byte → State → State
  | 0, _, _, s => s
  | k + 1, off, bs, s =>
    if bs.isEmpty then s
    else
      let c := bs.take 4096
      State.stageSendData tkind chain pos part txn k (off + c.length) (bs.drop 4096)
        (s.stageSend tkind chain pos (stagePayload 1 part txn (off / 4096) c.length c))

/-- Whether a STAGE packet waits in a bulk queue of a chain. -/
def State.stageQueued (s : State) (c : Nat) : Bool :=
  (s.port c).bulk.any (fun b => fieldAt b 0 1 == 0x06)

/-- The entry of the STAGE job completes, and the next may run. -/
def State.finishJob (s : State) (j : StageJob) (d : Done) : State :=
  let s := s.onStage (fun g => { g with job := none })
  match (s.io.ring j.ring).active.find? (fun a => a.1 == j.index) with
  | some (_, e) => s.on (·.finish j.ring j.index e d)
  | none => s

/-- A chain OPEN, DATA or DISCARD entry completes once its packets have been sent (R493). -/
def State.stageProgress (s : State) : State :=
  match s.boot.stage.job with
  | some j => if j.op ≠ 2 ∧ !(s.targetChains j.tkind j.chain).any s.stageQueued then s.finishJob j { info := j.fin - j.off } else s
  | none => s

/-- The tiles that a CLOSE or QUERY reaches: those of the target chains whose PART is known to match, or any (R493). -/
def State.targetTiles (s : State) (tkind chain pos part : Nat) : List (Nat × Nat) :=
  if tkind = 1 then [(chain, pos)]
  else (s.targetChains tkind chain).flatMap (fun c =>
    let n := match s.route c with | some r => r.tiles | none => 0
    ((List.range n).filter (fun p => part == 0xFF || (s.tile c p).part == some part)).map (fun p => (c, p)))

/-- A CLOSE job completes when every target reports ARMED (R493). -/
def State.closeProgress (s : State) : State :=
  match s.boot.stage.job with
  | some j =>
    if j.op = 2 ∧ j.tkind ≠ 0 ∧ j.targets.all (fun t => t.2.2.2 == 1) then s.finishJob j { info := j.targets.length }
    else if j.op = 2 ∧ j.tkind = 0 ∧ s.upd = uARMED then s.finishJob j { info := 1 }
    else s
  | none => s

/-- Reserved fields of STAGE are 0 (R493). -/
def stageFieldsOk (e : List Byte) : Bool := decide (fieldAt e 13 1 < 2) && allZero e 15 1 && allZero e 40 24

/-- The DETAIL with which a STAGE entry is rejected (R493). -/
def State.stageReject (s : State) (e : List Byte) : Option Nat :=
  let op := fieldAt e 8 1
  let tk := fieldAt e 9 1
  let chain := fieldAt e 10 1
  let off := fieldAt e 24 8
  let len := fieldAt e 32 8
  let total := if tk = 0 then s.boot.stage.total else match s.boot.stage.opened with | some (_, t) => t | none => 0
  let size := match s.partition 2 with | some p => p.size | none => 0
  if 3 < op ∨ 3 < tk ∨ (tk ≠ 0 ∧ s.outputs.isEmpty) then some 1
  else if op = 1 ∧ (off % 4096 ≠ 0 ∨ off < 0x1000 ∨ total < off + len ∨ (tk = 0 ∧ size < off + len)) then some 2
  else if op = 1 ∧ (len = 0 ∨ len % 4 ≠ 0) then some 3
  else if (tk = 1 ∨ tk = 2) ∧ (!s.outputs.contains chain || s.portState chain = 4) then some 4
  else if tk = 0 ∧ (s.upd = uCOPYING ∨ s.copying) then some 5
  else none

/-- A STAGE entry with OP `op` (an entry with a reserved OP executes here as OPEN's): one runs at a time (R495). -/
def State.stageEntry (s : State) (ring i : Nat) (mine : Nat → Bool) (run : List Byte → State → State) : State :=
  match (s.io.ring ring).entryAt i with
  | none => s
  | some e0 =>
    if fieldAt e0 0 1 ≠ 0x42 ∨ !mine (fieldAt e0 8 1) ∨ s.boot.stage.job.isSome ∨ s.io.owed.any (fun o => fieldAt o.entry 0 1 == 0x42) then s
    else s.onEntry ring i 0x42 true stageFieldsOk fun e s =>
      match s.stageReject e with
      | some d => s.on (·.answer ring i e { status := 0x01, detail := d })
      | none => run e s

/-- A STAGE entry that its chain targets or a later event complete becomes the job. -/
def State.startJob (s : State) (ring i : Nat) (e : List Byte) (off fin : Nat) (targets : List (Nat × Nat × Nat × Nat)) : State :=
  (s.on (·.activate ring i e)).onStage (fun g => { g with job := some {
    ring := ring, index := i, op := fieldAt e 8 1, tkind := fieldAt e 9 1, chain := fieldAt e 10 1, position := fieldAt e 11 1,
    part := fieldAt e 12 1, off := off, fin := fin, targets := targets } })

/-- R493: OPEN. -/
def execStageOpen (ring i : Nat) (s : State) : Result :=
  .next (s.stageEntry ring i (fun op => op != 1 && op != 2 && op != 3) fun e s =>
    let txn := s.boot.stage.nextTxn
    let total := fieldAt e 24 8 % 2 ^ 32
    let s := s.onStage (fun g => { g with nextTxn := (g.nextTxn + 1) % 65536 })
    if fieldAt e 9 1 = 0 then (s.stageOpen txn total).on (·.answer ring i e {})
    else
      let s := s.onStage (fun g => { g with opened := some (txn, total), sentBytes := [] })
      ((s.startJob ring i e 0 0 []).stageSend (fieldAt e 9 1) (fieldAt e 10 1) (fieldAt e 11 1) (stagePayload 0 (fieldAt e 12 1) txn total 0 [])))

/-- The source of a DATA entry is read in order, as far as it can be (R141, R142): its bytes, and the fault that ended them. `late`: the
offset whose read has timed out (R103). -/
def State.stageRead (s : State) (ring i : Nat) (mem : HostMem) (late : Option Nat) (e : List Byte) : State × List Byte × Option (Nat × Nat) :=
  let len := fieldAt e 32 8
  let src := fieldAt e 16 8
  let dram := bit (fieldAt e 13 1) 0
  let w := Waiter.entry ring i
  let n := match late with | some d => min d len | none => len
  let r := Io.readOps mem w 0 3 dram (if dram then 0 else fieldAt e 14 1) (opsOf src n) s.io
  ({ s with io := Io.settle (r.1.completeOwn w) }, r.2.1,
    match r.2.2, late with | none, some d => if d < len then some (8, src + d) else none | f, _ => f)

/-- The bytes of a DATA entry for tiles are kept and sent. -/
def State.stageForward (s : State) (e bs : List Byte) : State :=
  let txn := match s.boot.stage.opened with | some (t, _) => t | none => 0
  let off := fieldAt e 24 8
  State.stageSendData (fieldAt e 9 1) (fieldAt e 10 1) (fieldAt e 11 1) (fieldAt e 12 1) txn (fieldAt e 32 8 / 4096 + 1) off bs
    (s.onStage (fun g => { g with sentBytes := memWrite nvmErased g.sentBytes off bs }))

/-- What a DATA entry's source held is staged or sent. -/
def State.stageTake (s : State) (e bs : List Byte) : State :=
  if fieldAt e 9 1 = 0 then s.stageKeep (fieldAt e 24 8) bs else s.stageForward e bs

/-- A DATA entry for this device is owed its completion. -/
def State.stageOwe (s : State) (ring i : Nat) (e : List Byte) (d : Done) : State :=
  (s.on (·.activate ring i e)).on (·.owe { ring := ring, index := i, entry := e, done := d })

/-- R493: DATA. What the source held before a fault is staged or sent, and the rest is not (R141, R142). -/
def State.stageData (s : State) (ring i : Nat) (mem : HostMem) (late : Option Nat) : State :=
  s.stageEntry ring i (· == 1) fun e s =>
    match s.stageRead ring i mem late e with
    | (s, bs, some (k, a)) =>
      ((s.stageTake e bs).on (fun io => Io.settle ((io.countFault).logFault 0 a k 3
        (if bit (fieldAt e 13 1) 0 then 0 else fieldAt e 14 1) 36 none false))).stageOwe ring i e
          { status := 0x06, detail := k, info := a - fieldAt e 16 8 }
    | (s, bs, none) =>
      if fieldAt e 9 1 = 0 then (s.stageTake e bs).stageOwe ring i e { info := fieldAt e 32 8 }
      else (s.startJob ring i e (fieldAt e 24 8) (fieldAt e 24 8 + fieldAt e 32 8) []).stageForward e bs

def execStageData (ring i : Nat) (mem : HostData) (inFlight : Nat) (s : State) : Result := .next (s.stageData ring i { mem with inFlight := inFlight } none)

/-- R493: CLOSE. -/
def execStageClose (ring i : Nat) (s : State) : Result :=
  .next (s.stageEntry ring i (· == 2) fun e s =>
    let tk := fieldAt e 9 1
    if tk = 0 then ((s.startJob ring i e 0 0 []).stageClose).closeProgress
    else
      let ts := s.targetTiles tk (fieldAt e 10 1) (fieldAt e 11 1) (fieldAt e 12 1)
      let txn := match s.boot.stage.opened with | some (t, _) => t | none => 0
      let s := s.startJob ring i e 0 0 (ts.map (fun t => (t.1, t.2, 0, 0)))
      (s.stageSend tk (fieldAt e 10 1) (fieldAt e 11 1) (stagePayload 2 (fieldAt e 12 1) txn 0 0 [])).closeProgress)

/-- R493: DISCARD. -/
def execStageDiscard (ring i : Nat) (s : State) : Result :=
  .next (s.stageEntry ring i (· == 3) fun e s =>
    if fieldAt e 9 1 = 0 then s.stageDiscard.on (·.answer ring i e {})
    else
      let txn := match s.boot.stage.opened with | some (t, _) => t | none => 0
      (s.startJob ring i e 0 0 []).stageSend (fieldAt e 9 1) (fieldAt e 10 1) (fieldAt e 11 1) (stagePayload 3 (fieldAt e 12 1) txn 0 0 []))

/-- R493: a CLOSE entry reaches CLOSE_LIMIT seconds. -/
def execStageCloseTimeout (s : State) : Result :=
  .next (match s.boot.stage.job with
    | some j =>
      if j.op ≠ 2 then s
      else
        let armed := if j.tkind = 0 then flag (s.upd == uARMED) else (j.targets.filter (fun t => t.2.2.2 == 1)).length
        let all := if j.tkind = 0 then 1 else j.targets.length
        s.finishJob j { status := 0x02, info := armed % 65536 + 65536 * (all - armed) }
    | none => s)

/-! ### STAGE packets at a tile -/

/-- The first two runs of missing chunks (R494). -/
def missingRuns : Nat → List Nat → List (Nat × Nat)
  | 0, _ => []
  | _, [] => []
  | k + 1, c :: t =>
    let n := (List.range (t.length + 1)).foldl (fun n i => if n = i ∧ t[i]? = some (c + i + 1) then n + 1 else n) 0
    (c, n + 1) :: missingRuns k (t.drop n)

/-- The STAGE_ACK payload (R494). -/
def State.stageAck (s : State) : List Byte :=
  let r := missingRuns 2 s.missingChunks
  let a := r.getD 0 (0, 0)
  let b := r.getD 1 (0, 0)
  leBytes 2 (s.getF Fld.CTL_UPD_STATE_TXN) ++ leBytes 1 s.upd ++ zeros 1 ++ leBytes 4 a.1 ++ leBytes 4 a.2 ++ leBytes 4 b.1 ++ leBytes 4 b.2

/-- A tile sends a STAGE_ACK. -/
def State.sendStageAck (s : State) : State := if s.io.isTile then s.queueReturn 0x6 s.stageAck else s

/-- A STAGE packet with OP `op` that this tile keeps and whose PART filter matches (R494). -/
def State.stagePacket (s : State) (p op : Nat) (bs : List Byte) (f : List Byte → State → State) : State :=
  match s.kept p 0x06 bs with
  | (s, some pl) =>
    let part := fieldAt pl 1 1
    if s.io.isTile ∧ fieldAt pl 0 1 = op ∧ (part = 0xFF ∨ part = s.io.part) then f pl s else s
  | (s, none) => s

def execStageOpenPacket (port : Nat) (packet : List Byte) (s : State) : Result :=
  .next (s.stagePacket port 0 packet fun pl s => s.stageOpen (fieldAt pl 2 2) (fieldAt pl 4 4))

/-- R494: a chunk is kept in DRAM and marked; in Umber mode it is programmed at once, unless the window or the erase rule holds that up
(R488, R495): it is then programmed after CLOSE. -/
def execStageDataPacket (port : Nat) (packet : List Byte) (s : State) : Result :=
  .next (s.stagePacket port 1 packet fun pl s =>
    if s.upd ≠ uRECEIVING ∨ s.getF Fld.CTL_UPD_STATE_TXN ≠ fieldAt pl 2 2 then s
    else
      let off := 4096 * fieldAt pl 4 4
      let bs := sub pl 16 (min 4096 (fieldAt pl 8 4))
      let s := s.stageKeep off bs
      match s.io.boot == stUMBER && s.windowOpen && s.eraseOk, s.partition 2 with
      | true, some q => (s.nvmWrite (q.start + off) bs).onStage (fun g => { g with programmed := g.programmed ++ coveredChunks g.total off bs.length })
      | _, _ => s)

def execStageClosePacket (port : Nat) (packet : List Byte) (s : State) : Result :=
  .next (s.stagePacket port 2 packet fun pl s =>
    (if s.getF Fld.CTL_UPD_STATE_TXN = fieldAt pl 2 2 then s.stageClose else s).sendStageAck)

def execStageDiscardPacket (port : Nat) (packet : List Byte) (s : State) : Result :=
  .next (s.stagePacket port 3 packet fun _ s => s.stageDiscard)

def execStageQueryPacket (port : Nat) (packet : List Byte) (s : State) : Result :=
  .next (s.stagePacket port 4 packet fun _ s => s.sendStageAck)

/-- R494: a target has programmed its staging and read it back: ARMED, or FAILED with event 8 after the second failure. -/
def execStageProgramDone (readback : Bool) (s : State) : Result :=
  .next (
    if s.upd ≠ uPROGRAMMING ∨ s.boot.nvm.programWaits then s
    else if readback then (s.stageProgram.stageArm.sendStageAck).closeProgress
    else if s.boot.stage.fails = 0 then s.onStage (fun g => { g with fails := 1 })
    else ((s.setF Fld.CTL_UPD_STATE_STATE uFAILED).fire 8).sendStageAck)

/-! ### STAGE_ACK at the unit -/

/-- Runs of chunks sent again, addressed to a tile. -/
def State.resendRun (s : State) (chain pos part txn total first count : Nat) : State :=
  (List.range count).foldl (fun s k =>
    let c := first + k
    let n := min 4096 (total - 4096 * c)
    if n = 0 then s else s.stageSend 1 chain pos (stagePayload 1 part txn c n (memRead nvmErased s.boot.stage.sentBytes (4096 * c) n))) s

/-- R494: a tile's STAGE_ACK during a CLOSE: armed, not armed, or another round of its missing chunks. -/
def State.stageAckReceived (s : State) (chain pos : Nat) (pl : List Byte) : State :=
  match s.boot.stage.job with
  | some j =>
    match j.targets.find? (fun t => t.1 == chain && t.2.1 == pos) with
    | none => s
    | some (_, _, rounds, st) =>
      let (txn, total) := s.boot.stage.opened.getD (0, 0)
      let state := fieldAt pl 2 1
      let set := fun (r x : Nat) (s : State) => s.onStage (fun g => { g with job := some { j with
        targets := j.targets.map (fun t => if t.1 == chain && t.2.1 == pos then (chain, pos, r, x) else t) } })
      if j.op ≠ 2 ∨ st ≠ 0 then s
      else if fieldAt pl 0 2 ≠ txn ∨ state = uIDLE ∨ state = uFAILED then set rounds 2 s
      else if state = uARMED then (set rounds 1 s).closeProgress
      else if state = uRECEIVING then
        if max 1 (s.getF Fld.CTL_UPD_CFG_ROUNDS) ≤ rounds then set rounds 2 s
        else
          let s := s.resendRun chain pos j.part txn total (fieldAt pl 4 4) (min (ceilDiv total 4096) (fieldAt pl 8 4))
          let s := s.resendRun chain pos j.part txn total (fieldAt pl 12 4) (min (ceilDiv total 4096) (fieldAt pl 16 4))
          (set (rounds + 1) 0 s).stageSend 1 chain pos (stagePayload 2 j.part txn 0 0 [])
      else s
  | none => s

def execStageAckReceived (port : Nat) (cell : List Byte) (s : State) : Result :=
  .next (match s.acceptCell port 0x6 cell with
    | (s, some c) => s.stageAckReceived c.chain c.position c.payload
    | (s, none) => s)

/-! ### Activation copy -/

/-- The image part in staging, its NVM address and length in 64 KiB sectors. -/
def State.stagedSectors (s : State) : Nat := ceilDiv (leNat (sub s.boot.header 8 4)) 0x10000

/-- The first sector that the journal does not record. -/
def State.nextSector (s : State) : Option Nat :=
  match s.boot.nvm.journal with
  | .copying l => (List.range s.stagedSectors).find? (fun i => !l.contains i)
  | _ => none

/-- R497: after OPERATIONAL the copy of the staged image into ACTIVE starts, or resumes. -/
def execActivationCopy (s : State) : Result :=
  .next (
    if !s.io.operational || !s.isF Fld.CTL_BOOT_ACTIVATING || s.upd = uCOPYING then s
    else
      let l := match s.boot.nvm.journal with | .copying l => l | _ => []
      let s := s.onNvm (fun v => { v with journal := .copying l })
      (s.setF Fld.CTL_UPD_STATE_STATE uCOPYING).setF Fld.CTL_UPD_PROGRESS_CHUNKS (16 * l.length))

/-- R497: the copy is complete: the OTP counter rises, the staging header is erased, the journal cleared and event 10 fires. -/
def State.activationFinish (s : State) : State :=
  let rb := leNat (sub s.boot.header 0x10 4)
  let s := s.setF Fld.CTL_OTP_ROLLBACK (max rb (s.getF Fld.CTL_OTP_ROLLBACK))
  let s := s.eraseHeader.onNvm (fun v => { v with journal := .clear })
  ((s.setF Fld.CTL_BOOT_ACTIVATING 0).setF Fld.CTL_UPD_STATE_STATE uIDLE).fire 10

/-- The staged package holds a metering part for this part (R458, R491). -/
def State.meterPart (s : State) : Bool :=
  match s.partition 2 with
  | some p => (s.manifestParts (p.start + 0x1000)).any (fun q => q.kind == 2 && q.target == s.io.part)
  | none => false

/-- R497: the activation ends once every sector is copied and the metering core has taken or refused its part. -/
def State.activationEnd (s : State) : State :=
  if s.upd = uCOPYING ∧ s.nextSector = none ∧ (!s.meterPart || s.boot.meterReported) then s.activationFinish else s

/-- R497: a sector has been programmed and read back: it is recorded where it reads back as programmed, and otherwise copied again
(DEDUCED, log 76). -/
def execActivationSectorDone (sector : Nat) (same : Bool) (s : State) : Result :=
  .next (
    if s.upd ≠ uCOPYING || !s.windowOpen then s
    else match s.boot.nvm.journal, s.partition 1 with
      | .copying l, some p =>
        let s :=
          if s.nextSector = some sector then
            let size := leNat (sub s.boot.header 8 4)
            let n := min 0x10000 (size - 0x10000 * sector)
            let s := s.nvmWrite (p.start + 0x10000 * sector) (s.nvmRead (s.boot.base + 0x10000 * sector) n)
            if !same then s
            else
              let s := s.onNvm (fun v => { v with journal := .copying (l ++ [sector]) })
              s.setF Fld.CTL_UPD_PROGRESS_CHUNKS (16 * (l.length + 1))
          else s
        s.activationEnd
      | _, _ => s)

/-! ### WALL_RESTART -/

/-- The body of a RESTART command (R484). -/
def restartBody (r part : Nat) : List Byte := leBytes 6 r ++ leBytes 1 part ++ zeros 5

/-- R498: a WALL_RESTART entry. -/
def execWallRestart (ring i : Nat) (s : State) : Result :=
  .next (s.onEntry ring i 0x43 true (fun _ => true) fun e s =>
    let tk := fieldAt e 8 1
    let chain := fieldAt e 9 1
    let flags := fieldAt e 13 1
    let r := fieldAt e 16 6
    if s.boot.wallRestart.isSome then s
    else if 3 < tk ∨ 1 < flags ∨ !allZero e 14 2 ∨ !allZero e 22 42 then s.on (·.answer ring i e { status := 0x01, detail := 1 })
    else if r < s.io.tick + 12 then s.on (·.answer ring i e { status := 0x01, detail := 2 })
    else if (tk = 1 ∨ tk = 2) ∧ (!s.outputs.contains chain || s.portState chain = 4) then s.on (·.answer ring i e { status := 0x01, detail := 3 })
    else (s.on (·.activate ring i e)).onBoot (fun b => { b with wallRestart := some {
      ring := ring, index := i, tkind := tk, chain := chain, position := fieldAt e 10 1, part := fieldAt e 11 1, tick := r,
      localToo := bit flags 0 || tk == 0 } }))

/-- R498 at a tick: the RESTART copies of the periods R − 10 to R − 3, the completion after the last, and this unit's own
restart. -/
def State.wallRestartTick (s : State) : State :=
  match s.boot.wallRestart with
  | none => s
  | some w =>
    let t := s.io.tick
    let s := if w.tick ≤ t + 10 ∧ t + 3 ≤ w.tick then
        if w.tkind = 1 then s.wallCmdTo w.chain w.position 0x02 (restartBody w.tick w.part)
        else if w.tkind = 0 then s
        else s.wallCmdAll (fun c => w.tkind == 3 || c == w.chain) 0x02 (restartBody w.tick w.part)
      else s
    if w.tick ≤ t + 2 then
      let s := s.onBoot (fun b => { b with wallRestart := none, restartAt := if w.localToo then some w.tick else b.restartAt })
      match (s.io.ring w.ring).active.find? (fun a => a.1 == w.index) with
      | some (_, e) => s.on (·.finish w.ring w.index e { info := w.tick })
      | none => s
    else s

/-- R485: a RESTART command arrives at a tile whose PART matches: the first copy is adopted, with event 11; a tile in JOINING
or UMBER restarts as it arrives. -/
def execRestartReceived (port : Nat) (packet : List Byte) (s : State) : Result :=
  .next (match s.keptCmd port 0x02 packet [stJOINING, stOPERATIONAL, stUMBER] with
    | (s, some b) =>
      let part := fieldAt b 6 1
      if part ≠ 0xFF ∧ part ≠ s.io.part then s
      else if s.io.boot ≠ stOPERATIONAL then s.restart false
      else if s.boot.restartAt.isSome || s.boot.restartAfter.isSome then s
      else (s.onBoot (fun b' => { b' with restartAt := some (fieldAt b 0 6) })).fire 11
    | (s, none) => s)

/-- R485 at a tick: from tick R − 1, or the next one when R has passed, limits of 0 are latched; the device restarts after the
sync of the following tick. A Sender part, which lights no lamp, restarts at tick R, UMBER_N being low or high. -/
def State.restartTick (s : State) (umberLow : Bool) : State :=
  match s.boot.restartAt with
  | none => s
  | some r =>
    if s.io.tick + 1 < r then s
    else if s.io.hasLamps then
      s.onBoot (fun b => { b with restartAt := none, restartAfter := some (s.io.tick + 1), dark := true })
    else if r ≤ s.io.tick then s.restart false umberLow
    else s

/-- R485: after the sync of the dark frame the device restarts. -/
def State.restartSync (s : State) : State :=
  match s.boot.restartAfter with
  | some t => if t ≤ s.io.tick then s.restart false else s
  | none => s

/-! ### Attestation -/

/-- Reserved fields of ATTEST are 0 (R499). -/
def attestFieldsOk (e : List Byte) : Bool :=
  decide (fieldAt e 8 1 < 2) && decide (fieldAt e 11 1 < 2) && allZero e 13 3 && decide (fieldAt e 24 8 % 64 = 0) && allZero e 32 32

/-- The metering firmware digest of a report: 0 when the part has none (R500). -/
def State.meterDigest (s : State) : List Byte := if s.needsMeter then sub (s.meter.digest.getD Config.meterDigest) 0 64 else zeros 64

/-- A report of 1,024 bytes goes to an entry's DST, and the entry completes after its last write (R118, R499); a write that faults ends it
(R141). -/
def State.attestOut (s : State) (ring i : Nat) (e rep : List Byte) : State :=
  let dram := bit (fieldAt e 11 1) 0
  let ctx := if dram then 0 else fieldAt e 12 1
  match Io.issueWrite (.entry ring i) 0 2 dram ctx (writesOf (fieldAt e 24 8) rep) s.io with
  | (io, some (k, a)) =>
    let s := { s with io := Io.settle ((io.countFault).logFault 0 a k 2 ctx 38 none true) }
    s.on (·.owe { ring := ring, index := i, entry := e, done := { status := 0x06, detail := k + 16 } })
  | (io, none) => { s with io := io.owe { ring := ring, index := i, entry := e, done := {} } }

/-- R500: the 1,024 bytes of a report, signed with the device key. -/
def State.attestReport (s : State) (nonce : Nat) : List Byte :=
  let b := [0x41, 0x54, 0x54, 0x52] ++ leBytes 2 1 ++ leBytes 1 s.io.part ++ leBytes 1 (s.getF Fld.CTL_VARIANT_STEPPING)
    ++ leBytes 4 (s.getF Fld.CTL_SERIAL_LO) ++ leBytes 4 (s.getF Fld.CTL_SERIAL_HI) ++ leBytes 8 nonce ++ leBytes 6 s.io.tick
    ++ leBytes 1 s.io.boot ++ zeros 1 ++ leBytes 4 (s.getF Fld.CTL_OTP_ROLLBACK) ++ leBytes 4 (s.getF Fld.CTL_IMG_ROLLBACK)
    ++ leBytes 4 (s.getF Fld.CTL_IMG_WALL_ID_LO) ++ leBytes 4 (s.getF Fld.CTL_IMG_WALL_ID_HI) ++ leBytes 4 (s.getF Fld.CTL_IMG_WALL_SEQ)
    ++ zeros 12 ++ sub (Config.romDigest) 0 64
    ++ (List.range 16).flatMap (fun i => leBytes 4 (s.getF (Fld.CTL_IMG_DIGEST i)))
    ++ sub (sha512 (s.sectOr 1)) 0 64 ++ s.meterDigest ++ sub Config.deviceKeyId 0 16
  b ++ sub (Config.sign 0 b) 0 512 ++ zeros 176

/-- R499: a report is being built. -/
def State.attestStart (s : State) (entry : Option (Nat × Nat)) (nonce : Nat) : State :=
  (s.onBoot (fun b => { b with attest := some (entry, nonce) })).setF Fld.CTL_ATT_STAT_BUSY 1

/-- R499: an ATTEST entry for this device. -/
def execAttestLocal (ring i : Nat) (s : State) : Result :=
  .next (
    match (s.io.ring ring).entryAt i with
    | none => s
    | some e0 =>
      if fieldAt e0 8 1 = 1 ∨ s.boot.attest.isSome then s
      else s.onEntry ring i 0x06 true attestFieldsOk fun e s =>
        (s.on (·.activate ring i e)).attestStart (some (ring, i)) (fieldAt e 16 8))

/-- R499, R500: a signed report is published: CTL_ATT_REPORT holds it, SEQ increments, event 12 fires, and a LOCAL entry's
report goes to DST. -/
def execAttestReportDone (s : State) : Result :=
  .next (match s.boot.attest with
    | none => s
    | some (entry, nonce) =>
      let rep := s.attestReport nonce
      let s := (List.range 256).foldl (fun s i => s.setF (Fld.CTL_ATT_REPORT i) (fieldAt rep (4 * i) 4)) s
      let s := (s.setF Fld.CTL_ATT_STAT_SEQ (s.getF Fld.CTL_ATT_STAT_SEQ + 1)).setF Fld.CTL_ATT_STAT_BUSY 0
      let s := (s.onBoot (fun b => { b with attest := none })).fire 12
      match entry with
      | none => s
      | some (ring, i) => match (s.io.ring ring).active.find? (fun a => a.1 == i) with
        | some (_, e) => s.attestOut ring i e rep
        | none => s)

/-- R484, R499: an ATTEST command arrives at a tile. -/
def execAttestCommandReceived (port : Nat) (packet : List Byte) (s : State) : Result :=
  .next (match s.keptCmd port 0x06 packet [stOPERATIONAL] with
    | (s, some b) => if s.boot.attest.isSome then s else s.attestStart none (fieldAt b 0 8)
    | (s, none) => s)

/-- The internal register reads of a remote report, by phase: 0 the SEQ before, 1 the SEQ after, 2 + i word i (R499). -/
def attestRing : Nat := 65536

/-- R499: an ATTEST entry for a tile: its SEQ is read first, then the command is sent. -/
def execAttestTile (ring i : Nat) (s : State) : Result :=
  .next (
    match (s.io.ring ring).entryAt i with
    | none => s
    | some e0 =>
      if fieldAt e0 8 1 ≠ 1 ∨ s.boot.attestTile.isSome then s
      else s.onEntry ring i 0x06 true attestFieldsOk fun e s =>
        let s := (s.on (·.activate ring i e)).onBoot (fun b => { b with attestTile := some (ring, i, fieldAt e 9 1, fieldAt e 10 1, []) })
        s.sendRegReq (fieldAt e 9 1) (fieldAt e 10 1) attestRing 0 0 Reg.CTL_ATT_STAT 0)

/-- A reply to an internal read of a remote report (R499). -/
def State.attestReply (s : State) (phase value : Nat) : State :=
  match s.boot.attestTile with
  | none => s
  | some (ring, i, chain, pos, ws) =>
    match (s.io.ring ring).active.find? (fun a => a.1 == i) with
    | none => s.onBoot (fun b => { b with attestTile := none })
    | some (_, e) =>
      let keep := fun (ws : List Nat) (s : State) => s.onBoot (fun b => { b with attestTile := some (ring, i, chain, pos, ws) })
      if phase = 0 then
        ((keep [value] s).wallCmdTo chain pos 0x06 (leBytes 8 (fieldAt e 16 8))).sendRegReq chain pos attestRing 1 0 Reg.CTL_ATT_STAT 0
      else if phase = 1 then
        if value % 65536 ≠ nth ws 0 % 65536 ∧ !bit value 16 then (keep [] s).sendRegReq chain pos attestRing 2 0 (Reg.CTL_ATT_REPORT 0) 0
        else s.sendRegReq chain pos attestRing 1 0 Reg.CTL_ATT_STAT 0
      else
        let ws := ws ++ [value]
        if ws.length < 256 then (keep ws s).sendRegReq chain pos attestRing (phase + 1) 0 (Reg.CTL_ATT_REPORT ws.length) 0
        else (s.onBoot (fun b => { b with attestTile := none })).attestOut ring i e (ws.flatMap (leBytes 4))

/-- A remote timeout ends a remote report with STATUS 0x02 (R499). -/
def State.attestTimeout (s : State) : State :=
  match s.boot.attestTile with
  | none => s
  | some (ring, i, _, _, _) =>
    let s := s.onBoot (fun b => { b with attestTile := none })
    match (s.io.ring ring).active.find? (fun a => a.1 == i) with
    | some (_, e) => s.on (·.finish ring i e { status := 0x02 })
    | none => s

end Sys2Proof.Machine
end

