-- ==== Sys2Proof/Machine/Thermal.lean ====
section
/-! DEFINITION. The thermal model (R462 to R467), the current limits (R468, R470) and the clock of a Sender (R471). -/

namespace Sys2Proof.Machine

/-- The thermal part of the state replaced. -/
def State.onTherm (s : State) (f : Therm → Therm) : State := { s with therm := f s.therm }

/-- Section 0x000A. -/
def State.thm (s : State) : List Byte := s.sectOr 0x0A

/-- LB_COUNT: the lamp-board nodes (R463). -/
def State.lbCount (s : State) : Nat := fieldAt s.thm 0 1

/-- A rational rounded to binary64. -/
def ratio64 (n : Int) (d : Nat) : Fp := Fp.div f64 (Fp.ofInt n) (Fp.ofInt d)

/-- Parameters of node `i` (R463): heat capacity in J/K, conductances to ambient and parent in W/K, and the parent. -/
structure NodeParam where
  c : Fp
  gAmb : Fp
  gPar : Fp
  parent : Option Nat
  sensor : Bool
deriving DecidableEq, Repr

/-- Node `i` of section 0x000A. -/
def State.nodeParam (s : State) (i : Nat) : NodeParam :=
  let o := 0x1E0 + 16 * i
  let p := fieldAt s.thm (o + 12) 1
  { c := ratio64 (fieldAt s.thm o 4) 1000, gAmb := ratio64 (fieldAt s.thm (o + 4) 4) 1000000,
    gPar := ratio64 (fieldAt s.thm (o + 8) 4) 1000000, parent := if p = 0xFF then none else some p,
    sensor := fieldAt s.thm (o + 13) 1 = 1 }

/-- T[i]. -/
def State.temp (s : State) (i : Nat) : Fp := s.therm.temps.getD i Fp.zero

/-- Board `b` is configured in SENSOR mode (R463). -/
def State.sensorMode (s : State) (b : Nat) : Bool := (s.nodeParam (7 + b)).sensor

/-- A board's valid sensor reading, in 1/128 °C (R386). -/
def State.sensorOf (s : State) (b : Nat) : Option Int := (s.therm.sensors.find? (·.1 == b)).map (·.2)

/-- temp(b) in 1/16 °C, and whether a sensor gives it (R467). -/
def State.lampTemp (s : State) (b : Nat) : Int × Bool :=
  match s.sensorMode b, s.sensorOf b with
  | true, some t => ((t + 4) / 8, true)
  | _, _ => ((Fp.mulExact (s.temp (7 + b)) ⟨16, 0⟩).nearest, false)

/-! ### Power -/

/-- POINT_KIND of a measuring point (R463). -/
def State.pointKind (s : State) (p : Nat) : Nat := fieldAt s.thm (0x14 + p) 1

/-- The power that a point publishes, in mW (R464). -/
def State.pointPower (s : State) (p : Nat) : Int := signed 32 (s.getF (Fld.MTR_POWER p))

/-- The points of a kind that the model uses: none while metered power is lost. -/
def State.points (s : State) (kind : Nat) : List Nat :=
  if s.therm.absent || !s.needsMeter then [] else (List.range 16).filter (fun p => s.pointKind p == kind)

/-- The estimate of region `r` in mW, times 65,536 (R464): `busy` holds, for each of the eight kinds of P_KIND, the sum over
the region's cells of the fraction of the update in which they were busy, in 1/65,536. -/
def State.regionEstimate (s : State) (r : Nat) (busy : List Nat) : Nat :=
  if !s.io.regionActive r then 0
  else fieldAt s.thm (0xD0 + 2 * r) 2 * 65536 + ((List.range 8).map (fun k => fieldAt s.thm (0xC0 + 2 * k) 2 * nth busy k)).foldl (· + ·) 0

/-- Sum of integers. -/
def sumI (l : List Int) : Int := l.foldl (· + ·) 0

/-- D_b: the mean drive fraction of a board over the update (R464). -/
def State.driveOf (s : State) (b : Nat) : Fp :=
  match s.therm.drive.find? (·.1 == b) with
  | some (_, sum, full) => Fp.ratio f64 sum full
  | none => Fp.zero

/-- HEAT_FRAC. -/
def State.heatFrac (s : State) : Fp := Fp.ratio f64 (fieldAt s.thm 0x24 2) 65536

/-- The boards that a kind-2 point feeds. -/
def State.pointBoards (s : State) (p : Nat) : List Nat :=
  (List.range s.lbCount).filter (fun b => bit (fieldAt s.thm (0x40 + 8 * p) 8) b)

/-- Heat of a board from one kind-2 point, in W: in proportion to D_b, or equally when every D_b is 0. -/
def State.pointHeat (s : State) (p b : Nat) : Fp :=
  let bs := s.pointBoards p
  if !bs.contains b then Fp.zero
  else
    let w := Fp.mul f64 (ratio64 (s.pointPower p) 1000) s.heatFrac
    let total := bs.foldl (fun a c => Fp.add f64 a (s.driveOf c)) Fp.zero
    if total.m = 0 then Fp.div f64 w (Fp.ofInt bs.length) else Fp.div f64 (Fp.mul f64 w (s.driveOf b)) total

/-- The heat of a lamp board in W (R464). -/
def State.boardHeat (s : State) (b : Nat) : Fp :=
  let ps := (s.points 2).filter (fun p => (s.pointBoards p).contains b)
  if ps.isEmpty then
    Fp.mul f64 (Fp.mul f64 (ratio64 (fieldAt s.thm (0xE0 + 4 * b) 4) 1000) (s.driveOf b)) s.heatFrac
  else ps.foldl (fun a p => Fp.add f64 a (s.pointHeat p b)) Fp.zero

/-- The power of every node in W (R464), with the core power in mW. -/
def State.nodePowers (s : State) (busy : List (List Nat)) : List Fp × Int :=
  let est := (List.range 4).map (fun r => s.regionEstimate r (busy.getD r []))
  let sum := est.foldl (· + ·) 0
  let k1 := s.points 1
  let core : Int := if k1.isEmpty then ((sum / 65536 : Nat) : Int) else sumI (k1.map s.pointPower)
  let region := fun r =>
    if k1.isEmpty then ratio64 (nth est r : Nat) (65536 * 1000)
    else if sum = 0 then (if s.io.regionActive r then ratio64 core (1000 * s.io.regions) else Fp.zero)
    else ratio64 (core * (nth est r : Nat)) (sum * 1000)
  let board := ratio64 (sumI ((s.points 3).map s.pointPower)) 1000
  ((List.range 4).map region ++ [Fp.zero, board, Fp.zero] ++ (List.range s.lbCount).map s.boardHeat, core)

/-! ### The model -/

/-- Heat flow between node `i` and its parent (R465). -/
def heatFlow (ps : List NodeParam) (ts : List Fp) (q : List Fp) (i : Nat) : List Fp :=
  match ps[i]? with
  | some n => match n.parent with
    | some p =>
      let f := Fp.mul f64 n.gPar (Fp.sub f64 (ts.getD p Fp.zero) (ts.getD i Fp.zero))
      let q := setNth q i (Fp.add f64 (q.getD i Fp.zero) f)
      setNth q p (Fp.sub f64 (q.getD p Fp.zero) f)
    | none => q
  | none => q

/-- One model step of R465 without the sensors: `p` the powers, `amb` the ambient, `d` the diode readings with their nodes. -/
def modelStep (ps : List NodeParam) (ts p : List Fp) (amb : Fp) (anchor : Fp) (d : List (Nat × Fp)) : List Fp :=
  let n := ts.length
  let q := (List.range n).map (fun i =>
    Fp.add f64 (p.getD i Fp.zero) (Fp.mul f64 ((ps[i]?.map (·.gAmb)).getD Fp.zero) (Fp.sub f64 amb (ts.getD i Fp.zero))))
  let q := (List.range n).foldl (fun q i => heatFlow ps ts q i) q
  let dt := Fp.ratio f64 1 10
  let ts := (List.range n).map (fun i =>
    Fp.add f64 (ts.getD i Fp.zero) (Fp.div f64 (Fp.mul f64 (q.getD i Fp.zero) dt) ((ps[i]?.map (·.c)).getD Fp.zero)))
  d.foldl (fun ts e => setNth ts e.1 (Fp.add f64 (ts.getD e.1 Fp.zero) (Fp.mul f64 anchor (Fp.sub f64 e.2 (ts.getD e.1 Fp.zero))))) ts

/-- A temperature in 1/16 °C as a number of °C. -/
def sixteenths (t : Int) : Fp := ⟨t, -4⟩

/-- A temperature published to 1/16 °C (R465). -/
def publish (t : Fp) : Int := (Fp.mulExact t ⟨16, 0⟩).nearest

/-- The nodes of the two diodes (R463). -/
def State.diodeNodes (s : State) : List Nat := [fieldAt s.thm 0x0D 1 % 8, fieldAt s.thm 0x0D 1 / 16 % 8]

/-- R466: the nodes at start: the greater of the diodes' mean and the recorded value; a lamp board its sensor reading, or the
greater of the board node and its recorded value. The record holds each node in 1/16 °C (log 21). -/
def State.startTemps (s : State) : State :=
  let r := s.record 3
  let mean := (s.boot.diode0 + s.boot.diode1) / 2
  let recorded := fun i => r.map (fun b => signed 16 (fieldAt b (2 * i) 2))
  let base := (List.range 7).map (fun i => match recorded i with | some t => max mean t | none => mean)
  let boards := (List.range s.lbCount).map (fun b =>
    match s.sensorMode b, s.sensorOf b with
    | true, some t => (⟨t, -7⟩ : Fp)
    | _, _ => sixteenths (match recorded (7 + b) with | some t => max (base.getD 5 mean) t | none => base.getD 5 mean))
  s.onTherm (fun t => { t with temps := base.map sixteenths ++ boards })

/-- THM_NODE, THM_LAMP_T and THM_DIODE report the temperatures. -/
def State.publishTemps (s : State) : State :=
  let s := (List.range 7).foldl (fun s i => s.setF (Fld.THM_NODE i) (unsigned 16 (publish (s.temp i)))) s
  let s := (List.range s.lbCount).foldl (fun s b =>
    let (t, src) := s.lampTemp b
    ((s.setF (Fld.THM_LAMP_T_T b) (unsigned 16 t)).setF (Fld.THM_LAMP_T_SRC b) (flag src)).setF (Fld.THM_LAMP_T_MODE b) (flag (s.sensorMode b))) s
  (s.setF (Fld.THM_DIODE 0) (unsigned 16 s.boot.diode0)).setF (Fld.THM_DIODE 1) (unsigned 16 s.boot.diode1)

/-- R472, R473 at a model update: the window follows the NVM node, with events 485 and 486; when it opens, what waits for it
proceeds. -/
def State.updateWindow (s : State) : State :=
  let was := s.windowOpen
  let is := s.windowAt was (publish (s.temp 6))
  let s := (s.setF Fld.THM_STATE_WINDOW (flag is)).setF Fld.THM_STATE_ERASE_OK (flag s.erasable)
  let s := if was && !is then s.fire 485 else if !was && is then s.fire 486 else s
  if !is then s
  else
    let s := if s.boot.nvm.eraseWaits && s.eraseOk then s.eraseHeaderNow else s
    let s := if s.eraseOk then s.onNvm (fun v => { v with programWaits := false }) else s
    s.startWrite

/-- R465: a diode and its node differ by more than 10 °C: event 489 after 10 s. -/
def State.diodeCheck (s : State) : State :=
  let near := fun d => match s.diodeNodes[d]? with
    | some n =>
      let r := if d = 0 then s.boot.diode0 else s.boot.diode1
      !Fp.lt (sixteenths (r + 160)) (s.temp n) && !Fp.lt (s.temp n) (sixteenths (r - 160))
    | none => true
  let ks := (List.range 2).map (fun d => if near d then 0 else nth s.therm.disagree d + 1)
  let s := s.onTherm (fun t => { t with disagree := ks })
  if ks.contains 100 then s.fire 489 else s

/-- One model update with its powers, before what depends on it (R465). -/
def State.modelUpdate (s : State) (d0 d1 : Int) (busy : List (List Nat)) : State :=
  let s := s.onBoot (fun b => { b with diode0 := d0, diode1 := d1 })
  let (p, core) := s.nodePowers busy
  let led := ((List.range s.lbCount).map (fun b => (Fp.mulExact (p.getD (7 + b) Fp.zero) ⟨1000, 0⟩).nearest)).foldl (· + ·) 0
  let n := 7 + s.lbCount
  let ds := match s.diodeNodes with
    | [a, b] => [(a, sixteenths d0), (b, sixteenths d1)]
    | _ => []
  let ts := modelStep ((List.range n).map s.nodeParam) s.therm.temps p (sixteenths (signed 16 (fieldAt s.thm 0x10 2)))
    (Fp.ratio f64 (fieldAt s.thm 0x0E 2) 65536) ds
  let ts := (List.range s.lbCount).foldl (fun ts b =>
    match s.sensorMode b, s.sensorOf b with
    | true, some t => setNth ts (7 + b) ⟨t, -7⟩
    | _, _ => ts) ts
  let s := s.onTherm (fun t => { t with temps := ts, drive := [] })
  let s := (s.setF Fld.THM_POWER_CORE (unsigned 32 core)).setF Fld.THM_POWER_LED (unsigned 32 led)
  let s := s.setF Fld.THM_STATE_CORE_METERED (flag (!(s.points 1).isEmpty))
  s.publishTemps.updateWindow.diodeCheck

/-- The RTYPE 0x0003 record (R466, log 21): the node temperatures in 1/16 °C. -/
def State.thermRecord (s : State) : List Byte := s.therm.temps.flatMap (fun t => leBytes 2 (unsigned 16 (publish t)))

/-- R464: MTR_INTERVAL_LO has not advanced for 3 s: the points are absent, and event 487 fires. -/
def execMeteringStaleTimeout (s : State) : Result :=
  .next (
    if s.therm.absent || !s.needsMeter || !(decide (stTRAINING ≤ s.io.boot ∧ s.io.boot ≤ stOPERATIONAL)) then s
    else ((s.onTherm (fun t => { t with absent := true })).setF Fld.THM_STATE_CORE_METERED 0).fire 487)

/-! ### Current limits -/

/-- STEP of R468: 1/32 of full scale. -/
def limitStep : Nat := 1024

/-- HYST, SLOPE and the limits of R468, as the registers give them. -/
def State.thmHyst (s : State) : Nat := max 1 (s.getF Fld.THM_THR_HYST)
def State.thmFloor (s : State) : Nat := s.getF Fld.THM_KNEE_FLOOR

/-- knee(t) for a temperature in 1/16 °C (R468). -/
def kneeAt (knee slope floor : Nat) (t : Int) : Nat :=
  if t ≤ 16 * (knee : Int) then 32768
  else max floor (32768 - (32768 * slope * (t - 16 * (knee : Int)).toNat / 16000))

/-- One step of a board's stage (R468): `n5` holds when n mod 5 = 0. -/
def stepStage (sensor : Bool) (n5 : Bool) (t lampMax hyst : Int) (knee : Int → Nat) (floor s : Nat) : Nat :=
  if sensor then
    if 16 * lampMax < t then max floor (s - limitStep)
    else if n5 && decide (t < 16 * (lampMax - hyst)) then min 32768 (s + limitStep) else s
  else if knee t < s then max (knee t) (s - limitStep)
  else if n5 && decide (s + limitStep ≤ knee (t + 16 * hyst)) then s + limitStep else s

/-- The enabled region nodes. -/
def State.regionNodes (s : State) : List Nat := (List.range 4).filter s.io.regionActive

/-- A node is above, or below, a number of °C. -/
def State.nodeAbove (s : State) (i : Nat) (t : Int) : Bool := Fp.lt (Fp.ofInt t) (s.temp i)
def State.nodeBelow (s : State) (i : Nat) (t : Int) : Bool := Fp.lt (s.temp i) (Fp.ofInt t)

/-- DIE_THR and BOARD_THR. -/
def State.dieThr (s : State) : Int := s.getF Fld.THM_THR_DIE_THR
def State.boardThr (s : State) : Int := s.getF Fld.THM_THR_BOARD_THR

/-- Some enabled region node is above DIE_THR. -/
def State.dieOver (s : State) : Bool := s.regionNodes.any (fun i => s.nodeAbove i s.dieThr)
/-- Every enabled region node is below DIE_THR − HYST. -/
def State.dieUnder (s : State) : Bool := s.regionNodes.all (fun i => s.nodeBelow i (s.dieThr - s.thmHyst))

/-- th after one evaluation (R468). -/
def State.stepTh (s : State) (n5 : Bool) : Nat :=
  let th := s.getF Fld.THM_TH_LOCAL
  if s.dieOver || s.nodeAbove 5 s.boardThr then max s.thmFloor (th - limitStep)
  else if n5 && s.dieUnder && s.nodeBelow 5 (s.boardThr - s.thmHyst) then min 32768 (th + limitStep) else th

/-- th_applied (R469). -/
def State.thApplied (s : State) : Nat :=
  if s.isF Fld.THM_CFG_THR_SCOPE then min (s.getF Fld.THM_TH_LOCAL) s.therm.thWall else s.getF Fld.THM_TH_LOCAL

/-- THM_STATE.STATE outside a shutdown: THROTTLING while a stage, th_applied or CCLK is below full (R478). -/
def State.throttleState (s : State) : State :=
  if s.boot.power ≠ 0 then s
  else
    let low := (List.range s.lbCount).any (fun b => decide (s.getF (Fld.THM_LAMP_S b) < 32768)) || decide (s.thApplied < 32768)
      || (s.io.hasHost && decide (s.getF Fld.THM_CCLK_CUR < 1000))
    s.setF Fld.THM_STATE_STATE (flag low)

/-- THM_TH.APPLIED and LMP_LIM follow the stages and th (R470). -/
def State.writeLimits (s : State) : State :=
  let a := s.thApplied
  let s := s.setF Fld.THM_TH_APPLIED a
  let s := if s.io.hasLamps then
      (List.range 64).foldl (fun s b => s.setF (Fld.LMP_LIM b) (if b < s.lbCount then min (s.getF (Fld.THM_LAMP_S b)) a else 32768)) s
    else s
  s.throttleState

/-- The changes of one evaluation: how many limits fell, rose and reached FLOOR. -/
structure LimitChange where
  down : Nat := 0
  up : Nat := 0
  floor : Bool := false
deriving DecidableEq, Repr

/-- One limit's change counted. -/
def LimitChange.count (c : LimitChange) (old new floor : Nat) : LimitChange :=
  { down := c.down + flag (decide (new < old)), up := c.up + flag (decide (old < new)), floor := c.floor || (decide (new ≠ old) && new == floor) }

/-- R467, R468: the stages and th of one evaluation, with the events. A SENSOR-mode board without a valid reading is handled in
MODEL mode, with event 488. -/
def State.evaluateLimits (s : State) : State :=
  let n5 := decide (s.therm.evalN % 5 = 0)
  let fb := (List.range s.lbCount).filter (fun b => s.sensorMode b && (s.sensorOf b).isNone)
  let newFb := fb.filter (fun b => !s.therm.fallback.contains b)
  let s := s.onTherm (fun t => { t with fallback := fb })
  let s := newFb.foldl (fun s b => s.on (·.fireObj 488 none b)) s
  let knee := kneeAt (s.getF Fld.THM_KNEE_KNEE) (max 1 (s.getF Fld.THM_KNEE_SLOPE)) s.thmFloor
  let (s, c) := (List.range s.lbCount).foldl (fun (acc : State × LimitChange) b =>
    let (t, sensor) := acc.1.lampTemp b
    let old := acc.1.getF (Fld.THM_LAMP_S b)
    let new := stepStage sensor n5 t (s.getF Fld.THM_THR_LAMP_MAX) s.thmHyst knee s.thmFloor old
    (acc.1.setF (Fld.THM_LAMP_S b) new, acc.2.count old new s.thmFloor)) (s, ({} : LimitChange))
  let old := s.getF Fld.THM_TH_LOCAL
  let new := s.stepTh n5
  let c := c.count old new s.thmFloor
  let s := ((s.setF Fld.THM_TH_LOCAL new).bumpF Fld.THM_STEPS_DOWN c.down).bumpF Fld.THM_STEPS_UP c.up
  let s := if 0 < c.down then s.fire 480 else s
  let s := if 0 < c.up then s.fire 481 else s
  let s := if c.floor then s.fire 482 else s
  s.writeLimits

/-- R471: the CCLK that an evaluation decides: none, a new value, or (none, true) where a controlled shutdown is due. -/
def State.cclkStep (s : State) : Option Nat × Bool :=
  let cur := s.therm.cclkNext.getD (s.getF Fld.THM_CCLK_CUR)
  let low := s.getF Fld.THM_CCLK_MIN
  if !s.io.hasHost || !s.io.operational then (none, false)
  else if s.dieOver then (if cur = low then (none, true) else (some (max low (cur - 50)), false))
  else if s.therm.evalN % 5 = 0 ∧ s.dieUnder ∧ cur < 1000 then (some (min 1000 (cur + 50)), false)
  else (none, false)

/-- R471 at a tick boundary: a new CCLK takes effect, with event 483. -/
def State.cclkTick (s : State) : State :=
  match s.therm.cclkNext with
  | some c =>
    let s := s.onTherm (fun t => { t with cclkNext := none })
    if c = s.getF Fld.THM_CCLK_CUR then s
    else (((s.setF Fld.THM_CCLK_CUR c).bumpF Fld.THM_CCLK_STEPS).fire 483).throttleState
  | none => s

/-- A TELEMETRY packet of a tile (R513): kind and the bytes from 8 on. -/
def State.sendTelemetry (s : State) (kind : Nat) (body : List Byte) : State :=
  if s.io.isTile ∧ s.io.operational then s.queueReturn 0x4 (sub (leBytes 6 s.io.tick ++ leBytes 1 kind ++ zeros 1 ++ body) 0 20) else s

end Sys2Proof.Machine
end

