-- ==== Sys2Proof/Machine/Layers.lean ====
section
/-! DEFINITION. The commit engine (R168 to R192): COMMIT and FENCE_SIGNAL entries, fences, the compile deadline, application,
releases and the static layer set. -/

namespace Sys2Proof.Machine

/-- The video path replaced. -/
def State.onVideo (s : State) (f : VideoState → VideoState) : State := { s with video := f s.video }

/-- The layer part replaced. -/
def State.onLay (s : State) (f : LayerState → LayerState) : State := s.onVideo (fun v => { v with lay := f v.lay })

/-- The raster of region `n` (R168). -/
def State.raster (s : State) (n : Nat) : Nat × Nat := (s.getF (Fld.CMP_RASTER_WIDTH n), s.getF (Fld.CMP_RASTER_HEIGHT n))

/-- Entry `i` of the static layer set (R189). -/
def State.staticEntry (s : State) (i : Nat) : Option (List Byte) :=
  if i < s.getF Fld.CMP_STATIC_COUNT then some (sub (s.sectOr 0x000C) (64 + 160 * i) 160) else none

/-- A record as it acts: a STATIC source takes its format, addresses and pitches from its entry (R189). -/
def State.effective (s : State) (r : LayerRec) : LayerRec :=
  if r.kind = 4 then
    match s.staticEntry r.index with
    | some e => sub r 0 4 ++ sub e 4 1 ++ sub r 5 3 ++ sub e 8 24 ++ sub r 32 96
    | none => r
  else r

/-- The enabled layers of region `n` in a layer state. -/
def inRegion (ls : List (Nat × List Byte)) (n : Nat) : List LayerRec := (ls.filter (fun l => l.1 / 16 == n)).map (·.2)

/-- The cascaded input on a port (R20, R170). -/
def State.cascadePort (s : State) (p : Nat) : Option CascadePort := s.video.lay.inputs.find? (·.port == p)

/-- A cascaded input as composition sees it. -/
def State.cascadeIn (s : State) (p : Nat) : CascadeIn := (s.video.lay.cascades.find? (·.port == p)).getD { port := p }

/-- A cascaded input replaced. -/
def State.setCascade (s : State) (c : CascadeIn) : State :=
  s.onLay (fun l => { l with cascades := c :: l.cascades.filter (·.port != c.port) })

/-- The picture size of a STATIC or CASCADE source (R181). -/
def State.picture (s : State) (r : LayerRec) : Option (Nat × Nat) :=
  if r.kind = 4 then (s.staticEntry r.index).map (fun (e : LayerRec) => (e.srcW, e.srcH))
  else if r.kind = 3 then (s.cascadePort r.index).map (fun c => (c.width, c.height))
  else none

/-! ### Record and plan checks -/

/-- A reserved byte or bit of a SET record is not 0 (R177, R196). -/
def LayerRec.reserved (r : LayerRec) : Bool :=
  !(allZero r 3 1 && allZero r 34 2 && allZero r 58 2 && decide (fieldAt r 60 1 < 16) && decide (fieldAt r 81 1 < 32) && allZero r 86 42)

/-- A record's source is not available to the commit (R181, reason 0x03). -/
def State.badSource (s : State) (r : LayerRec) : Bool :=
  match r.kind with
  | 1 => !s.io.hasHost || !bit (s.io.getReg Reg.HRG_RIGHTS).toNat 1
  | 2 | 5 => false
  | 3 => (s.cascadePort r.index).isNone
  | 4 => (s.staticEntry r.index).isNone
  | _ => true

/-- Reason 0x04 (R195), of a record as it acts: a STATIC source has its entry's format (R189). -/
def LayerRec.badFormat (r : LayerRec) : Bool :=
  match r.kind with
  | 3 | 5 => r.format != 0
  | _ => r.format == 0 || decide (0x0B < r.format)

/-- Reason 0x06 (R178). -/
def LayerRec.badFence (r : LayerRec) : Bool :=
  match r.fenceKind % 16 with
  | 0 => false
  | 1 => decide (255 < r.fenceCounter)
  | 2 | 3 => r.fenceAddr % 8 != 0
  | _ => true

/-- Reason 0x08 (R181). -/
def State.badRect (s : State) (r : LayerRec) : Bool :=
  let (w, h) := s.raster (r.layer / 16)
  r.dstW == 0 || r.dstH == 0 || decide (w < r.dstX + r.dstW) || decide (h < r.dstY + r.dstH)
    || (r.fetches && (r.srcW == 0 || r.srcH == 0))
    || (match s.picture r with
        | some (pw, ph) => decide (pw < r.srcX + r.srcW) || decide (ph < r.srcY + r.srcH)
        | none => false)

/-- The lowest of reasons 0x01 to 0x08 and 0x0D that applies to a record (R181); `seen` are the layers that earlier records
name. -/
def State.recordReason (s : State) (seen : List Nat) (r : LayerRec) : Option Nat :=
  if 63 < r.layer ∨ !s.io.regionActive (r.layer / 16) then some 0x01
  else if 1 < r.action then some 0x02
  else if r.action = 1 then (if seen.contains r.layer then some 0x07 else none)
  else if s.badSource r then some 0x03
  else if (s.effective r).badFormat then some 0x04
  else if r.alphaMode = 3 ∨ r.fallback = 3 then some 0x05
  else if r.badFence then some 0x06
  else if seen.contains r.layer then some 0x07
  else if s.badRect r then some 0x08
  else if r.reserved then some 0x0D
  else none

/-- The first record at fault: its reason and layer. -/
def State.recordFault (s : State) : List Nat → List LayerRec → Option (Nat × Nat)
  | _, [] => none
  | seen, r :: t =>
    match s.recordReason seen r with
    | some k => some (k, r.layer)
    | none => s.recordFault (r.layer :: seen) t

/-- The layer state after a commit's records (R177). -/
def State.applyRecords (s : State) (ls : List (Nat × List Byte)) (rs : List LayerRec) : List (Nat × List Byte) :=
  rs.foldl (fun ls r =>
    if r.action = 1 then Sparse.erase ls r.layer
    else Sparse.ins (Sparse.erase ls r.layer) r.layer (s.effective r)) ls

/-- Reasons 0x09 to 0x0B of a record against the resulting state, with INFO (R181). -/
def State.planReason (s : State) (after : List (Nat × List Byte)) (r0 : LayerRec) : Option (Nat × Nat) :=
  if r0.action = 1 then none
  else
    let r := s.effective r0
    let p := s.predec r.layer
    let scaleBad := fun (d w : Nat) => decide (8 * d * p < w) || decide (64 * w < d * p)
    if r.fetches ∧ 8192 < r.size p false then some (0x09, r.size p false)
    else if r.fetches && (scaleBad r.dstW r.srcW || scaleBad r.dstH r.srcH) then some (0x0A, 0)
    else if 15 < r.z ∨ after.any (fun (l : Nat × LayerRec) => l.1 != r.layer && l.1 / 16 == r.layer / 16 && l.2.z == r.z) then some (0x0B, 0)
    else none

/-- A slot's need over its block rows (R206, R207). -/
def State.slotNeed (s : State) (ls : List LayerRec) (operand : Nat) : Nat :=
  ((List.range (bits operand 12 4 + 1)).map (bits operand 0 12 + ·)).foldl
    (fun a row => a + ls.foldl (fun a r => a + r.need (s.predec r.layer) ls row) 0) 0

/-- MIN_CCLK of the clock plan in MHz (R67). -/
def State.minCclk (s : State) : Nat := fieldAt (s.sectOr 0x0002) 2 2

/-- The first fetch-and-compose slot of region `n` whose need exceeds its allowance (R207): INFO of reason 0x0C. -/
def State.rowFault (s : State) (ls : List (Nat × List Byte)) (n : Nat) : Option Nat :=
  let all := inRegion ls n
  ((s.rset s.rateSet).tables.getD n []).findSome? (fun sl =>
    if sl.kind = 0x01 then
      let need := s.slotNeed all sl.operand
      if sl.minDur * s.minCclk * 16 / 1000 < need then some (bits sl.operand 0 12 + 2 ^ 16 * (need % 2 ^ 32)) else none
    else none)

/-- The plan check of R181: reason, layer named, INFO. -/
def State.planFault (s : State) (after : List (Nat × List Byte)) (rs : List LayerRec) : Option (Nat × Option Nat × Nat) :=
  match rs.findSome? (fun r => (s.planReason after r).map (fun p => (p.1, some (LayerRec.layer r), p.2))) with
  | some f => some f
  | none =>
    ([0, 1, 2, 3].filter (fun n => rs.any (fun (r : LayerRec) => r.layer / 16 == n))).findSome?
      (fun n => (s.rowFault after n).map (fun i => (0x0C, none, i)))

/-- The records of a descriptor. -/
def descRecords (count : Nat) (d : List Byte) : List LayerRec := (List.range count).map (fun i => sub d (128 * i) 128)

/-- The records of a commit whose descriptor has been read. -/
def CommitRun.records (c : CommitRun) : List LayerRec := descRecords (fieldAt c.entry 18 1) (c.desc.getD [])

/-! ### Commit entries -/

/-- The first completion of the commit in execution on a ring that did not apply: its second slot frees (R174). -/
def State.commitEnd (s : State) (c : CommitRun) (d : Done) : State :=
  let s := s.onLay (fun l => { l with commits := l.commits.filter (·.ring != c.ring) })
  if (s.io.activeEntry c.ring c.index 0x10).isNone then s
  else
    s.on (fun io =>
      let r := io.ring c.ring
      (((io.setRing c.ring { r with active := [] }).complete c.ring c.index c.entry d).freeSlot c.ring).finishDestroy c.ring)

/-- A rejection is recorded: CMP_LAST_REJECT and event 161; its DETAIL (R181). -/
def State.noteReject (s : State) (ring reason : Nat) (layer : Option Nat) : State × Nat :=
  let d := reason + 2 ^ 8 * (layer.getD 0 % 64) + 2 ^ 14 * flag layer.isSome
  (((s.on (·.setReg Reg.CMP_LAST_REJECT (BitVec.ofNat 32 (d + 2 ^ 16 * ring)))).bumpF Fld.CMP_COMMIT_REJECTED).fire 161, d)

/-- A chip-level read has failed with a kind at an address: what it has not issued is withdrawn, what it has completes, and the fault is
counted and logged (R138, R143). -/
def Io.readFault (s : Io) (who : Waiter) (ctx addr k : Nat) : Io :=
  let s := (Io.settle ((s.withdraw who).completeOwn who)).forget who
  Io.settle ((s.countFault).logFault 0 addr k 2 ctx who.reqCode none false)

/-- The reserved fields of COMMIT (R175). -/
def commitFieldsOk (e : List Byte) : Bool :=
  decide (fieldAt e 16 1 < 2) && (!bit (fieldAt e 16 1) 0 || allZero e 17 1) && allZero e 20 4 && allZero e 30 34

/-- R176: a descriptor read fails; no layer changes. -/
def State.descFailed (s : State) (ring i : Nat) : State :=
  match s.video.lay.commits.find? (fun c => c.ring == ring && c.index == i) with
  | some c => s.commitEnd c { status := 0x06 }
  | none => s

/-- R175, R176: a COMMIT entry becomes the entry in execution on its ring and its descriptor is read; a COUNT or DESC_ADDR out
of range rejects it at once with reason 0x0E. -/
def execCommit (ring i : Nat) (s : State) : Result :=
  .next (s.onEntry ring i 0x10 true commitFieldsOk fun e s =>
    let count := fieldAt e 18 1
    if count = 0 ∨ 64 < count ∨ fieldAt e 8 8 % 64 ≠ 0 then
      let (s, d) := s.noteReject ring 0x0E none
      s.on (·.answer ring i e { status := 0x01, detail := d })
    else
      let s := s.on (fun io => io.activate ring i e)
      let s := s.onLay (fun l => { l with commits := l.commits.filter (·.ring != ring) ++
        [({ ring := ring, index := i, entry := e, desc := none, waits := 0 } : CommitRun)] })
      let dram := bit (fieldAt e 16 1) 0
      match s.io.issueRead (.descriptors ring i) 2 dram (fieldAt e 17 1) (fieldAt e 8 8) (128 * count) with
      | (io, none) => { s with io := io }
      | (io, some (k, a)) => { s with io := io.readFault (.descriptors ring i) (fieldAt e 17 1) a k }.descFailed ring i)

/-- R176: the descriptor read of a ring's commit returns, once all its operations have been issued, or fails with a kind. -/
def State.descRead (s : State) (ring i : Nat) (res : ReadResult) : State :=
  match s.video.lay.commits.find? (fun c => c.ring == ring && c.index == i && c.desc.isNone) with
  | none => s
  | some c =>
    let w := Waiter.descriptors ring i
    let dram := bit (fieldAt c.entry 16 1) 0
    let len := 128 * fieldAt c.entry 18 1
    if s.io.held w then s
    else
      let s := s.poisonSeen res
      match (if s.io.badReads.contains w then .inr 8 else readOutcome res) with
      | .inr k => (s.on (·.readFault w (fieldAt c.entry 17 1) (fieldAt c.entry 8 8) k)).descFailed ring i
      | .inl bs =>
        let d := if dram then s.io.found w (fieldAt c.entry 8 8) len else sub bs 0 len
        (s.on (fun io => (Io.settle (io.completeOwn w)).forget w)).onLay (fun l =>
          { l with commits := l.commits.map (fun x => if x.ring = ring then { x with desc := some d } else x) })

/-- The reserved fields of FENCE_SIGNAL (R179). -/
def fenceFieldsOk (e : List Byte) : Bool := allZero e 10 6 && allZero e 24 40

/-- R179: FENCE_SIGNAL sets a counter to the greater of its value and the signalled value. -/
def execFenceSignal (ring i : Nat) (s : State) : Result :=
  .next (s.onEntry ring i 0x11 true fenceFieldsOk fun e s =>
    let f := fieldAt e 8 2
    if 255 < f then s.on (·.answer ring i e { status := 0x01, detail := 0x06 })
    else
      s.on (fun io =>
        let v := max (io.getWide (Fld.CMP_FENCE_LO f) (Fld.CMP_FENCE_HI f)) (fieldAt e 16 8)
        (io.setWide (Fld.CMP_FENCE_LO f) (Fld.CMP_FENCE_HI f) v).answer ring i e { info := v }))

/-! ### Fences -/

/-- A source whose readiness its fence gives (R170): HOST or DRAM. STATIC and CONSTANT sources are always ready, and a CASCADE source
is by R173. -/
def LayerRec.fenced (r : LayerRec) : Bool := r.kind == 1 || r.kind == 2

/-- The layer record that a fence key names, of a commit whose descriptor has been read, and that commit's index. -/
def State.fenceRecord (s : State) (key : Nat) : Option (LayerRec × Nat) :=
  match s.video.lay.commits.find? (fun c => c.ring == key / 64 && c.desc.isSome) with
  | some c =>
    match c.records.drop (key % 64) with
    | r :: _ => if r.action = 0 ∧ LayerRec.fenced r ∧ (r.fenceKind % 16 = 2 ∨ r.fenceKind % 16 = 3) then some (r, c.index) else none
    | [] => none
  | none => none

/-- A fence read has faulted or failed: it is not met, event 165 fires and the fault is logged (R180). -/
def State.fenceFailed (s : State) (r : FenceRead) (k : Nat) : State :=
  (s.on (·.readFault (.fence r.key) r.ctx r.addr k)).fire 165

/-- An issued read of a fence leaves the list. -/
def State.endFenceRead (s : State) (r : FenceRead) : State :=
  s.onLay (fun l => { l with fenceReads := eraseFirst (fun x => x == r) l.fenceReads })

/-- R180: the fence word of a record (64 * ring + record) is read for the coming deadline. -/
def execFenceWordRead (key : Nat) (s : State) : Result :=
  .next (match s.fenceRecord key with
    | none => s
    | some (r, i) =>
      if s.video.lay.fences.any (fun f => f.key == key && f.index == i) then s
      else
        let f : FenceRead := { key := key, index := i, period := s.io.tick, host := r.fenceKind % 16 == 3, ctx := r.fenceCtx, addr := r.fenceAddr }
        let s := s.onLay (fun l => { l with fences := { key := key, index := i, value := none } :: l.fences })
        match s.io.issueRead (.fence key) 2 (!f.host) f.ctx f.addr 8 with
        | (io, none) => { s with io := io }.onLay (fun l => { l with fenceReads := l.fenceReads ++ [f] })
        | (io, some (k, _)) => { s with io := io }.fenceFailed f k)

/-- R180: the oldest read of a fence word returns, or ends with a fault kind. A word that returns after its deadline is not used. -/
def State.fenceRead (s : State) (key : Nat) (res : ReadResult) : State :=
  match s.video.lay.fenceReads.find? (·.key == key) with
  | none => s
  | some f =>
    let w := Waiter.fence key
    if s.io.held w then s
    else
      let s := (s.endFenceRead f).poisonSeen res
      match (if s.io.badReads.contains w then .inr 8 else readOutcome res) with
      | .inr k => s.fenceFailed f k
      | .inl bs =>
        let v := if f.host then fieldAt bs 0 8 else leNat (s.io.found w f.addr 8)
        (s.on (fun io => (Io.settle (io.completeOwn w)).forget w)).onLay (fun l =>
          { l with fences := l.fences.map (fun e => if e.key = key ∧ e.index = f.index ∧ f.period = s.io.tick then { e with value := some v } else e) })

/-- The fence of record `j` of a commit is met (R170, R178, R180); a CASCADE layer's input holds a complete frame (R173). -/
def State.fenceMet (s : State) (c : CommitRun) (j : Nat) (r : LayerRec) : Bool :=
  r.action == 1 ||
  (if r.fenced then
    match r.fenceKind % 16 with
    | 0 => true
    | 1 => decide (r.fenceValue ≤ s.io.getWide (Fld.CMP_FENCE_LO r.fenceCounter) (Fld.CMP_FENCE_HI r.fenceCounter))
    | _ => match s.video.lay.fences.find? (fun f => f.key == 64 * c.ring + j && f.index == c.index) with
      | some f => (match f.value with | some v => decide (r.fenceValue ≤ v) | none => false)
      | none => false
   else r.kind != 3 || (s.cascadeIn r.index).frames.any (·.done.isSome))

/-! ### The compile deadline -/

/-- What one deadline has changed so far. -/
structure Deadline where
  s : State
  /-- The layer state after the commits compiled at this deadline. -/
  layers : List (Nat × List Byte)
  changed : List Nat
  waited : Bool

/-- A field that acts as 1 where it is 0. -/
def atLeast1 (v : Nat) : Nat := max 1 v

/-- A wait (R183): counted, or a timeout with its cause and the layer concerned. -/
def Deadline.wait (d : Deadline) (c : CommitRun) (cause : Nat) (layer : Option Nat) : Deadline :=
  let own := fieldAt c.entry 19 1
  let limit := if own = 0 then atLeast1 (d.s.getF Fld.CMP_COMMIT_CFG_MAX_WAITS) else own
  if limit < c.waits + 1 then
    let s := (d.s.bumpF Fld.CMP_COMMIT_TIMEOUTS).commitEnd c
      { status := 0x02, detail := cause + 2 ^ 8 * (layer.getD 0 % 64) + 2 ^ 14 * flag layer.isSome }
    { d with s := s.fire 163 }
  else
    { d with
      s := (d.s.bumpF Fld.CMP_COMMIT_WAITS).onLay (fun l =>
        { l with commits := l.commits.map (fun x => if x.ring = c.ring then { x with waits := x.waits + 1 } else x) })
      waited := true }

/-- A rejection at the deadline (R181). -/
def Deadline.reject (d : Deadline) (c : CommitRun) (reason : Nat) (layer : Option Nat) (info : Nat) : Deadline :=
  let (s, det) := d.s.noteReject c.ring reason layer
  { d with s := s.commitEnd c { status := 0x01, detail := det, info := info } }

/-- The announcement of a compiled commit to the partner (R309): its tick, the pinned frames and its records. -/
def State.announceCommit (s : State) (tick : Nat) (rs : List LayerRec) : State :=
  if s.pair = pACTIVE then
    s.sendPair 0x11 (leBytes 6 tick ++ leBytes 1 rs.length ++ zeros 1
      ++ (List.range 16).flatMap (fun p => leBytes 4 ((s.cascadeIn p).pinned.getD 0xFFFFFFFF)) ++ rs.flatten)
  else s

/-- One COMMIT entry in execution at the deadline of period `k` (R181). -/
def Deadline.commit (k : Nat) (d : Deadline) (c : CommitRun) : Deadline :=
  if (d.s.io.activeEntry c.ring c.index 0x10).isNone || decide (k + 2 < fieldAt c.entry 24 6) then d
  else if c.desc.isNone then d.wait c 2 none
  else
    let rs := c.records
    match d.s.recordFault [] rs with
    | some (reason, l) => d.reject c reason (some l) 0
    | none =>
      match rs.find? (fun (r : LayerRec) => d.changed.contains r.layer) with
      | some r => d.wait c 3 (some r.layer)
      | none =>
        match (rs.zipIdx).find? (fun (r : LayerRec × Nat) => !d.s.fenceMet c r.2 r.1) with
        | some (r, _) => d.wait c 1 (some (LayerRec.layer r))
        | none =>
          let after := d.s.applyRecords d.layers rs
          match d.s.planFault after rs with
          | some (reason, l, info) => d.reject c reason l info
          | none =>
            let s := d.s.onLay (fun l =>
              { l with commits := l.commits.filter (·.ring != c.ring),
                       compiled := l.compiled ++ [({ ring := some (c.ring, c.index, c.entry), records := rs, tick := k + 1 } : Compiled)] })
            { d with s := s.announceCommit (k + 1) rs, layers := after, changed := d.changed ++ rs.map LayerRec.layer }

/-- The instant of the compile deadline of the period, in 1/64 ns (R67, R181). -/
def State.deadlineAt (s : State) : Nat := s.tick.last + (s.rset s.rateSet).compileDeadline * 256

/-- The frame that a CASCADE layer pins at a deadline (R173): the newest that completed CASCADE_MARGIN before it. -/
def State.newestFrame (s : State) (c : CascadeIn) : Option Nat :=
  let margin := s.getF Fld.CMP_COMMIT_CFG_CASCADE_MARGIN * 10000 * 64
  (c.frames.filter (fun f => match f.done with | some t => decide (t + margin ≤ s.deadlineAt) | none => false)).foldl
    (fun a f => some (max (a.getD 0) f.number)) none

/-- R173: one enabled CASCADE layer's stale count after a deadline that pinned a newer frame or did not. -/
def State.staleLayer (newer : Nat → Bool) (s : State) (l : Nat × List Byte) : State :=
  let r : LayerRec := l.2
  if r.kind ≠ 3 then s
  else if newer r.index then
    (s.setF (Fld.CMP_LAYER_STATE_CASCADE_STALE l.1) 0).onLay (fun y => { y with staleRun := y.staleRun.filter (·.1 != l.1) })
  else
    let run := ((s.video.lay.staleRun.find? (·.1 == l.1)).map (·.2)).getD 0 + 1
    let s := s.onLay (fun y => { y with staleRun := (l.1, run) :: y.staleRun.filter (·.1 != l.1) })
    if atLeast1 (s.getF Fld.CMP_COMMIT_CFG_CASCADE_STALE) ≤ run ∧ !s.isF (Fld.CMP_LAYER_STATE_CASCADE_STALE l.1) then
      (s.setF (Fld.CMP_LAYER_STATE_CASCADE_STALE l.1) 1).on (·.fireObj 166 (some (l.1 / 16)) l.1)
    else s

/-- R173: every cascaded input pins its frame for the next period, and the stale flags of its layers are set or cleared. -/
def State.pinFrames (s : State) : State :=
  let newer := fun p => match s.newestFrame (s.cascadeIn p) with
    | some n => (match (s.cascadeIn p).pinned with | some m => decide (m < n) | none => true)
    | none => false
  let s1 := s.video.lay.cascades.foldl (fun s c =>
    match s.newestFrame c with
    | some n => s.setCascade { c with pinned := some (max n (c.pinned.getD 0)) }
    | none => s) s
  s1.video.lay.layers.foldl (State.staleLayer newer) s1

/-- `l` with `x` entered in ascending ring order. -/
def insertCommit (x : CommitRun) : List CommitRun → List CommitRun
  | [] => [x]
  | y :: t => if x.ring < y.ring then x :: y :: t else y :: insertCommit x t

/-- The COMPILE slots of the regions start, and the deadline of this period is past (R99, R181). -/
def State.openDeadline (s : State) : State :=
  ((List.range 4).foldl (fun (s : State) n => s.startKind n 0x0D 33) s).onLay (fun l => { l with deadline := some s.io.tick })

/-- The waiting commits meet the deadline of tick `k` one after another (R181). -/
def State.compileAll (s : State) (k : Nat) : Deadline :=
  let start := s.video.lay.compiled.foldl (fun ls c => if k < c.tick then s.applyRecords ls c.records else ls) s.video.lay.layers
  (s.video.lay.commits.foldl (fun l c => insertCommit c l) []).foldl (Deadline.commit k) { s := s, layers := start, changed := [], waited := false }

/-- R181: the compile deadline of the current period, once per period, in the active or solo unit. A standby only pins frames,
where no announcement has pinned them (R185, log 28). -/
def State.compileDeadline (s : State) : State :=
  let k := s.io.tick
  if !s.io.operational || !s.io.hasHost || s.tick.inGap || s.video.lay.deadline = some k then s
  else if !s.serving then
    if s.openDeadline.video.lay.compiled.any (fun c => c.tick == k + 1) then s.openDeadline else s.openDeadline.pinFrames
  else
    let d := s.openDeadline.pinFrames.compileAll k
    let s := d.s.onLay (fun l => { l with fences := [] })
    if d.waited then s.fire 162 else s

def execCompileDeadline (s : State) : Result := .next s.compileDeadline

/-! ### Application and releases -/

/-- A record's own buffer is replaced by the next one (R186): none for a DISABLE. -/
def replaces (old : LayerRec) (new : Option LayerRec) : Bool :=
  (old.kind == 1 || old.kind == 2) &&
  (match new with
   | none => true
   | some n => old.kind != n.kind || old.addr 0 != n.addr 0 || old.addr 1 != n.addr 1 || old.ctx != n.ctx)

/-- The mask of R186 of a commit. -/
def State.replaceMask (s : State) (rs : List LayerRec) : Nat :=
  rs.foldl (fun m r =>
    match s.video.lay.layers.find? (·.1 == r.layer) with
    | some (_, old) => if replaces old (if r.action = 1 then none else some (s.effective r)) then m + 2 ^ r.layer else m
    | none => m) 0

/-- CMP_LAYER_STATE, TAG, RING and SINCE of one layer take a new state (R184). -/
def State.reportLayer (s : State) (tag ring : Nat) (r : LayerRec) : State :=
  let n := r.layer
  let on := r.action != 1
  let s := s.setF (Fld.CMP_LAYER_STATE_ENABLED n) (flag on)
  let s := s.setF (Fld.CMP_LAYER_STATE_SRC_KIND n) (if on then r.kind else 0)
  let s := s.setF (Fld.CMP_LAYER_STATE_Z n) (if on then r.z else 0)
  let s := s.setF (Fld.CMP_LAYER_STATE_FALLBACK n) (if on then r.fallback else 0)
  let s := if on ∧ r.kind = 3 then s
    else (s.setF (Fld.CMP_LAYER_STATE_CASCADE_STALE n) 0).onLay (fun y => { y with staleRun := y.staleRun.filter (·.1 != n) })
  ((s.setF (Fld.CMP_LAYER_TAG n) tag).setF (Fld.CMP_LAYER_RING n) ring).setF (Fld.CMP_LAYER_SINCE n) s.io.tick

/-- R184, R185, R189: a compiled or announced commit takes effect at this tick. -/
def State.applyCompiled (s : State) (c : Compiled) : State :=
  let mask := s.replaceMask c.records
  let tag := match c.ring with | some (_, _, e) => fieldAt e 4 4 | none => 0
  let ring := match c.ring with | some (n, _, _) => n | none => 0
  let s := s.onLay (fun l => { l with layers := s.applyRecords l.layers c.records })
  let s := c.records.foldl (fun s r => s.reportLayer tag ring r) s
  if c.tick = 0 then s
  else
    let s := (s.bumpF Fld.CMP_COMMIT_APPLIED).fire 160
    match c.ring with
    | none => s
    | some (n, i, e) =>
      if (s.io.activeEntry n i 0x10).isNone then s
      else
        let s := s.on (fun io => (io.setRing n { io.ring n with active := [] }).complete n i e { kind := 1, info := c.tick + 1 })
        s.onLay (fun l => { l with releases := l.releases ++ [({ ring := n, index := i, entry := e, mask := mask, tick := c.tick + 2 } : ReleaseDue)] })

/-- The layers' part of a numbered tick: FALLBACK_SHOWN of the period that ends, the commits that take effect, and the pinned
frames that come into use. The initial static state (tick 0) waits for OPERATIONAL (R189). -/
def State.layersTick (s : State) : State :=
  let t := s.io.tick
  let s := (List.range 64).foldl (fun s n => s.setF (Fld.CMP_LAYER_STATE_FALLBACK_SHOWN n) (flag (s.video.lay.shown.contains n))) s
  let ready := fun (c : Compiled) => decide (c.tick ≤ t) && (c.tick != 0 || s.io.operational)
  let due := s.video.lay.compiled.filter ready
  let s := s.onLay (fun l => { l with shown := [], before := l.layers, compiled := l.compiled.filter (fun c => !ready c),
                                      cascades := l.cascades.map (fun c => { c with inUse := c.pinned, before := c.inUse }) })
  due.foldl State.applyCompiled s

/-- Whether reads of frames up to tick `t` still run (R186). -/
def State.readsRun (s : State) (t : Nat) : Bool := s.video.composing.any (fun c => decide (c.frame ≤ t))

/-- R186, R308: a commit's release completion is written once its tick has come, every read of a replaced buffer has ended,
and, while the partner is in lockstep, its READ_DONE has arrived. -/
def execReleaseDue (ring i : Nat) (s : State) : Result :=
  .next (match s.video.lay.releases.find? (fun r => r.ring == ring && r.index == i) with
    | none => s
    | some r =>
      if s.io.tick < r.tick || s.readsRun (r.tick - 2)
          || (s.pair = pACTIVE && s.pairLink && s.pairUnit.lockstep && decide (s.pairUnit.readDone < r.tick)) then s
      else
        let s := s.onLay (fun l => { l with releases := eraseFirst (fun x => x == r) l.releases })
        s.on (fun io => (io.complete ring i r.entry { kind := 2, info := r.mask }).finishDestroy ring))

/-! ### The static layer set -/

/-- The records of the entries with INITIAL set, each a STATIC source of its own entry without a fence (R189). -/
def State.initialRecords (s : State) : List LayerRec :=
  (List.range (s.getF Fld.CMP_STATIC_COUNT)).filterMap (fun i =>
    match s.staticEntry i with
    | some e => if bit (fieldAt e 140 1) 0 then some (sub e 0 1 ++ zeros 1 ++ leBytes 1 (fieldAt e 2 1 / 16 * 16 + 4) ++ sub e 3 30 ++ leBytes 1 i ++ sub e 34 26 ++ zeros 4 ++ sub e 64 64) else none
    | none => none)

/-- A format with a second plane (R195). -/
def twoPlanes (f : Nat) : Bool := f == 0x09 || f == 0x0A || f == 0x0B

/-- R189: firmware copies each entry's pixels to device DRAM: the lines of the first plane to SRC_ADDR0, and the second plane, which
follows them, to SRC_ADDR1. -/
def State.copyStatic (s : State) : State :=
  (List.range (s.getF Fld.CMP_STATIC_COUNT)).foldl (fun s i =>
    match s.staticEntry i with
    | some e =>
      let r : LayerRec := e
      let data := sub (s.sectOr 0x000C) (fieldAt e 128 8) (fieldAt e 136 4)
      let first := if twoPlanes r.format then r.pitch 0 * r.srcH else data.length
      s.on (fun io => (io.writeDram (r.addr 0) (data.take first)).writeDram (r.addr 1) (data.drop first))
    | none => s) s

end Sys2Proof.Machine
end

