-- ==== Sys2Proof/Machine/Fetch.lean ====
section
/-! DEFINITION. The path of a pixel from memory to its scaled value (R193 to R204): formats, chroma upsampling, conversion into
linear light, pre-decimation and filtering. -/

namespace Sys2Proof.Machine

/-- A pixel in linear light: colour in units of 2^-24 and alpha (R194). -/
structure Px where
  r : Nat
  g : Nat
  b : Nat
  a : Nat
deriving DecidableEq, Repr

/-- What a layer's conversion needs: its record, the raster's domain, SDR white and primaries, its source's memory and, for a
CASCADE source, the pinned frame with its domain. -/
structure Source where
  lay : List Byte
  gamma : Bool
  white : Nat
  raster : Nat
  read : Nat → Nat → List Byte
  frame : List (Nat × List Nat)
  frameGamma : Bool

/-- The ceiling in force (R194). -/
def Source.ceil (c : Source) : Nat := ceilOf c.gamma

/-- Bits per component of a format (R195). -/
def formatDepth (f : Nat) : Nat := match f with | 0x02 | 0x07 | 0x09 | 0x0B => 10 | 0x03 => 12 | _ => 8

/-- A 16-bit sample with its value in [15:6]. -/
def top10 (bs : List Byte) : Int := (leNat bs / 64 : Nat)

/-- The three components of pixel (x, y) of a format without subsampled chroma, as codes (R195). -/
def Source.direct (c : Source) (x y : Nat) : Int × Int × Int :=
  let r : LayerRec := c.lay
  let at0 := fun (n : Nat) => r.addr 0 + y * r.pitch 0 + x * n
  let by8 := fun (i : Nat) => ((leNat (c.read (at0 4 + i) 1) : Nat) : Int)
  let by12 := fun (i : Nat) => ((leNat (c.read (at0 6 + 2 * i) 2) / 16 : Nat) : Int)
  match r.format with
  | 0x02 | 0x07 =>
    let w := leNat (c.read (at0 4) 4)
    (bits w 0 10, bits w 10 10, bits w 20 10)
  | 0x03 => (by12 0, by12 1, by12 2)
  | _ => (by8 0, by8 1, by8 2)

/-- The luma code of pixel (x, y) of a format with subsampled chroma. -/
def Source.luma (c : Source) (x y : Nat) : Int :=
  let r : LayerRec := c.lay
  let line := r.addr 0 + y * r.pitch 0
  match r.format with
  | 0x08 => (leNat (c.read (line + x / 2 * 4 + 2 * (x % 2)) 1) : Nat)
  | 0x0A => (leNat (c.read (line + x) 1) : Nat)
  | _ => top10 (c.read (line + 2 * x) 2)

/-- Chroma sample (j, l), `cr` for Cr, of a format with subsampled chroma. -/
def Source.chroma (c : Source) (j l : Nat) (cr : Bool) : Int :=
  let r : LayerRec := c.lay
  let k := flag cr
  match r.format with
  | 0x08 => (leNat (c.read (r.addr 0 + l * r.pitch 0 + 4 * j + 1 + 2 * k) 1) : Nat)
  | 0x0A => (leNat (c.read (r.addr 1 + l * r.pitch 1 + 2 * j + k) 1) : Nat)
  | _ => top10 (c.read (r.addr 1 + l * r.pitch 1 + 4 * j + 2 * k) 2)

/-- The upsampling rule of R197 at position `x` from samples `f`. -/
def upsample (centred : Bool) (x : Nat) (f : Int → Int) : Int :=
  let h : Int := ((x / 2 : Nat) : Int)
  if centred then
    if x % 2 = 0 then (3 * f h + f (h - 1) + 2) / 4 else (3 * f h + f (h + 1) + 2) / 4
  else if x % 2 = 0 then f h else (f h + f (h + 1) + 1) / 2

/-- A sample index replaced by the nearest that overlaps `[lo, lo + n)` luma positions (R197). -/
def clampChroma (lo n : Nat) (j : Int) : Nat := (clampI ((lo / 2 : Nat) : Int) (((lo + n - 1) / 2 : Nat) : Int) j).toNat

/-- Cb or Cr of pixel (x, y) at full resolution: vertical upsampling first (4:2:0 only), then horizontal (R197). -/
def Source.chromaAt (c : Source) (x y : Nat) (cr : Bool) : Int :=
  let r : LayerRec := c.lay
  let quarter := r.format == 0x0A || r.format == 0x0B
  let column := fun (j : Int) =>
    let j := clampChroma r.srcX r.srcW j
    if quarter then upsample (r.site true) y (fun l => c.chroma j (clampChroma r.srcY r.srcH l) cr) else c.chroma j y cr
  upsample (r.site false) x column

/-- The exact value of a code as num / den (R198): luma and RGB, or chroma. -/
def normCode (narrow chroma : Bool) (b : Nat) (v : Int) : Int × Nat :=
  if narrow then
    if chroma then (v - (128 * 2 ^ (b - 8) : Nat), 224 * 2 ^ (b - 8)) else (v - (16 * 2 ^ (b - 8) : Nat), 219 * 2 ^ (b - 8))
  else if chroma then (v - (2 ^ (b - 1) : Nat), 2 ^ b - 1) else (v, 2 ^ b - 1)

/-- The 12-bit code of an exact value num / den (R198). -/
def code12 (num : Int) (den : Nat) : Nat := (clampI 0 4095 ((2 * 4095 * num + den) / (2 * (den : Int)))).toNat

/-- The 12-bit nonlinear RGB codes of a pixel of a coded format (R197, R198). -/
def Source.codes (c : Source) (x y : Nat) : Nat × Nat × Nat :=
  let r : LayerRec := c.lay
  let b := formatDepth r.format
  if r.format ≤ 0x04 then
    let (v0, v1, v2) := c.direct x y
    let one := fun v => let (n, d) := normCode r.narrow false b v; code12 n d
    (one v0, one v1, one v2)
  else
    let (v0, v1, v2) := if r.format ≤ 0x07 then c.direct x y else (c.luma x y, c.chromaAt x y false, c.chromaAt x y true)
    let m := yccMatrix r.matrix
    let (n0, d0) := normCode r.narrow false b v0
    let (n1, d1) := normCode r.narrow (r.matrix != 3) b v1
    let (n2, d2) := normCode r.narrow (r.matrix != 3) b v2
    let out := fun (i : Nat) =>
      code12 (m.getD (3 * i) 0 * n0 * d1 * d2 + m.getD (3 * i + 1) 0 * n1 * d0 * d2 + m.getD (3 * i + 2) 0 * n2 * d0 * d1) (16384 * d0 * d1 * d2)
    (out 0, out 1, out 2)

/-- Conversion of primaries (R198): exact products, rounded once and clamped. -/
def Source.primaries (c : Source) (p : Nat × Nat × Nat) : Nat × Nat × Nat :=
  match primMatrix (LayerRec.prim c.lay) c.raster with
  | none => p
  | some m =>
    let out := fun (i : Nat) =>
      halfClamp c.ceil (m.getD (3 * i) 0 * p.1 + m.getD (3 * i + 1) 0 * p.2.1 + m.getD (3 * i + 2) 0 * p.2.2) 16384
    (out 0, out 1, out 2)

/-- Source alpha of a pixel (R195, R200). -/
def Source.alpha (c : Source) (x y : Nat) : Nat :=
  let r : LayerRec := c.lay
  match r.format with
  | 0x04 => leNat (c.read (r.addr 0 + y * r.pitch 0 + 4 * x + 3) 1) * 257
  | 0x05 =>
    match readHalf (leNat (c.read (r.addr 0 + y * r.pitch 0 + 8 * x + 6) 2)) with
    | .nan | .inf true | .finite true _ => 0
    | .inf false => 65535
    | .finite false n => (2 * 65535 * min n (2 ^ 24) + 2 ^ 24) / 2 ^ 25
  | _ => 0xFFFF

/-- Source pixel (x, y), in plane or picture positions, in linear light and raster primaries (R193 stages 1 to 5), and how
many of its components R199 replaced. -/
def Source.pixel (c : Source) (x y : Nat) : Px × Nat :=
  let r : LayerRec := c.lay
  let finish := fun (p : Nat × Nat × Nat) (n : Nat) =>
    let (q0, q1, q2) := c.primaries p
    (({ r := q0, g := q1, b := q2, a := c.alpha x y } : Px), n)
  if r.kind = 3 then
    let blk := (Sparse.get (fun _ => []) c.frame (256 * (y / 8) + x / 16))
    let i := 3 * (16 * (y % 8) + x % 16)
    let t := fun (v : Nat) => min c.ceil (eotfEntry c.gamma c.white (if c.frameGamma then 2 else 3) v)
    finish (t (nth blk i), t (nth blk (i + 1)), t (nth blk (i + 2))) 0
  else if r.format = 0x05 then
    let at_ := r.addr 0 + y * r.pitch 0 + 8 * x
    let v := fun (i : Nat) => sourceHalf c.ceil (leNat (c.read (at_ + 2 * i) 2))
    finish ((v 0).1, (v 1).1, (v 2).1) (flag (v 0).2 + flag (v 1).2 + flag (v 2).2)
  else
    let (v0, v1, v2) := c.codes x y
    let t := fun (v : Nat) => min c.ceil (eotfEntry c.gamma c.white r.transfer v)
    finish (t v0, t v1, t v2) 0

/-- The source pixels of the group behind pre-decimated pixel (u, v) that lie inside the source rectangle (R201). -/
def LayerRec.group (r : LayerRec) (p u v : Nat) : List (Nat × Nat) :=
  ((List.range p).flatMap (fun j => (List.range p).map (fun i => (p * u + i, p * v + j)))).filterMap
    (fun q => if q.1 < r.srcW ∧ q.2 < r.srcH then some (r.srcX + q.1, r.srcY + q.2) else none)

/-- A pixel of the pre-decimated picture (R201): the exact mean of its group, rounded once. -/
def Source.decimated (c : Source) (p u v : Nat) : Px :=
  let g := (LayerRec.group c.lay p u v).map (fun q => (c.pixel q.1 q.2).1)
  match g with
  | [x] => x
  | _ =>
    let n := g.length
    let mean := fun (f : Px → Nat) => half ((g.map f).foldl (· + ·) 0) n
    { r := mean Px.r, g := mean Px.g, b := mean Px.b, a := (2 * (g.map Px.a).foldl (· + ·) 0 + n) / (2 * n) }

/-- The vertical sum of one colour over a source column: binary32, not clamped (R204). -/
def verticalSum (col : List (Px × Int)) (f : Px → Nat) : Fp :=
  Fp.round f32 ⟨col.foldl (fun a t => a + t.2 * (f t.1 : Int)) 0, -38⟩

/-- The horizontal sum of binary32 values, rounded to binary16 and clamped (R204). -/
def horizontalSum (ceil : Nat) (vs : List (Fp × Int)) : Nat :=
  let x := vs.foldl (fun a t => a.addExact ⟨t.1.m * t.2, t.1.e⟩) Fp.zero
  if 0 ≤ x.e + 10 then halfClamp ceil (scaleUp x.m (x.e + 10)) 1 else halfClamp ceil x.m (2 ^ (-(x.e + 10)).toNat)

/-- The scaled value of a layer at output pixel (x, y) of its destination rectangle (R204). -/
def Source.scaled (c : Source) (p x y : Nat) : Px :=
  let r : LayerRec := c.lay
  let vt := r.taps p true y
  let cols := (r.taps p false x).map (fun h => (vt.map (fun t => (c.decimated p h.1 t.1, t.2)), h.2))
  let colour := fun (f : Px → Nat) => horizontalSum c.ceil (cols.map (fun h => (verticalSum h.1 f, h.2)))
  let a := cols.foldl (fun acc h => acc + h.2 * h.1.foldl (fun s t => s + t.2 * (t.1.a : Int)) 0) (0 : Int)
  { r := colour Px.r, g := colour Px.g, b := colour Px.b, a := (clampI 0 65535 ((a + 2 ^ 27) / 2 ^ 28)).toNat }

/-- One blend step of R209: scaled pixel, ALPHA_MODE and LAYER_ALPHA over the colour so far. -/
def blend (ceil mode l : Nat) (c d : Px) : Px :=
  let e := if mode = 0 then l else (c.a * l + 32767) / 65535
  let w := if mode = 2 then e else l
  let mix := fun (x y : Nat) => min ceil (half (x * w + y * (65535 - e)) 65535)
  { r := mix c.r d.r, g := mix c.g d.g, b := mix c.b d.b, a := d.a }

end Sys2Proof.Machine
end

