-- ==== Sys2Proof/Machine/Compose.lean ====
section
/-! DEFINITION. Composition of block rows (R206 to R213), fallbacks (R141, R171, R211), the handoff to the encoders and the
monitoring capture (R214 to R217). -/

namespace Sys2Proof.Machine

/-! ### Tiles and held pictures -/

/-- The slices coded in region `n`: the tiles of its output chains, and the part's own section (R22, R32). -/
def State.slicesOf (s : State) (n : Nat) : List Position :=
  (s.plan.positions.filter (fun e => e.chain / 4 == n && s.isOutput e.chain)) ++ (match s.plan.own with | some e => if e.chain / 4 = n then [e] else [] | none => [])

/-- The slice that holds block column `c` of block row `row` of region `n`'s raster. -/
def State.sliceAt (s : State) (n c row : Nat) : Option Position :=
  (s.slicesOf n).find? (fun e => decide (e.x ≤ 16 * c ∧ 16 * c < e.x + e.width ∧ e.y ≤ 8 * row ∧ 8 * row < e.y + e.height))

/-- The mirror of a tile's pool (R259). -/
def State.mirror (s : State) (chain pos : Nat) : Mirror :=
  (s.video.mirrors.find? (fun m => m.chain == chain && m.position == pos)).getD { chain := chain, position := pos }

/-- A mirror replaced. -/
def State.setMirror (s : State) (m : Mirror) : State :=
  s.onVideo (fun v => { v with mirrors := m :: v.mirrors.filter (fun x => !(x.chain == m.chain && x.position == m.position)) })

/-- The key of a pool block: slot, block row and block column; slot 4 is the long-term picture. -/
def poolKey (slot row c : Nat) : Nat := slot * 2 ^ 20 + row * 2 ^ 8 + c

/-- A block of a pool: its codes while it is valid. -/
def poolBlock (p : List (Nat × List Nat)) (slot row c : Nat) : Option (List Nat) :=
  (p.find? (·.1 == poolKey slot row c)).map (·.2)

/-- A pool without the blocks that satisfy `p` of slot, row and column. -/
def dropBlocks (l : List (Nat × List Nat)) (p : Nat → Nat → Nat → Bool) : List (Nat × List Nat) :=
  l.filter (fun e => !p (e.1 / 2 ^ 20) (e.1 / 2 ^ 8 % 2 ^ 12) (e.1 % 2 ^ 8))

/-- The candidate slots of a frame that lights at `j`, most recent first: those written for ticks j − 1, j − 2 and j − 3
(R262). -/
def Mirror.candidates (m : Mirror) (j : Nat) : List Nat :=
  ([1, 2, 3].filter (fun d => decide (d ≤ j) && m.slotTick.getD ((j - d) % 4) none == some (j - d))).map (fun d => (j - d) % 4)

/-- The held picture of a block of a slice in the frame that lights at `j`: its slot and codes, none where no candidate slot
holds it valid (R211, R237). -/
def Mirror.heldFrom (m : Mirror) (j row c : Nat) : Option (Nat × List Nat) :=
  (m.candidates j).findSome? (fun slot => (poolBlock m.blocks slot row c).map (fun b => (slot, b)))

/-- The raster's coding domain is gamma 2.4 (R218). -/
def State.gammaRaster (s : State) : Bool := s.isF Fld.CMP_COLOUR_DOMAIN

/-- SDR_WHITE (R218): 0 acts as 203. -/
def State.sdrWhite (s : State) : Nat := let w := s.getF Fld.CMP_COLOUR_SDR_WHITE; if w = 0 then 203 else w

/-- RASTER_PRIM (R218): 3 acts as 1. -/
def State.rasterPrim (s : State) : Nat := let p := s.getF Fld.CMP_COLOUR_RASTER_PRIM; if p = 3 then 1 else p

/-- The code of a colour value (R221). -/
def State.toCode (s : State) (v : Nat) : Nat := nearestCode (codingEntry s.gammaRaster s.sdrWhite) v

/-- The background of region `n` (R208). -/
def State.background (s : State) (n : Nat) : Px :=
  let t := takeHalf (ceilOf s.gammaRaster)
  { r := t (s.getF (Fld.CMP_BG_RG_R n)), g := t (s.getF (Fld.CMP_BG_RG_G n)), b := t (s.getF (Fld.CMP_BG_B_B n)), a := 0xFFFF }

/-- The codes of a block of background. -/
def State.backgroundCodes (s : State) (n : Nat) : List Nat :=
  let b := s.background n
  (List.replicate 128 [s.toCode b.r, s.toCode b.g, s.toCode b.b]).flatten

/-- The codes that a held block of a region's raster shows in the frame that lights at `j` (R211). -/
def State.heldCodes (s : State) (n c row j : Nat) : List Nat :=
  match s.sliceAt n c row with
  | some e => match (s.mirror e.chain e.position).heldFrom j (row - e.y / 8) (c - e.x / 16) with
    | some (_, b) => b
    | none => s.backgroundCodes n
  | none => s.backgroundCodes n

/-! ### Composing a row -/

/-- The frame that a CASCADE layer shows (R173): the pinned one in use, in a late slot the one that was in use before (R97). -/
def State.pinnedFrame (s : State) (late : Bool) (port : Nat) : Option CascadeFrame :=
  let c := s.cascadeIn port
  match (if late then c.before else c.inUse) with
  | some n => c.frames.find? (fun f => f.number == n && f.done.isSome)
  | none => none

/-- The bytes that the line buffers of a region hold of a layer in a frame (R205). -/
def lineBytes (ls : List SourceLine) (n layer frame a k : Nat) : List Byte :=
  match ls.find? (fun l => l.region == n && l.layer == layer && l.frame == frame && decide (l.addr ≤ a ∧ a + k ≤ l.addr + l.bytes.length)) with
  | some l => sub l.bytes (a - l.addr) k
  | none => zeros k

/-- What composition reads of a layer: its lines in the line buffers, or the pinned frame. -/
def State.sourceOf (s : State) (run : ComposeRun) (r : LayerRec) : Source :=
  { lay := r, gamma := s.gammaRaster, white := s.sdrWhite, raster := s.rasterPrim,
    read := lineBytes s.video.lines run.region r.layer run.frame,
    frame := match s.pinnedFrame run.late r.index with | some f => f.blocks | none => [],
    frameGamma := bit (s.getF Fld.DEC_CASCADE_DOMAIN_PORT) r.index }

/-! ### Fetch lists (R212) -/

/-- Bytes of a pixel in the first plane of a format (R195): of a pair of pixels, halved, for 0x08. -/
def pixelBytes (f : Nat) : Nat := match f with | 0x03 => 6 | 0x05 => 8 | 0x08 | 0x09 | 0x0B => 2 | 0x0A => 1 | _ => 4

/-- A format whose chroma is subsampled, and one whose chroma has half the lines (R195). -/
def halfChroma (f : Nat) : Bool := decide (0x08 ≤ f ∧ f ≤ 0x0B)
def quarterChroma (f : Nat) : Bool := f == 0x0A || f == 0x0B

/-- The least and greatest chroma sample that pixels `a` to `b` read along an axis (R197), each replaced by the nearest that overlaps
the source rectangle. -/
def chromaSpan (centred : Bool) (lo n a b : Nat) : Nat × Nat :=
  let least : Int := if centred then ((a + 1) / 2 : Nat) - 1 else ((a / 2 : Nat) : Int)
  (clampChroma lo n least, clampChroma lo n (((b + 1) / 2 : Nat) : Int))

/-- A byte range widened outward to whole 64-byte units of memory (R212). -/
def widen (a b : Nat) : Nat × Nat := (a / 64 * 64, (b + 63) / 64 * 64)

/-- The source lines and pixel span behind a row of a layer (R203, R212): the lines that its output lines read, and its leftmost and
rightmost source pixel; none where every block is dropped. -/
def LayerRec.reach (r : LayerRec) (p : Nat) (all : List LayerRec) (row : Nat) : Option (List Nat × Nat × Nat) :=
  match r.spanOf p (r.left all row), bounds ((r.linesOf row).flatMap (fun y => (r.taps p true y).map (·.1))) with
  | some (a, b), some (lo, hi) =>
    some ((((List.range (min r.srcH (p * (hi + 1)))).drop (p * lo)).map (r.srcY + ·)), r.srcX + p * a, r.srcX + min r.srcW (p * (b + 1)) - 1)
  | _, _ => none

/-- The chroma lines that a luma line reads in the second plane (R197). -/
def LayerRec.chromaLines (r : LayerRec) (y : Nat) : List Nat :=
  if quarterChroma r.format then
    let (a, b) := chromaSpan (r.site true) r.srcY r.srcH y y
    if a = b then [a] else [a, b]
  else [y]

/-- The fetch list of a row of a layer (R212): plane, line and byte range. -/
def LayerRec.fetchList (r : LayerRec) (p : Nat) (all : List LayerRec) (row : Nat) : List (Nat × Nat × Nat × Nat) :=
  match r.reach p all row with
  | none => []
  | some (ys, xa, xb) =>
    let (ja, jb) := chromaSpan (r.site false) r.srcX r.srcW xa xb
    let n := pixelBytes r.format
    let (ca, cb) := if r.format = 0x08 then (4 * min (xa / 2) ja, 4 * (max (xb / 2) jb + 1)) else (n * xa, n * (xb + 1))
    let luma := ys.map (fun y => let base := r.addr 0 + y * r.pitch 0; let (a, b) := widen (base + ca) (base + cb); (0, y, a, b))
    if !twoPlanes r.format then luma
    else
      let k := if r.format = 0x0A then 2 else 4
      luma ++ ((ys.flatMap r.chromaLines).eraseDups).map (fun l =>
        let base := r.addr 1 + l * r.pitch 1
        let (a, b) := widen (base + k * ja) (base + k * (jb + 1))
        (1, l, a, b))

/-- The line of a plane that the line buffers hold for a layer's frame. -/
def State.heldLine (s : State) (n layer frame plane line : Nat) : Option SourceLine :=
  s.video.lines.find? (fun l => l.region == n && l.layer == layer && l.frame == frame && l.plane == plane && l.line == line)

/-- The source reads device DRAM (R170). -/
def LayerRec.inDram (r : LayerRec) : Bool := r.kind == 2 || r.kind == 4

/-- A range of a line is fetched into the line buffers, but for what they hold already (R205, R212); the fault that it meets: kind and
address. -/
def State.fetchLine (s : State) (run : ComposeRun) (r : LayerRec) (f : Nat × Nat × Nat × Nat) : State × Option (Nat × Nat) :=
  let (plane, line, a, b) := f
  let n := run.region
  let w := Waiter.slot n run.slot
  let get := fun (s : State) (a b : Nat) =>
    let (io, bs, e) := Io.readOps run.mem w n 0 r.inDram r.ctx (opsOf a (b - a)) s.io
    ({ s with io := io }, bs, e)
  let put := fun (s : State) (a : Nat) (bs : List Byte) =>
    let one : SourceLine := { region := n, layer := r.layer, frame := run.frame, plane := plane, line := line, addr := a, bytes := bs }
    s.onVideo (fun v => { v with lines := one :: v.lines.filter (fun (l : SourceLine) =>
      !(l.region == n && l.layer == r.layer && l.frame == run.frame && l.plane == plane && l.line == line)) })
  match s.heldLine n r.layer run.frame plane line with
  | none =>
    match get s a b with
    | (s, bs, none) => (put s a bs, none)
    | (s, _, some e) => (s, some e)
  | some h =>
    let top := h.addr + h.bytes.length
    match get s (min a h.addr) h.addr with
    | (s, _, some e) => (s, some e)
    | (s, left, none) =>
      match get s top (max b top) with
      | (s, _, some e) => (s, some e)
      | (s, right, none) => (put s (min a h.addr) (left ++ h.bytes ++ right), none)

/-- The lines of a fetch list in order, up to the first that faults. -/
def State.fetchLines (run : ComposeRun) (r : LayerRec) : List (Nat × Nat × Nat × Nat) → State → State × Option (Nat × Nat)
  | [], s => (s, none)
  | f :: t, s =>
    match s.fetchLine run r f with
    | (s, some e) => (s, some e)
    | (s, none) => State.fetchLines run r t s

/-- Look-ahead (R133): the pages of the fetch lists of a later row of the host-sourced layers are looked up. -/
def State.lookAhead (s : State) (run : ComposeRun) (all : List LayerRec) (row : Nat) : State :=
  all.foldl (fun s r =>
    if LayerRec.kind r ≠ 1 ∨ s.io.ctxMode r.ctx ≠ 1 then s
    else
      let fs := r.fetchList (s.predec r.layer) all row
      let pages := (fs.flatMap (fun (f : Nat × Nat × Nat × Nat) => (List.range (ceilDiv f.2.2.2 4096)).drop (f.2.2.1 / 4096))).eraseDups
      pages.foldl (fun s p => { s with io := (s.io.resolve run.mem run.region 0 r.ctx (4096 * p) false).1 }) s) s

/-- A layer is shown as its fallback in this frame (R141, R188, R192): counted and logged once. -/
def State.fallBack (s : State) (run : ComposeRun) (lane : Nat) (r : LayerRec) (why : Option (Nat × Nat)) : State :=
  let n := r.layer
  let s := s.onVideo (fun v => { v with faulted := (n, run.frame) :: v.faulted, lay := { v.lay with shown := n :: v.lay.shown } })
  let s := match why with
    | some (k, a) => s.on (fun io => Io.settle ((io.countFault).logFault run.region a k 0 (if LayerRec.kind r = 1 then r.ctx else 0) lane (some n) false))
    | none => s
  (s.bumpF Fld.CMP_FALLBACK_COUNT).on (·.fireOnce n { event := 164, region := some run.region, obj := n })

/-- The fetches of a row (R212): each layer's fetch list; a layer whose fetch faults, or whose input has no frame, is in fallback from
this row on (R141, R173). -/
def State.fetchRow (s : State) (run : ComposeRun) (lane row : Nat) (all : List LayerRec) : State :=
  let s := s.lookAhead run all (row + 2)
  let s := all.foldl (fun s r =>
    if !r.fetches || s.video.faulted.contains (LayerRec.layer r, run.frame) || (r.left all row).isEmpty then s
    else if LayerRec.kind r = 3 then
      (if (s.pinnedFrame run.late r.index).isNone then s.fallBack run lane r none
       else s.cellOps run.region lane 0x000C r.index false (ceilDiv (LayerRec.srcW r) 16 * blockBytes))
    else match s.fetchLines run r (r.fetchList (s.predec r.layer) all row) with
      | (s, none) => s
      | (s, some e) => s.fallBack run lane r (some e)) s
  s.on (fun io => Io.settle (io.completeOwn (.slot run.region run.slot)))

/-- A line leaves the buffers when no later output line of its layer needs it (R205), and with its frame. -/
def State.dropLines (s : State) (run : ComposeRun) (row : Nat) (all : List LayerRec) : State :=
  let needed := fun (l : SourceLine) =>
    match all.find? (fun r => LayerRec.layer r == l.layer) with
    | none => false
    | some r =>
      match bounds ((r.linesOf (row + 1)).flatMap (fun y => (LayerRec.taps r (s.predec r.layer) true y).map (·.1))) with
      | none => false
      | some (lo, _) =>
        let y := LayerRec.srcY r + s.predec r.layer * lo
        if l.plane = 1 && quarterChroma r.format then decide (y / 2 ≤ l.line + 1) else decide (y ≤ l.line)
  s.onVideo (fun v => { v with lines := v.lines.filter (fun l => l.region != run.region || (l.frame == run.frame && needed l)) })

/-- `l` in ascending Z. -/
def insertZ (x : LayerRec) : List LayerRec → List LayerRec
  | [] => [x]
  | y :: t => if x.z < y.z then x :: y :: t else y :: insertZ x t

/-- The FALLBACK_COLOUR of a layer taken into use (R194). -/
def LayerRec.constant (r : LayerRec) (ceil : Nat) : Px :=
  { r := takeHalf ceil (r.colour 0), g := takeHalf ceil (r.colour 1), b := takeHalf ceil (r.colour 2), a := 0xFFFF }

/-- One composed pixel (R208, R209, R211). -/
def State.composePixel (s : State) (run : ComposeRun) (n : Nat) (all : List LayerRec) (x y : Nat) : Px :=
  let ceil := ceilOf s.gammaRaster
  all.foldl (fun d r =>
    if x < r.dstX ∨ r.dstX + r.dstW ≤ x ∨ y < r.dstY ∨ r.dstY + r.dstH ≤ y ∨ r.dropped all (x / 16) (y / 8) then d
    else if r.kind = 5 then blend ceil 0 r.alpha (r.constant ceil) d
    else if s.video.faulted.contains (LayerRec.layer r, run.frame) then
      if r.fallback = 2 then blend ceil 0 r.alpha (r.constant ceil) d else d
    else blend ceil r.alphaMode r.alpha ((s.sourceOf run r).scaled (s.predec r.layer) (x - r.dstX) (y - r.dstY)) d)
    (s.background n)

/-- A block is held: a layer whose destination touches it is under HOLD (R171, R211). -/
def State.blockHeld (s : State) (run : ComposeRun) (all : List LayerRec) (c row : Nat) : Bool :=
  all.any (fun r => r.fallback == 0 && s.video.faulted.contains (LayerRec.layer r, run.frame)
    && r.columnsOf.contains c && !(r.linesOf row).isEmpty)

/-- One composed block. -/
def State.composeBlock (s : State) (run : ComposeRun) (n : Nat) (all : List LayerRec) (c row : Nat) : ComposedBlock :=
  if s.blockHeld run all c row then { held := true, values := [] }
  else
    { held := false,
      values := (List.range 8).flatMap (fun y => (List.range 16).flatMap (fun x =>
        let p := s.composePixel run n all (16 * c + x) (8 * row + y)
        [p.r, p.g, p.b])) }

/-- Source components that R199 replaces in the pixels that a row newly takes in, for a layer. -/
def State.clamps (s : State) (run : ComposeRun) (all : List LayerRec) (row : Nat) (r : LayerRec) : Nat :=
  let p := s.predec r.layer
  if r.kind = 3 ∨ r.kind = 5 ∨ r.format ≠ 0x05 then 0
  else match r.spanOf p (r.left all row) with
    | none => 0
    | some (a, b) =>
      let c := s.sourceOf run r
      let (lo, hi) := r.newLines p row
      ((List.range (hi - lo)).map (lo + ·)).foldl (fun acc v =>
        ((List.range (b - a + 1)).map (a + ·)).foldl (fun acc u =>
          (r.group p u v).foldl (fun acc q => acc + (c.pixel q.1 q.2).2) acc) acc) 0

/-- The counters that one row's layers move (R182, R199, R219). -/
def State.countRow (s : State) (run : ComposeRun) (all : List LayerRec) (row : Nat) : State :=
  all.foldl (fun s r =>
    let n := run.region
    let dropped := if (r.linesOf row).isEmpty then 0 else (r.columnsOf.filter (fun c => r.dropped all c row)).length
    let s := s.bumpF (Fld.CMP_BLOCKS_DROPPED n) dropped
    if s.video.faulted.contains (LayerRec.layer r, run.frame) then s
    else
      let s := s.bumpF (Fld.CMP_SRC_PIXELS n) (r.need (s.predec r.layer) all row)
      let k := s.clamps run all row r
      if k = 0 then s
      else (s.bumpF Fld.CMP_CLAMP_COUNT k).on (·.fireOnce r.layer { event := 170, region := some n, obj := r.layer })) s

/-- The rows of region `n` in its handoff rows. -/
def State.handoffOf (s : State) (n : Nat) : List ComposedRow := s.video.handoff.filter (·.region == n)

/-- CMP_ROW_STAT reports the handoff rows, capture buffers and FIFO rows in use (R219). -/
def State.reportRows (s : State) (n : Nat) : State :=
  let s := s.setF (Fld.CMP_ROW_STAT_HANDOFF n) (s.handoffOf n).length
  let s := s.setF (Fld.CMP_ROW_STAT_CAP_QUEUE n) (s.video.captures.filter (·.region == n)).length
  s.setF (Fld.CMP_ROW_STAT_CAP_FIFO n) (s.video.fifo.filter (·.region == n)).length

/-! ### Capture -/

/-- The capture rectangle: x, y, width and height (R214). -/
def CaptureBuf.rect (b : CaptureBuf) : Nat × Nat × Nat × Nat :=
  (fieldAt b.entry 32 2, fieldAt b.entry 34 2, fieldAt b.entry 36 2, fieldAt b.entry 38 2)

/-- The block rows that a capture rectangle meets. -/
def CaptureBuf.rows (b : CaptureBuf) : Nat :=
  let (_, y, _, h) := b.rect
  (y + h - 1) / 8 - y / 8 + 1

/-- A capture buffer replaced. -/
def State.setCapture (s : State) (b : CaptureBuf) : State :=
  s.onVideo (fun v => { v with captures := v.captures.map (fun x => if x.ring = b.ring ∧ x.index = b.index then b else x) })

/-- A capture buffer leaves its queue and its entry completes. -/
def State.endCapture (s : State) (b : CaptureBuf) (d : Done) : State :=
  let s := s.onVideo (fun v => { v with captures := v.captures.filter (fun x => !(x.ring == b.ring && x.index == b.index)),
                                        fifo := v.fifo.filter (fun r => !(r.region == b.region && b.frame == some r.frame)) })
  let s := if (s.io.activeEntry b.ring b.index 0x30).isSome then s.on (·.owe { ring := b.ring, index := b.index, entry := b.entry, done := d }) else s
  s.reportRows b.region

/-- A buffer whose last row has been written or skipped completes (R217). -/
def State.captureDone (s : State) (b : CaptureBuf) : State :=
  if b.left = 0 ∧ !s.video.fifo.any (fun r => r.region == b.region && b.frame == some r.frame) then
    s.endCapture b { detail := min b.skipped 0xFFFF, info := b.frame.getD 0 }
  else s

/-- A finished block row enters the capture FIFO of 4 rows, or is skipped when it is full (R216). A held block is kept with the
codes of its held picture. -/
def State.captureRow (s : State) (row : ComposedRow) : State :=
  match s.video.captures.find? (fun b => b.region == row.region && b.frame == some row.frame) with
  | none => s
  | some b =>
    let (_, y, _, h) := b.rect
    if row.row < y / 8 ∨ (y + h - 1) / 8 < row.row then s
    else
      let b := { b with left := b.left - 1 }
      if 4 ≤ (s.video.fifo.filter (·.region == row.region)).length then
        let s := s.bumpF Fld.CMP_CAPTURE_SKIPPED
        let s := if b.skipped = 0 then s.on (·.fireIn 167 row.region) else s
        let b := { b with skipped := b.skipped + 1 }
        (s.setCapture b).captureDone b
      else
        let kept := row.blocks.zipIdx.map (fun (x : ComposedBlock × Nat) => if x.1.held then { x.1 with values := s.heldCodes row.region x.2 row.row row.frame } else x.1)
        ((s.setCapture b).bumpF Fld.CMP_CAPTURE_ROWS).onVideo (fun v => { v with fifo := v.fifo ++ [{ row with blocks := kept }] })

/-- The bytes of one captured pixel (R216): format 0 as binary16 with A = 1.0, format 1 as 10-bit codes. -/
def State.capturePixel (s : State) (fmt : Nat) (held : Bool) (v : List Nat) : List Byte :=
  if fmt = 0 then
    let t := fun (x : Nat) => leBytes 2 (halfBits (if held then codingEntry s.gammaRaster s.sdrWhite x else x))
    t (nth v 0) ++ t (nth v 1) ++ t (nth v 2) ++ leBytes 2 0x3C00
  else
    let t := fun (x : Nat) => min 1023 (((if held then x else s.toCode x) + 2) / 4)
    leBytes 4 (t (nth v 0) + 2 ^ 10 * t (nth v 1) + 2 ^ 20 * t (nth v 2))

/-- The lines of a row that lie in a capture rectangle, each with its offset and bytes. -/
def State.captureLines (s : State) (b : CaptureBuf) (row : ComposedRow) : List (Nat × List Byte) :=
  let (cx, cy, cw, ch) := b.rect
  (List.range 8).filterMap (fun j =>
    let y := 8 * row.row + j
    if y < cy ∨ cy + ch ≤ y then none
    else some ((y - cy) * fieldAt b.entry 12 4, (List.range cw).flatMap (fun i =>
      let x := cx + i
      let blk := row.blocks.getD (x / 16) { held := false, values := [] }
      s.capturePixel (fieldAt b.entry 9 1) blk.held ((blk.values.drop (3 * (16 * j + x % 16))).take 3))))

/-- At tick k + 1 the oldest queued buffer of each region takes the frame composed in that period (R215). -/
def State.captureTick (s : State) : State :=
  [0, 1, 2, 3].foldl (fun s n =>
    match s.video.captures.find? (fun b => b.region == n && b.frame.isNone) with
    | some b => s.setCapture { b with frame := some (s.io.tick + 1), left := b.rows }
    | none => s) s

/-- The reserved fields of CAPTURE_BUFFER (R214). -/
def captureFieldsOk (e : List Byte) : Bool :=
  decide (fieldAt e 8 1 < 4) && decide (fieldAt e 10 1 < 2) && (!bit (fieldAt e 10 1) 0 || allZero e 11 1) && allZero e 24 8 && allZero e 40 24

/-- The case of R214's table that holds first; 0 when none does. -/
def State.captureCase (s : State) (e : List Byte) : Nat :=
  let n := fieldAt e 8 1
  let fmt := fieldAt e 9 1
  let pitch := fieldAt e 12 4
  let (w, h) := s.raster n
  let (cx, cy, cw, ch) := (fieldAt e 32 2, fieldAt e 34 2, fieldAt e 36 2, fieldAt e 38 2)
  let px := if fmt = 0 then 8 else 4
  if !s.io.regionActive n then 1
  else if 1 < fmt then 2
  else if fieldAt e 16 8 % 64 ≠ 0 ∨ pitch % 64 ≠ 0 ∨ pitch < cw * px then 3
  else if cw = 0 ∨ ch = 0 ∨ w < cx + cw ∨ h < cy + ch then 4
  else if bit (fieldAt e 10 1) 0 && s.io.beyond (fieldAt e 16 8) (pitch * (ch - 1) + cw * px) then 5
  else 0

/-- R214, R215: a capture buffer is accepted while its region's queue holds fewer than 4; otherwise it waits at the head of its
ring. -/
def execCaptureBuffer (ring i : Nat) (s : State) : Result :=
  .next (s.onEntry ring i 0x30 true captureFieldsOk fun e s =>
    match s.captureCase e with
    | 0 =>
      let n := fieldAt e 8 1
      if 4 ≤ (s.video.captures.filter (·.region == n)).length then s
      else
        let s := s.on (·.activate ring i e)
        (s.onVideo (fun v => { v with captures := v.captures ++
          [({ ring := ring, index := i, entry := e, region := n, frame := none, written := 0, skipped := 0, left := 0 } : CaptureBuf)] })).reportRows n
    | d => s.on (·.answer ring i e { status := 0x01, detail := d }))

/-- The lines of a capture buffer's rows are written in order, each in operations of the ISO class, up to the first that faults: the
bytes written, and that fault's kind and address (R135, R141, R216). -/
def Io.captureOps (mem : HostMem) (n : Nat) (b : CaptureBuf) : List (Nat × List Byte) → Io → Io × Nat × Option (Nat × Nat)
  | [], s => (s, 0, none)
  | (off, bs) :: t, s =>
    let dram := bit (fieldAt b.entry 10 1) 0
    let a := fieldAt b.entry 16 8 + off
    match Io.writeOps mem (.entry b.ring b.index) n 1 dram (if dram then 0 else fieldAt b.entry 11 1) (writesOf a bs) s with
    | (s, some (k, at_)) => (s, at_ - a, some (k, at_))
    | (s, none) =>
      let (s, d, f) := Io.captureOps mem n b t s
      (s, bs.length + d, f)

/-- R216, R217, R141: a capture slot writes out the FIFO rows of its block rows, of the frame of the oldest of them. A fault ends the
buffer with the bytes written in order before it, and fires event 101. -/
def State.captureSlot (s : State) (region lo hi lane : Nat) (mem : HostMem) : State :=
  let mine := s.video.fifo.filter (fun r => r.region == region && decide (lo ≤ r.row ∧ r.row ≤ hi))
  match mine with
  | [] => s
  | r :: _ =>
    let rows := mine.filter (fun x => x.frame == r.frame)
    match s.video.captures.find? (fun b => b.region == region && b.frame == some r.frame) with
    | none => s
    | some b =>
      let (io, done, f) := Io.captureOps mem region b (rows.flatMap (s.captureLines b)) s.io
      let s := { s with io := Io.settle (io.completeOwn (.entry b.ring b.index)) }
      match f with
      | some (k, a) =>
        let ctx := if bit (fieldAt b.entry 10 1) 0 then 0 else fieldAt b.entry 11 1
        let s := s.on (fun io => (Io.settle ((io.countFault).logFault region a k 1 ctx lane none true)).fireIn 101 region)
        s.endCapture b { status := 0x06, detail := k, info := b.bytes + done }
      | none =>
        let s := s.onVideo (fun v => { v with fifo := v.fifo.filter (fun r => !rows.contains r) })
        let b := { b with written := b.written + rows.length, bytes := b.bytes + done }
        ((s.setCapture b).captureDone b).reportRows region

def execHostCaptureWrite (region slot : Nat) (mem : HostMem) (s : State) : Result :=
  .next (match s.dueSlot region slot with
    | none => s
    | some sl =>
      if sl.kind ≠ 0x0C then s
      else (s.startSlot region slot true).captureSlot region (bits sl.operand 0 12) (bits sl.operand 0 12 + bits sl.operand 12 4) sl.lane mem)

/-! ### Faults (R523 to R525) -/

/-- A row's processing has failed twice in a block (R523, R524). -/
def State.rowFailed (s : State) (n block chain pos row : Nat) : Bool :=
  s.video.bad.any (fun x => x.region == n && x.block == block && x.chain == chain && x.position == pos && x.row == row && x.tick == s.io.tick && x.failed)

/-- The block of a region is stopped by a restart (R525). -/
def State.blockStopped (s : State) (n block : Nat) : Bool := s.video.stopped.any (fun x => x.1 == n && x.2.1 == block)

/-- A raster row has failed twice in the scaler or compositor cells: every block of it is held (R524). -/
def State.composeFailed (s : State) (n row : Nat) : Bool :=
  s.video.bad.any (fun x => x.region == n && decide (x.block < 2) && x.row == row && x.tick == s.io.tick && x.failed)

/-- A stopped scaler or compositor block has not written a raster row of a frame: its rows are sent as HOLD (R525). -/
def State.unwritten (s : State) (n frame row : Nat) : Bool :=
  (s.blockStopped n 0 || s.blockStopped n 1) &&
  !(s.video.handoff ++ s.video.taken).any (fun r => r.region == n && r.frame == frame && r.row == row)

/-! ### Fetch-and-compose slots -/

/-- The layers in the row plan of a running slot, in ascending Z. -/
def ComposeRun.all (run : ComposeRun) : List LayerRec := (inRegion run.plan run.region).foldl (fun l r => insertZ r l) []

/-- One block row, whose fetches have ended, is composed into a free handoff row (R206 to R213). -/
def State.composeRow (s : State) (run : ComposeRun) (row : Nat) : State :=
  let n := run.region
  let all := run.all
  let s := s.countRow run all row
  let blocks := (List.range (ceilDiv (s.raster n).1 16)).map (fun c =>
    if s.composeFailed n row then ({ held := true, values := [] } : ComposedBlock) else s.composeBlock run n all c row)
  let held := (blocks.filter (·.held)).length
  let s := s.bumpF (Fld.CMP_BLOCKS_HELD n) held
  let s := if held = 0 then s else s.on (·.fireOnce n { event := 169, region := some n })
  let cr : ComposedRow := { region := n, row := row, frame := run.frame, blocks := blocks }
  let s := (s.dropLines run row all).onVideo (fun v => { v with handoff := v.handoff ++ [cr] })
  let s := (s.setF (Fld.CMP_ROW_STAT_LAST_ROW n) row).bumpF (Fld.CMP_ROWS_COMPOSED n)
  (s.captureRow cr).reportRows n

/-- The rows of a running slot are composed in ascending order, while a handoff row is free (R213) and once the fetches of the row have
ended (R138). -/
def State.composeOn : Nat → ComposeRun → Nat → State → State
  | 0, _, _, s => s
  | k + 1, run, lane, s =>
    let park := fun (s : State) (run : ComposeRun) => s.onVideo (fun v => { v with composing := v.composing ++ [run] })
    if run.last < run.next then s
    else if 4 ≤ (s.handoffOf run.region).length then
      let s := if run.waiting then s
        else (s.bumpF (Fld.CMP_HANDOFF_WAITS run.region)).on (·.fireOnce run.region { event := 168, region := some run.region })
      park s { run with waiting := true }
    else
      let s := if run.fetched then s else s.fetchRow run lane run.next run.all
      if s.io.busy (.slot run.region run.slot) then park s { run with fetched := true, waiting := false }
      else State.composeOn k { run with next := run.next + 1, fetched := false, waiting := false } lane (s.composeRow run run.next)

/-- R206, R207, R213: a fetch-and-compose slot runs; `late`: the slot belongs to the period before (R96). `mem` is what its fetches
find outside the device. -/
def execFetchComposeSlot (region slot : Nat) (late : Bool) (mem : HostData) (inFlight : Nat) (s : State) : Result :=
  .next (match s.dueSlot region slot with
    | none => s
    | some sl =>
      if sl.kind ≠ 0x01 ∨ !s.io.operational ∨ s.video.fenced.contains region ∨ s.blockStopped region 0 ∨ s.blockStopped region 1 then s
      else
        let s := s.startSlot region slot true late
        let frame := if late then s.io.tick else s.io.tick + 1
        let lo := bits sl.operand 0 12
        let done := s.video.handoff ++ s.video.taken
        if done.any (fun r => r.region == region && r.frame == frame && r.row == lo) || s.video.composing.any (fun c => c.region == region && c.slot == slot) then s
        else
          let run : ComposeRun := { region := region, slot := slot, next := lo, last := lo + bits sl.operand 12 4, frame := frame,
                                    plan := if late then s.video.lay.before else s.video.lay.layers, mem := { mem with inFlight := inFlight }, late := late, fetched := false,
                                    waiting := false }
          State.composeOn 17 run sl.lane (s.lookAhead run run.all (lo + 1)))

/-- A running slot whose wait has ended goes on. -/
def State.resumeRun (s : State) (run : ComposeRun) : State :=
  let lane := match s.slot run.region run.slot with | some sl => sl.lane | none => 0
  State.composeOn 17 run lane (s.onVideo (fun v => { v with composing := eraseFirst (fun x => x == run) v.composing }))

/-- The slots that waited for their fetches and whose operations have ended go on (R138). -/
def State.resumeFetches (s : State) : State :=
  (s.video.composing.filter (fun run => run.fetched && !run.waiting && !s.io.busy (.slot run.region run.slot))).foldl State.resumeRun s

/-- R213: every encoder cell has taken its columns of the oldest handoff row of a region; the row frees and a waiting slot goes
on. -/
def execHandoffRowFree (region : Nat) (s : State) : Result :=
  .next (match s.handoffOf region with
    | [] => s
    | r :: _ =>
      let s := s.onVideo (fun v => { v with handoff := eraseFirst (fun x => x == r) v.handoff, taken := v.taken ++ [r] })
      let s := s.reportRows region
      match s.video.composing.find? (fun c => c.region == region && c.waiting) with
      | some run => s.resumeRun run
      | none => s)

end Sys2Proof.Machine
end

