-- ==== Sys2Proof/Machine/Kbc.lean ====
section
/-! DEFINITION. The Kermal Block Code (R222 to R239, R242): colour transform, prediction, quantisation, block modes, and the
coding and decoding of one block row. A block's codes are 384 numbers, R, G and B of each of its 128 pixels, line 0 first. -/

namespace Sys2Proof.Machine

/-- The components of one pixel (R222). -/
structure Ycc where
  y : Int
  co : Int
  cg : Int
deriving DecidableEq, Repr

/-- The transform of R222; `/` on integers rounds toward minus infinity. -/
def toYcc (r g b : Int) : Ycc :=
  let co := r - b
  let t := b + co / 2
  let cg := g - t
  { y := t + cg / 2, co := co, cg := cg }

/-- The reconstruction of R223. -/
def fromYcc (p : Ycc) : List Nat :=
  let t := p.y - p.cg / 2
  let g := p.cg + t
  let b := t - p.co / 2
  let r := b + p.co
  [(clampI 0 4095 r).toNat, (clampI 0 4095 g).toNat, (clampI 0 4095 b).toNat]

/-- A block's codes as 8 lines of 16 pixels. -/
def blockYcc (codes : List Nat) : List (List Ycc) :=
  (List.range 8).map (fun j => (List.range 16).map (fun i =>
    let k := 3 * (16 * j + i)
    toYcc (nth codes k) (nth codes (k + 1)) (nth codes (k + 2))))

/-- A block's codes from its components. -/
def blockCodes (b : List (List Ycc)) : List Nat := b.flatMap (fun l => l.flatMap fromYcc)

/-- The prediction of R232 from the left, upper and upper-left reconstructions that exist. -/
def predict (base : Int) (left up upLeft : Option Int) : Int :=
  match left, up, upLeft with
  | none, none, _ => base
  | none, some u, _ => u
  | some a, none, _ => a
  | some a, some b, none => a + b - a
  | some a, some b, some c => if max a b ≤ c then min a b else if c ≤ min a b then max a b else a + b - c

/-- One line of one component: `f` gives, from what the line carries and the prediction, the residual and the
reconstruction. -/
def codeLine (f : Int → Int → Int × Int) (base : Int) : Option Int → Option Int → List (Option Int) → List Int → List (Int × Int)
  | _, _, _, [] => []
  | left, upLeft, ups, v :: t =>
    let up := match ups with | u :: _ => u | [] => none
    let r := f v (predict base left up upLeft)
    r :: codeLine f base (some r.2) up (ups.drop 1) t

/-- The lines of one component of a block, with the reconstructed column to its left. -/
def codeLines (f : Int → Int → Int × Int) (base : Int) : List (Option Int) → Option Int → List (Option Int) → List (List Int) → List (List (Int × Int))
  | _, _, _, [] => []
  | lefts, upLeft, ups, l :: t =>
    let left := match lefts with | x :: _ => x | [] => none
    let r := codeLine f base left upLeft ups l
    r :: codeLines f base (lefts.drop 1) left (r.map (fun x => some x.2)) t

/-- Quantisation and reconstruction of R233 with shift s and limits lo and hi. -/
def quantise (s : Nat) (lo hi v pred : Int) : Int × Int :=
  let h : Int := ((2 ^ s / 2 : Nat) : Int)
  let d := v - pred
  let q := if 0 ≤ d then (d + h) / (2 ^ s : Nat) else -((h - d) / (2 ^ s : Nat))
  (q, clampI lo hi (pred + q * (2 ^ s : Nat)))

/-- The decoder's half of R233. -/
def dequantise (s : Nat) (lo hi q pred : Int) : Int × Int := (q, clampI lo hi (pred + q * (2 ^ s : Nat)))

/-- The residuals and reconstruction of a block's three components. -/
structure CodedBlock where
  q : List (List (List Int))
  recon : List (List Ycc)
deriving DecidableEq, Repr

/-- A block coded or decoded by `f` (limits and value to residual and reconstruction), with the column to its left. -/
def codeBlock (f : Int → Int → Int → Int → Int × Int) (left : Option (List Ycc)) (y co cg : List (List Int)) : CodedBlock :=
  let col := fun (g : Ycc → Int) => match left with | some l => l.map (fun p => some (g p)) | none => []
  let ly := codeLines (f 0 4095) 2048 (col Ycc.y) none [] y
  let lo := codeLines (f (-4095) 4095) 0 (col Ycc.co) none [] co
  let lg := codeLines (f (-4095) 4095) 0 (col Ycc.cg) none [] cg
  let res := fun (l : List (List (Int × Int))) => l.map (fun r => r.map (·.1))
  { q := [res ly, res lo, res lg],
    recon := (ly.zip (lo.zip lg)).map (fun t => (t.1.zip (t.2.1.zip t.2.2)).map (fun p => ({ y := p.1.2, co := p.2.1.2, cg := p.2.2.2 } : Ycc))) }

/-- A component of a block. -/
def component (g : Ycc → Int) (b : List (List Ycc)) : List (List Int) := b.map (fun l => l.map g)

/-- A block coded with shift s (R233). -/
def quantBlock (s : Nat) (left : Option (List Ycc)) (b : List (List Ycc)) : CodedBlock :=
  codeBlock (fun lo hi v p => quantise s lo hi v p) left (component Ycc.y b) (component Ycc.co b) (component Ycc.cg b)

/-- The right column of a reconstructed block. -/
def rightColumn (b : List (List Ycc)) : List Ycc := b.map (fun l => l.getLastD { y := 0, co := 0, cg := 0 })

/-! ### Bits -/

/-- The `n` bits of `v`, high bit first. -/
def bitsOf (n v : Nat) : List Bool := (List.range n).map (fun i => bit v (n - 1 - i))

/-- The value of bits, high bit first. -/
def ofBits (l : List Bool) : Nat := l.foldl (fun a b => 2 * a + flag b) 0

/-- The payload bytes of a bit string: padded with 0 bits to a 32-bit boundary, bit 7 of byte 0 first (R227). -/
def packBits (l : List Bool) : List Byte :=
  let n := ceilDiv l.length 32 * 4
  (List.range n).map (fun i => BitVec.ofNat 8 (ofBits ((List.range 8).map (fun j => l.getD (8 * i + j) false))))

/-- The bits of payload bytes. -/
def unpackBits (bs : List Byte) : List Bool := bs.flatMap (fun b => bitsOf 8 b.toNat)

/-- The mapping of residuals of R234. -/
def mapResidual (q : Int) : Nat := if 0 ≤ q then (2 * q).toNat else (-2 * q - 1).toNat

/-- Its inverse. -/
def unmapResidual (m : Nat) : Int := if m % 2 = 0 then ((m / 2 : Nat) : Int) else -(((m + 1) / 2 : Nat) : Int)

/-- The length in bits of a residual code (R234). -/
def riceLength (k m : Nat) : Nat := if m / 2 ^ k < 16 then m / 2 ^ k + 1 + k else 30

/-- A residual code (R234). -/
def riceBits (k m : Nat) : List Bool :=
  if m / 2 ^ k < 16 then List.replicate (m / 2 ^ k) true ++ [false] ++ bitsOf k (m % 2 ^ k)
  else List.replicate 16 true ++ bitsOf 14 m

/-- The length of a component's residuals with parameter k. -/
def riceTotal (k : Nat) (q : List (List Int)) : Nat := q.foldl (fun a l => l.foldl (fun a x => a + riceLength k (mapResidual x)) a) 0

/-- The Rice parameter that needs the least bits, the lower on a tie, and that number of bits (R237). -/
def bestRice (q : List (List Int)) : Nat × Nat :=
  ((List.range 13).map (· + 1)).foldl (fun b k => let n := riceTotal k q; if n < b.2 then (k, n) else b) (0, riceTotal 0 q)

/-- The residuals of a block in writing order: pixels in raster order, and for each pixel Y, Co, Cg. -/
def residualOrder (q : List (List (List Int))) : List (Nat × Int) :=
  (List.range 8).flatMap (fun j => (List.range 16).flatMap (fun i => (List.range 3).map (fun c => (c, ((q.getD c []).getD j []).getD i 0))))

/-- The fields of an INTRA block after its prefix (R229). -/
def intraBits (s : Nat) (q : List (List (List Int))) : List Bool :=
  let ks := q.map (fun c => (bestRice c).1)
  bitsOf 3 s ++ ks.flatMap (bitsOf 4) ++ (residualOrder q).flatMap (fun r => riceBits (nth ks r.1) (mapResidual r.2))

/-- The block size of INTRA in bits (R229). -/
def intraSize (q : List (List (List Int))) : Nat := 17 + (q.map (fun c => (bestRice c).2)).foldl (· + ·) 0

/-- A block in floor layout (R231). -/
def floorBits (s : Nat) (q : List (List (List Int))) : List Bool :=
  bitsOf 4 s ++ bitsOf 4 0 ++ (residualOrder q).flatMap (fun r => bitsOf 4 (unsigned 4 r.2))

/-- The floor shift: the least from `s` on with every residual from −8 to 7; 12 always satisfies it (R237). -/
def floorBlock (left : Option (List Ycc)) (b : List (List Ycc)) : Nat → Nat → Nat × CodedBlock
  | 0, s => (s, quantBlock s left b)
  | k + 1, s =>
    let c := quantBlock s left b
    if c.q.all (fun x => x.all (fun l => l.all (fun v => decide (-8 ≤ v ∧ v ≤ 7)))) then (s, c) else floorBlock left b k (s + 1)

/-- The floor row size F(nb) in bytes (R231). -/
def floorSize (nb : Nat) : Nat := ceilDiv (8 + 193 * nb) 4 * 4

/-! ### Coding a row -/

/-- Block modes (R228, R231). -/
inductive Mode where
  | skip
  | ltskip
  | dcopy
  | intra
  | raw
  | floor
deriving DecidableEq, Repr

/-- What coding a row rests on (R237, R238): the picture of REF_SLOT by block row and column, the long-term picture by column,
the switches and ranges of ENC_CFG, the slice's size, and the lines of the region band that holds the row (R33). -/
structure RowContext where
  key : Bool
  row : Nat
  nb : Nat
  height : Nat
  bandLo : Nat
  bandHi : Nat
  ref : Nat → Nat → Option (List Nat)
  lt : Nat → Option (List Nat)
  ltskip : Bool
  dcopy : Bool
  dx : Nat
  dy : Nat

/-- An input block: held, with its held picture, or its codes. `inRef`: REF_SLOT holds the block valid. -/
structure InBlock where
  held : Bool
  codes : List Nat
deriving DecidableEq, Repr

/-- The largest difference of two blocks (R237). -/
def maxDiff (a b : List Nat) : Nat := (a.zip b).foldl (fun m p => max m ((p.1 - p.2) + (p.2 - p.1))) 0

/-- The codes of the 16×8 pixels at column `x` and line `y` of the slice; none unless every block they lie in is valid. -/
def RowContext.displaced (c : RowContext) (x y : Int) : Option (List Nat) :=
  let px := fun (i j : Nat) =>
    let X := (x + i).toNat
    let Y := (y + j).toNat
    match c.ref (Y / 8) (X / 16) with
    | some b => let k := 3 * (16 * (Y % 8) + X % 16); some [nth b k, nth b (k + 1), nth b (k + 2)]
    | none => none
  ((List.range 8).flatMap (fun j => (List.range 16).map (fun i => px i j))).foldr
    (fun p acc => match p, acc with | some v, some l => some (v ++ l) | _, _ => none) (some [])

/-- A displacement meets R230: the source lies inside the slice and the row's band. -/
def RowContext.vectorOk (c : RowContext) (bx : Nat) (dx dy : Int) : Bool :=
  let x : Int := 16 * bx + dx
  let y : Int := 8 * c.row + dy
  decide (0 ≤ x ∧ x + 16 ≤ 16 * c.nb ∧ 0 ≤ y ∧ y + 8 ≤ c.height ∧ (c.bandLo : Int) ≤ y ∧ y + 8 ≤ c.bandHi)

/-- The vectors of the search in order: ascending |DX| + |DY|, then DY, then DX, within the ranges (R229, R237). -/
def searchOrder (rx ry : Nat) : List (Int × Int) :=
  ((List.range (rx + ry)).map (· + 1)).flatMap (fun d =>
    ((List.range (2 * ry + 1)).map (fun (j : Nat) => (j : Int) - ry)).flatMap (fun dy =>
      if d < dy.natAbs then []
      else
        let m : Nat := d - dy.natAbs
        (if m = 0 then [(0, dy)] else [(-(m : Int), dy), ((m : Int), dy)]).filter
          (fun v => decide (v.1.natAbs ≤ rx ∧ -64 ≤ v.1 ∧ v.1 ≤ 63 ∧ -16 ≤ v.2 ∧ v.2 ≤ 15))))

/-- first_vector of R237. -/
def RowContext.firstVector (c : RowContext) (bx tol : Nat) (codes : List Nat) : Option (Int × Int × List Nat) :=
  (searchOrder c.dx c.dy).findSome? (fun v =>
    if c.vectorOk bx v.1 v.2 then
      match c.displaced (16 * bx + v.1) (8 * c.row + v.2) with
      | some b => if maxDiff codes b ≤ tol then some (v.1, v.2, b) else none
      | none => none
    else none)

/-- A coded row: its payload bits, its blocks' reconstruction and modes, and whether every block meets R239. -/
structure CodedRow where
  payload : List Bool
  blocks : List (List Nat)
  modes : List Mode
  lossless : Bool
deriving DecidableEq, Repr

/-- One block of a row at shift s, or in floor layout (R237): its bits, codes, components, mode and whether it is exact. -/
def RowContext.codeOne (c : RowContext) (s : Option Nat) (bx : Nat) (left : Option (List Ycc)) (b : InBlock) :
    List Bool × List Nat × List (List Ycc) × Mode × Bool :=
  let src := blockYcc b.codes
  match s with
  | none =>
    let (f, cb) := floorBlock left src 12 0
    (floorBits f cb.q, blockCodes cb.recon, cb.recon, .floor, f == 0 && !b.held)
  | some s =>
    let tol := 2 ^ s / 2
    let copy := fun (p : List Bool) (codes : List Nat) (m : Mode) => (p, codes, blockYcc codes, m, decide (s = 0) && !b.held)
    let near := fun (o : Option (List Nat)) => match o with | some r => if maxDiff b.codes r ≤ tol then some r else none | none => none
    let here := if c.key then none else c.ref c.row bx
    match (if b.held then here else near here) with
    | some r => copy [false] r .skip
    | none =>
      match (if c.key || !c.ltskip then none else near (c.lt bx)) with
      | some r => copy [true, true, true, false] r .ltskip
      | none =>
        match (if c.key || !c.dcopy then none else c.firstVector bx tol b.codes) with
        | some (dx, dy, r) => copy ([true, true, false] ++ bitsOf 7 (unsigned 7 dx) ++ bitsOf 5 (unsigned 5 dy)) r .dcopy
        | none =>
          let cb := quantBlock s left src
          if intraSize cb.q ≤ 4613 then
            ([true, false] ++ intraBits s cb.q, blockCodes cb.recon, cb.recon, .intra, decide (s = 0) && !b.held)
          else ([true, true, true, true, false] ++ b.codes.flatMap (bitsOf 12), b.codes, src, .raw, !b.held)

/-- The blocks of a row from block column `bx` on (R227). -/
def RowContext.codeFrom (c : RowContext) (s : Option Nat) : Nat → Option (List Ycc) → List InBlock → CodedRow
  | _, _, [] => { payload := [], blocks := [], modes := [], lossless := true }
  | bx, left, b :: t =>
    let (bs, codes, ycc, m, ok) := c.codeOne s bx left b
    let r := c.codeFrom s (bx + 1) (some (rightColumn ycc)) t
    { payload := bs ++ r.payload, blocks := codes :: r.blocks, modes := m :: r.modes, lossless := ok && r.lossless }

/-- A row coded at a shift, or in floor layout where there is none. -/
def RowContext.codeRow (c : RowContext) (s : Option Nat) (row : List InBlock) : CodedRow := c.codeFrom s 0 none row

/-! ### Segments -/

/-- The header of a segment (R225). -/
structure SegHead where
  typ : Nat
  chain : Nat
  position : Nat
  key : Bool
  floor : Bool
  row : Nat
  tickLo : Nat
  refSlot : Nat
  dstSlot : Nat
  ltw : Bool
  domain : Nat
  rsv : Nat
  length : Nat
deriving DecidableEq, Repr

/-- The 8 bytes of a header. -/
def SegHead.bytes (h : SegHead) : List Byte :=
  leBytes 8 (h.typ % 16 + 2 ^ 4 * (h.chain % 16) + 2 ^ 8 * (h.position % 64) + 2 ^ 14 * flag h.key + 2 ^ 15 * flag h.floor
    + 2 ^ 16 * (h.row % 2 ^ 12) + 2 ^ 28 * (h.tickLo % 256) + 2 ^ 36 * (h.refSlot % 4) + 2 ^ 38 * (h.dstSlot % 4)
    + 2 ^ 40 * flag h.ltw + 2 ^ 41 * (h.domain % 2) + 2 ^ 42 * (h.rsv % 64) + 2 ^ 48 * (h.length % 2 ^ 16))

/-- A header read from a segment. -/
def readSegHead (bs : List Byte) : SegHead :=
  let w := fieldAt bs 0 8
  { typ := bits w 0 4, chain := bits w 4 4, position := bits w 8 6, key := bit w 14, floor := bit w 15, row := bits w 16 12,
    tickLo := bits w 28 8, refSlot := bits w 36 2, dstSlot := bits w 38 2, ltw := bit w 40, domain := bits w 41 1,
    rsv := bits w 42 6, length := bits w 48 16 }

/-! ### Decoding a row -/

/-- How a block decodes: its mode and components with the bits left, an error of a kind of R242, or a reference that is not
valid (R243). -/
inductive BlockRead where
  | ok (mode : Mode) (codes : List Nat) (ycc : List (List Ycc)) (rest : List Bool)
  | error (kind : Nat)
  | missing (rest : List Bool)
deriving DecidableEq, Repr

/-- The first `n` bits and the rest; none when there are fewer. -/
def takeBits (n : Nat) (l : List Bool) : Option (Nat × List Bool) :=
  if l.length < n then none else some (ofBits (l.take n), l.drop n)

/-- A unary count of ones up to 16, with the terminating 0 taken below 16. -/
def takeOnes : Nat → List Bool → Option (Nat × List Bool)
  | _, [] => none
  | 0, l => some (16, l)
  | k + 1, b :: t => if b then takeOnes k t else some (15 - k, t)

/-- One residual code (R234). -/
def takeResidual (k : Nat) (l : List Bool) : Option (Int × List Bool) :=
  match takeOnes 16 l with
  | none => none
  | some (16, t) => (takeBits 14 t).map (fun r => (unmapResidual r.1, r.2))
  | some (n, t) => (takeBits k t).map (fun r => (unmapResidual (n * 2 ^ k + r.1), r.2))

/-- `n` values read one after another. -/
def takeMany {α : Type} (f : Nat → List Bool → Option (α × List Bool)) : Nat → Nat → List Bool → Option (List α × List Bool)
  | 0, _, l => some ([], l)
  | n + 1, i, l =>
    match f i l with
    | none => none
    | some (v, t) => (takeMany f n (i + 1) t).map (fun r => (v :: r.1, r.2))

/-- Residuals in writing order as the lines of component `c`. -/
def residualLines (v : List Int) (c : Nat) : List (List Int) :=
  (List.range 8).map (fun j => (List.range 16).map (fun i => v.getD (3 * (16 * j + i) + c) 0))

/-- A block decoded from its residuals with shift s. -/
def dequantBlock (s : Nat) (left : Option (List Ycc)) (v : List Int) : CodedBlock :=
  codeBlock (fun lo hi q p => dequantise s lo hi q p) left (residualLines v 0) (residualLines v 1) (residualLines v 2)

/-- One block of a row decoded (R228 to R236, R242): kind 5 where the payload ends inside the block. -/
def RowContext.readOne (c : RowContext) (floor : Bool) (bx : Nat) (left : Option (List Ycc)) (l : List Bool) : BlockRead :=
  let copy := fun (m : Mode) (o : Option (List Nat)) (t : List Bool) =>
    if c.key then .error 3 else match o with | some b => .ok m b (blockYcc b) t | none => .missing t
  if floor then
    match takeBits 4 l with
    | none => .error 5
    | some (s, t) =>
      match takeBits 4 t with
      | none => .error 5
      | some (z, t) =>
        if 12 < s ∨ z ≠ 0 then .error 4
        else match takeMany (fun _ t => (takeBits 4 t).map (fun r => (signed 4 r.1, r.2))) 384 0 t with
          | none => .error 5
          | some (v, t) => let cb := dequantBlock s left v; .ok .floor (blockCodes cb.recon) cb.recon t
  else match l with
    | false :: t => copy .skip (c.ref c.row bx) t
    | true :: false :: t =>
      match takeBits 15 t with
      | none => .error 5
      | some (h, t) =>
        let ks := [bits h 8 4, bits h 4 4, bits h 0 4]
        if ks.any (fun k => decide (13 < k)) then .error 4
        else match takeMany (fun i t => takeResidual (nth ks (i % 3)) t) 384 0 t with
          | none => .error 5
          | some (v, t) => let cb := dequantBlock (bits h 12 3) left v; .ok .intra (blockCodes cb.recon) cb.recon t
    | true :: true :: false :: t =>
      match takeBits 12 t with
      | none => .error 5
      | some (v, t) =>
        let dx := signed 7 (v / 32)
        let dy := signed 5 (v % 32)
        if c.key then .error 3
        else if !c.vectorOk bx dx dy then .error 6
        else copy .dcopy (c.displaced (16 * bx + dx) (8 * c.row + dy)) t
    | true :: true :: true :: false :: t => copy .ltskip (c.lt bx) t
    | true :: true :: true :: true :: false :: t =>
      match takeMany (fun _ t => takeBits 12 t) 384 0 t with
      | none => .error 5
      | some (v, t) => .ok .raw v (blockYcc v) t
    | true :: true :: true :: true :: true :: _ => .error 3
    | _ => .error 5

/-- A row as decoded: the blocks reconstructed with their modes, up to the first that cannot be, and why it cannot. -/
structure ReadRow where
  blocks : List (Mode × List Nat)
  error : Option Nat
  missing : Bool
deriving DecidableEq, Repr

/-- The blocks of a row from column `bx` on; after the last one, the padding must be 0 and end the last word (R227, R242 kind
5). After a reference that is not valid, later blocks are read for the errors of R242 only (R243). -/
def RowContext.readFrom (c : RowContext) (floor : Bool) : Nat → Nat → Option (List Ycc) → List Bool → ReadRow
  | 0, _, _, l => { blocks := [], error := if 32 ≤ l.length ∨ l.any (fun b => b) then some 5 else none, missing := false }
  | n + 1, bx, left, l =>
    match c.readOne floor bx left l with
    | .ok m codes ycc t =>
      let r := c.readFrom floor n (bx + 1) (some (rightColumn ycc)) t
      { r with blocks := (m, codes) :: r.blocks }
    | .error k => { blocks := [], error := some k, missing := false }
    | .missing t =>
      let later : RowContext := { c with ref := fun _ _ => some [], lt := fun _ => some [] }
      { blocks := [], error := (later.readFrom floor n (bx + 1) none t).error, missing := true }

/-- A row decoded from its payload. -/
def RowContext.readRow (c : RowContext) (floor : Bool) (payload : List Byte) : ReadRow := c.readFrom floor c.nb 0 none (unpackBits payload)

/-! ### The comparison digest -/

/-- One bit of the reflected CRC-64 of ECMA-182 (R310). -/
def crc64Step (c : Nat) : Nat := if c % 2 = 1 then Nat.xor (c / 2) 0xC96C5795D7870F42 else c / 2

/-- The digest of a segment (R310). -/
def crc64 (bs : List Byte) : Nat :=
  Nat.xor (bs.foldl (fun c b => (List.range 8).foldl (fun c _ => crc64Step c) (Nat.xor c b.toNat)) 0xFFFFFFFFFFFFFFFF) 0xFFFFFFFFFFFFFFFF

end Sys2Proof.Machine
end

