-- ==== Sys2Proof/Machine/Keys.lean ====
section
/-! DEFINITION. The budget section (R254), the encoder's mirrors (R259 to R263), key requests and the pending key sets (R264 to
R272). -/

namespace Sys2Proof.Machine

/-- A tile entry of the budget section in one rate set (R254). -/
structure Budget where
  nb : Nat
  rows : Nat
  ovh : Nat
  keyMax : Nat
  share : Nat
  buf : Nat
  ltPeriod : Nat
  ltSmax : Nat
  rowOffset : Nat
deriving DecidableEq, Repr

/-- Entry `i` of rate set `rs` of a budget section. -/
def budgetAt (sec : List Byte) (rs i : Nat) : Budget :=
  let o := fieldAt sec (0x10 + 4 * rs) 4 + 32 * i
  { nb := fieldAt sec o 2, rows := fieldAt sec (o + 2) 2, ovh := fieldAt sec (o + 4) 2, keyMax := fieldAt sec (o + 6) 2,
    share := fieldAt sec (o + 8) 4, buf := fieldAt sec (o + 12) 4, ltPeriod := fieldAt sec (o + 16) 2,
    ltSmax := fieldAt sec (o + 18) 1, rowOffset := fieldAt sec (o + 20) 4 }

/-- The budget of a slice in the rate set in force (R254). -/
def State.budget (s : State) (e : Position) : Budget := budgetAt (s.sectOr 0x0004) s.rateSet e.budget

/-- CAP and REL of a row (R254). -/
def Budget.cap (b : Budget) (sec : List Byte) (q : Nat) : Nat := fieldAt sec (b.rowOffset + 8 * q) 4
def Budget.rel (b : Budget) (sec : List Byte) (q : Nat) : Nat := fieldAt sec (b.rowOffset + 8 * q + 4) 2

/-- FLC, the floor cost of a row (R254). -/
def Budget.flc (b : Budget) : Nat := floorSize b.nb + b.ovh

/-- Costs `c` of rows `lo` to `hi - 1`. -/
def costSum (c : List Nat) (lo hi : Nat) : Nat := ((c.take hi).drop lo).foldl (· + ·) 0

/-- R257: the limit m and the target T of row r, from the costs of rows 0 to r − 1. -/
def rowLimits (b : Budget) (sec : List Byte) (c : List Nat) (r : Nat) : Nat × Nat :=
  let done := costSum c 0 r
  let m := ((List.range (b.rows - r)).map (r + ·)).foldl (fun m q =>
    let fl := (q - r) * b.flc
    let m := min m (b.cap sec q - done - fl)
    if b.rel sec q ≤ r then min m (b.buf - costSum c (b.rel sec q) r - fl) else m) 0xFFFFFFFF
  let x := b.cap sec (b.rows - 1) - done - (b.rows - r) * b.flc
  (m, min m (b.flc + x / (b.rows - r)))

/-- The block rows of a slice. -/
def Position.rows (e : Position) : Nat := e.height / 8

/-- The band of a slice that holds a row, as its first line and one past its last (R33). -/
def Position.band (e : Position) (row : Nat) : Nat × Nat :=
  let lo := (e.bands.filter (fun b => decide (b ≤ row))).getLastD 0
  let hi := (e.bands.find? (fun b => decide (row < b))).getD e.rows
  (8 * lo, 8 * hi)

/-- Rows `first` to `last` are marked invalid in every slot and in the long-term picture (R266). -/
def Mirror.invalidate (m : Mirror) (first last : Nat) : Mirror :=
  { m with blocks := dropBlocks m.blocks (fun _ r _ => decide (first ≤ r ∧ r ≤ last)) }

/-- The reference slot of a row in the frame that lights at `j`: the most recent candidate with a valid block of the row (R262). -/
def Mirror.refSlot (m : Mirror) (j row : Nat) : Option Nat :=
  (m.candidates j).find? (fun slot => m.blocks.any (fun e => e.1 / 2 ^ 8 == slot * 2 ^ 12 + row))

/-- A row joins the pending key set under an order key; a row already there keeps the older one (R268). -/
def Mirror.addKey (m : Mirror) (order row : Nat) : Mirror :=
  if m.keys.any (·.2 == row) then m else { m with keys := m.keys ++ [(order, row)] }

/-- `l` in ascending order of key and row. -/
def insertKey (x : Nat × Nat) : List (Nat × Nat) → List (Nat × Nat)
  | [] => [x]
  | y :: t => if x.1 < y.1 ∨ (x.1 = y.1 ∧ x.2 < y.2) then x :: y :: t else y :: insertKey x t

/-- The rows that a frame keys: the first KEY_MAX of the set (R268). -/
def Mirror.keyed (m : Mirror) (keyMax : Nat) : List Nat :=
  ((m.keys.foldl (fun l k => insertKey k l) []).take keyMax).map (·.2)

/-! ### Key requests -/

/-- The payload of a key request (R265). -/
def keyPayload (pos chain : Nat) (k : KeyCause) : List Byte :=
  leBytes 8 (pos % 64 + 2 ^ 6 * (chain % 16) + 2 ^ 10 * (k.first % 2 ^ 12) + 2 ^ 22 * (k.last % 2 ^ 12) + 2 ^ 34 * (k.tick % 256)
    + 2 ^ 42 * flag k.slate + 2 ^ 43 * flag k.discard + 2 ^ 44 * flag k.reset)

/-- The slice that a chain and position name: a tile's, or the part's own section. -/
def State.sliceOf (s : State) (chain pos : Nat) : Option Position :=
  match s.plan.own with
  | some e => if e.chain = chain ∧ e.position = pos then some e else s.positionOf chain pos
  | none => s.positionOf chain pos

/-- R265: a request that the Sender does not ignore: its rows. -/
def State.keyRows (s : State) (chain pos : Nat) (pl : List Byte) : Option (Nat × Nat) :=
  let w := fieldAt pl 0 8
  let first := bits w 10 12
  let last := bits w 22 12
  match s.sliceOf chain pos with
  | some e =>
    if bits w 0 6 ≠ pos ∨ bits w 6 4 ≠ chain % 16 ∨ last < first ∨ e.rows ≤ last ∨ bits w 42 3 = 0 then none else some (first, last)
  | none => none

/-- The acceptance tick of a request that arrives at instant `t` (R266): k + 1, or k + 2 within KEY_MARGIN of tick k + 1 or in a
repeat gap that ends in it. -/
def State.acceptTick (s : State) (t : Nat) : Nat :=
  let margin := fieldAt (s.sectOr 0x0004) 8 4 * 256
  let late := s.tick.inGap || (match s.tick.next with | some n => decide (n ≤ t + margin) | none => false)
  s.io.tick + (if late then 2 else 1)

/-- A request enters a tile's mirror for its acceptance tick. -/
def State.acceptKeys (s : State) (chain pos tick first last : Nat) : State :=
  let m := s.mirror chain pos
  s.setMirror { m with requests := m.requests ++ [(tick, first, last)] }

/-- R265, R266: a key request reaches the active or solo unit; in a pair it is announced. -/
def State.keyRequest (s : State) (chain pos : Nat) (pl : List Byte) (t : Nat) : State :=
  if !s.serving then s
  else match s.keyRows chain pos pl with
    | none => s
    | some (first, last) =>
      let a := s.acceptTick t
      let s := s.acceptKeys chain pos a first last
      if s.pair = pACTIVE then s.sendPair 0x12 (leBytes 6 a ++ zeros 2 ++ sub pl 0 8) else s

/-- R265, R266, R289, R292: a KEY_REQ cell arrives at instant `t`; accepted cells are counted, duplicates excluded. -/
def execKeyRequestReceived (port : Nat) (cell : List Byte) (t : Nat) (s : State) : Result :=
  .next (match (s.on (·.at t)).acceptCell port 0x1 cell with
    | (s, some c) => (s.portBump Fld.LNK_KEYREQ_RX port).keyRequest c.chain c.position c.payload t
    | (s, none) => s)

/-- The requests of a tick are accepted (R266, R268), and a full-key cycle that starts at it invalidates every long-term picture
(R270). -/
def State.keysTick (s : State) : State :=
  let t := s.io.tick
  let start := s.video.cycle == some t
  s.onVideo (fun v => { v with mirrors := v.mirrors.map (fun m =>
    let due := m.requests.filter (fun r => decide (r.1 ≤ t))
    let m := due.foldl (fun (m : Mirror) r =>
      ((List.range (r.2.2 + 1 - r.2.1)).map (r.2.1 + ·)).foldl (fun m q => m.addKey t q) (m.invalidate r.2.1 r.2.2)) m
    let m := { m with requests := m.requests.filter (fun r => decide (t < r.1)) }
    if start then { m with blocks := dropBlocks m.blocks (fun slot _ _ => slot == 4) } else m) })

/-- Row `row` is keyed by the full-key cycle in the frame that lights at `j` (R270). -/
def State.cycleRow (s : State) (row j : Nat) : Bool :=
  match s.video.cycle with
  | some c => decide (c ≤ j ∧ j < c + 8 ∧ row % 8 = j - c)
  | none => false

/-- Every mirror, or that of every slice that satisfies `p`, starts afresh (R261, R314). -/
def State.clearMirrors (s : State) (p : Mirror → Bool) : State :=
  s.onVideo (fun v => { v with mirrors := v.mirrors.map (fun m => if p m then { m with blocks := [] } else m) })

end Sys2Proof.Machine
end

