-- ==== Sys2Proof/Machine/Encode.lean ====
section
/-! DEFINITION. Encode slots (R237, R238, R244, R256 to R270): rate control, key rows, the mirror, and the order in which segments
enter the transmit windows. -/

namespace Sys2Proof.Machine

/-- The coding of one slice for one frame, as it proceeds (R257, R268). -/
structure SliceRun where
  s : State
  m : Mirror
  costs : List Nat
  segs : List (List Byte)
  ochre : Bool
  keyRow : Bool
  hold : Bool

/-- The input blocks of row `row` of a slice (R211, R221): held blocks carry their held picture. -/
def State.inputRow (s : State) (n : Nat) (e : Position) (m : Mirror) (frame row : Nat) : List InBlock :=
  let composed := (s.video.handoff ++ s.video.taken).find? (fun r => r.region == n && r.frame == frame && r.row == row + e.y / 8)
  (List.range (e.width / 16)).map (fun c =>
    match composed with
    | some r =>
      let b := r.blocks.getD (c + e.x / 16) { held := true, values := [] }
      if b.held then { held := true, codes := match m.heldFrom frame row c with | some (_, h) => h | none => s.backgroundCodes n }
      else { held := false, codes := b.values.map s.toCode }
    | none => { held := true, codes := match m.heldFrom frame row c with | some (_, h) => h | none => s.backgroundCodes n })

/-- What coding a row of a slice rests on (R237, R262). -/
def State.rowContext (s : State) (e : Position) (m : Mirror) (ref : Option Nat) (row : Nat) (key : Bool) : RowContext :=
  let (lo, hi) := e.band row
  { key := key, row := row, nb := e.width / 16, height := e.height, bandLo := lo, bandHi := hi,
    ref := fun r c => match ref with | some slot => poolBlock m.blocks slot r c | none => none,
    lt := fun c => poolBlock m.blocks 4 row c,
    ltskip := s.isF Fld.ENC_CFG_LTSKIP_EN, dcopy := s.isF Fld.ENC_CFG_DCOPY_EN,
    dx := min 64 (s.getF Fld.ENC_CFG_DX_RANGE), dy := min 16 (s.getF Fld.ENC_CFG_DY_RANGE) }

/-- The cost of a coded row (R253). -/
def rowCost (ovh : Nat) (r : CodedRow) : Nat := 8 + (packBits r.payload).length + ovh

/-- R258: the coding that a row takes: the least shift whose cost meets the target, shift 7 within the limit, or the floor
layout (no shift). -/
def chooseRow (ctx : RowContext) (input : List InBlock) (ovh m t : Nat) : Option Nat × CodedRow :=
  match (List.range 8).findSome? (fun k => let r := ctx.codeRow (some k) input; if rowCost ovh r ≤ t then some (k, r) else none) with
  | some (k, r) => (some k, r)
  | none =>
    let r7 := ctx.codeRow (some 7) input
    if rowCost ovh r7 ≤ m then (some 7, r7) else (none, ({ ctx with key := true }).codeRow none input)

/-- A mirror's row of a slot replaced by coded blocks. -/
def Mirror.putRow (m : Mirror) (slot row : Nat) (blocks : List (List Nat)) : Mirror :=
  let kept := dropBlocks m.blocks (fun sl r _ => sl == slot && r == row)
  { m with blocks := blocks.zipIdx.foldl (fun l b => Sparse.ins l (poolKey slot row b.2) b.1) kept }

/-- A row is sent as HOLD: it is invalid in DST_SLOT and in the long-term picture (R260, R261). -/
def SliceRun.holdRow (a : SliceRun) (n : Nat) (e : Position) (b : Budget) (frame row : Nat) : SliceRun :=
  let h : SegHead := { typ := 1, chain := e.chain, position := e.position, key := false, floor := false, row := row, tickLo := frame,
                       refSlot := (frame + 3) % 4, dstSlot := frame % 4, ltw := false, domain := flag a.s.gammaRaster, rsv := 0, length := 0 }
  { a with
    s := a.s.bumpF (Fld.ENC_HOLD_SEGS n)
    m := { a.m with blocks := dropBlocks a.m.blocks (fun sl r _ => r == row && (sl == frame % 4 || sl == 4)) }
    costs := a.costs ++ [8 + b.ovh], segs := a.segs ++ [h.bytes], hold := true }

/-- The counters of a coded row (R247). -/
def State.countCoded (s : State) (n : Nat) (r : CodedRow) (ochre key : Bool) (bytes : Nat) : State :=
  let count := fun (m : Mode) => (r.modes.filter (fun x => x == m)).length
  let s := (s.bumpF (Fld.ENC_ROWS n)).on (·.addWide (Fld.ENC_BITS_LO n) (Fld.ENC_BITS_HI n) (8 * bytes))
  let s := (s.bumpF (Fld.ENC_BLK_SKIP n) (count .skip)).bumpF (Fld.ENC_BLK_LTSKIP n) (count .ltskip)
  let s := (s.bumpF (Fld.ENC_BLK_DCOPY n) (count .dcopy)).bumpF (Fld.ENC_BLK_INTRA n) (count .intra)
  let s := (s.bumpF (Fld.ENC_BLK_RAW n) (count .raw)).bumpF (Fld.ENC_BLK_FLOOR n) (count .floor)
  let s := if ochre then s.bumpF (Fld.ENC_OCHRE_ROWS n) else if key then s.bumpF (Fld.ENC_KEY_ROWS n) else s
  if r.lossless then s.bumpF (Fld.ENC_ROWS_LOSSLESS n) else s

/-- A row is coded under R257 and R258, as a key row or an inter row. -/
def SliceRun.codeRow (a : SliceRun) (n : Nat) (e : Position) (b : Budget) (frame row : Nat) (key : Bool) : SliceRun :=
  let (m, t) := rowLimits b (a.s.sectOr 0x0004) a.costs row
  let ref := if key then none else a.m.refSlot frame row
  let ctx := a.s.rowContext e a.m ref row key
  let (shift, r) := chooseRow ctx (a.s.inputRow n e a.m frame row) b.ovh m t
  let ochre := shift.isNone
  let isKey := key || ochre
  let ltw := match shift with
    | some k => decide (k ≤ b.ltSmax) && (key || (decide (b.ltPeriod ≠ 0) && decide ((frame + row) % b.ltPeriod = 0)))
    | none => false
  let payload := packBits r.payload
  let h : SegHead := { typ := 0, chain := e.chain, position := e.position, key := isKey, floor := ochre, row := row, tickLo := frame,
                       refSlot := if isKey then (frame + 3) % 4 else ref.getD ((frame + 3) % 4), dstSlot := frame % 4, ltw := ltw,
                       domain := flag a.s.gammaRaster, rsv := 0, length := payload.length / 4 }
  let mir := a.m.putRow (frame % 4) row r.blocks
  let mir := if ltw then
      (r.blocks.zip r.modes).zipIdx.foldl (fun (x : Mirror) p =>
        if p.1.2 = .ltskip then x
        else { x with blocks := Sparse.ins (Sparse.erase x.blocks (poolKey 4 row p.2)) (poolKey 4 row p.2) p.1.1 }) mir
    else mir
  { a with
    s := a.s.countCoded n r ochre key payload.length
    m := { mir with keys := if isKey then mir.keys.filter (·.2 != row) else mir.keys }
    costs := a.costs ++ [8 + payload.length + b.ovh], segs := a.segs ++ [h.bytes ++ payload]
    ochre := a.ochre || ochre, keyRow := a.keyRow || (key && !ochre) }

/-- R268: all rows of a slice for the frame that lights at `frame`; every row is held while `allHold`. -/
def State.codeSlice (s : State) (n : Nat) (e : Position) (frame : Nat) (allHold : Bool) : SliceRun :=
  let b := s.budget e
  let m := s.mirror e.chain e.position
  let rows := List.range e.rows
  let m := if allHold then m
    else rows.foldl (fun (m : Mirror) r => if !s.cycleRow r frame && (m.refSlot frame r).isNone then m.addKey (frame - 1) r else m) m
  let keyed := m.keyed b.keyMax
  let start : SliceRun := { s := s, m := { m with slotTick := setNth m.slotTick (frame % 4) (some frame) }, costs := [], segs := [],
                            ochre := false, keyRow := false, hold := false }
  let run := rows.foldl (fun (a : SliceRun) r =>
    if allHold || s.rowFailed n 2 e.chain e.position r || s.unwritten n frame (r + e.y / 8) then a.holdRow n e b frame r
    else if s.cycleRow r frame || keyed.contains r then a.codeRow n e b frame r true
    else if (a.m.refSlot frame r).isNone then a.holdRow n e b frame r
    else a.codeRow n e b frame r false) start
  run

/-! ### Segments leave -/

/-- A segment that this unit expects to see come back on a compared port (R310, R311). -/
def State.expectSegment (s : State) (seg : List Byte) (frame : Nat) : State :=
  if !s.paired ∨ s.pair < pJOINING then s
  else
    let h := readSegHead seg
    s.onPair (fun u => { u with expect := u.expect ++
      [({ chain := h.chain, position := h.position, row := h.row, tick := frame, digest := crc64 seg, outcome := none } : Expect)] })

/-- The encode slots of a chain in region `n`'s table, in order (R244). -/
def State.encodeSlots (s : State) (n chain : Nat) : List Nat :=
  (((s.rset s.rateSet).tables.getD n []).zipIdx.filter (fun x => x.1.kind == 0x02 && bits x.1.operand 6 4 == chain)).map (·.2)

/-- Coded segments enter their chain's windows once every earlier encode slot of the chain has run (R244). -/
def State.flushChain (s : State) (n chain : Nat) : State :=
  let ready := (s.encodeSlots n chain).takeWhile (fun i => s.video.encoded.contains (n, i))
  ready.foldl (fun s i =>
    match s.video.segments.find? (fun x => x.region == n && x.slot == i) with
    | none => s
    | some x =>
      let s := s.onVideo (fun v => { v with segments := v.segments.filter (fun y => !(y.region == n && y.slot == i)) })
      let p := s.port chain
      s.setPort chain { p with video := p.video ++ x.packets, videoLeft := p.videoLeft - x.packets.length }) s

/-- A segment that has missed its last transmit window is cut (R95). -/
def State.cutSegments (s : State) (n slot k : Nat) : State :=
  (List.range k).foldl (fun s _ => s.on (fun io => (io.bumpF (Fld.TCK_CUT_COUNT n)).fireObj 40 (some n) 0 (leBytes 2 slot))) s

/-- The segments of a slice for a frame leave: on the on-die path for the part's own section (R22), else toward their windows;
`late`: their windows have passed. -/
def State.sendSegments (s : State) (n slot : Nat) (e : Position) (own : Bool) (frame : Nat) (late : Bool) (segs : List (List Byte)) : State :=
  if own then segs.foldl (fun s g => s.on (·.emit (.ownSegment g))) s
  else
    let s := segs.foldl (fun s g => s.expectSegment g frame) s
    if !s.transmits e.chain then s
    else if late then s.cutSegments n slot segs.length
    else
      let packets := segs.map (fun g => packetBytes 0x01 false e.chain e.position g)
      (s.onVideo (fun v => { v with segments := v.segments ++ [({ region := n, slot := slot, chain := e.chain, packets := packets } : SlotSegments)] })).flushChain n e.chain

/-- The events of a coded slice (R250): once per tile per period, naming the tile. -/
def State.sliceEvents (s : State) (n : Nat) (e : Position) (r : SliceRun) : State :=
  let obj := objTile e.chain e.position
  let ev := fun (s : State) (on : Bool) (k : Nat) => if on then s.on (·.fireOnce obj { event := k, region := some n, obj := obj }) else s
  ev (ev (ev s r.ochre 192) r.keyRow 193) r.hold 194

/-- The memory traffic of a coded slice: the references are read and the reconstruction is written (R134, R256). -/
def State.sliceOps (s : State) (n slot : Nat) (e : Position) (allHold : Bool) : State :=
  let lane := match s.slot n slot with | some sl => sl.lane | none => 0
  let k := if allHold then 0 else e.width / 16 * e.rows * blockBytes
  (s.cellOps n lane 0x000D n false k).cellOps n lane 0x000D n true k

/-- One slice is coded and sent for a frame. -/
def State.encodeSlice (s : State) (n slot : Nat) (e : Position) (own : Bool) (frame : Nat) (late allHold : Bool) : State × List (List Byte) :=
  let r := s.codeSlice n e frame allHold
  let s := (r.s.setMirror r.m).sliceEvents n e r
  let s := s.sliceOps n slot e allHold
  let s := s.onVideo (fun v => { v with encoded := if late then v.encoded else (n, slot) :: v.encoded })
  (s.sendSegments n slot e own frame late r.segs, r.segs)

/-- The encoders' part of a numbered tick: segments whose windows have passed are cut, and the slots of the new period are listed
(R95, R284). -/
def State.encodeTick (s : State) : State :=
  let s := (List.range 16).foldl (fun s p =>
    let pt := s.port p
    let k := pt.video.length
    let s := if k = 0 then s else s.cutSegments (p / 4) (s.lastWindow (p / 4) (25 + p % 4)) k
    let listed := ((s.encodeSlots (p / 4) p).filterMap (fun i => (s.slot (p / 4) i).bind (fun sl => s.positionOf p (bits sl.operand 0 6)))).foldl (fun a e => a + e.rows) 0
    s.setPort p { pt with video := [], carried := [], videoLeft := if s.video.fenced.contains (p / 4) then 0 else listed }) s
  s.onVideo (fun v => { v with
    encoded := [], segments := [], taken := v.taken.filter (fun r => decide (s.io.tick ≤ r.frame)),
    bad := v.bad.filter (fun x => decide (s.io.tick ≤ x.tick + 1)),
    faulted := v.faulted.filter (fun f => decide (s.io.tick ≤ f.2)) })

end Sys2Proof.Machine
end

