-- ==== Sys2Proof/Machine/Decoder.lean ====
section
/-! DEFINITION. Decoders (R240 to R243, R252, R259 to R265, R272): kept segments, decode slots, cutoffs, cascaded inputs and the
posting of key requests. Stream 0 is the part's own slice; stream 1 + p is the cascaded input on port p. -/

namespace Sys2Proof.Machine

/-- The slice that a stream carries: the tile's by its address (R240), a Combined part's own section (R22), or the modelled
slice of a cascaded input (R245, R272). -/
def State.streamSlice (s : State) (st : Nat) : Option Position :=
  match st with
  | 0 =>
    if s.io.isTile then
      (if s.isF Fld.CTL_TILE_ADDR_VALID then s.positionOf (s.getF Fld.CTL_TILE_ADDR_CHAIN) (s.getF Fld.CTL_TILE_ADDR_POSITION) else none)
    else s.plan.own
  | p + 1 => (s.cascadePort p).map (fun c => { chain := c.chain, position := c.position, cls := 0, x := 0, y := 0, width := c.width,
                                               height := c.height, budget := c.budget })

/-- A stream's decoder. -/
def State.decoder (s : State) (st : Nat) : Decoder := (s.video.decoders.find? (·.stream == st)).getD { stream := st }

/-- A stream's decoder replaced. -/
def State.setDecoder (s : State) (d : Decoder) : State :=
  s.onVideo (fun v => { v with decoders := d :: v.decoders.filter (·.stream != d.stream) })

/-- The first block row and the count of rows that a slot decodes for a stream (R562). -/
def Slot.decodes (sl : Slot) (st n : Nat) : Option (Nat × Nat) :=
  if sl.kind = 0x04 ∧ st = 0 then some (bits sl.operand 0 12, bits sl.operand 12 4 + 1)
  else if sl.kind = 0x0E ∧ st = 4 * n + bits sl.operand 12 2 + 1 then some (bits sl.operand 0 12, bits sl.operand 14 2 + 1)
  else none

/-- A slot covers a row of a stream. -/
def Slot.covers (sl : Slot) (st n row : Nat) : Bool :=
  match sl.decodes st n with
  | some (lo, k) => decide (lo ≤ row ∧ row < lo + k)
  | none => false

/-- The region whose decoder cells decode a row (R33, R245): the one whose slots cover it. -/
def State.decodeRegion (s : State) (st row : Nat) : Nat :=
  ([0, 1, 2, 3].find? (fun n => ((s.rset s.rateSet).tables.getD n []).any (fun sl => sl.covers st n row))).getD (if st = 0 then 0 else (st - 1) / 4)

/-- The coding domain that a stream's headers must carry (R248). -/
def State.streamDomain (s : State) (st : Nat) : Nat :=
  match st with
  | 0 => s.getF Fld.DEC_CFG_DOMAIN
  | p + 1 => flag (bit (s.getF Fld.DEC_CASCADE_DOMAIN_PORT) p)

/-- A row of a frame is accepted or resolved. -/
def Decoder.settled (d : Decoder) (frame row : Nat) : Bool := d.accepted.contains (frame, row) || d.resolved.contains (frame, row)

/-- The frame that a segment's TICK_LO names for a decoder (R240): the next one to light, or the one of this tick while its row
is unresolved and not yet shown. A cascaded input counts its frames by TICK_LO (log 25). -/
def State.frameOf (s : State) (st : Nat) (tickLo row : Nat) : Option Nat :=
  let d := s.decoder st
  let t := s.io.tick
  match st with
  | 0 =>
    if (t + 1) % 256 = tickLo then some (t + 1)
    else if t % 256 = tickLo ∧ s.video.synced < t ∧ !d.resolved.contains (t, row) then some t
    else none
  | _ =>
    match d.frame with
    | some f => if f % 256 = tickLo then some f else none
    | none => some (d.ended + 1 + (tickLo + 256 - (d.ended + 1) % 256) % 256)

/-- Two sets of causes in one (R264). -/
def KeyCause.join (a b : KeyCause) : KeyCause :=
  { first := min a.first b.first, last := max a.last b.last, tick := min a.tick b.tick, slate := a.slate || b.slate,
    discard := a.discard || b.discard, reset := a.reset || b.reset }

/-- Causes added to those that no posted request carries. -/
def Decoder.add (d : Decoder) (k : KeyCause) : Decoder :=
  { d with cause := some (match d.cause with | some c => c.join k | none => k) }

/-- A cause in one row. -/
def rowCause (row frame : Nat) (slate : Bool) : KeyCause :=
  { first := row, last := row, tick := frame, slate := slate, discard := !slate, reset := false }

/-- A kept segment is discarded (R240, R252); its row, limited to the slice, is a cause (log 29). -/
def State.discardSegment (s : State) (st n : Nat) (e : Position) (row : Nat) : State :=
  let s := (s.bumpF (Fld.DEC_SEG_DISCARDED n)).on (fun io => (io.fireOnce n { event := 226, region := some n }).pulse 11)
  let d := s.decoder st
  let frame := if st = 0 then s.io.tick + 1 else d.frame.getD (d.ended + 1)
  s.setDecoder (d.add (rowCause (min row (e.rows - 1)) frame false))

/-- An error of R242 reaches its final outcome. -/
def State.segError (s : State) (n kind row tickLo : Nat) : State :=
  let s := s.bumpF (Fld.DEC_SEG_ERRORS n)
  let s := ((s.setF (Fld.DEC_LAST_ERR_KIND n) kind).setF (Fld.DEC_LAST_ERR_ROW n) row).setF (Fld.DEC_LAST_ERR_TICK_LO n) tickLo
  s.on (fun io => (io.fireIn 224 n).pulse 11)

/-- The kind of a header's error (R226, R242), if any, for a segment of `len` bytes. -/
def SegHead.error (h : SegHead) (rows domain len : Nat) : Option Nat :=
  if 1 < h.typ then some 1
  else if h.rsv ≠ 0 ∨ h.domain ≠ domain ∨ (rows ≤ h.row ∧ ¬ (h.typ = 1 ∧ h.row = 0xFFF)) ∨ (!h.key ∧ h.refSlot = h.dstSlot)
    ∨ 8 + 4 * h.length ≠ len ∨ (h.typ = 1 ∧ h.length ≠ 0) ∨ (!h.key ∧ h.floor) then some 2
  else none

/-- The blocks of a row of `nb` block columns that the display buffer shows in Slate are flagged stale (R243): all but those in `good`. -/
def Decoder.flag (d : Decoder) (row nb : Nat) (good : List Nat) : Decoder :=
  let bad := (List.range nb).filter (fun c => !good.contains c)
  { d with stale := bad.map (row * 2 ^ 8 + ·) ++ d.stale.filter (· / 2 ^ 8 != row) }

/-- A row is shown wholly or partly in Slate (R243, R261): counted, and its row of the long-term picture is invalid. The blocks in `good` of its
`nb` block columns are not flagged stale. -/
def State.slateRow (s : State) (st n row nb : Nat) (good : List Nat) : State :=
  let d := s.decoder st
  (s.bumpF (Fld.DEC_SLATE_ROWS n)).setDecoder { d.flag row nb good with pool := dropBlocks d.pool (fun sl r _ => sl == 4 && r == row) }

/-- A row of a frame is resolved: it needs no more of its segment. -/
def State.resolve (s : State) (st frame row : Nat) : State :=
  let d := s.decoder st
  s.setDecoder { d with resolved := (frame, row) :: d.resolved, kept := d.kept.filter (fun k => !(k.tick == frame && k.row == row)) }

/-! ### Key requests of a decoder -/

/-- A cascaded input's request leaves in a cell of its own (R272, R289). -/
def State.cascadeCell (s : State) (st : Nat) (pl : List Byte) : State :=
  match s.cascadePort (st - 1) with
  | none => s
  | some c =>
    let d := s.decoder st
    (s.setDecoder { d with seq := (d.seq + 1) % 256, cells := d.cells ++ [(d.seq, s.io.tick, 0, pl)] }).on
      (fun io => (io.emit (.cell (st - 1) (cellBytes 0x1 c.chain c.position d.seq pl))).pulse 12)

/-- R264, R265: a request with its causes is posted for the frame that lights at `frame`. -/
def State.postKeys (s : State) (st : Nat) (e : Position) (frame : Nat) (k : KeyCause) : State :=
  let pl := keyPayload e.position e.chain k
  let s := s.on (·.pulse 13)
  let d := s.decoder st
  let d := { d with cause := none, fresh := false, lastPost := some frame }
  if st ≠ 0 then (s.setDecoder { d with posted := d.posted ++ [(pl, k)] }).cascadeCell st pl
  else if s.io.isTile then (s.setDecoder { d with posted := d.posted ++ [(pl, k)] }).queueReturn 0x1 pl
  else (s.setDecoder d).keyRequest e.chain e.position pl s.io.now

/-- The end of a stream's last decode slot of a frame (R264): all rows of the frame are resolved, and a request goes when there
is a cause and eight ticks have passed. -/
def State.frameEnd (s : State) (st : Nat) (e : Position) (frame : Nat) : State :=
  let d := s.decoder st
  if frame ≤ d.ended ∨ ¬ (List.range e.rows).all (fun r => d.resolved.contains (frame, r)) then s
  else
    let d := { d with ended := if st = 0 then frame else d.ended }
    let s := s.setDecoder d
    let ready := match d.lastPost with | some j => decide (j + 8 ≤ frame) | none => true
    if !s.io.operational || !ready then s
    else
      let reset : KeyCause := { first := 0, last := e.rows - 1, tick := frame, slate := false, discard := false, reset := true }
      match d.fresh, d.cause with
      | true, some k => s.postKeys st e frame (reset.join k)
      | true, none => s.postKeys st e frame reset
      | false, some k => s.postKeys st e frame k
      | false, none => s

/-! ### Segments arrive -/

/-- A HOLD segment is accepted (R243, R251, R260, R261). -/
def State.holdAccepted (s : State) (st n : Nat) (e : Position) (h : SegHead) (frame : Nat) : State :=
  let s := s.bumpF (Fld.DEC_HOLDS n)
  let s := (s.setF (Fld.DEC_LAST_HOLD_ROW n) h.row).setF (Fld.DEC_LAST_HOLD_TICK_LO n) h.tickLo
  let s := s.on (·.fireOnce n { event := 227, region := some n })
  let d := s.decoder st
  if h.row = 0xFFF then
    let s := s.setDecoder { d with pool := [] }
    let open_ := (List.range e.rows).filter (fun r => !d.resolved.contains (frame, r))
    (open_.foldl (fun s r => ((s.slateRow st (s.decodeRegion st r) r (e.width / 16) []).resolve st frame r)) s).frameEnd st e frame
  else
    let s := s.setDecoder { d with pool := dropBlocks d.pool (fun sl r _ => sl == h.dstSlot && r == h.row) }
    (((s.slateRow st n h.row (e.width / 16) []).resolve st frame h.row)).frameEnd st e frame

/-- The bytes of the segments that a decoder holds (R252). -/
def Decoder.held (d : Decoder) : Nat := (d.kept.map (fun k => k.bytes.length)).foldl (· + ·) 0

/-- R240, R242, R252: a segment addressed to a stream is kept, or kept and discarded. A kept one crosses to the receive buffer of its
region's decoder cells in the RT class (R33, R134). -/
def State.keepSegment (s : State) (st : Nat) (seg : List Byte) (ok : Bool) : State :=
  match s.streamSlice st with
  | none => s
  | some e =>
    let h := readSegHead seg
    let n := s.decodeRegion st h.row
    let s := (s.bumpF (Fld.DEC_SEG_KEPT n)).on (·.pulse 10)
    if !ok then s.discardSegment st n e h.row
    else match h.error e.rows (s.streamDomain st) seg.length with
      | some k => s.segError n k h.row h.tickLo
      | none =>
        match s.frameOf st h.tickLo h.row with
        | none => s.discardSegment st n e h.row
        | some frame =>
          let d := s.decoder st
          let d := if st = 0 then d else { d with frame := some frame }
          if d.settled frame h.row then s.discardSegment st n e h.row
          else if h.typ = 1 then (s.setDecoder d).holdAccepted st n e h frame
          else if 2 * (s.budget e).buf < d.held + seg.length then s.discardSegment st n e h.row
          else (s.setDecoder { d with accepted := (frame, h.row) :: d.accepted, kept := d.kept ++ [{ tick := frame, row := h.row, bytes := seg }] }).cellOps
            n 0 0x000A st true seg.length

/-- A standby digests a segment that comes in on a compared port, whose chain is `p` (R310, R311). -/
def State.seenSegment (s : State) (p : Nat) (pl : List Byte) (ok aborted : Bool) : State :=
  let h := readSegHead pl
  s.onPair (fun u => { u with early := u.early ++ [({ chain := p, position := h.position, row := h.row, tickLo := h.tickLo,
                                                      digest := crc64 pl, aborted := aborted, bad := !aborted && !ok } : Seen)] })

/-- R240, R285, R310: a SEGMENT packet comes in on a port: at a tile, on a cascaded input, or on a port that a standby
compares. `aborted`: the burst ended inside it (R284), and what came of it is all there is. -/
def State.segmentReceived (s : State) (port : Nat) (packet : List Byte) (aborted : Bool) : State :=
    let h := match readPacket packet with | .packet h _ _ => some h | .badHeader => none
    if aborted then
      (match h with
       | some h => if s.io.hasHost && h.ptype == 1 && decide (pJOINING ≤ s.pair) && s.isOutput port && !s.transmits port
                   then s.seenSegment port (packet.drop 12) false true else s
       | none => s)
    else match s.takePacket port packet with
      | (s, none) =>
        if s.io.hasHost && decide (pJOINING ≤ s.pair) && h.isNone
        then s.excusePort port else s
      | (s, some (h, pl, ok)) =>
        if h.ptype ≠ 1 then s
        else if s.io.isTile then (if s.keeps h && !h.bcast then s.keepSegment 0 pl ok else s)
        else match s.cascadePort port with
          | some c => if c.chain = h.chain ∧ c.position = h.position then s.keepSegment (port + 1) pl ok else s
          | none =>
            if decide (pJOINING ≤ s.pair) && s.isOutput port && !s.transmits port then s.seenSegment port pl ok false else s

/-! ### Rows are decoded -/

/-- A row's decode has failed twice in the decoder (R523, R524). -/
def State.decodeFailed (s : State) (n : Nat) (e : Position) (row frame : Nat) : Bool :=
  s.video.bad.any (fun x => x.region == n && x.block == 3 && x.chain == e.chain && x.position == e.position && x.row == row
    && x.tick + 1 == frame && x.failed)

/-- The region band of a row in which DCOPY may read (R33, R230), as a row context of the decoder. -/
def State.readContext (e : Position) (d : Decoder) (h : SegHead) : RowContext :=
  let (lo, hi) := e.band h.row
  { key := h.key, row := h.row, nb := e.width / 16, height := e.height, bandLo := lo, bandHi := hi,
    ref := fun r c => poolBlock d.pool h.refSlot r c, lt := fun c => poolBlock d.pool 4 h.row c,
    ltskip := true, dcopy := true, dx := 64, dy := 16 }

/-- Decoded blocks enter the pool, the long-term picture and the display buffer (R235, R243, R260, R263). -/
def Decoder.store (d : Decoder) (h : SegHead) (blocks : List (Mode × List Nat)) : Decoder :=
  let pool := dropBlocks d.pool (fun sl r _ => sl == h.dstSlot && r == h.row)
  blocks.zipIdx.foldl (fun d b =>
    let d := { d with pool := Sparse.ins d.pool (poolKey h.dstSlot h.row b.2) b.1.2,
                      display := Sparse.ins (Sparse.erase d.display (h.row * 2 ^ 8 + b.2)) (h.row * 2 ^ 8 + b.2) b.1.2 }
    if h.ltw && decide (b.1.1 ≠ .ltskip) then { d with pool := Sparse.ins (Sparse.erase d.pool (poolKey 4 h.row b.2)) (poolKey 4 h.row b.2) b.1.2 } else d)
    { d with pool := pool }

/-- The memory traffic of a decoded row: the segment, its references, and the row in the pool and the display buffer, or in the
frame buffer of a cascaded input (R134, R173, R225). -/
def State.rowOps (s : State) (st n lane : Nat) (e : Position) (len : Nat) : State :=
  let k := e.width / 16 * blockBytes
  let s := ((s.cellOps n lane 0x000A st false len).cellOps n lane 0x000B st false k).cellOps n lane 0x000B st true k
  if st = 0 then s else s.cellOps n lane 0x000C (st - 1) true k

/-- R242, R243, R260: one kept segment is decoded. -/
def State.decodeSegment (s : State) (st n lane : Nat) (e : Position) (k : KeptSegment) : State :=
  let s := s.rowOps st n lane e k.bytes.length
  let d := s.decoder st
  let h := readSegHead k.bytes
  let r := (State.readContext e d h).readRow h.floor (k.bytes.drop 8)
  let failed := s.decodeFailed n e k.row k.tick
  let blocks := if failed || r.error == some 5 then [] else r.blocks
  let s := s.setDecoder (d.store h blocks)
  let s := match failed, r.error with
    | false, some kind => s.segError n kind h.row h.tickLo
    | _, _ => s
  let s := if !failed && r.missing then (s.bumpF (Fld.DEC_REF_MISSING n)).on (·.fireOnce n { event := 228, region := some n }) else s
  let s :=
    if failed || r.error.isSome || r.missing then
      let s := s.slateRow st n h.row (e.width / 16) (List.range blocks.length)
      s.setDecoder ((s.decoder st).add (rowCause h.row k.tick true))
    else (s.bumpF (Fld.DEC_ROWS n)).setDecoder ((s.decoder st).flag h.row 0 [])
  (s.resolve st k.tick h.row).frameEnd st e k.tick

/-- The kept segments of a slot's rows are decoded, oldest frame first. -/
def State.decodeRows (s : State) (st n lane lo k : Nat) : State :=
  match s.streamSlice st with
  | none => s
  | some e =>
    ((s.decoder st).kept.filter (fun x => decide (lo ≤ x.row ∧ x.row < lo + k))).foldl (fun s x => s.decodeSegment st n lane e x) s

/-- R242, R243, R245: a decode slot of region `region` runs. -/
def execDecodeSlot (region slot : Nat) (s : State) : Result :=
  .next (match s.dueSlot region slot with
    | none => s
    | some sl =>
      match sl.decodes 0 region with
      | none => s
      | some (lo, k) =>
        if s.video.fenced.contains region || s.blockStopped region 3 then s
        else (s.startSlot region slot true).decodeRows 0 region sl.lane lo k)

/-- R245: a cascaded-input decode slot runs. -/
def execCascadedInputDecode (region slot : Nat) (s : State) : Result :=
  .next (match s.dueSlot region slot with
    | none => s
    | some sl =>
      let st := 4 * region + bits sl.operand 12 2 + 1
      match sl.decodes st region with
      | none => s
      | some (lo, k) =>
        if sl.kind ≠ 0x0E ∨ s.video.fenced.contains region || s.blockStopped region 3 then s
        else (s.startSlot region slot true).decodeRows st region sl.lane lo k)

/-- R241: a row of a stream is not complete at its cutoff. -/
def State.lateRow (s : State) (st n : Nat) (e : Position) (frame row : Nat) : State :=
  let d := s.decoder st
  if d.settled frame row then s
  else
    let s := (s.bumpF (Fld.DEC_LATE_ROWS n)).on (·.fireOnce n { event := 225, region := some n })
    let s := s.setDecoder { d with pool := dropBlocks d.pool (fun sl r _ => sl == frame % 4 && r == row) }
    let s := s.slateRow st n row (e.width / 16) []
    let s := s.setDecoder ((s.decoder st).add (rowCause row frame true))
    (s.resolve st frame row).frameEnd st e frame

/-- R241: the cutoff of row `row`, which slot `slot` of a region covers; `late`: the slot belongs to the period before. -/
def execRowCutoff (region slot row : Nat) (late : Bool) (s : State) : Result :=
  .next (match s.slot region slot with
    | none => s
    | some sl =>
      let st := if sl.kind = 0x0E then 4 * region + bits sl.operand 12 2 + 1 else 0
      match s.streamSlice st with
      | none => s
      | some e =>
        if !sl.covers st region row || decide (e.rows ≤ row) then s
        else
          let frame := if st = 0 then (if late then s.io.tick else s.io.tick + 1)
                       else let d := s.decoder st; d.frame.getD (d.ended + 1)
          s.lateRow st region e frame row)

/-! ### Cascaded frames -/

/-- R173: the input frame on a port is complete: it enters a buffer that is neither in use, nor pinned, nor the newest, and may be
pinned from then on. -/
def execCascadeFrameComplete (port t : Nat) (s : State) : Result :=
  .next (
    let st := port + 1
    let d := s.decoder st
    match s.streamSlice st, d.frame with
    | some e, some f =>
      if !(List.range e.rows).all (fun r => d.resolved.contains (f, r)) then s
      else
        let s := s.on (·.at t)
        let c := s.cascadeIn port
        let newest := c.frames.foldl (fun m (x : CascadeFrame) => max m x.number) 0
        let keep := c.frames.filter (fun x => c.inUse == some x.number || c.pinned == some x.number || x.number == newest)
        let rest := c.frames.filter (fun x => !(c.inUse == some x.number || c.pinned == some x.number || x.number == newest))
        let frames := keep ++ (if 3 < c.frames.length then rest.drop 1 else rest) ++ [({ number := f, done := some s.io.now, blocks := d.display } : CascadeFrame)]
        (s.setCascade { c with frames := frames }).setDecoder
          { d with frame := none, ended := f, accepted := d.accepted.filter (fun x => decide (f < x.1)), resolved := d.resolved.filter (fun x => decide (f < x.1)) }
    | _, _ => s)

/-! ### Acknowledgements -/

/-- Requests that the link still carries keep their causes; an acknowledged request clears the causes it carried (R264). -/
def Decoder.acked (d : Decoder) (live : List (List Byte)) : Decoder := { d with posted := d.posted.filter (fun p => live.contains p.1) }

/-- A request given up by the link returns its causes (R264). -/
def Decoder.gaveUp (d : Decoder) (live : List (List Byte)) : Decoder :=
  (d.posted.filter (fun p => !live.contains p.1)).foldl (fun d p => d.add p.2) (d.acked live)

/-- The payloads of key requests that a tile's return direction still carries. -/
def State.liveRequests (s : State) : List (List Byte) :=
  ((s.link.outstanding ++ s.link.waiting).filter (fun q => q.ptype == 0x1)).map (·.payload)

/-- R264, R292: an ACK packet arrives at a tile, or on the port of a cascaded input. -/
def execAckReceived (port : Nat) (packet : List Byte) (s : State) : Result :=
  .next (
    if s.io.isTile then
      let s := s.ackReceived port packet
      s.setDecoder ((s.decoder 0).acked s.liveRequests)
    else match s.cascadePort port, s.takePacket port packet with
      | some c, (s, some (h, pl, true)) =>
        if h.ptype ≠ 3 then s
        else
          let d := s.decoder (port + 1)
          let words := (List.range (pl.length / 4)).map (fun i => fieldAt pl (4 * i) 4)
          let cells := d.cells.filter (fun x => !words.any (fun w => decide (bits w 0 4 = c.chain ∧ bits w 4 6 = c.position ∧ bits w 10 8 = x.1)))
          let d := { d with cells := cells }
          s.setDecoder (d.acked (cells.map (·.2.2.2)))
      | _, (s, _) => s)

/-- R264, R272, R292: a return packet of a tile (stream 0), or a request cell of a cascaded input, has had no acknowledgement for
ACK_TIMEOUT ticks. -/
def execReturnAckTimeout (stream seq : Nat) (s : State) : Result :=
  .next (
    if stream = 0 then
      let s := s.returnTimeout seq
      s.setDecoder ((s.decoder 0).gaveUp s.liveRequests)
    else
      let d := s.decoder stream
      match d.cells.find? (fun x => x.1 == seq), s.cascadePort (stream - 1) with
      | some (q, sent, k, pl), some c =>
        if s.io.tick < sent + max 1 (s.getF Fld.LNK_CFG_ACK_TIMEOUT) then s
        else if k < s.getF Fld.LNK_CFG_RETRY_MAX then
          let cells := d.cells.map (fun x => if x.1 == q then (q, s.io.tick, k + 1, pl) else x)
          (s.setDecoder { d with cells := cells }).on (fun io => (io.emit (.cell (stream - 1) (cellBytes 0x1 c.chain c.position q pl))).pulse 12)
        else
          let cells := d.cells.filter (fun x => x.1 != q)
          let d := { d with cells := cells }
          (s.setDecoder (d.gaveUp (cells.map (·.2.2.2)))).on
            (fun io => (io.bumpF Fld.LNK_RET_GIVEUP).fireObj 263 (some ((stream - 1) / 4)) ((stream - 1) % 4))
      | _, _ => s)

/-! ### Encode slots -/

/-- R238, R244, R268: an encode slot codes every row of its slice for one frame; its segments leave toward the chain's windows, or
over the on-die path to the part's own decoder (R22). `late`: the slot belongs to the period before (R96). -/
def State.encodeSlot (s : State) (region slot : Nat) (late : Bool) : State :=
  match s.dueSlot region slot with
    | none => s
    | some sl =>
      let chain := bits sl.operand 6 4
      let pos := bits sl.operand 0 6
      match s.sliceOf chain pos with
      | none => s
      | some e =>
        if sl.kind ≠ 0x02 ∨ !s.io.operational ∨ s.video.fenced.contains region then s
        else
          let own := s.plan.own == some e
          let frame := if late then s.io.tick else s.io.tick + 1
          let (s, segs) := (s.startSlot region slot true late).encodeSlice region slot e own frame late (s.blockStopped region 2)
          if own then segs.foldl (fun s g => s.keepSegment 0 g true) s else s

/-! ### Fenced regions -/

/-- A HOLD with ROW 0xFFF for a slice of a fenced region (R244, R526): the mirror of the slice is invalid. A Combined part's own goes to its own
decoder over the on-die path (R22). -/
def State.holdSlice (s : State) (n : Nat) (e : Position) (own : Bool) (frame : Nat) : State :=
  let h : SegHead := { typ := 1, chain := e.chain, position := e.position, key := false, floor := false, row := 0xFFF, tickLo := frame,
                       refSlot := (frame + 3) % 4, dstSlot := frame % 4, ltw := false, domain := flag s.gammaRaster, rsv := 0, length := 0 }
  let m := s.mirror e.chain e.position
  let s := (s.setMirror { m with blocks := [] }).bumpF (Fld.ENC_HOLD_SEGS n)
  let obj := objTile e.chain e.position
  let s := s.on (·.fireOnce obj { event := 194, region := some n, obj := obj })
  if own then (s.on (·.emit (.ownSegment h.bytes))).keepSegment 0 h.bytes true
  else
    let s := s.expectSegment h.bytes frame
    if s.transmits e.chain then
      let p := s.port e.chain
      s.setPort e.chain { p with video := p.video ++ [packetBytes 0x01 false e.chain e.position h.bytes] }
    else s

/-- A fenced region's link sends its HOLD segments at a numbered tick (R244). -/
def State.holdTick (s : State) : State :=
  if !s.io.operational || !s.io.hasHost then s
  else
    s.video.fenced.foldl (fun s n =>
      (s.slicesOf n).foldl (fun s e => s.holdSlice n e (s.plan.own == some e) (s.io.tick + 1)) s) s

/-- The decoders' part of a numbered tick: rows of frames that are past are forgotten. -/
def State.decodeTick (s : State) : State :=
  let t := s.io.tick
  s.onVideo (fun v => { v with decoders := v.decoders.map (fun d =>
    if d.stream ≠ 0 then d
    else { d with accepted := d.accepted.filter (fun x => decide (t ≤ x.1)), resolved := d.resolved.filter (fun x => decide (t ≤ x.1)),
                  kept := d.kept.filter (fun k => decide (t ≤ k.tick)) }) })

end Sys2Proof.Machine
end

