-- ==== Sys2Proof/Machine/Lamp.lean ====
section
/-! DEFINITION. The lamp pipeline (R328 to R349): the driver section's maps, domain conversion, matrix, gain, ceiling and limit,
quantisation and dither, and wear. -/

namespace Sys2Proof.Machine

/-- The lamp part of the state replaced. -/
def State.onLamp (s : State) (f : LampState → LampState) : State := { s with lamp := f s.lamp }

/-- Sections 0x000F, 0x0008 and 0x0006. -/
def State.policy (s : State) : List Byte := s.sectOr 0x000F
def State.drvSec (s : State) : List Byte := s.sectOr 0x0008
def State.greySec (s : State) : List Byte := s.sectOr 0x0006

/-! ### The driver section -/

/-- Field of a driver profile (R363). -/
def State.profileAt (s : State) (p off len : Nat) : Nat := fieldAt s.drvSec (0x40 + 128 * p + off) len

/-- What a profile gives: word length, channels, scan lines, lines of a row group, bit order, SELF_REFRESH and STATUS_EN. -/
def State.wordBits (s : State) (p : Nat) : Nat := s.profileAt p 0 1
def State.channels (s : State) (p : Nat) : Nat := s.profileAt p 1 1
def State.scanLines (s : State) (p : Nat) : Nat := s.profileAt p 2 1
def State.groupLines (s : State) (p : Nat) : Nat := s.profileAt p 3 1
def State.msbFirst (s : State) (p : Nat) : Bool := bit (s.profileAt p 6 1) 0
def State.selfRefresh (s : State) (p : Nat) : Bool := bit (s.profileAt p 6 1) 1
def State.statusEn (s : State) (p : Nat) : Bool := bit (s.profileAt p 6 1) 2

/-- LE_CYCLES of a profile's command: 0 where the command is absent (R364). -/
def State.cmdCycles (s : State) (p c : Nat) : Nat := s.profileAt p (32 + 8 * c) 1

/-- GREY_CODE and TAKEBACK of a profile (R407). -/
def State.greyCode (s : State) (p : Nat) : Nat :=
  let ps := fieldAt s.greySec (0x10 + 8 * p) 4
  if ps = 0 then 0 else ceilDiv (s.profileAt p 8 4 * 1000) ps
def State.takeback (s : State) (p : Nat) : Nat := fieldAt s.greySec (0x14 + 8 * p) 1

/-- The GROUP entry of group `g` (R362): profile, used, ND and port mask. -/
def State.groupEntry (s : State) (g : Nat) : Nat := fieldAt s.drvSec (0x940 + 4 * g) 4
def State.groupProfile (s : State) (g : Nat) : Nat := bits (s.groupEntry g) 0 3
def State.groupUsed (s : State) (g : Nat) : Bool := bit (s.groupEntry g) 3
def State.groupNd (s : State) (g : Nat) : Nat := bits (s.groupEntry g) 4 4 + 1
def State.groupPorts (s : State) (g : Nat) : List Nat := ((List.range 8).filter (fun i => bit (s.groupEntry g) (8 + i))).map (8 * g + ·)

/-- The boards of the section, and one board's entry: layout, bus, slot, origin and first port (R366). -/
def State.boardCount (s : State) : Nat := fieldAt s.drvSec 2 1
def State.boardField (s : State) (b off len : Nat) : Nat := fieldAt s.drvSec (0x540 + 16 * b + off) len
def State.boardLayout (s : State) (b : Nat) : Nat := s.boardField b 0 1
def State.boardBus (s : State) (b : Nat) : Nat := s.boardField b 1 1
def State.boardSlotOf (s : State) (b : Nat) : Nat := s.boardField b 2 1
def State.boardX (s : State) (b : Nat) : Nat := s.boardField b 4 2
def State.boardY (s : State) (b : Nat) : Nat := s.boardField b 6 2
def State.boardPort (s : State) (b : Nat) : Nat := s.boardField b 8 2

/-- A board's size in pixels, ports and map (R365). -/
def State.layoutField (s : State) (b off len : Nat) : Nat := fieldAt s.drvSec (0x440 + 32 * s.boardLayout b + off) len
def State.boardW (s : State) (b : Nat) : Nat := s.layoutField b 0 2
def State.boardH (s : State) (b : Nat) : Nat := s.layoutField b 2 2
def State.boardPorts (s : State) (b : Nat) : Nat := s.layoutField b 4 1

/-- The board that holds a slice pixel (R366). -/
def State.boardAt (s : State) (x y : Nat) : Option Nat :=
  (List.range s.boardCount).find? (fun b =>
    decide (s.boardX b ≤ x ∧ x < s.boardX b + s.boardW b ∧ s.boardY b ≤ y ∧ y < s.boardY b + s.boardH b))

/-- The map entry of lamp `i` of a board: its device port and its word, where it is mapped (R365, R366). -/
def State.boardLamp (s : State) (b i : Nat) : Option (Nat × Nat) :=
  let e := fieldAt s.drvSec (s.layoutField b 8 4 + 4 * i) 4
  if bit e 31 then none else some (s.boardPort b + bits e 0 4, bits e 4 15)

/-- Where a lamp of a slice pixel lies (R365). -/
structure LampPlace where
  board : Nat
  port : Nat
  word : Nat
  profile : Nat
deriving DecidableEq, Repr

/-- The driver channel of lamp `c` of a slice pixel, where it has one. -/
def State.lampPlace (s : State) (x y c : Nat) : Option LampPlace :=
  match s.boardAt x y with
  | none => none
  | some b =>
    match s.boardLamp b (3 * ((y - s.boardY b) * s.boardW b + (x - s.boardX b)) + c) with
    | some (p, w) => some { board := b, port := p, word := w, profile := s.groupProfile (p / 8) }
    | none => none

/-- The number of a driver channel (R409) from a device port and a word of it (R368). -/
def State.channelNumber (s : State) (p w : Nat) : Nat :=
  let g := p / 8
  let nd := s.groupNd g
  (p * 16 + w % nd) * 48 + w / nd % max 1 (s.channels (s.groupProfile g))

/-! ### Domain conversion and the matrix -/

/-- T_L of R335: code `c` in U1.27. -/
def linearCode (gamma : Bool) (peak c : Nat) : Nat :=
  if gamma then (iroot 5 30 (c ^ 12 * 2 ^ 140 / 4095 ^ 12) + 1) / 2
  else min (2 ^ 27) ((pqFix c * 10000 * 2 ^ 28 / (max 1 peak * 2 ^ pqBits) + 1) / 2)

/-- A record field blended (R356). -/
def blendField (alpha : Nat) (old new : Int) : Int := old + ((new - old) * alpha + 2048) / 4096

/-- A pixel correction record as the pipeline uses it (R337, R356). -/
structure PixelRecord where
  k : List Int
  o : List Int
  wdrive : List Nat
  off : List Bool
  excl : List Bool
  board : Nat
deriving DecidableEq, Repr

/-- A record read from its 32 bytes. -/
def readRecord (bs : List Byte) : PixelRecord :=
  let f := fieldAt bs 30 2
  { k := (List.range 9).map (fun i => signed 16 (fieldAt bs (2 * i) 2)), o := (List.range 3).map (fun i => signed 16 (fieldAt bs (18 + 2 * i) 2)),
    wdrive := (List.range 3).map (fun i => fieldAt bs (24 + 2 * i) 2), off := (List.range 3).map (fun i => bit f i),
    excl := (List.range 3).map (fun i => bit f (3 + i)), board := bits f 6 6 }

/-- The DRAM address of a record of set `set` (R329, R357). -/
def State.recordBase (s : State) (set idx : Nat) : Nat :=
  (if set = 0 then s.getF Fld.LMP_BASE_RECA else s.getF Fld.LMP_BASE_RECB) * 4096 + 32 * idx

/-- The record of a pixel under a latch: the active set's, or the blend of both (R331, R356). -/
def State.pixelRecord (s : State) (l : LampLatch) (idx : Nat) : PixelRecord :=
  let old := readRecord (s.io.readDram (s.recordBase l.active idx) 32)
  match l.alpha with
  | none => old
  | some a =>
    let new := readRecord (s.io.readDram (s.recordBase (1 - l.active) idx) 32)
    { new with
      k := (old.k.zip new.k).map (fun p => blendField a p.1 p.2)
      o := (old.o.zip new.o).map (fun p => blendField a p.1 p.2)
      wdrive := (old.wdrive.zip new.wdrive).map (fun p => (blendField a p.1 p.2).toNat) }

/-- One lamp's drive after gain and ceiling (R340), and whether it was clamped. -/
def lampDrive (r : PixelRecord) (lit : Bool) (l : List Nat) (q g i : Nat) : Nat × Bool :=
  let k := fun (j : Nat) => r.k.getD (3 * i + j) 0 * (nth l j : Int)
  let v := k 0 + k 1 + k 2 + r.o.getD i 0 * 2 ^ 20
  let v : Nat := if v < 0 ∨ r.off.getD i false ∨ !lit then 0 else v.toNat
  let d := (v * g * q + 2 ^ 44) / 2 ^ 45
  (min d (2 ^ 24), decide (2 ^ 24 < d))

/-- The drives of a pixel after its board's limit (R340), and whether the limit acted. -/
def limitDrives (d : List Nat) (lim : Nat) : List Nat × Bool :=
  let m := d.foldl max 0
  let lim := lim * 2 ^ 9
  if lim < m then (d.map (fun x => x * lim / m), true) else (d, false)

/-! ### Quantisation and dither -/

/-- A dither word (R341). -/
structure Dither where
  acc : Int
  span : Nat
deriving DecidableEq, Repr

/-- A dither word read and written. -/
def readDither (w : Nat) : Dither := { acc := signed 29 w, span := bits w 29 3 }
def Dither.word (d : Dither) : Nat := unsigned 29 d.acc + 2 ^ 29 * d.span

/-- The matrix B of R341. -/
def ditherMatrix : List (List Nat) :=
  [[0, 32, 8, 40, 2, 34, 10, 42], [48, 16, 56, 24, 50, 18, 58, 26], [12, 44, 4, 36, 14, 46, 6, 38], [60, 28, 52, 20, 62, 30, 54, 22],
   [3, 35, 11, 43, 1, 33, 9, 41], [51, 19, 59, 27, 49, 17, 57, 25], [15, 47, 7, 39, 13, 45, 5, 37], [63, 31, 55, 23, 61, 29, 53, 21]]

/-- The seed of lamp `c` of a slice pixel (R341). -/
def ditherSeed (x y c : Nat) : Nat :=
  let dx := if c = 0 then 0 else 4
  let dy := if c = 1 then 4 else 0
  nth (ditherMatrix.getD ((y + dy) % 8) []) ((x + dx) % 8) * 1024

/-- R342: a drive is quantised: the code, the new dither word, and whether a take-back outlasted its span. -/
def quantiseDrive (d maxcode : Nat) (w : Dither) : Nat × Dither × Bool :=
  let x : Int := ((d * maxcode + 2 ^ 7) / 2 ^ 8 : Nat)
  let debt : Int := if 0 < w.span ∧ w.acc < 0 then -w.acc else 0
  let take : Int := if 0 < w.span then (debt + w.span - 1) / w.span else 0
  let t := x + w.acc + debt - take
  let v := clampI 0 maxcode (t / 65536)
  let r := t - v * 65536
  let acc := min r 65535 - (debt - take)
  (v.toNat, { acc := acc, span := w.span - 1 }, decide (w.span = 1 ∧ acc < 0))

/-- R343: what a Grey pulse does to a lamp. -/
inductive Pulse where
  | none
  /-- The dither word was not clear. -/
  | deferred
  | applied
deriving DecidableEq, Repr

/-- R343: a selected lamp's code after its Grey pulse. `before`: the dither word on entry. -/
def greyPulse (code takeback : Nat) (before : Dither) (v : Nat) (after : Dither) : Nat × Dither × Pulse :=
  if 0 < before.span ∨ before.acc < 0 then (v, after, .deferred)
  else if code ≤ v then (v, after, .none)
  else (code, { acc := after.acc - ((code - v : Nat) : Int) * 65536, span := takeback }, .applied)

/-! ### One row -/

/-- What the lamp cells leave of one lamp. -/
structure LampOut where
  v : Nat
  word : Nat
  dark : Bool
  short : Bool
  pulse : Pulse
  place : Option LampPlace
  maxcode : Nat
deriving DecidableEq, Repr

/-- What they leave of one pixel. -/
structure PixelOut where
  lamps : List LampOut
  saturated : Nat
  limited : Bool
  board : Nat
deriving DecidableEq, Repr

/-- The width and height of the part's slice; none before it is known. -/
def State.slice (s : State) : Option Position := s.streamSlice 0

/-- The code word length of a lamp without a driver channel, which no rule states (log 30): from 8 to 16. -/
def unmappedBits (x y c : Nat) : Nat := 8 + Config.freeWordBits x y c % 9

/-- The codes of a slice pixel in the display buffer. -/
def Decoder.pixel (d : Decoder) (x y : Nat) : List Nat :=
  match d.display.find? (·.1 == y / 8 * 2 ^ 8 + x / 16) with
  | some (_, b) => (b.drop (3 * (16 * (y % 8) + x % 16))).take 3
  | none => [0, 0, 0]

/-- R340 to R343: one pixel of the frame of a latch. `grey`: the selected channels. -/
def State.lampPixel (s : State) (l : LampLatch) (grey : List Nat) (w : Nat) (codes : List Nat) (x y : Nat) : PixelOut :=
  let idx := y * w + x
  let r := s.pixelRecord l idx
  let lin := codes.map (linearCode (s.isF Fld.DEC_CFG_DOMAIN) (fieldAt s.policy 4 4))
  let gain := s.io.readDram (s.getF Fld.LMP_BASE_GAIN * 4096 + 6 * idx) 6
  let lit := l.lit.contains r.board
  let raw := (List.range 3).map (fun i => lampDrive r lit lin l.q (fieldAt gain (2 * i) 2) i)
  let (d, limited) := limitDrives (raw.map (·.1)) (l.lims.getD r.board 32768)
  let words := s.io.readDram (s.getF Fld.LMP_BASE_DITHER * 4096 + 12 * idx) 12
  let lamps := (List.range 3).map (fun c =>
    let p := s.lampPlace x y c
    let maxcode := 2 ^ (match p with | some p => s.wordBits p.profile | none => unmappedBits x y c) - 1
    let before := readDither (fieldAt words (4 * c) 4)
    let (v, after, short) := quantiseDrive (nth d c) maxcode before
    let off := r.off.getD c false
    let chosen := match p with | some p => grey.contains (s.channelNumber p.port p.word) | none => false
    let pulsed := chosen && !off && (s.isF Fld.LBD_CFG_DIAG_BLACK || decide (nth d c ≠ 0))
    let (v, after, pulse) := match pulsed, p with
      | true, some p => greyPulse (s.greyCode p.profile) (s.takeback p.profile) before v after
      | _, _ => (v, after, .none)
    ({ v := v, word := after.word, dark := off || decide (nth d c = 0), short := short, pulse := pulse, place := p, maxcode := maxcode } : LampOut))
  { lamps := lamps, saturated := (raw.filter (·.2)).length, limited := limited, board := r.board }

/-- The load buffer block of a port in the pipeline buffer of a frame (R368, R369). -/
def State.pipeWord (s : State) (frame port word : Nat) : Nat :=
  (if frame % 2 = 0 then s.getF Fld.SCN_PIPE_BASE0 else s.getF Fld.SCN_PIPE_BASE1) * 4096 + port * 0xC000 + 2 * word

/-- One pixel's results are written: dither words and mapped codes (R329, R369). -/
def State.writePixel (s : State) (frame idx : Nat) (o : PixelOut) : State :=
  let s := s.on (·.writeDram (s.getF Fld.LMP_BASE_DITHER * 4096 + 12 * idx) (o.lamps.flatMap (fun l => leBytes 4 l.word)))
  o.lamps.foldl (fun s l => match l.place with
    | some p => s.on (·.writeDram (s.pipeWord frame p.port p.word) (leBytes 2 l.v))
    | none => s) s

/-- The codes that a board's lamps have sent, for the thermal model (R464): code sum and the sum of maxcodes. -/
def State.countDrive (s : State) (outs : List PixelOut) : State :=
  outs.foldl (fun s o =>
    let sum := (o.lamps.map (·.v)).foldl (· + ·) 0
    let full := (o.lamps.map (·.maxcode)).foldl (· + ·) 0
    s.onTherm (fun t =>
      let (a, b) := ((t.drive.find? (·.1 == o.board)).map (·.2)).getD (0, 0)
      { t with drive := (o.board, a + sum, b + full) :: t.drive.filter (·.1 != o.board) })) s

/-- A lamp row failed twice (R332, R523). -/
def State.lampFailed (s : State) (n row frame : Nat) : Bool :=
  s.video.bad.any (fun x => x.region == n && x.block == 4 && x.row == row && x.tick + 1 == frame && x.failed)

/-- A row that yields no new lamp values (R332): counted, and its groups' read-outs of the frame are discarded (R403). -/
def State.rowFails (s : State) (n frame row : Nat) : State :=
  ((s.onLamp (fun m => { m with rows := m.rows ++ [({ frame := frame, row := row, ok := false, codes := [], dark := [] } : LampRow)] })).bumpF
    (Fld.LMP_ROWS_FAILED n)).on (·.fireIn 331 n)

/-- The memory traffic of a block row of the lamp pipeline (R134, R329, R369): the codes, records, gains and dither words read; the dither
words and the pipeline buffer written. -/
def State.lampOps (s : State) (n lane : Nat) (e : Position) (l : LampLatch) (row : Nat) : State :=
  let at_ := row * 8 * e.width
  let k := 8 * e.width
  let rec_ := fun (s : State) (set : Nat) => s.unitOps n lane 0 (s.recordBase set at_) false (32 * k)
  let s := rec_ (s.cellOps n lane 0x000B 0 false (e.width / 16 * blockBytes)) l.active
  let s := if l.alpha.isSome then rec_ s (1 - l.active) else s
  let s := s.unitOps n lane 0 (s.getF Fld.LMP_BASE_GAIN * 4096 + 6 * at_) false (6 * k)
  let d := s.getF Fld.LMP_BASE_DITHER * 4096 + 12 * at_
  let s := (s.unitOps n lane 0 d false (12 * k)).unitOps n lane 0 d true (12 * k)
  s.unitOps n lane 0 ((if l.frame % 2 = 0 then s.getF Fld.SCN_PIPE_BASE0 else s.getF Fld.SCN_PIPE_BASE1) * 4096 + 6 * at_) true (6 * k)

/-- R328, R340 to R343: one block row of a frame passes through the pipeline. -/
def State.lampRow (s : State) (n lane : Nat) (e : Position) (l : LampLatch) (row : Nat) : State :=
  let s := s.lampOps n lane e l row
  if s.lampFailed n row l.frame then s.rowFails n l.frame row
  else
    let grey := (s.lamp.grey.filter (fun g => g.1 == l.frame)).map (·.2)
    let d := s.decoder 0
    let places := (List.range 8).flatMap (fun j => (List.range e.width).map (fun x => (x, 8 * row + j)))
    let outs := places.map (fun p => (p, s.lampPixel l grey e.width (d.pixel p.1 p.2) p.1 p.2))
    let s := outs.foldl (fun s o => s.writePixel l.frame (o.1.2 * e.width + o.1.1) o.2) s
    let lamps := outs.flatMap (fun o => o.2.lamps)
    let count := fun (p : LampOut → Bool) => (lamps.filter p).length
    let limited := (outs.filter (·.2.limited)).length
    let short := count (·.short)
    let deferred := (lamps.filter (fun o => o.pulse == .deferred)).filterMap (fun o => o.place.map (fun p => s.channelNumber p.port p.word))
    let s := s.countDrive (outs.map (·.2))
    let s := (s.bumpF (Fld.LMP_ROWS n)).bumpF Fld.LMP_SATURATED ((outs.map (·.2.saturated)).foldl (· + ·) 0)
    let s := if limited = 0 then s else (s.bumpF Fld.LMP_LIMITED_PIXELS limited).on (·.fireOnce 0 { event := 325, region := some n })
    let s := if short = 0 then s else (s.bumpF Fld.LMP_TAKEBACK_SHORT short).on (·.fireOnce 0 { event := 327, region := some n })
    let applied := count (fun o => o.pulse == .applied)
    let s := (s.bumpF Fld.LMP_GREY_APPLIED applied).on (Io.pulses 14 applied)
    let s := if deferred.isEmpty then s
      else (s.bumpF (Fld.LBD_GREY_DEFERRED n) deferred.length).on (·.fireOnce n { event := 394, region := some n })
    s.onLamp (fun m => { m with rows := m.rows ++
      [({ frame := l.frame, row := row, ok := true, codes := lamps.map (·.v), dark := lamps.map (·.dark) } : LampRow)] })

/-- The latch of a frame (R331). -/
def State.latchOf (s : State) (frame : Nat) : Option LampLatch := s.lamp.latches.find? (·.frame == frame)

/-! ### Wear -/

/-- A life model's block for colour `c` (R344): WSTEP, and entries of CW, TW and EFF. -/
def modelWstep (m : List Byte) (c : Nat) : Nat := fieldAt m (16 + 272 * c) 4
def modelCw (m : List Byte) (c n : Nat) : Nat := fieldAt m (16 + 272 * c + 4 + 2 * n) 2
def modelTw (m : List Byte) (c n : Nat) : Nat := fieldAt m (16 + 272 * c + 70 + 2 * n) 2
def modelEff (m : List Byte) (c n : Nat) : Nat := fieldAt m (16 + 272 * c + 136 + 2 * n) 2

/-- A life model is valid (R344). -/
def modelValid (m : List Byte) : Bool :=
  fieldAt m 0 2 == 1 && allZero m 2 14 &&
  [0, 1, 2].all (fun c => modelWstep m c != 0 && (List.range 65).all (fun n => decide (1024 ≤ modelEff m c n)) && allZero m (16 + 272 * c + 266) 6)

/-- Linear interpolation between entries at i + r / q, times q. -/
def interp (t : Nat → Nat) (last i r q : Nat) : Nat := if last ≤ i then t last * q else t i * (q - r) + t (i + 1) * r

/-- dw of R345 for code `v` of `maxcode` at a temperature in 1/16 °C, with nom_rate in mHz. -/
def wearStep (m : List Byte) (c v maxcode : Nat) (temp : Int) (nomRate : Nat) : Nat :=
  let cw := interp (modelCw m c) 32 (v * 32 / maxcode) (v * 32 % maxcode) maxcode
  let tb := (clampI (-320) 2240 temp + 320).toNat
  let tw := interp (modelTw m c) 32 (tb / 80) (tb % 80) 80
  let num := 64000 * 2 ^ 32 * cw * tw
  let den := max 1 nomRate * 3600 * 4096 * 256 * maxcode * 80
  (2 * num + den) / (2 * den)

/-- The efficiency e of R347 of a lamp with integral `w`, in U1.15. -/
def efficiency (m : List Byte) (c w : Nat) : Nat :=
  let q := max 1 (modelWstep m c) * 2 ^ 32
  (2 * interp (modelEff m c) 64 (w / q) (w % q) q + q) / (2 * q)

/-- The target gain of R347, and whether GMAX caps it. -/
def targetGain (e gmax : Nat) : Nat × Bool :=
  let g := (2 ^ 29 + e / 2) / max 1 e
  (min g gmax, decide (gmax < g))

/-- The headroom of R348. -/
def headroom (wdrive g : Nat) : Nat := if wdrive * g = 0 then 32768 else min 32768 (2 ^ 44 / (wdrive * g))

/-- GSTEP (R357). -/
def State.gainStep (s : State) : Nat := clampN 1 1024 (s.getF Fld.LMP_GAIN_CFG_GSTEP)

/-- A lit board. -/
def State.boardOf (s : State) (b : Nat) : Option Board := s.lamp.boards.find? (·.index == b)

/-- A board replaced. -/
def State.setBoard (s : State) (b : Board) : State :=
  s.onLamp (fun m => { m with boards := b :: m.boards.filter (·.index != b.index) })

/-- R345, R347, R348: one lamp's wear update. -/
def State.wearLamp (s : State) (l : LampLatch) (w x y c v maxcode : Nat) : State :=
  let idx := y * w + x
  let r := s.pixelRecord l idx
  if !l.lit.contains r.board || s.boardAt x y != some r.board then s
  else
    let board := s.boardOf r.board
    let ga := s.getF Fld.LMP_BASE_GAIN * 4096 + 6 * idx + 2 * c
    let wa := s.getF Fld.LMP_BASE_WEAR * 4096 + 24 * idx + 8 * c
    let model := board.bind (·.model)
    let (s, gs) : State × Nat := match model with
      | none => (s, 16384)
      | some m =>
        let dw := wearStep m c v maxcode (l.temps.getD r.board 0) (s.rset s.rateSet).nom
        let wi := min (leNat (s.io.readDram wa 8) + dw) (2 ^ 64 - 1)
        let e := efficiency m c wi
        let (gs, capped) := targetGain e (s.getF Fld.LMP_GAIN_CFG_GMAX)
        let g := leNat (s.io.readDram ga 2)
        let g' := if g ≤ gs then g + min (gs - g) s.gainStep else g - min (g - gs) s.gainStep
        let s := s.on (fun io => (io.writeDram wa (leBytes 8 wi)).writeDram ga (leBytes 2 g'))
        let s := if capped then s.bumpF Fld.LMP_GAIN_CAPPED else s
        let s := if capped && !s.lamp.capped then (s.onLamp (fun m => { m with capped := true })).on (·.fireIn 329 (s.decodeRegion 0 (y / 8))) else s
        let s := match board with
          | some b => if e < s.getF Fld.LBD_LIFE_CFG_WARN_EFF ∧ !b.weak then s.setBoard { b with weak := true } else s
          | none => s
        (s, gs)
    if r.excl.getD c false || r.off.getD c false then s
    else
      let h := headroom (nth r.wdrive c) gs
      s.onLamp (fun m => { m with least := match m.least with
        | some (a, b) => if h < a then some (h, r.board) else some (a, b)
        | none => some (h, r.board) })

/-- The lamps that a wear-sample slot samples in one row, as x, y and colour: lines y with y mod 64 = j mod 64 (R345). -/
def sampledLamps (w row frame : Nat) : List (Nat × Nat × Nat) :=
  ((List.range 8).filter (fun j => decide ((8 * row + j) % 64 = frame % 64))).flatMap (fun j =>
    (List.range w).flatMap (fun x => (List.range 3).map (fun c => (x, 8 * row + j, c))))

/-- The memory traffic of the sampled lines of a row: integrals and gains, read and written (R134, R329). -/
def State.wearOps (s : State) (n lane : Nat) (e : Position) (row frame : Nat) : State :=
  ((List.range 8).filter (fun j => decide ((8 * row + j) % 64 = frame % 64))).foldl (fun s j =>
    let idx := (8 * row + j) * e.width
    let both := fun (s : State) (a k : Nat) => (s.unitOps n lane 0 a false k).unitOps n lane 0 a true k
    both (both s (s.getF Fld.LMP_BASE_WEAR * 4096 + 24 * idx) (24 * e.width)) (s.getF Fld.LMP_BASE_GAIN * 4096 + 6 * idx) (6 * e.width)) s

/-- The samples of lamps of lit boards are lost (R332): counted, with event 326 at most once per period. -/
def State.loseSamples (s : State) (n : Nat) (e : Position) (l : LampLatch) (lamps : List (Nat × Nat × Nat)) : State :=
  let k := (lamps.filter (fun p => match s.boardAt p.1 p.2.1 with
    | some b => l.lit.contains b && (s.pixelRecord l (p.2.1 * e.width + p.1)).board == b
    | none => false)).length
  if k = 0 then s else (s.bumpF Fld.LMP_SAMPLES_LOST k).on (·.fireOnce 0 { event := 326, region := some n })

/-- R332, R345: the samples of one row of a frame: taken, or lost where the row yielded no new values. -/
def State.wearRow (s : State) (n lane : Nat) (e : Position) (l : LampLatch) (row : Nat) : State :=
  let lamps := sampledLamps e.width row l.frame
  let s := s.wearOps n lane e row l.frame
  if lamps.isEmpty then s
  else match s.lamp.rows.find? (fun r => r.frame == l.frame && r.row == row) with
    | some r =>
      if r.ok then lamps.foldl (fun s p =>
          let (x, y, c) := p
          let maxcode := 2 ^ (match s.lampPlace x y c with | some p => s.wordBits p.profile | none => unmappedBits x y c) - 1
          s.wearLamp l e.width x y c (nth r.codes (3 * (y % 8 * e.width + x) + c)) maxcode) s
      else s.loseSamples n e l lamps
    | none => s.loseSamples n e l lamps

end Sys2Proof.Machine
end

