-- ==== Sys2Proof/Machine/Ceiling.lean ====
section
/-! DEFINITION. The luminance ceiling (R350 to R354), the latch of a frame (R331), blends (R355, R356) and the lamp slots. -/

namespace Sys2Proof.Machine

/-- The ceiling part of the state replaced. -/
def State.onWall (s : State) (f : WallState → WallState) : State := { s with wall := f s.wall }

/-- A setting of the ceiling: the register, or section 0x000F in a Sender part, which has no LMP_ page (R334). -/
def State.ceilSet (s : State) (f : Field) (off len : Nat) : Nat := if s.io.hasLamps then s.getF f else fieldAt s.policy off len

/-- CEIL_MARGIN, CEIL_HYST, CEIL_MIN, CEIL_INIT and CEIL_STEP_TICKS. -/
def State.ceilMargin (s : State) : Nat := s.ceilSet Fld.LMP_CEIL_CFG_MARGIN 0x2A 2
def State.ceilHyst (s : State) : Nat := s.ceilSet Fld.LMP_CEIL_CFG_HYST 0x2C 2
def State.ceilMin (s : State) : Nat := s.ceilSet Fld.LMP_CEIL_LIMITS_MIN 0x28 2
def State.ceilInit (s : State) : Nat := s.ceilSet Fld.LMP_CEIL_LIMITS_INIT 0x26 2
def State.ceilStep (s : State) : Nat := max 1 (s.ceilSet Fld.LMP_CEIL_STEP_TICKS 0x30 4)

/-- SCOPE and RAISE. -/
def State.ceilTile (s : State) : Bool := if s.io.hasLamps then s.isF Fld.LMP_CFG_SCOPE else bit (fieldAt s.policy 1 1) 0
def State.ceilRaise (s : State) : Bool := if s.io.hasLamps then s.isF Fld.LMP_CFG_RAISE else bit (fieldAt s.policy 1 1) 1

/-- Q of a schedule at tick `t`, at or after its START (R351). -/
def Schedule.at (c : Schedule) (step t : Nat) : Nat :=
  let n := (t - c.start) / step + 1
  if c.target < c.qStart then max c.target (c.qStart - n) else min c.target (c.qStart + n)

/-- Q of tick `t`: the schedule held from its START on, the one it replaces before, and the held value where there is none. -/
def WallState.qAt (w : WallState) (step t : Nat) : Nat :=
  match w.schedule with
  | some c =>
    if c.start ≤ t then c.at step t
    else match w.before with
      | some b => if b.start ≤ t then b.at step t else w.q
      | none => w.q
  | none => w.q

/-- The schedule in force at tick `t`. -/
def WallState.inForce (w : WallState) (t : Nat) : Option Schedule :=
  match w.schedule with
  | some c => if c.start ≤ t then some c else w.before
  | none => none

/-- The RTYPE 0x0004 record (R354). -/
def State.ceilRecord (s : State) : List Byte :=
  let c := (s.wall.inForce s.io.tick).getD { qStart := 0, target := s.wall.target, start := 0 }
  let lb := if s.io.isSender then 0 else s.lbCount
  leBytes 2 s.wall.q ++ leBytes 2 s.wall.target ++ leBytes 6 c.start ++ leBytes 2 c.qStart ++ leBytes 4 (fieldAt s.policy 0x34 4)
    ++ leBytes 2 (if s.io.isSender then 32768 else s.getF Fld.THM_TH_LOCAL) ++ leBytes 2 s.therm.thWall ++ leBytes 1 lb ++ zeros 3
    ++ (List.range 64).flatMap (fun b => leBytes 2 (if b < lb then s.getF (Fld.THM_LAMP_S b) else 32768))

/-- The ceiling record is requested. -/
def State.writeCeiling (s : State) : State :=
  (s.queueRecord 4 s.ceilRecord).onWall (fun w => { w with writtenAt := s.io.now, changed := false })

/-- LMP_CEIL and LMP_CEIL_START report the ceiling (R357). -/
def State.reportCeiling (s : State) : State :=
  if !s.io.hasLamps then s
  else
    let s := (s.setF Fld.LMP_CEIL_Q s.wall.q).setF Fld.LMP_CEIL_TARGET s.wall.target
    match s.wall.inForce s.io.tick with
    | some c =>
      let s := s.on (·.setWide Fld.LMP_CEIL_START_LO_START Fld.LMP_CEIL_START_HI_START c.start)
      s.setF Fld.LMP_CEIL_START_HI_Q_START c.qStart
    | none => s

/-- A schedule is adopted (R352): event 322, and the record is written (R354). -/
def State.adoptSchedule (s : State) (c : Schedule) : State :=
  let s := s.onWall (fun w => { w with before := w.inForce s.io.tick, schedule := some c })
  s.writeCeiling.fire 322

/-- R352: what a schedule that arrives does: an equal or older one is ignored. -/
def State.takeSchedule (s : State) (c : Schedule) : State :=
  match s.wall.schedule with
  | none => s.adoptSchedule c
  | some h => if c = h ∨ c.start < h.start then s else s.adoptSchedule c

/-- The body of a CEILING command (R352). -/
def Schedule.body (c : Schedule) : List Byte := leBytes 2 c.qStart ++ leBytes 2 c.target ++ leBytes 6 c.start ++ zeros 2
/-- A schedule read from a CEILING body. -/
def readSchedule (b : List Byte) : Schedule := { qStart := fieldAt b 0 2, target := fieldAt b 2 2, start := fieldAt b 4 6 }

/-- A wall command of the serving unit goes to every chain, and to the standby in a RELAY packet (R315, R352). -/
def State.wallCommand (s : State) (cmd : Nat) (body : List Byte) : State :=
  let s := s.wallCmdAll (fun _ => true) cmd body
  if s.pair = pACTIVE then s.sendPair 0x15 (leBytes 1 0 ++ zeros 3 ++ packetBytes 0x07 true 0 0 (wallPayload cmd body)) else s

/-- The unit has a ceiling of its own to send (R353, R483). -/
def State.hasCeiling (s : State) : Bool := s.io.hasHost && (s.sect 0x000F).isSome && !s.ceilTile

/-- The least HMIN reported with VALID set (R353): the tiles', and the part's own where it lights lamps. -/
def State.wallHeadroom (s : State) : Option Nat :=
  let own := if s.io.isCombined && s.isF Fld.LMP_HEADROOM_VALID then [s.getF Fld.LMP_HEADROOM_HMIN] else []
  let all := own ++ s.tiles.filterMap (fun t => match t.headroom with | some (h, _, true) => some h | _ => none)
  match all with
  | [] => none
  | h :: t => some (t.foldl min h)

/-- R353: the new schedule that a headroom asks for, if any. -/
def State.nextSchedule (s : State) (h : Nat) : Option Schedule :=
  let t := s.io.tick
  let qt := max s.ceilMin (h - s.ceilMargin)
  let target := match s.wall.schedule with | some c => c.target | none => s.wall.target
  if qt < target ∨ (s.ceilRaise ∧ target + s.ceilHyst ≤ qt) then some { qStart := s.wall.qAt s.ceilStep (t + 8), target := qt, start := t + 8 } else none

/-- R353: every 64 ticks the active or solo unit, or a tile with SCOPE 1 at the end of its cycle, computes a target and sends or
adopts a new schedule when it is due. -/
def execCeilingCheck (s : State) : Result :=
  .next (
    if !s.io.operational then s
    else if s.ceilTile then
      (if s.io.hasLamps && s.isF Fld.LMP_HEADROOM_VALID then
        match s.nextSchedule (s.getF Fld.LMP_HEADROOM_HMIN) with
        | some c => s.adoptSchedule c
        | none => s
      else s)
    else if s.hasCeiling && s.serving && decide (s.io.tick % 64 = 0) then
      match s.wallHeadroom.bind s.nextSchedule with
      | some c => (s.adoptSchedule c).wallCommand 0x03 c.body
      | none => s
    else s)

/-- R352: a CEILING command arrives at a tile; with SCOPE 1 it is ignored. -/
def execCeilingReceived (port : Nat) (packet : List Byte) (s : State) : Result :=
  .next (match s.keptCmd port 0x03 packet [stJOINING, stOPERATIONAL] with
    | (s, some b) => if s.ceilTile then s else s.takeSchedule (readSchedule b)
    | (s, none) => s)

/-- R351, R353 at a tick: Q of this tick; event 323 when it reaches TARGET; the record when an hour has passed since the last
(R354). -/
def State.ceilingTick (s : State) : State :=
  if !s.io.operational then s
  else
    let t := s.io.tick
    let q := s.wall.qAt s.ceilStep t
    let target := match s.wall.inForce t with | some c => c.target | none => q
    let reached := decide (s.wall.q ≠ q ∧ q = target)
    let moved := decide (s.wall.q ≠ q)
    let s := s.onWall (fun w => { w with q := q, target := target, changed := w.changed || moved })
    let s := if reached && s.io.hasLamps then s.fire 323 else s
    let s := if s.wall.changed && decide (s.wall.writtenAt + 3600 * 64 * 10 ^ 9 ≤ s.io.now) then s.writeCeiling else s
    s.reportCeiling

/-- R354: at the first tick in OPERATIONAL a Sender, a Combined part and a tile with SCOPE 1 hold the schedule of the restored Q and
TARGET. -/
def State.startCeiling (s : State) : State :=
  if s.io.hasHost || s.ceilTile then
    s.onWall (fun w => { w with schedule := some { qStart := w.q, target := w.target, start := s.io.tick } })
  else s

/-- R354: Q and TARGET at start: from the record when its CEIL_EPOCH is the image's, else CEIL_INIT. A tile with SCOPE 0 holds Q. -/
def State.restoreCeiling (s : State) : State :=
  let r := match s.record 4 with
    | some b => if fieldAt b 12 4 = fieldAt s.policy 0x34 4 then some (fieldAt b 0 2, fieldAt b 2 2) else none
    | none => none
  let (q, target) := r.getD (s.ceilInit, s.ceilInit)
  let target := if s.io.hasHost || s.ceilTile then target else q
  (s.onWall (fun _ => { q := q, target := target, writtenAt := s.io.now })).reportCeiling

/-! ### Blends and the latch -/

/-- R356 at a tick: a blend that has run its frames ends, and a requested one starts. -/
def State.blendTick (s : State) : State :=
  let t := s.io.tick
  let ramp := max 1 (s.getF Fld.LMP_CFG_RAMP_FRAMES)
  let s := match s.lamp.blend with
    | some b =>
      if b + ramp ≤ t then
        let s := (s.setF Fld.LMP_SET_ACTIVE (1 - s.getF Fld.LMP_SET_ACTIVE)).setF Fld.LMP_SET_RAMPING 0
        ((s.setF Fld.LMP_SET_ALPHA 0).bumpF Fld.LMP_RAMPS).onLamp (fun m => { m with blend := none }) |>.fire 321
      else s
    | none => s
  if s.lamp.blend.isNone && s.isF Fld.LMP_SET_PENDING then
    (((s.setF Fld.LMP_SET_PENDING 0).setF Fld.LMP_SET_RAMPING 1).onLamp (fun m => { m with blend := some t })).fire 320
  else s

/-- The boards whose STATE is LIT (R396). -/
def State.litBoards (s : State) : List Nat :=
  (List.range 64).filter (fun b => s.getF (Fld.LBD_BOARD_STAT_STATE b) == 3 && !(match s.boardOf b with | some x => x.releasing | none => false))

/-- R331, R382: what tick j − 1 latches for the frame that lights at tick j. -/
def State.lampLatch (s : State) : State :=
  let t := s.io.tick
  let ramp := max 1 (s.getF Fld.LMP_CFG_RAMP_FRAMES)
  let alpha := s.lamp.blend.map (fun b => 4096 * (t + 1 - b) / ramp)
  let s := s.setF Fld.LMP_SET_ALPHA (alpha.getD 0)
  let l : LampLatch :=
    { frame := t + 1, active := s.getF Fld.LMP_SET_ACTIVE, alpha := alpha, q := s.wall.q,
      lims := (List.range 64).map (fun b => if s.boot.dark then 0 else s.getF (Fld.LMP_LIM b)), lit := s.litBoards,
      temps := (List.range 64).map (fun b => if b < s.lbCount then (s.lampTemp b).1 else 0),
      rects := (List.range 4).map (fun r => (s.getF (Fld.SCN_CRC_XY_X r), s.getF (Fld.SCN_CRC_XY_Y r), s.getF (Fld.SCN_CRC_WH_W r), s.getF (Fld.SCN_CRC_WH_H r))) }
  s.onLamp (fun m => { m with
    latches := l :: m.latches.filter (fun x => decide (t ≤ x.frame)), rows := m.rows.filter (fun r => decide (t ≤ r.frame + 1)),
    grey := m.grey.filter (fun g => decide (t ≤ g.1)), wearRun := m.wearRun.filter (fun x => decide (t ≤ x.1)),
    spoiled := m.spoiled.filter (fun x => decide (t ≤ x.2 + 2)) })

/-- The wear-sample slots of the tables in force, but for those of a fenced region (R526). -/
def State.wearSlots (s : State) : Nat :=
  ((List.range 4).map (fun n => if s.video.fenced.contains n then 0
    else (((s.rset s.rateSet).tables.getD n []).filter (fun sl => sl.kind == 0x0B)).length)).foldl (· + ·) 0

/-- R348, R401: the wear cycle whose last frame is `frame` ends: the headroom is published, and boards with a weak lamp are warned of. -/
def State.endCycle (s : State) (frame : Nat) : State :=
  let (h, b, v) := match s.lamp.least with | some (h, b) => (h, b, 1) | none => (32768, 0, 0)
  let s := ((s.setF Fld.LMP_HEADROOM_HMIN h).setF Fld.LMP_HEADROOM_BOARD b).setF Fld.LMP_HEADROOM_VALID v
  let s := s.bumpF Fld.LMP_WEAR_CYCLES
  let s := s.sendTelemetry 0 (leBytes 2 h ++ leBytes 1 b ++ leBytes 1 v)
  let s := if v = 1 ∧ h < s.wall.q then s.on (·.fireObj 324 none b) else s
  let s := s.lamp.boards.foldl (fun s x =>
    if x.weak && s.getF (Fld.LBD_BOARD_STAT_STATE x.index) == 3 then
      let s := s.setF (Fld.LBD_BOARD_STAT_LIFE_WARN x.index) 1
      if x.fired.contains 389 then s.setBoard { x with weak := false }
      else (s.setBoard { x with weak := false, fired := 389 :: x.fired }).on (·.fireObj 389 none x.index)
    else s) s
  s.onLamp (fun m => { m with least := none, capped := false, unverified := [], cycled := frame })

/-- A wear cycle whose last frame has lit ends, where no wear-sample slot has ended it (R348): a frame with slots cut off by a restart, or a
part without any. -/
def State.cycleTick (s : State) : State :=
  let t := s.io.tick
  if s.io.operational && decide (t % 64 = 0 ∧ 0 < t ∧ s.lamp.cycled + 1 ≠ t) then s.endCycle (t - 1) else s

/-- The lamps' part of a numbered tick. -/
def State.lampTick (s : State) : State :=
  let s := s.ceilingTick
  if !s.io.hasLamps then s else s.cycleTick.blendTick.lampLatch

/-! ### The slots -/

/-- R332, R340: a lamp-pipeline slot runs; `late`: it belongs to the period before (R96). -/
def State.lampSlot (s : State) (n i : Nat) (late : Bool) : State :=
  match s.dueSlot n i, s.slice with
  | some sl, some e =>
    let frame := if late then s.io.tick else s.io.tick + 1
    if sl.kind ≠ 0x05 ∨ s.video.fenced.contains n ∨ s.blockStopped n 4 then s
    else match s.latchOf frame with
      | none => s
      | some l =>
        let lo := bits sl.operand 0 12
        let rows := ((List.range (bits sl.operand 12 4 + 1)).map (lo + ·)).filter (fun r =>
          decide (r < e.rows) && !s.lamp.rows.any (fun x => x.frame == frame && x.row == r))
        rows.foldl (fun s r => s.lampRow n sl.lane e l r) (s.startSlot n i true late)
  | _, _ => s

/-- R345 to R348: a wear-sample slot runs; the last one of a frame with j mod 64 = 63 ends the wear cycle. -/
def State.wearSlot (s : State) (n i : Nat) (late : Bool) : State :=
  match s.dueSlot n i, s.slice with
  | some sl, some e =>
    let frame := if late then s.io.tick else s.io.tick + 1
    if sl.kind ≠ 0x0B ∨ !s.io.operational ∨ s.lamp.wearRun.contains (frame, n, i) ∨ s.video.fenced.contains n ∨ s.blockStopped n 4 then s
    else match s.latchOf frame with
      | none => s
      | some l =>
        let lo := bits sl.operand 0 12
        let rows := ((List.range (bits sl.operand 12 4 + 1)).map (lo + ·)).filter (fun r => decide (r < e.rows))
        let s := rows.foldl (fun s r => s.wearRow n sl.lane e l r) (s.startSlot n i true late)
        let s := s.onLamp (fun m => { m with wearRun := (frame, n, i) :: m.wearRun })
        if frame % 64 = 63 ∧ (s.lamp.wearRun.filter (fun x => x.1 == frame)).length = s.wearSlots then s.endCycle frame else s
  | _, _ => s

def execWearSampleSlot (region slot : Nat) (late : Bool) (s : State) : Result := .next (s.wearSlot region slot late)

end Sys2Proof.Machine
end

