-- ==== Sys2Proof/Machine/Boards.lean ====
section
/-! DEFINITION. Lamp boards (R336 to R339, R386 to R400, R412): presence, attaching and the derivation of records, wear and fault
copies, releasing, sensors. -/

namespace Sys2Proof.Machine

/-! ### Records are derived -/

/-- A 3×3 matrix by rows. -/
abbrev Mat := List (List Fp)

/-- An element. -/
def Mat.at (m : Mat) (i j : Nat) : Fp := (m.getD i []).getD j Fp.zero

/-- Binary64 operations. -/
def fadd (a b : Fp) : Fp := Fp.add f64 a b
def fsub (a b : Fp) : Fp := Fp.sub f64 a b
def fmul (a b : Fp) : Fp := Fp.mul f64 a b
def fdiv (a b : Fp) : Fp := Fp.div f64 a b

/-- a·d − b·c. -/
def minor (a b c d : Fp) : Fp := fsub (fmul a d) (fmul b c)

/-- The determinant, expanded along the first row. -/
def Mat.det (m : Mat) : Fp :=
  fadd (fsub (fmul (m.at 0 0) (minor (m.at 1 1) (m.at 1 2) (m.at 2 1) (m.at 2 2)))
    (fmul (m.at 0 1) (minor (m.at 1 0) (m.at 1 2) (m.at 2 0) (m.at 2 2)))) (fmul (m.at 0 2) (minor (m.at 1 0) (m.at 1 1) (m.at 2 0) (m.at 2 1)))

/-- The inverse, as the adjugate over the determinant (log 31). -/
def Mat.inv (m : Mat) : Mat :=
  let d := m.det
  (List.range 3).map (fun i => (List.range 3).map (fun j =>
    let a := (j + 1) % 3
    let b := (j + 2) % 3
    let c := (i + 1) % 3
    let e := (i + 2) % 3
    fdiv (minor (m.at a c) (m.at a e) (m.at b c) (m.at b e)) d))

/-- The product of two matrices. -/
def Mat.mul (a b : Mat) : Mat :=
  (List.range 3).map (fun i => (List.range 3).map (fun j =>
    fadd (fadd (fmul (a.at i 0) (b.at 0 j)) (fmul (a.at i 1) (b.at 1 j))) (fmul (a.at i 2) (b.at 2 j))))

/-- (x/y, 1, (1 − x − y)/y) for coordinates in units of 2^-16. -/
def chroma (x y : Nat) : List Fp :=
  let fx : Fp := ⟨x, -16⟩
  let fy : Fp := ⟨y, -16⟩
  [fdiv fx fy, Fp.ofInt 1, fdiv (fsub (fsub (Fp.ofInt 1) fx) fy) fy]

/-- The matrix whose columns are given. -/
def ofColumns (c : List (List Fp)) : Mat := (List.range 3).map (fun i => (List.range 3).map (fun j => (c.getD j []).getD i Fp.zero))

/-- A finite binary32 value. -/
def readSingle (w : Nat) : Fp :=
  let e := bits w 23 8
  let m := bits w 0 23
  let v : Int := if e = 0 then m else (2 ^ 23 + m : Nat)
  ⟨if bit w 31 then -v else v, (if e = 0 then 1 else (e : Int)) - 150⟩

/-- M_T of R338 from PRIM and IW of the policy section. -/
def State.targetMatrix (s : State) : Mat :=
  let p := fun i => fieldAt s.policy (8 + 2 * i) 2
  let n := ofColumns [chroma (p 0) (p 1), chroma (p 2) (p 3), chroma (p 4) (p 5)]
  let iw := readSingle (fieldAt s.policy 0x18 4)
  let w := (chroma (p 6) (p 7)).map (fun v => fmul v iw)
  let ni := n.inv
  let sc := (List.range 3).map (fun i =>
    fadd (fadd (fmul (ni.at i 0) (w.getD 0 Fp.zero)) (fmul (ni.at i 1) (w.getD 1 Fp.zero))) (fmul (ni.at i 2) (w.getD 2 Fp.zero)))
  (List.range 3).map (fun i => (List.range 3).map (fun j => fmul (n.at i j) (sc.getD j Fp.zero)))

/-- A binning record: x, y and IV, none where IV is not finite and positive (R336, R339). -/
def readBin (bs : List Byte) : Nat × Nat × Option Fp :=
  (fieldAt bs 0 2, fieldAt bs 2 2, match readHalf (fieldAt bs 4 2) with
    | .finite false n => if n = 0 then none else some ⟨n, -24⟩
    | _ => none)

/-- The record of a dark pixel (R339). -/
def darkRecord (board : Nat) : List Byte := zeros 30 ++ leBytes 2 (0x3F + board * 64)

/-- A number to the nearest integer, ties to even. -/
def Fp.toNearestEven (x : Fp) : Int :=
  let a := x.m.natAbs
  let q := if 0 ≤ x.e then a * 2 ^ x.e.toNat else roundDiv a (2 ^ (-x.e).toNat)
  if x.m < 0 then -(q : Int) else q

/-- R338, R339: a pixel's record from its 18 binning bytes: none where the pixel is uncorrectable. `flags`: its OFF and EXCL bits. -/
def State.deriveRecord (s : State) (bins : List Byte) (board flags : Nat) : Option (List Byte) :=
  let lamps := (List.range 3).map (fun c => readBin (sub bins (6 * c) 6))
  if lamps.any (fun l => l.2.1 == 0 || decide (65536 < l.1 + l.2.1) || l.2.2.isNone) then none
  else
    let ml := ofColumns (lamps.map (fun l => (chroma l.1 l.2.1).map (fun v => fmul v (l.2.2.getD Fp.zero))))
    if ml.det.m = 0 then none
    else
      let k := ml.inv.mul s.targetMatrix
      let vs := (List.range 9).map (fun i => Fp.mulExact (k.at (i / 3) (i % 3)) ⟨1, 13⟩)
      if vs.any (fun v => Fp.lt v (Fp.ofInt (-32768)) || Fp.lt (Fp.ofInt 32767) v) then none
      else
        let ks := vs.map Fp.toNearestEven
        let wd := (List.range 3).map (fun i => 4 * (ks.getD (3 * i) 0 + ks.getD (3 * i + 1) 0 + ks.getD (3 * i + 2) 0))
        if wd.any (fun w => decide (w < 1 ∨ 65535 < w)) then none
        else some (ks.flatMap (fun v => leBytes 2 (unsigned 16 v)) ++ sub s.policy 0x1C 6 ++ wd.flatMap (fun w => leBytes 2 w.toNat)
          ++ leBytes 2 (flags + board * 64))

/-! ### Channels -/

/-- The lamps of a board: index, slice x and y, and colour. -/
def State.boardLamps (s : State) (b : Nat) : List (Nat × Nat × Nat × Nat) :=
  (List.range (3 * s.boardW b * s.boardH b)).map (fun i =>
    (i, s.boardX b + i / 3 % max 1 (s.boardW b), s.boardY b + i / 3 / max 1 (s.boardW b), i % 3))

/-- The channel number of a board's lamp. -/
def State.lampChannel (s : State) (b i : Nat) : Option Nat := (s.boardLamp b i).map (fun p => s.channelNumber p.1 p.2)

/-- The driver channels on a board's ports in the order of R394: board-local port, driver, channel. -/
def State.boardChannels (s : State) (b : Nat) : List Channel :=
  (List.range (s.boardPorts b)).flatMap (fun p =>
    let port := s.boardPort b + p
    let g := port / 8
    (List.range (s.groupNd g)).flatMap (fun d => (List.range (s.channels (s.groupProfile g))).map (fun c =>
      ({ board := b, port := p, driver := d, chan := c, number := (port * 16 + d) * 48 + c } : Channel))))

/-- A channel is diagnosed (R401): its profile reads status, and a mapped lamp names it. -/
def State.diagnosed (s : State) (b : Nat) (c : Channel) : Bool :=
  s.statusEn (s.groupProfile ((s.boardPort b + c.port) / 8)) &&
  (List.range (3 * s.boardW b * s.boardH b)).any (fun i => s.lampChannel b i == some c.number)

/-- The action of R405 on a channel's lamps: EXCL and OFF. -/
def State.channelAction (s : State) (state : Nat) : Nat :=
  if state = 2 then s.getF Fld.LBD_FAULT_CFG_OPEN_ACTION else if state = 3 then s.getF Fld.LBD_FAULT_CFG_SHORT_ACTION else 0

/-- The OFF and EXCL bits of a board's pixel from the states of its lamps' channels (R405): `px` is its first lamp index. -/
def State.pixelFlags (s : State) (b px : Nat) (chs : List Channel) : Nat :=
  ([0, 1, 2].map (fun c =>
    match s.lampChannel b (px + c) with
    | some k =>
      let a := match chs.find? (·.number == k) with | some ch => s.channelAction ch.state | none => 0
      (if 2 ≤ a then 2 ^ c else 0) + (if 1 ≤ a then 2 ^ (3 + c) else 0)
    | none => 0)).foldl (· + ·) 0

/-- A channel is under OFF. -/
def State.underOff (s : State) (c : Channel) : Bool := decide (2 ≤ s.channelAction c.state)

/-- LBD_BOARD_FAULTS, LBD_BOARD_UNVER and LBD_UNVERIFIED follow the channels (R404, R411). -/
def State.reportBoard (s : State) (b : Nat) : State :=
  let chs := match s.boardOf b with | some x => x.channels | none => []
  let count := fun (k : Nat) => (chs.filter (·.state == k)).length
  let un := chs.filter (·.unverified)
  let s := (s.setF (Fld.LBD_BOARD_FAULTS_OPEN b) (count 2)).setF (Fld.LBD_BOARD_FAULTS_SHORT b) (count 3)
  let s := (s.setF (Fld.LBD_BOARD_UNVER_COUNT b) un.length).setF (Fld.LBD_BOARD_UNVER_LONGEST b) ((un.map (·.minutes)).foldl max 0)
  s.setF Fld.LBD_UNVERIFIED ((s.lamp.boards.map (fun x => (x.channels.filter (·.unverified)).length)).foldl (· + ·) 0)

/-- A fault-log entry (R413), with event 399 where it overwrites one. -/
def State.faultLog (s : State) (c : Channel) (kind : Nat) : State :=
  let e := s.getF Fld.LBD_FLOG_HEAD_NEXT
  let wrapped := decide (s.getF (Fld.LBD_FLOG_INFO_KIND e) ≠ 0)
  let s := ((s.setF (Fld.LBD_FLOG_CHAN_BOARD e) c.board).setF (Fld.LBD_FLOG_CHAN_PORT e) c.port).setF (Fld.LBD_FLOG_CHAN_DRIVER e) c.driver
  let s := ((s.setF (Fld.LBD_FLOG_CHAN_CHANNEL e) c.chan).setF (Fld.LBD_FLOG_INFO_KIND e) kind).setF (Fld.LBD_FLOG_TICK e) s.io.tick
  let s := s.setF Fld.LBD_FLOG_HEAD_NEXT (e + 1)
  if wrapped then (s.setF Fld.LBD_FLOG_HEAD_WRAPPED 1).on (·.fireIn 399 ((s.boardPort c.board + c.port) / 96)) else s

/-! ### Presence -/

/-- The board entry that names a slot of a bus (R366). -/
def State.namedBoard (s : State) (bus slot : Nat) : Option Nat :=
  (List.range s.boardCount).find? (fun b => s.boardBus b == bus && s.boardSlotOf b == slot)

/-- STATE of a board changes; LBD_BUS_STAT.LIT follows. -/
def State.boardState (s : State) (b st : Nat) : State :=
  let s := s.setF (Fld.LBD_BOARD_STAT_STATE b) st
  let bus := s.boardBus b
  s.setF (Fld.LBD_BUS_STAT_LIT (bus / 4) (bus % 4))
    (putBits (s.getF (Fld.LBD_BUS_STAT_LIT (bus / 4) (bus % 4))) (s.boardSlotOf b) 1 (flag (st == 3)))

/-- A header poll finds a board (R388). -/
def headerValid (h : List Byte) : Bool :=
  fieldAt h 0 4 == 0x4449424C && fieldAt h 0xFC 4 == crc32 (sub h 0 0xFC)

/-- A board's record in the state. -/
def State.board (s : State) (b : Nat) : Board := (s.boardOf b).getD { index := b }

/-- R397: a slot named by a board entry becomes absent: a LIT board detaches, with event 385; its integrals are kept. -/
def State.boardGone (s : State) (b : Nat) : State :=
  let lit := s.getF (Fld.LBD_BOARD_STAT_STATE b) == 3
  let x := s.board b
  let s := s.boardState b 0
  let s := (s.setF (Fld.LBD_BOARD_STAT_LIFE_WARN b) 0).setF (Fld.LBD_BOARD_STAT_REASON b) 0
  let s := s.setBoard { x with channels := [], fired := [], releasing := false, model := none, dirty := false,
                               kept := if lit then some (sub x.header 0x28 16) else x.kept }
  let s := s.onLamp (fun m => { m with passes := m.passes.filter (·.board != b) })
  let s := s.onTherm (fun t => { t with sensors := t.sensors.filter (·.1 != b) })
  let s := s.reportBoard b
  if lit then s.on (·.fireObj 385 (some (s.boardBus b / 4)) b) else s

/-- `n` transactions on a lamp-board bus (R388, R516). -/
def State.boardReads (s : State) (n : Nat) : State := s.on (Io.pulses 15 n)

/-- A write transaction to a board's identity memory (R388, R516). -/
def State.boardWrite (s : State) (b off : Nat) (bs : List Byte) : State := (s.emit (.boardWrite b off bs)).boardReads 1

/-- R388: a presence poll of a slot reads its 256-byte header; two polls in a row change its presence. -/
def execPresencePoll (bus slot : Nat) (header : List Byte) (s : State) : Result :=
  .next (
    if !s.io.hasLamps || decide (s.io.boot < stLOADING) || decide (s.io.boot = stUMBER) || decide (16 ≤ bus) || decide (4 ≤ slot) || !s.io.regionActive (bus / 4) then s
    else
      let s := s.boardReads 1
      let p := (s.lamp.slots.find? (fun x => x.bus == bus && x.slot == slot)).getD { bus := bus, slot := slot }
      let ok := headerValid header
      let run := if ok == p.present then 0 else p.run + 1
      let change := decide (2 ≤ run)
      let p := { p with present := if change then ok else p.present, run := if change then 0 else run }
      let s := s.onLamp (fun m => { m with slots := p :: m.slots.filter (fun x => !(x.bus == bus && x.slot == slot)) })
      if !change then s
      else
        let s := s.setF (Fld.LBD_BUS_STAT_PRESENT (bus / 4) (bus % 4))
          (putBits (s.getF (Fld.LBD_BUS_STAT_PRESENT (bus / 4) (bus % 4))) slot 1 (flag ok))
        match s.namedBoard bus slot, ok with
        | some b, true => s.boardState b 1
        | some b, false => s.boardGone b
        | none, true => s.on (·.fireIn 398 (bus / 4))
        | none, false => s)

/-! ### Attaching -/

/-- The bytes at an offset of the identity memory, from what the attach has read. -/
def memBytes (reads : List (Nat × List Byte)) (off n : Nat) : List Byte :=
  match reads.find? (fun r => decide (r.1 ≤ off ∧ off + n ≤ r.1 + r.2.length)) with
  | some (o, bs) => sub bs (off - o) n
  | none => List.replicate n 0xFF

/-- The areas of an identity memory (R391): offset and length. -/
def State.boardAreas (s : State) (b : Nat) (h : List Byte) : List (Nat × Nat) :=
  let lamps := 3 * s.boardW b * s.boardH b
  let fc := ceilDiv (32 + (s.boardChannels b).length) 4096 * 4096
  [(0, 0x400), (fieldAt h 0x40 4, 6 * lamps), (fieldAt h 0x44 4, 832), (fieldAt h 0x48 4, 4096 * ceilDiv lamps 2022),
   (fieldAt h 0x4C 4, 4096), (fieldAt h 0x50 4, 2 * fc)]

/-- R391: the areas are aligned, lie in the memory and do not overlap. -/
def State.areasOk (s : State) (b : Nat) (h : List Byte) : Bool :=
  let size := fieldAt h 6 1
  let a := s.boardAreas b h
  decide (18 ≤ size ∧ size ≤ 22) && [0x48, 0x4C, 0x50].all (fun o => decide (fieldAt h o 4 % 4096 = 0))
    && a.all (fun r => decide (r.1 + r.2 ≤ 2 ^ size))
    && (a.zipIdx).all (fun p => (a.zipIdx).all (fun q => decide (p.2 = q.2 ∨ p.1.1 + p.1.2 ≤ q.1.1 ∨ q.1.1 + q.1.2 ≤ p.1.1)))

/-- The trust key of section 0x0009 with an identity (R390). -/
def State.trustKey (s : State) (ident : List Byte) : Option (List Byte) :=
  ((List.range (fieldAt (s.sectOr 0x0009) 0 4)).map (fun i => sub (s.sectOr 0x0009) (4 + 544 * i) 544)).find? (fun k => sub k 0 16 == ident)

/-- The REASON for which a board is rejected; 0 where it is not (R395). -/
def State.rejectReason (s : State) (b : Nat) (reads : List (Nat × List Byte)) : Nat :=
  let h := memBytes reads 0 0x400
  let lamps := 3 * s.boardW b * s.boardH b
  if fieldAt h 4 2 ≠ 1 then 1
  else if fieldAt h 0x38 2 ≠ s.boardW b ∨ fieldAt h 0x3A 2 ≠ s.boardH b ∨ fieldAt h 0x3C 4 ≠ lamps then 2
  else if !s.areasOk b h then 3
  else match s.trustKey (sub h 0x100 16) with
    | none => 4
    | some k =>
      let signed := sub h 0 0x54 ++ memBytes reads (fieldAt h 0x40 4) (6 * lamps) ++ memBytes reads (fieldAt h 0x44 4) 832
      if RsaKey.verifies { modulus := fieldAt k 16 512, exponent := fieldAt k 528 4 } signed (sub h 0x110 512) then 0 else 5

/-- A chunk copy is valid for chunk `k` of a board with `lamps` lamps (R392, R393). -/
def chunkValid (lamps k : Nat) (c : List Byte) : Bool :=
  fieldAt c 44 4 == crc32 (sub c 0 44 ++ sub c 48 4044) && fieldAt c 4 4 == 2022 * k && fieldAt c 8 2 == min 2022 (lamps - 2022 * k)
    && [10, 11, 12].all (fun o => decide (fieldAt c o 1 ≤ 32)) && allZero c 13 3 && allZero c 40 4 && allZero c 4092 4

/-- The higher of two sequence numbers modulo 2^32. -/
def seqAfter (a b : Nat) : Bool := decide (0 < (a + 2 ^ 32 - b) % 2 ^ 32 ∧ (a + 2 ^ 32 - b) % 2 ^ 32 < 2 ^ 31)

/-- The copy of chunk `k` that a restore takes (R393). -/
def chunkCopy (reads : List (Nat × List Byte)) (h : List Byte) (lamps k : Nat) : Option (List Byte) :=
  let a := memBytes reads (fieldAt h 0x48 4 + 4096 * k) 4096
  let j := memBytes reads (fieldAt h 0x4C 4) 4096
  match chunkValid lamps k a, chunkValid lamps k j with
  | true, true => if seqAfter (fieldAt j 0 4) (fieldAt a 0 4) then some j else some a
  | true, false => some a
  | false, true => some j
  | false, false => none

/-- The RSEQ of the last store pass that the chunks in use show (R393, R400): the newest of them, or 0 where no chunk has a valid copy. -/
def lastPass (reads : List (Nat × List Byte)) (h : List Byte) (lamps : Nat) : Nat :=
  (((List.range (ceilDiv lamps 2022)).filterMap (fun k => (chunkCopy reads h lamps k).map (fun c => fieldAt c 0 4))).foldl
    (fun (m : Option Nat) q => match m with | some p => if seqAfter q p then some q else some p | none => some q) none).getD 0

/-- W of lamp `i` from a chunk copy (R392). -/
def chunkWear (c : List Byte) (i : Nat) : Nat :=
  let e := i % 2022
  let col := e % 3
  (fieldAt c (16 + 8 * col) 8 + fieldAt c (48 + 2 * e) 2 * 2 ^ (fieldAt c (10 + col) 1 + 16)) % 2 ^ 64

/-- The DRAM address of a board lamp's integral (R329). -/
def State.wearAddr (s : State) (x y c : Nat) : Nat :=
  s.getF Fld.LMP_BASE_WEAR * 4096 + 24 * (y * (match s.slice with | some e => e.width | none => 0) + x) + 8 * c

/-- A fault copy that is valid for a board with `n` channels (R394). -/
def faultCopyValid (n : Nat) (c : List Byte) : Bool := fieldAt c 4 4 == n && fieldAt c 28 4 == crc32 (sub c 0 28 ++ sub c 32 n)

/-- The fault copy that is in use: its number and bytes (R63, R394). -/
def State.faultCopyOf (s : State) (b : Nat) (reads : List (Nat × List Byte)) (h : List Byte) : Option (Nat × List Byte) :=
  let n := (s.boardChannels b).length
  let fc := ceilDiv (32 + n) 4096 * 4096
  let c := fun (i : Nat) => memBytes reads (fieldAt h 0x50 4 + i * fc) (32 + n)
  match faultCopyValid n (c 0), faultCopyValid n (c 1) with
  | true, true => if seqAfter (fieldAt (c 1) 0 4) (fieldAt (c 0) 0 4) then some (1, c 1) else some (0, c 0)
  | true, false => some (0, c 0)
  | false, true => some (1, c 1)
  | false, false => none

/-- The unverified time of a channel in the RTYPE 0x0006 record (R412, log 32). -/
def State.recordedMinutes (s : State) (serial : List Byte) (number : Nat) : Nat :=
  match s.record 6 with
  | some r => (((List.range (r.length / 22)).map (fun i => sub r (22 * i) 22)).find? (fun e => sub e 0 16 == serial && fieldAt e 16 4 == number)).elim 0 (fun e => fieldAt e 20 2)
  | none => 0

/-- The slice width. -/
def State.sliceWidth (s : State) : Nat := match s.slice with | some e => e.width | none => 0

/-- A pixel's record is written into both sets (R355). -/
def State.writeBoth (s : State) (idx : Nat) (r : List Byte) : State :=
  s.on (fun io => (io.writeDram (s.recordBase 0 idx) r).writeDram (s.recordBase 1 idx) r)

/-- R338, R339, R395: the records of a board's pixels are derived and written into both sets; uncorrectable pixels are counted, with
event 328. -/
def State.deriveBoard (s : State) (b : Nat) (bins : List Byte) (chs : List Channel) : State :=
  let w := s.boardW b
  (List.range (w * s.boardH b)).foldl (fun s px =>
    let x := s.boardX b + px % max 1 w
    let y := s.boardY b + px / max 1 w
    let idx := y * s.sliceWidth + x
    match s.deriveRecord (sub bins (18 * px) 18) b (s.pixelFlags b (3 * px) chs) with
    | some r => s.writeBoth idx r
    | none => ((s.writeBoth idx (darkRecord b)).bumpF Fld.LMP_UNCORRECTABLE).on (·.fireObj 328 (some (s.decodeRegion 0 (y / 8))) 0 (leBytes 2 x ++ leBytes 2 y))) s

/-- R341, R346, R347, R393: each lamp's integral is restored unless it is kept, its gain starts at G*, and its dither word at its
seed. -/
def State.restoreLamps (s : State) (b : Nat) (reads : List (Nat × List Byte)) (h : List Byte) (model : Option (List Byte)) (keep : Bool) : State :=
  let lamps := 3 * s.boardW b * s.boardH b
  let chunks := (List.range (ceilDiv lamps 2022)).map (chunkCopy reads h lamps)
  let s := if !keep && chunks.any (·.isNone) then s.on (·.fireObj 395 (some (s.boardBus b / 4)) b) else s
  (s.boardLamps b).foldl (fun s l =>
    let (i, x, y, c) := l
    let idx := y * s.sliceWidth + x
    let old := leNat (s.io.readDram (s.wearAddr x y c) 8)
    let wear := if keep then old else match chunks.getD (i / 2022) none with | some k => chunkWear k i | none => 0
    let g := match model with | some m => (targetGain (efficiency m c wear) (s.getF Fld.LMP_GAIN_CFG_GMAX)).1 | none => 16384
    s.on (fun io => ((io.writeDram (s.wearAddr x y c) (leBytes 8 wear)).writeDram (s.getF Fld.LMP_BASE_GAIN * 4096 + 6 * idx + 2 * c) (leBytes 2 g)).writeDram
      (s.getF Fld.LMP_BASE_DITHER * 4096 + 12 * idx + 4 * c) (leBytes 4 (ditherSeed x y c)))) s

/-- The groups that serve a board's ports. -/
def State.boardGroups (s : State) (b : Nat) : List Nat :=
  ((List.range (s.boardPorts b)).map (fun p => (s.boardPort b + p) / 8)).eraseDups

/-- A driver group. -/
def State.group (s : State) (g : Nat) : Group := (s.lamp.groups.find? (·.group == g)).getD { group := g }

/-- A driver group replaced. -/
def State.setGroup (s : State) (g : Group) : State :=
  s.onLamp (fun m => { m with groups := g :: m.groups.filter (·.group != g.group) })

/-- R399, log 32: the inventory record of a named slot: serial, maker and type; event 387 where the serial changes. -/
def State.inventory (s : State) (b : Nat) (h : List Byte) : State :=
  let old := (s.record 8).getD (zeros (48 * 64))
  let was := sub old (48 * b) 16
  let now := sub h 0x28 16
  if was = now then s
  else
    let new := sub old 0 (48 * b) ++ now ++ sub h 8 16 ++ sub h 0x18 16 ++ sub old (48 * b + 48) (48 * (63 - b))
    let s := s.queueRecord 8 new
    if was = zeros 16 then s else s.on (·.fireObj 387 (some (s.boardBus b / 4)) b)

/-- A board is rejected (R395). -/
def State.rejectBoard (s : State) (b reason : Nat) : State :=
  let s := (s.boardState b 2).setF (Fld.LBD_BOARD_STAT_REASON b) reason
  let s := if reason = 5 then s.bumpF Fld.LBD_SIG_FAIL else s
  s.on (·.fireObj 386 (some (s.boardBus b / 4)) b [BitVec.ofNat 8 reason])

/-- A bus transaction has failed twice (R393, R395). -/
def State.busError (s : State) (bus : Nat) : State :=
  (s.bumpF (Fld.LBD_BUS_ERR (bus / 4) (bus % 4))).on (·.fireOnce bus { event := 397, region := some (bus / 4), obj := bus % 4 })

/-- The memory traffic of a board's records and wear integrals, line by line, in the MGT class (R134). -/
def State.boardOps (s : State) (b : Nat) (attach : Bool) : State :=
  let n := s.boardBus b / 4
  let w := s.boardW b
  (List.range (s.boardH b)).foldl (fun s j =>
    let idx := (s.boardY b + j) * s.sliceWidth + s.boardX b
    let s := s.unitOps n 255 2 (s.getF Fld.LMP_BASE_WEAR * 4096 + 24 * idx) attach (24 * w)
    if !attach then s
    else
      let s := (s.unitOps n 255 2 (s.recordBase 0 idx) true (32 * w)).unitOps n 255 2 (s.recordBase 1 idx) true (32 * w)
      (s.unitOps n 255 2 (s.getF Fld.LMP_BASE_GAIN * 4096 + 6 * idx) true (6 * w)).unitOps n 255 2 (s.getF Fld.LMP_BASE_DITHER * 4096 + 12 * idx) true (12 * w)) s

/-- R395, R396: the board attaches: steps 3 to 6. -/
def State.attachBoard (s : State) (b : Nat) (reads : List (Nat × List Byte)) : State :=
  let h := memBytes reads 0 0x400
  let serial := sub h 0x28 16
  let x := s.board b
  let life := memBytes reads (fieldAt h 0x44 4) 832
  let model := if modelValid life then some life else none
  let s := s.setF (Fld.LBD_BOARD_STAT_MODEL_INVALID b) (flag model.isNone)
  let s := if model.isNone then s.on (·.fireObj 330 (some (s.boardBus b / 4)) b) else s
  let copy := s.faultCopyOf b reads h
  let chs := (s.boardChannels b).zipIdx.map (fun (p : Channel × Nat) =>
    let st := match copy with | some (_, c) => fieldAt c (32 + p.2) 1 % 8 | none => 0
    { p.1 with state := if st = 2 ∨ st = 3 then st else 0, minutes := s.recordedMinutes serial p.1.number })
  let s := s.restoreLamps b reads h model (x.kept == some serial)
  let lamps := 3 * s.boardW b * s.boardH b
  let s := (s.deriveBoard b (memBytes reads (fieldAt h 0x40 4) (6 * lamps)) chs).boardOps b true
  let s := s.setBoard { x with header := h, model := model, channels := chs, kept := some serial, seq := lastPass reads h lamps,
                               faultSeq := match copy with | some (_, c) => fieldAt c 0 4 | none => 0,
                               faultCopy := match copy with | some (i, _) => i | none => 1, weak := false, fired := [], releasing := false, dirty := false }
  let s := (s.boardGroups b).foldl (fun s g => s.setGroup { s.group g with init := true }) s
  let s := (List.range 4).foldl (fun s i => s.setF (Fld.LBD_BOARD_SERIAL b i) (fieldAt serial (4 * i) 4)) s
  let s := ((s.setF (Fld.LBD_BOARD_STAT_SENSOR b) (flag (bit (fieldAt h 7 1) 0))).setF (Fld.LBD_BOARD_STAT_SENSOR_FAULT b) 0).setF (Fld.LBD_BOARD_STAT_REASON b) 0
  let s := ((s.boardState b 3).inventory b h).reportBoard b
  s.on (·.fireObj 384 (some (s.boardBus b / 4)) b)

/-- R395: the reads of a board's attach are complete (the areas read, as offset and bytes), or a transaction has failed twice. -/
def execAttachReadsDone (board : Nat) (reads : Option (List (Nat × List Byte))) (s : State) : Result :=
  .next (
    if s.getF (Fld.LBD_BOARD_STAT_STATE board) ≠ 1 ∨ s.boardCount ≤ board then s
    else match reads with
      | none => ((s.boardReads 2).busError (s.boardBus board)).rejectBoard board 6
      | some r =>
        let s := s.boardReads r.length
        match s.rejectReason board r with
        | 0 => s.attachBoard board r
        | k => s.rejectBoard board k)

/-! ### Sensors -/

/-- R388: a board's sensor is read: 16 bits in units of 1/128 °C. -/
def execSensorRead (board value : Nat) (s : State) : Result :=
  .next (
    if s.getF (Fld.LBD_BOARD_STAT_STATE board) ≠ 3 ∨ !s.isF (Fld.LBD_BOARD_STAT_SENSOR board) then s
    else
      let s := s.boardReads 1
      let t := signed 16 value
      if -5120 ≤ t ∧ t ≤ 19200 then
        let s := (s.setF (Fld.LBD_BOARD_TEMP board) (value % 2 ^ 16)).setF (Fld.LBD_BOARD_STAT_SENSOR_FAULT board) 0
        s.onTherm (fun m => { m with sensors := (board, t) :: m.sensors.filter (·.1 != board) })
      else
        let s := s.setF (Fld.LBD_BOARD_STAT_SENSOR_FAULT board) 1
        let s := s.onTherm (fun m => { m with sensors := m.sensors.filter (·.1 != board) })
        let x := s.board board
        if x.fired.contains 396 then s
        else (s.setBoard { x with fired := 396 :: x.fired }).on (·.fireObj 396 (some (s.boardBus board / 4)) board))

/-! ### Store passes -/

/-- The integrals of a board's lamps, in lamp order. -/
def State.boardWear (s : State) (b : Nat) : List Nat := (s.boardLamps b).map (fun l => leNat (s.io.readDram (s.wearAddr l.2.1 l.2.2.1 l.2.2.2) 8))

/-- The least s of R392 for a spread. -/
def chunkShift (d : Nat) : Nat := ((List.range 33).find? (fun s => decide (d / 2 ^ (s + 16) ≤ 65535))).getD 32

/-- The bytes of a wear chunk (R392) from the integrals it covers. -/
def chunkBytes (seq k : Nat) (ws : List Nat) : List Byte :=
  let col := fun (c : Nat) => (ws.zipIdx.filter (fun p => decide (p.2 % 3 = c))).map (·.1)
  let base := [0, 1, 2].map (fun c => match col c with | [] => 0 | w :: t => t.foldl min w)
  let sh := [0, 1, 2].map (fun c => chunkShift ((col c).foldl max 0 - nth base c))
  let ofs := ws.zipIdx.flatMap (fun p => leBytes 2 ((p.1 - nth base (p.2 % 3)) / 2 ^ (nth sh (p.2 % 3) + 16)))
  let head := leBytes 4 seq ++ leBytes 4 (2022 * k) ++ leBytes 2 ws.length ++ sh.flatMap (leBytes 1) ++ zeros 3 ++ base.flatMap (leBytes 8) ++ zeros 4
  let body := ofs ++ zeros (4044 - ofs.length)
  head ++ leBytes 4 (crc32 (head ++ body)) ++ body ++ zeros 4

/-- The number of a board's wear chunks (R391). -/
def State.chunkCount (s : State) (b : Nat) : Nat := ceilDiv (3 * s.boardW b * s.boardH b) 2022

/-- The pass that a bus runs. -/
def State.busPass (s : State) (bus : Nat) : Option StorePass := s.lamp.passes.find? (fun p => s.boardBus p.board == bus)

/-- A pass replaced. -/
def State.setPass (s : State) (p : StorePass) : State :=
  s.onLamp (fun m => { m with passes := m.passes.map (fun x => if x.board = p.board ∧ x.why = p.why then p else x) })

/-- A fault copy of a board is written (R394, R400): to the other copy, under the next RSEQ. -/
def State.writeFaultCopy (s : State) (b : Nat) : State :=
  let x := s.board b
  let n := x.channels.length
  let fc := ceilDiv (32 + n) 4096 * 4096
  let seq := (x.faultSeq + 1) % 2 ^ 32
  let i := 1 - x.faultCopy
  let head := leBytes 4 seq ++ leBytes 4 n ++ zeros 20
  let body := x.channels.flatMap (fun c => leBytes 1 c.state)
  let s := s.setBoard { x with faultSeq := seq, faultCopy := i, dirty := false }
  s.boardWrite b (fieldAt x.header 0x50 4 + i * fc) (head ++ leBytes 4 (crc32 (head ++ body)) ++ body)

/-- LBD_BUS_STAT.PASS follows the passes of a bus. -/
def State.reportPass (s : State) (bus : Nat) : State := s.setF (Fld.LBD_BUS_STAT_PASS (bus / 4) (bus % 4)) (flag (s.busPass bus).isSome)

/-- The bus goes on with its first pass: the next chunk's journal write starts, or, after the last chunk, the fault copy's. -/
def State.runPass (s : State) (bus : Nat) : State :=
  let s := s.reportPass bus
  match s.busPass bus with
  | none => s
  | some p =>
    if !p.bytes.isEmpty then s
    else if p.chunk < s.chunkCount p.board then
      let bs := chunkBytes p.seq p.chunk (((s.boardWear p.board).drop (2022 * p.chunk)).take 2022)
      ((if p.chunk = 0 then s.boardOps p.board false else s).setPass { p with bytes := bs, inPlace := false, failed := false }).boardWrite p.board (fieldAt (s.board p.board).header 0x4C 4) bs
    else s

/-- A pass of a board joins its bus's queue, ahead of the others where `first`. -/
def State.queuePass (s : State) (b why : Nat) (first : Bool) : State :=
  let x := s.board b
  let seq := (x.seq + 1) % 2 ^ 32
  let p : StorePass := { board := b, why := why, seq := seq, chunk := 0, inPlace := false, failed := false, bytes := [] }
  let s := s.setBoard { x with seq := seq }
  let s := s.onLamp (fun m =>
    if first then
      let busy := m.passes.filter (fun q => !q.bytes.isEmpty && s.boardBus q.board == s.boardBus b)
      let rest := m.passes.filter (fun q => !(!q.bytes.isEmpty && s.boardBus q.board == s.boardBus b))
      { m with passes := busy ++ [p] ++ rest }
    else { m with passes := m.passes ++ [p] })
  s.runPass (s.boardBus b)

/-- R400: the store timer starts a pass for every LIT board that has none. -/
def execWearStoreTimer (s : State) : Result :=
  .next ((s.litBoards.filter (fun b => !s.lamp.passes.any (·.board == b))).foldl (fun s b => s.queuePass b 0 false) s)

/-- A pass goes on to its next chunk; an abandoned one (why 9) ends (R400). -/
def State.nextChunk (s : State) (p : StorePass) : State :=
  if p.why = 9 then s.onLamp (fun m => { m with passes := eraseFirst (fun q => q == p) m.passes })
  else s.setPass { p with chunk := p.chunk + 1, bytes := [] }

/-- R393: the journal write or in-place write of the chunk in progress on a bus has been read back: it holds, or it differs. -/
def execChunkWriteDone (bus : Nat) (ok : Bool) (s : State) : Result :=
  .next (match s.busPass bus with
    | none => s
    | some p =>
      if p.bytes.isEmpty then s
      else
        let s := s.boardReads 1
        let h := (s.board p.board).header
        let home := fieldAt h 0x48 4 + 4096 * p.chunk
        if ok then
          if p.inPlace then ((s.nextChunk p).bumpF Fld.LBD_WEAR_WRITES).runPass bus
          else (s.setPass { p with inPlace := true, failed := false }).boardWrite p.board home p.bytes
        else if !p.failed then
          (s.setPass { p with failed := true }).boardWrite p.board (if p.inPlace then home else fieldAt h 0x4C 4) p.bytes
        else
          let s := (s.busError bus).on (·.fireObj 395 (some (bus / 4)) p.board)
          (s.nextChunk p).runPass bus)

/-- The RTYPE 0x0006 record (R412, log 32): serial, channel number and unverified time of every UNVERIFIED channel of a LIT board, one whose
release is in progress among them. -/
def State.unverifiedRecord (s : State) : List Byte :=
  (((List.range 64).filter (fun b => s.getF (Fld.LBD_BOARD_STAT_STATE b) == 3)).filterMap s.boardOf).flatMap (fun b => (b.channels.filter (fun c => decide (c.minutes ≠ 0))).flatMap (fun c =>
    sub b.header 0x28 16 ++ leBytes 4 c.number ++ leBytes 2 c.minutes))

/-- R398, R400: the chunks of a bus's pass are done; its fault copy is written, and a release is complete. -/
def execStorePassDone (bus : Nat) (s : State) : Result :=
  .next (match s.busPass bus with
    | none => s
    | some p =>
      if !p.bytes.isEmpty ∨ p.chunk < s.chunkCount p.board then s
      else
        let s := s.writeFaultCopy p.board
        let s := s.onLamp (fun m => { m with passes := eraseFirst (fun q => q == p) m.passes })
        let s := if p.why = 1 then
            let s := (s.queueRecord 6 s.unverifiedRecord).boardState p.board 4
            let s := s.setF (Fld.LBD_BOARD_STAT_LIFE_WARN p.board) 0
            (s.setBoard { s.board p.board with releasing := false, kept := none }).on (·.fireObj 388 (some (bus / 4)) p.board)
          else s
        s.runPass bus)

/-- R400: a fault copy alone is written after a change of OPEN or SHORT. -/
def execFaultCopyWrite (board : Nat) (s : State) : Result :=
  .next (if s.litBoards.contains board && (s.board board).dirty then s.writeFaultCopy board else s)

/-- R398: a write of BOARD and RELEASE to LBD_TEST. -/
def State.releaseBoard (s : State) (b : Nat) : State :=
  if s.litBoards.contains b then (s.setBoard { s.board b with releasing := true }).queuePass b 1 true else s

/-- R400: a controlled shutdown abandons the passes and runs one of every LIT board. -/
def State.shutdownPasses (s : State) : State :=
  let lit := s.litBoards
  let kept := (s.lamp.passes.filter (fun p => p.why == 1 || !p.bytes.isEmpty)).map (fun (p : StorePass) => if p.why = 1 then p else { p with why := 9 })
  let s := s.onLamp (fun m => { m with passes := kept })
  lit.foldl (fun s b => s.queuePass b 2 false) s

end Sys2Proof.Machine
end

