-- ==== Sys2Proof/Machine/Driver.lean ====
section
/-! DEFINITION. The driver link and scan-out (R360 to R385), channel diagnosis and Grey pulses (R401 to R412), and the blends that
carry fault actions (R355, R405). -/

namespace Sys2Proof.Machine

/-! ### Channels change state -/

/-- A board's channels replaced. -/
def State.mapChannels (s : State) (b : Nat) (f : Channel → Channel) : State :=
  match s.boardOf b with
  | some x => s.setBoard { x with channels := x.channels.map f }
  | none => s

/-- A channel replaced. -/
def State.setChannel (s : State) (c : Channel) : State := s.mapChannels c.board (fun x => if x.number = c.number then c else x)

/-- The region of a channel's port. -/
def State.channelRegion (s : State) (c : Channel) : Nat := (s.boardPort c.board + c.port) / 96

/-- A channel enters a state (R404): its event, the fault log, and the change that waits for a blend (R405). -/
def State.enterChannel (s : State) (c : Channel) (st : Nat) : State :=
  let old := c.state
  let s := s.setChannel { c with state := st }
  let s := match s.boardOf c.board with
    | some x => if old = 2 ∨ old = 3 ∨ st = 2 ∨ st = 3 then s.setBoard { x with dirty := true } else s
    | none => s
  let s := if s.channelAction old = s.channelAction st then s else s.onLamp (fun m => { m with changes := m.changes ++ [c.number] })
  let s := match st with
    | 2 => (s.faultLog c 1).on (·.fireObj 390 (some (s.channelRegion c)) c.board)
    | 3 => (s.faultLog c 2).on (·.fireObj 391 (some (s.channelRegion c)) c.board)
    | 1 => if old = 0 then s else (s.faultLog c 3).on (·.fireObj 392 (some (s.channelRegion c)) c.board)
    | _ => s.faultLog c 3
  s.reportBoard c.board

/-- GREY_AFTER (R413). -/
def State.greyAfter (s : State) : Nat := max 1 (s.getF Fld.LBD_CFG_GREY_AFTER)

/-- R411: whether a channel is UNVERIFIED follows its class and UNMEAS; event 393 and a log entry where it becomes so. -/
def State.checkUnverified (s : State) (c : Channel) : State :=
  let now := decide (c.cls ≠ 0) && decide (s.greyAfter ≤ c.unmeas) && (s.underOff c || (!s.isF Fld.LBD_CFG_DIAG_BLACK && decide (c.cls = 1)))
  let s := s.setChannel { c with unverified := now }
  if now && !c.unverified then
    let s := s.faultLog c 4
    if s.lamp.unverified.contains c.board then s
    else (s.onLamp (fun m => { m with unverified := c.board :: m.unverified })).on (·.fireObj 393 (some (s.channelRegion c)) c.board)
  else s

/-- The code and darkness of a lamp in a frame, where its row yielded new values. -/
def State.lampCode (s : State) (frame w x y c : Nat) : Option (Nat × Bool) :=
  match s.lamp.rows.find? (fun r => r.frame == frame && r.row == y / 8 && r.ok) with
  | some r => let i := 3 * (y % 8 * w + x) + c; some (nth r.codes i, r.dark.getD i false)
  | none => none

/-- The class of a channel in a completed frame (R402). A lamp in a row without new values leaves its channel LOW. -/
def State.channelClass (s : State) (w frame : Nat) (c : Channel) : Nat :=
  let lamps := (s.boardLamps c.board).filter (fun l => s.lampChannel c.board l.1 == some c.number)
  let seen := lamps.map (fun l => s.lampCode frame w l.2.1 l.2.2.1 l.2.2.2)
  let code := s.greyCode (s.groupProfile ((s.boardPort c.board + c.port) / 8))
  if seen.all (fun o => match o with | some (v, _) => decide (code ≤ v) | none => false) then 0
  else if seen.any (fun o => match o with | some (_, d) => d | none => false) then 1 else 2

/-- R402, R411: the lamp cells have completed a frame: its channels are classified. -/
def State.classifyFrame (s : State) (w frame : Nat) : State :=
  s.litBoards.foldl (fun s b =>
    let chs := (s.board b).channels.filter (s.diagnosed b)
    (chs.foldl (fun s c =>
      let k := s.channelClass w frame c
      let c := if k = 0 then { c with cls := 0, measured := c.measured ++ [frame] } else { c with cls := k, unmeas := min 65535 (c.unmeas + 1) }
      s.checkUnverified c) s).reportBoard b) s

/-- R332, R340: a lamp-pipeline slot runs; once every row of its frame is done, the channels are classified (R402). -/
def execLampPipelineSlot (region slot : Nat) (late : Bool) (s : State) : Result :=
  .next (match s.slice with
    | none => s
    | some e =>
      let frame := if late then s.io.tick else s.io.tick + 1
      let done := fun (s : State) => decide ((s.lamp.rows.filter (fun r => r.frame == frame)).length = e.rows)
      let s' := s.lampSlot region slot late
      if !done s && done s' then s'.classifyFrame e.width frame else s')

/-! ### Read-outs -/

/-- The open and short flags of a driver's channel in the bits of a port (R380). -/
def readoutFlags (nd ch bits_ d c : Nat) : Bool × Bool :=
  let base := (nd - 1 - d) * 2 * ch
  (bit bits_ (base + c), bit bits_ (base + ch + c))

/-- R404: one applied read-out of a channel. -/
def State.applyReadout (s : State) (c : Channel) (op sh : Bool) : State :=
  let c := { c with unmeas := 0, unverified := false, minutes := 0, shortRun := if sh then c.shortRun + 1 else 0,
                    openRun := if op && !sh then c.openRun + 1 else 0, clearRun := if !op && !sh then c.clearRun + 1 else 0 }
  let s := s.setChannel c
  let isShort := decide (max 1 (s.getF Fld.LBD_FAULT_CFG_SHORT_CONFIRM) ≤ c.shortRun)
  let isOpen := decide (max 1 (s.getF Fld.LBD_FAULT_CFG_OPEN_CONFIRM) ≤ c.openRun)
  let clear := decide (max 1 (s.getF Fld.LBD_FAULT_CFG_CLEAR_CONFIRM) ≤ c.clearRun)
  if c.state ≤ 1 then
    if isShort then s.enterChannel c 3
    else if isOpen then s.enterChannel c 2
    else if c.state = 0 && !op && !sh then s.enterChannel c 1
    else s
  else if c.state = 2 ∧ isShort then s.enterChannel c 3
  else if clear then s.enterChannel c 1
  else s

/-- A lamp row of a group's ports yielded no new values in a frame (R403). -/
def State.groupRowFailed (s : State) (g frame : Nat) : Bool :=
  let w := s.sliceWidth
  (s.lamp.rows.filter (fun r => r.frame == frame && !r.ok)).any (fun r =>
    (List.range 8).any (fun j => (List.range w).any (fun x => [0, 1, 2].any (fun c =>
      match s.lampPlace x (8 * r.row + j) c with | some p => p.port / 8 == g | none => false))))

/-- R403: the read-out after the load of frame `j` is applied to, or discarded for, the frame that lit at j − 1; `lost`: a cut has taken it. -/
def State.readout (s : State) (g j : Nat) (status : List Nat) (lost : Bool) : State :=
  let f := j - 1
  let drop := lost || s.lamp.spoiled.contains (g, f) || s.groupRowFailed g f
  let s := if drop then s.bumpF (Fld.LBD_READOUTS_DISCARDED (g / 12)) else s
  let nd := s.groupNd g
  let ch := s.channels (s.groupProfile g)
  let lit := match s.latchOf f with | some l => l.lit | none => []
  s.lamp.boards.foldl (fun s b =>
    (b.channels.filter (fun c => (s.boardPort b.index + c.port) / 8 == g && c.measured.contains f)).foldl (fun s c =>
      let c := { c with measured := c.measured.filter (· != f) }
      if drop || !s.litBoards.contains b.index || !lit.contains b.index then s.setChannel { c with unmeas := min 65535 (c.unmeas + 1) }
      else
        let port := s.boardPort b.index + c.port
        let i := ((s.groupPorts g).takeWhile (· != port)).length
        let (op, sh) := readoutFlags nd ch (nth status i) c.driver c.chan
        (s.setChannel c).applyReadout c op sh) (s.reportBoard b.index)) s

/-! ### Loads -/

/-- The words of one port in a row group of a source, in the order in which they are shifted (R370). -/
def State.shiftWords (s : State) (base p nd ch lines r : Nat) : List Nat :=
  (List.range lines).flatMap (fun k => (List.range ch).flatMap (fun c => (List.range nd).map (fun i =>
    let w := ((r * lines + k) * ch + c) * nd + (nd - 1 - i)
    fieldAt (s.io.readDram (base + p * 0xC000 + 2 * w) 2) 0 2 % 2 ^ s.wordBits (s.groupProfile (p / 8)))))

/-- GC_WRITE and CONFIG_WRITE (R370, R372). -/
def State.writeConfig (s : State) (g : Nat) : State := (s.emit (.driverCmd g 4 (s.profileAt (s.groupProfile g) 16 2))).emit
  (.driverCmd g 5 (s.profileAt (s.groupProfile g) 18 2 + 2 ^ 16 * s.profileAt (s.groupProfile g) 20 2))

/-- The row groups of a group's load. -/
def State.rowGroups (s : State) (g : Nat) : Nat := s.scanLines (s.groupProfile g) / max 1 (s.groupLines (s.groupProfile g))

/-- A driver cell's fault has left a row group to be sent as 0 (R523, R524). -/
def State.driverFailed (s : State) (g r frame : Nat) : Bool :=
  s.video.bad.any (fun x => x.region == g / 12 && x.block == 5 && x.chain == g && x.row == r && decide (frame ≤ x.tick + 1 ∧ x.tick ≤ frame) && x.failed)

/-- R370, R373, R378: one row group of a load. -/
def State.loadRowGroup (s : State) (g frame r : Nat) (bad : Bool) : State :=
  let n := g / 12
  let l := g % 12
  let use := s.isF Fld.SCN_FRAME_ADDR_USE
  let base := s.getF Fld.SCN_FRAME_ADDR_BASE * 4096
  let range := use && (s.groupPorts g).any (fun p => s.io.beyond (base + p * 0xC000) 0xC000)
  let s := if range then (s.bumpF Fld.SCN_RANGE_ERR).on (·.fireObj 357 (some n) g) else s
  let fromBase := use && !range
  let s := if fromBase then s.on (·.fireOnce 0 { event := 358, region := some n, obj := g }) else s
  let src := if fromBase then base else (if frame % 2 = 0 then s.getF Fld.SCN_PIPE_BASE0 else s.getF Fld.SCN_PIPE_BASE1) * 4096
  let p := s.groupProfile g
  let s := if bad then (s.bumpF (Fld.DRV_FETCH_FAIL n l)).on (·.fireObj 361 (some n) g) else s
  let bad := bad || s.driverFailed g r frame
  let k := s.groupLines p * s.channels p * s.groupNd g
  let s := (s.groupPorts g).foldl (fun s port => s.unitOps n (13 + l) 0 (src + port * 0xC000 + 2 * r * k) false (2 * k)) s
  let s := (s.groupPorts g).foldl (fun s port =>
    let ws := s.shiftWords src port (s.groupNd g) (s.channels p) (s.groupLines p) r
    s.emit (.driver g port (if bad then ws.map (fun _ => 0) else ws))) s
  let s := s.emit (.driverCmd g 0 (s.groupLines p * s.channels p))
  let s := (s.setF (Fld.DRV_GROUP_STAT_ROW_GROUP n l) r).setF (Fld.DRV_GROUP_STAT_FROM_BASE n l) (flag fromBase)
  let s := s.setGroup { s.group g with next := r + 1, fromBase := (s.group g).fromBase || fromBase, range := (s.group g).range || range }
  if fromBase then s.onLamp (fun m => { m with spoiled := if m.spoiled.contains (g, frame) then m.spoiled else (g, frame) :: m.spoiled }) else s

/-- A load begins (R370, R372): the group's first one puts it in service, with event 360. -/
def State.startLoad (s : State) (g frame : Nat) : State :=
  let n := g / 12
  let l := g % 12
  let x := s.group g
  let s := if s.getF (Fld.DRV_GROUP_STAT_STATE n l) = 2 then s else (s.setF (Fld.DRV_GROUP_STAT_STATE n l) 2).on (·.fireObj 360 (some n) g)
  let s := if x.init then s.writeConfig g else s
  let s := s.setGroup { x with frame := frame, next := 0, fromBase := false, range := false, init := false, waiting := none }
  let s := s.setF (Fld.DRV_GROUP_STAT_LOADING n l) 1
  if s.cmdCycles (s.groupProfile g) 1 = 0 then s else s.emit (.driverCmd g 1 0)

/-- After the last row group (R370): the status read-out, and every 256 frames the configuration. -/
def State.endLoad (s : State) (g frame : Nat) (status : List Nat) : State :=
  let n := g / 12
  let l := g % 12
  let x := s.group g
  let s := if s.statusEn (s.groupProfile g) then
      ((s.emit (.driverCmd g 3 0)).bumpF (Fld.DRV_STATUS_READS n l)).readout g frame status false
    else s
  let s := if frame % 256 = 0 then s.writeConfig g else s
  let s := (s.setF (Fld.DRV_GROUP_STAT_LOADING n l) 0).bumpF (Fld.DRV_LOADS n l)
  (s.setF Fld.SCN_STAT_FROM_BASE (flag x.fromBase)).setF Fld.SCN_STAT_RANGE (flag x.range)

/-- What is written to SCN_FRAME_ADDR before a row group starts, while its slot runs (R378). -/
def State.frameWrites (s : State) (i : LoadInput) (r : Nat) : State :=
  (i.writes.filter (fun w => w.1 == r)).foldl (fun s w => s.on (·.setReg Reg.SCN_FRAME_ADDR w.2)) s

/-- The row groups of one slot are loaded, from the one that comes next in the load to the last before a cut (R370, R375). -/
def State.loadSlot (s : State) (g frame first count : Nat) (i : LoadInput) : State :=
  let s := if first = 0 then s.startLoad g frame else s
  if (s.group g).frame ≠ frame ∨ (s.group g).next ≠ first then s
  else
    let count := min count i.loads
    let s := ((List.range count).map (first + ·)).foldl (fun s r => (s.frameWrites i r).loadRowGroup g frame r (i.failed.contains r)) s
    let s := if i.pinBits = 0 then s
      else
        let x := s.group g
        ((s.setGroup { x with pins := Nat.lor x.pins i.pins }).bumpF (Fld.DRV_RB_ERR (g / 12) (g % 12)) i.pinBits).on
          (·.fireOnce g { event := 354, region := some (g / 12), obj := g })
    if s.rowGroups g ≤ first + count then s.endLoad g frame i.status else s

/-- The frame that a load slot of the period loads (R371). -/
def State.loadFrame (s : State) (sl : Slot) (late : Bool) : Nat :=
  (if sl.nomStart < (s.rset s.rateSet).decodeLead then s.io.tick else s.io.tick + 1) - (if late then 1 else 0)

/-- The driver groups of a region issue no load and no SYNC: their block or the lamp block is stopped (R525). -/
def State.driversStopped (s : State) (n : Nat) : Bool := s.blockStopped n 5 || s.blockStopped n 4

/-- R370, R371, R377: a driver-load slot runs; a SELF_REFRESH load waits for TE before its first row group. -/
def execDriverLoadSlot (region slot : Nat) (late : Bool) (input : LoadInput) (s : State) : Result :=
  .next (match s.dueSlot region slot with
    | none => s
    | some sl =>
      let g := 12 * region + (sl.lane - 13)
      let frame := s.loadFrame sl late
      if sl.kind ≠ 0x06 ∨ sl.lane < 13 ∨ 24 < sl.lane ∨ !s.io.hasLamps ∨ !s.io.operational ∨ !s.groupUsed g ∨ s.boot.power = 2
          ∨ s.video.fenced.contains region ∨ s.driversStopped region ∨ frame ≤ s.video.synced then s
      else
        let s := s.startSlot region slot true late
        let first := bits sl.operand 0 6
        if first = 0 && s.selfRefresh (s.groupProfile g) && s.isF (Fld.DRV_TE_CFG_ENABLE region) then
          s.setGroup { s.group g with waiting := some (slot, input) }
        else s.loadSlot g frame first (bits sl.operand 6 6 + 1) input)

/-- A waiting SELF_REFRESH load starts. -/
def State.teStart (s : State) (g : Nat) : State :=
  match (s.group g).waiting with
  | none => s
  | some (i, input) =>
    match s.slot (g / 12) i with
    | some sl => (s.setGroup { s.group g with waiting := none }).loadSlot g (s.loadFrame sl false) (bits sl.operand 0 6) (bits sl.operand 6 6 + 1) input
    | none => s

/-- The SELF_REFRESH groups of a region in use. -/
def State.teGroups (s : State) (n : Nat) : List Nat :=
  ((List.range 12).map (12 * n + ·)).filter (fun g => s.groupUsed g && s.selfRefresh (s.groupProfile g))

/-- R377: TE n changes level; an active edge starts the waiting loads, and finds a load that is still running. -/
def execTeEdge (region : Nat) (rising : Bool) (s : State) : Result :=
  .next (
    if !s.io.regionActive region then s
    else
      let s := s.setF (Fld.DRV_TE_STAT_LEVEL region) (flag rising)
      if rising == s.isF (Fld.DRV_TE_CFG_POLARITY region) || !s.isF (Fld.DRV_TE_CFG_ENABLE region) then s
      else (s.teGroups region).foldl (fun s g =>
        if (s.group g).waiting.isSome then s.teStart g
        else if s.isF (Fld.DRV_GROUP_STAT_LOADING region (g % 12)) || (s.laneOf region (13 + g % 12)).running.isSome then (s.bumpF (Fld.DRV_TE_OVERRUN region)).on (·.fireObj 356 (some region) g)
        else s) s)

/-- R377: no TE edge within 2 × REFRESH_NS: the load of a group starts then. -/
def execTeTimeout (group : Nat) (s : State) : Result :=
  .next (
    if (s.group group).waiting.isNone then s
    else ((s.teStart group).bumpF (Fld.DRV_TE_MISSING (group / 12))).on (·.fireObj 355 (some (group / 12)) group))

/-! ### The broadcast sync -/

/-- The load slots of a group that have not started when SYNC begins: those from row group `next` on, but for the one that SYNC has cut in its
lane (R375). -/
def State.unstarted (s : State) (g next : Nat) (cut : Option Nat) : List Nat :=
  let t := (s.rset s.rateSet).tables.getD (g / 12) []
  (List.range t.length).filter (fun i => match t[i]? with
    | some sl => sl.kind == 0x06 && sl.lane == 13 + g % 12 && decide (next ≤ bits sl.operand 0 6) && cut != some i
    | none => false)

/-- R95, R375: row groups of frame `t` that are not loaded when SYNC begins are cut, with the load slots that have not started; `cut`: the slot
that SYNC has cut in the group's lane. -/
def State.cutLoad (s : State) (g t : Nat) (cut : Option Nat) : State :=
  let n := g / 12
  let l := g % 12
  let x := s.group g
  let next := if x.frame = t then x.next else 0
  let left := s.rowGroups g - next
  if left = 0 then s
  else
    let s := (s.unstarted g next cut).foldl (fun s i => s.on (fun io => (io.bumpF (Fld.TCK_CUT_COUNT n)).fireObj 40 (some n) 0 (leBytes 2 i))) s
    let s := (s.setGroup { x with frame := t, next := s.rowGroups g, waiting := none }).setF (Fld.DRV_GROUP_STAT_LOADING n l) 0
    let s := if s.statusEn (s.groupProfile g) then s.readout g t [] true else s
    let s := s.onLamp (fun m => { m with spoiled := if m.spoiled.contains (g, t) then m.spoiled else (g, t) :: m.spoiled })
    (s.bumpF (Fld.DRV_CUTS n l) left).on (·.fireObj 353 (some n) g)

/-- The groups that issue SYNC: in service, and not of a fenced region or a stopped driver block (R374, R525, R526). -/
def State.syncGroups (s : State) : List Nat :=
  (List.range 48).filter (fun g => s.getF (Fld.DRV_GROUP_STAT_STATE (g / 12) (g % 12)) == 2 && !s.video.fenced.contains (g / 12) && !s.driversStopped (g / 12))

/-- The pixels of a rectangle that lie in the slice, in ascending line, then column. -/
def rectPixels (e : Position) (r : Nat × Nat × Nat × Nat) : List (Nat × Nat) :=
  (List.range (min (r.2.1 + r.2.2.2) e.height - r.2.1)).flatMap (fun j => (List.range (min (r.1 + r.2.2.1) e.width - r.1)).map (fun i => (r.1 + i, r.2.1 + j)))

/-- R382: the CRC rectangles of the frame that lights. -/
def State.latchCrc (s : State) (t : Nat) : State :=
  match s.latchOf t, s.slice with
  | some l, some e =>
    let live := l.rects.zipIdx.filter (fun p => decide (p.1.2.2.1 ≠ 0 ∧ p.1.2.2.2 ≠ 0))
    let s := live.foldl (fun s p =>
      let codes := (rectPixels e p.1).flatMap (fun q => [0, 1, 2].map (fun c => s.lampCode t e.width q.1 q.2 c))
      let ok := !codes.isEmpty && codes.all (·.isSome)
      let crc := crc32 (codes.flatMap (fun o => leBytes 2 ((o.map (·.1)).getD 0)))
      let s := s.setF (Fld.SCN_CRC_VAL p.2) (if ok then crc else s.getF (Fld.SCN_CRC_VAL p.2))
      (s.setF (Fld.SCN_CRC_TICK_TICK p.2) t).setF (Fld.SCN_CRC_TICK_VALID p.2) (flag ok)) s
    if live.isEmpty then s else s.on (·.fireOnce 0 { event := 359, region := some 0 })
  | _, _ => s

/-- A group issues SYNC for frame `t`: what runs in its lane is cut, and the SYNC slot starts (R95, R374, R375). -/
def State.syncGroup (s : State) (g t : Nat) : State :=
  let n := g / 12
  let lane := 13 + g % 12
  let cut := (s.laneOf n lane).running.map (·.slot)
  (((s.cutLane n lane).startKind n 0x07 lane).cutLoad g t cut).emit (.sync g)

/-- R29, R374: the sync instant of the tick: every group in service issues SYNC, and the frame lights. A load that still runs in the group's
lane is cut (R95, R375). -/
def State.broadcastSync (s : State) : State :=
  let t := s.io.tick
  if !s.io.hasLamps || decide (t ≤ s.video.synced) || s.tick.inGap || decide (s.boot.power = 2) then s
  else
    let gs := s.syncGroups
    let s := gs.foldl (fun s g => s.syncGroup g t) s
    let s := if gs.isEmpty then s
      else [0, 1, 2, 3].foldl (fun s n => if gs.any (fun g => g / 12 == n) then s.on (·.fireIn 352 n) else s) (s.bumpF Fld.DRV_SYNC_COUNT)
    let s := s.onVideo (fun v => { v with synced := t })
    let s := s.latchCrc t
    let s := s.restartSync
    if s.boot.power = 1 && s.boot.dark && decide (s.io.boot = stOPERATIONAL) then
      gs.foldl (fun s g => s.setF (Fld.DRV_GROUP_STAT_STATE (g / 12) (g % 12)) 1) s
    else s

def execBroadcastSync (s : State) : Result := .next s.broadcastSync

/-! ### Grey pulses, retests and blends -/

/-- `l` in descending UNMEAS, then ascending channel number (R409). -/
def insertChannel (x : Channel) : List Channel → List Channel
  | [] => [x]
  | y :: t => if y.unmeas < x.unmeas ∨ (x.unmeas = y.unmeas ∧ x.number < y.number) then x :: y :: t else y :: insertChannel x t

/-- R408, R409: a Grey-pulse window selects channels for the earliest frame none of whose lamp slots has started. -/
def State.greyWindow (s : State) (n i : Nat) : State :=
  match s.dueSlot n i with
  | none => s
  | some sl =>
    if sl.kind ≠ 0x0A ∨ !s.isF Fld.LBD_CFG_GREY_EN ∨ !s.io.hasLamps then s
    else
      let s := s.startSlot n i false
      let t := s.io.tick
      let frame := (([t, t + 1, t + 2].filter (fun f => decide (s.video.synced < f))).find? (fun f => !s.lamp.rows.any (fun r => r.frame == f && s.decodeRegion 0 r.row == n))).getD (t + 2)
      let all := (s.litBoards.filterMap s.boardOf).flatMap (fun b => b.channels.filter (fun c =>
        s.diagnosed b.index c && s.channelRegion c == n && decide (s.greyAfter ≤ c.unmeas) && !s.underOff c
          && (s.isF Fld.LBD_CFG_DIAG_BLACK || c.cls != 1)))
      let chosen := (all.foldl (fun l c => insertChannel c l) []).take (bits sl.operand 0 12)
      let s := s.onLamp (fun m => { m with grey := m.grey ++ chosen.map (fun c => (frame, c.number)) })
      s.bumpF Fld.LBD_GREY_PULSES chosen.length

def execGreyPulseWindow (region slot : Nat) (s : State) : Result := .next (s.greyWindow region slot)

/-- R406: every OPEN and SHORT channel of a LIT board returns to UNKNOWN. -/
def State.retestBoard (s : State) (b : Nat) : State :=
  if !s.litBoards.contains b then s
  else ((s.board b).channels.filter (fun c => decide (c.state = 2 ∨ c.state = 3))).foldl
    (fun s c => s.enterChannel { c with openRun := 0, shortRun := 0, clearRun := 0 } 0) s

/-- R411: a minute of the device timebase passes: the unverified time of every UNVERIFIED channel advances. -/
def execUnverifiedMinute (s : State) : Result :=
  .next (s.litBoards.foldl (fun s b =>
    (s.mapChannels b (fun c => if c.unverified then { c with minutes := min 65535 (c.minutes + 1) } else c)).reportBoard b) s)

/-- One pixel's record in the inactive set, from the active one (R355): FLAGS anew where a channel of its lamps has changed. -/
def State.freshRecord (s : State) (idx x y : Nat) : List Byte :=
  let r := s.io.readDram (s.recordBase (s.getF Fld.LMP_SET_ACTIVE) idx) 32
  match s.boardAt x y with
  | none => r
  | some b =>
    let px := 3 * ((y - s.boardY b) * s.boardW b + (x - s.boardX b))
    let hit := [0, 1, 2].any (fun c => match s.lampChannel b (px + c) with | some k => s.lamp.changes.contains k | none => false)
    if hit && sub r 0 30 != zeros 30 then sub r 0 30 ++ leBytes 2 (s.pixelFlags b px (s.board b).channels + b * 64) else r

/-- R355, R356, R405: firmware completes the inactive set and requests a blend: the channel changes that wait, and the binning
records of lit boards updated in service (slice pixel index and 18 bytes). While a blend runs or waits, the request waits. -/
def State.blendRequest (s : State) (updates : List (Nat × List Byte)) : State :=
  if updates.isEmpty && s.lamp.changes.isEmpty then s
  else if s.isF Fld.LMP_SET_RAMPING || s.isF Fld.LMP_SET_PENDING then s.onLamp (fun m => { m with again := some (m.again.getD [] ++ updates) })
  else match s.slice with
    | none => s
    | some e =>
      let set := 1 - s.getF Fld.LMP_SET_ACTIVE
      let s := (List.range (e.width * e.height)).foldl (fun s i =>
        s.on (·.writeDram (s.recordBase set i) (s.freshRecord i (i % e.width) (i / e.width)))) s
      let s := updates.foldl (fun s u =>
        let x := u.1 % max 1 e.width
        let y := u.1 / max 1 e.width
        match s.boardAt x y with
        | none => s
        | some b =>
          let px := 3 * ((y - s.boardY b) * s.boardW b + (x - s.boardX b))
          match s.deriveRecord u.2 b (s.pixelFlags b px (s.board b).channels) with
          | some r => s.on (·.writeDram (s.recordBase set u.1) r)
          | none => ((s.on (·.writeDram (s.recordBase set u.1) (darkRecord b))).bumpF Fld.LMP_UNCORRECTABLE).on (·.fireObj 328 (some (s.decodeRegion 0 (y / 8))) 0 (leBytes 2 x ++ leBytes 2 y))) s
      (s.onLamp (fun m => { m with changes := [] })).setF Fld.LMP_SET_PENDING 1

/-- A blend request that has waited is made once the running blend has ended (R356). -/
def State.blendAgain (s : State) : State :=
  match s.lamp.again with
  | some u => if s.isF Fld.LMP_SET_RAMPING || s.isF Fld.LMP_SET_PENDING then s else (s.onLamp (fun m => { m with again := none })).blendRequest u
  | none => s

/-- The drivers' part of a numbered tick: DRV_RB_PINS shows the pins that differed in the period that ends (R381), and the groups
in use wait for service (R384); a blend request that has waited is made (R356). -/
def State.driverTick (s : State) : State :=
  if !s.io.hasLamps then s
  else
  let s := s.blendAgain
  (List.range 48).foldl (fun s g =>
    if !s.groupUsed g then s
    else
      let n := g / 12
      let l := g % 12
      let x := s.group g
      let s := (((s.setF (Fld.DRV_RB_PINS_D n l) (x.pins % 256)).setF (Fld.DRV_RB_PINS_K n l) (bits x.pins 8 1)).setF (Fld.DRV_RB_PINS_L n l) (bits x.pins 9 1))
      let s := if x.pins = 0 then s else s.setGroup { x with pins := 0 }
      if s.getF (Fld.DRV_GROUP_STAT_STATE n l) = 0 then s.setF (Fld.DRV_GROUP_STAT_STATE n l) 1 else s) s

def execBlendRequest (updates : List (Nat × List Byte)) (s : State) : Result :=
  .next (if s.io.hasLamps then s.blendRequest updates else s)

/-- R354, R412, R466: an hour of the device timebase passes: the ceiling record where TH or a STAGE differs from the stored one, the
thermal record and the unverified times. -/
def execPersistHourly (s : State) : Result :=
  .next (
    if s.io.boot < stTRAINING ∨ s.io.boot = stUMBER then s
    else
      let new := s.ceilRecord
      let differs := match s.record 4 with | some r => sub r 16 2 != sub new 16 2 || sub r 24 128 != sub new 24 128 | none => true
      let s := if differs || s.wall.changed then s.writeCeiling else s
      let s := s.queueRecord 3 s.thermRecord
      if s.io.hasLamps then s.queueRecord 6 s.unverifiedRecord else s)

end Sys2Proof.Machine
end

