-- ==== Sys2Proof/Machine/Audio.lean ====
section
/-! DEFINITION. Audio (R416 to R435): the wall sample clock, AUDIO packets, AUDIO rings, slot masks, and ports with their converters. -/

namespace Sys2Proof.Machine

/-- An operation on the audio state. -/
def State.onAudio (s : State) (f : AudioState → AudioState) : State := { s with audio := f s.audio }

/-- Image section 0x0007 (R421). -/
def State.aud (s : State) : List Byte := s.sectOr 0x0007

/-- Samples per tick of rate set `i` (R416). -/
def State.sptOf (s : State) (i : Nat) : Nat := fieldAt s.aud (0x08 + 2 * i) 2

/-- The rate set in force at the next numbered tick. -/
def State.nextSet (s : State) : Nat := match s.tick.pending with | p :: _ => p.rateSet | [] => s.rateSet

/-- AUDIO_LEAD in 1/64 ns (R417). -/
def State.audioLead (s : State) : Nat := 256 * s.getF Fld.AUD_LEAD

/-- The wall channels of target `t` (R421). -/
def State.chCount (s : State) (t : Nat) : Nat := if t ≤ 16 then fieldAt s.aud (0x18 + t) 1 else 0

/-- The port entries of section 0x0007. -/
def State.audioEntries (s : State) : List (List Byte) := (List.range (fieldAt s.aud 1 1)).map (fun i => sub s.aud (0x40 + 16 * i) 16)

/-- The entry of a class and port. -/
def State.audioEntry (s : State) (cls port : Nat) : Option (List Byte) :=
  s.audioEntries.find? (fun e => decide (fieldAt e 0 1 = cls ∧ fieldAt e 1 1 = port))

/-- The class whose entries this device uses: 0xFF for a Sender's and a Combined part's own ports, a tile's class otherwise. -/
def State.audioClass (s : State) : Nat :=
  if s.io.isTile then
    match s.positionOf (s.getF Fld.CTL_TILE_ADDR_CHAIN) (s.getF Fld.CTL_TILE_ADDR_POSITION) with
    | some p => p.cls
    | none => 0xFF
  else 0xFF

/-- The target whose channels this device's output ports play (R421). -/
def State.audioTarget (s : State) : Nat := if s.io.isTile then s.getF Fld.CTL_TILE_ADDR_CHAIN else 16

/-- The port blocks are loaded from the entries of a class (R421): configuration and the initial slot mask. -/
def State.loadAudio (s : State) (cls : Nat) : State :=
  (s.audioEntries.filter (fun e => decide (fieldAt e 0 1 = cls))).foldl (fun s e =>
    let p := fieldAt e 1 1
    let (n, i) := (p / 4, p % 4)
    let fl := fieldAt e 2 1
    let w := match fieldAt e 4 1 with | 16 => 0 | 24 => 1 | _ => 2
    s.on fun io =>
      let io := io.setReg (Reg.AUD_PORT_CFG n i) (BitVec.ofNat 32 (1 + 2 * bits fl 0 1 + 4 * bits fl 1 1 + 8 * bits fl 2 2
        + 2 ^ 5 * ((fieldAt e 3 1 - 1) % 32) + 2 ^ 10 * w + 2 ^ 12 * (fieldAt e 5 1 % 32)))
      (io.setF (Fld.AUD_MASK n i) (fieldAt e 8 4)).setF (Fld.AUD_MASK_SHADOW n i) (fieldAt e 8 4)) s

/-! ### Ports -/

/-- The fields of port `p`'s configuration (R434). -/
def State.audEnabled (s : State) (p : Nat) : Bool := s.isF (Fld.AUD_PORT_CFG_ENABLE (p / 4) (p % 4))
def State.audInput (s : State) (p : Nat) : Bool := s.isF (Fld.AUD_PORT_CFG_DIR (p / 4) (p % 4))
def State.audMaster (s : State) (p : Nat) : Bool := s.isF (Fld.AUD_PORT_CFG_MASTER (p / 4) (p % 4))
def State.audSlots (s : State) (p : Nat) : Nat := s.getF (Fld.AUD_PORT_CFG_SLOTS_M1 (p / 4) (p % 4)) + 1
def State.audWidth (s : State) (p : Nat) : Nat := match s.getF (Fld.AUD_PORT_CFG_WIDTH (p / 4) (p % 4)) with | 0 => 16 | 1 => 24 | _ => 32
def State.audMask (s : State) (p : Nat) : Nat := s.getF (Fld.AUD_MASK (p / 4) (p % 4))
def State.audState (s : State) (p : Nat) : Nat := s.getF (Fld.AUD_PORT_STAT_STATE (p / 4) (p % 4))
def State.setAudState (s : State) (p v : Nat) : State := s.setF (Fld.AUD_PORT_STAT_STATE (p / 4) (p % 4)) v

/-- An enabled port that captures (R421). -/
def State.inputPort (s : State) (p : Nat) : Bool := decide (p < 16) && s.audEnabled p && s.audInput p

def State.audPort (s : State) (p : Nat) : AudioPort := (s.audio.ports.find? (·.port == p)).getD { port := p }
def State.setAudPort (s : State) (a : AudioPort) : State := s.onAudio (fun x => { x with ports := x.ports.filter (·.port != a.port) ++ [a] })

/-- An event of a port (R435). -/
def State.fireAud (s : State) (e p : Nat) : State := s.on (·.fireObj e (some (p / 4)) (p % 4))

/-- An event of a PLAY target (R435, R510). -/
def targetOcc (e t : Nat) : Occ := { event := e, region := some (if t < 16 then t / 4 else 0), obj := 0x100 + t }

/-- The set bits of a mask, ascending. -/
def setBits (m n : Nat) : List Nat := (List.range n).filter (bit m)

/-! ### Buffers -/

/-- The frames of a buffer, and the bytes of one of its samples and frames (R424). -/
def AudioBuf.frames (b : AudioBuf) : Nat := fieldAt b.entry 12 4
def AudioBuf.play (b : AudioBuf) : Bool := fieldAt b.entry 0 1 == 0x20
def AudioBuf.dram (b : AudioBuf) : Bool := bit (fieldAt b.entry 24 1) 0
def AudioBuf.fmt (b : AudioBuf) : Nat := if b.play then fieldAt b.entry 11 1 else fieldAt b.entry 26 1
def AudioBuf.bytes (b : AudioBuf) : Nat := if b.fmt = 0 then 2 else 4
def AudioBuf.what (b : AudioBuf) : Nat := fieldAt b.entry 8 1

/-- A buffer completes once its operations have ended (R425): INFO is the wall index of its first sample. -/
def State.endAudio (s : State) (b : AudioBuf) (status detail : Nat) : State :=
  let s := s.onAudio (fun a => { a with plays := a.plays.filter (fun x => !(x.ring == b.ring && x.index == b.index)),
                                        caps := a.caps.filter (fun x => !(x.ring == b.ring && x.index == b.index)) })
  s.on (·.owe { ring := b.ring, index := b.index, entry := b.entry, done := { status := status, detail := detail, info := b.first.getD 0 % 2 ^ 48 } })

/-- A buffer's data access faults (R141): the fault is logged and the buffer completes with STATUS 0x06. -/
def State.audioFault (s : State) (b : AudioBuf) (n lane kind iova : Nat) (write : Bool) : State :=
  let s := s.on (fun io => Io.settle ((io.countFault).logFault n iova kind 1 (if b.dram then 0 else fieldAt b.entry 25 1) lane none write))
  s.endAudio b 0x06 0

/-- A buffer changed in place. -/
def State.setBuf (s : State) (b : AudioBuf) : State :=
  let put := fun (l : List AudioBuf) => l.map (fun x => if x.ring = b.ring ∧ x.index = b.index then b else x)
  s.onAudio (fun a => { a with plays := put a.plays, caps := put a.caps })

/-! ### PLAY -/

/-- The bytes of a frame of a PLAY buffer (R424). -/
def AudioBuf.frameBytes (b : AudioBuf) : Nat := fieldAt b.entry 10 1 * b.bytes

/-- The samples of a frame of a PLAY buffer from its bytes (R424): S16 fills the top 16 bits. -/
def AudioBuf.samples (b : AudioBuf) (bs : List Byte) : List Int :=
  let w := b.bytes
  (List.range (fieldAt b.entry 10 1)).map (fun c => signed (8 * w) (leNat (sub bs (c * w) w)) * (if w = 2 then 65536 else 1))

/-- The next `m` frames of a PLAY buffer are read, in operations of the ISO class (R134, R135): the bytes up to the first fault, and that
fault's kind and address. -/
def State.readPlay (s : State) (mem : HostMem) (region : Nat) (b : AudioBuf) (m : Nat) : State × List Byte × Option (Nat × Nat) :=
  let w := Waiter.entry b.ring b.index
  let a := fieldAt b.entry 16 8 + b.done * b.frameBytes
  let (io, bs, f) := Io.readOps mem w region 1 b.dram (if b.dram then 0 else fieldAt b.entry 25 1) (opsOf a (m * b.frameBytes)) s.io
  ({ s with io := Io.settle (io.completeOwn w) }, bs, f)

/-- One frame of a target: a buffer's channels in their places, the others 0 (R422). -/
def placeFrame (count : Nat) (first : Nat) (xs : List Int) : List Int :=
  (List.range count).map (fun c => if first ≤ c then xs.getD (c - first) 0 else 0)

/-- R425: `n` frames of target `t` from wall index `idx`, out of its buffers in order. A fault ends its buffer at the last whole frame
before it (R141). -/
def State.consume (mem : HostMem) (region lane t : Nat) : Nat → Nat → Nat → State → State × List (List Int)
  | 0, _, _, s => (s, [])
  | fuel + 1, n, idx, s =>
    if n = 0 then (s, [])
    else match s.audio.plays.find? (·.what == t) with
      | none => (s, [])
      | some b =>
        let b := { b with first := some (b.first.getD idx) }
        let (s, bs, f) := s.readPlay mem region b (min n (b.frames - b.done))
        let m := bs.length / b.frameBytes
        let got := (List.range m).map (fun j => placeFrame (s.chCount t) (fieldAt b.entry 9 1) (b.samples (bs.drop (j * b.frameBytes))))
        let b := { b with done := b.done + m }
        let s := s.setBuf b
        let s := match f with
          | some (k, a) => s.audioFault b region lane k a false
          | none => if b.done = b.frames then s.endAudio b 0 0 else s
        let (s, rest) := State.consume mem region lane t fuel (n - m) (idx + m) s
        (s, got ++ rest)

/-- Target `t` runs at tick `k`: as AUD_PLAY_RUN says, changed by the orders that take effect by then (R426). -/
def State.playing (s : State) (t k : Nat) : Bool :=
  s.audio.orders.foldl (fun on o => if o.tick ≤ k ∧ bit (fieldAt o.entry 8 3) t then !o.stop else on) (bit (s.getF Fld.AUD_PLAY_RUN_TARGETS) t)

/-- R422: the AUDIO packet of target `t` for the next tick, from what its buffers hold; a missing sample is 0, with an underrun
(R425). -/
def State.buildAudio (s : State) (mem : HostMem) (region lane t : Nat) : State × List (List Int) :=
  let k := s.io.tick + 1
  let spt := s.sptOf s.nextSet
  let count := s.chCount t
  let s := s.onAudio (fun a => { a with built := a.built ++ [t] })
  if !s.playing t k then (s, List.replicate spt (List.replicate count 0))
  else
    let (s, fs) := State.consume mem region lane t (s.audio.plays.length + 1) spt (k * spt) s
    let s :=
      if fs.length < spt then (s.bumpF (Fld.AUD_UNDERRUN t)).on (·.fireOnce (0x100 + t) (targetOcc 423 t))
      else s
    (s, if s.audio.mute.contains (32 + t, k) then List.replicate spt (List.replicate count 0)
      else fs ++ List.replicate (spt - fs.length) (List.replicate count 0))

/-- The payload of an AUDIO packet (R422). -/
def audioPayload (k count spt : Nat) (fs : List (List Int)) : List Byte :=
  leBytes 6 k ++ leBytes 1 count ++ zeros 1 ++ leBytes 2 spt ++ zeros 2 ++ fs.flatMap (fun f => f.flatMap (fun x => leBytes 4 (unsigned 32 x)))

/-- A pack kept for the ports of this device. -/
def State.keepPack (s : State) (k : Nat) (fs : List (List Int)) : State :=
  s.onAudio (fun a => { a with packets := a.packets.filter (·.tick != k) ++ [{ tick := k, frames := fs }] })

/-- R422, R284: an audio window of a region serves target `target`: the packet for the next tick is built in the target's first
window of the period and sent in its windows; target 16 goes over the on-die path. `aligns` control words fall inside. -/
def execAudioWindow (region slot target aligns : Nat) (mem : HostData) (inFlight : Nat) (s : State) : Result :=
  .next (match s.dueSlot region slot with
    | none => s
    | some sl =>
      if sl.kind ≠ 0x09 ∨ sl.lane < 29 ∨ 32 < sl.lane ∨ !s.io.hasHost ∨ s.chCount target = 0 then s
      else
        let k := s.io.tick + 1
        let s := s.startSlot region slot false
        let s :=
          if s.audio.built.contains target then s
          else
            let (s, fs) := s.buildAudio { mem with inFlight := inFlight } region sl.lane target
            if target = 16 then s.keepPack k fs
            else if !s.transmits target then s
            else
              let bs := packetBytes 0x02 true target 0 (audioPayload k (s.chCount target) fs.length fs)
              s.onAudio (fun a => { a with left := a.left ++ [(target, false, bs)] })
        match s.audio.left.find? (·.1 == target) with
        | none => s
        | some (_, cont, bs) =>
          let room := windowBytes sl.nomDur (s.getF (Fld.LNK_STATE_RATE_NOW (target / 4) (target % 4))) aligns
          let now := bs.take room
          let s := ((s.emit (.control target (sobWord cont))).emit (.packet target now)).emit (.control target (eobWord false (decide (now.length % 8 = 4))))
          s.onAudio (fun a => { a with left := a.left.filter (·.1 != target) ++ (if room < bs.length then [(target, true, bs.drop room)] else []) }))

/-! ### Entries -/

/-- The reserved fields of PLAY (R424). -/
def playFieldsOk (e : List Byte) : Bool :=
  decide (fieldAt e 8 1 ≤ 16 ∧ 1 ≤ fieldAt e 10 1 ∧ fieldAt e 10 1 ≤ 32 ∧ fieldAt e 11 1 < 2 ∧ 1 ≤ fieldAt e 12 4 ∧ fieldAt e 12 4 < 2 ^ 24
    ∧ fieldAt e 24 1 < 2) && allZero e 26 38

/-- R424, R425: a PLAY buffer is queued for its target. -/
def execPlay (ring i : Nat) (s : State) : Result :=
  .next (s.onEntry ring i 0x20 true playFieldsOk fun e s =>
    if s.chCount (fieldAt e 8 1) < fieldAt e 9 1 + fieldAt e 10 1 then s.on (·.answer ring i e { status := 0x01, detail := 1 })
    else
      let s := s.on (·.activate ring i e)
      s.onAudio (fun a => { a with plays := a.plays ++ [{ ring := ring, index := i, entry := e, first := none, done := 0 }] }))

/-- The reserved fields of CAPTURE (R424). -/
def audioCaptureFieldsOk (e : List Byte) : Bool :=
  decide (1 ≤ fieldAt e 12 4 ∧ fieldAt e 12 4 < 2 ^ 24 ∧ fieldAt e 24 1 < 2 ∧ fieldAt e 26 1 < 2)
    && allZero e 9 3 && allZero e 27 37

/-- R424, R425: a CAPTURE buffer is queued for its port. -/
def execAudioCapture (ring i : Nat) (s : State) : Result :=
  .next (s.onEntry ring i 0x21 true audioCaptureFieldsOk fun e s =>
    if !s.inputPort (fieldAt e 8 1) then s.on (·.answer ring i e { status := 0x01, detail := 2 })
    else
      let s := s.on (·.activate ring i e)
      s.onAudio (fun a => { a with caps := a.caps ++ [{ ring := ring, index := i, entry := e, first := none, done := 0 }] }))

/-- The reserved fields of START and STOP (R424). -/
def orderFieldsOk (e : List Byte) : Bool :=
  decide (fieldAt e 8 3 < 2 ^ 17) && allZero e 11 1 && allZero e 14 2 && allZero e 22 42

/-- R426: START or STOP waits for its tick, or takes effect at the next. -/
def State.audioOrder (s : State) (ring i op : Nat) : State :=
  s.onEntry ring i op true orderFieldsOk fun e s =>
    if (setBits (fieldAt e 8 3) 17).any (fun t => decide (s.chCount t = 0)) ∨ (setBits (fieldAt e 12 2) 16).any (fun p => !s.inputPort p) then
      s.on (·.answer ring i e { status := 0x01, detail := 2 })
    else
      let s := s.on (·.activate ring i e)
      s.onAudio (fun a => { a with orders := a.orders ++
        [{ ring := ring, index := i, entry := e, stop := op == 0x24, tick := max (fieldAt e 16 6) (s.io.tick + 1) }] })

def execAudioStart (ring i : Nat) (s : State) : Result := .next (s.audioOrder ring i 0x23)
def execAudioStop (ring i : Nat) (s : State) : Result := .next (s.audioOrder ring i 0x24)

/-! ### Slot masks -/

/-- The reserved fields of MASK (R424). -/
def maskFieldsOk (e : List Byte) : Bool := decide (fieldAt e 8 1 ≤ 16) && allZero e 11 1 && allZero e 16 48

/-- The body of a SLOT_MASK command, before its APPLY is known (R427). -/
def maskBody (cls port mask : Nat) : List Byte := leBytes 1 cls ++ leBytes 1 port ++ leBytes 4 mask ++ zeros 6

/-- The channels of a mask do not fit their target (R427). -/
def State.maskExceeds (s : State) (t base mask : Nat) : Bool := decide (s.chCount t < base + (setBits mask 32).length)

/-- R427: a MASK entry writes an own port's shadow, or sends a SLOT_MASK command to a chain. -/
def execMask (ring i : Nat) (s : State) : Result :=
  .next (s.onEntry ring i 0x22 true maskFieldsOk fun e s =>
    let t := fieldAt e 8 1
    let cls := fieldAt e 9 1
    let p := fieldAt e 10 1
    let mask := fieldAt e 12 4
    let known := if t = 16 then decide (p < 16) && s.audEnabled p else (s.audioEntry cls p).isSome && (s.route t).isSome
    let output := if t = 16 then !s.audInput p else true
    let base := if t = 16 then s.getF (Fld.AUD_PORT_CFG_CHAN_BASE (p / 4) (p % 4)) else fieldAt ((s.audioEntry cls p).getD []) 5 1
    if !known then s.on (·.answer ring i e { status := 0x01, detail := 2 })
    else if output && s.maskExceeds t base mask then s.on (·.answer ring i e { status := 0x01, detail := 3 })
    else
      let s := s.on (·.activate ring i e)
      let order : MaskOrder :=
        { entry := some (ring, i, e), target := t, cls := cls, port := p, mask := mask,
          apply := if t = 16 ∨ !s.transmits t then some (s.io.tick + 1) else none }
      let s := s.onAudio (fun a => { a with masks := a.masks ++ [order] })
      if t = 16 then s.setF (Fld.AUD_MASK_SHADOW (p / 4) (p % 4)) mask
      else
        let s := s.onAudio (fun a => { a with walls := a.walls.filter (fun w => !(w.1 == t && w.2.1 == cls && w.2.2.1 == p)) ++ [(t, cls, p, mask)] })
        if s.transmits t then s.queueBulk t (packetBytes 0x07 true t 0 (wallPayload 0x04 (maskBody cls p mask))) else s)

/-- R427: the masks in force of every chain-target port are sent again. -/
def State.resendMasks (s : State) : State :=
  s.outputs.foldl (fun s c =>
    let here := (s.plan.positions.filter (·.chain == c)).map (·.cls)
    (s.audioEntries.filter (fun e => here.contains (fieldAt e 0 1))).foldl (fun s e =>
      let (cls, p) := (fieldAt e 0 1, fieldAt e 1 1)
      let m := match s.audio.walls.find? (fun w => w.1 == c && w.2.1 == cls && w.2.2.1 == p) with
        | some w => w.2.2.2
        | none => fieldAt e 8 4
      s.queueBulk c (packetBytes 0x07 true c 0 (wallPayload 0x04 (maskBody cls p m)))) s) s

/-- R427, R484: a SLOT_MASK command arrives at a tile. -/
def execSlotMaskReceived (port : Nat) (packet : List Byte) (s : State) : Result :=
  .next (match s.keptCmd port 0x04 packet [stJOINING, stOPERATIONAL] with
    | (s, none) => s
    | (s, some b) =>
      let p := fieldAt b 1 1
      if fieldAt b 0 1 ≠ s.audioClass ∨ 16 ≤ p ∨ !s.audEnabled p then s
      else
        let at_ := fieldAt b 6 6
        let s := s.setF (Fld.AUD_MASK_SHADOW (p / 4) (p % 4)) (fieldAt b 2 4)
        let late := decide (at_ ≤ s.io.tick)
        let s := if late then (s.bumpF Fld.AUD_MASK_LATE).fireAud 422 p else s
        let order : MaskOrder :=
          { entry := none, target := s.audioTarget, cls := s.audioClass, port := p, mask := fieldAt b 2 4, apply := some (if late then s.io.tick + 1 else at_) }
        s.onAudio (fun a => { a with masks := a.masks ++ [order] }))

/-! ### Packets at a tile -/

/-- The instant at which the samples of tick `k` start to be presented, once that tick has come (R417). -/
def State.presents (s : State) (k : Nat) : Option Nat := (s.audio.bases.find? (·.tick == k)).map (fun b => b.at_ + s.audioLead)

/-- The samples of tick `k` are still to be presented. -/
def State.toPresent (s : State) (k : Nat) : Bool :=
  !s.audio.silent.contains k && (decide (s.io.tick < k) || (match s.presents k with | some t => decide (s.io.now < t) | none => false))

/-- R423: an AUDIO packet arrives at a tile. -/
def execAudioPacketReceived (port : Nat) (packet : List Byte) (s : State) : Result :=
  .next (match s.kept port 0x02 packet with
    | (s, none) => s
    | (s, some pl) =>
      let k := fieldAt pl 0 6
      let count := fieldAt pl 6 1
      let spt := fieldAt pl 8 2
      if !s.toPresent k ∨ count ≠ s.chCount s.audioTarget ∨ spt ≠ s.sptOf (if k ≤ s.io.tick then s.rateSet else s.nextSet) then s
      else s.keepPack k ((List.range spt).map (fun j => (List.range count).map (fun c => signed 32 (fieldAt pl (12 + 4 * (j * count + c)) 4)))))

/-- The region that records of a target's packets name (R37, R435): that of the port at which a tile takes its chain, region 0 for the
on-die path (log 100). -/
def State.audioRegion (s : State) : Nat := match s.selected with | some p => p / 4 | none => 0

/-- R423: 1 ms before its samples are due, tick `k` has no valid packet: it is presented as silence. -/
def execAudioPacketDeadline (k : Nat) (s : State) : Result :=
  .next (if s.chCount s.audioTarget = 0 ∨ !s.toPresent k ∨ s.audio.packets.any (·.tick == k) then s
    else ((s.onAudio (fun a => { a with silent := a.silent ++ [k] })).bumpF Fld.AUD_MISSING).on (·.fires [{ event := 425, region := some s.audioRegion }]))

/-! ### Presentation and capture -/

/-- One millisecond in 1/64 ns. -/
def oneMs : Nat := 64 * 10 ^ 6

/-- The wall sample that starts or runs at `t`, `lead` after its tick's instant: its tick's base and its number within the tick;
none in a gap (R417, R418). -/
def State.wallSample (s : State) (t lead : Nat) : Option (AudioBase × Nat) :=
  match s.audio.bases.find? (fun b => decide (b.at_ + lead ≤ t)) with
  | some b =>
    let i := if b.period = 0 then b.spt else (t - b.at_ - lead) * b.spt / b.period
    if i < b.spt then some (b, i) else none
  | none => none

/-- Sample `i` of a tick lies in a fade (R418, R423, R432): the last 1 ms before a gap or a silent tick, or the first 1 ms after one. -/
def State.inFade (s : State) (p : Nat) (b : AudioBase) (i : Nat) : Bool :=
  let quiet := fun (k : Nat) => s.audio.silent.contains k || s.audio.mute.contains (p, k)
  let jump := match s.tick.pending with | p :: _ => p.jump | [] => false
  let after := quiet (b.tick + 1) || s.audio.gaps.contains (b.tick + 1) || (b.tick == s.io.tick && jump)
  let before := s.audio.gaps.contains b.tick || (decide (0 < b.tick) && quiet (b.tick - 1))
  (after && decide ((b.spt - i) * b.period ≤ oneMs * b.spt)) || (before && decide (i * b.period < oneMs * b.spt))

/-- A sample's top `w` bits, rounded to nearest with halves away from zero and saturated (R422). -/
def topBits (w : Nat) (x : Int) : Int :=
  let d : Int := 2 ^ (32 - w)
  let q := if 0 ≤ x then (2 * x + d) / (2 * d) else -((-2 * x + d) / (2 * d))
  clampI (-(2 ^ (w - 1) : Nat)) (2 ^ (w - 1) - 1 : Nat) q

/-- A free sample of `w` bits: the spec does not state its value (log 2). -/
def State.freeSample (s : State) (w : Nat) : State × Int := (s.on (·.spend), signed w s.io.free)

/-- The values that the slots of an output frame carry: `val` gives the sample of a wall channel, none a free value; unmasked slots
are 0 (R420). -/
def State.outSlots (p : Nat) (val : Nat → Option Int) : List Nat → Nat → State → State × List Int
  | [], _, s => (s, [])
  | k :: t, ch, s =>
    if bit (s.audMask p) k then
      let (s, v) := match val ch with
        | some v => (s, topBits (s.audWidth p) v)
        | none => s.freeSample (s.audWidth p)
      let (s, r) := State.outSlots p val t (ch + 1) s
      (s, v :: r)
    else
      let (s, r) := State.outSlots p val t ch s
      (s, 0 :: r)

/-- A packet that is kept carries a sample other than 0: before its target starts a port is silent (R420, R422). -/
def State.sounds (s : State) : Bool := s.audio.packets.any (fun k => k.frames.any (fun f => f.any (· != 0)))

/-- The channels that a frame at `t` presents (R419, R430, R431): exactly the wall sample for a master port outside fades; the
converter's output, whose filter the spec does not fix, for a slave port. -/
def State.presented (s : State) (p t : Nat) : Nat → Option Int :=
  if s.audMaster p then
    match s.wallSample t s.audioLead with
    | none => fun _ => some 0
    | some (b, i) =>
      if s.audio.silent.contains b.tick || s.audio.mute.contains (p, b.tick) then fun _ => some 0
      else match s.audio.packets.find? (·.tick == b.tick) with
        | none => fun _ => some 0
        | some k =>
          if s.inFade p b i then fun _ => none
          else fun ch => some ((k.frames.getD i []).getD ch 0)
  else if (s.audState p = 2 ∨ s.audState p = 4) ∧ s.sounds then fun _ => none
  else fun _ => some 0

/-- R420: an output frame of port `p` at `t`, cut short to `n` slots. -/
def State.outFrame (s : State) (p t n : Nat) : State :=
  let (s, vs) := State.outSlots p (s.presented p t) (List.range (min n (s.audSlots p))) (s.getF (Fld.AUD_PORT_CFG_CHAN_BASE (p / 4) (p % 4))) s
  s.emit (.audio p vs)

/-- The bytes of a captured frame (R424, R428): the masked slots in order, S16 with the top 16 bits. -/
def captureBytes (fmt mask : Nat) (xs : List Int) : List Byte :=
  (setBits mask 32).flatMap (fun k =>
    let v := unsigned 32 (xs.getD k 0)
    if fmt = 0 then leBytes 2 (v / 65536) else leBytes 4 v)

/-- R425: wall sample `idx` of port `p` goes into its capture buffer, or is lost. -/
def State.capSample (s : State) (p idx : Nat) (xs : List Int) : State :=
  if !bit (s.getF Fld.AUD_CAP_RUN_PORTS) p then s
  else match s.audio.caps.find? (·.what == p) with
    | none =>
      if s.io.once.contains (424, p) then s
      else (s.bumpF (Fld.AUD_OVERRUN p)).on (·.fireOnce p { event := 424, region := some (p / 4), obj := p % 4 })
    | some b =>
      let b := { b with first := some (b.first.getD idx) }
      let bs := captureBytes b.fmt (s.audMask p) xs
      let a := fieldAt b.entry 16 8 + b.done * bs.length
      let (io, f) := Io.issueWrite (.entry b.ring b.index) (p / 4) 1 b.dram (if b.dram then 0 else fieldAt b.entry 25 1) (writesOf a bs) s.io
      let s := { s with io := io }
      match f with
      | some (k, iova) => s.audioFault b (p / 4) (29 + p % 4) k iova true
      | none =>
        let b := { b with done := b.done + 1 }
        if b.done = b.frames then s.endAudio b 0 0 else s.setBuf b

/-- Free samples for every slot (log 2). -/
def State.freeSlots : Nat → State → State × List Int
  | 0, s => (s, [])
  | n + 1, s =>
    let (s, v) := s.freeSample 32
    let (s, r) := State.freeSlots n s
    (s, v :: r)

/-- Whether the converter of a slave input port delivers sound (R431): while locked or fading, and for 10 ms after a loss. -/
def State.audible (s : State) (p : Nat) : Bool :=
  decide (s.audState p = 2 ∨ s.audState p = 4) || (decide (s.audState p = 3) && decide (s.io.now < (s.audPort p).lost + 10 * oneMs))

/-- R417: `n` wall samples of a port are delivered from its next one on; `given` is the last of a master port's. -/
def State.deliver (p : Nat) (given : Option (List Int)) : Nat → State → State
  | 0, s => s
  | n + 1, s =>
    let a := s.audPort p
    let (s, xs) := match (if n = 0 then given else none) with
      | some xs => (s, xs)
      | none => if s.audMaster p || s.audible p then State.freeSlots (s.audSlots p) s else (s, List.replicate (s.audSlots p) 0)
    let s := s.capSample p a.next (if s.audio.mute.contains (p, s.io.tick) then xs.map (fun _ => 0) else xs)
    State.deliver p given n (s.setAudPort { s.audPort p with next := a.next + 1 })

/-- The samples of an input port that are due by the end of a tick, or up to sample `i` of it. -/
def State.deliverTo (s : State) (p upTo : Nat) (given : Option (List Int)) : State :=
  State.deliver p given (upTo - (s.audPort p).next) s

/-! ### Slave clocks -/

/-- The nominal rates of the rate classes 1 to 16 (R429), in mHz. -/
def classRates : List Nat :=
  [8000000, 11025000, 12000000, 16000000, 22050000, 24000000, 32000000, 44100000, 48000000, 64000000, 88200000, 96000000, 176400000,
   192000000, 352800000, 384000000]

/-- The rate class of a rate in mHz. -/
def rateClass (r : Nat) : Nat :=
  match classRates.findIdx? (fun c => decide (absDiff r c * 100 ≤ c)) with
  | some i => i + 1
  | none => 0

/-- AUD_RATIO: port rate over FS_W, U8.24 (R434). -/
def State.audioRatio (s : State) (rate : Nat) : Nat :=
  let d := s.sptOf s.rateSet * 64 * 10 ^ 12
  if d = 0 then 0 else min (2 ^ 32 - 1) ((2 * rate * s.period * 2 ^ 24 + d) / (2 * d))

/-- R431: a slave port fades to re-lock. -/
def State.relock (s : State) (p : Nat) : State :=
  (((s.setAudState p 4).setAudPort { s.audPort p with bad := 0, rated := none }).bumpF (Fld.AUD_RELOCKS (p / 4) (p % 4))).fireAud 420 p

/-- R431: a slave port loses its clock. -/
def State.clockLost (s : State) (p : Nat) (outside : Bool) : State :=
  let s := (s.setAudState p 3).setAudPort { s.audPort p with lost := s.io.now, outside := outside, bad := 0, frames := 0, base := none, rated := none }
  (s.bumpF (Fld.AUD_CLOCK_LOSS (p / 4) (p % 4))).fireAud 417 p

/-- R429, R431: a measured frame rate, in mHz. -/
def State.measured (s : State) (p rate : Nat) : State :=
  let a := s.audPort p
  let cls := rateClass rate
  let was := s.getF (Fld.AUD_PORT_STAT_CLASS (p / 4) (p % 4))
  let s := ((s.setF (Fld.AUD_RATE (p / 4) (p % 4)) (min rate (2 ^ 32 - 1))).setF (Fld.AUD_RATIO (p / 4) (p % 4)) (s.audioRatio rate)).setF
    (Fld.AUD_PORT_STAT_CLASS (p / 4) (p % 4)) cls
  let moved := match a.ref with | some r => decide (r < absDiff rate r * 1000) | none => false
  let s := s.setAudPort { s.audPort p with rated := some rate }
  let s := if moved || cls != was then (s.setAudPort { s.audPort p with ref := some rate }).fireAud 419 p else s
  let s := if s.audState p = 2 ∧ a.lock = none then s.setAudPort { s.audPort p with ref := some rate, lock := some rate } else s
  if rate < 7920000 ∨ 387840000 < rate then (if s.audState p = 3 ∧ a.outside then s else s.clockLost p true)
  else if s.audState p = 3 ∧ a.outside then (s.setAudPort { s.audPort p with outside := false }).setAudState p 1
  else match a.lock with
    | some l => if s.audState p = 2 ∧ l < absDiff rate l * 8 then s.relock p else s
    | none => s

/-- A frame edge at `t` counts toward the rate over 64 frames (R429). -/
def State.countFrame (s : State) (p t : Nat) : State :=
  let a := s.audPort p
  match a.base with
  | none => s.setAudPort { a with base := some t, frames := 0 }
  | some t0 =>
    if a.frames + 1 < 64 then s.setAudPort { a with frames := a.frames + 1 }
    else
      let s := s.setAudPort { a with base := some t, frames := 0 }
      let ns := t / 64 - t0 / 64
      if ns = 0 then s else s.measured p ((2 * 64 * 10 ^ 12 + ns) / (2 * ns))

/-- R431: framing of a locked slave port's frame; the port may fade to re-lock. -/
def State.framing (s : State) (p bclks : Nat) : State :=
  let a := s.audPort p
  if s.audState p ≠ 2 then s
  else if bclks = s.audSlots p * s.audWidth p then s.setAudPort { a with bad := 0 }
  else
    let s := (s.setAudPort { a with bad := a.bad + 1 }).bumpF (Fld.AUD_FRAME_ERR (p / 4) (p % 4))
    let s := s.on (·.fireOnce p { event := 418, region := some (p / 4), obj := p % 4 })
    if 3 ≤ a.bad then s.relock p else s

/-- R417 to R431: a frame of port `p`, whose sync edge falls at `t`, with `bclks` BCLK periods and what its slots carried;
`overflow`, `underflow`: the converter's buffer ran over or dry. -/
def execAudioFrame (port t bclks : Nat) (slots : List Nat) (overflow underflow : Bool) (s : State) : Result :=
  .next (
    let p := port
    if 16 ≤ p ∨ !s.audEnabled p ∨ s.audState p = 0 then s
    else
      let s := s.on (·.at t)
      let master := s.audMaster p
      let s := if master then s else s.framing p bclks
      let s := if (overflow || underflow) && !master && decide (s.audState p = 2) then s.relock p else s
      let s :=
        if s.audInput p then
          match s.wallSample t 0 with
          | some (b, i) =>
            let xs := slots.map (fun v => signed 32 (v % 2 ^ s.audWidth p * 2 ^ (32 - s.audWidth p)))
            s.deliverTo p (b.tick * b.spt + i + 1) (if master then some xs else none)
          | none => s
        else s.outFrame p t (bclks / s.audWidth p)
      if master then s else s.countFrame p t)

/-- R431: BCLK of a slave port is absent for more than 4 expected periods. -/
def execBclkLoss (port : Nat) (s : State) : Result :=
  .next (let p := port
    if 16 ≤ p ∨ !s.audEnabled p ∨ s.audMaster p ∨ !([1, 2, 4].contains (s.audState p)) then s else s.clockLost p false)

/-- R431: BCLK of a slave port returns. -/
def execBclkReturn (port : Nat) (s : State) : Result :=
  .next (let p := port
    if 16 ≤ p ∨ s.audState p ≠ 3 ∨ (s.audPort p).outside then s else s.setAudState p 1)

/-- R431: the converter of an acquiring slave port locks. -/
def execAudioPortLocked (port : Nat) (s : State) : Result :=
  .next (let p := port
    if 16 ≤ p ∨ s.audState p ≠ 1 then s
    else
      let a := s.audPort p
      ((s.setAudState p 2).setAudPort { a with ref := a.rated <|> a.ref, lock := a.rated, bad := 0 }).fireAud 416 p)

/-- R431: the fade of a port that re-locks ends. -/
def execAudioFadeDone (port : Nat) (s : State) : Result :=
  .next (if 16 ≤ port ∨ s.audState port ≠ 4 then s else s.setAudState port 1)

/-! ### The tick -/

/-- R428: the capture buffer in progress closes when its port's layout changes. -/
def State.closeCapture (s : State) (p detail : Nat) : State :=
  match s.audio.caps.find? (fun b => b.what == p && decide (0 < b.done)) with
  | some b => s.endAudio b 0 detail
  | none => s

/-- A mask change that is due at tick `k` applies (R427, R428); only a local port's mask is in a register. -/
def State.applyMask (s : State) (k spt : Nat) (m : MaskOrder) : State :=
  let here := s.io.isTile || m.target == 16
  let p := m.port
  let changes := !here || decide (s.audMask p ≠ m.mask)
  let s := if here && changes && s.audInput p then s.closeCapture p 1 else s
  let s := if here then s.setF (Fld.AUD_MASK (p / 4) (p % 4)) m.mask else s
  let s := if changes then s.fireAud 421 p else s
  match m.entry with
  | some (r, i, e) => s.on (·.finish r i e { info := k * spt % 2 ^ 48 })
  | none => s

/-- A START or STOP takes effect at tick `k` (R426). -/
def State.applyOrder (s : State) (k spt : Nat) (o : AudioOrder) : State :=
  let ts := setBits (fieldAt o.entry 8 3) 17
  let ps := setBits (fieldAt o.entry 12 2) 16
  let put := fun (v i : Nat) => putBits v i 1 (flag !o.stop)
  let s := s.setF Fld.AUD_PLAY_RUN_TARGETS (ts.foldl put (s.getF Fld.AUD_PLAY_RUN_TARGETS))
  let s := s.setF Fld.AUD_CAP_RUN_PORTS (ps.foldl put (s.getF Fld.AUD_CAP_RUN_PORTS))
  let s :=
    if o.stop then
      let s := ts.foldl (fun s t => match s.audio.plays.find? (fun b => b.what == t && decide (0 < b.done)) with
        | some b => s.endAudio b 0 2
        | none => s) s
      ps.foldl (fun s p => s.closeCapture p 2) s
    else ps.foldl (fun s p => s.setAudPort { s.audPort p with next := k * spt }) s
  let e := if o.stop then 427 else 426
  let s := ts.foldl (fun s t => s.on (·.fires [targetOcc e t])) s
  let s := ps.foldl (fun s p => s.fireAud e p) s
  s.on (·.finish o.ring o.index o.entry { info := k * spt % 2 ^ 48 })

/-- A port comes into use at its region's first tick in OPERATIONAL (R420). -/
def State.startPort (s : State) (p : Nat) : State :=
  if s.audEnabled p ∧ s.audState p = 0 then s.setAudState p (if s.audMaster p then 2 else 1) else s

/-- R416 to R428 at a numbered tick, `jumped` after a repeat period: the last tick's captured samples are delivered, the sample clock
moves on, and masks and orders that are due take effect. -/
def State.audioTick (s : State) (jumped : Bool) : State :=
  let k := s.io.tick
  let spt := s.sptOf s.rateSet
  let s : State := match s.audio.bases with
    | b :: _ => ((List.range 16).filter s.inputPort).foldl (fun (s : State) p =>
        s.deliverTo p ((b.tick + 1) * b.spt) none) s
    | [] => s
  let switched := match s.audio.bases with | b :: _ => b.rset != s.rateSet | [] => false
  let base : AudioBase := { tick := k, at_ := s.tick.last, period := s.period, rset := s.rateSet, spt := spt }
  let recent := fun (x : Nat) => decide (k ≤ x + 2)
  let s := s.onAudio (fun a => { a with bases := (base :: a.bases).take 3, packets := a.packets.filter (fun x => recent x.tick),
                                        silent := a.silent.filter recent, mute := a.mute.filter (fun x => recent x.2), gaps := a.gaps.filter recent ++ (if jumped then [k] else []),
                                        built := [], left := [] })
  let s := (s.setF Fld.AUD_STATE_SPT spt).on (·.setWide Fld.AUD_SAMPLE_LO Fld.AUD_SAMPLE_HI (k * spt % 2 ^ 48))
  if !s.io.operational then s
  else
    let s := (List.range 16).foldl State.startPort s
    let s := s.onAudio (fun a => { a with ports := (List.range 16).filterMap (fun p =>
      if s.inputPort p then some { s.audPort p with next := k * spt } else a.ports.find? (·.port == p)) })
    let s := if switched then ((List.range 16).filter (fun p => s.audEnabled p && s.audMaster p)).foldl (fun (s : State) p => s.fireAud 419 p) s else s
    let due := fun (m : MaskOrder) => match m.apply with | some t => decide (t ≤ k) | none => !s.io.isTile && m.target != 16 && !s.transmits m.target
    let ms := s.audio.masks.filter due
    let s := s.onAudio (fun a => { a with masks := a.masks.filter (fun m => !due m) })
    let s := ms.foldl (fun (s : State) m => s.applyMask k spt m) s
    let os := s.audio.orders.filter (fun (o : AudioOrder) => decide (o.tick ≤ k))
    let s := s.onAudio (fun a => { a with orders := a.orders.filter (fun (o : AudioOrder) => !decide (o.tick ≤ k)) })
    os.foldl (fun (s : State) o => s.applyOrder k spt o) s

end Sys2Proof.Machine
end

