-- ==== Sys2Proof/Machine/Meter.lean ====
section
/-! DEFINITION. The sealed metering domain (R436 to R461): measurement, persistence, seal and audit log, signed records, calibration
and metering firmware. -/

namespace Sys2Proof.Machine

/-- An operation on the metering state. -/
def State.onMeter (s : State) (f : MeterState → MeterState) : State := { s with meter := f s.meter }

/-- Point `p`. -/
def State.mpoint (s : State) (p : Nat) : MeterPoint := s.meter.points.getD p {}
def State.setMpoint (s : State) (p : Nat) (f : MeterPoint → MeterPoint) : State :=
  s.onMeter (fun m => { m with points := setNth m.points p (f (m.points.getD p {})) })

/-- The part is an M part (R5). -/
def State.mPart (s : State) : Bool := s.isF Fld.CTL_VARIANT_METER_SEALED

/-- The free audit entries (R448). -/
def State.logFree (s : State) : Nat := 1024 - s.meter.log.length

/-- The seal is reported (R446). -/
def State.reportSeal (s : State) : State :=
  let sealed := s.mPart && s.meter.intact
  (s.setF Fld.MTR_STATE_SEALED (flag sealed)).setF Fld.MTR_STATE_INDICATIVE (flag !sealed)

/-- The log is reported: used entries, LOG_FULL and the mirror of entry `i` (R448, R459). -/
def State.mirrorEntry (s : State) (i : Nat) (e : List Byte) : State :=
  (List.range 16).foldl (fun s k => s.on (·.setReg (Reg.MTR_LOG (16 * i + k)) (BitVec.ofNat 32 (fieldAt e (4 * k) 4)))) s
def State.reportLog (s : State) : State :=
  (s.setF Fld.MTR_LOG_COUNT_USED s.meter.log.length).setF Fld.MTR_HEALTH_LOG_FULL (flag (decide (s.logFree < 2)))

/-- An audit entry (R448). -/
def auditEntry (index kind interval points : Nat) (data : List Byte) : List Byte :=
  let b := leBytes 2 index ++ leBytes 1 kind ++ zeros 1 ++ leBytes 8 interval ++ leBytes 2 points ++ zeros 2 ++ sub data 0 32 ++ zeros 12
  b ++ leBytes 4 (crc32 b)

/-! ### The METER partition -/

/-- The domain's NVM writes may take place: its temperature lies within the window, and the boot core does not hold the port (R436,
R444). -/
def State.meterWrites (s : State) : Bool :=
  decide (s.meter.tempLo ≤ s.meter.temp ∧ s.meter.temp ≤ s.meter.tempHi) && decide (stTRAINING ≤ s.io.boot ∧ s.io.boot ≤ stOPERATIONAL)

/-- The metering core's waiting bytes reach METER (R42, R444, R445). An empty string stands for the erasure of a 64 KiB sector. -/
def State.flushMeter (s : State) : State :=
  match s.partition 3 with
  | none => s
  | some p =>
    if !s.meterWrites then s
    else
      let s0 := s.onMeter (fun m => { m with unwritten := [] })
      s.meter.unwritten.foldl (fun (s : State) w =>
        if w.2.isEmpty then (s.onNvm (·.blank (p.start + w.1) 0x10000)).emit (.nvmErase (p.start + w.1))
        else (s.onNvm (fun v => { v with mem := memWrite nvmErased v.mem (p.start + w.1) w.2 })).emit (.nvmWrite (p.start + w.1) w.2)) s0

/-- The metering core writes bytes at an offset of METER, or waits for its window (R444). -/
def State.meterStore (s : State) (off : Nat) (bs : List Byte) : State :=
  (s.onMeter (fun m => { m with unwritten := m.unwritten ++ [(off, bs)] })).flushMeter

/-- The sealed configuration as bytes; its layout is the domain's own (DESIGN CHOICE, log 86). -/
def MeterState.config (m : MeterState) : List Byte :=
  leBytes 4 m.mclkHz ++ leBytes 2 m.saveS ++ leBytes 1 (unsigned 8 m.tempLo) ++ leBytes 1 (unsigned 8 m.tempHi)
    ++ m.points.flatMap (fun p => leBytes 4 (unsigned 32 p.coef.vScale) ++ leBytes 4 (unsigned 32 p.coef.vOfs)
      ++ leBytes 4 (unsigned 32 p.coef.iScale) ++ leBytes 4 (unsigned 32 p.coef.iOfs) ++ leBytes 1 (unsigned 8 p.coef.delay) ++ leBytes 2 p.calSeq)

/-- The sealed configuration is written to its other copy, by R63 (R445, R455). -/
def State.storeConfig (s : State) : State :=
  let n := s.meter.configSeq + 1
  let r : Record := { rtype := 1, version := 1, seq := n % 2 ^ 32, payload := s.meter.config }
  (s.onMeter (fun m => { m with configSeq := n })).meterStore (if n % 2 = 0 then 0x10000 else 0x20000) r.bytes

/-! ### The audit log -/

/-- An entry is programmed into the log, and event 460 fires. -/
def State.audit (s : State) (kind points : Nat) (data : List Byte) : State :=
  let i := s.meter.log.length
  let e := auditEntry i kind s.meter.interval points data
  (((s.onMeter (fun m => { m with log := m.log ++ [e] })).meterStore (0x50000 + 64 * i) e).mirrorEntry i e).reportLog.fire 460

/-- An informational entry, where the space rules let it be written (R449). -/
def State.auditInfo (s : State) (kind points : Nat) (data : List Byte) : State :=
  if s.meter.log.length < 1000 then s.audit kind points data
  else
    let s := s.bumpF Fld.MTR_LOG_DROPPED
    if s.meter.infoFull then s else (s.onMeter (fun m => { m with infoFull := true })).fire 461

/-- R446: the seal breaks; its entry takes any free place. -/
def State.breakSeal (s : State) : State :=
  if !s.mPart || !s.meter.intact then s
  else
    let s := s.onMeter (fun m => { m with intact := false, breaks := min (2 ^ 32 - 1) (m.breaks + 1) })
    let s := if 0 < s.logFree then s.audit 0x02 0 [] else s
    ((s.setF Fld.MTR_SEAL_BREAKS s.meter.breaks).reportSeal).fire 449

/-! ### Persistence -/

/-- The newest valid energy record (R444). -/
def newestRecord (l : List EnergyRecord) : Option EnergyRecord :=
  l.foldl (fun b r => match b with
    | none => some r
    | some x => if seqAbove r.seq x.seq then some r else some x) none
def MeterState.newest (m : MeterState) : Option EnergyRecord := newestRecord (m.sectorA ++ m.sectorB)

/-- A record is appended to the current sector of 256; a full sector gives way to the other, and is erased once the other holds its
first record (R444). -/
def MeterState.save (m : MeterState) (shutdown : Bool) : MeterState :=
  let r : EnergyRecord := { seq := (match m.newest with | some x => (x.seq + 1) % 2 ^ 32 | none => 1), interval := m.interval,
                            recSeq := m.recSeq, accs := m.points.map (·.acc), shutdown := shutdown }
  let m := { m with sinceSave := 0, waiting := none }
  if m.intoB then
    if m.sectorB.length < 256 then { m with sectorB := m.sectorB ++ [r] } else { m with sectorA := [r], sectorB := [], intoB := false }
  else if m.sectorA.length < 256 then { m with sectorA := m.sectorA ++ [r] } else { m with sectorB := [r], sectorA := [], intoB := true }

/-- An energy record's 256 bytes (R444): its fields, then a CRC-32; their places are the domain's own (DESIGN CHOICE, log 86). -/
def EnergyRecord.bytes (r : EnergyRecord) : List Byte :=
  let b := sub (leBytes 4 r.seq ++ leBytes 8 r.interval ++ leBytes 8 r.recSeq ++ (List.range 16).flatMap (fun p => leBytes 12 (nth r.accs p))
    ++ leBytes 1 (flag r.shutdown)) 0 252
  b ++ leBytes 4 (crc32 b)

/-- A save takes place (R444): the record is appended to its sector, and the other sector is erased after a first record. -/
def State.saveNow (s : State) (shutdown : Bool) : State :=
  let s := s.onMeter (·.save shutdown)
  let (l, here, other) := if s.meter.intoB then (s.meter.sectorB, 0x40000, 0x30000) else (s.meter.sectorA, 0x30000, 0x40000)
  match l.getLast? with
  | some r =>
    let s := s.meterStore (here + 256 * (l.length - 1)) r.bytes
    if l.length = 1 then s.meterStore other [] else s
  | none => s

/-- The energy state is saved, or its newest save waits for the window (R444). -/
def State.saveEnergy (s : State) (shutdown : Bool) : State :=
  if s.meterWrites then s.saveNow shutdown else s.onMeter (fun m => { m with waiting := some shutdown })

/-- R444: a save is due after SAVE_S seconds of metered time, or has waited for the window. -/
def execEnergySave (s : State) : Result :=
  .next (
    if !s.io.meterUp || !s.meterWrites then s
    else match s.flushMeter.meter.waiting with
      | some f => s.flushMeter.saveNow f
      | none => if s.meter.saveS ≤ s.meter.sinceSave then s.flushMeter.saveNow false else s.flushMeter)

/-- R437, R444: the shutdown notice arrives. -/
def execShutdownNotice (s : State) : Result :=
  .next (if !s.io.meterUp || !s.meter.notice then s else (s.onMeter (fun m => { m with notice := false })).saveEnergy true)

/-- The domain's registers take their reset values. -/
def State.clearMeterPage (s : State) : State := s.on (fun io => { io with regs := io.regs.filter (fun e => e.1 / 0x20000 != 14) })

/-- The running firmware is reported. -/
def State.reportFirmware (s : State) : State :=
  let d := s.meter.digest.getD Config.meterDigest
  let s := (s.setF Fld.MTR_FW_VERSION s.meter.version).setF Fld.MTR_HEALTH_FW_SLOT (flag s.meter.slotB)
  (List.range 16).foldl (fun s i => s.setF (Fld.MTR_FW_DIGEST i) (fieldAt d (4 * i) 4)) s

/-- A point's energy register and calibration count are reported. -/
def State.reportEnergy (s : State) (p : Nat) : State :=
  let m := s.mpoint p
  (s.on (·.setWide (Fld.MTR_ENERGY_LO p) (Fld.MTR_ENERGY_HI p) (m.acc / 2 ^ 32 % 2 ^ 64))).setF (Fld.MTR_POINT_STAT_CAL_SEQ p) m.calSeq

/-- R436, R438, R444: VDD_MTR rises: the domain resets and resumes from its newest energy record; `calEn`: MTR_CAL_EN is asserted. -/
def execMeterPowerOn (calEn : Bool) (temp : Int) (s : State) : Result :=
  .next (
    if s.io.meterUp || !s.needsMeter then s
    else
      let m := s.meter
      let last := m.newest
      let accs := match last with | some r => r.accs | none => []
      let points := (List.range 16).map (fun p =>
        let x := m.points.getD p {}
        ({ coef := x.coef, calSeq := x.calSeq, pub := x.coef, acc := nth accs p } : MeterPoint))
      let fresh : MeterState :=
        { mclkHz := m.mclkHz, saveS := m.saveS, tempLo := m.tempLo, tempHi := m.tempHi, points := points, sectorA := m.sectorA,
          sectorB := m.sectorB, intoB := m.intoB, log := m.log, configSeq := m.configSeq, intact := m.intact, breaks := m.breaks,
          recSeq := match last with | some r => r.recSeq | none => 0, digest := m.digest, version := m.version, slotB := m.slotB,
          otp := m.otp, interval := match last with | some r => r.interval | none => 0, temp := temp, notice := m.notice }
      let s := { s with meter := fresh, io := { s.io with meterUp := true } }.clearMeterPage
      let s := (List.range 16).foldl State.reportEnergy s
      let s := s.on (·.setWide Fld.MTR_INTERVAL_LO Fld.MTR_INTERVAL_HI (fresh.interval % 2 ^ 64))
      let s := s.reportFirmware.setF Fld.MTR_SEAL_BREAKS fresh.breaks
      let s := (fresh.log.zipIdx).foldl (fun s (x : List Byte × Nat) => s.mirrorEntry x.2 x.1) s
      let s := s.reportLog.reportSeal
      let s := match last with
        | some r => if r.shutdown then s else (s.auditInfo 0x07 0 []).fire 464
        | none => s
      if calEn then (s.setF Fld.MTR_HEALTH_CAL_EN 1).breakSeal else s)

/-- What waits for the write window is lost with VDD_MTR: audit entries that METER does not hold are gone. -/
def MeterState.lose (m : MeterState) : MeterState :=
  let lost := (m.unwritten.filter (fun w => decide (0x50000 ≤ w.1 ∧ w.1 < 0x60000))).length
  { m with unwritten := [], log := m.log.take (m.log.length - lost) }

/-- R436, R438: VDD_MTR falls: every register reads 0 and unsaved energy is lost. -/
def execMeterPowerLoss (s : State) : Result :=
  .next (if !s.io.meterUp then s else { s.onMeter (·.lose) with io := { s.io with meterUp := false } }.clearMeterPage)

/-! ### Measurement -/

/-- A sample clipped at full scale (R443). -/
def clipSample (x : Int) : Int := clampI (-(2 ^ 23)) (2 ^ 23 - 1) x

/-- The sums of an interval under coefficients: of v * v, i * i and v * i in sample LSB, with the current samples delayed (R439);
`pairs` is oldest first, `tail` newest first. -/
def intervalSums (c : Coef) (tail pairs : List (Int × Int)) : Int × Int × Int :=
  let all := tail.reverse ++ pairs
  let n := all.length
  let first := n - pairs.length
  let d := c.delay.natAbs
  let at_ := fun (k back : Nat) => if back ≤ k then all.getD (k - back) (0, 0) else (0, 0)
  (List.range pairs.length).foldl (fun a j =>
    let k := first + j
    let v := (if c.delay < 0 then (at_ k d).1 else (at_ k 0).1) - c.vOfs
    let i := (if c.delay < 0 then (at_ k 0).2 else (at_ k d).2) - c.iOfs
    (a.1 + v * v, a.2.1 + i * i, a.2.2 + v * i)) (0, 0, 0)

/-- The nearest integer to the square root of num / den. -/
def sqrtRound (num : Int) (den : Nat) : Nat := if den = 0 then 0 else (Nat.sqrt (4 * num.toNat / den) + 1) / 2

/-- The nearest integer to num / den, halves upward. -/
def nearDiv (num : Int) (den : Nat) : Int := if den = 0 then 0 else (2 * num + den) / (2 * (den : Int))

/-- The published RMS voltage in mV, current in mA and power in mW (R441). -/
def published (c : Coef) (n : Nat) (t : Int × Int × Int) : Nat × Nat × Int :=
  (sqrtRound (t.1 * c.vScale * c.vScale) (n * 2 ^ 46 * 10 ^ 6), sqrtRound (t.2.1 * c.iScale * c.iScale) (n * 2 ^ 46 * 10 ^ 6),
   nearDiv (t.2.2 * c.vScale * c.iScale) (n * 2 ^ 46 * 10 ^ 9))

/-- The energy of an interval in accumulator units: P in pW for 1 s, over 36 J, times 2^32 (R442). -/
def intervalEnergy (c : Coef) (n : Nat) (t : Int × Int × Int) : Nat :=
  if n = 0 then 0 else (t.2.2 * c.vScale * c.iScale).toNat * 2 ^ 32 / (n * 2 ^ 46 * 36 * 10 ^ 12)

/-- One coefficient of a ramp, rounded toward zero (R455). -/
def rampOne (old new : Int) (n : Nat) : Int := (64 * old + (new - old) * n).tdiv 64

/-- The coefficients published in interval B + n of a ramp (R455). -/
def rampCoef (old new : Coef) (n : Nat) : Coef :=
  { vScale := rampOne old.vScale new.vScale n, vOfs := rampOne old.vOfs new.vOfs n, iScale := rampOne old.iScale new.iScale n,
    iOfs := rampOne old.iOfs new.iOfs n, delay := rampOne old.delay new.delay n }

/-- An event that fires at most once a minute for a point (R442, R443). -/
def minutePassed (now : Nat) (at_ : Option Nat) : Bool := match at_ with | some t => decide (t + 60 ≤ now) | none => true

/-- Point `p` at the end of an interval (R441 to R443, R455). -/
def State.measurePoint (s : State) (fault : Bool) (p : Nat) (raw : List (Int × Int)) : State :=
  let m := s.mpoint p
  let high := raw.any (fun x => decide (2 ^ 23 - 1 ≤ x.1 ∨ x.1 ≤ -(2 ^ 23) ∨ 2 ^ 23 - 1 ≤ x.2 ∨ x.2 ≤ -(2 ^ 23)))
  let pairs := raw.map (fun x => (clipSample x.1, clipSample x.2))
  let stale := fault || bit s.meter.held p || m.stuck
  let ramp := m.ramp - 1
  let pub := if m.ramp = 0 then m.coef else rampCoef m.rampFrom m.coef (64 - ramp)
  let n := pairs.length
  let now := s.meter.interval
  let sums := intervalSums m.coef m.tail pairs
  let power := sums.2.2 * m.coef.vScale * m.coef.iScale
  let s := (s.setF (Fld.MTR_POINT_STAT_STALE p) (flag stale)).setF (Fld.MTR_POINT_STAT_STUCK p) (flag m.stuck)
  let s := s.setF (Fld.MTR_POINT_STAT_RAMP p) ramp
  let s := s.setMpoint p (fun m => { m with ramp := ramp, stuck := false, tail := (pairs.reverse ++ m.tail).take 64 })
  let s := if m.ramp = 1 then s.on (·.fireObj 454 none (2 ^ p)) else s
  if stale then (s.setF (Fld.MTR_POINT_STAT_OVERRANGE p) 0).setF (Fld.MTR_POINT_STAT_REVERSED p) 0
  else
    let (v, i, w) := published pub n (intervalSums pub m.tail pairs)
    let s := ((s.setF (Fld.MTR_VRMS p) v).setF (Fld.MTR_IRMS p) i).setF (Fld.MTR_POWER p) (unsigned 32 w)
    let s := (s.setF (Fld.MTR_POINT_STAT_OVERRANGE p) (flag high)).setF (Fld.MTR_POINT_STAT_REVERSED p) (flag (decide (power < 0)))
    let s := s.setMpoint p (fun m => { m with pub := pub, acc := m.acc + (if 0 < power then intervalEnergy m.coef n sums else 0) })
    let s := s.reportEnergy p
    let s := if high && minutePassed now m.overAt then (s.setMpoint p (fun m => { m with overAt := some now })).on (·.fireObj 456 none (2 ^ p)) else s
    if power < 0 ∧ minutePassed now m.revAt then (s.setMpoint p (fun m => { m with revAt := some now })).on (·.fireObj 457 none (2 ^ p)) else s

/-- The result of a calibration command (R453). -/
def State.calResult (s : State) (r : Nat) : State := (s.setF Fld.MTR_CAL_STAT_RESULT r).setF Fld.MTR_CAL_STAT_BUSY 0

/-- A ZERO, VREF or IREF takes in one interval's samples. -/
def CalRun.add (r : CalRun) (c : Coef) (pairs : List (Int × Int)) : CalRun :=
  pairs.foldl (fun r x =>
    let v := clipSample x.1 - c.vOfs
    let i := clipSample x.2 - c.iOfs
    { r with n := r.n + 1, sumV := r.sumV + v, sumI := r.sumI + i, sqV := r.sqV + v * v, sqI := r.sqI + i * i })
    { r with left := r.left - 1 }

/-- A scale from a reference and what was measured: reference over the measured fraction of full scale, rounded to nearest; none when
the fraction is below 5 % or the result is out of range (R453). -/
def CalRun.scale (r : CalRun) (sum sq : Int) : Option Int :=
  let n := r.n
  if n = 0 then none
  else if r.ac then
    if 400 * sq < n * 2 ^ 46 then none
    else
      let q := (Nat.sqrt (4 * r.reference * r.reference * 2 ^ 46 * n / sq.toNat) + 1) / 2
      if 1 ≤ q ∧ q < 2 ^ 32 then some q else none
  else if 20 * sum < n * 2 ^ 23 then none
  else
    let q := nearDiv (r.reference * 2 ^ 23 * n) sum.toNat
    if 1 ≤ q ∧ q < 2 ^ 32 then some q else none

/-- A ZERO, VREF or IREF ends after its 16 intervals (R453). -/
def State.calEnd (s : State) (r : CalRun) : State :=
  let s := s.onMeter (fun m => { m with run := none })
  let ok := fun (o : Int) => decide (-(2 ^ 20) ≤ o ∧ o ≤ 2 ^ 20)
  match r.cmd with
  | 2 =>
    let v := nearDiv r.sumV r.n
    let i := nearDiv r.sumI r.n
    if ok v && ok i then (s.setMpoint r.point (fun m => { m with cand := { m.cand with vOfs := v, iOfs := i } })).calResult 0 else s.calResult 5
  | 3 => match r.scale r.sumV r.sqV with
    | some q => (s.setMpoint r.point (fun m => { m with cand := { m.cand with vScale := q } })).calResult 0
    | none => s.calResult 5
  | _ => match r.scale r.sumI r.sqI with
    | some q => (s.setMpoint r.point (fun m => { m with cand := { m.cand with iScale := q } })).calResult 0
    | none => s.calResult 5

/-- The commands that average take in an interval (R453): offsets are the candidate's, but for ZERO, which measures them. -/
def State.calAverage (s : State) (fault : Bool) (samples : List (List (Int × Int))) : State :=
  match s.meter.run with
  | some r =>
    if fault || !bit s.meter.held r.point then s
    else
      let c := if r.cmd = 2 then {} else (s.mpoint r.point).cand
      let r := r.add c (samples.getD r.point [])
      if r.left = 0 then s.calEnd r else s.onMeter (fun m => { m with run := some r })
  | none => s

/-! ### Signed records -/

/-- The mask of the points that satisfy `p`. -/
def pointMask (p : Nat → Bool) : Nat := (List.range 16).foldl (fun a i => a + flag (p i) * 2 ^ i) 0

/-- The record built at an interval boundary, signed (R451). -/
def State.signedRecord (s : State) : List Byte :=
  let m := s.meter
  let st := fun (f : Nat → Field) => pointMask (fun p => s.isF (f p))
  let flags := pointMask (fun p => s.isF (Fld.MTR_POINT_STAT_OVERRANGE p) || s.isF (Fld.MTR_POINT_STAT_REVERSED p) || s.isF (Fld.MTR_POINT_STAT_STUCK p))
  let b := leBytes 4 0x4345524D ++ leBytes 2 1
    ++ leBytes 2 (s.getF Fld.MTR_STATE_SEALED + 2 * s.getF Fld.MTR_STATE_CAL + 4 * s.getF Fld.MTR_STATE_INDICATIVE)
    ++ leBytes 8 (s.io.getWide Fld.CTL_SERIAL_LO Fld.CTL_SERIAL_HI) ++ leBytes 8 m.interval ++ leBytes 8 m.recSeq
    ++ leBytes 2 (st Fld.MTR_POINT_STAT_STALE) ++ leBytes 2 flags ++ leBytes 4 m.breaks ++ leBytes 4 m.log.length ++ leBytes 4 m.version ++ zeros 16
    ++ sub (m.digest.getD Config.meterDigest) 0 64 ++ m.points.flatMap (fun p => leBytes 8 (p.acc / 2 ^ 32))
    ++ m.points.flatMap (fun p => leBytes 2 p.calSeq) ++ zeros 32
  b ++ sub Config.meterKeyId 0 16 ++ sub (Config.sign 1 b) 0 512 ++ zeros 176

/-- R450: a request is taken up at a boundary at least 10 s after the last record's, once its save can be written. -/
def State.takeRequest (s : State) : State :=
  let far := match s.meter.lastRecord with | some t => decide (t + 10 ≤ s.meter.interval) | none => true
  if !s.meter.request || !far || !s.meterWrites then s
  else
    let s := (s.onMeter (fun m => { m with recSeq := m.recSeq + 1 })).saveNow false
    let b := s.signedRecord
    s.onMeter (fun m => { m with request := false, lastRecord := some m.interval, built := some b })

/-- R450: the signed record is published. -/
def execRecordSigned (s : State) : Result :=
  .next (match s.meter.built with
    | none => s
    | some b =>
      if !s.io.meterUp then s
      else
        let s := (List.range 256).foldl (fun s i => s.setF (Fld.MTR_REC i) (fieldAt b (4 * i) 4)) s
        let s := s.onMeter (fun m => { m with built := none })
        ((s.setF Fld.MTR_REC_STAT (fieldAt b 0x18 4)).setF Fld.MTR_REC_REQ 1).fire 459)

/-- R450: a read of MTR_REC_REQ; 1 posts a request and clears READY. -/
def State.recordRead (s : State) : State × Nat :=
  if !s.io.meterUp then (s, 0)
  else
    let v := s.getF Fld.MTR_REC_REQ
    if v = 1 then ((s.setF Fld.MTR_REC_REQ 0).onMeter (fun m => { m with request := true }), 1) else (s, 0)

/-! ### Interval boundaries -/

/-- At a boundary a session opens or closes and installed firmware switches (R454, R455, R458). -/
def State.meterBoundary (s : State) : State :=
  let s :=
    if s.meter.closing then
      let mask := s.meter.session
      let ramped := s.meter.points.zipIdx.map (fun (x : MeterPoint × Nat) => if bit mask x.2 then { x.1 with rampFrom := x.1.pub, ramp := 64 } else x.1)
      let s := s.onMeter (fun m => { m with closing := false, session := 0, held := 0, points := ramped })
      let s := (setBits mask 16).foldl (fun s p => s.setF (Fld.MTR_POINT_STAT_RAMP p) 64) s
      (s.setF Fld.MTR_STATE_CAL 0).setF Fld.MTR_CAL_STAT_SESSION 0
    else s.onMeter (fun m => { m with held := m.session })
  match s.meter.install with
  | some (d, v) => ((s.onMeter (fun m => { m with install := none, digest := some d, version := v, slotB := !m.slotB })).reportFirmware).fire 462
  | none => s

/-- R440 to R443: a reporting interval ends. `mclk` is MTR_MCLK as measured against the crystal, `samples` the decimated voltage and
current samples of each point, oldest first, and `temp` the domain's temperature. -/
def execMeterInterval (mclk : Nat) (samples : List (List (Int × Int))) (temp : Int) (s : State) : Result :=
  .next (
    if !s.io.meterUp then s
    else
      let fault := decide (s.meter.mclkHz < absDiff mclk s.meter.mclkHz * 1000)
      let began := fault && !s.isF Fld.MTR_HEALTH_MCLK_FAULT
      let s := s.onMeter (fun m => { m with interval := m.interval + 1, temp := temp, sinceSave := m.sinceSave + 1 })
      let s := (s.setF Fld.MTR_MCLK_MEAS mclk).setF Fld.MTR_HEALTH_MCLK_FAULT (flag fault)
      let s := if began then (s.auditInfo 0x08 0 (leBytes 4 mclk)).fire 458 else s
      let s := (List.range 16).foldl (fun s p => s.measurePoint fault p (samples.getD p [])) s
      let s := s.setF Fld.MTR_STATE_STALE (flag ((List.range 16).any (fun p => s.isF (Fld.MTR_POINT_STAT_STALE p))))
      let s := s.on (·.setWide Fld.MTR_INTERVAL_LO Fld.MTR_INTERVAL_HI (s.meter.interval % 2 ^ 64))
      let s := s.calAverage fault samples
      let s := s.meterBoundary.takeRequest
      let s := s.flushMeter
      let s := match s.meter.waiting with | some f => if s.meterWrites then s.saveNow f else s | none => s
      (s.onTherm (fun t => { t with absent := false })).fire 448)

/-- R443: a bitstream of a point shows no transition for 4,096 cycles. -/
def execBitstreamStuck (point : Nat) (s : State) : Result :=
  .next (
    if !s.io.meterUp || decide (16 ≤ point) || (s.mpoint point).stuck then s
    else
      let again := s.isF (Fld.MTR_POINT_STAT_STUCK point)
      let s := (s.setMpoint point (fun m => { m with stuck := true })).setF (Fld.MTR_POINT_STAT_STUCK point) 1
      if again then s else s.on (·.fireObj 455 none (2 ^ point)))

/-! ### Calibration -/

/-- The certificate identity that the window's registers hold. -/
def State.calCert (s : State) : List Byte := (List.range 4).flatMap (fun i => leBytes 4 (s.getF (Fld.MTR_CAL_CERT i)))

/-- R453: ABORT, or a release of the pin with a session open. -/
def State.calAbort (s : State) : State :=
  let mask := s.meter.session
  let s := s.onMeter (fun m => { m with session := 0, run := none, closing := false })
  let s := ((s.setF Fld.MTR_STATE_CAL 0).setF Fld.MTR_CAL_STAT_SESSION 0).setF Fld.MTR_CAL_STAT_BUSY 0
  (s.auditInfo 0x04 mask s.calCert).fire 453

/-- R447: MTR_CAL_EN is asserted. -/
def execCalEnAssert (s : State) : Result :=
  .next (if !s.io.meterUp || s.isF Fld.MTR_HEALTH_CAL_EN then s else (s.setF Fld.MTR_HEALTH_CAL_EN 1).breakSeal)

/-- R446, R447, R454: MTR_CAL_EN is released: an open session ends as ABORT, and a pending seal closes. -/
def execCalEnRelease (s : State) : Result :=
  .next (
    if !s.io.meterUp || !s.isF Fld.MTR_HEALTH_CAL_EN then s
    else
      let s := s.setF Fld.MTR_HEALTH_CAL_EN 0
      let s := if s.isF Fld.MTR_CAL_STAT_SESSION && !s.meter.closing then s.calAbort else s
      if s.isF Fld.MTR_CAL_STAT_SEAL_PENDING then
        (((s.setF Fld.MTR_CAL_STAT_SEAL_PENDING 0).onMeter (fun m => { m with intact := true })).reportSeal).fire 450
      else s)

/-- START (R453, R454). -/
def State.calStart (s : State) : State :=
  let mask := s.getF Fld.MTR_CAL_ARG0_POINTS
  if s.isF Fld.MTR_CAL_STAT_SESSION then s.calResult 3
  else if mask = 0 then s.calResult 5
  else if s.logFree < 2 then s.calResult 6
  else
    let s := s.onMeter (fun m => { m with session := mask, points := m.points.map (fun p => { p with cand := p.coef }) })
    (((s.setF Fld.MTR_STATE_CAL 1).setF Fld.MTR_CAL_STAT_SESSION 1).calResult 0).fire 451

/-- A command on one point of the open session: no session, a committed one, or a point outside the mask is refused (R453). -/
def State.calPoint (s : State) (run : Nat → State → State) : State :=
  let p := s.getF Fld.MTR_CAL_ARG0_POINTS
  if !s.isF Fld.MTR_CAL_STAT_SESSION || s.meter.closing then s.calResult 2
  else if 16 ≤ p ∨ !bit s.meter.session p then s.calResult 4
  else run p s

/-- ZERO, VREF and IREF start their 16 intervals. -/
def State.calRun (s : State) (cmd : Nat) : State :=
  s.calPoint fun p s =>
    (s.onMeter (fun m => { m with run := some { cmd := cmd, point := p, reference := s.getF Fld.MTR_CAL_ARG1, ac := s.isF Fld.MTR_CAL_ARG2_AC } })).setF
      Fld.MTR_CAL_STAT_BUSY 1

/-- DELAY (R453). -/
def State.calDelay (s : State) : State :=
  s.calPoint fun p s =>
    (s.setMpoint p (fun m => { m with cand := { m.cand with delay := signed 7 (s.getF Fld.MTR_CAL_ARG1 % 128) } })).calResult 0

/-- COMMIT (R455): the candidates enter the sealed configuration, CAL_SEQ rises, and the session closes at the next boundary. -/
def State.calCommit (s : State) : State :=
  if !s.isF Fld.MTR_CAL_STAT_SESSION || s.meter.closing then s.calResult 2
  else if s.logFree < 2 then s.calResult 6
  else
    let mask := s.meter.session
    let s := s.onMeter (fun m => { m with closing := true, points := m.points.zipIdx.map (fun (x : MeterPoint × Nat) =>
      if bit mask x.2 then { x.1 with coef := x.1.cand, calSeq := (x.1.calSeq + 1) % 2 ^ 16 } else x.1) })
    let s := (setBits mask 16).foldl (fun s p => s.setF (Fld.MTR_POINT_STAT_CAL_SEQ p) (s.mpoint p).calSeq) s
    let low := ((setBits mask 16).head?).getD 0
    let s := s.storeConfig
    ((s.audit 0x03 mask (s.calCert ++ leBytes 2 (s.mpoint low).calSeq)).calResult 0).fire 452

/-- The sealing key's hash is the one in the metering OTP, and a signature over a message verifies with the key (R456). -/
def sealingKeyOk (signed sig : List Byte) : Bool :=
  sha512 (leBytes 512 Config.sealingKey.1) == Config.sealingKeyHash &&
  RsaKey.verifies { modulus := Config.sealingKey.1, exponent := Config.sealingKey.2 } signed sig

/-- SEAL (R456). -/
def State.calSeal (s : State) : State :=
  let sig := (List.range 128).flatMap (fun i => leBytes 4 (s.getF (Fld.MTR_CAL_DATA i)))
  let digest := sha512 s.meter.config
  let signed := leBytes 8 (s.io.getWide Fld.CTL_SERIAL_LO Fld.CTL_SERIAL_HI) ++ leBytes 4 s.meter.log.length ++ sub digest 0 64
  if s.isF Fld.MTR_CAL_STAT_SESSION then s.calResult 3
  else if !s.mPart then s.calResult 7
  else if s.logFree < 2 then s.calResult 6
  else if !sealingKeyOk signed sig then s.calResult 8
  else ((s.audit 0x01 0 (sub digest 0 32)).setF Fld.MTR_CAL_STAT_SEAL_PENDING 1).calResult 0

/-- R447, R453: a write of `v` to MTR_CAL_CMD: without the pin it is ignored; while a command runs RESULT becomes BUSY; after an
accepted SEAL every command is refused; otherwise `v` names the command. -/
def State.calCommand (s : State) (v : Nat) : State :=
  if !s.io.meterUp || !s.isF Fld.MTR_HEALTH_CAL_EN then s
  else if s.isF Fld.MTR_CAL_STAT_BUSY then s.setF Fld.MTR_CAL_STAT_RESULT 1
  else
    let s := s.setF Fld.MTR_CAL_CMD_CMD v
    if s.isF Fld.MTR_CAL_STAT_SEAL_PENDING then s.calResult 9
    else match v % 256 with
      | 0 => s.calResult 0
      | 1 => s.calStart
      | 2 | 3 | 4 => s.calRun (v % 256)
      | 5 => s.calDelay
      | 6 => s.calCommit
      | 7 => if !s.isF Fld.MTR_CAL_STAT_SESSION || s.meter.closing then s.calResult 2 else s.calAbort.calResult 0
      | 8 => s.calSeal
      | _ => s.calResult 10

/-! ### Metering firmware -/

/-- R458: the activation notice: the core checks section 0x000E in STAGING and installs it in the other slot, or refuses it;
`verified`: the slot reads back as written. -/
def execMeterActivationNotice (verified : Bool) (s : State) : Result :=
  .next (
    if !s.io.meterUp || s.upd != uCOPYING || s.boot.meterReported then s
    else match s.partition 2 with
      | none => s
      | some st =>
        match (s.manifestParts (st.start + 0x1000)).find? (fun p => p.kind == 2 && p.target == s.io.part) with
        | none => s
        | some q =>
          let a := st.start + q.off
          let body := s.nvmRead a (q.len - 768)
          let ok := meterKeyOk body (s.nvmRead (a + q.len - 752) 512) && decide (s.meter.otp ≤ Config.meterVersion body) && decide (2 ≤ s.logFree) && verified
          let d := sha512 (s.nvmRead a q.len)
          if ok then
            let s := s.meterStore (if s.meter.slotB then 0x60000 else 0xB0000) (s.nvmRead a q.len)
            let s := (s.saveEnergy false).audit 0x05 0 (sub d 0 32)
            let s := s.onMeter (fun m => { m with install := some (d, Config.meterVersion body) })
            (s.onBoot (fun b => { b with meterReported := true })).activationEnd
          else
            let s := ((s.auditInfo 0x06 0 (sub d 0 32)).setF Fld.MTR_HEALTH_FW_REFUSED 1).fire 463
            (s.onBoot (fun b => { b with meterReported := true })).activationEnd)

end Sys2Proof.Machine
end

