-- ==== Sys2Proof/Machine/Wall.lean ====
section
/-! DEFINITION. The serving unit and its tiles: replies to remote accesses (R294), admission (R483, R484), THROTTLE and the resending of
wall commands (R352, R427, R469); the thermal updates and controlled stops (R465, R468, R474 to R477). -/

namespace Sys2Proof.Machine

/-! ### Admission -/

/-- The reads of an admission poll have this ring number in their waits. -/
def pollRing : Nat := 65537

/-- The registers that a poll reads of a tile (R57, R483): CTL_BOOT, CTL_TILE_ADDR, the wall identity, and CTL_VARIANT (log 38). -/
def pollRegs : List Nat := [Reg.CTL_BOOT, Reg.CTL_TILE_ADDR, Reg.CTL_IMG_WALL_ID_LO, Reg.CTL_IMG_WALL_ID_HI, Reg.CTL_IMG_WALL_SEQ, Reg.CTL_VARIANT]

/-- The tiles that this unit has enumerated: those of the routed output chains on which its ENUM word has gone out. -/
def State.enumerated (s : State) : List (Nat × Nat) :=
  (s.outputs.filter (fun c => s.link.enumSent.contains c && s.transmits c)).flatMap (fun c =>
    match s.route c with
    | some r => (List.range r.tiles).map (fun p => (c, p))
    | none => [])

/-- R483: every 64 ticks the serving unit reads each tile that it has enumerated. -/
def execAdmissionPoll (s : State) : Result :=
  .next (
    if !s.io.operational || !s.serving || decide (s.io.tick % 64 ≠ 0) then s
    else s.enumerated.foldl (fun s (x : Nat × Nat) =>
      let s := s.setTile { s.tile x.1 x.2 with read := [] }
      pollRegs.foldl (fun s a => s.sendRegReq x.1 x.2 pollRing 0 0 a 0) s) s)

/-- A schedule or THROTTLE in force goes out on a chain before an ADMIT (R483). -/
def State.sendInForce (s : State) (chain : Nat) : State :=
  let s := if s.hasCeiling then
      match s.wall.schedule with
      | some c => s.wallCmdAll (· == chain) 0x03 c.body
      | none => s
    else s
  match s.therm.thCmd with
  | some (th, at_) => s.wallCmdAll (· == chain) 0x05 (leBytes 2 th ++ leBytes 6 at_ ++ zeros 4)
  | none => s

/-- R57, R483: every read of a tile has come in: it is admitted, held out, or restarted. -/
def State.decideTile (s : State) (t : TileInfo) : State :=
  let v := fun (a : Nat) => ((t.read.find? (·.1 == a)).map (·.2)).getD 0
  let state := bits (v Reg.CTL_BOOT) 0 3
  let same := decide (v Reg.CTL_IMG_WALL_ID_LO = s.getF Fld.CTL_IMG_WALL_ID_LO ∧ v Reg.CTL_IMG_WALL_ID_HI = s.getF Fld.CTL_IMG_WALL_ID_HI
    ∧ v Reg.CTL_IMG_WALL_SEQ = s.getF Fld.CTL_IMG_WALL_SEQ)
  let s := s.setTile { t with read := [], part := some (v Reg.CTL_VARIANT % 256), admitted := t.admitted && decide (state = stOPERATIONAL) }
  let obj := objTile t.chain t.position
  if !same then
    let s := s.on (·.fireObj 5 none obj)
    if state = stOPERATIONAL then s.wallCmdTo t.chain t.position 0x02 (restartBody (s.io.tick + 12) 0xFF) else s
  else if state = stJOINING ∧ bit (v Reg.CTL_TILE_ADDR) 11 ∧ s.isF (Fld.TCK_HOP_DELAY_VALID t.chain t.position) then
    let at_ := s.io.tick + 2
    let s := (s.sendInForce t.chain).wallCmdTo t.chain t.position 0x01 (leBytes 6 at_ ++ zeros 6)
    (s.setTile { s.tile t.chain t.position with admitted := true, reported := at_, stale := false }).on (·.fireObj 6 none obj)
  else s

/-- A value that an admission poll has read. -/
def State.pollReply (s : State) (chain pos off value : Nat) : State :=
  let t := s.tile chain pos
  let t := { t with read := (off, value) :: t.read.filter (·.1 != off) }
  if pollRegs.all (fun a => t.read.any (·.1 == a)) then s.decideTile t else s.setTile t

/-- R484: an ADMIT arrives at a tile in JOINING. -/
def execAdmitReceived (port : Nat) (packet : List Byte) (s : State) : Result :=
  .next (match s.keptCmd port 0x01 packet [stJOINING] with
    | (s, some b) => s.onBoot (fun x => { x with admitAt := some (fieldAt b 0 6) })
    | (s, none) => s)

/-! ### Replies to remote accesses -/

/-- R294: a REG_RSP's payload from a tile. -/
def State.regReply (s : State) (chain pos : Nat) (pl : List Byte) : State :=
  match s.link.regs.find? (fun w => w.chain == chain && w.position == pos && w.tag == fieldAt pl 0 2) with
  | none => s
  | some w =>
    let s := { s with link := { s.link with regs := eraseFirst (· == w) s.link.regs } }
    let value := fieldAt pl 8 4
    if w.ring = attestRing then s.attestReply w.index value
    else if w.ring = pollRing then (if fieldAt pl 2 1 = 0 then s.pollReply chain pos w.offset value else s)
    else match (s.io.ring w.ring).active.find? (fun a => a.1 == w.index) with
      | some (_, e) => s.on (·.finish w.ring w.index e { detail := fieldAt pl 2 1, info := value })
      | none => s

def execRegRspReceived (port : Nat) (cell : List Byte) (s : State) : Result :=
  .next (match s.acceptCell port 0x3 cell with
    | (s, some c) => s.regReply c.chain c.position c.payload
    | (s, none) => s)

/-- R294: no reply has come in time. -/
def execRegReqTimeout (chain tag : Nat) (s : State) : Result :=
  .next (
    let w := s.link.regs.find? (fun w => w.chain == chain && w.tag == tag)
    let t := s.regTimeout chain tag
    match w with
    | some w => if w.ring = attestRing ∧ !(t.link.regs.any (fun v => v.chain == chain && v.tag == tag)) then t.attestTimeout else t
    | none => t)

/-! ### THROTTLE and resent commands -/

/-- The least th of the last evaluation, of the tiles and of the part's own section (R469). -/
def State.leastTh (s : State) : Option Nat :=
  let own := if s.io.isCombined then [s.getF Fld.THM_TH_LOCAL] else []
  match own ++ s.tiles.filterMap (·.th) with
  | [] => none
  | h :: t => some (t.foldl min h)

/-- A THROTTLE command is taken by the rules of R352: an equal or older one is ignored. -/
def State.takeThrottle (s : State) (c : Nat × Nat) : State :=
  let take := s.onTherm (fun t => { t with thCmd := some c, thNext := some c })
  match s.therm.thCmd with
  | some h => if c = h ∨ c.2 < h.2 then s else take
  | none => take

/-- The body of a THROTTLE command (R469). -/
def throttleBody (c : Nat × Nat) : List Byte := leBytes 2 c.1 ++ leBytes 6 c.2 ++ zeros 4

/-- R469: every 64 ticks the serving unit sends the least th when it differs from th_wall in force. -/
def execWallThrottleCheck (s : State) : Result :=
  .next (
    if !s.io.operational || !s.serving || decide (s.io.tick % 64 ≠ 0) then s
    else match s.leastTh with
      | none => s
      | some th =>
        let now := match s.therm.thCmd with | some c => c.1 | none => 32768
        if th = now then s
        else
          let c := (th, s.io.tick + 8)
          (s.takeThrottle c).wallCommand 0x05 (throttleBody c))

/-- R469, R484: a THROTTLE command arrives at a tile. -/
def execThrottleReceived (port : Nat) (packet : List Byte) (s : State) : Result :=
  .next (match s.keptCmd port 0x05 packet [stJOINING, stOPERATIONAL] with
    | (s, some b) => s.takeThrottle (fieldAt b 0 2, fieldAt b 2 6)
    | (s, none) => s)

/-- R469 at a tick: a THROTTLE command is adopted at APPLY, or at the next tick when APPLY has passed. -/
def State.throttleTick (s : State) : State :=
  match s.therm.thNext with
  | some (th, at_) =>
    if s.io.tick < at_ then s
    else
      let s := (s.onTherm (fun t => { t with thWall := th, thNext := none })).setF Fld.THM_STATE_WALL_TH 1
      ((s.setF Fld.THM_TH_APPLIED s.thApplied).throttleState).fire 490
  | none => s

/-- R352, R427, R469: every 256 ticks the serving unit sends again what is in force. -/
def execWallCmdResend (s : State) : Result :=
  .next (
    if !s.io.operational || !s.serving || decide (s.io.tick % 256 ≠ 0) then s
    else
      let s := if s.hasCeiling then
          match s.wall.schedule with
          | some c => s.wallCommand 0x03 c.body
          | none => s
        else s
      let s := match s.therm.thCmd with
        | some c => s.wallCommand 0x05 (throttleBody c)
        | none => s
      s.resendMasks)

/-! ### Stops -/

/-- The thermal stops of the last 3,600 s are kept and reported (R477, R478). -/
def State.recentStops (s : State) : State :=
  let recent := s.boot.stops.filter (fun t => decide (s.io.now < t + 3600 * 64 * 10 ^ 9))
  (s.onBoot (fun b => { b with stops := recent })).setF Fld.THM_CAUSE_STOPS (min 3 recent.length)

/-- PD0 counts a thermal stop (R477). -/
def State.countStop (s : State) (cause : Nat) : State :=
  (s.onBoot (fun b => { b with stops := s.io.now :: b.stops })).recentStops.setF Fld.THM_CAUSE_LAST cause

/-- R474, R475: a controlled shutdown starts. -/
def State.shutdown (s : State) (cause : Nat) : State :=
  if s.boot.power ≠ 0 ∨ s.io.boot < stTRAINING ∨ stOPERATIONAL < s.io.boot then s
  else
    let s := (s.countStop cause).onBoot (fun b => { b with power := 1 })
    let s := ((s.setF Fld.THM_STATE_STATE 2).alert 4 true).fire 484
    let s := if s.needsMeter then s.onMeter (fun m => { m with notice := true }) else s
    let s := if s.io.hasHost then s.resign else s
    let s := (s.setF Fld.THM_STATE_ERASE_OK 0).queueRecord 3 s.thermRecord
    if !s.io.hasLamps then s
    else
      let s := (List.range 64).foldl (fun s b => s.setF (Fld.LMP_LIM b) 0) (s.onBoot (fun b => { b with dark := true }))
      let s := s.shutdownPasses
      (s.queueRecord 4 s.ceilRecord).queueRecord 6 s.unverifiedRecord

/-- PD2 to PD19 are switched off: what they hold is lost; PD0 keeps its own (R475, R476), and whether the device restarts by itself: with
AUTO_RESTART, and not after the third stop within 3,600 s (R477). -/
def State.switchOff (s : State) : State :=
  let auto := s.isF Fld.THM_CFG_AUTO_RESTART && decide (s.boot.stops.length < 3)
  (s.cleared false false).onBoot (fun b => { b with held := true, power := 2, autoRestart := auto })

/-- R475: the pending writes have ended, or SHUT_TIMEOUT has expired. -/
def execShutdownTimeout (s : State) : Result := .next (if s.boot.power = 1 then s.switchOff else s)

/-- R476: a diode reaches 125 °C. -/
def execDiodeTrip (s : State) : Result :=
  .next (if !s.boot.pwrgood ∨ s.boot.power = 2 then s
    else
      let s := if s.boot.power = 1 then s.setF Fld.THM_CAUSE_LAST 4 else s.countStop 4
      (s.alert 5 true).switchOff)

/-- R477: both diodes have read at or below RESTART_T for 10 s: the device restarts, unless the automatic restart is off. -/
def execThermalRestart (umberLow : Bool) (d0 d1 : Int) (t : Nat) (s : State) : Result :=
  .next (
    if s.boot.power ≠ 2 || !s.boot.pwrgood || !s.boot.autoRestart then s
    else ((s.startPins d0 d1 t).onBoot (fun b => { b with thermalRestart := true })).restart false umberLow)

/-- R159, R474: MR4 is read; a multiplier above 2 starts a controlled shutdown. -/
def execMr4Poll (channel quarters : Nat) (s : State) (t : Nat := 0) : Result :=
  .next (
    let s' := s.mr4Poll channel quarters t
    if s.chanRunning channel ∧ 8 < quarters then s'.shutdown 3 else s')

/-! ### Updates and evaluations -/

/-- The manager runs: from the end of LOADING on, while the device is powered. -/
def State.thermalRuns (s : State) : Bool := decide (stTRAINING ≤ s.io.boot ∧ s.io.boot ≤ stOPERATIONAL) && decide (s.boot.power < 2)

/-- R465, R474: a model update; `busy` holds each region's busy sums by kind. -/
def execThermalModelUpdate (d0 d1 : Int) (busy : List (List Nat)) (s : State) (t : Nat := 0) : Result :=
  .next (
    if !s.thermalRuns then s
    else
      let s := (s.on (·.at t)).recentStops.modelUpdate d0 d1 busy
      let s := s.boardNode (s.nodeAbove 5 85) (!s.nodeAbove 5 82)
      if (List.range 5).any (fun i => !s.nodeBelow i 115) then s.shutdown 1 else s)

/-- A tile's step after an evaluation: the core clock's next value, the report of th, and the floor's shutdown (R469 to R471). -/
def State.afterLimits (s : State) : State :=
  let c := s.cclkStep
  let n := s.therm.evalN
  let s := match c.1 with | some v => s.onTherm (fun t => { t with cclkNext := some v }) | none => s
  let s := s.sendTelemetry 1 (leBytes 2 (s.getF Fld.THM_TH_LOCAL) ++ leBytes 2 n)
  let s := s.onTherm (fun t => { t with evalN := n + 1 })
  if c.2 then s.shutdown 2 else s

/-- R468 to R471: an evaluation; a tile reports th. -/
def execThermalEvaluation (s : State) : Result :=
  .next (if !s.thermalRuns || decide (s.boot.power = 1) then s else s.evaluateLimits.afterLimits)

end Sys2Proof.Machine
end

