-- ==== Sys2Proof/Machine/Compare.lean ====
section
/-! DEFINITION. The comparison of a standby (R310 to R312), its decisions, and the takeover (R313, R314, R320). -/

namespace Sys2Proof.Machine

/-- The unit compares: a standby in lockstep (R309, R318). -/
def State.compares (s : State) : Bool := s.pairUnit.lockstep && decide (pJOINING ≤ s.pair)

/-- The comparison of a chain counts for a frame: the standby does not feed the chain, and a reunited chain resumes (R315, R316). -/
def State.comparesChain (s : State) (chain frame : Nat) : Bool :=
  !bit (s.getF Fld.PAIR_FEED_CHAINS) chain && !s.pairUnit.compareFrom.any (fun c => c.1 == chain && decide (frame < c.2))

/-! ### Decisions -/

/-- R313: a mismatch decision of an armed standby: DEPOSE with CAUSE 0, whose acknowledgement it awaits. -/
def State.deposePartner (s : State) (cause : Nat) : State :=
  if s.pairUnit.trigger.isSome then s
  else
    let q := s.pairUnit.txSeq
    let s := s.sendPair 0x16 (leBytes 4 (s.getF Fld.PAIR_EPOCH + 1) ++ leBytes 1 cause)
    s.onPair (fun u => { u with trigger := some s.io.now, deposeSeq := if cause = 0 then some q else none })

/-- R320: a unit that is not ARMED enters SUSPECT at a decision. -/
def State.enterSuspect (s : State) : State :=
  if s.pair = pSUSPECT then s
  else
    let s := (((s.setPairState pSUSPECT).alert 2 true).bumpF Fld.PAIR_STATE_ATTEMPTS).fire 293
    s.onPair (fun u => { u with suspectAt := s.io.tick })

/-- The outcomes of a frame count: while a unit joins, those of frames from tick c + 10 on (R312). -/
def State.frameCounts (s : State) (frame : Nat) : Bool :=
  s.pair ≠ pJOINING || (match s.pairUnit.joinCycle with | some c => decide (c + 10 ≤ frame) | none => false)

/-- R312: a mismatch decision for a frame whose outcomes count, once per frame. -/
def State.decideMismatch (s : State) (frame : Nat) : State :=
  if !s.frameCounts frame || s.pairUnit.decided.contains frame then s
  else
    let s := ((s.onPair (fun u => { u with decided := frame :: u.decided })).bumpF Fld.PAIR_DECISIONS).fire 290
    if s.pair = pARMED then s.deposePartner 0 else s.enterSuspect

/-- The nearest segment of a list that has not been EXCUSED is mismatched (R312). -/
def nextMismatched (es : List Expect) : Bool :=
  match es.find? (fun e => e.outcome != some 2) with
  | some e => e.outcome == some 1
  | none => false

/-- Entry `i` of a chain's expected segments has a mismatched neighbour, with EXCUSED segments skipped (R312). -/
def pairMismatched (es : List Expect) (i : Nat) : Bool :=
  nextMismatched (es.take i).reverse || nextMismatched (es.drop (i + 1))

/-- The mismatched segments of a frame over all chains. -/
def PairUnit.badIn (u : PairUnit) (frame : Nat) : Nat := ((u.frameBad.find? (·.1 == frame)).map (·.2)).getD 0

/-! ### Outcomes -/

/-- An expected segment equals another in its place. -/
def Expect.sameAs (e f : Expect) : Bool := e.chain == f.chain && e.position == f.position && e.row == f.row && e.tick == f.tick

/-- The outcome of an expected segment is recorded. -/
def State.setOutcome (s : State) (e : Expect) (o : Nat) : State :=
  s.onPair (fun u => { u with expect := u.expect.map (fun f => if f.sameAs e then { f with outcome := some o } else f) })

/-- The decision that a newly decided outcome leads to, if any (R312): two consecutive mismatched segments of a chain, or four of
a frame. An EXCUSED outcome may bring two mismatched segments together. -/
def State.judge (s : State) (e : Expect) : State :=
  let es := s.pairUnit.expect.filter (fun f => f.chain == e.chain && s.frameCounts f.tick)
  let i := es.findIdx (fun f => f.sameAs e)
  let two := match es[i]? with
    | some f =>
      if f.outcome = some 1 then pairMismatched es i
      else f.outcome == some 2 && nextMismatched (es.take i).reverse && nextMismatched (es.drop (i + 1))
    | none => false
  if two || decide (4 ≤ s.pairUnit.badIn e.tick) then s.decideMismatch e.tick else s

/-- R311: an expected segment counts as mismatched, in one of the kinds of PAIR_LAST_MISMATCH. -/
def State.mismatch (s : State) (e : Expect) (kind : Nat) : State :=
  let s := (s.setOutcome e 1).bumpF Fld.PAIR_MISMATCHED
  let s := ((s.setF Fld.PAIR_LAST_MISMATCH_CHAIN e.chain).setF Fld.PAIR_LAST_MISMATCH_POSITION e.position).setF Fld.PAIR_LAST_MISMATCH_ROW e.row
  let s := (s.setF Fld.PAIR_LAST_MISMATCH_TICK_LO e.tick).setF Fld.PAIR_LAST_MISMATCH_KIND kind
  let s := s.on (·.fireOnce e.chain { event := 289, region := some (e.chain / 4), obj := e.chain % 4 })
  let s := s.onPair (fun u => { u with frameBad := (e.tick, u.badIn e.tick + 1) :: u.frameBad.filter (·.1 != e.tick) })
  s.judge e

/-- R311: an expected segment is EXCUSED. -/
def State.excused (s : State) (e : Expect) : State := ((s.setOutcome e 2).bumpF Fld.PAIR_EXCUSED).judge e

/-- A segment has been compared on a chain. -/
def State.compared (s : State) (chain : Nat) : State :=
  (s.on (·.addWide Fld.PAIR_COMPARED_LO Fld.PAIR_COMPARED_HI 1)).onPair
    (fun u => { u with seenPorts := if u.seenPorts.contains chain then u.seenPorts else chain :: u.seenPorts })

/-- A received segment settles an expected one (R311). -/
def State.settlePair (s : State) (x : Seen) (e : Expect) : State :=
  if x.bad then s.excused e
  else if x.aborted then s.mismatch e 1
  else if x.digest = e.digest then (s.setOutcome e 0).compared e.chain
  else (s.compared e.chain).mismatch e 0

/-- One received segment: matched by CHAIN, POSITION, ROW and TICK_LO, or kept for later. -/
def State.matchSeen (s : State) (x : Seen) : State :=
  match s.pairUnit.expect.find? (fun e => e.outcome.isNone && e.chain == x.chain && e.position == x.position && e.row == x.row
      && e.tick % 256 == x.tickLo) with
  | some e => if s.comparesChain e.chain e.tick then s.settlePair x e else s
  | none => s.onPair (fun u => { u with early := u.early ++ [x] })

/-- R311: what has come in is matched to what the unit's own encoders have written. -/
def State.compareAll (s : State) : State :=
  let xs := s.pairUnit.early
  let s := s.onPair (fun u => { u with early := [] })
  if s.compares then xs.foldl State.matchSeen s else s

/-- The unresolved expected segments of a chain for a frame, the lowest ROW first where `pos` names the tile. -/
def State.openSegments (s : State) (chain frame : Nat) : List Expect :=
  s.pairUnit.expect.filter (fun e => e.outcome.isNone && e.chain == chain && e.tick == frame)

/-- The one of lowest ROW. -/
def lowestRow (es : List Expect) : Option Expect :=
  es.foldl (fun a e => match a with | some b => if e.row < b.row then some e else a | none => some e) none

/-- A received segment that matches no expected one (R311). -/
def State.strayed (s : State) (frame : Nat) (x : Seen) : State :=
  match lowestRow ((s.openSegments x.chain frame).filter (fun e => e.position == x.position)) with
  | some e => if x.bad then s.excused e else (s.compared e.chain).mismatch e 0
  | none => s

/-- R311: the comparison deadline of a chain for a frame: every expected segment gets its outcome. -/
def State.comparisonDeadline (s : State) (chain frame : Nat) : State :=
  if !s.compares || !s.comparesChain chain frame then s
  else
    let (mine, rest) := s.pairUnit.early.partition (fun x => x.chain == chain && x.tickLo == frame % 256)
    let s := s.onPair (fun u => { u with early := rest })
    let s := mine.foldl (fun s x => s.strayed frame x) s
    let events := if frame ≤ s.io.tick then s.pairUnit.excuseOld else s.pairUnit.excuse
    let free := events.contains chain || !s.portUp chain
    (s.openSegments chain frame).foldl (fun s e => if free then s.excused e else s.mismatch e 2) s

def execComparisonDeadline (chain frame : Nat) (s : State) : Result := .next (s.comparisonDeadline chain frame)

/-- R240, R310: a SEGMENT packet comes in on a port. -/
def execSegmentReceived (port : Nat) (packet : List Byte) (aborted : Bool) (s : State) : Result :=
  .next (s.segmentReceived port packet aborted).compareAll

/-- R238, R310: an encode slot runs. -/
def execEncodeSlot (region slot : Nat) (late : Bool) (s : State) : Result := .next (s.encodeSlot region slot late).compareAll

/-! ### Who serves -/

/-- A COMMIT entry in execution ends with STATUS 0x08 (R314). -/
def State.endCommits (s : State) : State :=
  let s := s.video.lay.commits.foldl (fun s c => s.commitEnd c { status := 0x08 }) s
  let s := s.video.lay.compiled.foldl (fun (s : State) c =>
    match c.ring with
    | some (n, i, e) => s.commitEnd { ring := n, index := i, entry := e, desc := none, waits := 0 } { status := 0x08 }
    | none => s) s
  s.onLay (fun l => { l with compiled := l.compiled.map (fun c => { c with ring := none }) })

/-- The forward drivers of this unit go off: what waits for its windows is lost (R314). -/
def State.dropForward (s : State) : State :=
  (List.range 16).foldl (fun s p =>
    let pt := s.port p
    s.setPort p { pt with video := [], carried := [], bulk := [], videoLeft := 0 }) s

/-- R314, R322, R325: an ACTIVE unit stops serving: it becomes STANDBY_JOINING, its ports become return originators, and it
holds its tick until the new active unit's markers come in (log 41). -/
def State.standDown (s : State) : State :=
  let s := (s.endCommits.dropForward.toJoining).onPair (fun u => { u with silenceAt := none, snapshotDue := false, snapshotSeq := none, splitChains := [] })
  let s := s.setMode mHOLDOVER
  let s := { s with tick := { s.tick with marked := true, valid := 0, lost := 0, nextRateSet := s.rateSet, pending := [], inGap := false, repeatAt := none, lossHeld := true, steady := false, fixed := false, number := none } }
  s.updateOrigin

/-- R314: the unit becomes ACTIVE at this tick. The tick is held at its period and the unit's own GLK_IN is judged from now on
(R76). -/
def State.becomeActive (s : State) : State :=
  let t := s.io.tick
  let epoch := max (s.getF Fld.PAIR_EPOCH) ((s.pairUnit.partner.map (·.epoch)).getD 0) + 1
  let s := ((s.setF Fld.PAIR_EPOCH epoch).setPairState pACTIVE).bumpF Fld.PAIR_TAKEOVERS
  let s := (((s.setF Fld.PAIR_FEED_CHAINS 0).joinPhase 0).setMode mHOLDOVER).fire 291
  let s := s.onPair (fun u => { u with trigger := none, deposeSeq := none, takeAt := none, invalidAt := some (t + 4), lockstep := false, joinCycle := none,
                                       expect := [], early := [], feedNext := [], reunite := [], splitChains := [] })
  let s := { s with tick := { s.tick with edge := none, expected := none, accepted := none, intervals := [], every := [], run := 0, missing := 0,
                                          inPhase := 0, found := none, pending := [], inGap := false, repeatAt := none, lossHeld := false, fixed := false,
                                          number := none } }
  ((s.setF Fld.TCK_REF_PERIOD 0).setF Fld.TCK_STATE_REF_PRESENT 0).updateOrigin

/-! ### The tick -/

/-- R318: a tick counts as clean, resets the count, or leaves it. -/
def State.cleanTick (s : State) : State :=
  let j := s.io.tick - 1
  let from_ := match s.pairUnit.joinCycle with | some c => decide (c + 10 ≤ j) | none => false
  let mine := s.pairUnit.expect.filter (fun e => e.tick == j)
  let bad := mine.any (fun e => e.outcome == some 1)
  let good := mine.any (fun e => e.outcome == some 0)
  if !from_ then s
  else
    let s := if s.pair = pJOINING then s.joinPhase 3 else s
    if bad then s.setF Fld.PAIR_CLEAN 0
    else if !good then s
    else
      let n := min 256 (s.getF Fld.PAIR_CLEAN + 1)
      let s := s.setF Fld.PAIR_CLEAN n
      if s.pair = pJOINING ∧ n = 256 then (((s.setPairState pARMED).joinPhase 0).setF Fld.PAIR_STATE_ATTEMPTS 0).fire 294 else s

/-- R315: the standby begins to feed chains at this tick. -/
def State.startFeeding (s : State) : State :=
  let cs := s.pairUnit.feedNext
  let s := s.onPair (fun u => { u with feedNext := [] })
  (cs.foldl (fun (s : State) c =>
    if bit (s.getF Fld.PAIR_FEED_CHAINS) c then s
    else (s.setF Fld.PAIR_FEED_CHAINS (putBits (s.getF Fld.PAIR_FEED_CHAINS) c 1 1)).fire 297) s).updateOrigin

/-- R316: chains whose tick W has come are reunited: the standby stops feeding them, and both units know so. -/
def State.reuniteTick (s : State) : State :=
  let (due, rest) := s.pairUnit.reunite.partition (fun r => decide (r.2 ≤ s.io.tick))
  let s := s.onPair (fun u => { u with reunite := rest })
  (due.foldl (fun (s : State) r =>
    let s := (s.setF Fld.PAIR_FEED_CHAINS (putBits (s.getF Fld.PAIR_FEED_CHAINS) r.1 1 0)).fire 298
    s.onPair (fun u => { u with splitChains := u.splitChains.filter (· != r.1),
                                compareFrom := (r.1, r.2 + 5) :: u.compareFrom.filter (·.1 != r.1) })) s).updateOrigin

/-- R308: the latest tick for which every read of a buffer replaced at or before it has ended in this unit. -/
def State.readDoneTick (s : State) : Nat :=
  s.video.composing.foldl (fun m c => min m (c.frame + 1)) s.io.tick

/-- An output chain still carries the active unit's markers (R288, R313). -/
def State.carries (s : State) (p : Nat) : Bool :=
  s.isOutput p && s.portUp p && s.tick.ports.any (fun e => e.1 == p && decide (e.2.1 < 3))

/-- R313: the pair port has missed three markers in a row: while a chain still carries the active unit's markers the unit returns
to joining, and otherwise an armed unit takes over. A port compared in the previous period is one that still carries them. -/
def State.silentCheck (s : State) : State :=
  if (s.portRun pairPort).1 < 3 then s
  else if (List.range 16).any s.carries then
    (if s.pairUnit.lockstep || decide (s.pair = pARMED ∨ s.pair = pSUSPECT) then (if s.pair = pSUSPECT then s.alert 2 false else s).leaveLockstep else s)
  else if s.pair = pARMED then s.deposePartner 1
  else s

end Sys2Proof.Machine
end

