-- ==== Sys2Proof/Machine/Pair.lean ====
section
/-! DEFINITION. The redundant pair (R303 to R326): packets of the pair port, announcements, snapshots, split chains, cold start and
planned handovers. -/

namespace Sys2Proof.Machine

/-! ### HELLO -/

/-- CTL_IMG_DIGEST as bytes. -/
def State.ownDigest (s : State) : List Byte := (List.range 16).flatMap (fun i => leBytes 4 (s.getF (Fld.CTL_IMG_DIGEST i)))
/-- WALL_ID of the image, and this unit's SERIAL. -/
def State.ownWallId (s : State) : Nat := s.io.getWide Fld.CTL_IMG_WALL_ID_LO Fld.CTL_IMG_WALL_ID_HI
def State.ownSerial (s : State) : Nat := s.io.getWide Fld.CTL_SERIAL_LO Fld.CTL_SERIAL_HI

/-- R304, R305: HELLO. -/
def State.sendHello (s : State) : State :=
  if !s.paired then s
  else s.sendPair 0x10 (leBytes 8 s.ownSerial ++ leBytes 4 (s.getF Fld.PAIR_EPOCH) ++ leBytes 1 s.pair ++ zeros 3 ++ leBytes 8 s.ownWallId
    ++ leBytes 4 (s.getF Fld.CTL_IMG_WALL_SEQ) ++ s.ownDigest)

def execHelloSend (s : State) : Result := .next s.sendHello

/-- R305: what HELLO tells of the partner, and which unit of the pair this one is. -/
def State.notePartner (s : State) (b : List Byte) : State :=
  let serial := fieldAt b 0 8
  let foreign := decide (fieldAt b 16 8 ≠ s.ownWallId) || sub b 28 64 != s.ownDigest
  let was := s.isF Fld.PAIR_STATE_FOREIGN
  let s := s.onPair (fun u => { u with partner := some { serial := serial, epoch := fieldAt b 8 4, state := fieldAt b 12 1, wallId := fieldAt b 16 8, foreign := foreign } })
  let s := s.on (·.setWide Fld.PAIR_PARTNER_SERIAL_LO Fld.PAIR_PARTNER_SERIAL_HI serial)
  let s := ((s.setF Fld.PAIR_STATE_UNIT (flag (decide (serial < s.ownSerial)))).setF Fld.PAIR_STATE_UNIT_VALID 1).setF Fld.PAIR_STATE_FOREIGN (flag foreign)
  let s := s.alert 3 false
  if foreign && !was then s.fire 300 else s

/-- R322: both units report ACTIVE: the one of lower EPOCH, or the second unit, stands down. -/
def State.dualActive (s : State) (epoch : Nat) : State :=
  let s := s.fire 299
  let mine := s.getF Fld.PAIR_EPOCH
  if mine < epoch ∨ (mine = epoch ∧ s.isF Fld.PAIR_STATE_UNIT) then s.standDown else s

/-- R305, R318, R322, R324: what a HELLO leads to. -/
def State.actOnHello (s : State) : State :=
  match s.pairUnit.partner with
  | none => s
  | some p =>
    if s.pair = pACTIVE ∧ p.state = pACTIVE then s.dualActive p.epoch
    else if s.pair = pJOINING ∧ s.io.boot = stJOINING ∧ p.state ≠ pACTIVE ∧ s.getF Fld.PAIR_STATE_UNIT = 0 then
      ((s.setF Fld.PAIR_EPOCH 1).setPairState pACTIVE).updateOrigin
    else if s.pair = pACTIVE && p.state == pJOINING && !p.foreign && (!s.pairUnit.lockstep || !s.pairUnit.gotRead) then
      s.onPair (fun u => { u with snapshotDue := true })
    else s

def execHelloReceived (payload : List Byte) (s : State) : Result :=
  .next (match s.takePair payload with
    | (s, some b) => if s.paired then (s.notePartner b).actOnHello else s
    | (s, none) => s)

/-! ### Announcements -/

/-- A pinned frame of an announcement or a snapshot (R304, R319). -/
def State.pin (s : State) (p v : Nat) : State :=
  if v = 0xFFFFFFFF then s.setCascade { s.cascadeIn p with pinned := none } else s.setCascade { s.cascadeIn p with pinned := some v }

/-- The body of a COMMIT_ANN enters the compiled commits and pins its frames (R185, log 27). -/
def State.takeCommit (s : State) (b : List Byte) : State :=
  let c : Compiled := { ring := none, records := descRecords (fieldAt b 6 1) (b.drop 72), tick := fieldAt b 0 6 }
  let s := (List.range 16).foldl (fun (s : State) p => if (s.cascadePort p).isSome then s.pin p (fieldAt b (8 + 4 * p) 4) else s) s
  s.onLay (fun l => { l with compiled := l.compiled ++ [c] })

/-- R309: announcements reach a standby in lockstep. -/
def execCommitAnnReceived (payload : List Byte) (s : State) : Result :=
  .next (match s.takePair payload with
    | (s, some b) => if s.compares then s.takeCommit b else s
    | (s, none) => s)

def execKeyAnnReceived (payload : List Byte) (s : State) : Result :=
  .next (match s.takePair payload with
    | (s, some b) =>
      let w := fieldAt b 8 8
      if s.compares then s.acceptKeys (bits w 6 4) (bits w 0 6) (fieldAt b 0 6) (bits w 10 12) (bits w 22 12) else s
    | (s, none) => s)

def execCycleAnnReceived (payload : List Byte) (s : State) : Result :=
  .next (match s.takePair payload with
    | (s, some b) => if s.compares then s.onVideo (fun v => { v with cycle := some (fieldAt b 0 6) }) else s
    | (s, none) => s)

/-- R309: an announcement has not arrived in time: the standby leaves lockstep. -/
def execAnnouncementMissing (s : State) : Result := .next (if s.compares then (s.fire 295).leaveLockstep else s)

/-! ### Snapshots -/

/-- One state block (R319). -/
def snapBlock (t : Nat) (body : List Byte) : List Byte :=
  leBytes 2 t ++ zeros 2 ++ leBytes 4 body.length ++ body ++ zeros ((4 - body.length % 4) % 4)

/-- Length of an entry of block LAYERS: its fields' lengths added (log 43). -/
def layerEntry : Nat := 148

/-- The LAYERS entry of a layer. -/
def State.layerBlock (s : State) (n : Nat) : List Byte :=
  let r := (s.video.lay.layers.find? (·.1 == n)).map (·.2)
  let t := s.io.tick
  let lo := s.getF (Fld.CMP_LAYER_SINCE n)
  let since := if lo ≤ t % 2 ^ 32 then t / 2 ^ 32 * 2 ^ 32 + lo else (t / 2 ^ 32 - 1) * 2 ^ 32 + lo
  leBytes 1 (flag r.isSome) ++ zeros 3 ++ leBytes 4 (s.getF (Fld.CMP_LAYER_TAG n)) ++ leBytes 2 (s.getF (Fld.CMP_LAYER_RING n)) ++ zeros 2
    ++ leBytes 6 since ++ zeros 2 ++ sub (r.getD []) 0 128

/-- A delay of block DELAYS. -/
def State.delayWord (s : State) (v k : Field) : List Byte := leBytes 4 (s.getF v + 2 ^ 31 * flag (s.isF k))

/-- D_A and D_B of a tile (R86). -/
def State.tileDelays (s : State) (c p : Nat) : List Byte :=
  let h := Sparse.get (fun _ => 0) s.tick.repeatH (tileKey c p)
  let a := s.getF (Fld.TCK_HOP_DELAY_VALUE c p)
  let ok := s.isF (Fld.TCK_HOP_DELAY_VALID c p) && s.isF (Fld.TCK_END_DELAY_VALID c)
  s.delayWord (Fld.TCK_HOP_DELAY_VALUE c p) (Fld.TCK_HOP_DELAY_VALID c p)
    ++ leBytes 4 (if ok then s.getF (Fld.TCK_END_DELAY_VALUE c) - a - h + 2 ^ 31 else 0)

/-- A schedule body or zeros (R319). -/
def orZeros (b : Option (List Byte)) : List Byte := b.getD (zeros 12)

/-- The SNAPSHOT body for tick s = the current tick, with the full-key cycle's start `c` (R304, R318, R319). -/
def State.snapshotBody (s : State) (c : Nat) : List Byte :=
  let t := s.io.tick
  let ahead := s.video.lay.compiled.filter (fun x => decide (t < x.tick))
  let commits := ahead.map (fun x =>
    leBytes 6 x.tick ++ leBytes 1 x.records.length ++ zeros 1
      ++ (List.range 16).flatMap (fun p => leBytes 4 ((s.cascadeIn p).pinned.getD 0xFFFFFFFF)) ++ x.records.flatten)
  let keysets := s.video.mirrors.map (fun m =>
    leBytes 1 m.chain ++ leBytes 1 m.position ++ leBytes 2 m.keys.length ++ m.keys.flatMap (fun k => leBytes 6 k.1 ++ leBytes 2 k.2))
  leBytes 6 t ++ zeros 2
    ++ snapBlock 1 (leBytes 6 t ++ leBytes 1 s.rateSet ++ leBytes 1 s.mode ++ leBytes 4 s.period ++ leBytes 4 (s.getF Fld.PAIR_EPOCH) ++ zeros 4)
    ++ snapBlock 2 ((List.range 64).flatMap s.layerBlock)
    ++ snapBlock 3 (leBytes 4 commits.length ++ commits.flatten)
    ++ snapBlock 4 ((List.range 16).flatMap (fun p => leBytes 4 ((s.cascadeIn p).pinned.getD 0xFFFFFFFF)))
    ++ snapBlock 5 ((List.range 16).flatMap (fun n =>
        s.delayWord (Fld.TCK_END_DELAY_VALUE n) (Fld.TCK_END_DELAY_VALID n) ++ (List.range 64).flatMap (s.tileDelays n)))
    ++ snapBlock 6 (leBytes 4 keysets.length ++ keysets.flatten)
    ++ snapBlock 7 (leBytes 6 c ++ zeros 2)
    ++ snapBlock 8 (orZeros ((s.wall.inForce s.io.tick).map Schedule.body) ++ orZeros (s.therm.thCmd.map throttleBody))

/-- R309, R318: the active unit sends its SNAPSHOT at this tick, and announces the cycle that begins two ticks later. -/
def State.sendSnapshot (s : State) : State :=
  let c := s.io.tick + 2
  let s := s.onPair (fun u => { u with snapshotDue := false, snapshotSeq := some u.txSeq })
  let s := s.sendPair 0x14 (s.snapshotBody c)
  (s.onVideo (fun v => { v with cycle := some c })).sendPair 0x13 (leBytes 6 c ++ zeros 2)

/-- The blocks of a SNAPSHOT: type and body, or none where one does not fit. -/
def snapBlocks : Nat → List Byte → List (Nat × List Byte)
  | 0, _ => []
  | k + 1, bs =>
    if bs.length < 8 then []
    else
      let len := fieldAt bs 4 4
      (fieldAt bs 0 2, (bs.drop 8).take len) :: snapBlocks k (bs.drop (8 + len + (4 - len % 4) % 4))

/-- The length that block COMMITS' own counts give (R319), over `k` entries. -/
def commitsLength : Nat → List Byte → Nat
  | 0, _ => 0
  | k + 1, bs => let n := 72 + 128 * fieldAt bs 6 1; n + commitsLength k (bs.drop n)

/-- The length that block KEYSET's own counts give (R319), over `k` tiles. -/
def keysetLength : Nat → List Byte → Nat
  | 0, _ => 0
  | k + 1, bs => let n := 4 + 8 * fieldAt bs 2 2; n + keysetLength k (bs.drop n)

/-- A block has the length that its layout and counts give (R319). -/
def blockSound (b : Nat × List Byte) : Bool :=
  let n := b.2.length
  match b.1 with
  | 1 => n == 20
  | 2 => n == 64 * layerEntry
  | 3 => n == 4 + commitsLength (min n (fieldAt b.2 0 4)) (b.2.drop 4)
  | 4 => n == 64
  | 5 => n == 16 * (4 + 64 * 8)
  | 6 => n == 4 + keysetLength (min n (fieldAt b.2 0 4)) (b.2.drop 4)
  | 7 => n == 8
  | 8 => n == 24
  | _ => true

/-- The body of block `t`. -/
def snapOf (bs : List (Nat × List Byte)) (t : Nat) : Option (List Byte) := (bs.find? (·.1 == t)).map (·.2)

/-- LAYERS is applied (R318): the layer state and what the registers report of it. -/
def State.applyLayerBlock (s : State) (b : List Byte) : State :=
  (List.range 64).foldl (fun (s : State) n =>
    let e := sub b (layerEntry * n) layerEntry
    let r : LayerRec := sub e 20 128
    let on := decide (fieldAt e 0 1 ≠ 0)
    let s := s.onLay (fun l => { l with layers := if on then Sparse.ins (Sparse.erase l.layers n) n r else Sparse.erase l.layers n })
    let s := s.setF (Fld.CMP_LAYER_STATE_ENABLED n) (flag on)
    let s := s.setF (Fld.CMP_LAYER_STATE_SRC_KIND n) (if on then r.kind else 0)
    let s := s.setF (Fld.CMP_LAYER_STATE_Z n) (if on then r.z else 0)
    let s := s.setF (Fld.CMP_LAYER_STATE_FALLBACK n) (if on then r.fallback else 0)
    ((s.setF (Fld.CMP_LAYER_TAG n) (fieldAt e 4 4)).setF (Fld.CMP_LAYER_RING n) (fieldAt e 8 2)).setF (Fld.CMP_LAYER_SINCE n) (fieldAt e 12 4)) s

/-- COMMITS is applied. -/
def State.applyCommits : Nat → List Byte → State → State
  | 0, _, s => s
  | k + 1, b, s => State.applyCommits k (b.drop (72 + 128 * fieldAt b 6 1)) (s.takeCommit b)

/-- DELAYS is applied. -/
def State.applyDelays (s : State) (b : List Byte) : State :=
  (List.range 16).foldl (fun (s : State) c =>
    let o := c * 516
    let s := (s.setF (Fld.TCK_END_DELAY_VALUE c) (fieldAt b o 4 % 2 ^ 24)).setF (Fld.TCK_END_DELAY_VALID c) (bits (fieldAt b o 4) 31 1)
    (List.range 64).foldl (fun (s : State) p => (s.setF (Fld.TCK_HOP_DELAY_VALUE c p) (fieldAt b (o + 4 + 8 * p) 4 % 2 ^ 24)).setF
      (Fld.TCK_HOP_DELAY_VALID c p) (bits (fieldAt b (o + 4 + 8 * p) 4) 31 1)) s) s

/-- KEYSET is applied: each tile's pending key set, and an invalid mirror (R271, R318). -/
def State.applyKeys : Nat → List Byte → State → State
  | 0, _, s => s
  | k + 1, b, s =>
    let n := fieldAt b 2 2
    let keys := (List.range n).map (fun i => (fieldAt b (4 + 8 * i) 6, fieldAt b (10 + 8 * i) 2))
    State.applyKeys k (b.drop (4 + 8 * n)) (s.setMirror { chain := fieldAt b 0 1, position := fieldAt b 1 1, keys := keys })

/-- SCHEDULES is applied. -/
def State.applySchedules (s : State) (b : List Byte) : State :=
  let s := if allZero b 0 12 then s else s.takeSchedule (readSchedule b)
  if allZero b 12 12 then s else s.takeThrottle (fieldAt b 12 2, fieldAt b 14 6)

/-- R318, R319: a sound SNAPSHOT is applied, and the unit enters lockstep. -/
def State.applySnapshot (s : State) (bs : List (Nat × List Byte)) : State :=
  let block := fun t => (snapOf bs t).getD []
  let c := fieldAt (block 7) 0 6
  let s := s.setF Fld.PAIR_EPOCH (fieldAt (block 1) 12 4)
  let s := s.setRateSet (fieldAt (block 1) 6 1)
  let hi := fieldAt (block 1) 0 6 / 2 ^ 24
  let s := s.on (·.setWide Fld.TCK_COUNT_LO Fld.TCK_COUNT_HI (hi * 2 ^ 24 + s.io.tick % 2 ^ 24))
  let s := { s with tick := { s.tick with number := s.tick.number.map (nearestTick (s.io.tick + 1)) } }
  let s := (s.onLay (fun l => { l with compiled := [] })).applyLayerBlock (block 2)
  let s := match snapOf bs 3 with | some b => State.applyCommits (fieldAt b 0 4) (b.drop 4) s | none => s
  let s := match snapOf bs 4 with
    | some b => (List.range 16).foldl (fun (s : State) p => if (s.cascadePort p).isSome then s.pin p (fieldAt b (4 * p) 4) else s) s
    | none => s
  let s := match snapOf bs 5 with | some b => s.applyDelays b | none => s
  let s := State.applyKeys (fieldAt (block 6) 0 4) ((block 6).drop 4) (s.clearMirrors (fun _ => true))
  let s := s.onVideo (fun v => { v with cycle := some c })
  let s := match snapOf bs 8 with | some b => s.applySchedules b | none => s
  let s := (s.joinPhase 2).setF Fld.PAIR_CLEAN 0
  s.onPair (fun u => { u with lockstep := true, joinCycle := some c, expect := [], early := [], frameBad := [], decided := [] })

def execSnapshotReceived (payload : List Byte) (s : State) : Result :=
  .next (match s.takePair payload with
    | (s, some b) =>
      let bs := snapBlocks b.length (b.drop 8)
      let foreign := match s.pairUnit.partner with | some p => p.foreign | none => true
      if s.pair ≠ pJOINING || foreign then s
      else if [1, 2, 6, 7].all (fun t => (snapOf bs t).isSome) && bs.all blockSound then (s.joinPhase 1).applySnapshot bs
      else s.joinPhase 0
    | (s, none) => s)

/-! ### Acknowledgements and the link -/

/-- R304, R313, R318: an acknowledgement. -/
def execPairAckReceived (payload : List Byte) (s : State) : Result :=
  .next (
    if !s.pairLink then s
    else
      let q := fieldAt payload 4 4
      let known := s.pairUnit.sent.any (·.pseq == q)
      let s := s.onPair (fun u => { u with sent := u.sent.filter (·.pseq != q) })
      if !known then s
      else
        let s := if s.pairUnit.deposeSeq = some q then s.onPair (fun u => { u with deposeSeq := none }) else s
        if s.pairUnit.snapshotSeq = some q ∧ s.pair = pACTIVE then
          s.onPair (fun u => { u with snapshotSeq := none, lockstep := true, gotRead := false, readDone := s.io.tick })
        else s)

/-- R304: a packet has had no acknowledgement for 100 microseconds. -/
def execPairPacketTimeout (pseq : Nat) (s : State) : Result :=
  .next (match s.pairUnit.sent.find? (·.pseq == pseq) with
    | none => s
    | some p =>
      if 3 ≤ p.repeats then s.pairLost
      else
        let s := s.onPair (fun u => { u with sent := u.sent.map (fun x => if x.pseq = pseq then { x with repeats := x.repeats + 1 } else x) })
        s.emit (.pair p.ptype p.payload))

/-- R304: a packet with a reserved PTYPE is skipped. -/
def execPairPacketReserved (ptype : Nat) (s : State) : Result :=
  .next (if s.pairLink ∧ (ptype < 0x10 ∨ 0x1A < ptype) then s.bumpF Fld.PAIR_PKT_UNKNOWN else s)

/-- R313: no PAIR_ACK has come within ACK_WAIT after a DEPOSE with CAUSE 0. -/
def execDeposeAckTimeout (s : State) : Result :=
  .next (if s.pairUnit.deposeSeq.isSome then ((s.onPair (fun u => { u with deposeSeq := none, trigger := none })).leaveLockstep).fire 296 else s)

/-- R308: the partner's read-done tick. -/
def execReadDoneReceived (payload : List Byte) (s : State) : Result :=
  .next (match s.takePair payload with
    | (s, some b) =>
      let t := fieldAt b 0 6
      if s.pair ≠ pACTIVE then s
      else if t = 2 ^ 48 - 1 then s.onPair (fun u => { u with lockstep := false })
      else s.onPair (fun u => { u with readDone := t, gotRead := true })
    | (s, none) => s)

/-! ### Takeover -/

/-- R314: DEPOSE arrives at the active unit. -/
def execDeposeReceived (payload : List Byte) (s : State) : Result :=
  .next (match s.takePair payload with
    | (s, some b) => if s.pair = pACTIVE ∧ fieldAt b 4 1 < 2 then s.standDown.fire 292 else s
    | (s, none) => s)

/-- R313, R325: HANDOVER arrives at a standby. -/
def execHandoverReceived (payload : List Byte) (s : State) : Result :=
  .next (match s.takePair payload with
    | (s, some b) =>
      let h := fieldAt b 0 6
      match fieldAt b 6 1 with
      | 0 => if s.pair = pARMED then s.onPair (fun u => { u with takeAt := some h }) else s
      | 1 => if s.pair = pJOINING ∧ s.isF Fld.PAIR_STATE_FOREIGN then s.onPair (fun u => { u with takeAt := some h }) else s
      | 2 => if s.pair = pARMED ∧ s.pairUnit.trigger = none then s.onPair (fun u => { u with trigger := some s.io.now }) else s
      | _ => s
    | (s, none) => s)

/-- R320: 256 ticks in SUSPECT have passed: a new join attempt starts while attempts remain. -/
def execSuspectTimeout (s : State) : Result :=
  .next (if s.pair = pSUSPECT ∧ s.pairUnit.suspectAt + 256 ≤ s.io.tick ∧ s.getF Fld.PAIR_STATE_ATTEMPTS < max 1 (s.getF Fld.PAIR_CFG_JOIN_MAX)
    then (s.alert 2 false).leaveLockstep else s)

/-- R324: the pair port is not UP within 2 s of JOINING. -/
def execPairPortTimeout (s : State) : Result :=
  .next (if s.paired ∧ s.pair = pJOINING ∧ s.io.boot = stJOINING ∧ !s.pairLink then (s.alert 3 true).fire 302 else s)

/-! ### Split chains -/

/-- R315: a return cell that the standby relays is handled as if it had come in on the active unit's own port. -/
def State.relayedCell (s : State) (chain : Nat) (bs : List Byte) : State :=
  let s := s.onPair (fun u => { u with splitChains := if u.splitChains.contains chain then u.splitChains else chain :: u.splitChains })
  match (readCell bs).ptype with
  | 0x1 =>
    match s.acceptCell chain 0x1 bs with
    | (s, some c) => (s.portBump Fld.LNK_KEYREQ_RX chain).keyRequest c.chain c.position c.payload s.io.now
    | (s, none) => s
  | 0x2 =>
    match s.acceptCell chain 0x2 bs with
    | (s, some c) => s.remoteEvent c.chain c.position c.payload
    | (s, none) => s
  | 0x3 =>
    match s.acceptCell chain 0x3 bs with
    | (s, some c) => s.regReply c.chain c.position c.payload
    | (s, none) => s
  | 0x4 =>
    match s.acceptCell chain 0x4 bs with
    | (s, some c) => s.telemetry c.chain c.position c.payload
    | (s, none) => s
  | 0x6 =>
    match s.acceptCell chain 0x6 bs with
    | (s, some c) => s.stageAckReceived c.chain c.position c.payload
    | (s, none) => s
  | _ => s

/-- R315, R352, R469, R513: what is relayed to the standby: a tile's telemetry is kept; what a bulk packet schedules is taken, and the
packet goes into the standby's own windows while it feeds the chain. -/
def State.relayedBulk (s : State) (chain : Nat) (bs : List Byte) : State :=
  let c := readCell bs
  if bs.length = 32 && c.crcOk && c.ptype == 4 && s.namesTile chain c then s.telemetry c.chain c.position c.payload
  else
  let s := match readPacket bs with
    | .packet h pl true =>
      if h.ptype ≠ 7 then s
      else if fieldAt pl 0 1 = 3 then s.takeSchedule (readSchedule (pl.drop 4))
      else if fieldAt pl 0 1 = 5 then s.takeThrottle (fieldAt pl 4 2, fieldAt pl 6 6)
      else s
    | _ => s
  if bit (s.getF Fld.PAIR_FEED_CHAINS) chain then s.queueBulk chain bs else s

def execRelayReceived (payload : List Byte) (s : State) : Result :=
  .next (match s.takePair payload with
    | (s, some b) =>
      if s.pair = pACTIVE then s.relayedCell (fieldAt b 0 1) (b.drop 4)
      else if pJOINING ≤ s.pair then s.relayedBulk (fieldAt b 0 1) (b.drop 4)
      else s
    | (s, none) => s)

/-- R316: every 1 s the active unit reads LNK_STATE of the ports beside a break; `up`: all four are UP (log 40). The second good
read in a row sends REUNITE. -/
def execReunitePoll (chain : Nat) (up : Bool) (s : State) : Result :=
  .next (
    if s.pair ≠ pACTIVE || !s.isF Fld.PAIR_CFG_AUTO_REUNITE || !s.pairUnit.splitChains.contains chain || s.pairUnit.reunite.any (·.1 == chain) then s
    else
      let n := ((s.pairUnit.goodReads.find? (·.1 == chain)).map (·.2)).getD 0
      let s := s.onPair (fun u => { u with goodReads := (chain, if up then n + 1 else 0) :: u.goodReads.filter (·.1 != chain) })
      if up ∧ 2 ≤ n + 1 then
        let w := s.io.tick + 8
        let s := s.sendPair 0x1A (leBytes 1 chain ++ zeros 1 ++ leBytes 6 w)
        s.onPair (fun u => { u with goodReads := u.goodReads.filter (·.1 != chain), reunite := (chain, w) :: u.reunite })
      else s)

/-- R316: REUNITE arrives at the standby. -/
def execReuniteReceived (payload : List Byte) (s : State) : Result :=
  .next (match s.takePair payload with
    | (s, some b) => if pJOINING ≤ s.pair then s.onPair (fun u => { u with reunite := (fieldAt b 0 1, fieldAt b 2 6) :: u.reunite }) else s
    | (s, none) => s)

/-! ### Planned handovers -/

/-- R325: HANDOVER is written on the active unit while its partner is ARMED. -/
def State.pairHandover (s : State) : State :=
  let armed := match s.pairUnit.partner with | some p => decide (p.state = pARMED) | none => false
  if s.pair = pACTIVE && s.pairLink && armed then
    let h := s.io.tick + 16
    ((s.sendPair 0x17 (leBytes 6 h ++ leBytes 1 0)).onPair (fun u => { u with silenceAt := some h })).fire 301
  else s

/-- R325: FOREIGN is written on the active unit while its partner joins with a foreign image: every tile restarts at tick H. -/
def State.pairForeign (s : State) : State :=
  let ok := match s.pairUnit.partner with | some p => p.foreign && decide (p.state = pJOINING) | none => false
  if s.pair = pACTIVE && s.pairLink && ok then
    let h := s.io.tick + 16
    let s := (s.sendPair 0x17 (leBytes 6 h ++ leBytes 1 1)).onPair (fun u => { u with silenceAt := some h })
    (s.wallCmdAll (fun _ => true) 0x02 (restartBody h 0xFF)).fire 301
  else s


/-! ### The tick -/

/-- The records of past frames are dropped, and the lists of a period begin anew. -/
def PairUnit.turn (u : PairUnit) (t : Nat) : PairUnit :=
  let keep := u.expect.filter (fun e => decide (t ≤ e.tick + 2))
  let early := u.early.filter (fun x => x.tickLo == t % 256 || x.tickLo == (t + 1) % 256)
  let bad := u.frameBad.filter (fun x => decide (t ≤ x.1 + 2))
  let done := u.decided.filter (fun x => decide (t ≤ x + 4))
  { u with seenPorts := [], excuseOld := u.excuse, excuse := [], expect := keep, early := early, frameBad := bad, decided := done }

/-- A takeover, a planned silence or an invalidation whose tick has come (R314, R325). -/
def State.pairRoles (s : State) : State :=
  let t := s.io.tick
  let s : State := if pJOINING ≤ s.pair && s.takesOver s.tick.last t then s.becomeActive else s
  let s : State := if s.pair = pACTIVE && (match s.pairUnit.silenceAt with | some h => decide (h ≤ t) | none => false) then s.standDown else s
  if (match s.pairUnit.invalidAt with | some h => decide (h ≤ t) | none => false) then
    (s.clearMirrors (fun _ => true)).onPair (fun u => { u with invalidAt := none })
  else s

/-- What a unit in lockstep does at a tick, and a SNAPSHOT that is due (R308, R318). -/
def State.pairLockstep (s : State) : State :=
  let s : State := if s.compares then s.cleanTick.sendPair 0x19 (leBytes 6 s.readDoneTick) else s
  if s.pair = pACTIVE && s.pairUnit.snapshotDue then s.sendSnapshot else s

/-- What the pair controller does at a numbered tick. -/
def State.pairTick (s : State) : State :=
  if !s.paired then s
  else
    let s : State := s.pairRoles.reuniteTick
    let s : State := if pJOINING ≤ s.pair then s.startFeeding.silentCheck else s
    let s : State := s.pairLockstep
    let seen := s.pairUnit.seenPorts.foldl (fun m p => putBits m p 1 1) 0
    let now := s.io.tick
    (s.setF Fld.PAIR_OBSERVED_CHAINS seen).onPair (fun u => u.turn now)

/-! ### Markers that a standby hears -/

/-- R315: the third marker in a row is missing on a chain of a standby: while the pair port carries the active unit's markers, the
chain is fed from the next tick on. -/
def State.chainMissed (s : State) (p : Nat) : State :=
  let (m, _) := s.portRun p
  let s := (s.setPortRun p (m + 1) 0).excusePort p
  let carried := s.tick.ports.any (fun e => e.1 == pairPort && decide (e.2.1 = 0))
  if m + 1 = 3 ∧ carried then s.onPair (fun u => { u with feedNext := u.feedNext ++ [p] }) else s

/-- R82, R288, R313, R315: a marker arrives: at a tile, on the pair port of a standby, or on a chain port of a standby, which only counts
it. -/
def execTickMarkerReceived (port payload t : Nat) (s : State) : Result :=
  .next (
    if s.io.isTile || decide (port = pairPort) then s.markerReceived port payload t
    else if pJOINING ≤ s.pair ∧ s.isOutput port then
      let s := s.on (·.at t)
      if markerOk payload then s.setPortRun port 0 ((s.portRun port).2 + 1)
      else
        let s := if wordOk payload then s else s.cwError port
        if bit (s.getF Fld.PAIR_FEED_CHAINS) port then s else s.chainMissed port
    else s)

def execMarkerMissing (port : Nat) (s : State) : Result :=
  .next (
    if s.io.isTile || decide (port = pairPort) then s.markerMissing port
    else if pJOINING ≤ s.pair ∧ s.isOutput port ∧ !bit (s.getF Fld.PAIR_FEED_CHAINS) port then s.chainMissed port
    else s)

end Sys2Proof.Machine
end

