-- ==== Sys2Proof/Machine/Errors.lean ====
section
/-! DEFINITION. Error containment (R522 to R531): cells, blocks, regions and the chip, and the error log. -/

namespace Sys2Proof.Machine

/-- One entry of the error log (R536). -/
def State.logError (s : State) (level region block cell cause row tile : Nat) : State :=
  let e := s.getF Fld.CTL_ERR_HEAD_NEXT
  let s := if s.isF (Fld.CTL_ERR_LOG_A_VALID e) then s.setF Fld.CTL_ERR_HEAD_WRAPPED 1 else s
  let a := level + 2 ^ 2 * region + 2 ^ 4 * block + 2 ^ 8 * (cell % 16) + 2 ^ 12 * cause + 2 ^ 16
  let s := s.on (fun io => (io.setReg (Reg.CTL_ERR_LOG_A e) (BitVec.ofNat 32 a)).setReg (Reg.CTL_ERR_LOG_TICK e) (BitVec.ofNat 32 io.tick))
  let s := s.on (·.setReg (Reg.CTL_ERR_LOG_ROW e) (BitVec.ofNat 32 (row % 2 ^ 12 + 2 ^ 12 * (tile % 2 ^ 10))))
  s.setF Fld.CTL_ERR_HEAD_NEXT ((e + 1) % 16)

/-- The device runs its data paths: from TRAINING to OPERATIONAL. -/
def State.running (s : State) : Bool := decide (stTRAINING ≤ s.io.boot ∧ s.io.boot ≤ stOPERATIONAL)

/-! ### The chip -/

/-- The controlled restarts of the last 3,600 s (R530). -/
def State.recentRestarts (s : State) : List Nat := s.boot.restarts.filter (fun t => decide (s.io.now < t + 3600 * 64 * 10 ^ 9))

/-- R529, R530: a chip-level error. UMBER_N is sampled at the restart. -/
def State.chipError (s : State) (block cell cause : Nat) (umberLow : Bool) : State :=
  let s := ((s.bumpF Fld.CTL_ERR_CHIP).logError 3 0 block cell cause 0 0).alert 6 true
  let s := if s.io.hasHost then s.resign else s
  let recent := s.recentRestarts
  let blocked := decide (2 ≤ recent.length)
  let s := s.onBoot (fun b => { b with restarts := if blocked then recent else s.io.now :: recent })
  let s := (s.setF Fld.CTL_ERR_STAT_RESTARTS (min 2 s.boot.restarts.length)).setF Fld.CTL_ERR_STAT_RESTART_BLOCKED (flag blocked)
  s.restart false umberLow

/-- R522, R529: an error in a control core, the chip interconnect, the tick engine or the ring engine. -/
def execChipError (cell : Nat) (umberLow : Bool) (s : State) : Result :=
  .next (if s.boot.pwrgood ∧ s.boot.power ≠ 2 ∧ !s.boot.held then s.chipError 10 cell 6 umberLow else s)

/-- R522: the run-time firmware watchdog of a core is not serviced for 100 ms. -/
def execFirmwareWatchdogExpiry (core : Nat) (umberLow : Bool) (s : State) : Result :=
  .next (if s.running ∧ s.boot.power ≠ 2 then s.chipError 10 core 7 umberLow else s)

/-! ### Regions -/

/-- R528: a standby's own containment returns it to STANDBY_JOINING. -/
def State.standbyContains (s : State) : State := if s.pair = pJOINING ∨ s.pair = pARMED then s.leaveLockstep else s

/-- The requests that the slots of a region, on the lanes of `lanes`, have not issued are withdrawn (R525, R526). -/
def State.withdrawCells (s : State) (n : Nat) (lanes : List Nat) : State :=
  let s := (s.video.composing.filter (·.region == n)).foldl (fun s (c : ComposeRun) => s.on (·.withdraw (.slot n c.slot))) s
  lanes.foldl (fun s l => s.on (·.withdraw (.cell n l))) s

/-- What a region's cells were doing is withdrawn (R525, R526). -/
def State.stopRegion (s : State) (n : Nat) : State :=
  let s := (s.withdrawCells n (List.range 64)).idleLanes n (List.range 64)
  let s := s.onVideo (fun v => { v with composing := v.composing.filter (·.region != n), handoff := v.handoff.filter (·.region != n),
                                        segments := v.segments.filter (·.region != n),
                                        stopped := v.stopped.filter (·.1 != n), ready := v.ready.filter (·.1 != n) })
  ((List.range 4).map (4 * n + ·)).foldl (fun s p => let pt := s.port p; s.setPort p { pt with video := [], carried := [], videoLeft := 0 }) s

/-- R523, R526: a region is fenced, or the fault escalates to the chip. -/
def State.regionFault (s : State) (n block cause : Nat) (umberLow : Bool) : State :=
  let armed := match s.pairUnit.partner with | some p => decide (p.state = pARMED) | none => false
  if s.io.regions = 1 || (s.pair = pACTIVE && armed) then s.chipError block 0 8 umberLow
  else if s.video.fenced.contains n then s
  else
    let again := s.video.fences.any (fun f => f.1 == n && decide (s.io.now < f.2 + 3600 * 64 * 10 ^ 9))
    let s := (s.bumpF Fld.CTL_ERR_FENCES).logError 2 n block 0 cause 0 0
    let s := s.setF Fld.CTL_ERR_STAT_FENCED (putBits (s.getF Fld.CTL_ERR_STAT_FENCED) n 1 1)
    let s := if again then s.setF Fld.CTL_ERR_STAT_FENCE_HELD (putBits (s.getF Fld.CTL_ERR_STAT_FENCE_HELD) n 1 1) else s
    let s := (s.stopRegion n).alert 7 true
    let s := s.onVideo (fun v => { v with fenced := v.fenced ++ [n], fences := (n, s.io.now) :: v.fences })
    s.standbyContains

/-- R522: an error in a region's operation table or interconnect port. -/
def execRegionFault (region : Nat) (umberLow : Bool) (s : State) : Result :=
  .next (if s.running && s.io.regionActive region then s.regionFault region 9 5 umberLow else s)

/-! ### Blocks -/

/-- A restarted encoder block starts with every mirror of its region's slices invalid (R525, R527). -/
def State.freshMirrors (s : State) (n : Nat) : State :=
  s.clearMirrors (fun m => (s.slicesOf n).any (fun e => e.chain == m.chain && e.position == m.position))

/-- The streams whose rows region `n` decodes. -/
def State.streamsOf (s : State) (n : Nat) : List Nat := (List.range 17).filter (fun st =>
  ((s.rset s.rateSet).tables.getD n []).any (fun sl => (sl.decodes st n).isSome))

/-- A restarted decoder block marks its pool slots and long-term pictures invalid and requests keys with RESET (R525). -/
def State.freshDecoders (s : State) (n : Nat) : State :=
  (s.streamsOf n).foldl (fun s st =>
    let d := s.decoder st
    s.setDecoder { d with pool := dropBlocks d.pool (fun _ r _ => s.decodeRegion st r == n), kept := [], fresh := true, lastPost := none }) s

/-- A restarted driver block begins its first load with GC_WRITE and CONFIG_WRITE (R525). -/
def State.freshDrivers (s : State) (n : Nat) : State :=
  ((List.range 12).map (12 * n + ·)).foldl (fun s g => if s.groupUsed g then s.setGroup { s.group g with init := true } else s) s

/-- What a restarted block of region `n` begins with. -/
def State.blockFresh (s : State) (n block : Nat) : State :=
  match block with
  | 2 => s.freshMirrors n
  | 3 => s.freshDecoders n
  | 5 => s.freshDrivers n
  | _ => s

/-- The lanes of a block's cells (R90, R536). -/
def blockLanes (block : Nat) : List Nat :=
  match block with
  | 0 => List.range 4
  | 1 => [4]
  | 2 => [5, 6, 7, 8]
  | 3 => [9, 10]
  | 4 => [11, 12]
  | 5 => (List.range 12).map (13 + ·)
  | 6 => [25, 26, 27, 28]
  | 7 => [29, 30, 31, 32]
  | _ => []

/-- R525 step 1: what the cells of a block were doing is withdrawn. -/
def State.stopBlock (s : State) (n block : Nat) : State :=
  let s := ((blockLanes block).foldl (fun s l => s.on (·.withdraw (.cell n l))) s).idleLanes n (blockLanes block)
  match block with
  | 0 | 1 => (s.withdrawCells n []).onVideo (fun v => { v with composing := v.composing.filter (·.region != n) })
  | 6 =>
    ((List.range 4).map (4 * n + ·)).foldl (fun s p => let pt := s.port p; s.setPort p { pt with video := [], carried := [] }) s
  | 7 =>
    let k := s.io.tick
    s.onAudio (fun a => { a with silent := a.silent ++ [k, k + 1] })
  | _ => s

/-- R523, R525: a block restarts, or escalates when it has returned within 64 ticks. -/
def State.blockFault (s : State) (n block cell cause : Nat) (umberLow : Bool) : State :=
  if block = 8 ∨ s.video.returned.any (fun x => x.1 == n && x.2.1 == block && decide (s.io.tick < x.2.2 + 64)) then s.regionFault n block 8 umberLow
  else if s.blockStopped n block ∨ s.video.fenced.contains n then s
  else
    let s := ((s.bumpF Fld.CTL_ERR_BLOCK_RESTARTS).logError 1 n block cell cause 0 0).stopBlock n block
    let s := s.onVideo (fun v => { v with stopped := v.stopped ++ [(n, block, s.io.tick + 1)] })
    s.standbyContains

/-- R522: an error in a block arbiter or a block's shared buffer. -/
def execBlockFault (region block : Nat) (umberLow : Bool) (s : State) : Result :=
  .next (if s.running && s.io.regionActive region && decide (block < 9) then s.blockFault region block 0 4 umberLow else s)

/-- R525: a restarted block goes on. -/
def State.blockReturn (s : State) (n block : Nat) : State :=
  let s := s.onVideo (fun v => { v with
    stopped := v.stopped.filter (fun x => !(x.1 == n && x.2.1 == block)), ready := v.ready.filter (fun x => !(x.1 == n && x.2 == block)),
    returned := (n, block, s.io.tick) :: v.returned.filter (fun x => !(x.1 == n && x.2.1 == block)) })
  s.blockFresh n block

/-- R525: a block's restart completes: it resumes with its first slot at or after the tick that follows the fault. -/
def execBlockRestartDone (region block : Nat) (s : State) : Result :=
  .next (match s.video.stopped.find? (fun x => x.1 == region && x.2.1 == block) with
    | none => s
    | some (_, _, t) =>
      if t ≤ s.io.tick then s.blockReturn region block
      else s.onVideo (fun v => { v with ready := if v.ready.contains (region, block) then v.ready else v.ready ++ [(region, block)] }))

/-- R523: a block's restart has not completed by the second tick after the fault. -/
def execBlockRestartTimeout (region block : Nat) (umberLow : Bool) (s : State) : Result :=
  .next (match s.video.stopped.find? (fun x => x.1 == region && x.2.1 == block) with
    | some (_, _, t) => if t + 1 ≤ s.io.tick ∧ !s.video.ready.contains (region, block) then s.regionFault region block 8 umberLow else s
    | none => s)

/-! ### Cells -/

/-- Segments of a row that a link cell was sending are lost (R524). -/
def State.loseSegments (s : State) (chain pos row : Nat) : State :=
  let pt := s.port chain
  s.setPort chain { pt with video := pt.video.filter (fun b => match readPacket b with
    | .packet h pl _ => !(h.position == pos && (readSegHead pl).row == row)
    | .badHeader => true) }

/-- R524: what stands for a row whose processing has failed twice. -/
def State.substitute (s : State) (x : BadRow) : State :=
  let s := s.onVideo (fun v => { v with bad := v.bad ++ [x] })
  match x.block with
  | 6 => s.loseSegments x.chain x.position x.row
  | 7 => s.onAudio (fun a => { a with mute := a.mute ++ [(x.chain, x.tick)] })
  | _ => s

/-- The rows that a cell has substituted in this frame (R523). -/
def State.substituted (s : State) (n block cell : Nat) : Nat :=
  (s.video.bad.filter (fun x => x.region == n && x.block == block && x.cell == cell && x.tick == s.io.tick && x.failed)).length

/-- R238, R242, R523, R524: a cell retries a row; `again`: the retry fails too. A third substituted row of a frame, and a recurring cause 2,
escalate. -/
def State.cellFault (s : State) (n block cell chain pos row cause : Nat) (again umberLow : Bool) : State :=
  if block = 8 then s.regionFault n block 8 umberLow
  else if s.video.fenced.contains n ∨ s.blockStopped n block then s
  else
    let s := (s.bumpF Fld.CTL_ERR_CELL_RETRY).logError 0 n block cell cause row (pos % 64 + 64 * (chain % 16))
    let s := if block = 2 then s.bumpF (Fld.ENC_RETRIES n) else if block = 3 ∧ !again then s.bumpF (Fld.DEC_RETRIES n) else s
    if !again then s
    else
      let s := (s.bumpF Fld.CTL_ERR_CELL_SUBST).substitute
        { region := n, block := block, cell := cell, chain := chain, position := pos, row := row, tick := s.io.tick, failed := true }
      if cause = 2 ∨ 3 ≤ s.substituted n block cell then s.blockFault n block cell 8 umberLow else s

/-- R522: an error in a cell's storage (cause 1), or a failed consistency check (cause 3). The audio blocks name a port, or 32 + target,
as the chain; the driver blocks name a group. -/
def execCellFault (region block cell chain position row : Nat) (check again umberLow : Bool) (s : State) : Result :=
  .next (if s.running && s.io.regionActive region && decide (block < 9) then
    s.cellFault region block cell chain position row (if check then 3 else 1) again umberLow else s)

/-- R522: a cell has made no progress on a row for 1 ms (cause 2). -/
def execCellStall (region block cell chain position row : Nat) (again umberLow : Bool) (s : State) : Result :=
  .next (if s.running && s.io.regionActive region && decide (block < 9) then
    s.cellFault region block cell chain position row 2 again umberLow else s)

/-! ### The tick -/

/-- A region returns (R527). -/
def State.returnRegion (s : State) (n : Nat) : State :=
  let s := s.onVideo (fun v => { v with fenced := v.fenced.filter (· != n), returning := v.returning.filter (· != n) })
  let s := s.setF Fld.CTL_ERR_STAT_FENCED (putBits (s.getF Fld.CTL_ERR_STAT_FENCED) n 1 0)
  let s := if s.video.fenced.isEmpty then s.alert 7 false else s
  let s := ((s.freshMirrors n).freshDecoders n).freshDrivers n
  s.on (fun io => Io.settle io.grantAll)

/-- Containment at a numbered tick: regions and restarted blocks return, and old controlled restarts are no longer counted. -/
def State.errorTick (s : State) : State :=
  let s := s.video.returning.foldl State.returnRegion s
  let due := s.video.stopped.filter (fun x => decide (x.2.2 ≤ s.io.tick) && s.video.ready.contains (x.1, x.2.1))
  let s := due.foldl (fun s x => s.blockReturn x.1 x.2.1) s
  let n := min 2 s.recentRestarts.length
  if s.getF Fld.CTL_ERR_STAT_RESTARTS = n then s else s.setF Fld.CTL_ERR_STAT_RESTARTS n

end Sys2Proof.Machine
end

