-- ==== Sys2Proof/Machine/Pins.lean ====
section
/-! DEFINITION. Pins and power domains as they follow from the state (R531, R541, R544). -/

namespace Sys2Proof.Machine

/-- The function of service pin `i`: FUNC, and INPUT in ROM, LOADING and Umber mode and for a reserved code (R541). -/
def State.svcFunc (s : State) (i : Nat) : Nat :=
  let w := (s.io.getReg (if i < 8 then Reg.CTL_SVC_CFG_A else Reg.CTL_SVC_CFG_B)).toNat
  let f := bits w (4 * (i % 8)) 4
  if s.running ∧ f ≤ 8 then f else 0

/-- Some lamp board is LIT. -/
def State.anyLit (s : State) : Bool := s.io.hasLamps && (List.range 64).any (fun b => s.getF (Fld.LBD_BOARD_STAT_STATE b) == 3)

/-- The level that the device drives on service pin `i`; none where the pin is an input (R541), or held (R540). -/
def State.svcDrive (s : State) (i : Nat) : Option Bool :=
  match s.svcFunc i with
  | 1 => some false
  | 2 => some true
  | 3 => some (s.io.tick != 0 && decide (s.io.now < s.tick.last + 64000))
  | 4 => some s.io.operational
  | 5 => some s.alertLow
  | 6 => some s.anyLit
  | 7 => some (s.getF Fld.THM_STATE_STATE != 0)
  | 8 => some (decide (s.pair ≤ pACTIVE))
  | _ => none

/-- CTL_SVC_IN: the present level of every service pin. The level of a pin that is an input comes from outside and is a free value. -/
def State.svcLevels (s : State) : Nat :=
  (List.range 16).foldl (fun m i => putBits m i 1 (match s.svcDrive i with | some b => flag b | none => s.io.free / 2 ^ i)) 0

/-- A read of CTL_SVC_IN. -/
def State.readPins (s : State) : State × Nat := (s.on (·.spend), s.svcLevels)

/-- Whether power domain PD`k` is on while the device is out of reset and not stopped (R544, R475). PD1 is on while VDD_MTR is in range. -/
def State.domainOn (s : State) (k : Nat) : Bool :=
  let st := s.io.boot
  let work := decide (stLOADING ≤ st ∧ st ≤ stOPERATIONAL)
  let link := decide (stTRAINING ≤ st ∧ st ≤ stOPERATIONAL)
  let port := fun (p : Nat) => s.io.chPresent p && s.isF (Fld.LNK_PORT_CFG_ENABLE (p / 4) (p % 4))
  let used := fun (a b : Nat) => (List.range 48).any (fun g => decide (a ≤ g ∧ g < b) && s.isF (Fld.DRV_GROUP_CFG_USED (g / 12) (g % 12)))
  let chan := fun (a b : Nat) => (List.range 16).any (fun c => decide (a ≤ c ∧ c < b) && s.io.regionActive (c / 4) && (!s.io.isTile || decide (c % 4 = 0)))
  if k = 0 then true
  else if k = 1 then s.io.meterUp
  else if !s.boot.pwrgood || decide (s.boot.power = 2) then false
  else match k with
  | 2 => work
  | 3 => s.io.hasHost
  | 4 | 5 | 6 | 7 => work && s.io.regionActive (k - 4)
  | 8 | 18 => work && s.io.hasHost
  | 9 => work && (s.io.hasLamps || !s.video.lay.inputs.isEmpty)
  | 10 => work && s.io.hasLamps
  | 11 => work && used 0 24
  | 12 => work && used 24 48
  | 13 => (link && (List.range 8).any port) || (s.io.isTile && decide (st = stUMBER))
  | 14 => link && ((List.range 8).map (8 + ·)).any port
  | 15 => work && chan 0 8
  | 16 => work && chan 8 16
  | 17 => work && !s.audioEntries.isEmpty
  | 19 => link && s.paired
  | _ => false

/-! ### Held pins (R540) -/

/-- The pins that R540 holds, by kind: driver group, lamp-board bus, audio port, region, service pin, port (16 the pair port) or
DRAM channel. -/
inductive PinKind where
  | driverOut (g : Nat)
  | driverIn (g : Nat)
  | busOut (b : Nat)
  | busIn (b : Nat)
  | busSelect (b : Nat)
  | audio (p : Nat)
  | glkOut
  | glkIn
  | te (n : Nat)
  | svc (i : Nat)
  | laneTx (p : Nat)
  | laneRx (p : Nat)
  | pcieTx
  | pcieRx
  | dramReset (n : Nat)
  | dram (c : Nat)
  | meter
deriving DecidableEq, Repr

/-- The states in which R540 holds a pin. -/
inductive HeldPin where
  | low
  | inputPulledDown
  | high
  | commonMode
  | ignored
  | highImpedance
deriving DecidableEq, Repr

/-- The table of R540. -/
def PinKind.heldAs : PinKind → HeldPin
  | .driverOut _ | .busOut _ | .audio _ | .glkOut | .svc _ | .dramReset _ => .low
  | .driverIn _ | .busIn _ | .te _ | .glkIn => .inputPulledDown
  | .busSelect _ => .high
  | .laneTx _ | .pcieTx => .commonMode
  | .laneRx _ | .pcieRx => .ignored
  | .dram _ | .meter => .highImpedance

/-- The power domain of a pin's resource (R544; DEDUCED where the table does not name the resource, log 95). -/
def PinKind.domain : PinKind → Nat
  | .driverOut g | .driverIn g => if g < 24 then 11 else 12
  | .te n => if n < 2 then 11 else 12
  | .busOut _ | .busIn _ | .busSelect _ => 10
  | .audio _ => 17
  | .glkOut | .glkIn | .svc _ => 0
  | .laneTx p | .laneRx p => if p < 8 then 13 else if p < 16 then 14 else 19
  | .pcieTx | .pcieRx => 3
  | .dramReset n => if n < 2 then 15 else 16
  | .dram c => if c < 8 then 15 else 16
  | .meter => 1

/-- The part enables the resource of a pin (R2 to R4). -/
def State.pinEnabled (s : State) : PinKind → Bool
  | .driverOut g | .driverIn g => s.io.hasLamps && s.io.regionActive (g / 12)
  | .te n => s.io.hasLamps && s.io.regionActive n
  | .busOut b | .busIn b | .busSelect b => s.io.hasLamps && s.io.regionActive (b / 4)
  | .audio p => s.io.regionActive (p / 4)
  | .laneTx p | .laneRx p => if p = 16 then s.isF Fld.CTL_VARIANT_PAIR_PORT else s.io.chPresent p
  | .pcieTx | .pcieRx => s.io.hasHost
  | .dramReset n => s.io.regionActive n
  | .dram c => s.io.regionActive (c / 4) && (!s.io.isTile || decide (c % 4 = 0))
  | .glkOut | .glkIn | .svc _ | .meter => true

/-- The state in which a pin is held (R540, R547): a fused-off pin's, a pin's whose domain is off, and in reset every pin's but the
metering domain's; none where its unit drives or reads it. -/
def State.pinHeld (s : State) (p : PinKind) : Option HeldPin :=
  let reset := (!s.boot.pwrgood || s.boot.railLow) && decide (p ≠ .meter)
  if s.pinEnabled p && s.domainOn p.domain && !reset then none else some p.heldAs

end Sys2Proof.Machine
end

