-- ==== Sys2Proof/Machine/Access.lean ====
section
/-! DEFINITION. Access to BAR0 by its three paths (R10 to R14, R104, R106, R293, R487, R557): reads with their latches, writes with
their locks, and the registers whose writes act at once. -/

namespace Sys2Proof.Machine

/-! ### Reads -/

/-- The context of a ring as BAR0 shows it (R110). -/
def Ring.context (r : Ring) : List Byte :=
  if r.state = 0 then zeros 64
  else
    leBytes 8 r.sqBase ++ leBytes 8 r.cqBase ++ leBytes 1 r.sqLog2 ++ leBytes 1 r.cqLog2 ++ leBytes 1 r.cls
      ++ leBytes 1 (r.state + 4 * flag r.entry64 + 8 * flag r.sqDram + 16 * flag r.cqDram) ++ leBytes 1 r.ctx ++ leBytes 1 r.error
      ++ leBytes 2 r.vector ++ leBytes 4 r.sqTail ++ leBytes 4 r.sqHead ++ leBytes 4 r.cqTail ++ leBytes 4 r.cqHead
      ++ leBytes 4 r.cqReserved ++ leBytes 4 r.errIndex ++ leBytes 8 (r.entries % 2 ^ 48) ++ zeros 8

/-- A half of a 48-bit counter or snapshot. -/
def halfOf (l : List (Nat × Nat)) (c : Nat) (high : Bool) : Nat :=
  let v := Sparse.get (fun _ => 0) l c
  if high then v / 2 ^ 32 % 2 ^ 16 else v % 2 ^ 32

/-- The word at offset `o` of the user mirror (R519). -/
def Io.mirrorWord (s : Io) (o : Nat) : Nat :=
  if !s.isF Fld.CTL_CNT_GLOBAL_USER then 0
  else if o < 0x200 then (if s.isTile && decide (16 ≤ o / 8) then 0 else halfOf s.snap (o / 8) (decide (o % 8 = 4)))
  else if o = 0x200 then (s.getReg Reg.CTL_CNT_SNAP_SEQ).toNat
  else if o = 0x204 then (s.getReg Reg.CTL_CNT_SNAP_TICK_LO).toNat
  else if o = 0x208 then (s.getReg Reg.CTL_CNT_SNAP_TICK_HI).toNat
  else 0

/-- The word at BAR0 offset `a` as it stands (R34). -/
def Io.viewWord (s : Io) (a : Nat) : Nat :=
  if 0x400000 ≤ a then
    (if a < 0x800000 ∧ s.hasHost then fieldAt (s.ring ((a - 0x400000) / 64)).context (a % 64) 4 else 0)
  else if 0x380000 ≤ a ∧ a < 0x390000 then s.mirrorWord (a - 0x380000)
  else if Reg.CTL_CNT_LO 0 ≤ a ∧ a < Reg.CTL_CNT_LO 0 + 0x200 then
    (if s.isTile && decide (16 ≤ (a - Reg.CTL_CNT_LO 0) / 8) then 0 else halfOf s.cnt ((a - Reg.CTL_CNT_LO 0) / 8) (decide (a % 8 = 4)))
  else if Reg.CTL_CNT_SNAP_LO 0 ≤ a ∧ a < Reg.CTL_CNT_SNAP_LO 0 + 0x200 then
    (if s.isTile && decide (16 ≤ (a - Reg.CTL_CNT_SNAP_LO 0) / 8) then 0 else halfOf s.snap ((a - Reg.CTL_CNT_SNAP_LO 0) / 8) (decide (a % 8 = 4)))
  else (s.readWord a).toNat

/-- The registers that are the low half of a wide value, by base offset and copies; each high half lies 4 bytes above (R13). -/
def wideRegs : List (Nat × List (Nat × Nat)) :=
  [(Reg.CTL_SERIAL_LO, []), (Reg.CTL_IMG_WALL_ID_LO, []), (Reg.CTL_CNT_LO 0, [(64, 8)]), (Reg.CTL_CNT_SNAP_LO 0, [(64, 8)]),
   (Reg.CTL_CNT_SNAP_TICK_LO, []), (Reg.TCK_COUNT_LO, []), (Reg.HRG_RING0_SQ_LO, []), (Reg.HRG_RING0_CQ_LO, []),
   (Reg.HRG_MSIX_ADDR_LO 0, [(512, 16)]), (Reg.XLT_CTX_ROOT_LO 0, [(256, 16)]), (Reg.XLT_FLOG_IOVA_LO 0 0, [(4, 0x4000), (16, 16)]),
   (Reg.CMP_FENCE_LO 0, [(256, 8)]), (Reg.ENC_BITS_LO 0, [(4, 0x4000)]), (Reg.PAIR_COMPARED_LO, []), (Reg.PAIR_PARTNER_SERIAL_LO, []),
   (Reg.LMP_CEIL_START_LO, []), (Reg.AUD_SAMPLE_LO, []), (Reg.MTR_INTERVAL_LO, []), (Reg.MTR_ENERGY_LO 0, [(16, 32)])]

/-- BAR0 offset `a` is the low half of a wide value: a register, a field of a ring context (R110), or the mirror (R519). -/
def lowHalf (a : Nat) : Bool :=
  if 0x400000 ≤ a then a % 64 == 0 || a % 64 == 8 || a % 64 == 0x30
  else if 0x380000 ≤ a then (decide (a < 0x380200) && a % 8 == 0) || a == 0x380204
  else wideRegs.any (fun w => decide (w.1 ≤ a) && (dimIndex w.2 (a - w.1)).isSome)

/-- R13: a read of one word: a low half latches its high half; a high half returns what its low half latched last. -/
def Io.readLatched (s : Io) (a : Nat) : Io × Nat :=
  if lowHalf a then
    let hi := BitVec.ofNat 32 (s.viewWord (a + 4))
    ({ s with latch := Sparse.ins (Sparse.erase s.latch (a + 4)) (a + 4) hi }, s.viewWord a)
  else match s.latch.find? (·.1 == a) with
    | some (_, v) => (s, v.toNat)
    | none => (s, s.viewWord a)

/-- A read of one word by any path: the word, and the state after it; MTR_REC_REQ clears (R450), and CTL_SVC_IN reads the pins (R541). -/
def State.readReg (s : State) (a : Nat) : State × Nat :=
  if a = Reg.MTR_REC_REQ then (if s.io.regPresent a then s.recordRead else (s, 0))
  else if a = Reg.CTL_SVC_IN then s.readPins
  else
    let (io, v) := s.io.readLatched a
    ({ s with io := io }, v)

/-! ### Writes that act -/

/-- Register fields under masks take the bits of a value. -/
def mergeBits (old v mask : Nat) : Nat := Nat.lor (Nat.land old (Nat.xor 0xFFFFFFFF mask)) (Nat.land v mask)

/-- R505: a status bit that is written 1 clears with its count; an occurrence of the same cycle wins. -/
def State.clearStatus (s : State) (i v : Nat) (coincident : List Nat) : State :=
  (List.range 32).foldl (fun s b =>
    let e := 32 * i + b
    if !bit v b || !eventDefined e then s
    else if coincident.contains e ∧ s.io.collecting then s.on (fun io => Io.settle (io.occur { event := e } true))
    else s.on (fun io => (io.setStatus e 0).setF (Fld.CTL_EVT_COUNT e) 0)) s

/-- R507: a mask word is written: a bit that falls while its status bit is 1 sends the event's message. -/
def State.writeMask (s : State) (i v : Nat) : State :=
  let old := (s.io.getReg (Reg.CTL_EVT_MASK i)).toNat
  let s := s.on (·.setReg (Reg.CTL_EVT_MASK i) (BitVec.ofNat 32 v))
  (List.range 32).foldl (fun s b =>
    if bit old b && !bit v b && s.io.evtStatus (32 * i + b) then s.on (·.evtMessage (32 * i + b)) else s) s

/-- R518: a snapshot is taken. -/
def State.snapshot (s : State) : State :=
  let s := s.on (fun io => { io with snap := io.cnt })
  let s := s.setF Fld.CTL_CNT_SNAP_SEQ (s.getF Fld.CTL_CNT_SNAP_SEQ + 1)
  s.on (fun io => (io.setWide Fld.CTL_CNT_SNAP_TICK_LO Fld.CTL_CNT_SNAP_TICK_HI io.tick))

/-- R518: every counter and both overflow registers are cleared. -/
def State.clearCounters (s : State) : State :=
  s.on (fun io => ({ io with cnt := [] }.setReg Reg.CTL_CNT_OVF_A 0).setReg Reg.CTL_CNT_OVF_B 0)

/-- R518: a write of CTL_CNT_GLOBAL: SNAP, CLEAR, then FREEZE; a requested snapshot fires event 19. -/
def State.writeGlobal (s : State) (v : Nat) : State :=
  let s := if bit v 1 then s.snapshot else s
  let s := if bit v 4 then s.clearCounters else s
  let s := s.on (·.setReg Reg.CTL_CNT_GLOBAL (BitVec.ofNat 32 (Nat.land v 0xD)))
  if bit v 1 then s.fire 19 else s

/-- R518: a counter is set to 0. -/
def State.resetCounter (s : State) (c : Nat) : State := s.on (fun io => { io with cnt := Sparse.erase io.cnt c })

/-- R515, R518: a write of CTL_CNT_CFG: a Tile part ignores EVENT and RFILT and has 16 counters. -/
def State.writeCounter (s : State) (c v : Nat) : State :=
  if s.io.isTile && decide (16 ≤ c) then s
  else
    let mask := if s.io.isTile then 0xC00 else 0x7FFF
    let s := s.on (fun io => io.setReg (Reg.CTL_CNT_CFG c) (BitVec.ofNat 32 (mergeBits (io.getReg (Reg.CTL_CNT_CFG c)).toNat v mask)))
    if bit v 15 then s.resetCounter c else s

/-- The state after a meaning that answers a next state. -/
def after (s : State) : Result → State
  | .next t => t
  | _ => s

/-- R487: a write of CTL_UMB_CMD runs one command. -/
def State.writeUmber (s : State) (v : Nat) : State :=
  after s (match v % 256 with
    | 0 => execUmberNone s
    | 1 => execUmberFormat s
    | 2 => execUmberOpen s
    | 3 => execUmberBlock s
    | 4 => execUmberClose s
    | 5 => execUmberDiscard s
    | 6 => execUmberRestart s
    | 7 => execUmberBootActive s
    | _ => execUmberBadCmd (v % 256) s)

/-- R299, R301: RETRY restarts a DOWN port, FORCE_DOWN makes an UP port retrain. -/
def State.linkRetry (s : State) (p : Nat) : State :=
  if s.io.chPresent p ∧ s.portState p = 4 then s.startAttempts p (if (s.port p).wasUp then 3 else 1) else s
def State.linkForce (s : State) (p : Nat) : State := if s.io.chPresent p then s.retrain p else s

/-- LNK_TEST of a port. -/
def State.writeLinkTest (s : State) (p v : Nat) : State :=
  let s := if bit v 0 then s.linkRetry p else s
  if bit v 1 then s.linkForce p else s

/-- PAIR_TEST (R325). -/
def State.writePairTest (s : State) (v : Nat) : State :=
  let s := if bit v 0 then s.pairHandover else s
  if bit v 1 then s.pairForeign else s

/-- LBD_TEST (R398, R406). -/
def State.writeBoardTest (s : State) (v : Nat) : State :=
  let b := bits v 0 6
  let s := s.setF Fld.LBD_TEST_BOARD b
  let s := if bit v 6 then s.releaseBoard b else s
  if bit v 7 then s.retestBoard b else s

/-- The MSI-X table (R13, R122): a low address is held until its high half is written; a mask bit that clears sends what is
pending. DESIGN CHOICE (log 46): a high half that is written while no low half is held leaves the low half as it is. -/
def State.writeMsix (s : State) (a v : Nat) : State :=
  let n := (a - Reg.HRG_MSIX_ADDR_LO 0) / 16
  match a % 16 with
  | 0 => s.on (fun io => { io with wideHold := Sparse.ins (Sparse.erase io.wideHold a) a (BitVec.ofNat 32 (Nat.land v 0xFFFFFFFC)) })
  | 4 =>
    s.on (fun io =>
      let lo := match io.wideHold.find? (·.1 == a - 4) with | some (_, w) => w | none => io.getReg (a - 4)
      { (io.setReg (a - 4) lo).setReg a (BitVec.ofNat 32 v) with wideHold := Sparse.erase io.wideHold (a - 4) })
  | 8 => s.on (·.setReg a (BitVec.ofNat 32 v))
  | _ => if bit v 0 then s.on (·.setReg a 1) else s.on (·.msixUnmask n)

/-- Writes to a channel's pattern control (R166): START reads 1 until a run ends. -/
def State.writePatCtl (s : State) (ch v : Nat) : State :=
  if bit v 3 then s.patternStart ch (bits v 0 2) (bit v 2) (bits v 4 20)
  else
    let run := s.getF (Fld.DMC_CH_PAT_CTL_START (ch / 4) (ch % 4))
    s.on (·.setReg (Reg.DMC_CH_PAT_CTL (ch / 4) (ch % 4)) (BitVec.ofNat 32 (Nat.land v 0xFFFFF7 + 8 * run)))

/-- A write that its access path and its locks let through, to a present register with a row (R10, R11). -/
def State.performWrite (s : State) (a v : Nat) (r : RegRow) (i : Nat) (locked : Bool) : State :=
  if a / 0x20000 = 14 then
    (if !s.io.meterUp || !s.isF Fld.MTR_HEALTH_CAL_EN then s
     else if a = Reg.MTR_CAL_CMD then s.calCommand (v % 256)
     else s.on (fun io => io.setReg a (BitVec.ofNat 32 (mergeBits (io.getReg a).toNat v r.rw))))
  else if r.base = Reg.CTL_EVT_STATUS 0 then s.clearStatus i v []
  else if r.base = Reg.CTL_EVT_MASK 0 then s.writeMask i v
  else if r.base = Reg.CTL_EVT_FWD 0 then (if s.io.isTile then s.on (·.setReg a (BitVec.ofNat 32 v)) else s)
  else if r.base = Reg.CTL_CNT_CFG 0 then s.writeCounter i v
  else if r.base = Reg.CTL_CNT_GLOBAL then s.writeGlobal v
  else if Reg.CTL_UMB_CMD ≤ r.base ∧ r.base ≤ Reg.CTL_UMB_LENGTH ∨ r.base = Reg.CTL_UMB_BUF 0 then
    (if s.io.boot ≠ stUMBER ∨ s.isF Fld.CTL_UMB_STAT_BUSY then s
     else if a = Reg.CTL_UMB_CMD then s.writeUmber v
     else s.on (·.setReg a (BitVec.ofNat 32 v)))
  else if r.base = Reg.LNK_TEST 0 0 then s.writeLinkTest i v
  else if r.base = Reg.PAIR_TEST then s.writePairTest v
  else if r.base = Reg.LBD_TEST then s.writeBoardTest v
  else if r.base = Reg.THM_TEST then (if bit v 0 then s.shutdown 5 else s)
  else if Reg.HRG_MSIX_ADDR_LO 0 ≤ r.base ∧ r.base ≤ Reg.HRG_MSIX_CTL 0 then s.writeMsix a v
  else if r.base = Reg.DMC_CH_PAT_CTL 0 0 ∧ !locked then s.writePatCtl i v
  else
    let mask := Nat.lor r.rw (if locked then 0 else r.rwl)
    s.on (fun io =>
      let old := (io.getReg a).toNat
      let cleared := Nat.land old (Nat.xor 0xFFFFFFFF (Nat.land v r.w1c))
      io.setReg a (BitVec.ofNat 32 (mergeBits cleared v mask)))

/-- The registers that accept writes in Umber mode (R487). -/
def umberReg (a : Nat) : Bool :=
  (decide (Reg.CTL_UMB_CMD ≤ a) && decide (a ≤ Reg.CTL_UMB_LENGTH)) || (decide (Reg.CTL_UMB_BUF 0 ≤ a) && decide (a < Reg.CTL_UMB_BUF 0 + 0x10000))

/-- A write of one word at a 4-aligned BAR0 offset: the state after it, and 0, or 1 where R11 locks it, or 2 where no such
offset exists (R293, R557). -/
def State.writeReg (s : State) (a v : Nat) : State × Nat :=
  if 0x400000 ≤ a then (s.fire 1, 2)
  else if 0x380000 ≤ a ∧ a < 0x390000 then (s.fire 70, 0)
  else match regRow a with
    | none => (s, 0)
    | some (r, i) =>
      if !s.io.regPresent a then (s, 0)
      else
        let locked := s.boot.locked
        if r.rwl ≠ 0 ∧ locked then ((s.performWrite a v r i true).fire 1, 1)
        else (s.performWrite a v r i false, 0)

/-! ### The three paths -/

/-- The device answers a path (R104, R293, R557): the host while the part has a host port; the chain's remote accesses in a Tile
part; the debug port; the device's own firmware in LOADING. -/
def State.pathOpen (s : State) (p : RegPath) : Bool :=
  s.boot.pwrgood && decide (s.boot.power < 2) &&
  match p with
  | .bar0 => s.io.hasHost && s.io.linkUp && !s.io.d3hot
  | .remote => s.io.isTile && decide (stTRAINING ≤ s.io.boot)
  | .debug => true
  | .firmware => decide (s.io.boot = stLOADING)

/-- A write by a path that is open: ignored with event 70 through BAR0 before OPERATIONAL (R104), and beyond the Umber registers in
Umber mode (R487). A host write of the ring context table fires event 1 whatever the device state (R106). -/
def State.pathWrite (s : State) (p : RegPath) (a v : Nat) : State × Nat :=
  if !s.pathOpen p then (s, 0)
  else if p = .bar0 ∧ 0x400000 ≤ a then s.writeReg a v
  else if s.io.boot = stUMBER then (if umberReg a then s.writeReg a v else (s, if 0x20000 ≤ a then 2 else 0))
  else if p = .bar0 ∧ !s.io.operational then (s.fire 70, 0)
  else s.writeReg a v

/-- A read by a path: in Umber mode only the CTL_ page is served (R487, R488). -/
def State.pathRead (s : State) (p : RegPath) (a : Nat) : State × Option Nat :=
  if !s.pathOpen p || (decide (s.io.boot = stUMBER) && decide (0x20000 ≤ a)) then (s, none)
  else
    let (s, v) := s.readReg a
    (s, some v)

/-- R11, R106: a write of a register by any path. Through BAR0, an access that is not of 4 bytes, aligned, with all byte enables
set, is discarded with event 70. -/
def execRegisterWrite (path : RegPath) (off value size : Nat) (enables : Bool) (s : State) : Result :=
  .next (
    if path = .bar0 ∧ (size ≠ 4 ∨ off % 4 ≠ 0 ∨ !enables) then (if s.pathOpen path then s.fire 70 else s)
    else if off % 4 ≠ 0 ∨ 0x800000 ≤ off then s
    else (s.pathWrite path off (value % 2 ^ 32)).1)

/-- R13, R106: a read of a register by any path; a low half latches its high half. Through BAR0 another access than one of 4
aligned bytes completes with Unsupported Request and event 70. -/
def execLowHalfRead (path : RegPath) (off size : Nat) (enables : Bool) (s : State) : Result :=
  .next (
    if path = .bar0 ∧ (size ≠ 4 ∨ off % 4 ≠ 0 ∨ !enables) then (if s.pathOpen path then (s.emit .barUR).fire 70 else s)
    else if off % 4 ≠ 0 ∨ 0x800000 ≤ off then s
    else match s.pathRead path off with
      | (s, some v) => if path = .bar0 then s.emit (.barData (leBytes 4 v) false) else s
      | (s, none) => if path = .bar0 ∧ s.pathOpen path then s.emit .barUR else s)

/-- R450: a read of MTR_REC_REQ. -/
def execRecordRequestRead (path : RegPath) (s : State) : Result :=
  .next (match s.pathRead path Reg.MTR_REC_REQ with
    | (s, some v) => if path = .bar0 then s.emit (.barData (leBytes 4 v) false) else s
    | (s, none) => s)

/-! ### Rows of one register -/

/-- R505: a write of CTL_EVT_STATUS[i]; `coincident`: events whose occurrence enters in the same cycle. -/
def execEventStatusClear (path : RegPath) (i value : Nat) (coincident : List Nat) (s : State) : Result :=
  .next (
    if 16 ≤ i ∨ !s.pathOpen path ∨ s.io.boot = stUMBER then s
    else if path = .bar0 ∧ !s.io.operational then s.fire 70
    else s.clearStatus i value coincident)

/-- R507: a write of CTL_EVT_MASK[i]. -/
def execEventMaskWrite (path : RegPath) (i value : Nat) (s : State) : Result :=
  .next (if 16 ≤ i then s else (s.pathWrite path (Reg.CTL_EVT_MASK i) (value % 2 ^ 32)).1)

/-- CTL_CNT_GLOBAL written with its present FREEZE, SNAP_AT_TICK and USER and one of its action bits. -/
def State.globalAct (s : State) (path : RegPath) (b : Nat) : State :=
  (s.pathWrite path Reg.CTL_CNT_GLOBAL (Nat.land (s.io.getReg Reg.CTL_CNT_GLOBAL).toNat 0xD + b)).1

/-- R518: SNAP is written. -/
def execCounterSnap (path : RegPath) (s : State) : Result := .next (s.globalAct path 2)
/-- R518: CLEAR is written. -/
def execCounterClear (path : RegPath) (s : State) : Result := .next (s.globalAct path 16)

/-- R518: RESET of one counter is written. -/
def execCounterReset (path : RegPath) (c : Nat) (s : State) : Result :=
  .next (if 64 ≤ c then s else (s.pathWrite path (Reg.CTL_CNT_CFG c) (Nat.land (s.io.getReg (Reg.CTL_CNT_CFG c)).toNat 0x7FFF + 0x8000)).1)

/-- A counter counts cycles (R515, R516): CCLK cycles, or the cycles in which its source is high. -/
def State.countsCycles (s : State) (c : Nat) : Bool :=
  let w := (s.io.getReg (Reg.CTL_CNT_CFG c)).toNat
  let src := if s.io.isTile then 512 + c else bits w 0 10
  bit w 11 && !s.isF Fld.CTL_CNT_GLOBAL_FREEZE && decide (c < 64) && (!s.io.isTile || decide (c < 16)) && (src == 512 || bit w 10)

/-- R517: a counter of cycles passes 2^48 - 1. Every other counter wraps as it counts. -/
def execCounterWrap (c : Nat) (s : State) : Result :=
  .next (if s.countsCycles c then
      s.on (fun io => Io.settle ({ io with cnt := Sparse.ins (Sparse.erase io.cnt c) c (2 ^ 48 - 1) }.countOne c))
    else s)

/-- R166: DMC_CH_PAT_CTL is written with START. -/
def execPatternRunStart (channel pattern : Nat) (write : Bool) (length : Nat) (path : RegPath) (s : State) : Result :=
  .next (if 16 ≤ channel then s
    else (s.pathWrite path (Reg.DMC_CH_PAT_CTL (channel / 4) (channel % 4)) (pattern % 4 + 4 * flag write + 8 + 16 * (length % 2 ^ 20))).1)

/-- R299, R301: LNK_TEST.RETRY and FORCE_DOWN. -/
def execLinkTestRetry (port : Nat) (path : RegPath) (s : State) : Result :=
  .next (if 16 ≤ port then s else (s.pathWrite path (Reg.LNK_TEST (port / 4) (port % 4)) 1).1)
def execLinkTestForceDown (port : Nat) (path : RegPath) (s : State) : Result :=
  .next (if 16 ≤ port then s else (s.pathWrite path (Reg.LNK_TEST (port / 4) (port % 4)) 2).1)

/-- R325: PAIR_TEST.HANDOVER and FOREIGN. -/
def execPairTestHandover (path : RegPath) (s : State) : Result := .next (s.pathWrite path Reg.PAIR_TEST 1).1
def execPairTestForeign (path : RegPath) (s : State) : Result := .next (s.pathWrite path Reg.PAIR_TEST 2).1

/-- R398, R406: LBD_TEST with RELEASE and with RETEST. -/
def execBoardRelease (board : Nat) (path : RegPath) (s : State) : Result := .next (s.pathWrite path Reg.LBD_TEST (board % 64 + 64)).1
def execBoardRetest (board : Nat) (path : RegPath) (s : State) : Result := .next (s.pathWrite path Reg.LBD_TEST (board % 64 + 128)).1

/-- R474: THM_TEST.SHUTDOWN. -/
def execThmTestShutdown (path : RegPath) (s : State) : Result := .next (s.pathWrite path Reg.THM_TEST 1).1

/-- R453: the commands of MTR_CAL_CMD. -/
def execCalNone (path : RegPath) (s : State) : Result := .next (s.pathWrite path Reg.MTR_CAL_CMD 0).1
def execCalStart (path : RegPath) (s : State) : Result := .next (s.pathWrite path Reg.MTR_CAL_CMD 1).1
def execCalZero (path : RegPath) (s : State) : Result := .next (s.pathWrite path Reg.MTR_CAL_CMD 2).1
def execCalVref (path : RegPath) (s : State) : Result := .next (s.pathWrite path Reg.MTR_CAL_CMD 3).1
def execCalIref (path : RegPath) (s : State) : Result := .next (s.pathWrite path Reg.MTR_CAL_CMD 4).1
def execCalDelay (path : RegPath) (s : State) : Result := .next (s.pathWrite path Reg.MTR_CAL_CMD 5).1
def execCalCommit (path : RegPath) (s : State) : Result := .next (s.pathWrite path Reg.MTR_CAL_CMD 6).1
def execCalAbort (path : RegPath) (s : State) : Result := .next (s.pathWrite path Reg.MTR_CAL_CMD 7).1
def execCalSeal (path : RegPath) (s : State) : Result := .next (s.pathWrite path Reg.MTR_CAL_CMD 8).1
/-- R453: a reserved command. -/
def execCalBadCmd (cmd : Nat) (path : RegPath) (s : State) : Result :=
  .next (if 9 ≤ cmd ∧ cmd < 256 then (s.pathWrite path Reg.MTR_CAL_CMD cmd).1 else s)

/-! ### Remote accesses at a tile -/

/-- R293: the reply to a REG_REQ: STATUS and VALUE, and the state after the access. An access that is not made returns the VALUE of
the request (log 46). -/
def State.remoteAccess (s : State) (op off v : Nat) : State × Nat × Nat :=
  if 1 < op then (s, 3, v)
  else if off % 4 ≠ 0 ∨ 0x400000 ≤ off ∨ (s.io.boot = stUMBER ∧ 0x20000 ≤ off) then (s, 2, v)
  else if op = 0 then
    match s.pathRead .remote off with
    | (s, some x) => (s, 0, x)
    | (s, none) => (s, 2, v)
  else
    let (s, st) := s.pathWrite .remote off v
    (s, st, v)

/-- R293: a REG_REQ arrives at a tile: a TAG of the last 4 replies is answered from them. -/
def execRegReqReceived (port : Nat) (packet : List Byte) (s : State) : Result :=
  .next (
    if !s.pathOpen .remote then s
    else match s.kept port 0x04 packet with
    | (s, none) => s
    | (s, some pl) =>
      let tag := fieldAt pl 0 2
      match s.link.replies.find? (·.1 == tag) with
      | some (_, r) => s.queueReturn 0x3 r
      | none =>
        let (s, st, v) := s.remoteAccess (fieldAt pl 2 1) (fieldAt pl 4 4) (fieldAt pl 8 4)
        let r := leBytes 2 tag ++ leBytes 1 st ++ zeros 1 ++ sub pl 4 4 ++ leBytes 4 v
        ({ s with link := { s.link with replies := ((tag, r) :: s.link.replies).take 4 } }).queueReturn 0x3 r)

/-! ### The debug port -/

/-- The debug port replaced. -/
def State.onJtag (s : State) (f : Jtag → Jtag) : State := { s with jtag := f s.jtag }

/-- R556: a test-logic reset. -/
def execJtagReset (s : State) : Result := .next (s.onJtag (fun j => { j with ir := 15, extest := false }))

/-- R556: EXTEST: the boundary register's levels, as updated, drive the pins. -/
def execJtagExtest (levels : Nat) (s : State) : Result :=
  .next ((s.onJtag (fun j => { j with ir := 0, boundary := levels, extest := true })).emit (.boundary levels))

/-- R556: SAMPLE/PRELOAD: `width` pins are sampled and shifted out, and `levels` are shifted in for a later EXTEST. -/
def execJtagSamplePreload (pins levels width : Nat) (s : State) : Result :=
  .next ((s.onJtag (fun j => { j with ir := 1, boundary := levels, extest := false })).emit (.tdo (pins % 2 ^ width) width))

/-- R556: BYPASS, or a code that is not listed. -/
def execJtagBypass (code : Nat) (s : State) : Result :=
  .next (if code % 16 = 0 ∨ code % 16 = 1 ∨ code % 16 = 8 then s else s.onJtag (fun j => { j with ir := code % 16, extest := false }))

/-- R557: Update-DR of REGACC; `busy`: the previous access has not completed, and this one is not made. -/
def execJtagRegaccUpdate (dr : Nat) (busy : Bool) (s : State) : Result :=
  .next (
    let s := s.onJtag (fun j => { j with ir := 8, extest := false })
    let off := 4 * bits dr 1 21
    let data := bits dr 22 32
    if busy then s.onJtag (fun j => { j with status := 2 })
    else if 0x400000 ≤ off ∧ bit dr 0 then s.onJtag (fun j => { j with status := 3, data := data })
    else if bit dr 0 then
      let (s, st) := s.pathWrite .debug off data
      s.onJtag (fun j => { j with status := if st = 2 then 3 else st, data := data })
    else match s.pathRead .debug off with
      | (s, some v) => s.onJtag (fun j => { j with status := 0, data := v })
      | (s, none) => s.onJtag (fun j => { j with status := 3, data := 0 }))

/-- R557: Capture-DR of REGACC, shifted out: STATUS and the data. -/
def execJtagRegaccCapture (s : State) : Result :=
  .next ((s.onJtag (fun j => { j with ir := 8, extest := false })).emit (.tdo (s.jtag.status + 2 ^ 22 * s.jtag.data) 56))

end Sys2Proof.Machine
end

