-- ==== Sys2Proof/Machine/Training.lean ====
section
/-! DEFINITION. The end of training (R295, R298, R480): equalisation, ports that come UP, attempts that fail, and the change from
TRAINING to JOINING. -/

namespace Sys2Proof.Machine

/-! ### Leaving TRAINING -/

/-- A port has ended its training: it is UP or DOWN (R480). -/
def State.portSettled (s : State) (p : Nat) : Bool := s.portUp p || s.portState p == 4

/-- The ports that take part in training (R295): every enabled chain port. -/
def State.enabledPorts (s : State) : List Nat :=
  (List.range 16).filter (fun p => s.io.chPresent p && s.isF (Fld.LNK_PORT_CFG_ENABLE (p / 4) (p % 4)))

/-- R480: training has ended: a Tile with one chain port UP; a Sender or Combined part with every enabled chain port, and the pair
port of a pair image, UP or DOWN. -/
def State.trained (s : State) : Bool :=
  if s.io.isTile then s.portUp 0 || s.portUp 1
  else s.enabledPorts.all s.portSettled && (!s.paired || s.portSettled pairPort)

/-- R480: the device goes from TRAINING to JOINING. -/
def State.leaveTraining (s : State) : State :=
  if s.io.boot = stTRAINING ∧ s.trained then s.enter stJOINING else s

/-! ### Learned equalisation -/

/-- The RTYPE 0x0002 payload: for each port, the pair port last, 8 bytes: held, rate, CTLE and the three taps (log 47). -/
def State.laneRecord (s : State) : List Byte :=
  (List.range 17).flatMap (fun p => match (s.port p).record with
    | some r => leBytes 1 1 ++ (List.range 5).flatMap (fun i => leBytes 1 (nth r i)) ++ zeros 2
    | none => zeros 8)

/-- What a stored RTYPE 0x0002 record holds of a port. -/
def learnedLane (b : List Byte) (p : Nat) : Option (List Nat) :=
  if fieldAt b (8 * p) 1 = 1 then some ((List.range 5).map (fun i => fieldAt b (8 * p + 1 + i) 1)) else none

/-- The learned settings at start (R298). -/
def State.restoreLanes (s : State) : State :=
  match s.record 2 with
  | none => s
  | some b => (List.range 17).foldl (fun (s : State) p => s.setPort p { s.port p with record := learnedLane b p }) s

/-- R298: a port that has come UP queues a record when its settings differ from the stored ones by more than one step in any
setting, or were learned at another rate. -/
def State.learnLane (s : State) (p : Nat) : State :=
  let rate := s.getF (Fld.LNK_STATE_RATE_NOW (p / 4) (p % 4))
  let new := rate :: s.eqSettings p
  let keep := match (s.port p).record with
    | some (r :: old) => decide (r = rate) && !settingsDiffer old (s.eqSettings p)
    | _ => false
  if keep || decide (s.io.boot = stUMBER) then s
  else
    let s := s.setPort p { s.port p with record := some new }
    s.queueRecord 2 s.laneRecord

/-! ### The commands -/

/-- R295: equalisation at the agreed rate has settled. -/
def execEqualisationDone (port ctle t1 t2 t3 fom skew : Nat) (s : State) : Result := .next (s.equalised port ctle t1 t2 t3 fom skew)

/-- The pair link comes up with its port (R304, R324): both directions number their packets anew. -/
def State.pairUp (s : State) : State :=
  (s.setF Fld.PAIR_STATE_LINK 1).onPair (fun u => { u with txSeq := 0, rxSeq := 0, sent := [] })

/-- R295, R298, R480: 1,024 words that are not TS words: the port is UP; `h` is the forward repeat latency of a tile. -/
def execPortUp (port h : Nat) (s : State) : Result :=
  .next (
    if !(s.port port).idle then s
    else
      let s := s.portComesUp port h
      let s := s.learnLane port
      let s := if port = pairPort then s.pairUp else s
      s.leaveTraining)

/-- A port waits in step 4 of R295: it sends TS2, and neither side offers a rate. No attempt is counted meanwhile. -/
def State.awaitsOffer (s : State) (p : Nat) : Bool :=
  (s.port p).ts2 && !(s.port p).agreed && decide (s.offer p = 3 ∧ (s.port p).farOffer = 3)

/-- R295: an attempt has taken more than 50 ms; a port that waits for an offer makes none. -/
def execTrainingAttemptTimeout (port : Nat) (s : State) : Result :=
  .next (if s.awaitsOffer port then s else (s.attemptFailed port).leaveTraining)

end Sys2Proof.Machine
end

