-- ==== Sys2Proof/Machine/Rings.lean ====
section
/-! DEFINITION. Ring entries and function resets that reach other units (R109, R116, R119, R217), and reads that end in a fault or a
timeout (R103, R133, R141). -/

namespace Sys2Proof.Machine

/-! ### Rings destroyed or reset -/

/-- The entries of an AUDIO or CAPTURE ring whose operation has not begun complete with STATUS 0x07 (R118, R217, log 48): queued
buffers, and entries fetched and not yet executed. -/
def State.abortQueued (s : State) (n : Nat) : State :=
  let caps := s.video.captures.filter (fun b => b.ring == n && b.frame.isNone)
  let s : State := caps.foldl (fun (s : State) b => s.endCapture b { status := 0x07 }) s
  let auds := (s.audio.plays ++ s.audio.caps).filter (fun b => b.ring == n && b.first.isNone)
  let s : State := auds.foldl (fun (s : State) b => s.endAudio b 0x07 0) s
  let waits := if (s.io.ring n).cls = 2 ∨ (s.io.ring n).cls = 3 then (s.io.ring n).fetched else []
  waits.foldl (fun (s : State) f => s.on (·.answer n f.1 f.2 { status := 0x07 })) s

/-- R119: RING_DESTROY: the entries that complete do so before its own completion. -/
def execRingDestroy (ring i : Nat) (s : State) : Result :=
  .next (
    let t := s.on (·.ringDestroy ring i)
    match (s.io.ring ring).entryAt i with
    | some e =>
      let n := fieldAt e 8 2
      let runs := decide (fieldAt e 0 1 = 0x02) && (s.io.entryStatus ring (s.io.ring ring) e false (tailZero e 10)).isNone
        && decide (n ≠ 0 ∧ (s.io.ring n).state ≠ 0)
      if runs && (t.io.ring n).destroying.isSome then t.abortQueued n else t
    | none => t)

/-- R116: RING_RESET, whose ring's queued buffers complete as at a RING_DESTROY (R217). -/
def execRingReset (ring i : Nat) (s : State) : Result :=
  .next (
    match (s.io.ring ring).entryAt i with
    | some e =>
      let n := fieldAt e 8 2
      let runs := decide (fieldAt e 0 1 = 0x03) && (s.io.entryStatus ring (s.io.ring ring) e false (tailZero e 10)).isNone && decide (n ≠ 0 ∧ (s.io.ring n).state ≠ 0)
      (if runs then s.abortQueued n else s).on (·.ringReset ring i)
    | none => s)

/-! ### What waits for operations -/

/-- What waited for operations that have ended goes on: BAR2 accesses (R172), completions that are owed (R118), and slots (R138). -/
def State.advance (s : State) : State := (s.on (fun io => io.bar2Run.payAll)).resumeFetches

/-- R135, R136, R138: the oldest operation of a class and kind completes and its entry frees. A read whose data another command
delivers, and a write to DRAM that its channel holds (R150), have not completed. -/
def execOperationComplete (region cls : Nat) (host write shared : Bool) (s : State) : Result :=
  .next (s.on (fun io => Io.settle (io.release region (fun e =>
    e.cls == cls && e.host == host && e.write == write && e.shared == shared && !e.awaited && !s.writeHeld e)))).advance

/-- R150: a write reaches its channel's write queue. -/
def execDramWriteAccept (channel cls kind addr len : Nat) (s : State) : Result := .next (s.writeAccept channel cls kind addr len).advance

/-- R153: a granule ends on a channel and the arbiter grants. -/
def execDramGrant (channel : Nat) (arrivals : List (Nat × Nat × Nat × Nat × Nat)) (ns : Nat) (s : State) : Result :=
  .next (s.dramGrant channel arrivals ns).advance

/-- R116: the fetch of a ring that starts at an index returns; poisoned data is a read error, with event 72 (R124). -/
def State.fetchReturns (s : State) (n first : Nat) (res : ReadResult) : State :=
  let due := (s.io.ring n).fetches.any (·.1 == first)
  ((if due then s.poisonSeen res else s).on (·.sqReadComplete n first res)).advance

def execSqReadComplete (ring first : Nat) (res : ReadResult) (s : State) : Result := .next (s.fetchReturns ring first res)

/-- R176: the read of a commit's descriptor list ends. -/
def execCommitDescriptorReadDone (ring i : Nat) (res : ReadResult) (s : State) : Result := .next (s.descRead ring i res).advance

/-- R180: a fence-word read ends. -/
def execFenceReadComplete (key : Nat) (res : ReadResult) (s : State) : Result := .next (s.fenceRead key res).advance

/-! ### Resets of the function -/

/-- The layers of host memory in the runs that wait for their fetches are shown as their fallback: the reads have ended as failed
reads (R109, R141). -/
def State.failFetches (s : State) : State :=
  (s.video.composing.filter (·.fetched)).foldl (fun s (run : ComposeRun) =>
    let lane := match s.slot run.region run.slot with | some sl => sl.lane | none => 0
    run.all.foldl (fun s r =>
      if LayerRec.kind r = 1 ∧ !(r.left run.all run.next).isEmpty ∧ !s.video.faulted.contains (LayerRec.layer r, run.frame) then
        s.fallBack run lane r (some (8, LayerRec.addr r 0 + LayerRec.srcY r * LayerRec.pitch r 0))
      else s) s) s

/-- A reset of the function, or the loss of the link, ends the host reads that slots wait for. -/
def State.resetHost (s : State) (f : Io → Io) : State :=
  let waiting := s.video.composing.any (fun run => run.fetched && s.io.busy (.slot run.region run.slot))
  let s := s.on f
  if waiting then s.failFetches else s

/-- R109: a reset of the function abandons the operations taken from rings, without completions. What the wall shows, and what has been
compiled, runs on; the completions of compiled commits are owed to no entry any more. -/
def State.dropHost (s : State) : State :=
  let off := fun (c : Compiled) => { c with ring := c.ring.map (fun r => (r.1, 2 ^ 32, r.2.2)) }
  let s : State := s.onLay (fun l => { l with commits := [], fences := [], fenceReads := [], releases := [], compiled := l.compiled.map off })
  let s : State := s.onVideo (fun v => { v with captures := [], fifo := [] })
  let s : State := (List.range 4).foldl (fun (s : State) n => if s.io.regionActive n then s.reportRows n else s) s
  let s : State := s.onAudio (fun a => { a with plays := [], caps := [], orders := [], masks := a.masks.map (fun m => { m with entry := none }) })
  let s : State := s.onBoot (fun b => { b with attest := b.attest.map (fun a => (none, a.2)), attestTile := none, wallRestart := none,
                                               stage := { b.stage with job := none } })
  { s with link := { s.link with regs := s.link.regs.filter (fun w => decide (65536 ≤ w.ring)) }, host := { s.host with served := [] } }

/-- R108: the link goes down. -/
def execPcieLinkDown (s : State) : Result := .next (if s.io.linkUp then (s.resetHost Io.pcieDown).dropHost.advance else s)
/-- R109: a hot reset. -/
def execHotReset (s : State) : Result := .next (if s.io.hasHost then (s.resetHost Io.hotReset).dropHost.advance else s)
/-- R109: a Function Level Reset. -/
def execFunctionLevelReset (s : State) : Result := .next (if s.io.hasHost then (s.resetHost Io.flr).dropHost.advance else s)
/-- R109: the return to D0. -/
def execD3hotToD0 (s : State) : Result := .next (if s.io.d3hot then (s.resetHost Io.d3Exit).dropHost.advance else s)

/-! ### Walks and timeouts -/

/-- A write of a ring entry's operation faults after it was issued (R141, R143): the rest of its data is not written, and the entry
completes with STATUS 0x06. -/
def State.entryFault (s : State) (ring i ctx kind iova : Nat) : State :=
  let s := s.on (·.withdraw (.entry ring i))
  match s.audio.caps.find? (fun b => b.ring == ring && b.index == i) with
  | some b => s.audioFault b (b.what / 4) (29 + b.what % 4) kind iova true
  | none =>
    match s.io.owed.find? (fun o => o.ring == ring && o.index == i) with
    | none => s
    | some o =>
      let cap := fieldAt o.entry 0 1 == 0x21
      let n := if cap then fieldAt o.entry 8 1 / 4 else 0
      s.on (fun io =>
        let io := Io.settle ((io.countFault).logFault n iova kind (if cap then 1 else 3) ctx (if cap then 29 + fieldAt o.entry 8 1 % 4 else 38) none true)
        { io with owed := io.owed.map (fun x => if x = o then { x with done := { x.done with status := 0x06 } } else x) })

/-- What a walk's fault means to a requester beyond the ring engine (R141, R180). -/
def State.walkFault (s : State) (who : Waiter) (ctx kind iova : Nat) : State :=
  match who with
  | .descriptors ring i => (s.on (·.readFault who ctx iova kind)).descFailed ring i
  | .fence key =>
    match s.video.lay.fenceReads.find? (·.key == key) with
    | some f => (s.endFenceRead f).fenceFailed f kind
    | none => s
  | .entry ring i => s.entryFault ring i ctx kind iova
  | _ => s

/-- A walk of a context's page ends with what its table reads returned (R133). -/
def State.endWalk (s : State) (ctx page : Nat) (reads : List (Option Nat)) : State :=
  let (io, fs) := s.io.walkDone ctx page reads
  (fs.foldl (fun (s : State) f => s.walkFault f.1 ctx f.2.1 f.2.2) { s with io := io }).advance

/-- R133: `reads` are the table entries read, level by level; none is a read that ended without data. -/
def execTranslationWalkDone (ctx page : Nat) (reads : List (Option Nat)) (s : State) : Result := .next (s.endWalk ctx page reads)

/-- A layer fetch has timed out: the layer is shown as its fallback from the row that waits to be composed (R141); every fault counts
(R143). -/
def State.layerTimeout (s : State) (n layer : Nat) : State :=
  match s.video.composing.find? (fun r => r.region == n && r.plan.any (·.1 == layer)) with
  | none => s
  | some run =>
    let lane := match s.slot n run.slot with | some sl => sl.lane | none => 0
    match run.plan.find? (·.1 == layer) with
    | some (_, r) =>
      if LayerRec.kind r ≠ 1 then s
      else
        let s := if s.video.faulted.contains (layer, run.frame) then s.on Io.countFault
          else s.fallBack run lane r (some (8, LayerRec.addr r 0 + LayerRec.srcY r * LayerRec.pitch r 0))
        (s.on (fun io => Io.settle (io.completeOwn (.slot n run.slot)))).advance
    | none => s

/-- A PLAY buffer of a ring entry reads host memory. -/
def State.hostPlay (s : State) (ring i : Nat) : Option AudioBuf := s.audio.plays.find? (fun b => b.ring == ring && b.index == i && !b.dram)

/-- The read that times out is outstanding. -/
def State.awaits (s : State) (t : TimedOut) : Bool :=
  let issued := fun (w : Waiter) => s.io.inFlight w
  match t with
  | .ringFetch n => !(s.io.ring n).sqDram && (s.io.ring n).fetches.any (fun f => issued (.fetch n f.1 f.2))
  | .walk c p => s.io.walks.any (fun w => w.ctx == c && w.page == p && w.running) && issued (.walk c p)
  | .descriptors n i => s.video.lay.commits.any (fun c => c.ring == n && c.index == i && c.desc.isNone && !bit (fieldAt c.entry 16 1) 0)
      && issued (.descriptors n i)
  | .fence k => s.video.lay.fenceReads.any (fun f => f.key == k && f.host) && issued (.fence k)
  | .bulk n i _ _ => (match s.io.activeEntry n i 0x40 with | some e => !bit (fieldAt e 32 1) 0 | none => false)
  | .staging n i _ _ => (match (s.io.ring n).entryAt i with | some e => fieldAt e 0 1 == 0x42 && !bit (fieldAt e 13 1) 0 | none => false)
  | .audio n i _ => (s.hostPlay n i).isSome
  | .layer n l => s.video.lay.layers.any (fun x => x.1 == l && l / 16 == n && LayerRec.kind x.2 == 1)

/-- A read that has timed out ends as a failed read (R103, R141). -/
def State.timedOut (s : State) (t : TimedOut) : State :=
  match t with
  | .ringFetch n =>
    (match (s.io.ring n).fetches.find? (fun (f : Nat × Nat) => s.io.inFlight (.fetch n f.1 f.2)) with
     | some (first, k) => s.on (fun io => io.fetchFailed n first k 8 ((io.ring n).sqBase + (io.ring n).entryBytes * (first % 2 ^ (io.ring n).sqLog2)))
     | none => s).advance
  | .walk c p => s.endWalk c p []
  | .descriptors n i => ((s.on (·.withdraw (.descriptors n i))).descRead n i (.fault 8)).advance
  | .fence k => ((s.on (·.withdraw (.fence k))).fenceRead k (.fault 8)).advance
  | .bulk n i at_ mem => s.on (·.dmaCopyDone n i mem (some at_))
  | .staging n i at_ mem => s.stageData n i mem (some at_)
  | .audio n i at_ =>
    match s.hostPlay n i with
    | some b => s.audioFault b (if b.what < 16 then b.what / 4 else 0) (29 + b.what % 4) 8 at_ false
    | none => s
  | .layer n l => s.layerTimeout n l

/-- R103: a non-posted read has no completion at the timeout: AER records it, event 71 fires, and the read ends as a failed read. -/
def execCompletionTimeout (t : TimedOut) (s : State) : Result :=
  .next (if s.awaits t then ((s.aerUncorrectable 14).fire 71).timedOut t else s)

end Sys2Proof.Machine
end

