-- ==== Sys2Proof/Machine/Routing.lean ====
section
/-! DEFINITION. What image section 0x0003, the routing section, says (R46). The spec names its content and gives no layout of its bytes:
the reading is a constant without a body (log 49). -/

namespace Sys2Proof.Machine

/-- The routing section's content (R18 to R22, R33, R46, R56, R168, R218, R240, R248). -/
structure Routing where
  /-- The chains that this part drives or lies on: number, tile count and whether the chain is a ring. -/
  routes : List Route
  /-- The chain ports assigned as outputs, in a Tile part the ports in use, and the cascaded inputs. -/
  outputs : List Nat
  inputs : List CascadePort
  positions : List Position
  /-- The entry of a Combined part's own section. -/
  own : Option Position
  /-- The tile classes. -/
  classes : List Nat
  /-- The wall's coding domain is gamma 2.4; the input ports whose domain is. -/
  gamma : Bool
  gammaInputs : List Nat
  /-- The raster size of each region. -/
  rasters : List (Nat × Nat)
deriving DecidableEq, Repr, Inhabited

end Sys2Proof.Machine

/-- What the bytes of a routing section say (log 49). -/
opaque Sys2Proof.Config.routing : List Sys2Proof.Byte → Sys2Proof.Machine.Routing
end

