-- ==== Sys2Proof/Machine/Slots.lean ====
section
/-! DEFINITION. The clock plan and the slot tables of image section 0x0002 (R67, R89) and their checks (R54, R92, R206, R284, R330,
R371, R408, R562). -/

namespace Sys2Proof.Machine

/-- The section 0x0002 of the image. -/
def State.clockSec (s : State) : List Byte := s.sectOr 0x0002

/-- `v` lies from `lo` to `hi`. -/
def within (lo hi v : Nat) : Bool := decide (lo ≤ v ∧ v ≤ hi)

/-- A slot entry (R89). -/
def readSlot (b : List Byte) : Slot :=
  { nomStart := fieldAt b 0 3, kind := fieldAt b 3 1, nomDur := fieldAt b 4 3, lane := fieldAt b 7 1 % 64, minDur := fieldAt b 8 3,
    depValid := bit (fieldAt b 11 1) 0, dep := fieldAt b 12 2 % 4096, operand := fieldAt b 14 2 }

/-- The raw entries of region `n`'s table in rate set `i` (R67). -/
def rawSlots (sec : List Byte) (i n : Nat) : List (List Byte) :=
  let o := 0x40 + 64 * i
  (List.range (fieldAt sec (o + 0x14 + 2 * n) 2)).map (fun k => sub sec (fieldAt sec (o + 0x1C + 4 * n) 4 + 16 * k) 16)

/-- Rate set `i` (R67). -/
def readRset (sec : List Byte) (i : Nat) : RSet :=
  let o := 0x40 + 64 * i
  { nom := fieldAt sec o 4, low := fieldAt sec (o + 4) 4, high := fieldAt sec (o + 8) 4, compileDeadline := fieldAt sec (o + 12) 4,
    decodeLead := fieldAt sec (o + 16) 4, tables := (List.range 4).map (fun n => (rawSlots sec i n).map readSlot) }

/-- The rate sets of the clock plan. -/
def readRsets (sec : List Byte) : List RSet := (List.range (fieldAt sec 0 1)).map (readRset sec)

/-- R54, R67: the clock plan is outside the part's capability: defect 0x0F. -/
def clockBad (sec : List Byte) : Bool :=
  !within 1 8 (fieldAt sec 0 1) || decide (1000 < fieldAt sec 2 2) || !within 500 15000 (fieldAt sec 4 4) ||
  (readRsets sec).any (fun r => !decide (24000 ≤ r.low ∧ r.low ≤ r.nom ∧ r.nom ≤ r.high ∧ r.high ≤ 480000))

/-- A reserved field of the clock plan is not 0. -/
def clockReserved (sec : List Byte) : Bool :=
  !(allZero sec 1 1 && allZero sec 8 56 && (List.range (fieldAt sec 0 1)).all (fun i => allZero sec (0x40 + 64 * i + 0x2C) 20))

/-! ### One entry -/

/-- The lanes that execute a kind, first and last (R92). -/
def kindLanes (k : Nat) : Option (Nat × Nat) :=
  match k with
  | 0x01 => some (0, 4)
  | 0x02 => some (5, 8)
  | 0x03 => some (25, 28)
  | 0x04 => some (9, 10)
  | 0x05 => some (11, 12)
  | 0x06 => some (13, 24)
  | 0x07 => some (13, 24)
  | 0x08 => some (25, 28)
  | 0x09 => some (29, 32)
  | 0x0A => some (34, 34)
  | 0x0B => some (11, 12)
  | 0x0C => some (4, 4)
  | 0x0D => some (33, 33)
  | 0x0E => some (9, 10)
  | 0x0F => some (25, 28)
  | _ => none

/-- The kinds of fixed slots (R91). -/
def kindFixed (k : Nat) : Bool := [0x03, 0x07, 0x08, 0x09, 0x0A, 0x0D, 0x0F].contains k

/-- A kind names work that the part's role has fused off (R4, R92). -/
def Io.kindFused (s : Io) (k : Nat) : Bool :=
  (s.isTile && [0x01, 0x02, 0x0C].contains k) || (s.isSender && [0x05, 0x06, 0x07, 0x0A, 0x0B].contains k)

/-- The part enables the cell or port that a lane of region `n` names (R3, R4, R31, R54). -/
def Io.laneEnabled (s : Io) (n l : Nat) : Bool :=
  s.regionActive n &&
  (if l ≤ 8 then s.hasHost
   else if 11 ≤ l ∧ l ≤ 24 ∨ l = 34 then s.hasLamps
   else if 25 ≤ l ∧ l ≤ 28 then s.portPresent n (l - 25)
   else true)

/-- A reserved field of an entry is not 0 (R89). -/
def slotReserved (b : List Byte) : Bool := decide (64 ≤ fieldAt b 7 1 ∨ 2 ≤ fieldAt b 11 1 ∨ 4096 ≤ fieldAt b 12 2)

/-- The slices that a Tile or Combined image decodes as its own (R22, R56). -/
def Routing.ownSlices (r : Routing) (tile : Bool) : List Position := if tile then r.positions else r.own.toList

/-- The band of a slice's row belongs to region `n` (R33). -/
def Position.bandIn (e : Position) (row n : Nat) : Bool :=
  let k := (e.bands.filter (fun b => decide (b ≤ row))).length
  e.bandRegions.getD (k - 1) 0 == n

/-- The rows that an operand [11:0] and [15:12] names. -/
def operandRows (o : Nat) : List Nat := (List.range (bits o 12 4 + 1)).map (bits o 0 12 + ·)

/-- R330: a lamp-pipeline slot's DEP is the decode slot of its last row; a wear-sample slot's DEP is the lamp-pipeline slot of its
lane that covers its rows. -/
def lampDepOk (tab : List Slot) (sl : Slot) : Bool :=
  match tab.drop sl.dep with
  | [] => false
  | d :: _ =>
    let first := bits sl.operand 0 12
    let last := first + bits sl.operand 12 4
    let dFirst := bits d.operand 0 12
    let dLast := dFirst + bits d.operand 12 4
    sl.depValid &&
    (if sl.kind = 0x05 then d.kind == 0x04 && decide (dFirst ≤ last ∧ last ≤ dLast)
     else d.kind == 0x05 && d.lane == sl.lane && decide (dFirst ≤ first ∧ last ≤ dLast))

/-- The OPERAND of an entry of region `n`: a Combined part decodes its own section in the region that codes it (R22) (R206, R284, R330, R371, R408, R562). -/
def Io.operandOk (s : Io) (r : Routing) (rs : RSet) (n : Nat) (tab : List Slot) (sl : Slot) : Bool :=
  let o := sl.operand
  match sl.kind with
  | 0x02 => decide (o < 1024 ∧ bits o 6 4 / 4 = n) && (r.outputs.contains (bits o 6 4) || r.own.any (fun e => e.chain == bits o 6 4))
  | 0x03 => decide (o < 2)
  | 0x04 => !(r.ownSlices s.isTile).isEmpty && (r.ownSlices s.isTile).all (fun e => (s.isTile || e.chain / 4 == n) && (operandRows o).all (fun q => decide (8 * q < e.height) && e.bandIn q n))
  | 0x05 => lampDepOk tab sl
  | 0x06 => decide (o < 4096)
  | 0x07 => decide (sl.nomStart = rs.decodeLead)
  | 0x0A => within 1 4095 o
  | 0x0B => lampDepOk tab sl
  | 0x0D => decide (sl.nomStart = rs.compileDeadline)
  | 0x0E => (match r.inputs.find? (fun c => c.port == 4 * n + bits o 12 2) with
    | some c => decide (8 * (bits o 0 12 + bits o 14 2) < c.height)
    | none => false)
  | _ => true

/-- One entry of region `n`'s table (R54, R89 to R92). -/
def Io.slotOk (s : Io) (r : Routing) (rs : RSet) (n : Nat) (tab : List Slot) (i : Nat) (raw : List Byte) : Bool :=
  let sl := readSlot raw
  sl.kind == 0 ||
  (!slotReserved raw && !s.kindFused sl.kind && s.laneEnabled n sl.lane &&
   (match kindLanes sl.kind with | some (lo, hi) => within lo hi sl.lane | none => false) &&
   decide (sl.minDur ≤ sl.nomDur) && (!sl.depValid || decide (sl.dep < i)) &&
   (!kindFixed sl.kind || decide ((sl.nomStart + sl.nomDur) * 4 * rs.high ≤ 10 ^ 12)) &&
   s.operandOk r rs n tab sl)

/-! ### Whole tables -/

/-- Two fixed slots of one lane overlap (R92). -/
def fixedOverlap : List Slot → Bool
  | [] => false
  | a :: t =>
    (kindFixed a.kind && t.any (fun b => kindFixed b.kind && b.lane == a.lane &&
      decide (a.nomStart < b.nomStart + b.nomDur ∧ b.nomStart < a.nomStart + a.nomDur))) || fixedOverlap t

/-- A slot entered in ascending NOM_START. -/
def insertSlot (x : Slot) : List Slot → List Slot
  | [] => [x]
  | y :: t => if x.nomStart < y.nomStart then x :: y :: t else y :: insertSlot x t

/-- R371: the load slots of a USED group, those of one frame in order, cover its row groups once each, and one SYNC slot stands at
DECODE_LEAD. -/
def State.groupSlotsOk (s : State) (lead : Nat) (tab : List Slot) (g : Nat) : Bool :=
  let mine := (tab.filter (fun sl => sl.lane == 13 + g % 12)).foldl (fun l x => insertSlot x l) []
  let syncs := mine.filter (·.kind == 0x07)
  let loads := mine.filter (·.kind == 0x06)
  let order := loads.filter (fun sl => decide (lead ≤ sl.nomStart)) ++ loads.filter (fun sl => decide (sl.nomStart < lead))
  let rows := order.flatMap (fun sl => (List.range (bits sl.operand 6 6 + 1)).map (bits sl.operand 0 6 + ·))
  syncs.length == 1 && syncs.all (fun sl => sl.nomStart == lead) && rows == List.range (s.rowGroups g)

/-- Region `n`'s table of a rate set. -/
def State.tableOk (s : State) (r : Routing) (rs : RSet) (i n : Nat) : Bool :=
  let raws := rawSlots s.clockSec i n
  let tab := raws.map readSlot
  decide (raws.length ≤ 4096) &&
  (raws.zipIdx).all (fun x => s.io.slotOk r rs n tab x.2 x.1) &&
  !fixedOverlap tab && decide ((tab.filter (·.kind == 0x0A)).length ≤ 1) &&
  (!s.io.hasLamps || ((List.range 12).map (12 * n + ·)).all (fun g => !s.groupUsed g || s.groupSlotsOk rs.decodeLead tab g))

/-- How many slots of the four tables decode row `q` of a stream. -/
def rowCovers (rs : RSet) (st q : Nat) : Nat :=
  ((List.range 4).map (fun n => ((rs.tables.getD n []).filter (fun sl => sl.covers st n q)).length)).foldl (· + ·) 0

/-- R562: every tile of every output chain is named by one encode slot, and every block row of every decoded slice is covered by
one decode slot. -/
def Io.coverOk (s : Io) (r : Routing) (rs : RSet) : Bool :=
  let names := rs.tables.flatMap (fun t => (t.filter (·.kind == 0x02)).map (·.operand))
  let want := (r.positions.filter (fun e => r.outputs.contains e.chain)) ++ r.own.toList
  (s.isTile || (decide (names.length = want.length) && want.all (fun e => names.contains (e.position + 64 * e.chain)))) &&
  (s.isSender || (r.ownSlices s.isTile).all (fun e => (List.range (e.height / 8)).all (fun q => rowCovers rs 0 q == 1))) &&
  r.inputs.all (fun c => (List.range (c.height / 8)).all (fun q => rowCovers rs (c.port + 1) q == 1))

/-- The slot tables pass (R54, R92, R562). -/
def State.slotsOk (s : State) (r : Routing) : Bool :=
  !clockReserved s.clockSec &&
  ((readRsets s.clockSec).zipIdx).all (fun x => (List.range 4).all (fun n => s.tableOk r x.1 x.2 n) && s.io.coverOk r x.1)

end Sys2Proof.Machine
end

