-- ==== Sys2Proof/Machine/Tables.lean ====
section
/-! DEFINITION. The consistency checks of the other image sections (R47, R53, R54, R189, R224, R255, R334, R362 to R367, R387, R407,
R421, R463, R563). -/

namespace Sys2Proof.Machine

/-! ### Presence, target and register values -/

/-- The section types that an image of this part must carry (R47). -/
def State.requiredSections (s : State) : List Nat :=
  let still := if bit (fieldAt s.boot.header 0x0E 2) 1 && s.io.hasHost then [0x0C] else []
  (if s.io.isSender then [0x01, 0x02, 0x03, 0x04, 0x05, 0x07, 0x0A, 0x0B, 0x0D]
   else [0x01, 0x02, 0x03, 0x04, 0x05, 0x06, 0x07, 0x08, 0x09, 0x0A, 0x0B, 0x0D, 0x0F]) ++ still

/-- The pairs of section 0x000D: BAR0 offset and value (R47). Bytes after the last whole pair are ignored (DESIGN CHOICE, log 85). -/
def State.registerPairs (s : State) : List (Nat × Nat) :=
  let sec := s.sectOr 0x000D
  (List.range (sec.length / 8)).map (fun i => (fieldAt sec (8 * i) 4, fieldAt sec (8 * i + 4) 4))

/-- The register page of an offset belongs to a resource that the part enables (R53). -/
def Io.pagePresent (s : Io) (a : Nat) : Bool :=
  let k := a / 0x20000
  let o := a % 0x20000
  decide (k < 16) && s.subsystem k && (!(pageRegional k && decide (0x4000 ≤ o)) || s.regionActive (o / 0x4000 - 1))

/-- R53: a pair of section 0x000D is out of range. -/
def State.pairsBad (s : State) : Bool := s.registerPairs.any (fun p => decide (p.1 % 4 ≠ 0 ∨ 0x400000 ≤ p.1) || !s.io.pagePresent p.1)

/-! ### Routing -/

/-- No two numbers of a list are equal. -/
def distinct : List Nat → Bool
  | [] => true
  | a :: t => !t.contains a && distinct t

/-- R224: a slice obeys the limits. -/
def Position.sliceOk (e : Position) : Bool :=
  decide (e.x % 16 = 0 ∧ e.width % 16 = 0 ∧ e.y % 8 = 0 ∧ e.height % 8 = 0) && within 16 4096 e.width && within 8 32760 e.height

/-- R54, R224: the routing section passes. -/
def Io.routingOk (s : Io) (r : Routing) : Bool :=
  r.routes.all (fun x => within 1 64 x.tiles && decide (x.chain < 16)) && decide (r.routes.length ≤ 16) && distinct (r.routes.map (·.chain)) &&
  (s.isTile || r.routes.all (fun x => r.outputs.contains x.chain)) &&
  r.outputs.all s.chPresent && r.inputs.all (fun c => s.chPresent c.port && !r.outputs.contains c.port) &&
  distinct (r.positions.map (fun e => 64 * e.chain + e.position)) &&
  (r.positions ++ r.own.toList).all Position.sliceOk && r.classes.all (fun c => r.positions.any (·.cls == c))

/-! ### Budgets -/

/-- The position-table entries that name tile entry `i` of the budget section. -/
def Routing.naming (r : Routing) (i : Nat) : List Position := (r.positions ++ r.own.toList).filter (·.budget == i)

/-- R255: a tile entry of rate set `k` and its row table. -/
def budgetOk (sec : List Byte) (r : Routing) (k i : Nat) : Bool :=
  let b := budgetAt sec k i
  let o := fieldAt sec (0x10 + 4 * k) 4 + 32 * i
  (r.naming i).all (fun e => decide (b.nb = e.width / 16 ∧ b.rows = e.height / 8)) &&
  r.inputs.all (fun c => c.budget != i || decide (b.nb = c.width / 16 ∧ b.rows = c.height / 8)) &&
  within (ceilDiv b.rows 8) b.rows b.keyMax && decide (b.ltSmax ≤ 7) && decide (b.cap sec (b.rows - 1) ≤ b.share) &&
  allZero sec (o + 19) 1 && allZero sec (o + 24) 8 &&
  (List.range b.rows).all (fun q =>
    decide (b.cap sec (q - 1) ≤ b.cap sec q ∧ b.rel sec q ≤ q ∧ (q + 1) * b.flc ≤ b.cap sec q ∧ (q - b.rel sec q + 1) * b.flc ≤ b.buf)
      && allZero sec (b.rowOffset + 8 * q + 6) 2)

/-- The bytes that the VIDEO windows of a chain carry in a rate set (R255, R284): the rate is the one that its port offers, and a
window meets the largest number of ALIGN words that fit in it (R279). -/
def State.videoCapacity (s : State) (rs : RSet) (chain : Nat) : Nat :=
  ((rs.tables.getD (chain / 4) []).filter (fun sl => sl.kind == 0x03 && sl.lane == 25 + chain % 4 && sl.operand % 4 == 0)).foldl (fun a sl =>
    let rate := min 2 (s.getF (Fld.LNK_PORT_CFG_RATE (chain / 4) (chain % 4)))
    let w := sl.nomDur * 4000 / wordTime rate
    a + windowBytes sl.nomDur rate (ceilDiv w 16384)) 0

/-- The size that the DRAM plan gives a buffer (R563). -/
def planSize (sec : List Byte) (kind index : Nat) : Nat :=
  match (List.range (fieldAt sec 2 2)).find? (fun e => decide (fieldAt sec (0x10 + 16 * e) 2 = kind ∧ fieldAt sec (0x12 + 16 * e) 2 = index)) with
  | some e => fieldAt sec (0x14 + 16 * e) 4
  | none => 0

/-- R255: section 0x0004 passes. -/
def State.budgetsOk (s : State) (r : Routing) : Bool :=
  let sec := s.sectOr 0x0004
  let plan := s.sectOr 0x0005
  let n := fieldAt sec 0 4
  let count := fieldAt sec 4 4
  let rs := readRsets s.clockSec
  decide (n = rs.length) && within 1 1024 count && allZero sec 0x0C 4 && allZero sec 0x30 16 &&
  (List.range 8).all (fun k => decide (k < n) || allZero sec (0x10 + 4 * k) 4) &&
  (r.positions ++ r.own.toList).all (fun e => decide (e.budget < count)) &&
  (rs.zipIdx).all (fun x =>
    (List.range count).all (budgetOk sec r x.2) &&
    (s.io.isTile || r.routes.all (fun c =>
      decide (((r.positions.filter (·.chain == c.chain)).map (fun e => (budgetAt sec x.2 e.budget).share)).foldl (· + ·) 0 ≤ s.videoCapacity x.1 c.chain))) &&
    (r.ownSlices s.io.isTile).all (fun e => s.io.isSender || decide (2 * (budgetAt sec x.2 e.budget).buf ≤ planSize plan 0x0A 0)) &&
    r.inputs.all (fun c => decide (2 * (budgetAt sec x.2 c.budget).buf ≤ planSize plan 0x0A (c.port + 1))))

/-! ### The DRAM plan -/

/-- A placement entry (R563): kind, index, size and address. -/
structure Placement where
  kind : Nat
  index : Nat
  size : Nat
  addr : Nat
deriving DecidableEq, Repr

/-- The placement entries of a DRAM plan. -/
def placements (sec : List Byte) : List Placement :=
  (List.range (fieldAt sec 2 2)).map (fun e =>
    let o := 0x10 + 16 * e
    { kind := fieldAt sec o 2, index := fieldAt sec (o + 2) 2, size := fieldAt sec (o + 4) 4, addr := fieldAt sec (o + 8) 8 })

/-- The smallest size of a kind (R563): `n` active regions, and the pixels of the largest slice. -/
def smallestSize (n p kind : Nat) : Nat :=
  match kind with
  | 0x01 => 16384
  | 0x02 => 8192
  | 0x03 => 96 * n * 0xC000
  | 0x04 => 96 * n * 0xC000
  | 0x05 => 32 * p
  | 0x06 => 32 * p
  | 0x07 => 6 * p
  | 0x08 => 12 * p
  | 0x09 => 24 * p
  | _ => 0

/-- Two placements overlap. -/
def placementsOverlap : List Placement → Bool
  | [] => false
  | a :: t => t.any (fun b => decide (a.addr < b.addr + b.size ∧ b.addr < a.addr + a.size)) || placementsOverlap t

/-- The kind and index pairs that the plan must hold (R563). -/
def State.planNeeds (s : State) (r : Routing) : List (Nat × Nat) :=
  (if s.io.hasHost then [(1, 0), (2, 0)] ++ ((List.range 4).filter s.io.regionActive).map (fun n => (0x0D, n)) else []) ++
  (if s.io.hasLamps then [(3, 0), (4, 0), (5, 0), (6, 0), (7, 0), (8, 0), (9, 0), (0x0A, 0), (0x0B, 0)] else []) ++
  r.inputs.flatMap (fun c => [(0x0A, c.port + 1), (0x0B, c.port + 1), (0x0C, c.port)]) ++
  (if (s.sect 0x000C).isSome then [(0x0E, 0)] else [])

/-- A placement that the part's role does not use (R563). -/
def Io.planForbids (s : Io) (p : Placement) : Bool :=
  (s.isSender && (within 3 9 p.kind || p.kind == 0x0F || ((p.kind == 0x0A || p.kind == 0x0B) && p.index == 0))) ||
  (s.isTile && [0x01, 0x02, 0x0C, 0x0D, 0x0E].contains p.kind)

/-- The bytes of a static entry's pixels lie inside the kind 0x000E placement (R563). -/
def State.staticPlaced (s : State) (ps : List Placement) : Bool :=
  (List.range (fieldAt (s.sectOr 0x000C) 0 4)).all (fun i =>
    let e := sub (s.sectOr 0x000C) (64 + 160 * i) 160
    ps.any (fun p => p.kind == 0x0E && decide (p.addr ≤ LayerRec.addr e 0 ∧ LayerRec.addr e 0 + fieldAt e 136 4 ≤ p.addr + p.size)))

/-- R563: section 0x0005 passes. -/
def State.planOk (s : State) (r : Routing) : Bool :=
  let sec := s.sectOr 0x0005
  let ps := placements sec
  let pixels := ((r.positions ++ r.own.toList).map (fun e => e.width * e.height)).foldl max 0
  within 1 512 (fieldAt sec 2 2) && allZero sec 4 12 && decide (fieldAt sec 0 1 < 4 ∧ fieldAt sec 1 1 < 4) &&
  ps.all (fun p => within 1 0x10 p.kind && decide (p.addr % 4096 = 0 ∧ p.size % 4096 = 0 ∧ smallestSize s.io.regions pixels p.kind ≤ p.size)
    && !s.io.beyond p.addr p.size && !s.io.planForbids p) &&
  distinct (ps.map (fun p => 65536 * p.kind + p.index)) && !placementsOverlap ps &&
  (s.planNeeds r).all (fun k => ps.any (fun p => p.kind == k.1 && p.index == k.2)) &&
  ((s.sect 0x000C).isNone || s.staticPlaced ps)

/-! ### The static layer set -/

/-- R54, R189: COUNT, and each entry's pixels, lie inside the section. -/
def State.staticOk (s : State) : Bool :=
  match s.sect 0x000C with
  | none => true
  | some sec =>
    within 1 64 (fieldAt sec 0 4) && (List.range (fieldAt sec 0 4)).all (fun i =>
      let o := 64 + 160 * i
      decide (fieldAt sec (o + 128) 8 + fieldAt sec (o + 136) 4 ≤ sec.length))

/-! ### Trust keys -/

/-- R54: the trust-key section's count and length. -/
def State.trustOk (s : State) : Bool :=
  match s.sect 0x0009 with
  | none => true
  | some sec => within 1 8 (fieldAt sec 0 4) && decide (sec.length = 4 + 544 * fieldAt sec 0 4)

/-! ### Driver profiles -/

/-- R363, R364, R367: profile `p` passes. -/
def State.profileOk (s : State) (p : Nat) : Bool :=
  let f := s.profileAt p
  let cmd := fun c => s.profileAt p (32 + 8 * c)
  let flags := f 6 1
  within 8 16 (f 0 1) && within 1 48 (f 1 1) && within 1 64 (f 2 1) && within 1 64 (f 3 1) && decide (f 2 1 % f 3 1 = 0) &&
  within 20 1000 (f 4 2) && decide (flags < 8) && decide (f 7 1 = 0) && within 1 1000000 (f 8 4) &&
  (if bit flags 1 then within 1000 20000000 (f 12 4) else decide (f 12 4 = 0)) &&
  allZero s.drvSec (0x40 + 128 * p + 22) 10 && allZero s.drvSec (0x40 + 128 * p + 96) 32 &&
  [0, 2, 4, 5].all (fun c => cmd c 1 != 0) && (!bit flags 2 || cmd 3 1 != 0) &&
  (List.range 8).all (fun c =>
    let e := 0x40 + 128 * p + 32 + 8 * c
    let le := fieldAt s.drvSec e 1
    let alone := bit (fieldAt s.drvSec (e + 1) 1) 0
    decide (le < 64 ∧ fieldAt s.drvSec (e + 1) 1 < 2) && allZero s.drvSec (e + 3) 5 &&
    (decide (c < 6) || allZero s.drvSec e 8) && (alone || decide (le ≤ f 0 1)) && (c != 2 || decide (fieldAt s.drvSec (e + 2) 1 < le)))

/-- The words of a port of group `g` (R367). -/
def State.portWords (s : State) (g : Nat) : Nat := s.groupNd g * s.channels (s.groupProfile g) * s.scanLines (s.groupProfile g)

/-- R362, R367: group `g` passes. -/
def State.groupOk (s : State) (g : Nat) : Bool :=
  decide (s.groupEntry g < 65536) &&
  (!s.groupUsed g || (decide (s.groupProfile g < fieldAt s.drvSec 0 1 ∧ s.portWords g ≤ 24576) && s.io.regionActive (g / 12)))

/-- The device ports of USED groups. -/
def State.usedPorts (s : State) : List Nat := ((List.range 48).filter s.groupUsed).flatMap s.groupPorts

/-- R365, R367: layout `l` passes, but for its map. -/
def State.layoutOk (s : State) (l : Nat) : Bool :=
  let o := 0x440 + 32 * l
  let f := fun a n => fieldAt s.drvSec (o + a) n
  within 1 4096 (f 0 2) && within 1 4096 (f 2 2) && within 1 16 (f 4 1) && allZero s.drvSec (o + 5) 3 && allZero s.drvSec (o + 16) 16 &&
  decide (f 8 4 % 4 = 0 ∧ f 12 4 = f 0 2 * f 2 2 * 12 ∧ f 8 4 + f 12 4 ≤ s.drvSec.length)

/-- R365, R367: the map of board `b`: every mapped lamp has a port and a word of that port's group, and no two lamps share one. -/
def State.boardMapOk (s : State) (b : Nat) : Bool :=
  let es := (List.range (3 * s.boardW b * s.boardH b)).map (fun i => fieldAt s.drvSec (s.layoutField b 8 4 + 4 * i) 4)
  let mapped := es.filter (fun e => !bit e 31)
  es.all (fun e => !bit e 31 || e == 2 ^ 31) &&
  mapped.all (fun e => decide (e < 2 ^ 19 ∧ bits e 0 4 < s.boardPorts b ∧ bits e 4 15 < s.portWords ((s.boardPort b + bits e 0 4) / 8))) &&
  distinct mapped

/-- The device ports of board `b`. -/
def State.portsOfBoard (s : State) (b : Nat) : List Nat := (List.range (s.boardPorts b)).map (s.boardPort b + ·)

/-- Two boards overlap (R367). -/
def State.boardsOverlap (s : State) (a b : Nat) : Bool :=
  decide (s.boardX a < s.boardX b + s.boardW b ∧ s.boardX b < s.boardX a + s.boardW a ∧ s.boardY a < s.boardY b + s.boardH b ∧ s.boardY b < s.boardY a + s.boardH a)

/-- R366, R367, R387: board `b` passes against the slices. -/
def State.boardEntryOk (s : State) (r : Routing) (b : Nat) : Bool :=
  decide (s.boardLayout b < fieldAt s.drvSec 1 1 ∧ s.boardBus b < 4 * s.io.regions ∧ s.boardSlotOf b < 4) &&
  allZero s.drvSec (0x540 + 16 * b + 3) 1 && allZero s.drvSec (0x540 + 16 * b + 10) 6 &&
  (r.ownSlices s.io.isTile).all (fun e => decide (s.boardX b + s.boardW b ≤ e.width ∧ s.boardY b + s.boardH b ≤ e.height)) &&
  (s.portsOfBoard b).all (fun p => decide (p < 96 * s.io.regions) && s.usedPorts.contains p) && s.boardMapOk b

/-- R362 to R367, R387: section 0x0008 passes. -/
def State.driversOk (s : State) (r : Routing) : Bool :=
  let pc := fieldAt s.drvSec 0 1
  let lc := fieldAt s.drvSec 1 1
  let bc := s.boardCount
  within 1 8 pc && decide (lc ≤ 8 ∧ bc ≤ 64) && allZero s.drvSec 3 61 &&
  allZero s.drvSec (0x40 + 128 * pc) (128 * (8 - pc)) && allZero s.drvSec (0x440 + 32 * lc) (32 * (8 - lc)) && allZero s.drvSec (0x540 + 16 * bc) (16 * (64 - bc)) &&
  (List.range pc).all s.profileOk && (List.range lc).all s.layoutOk && (List.range 48).all s.groupOk && (List.range bc).all (s.boardEntryOk r) &&
  (List.range bc).all (fun a => (List.range a).all (fun b => !s.boardsOverlap a b)) &&
  distinct ((List.range bc).flatMap s.portsOfBoard) && distinct ((List.range bc).map (fun b => 4 * s.boardBus b + s.boardSlotOf b))

/-! ### The Grey-pulse plan -/

/-- R407: section 0x0006 passes. -/
def State.greyOk (s : State) : Bool :=
  let sec := s.greySec
  decide (sec.length = 80 ∧ fieldAt sec 0 1 = fieldAt s.drvSec 0 1 ∧ fieldAt sec 1 1 < 4) && within 1 65535 (fieldAt sec 2 2) && allZero sec 4 12 &&
  (List.range 8).all (fun p =>
    let o := 0x10 + 8 * p
    allZero sec (o + 5) 3 &&
    (decide (fieldAt sec 0 1 ≤ p) || (decide (fieldAt sec o 4 ≠ 0) && within 2 4 (s.takeback p) && within 1 (min 4095 (2 ^ s.wordBits p - 1)) (s.greyCode p))))

/-! ### Audio -/

/-- A port entry of section 0x0007 (R421). -/
def State.audioEntryOk (s : State) (e : List Byte) : Bool :=
  let f := fun a n => fieldAt e a n
  let fl := f 2 1
  let fmt := bits fl 2 2
  let mask := f 8 4
  let count := ((List.range 32).filter (bit mask)).length
  let own := decide (f 0 1 = 0xFF)
  decide (f 1 1 < 16) && s.io.regionActive (f 1 1 / 4) && decide (fl < 16 ∧ fmt < 3) && within 2 32 (f 3 1) && (decide (fmt = 2) || decide (f 3 1 = 2)) &&
  [16, 24, 32].contains (f 4 1) && allZero e 6 2 && decide (mask < 2 ^ f 3 1) &&
  (if bit fl 1 then decide (f 12 4 = 0) else within 8000 384000 (f 12 4)) &&
  (if bit fl 0 then own && decide (f 5 1 = 0) && !s.io.isTile
   else if own then decide (f 5 1 + count ≤ s.chCount 16)
   else (List.range 16).all (fun t => s.plan.positions.all (fun p => p.cls != f 0 1 || p.chain != t || decide (f 5 1 + count ≤ s.chCount t))))

/-- R421: section 0x0007 passes. -/
def State.audioOk (s : State) : Bool :=
  let sec := s.aud
  let rs := readRsets s.clockSec
  decide (fieldAt sec 0 1 = rs.length) && allZero sec 2 2 && allZero sec 0x29 23 &&
  (List.range 17).all (fun t => decide (s.chCount t ≤ 32)) &&
  (List.range 8).all (fun k => if k < rs.length then within 1 16000 (s.sptOf k) else decide (s.sptOf k = 0)) &&
  (rs.zipIdx).all (fun x =>
    decide (8000000 ≤ s.sptOf x.2 * x.1.low ∧ s.sptOf x.2 * x.1.high ≤ 384000000) &&
    s.audioEntries.all (fun e => !bit (fieldAt e 2 1) 1 || decide (fieldAt e 3 1 * fieldAt e 4 1 * s.sptOf x.2 * x.1.high ≤ 49152000 * 1000))) &&
  s.audioEntries.all s.audioEntryOk && distinct (s.audioEntries.map (fun e => 256 * fieldAt e 0 1 + fieldAt e 1 1))

/-! ### The thermal section -/

/-- A parent chain that starts at node `i` does not loop (R463), over `k` steps. -/
def State.parentEnds (s : State) : Nat → Nat → Bool
  | 0, _ => false
  | k + 1, i => match (s.nodeParam i).parent with | none => true | some p => s.parentEnds k p

/-- R463: section 0x000A passes. -/
def State.thermalOk (s : State) : Bool :=
  let f := fun a n => fieldAt s.thm a n
  let lb := s.lbCount
  let n := 7 + lb
  let lo := signed 8 (f 0x0A 1)
  let raw := fun i a k => f (0x1E0 + 16 * i + a) k
  decide (lb ≤ 64 ∧ lb = (if s.io.hasLamps then s.boardCount else 0) ∧ f 1 1 < 4) && within 60 110 (f 2 1) && within 40 100 (f 3 1) && within 1 15 (f 4 1) &&
  within 25 100 (f 5 1) && within 1 100 (f 6 1) && within 25 120 (f 7 1) && within 3277 32768 (f 8 2) &&
  decide (-40 ≤ lo ∧ lo ≤ 60 ∧ lo + 10 ≤ signed 8 (f 0x0B 1) ∧ signed 8 (f 0x0B 1) ≤ 85) && within 40 100 (f 0x0C 1) &&
  decide (bits (f 0x0D 1) 0 4 ≤ 4 ∧ bits (f 0x0D 1) 4 4 ≤ 4) && within 1 65535 (f 0x0E 2) && within 100 10000 (f 0x12 2) &&
  (List.range 16).all (fun p => decide (s.pointKind p ≤ 3) && (decide (s.pointKind p = 0) || s.isF Fld.CTL_VARIANT_METER_FITTED) &&
    (decide (s.pointKind p ≠ 2) || decide (f (0x40 + 8 * p) 8 < 2 ^ lb))) &&
  allZero s.thm 0x26 26 && allZero s.thm 0xD8 8 &&
  (List.range n).all (fun i =>
    let kids := ((List.range n).filter (fun j => raw j 12 1 == i)).map (fun j => raw j 8 4)
    decide (0 < raw i 0 4 ∧ raw i 4 4 + raw i 8 4 + kids.foldl (· + ·) 0 < 10000 * raw i 0 4 ∧ (raw i 12 1 < n ∨ raw i 12 1 = 0xFF)) &&
    decide (raw i 13 1 ≤ (if i < 7 then 0 else 1)) && allZero s.thm (0x1E0 + 16 * i + 14) 2 && s.parentEnds (n + 1) i)

/-! ### The policy section -/

/-- R334: section 0x000F, where present, passes. -/
def State.policyOk (s : State) : Bool :=
  match s.sect 0x000F with
  | none => true
  | some sec =>
    let f := fun a n => fieldAt sec a n
    let c := fun i => f (8 + 2 * i) 2
    let d := fun (i : Nat) => (c i : Int)
    let iw := f 0x18 4
    decide (sec.length = 64 ∧ f 0 1 ≤ 1 ∧ f 1 1 < 4) && decide (f 0 1 = s.getF Fld.DEC_CFG_DOMAIN) && within 16 4096 (f 2 2) &&
    (decide (f 0 1 = 1) || within 1 10000 (f 4 4)) &&
    [0, 2, 4, 6].all (fun i => decide (c (i + 1) ≠ 0 ∧ c i + c (i + 1) ≤ 65536)) &&
    decide ((d 2 - d 0) * (d 5 - d 1) ≠ (d 4 - d 0) * (d 3 - d 1)) &&
    decide (iw < 2 ^ 31 ∧ iw ≠ 0 ∧ bits iw 23 8 < 255) && decide (16384 ≤ f 0x22 2) && within 1 1024 (f 0x24 2) && within 1 32768 (f 0x26 2) &&
    within 1 (f 0x26 2) (f 0x28 2) && decide (f 0x2A 2 ≤ 8192) && within 1 8192 (f 0x2C 2) && allZero sec 0x2E 2 && within 1 (2 ^ 20) (f 0x30 4) &&
    within 60 86400 (f 0x38 4) && allZero sec 0x3C 4

/-! ### All of them -/

/-- The first defect that step 8 of R49 finds, with the section type it concerns: R52, then the clock plan, then the tables in section
order (log 50). Missing sections and section 0x000D have been looked at before (R47, R53). -/
def State.tableDefect (s : State) (r : Routing) : Option (Nat × Nat) :=
  let checks : List (Nat × Bool) :=
    [(2, s.slotsOk r), (3, s.io.routingOk r), (4, s.budgetsOk r), (5, s.planOk r), (6, s.io.isSender || s.greyOk), (7, s.audioOk),
     (8, s.io.isSender || s.driversOk r), (9, s.trustOk), (0x0A, s.thermalOk), (0x0C, s.staticOk), (0x0F, s.policyOk)]
  if clockBad s.clockSec then some (0x0F, 2) else (checks.find? (fun c => !c.2)).map (fun c => (0x0E, c.1))

end Sys2Proof.Machine
end

