-- ==== Sys2Proof/Machine/Loading.lean ====
section
/-! DEFINITION. The load of the image (R49, R54, R63, R148, R161 to R163, R189, R470): DRAM training, the registers that firmware
writes from the sections, and the change from LOADING to TRAINING. -/

namespace Sys2Proof.Machine

/-! ### DRAM training -/

/-- The enabled channels as a mask. -/
def State.channelMask (s : State) : Nat := s.enabledChannels.foldl (fun m c => m + 2 ^ c) 0

/-- The data rate of DMC_CFG.RATE in MT/s (R165). -/
def rateMt (code : Nat) : Nat := nth [4267, 6400, 7500, 8533] code

/-- The key of an RTYPE 0x0001 record (R163): rate, cap code, stepping and channel mask. -/
def State.trainingKey (s : State) (cap : Nat) : List Byte :=
  leBytes 2 (rateMt (s.getF Fld.DMC_CFG_RATE)) ++ leBytes 1 cap ++ leBytes 1 (s.getF Fld.CTL_VARIANT_STEPPING) ++ leBytes 2 s.channelMask ++ zeros 10

/-- The RTYPE 0x0001 record (R163). -/
def State.trainingRecord (s : State) : List Byte :=
  (List.range 16).flatMap (fun c => if s.enabledChannels.contains c then sub (s.chan c).settings 0 256 else zeros 256)
    ++ s.trainingKey (s.getF Fld.DMC_DENSITY_CAP)

/-- The last enabled channel has been trained (R148, R161): the capacity in use; event 136 where densities differ; and, after any
full training, a new record. -/
def State.channelsTrained (s : State) : State :=
  let chs := s.enabledChannels
  let ds := chs.map (fun c => (s.chan c).density)
  let cap := ds.foldl min 3
  let s := s.setF Fld.DMC_DENSITY_CAP cap
  let s := match chs.find? (fun c => decide (cap < (s.chan c).density)) with
    | some c => s.on (·.fireIn 136 (c / 4))
    | none => s
  if chs.any (fun c => s.trainResult c == 2) then s.queueRecord 1 s.trainingRecord else s

/-- R161, R162: the training of a channel ends. `density` is the code that MR8 gives it, `cap` the least that MR8 gives on any enabled
channel, `verified` and `trained` whether verification of stored settings and full training would pass, `settings` its delay and
reference settings, and `mr4` the multiplier that MR4 gives, in quarters. -/
def State.channelTrained (s : State) (ch density cap margin mr4 : Nat) (verified trained : Bool) (settings : List Byte) : State :=
  if s.boot.held || decide (s.io.boot ≠ stLOADING) || (s.sect 5).isNone || !s.enabledChannels.contains ch || decide (s.trainResult ch ≠ 0) then s
  else
    let plan := s.sectOr 5
    let s := (s.setF Fld.DMC_CFG_RATE (fieldAt plan 0 1)).setF Fld.DMC_CFG_GRAIN (fieldAt plan 1 1)
    let (n, i) := (ch / 4, ch % 4)
    let usable := match s.record 1 with | some r => r.drop 4096 == s.trainingKey cap | none => false
    let known := decide (density < 3)
    let byRecord := usable && verified && known
    let s := if !byRecord && (s.record 1).isSome then s.on (·.fireIn 135 n) else s
    if !byRecord && !(trained && known) then
      let s := (s.setF (Fld.DMC_CH_TRAIN_RESULT n i) 3).setF (Fld.DMC_CH_STAT_STATE n i) 2
      (s.on (·.fireIn 134 n)).enterUmber 5
    else
      let s := (s.setF (Fld.DMC_CH_TRAIN_RESULT n i) (if byRecord then 1 else 2)).setF (Fld.DMC_CH_STAT_STATE n i) 1
      let s := (s.setF (Fld.DMC_CH_TRAIN_MARGIN n i) (min 255 margin)).setF (Fld.DMC_CH_STAT_DENSITY n i) density
      let kept := match s.record 1 with | some r => sub r (256 * ch) 256 | none => []
      let s := s.setChan ch { s.chan ch with intervalEnd := s.io.now + trefi false, density := density,
                                             settings := if byRecord then kept else sub settings 0 256 }
      let s := s.mr4Poll ch mr4 s.io.now
      if s.enabledChannels.all (fun c => s.trainResult c != 0) then s.channelsTrained else s

def execDramTrainingDone (channel density cap margin mr4 : Nat) (verified trained : Bool) (settings : List Byte) (s : State) : Result :=
  .next (s.channelTrained channel density cap margin mr4 verified trained settings)

/-- The outcome of a channel's verification and training as its region returns (R161, R162): 1 verified, 2 trained, 3 failed. Event 135
fires where a record's settings failed. -/
def State.returnChannel (s : State) (n i result : Nat) : State :=
  let s := s.setF (Fld.DMC_CH_TRAIN_RESULT n i) result
  let s := if result ≠ 1 && (s.record 1).isSome then s.on (·.fireIn 135 n) else s
  if result = 3 then (s.setF (Fld.DMC_CH_STAT_STATE n i) 2).on (·.fireIn 134 n) else s.setF (Fld.DMC_CH_STAT_STATE n i) 1

/-- R527, R161, R162: firmware has reinitialised a fenced region. `retrained`: the blocks of its channels whose verification failed and
that trained, with their new settings; `failed`: those that failed full training too. -/
def execRegionReturn (region : Nat) (retrained : List (Nat × List Byte)) (s : State) (failed : List Nat := []) : Result :=
  .next (
    if !s.video.fenced.contains region || bit (s.getF Fld.CTL_ERR_STAT_FENCE_HELD) region then s
    else
      let enabled := (List.range 4).filter (fun i => s.getF (Fld.DMC_CH_STAT_STATE region i) ≠ 0)
      let new := retrained.filter (fun r => enabled.contains r.1 && !failed.contains r.1)
      let s := enabled.foldl (fun s i => s.returnChannel region i (if failed.contains i then 3 else if new.any (·.1 == i) then 2 else 1)) s
      let s := new.foldl (fun s r => s.setChan (4 * region + r.1) { s.chan (4 * region + r.1) with settings := sub r.2 0 256 }) s
      let s := if new.isEmpty then s else s.queueRecord 1 s.trainingRecord
      if !enabled.any failed.contains then s.onVideo (fun v => { v with returning := if v.returning.contains region then v.returning else v.returning ++ [region] })
      else s.setF Fld.CTL_ERR_STAT_FENCE_HELD (putBits (s.getF Fld.CTL_ERR_STAT_FENCE_HELD) region 1 1))

/-! ### The registers that firmware writes (R49 step 7) -/

/-- The address that the DRAM plan gives a buffer (R563). -/
def State.placed (s : State) (kind index : Nat) : Nat :=
  match (placements (s.sectOr 5)).find? (fun p => p.kind == kind && p.index == index) with
  | some p => p.addr
  | none => 0

/-- The DRAM plan's registers, the bases in units of 4 KiB (R112, R369, R357, R563). -/
def State.loadPlan (s : State) : State :=
  let plan := s.sectOr 5
  let s := (s.setF Fld.DMC_CFG_RATE (fieldAt plan 0 1)).setF Fld.DMC_CFG_GRAIN (fieldAt plan 1 1)
  let s := if s.io.hasHost then
      s.on (fun io => (io.setWide Fld.HRG_RING0_SQ_LO Fld.HRG_RING0_SQ_HI (s.placed 1 0)).setWide Fld.HRG_RING0_CQ_LO Fld.HRG_RING0_CQ_HI (s.placed 2 0))
    else s
  if s.io.hasLamps then
    let at4k := fun kind => s.placed kind 0 / 4096
    let s := (s.setF Fld.SCN_PIPE_BASE0 (at4k 3)).setF Fld.SCN_PIPE_BASE1 (at4k 4)
    let s := (s.setF Fld.LMP_BASE_RECA (at4k 5)).setF Fld.LMP_BASE_RECB (at4k 6)
    ((s.setF Fld.LMP_BASE_GAIN (at4k 7)).setF Fld.LMP_BASE_DITHER (at4k 8)).setF Fld.LMP_BASE_WEAR (at4k 9)
  else s

/-- The clock plan and slot tables (R66, R67), with the nominal rate of rate set 0 (R69). -/
def State.loadClock (s : State) : State :=
  let s := { s with plan := { s.plan with rsets := readRsets s.clockSec } }
  let s := s.setF Fld.TCK_MARKER_LEAD (fieldAt s.clockSec 4 4)
  let s := s.setF Fld.THM_CCLK_MIN s.minCclk
  (s.setRateSet 0).setF Fld.TCK_PERIOD (periodOf (s.rset 0).nom)

/-- R20: the routing section assigns each chain port of a Sender or Combined part as an output or an input. -/
def State.assignPorts (s : State) (r : Routing) : State :=
  (List.range 16).foldl (fun (s : State) p =>
    if r.inputs.any (fun c => c.port == p) then s.setF (Fld.LNK_PORT_CFG_DIR (p / 4) (p % 4)) 1
    else if r.outputs.contains p then s.setF (Fld.LNK_PORT_CFG_DIR (p / 4) (p % 4)) 0 else s) s

/-- The routing section: the routes, the assignment of the chain ports, the position table, the rasters and the coding domains (R168, R218, R248). -/
def State.loadRouting (s : State) (r : Routing) : State :=
  let s := { s with plan := { s.plan with routes := r.routes, positions := r.positions, own := r.own } }
  let s := s.onLay (fun l => { l with rasters := r.rasters, inputs := r.inputs, cascades := r.inputs.map (fun c => { port := c.port }) })
  let s := s.setF Fld.DEC_CFG_DOMAIN (flag r.gamma)
  if !s.io.hasHost then s
  else
    let s := (s.setF Fld.CMP_COLOUR_DOMAIN (flag r.gamma)).setF Fld.DEC_CASCADE_DOMAIN_PORT (r.gammaInputs.foldl (fun m p => putBits m p 1 1) 0)
    (List.range 4).foldl (fun (s : State) n =>
      let (w, h) := r.rasters.getD n (0, 0)
      (s.setF (Fld.CMP_RASTER_WIDTH n) w).setF (Fld.CMP_RASTER_HEIGHT n) h) (s.assignPorts r)

/-- The driver profiles and groups (R367). -/
def State.loadDrivers (s : State) : State :=
  let s := (List.range 8).foldl (fun (s : State) p =>
    let f := s.profileAt p
    let fl := f 6 1
    s.on (fun io =>
      let io := ((io.setF (Fld.DRV_PROF_A_WORD_BITS p) (f 0 1)).setF (Fld.DRV_PROF_A_CHANNELS p) (f 1 1)).setF (Fld.DRV_PROF_A_SCAN p) (f 2 1)
      let io := ((io.setF (Fld.DRV_PROF_A_MSB_FIRST p) fl).setF (Fld.DRV_PROF_A_SELF_REFRESH p) (fl / 2)).setF (Fld.DRV_PROF_A_STATUS_EN p) (fl / 4)
      (io.setF (Fld.DRV_PROF_A_DIV p) (f 4 2)).setF (Fld.DRV_PROF_B_GROUP_LINES p) (f 3 1))) s
  (List.range 48).foldl (fun (s : State) g =>
    let (n, l) := (g / 12, g % 12)
    s.on (fun io =>
      let io := ((io.setF (Fld.DRV_GROUP_CFG_PROFILE n l) (s.groupProfile g)).setF (Fld.DRV_GROUP_CFG_USED n l) (flag (s.groupUsed g)))
      (io.setF (Fld.DRV_GROUP_CFG_NDM1 n l) (s.groupNd g - 1)).setF (Fld.DRV_GROUP_CFG_PORT_MASK n l) (s.groupEntry g / 256))) s

/-- The thermal section (R478). -/
def State.loadThermal (s : State) : State :=
  let f := fun a n => fieldAt s.thm a n
  s.on (fun io =>
    let io := (io.setF Fld.THM_CFG_THR_SCOPE (f 1 1)).setF Fld.THM_CFG_AUTO_RESTART (f 1 1 / 2)
    let io := ((io.setF Fld.THM_THR_DIE_THR (f 2 1)).setF Fld.THM_THR_BOARD_THR (f 3 1)).setF Fld.THM_THR_HYST (f 4 1)
    let io := (io.setF Fld.THM_THR_LAMP_MAX (f 7 1)).setF Fld.THM_KNEE_KNEE (f 5 1)
    let io := (io.setF Fld.THM_KNEE_SLOPE (f 6 1)).setF Fld.THM_KNEE_FLOOR (f 8 2)
    ((io.setF Fld.THM_WINDOW_WIN_LO (f 0x0A 1)).setF Fld.THM_WINDOW_WIN_HI (f 0x0B 1)).setF Fld.THM_WINDOW_RESTART_T (f 0x0C 1))

/-- The policy section and the Grey-pulse plan, in a part that lights lamps (R334, R407, R413). -/
def State.loadLamps (s : State) : State :=
  if !s.io.hasLamps then s
  else
    let f := fun a n => fieldAt s.policy a n
    let g := fun a n => fieldAt s.greySec a n
    s.on (fun io =>
      let io := if s.policy.isEmpty then io
        else
          let io := ((io.setF Fld.LMP_CFG_SCOPE (f 1 1)).setF Fld.LMP_CFG_RAISE (f 1 1 / 2)).setF Fld.LMP_CFG_RAMP_FRAMES (f 2 2)
          let io := (io.setF Fld.LMP_GAIN_CFG_GMAX (f 0x22 2)).setF Fld.LMP_GAIN_CFG_GSTEP (f 0x24 2)
          let io := ((io.setF Fld.LMP_CEIL_LIMITS_INIT (f 0x26 2)).setF Fld.LMP_CEIL_LIMITS_MIN (f 0x28 2)).setF Fld.LMP_CEIL_CFG_MARGIN (f 0x2A 2)
          ((io.setF Fld.LMP_CEIL_CFG_HYST (f 0x2C 2)).setF Fld.LMP_CEIL_STEP_TICKS (f 0x30 4)).setF Fld.LBD_WEAR_STORE_SECONDS (f 0x38 4)
      ((io.setF Fld.LBD_CFG_GREY_EN (g 1 1)).setF Fld.LBD_CFG_DIAG_BLACK (g 1 1 / 2)).setF Fld.LBD_CFG_GREY_AFTER (g 2 2))

/-- The audio section (R421): AUDIO_LEAD, and the port blocks of a Sender or Combined part. -/
def State.loadAudioSection (s : State) : State :=
  let s := s.setF Fld.AUD_LEAD (fieldAt s.aud 4 4)
  if s.io.isTile then s else s.loadAudio 0xFF

/-- The static layer set: its count, and its pixels in device DRAM (R189). -/
def State.loadStatic (s : State) : State :=
  if !s.io.hasHost then s
  else
    let n := match s.sect 0x000C with | some b => min 64 (fieldAt b 0 4) | none => 0
    ((s.setF Fld.CMP_STATIC_COUNT n).setF Fld.CMP_STATIC_HOSTLESS (flag (bit (fieldAt s.boot.header 0x0E 2) 1))).copyStatic

/-- Every register and table that firmware sets from a section. -/
def State.loadSections (s : State) (r : Routing) : State :=
  ((s.loadPlan.loadClock.loadRouting r).loadDrivers.loadThermal).loadLamps.loadAudioSection.loadStatic

/-! ### The static layer set as a commit -/

/-- R189: the entries with INITIAL = 1 compiled as one commit: none where it is rejected. -/
def State.initialCommit (s : State) : Option (List LayerRec) :=
  let rs := s.initialRecords
  if rs.isEmpty then some []
  else if (s.recordFault [] rs).isSome || (s.planFault (s.applyRecords [] rs) rs).isSome then none
  else some rs

/-! ### The end of LOADING -/

/-- The image registers take the header (R61). -/
def State.reportImage (s : State) : State := s.showImage s.boot.header (sha512 s.boot.header)

/-- A range of device DRAM cleared to 0, which is what an unlisted byte reads as (log 3). -/
def State.clearDram (s : State) (a n : Nat) : State :=
  s.on (fun io => { io with dram := io.dram.filter (fun c => decide (c.1 < a ∨ a + n ≤ c.1)) })

/-- Firmware clears both pipeline buffers (R369). -/
def State.clearPipes (s : State) : State :=
  if !s.io.hasLamps then s
  else
    let n := 96 * s.io.regions * 0xC000
    (s.clearDram (s.getF Fld.SCN_PIPE_BASE0 * 4096) n).clearDram (s.getF Fld.SCN_PIPE_BASE1 * 4096) n

/-- R341: every dither word of this part's slice takes its seed. -/
def State.seedSlice (s : State) : State :=
  match s.slice with
  | none => s
  | some e =>
    if !s.io.hasLamps then s
    else (List.range (e.width * e.height)).foldl (fun (s : State) i =>
      s.on (·.writeDram (s.getF Fld.LMP_BASE_DITHER * 4096 + 12 * i)
        ((List.range 3).flatMap (fun c => leBytes 4 (ditherSeed (i % e.width) (i / e.width) c))))) s

/-- R469, R470: the stages, th and th_wall at start, from the RTYPE 0x0004 record. -/
def State.restoreLimits (s : State) : State :=
  match s.record 4 with
  | none => s.writeLimits
  | some b =>
    let s := s.setF Fld.THM_TH_LOCAL (fieldAt b 16 2)
    let s := (List.range (min 64 (fieldAt b 20 1))).foldl (fun (s : State) i => s.setF (Fld.THM_LAMP_S i) (fieldAt b (24 + 2 * i) 2)) s
    (if s.io.hasHost then s.onTherm (fun t => { t with thWall := fieldAt b 18 2 }) else s).writeLimits

/-- The tick starts in FREE (R69): a part with a host port raises its first tick one nominal period from now; a tile raises none
before its first marker (R82). -/
def State.startTick (s : State) : State :=
  if s.io.isTile then s else { s with tick := { s.tick with last := s.io.now, next := some (s.io.now + s.period) } }

/-- What follows a load without a defect: the tables are in force, the RWL registers lock, and the device enters TRAINING (R49, R480). -/
def State.loaded (s : State) (initial : List LayerRec) : State :=
  let s := s.reportImage.clearPipes.seedSlice
  let s := if s.isF Fld.CMP_STATIC_HOSTLESS ∧ !initial.isEmpty then
      s.onLay (fun l => { l with compiled := l.compiled ++ [({ ring := none, records := initial, tick := 0 } : Compiled)] })
    else s
  let s := s.startTemps.publishTemps.restoreLimits
  let s := s.restoreCeiling.restoreLanes
  let s := s.onBoot (fun b => { b with locked := true, autoRestart := s.isF Fld.THM_CFG_AUTO_RESTART })
  let s := if s.paired then s.setF Fld.PAIR_STATE_STATE pJOINING else s
  let s := s.enter stTRAINING
  let s := s.startTick.updateWindow
  let s := s.enabledPorts.foldl (fun (s : State) p => s.startAttempts p 1) s
  let s := if s.paired then s.startAttempts pairPort 1 else s
  s.leaveTraining

/-- Step 8 of R49 and what follows it. -/
def State.checkTables (s : State) (r : Routing) : State :=
  match s.tableDefect r with
  | some (code, t) => s.imageDefect code (dirIndex s.boot.dir t)
  | none => match s.initialCommit with
    | none => s.imageDefect 0x0E (dirIndex s.boot.dir 0x0C)
    | some rs => s.loaded rs

/-- R49 from the last section on: missing sections (R47), R52, section 0x000D (R53), the registers from the sections, and the
checks. -/
def State.finishLoading (s : State) : State :=
  if s.requiredSections.any (fun t => (dirIndex s.boot.dir t).isNone) then s.imageDefect 0x0A none
  else if !s.dramUp then s
  else match s.targetDefect (fieldAt s.boot.header 0x0C 1) (fieldAt s.boot.header 0x0D 1) with
    | some d => s.imageDefect d none
    | none =>
      if s.pairsBad then s.imageDefect 0x10 (dirIndex s.boot.dir 0x0D)
      else
        let r := Config.routing (s.sectOr 3)
        let s := s.registerPairs.foldl (fun (s : State) p => (s.pathWrite .firmware p.1 p.2).1) s
        (s.loadSections r).checkTables r

def execLoadingComplete (s : State) : Result :=
  .next (if s.boot.held || decide (s.io.boot ≠ stLOADING) || s.nextSection.isSome then s else s.finishLoading)

end Sys2Proof.Machine
end

