-- ==== Sys2Proof/Machine/Start.lean ====
section
/-! DEFINITION. Commands that reach across the device: the numbered tick and the entry to OPERATIONAL (R69, R480, R518), enumeration
(R23, R56, R482), delay assignments (R85) and transmit windows (R284). -/

namespace Sys2Proof.Machine

/-! ### JOINING -/

/-- The position-table entry of a tile's own address (R56). -/
def State.ownPosition (s : State) : Option Position :=
  if s.isF Fld.CTL_TILE_ADDR_VALID then s.positionOf (s.getF Fld.CTL_TILE_ADDR_CHAIN) (s.getF Fld.CTL_TILE_ADDR_POSITION) else none

/-- R482: a tile's watchdog stops once it holds an address, a position-table entry and an applied delay. -/
def State.tileReady (s : State) : State :=
  if s.io.isTile && s.ownPosition.isSome && (s.isF Fld.TCK_DELAY_A_VALID || s.isF Fld.TCK_DELAY_B_VALID) then s.stopWatchdog else s

/-- R23: an ENUM word is sent on an output chain at instant `t` (1/64 ns). -/
def execEnumSend (port t : Nat) (s : State) : Result := .next (s.enumSend port t)

/-- R23, R56, R341, R421: an ENUM word arrives. A tile that takes its address from it has its slice, its audio ports and its dither
words from then on. -/
def execEnumReceived (port payload : Nat) (s : State) : Result :=
  .next (
    let was := s.isF Fld.CTL_TILE_ADDR_VALID
    let s := s.enumReceived port payload
    if was || !s.isF Fld.CTL_TILE_ADDR_VALID then s else ((s.loadAudio s.audioClass).seedSlice).tileReady)

/-- R85: a DELAY_ASSIGN packet arrives. -/
def execDelayAssignReceived (port : Nat) (packet : List Byte) (s : State) : Result :=
  .next (if port = pairPort then s.takePairDelay packet else match s.kept port 0x05 packet with
    | (s, some pl) => (s.takeDelays pl).tileReady
    | (s, none) => s)

/-- R284: a transmit window; a STAGE entry whose packets have all been sent completes (R493). -/
def execTransmitWindow (region slot aligns : Nat) (s : State) : Result := .next (s.transmitWindow region slot aligns).stageProgress

/-! ### OPERATIONAL -/

/-- R85: the tile holds a valid delay for the end that it receives from. -/
def State.delayHeld (s : State) : Bool := if s.isF Fld.TCK_STATE_END then s.isF Fld.TCK_DELAY_B_VALID else s.isF Fld.TCK_DELAY_A_VALID

/-- R480: whether the tick that has just been raised brings the device from JOINING to OPERATIONAL: a tile admitted for it; a part that
drives its chains forward once an ENUM word has left every UP output port; a standby once HELLO has been exchanged, or after the
2 s of R324 without a partner. -/
def State.admitted (s : State) : Bool :=
  if s.io.boot ≠ stJOINING then false
  else if s.io.isTile then (match s.boot.admitAt with | some a => decide (a ≤ s.io.tick) | none => false) && s.ownPosition.isSome && s.delayHeld
  else if s.paired && decide (pJOINING ≤ s.pair) then s.pairUnit.partner.isSome || bit (s.getF Fld.CTL_ALERT_CAUSES) 3
  else (s.outputs.filter s.portUp).all s.link.enumSent.contains

/-- R264, R483: a tile posts its reset key request as it enters OPERATIONAL. -/
def State.postReset (s : State) : State :=
  match s.io.isTile, s.slice with
  | true, some e =>
    let k : KeyCause := { first := 0, last := e.rows - 1, tick := s.io.tick, slate := false, discard := false, reset := true }
    s.postKeys 0 e s.io.tick (match (s.decoder 0).cause with | some c => k.join c | none => k)
  | _, _ => s

/-- R112, R480, R482, R496, R477, R531: the device enters OPERATIONAL: the events that waited for it fire, ring 0 exists, the alerts of a
restart are released, the watchdog stops, and CTL_BOOT_TIME reports. -/
def State.goOperational (s : State) : State :=
  let s := s.enter stOPERATIONAL
  let owed := s.boot.owed
  let hot := s.boot.thermalRestart
  let s := owed.foldl (fun (s : State) e => s.fire e) s
  let s := if hot then s.fire 491 else s
  let s := s.onBoot (fun b => { b with owed := [], thermalRestart := false, admitAt := none })
  let s := (((s.on (·.createRing0)).alert 4 false).alert 5 false).alert 6 false
  let s := s.stopWatchdog.setF Fld.CTL_BOOT_TIME (min (2 ^ 20 - 1) ((s.io.now - s.boot.powerAt) / 64000000))
  s.startCeiling.postReset

/-- What happens at a numbered tick before the device's blocks act on it: the tick engine, the entry to OPERATIONAL, a snapshot of the
counters, the return of restarted blocks and the pair. -/
def State.tickFirst (s : State) : State :=
  let s := s.raiseTick
  let s := if s.admitted then s.goOperational else s
  let s := if s.isF Fld.CTL_CNT_GLOBAL_SNAP_AT_TICK then s.snapshot else s
  s.errorTick.pairTick

/-- The video path, the keys and the coders at a numbered tick. -/
def State.tickVideo (s : State) : State := s.layersTick.captureTick.keysTick.encodeTick.decodeTick.holdTick

/-- A restart of the wall or of this device that is due (R485, R498). -/
def State.tickRestart (s : State) (umberLow : Bool) : State := s.wallRestartTick.restartTick umberLow

/-- The lamps, the drivers, the power manager and audio at a numbered tick. -/
def State.tickLast (s : State) (jumped : Bool) : State :=
  (s.lampTick.driverTick.cclkTick.throttleTick.audioTick jumped).advance

/-- R69: a numbered tick is raised at the instant that the tick engine has fixed. A restart that falls due at the tick ends everything
else. -/
def State.numberedTick (s : State) (umberLow : Bool) : State :=
  let jumped := s.tick.inGap
  let s := s.tickFirst.tickVideo.tickRestart umberLow
  if s.running && !s.boot.held then s.tickLast jumped else s

def execTick (umberLow : Bool) (s : State) : Result :=
  .next (if s.tickReady && s.boot.pwrgood && decide (s.boot.power < 2) && !s.boot.held && decide (stTRAINING ≤ s.io.boot ∧ s.io.boot ≤ stOPERATIONAL)
    then s.numberedTick umberLow else s)

end Sys2Proof.Machine
end

