-- ==== Sys2Proof/Machine/Dispatch.lean ====
section
/-! DEFINITION. The meaning of every command, arm by arm. -/

namespace Sys2Proof.Machine

def exec (i : Instr) (s : State) : Host.Outcome State Fault Refusal :=
  match i with
  | .powerOn umberLow diode0 diode1 t programmed => Sys2Proof.Machine.execPowerOn umberLow diode0 diode1 t s programmed
  | .deviceReset umberLow diode0 diode1 t programmed => Sys2Proof.Machine.execDeviceReset umberLow diode0 diode1 t s programmed
  | .railUndervoltage => Sys2Proof.Machine.execRailUndervoltage s
  | .imageSectionReadDone index got => Sys2Proof.Machine.execImageSectionReadDone index got s
  | .nvmReadTimeout sec => Sys2Proof.Machine.execNvmReadTimeout sec s
  | .dramTrainingDone channel density cap margin mr4 verified trained settings => Sys2Proof.Machine.execDramTrainingDone channel density cap margin mr4 verified trained settings s
  | .loadingComplete => Sys2Proof.Machine.execLoadingComplete s
  | .bootWatchdogExpiry => Sys2Proof.Machine.execBootWatchdogExpiry s
  | .registerWrite path off value size enables => Sys2Proof.Machine.execRegisterWrite path off value size enables s
  | .lowHalfRead path off size enables => Sys2Proof.Machine.execLowHalfRead path off size enables s
  | .referenceEdge t => Sys2Proof.Machine.execReferenceEdge t s
  | .edgeMissing => Sys2Proof.Machine.execEdgeMissing s
  | .tick umberLow => Sys2Proof.Machine.execTick umberLow s
  | .repeatBoundary => Sys2Proof.Machine.execRepeatBoundary s
  | .tickMarkerSend port offset => Sys2Proof.Machine.execTickMarkerSend port offset s
  | .tickMarkerReceived port payload t => Sys2Proof.Machine.execTickMarkerReceived port payload t s
  | .markerMissing port => Sys2Proof.Machine.execMarkerMissing port s
  | .enumSend port t => Sys2Proof.Machine.execEnumSend port t s
  | .enumReceived port payload => Sys2Proof.Machine.execEnumReceived port payload s
  | .delayProbe port position t1 => Sys2Proof.Machine.execDelayProbe port position t1 s
  | .probeReceived port payload t2 t3 => Sys2Proof.Machine.execProbeReceived port payload t2 t3 s
  | .probeEchoReceived port cell t4 => Sys2Proof.Machine.execProbeEchoReceived port cell t4 s
  | .delayAssignReceived port packet => Sys2Proof.Machine.execDelayAssignReceived port packet s
  | .fetchComposeSlot region slot late mem inFlight => Sys2Proof.Machine.execFetchComposeSlot region slot late mem inFlight s
  | .handoffRowFree region => Sys2Proof.Machine.execHandoffRowFree region s
  | .encodeSlot region slot late => Sys2Proof.Machine.execEncodeSlot region slot late s
  | .transmitWindow region slot aligns => Sys2Proof.Machine.execTransmitWindow region slot aligns s
  | .elasticSlotComplete region slot fin => Sys2Proof.Machine.execElasticSlotComplete region slot fin s
  | .segmentReceived port packet aborted => Sys2Proof.Machine.execSegmentReceived port packet aborted s
  | .reservedPacket port packet => Sys2Proof.Machine.execReservedPacket port packet s
  | .decodeSlot region slot => Sys2Proof.Machine.execDecodeSlot region slot s
  | .cascadedInputDecode region slot => Sys2Proof.Machine.execCascadedInputDecode region slot s
  | .cascadeFrameComplete port t => Sys2Proof.Machine.execCascadeFrameComplete port t s
  | .rowCutoff region slot row late => Sys2Proof.Machine.execRowCutoff region slot row late s
  | .lampPipelineSlot region slot late => Sys2Proof.Machine.execLampPipelineSlot region slot late s
  | .wearSampleSlot region slot late => Sys2Proof.Machine.execWearSampleSlot region slot late s
  | .driverLoadSlot region slot late input => Sys2Proof.Machine.execDriverLoadSlot region slot late input s
  | .broadcastSync => Sys2Proof.Machine.execBroadcastSync s
  | .teEdge region rising => Sys2Proof.Machine.execTeEdge region rising s
  | .teTimeout group => Sys2Proof.Machine.execTeTimeout group s
  | .greyPulseWindow region slot => Sys2Proof.Machine.execGreyPulseWindow region slot s
  | .audioWindow region slot target aligns mem inFlight => Sys2Proof.Machine.execAudioWindow region slot target aligns mem inFlight s
  | .hostCaptureWrite region slot mem => Sys2Proof.Machine.execHostCaptureWrite region slot mem s
  | .compileDeadline => Sys2Proof.Machine.execCompileDeadline s
  | .fenceWordRead key => Sys2Proof.Machine.execFenceWordRead key s
  | .fenceReadComplete key result => Sys2Proof.Machine.execFenceReadComplete key result s
  | .releaseDue ring index => Sys2Proof.Machine.execReleaseDue ring index s
  | .pcieLinkUp speed width => Sys2Proof.Machine.execPcieLinkUp speed width s
  | .pcieLinkDown => Sys2Proof.Machine.execPcieLinkDown s
  | .hotReset => Sys2Proof.Machine.execHotReset s
  | .functionLevelReset => Sys2Proof.Machine.execFunctionLevelReset s
  | .d3hotEntry => Sys2Proof.Machine.execD3hotEntry s
  | .d3hotToD0 => Sys2Proof.Machine.execD3hotToD0 s
  | .bar2Access write addr len bytes bad => Sys2Proof.Machine.execBar2Access write addr len bytes bad s
  | .completionTimeout what => Sys2Proof.Machine.execCompletionTimeout what s
  | .unexpectedCompletion => Sys2Proof.Machine.execUnexpectedCompletion s
  | .doorbellWrite offset size value read => Sys2Proof.Machine.execDoorbellWrite offset size value s read
  | .msixUnmask vector => Sys2Proof.Machine.execMsixUnmask vector s
  | .ringFetch count => Sys2Proof.Machine.execRingFetch count s
  | .sqReadComplete ring first result => Sys2Proof.Machine.execSqReadComplete ring first result s
  | .nop ring index => Sys2Proof.Machine.execNop ring index s
  | .reservedOpcode ring index => Sys2Proof.Machine.execReservedOpcode ring index s
  | .ringCreate ring index => Sys2Proof.Machine.execRingCreate ring index s
  | .ringDestroy ring index => Sys2Proof.Machine.execRingDestroy ring index s
  | .ringReset ring index => Sys2Proof.Machine.execRingReset ring index s
  | .vectorMap ring index => Sys2Proof.Machine.execVectorMap ring index s
  | .xltSet ring index => Sys2Proof.Machine.execXltSet ring index s
  | .xltDisable ring index => Sys2Proof.Machine.execXltDisable ring index s
  | .xltInvalidateAll ring index => Sys2Proof.Machine.execXltInvalidateAll ring index s
  | .xltInvalidateRange ring index => Sys2Proof.Machine.execXltInvalidateRange ring index s
  | .invalidationDrained ring index => Sys2Proof.Machine.execInvalidationDrained ring index s
  | .translationWalkDone ctx page reads => Sys2Proof.Machine.execTranslationWalkDone ctx page reads s
  | .operationComplete region cls host write shared => Sys2Proof.Machine.execOperationComplete region cls host write shared s
  | .dmaCopy ring index => Sys2Proof.Machine.execDmaCopy ring index s
  | .dmaCopyDone ring index mem inFlight => Sys2Proof.Machine.execDmaCopyDone ring index mem inFlight s
  | .dramGrant channel arrivals ns => Sys2Proof.Machine.execDramGrant channel arrivals ns s
  | .dramWriteAccept channel cls kind addr len => Sys2Proof.Machine.execDramWriteAccept channel cls kind addr len s
  | .dramReadComplete channel cls addr ecc => Sys2Proof.Machine.execDramReadComplete channel cls addr ecc s
  | .portPanicEnter channel kind fill full => Sys2Proof.Machine.execPortPanicEnter channel kind fill full s
  | .portPanicExit channel kind fill full => Sys2Proof.Machine.execPortPanicExit channel kind fill full s
  | .panicWindowEnd channel => Sys2Proof.Machine.execPanicWindowEnd channel s
  | .requestAged channel cls addr => Sys2Proof.Machine.execRequestAged channel cls addr s
  | .refreshIntervalEnd channel => Sys2Proof.Machine.execRefreshIntervalEnd channel s
  | .mr4Poll channel quarters t => Sys2Proof.Machine.execMr4Poll channel quarters s t
  | .patternRunStart channel pattern write length path => Sys2Proof.Machine.execPatternRunStart channel pattern write length path s
  | .patternRunDone channel dqErr bursts => Sys2Proof.Machine.execPatternRunDone channel dqErr bursts s
  | .commit ring index => Sys2Proof.Machine.execCommit ring index s
  | .commitDescriptorReadDone ring index result => Sys2Proof.Machine.execCommitDescriptorReadDone ring index result s
  | .fenceSignal ring index => Sys2Proof.Machine.execFenceSignal ring index s
  | .captureBuffer ring index => Sys2Proof.Machine.execCaptureBuffer ring index s
  | .play ring index => Sys2Proof.Machine.execPlay ring index s
  | .audioCapture ring index => Sys2Proof.Machine.execAudioCapture ring index s
  | .mask ring index => Sys2Proof.Machine.execMask ring index s
  | .audioStart ring index => Sys2Proof.Machine.execAudioStart ring index s
  | .audioStop ring index => Sys2Proof.Machine.execAudioStop ring index s
  | .remoteRegRead ring index => Sys2Proof.Machine.execRemoteRegRead ring index s
  | .remoteRegWrite ring index => Sys2Proof.Machine.execRemoteRegWrite ring index s
  | .regReqReceived port packet => Sys2Proof.Machine.execRegReqReceived port packet s
  | .regRspReceived port cell => Sys2Proof.Machine.execRegRspReceived port cell s
  | .regReqTimeout chain tag => Sys2Proof.Machine.execRegReqTimeout chain tag s
  | .ackReceived port packet => Sys2Proof.Machine.execAckReceived port packet s
  | .returnAckTimeout stream seq => Sys2Proof.Machine.execReturnAckTimeout stream seq s
  | .returnCellPass cell alignSeq => Sys2Proof.Machine.execReturnCellPass cell alignSeq s
  | .alignSend port => Sys2Proof.Machine.execAlignSend port s
  | .keyRequestReceived port cell t => Sys2Proof.Machine.execKeyRequestReceived port cell t s
  | .remoteEventReceived port cell => Sys2Proof.Machine.execRemoteEventReceived port cell s
  | .telemetryReceived port cell => Sys2Proof.Machine.execTelemetryReceived port cell s
  | .telemetryStale chain position => Sys2Proof.Machine.execTelemetryStale chain position s
  | .stageAckReceived port cell => Sys2Proof.Machine.execStageAckReceived port cell s
  | .wordLockLoss port invalid => Sys2Proof.Machine.execWordLockLoss port s invalid
  | .rxClockLost port => Sys2Proof.Machine.execRxClockLost port s
  | .ts1Received port => Sys2Proof.Machine.execTs1Received port s
  | .tsWordsReceived port ts2 offer => Sys2Proof.Machine.execTsWordsReceived port ts2 offer s
  | .equalisationDone port ctle t1 t2 t3 fom skew => Sys2Proof.Machine.execEqualisationDone port ctle t1 t2 t3 fom skew s
  | .portUp port h => Sys2Proof.Machine.execPortUp port h s
  | .trainingAttemptTimeout port => Sys2Proof.Machine.execTrainingAttemptTimeout port s
  | .trainingRetryTimer port => Sys2Proof.Machine.execTrainingRetryTimer port s
  | .rxClockActivity port => Sys2Proof.Machine.execRxClockActivity port s
  | .linkTestRetry port path => Sys2Proof.Machine.execLinkTestRetry port path s
  | .linkTestForceDown port path => Sys2Proof.Machine.execLinkTestForceDown port path s
  | .fomMeasurement port main ew eh => Sys2Proof.Machine.execFomMeasurement port main ew eh s
  | .eqStepAdopt port => Sys2Proof.Machine.execEqStepAdopt port s
  | .helloSend => Sys2Proof.Machine.execHelloSend s
  | .helloReceived payload => Sys2Proof.Machine.execHelloReceived payload s
  | .commitAnnReceived payload => Sys2Proof.Machine.execCommitAnnReceived payload s
  | .keyAnnReceived payload => Sys2Proof.Machine.execKeyAnnReceived payload s
  | .cycleAnnReceived payload => Sys2Proof.Machine.execCycleAnnReceived payload s
  | .snapshotReceived payload => Sys2Proof.Machine.execSnapshotReceived payload s
  | .relayReceived payload => Sys2Proof.Machine.execRelayReceived payload s
  | .deposeReceived payload => Sys2Proof.Machine.execDeposeReceived payload s
  | .handoverReceived payload => Sys2Proof.Machine.execHandoverReceived payload s
  | .pairAckReceived payload => Sys2Proof.Machine.execPairAckReceived payload s
  | .readDoneReceived payload => Sys2Proof.Machine.execReadDoneReceived payload s
  | .reuniteReceived payload => Sys2Proof.Machine.execReuniteReceived payload s
  | .pairPacketTimeout pseq => Sys2Proof.Machine.execPairPacketTimeout pseq s
  | .comparisonDeadline chain frame => Sys2Proof.Machine.execComparisonDeadline chain frame s
  | .deposeAckTimeout => Sys2Proof.Machine.execDeposeAckTimeout s
  | .announcementMissing => Sys2Proof.Machine.execAnnouncementMissing s
  | .reunitePoll chain up => Sys2Proof.Machine.execReunitePoll chain up s
  | .suspectTimeout => Sys2Proof.Machine.execSuspectTimeout s
  | .pairPortTimeout => Sys2Proof.Machine.execPairPortTimeout s
  | .pairTestHandover path => Sys2Proof.Machine.execPairTestHandover path s
  | .pairTestForeign path => Sys2Proof.Machine.execPairTestForeign path s
  | .ceilingCheck => Sys2Proof.Machine.execCeilingCheck s
  | .ceilingReceived port packet => Sys2Proof.Machine.execCeilingReceived port packet s
  | .wallThrottleCheck => Sys2Proof.Machine.execWallThrottleCheck s
  | .throttleReceived port packet => Sys2Proof.Machine.execThrottleReceived port packet s
  | .wallCmdResend => Sys2Proof.Machine.execWallCmdResend s
  | .slotMaskReceived port packet => Sys2Proof.Machine.execSlotMaskReceived port packet s
  | .admissionPoll => Sys2Proof.Machine.execAdmissionPoll s
  | .admitReceived port packet => Sys2Proof.Machine.execAdmitReceived port packet s
  | .restartReceived port packet => Sys2Proof.Machine.execRestartReceived port packet s
  | .attestCommandReceived port packet => Sys2Proof.Machine.execAttestCommandReceived port packet s
  | .blendRequest updates => Sys2Proof.Machine.execBlendRequest updates s
  | .sensorRead board value => Sys2Proof.Machine.execSensorRead board value s
  | .presencePoll bus slot header => Sys2Proof.Machine.execPresencePoll bus slot header s
  | .attachReadsDone board reads => Sys2Proof.Machine.execAttachReadsDone board reads s
  | .boardRelease board path => Sys2Proof.Machine.execBoardRelease board path s
  | .boardRetest board path => Sys2Proof.Machine.execBoardRetest board path s
  | .wearStoreTimer => Sys2Proof.Machine.execWearStoreTimer s
  | .chunkWriteDone bus ok => Sys2Proof.Machine.execChunkWriteDone bus ok s
  | .storePassDone bus => Sys2Proof.Machine.execStorePassDone bus s
  | .faultCopyWrite board => Sys2Proof.Machine.execFaultCopyWrite board s
  | .unverifiedMinute => Sys2Proof.Machine.execUnverifiedMinute s
  | .persistHourly => Sys2Proof.Machine.execPersistHourly s
  | .nvmWriteComplete => Sys2Proof.Machine.execNvmWriteComplete s
  | .audioPacketReceived port packet => Sys2Proof.Machine.execAudioPacketReceived port packet s
  | .audioPacketDeadline tick => Sys2Proof.Machine.execAudioPacketDeadline tick s
  | .audioFrame port t bclks slots overflow underflow => Sys2Proof.Machine.execAudioFrame port t bclks slots overflow underflow s
  | .bclkLoss port => Sys2Proof.Machine.execBclkLoss port s
  | .bclkReturn port => Sys2Proof.Machine.execBclkReturn port s
  | .audioPortLocked port => Sys2Proof.Machine.execAudioPortLocked port s
  | .audioFadeDone port => Sys2Proof.Machine.execAudioFadeDone port s
  | .meterPowerOn calEn temp => Sys2Proof.Machine.execMeterPowerOn calEn temp s
  | .meterInterval mclk samples temp => Sys2Proof.Machine.execMeterInterval mclk samples temp s
  | .bitstreamStuck point => Sys2Proof.Machine.execBitstreamStuck point s
  | .energySave => Sys2Proof.Machine.execEnergySave s
  | .recordRequestRead path => Sys2Proof.Machine.execRecordRequestRead path s
  | .recordSigned => Sys2Proof.Machine.execRecordSigned s
  | .shutdownNotice => Sys2Proof.Machine.execShutdownNotice s
  | .meterActivationNotice verified => Sys2Proof.Machine.execMeterActivationNotice verified s
  | .calEnAssert => Sys2Proof.Machine.execCalEnAssert s
  | .calEnRelease => Sys2Proof.Machine.execCalEnRelease s
  | .calStart path => Sys2Proof.Machine.execCalStart path s
  | .calZero path => Sys2Proof.Machine.execCalZero path s
  | .calVref path => Sys2Proof.Machine.execCalVref path s
  | .calIref path => Sys2Proof.Machine.execCalIref path s
  | .calDelay path => Sys2Proof.Machine.execCalDelay path s
  | .calCommit path => Sys2Proof.Machine.execCalCommit path s
  | .calAbort path => Sys2Proof.Machine.execCalAbort path s
  | .calSeal path => Sys2Proof.Machine.execCalSeal path s
  | .calNone path => Sys2Proof.Machine.execCalNone path s
  | .calBadCmd cmd path => Sys2Proof.Machine.execCalBadCmd cmd path s
  | .thermalModelUpdate d0 d1 busy t => Sys2Proof.Machine.execThermalModelUpdate d0 d1 busy s t
  | .meteringStaleTimeout => Sys2Proof.Machine.execMeteringStaleTimeout s
  | .thermalEvaluation => Sys2Proof.Machine.execThermalEvaluation s
  | .thmTestShutdown path => Sys2Proof.Machine.execThmTestShutdown path s
  | .shutdownTimeout => Sys2Proof.Machine.execShutdownTimeout s
  | .diodeTrip => Sys2Proof.Machine.execDiodeTrip s
  | .thermalRestart umberLow d0 d1 t => Sys2Proof.Machine.execThermalRestart umberLow d0 d1 t s
  | .umberNone => Sys2Proof.Machine.execUmberNone s
  | .umberFormat => Sys2Proof.Machine.execUmberFormat s
  | .umberOpen => Sys2Proof.Machine.execUmberOpen s
  | .umberBlock => Sys2Proof.Machine.execUmberBlock s
  | .umberBlockProgrammed readback => Sys2Proof.Machine.execUmberBlockProgrammed readback s
  | .umberClose => Sys2Proof.Machine.execUmberClose s
  | .umberDiscard => Sys2Proof.Machine.execUmberDiscard s
  | .umberRestart programmed => Sys2Proof.Machine.execUmberRestart s programmed
  | .umberBootActive => Sys2Proof.Machine.execUmberBootActive s
  | .umberBadCmd cmd => Sys2Proof.Machine.execUmberBadCmd cmd s
  | .stageOpen ring index => Sys2Proof.Machine.execStageOpen ring index s
  | .stageData ring index mem inFlight => Sys2Proof.Machine.execStageData ring index mem inFlight s
  | .stageClose ring index => Sys2Proof.Machine.execStageClose ring index s
  | .stageDiscard ring index => Sys2Proof.Machine.execStageDiscard ring index s
  | .stageCloseTimeout => Sys2Proof.Machine.execStageCloseTimeout s
  | .stageOpenPacket port packet => Sys2Proof.Machine.execStageOpenPacket port packet s
  | .stageDataPacket port packet => Sys2Proof.Machine.execStageDataPacket port packet s
  | .stageClosePacket port packet => Sys2Proof.Machine.execStageClosePacket port packet s
  | .stageDiscardPacket port packet => Sys2Proof.Machine.execStageDiscardPacket port packet s
  | .stageQueryPacket port packet => Sys2Proof.Machine.execStageQueryPacket port packet s
  | .stageProgramDone readback => Sys2Proof.Machine.execStageProgramDone readback s
  | .wallRestart ring index => Sys2Proof.Machine.execWallRestart ring index s
  | .activationCopy => Sys2Proof.Machine.execActivationCopy s
  | .activationSectorDone sector same => Sys2Proof.Machine.execActivationSectorDone sector same s
  | .attestLocal ring index => Sys2Proof.Machine.execAttestLocal ring index s
  | .attestTile ring index => Sys2Proof.Machine.execAttestTile ring index s
  | .attestReportDone => Sys2Proof.Machine.execAttestReportDone s
  | .eventStatusClear path word value coincident => Sys2Proof.Machine.execEventStatusClear path word value coincident s
  | .eventMaskWrite path word value => Sys2Proof.Machine.execEventMaskWrite path word value s
  | .counterSnap path => Sys2Proof.Machine.execCounterSnap path s
  | .counterClear path => Sys2Proof.Machine.execCounterClear path s
  | .counterReset path c => Sys2Proof.Machine.execCounterReset path c s
  | .counterWrap c => Sys2Proof.Machine.execCounterWrap c s
  | .cellFault region block cell chain position row check again umberLow => Sys2Proof.Machine.execCellFault region block cell chain position row check again umberLow s
  | .cellStall region block cell chain position row again umberLow => Sys2Proof.Machine.execCellStall region block cell chain position row again umberLow s
  | .blockFault region block umberLow => Sys2Proof.Machine.execBlockFault region block umberLow s
  | .blockRestartDone region block => Sys2Proof.Machine.execBlockRestartDone region block s
  | .blockRestartTimeout region block umberLow => Sys2Proof.Machine.execBlockRestartTimeout region block umberLow s
  | .regionFault region umberLow => Sys2Proof.Machine.execRegionFault region umberLow s
  | .regionReturn region retrained failed => Sys2Proof.Machine.execRegionReturn region retrained s failed
  | .chipError cell umberLow => Sys2Proof.Machine.execChipError cell umberLow s
  | .firmwareWatchdogExpiry core umberLow => Sys2Proof.Machine.execFirmwareWatchdogExpiry core umberLow s
  | .jtagReset => Sys2Proof.Machine.execJtagReset s
  | .jtagExtest levels => Sys2Proof.Machine.execJtagExtest levels s
  | .jtagSamplePreload pins levels width => Sys2Proof.Machine.execJtagSamplePreload pins levels width s
  | .jtagBypass code => Sys2Proof.Machine.execJtagBypass code s
  | .jtagRegaccUpdate dr busy => Sys2Proof.Machine.execJtagRegaccUpdate dr busy s
  | .jtagRegaccCapture => Sys2Proof.Machine.execJtagRegaccCapture s
  | .configurationWrite access => Sys2Proof.Machine.execConfigurationWrite access s
  | .pcieLinkSpeedChange speed width => Sys2Proof.Machine.execPcieLinkSpeedChange speed width s
  | .pcieCorrectableError => Sys2Proof.Machine.execPcieCorrectableError s
  | .cellDrop port cell => Sys2Proof.Machine.execCellDrop port cell s
  | .pairPacketReserved ptype => Sys2Proof.Machine.execPairPacketReserved ptype s
  | .meterPowerLoss => Sys2Proof.Machine.execMeterPowerLoss s
  | .pwrgoodFall => Sys2Proof.Machine.execPwrgoodFall s
  | .monitoredRailRecovery umberLow diode0 diode1 t => Sys2Proof.Machine.execMonitoredRailRecovery umberLow diode0 diode1 t s
  | .diodeWindowChange diode0 diode1 => Sys2Proof.Machine.execDiodeWindowChange diode0 diode1 s

end Sys2Proof.Machine
end

