-- ==== Sys2Proof/Parts.lean ====
section
/-! DEFINITION. The parts of the state by which the statements say what a command leaves alone: one number for each component
and one for each register of the tables, and `State.Only`, which says that nothing outside the parts of a list differs. -/

namespace Sys2Proof.Machine

def Part.tick : Nat := 0
def Part.link : Nat := 1
def Part.tiles : Nat := 2
def Part.chans : Nat := 3
def Part.host : Nat := 4
def Part.plan : Nat := 5
def Part.boot : Nat := 6
def Part.therm : Nat := 7
def Part.pairUnit : Nat := 8
def Part.video : Nat := 9
def Part.lamp : Nat := 10
def Part.wall : Nat := 11
def Part.audio : Nat := 12
def Part.meter : Nat := 13
def Part.jtag : Nat := 14
/-- The rings. -/
def Part.rings : Nat := 15
/-- The translation caches, the walks, the region operation tables, and the host reads and completions in progress. -/
def Part.caches : Nat := 16
/-- Device DRAM. -/
def Part.dram : Nat := 17
/-- The counters, the forward queue and the occurrences of the period. -/
def Part.collector : Nat := 18
/-- The latched and held halves of wide registers, and the counters' snapshot. -/
def Part.latches : Nat := 19
/-- The metering domain's power, the host link and D3hot. -/
def Part.power : Nat := 20
/-- What has left the device. -/
def Part.out : Nat := 21
/-- The numbering of the free values. -/
def Part.fresh : Nat := 22
/-- Time. -/
def Part.now : Nat := 23
/-- Any register at all. -/
def Part.anyReg : Nat := 31
def Part.CTL_VARIANT : Nat := 32
def Part.CTL_TILE_ADDR : Nat := 33
def Part.CTL_IMG_INFO : Nat := 34
def Part.CTL_IMG_ROLLBACK : Nat := 35
def Part.CTL_IMG_WALL_SEQ : Nat := 36
def Part.CTL_IMG_WALL_ID_LO : Nat := 37
def Part.CTL_IMG_WALL_ID_HI : Nat := 38
def Part.CTL_IMG_DEFECT : Nat := 39
def Part.CTL_IMG_COMPILER : Nat := 40
def Part.CTL_IMG_DIGEST : Nat := 41
def Part.TCK_STATE : Nat := 42
def Part.TCK_COUNT_LO : Nat := 43
def Part.TCK_COUNT_HI : Nat := 44
def Part.TCK_PERIOD : Nat := 45
def Part.TCK_REF_PERIOD : Nat := 46
def Part.TCK_PHASE_ERR : Nat := 47
def Part.TCK_GLK_CFG : Nat := 48
def Part.TCK_GLK_OUT : Nat := 49
def Part.TCK_GLITCH_COUNT : Nat := 50
def Part.TCK_MISS_COUNT : Nat := 51
def Part.TCK_REPEAT_COUNT : Nat := 52
def Part.TCK_MARKER_LEAD : Nat := 53
def Part.TCK_TEST : Nat := 54
def Part.TCK_DELAY_A : Nat := 55
def Part.TCK_DELAY_B : Nat := 56
def Part.TCK_REPEAT_H : Nat := 57
def Part.TCK_MARKER_ERR : Nat := 58
def Part.TCK_END_DELAY : Nat := 59
def Part.TCK_HOP_DELAY : Nat := 60
def Part.TCK_SLOT_STAT : Nat := 61
def Part.TCK_LATE_MAX : Nat := 62
def Part.TCK_OVERRUN_COUNT : Nat := 63
def Part.TCK_CUT_COUNT : Nat := 64
def Part.TCK_SLOTS : Nat := 65
def Part.HRG_LINK : Nat := 66
def Part.HRG_RIGHTS : Nat := 67
def Part.HRG_RING0_SQ_LO : Nat := 68
def Part.HRG_RING0_SQ_HI : Nat := 69
def Part.HRG_RING0_CQ_LO : Nat := 70
def Part.HRG_RING0_CQ_HI : Nat := 71
def Part.HRG_FETCH_CFG : Nat := 72
def Part.HRG_CPL_TIMEOUT : Nat := 73
def Part.HRG_DB_IGNORED : Nat := 74
def Part.HRG_RING_ERRORS : Nat := 75
def Part.HRG_LAST_ERR : Nat := 76
def Part.HRG_FN_RESETS : Nat := 77
def Part.HRG_OUTSTANDING : Nat := 78
def Part.HRG_EVT_VEC : Nat := 79
def Part.XLT_OPT_CFG : Nat := 80
def Part.XLT_OPT_HOST : Nat := 81
def Part.XLT_WALKS : Nat := 82
def Part.XLT_WALK_COUNT : Nat := 83
def Part.XLT_FAULT_COUNT : Nat := 84
def Part.XLT_INVAL_COUNT : Nat := 85
def Part.XLT_DMA_ACTIVE : Nat := 86
def Part.XLT_CTX_MODE : Nat := 87
def Part.XLT_CTX_ROOT_LO : Nat := 88
def Part.XLT_CTX_ROOT_HI : Nat := 89
def Part.XLT_OPT_USE_A : Nat := 90
def Part.XLT_OPT_USE_B : Nat := 91
def Part.XLT_OPT_PEAK : Nat := 92
def Part.XLT_HELD_COUNT : Nat := 93
def Part.XLT_TC_HIT : Nat := 94
def Part.XLT_TC_MISS : Nat := 95
def Part.XLT_FAULT_HEAD : Nat := 96
def Part.XLT_FLOG_IOVA_LO : Nat := 97
def Part.XLT_FLOG_IOVA_HI : Nat := 98
def Part.XLT_FLOG_INFO : Nat := 99
def Part.XLT_FLOG_TICK : Nat := 100
def Part.DMC_CFG : Nat := 101
def Part.DMC_ARB : Nat := 102
def Part.DMC_PANIC_LVL_A : Nat := 103
def Part.DMC_PANIC_LVL_B : Nat := 104
def Part.DMC_TEMP : Nat := 105
def Part.DMC_DENSITY : Nat := 106
def Part.DMC_CH_STAT : Nat := 107
def Part.DMC_CH_REFRESHES : Nat := 108
def Part.DMC_CH_FORCED : Nat := 109
def Part.DMC_CH_PANICS : Nat := 110
def Part.DMC_CH_PANIC_CAPPED : Nat := 111
def Part.DMC_CH_HAZARDS : Nat := 112
def Part.DMC_CH_ECC_CORR : Nat := 113
def Part.DMC_CH_ECC_UNCORR : Nat := 114
def Part.DMC_CH_TRAIN : Nat := 115
def Part.DMC_CH_PAT_CTL : Nat := 116
def Part.DMC_CH_PAT_ADDR : Nat := 117
def Part.DMC_CH_CMP : Nat := 118
def Part.DMC_CH_PAT_DATA : Nat := 119
def Part.CMP_COMMIT_CFG : Nat := 120
def Part.CMP_COMMIT_APPLIED : Nat := 121
def Part.CMP_COMMIT_REJECTED : Nat := 122
def Part.CMP_COMMIT_TIMEOUTS : Nat := 123
def Part.CMP_COMMIT_WAITS : Nat := 124
def Part.CMP_LAST_REJECT : Nat := 125
def Part.CMP_FALLBACK_COUNT : Nat := 126
def Part.CMP_STATIC : Nat := 127
def Part.CMP_LAYER_CFG : Nat := 128
def Part.CMP_LAYER_STATE : Nat := 129
def Part.CMP_LAYER_TAG : Nat := 130
def Part.CMP_LAYER_RING : Nat := 131
def Part.CMP_LAYER_SINCE : Nat := 132
def Part.CMP_FENCE_LO : Nat := 133
def Part.CMP_FENCE_HI : Nat := 134
def Part.CMP_RASTER : Nat := 135
def Part.CMP_COLOUR : Nat := 136
def Part.CMP_CLAMP_COUNT : Nat := 137
def Part.CMP_CAPTURE_ROWS : Nat := 138
def Part.CMP_CAPTURE_SKIPPED : Nat := 139
def Part.CMP_BG_RG : Nat := 140
def Part.CMP_BG_B : Nat := 141
def Part.CMP_ROW_STAT : Nat := 142
def Part.CMP_ROWS_COMPOSED : Nat := 143
def Part.CMP_BLOCKS_DROPPED : Nat := 144
def Part.CMP_BLOCKS_HELD : Nat := 145
def Part.CMP_HANDOFF_WAITS : Nat := 146
def Part.CMP_SRC_PIXELS : Nat := 147
def Part.ENC_CFG : Nat := 148
def Part.ENC_CELL_STAT : Nat := 149
def Part.ENC_ROWS : Nat := 150
def Part.ENC_BITS_LO : Nat := 151
def Part.ENC_BITS_HI : Nat := 152
def Part.ENC_BLK_SKIP : Nat := 153
def Part.ENC_BLK_LTSKIP : Nat := 154
def Part.ENC_BLK_DCOPY : Nat := 155
def Part.ENC_BLK_INTRA : Nat := 156
def Part.ENC_BLK_RAW : Nat := 157
def Part.ENC_BLK_FLOOR : Nat := 158
def Part.ENC_OCHRE_ROWS : Nat := 159
def Part.ENC_KEY_ROWS : Nat := 160
def Part.ENC_HOLD_SEGS : Nat := 161
def Part.ENC_ROWS_LOSSLESS : Nat := 162
def Part.ENC_RETRIES : Nat := 163
def Part.DEC_CFG : Nat := 164
def Part.DEC_CASCADE_DOMAIN : Nat := 165
def Part.DEC_CELL_STAT : Nat := 166
def Part.DEC_ROWS : Nat := 167
def Part.DEC_SEG_KEPT : Nat := 168
def Part.DEC_SEG_DISCARDED : Nat := 169
def Part.DEC_SEG_ERRORS : Nat := 170
def Part.DEC_RETRIES : Nat := 171
def Part.DEC_LATE_ROWS : Nat := 172
def Part.DEC_SLATE_ROWS : Nat := 173
def Part.DEC_REF_MISSING : Nat := 174
def Part.DEC_HOLDS : Nat := 175
def Part.DEC_LAST_ERR : Nat := 176
def Part.DEC_LAST_HOLD : Nat := 177
def Part.LNK_CFG : Nat := 178
def Part.LNK_EQ_CFG : Nat := 179
def Part.LNK_RET_STAT : Nat := 180
def Part.LNK_RET_GIVEUP : Nat := 181
def Part.LNK_PORT_CFG : Nat := 182
def Part.LNK_STATE : Nat := 183
def Part.LNK_FOM : Nat := 184
def Part.LNK_DFE : Nat := 185
def Part.LNK_DESKEW : Nat := 186
def Part.LNK_WORD_ERR : Nat := 187
def Part.LNK_CW_ERR : Nat := 188
def Part.LNK_HDR_CRC_ERR : Nat := 189
def Part.LNK_PAY_CRC_ERR : Nat := 190
def Part.LNK_LOCK_LOSS : Nat := 191
def Part.LNK_RETRAINS : Nat := 192
def Part.LNK_EQ_STEPS : Nat := 193
def Part.LNK_KEYREQ_RX : Nat := 194
def Part.LNK_CELL_DROP : Nat := 195
def Part.LNK_PKT_UNKNOWN : Nat := 196
def Part.LNK_TEST : Nat := 197
def Part.PAIR_STATE : Nat := 198
def Part.PAIR_CFG : Nat := 199
def Part.PAIR_EPOCH : Nat := 200
def Part.PAIR_CLEAN : Nat := 201
def Part.PAIR_FEED : Nat := 202
def Part.PAIR_OBSERVED : Nat := 203
def Part.PAIR_COMPARED_LO : Nat := 204
def Part.PAIR_COMPARED_HI : Nat := 205
def Part.PAIR_MISMATCHED : Nat := 206
def Part.PAIR_EXCUSED : Nat := 207
def Part.PAIR_DECISIONS : Nat := 208
def Part.PAIR_TAKEOVERS : Nat := 209
def Part.PAIR_LAST_MISMATCH : Nat := 210
def Part.PAIR_PKT_UNKNOWN : Nat := 211
def Part.PAIR_PARTNER_SERIAL_LO : Nat := 212
def Part.PAIR_PARTNER_SERIAL_HI : Nat := 213
def Part.PAIR_HOP_DELAY : Nat := 214
def Part.PAIR_TEST : Nat := 215
def Part.PAIR_LINK_LOSSES : Nat := 216
def Part.LMP_CFG : Nat := 217
def Part.LMP_GAIN_CFG : Nat := 218
def Part.LMP_CEIL_CFG : Nat := 219
def Part.LMP_CEIL_LIMITS : Nat := 220
def Part.LMP_CEIL_STEP : Nat := 221
def Part.LMP_CEIL : Nat := 222
def Part.LMP_CEIL_START_LO : Nat := 223
def Part.LMP_CEIL_START_HI : Nat := 224
def Part.LMP_HEADROOM : Nat := 225
def Part.LMP_SET : Nat := 226
def Part.LMP_WEAR_CYCLES : Nat := 227
def Part.LMP_LIMITED_PIXELS : Nat := 228
def Part.LMP_SATURATED : Nat := 229
def Part.LMP_SAMPLES_LOST : Nat := 230
def Part.LMP_TAKEBACK_SHORT : Nat := 231
def Part.LMP_GREY_APPLIED : Nat := 232
def Part.LMP_UNCORRECTABLE : Nat := 233
def Part.LMP_GAIN_CAPPED : Nat := 234
def Part.LMP_RAMPS : Nat := 235
def Part.LMP_BASE_RECA : Nat := 236
def Part.LMP_BASE_RECB : Nat := 237
def Part.LMP_BASE_GAIN : Nat := 238
def Part.LMP_BASE_DITHER : Nat := 239
def Part.LMP_BASE_WEAR : Nat := 240
def Part.LMP_LIM : Nat := 241
def Part.LMP_CELL_STAT : Nat := 242
def Part.LMP_ROWS : Nat := 243
def Part.LMP_ROWS_FAILED : Nat := 244
def Part.LMP_RETRIES : Nat := 245
def Part.SCN_FRAME_ADDR : Nat := 246
def Part.SCN_PIPE_BASE0 : Nat := 247
def Part.SCN_PIPE_BASE1 : Nat := 248
def Part.SCN_STAT : Nat := 249
def Part.DRV_SYNC_COUNT : Nat := 250
def Part.SCN_RANGE_ERR : Nat := 251
def Part.SCN_CRC_XY : Nat := 252
def Part.SCN_CRC_WH : Nat := 253
def Part.SCN_CRC_VAL : Nat := 254
def Part.SCN_CRC_TICK : Nat := 255
def Part.DRV_PROF_A : Nat := 256
def Part.DRV_PROF_B : Nat := 257
def Part.DRV_TE_CFG : Nat := 258
def Part.DRV_TE_STAT : Nat := 259
def Part.DRV_TE_MISSING : Nat := 260
def Part.DRV_TE_OVERRUN : Nat := 261
def Part.DRV_GROUP_CFG : Nat := 262
def Part.DRV_GROUP_STAT : Nat := 263
def Part.DRV_LOADS : Nat := 264
def Part.DRV_CUTS : Nat := 265
def Part.DRV_FETCH_FAIL : Nat := 266
def Part.DRV_RB_ERR : Nat := 267
def Part.DRV_RB_PINS : Nat := 268
def Part.DRV_STATUS_READS : Nat := 269
def Part.LBD_CFG : Nat := 270
def Part.LBD_FAULT_CFG : Nat := 271
def Part.LBD_LIFE_CFG : Nat := 272
def Part.LBD_WEAR_STORE : Nat := 273
def Part.LBD_TEST : Nat := 274
def Part.LBD_GREY_PULSES : Nat := 275
def Part.LBD_WEAR_WRITES : Nat := 276
def Part.LBD_SIG_FAIL : Nat := 277
def Part.LBD_FLOG_HEAD : Nat := 278
def Part.LBD_UNVERIFIED : Nat := 279
def Part.LBD_BOARD_STAT : Nat := 280
def Part.LBD_BOARD_FAULTS : Nat := 281
def Part.LBD_BOARD_UNVER : Nat := 282
def Part.LBD_BOARD_TEMP : Nat := 283
def Part.LBD_BOARD_SERIAL : Nat := 284
def Part.LBD_FLOG_CHAN : Nat := 285
def Part.LBD_FLOG_INFO : Nat := 286
def Part.LBD_FLOG_TICK : Nat := 287
def Part.LBD_BUS_STAT : Nat := 288
def Part.LBD_BUS_ERR : Nat := 289
def Part.LBD_GREY_DEFERRED : Nat := 290
def Part.LBD_READOUTS_DISCARDED : Nat := 291
def Part.AUD_STATE : Nat := 292
def Part.AUD_SAMPLE_LO : Nat := 293
def Part.AUD_SAMPLE_HI : Nat := 294
def Part.AUD_LEAD : Nat := 295
def Part.AUD_PLAY_RUN : Nat := 296
def Part.AUD_CAP_RUN : Nat := 297
def Part.AUD_MISSING : Nat := 298
def Part.AUD_MASK_LATE : Nat := 299
def Part.AUD_UNDERRUN : Nat := 300
def Part.AUD_OVERRUN : Nat := 301
def Part.AUD_PORT_CFG : Nat := 302
def Part.AUD_PORT_STAT : Nat := 303
def Part.AUD_MASK : Nat := 304
def Part.AUD_MASK_SHADOW : Nat := 305
def Part.AUD_RATE : Nat := 306
def Part.AUD_RATIO : Nat := 307
def Part.AUD_FRAME_ERR : Nat := 308
def Part.AUD_CLOCK_LOSS : Nat := 309
def Part.AUD_RELOCKS : Nat := 310
def Part.MTR_STATE : Nat := 311
def Part.MTR_HEALTH : Nat := 312
def Part.MTR_INTERVAL_LO : Nat := 313
def Part.MTR_INTERVAL_HI : Nat := 314
def Part.MTR_MCLK_MEAS : Nat := 315
def Part.MTR_FW_VERSION : Nat := 316
def Part.MTR_LOG_COUNT : Nat := 317
def Part.MTR_LOG_DROPPED : Nat := 318
def Part.MTR_SEAL_BREAKS : Nat := 319
def Part.MTR_REC_REQ : Nat := 320
def Part.MTR_REC_STAT : Nat := 321
def Part.MTR_FW_DIGEST : Nat := 322
def Part.MTR_CAL_CMD : Nat := 323
def Part.MTR_CAL_ARG0 : Nat := 324
def Part.MTR_CAL_ARG1 : Nat := 325
def Part.MTR_CAL_ARG2 : Nat := 326
def Part.MTR_CAL_CERT : Nat := 327
def Part.MTR_CAL_STAT : Nat := 328
def Part.MTR_CAL_DATA : Nat := 329
def Part.MTR_REC : Nat := 330
def Part.MTR_LOG : Nat := 331
def Part.MTR_ENERGY_LO : Nat := 332
def Part.MTR_ENERGY_HI : Nat := 333
def Part.MTR_POWER : Nat := 334
def Part.MTR_VRMS : Nat := 335
def Part.MTR_IRMS : Nat := 336
def Part.MTR_POINT_STAT : Nat := 337
def Part.THM_STATE : Nat := 338
def Part.THM_CFG : Nat := 339
def Part.THM_THR : Nat := 340
def Part.THM_KNEE : Nat := 341
def Part.THM_WINDOW : Nat := 342
def Part.THM_CCLK : Nat := 343
def Part.THM_TH : Nat := 344
def Part.THM_CAUSE : Nat := 345
def Part.THM_QUEUE : Nat := 346
def Part.THM_TEST : Nat := 347
def Part.THM_STEPS_DOWN : Nat := 348
def Part.THM_STEPS_UP : Nat := 349
def Part.THM_CCLK_STEPS : Nat := 350
def Part.THM_WRITES_DEFERRED : Nat := 351
def Part.THM_POWER_CORE : Nat := 352
def Part.THM_POWER_LED : Nat := 353
def Part.THM_NODE : Nat := 354
def Part.THM_DIODE : Nat := 355
def Part.THM_LAMP_T : Nat := 356
def Part.THM_LAMP_S : Nat := 357
def Part.CTL_BOOT : Nat := 358
def Part.CTL_UMBER : Nat := 359
def Part.CTL_BOOT_TIME : Nat := 360
def Part.CTL_WDOG : Nat := 361
def Part.CTL_SERIAL_LO : Nat := 362
def Part.CTL_SERIAL_HI : Nat := 363
def Part.CTL_UPD_STATE : Nat := 364
def Part.CTL_UPD_PROGRESS : Nat := 365
def Part.CTL_UPD_RESULT : Nat := 366
def Part.CTL_UPD_CFG : Nat := 367
def Part.CTL_OTP_ROLLBACK : Nat := 368
def Part.CTL_UMB_CMD : Nat := 369
def Part.CTL_UMB_OFFSET : Nat := 370
def Part.CTL_UMB_LENGTH : Nat := 371
def Part.CTL_UMB_STAT : Nat := 372
def Part.CTL_ATT_STAT : Nat := 373
def Part.CTL_ATT_REPORT : Nat := 374
def Part.CTL_UMB_BUF : Nat := 375
def Part.CTL_EVT_STATUS : Nat := 376
def Part.CTL_EVT_MASK : Nat := 377
def Part.CTL_EVT_FWD : Nat := 378
def Part.CTL_EVT_LOST : Nat := 379
def Part.CTL_EVT_REMOTE_RX : Nat := 380
def Part.CTL_EVT_FWD_LOST : Nat := 381
def Part.CTL_EVT_COUNT : Nat := 382
def Part.CTL_CNT_CFG : Nat := 383
def Part.CTL_CNT_LO : Nat := 384
def Part.CTL_CNT_HI : Nat := 385
def Part.CTL_CNT_SNAP_LO : Nat := 386
def Part.CTL_CNT_SNAP_HI : Nat := 387
def Part.CTL_CNT_GLOBAL : Nat := 388
def Part.CTL_CNT_OVF_A : Nat := 389
def Part.CTL_CNT_OVF_B : Nat := 390
def Part.CTL_CNT_SNAP_SEQ : Nat := 391
def Part.CTL_CNT_SNAP_TICK_LO : Nat := 392
def Part.CTL_CNT_SNAP_TICK_HI : Nat := 393
def Part.CTL_ERR_STAT : Nat := 394
def Part.CTL_ERR_CELL_RETRY : Nat := 395
def Part.CTL_ERR_CELL_SUBST : Nat := 396
def Part.CTL_ERR_BLOCK_RESTARTS : Nat := 397
def Part.CTL_ERR_FENCES : Nat := 398
def Part.CTL_ERR_CHIP : Nat := 399
def Part.CTL_ALERT : Nat := 400
def Part.CTL_ERR_HEAD : Nat := 401
def Part.CTL_ERR_LOG_A : Nat := 402
def Part.CTL_ERR_LOG_TICK : Nat := 403
def Part.CTL_ERR_LOG_ROW : Nat := 404
def Part.CTL_SVC_CFG_A : Nat := 405
def Part.CTL_SVC_CFG_B : Nat := 406
def Part.CTL_SVC_IN : Nat := 407
def Part.HRG_MSIX_ADDR_LO : Nat := 408
def Part.HRG_MSIX_ADDR_HI : Nat := 409
def Part.HRG_MSIX_DATA : Nat := 410
def Part.HRG_MSIX_CTL : Nat := 411
def Part.HRG_MSIX_PBA : Nat := 412

/-- `RegOf p a`: part `p` is a register of the tables, and BAR0 offset `a` is one of its copies. -/
inductive RegOf : Nat → Nat → Prop
  | anyReg (a : Nat) : RegOf Part.anyReg a
  | CTL_VARIANT : RegOf Part.CTL_VARIANT Reg.CTL_VARIANT
  | CTL_TILE_ADDR : RegOf Part.CTL_TILE_ADDR Reg.CTL_TILE_ADDR
  | CTL_IMG_INFO : RegOf Part.CTL_IMG_INFO Reg.CTL_IMG_INFO
  | CTL_IMG_ROLLBACK : RegOf Part.CTL_IMG_ROLLBACK Reg.CTL_IMG_ROLLBACK
  | CTL_IMG_WALL_SEQ : RegOf Part.CTL_IMG_WALL_SEQ Reg.CTL_IMG_WALL_SEQ
  | CTL_IMG_WALL_ID_LO : RegOf Part.CTL_IMG_WALL_ID_LO Reg.CTL_IMG_WALL_ID_LO
  | CTL_IMG_WALL_ID_HI : RegOf Part.CTL_IMG_WALL_ID_HI Reg.CTL_IMG_WALL_ID_HI
  | CTL_IMG_DEFECT : RegOf Part.CTL_IMG_DEFECT Reg.CTL_IMG_DEFECT
  | CTL_IMG_COMPILER : RegOf Part.CTL_IMG_COMPILER Reg.CTL_IMG_COMPILER
  | CTL_IMG_DIGEST (n : Nat) : RegOf Part.CTL_IMG_DIGEST (Reg.CTL_IMG_DIGEST n)
  | TCK_STATE : RegOf Part.TCK_STATE Reg.TCK_STATE
  | TCK_COUNT_LO : RegOf Part.TCK_COUNT_LO Reg.TCK_COUNT_LO
  | TCK_COUNT_HI : RegOf Part.TCK_COUNT_HI Reg.TCK_COUNT_HI
  | TCK_PERIOD : RegOf Part.TCK_PERIOD Reg.TCK_PERIOD
  | TCK_REF_PERIOD : RegOf Part.TCK_REF_PERIOD Reg.TCK_REF_PERIOD
  | TCK_PHASE_ERR : RegOf Part.TCK_PHASE_ERR Reg.TCK_PHASE_ERR
  | TCK_GLK_CFG : RegOf Part.TCK_GLK_CFG Reg.TCK_GLK_CFG
  | TCK_GLK_OUT : RegOf Part.TCK_GLK_OUT Reg.TCK_GLK_OUT
  | TCK_GLITCH_COUNT : RegOf Part.TCK_GLITCH_COUNT Reg.TCK_GLITCH_COUNT
  | TCK_MISS_COUNT : RegOf Part.TCK_MISS_COUNT Reg.TCK_MISS_COUNT
  | TCK_REPEAT_COUNT : RegOf Part.TCK_REPEAT_COUNT Reg.TCK_REPEAT_COUNT
  | TCK_MARKER_LEAD : RegOf Part.TCK_MARKER_LEAD Reg.TCK_MARKER_LEAD
  | TCK_TEST : RegOf Part.TCK_TEST Reg.TCK_TEST
  | TCK_DELAY_A : RegOf Part.TCK_DELAY_A Reg.TCK_DELAY_A
  | TCK_DELAY_B : RegOf Part.TCK_DELAY_B Reg.TCK_DELAY_B
  | TCK_REPEAT_H : RegOf Part.TCK_REPEAT_H Reg.TCK_REPEAT_H
  | TCK_MARKER_ERR : RegOf Part.TCK_MARKER_ERR Reg.TCK_MARKER_ERR
  | TCK_END_DELAY (n : Nat) : RegOf Part.TCK_END_DELAY (Reg.TCK_END_DELAY n)
  | TCK_HOP_DELAY (n i : Nat) : RegOf Part.TCK_HOP_DELAY (Reg.TCK_HOP_DELAY n i)
  | TCK_SLOT_STAT (n : Nat) : RegOf Part.TCK_SLOT_STAT (Reg.TCK_SLOT_STAT n)
  | TCK_LATE_MAX (n : Nat) : RegOf Part.TCK_LATE_MAX (Reg.TCK_LATE_MAX n)
  | TCK_OVERRUN_COUNT (n : Nat) : RegOf Part.TCK_OVERRUN_COUNT (Reg.TCK_OVERRUN_COUNT n)
  | TCK_CUT_COUNT (n : Nat) : RegOf Part.TCK_CUT_COUNT (Reg.TCK_CUT_COUNT n)
  | TCK_SLOTS (n : Nat) : RegOf Part.TCK_SLOTS (Reg.TCK_SLOTS n)
  | HRG_LINK : RegOf Part.HRG_LINK Reg.HRG_LINK
  | HRG_RIGHTS : RegOf Part.HRG_RIGHTS Reg.HRG_RIGHTS
  | HRG_RING0_SQ_LO : RegOf Part.HRG_RING0_SQ_LO Reg.HRG_RING0_SQ_LO
  | HRG_RING0_SQ_HI : RegOf Part.HRG_RING0_SQ_HI Reg.HRG_RING0_SQ_HI
  | HRG_RING0_CQ_LO : RegOf Part.HRG_RING0_CQ_LO Reg.HRG_RING0_CQ_LO
  | HRG_RING0_CQ_HI : RegOf Part.HRG_RING0_CQ_HI Reg.HRG_RING0_CQ_HI
  | HRG_FETCH_CFG : RegOf Part.HRG_FETCH_CFG Reg.HRG_FETCH_CFG
  | HRG_CPL_TIMEOUT : RegOf Part.HRG_CPL_TIMEOUT Reg.HRG_CPL_TIMEOUT
  | HRG_DB_IGNORED : RegOf Part.HRG_DB_IGNORED Reg.HRG_DB_IGNORED
  | HRG_RING_ERRORS : RegOf Part.HRG_RING_ERRORS Reg.HRG_RING_ERRORS
  | HRG_LAST_ERR : RegOf Part.HRG_LAST_ERR Reg.HRG_LAST_ERR
  | HRG_FN_RESETS : RegOf Part.HRG_FN_RESETS Reg.HRG_FN_RESETS
  | HRG_OUTSTANDING : RegOf Part.HRG_OUTSTANDING Reg.HRG_OUTSTANDING
  | HRG_EVT_VEC (n : Nat) : RegOf Part.HRG_EVT_VEC (Reg.HRG_EVT_VEC n)
  | XLT_OPT_CFG : RegOf Part.XLT_OPT_CFG Reg.XLT_OPT_CFG
  | XLT_OPT_HOST : RegOf Part.XLT_OPT_HOST Reg.XLT_OPT_HOST
  | XLT_WALKS : RegOf Part.XLT_WALKS Reg.XLT_WALKS
  | XLT_WALK_COUNT : RegOf Part.XLT_WALK_COUNT Reg.XLT_WALK_COUNT
  | XLT_FAULT_COUNT : RegOf Part.XLT_FAULT_COUNT Reg.XLT_FAULT_COUNT
  | XLT_INVAL_COUNT : RegOf Part.XLT_INVAL_COUNT Reg.XLT_INVAL_COUNT
  | XLT_DMA_ACTIVE : RegOf Part.XLT_DMA_ACTIVE Reg.XLT_DMA_ACTIVE
  | XLT_CTX_MODE (n : Nat) : RegOf Part.XLT_CTX_MODE (Reg.XLT_CTX_MODE n)
  | XLT_CTX_ROOT_LO (n : Nat) : RegOf Part.XLT_CTX_ROOT_LO (Reg.XLT_CTX_ROOT_LO n)
  | XLT_CTX_ROOT_HI (n : Nat) : RegOf Part.XLT_CTX_ROOT_HI (Reg.XLT_CTX_ROOT_HI n)
  | XLT_OPT_USE_A (n : Nat) : RegOf Part.XLT_OPT_USE_A (Reg.XLT_OPT_USE_A n)
  | XLT_OPT_USE_B (n : Nat) : RegOf Part.XLT_OPT_USE_B (Reg.XLT_OPT_USE_B n)
  | XLT_OPT_PEAK (n : Nat) : RegOf Part.XLT_OPT_PEAK (Reg.XLT_OPT_PEAK n)
  | XLT_HELD_COUNT (n : Nat) : RegOf Part.XLT_HELD_COUNT (Reg.XLT_HELD_COUNT n)
  | XLT_TC_HIT (n : Nat) : RegOf Part.XLT_TC_HIT (Reg.XLT_TC_HIT n)
  | XLT_TC_MISS (n : Nat) : RegOf Part.XLT_TC_MISS (Reg.XLT_TC_MISS n)
  | XLT_FAULT_HEAD (n : Nat) : RegOf Part.XLT_FAULT_HEAD (Reg.XLT_FAULT_HEAD n)
  | XLT_FLOG_IOVA_LO (n i : Nat) : RegOf Part.XLT_FLOG_IOVA_LO (Reg.XLT_FLOG_IOVA_LO n i)
  | XLT_FLOG_IOVA_HI (n i : Nat) : RegOf Part.XLT_FLOG_IOVA_HI (Reg.XLT_FLOG_IOVA_HI n i)
  | XLT_FLOG_INFO (n i : Nat) : RegOf Part.XLT_FLOG_INFO (Reg.XLT_FLOG_INFO n i)
  | XLT_FLOG_TICK (n i : Nat) : RegOf Part.XLT_FLOG_TICK (Reg.XLT_FLOG_TICK n i)
  | DMC_CFG : RegOf Part.DMC_CFG Reg.DMC_CFG
  | DMC_ARB : RegOf Part.DMC_ARB Reg.DMC_ARB
  | DMC_PANIC_LVL_A : RegOf Part.DMC_PANIC_LVL_A Reg.DMC_PANIC_LVL_A
  | DMC_PANIC_LVL_B : RegOf Part.DMC_PANIC_LVL_B Reg.DMC_PANIC_LVL_B
  | DMC_TEMP : RegOf Part.DMC_TEMP Reg.DMC_TEMP
  | DMC_DENSITY : RegOf Part.DMC_DENSITY Reg.DMC_DENSITY
  | DMC_CH_STAT (n i : Nat) : RegOf Part.DMC_CH_STAT (Reg.DMC_CH_STAT n i)
  | DMC_CH_REFRESHES (n i : Nat) : RegOf Part.DMC_CH_REFRESHES (Reg.DMC_CH_REFRESHES n i)
  | DMC_CH_FORCED (n i : Nat) : RegOf Part.DMC_CH_FORCED (Reg.DMC_CH_FORCED n i)
  | DMC_CH_PANICS (n i : Nat) : RegOf Part.DMC_CH_PANICS (Reg.DMC_CH_PANICS n i)
  | DMC_CH_PANIC_CAPPED (n i : Nat) : RegOf Part.DMC_CH_PANIC_CAPPED (Reg.DMC_CH_PANIC_CAPPED n i)
  | DMC_CH_HAZARDS (n i : Nat) : RegOf Part.DMC_CH_HAZARDS (Reg.DMC_CH_HAZARDS n i)
  | DMC_CH_ECC_CORR (n i : Nat) : RegOf Part.DMC_CH_ECC_CORR (Reg.DMC_CH_ECC_CORR n i)
  | DMC_CH_ECC_UNCORR (n i : Nat) : RegOf Part.DMC_CH_ECC_UNCORR (Reg.DMC_CH_ECC_UNCORR n i)
  | DMC_CH_TRAIN (n i : Nat) : RegOf Part.DMC_CH_TRAIN (Reg.DMC_CH_TRAIN n i)
  | DMC_CH_PAT_CTL (n i : Nat) : RegOf Part.DMC_CH_PAT_CTL (Reg.DMC_CH_PAT_CTL n i)
  | DMC_CH_PAT_ADDR (n i : Nat) : RegOf Part.DMC_CH_PAT_ADDR (Reg.DMC_CH_PAT_ADDR n i)
  | DMC_CH_CMP (n i : Nat) : RegOf Part.DMC_CH_CMP (Reg.DMC_CH_CMP n i)
  | DMC_CH_PAT_DATA (n i j : Nat) : RegOf Part.DMC_CH_PAT_DATA (Reg.DMC_CH_PAT_DATA n i j)
  | CMP_COMMIT_CFG : RegOf Part.CMP_COMMIT_CFG Reg.CMP_COMMIT_CFG
  | CMP_COMMIT_APPLIED : RegOf Part.CMP_COMMIT_APPLIED Reg.CMP_COMMIT_APPLIED
  | CMP_COMMIT_REJECTED : RegOf Part.CMP_COMMIT_REJECTED Reg.CMP_COMMIT_REJECTED
  | CMP_COMMIT_TIMEOUTS : RegOf Part.CMP_COMMIT_TIMEOUTS Reg.CMP_COMMIT_TIMEOUTS
  | CMP_COMMIT_WAITS : RegOf Part.CMP_COMMIT_WAITS Reg.CMP_COMMIT_WAITS
  | CMP_LAST_REJECT : RegOf Part.CMP_LAST_REJECT Reg.CMP_LAST_REJECT
  | CMP_FALLBACK_COUNT : RegOf Part.CMP_FALLBACK_COUNT Reg.CMP_FALLBACK_COUNT
  | CMP_STATIC : RegOf Part.CMP_STATIC Reg.CMP_STATIC
  | CMP_LAYER_CFG (n : Nat) : RegOf Part.CMP_LAYER_CFG (Reg.CMP_LAYER_CFG n)
  | CMP_LAYER_STATE (n : Nat) : RegOf Part.CMP_LAYER_STATE (Reg.CMP_LAYER_STATE n)
  | CMP_LAYER_TAG (n : Nat) : RegOf Part.CMP_LAYER_TAG (Reg.CMP_LAYER_TAG n)
  | CMP_LAYER_RING (n : Nat) : RegOf Part.CMP_LAYER_RING (Reg.CMP_LAYER_RING n)
  | CMP_LAYER_SINCE (n : Nat) : RegOf Part.CMP_LAYER_SINCE (Reg.CMP_LAYER_SINCE n)
  | CMP_FENCE_LO (n : Nat) : RegOf Part.CMP_FENCE_LO (Reg.CMP_FENCE_LO n)
  | CMP_FENCE_HI (n : Nat) : RegOf Part.CMP_FENCE_HI (Reg.CMP_FENCE_HI n)
  | CMP_RASTER (n : Nat) : RegOf Part.CMP_RASTER (Reg.CMP_RASTER n)
  | CMP_COLOUR : RegOf Part.CMP_COLOUR Reg.CMP_COLOUR
  | CMP_CLAMP_COUNT : RegOf Part.CMP_CLAMP_COUNT Reg.CMP_CLAMP_COUNT
  | CMP_CAPTURE_ROWS : RegOf Part.CMP_CAPTURE_ROWS Reg.CMP_CAPTURE_ROWS
  | CMP_CAPTURE_SKIPPED : RegOf Part.CMP_CAPTURE_SKIPPED Reg.CMP_CAPTURE_SKIPPED
  | CMP_BG_RG (n : Nat) : RegOf Part.CMP_BG_RG (Reg.CMP_BG_RG n)
  | CMP_BG_B (n : Nat) : RegOf Part.CMP_BG_B (Reg.CMP_BG_B n)
  | CMP_ROW_STAT (n : Nat) : RegOf Part.CMP_ROW_STAT (Reg.CMP_ROW_STAT n)
  | CMP_ROWS_COMPOSED (n : Nat) : RegOf Part.CMP_ROWS_COMPOSED (Reg.CMP_ROWS_COMPOSED n)
  | CMP_BLOCKS_DROPPED (n : Nat) : RegOf Part.CMP_BLOCKS_DROPPED (Reg.CMP_BLOCKS_DROPPED n)
  | CMP_BLOCKS_HELD (n : Nat) : RegOf Part.CMP_BLOCKS_HELD (Reg.CMP_BLOCKS_HELD n)
  | CMP_HANDOFF_WAITS (n : Nat) : RegOf Part.CMP_HANDOFF_WAITS (Reg.CMP_HANDOFF_WAITS n)
  | CMP_SRC_PIXELS (n : Nat) : RegOf Part.CMP_SRC_PIXELS (Reg.CMP_SRC_PIXELS n)
  | ENC_CFG : RegOf Part.ENC_CFG Reg.ENC_CFG
  | ENC_CELL_STAT (n : Nat) : RegOf Part.ENC_CELL_STAT (Reg.ENC_CELL_STAT n)
  | ENC_ROWS (n : Nat) : RegOf Part.ENC_ROWS (Reg.ENC_ROWS n)
  | ENC_BITS_LO (n : Nat) : RegOf Part.ENC_BITS_LO (Reg.ENC_BITS_LO n)
  | ENC_BITS_HI (n : Nat) : RegOf Part.ENC_BITS_HI (Reg.ENC_BITS_HI n)
  | ENC_BLK_SKIP (n : Nat) : RegOf Part.ENC_BLK_SKIP (Reg.ENC_BLK_SKIP n)
  | ENC_BLK_LTSKIP (n : Nat) : RegOf Part.ENC_BLK_LTSKIP (Reg.ENC_BLK_LTSKIP n)
  | ENC_BLK_DCOPY (n : Nat) : RegOf Part.ENC_BLK_DCOPY (Reg.ENC_BLK_DCOPY n)
  | ENC_BLK_INTRA (n : Nat) : RegOf Part.ENC_BLK_INTRA (Reg.ENC_BLK_INTRA n)
  | ENC_BLK_RAW (n : Nat) : RegOf Part.ENC_BLK_RAW (Reg.ENC_BLK_RAW n)
  | ENC_BLK_FLOOR (n : Nat) : RegOf Part.ENC_BLK_FLOOR (Reg.ENC_BLK_FLOOR n)
  | ENC_OCHRE_ROWS (n : Nat) : RegOf Part.ENC_OCHRE_ROWS (Reg.ENC_OCHRE_ROWS n)
  | ENC_KEY_ROWS (n : Nat) : RegOf Part.ENC_KEY_ROWS (Reg.ENC_KEY_ROWS n)
  | ENC_HOLD_SEGS (n : Nat) : RegOf Part.ENC_HOLD_SEGS (Reg.ENC_HOLD_SEGS n)
  | ENC_ROWS_LOSSLESS (n : Nat) : RegOf Part.ENC_ROWS_LOSSLESS (Reg.ENC_ROWS_LOSSLESS n)
  | ENC_RETRIES (n : Nat) : RegOf Part.ENC_RETRIES (Reg.ENC_RETRIES n)
  | DEC_CFG : RegOf Part.DEC_CFG Reg.DEC_CFG
  | DEC_CASCADE_DOMAIN : RegOf Part.DEC_CASCADE_DOMAIN Reg.DEC_CASCADE_DOMAIN
  | DEC_CELL_STAT (n : Nat) : RegOf Part.DEC_CELL_STAT (Reg.DEC_CELL_STAT n)
  | DEC_ROWS (n : Nat) : RegOf Part.DEC_ROWS (Reg.DEC_ROWS n)
  | DEC_SEG_KEPT (n : Nat) : RegOf Part.DEC_SEG_KEPT (Reg.DEC_SEG_KEPT n)
  | DEC_SEG_DISCARDED (n : Nat) : RegOf Part.DEC_SEG_DISCARDED (Reg.DEC_SEG_DISCARDED n)
  | DEC_SEG_ERRORS (n : Nat) : RegOf Part.DEC_SEG_ERRORS (Reg.DEC_SEG_ERRORS n)
  | DEC_RETRIES (n : Nat) : RegOf Part.DEC_RETRIES (Reg.DEC_RETRIES n)
  | DEC_LATE_ROWS (n : Nat) : RegOf Part.DEC_LATE_ROWS (Reg.DEC_LATE_ROWS n)
  | DEC_SLATE_ROWS (n : Nat) : RegOf Part.DEC_SLATE_ROWS (Reg.DEC_SLATE_ROWS n)
  | DEC_REF_MISSING (n : Nat) : RegOf Part.DEC_REF_MISSING (Reg.DEC_REF_MISSING n)
  | DEC_HOLDS (n : Nat) : RegOf Part.DEC_HOLDS (Reg.DEC_HOLDS n)
  | DEC_LAST_ERR (n : Nat) : RegOf Part.DEC_LAST_ERR (Reg.DEC_LAST_ERR n)
  | DEC_LAST_HOLD (n : Nat) : RegOf Part.DEC_LAST_HOLD (Reg.DEC_LAST_HOLD n)
  | LNK_CFG : RegOf Part.LNK_CFG Reg.LNK_CFG
  | LNK_EQ_CFG : RegOf Part.LNK_EQ_CFG Reg.LNK_EQ_CFG
  | LNK_RET_STAT : RegOf Part.LNK_RET_STAT Reg.LNK_RET_STAT
  | LNK_RET_GIVEUP : RegOf Part.LNK_RET_GIVEUP Reg.LNK_RET_GIVEUP
  | LNK_PORT_CFG (n i : Nat) : RegOf Part.LNK_PORT_CFG (Reg.LNK_PORT_CFG n i)
  | LNK_STATE (n i : Nat) : RegOf Part.LNK_STATE (Reg.LNK_STATE n i)
  | LNK_FOM (n i : Nat) : RegOf Part.LNK_FOM (Reg.LNK_FOM n i)
  | LNK_DFE (n i : Nat) : RegOf Part.LNK_DFE (Reg.LNK_DFE n i)
  | LNK_DESKEW (n i : Nat) : RegOf Part.LNK_DESKEW (Reg.LNK_DESKEW n i)
  | LNK_WORD_ERR (n i : Nat) : RegOf Part.LNK_WORD_ERR (Reg.LNK_WORD_ERR n i)
  | LNK_CW_ERR (n i : Nat) : RegOf Part.LNK_CW_ERR (Reg.LNK_CW_ERR n i)
  | LNK_HDR_CRC_ERR (n i : Nat) : RegOf Part.LNK_HDR_CRC_ERR (Reg.LNK_HDR_CRC_ERR n i)
  | LNK_PAY_CRC_ERR (n i : Nat) : RegOf Part.LNK_PAY_CRC_ERR (Reg.LNK_PAY_CRC_ERR n i)
  | LNK_LOCK_LOSS (n i : Nat) : RegOf Part.LNK_LOCK_LOSS (Reg.LNK_LOCK_LOSS n i)
  | LNK_RETRAINS (n i : Nat) : RegOf Part.LNK_RETRAINS (Reg.LNK_RETRAINS n i)
  | LNK_EQ_STEPS (n i : Nat) : RegOf Part.LNK_EQ_STEPS (Reg.LNK_EQ_STEPS n i)
  | LNK_KEYREQ_RX (n i : Nat) : RegOf Part.LNK_KEYREQ_RX (Reg.LNK_KEYREQ_RX n i)
  | LNK_CELL_DROP (n i : Nat) : RegOf Part.LNK_CELL_DROP (Reg.LNK_CELL_DROP n i)
  | LNK_PKT_UNKNOWN (n i : Nat) : RegOf Part.LNK_PKT_UNKNOWN (Reg.LNK_PKT_UNKNOWN n i)
  | LNK_TEST (n i : Nat) : RegOf Part.LNK_TEST (Reg.LNK_TEST n i)
  | PAIR_STATE : RegOf Part.PAIR_STATE Reg.PAIR_STATE
  | PAIR_CFG : RegOf Part.PAIR_CFG Reg.PAIR_CFG
  | PAIR_EPOCH : RegOf Part.PAIR_EPOCH Reg.PAIR_EPOCH
  | PAIR_CLEAN : RegOf Part.PAIR_CLEAN Reg.PAIR_CLEAN
  | PAIR_FEED : RegOf Part.PAIR_FEED Reg.PAIR_FEED
  | PAIR_OBSERVED : RegOf Part.PAIR_OBSERVED Reg.PAIR_OBSERVED
  | PAIR_COMPARED_LO : RegOf Part.PAIR_COMPARED_LO Reg.PAIR_COMPARED_LO
  | PAIR_COMPARED_HI : RegOf Part.PAIR_COMPARED_HI Reg.PAIR_COMPARED_HI
  | PAIR_MISMATCHED : RegOf Part.PAIR_MISMATCHED Reg.PAIR_MISMATCHED
  | PAIR_EXCUSED : RegOf Part.PAIR_EXCUSED Reg.PAIR_EXCUSED
  | PAIR_DECISIONS : RegOf Part.PAIR_DECISIONS Reg.PAIR_DECISIONS
  | PAIR_TAKEOVERS : RegOf Part.PAIR_TAKEOVERS Reg.PAIR_TAKEOVERS
  | PAIR_LAST_MISMATCH : RegOf Part.PAIR_LAST_MISMATCH Reg.PAIR_LAST_MISMATCH
  | PAIR_PKT_UNKNOWN : RegOf Part.PAIR_PKT_UNKNOWN Reg.PAIR_PKT_UNKNOWN
  | PAIR_PARTNER_SERIAL_LO : RegOf Part.PAIR_PARTNER_SERIAL_LO Reg.PAIR_PARTNER_SERIAL_LO
  | PAIR_PARTNER_SERIAL_HI : RegOf Part.PAIR_PARTNER_SERIAL_HI Reg.PAIR_PARTNER_SERIAL_HI
  | PAIR_HOP_DELAY : RegOf Part.PAIR_HOP_DELAY Reg.PAIR_HOP_DELAY
  | PAIR_TEST : RegOf Part.PAIR_TEST Reg.PAIR_TEST
  | PAIR_LINK_LOSSES : RegOf Part.PAIR_LINK_LOSSES Reg.PAIR_LINK_LOSSES
  | LMP_CFG : RegOf Part.LMP_CFG Reg.LMP_CFG
  | LMP_GAIN_CFG : RegOf Part.LMP_GAIN_CFG Reg.LMP_GAIN_CFG
  | LMP_CEIL_CFG : RegOf Part.LMP_CEIL_CFG Reg.LMP_CEIL_CFG
  | LMP_CEIL_LIMITS : RegOf Part.LMP_CEIL_LIMITS Reg.LMP_CEIL_LIMITS
  | LMP_CEIL_STEP : RegOf Part.LMP_CEIL_STEP Reg.LMP_CEIL_STEP
  | LMP_CEIL : RegOf Part.LMP_CEIL Reg.LMP_CEIL
  | LMP_CEIL_START_LO : RegOf Part.LMP_CEIL_START_LO Reg.LMP_CEIL_START_LO
  | LMP_CEIL_START_HI : RegOf Part.LMP_CEIL_START_HI Reg.LMP_CEIL_START_HI
  | LMP_HEADROOM : RegOf Part.LMP_HEADROOM Reg.LMP_HEADROOM
  | LMP_SET : RegOf Part.LMP_SET Reg.LMP_SET
  | LMP_WEAR_CYCLES : RegOf Part.LMP_WEAR_CYCLES Reg.LMP_WEAR_CYCLES
  | LMP_LIMITED_PIXELS : RegOf Part.LMP_LIMITED_PIXELS Reg.LMP_LIMITED_PIXELS
  | LMP_SATURATED : RegOf Part.LMP_SATURATED Reg.LMP_SATURATED
  | LMP_SAMPLES_LOST : RegOf Part.LMP_SAMPLES_LOST Reg.LMP_SAMPLES_LOST
  | LMP_TAKEBACK_SHORT : RegOf Part.LMP_TAKEBACK_SHORT Reg.LMP_TAKEBACK_SHORT
  | LMP_GREY_APPLIED : RegOf Part.LMP_GREY_APPLIED Reg.LMP_GREY_APPLIED
  | LMP_UNCORRECTABLE : RegOf Part.LMP_UNCORRECTABLE Reg.LMP_UNCORRECTABLE
  | LMP_GAIN_CAPPED : RegOf Part.LMP_GAIN_CAPPED Reg.LMP_GAIN_CAPPED
  | LMP_RAMPS : RegOf Part.LMP_RAMPS Reg.LMP_RAMPS
  | LMP_BASE_RECA : RegOf Part.LMP_BASE_RECA Reg.LMP_BASE_RECA
  | LMP_BASE_RECB : RegOf Part.LMP_BASE_RECB Reg.LMP_BASE_RECB
  | LMP_BASE_GAIN : RegOf Part.LMP_BASE_GAIN Reg.LMP_BASE_GAIN
  | LMP_BASE_DITHER : RegOf Part.LMP_BASE_DITHER Reg.LMP_BASE_DITHER
  | LMP_BASE_WEAR : RegOf Part.LMP_BASE_WEAR Reg.LMP_BASE_WEAR
  | LMP_LIM (n : Nat) : RegOf Part.LMP_LIM (Reg.LMP_LIM n)
  | LMP_CELL_STAT (n : Nat) : RegOf Part.LMP_CELL_STAT (Reg.LMP_CELL_STAT n)
  | LMP_ROWS (n : Nat) : RegOf Part.LMP_ROWS (Reg.LMP_ROWS n)
  | LMP_ROWS_FAILED (n : Nat) : RegOf Part.LMP_ROWS_FAILED (Reg.LMP_ROWS_FAILED n)
  | LMP_RETRIES (n : Nat) : RegOf Part.LMP_RETRIES (Reg.LMP_RETRIES n)
  | SCN_FRAME_ADDR : RegOf Part.SCN_FRAME_ADDR Reg.SCN_FRAME_ADDR
  | SCN_PIPE_BASE0 : RegOf Part.SCN_PIPE_BASE0 Reg.SCN_PIPE_BASE0
  | SCN_PIPE_BASE1 : RegOf Part.SCN_PIPE_BASE1 Reg.SCN_PIPE_BASE1
  | SCN_STAT : RegOf Part.SCN_STAT Reg.SCN_STAT
  | DRV_SYNC_COUNT : RegOf Part.DRV_SYNC_COUNT Reg.DRV_SYNC_COUNT
  | SCN_RANGE_ERR : RegOf Part.SCN_RANGE_ERR Reg.SCN_RANGE_ERR
  | SCN_CRC_XY (n : Nat) : RegOf Part.SCN_CRC_XY (Reg.SCN_CRC_XY n)
  | SCN_CRC_WH (n : Nat) : RegOf Part.SCN_CRC_WH (Reg.SCN_CRC_WH n)
  | SCN_CRC_VAL (n : Nat) : RegOf Part.SCN_CRC_VAL (Reg.SCN_CRC_VAL n)
  | SCN_CRC_TICK (n : Nat) : RegOf Part.SCN_CRC_TICK (Reg.SCN_CRC_TICK n)
  | DRV_PROF_A (n : Nat) : RegOf Part.DRV_PROF_A (Reg.DRV_PROF_A n)
  | DRV_PROF_B (n : Nat) : RegOf Part.DRV_PROF_B (Reg.DRV_PROF_B n)
  | DRV_TE_CFG (n : Nat) : RegOf Part.DRV_TE_CFG (Reg.DRV_TE_CFG n)
  | DRV_TE_STAT (n : Nat) : RegOf Part.DRV_TE_STAT (Reg.DRV_TE_STAT n)
  | DRV_TE_MISSING (n : Nat) : RegOf Part.DRV_TE_MISSING (Reg.DRV_TE_MISSING n)
  | DRV_TE_OVERRUN (n : Nat) : RegOf Part.DRV_TE_OVERRUN (Reg.DRV_TE_OVERRUN n)
  | DRV_GROUP_CFG (n i : Nat) : RegOf Part.DRV_GROUP_CFG (Reg.DRV_GROUP_CFG n i)
  | DRV_GROUP_STAT (n i : Nat) : RegOf Part.DRV_GROUP_STAT (Reg.DRV_GROUP_STAT n i)
  | DRV_LOADS (n i : Nat) : RegOf Part.DRV_LOADS (Reg.DRV_LOADS n i)
  | DRV_CUTS (n i : Nat) : RegOf Part.DRV_CUTS (Reg.DRV_CUTS n i)
  | DRV_FETCH_FAIL (n i : Nat) : RegOf Part.DRV_FETCH_FAIL (Reg.DRV_FETCH_FAIL n i)
  | DRV_RB_ERR (n i : Nat) : RegOf Part.DRV_RB_ERR (Reg.DRV_RB_ERR n i)
  | DRV_RB_PINS (n i : Nat) : RegOf Part.DRV_RB_PINS (Reg.DRV_RB_PINS n i)
  | DRV_STATUS_READS (n i : Nat) : RegOf Part.DRV_STATUS_READS (Reg.DRV_STATUS_READS n i)
  | LBD_CFG : RegOf Part.LBD_CFG Reg.LBD_CFG
  | LBD_FAULT_CFG : RegOf Part.LBD_FAULT_CFG Reg.LBD_FAULT_CFG
  | LBD_LIFE_CFG : RegOf Part.LBD_LIFE_CFG Reg.LBD_LIFE_CFG
  | LBD_WEAR_STORE : RegOf Part.LBD_WEAR_STORE Reg.LBD_WEAR_STORE
  | LBD_TEST : RegOf Part.LBD_TEST Reg.LBD_TEST
  | LBD_GREY_PULSES : RegOf Part.LBD_GREY_PULSES Reg.LBD_GREY_PULSES
  | LBD_WEAR_WRITES : RegOf Part.LBD_WEAR_WRITES Reg.LBD_WEAR_WRITES
  | LBD_SIG_FAIL : RegOf Part.LBD_SIG_FAIL Reg.LBD_SIG_FAIL
  | LBD_FLOG_HEAD : RegOf Part.LBD_FLOG_HEAD Reg.LBD_FLOG_HEAD
  | LBD_UNVERIFIED : RegOf Part.LBD_UNVERIFIED Reg.LBD_UNVERIFIED
  | LBD_BOARD_STAT (n : Nat) : RegOf Part.LBD_BOARD_STAT (Reg.LBD_BOARD_STAT n)
  | LBD_BOARD_FAULTS (n : Nat) : RegOf Part.LBD_BOARD_FAULTS (Reg.LBD_BOARD_FAULTS n)
  | LBD_BOARD_UNVER (n : Nat) : RegOf Part.LBD_BOARD_UNVER (Reg.LBD_BOARD_UNVER n)
  | LBD_BOARD_TEMP (n : Nat) : RegOf Part.LBD_BOARD_TEMP (Reg.LBD_BOARD_TEMP n)
  | LBD_BOARD_SERIAL (n i : Nat) : RegOf Part.LBD_BOARD_SERIAL (Reg.LBD_BOARD_SERIAL n i)
  | LBD_FLOG_CHAN (n : Nat) : RegOf Part.LBD_FLOG_CHAN (Reg.LBD_FLOG_CHAN n)
  | LBD_FLOG_INFO (n : Nat) : RegOf Part.LBD_FLOG_INFO (Reg.LBD_FLOG_INFO n)
  | LBD_FLOG_TICK (n : Nat) : RegOf Part.LBD_FLOG_TICK (Reg.LBD_FLOG_TICK n)
  | LBD_BUS_STAT (n i : Nat) : RegOf Part.LBD_BUS_STAT (Reg.LBD_BUS_STAT n i)
  | LBD_BUS_ERR (n i : Nat) : RegOf Part.LBD_BUS_ERR (Reg.LBD_BUS_ERR n i)
  | LBD_GREY_DEFERRED (n : Nat) : RegOf Part.LBD_GREY_DEFERRED (Reg.LBD_GREY_DEFERRED n)
  | LBD_READOUTS_DISCARDED (n : Nat) : RegOf Part.LBD_READOUTS_DISCARDED (Reg.LBD_READOUTS_DISCARDED n)
  | AUD_STATE : RegOf Part.AUD_STATE Reg.AUD_STATE
  | AUD_SAMPLE_LO : RegOf Part.AUD_SAMPLE_LO Reg.AUD_SAMPLE_LO
  | AUD_SAMPLE_HI : RegOf Part.AUD_SAMPLE_HI Reg.AUD_SAMPLE_HI
  | AUD_LEAD : RegOf Part.AUD_LEAD Reg.AUD_LEAD
  | AUD_PLAY_RUN : RegOf Part.AUD_PLAY_RUN Reg.AUD_PLAY_RUN
  | AUD_CAP_RUN : RegOf Part.AUD_CAP_RUN Reg.AUD_CAP_RUN
  | AUD_MISSING : RegOf Part.AUD_MISSING Reg.AUD_MISSING
  | AUD_MASK_LATE : RegOf Part.AUD_MASK_LATE Reg.AUD_MASK_LATE
  | AUD_UNDERRUN (n : Nat) : RegOf Part.AUD_UNDERRUN (Reg.AUD_UNDERRUN n)
  | AUD_OVERRUN (n : Nat) : RegOf Part.AUD_OVERRUN (Reg.AUD_OVERRUN n)
  | AUD_PORT_CFG (n i : Nat) : RegOf Part.AUD_PORT_CFG (Reg.AUD_PORT_CFG n i)
  | AUD_PORT_STAT (n i : Nat) : RegOf Part.AUD_PORT_STAT (Reg.AUD_PORT_STAT n i)
  | AUD_MASK (n i : Nat) : RegOf Part.AUD_MASK (Reg.AUD_MASK n i)
  | AUD_MASK_SHADOW (n i : Nat) : RegOf Part.AUD_MASK_SHADOW (Reg.AUD_MASK_SHADOW n i)
  | AUD_RATE (n i : Nat) : RegOf Part.AUD_RATE (Reg.AUD_RATE n i)
  | AUD_RATIO (n i : Nat) : RegOf Part.AUD_RATIO (Reg.AUD_RATIO n i)
  | AUD_FRAME_ERR (n i : Nat) : RegOf Part.AUD_FRAME_ERR (Reg.AUD_FRAME_ERR n i)
  | AUD_CLOCK_LOSS (n i : Nat) : RegOf Part.AUD_CLOCK_LOSS (Reg.AUD_CLOCK_LOSS n i)
  | AUD_RELOCKS (n i : Nat) : RegOf Part.AUD_RELOCKS (Reg.AUD_RELOCKS n i)
  | MTR_STATE : RegOf Part.MTR_STATE Reg.MTR_STATE
  | MTR_HEALTH : RegOf Part.MTR_HEALTH Reg.MTR_HEALTH
  | MTR_INTERVAL_LO : RegOf Part.MTR_INTERVAL_LO Reg.MTR_INTERVAL_LO
  | MTR_INTERVAL_HI : RegOf Part.MTR_INTERVAL_HI Reg.MTR_INTERVAL_HI
  | MTR_MCLK_MEAS : RegOf Part.MTR_MCLK_MEAS Reg.MTR_MCLK_MEAS
  | MTR_FW_VERSION : RegOf Part.MTR_FW_VERSION Reg.MTR_FW_VERSION
  | MTR_LOG_COUNT : RegOf Part.MTR_LOG_COUNT Reg.MTR_LOG_COUNT
  | MTR_LOG_DROPPED : RegOf Part.MTR_LOG_DROPPED Reg.MTR_LOG_DROPPED
  | MTR_SEAL_BREAKS : RegOf Part.MTR_SEAL_BREAKS Reg.MTR_SEAL_BREAKS
  | MTR_REC_REQ : RegOf Part.MTR_REC_REQ Reg.MTR_REC_REQ
  | MTR_REC_STAT : RegOf Part.MTR_REC_STAT Reg.MTR_REC_STAT
  | MTR_FW_DIGEST (n : Nat) : RegOf Part.MTR_FW_DIGEST (Reg.MTR_FW_DIGEST n)
  | MTR_CAL_CMD : RegOf Part.MTR_CAL_CMD Reg.MTR_CAL_CMD
  | MTR_CAL_ARG0 : RegOf Part.MTR_CAL_ARG0 Reg.MTR_CAL_ARG0
  | MTR_CAL_ARG1 : RegOf Part.MTR_CAL_ARG1 Reg.MTR_CAL_ARG1
  | MTR_CAL_ARG2 : RegOf Part.MTR_CAL_ARG2 Reg.MTR_CAL_ARG2
  | MTR_CAL_CERT (n : Nat) : RegOf Part.MTR_CAL_CERT (Reg.MTR_CAL_CERT n)
  | MTR_CAL_STAT : RegOf Part.MTR_CAL_STAT Reg.MTR_CAL_STAT
  | MTR_CAL_DATA (n : Nat) : RegOf Part.MTR_CAL_DATA (Reg.MTR_CAL_DATA n)
  | MTR_REC (n : Nat) : RegOf Part.MTR_REC (Reg.MTR_REC n)
  | MTR_LOG (n : Nat) : RegOf Part.MTR_LOG (Reg.MTR_LOG n)
  | MTR_ENERGY_LO (n : Nat) : RegOf Part.MTR_ENERGY_LO (Reg.MTR_ENERGY_LO n)
  | MTR_ENERGY_HI (n : Nat) : RegOf Part.MTR_ENERGY_HI (Reg.MTR_ENERGY_HI n)
  | MTR_POWER (n : Nat) : RegOf Part.MTR_POWER (Reg.MTR_POWER n)
  | MTR_VRMS (n : Nat) : RegOf Part.MTR_VRMS (Reg.MTR_VRMS n)
  | MTR_IRMS (n : Nat) : RegOf Part.MTR_IRMS (Reg.MTR_IRMS n)
  | MTR_POINT_STAT (n : Nat) : RegOf Part.MTR_POINT_STAT (Reg.MTR_POINT_STAT n)
  | THM_STATE : RegOf Part.THM_STATE Reg.THM_STATE
  | THM_CFG : RegOf Part.THM_CFG Reg.THM_CFG
  | THM_THR : RegOf Part.THM_THR Reg.THM_THR
  | THM_KNEE : RegOf Part.THM_KNEE Reg.THM_KNEE
  | THM_WINDOW : RegOf Part.THM_WINDOW Reg.THM_WINDOW
  | THM_CCLK : RegOf Part.THM_CCLK Reg.THM_CCLK
  | THM_TH : RegOf Part.THM_TH Reg.THM_TH
  | THM_CAUSE : RegOf Part.THM_CAUSE Reg.THM_CAUSE
  | THM_QUEUE : RegOf Part.THM_QUEUE Reg.THM_QUEUE
  | THM_TEST : RegOf Part.THM_TEST Reg.THM_TEST
  | THM_STEPS_DOWN : RegOf Part.THM_STEPS_DOWN Reg.THM_STEPS_DOWN
  | THM_STEPS_UP : RegOf Part.THM_STEPS_UP Reg.THM_STEPS_UP
  | THM_CCLK_STEPS : RegOf Part.THM_CCLK_STEPS Reg.THM_CCLK_STEPS
  | THM_WRITES_DEFERRED : RegOf Part.THM_WRITES_DEFERRED Reg.THM_WRITES_DEFERRED
  | THM_POWER_CORE : RegOf Part.THM_POWER_CORE Reg.THM_POWER_CORE
  | THM_POWER_LED : RegOf Part.THM_POWER_LED Reg.THM_POWER_LED
  | THM_NODE (n : Nat) : RegOf Part.THM_NODE (Reg.THM_NODE n)
  | THM_DIODE (n : Nat) : RegOf Part.THM_DIODE (Reg.THM_DIODE n)
  | THM_LAMP_T (n : Nat) : RegOf Part.THM_LAMP_T (Reg.THM_LAMP_T n)
  | THM_LAMP_S (n : Nat) : RegOf Part.THM_LAMP_S (Reg.THM_LAMP_S n)
  | CTL_BOOT : RegOf Part.CTL_BOOT Reg.CTL_BOOT
  | CTL_UMBER : RegOf Part.CTL_UMBER Reg.CTL_UMBER
  | CTL_BOOT_TIME : RegOf Part.CTL_BOOT_TIME Reg.CTL_BOOT_TIME
  | CTL_WDOG : RegOf Part.CTL_WDOG Reg.CTL_WDOG
  | CTL_SERIAL_LO : RegOf Part.CTL_SERIAL_LO Reg.CTL_SERIAL_LO
  | CTL_SERIAL_HI : RegOf Part.CTL_SERIAL_HI Reg.CTL_SERIAL_HI
  | CTL_UPD_STATE : RegOf Part.CTL_UPD_STATE Reg.CTL_UPD_STATE
  | CTL_UPD_PROGRESS : RegOf Part.CTL_UPD_PROGRESS Reg.CTL_UPD_PROGRESS
  | CTL_UPD_RESULT : RegOf Part.CTL_UPD_RESULT Reg.CTL_UPD_RESULT
  | CTL_UPD_CFG : RegOf Part.CTL_UPD_CFG Reg.CTL_UPD_CFG
  | CTL_OTP_ROLLBACK : RegOf Part.CTL_OTP_ROLLBACK Reg.CTL_OTP_ROLLBACK
  | CTL_UMB_CMD : RegOf Part.CTL_UMB_CMD Reg.CTL_UMB_CMD
  | CTL_UMB_OFFSET : RegOf Part.CTL_UMB_OFFSET Reg.CTL_UMB_OFFSET
  | CTL_UMB_LENGTH : RegOf Part.CTL_UMB_LENGTH Reg.CTL_UMB_LENGTH
  | CTL_UMB_STAT : RegOf Part.CTL_UMB_STAT Reg.CTL_UMB_STAT
  | CTL_ATT_STAT : RegOf Part.CTL_ATT_STAT Reg.CTL_ATT_STAT
  | CTL_ATT_REPORT (n : Nat) : RegOf Part.CTL_ATT_REPORT (Reg.CTL_ATT_REPORT n)
  | CTL_UMB_BUF (n : Nat) : RegOf Part.CTL_UMB_BUF (Reg.CTL_UMB_BUF n)
  | CTL_EVT_STATUS (n : Nat) : RegOf Part.CTL_EVT_STATUS (Reg.CTL_EVT_STATUS n)
  | CTL_EVT_MASK (n : Nat) : RegOf Part.CTL_EVT_MASK (Reg.CTL_EVT_MASK n)
  | CTL_EVT_FWD (n : Nat) : RegOf Part.CTL_EVT_FWD (Reg.CTL_EVT_FWD n)
  | CTL_EVT_LOST : RegOf Part.CTL_EVT_LOST Reg.CTL_EVT_LOST
  | CTL_EVT_REMOTE_RX : RegOf Part.CTL_EVT_REMOTE_RX Reg.CTL_EVT_REMOTE_RX
  | CTL_EVT_FWD_LOST : RegOf Part.CTL_EVT_FWD_LOST Reg.CTL_EVT_FWD_LOST
  | CTL_EVT_COUNT (n : Nat) : RegOf Part.CTL_EVT_COUNT (Reg.CTL_EVT_COUNT n)
  | CTL_CNT_CFG (n : Nat) : RegOf Part.CTL_CNT_CFG (Reg.CTL_CNT_CFG n)
  | CTL_CNT_LO (n : Nat) : RegOf Part.CTL_CNT_LO (Reg.CTL_CNT_LO n)
  | CTL_CNT_HI (n : Nat) : RegOf Part.CTL_CNT_HI (Reg.CTL_CNT_HI n)
  | CTL_CNT_SNAP_LO (n : Nat) : RegOf Part.CTL_CNT_SNAP_LO (Reg.CTL_CNT_SNAP_LO n)
  | CTL_CNT_SNAP_HI (n : Nat) : RegOf Part.CTL_CNT_SNAP_HI (Reg.CTL_CNT_SNAP_HI n)
  | CTL_CNT_GLOBAL : RegOf Part.CTL_CNT_GLOBAL Reg.CTL_CNT_GLOBAL
  | CTL_CNT_OVF_A : RegOf Part.CTL_CNT_OVF_A Reg.CTL_CNT_OVF_A
  | CTL_CNT_OVF_B : RegOf Part.CTL_CNT_OVF_B Reg.CTL_CNT_OVF_B
  | CTL_CNT_SNAP_SEQ : RegOf Part.CTL_CNT_SNAP_SEQ Reg.CTL_CNT_SNAP_SEQ
  | CTL_CNT_SNAP_TICK_LO : RegOf Part.CTL_CNT_SNAP_TICK_LO Reg.CTL_CNT_SNAP_TICK_LO
  | CTL_CNT_SNAP_TICK_HI : RegOf Part.CTL_CNT_SNAP_TICK_HI Reg.CTL_CNT_SNAP_TICK_HI
  | CTL_ERR_STAT : RegOf Part.CTL_ERR_STAT Reg.CTL_ERR_STAT
  | CTL_ERR_CELL_RETRY : RegOf Part.CTL_ERR_CELL_RETRY Reg.CTL_ERR_CELL_RETRY
  | CTL_ERR_CELL_SUBST : RegOf Part.CTL_ERR_CELL_SUBST Reg.CTL_ERR_CELL_SUBST
  | CTL_ERR_BLOCK_RESTARTS : RegOf Part.CTL_ERR_BLOCK_RESTARTS Reg.CTL_ERR_BLOCK_RESTARTS
  | CTL_ERR_FENCES : RegOf Part.CTL_ERR_FENCES Reg.CTL_ERR_FENCES
  | CTL_ERR_CHIP : RegOf Part.CTL_ERR_CHIP Reg.CTL_ERR_CHIP
  | CTL_ALERT : RegOf Part.CTL_ALERT Reg.CTL_ALERT
  | CTL_ERR_HEAD : RegOf Part.CTL_ERR_HEAD Reg.CTL_ERR_HEAD
  | CTL_ERR_LOG_A (n : Nat) : RegOf Part.CTL_ERR_LOG_A (Reg.CTL_ERR_LOG_A n)
  | CTL_ERR_LOG_TICK (n : Nat) : RegOf Part.CTL_ERR_LOG_TICK (Reg.CTL_ERR_LOG_TICK n)
  | CTL_ERR_LOG_ROW (n : Nat) : RegOf Part.CTL_ERR_LOG_ROW (Reg.CTL_ERR_LOG_ROW n)
  | CTL_SVC_CFG_A : RegOf Part.CTL_SVC_CFG_A Reg.CTL_SVC_CFG_A
  | CTL_SVC_CFG_B : RegOf Part.CTL_SVC_CFG_B Reg.CTL_SVC_CFG_B
  | CTL_SVC_IN : RegOf Part.CTL_SVC_IN Reg.CTL_SVC_IN
  | HRG_MSIX_ADDR_LO (n : Nat) : RegOf Part.HRG_MSIX_ADDR_LO (Reg.HRG_MSIX_ADDR_LO n)
  | HRG_MSIX_ADDR_HI (n : Nat) : RegOf Part.HRG_MSIX_ADDR_HI (Reg.HRG_MSIX_ADDR_HI n)
  | HRG_MSIX_DATA (n : Nat) : RegOf Part.HRG_MSIX_DATA (Reg.HRG_MSIX_DATA n)
  | HRG_MSIX_CTL (n : Nat) : RegOf Part.HRG_MSIX_CTL (Reg.HRG_MSIX_CTL n)
  | HRG_MSIX_PBA (n : Nat) : RegOf Part.HRG_MSIX_PBA (Reg.HRG_MSIX_PBA n)

/-- Part `p` is in the list, or the two values are the same. -/
def Same {α : Type} (p : Nat) (l : List Nat) (a b : α) : Prop := p ∈ l ∨ b = a

/-- `t` differs from `s` in the parts of `l` only; the queue apart, which the step sets. -/
structure State.Only (l : List Nat) (s t : State) : Prop where
  tick : Same Part.tick l s.tick t.tick
  link : Same Part.link l s.link t.link
  tiles : Same Part.tiles l s.tiles t.tiles
  chans : Same Part.chans l s.chans t.chans
  host : Same Part.host l s.host t.host
  plan : Same Part.plan l s.plan t.plan
  boot : Same Part.boot l s.boot t.boot
  therm : Same Part.therm l s.therm t.therm
  pairUnit : Same Part.pairUnit l s.pairUnit t.pairUnit
  video : Same Part.video l s.video t.video
  lamp : Same Part.lamp l s.lamp t.lamp
  wall : Same Part.wall l s.wall t.wall
  audio : Same Part.audio l s.audio t.audio
  meter : Same Part.meter l s.meter t.meter
  jtag : Same Part.jtag l s.jtag t.jtag
  rings : Same Part.rings l s.io.rings t.io.rings
  tc : Same Part.caches l s.io.tc t.io.tc
  walks : Same Part.caches l s.io.walks t.io.walks
  ops : Same Part.caches l s.io.ops t.io.ops
  reads : Same Part.caches l s.io.reads t.io.reads
  badReads : Same Part.caches l s.io.badReads t.io.badReads
  bar2 : Same Part.caches l s.io.bar2 t.io.bar2
  owed : Same Part.caches l s.io.owed t.io.owed
  maxRead : Same Part.caches l s.io.maxRead t.io.maxRead
  dram : Same Part.dram l s.io.dram t.io.dram
  cnt : Same Part.collector l s.io.cnt t.io.cnt
  fwd : Same Part.collector l s.io.fwd t.io.fwd
  fwdLost : Same Part.collector l s.io.fwdLost t.io.fwdLost
  once : Same Part.collector l s.io.once t.io.once
  latch : Same Part.latches l s.io.latch t.io.latch
  wideHold : Same Part.latches l s.io.wideHold t.io.wideHold
  snap : Same Part.latches l s.io.snap t.io.snap
  meterUp : Same Part.power l s.io.meterUp t.io.meterUp
  linkUp : Same Part.power l s.io.linkUp t.io.linkUp
  d3hot : Same Part.power l s.io.d3hot t.io.d3hot
  out : Same Part.out l s.io.out t.io.out
  fresh : Same Part.fresh l s.io.fresh t.io.fresh
  now : Same Part.now l s.io.now t.io.now
  regs : ∀ a, (∀ p, p ∈ l → ¬ RegOf p a) → t.io.getReg a = s.io.getReg a

/-- The registers CTL_. -/
def Parts.CTL : List Nat := [Part.CTL_VARIANT, Part.CTL_TILE_ADDR, Part.CTL_IMG_INFO, Part.CTL_IMG_ROLLBACK, Part.CTL_IMG_WALL_SEQ, Part.CTL_IMG_WALL_ID_LO, Part.CTL_IMG_WALL_ID_HI, Part.CTL_IMG_DEFECT, Part.CTL_IMG_COMPILER, Part.CTL_IMG_DIGEST, Part.CTL_BOOT, Part.CTL_UMBER, Part.CTL_BOOT_TIME, Part.CTL_WDOG, Part.CTL_SERIAL_LO, Part.CTL_SERIAL_HI, Part.CTL_UPD_STATE, Part.CTL_UPD_PROGRESS, Part.CTL_UPD_RESULT, Part.CTL_UPD_CFG, Part.CTL_OTP_ROLLBACK, Part.CTL_UMB_CMD, Part.CTL_UMB_OFFSET, Part.CTL_UMB_LENGTH, Part.CTL_UMB_STAT, Part.CTL_ATT_STAT, Part.CTL_ATT_REPORT, Part.CTL_UMB_BUF, Part.CTL_EVT_STATUS, Part.CTL_EVT_MASK, Part.CTL_EVT_FWD, Part.CTL_EVT_LOST, Part.CTL_EVT_REMOTE_RX, Part.CTL_EVT_FWD_LOST, Part.CTL_EVT_COUNT, Part.CTL_CNT_CFG, Part.CTL_CNT_LO, Part.CTL_CNT_HI, Part.CTL_CNT_SNAP_LO, Part.CTL_CNT_SNAP_HI, Part.CTL_CNT_GLOBAL, Part.CTL_CNT_OVF_A, Part.CTL_CNT_OVF_B, Part.CTL_CNT_SNAP_SEQ, Part.CTL_CNT_SNAP_TICK_LO, Part.CTL_CNT_SNAP_TICK_HI, Part.CTL_ERR_STAT, Part.CTL_ERR_CELL_RETRY, Part.CTL_ERR_CELL_SUBST, Part.CTL_ERR_BLOCK_RESTARTS, Part.CTL_ERR_FENCES, Part.CTL_ERR_CHIP, Part.CTL_ALERT, Part.CTL_ERR_HEAD, Part.CTL_ERR_LOG_A, Part.CTL_ERR_LOG_TICK, Part.CTL_ERR_LOG_ROW, Part.CTL_SVC_CFG_A, Part.CTL_SVC_CFG_B, Part.CTL_SVC_IN]
/-- The registers TCK_. -/
def Parts.TCK : List Nat := List.range' Part.TCK_STATE 24
/-- The registers HRG_. -/
def Parts.HRG : List Nat := [Part.HRG_LINK, Part.HRG_RIGHTS, Part.HRG_RING0_SQ_LO, Part.HRG_RING0_SQ_HI, Part.HRG_RING0_CQ_LO, Part.HRG_RING0_CQ_HI, Part.HRG_FETCH_CFG, Part.HRG_CPL_TIMEOUT, Part.HRG_DB_IGNORED, Part.HRG_RING_ERRORS, Part.HRG_LAST_ERR, Part.HRG_FN_RESETS, Part.HRG_OUTSTANDING, Part.HRG_EVT_VEC, Part.HRG_MSIX_ADDR_LO, Part.HRG_MSIX_ADDR_HI, Part.HRG_MSIX_DATA, Part.HRG_MSIX_CTL, Part.HRG_MSIX_PBA]
/-- The registers XLT_. -/
def Parts.XLT : List Nat := List.range' Part.XLT_OPT_CFG 21
/-- The registers DMC_. -/
def Parts.DMC : List Nat := List.range' Part.DMC_CFG 19
/-- The registers CMP_. -/
def Parts.CMP : List Nat := List.range' Part.CMP_COMMIT_CFG 28
/-- The registers ENC_. -/
def Parts.ENC : List Nat := List.range' Part.ENC_CFG 16
/-- The registers DEC_. -/
def Parts.DEC : List Nat := List.range' Part.DEC_CFG 14
/-- The registers LNK_. -/
def Parts.LNK : List Nat := List.range' Part.LNK_CFG 20
/-- The registers PAIR_. -/
def Parts.PAIR : List Nat := List.range' Part.PAIR_STATE 19
/-- The registers LMP_. -/
def Parts.LMP : List Nat := List.range' Part.LMP_CFG 29
/-- The registers SCN_. -/
def Parts.SCN : List Nat := [Part.SCN_FRAME_ADDR, Part.SCN_PIPE_BASE0, Part.SCN_PIPE_BASE1, Part.SCN_STAT, Part.SCN_RANGE_ERR, Part.SCN_CRC_XY, Part.SCN_CRC_WH, Part.SCN_CRC_VAL, Part.SCN_CRC_TICK]
/-- The registers DRV_. -/
def Parts.DRV : List Nat := [Part.DRV_SYNC_COUNT, Part.DRV_PROF_A, Part.DRV_PROF_B, Part.DRV_TE_CFG, Part.DRV_TE_STAT, Part.DRV_TE_MISSING, Part.DRV_TE_OVERRUN, Part.DRV_GROUP_CFG, Part.DRV_GROUP_STAT, Part.DRV_LOADS, Part.DRV_CUTS, Part.DRV_FETCH_FAIL, Part.DRV_RB_ERR, Part.DRV_RB_PINS, Part.DRV_STATUS_READS]
/-- The registers LBD_. -/
def Parts.LBD : List Nat := List.range' Part.LBD_CFG 22
/-- The registers AUD_. -/
def Parts.AUD : List Nat := List.range' Part.AUD_STATE 19
/-- The registers MTR_. -/
def Parts.MTR : List Nat := List.range' Part.MTR_STATE 27
/-- The registers THM_. -/
def Parts.THM : List Nat := List.range' Part.THM_STATE 20

end Sys2Proof.Machine
end

