-- ==== Sys2Proof/Safety.lean ====
section
/-! DEFINITION. What the statements about the device speak of: when an event is recorded, when a command is carried out and an entry or
a write is taken; the parts that the event collector, the rings, the operation tables and the translation may touch on behalf of any
command; and the form that memories and register files keep. -/

namespace Sys2Proof.Machine

/-- Event `e` has been recorded: its status bit is set (R504). -/
def State.recorded (s : State) (e : Nat) : Bool := s.io.evtStatus e

/-- Command `c` is carried out in `s`: it answers a next state, and `P` holds of it. -/
def Completes (c : Instr) (s : State) (P : State → Prop) : Prop := ∃ t, exec c s = .next t ∧ P t

/-- Event `e` is recorded in `t` where it can fire in `s` (R503, R504): the collector runs, and the part has the subsystem. -/
def Fires (e : Nat) (s t : State) : Prop := s.io.canFire { event := e } = true → t.recorded e = true

/-- Event `e` of region `n` is recorded in `t` where it can fire in `s`. -/
def FiresIn (e n : Nat) (s t : State) : Prop := s.io.canFire { event := e, region := some n } = true → t.recorded e = true

/-- Entry `i` of ring `n`, with bytes `e`, is the one to be executed (R118), it has opcode `op`, and none of the statuses that are
common to all opcodes applies to it (R113, R115). -/
structure Io.Ready (s : Io) (n i op : Nat) (need64 fieldsOk : Bool) (e : List Byte) : Prop where
  entry : (s.ring n).entryAt i = some e
  opcode : fieldAt e 0 1 = op
  status : s.entryStatus n (s.ring n) e need64 fieldsOk = none

/-- A write of register `a` by path `p` reaches it (R104, R487): the path is open, the device is not in Umber mode, BAR0 only in OPERATIONAL,
and the part has the register. -/
structure State.Accepts (s : State) (p : RegPath) (a : Nat) : Prop where
  opened : s.pathOpen p = true
  mode : s.io.boot ≠ stUMBER
  host : p = .bar0 → s.io.operational = true
  present : s.io.regPresent a = true

/-- A calibration command of path `p` is taken (R447, R453): the write arrives, the metering domain has power, MTR_CAL_EN is asserted, no
command runs and no seal is pending. -/
structure State.CalReady (s : State) (p : RegPath) : Prop where
  accepts : s.Accepts p Reg.MTR_CAL_CMD
  power : s.io.meterUp = true
  enabled : s.isF Fld.MTR_HEALTH_CAL_EN = true
  idle : s.isF Fld.MTR_CAL_STAT_BUSY = false
  unsealed : s.isF Fld.MTR_CAL_STAT_SEAL_PENDING = false

/-- No STAGE entry runs, or has been carried out and waits for its operations to end (R495). -/
def State.stageIdle (s : State) : Prop := s.boot.stage.job = none ∧ ∀ o ∈ s.io.owed, fieldAt o.entry 0 1 ≠ 0x42

/-- The parts that an event, a completion or an access to memory may touch on behalf of any command. -/
def Parts.shared : List Nat :=
  [Part.rings, Part.caches, Part.dram, Part.collector, Part.out, Part.HRG_RING_ERRORS, Part.HRG_LAST_ERR, Part.HRG_OUTSTANDING, Part.XLT_WALKS,
   Part.XLT_WALK_COUNT, Part.XLT_FAULT_COUNT, Part.XLT_OPT_USE_A, Part.XLT_OPT_USE_B, Part.XLT_OPT_PEAK, Part.XLT_HELD_COUNT,
   Part.XLT_TC_HIT, Part.XLT_TC_MISS, Part.XLT_FAULT_HEAD, Part.XLT_FLOG_IOVA_LO, Part.XLT_FLOG_IOVA_HI, Part.XLT_FLOG_INFO,
   Part.XLT_FLOG_TICK, Part.CTL_EVT_STATUS, Part.CTL_EVT_LOST, Part.CTL_EVT_FWD_LOST, Part.CTL_EVT_COUNT, Part.CTL_CNT_OVF_A,
   Part.CTL_CNT_OVF_B, Part.HRG_MSIX_PBA]

/-- Device DRAM is in canonical form. -/
def Memory.wf (s : State) : Bool := Sparse.wf dramDefault s.io.dram

/-- The register file is in canonical form: each offset listed once, rising, and no register listed at its reset value. -/
def Registers.wf (s : State) : Bool := Sparse.wf regReset s.io.regs

end Sys2Proof.Machine
end

