-- ==== Sys2Proof/Certificates/Slice0/Obligations.lean ====
section
/-! DEFINITION. The statements about the device, for the provers. Each command of the table has a completion clause: under conditions on
the state and the operands alone it answers a next state, and the clause says of that state what the rules give; and each has a frame:
the parts of the state outside the list are unchanged. Names of operations in a clause are definitions of the model. -/

section

open Sys2Proof Sys2Proof.Machine

/-- A step takes the command at the front of the queue, first in, first out, and carries it out on the state with the queue's rest; on an empty queue the block idles (log 51). -/
def Obligations.StepTakesFrontCommand : Prop :=
  (∀ (s : State) (c : Instr) (rest : List Instr), s.pending = c :: rest → step s = exec c { s with pending := rest }) ∧
    (∀ s : State, s.pending = [] → step s = .next s)

/-- No command of the table ends in a fault or a refusal, whatever its operands and the state. -/
def Obligations.EveryCommandIsCarriedOut : Prop :=
  ∀ (c : Instr) (s : State), ∃ t, exec c s = .next t

/-- The effect of a command is on everything but the queue; only the step takes from it. -/
def Obligations.CommandsLeaveTheQueue : Prop :=
  ∀ (c : Instr) (s t : State), exec c s = .next t → t.pending = s.pending

/-- An invariant that every step keeps, from every state: device DRAM, the register file and the rings are held in canonical form, so that equal contents are equal data, and each of the four regions has its operation table. -/
def Obligations.StepKeepsCanonicalForm : Prop :=
  ∀ s t : State, step s = .next t → Registers.wf s = true → Memory.wf s = true → Sparse.wf (fun _ => ({} : Ring)) s.io.rings = true → s.io.ops.length = 4 →
      Registers.wf t = true ∧ Memory.wf t = true ∧ Sparse.wf (fun _ => ({} : Ring)) t.io.rings = true ∧ t.io.ops.length = 4

/-- The state after reset is in the form that `StepKeepsCanonicalForm` keeps. -/
def Obligations.ResetIsCanonical : Prop :=
  Registers.wf State.reset = true ∧ Memory.wf State.reset = true ∧ Sparse.wf (fun _ => ({} : Ring)) State.reset.io.rings = true ∧ State.reset.io.ops.length = 4

/-- The instant of the state (log 6) and the counter of the free values (log 2), fields of the model, never decrease. -/
def Obligations.TimeNeverGoesBack : Prop :=
  ∀ s t : State, step s = .next t → s.io.now ≤ t.io.now ∧ s.io.fresh ≤ t.io.fresh

/-- What reset leaves, by the register tables of the chapters; that DRAM lists nothing is log 3. -/
def Obligations.ResetValues : Prop :=
  State.reset.getF Fld.CTL_BOOT_STATE = stROM ∧ State.reset.io.getReg (Reg.CTL_EVT_MASK 0) = 0xFFFFFFFF ∧ State.reset.io.getReg Reg.CTL_UPD_CFG = 524888 ∧
    State.reset.io.getReg Reg.HRG_FETCH_CFG = 33554496 ∧ State.reset.io.getReg Reg.XLT_OPT_CFG = 33620224 ∧ State.reset.io.getReg Reg.DMC_ARB = 5248010 ∧
    State.reset.io.getReg Reg.CMP_COMMIT_CFG = 10760712 ∧ State.reset.io.getReg Reg.ENC_CFG = 4163 ∧ State.reset.io.getReg Reg.LNK_CFG = 179 ∧
    State.reset.io.getReg Reg.PAIR_CFG = 272587 ∧ State.reset.io.getReg Reg.LMP_GAIN_CFG = 90112 ∧ State.reset.io.getReg Reg.LBD_CFG = 65776 ∧
    State.reset.io.getReg Reg.THM_CCLK = 1000 ∧ State.reset.io.getReg (Reg.HRG_MSIX_CTL 0) = 1 ∧ State.reset.io.getReg Reg.MTR_REC_REQ = 1 ∧
    State.reset.io.rings = [] ∧ State.reset.io.dram = [] ∧ State.reset.pending = []

/-- Read after write of device DRAM, byte by byte, inside and outside the range written. -/
def Obligations.DramHoldsWhatIsWritten : Prop :=
  ∀ (s : Io) (a : Nat) (bs : List Byte) (b : Nat),
      (s.writeDram a bs).readDram b 1 = if a ≤ b ∧ b < a + bs.length then [bs.getD (b - a) 0] else s.readDram b 1

/-- R504: the effects of an occurrence, masked and unmasked, and reserved event numbers. -/
def Obligations.OccurrenceSetsStatusAndCount : Prop :=
  (∀ (s : State) (i b : Nat), i < 16 → b < 32 → eventDefined (32 * i + b) = false → s.clearStatus i (2 ^ b) [] = s) ∧
    ∀ (s : Io) (o : Occ),
      (eventDefined o.event = false → s.occur o = (s, [])) ∧
      (s.canFire o = true →
        (s.occur o).1.evtStatus o.event = true ∧
        (s.occur o).1.getF (Fld.CTL_EVT_COUNT o.event) = min (s.getF (Fld.CTL_EVT_COUNT o.event) + 1) 65535 ∧
        (s.evtMask o.event = true → (s.occur o).1.rings = s.rings ∧ (s.occur o).1.out = s.out ∧ (s.occur o).1.fwd = s.fwd ∧
          ∀ n, (s.occur o).1.getReg (Reg.HRG_MSIX_PBA n) = s.getReg (Reg.HRG_MSIX_PBA n)) ∧
        (s.evtMask o.event = false → ∃ (u : Io) (h : RecordHead), h.event = o.event ∧ h.obj = o.obj ∧ h.detail = o.detail ∧
          h.count = min (s.getF (Fld.CTL_EVT_COUNT o.event) + 1) 65535 ∧ u.evtStatus o.event = true ∧
          (s.occur o).1 = (((if s.evtStatus o.event = true then u else u.evtMessage o.event).writeRecords h).1.forwardRecord h).1)) ∧
      ∀ e, e < 512 → eventDefined e = false →
        (s.occur o).1.evtStatus e = s.evtStatus e ∧ (s.occur o).1.getF (Fld.CTL_EVT_COUNT e) = s.getF (Fld.CTL_EVT_COUNT e)

/-- R505, R14: clearing a status bit, the coincident occurrence, and writes of CTL_EVT_COUNT. -/
def Obligations.StatusWriteClears : Prop :=
  ∀ (s : State) (i b : Nat), i < 16 → b < 32 →
      (eventDefined (32 * i + b) = true → (s.clearStatus i (2 ^ b) []).io.evtStatus (32 * i + b) = false ∧ (s.clearStatus i (2 ^ b) []).io.getF (Fld.CTL_EVT_COUNT (32 * i + b)) = 0) ∧
      (s.io.canFire { event := 32 * i + b } = true →
        (s.clearStatus i (2 ^ b) [32 * i + b]).io = Io.settle (s.io.occur { event := 32 * i + b } true) ∧
        (s.io.occur { event := 32 * i + b } true).1.evtStatus (32 * i + b) = true ∧
        (s.io.occur { event := 32 * i + b } true).1.getF (Fld.CTL_EVT_COUNT (32 * i + b)) = 1 ∧
        (s.io.evtMask (32 * i + b) = false → ∃ (u : Io) (h : RecordHead), u.evtStatus (32 * i + b) = true ∧ h.count = 1 ∧
          (s.io.occur { event := 32 * i + b } true).1 = (((u.evtMessage (32 * i + b)).writeRecords h).1.forwardRecord h).1)) ∧
      ∀ (p : RegPath) (v : Nat), s.Accepts p (Reg.CTL_EVT_COUNT (32 * i + b)) →
        ∀ a, (s.pathWrite p (Reg.CTL_EVT_COUNT (32 * i + b)) v).1.io.getReg a = s.io.getReg a

/-- R517: the wrap of a counter. -/
def Obligations.CounterWraps : Prop :=
  ∀ (s : Io) (c : Nat), c < 64 → Sparse.get (fun _ => 0) s.cnt c = 2 ^ 48 - 1 →
      Sparse.get (fun _ => 0) (s.countOne c).1.cnt c = 0 ∧
      (c < 32 → bit ((s.countOne c).1.getReg Reg.CTL_CNT_OVF_A).toNat c = true) ∧
      (32 ≤ c → bit ((s.countOne c).1.getReg Reg.CTL_CNT_OVF_B).toNat (c - 32) = true) ∧
      (s.canFire { event := 18 } = true → (Io.settle (s.countOne c)).evtStatus 18 = true)

/-- R13: a low-half read latches, a high-half read returns what was latched, and a wide write takes effect with its high half. -/
def Obligations.WideRegistersInHalves : Prop :=
  (∀ (s t : Io) (a : Nat), lowHalf a = true → lowHalf (a + 4) = false →
        (s.readLatched a).2 = s.viewWord a ∧
        (t.latch = (s.readLatched a).1.latch → t.readLatched (a + 4) = (t, s.viewWord (a + 4) % 2 ^ 32))) ∧
    (∀ (s : State) (n v w : Nat), n < 512 → ∀ u, u = s.writeMsix (Reg.HRG_MSIX_ADDR_LO n) v →
        (∀ a, u.io.getReg a = s.io.getReg a) ∧
        (u.writeMsix (Reg.HRG_MSIX_ADDR_HI n) w).io.getReg (Reg.HRG_MSIX_ADDR_LO n) = BitVec.ofNat 32 (Nat.land v 0xFFFFFFFC) ∧
        (u.writeMsix (Reg.HRG_MSIX_ADDR_HI n) w).io.getReg (Reg.HRG_MSIX_ADDR_HI n) = BitVec.ofNat 32 w)

/-- What a rise of PWRGOOD or RESET_N does, the order of the checks in ROM (fuses, controlled-restart block, strap, journal, partition directory, image), and what a fall of PWRGOOD and a low or recovered rail do (one clause for each command; derived from the rules of the chapter). Model choices that clauses rest on: log 20, 94, 95. -/
def Obligations.PowerAndResetCommands : Prop :=
  -- POWER_ON (R547)
  (∀ (s : State) (umberLow : Bool) (d0 d1 : Int) (t : Nat) (programmed : List (Nat × List Byte)), s.boot.pwrgood = false → s.boot.railLow = false →
      Completes (.powerOn umberLow d0 d1 t programmed) s fun u =>
        u = (((((s.startPins d0 d1 t).onBoot (fun b => { b with pwrgood := true, powerAt := max s.io.now t })).program programmed).cleared true false).rom umberLow)) ∧
  -- DEVICE_RESET (R547)
  (∀ (s : State) (umberLow : Bool) (d0 d1 : Int) (t : Nat) (programmed : List (Nat × List Byte)), s.boot.pwrgood = true → s.boot.railLow = false →
      Completes (.deviceReset umberLow d0 d1 t programmed) s fun u =>
        u = ((((((s.startPins d0 d1 t).onBoot (fun b => { b with thermalRestart := false })).setF Fld.CTL_ERR_STAT_RESTART_BLOCKED 0).program programmed).cleared
          false false true).rom umberLow)) ∧
  -- an operation that the clauses name
  (∀ (s u : State) (umberLow : Bool),
      u = (((s.onBoot (fun b => { b with held := false, startedAt := s.io.now })).setF Fld.CTL_BOOT_STATE stROM).bootWindow true) →
      ∀ v : State, v = (u.setF Fld.CTL_WDOG_LEFT (u.getF Fld.CTL_WDOG_PERIOD)).setF Fld.CTL_WDOG_STOPPED 0 →
      s.rom umberLow = (if v.fusesOk = false then (v.alert 0 true).onBoot (fun b => { b with held := true })
        else if v.isF Fld.CTL_ERR_STAT_RESTART_BLOCKED = true then v.onBoot (fun b => { b with held := true })
        else if umberLow = true then (v.setF Fld.CTL_BOOT_STRAP 1).enterUmber 3
        else if v.boot.nvm.journal = .failed then v.enterUmber 6
        else if v.partitions = none then v.activeDefect 0x01 none
        else v.bootStagedOr)) ∧
  -- PWRGOOD_FALL (R547)
  (∀ s : State, s.boot.pwrgood = true → Completes .pwrgoodFall s fun t => t.boot.pwrgood = false ∧ t.boot.held = true ∧ t.io.rings = [] ∧ t.plan = {} ∧
      t.io.dram = s.io.dram ∧ t.boot.nvm.mem = s.boot.nvm.mem) ∧
  -- RAIL_UNDERVOLTAGE (R546)
  (∀ s : State, Completes .railUndervoltage s fun t => t = s.inReset.onBoot (fun b => { b with railLow := true })) ∧
  -- MONITORED_RAIL_RECOVERY (R546)
  (∀ (s : State) (umberLow : Bool) (d0 d1 : Int) (t : Nat), s.boot.railLow = true →
      (s.boot.pwrgood = false → Completes (.monitoredRailRecovery umberLow d0 d1 t) s fun u => u = s.onBoot (fun b => { b with railLow := false })) ∧
      ∀ v : State, v = (s.onBoot (fun b => { b with railLow := false })).startPins d0 d1 t → s.boot.pwrgood = true →
        Completes (.monitoredRailRecovery umberLow d0 d1 t) s fun u => u = ((v.onBoot (fun b => { b with powerAt := max s.io.now t })).cleared true false).rom umberLow) ∧
  -- DIODE_WINDOW_CHANGE (R51)
  (∀ (s : State) (d0 d1 : Int), s.boot.pwrgood = true → s.io.boot ≤ stLOADING ∨ s.io.boot = stUMBER → s.windowOpen = true →
      Completes (.diodeWindowChange d0 d1) s fun t => t = (s.onBoot (fun b => { b with diode0 := d0, diode1 := d1 })).bootWindow true)

/-- A section that arrives is taken where its digest matches, read once more and then defect 0x09 where it does not; a read without an answer is defect 0x11; channels train with the result and state that the outcome gives; the end of the load ends in the defect, the wait or the commit that the checks give (one clause for each command; derived from the rules of the chapter). Model choices that clauses rest on: log 49, 50, 84, 85. -/
def Obligations.ImageLoadingCommands : Prop :=
  -- IMAGE_SECTION_READ_DONE (R50)
  (∀ (s : State) (index : Nat) (got : Option (List Byte)) (d : Section) (bs : List Byte), s.boot.held = false → s.io.boot ≤ stLOADING →
      s.nextSection = some index → s.boot.dir[index]? = some d → bs = got.getD (s.nvmRead (s.boot.base + d.off) d.len) →
      (d.typ = 0 ∨ 0x10 ≤ d.typ ∧ d.optional = false → Completes (.imageSectionReadDone index got) s fun t => t = s.imageDefect 0x0B (some index)) ∧
      (d.typ ≠ 0 → d.typ < 0x10 →
        (sha512 bs ≠ d.digest → s.boot.failedReads.contains index = false →
          Completes (.imageSectionReadDone index got) s fun t => t = s.onBoot (fun b => { b with failedReads := index :: b.failedReads })) ∧
        (sha512 bs ≠ d.digest → s.boot.failedReads.contains index = true →
          Completes (.imageSectionReadDone index got) s fun t => t = s.imageDefect 0x09 (some index)) ∧
        (sha512 bs = d.digest → Completes (.imageSectionReadDone index got) s fun t =>
          t = if d.typ = 1 ∧ s.io.boot = stROM then (s.onBoot (fun b => { b with loaded := b.loaded ++ [(index, bs)] })).startLoading
              else s.onBoot (fun b => { b with loaded := b.loaded ++ [(index, bs)] })))) ∧
  -- NVM_READ_TIMEOUT (R55)
  (∀ (s : State) (sec : Option Nat), s.boot.held = false → s.boot.pwrgood = true → s.io.boot ≤ stLOADING →
      Completes (.nvmReadTimeout sec) s fun t => t = s.imageDefect 0x11 sec) ∧
  -- BOOT_WATCHDOG_EXPIRY (R482)
  (∀ s : State, s.boot.held = false → s.boot.pwrgood = true → s.isF Fld.CTL_WDOG_STOPPED = false → s.io.boot < stOPERATIONAL →
      (s.isF Fld.CTL_BOOT_ACTIVATING = false ∨ s.copying = true →
        Completes .bootWatchdogExpiry s fun t => t = (s.enterUmber 4).bootWindow s.windowOpen) ∧
      ∀ u : State, u = (s.enterUmber 4).bootWindow s.windowOpen → s.isF Fld.CTL_BOOT_ACTIVATING = true → s.copying = false →
        Completes .bootWatchdogExpiry s fun t => t = if u.windowOpen then u.onNvm (fun v => { v with journal := .failed }) else u.onNvm (fun v => { v with failedWaits := true })) ∧
  -- DRAM_TRAINING_DONE (R161)
  (∀ (s u : State) (channel density cap margin mr4 : Nat) (settings : List Byte), channel < 16 → s.boot.held = false → s.io.boot = stLOADING → (s.sect 5).isSome = true →
      s.enabledChannels.contains channel = true → s.trainResult channel = 0 →
      u = (s.setF Fld.DMC_CFG_RATE (fieldAt (s.sectOr 5) 0 1)).setF Fld.DMC_CFG_GRAIN (fieldAt (s.sectOr 5) 1 1) → u.record 1 = none →
      Completes (.dramTrainingDone channel density cap margin mr4 false false settings) s (fun t =>
        t = ((((u.setF (Fld.DMC_CH_TRAIN_RESULT (channel / 4) (channel % 4)) 3).setF (Fld.DMC_CH_STAT_STATE (channel / 4) (channel % 4)) 2)).on (·.fireIn 134 (channel / 4))).enterUmber 5) ∧
      (density < 3 → ∀ v w : State, v = (((u.setF (Fld.DMC_CH_TRAIN_RESULT (channel / 4) (channel % 4)) 2).setF (Fld.DMC_CH_STAT_STATE (channel / 4) (channel % 4)) 1).setF
          (Fld.DMC_CH_TRAIN_MARGIN (channel / 4) (channel % 4)) (min 255 margin)).setF (Fld.DMC_CH_STAT_DENSITY (channel / 4) (channel % 4)) density →
        w = v.setChan channel { v.chan channel with intervalEnd := v.io.now + trefi false, density := density, settings := sub settings 0 256 } →
        Completes (.dramTrainingDone channel density cap margin mr4 false true settings) s fun t =>
          t = if (w.mr4Poll channel mr4 w.io.now).enabledChannels.all (fun c => (w.mr4Poll channel mr4 w.io.now).trainResult c != 0)
            then (w.mr4Poll channel mr4 w.io.now).channelsTrained else w.mr4Poll channel mr4 w.io.now)) ∧
  -- LOADING_COMPLETE (R49)
  (∀ s : State, s.boot.held = false → s.io.boot = stLOADING → s.nextSection = none →
      (s.requiredSections.any (fun t => (dirIndex s.boot.dir t).isNone) = true → Completes .loadingComplete s fun t => t = s.imageDefect 0x0A none) ∧
      (s.requiredSections.any (fun t => (dirIndex s.boot.dir t).isNone) = false → s.dramUp = false →
        Completes .loadingComplete s fun t => t = s) ∧
      (s.requiredSections.any (fun t => (dirIndex s.boot.dir t).isNone) = false → s.dramUp = true →
        (∀ d, s.targetDefect (fieldAt s.boot.header 0x0C 1) (fieldAt s.boot.header 0x0D 1) = some d → Completes .loadingComplete s fun t => t = s.imageDefect d none) ∧
        (s.targetDefect (fieldAt s.boot.header 0x0C 1) (fieldAt s.boot.header 0x0D 1) = none →
        (s.pairsBad = true → Completes .loadingComplete s fun t => t = s.imageDefect 0x10 (dirIndex s.boot.dir 0x0D)) ∧
        (s.pairsBad = false → ∀ r, r = Config.routing (s.sectOr 3) → Completes .loadingComplete s fun t =>
          t = ((s.registerPairs.foldl (fun (u : State) p => (u.pathWrite .firmware p.1 p.2).1) s).loadSections r).checkTables r)))) ∧
  -- NVM_WRITE_COMPLETE (R63)
  (∀ s : State, s.boot.nvm.busy.isSome = true → Completes .nvmWriteComplete s fun t => t = s.finishWrite.startWrite ∧ s.finishWrite.boot.nvm.busy = none)

/-- Each command of CTL_UMB_CMD, given while Umber mode runs and no command is busy, ends with the result its rule gives and the staging area, partitions or journal that it leaves (one clause for each command; derived from the rules of the chapter). Model choices that clauses rest on: log 84, 94. -/
def Obligations.UmberCommandsComplete : Prop :=
  -- UMBER_NONE (R487)
  (∀ s : State, s.umberReady = true → Completes .umberNone s fun t => t = (s.setF Fld.CTL_UMB_CMD_CMD 0).umberEnd 0) ∧
  -- an operation that the clauses name
  (∀ (s : State) (r : Nat), r < 256 → (s.umberEnd r).getF Fld.CTL_UMB_STAT_BUSY = 0 ∧ (s.umberEnd r).getF Fld.CTL_UMB_STAT_RESULT = r) ∧
  -- UMBER_FORMAT (R487)
  (∀ s u : State, s.umberReady = true → u = s.setF Fld.CTL_UMB_CMD_CMD 1 →
      (u.directory.isSome = true → Completes .umberFormat s fun t => t = u.umberEnd 3) ∧
      (u.directory = none → Completes .umberFormat s fun t =>
        t = ((u.nvmWrite 0 (directoryBytes u.defaultLayout)).nvmWrite 0x10000 (directoryBytes u.defaultLayout)).umberEnd u.nvmResult)) ∧
  -- UMBER_OPEN (R487)
  (∀ s u : State, s.umberReady = true → u = s.setF Fld.CTL_UMB_CMD_CMD 2 →
      (u.partition 2 = none → Completes .umberOpen s fun t => t = u.umberEnd 3) ∧
      ((u.partition 2).isSome = true → Completes .umberOpen s fun t =>
        t = ((u.onStage (fun g => { g with nextTxn := (g.nextTxn + 1) % 65536 })).stageOpen u.boot.stage.nextTxn (u.getF Fld.CTL_UMB_LENGTH_LENGTH)).umberEnd 0)) ∧
  -- UMBER_BLOCK (R487)
  (∀ (s u : State) (n off : Nat), s.umberReady = true → u = s.setF Fld.CTL_UMB_CMD_CMD 3 → n = u.getF Fld.CTL_UMB_LENGTH_LENGTH → off = u.getF Fld.CTL_UMB_OFFSET →
      (n % 4 ≠ 0 ∨ n < 4 ∨ 65536 < n ∨ off % 4096 ≠ 0 ∨ off < 0x1000 ∨ u.boot.stage.total < off + n → Completes .umberBlock s fun t => t = u.umberEnd 2) ∧
      (¬(n % 4 ≠ 0 ∨ n < 4 ∨ 65536 < n ∨ off % 4096 ≠ 0 ∨ off < 0x1000 ∨ u.boot.stage.total < off + n) →
        (u.upd ≠ uRECEIVING ∨ u.partition 2 = none → Completes .umberBlock s fun t => t = u.umberEnd 3) ∧
        ∀ p, u.upd = uRECEIVING → u.partition 2 = some p →
          (p.size < off + n → Completes .umberBlock s fun t => t = u.umberEnd 2) ∧
          (off + n ≤ p.size → Completes .umberBlock s fun t =>
            t = ((u.onStage (fun g => { g with block := some (off, u.umberBuf n, 0) })).setF Fld.CTL_UMB_STAT_BUSY 1).programBlock))) ∧
  -- UMBER_BLOCK_PROGRAMMED (R487)
  (∀ (s : State) (off : Nat) (bs : List Byte), s.windowOpen = true → s.io.boot = stUMBER →
      (∀ fails, s.nvmHiZ = false → s.boot.stage.block = some (off, bs, fails) → Completes (.umberBlockProgrammed true) s fun t => t.boot.stage.block = none ∧
        t.boot.stage.programmed = s.boot.stage.programmed ++ coveredChunks s.boot.stage.total off bs.length ∧
        t.getF Fld.CTL_UMB_STAT_BUSY = 0 ∧ t.getF Fld.CTL_UMB_STAT_RESULT = 0) ∧
      (∀ readback, readback = false ∨ s.nvmHiZ = true →
        (s.boot.stage.block = some (off, bs, 0) → Completes (.umberBlockProgrammed readback) s fun t =>
          t = (s.onStage (fun g => { g with block := some (off, bs, 1) })).programBlock) ∧
        (s.boot.stage.block = some (off, bs, 1) → Completes (.umberBlockProgrammed readback) s fun t =>
          t = (s.onStage (fun g => { g with block := none })).umberEnd 4))) ∧
  -- UMBER_CLOSE (R487)
  (∀ s u : State, s.umberReady = true → u = s.setF Fld.CTL_UMB_CMD_CMD 4 →
      (u.upd = uRECEIVING → u.missingChunks = [] → Completes .umberClose s fun t => t = u.stageArm.umberEnd u.nvmResult) ∧
      (u.upd ≠ uRECEIVING ∨ u.missingChunks ≠ [] → Completes .umberClose s fun t => t = u.umberEnd 3)) ∧
  -- UMBER_DISCARD (R487)
  (∀ s u : State, s.umberReady = true → u = s.setF Fld.CTL_UMB_CMD_CMD 5 → Completes .umberDiscard s fun t => t = u.stageDiscard.umberEnd u.nvmResult) ∧
  -- UMBER_RESTART (R487)
  (∀ (s u : State) (programmed : List (Nat × List Byte)), s.umberReady = true → u = s.setF Fld.CTL_UMB_CMD_CMD 6 →
      Completes (.umberRestart programmed) s fun t => t = ((if u.nvmHiZ then u.program programmed else u).cleared false false).rom false) ∧
  -- UMBER_BOOT_ACTIVE (R487)
  (∀ s : State, s.umberReady = true → Completes .umberBootActive s fun t =>
      t = (((s.setF Fld.CTL_UMB_CMD_CMD 7).stageDiscard.onNvm (fun v => { v with journal := .clear })).cleared false false).rom false) ∧
  -- UMBER_BAD_CMD (R487)
  (∀ (s : State) (cmd : Nat), s.umberReady = true → Completes (.umberBadCmd cmd) s fun t => t = (s.setF Fld.CTL_UMB_CMD_CMD cmd).umberEnd 1)

/-- A ready STAGE entry starts its job on the addressed tiles or its own staging area, or completes with the detail that its rule gives (one clause for each command; derived from the rules of the chapter). Model choices that clauses rest on: log 10. -/
def Obligations.StageEntryCommands : Prop :=
  -- STAGE_OPEN (R493)
  (∀ (s : State) (ring i : Nat) (e : List Byte), s.io.Ready ring i 0x42 true (stageFieldsOk e) e → s.stageIdle →
      (∀ d, fieldAt e 8 1 ≠ 1 → fieldAt e 8 1 ≠ 2 → fieldAt e 8 1 ≠ 3 → s.stageReject e = some d →
        Completes (.stageOpen ring i) s fun t => t = s.on (·.answer ring i e { status := 0x01, detail := d })) ∧
      ∀ u : State, u = s.onStage (fun g => { g with nextTxn := (g.nextTxn + 1) % 65536 }) → fieldAt e 8 1 = 0 → s.stageReject e = none →
        (fieldAt e 9 1 = 0 → Completes (.stageOpen ring i) s fun t =>
          t = (u.stageOpen s.boot.stage.nextTxn (fieldAt e 24 8 % 2 ^ 32)).on (·.answer ring i e {})) ∧
        (fieldAt e 9 1 ≠ 0 → Completes (.stageOpen ring i) s fun t =>
          t = ((u.onStage (fun g => { g with opened := some (s.boot.stage.nextTxn, fieldAt e 24 8 % 2 ^ 32), sentBytes := [] })).startJob ring i e 0 0 []).stageSend
            (fieldAt e 9 1) (fieldAt e 10 1) (fieldAt e 11 1) (stagePayload 0 (fieldAt e 12 1) s.boot.stage.nextTxn (fieldAt e 24 8 % 2 ^ 32) 0 []))) ∧
  -- STAGE_DATA (R493)
  (∀ (s u : State) (ring i : Nat) (mem : HostData) (n : Nat) (e got : List Byte) (f : Option (Nat × Nat)),
      s.io.Ready ring i 0x42 true (stageFieldsOk e) e → s.stageIdle → fieldAt e 8 1 = 1 → s.stageRead ring i { mem with inFlight := n } none e = (u, got, f) →
      (∀ d, s.stageReject e = some d → Completes (.stageData ring i mem n) s fun t => t = s.on (·.answer ring i e { status := 0x01, detail := d })) ∧
      (s.stageReject e = none → f = none → fieldAt e 9 1 = 0 →
        Completes (.stageData ring i mem n) s fun t => t = (u.stageKeep (fieldAt e 24 8) got).stageOwe ring i e { info := fieldAt e 32 8 }) ∧
      (s.stageReject e = none → f = none → fieldAt e 9 1 ≠ 0 →
        Completes (.stageData ring i mem n) s fun t =>
          t = (u.startJob ring i e (fieldAt e 24 8) (fieldAt e 24 8 + fieldAt e 32 8) []).stageForward e got) ∧
      (∀ k a, s.stageReject e = none → f = some (k, a) →
        Completes (.stageData ring i mem n) s fun t => t =
          ((u.stageTake e got).on (fun io => Io.settle ((io.countFault).logFault 0 a k 3 (if bit (fieldAt e 13 1) 0 then 0 else fieldAt e 14 1) 36 none false))).stageOwe
            ring i e { status := 0x06, detail := k, info := a - fieldAt e 16 8 })) ∧
  -- STAGE_CLOSE (R493)
  (∀ (s : State) (ring i : Nat) (e : List Byte), s.io.Ready ring i 0x42 true (stageFieldsOk e) e → s.stageIdle → fieldAt e 8 1 = 2 →
      (∀ d, s.stageReject e = some d → Completes (.stageClose ring i) s fun t => t = s.on (·.answer ring i e { status := 0x01, detail := d })) ∧
      (s.stageReject e = none → fieldAt e 9 1 = 0 →
        Completes (.stageClose ring i) s fun t => t = ((s.startJob ring i e 0 0 []).stageClose).closeProgress) ∧
      (∀ txn total, s.stageReject e = none → fieldAt e 9 1 ≠ 0 → s.boot.stage.opened = some (txn, total) →
        Completes (.stageClose ring i) s fun t => t =
          ((s.startJob ring i e 0 0 ((s.targetTiles (fieldAt e 9 1) (fieldAt e 10 1) (fieldAt e 11 1) (fieldAt e 12 1)).map (fun t => (t.1, t.2, 0, 0)))).stageSend
            (fieldAt e 9 1) (fieldAt e 10 1) (fieldAt e 11 1) (stagePayload 2 (fieldAt e 12 1) txn 0 0 [])).closeProgress)) ∧
  -- STAGE_DISCARD (R493)
  (∀ (s : State) (ring i : Nat) (e : List Byte), s.io.Ready ring i 0x42 true (stageFieldsOk e) e → s.stageIdle → fieldAt e 8 1 = 3 →
      (∀ d, s.stageReject e = some d → Completes (.stageDiscard ring i) s fun t => t = s.on (·.answer ring i e { status := 0x01, detail := d })) ∧
      (s.stageReject e = none → fieldAt e 9 1 = 0 → Completes (.stageDiscard ring i) s fun t => t = s.stageDiscard.on (·.answer ring i e {})) ∧
      (∀ txn total, s.stageReject e = none → fieldAt e 9 1 ≠ 0 → s.boot.stage.opened = some (txn, total) →
        Completes (.stageDiscard ring i) s fun t => t =
          (s.startJob ring i e 0 0 []).stageSend (fieldAt e 9 1) (fieldAt e 10 1) (fieldAt e 11 1) (stagePayload 3 (fieldAt e 12 1) txn 0 0 []))) ∧
  -- STAGE_CLOSE_TIMEOUT (R493)
  (∀ (s : State) (j : StageJob), s.boot.stage.job = some j → j.op = 2 →
      (j.tkind = 0 → Completes .stageCloseTimeout s fun t =>
        t = s.finishJob j { status := 0x02, info := flag (s.upd == uARMED) % 65536 + 65536 * (1 - flag (s.upd == uARMED)) }) ∧
      ∀ a, a = (j.targets.filter (fun t => t.2.2.2 == 1)).length → j.tkind ≠ 0 → Completes .stageCloseTimeout s fun t =>
        t = s.finishJob j { status := 0x02, info := a % 65536 + 65536 * (j.targets.length - a) })

/-- A kept stage command of a Sender acts on the staging area of a tile and is acknowledged; a programmed block advances the staged length; an acknowledgement settles its target (one clause for each command; derived from the rules of the chapter). -/
def Obligations.StagePacketCommands : Prop :=
  -- STAGE_OPEN_PACKET (R494)
  (∀ (s u : State) (port : Nat) (packet pl : List Byte), s.kept port 0x06 packet = (u, some pl) → u.io.isTile = true → fieldAt pl 0 1 = 0 →
      fieldAt pl 1 1 = 0xFF ∨ fieldAt pl 1 1 = u.io.part →
      Completes (.stageOpenPacket port packet) s fun t => t = u.stageOpen (fieldAt pl 2 2) (fieldAt pl 4 4)) ∧
  -- STAGE_DATA_PACKET (R494)
  (∀ (s u v : State) (port off : Nat) (packet pl bs : List Byte), s.kept port 0x06 packet = (u, some pl) → u.io.isTile = true → fieldAt pl 0 1 = 1 →
      fieldAt pl 1 1 = 0xFF ∨ fieldAt pl 1 1 = u.io.part → u.upd = uRECEIVING → u.getF Fld.CTL_UPD_STATE_TXN = fieldAt pl 2 2 →
      off = 4096 * fieldAt pl 4 4 → bs = sub pl 16 (min 4096 (fieldAt pl 8 4)) → v = u.stageKeep off bs →
      (v.io.boot ≠ stUMBER ∨ v.windowOpen = false ∨ v.eraseOk = false ∨ v.partition 2 = none → Completes (.stageDataPacket port packet) s fun t => t = v) ∧
      ∀ q, v.io.boot = stUMBER → v.windowOpen = true → v.eraseOk = true → v.partition 2 = some q →
        Completes (.stageDataPacket port packet) s fun t =>
          t = (v.nvmWrite (q.start + off) bs).onStage (fun g => { g with programmed := g.programmed ++ coveredChunks g.total off bs.length })) ∧
  -- STAGE_CLOSE_PACKET (R494)
  (∀ (s u : State) (port : Nat) (packet pl : List Byte), s.kept port 0x06 packet = (u, some pl) → u.io.isTile = true → fieldAt pl 0 1 = 2 →
      fieldAt pl 1 1 = 0xFF ∨ fieldAt pl 1 1 = u.io.part →
      Completes (.stageClosePacket port packet) s fun t => t = (if u.getF Fld.CTL_UPD_STATE_TXN = fieldAt pl 2 2 then u.stageClose else u).sendStageAck) ∧
  -- STAGE_DISCARD_PACKET (R494)
  (∀ (s u : State) (port : Nat) (packet pl : List Byte), s.kept port 0x06 packet = (u, some pl) → u.io.isTile = true → fieldAt pl 0 1 = 3 →
      fieldAt pl 1 1 = 0xFF ∨ fieldAt pl 1 1 = u.io.part →
      Completes (.stageDiscardPacket port packet) s fun t => t = u.stageDiscard) ∧
  -- STAGE_QUERY_PACKET (R494)
  (∀ (s u : State) (port : Nat) (packet pl : List Byte), s.kept port 0x06 packet = (u, some pl) → u.io.isTile = true → fieldAt pl 0 1 = 4 →
      fieldAt pl 1 1 = 0xFF ∨ fieldAt pl 1 1 = u.io.part →
      Completes (.stageQueryPacket port packet) s fun t => t = u.queueReturn 0x6 u.stageAck) ∧
  -- STAGE_PROGRAM_DONE (R494)
  (∀ s : State, s.upd = uPROGRAMMING → s.boot.nvm.programWaits = false →
      Completes (.stageProgramDone true) s (fun t => t = (s.stageProgram.stageArm.sendStageAck).closeProgress) ∧
      (s.boot.stage.fails = 0 → Completes (.stageProgramDone false) s fun t => t = s.onStage (fun g => { g with fails := 1 })) ∧
      (s.boot.stage.fails ≠ 0 → Completes (.stageProgramDone false) s fun t => t = ((s.setF Fld.CTL_UPD_STATE_STATE uFAILED).fire 8).sendStageAck)) ∧
  -- STAGE_ACK_RECEIVED (R494)
  (∀ (s u : State) (port : Nat) (cell : List Byte) (c : Cell), s.acceptCell port 0x6 cell = (u, some c) →
      Completes (.stageAckReceived port cell) s fun t => t = u.stageAckReceived c.chain c.position c.payload) ∧
  -- an operation that the clauses name
  (∀ (s : State) (chain position rounds : Nat) (pl : List Byte) (j : StageJob), s.boot.stage.job = some j → j.op = 2 →
      j.targets.find? (fun t => t.1 == chain && t.2.1 == position) = some (chain, position, rounds, 0) →
      fieldAt pl 0 2 ≠ (s.boot.stage.opened.getD (0, 0)).1 ∨ fieldAt pl 2 1 = uIDLE ∨ fieldAt pl 2 1 = uFAILED →
      s.stageAckReceived chain position pl = s.onStage (fun g => { g with job := some { j with
        targets := j.targets.map (fun t => if t.1 == chain && t.2.1 == position then (chain, position, rounds, 2) else t) } }))

/-- The staged image is copied sector by sector under the journal, a wall restart is announced and obeyed, and an attestation report is asked for, made and returned (one clause for each command; derived from the rules of the chapter). Model choices that clauses rest on: log 12, 85. -/
def Obligations.ActivationAndAttestation : Prop :=
  -- ACTIVATION_COPY (R497)
  (∀ (s : State) (l : List Nat), s.io.operational = true → s.isF Fld.CTL_BOOT_ACTIVATING = true → s.upd ≠ uCOPYING →
      (l = match s.boot.nvm.journal with | .copying l => l | _ => []) →
      Completes .activationCopy s fun t => t = ((s.onNvm (fun v => { v with journal := .copying l })).setF Fld.CTL_UPD_STATE_STATE uCOPYING).setF
        Fld.CTL_UPD_PROGRESS_CHUNKS (16 * l.length)) ∧
  -- ACTIVATION_SECTOR_DONE (R497)
  (∀ (s u v : State) (sector : Nat) (l : List Nat) (p : Partition), s.upd = uCOPYING → s.windowOpen = true → s.boot.nvm.journal = .copying l →
      s.partition 1 = some p → s.nextSector = some sector →
      u = s.nvmWrite (p.start + 0x10000 * sector) (s.nvmRead (s.boot.base + 0x10000 * sector)
          (min 0x10000 (leNat (sub s.boot.header 8 4) - 0x10000 * sector))) →
      v = (u.onNvm (fun v => { v with journal := .copying (l ++ [sector]) })).setF
            Fld.CTL_UPD_PROGRESS_CHUNKS (16 * (l.length + 1)) →
      (Completes (.activationSectorDone sector true) s fun t =>
        t = if v.upd = uCOPYING ∧ v.nextSector = none ∧ (v.meterPart = false ∨ v.boot.meterReported = true) then v.activationFinish else v) ∧
      Completes (.activationSectorDone sector false) s fun t =>
        t = if u.upd = uCOPYING ∧ u.nextSector = none ∧ (u.meterPart = false ∨ u.boot.meterReported = true) then u.activationFinish else u) ∧
  -- WALL_RESTART (R498)
  (∀ (s : State) (ring i : Nat) (e : List Byte), s.io.Ready ring i 0x43 true true e → s.boot.wallRestart = none →
      (3 < fieldAt e 8 1 ∨ 1 < fieldAt e 13 1 ∨ allZero e 14 2 = false ∨ allZero e 22 42 = false →
        Completes (.wallRestart ring i) s fun t => t = s.on (·.answer ring i e { status := 0x01, detail := 1 })) ∧
      (fieldAt e 8 1 ≤ 3 → fieldAt e 13 1 ≤ 1 → allZero e 14 2 = true → allZero e 22 42 = true →
        (fieldAt e 16 6 < s.io.tick + 12 → Completes (.wallRestart ring i) s fun t => t = s.on (·.answer ring i e { status := 0x01, detail := 2 })) ∧
        (s.io.tick + 12 ≤ fieldAt e 16 6 →
          (fieldAt e 8 1 = 1 ∨ fieldAt e 8 1 = 2 → s.outputs.contains (fieldAt e 9 1) = false ∨ s.portState (fieldAt e 9 1) = 4 →
            Completes (.wallRestart ring i) s fun t => t = s.on (·.answer ring i e { status := 0x01, detail := 3 })) ∧
          (fieldAt e 8 1 = 0 ∨ fieldAt e 8 1 = 3 ∨ s.outputs.contains (fieldAt e 9 1) = true ∧ s.portState (fieldAt e 9 1) ≠ 4 →
            Completes (.wallRestart ring i) s fun t => t = (s.on (·.activate ring i e)).onBoot (fun b => { b with wallRestart := some {
              ring := ring, index := i, tkind := fieldAt e 8 1, chain := fieldAt e 9 1, position := fieldAt e 10 1, part := fieldAt e 11 1,
              tick := fieldAt e 16 6, localToo := bit (fieldAt e 13 1) 0 || fieldAt e 8 1 == 0 } }))))) ∧
  -- RESTART_RECEIVED (R485)
  (∀ (s u : State) (port : Nat) (packet b : List Byte), s.keptCmd port 0x02 packet [stJOINING, stOPERATIONAL, stUMBER] = (u, some b) →
      fieldAt b 6 1 = 0xFF ∨ fieldAt b 6 1 = u.io.part →
      (u.io.boot ≠ stOPERATIONAL → Completes (.restartReceived port packet) s fun t => t = (u.cleared false false).rom false) ∧
      (u.io.boot = stOPERATIONAL → u.boot.restartAt = none → u.boot.restartAfter = none →
        Completes (.restartReceived port packet) s fun t => t.boot.restartAt = some (fieldAt b 0 6) ∧ Fires 11 u t)) ∧
  -- ATTEST_LOCAL (R499)
  (∀ (s : State) (ring i : Nat) (e : List Byte), s.io.Ready ring i 0x06 true (attestFieldsOk e) e → fieldAt e 8 1 ≠ 1 → s.boot.attest = none →
      Completes (.attestLocal ring i) s fun t => t.boot.attest = some (some (ring, i), fieldAt e 16 8) ∧ t.getF Fld.CTL_ATT_STAT_BUSY = 1) ∧
  -- ATTEST_TILE (R499)
  (∀ (s : State) (ring i : Nat) (e : List Byte), s.io.Ready ring i 0x06 true (attestFieldsOk e) e → fieldAt e 8 1 = 1 → s.boot.attestTile = none →
      Completes (.attestTile ring i) s fun t => t = ((s.on (·.activate ring i e)).onBoot (fun b => { b with attestTile := some (ring, i, fieldAt e 9 1, fieldAt e 10 1, []) })).sendRegReq
        (fieldAt e 9 1) (fieldAt e 10 1) attestRing 0 0 Reg.CTL_ATT_STAT 0) ∧
  -- ATTEST_REPORT_DONE (R500)
  (∀ (s v : State) (nonce : Nat), v = (List.range 256).foldl (fun s' i => s'.setF (Fld.CTL_ATT_REPORT i) (fieldAt (s.attestReport nonce) (4 * i) 4)) s →
      ∀ u : State, u = ((((v.setF Fld.CTL_ATT_STAT_SEQ (v.getF Fld.CTL_ATT_STAT_SEQ + 1)).setF Fld.CTL_ATT_STAT_BUSY 0)).onBoot (fun b => { b with attest := none })).fire 12 →
      (s.boot.attest = some (none, nonce) → Completes .attestReportDone s fun t => t = u) ∧
      ∀ ring i, s.boot.attest = some (some (ring, i), nonce) →
        Completes .attestReportDone s fun t =>
          (∀ e, (u.io.ring ring).active.find? (fun a => a.1 == i) = some (i, e) → t = u.attestOut ring i e (s.attestReport nonce)) ∧
          ((u.io.ring ring).active.find? (fun a => a.1 == i) = none → t = u)) ∧
  -- ATTEST_COMMAND_RECEIVED (R499)
  (∀ (s u : State) (port : Nat) (packet b : List Byte), s.keptCmd port 0x06 packet [stOPERATIONAL] = (u, some b) → u.boot.attest = none →
      Completes (.attestCommandReceived port packet) s fun t => t.boot.attest = some (none, fieldAt b 0 8) ∧ t.getF Fld.CTL_ATT_STAT_BUSY = 1)

/-- An accepted reference edge and a missing one step the lock state, the tick is raised and numbered, and markers carry it along a chain (one clause for each command; derived from the rules of the chapter). Model choices that clauses rest on: log 6, 17, 87, 88. -/
def Obligations.TickAndMarkers : Prop :=
  -- REFERENCE_EDGE (R70)
  (∀ (s : State) (x : Nat), s.refUsed = true →
      (s.tick.edge = none → Completes (.referenceEdge x) s fun t => t.tick.edge = some x ∧ t.tick.accepted = some x) ∧
      ∀ e0 e, s.tick.edge = some e0 → s.tick.expected = some e → s.mode ≠ mFREE → s.mode ≠ mHOLDOVER → s.tick.every.length < 7 →
        (absDiff x e * 50 ≤ s.getF Fld.TCK_REF_PERIOD →
          Completes (.referenceEdge x) s fun t => t.tick.accepted = some x ∧ t.tick.missing = 0 ∧ t.getF Fld.TCK_STATE_REF_PRESENT = 1 ∧
            (s.tick.missing = 0 → t.tick.intervals = ((x - s.tick.accepted.getD (x - s.getF Fld.TCK_REF_PERIOD)) :: s.tick.intervals).take 8)) ∧
        (s.getF Fld.TCK_REF_PERIOD < absDiff x e * 50 →
          Completes (.referenceEdge x) s fun t => t.tick.accepted = s.tick.accepted ∧
            t.getF Fld.TCK_GLITCH_COUNT = min (s.getF Fld.TCK_GLITCH_COUNT + 1) (2 ^ 32 - 1) ∧ Fires 35 s t)) ∧
  -- EDGE_MISSING (R70)
  (∀ s u : State, s.serving = true → s.isF Fld.TCK_GLK_CFG_ENABLE = true → s.mode = mTRACKING ∨ s.mode = mLOCKED ∨ s.mode = mSLEWING →
      u = s.missEdge →
      (s.tick.missing ≠ 2 → Completes .edgeMissing s fun t => t = u) ∧
      (s.tick.missing = 2 → Completes .edgeMissing s fun t =>
        t = (u.awaitChange [{ mode := mHOLDOVER, rateSet := u.rateSet, period := u.period, jump := false, lost := true }]).forgetEdges) ∧
      u.tick.missing = s.tick.missing + 1 ∧ u.io = (s.io.bumpF Fld.TCK_MISS_COUNT).setF Fld.TCK_STATE_REF_PRESENT 0) ∧
  -- REPEAT_BOUNDARY (R75)
  (∀ s : State,
      (∀ p g n, s.tick.repeatAt = none → s.dueJump = some (p, g) → s.tick.next = some n → s.serving = true →
        Completes .repeatBoundary s fun t => t.tick.next = some (n + g) ∧ t.io = ((s.passRepeat n).switchRateSet p.rateSet).io ∧
          t.tick.pending = { p with jump := false } :: ((s.passRepeat n).switchRateSet p.rateSet).tick.pending.tail) ∧
      (∀ n, s.tick.repeatAt = some n → s.follows = true → Completes .repeatBoundary s fun t => t.io = (s.passRepeat n).io ∧
        t.tick.inGap = true ∧ t.tick.gapFrom = n ∧ t.tick.repeatAt = none) ∧
      ∀ n, (s.passRepeat n).tick.inGap = true ∧ (s.passRepeat n).tick.gapFrom = n ∧
        (s.passRepeat n).io = (((s.io.at n).setF Fld.TCK_STATE_REPEAT_PENDING 0).bumpF Fld.TCK_REPEAT_COUNT).fire 37) ∧
  -- TICK_MARKER_SEND (R78)
  (∀ (s : State) (p offset : Nat), s.sendsTime p = true → offset ≤ 65 →
      (p = pairPort → Completes (.tickMarkerSend p offset) s fun t => t = s.markerSend p offset) ∧
      (∀ i, p ≠ pairPort → s.slotOn (p / 4) 0x08 (25 + p % 4) = some i →
        Completes (.tickMarkerSend p offset) s fun t => t = (s.startSlot (p / 4) i false).markerSend p offset) ∧
      (s.dueJump = none → s.tick.pending = [] → s.markerSend p offset =
        s.on (·.emit (.control p (markerWord (s.tick.number.getD (s.io.tick + 1)) offset s.mode false (s.endB p) s.rateSet))))) ∧
  -- TICK_MARKER_RECEIVED (R80)
  (∀ (s : State) (p payload x : Nat), s.io.isTile = true → p ≠ pairPort →
      ((s.countMarker p payload x).selected = none ∨ (s.countMarker p payload x).selected = some p →
        Completes (.tickMarkerReceived p payload x) s fun t => ∃ u : State, u = (s.countMarker p payload x).ownMarker p payload x ∧ t = u.repeatWord p payload ∧
          ((s.countMarker p payload x).tick.marked = false → (s.countMarker p payload x).io.isTile = true → markerOk payload = true → bit payload 42 = false →
            u.tick.marked = true ∧ u.tick.fixed = true ∧ u.tick.number = some (s.tick.tickHi * 2 ^ 24 + bits payload 8 24) ∧ u.tick.nextRateSet = bits payload 44 3)) ∧
      ((s.countMarker p payload x).io.isTile = true → (∃ q, q ≠ p ∧ (s.countMarker p payload x).selected = some q) →
        Completes (.tickMarkerReceived p payload x) s fun t => t = ((s.countMarker p payload x).otherMarker p payload x).repeatWord p payload)) ∧
  -- MARKER_MISSING (R82)
  (∀ (s : State) (p : Nat), s.io.isTile = true → s.follows = true → s.tick.marked = true → s.selected = none →
      Completes (.markerMissing p) s fun t => t = (s.setPortRun p ((s.portRun p).1 + 1) 0).missMarker ∧ t.tick.lost = s.tick.lost + 1 ∧ t.tick.valid = 0) ∧
  -- TICK (R69)
  (∀ (s : State) (umberLow : Bool), s.tickReady = true → s.boot.pwrgood = true → s.boot.power < 2 → s.boot.held = false →
      stTRAINING ≤ s.io.boot → s.io.boot ≤ stOPERATIONAL →
      Completes (.tick umberLow) s fun t => t = s.numberedTick umberLow) ∧
  -- an operation that the clauses name
  (∀ (s : State) (n : Nat), s.tick.next = some n → s.raiseTick = ((s.enterPeriod n).runPeriod n).showPeriod n ∧
      s.raiseTick.tick.last = n ∧ s.raiseTick.tick.inGap = false ∧ s.raiseTick.tick.number = none ∧
      ∃ p, s.raiseTick.tick.next = some (n + p))

/-- The enumeration packet leaves and gives tiles their addresses, probes and echoes measure delays, delays are assigned, and elastic slots and transmit windows run (one clause for each command; derived from the rules of the chapter). Model choices that clauses rest on: log 39, 52, 88, 89. -/
def Obligations.EnumerationAndDelays : Prop :=
  -- ENUM_SEND (R23)
  (∀ (s : State) (p x n : Nat) (r : Route), s.route p = some r → s.tick.next = some n → s.transmits p = true → s.portUp p = true → x + 6400000 < n →
      Completes (.enumSend p x) s fun t => t.link.enumSent.head? = some p ∧
        t.io.out = .control p (enumWord p r.tiles (s.endB p) 0 ((s.tick.number.getD (s.io.tick + 1)) / 2 ^ 24)) :: s.io.out) ∧
  -- ENUM_RECEIVED (R23)
  (∀ (s : State) (p payload pos : Nat), s.io.isTile = true → wordOk payload = true → wordType payload = 0x09 → enumPosition payload = some pos →
      (s.isF Fld.CTL_TILE_ADDR_VALID = true →
        Completes (.enumReceived p payload) s fun t => t = (s.passEnum p payload).checkAddress (bits payload 8 4) pos (bits payload 27 24)) ∧
      ∀ u : State, u = (s.passEnum p payload).takeAddress p (bits payload 8 4) pos (bits payload 19 1) (bits payload 27 24) →
        s.isF Fld.CTL_TILE_ADDR_VALID = false → u.isF Fld.CTL_TILE_ADDR_VALID = true →
        Completes (.enumReceived p payload) s fun t => t = ((u.loadAudio u.audioClass).seedSlice).tileReady) ∧
  -- an operation that the clauses name
  (∀ (s : State) (p chain pos endB hi : Nat), p ≤ 1 → chain < 16 → pos < 64 → s.tick.marked = false → (s.positionOf chain pos).isSome = true →
      (s.takeAddress p chain pos endB hi).getF Fld.CTL_TILE_ADDR_POSITION = pos ∧ (s.takeAddress p chain pos endB hi).getF Fld.CTL_TILE_ADDR_CHAIN = chain ∧
      (s.takeAddress p chain pos endB hi).getF Fld.CTL_TILE_ADDR_VALID = 1 ∧ (s.takeAddress p chain pos endB hi).tick.tickHi = hi) ∧
  -- DELAY_PROBE (R83)
  (∀ (s : State) (p k t1 : Nat), s.sendsTime p = true → s.probePosition p = k →
      (p = pairPort → Completes (.delayProbe p k t1) s fun t => t = s.sendProbe p t1) ∧
      (∀ i, p ≠ pairPort → s.tick.inGap = false → s.slotOn (p / 4) 0x0F (25 + p % 4) = some i →
        Completes (.delayProbe p k t1) s fun t => t = (s.startSlot (p / 4) i false).sendProbe p t1) ∧
      (s.sendProbe p t1).io.out = .control p (probeWord k) :: s.io.out ∧
      (s.sendProbe p t1).tick.probes.head? = some (p, k, t1)) ∧
  -- PROBE_RECEIVED (R83)
  (∀ (s : State) (p payload t2 t3 : Nat), wordOk payload = true → wordType payload = 0x08 → (s.io.isTile = true → s.forwardFrom p = true) →
      (s.io.isTile = true → s.probeMine p (bits payload 8 7) = true →
        Completes (.probeReceived p payload t2 t3) s fun t => t.link.waiting = s.link.waiting ++
          [{ ptype := 0x5, payload := leBytes 3 (t3 - t2) ++ zeros 1 ++ leBytes 3 (s.getF Fld.TCK_REPEAT_H) ++ zeros 1, seq := none, sent := 0, repeats := 0 }]) ∧
      (s.io.isTile = false → s.probeMine p (bits payload 8 7) = true →
        Completes (.probeReceived p payload t2 t3) s fun t => t.io.out =
          .cell p (cellBytes 0x5 p (bits payload 8 7) 0 (leBytes 3 (t3 - t2) ++ zeros 1 ++ leBytes 3 (s.getF Fld.TCK_REPEAT_H) ++ zeros 1)) :: s.io.out) ∧
      (s.probeMine p (bits payload 8 7) = false → Completes (.probeReceived p payload t2 t3) s fun t => t = s.repeatWord p payload ∧
        (s.io.isTile = true → s.portUp (1 - p) = true → t.io.out = .control (1 - p) payload :: s.io.out))) ∧
  -- PROBE_ECHO_RECEIVED (R85)
  (∀ (s : State) (port t4 : Nat) (cell : List Byte),
      (port = pairPort → (readCell cell).crcOk = true → (readCell cell).ptype = 5 →
        Completes (.probeEchoReceived port cell t4) s fun t => t = s.echoDelay pairPort 0 (fieldAt (readCell cell).payload 0 3) (fieldAt (readCell cell).payload 4 3) t4) ∧
      ∀ (u : State) (c : Cell), port ≠ pairPort → s.acceptCell port 0x5 cell = (u, some c) →
        Completes (.probeEchoReceived port cell t4) s fun t => t = u.echoDelay c.chain (u.echoFrom c) (fieldAt c.payload 0 3) (fieldAt c.payload 4 3) t4) ∧
  -- DELAY_ASSIGN_RECEIVED (R85)
  (∀ (s : State) (p : Nat) (packet : List Byte),
      (∀ u pl, p ≠ pairPort → s.kept p 0x05 packet = (u, some pl) → Completes (.delayAssignReceived p packet) s fun t => t = (u.takeDelays pl).tileReady) ∧
      (∀ h pl, p = pairPort → readPacket packet = .packet h pl true → h.ptype = 5 → pJOINING ≤ s.pair →
        Completes (.delayAssignReceived p packet) s fun t =>
          t = (s.setF Fld.PAIR_HOP_DELAY_VALUE (fieldAt pl 0 3)).setF Fld.PAIR_HOP_DELAY_VALID 1)) ∧
  -- ELASTIC_SLOT_COMPLETE (R94)
  (∀ (s : State) (n i fin : Nat) (e : Lane) (r : Running),
      s.tick.lanes.find? (fun e => e.region == n && (e.running.map (·.slot)) == some i) = some e → e.running = some r →
      Completes (.elasticSlotComplete n i fin) s fun t => t = s.slotEnd n e r fin ∧ ∃ u v : State,
        u = s.setLane { e with late := fin + r.base - (r.entry.nomStart + r.entry.nomDur), prevEnd := fin, running := none } ∧
        v = { u with tick := { u.tick with ends := (if r.base = 0 then (n, r.slot, fin) :: u.tick.ends else u.tick.ends), lateMax := setNth u.tick.lateMax n (max (nth u.tick.lateMax n) (fin + r.base - (r.entry.nomStart + r.entry.nomDur))) } }.showLate n ∧
        t = (if r.allot < fin + r.base - r.start then
            v.on (fun io => (io.bumpF (Fld.TCK_OVERRUN_COUNT n)).fireObj 39 (some n) 0 (leBytes 2 r.slot)) else v).finishSwitch) ∧
  -- TRANSMIT_WINDOW (R284)
  (∀ (s : State) (region slot aligns : Nat), Completes (.transmitWindow region slot aligns) s fun t => t = (s.transmitWindow region slot aligns).stageProgress)

/-- A port that loses its clock or its word lock retrains; training words, equalisation, the attempt limit, the retry timer and the figure of merit move a port through the states of LNK_STATE (one clause for each command; derived from the rules of the chapter). Model choices that clauses rest on: log 47, 96. -/
def Obligations.LinkTraining : Prop :=
  -- WORD_LOCK_LOSS (R276)
  (∀ (s : State) (port invalid : Nat), s.portState port ≠ 0 →
      Completes (.wordLockLoss port invalid) s fun t =>
        t = (((((s.on (·.bumpF (Fld.LNK_WORD_ERR (port / 4) (port % 4)) (max 16 invalid))).portBump Fld.LNK_LOCK_LOSS port).firePortOnce 259 port).excusePort port).retrain port)) ∧
  -- RX_CLOCK_LOST (R299)
  (∀ (s : State) (port : Nat), Completes (.rxClockLost port) s fun t => t = s.retrain port) ∧
  -- an operation that the clauses name
  (∀ (s : State) (p : Nat), p ≠ pairPort → p < s.link.ports.length → s.portUp p = true →
      ((s.retrain p).port p).trying = true ∧ ((s.retrain p).port p).low = 0 ∧ ((s.retrain p).port p).adopt = none) ∧
  -- TS1_RECEIVED (R299)
  (∀ (s : State) (port : Nat), s.portUp port = true → Completes (.ts1Received port) s fun t => t = s.retrain port ∧
      (port ≠ pairPort → port < s.link.ports.length → (t.port port).trying = true ∧ (t.port port).low = 0 ∧ (t.port port).adopt = none)) ∧
  -- TS_WORDS_RECEIVED (R295)
  (∀ (s : State) (port offer : Nat) (ts2 : Bool), (s.port port).trying = true → (s.port port).agreed = false →
      ∀ u v : State, u = s.setPort port { s.port port with ts2 := true, farOffer := offer } →
        v = (if (s.port port).ts2 then u else u.on (·.emit (.training port 2))) →
        (ts2 = true → ¬ (v.offer port = 3 ∧ offer = 3) →
          Completes (.tsWordsReceived port ts2 offer) s fun t =>
            t = ((v.setPort port { v.port port with agreed := true }).portF Fld.LNK_STATE_RATE_NOW port (min (v.offer port) offer)).equaliseFrom port (min (v.offer port) offer)) ∧
        (ts2 = false ∨ (v.offer port = 3 ∧ offer = 3) → Completes (.tsWordsReceived port ts2 offer) s fun t => t = v)) ∧
  -- EQUALISATION_DONE (R295)
  (∀ (s : State) (port ctle t1 t2 t3 fom skew : Nat), (s.port port).trying = true → (s.port port).agreed = true →
      ∀ u : State, u = ((s.on (fun io => (((io.setF (Fld.LNK_FOM_CTLE (port / 4) (port % 4)) ctle).setF (Fld.LNK_DFE_TAP1 (port / 4) (port % 4)) t1).setF
        (Fld.LNK_DFE_TAP2 (port / 4) (port % 4)) t2).setF (Fld.LNK_DFE_TAP3 (port / 4) (port % 4)) t3)).portF Fld.LNK_DESKEW_SKEW port skew).portF Fld.LNK_FOM_FOM port fom →
      (u.getF Fld.LNK_EQ_CFG_FOM_MIN ≤ fom → Completes (.equalisationDone port ctle t1 t2 t3 fom skew) s fun t => t = u.setPort port { u.port port with idle := true }) ∧
      (fom < u.getF Fld.LNK_EQ_CFG_FOM_MIN → Completes (.equalisationDone port ctle t1 t2 t3 fom skew) s fun t => t = u.attemptFailed port)) ∧
  -- PORT_UP (R295)
  (∀ (s : State) (port h : Nat), (s.port port).idle = true →
      Completes (.portUp port h) s fun t =>
        t = (if port = pairPort then ((s.portComesUp port h).learnLane port).pairUp else (s.portComesUp port h).learnLane port).leaveTraining) ∧
  -- TRAINING_ATTEMPT_TIMEOUT (R295)
  (∀ (s : State) (port : Nat), s.awaitsOffer port = false → (s.port port).trying = true →
      Completes (.trainingAttemptTimeout port) s fun t => t = (s.attemptFailed port).leaveTraining ∧
        ∃ (k : Nat) (u : State), k = s.getF (Fld.LNK_STATE_ATTEMPT (port / 4) (port % 4)) + 1 ∧
          u = (s.portF Fld.LNK_STATE_ATTEMPT port k).setPort port { s.port port with ts2 := false, agreed := false, idle := false, trying := false } ∧
          s.attemptFailed port = (if k < 3 then u else (u.portF Fld.LNK_STATE_STATE port 4).firePort 257 port)) ∧
  -- TRAINING_RETRY_TIMER (R299)
  (∀ (s : State) (port : Nat), s.portState port = 1 ∨ s.portState port = 3 → (s.port port).trying = false →
      Completes (.trainingRetryTimer port) s fun t => t = (s.setPort port { s.port port with trying := true, farOffer := 3 }).on (·.emit (.training port 1))) ∧
  -- RX_CLOCK_ACTIVITY (R299)
  (∀ (s : State) (port : Nat), s.portState port = 4 →
      Completes (.rxClockActivity port) s fun t => t = s.startAttempts port (if (s.port port).wasUp then 3 else 1)) ∧
  -- FOM_MEASUREMENT (R296)
  (∀ (s : State) (port ew eh : Nat), s.portUp port = true → port < s.link.ports.length →
      (s.getF Fld.LNK_EQ_CFG_FOM_DOWN ≤ min (min ew eh) 255 →
        Completes (.fomMeasurement port true ew eh) s fun t => (t.port port).low = 0 ∧
          t.getF (Fld.LNK_FOM_FOM (port / 4) (port % 4)) = min (min ew eh) 255) ∧
      Completes (.fomMeasurement port false ew eh) s fun t => (t.port port).adopt =
        (if s.getF (Fld.LNK_FOM_FOM (port / 4) (port % 4)) + max 1 (s.getF Fld.LNK_EQ_CFG_HYST) ≤ min (min ew eh) 255 then some (s.port port).candidate else none)) ∧
  -- EQ_STEP_ADOPT (R297)
  (∀ (s : State) (port k : Nat) (c : List Nat), port < s.link.ports.length → (s.port port).adopt = some k → eqCandidate k (s.eqSettings port) = some c →
      Completes (.eqStepAdopt port) s fun t => (t.port port).adopt = none ∧ t.io.out = .equaliser port c :: s.io.out)

/-- A cell that is accepted is acted on and a bad one dropped, a remote register entry sends one request and completes by its reply or its timeout, and a return packet that is not acknowledged is repeated (one clause for each command; derived from the rules of the chapter). Model choices that clauses rest on: log 21, 46, 89. -/
def Obligations.ReturnChannel : Prop :=
  -- ALIGN_SEND (R279)
  (∀ (s : State) (port : Nat), port < s.link.ports.length → s.portUp port = true → (s.transmits port || s.originates port) = true →
      Completes (.alignSend port) s fun t => t.io.out = .control port (alignWord (s.port port).alignSeq) :: s.io.out ∧
        (t.port port).alignSeq = ((s.port port).alignSeq + 1) % 2 ^ 16) ∧
  -- RESERVED_PACKET (R282)
  (∀ (s u : State) (port : Nat) (packet pl : List Byte) (h : PacketHead) (ok : Bool), s.takePacket port packet = (u, some (h, pl, ok)) →
      h.ptype = 0 ∨ 8 ≤ h.ptype →
      Completes (.reservedPacket port packet) s fun t => t = u.portBump Fld.LNK_PKT_UNKNOWN port) ∧
  -- RETURN_CELL_PASS (R290)
  (∀ (s u : State) (cell alignSeq p : Nat), s.drainForward = u → s.io.isTile = true → u.selected = some p →
      (u.nextReturn = none → Completes (.returnCellPass cell alignSeq) s fun t => t = u.passEmpty p) ∧
      ∀ q : RetPacket, u.nextReturn = some q →
      (u.mayFill cell alignSeq = false → Completes (.returnCellPass cell alignSeq) s fun t => t = u.passEmpty p) ∧
      (u.mayFill cell alignSeq = true →
      Completes (.returnCellPass cell alignSeq) s fun t => t.link.waiting = eraseFirst (· == q) u.link.waiting ∧
        t.link.outstanding = (if acknowledged q.ptype then u.link.outstanding ++ [{ q with seq := some (q.seq.getD u.link.seq), sent := u.io.tick }] else u.link.outstanding) ∧
        t.link.seq = (if acknowledged q.ptype && q.seq.isNone then (u.link.seq + 1) % 256 else u.link.seq))) ∧
  -- CELL_DROP (R289)
  (∀ (s : State) (port : Nat) (cell : List Byte),
      (s.io.isTile = true → Completes (.cellDrop port cell) s fun t => t = s.repeatCell port cell) ∧
      (s.io.isTile = false → s.io.hasHost = true → s.cellBad port (readCell cell) = true →
        Completes (.cellDrop port cell) s fun t => t = (s.portBump Fld.LNK_CELL_DROP port).firePortOnce 264 port)) ∧
  -- REMOTE_EVENT_RECEIVED (R512)
  (∀ (s u : State) (port : Nat) (cell : List Byte) (c : Cell), s.acceptCell port 0x2 cell = (u, some c) →
      Completes (.remoteEventReceived port cell) s fun t => t = u.remoteEvent c.chain c.position c.payload) ∧
  -- TELEMETRY_RECEIVED (R513)
  (∀ (s u : State) (port : Nat) (cell : List Byte) (c : Cell), s.acceptCell port 0x4 cell = (u, some c) →
      (fieldAt c.payload 6 1 = 0 → Completes (.telemetryReceived port cell) s fun t => t = u.setTile { u.tile c.chain c.position with
        headroom := some (fieldAt c.payload 8 2, fieldAt c.payload 10 1, bit (fieldAt c.payload 11 1) 0), reported := u.io.tick, stale := false }) ∧
      (fieldAt c.payload 6 1 = 1 → Completes (.telemetryReceived port cell) s fun t => t = u.setTile { u.tile c.chain c.position with th := some (fieldAt c.payload 8 2) }) ∧
      (2 ≤ fieldAt c.payload 6 1 → Completes (.telemetryReceived port cell) s fun t => t = u)) ∧
  -- TELEMETRY_STALE (R513)
  (∀ (s : State) (chain position : Nat), s.io.hasHost = true → (s.tile chain position).admitted = true → (s.tile chain position).stale = false →
      Completes (.telemetryStale chain position) s fun t => t = (s.setTile { s.tile chain position with stale := true }).on (·.fireObj 21 none (objTile chain position)) ∧
        Fires 21 s t) ∧
  -- REMOTE_REG_READ (R294)
  (∀ (s : State) (ring i : Nat) (e : List Byte), s.io.Ready ring i 0x41 true (remoteFieldsOk e) e →
      (1 < fieldAt e 10 1 → Completes (.remoteRegRead ring i) s fun t => t = s.on (·.answer ring i e { status := 0x01, detail := 1 })) ∧
      (fieldAt e 10 1 = 0 →
        (s.isOutput (fieldAt e 8 1) = false → Completes (.remoteRegRead ring i) s fun t => t = s.on (·.answer ring i e { status := 0x01, detail := 2 })) ∧
        (s.isOutput (fieldAt e 8 1) = true → s.portState (fieldAt e 8 1) = 4 →
          Completes (.remoteRegRead ring i) s fun t => t = s.on (·.answer ring i e { status := 0x01, detail := 3 })) ∧
        (s.isOutput (fieldAt e 8 1) = true → s.portState (fieldAt e 8 1) ≠ 4 →
          Completes (.remoteRegRead ring i) s fun t => t = (s.on (·.activate ring i e)).sendRegReq (fieldAt e 8 1) (fieldAt e 9 1) ring i 0 (fieldAt e 12 4) (fieldAt e 16 4)))) ∧
  -- REMOTE_REG_WRITE (R294)
  (∀ (s : State) (ring i : Nat) (e : List Byte), s.io.Ready ring i 0x41 true (remoteFieldsOk e) e → fieldAt e 10 1 = 1 →
        (s.isOutput (fieldAt e 8 1) = false → Completes (.remoteRegWrite ring i) s fun t => t = s.on (·.answer ring i e { status := 0x01, detail := 2 })) ∧
        (s.isOutput (fieldAt e 8 1) = true → s.portState (fieldAt e 8 1) = 4 →
          Completes (.remoteRegWrite ring i) s fun t => t = s.on (·.answer ring i e { status := 0x01, detail := 3 })) ∧
        (s.isOutput (fieldAt e 8 1) = true → s.portState (fieldAt e 8 1) ≠ 4 →
          Completes (.remoteRegWrite ring i) s fun t => t = (s.on (·.activate ring i e)).sendRegReq (fieldAt e 8 1) (fieldAt e 9 1) ring i 1 (fieldAt e 12 4) (fieldAt e 16 4))) ∧
  -- an operation that the clauses name
  (∀ (s : State) (chain pos ring index op off v : Nat), (s.sendRegReq chain pos ring index op off v).link.regs = s.link.regs ++
        [{ chain := chain, position := pos, tag := Sparse.get (fun _ => 0) s.link.tags chain, ring := ring, index := index, op := op, offset := off,
           value := v, sent := s.io.tick, repeats := 0 }]) ∧
  -- REG_RSP_RECEIVED (R294)
  (∀ (s u : State) (port : Nat) (cell : List Byte) (c : Cell), s.acceptCell port 0x3 cell = (u, some c) →
      Completes (.regRspReceived port cell) s fun t => t = u.regReply c.chain c.position c.payload) ∧
  -- an operation that the clauses name
  (∀ (s : State) (chain pos : Nat) (pl e : List Byte) (w : RegWait) (i : Nat), s.link.regs.find? (fun w => w.chain == chain && w.position == pos && w.tag == fieldAt pl 0 2) = some w →
      w.ring ≠ attestRing → w.ring ≠ pollRing → (s.io.ring w.ring).active.find? (fun a => a.1 == w.index) = some (i, e) →
      (s.regReply chain pos pl).link.regs = eraseFirst (· == w) s.link.regs ∧
      (s.regReply chain pos pl).io = s.io.finish w.ring w.index e { detail := fieldAt pl 2 1, info := fieldAt pl 8 4 }) ∧
  -- REG_REQ_TIMEOUT (R294)
  (∀ (s : State) (chain tag : Nat) (w : RegWait), s.link.regs.find? (fun w => w.chain == chain && w.tag == tag) = some w → w.ring ≠ attestRing →
      (w.sent + max 1 (s.getF Fld.LNK_CFG_REG_TIMEOUT) ≤ s.io.tick → s.getF Fld.LNK_CFG_RETRY_MAX ≤ w.repeats →
        ∀ u : State, u = ({ s with link := { s.link with regs := eraseFirst (· == w) s.link.regs } } : State).on (·.fireObj 265 (some (chain / 4)) (chain % 4)) →
          (∀ i e, (u.io.ring w.ring).active.find? (fun a => a.1 == w.index) = some (i, e) →
            Completes (.regReqTimeout chain tag) s fun t => t = u.on (·.finish w.ring w.index e { status := 0x02 })) ∧
          ((u.io.ring w.ring).active.find? (fun a => a.1 == w.index) = none → Completes (.regReqTimeout chain tag) s fun t => t = u)) ∧
      (s.io.tick < w.sent + max 1 (s.getF Fld.LNK_CFG_REG_TIMEOUT) → Completes (.regReqTimeout chain tag) s fun t => t = s)) ∧
  -- ACK_RECEIVED (R292)
  (∀ (s : State) (port : Nat) (packet : List Byte),
      (s.io.isTile = true → Completes (.ackReceived port packet) s fun t => t = (s.ackReceived port packet).setDecoder
        (((s.ackReceived port packet).decoder 0).acked (s.ackReceived port packet).liveRequests)) ∧
      ∀ (c : CascadePort) (u : State) (h : PacketHead) (pl : List Byte), s.io.isTile = false → s.cascadePort port = some c → s.takePacket port packet = (u, some (h, pl, true)) → h.ptype = 3 →
        ∀ cells, cells = (u.decoder (port + 1)).cells.filter (fun x => !((List.range (pl.length / 4)).map (fun i => fieldAt pl (4 * i) 4)).any
            (fun w => decide (bits w 0 4 = c.chain ∧ bits w 4 6 = c.position ∧ bits w 10 8 = x.1))) →
          Completes (.ackReceived port packet) s fun t => t = u.setDecoder (Decoder.acked { u.decoder (port + 1) with cells := cells } (cells.map (·.2.2.2)))) ∧
  -- RETURN_ACK_TIMEOUT (R292)
  (∀ (s : State) (seq : Nat), Completes (.returnAckTimeout 0 seq) s (fun t => t = (s.returnTimeout seq).setDecoder
        (((s.returnTimeout seq).decoder 0).gaveUp (s.returnTimeout seq).liveRequests)) ∧
      ∀ (stream : Nat) (c : CascadePort) (sent k : Nat) (pl : List Byte), stream ≠ 0 → (s.decoder stream).cells.find? (fun x => x.1 == seq) = some (seq, sent, k, pl) →
        s.cascadePort (stream - 1) = some c → sent + max 1 (s.getF Fld.LNK_CFG_ACK_TIMEOUT) ≤ s.io.tick →
        (k < s.getF Fld.LNK_CFG_RETRY_MAX → Completes (.returnAckTimeout stream seq) s fun t =>
          t = (s.setDecoder { s.decoder stream with cells := (s.decoder stream).cells.map (fun x => if x.1 == seq then (seq, s.io.tick, k + 1, pl) else x) }).on
            (fun io => (io.emit (.cell (stream - 1) (cellBytes 0x1 c.chain c.position seq pl))).pulse 12)) ∧
        (s.getF Fld.LNK_CFG_RETRY_MAX ≤ k → Completes (.returnAckTimeout stream seq) s fun t =>
          t = (s.setDecoder (Decoder.gaveUp { s.decoder stream with cells := (s.decoder stream).cells.filter (fun x => x.1 != seq) }
            (((s.decoder stream).cells.filter (fun x => x.1 != seq)).map (·.2.2.2)))).on
            (fun io => (io.bumpF Fld.LNK_RET_GIVEUP).fireObj 263 (some ((stream - 1) / 4)) ((stream - 1) % 4))))

/-- A COMMIT entry is read, waits on its fences, is compiled at its deadline and completes; a fence is signalled; a buffer is released when its last frame has been shown (one clause for each command; derived from the rules of the chapter). Model choices that clauses rest on: log 27. -/
def Obligations.CommitsAndFences : Prop :=
  -- COMMIT (R176)
  (∀ (s : State) (ring i : Nat) (e : List Byte), s.io.Ready ring i 0x10 true (commitFieldsOk e) e →
      (fieldAt e 18 1 = 0 ∨ 64 < fieldAt e 18 1 ∨ fieldAt e 8 8 % 64 ≠ 0 → Completes (.commit ring i) s fun t =>
        t = (s.noteReject ring 0x0E none).1.on (·.answer ring i e { status := 0x01, detail := (s.noteReject ring 0x0E none).2 })) ∧
      ∀ (u : State) (r : Io × Option (Nat × Nat)), u = (s.on (fun io => io.activate ring i e)).onLay (fun l => { l with commits := l.commits.filter (·.ring != ring) ++
          [({ ring := ring, index := i, entry := e, desc := none, waits := 0 } : CommitRun)] }) →
        r = u.io.issueRead (.descriptors ring i) 2 (bit (fieldAt e 16 1) 0) (fieldAt e 17 1) (fieldAt e 8 8) (128 * fieldAt e 18 1) →
        fieldAt e 18 1 ≠ 0 → fieldAt e 18 1 ≤ 64 → fieldAt e 8 8 % 64 = 0 →
        (r.2 = none → Completes (.commit ring i) s fun t => t = { u with io := r.1 }) ∧
        ∀ k a, r.2 = some (k, a) → Completes (.commit ring i) s fun t =>
          t = ({ u with io := r.1.readFault (.descriptors ring i) (fieldAt e 17 1) a k } : State).descFailed ring i) ∧
  -- COMMIT_DESCRIPTOR_READ_DONE (R176)
  (∀ (s u : State) (ring i : Nat) (res : ReadResult) (c : CommitRun), s.video.lay.commits.find? (fun c => c.ring == ring && c.index == i && c.desc.isNone) = some c →
      s.io.held (.descriptors ring i) = false → u = s.poisonSeen res →
      (∀ bs, readOutcome res = .inl bs → u.io.badReads.contains (.descriptors ring i) = false → Completes (.commitDescriptorReadDone ring i res) s fun t =>
        t = ((u.on (fun io => (Io.settle (io.completeOwn (.descriptors ring i))).forget (.descriptors ring i))).onLay (fun l =>
          { l with commits := l.commits.map (fun x => if x.ring = ring then { x with desc := some (if bit (fieldAt c.entry 16 1) 0
              then u.io.found (.descriptors ring i) (fieldAt c.entry 8 8) (128 * fieldAt c.entry 18 1) else sub bs 0 (128 * fieldAt c.entry 18 1)) } else x) })).advance) ∧
      ∀ k, (readOutcome res = .inr k ∧ u.io.badReads.contains (.descriptors ring i) = false) ∨ (k = 8 ∧ u.io.badReads.contains (.descriptors ring i) = true) →
        Completes (.commitDescriptorReadDone ring i res) s fun t => t =
          ((u.on (·.readFault (.descriptors ring i) (fieldAt c.entry 17 1) (fieldAt c.entry 8 8) k)).descFailed ring i).advance) ∧
  -- FENCE_SIGNAL (R179)
  (∀ (s : State) (ring i : Nat) (e : List Byte), s.io.Ready ring i 0x11 true (fenceFieldsOk e) e →
      (255 < fieldAt e 8 2 → Completes (.fenceSignal ring i) s fun t => t = s.on (·.answer ring i e { status := 0x01, detail := 0x06 })) ∧
      ∀ v, v = max (s.io.getWide (Fld.CMP_FENCE_LO (fieldAt e 8 2)) (Fld.CMP_FENCE_HI (fieldAt e 8 2))) (fieldAt e 16 8) → fieldAt e 8 2 ≤ 255 →
        Completes (.fenceSignal ring i) s fun t => t = s.on (fun io =>
          (io.setWide (Fld.CMP_FENCE_LO (fieldAt e 8 2)) (Fld.CMP_FENCE_HI (fieldAt e 8 2)) v).answer ring i e { info := v })) ∧
  -- FENCE_WORD_READ (R180)
  (∀ (s : State) (key i : Nat) (r : LayerRec) (u : State) (f : FenceRead) (x : Io × Option (Nat × Nat)), s.fenceRecord key = some (r, i) →
      s.video.lay.fences.any (fun f => f.key == key && f.index == i) = false →
      f = { key := key, index := i, period := s.io.tick, host := r.fenceKind % 16 == 3, ctx := r.fenceCtx, addr := r.fenceAddr } →
      u = s.onLay (fun l => { l with fences := { key := key, index := i, value := none } :: l.fences }) → x = u.io.issueRead (.fence key) 2 (!f.host) f.ctx f.addr 8 →
      (x.2 = none → Completes (.fenceWordRead key) s fun t => t = ({ u with io := x.1 } : State).onLay (fun l => { l with fenceReads := l.fenceReads ++ [f] })) ∧
      ∀ k a, x.2 = some (k, a) → Completes (.fenceWordRead key) s fun t => t = ({ u with io := x.1 } : State).fenceFailed f k) ∧
  -- an operation that the clauses name
  (∀ (k : Nat) (d : Deadline) (c : CommitRun), (d.s.io.activeEntry c.ring c.index 0x10).isSome = true → fieldAt c.entry 24 6 ≤ k + 2 → c.desc.isSome = true →
      d.s.recordFault [] c.records = none → c.records.find? (fun (r : LayerRec) => d.changed.contains r.layer) = none →
      ∀ r j, (c.records.zipIdx).find? (fun (r : LayerRec × Nat) => !d.s.fenceMet c r.2 r.1) = some (r, j) →
        Deadline.commit k d c = d.wait c 1 (some (LayerRec.layer r))) ∧
  -- FENCE_READ_COMPLETE (R180)
  (∀ (s u : State) (key : Nat) (res : ReadResult) (f : FenceRead), s.video.lay.fenceReads.find? (·.key == key) = some f →
      s.io.held (.fence key) = false → u = (s.endFenceRead f).poisonSeen res →
      (∀ bs v, readOutcome res = .inl bs → u.io.badReads.contains (.fence key) = false → v = (if f.host then fieldAt bs 0 8 else leNat (u.io.found (.fence key) f.addr 8)) →
        Completes (.fenceReadComplete key res) s fun t => t =
          ((u.on (fun io => (Io.settle (io.completeOwn (.fence key))).forget (.fence key))).onLay (fun l =>
            { l with fences := l.fences.map (fun e => if e.key = key ∧ e.index = f.index ∧ f.period = u.io.tick then { e with value := some v } else e) })).advance) ∧
      ∀ k, (readOutcome res = .inr k ∧ u.io.badReads.contains (.fence key) = false) ∨ (k = 8 ∧ u.io.badReads.contains (.fence key) = true) →
        Completes (.fenceReadComplete key res) s fun t => t = (u.fenceFailed f k).advance) ∧
  -- COMPILE_DEADLINE (R181)
  (∀ s : State, s.io.operational = true → s.io.hasHost = true → s.tick.inGap = false → s.video.lay.deadline ≠ some s.io.tick →
      (s.serving = false → s.openDeadline.video.lay.compiled.any (fun c => c.tick == s.io.tick + 1) = true →
        Completes .compileDeadline s fun t => t = s.openDeadline) ∧
      (s.serving = false → s.openDeadline.video.lay.compiled.any (fun c => c.tick == s.io.tick + 1) = false →
        Completes .compileDeadline s fun t => t = s.openDeadline.pinFrames) ∧
      ∀ (u : State) (d : Deadline), s.serving = true → u = s.openDeadline.pinFrames →
        d = (u.video.lay.commits.foldl (fun l c => insertCommit c l) []).foldl (Deadline.commit s.io.tick)
          { s := u, layers := u.video.lay.compiled.foldl (fun ls c => if s.io.tick < c.tick then u.applyRecords ls c.records else ls) u.video.lay.layers,
            changed := [], waited := false } →
        Completes .compileDeadline s fun t => t = if d.waited then (d.s.onLay (fun l => { l with fences := [] })).fire 162 else d.s.onLay (fun l => { l with fences := [] })) ∧
  -- RELEASE_DUE (R186)
  (∀ (s : State) (ring i : Nat) (r : ReleaseDue), s.video.lay.releases.find? (fun r => r.ring == ring && r.index == i) = some r →
      r.tick ≤ s.io.tick → s.readsRun (r.tick - 2) = false →
      s.pair ≠ pACTIVE ∨ s.pairLink = false ∨ s.pairUnit.lockstep = false ∨ r.tick ≤ s.pairUnit.readDone →
      Completes (.releaseDue ring i) s fun t => t.video.lay.releases = eraseFirst (fun x => x == r) s.video.lay.releases ∧
        t.io = (s.io.complete ring i r.entry { kind := 2, info := r.mask }).finishDestroy ring)

/-- A capture buffer is queued and filled, and compose slots make the rows of a frame (one clause for each command; derived from the rules of the chapter). Model choices that clauses rest on: log 10, 48, 64, 98. -/
def Obligations.CaptureAndComposition : Prop :=
  -- CAPTURE_BUFFER (R214)
  (∀ (s : State) (ring i : Nat) (e : List Byte), s.io.Ready ring i 0x30 true (captureFieldsOk e) e →
      (∀ d, s.captureCase e = d → d ≠ 0 → Completes (.captureBuffer ring i) s fun t => t = s.on (·.answer ring i e { status := 0x01, detail := d })) ∧
      (s.captureCase e = 0 → 4 ≤ (s.video.captures.filter (·.region == fieldAt e 8 1)).length → Completes (.captureBuffer ring i) s fun t => t = s) ∧
      (s.captureCase e = 0 → (s.video.captures.filter (·.region == fieldAt e 8 1)).length < 4 → (s.io.ring ring).fetched.head? = some (i, e) →
        Completes (.captureBuffer ring i) s fun t => t = ((s.on (·.activate ring i e)).onVideo (fun v => { v with captures := v.captures ++
            [({ ring := ring, index := i, entry := e, region := fieldAt e 8 1, frame := none, written := 0, skipped := 0, left := 0 } : CaptureBuf)] })).reportRows (fieldAt e 8 1))) ∧
  -- HOST_CAPTURE_WRITE (R216)
  (∀ (s u : State) (region slot : Nat) (mem : HostMem) (sl : Slot) (r : ComposedRow) (rest : List ComposedRow) (b : CaptureBuf) (p : Io × Nat × Option (Nat × Nat)),
      s.dueSlot region slot = some sl → sl.kind = 0x0C → u = s.startSlot region slot true →
      u.video.fifo.filter (fun r => r.region == region && decide (bits sl.operand 0 12 ≤ r.row ∧ r.row ≤ bits sl.operand 0 12 + bits sl.operand 12 4)) = r :: rest →
      u.video.captures.find? (fun b => b.region == region && b.frame == some r.frame) = some b →
      ∀ rows, rows = (r :: rest).filter (fun x => x.frame == r.frame) → p = Io.captureOps mem region b (rows.flatMap (u.captureLines b)) u.io →
      ∀ v : State, v = { u with io := Io.settle (p.1.completeOwn (.entry b.ring b.index)) } →
      (∀ k a, p.2.2 = some (k, a) → Completes (.hostCaptureWrite region slot mem) s fun t =>
        t = (v.on (fun io => (Io.settle ((io.countFault).logFault region a k 1 (if bit (fieldAt b.entry 10 1) 0 then 0 else fieldAt b.entry 11 1) sl.lane none true)).fireIn 101 region)).endCapture b
          { status := 0x06, detail := k, info := b.bytes + p.2.1 }) ∧
      (p.2.2 = none → ∀ b', b' = { b with written := b.written + rows.length, bytes := b.bytes + p.2.1 } → Completes (.hostCaptureWrite region slot mem) s fun t =>
        t = (((v.onVideo (fun x => { x with fifo := x.fifo.filter (fun r => !rows.contains r) })).setCapture b').captureDone b').reportRows region)) ∧
  -- FETCH_COMPOSE_SLOT (R207)
  (∀ (s u : State) (region slot : Nat) (late : Bool) (mem : HostData) (n : Nat) (sl : Slot) (run : ComposeRun),
      s.dueSlot region slot = some sl → sl.kind = 0x01 → s.io.operational = true → s.video.fenced.contains region = false →
      s.blockStopped region 0 = false → s.blockStopped region 1 = false → u = s.startSlot region slot true late →
      (u.video.handoff ++ u.video.taken).any (fun r => r.region == region && r.frame == (if late then u.io.tick else u.io.tick + 1) && r.row == bits sl.operand 0 12) = false →
      u.video.composing.any (fun c => c.region == region && c.slot == slot) = false →
      run = { region := region, slot := slot, next := bits sl.operand 0 12, last := bits sl.operand 0 12 + bits sl.operand 12 4,
              frame := if late then u.io.tick else u.io.tick + 1, plan := if late then u.video.lay.before else u.video.lay.layers,
              mem := { mem with inFlight := n }, late := late, fetched := false, waiting := false } →
      Completes (.fetchComposeSlot region slot late mem n) s fun t => t = State.composeOn 17 run sl.lane (u.lookAhead run run.all (bits sl.operand 0 12 + 1))) ∧
  -- an operation that the clauses name
  (∀ (k : Nat) (run : ComposeRun) (lane : Nat) (s u : State), run.next ≤ run.last → (s.handoffOf run.region).length < 4 →
      u = (if run.fetched then s else s.fetchRow run lane run.next run.all) →
      (u.io.busy (.slot run.region run.slot) = false →
        State.composeOn (k + 1) run lane s = State.composeOn k { run with next := run.next + 1, fetched := false, waiting := false } lane (u.composeRow run run.next)) ∧
      (u.io.busy (.slot run.region run.slot) = true →
        State.composeOn (k + 1) run lane s = u.onVideo (fun v => { v with composing := v.composing ++ [{ run with fetched := true, waiting := false }] }))) ∧
  -- HANDOFF_ROW_FREE (R213)
  (∀ (s u : State) (region : Nat) (r : ComposedRow) (rest : List ComposedRow), s.handoffOf region = r :: rest →
      u = (s.onVideo (fun v => { v with handoff := eraseFirst (fun x => x == r) v.handoff, taken := v.taken ++ [r] })).reportRows region →
      (u.video.composing.find? (fun c => c.region == region && c.waiting) = none → Completes (.handoffRowFree region) s fun t => t = u) ∧
      ∀ run sl, u.video.composing.find? (fun c => c.region == region && c.waiting) = some run → u.slot run.region run.slot = some sl →
        Completes (.handoffRowFree region) s fun t => t = State.composeOn 17 run sl.lane (u.onVideo (fun v => { v with composing := eraseFirst (fun x => x == run) v.composing })))

/-- A slot encodes its row into segments, key requests are accepted for a tick, segments come in and are decoded, and a row that is late is concealed (one clause for each command; derived from the rules of the chapter). Model choices that clauses rest on: log 24, 25, 29, 64, 98. -/
def Obligations.EncodingAndDecoding : Prop :=
  -- ENCODE_SLOT (R238)
  (∀ (s u : State) (region slot : Nat) (late : Bool) (sl : Slot) (e : Position) (r : State × List (List Byte)), s.dueSlot region slot = some sl →
      s.sliceOf (bits sl.operand 6 4) (bits sl.operand 0 6) = some e → sl.kind = 0x02 → s.io.operational = true → s.video.fenced.contains region = false →
      u = s.startSlot region slot true late →
      r = u.encodeSlice region slot e (s.plan.own == some e) (if late then s.io.tick else s.io.tick + 1) late (s.blockStopped region 2) →
      Completes (.encodeSlot region slot late) s fun t => t = (if s.plan.own = some e then r.2.foldl (fun x g => x.keepSegment 0 g true) r.1 else r.1).compareAll) ∧
  -- KEY_REQUEST_RECEIVED (R266)
  (∀ (s u : State) (port : Nat) (cell : List Byte) (x : Nat) (c : Cell), (s.on (·.at x)).acceptCell port 0x1 cell = (u, some c) →
      Completes (.keyRequestReceived port cell x) s fun t => t = (u.portBump Fld.LNK_KEYREQ_RX port).keyRequest c.chain c.position c.payload x) ∧
  -- an operation that the clauses name
  (∀ (s : State) (chain pos x first last : Nat) (pl : List Byte), s.serving = true → s.pair ≠ pACTIVE → s.keyRows chain pos pl = some (first, last) →
      s.keyRequest chain pos pl x = s.acceptKeys chain pos (s.acceptTick x) first last) ∧
  -- SEGMENT_RECEIVED (R240)
  (∀ (s u : State) (port : Nat) (packet pl : List Byte) (h : PacketHead) (ok : Bool), s.takePacket port packet = (u, some (h, pl, ok)) → h.ptype = 1 →
      (u.io.isTile = true → u.keeps h = true → h.bcast = false → Completes (.segmentReceived port packet false) s fun t => t = (u.keepSegment 0 pl ok).compareAll) ∧
      (u.io.isTile = true → u.keeps h = false ∨ h.bcast = true → Completes (.segmentReceived port packet false) s fun t => t = u.compareAll) ∧
      ∀ c, u.io.isTile = false → u.cascadePort port = some c → c.chain = h.chain → c.position = h.position →
        Completes (.segmentReceived port packet false) s fun t => t = (u.keepSegment (port + 1) pl ok).compareAll) ∧
  -- DECODE_SLOT (R242)
  (∀ (s : State) (region slot lo k : Nat) (sl : Slot), s.dueSlot region slot = some sl → sl.decodes 0 region = some (lo, k) →
      s.video.fenced.contains region = false → s.blockStopped region 3 = false →
      Completes (.decodeSlot region slot) s fun t => t = (s.startSlot region slot true).decodeRows 0 region sl.lane lo k) ∧
  -- CASCADED_INPUT_DECODE (R245)
  (∀ (s : State) (region slot lo k : Nat) (sl : Slot), s.dueSlot region slot = some sl → sl.kind = 0x0E →
      sl.decodes (4 * region + bits sl.operand 12 2 + 1) region = some (lo, k) → s.video.fenced.contains region = false → s.blockStopped region 3 = false →
      Completes (.cascadedInputDecode region slot) s fun t => t = (s.startSlot region slot true).decodeRows (4 * region + bits sl.operand 12 2 + 1) region sl.lane lo k) ∧
  -- ROW_CUTOFF (R241)
  (∀ (s : State) (region slot row : Nat) (late : Bool) (sl : Slot) (e : Position), s.slot region slot = some sl →
      (sl.kind ≠ 0x0E → s.streamSlice 0 = some e → sl.covers 0 region row = true → row < e.rows →
        Completes (.rowCutoff region slot row late) s fun t => t = s.lateRow 0 region e (if late then s.io.tick else s.io.tick + 1) row) ∧
      ∀ st, st = 4 * region + bits sl.operand 12 2 + 1 → sl.kind = 0x0E → s.streamSlice st = some e → sl.covers st region row = true → row < e.rows →
        Completes (.rowCutoff region slot row late) s fun t => t = s.lateRow st region e ((s.decoder st).frame.getD ((s.decoder st).ended + 1)) row) ∧
  -- an operation that the clauses name
  (∀ (s : State) (st n : Nat) (e : Position) (frame row : Nat), (s.decoder st).settled frame row = true → s.lateRow st n e frame row = s) ∧
  -- CASCADE_FRAME_COMPLETE (R173)
  (∀ (s : State) (port x f : Nat) (e : Position), s.streamSlice (port + 1) = some e → (s.decoder (port + 1)).frame = some f →
      (List.range e.rows).all (fun r => (s.decoder (port + 1)).resolved.contains (f, r)) = true →
      Completes (.cascadeFrameComplete port x) s fun t => (t.decoder (port + 1)).frame = none ∧ (t.decoder (port + 1)).ended = f)

/-- A lamp slot turns a decoded row into drive codes, a wear sample adds to the wear of its channels, and the ceiling of the wall is set and followed (one clause for each command; derived from the rules of the chapter). Model choices that clauses rest on: log 30, 31, 64. -/
def Obligations.LampsAndWear : Prop :=
  -- LAMP_PIPELINE_SLOT (R340)
  (∀ (s u : State) (region slot frame : Nat) (late : Bool) (sl : Slot) (e : Position) (l : LampLatch), s.dueSlot region slot = some sl → s.slice = some e →
      frame = (if late then s.io.tick else s.io.tick + 1) → sl.kind = 0x05 → s.video.fenced.contains region = false → s.blockStopped region 4 = false →
      s.latchOf frame = some l →
      u = (((List.range (bits sl.operand 12 4 + 1)).map (bits sl.operand 0 12 + ·)).filter (fun r =>
            decide (r < e.rows) && !s.lamp.rows.any (fun x => x.frame == frame && x.row == r))).foldl (fun s' r => s'.lampRow region sl.lane e l r) (s.startSlot region slot true late) →
      Completes (.lampPipelineSlot region slot late) s fun t => t =
        if (s.lamp.rows.filter (fun r => r.frame == frame)).length ≠ e.rows ∧ (u.lamp.rows.filter (fun r => r.frame == frame)).length = e.rows
        then u.classifyFrame e.width frame else u) ∧
  -- WEAR_SAMPLE_SLOT (R345)
  (∀ (s u v : State) (region slot frame : Nat) (late : Bool) (sl : Slot) (e : Position) (l : LampLatch), s.dueSlot region slot = some sl → s.slice = some e →
      frame = (if late then s.io.tick else s.io.tick + 1) → sl.kind = 0x0B → s.io.operational = true → s.lamp.wearRun.contains (frame, region, slot) = false →
      s.video.fenced.contains region = false → s.blockStopped region 4 = false → s.latchOf frame = some l →
      u = (((List.range (bits sl.operand 12 4 + 1)).map (bits sl.operand 0 12 + ·)).filter (fun r => decide (r < e.rows))).foldl
        (fun s' r => s'.wearRow region sl.lane e l r) (s.startSlot region slot true late) →
      v = u.onLamp (fun m => { m with wearRun := (frame, region, slot) :: m.wearRun }) →
      Completes (.wearSampleSlot region slot late) s fun t =>
        t = if frame % 64 = 63 ∧ (v.lamp.wearRun.filter (fun x => x.1 == frame)).length = v.wearSlots then v.endCycle frame else v) ∧
  -- CEILING_CHECK (R353)
  (∀ s : State, s.io.operational = true →
      (∀ c, s.ceilTile = true → s.io.hasLamps = true → s.isF Fld.LMP_HEADROOM_VALID = true → s.nextSchedule (s.getF Fld.LMP_HEADROOM_HMIN) = some c →
        Completes .ceilingCheck s fun t => t = s.adoptSchedule c) ∧
      ∀ c, s.ceilTile = false → s.hasCeiling = true → s.serving = true → s.io.tick % 64 = 0 → s.wallHeadroom.bind s.nextSchedule = some c →
        Completes .ceilingCheck s fun t => t = (s.adoptSchedule c).wallCommand 0x03 c.body) ∧
  -- CEILING_RECEIVED (R352)
  (∀ (s u : State) (port : Nat) (packet b : List Byte), s.keptCmd port 0x03 packet [stJOINING, stOPERATIONAL] = (u, some b) → u.ceilTile = false →
      Completes (.ceilingReceived port packet) s fun t => t = u.takeSchedule (readSchedule b))

/-- Driver groups are loaded and synchronised, a TE edge or its absence starts a group, Grey-pulse windows choose channels, and lamp state is kept (one clause for each command; derived from the rules of the chapter). Model choices that clauses rest on: log 98. -/
def Obligations.DriversAndSync : Prop :=
  -- DRIVER_LOAD_SLOT (R370)
  (∀ (s u : State) (region slot : Nat) (late : Bool) (input : LoadInput) (sl : Slot) (g : Nat), s.dueSlot region slot = some sl → g = 12 * region + (sl.lane - 13) →
      sl.kind = 0x06 → 13 ≤ sl.lane → sl.lane ≤ 24 → s.io.hasLamps = true → s.io.operational = true → s.groupUsed g = true → s.boot.power ≠ 2 →
      s.video.fenced.contains region = false → s.driversStopped region = false → s.video.synced < s.loadFrame sl late → u = s.startSlot region slot true late →
      (bits sl.operand 0 6 = 0 → u.selfRefresh (u.groupProfile g) = true → u.isF (Fld.DRV_TE_CFG_ENABLE region) = true →
        Completes (.driverLoadSlot region slot late input) s fun t => t = u.setGroup { u.group g with waiting := some (slot, input) }) ∧
      (bits sl.operand 0 6 ≠ 0 ∨ u.selfRefresh (u.groupProfile g) = false ∨ u.isF (Fld.DRV_TE_CFG_ENABLE region) = false →
        Completes (.driverLoadSlot region slot late input) s fun t => t = u.loadSlot g (s.loadFrame sl late) (bits sl.operand 0 6) (bits sl.operand 6 6 + 1) input)) ∧
  -- TE_EDGE (R377)
  (∀ (s : State) (region : Nat), s.io.regionActive region = true →
      (∀ rising, (rising = s.isF (Fld.DRV_TE_CFG_POLARITY region) ∨ s.isF (Fld.DRV_TE_CFG_ENABLE region) = false) →
        Completes (.teEdge region rising) s fun t => t = s.setF (Fld.DRV_TE_STAT_LEVEL region) (flag rising)) ∧
      ∀ rising u, u = s.setF (Fld.DRV_TE_STAT_LEVEL region) (flag rising) → rising ≠ s.isF (Fld.DRV_TE_CFG_POLARITY region) → s.isF (Fld.DRV_TE_CFG_ENABLE region) = true →
        Completes (.teEdge region rising) s fun t => t = (u.teGroups region).foldl (fun v g =>
          if (v.group g).waiting.isSome then v.teStart g
          else if v.isF (Fld.DRV_GROUP_STAT_LOADING region (g % 12)) || (v.laneOf region (13 + g % 12)).running.isSome then
            (v.bumpF (Fld.DRV_TE_OVERRUN region)).on (·.fireObj 356 (some region) g) else v) u) ∧
  -- TE_TIMEOUT (R377)
  (∀ (s : State) (group : Nat), (s.group group).waiting.isSome = true →
      Completes (.teTimeout group) s fun t => t = ((s.teStart group).bumpF (Fld.DRV_TE_MISSING (group / 12))).on (·.fireObj 355 (some (group / 12)) group)) ∧
  -- BROADCAST_SYNC (R374)
  (∀ s : State, s.io.hasLamps = true → s.video.synced < s.io.tick → s.tick.inGap = false → s.boot.power = 0 → s.boot.restartAfter = none →
      Completes .broadcastSync s fun t => t.video.synced = s.io.tick ∧
        (s.syncGroups ≠ [] → t.getF Fld.DRV_SYNC_COUNT = min (s.getF Fld.DRV_SYNC_COUNT + 1) (2 ^ 32 - 1)) ∧
        (s.syncGroups = [] → t.getF Fld.DRV_SYNC_COUNT = s.getF Fld.DRV_SYNC_COUNT)) ∧
  -- GREY_PULSE_WINDOW (R409)
  (∀ (s u : State) (region slot : Nat) (sl : Slot), s.dueSlot region slot = some sl → sl.kind = 0x0A → s.io.hasLamps = true →
      (s.isF Fld.LBD_CFG_GREY_EN = false → Completes (.greyPulseWindow region slot) s fun t => t = s) ∧
      (s.isF Fld.LBD_CFG_GREY_EN = true → u = s.startSlot region slot false → Completes (.greyPulseWindow region slot) s fun t =>
        ∃ (frame : Nat) (chosen : List Channel), u.io.tick ≤ frame ∧ frame ≤ u.io.tick + 2 ∧ chosen.length ≤ bits sl.operand 0 12 ∧
          (∀ c ∈ chosen, u.greyAfter ≤ c.unmeas ∧ u.channelRegion c = region) ∧
          t = (u.onLamp fun m => { m with grey := m.grey ++ chosen.map fun c => (frame, c.number) }).bumpF Fld.LBD_GREY_PULSES chosen.length)) ∧
  -- UNVERIFIED_MINUTE (R411)
  (∀ s : State, Completes .unverifiedMinute s fun t =>
      t = s.litBoards.foldl (fun u b => (u.mapChannels b (fun c => if c.unverified then { c with minutes := min 65535 (c.minutes + 1) } else c)).reportBoard b) s) ∧
  -- BLEND_REQUEST (R356)
  (∀ (s : State) (updates : List (Nat × List Byte)), s.io.hasLamps = true → Completes (.blendRequest updates) s fun t => t = s.blendRequest updates) ∧
  -- PERSIST_HOURLY (R354)
  (∀ (s u : State), stTRAINING ≤ s.io.boot → s.io.boot ≠ stUMBER →
      (u = if (match s.record 4 with | some r => sub r 16 2 != sub s.ceilRecord 16 2 || sub r 24 128 != sub s.ceilRecord 24 128 | none => true) || s.wall.changed then s.writeCeiling else s) →
      ((u.queueRecord 3 u.thermRecord).io.hasLamps = false → Completes .persistHourly s fun t => t = u.queueRecord 3 u.thermRecord) ∧
      ((u.queueRecord 3 u.thermRecord).io.hasLamps = true → Completes .persistHourly s fun t =>
        t = (u.queueRecord 3 u.thermRecord).queueRecord 6 (u.queueRecord 3 u.thermRecord).unverifiedRecord))

/-- A board that appears is attached and read, one that is gone is dropped, its sensor is read, its wear store and fault copy are written in passes, and it is released and retested on command (one clause for each command; derived from the rules of the chapter). Model choices that clauses rest on: log 32, 97. -/
def Obligations.LampBoards : Prop :=
  -- PRESENCE_POLL (R388)
  (∀ (s : State) (bus slot : Nat) (header : List Byte) (p : BoardSlot), s.io.hasLamps = true → stLOADING ≤ s.io.boot → s.io.boot ≠ stUMBER → bus < 16 → slot < 4 → s.io.regionActive (bus / 4) = true →
      p = ((s.boardReads 1).lamp.slots.find? (fun x => x.bus == bus && x.slot == slot)).getD { bus := bus, slot := slot } →
      ∀ set : BoardSlot → State, set = (fun q => (s.boardReads 1).onLamp (fun m => { m with slots := q :: m.slots.filter (fun x => !(x.bus == bus && x.slot == slot)) })) →
      (headerValid header = p.present → Completes (.presencePoll bus slot header) s fun t => t = set { p with run := 0 }) ∧
      (headerValid header ≠ p.present → p.run = 0 → Completes (.presencePoll bus slot header) s fun t => t = set { p with run := 1 }) ∧
      ∀ u : State, u = (set { p with present := headerValid header, run := 0 }).setF (Fld.LBD_BUS_STAT_PRESENT (bus / 4) (bus % 4))
          (putBits ((set { p with present := headerValid header, run := 0 }).getF (Fld.LBD_BUS_STAT_PRESENT (bus / 4) (bus % 4))) slot 1 (flag (headerValid header))) →
        headerValid header ≠ p.present → 1 ≤ p.run →
        (∀ b, u.namedBoard bus slot = some b → Completes (.presencePoll bus slot header) s fun t => t = if headerValid header then u.boardState b 1 else u.boardGone b) ∧
        (u.namedBoard bus slot = none → Completes (.presencePoll bus slot header) s fun t => t = if headerValid header then u.on (·.fireIn 398 (bus / 4)) else u)) ∧
  -- ATTACH_READS_DONE (R395)
  (∀ (s : State) (board : Nat), s.getF (Fld.LBD_BOARD_STAT_STATE board) = 1 → board < s.boardCount →
      Completes (.attachReadsDone board none) s (fun t => t = ((s.boardReads 2).busError ((s.boardReads 2).boardBus board)).rejectBoard board 6) ∧
      ∀ r u, u = s.boardReads r.length → (u.rejectReason board r = 0 → Completes (.attachReadsDone board (some r)) s fun t => t = u.attachBoard board r) ∧
        (u.rejectReason board r ≠ 0 → Completes (.attachReadsDone board (some r)) s fun t => t = u.rejectBoard board (u.rejectReason board r))) ∧
  -- SENSOR_READ (R388)
  (∀ (s u : State) (board value : Nat), s.getF (Fld.LBD_BOARD_STAT_STATE board) = 3 → s.isF (Fld.LBD_BOARD_STAT_SENSOR board) = true → u = s.boardReads 1 →
      (-5120 ≤ signed 16 value → signed 16 value ≤ 19200 → Completes (.sensorRead board value) s fun t =>
        t = ((u.setF (Fld.LBD_BOARD_TEMP board) (value % 2 ^ 16)).setF (Fld.LBD_BOARD_STAT_SENSOR_FAULT board) 0).onTherm
          (fun m => { m with sensors := (board, signed 16 value) :: m.sensors.filter (·.1 != board) })) ∧
      ∀ v : State, v = (u.setF (Fld.LBD_BOARD_STAT_SENSOR_FAULT board) 1).onTherm (fun m => { m with sensors := m.sensors.filter (·.1 != board) }) →
        ¬(-5120 ≤ signed 16 value ∧ signed 16 value ≤ 19200) →
        ((v.board board).fired.contains 396 = true → Completes (.sensorRead board value) s fun t => t = v) ∧
        ((v.board board).fired.contains 396 = false → Completes (.sensorRead board value) s fun t =>
          t = (v.setBoard { v.board board with fired := 396 :: (v.board board).fired }).on (·.fireObj 396 (some (v.boardBus board / 4)) board))) ∧
  -- WEAR_STORE_TIMER (R400)
  (∀ s : State, Completes .wearStoreTimer s fun t => t = (s.litBoards.filter (fun b => !s.lamp.passes.any (·.board == b))).foldl (fun u b => u.queuePass b 0 false) s) ∧
  -- CHUNK_WRITE_DONE (R393)
  (∀ (s u : State) (bus home : Nat) (p : StorePass), s.busPass bus = some p → p.bytes ≠ [] → u = s.boardReads 1 → home = fieldAt (u.board p.board).header 0x48 4 + 4096 * p.chunk →
      (p.inPlace = true → Completes (.chunkWriteDone bus true) s fun t => t = ((u.nextChunk p).bumpF Fld.LBD_WEAR_WRITES).runPass bus) ∧
      (p.inPlace = false → Completes (.chunkWriteDone bus true) s fun t => t = (u.setPass { p with inPlace := true, failed := false }).boardWrite p.board home p.bytes) ∧
      (p.failed = false → Completes (.chunkWriteDone bus false) s fun t => t = (u.setPass { p with failed := true }).boardWrite
        p.board (if p.inPlace then home else fieldAt (u.board p.board).header 0x4C 4) p.bytes) ∧
      (p.failed = true → Completes (.chunkWriteDone bus false) s fun t => t = (((u.busError bus).on (·.fireObj 395 (some (bus / 4)) p.board)).nextChunk p).runPass bus)) ∧
  -- STORE_PASS_DONE (R400)
  (∀ (s u : State) (bus : Nat) (p : StorePass), s.busPass bus = some p → p.bytes = [] → s.chunkCount p.board ≤ p.chunk →
      u = (s.writeFaultCopy p.board).onLamp (fun m => { m with passes := eraseFirst (fun q => q == p) m.passes }) →
      (p.why ≠ 1 → Completes (.storePassDone bus) s fun t => t = u.runPass bus) ∧
      ∀ v, v = ((u.queueRecord 6 u.unverifiedRecord).boardState p.board 4).setF (Fld.LBD_BOARD_STAT_LIFE_WARN p.board) 0 → p.why = 1 →
        Completes (.storePassDone bus) s fun t => t = ((v.setBoard { v.board p.board with releasing := false, kept := none }).on (·.fireObj 388 (some (bus / 4)) p.board)).runPass bus) ∧
  -- FAULT_COPY_WRITE (R400)
  (∀ (s : State) (board : Nat), s.litBoards.contains board = true → (s.board board).dirty = true →
      Completes (.faultCopyWrite board) s fun t => t = s.writeFaultCopy board ∧ (t.board board).dirty = false) ∧
  -- BOARD_RELEASE (R398)
  (∀ (s : State) (board : Nat) (path : RegPath), board < 64 → s.Accepts path Reg.LBD_TEST → Completes (.boardRelease board path) s fun t => t = (s.setF Fld.LBD_TEST_BOARD board).releaseBoard board) ∧
  -- BOARD_RETEST (R406)
  (∀ (s : State) (board : Nat) (path : RegPath), board < 64 → s.Accepts path Reg.LBD_TEST → Completes (.boardRetest board path) s fun t => t = (s.setF Fld.LBD_TEST_BOARD board).retestBoard board)

/-- Audio entries queue and complete their buffers, streams start and stop at their ticks, and a fade ends (one clause for each command; derived from the rules of the chapter). Model choices that clauses rest on: log 33, 34, 48. -/
def Obligations.AudioStreams : Prop :=
  -- AUDIO_WINDOW (R422)
  (∀ (s u : State) (region slot target aligns : Nat) (mem : HostData) (n : Nat) (sl : Slot), s.dueSlot region slot = some sl →
      sl.kind = 0x09 → 29 ≤ sl.lane → sl.lane ≤ 32 → s.io.hasHost = true → s.chCount target ≠ 0 → u = s.startSlot region slot false → u.audio.built.contains target = true →
      (u.audio.left.find? (·.1 == target) = none → Completes (.audioWindow region slot target aligns mem n) s fun t => t = u) ∧
      ∀ cont bs room, u.audio.left.find? (·.1 == target) = some (target, cont, bs) → room = windowBytes sl.nomDur (u.getF (Fld.LNK_STATE_RATE_NOW (target / 4) (target % 4))) aligns →
        Completes (.audioWindow region slot target aligns mem n) s fun t =>
          t.io.out = .control target (eobWord false (decide ((bs.take room).length % 8 = 4))) :: .packet target (bs.take room) :: .control target (sobWord cont) :: u.io.out ∧
          t.audio.left = u.audio.left.filter (·.1 != target) ++ (if room < bs.length then [(target, true, bs.drop room)] else [])) ∧
  -- PLAY (R424)
  (∀ (s : State) (ring i : Nat) (e : List Byte), s.io.Ready ring i 0x20 true (playFieldsOk e) e →
      (s.chCount (fieldAt e 8 1) < fieldAt e 9 1 + fieldAt e 10 1 → Completes (.play ring i) s fun t => t = s.on (·.answer ring i e { status := 0x01, detail := 1 })) ∧
      (fieldAt e 9 1 + fieldAt e 10 1 ≤ s.chCount (fieldAt e 8 1) → Completes (.play ring i) s fun t =>
        t.io = s.io.activate ring i e ∧ t.audio.plays = s.audio.plays ++ [{ ring := ring, index := i, entry := e, first := none, done := 0 }])) ∧
  -- AUDIO_CAPTURE (R424)
  (∀ (s : State) (ring i : Nat) (e : List Byte), s.io.Ready ring i 0x21 true (audioCaptureFieldsOk e) e →
      (s.inputPort (fieldAt e 8 1) = false → Completes (.audioCapture ring i) s fun t => t = s.on (·.answer ring i e { status := 0x01, detail := 2 })) ∧
      (s.inputPort (fieldAt e 8 1) = true → Completes (.audioCapture ring i) s fun t =>
        t.io = s.io.activate ring i e ∧ t.audio.caps = s.audio.caps ++ [{ ring := ring, index := i, entry := e, first := none, done := 0 }])) ∧
  -- AUDIO_START (R426)
  (∀ (s : State) (ring i : Nat) (e : List Byte), s.io.Ready ring i 0x23 true (orderFieldsOk e) e →
      ((setBits (fieldAt e 8 3) 17).any (fun t => decide (s.chCount t = 0)) = true ∨ (setBits (fieldAt e 12 2) 16).any (fun p => !s.inputPort p) = true →
        Completes (.audioStart ring i) s fun t => t = s.on (·.answer ring i e { status := 0x01, detail := 2 })) ∧
      ((setBits (fieldAt e 8 3) 17).any (fun t => decide (s.chCount t = 0)) = false → (setBits (fieldAt e 12 2) 16).any (fun p => !s.inputPort p) = false →
        Completes (.audioStart ring i) s fun t => t.audio.orders = s.audio.orders ++
          [{ ring := ring, index := i, entry := e, stop := false, tick := max (fieldAt e 16 6) (s.io.tick + 1) }])) ∧
  -- AUDIO_STOP (R426)
  (∀ (s : State) (ring i : Nat) (e : List Byte), s.io.Ready ring i 0x24 true (orderFieldsOk e) e →
      ((setBits (fieldAt e 8 3) 17).any (fun t => decide (s.chCount t = 0)) = true ∨ (setBits (fieldAt e 12 2) 16).any (fun p => !s.inputPort p) = true →
        Completes (.audioStop ring i) s fun t => t = s.on (·.answer ring i e { status := 0x01, detail := 2 })) ∧
      ((setBits (fieldAt e 8 3) 17).any (fun t => decide (s.chCount t = 0)) = false → (setBits (fieldAt e 12 2) 16).any (fun p => !s.inputPort p) = false →
        Completes (.audioStop ring i) s fun t => t.audio.orders = s.audio.orders ++
          [{ ring := ring, index := i, entry := e, stop := true, tick := max (fieldAt e 16 6) (s.io.tick + 1) }])) ∧
  -- AUDIO_FADE_DONE (R431)
  (∀ (s : State) (port : Nat), port < 16 → s.audState port = 4 → Completes (.audioFadeDone port) s fun t => t = s.setAudState port 1)

/-- Masks are taken and forwarded, packets fill the samples of a period or miss it, a frame moves samples, and a port loses, regains and locks its clock (one clause for each command; derived from the rules of the chapter). Model choices that clauses rest on: log 34, 100. -/
def Obligations.AudioPortsAndPackets : Prop :=
  -- MASK (R427)
  (∀ (s : State) (ring i : Nat) (e : List Byte) (p mask : Nat), s.io.Ready ring i 0x22 true (maskFieldsOk e) e → p = fieldAt e 10 1 → mask = fieldAt e 12 4 →
      fieldAt e 8 1 = 16 →
      (16 ≤ p ∨ s.audEnabled p = false → Completes (.mask ring i) s fun t => t = s.on (·.answer ring i e { status := 0x01, detail := 2 })) ∧
      (p < 16 → s.audEnabled p = true →
        (s.audInput p = false → s.maskExceeds 16 (s.getF (Fld.AUD_PORT_CFG_CHAN_BASE (p / 4) (p % 4))) mask = true →
          Completes (.mask ring i) s fun t => t = s.on (·.answer ring i e { status := 0x01, detail := 3 })) ∧
        (s.audInput p = true ∨ s.maskExceeds 16 (s.getF (Fld.AUD_PORT_CFG_CHAN_BASE (p / 4) (p % 4))) mask = false →
          Completes (.mask ring i) s fun t => t = ((s.on (·.activate ring i e)).onAudio (fun a => { a with masks := a.masks ++
            [{ entry := some (ring, i, e), target := 16, cls := fieldAt e 9 1, port := p, mask := mask, apply := some ((s.on (·.activate ring i e)).io.tick + 1) }] })).setF (Fld.AUD_MASK_SHADOW (p / 4) (p % 4)) mask))) ∧
  -- SLOT_MASK_RECEIVED (R427)
  (∀ (s u : State) (port p : Nat) (packet b : List Byte), s.keptCmd port 0x04 packet [stJOINING, stOPERATIONAL] = (u, some b) → fieldAt b 0 1 = u.audioClass →
      p = fieldAt b 1 1 → p < 16 → u.audEnabled p = true → u.io.tick < fieldAt b 6 6 →
      Completes (.slotMaskReceived port packet) s fun t => t.audio.masks = u.audio.masks ++
          [{ entry := none, target := u.audioTarget, cls := u.audioClass, port := p, mask := fieldAt b 2 4, apply := some (fieldAt b 6 6) }] ∧
        t.getF (Fld.AUD_MASK_SHADOW (p / 4) (p % 4)) = fieldAt b 2 4 % 2 ^ 32) ∧
  -- AUDIO_PACKET_RECEIVED (R423)
  (∀ (s u : State) (port k : Nat) (packet pl : List Byte), s.kept port 0x02 packet = (u, some pl) → k = fieldAt pl 0 6 → u.toPresent k = true →
      fieldAt pl 6 1 = u.chCount u.audioTarget → fieldAt pl 8 2 = u.sptOf (if k ≤ u.io.tick then u.rateSet else u.nextSet) →
      Completes (.audioPacketReceived port packet) s fun t => t = u.keepPack k ((List.range (fieldAt pl 8 2)).map (fun j =>
        (List.range (fieldAt pl 6 1)).map (fun c => signed 32 (fieldAt pl (12 + 4 * (j * fieldAt pl 6 1 + c)) 4))))) ∧
  -- AUDIO_PACKET_DEADLINE (R423)
  (∀ (s : State) (k : Nat), s.chCount s.audioTarget ≠ 0 → s.toPresent k = true → s.audio.packets.any (·.tick == k) = false →
      Completes (.audioPacketDeadline k) s fun t =>
        t = ((s.onAudio (fun a => { a with silent := a.silent ++ [k] })).bumpF Fld.AUD_MISSING).on (·.fires [{ event := 425, region := some s.audioRegion }])) ∧
  -- AUDIO_FRAME (R431)
  (∀ (s u : State) (port x bclks : Nat) (slots : List Nat) (full dry : Bool), port < 16 → s.audEnabled port = true → s.audState port ≠ 0 → u = s.on (·.at x) →
      (s.audMaster port = true → u.audInput port = false →
        Completes (.audioFrame port x bclks slots full dry) s fun t => t = u.outFrame port x (bclks / u.audWidth port)) ∧
      ∀ v : State, v = (if (full || dry) && decide ((u.framing port bclks).audState port = 2) then (u.framing port bclks).relock port else u.framing port bclks) →
        s.audMaster port = false →
        (v.audInput port = false → Completes (.audioFrame port x bclks slots full dry) s fun t => t = (v.outFrame port x (bclks / v.audWidth port)).countFrame port x) ∧
        (v.audInput port = true → ∀ b i, v.wallSample x 0 = some (b, i) →
          Completes (.audioFrame port x bclks slots full dry) s fun t => t = (v.deliverTo port (b.tick * b.spt + i + 1) none).countFrame port x)) ∧
  -- an operation that the clauses name
  (∀ (s : State) (port x bclks : Nat) (slots : List Nat) (b : AudioBase) (i : Nat), port < 16 → s.audEnabled port = true → s.audState port ≠ 0 →
      s.audMaster port = true → s.audInput port = true → (s.on (·.at x)).wallSample x 0 = some (b, i) →
      Completes (.audioFrame port x bclks slots false false) s fun t => t = (s.on (·.at x)).deliverTo port (b.tick * b.spt + i + 1)
        (some (slots.map (fun v => signed 32 (v % 2 ^ s.audWidth port * 2 ^ (32 - s.audWidth port)))))) ∧
  -- BCLK_LOSS (R431)
  (∀ (s : State) (port : Nat), port < 16 → s.audEnabled port = true → s.audMaster port = false → s.audState port = 1 ∨ s.audState port = 2 ∨ s.audState port = 4 →
      Completes (.bclkLoss port) s fun t => t = s.clockLost port false) ∧
  -- an operation that the clauses name
  (∀ (s : State) (port : Nat) (out : Bool), port < 16 → (s.clockLost port out).audState port = 3 ∧ ((s.clockLost port out).audPort port).outside = out) ∧
  -- BCLK_RETURN (R431)
  (∀ (s : State) (port : Nat), port < 16 → s.audState port = 3 → (s.audPort port).outside = false → Completes (.bclkReturn port) s fun t => t = s.setAudState port 1) ∧
  -- AUDIO_PORT_LOCKED (R431)
  (∀ (s : State) (port : Nat), port < 16 → s.audState port = 1 → Completes (.audioPortLocked port) s fun t =>
      t = ((s.setAudState port 2).setAudPort { s.audPort port with ref := (s.audPort port).rated <|> (s.audPort port).ref, lock := (s.audPort port).rated, bad := 0 }).fireAud 416 port)

/-- Refresh falls due, requests are granted and completed by class, panic and age raise a request, pattern runs run, and MR4 is polled (one clause for each command; derived from the rules of the chapter). Model choices that clauses rest on: log 16, 92, 93. -/
def Obligations.DramController : Prop :=
  -- REFRESH_INTERVAL_END (R157)
  (∀ (s : State) (ch : Nat), s.chanRunning ch = true → Completes (.refreshIntervalEnd ch) s fun t => t =
      (((s.on (·.at (s.chan ch).intervalEnd)).setChan ch { s.chan ch with intervalEnd := (s.chan ch).intervalEnd + trefi (s.doubled ch) }).setOwed ch
        (s.getF (Fld.DMC_CH_STAT_OWED (ch / 4) (ch % 4)) + 1))) ∧
  -- DRAM_GRANT (R153)
  (∀ (s u : State) (ch ns held : Nat) (arrivals : List (Nat × Nat × Nat × Nat × Nat)) (c : Chan), s.chanRunning ch = true → (s.chan ch).arrive arrivals = (c, held) →
      u = (s.setChan ch c).on (·.bumpF (Fld.DMC_CH_HAZARDS (ch / 4) (ch % 4)) held) →
      (0 < u.getF (Fld.DMC_CH_STAT_OWED (ch / 4) (ch % 4)) → c.queue.any c.isPanic = false →
        Completes (.dramGrant ch arrivals ns) s fun t =>
          t = (((u.setChan ch { c with lastAged := false }).refresh ch 1 false).on (·.setF (Fld.DMC_CH_STAT_OWED (ch / 4) (ch % 4)) (u.getF (Fld.DMC_CH_STAT_OWED (ch / 4) (ch % 4)) - 1))).advance) ∧
      (u.getF (Fld.DMC_CH_STAT_OWED (ch / 4) (ch % 4)) = 0 ∨ c.queue.any c.isPanic = true →
        (u.arbitrate c = none → Completes (.dramGrant ch arrivals ns) s fun t => t = u.advance) ∧
        ∀ r aged, u.arbitrate c = some (r, aged, false) → ∃ (c' c'' : Chan) (entered : List DReq), c'.admitHeld = (c'', entered) ∧
          c'.queue = (eraseFirst (· == r) c.queue).map (fun q => if q.id < r.id && c.effClass q == c.effClass r && c.ready q then { q with passed := q.passed + 1 } else q) ∧
          c'.issued = (if r.write then c.issued else c.issued ++ [r]) ∧ c'.lastAged = aged ∧ c'.panicUsed = c.panicUsed ∧ c'.capped = c.capped ∧
          Completes (.dramGrant ch arrivals ns) s fun t => t = (entered.foldl (fun v q => v.freeWrite ch q.cls q.addr) (u.setChan ch c'')).advance)) ∧
  -- DRAM_WRITE_ACCEPT (R150)
  (∀ (s : State) (ch cls kind addr len : Nat), s.chanRunning ch = true →
      ((s.chan ch).full cls = true → Completes (.dramWriteAccept ch cls kind addr len) s fun t =>
        t = (s.setChan ch { s.chan ch with heldWrites := (s.chan ch).heldWrites ++ [newReq true cls kind addr len] }).advance) ∧
      ((s.chan ch).full cls = false → Completes (.dramWriteAccept ch cls kind addr len) s fun t =>
        t = ((s.setChan ch ((s.chan ch).enter (newReq true cls kind addr len))).freeWrite ch cls addr).advance)) ∧
  -- an operation that the clauses name
  (∀ (c : Chan) (cls kind addr len : Nat), c.full cls = true →
      (c.accept cls kind addr len).queue = c.queue ∧ (c.accept cls kind addr len).heldWrites.length = c.heldWrites.length + 1) ∧
  -- DRAM_READ_COMPLETE (R160)
  (∀ (s : State) (ch cls addr : Nat) (u : State), (s.chan ch).issued.any (fun (r : DReq) => r.cls == cls && r.addr == addr) = true →
      u = s.setChan ch { s.chan ch with issued := eraseFirst (fun (r : DReq) => r.cls == cls && r.addr == addr) (s.chan ch).issued } →
      (u.isF Fld.DMC_CFG_LINK_ECC = false → ∀ ecc, Completes (.dramReadComplete ch cls addr ecc) s fun t => t = u) ∧
      (u.isF Fld.DMC_CFG_LINK_ECC = true →
        Completes (.dramReadComplete ch cls addr 0) s (fun t => t = u) ∧
        Completes (.dramReadComplete ch cls addr 1) s (fun t => t = u.on fun io => (io.bumpF (Fld.DMC_CH_ECC_CORR (ch / 4) (ch % 4))).fireOnce ch { event := 132, region := some (ch / 4) }) ∧
        Completes (.dramReadComplete ch cls addr 2) s (fun t => t = u.on fun io => { io.uncorrectable ch with
          badReads := (io.uncorrectable ch).badReads ++ (((io.uncorrectable ch).opTable (ch / 4)).used.filter
            (fun e => e.cls == cls && !e.host && !e.write && e.addr == addr && e.awaited)).map (·.who) }))) ∧
  -- PORT_PANIC_ENTER (R152)
  (∀ (s u : State) (ch kind fill : Nat) (full : Bool), s.chanRunning ch = true → s.panicSide kind fill full = true →
      (s.chan ch).panic.contains (panicKey kind full) = false → u = s.setChan ch { s.chan ch with panic := panicKey kind full :: (s.chan ch).panic } →
      ((s.chan ch).inPanic kind = true → Completes (.portPanicEnter ch kind fill full) s fun t => t = u) ∧
      ((s.chan ch).inPanic kind = false → ∀ v : State, v = u.on (fun io => (io.bumpF (Fld.DMC_CH_PANICS (ch / 4) (ch % 4))).fireOnce ch { event := 130, region := some (ch / 4) }) →
        Completes (.portPanicEnter ch kind fill full) s fun t => t = if s.chans.any (fun c => !c.panic.isEmpty) then v else v.on (·.pulse 8))) ∧
  -- PORT_PANIC_EXIT (R152)
  (∀ (s : State) (ch kind fill : Nat) (full : Bool), s.panicSide kind fill full = false →
      Completes (.portPanicExit ch kind fill full) s fun t => t = s.setChan ch { s.chan ch with panic := (s.chan ch).panic.filter (· != panicKey kind full) }) ∧
  -- PANIC_WINDOW_END (R155)
  (∀ (s : State) (ch : Nat), Completes (.panicWindowEnd ch) s fun t => t = s.setChan ch { s.chan ch with panicUsed := 0, capped := false }) ∧
  -- REQUEST_AGED (R154)
  (∀ (s : State) (ch cls addr : Nat) (r : DReq), cls ≠ 0 → (s.chan ch).queue.find? (fun r => r.cls == cls && r.addr == addr && !r.aged) = some r →
      Completes (.requestAged ch cls addr) s fun t => t = s.setChan ch { s.chan ch with queue := (s.chan ch).queue.map (fun q => if q.id = r.id then { q with aged := true } else q) }) ∧
  -- PATTERN_RUN_START (R166)
  (∀ (s : State) (channel pattern length : Nat) (write : Bool) (path : RegPath), channel < 16 → s.Accepts path (Reg.DMC_CH_PAT_CTL (channel / 4) (channel % 4)) →
      (s.boot.locked = false → Completes (.patternRunStart channel pattern write length path) s fun t => t = s.patternStart channel (pattern % 4) write (length % 2 ^ 20)) ∧
      (s.boot.locked = true → Completes (.patternRunStart channel pattern write length path) s fun t => Fires 1 s t ∧
        t.io.getReg (Reg.DMC_CH_PAT_CTL (channel / 4) (channel % 4)) = s.io.getReg (Reg.DMC_CH_PAT_CTL (channel / 4) (channel % 4)))) ∧
  -- PATTERN_RUN_DONE (R166)
  (∀ (s : State) (ch dqErr bursts : Nat), s.isF (Fld.DMC_CH_PAT_CTL_START (ch / 4) (ch % 4)) = true →
      Completes (.patternRunDone ch dqErr bursts) s fun t => t.io = ((s.io.setF (Fld.DMC_CH_PAT_CTL_START (ch / 4) (ch % 4)) 0).setReg (Reg.DMC_CH_CMP (ch / 4) (ch % 4))
        (BitVec.ofNat 32 (dqErr % 2 ^ 16 + 2 ^ 16 * min bursts 65535)))) ∧
  -- MR4_POLL (R159)
  (∀ (s u : State) (channel quarters x : Nat), s.chanRunning channel = true →
      u = ((s.on (·.at x)).setChan channel { (s.on (·.at x)).chan channel with mr4 := quarters }).decideRate channel →
      (8 < quarters → Completes (.mr4Poll channel quarters x) s fun t => t = (u.on (·.fireIn 137 (channel / 4))).shutdown 3) ∧
      (quarters ≤ 8 → Completes (.mr4Poll channel quarters x) s fun t => t = u))

/-- The domain takes and loses power, measures, keeps its energy, builds and signs records, and answers MTR_CAL_EN and an activation (one clause for each command; derived from the rules of the chapter). Model choices that clauses rest on: log 35, 36, 37, 86. -/
def Obligations.MeteringDomain : Prop :=
  -- ENERGY_SAVE (R444)
  (∀ s u : State, s.io.meterUp = true → s.meterWrites = true → u = s.flushMeter →
      (∀ f, u.meter.waiting = some f → Completes .energySave s fun t => t = u.saveNow f) ∧
      (u.meter.waiting = none → s.meter.saveS ≤ s.meter.sinceSave → Completes .energySave s fun t => t = u.saveNow false) ∧
      (u.meter.waiting = none → s.meter.sinceSave < s.meter.saveS → Completes .energySave s fun t => t = u)) ∧
  -- an operation that the clauses name
  (∀ (m : MeterState) (b : Bool), m.intoB = false → (m.sectorA.length < 256 → (m.save b).sectorA.length = m.sectorA.length + 1 ∧ (m.save b).sectorB = m.sectorB) ∧
      (256 ≤ m.sectorA.length → (m.save b).sectorA = [] ∧ (m.save b).sectorB.length = 1 ∧ (m.save b).intoB = true)) ∧
  -- SHUTDOWN_NOTICE (R437)
  (∀ s : State, s.io.meterUp = true → s.meter.notice = true → Completes .shutdownNotice s fun t => t = (s.onMeter (fun m => { m with notice := false })).saveEnergy true) ∧
  -- METER_POWER_ON (R436)
  (∀ (s : State) (calEn : Bool) (temp : Int), s.io.meterUp = false → s.needsMeter = true →
      Completes (.meterPowerOn calEn temp) s fun t => t.io.meterUp = true ∧ t.meter.temp = temp ∧ (∀ r, s.meter.newest = some r → t.meter.interval = r.interval ∧ t.meter.recSeq = r.recSeq) ∧
        (s.meter.newest = none → t.meter.interval = 0 ∧ t.meter.recSeq = 0)) ∧
  -- METER_POWER_LOSS (R436)
  (∀ s : State, s.io.meterUp = true → Completes .meterPowerLoss s fun t => t.io.meterUp = false ∧ t.meter = s.meter.lose ∧ ∀ a, a / 0x20000 = 14 → t.io.getReg a = regReset a) ∧
  -- RECORD_REQUEST_READ (R450)
  (∀ (s : State) (path : RegPath), s.pathOpen path = true → s.io.boot ≠ stUMBER → s.io.regPresent Reg.MTR_REC_REQ = true → s.io.meterUp = true → s.getF Fld.MTR_REC_REQ = 1 →
      Completes (.recordRequestRead path) s fun t => t.meter.request = true ∧ t.getF Fld.MTR_REC_REQ = 0) ∧
  -- RECORD_SIGNED (R450)
  (∀ (s : State) (b : List Byte), s.io.meterUp = true → s.meter.built = some b → Completes .recordSigned s fun t => t.meter.built = none ∧ t.getF Fld.MTR_REC_REQ = 1 ∧ Fires 459 s t) ∧
  -- METER_INTERVAL (R441)
  (∀ (s : State) (mclk : Nat) (samples : List (List (Int × Int))) (temp : Int), s.io.meterUp = true →
      Completes (.meterInterval mclk samples temp) s fun t => t.meter.interval = s.meter.interval + 1 ∧ t.meter.temp = temp ∧ t.therm.absent = false ∧ Fires 448 s t) ∧
  -- BITSTREAM_STUCK (R443)
  (∀ (s : State) (point : Nat), s.io.meterUp = true → point < 16 → (s.mpoint point).stuck = false →
      Completes (.bitstreamStuck point) s fun t => t.getF (Fld.MTR_POINT_STAT_STUCK point) = 1 ∧ (s.isF (Fld.MTR_POINT_STAT_STUCK point) = false → Fires 455 s t)) ∧
  -- METER_ACTIVATION_NOTICE (R458)
  (∀ (s : State) (st : Partition) (q : ManifestPart) (a : Nat) (body d : List Byte) (u : State), s.io.meterUp = true → s.upd = uCOPYING → s.boot.meterReported = false → s.partition 2 = some st →
      (s.manifestParts (st.start + 0x1000)).find? (fun p => p.kind == 2 && p.target == s.io.part) = some q → a = st.start + q.off → body = s.nvmRead a (q.len - 768) →
      d = sha512 (s.nvmRead a q.len) →
      u = ((s.meterStore (if s.meter.slotB then 0x60000 else 0xB0000) (s.nvmRead a q.len)).saveEnergy false).audit 0x05 0 (sub d 0 32) →
      Completes (.meterActivationNotice true) s (fun t =>
        (meterKeyOk body (s.nvmRead (a + q.len - 752) 512) = true ∧ s.meter.otp ≤ Config.meterVersion body ∧ 2 ≤ s.logFree →
          t = ((u.onMeter (fun m => { m with install := some (d, Config.meterVersion body) })).onBoot (fun b => { b with meterReported := true })).activationEnd) ∧
        (¬(meterKeyOk body (s.nvmRead (a + q.len - 752) 512) = true ∧ s.meter.otp ≤ Config.meterVersion body ∧ 2 ≤ s.logFree) →
          t = ((((s.auditInfo 0x06 0 (sub d 0 32)).setF Fld.MTR_HEALTH_FW_REFUSED 1).fire 463).onBoot (fun b => { b with meterReported := true })).activationEnd)) ∧
      Completes (.meterActivationNotice false) s (fun t =>
        t = ((((s.auditInfo 0x06 0 (sub d 0 32)).setF Fld.MTR_HEALTH_FW_REFUSED 1).fire 463).onBoot (fun b => { b with meterReported := true })).activationEnd)) ∧
  -- CAL_EN_ASSERT (R447)
  (∀ s : State, s.io.meterUp = true → s.isF Fld.MTR_HEALTH_CAL_EN = false → Completes .calEnAssert s fun t => t = (s.setF Fld.MTR_HEALTH_CAL_EN 1).breakSeal) ∧
  -- an operation that the clauses name
  (∀ s : State, s.mPart = true → s.meter.intact = true → (s.breakSeal).meter.intact = false ∧ (s.breakSeal).meter.breaks = min (2 ^ 32 - 1) (s.meter.breaks + 1)) ∧
  -- CAL_EN_RELEASE (R447)
  (∀ s : State, s.io.meterUp = true → s.isF Fld.MTR_HEALTH_CAL_EN = true →
      (s.isF Fld.MTR_CAL_STAT_SESSION = true → s.meter.closing = false → s.isF Fld.MTR_CAL_STAT_SEAL_PENDING = false →
        Completes .calEnRelease s fun t => t = (s.setF Fld.MTR_HEALTH_CAL_EN 0).calAbort) ∧
      (s.isF Fld.MTR_CAL_STAT_SESSION = false → s.isF Fld.MTR_CAL_STAT_SEAL_PENDING = true →
        Completes .calEnRelease s fun t => t.meter.intact = true ∧ Fires 450 s t))

/-- Each calibration command that is taken ends with the result its rule gives, and the session, points, log and seal that it leaves (one clause for each command; derived from the rules of the chapter). Model choices that clauses rest on: log 35. -/
def Obligations.CalibrationCommands : Prop :=
  -- CAL_NONE (R453)
  (∀ (s : State) (path : RegPath), s.CalReady path → Completes (.calNone path) s fun t => t = (s.setF Fld.MTR_CAL_CMD_CMD 0).calResult 0) ∧
  -- CAL_START (R453)
  (∀ (s : State) (path : RegPath), s.CalReady path →
      (s.isF Fld.MTR_CAL_STAT_SESSION = true → Completes (.calStart path) s fun t => t = (s.setF Fld.MTR_CAL_CMD_CMD 1).calResult 3) ∧
      (s.isF Fld.MTR_CAL_STAT_SESSION = false → s.getF Fld.MTR_CAL_ARG0_POINTS ≠ 0 → 2 ≤ s.logFree →
        Completes (.calStart path) s fun t => t.meter.session = s.getF Fld.MTR_CAL_ARG0_POINTS ∧ t.getF Fld.MTR_STATE_CAL = 1 ∧ t.getF Fld.MTR_CAL_STAT_SESSION = 1 ∧
          t.getF Fld.MTR_CAL_STAT_RESULT = 0 ∧ Fires 451 s t)) ∧
  -- CAL_ZERO (R453)
  (∀ (s : State) (path : RegPath), s.CalReady path → Completes (.calZero path) s fun t => t = (s.setF Fld.MTR_CAL_CMD_CMD 2).calRun 2) ∧
  -- CAL_VREF (R453)
  (∀ (s : State) (path : RegPath), s.CalReady path → Completes (.calVref path) s fun t => t = (s.setF Fld.MTR_CAL_CMD_CMD 3).calRun 3) ∧
  -- CAL_IREF (R453)
  (∀ (s : State) (path : RegPath), s.CalReady path → Completes (.calIref path) s fun t => t = (s.setF Fld.MTR_CAL_CMD_CMD 4).calRun 4) ∧
  -- CAL_DELAY (R453)
  (∀ (s : State) (path : RegPath), s.CalReady path → Completes (.calDelay path) s fun t => t = (s.setF Fld.MTR_CAL_CMD_CMD 5).calDelay) ∧
  -- an operation that the clauses name
  (∀ (s : State) (run : Nat → State → State), (s.isF Fld.MTR_CAL_STAT_SESSION = false ∨ s.meter.closing = true → s.calPoint run = s.calResult 2) ∧
      (s.isF Fld.MTR_CAL_STAT_SESSION = true → s.meter.closing = false →
        (16 ≤ s.getF Fld.MTR_CAL_ARG0_POINTS ∨ bit s.meter.session (s.getF Fld.MTR_CAL_ARG0_POINTS) = false → s.calPoint run = s.calResult 4) ∧
        (s.getF Fld.MTR_CAL_ARG0_POINTS < 16 → bit s.meter.session (s.getF Fld.MTR_CAL_ARG0_POINTS) = true → s.calPoint run = run (s.getF Fld.MTR_CAL_ARG0_POINTS) s))) ∧
  -- CAL_COMMIT (R455)
  (∀ (s : State) (path : RegPath), s.CalReady path →
      (s.isF Fld.MTR_CAL_STAT_SESSION = false ∨ s.meter.closing = true → Completes (.calCommit path) s fun t => t = (s.setF Fld.MTR_CAL_CMD_CMD 6).calResult 2) ∧
      (s.isF Fld.MTR_CAL_STAT_SESSION = true → s.meter.closing = false → 2 ≤ s.logFree → Completes (.calCommit path) s fun t => t.meter.closing = true ∧
        t.meter.session = s.meter.session ∧ Fires 452 s t ∧
        t.meter.points = s.meter.points.zipIdx.map (fun (x : MeterPoint × Nat) => if bit s.meter.session x.2 then { x.1 with coef := x.1.cand, calSeq := (x.1.calSeq + 1) % 2 ^ 16 } else x.1))) ∧
  -- CAL_ABORT (R453)
  (∀ (s : State) (path : RegPath), s.CalReady path →
      (s.isF Fld.MTR_CAL_STAT_SESSION = false ∨ s.meter.closing = true → Completes (.calAbort path) s fun t => t = (s.setF Fld.MTR_CAL_CMD_CMD 7).calResult 2) ∧
      (s.isF Fld.MTR_CAL_STAT_SESSION = true → s.meter.closing = false → Completes (.calAbort path) s fun t => t = ((s.setF Fld.MTR_CAL_CMD_CMD 7).calAbort).calResult 0)) ∧
  -- CAL_SEAL (R456)
  (∀ (s : State) (path : RegPath), s.CalReady path →
      (s.isF Fld.MTR_CAL_STAT_SESSION = true → Completes (.calSeal path) s fun t => t = (s.setF Fld.MTR_CAL_CMD_CMD 8).calResult 3) ∧
      (s.isF Fld.MTR_CAL_STAT_SESSION = false → s.mPart = false → Completes (.calSeal path) s fun t => t = (s.setF Fld.MTR_CAL_CMD_CMD 8).calResult 7) ∧
      (s.isF Fld.MTR_CAL_STAT_SESSION = false → s.mPart = true → 2 ≤ s.logFree →
        ∀ u d, u = s.setF Fld.MTR_CAL_CMD_CMD 8 → d = sha512 s.meter.config →
          Completes (.calSeal path) s fun t => t =
            if sealingKeyOk (leBytes 8 (u.io.getWide Fld.CTL_SERIAL_LO Fld.CTL_SERIAL_HI) ++ leBytes 4 u.meter.log.length ++ sub d 0 64)
              ((List.range 128).flatMap (fun i => leBytes 4 (u.getF (Fld.MTR_CAL_DATA i)))) = true
            then ((u.audit 0x01 0 (sub d 0 32)).setF Fld.MTR_CAL_STAT_SEAL_PENDING 1).calResult 0
            else u.calResult 8)) ∧
  -- CAL_BAD_CMD (R453)
  (∀ (s : State) (cmd : Nat) (path : RegPath), s.CalReady path → 9 ≤ cmd → cmd < 256 → Completes (.calBadCmd cmd path) s fun t => t = (s.setF Fld.MTR_CAL_CMD_CMD cmd).calResult 10)

/-- Tiles are polled and admitted, the least throttle of the wall is sent and adopted, and wall commands are sent again (one clause for each command; derived from the rules of the chapter). Model choices that clauses rest on: log 38. -/
def Obligations.WallCommands : Prop :=
  -- ADMISSION_POLL (R483)
  (∀ s : State, s.io.operational = true → s.serving = true → s.io.tick % 64 = 0 → Completes .admissionPoll s fun t => t = s.enumerated.foldl (fun u (x : Nat × Nat) =>
        pollRegs.foldl (fun v a => v.sendRegReq x.1 x.2 pollRing 0 0 a 0) (u.setTile { u.tile x.1 x.2 with read := [] })) s) ∧
  -- ADMIT_RECEIVED (R484)
  (∀ (s u : State) (port : Nat) (packet b : List Byte), s.keptCmd port 0x01 packet [stJOINING] = (u, some b) →
      Completes (.admitReceived port packet) s fun t => t = u.onBoot (fun x => { x with admitAt := some (fieldAt b 0 6) })) ∧
  -- WALL_THROTTLE_CHECK (R469)
  (∀ (s : State) (th : Nat), s.io.operational = true → s.serving = true → s.io.tick % 64 = 0 → s.leastTh = some th →
      (th ≠ (match s.therm.thCmd with | some c => c.1 | none => 32768) →
        Completes .wallThrottleCheck s fun t => t = (s.takeThrottle (th, s.io.tick + 8)).wallCommand 0x05 (throttleBody (th, s.io.tick + 8))) ∧
      (th = (match s.therm.thCmd with | some c => c.1 | none => 32768) → Completes .wallThrottleCheck s fun t => t = s)) ∧
  -- THROTTLE_RECEIVED (R469)
  (∀ (s u : State) (port : Nat) (packet b : List Byte), s.keptCmd port 0x05 packet [stJOINING, stOPERATIONAL] = (u, some b) →
      Completes (.throttleReceived port packet) s fun t => t = u.takeThrottle (fieldAt b 0 2, fieldAt b 2 6)) ∧
  -- WALL_CMD_RESEND (R352)
  (∀ s u : State, s.io.operational = true → s.serving = true → s.io.tick % 256 = 0 →
      (∀ c, s.hasCeiling = true → s.wall.schedule = some c → u = s.wallCommand 0x03 c.body →
        (∀ d, u.therm.thCmd = some d → Completes .wallCmdResend s fun t => t = (u.wallCommand 0x05 (throttleBody d)).resendMasks) ∧
        (u.therm.thCmd = none → Completes .wallCmdResend s fun t => t = u.resendMasks)) ∧
      (s.hasCeiling = false ∨ s.wall.schedule = none →
        (s.therm.thCmd = none → Completes .wallCmdResend s fun t => t = s.resendMasks) ∧
        (∀ d, s.therm.thCmd = some d → Completes .wallCmdResend s fun t => t = (s.wallCommand 0x05 (throttleBody d)).resendMasks)))

/-- The model advances, limits are evaluated, and a shutdown, a trip and a restart leave the power state that their rules give (one clause for each command; derived from the rules of the chapter). -/
def Obligations.ThermalAndShutdown : Prop :=
  -- THERMAL_MODEL_UPDATE (R465)
  (∀ (s u v : State) (d0 d1 : Int) (busy : List (List Nat)) (x : Nat), s.thermalRuns = true →
      v = (s.on (·.at x)).recentStops.modelUpdate d0 d1 busy → u = v.boardNode (v.nodeAbove 5 85) (!v.nodeAbove 5 82) →
      Completes (.thermalModelUpdate d0 d1 busy x) s fun t => t = if (List.range 5).any (fun i => !u.nodeBelow i 115) then u.shutdown 1 else u) ∧
  -- METERING_STALE_TIMEOUT (R464)
  (∀ s : State, s.therm.absent = false → s.needsMeter = true → stTRAINING ≤ s.io.boot → s.io.boot ≤ stOPERATIONAL →
      Completes .meteringStaleTimeout s fun t => t.therm.absent = true ∧ t.getF Fld.THM_STATE_CORE_METERED = 0 ∧ Fires 487 s t) ∧
  -- THERMAL_EVALUATION (R468)
  (∀ s : State, s.thermalRuns = true → s.boot.power ≠ 1 → Completes .thermalEvaluation s fun t => t = s.evaluateLimits.afterLimits) ∧
  -- THM_TEST_SHUTDOWN (R474)
  (∀ (s : State) (path : RegPath), s.Accepts path Reg.THM_TEST → Completes (.thmTestShutdown path) s fun t => t = s.shutdown 5) ∧
  -- SHUTDOWN_TIMEOUT (R475)
  (∀ s : State, s.boot.power = 1 → Completes .shutdownTimeout s fun t => t = s.switchOff) ∧
  -- DIODE_TRIP (R476)
  (∀ s : State, s.boot.pwrgood = true → s.boot.power ≠ 2 →
      (s.boot.power = 1 → Completes .diodeTrip s fun t => t = ((s.setF Fld.THM_CAUSE_LAST 4).alert 5 true).switchOff) ∧
      (s.boot.power ≠ 1 → Completes .diodeTrip s fun t => t = ((s.countStop 4).alert 5 true).switchOff)) ∧
  -- THERMAL_RESTART (R477)
  (∀ (s : State) (umberLow : Bool) (d0 d1 : Int) (x : Nat), s.boot.power = 2 → s.boot.pwrgood = true →
      (s.boot.autoRestart = true → Completes (.thermalRestart umberLow d0 d1 x) s fun t =>
        t = (((s.startPins d0 d1 x).onBoot (fun b => { b with thermalRestart := true })).cleared false false).rom umberLow) ∧
      (s.boot.autoRestart = false → Completes (.thermalRestart umberLow d0 d1 x) s fun t => t = s))

/-- HELLO, the announcements, the snapshot and the relay carry state between the units, segments are compared, and a missing announcement ends lockstep (one clause for each command; derived from the rules of the chapter). Model choices that clauses rest on: log 40, 43. -/
def Obligations.PairExchange : Prop :=
  -- COMPARISON_DEADLINE (R311)
  (∀ (s : State) (chain frame : Nat), s.compares = true → s.comparesChain chain frame = true → s.pairUnit.early = [] → frame ≤ s.io.tick →
      (s.pairUnit.excuseOld.contains chain = true ∨ s.portUp chain = false →
        Completes (.comparisonDeadline chain frame) s fun t => t = (s.openSegments chain frame).foldl (fun u e => u.excused e) s) ∧
      (s.pairUnit.excuseOld.contains chain = false → s.portUp chain = true →
        Completes (.comparisonDeadline chain frame) s fun t => t = (s.openSegments chain frame).foldl (fun u e => u.mismatch e 2) s)) ∧
  -- HELLO_SEND (R305)
  (∀ s : State, s.paired = true → Completes .helloSend s fun t => t = s.sendPair 0x10 (leBytes 8 s.ownSerial ++ leBytes 4 (s.getF Fld.PAIR_EPOCH) ++
      leBytes 1 s.pair ++ zeros 3 ++ leBytes 8 s.ownWallId ++ leBytes 4 (s.getF Fld.CTL_IMG_WALL_SEQ) ++ s.ownDigest)) ∧
  -- HELLO_RECEIVED (R305)
  (∀ (s u : State) (payload b : List Byte), s.takePair payload = (u, some b) → u.paired = true → Completes (.helloReceived payload) s fun t => t = (u.notePartner b).actOnHello) ∧
  -- COMMIT_ANN_RECEIVED (R309)
  (∀ (s u : State) (payload b : List Byte), s.takePair payload = (u, some b) → u.compares = true → Completes (.commitAnnReceived payload) s fun t => t = u.takeCommit b) ∧
  -- KEY_ANN_RECEIVED (R309)
  (∀ (s u : State) (payload b : List Byte) (w : Nat), s.takePair payload = (u, some b) → u.compares = true → w = fieldAt b 8 8 →
      Completes (.keyAnnReceived payload) s fun t => t = u.acceptKeys (bits w 6 4) (bits w 0 6) (fieldAt b 0 6) (bits w 10 12) (bits w 22 12)) ∧
  -- CYCLE_ANN_RECEIVED (R309)
  (∀ (s u : State) (payload b : List Byte), s.takePair payload = (u, some b) → u.compares = true → Completes (.cycleAnnReceived payload) s fun t => t.video.cycle = some (fieldAt b 0 6)) ∧
  -- ANNOUNCEMENT_MISSING (R309)
  (∀ s : State, s.compares = true → Completes .announcementMissing s fun t => t = (s.fire 295).leaveLockstep) ∧
  -- SNAPSHOT_RECEIVED (R319)
  (∀ (s u : State) (payload b : List Byte) (p : Partner), s.takePair payload = (u, some b) → u.pair = pJOINING → u.pairUnit.partner = some p → p.foreign = false →
      ((([1, 2, 6, 7].all (fun t => (snapOf (snapBlocks b.length (b.drop 8)) t).isSome)) && (snapBlocks b.length (b.drop 8)).all blockSound) = true →
        Completes (.snapshotReceived payload) s fun t => t = (u.joinPhase 1).applySnapshot (snapBlocks b.length (b.drop 8))) ∧
      ((([1, 2, 6, 7].all (fun t => (snapOf (snapBlocks b.length (b.drop 8)) t).isSome)) && (snapBlocks b.length (b.drop 8)).all blockSound) = false →
        Completes (.snapshotReceived payload) s fun t => t = u.joinPhase 0)) ∧
  -- RELAY_RECEIVED (R315)
  (∀ (s u : State) (payload b : List Byte), s.takePair payload = (u, some b) →
      (u.pair = pACTIVE → Completes (.relayReceived payload) s fun t => t = u.relayedCell (fieldAt b 0 1) (b.drop 4)) ∧
      (u.pair ≠ pACTIVE → pJOINING ≤ u.pair → Completes (.relayReceived payload) s fun t => t = u.relayedBulk (fieldAt b 0 1) (b.drop 4))) ∧
  -- REUNITE_POLL (R316)
  (∀ (s : State) (chain n : Nat), s.pair = pACTIVE → s.isF Fld.PAIR_CFG_AUTO_REUNITE = true → s.pairUnit.splitChains.contains chain = true →
      s.pairUnit.reunite.any (·.1 == chain) = false → n = ((s.pairUnit.goodReads.find? (·.1 == chain)).map (·.2)).getD 0 →
      Completes (.reunitePoll chain false) s (fun t => t.pairUnit.goodReads = (chain, 0) :: s.pairUnit.goodReads.filter (·.1 != chain)) ∧
      (n = 0 → Completes (.reunitePoll chain true) s fun t => t.pairUnit.goodReads = (chain, 1) :: s.pairUnit.goodReads.filter (·.1 != chain)) ∧
      (1 ≤ n → Completes (.reunitePoll chain true) s fun t => t.pairUnit.reunite = (chain, s.io.tick + 8) :: s.pairUnit.reunite)) ∧
  -- REUNITE_RECEIVED (R316)
  (∀ (s u : State) (payload b : List Byte), s.takePair payload = (u, some b) → pJOINING ≤ u.pair →
      Completes (.reuniteReceived payload) s fun t => t.pairUnit.reunite = (fieldAt b 0 1, fieldAt b 2 6) :: u.pairUnit.reunite)

/-- Pair packets are acknowledged and repeated, a depose and a handover change who serves, and a suspect unit or a silent port at start changes the state of the pair (one clause for each command; derived from the rules of the chapter). Model choices that clauses rest on: log 22, 42. -/
def Obligations.PairTransport : Prop :=
  -- PAIR_ACK_RECEIVED (R304)
  (∀ (s u : State) (payload : List Byte), s.pairLink = true → s.pairUnit.sent.any (·.pseq == fieldAt payload 4 4) = true →
      u = s.onPair (fun v => { v with sent := v.sent.filter (·.pseq != fieldAt payload 4 4) }) →
      (s.pairUnit.deposeSeq ≠ some (fieldAt payload 4 4) → s.pairUnit.snapshotSeq ≠ some (fieldAt payload 4 4) → Completes (.pairAckReceived payload) s fun t => t = u) ∧
      (s.pairUnit.deposeSeq ≠ some (fieldAt payload 4 4) → s.pairUnit.snapshotSeq = some (fieldAt payload 4 4) → s.pair = pACTIVE → Completes (.pairAckReceived payload) s fun t =>
        t = u.onPair (fun v => { v with snapshotSeq := none, lockstep := true, gotRead := false, readDone := s.io.tick }))) ∧
  -- PAIR_PACKET_TIMEOUT (R304)
  (∀ (s : State) (pseq : Nat) (p : PairSent), s.pairUnit.sent.find? (·.pseq == pseq) = some p →
      (3 ≤ p.repeats → Completes (.pairPacketTimeout pseq) s fun t => t = s.pairLost) ∧
      (p.repeats < 3 → Completes (.pairPacketTimeout pseq) s fun t => t.io.out = .pair p.ptype p.payload :: s.io.out ∧
        t.pairUnit.sent = s.pairUnit.sent.map (fun x => if x.pseq = pseq then { x with repeats := x.repeats + 1 } else x))) ∧
  -- PAIR_PACKET_RESERVED (R304)
  (∀ (s : State) (ptype : Nat), s.pairLink = true → ptype < 0x10 ∨ 0x1A < ptype →
      Completes (.pairPacketReserved ptype) s fun t => t.getF Fld.PAIR_PKT_UNKNOWN = min (s.getF Fld.PAIR_PKT_UNKNOWN + 1) (2 ^ 32 - 1)) ∧
  -- DEPOSE_ACK_TIMEOUT (R313)
  (∀ s : State, s.pairUnit.deposeSeq.isSome = true → Completes .deposeAckTimeout s fun t => t = ((s.onPair (fun u => { u with deposeSeq := none, trigger := none })).leaveLockstep).fire 296) ∧
  -- READ_DONE_RECEIVED (R308)
  (∀ (s u : State) (payload b : List Byte), s.takePair payload = (u, some b) → u.pair = pACTIVE →
      (fieldAt b 0 6 = 2 ^ 48 - 1 → Completes (.readDoneReceived payload) s fun t => t.pairUnit.lockstep = false) ∧
      (fieldAt b 0 6 ≠ 2 ^ 48 - 1 → Completes (.readDoneReceived payload) s fun t => t.pairUnit.readDone = fieldAt b 0 6 ∧ t.pairUnit.gotRead = true)) ∧
  -- DEPOSE_RECEIVED (R314)
  (∀ (s u : State) (payload b : List Byte), s.takePair payload = (u, some b) → u.pair = pACTIVE → fieldAt b 4 1 < 2 → Completes (.deposeReceived payload) s fun t => t = u.standDown.fire 292) ∧
  -- HANDOVER_RECEIVED (R313)
  (∀ (s u : State) (payload b : List Byte), s.takePair payload = (u, some b) →
      (fieldAt b 6 1 = 0 → u.pair = pARMED → Completes (.handoverReceived payload) s fun t => t.pairUnit.takeAt = some (fieldAt b 0 6)) ∧
      (fieldAt b 6 1 = 1 → u.pair = pJOINING → u.isF Fld.PAIR_STATE_FOREIGN = true → Completes (.handoverReceived payload) s fun t => t.pairUnit.takeAt = some (fieldAt b 0 6)) ∧
      (fieldAt b 6 1 = 2 → u.pair = pARMED → u.pairUnit.trigger = none → Completes (.handoverReceived payload) s fun t => t.pairUnit.trigger = some u.io.now) ∧
      (3 ≤ fieldAt b 6 1 → Completes (.handoverReceived payload) s fun t => t = u)) ∧
  -- SUSPECT_TIMEOUT (R320)
  (∀ s : State, s.pair = pSUSPECT → s.pairUnit.suspectAt + 256 ≤ s.io.tick → s.getF Fld.PAIR_STATE_ATTEMPTS < max 1 (s.getF Fld.PAIR_CFG_JOIN_MAX) →
      Completes .suspectTimeout s fun t => t = (s.alert 2 false).leaveLockstep) ∧
  -- PAIR_PORT_TIMEOUT (R324)
  (∀ s : State, s.paired = true → s.pair = pJOINING → s.io.boot = stJOINING → s.pairLink = false → Completes .pairPortTimeout s fun t => t = (s.alert 3 true).fire 302) ∧
  -- PAIR_TEST_HANDOVER (R325)
  (∀ (s : State) (path : RegPath), s.Accepts path Reg.PAIR_TEST → Completes (.pairTestHandover path) s fun t => t = s.pairHandover) ∧
  -- PAIR_TEST_FOREIGN (R325)
  (∀ (s : State) (path : RegPath), s.Accepts path Reg.PAIR_TEST → Completes (.pairTestForeign path) s fun t => t = s.pairForeign)

/-- The host link comes up, changes and goes down, the function is reset or enters D3hot, configuration space is read and written, and errors are recorded in AER (one clause for each command; derived from the rules of the chapter). Model choices that clauses rest on: log 91. -/
def Obligations.HostPort : Prop :=
  -- PCIE_LINK_UP (R104)
  (∀ (s : State) (speed width : Nat), s.io.hasHost = true → s.io.linkUp = false → s.io.trains speed width = true →
      Completes (.pcieLinkUp speed width) s fun t => t.io.linkUp = true ∧ t.getF Fld.HRG_LINK_SPEED = speed ∧
        t.getF Fld.HRG_LINK_WIDTH = width ∧ Fires 64 s t) ∧
  -- PCIE_LINK_DOWN (R108)
  (∀ s : State, s.io.linkUp = true → Completes .pcieLinkDown s fun t =>
        t = (s.resetHost Io.pcieDown).dropHost.advance ∧ s.io.pcieDown = (({ (s.io.setF Fld.HRG_LINK_SPEED 0).setF Fld.HRG_LINK_WIDTH 0 with linkUp := false, d3hot := false } : Io).fire 65).functionReset 67 ∧ (s.resetHost Io.pcieDown).dropHost.host.served = []) ∧
  -- HOT_RESET (R109)
  (∀ s : State, s.io.hasHost = true → Completes .hotReset s fun t =>
        t = (s.resetHost Io.hotReset).dropHost.advance ∧ s.io.hotReset = { s.io.functionReset 67 with d3hot := false } ∧ (s.resetHost Io.hotReset).dropHost.host.served = []) ∧
  -- FUNCTION_LEVEL_RESET (R109)
  (∀ s : State, s.io.hasHost = true → Completes .functionLevelReset s fun t =>
        t = (s.resetHost Io.flr).dropHost.advance ∧ s.io.flr = s.io.functionReset 66 ∧ (s.resetHost Io.flr).dropHost.host.served = []) ∧
  -- D3HOT_ENTRY (R109)
  (∀ s : State, s.io.hasHost = true → Completes .d3hotEntry s fun t => t = s.on (fun io => { io with d3hot := true })) ∧
  -- D3HOT_TO_D0 (R109)
  (∀ s : State, s.io.d3hot = true → Completes .d3hotToD0 s fun t =>
        t = (s.resetHost Io.d3Exit).dropHost.advance ∧ s.io.d3Exit = { s.io.functionReset 66 with d3hot := false } ∧ (s.resetHost Io.d3Exit).dropHost.host.served = []) ∧
  -- CONFIGURATION_WRITE (R103)
  (∀ s : State, s.io.hasHost = true →
      (∀ us, timeoutOk us = true → Completes (.configurationWrite (.completionTimeout us)) s fun t => t = s.setF Fld.HRG_CPL_TIMEOUT us) ∧
      (∀ us, timeoutOk us = false → Completes (.configurationWrite (.completionTimeout us)) s fun t => t = s) ∧
      (∀ en, Completes (.configurationWrite (.tag10 en)) s fun t =>
        t = s.on (fun io => Io.settle ((io.setF Fld.HRG_LINK_TAG10 (flag en)).grantAll))) ∧
      (∀ n, maxReadOk n = true → Completes (.configurationWrite (.maxReadRequest n)) s fun t => t = s.on (fun io => { io with maxRead := n })) ∧
      (∀ n, maxReadOk n = false → Completes (.configurationWrite (.maxReadRequest n)) s fun t => t = s) ∧
      (∀ bar v, s.io.barSize bar ≠ 0 → Completes (.configurationWrite (.base bar v)) s fun t =>
        t = s.onHost (fun h => { h with bars := Sparse.set (fun _ => 0) h.bars bar (v % 2 ^ 64) })) ∧
      (∀ off v, Completes (.configurationWrite (.other off v)) s fun t =>
        t = s.onHost (fun h => { h with config := Sparse.set (fun _ => 0) h.config off (v % 2 ^ 32) })) ∧
      (∀ off, Completes (.configurationWrite (.readHeader off)) s fun t => t = s.emit (.config off (s.headerWord off))) ∧
      Completes (.configurationWrite .readCapabilities) s (fun t => t = s.emit (.capabilities s.capabilities)) ∧
      Completes (.configurationWrite .readAer) s (fun t => t = s.emit (.aer s.host.aerCor s.host.aerUncor))) ∧
  -- PCIE_LINK_SPEED_CHANGE (R124)
  (∀ (s : State) (speed width : Nat), s.io.linkUp = true → s.io.trains speed width = true →
      ¬ (s.getF Fld.HRG_LINK_SPEED = speed ∧ s.getF Fld.HRG_LINK_WIDTH = width) →
      Completes (.pcieLinkSpeedChange speed width) s fun t => t.io.linkUp = true ∧ t.getF Fld.HRG_LINK_SPEED = speed ∧
        t.getF Fld.HRG_LINK_WIDTH = width ∧ Fires 75 s t) ∧
  -- PCIE_CORRECTABLE_ERROR (R124)
  (∀ s : State, s.io.hasHost = true → Completes .pcieCorrectableError s fun t =>
        t = (s.onHost (fun h => { h with aerCor := putBits h.aerCor 0 1 1 })).fire 73 ∧ Fires 73 s t) ∧
  -- UNEXPECTED_COMPLETION (R103)
  (∀ s : State, s.io.hasHost = true → Completes .unexpectedCompletion s fun t =>
        t = s.onHost (fun h => { h with aerUncor := putBits h.aerUncor 16 1 1 }))

/-- A BAR2 access queues its operations or is refused, doorbells advance a ring or are ignored and are read back, an unmasked vector sends what is pending, and an operation that ends frees its entry (one clause for each command; derived from the rules of the chapter). Model choices that clauses rest on: log 90, 101. -/
def Obligations.HostTransactions : Prop :=
  -- BAR2_ACCESS (R107)
  (∀ (s : State) (addr len : Nat) (bs : List Byte) (bad : Bool), s.io.hasHost = true → s.io.d3hot = false → s.io.operational = true →
      (∀ a : Bar2Access, a = { write := false, addr := addr, len := len, bytes := bs, bad := bad } → s.io.beyond addr len = false →
        Completes (.bar2Access false addr len bs bad) s fun t => t.io =
          (if s.io.bar2 = [] then ({ s.io with bar2 := [a] } : Io).bar2Issue a else { s.io with bar2 := s.io.bar2 ++ [a] }).bar2Run) ∧
      (∀ a : Bar2Access, a = { write := true, addr := addr, len := len, bytes := bs, bad := false } → s.io.beyond addr bs.length = false →
        Completes (.bar2Access true addr len bs false) s fun t => t.io =
          (if s.io.bar2 = [] then ({ s.io with bar2 := [a] } : Io).bar2Issue a else { s.io with bar2 := s.io.bar2 ++ [a] }).bar2Run) ∧
      (s.io.beyond addr bs.length = false → Completes (.bar2Access true addr len bs true) s (Fires 72 s)) ∧
      (s.io.beyond addr bs.length = true → Completes (.bar2Access true addr len bs bad) s fun t => t = s.fire 70) ∧
      (s.io.beyond addr len = true → Completes (.bar2Access false addr len bs bad) s fun t => t = (s.emit .barUR).fire 70)) ∧
  -- DOORBELL_WRITE (R120)
  (∀ (s : State) (n v : Nat), s.io.hasHost = true → s.io.d3hot = false →
      (s.io.operational = true → 8 * n < 2 ^ 19 → v < 2 ^ 32 →
      ((s.io.ring n).state = 1 → (s.io.ring n).destroying = none → v ≠ (s.io.ring n).sqTail → idxDiff v (s.io.ring n).sqHead ≤ 2 ^ (s.io.ring n).sqLog2 →
        Completes (.doorbellWrite (8 * n) 4 v false) s fun t => t = s.on (·.setRing n { s.io.ring n with sqTail := v })) ∧
      ((s.io.ring n).state ≠ 0 → (s.io.ring n).destroying = none → idxDiff v (s.io.ring n).cqHead ≤ idxDiff (s.io.ring n).cqTail (s.io.ring n).cqHead →
        Completes (.doorbellWrite (8 * n + 4) 4 v false) s fun t => t = s.on (·.setRing n { s.io.ring n with cqHead := v })) ∧
      ((s.io.ring n).state = 0 →
        Completes (.doorbellWrite (8 * n) 4 v false) s fun t => t.getF Fld.HRG_DB_IGNORED = min (s.getF Fld.HRG_DB_IGNORED + 1) (2 ^ 32 - 1) ∧ Fires 69 s t) ∧
      ∀ w a b, w < 2 ^ 32 → a = s.io.doorbellTail n v → b = a.1.doorbellHead n w →
        Completes (.doorbellWrite (8 * n) 8 (v + 2 ^ 32 * w) false) s fun t => t.io = if a.2 || b.2 then b.1.ignoreDoorbell else b.1) ∧
      Completes (.doorbellWrite (8 * n) 8 v true) s (fun t => t =
        s.emit (.barData (leBytes 4 (s.io.ring n).sqTail ++ leBytes 4 (s.io.ring n).cqHead) false))) ∧
  -- MSIX_UNMASK (R122)
  (∀ (s : State) (v : Nat), s.io.hasHost = true → v < 512 →
      Completes (.msixUnmask v) s fun t => t.getF (Fld.HRG_MSIX_CTL v) = 0 ∧
        (bit (s.io.getReg (Reg.HRG_MSIX_PBA (v / 32))).toNat (v % 32) = true → s.io.linkUp = true → s.io.d3hot = false →
          t.io.out = .msix v (s.io.getWide (Fld.HRG_MSIX_ADDR_LO v) (Fld.HRG_MSIX_ADDR_HI v)) (s.getF (Fld.HRG_MSIX_DATA v)) :: s.io.out)) ∧
  -- OPERATION_COMPLETE (R136)
  (∀ (s : State) (region cls : Nat) (host write shared : Bool) (p : OpEntry → Bool),
      p = (fun e => e.cls == cls && e.host == host && e.write == write && e.shared == shared && !e.awaited && !s.writeHeld e) →
      (s.io.opTable region).used.any p = true →
      Completes (.operationComplete region cls host write shared) s fun t =>
        t = (s.on fun io => Io.settle ((io.setOpTable region { io.opTable region with used := eraseFirst p (io.opTable region).used }).grantAll)).advance)

/-- Control entries create, destroy and reset rings and map vectors, a fetch brings entries in, and a read without an answer completes with its status (one clause for each command; derived from the rules of the chapter). Model choices that clauses rest on: log 48, 65. -/
def Obligations.RingCommands : Prop :=
  -- NOP (R115)
  (∀ (s : State) (n i : Nat) (e : List Byte), s.io.Ready n i 0x00 false true e →
      Completes (.nop n i) s fun t => t = s.on (·.answer n i e {})) ∧
  -- RESERVED_OPCODE (R118)
  (∀ (s : State) (n i : Nat) (e : List Byte), (s.io.ring n).entryAt i = some e → opcodeClass (fieldAt e 0 1) = none →
      Completes (.reservedOpcode n i) s fun t => t = s.on (·.answer n i e { status := 0x04 })) ∧
  -- RING_CREATE (R115)
  (∀ (s : State) (n i : Nat) (e : List Byte), s.io.Ready n i 0x01 true (createFieldsOk e) e →
      bit (s.io.getReg Reg.HRG_RIGHTS).toNat (fieldAt e 10 1) = true →
      (s.io.createCase e = 0 → Completes (.ringCreate n i) s fun t => t = s.on fun io =>
        (io.setRing (fieldAt e 8 2) { state := 1, cls := fieldAt e 10 1, sqLog2 := fieldAt e 11 1, cqLog2 := fieldAt e 12 1, entry64 := bit (fieldAt e 13 1) 2, sqDram := bit (fieldAt e 13 1) 3,
                                      cqDram := bit (fieldAt e 13 1) 4, ctx := fieldAt e 14 1, vector := fieldAt e 16 2, sqBase := fieldAt e 24 8, cqBase := fieldAt e 32 8 }).answer n i e {}) ∧
      (s.io.createCase e ≠ 0 → Completes (.ringCreate n i) s fun t => t = s.on (·.answer n i e { status := 0x01, detail := s.io.createCase e }))) ∧
  -- RING_DESTROY (R119)
  (∀ (s : State) (n i : Nat) (e : List Byte), s.io.Ready n i 0x02 false (tailZero e 10) e →
      (fieldAt e 8 2 = 0 ∨ (s.io.ring (fieldAt e 8 2)).state = 0 →
        Completes (.ringDestroy n i) s fun t => t = s.on (·.answer n i e { status := 0x01, detail := 1 })) ∧
      ∀ u : State, u = s.on (fun io => ((io.popEntry n i).setRing (fieldAt e 8 2)
          { (io.popEntry n i).ring (fieldAt e 8 2) with destroying := some (n, i, e) }).finishDestroy (fieldAt e 8 2)) →
        fieldAt e 8 2 ≠ 0 → (s.io.ring (fieldAt e 8 2)).state ≠ 0 →
        Completes (.ringDestroy n i) s fun t => t = if (u.io.ring (fieldAt e 8 2)).destroying = none then u else u.abortQueued (fieldAt e 8 2)) ∧
  -- RING_RESET (R116)
  (∀ (s : State) (n i : Nat) (e : List Byte), s.io.Ready n i 0x03 false (tailZero e 10) e →
      (fieldAt e 8 2 = 0 ∨ (s.io.ring (fieldAt e 8 2)).state = 0 →
        Completes (.ringReset n i) s fun t => t = s.on (·.answer n i e { status := 0x01, detail := 1 })) ∧
      ((s.io.ring (fieldAt e 8 2)).cls = 1 ∨ (s.io.ring (fieldAt e 8 2)).cls = 4 → s.abortQueued (fieldAt e 8 2) = s →
        fieldAt e 8 2 ≠ 0 → (s.io.ring (fieldAt e 8 2)).state ≠ 0 →
        Completes (.ringReset n i) s fun t => t = s.on fun io => (io.setRing (fieldAt e 8 2)
          { io.ring (fieldAt e 8 2) with state := 1, error := 0, errIndex := 0, sqHead := (io.ring (fieldAt e 8 2)).sqTail, sinceMsg := none }).answer n i e {})) ∧
  -- VECTOR_MAP (R115)
  (∀ (s : State) (n i : Nat) (e : List Byte), s.io.Ready n i 0x04 false (tailZero e 12) e →
      (fieldAt e 8 2 ≤ 511 → fieldAt e 10 2 ≤ 511 →
        Completes (.vectorMap n i) s fun t => t.io.evtVector (fieldAt e 8 2) = fieldAt e 10 2) ∧
      (511 < fieldAt e 8 2 ∨ 511 < fieldAt e 10 2 →
        Completes (.vectorMap n i) s fun t => t = s.on (·.answer n i e { status := 0x01, detail := 2 }))) ∧
  -- RING_FETCH (R121)
  (∀ (s : State) (n count k : Nat), s.io.operational = true → s.getF Fld.HRG_OUTSTANDING_FETCHES < s.io.maxFetch →
      s.getF Fld.HRG_OUTSTANDING_NP_READS < s.io.maxNp → s.io.nextRing s.host.served = some n → k = min (max 1 count) (s.io.ring n).fetchLimit →
      Completes (.ringFetch count) s fun t =>
        t.io = ((s.io.setRing n { s.io.ring n with fetches := (s.io.ring n).fetches ++ [((s.io.ring n).sqHead, k)], sqHead := ((s.io.ring n).sqHead + k) % 2 ^ 32, cqReserved := (s.io.ring n).cqReserved + k * slotNeed (s.io.ring n).cls }).bumpF Fld.HRG_OUTSTANDING_FETCHES).issueFetch n (s.io.ring n).sqHead k ∧
        t.host.served = Sparse.set (fun _ => 65536) s.host.served (t.io.ring n).cls n) ∧
  -- SQ_READ_COMPLETE (R116)
  (∀ (s : State) (n first count : Nat), (s.io.ring n).fetches.find? (fun f => f.1 == first) = some (first, count) →
      s.io.held (.fetch n first count) = false →
      (∀ bs, s.io.badReads.contains (.fetch n first count) = false → Completes (.sqReadComplete n first (.data bs)) s fun t =>
        t = (s.on fun io => (((Io.settle (io.completeOwn (.fetch n first count))).forget (.fetch n first count)).setRing n
          { ((Io.settle (io.completeOwn (.fetch n first count))).forget (.fetch n first count)).ring n with
            fetches := eraseFirst (· == (first, count)) (((Io.settle (io.completeOwn (.fetch n first count))).forget (.fetch n first count)).ring n).fetches,
            fetched := (((Io.settle (io.completeOwn (.fetch n first count))).forget (.fetch n first count)).ring n).fetched ++
              splitEntries (io.ring n).entryBytes count first (if (io.ring n).sqDram then
                io.found (.fetch n first count) ((io.ring n).sqBase + (io.ring n).entryBytes * (first % 2 ^ (io.ring n).sqLog2)) ((io.ring n).entryBytes * count) else bs),
            entries := ((((Io.settle (io.completeOwn (.fetch n first count))).forget (.fetch n first count)).ring n).entries + count) % 2 ^ 48 }).dropF
              Fld.HRG_OUTSTANDING_FETCHES).advance) ∧
      (∀ k, s.io.badReads.contains (.fetch n first count) = false → Completes (.sqReadComplete n first (.fault k)) s fun t =>
        t = (s.on fun io => io.fetchFailed n first count k ((io.ring n).sqBase + (io.ring n).entryBytes * (first % 2 ^ (io.ring n).sqLog2))).advance) ∧
      Completes (.sqReadComplete n first .poisoned) s fun t =>
        t = (((s.aerUncorrectable 12).fire 72).on fun io =>
          io.fetchFailed n first count 8 ((io.ring n).sqBase + (io.ring n).entryBytes * (first % 2 ^ (io.ring n).sqLog2))).advance) ∧
  -- COMPLETION_TIMEOUT (R103)
  (∀ (s u : State) (n i c p at_ : Nat) (mem : HostMem), u = (s.aerUncorrectable 14).fire 71 →
      (∀ x, s.awaits x = true → Completes (.completionTimeout x) s fun t => t = u.timedOut x) ∧
      (∀ f k, (u.io.ring n).fetches.find? (fun (f : Nat × Nat) => u.io.inFlight (.fetch n f.1 f.2)) = some (f, k) →
        u.timedOut (.ringFetch n) = (u.on fun io =>
          io.fetchFailed n f k 8 ((io.ring n).sqBase + (io.ring n).entryBytes * (f % 2 ^ (io.ring n).sqLog2))).advance) ∧
      u.timedOut (.walk c p) = u.endWalk c p [] ∧
      u.timedOut (.bulk n i at_ mem) = u.on (·.dmaCopyDone n i mem (some at_)) ∧
      u.timedOut (.staging n i at_ mem) = u.stageData n i mem (some at_) ∧
      u.timedOut (.descriptors n i) = ((u.on (·.withdraw (.descriptors n i))).descRead n i (.fault 8)).advance ∧
      u.timedOut (.fence n) = ((u.on (·.withdraw (.fence n))).fenceRead n (.fault 8)).advance ∧
      (∀ b, u.hostPlay n i = some b → u.timedOut (.audio n i at_) =
        u.audioFault b (if b.what < 16 then b.what / 4 else 0) (29 + b.what % 4) 8 at_ false) ∧
      u.timedOut (.layer n i) = u.layerTimeout n i)

/-- Contexts are set and disabled, invalidations drain, a walk ends in a translation or a fault, and copies run (one clause for each command; derived from the rules of the chapter). Model choices that clauses rest on: log 10, 66, 101. -/
def Obligations.TranslationAndDma : Prop :=
  -- XLT_SET (R126)
  (∀ (s : State) (n i : Nat) (e : List Byte), s.io.Ready n i 0x05 true (xltFieldsOk e) e → fieldAt e 8 1 = 0 → 
      (s.io.xltCase e = 0 → Completes (.xltSet n i) s fun t => t = s.on fun io =>
        ((((io.setF (Fld.XLT_CTX_MODE_MODE (fieldAt e 9 1)) (fieldAt e 10 1)).setF (Fld.XLT_CTX_MODE_WIDTH (fieldAt e 9 1)) (fieldAt e 11 1)).setWide
          (Fld.XLT_CTX_ROOT_LO (fieldAt e 9 1)) (Fld.XLT_CTX_ROOT_HI (fieldAt e 9 1)) (fieldAt e 16 8)).answer n i e {})) ∧
      (s.io.xltCase e ≠ 0 → Completes (.xltSet n i) s fun t => t = s.on (·.answer n i e { status := 0x01, detail := s.io.xltCase e }))) ∧
  -- XLT_DISABLE (R126)
  (∀ (s : State) (n i : Nat) (e : List Byte), s.io.Ready n i 0x05 true (xltFieldsOk e) e → fieldAt e 8 1 = 1 → 
      (s.io.xltCase e = 0 → Completes (.xltDisable n i) s fun t => t = s.on fun io =>
        ((((io.setF (Fld.XLT_CTX_MODE_MODE (fieldAt e 9 1)) 0).setF (Fld.XLT_CTX_MODE_WIDTH (fieldAt e 9 1)) 0).setWide
          (Fld.XLT_CTX_ROOT_LO (fieldAt e 9 1)) (Fld.XLT_CTX_ROOT_HI (fieldAt e 9 1)) 0).invalidate n i e (fieldAt e 9 1) (fun _ => true))) ∧
      (s.io.xltCase e ≠ 0 → Completes (.xltDisable n i) s fun t => t = s.on (·.answer n i e { status := 0x01, detail := s.io.xltCase e }))) ∧
  -- XLT_INVALIDATE_ALL (R126)
  (∀ (s : State) (n i : Nat) (e : List Byte), s.io.Ready n i 0x05 true (xltFieldsOk e) e → fieldAt e 8 1 = 2 → 
      (s.io.xltCase e = 0 → Completes (.xltInvalidateAll n i) s fun t => t = s.on fun io =>
        io.invalidate n i e (fieldAt e 9 1) (fun _ => true)) ∧
      (s.io.xltCase e ≠ 0 → Completes (.xltInvalidateAll n i) s fun t => t = s.on (·.answer n i e { status := 0x01, detail := s.io.xltCase e }))) ∧
  -- XLT_INVALIDATE_RANGE (R126)
  (∀ (s : State) (n i : Nat) (e : List Byte), s.io.Ready n i 0x05 true (xltFieldsOk e) e → fieldAt e 8 1 = 3 → 
      (s.io.xltCase e = 0 → Completes (.xltInvalidateRange n i) s fun t => t = s.on fun io =>
        io.invalidate n i e (fieldAt e 9 1) (fun x => decide (x.base < fieldAt e 24 8 + fieldAt e 32 8 * 4096 ∧ fieldAt e 24 8 < x.base + 2 ^ x.log2))) ∧
      (s.io.xltCase e ≠ 0 → Completes (.xltInvalidateRange n i) s fun t => t = s.on (·.answer n i e { status := 0x01, detail := s.io.xltCase e }))) ∧
  -- INVALIDATION_DRAINED (R128)
  (∀ (s : State) (n i : Nat) (e : List Byte), s.io.activeEntry n i 0x05 = some e → s.io.drained (fieldAt e 9 1) = true →
      Completes (.invalidationDrained n i) s fun t => t = s.on (fun io => (io.bumpF Fld.XLT_INVAL_COUNT).finish n i e {})) ∧
  -- TRANSLATION_WALK_DONE (R133)
  (∀ (s : State) (ctx page : Nat) (w v : Walk) (reads : List (Option Nat)) (io : Io) (r : WalkEnd) (f : Io → Io × List (Waiter × Nat × Nat)),
      s.io.walks.find? (fun w => w.ctx == ctx && w.page == page && w.running) = some w → Io.walkOn 5 w reads s.io = (io, v, some r) →
      f = (fun x => v.reqs.foldl (fun (acc : Io × List (Waiter × Nat × Nat)) q =>
        ((acc.1.endRequest ctx (if io.ctxMode ctx ≠ 1 then WalkEnd.fault 6 else r) v.stale q).1,
          acc.2 ++ (acc.1.endRequest ctx (if io.ctxMode ctx ≠ 1 then WalkEnd.fault 6 else r) v.stale q).2.toList)) (x, [])) →
      Completes (.translationWalkDone ctx page reads) s (fun t =>
        t = ((s.io.walkDone ctx page reads).2.foldl (fun (s : State) f => s.walkFault f.1 ctx f.2.1 f.2.2)
          { s with io := (s.io.walkDone ctx page reads).1 }).advance) ∧
      ∀ x, x = Io.settle (Io.startWalks 16 { io with walks := eraseFirst (· == v) io.walks }) →
        (io.ctxMode ctx = 1 → r = .fault 7 → s.io.walkDone ctx page reads = f (x.fireIn 97 0)) ∧
        (io.ctxMode ctx = 1 → ∀ bus log2 rd wr ns, r = .leaf bus log2 rd wr ns → v.stale = false → s.io.walkDone ctx page reads =
          f ([0, 1, 2, 3].foldl (fun x n => if v.reqs.any (fun q => q.region == n && (r.faultOf q.write).isNone) then
            x.cacheFill (leafEntry n ctx (page * 4096) bus log2 rd wr ns) else x) x)) ∧
        (io.ctxMode ctx ≠ 1 → s.io.walkDone ctx page reads = f x)) ∧
  -- DMA_COPY (R140)
  (∀ (s : State) (n i : Nat) (e : List Byte), s.io.Ready n i 0x40 true (dmaFieldsOk e) e → (s.io.ring n).copyBefore i = false →
      ((bit (fieldAt e 32 1) 0 && s.io.beyond (fieldAt e 16 8) (fieldAt e 8 5) || bit (fieldAt e 32 1) 1 && s.io.beyond (fieldAt e 24 8) (fieldAt e 8 5)) = true →
        Completes (.dmaCopy n i) s fun t => t = s.on (·.answer n i e { status := 0x01, detail := 1 })) ∧
      (s.getF Fld.XLT_DMA_ACTIVE_COPIES < 16 →
        (bit (fieldAt e 32 1) 0 && s.io.beyond (fieldAt e 16 8) (fieldAt e 8 5) || bit (fieldAt e 32 1) 1 && s.io.beyond (fieldAt e 24 8) (fieldAt e 8 5)) = false →
        Completes (.dmaCopy n i) s fun t => t = s.on fun io =>
          ((io.popEntry n i).setRing n { (io.popEntry n i).ring n with active := ((io.popEntry n i).ring n).active ++ [(i, e)] }).bumpF Fld.XLT_DMA_ACTIVE_COPIES)) ∧
  -- DMA_COPY_DONE (R142)
  (∀ (s : State) (n i : Nat) (e : List Byte) (m : HostData) (w : Nat) (io : Io) (f : Option (Nat × Nat × Bool)), s.io.activeEntry n i 0x40 = some e →
      s.io.owed.any (fun o => o.ring == n && o.index == i) = false →
      Io.copyGranules { m with inFlight := min 16 w } (.entry n i) e none (fieldAt e 8 5 + 1) 0 (fieldAt e 8 5) s.io = (io, f) →
      (f = none → Completes (.dmaCopyDone n i m w) s fun t => t = s.on fun _ =>
        (Io.settle (io.completeOwn (.entry n i))).owe { ring := n, index := i, entry := e, done := { info := fieldAt e 8 5 } }) ∧
      ∀ k d onDst, f = some (k, d, onDst) → Completes (.dmaCopyDone n i m w) s fun t => t = s.on fun _ =>
        (Io.settle ((Io.settle (io.completeOwn (.entry n i))).countFault.logFault 0 ((if onDst then fieldAt e 24 8 else fieldAt e 16 8) + d) k 3
            (if onDst then fieldAt e 34 1 else fieldAt e 33 1) 36 none onDst)).owe
          { ring := n, index := i, entry := e, done := { status := 0x06, detail := k + 16 * flag onDst, info := d } })

/-- Reads and writes by the host, the chain and the debug port reach the register or are turned away as their rules say, and the debug port holds its instruction, its status and its boundary cells (one clause for each command; derived from the rules of the chapter). Model choices that clauses rest on: log 46. -/
def Obligations.RegisterAccesses : Prop :=
  -- REGISTER_WRITE (R11)
  (∀ (s : State) (path : RegPath) (off value size : Nat) (enables : Bool),
      (path = .bar0 → size ≠ 4 ∨ off % 4 ≠ 0 ∨ enables = false → s.pathOpen path = true → Completes (.registerWrite path off value size enables) s fun t => t = s.fire 70) ∧
      ((path = .bar0 → size = 4 ∧ enables = true) → off % 4 = 0 → off < 0x800000 →
        Completes (.registerWrite path off value size enables) s fun t => t = (s.pathWrite path off (value % 2 ^ 32)).1)) ∧
  -- an operation that the clauses name
  (∀ (s : State) (a v : Nat) (r : RegRow) (i : Nat), a < 0x380000 → regRow a = some (r, i) → s.io.regPresent a = true →
      (r.rwl ≠ 0 → s.boot.locked = true → s.writeReg a v = ((s.performWrite a v r i true).fire 1, 1)) ∧
      (r.rwl = 0 ∨ s.boot.locked = false → s.writeReg a v = (s.performWrite a v r i false, 0))) ∧
  -- LOW_HALF_READ (R13)
  (∀ (s u : State) (path : RegPath) (off v : Nat), off % 4 = 0 → off < 0x800000 → s.pathRead path off = (u, some v) →
      (path = .bar0 → Completes (.lowHalfRead path off 4 true) s fun t => t = u.emit (.barData (leBytes 4 v) false)) ∧
      (path ≠ .bar0 → ∀ size enables, Completes (.lowHalfRead path off size enables) s fun t => t = u)) ∧
  -- REG_REQ_RECEIVED (R293)
  (∀ (s u : State) (port : Nat) (packet pl : List Byte), s.pathOpen .remote = true → s.kept port 0x04 packet = (u, some pl) →
      (∀ tag r, u.link.replies.find? (·.1 == fieldAt pl 0 2) = some (tag, r) → Completes (.regReqReceived port packet) s fun t => t = u.queueReturn 0x3 r) ∧
      ∀ v st x r, u.link.replies.find? (·.1 == fieldAt pl 0 2) = none → u.remoteAccess (fieldAt pl 2 1) (fieldAt pl 4 4) (fieldAt pl 8 4) = (v, st, x) →
        r = leBytes 2 (fieldAt pl 0 2) ++ leBytes 1 st ++ zeros 1 ++ sub pl 4 4 ++ leBytes 4 x →
        Completes (.regReqReceived port packet) s fun t =>
          t = ({ v with link := { v.link with replies := ((fieldAt pl 0 2, r) :: v.link.replies).take 4 } } : State).queueReturn 0x3 r) ∧
  -- LINK_TEST_RETRY (R301)
  (∀ (s : State) (port : Nat) (path : RegPath), port < 16 → s.Accepts path (Reg.LNK_TEST (port / 4) (port % 4)) → Completes (.linkTestRetry port path) s fun t => t = s.linkRetry port) ∧
  -- LINK_TEST_FORCE_DOWN (R299)
  (∀ (s : State) (port : Nat) (path : RegPath), port < 16 → s.Accepts path (Reg.LNK_TEST (port / 4) (port % 4)) → Completes (.linkTestForceDown port path) s fun t => t = s.linkForce port) ∧
  -- JTAG_RESET (R556)
  (∀ s : State, Completes .jtagReset s fun t => t = { s with jtag := { s.jtag with ir := 15, extest := false } }) ∧
  -- JTAG_EXTEST (R556)
  (∀ (s : State) (levels : Nat), Completes (.jtagExtest levels) s fun t => t.jtag = { s.jtag with ir := 0, boundary := levels, extest := true } ∧ t.io.out = .boundary levels :: s.io.out) ∧
  -- JTAG_SAMPLE_PRELOAD (R556)
  (∀ (s : State) (pins levels width : Nat), Completes (.jtagSamplePreload pins levels width) s fun t => t.jtag = { s.jtag with ir := 1, boundary := levels, extest := false } ∧
      t.io.out = .tdo (pins % 2 ^ width) width :: s.io.out) ∧
  -- JTAG_BYPASS (R556)
  (∀ (s : State) (code : Nat), code % 16 ≠ 0 → code % 16 ≠ 1 → code % 16 ≠ 8 → Completes (.jtagBypass code) s fun t => t = { s with jtag := { s.jtag with ir := code % 16, extest := false } }) ∧
  -- JTAG_REGACC_UPDATE (R557)
  (∀ (s u : State) (dr off data : Nat), u = { s with jtag := { s.jtag with ir := 8, extest := false } } → off = 4 * bits dr 1 21 → data = bits dr 22 32 →
      Completes (.jtagRegaccUpdate dr true) s (fun t => t = { u with jtag := { u.jtag with status := 2 } }) ∧
      (0x400000 ≤ off → bit dr 0 = true → Completes (.jtagRegaccUpdate dr false) s fun t => t = { u with jtag := { u.jtag with status := 3, data := data } }) ∧
      (off < 0x400000 → bit dr 0 = true → Completes (.jtagRegaccUpdate dr false) s fun t => t.io = (u.pathWrite .debug off data).1.io ∧ t.jtag.data = data) ∧
      ∀ v x, bit dr 0 = false → u.pathRead .debug off = (v, some x) → Completes (.jtagRegaccUpdate dr false) s fun t => t = { v with jtag := { v.jtag with status := 0, data := x } }) ∧
  -- JTAG_REGACC_CAPTURE (R557)
  (∀ s : State, Completes .jtagRegaccCapture s fun t => t.io.out = .tdo (s.jtag.status + 2 ^ 22 * s.jtag.data) 56 :: s.io.out)

/-- A written 1 clears a status bit and a 0 leaves it, masks are written, counters are snapped, cleared and reset, a counter of cycles wraps, and a low half latches its high half (one clause for each command; derived from the rules of the chapter). -/
def Obligations.EventsAndCounters : Prop :=
  -- EVENT_STATUS_CLEAR (R505)
  (∀ (s : State) (path : RegPath) (i value : Nat) (coincident : List Nat), i < 16 → s.pathOpen path = true → s.io.boot ≠ stUMBER →
      (path = .bar0 → s.io.operational = false → Completes (.eventStatusClear path i value coincident) s fun t => t = s.fire 70) ∧
      ((path = .bar0 → s.io.operational = true) → Completes (.eventStatusClear path i value coincident) s fun t => t = s.clearStatus i value coincident)) ∧
  -- an operation that the clauses name
  (∀ (s : State) (i v b : Nat), i < 16 → b < 32 → bit v b = true → eventDefined (32 * i + b) = true → (s.clearStatus i v []).io.evtStatus (32 * i + b) = false) ∧
  -- an operation that the clauses name
  (∀ (s : State) (i v b : Nat), i < 16 → b < 32 → bit v b = false → (s.clearStatus i v []).io.evtStatus (32 * i + b) = s.io.evtStatus (32 * i + b)) ∧
  -- EVENT_MASK_WRITE (R507)
  (∀ (s : State) (path : RegPath) (i value : Nat), i < 16 → s.Accepts path (Reg.CTL_EVT_MASK i) →
      Completes (.eventMaskWrite path i value) s fun t => t = s.writeMask i (value % 2 ^ 32)) ∧
  -- COUNTER_SNAP (R518)
  (∀ (s : State) (path : RegPath), s.Accepts path Reg.CTL_CNT_GLOBAL → Completes (.counterSnap path) s fun t => t.io.snap = s.io.cnt ∧ Fires 19 s t) ∧
  -- COUNTER_CLEAR (R518)
  (∀ (s : State) (path : RegPath), s.Accepts path Reg.CTL_CNT_GLOBAL → Completes (.counterClear path) s fun t => t.io.cnt = [] ∧ t.io.getReg Reg.CTL_CNT_OVF_A = 0 ∧ t.io.getReg Reg.CTL_CNT_OVF_B = 0) ∧
  -- COUNTER_RESET (R518)
  (∀ (s : State) (path : RegPath) (c : Nat), c < 64 → (s.io.isTile = true → c < 16) → s.Accepts path (Reg.CTL_CNT_CFG c) →
      Completes (.counterReset path c) s fun t => Sparse.get (fun _ => 0) t.io.cnt c = 0 ∧ ∀ d, d ≠ c → Sparse.get (fun _ => 0) t.io.cnt d = Sparse.get (fun _ => 0) s.io.cnt d) ∧
  -- COUNTER_WRAP (R517)
  (∀ (s : State) (c : Nat), s.countsCycles c = true → Completes (.counterWrap c) s fun t =>
      t.io = Io.settle (({ s.io with cnt := Sparse.ins (Sparse.erase s.io.cnt c) c (2 ^ 48 - 1) } : Io).countOne c)) ∧
  -- an operation that the clauses name
  (∀ (s : Io) (a : Nat), (lowHalf a = true → (s.readLatched a).2 = s.viewWord a ∧ (s.readLatched a).1.latch.find? (·.1 == a + 4) = some (a + 4, BitVec.ofNat 32 (s.viewWord (a + 4)))) ∧
      ∀ w, lowHalf a = false → s.latch.find? (·.1 == a) = some (a, w) → s.readLatched a = (s, w.toNat))

/-- A fault is counted and logged at its level and escalates as the table of levels gives: a retry, a substitution, a block restart, a fence, a controlled restart, and no fourth restart in the hour (one clause for each command; derived from the rules of the chapter). Model choices that clauses rest on: log 80, 102. -/
def Obligations.ContainmentCommands : Prop :=
  -- CELL_FAULT (R523)
  (∀ (s u v : State) (region block cell chain position row : Nat) (check umberLow : Bool), s.running = true → s.io.regionActive region = true → block < 8 →
      s.video.fenced.contains region = false → s.blockStopped region block = false →
      u = (s.bumpF Fld.CTL_ERR_CELL_RETRY).logError 0 region block cell (if check then 3 else 1) row (position % 64 + 64 * (chain % 16)) →
      Completes (.cellFault region block cell chain position row check false umberLow) s (fun t =>
        t = if block = 2 then u.bumpF (Fld.ENC_RETRIES region) else if block = 3 then u.bumpF (Fld.DEC_RETRIES region) else u) ∧
      (v = ((if block = 2 then u.bumpF (Fld.ENC_RETRIES region) else u).bumpF Fld.CTL_ERR_CELL_SUBST).substitute
          { region := region, block := block, cell := cell, chain := chain, position := position, row := row,
            tick := ((if block = 2 then u.bumpF (Fld.ENC_RETRIES region) else u).bumpF Fld.CTL_ERR_CELL_SUBST).io.tick, failed := true } →
        Completes (.cellFault region block cell chain position row check true umberLow) s (fun t =>
          t = if 3 ≤ v.substituted region block cell then v.blockFault region block cell 8 umberLow else v))) ∧
  -- CELL_STALL (R522)
  (∀ (s u v : State) (region block cell chain position row : Nat) (umberLow : Bool), s.running = true → s.io.regionActive region = true → block < 8 →
      s.video.fenced.contains region = false → s.blockStopped region block = false →
      u = (s.bumpF Fld.CTL_ERR_CELL_RETRY).logError 0 region block cell 2 row (position % 64 + 64 * (chain % 16)) →
      v = (if block = 2 then u.bumpF (Fld.ENC_RETRIES region) else u) →
      Completes (.cellStall region block cell chain position row false umberLow) s (fun t => t = if block = 3 then u.bumpF (Fld.DEC_RETRIES region) else v) ∧
      Completes (.cellStall region block cell chain position row true umberLow) s (fun t => t = ((v.bumpF Fld.CTL_ERR_CELL_SUBST).substitute
          { region := region, block := block, cell := cell, chain := chain, position := position, row := row, tick := (v.bumpF Fld.CTL_ERR_CELL_SUBST).io.tick, failed := true }).blockFault region block cell 8 umberLow)) ∧
  -- BLOCK_FAULT (R525)
  (∀ (s : State) (region block : Nat) (umberLow : Bool), s.running = true → s.io.regionActive region = true → block < 9 →
      (block = 8 ∨ s.video.returned.any (fun x => x.1 == region && x.2.1 == block && decide (s.io.tick < x.2.2 + 64)) = true →
        Completes (.blockFault region block umberLow) s fun t => t = s.regionFault region block 8 umberLow) ∧
      (block ≠ 8 → s.video.returned.any (fun x => x.1 == region && x.2.1 == block && decide (s.io.tick < x.2.2 + 64)) = false →
        s.blockStopped region block = false → s.video.fenced.contains region = false →
        Completes (.blockFault region block umberLow) s fun t => t = (((((s.bumpF Fld.CTL_ERR_BLOCK_RESTARTS).logError 1 region block 0 4 0 0).stopBlock region block).onVideo
          (fun v => { v with stopped := v.stopped ++ [(region, block, (((s.bumpF Fld.CTL_ERR_BLOCK_RESTARTS).logError 1 region block 0 4 0 0).stopBlock region block).io.tick + 1)] })).standbyContains))) ∧
  -- BLOCK_RESTART_DONE (R525)
  (∀ (s : State) (region block x : Nat), s.video.stopped.find? (fun x => x.1 == region && x.2.1 == block) = some (region, block, x) →
      (x ≤ s.io.tick → Completes (.blockRestartDone region block) s fun t => t = s.blockReturn region block) ∧
      (s.io.tick < x → Completes (.blockRestartDone region block) s fun t =>
        t.video.ready = if s.video.ready.contains (region, block) then s.video.ready else s.video.ready ++ [(region, block)])) ∧
  -- BLOCK_RESTART_TIMEOUT (R523)
  (∀ (s : State) (region block x : Nat) (umberLow : Bool), s.video.stopped.find? (fun x => x.1 == region && x.2.1 == block) = some (region, block, x) → x + 1 ≤ s.io.tick →
      s.video.ready.contains (region, block) = false → Completes (.blockRestartTimeout region block umberLow) s fun t => t = s.regionFault region block 8 umberLow) ∧
  -- REGION_FAULT (R526)
  (∀ (s : State) (region : Nat) (umberLow : Bool), s.running = true → s.io.regionActive region = true → Completes (.regionFault region umberLow) s fun t => t = s.regionFault region 9 5 umberLow) ∧
  -- REGION_RETURN (R527)
  (∀ (s u v : State) (region : Nat) (retrained new : List (Nat × List Byte)) (failed enabled : List Nat), s.video.fenced.contains region = true →
      bit (s.getF Fld.CTL_ERR_STAT_FENCE_HELD) region = false → enabled = (List.range 4).filter (fun i => s.getF (Fld.DMC_CH_STAT_STATE region i) ≠ 0) →
      new = retrained.filter (fun r => enabled.contains r.1 && !failed.contains r.1) →
      u = new.foldl (fun x r => x.setChan (4 * region + r.1) { x.chan (4 * region + r.1) with settings := sub r.2 0 256 })
        (enabled.foldl (fun x i => x.returnChannel region i (if failed.contains i then 3 else if new.any (·.1 == i) then 2 else 1)) s) →
      v = (if new.isEmpty then u else u.queueRecord 1 u.trainingRecord) →
      (enabled.any failed.contains = false → Completes (.regionReturn region retrained failed) s fun t =>
        t = v.onVideo (fun x => { x with returning := if x.returning.contains region then x.returning else x.returning ++ [region] })) ∧
      (enabled.any failed.contains = true → Completes (.regionReturn region retrained failed) s fun t =>
        t = v.setF Fld.CTL_ERR_STAT_FENCE_HELD (putBits (v.getF Fld.CTL_ERR_STAT_FENCE_HELD) region 1 1))) ∧
  -- CHIP_ERROR (R529)
  (∀ (s : State) (cell : Nat) (umberLow : Bool), s.boot.pwrgood = true → s.boot.power ≠ 2 → s.boot.held = false → Completes (.chipError cell umberLow) s fun t => t = s.chipError 10 cell 6 umberLow) ∧
  -- an operation that the clauses name
  (∀ (s : State) (block cell cause : Nat), s.io.hasHost = false → 2 ≤ s.recentRestarts.length →
      ∀ u, u = (((s.bumpF Fld.CTL_ERR_CHIP).logError 3 0 block cell cause 0 0).alert 6 true) → u.recentRestarts = s.recentRestarts →
      s.chipError block cell cause false = (((u.onBoot (fun b => { b with restarts := s.recentRestarts })).setF Fld.CTL_ERR_STAT_RESTARTS (min 2 s.recentRestarts.length)).setF Fld.CTL_ERR_STAT_RESTART_BLOCKED 1).restart false false) ∧
  -- FIRMWARE_WATCHDOG_EXPIRY (R522)
  (∀ (s : State) (core : Nat) (umberLow : Bool), s.running = true → s.boot.power ≠ 2 → Completes (.firmwareWatchdogExpiry core umberLow) s fun t => t = s.chipError 10 core 7 umberLow)

/-- Frame of the boot, image-load and Umber commands: what each command leaves alone. `Parts.shared` are the parts that an event, a completion or an access to memory may touch. -/
def Obligations.BootUmberFrame : Prop :=
  ∀ σ τ : State,
  (∀ (umberLow : Bool) (diode0 diode1 : Int) (t : Nat) (programmed : List (Nat × List Byte)), exec (.powerOn umberLow diode0 diode1 t programmed) σ = .next τ →
    State.Only (Parts.shared ++ [Part.tick, Part.link, Part.tiles, Part.chans, Part.host, Part.plan, Part.boot, Part.therm,
      Part.pairUnit, Part.video, Part.lamp, Part.wall, Part.audio, Part.meter, Part.jtag, Part.latches, Part.power, Part.fresh, Part.now,
      Part.anyReg]) σ τ) ∧
  (∀ (umberLow : Bool) (diode0 diode1 : Int) (t : Nat) (programmed : List (Nat × List Byte)), exec (.deviceReset umberLow diode0 diode1 t programmed) σ = .next τ →
    State.Only (Parts.shared ++ [Part.tick, Part.link, Part.tiles, Part.chans, Part.host, Part.plan, Part.boot, Part.therm,
      Part.pairUnit, Part.video, Part.lamp, Part.wall, Part.audio, Part.meter, Part.jtag, Part.latches, Part.power, Part.fresh, Part.now,
      Part.anyReg]) σ τ) ∧
  (exec .railUndervoltage σ = .next τ →
    State.Only (Parts.shared ++ [Part.tick, Part.link, Part.tiles, Part.chans, Part.host, Part.plan, Part.boot, Part.therm,
      Part.pairUnit, Part.video, Part.lamp, Part.wall, Part.audio, Part.meter, Part.jtag, Part.latches, Part.power, Part.fresh, Part.now,
      Part.anyReg]) σ τ) ∧
  (∀ (index : Nat) (got : Option (List Byte)), exec (.imageSectionReadDone index got) σ = .next τ →
    State.Only (Parts.shared ++ [Part.tick, Part.link, Part.tiles, Part.chans, Part.host, Part.plan, Part.boot, Part.therm,
      Part.pairUnit, Part.video, Part.lamp, Part.wall, Part.audio, Part.meter, Part.jtag, Part.latches, Part.power, Part.fresh, Part.now,
      Part.anyReg]) σ τ) ∧
  (∀ (sec : Option Nat), exec (.nvmReadTimeout sec) σ = .next τ →
    State.Only (Parts.shared ++ [Part.tick, Part.link, Part.tiles, Part.chans, Part.host, Part.plan, Part.boot, Part.therm,
      Part.pairUnit, Part.video, Part.lamp, Part.wall, Part.audio, Part.meter, Part.jtag, Part.latches, Part.power, Part.fresh, Part.now,
      Part.anyReg]) σ τ) ∧
  (∀ (channel density cap margin mr4 : Nat) (verified trained : Bool) (settings : List Byte), exec (.dramTrainingDone channel density cap margin mr4 verified trained settings) σ = .next τ →
    State.Only (Parts.shared ++ [Part.tick, Part.link, Part.tiles, Part.chans, Part.plan, Part.boot, Part.fresh, Part.now,
      Part.CTL_IMG_INFO, Part.CTL_IMG_ROLLBACK, Part.CTL_IMG_WALL_SEQ, Part.CTL_IMG_WALL_ID_LO, Part.CTL_IMG_WALL_ID_HI,
      Part.CTL_IMG_COMPILER, Part.CTL_IMG_DIGEST, Part.DMC_CFG, Part.DMC_DENSITY, Part.DMC_CH_STAT, Part.DMC_CH_REFRESHES,
      Part.DMC_CH_FORCED, Part.DMC_CH_TRAIN, Part.LNK_STATE, Part.LNK_FOM, Part.LNK_DFE, Part.LNK_HDR_CRC_ERR, Part.LNK_PAY_CRC_ERR,
      Part.THM_QUEUE, Part.THM_WRITES_DEFERRED, Part.CTL_BOOT, Part.CTL_UMBER, Part.CTL_WDOG, Part.CTL_ALERT]) σ τ) ∧
  (exec .loadingComplete σ = .next τ →
    State.Only (Parts.shared ++ [Part.tick, Part.link, Part.tiles, Part.chans, Part.host, Part.plan, Part.boot, Part.therm,
      Part.pairUnit, Part.video, Part.lamp, Part.wall, Part.audio, Part.meter, Part.jtag, Part.latches, Part.power, Part.fresh, Part.now,
      Part.anyReg]) σ τ) ∧
  (exec .bootWatchdogExpiry σ = .next τ →
    State.Only ([Part.tick, Part.link, Part.tiles, Part.chans, Part.plan, Part.boot, Part.rings, Part.caches, Part.out,
      Part.CTL_IMG_INFO, Part.CTL_IMG_ROLLBACK, Part.CTL_IMG_WALL_SEQ, Part.CTL_IMG_WALL_ID_LO, Part.CTL_IMG_WALL_ID_HI,
      Part.CTL_IMG_COMPILER, Part.CTL_IMG_DIGEST, Part.LNK_STATE, Part.LNK_FOM, Part.LNK_DFE, Part.THM_STATE, Part.CTL_BOOT,
      Part.CTL_UMBER, Part.CTL_WDOG, Part.CTL_ALERT]) σ τ) ∧
  (exec .umberNone σ = .next τ →
    State.Only ([Part.CTL_UMB_CMD, Part.CTL_UMB_STAT]) σ τ) ∧
  (exec .umberFormat σ = .next τ →
    State.Only (Parts.shared ++ [Part.boot, Part.CTL_UMB_CMD, Part.CTL_UMB_STAT]) σ τ) ∧
  (exec .umberOpen σ = .next τ →
    State.Only ([Part.boot, Part.out, Part.CTL_UPD_STATE, Part.CTL_UPD_PROGRESS, Part.CTL_UPD_RESULT, Part.CTL_UMB_CMD, Part.CTL_UMB_STAT]) σ τ) ∧
  (exec .umberBlock σ = .next τ →
    State.Only (Parts.shared ++ [Part.boot, Part.CTL_UMB_CMD, Part.CTL_UMB_STAT]) σ τ) ∧
  (∀ (readback : Bool), exec (.umberBlockProgrammed readback) σ = .next τ →
    State.Only (Parts.shared ++ [Part.boot, Part.CTL_UPD_PROGRESS, Part.CTL_UMB_STAT]) σ τ) ∧
  (exec .umberClose σ = .next τ →
    State.Only (Parts.shared ++ [Part.boot, Part.CTL_UPD_STATE, Part.CTL_UMB_CMD, Part.CTL_UMB_STAT]) σ τ) ∧
  (exec .umberDiscard σ = .next τ →
    State.Only ([Part.boot, Part.out, Part.CTL_UPD_STATE, Part.CTL_UMB_CMD, Part.CTL_UMB_STAT]) σ τ) ∧
  (∀ (programmed : List (Nat × List Byte)), exec (.umberRestart programmed) σ = .next τ →
    State.Only (Parts.shared ++ [Part.tick, Part.link, Part.tiles, Part.chans, Part.host, Part.plan, Part.boot, Part.therm,
      Part.pairUnit, Part.video, Part.lamp, Part.wall, Part.audio, Part.meter, Part.jtag, Part.latches, Part.power, Part.fresh, Part.now,
      Part.anyReg]) σ τ) ∧
  (exec .umberBootActive σ = .next τ →
    State.Only (Parts.shared ++ [Part.tick, Part.link, Part.tiles, Part.chans, Part.host, Part.plan, Part.boot, Part.therm,
      Part.pairUnit, Part.video, Part.lamp, Part.wall, Part.audio, Part.meter, Part.jtag, Part.latches, Part.power, Part.fresh, Part.now,
      Part.anyReg]) σ τ) ∧
  (∀ (cmd : Nat), exec (.umberBadCmd cmd) σ = .next τ →
    State.Only ([Part.CTL_UMB_CMD, Part.CTL_UMB_STAT]) σ τ) ∧
  (exec .pwrgoodFall σ = .next τ →
    State.Only (Parts.shared ++ [Part.tick, Part.link, Part.tiles, Part.chans, Part.host, Part.plan, Part.boot, Part.therm,
      Part.pairUnit, Part.video, Part.lamp, Part.wall, Part.audio, Part.meter, Part.jtag, Part.latches, Part.power, Part.fresh, Part.now,
      Part.anyReg]) σ τ) ∧
  (∀ (umberLow : Bool) (diode0 diode1 : Int) (t : Nat), exec (.monitoredRailRecovery umberLow diode0 diode1 t) σ = .next τ →
    State.Only (Parts.shared ++ [Part.tick, Part.link, Part.tiles, Part.chans, Part.host, Part.plan, Part.boot, Part.therm,
      Part.pairUnit, Part.video, Part.lamp, Part.wall, Part.audio, Part.meter, Part.jtag, Part.latches, Part.power, Part.fresh, Part.now,
      Part.anyReg]) σ τ) ∧
  (∀ (diode0 diode1 : Int), exec (.diodeWindowChange diode0 diode1) σ = .next τ →
    State.Only (Parts.shared ++ [Part.tick, Part.link, Part.tiles, Part.chans, Part.host, Part.plan, Part.boot, Part.therm,
      Part.pairUnit, Part.video, Part.lamp, Part.wall, Part.audio, Part.meter, Part.jtag, Part.latches, Part.power, Part.fresh, Part.now,
      Part.anyReg]) σ τ)

/-- Frame of staging, activation, restart and attestation: what each command leaves alone. `Parts.shared` are the parts that an event, a completion or an access to memory may touch. -/
def Obligations.UpdateFrame : Prop :=
  ∀ σ τ : State,
  (∀ (port : Nat) (cell : List Byte), exec (.stageAckReceived port cell) σ = .next τ →
    State.Only (Parts.shared ++ [Part.link, Part.boot, Part.pairUnit, Part.LNK_CELL_DROP]) σ τ) ∧
  (∀ (port : Nat) (packet : List Byte), exec (.restartReceived port packet) σ = .next τ →
    State.Only (Parts.shared ++ [Part.tick, Part.link, Part.tiles, Part.chans, Part.host, Part.plan, Part.boot, Part.therm,
      Part.pairUnit, Part.video, Part.lamp, Part.wall, Part.audio, Part.meter, Part.jtag, Part.latches, Part.power, Part.fresh, Part.now,
      Part.anyReg]) σ τ) ∧
  (∀ (port : Nat) (packet : List Byte), exec (.attestCommandReceived port packet) σ = .next τ →
    State.Only (Parts.shared ++ [Part.boot, Part.LNK_HDR_CRC_ERR, Part.LNK_PAY_CRC_ERR, Part.CTL_ATT_STAT]) σ τ) ∧
  (∀ (ring index : Nat), exec (.stageOpen ring index) σ = .next τ →
    State.Only (Parts.shared ++ [Part.link, Part.boot, Part.CTL_UPD_STATE, Part.CTL_UPD_PROGRESS, Part.CTL_UPD_RESULT]) σ τ) ∧
  (∀ (ring index : Nat) (mem : HostData) (inFlight : Nat), exec (.stageData ring index mem inFlight) σ = .next τ →
    State.Only (Parts.shared ++ [Part.link, Part.boot, Part.XLT_DMA_ACTIVE, Part.DMC_CH_ECC_UNCORR, Part.CTL_UPD_PROGRESS]) σ τ) ∧
  (∀ (ring index : Nat), exec (.stageClose ring index) σ = .next τ →
    State.Only (Parts.shared ++ [Part.link, Part.boot, Part.CTL_UPD_STATE]) σ τ) ∧
  (∀ (ring index : Nat), exec (.stageDiscard ring index) σ = .next τ →
    State.Only (Parts.shared ++ [Part.link, Part.boot, Part.CTL_UPD_STATE]) σ τ) ∧
  (exec .stageCloseTimeout σ = .next τ →
    State.Only (Parts.shared ++ [Part.boot]) σ τ) ∧
  (∀ (port : Nat) (packet : List Byte), exec (.stageOpenPacket port packet) σ = .next τ →
    State.Only (Parts.shared ++ [Part.boot, Part.LNK_HDR_CRC_ERR, Part.LNK_PAY_CRC_ERR, Part.CTL_UPD_STATE, Part.CTL_UPD_PROGRESS,
      Part.CTL_UPD_RESULT]) σ τ) ∧
  (∀ (port : Nat) (packet : List Byte), exec (.stageDataPacket port packet) σ = .next τ →
    State.Only (Parts.shared ++ [Part.boot, Part.LNK_HDR_CRC_ERR, Part.LNK_PAY_CRC_ERR, Part.CTL_UPD_PROGRESS]) σ τ) ∧
  (∀ (port : Nat) (packet : List Byte), exec (.stageClosePacket port packet) σ = .next τ →
    State.Only (Parts.shared ++ [Part.link, Part.boot, Part.LNK_HDR_CRC_ERR, Part.LNK_PAY_CRC_ERR, Part.CTL_UPD_STATE]) σ τ) ∧
  (∀ (port : Nat) (packet : List Byte), exec (.stageDiscardPacket port packet) σ = .next τ →
    State.Only (Parts.shared ++ [Part.boot, Part.LNK_HDR_CRC_ERR, Part.LNK_PAY_CRC_ERR, Part.CTL_UPD_STATE]) σ τ) ∧
  (∀ (port : Nat) (packet : List Byte), exec (.stageQueryPacket port packet) σ = .next τ →
    State.Only (Parts.shared ++ [Part.link, Part.LNK_HDR_CRC_ERR, Part.LNK_PAY_CRC_ERR]) σ τ) ∧
  (∀ (readback : Bool), exec (.stageProgramDone readback) σ = .next τ →
    State.Only (Parts.shared ++ [Part.link, Part.boot, Part.CTL_UPD_STATE]) σ τ) ∧
  (∀ (ring index : Nat), exec (.wallRestart ring index) σ = .next τ →
    State.Only (Parts.shared ++ [Part.boot]) σ τ) ∧
  (exec .activationCopy σ = .next τ →
    State.Only ([Part.boot, Part.CTL_UPD_STATE, Part.CTL_UPD_PROGRESS]) σ τ) ∧
  (∀ (sector : Nat) (same : Bool), exec (.activationSectorDone sector same) σ = .next τ →
    State.Only (Parts.shared ++ [Part.boot, Part.CTL_BOOT, Part.CTL_UPD_STATE, Part.CTL_UPD_PROGRESS, Part.CTL_OTP_ROLLBACK]) σ τ) ∧
  (∀ (ring index : Nat), exec (.attestLocal ring index) σ = .next τ →
    State.Only (Parts.shared ++ [Part.boot, Part.CTL_ATT_STAT]) σ τ) ∧
  (∀ (ring index : Nat), exec (.attestTile ring index) σ = .next τ →
    State.Only (Parts.shared ++ [Part.link, Part.boot]) σ τ) ∧
  (exec .attestReportDone σ = .next τ →
    State.Only (Parts.shared ++ [Part.boot, Part.XLT_DMA_ACTIVE, Part.CTL_ATT_STAT, Part.CTL_ATT_REPORT]) σ τ)

/-- Frame of the tick, marker, enumeration and delay commands: what each command leaves alone. `Parts.shared` are the parts that an event, a completion or an access to memory may touch. -/
def Obligations.TickFrame : Prop :=
  ∀ σ τ : State,
  (∀ (t : Nat), exec (.referenceEdge t) σ = .next τ →
    State.Only (Parts.shared ++ [Part.tick, Part.now, Part.TCK_STATE, Part.TCK_REF_PERIOD, Part.TCK_GLITCH_COUNT]) σ τ) ∧
  (exec .edgeMissing σ = .next τ →
    State.Only ([Part.tick, Part.TCK_STATE, Part.TCK_MISS_COUNT]) σ τ) ∧
  (∀ (umberLow : Bool), exec (.tick umberLow) σ = .next τ →
    State.Only (Parts.shared ++ [Part.tick, Part.link, Part.tiles, Part.chans, Part.host, Part.plan, Part.boot, Part.therm,
      Part.pairUnit, Part.video, Part.lamp, Part.wall, Part.audio, Part.meter, Part.jtag, Part.latches, Part.power, Part.fresh, Part.now,
      Part.anyReg]) σ τ) ∧
  (exec .repeatBoundary σ = .next τ →
    State.Only (Parts.shared ++ [Part.tick, Part.now, Part.TCK_STATE, Part.TCK_REPEAT_COUNT, Part.TCK_SLOTS]) σ τ) ∧
  (∀ (port offset : Nat), exec (.tickMarkerSend port offset) σ = .next τ →
    State.Only (Parts.shared ++ [Part.tick, Part.video, Part.TCK_STATE, Part.TCK_SLOT_STAT, Part.TCK_CUT_COUNT, Part.TCK_SLOTS,
      Part.ENC_CELL_STAT, Part.DEC_CELL_STAT, Part.LMP_CELL_STAT]) σ τ) ∧
  (∀ (port payload t : Nat), exec (.tickMarkerReceived port payload t) σ = .next τ →
    State.Only (Parts.shared ++ [Part.tick, Part.pairUnit, Part.now, Part.TCK_STATE, Part.TCK_MARKER_ERR, Part.LNK_STATE, Part.LNK_CW_ERR]) σ τ) ∧
  (∀ (port : Nat), exec (.markerMissing port) σ = .next τ →
    State.Only (Parts.shared ++ [Part.tick, Part.pairUnit, Part.TCK_STATE, Part.TCK_MARKER_ERR]) σ τ) ∧
  (∀ (port t : Nat), exec (.enumSend port t) σ = .next τ →
    State.Only ([Part.link, Part.out, Part.now]) σ τ) ∧
  (∀ (port payload : Nat), exec (.enumReceived port payload) σ = .next τ →
    State.Only (Parts.shared ++ [Part.tick, Part.link, Part.CTL_TILE_ADDR, Part.TCK_COUNT_LO, Part.TCK_COUNT_HI, Part.LNK_CW_ERR,
      Part.AUD_PORT_CFG, Part.AUD_MASK, Part.AUD_MASK_SHADOW, Part.CTL_WDOG]) σ τ) ∧
  (∀ (port position t1 : Nat), exec (.delayProbe port position t1) σ = .next τ →
    State.Only (Parts.shared ++ [Part.tick, Part.video, Part.TCK_STATE, Part.TCK_SLOT_STAT, Part.TCK_CUT_COUNT, Part.TCK_SLOTS,
      Part.ENC_CELL_STAT, Part.DEC_CELL_STAT, Part.LMP_CELL_STAT]) σ τ) ∧
  (∀ (port payload t2 t3 : Nat), exec (.probeReceived port payload t2 t3) σ = .next τ →
    State.Only (Parts.shared ++ [Part.link, Part.LNK_CW_ERR]) σ τ) ∧
  (∀ (port : Nat) (cell : List Byte) (t4 : Nat), exec (.probeEchoReceived port cell t4) σ = .next τ →
    State.Only (Parts.shared ++ [Part.tick, Part.link, Part.pairUnit, Part.audio, Part.TCK_END_DELAY, Part.TCK_HOP_DELAY,
      Part.LNK_CELL_DROP, Part.AUD_PORT_STAT, Part.AUD_RATE, Part.AUD_RATIO, Part.AUD_CLOCK_LOSS, Part.AUD_RELOCKS]) σ τ) ∧
  (∀ (port : Nat) (packet : List Byte), exec (.delayAssignReceived port packet) σ = .next τ →
    State.Only (Parts.shared ++ [Part.tick, Part.TCK_DELAY_A, Part.TCK_DELAY_B, Part.LNK_HDR_CRC_ERR, Part.LNK_PAY_CRC_ERR,
      Part.PAIR_HOP_DELAY, Part.CTL_WDOG]) σ τ) ∧
  (∀ (region slot aligns : Nat), exec (.transmitWindow region slot aligns) σ = .next τ →
    State.Only (Parts.shared ++ [Part.tick, Part.link, Part.boot, Part.pairUnit, Part.video, Part.audio, Part.TCK_STATE,
      Part.TCK_SLOT_STAT, Part.TCK_CUT_COUNT, Part.TCK_SLOTS, Part.ENC_CELL_STAT, Part.DEC_CELL_STAT, Part.LMP_CELL_STAT]) σ τ) ∧
  (∀ (region slot fin : Nat), exec (.elasticSlotComplete region slot fin) σ = .next τ →
    State.Only (Parts.shared ++ [Part.tick, Part.TCK_STATE, Part.TCK_SLOT_STAT, Part.TCK_OVERRUN_COUNT, Part.TCK_SLOTS,
      Part.ENC_CELL_STAT, Part.DEC_CELL_STAT, Part.LMP_CELL_STAT]) σ τ)

/-- Frame of composition, encoding, decoding and cascaded inputs: what each command leaves alone. `Parts.shared` are the parts that an event, a completion or an access to memory may touch. -/
def Obligations.PictureSlotFrame : Prop :=
  ∀ σ τ : State,
  (∀ (region slot : Nat) (late : Bool) (mem : HostData) (inFlight : Nat), exec (.fetchComposeSlot region slot late mem inFlight) σ = .next τ →
    State.Only (Parts.shared ++ [Part.tick, Part.video, Part.TCK_STATE, Part.TCK_SLOT_STAT, Part.TCK_CUT_COUNT, Part.TCK_SLOTS,
      Part.XLT_DMA_ACTIVE, Part.DMC_CH_ECC_UNCORR, Part.CMP_FALLBACK_COUNT, Part.CMP_CLAMP_COUNT, Part.CMP_CAPTURE_ROWS,
      Part.CMP_CAPTURE_SKIPPED, Part.CMP_ROW_STAT, Part.CMP_ROWS_COMPOSED, Part.CMP_BLOCKS_DROPPED, Part.CMP_BLOCKS_HELD,
      Part.CMP_HANDOFF_WAITS, Part.CMP_SRC_PIXELS, Part.ENC_CELL_STAT, Part.DEC_CELL_STAT, Part.LNK_HDR_CRC_ERR, Part.LNK_PAY_CRC_ERR,
      Part.LMP_CELL_STAT]) σ τ) ∧
  (∀ (region : Nat), exec (.handoffRowFree region) σ = .next τ →
    State.Only (Parts.shared ++ [Part.video, Part.XLT_DMA_ACTIVE, Part.DMC_CH_ECC_UNCORR, Part.CMP_FALLBACK_COUNT, Part.CMP_CLAMP_COUNT,
      Part.CMP_CAPTURE_ROWS, Part.CMP_CAPTURE_SKIPPED, Part.CMP_ROW_STAT, Part.CMP_ROWS_COMPOSED, Part.CMP_BLOCKS_DROPPED,
      Part.CMP_BLOCKS_HELD, Part.CMP_HANDOFF_WAITS, Part.CMP_SRC_PIXELS, Part.LNK_HDR_CRC_ERR, Part.LNK_PAY_CRC_ERR]) σ τ) ∧
  (∀ (region slot : Nat) (late : Bool), exec (.encodeSlot region slot late) σ = .next τ →
    State.Only (Parts.shared ++ [Part.tick, Part.link, Part.pairUnit, Part.video, Part.TCK_STATE, Part.TCK_SLOT_STAT, Part.TCK_CUT_COUNT,
      Part.TCK_SLOTS, Part.ENC_CELL_STAT, Part.ENC_ROWS, Part.ENC_BITS_LO, Part.ENC_BITS_HI, Part.ENC_BLK_SKIP, Part.ENC_BLK_LTSKIP,
      Part.ENC_BLK_DCOPY, Part.ENC_BLK_INTRA, Part.ENC_BLK_RAW, Part.ENC_BLK_FLOOR, Part.ENC_OCHRE_ROWS, Part.ENC_KEY_ROWS,
      Part.ENC_HOLD_SEGS, Part.ENC_ROWS_LOSSLESS, Part.DEC_CELL_STAT, Part.DEC_SEG_KEPT, Part.DEC_SEG_DISCARDED, Part.DEC_SEG_ERRORS,
      Part.DEC_SLATE_ROWS, Part.DEC_HOLDS, Part.DEC_LAST_ERR, Part.DEC_LAST_HOLD, Part.LNK_HDR_CRC_ERR, Part.LNK_PAY_CRC_ERR,
      Part.PAIR_STATE, Part.PAIR_COMPARED_LO, Part.PAIR_COMPARED_HI, Part.PAIR_MISMATCHED, Part.PAIR_EXCUSED, Part.PAIR_DECISIONS,
      Part.PAIR_LAST_MISMATCH, Part.LMP_CELL_STAT, Part.CTL_ALERT]) σ τ) ∧
  (∀ (port : Nat) (packet : List Byte) (aborted : Bool), exec (.segmentReceived port packet aborted) σ = .next τ →
    State.Only (Parts.shared ++ [Part.link, Part.pairUnit, Part.video, Part.TCK_STATE, Part.DEC_SEG_KEPT, Part.DEC_SEG_DISCARDED,
      Part.DEC_SEG_ERRORS, Part.DEC_SLATE_ROWS, Part.DEC_HOLDS, Part.DEC_LAST_ERR, Part.DEC_LAST_HOLD, Part.LNK_HDR_CRC_ERR,
      Part.LNK_PAY_CRC_ERR, Part.PAIR_STATE, Part.PAIR_COMPARED_LO, Part.PAIR_COMPARED_HI, Part.PAIR_MISMATCHED, Part.PAIR_EXCUSED,
      Part.PAIR_DECISIONS, Part.PAIR_LAST_MISMATCH, Part.CTL_ALERT]) σ τ) ∧
  (∀ (region slot : Nat), exec (.decodeSlot region slot) σ = .next τ →
    State.Only (Parts.shared ++ [Part.tick, Part.link, Part.pairUnit, Part.video, Part.TCK_STATE, Part.TCK_SLOT_STAT, Part.TCK_CUT_COUNT,
      Part.TCK_SLOTS, Part.ENC_CELL_STAT, Part.DEC_CELL_STAT, Part.DEC_ROWS, Part.DEC_SEG_ERRORS, Part.DEC_SLATE_ROWS,
      Part.DEC_REF_MISSING, Part.DEC_LAST_ERR, Part.LNK_HDR_CRC_ERR, Part.LNK_PAY_CRC_ERR, Part.LMP_CELL_STAT]) σ τ) ∧
  (∀ (region slot : Nat), exec (.cascadedInputDecode region slot) σ = .next τ →
    State.Only (Parts.shared ++ [Part.tick, Part.link, Part.pairUnit, Part.video, Part.TCK_STATE, Part.TCK_SLOT_STAT, Part.TCK_CUT_COUNT,
      Part.TCK_SLOTS, Part.ENC_CELL_STAT, Part.DEC_CELL_STAT, Part.DEC_ROWS, Part.DEC_SEG_ERRORS, Part.DEC_SLATE_ROWS,
      Part.DEC_REF_MISSING, Part.DEC_LAST_ERR, Part.LNK_HDR_CRC_ERR, Part.LNK_PAY_CRC_ERR, Part.LMP_CELL_STAT]) σ τ) ∧
  (∀ (port t : Nat), exec (.cascadeFrameComplete port t) σ = .next τ →
    State.Only ([Part.video, Part.now]) σ τ) ∧
  (∀ (region slot row : Nat) (late : Bool), exec (.rowCutoff region slot row late) σ = .next τ →
    State.Only (Parts.shared ++ [Part.link, Part.pairUnit, Part.video, Part.DEC_LATE_ROWS, Part.DEC_SLATE_ROWS, Part.LNK_HDR_CRC_ERR,
      Part.LNK_PAY_CRC_ERR]) σ τ) ∧
  (∀ (region slot : Nat) (mem : HostMem), exec (.hostCaptureWrite region slot mem) σ = .next τ →
    State.Only (Parts.shared ++ [Part.tick, Part.video, Part.TCK_STATE, Part.TCK_SLOT_STAT, Part.TCK_CUT_COUNT, Part.TCK_SLOTS,
      Part.XLT_DMA_ACTIVE, Part.CMP_ROW_STAT, Part.ENC_CELL_STAT, Part.DEC_CELL_STAT, Part.LMP_CELL_STAT]) σ τ) ∧
  (∀ (ring index : Nat), exec (.captureBuffer ring index) σ = .next τ →
    State.Only (Parts.shared ++ [Part.video, Part.CMP_ROW_STAT]) σ τ) ∧
  (∀ (port : Nat) (cell : List Byte) (t : Nat), exec (.keyRequestReceived port cell t) σ = .next τ →
    State.Only (Parts.shared ++ [Part.link, Part.pairUnit, Part.video, Part.now, Part.LNK_KEYREQ_RX, Part.LNK_CELL_DROP]) σ τ)

/-- Frame of commits and fences: what each command leaves alone. `Parts.shared` are the parts that an event, a completion or an access to memory may touch. -/
def Obligations.CommitFrame : Prop :=
  ∀ σ τ : State,
  (exec .compileDeadline σ = .next τ →
    State.Only (Parts.shared ++ [Part.tick, Part.pairUnit, Part.video, Part.TCK_STATE, Part.TCK_SLOT_STAT, Part.TCK_CUT_COUNT,
      Part.TCK_SLOTS, Part.CMP_COMMIT_REJECTED, Part.CMP_COMMIT_TIMEOUTS, Part.CMP_COMMIT_WAITS, Part.CMP_LAST_REJECT,
      Part.CMP_LAYER_STATE, Part.ENC_CELL_STAT, Part.DEC_CELL_STAT, Part.LMP_CELL_STAT]) σ τ) ∧
  (∀ (key : Nat), exec (.fenceWordRead key) σ = .next τ →
    State.Only (Parts.shared ++ [Part.video]) σ τ) ∧
  (∀ (key : Nat) (result : ReadResult), exec (.fenceReadComplete key result) σ = .next τ →
    State.Only (Parts.shared ++ [Part.host, Part.video, Part.XLT_DMA_ACTIVE, Part.DMC_CH_ECC_UNCORR, Part.CMP_FALLBACK_COUNT,
      Part.CMP_CLAMP_COUNT, Part.CMP_CAPTURE_ROWS, Part.CMP_CAPTURE_SKIPPED, Part.CMP_ROW_STAT, Part.CMP_ROWS_COMPOSED,
      Part.CMP_BLOCKS_DROPPED, Part.CMP_BLOCKS_HELD, Part.CMP_HANDOFF_WAITS, Part.CMP_SRC_PIXELS, Part.LNK_HDR_CRC_ERR,
      Part.LNK_PAY_CRC_ERR]) σ τ) ∧
  (∀ (ring index : Nat), exec (.releaseDue ring index) σ = .next τ →
    State.Only (Parts.shared ++ [Part.video]) σ τ) ∧
  (∀ (ring index : Nat), exec (.commit ring index) σ = .next τ →
    State.Only (Parts.shared ++ [Part.video, Part.CMP_COMMIT_REJECTED, Part.CMP_LAST_REJECT]) σ τ) ∧
  (∀ (ring index : Nat) (result : ReadResult), exec (.commitDescriptorReadDone ring index result) σ = .next τ →
    State.Only (Parts.shared ++ [Part.host, Part.video, Part.XLT_DMA_ACTIVE, Part.DMC_CH_ECC_UNCORR, Part.CMP_FALLBACK_COUNT,
      Part.CMP_CLAMP_COUNT, Part.CMP_CAPTURE_ROWS, Part.CMP_CAPTURE_SKIPPED, Part.CMP_ROW_STAT, Part.CMP_ROWS_COMPOSED,
      Part.CMP_BLOCKS_DROPPED, Part.CMP_BLOCKS_HELD, Part.CMP_HANDOFF_WAITS, Part.CMP_SRC_PIXELS, Part.LNK_HDR_CRC_ERR,
      Part.LNK_PAY_CRC_ERR]) σ τ) ∧
  (∀ (ring index : Nat), exec (.fenceSignal ring index) σ = .next τ →
    State.Only (Parts.shared ++ [Part.CMP_FENCE_LO, Part.CMP_FENCE_HI]) σ τ)

/-- Frame of the lamp pipeline, drivers, boards and the ceiling: what each command leaves alone. `Parts.shared` are the parts that an event, a completion or an access to memory may touch. -/
def Obligations.LampFrame : Prop :=
  ∀ σ τ : State,
  (∀ (region slot : Nat) (late : Bool), exec (.lampPipelineSlot region slot late) σ = .next τ →
    State.Only (Parts.shared ++ [Part.tick, Part.therm, Part.video, Part.lamp, Part.audio, Part.TCK_STATE, Part.TCK_SLOT_STAT,
      Part.TCK_CUT_COUNT, Part.TCK_SLOTS, Part.ENC_CELL_STAT, Part.DEC_CELL_STAT, Part.LMP_LIMITED_PIXELS, Part.LMP_SATURATED,
      Part.LMP_TAKEBACK_SHORT, Part.LMP_GREY_APPLIED, Part.LMP_CELL_STAT, Part.LMP_ROWS, Part.LMP_ROWS_FAILED, Part.LBD_FLOG_HEAD,
      Part.LBD_UNVERIFIED, Part.LBD_BOARD_FAULTS, Part.LBD_BOARD_UNVER, Part.LBD_FLOG_CHAN, Part.LBD_FLOG_INFO, Part.LBD_FLOG_TICK,
      Part.LBD_GREY_DEFERRED, Part.AUD_PORT_STAT, Part.AUD_RATE, Part.AUD_RATIO, Part.AUD_CLOCK_LOSS, Part.AUD_RELOCKS]) σ τ) ∧
  (∀ (region slot : Nat) (late : Bool), exec (.wearSampleSlot region slot late) σ = .next τ →
    State.Only (Parts.shared ++ [Part.tick, Part.link, Part.video, Part.lamp, Part.TCK_STATE, Part.TCK_SLOT_STAT, Part.TCK_CUT_COUNT,
      Part.TCK_SLOTS, Part.ENC_CELL_STAT, Part.DEC_CELL_STAT, Part.LMP_HEADROOM, Part.LMP_WEAR_CYCLES, Part.LMP_SAMPLES_LOST,
      Part.LMP_GAIN_CAPPED, Part.LMP_CELL_STAT, Part.LBD_BOARD_STAT]) σ τ) ∧
  (∀ (region slot : Nat) (late : Bool) (input : LoadInput), exec (.driverLoadSlot region slot late input) σ = .next τ →
    State.Only (Parts.shared ++ [Part.tick, Part.video, Part.lamp, Part.audio, Part.TCK_STATE, Part.TCK_SLOT_STAT, Part.TCK_CUT_COUNT,
      Part.TCK_SLOTS, Part.ENC_CELL_STAT, Part.DEC_CELL_STAT, Part.LMP_CELL_STAT, Part.SCN_FRAME_ADDR, Part.SCN_STAT, Part.SCN_RANGE_ERR,
      Part.DRV_GROUP_STAT, Part.DRV_LOADS, Part.DRV_FETCH_FAIL, Part.DRV_RB_ERR, Part.DRV_STATUS_READS, Part.LBD_FLOG_HEAD,
      Part.LBD_UNVERIFIED, Part.LBD_BOARD_FAULTS, Part.LBD_BOARD_UNVER, Part.LBD_FLOG_CHAN, Part.LBD_FLOG_INFO, Part.LBD_FLOG_TICK,
      Part.LBD_READOUTS_DISCARDED, Part.AUD_PORT_STAT, Part.AUD_RATE, Part.AUD_RATIO, Part.AUD_CLOCK_LOSS, Part.AUD_RELOCKS]) σ τ) ∧
  (exec .broadcastSync σ = .next τ →
    State.Only (Parts.shared ++ [Part.tick, Part.link, Part.tiles, Part.chans, Part.host, Part.plan, Part.boot, Part.therm,
      Part.pairUnit, Part.video, Part.lamp, Part.wall, Part.audio, Part.meter, Part.jtag, Part.latches, Part.power, Part.fresh, Part.now,
      Part.anyReg]) σ τ) ∧
  (∀ (region : Nat) (rising : Bool), exec (.teEdge region rising) σ = .next τ →
    State.Only (Parts.shared ++ [Part.lamp, Part.audio, Part.SCN_FRAME_ADDR, Part.SCN_STAT, Part.SCN_RANGE_ERR, Part.DRV_TE_STAT,
      Part.DRV_TE_OVERRUN, Part.DRV_GROUP_STAT, Part.DRV_LOADS, Part.DRV_FETCH_FAIL, Part.DRV_RB_ERR, Part.DRV_STATUS_READS,
      Part.LBD_FLOG_HEAD, Part.LBD_UNVERIFIED, Part.LBD_BOARD_FAULTS, Part.LBD_BOARD_UNVER, Part.LBD_FLOG_CHAN, Part.LBD_FLOG_INFO,
      Part.LBD_FLOG_TICK, Part.LBD_READOUTS_DISCARDED, Part.AUD_PORT_STAT, Part.AUD_RATE, Part.AUD_RATIO, Part.AUD_CLOCK_LOSS,
      Part.AUD_RELOCKS]) σ τ) ∧
  (∀ (group : Nat), exec (.teTimeout group) σ = .next τ →
    State.Only (Parts.shared ++ [Part.lamp, Part.audio, Part.SCN_FRAME_ADDR, Part.SCN_STAT, Part.SCN_RANGE_ERR, Part.DRV_TE_MISSING,
      Part.DRV_GROUP_STAT, Part.DRV_LOADS, Part.DRV_FETCH_FAIL, Part.DRV_RB_ERR, Part.DRV_STATUS_READS, Part.LBD_FLOG_HEAD,
      Part.LBD_UNVERIFIED, Part.LBD_BOARD_FAULTS, Part.LBD_BOARD_UNVER, Part.LBD_FLOG_CHAN, Part.LBD_FLOG_INFO, Part.LBD_FLOG_TICK,
      Part.LBD_READOUTS_DISCARDED, Part.AUD_PORT_STAT, Part.AUD_RATE, Part.AUD_RATIO, Part.AUD_CLOCK_LOSS, Part.AUD_RELOCKS]) σ τ) ∧
  (∀ (region slot : Nat), exec (.greyPulseWindow region slot) σ = .next τ →
    State.Only (Parts.shared ++ [Part.tick, Part.video, Part.lamp, Part.TCK_STATE, Part.TCK_SLOT_STAT, Part.TCK_CUT_COUNT,
      Part.TCK_SLOTS, Part.ENC_CELL_STAT, Part.DEC_CELL_STAT, Part.LMP_CELL_STAT, Part.LBD_GREY_PULSES]) σ τ) ∧
  (exec .ceilingCheck σ = .next τ →
    State.Only (Parts.shared ++ [Part.link, Part.boot, Part.pairUnit, Part.wall, Part.THM_QUEUE, Part.THM_WRITES_DEFERRED]) σ τ) ∧
  (∀ (port : Nat) (packet : List Byte), exec (.ceilingReceived port packet) σ = .next τ →
    State.Only (Parts.shared ++ [Part.boot, Part.wall, Part.LNK_HDR_CRC_ERR, Part.LNK_PAY_CRC_ERR, Part.THM_QUEUE,
      Part.THM_WRITES_DEFERRED]) σ τ) ∧
  (∀ (updates : List (Nat × List Byte)), exec (.blendRequest updates) σ = .next τ →
    State.Only (Parts.shared ++ [Part.lamp, Part.LMP_SET, Part.LMP_UNCORRECTABLE]) σ τ) ∧
  (∀ (board value : Nat), exec (.sensorRead board value) σ = .next τ →
    State.Only (Parts.shared ++ [Part.therm, Part.lamp, Part.LBD_BOARD_STAT, Part.LBD_BOARD_TEMP]) σ τ) ∧
  (∀ (bus slot : Nat) (header : List Byte), exec (.presencePoll bus slot header) σ = .next τ →
    State.Only (Parts.shared ++ [Part.therm, Part.lamp, Part.LNK_HDR_CRC_ERR, Part.LNK_PAY_CRC_ERR, Part.LBD_UNVERIFIED,
      Part.LBD_BOARD_STAT, Part.LBD_BOARD_FAULTS, Part.LBD_BOARD_UNVER, Part.LBD_BUS_STAT]) σ τ) ∧
  (∀ (board : Nat) (reads : Option (List (Nat × List Byte))), exec (.attachReadsDone board reads) σ = .next τ →
    State.Only (Parts.shared ++ [Part.boot, Part.lamp, Part.LNK_HDR_CRC_ERR, Part.LNK_PAY_CRC_ERR, Part.LMP_UNCORRECTABLE,
      Part.LBD_SIG_FAIL, Part.LBD_UNVERIFIED, Part.LBD_BOARD_STAT, Part.LBD_BOARD_FAULTS, Part.LBD_BOARD_UNVER, Part.LBD_BOARD_SERIAL,
      Part.LBD_BUS_STAT, Part.LBD_BUS_ERR, Part.THM_QUEUE, Part.THM_WRITES_DEFERRED]) σ τ) ∧
  (∀ (board : Nat) (path : RegPath), exec (.boardRelease board path) σ = .next τ →
    State.Only (Parts.shared ++ [Part.lamp, Part.LBD_TEST, Part.LBD_BUS_STAT]) σ τ) ∧
  (∀ (board : Nat) (path : RegPath), exec (.boardRetest board path) σ = .next τ →
    State.Only (Parts.shared ++ [Part.lamp, Part.LBD_TEST, Part.LBD_FLOG_HEAD, Part.LBD_UNVERIFIED, Part.LBD_BOARD_FAULTS,
      Part.LBD_BOARD_UNVER, Part.LBD_FLOG_CHAN, Part.LBD_FLOG_INFO, Part.LBD_FLOG_TICK]) σ τ) ∧
  (exec .wearStoreTimer σ = .next τ →
    State.Only (Parts.shared ++ [Part.lamp, Part.LBD_BUS_STAT]) σ τ) ∧
  (∀ (bus : Nat) (ok : Bool), exec (.chunkWriteDone bus ok) σ = .next τ →
    State.Only (Parts.shared ++ [Part.lamp, Part.LBD_WEAR_WRITES, Part.LBD_BUS_STAT, Part.LBD_BUS_ERR]) σ τ) ∧
  (∀ (bus : Nat), exec (.storePassDone bus) σ = .next τ →
    State.Only (Parts.shared ++ [Part.boot, Part.lamp, Part.LBD_BOARD_STAT, Part.LBD_BUS_STAT, Part.THM_QUEUE, Part.THM_WRITES_DEFERRED]) σ τ) ∧
  (∀ (board : Nat), exec (.faultCopyWrite board) σ = .next τ →
    State.Only (Parts.shared ++ [Part.lamp]) σ τ) ∧
  (exec .unverifiedMinute σ = .next τ →
    State.Only ([Part.lamp, Part.LBD_UNVERIFIED, Part.LBD_BOARD_FAULTS, Part.LBD_BOARD_UNVER]) σ τ) ∧
  (exec .persistHourly σ = .next τ →
    State.Only ([Part.boot, Part.wall, Part.THM_QUEUE, Part.THM_WRITES_DEFERRED]) σ τ)

/-- Frame of the audio commands: what each command leaves alone. `Parts.shared` are the parts that an event, a completion or an access to memory may touch. -/
def Obligations.AudioFrame : Prop :=
  ∀ σ τ : State,
  (∀ (region slot target aligns : Nat) (mem : HostData) (inFlight : Nat), exec (.audioWindow region slot target aligns mem inFlight) σ = .next τ →
    State.Only (Parts.shared ++ [Part.tick, Part.video, Part.audio, Part.TCK_STATE, Part.TCK_SLOT_STAT, Part.TCK_CUT_COUNT,
      Part.TCK_SLOTS, Part.XLT_DMA_ACTIVE, Part.DMC_CH_ECC_UNCORR, Part.ENC_CELL_STAT, Part.DEC_CELL_STAT, Part.LMP_CELL_STAT,
      Part.AUD_UNDERRUN]) σ τ) ∧
  (∀ (ring index : Nat), exec (.play ring index) σ = .next τ →
    State.Only (Parts.shared ++ [Part.audio]) σ τ) ∧
  (∀ (ring index : Nat), exec (.audioCapture ring index) σ = .next τ →
    State.Only (Parts.shared ++ [Part.audio]) σ τ) ∧
  (∀ (ring index : Nat), exec (.mask ring index) σ = .next τ →
    State.Only (Parts.shared ++ [Part.link, Part.audio, Part.AUD_MASK_SHADOW]) σ τ) ∧
  (∀ (ring index : Nat), exec (.audioStart ring index) σ = .next τ →
    State.Only (Parts.shared ++ [Part.audio]) σ τ) ∧
  (∀ (ring index : Nat), exec (.audioStop ring index) σ = .next τ →
    State.Only (Parts.shared ++ [Part.audio]) σ τ) ∧
  (∀ (port : Nat) (packet : List Byte), exec (.slotMaskReceived port packet) σ = .next τ →
    State.Only (Parts.shared ++ [Part.audio, Part.LNK_HDR_CRC_ERR, Part.LNK_PAY_CRC_ERR, Part.AUD_MASK_LATE, Part.AUD_MASK_SHADOW]) σ τ) ∧
  (∀ (port : Nat) (packet : List Byte), exec (.audioPacketReceived port packet) σ = .next τ →
    State.Only (Parts.shared ++ [Part.audio, Part.LNK_HDR_CRC_ERR, Part.LNK_PAY_CRC_ERR]) σ τ) ∧
  (∀ (tick : Nat), exec (.audioPacketDeadline tick) σ = .next τ →
    State.Only (Parts.shared ++ [Part.audio, Part.AUD_MISSING]) σ τ) ∧
  (∀ (port t bclks : Nat) (slots : List Nat) (overflow underflow : Bool), exec (.audioFrame port t bclks slots overflow underflow) σ = .next τ →
    State.Only (Parts.shared ++ [Part.audio, Part.fresh, Part.now, Part.XLT_DMA_ACTIVE, Part.AUD_OVERRUN, Part.AUD_PORT_STAT,
      Part.AUD_RATE, Part.AUD_RATIO, Part.AUD_FRAME_ERR, Part.AUD_CLOCK_LOSS, Part.AUD_RELOCKS]) σ τ) ∧
  (∀ (port : Nat), exec (.bclkLoss port) σ = .next τ →
    State.Only (Parts.shared ++ [Part.audio, Part.AUD_PORT_STAT, Part.AUD_CLOCK_LOSS]) σ τ) ∧
  (∀ (port : Nat), exec (.bclkReturn port) σ = .next τ →
    State.Only ([Part.AUD_PORT_STAT]) σ τ) ∧
  (∀ (port : Nat), exec (.audioPortLocked port) σ = .next τ →
    State.Only (Parts.shared ++ [Part.audio, Part.AUD_PORT_STAT]) σ τ) ∧
  (∀ (port : Nat), exec (.audioFadeDone port) σ = .next τ →
    State.Only ([Part.AUD_PORT_STAT]) σ τ)

/-- Frame of the metering domain and its calibration commands: what each command leaves alone. `Parts.shared` are the parts that an event, a completion or an access to memory may touch. -/
def Obligations.MeteringFrame : Prop :=
  ∀ σ τ : State,
  (∀ (calEn : Bool) (temp : Int), exec (.meterPowerOn calEn temp) σ = .next τ →
    State.Only (Parts.shared ++ [Part.boot, Part.pairUnit, Part.lamp, Part.meter, Part.power, Part.anyReg]) σ τ) ∧
  (∀ (mclk : Nat) (samples : List (List (Int × Int))) (temp : Int), exec (.meterInterval mclk samples temp) σ = .next τ →
    State.Only (Parts.shared ++ [Part.boot, Part.therm, Part.meter, Part.MTR_STATE, Part.MTR_HEALTH, Part.MTR_INTERVAL_LO,
      Part.MTR_INTERVAL_HI, Part.MTR_MCLK_MEAS, Part.MTR_FW_VERSION, Part.MTR_LOG_COUNT, Part.MTR_LOG_DROPPED, Part.MTR_FW_DIGEST,
      Part.MTR_CAL_STAT, Part.MTR_LOG, Part.MTR_ENERGY_LO, Part.MTR_ENERGY_HI, Part.MTR_POWER, Part.MTR_VRMS, Part.MTR_IRMS,
      Part.MTR_POINT_STAT]) σ τ) ∧
  (∀ (point : Nat), exec (.bitstreamStuck point) σ = .next τ →
    State.Only (Parts.shared ++ [Part.meter, Part.MTR_POINT_STAT]) σ τ) ∧
  (exec .energySave σ = .next τ →
    State.Only (Parts.shared ++ [Part.boot, Part.meter]) σ τ) ∧
  (∀ (path : RegPath), exec (.recordRequestRead path) σ = .next τ →
    State.Only ([Part.meter, Part.latches, Part.out, Part.fresh, Part.MTR_REC_REQ]) σ τ) ∧
  (exec .recordSigned σ = .next τ →
    State.Only (Parts.shared ++ [Part.meter, Part.MTR_REC_REQ, Part.MTR_REC_STAT, Part.MTR_REC]) σ τ) ∧
  (exec .shutdownNotice σ = .next τ →
    State.Only (Parts.shared ++ [Part.boot, Part.meter]) σ τ) ∧
  (∀ (verified : Bool), exec (.meterActivationNotice verified) σ = .next τ →
    State.Only (Parts.shared ++ [Part.boot, Part.meter, Part.MTR_HEALTH, Part.MTR_LOG_COUNT, Part.MTR_LOG_DROPPED, Part.MTR_LOG,
      Part.CTL_BOOT, Part.CTL_UPD_STATE, Part.CTL_OTP_ROLLBACK]) σ τ) ∧
  (exec .calEnAssert σ = .next τ →
    State.Only (Parts.shared ++ [Part.boot, Part.meter, Part.MTR_STATE, Part.MTR_HEALTH, Part.MTR_LOG_COUNT, Part.MTR_SEAL_BREAKS,
      Part.MTR_LOG]) σ τ) ∧
  (exec .calEnRelease σ = .next τ →
    State.Only (Parts.shared ++ [Part.boot, Part.meter, Part.MTR_STATE, Part.MTR_HEALTH, Part.MTR_LOG_COUNT, Part.MTR_LOG_DROPPED,
      Part.MTR_CAL_STAT, Part.MTR_LOG]) σ τ) ∧
  (∀ (path : RegPath), exec (.calStart path) σ = .next τ →
    State.Only (Parts.shared ++ [Part.meter, Part.MTR_STATE, Part.MTR_CAL_CMD, Part.MTR_CAL_STAT]) σ τ) ∧
  (∀ (path : RegPath), exec (.calZero path) σ = .next τ →
    State.Only (Parts.shared ++ [Part.meter, Part.MTR_CAL_CMD, Part.MTR_CAL_STAT]) σ τ) ∧
  (∀ (path : RegPath), exec (.calVref path) σ = .next τ →
    State.Only (Parts.shared ++ [Part.meter, Part.MTR_CAL_CMD, Part.MTR_CAL_STAT]) σ τ) ∧
  (∀ (path : RegPath), exec (.calIref path) σ = .next τ →
    State.Only (Parts.shared ++ [Part.meter, Part.MTR_CAL_CMD, Part.MTR_CAL_STAT]) σ τ) ∧
  (∀ (path : RegPath), exec (.calDelay path) σ = .next τ →
    State.Only (Parts.shared ++ [Part.meter, Part.MTR_CAL_CMD, Part.MTR_CAL_STAT]) σ τ) ∧
  (∀ (path : RegPath), exec (.calCommit path) σ = .next τ →
    State.Only (Parts.shared ++ [Part.boot, Part.meter, Part.MTR_HEALTH, Part.MTR_LOG_COUNT, Part.MTR_CAL_CMD, Part.MTR_CAL_STAT,
      Part.MTR_LOG, Part.MTR_POINT_STAT]) σ τ) ∧
  (∀ (path : RegPath), exec (.calAbort path) σ = .next τ →
    State.Only (Parts.shared ++ [Part.boot, Part.meter, Part.MTR_STATE, Part.MTR_HEALTH, Part.MTR_LOG_COUNT, Part.MTR_LOG_DROPPED,
      Part.MTR_CAL_CMD, Part.MTR_CAL_STAT, Part.MTR_LOG]) σ τ) ∧
  (∀ (path : RegPath), exec (.calSeal path) σ = .next τ →
    State.Only (Parts.shared ++ [Part.boot, Part.meter, Part.MTR_HEALTH, Part.MTR_LOG_COUNT, Part.MTR_CAL_CMD, Part.MTR_CAL_STAT,
      Part.MTR_LOG]) σ τ) ∧
  (∀ (path : RegPath), exec (.calNone path) σ = .next τ →
    State.Only (Parts.shared ++ [Part.MTR_CAL_CMD, Part.MTR_CAL_STAT]) σ τ) ∧
  (∀ (cmd : Nat) (path : RegPath), exec (.calBadCmd cmd path) σ = .next τ →
    State.Only (Parts.shared ++ [Part.MTR_CAL_CMD, Part.MTR_CAL_STAT]) σ τ) ∧
  (exec .meterPowerLoss σ = .next τ →
    State.Only ([Part.meter, Part.power, Part.anyReg]) σ τ)

/-- Frame of the thermal model, shutdown, admission and wall commands: what each command leaves alone. `Parts.shared` are the parts that an event, a completion or an access to memory may touch. -/
def Obligations.ThermalWallFrame : Prop :=
  ∀ σ τ : State,
  (exec .wallThrottleCheck σ = .next τ →
    State.Only ([Part.link, Part.therm, Part.pairUnit, Part.out]) σ τ) ∧
  (∀ (port : Nat) (packet : List Byte), exec (.throttleReceived port packet) σ = .next τ →
    State.Only (Parts.shared ++ [Part.therm, Part.LNK_HDR_CRC_ERR, Part.LNK_PAY_CRC_ERR]) σ τ) ∧
  (exec .wallCmdResend σ = .next τ →
    State.Only ([Part.link, Part.pairUnit, Part.out]) σ τ) ∧
  (exec .admissionPoll σ = .next τ →
    State.Only ([Part.link, Part.tiles]) σ τ) ∧
  (∀ (port : Nat) (packet : List Byte), exec (.admitReceived port packet) σ = .next τ →
    State.Only (Parts.shared ++ [Part.boot, Part.LNK_HDR_CRC_ERR, Part.LNK_PAY_CRC_ERR]) σ τ) ∧
  (exec .nvmWriteComplete σ = .next τ →
    State.Only (Parts.shared ++ [Part.boot, Part.THM_QUEUE]) σ τ) ∧
  (∀ (d0 d1 : Int) (busy : List (List Nat)) (t : Nat), exec (.thermalModelUpdate d0 d1 busy t) σ = .next τ →
    State.Only (Parts.shared ++ [Part.chans, Part.boot, Part.therm, Part.pairUnit, Part.lamp, Part.meter, Part.fresh, Part.now,
      Part.DMC_TEMP, Part.DMC_CH_STAT, Part.DMC_CH_REFRESHES, Part.DMC_CH_FORCED, Part.LNK_HDR_CRC_ERR, Part.LNK_PAY_CRC_ERR,
      Part.LMP_LIM, Part.LBD_BUS_STAT, Part.THM_STATE, Part.THM_CAUSE, Part.THM_QUEUE, Part.THM_WRITES_DEFERRED, Part.THM_POWER_CORE,
      Part.THM_POWER_LED, Part.THM_NODE, Part.THM_DIODE, Part.THM_LAMP_T, Part.CTL_ALERT]) σ τ) ∧
  (exec .meteringStaleTimeout σ = .next τ →
    State.Only (Parts.shared ++ [Part.therm, Part.THM_STATE]) σ τ) ∧
  (exec .thermalEvaluation σ = .next τ →
    State.Only (Parts.shared ++ [Part.link, Part.boot, Part.therm, Part.pairUnit, Part.lamp, Part.meter, Part.LNK_HDR_CRC_ERR,
      Part.LNK_PAY_CRC_ERR, Part.LMP_LIM, Part.LBD_BUS_STAT, Part.THM_STATE, Part.THM_TH, Part.THM_CAUSE, Part.THM_QUEUE,
      Part.THM_STEPS_DOWN, Part.THM_STEPS_UP, Part.THM_WRITES_DEFERRED, Part.THM_LAMP_S, Part.CTL_ALERT]) σ τ) ∧
  (∀ (path : RegPath), exec (.thmTestShutdown path) σ = .next τ →
    State.Only (Parts.shared ++ [Part.boot, Part.pairUnit, Part.lamp, Part.meter, Part.LNK_HDR_CRC_ERR, Part.LNK_PAY_CRC_ERR,
      Part.LMP_LIM, Part.LBD_BUS_STAT, Part.THM_STATE, Part.THM_CAUSE, Part.THM_QUEUE, Part.THM_WRITES_DEFERRED, Part.CTL_ALERT]) σ τ) ∧
  (exec .shutdownTimeout σ = .next τ →
    State.Only (Parts.shared ++ [Part.tick, Part.link, Part.tiles, Part.chans, Part.host, Part.plan, Part.boot, Part.therm,
      Part.pairUnit, Part.video, Part.lamp, Part.wall, Part.audio, Part.meter, Part.jtag, Part.latches, Part.power, Part.fresh, Part.now,
      Part.anyReg]) σ τ) ∧
  (exec .diodeTrip σ = .next τ →
    State.Only (Parts.shared ++ [Part.tick, Part.link, Part.tiles, Part.chans, Part.host, Part.plan, Part.boot, Part.therm,
      Part.pairUnit, Part.video, Part.lamp, Part.wall, Part.audio, Part.meter, Part.jtag, Part.latches, Part.power, Part.fresh, Part.now,
      Part.anyReg]) σ τ) ∧
  (∀ (umberLow : Bool) (d0 d1 : Int) (t : Nat), exec (.thermalRestart umberLow d0 d1 t) σ = .next τ →
    State.Only (Parts.shared ++ [Part.tick, Part.link, Part.tiles, Part.chans, Part.host, Part.plan, Part.boot, Part.therm,
      Part.pairUnit, Part.video, Part.lamp, Part.wall, Part.audio, Part.meter, Part.jtag, Part.latches, Part.power, Part.fresh, Part.now,
      Part.anyReg]) σ τ)

/-- Frame of the host port and of ring control: what each command leaves alone. `Parts.shared` are the parts that an event, a completion or an access to memory may touch. -/
def Obligations.HostRingFrame : Prop :=
  ∀ σ τ : State,
  (∀ (speed width : Nat), exec (.pcieLinkUp speed width) σ = .next τ →
    State.Only (Parts.shared ++ [Part.power, Part.HRG_LINK]) σ τ) ∧
  (exec .pcieLinkDown σ = .next τ →
    State.Only (Parts.shared ++ [Part.link, Part.host, Part.boot, Part.video, Part.audio, Part.power, Part.anyReg]) σ τ) ∧
  (exec .hotReset σ = .next τ →
    State.Only (Parts.shared ++ [Part.link, Part.host, Part.boot, Part.video, Part.audio, Part.power, Part.anyReg]) σ τ) ∧
  (exec .functionLevelReset σ = .next τ →
    State.Only (Parts.shared ++ [Part.link, Part.host, Part.boot, Part.video, Part.audio, Part.anyReg]) σ τ) ∧
  (exec .d3hotEntry σ = .next τ →
    State.Only ([Part.power]) σ τ) ∧
  (exec .d3hotToD0 σ = .next τ →
    State.Only (Parts.shared ++ [Part.link, Part.host, Part.boot, Part.video, Part.audio, Part.power, Part.anyReg]) σ τ) ∧
  (∀ (write : Bool) (addr len : Nat) (bytes : List Byte) (bad : Bool), exec (.bar2Access write addr len bytes bad) σ = .next τ →
    State.Only (Parts.shared) σ τ) ∧
  (exec .unexpectedCompletion σ = .next τ →
    State.Only ([Part.host]) σ τ) ∧
  (∀ (offset size value : Nat) (read : Bool), exec (.doorbellWrite offset size value read) σ = .next τ →
    State.Only (Parts.shared ++ [Part.HRG_DB_IGNORED]) σ τ) ∧
  (∀ (vector : Nat), exec (.msixUnmask vector) σ = .next τ →
    State.Only ([Part.out, Part.HRG_MSIX_CTL, Part.HRG_MSIX_PBA]) σ τ) ∧
  (∀ (count : Nat), exec (.ringFetch count) σ = .next τ →
    State.Only (Parts.shared ++ [Part.host]) σ τ) ∧
  (∀ (ring first : Nat) (result : ReadResult), exec (.sqReadComplete ring first result) σ = .next τ →
    State.Only (Parts.shared ++ [Part.host, Part.video, Part.XLT_DMA_ACTIVE, Part.DMC_CH_ECC_UNCORR, Part.CMP_FALLBACK_COUNT,
      Part.CMP_CLAMP_COUNT, Part.CMP_CAPTURE_ROWS, Part.CMP_CAPTURE_SKIPPED, Part.CMP_ROW_STAT, Part.CMP_ROWS_COMPOSED,
      Part.CMP_BLOCKS_DROPPED, Part.CMP_BLOCKS_HELD, Part.CMP_HANDOFF_WAITS, Part.CMP_SRC_PIXELS, Part.LNK_HDR_CRC_ERR,
      Part.LNK_PAY_CRC_ERR]) σ τ) ∧
  (∀ (ring index : Nat), exec (.nop ring index) σ = .next τ →
    State.Only (Parts.shared) σ τ) ∧
  (∀ (ring index : Nat), exec (.reservedOpcode ring index) σ = .next τ →
    State.Only (Parts.shared) σ τ) ∧
  (∀ (ring index : Nat), exec (.ringCreate ring index) σ = .next τ →
    State.Only (Parts.shared) σ τ) ∧
  (∀ (ring index : Nat), exec (.ringDestroy ring index) σ = .next τ →
    State.Only (Parts.shared ++ [Part.video, Part.audio, Part.XLT_DMA_ACTIVE, Part.CMP_ROW_STAT]) σ τ) ∧
  (∀ (ring index : Nat), exec (.ringReset ring index) σ = .next τ →
    State.Only (Parts.shared ++ [Part.video, Part.audio, Part.XLT_DMA_ACTIVE, Part.CMP_ROW_STAT]) σ τ) ∧
  (∀ (ring index : Nat), exec (.vectorMap ring index) σ = .next τ →
    State.Only (Parts.shared ++ [Part.HRG_EVT_VEC]) σ τ) ∧
  (∀ (region cls : Nat) (host write shared : Bool), exec (.operationComplete region cls host write shared) σ = .next τ →
    State.Only (Parts.shared ++ [Part.video, Part.XLT_DMA_ACTIVE, Part.DMC_CH_ECC_UNCORR, Part.CMP_FALLBACK_COUNT, Part.CMP_CLAMP_COUNT,
      Part.CMP_CAPTURE_ROWS, Part.CMP_CAPTURE_SKIPPED, Part.CMP_ROW_STAT, Part.CMP_ROWS_COMPOSED, Part.CMP_BLOCKS_DROPPED,
      Part.CMP_BLOCKS_HELD, Part.CMP_HANDOFF_WAITS, Part.CMP_SRC_PIXELS, Part.LNK_HDR_CRC_ERR, Part.LNK_PAY_CRC_ERR]) σ τ) ∧
  (∀ (access : ConfigWrite), exec (.configurationWrite access) σ = .next τ →
    State.Only (Parts.shared ++ [Part.host, Part.HRG_LINK, Part.HRG_CPL_TIMEOUT]) σ τ) ∧
  (∀ (speed width : Nat), exec (.pcieLinkSpeedChange speed width) σ = .next τ →
    State.Only (Parts.shared ++ [Part.HRG_LINK]) σ τ) ∧
  (exec .pcieCorrectableError σ = .next τ →
    State.Only (Parts.shared ++ [Part.host]) σ τ)

/-- Frame of translation and DMA: what each command leaves alone. `Parts.shared` are the parts that an event, a completion or an access to memory may touch. -/
def Obligations.TranslationFrame : Prop :=
  ∀ σ τ : State,
  (∀ (what : TimedOut), exec (.completionTimeout what) σ = .next τ →
    State.Only (Parts.shared ++ [Part.link, Part.host, Part.boot, Part.video, Part.audio, Part.XLT_DMA_ACTIVE, Part.DMC_CH_ECC_UNCORR,
      Part.CMP_FALLBACK_COUNT, Part.CMP_CLAMP_COUNT, Part.CMP_CAPTURE_ROWS, Part.CMP_CAPTURE_SKIPPED, Part.CMP_ROW_STAT,
      Part.CMP_ROWS_COMPOSED, Part.CMP_BLOCKS_DROPPED, Part.CMP_BLOCKS_HELD, Part.CMP_HANDOFF_WAITS, Part.CMP_SRC_PIXELS,
      Part.LNK_HDR_CRC_ERR, Part.LNK_PAY_CRC_ERR, Part.CTL_UPD_PROGRESS]) σ τ) ∧
  (∀ (ring index : Nat), exec (.xltSet ring index) σ = .next τ →
    State.Only (Parts.shared ++ [Part.XLT_CTX_MODE, Part.XLT_CTX_ROOT_LO, Part.XLT_CTX_ROOT_HI]) σ τ) ∧
  (∀ (ring index : Nat), exec (.xltDisable ring index) σ = .next τ →
    State.Only (Parts.shared ++ [Part.XLT_CTX_MODE, Part.XLT_CTX_ROOT_LO, Part.XLT_CTX_ROOT_HI]) σ τ) ∧
  (∀ (ring index : Nat), exec (.xltInvalidateAll ring index) σ = .next τ →
    State.Only (Parts.shared) σ τ) ∧
  (∀ (ring index : Nat), exec (.xltInvalidateRange ring index) σ = .next τ →
    State.Only (Parts.shared) σ τ) ∧
  (∀ (ring index : Nat), exec (.invalidationDrained ring index) σ = .next τ →
    State.Only (Parts.shared ++ [Part.XLT_INVAL_COUNT]) σ τ) ∧
  (∀ (ctx page : Nat) (reads : List (Option Nat)), exec (.translationWalkDone ctx page reads) σ = .next τ →
    State.Only (Parts.shared ++ [Part.video, Part.audio, Part.XLT_DMA_ACTIVE, Part.DMC_CH_ECC_UNCORR, Part.CMP_FALLBACK_COUNT,
      Part.CMP_CLAMP_COUNT, Part.CMP_CAPTURE_ROWS, Part.CMP_CAPTURE_SKIPPED, Part.CMP_ROW_STAT, Part.CMP_ROWS_COMPOSED,
      Part.CMP_BLOCKS_DROPPED, Part.CMP_BLOCKS_HELD, Part.CMP_HANDOFF_WAITS, Part.CMP_SRC_PIXELS, Part.LNK_HDR_CRC_ERR,
      Part.LNK_PAY_CRC_ERR]) σ τ) ∧
  (∀ (ring index : Nat), exec (.dmaCopy ring index) σ = .next τ →
    State.Only (Parts.shared ++ [Part.XLT_DMA_ACTIVE]) σ τ) ∧
  (∀ (ring index : Nat) (mem : HostData) (inFlight : Nat), exec (.dmaCopyDone ring index mem inFlight) σ = .next τ →
    State.Only (Parts.shared ++ [Part.XLT_DMA_ACTIVE, Part.DMC_CH_ECC_UNCORR]) σ τ)

/-- Frame of the DRAM controller: what each command leaves alone. `Parts.shared` are the parts that an event, a completion or an access to memory may touch. -/
def Obligations.DramControllerFrame : Prop :=
  ∀ σ τ : State,
  (∀ (channel : Nat) (arrivals : List (Nat × Nat × Nat × Nat × Nat)) (ns : Nat), exec (.dramGrant channel arrivals ns) σ = .next τ →
    State.Only (Parts.shared ++ [Part.chans, Part.video, Part.fresh, Part.XLT_DMA_ACTIVE, Part.DMC_CH_STAT, Part.DMC_CH_REFRESHES,
      Part.DMC_CH_FORCED, Part.DMC_CH_PANIC_CAPPED, Part.DMC_CH_HAZARDS, Part.DMC_CH_ECC_UNCORR, Part.CMP_FALLBACK_COUNT,
      Part.CMP_CLAMP_COUNT, Part.CMP_CAPTURE_ROWS, Part.CMP_CAPTURE_SKIPPED, Part.CMP_ROW_STAT, Part.CMP_ROWS_COMPOSED,
      Part.CMP_BLOCKS_DROPPED, Part.CMP_BLOCKS_HELD, Part.CMP_HANDOFF_WAITS, Part.CMP_SRC_PIXELS, Part.LNK_HDR_CRC_ERR,
      Part.LNK_PAY_CRC_ERR]) σ τ) ∧
  (∀ (channel cls kind addr len : Nat), exec (.dramWriteAccept channel cls kind addr len) σ = .next τ →
    State.Only (Parts.shared ++ [Part.chans, Part.video, Part.XLT_DMA_ACTIVE, Part.DMC_CH_STAT, Part.DMC_CH_ECC_UNCORR,
      Part.CMP_FALLBACK_COUNT, Part.CMP_CLAMP_COUNT, Part.CMP_CAPTURE_ROWS, Part.CMP_CAPTURE_SKIPPED, Part.CMP_ROW_STAT,
      Part.CMP_ROWS_COMPOSED, Part.CMP_BLOCKS_DROPPED, Part.CMP_BLOCKS_HELD, Part.CMP_HANDOFF_WAITS, Part.CMP_SRC_PIXELS,
      Part.LNK_HDR_CRC_ERR, Part.LNK_PAY_CRC_ERR]) σ τ) ∧
  (∀ (channel cls addr ecc : Nat), exec (.dramReadComplete channel cls addr ecc) σ = .next τ →
    State.Only (Parts.shared ++ [Part.chans, Part.DMC_CH_STAT, Part.DMC_CH_ECC_CORR, Part.DMC_CH_ECC_UNCORR]) σ τ) ∧
  (∀ (channel kind fill : Nat) (full : Bool), exec (.portPanicEnter channel kind fill full) σ = .next τ →
    State.Only (Parts.shared ++ [Part.chans, Part.DMC_CH_STAT, Part.DMC_CH_PANICS]) σ τ) ∧
  (∀ (channel kind fill : Nat) (full : Bool), exec (.portPanicExit channel kind fill full) σ = .next τ →
    State.Only ([Part.chans, Part.DMC_CH_STAT]) σ τ) ∧
  (∀ (channel : Nat), exec (.panicWindowEnd channel) σ = .next τ →
    State.Only ([Part.chans, Part.DMC_CH_STAT]) σ τ) ∧
  (∀ (channel cls addr : Nat), exec (.requestAged channel cls addr) σ = .next τ →
    State.Only ([Part.chans, Part.DMC_CH_STAT]) σ τ) ∧
  (∀ (channel : Nat), exec (.refreshIntervalEnd channel) σ = .next τ →
    State.Only (Parts.shared ++ [Part.chans, Part.fresh, Part.now, Part.DMC_CH_STAT, Part.DMC_CH_REFRESHES, Part.DMC_CH_FORCED]) σ τ) ∧
  (∀ (channel quarters : Nat) (t : Nat), exec (.mr4Poll channel quarters t) σ = .next τ →
    State.Only (Parts.shared ++ [Part.chans, Part.boot, Part.pairUnit, Part.lamp, Part.meter, Part.fresh, Part.now, Part.DMC_CH_STAT,
      Part.DMC_CH_REFRESHES, Part.DMC_CH_FORCED, Part.LNK_HDR_CRC_ERR, Part.LNK_PAY_CRC_ERR, Part.LMP_LIM, Part.LBD_BUS_STAT,
      Part.THM_STATE, Part.THM_CAUSE, Part.THM_QUEUE, Part.THM_WRITES_DEFERRED, Part.CTL_ALERT]) σ τ) ∧
  (∀ (channel pattern : Nat) (write : Bool) (length : Nat) (path : RegPath), exec (.patternRunStart channel pattern write length path) σ = .next τ →
    State.Only (Parts.shared ++ [Part.fresh, Part.DMC_CH_PAT_CTL, Part.DMC_CH_CMP]) σ τ) ∧
  (∀ (channel dqErr bursts : Nat), exec (.patternRunDone channel dqErr bursts) σ = .next τ →
    State.Only ([Part.DMC_CH_PAT_CTL, Part.DMC_CH_CMP]) σ τ)

/-- Frame of link training and the return channel: what each command leaves alone. `Parts.shared` are the parts that an event, a completion or an access to memory may touch. -/
def Obligations.LinkFrame : Prop :=
  ∀ σ τ : State,
  (∀ (port : Nat) (packet : List Byte), exec (.reservedPacket port packet) σ = .next τ →
    State.Only (Parts.shared ++ [Part.LNK_HDR_CRC_ERR, Part.LNK_PAY_CRC_ERR, Part.LNK_PKT_UNKNOWN]) σ τ) ∧
  (∀ (ring index : Nat), exec (.remoteRegRead ring index) σ = .next τ →
    State.Only (Parts.shared ++ [Part.link]) σ τ) ∧
  (∀ (ring index : Nat), exec (.remoteRegWrite ring index) σ = .next τ →
    State.Only (Parts.shared ++ [Part.link]) σ τ) ∧
  (∀ (port : Nat) (cell : List Byte), exec (.regRspReceived port cell) σ = .next τ →
    State.Only (Parts.shared ++ [Part.link, Part.tiles, Part.boot, Part.pairUnit, Part.anyReg]) σ τ) ∧
  (∀ (chain tag : Nat), exec (.regReqTimeout chain tag) σ = .next τ →
    State.Only (Parts.shared ++ [Part.link, Part.boot, Part.anyReg]) σ τ) ∧
  (∀ (port : Nat) (packet : List Byte), exec (.ackReceived port packet) σ = .next τ →
    State.Only (Parts.shared ++ [Part.link, Part.video, Part.LNK_RET_STAT, Part.LNK_HDR_CRC_ERR, Part.LNK_PAY_CRC_ERR]) σ τ) ∧
  (∀ (stream seq : Nat), exec (.returnAckTimeout stream seq) σ = .next τ →
    State.Only (Parts.shared ++ [Part.link, Part.video, Part.LNK_RET_STAT, Part.LNK_RET_GIVEUP]) σ τ) ∧
  (∀ (cell alignSeq : Nat), exec (.returnCellPass cell alignSeq) σ = .next τ →
    State.Only (Parts.shared ++ [Part.link, Part.LNK_RET_STAT]) σ τ) ∧
  (∀ (port : Nat), exec (.alignSend port) σ = .next τ →
    State.Only ([Part.link, Part.out]) σ τ) ∧
  (∀ (port : Nat) (cell : List Byte), exec (.remoteEventReceived port cell) σ = .next τ →
    State.Only (Parts.shared ++ [Part.link, Part.pairUnit, Part.LNK_CELL_DROP, Part.CTL_EVT_REMOTE_RX]) σ τ) ∧
  (∀ (port : Nat) (cell : List Byte), exec (.telemetryReceived port cell) σ = .next τ →
    State.Only (Parts.shared ++ [Part.link, Part.tiles, Part.pairUnit, Part.LNK_CELL_DROP]) σ τ) ∧
  (∀ (chain position : Nat), exec (.telemetryStale chain position) σ = .next τ →
    State.Only (Parts.shared ++ [Part.tiles]) σ τ) ∧
  (∀ (port : Nat) (invalid : Nat), exec (.wordLockLoss port invalid) σ = .next τ →
    State.Only (Parts.shared ++ [Part.link, Part.pairUnit, Part.TCK_STATE, Part.LNK_STATE, Part.LNK_WORD_ERR, Part.LNK_LOCK_LOSS,
      Part.LNK_RETRAINS, Part.PAIR_STATE, Part.PAIR_CLEAN, Part.PAIR_LINK_LOSSES, Part.CTL_ALERT]) σ τ) ∧
  (∀ (port : Nat), exec (.rxClockLost port) σ = .next τ →
    State.Only (Parts.shared ++ [Part.link, Part.pairUnit, Part.TCK_STATE, Part.LNK_STATE, Part.LNK_RETRAINS, Part.PAIR_STATE,
      Part.PAIR_CLEAN, Part.PAIR_LINK_LOSSES, Part.CTL_ALERT]) σ τ) ∧
  (∀ (port : Nat), exec (.ts1Received port) σ = .next τ →
    State.Only (Parts.shared ++ [Part.link, Part.pairUnit, Part.TCK_STATE, Part.LNK_STATE, Part.LNK_RETRAINS, Part.PAIR_STATE,
      Part.PAIR_CLEAN, Part.PAIR_LINK_LOSSES, Part.CTL_ALERT]) σ τ) ∧
  (∀ (port : Nat) (ts2 : Bool) (offer : Nat), exec (.tsWordsReceived port ts2 offer) σ = .next τ →
    State.Only ([Part.link, Part.out, Part.LNK_PORT_CFG, Part.LNK_STATE, Part.LNK_FOM, Part.LNK_DFE]) σ τ) ∧
  (∀ (port ctle t1 t2 t3 fom skew : Nat), exec (.equalisationDone port ctle t1 t2 t3 fom skew) σ = .next τ →
    State.Only (Parts.shared ++ [Part.link, Part.LNK_STATE, Part.LNK_FOM, Part.LNK_DFE, Part.LNK_DESKEW]) σ τ) ∧
  (∀ (port h : Nat), exec (.portUp port h) σ = .next τ →
    State.Only (Parts.shared ++ [Part.link, Part.boot, Part.pairUnit, Part.TCK_REPEAT_H, Part.LNK_STATE, Part.LNK_FOM, Part.PAIR_STATE,
      Part.THM_QUEUE, Part.THM_WRITES_DEFERRED, Part.CTL_BOOT]) σ τ) ∧
  (∀ (port : Nat), exec (.trainingAttemptTimeout port) σ = .next τ →
    State.Only (Parts.shared ++ [Part.link, Part.LNK_STATE, Part.CTL_BOOT]) σ τ) ∧
  (∀ (port : Nat), exec (.trainingRetryTimer port) σ = .next τ →
    State.Only ([Part.link, Part.out]) σ τ) ∧
  (∀ (port : Nat), exec (.rxClockActivity port) σ = .next τ →
    State.Only ([Part.link, Part.out, Part.LNK_STATE]) σ τ) ∧
  (∀ (port : Nat) (path : RegPath), exec (.linkTestRetry port path) σ = .next τ →
    State.Only (Parts.shared ++ [Part.link, Part.LNK_STATE]) σ τ) ∧
  (∀ (port : Nat) (path : RegPath), exec (.linkTestForceDown port path) σ = .next τ →
    State.Only (Parts.shared ++ [Part.link, Part.pairUnit, Part.TCK_STATE, Part.LNK_STATE, Part.LNK_RETRAINS, Part.PAIR_STATE,
      Part.PAIR_CLEAN, Part.PAIR_LINK_LOSSES, Part.CTL_ALERT]) σ τ) ∧
  (∀ (port : Nat) (main : Bool) (ew eh : Nat), exec (.fomMeasurement port main ew eh) σ = .next τ →
    State.Only (Parts.shared ++ [Part.link, Part.pairUnit, Part.TCK_STATE, Part.LNK_STATE, Part.LNK_FOM, Part.LNK_RETRAINS,
      Part.PAIR_STATE, Part.PAIR_CLEAN, Part.PAIR_LINK_LOSSES, Part.CTL_ALERT]) σ τ) ∧
  (∀ (port : Nat), exec (.eqStepAdopt port) σ = .next τ →
    State.Only ([Part.link, Part.out, Part.LNK_FOM, Part.LNK_DFE, Part.LNK_EQ_STEPS]) σ τ) ∧
  (∀ (port : Nat) (cell : List Byte), exec (.cellDrop port cell) σ = .next τ →
    State.Only (Parts.shared ++ [Part.LNK_CELL_DROP]) σ τ)

/-- Frame of the pair commands: what each command leaves alone. `Parts.shared` are the parts that an event, a completion or an access to memory may touch. -/
def Obligations.PairFrame : Prop :=
  ∀ σ τ : State,
  (exec .helloSend σ = .next τ →
    State.Only ([Part.pairUnit, Part.out]) σ τ) ∧
  (∀ (payload : List Byte), exec (.helloReceived payload) σ = .next τ →
    State.Only (Parts.shared ++ [Part.tick, Part.link, Part.pairUnit, Part.video, Part.TCK_STATE, Part.LNK_STATE, Part.PAIR_STATE,
      Part.PAIR_EPOCH, Part.PAIR_CLEAN, Part.PAIR_PARTNER_SERIAL_LO, Part.PAIR_PARTNER_SERIAL_HI, Part.CTL_ALERT]) σ τ) ∧
  (∀ (payload : List Byte), exec (.commitAnnReceived payload) σ = .next τ →
    State.Only ([Part.pairUnit, Part.video, Part.out]) σ τ) ∧
  (∀ (payload : List Byte), exec (.keyAnnReceived payload) σ = .next τ →
    State.Only ([Part.pairUnit, Part.video, Part.out]) σ τ) ∧
  (∀ (payload : List Byte), exec (.cycleAnnReceived payload) σ = .next τ →
    State.Only ([Part.pairUnit, Part.video, Part.out]) σ τ) ∧
  (∀ (payload : List Byte), exec (.snapshotReceived payload) σ = .next τ →
    State.Only (Parts.shared ++ [Part.tick, Part.boot, Part.therm, Part.pairUnit, Part.video, Part.wall, Part.TCK_STATE,
      Part.TCK_COUNT_LO, Part.TCK_COUNT_HI, Part.TCK_END_DELAY, Part.TCK_HOP_DELAY, Part.TCK_SLOTS, Part.CMP_LAYER_STATE,
      Part.CMP_LAYER_TAG, Part.CMP_LAYER_RING, Part.CMP_LAYER_SINCE, Part.PAIR_STATE, Part.PAIR_EPOCH, Part.PAIR_CLEAN, Part.THM_QUEUE,
      Part.THM_WRITES_DEFERRED]) σ τ) ∧
  (∀ (payload : List Byte), exec (.relayReceived payload) σ = .next τ →
    State.Only (Parts.shared ++ [Part.link, Part.tiles, Part.boot, Part.therm, Part.pairUnit, Part.video, Part.wall, Part.anyReg]) σ τ) ∧
  (∀ (payload : List Byte), exec (.deposeReceived payload) σ = .next τ →
    State.Only (Parts.shared ++ [Part.tick, Part.link, Part.pairUnit, Part.video, Part.TCK_STATE, Part.LNK_STATE, Part.PAIR_STATE,
      Part.PAIR_CLEAN]) σ τ) ∧
  (∀ (payload : List Byte), exec (.handoverReceived payload) σ = .next τ →
    State.Only ([Part.pairUnit, Part.out]) σ τ) ∧
  (∀ (payload : List Byte), exec (.pairAckReceived payload) σ = .next τ →
    State.Only ([Part.pairUnit]) σ τ) ∧
  (∀ (payload : List Byte), exec (.readDoneReceived payload) σ = .next τ →
    State.Only ([Part.pairUnit, Part.out]) σ τ) ∧
  (∀ (payload : List Byte), exec (.reuniteReceived payload) σ = .next τ →
    State.Only ([Part.pairUnit, Part.out]) σ τ) ∧
  (∀ (pseq : Nat), exec (.pairPacketTimeout pseq) σ = .next τ →
    State.Only (Parts.shared ++ [Part.pairUnit, Part.TCK_STATE, Part.PAIR_STATE, Part.PAIR_CLEAN, Part.PAIR_LINK_LOSSES, Part.CTL_ALERT]) σ τ) ∧
  (∀ (chain frame : Nat), exec (.comparisonDeadline chain frame) σ = .next τ →
    State.Only (Parts.shared ++ [Part.pairUnit, Part.TCK_STATE, Part.PAIR_STATE, Part.PAIR_COMPARED_LO, Part.PAIR_COMPARED_HI,
      Part.PAIR_MISMATCHED, Part.PAIR_EXCUSED, Part.PAIR_DECISIONS, Part.PAIR_LAST_MISMATCH, Part.CTL_ALERT]) σ τ) ∧
  (exec .deposeAckTimeout σ = .next τ →
    State.Only (Parts.shared ++ [Part.pairUnit, Part.TCK_STATE, Part.PAIR_STATE, Part.PAIR_CLEAN]) σ τ) ∧
  (exec .announcementMissing σ = .next τ →
    State.Only (Parts.shared ++ [Part.pairUnit, Part.TCK_STATE, Part.PAIR_STATE, Part.PAIR_CLEAN]) σ τ) ∧
  (∀ (chain : Nat) (up : Bool), exec (.reunitePoll chain up) σ = .next τ →
    State.Only ([Part.pairUnit, Part.out]) σ τ) ∧
  (exec .suspectTimeout σ = .next τ →
    State.Only (Parts.shared ++ [Part.pairUnit, Part.TCK_STATE, Part.PAIR_STATE, Part.PAIR_CLEAN, Part.CTL_ALERT]) σ τ) ∧
  (exec .pairPortTimeout σ = .next τ →
    State.Only (Parts.shared ++ [Part.CTL_ALERT]) σ τ) ∧
  (∀ (path : RegPath), exec (.pairTestHandover path) σ = .next τ →
    State.Only (Parts.shared ++ [Part.pairUnit]) σ τ) ∧
  (∀ (path : RegPath), exec (.pairTestForeign path) σ = .next τ →
    State.Only (Parts.shared ++ [Part.link, Part.pairUnit]) σ τ) ∧
  (∀ (ptype : Nat), exec (.pairPacketReserved ptype) σ = .next τ →
    State.Only ([Part.PAIR_PKT_UNKNOWN]) σ τ)

/-- Frame of register accesses, events, counters and the debug port: what each command leaves alone. `Parts.shared` are the parts that an event, a completion or an access to memory may touch. -/
def Obligations.RegisterFrame : Prop :=
  ∀ σ τ : State,
  (∀ (path : RegPath) (off value size : Nat) (enables : Bool), exec (.registerWrite path off value size enables) σ = .next τ →
    State.Only (Parts.shared ++ [Part.tick, Part.link, Part.tiles, Part.chans, Part.host, Part.plan, Part.boot, Part.therm,
      Part.pairUnit, Part.video, Part.lamp, Part.wall, Part.audio, Part.meter, Part.jtag, Part.latches, Part.power, Part.fresh, Part.now,
      Part.anyReg]) σ τ) ∧
  (∀ (path : RegPath) (off size : Nat) (enables : Bool), exec (.lowHalfRead path off size enables) σ = .next τ →
    State.Only (Parts.shared ++ [Part.meter, Part.latches, Part.fresh, Part.MTR_REC_REQ]) σ τ) ∧
  (∀ (port : Nat) (packet : List Byte), exec (.regReqReceived port packet) σ = .next τ →
    State.Only (Parts.shared ++ [Part.tick, Part.link, Part.tiles, Part.chans, Part.host, Part.plan, Part.boot, Part.therm,
      Part.pairUnit, Part.video, Part.lamp, Part.wall, Part.audio, Part.meter, Part.jtag, Part.latches, Part.power, Part.fresh, Part.now,
      Part.anyReg]) σ τ) ∧
  (∀ (path : RegPath) (i value : Nat) (coincident : List Nat), exec (.eventStatusClear path i value coincident) σ = .next τ →
    State.Only (Parts.shared) σ τ) ∧
  (∀ (path : RegPath) (i value : Nat), exec (.eventMaskWrite path i value) σ = .next τ →
    State.Only (Parts.shared ++ [Part.CTL_EVT_MASK]) σ τ) ∧
  (∀ (path : RegPath), exec (.counterSnap path) σ = .next τ →
    State.Only (Parts.shared ++ [Part.latches, Part.CTL_CNT_GLOBAL, Part.CTL_CNT_SNAP_SEQ, Part.CTL_CNT_SNAP_TICK_LO,
      Part.CTL_CNT_SNAP_TICK_HI]) σ τ) ∧
  (∀ (path : RegPath), exec (.counterClear path) σ = .next τ →
    State.Only (Parts.shared ++ [Part.CTL_CNT_GLOBAL]) σ τ) ∧
  (∀ (path : RegPath) (c : Nat), exec (.counterReset path c) σ = .next τ →
    State.Only (Parts.shared ++ [Part.CTL_CNT_CFG]) σ τ) ∧
  (∀ (c : Nat), exec (.counterWrap c) σ = .next τ →
    State.Only (Parts.shared) σ τ) ∧
  (exec .jtagReset σ = .next τ →
    State.Only ([Part.jtag]) σ τ) ∧
  (∀ (levels : Nat), exec (.jtagExtest levels) σ = .next τ →
    State.Only ([Part.jtag, Part.out]) σ τ) ∧
  (∀ (pins levels width : Nat), exec (.jtagSamplePreload pins levels width) σ = .next τ →
    State.Only ([Part.jtag, Part.out]) σ τ) ∧
  (∀ (code : Nat), exec (.jtagBypass code) σ = .next τ →
    State.Only ([Part.jtag]) σ τ) ∧
  (∀ (dr : Nat) (busy : Bool), exec (.jtagRegaccUpdate dr busy) σ = .next τ →
    State.Only (Parts.shared ++ [Part.tick, Part.link, Part.tiles, Part.chans, Part.host, Part.plan, Part.boot, Part.therm,
      Part.pairUnit, Part.video, Part.lamp, Part.wall, Part.audio, Part.meter, Part.jtag, Part.latches, Part.power, Part.fresh, Part.now,
      Part.anyReg]) σ τ) ∧
  (exec .jtagRegaccCapture σ = .next τ →
    State.Only ([Part.jtag, Part.out]) σ τ)

/-- Frame of the containment commands: what each command leaves alone. `Parts.shared` are the parts that an event, a completion or an access to memory may touch. -/
def Obligations.ContainmentFrame : Prop :=
  ∀ σ τ : State,
  (∀ (region block cell chain position row : Nat) (check again umberLow : Bool), exec (.cellFault region block cell chain position row check again umberLow) σ = .next τ →
    State.Only (Parts.shared ++ [Part.tick, Part.link, Part.tiles, Part.chans, Part.host, Part.plan, Part.boot, Part.therm,
      Part.pairUnit, Part.video, Part.lamp, Part.wall, Part.audio, Part.meter, Part.jtag, Part.latches, Part.power, Part.fresh, Part.now,
      Part.anyReg]) σ τ) ∧
  (∀ (region block cell chain position row : Nat) (again umberLow : Bool), exec (.cellStall region block cell chain position row again umberLow) σ = .next τ →
    State.Only (Parts.shared ++ [Part.tick, Part.link, Part.tiles, Part.chans, Part.host, Part.plan, Part.boot, Part.therm,
      Part.pairUnit, Part.video, Part.lamp, Part.wall, Part.audio, Part.meter, Part.jtag, Part.latches, Part.power, Part.fresh, Part.now,
      Part.anyReg]) σ τ) ∧
  (∀ (region block : Nat) (umberLow : Bool), exec (.blockFault region block umberLow) σ = .next τ →
    State.Only (Parts.shared ++ [Part.tick, Part.link, Part.tiles, Part.chans, Part.host, Part.plan, Part.boot, Part.therm,
      Part.pairUnit, Part.video, Part.lamp, Part.wall, Part.audio, Part.meter, Part.jtag, Part.latches, Part.power, Part.fresh, Part.now,
      Part.anyReg]) σ τ) ∧
  (∀ (region block : Nat), exec (.blockRestartDone region block) σ = .next τ →
    State.Only (Parts.shared ++ [Part.video, Part.lamp, Part.LNK_HDR_CRC_ERR, Part.LNK_PAY_CRC_ERR]) σ τ) ∧
  (∀ (region block : Nat) (umberLow : Bool), exec (.blockRestartTimeout region block umberLow) σ = .next τ →
    State.Only (Parts.shared ++ [Part.tick, Part.link, Part.tiles, Part.chans, Part.host, Part.plan, Part.boot, Part.therm,
      Part.pairUnit, Part.video, Part.lamp, Part.wall, Part.audio, Part.meter, Part.jtag, Part.latches, Part.power, Part.fresh, Part.now,
      Part.anyReg]) σ τ) ∧
  (∀ (region : Nat) (umberLow : Bool), exec (.regionFault region umberLow) σ = .next τ →
    State.Only (Parts.shared ++ [Part.tick, Part.link, Part.tiles, Part.chans, Part.host, Part.plan, Part.boot, Part.therm,
      Part.pairUnit, Part.video, Part.lamp, Part.wall, Part.audio, Part.meter, Part.jtag, Part.latches, Part.power, Part.fresh, Part.now,
      Part.anyReg]) σ τ) ∧
  (∀ (region : Nat) (retrained : List (Nat × List Byte)) (failed : List Nat), exec (.regionReturn region retrained failed) σ = .next τ →
    State.Only (Parts.shared ++ [Part.chans, Part.boot, Part.video, Part.DMC_CH_STAT, Part.DMC_CH_TRAIN, Part.THM_QUEUE,
      Part.THM_WRITES_DEFERRED, Part.CTL_ERR_STAT]) σ τ) ∧
  (∀ (cell : Nat) (umberLow : Bool), exec (.chipError cell umberLow) σ = .next τ →
    State.Only (Parts.shared ++ [Part.tick, Part.link, Part.tiles, Part.chans, Part.host, Part.plan, Part.boot, Part.therm,
      Part.pairUnit, Part.video, Part.lamp, Part.wall, Part.audio, Part.meter, Part.jtag, Part.latches, Part.power, Part.fresh, Part.now,
      Part.anyReg]) σ τ) ∧
  (∀ (core : Nat) (umberLow : Bool), exec (.firmwareWatchdogExpiry core umberLow) σ = .next τ →
    State.Only (Parts.shared ++ [Part.tick, Part.link, Part.tiles, Part.chans, Part.host, Part.plan, Part.boot, Part.therm,
      Part.pairUnit, Part.video, Part.lamp, Part.wall, Part.audio, Part.meter, Part.jtag, Part.latches, Part.power, Part.fresh, Part.now,
      Part.anyReg]) σ τ)

end
end

