-- ==== Sys2Proof/Laws/Bytes.lean ====
section
/-! SUPPORT. Laws of bit fields and of the sparse lists that hold register files and memories: a read after a write, and the
canonical form. -/

set_option Elab.async false

namespace Sys2Proof.Machine

theorem bits_lt (v lo w : Nat) : bits v lo w < 2 ^ w := Nat.mod_lt _ (Nat.two_pow_pos w)

theorem bits_zero_width (v lo : Nat) : bits v lo 0 = 0 := by simp [bits, Nat.mod_one]

/-- Replacing a field leaves the value below 2^n when it was and the field lies below bit n. -/
theorem putBits_lt {v lo w x n : Nat} (h : lo + w ≤ n) (hv : v < 2 ^ n) : putBits v lo w x < 2 ^ n := by
  unfold putBits
  obtain ⟨k, rfl⟩ := Nat.exists_eq_add_of_le h
  have h1 : v / 2 ^ (lo + w) < 2 ^ k := by
    apply Nat.div_lt_of_lt_mul; rw [← Nat.pow_add]; exact hv
  have h2 : x % 2 ^ w < 2 ^ w := Nat.mod_lt _ (Nat.two_pow_pos w)
  have h3 : v % 2 ^ lo < 2 ^ lo := Nat.mod_lt _ (Nat.two_pow_pos lo)
  have e : 2 ^ (lo + w + k) = 2 ^ k * (2 ^ w * 2 ^ lo) := by rw [Nat.pow_add, Nat.pow_add]; ring
  have e2 : 2 ^ (lo + w) = 2 ^ w * 2 ^ lo := by rw [Nat.pow_add]; ring
  rw [e, e2]
  rw [e2] at h1
  have a0 : (x % 2 ^ w + 1) * 2 ^ lo ≤ 2 ^ w * 2 ^ lo := Nat.mul_le_mul_right _ h2
  have a1 : x % 2 ^ w * 2 ^ lo + v % 2 ^ lo < 2 ^ w * 2 ^ lo := by rw [Nat.add_mul] at a0; omega
  have a2 : (v / (2 ^ w * 2 ^ lo) + 1) * (2 ^ w * 2 ^ lo) ≤ 2 ^ k * (2 ^ w * 2 ^ lo) := Nat.mul_le_mul_right _ h1
  rw [Nat.add_mul] at a2; omega

/-- A field reads what was put into it. -/
theorem bits_putBits (v lo w x : Nat) : bits (putBits v lo w x) lo w = x % 2 ^ w := by
  unfold bits putBits
  have e : v / 2 ^ (lo + w) * 2 ^ (lo + w) + x % 2 ^ w * 2 ^ lo + v % 2 ^ lo
      = (v / 2 ^ (lo + w) * 2 ^ w + x % 2 ^ w) * 2 ^ lo + v % 2 ^ lo := by rw [Nat.pow_add]; ring
  rw [e, Nat.mul_comm, Nat.mul_add_div (Nat.two_pow_pos lo), Nat.div_eq_of_lt (Nat.mod_lt _ (Nat.two_pow_pos lo)), Nat.add_zero,
    Nat.mul_comm, Nat.mul_add_mod]
  exact Nat.mod_eq_of_lt (Nat.mod_lt _ (Nat.two_pow_pos w))

/-- A field below the one that is replaced keeps its value. -/
theorem bits_putBits_below {v lo w x l k : Nat} (h : l + k ≤ lo) : bits (putBits v lo w x) l k = bits v l k := by
  unfold bits putBits
  obtain ⟨d, rfl⟩ := Nat.exists_eq_add_of_le h
  have e : v / 2 ^ (l + k + d + w) * 2 ^ (l + k + d + w) + x % 2 ^ w * 2 ^ (l + k + d) + v % 2 ^ (l + k + d)
      = 2 ^ l * (2 ^ k * (2 ^ d * (v / 2 ^ (l + k + d + w) * 2 ^ w + x % 2 ^ w))) + v % 2 ^ (l + k + d) := by
    rw [Nat.pow_add, Nat.pow_add, Nat.pow_add]; ring
  rw [e, Nat.mul_add_div (Nat.two_pow_pos l), Nat.mul_add_mod]
  have : v % 2 ^ (l + k + d) / 2 ^ l % 2 ^ k = v / 2 ^ l % 2 ^ k := by
    rw [show l + k + d = l + (k + d) by ring, Nat.pow_add, Nat.mod_mul_right_div_self, Nat.pow_add, Nat.mod_mul_right_mod]
  exact this

/-- A field above the one that is replaced keeps its value. -/
theorem bits_putBits_above {v lo w x l k : Nat} (h : lo + w ≤ l) : bits (putBits v lo w x) l k = bits v l k := by
  unfold bits
  obtain ⟨d, rfl⟩ := Nat.exists_eq_add_of_le h
  have e : putBits v lo w x / 2 ^ (lo + w) = v / 2 ^ (lo + w) := by
    unfold putBits
    have h2 : x % 2 ^ w < 2 ^ w := Nat.mod_lt _ (Nat.two_pow_pos w)
    have h3 : v % 2 ^ lo < 2 ^ lo := Nat.mod_lt _ (Nat.two_pow_pos lo)
    have e2 : 2 ^ (lo + w) = 2 ^ w * 2 ^ lo := by rw [Nat.pow_add]; ring
    have a0 : (x % 2 ^ w + 1) * 2 ^ lo ≤ 2 ^ w * 2 ^ lo := Nat.mul_le_mul_right _ h2
    have a1 : x % 2 ^ w * 2 ^ lo + v % 2 ^ lo < 2 ^ (lo + w) := by rw [e2]; rw [Nat.add_mul] at a0; omega
    rw [Nat.add_assoc, Nat.mul_comm, Nat.mul_add_div (Nat.two_pow_pos _), Nat.div_eq_of_lt a1, Nat.add_zero]
  rw [Nat.pow_add, ← Nat.div_div_eq_div_mul, ← Nat.div_div_eq_div_mul, e]

theorem Sparse.get_erase_same {α : Type} (d : Nat → α) (l : List (Nat × α)) (a : Nat) : Sparse.get d (Sparse.erase l a) a = d a := by
  induction l with
  | nil => rfl
  | cons p t ih =>
    obtain ⟨k, v⟩ := p
    by_cases h : k = a
    · subst h; simpa [Sparse.erase] using ih
    · have : Sparse.erase ((k, v) :: t) a = (k, v) :: Sparse.erase t a := by simp [Sparse.erase, h]
      rw [this]; simp [Sparse.get, h, ih]

theorem Sparse.get_erase_other {α : Type} (d : Nat → α) (l : List (Nat × α)) {a b : Nat} (h : b ≠ a) :
    Sparse.get d (Sparse.erase l a) b = Sparse.get d l b := by
  induction l with
  | nil => rfl
  | cons p t ih =>
    obtain ⟨k, v⟩ := p
    by_cases hk : k = a
    · subst hk
      have : Sparse.erase ((k, v) :: t) k = Sparse.erase t k := by simp [Sparse.erase]
      rw [this, ih]; simp [Sparse.get, Ne.symm h]
    · have : Sparse.erase ((k, v) :: t) a = (k, v) :: Sparse.erase t a := by simp [Sparse.erase, hk]
      rw [this]; simp [Sparse.get, ih]

theorem Sparse.get_ins_same {α : Type} (d : Nat → α) (l : List (Nat × α)) (a : Nat) (v : α)
    (h : ∀ p ∈ l, p.1 ≠ a) : Sparse.get d (Sparse.ins l a v) a = v := by
  induction l with
  | nil => simp [Sparse.ins, Sparse.get]
  | cons p t ih =>
    obtain ⟨k, w⟩ := p
    have hk : k ≠ a := h (k, w) (by simp)
    unfold Sparse.ins
    split
    · simp [Sparse.get, hk, ih (fun q hq => h q (by simp [hq]))]
    · simp [Sparse.get]

theorem Sparse.get_ins_other {α : Type} (d : Nat → α) (l : List (Nat × α)) {a b : Nat} (v : α) (h : b ≠ a) :
    Sparse.get d (Sparse.ins l a v) b = Sparse.get d l b := by
  induction l with
  | nil => simp [Sparse.ins, Sparse.get, Ne.symm h]
  | cons p t ih =>
    obtain ⟨k, w⟩ := p
    unfold Sparse.ins
    split
    · simp [Sparse.get, ih]
    · simp [Sparse.get, Ne.symm h]

theorem Sparse.erase_ne {α : Type} (l : List (Nat × α)) (a : Nat) : ∀ p ∈ Sparse.erase l a, p.1 ≠ a := by
  intro p hp; simpa [Sparse.erase] using (List.mem_filter.mp hp).2

/-- A read after a write to the same place gives the value written. -/
theorem Sparse.get_set_same {α : Type} [DecidableEq α] (d : Nat → α) (l : List (Nat × α)) (a : Nat) (v : α) :
    Sparse.get d (Sparse.set d l a v) a = v := by
  unfold Sparse.set
  split
  · next h => rw [Sparse.get_erase_same, h]
  · exact Sparse.get_ins_same d _ a v (Sparse.erase_ne l a)

/-- A write leaves every other place alone. -/
theorem Sparse.get_set_other {α : Type} [DecidableEq α] (d : Nat → α) (l : List (Nat × α)) {a b : Nat} (v : α) (h : b ≠ a) :
    Sparse.get d (Sparse.set d l a v) b = Sparse.get d l b := by
  unfold Sparse.set
  split
  · exact Sparse.get_erase_other d l h
  · rw [Sparse.get_ins_other d _ v h, Sparse.get_erase_other d l h]

/-! ### The canonical form -/

theorem Sparse.rising_cons {α : Type} {a : Nat} {v : α} {l : List (Nat × α)} (h : Sparse.rising l = true) (hb : ∀ p ∈ l, a < p.1) :
    Sparse.rising ((a, v) :: l) = true := by
  cases l with
  | nil => rfl
  | cons p t => obtain ⟨b, w⟩ := p; simp [Sparse.rising, h, hb (b, w) (by simp)]

theorem Sparse.rising_tail {α : Type} {p : Nat × α} {l : List (Nat × α)} (h : Sparse.rising (p :: l) = true) : Sparse.rising l = true := by
  cases l with
  | nil => rfl
  | cons q t => obtain ⟨a, v⟩ := p; obtain ⟨b, w⟩ := q; simp [Sparse.rising] at h; exact h.2

theorem Sparse.rising_head {α : Type} {a : Nat} {v : α} {l : List (Nat × α)} (h : Sparse.rising ((a, v) :: l) = true) :
    ∀ p ∈ l, a < p.1 := by
  induction l generalizing a v with
  | nil => simp
  | cons q t ih =>
    obtain ⟨b, w⟩ := q
    simp [Sparse.rising] at h
    intro p hp
    rcases List.mem_cons.mp hp with rfl | hp
    · exact h.1
    · exact lt_trans h.1 (ih h.2 p hp)

theorem Sparse.rising_filter {α : Type} (f : Nat × α → Bool) {l : List (Nat × α)} (h : Sparse.rising l = true) :
    Sparse.rising (l.filter f) = true := by
  induction l with
  | nil => rfl
  | cons p t ih =>
    obtain ⟨a, v⟩ := p
    have ht := ih (Sparse.rising_tail h)
    by_cases hf : f (a, v) = true
    · rw [List.filter_cons_of_pos hf]
      exact Sparse.rising_cons ht (fun q hq => Sparse.rising_head h q (List.mem_of_mem_filter hq))
    · rw [List.filter_cons_of_neg hf]; exact ht

theorem Sparse.rising_map {α : Type} (f : Nat × α → α) (l : List (Nat × α)) : Sparse.rising (l.map (fun e => (e.1, f e))) = Sparse.rising l := by
  induction l with
  | nil => rfl
  | cons p t ih =>
    obtain ⟨a, v⟩ := p
    cases t with
    | nil => rfl
    | cons q t => simp only [List.map_cons, Sparse.rising] at ih ⊢; rw [ih]

theorem Sparse.mem_ins {α : Type} {l : List (Nat × α)} {a : Nat} {v : α} {p : Nat × α} (h : p ∈ Sparse.ins l a v) : p = (a, v) ∨ p ∈ l := by
  induction l with
  | nil => simpa [Sparse.ins] using h
  | cons q t ih =>
    obtain ⟨k, w⟩ := q
    unfold Sparse.ins at h
    split at h
    · rcases List.mem_cons.mp h with rfl | h
      · simp
      · rcases ih h with h | h
        · exact .inl h
        · exact .inr (by simp [h])
    · rcases List.mem_cons.mp h with rfl | h
      · simp
      · exact .inr h

theorem Sparse.rising_ins {α : Type} {l : List (Nat × α)} {a : Nat} (v : α) (h : Sparse.rising l = true) (hn : ∀ p ∈ l, p.1 ≠ a) :
    Sparse.rising (Sparse.ins l a v) = true := by
  induction l with
  | nil => rfl
  | cons q t ih =>
    obtain ⟨k, w⟩ := q
    unfold Sparse.ins
    split
    · next hk =>
      refine Sparse.rising_cons (ih (Sparse.rising_tail h) (fun p hp => hn p (by simp [hp]))) (fun p hp => ?_)
      rcases Sparse.mem_ins hp with rfl | hp
      · exact hk
      · exact Sparse.rising_head h p hp
    · next hk =>
      have hlt : a < k := lt_of_le_of_ne (Nat.not_lt.mp hk) (Ne.symm (hn (k, w) (by simp)))
      refine Sparse.rising_cons h (fun p hp => ?_)
      rcases List.mem_cons.mp hp with rfl | hp
      · exact hlt
      · exact lt_trans hlt (Sparse.rising_head h p hp)

/-- Dropping entries keeps the canonical form. -/
theorem Sparse.wf_filter {α : Type} [DecidableEq α] {d : Nat → α} (f : Nat × α → Bool) {l : List (Nat × α)} (h : Sparse.wf d l = true) :
    Sparse.wf d (l.filter f) = true := by
  simp only [Sparse.wf, Bool.and_eq_true, List.all_eq_true] at h ⊢
  exact ⟨Sparse.rising_filter f h.1, fun p hp => h.2 p (List.mem_of_mem_filter hp)⟩

/-- New values under the same addresses, those at the unlisted value dropped, are in canonical form. -/
theorem Sparse.wf_map_filter {α : Type} [DecidableEq α] {d : Nat → α} (f : Nat × α → α) {l : List (Nat × α)} (h : Sparse.wf d l = true) :
    Sparse.wf d ((l.map (fun e => (e.1, f e))).filter (fun e => decide (e.2 ≠ d e.1))) = true := by
  simp only [Sparse.wf, Bool.and_eq_true, List.all_eq_true] at h ⊢
  exact ⟨Sparse.rising_filter _ (by rw [Sparse.rising_map]; exact h.1), fun p hp => (List.mem_filter.mp hp).2⟩

theorem Sparse.wf_erase {α : Type} [DecidableEq α] {d : Nat → α} {l : List (Nat × α)} (a : Nat) (h : Sparse.wf d l = true) :
    Sparse.wf d (Sparse.erase l a) = true := Sparse.wf_filter _ h

/-- A write keeps the canonical form. -/
theorem Sparse.wf_set {α : Type} [DecidableEq α] {d : Nat → α} {l : List (Nat × α)} (a : Nat) (v : α) (h : Sparse.wf d l = true) :
    Sparse.wf d (Sparse.set d l a v) = true := by
  unfold Sparse.set
  split
  · exact Sparse.wf_erase a h
  · next hv =>
    have he := Sparse.wf_erase a h
    simp only [Sparse.wf, Bool.and_eq_true, List.all_eq_true, decide_eq_true_eq] at he ⊢
    refine ⟨Sparse.rising_ins v he.1 (Sparse.erase_ne l a), fun p hp => ?_⟩
    rcases Sparse.mem_ins hp with rfl | hp
    · exact hv
    · exact he.2 p hp

/-- A byte string written to a memory keeps its canonical form. -/
theorem memWrite_wf {d : Nat → Byte} {m : List (Nat × Byte)} (a : Nat) (bs : List Byte) (h : Sparse.wf d m = true) :
    Sparse.wf d (memWrite d m a bs) = true := by
  induction bs generalizing m a with
  | nil => exact h
  | cons b t ih => exact ih (a + 1) (Sparse.wf_set a b h)

/-- Bytes outside a byte string that is written keep their values. -/
theorem memWrite_other {d : Nat → Byte} {m : List (Nat × Byte)} {a x : Nat} (bs : List Byte) (h : x < a ∨ a + bs.length ≤ x) :
    Sparse.get d (memWrite d m a bs) x = Sparse.get d m x := by
  induction bs generalizing m a with
  | nil => rfl
  | cons b t ih =>
    simp only [List.length_cons] at h
    simp only [memWrite]
    rw [ih (by omega), Sparse.get_set_other _ _ _ (by omega)]

/-- The byte at an offset of a byte string that is written. -/
theorem memWrite_same {d : Nat → Byte} {m : List (Nat × Byte)} {a i : Nat} (bs : List Byte) (h : i < bs.length) :
    Sparse.get d (memWrite d m a bs) (a + i) = bs.getD i 0 := by
  induction bs generalizing m a i with
  | nil => simp at h
  | cons b t ih =>
    simp only [memWrite]
    cases i with
    | zero =>
      show Sparse.get d (memWrite d (Sparse.set d m a b) (a + 1) t) a = b
      rw [memWrite_other t (Or.inl (by omega)), Sparse.get_set_same]
    | succ k =>
      rw [show a + (k + 1) = (a + 1) + k by omega, ih (by simpa using h)]; rfl

end Sys2Proof.Machine
end

