-- ==== Sys2Proof/Laws/Regs.lean ====
section
/-! SUPPORT. Laws of the register file and of the plain updates of the shared part of the state: which field an update
touches, and what a register and a field read after a write. -/

set_option Elab.async false

namespace Sys2Proof.Machine

/-! ### One field per update -/

@[simp] theorem Io.setReg_latch (s : Io) (a : Nat) (v : BitVec 32) : (s.setReg a v).latch = s.latch := rfl
@[simp] theorem Io.setReg_wideHold (s : Io) (a : Nat) (v : BitVec 32) : (s.setReg a v).wideHold = s.wideHold := rfl
@[simp] theorem Io.setReg_cnt (s : Io) (a : Nat) (v : BitVec 32) : (s.setReg a v).cnt = s.cnt := rfl
@[simp] theorem Io.setReg_snap (s : Io) (a : Nat) (v : BitVec 32) : (s.setReg a v).snap = s.snap := rfl
@[simp] theorem Io.setReg_rings (s : Io) (a : Nat) (v : BitVec 32) : (s.setReg a v).rings = s.rings := rfl
@[simp] theorem Io.setReg_tc (s : Io) (a : Nat) (v : BitVec 32) : (s.setReg a v).tc = s.tc := rfl
@[simp] theorem Io.setReg_walks (s : Io) (a : Nat) (v : BitVec 32) : (s.setReg a v).walks = s.walks := rfl
@[simp] theorem Io.setReg_reads (s : Io) (a : Nat) (v : BitVec 32) : (s.setReg a v).reads = s.reads := rfl
@[simp] theorem Io.setReg_badReads (s : Io) (a : Nat) (v : BitVec 32) : (s.setReg a v).badReads = s.badReads := rfl
@[simp] theorem Io.setReg_bar2 (s : Io) (a : Nat) (v : BitVec 32) : (s.setReg a v).bar2 = s.bar2 := rfl
@[simp] theorem Io.setReg_owed (s : Io) (a : Nat) (v : BitVec 32) : (s.setReg a v).owed = s.owed := rfl
@[simp] theorem Io.setReg_maxRead (s : Io) (a : Nat) (v : BitVec 32) : (s.setReg a v).maxRead = s.maxRead := rfl
@[simp] theorem Io.setReg_ops (s : Io) (a : Nat) (v : BitVec 32) : (s.setReg a v).ops = s.ops := rfl
@[simp] theorem Io.setReg_dram (s : Io) (a : Nat) (v : BitVec 32) : (s.setReg a v).dram = s.dram := rfl
@[simp] theorem Io.setReg_fwd (s : Io) (a : Nat) (v : BitVec 32) : (s.setReg a v).fwd = s.fwd := rfl
@[simp] theorem Io.setReg_fwdLost (s : Io) (a : Nat) (v : BitVec 32) : (s.setReg a v).fwdLost = s.fwdLost := rfl
@[simp] theorem Io.setReg_once (s : Io) (a : Nat) (v : BitVec 32) : (s.setReg a v).once = s.once := rfl
@[simp] theorem Io.setReg_meterUp (s : Io) (a : Nat) (v : BitVec 32) : (s.setReg a v).meterUp = s.meterUp := rfl
@[simp] theorem Io.setReg_linkUp (s : Io) (a : Nat) (v : BitVec 32) : (s.setReg a v).linkUp = s.linkUp := rfl
@[simp] theorem Io.setReg_d3hot (s : Io) (a : Nat) (v : BitVec 32) : (s.setReg a v).d3hot = s.d3hot := rfl
@[simp] theorem Io.setReg_fresh (s : Io) (a : Nat) (v : BitVec 32) : (s.setReg a v).fresh = s.fresh := rfl
@[simp] theorem Io.setReg_now (s : Io) (a : Nat) (v : BitVec 32) : (s.setReg a v).now = s.now := rfl
@[simp] theorem Io.setReg_out (s : Io) (a : Nat) (v : BitVec 32) : (s.setReg a v).out = s.out := rfl
@[simp] theorem Io.setF_latch (s : Io) (f : Field) (v : Nat) : (s.setF f v).latch = s.latch := rfl
@[simp] theorem Io.setF_wideHold (s : Io) (f : Field) (v : Nat) : (s.setF f v).wideHold = s.wideHold := rfl
@[simp] theorem Io.setF_cnt (s : Io) (f : Field) (v : Nat) : (s.setF f v).cnt = s.cnt := rfl
@[simp] theorem Io.setF_snap (s : Io) (f : Field) (v : Nat) : (s.setF f v).snap = s.snap := rfl
@[simp] theorem Io.setF_rings (s : Io) (f : Field) (v : Nat) : (s.setF f v).rings = s.rings := rfl
@[simp] theorem Io.setF_tc (s : Io) (f : Field) (v : Nat) : (s.setF f v).tc = s.tc := rfl
@[simp] theorem Io.setF_walks (s : Io) (f : Field) (v : Nat) : (s.setF f v).walks = s.walks := rfl
@[simp] theorem Io.setF_reads (s : Io) (f : Field) (v : Nat) : (s.setF f v).reads = s.reads := rfl
@[simp] theorem Io.setF_badReads (s : Io) (f : Field) (v : Nat) : (s.setF f v).badReads = s.badReads := rfl
@[simp] theorem Io.setF_bar2 (s : Io) (f : Field) (v : Nat) : (s.setF f v).bar2 = s.bar2 := rfl
@[simp] theorem Io.setF_owed (s : Io) (f : Field) (v : Nat) : (s.setF f v).owed = s.owed := rfl
@[simp] theorem Io.setF_maxRead (s : Io) (f : Field) (v : Nat) : (s.setF f v).maxRead = s.maxRead := rfl
@[simp] theorem Io.setF_ops (s : Io) (f : Field) (v : Nat) : (s.setF f v).ops = s.ops := rfl
@[simp] theorem Io.setF_dram (s : Io) (f : Field) (v : Nat) : (s.setF f v).dram = s.dram := rfl
@[simp] theorem Io.setF_fwd (s : Io) (f : Field) (v : Nat) : (s.setF f v).fwd = s.fwd := rfl
@[simp] theorem Io.setF_fwdLost (s : Io) (f : Field) (v : Nat) : (s.setF f v).fwdLost = s.fwdLost := rfl
@[simp] theorem Io.setF_once (s : Io) (f : Field) (v : Nat) : (s.setF f v).once = s.once := rfl
@[simp] theorem Io.setF_meterUp (s : Io) (f : Field) (v : Nat) : (s.setF f v).meterUp = s.meterUp := rfl
@[simp] theorem Io.setF_linkUp (s : Io) (f : Field) (v : Nat) : (s.setF f v).linkUp = s.linkUp := rfl
@[simp] theorem Io.setF_d3hot (s : Io) (f : Field) (v : Nat) : (s.setF f v).d3hot = s.d3hot := rfl
@[simp] theorem Io.setF_fresh (s : Io) (f : Field) (v : Nat) : (s.setF f v).fresh = s.fresh := rfl
@[simp] theorem Io.setF_now (s : Io) (f : Field) (v : Nat) : (s.setF f v).now = s.now := rfl
@[simp] theorem Io.setF_out (s : Io) (f : Field) (v : Nat) : (s.setF f v).out = s.out := rfl
@[simp] theorem Io.bumpF_latch (s : Io) (f : Field) (n : Nat) : (s.bumpF f n).latch = s.latch := by simp only [Io.bumpF, Io.setF, Io.setReg]
@[simp] theorem Io.bumpF_wideHold (s : Io) (f : Field) (n : Nat) : (s.bumpF f n).wideHold = s.wideHold := by simp only [Io.bumpF, Io.setF, Io.setReg]
@[simp] theorem Io.bumpF_cnt (s : Io) (f : Field) (n : Nat) : (s.bumpF f n).cnt = s.cnt := by simp only [Io.bumpF, Io.setF, Io.setReg]
@[simp] theorem Io.bumpF_snap (s : Io) (f : Field) (n : Nat) : (s.bumpF f n).snap = s.snap := by simp only [Io.bumpF, Io.setF, Io.setReg]
@[simp] theorem Io.bumpF_rings (s : Io) (f : Field) (n : Nat) : (s.bumpF f n).rings = s.rings := by simp only [Io.bumpF, Io.setF, Io.setReg]
@[simp] theorem Io.bumpF_tc (s : Io) (f : Field) (n : Nat) : (s.bumpF f n).tc = s.tc := by simp only [Io.bumpF, Io.setF, Io.setReg]
@[simp] theorem Io.bumpF_walks (s : Io) (f : Field) (n : Nat) : (s.bumpF f n).walks = s.walks := by simp only [Io.bumpF, Io.setF, Io.setReg]
@[simp] theorem Io.bumpF_reads (s : Io) (f : Field) (n : Nat) : (s.bumpF f n).reads = s.reads := by simp only [Io.bumpF, Io.setF, Io.setReg]
@[simp] theorem Io.bumpF_badReads (s : Io) (f : Field) (n : Nat) : (s.bumpF f n).badReads = s.badReads := by simp only [Io.bumpF, Io.setF, Io.setReg]
@[simp] theorem Io.bumpF_bar2 (s : Io) (f : Field) (n : Nat) : (s.bumpF f n).bar2 = s.bar2 := by simp only [Io.bumpF, Io.setF, Io.setReg]
@[simp] theorem Io.bumpF_owed (s : Io) (f : Field) (n : Nat) : (s.bumpF f n).owed = s.owed := by simp only [Io.bumpF, Io.setF, Io.setReg]
@[simp] theorem Io.bumpF_maxRead (s : Io) (f : Field) (n : Nat) : (s.bumpF f n).maxRead = s.maxRead := by simp only [Io.bumpF, Io.setF, Io.setReg]
@[simp] theorem Io.bumpF_ops (s : Io) (f : Field) (n : Nat) : (s.bumpF f n).ops = s.ops := by simp only [Io.bumpF, Io.setF, Io.setReg]
@[simp] theorem Io.bumpF_dram (s : Io) (f : Field) (n : Nat) : (s.bumpF f n).dram = s.dram := by simp only [Io.bumpF, Io.setF, Io.setReg]
@[simp] theorem Io.bumpF_fwd (s : Io) (f : Field) (n : Nat) : (s.bumpF f n).fwd = s.fwd := by simp only [Io.bumpF, Io.setF, Io.setReg]
@[simp] theorem Io.bumpF_fwdLost (s : Io) (f : Field) (n : Nat) : (s.bumpF f n).fwdLost = s.fwdLost := by simp only [Io.bumpF, Io.setF, Io.setReg]
@[simp] theorem Io.bumpF_once (s : Io) (f : Field) (n : Nat) : (s.bumpF f n).once = s.once := by simp only [Io.bumpF, Io.setF, Io.setReg]
@[simp] theorem Io.bumpF_meterUp (s : Io) (f : Field) (n : Nat) : (s.bumpF f n).meterUp = s.meterUp := by simp only [Io.bumpF, Io.setF, Io.setReg]
@[simp] theorem Io.bumpF_linkUp (s : Io) (f : Field) (n : Nat) : (s.bumpF f n).linkUp = s.linkUp := by simp only [Io.bumpF, Io.setF, Io.setReg]
@[simp] theorem Io.bumpF_d3hot (s : Io) (f : Field) (n : Nat) : (s.bumpF f n).d3hot = s.d3hot := by simp only [Io.bumpF, Io.setF, Io.setReg]
@[simp] theorem Io.bumpF_fresh (s : Io) (f : Field) (n : Nat) : (s.bumpF f n).fresh = s.fresh := by simp only [Io.bumpF, Io.setF, Io.setReg]
@[simp] theorem Io.bumpF_now (s : Io) (f : Field) (n : Nat) : (s.bumpF f n).now = s.now := by simp only [Io.bumpF, Io.setF, Io.setReg]
@[simp] theorem Io.bumpF_out (s : Io) (f : Field) (n : Nat) : (s.bumpF f n).out = s.out := by simp only [Io.bumpF, Io.setF, Io.setReg]
@[simp] theorem Io.setWide_latch (s : Io) (lo hi : Field) (v : Nat) : (s.setWide lo hi v).latch = s.latch := by simp only [Io.setWide, Io.setF, Io.setReg]
@[simp] theorem Io.setWide_wideHold (s : Io) (lo hi : Field) (v : Nat) : (s.setWide lo hi v).wideHold = s.wideHold := by simp only [Io.setWide, Io.setF, Io.setReg]
@[simp] theorem Io.setWide_cnt (s : Io) (lo hi : Field) (v : Nat) : (s.setWide lo hi v).cnt = s.cnt := by simp only [Io.setWide, Io.setF, Io.setReg]
@[simp] theorem Io.setWide_snap (s : Io) (lo hi : Field) (v : Nat) : (s.setWide lo hi v).snap = s.snap := by simp only [Io.setWide, Io.setF, Io.setReg]
@[simp] theorem Io.setWide_rings (s : Io) (lo hi : Field) (v : Nat) : (s.setWide lo hi v).rings = s.rings := by simp only [Io.setWide, Io.setF, Io.setReg]
@[simp] theorem Io.setWide_tc (s : Io) (lo hi : Field) (v : Nat) : (s.setWide lo hi v).tc = s.tc := by simp only [Io.setWide, Io.setF, Io.setReg]
@[simp] theorem Io.setWide_walks (s : Io) (lo hi : Field) (v : Nat) : (s.setWide lo hi v).walks = s.walks := by simp only [Io.setWide, Io.setF, Io.setReg]
@[simp] theorem Io.setWide_reads (s : Io) (lo hi : Field) (v : Nat) : (s.setWide lo hi v).reads = s.reads := by simp only [Io.setWide, Io.setF, Io.setReg]
@[simp] theorem Io.setWide_badReads (s : Io) (lo hi : Field) (v : Nat) : (s.setWide lo hi v).badReads = s.badReads := by simp only [Io.setWide, Io.setF, Io.setReg]
@[simp] theorem Io.setWide_bar2 (s : Io) (lo hi : Field) (v : Nat) : (s.setWide lo hi v).bar2 = s.bar2 := by simp only [Io.setWide, Io.setF, Io.setReg]
@[simp] theorem Io.setWide_owed (s : Io) (lo hi : Field) (v : Nat) : (s.setWide lo hi v).owed = s.owed := by simp only [Io.setWide, Io.setF, Io.setReg]
@[simp] theorem Io.setWide_maxRead (s : Io) (lo hi : Field) (v : Nat) : (s.setWide lo hi v).maxRead = s.maxRead := by simp only [Io.setWide, Io.setF, Io.setReg]
@[simp] theorem Io.setWide_ops (s : Io) (lo hi : Field) (v : Nat) : (s.setWide lo hi v).ops = s.ops := by simp only [Io.setWide, Io.setF, Io.setReg]
@[simp] theorem Io.setWide_dram (s : Io) (lo hi : Field) (v : Nat) : (s.setWide lo hi v).dram = s.dram := by simp only [Io.setWide, Io.setF, Io.setReg]
@[simp] theorem Io.setWide_fwd (s : Io) (lo hi : Field) (v : Nat) : (s.setWide lo hi v).fwd = s.fwd := by simp only [Io.setWide, Io.setF, Io.setReg]
@[simp] theorem Io.setWide_fwdLost (s : Io) (lo hi : Field) (v : Nat) : (s.setWide lo hi v).fwdLost = s.fwdLost := by simp only [Io.setWide, Io.setF, Io.setReg]
@[simp] theorem Io.setWide_once (s : Io) (lo hi : Field) (v : Nat) : (s.setWide lo hi v).once = s.once := by simp only [Io.setWide, Io.setF, Io.setReg]
@[simp] theorem Io.setWide_meterUp (s : Io) (lo hi : Field) (v : Nat) : (s.setWide lo hi v).meterUp = s.meterUp := by simp only [Io.setWide, Io.setF, Io.setReg]
@[simp] theorem Io.setWide_linkUp (s : Io) (lo hi : Field) (v : Nat) : (s.setWide lo hi v).linkUp = s.linkUp := by simp only [Io.setWide, Io.setF, Io.setReg]
@[simp] theorem Io.setWide_d3hot (s : Io) (lo hi : Field) (v : Nat) : (s.setWide lo hi v).d3hot = s.d3hot := by simp only [Io.setWide, Io.setF, Io.setReg]
@[simp] theorem Io.setWide_fresh (s : Io) (lo hi : Field) (v : Nat) : (s.setWide lo hi v).fresh = s.fresh := by simp only [Io.setWide, Io.setF, Io.setReg]
@[simp] theorem Io.setWide_now (s : Io) (lo hi : Field) (v : Nat) : (s.setWide lo hi v).now = s.now := by simp only [Io.setWide, Io.setF, Io.setReg]
@[simp] theorem Io.setWide_out (s : Io) (lo hi : Field) (v : Nat) : (s.setWide lo hi v).out = s.out := by simp only [Io.setWide, Io.setF, Io.setReg]
@[simp] theorem Io.addWide_latch (s : Io) (lo hi : Field) (v : Nat) : (s.addWide lo hi v).latch = s.latch := by simp only [Io.addWide, Io.setWide, Io.setF, Io.setReg]
@[simp] theorem Io.addWide_wideHold (s : Io) (lo hi : Field) (v : Nat) : (s.addWide lo hi v).wideHold = s.wideHold := by simp only [Io.addWide, Io.setWide, Io.setF, Io.setReg]
@[simp] theorem Io.addWide_cnt (s : Io) (lo hi : Field) (v : Nat) : (s.addWide lo hi v).cnt = s.cnt := by simp only [Io.addWide, Io.setWide, Io.setF, Io.setReg]
@[simp] theorem Io.addWide_snap (s : Io) (lo hi : Field) (v : Nat) : (s.addWide lo hi v).snap = s.snap := by simp only [Io.addWide, Io.setWide, Io.setF, Io.setReg]
@[simp] theorem Io.addWide_rings (s : Io) (lo hi : Field) (v : Nat) : (s.addWide lo hi v).rings = s.rings := by simp only [Io.addWide, Io.setWide, Io.setF, Io.setReg]
@[simp] theorem Io.addWide_tc (s : Io) (lo hi : Field) (v : Nat) : (s.addWide lo hi v).tc = s.tc := by simp only [Io.addWide, Io.setWide, Io.setF, Io.setReg]
@[simp] theorem Io.addWide_walks (s : Io) (lo hi : Field) (v : Nat) : (s.addWide lo hi v).walks = s.walks := by simp only [Io.addWide, Io.setWide, Io.setF, Io.setReg]
@[simp] theorem Io.addWide_reads (s : Io) (lo hi : Field) (v : Nat) : (s.addWide lo hi v).reads = s.reads := by simp only [Io.addWide, Io.setWide, Io.setF, Io.setReg]
@[simp] theorem Io.addWide_badReads (s : Io) (lo hi : Field) (v : Nat) : (s.addWide lo hi v).badReads = s.badReads := by simp only [Io.addWide, Io.setWide, Io.setF, Io.setReg]
@[simp] theorem Io.addWide_bar2 (s : Io) (lo hi : Field) (v : Nat) : (s.addWide lo hi v).bar2 = s.bar2 := by simp only [Io.addWide, Io.setWide, Io.setF, Io.setReg]
@[simp] theorem Io.addWide_owed (s : Io) (lo hi : Field) (v : Nat) : (s.addWide lo hi v).owed = s.owed := by simp only [Io.addWide, Io.setWide, Io.setF, Io.setReg]
@[simp] theorem Io.addWide_maxRead (s : Io) (lo hi : Field) (v : Nat) : (s.addWide lo hi v).maxRead = s.maxRead := by simp only [Io.addWide, Io.setWide, Io.setF, Io.setReg]
@[simp] theorem Io.addWide_ops (s : Io) (lo hi : Field) (v : Nat) : (s.addWide lo hi v).ops = s.ops := by simp only [Io.addWide, Io.setWide, Io.setF, Io.setReg]
@[simp] theorem Io.addWide_dram (s : Io) (lo hi : Field) (v : Nat) : (s.addWide lo hi v).dram = s.dram := by simp only [Io.addWide, Io.setWide, Io.setF, Io.setReg]
@[simp] theorem Io.addWide_fwd (s : Io) (lo hi : Field) (v : Nat) : (s.addWide lo hi v).fwd = s.fwd := by simp only [Io.addWide, Io.setWide, Io.setF, Io.setReg]
@[simp] theorem Io.addWide_fwdLost (s : Io) (lo hi : Field) (v : Nat) : (s.addWide lo hi v).fwdLost = s.fwdLost := by simp only [Io.addWide, Io.setWide, Io.setF, Io.setReg]
@[simp] theorem Io.addWide_once (s : Io) (lo hi : Field) (v : Nat) : (s.addWide lo hi v).once = s.once := by simp only [Io.addWide, Io.setWide, Io.setF, Io.setReg]
@[simp] theorem Io.addWide_meterUp (s : Io) (lo hi : Field) (v : Nat) : (s.addWide lo hi v).meterUp = s.meterUp := by simp only [Io.addWide, Io.setWide, Io.setF, Io.setReg]
@[simp] theorem Io.addWide_linkUp (s : Io) (lo hi : Field) (v : Nat) : (s.addWide lo hi v).linkUp = s.linkUp := by simp only [Io.addWide, Io.setWide, Io.setF, Io.setReg]
@[simp] theorem Io.addWide_d3hot (s : Io) (lo hi : Field) (v : Nat) : (s.addWide lo hi v).d3hot = s.d3hot := by simp only [Io.addWide, Io.setWide, Io.setF, Io.setReg]
@[simp] theorem Io.addWide_fresh (s : Io) (lo hi : Field) (v : Nat) : (s.addWide lo hi v).fresh = s.fresh := by simp only [Io.addWide, Io.setWide, Io.setF, Io.setReg]
@[simp] theorem Io.addWide_now (s : Io) (lo hi : Field) (v : Nat) : (s.addWide lo hi v).now = s.now := by simp only [Io.addWide, Io.setWide, Io.setF, Io.setReg]
@[simp] theorem Io.addWide_out (s : Io) (lo hi : Field) (v : Nat) : (s.addWide lo hi v).out = s.out := by simp only [Io.addWide, Io.setWide, Io.setF, Io.setReg]
@[simp] theorem Io.emit_regs (s : Io) (o : Out) : (s.emit o).regs = s.regs := rfl
@[simp] theorem Io.emit_latch (s : Io) (o : Out) : (s.emit o).latch = s.latch := rfl
@[simp] theorem Io.emit_wideHold (s : Io) (o : Out) : (s.emit o).wideHold = s.wideHold := rfl
@[simp] theorem Io.emit_cnt (s : Io) (o : Out) : (s.emit o).cnt = s.cnt := rfl
@[simp] theorem Io.emit_snap (s : Io) (o : Out) : (s.emit o).snap = s.snap := rfl
@[simp] theorem Io.emit_rings (s : Io) (o : Out) : (s.emit o).rings = s.rings := rfl
@[simp] theorem Io.emit_tc (s : Io) (o : Out) : (s.emit o).tc = s.tc := rfl
@[simp] theorem Io.emit_walks (s : Io) (o : Out) : (s.emit o).walks = s.walks := rfl
@[simp] theorem Io.emit_reads (s : Io) (o : Out) : (s.emit o).reads = s.reads := rfl
@[simp] theorem Io.emit_badReads (s : Io) (o : Out) : (s.emit o).badReads = s.badReads := rfl
@[simp] theorem Io.emit_bar2 (s : Io) (o : Out) : (s.emit o).bar2 = s.bar2 := rfl
@[simp] theorem Io.emit_owed (s : Io) (o : Out) : (s.emit o).owed = s.owed := rfl
@[simp] theorem Io.emit_maxRead (s : Io) (o : Out) : (s.emit o).maxRead = s.maxRead := rfl
@[simp] theorem Io.emit_ops (s : Io) (o : Out) : (s.emit o).ops = s.ops := rfl
@[simp] theorem Io.emit_dram (s : Io) (o : Out) : (s.emit o).dram = s.dram := rfl
@[simp] theorem Io.emit_fwd (s : Io) (o : Out) : (s.emit o).fwd = s.fwd := rfl
@[simp] theorem Io.emit_fwdLost (s : Io) (o : Out) : (s.emit o).fwdLost = s.fwdLost := rfl
@[simp] theorem Io.emit_once (s : Io) (o : Out) : (s.emit o).once = s.once := rfl
@[simp] theorem Io.emit_meterUp (s : Io) (o : Out) : (s.emit o).meterUp = s.meterUp := rfl
@[simp] theorem Io.emit_linkUp (s : Io) (o : Out) : (s.emit o).linkUp = s.linkUp := rfl
@[simp] theorem Io.emit_d3hot (s : Io) (o : Out) : (s.emit o).d3hot = s.d3hot := rfl
@[simp] theorem Io.emit_fresh (s : Io) (o : Out) : (s.emit o).fresh = s.fresh := rfl
@[simp] theorem Io.emit_now (s : Io) (o : Out) : (s.emit o).now = s.now := rfl
@[simp] theorem Io.spend_regs (s : Io) : (s.spend).regs = s.regs := rfl
@[simp] theorem Io.spend_latch (s : Io) : (s.spend).latch = s.latch := rfl
@[simp] theorem Io.spend_wideHold (s : Io) : (s.spend).wideHold = s.wideHold := rfl
@[simp] theorem Io.spend_cnt (s : Io) : (s.spend).cnt = s.cnt := rfl
@[simp] theorem Io.spend_snap (s : Io) : (s.spend).snap = s.snap := rfl
@[simp] theorem Io.spend_rings (s : Io) : (s.spend).rings = s.rings := rfl
@[simp] theorem Io.spend_tc (s : Io) : (s.spend).tc = s.tc := rfl
@[simp] theorem Io.spend_walks (s : Io) : (s.spend).walks = s.walks := rfl
@[simp] theorem Io.spend_reads (s : Io) : (s.spend).reads = s.reads := rfl
@[simp] theorem Io.spend_badReads (s : Io) : (s.spend).badReads = s.badReads := rfl
@[simp] theorem Io.spend_bar2 (s : Io) : (s.spend).bar2 = s.bar2 := rfl
@[simp] theorem Io.spend_owed (s : Io) : (s.spend).owed = s.owed := rfl
@[simp] theorem Io.spend_maxRead (s : Io) : (s.spend).maxRead = s.maxRead := rfl
@[simp] theorem Io.spend_ops (s : Io) : (s.spend).ops = s.ops := rfl
@[simp] theorem Io.spend_dram (s : Io) : (s.spend).dram = s.dram := rfl
@[simp] theorem Io.spend_fwd (s : Io) : (s.spend).fwd = s.fwd := rfl
@[simp] theorem Io.spend_fwdLost (s : Io) : (s.spend).fwdLost = s.fwdLost := rfl
@[simp] theorem Io.spend_once (s : Io) : (s.spend).once = s.once := rfl
@[simp] theorem Io.spend_meterUp (s : Io) : (s.spend).meterUp = s.meterUp := rfl
@[simp] theorem Io.spend_linkUp (s : Io) : (s.spend).linkUp = s.linkUp := rfl
@[simp] theorem Io.spend_d3hot (s : Io) : (s.spend).d3hot = s.d3hot := rfl
@[simp] theorem Io.spend_now (s : Io) : (s.spend).now = s.now := rfl
@[simp] theorem Io.spend_out (s : Io) : (s.spend).out = s.out := rfl
@[simp] theorem Io.setRing_regs (s : Io) (n : Nat) (r : Ring) : (s.setRing n r).regs = s.regs := rfl
@[simp] theorem Io.setRing_latch (s : Io) (n : Nat) (r : Ring) : (s.setRing n r).latch = s.latch := rfl
@[simp] theorem Io.setRing_wideHold (s : Io) (n : Nat) (r : Ring) : (s.setRing n r).wideHold = s.wideHold := rfl
@[simp] theorem Io.setRing_cnt (s : Io) (n : Nat) (r : Ring) : (s.setRing n r).cnt = s.cnt := rfl
@[simp] theorem Io.setRing_snap (s : Io) (n : Nat) (r : Ring) : (s.setRing n r).snap = s.snap := rfl
@[simp] theorem Io.setRing_tc (s : Io) (n : Nat) (r : Ring) : (s.setRing n r).tc = s.tc := rfl
@[simp] theorem Io.setRing_walks (s : Io) (n : Nat) (r : Ring) : (s.setRing n r).walks = s.walks := rfl
@[simp] theorem Io.setRing_reads (s : Io) (n : Nat) (r : Ring) : (s.setRing n r).reads = s.reads := rfl
@[simp] theorem Io.setRing_badReads (s : Io) (n : Nat) (r : Ring) : (s.setRing n r).badReads = s.badReads := rfl
@[simp] theorem Io.setRing_bar2 (s : Io) (n : Nat) (r : Ring) : (s.setRing n r).bar2 = s.bar2 := rfl
@[simp] theorem Io.setRing_owed (s : Io) (n : Nat) (r : Ring) : (s.setRing n r).owed = s.owed := rfl
@[simp] theorem Io.setRing_maxRead (s : Io) (n : Nat) (r : Ring) : (s.setRing n r).maxRead = s.maxRead := rfl
@[simp] theorem Io.setRing_ops (s : Io) (n : Nat) (r : Ring) : (s.setRing n r).ops = s.ops := rfl
@[simp] theorem Io.setRing_dram (s : Io) (n : Nat) (r : Ring) : (s.setRing n r).dram = s.dram := rfl
@[simp] theorem Io.setRing_fwd (s : Io) (n : Nat) (r : Ring) : (s.setRing n r).fwd = s.fwd := rfl
@[simp] theorem Io.setRing_fwdLost (s : Io) (n : Nat) (r : Ring) : (s.setRing n r).fwdLost = s.fwdLost := rfl
@[simp] theorem Io.setRing_once (s : Io) (n : Nat) (r : Ring) : (s.setRing n r).once = s.once := rfl
@[simp] theorem Io.setRing_meterUp (s : Io) (n : Nat) (r : Ring) : (s.setRing n r).meterUp = s.meterUp := rfl
@[simp] theorem Io.setRing_linkUp (s : Io) (n : Nat) (r : Ring) : (s.setRing n r).linkUp = s.linkUp := rfl
@[simp] theorem Io.setRing_d3hot (s : Io) (n : Nat) (r : Ring) : (s.setRing n r).d3hot = s.d3hot := rfl
@[simp] theorem Io.setRing_fresh (s : Io) (n : Nat) (r : Ring) : (s.setRing n r).fresh = s.fresh := rfl
@[simp] theorem Io.setRing_now (s : Io) (n : Nat) (r : Ring) : (s.setRing n r).now = s.now := rfl
@[simp] theorem Io.setRing_out (s : Io) (n : Nat) (r : Ring) : (s.setRing n r).out = s.out := rfl
@[simp] theorem Io.writeDram_regs (s : Io) (a : Nat) (bs : List Byte) : (s.writeDram a bs).regs = s.regs := rfl
@[simp] theorem Io.writeDram_latch (s : Io) (a : Nat) (bs : List Byte) : (s.writeDram a bs).latch = s.latch := rfl
@[simp] theorem Io.writeDram_wideHold (s : Io) (a : Nat) (bs : List Byte) : (s.writeDram a bs).wideHold = s.wideHold := rfl
@[simp] theorem Io.writeDram_cnt (s : Io) (a : Nat) (bs : List Byte) : (s.writeDram a bs).cnt = s.cnt := rfl
@[simp] theorem Io.writeDram_snap (s : Io) (a : Nat) (bs : List Byte) : (s.writeDram a bs).snap = s.snap := rfl
@[simp] theorem Io.writeDram_rings (s : Io) (a : Nat) (bs : List Byte) : (s.writeDram a bs).rings = s.rings := rfl
@[simp] theorem Io.writeDram_tc (s : Io) (a : Nat) (bs : List Byte) : (s.writeDram a bs).tc = s.tc := rfl
@[simp] theorem Io.writeDram_walks (s : Io) (a : Nat) (bs : List Byte) : (s.writeDram a bs).walks = s.walks := rfl
@[simp] theorem Io.writeDram_reads (s : Io) (a : Nat) (bs : List Byte) : (s.writeDram a bs).reads = s.reads := rfl
@[simp] theorem Io.writeDram_badReads (s : Io) (a : Nat) (bs : List Byte) : (s.writeDram a bs).badReads = s.badReads := rfl
@[simp] theorem Io.writeDram_bar2 (s : Io) (a : Nat) (bs : List Byte) : (s.writeDram a bs).bar2 = s.bar2 := rfl
@[simp] theorem Io.writeDram_owed (s : Io) (a : Nat) (bs : List Byte) : (s.writeDram a bs).owed = s.owed := rfl
@[simp] theorem Io.writeDram_maxRead (s : Io) (a : Nat) (bs : List Byte) : (s.writeDram a bs).maxRead = s.maxRead := rfl
@[simp] theorem Io.writeDram_ops (s : Io) (a : Nat) (bs : List Byte) : (s.writeDram a bs).ops = s.ops := rfl
@[simp] theorem Io.writeDram_fwd (s : Io) (a : Nat) (bs : List Byte) : (s.writeDram a bs).fwd = s.fwd := rfl
@[simp] theorem Io.writeDram_fwdLost (s : Io) (a : Nat) (bs : List Byte) : (s.writeDram a bs).fwdLost = s.fwdLost := rfl
@[simp] theorem Io.writeDram_once (s : Io) (a : Nat) (bs : List Byte) : (s.writeDram a bs).once = s.once := rfl
@[simp] theorem Io.writeDram_meterUp (s : Io) (a : Nat) (bs : List Byte) : (s.writeDram a bs).meterUp = s.meterUp := rfl
@[simp] theorem Io.writeDram_linkUp (s : Io) (a : Nat) (bs : List Byte) : (s.writeDram a bs).linkUp = s.linkUp := rfl
@[simp] theorem Io.writeDram_d3hot (s : Io) (a : Nat) (bs : List Byte) : (s.writeDram a bs).d3hot = s.d3hot := rfl
@[simp] theorem Io.writeDram_fresh (s : Io) (a : Nat) (bs : List Byte) : (s.writeDram a bs).fresh = s.fresh := rfl
@[simp] theorem Io.writeDram_now (s : Io) (a : Nat) (bs : List Byte) : (s.writeDram a bs).now = s.now := rfl
@[simp] theorem Io.writeDram_out (s : Io) (a : Nat) (bs : List Byte) : (s.writeDram a bs).out = s.out := rfl
@[simp] theorem Io.at_regs (s : Io) (t : Nat) : (s.at t).regs = s.regs := rfl
@[simp] theorem Io.at_latch (s : Io) (t : Nat) : (s.at t).latch = s.latch := rfl
@[simp] theorem Io.at_wideHold (s : Io) (t : Nat) : (s.at t).wideHold = s.wideHold := rfl
@[simp] theorem Io.at_cnt (s : Io) (t : Nat) : (s.at t).cnt = s.cnt := rfl
@[simp] theorem Io.at_snap (s : Io) (t : Nat) : (s.at t).snap = s.snap := rfl
@[simp] theorem Io.at_rings (s : Io) (t : Nat) : (s.at t).rings = s.rings := rfl
@[simp] theorem Io.at_tc (s : Io) (t : Nat) : (s.at t).tc = s.tc := rfl
@[simp] theorem Io.at_walks (s : Io) (t : Nat) : (s.at t).walks = s.walks := rfl
@[simp] theorem Io.at_reads (s : Io) (t : Nat) : (s.at t).reads = s.reads := rfl
@[simp] theorem Io.at_badReads (s : Io) (t : Nat) : (s.at t).badReads = s.badReads := rfl
@[simp] theorem Io.at_bar2 (s : Io) (t : Nat) : (s.at t).bar2 = s.bar2 := rfl
@[simp] theorem Io.at_owed (s : Io) (t : Nat) : (s.at t).owed = s.owed := rfl
@[simp] theorem Io.at_maxRead (s : Io) (t : Nat) : (s.at t).maxRead = s.maxRead := rfl
@[simp] theorem Io.at_ops (s : Io) (t : Nat) : (s.at t).ops = s.ops := rfl
@[simp] theorem Io.at_dram (s : Io) (t : Nat) : (s.at t).dram = s.dram := rfl
@[simp] theorem Io.at_fwd (s : Io) (t : Nat) : (s.at t).fwd = s.fwd := rfl
@[simp] theorem Io.at_fwdLost (s : Io) (t : Nat) : (s.at t).fwdLost = s.fwdLost := rfl
@[simp] theorem Io.at_once (s : Io) (t : Nat) : (s.at t).once = s.once := rfl
@[simp] theorem Io.at_meterUp (s : Io) (t : Nat) : (s.at t).meterUp = s.meterUp := rfl
@[simp] theorem Io.at_linkUp (s : Io) (t : Nat) : (s.at t).linkUp = s.linkUp := rfl
@[simp] theorem Io.at_d3hot (s : Io) (t : Nat) : (s.at t).d3hot = s.d3hot := rfl
@[simp] theorem Io.at_fresh (s : Io) (t : Nat) : (s.at t).fresh = s.fresh := rfl
@[simp] theorem Io.at_out (s : Io) (t : Nat) : (s.at t).out = s.out := rfl

/-! ### Registers -/

@[simp] theorem Io.getReg_setReg_same (s : Io) (a : Nat) (v : BitVec 32) : (s.setReg a v).getReg a = v := Sparse.get_set_same _ _ _ _

theorem Io.getReg_setReg_other (s : Io) {a b : Nat} (v : BitVec 32) (h : b ≠ a) : (s.setReg a v).getReg b = s.getReg b :=
  Sparse.get_set_other _ _ _ h

theorem Io.getReg_setF_other (s : Io) {f : Field} {b : Nat} (v : Nat) (h : b ≠ f.reg) : (s.setF f v).getReg b = s.getReg b :=
  Sparse.get_set_other _ _ _ h

theorem Io.getReg_bumpF_other (s : Io) {f : Field} {b : Nat} (n : Nat) (h : b ≠ f.reg) : (s.bumpF f n).getReg b = s.getReg b :=
  Sparse.get_set_other _ _ _ h

theorem Io.getReg_setWide_other (s : Io) {lo hi : Field} {b : Nat} (v : Nat) (h : b ≠ lo.reg) (h' : b ≠ hi.reg) :
    (s.setWide lo hi v).getReg b = s.getReg b := by
  unfold Io.setWide; rw [Io.getReg_setF_other _ _ h', Io.getReg_setF_other _ _ h]

@[simp] theorem Io.getReg_emit (s : Io) (o : Out) (a : Nat) : (s.emit o).getReg a = s.getReg a := rfl
@[simp] theorem Io.getReg_spend (s : Io) (a : Nat) : s.spend.getReg a = s.getReg a := rfl
@[simp] theorem Io.getReg_setRing (s : Io) (n : Nat) (r : Ring) (a : Nat) : (s.setRing n r).getReg a = s.getReg a := rfl
@[simp] theorem Io.getReg_writeDram (s : Io) (x : Nat) (bs : List Byte) (a : Nat) : (s.writeDram x bs).getReg a = s.getReg a := rfl
@[simp] theorem Io.getReg_at (s : Io) (t : Nat) (a : Nat) : (s.at t).getReg a = s.getReg a := rfl
@[simp] theorem Io.getF_emit (s : Io) (o : Out) (f : Field) : (s.emit o).getF f = s.getF f := rfl
@[simp] theorem Io.getF_setRing (s : Io) (n : Nat) (r : Ring) (f : Field) : (s.setRing n r).getF f = s.getF f := rfl
@[simp] theorem Io.getF_writeDram (s : Io) (x : Nat) (bs : List Byte) (f : Field) : (s.writeDram x bs).getF f = s.getF f := rfl
@[simp] theorem Io.getF_at (s : Io) (t : Nat) (f : Field) : (s.at t).getF f = s.getF f := rfl

/-! ### Fields -/

theorem Io.getF_lt (s : Io) (f : Field) : s.getF f < 2 ^ f.width := bits_lt _ _ _

theorem Io.toNat_putBits (s : Io) (a lo w v : Nat) (h : lo + w ≤ 32) :
    (BitVec.ofNat 32 (putBits (s.getReg a).toNat lo w v)).toNat = putBits (s.getReg a).toNat lo w v := by
  rw [BitVec.toNat_ofNat]; exact Nat.mod_eq_of_lt (putBits_lt h (s.getReg a).isLt)

/-- A field reads what was written to it. -/
theorem Io.getF_setF_same (s : Io) (f : Field) (v : Nat) (h : f.lo + f.width ≤ 32) : (s.setF f v).getF f = v % 2 ^ f.width := by
  unfold Io.getF Io.setF
  rw [Io.getReg_setReg_same, Io.toNat_putBits _ _ _ _ _ h, bits_putBits]

/-- A field of another register keeps its value. -/
theorem Io.getF_setF_other (s : Io) {f g : Field} (v : Nat) (h : g.reg ≠ f.reg) : (s.setF f v).getF g = s.getF g := by
  unfold Io.getF; rw [Io.getReg_setF_other _ _ h]

/-- A field of the same register that shares no bit with the one written keeps its value. -/
theorem Io.getF_setF_apart (s : Io) {f g : Field} (v : Nat) (hr : g.reg = f.reg) (h : f.lo + f.width ≤ 32)
    (ha : g.lo + g.width ≤ f.lo ∨ f.lo + f.width ≤ g.lo) : (s.setF f v).getF g = s.getF g := by
  unfold Io.getF Io.setF
  rw [hr, Io.getReg_setReg_same, Io.toNat_putBits _ _ _ _ _ h]
  rcases ha with ha | ha
  · exact bits_putBits_below ha
  · exact bits_putBits_above ha

theorem Io.getF_bumpF_other (s : Io) {f g : Field} (n : Nat) (h : g.reg ≠ f.reg) : (s.bumpF f n).getF g = s.getF g :=
  Io.getF_setF_other s _ h

theorem Io.getF_bumpF_apart (s : Io) {f g : Field} (n : Nat) (hr : g.reg = f.reg) (h : f.lo + f.width ≤ 32)
    (ha : g.lo + g.width ≤ f.lo ∨ f.lo + f.width ≤ g.lo) : (s.bumpF f n).getF g = s.getF g := Io.getF_setF_apart s _ hr h ha

/-- A counter field saturates at its greatest value. -/
theorem Io.getF_bumpF_same (s : Io) (f : Field) (n : Nat) (h : f.lo + f.width ≤ 32) :
    (s.bumpF f n).getF f = min (s.getF f + n) (2 ^ f.width - 1) := by
  unfold Io.bumpF
  rw [Io.getF_setF_same _ _ _ h, Nat.mod_eq_of_lt]
  have := Nat.two_pow_pos f.width
  omega

/-- A field of a register written whole. -/
theorem Io.getF_setReg_same (s : Io) (f : Field) (v : BitVec 32) : (s.setReg f.reg v).getF f = bits v.toNat f.lo f.width := by
  unfold Io.getF; rw [Io.getReg_setReg_same]

theorem Io.getF_setReg_other (s : Io) {f : Field} {a : Nat} (v : BitVec 32) (h : f.reg ≠ a) : (s.setReg a v).getF f = s.getF f := by
  unfold Io.getF; rw [Io.getReg_setReg_other _ _ h]

/-! ### The whole state's views -/

@[simp] theorem State.on_io (s : State) (f : Io → Io) : (s.on f).io = f s.io := rfl
@[simp] theorem State.setF_io (s : State) (f : Field) (v : Nat) : (s.setF f v).io = s.io.setF f v := rfl
@[simp] theorem State.bumpF_io (s : State) (f : Field) (n : Nat) : (s.bumpF f n).io = s.io.bumpF f n := rfl
@[simp] theorem State.fire_io (s : State) (e : Nat) : (s.fire e).io = s.io.fire e := rfl
@[simp] theorem State.emit_io (s : State) (o : Out) : (s.emit o).io = s.io.emit o := rfl

end Sys2Proof.Machine
end

