-- ==== Sys2Proof/Laws/Keeps.lean ====
section
/-! SUPPORT. What every operation of the device keeps: the commands that wait, the canonical form of memory, of the register file
and of the rings, the four operation tables; time and the numbering of free values only go up; and every part of the state outside
a set of parts. The relation, and the laws by which it passes through lets, folds and plain updates. The set is the bits of a number. -/

namespace Sys2Proof.Machine

/-- Part `p` is in the set `m`. -/
def Has (p m : Nat) : Prop := Nat.testBit m p = true

/-- The set `a` is within `m`. -/
def Sub (a m : Nat) : Prop := Nat.land a m = a

theorem Sub.of {a b m : Nat} (h : Sub b m) (e : Nat.beq (Nat.land a b) a = true) : Sub a m := by
  have e' : a &&& b = a := Nat.eq_of_beq_eq_true e
  have h' : b &&& m = b := h
  show a &&& m = a
  rw [← e', Nat.and_assoc, h']

theorem Has.of {p b m : Nat} (h : Sub b m) (e : Nat.testBit b p = true) : Has p m := by
  have h' : b &&& m = b := h
  unfold Has
  rw [← h', Nat.testBit_and, Bool.and_eq_true] at e
  exact e.2

/-- The shared part of the state is in form: memory, registers and rings canonical, and four operation tables. -/
structure Io.Formed (s : Io) : Prop where
  dram : Sparse.wf dramDefault s.dram = true
  regs : Sparse.wf regReset s.regs = true
  rings : Sparse.wf (fun _ => ({} : Ring)) s.rings = true
  ops : s.ops.length = 4

/-- Part `p` is in the set, or the two values are the same. -/
def Alike {α : Type} (p m : Nat) (a b : α) : Prop := Has p m ∨ b = a

theorem Alike.refl {α : Type} {p m : Nat} (a : α) : Alike p m a a := .inr rfl
theorem Alike.has {α : Type} {p m : Nat} {a b : α} (h : Has p m) : Alike p m a b := .inl h
theorem Alike.trans {α : Type} {p m : Nat} {a b c : α} (h : Alike p m a b) (k : Alike p m b c) : Alike p m a c :=
  h.elim .inl (fun e => k.elim .inl (fun f => .inr (f.trans e)))

/-- `t` follows from `s` by operations of the device that touch parts of `m` only. -/
structure Io.Keeps (m : Nat) (s t : Io) : Prop where
  formed : s.Formed → t.Formed
  upNow : s.now ≤ t.now
  upFresh : s.fresh ≤ t.fresh
  regs : ∀ a, (∀ p, Has p m → ¬ RegOf p a) → t.getReg a = s.getReg a
  latch : Alike Part.latches m s.latch t.latch
  wideHold : Alike Part.latches m s.wideHold t.wideHold
  cnt : Alike Part.collector m s.cnt t.cnt
  snap : Alike Part.latches m s.snap t.snap
  rings : Alike Part.rings m s.rings t.rings
  tc : Alike Part.caches m s.tc t.tc
  walks : Alike Part.caches m s.walks t.walks
  ops : Alike Part.caches m s.ops t.ops
  reads : Alike Part.caches m s.reads t.reads
  badReads : Alike Part.caches m s.badReads t.badReads
  bar2 : Alike Part.caches m s.bar2 t.bar2
  owed : Alike Part.caches m s.owed t.owed
  maxRead : Alike Part.caches m s.maxRead t.maxRead
  dram : Alike Part.dram m s.dram t.dram
  fwd : Alike Part.collector m s.fwd t.fwd
  fwdLost : Alike Part.collector m s.fwdLost t.fwdLost
  once : Alike Part.collector m s.once t.once
  meterUp : Alike Part.power m s.meterUp t.meterUp
  linkUp : Alike Part.power m s.linkUp t.linkUp
  d3hot : Alike Part.power m s.d3hot t.d3hot
  fresh : Alike Part.fresh m s.fresh t.fresh
  now : Alike Part.now m s.now t.now
  out : Alike Part.out m s.out t.out

/-- `t` follows from `s` by operations of the device that touch parts of `m` only, and the commands that wait are the same. -/
structure State.Keeps (m : Nat) (s t : State) : Prop where
  pending : t.pending = s.pending
  io : Io.Keeps m s.io t.io
  tick : Alike Part.tick m s.tick t.tick
  link : Alike Part.link m s.link t.link
  tiles : Alike Part.tiles m s.tiles t.tiles
  chans : Alike Part.chans m s.chans t.chans
  host : Alike Part.host m s.host t.host
  plan : Alike Part.plan m s.plan t.plan
  boot : Alike Part.boot m s.boot t.boot
  therm : Alike Part.therm m s.therm t.therm
  pairUnit : Alike Part.pairUnit m s.pairUnit t.pairUnit
  video : Alike Part.video m s.video t.video
  lamp : Alike Part.lamp m s.lamp t.lamp
  wall : Alike Part.wall m s.wall t.wall
  audio : Alike Part.audio m s.audio t.audio
  meter : Alike Part.meter m s.meter t.meter
  jtag : Alike Part.jtag m s.jtag t.jtag

/-- Every next state that an outcome answers follows from `s`. -/
structure Result.Keeps (m : Nat) (s : State) (r : Result) : Prop where
  next : ∀ t, r = .next t → State.Keeps m s t

theorem Result.next_keeps {m : Nat} {s t : State} (h : State.Keeps m s t) : Result.Keeps m s (.next t) := by
  constructor
  intro u e
  cases e
  exact h

theorem Io.Keeps.refl {m : Nat} (s : Io) : Io.Keeps m s s :=
  ⟨id, le_refl _, le_refl _, fun _ _ => rfl, .refl _, .refl _, .refl _, .refl _, .refl _, .refl _, .refl _, .refl _, .refl _, .refl _, .refl _, .refl _, .refl _, .refl _, .refl _, .refl _, .refl _, .refl _, .refl _, .refl _, .refl _, .refl _, .refl _⟩
theorem State.Keeps.refl {m : Nat} (s : State) : State.Keeps m s s :=
  ⟨rfl, .refl _, .refl _, .refl _, .refl _, .refl _, .refl _, .refl _, .refl _, .refl _, .refl _, .refl _, .refl _, .refl _, .refl _, .refl _, .refl _⟩

theorem Io.Keeps.trans {m : Nat} {s t u : Io} (h : Io.Keeps m s t) (k : Io.Keeps m t u) : Io.Keeps m s u :=
  ⟨fun x => k.formed (h.formed x), h.upNow.trans k.upNow, h.upFresh.trans k.upFresh, fun a ha => (k.regs a ha).trans (h.regs a ha),
    h.latch.trans k.latch, h.wideHold.trans k.wideHold, h.cnt.trans k.cnt, h.snap.trans k.snap, h.rings.trans k.rings, h.tc.trans k.tc, h.walks.trans k.walks, h.ops.trans k.ops, h.reads.trans k.reads, h.badReads.trans k.badReads, h.bar2.trans k.bar2, h.owed.trans k.owed, h.maxRead.trans k.maxRead, h.dram.trans k.dram, h.fwd.trans k.fwd, h.fwdLost.trans k.fwdLost, h.once.trans k.once, h.meterUp.trans k.meterUp, h.linkUp.trans k.linkUp, h.d3hot.trans k.d3hot, h.fresh.trans k.fresh, h.now.trans k.now, h.out.trans k.out⟩

theorem State.Keeps.trans {m : Nat} {s t u : State} (h : State.Keeps m s t) (k : State.Keeps m t u) : State.Keeps m s u :=
  ⟨k.pending.trans h.pending, h.io.trans k.io,
    h.tick.trans k.tick, h.link.trans k.link, h.tiles.trans k.tiles, h.chans.trans k.chans, h.host.trans k.host, h.plan.trans k.plan, h.boot.trans k.boot, h.therm.trans k.therm, h.pairUnit.trans k.pairUnit, h.video.trans k.video, h.lamp.trans k.lamp, h.wall.trans k.wall, h.audio.trans k.audio, h.meter.trans k.meter, h.jtag.trans k.jtag⟩

theorem State.Keeps.toIo {m : Nat} {s0 s : State} {io : Io} (h : State.Keeps m s0 s) (k : Io.Keeps m s0.io io) : State.Keeps m s0 { s with io := io } :=
  ⟨h.pending, k, h.tick, h.link, h.tiles, h.chans, h.host, h.plan, h.boot, h.therm, h.pairUnit, h.video, h.lamp, h.wall, h.audio, h.meter, h.jtag⟩

/-- A record update of the shared part that leaves registers, rings, tables, memory, time and the numbering. -/
theorem Io.mk_keeps {m : Nat} {s0 s : Io} {latch wideHold cnt snap tc walks reads badReads bar2 owed maxRead fwd fwdLost once meterUp linkUp d3hot out} (x : Io.Keeps m s0 s)
    (h_latch : Alike Part.latches m s.latch latch := by first | with_reducible exact Alike.refl _ | exact Alike.has (Has.of (by assumption) rfl)) (h_wideHold : Alike Part.latches m s.wideHold wideHold := by first | with_reducible exact Alike.refl _ | exact Alike.has (Has.of (by assumption) rfl)) (h_cnt : Alike Part.collector m s.cnt cnt := by first | with_reducible exact Alike.refl _ | exact Alike.has (Has.of (by assumption) rfl)) (h_snap : Alike Part.latches m s.snap snap := by first | with_reducible exact Alike.refl _ | exact Alike.has (Has.of (by assumption) rfl)) (h_tc : Alike Part.caches m s.tc tc := by first | with_reducible exact Alike.refl _ | exact Alike.has (Has.of (by assumption) rfl)) (h_walks : Alike Part.caches m s.walks walks := by first | with_reducible exact Alike.refl _ | exact Alike.has (Has.of (by assumption) rfl)) (h_reads : Alike Part.caches m s.reads reads := by first | with_reducible exact Alike.refl _ | exact Alike.has (Has.of (by assumption) rfl)) (h_badReads : Alike Part.caches m s.badReads badReads := by first | with_reducible exact Alike.refl _ | exact Alike.has (Has.of (by assumption) rfl)) (h_bar2 : Alike Part.caches m s.bar2 bar2 := by first | with_reducible exact Alike.refl _ | exact Alike.has (Has.of (by assumption) rfl)) (h_owed : Alike Part.caches m s.owed owed := by first | with_reducible exact Alike.refl _ | exact Alike.has (Has.of (by assumption) rfl)) (h_maxRead : Alike Part.caches m s.maxRead maxRead := by first | with_reducible exact Alike.refl _ | exact Alike.has (Has.of (by assumption) rfl)) (h_fwd : Alike Part.collector m s.fwd fwd := by first | with_reducible exact Alike.refl _ | exact Alike.has (Has.of (by assumption) rfl)) (h_fwdLost : Alike Part.collector m s.fwdLost fwdLost := by first | with_reducible exact Alike.refl _ | exact Alike.has (Has.of (by assumption) rfl)) (h_once : Alike Part.collector m s.once once := by first | with_reducible exact Alike.refl _ | exact Alike.has (Has.of (by assumption) rfl)) (h_meterUp : Alike Part.power m s.meterUp meterUp := by first | with_reducible exact Alike.refl _ | exact Alike.has (Has.of (by assumption) rfl)) (h_linkUp : Alike Part.power m s.linkUp linkUp := by first | with_reducible exact Alike.refl _ | exact Alike.has (Has.of (by assumption) rfl)) (h_d3hot : Alike Part.power m s.d3hot d3hot := by first | with_reducible exact Alike.refl _ | exact Alike.has (Has.of (by assumption) rfl)) (h_out : Alike Part.out m s.out out := by first | with_reducible exact Alike.refl _ | exact Alike.has (Has.of (by assumption) rfl)) :
    Io.Keeps m s0 (Io.mk s.regs latch wideHold cnt snap s.rings tc walks s.ops reads badReads bar2 owed maxRead s.dram fwd fwdLost once meterUp linkUp d3hot s.fresh s.now out) :=
  x.trans ⟨fun y => ⟨y.dram, y.regs, y.rings, y.ops⟩, le_refl _, le_refl _, fun _ _ => rfl, h_latch, h_wideHold, h_cnt, h_snap, .refl _, h_tc, h_walks, .refl _, h_reads, h_badReads, h_bar2, h_owed, h_maxRead, .refl _, h_fwd, h_fwdLost, h_once, h_meterUp, h_linkUp, h_d3hot, .refl _, .refl _, h_out⟩

/-- A record update of the state. -/
theorem State.mk_keeps {m : Nat} {s0 s : State} {io : Io} {tick link tiles chans host plan boot therm pairUnit video lamp wall audio meter jtag} (x : State.Keeps m s0 s) (y : Io.Keeps m s0.io io)
    (h_tick : Alike Part.tick m s.tick tick := by first | with_reducible exact Alike.refl _ | exact Alike.has (Has.of (by assumption) rfl)) (h_link : Alike Part.link m s.link link := by first | with_reducible exact Alike.refl _ | exact Alike.has (Has.of (by assumption) rfl)) (h_tiles : Alike Part.tiles m s.tiles tiles := by first | with_reducible exact Alike.refl _ | exact Alike.has (Has.of (by assumption) rfl)) (h_chans : Alike Part.chans m s.chans chans := by first | with_reducible exact Alike.refl _ | exact Alike.has (Has.of (by assumption) rfl)) (h_host : Alike Part.host m s.host host := by first | with_reducible exact Alike.refl _ | exact Alike.has (Has.of (by assumption) rfl)) (h_plan : Alike Part.plan m s.plan plan := by first | with_reducible exact Alike.refl _ | exact Alike.has (Has.of (by assumption) rfl)) (h_boot : Alike Part.boot m s.boot boot := by first | with_reducible exact Alike.refl _ | exact Alike.has (Has.of (by assumption) rfl)) (h_therm : Alike Part.therm m s.therm therm := by first | with_reducible exact Alike.refl _ | exact Alike.has (Has.of (by assumption) rfl)) (h_pairUnit : Alike Part.pairUnit m s.pairUnit pairUnit := by first | with_reducible exact Alike.refl _ | exact Alike.has (Has.of (by assumption) rfl)) (h_video : Alike Part.video m s.video video := by first | with_reducible exact Alike.refl _ | exact Alike.has (Has.of (by assumption) rfl)) (h_lamp : Alike Part.lamp m s.lamp lamp := by first | with_reducible exact Alike.refl _ | exact Alike.has (Has.of (by assumption) rfl)) (h_wall : Alike Part.wall m s.wall wall := by first | with_reducible exact Alike.refl _ | exact Alike.has (Has.of (by assumption) rfl)) (h_audio : Alike Part.audio m s.audio audio := by first | with_reducible exact Alike.refl _ | exact Alike.has (Has.of (by assumption) rfl)) (h_meter : Alike Part.meter m s.meter meter := by first | with_reducible exact Alike.refl _ | exact Alike.has (Has.of (by assumption) rfl)) (h_jtag : Alike Part.jtag m s.jtag jtag := by first | with_reducible exact Alike.refl _ | exact Alike.has (Has.of (by assumption) rfl)) :
    State.Keeps m s0 (State.mk io tick link tiles chans host plan boot therm pairUnit video lamp wall audio meter jtag s.pending) :=
  ⟨x.pending, y, x.tick.trans h_tick, x.link.trans h_link, x.tiles.trans h_tiles, x.chans.trans h_chans, x.host.trans h_host, x.plan.trans h_plan, x.boot.trans h_boot, x.therm.trans h_therm, x.pairUnit.trans h_pairUnit, x.video.trans h_video, x.lamp.trans h_lamp, x.wall.trans h_wall, x.audio.trans h_audio, x.meter.trans h_meter, x.jtag.trans h_jtag⟩

theorem State.on_keeps {m : Nat} {s0 s : State} {f : Io → Io} (h : State.Keeps m s0 s)
    (hf : ∀ io, Io.Keeps m s0.io io → Io.Keeps m s0.io (f io)) : State.Keeps m s0 (s.on f) := h.toIo (hf _ h.io)

theorem State.Keeps.fst {m : Nat} {β : Type} {s0 a : State} {b : β} {p : State × β} (e : p = (a, b)) (h : State.Keeps m s0 p.1) : State.Keeps m s0 a := by
  rw [e] at h; exact h

theorem State.ite_keeps {m : Nat} {s0 a b : State} {c : Prop} [Decidable c] (ha : State.Keeps m s0 a) (hb : State.Keeps m s0 b) :
    State.Keeps m s0 (if c then a else b) := by
  split
  · exact ha
  · exact hb

theorem State.ite_keeps_fst {m : Nat} {β : Type} {s0 : State} {a b : State × β} {c : Prop} [Decidable c] (ha : State.Keeps m s0 a.1)
    (hb : State.Keeps m s0 b.1) : State.Keeps m s0 (if c then a else b).1 := by
  split
  · exact ha
  · exact hb

theorem State.foldl_keeps {m : Nat} {α : Type} {s0 s : State} {f : State → α → State} {l : List α} (h : State.Keeps m s0 s)
    (hf : ∀ s x, State.Keeps m s0 s → State.Keeps m s0 (f s x)) : State.Keeps m s0 (l.foldl f s) := by
  induction l generalizing s with
  | nil => exact h
  | cons x t ih => exact ih (hf s x h)

theorem State.foldl_keeps_fst {m : Nat} {α β : Type} {s0 : State} {p : State × β} {f : State × β → α → State × β} {l : List α}
    (h : State.Keeps m s0 p.1) (hf : ∀ p x, State.Keeps m s0 p.1 → State.Keeps m s0 (f p x).1) : State.Keeps m s0 (l.foldl f p).1 := by
  induction l generalizing p with
  | nil => exact h
  | cons x t ih => exact ih (hf p x h)

theorem Io.Keeps.fst {m : Nat} {β : Type} {s0 a : Io} {b : β} {p : Io × β} (e : p = (a, b)) (h : Io.Keeps m s0 p.1) : Io.Keeps m s0 a := by
  rw [e] at h; exact h

theorem Io.ite_keeps {m : Nat} {s0 a b : Io} {c : Prop} [Decidable c] (ha : Io.Keeps m s0 a) (hb : Io.Keeps m s0 b) :
    Io.Keeps m s0 (if c then a else b) := by
  split
  · exact ha
  · exact hb

theorem Io.ite_keeps_fst {m : Nat} {β : Type} {s0 : Io} {a b : Io × β} {c : Prop} [Decidable c] (ha : Io.Keeps m s0 a.1)
    (hb : Io.Keeps m s0 b.1) : Io.Keeps m s0 (if c then a else b).1 := by
  split
  · exact ha
  · exact hb

theorem Io.foldl_keeps {m : Nat} {α : Type} {s0 s : Io} {f : Io → α → Io} {l : List α} (h : Io.Keeps m s0 s)
    (hf : ∀ s x, Io.Keeps m s0 s → Io.Keeps m s0 (f s x)) : Io.Keeps m s0 (l.foldl f s) := by
  induction l generalizing s with
  | nil => exact h
  | cons x t ih => exact ih (hf s x h)

theorem Io.foldl_keeps_fst {m : Nat} {α β : Type} {s0 : Io} {p : Io × β} {f : Io × β → α → Io × β} {l : List α}
    (h : Io.Keeps m s0 p.1) (hf : ∀ p x, Io.Keeps m s0 p.1 → Io.Keeps m s0 (f p x).1) : Io.Keeps m s0 (l.foldl f p).1 := by
  induction l generalizing p with
  | nil => exact h
  | cons x t ih => exact ih (hf p x h)

theorem Result.ite_keeps {m : Nat} {s0 : State} {a b : Result} {c : Prop} [Decidable c] (ha : Result.Keeps m s0 a) (hb : Result.Keeps m s0 b) :
    Result.Keeps m s0 (if c then a else b) := by
  split
  · exact ha
  · exact hb

/-! ### The plain updates -/

theorem Io.setReg_keeps {m p : Nat} {s0 s : Io} {a : Nat} {v : BitVec 32} (h : Io.Keeps m s0 s) (hr : RegOf p a) (hm : Has p m) :
    Io.Keeps m s0 (s.setReg a v) :=
  h.trans ⟨fun x => ⟨x.dram, Sparse.wf_set _ _ x.regs, x.rings, x.ops⟩, le_refl _, le_refl _,
    fun b hb => Io.getReg_setReg_other _ _ (fun e => hb p hm (e ▸ hr)), .refl _, .refl _, .refl _, .refl _, .refl _, .refl _, .refl _, .refl _, .refl _, .refl _, .refl _, .refl _, .refl _, .refl _, .refl _, .refl _, .refl _, .refl _, .refl _, .refl _, .refl _, .refl _, .refl _⟩

theorem Io.setF_keeps {m p : Nat} {s0 s : Io} {f : Field} {v : Nat} (h : Io.Keeps m s0 s) (hr : RegOf p f.reg) (hm : Has p m) :
    Io.Keeps m s0 (s.setF f v) := Io.setReg_keeps h hr hm
theorem Io.bumpF_keeps {m p : Nat} {s0 s : Io} {f : Field} {n : Nat} (h : Io.Keeps m s0 s) (hr : RegOf p f.reg) (hm : Has p m) :
    Io.Keeps m s0 (s.bumpF f n) := Io.setReg_keeps h hr hm
theorem Io.setWide_keeps {m p q : Nat} {s0 s : Io} {lo hi : Field} {v : Nat} (h : Io.Keeps m s0 s) (hr : RegOf p lo.reg) (hm : Has p m)
    (hr' : RegOf q hi.reg) (hm' : Has q m) : Io.Keeps m s0 (s.setWide lo hi v) := Io.setF_keeps (Io.setF_keeps h hr hm) hr' hm'
theorem Io.addWide_keeps {m p q : Nat} {s0 s : Io} {lo hi : Field} {v : Nat} (h : Io.Keeps m s0 s) (hr : RegOf p lo.reg) (hm : Has p m)
    (hr' : RegOf q hi.reg) (hm' : Has q m) : Io.Keeps m s0 (s.addWide lo hi v) := Io.setWide_keeps h hr hm hr' hm'
theorem Io.emit_keeps {m : Nat} {s0 s : Io} {o : Out} (h : Io.Keeps m s0 s) (hm : Has Part.out m) : Io.Keeps m s0 (s.emit o) :=
  h.trans ⟨fun x => ⟨x.dram, x.regs, x.rings, x.ops⟩, le_refl _, le_refl _, fun _ _ => rfl, .refl _, .refl _, .refl _, .refl _, .refl _, .refl _, .refl _, .refl _, .refl _, .refl _, .refl _, .refl _, .refl _, .refl _, .refl _, .refl _, .refl _, .refl _, .refl _, .refl _, .refl _, .refl _, .inl hm⟩
theorem Io.spend_keeps {m : Nat} {s0 s : Io} (h : Io.Keeps m s0 s) (hm : Has Part.fresh m) : Io.Keeps m s0 s.spend :=
  h.trans ⟨fun x => ⟨x.dram, x.regs, x.rings, x.ops⟩, le_refl _, Nat.le_succ _, fun _ _ => rfl, .refl _, .refl _, .refl _, .refl _, .refl _, .refl _, .refl _, .refl _, .refl _, .refl _, .refl _, .refl _, .refl _, .refl _, .refl _, .refl _, .refl _, .refl _, .refl _, .refl _, .inl hm, .refl _, .refl _⟩
theorem Io.spendN_keeps {m n : Nat} {s0 s : Io} (h : Io.Keeps m s0 s) (hm : Has Part.fresh m) : Io.Keeps m s0 { s with fresh := s.fresh + n } :=
  h.trans ⟨fun x => ⟨x.dram, x.regs, x.rings, x.ops⟩, le_refl _, Nat.le_add_right _ _, fun _ _ => rfl, .refl _, .refl _, .refl _, .refl _, .refl _, .refl _, .refl _, .refl _, .refl _, .refl _, .refl _, .refl _, .refl _, .refl _, .refl _, .refl _, .refl _, .refl _, .refl _, .refl _, .inl hm, .refl _, .refl _⟩
theorem Io.at_keeps {m : Nat} {s0 s : Io} {t : Nat} (h : Io.Keeps m s0 s) (hm : Has Part.now m) : Io.Keeps m s0 (s.at t) :=
  h.trans ⟨fun x => ⟨x.dram, x.regs, x.rings, x.ops⟩, Nat.le_max_left _ _, le_refl _, fun _ _ => rfl, .refl _, .refl _, .refl _, .refl _, .refl _, .refl _, .refl _, .refl _, .refl _, .refl _, .refl _, .refl _, .refl _, .refl _, .refl _, .refl _, .refl _, .refl _, .refl _, .refl _, .refl _, .inl hm, .refl _⟩
theorem Io.writeDram_keeps {m : Nat} {s0 s : Io} {a : Nat} {bs : List Byte} (h : Io.Keeps m s0 s) (hm : Has Part.dram m) :
    Io.Keeps m s0 (s.writeDram a bs) :=
  h.trans ⟨fun x => ⟨memWrite_wf _ _ x.dram, x.regs, x.rings, x.ops⟩, le_refl _, le_refl _, fun _ _ => rfl, .refl _, .refl _, .refl _, .refl _, .refl _, .refl _, .refl _, .refl _, .refl _, .refl _, .refl _, .refl _, .refl _, .inl hm, .refl _, .refl _, .refl _, .refl _, .refl _, .refl _, .refl _, .refl _, .refl _⟩
theorem Io.filterDram_keeps {m : Nat} {s0 s : Io} {f : Nat × Byte → Bool} (h : Io.Keeps m s0 s) (hm : Has Part.dram m) :
    Io.Keeps m s0 { s with dram := s.dram.filter f } :=
  h.trans ⟨fun x => ⟨Sparse.wf_filter f x.dram, x.regs, x.rings, x.ops⟩, le_refl _, le_refl _, fun _ _ => rfl, .refl _, .refl _, .refl _, .refl _, .refl _, .refl _, .refl _, .refl _, .refl _, .refl _, .refl _, .refl _, .refl _, .inl hm, .refl _, .refl _, .refl _, .refl _, .refl _, .refl _, .refl _, .refl _, .refl _⟩
theorem Io.setRing_keeps {m : Nat} {s0 s : Io} {n : Nat} {r : Ring} (h : Io.Keeps m s0 s) (hm : Has Part.rings m) :
    Io.Keeps m s0 (s.setRing n r) :=
  h.trans ⟨fun x => ⟨x.dram, x.regs, Sparse.wf_set _ _ x.rings, x.ops⟩, le_refl _, le_refl _, fun _ _ => rfl, .refl _, .refl _, .refl _, .refl _, .inl hm, .refl _, .refl _, .refl _, .refl _, .refl _, .refl _, .refl _, .refl _, .refl _, .refl _, .refl _, .refl _, .refl _, .refl _, .refl _, .refl _, .refl _, .refl _⟩
theorem Io.eraseRing_keeps {m : Nat} {s0 s : Io} {n : Nat} (h : Io.Keeps m s0 s) (hm : Has Part.rings m) :
    Io.Keeps m s0 { s with rings := Sparse.erase s.rings n } :=
  h.trans ⟨fun x => ⟨x.dram, x.regs, Sparse.wf_erase _ x.rings, x.ops⟩, le_refl _, le_refl _, fun _ _ => rfl, .refl _, .refl _, .refl _, .refl _, .inl hm, .refl _, .refl _, .refl _, .refl _, .refl _, .refl _, .refl _, .refl _, .refl _, .refl _, .refl _, .refl _, .refl _, .refl _, .refl _, .refl _, .refl _, .refl _⟩

theorem setNth_length {α : Type} (l : List α) (n : Nat) (v : α) : (setNth l n v).length = l.length := by
  induction l generalizing n with
  | nil => rfl
  | cons x t ih => cases n with
    | zero => rfl
    | succ n => simp [setNth, ih]

theorem Io.setOps_keeps {m : Nat} {s0 s : Io} {n : Nat} {t : OpTable} (h : Io.Keeps m s0 s) (hm : Has Part.caches m) :
    Io.Keeps m s0 { s with ops := setNth s.ops n t } :=
  h.trans ⟨fun x => ⟨x.dram, x.regs, x.rings, by rw [setNth_length]; exact x.ops⟩, le_refl _, le_refl _, fun _ _ => rfl, .refl _, .refl _, .refl _, .refl _, .refl _, .refl _, .refl _, .inl hm, .refl _, .refl _, .refl _, .refl _, .refl _, .refl _, .refl _, .refl _, .refl _, .refl _, .refl _, .refl _, .refl _, .refl _, .refl _⟩
theorem Io.mapOps_keeps {m : Nat} {s0 s : Io} {f : OpTable → OpTable} {tc : List TcEntry} {ws : List Walk} (h : Io.Keeps m s0 s) (hm : Has Part.caches m) :
    Io.Keeps m s0 { s with tc := tc, ops := s.ops.map f, walks := ws } :=
  h.trans ⟨fun x => ⟨x.dram, x.regs, x.rings, by rw [List.length_map]; exact x.ops⟩, le_refl _, le_refl _, fun _ _ => rfl, .refl _, .refl _, .refl _, .refl _, .refl _, .inl hm, .inl hm, .inl hm, .refl _, .refl _, .refl _, .refl _, .refl _, .refl _, .refl _, .refl _, .refl _, .refl _, .refl _, .refl _, .refl _, .refl _, .refl _⟩
theorem Io.freshTables_keeps {m : Nat} {s0 s : Io} {x y} (h : Io.Keeps m s0 s) (hr : Has Part.rings m) (hm : Has Part.caches m) :
    Io.Keeps m s0 { s with rings := [], tc := x, walks := y, ops := List.replicate 4 {} } :=
  h.trans ⟨fun z => ⟨z.dram, z.regs, rfl, rfl⟩, le_refl _, le_refl _, fun _ _ => rfl, .refl _, .refl _, .refl _, .refl _, .inl hr, .inl hm, .inl hm, .inl hm, .refl _, .refl _, .refl _, .refl _, .refl _, .refl _, .refl _, .refl _, .refl _, .refl _, .refl _, .refl _, .refl _, .refl _, .refl _⟩
theorem Io.filterRegs_keeps {m : Nat} {s0 s : Io} {f : Nat × BitVec 32 → Bool} (h : Io.Keeps m s0 s) (hm : Has Part.anyReg m) :
    Io.Keeps m s0 { s with regs := s.regs.filter f } :=
  h.trans ⟨fun x => ⟨x.dram, Sparse.wf_filter f x.regs, x.rings, x.ops⟩, le_refl _, le_refl _,
    fun b hb => absurd (RegOf.anyReg b) (hb _ hm), .refl _, .refl _, .refl _, .refl _, .refl _, .refl _, .refl _, .refl _, .refl _, .refl _, .refl _, .refl _, .refl _, .refl _, .refl _, .refl _, .refl _, .refl _, .refl _, .refl _, .refl _, .refl _, .refl _⟩

theorem State.setF_keeps {m p : Nat} {s0 s : State} {f : Field} {v : Nat} (h : State.Keeps m s0 s) (hr : RegOf p f.reg) (hm : Has p m) :
    State.Keeps m s0 (s.setF f v) := h.toIo (Io.setF_keeps h.io hr hm)
theorem State.bumpF_keeps {m p : Nat} {s0 s : State} {f : Field} {n : Nat} (h : State.Keeps m s0 s) (hr : RegOf p f.reg) (hm : Has p m) :
    State.Keeps m s0 (s.bumpF f n) := h.toIo (Io.bumpF_keeps h.io hr hm)
theorem State.emit_keeps {m : Nat} {s0 s : State} {o : Out} (h : State.Keeps m s0 s) (hm : Has Part.out m) :
    State.Keeps m s0 (s.emit o) := h.toIo (Io.emit_keeps h.io hm)

end Sys2Proof.Machine
end

