-- ==== Sys2Proof/Laws/Apart.lean ====
section
/-! SUPPORT. Which register offsets belong to which register of the tables, and that a command leaves alone every register outside
its parts. -/

set_option Elab.async false

namespace Sys2Proof.Machine

/-- First offset, end and stride (0 for a single register) of each register of the tables, in the order of their numbers. -/
def regSpans : List (List (Nat × Nat × Nat)) :=
  [[(16, 20, 0), (20, 24, 0), (256, 260, 0), (260, 264, 0), (264, 268, 0), (268, 272, 0), (272, 276, 0), (276, 280, 0), (280, 284, 0), (320, 384, 4), (131072, 131076, 0), (131076, 131080, 0), (131080, 131084, 0), (131084, 131088, 0), (131088, 131092, 0), (131092, 131096, 0), (131096, 131100, 0), (131100, 131104, 0), (131104, 131108, 0), (131108, 131112, 0)],
     [(131112, 131116, 0), (131116, 131120, 0), (131120, 131124, 0), (131136, 131140, 0), (131140, 131144, 0), (131144, 131148, 0), (131148, 131152, 0), (131200, 131264, 4), (135168, 139264, 4), (147456, 196612, 16384), (147460, 196616, 16384), (147464, 196620, 16384), (147468, 196624, 16384), (147472, 196628, 16384), (262144, 262148, 0), (262148, 262152, 0), (262152, 262156, 0), (262156, 262160, 0), (262160, 262164, 0), (262164, 262168, 0)],
     [(262168, 262172, 0), (262172, 262176, 0), (262176, 262180, 0), (262180, 262184, 0), (262184, 262188, 0), (262188, 262192, 0), (262192, 262196, 0), (264192, 265216, 4), (393216, 393220, 0), (393220, 393224, 0), (393224, 393228, 0), (393228, 393232, 0), (393232, 393236, 0), (393236, 393240, 0), (393240, 393244, 0), (397312, 401396, 16), (397316, 401400, 16), (397320, 401404, 16), (409600, 458756, 16384), (409604, 458760, 16384)],
     [(409608, 458764, 16384), (409612, 458768, 16384), (409616, 458772, 16384), (409620, 458776, 16384), (409624, 458780, 16384), (409856, 459252, 16), (409860, 459256, 16), (409864, 459260, 16), (409868, 459264, 16), (524288, 524292, 0), (524292, 524296, 0), (524296, 524300, 0), (524300, 524304, 0), (524304, 524308, 0), (524308, 524312, 0), (540672, 592900, 1024), (540676, 592904, 1024), (540680, 592908, 1024), (540684, 592912, 1024), (540688, 592916, 1024)],
     [(540692, 592920, 1024), (540696, 592924, 1024), (540700, 592928, 1024), (540704, 592932, 1024), (540736, 592964, 1024), (540740, 592968, 1024), (540744, 592972, 1024), (540800, 593088, 4), (655360, 655364, 0), (655364, 655368, 0), (655368, 655372, 0), (655372, 655376, 0), (655376, 655380, 0), (655380, 655384, 0), (655384, 655388, 0), (655388, 655392, 0), (655616, 655872, 4), (655872, 656884, 16), (655876, 656888, 16), (655880, 656892, 16)],
     [(655884, 656896, 16), (656896, 658940, 8), (656900, 658944, 8), (671744, 720900, 16384), (659456, 659460, 0), (659460, 659464, 0), (659464, 659468, 0), (659468, 659472, 0), (672000, 721156, 16384), (672004, 721160, 16384), (672008, 721164, 16384), (672012, 721168, 16384), (672016, 721172, 16384), (672020, 721176, 16384), (672024, 721180, 16384), (672028, 721184, 16384), (786432, 786436, 0), (802816, 851972, 16384), (802820, 851976, 16384), (802824, 851980, 16384)],
     [(802828, 851984, 16384), (802832, 851988, 16384), (802836, 851992, 16384), (802840, 851996, 16384), (802844, 852000, 16384), (802848, 852004, 16384), (802852, 852008, 16384), (802856, 852012, 16384), (802860, 852016, 16384), (802864, 852020, 16384), (802868, 852024, 16384), (802872, 852028, 16384), (917504, 917508, 0), (917508, 917512, 0), (933888, 983044, 16384), (933892, 983048, 16384), (933896, 983052, 16384), (933900, 983056, 16384), (933904, 983060, 16384), (933908, 983064, 16384)],
     [(933912, 983068, 16384), (933916, 983072, 16384), (933920, 983076, 16384), (933924, 983080, 16384), (933928, 983084, 16384), (933932, 983088, 16384), (1048576, 1048580, 0), (1048580, 1048584, 0), (1048584, 1048588, 0), (1048588, 1048592, 0), (1064960, 1133572, 1024), (1064964, 1133576, 1024), (1064968, 1133580, 1024), (1064972, 1133584, 1024), (1064976, 1133588, 1024), (1064980, 1133592, 1024), (1064984, 1133596, 1024), (1064988, 1133600, 1024), (1064992, 1133604, 1024), (1064996, 1133608, 1024)],
     [(1065000, 1133612, 1024), (1065004, 1133616, 1024), (1065008, 1133620, 1024), (1065012, 1133624, 1024), (1065016, 1133628, 1024), (1065020, 1133632, 1024), (1179648, 1179652, 0), (1179652, 1179656, 0), (1179656, 1179660, 0), (1179660, 1179664, 0), (1179664, 1179668, 0), (1179668, 1179672, 0), (1179672, 1179676, 0), (1179676, 1179680, 0), (1179680, 1179684, 0), (1179684, 1179688, 0), (1179688, 1179692, 0), (1179692, 1179696, 0), (1179696, 1179700, 0), (1179700, 1179704, 0)],
     [(1179704, 1179708, 0), (1179708, 1179712, 0), (1179712, 1179716, 0), (1179716, 1179720, 0), (1179720, 1179724, 0), (1310720, 1310724, 0), (1310724, 1310728, 0), (1310728, 1310732, 0), (1310732, 1310736, 0), (1310736, 1310740, 0), (1310740, 1310744, 0), (1310744, 1310748, 0), (1310748, 1310752, 0), (1310752, 1310756, 0), (1310756, 1310760, 0), (1310760, 1310764, 0), (1310764, 1310768, 0), (1310768, 1310772, 0), (1310772, 1310776, 0), (1310776, 1310780, 0)],
     [(1310780, 1310784, 0), (1310784, 1310788, 0), (1310788, 1310792, 0), (1310792, 1310796, 0), (1310848, 1310852, 0), (1310852, 1310856, 0), (1310856, 1310860, 0), (1310860, 1310864, 0), (1310864, 1310868, 0), (1310976, 1311232, 4), (1327104, 1376260, 16384), (1327108, 1376264, 16384), (1327112, 1376268, 16384), (1327116, 1376272, 16384), (1441792, 1441796, 0), (1441796, 1441800, 0), (1441800, 1441804, 0), (1441804, 1441808, 0), (1441808, 1441812, 0), (1441812, 1441816, 0)],
     [(1441856, 1441908, 16), (1441860, 1441912, 16), (1441864, 1441916, 16), (1441868, 1441920, 16), (1442048, 1442108, 8), (1442052, 1442112, 8), (1458176, 1507332, 16384), (1458180, 1507336, 16384), (1458184, 1507340, 16384), (1458188, 1507344, 16384), (1458432, 1507940, 32), (1458436, 1507944, 32), (1458440, 1507948, 32), (1458444, 1507952, 32), (1458448, 1507956, 32), (1458452, 1507960, 32), (1458456, 1507964, 32), (1458460, 1507968, 32), (1572864, 1572868, 0), (1572868, 1572872, 0)],
     [(1572872, 1572876, 0), (1572876, 1572880, 0), (1572880, 1572884, 0), (1572884, 1572888, 0), (1572888, 1572892, 0), (1572892, 1572896, 0), (1572896, 1572900, 0), (1572900, 1572904, 0), (1573120, 1575140, 32), (1573124, 1575144, 32), (1573128, 1575148, 32), (1573132, 1575152, 32), (1573136, 1575168, 4), (1576960, 1577972, 16), (1576964, 1577976, 16), (1576968, 1577980, 16), (1589248, 1638452, 16), (1589252, 1638456, 16), (1589312, 1638468, 16384), (1589316, 1638472, 16384)],
     [(1703936, 1703940, 0), (1703940, 1703944, 0), (1703944, 1703948, 0), (1703948, 1703952, 0), (1703952, 1703956, 0), (1703956, 1703960, 0), (1703960, 1703964, 0), (1703964, 1703968, 0), (1704192, 1704260, 4), (1704320, 1704384, 4), (1720320, 1770244, 256), (1720324, 1770248, 256), (1720328, 1770252, 256), (1720332, 1770256, 256), (1720336, 1770260, 256), (1720340, 1770264, 256), (1720344, 1770268, 256), (1720348, 1770272, 256), (1720352, 1770276, 256), (1835008, 1835012, 0)],
     [(1835012, 1835016, 0), (1835016, 1835020, 0), (1835020, 1835024, 0), (1835024, 1835028, 0), (1835028, 1835032, 0), (1835032, 1835036, 0), (1835036, 1835040, 0), (1835040, 1835044, 0), (1835044, 1835048, 0), (1835048, 1835052, 0), (1835072, 1835136, 4), (1835776, 1835780, 0), (1835780, 1835784, 0), (1835784, 1835788, 0), (1835788, 1835792, 0), (1835792, 1835808, 4), (1835808, 1835812, 0), (1836032, 1836544, 4), (1839104, 1840128, 4), (1900544, 1966080, 4)],
     [(1835264, 1835748, 32), (1835268, 1835752, 32), (1835272, 1835756, 32), (1835276, 1835760, 32), (1835280, 1835764, 32), (1835284, 1835768, 32), (1966080, 1966084, 0), (1966084, 1966088, 0), (1966088, 1966092, 0), (1966092, 1966096, 0), (1966096, 1966100, 0), (1966100, 1966104, 0), (1966104, 1966108, 0), (1966108, 1966112, 0), (1966112, 1966116, 0), (1966116, 1966120, 0), (1966120, 1966124, 0), (1966124, 1966128, 0), (1966128, 1966132, 0), (1966132, 1966136, 0)],
     [(1966144, 1966148, 0), (1966148, 1966152, 0), (1966208, 1966236, 4), (1966240, 1966248, 4), (1966336, 1966844, 8), (1966340, 1966848, 8), (0, 4, 0), (4, 8, 0), (8, 12, 0), (12, 16, 0), (24, 28, 0), (28, 32, 0), (512, 516, 0), (516, 520, 0), (520, 524, 0), (524, 528, 0), (528, 532, 0), (768, 772, 0), (772, 776, 0), (776, 780, 0)],
     [(780, 784, 0), (1024, 1028, 0), (4096, 5120, 4), (65536, 131072, 4), (8192, 8256, 4), (8256, 8320, 4), (8320, 8384, 4), (8384, 8388, 0), (8388, 8392, 0), (8392, 8396, 0), (10240, 12288, 4), (16384, 16640, 4), (16640, 17148, 8), (16644, 17152, 8), (17152, 17660, 8), (17156, 17664, 8), (17664, 17668, 0), (17668, 17672, 0), (17672, 17676, 0), (17676, 17680, 0)],
     [(17680, 17684, 0), (17684, 17688, 0), (1280, 1284, 0), (1284, 1288, 0), (1288, 1292, 0), (1292, 1296, 0), (1296, 1300, 0), (1300, 1304, 0), (1304, 1308, 0), (1308, 1312, 0), (1536, 1780, 16), (1540, 1784, 16), (1544, 1788, 16), (20480, 20484, 0), (20484, 20488, 0), (20488, 20492, 0), (327680, 335860, 16), (327684, 335864, 16), (327688, 335868, 16), (327692, 335872, 16)],
     [(335872, 335936, 4)]]

/-- The span of part `p`. -/
def spanOf (p : Nat) : Nat × Nat × Nat := (regSpans.getD ((p - 32) / 20) []).getD ((p - 32) % 20) (0, 0, 0)

/-- Offset `a` lies in the span of part `p`. -/
def InSpan (p a : Nat) : Prop := (spanOf p).1 ≤ a ∧ a < (spanOf p).2.1 ∧ a % (spanOf p).2.2 = (spanOf p).1 % (spanOf p).2.2

theorem inSpan {p a lo hi g : Nat} (h : spanOf p = (lo, hi, g)) (k : lo ≤ a ∧ a < hi ∧ a % g = lo % g) : InSpan p a := by unfold InSpan; rw [h]; exact k

theorem span_CTL_VARIANT : InSpan Part.CTL_VARIANT Reg.CTL_VARIANT := inSpan (lo := 16) (hi := 20) (g := 0) rfl ⟨by decide, by decide, rfl⟩
theorem span_CTL_TILE_ADDR : InSpan Part.CTL_TILE_ADDR Reg.CTL_TILE_ADDR := inSpan (lo := 20) (hi := 24) (g := 0) rfl ⟨by decide, by decide, rfl⟩
theorem span_CTL_IMG_INFO : InSpan Part.CTL_IMG_INFO Reg.CTL_IMG_INFO := inSpan (lo := 256) (hi := 260) (g := 0) rfl ⟨by decide, by decide, rfl⟩
theorem span_CTL_IMG_ROLLBACK : InSpan Part.CTL_IMG_ROLLBACK Reg.CTL_IMG_ROLLBACK := inSpan (lo := 260) (hi := 264) (g := 0) rfl ⟨by decide, by decide, rfl⟩
theorem span_CTL_IMG_WALL_SEQ : InSpan Part.CTL_IMG_WALL_SEQ Reg.CTL_IMG_WALL_SEQ := inSpan (lo := 264) (hi := 268) (g := 0) rfl ⟨by decide, by decide, rfl⟩
theorem span_CTL_IMG_WALL_ID_LO : InSpan Part.CTL_IMG_WALL_ID_LO Reg.CTL_IMG_WALL_ID_LO := inSpan (lo := 268) (hi := 272) (g := 0) rfl ⟨by decide, by decide, rfl⟩
theorem span_CTL_IMG_WALL_ID_HI : InSpan Part.CTL_IMG_WALL_ID_HI Reg.CTL_IMG_WALL_ID_HI := inSpan (lo := 272) (hi := 276) (g := 0) rfl ⟨by decide, by decide, rfl⟩
theorem span_CTL_IMG_DEFECT : InSpan Part.CTL_IMG_DEFECT Reg.CTL_IMG_DEFECT := inSpan (lo := 276) (hi := 280) (g := 0) rfl ⟨by decide, by decide, rfl⟩
theorem span_CTL_IMG_COMPILER : InSpan Part.CTL_IMG_COMPILER Reg.CTL_IMG_COMPILER := inSpan (lo := 280) (hi := 284) (g := 0) rfl ⟨by decide, by decide, rfl⟩
theorem span_CTL_IMG_DIGEST (n : Nat) : InSpan Part.CTL_IMG_DIGEST (Reg.CTL_IMG_DIGEST n) := inSpan (lo := 320) (hi := 384) (g := 4) rfl (by unfold Reg.CTL_IMG_DIGEST; omega)
theorem span_TCK_STATE : InSpan Part.TCK_STATE Reg.TCK_STATE := inSpan (lo := 131072) (hi := 131076) (g := 0) rfl ⟨by decide, by decide, rfl⟩
theorem span_TCK_COUNT_LO : InSpan Part.TCK_COUNT_LO Reg.TCK_COUNT_LO := inSpan (lo := 131076) (hi := 131080) (g := 0) rfl ⟨by decide, by decide, rfl⟩
theorem span_TCK_COUNT_HI : InSpan Part.TCK_COUNT_HI Reg.TCK_COUNT_HI := inSpan (lo := 131080) (hi := 131084) (g := 0) rfl ⟨by decide, by decide, rfl⟩
theorem span_TCK_PERIOD : InSpan Part.TCK_PERIOD Reg.TCK_PERIOD := inSpan (lo := 131084) (hi := 131088) (g := 0) rfl ⟨by decide, by decide, rfl⟩
theorem span_TCK_REF_PERIOD : InSpan Part.TCK_REF_PERIOD Reg.TCK_REF_PERIOD := inSpan (lo := 131088) (hi := 131092) (g := 0) rfl ⟨by decide, by decide, rfl⟩
theorem span_TCK_PHASE_ERR : InSpan Part.TCK_PHASE_ERR Reg.TCK_PHASE_ERR := inSpan (lo := 131092) (hi := 131096) (g := 0) rfl ⟨by decide, by decide, rfl⟩
theorem span_TCK_GLK_CFG : InSpan Part.TCK_GLK_CFG Reg.TCK_GLK_CFG := inSpan (lo := 131096) (hi := 131100) (g := 0) rfl ⟨by decide, by decide, rfl⟩
theorem span_TCK_GLK_OUT : InSpan Part.TCK_GLK_OUT Reg.TCK_GLK_OUT := inSpan (lo := 131100) (hi := 131104) (g := 0) rfl ⟨by decide, by decide, rfl⟩
theorem span_TCK_GLITCH_COUNT : InSpan Part.TCK_GLITCH_COUNT Reg.TCK_GLITCH_COUNT := inSpan (lo := 131104) (hi := 131108) (g := 0) rfl ⟨by decide, by decide, rfl⟩
theorem span_TCK_MISS_COUNT : InSpan Part.TCK_MISS_COUNT Reg.TCK_MISS_COUNT := inSpan (lo := 131108) (hi := 131112) (g := 0) rfl ⟨by decide, by decide, rfl⟩
theorem span_TCK_REPEAT_COUNT : InSpan Part.TCK_REPEAT_COUNT Reg.TCK_REPEAT_COUNT := inSpan (lo := 131112) (hi := 131116) (g := 0) rfl ⟨by decide, by decide, rfl⟩
theorem span_TCK_MARKER_LEAD : InSpan Part.TCK_MARKER_LEAD Reg.TCK_MARKER_LEAD := inSpan (lo := 131116) (hi := 131120) (g := 0) rfl ⟨by decide, by decide, rfl⟩
theorem span_TCK_TEST : InSpan Part.TCK_TEST Reg.TCK_TEST := inSpan (lo := 131120) (hi := 131124) (g := 0) rfl ⟨by decide, by decide, rfl⟩
theorem span_TCK_DELAY_A : InSpan Part.TCK_DELAY_A Reg.TCK_DELAY_A := inSpan (lo := 131136) (hi := 131140) (g := 0) rfl ⟨by decide, by decide, rfl⟩
theorem span_TCK_DELAY_B : InSpan Part.TCK_DELAY_B Reg.TCK_DELAY_B := inSpan (lo := 131140) (hi := 131144) (g := 0) rfl ⟨by decide, by decide, rfl⟩
theorem span_TCK_REPEAT_H : InSpan Part.TCK_REPEAT_H Reg.TCK_REPEAT_H := inSpan (lo := 131144) (hi := 131148) (g := 0) rfl ⟨by decide, by decide, rfl⟩
theorem span_TCK_MARKER_ERR : InSpan Part.TCK_MARKER_ERR Reg.TCK_MARKER_ERR := inSpan (lo := 131148) (hi := 131152) (g := 0) rfl ⟨by decide, by decide, rfl⟩
theorem span_TCK_END_DELAY (n : Nat) : InSpan Part.TCK_END_DELAY (Reg.TCK_END_DELAY n) := inSpan (lo := 131200) (hi := 131264) (g := 4) rfl (by unfold Reg.TCK_END_DELAY; omega)
theorem span_TCK_HOP_DELAY (n i : Nat) : InSpan Part.TCK_HOP_DELAY (Reg.TCK_HOP_DELAY n i) := inSpan (lo := 135168) (hi := 139264) (g := 4) rfl (by unfold Reg.TCK_HOP_DELAY; omega)
theorem span_TCK_SLOT_STAT (n : Nat) : InSpan Part.TCK_SLOT_STAT (Reg.TCK_SLOT_STAT n) := inSpan (lo := 147456) (hi := 196612) (g := 16384) rfl (by unfold Reg.TCK_SLOT_STAT; omega)
theorem span_TCK_LATE_MAX (n : Nat) : InSpan Part.TCK_LATE_MAX (Reg.TCK_LATE_MAX n) := inSpan (lo := 147460) (hi := 196616) (g := 16384) rfl (by unfold Reg.TCK_LATE_MAX; omega)
theorem span_TCK_OVERRUN_COUNT (n : Nat) : InSpan Part.TCK_OVERRUN_COUNT (Reg.TCK_OVERRUN_COUNT n) := inSpan (lo := 147464) (hi := 196620) (g := 16384) rfl (by unfold Reg.TCK_OVERRUN_COUNT; omega)
theorem span_TCK_CUT_COUNT (n : Nat) : InSpan Part.TCK_CUT_COUNT (Reg.TCK_CUT_COUNT n) := inSpan (lo := 147468) (hi := 196624) (g := 16384) rfl (by unfold Reg.TCK_CUT_COUNT; omega)
theorem span_TCK_SLOTS (n : Nat) : InSpan Part.TCK_SLOTS (Reg.TCK_SLOTS n) := inSpan (lo := 147472) (hi := 196628) (g := 16384) rfl (by unfold Reg.TCK_SLOTS; omega)
theorem span_HRG_LINK : InSpan Part.HRG_LINK Reg.HRG_LINK := inSpan (lo := 262144) (hi := 262148) (g := 0) rfl ⟨by decide, by decide, rfl⟩
theorem span_HRG_RIGHTS : InSpan Part.HRG_RIGHTS Reg.HRG_RIGHTS := inSpan (lo := 262148) (hi := 262152) (g := 0) rfl ⟨by decide, by decide, rfl⟩
theorem span_HRG_RING0_SQ_LO : InSpan Part.HRG_RING0_SQ_LO Reg.HRG_RING0_SQ_LO := inSpan (lo := 262152) (hi := 262156) (g := 0) rfl ⟨by decide, by decide, rfl⟩
theorem span_HRG_RING0_SQ_HI : InSpan Part.HRG_RING0_SQ_HI Reg.HRG_RING0_SQ_HI := inSpan (lo := 262156) (hi := 262160) (g := 0) rfl ⟨by decide, by decide, rfl⟩
theorem span_HRG_RING0_CQ_LO : InSpan Part.HRG_RING0_CQ_LO Reg.HRG_RING0_CQ_LO := inSpan (lo := 262160) (hi := 262164) (g := 0) rfl ⟨by decide, by decide, rfl⟩
theorem span_HRG_RING0_CQ_HI : InSpan Part.HRG_RING0_CQ_HI Reg.HRG_RING0_CQ_HI := inSpan (lo := 262164) (hi := 262168) (g := 0) rfl ⟨by decide, by decide, rfl⟩
theorem span_HRG_FETCH_CFG : InSpan Part.HRG_FETCH_CFG Reg.HRG_FETCH_CFG := inSpan (lo := 262168) (hi := 262172) (g := 0) rfl ⟨by decide, by decide, rfl⟩
theorem span_HRG_CPL_TIMEOUT : InSpan Part.HRG_CPL_TIMEOUT Reg.HRG_CPL_TIMEOUT := inSpan (lo := 262172) (hi := 262176) (g := 0) rfl ⟨by decide, by decide, rfl⟩
theorem span_HRG_DB_IGNORED : InSpan Part.HRG_DB_IGNORED Reg.HRG_DB_IGNORED := inSpan (lo := 262176) (hi := 262180) (g := 0) rfl ⟨by decide, by decide, rfl⟩
theorem span_HRG_RING_ERRORS : InSpan Part.HRG_RING_ERRORS Reg.HRG_RING_ERRORS := inSpan (lo := 262180) (hi := 262184) (g := 0) rfl ⟨by decide, by decide, rfl⟩
theorem span_HRG_LAST_ERR : InSpan Part.HRG_LAST_ERR Reg.HRG_LAST_ERR := inSpan (lo := 262184) (hi := 262188) (g := 0) rfl ⟨by decide, by decide, rfl⟩
theorem span_HRG_FN_RESETS : InSpan Part.HRG_FN_RESETS Reg.HRG_FN_RESETS := inSpan (lo := 262188) (hi := 262192) (g := 0) rfl ⟨by decide, by decide, rfl⟩
theorem span_HRG_OUTSTANDING : InSpan Part.HRG_OUTSTANDING Reg.HRG_OUTSTANDING := inSpan (lo := 262192) (hi := 262196) (g := 0) rfl ⟨by decide, by decide, rfl⟩
theorem span_HRG_EVT_VEC (n : Nat) : InSpan Part.HRG_EVT_VEC (Reg.HRG_EVT_VEC n) := inSpan (lo := 264192) (hi := 265216) (g := 4) rfl (by unfold Reg.HRG_EVT_VEC; omega)
theorem span_XLT_OPT_CFG : InSpan Part.XLT_OPT_CFG Reg.XLT_OPT_CFG := inSpan (lo := 393216) (hi := 393220) (g := 0) rfl ⟨by decide, by decide, rfl⟩
theorem span_XLT_OPT_HOST : InSpan Part.XLT_OPT_HOST Reg.XLT_OPT_HOST := inSpan (lo := 393220) (hi := 393224) (g := 0) rfl ⟨by decide, by decide, rfl⟩
theorem span_XLT_WALKS : InSpan Part.XLT_WALKS Reg.XLT_WALKS := inSpan (lo := 393224) (hi := 393228) (g := 0) rfl ⟨by decide, by decide, rfl⟩
theorem span_XLT_WALK_COUNT : InSpan Part.XLT_WALK_COUNT Reg.XLT_WALK_COUNT := inSpan (lo := 393228) (hi := 393232) (g := 0) rfl ⟨by decide, by decide, rfl⟩
theorem span_XLT_FAULT_COUNT : InSpan Part.XLT_FAULT_COUNT Reg.XLT_FAULT_COUNT := inSpan (lo := 393232) (hi := 393236) (g := 0) rfl ⟨by decide, by decide, rfl⟩
theorem span_XLT_INVAL_COUNT : InSpan Part.XLT_INVAL_COUNT Reg.XLT_INVAL_COUNT := inSpan (lo := 393236) (hi := 393240) (g := 0) rfl ⟨by decide, by decide, rfl⟩
theorem span_XLT_DMA_ACTIVE : InSpan Part.XLT_DMA_ACTIVE Reg.XLT_DMA_ACTIVE := inSpan (lo := 393240) (hi := 393244) (g := 0) rfl ⟨by decide, by decide, rfl⟩
theorem span_XLT_CTX_MODE (n : Nat) : InSpan Part.XLT_CTX_MODE (Reg.XLT_CTX_MODE n) := inSpan (lo := 397312) (hi := 401396) (g := 16) rfl (by unfold Reg.XLT_CTX_MODE; omega)
theorem span_XLT_CTX_ROOT_LO (n : Nat) : InSpan Part.XLT_CTX_ROOT_LO (Reg.XLT_CTX_ROOT_LO n) := inSpan (lo := 397316) (hi := 401400) (g := 16) rfl (by unfold Reg.XLT_CTX_ROOT_LO; omega)
theorem span_XLT_CTX_ROOT_HI (n : Nat) : InSpan Part.XLT_CTX_ROOT_HI (Reg.XLT_CTX_ROOT_HI n) := inSpan (lo := 397320) (hi := 401404) (g := 16) rfl (by unfold Reg.XLT_CTX_ROOT_HI; omega)
theorem span_XLT_OPT_USE_A (n : Nat) : InSpan Part.XLT_OPT_USE_A (Reg.XLT_OPT_USE_A n) := inSpan (lo := 409600) (hi := 458756) (g := 16384) rfl (by unfold Reg.XLT_OPT_USE_A; omega)
theorem span_XLT_OPT_USE_B (n : Nat) : InSpan Part.XLT_OPT_USE_B (Reg.XLT_OPT_USE_B n) := inSpan (lo := 409604) (hi := 458760) (g := 16384) rfl (by unfold Reg.XLT_OPT_USE_B; omega)
theorem span_XLT_OPT_PEAK (n : Nat) : InSpan Part.XLT_OPT_PEAK (Reg.XLT_OPT_PEAK n) := inSpan (lo := 409608) (hi := 458764) (g := 16384) rfl (by unfold Reg.XLT_OPT_PEAK; omega)
theorem span_XLT_HELD_COUNT (n : Nat) : InSpan Part.XLT_HELD_COUNT (Reg.XLT_HELD_COUNT n) := inSpan (lo := 409612) (hi := 458768) (g := 16384) rfl (by unfold Reg.XLT_HELD_COUNT; omega)
theorem span_XLT_TC_HIT (n : Nat) : InSpan Part.XLT_TC_HIT (Reg.XLT_TC_HIT n) := inSpan (lo := 409616) (hi := 458772) (g := 16384) rfl (by unfold Reg.XLT_TC_HIT; omega)
theorem span_XLT_TC_MISS (n : Nat) : InSpan Part.XLT_TC_MISS (Reg.XLT_TC_MISS n) := inSpan (lo := 409620) (hi := 458776) (g := 16384) rfl (by unfold Reg.XLT_TC_MISS; omega)
theorem span_XLT_FAULT_HEAD (n : Nat) : InSpan Part.XLT_FAULT_HEAD (Reg.XLT_FAULT_HEAD n) := inSpan (lo := 409624) (hi := 458780) (g := 16384) rfl (by unfold Reg.XLT_FAULT_HEAD; omega)
theorem span_XLT_FLOG_IOVA_LO (n i : Nat) : InSpan Part.XLT_FLOG_IOVA_LO (Reg.XLT_FLOG_IOVA_LO n i) := inSpan (lo := 409856) (hi := 459252) (g := 16) rfl (by unfold Reg.XLT_FLOG_IOVA_LO; omega)
theorem span_XLT_FLOG_IOVA_HI (n i : Nat) : InSpan Part.XLT_FLOG_IOVA_HI (Reg.XLT_FLOG_IOVA_HI n i) := inSpan (lo := 409860) (hi := 459256) (g := 16) rfl (by unfold Reg.XLT_FLOG_IOVA_HI; omega)
theorem span_XLT_FLOG_INFO (n i : Nat) : InSpan Part.XLT_FLOG_INFO (Reg.XLT_FLOG_INFO n i) := inSpan (lo := 409864) (hi := 459260) (g := 16) rfl (by unfold Reg.XLT_FLOG_INFO; omega)
theorem span_XLT_FLOG_TICK (n i : Nat) : InSpan Part.XLT_FLOG_TICK (Reg.XLT_FLOG_TICK n i) := inSpan (lo := 409868) (hi := 459264) (g := 16) rfl (by unfold Reg.XLT_FLOG_TICK; omega)
theorem span_DMC_CFG : InSpan Part.DMC_CFG Reg.DMC_CFG := inSpan (lo := 524288) (hi := 524292) (g := 0) rfl ⟨by decide, by decide, rfl⟩
theorem span_DMC_ARB : InSpan Part.DMC_ARB Reg.DMC_ARB := inSpan (lo := 524292) (hi := 524296) (g := 0) rfl ⟨by decide, by decide, rfl⟩
theorem span_DMC_PANIC_LVL_A : InSpan Part.DMC_PANIC_LVL_A Reg.DMC_PANIC_LVL_A := inSpan (lo := 524296) (hi := 524300) (g := 0) rfl ⟨by decide, by decide, rfl⟩
theorem span_DMC_PANIC_LVL_B : InSpan Part.DMC_PANIC_LVL_B Reg.DMC_PANIC_LVL_B := inSpan (lo := 524300) (hi := 524304) (g := 0) rfl ⟨by decide, by decide, rfl⟩
theorem span_DMC_TEMP : InSpan Part.DMC_TEMP Reg.DMC_TEMP := inSpan (lo := 524304) (hi := 524308) (g := 0) rfl ⟨by decide, by decide, rfl⟩
theorem span_DMC_DENSITY : InSpan Part.DMC_DENSITY Reg.DMC_DENSITY := inSpan (lo := 524308) (hi := 524312) (g := 0) rfl ⟨by decide, by decide, rfl⟩
theorem span_DMC_CH_STAT (n i : Nat) : InSpan Part.DMC_CH_STAT (Reg.DMC_CH_STAT n i) := inSpan (lo := 540672) (hi := 592900) (g := 1024) rfl (by unfold Reg.DMC_CH_STAT; omega)
theorem span_DMC_CH_REFRESHES (n i : Nat) : InSpan Part.DMC_CH_REFRESHES (Reg.DMC_CH_REFRESHES n i) := inSpan (lo := 540676) (hi := 592904) (g := 1024) rfl (by unfold Reg.DMC_CH_REFRESHES; omega)
theorem span_DMC_CH_FORCED (n i : Nat) : InSpan Part.DMC_CH_FORCED (Reg.DMC_CH_FORCED n i) := inSpan (lo := 540680) (hi := 592908) (g := 1024) rfl (by unfold Reg.DMC_CH_FORCED; omega)
theorem span_DMC_CH_PANICS (n i : Nat) : InSpan Part.DMC_CH_PANICS (Reg.DMC_CH_PANICS n i) := inSpan (lo := 540684) (hi := 592912) (g := 1024) rfl (by unfold Reg.DMC_CH_PANICS; omega)
theorem span_DMC_CH_PANIC_CAPPED (n i : Nat) : InSpan Part.DMC_CH_PANIC_CAPPED (Reg.DMC_CH_PANIC_CAPPED n i) := inSpan (lo := 540688) (hi := 592916) (g := 1024) rfl (by unfold Reg.DMC_CH_PANIC_CAPPED; omega)
theorem span_DMC_CH_HAZARDS (n i : Nat) : InSpan Part.DMC_CH_HAZARDS (Reg.DMC_CH_HAZARDS n i) := inSpan (lo := 540692) (hi := 592920) (g := 1024) rfl (by unfold Reg.DMC_CH_HAZARDS; omega)
theorem span_DMC_CH_ECC_CORR (n i : Nat) : InSpan Part.DMC_CH_ECC_CORR (Reg.DMC_CH_ECC_CORR n i) := inSpan (lo := 540696) (hi := 592924) (g := 1024) rfl (by unfold Reg.DMC_CH_ECC_CORR; omega)
theorem span_DMC_CH_ECC_UNCORR (n i : Nat) : InSpan Part.DMC_CH_ECC_UNCORR (Reg.DMC_CH_ECC_UNCORR n i) := inSpan (lo := 540700) (hi := 592928) (g := 1024) rfl (by unfold Reg.DMC_CH_ECC_UNCORR; omega)
theorem span_DMC_CH_TRAIN (n i : Nat) : InSpan Part.DMC_CH_TRAIN (Reg.DMC_CH_TRAIN n i) := inSpan (lo := 540704) (hi := 592932) (g := 1024) rfl (by unfold Reg.DMC_CH_TRAIN; omega)
theorem span_DMC_CH_PAT_CTL (n i : Nat) : InSpan Part.DMC_CH_PAT_CTL (Reg.DMC_CH_PAT_CTL n i) := inSpan (lo := 540736) (hi := 592964) (g := 1024) rfl (by unfold Reg.DMC_CH_PAT_CTL; omega)
theorem span_DMC_CH_PAT_ADDR (n i : Nat) : InSpan Part.DMC_CH_PAT_ADDR (Reg.DMC_CH_PAT_ADDR n i) := inSpan (lo := 540740) (hi := 592968) (g := 1024) rfl (by unfold Reg.DMC_CH_PAT_ADDR; omega)
theorem span_DMC_CH_CMP (n i : Nat) : InSpan Part.DMC_CH_CMP (Reg.DMC_CH_CMP n i) := inSpan (lo := 540744) (hi := 592972) (g := 1024) rfl (by unfold Reg.DMC_CH_CMP; omega)
theorem span_DMC_CH_PAT_DATA (n i j : Nat) : InSpan Part.DMC_CH_PAT_DATA (Reg.DMC_CH_PAT_DATA n i j) := inSpan (lo := 540800) (hi := 593088) (g := 4) rfl (by unfold Reg.DMC_CH_PAT_DATA; omega)
theorem span_CMP_COMMIT_CFG : InSpan Part.CMP_COMMIT_CFG Reg.CMP_COMMIT_CFG := inSpan (lo := 655360) (hi := 655364) (g := 0) rfl ⟨by decide, by decide, rfl⟩
theorem span_CMP_COMMIT_APPLIED : InSpan Part.CMP_COMMIT_APPLIED Reg.CMP_COMMIT_APPLIED := inSpan (lo := 655364) (hi := 655368) (g := 0) rfl ⟨by decide, by decide, rfl⟩
theorem span_CMP_COMMIT_REJECTED : InSpan Part.CMP_COMMIT_REJECTED Reg.CMP_COMMIT_REJECTED := inSpan (lo := 655368) (hi := 655372) (g := 0) rfl ⟨by decide, by decide, rfl⟩
theorem span_CMP_COMMIT_TIMEOUTS : InSpan Part.CMP_COMMIT_TIMEOUTS Reg.CMP_COMMIT_TIMEOUTS := inSpan (lo := 655372) (hi := 655376) (g := 0) rfl ⟨by decide, by decide, rfl⟩
theorem span_CMP_COMMIT_WAITS : InSpan Part.CMP_COMMIT_WAITS Reg.CMP_COMMIT_WAITS := inSpan (lo := 655376) (hi := 655380) (g := 0) rfl ⟨by decide, by decide, rfl⟩
theorem span_CMP_LAST_REJECT : InSpan Part.CMP_LAST_REJECT Reg.CMP_LAST_REJECT := inSpan (lo := 655380) (hi := 655384) (g := 0) rfl ⟨by decide, by decide, rfl⟩
theorem span_CMP_FALLBACK_COUNT : InSpan Part.CMP_FALLBACK_COUNT Reg.CMP_FALLBACK_COUNT := inSpan (lo := 655384) (hi := 655388) (g := 0) rfl ⟨by decide, by decide, rfl⟩
theorem span_CMP_STATIC : InSpan Part.CMP_STATIC Reg.CMP_STATIC := inSpan (lo := 655388) (hi := 655392) (g := 0) rfl ⟨by decide, by decide, rfl⟩
theorem span_CMP_LAYER_CFG (n : Nat) : InSpan Part.CMP_LAYER_CFG (Reg.CMP_LAYER_CFG n) := inSpan (lo := 655616) (hi := 655872) (g := 4) rfl (by unfold Reg.CMP_LAYER_CFG; omega)
theorem span_CMP_LAYER_STATE (n : Nat) : InSpan Part.CMP_LAYER_STATE (Reg.CMP_LAYER_STATE n) := inSpan (lo := 655872) (hi := 656884) (g := 16) rfl (by unfold Reg.CMP_LAYER_STATE; omega)
theorem span_CMP_LAYER_TAG (n : Nat) : InSpan Part.CMP_LAYER_TAG (Reg.CMP_LAYER_TAG n) := inSpan (lo := 655876) (hi := 656888) (g := 16) rfl (by unfold Reg.CMP_LAYER_TAG; omega)
theorem span_CMP_LAYER_RING (n : Nat) : InSpan Part.CMP_LAYER_RING (Reg.CMP_LAYER_RING n) := inSpan (lo := 655880) (hi := 656892) (g := 16) rfl (by unfold Reg.CMP_LAYER_RING; omega)
theorem span_CMP_LAYER_SINCE (n : Nat) : InSpan Part.CMP_LAYER_SINCE (Reg.CMP_LAYER_SINCE n) := inSpan (lo := 655884) (hi := 656896) (g := 16) rfl (by unfold Reg.CMP_LAYER_SINCE; omega)
theorem span_CMP_FENCE_LO (n : Nat) : InSpan Part.CMP_FENCE_LO (Reg.CMP_FENCE_LO n) := inSpan (lo := 656896) (hi := 658940) (g := 8) rfl (by unfold Reg.CMP_FENCE_LO; omega)
theorem span_CMP_FENCE_HI (n : Nat) : InSpan Part.CMP_FENCE_HI (Reg.CMP_FENCE_HI n) := inSpan (lo := 656900) (hi := 658944) (g := 8) rfl (by unfold Reg.CMP_FENCE_HI; omega)
theorem span_CMP_RASTER (n : Nat) : InSpan Part.CMP_RASTER (Reg.CMP_RASTER n) := inSpan (lo := 671744) (hi := 720900) (g := 16384) rfl (by unfold Reg.CMP_RASTER; omega)
theorem span_CMP_COLOUR : InSpan Part.CMP_COLOUR Reg.CMP_COLOUR := inSpan (lo := 659456) (hi := 659460) (g := 0) rfl ⟨by decide, by decide, rfl⟩
theorem span_CMP_CLAMP_COUNT : InSpan Part.CMP_CLAMP_COUNT Reg.CMP_CLAMP_COUNT := inSpan (lo := 659460) (hi := 659464) (g := 0) rfl ⟨by decide, by decide, rfl⟩
theorem span_CMP_CAPTURE_ROWS : InSpan Part.CMP_CAPTURE_ROWS Reg.CMP_CAPTURE_ROWS := inSpan (lo := 659464) (hi := 659468) (g := 0) rfl ⟨by decide, by decide, rfl⟩
theorem span_CMP_CAPTURE_SKIPPED : InSpan Part.CMP_CAPTURE_SKIPPED Reg.CMP_CAPTURE_SKIPPED := inSpan (lo := 659468) (hi := 659472) (g := 0) rfl ⟨by decide, by decide, rfl⟩
theorem span_CMP_BG_RG (n : Nat) : InSpan Part.CMP_BG_RG (Reg.CMP_BG_RG n) := inSpan (lo := 672000) (hi := 721156) (g := 16384) rfl (by unfold Reg.CMP_BG_RG; omega)
theorem span_CMP_BG_B (n : Nat) : InSpan Part.CMP_BG_B (Reg.CMP_BG_B n) := inSpan (lo := 672004) (hi := 721160) (g := 16384) rfl (by unfold Reg.CMP_BG_B; omega)
theorem span_CMP_ROW_STAT (n : Nat) : InSpan Part.CMP_ROW_STAT (Reg.CMP_ROW_STAT n) := inSpan (lo := 672008) (hi := 721164) (g := 16384) rfl (by unfold Reg.CMP_ROW_STAT; omega)
theorem span_CMP_ROWS_COMPOSED (n : Nat) : InSpan Part.CMP_ROWS_COMPOSED (Reg.CMP_ROWS_COMPOSED n) := inSpan (lo := 672012) (hi := 721168) (g := 16384) rfl (by unfold Reg.CMP_ROWS_COMPOSED; omega)
theorem span_CMP_BLOCKS_DROPPED (n : Nat) : InSpan Part.CMP_BLOCKS_DROPPED (Reg.CMP_BLOCKS_DROPPED n) := inSpan (lo := 672016) (hi := 721172) (g := 16384) rfl (by unfold Reg.CMP_BLOCKS_DROPPED; omega)
theorem span_CMP_BLOCKS_HELD (n : Nat) : InSpan Part.CMP_BLOCKS_HELD (Reg.CMP_BLOCKS_HELD n) := inSpan (lo := 672020) (hi := 721176) (g := 16384) rfl (by unfold Reg.CMP_BLOCKS_HELD; omega)
theorem span_CMP_HANDOFF_WAITS (n : Nat) : InSpan Part.CMP_HANDOFF_WAITS (Reg.CMP_HANDOFF_WAITS n) := inSpan (lo := 672024) (hi := 721180) (g := 16384) rfl (by unfold Reg.CMP_HANDOFF_WAITS; omega)
theorem span_CMP_SRC_PIXELS (n : Nat) : InSpan Part.CMP_SRC_PIXELS (Reg.CMP_SRC_PIXELS n) := inSpan (lo := 672028) (hi := 721184) (g := 16384) rfl (by unfold Reg.CMP_SRC_PIXELS; omega)
theorem span_ENC_CFG : InSpan Part.ENC_CFG Reg.ENC_CFG := inSpan (lo := 786432) (hi := 786436) (g := 0) rfl ⟨by decide, by decide, rfl⟩
theorem span_ENC_CELL_STAT (n : Nat) : InSpan Part.ENC_CELL_STAT (Reg.ENC_CELL_STAT n) := inSpan (lo := 802816) (hi := 851972) (g := 16384) rfl (by unfold Reg.ENC_CELL_STAT; omega)
theorem span_ENC_ROWS (n : Nat) : InSpan Part.ENC_ROWS (Reg.ENC_ROWS n) := inSpan (lo := 802820) (hi := 851976) (g := 16384) rfl (by unfold Reg.ENC_ROWS; omega)
theorem span_ENC_BITS_LO (n : Nat) : InSpan Part.ENC_BITS_LO (Reg.ENC_BITS_LO n) := inSpan (lo := 802824) (hi := 851980) (g := 16384) rfl (by unfold Reg.ENC_BITS_LO; omega)
theorem span_ENC_BITS_HI (n : Nat) : InSpan Part.ENC_BITS_HI (Reg.ENC_BITS_HI n) := inSpan (lo := 802828) (hi := 851984) (g := 16384) rfl (by unfold Reg.ENC_BITS_HI; omega)
theorem span_ENC_BLK_SKIP (n : Nat) : InSpan Part.ENC_BLK_SKIP (Reg.ENC_BLK_SKIP n) := inSpan (lo := 802832) (hi := 851988) (g := 16384) rfl (by unfold Reg.ENC_BLK_SKIP; omega)
theorem span_ENC_BLK_LTSKIP (n : Nat) : InSpan Part.ENC_BLK_LTSKIP (Reg.ENC_BLK_LTSKIP n) := inSpan (lo := 802836) (hi := 851992) (g := 16384) rfl (by unfold Reg.ENC_BLK_LTSKIP; omega)
theorem span_ENC_BLK_DCOPY (n : Nat) : InSpan Part.ENC_BLK_DCOPY (Reg.ENC_BLK_DCOPY n) := inSpan (lo := 802840) (hi := 851996) (g := 16384) rfl (by unfold Reg.ENC_BLK_DCOPY; omega)
theorem span_ENC_BLK_INTRA (n : Nat) : InSpan Part.ENC_BLK_INTRA (Reg.ENC_BLK_INTRA n) := inSpan (lo := 802844) (hi := 852000) (g := 16384) rfl (by unfold Reg.ENC_BLK_INTRA; omega)
theorem span_ENC_BLK_RAW (n : Nat) : InSpan Part.ENC_BLK_RAW (Reg.ENC_BLK_RAW n) := inSpan (lo := 802848) (hi := 852004) (g := 16384) rfl (by unfold Reg.ENC_BLK_RAW; omega)
theorem span_ENC_BLK_FLOOR (n : Nat) : InSpan Part.ENC_BLK_FLOOR (Reg.ENC_BLK_FLOOR n) := inSpan (lo := 802852) (hi := 852008) (g := 16384) rfl (by unfold Reg.ENC_BLK_FLOOR; omega)
theorem span_ENC_OCHRE_ROWS (n : Nat) : InSpan Part.ENC_OCHRE_ROWS (Reg.ENC_OCHRE_ROWS n) := inSpan (lo := 802856) (hi := 852012) (g := 16384) rfl (by unfold Reg.ENC_OCHRE_ROWS; omega)
theorem span_ENC_KEY_ROWS (n : Nat) : InSpan Part.ENC_KEY_ROWS (Reg.ENC_KEY_ROWS n) := inSpan (lo := 802860) (hi := 852016) (g := 16384) rfl (by unfold Reg.ENC_KEY_ROWS; omega)
theorem span_ENC_HOLD_SEGS (n : Nat) : InSpan Part.ENC_HOLD_SEGS (Reg.ENC_HOLD_SEGS n) := inSpan (lo := 802864) (hi := 852020) (g := 16384) rfl (by unfold Reg.ENC_HOLD_SEGS; omega)
theorem span_ENC_ROWS_LOSSLESS (n : Nat) : InSpan Part.ENC_ROWS_LOSSLESS (Reg.ENC_ROWS_LOSSLESS n) := inSpan (lo := 802868) (hi := 852024) (g := 16384) rfl (by unfold Reg.ENC_ROWS_LOSSLESS; omega)
theorem span_ENC_RETRIES (n : Nat) : InSpan Part.ENC_RETRIES (Reg.ENC_RETRIES n) := inSpan (lo := 802872) (hi := 852028) (g := 16384) rfl (by unfold Reg.ENC_RETRIES; omega)
theorem span_DEC_CFG : InSpan Part.DEC_CFG Reg.DEC_CFG := inSpan (lo := 917504) (hi := 917508) (g := 0) rfl ⟨by decide, by decide, rfl⟩
theorem span_DEC_CASCADE_DOMAIN : InSpan Part.DEC_CASCADE_DOMAIN Reg.DEC_CASCADE_DOMAIN := inSpan (lo := 917508) (hi := 917512) (g := 0) rfl ⟨by decide, by decide, rfl⟩
theorem span_DEC_CELL_STAT (n : Nat) : InSpan Part.DEC_CELL_STAT (Reg.DEC_CELL_STAT n) := inSpan (lo := 933888) (hi := 983044) (g := 16384) rfl (by unfold Reg.DEC_CELL_STAT; omega)
theorem span_DEC_ROWS (n : Nat) : InSpan Part.DEC_ROWS (Reg.DEC_ROWS n) := inSpan (lo := 933892) (hi := 983048) (g := 16384) rfl (by unfold Reg.DEC_ROWS; omega)
theorem span_DEC_SEG_KEPT (n : Nat) : InSpan Part.DEC_SEG_KEPT (Reg.DEC_SEG_KEPT n) := inSpan (lo := 933896) (hi := 983052) (g := 16384) rfl (by unfold Reg.DEC_SEG_KEPT; omega)
theorem span_DEC_SEG_DISCARDED (n : Nat) : InSpan Part.DEC_SEG_DISCARDED (Reg.DEC_SEG_DISCARDED n) := inSpan (lo := 933900) (hi := 983056) (g := 16384) rfl (by unfold Reg.DEC_SEG_DISCARDED; omega)
theorem span_DEC_SEG_ERRORS (n : Nat) : InSpan Part.DEC_SEG_ERRORS (Reg.DEC_SEG_ERRORS n) := inSpan (lo := 933904) (hi := 983060) (g := 16384) rfl (by unfold Reg.DEC_SEG_ERRORS; omega)
theorem span_DEC_RETRIES (n : Nat) : InSpan Part.DEC_RETRIES (Reg.DEC_RETRIES n) := inSpan (lo := 933908) (hi := 983064) (g := 16384) rfl (by unfold Reg.DEC_RETRIES; omega)
theorem span_DEC_LATE_ROWS (n : Nat) : InSpan Part.DEC_LATE_ROWS (Reg.DEC_LATE_ROWS n) := inSpan (lo := 933912) (hi := 983068) (g := 16384) rfl (by unfold Reg.DEC_LATE_ROWS; omega)
theorem span_DEC_SLATE_ROWS (n : Nat) : InSpan Part.DEC_SLATE_ROWS (Reg.DEC_SLATE_ROWS n) := inSpan (lo := 933916) (hi := 983072) (g := 16384) rfl (by unfold Reg.DEC_SLATE_ROWS; omega)
theorem span_DEC_REF_MISSING (n : Nat) : InSpan Part.DEC_REF_MISSING (Reg.DEC_REF_MISSING n) := inSpan (lo := 933920) (hi := 983076) (g := 16384) rfl (by unfold Reg.DEC_REF_MISSING; omega)
theorem span_DEC_HOLDS (n : Nat) : InSpan Part.DEC_HOLDS (Reg.DEC_HOLDS n) := inSpan (lo := 933924) (hi := 983080) (g := 16384) rfl (by unfold Reg.DEC_HOLDS; omega)
theorem span_DEC_LAST_ERR (n : Nat) : InSpan Part.DEC_LAST_ERR (Reg.DEC_LAST_ERR n) := inSpan (lo := 933928) (hi := 983084) (g := 16384) rfl (by unfold Reg.DEC_LAST_ERR; omega)
theorem span_DEC_LAST_HOLD (n : Nat) : InSpan Part.DEC_LAST_HOLD (Reg.DEC_LAST_HOLD n) := inSpan (lo := 933932) (hi := 983088) (g := 16384) rfl (by unfold Reg.DEC_LAST_HOLD; omega)
theorem span_LNK_CFG : InSpan Part.LNK_CFG Reg.LNK_CFG := inSpan (lo := 1048576) (hi := 1048580) (g := 0) rfl ⟨by decide, by decide, rfl⟩
theorem span_LNK_EQ_CFG : InSpan Part.LNK_EQ_CFG Reg.LNK_EQ_CFG := inSpan (lo := 1048580) (hi := 1048584) (g := 0) rfl ⟨by decide, by decide, rfl⟩
theorem span_LNK_RET_STAT : InSpan Part.LNK_RET_STAT Reg.LNK_RET_STAT := inSpan (lo := 1048584) (hi := 1048588) (g := 0) rfl ⟨by decide, by decide, rfl⟩
theorem span_LNK_RET_GIVEUP : InSpan Part.LNK_RET_GIVEUP Reg.LNK_RET_GIVEUP := inSpan (lo := 1048588) (hi := 1048592) (g := 0) rfl ⟨by decide, by decide, rfl⟩
theorem span_LNK_PORT_CFG (n i : Nat) : InSpan Part.LNK_PORT_CFG (Reg.LNK_PORT_CFG n i) := inSpan (lo := 1064960) (hi := 1133572) (g := 1024) rfl (by unfold Reg.LNK_PORT_CFG; omega)
theorem span_LNK_STATE (n i : Nat) : InSpan Part.LNK_STATE (Reg.LNK_STATE n i) := inSpan (lo := 1064964) (hi := 1133576) (g := 1024) rfl (by unfold Reg.LNK_STATE; omega)
theorem span_LNK_FOM (n i : Nat) : InSpan Part.LNK_FOM (Reg.LNK_FOM n i) := inSpan (lo := 1064968) (hi := 1133580) (g := 1024) rfl (by unfold Reg.LNK_FOM; omega)
theorem span_LNK_DFE (n i : Nat) : InSpan Part.LNK_DFE (Reg.LNK_DFE n i) := inSpan (lo := 1064972) (hi := 1133584) (g := 1024) rfl (by unfold Reg.LNK_DFE; omega)
theorem span_LNK_DESKEW (n i : Nat) : InSpan Part.LNK_DESKEW (Reg.LNK_DESKEW n i) := inSpan (lo := 1064976) (hi := 1133588) (g := 1024) rfl (by unfold Reg.LNK_DESKEW; omega)
theorem span_LNK_WORD_ERR (n i : Nat) : InSpan Part.LNK_WORD_ERR (Reg.LNK_WORD_ERR n i) := inSpan (lo := 1064980) (hi := 1133592) (g := 1024) rfl (by unfold Reg.LNK_WORD_ERR; omega)
theorem span_LNK_CW_ERR (n i : Nat) : InSpan Part.LNK_CW_ERR (Reg.LNK_CW_ERR n i) := inSpan (lo := 1064984) (hi := 1133596) (g := 1024) rfl (by unfold Reg.LNK_CW_ERR; omega)
theorem span_LNK_HDR_CRC_ERR (n i : Nat) : InSpan Part.LNK_HDR_CRC_ERR (Reg.LNK_HDR_CRC_ERR n i) := inSpan (lo := 1064988) (hi := 1133600) (g := 1024) rfl (by unfold Reg.LNK_HDR_CRC_ERR; omega)
theorem span_LNK_PAY_CRC_ERR (n i : Nat) : InSpan Part.LNK_PAY_CRC_ERR (Reg.LNK_PAY_CRC_ERR n i) := inSpan (lo := 1064992) (hi := 1133604) (g := 1024) rfl (by unfold Reg.LNK_PAY_CRC_ERR; omega)
theorem span_LNK_LOCK_LOSS (n i : Nat) : InSpan Part.LNK_LOCK_LOSS (Reg.LNK_LOCK_LOSS n i) := inSpan (lo := 1064996) (hi := 1133608) (g := 1024) rfl (by unfold Reg.LNK_LOCK_LOSS; omega)
theorem span_LNK_RETRAINS (n i : Nat) : InSpan Part.LNK_RETRAINS (Reg.LNK_RETRAINS n i) := inSpan (lo := 1065000) (hi := 1133612) (g := 1024) rfl (by unfold Reg.LNK_RETRAINS; omega)
theorem span_LNK_EQ_STEPS (n i : Nat) : InSpan Part.LNK_EQ_STEPS (Reg.LNK_EQ_STEPS n i) := inSpan (lo := 1065004) (hi := 1133616) (g := 1024) rfl (by unfold Reg.LNK_EQ_STEPS; omega)
theorem span_LNK_KEYREQ_RX (n i : Nat) : InSpan Part.LNK_KEYREQ_RX (Reg.LNK_KEYREQ_RX n i) := inSpan (lo := 1065008) (hi := 1133620) (g := 1024) rfl (by unfold Reg.LNK_KEYREQ_RX; omega)
theorem span_LNK_CELL_DROP (n i : Nat) : InSpan Part.LNK_CELL_DROP (Reg.LNK_CELL_DROP n i) := inSpan (lo := 1065012) (hi := 1133624) (g := 1024) rfl (by unfold Reg.LNK_CELL_DROP; omega)
theorem span_LNK_PKT_UNKNOWN (n i : Nat) : InSpan Part.LNK_PKT_UNKNOWN (Reg.LNK_PKT_UNKNOWN n i) := inSpan (lo := 1065016) (hi := 1133628) (g := 1024) rfl (by unfold Reg.LNK_PKT_UNKNOWN; omega)
theorem span_LNK_TEST (n i : Nat) : InSpan Part.LNK_TEST (Reg.LNK_TEST n i) := inSpan (lo := 1065020) (hi := 1133632) (g := 1024) rfl (by unfold Reg.LNK_TEST; omega)
theorem span_PAIR_STATE : InSpan Part.PAIR_STATE Reg.PAIR_STATE := inSpan (lo := 1179648) (hi := 1179652) (g := 0) rfl ⟨by decide, by decide, rfl⟩
theorem span_PAIR_CFG : InSpan Part.PAIR_CFG Reg.PAIR_CFG := inSpan (lo := 1179652) (hi := 1179656) (g := 0) rfl ⟨by decide, by decide, rfl⟩
theorem span_PAIR_EPOCH : InSpan Part.PAIR_EPOCH Reg.PAIR_EPOCH := inSpan (lo := 1179656) (hi := 1179660) (g := 0) rfl ⟨by decide, by decide, rfl⟩
theorem span_PAIR_CLEAN : InSpan Part.PAIR_CLEAN Reg.PAIR_CLEAN := inSpan (lo := 1179660) (hi := 1179664) (g := 0) rfl ⟨by decide, by decide, rfl⟩
theorem span_PAIR_FEED : InSpan Part.PAIR_FEED Reg.PAIR_FEED := inSpan (lo := 1179664) (hi := 1179668) (g := 0) rfl ⟨by decide, by decide, rfl⟩
theorem span_PAIR_OBSERVED : InSpan Part.PAIR_OBSERVED Reg.PAIR_OBSERVED := inSpan (lo := 1179668) (hi := 1179672) (g := 0) rfl ⟨by decide, by decide, rfl⟩
theorem span_PAIR_COMPARED_LO : InSpan Part.PAIR_COMPARED_LO Reg.PAIR_COMPARED_LO := inSpan (lo := 1179672) (hi := 1179676) (g := 0) rfl ⟨by decide, by decide, rfl⟩
theorem span_PAIR_COMPARED_HI : InSpan Part.PAIR_COMPARED_HI Reg.PAIR_COMPARED_HI := inSpan (lo := 1179676) (hi := 1179680) (g := 0) rfl ⟨by decide, by decide, rfl⟩
theorem span_PAIR_MISMATCHED : InSpan Part.PAIR_MISMATCHED Reg.PAIR_MISMATCHED := inSpan (lo := 1179680) (hi := 1179684) (g := 0) rfl ⟨by decide, by decide, rfl⟩
theorem span_PAIR_EXCUSED : InSpan Part.PAIR_EXCUSED Reg.PAIR_EXCUSED := inSpan (lo := 1179684) (hi := 1179688) (g := 0) rfl ⟨by decide, by decide, rfl⟩
theorem span_PAIR_DECISIONS : InSpan Part.PAIR_DECISIONS Reg.PAIR_DECISIONS := inSpan (lo := 1179688) (hi := 1179692) (g := 0) rfl ⟨by decide, by decide, rfl⟩
theorem span_PAIR_TAKEOVERS : InSpan Part.PAIR_TAKEOVERS Reg.PAIR_TAKEOVERS := inSpan (lo := 1179692) (hi := 1179696) (g := 0) rfl ⟨by decide, by decide, rfl⟩
theorem span_PAIR_LAST_MISMATCH : InSpan Part.PAIR_LAST_MISMATCH Reg.PAIR_LAST_MISMATCH := inSpan (lo := 1179696) (hi := 1179700) (g := 0) rfl ⟨by decide, by decide, rfl⟩
theorem span_PAIR_PKT_UNKNOWN : InSpan Part.PAIR_PKT_UNKNOWN Reg.PAIR_PKT_UNKNOWN := inSpan (lo := 1179700) (hi := 1179704) (g := 0) rfl ⟨by decide, by decide, rfl⟩
theorem span_PAIR_PARTNER_SERIAL_LO : InSpan Part.PAIR_PARTNER_SERIAL_LO Reg.PAIR_PARTNER_SERIAL_LO := inSpan (lo := 1179704) (hi := 1179708) (g := 0) rfl ⟨by decide, by decide, rfl⟩
theorem span_PAIR_PARTNER_SERIAL_HI : InSpan Part.PAIR_PARTNER_SERIAL_HI Reg.PAIR_PARTNER_SERIAL_HI := inSpan (lo := 1179708) (hi := 1179712) (g := 0) rfl ⟨by decide, by decide, rfl⟩
theorem span_PAIR_HOP_DELAY : InSpan Part.PAIR_HOP_DELAY Reg.PAIR_HOP_DELAY := inSpan (lo := 1179712) (hi := 1179716) (g := 0) rfl ⟨by decide, by decide, rfl⟩
theorem span_PAIR_TEST : InSpan Part.PAIR_TEST Reg.PAIR_TEST := inSpan (lo := 1179716) (hi := 1179720) (g := 0) rfl ⟨by decide, by decide, rfl⟩
theorem span_PAIR_LINK_LOSSES : InSpan Part.PAIR_LINK_LOSSES Reg.PAIR_LINK_LOSSES := inSpan (lo := 1179720) (hi := 1179724) (g := 0) rfl ⟨by decide, by decide, rfl⟩
theorem span_LMP_CFG : InSpan Part.LMP_CFG Reg.LMP_CFG := inSpan (lo := 1310720) (hi := 1310724) (g := 0) rfl ⟨by decide, by decide, rfl⟩
theorem span_LMP_GAIN_CFG : InSpan Part.LMP_GAIN_CFG Reg.LMP_GAIN_CFG := inSpan (lo := 1310724) (hi := 1310728) (g := 0) rfl ⟨by decide, by decide, rfl⟩
theorem span_LMP_CEIL_CFG : InSpan Part.LMP_CEIL_CFG Reg.LMP_CEIL_CFG := inSpan (lo := 1310728) (hi := 1310732) (g := 0) rfl ⟨by decide, by decide, rfl⟩
theorem span_LMP_CEIL_LIMITS : InSpan Part.LMP_CEIL_LIMITS Reg.LMP_CEIL_LIMITS := inSpan (lo := 1310732) (hi := 1310736) (g := 0) rfl ⟨by decide, by decide, rfl⟩
theorem span_LMP_CEIL_STEP : InSpan Part.LMP_CEIL_STEP Reg.LMP_CEIL_STEP := inSpan (lo := 1310736) (hi := 1310740) (g := 0) rfl ⟨by decide, by decide, rfl⟩
theorem span_LMP_CEIL : InSpan Part.LMP_CEIL Reg.LMP_CEIL := inSpan (lo := 1310740) (hi := 1310744) (g := 0) rfl ⟨by decide, by decide, rfl⟩
theorem span_LMP_CEIL_START_LO : InSpan Part.LMP_CEIL_START_LO Reg.LMP_CEIL_START_LO := inSpan (lo := 1310744) (hi := 1310748) (g := 0) rfl ⟨by decide, by decide, rfl⟩
theorem span_LMP_CEIL_START_HI : InSpan Part.LMP_CEIL_START_HI Reg.LMP_CEIL_START_HI := inSpan (lo := 1310748) (hi := 1310752) (g := 0) rfl ⟨by decide, by decide, rfl⟩
theorem span_LMP_HEADROOM : InSpan Part.LMP_HEADROOM Reg.LMP_HEADROOM := inSpan (lo := 1310752) (hi := 1310756) (g := 0) rfl ⟨by decide, by decide, rfl⟩
theorem span_LMP_SET : InSpan Part.LMP_SET Reg.LMP_SET := inSpan (lo := 1310756) (hi := 1310760) (g := 0) rfl ⟨by decide, by decide, rfl⟩
theorem span_LMP_WEAR_CYCLES : InSpan Part.LMP_WEAR_CYCLES Reg.LMP_WEAR_CYCLES := inSpan (lo := 1310760) (hi := 1310764) (g := 0) rfl ⟨by decide, by decide, rfl⟩
theorem span_LMP_LIMITED_PIXELS : InSpan Part.LMP_LIMITED_PIXELS Reg.LMP_LIMITED_PIXELS := inSpan (lo := 1310764) (hi := 1310768) (g := 0) rfl ⟨by decide, by decide, rfl⟩
theorem span_LMP_SATURATED : InSpan Part.LMP_SATURATED Reg.LMP_SATURATED := inSpan (lo := 1310768) (hi := 1310772) (g := 0) rfl ⟨by decide, by decide, rfl⟩
theorem span_LMP_SAMPLES_LOST : InSpan Part.LMP_SAMPLES_LOST Reg.LMP_SAMPLES_LOST := inSpan (lo := 1310772) (hi := 1310776) (g := 0) rfl ⟨by decide, by decide, rfl⟩
theorem span_LMP_TAKEBACK_SHORT : InSpan Part.LMP_TAKEBACK_SHORT Reg.LMP_TAKEBACK_SHORT := inSpan (lo := 1310776) (hi := 1310780) (g := 0) rfl ⟨by decide, by decide, rfl⟩
theorem span_LMP_GREY_APPLIED : InSpan Part.LMP_GREY_APPLIED Reg.LMP_GREY_APPLIED := inSpan (lo := 1310780) (hi := 1310784) (g := 0) rfl ⟨by decide, by decide, rfl⟩
theorem span_LMP_UNCORRECTABLE : InSpan Part.LMP_UNCORRECTABLE Reg.LMP_UNCORRECTABLE := inSpan (lo := 1310784) (hi := 1310788) (g := 0) rfl ⟨by decide, by decide, rfl⟩
theorem span_LMP_GAIN_CAPPED : InSpan Part.LMP_GAIN_CAPPED Reg.LMP_GAIN_CAPPED := inSpan (lo := 1310788) (hi := 1310792) (g := 0) rfl ⟨by decide, by decide, rfl⟩
theorem span_LMP_RAMPS : InSpan Part.LMP_RAMPS Reg.LMP_RAMPS := inSpan (lo := 1310792) (hi := 1310796) (g := 0) rfl ⟨by decide, by decide, rfl⟩
theorem span_LMP_BASE_RECA : InSpan Part.LMP_BASE_RECA Reg.LMP_BASE_RECA := inSpan (lo := 1310848) (hi := 1310852) (g := 0) rfl ⟨by decide, by decide, rfl⟩
theorem span_LMP_BASE_RECB : InSpan Part.LMP_BASE_RECB Reg.LMP_BASE_RECB := inSpan (lo := 1310852) (hi := 1310856) (g := 0) rfl ⟨by decide, by decide, rfl⟩
theorem span_LMP_BASE_GAIN : InSpan Part.LMP_BASE_GAIN Reg.LMP_BASE_GAIN := inSpan (lo := 1310856) (hi := 1310860) (g := 0) rfl ⟨by decide, by decide, rfl⟩
theorem span_LMP_BASE_DITHER : InSpan Part.LMP_BASE_DITHER Reg.LMP_BASE_DITHER := inSpan (lo := 1310860) (hi := 1310864) (g := 0) rfl ⟨by decide, by decide, rfl⟩
theorem span_LMP_BASE_WEAR : InSpan Part.LMP_BASE_WEAR Reg.LMP_BASE_WEAR := inSpan (lo := 1310864) (hi := 1310868) (g := 0) rfl ⟨by decide, by decide, rfl⟩
theorem span_LMP_LIM (n : Nat) : InSpan Part.LMP_LIM (Reg.LMP_LIM n) := inSpan (lo := 1310976) (hi := 1311232) (g := 4) rfl (by unfold Reg.LMP_LIM; omega)
theorem span_LMP_CELL_STAT (n : Nat) : InSpan Part.LMP_CELL_STAT (Reg.LMP_CELL_STAT n) := inSpan (lo := 1327104) (hi := 1376260) (g := 16384) rfl (by unfold Reg.LMP_CELL_STAT; omega)
theorem span_LMP_ROWS (n : Nat) : InSpan Part.LMP_ROWS (Reg.LMP_ROWS n) := inSpan (lo := 1327108) (hi := 1376264) (g := 16384) rfl (by unfold Reg.LMP_ROWS; omega)
theorem span_LMP_ROWS_FAILED (n : Nat) : InSpan Part.LMP_ROWS_FAILED (Reg.LMP_ROWS_FAILED n) := inSpan (lo := 1327112) (hi := 1376268) (g := 16384) rfl (by unfold Reg.LMP_ROWS_FAILED; omega)
theorem span_LMP_RETRIES (n : Nat) : InSpan Part.LMP_RETRIES (Reg.LMP_RETRIES n) := inSpan (lo := 1327116) (hi := 1376272) (g := 16384) rfl (by unfold Reg.LMP_RETRIES; omega)
theorem span_SCN_FRAME_ADDR : InSpan Part.SCN_FRAME_ADDR Reg.SCN_FRAME_ADDR := inSpan (lo := 1441792) (hi := 1441796) (g := 0) rfl ⟨by decide, by decide, rfl⟩
theorem span_SCN_PIPE_BASE0 : InSpan Part.SCN_PIPE_BASE0 Reg.SCN_PIPE_BASE0 := inSpan (lo := 1441796) (hi := 1441800) (g := 0) rfl ⟨by decide, by decide, rfl⟩
theorem span_SCN_PIPE_BASE1 : InSpan Part.SCN_PIPE_BASE1 Reg.SCN_PIPE_BASE1 := inSpan (lo := 1441800) (hi := 1441804) (g := 0) rfl ⟨by decide, by decide, rfl⟩
theorem span_SCN_STAT : InSpan Part.SCN_STAT Reg.SCN_STAT := inSpan (lo := 1441804) (hi := 1441808) (g := 0) rfl ⟨by decide, by decide, rfl⟩
theorem span_DRV_SYNC_COUNT : InSpan Part.DRV_SYNC_COUNT Reg.DRV_SYNC_COUNT := inSpan (lo := 1441808) (hi := 1441812) (g := 0) rfl ⟨by decide, by decide, rfl⟩
theorem span_SCN_RANGE_ERR : InSpan Part.SCN_RANGE_ERR Reg.SCN_RANGE_ERR := inSpan (lo := 1441812) (hi := 1441816) (g := 0) rfl ⟨by decide, by decide, rfl⟩
theorem span_SCN_CRC_XY (n : Nat) : InSpan Part.SCN_CRC_XY (Reg.SCN_CRC_XY n) := inSpan (lo := 1441856) (hi := 1441908) (g := 16) rfl (by unfold Reg.SCN_CRC_XY; omega)
theorem span_SCN_CRC_WH (n : Nat) : InSpan Part.SCN_CRC_WH (Reg.SCN_CRC_WH n) := inSpan (lo := 1441860) (hi := 1441912) (g := 16) rfl (by unfold Reg.SCN_CRC_WH; omega)
theorem span_SCN_CRC_VAL (n : Nat) : InSpan Part.SCN_CRC_VAL (Reg.SCN_CRC_VAL n) := inSpan (lo := 1441864) (hi := 1441916) (g := 16) rfl (by unfold Reg.SCN_CRC_VAL; omega)
theorem span_SCN_CRC_TICK (n : Nat) : InSpan Part.SCN_CRC_TICK (Reg.SCN_CRC_TICK n) := inSpan (lo := 1441868) (hi := 1441920) (g := 16) rfl (by unfold Reg.SCN_CRC_TICK; omega)
theorem span_DRV_PROF_A (n : Nat) : InSpan Part.DRV_PROF_A (Reg.DRV_PROF_A n) := inSpan (lo := 1442048) (hi := 1442108) (g := 8) rfl (by unfold Reg.DRV_PROF_A; omega)
theorem span_DRV_PROF_B (n : Nat) : InSpan Part.DRV_PROF_B (Reg.DRV_PROF_B n) := inSpan (lo := 1442052) (hi := 1442112) (g := 8) rfl (by unfold Reg.DRV_PROF_B; omega)
theorem span_DRV_TE_CFG (n : Nat) : InSpan Part.DRV_TE_CFG (Reg.DRV_TE_CFG n) := inSpan (lo := 1458176) (hi := 1507332) (g := 16384) rfl (by unfold Reg.DRV_TE_CFG; omega)
theorem span_DRV_TE_STAT (n : Nat) : InSpan Part.DRV_TE_STAT (Reg.DRV_TE_STAT n) := inSpan (lo := 1458180) (hi := 1507336) (g := 16384) rfl (by unfold Reg.DRV_TE_STAT; omega)
theorem span_DRV_TE_MISSING (n : Nat) : InSpan Part.DRV_TE_MISSING (Reg.DRV_TE_MISSING n) := inSpan (lo := 1458184) (hi := 1507340) (g := 16384) rfl (by unfold Reg.DRV_TE_MISSING; omega)
theorem span_DRV_TE_OVERRUN (n : Nat) : InSpan Part.DRV_TE_OVERRUN (Reg.DRV_TE_OVERRUN n) := inSpan (lo := 1458188) (hi := 1507344) (g := 16384) rfl (by unfold Reg.DRV_TE_OVERRUN; omega)
theorem span_DRV_GROUP_CFG (n i : Nat) : InSpan Part.DRV_GROUP_CFG (Reg.DRV_GROUP_CFG n i) := inSpan (lo := 1458432) (hi := 1507940) (g := 32) rfl (by unfold Reg.DRV_GROUP_CFG; omega)
theorem span_DRV_GROUP_STAT (n i : Nat) : InSpan Part.DRV_GROUP_STAT (Reg.DRV_GROUP_STAT n i) := inSpan (lo := 1458436) (hi := 1507944) (g := 32) rfl (by unfold Reg.DRV_GROUP_STAT; omega)
theorem span_DRV_LOADS (n i : Nat) : InSpan Part.DRV_LOADS (Reg.DRV_LOADS n i) := inSpan (lo := 1458440) (hi := 1507948) (g := 32) rfl (by unfold Reg.DRV_LOADS; omega)
theorem span_DRV_CUTS (n i : Nat) : InSpan Part.DRV_CUTS (Reg.DRV_CUTS n i) := inSpan (lo := 1458444) (hi := 1507952) (g := 32) rfl (by unfold Reg.DRV_CUTS; omega)
theorem span_DRV_FETCH_FAIL (n i : Nat) : InSpan Part.DRV_FETCH_FAIL (Reg.DRV_FETCH_FAIL n i) := inSpan (lo := 1458448) (hi := 1507956) (g := 32) rfl (by unfold Reg.DRV_FETCH_FAIL; omega)
theorem span_DRV_RB_ERR (n i : Nat) : InSpan Part.DRV_RB_ERR (Reg.DRV_RB_ERR n i) := inSpan (lo := 1458452) (hi := 1507960) (g := 32) rfl (by unfold Reg.DRV_RB_ERR; omega)
theorem span_DRV_RB_PINS (n i : Nat) : InSpan Part.DRV_RB_PINS (Reg.DRV_RB_PINS n i) := inSpan (lo := 1458456) (hi := 1507964) (g := 32) rfl (by unfold Reg.DRV_RB_PINS; omega)
theorem span_DRV_STATUS_READS (n i : Nat) : InSpan Part.DRV_STATUS_READS (Reg.DRV_STATUS_READS n i) := inSpan (lo := 1458460) (hi := 1507968) (g := 32) rfl (by unfold Reg.DRV_STATUS_READS; omega)
theorem span_LBD_CFG : InSpan Part.LBD_CFG Reg.LBD_CFG := inSpan (lo := 1572864) (hi := 1572868) (g := 0) rfl ⟨by decide, by decide, rfl⟩
theorem span_LBD_FAULT_CFG : InSpan Part.LBD_FAULT_CFG Reg.LBD_FAULT_CFG := inSpan (lo := 1572868) (hi := 1572872) (g := 0) rfl ⟨by decide, by decide, rfl⟩
theorem span_LBD_LIFE_CFG : InSpan Part.LBD_LIFE_CFG Reg.LBD_LIFE_CFG := inSpan (lo := 1572872) (hi := 1572876) (g := 0) rfl ⟨by decide, by decide, rfl⟩
theorem span_LBD_WEAR_STORE : InSpan Part.LBD_WEAR_STORE Reg.LBD_WEAR_STORE := inSpan (lo := 1572876) (hi := 1572880) (g := 0) rfl ⟨by decide, by decide, rfl⟩
theorem span_LBD_TEST : InSpan Part.LBD_TEST Reg.LBD_TEST := inSpan (lo := 1572880) (hi := 1572884) (g := 0) rfl ⟨by decide, by decide, rfl⟩
theorem span_LBD_GREY_PULSES : InSpan Part.LBD_GREY_PULSES Reg.LBD_GREY_PULSES := inSpan (lo := 1572884) (hi := 1572888) (g := 0) rfl ⟨by decide, by decide, rfl⟩
theorem span_LBD_WEAR_WRITES : InSpan Part.LBD_WEAR_WRITES Reg.LBD_WEAR_WRITES := inSpan (lo := 1572888) (hi := 1572892) (g := 0) rfl ⟨by decide, by decide, rfl⟩
theorem span_LBD_SIG_FAIL : InSpan Part.LBD_SIG_FAIL Reg.LBD_SIG_FAIL := inSpan (lo := 1572892) (hi := 1572896) (g := 0) rfl ⟨by decide, by decide, rfl⟩
theorem span_LBD_FLOG_HEAD : InSpan Part.LBD_FLOG_HEAD Reg.LBD_FLOG_HEAD := inSpan (lo := 1572896) (hi := 1572900) (g := 0) rfl ⟨by decide, by decide, rfl⟩
theorem span_LBD_UNVERIFIED : InSpan Part.LBD_UNVERIFIED Reg.LBD_UNVERIFIED := inSpan (lo := 1572900) (hi := 1572904) (g := 0) rfl ⟨by decide, by decide, rfl⟩
theorem span_LBD_BOARD_STAT (n : Nat) : InSpan Part.LBD_BOARD_STAT (Reg.LBD_BOARD_STAT n) := inSpan (lo := 1573120) (hi := 1575140) (g := 32) rfl (by unfold Reg.LBD_BOARD_STAT; omega)
theorem span_LBD_BOARD_FAULTS (n : Nat) : InSpan Part.LBD_BOARD_FAULTS (Reg.LBD_BOARD_FAULTS n) := inSpan (lo := 1573124) (hi := 1575144) (g := 32) rfl (by unfold Reg.LBD_BOARD_FAULTS; omega)
theorem span_LBD_BOARD_UNVER (n : Nat) : InSpan Part.LBD_BOARD_UNVER (Reg.LBD_BOARD_UNVER n) := inSpan (lo := 1573128) (hi := 1575148) (g := 32) rfl (by unfold Reg.LBD_BOARD_UNVER; omega)
theorem span_LBD_BOARD_TEMP (n : Nat) : InSpan Part.LBD_BOARD_TEMP (Reg.LBD_BOARD_TEMP n) := inSpan (lo := 1573132) (hi := 1575152) (g := 32) rfl (by unfold Reg.LBD_BOARD_TEMP; omega)
theorem span_LBD_BOARD_SERIAL (n i : Nat) : InSpan Part.LBD_BOARD_SERIAL (Reg.LBD_BOARD_SERIAL n i) := inSpan (lo := 1573136) (hi := 1575168) (g := 4) rfl (by unfold Reg.LBD_BOARD_SERIAL; omega)
theorem span_LBD_FLOG_CHAN (n : Nat) : InSpan Part.LBD_FLOG_CHAN (Reg.LBD_FLOG_CHAN n) := inSpan (lo := 1576960) (hi := 1577972) (g := 16) rfl (by unfold Reg.LBD_FLOG_CHAN; omega)
theorem span_LBD_FLOG_INFO (n : Nat) : InSpan Part.LBD_FLOG_INFO (Reg.LBD_FLOG_INFO n) := inSpan (lo := 1576964) (hi := 1577976) (g := 16) rfl (by unfold Reg.LBD_FLOG_INFO; omega)
theorem span_LBD_FLOG_TICK (n : Nat) : InSpan Part.LBD_FLOG_TICK (Reg.LBD_FLOG_TICK n) := inSpan (lo := 1576968) (hi := 1577980) (g := 16) rfl (by unfold Reg.LBD_FLOG_TICK; omega)
theorem span_LBD_BUS_STAT (n i : Nat) : InSpan Part.LBD_BUS_STAT (Reg.LBD_BUS_STAT n i) := inSpan (lo := 1589248) (hi := 1638452) (g := 16) rfl (by unfold Reg.LBD_BUS_STAT; omega)
theorem span_LBD_BUS_ERR (n i : Nat) : InSpan Part.LBD_BUS_ERR (Reg.LBD_BUS_ERR n i) := inSpan (lo := 1589252) (hi := 1638456) (g := 16) rfl (by unfold Reg.LBD_BUS_ERR; omega)
theorem span_LBD_GREY_DEFERRED (n : Nat) : InSpan Part.LBD_GREY_DEFERRED (Reg.LBD_GREY_DEFERRED n) := inSpan (lo := 1589312) (hi := 1638468) (g := 16384) rfl (by unfold Reg.LBD_GREY_DEFERRED; omega)
theorem span_LBD_READOUTS_DISCARDED (n : Nat) : InSpan Part.LBD_READOUTS_DISCARDED (Reg.LBD_READOUTS_DISCARDED n) := inSpan (lo := 1589316) (hi := 1638472) (g := 16384) rfl (by unfold Reg.LBD_READOUTS_DISCARDED; omega)
theorem span_AUD_STATE : InSpan Part.AUD_STATE Reg.AUD_STATE := inSpan (lo := 1703936) (hi := 1703940) (g := 0) rfl ⟨by decide, by decide, rfl⟩
theorem span_AUD_SAMPLE_LO : InSpan Part.AUD_SAMPLE_LO Reg.AUD_SAMPLE_LO := inSpan (lo := 1703940) (hi := 1703944) (g := 0) rfl ⟨by decide, by decide, rfl⟩
theorem span_AUD_SAMPLE_HI : InSpan Part.AUD_SAMPLE_HI Reg.AUD_SAMPLE_HI := inSpan (lo := 1703944) (hi := 1703948) (g := 0) rfl ⟨by decide, by decide, rfl⟩
theorem span_AUD_LEAD : InSpan Part.AUD_LEAD Reg.AUD_LEAD := inSpan (lo := 1703948) (hi := 1703952) (g := 0) rfl ⟨by decide, by decide, rfl⟩
theorem span_AUD_PLAY_RUN : InSpan Part.AUD_PLAY_RUN Reg.AUD_PLAY_RUN := inSpan (lo := 1703952) (hi := 1703956) (g := 0) rfl ⟨by decide, by decide, rfl⟩
theorem span_AUD_CAP_RUN : InSpan Part.AUD_CAP_RUN Reg.AUD_CAP_RUN := inSpan (lo := 1703956) (hi := 1703960) (g := 0) rfl ⟨by decide, by decide, rfl⟩
theorem span_AUD_MISSING : InSpan Part.AUD_MISSING Reg.AUD_MISSING := inSpan (lo := 1703960) (hi := 1703964) (g := 0) rfl ⟨by decide, by decide, rfl⟩
theorem span_AUD_MASK_LATE : InSpan Part.AUD_MASK_LATE Reg.AUD_MASK_LATE := inSpan (lo := 1703964) (hi := 1703968) (g := 0) rfl ⟨by decide, by decide, rfl⟩
theorem span_AUD_UNDERRUN (n : Nat) : InSpan Part.AUD_UNDERRUN (Reg.AUD_UNDERRUN n) := inSpan (lo := 1704192) (hi := 1704260) (g := 4) rfl (by unfold Reg.AUD_UNDERRUN; omega)
theorem span_AUD_OVERRUN (n : Nat) : InSpan Part.AUD_OVERRUN (Reg.AUD_OVERRUN n) := inSpan (lo := 1704320) (hi := 1704384) (g := 4) rfl (by unfold Reg.AUD_OVERRUN; omega)
theorem span_AUD_PORT_CFG (n i : Nat) : InSpan Part.AUD_PORT_CFG (Reg.AUD_PORT_CFG n i) := inSpan (lo := 1720320) (hi := 1770244) (g := 256) rfl (by unfold Reg.AUD_PORT_CFG; omega)
theorem span_AUD_PORT_STAT (n i : Nat) : InSpan Part.AUD_PORT_STAT (Reg.AUD_PORT_STAT n i) := inSpan (lo := 1720324) (hi := 1770248) (g := 256) rfl (by unfold Reg.AUD_PORT_STAT; omega)
theorem span_AUD_MASK (n i : Nat) : InSpan Part.AUD_MASK (Reg.AUD_MASK n i) := inSpan (lo := 1720328) (hi := 1770252) (g := 256) rfl (by unfold Reg.AUD_MASK; omega)
theorem span_AUD_MASK_SHADOW (n i : Nat) : InSpan Part.AUD_MASK_SHADOW (Reg.AUD_MASK_SHADOW n i) := inSpan (lo := 1720332) (hi := 1770256) (g := 256) rfl (by unfold Reg.AUD_MASK_SHADOW; omega)
theorem span_AUD_RATE (n i : Nat) : InSpan Part.AUD_RATE (Reg.AUD_RATE n i) := inSpan (lo := 1720336) (hi := 1770260) (g := 256) rfl (by unfold Reg.AUD_RATE; omega)
theorem span_AUD_RATIO (n i : Nat) : InSpan Part.AUD_RATIO (Reg.AUD_RATIO n i) := inSpan (lo := 1720340) (hi := 1770264) (g := 256) rfl (by unfold Reg.AUD_RATIO; omega)
theorem span_AUD_FRAME_ERR (n i : Nat) : InSpan Part.AUD_FRAME_ERR (Reg.AUD_FRAME_ERR n i) := inSpan (lo := 1720344) (hi := 1770268) (g := 256) rfl (by unfold Reg.AUD_FRAME_ERR; omega)
theorem span_AUD_CLOCK_LOSS (n i : Nat) : InSpan Part.AUD_CLOCK_LOSS (Reg.AUD_CLOCK_LOSS n i) := inSpan (lo := 1720348) (hi := 1770272) (g := 256) rfl (by unfold Reg.AUD_CLOCK_LOSS; omega)
theorem span_AUD_RELOCKS (n i : Nat) : InSpan Part.AUD_RELOCKS (Reg.AUD_RELOCKS n i) := inSpan (lo := 1720352) (hi := 1770276) (g := 256) rfl (by unfold Reg.AUD_RELOCKS; omega)
theorem span_MTR_STATE : InSpan Part.MTR_STATE Reg.MTR_STATE := inSpan (lo := 1835008) (hi := 1835012) (g := 0) rfl ⟨by decide, by decide, rfl⟩
theorem span_MTR_HEALTH : InSpan Part.MTR_HEALTH Reg.MTR_HEALTH := inSpan (lo := 1835012) (hi := 1835016) (g := 0) rfl ⟨by decide, by decide, rfl⟩
theorem span_MTR_INTERVAL_LO : InSpan Part.MTR_INTERVAL_LO Reg.MTR_INTERVAL_LO := inSpan (lo := 1835016) (hi := 1835020) (g := 0) rfl ⟨by decide, by decide, rfl⟩
theorem span_MTR_INTERVAL_HI : InSpan Part.MTR_INTERVAL_HI Reg.MTR_INTERVAL_HI := inSpan (lo := 1835020) (hi := 1835024) (g := 0) rfl ⟨by decide, by decide, rfl⟩
theorem span_MTR_MCLK_MEAS : InSpan Part.MTR_MCLK_MEAS Reg.MTR_MCLK_MEAS := inSpan (lo := 1835024) (hi := 1835028) (g := 0) rfl ⟨by decide, by decide, rfl⟩
theorem span_MTR_FW_VERSION : InSpan Part.MTR_FW_VERSION Reg.MTR_FW_VERSION := inSpan (lo := 1835028) (hi := 1835032) (g := 0) rfl ⟨by decide, by decide, rfl⟩
theorem span_MTR_LOG_COUNT : InSpan Part.MTR_LOG_COUNT Reg.MTR_LOG_COUNT := inSpan (lo := 1835032) (hi := 1835036) (g := 0) rfl ⟨by decide, by decide, rfl⟩
theorem span_MTR_LOG_DROPPED : InSpan Part.MTR_LOG_DROPPED Reg.MTR_LOG_DROPPED := inSpan (lo := 1835036) (hi := 1835040) (g := 0) rfl ⟨by decide, by decide, rfl⟩
theorem span_MTR_SEAL_BREAKS : InSpan Part.MTR_SEAL_BREAKS Reg.MTR_SEAL_BREAKS := inSpan (lo := 1835040) (hi := 1835044) (g := 0) rfl ⟨by decide, by decide, rfl⟩
theorem span_MTR_REC_REQ : InSpan Part.MTR_REC_REQ Reg.MTR_REC_REQ := inSpan (lo := 1835044) (hi := 1835048) (g := 0) rfl ⟨by decide, by decide, rfl⟩
theorem span_MTR_REC_STAT : InSpan Part.MTR_REC_STAT Reg.MTR_REC_STAT := inSpan (lo := 1835048) (hi := 1835052) (g := 0) rfl ⟨by decide, by decide, rfl⟩
theorem span_MTR_FW_DIGEST (n : Nat) : InSpan Part.MTR_FW_DIGEST (Reg.MTR_FW_DIGEST n) := inSpan (lo := 1835072) (hi := 1835136) (g := 4) rfl (by unfold Reg.MTR_FW_DIGEST; omega)
theorem span_MTR_CAL_CMD : InSpan Part.MTR_CAL_CMD Reg.MTR_CAL_CMD := inSpan (lo := 1835776) (hi := 1835780) (g := 0) rfl ⟨by decide, by decide, rfl⟩
theorem span_MTR_CAL_ARG0 : InSpan Part.MTR_CAL_ARG0 Reg.MTR_CAL_ARG0 := inSpan (lo := 1835780) (hi := 1835784) (g := 0) rfl ⟨by decide, by decide, rfl⟩
theorem span_MTR_CAL_ARG1 : InSpan Part.MTR_CAL_ARG1 Reg.MTR_CAL_ARG1 := inSpan (lo := 1835784) (hi := 1835788) (g := 0) rfl ⟨by decide, by decide, rfl⟩
theorem span_MTR_CAL_ARG2 : InSpan Part.MTR_CAL_ARG2 Reg.MTR_CAL_ARG2 := inSpan (lo := 1835788) (hi := 1835792) (g := 0) rfl ⟨by decide, by decide, rfl⟩
theorem span_MTR_CAL_CERT (n : Nat) : InSpan Part.MTR_CAL_CERT (Reg.MTR_CAL_CERT n) := inSpan (lo := 1835792) (hi := 1835808) (g := 4) rfl (by unfold Reg.MTR_CAL_CERT; omega)
theorem span_MTR_CAL_STAT : InSpan Part.MTR_CAL_STAT Reg.MTR_CAL_STAT := inSpan (lo := 1835808) (hi := 1835812) (g := 0) rfl ⟨by decide, by decide, rfl⟩
theorem span_MTR_CAL_DATA (n : Nat) : InSpan Part.MTR_CAL_DATA (Reg.MTR_CAL_DATA n) := inSpan (lo := 1836032) (hi := 1836544) (g := 4) rfl (by unfold Reg.MTR_CAL_DATA; omega)
theorem span_MTR_REC (n : Nat) : InSpan Part.MTR_REC (Reg.MTR_REC n) := inSpan (lo := 1839104) (hi := 1840128) (g := 4) rfl (by unfold Reg.MTR_REC; omega)
theorem span_MTR_LOG (n : Nat) : InSpan Part.MTR_LOG (Reg.MTR_LOG n) := inSpan (lo := 1900544) (hi := 1966080) (g := 4) rfl (by unfold Reg.MTR_LOG; omega)
theorem span_MTR_ENERGY_LO (n : Nat) : InSpan Part.MTR_ENERGY_LO (Reg.MTR_ENERGY_LO n) := inSpan (lo := 1835264) (hi := 1835748) (g := 32) rfl (by unfold Reg.MTR_ENERGY_LO; omega)
theorem span_MTR_ENERGY_HI (n : Nat) : InSpan Part.MTR_ENERGY_HI (Reg.MTR_ENERGY_HI n) := inSpan (lo := 1835268) (hi := 1835752) (g := 32) rfl (by unfold Reg.MTR_ENERGY_HI; omega)
theorem span_MTR_POWER (n : Nat) : InSpan Part.MTR_POWER (Reg.MTR_POWER n) := inSpan (lo := 1835272) (hi := 1835756) (g := 32) rfl (by unfold Reg.MTR_POWER; omega)
theorem span_MTR_VRMS (n : Nat) : InSpan Part.MTR_VRMS (Reg.MTR_VRMS n) := inSpan (lo := 1835276) (hi := 1835760) (g := 32) rfl (by unfold Reg.MTR_VRMS; omega)
theorem span_MTR_IRMS (n : Nat) : InSpan Part.MTR_IRMS (Reg.MTR_IRMS n) := inSpan (lo := 1835280) (hi := 1835764) (g := 32) rfl (by unfold Reg.MTR_IRMS; omega)
theorem span_MTR_POINT_STAT (n : Nat) : InSpan Part.MTR_POINT_STAT (Reg.MTR_POINT_STAT n) := inSpan (lo := 1835284) (hi := 1835768) (g := 32) rfl (by unfold Reg.MTR_POINT_STAT; omega)
theorem span_THM_STATE : InSpan Part.THM_STATE Reg.THM_STATE := inSpan (lo := 1966080) (hi := 1966084) (g := 0) rfl ⟨by decide, by decide, rfl⟩
theorem span_THM_CFG : InSpan Part.THM_CFG Reg.THM_CFG := inSpan (lo := 1966084) (hi := 1966088) (g := 0) rfl ⟨by decide, by decide, rfl⟩
theorem span_THM_THR : InSpan Part.THM_THR Reg.THM_THR := inSpan (lo := 1966088) (hi := 1966092) (g := 0) rfl ⟨by decide, by decide, rfl⟩
theorem span_THM_KNEE : InSpan Part.THM_KNEE Reg.THM_KNEE := inSpan (lo := 1966092) (hi := 1966096) (g := 0) rfl ⟨by decide, by decide, rfl⟩
theorem span_THM_WINDOW : InSpan Part.THM_WINDOW Reg.THM_WINDOW := inSpan (lo := 1966096) (hi := 1966100) (g := 0) rfl ⟨by decide, by decide, rfl⟩
theorem span_THM_CCLK : InSpan Part.THM_CCLK Reg.THM_CCLK := inSpan (lo := 1966100) (hi := 1966104) (g := 0) rfl ⟨by decide, by decide, rfl⟩
theorem span_THM_TH : InSpan Part.THM_TH Reg.THM_TH := inSpan (lo := 1966104) (hi := 1966108) (g := 0) rfl ⟨by decide, by decide, rfl⟩
theorem span_THM_CAUSE : InSpan Part.THM_CAUSE Reg.THM_CAUSE := inSpan (lo := 1966108) (hi := 1966112) (g := 0) rfl ⟨by decide, by decide, rfl⟩
theorem span_THM_QUEUE : InSpan Part.THM_QUEUE Reg.THM_QUEUE := inSpan (lo := 1966112) (hi := 1966116) (g := 0) rfl ⟨by decide, by decide, rfl⟩
theorem span_THM_TEST : InSpan Part.THM_TEST Reg.THM_TEST := inSpan (lo := 1966116) (hi := 1966120) (g := 0) rfl ⟨by decide, by decide, rfl⟩
theorem span_THM_STEPS_DOWN : InSpan Part.THM_STEPS_DOWN Reg.THM_STEPS_DOWN := inSpan (lo := 1966120) (hi := 1966124) (g := 0) rfl ⟨by decide, by decide, rfl⟩
theorem span_THM_STEPS_UP : InSpan Part.THM_STEPS_UP Reg.THM_STEPS_UP := inSpan (lo := 1966124) (hi := 1966128) (g := 0) rfl ⟨by decide, by decide, rfl⟩
theorem span_THM_CCLK_STEPS : InSpan Part.THM_CCLK_STEPS Reg.THM_CCLK_STEPS := inSpan (lo := 1966128) (hi := 1966132) (g := 0) rfl ⟨by decide, by decide, rfl⟩
theorem span_THM_WRITES_DEFERRED : InSpan Part.THM_WRITES_DEFERRED Reg.THM_WRITES_DEFERRED := inSpan (lo := 1966132) (hi := 1966136) (g := 0) rfl ⟨by decide, by decide, rfl⟩
theorem span_THM_POWER_CORE : InSpan Part.THM_POWER_CORE Reg.THM_POWER_CORE := inSpan (lo := 1966144) (hi := 1966148) (g := 0) rfl ⟨by decide, by decide, rfl⟩
theorem span_THM_POWER_LED : InSpan Part.THM_POWER_LED Reg.THM_POWER_LED := inSpan (lo := 1966148) (hi := 1966152) (g := 0) rfl ⟨by decide, by decide, rfl⟩
theorem span_THM_NODE (n : Nat) : InSpan Part.THM_NODE (Reg.THM_NODE n) := inSpan (lo := 1966208) (hi := 1966236) (g := 4) rfl (by unfold Reg.THM_NODE; omega)
theorem span_THM_DIODE (n : Nat) : InSpan Part.THM_DIODE (Reg.THM_DIODE n) := inSpan (lo := 1966240) (hi := 1966248) (g := 4) rfl (by unfold Reg.THM_DIODE; omega)
theorem span_THM_LAMP_T (n : Nat) : InSpan Part.THM_LAMP_T (Reg.THM_LAMP_T n) := inSpan (lo := 1966336) (hi := 1966844) (g := 8) rfl (by unfold Reg.THM_LAMP_T; omega)
theorem span_THM_LAMP_S (n : Nat) : InSpan Part.THM_LAMP_S (Reg.THM_LAMP_S n) := inSpan (lo := 1966340) (hi := 1966848) (g := 8) rfl (by unfold Reg.THM_LAMP_S; omega)
theorem span_CTL_BOOT : InSpan Part.CTL_BOOT Reg.CTL_BOOT := inSpan (lo := 0) (hi := 4) (g := 0) rfl ⟨by decide, by decide, rfl⟩
theorem span_CTL_UMBER : InSpan Part.CTL_UMBER Reg.CTL_UMBER := inSpan (lo := 4) (hi := 8) (g := 0) rfl ⟨by decide, by decide, rfl⟩
theorem span_CTL_BOOT_TIME : InSpan Part.CTL_BOOT_TIME Reg.CTL_BOOT_TIME := inSpan (lo := 8) (hi := 12) (g := 0) rfl ⟨by decide, by decide, rfl⟩
theorem span_CTL_WDOG : InSpan Part.CTL_WDOG Reg.CTL_WDOG := inSpan (lo := 12) (hi := 16) (g := 0) rfl ⟨by decide, by decide, rfl⟩
theorem span_CTL_SERIAL_LO : InSpan Part.CTL_SERIAL_LO Reg.CTL_SERIAL_LO := inSpan (lo := 24) (hi := 28) (g := 0) rfl ⟨by decide, by decide, rfl⟩
theorem span_CTL_SERIAL_HI : InSpan Part.CTL_SERIAL_HI Reg.CTL_SERIAL_HI := inSpan (lo := 28) (hi := 32) (g := 0) rfl ⟨by decide, by decide, rfl⟩
theorem span_CTL_UPD_STATE : InSpan Part.CTL_UPD_STATE Reg.CTL_UPD_STATE := inSpan (lo := 512) (hi := 516) (g := 0) rfl ⟨by decide, by decide, rfl⟩
theorem span_CTL_UPD_PROGRESS : InSpan Part.CTL_UPD_PROGRESS Reg.CTL_UPD_PROGRESS := inSpan (lo := 516) (hi := 520) (g := 0) rfl ⟨by decide, by decide, rfl⟩
theorem span_CTL_UPD_RESULT : InSpan Part.CTL_UPD_RESULT Reg.CTL_UPD_RESULT := inSpan (lo := 520) (hi := 524) (g := 0) rfl ⟨by decide, by decide, rfl⟩
theorem span_CTL_UPD_CFG : InSpan Part.CTL_UPD_CFG Reg.CTL_UPD_CFG := inSpan (lo := 524) (hi := 528) (g := 0) rfl ⟨by decide, by decide, rfl⟩
theorem span_CTL_OTP_ROLLBACK : InSpan Part.CTL_OTP_ROLLBACK Reg.CTL_OTP_ROLLBACK := inSpan (lo := 528) (hi := 532) (g := 0) rfl ⟨by decide, by decide, rfl⟩
theorem span_CTL_UMB_CMD : InSpan Part.CTL_UMB_CMD Reg.CTL_UMB_CMD := inSpan (lo := 768) (hi := 772) (g := 0) rfl ⟨by decide, by decide, rfl⟩
theorem span_CTL_UMB_OFFSET : InSpan Part.CTL_UMB_OFFSET Reg.CTL_UMB_OFFSET := inSpan (lo := 772) (hi := 776) (g := 0) rfl ⟨by decide, by decide, rfl⟩
theorem span_CTL_UMB_LENGTH : InSpan Part.CTL_UMB_LENGTH Reg.CTL_UMB_LENGTH := inSpan (lo := 776) (hi := 780) (g := 0) rfl ⟨by decide, by decide, rfl⟩
theorem span_CTL_UMB_STAT : InSpan Part.CTL_UMB_STAT Reg.CTL_UMB_STAT := inSpan (lo := 780) (hi := 784) (g := 0) rfl ⟨by decide, by decide, rfl⟩
theorem span_CTL_ATT_STAT : InSpan Part.CTL_ATT_STAT Reg.CTL_ATT_STAT := inSpan (lo := 1024) (hi := 1028) (g := 0) rfl ⟨by decide, by decide, rfl⟩
theorem span_CTL_ATT_REPORT (n : Nat) : InSpan Part.CTL_ATT_REPORT (Reg.CTL_ATT_REPORT n) := inSpan (lo := 4096) (hi := 5120) (g := 4) rfl (by unfold Reg.CTL_ATT_REPORT; omega)
theorem span_CTL_UMB_BUF (n : Nat) : InSpan Part.CTL_UMB_BUF (Reg.CTL_UMB_BUF n) := inSpan (lo := 65536) (hi := 131072) (g := 4) rfl (by unfold Reg.CTL_UMB_BUF; omega)
theorem span_CTL_EVT_STATUS (n : Nat) : InSpan Part.CTL_EVT_STATUS (Reg.CTL_EVT_STATUS n) := inSpan (lo := 8192) (hi := 8256) (g := 4) rfl (by unfold Reg.CTL_EVT_STATUS; omega)
theorem span_CTL_EVT_MASK (n : Nat) : InSpan Part.CTL_EVT_MASK (Reg.CTL_EVT_MASK n) := inSpan (lo := 8256) (hi := 8320) (g := 4) rfl (by unfold Reg.CTL_EVT_MASK; omega)
theorem span_CTL_EVT_FWD (n : Nat) : InSpan Part.CTL_EVT_FWD (Reg.CTL_EVT_FWD n) := inSpan (lo := 8320) (hi := 8384) (g := 4) rfl (by unfold Reg.CTL_EVT_FWD; omega)
theorem span_CTL_EVT_LOST : InSpan Part.CTL_EVT_LOST Reg.CTL_EVT_LOST := inSpan (lo := 8384) (hi := 8388) (g := 0) rfl ⟨by decide, by decide, rfl⟩
theorem span_CTL_EVT_REMOTE_RX : InSpan Part.CTL_EVT_REMOTE_RX Reg.CTL_EVT_REMOTE_RX := inSpan (lo := 8388) (hi := 8392) (g := 0) rfl ⟨by decide, by decide, rfl⟩
theorem span_CTL_EVT_FWD_LOST : InSpan Part.CTL_EVT_FWD_LOST Reg.CTL_EVT_FWD_LOST := inSpan (lo := 8392) (hi := 8396) (g := 0) rfl ⟨by decide, by decide, rfl⟩
theorem span_CTL_EVT_COUNT (n : Nat) : InSpan Part.CTL_EVT_COUNT (Reg.CTL_EVT_COUNT n) := inSpan (lo := 10240) (hi := 12288) (g := 4) rfl (by unfold Reg.CTL_EVT_COUNT; omega)
theorem span_CTL_CNT_CFG (n : Nat) : InSpan Part.CTL_CNT_CFG (Reg.CTL_CNT_CFG n) := inSpan (lo := 16384) (hi := 16640) (g := 4) rfl (by unfold Reg.CTL_CNT_CFG; omega)
theorem span_CTL_CNT_LO (n : Nat) : InSpan Part.CTL_CNT_LO (Reg.CTL_CNT_LO n) := inSpan (lo := 16640) (hi := 17148) (g := 8) rfl (by unfold Reg.CTL_CNT_LO; omega)
theorem span_CTL_CNT_HI (n : Nat) : InSpan Part.CTL_CNT_HI (Reg.CTL_CNT_HI n) := inSpan (lo := 16644) (hi := 17152) (g := 8) rfl (by unfold Reg.CTL_CNT_HI; omega)
theorem span_CTL_CNT_SNAP_LO (n : Nat) : InSpan Part.CTL_CNT_SNAP_LO (Reg.CTL_CNT_SNAP_LO n) := inSpan (lo := 17152) (hi := 17660) (g := 8) rfl (by unfold Reg.CTL_CNT_SNAP_LO; omega)
theorem span_CTL_CNT_SNAP_HI (n : Nat) : InSpan Part.CTL_CNT_SNAP_HI (Reg.CTL_CNT_SNAP_HI n) := inSpan (lo := 17156) (hi := 17664) (g := 8) rfl (by unfold Reg.CTL_CNT_SNAP_HI; omega)
theorem span_CTL_CNT_GLOBAL : InSpan Part.CTL_CNT_GLOBAL Reg.CTL_CNT_GLOBAL := inSpan (lo := 17664) (hi := 17668) (g := 0) rfl ⟨by decide, by decide, rfl⟩
theorem span_CTL_CNT_OVF_A : InSpan Part.CTL_CNT_OVF_A Reg.CTL_CNT_OVF_A := inSpan (lo := 17668) (hi := 17672) (g := 0) rfl ⟨by decide, by decide, rfl⟩
theorem span_CTL_CNT_OVF_B : InSpan Part.CTL_CNT_OVF_B Reg.CTL_CNT_OVF_B := inSpan (lo := 17672) (hi := 17676) (g := 0) rfl ⟨by decide, by decide, rfl⟩
theorem span_CTL_CNT_SNAP_SEQ : InSpan Part.CTL_CNT_SNAP_SEQ Reg.CTL_CNT_SNAP_SEQ := inSpan (lo := 17676) (hi := 17680) (g := 0) rfl ⟨by decide, by decide, rfl⟩
theorem span_CTL_CNT_SNAP_TICK_LO : InSpan Part.CTL_CNT_SNAP_TICK_LO Reg.CTL_CNT_SNAP_TICK_LO := inSpan (lo := 17680) (hi := 17684) (g := 0) rfl ⟨by decide, by decide, rfl⟩
theorem span_CTL_CNT_SNAP_TICK_HI : InSpan Part.CTL_CNT_SNAP_TICK_HI Reg.CTL_CNT_SNAP_TICK_HI := inSpan (lo := 17684) (hi := 17688) (g := 0) rfl ⟨by decide, by decide, rfl⟩
theorem span_CTL_ERR_STAT : InSpan Part.CTL_ERR_STAT Reg.CTL_ERR_STAT := inSpan (lo := 1280) (hi := 1284) (g := 0) rfl ⟨by decide, by decide, rfl⟩
theorem span_CTL_ERR_CELL_RETRY : InSpan Part.CTL_ERR_CELL_RETRY Reg.CTL_ERR_CELL_RETRY := inSpan (lo := 1284) (hi := 1288) (g := 0) rfl ⟨by decide, by decide, rfl⟩
theorem span_CTL_ERR_CELL_SUBST : InSpan Part.CTL_ERR_CELL_SUBST Reg.CTL_ERR_CELL_SUBST := inSpan (lo := 1288) (hi := 1292) (g := 0) rfl ⟨by decide, by decide, rfl⟩
theorem span_CTL_ERR_BLOCK_RESTARTS : InSpan Part.CTL_ERR_BLOCK_RESTARTS Reg.CTL_ERR_BLOCK_RESTARTS := inSpan (lo := 1292) (hi := 1296) (g := 0) rfl ⟨by decide, by decide, rfl⟩
theorem span_CTL_ERR_FENCES : InSpan Part.CTL_ERR_FENCES Reg.CTL_ERR_FENCES := inSpan (lo := 1296) (hi := 1300) (g := 0) rfl ⟨by decide, by decide, rfl⟩
theorem span_CTL_ERR_CHIP : InSpan Part.CTL_ERR_CHIP Reg.CTL_ERR_CHIP := inSpan (lo := 1300) (hi := 1304) (g := 0) rfl ⟨by decide, by decide, rfl⟩
theorem span_CTL_ALERT : InSpan Part.CTL_ALERT Reg.CTL_ALERT := inSpan (lo := 1304) (hi := 1308) (g := 0) rfl ⟨by decide, by decide, rfl⟩
theorem span_CTL_ERR_HEAD : InSpan Part.CTL_ERR_HEAD Reg.CTL_ERR_HEAD := inSpan (lo := 1308) (hi := 1312) (g := 0) rfl ⟨by decide, by decide, rfl⟩
theorem span_CTL_ERR_LOG_A (n : Nat) : InSpan Part.CTL_ERR_LOG_A (Reg.CTL_ERR_LOG_A n) := inSpan (lo := 1536) (hi := 1780) (g := 16) rfl (by unfold Reg.CTL_ERR_LOG_A; omega)
theorem span_CTL_ERR_LOG_TICK (n : Nat) : InSpan Part.CTL_ERR_LOG_TICK (Reg.CTL_ERR_LOG_TICK n) := inSpan (lo := 1540) (hi := 1784) (g := 16) rfl (by unfold Reg.CTL_ERR_LOG_TICK; omega)
theorem span_CTL_ERR_LOG_ROW (n : Nat) : InSpan Part.CTL_ERR_LOG_ROW (Reg.CTL_ERR_LOG_ROW n) := inSpan (lo := 1544) (hi := 1788) (g := 16) rfl (by unfold Reg.CTL_ERR_LOG_ROW; omega)
theorem span_CTL_SVC_CFG_A : InSpan Part.CTL_SVC_CFG_A Reg.CTL_SVC_CFG_A := inSpan (lo := 20480) (hi := 20484) (g := 0) rfl ⟨by decide, by decide, rfl⟩
theorem span_CTL_SVC_CFG_B : InSpan Part.CTL_SVC_CFG_B Reg.CTL_SVC_CFG_B := inSpan (lo := 20484) (hi := 20488) (g := 0) rfl ⟨by decide, by decide, rfl⟩
theorem span_CTL_SVC_IN : InSpan Part.CTL_SVC_IN Reg.CTL_SVC_IN := inSpan (lo := 20488) (hi := 20492) (g := 0) rfl ⟨by decide, by decide, rfl⟩
theorem span_HRG_MSIX_ADDR_LO (n : Nat) : InSpan Part.HRG_MSIX_ADDR_LO (Reg.HRG_MSIX_ADDR_LO n) := inSpan (lo := 327680) (hi := 335860) (g := 16) rfl (by unfold Reg.HRG_MSIX_ADDR_LO; omega)
theorem span_HRG_MSIX_ADDR_HI (n : Nat) : InSpan Part.HRG_MSIX_ADDR_HI (Reg.HRG_MSIX_ADDR_HI n) := inSpan (lo := 327684) (hi := 335864) (g := 16) rfl (by unfold Reg.HRG_MSIX_ADDR_HI; omega)
theorem span_HRG_MSIX_DATA (n : Nat) : InSpan Part.HRG_MSIX_DATA (Reg.HRG_MSIX_DATA n) := inSpan (lo := 327688) (hi := 335868) (g := 16) rfl (by unfold Reg.HRG_MSIX_DATA; omega)
theorem span_HRG_MSIX_CTL (n : Nat) : InSpan Part.HRG_MSIX_CTL (Reg.HRG_MSIX_CTL n) := inSpan (lo := 327692) (hi := 335872) (g := 16) rfl (by unfold Reg.HRG_MSIX_CTL; omega)
theorem span_HRG_MSIX_PBA (n : Nat) : InSpan Part.HRG_MSIX_PBA (Reg.HRG_MSIX_PBA n) := inSpan (lo := 335872) (hi := 335936) (g := 4) rfl (by unfold Reg.HRG_MSIX_PBA; omega)

/-- A register of the tables lies in its span. -/
theorem RegOf.span {p a : Nat} (h : RegOf p a) (hp : p ≠ Part.anyReg) : InSpan p a := by
  cases h with
  | anyReg => exact absurd rfl hp
  | CTL_VARIANT => exact span_CTL_VARIANT
  | CTL_TILE_ADDR => exact span_CTL_TILE_ADDR
  | CTL_IMG_INFO => exact span_CTL_IMG_INFO
  | CTL_IMG_ROLLBACK => exact span_CTL_IMG_ROLLBACK
  | CTL_IMG_WALL_SEQ => exact span_CTL_IMG_WALL_SEQ
  | CTL_IMG_WALL_ID_LO => exact span_CTL_IMG_WALL_ID_LO
  | CTL_IMG_WALL_ID_HI => exact span_CTL_IMG_WALL_ID_HI
  | CTL_IMG_DEFECT => exact span_CTL_IMG_DEFECT
  | CTL_IMG_COMPILER => exact span_CTL_IMG_COMPILER
  | CTL_IMG_DIGEST n => exact span_CTL_IMG_DIGEST n
  | TCK_STATE => exact span_TCK_STATE
  | TCK_COUNT_LO => exact span_TCK_COUNT_LO
  | TCK_COUNT_HI => exact span_TCK_COUNT_HI
  | TCK_PERIOD => exact span_TCK_PERIOD
  | TCK_REF_PERIOD => exact span_TCK_REF_PERIOD
  | TCK_PHASE_ERR => exact span_TCK_PHASE_ERR
  | TCK_GLK_CFG => exact span_TCK_GLK_CFG
  | TCK_GLK_OUT => exact span_TCK_GLK_OUT
  | TCK_GLITCH_COUNT => exact span_TCK_GLITCH_COUNT
  | TCK_MISS_COUNT => exact span_TCK_MISS_COUNT
  | TCK_REPEAT_COUNT => exact span_TCK_REPEAT_COUNT
  | TCK_MARKER_LEAD => exact span_TCK_MARKER_LEAD
  | TCK_TEST => exact span_TCK_TEST
  | TCK_DELAY_A => exact span_TCK_DELAY_A
  | TCK_DELAY_B => exact span_TCK_DELAY_B
  | TCK_REPEAT_H => exact span_TCK_REPEAT_H
  | TCK_MARKER_ERR => exact span_TCK_MARKER_ERR
  | TCK_END_DELAY n => exact span_TCK_END_DELAY n
  | TCK_HOP_DELAY n i => exact span_TCK_HOP_DELAY n i
  | TCK_SLOT_STAT n => exact span_TCK_SLOT_STAT n
  | TCK_LATE_MAX n => exact span_TCK_LATE_MAX n
  | TCK_OVERRUN_COUNT n => exact span_TCK_OVERRUN_COUNT n
  | TCK_CUT_COUNT n => exact span_TCK_CUT_COUNT n
  | TCK_SLOTS n => exact span_TCK_SLOTS n
  | HRG_LINK => exact span_HRG_LINK
  | HRG_RIGHTS => exact span_HRG_RIGHTS
  | HRG_RING0_SQ_LO => exact span_HRG_RING0_SQ_LO
  | HRG_RING0_SQ_HI => exact span_HRG_RING0_SQ_HI
  | HRG_RING0_CQ_LO => exact span_HRG_RING0_CQ_LO
  | HRG_RING0_CQ_HI => exact span_HRG_RING0_CQ_HI
  | HRG_FETCH_CFG => exact span_HRG_FETCH_CFG
  | HRG_CPL_TIMEOUT => exact span_HRG_CPL_TIMEOUT
  | HRG_DB_IGNORED => exact span_HRG_DB_IGNORED
  | HRG_RING_ERRORS => exact span_HRG_RING_ERRORS
  | HRG_LAST_ERR => exact span_HRG_LAST_ERR
  | HRG_FN_RESETS => exact span_HRG_FN_RESETS
  | HRG_OUTSTANDING => exact span_HRG_OUTSTANDING
  | HRG_EVT_VEC n => exact span_HRG_EVT_VEC n
  | XLT_OPT_CFG => exact span_XLT_OPT_CFG
  | XLT_OPT_HOST => exact span_XLT_OPT_HOST
  | XLT_WALKS => exact span_XLT_WALKS
  | XLT_WALK_COUNT => exact span_XLT_WALK_COUNT
  | XLT_FAULT_COUNT => exact span_XLT_FAULT_COUNT
  | XLT_INVAL_COUNT => exact span_XLT_INVAL_COUNT
  | XLT_DMA_ACTIVE => exact span_XLT_DMA_ACTIVE
  | XLT_CTX_MODE n => exact span_XLT_CTX_MODE n
  | XLT_CTX_ROOT_LO n => exact span_XLT_CTX_ROOT_LO n
  | XLT_CTX_ROOT_HI n => exact span_XLT_CTX_ROOT_HI n
  | XLT_OPT_USE_A n => exact span_XLT_OPT_USE_A n
  | XLT_OPT_USE_B n => exact span_XLT_OPT_USE_B n
  | XLT_OPT_PEAK n => exact span_XLT_OPT_PEAK n
  | XLT_HELD_COUNT n => exact span_XLT_HELD_COUNT n
  | XLT_TC_HIT n => exact span_XLT_TC_HIT n
  | XLT_TC_MISS n => exact span_XLT_TC_MISS n
  | XLT_FAULT_HEAD n => exact span_XLT_FAULT_HEAD n
  | XLT_FLOG_IOVA_LO n i => exact span_XLT_FLOG_IOVA_LO n i
  | XLT_FLOG_IOVA_HI n i => exact span_XLT_FLOG_IOVA_HI n i
  | XLT_FLOG_INFO n i => exact span_XLT_FLOG_INFO n i
  | XLT_FLOG_TICK n i => exact span_XLT_FLOG_TICK n i
  | DMC_CFG => exact span_DMC_CFG
  | DMC_ARB => exact span_DMC_ARB
  | DMC_PANIC_LVL_A => exact span_DMC_PANIC_LVL_A
  | DMC_PANIC_LVL_B => exact span_DMC_PANIC_LVL_B
  | DMC_TEMP => exact span_DMC_TEMP
  | DMC_DENSITY => exact span_DMC_DENSITY
  | DMC_CH_STAT n i => exact span_DMC_CH_STAT n i
  | DMC_CH_REFRESHES n i => exact span_DMC_CH_REFRESHES n i
  | DMC_CH_FORCED n i => exact span_DMC_CH_FORCED n i
  | DMC_CH_PANICS n i => exact span_DMC_CH_PANICS n i
  | DMC_CH_PANIC_CAPPED n i => exact span_DMC_CH_PANIC_CAPPED n i
  | DMC_CH_HAZARDS n i => exact span_DMC_CH_HAZARDS n i
  | DMC_CH_ECC_CORR n i => exact span_DMC_CH_ECC_CORR n i
  | DMC_CH_ECC_UNCORR n i => exact span_DMC_CH_ECC_UNCORR n i
  | DMC_CH_TRAIN n i => exact span_DMC_CH_TRAIN n i
  | DMC_CH_PAT_CTL n i => exact span_DMC_CH_PAT_CTL n i
  | DMC_CH_PAT_ADDR n i => exact span_DMC_CH_PAT_ADDR n i
  | DMC_CH_CMP n i => exact span_DMC_CH_CMP n i
  | DMC_CH_PAT_DATA n i j => exact span_DMC_CH_PAT_DATA n i j
  | CMP_COMMIT_CFG => exact span_CMP_COMMIT_CFG
  | CMP_COMMIT_APPLIED => exact span_CMP_COMMIT_APPLIED
  | CMP_COMMIT_REJECTED => exact span_CMP_COMMIT_REJECTED
  | CMP_COMMIT_TIMEOUTS => exact span_CMP_COMMIT_TIMEOUTS
  | CMP_COMMIT_WAITS => exact span_CMP_COMMIT_WAITS
  | CMP_LAST_REJECT => exact span_CMP_LAST_REJECT
  | CMP_FALLBACK_COUNT => exact span_CMP_FALLBACK_COUNT
  | CMP_STATIC => exact span_CMP_STATIC
  | CMP_LAYER_CFG n => exact span_CMP_LAYER_CFG n
  | CMP_LAYER_STATE n => exact span_CMP_LAYER_STATE n
  | CMP_LAYER_TAG n => exact span_CMP_LAYER_TAG n
  | CMP_LAYER_RING n => exact span_CMP_LAYER_RING n
  | CMP_LAYER_SINCE n => exact span_CMP_LAYER_SINCE n
  | CMP_FENCE_LO n => exact span_CMP_FENCE_LO n
  | CMP_FENCE_HI n => exact span_CMP_FENCE_HI n
  | CMP_RASTER n => exact span_CMP_RASTER n
  | CMP_COLOUR => exact span_CMP_COLOUR
  | CMP_CLAMP_COUNT => exact span_CMP_CLAMP_COUNT
  | CMP_CAPTURE_ROWS => exact span_CMP_CAPTURE_ROWS
  | CMP_CAPTURE_SKIPPED => exact span_CMP_CAPTURE_SKIPPED
  | CMP_BG_RG n => exact span_CMP_BG_RG n
  | CMP_BG_B n => exact span_CMP_BG_B n
  | CMP_ROW_STAT n => exact span_CMP_ROW_STAT n
  | CMP_ROWS_COMPOSED n => exact span_CMP_ROWS_COMPOSED n
  | CMP_BLOCKS_DROPPED n => exact span_CMP_BLOCKS_DROPPED n
  | CMP_BLOCKS_HELD n => exact span_CMP_BLOCKS_HELD n
  | CMP_HANDOFF_WAITS n => exact span_CMP_HANDOFF_WAITS n
  | CMP_SRC_PIXELS n => exact span_CMP_SRC_PIXELS n
  | ENC_CFG => exact span_ENC_CFG
  | ENC_CELL_STAT n => exact span_ENC_CELL_STAT n
  | ENC_ROWS n => exact span_ENC_ROWS n
  | ENC_BITS_LO n => exact span_ENC_BITS_LO n
  | ENC_BITS_HI n => exact span_ENC_BITS_HI n
  | ENC_BLK_SKIP n => exact span_ENC_BLK_SKIP n
  | ENC_BLK_LTSKIP n => exact span_ENC_BLK_LTSKIP n
  | ENC_BLK_DCOPY n => exact span_ENC_BLK_DCOPY n
  | ENC_BLK_INTRA n => exact span_ENC_BLK_INTRA n
  | ENC_BLK_RAW n => exact span_ENC_BLK_RAW n
  | ENC_BLK_FLOOR n => exact span_ENC_BLK_FLOOR n
  | ENC_OCHRE_ROWS n => exact span_ENC_OCHRE_ROWS n
  | ENC_KEY_ROWS n => exact span_ENC_KEY_ROWS n
  | ENC_HOLD_SEGS n => exact span_ENC_HOLD_SEGS n
  | ENC_ROWS_LOSSLESS n => exact span_ENC_ROWS_LOSSLESS n
  | ENC_RETRIES n => exact span_ENC_RETRIES n
  | DEC_CFG => exact span_DEC_CFG
  | DEC_CASCADE_DOMAIN => exact span_DEC_CASCADE_DOMAIN
  | DEC_CELL_STAT n => exact span_DEC_CELL_STAT n
  | DEC_ROWS n => exact span_DEC_ROWS n
  | DEC_SEG_KEPT n => exact span_DEC_SEG_KEPT n
  | DEC_SEG_DISCARDED n => exact span_DEC_SEG_DISCARDED n
  | DEC_SEG_ERRORS n => exact span_DEC_SEG_ERRORS n
  | DEC_RETRIES n => exact span_DEC_RETRIES n
  | DEC_LATE_ROWS n => exact span_DEC_LATE_ROWS n
  | DEC_SLATE_ROWS n => exact span_DEC_SLATE_ROWS n
  | DEC_REF_MISSING n => exact span_DEC_REF_MISSING n
  | DEC_HOLDS n => exact span_DEC_HOLDS n
  | DEC_LAST_ERR n => exact span_DEC_LAST_ERR n
  | DEC_LAST_HOLD n => exact span_DEC_LAST_HOLD n
  | LNK_CFG => exact span_LNK_CFG
  | LNK_EQ_CFG => exact span_LNK_EQ_CFG
  | LNK_RET_STAT => exact span_LNK_RET_STAT
  | LNK_RET_GIVEUP => exact span_LNK_RET_GIVEUP
  | LNK_PORT_CFG n i => exact span_LNK_PORT_CFG n i
  | LNK_STATE n i => exact span_LNK_STATE n i
  | LNK_FOM n i => exact span_LNK_FOM n i
  | LNK_DFE n i => exact span_LNK_DFE n i
  | LNK_DESKEW n i => exact span_LNK_DESKEW n i
  | LNK_WORD_ERR n i => exact span_LNK_WORD_ERR n i
  | LNK_CW_ERR n i => exact span_LNK_CW_ERR n i
  | LNK_HDR_CRC_ERR n i => exact span_LNK_HDR_CRC_ERR n i
  | LNK_PAY_CRC_ERR n i => exact span_LNK_PAY_CRC_ERR n i
  | LNK_LOCK_LOSS n i => exact span_LNK_LOCK_LOSS n i
  | LNK_RETRAINS n i => exact span_LNK_RETRAINS n i
  | LNK_EQ_STEPS n i => exact span_LNK_EQ_STEPS n i
  | LNK_KEYREQ_RX n i => exact span_LNK_KEYREQ_RX n i
  | LNK_CELL_DROP n i => exact span_LNK_CELL_DROP n i
  | LNK_PKT_UNKNOWN n i => exact span_LNK_PKT_UNKNOWN n i
  | LNK_TEST n i => exact span_LNK_TEST n i
  | PAIR_STATE => exact span_PAIR_STATE
  | PAIR_CFG => exact span_PAIR_CFG
  | PAIR_EPOCH => exact span_PAIR_EPOCH
  | PAIR_CLEAN => exact span_PAIR_CLEAN
  | PAIR_FEED => exact span_PAIR_FEED
  | PAIR_OBSERVED => exact span_PAIR_OBSERVED
  | PAIR_COMPARED_LO => exact span_PAIR_COMPARED_LO
  | PAIR_COMPARED_HI => exact span_PAIR_COMPARED_HI
  | PAIR_MISMATCHED => exact span_PAIR_MISMATCHED
  | PAIR_EXCUSED => exact span_PAIR_EXCUSED
  | PAIR_DECISIONS => exact span_PAIR_DECISIONS
  | PAIR_TAKEOVERS => exact span_PAIR_TAKEOVERS
  | PAIR_LAST_MISMATCH => exact span_PAIR_LAST_MISMATCH
  | PAIR_PKT_UNKNOWN => exact span_PAIR_PKT_UNKNOWN
  | PAIR_PARTNER_SERIAL_LO => exact span_PAIR_PARTNER_SERIAL_LO
  | PAIR_PARTNER_SERIAL_HI => exact span_PAIR_PARTNER_SERIAL_HI
  | PAIR_HOP_DELAY => exact span_PAIR_HOP_DELAY
  | PAIR_TEST => exact span_PAIR_TEST
  | PAIR_LINK_LOSSES => exact span_PAIR_LINK_LOSSES
  | LMP_CFG => exact span_LMP_CFG
  | LMP_GAIN_CFG => exact span_LMP_GAIN_CFG
  | LMP_CEIL_CFG => exact span_LMP_CEIL_CFG
  | LMP_CEIL_LIMITS => exact span_LMP_CEIL_LIMITS
  | LMP_CEIL_STEP => exact span_LMP_CEIL_STEP
  | LMP_CEIL => exact span_LMP_CEIL
  | LMP_CEIL_START_LO => exact span_LMP_CEIL_START_LO
  | LMP_CEIL_START_HI => exact span_LMP_CEIL_START_HI
  | LMP_HEADROOM => exact span_LMP_HEADROOM
  | LMP_SET => exact span_LMP_SET
  | LMP_WEAR_CYCLES => exact span_LMP_WEAR_CYCLES
  | LMP_LIMITED_PIXELS => exact span_LMP_LIMITED_PIXELS
  | LMP_SATURATED => exact span_LMP_SATURATED
  | LMP_SAMPLES_LOST => exact span_LMP_SAMPLES_LOST
  | LMP_TAKEBACK_SHORT => exact span_LMP_TAKEBACK_SHORT
  | LMP_GREY_APPLIED => exact span_LMP_GREY_APPLIED
  | LMP_UNCORRECTABLE => exact span_LMP_UNCORRECTABLE
  | LMP_GAIN_CAPPED => exact span_LMP_GAIN_CAPPED
  | LMP_RAMPS => exact span_LMP_RAMPS
  | LMP_BASE_RECA => exact span_LMP_BASE_RECA
  | LMP_BASE_RECB => exact span_LMP_BASE_RECB
  | LMP_BASE_GAIN => exact span_LMP_BASE_GAIN
  | LMP_BASE_DITHER => exact span_LMP_BASE_DITHER
  | LMP_BASE_WEAR => exact span_LMP_BASE_WEAR
  | LMP_LIM n => exact span_LMP_LIM n
  | LMP_CELL_STAT n => exact span_LMP_CELL_STAT n
  | LMP_ROWS n => exact span_LMP_ROWS n
  | LMP_ROWS_FAILED n => exact span_LMP_ROWS_FAILED n
  | LMP_RETRIES n => exact span_LMP_RETRIES n
  | SCN_FRAME_ADDR => exact span_SCN_FRAME_ADDR
  | SCN_PIPE_BASE0 => exact span_SCN_PIPE_BASE0
  | SCN_PIPE_BASE1 => exact span_SCN_PIPE_BASE1
  | SCN_STAT => exact span_SCN_STAT
  | DRV_SYNC_COUNT => exact span_DRV_SYNC_COUNT
  | SCN_RANGE_ERR => exact span_SCN_RANGE_ERR
  | SCN_CRC_XY n => exact span_SCN_CRC_XY n
  | SCN_CRC_WH n => exact span_SCN_CRC_WH n
  | SCN_CRC_VAL n => exact span_SCN_CRC_VAL n
  | SCN_CRC_TICK n => exact span_SCN_CRC_TICK n
  | DRV_PROF_A n => exact span_DRV_PROF_A n
  | DRV_PROF_B n => exact span_DRV_PROF_B n
  | DRV_TE_CFG n => exact span_DRV_TE_CFG n
  | DRV_TE_STAT n => exact span_DRV_TE_STAT n
  | DRV_TE_MISSING n => exact span_DRV_TE_MISSING n
  | DRV_TE_OVERRUN n => exact span_DRV_TE_OVERRUN n
  | DRV_GROUP_CFG n i => exact span_DRV_GROUP_CFG n i
  | DRV_GROUP_STAT n i => exact span_DRV_GROUP_STAT n i
  | DRV_LOADS n i => exact span_DRV_LOADS n i
  | DRV_CUTS n i => exact span_DRV_CUTS n i
  | DRV_FETCH_FAIL n i => exact span_DRV_FETCH_FAIL n i
  | DRV_RB_ERR n i => exact span_DRV_RB_ERR n i
  | DRV_RB_PINS n i => exact span_DRV_RB_PINS n i
  | DRV_STATUS_READS n i => exact span_DRV_STATUS_READS n i
  | LBD_CFG => exact span_LBD_CFG
  | LBD_FAULT_CFG => exact span_LBD_FAULT_CFG
  | LBD_LIFE_CFG => exact span_LBD_LIFE_CFG
  | LBD_WEAR_STORE => exact span_LBD_WEAR_STORE
  | LBD_TEST => exact span_LBD_TEST
  | LBD_GREY_PULSES => exact span_LBD_GREY_PULSES
  | LBD_WEAR_WRITES => exact span_LBD_WEAR_WRITES
  | LBD_SIG_FAIL => exact span_LBD_SIG_FAIL
  | LBD_FLOG_HEAD => exact span_LBD_FLOG_HEAD
  | LBD_UNVERIFIED => exact span_LBD_UNVERIFIED
  | LBD_BOARD_STAT n => exact span_LBD_BOARD_STAT n
  | LBD_BOARD_FAULTS n => exact span_LBD_BOARD_FAULTS n
  | LBD_BOARD_UNVER n => exact span_LBD_BOARD_UNVER n
  | LBD_BOARD_TEMP n => exact span_LBD_BOARD_TEMP n
  | LBD_BOARD_SERIAL n i => exact span_LBD_BOARD_SERIAL n i
  | LBD_FLOG_CHAN n => exact span_LBD_FLOG_CHAN n
  | LBD_FLOG_INFO n => exact span_LBD_FLOG_INFO n
  | LBD_FLOG_TICK n => exact span_LBD_FLOG_TICK n
  | LBD_BUS_STAT n i => exact span_LBD_BUS_STAT n i
  | LBD_BUS_ERR n i => exact span_LBD_BUS_ERR n i
  | LBD_GREY_DEFERRED n => exact span_LBD_GREY_DEFERRED n
  | LBD_READOUTS_DISCARDED n => exact span_LBD_READOUTS_DISCARDED n
  | AUD_STATE => exact span_AUD_STATE
  | AUD_SAMPLE_LO => exact span_AUD_SAMPLE_LO
  | AUD_SAMPLE_HI => exact span_AUD_SAMPLE_HI
  | AUD_LEAD => exact span_AUD_LEAD
  | AUD_PLAY_RUN => exact span_AUD_PLAY_RUN
  | AUD_CAP_RUN => exact span_AUD_CAP_RUN
  | AUD_MISSING => exact span_AUD_MISSING
  | AUD_MASK_LATE => exact span_AUD_MASK_LATE
  | AUD_UNDERRUN n => exact span_AUD_UNDERRUN n
  | AUD_OVERRUN n => exact span_AUD_OVERRUN n
  | AUD_PORT_CFG n i => exact span_AUD_PORT_CFG n i
  | AUD_PORT_STAT n i => exact span_AUD_PORT_STAT n i
  | AUD_MASK n i => exact span_AUD_MASK n i
  | AUD_MASK_SHADOW n i => exact span_AUD_MASK_SHADOW n i
  | AUD_RATE n i => exact span_AUD_RATE n i
  | AUD_RATIO n i => exact span_AUD_RATIO n i
  | AUD_FRAME_ERR n i => exact span_AUD_FRAME_ERR n i
  | AUD_CLOCK_LOSS n i => exact span_AUD_CLOCK_LOSS n i
  | AUD_RELOCKS n i => exact span_AUD_RELOCKS n i
  | MTR_STATE => exact span_MTR_STATE
  | MTR_HEALTH => exact span_MTR_HEALTH
  | MTR_INTERVAL_LO => exact span_MTR_INTERVAL_LO
  | MTR_INTERVAL_HI => exact span_MTR_INTERVAL_HI
  | MTR_MCLK_MEAS => exact span_MTR_MCLK_MEAS
  | MTR_FW_VERSION => exact span_MTR_FW_VERSION
  | MTR_LOG_COUNT => exact span_MTR_LOG_COUNT
  | MTR_LOG_DROPPED => exact span_MTR_LOG_DROPPED
  | MTR_SEAL_BREAKS => exact span_MTR_SEAL_BREAKS
  | MTR_REC_REQ => exact span_MTR_REC_REQ
  | MTR_REC_STAT => exact span_MTR_REC_STAT
  | MTR_FW_DIGEST n => exact span_MTR_FW_DIGEST n
  | MTR_CAL_CMD => exact span_MTR_CAL_CMD
  | MTR_CAL_ARG0 => exact span_MTR_CAL_ARG0
  | MTR_CAL_ARG1 => exact span_MTR_CAL_ARG1
  | MTR_CAL_ARG2 => exact span_MTR_CAL_ARG2
  | MTR_CAL_CERT n => exact span_MTR_CAL_CERT n
  | MTR_CAL_STAT => exact span_MTR_CAL_STAT
  | MTR_CAL_DATA n => exact span_MTR_CAL_DATA n
  | MTR_REC n => exact span_MTR_REC n
  | MTR_LOG n => exact span_MTR_LOG n
  | MTR_ENERGY_LO n => exact span_MTR_ENERGY_LO n
  | MTR_ENERGY_HI n => exact span_MTR_ENERGY_HI n
  | MTR_POWER n => exact span_MTR_POWER n
  | MTR_VRMS n => exact span_MTR_VRMS n
  | MTR_IRMS n => exact span_MTR_IRMS n
  | MTR_POINT_STAT n => exact span_MTR_POINT_STAT n
  | THM_STATE => exact span_THM_STATE
  | THM_CFG => exact span_THM_CFG
  | THM_THR => exact span_THM_THR
  | THM_KNEE => exact span_THM_KNEE
  | THM_WINDOW => exact span_THM_WINDOW
  | THM_CCLK => exact span_THM_CCLK
  | THM_TH => exact span_THM_TH
  | THM_CAUSE => exact span_THM_CAUSE
  | THM_QUEUE => exact span_THM_QUEUE
  | THM_TEST => exact span_THM_TEST
  | THM_STEPS_DOWN => exact span_THM_STEPS_DOWN
  | THM_STEPS_UP => exact span_THM_STEPS_UP
  | THM_CCLK_STEPS => exact span_THM_CCLK_STEPS
  | THM_WRITES_DEFERRED => exact span_THM_WRITES_DEFERRED
  | THM_POWER_CORE => exact span_THM_POWER_CORE
  | THM_POWER_LED => exact span_THM_POWER_LED
  | THM_NODE n => exact span_THM_NODE n
  | THM_DIODE n => exact span_THM_DIODE n
  | THM_LAMP_T n => exact span_THM_LAMP_T n
  | THM_LAMP_S n => exact span_THM_LAMP_S n
  | CTL_BOOT => exact span_CTL_BOOT
  | CTL_UMBER => exact span_CTL_UMBER
  | CTL_BOOT_TIME => exact span_CTL_BOOT_TIME
  | CTL_WDOG => exact span_CTL_WDOG
  | CTL_SERIAL_LO => exact span_CTL_SERIAL_LO
  | CTL_SERIAL_HI => exact span_CTL_SERIAL_HI
  | CTL_UPD_STATE => exact span_CTL_UPD_STATE
  | CTL_UPD_PROGRESS => exact span_CTL_UPD_PROGRESS
  | CTL_UPD_RESULT => exact span_CTL_UPD_RESULT
  | CTL_UPD_CFG => exact span_CTL_UPD_CFG
  | CTL_OTP_ROLLBACK => exact span_CTL_OTP_ROLLBACK
  | CTL_UMB_CMD => exact span_CTL_UMB_CMD
  | CTL_UMB_OFFSET => exact span_CTL_UMB_OFFSET
  | CTL_UMB_LENGTH => exact span_CTL_UMB_LENGTH
  | CTL_UMB_STAT => exact span_CTL_UMB_STAT
  | CTL_ATT_STAT => exact span_CTL_ATT_STAT
  | CTL_ATT_REPORT n => exact span_CTL_ATT_REPORT n
  | CTL_UMB_BUF n => exact span_CTL_UMB_BUF n
  | CTL_EVT_STATUS n => exact span_CTL_EVT_STATUS n
  | CTL_EVT_MASK n => exact span_CTL_EVT_MASK n
  | CTL_EVT_FWD n => exact span_CTL_EVT_FWD n
  | CTL_EVT_LOST => exact span_CTL_EVT_LOST
  | CTL_EVT_REMOTE_RX => exact span_CTL_EVT_REMOTE_RX
  | CTL_EVT_FWD_LOST => exact span_CTL_EVT_FWD_LOST
  | CTL_EVT_COUNT n => exact span_CTL_EVT_COUNT n
  | CTL_CNT_CFG n => exact span_CTL_CNT_CFG n
  | CTL_CNT_LO n => exact span_CTL_CNT_LO n
  | CTL_CNT_HI n => exact span_CTL_CNT_HI n
  | CTL_CNT_SNAP_LO n => exact span_CTL_CNT_SNAP_LO n
  | CTL_CNT_SNAP_HI n => exact span_CTL_CNT_SNAP_HI n
  | CTL_CNT_GLOBAL => exact span_CTL_CNT_GLOBAL
  | CTL_CNT_OVF_A => exact span_CTL_CNT_OVF_A
  | CTL_CNT_OVF_B => exact span_CTL_CNT_OVF_B
  | CTL_CNT_SNAP_SEQ => exact span_CTL_CNT_SNAP_SEQ
  | CTL_CNT_SNAP_TICK_LO => exact span_CTL_CNT_SNAP_TICK_LO
  | CTL_CNT_SNAP_TICK_HI => exact span_CTL_CNT_SNAP_TICK_HI
  | CTL_ERR_STAT => exact span_CTL_ERR_STAT
  | CTL_ERR_CELL_RETRY => exact span_CTL_ERR_CELL_RETRY
  | CTL_ERR_CELL_SUBST => exact span_CTL_ERR_CELL_SUBST
  | CTL_ERR_BLOCK_RESTARTS => exact span_CTL_ERR_BLOCK_RESTARTS
  | CTL_ERR_FENCES => exact span_CTL_ERR_FENCES
  | CTL_ERR_CHIP => exact span_CTL_ERR_CHIP
  | CTL_ALERT => exact span_CTL_ALERT
  | CTL_ERR_HEAD => exact span_CTL_ERR_HEAD
  | CTL_ERR_LOG_A n => exact span_CTL_ERR_LOG_A n
  | CTL_ERR_LOG_TICK n => exact span_CTL_ERR_LOG_TICK n
  | CTL_ERR_LOG_ROW n => exact span_CTL_ERR_LOG_ROW n
  | CTL_SVC_CFG_A => exact span_CTL_SVC_CFG_A
  | CTL_SVC_CFG_B => exact span_CTL_SVC_CFG_B
  | CTL_SVC_IN => exact span_CTL_SVC_IN
  | HRG_MSIX_ADDR_LO n => exact span_HRG_MSIX_ADDR_LO n
  | HRG_MSIX_ADDR_HI n => exact span_HRG_MSIX_ADDR_HI n
  | HRG_MSIX_DATA n => exact span_HRG_MSIX_DATA n
  | HRG_MSIX_CTL n => exact span_HRG_MSIX_CTL n
  | HRG_MSIX_PBA n => exact span_HRG_MSIX_PBA n
theorem RegOf.ge {p a : Nat} (h : RegOf p a) (hp : p ≠ Part.anyReg) : 32 ≤ p := by
  cases h <;> first | exact absurd rfl hp | decide


/-- Two spans that no offset lies in. -/
def apart (x y : Nat × Nat × Nat) : Bool :=
  Nat.ble x.2.1 y.1 || Nat.ble y.2.1 x.1 || !Nat.beq (x.1 % Nat.gcd x.2.2 y.2.2) (y.1 % Nat.gcd x.2.2 y.2.2)

theorem apart_not {x y : Nat × Nat × Nat} {a : Nat} (h : apart x y = true) (hx : x.1 ≤ a ∧ a < x.2.1 ∧ a % x.2.2 = x.1 % x.2.2)
    (hy : y.1 ≤ a ∧ a < y.2.1 ∧ a % y.2.2 = y.1 % y.2.2) : False := by
  simp only [apart, Bool.or_eq_true, Nat.ble_eq, Bool.not_eq_true'] at h
  rcases h with (h | h) | h
  · omega
  · omega
  · have e1 : a % Nat.gcd x.2.2 y.2.2 = x.1 % Nat.gcd x.2.2 y.2.2 := (Nat.ModEq.of_dvd (Nat.gcd_dvd_left _ _) hx.2.2)
    have e2 : a % Nat.gcd x.2.2 y.2.2 = y.1 % Nat.gcd x.2.2 y.2.2 := (Nat.ModEq.of_dvd (Nat.gcd_dvd_right _ _) hy.2.2)
    rw [← e1, ← e2, Nat.beq_refl] at h
    exact absurd h (by decide)

/-- No register of the set `m` shares an offset with part `q`. -/
def clear (m q : Nat) : Bool :=
  !Nat.testBit m 31 && (List.range 381).all (fun i => !Nat.testBit m (32 + i) || apart (spanOf (32 + i)) (spanOf q)) && Nat.beq (m >>> 413) 0

theorem clear_not {m q a : Nat} (h : clear m q = true) (hq : RegOf q a) (hn : q ≠ Part.anyReg) : ∀ p, Has p m → ¬ RegOf p a := by
  intro p hp hr
  simp only [clear, Bool.and_eq_true, Bool.not_eq_true', List.all_eq_true, List.mem_range, Bool.or_eq_true] at h
  have h31 : p ≠ 31 := fun e => by subst e; unfold Has at hp; rw [hp] at h; exact absurd h.1.1 (by decide)
  have hp32 : 32 ≤ p := hr.ge h31
  have hlt : p < 32 + 381 := by
    by_contra hc
    have hz : m >>> 413 = 0 := Nat.eq_of_beq_eq_true h.2
    have hb : Nat.testBit (m >>> 413) (p - 413) = true := by rw [Nat.testBit_shiftRight]; rw [show 413 + (p - 413) = p by omega]; exact hp
    rw [hz] at hb; simp at hb
  have hi := h.1.2 (p - 32) (by omega)
  rw [show 32 + (p - 32) = p by omega] at hi
  unfold Has at hp
  rw [hp] at hi
  exact apart_not (hi.resolve_left (by decide)) (hr.span h31) (hq.span hn)

theorem Sub.self (a : Nat) : Sub a a := Nat.and_self a

/-- A register that no part of a command's set touches keeps its value. -/
theorem Io.Keeps.getReg {m : Nat} {s t : Io} (h : Io.Keeps m s t) {q a : Nat} (hq : RegOf q a) (hn : q ≠ Part.anyReg) (hc : clear m q = true) :
    t.getReg a = s.getReg a := h.regs a (clear_not hc hq hn)

theorem Io.Keeps.getF {m : Nat} {s t : Io} (h : Io.Keeps m s t) {q : Nat} {f : Field} (hq : RegOf q f.reg) (hn : q ≠ Part.anyReg) (hc : clear m q = true) :
    t.getF f = s.getF f := by unfold Io.getF; rw [h.getReg hq hn hc]

theorem State.Keeps.getF {m : Nat} {s t : State} (h : State.Keeps m s t) {q : Nat} {f : Field} (hq : RegOf q f.reg) (hn : q ≠ Part.anyReg)
    (hc : clear m q = true) : t.getF f = s.getF f := h.io.getF hq hn hc

end Sys2Proof.Machine
end

