-- ==== Sys2Proof/Laws/KeepsMemory.lean ====
section
/-! SUPPORT. What the operations of Machine/Memory.lean keep. -/

set_option linter.unusedTactic false
set_option linter.unreachableTactic false

set_option Elab.async false

namespace Sys2Proof.Machine

theorem Io.oncePer_keeps {msk : Nat} {s0 : Io} {s : Io} {key : Nat} {o : Occ} (hk0 : Io.Keeps msk s0 s) (hm : Sub 0x40000 msk) :
    Io.Keeps msk s0 (Io.oncePer s key o).1 := by
  unfold Io.oncePer
  repeat' first
    | with_reducible assumption | exact Sub.of hm rfl | exact Has.of hm rfl | intro _
    | (extract_lets +onlyGivenNames x; first | (refine (have hx : Io.Keeps msk s0 x := ?_; ?_); (on_goal 2 => clear_value x); (on_goal 1 => subst x)) | clear_value x)
    | (with_reducible first
        | refine Io.ite_keeps ?_ ?_ | refine Io.ite_keeps_fst ?_ ?_)
    | split | with_reducible fail_if_no_progress refine Io.mk_keeps ?_

theorem Io.message_keeps {msk : Nat} {s0 : Io} {s : Io} {v : Nat} (hk0 : Io.Keeps msk s0 s) (hm : Sub 0x10000000000000000000000000000000000000000000000000000000000000000000000000000000000000000000000000200000 msk) :
    Io.Keeps msk s0 (Io.message s v) := by
  unfold Io.message
  repeat' first
    | with_reducible assumption | exact Sub.of hm rfl | exact Has.of hm rfl | intro _ | exact RegOf.HRG_MSIX_PBA _
    | (extract_lets +onlyGivenNames x; first | (refine (have hx : Io.Keeps msk s0 x := ?_; ?_); (on_goal 2 => clear_value x); (on_goal 1 => subst x)) | (refine (have hx : Io.Keeps msk s0 x.1 := ?_; ?_); (on_goal 2 => clear_value x); (on_goal 1 => subst x)) | skip)
    | (with_reducible first
        | apply Io.setReg_keeps | apply Io.emit_keeps | refine Io.ite_keeps ?_ ?_)
    | split

theorem Io.perform_keeps {msk : Nat} {s0 : Io} {s : Io} {a : Access} (hk0 : Io.Keeps msk s0 s) (hm : Sub 0x10000000000000000000000000000000000000000000000000000000000000000000000000000000000000000000000000230000 msk) :
    Io.Keeps msk s0 (Io.perform s a) := by
  unfold Io.perform
  repeat' first
    | with_reducible assumption | exact Sub.of hm rfl | exact Has.of hm rfl | intro _
    | (extract_lets +onlyGivenNames x; first | (refine (have hx : Io.Keeps msk s0 x := ?_; ?_); (on_goal 2 => clear_value x); (on_goal 1 => subst x)) | (refine (have hx : Io.Keeps msk s0 x.1 := ?_; ?_); (on_goal 2 => clear_value x); (on_goal 1 => subst x)) | clear_value x)
    | (with_reducible first
        | apply Io.emit_keeps | apply Io.writeDram_keeps | apply Io.message_keeps | refine Io.ite_keeps ?_ ?_)
    | split
    | (with_reducible first
        | refine Io.Keeps.fst (by assumption) ?_ | fail_if_no_progress refine Io.mk_keeps ?_)

theorem Io.forget_keeps {msk : Nat} {s0 : Io} {s : Io} {w : Waiter} (hk0 : Io.Keeps msk s0 s) (hm : Sub 0x10000 msk) :
    Io.Keeps msk s0 (Io.forget s w) := by
  unfold Io.forget
  repeat' first
    | with_reducible assumption | exact Sub.of hm rfl | exact Has.of hm rfl | intro _
    | (extract_lets +onlyGivenNames x; first | (refine (have hx : Io.Keeps msk s0 x := ?_; ?_); (on_goal 2 => clear_value x); (on_goal 1 => subst x)) | (refine (have hx : Io.Keeps msk s0 x.1 := ?_; ?_); (on_goal 2 => clear_value x); (on_goal 1 => subst x)) | clear_value x)
    | with_reducible fail_if_no_progress refine Io.mk_keeps ?_

theorem Io.setOpTable_keeps {msk : Nat} {s0 : Io} {s : Io} {n : Nat} {t : OpTable} (hk0 : Io.Keeps msk s0 s) (hm : Sub 0x1c0040000000000000010000 msk) :
    Io.Keeps msk s0 (Io.setOpTable s n t) := by
  unfold Io.setOpTable
  repeat' first
    | with_reducible assumption | exact Sub.of hm rfl | exact Has.of hm rfl | intro _ | exact RegOf.HRG_OUTSTANDING
    | exact RegOf.XLT_OPT_PEAK _ | exact RegOf.XLT_OPT_USE_A _ | exact RegOf.XLT_OPT_USE_B _
    | (extract_lets +onlyGivenNames x; first | (refine (have hx : Io.Keeps msk s0 x := ?_; ?_); (on_goal 2 => clear_value x); (on_goal 1 => subst x)) | (refine (have hx : Io.Keeps msk s0 x.1 := ?_; ?_); (on_goal 2 => clear_value x); (on_goal 1 => subst x)) | clear_value x)
    | (with_reducible first
        | apply Io.setF_keeps | apply Io.setReg_keeps | refine Io.ite_keeps ?_ ?_)
    | split
    | (with_reducible first
        | fail_if_no_progress refine Io.mk_keeps ?_ | fail_if_no_progress refine Io.setOps_keeps ?_ ?_)

theorem Io.countOne_keeps {msk : Nat} {s0 : Io} {s : Io} {c : Nat} (hk0 : Io.Keeps msk s0 s) (hm : Sub 0x60000000000000000000000000000000000000000000000000000000000000000000000000000000000000000000040000 msk) :
    Io.Keeps msk s0 (Io.countOne s c).1 := by
  unfold Io.countOne
  repeat' first
    | with_reducible assumption | exact Sub.of hm rfl | exact Has.of hm rfl | intro _ | exact RegOf.CTL_CNT_OVF_A
    | exact RegOf.CTL_CNT_OVF_B
    | (extract_lets +onlyGivenNames x; first | (refine (have hx : Io.Keeps msk s0 x := ?_; ?_); (on_goal 2 => clear_value x); (on_goal 1 => subst x)) | (refine (have hx : Io.Keeps msk s0 x.1 := ?_; ?_); (on_goal 2 => clear_value x); (on_goal 1 => subst x)) | (refine (have hx : ∀ y, Io.Keeps msk s0 (x y) := ?_; ?_); (on_goal 2 => clear_value x); (on_goal 1 => subst x)) | (refine (have hx : ∀ y, Io.Keeps msk s0 (x y).1 := ?_; ?_); (on_goal 2 => clear_value x); (on_goal 1 => subst x)) | clear_value x)
    | (with_reducible first
        | apply Io.setReg_keeps | apply hx | refine Io.ite_keeps ?_ ?_ | refine Io.ite_keeps_fst ?_ ?_)
    | split
    | (with_reducible first
        | refine Io.Keeps.fst (by assumption) ?_ | fail_if_no_progress refine Io.mk_keeps ?_)

theorem Io.countSource_keeps {msk : Nat} {s0 : Io} {s : Io} {src : Nat} {region : Option Nat} (hk0 : Io.Keeps msk s0 s) (hm : Sub 0x60000000000000000000000000000000000000000000000000000000000000000000000000000000000000000000040000 msk) :
    Io.Keeps msk s0 (Io.countSource s src region).1 := by
  unfold Io.countSource
  repeat' first
    | with_reducible assumption | exact Sub.of hm rfl | exact Has.of hm rfl | intro _
    | (extract_lets +onlyGivenNames x; first | (refine (have hx : Io.Keeps msk s0 x.1 := ?_; ?_); (on_goal 2 => clear_value x); (on_goal 1 => subst x)) | clear_value x)
    | (with_reducible first
        | apply Io.countOne_keeps | apply Io.foldl_keeps | apply Io.foldl_keeps_fst | refine Io.ite_keeps ?_ ?_
        | refine Io.ite_keeps_fst ?_ ?_)
    | split
    | (with_reducible first
        | refine Io.Keeps.fst (by assumption) ?_ | fail_if_no_progress refine Io.filterRegs_keeps ?_ ?_)

theorem Io.take_keeps {msk : Nat} {s0 : Io} {s : Io} {n : Nat} {e : OpEntry} {a : Access} (hk0 : Io.Keeps msk s0 s) (hm : Sub 0x100000600000000000000000000000000000000000000000000000000000000000000000000000001c0040000000000000270000 msk) :
    Io.Keeps msk s0 (Io.take s n e a).1 := by
  unfold Io.take
  repeat' first
    | with_reducible assumption | exact Sub.of hm rfl | exact Has.of hm rfl | intro _
    | (extract_lets +onlyGivenNames x; first | (refine (have hx : Io.Keeps msk s0 x := ?_; ?_); (on_goal 2 => clear_value x); (on_goal 1 => subst x)) | (refine (have hx : Io.Keeps msk s0 x.1 := ?_; ?_); (on_goal 2 => clear_value x); (on_goal 1 => subst x)) | clear_value x)
    | (with_reducible first
        | apply Io.setOpTable_keeps | apply Io.perform_keeps | apply Io.countSource_keeps | apply Io.oncePer_keeps
        | refine Io.ite_keeps ?_ ?_ | refine Io.ite_keeps_fst ?_ ?_)
    | split
    | (with_reducible first
        | refine Io.Keeps.fst (by assumption) ?_ | fail_if_no_progress refine Io.mk_keeps ?_)

theorem Io.request_keeps {msk : Nat} {s0 : Io} {s : Io} {n cls : Nat} {a : Access} (hk0 : Io.Keeps msk s0 s) (hm : Sub 0x100000600000000000000000000000000000000000000000000000000000000000000000000000003c0040000000000000270000 msk) :
    Io.Keeps msk s0 (Io.request s n cls a).1 := by
  unfold Io.request
  repeat' first
    | with_reducible assumption | exact Sub.of hm rfl | exact Has.of hm rfl | intro _ | exact RegOf.XLT_HELD_COUNT _
    | (extract_lets +onlyGivenNames x; first | (refine (have hx : Io.Keeps msk s0 x := ?_; ?_); (on_goal 2 => clear_value x); (on_goal 1 => subst x)) | (refine (have hx : Io.Keeps msk s0 x.1 := ?_; ?_); (on_goal 2 => clear_value x); (on_goal 1 => subst x)) | clear_value x)
    | (with_reducible first
        | apply Io.take_keeps | apply Io.countSource_keeps | apply Io.setOpTable_keeps | apply Io.bumpF_keeps | apply Io.oncePer_keeps
        | refine Io.ite_keeps ?_ ?_ | refine Io.ite_keeps_fst ?_ ?_)
    | split
    | (with_reducible first
        | refine Io.Keeps.fst (by assumption) ?_ | fail_if_no_progress refine Io.mk_keeps ?_)

theorem Io.grantHeld_keeps {m : Nat} {s0 : Io} {k n : Nat} {s : Io} (h : Io.Keeps m s0 s) (hm : Sub 0x100000600000000000000000000000000000000000000000000000000000000000000000000000001c0040000000000000270000 m) :
    Io.Keeps m s0 (Io.grantHeld k n s).1 := by
  induction k generalizing s with
  | zero => exact h
  | succ k ih =>
    unfold Io.grantHeld
    dsimp only
    split
    · exact h
    · exact ih (Io.take_keeps (Io.setOps_keeps h (Has.of hm rfl)) (Sub.of hm rfl))

theorem Io.grantAll_keeps {msk : Nat} {s0 : Io} {s : Io} (hk0 : Io.Keeps msk s0 s) (hm : Sub 0x100000600000000000000000000000000000000000000000000000000000000000000000000000001c0040000000000000270000 msk) :
    Io.Keeps msk s0 (Io.grantAll s).1 := by
  unfold Io.grantAll
  repeat' first
    | with_reducible assumption | exact Sub.of hm rfl | exact Has.of hm rfl | intro _
    | (extract_lets +onlyGivenNames x; first | (refine (have hx : Io.Keeps msk s0 x.1 := ?_; ?_); (on_goal 2 => clear_value x); (on_goal 1 => subst x)) | clear_value x)
    | (with_reducible first
        | apply Io.grantHeld_keeps | apply Io.foldl_keeps | apply Io.foldl_keeps_fst)
    | split | with_reducible refine Io.Keeps.fst (by assumption) ?_

theorem Io.release_keeps {msk : Nat} {s0 : Io} {s : Io} {n : Nat} {p : OpEntry → Bool} (hk0 : Io.Keeps msk s0 s) (hm : Sub 0x100000600000000000000000000000000000000000000000000000000000000000000000000000001c0040000000000000270000 msk) :
    Io.Keeps msk s0 (Io.release s n p).1 := by
  unfold Io.release
  repeat' first
    | with_reducible assumption | exact Sub.of hm rfl | exact Has.of hm rfl | intro _
    | (extract_lets +onlyGivenNames x; first | (refine (have hx : Io.Keeps msk s0 x := ?_; ?_); (on_goal 2 => clear_value x); (on_goal 1 => subst x)) | (refine (have hx : Io.Keeps msk s0 x.1 := ?_; ?_); (on_goal 2 => clear_value x); (on_goal 1 => subst x)) | clear_value x)
    | (with_reducible first
        | apply Io.setOpTable_keeps | apply Io.grantAll_keeps | refine Io.ite_keeps ?_ ?_ | refine Io.ite_keeps_fst ?_ ?_)
    | split
    | (with_reducible first
        | fail_if_no_progress refine Io.mk_keeps ?_ | fail_if_no_progress refine Io.eraseRing_keeps ?_ ?_)

theorem Io.finishOwn_keeps {m : Nat} {s0 : Io} {k : Nat} {w : Waiter} {s : Io} (h : Io.Keeps m s0 s) (hm : Sub 0x100000600000000000000000000000000000000000000000000000000000000000000000000000001c0040000000000000270000 m) :
    Io.Keeps m s0 (Io.finishOwn k w s).1 := by
  induction k generalizing s with
  | zero => exact h
  | succ k ih =>
    unfold Io.finishOwn
    split
    · exact h
    · exact ih (Io.release_keeps h (Sub.of hm rfl))

theorem Io.completeOwn_keeps {m : Nat} {s0 s : Io} {w : Waiter} (h : Io.Keeps m s0 s) (hm : Sub 0x100000600000000000000000000000000000000000000000000000000000000000000000000000001c0040000000000000270000 m) :
    Io.Keeps m s0 (s.completeOwn w).1 := Io.finishOwn_keeps h (Sub.of hm rfl)

theorem Io.burst_keeps {msk : Nat} {s0 : Io} {s : Io} {w : Waiter} {k : Nat} {as : List (Nat × Nat × Access)} (hk0 : Io.Keeps msk s0 s) (hm : Sub 0x100000600000000000000000000000000000000000000000000000000000000000000000000000003c0040000000000000270000 msk) :
    Io.Keeps msk s0 (Io.burst s w k as).1 := by
  unfold Io.burst
  repeat' first
    | with_reducible assumption | exact Sub.of hm rfl | exact Has.of hm rfl | intro _
    | (extract_lets +onlyGivenNames x; first | (refine (have hx : Io.Keeps msk s0 x.1 := ?_; ?_); (on_goal 2 => clear_value x); (on_goal 1 => subst x)) | clear_value x)
    | (with_reducible first
        | apply Io.completeOwn_keeps | apply Io.request_keeps | apply Io.foldl_keeps | apply Io.foldl_keeps_fst | refine Io.ite_keeps ?_ ?_
        | refine Io.ite_keeps_fst ?_ ?_)
    | split | with_reducible refine Io.Keeps.fst (by assumption) ?_

theorem Io.withdraw_keeps {m : Nat} {s0 s : Io} {w : Waiter} (h : Io.Keeps m s0 s) (hm : Sub 0x10000 m) :
    Io.Keeps m s0 (s.withdraw w) := Io.mapOps_keeps h (Has.of hm rfl)

theorem Io.logFault_keeps {msk : Nat} {s0 : Io} {s : Io} {n iova kind cls ctx req : Nat} {layer : Option Nat} {write : Bool} (hk0 : Io.Keeps msk s0 s) (hm : Sub 0x1f000000000000000000000000 msk) :
    Io.Keeps msk s0 (Io.logFault s n iova kind cls ctx req layer write).1 := by
  unfold Io.logFault
  repeat' first
    | with_reducible assumption | exact Sub.of hm rfl | exact Has.of hm rfl | intro _ | exact RegOf.XLT_FAULT_HEAD _
    | exact RegOf.XLT_FLOG_INFO _ _ | exact RegOf.XLT_FLOG_IOVA_HI _ _ | exact RegOf.XLT_FLOG_IOVA_LO _ _
    | exact RegOf.XLT_FLOG_TICK _ _
    | (extract_lets +onlyGivenNames x; first | (refine (have hx : Io.Keeps msk s0 x := ?_; ?_); (on_goal 2 => clear_value x); (on_goal 1 => subst x)) | (refine (have hx : Io.Keeps msk s0 x.1 := ?_; ?_); (on_goal 2 => clear_value x); (on_goal 1 => subst x)) | clear_value x)
    | (with_reducible first
        | apply Io.setReg_keeps | apply Io.setF_keeps | refine Io.ite_keeps ?_ ?_ | refine Io.ite_keeps_fst ?_ ?_)
    | split

theorem Io.countFault_keeps {msk : Nat} {s0 : Io} {s : Io} (hk0 : Io.Keeps msk s0 s) (hm : Sub 0x1000000000000000000000 msk) :
    Io.Keeps msk s0 (Io.countFault s) := by
  unfold Io.countFault
  repeat' first
    | with_reducible assumption | exact Sub.of hm rfl | exact Has.of hm rfl | intro _ | exact RegOf.XLT_FAULT_COUNT
    | with_reducible apply Io.bumpF_keeps

theorem Io.translate_keeps {msk : Nat} {s0 : Io} {s : Io} {n c iova : Nat} {write : Bool} (hk0 : Io.Keeps msk s0 s) (hm : Sub 0xc00000000000000000010000 msk) :
    Io.Keeps msk s0 (Io.translate s n c iova write).1 := by
  unfold Io.translate
  repeat' first
    | with_reducible assumption | exact Sub.of hm rfl | exact Has.of hm rfl | intro _ | exact RegOf.XLT_TC_HIT _
    | exact RegOf.XLT_TC_MISS _
    | (extract_lets +onlyGivenNames x; first | (refine (have hx : Io.Keeps msk s0 x := ?_; ?_); (on_goal 2 => clear_value x); (on_goal 1 => subst x)) | clear_value x)
    | (with_reducible first
        | apply Io.bumpF_keeps | refine Io.ite_keeps ?_ ?_ | refine Io.ite_keeps_fst ?_ ?_)
    | split
    | (with_reducible first
        | refine Io.Keeps.fst (by assumption) ?_ | fail_if_no_progress refine Io.mk_keeps ?_)

theorem Io.reportWalks_keeps {msk : Nat} {s0 : Io} {s : Io} (hk0 : Io.Keeps msk s0 s) (hm : Sub 0x400000000000000000000 msk) :
    Io.Keeps msk s0 (Io.reportWalks s) := by
  unfold Io.reportWalks
  repeat' first
    | with_reducible assumption | exact Sub.of hm rfl | exact Has.of hm rfl | intro _ | exact RegOf.XLT_WALKS
    | with_reducible apply Io.setReg_keeps

theorem Io.startWalk_keeps {msk : Nat} {s0 : Io} {s : Io} {w : Walk} (hk0 : Io.Keeps msk s0 s) (hm : Sub 0x100000600000000000000000000000000000000000000000000000000000000000000000000000003c0840000000000000270000 msk) :
    Io.Keeps msk s0 (Io.startWalk s w).1 := by
  unfold Io.startWalk
  repeat' first
    | with_reducible assumption | exact Sub.of hm rfl | exact Has.of hm rfl | intro _ | exact RegOf.XLT_WALK_COUNT
    | (extract_lets +onlyGivenNames x; first | (refine (have hx : Io.Keeps msk s0 x := ?_; ?_); (on_goal 2 => clear_value x); (on_goal 1 => subst x)) | clear_value x)
    | (with_reducible first
        | apply Io.bumpF_keeps | apply Io.request_keeps | refine Io.ite_keeps ?_ ?_ | refine Io.ite_keeps_fst ?_ ?_)
    | split | with_reducible fail_if_no_progress refine Io.mk_keeps ?_

theorem Io.startNext_keeps {msk : Nat} {s0 : Io} {s : Io} (hk0 : Io.Keeps msk s0 s) (hm : Sub 0x100000600000000000000000000000000000000000000000000000000000000000000000000000003c0840000000000000270000 msk) :
    Io.Keeps msk s0 (Io.startNext s).1 := by
  unfold Io.startNext
  repeat' first
    | with_reducible assumption | exact Sub.of hm rfl | exact Has.of hm rfl | intro _
    | (extract_lets +onlyGivenNames x; first | (refine (have hx : Io.Keeps msk s0 x := ?_; ?_); (on_goal 2 => clear_value x); (on_goal 1 => subst x)) | clear_value x)
    | (with_reducible first
        | apply Io.startWalk_keeps | refine Io.ite_keeps ?_ ?_ | refine Io.ite_keeps_fst ?_ ?_)
    | split
    | (with_reducible first
        | refine Io.Keeps.fst (by assumption) ?_ | fail_if_no_progress refine Io.mk_keeps ?_)

theorem Io.startWalks_keeps {m : Nat} {s0 : Io} {k : Nat} {s : Io} (h : Io.Keeps m s0 s) (hm : Sub 0x100000600000000000000000000000000000000000000000000000000000000000000000000000003c0c40000000000000270000 m) :
    Io.Keeps m s0 (Io.startWalks k s).1 :=
  Io.reportWalks_keeps (Io.foldl_keeps_fst h (fun _ _ k => Io.startNext_keeps k (Sub.of hm rfl))) (Sub.of hm rfl)

theorem Io.addWalk_keeps {m : Nat} {s0 s : Io} {ctx : Nat} {q : WalkReq} (h : Io.Keeps m s0 s) (hm : Sub 0x100000600000000000000000000000000000000000000000000000000000000000000000000000003c0c40000000000000270000 m) :
    Io.Keeps m s0 (s.addWalk ctx q).1 := by
  unfold Io.addWalk
  dsimp only
  split
  · exact Io.mk_keeps h
  · exact Io.startWalks_keeps (Io.mk_keeps h) (Sub.of hm rfl)

end Sys2Proof.Machine
end

