-- ==== Sys2Proof/Laws/KeepsCollector.lean ====
section
/-! SUPPORT. What the operations of Machine/Collector.lean keep. -/

set_option linter.unusedTactic false
set_option linter.unreachableTactic false
set_option linter.tactic.unusedName false

set_option Elab.async false

namespace Sys2Proof.Machine

theorem Io.setStatus_keeps {msk : Nat} {s0 : Io} {s : Io} {e v : Nat} (hk0 : Io.Keeps msk s0 s) (hm : Sub 0x10000000000000000000000000000000000000000000000000000000000000000000000000000000000000000000000 msk) :
    Io.Keeps msk s0 (Io.setStatus s e v) := by
  unfold Io.setStatus
  repeat' first
    | with_reducible assumption | exact Sub.of hm rfl | exact Has.of hm rfl | intro _ | exact RegOf.CTL_EVT_STATUS _
    | (extract_lets +onlyGivenNames x; first | (refine (have hx : Io.Keeps msk s0 x := ?_; ?_); (on_goal 2 => clear_value x); (on_goal 1 => subst x)) | (refine (have hx : Io.Keeps msk s0 x.1 := ?_; ?_); (on_goal 2 => clear_value x); (on_goal 1 => subst x)) | skip)
    | with_reducible apply Io.setReg_keeps

theorem Io.evtMessage_keeps {msk : Nat} {s0 : Io} {s : Io} {e : Nat} (hk0 : Io.Keeps msk s0 s) (hm : Sub 0x10000000000000000000000000000000000000000000000000000000000000000000000000000000000000000000000000200000 msk) :
    Io.Keeps msk s0 (Io.evtMessage s e) := by
  unfold Io.evtMessage
  repeat' first
    | with_reducible assumption | exact Sub.of hm rfl | exact Has.of hm rfl | intro _
    | (with_reducible first
        | apply Io.message_keeps | refine Io.ite_keeps ?_ ?_)
    | split

theorem Io.ringError_keeps {msk : Nat} {s0 : Io} {s : Io} {n code idx : Nat} (hk0 : Io.Keeps msk s0 s) (hm : Sub 0x18000000000000008000 msk) :
    Io.Keeps msk s0 (Io.ringError s n code idx).1 := by
  unfold Io.ringError
  repeat' first
    | with_reducible assumption | exact Sub.of hm rfl | exact Has.of hm rfl | intro _ | exact RegOf.HRG_LAST_ERR
    | exact RegOf.HRG_RING_ERRORS
    | (extract_lets +onlyGivenNames x; first | (refine (have hx : Io.Keeps msk s0 x := ?_; ?_); (on_goal 2 => clear_value x); (on_goal 1 => subst x)) | (refine (have hx : Io.Keeps msk s0 x.1 := ?_; ?_); (on_goal 2 => clear_value x); (on_goal 1 => subst x)) | clear_value x)
    | (with_reducible first
        | apply Io.setRing_keeps | apply Io.setReg_keeps | apply Io.bumpF_keeps | refine Io.ite_keeps ?_ ?_ | refine Io.ite_keeps_fst ?_ ?_)
    | split | with_reducible fail_if_no_progress refine Io.mk_keeps ?_

theorem Io.cqWrite_keeps {msk : Nat} {s0 : Io} {s : Io} {n i : Nat} {bs : List Byte} {msg : Option Nat} {isRecord : Bool} (hk0 : Io.Keeps msk s0 s) (hm : Sub 0x1000006000000000000000000000000000000000000000000000000000000000000000000000001ffc1c58000000000000278000 msk) :
    Io.Keeps msk s0 (Io.cqWrite s n i bs msg isRecord).1 := by
  unfold Io.cqWrite
  repeat' first
    | with_reducible assumption | exact Sub.of hm rfl | exact Has.of hm rfl | intro _
    | (extract_lets +onlyGivenNames x; first | (refine (have hx : Io.Keeps msk s0 x := ?_; ?_); (on_goal 2 => clear_value x); (on_goal 1 => subst x)) | (refine (have hx : Io.Keeps msk s0 x.1 := ?_; ?_); (on_goal 2 => clear_value x); (on_goal 1 => subst x)) | clear_value x)
    | (with_reducible first
        | apply Io.request_keeps | apply Io.translate_keeps | apply Io.countFault_keeps | apply Io.logFault_keeps | apply Io.ringError_keeps
        | apply Io.addWalk_keeps | refine Io.ite_keeps ?_ ?_ | refine Io.ite_keeps_fst ?_ ?_)
    | split
    | (with_reducible first
        | refine Io.Keeps.fst (by assumption) ?_ | fail_if_no_progress refine Io.mk_keeps ?_)

theorem Io.writeRecord_keeps {msk : Nat} {s0 : Io} {s : Io} {h : RecordHead} {n : Nat} (hk0 : Io.Keeps msk s0 s) (hm : Sub 0x1000006008000000000000000000000000000000000000000000000000000000000000000000001ffc1c58000000000000278000 msk) :
    Io.Keeps msk s0 (Io.writeRecord s h n).1 := by
  unfold Io.writeRecord
  repeat' first
    | with_reducible assumption | exact Sub.of hm rfl | exact Has.of hm rfl | intro _ | exact RegOf.CTL_EVT_LOST
    | (extract_lets +onlyGivenNames x; first | (refine (have hx : Io.Keeps msk s0 x := ?_; ?_); (on_goal 2 => clear_value x); (on_goal 1 => subst x)) | (refine (have hx : Io.Keeps msk s0 x.1 := ?_; ?_); (on_goal 2 => clear_value x); (on_goal 1 => subst x)) | clear_value x)
    | (with_reducible first
        | apply Io.setRing_keeps | apply Io.bumpF_keeps | apply Io.cqWrite_keeps | refine Io.ite_keeps ?_ ?_ | refine Io.ite_keeps_fst ?_ ?_)
    | split
    | (with_reducible first
        | refine Io.Keeps.fst (by assumption) ?_ | fail_if_no_progress refine Io.mk_keeps ?_)

theorem Io.writeRecords_keeps {msk : Nat} {s0 : Io} {s : Io} {h : RecordHead} (hk0 : Io.Keeps msk s0 s) (hm : Sub 0x1000006008000000000000000000000000000000000000000000000000000000000000000000001ffc1c58000000000000278000 msk) :
    Io.Keeps msk s0 (Io.writeRecords s h).1 := by
  unfold Io.writeRecords
  repeat' first
    | with_reducible assumption | exact Sub.of hm rfl | exact Has.of hm rfl | intro _
    | (extract_lets +onlyGivenNames x; first | (refine (have hx : Io.Keeps msk s0 x.1 := ?_; ?_); (on_goal 2 => clear_value x); (on_goal 1 => subst x)) | clear_value x)
    | (with_reducible first
        | apply Io.writeRecord_keeps | apply Io.foldl_keeps | apply Io.foldl_keeps_fst)
    | split | with_reducible refine Io.Keeps.fst (by assumption) ?_

theorem Io.forwardLost_keeps {msk : Nat} {s0 : Io} {s : Io} {event : Nat} (hk0 : Io.Keeps msk s0 s) (hm : Sub 0x200000000000000000000000000000000000000000000000000000000000000000000000000000000000000000040000 msk) :
    Io.Keeps msk s0 (Io.forwardLost s event).1 := by
  unfold Io.forwardLost
  repeat' first
    | with_reducible assumption | exact Sub.of hm rfl | exact Has.of hm rfl | intro _ | exact RegOf.CTL_EVT_FWD_LOST
    | (extract_lets +onlyGivenNames x; first | (refine (have hx : Io.Keeps msk s0 x := ?_; ?_); (on_goal 2 => clear_value x); (on_goal 1 => subst x)) | clear_value x)
    | (with_reducible first
        | apply Io.bumpF_keeps | refine Io.ite_keeps ?_ ?_ | refine Io.ite_keeps_fst ?_ ?_)
    | split | with_reducible fail_if_no_progress refine Io.mk_keeps ?_

theorem Io.forwardRecord_keeps {msk : Nat} {s0 : Io} {s : Io} {h : RecordHead} (hk0 : Io.Keeps msk s0 s) (hm : Sub 0x200000000000000000000000000000000000000000000000000000000000000000000000000000000000000000040000 msk) :
    Io.Keeps msk s0 (Io.forwardRecord s h).1 := by
  unfold Io.forwardRecord
  repeat' first
    | with_reducible assumption | exact Sub.of hm rfl | exact Has.of hm rfl | intro _
    | (extract_lets +onlyGivenNames x; first | (refine (have hx : Io.Keeps msk s0 x := ?_; ?_); (on_goal 2 => clear_value x); (on_goal 1 => subst x)) | (refine (have hx : Io.Keeps msk s0 x.1 := ?_; ?_); (on_goal 2 => clear_value x); (on_goal 1 => subst x)) | clear_value x)
    | (with_reducible first
        | apply Io.forwardLost_keeps | refine Io.ite_keeps ?_ ?_ | refine Io.ite_keeps_fst ?_ ?_)
    | split | with_reducible fail_if_no_progress refine Io.mk_keeps ?_

theorem Io.occur_keeps {msk : Nat} {s0 : Io} {s : Io} {o : Occ} {again : Bool} (hk0 : Io.Keeps msk s0 s) (hm : Sub 0x1000006069000000000000000000000000000000000000000000000000000000000000000000001ffc1c58000000000000278000 msk) :
    Io.Keeps msk s0 (Io.occur s o again).1 := by
  unfold Io.occur
  repeat' first
    | with_reducible assumption | exact Sub.of hm rfl | exact Has.of hm rfl | intro _ | exact RegOf.CTL_EVT_COUNT _
    | (extract_lets +onlyGivenNames x; first | (refine (have hx : Io.Keeps msk s0 x := ?_; ?_); (on_goal 2 => clear_value x); (on_goal 1 => subst x)) | (refine (have hx : Io.Keeps msk s0 x.1 := ?_; ?_); (on_goal 2 => clear_value x); (on_goal 1 => subst x)) | clear_value x)
    | (with_reducible first
        | apply Io.setF_keeps | apply Io.setStatus_keeps | apply Io.bumpF_keeps | apply Io.countSource_keeps | apply Io.evtMessage_keeps
        | apply Io.writeRecords_keeps | apply Io.forwardRecord_keeps | refine Io.ite_keeps ?_ ?_ | refine Io.ite_keeps_fst ?_ ?_)
    | split
    | (with_reducible first
        | refine Io.Keeps.fst (by assumption) ?_ | fail_if_no_progress refine Io.mk_keeps ?_)

theorem Io.drain_keeps {m : Nat} {s0 : Io} {k : Nat} {os : List Occ} {s : Io} (h : Io.Keeps m s0 s) (hm : Sub 0x1000006069000000000000000000000000000000000000000000000000000000000000000000001ffc1c58000000000000278000 m) :
    Io.Keeps m s0 (Io.drain k os s) := by
  induction k generalizing os s with
  | zero => exact h
  | succ k ih =>
    cases os with
    | nil => exact h
    | cons o t => exact ih (Io.occur_keeps h (Sub.of hm rfl))

theorem Io.fires_keeps {msk : Nat} {s0 : Io} {s : Io} {os : List Occ} (hk0 : Io.Keeps msk s0 s) (hm : Sub 0x1000006069000000000000000000000000000000000000000000000000000000000000000000001ffc1c58000000000000278000 msk) :
    Io.Keeps msk s0 (Io.fires s os) := by
  unfold Io.fires
  repeat' first
    | with_reducible assumption | exact Sub.of hm rfl | exact Has.of hm rfl | intro _ | with_reducible apply Io.drain_keeps

theorem Io.settle_keeps {m : Nat} {s0 : Io} {p : Io × List Occ} (h : Io.Keeps m s0 p.1) (hm : Sub 0x1000006069000000000000000000000000000000000000000000000000000000000000000000001ffc1c58000000000000278000 m) :
    Io.Keeps m s0 (Io.settle p) := Io.fires_keeps h (Sub.of hm rfl)

theorem Io.fire_keeps {msk : Nat} {s0 : Io} {s : Io} {e : Nat} (hk0 : Io.Keeps msk s0 s) (hm : Sub 0x1000006069000000000000000000000000000000000000000000000000000000000000000000001ffc1c58000000000000278000 msk) :
    Io.Keeps msk s0 (Io.fire s e) := by
  unfold Io.fire
  repeat' first
    | with_reducible assumption | exact Sub.of hm rfl | exact Has.of hm rfl | intro _ | with_reducible apply Io.fires_keeps

theorem Io.fireObj_keeps {msk : Nat} {s0 : Io} {s : Io} {e : Nat} {region : Option Nat} {obj : Nat} {detail : List Byte} (hk0 : Io.Keeps msk s0 s) (hm : Sub 0x1000006069000000000000000000000000000000000000000000000000000000000000000000001ffc1c58000000000000278000 msk) :
    Io.Keeps msk s0 (Io.fireObj s e region obj detail) := by
  unfold Io.fireObj
  repeat' first
    | with_reducible assumption | exact Sub.of hm rfl | exact Has.of hm rfl | intro _ | with_reducible apply Io.fires_keeps

theorem Io.fireIn_keeps {msk : Nat} {s0 : Io} {s : Io} {e n : Nat} (hk0 : Io.Keeps msk s0 s) (hm : Sub 0x1000006069000000000000000000000000000000000000000000000000000000000000000000001ffc1c58000000000000278000 msk) :
    Io.Keeps msk s0 (Io.fireIn s e n) := by
  unfold Io.fireIn
  repeat' first
    | with_reducible assumption | exact Sub.of hm rfl | exact Has.of hm rfl | intro _ | with_reducible apply Io.fires_keeps
    | split

theorem Io.fireOnce_keeps {msk : Nat} {s0 : Io} {s : Io} {key : Nat} {o : Occ} (hk0 : Io.Keeps msk s0 s) (hm : Sub 0x1000006069000000000000000000000000000000000000000000000000000000000000000000001ffc1c58000000000000278000 msk) :
    Io.Keeps msk s0 (Io.fireOnce s key o) := by
  unfold Io.fireOnce
  repeat' first
    | with_reducible assumption | exact Sub.of hm rfl | exact Has.of hm rfl | intro _
    | (with_reducible first
        | apply Io.settle_keeps | apply Io.oncePer_keeps)

theorem Io.pulse_keeps {msk : Nat} {s0 : Io} {s : Io} {k : Nat} (hk0 : Io.Keeps msk s0 s) (hm : Sub 0x1000006069000000000000000000000000000000000000000000000000000000000000000000001ffc1c58000000000000278000 msk) :
    Io.Keeps msk s0 (Io.pulse s k) := by
  unfold Io.pulse
  repeat' first
    | with_reducible assumption | exact Sub.of hm rfl | exact Has.of hm rfl | intro _
    | (with_reducible first
        | apply Io.settle_keeps | apply Io.countSource_keeps)
    | split

theorem Io.pulses_keeps {msk : Nat} {s0 : Io} {k n : Nat} {s : Io} (h : Io.Keeps msk s0 s) (hm : Sub 0x1000006069000000000000000000000000000000000000000000000000000000000000000000001ffc1c58000000000000278000 msk) :
    Io.Keeps msk s0 (Io.pulses k n s) := by
  induction n generalizing s with
  | zero => exact h
  | succ k ih =>
    unfold Io.pulses
    repeat' first
        | with_reducible assumption | exact Sub.of hm rfl | exact Has.of hm rfl | intro _
        | (with_reducible first
            | apply ih | apply Io.pulse_keeps)
        | split

theorem Io.complete_keeps {msk : Nat} {s0 : Io} {s : Io} {n index : Nat} {entry : List Byte} {d : Done} (hk0 : Io.Keeps msk s0 s) (hm : Sub 0x1000006069000000000000000000000000000000000000000000000000000000000000000000001ffc1c58000000000000278000 msk) :
    Io.Keeps msk s0 (Io.complete s n index entry d) := by
  unfold Io.complete
  repeat' first
    | with_reducible assumption | exact Sub.of hm rfl | exact Has.of hm rfl | intro _
    | (extract_lets +onlyGivenNames x; first | (refine (have hx : Io.Keeps msk s0 x := ?_; ?_); (on_goal 2 => clear_value x); (on_goal 1 => subst x)) | (refine (have hx : Io.Keeps msk s0 x.1 := ?_; ?_); (on_goal 2 => clear_value x); (on_goal 1 => subst x)) | clear_value x)
    | (with_reducible first
        | apply Io.setRing_keeps | apply Io.settle_keeps | apply Io.cqWrite_keeps | refine Io.ite_keeps ?_ ?_)
    | split | with_reducible fail_if_no_progress refine Io.mk_keeps ?_

theorem Io.freeSlot_keeps {msk : Nat} {s0 : Io} {s : Io} {n : Nat} (hk0 : Io.Keeps msk s0 s) (hm : Sub 0x8000 msk) :
    Io.Keeps msk s0 (Io.freeSlot s n) := by
  unfold Io.freeSlot
  repeat' first
    | with_reducible assumption | exact Sub.of hm rfl | exact Has.of hm rfl | intro _
    | (extract_lets +onlyGivenNames x; first | (refine (have hx : Io.Keeps msk s0 x := ?_; ?_); (on_goal 2 => clear_value x); (on_goal 1 => subst x)) | (refine (have hx : Io.Keeps msk s0 x.1 := ?_; ?_); (on_goal 2 => clear_value x); (on_goal 1 => subst x)) | clear_value x)
    | (with_reducible first
        | apply Io.setRing_keeps | fail_if_no_progress refine Io.mk_keeps ?_)

end Sys2Proof.Machine
end

