-- ==== Sys2Proof/Laws/KeepsOps.lean ====
section
/-! SUPPORT. What the operations of Machine/Ops.lean keep. -/

set_option linter.unusedTactic false
set_option linter.unreachableTactic false
set_option linter.tactic.unusedName false

set_option Elab.async false

namespace Sys2Proof.Machine

theorem State.fire_keeps {msk : Nat} {s0 : State} {s : State} {e : Nat} (hk0 : State.Keeps msk s0 s) (hm : Sub 0x1000006069000000000000000000000000000000000000000000000000000000000000000000001ffc1c58000000000000278000 msk) :
    State.Keeps msk s0 (State.fire s e) := by
  unfold State.fire
  repeat' first
    | with_reducible assumption | exact Sub.of hm rfl | exact Has.of hm rfl | intro _
    | (with_reducible first
        | apply State.on_keeps | apply Io.fire_keeps | apply State.on_keeps | exact State.Keeps.io (by assumption)
        | fail_if_no_progress refine State.Keeps.io ?_)

theorem State.alert_keeps {msk : Nat} {s0 : State} {s : State} {i : Nat} {on : Bool} (hk0 : State.Keeps msk s0 s) (hm : Sub 0x10000000000000000000000000000000000000000000000000000000000000000000000000000000000000000000000000000 msk) :
    State.Keeps msk s0 (State.alert s i on) := by
  unfold State.alert
  repeat' first
    | with_reducible assumption | exact Sub.of hm rfl | exact Has.of hm rfl | intro _ | exact RegOf.CTL_ALERT
    | (with_reducible first
        | apply Io.setF_keeps | apply State.setF_keeps)

end Sys2Proof.Machine
end

