-- ==== Sys2Proof/Laws/KeepsHost.lean ====
section
/-! SUPPORT. What the operations of Machine/Host.lean keep. -/

set_option linter.unusedTactic false
set_option linter.unreachableTactic false
set_option linter.tactic.unusedName false

set_option Elab.async false

namespace Sys2Proof.Machine

theorem Io.clearRegs_keeps {msk : Nat} {s0 : Io} {s : Io} {p : Nat → Bool} (hk0 : Io.Keeps msk s0 s) (hm : Sub 0x80000000 msk) :
    Io.Keeps msk s0 (Io.clearRegs s p) := by
  unfold Io.clearRegs
  repeat' first
    | with_reducible assumption | exact Sub.of hm rfl | exact Has.of hm rfl | intro _ | exact RegOf.anyReg _
    | (extract_lets +onlyGivenNames x; first | (refine (have hx : Io.Keeps msk s0 x := ?_; ?_); (on_goal 2 => clear_value x); (on_goal 1 => subst x)) | (refine (have hx : Io.Keeps msk s0 x.1 := ?_; ?_); (on_goal 2 => clear_value x); (on_goal 1 => subst x)) | clear_value x)
    | (with_reducible first
        | fail_if_no_progress refine Io.mk_keeps ?_ | fail_if_no_progress refine Io.filterRegs_keeps ?_ ?_)

theorem Io.clearHostState_keeps {m : Nat} {s0 s : Io} (h : Io.Keeps m s0 s) (hm : Sub 0x1000006069000000000000000000000000000000000000000000000000000000000000000000001ffc5c58000000000080278000 m) : Io.Keeps m s0 s.clearHostState := by
  unfold Io.clearHostState
  extract_lets rd s1 s2 s3
  have h1 : Io.Keeps m s0 s1 := Io.clearRegs_keeps (p := hostStateReg) h (Sub.of hm rfl)
  clear_value s1
  have h2 : Io.Keeps m s0 s2 := h1.trans ⟨fun x => ⟨x.dram, x.regs, rfl, x.ops⟩, le_refl _, le_refl _, fun _ _ => rfl,
    .refl _, .refl _, .refl _, .refl _, .has (Has.of hm rfl), .has (Has.of hm rfl), .has (Has.of hm rfl), .refl _, .has (Has.of hm rfl), .has (Has.of hm rfl), .has (Has.of hm rfl), .has (Has.of hm rfl), .refl _, .refl _, .refl _, .refl _, .refl _, .refl _, .refl _, .refl _, .refl _, .refl _, .refl _⟩
  clear_value s2
  have h3 : Io.Keeps m s0 s3 := Io.foldl_keeps h2 (fun _ _ k => Io.setOpTable_keeps k (Sub.of hm rfl))
  clear_value s3
  exact Io.settle_keeps (Io.grantAll_keeps (Io.reportWalks_keeps (Io.setF_keeps (Io.setF_keeps h3 RegOf.HRG_OUTSTANDING (Has.of hm rfl))
    RegOf.XLT_DMA_ACTIVE (Has.of hm rfl)) (Sub.of hm rfl)) (Sub.of hm rfl)) (Sub.of hm rfl)

theorem Io.createRing0_keeps {msk : Nat} {s0 : Io} {s : Io} (hk0 : Io.Keeps msk s0 s) (hm : Sub 0x8000 msk) :
    Io.Keeps msk s0 (Io.createRing0 s) := by
  unfold Io.createRing0
  repeat' first
    | with_reducible assumption | exact Sub.of hm rfl | exact Has.of hm rfl | intro _
    | (with_reducible first
        | apply Io.setRing_keeps | refine Io.ite_keeps ?_ ?_)
    | split

theorem Io.functionReset_keeps {msk : Nat} {s0 : Io} {s : Io} {e : Nat} (hk0 : Io.Keeps msk s0 s) (hm : Sub 0x1000006069000000000000000000000000000000000000000000000000000000000000000000001ffc5c78000000000080278000 msk) :
    Io.Keeps msk s0 (Io.functionReset s e) := by
  unfold Io.functionReset
  repeat' first
    | with_reducible assumption | exact Sub.of hm rfl | exact Has.of hm rfl | intro _ | exact RegOf.HRG_FN_RESETS
    | (with_reducible first
        | apply Io.bumpF_keeps | apply Io.fire_keeps | apply Io.clearHostState_keeps | apply Io.createRing0_keeps)

theorem Io.pcieUp_keeps {msk : Nat} {s0 : Io} {s : Io} {speed width : Nat} (hk0 : Io.Keeps msk s0 s) (hm : Sub 0x1000006069000000000000000000000000000000000000000000000000000000000000000000001ffc1c58040000000000378000 msk) :
    Io.Keeps msk s0 (Io.pcieUp s speed width) := by
  unfold Io.pcieUp
  repeat' first
    | with_reducible assumption | exact Sub.of hm rfl | exact Has.of hm rfl | intro _ | exact RegOf.HRG_LINK
    | (extract_lets +onlyGivenNames x; first | (refine (have hx : Io.Keeps msk s0 x := ?_; ?_); (on_goal 2 => clear_value x); (on_goal 1 => subst x)) | clear_value x)
    | (with_reducible first
        | apply Io.setF_keeps | apply Io.fire_keeps | refine Io.ite_keeps ?_ ?_)
    | split | with_reducible fail_if_no_progress refine Io.mk_keeps ?_

theorem Io.pcieDown_keeps {msk : Nat} {s0 : Io} {s : Io} (hk0 : Io.Keeps msk s0 s) (hm : Sub 0x1000006069000000000000000000000000000000000000000000000000000000000000000000001ffc5c78040000000080378000 msk) :
    Io.Keeps msk s0 (Io.pcieDown s) := by
  unfold Io.pcieDown
  repeat' first
    | with_reducible assumption | exact Sub.of hm rfl | exact Has.of hm rfl | intro _ | exact RegOf.HRG_LINK
    | (extract_lets +onlyGivenNames x; first | (refine (have hx : Io.Keeps msk s0 x := ?_; ?_); (on_goal 2 => clear_value x); (on_goal 1 => subst x)) | (refine (have hx : Io.Keeps msk s0 x.1 := ?_; ?_); (on_goal 2 => clear_value x); (on_goal 1 => subst x)) | clear_value x)
    | (with_reducible first
        | apply Io.setF_keeps | apply Io.fire_keeps | apply Io.functionReset_keeps | refine Io.ite_keeps ?_ ?_)
    | split | with_reducible fail_if_no_progress refine Io.mk_keeps ?_

theorem Io.hotReset_keeps {msk : Nat} {s0 : Io} {s : Io} (hk0 : Io.Keeps msk s0 s) (hm : Sub 0x1000006069000000000000000000000000000000000000000000000000000000000000000000001ffc5c78000000000080378000 msk) :
    Io.Keeps msk s0 (Io.hotReset s) := by
  unfold Io.hotReset
  repeat' first
    | with_reducible assumption | exact Sub.of hm rfl | exact Has.of hm rfl | intro _
    | (extract_lets +onlyGivenNames x; first | (refine (have hx : Io.Keeps msk s0 x := ?_; ?_); (on_goal 2 => clear_value x); (on_goal 1 => subst x)) | clear_value x)
    | (with_reducible first
        | apply Io.functionReset_keeps | refine Io.ite_keeps ?_ ?_)
    | split | with_reducible fail_if_no_progress refine Io.mk_keeps ?_

theorem Io.flr_keeps {msk : Nat} {s0 : Io} {s : Io} (hk0 : Io.Keeps msk s0 s) (hm : Sub 0x1000006069000000000000000000000000000000000000000000000000000000000000000000001ffc5c78000000000080278000 msk) :
    Io.Keeps msk s0 (Io.flr s) := by
  unfold Io.flr
  repeat' first
    | with_reducible assumption | exact Sub.of hm rfl | exact Has.of hm rfl | intro _
    | (with_reducible first
        | apply Io.functionReset_keeps | refine Io.ite_keeps ?_ ?_)
    | split

theorem Io.d3Enter_keeps {msk : Nat} {s0 : Io} {s : Io} (hk0 : Io.Keeps msk s0 s) (hm : Sub 0x100000 msk) :
    Io.Keeps msk s0 (Io.d3Enter s) := by
  unfold Io.d3Enter
  repeat' first
    | with_reducible assumption | exact Sub.of hm rfl | exact Has.of hm rfl | intro _
    | (extract_lets +onlyGivenNames x; first | (refine (have hx : Io.Keeps msk s0 x := ?_; ?_); (on_goal 2 => clear_value x); (on_goal 1 => subst x)) | clear_value x)
    | with_reducible refine Io.ite_keeps ?_ ?_ | split | with_reducible fail_if_no_progress refine Io.mk_keeps ?_

theorem Io.d3Exit_keeps {msk : Nat} {s0 : Io} {s : Io} (hk0 : Io.Keeps msk s0 s) (hm : Sub 0x1000006069000000000000000000000000000000000000000000000000000000000000000000001ffc5c78000000000080378000 msk) :
    Io.Keeps msk s0 (Io.d3Exit s) := by
  unfold Io.d3Exit
  repeat' first
    | with_reducible assumption | exact Sub.of hm rfl | exact Has.of hm rfl | intro _
    | (extract_lets +onlyGivenNames x; first | (refine (have hx : Io.Keeps msk s0 x := ?_; ?_); (on_goal 2 => clear_value x); (on_goal 1 => subst x)) | clear_value x)
    | (with_reducible first
        | apply Io.functionReset_keeps | refine Io.ite_keeps ?_ ?_)
    | split | with_reducible fail_if_no_progress refine Io.mk_keeps ?_

theorem execPcieLinkUp_keeps {msk : Nat} {s0 : State} {speed width : Nat} {s : State} (hk0 : State.Keeps msk s0 s) (hm : Sub 0x1000006069000000000000000000000000000000000000000000000000000000000000000000001ffc1c58040000000000378000 msk) :
    Result.Keeps msk s0 (execPcieLinkUp speed width s) := by
  unfold execPcieLinkUp
  repeat' first
    | with_reducible assumption | exact Sub.of hm rfl | exact Has.of hm rfl | intro _
    | (with_reducible first
        | refine Result.next_keeps ?_ | apply State.on_keeps | apply Io.pcieUp_keeps | apply State.on_keeps
        | exact State.Keeps.io (by assumption) | fail_if_no_progress refine State.Keeps.io ?_)

theorem execD3hotEntry_keeps {msk : Nat} {s0 : State} {s : State} (hk0 : State.Keeps msk s0 s) (hm : Sub 0x100000 msk) :
    Result.Keeps msk s0 (execD3hotEntry s) := by
  unfold execD3hotEntry
  repeat' first
    | with_reducible assumption | exact Sub.of hm rfl | exact Has.of hm rfl | intro _
    | (with_reducible first
        | refine Result.next_keeps ?_ | apply State.on_keeps | apply Io.d3Enter_keeps | apply State.on_keeps
        | exact State.Keeps.io (by assumption) | fail_if_no_progress refine State.Keeps.io ?_)

theorem State.onHost_keeps {msk : Nat} {s0 : State} {s : State} {f : HostState → HostState} (hk0 : State.Keeps msk s0 s) (hm : Sub 0x10 msk) :
    State.Keeps msk s0 (State.onHost s f) := by
  unfold State.onHost
  repeat' first
    | with_reducible assumption | exact Sub.of hm rfl | exact Has.of hm rfl | intro _
    | (extract_lets +onlyGivenNames x; first | (refine (have hx : State.Keeps msk s0 x := ?_; ?_); (on_goal 2 => clear_value x); (on_goal 1 => subst x)) | (refine (have hx : State.Keeps msk s0 x.1 := ?_; ?_); (on_goal 2 => clear_value x); (on_goal 1 => subst x)) | (refine (have hx : Io.Keeps msk s0.io x := ?_; ?_); (on_goal 2 => clear_value x); (on_goal 1 => subst x)) | (refine (have hx : Io.Keeps msk s0.io x.1 := ?_; ?_); (on_goal 2 => clear_value x); (on_goal 1 => subst x)) | (refine (have hx : ∀ y, State.Keeps msk s0 (x y) := ?_; ?_); (on_goal 2 => clear_value x); (on_goal 1 => subst x)) | (refine (have hx : ∀ y, State.Keeps msk s0 (x y).1 := ?_; ?_); (on_goal 2 => clear_value x); (on_goal 1 => subst x)) | clear_value x)
    | (with_reducible first
        | apply hf | apply hx | refine State.Keeps.fst (by assumption) ?_ | refine Io.Keeps.fst (by assumption) ?_
        | exact State.Keeps.io (by assumption) | fail_if_no_progress refine State.Keeps.io ?_
        | fail_if_no_progress refine State.mk_keeps ?_ ?_ | fail_if_no_progress refine Io.mk_keeps ?_)

theorem execConfigurationWrite_keeps {msk : Nat} {s0 : State} {w : ConfigWrite} {s : State} (hk0 : State.Keeps msk s0 s) (hm : Sub 0x1000006069000000000000000000000000000000000000000000000000000000000000000000001ffc1c5a040000000000278010 msk) :
    Result.Keeps msk s0 (execConfigurationWrite w s) := by
  unfold execConfigurationWrite
  repeat' first
    | with_reducible assumption | exact Sub.of hm rfl | exact Has.of hm rfl | intro _ | exact RegOf.HRG_CPL_TIMEOUT
    | exact RegOf.HRG_LINK
    | (extract_lets +onlyGivenNames x; first | (refine (have hx : State.Keeps msk s0 x := ?_; ?_); (on_goal 2 => clear_value x); (on_goal 1 => subst x)) | clear_value x)
    | (with_reducible first
        | refine Result.next_keeps ?_ | apply State.on_keeps | apply Io.setF_keeps | apply State.setF_keeps | apply Io.settle_keeps
        | apply Io.grantAll_keeps | apply State.onHost_keeps | apply Io.emit_keeps | apply State.emit_keeps | apply State.on_keeps
        | refine Result.ite_keeps ?_ ?_ | refine State.ite_keeps ?_ ?_ | refine Io.ite_keeps ?_ ?_)
    | split
    | (with_reducible first
        | refine State.Keeps.fst (by assumption) ?_ | exact State.Keeps.io (by assumption) | fail_if_no_progress refine State.Keeps.io ?_
        | fail_if_no_progress refine State.mk_keeps ?_ ?_ | fail_if_no_progress refine Io.mk_keeps ?_)

theorem State.aerUncorrectable_keeps {msk : Nat} {s0 : State} {s : State} {b : Nat} (hk0 : State.Keeps msk s0 s) (hm : Sub 0x10 msk) :
    State.Keeps msk s0 (State.aerUncorrectable s b) := by
  unfold State.aerUncorrectable
  repeat' first
    | with_reducible assumption | exact Sub.of hm rfl | exact Has.of hm rfl | intro _
    | (extract_lets +onlyGivenNames x; first | (refine (have hx : State.Keeps msk s0 x := ?_; ?_); (on_goal 2 => clear_value x); (on_goal 1 => subst x)) | clear_value x)
    | (with_reducible first
        | apply State.onHost_keeps | fail_if_no_progress refine State.mk_keeps ?_ ?_)

theorem State.poisonSeen_keeps {msk : Nat} {s0 : State} {s : State} {res : ReadResult} (hk0 : State.Keeps msk s0 s) (hm : Sub 0x1000006069000000000000000000000000000000000000000000000000000000000000000000001ffc1c58000000000000278010 msk) :
    State.Keeps msk s0 (State.poisonSeen s res) := by
  unfold State.poisonSeen
  repeat' first
    | with_reducible assumption | exact Sub.of hm rfl | exact Has.of hm rfl | intro _
    | (extract_lets +onlyGivenNames x; first | (refine (have hx : State.Keeps msk s0 x := ?_; ?_); (on_goal 2 => clear_value x); (on_goal 1 => subst x)) | clear_value x)
    | (with_reducible first
        | apply State.aerUncorrectable_keeps | apply Io.fire_keeps | apply State.fire_keeps)
    | split
    | (with_reducible first
        | refine State.Keeps.fst (by assumption) ?_ | fail_if_no_progress refine State.mk_keeps ?_ ?_)

theorem execPcieLinkSpeedChange_keeps {msk : Nat} {s0 : State} {speed width : Nat} {s : State} (hk0 : State.Keeps msk s0 s) (hm : Sub 0x1000006069000000000000000000000000000000000000000000000000000000000000000000001ffc1c58040000000000278000 msk) :
    Result.Keeps msk s0 (execPcieLinkSpeedChange speed width s) := by
  unfold execPcieLinkSpeedChange
  repeat' first
    | with_reducible assumption | exact Sub.of hm rfl | exact Has.of hm rfl | intro _ | exact RegOf.HRG_LINK
    | (with_reducible first
        | refine Result.next_keeps ?_ | apply State.on_keeps | apply Io.setF_keeps | apply State.setF_keeps | apply Io.fire_keeps
        | apply State.fire_keeps | apply State.on_keeps | refine Result.ite_keeps ?_ ?_ | refine State.ite_keeps ?_ ?_
        | refine Io.ite_keeps ?_ ?_)
    | split
    | (with_reducible first
        | exact State.Keeps.io (by assumption) | fail_if_no_progress refine State.Keeps.io ?_)

theorem execPcieCorrectableError_keeps {msk : Nat} {s0 : State} {s : State} (hk0 : State.Keeps msk s0 s) (hm : Sub 0x1000006069000000000000000000000000000000000000000000000000000000000000000000001ffc1c58000000000000278010 msk) :
    Result.Keeps msk s0 (execPcieCorrectableError s) := by
  unfold execPcieCorrectableError
  repeat' first
    | with_reducible assumption | exact Sub.of hm rfl | exact Has.of hm rfl | intro _
    | (extract_lets +onlyGivenNames x; first | (refine (have hx : State.Keeps msk s0 x := ?_; ?_); (on_goal 2 => clear_value x); (on_goal 1 => subst x)) | clear_value x)
    | (with_reducible first
        | refine Result.next_keeps ?_ | apply State.onHost_keeps | apply Io.fire_keeps | apply State.fire_keeps
        | refine Result.ite_keeps ?_ ?_ | refine State.ite_keeps ?_ ?_ | refine Io.ite_keeps ?_ ?_)
    | split
    | (with_reducible first
        | exact State.Keeps.io (by assumption) | fail_if_no_progress refine State.Keeps.io ?_
        | fail_if_no_progress refine State.mk_keeps ?_ ?_ | fail_if_no_progress refine Io.mk_keeps ?_)

theorem execUnexpectedCompletion_keeps {msk : Nat} {s0 : State} {s : State} (hk0 : State.Keeps msk s0 s) (hm : Sub 0x10 msk) :
    Result.Keeps msk s0 (execUnexpectedCompletion s) := by
  unfold execUnexpectedCompletion
  repeat' first
    | with_reducible assumption | exact Sub.of hm rfl | exact Has.of hm rfl | intro _
    | (with_reducible first
        | refine Result.next_keeps ?_ | apply State.aerUncorrectable_keeps | refine Result.ite_keeps ?_ ?_ | refine State.ite_keeps ?_ ?_
        | refine Io.ite_keeps ?_ ?_)
    | split
    | (with_reducible first
        | exact State.Keeps.io (by assumption) | fail_if_no_progress refine State.Keeps.io ?_)

theorem Io.bar2Issue_keeps {msk : Nat} {s0 : Io} {s : Io} {a : Bar2Access} (hk0 : Io.Keeps msk s0 s) (hm : Sub 0x1000006069000000000000000000000000000000000000000000000000000000000000000000001ffc1c58000000000000278000 msk) :
    Io.Keeps msk s0 (Io.bar2Issue s a) := by
  unfold Io.bar2Issue
  repeat' first
    | with_reducible assumption | exact Sub.of hm rfl | exact Has.of hm rfl | intro _
    | (with_reducible first
        | apply Io.settle_keeps | apply Io.request_keeps | apply Io.foldl_keeps | apply Io.foldl_keeps_fst | refine Io.ite_keeps ?_ ?_)
    | split | with_reducible fail_if_no_progress refine Io.setOps_keeps ?_ ?_

theorem Io.bar2Pump_keeps {m : Nat} {s0 : Io} {k : Nat} {s : Io} (h : Io.Keeps m s0 s) (hm : Sub 0x1000006069000000000000000000000000000000000000000000000000000000000000000000001ffc1c58000000000000278000 m) :
    Io.Keeps m s0 (Io.bar2Pump k s) := by
  induction k generalizing s with
  | zero => exact h
  | succ k ih =>
    unfold Io.bar2Pump
    split
    · exact h
    · split
      · exact h
      · extract_lets s1 s2
        have h1 : Io.Keeps m s0 s1 := by
          unfold s1
          split
          · exact h
          · exact Io.forget_keeps (Io.emit_keeps h (Has.of hm rfl)) (Sub.of hm rfl)
        clear_value s1
        have h2 : Io.Keeps m s0 s2 := Io.mk_keeps h1
        clear_value s2
        split
        · exact h2
        · exact ih (Io.bar2Issue_keeps h2 (Sub.of hm rfl))

theorem Io.bar2Run_keeps {msk : Nat} {s0 : Io} {s : Io} (hk0 : Io.Keeps msk s0 s) (hm : Sub 0x1000006069000000000000000000000000000000000000000000000000000000000000000000001ffc1c58000000000000278000 msk) :
    Io.Keeps msk s0 (Io.bar2Run s) := by
  unfold Io.bar2Run
  repeat' first
    | with_reducible assumption | exact Sub.of hm rfl | exact Has.of hm rfl | intro _ | with_reducible apply Io.bar2Pump_keeps

theorem Io.bar2Access_keeps {msk : Nat} {s0 : Io} {s : Io} {write : Bool} {addr len : Nat} {bs : List Byte} {bad : Bool} (hk0 : Io.Keeps msk s0 s) (hm : Sub 0x1000006069000000000000000000000000000000000000000000000000000000000000000000001ffc1c58000000000000278000 msk) :
    Io.Keeps msk s0 (Io.bar2Access s write addr len bs bad) := by
  unfold Io.bar2Access
  repeat' first
    | with_reducible assumption | exact Sub.of hm rfl | exact Has.of hm rfl | intro _
    | (extract_lets +onlyGivenNames x; first | (refine (have hx : Io.Keeps msk s0 x := ?_; ?_); (on_goal 2 => clear_value x); (on_goal 1 => subst x)) | clear_value x)
    | (with_reducible first
        | apply Io.emit_keeps | apply Io.fire_keeps | apply Io.bar2Issue_keeps | apply Io.bar2Run_keeps | refine Io.ite_keeps ?_ ?_)
    | split | with_reducible fail_if_no_progress refine Io.mk_keeps ?_

theorem execBar2Access_keeps {msk : Nat} {s0 : State} {write : Bool} {addr len : Nat} {bs : List Byte} {bad : Bool} {s : State} (hk0 : State.Keeps msk s0 s) (hm : Sub 0x1000006069000000000000000000000000000000000000000000000000000000000000000000001ffc1c58000000000000278000 msk) :
    Result.Keeps msk s0 (execBar2Access write addr len bs bad s) := by
  unfold execBar2Access
  repeat' first
    | with_reducible assumption | exact Sub.of hm rfl | exact Has.of hm rfl | intro _
    | (with_reducible first
        | refine Result.next_keeps ?_ | apply State.on_keeps | apply Io.bar2Access_keeps | apply State.on_keeps
        | exact State.Keeps.io (by assumption) | fail_if_no_progress refine State.Keeps.io ?_)

theorem Io.ignoreDoorbell_keeps {msk : Nat} {s0 : Io} {s : Io} (hk0 : Io.Keeps msk s0 s) (hm : Sub 0x1000006069000000000000000000000000000000000000000000000000000000000000000000001ffc1c5c000000000000278000 msk) :
    Io.Keeps msk s0 (Io.ignoreDoorbell s) := by
  unfold Io.ignoreDoorbell
  repeat' first
    | with_reducible assumption | exact Sub.of hm rfl | exact Has.of hm rfl | intro _ | exact RegOf.HRG_DB_IGNORED
    | (with_reducible first
        | apply Io.bumpF_keeps | apply Io.fire_keeps)

theorem Io.doorbellTail_keeps {msk : Nat} {s0 : Io} {s : Io} {n v : Nat} (hk0 : Io.Keeps msk s0 s) (hm : Sub 0x1000006069000000000000000000000000000000000000000000000000000000000000000000001ffc1c58000000000000278000 msk) :
    Io.Keeps msk s0 (Io.doorbellTail s n v).1 := by
  unfold Io.doorbellTail
  repeat' first
    | with_reducible assumption | exact Sub.of hm rfl | exact Has.of hm rfl | intro _
    | (extract_lets +onlyGivenNames x; first | (refine (have hx : Io.Keeps msk s0 x := ?_; ?_); (on_goal 2 => clear_value x); (on_goal 1 => subst x)) | (refine (have hx : Io.Keeps msk s0 x.1 := ?_; ?_); (on_goal 2 => clear_value x); (on_goal 1 => subst x)) | clear_value x)
    | (with_reducible first
        | apply Io.settle_keeps | apply Io.ringError_keeps | apply Io.setRing_keeps | refine Io.ite_keeps ?_ ?_
        | refine Io.ite_keeps_fst ?_ ?_)
    | split | with_reducible fail_if_no_progress refine Io.mk_keeps ?_

theorem Io.doorbellHead_keeps {msk : Nat} {s0 : Io} {s : Io} {n v : Nat} (hk0 : Io.Keeps msk s0 s) (hm : Sub 0x8000 msk) :
    Io.Keeps msk s0 (Io.doorbellHead s n v).1 := by
  unfold Io.doorbellHead
  repeat' first
    | with_reducible assumption | exact Sub.of hm rfl | exact Has.of hm rfl | intro _
    | (extract_lets +onlyGivenNames x; first | (refine (have hx : Io.Keeps msk s0 x := ?_; ?_); (on_goal 2 => clear_value x); (on_goal 1 => subst x)) | (refine (have hx : Io.Keeps msk s0 x.1 := ?_; ?_); (on_goal 2 => clear_value x); (on_goal 1 => subst x)) | clear_value x)
    | (with_reducible first
        | apply Io.setRing_keeps | refine Io.ite_keeps ?_ ?_ | refine Io.ite_keeps_fst ?_ ?_)
    | split | with_reducible fail_if_no_progress refine Io.mk_keeps ?_

theorem Io.countIgnored_keeps {m : Nat} {s0 : Io} {p : Io × Bool} (h : Io.Keeps m s0 p.1) (hm : Sub 0x1000006069000000000000000000000000000000000000000000000000000000000000000000001ffc1c5c000000000000278000 m) :
    Io.Keeps m s0 (Io.countIgnored p) := by
  unfold Io.countIgnored
  split
  · exact Io.ignoreDoorbell_keeps h (Sub.of hm rfl)
  · exact h

theorem Io.doorbell_keeps {msk : Nat} {s0 : Io} {s : Io} {off size v : Nat} (hk0 : Io.Keeps msk s0 s) (hm : Sub 0x1000006069000000000000000000000000000000000000000000000000000000000000000000001ffc1c5c000000000000278000 msk) :
    Io.Keeps msk s0 (Io.doorbell s off size v) := by
  unfold Io.doorbell
  repeat' first
    | with_reducible assumption | exact Sub.of hm rfl | exact Has.of hm rfl | intro _
    | (extract_lets +onlyGivenNames x; first | (refine (have hx : Io.Keeps msk s0 x := ?_; ?_); (on_goal 2 => clear_value x); (on_goal 1 => subst x)) | (refine (have hx : Io.Keeps msk s0 x.1 := ?_; ?_); (on_goal 2 => clear_value x); (on_goal 1 => subst x)) | (refine (have hx : ∀ y, Io.Keeps msk s0 (x y) := ?_; ?_); (on_goal 2 => clear_value x); (on_goal 1 => subst x)) | (refine (have hx : ∀ y, Io.Keeps msk s0 (x y).1 := ?_; ?_); (on_goal 2 => clear_value x); (on_goal 1 => subst x)) | skip)
    | (with_reducible first
        | apply Io.fire_keeps | apply Io.ignoreDoorbell_keeps | apply Io.doorbellTail_keeps | apply Io.doorbellHead_keeps
        | apply Io.countIgnored_keeps | apply hx | refine Io.ite_keeps ?_ ?_ | refine Io.ite_keeps_fst ?_ ?_)
    | split
    | (with_reducible first
        | refine Io.Keeps.fst (by assumption) ?_ | fail_if_no_progress refine Io.mk_keeps ?_)

theorem Io.doorbellRead_keeps {msk : Nat} {s0 : Io} {s : Io} {off size : Nat} (hk0 : Io.Keeps msk s0 s) (hm : Sub 0x200000 msk) :
    Io.Keeps msk s0 (Io.doorbellRead s off size) := by
  unfold Io.doorbellRead
  repeat' first
    | with_reducible assumption | exact Sub.of hm rfl | exact Has.of hm rfl | intro _
    | (extract_lets +onlyGivenNames x; first | (refine (have hx : Io.Keeps msk s0 x := ?_; ?_); (on_goal 2 => clear_value x); (on_goal 1 => subst x)) | (refine (have hx : Io.Keeps msk s0 x.1 := ?_; ?_); (on_goal 2 => clear_value x); (on_goal 1 => subst x)) | clear_value x)
    | (with_reducible first
        | apply Io.emit_keeps | refine Io.ite_keeps ?_ ?_)
    | split | with_reducible refine Io.Keeps.fst (by assumption) ?_

theorem execDoorbellWrite_keeps {msk : Nat} {s0 : State} {read : Bool} {off size v : Nat} {s : State} (hk0 : State.Keeps msk s0 s) (hm : Sub 0x1000006069000000000000000000000000000000000000000000000000000000000000000000001ffc1c5c000000000000278000 msk) :
    Result.Keeps msk s0 (execDoorbellWrite off size v s read) := by
  unfold execDoorbellWrite
  repeat' first
    | with_reducible assumption | exact Sub.of hm rfl | exact Has.of hm rfl | intro _
    | (with_reducible first
        | refine Result.next_keeps ?_ | apply State.on_keeps | apply Io.doorbellRead_keeps | apply Io.doorbell_keeps | apply State.on_keeps
        | refine Result.ite_keeps ?_ ?_ | refine State.ite_keeps ?_ ?_ | refine Io.ite_keeps ?_ ?_)
    | split
    | (with_reducible first
        | exact State.Keeps.io (by assumption) | fail_if_no_progress refine State.Keeps.io ?_)

theorem Io.msixUnmask_keeps {msk : Nat} {s0 : Io} {s : Io} {v : Nat} (hk0 : Io.Keeps msk s0 s) (hm : Sub 0x18000000000000000000000000000000000000000000000000000000000000000000000000000000000000000000000000200000 msk) :
    Io.Keeps msk s0 (Io.msixUnmask s v) := by
  unfold Io.msixUnmask
  repeat' first
    | with_reducible assumption | exact Sub.of hm rfl | exact Has.of hm rfl | intro _ | exact RegOf.HRG_MSIX_CTL _
    | exact RegOf.HRG_MSIX_PBA _
    | (extract_lets +onlyGivenNames x; first | (refine (have hx : Io.Keeps msk s0 x := ?_; ?_); (on_goal 2 => clear_value x); (on_goal 1 => subst x)) | (refine (have hx : Io.Keeps msk s0 x.1 := ?_; ?_); (on_goal 2 => clear_value x); (on_goal 1 => subst x)) | skip)
    | (with_reducible first
        | apply Io.setF_keeps | apply Io.setReg_keeps | apply Io.message_keeps | refine Io.ite_keeps ?_ ?_)
    | split

theorem execMsixUnmask_keeps {msk : Nat} {s0 : State} {v : Nat} {s : State} (hk0 : State.Keeps msk s0 s) (hm : Sub 0x18000000000000000000000000000000000000000000000000000000000000000000000000000000000000000000000000200000 msk) :
    Result.Keeps msk s0 (execMsixUnmask v s) := by
  unfold execMsixUnmask
  repeat' first
    | with_reducible assumption | exact Sub.of hm rfl | exact Has.of hm rfl | intro _
    | (with_reducible first
        | refine Result.next_keeps ?_ | apply State.on_keeps | apply Io.msixUnmask_keeps | apply State.on_keeps
        | exact State.Keeps.io (by assumption) | fail_if_no_progress refine State.Keeps.io ?_)

theorem Io.dropF_keeps {m p : Nat} {s0 s : Io} {f : Field} (h : Io.Keeps m s0 s) (hr : RegOf p f.reg) (hm : Has p m) :
    Io.Keeps m s0 (s.dropF f) := Io.setF_keeps h hr hm

theorem Io.finishDestroy_keeps {msk : Nat} {s0 : Io} {s : Io} {n : Nat} (hk0 : Io.Keeps msk s0 s) (hm : Sub 0x1000006069000000000000000000000000000000000000000000000000000000000000000000001ffc1c58000000000000278000 msk) :
    Io.Keeps msk s0 (Io.finishDestroy s n) := by
  unfold Io.finishDestroy
  repeat' first
    | with_reducible assumption | exact Sub.of hm rfl | exact Has.of hm rfl | intro _
    | (extract_lets +onlyGivenNames x; first | (refine (have hx : Io.Keeps msk s0 x := ?_; ?_); (on_goal 2 => clear_value x); (on_goal 1 => subst x)) | (refine (have hx : Io.Keeps msk s0 x.1 := ?_; ?_); (on_goal 2 => clear_value x); (on_goal 1 => subst x)) | clear_value x)
    | (with_reducible first
        | apply Io.complete_keeps | refine Io.ite_keeps ?_ ?_)
    | split
    | (with_reducible first
        | refine Io.Keeps.fst (by assumption) ?_ | fail_if_no_progress refine Io.mk_keeps ?_
        | fail_if_no_progress refine Io.eraseRing_keeps ?_ ?_)

theorem Io.fetchFailed_keeps {msk : Nat} {s0 : Io} {s : Io} {n first count kind a : Nat} (hk0 : Io.Keeps msk s0 s) (hm : Sub 0x1000006069000000000000000000000000000000000000000000000000000000000000000000001ffc1c58000000000000278000 msk) :
    Io.Keeps msk s0 (Io.fetchFailed s n first count kind a) := by
  unfold Io.fetchFailed
  repeat' first
    | with_reducible assumption | exact Sub.of hm rfl | exact Has.of hm rfl | intro _ | exact RegOf.HRG_OUTSTANDING
    | (extract_lets +onlyGivenNames x; first | (refine (have hx : Io.Keeps msk s0 x := ?_; ?_); (on_goal 2 => clear_value x); (on_goal 1 => subst x)) | (refine (have hx : Io.Keeps msk s0 x.1 := ?_; ?_); (on_goal 2 => clear_value x); (on_goal 1 => subst x)) | clear_value x)
    | (with_reducible first
        | apply Io.settle_keeps | apply Io.withdraw_keeps | apply Io.completeOwn_keeps | apply Io.forget_keeps | apply Io.setRing_keeps
        | apply Io.dropF_keeps | apply Io.countFault_keeps | apply Io.logFault_keeps | apply Io.ringError_keeps | apply Io.fires_keeps
        | apply Io.finishDestroy_keeps | refine Io.ite_keeps ?_ ?_)
    | split
    | (with_reducible first
        | refine Io.Keeps.fst (by assumption) ?_ | fail_if_no_progress refine Io.mk_keeps ?_
        | fail_if_no_progress refine Io.eraseRing_keeps ?_ ?_)

theorem Io.translateOps_keeps {m : Nat} {s0 : Io} {n ctx : Nat} {write : Bool} {l : List (Nat × Nat)} {s : Io} (h : Io.Keeps m s0 s)
    (hm : Sub 0xc00000000000000000010000 m) : Io.Keeps m s0 (s.translateOps n ctx write l).1 := by
  induction l generalizing s with
  | nil => exact h
  | cons a t ih =>
    unfold Io.translateOps
    have ht := Io.translate_keeps (n := n) (c := ctx) (iova := a.1) (write := write) h (Sub.of hm rfl)
    split
    · next e => exact Io.Keeps.fst e ht
    · next e => exact ih (Io.Keeps.fst e ht)

theorem Io.issueRead_keeps {msk : Nat} {s0 : Io} {s : Io} {w : Waiter} {cls : Nat} {dram : Bool} {ctx a len : Nat} (hk0 : Io.Keeps msk s0 s) (hm : Sub 0x1000006069000000000000000000000000000000000000000000000000000000000000000000001ffc1c58000000000000278000 msk) :
    Io.Keeps msk s0 (Io.issueRead s w cls dram ctx a len).1 := by
  unfold Io.issueRead
  repeat' first
    | with_reducible assumption | exact Sub.of hm rfl | exact Has.of hm rfl | intro _
    | (extract_lets +onlyGivenNames x; first | (refine (have hx : Io.Keeps msk s0 x := ?_; ?_); (on_goal 2 => clear_value x); (on_goal 1 => subst x)) | (refine (have hx : Io.Keeps msk s0 x.1 := ?_; ?_); (on_goal 2 => clear_value x); (on_goal 1 => subst x)) | (refine (have hx : ∀ y, Io.Keeps msk s0 (x y) := ?_; ?_); (on_goal 2 => clear_value x); (on_goal 1 => subst x)) | (refine (have hx : ∀ y, Io.Keeps msk s0 (x y).1 := ?_; ?_); (on_goal 2 => clear_value x); (on_goal 1 => subst x)) | skip)
    | (with_reducible first
        | apply Io.settle_keeps | apply Io.request_keeps | apply Io.translateOps_keeps | apply Io.addWalk_keeps | apply Io.foldl_keeps
        | apply Io.foldl_keeps_fst | apply hx | refine Io.ite_keeps ?_ ?_ | refine Io.ite_keeps_fst ?_ ?_)
    | split
    | (with_reducible first
        | refine Io.Keeps.fst (by assumption) ?_ | fail_if_no_progress refine Io.mk_keeps ?_
        | fail_if_no_progress refine Io.setOps_keeps ?_ ?_)

theorem Io.issueFetch_keeps {msk : Nat} {s0 : Io} {s : Io} {n first count : Nat} (hk0 : Io.Keeps msk s0 s) (hm : Sub 0x1000006069000000000000000000000000000000000000000000000000000000000000000000001ffc1c58000000000000278000 msk) :
    Io.Keeps msk s0 (Io.issueFetch s n first count) := by
  unfold Io.issueFetch
  repeat' first
    | with_reducible assumption | exact Sub.of hm rfl | exact Has.of hm rfl | intro _
    | (extract_lets +onlyGivenNames x; first | (refine (have hx : Io.Keeps msk s0 x := ?_; ?_); (on_goal 2 => clear_value x); (on_goal 1 => subst x)) | (refine (have hx : Io.Keeps msk s0 x.1 := ?_; ?_); (on_goal 2 => clear_value x); (on_goal 1 => subst x)) | clear_value x)
    | (with_reducible first
        | apply Io.issueRead_keeps | apply Io.fetchFailed_keeps)
    | split
    | (with_reducible first
        | refine Io.Keeps.fst (by assumption) ?_ | fail_if_no_progress refine Io.mk_keeps ?_)

theorem Io.ringFetch_keeps {msk : Nat} {s0 : Io} {s : Io} {served : List (Nat × Nat)} {count : Nat} (hk0 : Io.Keeps msk s0 s) (hm : Sub 0x1000006069000000000000000000000000000000000000000000000000000000000000000000001ffc1c58000000000000278000 msk) :
    Io.Keeps msk s0 (Io.ringFetch s served count).1 := by
  unfold Io.ringFetch
  repeat' first
    | with_reducible assumption | exact Sub.of hm rfl | exact Has.of hm rfl | intro _ | exact RegOf.HRG_OUTSTANDING
    | (extract_lets +onlyGivenNames x; first | (refine (have hx : Io.Keeps msk s0 x := ?_; ?_); (on_goal 2 => clear_value x); (on_goal 1 => subst x)) | (refine (have hx : Io.Keeps msk s0 x.1 := ?_; ?_); (on_goal 2 => clear_value x); (on_goal 1 => subst x)) | clear_value x)
    | (with_reducible first
        | apply Io.setRing_keeps | apply Io.bumpF_keeps | apply Io.issueFetch_keeps | refine Io.ite_keeps ?_ ?_
        | refine Io.ite_keeps_fst ?_ ?_)
    | split
    | (with_reducible first
        | refine Io.Keeps.fst (by assumption) ?_ | fail_if_no_progress refine Io.mk_keeps ?_)

theorem execRingFetch_keeps {msk : Nat} {s0 : State} {count : Nat} {s : State} (hk0 : State.Keeps msk s0 s) (hm : Sub 0x1000006069000000000000000000000000000000000000000000000000000000000000000000001ffc1c58000000000000278010 msk) :
    Result.Keeps msk s0 (execRingFetch count s) := by
  unfold execRingFetch
  repeat' first
    | with_reducible assumption | exact Sub.of hm rfl | exact Has.of hm rfl | intro _
    | (extract_lets +onlyGivenNames x; first | (refine (have hx : State.Keeps msk s0 x := ?_; ?_); (on_goal 2 => clear_value x); (on_goal 1 => subst x)) | (refine (have hx : State.Keeps msk s0 x.1 := ?_; ?_); (on_goal 2 => clear_value x); (on_goal 1 => subst x)) | (refine (have hx : Io.Keeps msk s0.io x := ?_; ?_); (on_goal 2 => clear_value x); (on_goal 1 => subst x)) | (refine (have hx : Io.Keeps msk s0.io x.1 := ?_; ?_); (on_goal 2 => clear_value x); (on_goal 1 => subst x)) | (refine (have hx : ∀ y, State.Keeps msk s0 (x y) := ?_; ?_); (on_goal 2 => clear_value x); (on_goal 1 => subst x)) | (refine (have hx : ∀ y, State.Keeps msk s0 (x y).1 := ?_; ?_); (on_goal 2 => clear_value x); (on_goal 1 => subst x)) | clear_value x)
    | (with_reducible first
        | refine Result.next_keeps ?_ | apply Io.ringFetch_keeps | apply hx)
    | split
    | (with_reducible first
        | refine State.Keeps.fst (by assumption) ?_ | refine Io.Keeps.fst (by assumption) ?_ | exact State.Keeps.io (by assumption)
        | fail_if_no_progress refine State.Keeps.io ?_ | fail_if_no_progress refine State.mk_keeps ?_ ?_
        | fail_if_no_progress refine Io.mk_keeps ?_)

theorem Io.sqReadComplete_keeps {msk : Nat} {s0 : Io} {s : Io} {n first : Nat} {res : ReadResult} (hk0 : Io.Keeps msk s0 s) (hm : Sub 0x1000006069000000000000000000000000000000000000000000000000000000000000000000001ffc1c58000000000000278000 msk) :
    Io.Keeps msk s0 (Io.sqReadComplete s n first res) := by
  unfold Io.sqReadComplete
  repeat' first
    | with_reducible assumption | exact Sub.of hm rfl | exact Has.of hm rfl | intro _ | exact RegOf.HRG_OUTSTANDING
    | (extract_lets +onlyGivenNames x; first | (refine (have hx : Io.Keeps msk s0 x := ?_; ?_); (on_goal 2 => clear_value x); (on_goal 1 => subst x)) | (refine (have hx : Io.Keeps msk s0 x.1 := ?_; ?_); (on_goal 2 => clear_value x); (on_goal 1 => subst x)) | clear_value x)
    | (with_reducible first
        | apply Io.fetchFailed_keeps | apply Io.settle_keeps | apply Io.completeOwn_keeps | apply Io.forget_keeps | apply Io.setRing_keeps
        | apply Io.dropF_keeps | refine Io.ite_keeps ?_ ?_)
    | split
    | (with_reducible first
        | refine Io.Keeps.fst (by assumption) ?_ | fail_if_no_progress refine Io.mk_keeps ?_
        | fail_if_no_progress refine Io.eraseRing_keeps ?_ ?_)

theorem Io.popEntry_keeps {msk : Nat} {s0 : Io} {s : Io} {n i : Nat} (hk0 : Io.Keeps msk s0 s) (hm : Sub 0x8000 msk) :
    Io.Keeps msk s0 (Io.popEntry s n i) := by
  unfold Io.popEntry
  repeat' first
    | with_reducible assumption | exact Sub.of hm rfl | exact Has.of hm rfl | intro _
    | (extract_lets +onlyGivenNames x; first | (refine (have hx : Io.Keeps msk s0 x := ?_; ?_); (on_goal 2 => clear_value x); (on_goal 1 => subst x)) | (refine (have hx : Io.Keeps msk s0 x.1 := ?_; ?_); (on_goal 2 => clear_value x); (on_goal 1 => subst x)) | clear_value x)
    | (with_reducible first
        | apply Io.setRing_keeps | fail_if_no_progress refine Io.mk_keeps ?_ | fail_if_no_progress refine Io.eraseRing_keeps ?_ ?_)

theorem Io.answer_keeps {msk : Nat} {s0 : Io} {s : Io} {n i : Nat} {e : List Byte} {d : Done} (hk0 : Io.Keeps msk s0 s) (hm : Sub 0x1000006069000000000000000000000000000000000000000000000000000000000000000000001ffc1c58000000000000278000 msk) :
    Io.Keeps msk s0 (Io.answer s n i e d) := by
  unfold Io.answer
  repeat' first
    | with_reducible assumption | exact Sub.of hm rfl | exact Has.of hm rfl | intro _
    | (extract_lets +onlyGivenNames x; first | (refine (have hx : Io.Keeps msk s0 x := ?_; ?_); (on_goal 2 => clear_value x); (on_goal 1 => subst x)) | (refine (have hx : Io.Keeps msk s0 x.1 := ?_; ?_); (on_goal 2 => clear_value x); (on_goal 1 => subst x)) | clear_value x)
    | (with_reducible first
        | apply Io.popEntry_keeps | apply Io.complete_keeps | apply Io.freeSlot_keeps | apply Io.finishDestroy_keeps
        | refine Io.ite_keeps ?_ ?_)
    | split

theorem Io.onEntry_keeps {msk : Nat} {s0 : Io} {s : Io} {n i op : Nat} {need64 : Bool} {fieldsOk : List Byte → Bool} {body : Ring → List Byte → Io → Io} (hk0 : Io.Keeps msk s0 s) (hbody : ∀ x0 x1 x2, Io.Keeps msk s0 x2 → Io.Keeps msk s0 (body x0 x1 x2)) (hm : Sub 0x1000006069000000000000000000000000000000000000000000000000000000000000000000001ffc1c58000000000000278000 msk) :
    Io.Keeps msk s0 (Io.onEntry s n i op need64 fieldsOk body) := by
  unfold Io.onEntry
  repeat' first
    | with_reducible assumption | exact Sub.of hm rfl | exact Has.of hm rfl | intro _
    | (extract_lets +onlyGivenNames x; first | (refine (have hx : Io.Keeps msk s0 x := ?_; ?_); (on_goal 2 => clear_value x); (on_goal 1 => subst x)) | (refine (have hx : Io.Keeps msk s0 x.1 := ?_; ?_); (on_goal 2 => clear_value x); (on_goal 1 => subst x)) | clear_value x)
    | (with_reducible first
        | apply hbody | apply Io.fire_keeps | apply Io.answer_keeps | refine Io.ite_keeps ?_ ?_)
    | split
    | (with_reducible first
        | refine Io.Keeps.fst (by assumption) ?_ | fail_if_no_progress refine Io.mk_keeps ?_)

theorem execNop_keeps {msk : Nat} {s0 : State} {ring i : Nat} {s : State} (hk0 : State.Keeps msk s0 s) (hm : Sub 0x1000006069000000000000000000000000000000000000000000000000000000000000000000001ffc1c58000000000000278000 msk) :
    Result.Keeps msk s0 (execNop ring i s) := by
  unfold execNop
  repeat' first
    | with_reducible assumption | exact Sub.of hm rfl | exact Has.of hm rfl | intro _
    | (with_reducible first
        | refine Result.next_keeps ?_ | apply State.on_keeps | apply Io.onEntry_keeps | apply State.onEntry_keeps | apply Io.answer_keeps
        | apply State.on_keeps | exact State.Keeps.io (by assumption) | fail_if_no_progress refine State.Keeps.io ?_)

theorem execReservedOpcode_keeps {msk : Nat} {s0 : State} {ring i : Nat} {s : State} (hk0 : State.Keeps msk s0 s) (hm : Sub 0x1000006069000000000000000000000000000000000000000000000000000000000000000000001ffc1c58000000000000278000 msk) :
    Result.Keeps msk s0 (execReservedOpcode ring i s) := by
  unfold execReservedOpcode
  repeat' first
    | with_reducible assumption | exact Sub.of hm rfl | exact Has.of hm rfl | intro _
    | (extract_lets +onlyGivenNames x; first | (refine (have hx : State.Keeps msk s0 x := ?_; ?_); (on_goal 2 => clear_value x); (on_goal 1 => subst x)) | clear_value x)
    | (with_reducible first
        | refine Result.next_keeps ?_ | apply State.on_keeps | apply Io.answer_keeps | apply State.on_keeps | refine Result.ite_keeps ?_ ?_
        | refine State.ite_keeps ?_ ?_ | refine Io.ite_keeps ?_ ?_)
    | split
    | (with_reducible first
        | refine State.Keeps.fst (by assumption) ?_ | exact State.Keeps.io (by assumption) | fail_if_no_progress refine State.Keeps.io ?_
        | fail_if_no_progress refine State.mk_keeps ?_ ?_ | fail_if_no_progress refine Io.mk_keeps ?_)

theorem Io.ringCreate_keeps {msk : Nat} {s0 : Io} {s : Io} {ring i : Nat} (hk0 : Io.Keeps msk s0 s) (hm : Sub 0x1000006069000000000000000000000000000000000000000000000000000000000000000000001ffc1c58000000000000278000 msk) :
    Io.Keeps msk s0 (Io.ringCreate s ring i) := by
  unfold Io.ringCreate
  repeat' first
    | with_reducible assumption | exact Sub.of hm rfl | exact Has.of hm rfl | intro _
    | (extract_lets +onlyGivenNames x; first | (refine (have hx : Io.Keeps msk s0 x := ?_; ?_); (on_goal 2 => clear_value x); (on_goal 1 => subst x)) | (refine (have hx : Io.Keeps msk s0 x.1 := ?_; ?_); (on_goal 2 => clear_value x); (on_goal 1 => subst x)) | clear_value x)
    | (with_reducible first
        | apply Io.fire_keeps | apply Io.answer_keeps | apply Io.onEntry_keeps | apply Io.setRing_keeps | refine Io.ite_keeps ?_ ?_)
    | split
    | (with_reducible first
        | refine Io.Keeps.fst (by assumption) ?_ | fail_if_no_progress refine Io.mk_keeps ?_)

theorem execRingCreate_keeps {msk : Nat} {s0 : State} {ring i : Nat} {s : State} (hk0 : State.Keeps msk s0 s) (hm : Sub 0x1000006069000000000000000000000000000000000000000000000000000000000000000000001ffc1c58000000000000278000 msk) :
    Result.Keeps msk s0 (execRingCreate ring i s) := by
  unfold execRingCreate
  repeat' first
    | with_reducible assumption | exact Sub.of hm rfl | exact Has.of hm rfl | intro _
    | (with_reducible first
        | refine Result.next_keeps ?_ | apply State.on_keeps | apply Io.ringCreate_keeps | apply State.on_keeps
        | exact State.Keeps.io (by assumption) | fail_if_no_progress refine State.Keeps.io ?_)

theorem Io.ringDestroy_keeps {msk : Nat} {s0 : Io} {s : Io} {ring i : Nat} (hk0 : Io.Keeps msk s0 s) (hm : Sub 0x1000006069000000000000000000000000000000000000000000000000000000000000000000001ffc1c58000000000000278000 msk) :
    Io.Keeps msk s0 (Io.ringDestroy s ring i) := by
  unfold Io.ringDestroy
  repeat' first
    | with_reducible assumption | exact Sub.of hm rfl | exact Has.of hm rfl | intro _
    | (extract_lets +onlyGivenNames x; first | (refine (have hx : Io.Keeps msk s0 x := ?_; ?_); (on_goal 2 => clear_value x); (on_goal 1 => subst x)) | (refine (have hx : Io.Keeps msk s0 x.1 := ?_; ?_); (on_goal 2 => clear_value x); (on_goal 1 => subst x)) | clear_value x)
    | (with_reducible first
        | apply Io.onEntry_keeps | apply Io.answer_keeps | apply Io.popEntry_keeps | apply Io.setRing_keeps | apply Io.finishDestroy_keeps
        | refine Io.ite_keeps ?_ ?_)
    | split | with_reducible fail_if_no_progress refine Io.mk_keeps ?_

theorem Io.ringReset_keeps {msk : Nat} {s0 : Io} {s : Io} {ring i : Nat} (hk0 : Io.Keeps msk s0 s) (hm : Sub 0x1000006069000000000000000000000000000000000000000000000000000000000000000000001ffc1c58000000000000278000 msk) :
    Io.Keeps msk s0 (Io.ringReset s ring i) := by
  unfold Io.ringReset
  repeat' first
    | with_reducible assumption | exact Sub.of hm rfl | exact Has.of hm rfl | intro _
    | (extract_lets +onlyGivenNames x; first | (refine (have hx : Io.Keeps msk s0 x := ?_; ?_); (on_goal 2 => clear_value x); (on_goal 1 => subst x)) | (refine (have hx : Io.Keeps msk s0 x.1 := ?_; ?_); (on_goal 2 => clear_value x); (on_goal 1 => subst x)) | clear_value x)
    | (with_reducible first
        | apply Io.onEntry_keeps | apply Io.answer_keeps | apply Io.setRing_keeps | refine Io.ite_keeps ?_ ?_)
    | split | with_reducible fail_if_no_progress refine Io.mk_keeps ?_

theorem Io.vectorMap_keeps {msk : Nat} {s0 : Io} {s : Io} {ring i : Nat} (hk0 : Io.Keeps msk s0 s) (hm : Sub 0x1000006069000000000000000000000000000000000000000000000000000000000000000000001ffc1cd8000000000000278000 msk) :
    Io.Keeps msk s0 (Io.vectorMap s ring i) := by
  unfold Io.vectorMap
  repeat' first
    | with_reducible assumption | exact Sub.of hm rfl | exact Has.of hm rfl | intro _ | exact RegOf.HRG_EVT_VEC _
    | (extract_lets +onlyGivenNames x; first | (refine (have hx : Io.Keeps msk s0 x := ?_; ?_); (on_goal 2 => clear_value x); (on_goal 1 => subst x)) | (refine (have hx : Io.Keeps msk s0 x.1 := ?_; ?_); (on_goal 2 => clear_value x); (on_goal 1 => subst x)) | clear_value x)
    | (with_reducible first
        | apply Io.onEntry_keeps | apply Io.answer_keeps | apply Io.setF_keeps | refine Io.ite_keeps ?_ ?_)
    | split

theorem execVectorMap_keeps {msk : Nat} {s0 : State} {ring i : Nat} {s : State} (hk0 : State.Keeps msk s0 s) (hm : Sub 0x1000006069000000000000000000000000000000000000000000000000000000000000000000001ffc1cd8000000000000278000 msk) :
    Result.Keeps msk s0 (execVectorMap ring i s) := by
  unfold execVectorMap
  repeat' first
    | with_reducible assumption | exact Sub.of hm rfl | exact Has.of hm rfl | intro _
    | (with_reducible first
        | refine Result.next_keeps ?_ | apply State.on_keeps | apply Io.vectorMap_keeps | apply State.on_keeps
        | exact State.Keeps.io (by assumption) | fail_if_no_progress refine State.Keeps.io ?_)

end Sys2Proof.Machine
end

