-- ==== Sys2Proof/Laws/KeepsXlt.lean ====
section
/-! SUPPORT. What the operations of Machine/Xlt.lean keep. -/

set_option linter.unusedTactic false
set_option linter.unreachableTactic false
set_option linter.tactic.unusedName false

set_option Elab.async false

namespace Sys2Proof.Machine

theorem Io.cacheFill_keeps {msk : Nat} {s0 : Io} {s : Io} {t : TcEntry} (hk0 : Io.Keeps msk s0 s) (hm : Sub 0x10000 msk) :
    Io.Keeps msk s0 (Io.cacheFill s t) := by
  unfold Io.cacheFill
  repeat' first
    | with_reducible assumption | exact Sub.of hm rfl | exact Has.of hm rfl | intro _
    | (extract_lets +onlyGivenNames x; first | (refine (have hx : Io.Keeps msk s0 x := ?_; ?_); (on_goal 2 => clear_value x); (on_goal 1 => subst x)) | (refine (have hx : Io.Keeps msk s0 x.1 := ?_; ?_); (on_goal 2 => clear_value x); (on_goal 1 => subst x)) | clear_value x)
    | (with_reducible first
        | refine Io.Keeps.fst (by assumption) ?_ | fail_if_no_progress refine Io.mk_keeps ?_)

theorem Io.proceed_keeps {msk : Nat} {s0 : Io} {s : Io} {ctx : Nat} {q : WalkReq} {b : Nat} {ns old : Bool} (hk0 : Io.Keeps msk s0 s) (hm : Sub 0x1000006069000000000000000000000000000000000000000000000000000000000000000000001ffc1c58000000000000278000 msk) :
    Io.Keeps msk s0 (Io.proceed s ctx q b ns old) := by
  unfold Io.proceed
  repeat' first
    | with_reducible assumption | exact Sub.of hm rfl | exact Has.of hm rfl | intro _
    | (extract_lets +onlyGivenNames x; first | (refine (have hx : Io.Keeps msk s0 x := ?_; ?_); (on_goal 2 => clear_value x); (on_goal 1 => subst x)) | (refine (have hx : Io.Keeps msk s0 x.1 := ?_; ?_); (on_goal 2 => clear_value x); (on_goal 1 => subst x)) | clear_value x)
    | (with_reducible first
        | apply Io.settle_keeps | apply Io.request_keeps | refine Io.ite_keeps ?_ ?_)
    | split
    | (with_reducible first
        | fail_if_no_progress refine Io.mk_keeps ?_ | fail_if_no_progress refine Io.mapOps_keeps ?_ ?_)

theorem Io.endRequest_keeps {msk : Nat} {s0 : Io} {s : Io} {ctx : Nat} {w : WalkEnd} {old : Bool} {q : WalkReq} (hk0 : Io.Keeps msk s0 s) (hm : Sub 0x1000006069000000000000000000000000000000000000000000000000000000000000000000001ffc1c58000000000000278000 msk) :
    Io.Keeps msk s0 (Io.endRequest s ctx w old q).1 := by
  unfold Io.endRequest
  repeat' first
    | with_reducible assumption | exact Sub.of hm rfl | exact Has.of hm rfl | intro _
    | (extract_lets +onlyGivenNames x; first | (refine (have hx : Io.Keeps msk s0 x := ?_; ?_); (on_goal 2 => clear_value x); (on_goal 1 => subst x)) | (refine (have hx : Io.Keeps msk s0 x.1 := ?_; ?_); (on_goal 2 => clear_value x); (on_goal 1 => subst x)) | (refine (have hx : ∀ y, Io.Keeps msk s0 (x y) := ?_; ?_); (on_goal 2 => clear_value x); (on_goal 1 => subst x)) | (refine (have hx : ∀ y, Io.Keeps msk s0 (x y).1 := ?_; ?_); (on_goal 2 => clear_value x); (on_goal 1 => subst x)) | clear_value x)
    | (with_reducible first
        | apply Io.proceed_keeps | apply Io.settle_keeps | apply Io.countFault_keeps | apply Io.logFault_keeps | apply Io.ringError_keeps
        | apply Io.fetchFailed_keeps | apply hx | refine Io.ite_keeps ?_ ?_ | refine Io.ite_keeps_fst ?_ ?_)
    | split
    | (with_reducible first
        | refine Io.Keeps.fst (by assumption) ?_ | fail_if_no_progress refine Io.mk_keeps ?_)

theorem Io.walkOn_keeps {msk : Nat} {s0 : Io} {k : Nat} {w : Walk} {reads : List (Option Nat)} {s : Io} (h : Io.Keeps msk s0 s) (hm : Sub 0x1000006069000000000000000000000000000000000000000000000000000000000000000000001ffc1c58000000000000278000 msk) :
    Io.Keeps msk s0 (Io.walkOn k w reads s).1 := by
  induction k generalizing s w reads with
  | zero => exact h
  | succ k ih =>
    unfold Io.walkOn
    repeat' first
        | with_reducible assumption | exact Sub.of hm rfl | exact Has.of hm rfl | intro _
        | (extract_lets +onlyGivenNames x; first | (refine (have hx : Io.Keeps msk s0 x := ?_; ?_); (on_goal 2 => clear_value x); (on_goal 1 => subst x)) | (refine (have hx : Io.Keeps msk s0 x.1 := ?_; ?_); (on_goal 2 => clear_value x); (on_goal 1 => subst x)) | clear_value x)
        | (with_reducible first
            | apply ih | apply Io.settle_keeps | apply Io.completeOwn_keeps | apply Io.request_keeps | refine Io.ite_keeps ?_ ?_
            | refine Io.ite_keeps_fst ?_ ?_)
        | split
        | (with_reducible first
            | refine Io.Keeps.fst (by assumption) ?_ | fail_if_no_progress refine Io.mk_keeps ?_)

theorem Io.walkDone_keeps {msk : Nat} {s0 : Io} {s : Io} {ctx page : Nat} {reads : List (Option Nat)} (hk0 : Io.Keeps msk s0 s) (hm : Sub 0x1000006069000000000000000000000000000000000000000000000000000000000000000000001ffc1c58000000000000278000 msk) :
    Io.Keeps msk s0 (Io.walkDone s ctx page reads).1 := by
  unfold Io.walkDone
  repeat' first
    | with_reducible assumption | exact Sub.of hm rfl | exact Has.of hm rfl | intro _
    | (extract_lets +onlyGivenNames x; first | (refine (have hx : Io.Keeps msk s0 x := ?_; ?_); (on_goal 2 => clear_value x); (on_goal 1 => subst x)) | (refine (have hx : Io.Keeps msk s0 x.1 := ?_; ?_); (on_goal 2 => clear_value x); (on_goal 1 => subst x)) | clear_value x)
    | (with_reducible first
        | apply Io.walkOn_keeps | apply Io.settle_keeps | apply Io.startWalks_keeps | apply Io.fireIn_keeps | apply Io.cacheFill_keeps
        | apply Io.endRequest_keeps | apply Io.foldl_keeps | apply Io.foldl_keeps_fst | refine Io.ite_keeps ?_ ?_
        | refine Io.ite_keeps_fst ?_ ?_)
    | split
    | (with_reducible first
        | refine Io.Keeps.fst (by assumption) ?_ | fail_if_no_progress refine Io.mk_keeps ?_
        | fail_if_no_progress refine Io.eraseRing_keeps ?_ ?_)

theorem Io.endRead_keeps {msk : Nat} {s0 : Io} {s : Io} {m : HostMem} {a n : Nat} (hk0 : Io.Keeps msk s0 s) (hm : Sub 0x1000006069000000000000000000000000000000000000000000000000000000000000000000001ffc1c58000000000000278000 msk) :
    Io.Keeps msk s0 (Io.endRead s m a n).1 := by
  unfold Io.endRead
  repeat' first
    | with_reducible assumption | exact Sub.of hm rfl | exact Has.of hm rfl | intro _
    | (with_reducible first
        | apply Io.fire_keeps | refine Io.ite_keeps ?_ ?_ | refine Io.ite_keeps_fst ?_ ?_)
    | split

theorem Io.syncWalk_keeps {msk : Nat} {s0 : Io} {host : HostMem} {ctx cls iova l table : Nat} {s : Io} (h : Io.Keeps msk s0 s) (hm : Sub 0x1000006069000000000000000000000000000000000000000000000000000000000000000000001ffc1c58000000000000278000 msk) :
    Io.Keeps msk s0 (Io.syncWalk host ctx cls iova l table s).1 := by
  induction l generalizing s table with
  | zero => 
    unfold Io.syncWalk
    repeat' first
        | with_reducible assumption | exact Sub.of hm rfl | exact Has.of hm rfl | intro _
        | (extract_lets +onlyGivenNames x; first | (refine (have hx : Io.Keeps msk s0 x := ?_; ?_); (on_goal 2 => clear_value x); (on_goal 1 => subst x)) | (refine (have hx : Io.Keeps msk s0 x.1 := ?_; ?_); (on_goal 2 => clear_value x); (on_goal 1 => subst x)) | clear_value x)
        | (with_reducible first
            | omega | apply Io.settle_keeps | apply Io.burst_keeps | apply Io.endRead_keeps)
        | split
        | (with_reducible first
            | refine Io.Keeps.fst (by assumption) ?_ | fail_if_no_progress refine Io.mk_keeps ?_)
  | succ k ih =>
    unfold Io.syncWalk
    repeat' first
        | with_reducible assumption | exact Sub.of hm rfl | exact Has.of hm rfl | intro _
        | (extract_lets +onlyGivenNames x; first | (refine (have hx : Io.Keeps msk s0 x := ?_; ?_); (on_goal 2 => clear_value x); (on_goal 1 => subst x)) | (refine (have hx : Io.Keeps msk s0 x.1 := ?_; ?_); (on_goal 2 => clear_value x); (on_goal 1 => subst x)) | clear_value x)
        | (with_reducible first
            | apply ih | apply Io.settle_keeps | apply Io.burst_keeps | apply Io.endRead_keeps)
        | split
        | (with_reducible first
            | refine Io.Keeps.fst (by assumption) ?_ | fail_if_no_progress refine Io.mk_keeps ?_)

theorem Io.resolve_keeps {msk : Nat} {s0 : Io} {s : Io} {m : HostMem} {n cls ctx iova : Nat} {write : Bool} (hk0 : Io.Keeps msk s0 s) (hm : Sub 0x1000006069000000000000000000000000000000000000000000000000000000000000000000001ffc1c58000000000000278000 msk) :
    Io.Keeps msk s0 (Io.resolve s m n cls ctx iova write).1 := by
  unfold Io.resolve
  repeat' first
    | with_reducible assumption | exact Sub.of hm rfl | exact Has.of hm rfl | intro _ | exact RegOf.XLT_WALK_COUNT
    | (extract_lets +onlyGivenNames x; first | (refine (have hx : Io.Keeps msk s0 x := ?_; ?_); (on_goal 2 => clear_value x); (on_goal 1 => subst x)) | clear_value x)
    | (with_reducible first
        | apply Io.translate_keeps | apply Io.syncWalk_keeps | apply Io.bumpF_keeps | apply Io.fireIn_keeps | apply Io.cacheFill_keeps
        | refine Io.ite_keeps ?_ ?_ | refine Io.ite_keeps_fst ?_ ?_)
    | split
    | (with_reducible first
        | refine Io.Keeps.fst (by assumption) ?_ | fail_if_no_progress refine Io.mk_keeps ?_)

theorem Io.issue_keeps {msk : Nat} {s0 : Io} {s : Io} {w : Waiter} {k n cls : Nat} {a : Access} (hk0 : Io.Keeps msk s0 s) (hm : Sub 0x1000006069000000000000000000000000000000000000000000000000000000000000000000001ffc1c58000000000000278000 msk) :
    Io.Keeps msk s0 (Io.issue s w k n cls a) := by
  unfold Io.issue
  repeat' first
    | with_reducible assumption | exact Sub.of hm rfl | exact Has.of hm rfl | intro _
    | (extract_lets +onlyGivenNames x; first | (refine (have hx : Io.Keeps msk s0 x := ?_; ?_); (on_goal 2 => clear_value x); (on_goal 1 => subst x)) | (refine (have hx : Io.Keeps msk s0 x.1 := ?_; ?_); (on_goal 2 => clear_value x); (on_goal 1 => subst x)) | clear_value x)
    | (with_reducible first
        | apply Io.settle_keeps | apply Io.completeOwn_keeps | apply Io.request_keeps | refine Io.ite_keeps ?_ ?_)
    | split

theorem Io.uncorrectable_keeps {msk : Nat} {s0 : Io} {s : Io} {ch : Nat} (hk0 : Io.Keeps msk s0 s) (hm : Sub 0x1000006069000000000000000000000000000000000000000000000000000000000000000004001ffc1c58000000000000278000 msk) :
    Io.Keeps msk s0 (Io.uncorrectable s ch) := by
  unfold Io.uncorrectable
  repeat' first
    | with_reducible assumption | exact Sub.of hm rfl | exact Has.of hm rfl | intro _ | exact RegOf.DMC_CH_ECC_UNCORR _ _
    | (with_reducible first
        | apply Io.bumpF_keeps | apply Io.fireIn_keeps)

theorem Io.readOp_keeps {msk : Nat} {s0 : Io} {s : Io} {m : HostMem} {w : Waiter} {n cls : Nat} {dram : Bool} {ctx a len : Nat} (hk0 : Io.Keeps msk s0 s) (hm : Sub 0x1000006069000000000000000000000000000000000000000000000000000000000000000004001ffc1c58000000000000278000 msk) :
    Io.Keeps msk s0 (Io.readOp s m w n cls dram ctx a len).1 := by
  unfold Io.readOp
  repeat' first
    | with_reducible assumption | exact Sub.of hm rfl | exact Has.of hm rfl | intro _
    | (extract_lets +onlyGivenNames x; first | (refine (have hx : Io.Keeps msk s0 x := ?_; ?_); (on_goal 2 => clear_value x); (on_goal 1 => subst x)) | (refine (have hx : Io.Keeps msk s0 x.1 := ?_; ?_); (on_goal 2 => clear_value x); (on_goal 1 => subst x)) | clear_value x)
    | (with_reducible first
        | apply Io.issue_keeps | apply Io.uncorrectable_keeps | apply Io.resolve_keeps | apply Io.endRead_keeps | refine Io.ite_keeps ?_ ?_
        | refine Io.ite_keeps_fst ?_ ?_)
    | split
    | (with_reducible first
        | refine Io.Keeps.fst (by assumption) ?_ | fail_if_no_progress refine Io.mk_keeps ?_)

theorem Io.readOps_keeps {msk : Nat} {s0 : Io} {host : HostMem} {w : Waiter} {n cls : Nat} {dram : Bool} {ctx : Nat} {l : List (Nat × Nat)} {s : Io} (h : Io.Keeps msk s0 s) (hm : Sub 0x1000006069000000000000000000000000000000000000000000000000000000000000000004001ffc1c58000000000000278000 msk) :
    Io.Keeps msk s0 (Io.readOps host w n cls dram ctx l s).1 := by
  induction l generalizing s with
  | nil => exact h
  | cons a t ih =>
    unfold Io.readOps
    repeat' first
        | with_reducible assumption | exact Sub.of hm rfl | exact Has.of hm rfl | intro _
        | (extract_lets +onlyGivenNames x; first | (refine (have hx : Io.Keeps msk s0 x := ?_; ?_); (on_goal 2 => clear_value x); (on_goal 1 => subst x)) | (refine (have hx : Io.Keeps msk s0 x.1 := ?_; ?_); (on_goal 2 => clear_value x); (on_goal 1 => subst x)) | clear_value x)
        | (with_reducible first
            | apply ih | apply Io.readOp_keeps)
        | split
        | (with_reducible first
            | refine Io.Keeps.fst (by assumption) ?_ | fail_if_no_progress refine Io.mk_keeps ?_)

theorem Io.writeOps_keeps {msk : Nat} {s0 : Io} {host : HostMem} {w : Waiter} {n cls : Nat} {dram : Bool} {ctx : Nat} {l : List (Nat × List Byte)} {s : Io} (h : Io.Keeps msk s0 s) (hm : Sub 0x1000006069000000000000000000000000000000000000000000000000000000000000000000001ffc1c58000000000000278000 msk) :
    Io.Keeps msk s0 (Io.writeOps host w n cls dram ctx l s).1 := by
  induction l generalizing s with
  | nil => exact h
  | cons a t ih =>
    unfold Io.writeOps
    repeat' first
        | with_reducible assumption | exact Sub.of hm rfl | exact Has.of hm rfl | intro _
        | (extract_lets +onlyGivenNames x; first | (refine (have hx : Io.Keeps msk s0 x := ?_; ?_); (on_goal 2 => clear_value x); (on_goal 1 => subst x)) | clear_value x)
        | (with_reducible first
            | apply ih | apply Io.issue_keeps | apply Io.resolve_keeps | refine Io.ite_keeps ?_ ?_ | refine Io.ite_keeps_fst ?_ ?_)
        | split
        | (with_reducible first
            | refine Io.Keeps.fst (by assumption) ?_ | fail_if_no_progress refine Io.mk_keeps ?_)

theorem Io.issueWrite_keeps {msk : Nat} {s0 : Io} {w : Waiter} {n cls : Nat} {dram : Bool} {ctx : Nat} {l : List (Nat × List Byte)} {s : Io} (h : Io.Keeps msk s0 s) (hm : Sub 0x1000006069000000000000000000000000000000000000000000000000000000000000000000001ffc1c58000000000000278000 msk) :
    Io.Keeps msk s0 (Io.issueWrite w n cls dram ctx l s).1 := by
  induction l generalizing s with
  | nil => exact h
  | cons a t ih =>
    unfold Io.issueWrite
    repeat' first
        | with_reducible assumption | exact Sub.of hm rfl | exact Has.of hm rfl | intro _
        | (extract_lets +onlyGivenNames x; first | (refine (have hx : Io.Keeps msk s0 x := ?_; ?_); (on_goal 2 => clear_value x); (on_goal 1 => subst x)) | clear_value x)
        | (with_reducible first
            | apply ih | apply Io.settle_keeps | apply Io.request_keeps | apply Io.translate_keeps | apply Io.addWalk_keeps
            | refine Io.ite_keeps ?_ ?_ | refine Io.ite_keeps_fst ?_ ?_)
        | split
        | (with_reducible first
            | refine Io.Keeps.fst (by assumption) ?_ | fail_if_no_progress refine Io.mk_keeps ?_)

theorem Io.xltContext_keeps {msk : Nat} {s0 : Io} {s : Io} {ring i : Nat} {mine : Nat → Bool} {run : List Byte → Io → Io} (hk0 : Io.Keeps msk s0 s) (hrun : ∀ x0 x1, Io.Keeps msk s0 x1 → Io.Keeps msk s0 (run x0 x1)) (hm : Sub 0x1000006069000000000000000000000000000000000000000000000000000000000000000000001ffc1c58000000000000278000 msk) :
    Io.Keeps msk s0 (Io.xltContext s ring i mine run) := by
  unfold Io.xltContext
  repeat' first
    | with_reducible assumption | exact Sub.of hm rfl | exact Has.of hm rfl | intro _
    | (extract_lets +onlyGivenNames x; first | (refine (have hx : Io.Keeps msk s0 x := ?_; ?_); (on_goal 2 => clear_value x); (on_goal 1 => subst x)) | clear_value x)
    | (with_reducible first
        | apply hrun | apply Io.onEntry_keeps | apply Io.answer_keeps | refine Io.ite_keeps ?_ ?_)
    | split
    | (with_reducible first
        | refine Io.Keeps.fst (by assumption) ?_ | fail_if_no_progress refine Io.mk_keeps ?_)

theorem Io.xltSet_keeps {msk : Nat} {s0 : Io} {s : Io} {ring i : Nat} (hk0 : Io.Keeps msk s0 s) (hm : Sub 0x1000006069000000000000000000000000000000000000000000000000000000000000000000001fff9c58000000000000278000 msk) :
    Io.Keeps msk s0 (Io.xltSet s ring i) := by
  unfold Io.xltSet
  repeat' first
    | with_reducible assumption | exact Sub.of hm rfl | exact Has.of hm rfl | intro _ | exact RegOf.XLT_CTX_MODE _
    | exact RegOf.XLT_CTX_ROOT_HI _ | exact RegOf.XLT_CTX_ROOT_LO _
    | (extract_lets +onlyGivenNames x; first | (refine (have hx : Io.Keeps msk s0 x := ?_; ?_); (on_goal 2 => clear_value x); (on_goal 1 => subst x)) | (refine (have hx : Io.Keeps msk s0 x.1 := ?_; ?_); (on_goal 2 => clear_value x); (on_goal 1 => subst x)) | clear_value x)
    | (with_reducible first
        | apply Io.xltContext_keeps | apply Io.setF_keeps | apply Io.setWide_keeps | apply Io.answer_keeps)

theorem Io.invalidate_keeps {msk : Nat} {s0 : Io} {s : Io} {ring i : Nat} {e : List Byte} {c : Nat} {hit : TcEntry → Bool} (hk0 : Io.Keeps msk s0 s) (hm : Sub 0x18000 msk) :
    Io.Keeps msk s0 (Io.invalidate s ring i e c hit) := by
  unfold Io.invalidate
  repeat' first
    | with_reducible assumption | exact Sub.of hm rfl | exact Has.of hm rfl | intro _
    | (extract_lets +onlyGivenNames x; first | (refine (have hx : Io.Keeps msk s0 x := ?_; ?_); (on_goal 2 => clear_value x); (on_goal 1 => subst x)) | (refine (have hx : Io.Keeps msk s0 x.1 := ?_; ?_); (on_goal 2 => clear_value x); (on_goal 1 => subst x)) | clear_value x)
    | (with_reducible first
        | apply Io.popEntry_keeps | apply Io.setRing_keeps | refine Io.ite_keeps ?_ ?_)
    | split
    | (with_reducible first
        | refine Io.Keeps.fst (by assumption) ?_ | fail_if_no_progress refine Io.mk_keeps ?_
        | fail_if_no_progress refine Io.mapOps_keeps ?_ ?_)

theorem Io.xltDisable_keeps {msk : Nat} {s0 : Io} {s : Io} {ring i : Nat} (hk0 : Io.Keeps msk s0 s) (hm : Sub 0x1000006069000000000000000000000000000000000000000000000000000000000000000000001fff9c58000000000000278000 msk) :
    Io.Keeps msk s0 (Io.xltDisable s ring i) := by
  unfold Io.xltDisable
  repeat' first
    | with_reducible assumption | exact Sub.of hm rfl | exact Has.of hm rfl | intro _ | exact RegOf.XLT_CTX_MODE _
    | exact RegOf.XLT_CTX_ROOT_HI _ | exact RegOf.XLT_CTX_ROOT_LO _
    | (extract_lets +onlyGivenNames x; first | (refine (have hx : Io.Keeps msk s0 x := ?_; ?_); (on_goal 2 => clear_value x); (on_goal 1 => subst x)) | (refine (have hx : Io.Keeps msk s0 x.1 := ?_; ?_); (on_goal 2 => clear_value x); (on_goal 1 => subst x)) | clear_value x)
    | (with_reducible first
        | apply Io.xltContext_keeps | apply Io.setF_keeps | apply Io.setWide_keeps | apply Io.invalidate_keeps)

theorem Io.xltInvalidateAll_keeps {msk : Nat} {s0 : Io} {s : Io} {ring i : Nat} (hk0 : Io.Keeps msk s0 s) (hm : Sub 0x1000006069000000000000000000000000000000000000000000000000000000000000000000001ffc1c58000000000000278000 msk) :
    Io.Keeps msk s0 (Io.xltInvalidateAll s ring i) := by
  unfold Io.xltInvalidateAll
  repeat' first
    | with_reducible assumption | exact Sub.of hm rfl | exact Has.of hm rfl | intro _
    | (with_reducible first
        | apply Io.xltContext_keeps | apply Io.invalidate_keeps)

theorem Io.xltInvalidateRange_keeps {msk : Nat} {s0 : Io} {s : Io} {ring i : Nat} (hk0 : Io.Keeps msk s0 s) (hm : Sub 0x1000006069000000000000000000000000000000000000000000000000000000000000000000001ffc1c58000000000000278000 msk) :
    Io.Keeps msk s0 (Io.xltInvalidateRange s ring i) := by
  unfold Io.xltInvalidateRange
  repeat' first
    | with_reducible assumption | exact Sub.of hm rfl | exact Has.of hm rfl | intro _
    | (extract_lets +onlyGivenNames x; first | (refine (have hx : Io.Keeps msk s0 x := ?_; ?_); (on_goal 2 => clear_value x); (on_goal 1 => subst x)) | (refine (have hx : Io.Keeps msk s0 x.1 := ?_; ?_); (on_goal 2 => clear_value x); (on_goal 1 => subst x)) | clear_value x)
    | (with_reducible first
        | apply Io.xltContext_keeps | apply Io.invalidate_keeps)

theorem execXltSet_keeps {msk : Nat} {s0 : State} {ring i : Nat} {s : State} (hk0 : State.Keeps msk s0 s) (hm : Sub 0x1000006069000000000000000000000000000000000000000000000000000000000000000000001fff9c58000000000000278000 msk) :
    Result.Keeps msk s0 (execXltSet ring i s) := by
  unfold execXltSet
  repeat' first
    | with_reducible assumption | exact Sub.of hm rfl | exact Has.of hm rfl | intro _
    | (with_reducible first
        | refine Result.next_keeps ?_ | apply State.on_keeps | apply Io.xltSet_keeps | apply State.on_keeps
        | exact State.Keeps.io (by assumption) | fail_if_no_progress refine State.Keeps.io ?_)

theorem execXltDisable_keeps {msk : Nat} {s0 : State} {ring i : Nat} {s : State} (hk0 : State.Keeps msk s0 s) (hm : Sub 0x1000006069000000000000000000000000000000000000000000000000000000000000000000001fff9c58000000000000278000 msk) :
    Result.Keeps msk s0 (execXltDisable ring i s) := by
  unfold execXltDisable
  repeat' first
    | with_reducible assumption | exact Sub.of hm rfl | exact Has.of hm rfl | intro _
    | (with_reducible first
        | refine Result.next_keeps ?_ | apply State.on_keeps | apply Io.xltDisable_keeps | apply State.on_keeps
        | exact State.Keeps.io (by assumption) | fail_if_no_progress refine State.Keeps.io ?_)

theorem execXltInvalidateAll_keeps {msk : Nat} {s0 : State} {ring i : Nat} {s : State} (hk0 : State.Keeps msk s0 s) (hm : Sub 0x1000006069000000000000000000000000000000000000000000000000000000000000000000001ffc1c58000000000000278000 msk) :
    Result.Keeps msk s0 (execXltInvalidateAll ring i s) := by
  unfold execXltInvalidateAll
  repeat' first
    | with_reducible assumption | exact Sub.of hm rfl | exact Has.of hm rfl | intro _
    | (with_reducible first
        | refine Result.next_keeps ?_ | apply State.on_keeps | apply Io.xltInvalidateAll_keeps | apply State.on_keeps
        | exact State.Keeps.io (by assumption) | fail_if_no_progress refine State.Keeps.io ?_)

theorem execXltInvalidateRange_keeps {msk : Nat} {s0 : State} {ring i : Nat} {s : State} (hk0 : State.Keeps msk s0 s) (hm : Sub 0x1000006069000000000000000000000000000000000000000000000000000000000000000000001ffc1c58000000000000278000 msk) :
    Result.Keeps msk s0 (execXltInvalidateRange ring i s) := by
  unfold execXltInvalidateRange
  repeat' first
    | with_reducible assumption | exact Sub.of hm rfl | exact Has.of hm rfl | intro _
    | (with_reducible first
        | refine Result.next_keeps ?_ | apply State.on_keeps | apply Io.xltInvalidateRange_keeps | apply State.on_keeps
        | exact State.Keeps.io (by assumption) | fail_if_no_progress refine State.Keeps.io ?_)

theorem Io.finish_keeps {msk : Nat} {s0 : Io} {s : Io} {n i : Nat} {e : List Byte} {d : Done} (hk0 : Io.Keeps msk s0 s) (hm : Sub 0x1000006069000000000000000000000000000000000000000000000000000000000000000000001ffc1c58000000000000278000 msk) :
    Io.Keeps msk s0 (Io.finish s n i e d) := by
  unfold Io.finish
  repeat' first
    | with_reducible assumption | exact Sub.of hm rfl | exact Has.of hm rfl | intro _
    | (extract_lets +onlyGivenNames x; first | (refine (have hx : Io.Keeps msk s0 x := ?_; ?_); (on_goal 2 => clear_value x); (on_goal 1 => subst x)) | (refine (have hx : Io.Keeps msk s0 x.1 := ?_; ?_); (on_goal 2 => clear_value x); (on_goal 1 => subst x)) | clear_value x)
    | (with_reducible first
        | apply Io.setRing_keeps | apply Io.complete_keeps | apply Io.finishDestroy_keeps | fail_if_no_progress refine Io.mk_keeps ?_
        | fail_if_no_progress refine Io.eraseRing_keeps ?_ ?_)

theorem Io.invalidationDrained_keeps {msk : Nat} {s0 : Io} {s : Io} {ring i : Nat} (hk0 : Io.Keeps msk s0 s) (hm : Sub 0x1000006069000000000000000000000000000000000000000000000000000000000000000000001ffc3c58000000000000278000 msk) :
    Io.Keeps msk s0 (Io.invalidationDrained s ring i) := by
  unfold Io.invalidationDrained
  repeat' first
    | with_reducible assumption | exact Sub.of hm rfl | exact Has.of hm rfl | intro _ | exact RegOf.XLT_INVAL_COUNT
    | (extract_lets +onlyGivenNames x; first | (refine (have hx : Io.Keeps msk s0 x := ?_; ?_); (on_goal 2 => clear_value x); (on_goal 1 => subst x)) | clear_value x)
    | (with_reducible first
        | apply Io.bumpF_keeps | apply Io.finish_keeps | refine Io.ite_keeps ?_ ?_)
    | split
    | (with_reducible first
        | refine Io.Keeps.fst (by assumption) ?_ | fail_if_no_progress refine Io.mk_keeps ?_)

theorem execInvalidationDrained_keeps {msk : Nat} {s0 : State} {ring i : Nat} {s : State} (hk0 : State.Keeps msk s0 s) (hm : Sub 0x1000006069000000000000000000000000000000000000000000000000000000000000000000001ffc3c58000000000000278000 msk) :
    Result.Keeps msk s0 (execInvalidationDrained ring i s) := by
  unfold execInvalidationDrained
  repeat' first
    | with_reducible assumption | exact Sub.of hm rfl | exact Has.of hm rfl | intro _
    | (with_reducible first
        | refine Result.next_keeps ?_ | apply State.on_keeps | apply Io.invalidationDrained_keeps | apply State.on_keeps
        | exact State.Keeps.io (by assumption) | fail_if_no_progress refine State.Keeps.io ?_)

theorem Io.dmaCopy_keeps {msk : Nat} {s0 : Io} {s : Io} {ring i : Nat} (hk0 : Io.Keeps msk s0 s) (hm : Sub 0x1000006069000000000000000000000000000000000000000000000000000000000000000000001ffc5c58000000000000278000 msk) :
    Io.Keeps msk s0 (Io.dmaCopy s ring i) := by
  unfold Io.dmaCopy
  repeat' first
    | with_reducible assumption | exact Sub.of hm rfl | exact Has.of hm rfl | intro _ | exact RegOf.XLT_DMA_ACTIVE
    | (extract_lets +onlyGivenNames x; first | (refine (have hx : Io.Keeps msk s0 x := ?_; ?_); (on_goal 2 => clear_value x); (on_goal 1 => subst x)) | (refine (have hx : Io.Keeps msk s0 x.1 := ?_; ?_); (on_goal 2 => clear_value x); (on_goal 1 => subst x)) | clear_value x)
    | (with_reducible first
        | apply Io.onEntry_keeps | apply Io.answer_keeps | apply Io.popEntry_keeps | apply Io.setRing_keeps | apply Io.bumpF_keeps
        | refine Io.ite_keeps ?_ ?_)
    | split | with_reducible fail_if_no_progress refine Io.mk_keeps ?_

theorem execDmaCopy_keeps {msk : Nat} {s0 : State} {ring i : Nat} {s : State} (hk0 : State.Keeps msk s0 s) (hm : Sub 0x1000006069000000000000000000000000000000000000000000000000000000000000000000001ffc5c58000000000000278000 msk) :
    Result.Keeps msk s0 (execDmaCopy ring i s) := by
  unfold execDmaCopy
  repeat' first
    | with_reducible assumption | exact Sub.of hm rfl | exact Has.of hm rfl | intro _
    | (with_reducible first
        | refine Result.next_keeps ?_ | apply State.on_keeps | apply Io.dmaCopy_keeps | apply State.on_keeps
        | exact State.Keeps.io (by assumption) | fail_if_no_progress refine State.Keeps.io ?_)

theorem Io.copyGranules_keeps {msk : Nat} {s0 : Io} {host : HostMem} {w : Waiter} {e : List Byte} {late : Option Nat} {k off len : Nat} {s : Io} (h : Io.Keeps msk s0 s) (hm : Sub 0x1000006069000000000000000000000000000000000000000000000000000000000000000004001ffc1c58000000000000278000 msk) :
    Io.Keeps msk s0 (Io.copyGranules host w e late k off len s).1 := by
  induction k generalizing s off len with
  | zero => exact h
  | succ k ih =>
    unfold Io.copyGranules
    repeat' first
        | with_reducible assumption | exact Sub.of hm rfl | exact Has.of hm rfl | intro _
        | (extract_lets +onlyGivenNames x; first | (refine (have hx : Io.Keeps msk s0 x := ?_; ?_); (on_goal 2 => clear_value x); (on_goal 1 => subst x)) | (refine (have hx : Io.Keeps msk s0 x.1 := ?_; ?_); (on_goal 2 => clear_value x); (on_goal 1 => subst x)) | clear_value x)
        | (with_reducible first
            | apply ih | apply Io.readOps_keeps | apply Io.writeOps_keeps | refine Io.ite_keeps ?_ ?_ | refine Io.ite_keeps_fst ?_ ?_)
        | split
        | (with_reducible first
            | refine Io.Keeps.fst (by assumption) ?_ | fail_if_no_progress refine Io.mk_keeps ?_
            | fail_if_no_progress refine Io.setOps_keeps ?_ ?_)

theorem Io.pay_keeps {msk : Nat} {s0 : Io} {s : Io} {o : Owed} (hk0 : Io.Keeps msk s0 s) (hm : Sub 0x1000006069000000000000000000000000000000000000000000000000000000000000000000001ffc5c58000000000000278000 msk) :
    Io.Keeps msk s0 (Io.pay s o) := by
  unfold Io.pay
  repeat' first
    | with_reducible assumption | exact Sub.of hm rfl | exact Has.of hm rfl | intro _ | exact RegOf.XLT_DMA_ACTIVE
    | (extract_lets +onlyGivenNames x; first | (refine (have hx : Io.Keeps msk s0 x := ?_; ?_); (on_goal 2 => clear_value x); (on_goal 1 => subst x)) | (refine (have hx : Io.Keeps msk s0 x.1 := ?_; ?_); (on_goal 2 => clear_value x); (on_goal 1 => subst x)) | clear_value x)
    | (with_reducible first
        | apply Io.dropF_keeps | apply Io.fireIn_keeps | apply Io.finish_keeps | refine Io.ite_keeps ?_ ?_)
    | split
    | (with_reducible first
        | fail_if_no_progress refine Io.mk_keeps ?_ | fail_if_no_progress refine Io.eraseRing_keeps ?_ ?_)

theorem Io.payAll_keeps {msk : Nat} {s0 : Io} {s : Io} (hk0 : Io.Keeps msk s0 s) (hm : Sub 0x1000006069000000000000000000000000000000000000000000000000000000000000000000001ffc5c58000000000000278000 msk) :
    Io.Keeps msk s0 (Io.payAll s) := by
  unfold Io.payAll
  repeat' first
    | with_reducible assumption | exact Sub.of hm rfl | exact Has.of hm rfl | intro _
    | (with_reducible first
        | apply Io.pay_keeps | apply Io.foldl_keeps | apply Io.foldl_keeps_fst | refine Io.ite_keeps ?_ ?_)
    | split

theorem Io.owe_keeps {msk : Nat} {s0 : Io} {s : Io} {o : Owed} (hk0 : Io.Keeps msk s0 s) (hm : Sub 0x1000006069000000000000000000000000000000000000000000000000000000000000000000001ffc5c58000000000000278000 msk) :
    Io.Keeps msk s0 (Io.owe s o) := by
  unfold Io.owe
  repeat' first
    | with_reducible assumption | exact Sub.of hm rfl | exact Has.of hm rfl | intro _
    | (extract_lets +onlyGivenNames x; first | (refine (have hx : Io.Keeps msk s0 x := ?_; ?_); (on_goal 2 => clear_value x); (on_goal 1 => subst x)) | clear_value x)
    | (with_reducible first
        | apply Io.payAll_keeps | fail_if_no_progress refine Io.mk_keeps ?_)

theorem Io.dmaCopyDone_keeps {msk : Nat} {s0 : Io} {s : Io} {ring i : Nat} {m : HostMem} {late : Option Nat} (hk0 : Io.Keeps msk s0 s) (hm : Sub 0x1000006069000000000000000000000000000000000000000000000000000000000000000004001ffc5c58000000000000278000 msk) :
    Io.Keeps msk s0 (Io.dmaCopyDone s ring i m late) := by
  unfold Io.dmaCopyDone
  repeat' first
    | with_reducible assumption | exact Sub.of hm rfl | exact Has.of hm rfl | intro _
    | (extract_lets +onlyGivenNames x; first | (refine (have hx : Io.Keeps msk s0 x := ?_; ?_); (on_goal 2 => clear_value x); (on_goal 1 => subst x)) | (refine (have hx : Io.Keeps msk s0 x.1 := ?_; ?_); (on_goal 2 => clear_value x); (on_goal 1 => subst x)) | clear_value x)
    | (with_reducible first
        | apply Io.copyGranules_keeps | apply Io.settle_keeps | apply Io.completeOwn_keeps | apply Io.owe_keeps | apply Io.countFault_keeps
        | apply Io.logFault_keeps | refine Io.ite_keeps ?_ ?_)
    | split
    | (with_reducible first
        | refine Io.Keeps.fst (by assumption) ?_ | fail_if_no_progress refine Io.mk_keeps ?_)

theorem execDmaCopyDone_keeps {msk : Nat} {s0 : State} {ring i : Nat} {mem : HostData} {inFlight : Nat} {s : State} (hk0 : State.Keeps msk s0 s) (hm : Sub 0x1000006069000000000000000000000000000000000000000000000000000000000000000004001ffc5c58000000000000278000 msk) :
    Result.Keeps msk s0 (execDmaCopyDone ring i mem inFlight s) := by
  unfold execDmaCopyDone
  repeat' first
    | with_reducible assumption | exact Sub.of hm rfl | exact Has.of hm rfl | intro _
    | (with_reducible first
        | refine Result.next_keeps ?_ | apply State.on_keeps | apply Io.dmaCopyDone_keeps | apply State.on_keeps)
    | split
    | (with_reducible first
        | exact State.Keeps.io (by assumption) | fail_if_no_progress refine State.Keeps.io ?_)

end Sys2Proof.Machine
end

