-- ==== Sys2Proof/Laws/KeepsDmc.lean ====
section
/-! SUPPORT. What the operations of Machine/Dmc.lean keep. -/

set_option linter.unusedTactic false
set_option linter.unreachableTactic false
set_option linter.tactic.unusedName false

set_option Elab.async false

namespace Sys2Proof.Machine

theorem State.setChan_keeps {msk : Nat} {s0 : State} {s : State} {ch : Nat} {c : Chan} (hk0 : State.Keeps msk s0 s) (hm : Sub 0x800000000000000000000000008 msk) :
    State.Keeps msk s0 (State.setChan s ch c) := by
  unfold State.setChan
  repeat' first
    | with_reducible assumption | exact Sub.of hm rfl | exact Has.of hm rfl | intro _ | exact RegOf.DMC_CH_STAT _ _
    | (extract_lets +onlyGivenNames x; first | (refine (have hx : State.Keeps msk s0 x := ?_; ?_); (on_goal 2 => clear_value x); (on_goal 1 => subst x)) | clear_value x)
    | (with_reducible first
        | apply Io.setF_keeps | apply State.setF_keeps | exact State.Keeps.io (by assumption) | fail_if_no_progress refine State.Keeps.io ?_
        | fail_if_no_progress refine State.mk_keeps ?_ ?_ | fail_if_no_progress refine Io.mk_keeps ?_)

theorem State.unitOps_keeps {msk : Nat} {s0 : State} {s : State} {n lane cls base : Nat} {write : Bool} {bytes : Nat} (hk0 : State.Keeps msk s0 s) (hm : Sub 0x1000006069000000000000000000000000000000000000000000000000000000000000000000001ffc1c58000000000000278000 msk) :
    State.Keeps msk s0 (State.unitOps s n lane cls base write bytes) := by
  unfold State.unitOps
  repeat' first
    | with_reducible assumption | exact Sub.of hm rfl | exact Has.of hm rfl | intro _
    | (extract_lets +onlyGivenNames x; first | (refine (have hx : State.Keeps msk s0 x := ?_; ?_); (on_goal 2 => clear_value x); (on_goal 1 => subst x)) | (refine (have hx : State.Keeps msk s0 x.1 := ?_; ?_); (on_goal 2 => clear_value x); (on_goal 1 => subst x)) | clear_value x)
    | (with_reducible first
        | apply State.on_keeps | apply Io.settle_keeps | apply Io.burst_keeps | apply State.on_keeps | exact State.Keeps.io (by assumption)
        | fail_if_no_progress refine State.Keeps.io ?_)

theorem State.cellOps_keeps {msk : Nat} {s0 : State} {s : State} {n lane kind index : Nat} {write : Bool} {bytes : Nat} (hk0 : State.Keeps msk s0 s) (hm : Sub 0x1000006069000000000000000000000000000000000000000000000000000000000000000000001ffc1c58000000000000278000 msk) :
    State.Keeps msk s0 (State.cellOps s n lane kind index write bytes) := by
  unfold State.cellOps
  repeat' first
    | with_reducible assumption | exact Sub.of hm rfl | exact Has.of hm rfl | intro _
    | (with_reducible first
        | apply State.unitOps_keeps | refine State.ite_keeps ?_ ?_)
    | split

theorem State.refresh_keeps {msk : Nat} {s0 : State} {s : State} {ch n : Nat} {forced : Bool} (hk0 : State.Keeps msk s0 s) (hm : Sub 0x1000006069000000000000000000000000000000000000000000000000000000000000000000381ffc1c58000000000000678008 msk) :
    State.Keeps msk s0 (State.refresh s ch n forced) := by
  unfold State.refresh
  repeat' first
    | with_reducible assumption | exact Sub.of hm rfl | exact Has.of hm rfl | intro _ | exact RegOf.DMC_CH_FORCED _ _
    | exact RegOf.DMC_CH_REFRESHES _ _
    | (extract_lets +onlyGivenNames x; first | (refine (have hx : State.Keeps msk s0 x := ?_; ?_); (on_goal 2 => clear_value x); (on_goal 1 => subst x)) | (refine (have hx : State.Keeps msk s0 x.1 := ?_; ?_); (on_goal 2 => clear_value x); (on_goal 1 => subst x)) | clear_value x)
    | (with_reducible first
        | apply Io.bumpF_keeps | apply State.bumpF_keeps | apply Io.emit_keeps | apply State.emit_keeps | apply Io.pulse_keeps
        | apply State.on_keeps | apply Io.fireIn_keeps | apply State.setChan_keeps | apply Io.spend_keeps | apply State.on_keeps
        | refine State.ite_keeps ?_ ?_ | refine Io.ite_keeps ?_ ?_)
    | split
    | (with_reducible first
        | exact State.Keeps.io (by assumption) | fail_if_no_progress refine State.Keeps.io ?_
        | fail_if_no_progress refine State.mk_keeps ?_ ?_ | fail_if_no_progress refine Io.mk_keeps ?_)

theorem State.setOwed_keeps {msk : Nat} {s0 : State} {s : State} {ch n : Nat} (hk0 : State.Keeps msk s0 s) (hm : Sub 0x1000006069000000000000000000000000000000000000000000000000000000000000000000381ffc1c58000000000000678008 msk) :
    State.Keeps msk s0 (State.setOwed s ch n) := by
  unfold State.setOwed
  repeat' first
    | with_reducible assumption | exact Sub.of hm rfl | exact Has.of hm rfl | intro _ | exact RegOf.DMC_CH_STAT _ _
    | (extract_lets +onlyGivenNames x; first | (refine (have hx : State.Keeps msk s0 x := ?_; ?_); (on_goal 2 => clear_value x); (on_goal 1 => subst x)) | (refine (have hx : State.Keeps msk s0 x.1 := ?_; ?_); (on_goal 2 => clear_value x); (on_goal 1 => subst x)) | clear_value x)
    | (with_reducible first
        | apply State.refresh_keeps | apply State.on_keeps | apply Io.setF_keeps | apply State.setF_keeps | apply State.on_keeps
        | refine State.ite_keeps ?_ ?_ | refine Io.ite_keeps ?_ ?_)
    | split
    | (with_reducible first
        | exact State.Keeps.io (by assumption) | fail_if_no_progress refine State.Keeps.io ?_)

theorem State.intervalEnd_keeps {msk : Nat} {s0 : State} {s : State} {ch : Nat} (hk0 : State.Keeps msk s0 s) (hm : Sub 0x1000006069000000000000000000000000000000000000000000000000000000000000000000381ffc1c58000000000000e78008 msk) :
    State.Keeps msk s0 (State.intervalEnd s ch) := by
  unfold State.intervalEnd
  repeat' first
    | with_reducible assumption | exact Sub.of hm rfl | exact Has.of hm rfl | intro _
    | (extract_lets +onlyGivenNames x; first | (refine (have hx : State.Keeps msk s0 x := ?_; ?_); (on_goal 2 => clear_value x); (on_goal 1 => subst x)) | (refine (have hx : State.Keeps msk s0 x.1 := ?_; ?_); (on_goal 2 => clear_value x); (on_goal 1 => subst x)) | clear_value x)
    | (with_reducible first
        | apply State.on_keeps | apply Io.at_keeps | apply State.setChan_keeps | apply State.setOwed_keeps | apply State.on_keeps
        | refine State.ite_keeps ?_ ?_ | refine Io.ite_keeps ?_ ?_)
    | split
    | (with_reducible first
        | exact State.Keeps.io (by assumption) | fail_if_no_progress refine State.Keeps.io ?_
        | fail_if_no_progress refine State.mk_keeps ?_ ?_ | fail_if_no_progress refine Io.mk_keeps ?_)

theorem execRefreshIntervalEnd_keeps {msk : Nat} {s0 : State} {ch : Nat} {s : State} (hk0 : State.Keeps msk s0 s) (hm : Sub 0x1000006069000000000000000000000000000000000000000000000000000000000000000000381ffc1c58000000000000e78008 msk) :
    Result.Keeps msk s0 (execRefreshIntervalEnd ch s) := by
  unfold execRefreshIntervalEnd
  repeat' first
    | with_reducible assumption | exact Sub.of hm rfl | exact Has.of hm rfl | intro _
    | (with_reducible first
        | refine Result.next_keeps ?_ | apply State.intervalEnd_keeps)

theorem State.setRate_keeps {msk : Nat} {s0 : State} {s : State} {ch : Nat} {dbl : Bool} (hk0 : State.Keeps msk s0 s) (hm : Sub 0x1000006069000000000000000000000000000000000000000000000000000000000000000000381ffc1c58000000000000e78008 msk) :
    State.Keeps msk s0 (State.setRate s ch dbl) := by
  unfold State.setRate
  repeat' first
    | with_reducible assumption | exact Sub.of hm rfl | exact Has.of hm rfl | intro _ | exact RegOf.DMC_CH_STAT _ _
    | (extract_lets +onlyGivenNames x; first | (refine (have hx : State.Keeps msk s0 x := ?_; ?_); (on_goal 2 => clear_value x); (on_goal 1 => subst x)) | (refine (have hx : State.Keeps msk s0 x.1 := ?_; ?_); (on_goal 2 => clear_value x); (on_goal 1 => subst x)) | clear_value x)
    | (with_reducible first
        | apply State.on_keeps | apply Io.setF_keeps | apply State.setF_keeps | apply State.setChan_keeps | apply State.intervalEnd_keeps
        | apply State.setOwed_keeps | apply Io.fireIn_keeps | apply State.on_keeps | refine State.ite_keeps ?_ ?_
        | refine Io.ite_keeps ?_ ?_)
    | split
    | (with_reducible first
        | exact State.Keeps.io (by assumption) | fail_if_no_progress refine State.Keeps.io ?_
        | fail_if_no_progress refine State.mk_keeps ?_ ?_ | fail_if_no_progress refine Io.mk_keeps ?_)

theorem State.decideRate_keeps {msk : Nat} {s0 : State} {s : State} {ch : Nat} (hk0 : State.Keeps msk s0 s) (hm : Sub 0x1000006069000000000000000000000000000000000000000000000000000000000000000000381ffc1c58000000000000e78008 msk) :
    State.Keeps msk s0 (State.decideRate s ch) := by
  unfold State.decideRate
  repeat' first
    | with_reducible assumption | exact Sub.of hm rfl | exact Has.of hm rfl | intro _
    | (extract_lets +onlyGivenNames x; first | (refine (have hx : State.Keeps msk s0 x := ?_; ?_); (on_goal 2 => clear_value x); (on_goal 1 => subst x)) | (refine (have hx : State.Keeps msk s0 x.1 := ?_; ?_); (on_goal 2 => clear_value x); (on_goal 1 => subst x)) | clear_value x)
    | (with_reducible first
        | apply State.setRate_keeps | refine State.ite_keeps ?_ ?_)
    | split

theorem State.boardNode_keeps {msk : Nat} {s0 : State} {s : State} {above85 atMost82 : Bool} (hk0 : State.Keeps msk s0 s) (hm : Sub 0x10000060690000000000000000000000000000000000000000000000000000000000000000003a1ffc1c58000000000000e78088 msk) :
    State.Keeps msk s0 (State.boardNode s above85 atMost82) := by
  unfold State.boardNode
  repeat' first
    | with_reducible assumption | exact Sub.of hm rfl | exact Has.of hm rfl | intro _ | exact RegOf.DMC_TEMP
    | (extract_lets +onlyGivenNames x; first | (refine (have hx : State.Keeps msk s0 x := ?_; ?_); (on_goal 2 => clear_value x); (on_goal 1 => subst x)) | (refine (have hx : State.Keeps msk s0 x.1 := ?_; ?_); (on_goal 2 => clear_value x); (on_goal 1 => subst x)) | clear_value x)
    | (with_reducible first
        | apply State.on_keeps | apply Io.setF_keeps | apply State.setF_keeps | apply State.decideRate_keeps | apply State.foldl_keeps
        | apply State.foldl_keeps_fst | apply Io.foldl_keeps | apply Io.foldl_keeps_fst | apply State.on_keeps
        | refine State.ite_keeps ?_ ?_ | refine Io.ite_keeps ?_ ?_)
    | split
    | (with_reducible first
        | exact State.Keeps.io (by assumption) | fail_if_no_progress refine State.Keeps.io ?_
        | fail_if_no_progress refine State.mk_keeps ?_ ?_ | fail_if_no_progress refine Io.mk_keeps ?_)

theorem State.mr4Poll_keeps {msk : Nat} {s0 : State} {s : State} {ch quarters t : Nat} (hk0 : State.Keeps msk s0 s) (hm : Sub 0x1000006069000000000000000000000000000000000000000000000000000000000000000000381ffc1c58000000000000e78008 msk) :
    State.Keeps msk s0 (State.mr4Poll s ch quarters t) := by
  unfold State.mr4Poll
  repeat' first
    | with_reducible assumption | exact Sub.of hm rfl | exact Has.of hm rfl | intro _
    | (extract_lets +onlyGivenNames x; first | (refine (have hx : State.Keeps msk s0 x := ?_; ?_); (on_goal 2 => clear_value x); (on_goal 1 => subst x)) | (refine (have hx : State.Keeps msk s0 x.1 := ?_; ?_); (on_goal 2 => clear_value x); (on_goal 1 => subst x)) | clear_value x)
    | (with_reducible first
        | apply State.on_keeps | apply Io.at_keeps | apply State.setChan_keeps | apply State.decideRate_keeps | apply Io.fireIn_keeps
        | apply State.on_keeps | refine State.ite_keeps ?_ ?_ | refine Io.ite_keeps ?_ ?_)
    | split
    | (with_reducible first
        | exact State.Keeps.io (by assumption) | fail_if_no_progress refine State.Keeps.io ?_
        | fail_if_no_progress refine State.mk_keeps ?_ ?_ | fail_if_no_progress refine Io.mk_keeps ?_)

theorem State.freeWrite_keeps {msk : Nat} {s0 : State} {s : State} {ch cls addr : Nat} (hk0 : State.Keeps msk s0 s) (hm : Sub 0x1000006069000000000000000000000000000000000000000000000000000000000000000000001ffc1c58000000000000278000 msk) :
    State.Keeps msk s0 (State.freeWrite s ch cls addr) := by
  unfold State.freeWrite
  repeat' first
    | with_reducible assumption | exact Sub.of hm rfl | exact Has.of hm rfl | intro _
    | (with_reducible first
        | apply State.on_keeps | apply Io.settle_keeps | apply Io.release_keeps | apply State.on_keeps
        | exact State.Keeps.io (by assumption) | fail_if_no_progress refine State.Keeps.io ?_)

theorem State.dramGrant_keeps {msk : Nat} {s0 : State} {s : State} {ch : Nat} {arrivals : List (Nat × Nat × Nat × Nat × Nat)} {ns : Nat} (hk0 : State.Keeps msk s0 s) (hm : Sub 0x1000006069000000000000000000000000000000000000000000000000000000000000000001b81ffc1c58000000000000678008 msk) :
    State.Keeps msk s0 (State.dramGrant s ch arrivals ns) := by
  unfold State.dramGrant
  repeat' first
    | with_reducible assumption | exact Sub.of hm rfl | exact Has.of hm rfl | intro _ | exact RegOf.DMC_CH_HAZARDS _ _
    | exact RegOf.DMC_CH_PANIC_CAPPED _ _ | exact RegOf.DMC_CH_STAT _ _
    | (extract_lets +onlyGivenNames x; first | (refine (have hx : State.Keeps msk s0 x := ?_; ?_); (on_goal 2 => clear_value x); (on_goal 1 => subst x)) | (refine (have hx : State.Keeps msk s0 x.1 := ?_; ?_); (on_goal 2 => clear_value x); (on_goal 1 => subst x)) | clear_value x)
    | (with_reducible first
        | apply State.setChan_keeps | apply State.on_keeps | apply Io.bumpF_keeps | apply State.bumpF_keeps | apply State.refresh_keeps
        | apply Io.setF_keeps | apply State.setF_keeps | apply State.freeWrite_keeps | apply Io.fireIn_keeps | apply State.foldl_keeps
        | apply State.foldl_keeps_fst | apply Io.foldl_keeps | apply Io.foldl_keeps_fst | apply State.on_keeps
        | refine State.ite_keeps ?_ ?_ | refine Io.ite_keeps ?_ ?_)
    | split
    | (with_reducible first
        | refine State.Keeps.fst (by assumption) ?_ | exact State.Keeps.io (by assumption) | fail_if_no_progress refine State.Keeps.io ?_
        | fail_if_no_progress refine State.mk_keeps ?_ ?_ | fail_if_no_progress refine Io.mk_keeps ?_
        | fail_if_no_progress refine Io.eraseRing_keeps ?_ ?_)

theorem State.writeAccept_keeps {msk : Nat} {s0 : State} {s : State} {ch cls kind addr len : Nat} (hk0 : State.Keeps msk s0 s) (hm : Sub 0x1000006069000000000000000000000000000000000000000000000000000000000000000000081ffc1c58000000000000278008 msk) :
    State.Keeps msk s0 (State.writeAccept s ch cls kind addr len) := by
  unfold State.writeAccept
  repeat' first
    | with_reducible assumption | exact Sub.of hm rfl | exact Has.of hm rfl | intro _
    | (extract_lets +onlyGivenNames x; first | (refine (have hx : State.Keeps msk s0 x := ?_; ?_); (on_goal 2 => clear_value x); (on_goal 1 => subst x)) | (refine (have hx : State.Keeps msk s0 x.1 := ?_; ?_); (on_goal 2 => clear_value x); (on_goal 1 => subst x)) | clear_value x)
    | (with_reducible first
        | apply State.setChan_keeps | apply State.freeWrite_keeps | refine State.ite_keeps ?_ ?_)
    | split

theorem State.readComplete_keeps {msk : Nat} {s0 : State} {s : State} {ch cls addr ecc : Nat} (hk0 : State.Keeps msk s0 s) (hm : Sub 0x1000006069000000000000000000000000000000000000000000000000000000000000000006081ffc1c58000000000000278008 msk) :
    State.Keeps msk s0 (State.readComplete s ch cls addr ecc) := by
  unfold State.readComplete
  repeat' first
    | with_reducible assumption | exact Sub.of hm rfl | exact Has.of hm rfl | intro _ | exact RegOf.DMC_CH_ECC_CORR _ _
    | (extract_lets +onlyGivenNames x; first | (refine (have hx : State.Keeps msk s0 x := ?_; ?_); (on_goal 2 => clear_value x); (on_goal 1 => subst x)) | (refine (have hx : State.Keeps msk s0 x.1 := ?_; ?_); (on_goal 2 => clear_value x); (on_goal 1 => subst x)) | (refine (have hx : Io.Keeps msk s0.io x := ?_; ?_); (on_goal 2 => clear_value x); (on_goal 1 => subst x)) | (refine (have hx : Io.Keeps msk s0.io x.1 := ?_; ?_); (on_goal 2 => clear_value x); (on_goal 1 => subst x)) | (refine (have hx : ∀ y, State.Keeps msk s0 (x y) := ?_; ?_); (on_goal 2 => clear_value x); (on_goal 1 => subst x)) | (refine (have hx : ∀ y, State.Keeps msk s0 (x y).1 := ?_; ?_); (on_goal 2 => clear_value x); (on_goal 1 => subst x)) | clear_value x)
    | (with_reducible first
        | apply State.setChan_keeps | apply State.on_keeps | apply Io.bumpF_keeps | apply State.bumpF_keeps | apply Io.fireOnce_keeps
        | apply Io.uncorrectable_keeps | apply State.on_keeps | apply hx | refine State.ite_keeps ?_ ?_ | refine State.ite_keeps_fst ?_ ?_
        | refine Io.ite_keeps ?_ ?_ | refine Io.ite_keeps_fst ?_ ?_)
    | split
    | (with_reducible first
        | refine State.Keeps.fst (by assumption) ?_ | refine Io.Keeps.fst (by assumption) ?_ | exact State.Keeps.io (by assumption)
        | fail_if_no_progress refine State.Keeps.io ?_ | fail_if_no_progress refine State.mk_keeps ?_ ?_
        | fail_if_no_progress refine Io.mk_keeps ?_ | fail_if_no_progress refine Io.eraseRing_keeps ?_ ?_)

theorem execDramReadComplete_keeps {msk : Nat} {s0 : State} {ch cls addr ecc : Nat} {s : State} (hk0 : State.Keeps msk s0 s) (hm : Sub 0x1000006069000000000000000000000000000000000000000000000000000000000000000006081ffc1c58000000000000278008 msk) :
    Result.Keeps msk s0 (execDramReadComplete ch cls addr ecc s) := by
  unfold execDramReadComplete
  repeat' first
    | with_reducible assumption | exact Sub.of hm rfl | exact Has.of hm rfl | intro _
    | (with_reducible first
        | refine Result.next_keeps ?_ | apply State.readComplete_keeps)

theorem execPortPanicEnter_keeps {msk : Nat} {s0 : State} {ch kind fill : Nat} {full : Bool} {s : State} (hk0 : State.Keeps msk s0 s) (hm : Sub 0x1000006069000000000000000000000000000000000000000000000000000000000000000000481ffc1c58000000000000278008 msk) :
    Result.Keeps msk s0 (execPortPanicEnter ch kind fill full s) := by
  unfold execPortPanicEnter
  repeat' first
    | with_reducible assumption | exact Sub.of hm rfl | exact Has.of hm rfl | intro _ | exact RegOf.DMC_CH_PANICS _ _
    | (extract_lets +onlyGivenNames x; first | (refine (have hx : State.Keeps msk s0 x := ?_; ?_); (on_goal 2 => clear_value x); (on_goal 1 => subst x)) | (refine (have hx : State.Keeps msk s0 x.1 := ?_; ?_); (on_goal 2 => clear_value x); (on_goal 1 => subst x)) | clear_value x)
    | (with_reducible first
        | refine Result.next_keeps ?_ | apply State.setChan_keeps | apply State.on_keeps | apply Io.bumpF_keeps | apply State.bumpF_keeps
        | apply Io.fireOnce_keeps | apply Io.pulse_keeps | apply State.on_keeps | refine Result.ite_keeps ?_ ?_
        | refine State.ite_keeps ?_ ?_ | refine Io.ite_keeps ?_ ?_)
    | split
    | (with_reducible first
        | exact State.Keeps.io (by assumption) | fail_if_no_progress refine State.Keeps.io ?_
        | fail_if_no_progress refine State.mk_keeps ?_ ?_ | fail_if_no_progress refine Io.mk_keeps ?_)

theorem execPortPanicExit_keeps {msk : Nat} {s0 : State} {ch kind fill : Nat} {full : Bool} {s : State} (hk0 : State.Keeps msk s0 s) (hm : Sub 0x800000000000000000000000008 msk) :
    Result.Keeps msk s0 (execPortPanicExit ch kind fill full s) := by
  unfold execPortPanicExit
  repeat' first
    | with_reducible assumption | exact Sub.of hm rfl | exact Has.of hm rfl | intro _
    | (extract_lets +onlyGivenNames x; first | (refine (have hx : State.Keeps msk s0 x := ?_; ?_); (on_goal 2 => clear_value x); (on_goal 1 => subst x)) | clear_value x)
    | (with_reducible first
        | refine Result.next_keeps ?_ | apply State.setChan_keeps | refine Result.ite_keeps ?_ ?_ | refine State.ite_keeps ?_ ?_)
    | split | with_reducible fail_if_no_progress refine State.mk_keeps ?_ ?_

theorem execPanicWindowEnd_keeps {msk : Nat} {s0 : State} {ch : Nat} {s : State} (hk0 : State.Keeps msk s0 s) (hm : Sub 0x800000000000000000000000008 msk) :
    Result.Keeps msk s0 (execPanicWindowEnd ch s) := by
  unfold execPanicWindowEnd
  repeat' first
    | with_reducible assumption | exact Sub.of hm rfl | exact Has.of hm rfl | intro _
    | (extract_lets +onlyGivenNames x; first | (refine (have hx : State.Keeps msk s0 x := ?_; ?_); (on_goal 2 => clear_value x); (on_goal 1 => subst x)) | clear_value x)
    | (with_reducible first
        | refine Result.next_keeps ?_ | apply State.setChan_keeps | fail_if_no_progress refine State.mk_keeps ?_ ?_)

theorem execRequestAged_keeps {msk : Nat} {s0 : State} {ch cls addr : Nat} {s : State} (hk0 : State.Keeps msk s0 s) (hm : Sub 0x800000000000000000000000008 msk) :
    Result.Keeps msk s0 (execRequestAged ch cls addr s) := by
  unfold execRequestAged
  repeat' first
    | with_reducible assumption | exact Sub.of hm rfl | exact Has.of hm rfl | intro _
    | (extract_lets +onlyGivenNames x; first | (refine (have hx : State.Keeps msk s0 x := ?_; ?_); (on_goal 2 => clear_value x); (on_goal 1 => subst x)) | (refine (have hx : State.Keeps msk s0 x.1 := ?_; ?_); (on_goal 2 => clear_value x); (on_goal 1 => subst x)) | clear_value x)
    | (with_reducible first
        | refine Result.next_keeps ?_ | apply State.setChan_keeps | refine Result.ite_keeps ?_ ?_ | refine State.ite_keeps ?_ ?_)
    | split
    | (with_reducible first
        | refine State.Keeps.fst (by assumption) ?_ | fail_if_no_progress refine State.mk_keeps ?_ ?_)

theorem State.writePattern_keeps {m : Nat} {s0 : State} {ch pattern off n : Nat} {s : State} (h : State.Keeps m s0 s) (hm : Sub 0x20000 m) :
    State.Keeps m s0 (State.writePattern ch pattern off n s) := by
  induction n generalizing s with
  | zero => exact h
  | succ n ih => exact ih (State.on_keeps h (fun io k => Io.writeDram_keeps k (Has.of hm rfl)))

theorem State.patternStart_keeps {m : Nat} {s0 s : State} {ch pattern length : Nat} {write : Bool} (h : State.Keeps m s0 s)
    (hm : Sub 0x500000000000000000000000420000 m) : State.Keeps m s0 (s.patternStart ch pattern write length) := by
  unfold State.patternStart
  extract_lets n c t
  have ht : State.Keeps m s0 t := State.on_keeps h (fun io k => Io.setReg_keeps k (RegOf.DMC_CH_PAT_CTL _ _) (Has.of hm rfl))
  clear_value t
  split
  · exact State.on_keeps ht (fun io k => Io.setReg_keeps k (RegOf.DMC_CH_CMP _ _) (Has.of hm rfl))
  · split
    · exact State.on_keeps (State.writePattern_keeps ht (Sub.of hm rfl)) (fun io k => Io.spendN_keeps k (Has.of hm rfl))
    · exact ht

theorem execPatternRunDone_keeps {msk : Nat} {s0 : State} {ch dqErr bursts : Nat} {s : State} (hk0 : State.Keeps msk s0 s) (hm : Sub 0x500000000000000000000000000000 msk) :
    Result.Keeps msk s0 (execPatternRunDone ch dqErr bursts s) := by
  unfold execPatternRunDone
  repeat' first
    | with_reducible assumption | exact Sub.of hm rfl | exact Has.of hm rfl | intro _ | exact RegOf.DMC_CH_CMP _ _
    | exact RegOf.DMC_CH_PAT_CTL _ _
    | (extract_lets +onlyGivenNames x; first | (refine (have hx : State.Keeps msk s0 x := ?_; ?_); (on_goal 2 => clear_value x); (on_goal 1 => subst x)) | (refine (have hx : State.Keeps msk s0 x.1 := ?_; ?_); (on_goal 2 => clear_value x); (on_goal 1 => subst x)) | clear_value x)
    | (with_reducible first
        | refine Result.next_keeps ?_ | apply State.on_keeps | apply Io.setF_keeps | apply State.setF_keeps | apply Io.setReg_keeps
        | apply State.on_keeps | refine Result.ite_keeps ?_ ?_ | refine State.ite_keeps ?_ ?_ | refine Io.ite_keeps ?_ ?_)
    | split
    | (with_reducible first
        | exact State.Keeps.io (by assumption) | fail_if_no_progress refine State.Keeps.io ?_)

end Sys2Proof.Machine
end

