-- ==== Sys2Proof/Laws/KeepsScale.lean ====
section
/-! SUPPORT. What the operations of Machine/Scale.lean keep. -/

set_option linter.unusedTactic false
set_option linter.unreachableTactic false
set_option linter.tactic.unusedName false

set_option Elab.async false

namespace Sys2Proof.Machine



end Sys2Proof.Machine
end

