-- ==== Sys2Proof/Laws/KeepsTick.lean ====
section
/-! SUPPORT. What the operations of Machine/Tick.lean keep. -/

set_option linter.unusedTactic false
set_option linter.unreachableTactic false
set_option linter.tactic.unusedName false

set_option Elab.async false

namespace Sys2Proof.Machine

theorem State.showSource_keeps {msk : Nat} {s0 : State} {s : State} (hk0 : State.Keeps msk s0 s) (hm : Sub 0x40000000000 msk) :
    State.Keeps msk s0 (State.showSource s) := by
  unfold State.showSource
  repeat' first
    | with_reducible assumption | exact Sub.of hm rfl | exact Has.of hm rfl | intro _ | exact RegOf.TCK_STATE
    | (with_reducible first
        | apply State.on_keeps | apply Io.setF_keeps | apply State.setF_keeps | apply State.on_keeps | exact State.Keeps.io (by assumption)
        | fail_if_no_progress refine State.Keeps.io ?_)

theorem State.setMode_keeps {msk : Nat} {s0 : State} {s : State} {m : Nat} (hk0 : State.Keeps msk s0 s) (hm : Sub 0x1000006069000000000000000000000000000000000000000000000000000000000000000000001ffc1c58000000040000278001 msk) :
    State.Keeps msk s0 (State.setMode s m) := by
  unfold State.setMode
  repeat' first
    | with_reducible assumption | exact Sub.of hm rfl | exact Has.of hm rfl | intro _ | exact RegOf.TCK_STATE
    | (extract_lets +onlyGivenNames x; first | (refine (have hx : State.Keeps msk s0 x := ?_; ?_); (on_goal 2 => clear_value x); (on_goal 1 => subst x)) | (refine (have hx : State.Keeps msk s0 x.1 := ?_; ?_); (on_goal 2 => clear_value x); (on_goal 1 => subst x)) | clear_value x)
    | (with_reducible first
        | apply State.on_keeps | apply Io.setF_keeps | apply State.setF_keeps | apply Io.fire_keeps | apply State.fire_keeps
        | apply State.showSource_keeps | apply State.on_keeps | refine State.ite_keeps ?_ ?_ | refine Io.ite_keeps ?_ ?_)
    | split
    | (with_reducible first
        | exact State.Keeps.io (by assumption) | fail_if_no_progress refine State.Keeps.io ?_
        | fail_if_no_progress refine State.mk_keeps ?_ ?_ | fail_if_no_progress refine Io.mk_keeps ?_)

theorem State.setRateSet_keeps {msk : Nat} {s0 : State} {s : State} {i : Nat} (hk0 : State.Keeps msk s0 s) (hm : Sub 0x1000006069000000000000000000000000000000000000000000000000000000000000000000001ffc1c58020000040000278000 msk) :
    State.Keeps msk s0 (State.setRateSet s i) := by
  unfold State.setRateSet
  repeat' first
    | with_reducible assumption | exact Sub.of hm rfl | exact Has.of hm rfl | intro _ | exact RegOf.TCK_SLOTS _
    | exact RegOf.TCK_STATE
    | (extract_lets +onlyGivenNames x; first | (refine (have hx : State.Keeps msk s0 x := ?_; ?_); (on_goal 2 => clear_value x); (on_goal 1 => subst x)) | (refine (have hx : State.Keeps msk s0 x.1 := ?_; ?_); (on_goal 2 => clear_value x); (on_goal 1 => subst x)) | clear_value x)
    | (with_reducible first
        | apply State.on_keeps | apply Io.setF_keeps | apply State.setF_keeps | apply Io.fire_keeps | apply State.fire_keeps
        | apply State.foldl_keeps | apply State.foldl_keeps_fst | apply Io.foldl_keeps | apply Io.foldl_keeps_fst | apply State.on_keeps
        | refine State.ite_keeps ?_ ?_ | refine Io.ite_keeps ?_ ?_)
    | split
    | (with_reducible first
        | exact State.Keeps.io (by assumption) | fail_if_no_progress refine State.Keeps.io ?_)

theorem State.switchRateSet_keeps {msk : Nat} {s0 : State} {s : State} {i : Nat} (hk0 : State.Keeps msk s0 s) (hm : Sub 0x1000006069000000000000000000000000000000000000000000000000000000000000000000001ffc1c58020000040000278001 msk) :
    State.Keeps msk s0 (State.switchRateSet s i) := by
  unfold State.switchRateSet
  repeat' first
    | with_reducible assumption | exact Sub.of hm rfl | exact Has.of hm rfl | intro _
    | (extract_lets +onlyGivenNames x; first | (refine (have hx : State.Keeps msk s0 x := ?_; ?_); (on_goal 2 => clear_value x); (on_goal 1 => subst x)) | (refine (have hx : State.Keeps msk s0 x.1 := ?_; ?_); (on_goal 2 => clear_value x); (on_goal 1 => subst x)) | (refine (have hx : Io.Keeps msk s0.io x := ?_; ?_); (on_goal 2 => clear_value x); (on_goal 1 => subst x)) | (refine (have hx : Io.Keeps msk s0.io x.1 := ?_; ?_); (on_goal 2 => clear_value x); (on_goal 1 => subst x)) | (refine (have hx : ∀ y, State.Keeps msk s0 (x y) := ?_; ?_); (on_goal 2 => clear_value x); (on_goal 1 => subst x)) | (refine (have hx : ∀ y, State.Keeps msk s0 (x y).1 := ?_; ?_); (on_goal 2 => clear_value x); (on_goal 1 => subst x)) | clear_value x)
    | (with_reducible first
        | apply State.setRateSet_keeps | apply hx | refine State.ite_keeps ?_ ?_ | refine State.ite_keeps_fst ?_ ?_
        | refine Io.ite_keeps ?_ ?_ | refine Io.ite_keeps_fst ?_ ?_)
    | split
    | (with_reducible first
        | refine State.Keeps.fst (by assumption) ?_ | refine Io.Keeps.fst (by assumption) ?_ | exact State.Keeps.io (by assumption)
        | fail_if_no_progress refine State.Keeps.io ?_ | fail_if_no_progress refine State.mk_keeps ?_ ?_
        | fail_if_no_progress refine Io.mk_keeps ?_)

theorem State.finishSwitch_keeps {msk : Nat} {s0 : State} {s : State} (hk0 : State.Keeps msk s0 s) (hm : Sub 0x1000006069000000000000000000000000000000000000000000000000000000000000000000001ffc1c58020000040000278001 msk) :
    State.Keeps msk s0 (State.finishSwitch s) := by
  unfold State.finishSwitch
  repeat' first
    | with_reducible assumption | exact Sub.of hm rfl | exact Has.of hm rfl | intro _
    | (extract_lets +onlyGivenNames x; first | (refine (have hx : State.Keeps msk s0 x := ?_; ?_); (on_goal 2 => clear_value x); (on_goal 1 => subst x)) | clear_value x)
    | with_reducible apply State.switchRateSet_keeps | split
    | (with_reducible first
        | refine State.Keeps.fst (by assumption) ?_ | fail_if_no_progress refine State.mk_keeps ?_ ?_)

theorem State.awaitChange_keeps {msk : Nat} {s0 : State} {s : State} {ps : List Pending} (hk0 : State.Keeps msk s0 s) (hm : Sub 0x40000000001 msk) :
    State.Keeps msk s0 (State.awaitChange s ps) := by
  unfold State.awaitChange
  repeat' first
    | with_reducible assumption | exact Sub.of hm rfl | exact Has.of hm rfl | intro _ | exact RegOf.TCK_STATE
    | (extract_lets +onlyGivenNames x; first | (refine (have hx : State.Keeps msk s0 x := ?_; ?_); (on_goal 2 => clear_value x); (on_goal 1 => subst x)) | clear_value x)
    | (with_reducible first
        | apply Io.setF_keeps | apply State.setF_keeps | exact State.Keeps.io (by assumption) | fail_if_no_progress refine State.Keeps.io ?_
        | fail_if_no_progress refine State.mk_keeps ?_ ?_ | fail_if_no_progress refine Io.mk_keeps ?_)

theorem State.change_keeps {msk : Nat} {s0 : State} {s : State} {p : Pending} (hk0 : State.Keeps msk s0 s) (hm : Sub 0x1000006069000000000000000000000000000000000000000000000000000000000000000000001ffc1c58020000640000278001 msk) :
    State.Keeps msk s0 (State.change s p) := by
  unfold State.change
  repeat' first
    | with_reducible assumption | exact Sub.of hm rfl | exact Has.of hm rfl | intro _ | exact RegOf.TCK_PERIOD
    | exact RegOf.TCK_REF_PERIOD
    | (extract_lets +onlyGivenNames x; first | (refine (have hx : State.Keeps msk s0 x := ?_; ?_); (on_goal 2 => clear_value x); (on_goal 1 => subst x)) | (refine (have hx : State.Keeps msk s0 x.1 := ?_; ?_); (on_goal 2 => clear_value x); (on_goal 1 => subst x)) | clear_value x)
    | (with_reducible first
        | apply State.setMode_keeps | apply State.switchRateSet_keeps | apply State.on_keeps | apply Io.setF_keeps | apply State.setF_keeps
        | apply State.on_keeps | refine State.ite_keeps ?_ ?_ | refine Io.ite_keeps ?_ ?_)
    | split
    | (with_reducible first
        | exact State.Keeps.io (by assumption) | fail_if_no_progress refine State.Keeps.io ?_)

theorem State.measure_keeps {msk : Nat} {s0 : State} {s : State} {t : Nat} {ivs : List Nat} (hk0 : State.Keeps msk s0 s) (hm : Sub 0x440000000001 msk) :
    State.Keeps msk s0 (State.measure s t ivs) := by
  unfold State.measure
  repeat' first
    | with_reducible assumption | exact Sub.of hm rfl | exact Has.of hm rfl | intro _ | exact RegOf.TCK_REF_PERIOD
    | exact RegOf.TCK_STATE
    | (extract_lets +onlyGivenNames x; first | (refine (have hx : State.Keeps msk s0 x := ?_; ?_); (on_goal 2 => clear_value x); (on_goal 1 => subst x)) | clear_value x)
    | (with_reducible first
        | apply State.on_keeps | apply Io.setF_keeps | apply State.setF_keeps | apply State.on_keeps)
    | split
    | (with_reducible first
        | exact State.Keeps.io (by assumption) | fail_if_no_progress refine State.Keeps.io ?_
        | fail_if_no_progress refine State.mk_keeps ?_ ?_ | fail_if_no_progress refine Io.mk_keeps ?_)

theorem State.onRateChange_keeps {msk : Nat} {s0 : State} {s : State} {t p : Nat} {ivs : List Nat} (hk0 : State.Keeps msk s0 s) (hm : Sub 0x1000006069000000000000000000000000000000000000000000000000000000000000000000001ffc1c58000000440000278001 msk) :
    State.Keeps msk s0 (State.onRateChange s t p ivs) := by
  unfold State.onRateChange
  repeat' first
    | with_reducible assumption | exact Sub.of hm rfl | exact Has.of hm rfl | intro _
    | (extract_lets +onlyGivenNames x; first | (refine (have hx : State.Keeps msk s0 x := ?_; ?_); (on_goal 2 => clear_value x); (on_goal 1 => subst x)) | (refine (have hx : State.Keeps msk s0 x.1 := ?_; ?_); (on_goal 2 => clear_value x); (on_goal 1 => subst x)) | clear_value x)
    | (with_reducible first
        | apply State.on_keeps | apply Io.fire_keeps | apply State.fire_keeps | apply State.measure_keeps | apply State.awaitChange_keeps
        | apply State.on_keeps | refine State.ite_keeps ?_ ?_ | refine Io.ite_keeps ?_ ?_)
    | split
    | (with_reducible first
        | refine State.Keeps.fst (by assumption) ?_ | exact State.Keeps.io (by assumption) | fail_if_no_progress refine State.Keeps.io ?_
        | fail_if_no_progress refine State.mk_keeps ?_ ?_ | fail_if_no_progress refine Io.mk_keeps ?_)

theorem State.windowEdge_keeps {msk : Nat} {s0 : State} {s : State} {t : Nat} (hk0 : State.Keeps msk s0 s) (hm : Sub 0x1000006069000000000000000000000000000000000000000000000000000000000000000000001ffc1c58000004440000278001 msk) :
    State.Keeps msk s0 (State.windowEdge s t) := by
  unfold State.windowEdge
  repeat' first
    | with_reducible assumption | exact Sub.of hm rfl | exact Has.of hm rfl | intro _ | exact RegOf.TCK_GLITCH_COUNT
    | (extract_lets +onlyGivenNames x; first | (refine (have hx : State.Keeps msk s0 x := ?_; ?_); (on_goal 2 => clear_value x); (on_goal 1 => subst x)) | (refine (have hx : State.Keeps msk s0 x.1 := ?_; ?_); (on_goal 2 => clear_value x); (on_goal 1 => subst x)) | clear_value x)
    | (with_reducible first
        | apply State.measure_keeps | apply Io.take_keeps | apply State.on_keeps | apply Io.bumpF_keeps | apply State.bumpF_keeps
        | apply Io.fire_keeps | apply State.fire_keeps | apply State.on_keeps | refine State.ite_keeps ?_ ?_ | refine Io.ite_keeps ?_ ?_)
    | split
    | (with_reducible first
        | refine State.Keeps.fst (by assumption) ?_ | exact State.Keeps.io (by assumption) | fail_if_no_progress refine State.Keeps.io ?_
        | fail_if_no_progress refine State.mk_keeps ?_ ?_ | fail_if_no_progress refine Io.mk_keeps ?_)

theorem State.trackEdge_keeps {msk : Nat} {s0 : State} {s : State} {t : Nat} (hk0 : State.Keeps msk s0 s) (hm : Sub 0x1 msk) :
    State.Keeps msk s0 (State.trackEdge s t) := by
  unfold State.trackEdge
  repeat' first
    | with_reducible assumption | exact Sub.of hm rfl | exact Has.of hm rfl | intro _
    | (extract_lets +onlyGivenNames x; first | (refine (have hx : State.Keeps msk s0 x := ?_; ?_); (on_goal 2 => clear_value x); (on_goal 1 => subst x)) | (refine (have hx : State.Keeps msk s0 x.1 := ?_; ?_); (on_goal 2 => clear_value x); (on_goal 1 => subst x)) | (refine (have hx : Io.Keeps msk s0.io x := ?_; ?_); (on_goal 2 => clear_value x); (on_goal 1 => subst x)) | (refine (have hx : Io.Keeps msk s0.io x.1 := ?_; ?_); (on_goal 2 => clear_value x); (on_goal 1 => subst x)) | (refine (have hx : ∀ y, State.Keeps msk s0 (x y) := ?_; ?_); (on_goal 2 => clear_value x); (on_goal 1 => subst x)) | (refine (have hx : ∀ y, State.Keeps msk s0 (x y).1 := ?_; ?_); (on_goal 2 => clear_value x); (on_goal 1 => subst x)) | clear_value x)
    | (with_reducible first
        | apply hx | refine State.ite_keeps ?_ ?_ | refine State.ite_keeps_fst ?_ ?_ | refine Io.ite_keeps ?_ ?_
        | refine Io.ite_keeps_fst ?_ ?_)
    | split
    | (with_reducible first
        | refine State.Keeps.fst (by assumption) ?_ | refine Io.Keeps.fst (by assumption) ?_ | exact State.Keeps.io (by assumption)
        | fail_if_no_progress refine State.Keeps.io ?_ | fail_if_no_progress refine State.mk_keeps ?_ ?_
        | fail_if_no_progress refine Io.mk_keeps ?_)

theorem State.acquireEdge_keeps {msk : Nat} {s0 : State} {s : State} {t iv : Nat} {before : List Nat} (hk0 : State.Keeps msk s0 s) (hm : Sub 0x440000000001 msk) :
    State.Keeps msk s0 (State.acquireEdge s t iv before) := by
  unfold State.acquireEdge
  repeat' first
    | with_reducible assumption | exact Sub.of hm rfl | exact Has.of hm rfl | intro _
    | (extract_lets +onlyGivenNames x; first | (refine (have hx : State.Keeps msk s0 x := ?_; ?_); (on_goal 2 => clear_value x); (on_goal 1 => subst x)) | (refine (have hx : State.Keeps msk s0 x.1 := ?_; ?_); (on_goal 2 => clear_value x); (on_goal 1 => subst x)) | (refine (have hx : Io.Keeps msk s0.io x := ?_; ?_); (on_goal 2 => clear_value x); (on_goal 1 => subst x)) | (refine (have hx : Io.Keeps msk s0.io x.1 := ?_; ?_); (on_goal 2 => clear_value x); (on_goal 1 => subst x)) | (refine (have hx : ∀ y, State.Keeps msk s0 (x y) := ?_; ?_); (on_goal 2 => clear_value x); (on_goal 1 => subst x)) | (refine (have hx : ∀ y, State.Keeps msk s0 (x y).1 := ?_; ?_); (on_goal 2 => clear_value x); (on_goal 1 => subst x)) | clear_value x)
    | (with_reducible first
        | apply State.trackEdge_keeps | apply Io.take_keeps | apply State.measure_keeps | apply State.awaitChange_keeps | apply hx
        | refine State.ite_keeps ?_ ?_ | refine State.ite_keeps_fst ?_ ?_ | refine Io.ite_keeps ?_ ?_ | refine Io.ite_keeps_fst ?_ ?_)
    | split
    | (with_reducible first
        | refine State.Keeps.fst (by assumption) ?_ | refine Io.Keeps.fst (by assumption) ?_ | exact State.Keeps.io (by assumption)
        | fail_if_no_progress refine State.Keeps.io ?_ | fail_if_no_progress refine State.mk_keeps ?_ ?_
        | fail_if_no_progress refine Io.mk_keeps ?_)

theorem State.holdoverEdge_keeps {msk : Nat} {s0 : State} {s : State} {t iv : Nat} (hk0 : State.Keeps msk s0 s) (hm : Sub 0x440000000001 msk) :
    State.Keeps msk s0 (State.holdoverEdge s t iv) := by
  unfold State.holdoverEdge
  repeat' first
    | with_reducible assumption | exact Sub.of hm rfl | exact Has.of hm rfl | intro _
    | (extract_lets +onlyGivenNames x; first | (refine (have hx : State.Keeps msk s0 x := ?_; ?_); (on_goal 2 => clear_value x); (on_goal 1 => subst x)) | (refine (have hx : State.Keeps msk s0 x.1 := ?_; ?_); (on_goal 2 => clear_value x); (on_goal 1 => subst x)) | (refine (have hx : Io.Keeps msk s0.io x := ?_; ?_); (on_goal 2 => clear_value x); (on_goal 1 => subst x)) | (refine (have hx : Io.Keeps msk s0.io x.1 := ?_; ?_); (on_goal 2 => clear_value x); (on_goal 1 => subst x)) | (refine (have hx : ∀ y, State.Keeps msk s0 (x y) := ?_; ?_); (on_goal 2 => clear_value x); (on_goal 1 => subst x)) | (refine (have hx : ∀ y, State.Keeps msk s0 (x y).1 := ?_; ?_); (on_goal 2 => clear_value x); (on_goal 1 => subst x)) | clear_value x)
    | (with_reducible first
        | apply State.trackEdge_keeps | apply Io.take_keeps | apply State.measure_keeps | apply State.awaitChange_keeps | apply hx
        | refine State.ite_keeps ?_ ?_ | refine State.ite_keeps_fst ?_ ?_ | refine Io.ite_keeps ?_ ?_ | refine Io.ite_keeps_fst ?_ ?_)
    | split
    | (with_reducible first
        | refine State.Keeps.fst (by assumption) ?_ | refine Io.Keeps.fst (by assumption) ?_ | exact State.Keeps.io (by assumption)
        | fail_if_no_progress refine State.Keeps.io ?_ | fail_if_no_progress refine State.mk_keeps ?_ ?_
        | fail_if_no_progress refine Io.mk_keeps ?_)

theorem State.judgeEdge_keeps {msk : Nat} {s0 : State} {s : State} {t iv : Nat} {before : List Nat} (hk0 : State.Keeps msk s0 s) (hm : Sub 0x1000006069000000000000000000000000000000000000000000000000000000000000000000001ffc1c58000004440000278001 msk) :
    State.Keeps msk s0 (State.judgeEdge s t iv before) := by
  unfold State.judgeEdge
  repeat' first
    | with_reducible assumption | exact Sub.of hm rfl | exact Has.of hm rfl | intro _
    | (extract_lets +onlyGivenNames x; first | (refine (have hx : State.Keeps msk s0 x := ?_; ?_); (on_goal 2 => clear_value x); (on_goal 1 => subst x)) | (refine (have hx : State.Keeps msk s0 x.1 := ?_; ?_); (on_goal 2 => clear_value x); (on_goal 1 => subst x)) | clear_value x)
    | (with_reducible first
        | apply State.acquireEdge_keeps | apply State.holdoverEdge_keeps | apply State.windowEdge_keeps | apply State.onRateChange_keeps
        | refine State.ite_keeps ?_ ?_)
    | split
    | (with_reducible first
        | refine State.Keeps.fst (by assumption) ?_ | fail_if_no_progress refine State.mk_keeps ?_ ?_)

theorem State.noteEdge_keeps {msk : Nat} {s0 : State} {s : State} {t : Nat} {every : List Nat} (hk0 : State.Keeps msk s0 s) (hm : Sub 0x1 msk) :
    State.Keeps msk s0 (State.noteEdge s t every) := by
  unfold State.noteEdge
  repeat' first
    | with_reducible assumption | exact Sub.of hm rfl | exact Has.of hm rfl | intro _
    | (extract_lets +onlyGivenNames x; first | (refine (have hx : State.Keeps msk s0 x := ?_; ?_); (on_goal 2 => clear_value x); (on_goal 1 => subst x)) | (refine (have hx : State.Keeps msk s0 x.1 := ?_; ?_); (on_goal 2 => clear_value x); (on_goal 1 => subst x)) | (refine (have hx : Io.Keeps msk s0.io x := ?_; ?_); (on_goal 2 => clear_value x); (on_goal 1 => subst x)) | (refine (have hx : Io.Keeps msk s0.io x.1 := ?_; ?_); (on_goal 2 => clear_value x); (on_goal 1 => subst x)) | (refine (have hx : ∀ y, State.Keeps msk s0 (x y) := ?_; ?_); (on_goal 2 => clear_value x); (on_goal 1 => subst x)) | (refine (have hx : ∀ y, State.Keeps msk s0 (x y).1 := ?_; ?_); (on_goal 2 => clear_value x); (on_goal 1 => subst x)) | clear_value x)
    | with_reducible apply hx | split
    | (with_reducible first
        | refine State.Keeps.fst (by assumption) ?_ | refine Io.Keeps.fst (by assumption) ?_ | exact State.Keeps.io (by assumption)
        | fail_if_no_progress refine State.Keeps.io ?_ | fail_if_no_progress refine State.mk_keeps ?_ ?_
        | fail_if_no_progress refine Io.mk_keeps ?_)

theorem State.referenceEdge_keeps {msk : Nat} {s0 : State} {s : State} {t : Nat} (hk0 : State.Keeps msk s0 s) (hm : Sub 0x1000006069000000000000000000000000000000000000000000000000000000000000000000001ffc1c58000004440000a78001 msk) :
    State.Keeps msk s0 (State.referenceEdge s t) := by
  unfold State.referenceEdge
  repeat' first
    | with_reducible assumption | exact Sub.of hm rfl | exact Has.of hm rfl | intro _
    | (extract_lets +onlyGivenNames x; first | (refine (have hx : State.Keeps msk s0 x := ?_; ?_); (on_goal 2 => clear_value x); (on_goal 1 => subst x)) | clear_value x)
    | (with_reducible first
        | apply State.on_keeps | apply Io.at_keeps | apply State.noteEdge_keeps | apply Io.take_keeps | apply State.judgeEdge_keeps
        | apply State.on_keeps | refine State.ite_keeps ?_ ?_ | refine Io.ite_keeps ?_ ?_)
    | split
    | (with_reducible first
        | refine State.Keeps.fst (by assumption) ?_ | exact State.Keeps.io (by assumption) | fail_if_no_progress refine State.Keeps.io ?_
        | fail_if_no_progress refine State.mk_keeps ?_ ?_ | fail_if_no_progress refine Io.mk_keeps ?_)

theorem execReferenceEdge_keeps {msk : Nat} {s0 : State} {t : Nat} {s : State} (hk0 : State.Keeps msk s0 s) (hm : Sub 0x1000006069000000000000000000000000000000000000000000000000000000000000000000001ffc1c58000004440000a78001 msk) :
    Result.Keeps msk s0 (execReferenceEdge t s) := by
  unfold execReferenceEdge
  repeat' first
    | with_reducible assumption | exact Sub.of hm rfl | exact Has.of hm rfl | intro _
    | (with_reducible first
        | refine Result.next_keeps ?_ | apply State.referenceEdge_keeps)

theorem State.missEdge_keeps {msk : Nat} {s0 : State} {s : State} (hk0 : State.Keeps msk s0 s) (hm : Sub 0x8040000000001 msk) :
    State.Keeps msk s0 (State.missEdge s) := by
  unfold State.missEdge
  repeat' first
    | with_reducible assumption | exact Sub.of hm rfl | exact Has.of hm rfl | intro _ | exact RegOf.TCK_MISS_COUNT
    | exact RegOf.TCK_STATE
    | (extract_lets +onlyGivenNames x; first | (refine (have hx : State.Keeps msk s0 x := ?_; ?_); (on_goal 2 => clear_value x); (on_goal 1 => subst x)) | clear_value x)
    | (with_reducible first
        | apply State.on_keeps | apply Io.bumpF_keeps | apply State.bumpF_keeps | apply Io.setF_keeps | apply State.setF_keeps
        | apply State.on_keeps | exact State.Keeps.io (by assumption) | fail_if_no_progress refine State.Keeps.io ?_
        | fail_if_no_progress refine State.mk_keeps ?_ ?_ | fail_if_no_progress refine Io.mk_keeps ?_)

theorem State.forgetEdges_keeps {msk : Nat} {s0 : State} {s : State} (hk0 : State.Keeps msk s0 s) (hm : Sub 0x1 msk) :
    State.Keeps msk s0 (State.forgetEdges s) := by
  unfold State.forgetEdges
  repeat' first
    | with_reducible assumption | exact Sub.of hm rfl | exact Has.of hm rfl | intro _
    | (extract_lets +onlyGivenNames x; first | (refine (have hx : State.Keeps msk s0 x := ?_; ?_); (on_goal 2 => clear_value x); (on_goal 1 => subst x)) | (refine (have hx : State.Keeps msk s0 x.1 := ?_; ?_); (on_goal 2 => clear_value x); (on_goal 1 => subst x)) | (refine (have hx : Io.Keeps msk s0.io x := ?_; ?_); (on_goal 2 => clear_value x); (on_goal 1 => subst x)) | (refine (have hx : Io.Keeps msk s0.io x.1 := ?_; ?_); (on_goal 2 => clear_value x); (on_goal 1 => subst x)) | (refine (have hx : ∀ y, State.Keeps msk s0 (x y) := ?_; ?_); (on_goal 2 => clear_value x); (on_goal 1 => subst x)) | (refine (have hx : ∀ y, State.Keeps msk s0 (x y).1 := ?_; ?_); (on_goal 2 => clear_value x); (on_goal 1 => subst x)) | clear_value x)
    | with_reducible apply hx | split
    | (with_reducible first
        | refine State.Keeps.fst (by assumption) ?_ | refine Io.Keeps.fst (by assumption) ?_ | exact State.Keeps.io (by assumption)
        | fail_if_no_progress refine State.Keeps.io ?_ | fail_if_no_progress refine State.mk_keeps ?_ ?_
        | fail_if_no_progress refine Io.mk_keeps ?_)

theorem State.edgeMissing_keeps {msk : Nat} {s0 : State} {s : State} (hk0 : State.Keeps msk s0 s) (hm : Sub 0x8040000000001 msk) :
    State.Keeps msk s0 (State.edgeMissing s) := by
  unfold State.edgeMissing
  repeat' first
    | with_reducible assumption | exact Sub.of hm rfl | exact Has.of hm rfl | intro _
    | (extract_lets +onlyGivenNames x; first | (refine (have hx : State.Keeps msk s0 x := ?_; ?_); (on_goal 2 => clear_value x); (on_goal 1 => subst x)) | (refine (have hx : State.Keeps msk s0 x.1 := ?_; ?_); (on_goal 2 => clear_value x); (on_goal 1 => subst x)) | clear_value x)
    | (with_reducible first
        | apply State.missEdge_keeps | apply State.awaitChange_keeps | apply State.forgetEdges_keeps | refine State.ite_keeps ?_ ?_)
    | split

theorem execEdgeMissing_keeps {msk : Nat} {s0 : State} {s : State} (hk0 : State.Keeps msk s0 s) (hm : Sub 0x8040000000001 msk) :
    Result.Keeps msk s0 (execEdgeMissing s) := by
  unfold execEdgeMissing
  repeat' first
    | with_reducible assumption | exact Sub.of hm rfl | exact Has.of hm rfl | intro _
    | (with_reducible first
        | refine Result.next_keeps ?_ | apply State.edgeMissing_keeps)

theorem State.passRepeat_keeps {msk : Nat} {s0 : State} {s : State} {n : Nat} (hk0 : State.Keeps msk s0 s) (hm : Sub 0x1000006069000000000000000000000000000000000000000000000000000000000000000000001ffc1c58000010040000a78001 msk) :
    State.Keeps msk s0 (State.passRepeat s n) := by
  unfold State.passRepeat
  repeat' first
    | with_reducible assumption | exact Sub.of hm rfl | exact Has.of hm rfl | intro _ | exact RegOf.TCK_REPEAT_COUNT
    | exact RegOf.TCK_STATE
    | (extract_lets +onlyGivenNames x; first | (refine (have hx : State.Keeps msk s0 x := ?_; ?_); (on_goal 2 => clear_value x); (on_goal 1 => subst x)) | (refine (have hx : State.Keeps msk s0 x.1 := ?_; ?_); (on_goal 2 => clear_value x); (on_goal 1 => subst x)) | clear_value x)
    | (with_reducible first
        | apply State.on_keeps | apply Io.at_keeps | apply Io.setF_keeps | apply State.setF_keeps | apply Io.bumpF_keeps
        | apply State.bumpF_keeps | apply Io.fire_keeps | apply State.fire_keeps | apply State.on_keeps)
    | split
    | (with_reducible first
        | exact State.Keeps.io (by assumption) | fail_if_no_progress refine State.Keeps.io ?_
        | fail_if_no_progress refine State.mk_keeps ?_ ?_ | fail_if_no_progress refine Io.mk_keeps ?_)

theorem State.repeatBoundary_keeps {msk : Nat} {s0 : State} {s : State} (hk0 : State.Keeps msk s0 s) (hm : Sub 0x1000006069000000000000000000000000000000000000000000000000000000000000000000001ffc1c58020010040000a78001 msk) :
    State.Keeps msk s0 (State.repeatBoundary s) := by
  unfold State.repeatBoundary
  repeat' first
    | with_reducible assumption | exact Sub.of hm rfl | exact Has.of hm rfl | intro _
    | (extract_lets +onlyGivenNames x; first | (refine (have hx : State.Keeps msk s0 x := ?_; ?_); (on_goal 2 => clear_value x); (on_goal 1 => subst x)) | (refine (have hx : State.Keeps msk s0 x.1 := ?_; ?_); (on_goal 2 => clear_value x); (on_goal 1 => subst x)) | (refine (have hx : Io.Keeps msk s0.io x := ?_; ?_); (on_goal 2 => clear_value x); (on_goal 1 => subst x)) | (refine (have hx : Io.Keeps msk s0.io x.1 := ?_; ?_); (on_goal 2 => clear_value x); (on_goal 1 => subst x)) | (refine (have hx : ∀ y, State.Keeps msk s0 (x y) := ?_; ?_); (on_goal 2 => clear_value x); (on_goal 1 => subst x)) | (refine (have hx : ∀ y, State.Keeps msk s0 (x y).1 := ?_; ?_); (on_goal 2 => clear_value x); (on_goal 1 => subst x)) | clear_value x)
    | (with_reducible first
        | apply State.passRepeat_keeps | apply State.switchRateSet_keeps | apply hx | refine State.ite_keeps ?_ ?_
        | refine State.ite_keeps_fst ?_ ?_ | refine Io.ite_keeps ?_ ?_ | refine Io.ite_keeps_fst ?_ ?_)
    | split
    | (with_reducible first
        | refine State.Keeps.fst (by assumption) ?_ | refine Io.Keeps.fst (by assumption) ?_ | exact State.Keeps.io (by assumption)
        | fail_if_no_progress refine State.Keeps.io ?_ | fail_if_no_progress refine State.mk_keeps ?_ ?_
        | fail_if_no_progress refine Io.mk_keeps ?_)

theorem execRepeatBoundary_keeps {msk : Nat} {s0 : State} {s : State} (hk0 : State.Keeps msk s0 s) (hm : Sub 0x1000006069000000000000000000000000000000000000000000000000000000000000000000001ffc1c58020010040000a78001 msk) :
    Result.Keeps msk s0 (execRepeatBoundary s) := by
  unfold execRepeatBoundary
  repeat' first
    | with_reducible assumption | exact Sub.of hm rfl | exact Has.of hm rfl | intro _
    | (with_reducible first
        | refine Result.next_keeps ?_ | apply State.repeatBoundary_keeps)

theorem State.phaseState_keeps {msk : Nat} {s0 : State} {s : State} {err : Int} (hk0 : State.Keeps msk s0 s) (hm : Sub 0x1000006069000000000000000000000000000000000000000000000000000000000000000000001ffc1c58000000040000278001 msk) :
    State.Keeps msk s0 (State.phaseState s err) := by
  unfold State.phaseState
  repeat' first
    | with_reducible assumption | exact Sub.of hm rfl | exact Has.of hm rfl | intro _
    | (extract_lets +onlyGivenNames x; first | (refine (have hx : State.Keeps msk s0 x := ?_; ?_); (on_goal 2 => clear_value x); (on_goal 1 => subst x)) | (refine (have hx : State.Keeps msk s0 x.1 := ?_; ?_); (on_goal 2 => clear_value x); (on_goal 1 => subst x)) | (refine (have hx : Io.Keeps msk s0.io x := ?_; ?_); (on_goal 2 => clear_value x); (on_goal 1 => subst x)) | (refine (have hx : Io.Keeps msk s0.io x.1 := ?_; ?_); (on_goal 2 => clear_value x); (on_goal 1 => subst x)) | (refine (have hx : ∀ y, State.Keeps msk s0 (x y) := ?_; ?_); (on_goal 2 => clear_value x); (on_goal 1 => subst x)) | (refine (have hx : ∀ y, State.Keeps msk s0 (x y).1 := ?_; ?_); (on_goal 2 => clear_value x); (on_goal 1 => subst x)) | clear_value x)
    | (with_reducible first
        | apply State.setMode_keeps | apply hx | refine State.ite_keeps ?_ ?_ | refine State.ite_keeps_fst ?_ ?_ | refine Io.ite_keeps ?_ ?_
        | refine Io.ite_keeps_fst ?_ ?_)
    | split
    | (with_reducible first
        | refine State.Keeps.fst (by assumption) ?_ | refine Io.Keeps.fst (by assumption) ?_ | exact State.Keeps.io (by assumption)
        | fail_if_no_progress refine State.Keeps.io ?_ | fail_if_no_progress refine State.mk_keeps ?_ ?_
        | fail_if_no_progress refine Io.mk_keeps ?_)

theorem State.steer_keeps {msk : Nat} {s0 : State} {s : State} {e : Int} (hk0 : State.Keeps msk s0 s) (hm : Sub 0x200000000000 msk) :
    State.Keeps msk s0 (State.steer s e) := by
  unfold State.steer
  repeat' first
    | with_reducible assumption | exact Sub.of hm rfl | exact Has.of hm rfl | intro _ | exact RegOf.TCK_PERIOD
    | (extract_lets +onlyGivenNames x; first | (refine (have hx : State.Keeps msk s0 x := ?_; ?_); (on_goal 2 => clear_value x); (on_goal 1 => subst x)) | (refine (have hx : State.Keeps msk s0 x.1 := ?_; ?_); (on_goal 2 => clear_value x); (on_goal 1 => subst x)) | clear_value x)
    | (with_reducible first
        | apply State.on_keeps | apply Io.setF_keeps | apply State.setF_keeps | apply State.on_keeps | refine State.ite_keeps ?_ ?_
        | refine Io.ite_keeps ?_ ?_)
    | split
    | (with_reducible first
        | exact State.Keeps.io (by assumption) | fail_if_no_progress refine State.Keeps.io ?_)

theorem State.latchSlots_keeps {msk : Nat} {s0 : State} {s : State} {n : Nat} (hk0 : State.Keeps msk s0 s) (hm : Sub 0x6000000000000001 msk) :
    State.Keeps msk s0 (State.latchSlots s n) := by
  unfold State.latchSlots
  repeat' first
    | with_reducible assumption | exact Sub.of hm rfl | exact Has.of hm rfl | intro _ | exact RegOf.TCK_LATE_MAX _
    | exact RegOf.TCK_SLOT_STAT _
    | (extract_lets +onlyGivenNames x; first | (refine (have hx : State.Keeps msk s0 x := ?_; ?_); (on_goal 2 => clear_value x); (on_goal 1 => subst x)) | (refine (have hx : State.Keeps msk s0 x.1 := ?_; ?_); (on_goal 2 => clear_value x); (on_goal 1 => subst x)) | clear_value x)
    | (with_reducible first
        | apply State.on_keeps | apply Io.setF_keeps | apply State.setF_keeps | apply State.foldl_keeps | apply State.foldl_keeps_fst
        | apply Io.foldl_keeps | apply Io.foldl_keeps_fst | apply State.on_keeps)
    | split
    | (with_reducible first
        | refine State.Keeps.fst (by assumption) ?_ | exact State.Keeps.io (by assumption) | fail_if_no_progress refine State.Keeps.io ?_
        | fail_if_no_progress refine State.mk_keeps ?_ ?_ | fail_if_no_progress refine Io.mk_keeps ?_)

theorem State.moveDelays_keeps {msk : Nat} {s0 : State} {s : State} (hk0 : State.Keeps msk s0 s) (hm : Sub 0x180000000000000 msk) :
    State.Keeps msk s0 (State.moveDelays s) := by
  unfold State.moveDelays
  repeat' first
    | with_reducible assumption | exact Sub.of hm rfl | exact Has.of hm rfl | intro _ | exact RegOf.TCK_DELAY_A
    | exact RegOf.TCK_DELAY_B
    | (extract_lets +onlyGivenNames x; first | (refine (have hx : State.Keeps msk s0 x := ?_; ?_); (on_goal 2 => clear_value x); (on_goal 1 => subst x)) | (refine (have hx : State.Keeps msk s0 x.1 := ?_; ?_); (on_goal 2 => clear_value x); (on_goal 1 => subst x)) | (refine (have hx : Io.Keeps msk s0.io x := ?_; ?_); (on_goal 2 => clear_value x); (on_goal 1 => subst x)) | (refine (have hx : Io.Keeps msk s0.io x.1 := ?_; ?_); (on_goal 2 => clear_value x); (on_goal 1 => subst x)) | (refine (have hx : ∀ y, State.Keeps msk s0 (x y) := ?_; ?_); (on_goal 2 => clear_value x); (on_goal 1 => subst x)) | (refine (have hx : ∀ y, State.Keeps msk s0 (x y).1 := ?_; ?_); (on_goal 2 => clear_value x); (on_goal 1 => subst x)) | clear_value x)
    | (with_reducible first
        | apply State.on_keeps | apply Io.setF_keeps | apply State.setF_keeps | apply State.on_keeps | apply hx
        | refine State.ite_keeps ?_ ?_ | refine State.ite_keeps_fst ?_ ?_ | refine Io.ite_keeps ?_ ?_ | refine Io.ite_keeps_fst ?_ ?_)
    | split
    | (with_reducible first
        | refine State.Keeps.fst (by assumption) ?_ | refine Io.Keeps.fst (by assumption) ?_ | exact State.Keeps.io (by assumption)
        | fail_if_no_progress refine State.Keeps.io ?_ | fail_if_no_progress refine State.mk_keeps ?_ ?_
        | fail_if_no_progress refine Io.mk_keeps ?_)

theorem State.fireRefLost_keeps {msk : Nat} {s0 : State} {s : State} {before : Nat} {p : Pending} (hk0 : State.Keeps msk s0 s) (hm : Sub 0x1000006069000000000000000000000000000000000000000000000000000000000000000000001ffc1c58000000000000278000 msk) :
    State.Keeps msk s0 (State.fireRefLost s before p) := by
  unfold State.fireRefLost
  repeat' first
    | with_reducible assumption | exact Sub.of hm rfl | exact Has.of hm rfl | intro _
    | (with_reducible first
        | apply State.on_keeps | apply Io.fire_keeps | apply State.fire_keeps | apply State.on_keeps | refine State.ite_keeps ?_ ?_
        | refine Io.ite_keeps ?_ ?_)
    | split
    | (with_reducible first
        | exact State.Keeps.io (by assumption) | fail_if_no_progress refine State.Keeps.io ?_)

theorem State.enterPeriod_keeps {msk : Nat} {s0 : State} {s : State} {n : Nat} (hk0 : State.Keeps msk s0 s) (hm : Sub 0x1000006069000000000000000000000000000000000000000000000000000000000000000000001ffc1c580260007c0000a78001 msk) :
    State.Keeps msk s0 (State.enterPeriod s n) := by
  unfold State.enterPeriod
  repeat' first
    | with_reducible assumption | exact Sub.of hm rfl | exact Has.of hm rfl | intro _ | exact RegOf.TCK_COUNT_HI
    | exact RegOf.TCK_COUNT_LO
    | (extract_lets +onlyGivenNames x; first | (refine (have hx : State.Keeps msk s0 x := ?_; ?_); (on_goal 2 => clear_value x); (on_goal 1 => subst x)) | (refine (have hx : State.Keeps msk s0 x.1 := ?_; ?_); (on_goal 2 => clear_value x); (on_goal 1 => subst x)) | (refine (have hx : Io.Keeps msk s0.io x := ?_; ?_); (on_goal 2 => clear_value x); (on_goal 1 => subst x)) | (refine (have hx : Io.Keeps msk s0.io x.1 := ?_; ?_); (on_goal 2 => clear_value x); (on_goal 1 => subst x)) | (refine (have hx : ∀ y, State.Keeps msk s0 (x y) := ?_; ?_); (on_goal 2 => clear_value x); (on_goal 1 => subst x)) | (refine (have hx : ∀ y, State.Keeps msk s0 (x y).1 := ?_; ?_); (on_goal 2 => clear_value x); (on_goal 1 => subst x)) | clear_value x)
    | (with_reducible first
        | apply State.on_keeps | apply Io.at_keeps | apply Io.setWide_keeps | apply State.latchSlots_keeps | apply State.change_keeps
        | apply State.awaitChange_keeps | apply State.fireRefLost_keeps | apply State.on_keeps | apply hx)
    | split
    | (with_reducible first
        | refine State.Keeps.fst (by assumption) ?_ | refine Io.Keeps.fst (by assumption) ?_ | exact State.Keeps.io (by assumption)
        | fail_if_no_progress refine State.Keeps.io ?_ | fail_if_no_progress refine State.mk_keeps ?_ ?_
        | fail_if_no_progress refine Io.mk_keeps ?_)

theorem State.followPeriod_keeps {msk : Nat} {s0 : State} {s : State} {n : Nat} (hk0 : State.Keeps msk s0 s) (hm : Sub 0x1000006069000000000000000000000000000000000000000000000000000000000000000000001ffc1c58020180240000278001 msk) :
    State.Keeps msk s0 (State.followPeriod s n) := by
  unfold State.followPeriod
  repeat' first
    | with_reducible assumption | exact Sub.of hm rfl | exact Has.of hm rfl | intro _ | exact RegOf.TCK_PERIOD
    | exact RegOf.TCK_STATE
    | (extract_lets +onlyGivenNames x; first | (refine (have hx : State.Keeps msk s0 x := ?_; ?_); (on_goal 2 => clear_value x); (on_goal 1 => subst x)) | (refine (have hx : State.Keeps msk s0 x.1 := ?_; ?_); (on_goal 2 => clear_value x); (on_goal 1 => subst x)) | clear_value x)
    | (with_reducible first
        | apply State.switchRateSet_keeps | apply State.on_keeps | apply Io.setF_keeps | apply State.setF_keeps
        | apply State.moveDelays_keeps | apply State.on_keeps | refine State.ite_keeps ?_ ?_ | refine Io.ite_keeps ?_ ?_)
    | split
    | (with_reducible first
        | exact State.Keeps.io (by assumption) | fail_if_no_progress refine State.Keeps.io ?_)

theorem State.runPeriod_keeps {msk : Nat} {s0 : State} {s : State} {n : Nat} (hk0 : State.Keeps msk s0 s) (hm : Sub 0x1000006069000000000000000000000000000000000000000000000000000000000000000000001ffc1c58020180a40000278001 msk) :
    State.Keeps msk s0 (State.runPeriod s n) := by
  unfold State.runPeriod
  repeat' first
    | with_reducible assumption | exact Sub.of hm rfl | exact Has.of hm rfl | intro _ | exact RegOf.TCK_PHASE_ERR
    | (extract_lets +onlyGivenNames x; first | (refine (have hx : State.Keeps msk s0 x := ?_; ?_); (on_goal 2 => clear_value x); (on_goal 1 => subst x)) | (refine (have hx : State.Keeps msk s0 x.1 := ?_; ?_); (on_goal 2 => clear_value x); (on_goal 1 => subst x)) | clear_value x)
    | (with_reducible first
        | apply State.followPeriod_keeps | apply State.on_keeps | apply Io.setF_keeps | apply State.setF_keeps
        | apply State.phaseState_keeps | apply State.steer_keeps | apply State.setMode_keeps | apply State.on_keeps
        | refine State.ite_keeps ?_ ?_ | refine Io.ite_keeps ?_ ?_)
    | split
    | (with_reducible first
        | exact State.Keeps.io (by assumption) | fail_if_no_progress refine State.Keeps.io ?_)

theorem State.showPeriod_keeps {msk : Nat} {s0 : State} {s : State} {n : Nat} (hk0 : State.Keeps msk s0 s) (hm : Sub 0x1000006069000000000000000000000000000000000000000000000000000000000000000000001ffc1c58000000040000278001 msk) :
    State.Keeps msk s0 (State.showPeriod s n) := by
  unfold State.showPeriod
  repeat' first
    | with_reducible assumption | exact Sub.of hm rfl | exact Has.of hm rfl | intro _
    | (extract_lets +onlyGivenNames x; first | (refine (have hx : State.Keeps msk s0 x := ?_; ?_); (on_goal 2 => clear_value x); (on_goal 1 => subst x)) | (refine (have hx : State.Keeps msk s0 x.1 := ?_; ?_); (on_goal 2 => clear_value x); (on_goal 1 => subst x)) | clear_value x)
    | (with_reducible first
        | apply State.showSource_keeps | apply State.on_keeps | apply Io.fire_keeps | apply State.fire_keeps | apply Io.emit_keeps
        | apply State.emit_keeps | apply Io.pulse_keeps | apply State.on_keeps | refine State.ite_keeps ?_ ?_ | refine Io.ite_keeps ?_ ?_)
    | split
    | (with_reducible first
        | exact State.Keeps.io (by assumption) | fail_if_no_progress refine State.Keeps.io ?_
        | fail_if_no_progress refine State.mk_keeps ?_ ?_ | fail_if_no_progress refine Io.mk_keeps ?_)

theorem State.raiseTick_keeps {msk : Nat} {s0 : State} {s : State} (hk0 : State.Keeps msk s0 s) (hm : Sub 0x1000006069000000000000000000000000000000000000000000000000000000000000000000001ffc1c58026180fc0000a78001 msk) :
    State.Keeps msk s0 (State.raiseTick s) := by
  unfold State.raiseTick
  repeat' first
    | with_reducible assumption | exact Sub.of hm rfl | exact Has.of hm rfl | intro _
    | (extract_lets +onlyGivenNames x; first | (refine (have hx : State.Keeps msk s0 x := ?_; ?_); (on_goal 2 => clear_value x); (on_goal 1 => subst x)) | clear_value x)
    | (with_reducible first
        | apply State.enterPeriod_keeps | apply State.runPeriod_keeps | apply State.showPeriod_keeps)
    | split
    | (with_reducible first
        | refine State.Keeps.fst (by assumption) ?_ | fail_if_no_progress refine State.mk_keeps ?_ ?_)

theorem State.markerSend_keeps {msk : Nat} {s0 : State} {s : State} {p offset : Nat} (hk0 : State.Keeps msk s0 s) (hm : Sub 0x200000 msk) :
    State.Keeps msk s0 (State.markerSend s p offset) := by
  unfold State.markerSend
  repeat' first
    | with_reducible assumption | exact Sub.of hm rfl | exact Has.of hm rfl | intro _
    | (extract_lets +onlyGivenNames x; first | (refine (have hx : State.Keeps msk s0 x := ?_; ?_); (on_goal 2 => clear_value x); (on_goal 1 => subst x)) | (refine (have hx : State.Keeps msk s0 x.1 := ?_; ?_); (on_goal 2 => clear_value x); (on_goal 1 => subst x)) | clear_value x)
    | (with_reducible first
        | apply State.on_keeps | apply Io.emit_keeps | apply State.emit_keeps | apply State.on_keeps | refine State.ite_keeps ?_ ?_
        | refine Io.ite_keeps ?_ ?_)
    | split
    | (with_reducible first
        | refine State.Keeps.fst (by assumption) ?_ | exact State.Keeps.io (by assumption) | fail_if_no_progress refine State.Keeps.io ?_
        | fail_if_no_progress refine State.mk_keeps ?_ ?_ | fail_if_no_progress refine Io.mk_keeps ?_)

theorem State.cwError_keeps {msk : Nat} {s0 : State} {s : State} {p : Nat} (hk0 : State.Keeps msk s0 s) (hm : Sub 0x1000006069000000000000000000000000000000000000000000000010000000000000000000001ffc1c58000000000000278000 msk) :
    State.Keeps msk s0 (State.cwError s p) := by
  unfold State.cwError
  repeat' first
    | with_reducible assumption | exact Sub.of hm rfl | exact Has.of hm rfl | intro _ | exact RegOf.LNK_CW_ERR _ _
    | (with_reducible first
        | apply State.on_keeps | apply Io.bumpF_keeps | apply State.bumpF_keeps | apply Io.fireOnce_keeps | apply State.on_keeps)
    | split
    | (with_reducible first
        | exact State.Keeps.io (by assumption) | fail_if_no_progress refine State.Keeps.io ?_)

theorem State.setPortRun_keeps {msk : Nat} {s0 : State} {s : State} {p m v : Nat} (hk0 : State.Keeps msk s0 s) (hm : Sub 0x1 msk) :
    State.Keeps msk s0 (State.setPortRun s p m v) := by
  unfold State.setPortRun
  repeat' first
    | with_reducible assumption | exact Sub.of hm rfl | exact Has.of hm rfl | intro _
    | (extract_lets +onlyGivenNames x; first | (refine (have hx : State.Keeps msk s0 x := ?_; ?_); (on_goal 2 => clear_value x); (on_goal 1 => subst x)) | (refine (have hx : State.Keeps msk s0 x.1 := ?_; ?_); (on_goal 2 => clear_value x); (on_goal 1 => subst x)) | (refine (have hx : Io.Keeps msk s0.io x := ?_; ?_); (on_goal 2 => clear_value x); (on_goal 1 => subst x)) | (refine (have hx : Io.Keeps msk s0.io x.1 := ?_; ?_); (on_goal 2 => clear_value x); (on_goal 1 => subst x)) | (refine (have hx : ∀ y, State.Keeps msk s0 (x y) := ?_; ?_); (on_goal 2 => clear_value x); (on_goal 1 => subst x)) | (refine (have hx : ∀ y, State.Keeps msk s0 (x y).1 := ?_; ?_); (on_goal 2 => clear_value x); (on_goal 1 => subst x)) | clear_value x)
    | (with_reducible first
        | apply hx | refine State.Keeps.fst (by assumption) ?_ | refine Io.Keeps.fst (by assumption) ?_
        | exact State.Keeps.io (by assumption) | fail_if_no_progress refine State.Keeps.io ?_
        | fail_if_no_progress refine State.mk_keeps ?_ ?_ | fail_if_no_progress refine Io.mk_keeps ?_)

theorem State.portF_keeps {m p : Nat} {s0 s : State} {f : Nat → Nat → Field} {q v : Nat} (h : State.Keeps m s0 s)
    (hr : ∀ i j, RegOf p (f i j).reg) (hm : Has p m) : State.Keeps m s0 (s.portF f q v) := h.toIo (Io.setF_keeps h.io (hr _ _) hm)

theorem State.portBump_keeps {m p : Nat} {s0 s : State} {f : Nat → Nat → Field} {q : Nat} (h : State.Keeps m s0 s)
    (hr : ∀ i j, RegOf p (f i j).reg) (hm : Has p m) : State.Keeps m s0 (s.portBump f q) := h.toIo (Io.bumpF_keeps h.io (hr _ _) hm)

theorem State.firePort_keeps {msk : Nat} {s0 : State} {s : State} {e p : Nat} (hk0 : State.Keeps msk s0 s) (hm : Sub 0x1000006069000000000000000000000000000000000000000000000000000000000000000000001ffc1c58000000000000278000 msk) :
    State.Keeps msk s0 (State.firePort s e p) := by
  unfold State.firePort
  repeat' first
    | with_reducible assumption | exact Sub.of hm rfl | exact Has.of hm rfl | intro _
    | (with_reducible first
        | apply State.on_keeps | apply Io.fireObj_keeps | apply State.on_keeps)
    | split
    | (with_reducible first
        | exact State.Keeps.io (by assumption) | fail_if_no_progress refine State.Keeps.io ?_)

theorem State.firePortOnce_keeps {msk : Nat} {s0 : State} {s : State} {e p : Nat} (hk0 : State.Keeps msk s0 s) (hm : Sub 0x1000006069000000000000000000000000000000000000000000000000000000000000000000001ffc1c58000000000000278000 msk) :
    State.Keeps msk s0 (State.firePortOnce s e p) := by
  unfold State.firePortOnce
  repeat' first
    | with_reducible assumption | exact Sub.of hm rfl | exact Has.of hm rfl | intro _
    | (with_reducible first
        | apply State.on_keeps | apply Io.fireOnce_keeps | apply State.on_keeps)
    | split
    | (with_reducible first
        | exact State.Keeps.io (by assumption) | fail_if_no_progress refine State.Keeps.io ?_)

theorem State.updateOrigin_keeps {msk : Nat} {s0 : State} {s : State} (hk0 : State.Keeps msk s0 s) (hm : Sub 0x1000006069000000000000000000000000000000000000000000000000800000000000000000001ffc1c58000000000000278000 msk) :
    State.Keeps msk s0 (State.updateOrigin s) := by
  unfold State.updateOrigin
  repeat' first
    | with_reducible assumption | exact Sub.of hm rfl | exact Has.of hm rfl | intro _ | exact RegOf.LNK_STATE _ _
    | (extract_lets +onlyGivenNames x; first | (refine (have hx : State.Keeps msk s0 x := ?_; ?_); (on_goal 2 => clear_value x); (on_goal 1 => subst x)) | (refine (have hx : State.Keeps msk s0 x.1 := ?_; ?_); (on_goal 2 => clear_value x); (on_goal 1 => subst x)) | clear_value x)
    | (with_reducible first
        | apply State.portF_keeps | apply State.firePort_keeps | apply State.foldl_keeps | apply State.foldl_keeps_fst
        | apply Io.foldl_keeps | apply Io.foldl_keeps_fst | refine State.ite_keeps ?_ ?_ | refine Io.ite_keeps ?_ ?_)
    | split
    | (with_reducible first
        | exact State.Keeps.io (by assumption) | fail_if_no_progress refine State.Keeps.io ?_)

theorem State.select_keeps {msk : Nat} {s0 : State} {s : State} {p : Nat} (hk0 : State.Keeps msk s0 s) (hm : Sub 0x1000006069000000000000000000000000000000000000000000000000800000000000000000001ffc1c58000000000000278000 msk) :
    State.Keeps msk s0 (State.select s p) := by
  unfold State.select
  repeat' first
    | with_reducible assumption | exact Sub.of hm rfl | exact Has.of hm rfl | intro _ | exact RegOf.LNK_STATE _ _
    | (with_reducible first
        | apply State.on_keeps | apply Io.setF_keeps | apply State.setF_keeps | apply State.updateOrigin_keeps | apply State.on_keeps
        | exact State.Keeps.io (by assumption) | fail_if_no_progress refine State.Keeps.io ?_)

theorem State.missMarker_keeps {msk : Nat} {s0 : State} {s : State} (hk0 : State.Keeps msk s0 s) (hm : Sub 0x1000006069000000000000000000000000000000000000000000000000000000000000000000001ffc1c58000400040000278001 msk) :
    State.Keeps msk s0 (State.missMarker s) := by
  unfold State.missMarker
  repeat' first
    | with_reducible assumption | exact Sub.of hm rfl | exact Has.of hm rfl | intro _ | exact RegOf.TCK_MARKER_ERR
    | exact RegOf.TCK_STATE
    | (extract_lets +onlyGivenNames x; first | (refine (have hx : State.Keeps msk s0 x := ?_; ?_); (on_goal 2 => clear_value x); (on_goal 1 => subst x)) | (refine (have hx : State.Keeps msk s0 x.1 := ?_; ?_); (on_goal 2 => clear_value x); (on_goal 1 => subst x)) | clear_value x)
    | (with_reducible first
        | apply State.on_keeps | apply Io.bumpF_keeps | apply State.bumpF_keeps | apply Io.setF_keeps | apply State.setF_keeps
        | apply State.awaitChange_keeps | apply Io.fire_keeps | apply State.fire_keeps | apply State.on_keeps | refine State.ite_keeps ?_ ?_
        | refine Io.ite_keeps ?_ ?_)
    | split
    | (with_reducible first
        | exact State.Keeps.io (by assumption) | fail_if_no_progress refine State.Keeps.io ?_
        | fail_if_no_progress refine State.mk_keeps ?_ ?_ | fail_if_no_progress refine Io.mk_keeps ?_)

theorem State.repeatWord_keeps {msk : Nat} {s0 : State} {s : State} {p payload : Nat} (hk0 : State.Keeps msk s0 s) (hm : Sub 0x200000 msk) :
    State.Keeps msk s0 (State.repeatWord s p payload) := by
  unfold State.repeatWord
  repeat' first
    | with_reducible assumption | exact Sub.of hm rfl | exact Has.of hm rfl | intro _
    | (with_reducible first
        | apply State.on_keeps | apply Io.emit_keeps | apply State.emit_keeps | apply State.on_keeps | refine State.ite_keeps ?_ ?_
        | refine Io.ite_keeps ?_ ?_)
    | split
    | (with_reducible first
        | exact State.Keeps.io (by assumption) | fail_if_no_progress refine State.Keeps.io ?_)

theorem State.announceRepeat_keeps {msk : Nat} {s0 : State} {s : State} {x : Nat} (hk0 : State.Keeps msk s0 s) (hm : Sub 0x40000000001 msk) :
    State.Keeps msk s0 (State.announceRepeat s x) := by
  unfold State.announceRepeat
  repeat' first
    | with_reducible assumption | exact Sub.of hm rfl | exact Has.of hm rfl | intro _ | exact RegOf.TCK_STATE
    | (extract_lets +onlyGivenNames x; first | (refine (have hx : State.Keeps msk s0 x := ?_; ?_); (on_goal 2 => clear_value x); (on_goal 1 => subst x)) | clear_value x)
    | (with_reducible first
        | apply State.on_keeps | apply Io.setF_keeps | apply State.setF_keeps | apply State.showSource_keeps | apply State.on_keeps)
    | split
    | (with_reducible first
        | exact State.Keeps.io (by assumption) | fail_if_no_progress refine State.Keeps.io ?_
        | fail_if_no_progress refine State.mk_keeps ?_ ?_ | fail_if_no_progress refine Io.mk_keeps ?_)

theorem State.followMarker_keeps {msk : Nat} {s0 : State} {s : State} {p t payload : Nat} (hk0 : State.Keeps msk s0 s) (hm : Sub 0x40000000001 msk) :
    State.Keeps msk s0 (State.followMarker s p t payload) := by
  unfold State.followMarker
  repeat' first
    | with_reducible assumption | exact Sub.of hm rfl | exact Has.of hm rfl | intro _ | exact RegOf.TCK_STATE
    | (extract_lets +onlyGivenNames x; first | (refine (have hx : State.Keeps msk s0 x := ?_; ?_); (on_goal 2 => clear_value x); (on_goal 1 => subst x)) | (refine (have hx : State.Keeps msk s0 x.1 := ?_; ?_); (on_goal 2 => clear_value x); (on_goal 1 => subst x)) | (refine (have hx : Io.Keeps msk s0.io x := ?_; ?_); (on_goal 2 => clear_value x); (on_goal 1 => subst x)) | (refine (have hx : Io.Keeps msk s0.io x.1 := ?_; ?_); (on_goal 2 => clear_value x); (on_goal 1 => subst x)) | (refine (have hx : ∀ y, State.Keeps msk s0 (x y) := ?_; ?_); (on_goal 2 => clear_value x); (on_goal 1 => subst x)) | (refine (have hx : ∀ y, State.Keeps msk s0 (x y).1 := ?_; ?_); (on_goal 2 => clear_value x); (on_goal 1 => subst x)) | clear_value x)
    | (with_reducible first
        | apply State.on_keeps | apply Io.setF_keeps | apply State.setF_keeps | apply State.announceRepeat_keeps
        | apply State.showSource_keeps | apply State.awaitChange_keeps | apply State.on_keeps | apply hx | refine State.ite_keeps ?_ ?_
        | refine State.ite_keeps_fst ?_ ?_ | refine Io.ite_keeps ?_ ?_ | refine Io.ite_keeps_fst ?_ ?_)
    | split
    | (with_reducible first
        | refine State.Keeps.fst (by assumption) ?_ | refine Io.Keeps.fst (by assumption) ?_ | exact State.Keeps.io (by assumption)
        | fail_if_no_progress refine State.Keeps.io ?_ | fail_if_no_progress refine State.mk_keeps ?_ ?_
        | fail_if_no_progress refine Io.mk_keeps ?_)

theorem State.ownMarker_keeps {msk : Nat} {s0 : State} {s : State} {p payload t : Nat} (hk0 : State.Keeps msk s0 s) (hm : Sub 0x1000006069000000000000000000000000000000000000000000000000800000000000000000001ffc1c58000400040000278001 msk) :
    State.Keeps msk s0 (State.ownMarker s p payload t) := by
  unfold State.ownMarker
  repeat' first
    | with_reducible assumption | exact Sub.of hm rfl | exact Has.of hm rfl | intro _
    | (extract_lets +onlyGivenNames x; first | (refine (have hx : State.Keeps msk s0 x := ?_; ?_); (on_goal 2 => clear_value x); (on_goal 1 => subst x)) | (refine (have hx : State.Keeps msk s0 x.1 := ?_; ?_); (on_goal 2 => clear_value x); (on_goal 1 => subst x)) | clear_value x)
    | (with_reducible first
        | apply State.select_keeps | apply State.followMarker_keeps | apply State.missMarker_keeps | refine State.ite_keeps ?_ ?_
        | refine Io.ite_keeps ?_ ?_)
    | split
    | (with_reducible first
        | exact State.Keeps.io (by assumption) | fail_if_no_progress refine State.Keeps.io ?_)

theorem State.otherMarker_keeps {msk : Nat} {s0 : State} {s : State} {p payload t : Nat} (hk0 : State.Keeps msk s0 s) (hm : Sub 0x1000006069000000000000000000000000000000000000000000000000800000000000000000001ffc1c58000000040000278001 msk) :
    State.Keeps msk s0 (State.otherMarker s p payload t) := by
  unfold State.otherMarker
  repeat' first
    | with_reducible assumption | exact Sub.of hm rfl | exact Has.of hm rfl | intro _
    | (with_reducible first
        | apply State.select_keeps | apply State.on_keeps | apply Io.fireObj_keeps | apply State.followMarker_keeps | apply State.on_keeps
        | refine State.ite_keeps ?_ ?_ | refine Io.ite_keeps ?_ ?_)
    | split
    | (with_reducible first
        | exact State.Keeps.io (by assumption) | fail_if_no_progress refine State.Keeps.io ?_)

theorem State.countMarker_keeps {msk : Nat} {s0 : State} {s : State} {p payload t : Nat} (hk0 : State.Keeps msk s0 s) (hm : Sub 0x1000006069000000000000000000000000000000000000000000000010000000000000000000001ffc1c58000000000000a78001 msk) :
    State.Keeps msk s0 (State.countMarker s p payload t) := by
  unfold State.countMarker
  repeat' first
    | with_reducible assumption | exact Sub.of hm rfl | exact Has.of hm rfl | intro _
    | (extract_lets +onlyGivenNames x; first | (refine (have hx : State.Keeps msk s0 x := ?_; ?_); (on_goal 2 => clear_value x); (on_goal 1 => subst x)) | (refine (have hx : State.Keeps msk s0 x.1 := ?_; ?_); (on_goal 2 => clear_value x); (on_goal 1 => subst x)) | clear_value x)
    | (with_reducible first
        | apply State.on_keeps | apply Io.at_keeps | apply State.cwError_keeps | apply State.setPortRun_keeps | apply State.on_keeps
        | refine State.ite_keeps ?_ ?_ | refine Io.ite_keeps ?_ ?_)
    | split
    | (with_reducible first
        | exact State.Keeps.io (by assumption) | fail_if_no_progress refine State.Keeps.io ?_)

theorem State.markerReceived_keeps {msk : Nat} {s0 : State} {s : State} {p payload t : Nat} (hk0 : State.Keeps msk s0 s) (hm : Sub 0x1000006069000000000000000000000000000000000000000000000010800000000000000000001ffc1c58000400040000a78001 msk) :
    State.Keeps msk s0 (State.markerReceived s p payload t) := by
  unfold State.markerReceived
  repeat' first
    | with_reducible assumption | exact Sub.of hm rfl | exact Has.of hm rfl | intro _
    | (extract_lets +onlyGivenNames x; first | (refine (have hx : State.Keeps msk s0 x := ?_; ?_); (on_goal 2 => clear_value x); (on_goal 1 => subst x)) | (refine (have hx : State.Keeps msk s0 x.1 := ?_; ?_); (on_goal 2 => clear_value x); (on_goal 1 => subst x)) | clear_value x)
    | (with_reducible first
        | apply State.countMarker_keeps | apply State.ownMarker_keeps | apply State.otherMarker_keeps | apply State.repeatWord_keeps
        | refine State.ite_keeps ?_ ?_ | refine Io.ite_keeps ?_ ?_)
    | split
    | (with_reducible first
        | exact State.Keeps.io (by assumption) | fail_if_no_progress refine State.Keeps.io ?_)

theorem State.markerMissing_keeps {msk : Nat} {s0 : State} {s : State} {p : Nat} (hk0 : State.Keeps msk s0 s) (hm : Sub 0x1000006069000000000000000000000000000000000000000000000000000000000000000000001ffc1c58000400040000278001 msk) :
    State.Keeps msk s0 (State.markerMissing s p) := by
  unfold State.markerMissing
  repeat' first
    | with_reducible assumption | exact Sub.of hm rfl | exact Has.of hm rfl | intro _
    | (extract_lets +onlyGivenNames x; first | (refine (have hx : State.Keeps msk s0 x := ?_; ?_); (on_goal 2 => clear_value x); (on_goal 1 => subst x)) | (refine (have hx : State.Keeps msk s0 x.1 := ?_; ?_); (on_goal 2 => clear_value x); (on_goal 1 => subst x)) | clear_value x)
    | (with_reducible first
        | apply State.setPortRun_keeps | apply State.missMarker_keeps | refine State.ite_keeps ?_ ?_ | refine Io.ite_keeps ?_ ?_)
    | split
    | (with_reducible first
        | refine State.Keeps.fst (by assumption) ?_ | exact State.Keeps.io (by assumption) | fail_if_no_progress refine State.Keeps.io ?_)

theorem State.queueBulk_keeps {msk : Nat} {s0 : State} {s : State} {chain : Nat} {bs : List Byte} (hk0 : State.Keeps msk s0 s) (hm : Sub 0x2 msk) :
    State.Keeps msk s0 (State.queueBulk s chain bs) := by
  unfold State.queueBulk
  repeat' first
    | with_reducible assumption | exact Sub.of hm rfl | exact Has.of hm rfl | intro _
    | (extract_lets +onlyGivenNames x; first | (refine (have hx : State.Keeps msk s0 x := ?_; ?_); (on_goal 2 => clear_value x); (on_goal 1 => subst x)) | (refine (have hx : State.Keeps msk s0 x.1 := ?_; ?_); (on_goal 2 => clear_value x); (on_goal 1 => subst x)) | (refine (have hx : Io.Keeps msk s0.io x := ?_; ?_); (on_goal 2 => clear_value x); (on_goal 1 => subst x)) | (refine (have hx : Io.Keeps msk s0.io x.1 := ?_; ?_); (on_goal 2 => clear_value x); (on_goal 1 => subst x)) | (refine (have hx : ∀ y, State.Keeps msk s0 (x y) := ?_; ?_); (on_goal 2 => clear_value x); (on_goal 1 => subst x)) | (refine (have hx : ∀ y, State.Keeps msk s0 (x y).1 := ?_; ?_); (on_goal 2 => clear_value x); (on_goal 1 => subst x)) | clear_value x)
    | (with_reducible first
        | apply hx | refine State.Keeps.fst (by assumption) ?_ | refine Io.Keeps.fst (by assumption) ?_
        | exact State.Keeps.io (by assumption) | fail_if_no_progress refine State.Keeps.io ?_
        | fail_if_no_progress refine State.mk_keeps ?_ ?_ | fail_if_no_progress refine Io.mk_keeps ?_)

theorem State.queueReturn_keeps {msk : Nat} {s0 : State} {s : State} {ptype : Nat} {payload : List Byte} (hk0 : State.Keeps msk s0 s) (hm : Sub 0x2 msk) :
    State.Keeps msk s0 (State.queueReturn s ptype payload) := by
  unfold State.queueReturn
  repeat' first
    | with_reducible assumption | exact Sub.of hm rfl | exact Has.of hm rfl | intro _
    | (extract_lets +onlyGivenNames x; first | (refine (have hx : State.Keeps msk s0 x := ?_; ?_); (on_goal 2 => clear_value x); (on_goal 1 => subst x)) | (refine (have hx : State.Keeps msk s0 x.1 := ?_; ?_); (on_goal 2 => clear_value x); (on_goal 1 => subst x)) | (refine (have hx : Io.Keeps msk s0.io x := ?_; ?_); (on_goal 2 => clear_value x); (on_goal 1 => subst x)) | (refine (have hx : Io.Keeps msk s0.io x.1 := ?_; ?_); (on_goal 2 => clear_value x); (on_goal 1 => subst x)) | (refine (have hx : ∀ y, State.Keeps msk s0 (x y) := ?_; ?_); (on_goal 2 => clear_value x); (on_goal 1 => subst x)) | (refine (have hx : ∀ y, State.Keeps msk s0 (x y).1 := ?_; ?_); (on_goal 2 => clear_value x); (on_goal 1 => subst x)) | clear_value x)
    | with_reducible apply hx | split
    | (with_reducible first
        | refine State.Keeps.fst (by assumption) ?_ | refine Io.Keeps.fst (by assumption) ?_ | exact State.Keeps.io (by assumption)
        | fail_if_no_progress refine State.Keeps.io ?_ | fail_if_no_progress refine State.mk_keeps ?_ ?_
        | fail_if_no_progress refine Io.mk_keeps ?_)

theorem State.sendProbe_keeps {msk : Nat} {s0 : State} {s : State} {p t1 : Nat} (hk0 : State.Keeps msk s0 s) (hm : Sub 0x200001 msk) :
    State.Keeps msk s0 (State.sendProbe s p t1) := by
  unfold State.sendProbe
  repeat' first
    | with_reducible assumption | exact Sub.of hm rfl | exact Has.of hm rfl | intro _
    | (extract_lets +onlyGivenNames x; first | (refine (have hx : State.Keeps msk s0 x := ?_; ?_); (on_goal 2 => clear_value x); (on_goal 1 => subst x)) | (refine (have hx : State.Keeps msk s0 x.1 := ?_; ?_); (on_goal 2 => clear_value x); (on_goal 1 => subst x)) | clear_value x)
    | (with_reducible first
        | apply State.on_keeps | apply Io.emit_keeps | apply State.emit_keeps | apply State.on_keeps | exact State.Keeps.io (by assumption)
        | fail_if_no_progress refine State.Keeps.io ?_ | fail_if_no_progress refine State.mk_keeps ?_ ?_
        | fail_if_no_progress refine Io.mk_keeps ?_)

theorem State.probeReceived_keeps {msk : Nat} {s0 : State} {s : State} {p payload t2 t3 : Nat} (hk0 : State.Keeps msk s0 s) (hm : Sub 0x1000006069000000000000000000000000000000000000000000000010000000000000000000001ffc1c58000000000000278002 msk) :
    State.Keeps msk s0 (State.probeReceived s p payload t2 t3) := by
  unfold State.probeReceived
  repeat' first
    | with_reducible assumption | exact Sub.of hm rfl | exact Has.of hm rfl | intro _
    | (extract_lets +onlyGivenNames x; first | (refine (have hx : State.Keeps msk s0 x := ?_; ?_); (on_goal 2 => clear_value x); (on_goal 1 => subst x)) | (refine (have hx : State.Keeps msk s0 x.1 := ?_; ?_); (on_goal 2 => clear_value x); (on_goal 1 => subst x)) | clear_value x)
    | (with_reducible first
        | apply State.cwError_keeps | apply State.repeatWord_keeps | apply State.queueReturn_keeps | apply State.on_keeps
        | apply Io.emit_keeps | apply State.emit_keeps | apply State.on_keeps | refine State.ite_keeps ?_ ?_ | refine Io.ite_keeps ?_ ?_)
    | split
    | (with_reducible first
        | exact State.Keeps.io (by assumption) | fail_if_no_progress refine State.Keeps.io ?_)

theorem execProbeReceived_keeps {msk : Nat} {s0 : State} {port payload t2 t3 : Nat} {s : State} (hk0 : State.Keeps msk s0 s) (hm : Sub 0x1000006069000000000000000000000000000000000000000000000010000000000000000000001ffc1c58000000000000278002 msk) :
    Result.Keeps msk s0 (execProbeReceived port payload t2 t3 s) := by
  unfold execProbeReceived
  repeat' first
    | with_reducible assumption | exact Sub.of hm rfl | exact Has.of hm rfl | intro _
    | (with_reducible first
        | refine Result.next_keeps ?_ | apply State.probeReceived_keeps)

theorem State.echoDelay_keeps {msk : Nat} {s0 : State} {s : State} {chain pos turn h t4 : Nat} (hk0 : State.Keeps msk s0 s) (hm : Sub 0x100000606900000000000000006c800000000000000000000000000000000000000000000000001ffc1c58001800000000279003 msk) :
    State.Keeps msk s0 (State.echoDelay s chain pos turn h t4) := by
  unfold State.echoDelay
  repeat' first
    | with_reducible assumption | exact Sub.of hm rfl | exact Has.of hm rfl | intro _ | exact RegOf.TCK_END_DELAY _
    | exact RegOf.TCK_HOP_DELAY _ _
    | (extract_lets +onlyGivenNames x; first | (refine (have hx : State.Keeps msk s0 x := ?_; ?_); (on_goal 2 => clear_value x); (on_goal 1 => subst x)) | (refine (have hx : State.Keeps msk s0 x.1 := ?_; ?_); (on_goal 2 => clear_value x); (on_goal 1 => subst x)) | clear_value x)
    | (with_reducible first
        | apply State.measured_keeps | apply Io.take_keeps | apply Io.emit_keeps | apply State.emit_keeps | apply Io.setF_keeps
        | apply State.setF_keeps | apply State.on_keeps | apply Io.fireObj_keeps | apply State.queueBulk_keeps | apply State.on_keeps
        | refine State.ite_keeps ?_ ?_ | refine Io.ite_keeps ?_ ?_)
    | split
    | (with_reducible first
        | refine State.Keeps.fst (by assumption) ?_ | exact State.Keeps.io (by assumption) | fail_if_no_progress refine State.Keeps.io ?_
        | fail_if_no_progress refine State.mk_keeps ?_ ?_ | fail_if_no_progress refine Io.mk_keeps ?_)

theorem State.takeDelays_keeps {msk : Nat} {s0 : State} {s : State} {payload : List Byte} (hk0 : State.Keeps msk s0 s) (hm : Sub 0x180000000000001 msk) :
    State.Keeps msk s0 (State.takeDelays s payload) := by
  unfold State.takeDelays
  repeat' first
    | with_reducible assumption | exact Sub.of hm rfl | exact Has.of hm rfl | intro _ | exact RegOf.TCK_DELAY_A
    | exact RegOf.TCK_DELAY_B
    | (extract_lets +onlyGivenNames x; first | (refine (have hx : State.Keeps msk s0 x := ?_; ?_); (on_goal 2 => clear_value x); (on_goal 1 => subst x)) | (refine (have hx : State.Keeps msk s0 x.1 := ?_; ?_); (on_goal 2 => clear_value x); (on_goal 1 => subst x)) | clear_value x)
    | (with_reducible first
        | apply State.on_keeps | apply Io.setF_keeps | apply State.setF_keeps | apply State.on_keeps | refine State.ite_keeps ?_ ?_
        | refine Io.ite_keeps ?_ ?_)
    | split
    | (with_reducible first
        | exact State.Keeps.io (by assumption) | fail_if_no_progress refine State.Keeps.io ?_
        | fail_if_no_progress refine State.mk_keeps ?_ ?_ | fail_if_no_progress refine Io.mk_keeps ?_)

theorem State.enumSend_keeps {msk : Nat} {s0 : State} {s : State} {p t : Nat} (hk0 : State.Keeps msk s0 s) (hm : Sub 0xa00002 msk) :
    State.Keeps msk s0 (State.enumSend s p t) := by
  unfold State.enumSend
  repeat' first
    | with_reducible assumption | exact Sub.of hm rfl | exact Has.of hm rfl | intro _
    | (extract_lets +onlyGivenNames x; first | (refine (have hx : State.Keeps msk s0 x := ?_; ?_); (on_goal 2 => clear_value x); (on_goal 1 => subst x)) | (refine (have hx : State.Keeps msk s0 x.1 := ?_; ?_); (on_goal 2 => clear_value x); (on_goal 1 => subst x)) | clear_value x)
    | (with_reducible first
        | apply State.on_keeps | apply Io.at_keeps | apply Io.emit_keeps | apply State.emit_keeps | apply State.on_keeps
        | refine State.ite_keeps ?_ ?_ | refine Io.ite_keeps ?_ ?_)
    | split
    | (with_reducible first
        | refine State.Keeps.fst (by assumption) ?_ | exact State.Keeps.io (by assumption) | fail_if_no_progress refine State.Keeps.io ?_
        | fail_if_no_progress refine State.mk_keeps ?_ ?_ | fail_if_no_progress refine Io.mk_keeps ?_)

theorem State.passEnum_keeps {msk : Nat} {s0 : State} {s : State} {p payload : Nat} (hk0 : State.Keeps msk s0 s) (hm : Sub 0x200002 msk) :
    State.Keeps msk s0 (State.passEnum s p payload) := by
  unfold State.passEnum
  repeat' first
    | with_reducible assumption | exact Sub.of hm rfl | exact Has.of hm rfl | intro _
    | (extract_lets +onlyGivenNames x; first | (refine (have hx : State.Keeps msk s0 x := ?_; ?_); (on_goal 2 => clear_value x); (on_goal 1 => subst x)) | (refine (have hx : State.Keeps msk s0 x.1 := ?_; ?_); (on_goal 2 => clear_value x); (on_goal 1 => subst x)) | clear_value x)
    | (with_reducible first
        | apply State.on_keeps | apply Io.emit_keeps | apply State.emit_keeps | apply State.on_keeps | refine State.ite_keeps ?_ ?_
        | refine Io.ite_keeps ?_ ?_)
    | split
    | (with_reducible first
        | exact State.Keeps.io (by assumption) | fail_if_no_progress refine State.Keeps.io ?_
        | fail_if_no_progress refine State.mk_keeps ?_ ?_ | fail_if_no_progress refine Io.mk_keeps ?_)

theorem State.checkAddress_keeps {msk : Nat} {s0 : State} {s : State} {chain pos hi : Nat} (hk0 : State.Keeps msk s0 s) (hm : Sub 0x1000006069000000000000000000000000000000000000000000000000000000000000000000001ffc1c58000000000000278000 msk) :
    State.Keeps msk s0 (State.checkAddress s chain pos hi) := by
  unfold State.checkAddress
  repeat' first
    | with_reducible assumption | exact Sub.of hm rfl | exact Has.of hm rfl | intro _
    | (extract_lets +onlyGivenNames x; first | (refine (have hx : State.Keeps msk s0 x := ?_; ?_); (on_goal 2 => clear_value x); (on_goal 1 => subst x)) | (refine (have hx : State.Keeps msk s0 x.1 := ?_; ?_); (on_goal 2 => clear_value x); (on_goal 1 => subst x)) | clear_value x)
    | (with_reducible first
        | apply State.on_keeps | apply Io.fire_keeps | apply State.fire_keeps | apply State.on_keeps | refine State.ite_keeps ?_ ?_
        | refine Io.ite_keeps ?_ ?_)
    | split
    | (with_reducible first
        | exact State.Keeps.io (by assumption) | fail_if_no_progress refine State.Keeps.io ?_)

theorem State.takeAddress_keeps {msk : Nat} {s0 : State} {s : State} {p chain pos endB hi : Nat} (hk0 : State.Keeps msk s0 s) (hm : Sub 0x1000006069000000000000000000000000000000000000000000000000000000000000000000001ffc1c58000000180200278001 msk) :
    State.Keeps msk s0 (State.takeAddress s p chain pos endB hi) := by
  unfold State.takeAddress
  repeat' first
    | with_reducible assumption | exact Sub.of hm rfl | exact Has.of hm rfl | intro _ | exact RegOf.CTL_TILE_ADDR
    | exact RegOf.TCK_COUNT_HI | exact RegOf.TCK_COUNT_LO
    | (extract_lets +onlyGivenNames x; first | (refine (have hx : State.Keeps msk s0 x := ?_; ?_); (on_goal 2 => clear_value x); (on_goal 1 => subst x)) | (refine (have hx : State.Keeps msk s0 x.1 := ?_; ?_); (on_goal 2 => clear_value x); (on_goal 1 => subst x)) | clear_value x)
    | (with_reducible first
        | apply State.on_keeps | apply Io.setReg_keeps | apply Io.setWide_keeps | apply Io.fire_keeps | apply State.fire_keeps
        | apply State.on_keeps | refine State.ite_keeps ?_ ?_ | refine Io.ite_keeps ?_ ?_)
    | split
    | (with_reducible first
        | exact State.Keeps.io (by assumption) | fail_if_no_progress refine State.Keeps.io ?_
        | fail_if_no_progress refine State.mk_keeps ?_ ?_ | fail_if_no_progress refine Io.mk_keeps ?_)

theorem State.enumReceived_keeps {msk : Nat} {s0 : State} {s : State} {p payload : Nat} (hk0 : State.Keeps msk s0 s) (hm : Sub 0x1000006069000000000000000000000000000000000000000000000010000000000000000000001ffc1c58000000180200278003 msk) :
    State.Keeps msk s0 (State.enumReceived s p payload) := by
  unfold State.enumReceived
  repeat' first
    | with_reducible assumption | exact Sub.of hm rfl | exact Has.of hm rfl | intro _
    | (extract_lets +onlyGivenNames x; first | (refine (have hx : State.Keeps msk s0 x := ?_; ?_); (on_goal 2 => clear_value x); (on_goal 1 => subst x)) | clear_value x)
    | (with_reducible first
        | apply State.cwError_keeps | apply State.repeatWord_keeps | apply State.passEnum_keeps | apply State.on_keeps | apply Io.fire_keeps
        | apply State.fire_keeps | apply State.checkAddress_keeps | apply State.takeAddress_keeps | apply State.on_keeps
        | refine State.ite_keeps ?_ ?_ | refine Io.ite_keeps ?_ ?_)
    | split
    | (with_reducible first
        | refine State.Keeps.fst (by assumption) ?_ | exact State.Keeps.io (by assumption) | fail_if_no_progress refine State.Keeps.io ?_
        | fail_if_no_progress refine State.mk_keeps ?_ ?_ | fail_if_no_progress refine Io.mk_keeps ?_)

theorem State.laneEdge_keeps {m : Nat} {s0 s t : State} {l : Nat} (h : State.Keeps m s0 t) (hm : Sub 0x1000006069000000000000000000000000000000000000000000000000000000000000000000001ffc1c58000000000000278000 m) :
    State.Keeps m s0 (s.laneEdge t l) := by
  unfold State.laneEdge
  split
  · split
    · exact State.on_keeps h (fun io k => Io.pulse_keeps k (Sub.of hm rfl))
    · exact h
  · exact h

/-- The register of a BUSY bit. -/
theorem busyBit_reg {m n l : Nat} {b : Field × Nat} (e : busyBit n l = some b) (hm : Sub 0x1000006069000000000000000000000000000000000400000000000000000040002000000000001ffc1c58000000000000278001 m) : ∃ p, RegOf p b.1.reg ∧ Has p m := by
  unfold busyBit at e
  split at e
  · cases e; exact ⟨_, RegOf.ENC_CELL_STAT _, Has.of hm rfl⟩
  · split at e
    · cases e; exact ⟨_, RegOf.DEC_CELL_STAT _, Has.of hm rfl⟩
    · split at e
      · cases e; exact ⟨_, RegOf.LMP_CELL_STAT _, Has.of hm rfl⟩
      · cases e

theorem State.setLane_keeps {m : Nat} {s0 s : State} {e : Lane} (h : State.Keeps m s0 s) (hm : Sub 0x1000006069000000000000000000000000000000000400000000000000000040002000000000001ffc1c58000000000000278001 m) :
    State.Keeps m s0 (s.setLane e) := by
  unfold State.setLane
  extract_lets was src s1
  have h1 : State.Keeps m s0 s1 := State.mk_keeps h h.io
  clear_value s1
  split
  · next f i eb =>
    obtain ⟨p, hr, hp⟩ := busyBit_reg eb hm
    exact State.laneEdge_keeps (State.on_keeps h1 (fun io k => Io.setF_keeps k hr hp)) (Sub.of hm rfl)
  · exact State.laneEdge_keeps h1 (Sub.of hm rfl)

theorem State.idleLanes_keeps {msk : Nat} {s0 : State} {s : State} {n : Nat} {ls : List Nat} (hk0 : State.Keeps msk s0 s) (hm : Sub 0x1000006069000000000000000000000000000000000400000000000000000040002000000000001ffc1c58020000040000278001 msk) :
    State.Keeps msk s0 (State.idleLanes s n ls) := by
  unfold State.idleLanes
  repeat' first
    | with_reducible assumption | exact Sub.of hm rfl | exact Has.of hm rfl | intro _
    | (extract_lets +onlyGivenNames x; first | (refine (have hx : State.Keeps msk s0 x := ?_; ?_); (on_goal 2 => clear_value x); (on_goal 1 => subst x)) | (refine (have hx : State.Keeps msk s0 x.1 := ?_; ?_); (on_goal 2 => clear_value x); (on_goal 1 => subst x)) | clear_value x)
    | (with_reducible first
        | apply State.setLane_keeps | apply State.finishSwitch_keeps | apply State.foldl_keeps | apply State.foldl_keeps_fst
        | refine State.ite_keeps ?_ ?_)
    | split
    | (with_reducible first
        | refine State.Keeps.fst (by assumption) ?_ | fail_if_no_progress refine State.mk_keeps ?_ ?_)

theorem State.withdrawSlot_keeps {msk : Nat} {s0 : State} {s : State} {n l slot : Nat} (hk0 : State.Keeps msk s0 s) (hm : Sub 0x10200 msk) :
    State.Keeps msk s0 (State.withdrawSlot s n l slot) := by
  unfold State.withdrawSlot
  repeat' first
    | with_reducible assumption | exact Sub.of hm rfl | exact Has.of hm rfl | intro _
    | (extract_lets +onlyGivenNames x; first | (refine (have hx : State.Keeps msk s0 x := ?_; ?_); (on_goal 2 => clear_value x); (on_goal 1 => subst x)) | clear_value x)
    | (with_reducible first
        | apply Io.withdraw_keeps | exact State.Keeps.io (by assumption) | fail_if_no_progress refine State.Keeps.io ?_
        | fail_if_no_progress refine State.mk_keeps ?_ ?_ | fail_if_no_progress refine Io.mk_keeps ?_)

theorem State.cutLane_keeps {msk : Nat} {s0 : State} {s : State} {n l : Nat} (hk0 : State.Keeps msk s0 s) (hm : Sub 0x1000006069000000000000000000000000000000000400000000000000000040002000000000001ffc1c58010000000000278201 msk) :
    State.Keeps msk s0 (State.cutLane s n l) := by
  unfold State.cutLane
  repeat' first
    | with_reducible assumption | exact Sub.of hm rfl | exact Has.of hm rfl | intro _ | exact RegOf.TCK_CUT_COUNT _
    | (extract_lets +onlyGivenNames x; first | (refine (have hx : State.Keeps msk s0 x := ?_; ?_); (on_goal 2 => clear_value x); (on_goal 1 => subst x)) | (refine (have hx : State.Keeps msk s0 x.1 := ?_; ?_); (on_goal 2 => clear_value x); (on_goal 1 => subst x)) | clear_value x)
    | (with_reducible first
        | apply State.withdrawSlot_keeps | apply State.setLane_keeps | apply State.on_keeps | apply Io.bumpF_keeps | apply State.bumpF_keeps
        | apply Io.fireObj_keeps | apply State.on_keeps)
    | split
    | (with_reducible first
        | refine State.Keeps.fst (by assumption) ?_ | exact State.Keeps.io (by assumption) | fail_if_no_progress refine State.Keeps.io ?_
        | fail_if_no_progress refine State.mk_keeps ?_ ?_ | fail_if_no_progress refine Io.mk_keeps ?_)

theorem State.showLate_keeps {msk : Nat} {s0 : State} {s : State} {n : Nat} (hk0 : State.Keeps msk s0 s) (hm : Sub 0x2000000000000000 msk) :
    State.Keeps msk s0 (State.showLate s n) := by
  unfold State.showLate
  repeat' first
    | with_reducible assumption | exact Sub.of hm rfl | exact Has.of hm rfl | intro _ | exact RegOf.TCK_SLOT_STAT _
    | (with_reducible first
        | apply State.on_keeps | apply Io.setF_keeps | apply State.setF_keeps | apply State.on_keeps | exact State.Keeps.io (by assumption)
        | fail_if_no_progress refine State.Keeps.io ?_)

theorem State.startElastic_keeps {msk : Nat} {s0 : State} {s : State} {n i : Nat} {sl : Slot} {late : Bool} (hk0 : State.Keeps msk s0 s) (hm : Sub 0x1000006069000000000000000000000000000000000400000000000000000040002000000000001ffc1c58000000000000278001 msk) :
    State.Keeps msk s0 (State.startElastic s n i sl late) := by
  unfold State.startElastic
  repeat' first
    | with_reducible assumption | exact Sub.of hm rfl | exact Has.of hm rfl | intro _
    | (extract_lets +onlyGivenNames x; first | (refine (have hx : State.Keeps msk s0 x := ?_; ?_); (on_goal 2 => clear_value x); (on_goal 1 => subst x)) | (refine (have hx : State.Keeps msk s0 x.1 := ?_; ?_); (on_goal 2 => clear_value x); (on_goal 1 => subst x)) | clear_value x)
    | (with_reducible first
        | apply State.setLane_keeps | refine State.ite_keeps ?_ ?_)
    | split | with_reducible fail_if_no_progress refine State.mk_keeps ?_ ?_

theorem State.startFixed_keeps {msk : Nat} {s0 : State} {s : State} {n : Nat} {sl : Slot} (hk0 : State.Keeps msk s0 s) (hm : Sub 0x1000006069000000000000000000000000000000000400000000000000000040002000000000001ffc1c58032000040000278201 msk) :
    State.Keeps msk s0 (State.startFixed s n sl) := by
  unfold State.startFixed
  repeat' first
    | with_reducible assumption | exact Sub.of hm rfl | exact Has.of hm rfl | intro _
    | (extract_lets +onlyGivenNames x; first | (refine (have hx : State.Keeps msk s0 x := ?_; ?_); (on_goal 2 => clear_value x); (on_goal 1 => subst x)) | (refine (have hx : State.Keeps msk s0 x.1 := ?_; ?_); (on_goal 2 => clear_value x); (on_goal 1 => subst x)) | clear_value x)
    | (with_reducible first
        | apply State.cutLane_keeps | apply State.setLane_keeps | apply State.showLate_keeps | apply State.finishSwitch_keeps)
    | split

theorem State.startSlot_keeps {msk : Nat} {s0 : State} {s : State} {n i : Nat} {elastic : Bool} {late : Bool} (hk0 : State.Keeps msk s0 s) (hm : Sub 0x1000006069000000000000000000000000000000000400000000000000000040002000000000001ffc1c58032000040000278201 msk) :
    State.Keeps msk s0 (State.startSlot s n i elastic late) := by
  unfold State.startSlot
  repeat' first
    | with_reducible assumption | exact Sub.of hm rfl | exact Has.of hm rfl | intro _ | exact RegOf.TCK_SLOT_STAT _
    | (extract_lets +onlyGivenNames x; first | (refine (have hx : State.Keeps msk s0 x := ?_; ?_); (on_goal 2 => clear_value x); (on_goal 1 => subst x)) | (refine (have hx : State.Keeps msk s0 x.1 := ?_; ?_); (on_goal 2 => clear_value x); (on_goal 1 => subst x)) | clear_value x)
    | (with_reducible first
        | apply State.on_keeps | apply Io.setF_keeps | apply State.setF_keeps | apply State.startElastic_keeps
        | apply State.startFixed_keeps | apply State.on_keeps | refine State.ite_keeps ?_ ?_ | refine Io.ite_keeps ?_ ?_)
    | split
    | (with_reducible first
        | refine State.Keeps.fst (by assumption) ?_ | exact State.Keeps.io (by assumption) | fail_if_no_progress refine State.Keeps.io ?_
        | fail_if_no_progress refine State.mk_keeps ?_ ?_ | fail_if_no_progress refine Io.mk_keeps ?_)

theorem State.startKind_keeps {msk : Nat} {s0 : State} {s : State} {n kind lane : Nat} (hk0 : State.Keeps msk s0 s) (hm : Sub 0x1000006069000000000000000000000000000000000400000000000000000040002000000000001ffc1c58032000040000278201 msk) :
    State.Keeps msk s0 (State.startKind s n kind lane) := by
  unfold State.startKind
  repeat' first
    | with_reducible assumption | exact Sub.of hm rfl | exact Has.of hm rfl | intro _
    | (extract_lets +onlyGivenNames x; first | (refine (have hx : State.Keeps msk s0 x := ?_; ?_); (on_goal 2 => clear_value x); (on_goal 1 => subst x)) | clear_value x)
    | with_reducible apply State.startSlot_keeps | split
    | (with_reducible first
        | refine State.Keeps.fst (by assumption) ?_ | fail_if_no_progress refine State.mk_keeps ?_ ?_)

theorem State.slotEnd_keeps {msk : Nat} {s0 : State} {s : State} {n : Nat} {e : Lane} {r : Running} {fin : Nat} (hk0 : State.Keeps msk s0 s) (hm : Sub 0x1000006069000000000000000000000000000000000400000000000000000040002000000000001ffc1c5802a000040000278001 msk) :
    State.Keeps msk s0 (State.slotEnd s n e r fin) := by
  unfold State.slotEnd
  repeat' first
    | with_reducible assumption | exact Sub.of hm rfl | exact Has.of hm rfl | intro _ | exact RegOf.TCK_OVERRUN_COUNT _
    | (extract_lets +onlyGivenNames x; first | (refine (have hx : State.Keeps msk s0 x := ?_; ?_); (on_goal 2 => clear_value x); (on_goal 1 => subst x)) | (refine (have hx : State.Keeps msk s0 x.1 := ?_; ?_); (on_goal 2 => clear_value x); (on_goal 1 => subst x)) | clear_value x)
    | (with_reducible first
        | apply State.setLane_keeps | apply State.showLate_keeps | apply State.on_keeps | apply Io.bumpF_keeps | apply State.bumpF_keeps
        | apply Io.fireObj_keeps | apply State.finishSwitch_keeps | apply State.on_keeps | refine State.ite_keeps ?_ ?_
        | refine Io.ite_keeps ?_ ?_)
    | split
    | (with_reducible first
        | exact State.Keeps.io (by assumption) | fail_if_no_progress refine State.Keeps.io ?_
        | fail_if_no_progress refine State.mk_keeps ?_ ?_ | fail_if_no_progress refine Io.mk_keeps ?_)

theorem State.slotComplete_keeps {msk : Nat} {s0 : State} {s : State} {n i fin : Nat} (hk0 : State.Keeps msk s0 s) (hm : Sub 0x1000006069000000000000000000000000000000000400000000000000000040002000000000001ffc1c5802a000040000278001 msk) :
    State.Keeps msk s0 (State.slotComplete s n i fin) := by
  unfold State.slotComplete
  repeat' first
    | with_reducible assumption | exact Sub.of hm rfl | exact Has.of hm rfl | intro _
    | (extract_lets +onlyGivenNames x; first | (refine (have hx : State.Keeps msk s0 x := ?_; ?_); (on_goal 2 => clear_value x); (on_goal 1 => subst x)) | clear_value x)
    | with_reducible apply State.slotEnd_keeps | split
    | (with_reducible first
        | refine State.Keeps.fst (by assumption) ?_ | fail_if_no_progress refine State.mk_keeps ?_ ?_)

theorem execElasticSlotComplete_keeps {msk : Nat} {s0 : State} {region slot fin : Nat} {s : State} (hk0 : State.Keeps msk s0 s) (hm : Sub 0x1000006069000000000000000000000000000000000400000000000000000040002000000000001ffc1c5802a000040000278001 msk) :
    Result.Keeps msk s0 (execElasticSlotComplete region slot fin s) := by
  unfold execElasticSlotComplete
  repeat' first
    | with_reducible assumption | exact Sub.of hm rfl | exact Has.of hm rfl | intro _
    | (with_reducible first
        | refine Result.next_keeps ?_ | apply State.slotComplete_keeps)

theorem execTickMarkerSend_keeps {msk : Nat} {s0 : State} {port offset : Nat} {s : State} (hk0 : State.Keeps msk s0 s) (hm : Sub 0x1000006069000000000000000000000000000000000400000000000000000040002000000000001ffc1c58032000040000278201 msk) :
    Result.Keeps msk s0 (execTickMarkerSend port offset s) := by
  unfold execTickMarkerSend
  repeat' first
    | with_reducible assumption | exact Sub.of hm rfl | exact Has.of hm rfl | intro _
    | (extract_lets +onlyGivenNames x; first | (refine (have hx : State.Keeps msk s0 x := ?_; ?_); (on_goal 2 => clear_value x); (on_goal 1 => subst x)) | clear_value x)
    | (with_reducible first
        | refine Result.next_keeps ?_ | apply State.markerSend_keeps | apply State.startSlot_keeps | refine Result.ite_keeps ?_ ?_
        | refine State.ite_keeps ?_ ?_)
    | split
    | (with_reducible first
        | refine State.Keeps.fst (by assumption) ?_ | fail_if_no_progress refine State.mk_keeps ?_ ?_)

theorem execDelayProbe_keeps {msk : Nat} {s0 : State} {port position t1 : Nat} {s : State} (hk0 : State.Keeps msk s0 s) (hm : Sub 0x1000006069000000000000000000000000000000000400000000000000000040002000000000001ffc1c58032000040000278201 msk) :
    Result.Keeps msk s0 (execDelayProbe port position t1 s) := by
  unfold execDelayProbe
  repeat' first
    | with_reducible assumption | exact Sub.of hm rfl | exact Has.of hm rfl | intro _
    | (extract_lets +onlyGivenNames x; first | (refine (have hx : State.Keeps msk s0 x := ?_; ?_); (on_goal 2 => clear_value x); (on_goal 1 => subst x)) | clear_value x)
    | (with_reducible first
        | refine Result.next_keeps ?_ | apply State.sendProbe_keeps | apply State.startSlot_keeps | refine Result.ite_keeps ?_ ?_
        | refine State.ite_keeps ?_ ?_)
    | split
    | (with_reducible first
        | refine State.Keeps.fst (by assumption) ?_ | fail_if_no_progress refine State.mk_keeps ?_ ?_)

end Sys2Proof.Machine
end

