-- ==== Sys2Proof/Laws/KeepsPairBase.lean ====
section
/-! SUPPORT. What the operations of Machine/PairBase.lean keep. -/

set_option linter.unusedTactic false
set_option linter.unreachableTactic false
set_option linter.tactic.unusedName false

set_option Elab.async false

namespace Sys2Proof.Machine

theorem State.onPair_keeps {msk : Nat} {s0 : State} {s : State} {f : PairUnit → PairUnit} (hk0 : State.Keeps msk s0 s) (hm : Sub 0x100 msk) :
    State.Keeps msk s0 (State.onPair s f) := by
  unfold State.onPair
  repeat' first
    | with_reducible assumption | exact Sub.of hm rfl | exact Has.of hm rfl | intro _
    | (extract_lets +onlyGivenNames x; first | (refine (have hx : State.Keeps msk s0 x := ?_; ?_); (on_goal 2 => clear_value x); (on_goal 1 => subst x)) | (refine (have hx : State.Keeps msk s0 x.1 := ?_; ?_); (on_goal 2 => clear_value x); (on_goal 1 => subst x)) | (refine (have hx : Io.Keeps msk s0.io x := ?_; ?_); (on_goal 2 => clear_value x); (on_goal 1 => subst x)) | (refine (have hx : Io.Keeps msk s0.io x.1 := ?_; ?_); (on_goal 2 => clear_value x); (on_goal 1 => subst x)) | (refine (have hx : ∀ y, State.Keeps msk s0 (x y) := ?_; ?_); (on_goal 2 => clear_value x); (on_goal 1 => subst x)) | (refine (have hx : ∀ y, State.Keeps msk s0 (x y).1 := ?_; ?_); (on_goal 2 => clear_value x); (on_goal 1 => subst x)) | clear_value x)
    | (with_reducible first
        | apply hx | refine State.Keeps.fst (by assumption) ?_ | refine Io.Keeps.fst (by assumption) ?_
        | exact State.Keeps.io (by assumption) | fail_if_no_progress refine State.Keeps.io ?_
        | fail_if_no_progress refine State.mk_keeps ?_ ?_ | fail_if_no_progress refine Io.mk_keeps ?_)

theorem State.excusePort_keeps {msk : Nat} {s0 : State} {s : State} {p : Nat} (hk0 : State.Keeps msk s0 s) (hm : Sub 0x100 msk) :
    State.Keeps msk s0 (State.excusePort s p) := by
  unfold State.excusePort
  repeat' first
    | with_reducible assumption | exact Sub.of hm rfl | exact Has.of hm rfl | intro _
    | (extract_lets +onlyGivenNames x; first | (refine (have hx : State.Keeps msk s0 x := ?_; ?_); (on_goal 2 => clear_value x); (on_goal 1 => subst x)) | clear_value x)
    | (with_reducible first
        | apply State.onPair_keeps | refine State.ite_keeps ?_ ?_)
    | split | with_reducible fail_if_no_progress refine State.mk_keeps ?_ ?_

theorem State.setPairState_keeps {msk : Nat} {s0 : State} {s : State} {st : Nat} (hk0 : State.Keeps msk s0 s) (hm : Sub 0x1000006069000000000000000000000000000000000000000000004000000000000000000000001ffc1c58000000040000278000 msk) :
    State.Keeps msk s0 (State.setPairState s st) := by
  unfold State.setPairState
  repeat' first
    | with_reducible assumption | exact Sub.of hm rfl | exact Has.of hm rfl | intro _ | exact RegOf.PAIR_STATE
    | (with_reducible first
        | apply Io.setF_keeps | apply State.setF_keeps | apply State.showSource_keeps | apply Io.fire_keeps | apply State.fire_keeps
        | refine State.ite_keeps ?_ ?_)
    | split

theorem State.sendPair_keeps {msk : Nat} {s0 : State} {s : State} {ptype : Nat} {body : List Byte} (hk0 : State.Keeps msk s0 s) (hm : Sub 0x200100 msk) :
    State.Keeps msk s0 (State.sendPair s ptype body) := by
  unfold State.sendPair
  repeat' first
    | with_reducible assumption | exact Sub.of hm rfl | exact Has.of hm rfl | intro _
    | (extract_lets +onlyGivenNames x; first | (refine (have hx : State.Keeps msk s0 x := ?_; ?_); (on_goal 2 => clear_value x); (on_goal 1 => subst x)) | (refine (have hx : State.Keeps msk s0 x.1 := ?_; ?_); (on_goal 2 => clear_value x); (on_goal 1 => subst x)) | clear_value x)
    | (with_reducible first
        | apply State.onPair_keeps | apply Io.emit_keeps | apply State.emit_keeps | refine State.ite_keeps ?_ ?_)
    | split | with_reducible fail_if_no_progress refine State.mk_keeps ?_ ?_

theorem State.sendPairAck_keeps {msk : Nat} {s0 : State} {s : State} {pseq : Nat} (hk0 : State.Keeps msk s0 s) (hm : Sub 0x200000 msk) :
    State.Keeps msk s0 (State.sendPairAck s pseq) := by
  unfold State.sendPairAck
  repeat' first
    | with_reducible assumption | exact Sub.of hm rfl | exact Has.of hm rfl | intro _
    | (with_reducible first
        | apply Io.emit_keeps | apply State.emit_keeps)

theorem State.takePair_keeps {msk : Nat} {s0 : State} {s : State} {payload : List Byte} (hk0 : State.Keeps msk s0 s) (hm : Sub 0x200100 msk) :
    State.Keeps msk s0 (State.takePair s payload).1 := by
  unfold State.takePair
  repeat' first
    | with_reducible assumption | exact Sub.of hm rfl | exact Has.of hm rfl | intro _
    | (extract_lets +onlyGivenNames x; first | (refine (have hx : State.Keeps msk s0 x := ?_; ?_); (on_goal 2 => clear_value x); (on_goal 1 => subst x)) | (refine (have hx : State.Keeps msk s0 x.1 := ?_; ?_); (on_goal 2 => clear_value x); (on_goal 1 => subst x)) | skip)
    | (with_reducible first
        | apply State.onPair_keeps | apply State.sendPairAck_keeps | refine State.ite_keeps ?_ ?_ | refine State.ite_keeps_fst ?_ ?_)
    | split | with_reducible fail_if_no_progress refine State.mk_keeps ?_ ?_

theorem State.joinPhase_keeps {msk : Nat} {s0 : State} {s : State} {p : Nat} (hk0 : State.Keeps msk s0 s) (hm : Sub 0x40000000000000000000000000000000000000000000000000 msk) :
    State.Keeps msk s0 (State.joinPhase s p) := by
  unfold State.joinPhase
  repeat' first
    | with_reducible assumption | exact Sub.of hm rfl | exact Has.of hm rfl | intro _ | exact RegOf.PAIR_STATE
    | (with_reducible first
        | apply Io.setF_keeps | apply State.setF_keeps)

theorem State.toJoining_keeps {msk : Nat} {s0 : State} {s : State} (hk0 : State.Keeps msk s0 s) (hm : Sub 0x1000006069000000000000000000000000000000000000000000024000000000000000000000001ffc1c58000000040000278100 msk) :
    State.Keeps msk s0 (State.toJoining s) := by
  unfold State.toJoining
  repeat' first
    | with_reducible assumption | exact Sub.of hm rfl | exact Has.of hm rfl | intro _ | exact RegOf.PAIR_CLEAN
    | (extract_lets +onlyGivenNames x; first | (refine (have hx : State.Keeps msk s0 x := ?_; ?_); (on_goal 2 => clear_value x); (on_goal 1 => subst x)) | (refine (have hx : State.Keeps msk s0 x.1 := ?_; ?_); (on_goal 2 => clear_value x); (on_goal 1 => subst x)) | clear_value x)
    | (with_reducible first
        | apply State.setPairState_keeps | apply State.joinPhase_keeps | apply Io.setF_keeps | apply State.setF_keeps
        | apply State.onPair_keeps)
    | split | with_reducible fail_if_no_progress refine State.mk_keeps ?_ ?_

theorem State.leaveLockstep_keeps {msk : Nat} {s0 : State} {s : State} (hk0 : State.Keeps msk s0 s) (hm : Sub 0x1000006069000000000000000000000000000000000000000000024000000000000000000000001ffc1c58000000040000278100 msk) :
    State.Keeps msk s0 (State.leaveLockstep s) := by
  unfold State.leaveLockstep
  repeat' first
    | with_reducible assumption | exact Sub.of hm rfl | exact Has.of hm rfl | intro _
    | (extract_lets +onlyGivenNames x; first | (refine (have hx : State.Keeps msk s0 x := ?_; ?_); (on_goal 2 => clear_value x); (on_goal 1 => subst x)) | (refine (have hx : State.Keeps msk s0 x.1 := ?_; ?_); (on_goal 2 => clear_value x); (on_goal 1 => subst x)) | clear_value x)
    | (with_reducible first
        | apply State.sendPair_keeps | apply State.toJoining_keeps | refine State.ite_keeps ?_ ?_)
    | split

theorem State.pairLost_keeps {msk : Nat} {s0 : State} {s : State} (hk0 : State.Keeps msk s0 s) (hm : Sub 0x1001006069000000000000000000000000000000000000000100024000000000000000000000001ffc1c58000000040000278100 msk) :
    State.Keeps msk s0 (State.pairLost s) := by
  unfold State.pairLost
  repeat' first
    | with_reducible assumption | exact Sub.of hm rfl | exact Has.of hm rfl | intro _ | exact RegOf.PAIR_LINK_LOSSES
    | exact RegOf.PAIR_STATE
    | (extract_lets +onlyGivenNames x; first | (refine (have hx : State.Keeps msk s0 x := ?_; ?_); (on_goal 2 => clear_value x); (on_goal 1 => subst x)) | (refine (have hx : State.Keeps msk s0 x.1 := ?_; ?_); (on_goal 2 => clear_value x); (on_goal 1 => subst x)) | clear_value x)
    | (with_reducible first
        | apply Io.setF_keeps | apply State.setF_keeps | apply Io.bumpF_keeps | apply State.bumpF_keeps | apply Io.fire_keeps
        | apply State.fire_keeps | apply State.onPair_keeps | apply State.alert_keeps | apply State.toJoining_keeps
        | refine State.ite_keeps ?_ ?_)
    | split | with_reducible fail_if_no_progress refine State.mk_keeps ?_ ?_

theorem State.resign_keeps {msk : Nat} {s0 : State} {s : State} (hk0 : State.Keeps msk s0 s) (hm : Sub 0x200140 msk) :
    State.Keeps msk s0 (State.resign s) := by
  unfold State.resign
  repeat' first
    | with_reducible assumption | exact Sub.of hm rfl | exact Has.of hm rfl | intro _
    | (extract_lets +onlyGivenNames x; first | (refine (have hx : State.Keeps msk s0 x := ?_; ?_); (on_goal 2 => clear_value x); (on_goal 1 => subst x)) | (refine (have hx : State.Keeps msk s0 x.1 := ?_; ?_); (on_goal 2 => clear_value x); (on_goal 1 => subst x)) | clear_value x)
    | (with_reducible first
        | apply State.sendPair_keeps | refine State.ite_keeps ?_ ?_ | refine Io.ite_keeps ?_ ?_)
    | split
    | (with_reducible first
        | exact State.Keeps.io (by assumption) | fail_if_no_progress refine State.Keeps.io ?_
        | fail_if_no_progress refine State.mk_keeps ?_ ?_ | fail_if_no_progress refine Io.mk_keeps ?_)

end Sys2Proof.Machine
end

