-- ==== Sys2Proof/Laws/KeepsLink.lean ====
section
/-! SUPPORT. What the operations of Machine/Link.lean keep. -/

set_option linter.unusedTactic false
set_option linter.unreachableTactic false
set_option linter.tactic.unusedName false

set_option Elab.async false

namespace Sys2Proof.Machine

theorem State.setPort_keeps {msk : Nat} {s0 : State} {s : State} {p : Nat} {v : Port} (hk0 : State.Keeps msk s0 s) (hm : Sub 0x2 msk) :
    State.Keeps msk s0 (State.setPort s p v) := by
  unfold State.setPort
  repeat' first
    | with_reducible assumption | exact Sub.of hm rfl | exact Has.of hm rfl | intro _
    | (extract_lets +onlyGivenNames x; first | (refine (have hx : State.Keeps msk s0 x := ?_; ?_); (on_goal 2 => clear_value x); (on_goal 1 => subst x)) | (refine (have hx : State.Keeps msk s0 x.1 := ?_; ?_); (on_goal 2 => clear_value x); (on_goal 1 => subst x)) | (refine (have hx : Io.Keeps msk s0.io x := ?_; ?_); (on_goal 2 => clear_value x); (on_goal 1 => subst x)) | (refine (have hx : Io.Keeps msk s0.io x.1 := ?_; ?_); (on_goal 2 => clear_value x); (on_goal 1 => subst x)) | (refine (have hx : ∀ y, State.Keeps msk s0 (x y) := ?_; ?_); (on_goal 2 => clear_value x); (on_goal 1 => subst x)) | (refine (have hx : ∀ y, State.Keeps msk s0 (x y).1 := ?_; ?_); (on_goal 2 => clear_value x); (on_goal 1 => subst x)) | clear_value x)
    | (with_reducible first
        | apply hx | refine State.Keeps.fst (by assumption) ?_ | refine Io.Keeps.fst (by assumption) ?_
        | exact State.Keeps.io (by assumption) | fail_if_no_progress refine State.Keeps.io ?_
        | fail_if_no_progress refine State.mk_keeps ?_ ?_ | fail_if_no_progress refine Io.mk_keeps ?_)

theorem State.startAttempts_keeps {msk : Nat} {s0 : State} {s : State} {p state : Nat} (hk0 : State.Keeps msk s0 s) (hm : Sub 0x8000000000000000000000000000000000000000200002 msk) :
    State.Keeps msk s0 (State.startAttempts s p state) := by
  unfold State.startAttempts
  repeat' first
    | with_reducible assumption | exact Sub.of hm rfl | exact Has.of hm rfl | intro _ | exact RegOf.LNK_STATE _ _
    | (extract_lets +onlyGivenNames x; first | (refine (have hx : State.Keeps msk s0 x := ?_; ?_); (on_goal 2 => clear_value x); (on_goal 1 => subst x)) | (refine (have hx : State.Keeps msk s0 x.1 := ?_; ?_); (on_goal 2 => clear_value x); (on_goal 1 => subst x)) | clear_value x)
    | (with_reducible first
        | apply State.portF_keeps | apply State.setPort_keeps | apply State.on_keeps | apply Io.emit_keeps | apply State.emit_keeps
        | apply State.on_keeps | exact State.Keeps.io (by assumption) | fail_if_no_progress refine State.Keeps.io ?_
        | fail_if_no_progress refine State.mk_keeps ?_ ?_ | fail_if_no_progress refine Io.mk_keeps ?_)

theorem State.retrain_keeps {msk : Nat} {s0 : State} {s : State} {p : Nat} (hk0 : State.Keeps msk s0 s) (hm : Sub 0x1001006069000000000000000000000000000000000000000100024100800000000000000000001ffc1c58000000040000278102 msk) :
    State.Keeps msk s0 (State.retrain s p) := by
  unfold State.retrain
  repeat' first
    | with_reducible assumption | exact Sub.of hm rfl | exact Has.of hm rfl | intro _ | exact RegOf.LNK_RETRAINS _ _
    | (extract_lets +onlyGivenNames x; first | (refine (have hx : State.Keeps msk s0 x := ?_; ?_); (on_goal 2 => clear_value x); (on_goal 1 => subst x)) | (refine (have hx : State.Keeps msk s0 x.1 := ?_; ?_); (on_goal 2 => clear_value x); (on_goal 1 => subst x)) | clear_value x)
    | (with_reducible first
        | apply State.startAttempts_keeps | apply State.portBump_keeps | apply State.setPort_keeps | apply State.pairLost_keeps
        | apply State.excusePort_keeps | apply State.firePort_keeps | apply State.updateOrigin_keeps | refine State.ite_keeps ?_ ?_)
    | split | with_reducible fail_if_no_progress refine State.mk_keeps ?_ ?_

theorem State.attemptFailed_keeps {msk : Nat} {s0 : State} {s : State} {p : Nat} (hk0 : State.Keeps msk s0 s) (hm : Sub 0x1000006069000000000000000000000000000000000000000000000000800000000000000000001ffc1c58000000000000278002 msk) :
    State.Keeps msk s0 (State.attemptFailed s p) := by
  unfold State.attemptFailed
  repeat' first
    | with_reducible assumption | exact Sub.of hm rfl | exact Has.of hm rfl | intro _ | exact RegOf.LNK_STATE _ _
    | (extract_lets +onlyGivenNames x; first | (refine (have hx : State.Keeps msk s0 x := ?_; ?_); (on_goal 2 => clear_value x); (on_goal 1 => subst x)) | (refine (have hx : State.Keeps msk s0 x.1 := ?_; ?_); (on_goal 2 => clear_value x); (on_goal 1 => subst x)) | clear_value x)
    | (with_reducible first
        | apply State.portF_keeps | apply State.setPort_keeps | apply State.firePort_keeps | refine State.ite_keeps ?_ ?_)
    | split | with_reducible fail_if_no_progress refine State.mk_keeps ?_ ?_

theorem State.wordLockLoss_keeps {msk : Nat} {s0 : State} {s : State} {p invalid : Nat} (hk0 : State.Keeps msk s0 s) (hm : Sub 0x1001006069000000000000000000000000000000000000000100024188800000000000000000001ffc1c58000000040000278102 msk) :
    State.Keeps msk s0 (State.wordLockLoss s p invalid) := by
  unfold State.wordLockLoss
  repeat' first
    | with_reducible assumption | exact Sub.of hm rfl | exact Has.of hm rfl | intro _ | exact RegOf.LNK_LOCK_LOSS _ _
    | exact RegOf.LNK_WORD_ERR _ _
    | (extract_lets +onlyGivenNames x; first | (refine (have hx : State.Keeps msk s0 x := ?_; ?_); (on_goal 2 => clear_value x); (on_goal 1 => subst x)) | (refine (have hx : State.Keeps msk s0 x.1 := ?_; ?_); (on_goal 2 => clear_value x); (on_goal 1 => subst x)) | clear_value x)
    | (with_reducible first
        | apply State.on_keeps | apply Io.bumpF_keeps | apply State.bumpF_keeps | apply State.portBump_keeps
        | apply State.firePortOnce_keeps | apply State.excusePort_keeps | apply State.retrain_keeps | apply State.on_keeps
        | refine State.ite_keeps ?_ ?_ | refine Io.ite_keeps ?_ ?_)
    | split
    | (with_reducible first
        | exact State.Keeps.io (by assumption) | fail_if_no_progress refine State.Keeps.io ?_)

theorem execWordLockLoss_keeps {msk : Nat} {s0 : State} {port invalid : Nat} {s : State} (hk0 : State.Keeps msk s0 s) (hm : Sub 0x1001006069000000000000000000000000000000000000000100024188800000000000000000001ffc1c58000000040000278102 msk) :
    Result.Keeps msk s0 (execWordLockLoss port s invalid) := by
  unfold execWordLockLoss
  repeat' first
    | with_reducible assumption | exact Sub.of hm rfl | exact Has.of hm rfl | intro _
    | (with_reducible first
        | refine Result.next_keeps ?_ | apply State.wordLockLoss_keeps)

theorem execRxClockLost_keeps {msk : Nat} {s0 : State} {port : Nat} {s : State} (hk0 : State.Keeps msk s0 s) (hm : Sub 0x1001006069000000000000000000000000000000000000000100024100800000000000000000001ffc1c58000000040000278102 msk) :
    Result.Keeps msk s0 (execRxClockLost port s) := by
  unfold execRxClockLost
  repeat' first
    | with_reducible assumption | exact Sub.of hm rfl | exact Has.of hm rfl | intro _
    | (with_reducible first
        | refine Result.next_keeps ?_ | apply State.retrain_keeps)

theorem execTs1Received_keeps {msk : Nat} {s0 : State} {port : Nat} {s : State} (hk0 : State.Keeps msk s0 s) (hm : Sub 0x1001006069000000000000000000000000000000000000000100024100800000000000000000001ffc1c58000000040000278102 msk) :
    Result.Keeps msk s0 (execTs1Received port s) := by
  unfold execTs1Received
  repeat' first
    | with_reducible assumption | exact Sub.of hm rfl | exact Has.of hm rfl | intro _
    | (with_reducible first
        | refine Result.next_keeps ?_ | apply State.retrain_keeps)

theorem State.equaliseFrom_keeps {msk : Nat} {s0 : State} {s : State} {p rate : Nat} (hk0 : State.Keeps msk s0 s) (hm : Sub 0x34000000000000000000000000000000000000000000000 msk) :
    State.Keeps msk s0 (State.equaliseFrom s p rate) := by
  unfold State.equaliseFrom
  repeat' first
    | with_reducible assumption | exact Sub.of hm rfl | exact Has.of hm rfl | intro _ | exact RegOf.LNK_DFE _ _
    | exact RegOf.LNK_FOM _ _ | exact RegOf.LNK_PORT_CFG _ _
    | (extract_lets +onlyGivenNames x; first | (refine (have hx : State.Keeps msk s0 x := ?_; ?_); (on_goal 2 => clear_value x); (on_goal 1 => subst x)) | (refine (have hx : State.Keeps msk s0 x.1 := ?_; ?_); (on_goal 2 => clear_value x); (on_goal 1 => subst x)) | clear_value x)
    | (with_reducible first
        | apply State.on_keeps | apply Io.setF_keeps | apply State.setF_keeps | apply State.on_keeps | refine State.ite_keeps ?_ ?_
        | refine Io.ite_keeps ?_ ?_)
    | split
    | (with_reducible first
        | refine State.Keeps.fst (by assumption) ?_ | exact State.Keeps.io (by assumption) | fail_if_no_progress refine State.Keeps.io ?_
        | fail_if_no_progress refine State.mk_keeps ?_ ?_ | fail_if_no_progress refine Io.mk_keeps ?_)

theorem State.tsWords_keeps {msk : Nat} {s0 : State} {s : State} {p : Nat} {ts2 : Bool} {offer : Nat} (hk0 : State.Keeps msk s0 s) (hm : Sub 0x3c000000000000000000000000000000000000000200002 msk) :
    State.Keeps msk s0 (State.tsWords s p ts2 offer) := by
  unfold State.tsWords
  repeat' first
    | with_reducible assumption | exact Sub.of hm rfl | exact Has.of hm rfl | intro _ | exact RegOf.LNK_STATE _ _
    | (extract_lets +onlyGivenNames x; first | (refine (have hx : State.Keeps msk s0 x := ?_; ?_); (on_goal 2 => clear_value x); (on_goal 1 => subst x)) | (refine (have hx : State.Keeps msk s0 x.1 := ?_; ?_); (on_goal 2 => clear_value x); (on_goal 1 => subst x)) | clear_value x)
    | (with_reducible first
        | apply State.setPort_keeps | apply State.on_keeps | apply Io.emit_keeps | apply State.emit_keeps | apply State.portF_keeps
        | apply State.equaliseFrom_keeps | apply State.on_keeps | refine State.ite_keeps ?_ ?_ | refine Io.ite_keeps ?_ ?_)
    | split
    | (with_reducible first
        | exact State.Keeps.io (by assumption) | fail_if_no_progress refine State.Keeps.io ?_
        | fail_if_no_progress refine State.mk_keeps ?_ ?_ | fail_if_no_progress refine Io.mk_keeps ?_)

theorem execTsWordsReceived_keeps {msk : Nat} {s0 : State} {port : Nat} {ts2 : Bool} {offer : Nat} {s : State} (hk0 : State.Keeps msk s0 s) (hm : Sub 0x3c000000000000000000000000000000000000000200002 msk) :
    Result.Keeps msk s0 (execTsWordsReceived port ts2 offer s) := by
  unfold execTsWordsReceived
  repeat' first
    | with_reducible assumption | exact Sub.of hm rfl | exact Has.of hm rfl | intro _
    | (with_reducible first
        | refine Result.next_keeps ?_ | apply State.tsWords_keeps)

theorem State.equalised_keeps {msk : Nat} {s0 : State} {s : State} {p ctle t1 t2 t3 fom skew : Nat} (hk0 : State.Keeps msk s0 s) (hm : Sub 0x1000006069000000000000000000000000000000000000000000000007800000000000000000001ffc1c58000000000000278002 msk) :
    State.Keeps msk s0 (State.equalised s p ctle t1 t2 t3 fom skew) := by
  unfold State.equalised
  repeat' first
    | with_reducible assumption | exact Sub.of hm rfl | exact Has.of hm rfl | intro _ | exact RegOf.LNK_DESKEW _ _
    | exact RegOf.LNK_DFE _ _ | exact RegOf.LNK_FOM _ _
    | (extract_lets +onlyGivenNames x; first | (refine (have hx : State.Keeps msk s0 x := ?_; ?_); (on_goal 2 => clear_value x); (on_goal 1 => subst x)) | (refine (have hx : State.Keeps msk s0 x.1 := ?_; ?_); (on_goal 2 => clear_value x); (on_goal 1 => subst x)) | clear_value x)
    | (with_reducible first
        | apply State.on_keeps | apply Io.setF_keeps | apply State.setF_keeps | apply State.portF_keeps | apply State.setPort_keeps
        | apply State.attemptFailed_keeps | apply State.on_keeps | refine State.ite_keeps ?_ ?_ | refine Io.ite_keeps ?_ ?_)
    | split
    | (with_reducible first
        | exact State.Keeps.io (by assumption) | fail_if_no_progress refine State.Keeps.io ?_
        | fail_if_no_progress refine State.mk_keeps ?_ ?_ | fail_if_no_progress refine Io.mk_keeps ?_)

theorem State.portComesUp_keeps {msk : Nat} {s0 : State} {s : State} {p h : Nat} (hk0 : State.Keeps msk s0 s) (hm : Sub 0x1000006069000000000000000000000000000000000000000000000001800000000000000000001ffc1c58000200000000278002 msk) :
    State.Keeps msk s0 (State.portComesUp s p h) := by
  unfold State.portComesUp
  repeat' first
    | with_reducible assumption | exact Sub.of hm rfl | exact Has.of hm rfl | intro _ | exact RegOf.LNK_FOM _ _
    | exact RegOf.LNK_STATE _ _ | exact RegOf.TCK_REPEAT_H
    | (extract_lets +onlyGivenNames x; first | (refine (have hx : State.Keeps msk s0 x := ?_; ?_); (on_goal 2 => clear_value x); (on_goal 1 => subst x)) | (refine (have hx : State.Keeps msk s0 x.1 := ?_; ?_); (on_goal 2 => clear_value x); (on_goal 1 => subst x)) | clear_value x)
    | (with_reducible first
        | apply State.portF_keeps | apply State.setPort_keeps | apply State.on_keeps | apply Io.setF_keeps | apply State.setF_keeps
        | apply State.firePort_keeps | apply State.updateOrigin_keeps | apply State.on_keeps | refine State.ite_keeps ?_ ?_
        | refine Io.ite_keeps ?_ ?_)
    | split
    | (with_reducible first
        | exact State.Keeps.io (by assumption) | fail_if_no_progress refine State.Keeps.io ?_
        | fail_if_no_progress refine State.mk_keeps ?_ ?_ | fail_if_no_progress refine Io.mk_keeps ?_)

theorem execTrainingRetryTimer_keeps {msk : Nat} {s0 : State} {port : Nat} {s : State} (hk0 : State.Keeps msk s0 s) (hm : Sub 0x200002 msk) :
    Result.Keeps msk s0 (execTrainingRetryTimer port s) := by
  unfold execTrainingRetryTimer
  repeat' first
    | with_reducible assumption | exact Sub.of hm rfl | exact Has.of hm rfl | intro _
    | (extract_lets +onlyGivenNames x; first | (refine (have hx : State.Keeps msk s0 x := ?_; ?_); (on_goal 2 => clear_value x); (on_goal 1 => subst x)) | (refine (have hx : State.Keeps msk s0 x.1 := ?_; ?_); (on_goal 2 => clear_value x); (on_goal 1 => subst x)) | clear_value x)
    | (with_reducible first
        | refine Result.next_keeps ?_ | apply State.setPort_keeps | apply State.on_keeps | apply Io.emit_keeps | apply State.emit_keeps
        | apply State.on_keeps | refine Result.ite_keeps ?_ ?_ | refine State.ite_keeps ?_ ?_ | refine Io.ite_keeps ?_ ?_)
    | split
    | (with_reducible first
        | exact State.Keeps.io (by assumption) | fail_if_no_progress refine State.Keeps.io ?_
        | fail_if_no_progress refine State.mk_keeps ?_ ?_ | fail_if_no_progress refine Io.mk_keeps ?_)

theorem execRxClockActivity_keeps {msk : Nat} {s0 : State} {port : Nat} {s : State} (hk0 : State.Keeps msk s0 s) (hm : Sub 0x8000000000000000000000000000000000000000200002 msk) :
    Result.Keeps msk s0 (execRxClockActivity port s) := by
  unfold execRxClockActivity
  repeat' first
    | with_reducible assumption | exact Sub.of hm rfl | exact Has.of hm rfl | intro _
    | (with_reducible first
        | refine Result.next_keeps ?_ | apply State.startAttempts_keeps | refine Result.ite_keeps ?_ ?_ | refine State.ite_keeps ?_ ?_)
    | split

theorem State.fomMeasured_keeps {msk : Nat} {s0 : State} {s : State} {p : Nat} {main : Bool} {ew eh : Nat} (hk0 : State.Keeps msk s0 s) (hm : Sub 0x1001006069000000000000000000000000000000000000000100024101800000000000000000001ffc1c58000000040000278102 msk) :
    State.Keeps msk s0 (State.fomMeasured s p main ew eh) := by
  unfold State.fomMeasured
  repeat' first
    | with_reducible assumption | exact Sub.of hm rfl | exact Has.of hm rfl | intro _ | exact RegOf.LNK_FOM _ _
    | (extract_lets +onlyGivenNames x; first | (refine (have hx : State.Keeps msk s0 x := ?_; ?_); (on_goal 2 => clear_value x); (on_goal 1 => subst x)) | (refine (have hx : State.Keeps msk s0 x.1 := ?_; ?_); (on_goal 2 => clear_value x); (on_goal 1 => subst x)) | clear_value x)
    | (with_reducible first
        | apply State.portF_keeps | apply State.setPort_keeps | apply State.firePortOnce_keeps | apply State.retrain_keeps
        | refine State.ite_keeps ?_ ?_)
    | split | with_reducible fail_if_no_progress refine State.mk_keeps ?_ ?_

theorem execFomMeasurement_keeps {msk : Nat} {s0 : State} {port : Nat} {main : Bool} {ew eh : Nat} {s : State} (hk0 : State.Keeps msk s0 s) (hm : Sub 0x1001006069000000000000000000000000000000000000000100024101800000000000000000001ffc1c58000000040000278102 msk) :
    Result.Keeps msk s0 (execFomMeasurement port main ew eh s) := by
  unfold execFomMeasurement
  repeat' first
    | with_reducible assumption | exact Sub.of hm rfl | exact Has.of hm rfl | intro _
    | (with_reducible first
        | refine Result.next_keeps ?_ | apply State.fomMeasured_keeps)

theorem State.eqAdopt_keeps {msk : Nat} {s0 : State} {s : State} {p : Nat} (hk0 : State.Keeps msk s0 s) (hm : Sub 0x2030000000000000000000000000000000000000000200002 msk) :
    State.Keeps msk s0 (State.eqAdopt s p) := by
  unfold State.eqAdopt
  repeat' first
    | with_reducible assumption | exact Sub.of hm rfl | exact Has.of hm rfl | intro _ | exact RegOf.LNK_DFE _ _
    | exact RegOf.LNK_EQ_STEPS _ _ | exact RegOf.LNK_FOM _ _
    | (extract_lets +onlyGivenNames x; first | (refine (have hx : State.Keeps msk s0 x := ?_; ?_); (on_goal 2 => clear_value x); (on_goal 1 => subst x)) | (refine (have hx : State.Keeps msk s0 x.1 := ?_; ?_); (on_goal 2 => clear_value x); (on_goal 1 => subst x)) | clear_value x)
    | (with_reducible first
        | apply State.setPort_keeps | apply State.portF_keeps | apply State.portBump_keeps | apply State.on_keeps | apply Io.emit_keeps
        | apply State.emit_keeps | apply State.on_keeps)
    | split
    | (with_reducible first
        | refine State.Keeps.fst (by assumption) ?_ | exact State.Keeps.io (by assumption) | fail_if_no_progress refine State.Keeps.io ?_
        | fail_if_no_progress refine State.mk_keeps ?_ ?_ | fail_if_no_progress refine Io.mk_keeps ?_)

theorem execEqStepAdopt_keeps {msk : Nat} {s0 : State} {port : Nat} {s : State} (hk0 : State.Keeps msk s0 s) (hm : Sub 0x2030000000000000000000000000000000000000000200002 msk) :
    Result.Keeps msk s0 (execEqStepAdopt port s) := by
  unfold execEqStepAdopt
  repeat' first
    | with_reducible assumption | exact Sub.of hm rfl | exact Has.of hm rfl | intro _
    | (with_reducible first
        | refine Result.next_keeps ?_ | apply State.eqAdopt_keeps)

theorem State.alignSend_keeps {msk : Nat} {s0 : State} {s : State} {p : Nat} (hk0 : State.Keeps msk s0 s) (hm : Sub 0x200002 msk) :
    State.Keeps msk s0 (State.alignSend s p) := by
  unfold State.alignSend
  repeat' first
    | with_reducible assumption | exact Sub.of hm rfl | exact Has.of hm rfl | intro _
    | (extract_lets +onlyGivenNames x; first | (refine (have hx : State.Keeps msk s0 x := ?_; ?_); (on_goal 2 => clear_value x); (on_goal 1 => subst x)) | (refine (have hx : State.Keeps msk s0 x.1 := ?_; ?_); (on_goal 2 => clear_value x); (on_goal 1 => subst x)) | clear_value x)
    | (with_reducible first
        | apply State.setPort_keeps | apply State.on_keeps | apply Io.emit_keeps | apply State.emit_keeps | apply State.on_keeps
        | refine State.ite_keeps ?_ ?_ | refine Io.ite_keeps ?_ ?_)
    | split
    | (with_reducible first
        | exact State.Keeps.io (by assumption) | fail_if_no_progress refine State.Keeps.io ?_
        | fail_if_no_progress refine State.mk_keeps ?_ ?_ | fail_if_no_progress refine Io.mk_keeps ?_)

theorem execAlignSend_keeps {msk : Nat} {s0 : State} {port : Nat} {s : State} (hk0 : State.Keeps msk s0 s) (hm : Sub 0x200002 msk) :
    Result.Keeps msk s0 (execAlignSend port s) := by
  unfold execAlignSend
  repeat' first
    | with_reducible assumption | exact Sub.of hm rfl | exact Has.of hm rfl | intro _
    | (with_reducible first
        | refine Result.next_keeps ?_ | apply State.alignSend_keeps)

theorem State.stampMask_keeps {msk : Nat} {s0 : State} {s : State} {bs : List Byte} (hk0 : State.Keeps msk s0 s) (hm : Sub 0x1000 msk) :
    State.Keeps msk s0 (State.stampMask s bs).1 := by
  unfold State.stampMask
  repeat' first
    | with_reducible assumption | exact Sub.of hm rfl | exact Has.of hm rfl | intro _
    | (extract_lets +onlyGivenNames x; first | (refine (have hx : State.Keeps msk s0 x := ?_; ?_); (on_goal 2 => clear_value x); (on_goal 1 => subst x)) | (refine (have hx : State.Keeps msk s0 x.1 := ?_; ?_); (on_goal 2 => clear_value x); (on_goal 1 => subst x)) | clear_value x)
    | (with_reducible first
        | refine State.ite_keeps ?_ ?_ | refine State.ite_keeps_fst ?_ ?_ | refine Io.ite_keeps ?_ ?_ | refine Io.ite_keeps_fst ?_ ?_)
    | split
    | (with_reducible first
        | refine State.Keeps.fst (by assumption) ?_ | exact State.Keeps.io (by assumption) | fail_if_no_progress refine State.Keeps.io ?_
        | fail_if_no_progress refine State.mk_keeps ?_ ?_ | fail_if_no_progress refine Io.mk_keeps ?_)

theorem State.stampMasks_keeps {m : Nat} {s0 s : State} {l : List (List Byte)} (h : State.Keeps m s0 s) (hm : Sub 0x1000 m) :
    State.Keeps m s0 (State.stampMasks s l).1 := by
  induction l generalizing s with
  | nil => exact h
  | cons b t ih => exact ih (s := (s.stampMask b).1) (State.stampMask_keeps h (Sub.of hm rfl))

theorem State.transmitWindow_keeps {msk : Nat} {s0 : State} {s : State} {n i m : Nat} (hk0 : State.Keeps msk s0 s) (hm : Sub 0x1000006069000000000000000000000000000000000400000000000000000040002000000000001ffc1c58032000040000279303 msk) :
    State.Keeps msk s0 (State.transmitWindow s n i m) := by
  unfold State.transmitWindow
  repeat' first
    | with_reducible assumption | exact Sub.of hm rfl | exact Has.of hm rfl | intro _ | exact RegOf.TCK_CUT_COUNT _
    | (extract_lets +onlyGivenNames x; first | (refine (have hx : State.Keeps msk s0 x := ?_; ?_); (on_goal 2 => clear_value x); (on_goal 1 => subst x)) | (refine (have hx : State.Keeps msk s0 x.1 := ?_; ?_); (on_goal 2 => clear_value x); (on_goal 1 => subst x)) | clear_value x)
    | (with_reducible first
        | apply State.startSlot_keeps | apply State.stampMasks_keeps | apply State.on_keeps | apply Io.emit_keeps | apply State.emit_keeps
        | apply State.sendPair_keeps | apply State.setPort_keeps | apply Io.bumpF_keeps | apply State.bumpF_keeps | apply Io.fireObj_keeps
        | apply State.foldl_keeps | apply State.foldl_keeps_fst | apply Io.foldl_keeps | apply Io.foldl_keeps_fst | apply State.on_keeps
        | refine State.ite_keeps ?_ ?_ | refine Io.ite_keeps ?_ ?_)
    | split
    | (with_reducible first
        | refine State.Keeps.fst (by assumption) ?_ | exact State.Keeps.io (by assumption) | fail_if_no_progress refine State.Keeps.io ?_
        | fail_if_no_progress refine State.mk_keeps ?_ ?_ | fail_if_no_progress refine Io.mk_keeps ?_)

theorem State.repeatPacket_keeps {msk : Nat} {s0 : State} {s : State} {p : Nat} {bs : List Byte} (hk0 : State.Keeps msk s0 s) (hm : Sub 0x200000 msk) :
    State.Keeps msk s0 (State.repeatPacket s p bs) := by
  unfold State.repeatPacket
  repeat' first
    | with_reducible assumption | exact Sub.of hm rfl | exact Has.of hm rfl | intro _
    | (with_reducible first
        | apply State.on_keeps | apply Io.emit_keeps | apply State.emit_keeps | apply State.on_keeps | refine State.ite_keeps ?_ ?_
        | refine Io.ite_keeps ?_ ?_)
    | split
    | (with_reducible first
        | exact State.Keeps.io (by assumption) | fail_if_no_progress refine State.Keeps.io ?_)

theorem State.repeatCell_keeps {msk : Nat} {s0 : State} {s : State} {p : Nat} {bs : List Byte} (hk0 : State.Keeps msk s0 s) (hm : Sub 0x200000 msk) :
    State.Keeps msk s0 (State.repeatCell s p bs) := by
  unfold State.repeatCell
  repeat' first
    | with_reducible assumption | exact Sub.of hm rfl | exact Has.of hm rfl | intro _
    | (with_reducible first
        | apply State.on_keeps | apply Io.emit_keeps | apply State.emit_keeps | apply State.on_keeps | refine State.ite_keeps ?_ ?_
        | refine Io.ite_keeps ?_ ?_)
    | split
    | (with_reducible first
        | exact State.Keeps.io (by assumption) | fail_if_no_progress refine State.Keeps.io ?_)

theorem State.takePacket_keeps {msk : Nat} {s0 : State} {s : State} {p : Nat} {bs : List Byte} (hk0 : State.Keeps msk s0 s) (hm : Sub 0x1000006069000000000000000000000000000000000000000000000060000000000000000000001ffc1c58000000000000278000 msk) :
    State.Keeps msk s0 (State.takePacket s p bs).1 := by
  unfold State.takePacket
  repeat' first
    | with_reducible assumption | exact Sub.of hm rfl | exact Has.of hm rfl | intro _ | exact RegOf.LNK_HDR_CRC_ERR _ _
    | exact RegOf.LNK_PAY_CRC_ERR _ _
    | (extract_lets +onlyGivenNames x; first | (refine (have hx : State.Keeps msk s0 x := ?_; ?_); (on_goal 2 => clear_value x); (on_goal 1 => subst x)) | (refine (have hx : State.Keeps msk s0 x.1 := ?_; ?_); (on_goal 2 => clear_value x); (on_goal 1 => subst x)) | clear_value x)
    | (with_reducible first
        | apply State.repeatPacket_keeps | apply State.portBump_keeps | apply State.firePortOnce_keeps | refine State.ite_keeps ?_ ?_
        | refine State.ite_keeps_fst ?_ ?_ | refine Io.ite_keeps ?_ ?_ | refine Io.ite_keeps_fst ?_ ?_)
    | split
    | (with_reducible first
        | refine State.Keeps.fst (by assumption) ?_ | exact State.Keeps.io (by assumption) | fail_if_no_progress refine State.Keeps.io ?_
        | fail_if_no_progress refine State.mk_keeps ?_ ?_ | fail_if_no_progress refine Io.mk_keeps ?_)

theorem State.kept_keeps {msk : Nat} {s0 : State} {s : State} {p t : Nat} {bs : List Byte} (hk0 : State.Keeps msk s0 s) (hm : Sub 0x1000006069000000000000000000000000000000000000000000000060000000000000000000001ffc1c58000000000000278000 msk) :
    State.Keeps msk s0 (State.kept s p t bs).1 := by
  unfold State.kept
  repeat' first
    | with_reducible assumption | exact Sub.of hm rfl | exact Has.of hm rfl | intro _
    | (extract_lets +onlyGivenNames x; first | (refine (have hx : State.Keeps msk s0 x := ?_; ?_); (on_goal 2 => clear_value x); (on_goal 1 => subst x)) | clear_value x)
    | (with_reducible first
        | apply State.takePacket_keeps | refine State.ite_keeps ?_ ?_ | refine State.ite_keeps_fst ?_ ?_)
    | split
    | (with_reducible first
        | refine State.Keeps.fst (by assumption) ?_ | fail_if_no_progress refine State.mk_keeps ?_ ?_)

theorem execReservedPacket_keeps {msk : Nat} {s0 : State} {port : Nat} {packet : List Byte} {s : State} (hk0 : State.Keeps msk s0 s) (hm : Sub 0x1000006069000000000000000000000000000000000000000000001060000000000000000000001ffc1c58000000000000278000 msk) :
    Result.Keeps msk s0 (execReservedPacket port packet s) := by
  unfold execReservedPacket
  repeat' first
    | with_reducible assumption | exact Sub.of hm rfl | exact Has.of hm rfl | intro _ | exact RegOf.LNK_PKT_UNKNOWN _ _
    | (extract_lets +onlyGivenNames x; first | (refine (have hx : State.Keeps msk s0 x := ?_; ?_); (on_goal 2 => clear_value x); (on_goal 1 => subst x)) | clear_value x)
    | (with_reducible first
        | refine Result.next_keeps ?_ | apply State.takePacket_keeps | apply State.portBump_keeps | refine Result.ite_keeps ?_ ?_
        | refine State.ite_keeps ?_ ?_)
    | split
    | (with_reducible first
        | refine State.Keeps.fst (by assumption) ?_ | fail_if_no_progress refine State.mk_keeps ?_ ?_)

theorem State.takePairDelay_keeps {msk : Nat} {s0 : State} {s : State} {packet : List Byte} (hk0 : State.Keeps msk s0 s) (hm : Sub 0x400000000000000000000000000000000000000000000000000000 msk) :
    State.Keeps msk s0 (State.takePairDelay s packet) := by
  unfold State.takePairDelay
  repeat' first
    | with_reducible assumption | exact Sub.of hm rfl | exact Has.of hm rfl | intro _ | exact RegOf.PAIR_HOP_DELAY
    | (extract_lets +onlyGivenNames x; first | (refine (have hx : State.Keeps msk s0 x := ?_; ?_); (on_goal 2 => clear_value x); (on_goal 1 => subst x)) | clear_value x)
    | (with_reducible first
        | apply Io.setF_keeps | apply State.setF_keeps | refine State.ite_keeps ?_ ?_)
    | split
    | (with_reducible first
        | refine State.Keeps.fst (by assumption) ?_ | fail_if_no_progress refine State.mk_keeps ?_ ?_)

theorem State.reportReturn_keeps {msk : Nat} {s0 : State} {s : State} (hk0 : State.Keeps msk s0 s) (hm : Sub 0x1000000000000000000000000000000000000000000000 msk) :
    State.Keeps msk s0 (State.reportReturn s) := by
  unfold State.reportReturn
  repeat' first
    | with_reducible assumption | exact Sub.of hm rfl | exact Has.of hm rfl | intro _ | exact RegOf.LNK_RET_STAT
    | (with_reducible first
        | apply State.on_keeps | apply Io.setF_keeps | apply State.setF_keeps | apply State.on_keeps | exact State.Keeps.io (by assumption)
        | fail_if_no_progress refine State.Keeps.io ?_)

theorem State.drainForward_keeps {msk : Nat} {s0 : State} {s : State} (hk0 : State.Keeps msk s0 s) (hm : Sub 0x40002 msk) :
    State.Keeps msk s0 (State.drainForward s) := by
  unfold State.drainForward
  repeat' first
    | with_reducible assumption | exact Sub.of hm rfl | exact Has.of hm rfl | intro _
    | (extract_lets +onlyGivenNames x; first | (refine (have hx : State.Keeps msk s0 x := ?_; ?_); (on_goal 2 => clear_value x); (on_goal 1 => subst x)) | (refine (have hx : State.Keeps msk s0 x.1 := ?_; ?_); (on_goal 2 => clear_value x); (on_goal 1 => subst x)) | (refine (have hx : Io.Keeps msk s0.io x := ?_; ?_); (on_goal 2 => clear_value x); (on_goal 1 => subst x)) | (refine (have hx : Io.Keeps msk s0.io x.1 := ?_; ?_); (on_goal 2 => clear_value x); (on_goal 1 => subst x)) | (refine (have hx : ∀ y, State.Keeps msk s0 (x y) := ?_; ?_); (on_goal 2 => clear_value x); (on_goal 1 => subst x)) | (refine (have hx : ∀ y, State.Keeps msk s0 (x y).1 := ?_; ?_); (on_goal 2 => clear_value x); (on_goal 1 => subst x)) | clear_value x)
    | (with_reducible first
        | apply State.queueReturn_keeps | apply hx | refine State.ite_keeps ?_ ?_ | refine State.ite_keeps_fst ?_ ?_
        | refine Io.ite_keeps ?_ ?_ | refine Io.ite_keeps_fst ?_ ?_)
    | split
    | (with_reducible first
        | refine State.Keeps.fst (by assumption) ?_ | refine Io.Keeps.fst (by assumption) ?_ | exact State.Keeps.io (by assumption)
        | fail_if_no_progress refine State.Keeps.io ?_ | fail_if_no_progress refine State.mk_keeps ?_ ?_
        | fail_if_no_progress refine Io.mk_keeps ?_)

theorem State.passEmpty_keeps {msk : Nat} {s0 : State} {s : State} {p : Nat} (hk0 : State.Keeps msk s0 s) (hm : Sub 0x200000 msk) :
    State.Keeps msk s0 (State.passEmpty s p) := by
  unfold State.passEmpty
  repeat' first
    | with_reducible assumption | exact Sub.of hm rfl | exact Has.of hm rfl | intro _
    | (with_reducible first
        | apply State.on_keeps | apply Io.emit_keeps | apply State.emit_keeps | apply State.on_keeps | refine State.ite_keeps ?_ ?_
        | refine Io.ite_keeps ?_ ?_)
    | split
    | (with_reducible first
        | exact State.Keeps.io (by assumption) | fail_if_no_progress refine State.Keeps.io ?_)

theorem State.cellPass_keeps {msk : Nat} {s0 : State} {s : State} {c sq : Nat} (hk0 : State.Keeps msk s0 s) (hm : Sub 0x1000006069000000000000000000000000000000000000000000000000100000000000000000001ffc1c58000000000000278002 msk) :
    State.Keeps msk s0 (State.cellPass s c sq) := by
  unfold State.cellPass
  repeat' first
    | with_reducible assumption | exact Sub.of hm rfl | exact Has.of hm rfl | intro _
    | (extract_lets +onlyGivenNames x; first | (refine (have hx : State.Keeps msk s0 x := ?_; ?_); (on_goal 2 => clear_value x); (on_goal 1 => subst x)) | (refine (have hx : State.Keeps msk s0 x.1 := ?_; ?_); (on_goal 2 => clear_value x); (on_goal 1 => subst x)) | clear_value x)
    | (with_reducible first
        | apply State.drainForward_keeps | apply State.passEmpty_keeps | apply State.reportReturn_keeps | apply State.on_keeps
        | apply Io.emit_keeps | apply State.emit_keeps | apply Io.pulse_keeps | apply State.on_keeps | refine State.ite_keeps ?_ ?_
        | refine Io.ite_keeps ?_ ?_)
    | split
    | (with_reducible first
        | refine State.Keeps.fst (by assumption) ?_ | exact State.Keeps.io (by assumption) | fail_if_no_progress refine State.Keeps.io ?_
        | fail_if_no_progress refine State.mk_keeps ?_ ?_ | fail_if_no_progress refine Io.mk_keeps ?_
        | fail_if_no_progress refine Io.eraseRing_keeps ?_ ?_)

theorem execReturnCellPass_keeps {msk : Nat} {s0 : State} {cell alignSeq : Nat} {s : State} (hk0 : State.Keeps msk s0 s) (hm : Sub 0x1000006069000000000000000000000000000000000000000000000000100000000000000000001ffc1c58000000000000278002 msk) :
    Result.Keeps msk s0 (execReturnCellPass cell alignSeq s) := by
  unfold execReturnCellPass
  repeat' first
    | with_reducible assumption | exact Sub.of hm rfl | exact Has.of hm rfl | intro _
    | (with_reducible first
        | refine Result.next_keeps ?_ | apply State.cellPass_keeps)

theorem State.ackReceived_keeps {msk : Nat} {s0 : State} {s : State} {p : Nat} {packet : List Byte} (hk0 : State.Keeps msk s0 s) (hm : Sub 0x1000006069000000000000000000000000000000000000000000000060100000000000000000001ffc1c58000000000000278002 msk) :
    State.Keeps msk s0 (State.ackReceived s p packet) := by
  unfold State.ackReceived
  repeat' first
    | with_reducible assumption | exact Sub.of hm rfl | exact Has.of hm rfl | intro _
    | (extract_lets +onlyGivenNames x; first | (refine (have hx : State.Keeps msk s0 x := ?_; ?_); (on_goal 2 => clear_value x); (on_goal 1 => subst x)) | (refine (have hx : State.Keeps msk s0 x.1 := ?_; ?_); (on_goal 2 => clear_value x); (on_goal 1 => subst x)) | (refine (have hx : Io.Keeps msk s0.io x := ?_; ?_); (on_goal 2 => clear_value x); (on_goal 1 => subst x)) | (refine (have hx : Io.Keeps msk s0.io x.1 := ?_; ?_); (on_goal 2 => clear_value x); (on_goal 1 => subst x)) | (refine (have hx : ∀ y, State.Keeps msk s0 (x y) := ?_; ?_); (on_goal 2 => clear_value x); (on_goal 1 => subst x)) | (refine (have hx : ∀ y, State.Keeps msk s0 (x y).1 := ?_; ?_); (on_goal 2 => clear_value x); (on_goal 1 => subst x)) | clear_value x)
    | (with_reducible first
        | apply State.kept_keeps | apply State.reportReturn_keeps | apply hx)
    | split
    | (with_reducible first
        | refine State.Keeps.fst (by assumption) ?_ | refine Io.Keeps.fst (by assumption) ?_ | exact State.Keeps.io (by assumption)
        | fail_if_no_progress refine State.Keeps.io ?_ | fail_if_no_progress refine State.mk_keeps ?_ ?_
        | fail_if_no_progress refine Io.mk_keeps ?_)

theorem State.returnTimeout_keeps {msk : Nat} {s0 : State} {s : State} {seq : Nat} (hk0 : State.Keeps msk s0 s) (hm : Sub 0x1000006069000000000000000000000000000000000000000000000000300000000000000000001ffc1c58000000000000278002 msk) :
    State.Keeps msk s0 (State.returnTimeout s seq) := by
  unfold State.returnTimeout
  repeat' first
    | with_reducible assumption | exact Sub.of hm rfl | exact Has.of hm rfl | intro _ | exact RegOf.LNK_RET_GIVEUP
    | (extract_lets +onlyGivenNames x; first | (refine (have hx : State.Keeps msk s0 x := ?_; ?_); (on_goal 2 => clear_value x); (on_goal 1 => subst x)) | (refine (have hx : State.Keeps msk s0 x.1 := ?_; ?_); (on_goal 2 => clear_value x); (on_goal 1 => subst x)) | clear_value x)
    | (with_reducible first
        | apply State.reportReturn_keeps | apply State.on_keeps | apply Io.bumpF_keeps | apply State.bumpF_keeps | apply Io.fireObj_keeps
        | apply Io.settle_keeps | apply Io.forwardLost_keeps | apply State.on_keeps | refine State.ite_keeps ?_ ?_
        | refine Io.ite_keeps ?_ ?_)
    | split
    | (with_reducible first
        | refine State.Keeps.fst (by assumption) ?_ | exact State.Keeps.io (by assumption) | fail_if_no_progress refine State.Keeps.io ?_
        | fail_if_no_progress refine State.mk_keeps ?_ ?_ | fail_if_no_progress refine Io.mk_keeps ?_
        | fail_if_no_progress refine Io.eraseRing_keeps ?_ ?_)

theorem State.cellDrop_keeps {msk : Nat} {s0 : State} {s : State} {p : Nat} (hk0 : State.Keeps msk s0 s) (hm : Sub 0x1000006069000000000000000000000000000000000000000000000800000000000000000000001ffc1c58000000000000278000 msk) :
    State.Keeps msk s0 (State.cellDrop s p) := by
  unfold State.cellDrop
  repeat' first
    | with_reducible assumption | exact Sub.of hm rfl | exact Has.of hm rfl | intro _ | exact RegOf.LNK_CELL_DROP _ _
    | (with_reducible first
        | apply State.portBump_keeps | apply State.firePortOnce_keeps)

theorem execCellDrop_keeps {msk : Nat} {s0 : State} {port : Nat} {cell : List Byte} {s : State} (hk0 : State.Keeps msk s0 s) (hm : Sub 0x1000006069000000000000000000000000000000000000000000000800000000000000000000001ffc1c58000000000000278000 msk) :
    Result.Keeps msk s0 (execCellDrop port cell s) := by
  unfold execCellDrop
  repeat' first
    | with_reducible assumption | exact Sub.of hm rfl | exact Has.of hm rfl | intro _
    | (with_reducible first
        | refine Result.next_keeps ?_ | apply State.repeatCell_keeps | apply State.cellDrop_keeps | refine Result.ite_keeps ?_ ?_
        | refine State.ite_keeps ?_ ?_ | refine Io.ite_keeps ?_ ?_)
    | split
    | (with_reducible first
        | exact State.Keeps.io (by assumption) | fail_if_no_progress refine State.Keeps.io ?_)

theorem State.acceptCell_keeps {msk : Nat} {s0 : State} {s : State} {p t : Nat} {bs : List Byte} (hk0 : State.Keeps msk s0 s) (hm : Sub 0x1000006069000000000000000000000000000000000000000000000800000000000000000000001ffc1c58000000000000278102 msk) :
    State.Keeps msk s0 (State.acceptCell s p t bs).1 := by
  unfold State.acceptCell
  repeat' first
    | with_reducible assumption | exact Sub.of hm rfl | exact Has.of hm rfl | intro _
    | (extract_lets +onlyGivenNames x; first | (refine (have hx : State.Keeps msk s0 x := ?_; ?_); (on_goal 2 => clear_value x); (on_goal 1 => subst x)) | (refine (have hx : State.Keeps msk s0 x.1 := ?_; ?_); (on_goal 2 => clear_value x); (on_goal 1 => subst x)) | clear_value x)
    | (with_reducible first
        | apply State.repeatCell_keeps | apply State.cellDrop_keeps | apply State.sendPair_keeps | apply Io.take_keeps
        | refine State.ite_keeps ?_ ?_ | refine State.ite_keeps_fst ?_ ?_ | refine Io.ite_keeps ?_ ?_ | refine Io.ite_keeps_fst ?_ ?_)
    | split
    | (with_reducible first
        | exact State.Keeps.io (by assumption) | fail_if_no_progress refine State.Keeps.io ?_
        | fail_if_no_progress refine State.mk_keeps ?_ ?_ | fail_if_no_progress refine Io.mk_keeps ?_)

theorem execProbeEchoReceived_keeps {msk : Nat} {s0 : State} {port : Nat} {cell : List Byte} {t4 : Nat} {s : State} (hk0 : State.Keeps msk s0 s) (hm : Sub 0x100000606900000000000000006c800000000000000000000000000800000000000000000000001ffc1c58001800000000279103 msk) :
    Result.Keeps msk s0 (execProbeEchoReceived port cell t4 s) := by
  unfold execProbeEchoReceived
  repeat' first
    | with_reducible assumption | exact Sub.of hm rfl | exact Has.of hm rfl | intro _
    | (extract_lets +onlyGivenNames x; first | (refine (have hx : State.Keeps msk s0 x := ?_; ?_); (on_goal 2 => clear_value x); (on_goal 1 => subst x)) | (refine (have hx : State.Keeps msk s0 x.1 := ?_; ?_); (on_goal 2 => clear_value x); (on_goal 1 => subst x)) | clear_value x)
    | (with_reducible first
        | refine Result.next_keeps ?_ | apply State.echoDelay_keeps | apply State.acceptCell_keeps | refine Result.ite_keeps ?_ ?_
        | refine State.ite_keeps ?_ ?_)
    | split
    | (with_reducible first
        | refine State.Keeps.fst (by assumption) ?_ | fail_if_no_progress refine State.mk_keeps ?_ ?_)

theorem State.remoteEvent_keeps {msk : Nat} {s0 : State} {s : State} {chain pos : Nat} {pl : List Byte} (hk0 : State.Keeps msk s0 s) (hm : Sub 0x1000006079000000000000000000000000000000000000000000000000000000000000000000001ffc1c58000000000000278000 msk) :
    State.Keeps msk s0 (State.remoteEvent s chain pos pl) := by
  unfold State.remoteEvent
  repeat' first
    | with_reducible assumption | exact Sub.of hm rfl | exact Has.of hm rfl | intro _ | exact RegOf.CTL_EVT_REMOTE_RX
    | (extract_lets +onlyGivenNames x; first | (refine (have hx : State.Keeps msk s0 x := ?_; ?_); (on_goal 2 => clear_value x); (on_goal 1 => subst x)) | (refine (have hx : State.Keeps msk s0 x.1 := ?_; ?_); (on_goal 2 => clear_value x); (on_goal 1 => subst x)) | (refine (have hx : Io.Keeps msk s0.io x := ?_; ?_); (on_goal 2 => clear_value x); (on_goal 1 => subst x)) | (refine (have hx : Io.Keeps msk s0.io x.1 := ?_; ?_); (on_goal 2 => clear_value x); (on_goal 1 => subst x)) | (refine (have hx : ∀ y, State.Keeps msk s0 (x y) := ?_; ?_); (on_goal 2 => clear_value x); (on_goal 1 => subst x)) | (refine (have hx : ∀ y, State.Keeps msk s0 (x y).1 := ?_; ?_); (on_goal 2 => clear_value x); (on_goal 1 => subst x)) | clear_value x)
    | (with_reducible first
        | apply State.on_keeps | apply Io.bumpF_keeps | apply State.bumpF_keeps | apply Io.settle_keeps | apply Io.writeRecords_keeps
        | apply Io.fireOnce_keeps | apply State.on_keeps | apply hx | refine State.Keeps.fst (by assumption) ?_
        | refine Io.Keeps.fst (by assumption) ?_ | exact State.Keeps.io (by assumption) | fail_if_no_progress refine State.Keeps.io ?_
        | fail_if_no_progress refine State.mk_keeps ?_ ?_ | fail_if_no_progress refine Io.mk_keeps ?_)

theorem execRemoteEventReceived_keeps {msk : Nat} {s0 : State} {port : Nat} {cell : List Byte} {s : State} (hk0 : State.Keeps msk s0 s) (hm : Sub 0x1000006079000000000000000000000000000000000000000000000800000000000000000000001ffc1c58000000000000278102 msk) :
    Result.Keeps msk s0 (execRemoteEventReceived port cell s) := by
  unfold execRemoteEventReceived
  repeat' first
    | with_reducible assumption | exact Sub.of hm rfl | exact Has.of hm rfl | intro _
    | (extract_lets +onlyGivenNames x; first | (refine (have hx : State.Keeps msk s0 x := ?_; ?_); (on_goal 2 => clear_value x); (on_goal 1 => subst x)) | clear_value x)
    | (with_reducible first
        | refine Result.next_keeps ?_ | apply State.acceptCell_keeps | apply State.remoteEvent_keeps)
    | split
    | (with_reducible first
        | refine State.Keeps.fst (by assumption) ?_ | fail_if_no_progress refine State.mk_keeps ?_ ?_)

theorem State.setTile_keeps {msk : Nat} {s0 : State} {s : State} {t : TileInfo} (hk0 : State.Keeps msk s0 s) (hm : Sub 0x4 msk) :
    State.Keeps msk s0 (State.setTile s t) := by
  unfold State.setTile
  repeat' first
    | with_reducible assumption | exact Sub.of hm rfl | exact Has.of hm rfl | intro _
    | (extract_lets +onlyGivenNames x; first | (refine (have hx : State.Keeps msk s0 x := ?_; ?_); (on_goal 2 => clear_value x); (on_goal 1 => subst x)) | (refine (have hx : State.Keeps msk s0 x.1 := ?_; ?_); (on_goal 2 => clear_value x); (on_goal 1 => subst x)) | (refine (have hx : Io.Keeps msk s0.io x := ?_; ?_); (on_goal 2 => clear_value x); (on_goal 1 => subst x)) | (refine (have hx : Io.Keeps msk s0.io x.1 := ?_; ?_); (on_goal 2 => clear_value x); (on_goal 1 => subst x)) | (refine (have hx : ∀ y, State.Keeps msk s0 (x y) := ?_; ?_); (on_goal 2 => clear_value x); (on_goal 1 => subst x)) | (refine (have hx : ∀ y, State.Keeps msk s0 (x y).1 := ?_; ?_); (on_goal 2 => clear_value x); (on_goal 1 => subst x)) | clear_value x)
    | (with_reducible first
        | apply hx | refine State.Keeps.fst (by assumption) ?_ | refine Io.Keeps.fst (by assumption) ?_
        | exact State.Keeps.io (by assumption) | fail_if_no_progress refine State.Keeps.io ?_
        | fail_if_no_progress refine State.mk_keeps ?_ ?_ | fail_if_no_progress refine Io.mk_keeps ?_)

theorem State.telemetry_keeps {msk : Nat} {s0 : State} {s : State} {chain pos : Nat} {pl : List Byte} (hk0 : State.Keeps msk s0 s) (hm : Sub 0x4 msk) :
    State.Keeps msk s0 (State.telemetry s chain pos pl) := by
  unfold State.telemetry
  repeat' first
    | with_reducible assumption | exact Sub.of hm rfl | exact Has.of hm rfl | intro _
    | (extract_lets +onlyGivenNames x; first | (refine (have hx : State.Keeps msk s0 x := ?_; ?_); (on_goal 2 => clear_value x); (on_goal 1 => subst x)) | (refine (have hx : State.Keeps msk s0 x.1 := ?_; ?_); (on_goal 2 => clear_value x); (on_goal 1 => subst x)) | clear_value x)
    | with_reducible apply State.setTile_keeps | split
    | (with_reducible first
        | refine State.Keeps.fst (by assumption) ?_ | exact State.Keeps.io (by assumption) | fail_if_no_progress refine State.Keeps.io ?_
        | fail_if_no_progress refine State.mk_keeps ?_ ?_ | fail_if_no_progress refine Io.mk_keeps ?_)

theorem execTelemetryReceived_keeps {msk : Nat} {s0 : State} {port : Nat} {cell : List Byte} {s : State} (hk0 : State.Keeps msk s0 s) (hm : Sub 0x1000006069000000000000000000000000000000000000000000000800000000000000000000001ffc1c58000000000000278106 msk) :
    Result.Keeps msk s0 (execTelemetryReceived port cell s) := by
  unfold execTelemetryReceived
  repeat' first
    | with_reducible assumption | exact Sub.of hm rfl | exact Has.of hm rfl | intro _
    | (extract_lets +onlyGivenNames x; first | (refine (have hx : State.Keeps msk s0 x := ?_; ?_); (on_goal 2 => clear_value x); (on_goal 1 => subst x)) | clear_value x)
    | (with_reducible first
        | refine Result.next_keeps ?_ | apply State.acceptCell_keeps | apply State.telemetry_keeps)
    | split
    | (with_reducible first
        | refine State.Keeps.fst (by assumption) ?_ | fail_if_no_progress refine State.mk_keeps ?_ ?_)

theorem execTelemetryStale_keeps {msk : Nat} {s0 : State} {chain position : Nat} {s : State} (hk0 : State.Keeps msk s0 s) (hm : Sub 0x1000006069000000000000000000000000000000000000000000000000000000000000000000001ffc1c58000000000000278004 msk) :
    Result.Keeps msk s0 (execTelemetryStale chain position s) := by
  unfold execTelemetryStale
  repeat' first
    | with_reducible assumption | exact Sub.of hm rfl | exact Has.of hm rfl | intro _
    | (extract_lets +onlyGivenNames x; first | (refine (have hx : State.Keeps msk s0 x := ?_; ?_); (on_goal 2 => clear_value x); (on_goal 1 => subst x)) | (refine (have hx : State.Keeps msk s0 x.1 := ?_; ?_); (on_goal 2 => clear_value x); (on_goal 1 => subst x)) | clear_value x)
    | (with_reducible first
        | refine Result.next_keeps ?_ | apply State.setTile_keeps | apply State.on_keeps | apply Io.fireObj_keeps | apply State.on_keeps
        | refine Result.ite_keeps ?_ ?_ | refine State.ite_keeps ?_ ?_ | refine Io.ite_keeps ?_ ?_)
    | split
    | (with_reducible first
        | exact State.Keeps.io (by assumption) | fail_if_no_progress refine State.Keeps.io ?_
        | fail_if_no_progress refine State.mk_keeps ?_ ?_ | fail_if_no_progress refine Io.mk_keeps ?_)

theorem State.sendRegReq_keeps {msk : Nat} {s0 : State} {s : State} {chain pos ring index op off v : Nat} (hk0 : State.Keeps msk s0 s) (hm : Sub 0x2 msk) :
    State.Keeps msk s0 (State.sendRegReq s chain pos ring index op off v) := by
  unfold State.sendRegReq
  repeat' first
    | with_reducible assumption | exact Sub.of hm rfl | exact Has.of hm rfl | intro _
    | (extract_lets +onlyGivenNames x; first | (refine (have hx : State.Keeps msk s0 x := ?_; ?_); (on_goal 2 => clear_value x); (on_goal 1 => subst x)) | (refine (have hx : State.Keeps msk s0 x.1 := ?_; ?_); (on_goal 2 => clear_value x); (on_goal 1 => subst x)) | clear_value x)
    | (with_reducible first
        | apply State.queueBulk_keeps | exact State.Keeps.io (by assumption) | fail_if_no_progress refine State.Keeps.io ?_
        | fail_if_no_progress refine State.mk_keeps ?_ ?_ | fail_if_no_progress refine Io.mk_keeps ?_
        | fail_if_no_progress refine Io.filterRegs_keeps ?_ ?_)

theorem Io.activate_keeps {msk : Nat} {s0 : Io} {s : Io} {n i : Nat} {e : List Byte} (hk0 : Io.Keeps msk s0 s) (hm : Sub 0x8000 msk) :
    Io.Keeps msk s0 (Io.activate s n i e) := by
  unfold Io.activate
  repeat' first
    | with_reducible assumption | exact Sub.of hm rfl | exact Has.of hm rfl | intro _
    | (extract_lets +onlyGivenNames x; first | (refine (have hx : Io.Keeps msk s0 x := ?_; ?_); (on_goal 2 => clear_value x); (on_goal 1 => subst x)) | (refine (have hx : Io.Keeps msk s0 x.1 := ?_; ?_); (on_goal 2 => clear_value x); (on_goal 1 => subst x)) | clear_value x)
    | (with_reducible first
        | apply Io.popEntry_keeps | apply Io.setRing_keeps | fail_if_no_progress refine Io.mk_keeps ?_)

theorem State.remoteReg_keeps {msk : Nat} {s0 : State} {s : State} {ring i : Nat} {mine : Nat → Bool} (hk0 : State.Keeps msk s0 s) (hm : Sub 0x1000006069000000000000000000000000000000000000000000000000000000000000000000001ffc1c58000000000000278002 msk) :
    State.Keeps msk s0 (State.remoteReg s ring i mine) := by
  unfold State.remoteReg
  repeat' first
    | with_reducible assumption | exact Sub.of hm rfl | exact Has.of hm rfl | intro _
    | (extract_lets +onlyGivenNames x; first | (refine (have hx : State.Keeps msk s0 x := ?_; ?_); (on_goal 2 => clear_value x); (on_goal 1 => subst x)) | (refine (have hx : State.Keeps msk s0 x.1 := ?_; ?_); (on_goal 2 => clear_value x); (on_goal 1 => subst x)) | clear_value x)
    | (with_reducible first
        | apply State.on_keeps | apply Io.answer_keeps | apply Io.activate_keeps | apply State.sendRegReq_keeps | apply State.on_keeps
        | refine State.ite_keeps ?_ ?_ | refine Io.ite_keeps ?_ ?_)
    | split
    | (with_reducible first
        | refine State.Keeps.fst (by assumption) ?_ | exact State.Keeps.io (by assumption) | fail_if_no_progress refine State.Keeps.io ?_
        | fail_if_no_progress refine State.mk_keeps ?_ ?_ | fail_if_no_progress refine Io.mk_keeps ?_)

theorem execRemoteRegRead_keeps {msk : Nat} {s0 : State} {ring i : Nat} {s : State} (hk0 : State.Keeps msk s0 s) (hm : Sub 0x1000006069000000000000000000000000000000000000000000000000000000000000000000001ffc1c58000000000000278002 msk) :
    Result.Keeps msk s0 (execRemoteRegRead ring i s) := by
  unfold execRemoteRegRead
  repeat' first
    | with_reducible assumption | exact Sub.of hm rfl | exact Has.of hm rfl | intro _
    | (with_reducible first
        | refine Result.next_keeps ?_ | apply State.remoteReg_keeps)

theorem execRemoteRegWrite_keeps {msk : Nat} {s0 : State} {ring i : Nat} {s : State} (hk0 : State.Keeps msk s0 s) (hm : Sub 0x1000006069000000000000000000000000000000000000000000000000000000000000000000001ffc1c58000000000000278002 msk) :
    Result.Keeps msk s0 (execRemoteRegWrite ring i s) := by
  unfold execRemoteRegWrite
  repeat' first
    | with_reducible assumption | exact Sub.of hm rfl | exact Has.of hm rfl | intro _
    | (with_reducible first
        | refine Result.next_keeps ?_ | apply State.remoteReg_keeps)

theorem State.regTimeout_keeps {msk : Nat} {s0 : State} {s : State} {chain tag : Nat} (hk0 : State.Keeps msk s0 s) (hm : Sub 0x1000006069000000000000000000000000000000000000000000000000000000000000000000001ffc1c58000000000080278002 msk) :
    State.Keeps msk s0 (State.regTimeout s chain tag) := by
  unfold State.regTimeout
  repeat' first
    | with_reducible assumption | exact Sub.of hm rfl | exact Has.of hm rfl | intro _ | exact RegOf.anyReg _
    | (extract_lets +onlyGivenNames x; first | (refine (have hx : State.Keeps msk s0 x := ?_; ?_); (on_goal 2 => clear_value x); (on_goal 1 => subst x)) | (refine (have hx : State.Keeps msk s0 x.1 := ?_; ?_); (on_goal 2 => clear_value x); (on_goal 1 => subst x)) | clear_value x)
    | (with_reducible first
        | apply State.queueBulk_keeps | apply State.on_keeps | apply Io.fireObj_keeps | apply Io.finish_keeps | apply State.on_keeps
        | refine State.ite_keeps ?_ ?_ | refine Io.ite_keeps ?_ ?_)
    | split
    | (with_reducible first
        | refine State.Keeps.fst (by assumption) ?_ | exact State.Keeps.io (by assumption) | fail_if_no_progress refine State.Keeps.io ?_
        | fail_if_no_progress refine State.mk_keeps ?_ ?_ | fail_if_no_progress refine Io.mk_keeps ?_
        | fail_if_no_progress refine Io.eraseRing_keeps ?_ ?_ | fail_if_no_progress refine Io.filterRegs_keeps ?_ ?_)

end Sys2Proof.Machine
end

