-- ==== Sys2Proof/Laws/KeepsNvm.lean ====
section
/-! SUPPORT. What the operations of Machine/Nvm.lean keep. -/

set_option linter.unusedTactic false
set_option linter.unreachableTactic false
set_option linter.tactic.unusedName false

set_option Elab.async false

namespace Sys2Proof.Machine

theorem State.onNvm_keeps {msk : Nat} {s0 : State} {s : State} {f : Nvm → Nvm} (hk0 : State.Keeps msk s0 s) (hm : Sub 0x40 msk) :
    State.Keeps msk s0 (State.onNvm s f) := by
  unfold State.onNvm
  repeat' first
    | with_reducible assumption | exact Sub.of hm rfl | exact Has.of hm rfl | intro _
    | (extract_lets +onlyGivenNames x; first | (refine (have hx : State.Keeps msk s0 x := ?_; ?_); (on_goal 2 => clear_value x); (on_goal 1 => subst x)) | (refine (have hx : State.Keeps msk s0 x.1 := ?_; ?_); (on_goal 2 => clear_value x); (on_goal 1 => subst x)) | (refine (have hx : Io.Keeps msk s0.io x := ?_; ?_); (on_goal 2 => clear_value x); (on_goal 1 => subst x)) | (refine (have hx : Io.Keeps msk s0.io x.1 := ?_; ?_); (on_goal 2 => clear_value x); (on_goal 1 => subst x)) | (refine (have hx : ∀ y, State.Keeps msk s0 (x y) := ?_; ?_); (on_goal 2 => clear_value x); (on_goal 1 => subst x)) | (refine (have hx : ∀ y, State.Keeps msk s0 (x y).1 := ?_; ?_); (on_goal 2 => clear_value x); (on_goal 1 => subst x)) | clear_value x)
    | (with_reducible first
        | apply hx | refine State.Keeps.fst (by assumption) ?_ | refine Io.Keeps.fst (by assumption) ?_
        | exact State.Keeps.io (by assumption) | fail_if_no_progress refine State.Keeps.io ?_
        | fail_if_no_progress refine State.mk_keeps ?_ ?_ | fail_if_no_progress refine Io.mk_keeps ?_)

theorem State.program_keeps {msk : Nat} {s0 : State} {s : State} {ws : List (Nat × List Byte)} (hk0 : State.Keeps msk s0 s) (hm : Sub 0x40 msk) :
    State.Keeps msk s0 (State.program s ws) := by
  unfold State.program
  repeat' first
    | with_reducible assumption | exact Sub.of hm rfl | exact Has.of hm rfl | intro _
    | (extract_lets +onlyGivenNames x; first | (refine (have hx : State.Keeps msk s0 x := ?_; ?_); (on_goal 2 => clear_value x); (on_goal 1 => subst x)) | (refine (have hx : State.Keeps msk s0 x.1 := ?_; ?_); (on_goal 2 => clear_value x); (on_goal 1 => subst x)) | clear_value x)
    | (with_reducible first
        | apply State.onNvm_keeps | apply State.foldl_keeps | apply State.foldl_keeps_fst | fail_if_no_progress refine State.mk_keeps ?_ ?_
        | fail_if_no_progress refine Io.eraseRing_keeps ?_ ?_)

theorem State.nvmWrite_keeps {msk : Nat} {s0 : State} {s : State} {a : Nat} {bs : List Byte} (hk0 : State.Keeps msk s0 s) (hm : Sub 0x1000006069000000000000000000000000000000000000000000000000000000000000000000001ffc1c58000000000000278040 msk) :
    State.Keeps msk s0 (State.nvmWrite s a bs) := by
  unfold State.nvmWrite
  repeat' first
    | with_reducible assumption | exact Sub.of hm rfl | exact Has.of hm rfl | intro _
    | (extract_lets +onlyGivenNames x; first | (refine (have hx : State.Keeps msk s0 x := ?_; ?_); (on_goal 2 => clear_value x); (on_goal 1 => subst x)) | (refine (have hx : State.Keeps msk s0 x.1 := ?_; ?_); (on_goal 2 => clear_value x); (on_goal 1 => subst x)) | clear_value x)
    | (with_reducible first
        | apply Io.fire_keeps | apply State.fire_keeps | apply State.onNvm_keeps | apply Io.emit_keeps | apply State.emit_keeps
        | refine State.ite_keeps ?_ ?_)
    | split
    | (with_reducible first
        | refine State.Keeps.fst (by assumption) ?_ | fail_if_no_progress refine State.mk_keeps ?_ ?_
        | fail_if_no_progress refine Io.eraseRing_keeps ?_ ?_)

theorem State.reportQueue_keeps {msk : Nat} {s0 : State} {s : State} (hk0 : State.Keeps msk s0 s) (hm : Sub 0x400000000000000000000000000000000000000000000000000000000000000000000000000000000000000 msk) :
    State.Keeps msk s0 (State.reportQueue s) := by
  unfold State.reportQueue
  repeat' first
    | with_reducible assumption | exact Sub.of hm rfl | exact Has.of hm rfl | intro _ | exact RegOf.THM_QUEUE
    | (with_reducible first
        | apply Io.setF_keeps | apply State.setF_keeps)

theorem State.startOp_keeps {msk : Nat} {s0 : State} {s : State} {op : NvmOp} (hk0 : State.Keeps msk s0 s) (hm : Sub 0x40 msk) :
    State.Keeps msk s0 (State.startOp s op) := by
  unfold State.startOp
  repeat' first
    | with_reducible assumption | exact Sub.of hm rfl | exact Has.of hm rfl | intro _
    | (extract_lets +onlyGivenNames x; first | (refine (have hx : State.Keeps msk s0 x := ?_; ?_); (on_goal 2 => clear_value x); (on_goal 1 => subst x)) | (refine (have hx : State.Keeps msk s0 x.1 := ?_; ?_); (on_goal 2 => clear_value x); (on_goal 1 => subst x)) | clear_value x)
    | (with_reducible first
        | apply State.onNvm_keeps | apply State.foldl_keeps | apply State.foldl_keeps_fst)
    | split
    | (with_reducible first
        | refine State.Keeps.fst (by assumption) ?_ | fail_if_no_progress refine State.mk_keeps ?_ ?_)

theorem State.begin_keeps {msk : Nat} {s0 : State} {s : State} (hk0 : State.Keeps msk s0 s) (hm : Sub 0x40 msk) :
    State.Keeps msk s0 (State.begin s) := by
  unfold State.begin
  repeat' first
    | with_reducible assumption | exact Sub.of hm rfl | exact Has.of hm rfl | intro _
    | (extract_lets +onlyGivenNames x; first | (refine (have hx : State.Keeps msk s0 x := ?_; ?_); (on_goal 2 => clear_value x); (on_goal 1 => subst x)) | (refine (have hx : State.Keeps msk s0 x.1 := ?_; ?_); (on_goal 2 => clear_value x); (on_goal 1 => subst x)) | clear_value x)
    | (with_reducible first
        | apply State.onNvm_keeps | apply State.startOp_keeps)
    | split
    | (with_reducible first
        | refine State.Keeps.fst (by assumption) ?_ | fail_if_no_progress refine State.mk_keeps ?_ ?_)

theorem State.startWrite_keeps {msk : Nat} {s0 : State} {s : State} (hk0 : State.Keeps msk s0 s) (hm : Sub 0x400000000000000000000000000000000000000000000000000000000000000000000000000000000000040 msk) :
    State.Keeps msk s0 (State.startWrite s) := by
  unfold State.startWrite
  repeat' first
    | with_reducible assumption | exact Sub.of hm rfl | exact Has.of hm rfl | intro _
    | (with_reducible first
        | apply State.begin_keeps | apply State.reportQueue_keeps | refine State.ite_keeps ?_ ?_)
    | split

theorem State.queueRecord_keeps {msk : Nat} {s0 : State} {s : State} {t : Nat} {payload : List Byte} (hk0 : State.Keeps msk s0 s) (hm : Sub 0x8400000000000000000000000000000000000000000000000000000000000000000000000000000000000040 msk) :
    State.Keeps msk s0 (State.queueRecord s t payload) := by
  unfold State.queueRecord
  repeat' first
    | with_reducible assumption | exact Sub.of hm rfl | exact Has.of hm rfl | intro _ | exact RegOf.THM_WRITES_DEFERRED
    | (extract_lets +onlyGivenNames x; first | (refine (have hx : State.Keeps msk s0 x := ?_; ?_); (on_goal 2 => clear_value x); (on_goal 1 => subst x)) | (refine (have hx : State.Keeps msk s0 x.1 := ?_; ?_); (on_goal 2 => clear_value x); (on_goal 1 => subst x)) | clear_value x)
    | (with_reducible first
        | apply Io.bumpF_keeps | apply State.bumpF_keeps | apply State.onNvm_keeps | apply State.startWrite_keeps
        | refine State.ite_keeps ?_ ?_)
    | split | with_reducible fail_if_no_progress refine State.mk_keeps ?_ ?_

theorem State.finishWrite_keeps {msk : Nat} {s0 : State} {s : State} (hk0 : State.Keeps msk s0 s) (hm : Sub 0x1000006069000000000000000000000000000000000000000000000000000000000000000000001ffc1c58000000000000278040 msk) :
    State.Keeps msk s0 (State.finishWrite s) := by
  unfold State.finishWrite
  repeat' first
    | with_reducible assumption | exact Sub.of hm rfl | exact Has.of hm rfl | intro _
    | (extract_lets +onlyGivenNames x; first | (refine (have hx : State.Keeps msk s0 x := ?_; ?_); (on_goal 2 => clear_value x); (on_goal 1 => subst x)) | (refine (have hx : State.Keeps msk s0 x.1 := ?_; ?_); (on_goal 2 => clear_value x); (on_goal 1 => subst x)) | clear_value x)
    | (with_reducible first
        | apply State.onNvm_keeps | apply State.nvmWrite_keeps)
    | split
    | (with_reducible first
        | refine State.Keeps.fst (by assumption) ?_ | fail_if_no_progress refine State.mk_keeps ?_ ?_)

theorem execNvmWriteComplete_keeps {msk : Nat} {s0 : State} {s : State} (hk0 : State.Keeps msk s0 s) (hm : Sub 0x1000006069000000040000000000000000000000000000000000000000000000000000000000001ffc1c58000000000000278040 msk) :
    Result.Keeps msk s0 (execNvmWriteComplete s) := by
  unfold execNvmWriteComplete
  repeat' first
    | with_reducible assumption | exact Sub.of hm rfl | exact Has.of hm rfl | intro _
    | (with_reducible first
        | refine Result.next_keeps ?_ | apply State.finishWrite_keeps | apply State.startWrite_keeps | refine Result.ite_keeps ?_ ?_
        | refine State.ite_keeps ?_ ?_)
    | split

theorem State.loadRecords_keeps {msk : Nat} {s0 : State} {s : State} (hk0 : State.Keeps msk s0 s) (hm : Sub 0x1000006069000000000000000000000000000000000000000000000000000000000000000000001ffc1c58000000000000278040 msk) :
    State.Keeps msk s0 (State.loadRecords s) := by
  unfold State.loadRecords
  repeat' first
    | with_reducible assumption | exact Sub.of hm rfl | exact Has.of hm rfl | intro _
    | (extract_lets +onlyGivenNames x; first | (refine (have hx : State.Keeps msk s0 x := ?_; ?_); (on_goal 2 => clear_value x); (on_goal 1 => subst x)) | (refine (have hx : State.Keeps msk s0 x.1 := ?_; ?_); (on_goal 2 => clear_value x); (on_goal 1 => subst x)) | clear_value x)
    | (with_reducible first
        | apply State.onNvm_keeps | apply Io.fire_keeps | apply State.fire_keeps | apply State.foldl_keeps | apply State.foldl_keeps_fst
        | refine State.ite_keeps ?_ ?_)
    | split
    | (with_reducible first
        | refine State.Keeps.fst (by assumption) ?_ | fail_if_no_progress refine State.mk_keeps ?_ ?_)

theorem State.eraseHeaderNow_keeps {msk : Nat} {s0 : State} {s : State} (hk0 : State.Keeps msk s0 s) (hm : Sub 0x200040 msk) :
    State.Keeps msk s0 (State.eraseHeaderNow s) := by
  unfold State.eraseHeaderNow
  repeat' first
    | with_reducible assumption | exact Sub.of hm rfl | exact Has.of hm rfl | intro _
    | (extract_lets +onlyGivenNames x; first | (refine (have hx : State.Keeps msk s0 x := ?_; ?_); (on_goal 2 => clear_value x); (on_goal 1 => subst x)) | clear_value x)
    | (with_reducible first
        | apply State.onNvm_keeps | apply Io.emit_keeps | apply State.emit_keeps)
    | split
    | (with_reducible first
        | refine State.Keeps.fst (by assumption) ?_ | fail_if_no_progress refine State.mk_keeps ?_ ?_
        | fail_if_no_progress refine Io.eraseRing_keeps ?_ ?_)

theorem State.eraseHeader_keeps {msk : Nat} {s0 : State} {s : State} (hk0 : State.Keeps msk s0 s) (hm : Sub 0x200040 msk) :
    State.Keeps msk s0 (State.eraseHeader s) := by
  unfold State.eraseHeader
  repeat' first
    | with_reducible assumption | exact Sub.of hm rfl | exact Has.of hm rfl | intro _
    | (extract_lets +onlyGivenNames x; first | (refine (have hx : State.Keeps msk s0 x := ?_; ?_); (on_goal 2 => clear_value x); (on_goal 1 => subst x)) | clear_value x)
    | (with_reducible first
        | apply State.eraseHeaderNow_keeps | apply State.onNvm_keeps | refine State.ite_keeps ?_ ?_)
    | split
    | (with_reducible first
        | fail_if_no_progress refine State.mk_keeps ?_ ?_ | fail_if_no_progress refine Io.eraseRing_keeps ?_ ?_)

end Sys2Proof.Machine
end

