-- ==== Sys2Proof/Laws/KeepsRom.lean ====
section
/-! SUPPORT. What the operations of Machine/Rom.lean keep. -/

set_option linter.unusedTactic false
set_option linter.unreachableTactic false
set_option linter.tactic.unusedName false

set_option Elab.async false

namespace Sys2Proof.Machine

theorem State.onBoot_keeps {msk : Nat} {s0 : State} {s : State} {f : BootState → BootState} (hk0 : State.Keeps msk s0 s) (hm : Sub 0x40 msk) :
    State.Keeps msk s0 (State.onBoot s f) := by
  unfold State.onBoot
  repeat' first
    | with_reducible assumption | exact Sub.of hm rfl | exact Has.of hm rfl | intro _
    | (extract_lets +onlyGivenNames x; first | (refine (have hx : State.Keeps msk s0 x := ?_; ?_); (on_goal 2 => clear_value x); (on_goal 1 => subst x)) | (refine (have hx : State.Keeps msk s0 x.1 := ?_; ?_); (on_goal 2 => clear_value x); (on_goal 1 => subst x)) | (refine (have hx : Io.Keeps msk s0.io x := ?_; ?_); (on_goal 2 => clear_value x); (on_goal 1 => subst x)) | (refine (have hx : Io.Keeps msk s0.io x.1 := ?_; ?_); (on_goal 2 => clear_value x); (on_goal 1 => subst x)) | (refine (have hx : ∀ y, State.Keeps msk s0 (x y) := ?_; ?_); (on_goal 2 => clear_value x); (on_goal 1 => subst x)) | (refine (have hx : ∀ y, State.Keeps msk s0 (x y).1 := ?_; ?_); (on_goal 2 => clear_value x); (on_goal 1 => subst x)) | clear_value x)
    | (with_reducible first
        | apply hf | apply hx | refine State.Keeps.fst (by assumption) ?_ | refine Io.Keeps.fst (by assumption) ?_
        | exact State.Keeps.io (by assumption) | fail_if_no_progress refine State.Keeps.io ?_
        | fail_if_no_progress refine State.mk_keeps ?_ ?_ | fail_if_no_progress refine Io.mk_keeps ?_)

theorem State.enter_keeps {msk : Nat} {s0 : State} {s : State} {st : Nat} (hk0 : State.Keeps msk s0 s) (hm : Sub 0x1000006069000040000000000000000000000000000000000000000000000000000000000000001ffc1c58000000000000278000 msk) :
    State.Keeps msk s0 (State.enter s st) := by
  unfold State.enter
  repeat' first
    | with_reducible assumption | exact Sub.of hm rfl | exact Has.of hm rfl | intro _ | exact RegOf.CTL_BOOT
    | (extract_lets +onlyGivenNames x; first | (refine (have hx : State.Keeps msk s0 x := ?_; ?_); (on_goal 2 => clear_value x); (on_goal 1 => subst x)) | (refine (have hx : State.Keeps msk s0 x.1 := ?_; ?_); (on_goal 2 => clear_value x); (on_goal 1 => subst x)) | clear_value x)
    | (with_reducible first
        | apply Io.setF_keeps | apply State.setF_keeps | apply Io.fire_keeps | apply State.fire_keeps | refine State.ite_keeps ?_ ?_)
    | split

theorem State.stopWatchdog_keeps {msk : Nat} {s0 : State} {s : State} (hk0 : State.Keeps msk s0 s) (hm : Sub 0x2000000000000000000000000000000000000000000000000000000000000000000000000000000000000000000 msk) :
    State.Keeps msk s0 (State.stopWatchdog s) := by
  unfold State.stopWatchdog
  repeat' first
    | with_reducible assumption | exact Sub.of hm rfl | exact Has.of hm rfl | intro _ | exact RegOf.CTL_WDOG
    | (with_reducible first
        | apply Io.setF_keeps | apply State.setF_keeps)

theorem State.showImage_keeps {msk : Nat} {s0 : State} {s : State} {h dg : List Byte} (hk0 : State.Keeps msk s0 s) (hm : Sub 0x37c00000000 msk) :
    State.Keeps msk s0 (State.showImage s h dg) := by
  unfold State.showImage
  repeat' first
    | with_reducible assumption | exact Sub.of hm rfl | exact Has.of hm rfl | intro _ | exact RegOf.CTL_IMG_COMPILER
    | exact RegOf.CTL_IMG_DIGEST _ | exact RegOf.CTL_IMG_INFO | exact RegOf.CTL_IMG_ROLLBACK | exact RegOf.CTL_IMG_WALL_ID_HI
    | exact RegOf.CTL_IMG_WALL_ID_LO | exact RegOf.CTL_IMG_WALL_SEQ
    | (extract_lets +onlyGivenNames x; first | (refine (have hx : State.Keeps msk s0 x := ?_; ?_); (on_goal 2 => clear_value x); (on_goal 1 => subst x)) | (refine (have hx : State.Keeps msk s0 x.1 := ?_; ?_); (on_goal 2 => clear_value x); (on_goal 1 => subst x)) | (refine (have hx : Io.Keeps msk s0.io x := ?_; ?_); (on_goal 2 => clear_value x); (on_goal 1 => subst x)) | (refine (have hx : Io.Keeps msk s0.io x.1 := ?_; ?_); (on_goal 2 => clear_value x); (on_goal 1 => subst x)) | (refine (have hx : ∀ y, State.Keeps msk s0 (x y) := ?_; ?_); (on_goal 2 => clear_value x); (on_goal 1 => subst x)) | (refine (have hx : ∀ y, State.Keeps msk s0 (x y).1 := ?_; ?_); (on_goal 2 => clear_value x); (on_goal 1 => subst x)) | clear_value x)
    | (with_reducible first
        | apply State.on_keeps | apply Io.setF_keeps | apply State.setF_keeps | apply State.foldl_keeps | apply State.foldl_keeps_fst
        | apply Io.foldl_keeps | apply Io.foldl_keeps_fst | apply State.on_keeps | apply hx | refine State.Keeps.fst (by assumption) ?_
        | refine Io.Keeps.fst (by assumption) ?_ | exact State.Keeps.io (by assumption) | fail_if_no_progress refine State.Keeps.io ?_
        | fail_if_no_progress refine State.mk_keeps ?_ ?_ | fail_if_no_progress refine Io.mk_keeps ?_)

theorem State.enterUmber_keeps {msk : Nat} {s0 : State} {s : State} {cause : Nat} (hk0 : State.Keeps msk s0 s) (hm : Sub 0x10000000002c00000000000000000000000000000000000000000038000000000000000000000000000000000037c0021806f msk) :
    State.Keeps msk s0 (State.enterUmber s cause) := by
  unfold State.enterUmber
  repeat' first
    | with_reducible assumption | exact Sub.of hm rfl | exact Has.of hm rfl | intro _ | exact RegOf.CTL_BOOT
    | exact RegOf.CTL_UMBER | exact RegOf.LNK_DFE _ _ | exact RegOf.LNK_FOM _ _
    | (extract_lets +onlyGivenNames x; first | (refine (have hx : State.Keeps msk s0 x := ?_; ?_); (on_goal 2 => clear_value x); (on_goal 1 => subst x)) | (refine (have hx : State.Keeps msk s0 x.1 := ?_; ?_); (on_goal 2 => clear_value x); (on_goal 1 => subst x)) | clear_value x)
    | (with_reducible first
        | apply State.showImage_keeps | apply Io.setF_keeps | apply State.setF_keeps | apply State.stopWatchdog_keeps
        | apply State.alert_keeps | apply State.on_keeps | apply State.onBoot_keeps | apply State.portF_keeps
        | apply State.startAttempts_keeps | apply State.foldl_keeps | apply State.foldl_keeps_fst | apply Io.foldl_keeps
        | apply Io.foldl_keeps_fst | apply State.on_keeps | refine State.ite_keeps ?_ ?_ | refine Io.ite_keeps ?_ ?_)
    | split
    | (with_reducible first
        | exact State.Keeps.io (by assumption) | fail_if_no_progress refine State.Keeps.io ?_
        | fail_if_no_progress refine State.mk_keeps ?_ ?_ | fail_if_no_progress refine Io.mk_keeps ?_
        | fail_if_no_progress refine Io.setOps_keeps ?_ ?_ | fail_if_no_progress refine Io.freshTables_keeps ?_ ?_ ?_)

theorem State.cleared_keeps {m : Nat} {s0 s : State} {powerOn result device : Bool} (h : State.Keeps m s0 s) (hm : Sub 0x10400000000000000000000000000000000000000000000000000000000000000000000000000000000000000000080ffffff m) :
    State.Keeps m s0 (s.cleared powerOn result device) := by
  unfold State.cleared
  extract_lets s1 io b nvm boot src t t2
  have h1 : State.Keeps m s0 s1 := by
    unfold s1
    split
    · exact State.emit_keeps h (Has.of hm rfl)
    · exact h
  have ht : State.Keeps m s0 t := by
    refine ⟨h.pending, ⟨fun x => ⟨(h1.io.formed x).dram, Sparse.wf_map_filter _ (h1.io.formed x).regs, rfl, rfl⟩, h1.io.upNow, h1.io.upFresh,
      fun b hb => absurd (RegOf.anyReg b) (hb _ (Has.of hm rfl)), ?_, ?_, ?_, ?_, ?_, ?_, ?_, ?_, ?_, ?_, ?_, ?_, ?_, ?_, ?_, ?_, ?_, ?_, ?_, ?_, ?_, ?_, ?_⟩, ?_, ?_, ?_, ?_, ?_, ?_, ?_, ?_, ?_, ?_, ?_, ?_, ?_, ?_, ?_⟩
    all_goals exact Alike.has (Has.of hm rfl)
  exact State.setF_keeps (State.setF_keeps (State.setF_keeps ht RegOf.CTL_ALERT (Has.of hm rfl)) RegOf.CTL_ERR_STAT (Has.of hm rfl)) RegOf.CTL_ERR_STAT
    (Has.of hm rfl)

theorem State.updResult_keeps {msk : Nat} {s0 : State} {s : State} {code place : Nat} (hk0 : State.Keeps msk s0 s) (hm : Sub 0x40000000000000000000000000000000000000000000000000000000000000000000000000000000000000000000 msk) :
    State.Keeps msk s0 (State.updResult s code place) := by
  unfold State.updResult
  repeat' first
    | with_reducible assumption | exact Sub.of hm rfl | exact Has.of hm rfl | intro _ | exact RegOf.CTL_UPD_RESULT
    | (with_reducible first
        | apply Io.setF_keeps | apply State.setF_keeps)

theorem State.activeDefect_keeps {msk : Nat} {s0 : State} {s : State} {code : Nat} {sec : Option Nat} (hk0 : State.Keeps msk s0 s) (hm : Sub 0x10000000002c0000000000000000000000000000000000000000003800000000000000000000000000000000003fc0021806f msk) :
    State.Keeps msk s0 (State.activeDefect s code sec) := by
  unfold State.activeDefect
  repeat' first
    | with_reducible assumption | exact Sub.of hm rfl | exact Has.of hm rfl | intro _ | exact RegOf.CTL_IMG_DEFECT
    | (extract_lets +onlyGivenNames x; first | (refine (have hx : State.Keeps msk s0 x := ?_; ?_); (on_goal 2 => clear_value x); (on_goal 1 => subst x)) | (refine (have hx : State.Keeps msk s0 x.1 := ?_; ?_); (on_goal 2 => clear_value x); (on_goal 1 => subst x)) | clear_value x)
    | (with_reducible first
        | apply Io.setF_keeps | apply State.setF_keeps | apply State.enterUmber_keeps | refine State.ite_keeps ?_ ?_)
    | split
    | (with_reducible first
        | refine State.Keeps.fst (by assumption) ?_ | fail_if_no_progress refine State.mk_keeps ?_ ?_)

theorem State.bootImage_keeps {msk : Nat} {s0 : State} {s : State} {a : Nat} (hk0 : State.Keeps msk s0 s) (hm : Sub 0x100000606900007c05040000000000000000000000020001c000004000800000000000000000001ffc1c58000000037c00278ac3 msk) :
    State.Keeps msk s0 (State.bootImage s a) := by
  unfold State.bootImage
  repeat' first
    | with_reducible assumption | exact Sub.of hm rfl | exact Has.of hm rfl | intro _
    | (extract_lets +onlyGivenNames x; first | (refine (have hx : State.Keeps msk s0 x := ?_; ?_); (on_goal 2 => clear_value x); (on_goal 1 => subst x)) | clear_value x)
    | (with_reducible first
        | apply State.onBoot_keeps | fail_if_no_progress refine State.mk_keeps ?_ ?_)

theorem State.bootActive_keeps {msk : Nat} {s0 : State} {s : State} (hk0 : State.Keeps msk s0 s) (hm : Sub 0x10010060690002fc05040000000000000000000000020001c000004003800000000000000000001ffc1c5800000003fc00278aef msk) :
    State.Keeps msk s0 (State.bootActive s) := by
  unfold State.bootActive
  repeat' first
    | with_reducible assumption | exact Sub.of hm rfl | exact Has.of hm rfl | intro _
    | (extract_lets +onlyGivenNames x; first | (refine (have hx : State.Keeps msk s0 x := ?_; ?_); (on_goal 2 => clear_value x); (on_goal 1 => subst x)) | clear_value x)
    | (with_reducible first
        | apply State.activeDefect_keeps | apply State.bootImage_keeps | refine State.ite_keeps ?_ ?_)
    | split
    | (with_reducible first
        | refine State.Keeps.fst (by assumption) ?_ | fail_if_no_progress refine State.mk_keeps ?_ ?_)

theorem State.discardStaging_keeps {msk : Nat} {s0 : State} {s : State} {code place : Nat} (hk0 : State.Keeps msk s0 s) (hm : Sub 0x40000000000000000000000000000000000000000000000000000000000000000000000000000000000000200040 msk) :
    State.Keeps msk s0 (State.discardStaging s code place) := by
  unfold State.discardStaging
  repeat' first
    | with_reducible assumption | exact Sub.of hm rfl | exact Has.of hm rfl | intro _
    | (extract_lets +onlyGivenNames x; first | (refine (have hx : State.Keeps msk s0 x := ?_; ?_); (on_goal 2 => clear_value x); (on_goal 1 => subst x)) | clear_value x)
    | (with_reducible first
        | apply State.updResult_keeps | apply State.eraseHeader_keeps | apply State.onBoot_keeps | refine State.ite_keeps ?_ ?_)
    | split
    | (with_reducible first
        | fail_if_no_progress refine State.mk_keeps ?_ ?_ | fail_if_no_progress refine Io.eraseRing_keeps ?_ ?_)

theorem State.bootStagedOr_keeps {msk : Nat} {s0 : State} {s : State} (hk0 : State.Keeps msk s0 s) (hm : Sub 0x10010060690042fc05040000000000000000000000020001c000004003800000000000000000001ffc1c5800000003fc00278aef msk) :
    State.Keeps msk s0 (State.bootStagedOr s) := by
  unfold State.bootStagedOr
  repeat' first
    | with_reducible assumption | exact Sub.of hm rfl | exact Has.of hm rfl | intro _ | exact RegOf.CTL_BOOT
    | exact RegOf.CTL_WDOG
    | (extract_lets +onlyGivenNames x; first | (refine (have hx : State.Keeps msk s0 x := ?_; ?_); (on_goal 2 => clear_value x); (on_goal 1 => subst x)) | (refine (have hx : State.Keeps msk s0 x.1 := ?_; ?_); (on_goal 2 => clear_value x); (on_goal 1 => subst x)) | clear_value x)
    | (with_reducible first
        | apply State.bootActive_keeps | apply State.discardStaging_keeps | apply State.onNvm_keeps | apply Io.setF_keeps
        | apply State.setF_keeps | apply State.bootImage_keeps | refine State.ite_keeps ?_ ?_ | refine Io.ite_keeps ?_ ?_)
    | split
    | (with_reducible first
        | refine State.Keeps.fst (by assumption) ?_ | exact State.Keeps.io (by assumption) | fail_if_no_progress refine State.Keeps.io ?_
        | fail_if_no_progress refine State.mk_keeps ?_ ?_ | fail_if_no_progress refine Io.mk_keeps ?_)

theorem State.bootWindow_keeps {msk : Nat} {s0 : State} {s : State} {was : Bool} (hk0 : State.Keeps msk s0 s) (hm : Sub 0x4000000000000000000000000000000000000000000000000000000000000000000000000000000000000 msk) :
    State.Keeps msk s0 (State.bootWindow s was) := by
  unfold State.bootWindow
  repeat' first
    | with_reducible assumption | exact Sub.of hm rfl | exact Has.of hm rfl | intro _ | exact RegOf.THM_STATE
    | (extract_lets +onlyGivenNames x; first | (refine (have hx : State.Keeps msk s0 x := ?_; ?_); (on_goal 2 => clear_value x); (on_goal 1 => subst x)) | (refine (have hx : State.Keeps msk s0 x.1 := ?_; ?_); (on_goal 2 => clear_value x); (on_goal 1 => subst x)) | clear_value x)
    | (with_reducible first
        | apply Io.setF_keeps | apply State.setF_keeps)

theorem State.rom_keeps {msk : Nat} {s0 : State} {s : State} {umberLow : Bool} (hk0 : State.Keeps msk s0 s) (hm : Sub 0x10010060690042fc05040000000000000000000000020001c000004003800000000000000000001ffc1c5800000003fc00278aef msk) :
    State.Keeps msk s0 (State.rom s umberLow) := by
  unfold State.rom
  repeat' first
    | with_reducible assumption | exact Sub.of hm rfl | exact Has.of hm rfl | intro _ | exact RegOf.CTL_BOOT
    | exact RegOf.CTL_WDOG
    | (extract_lets +onlyGivenNames x; first | (refine (have hx : State.Keeps msk s0 x := ?_; ?_); (on_goal 2 => clear_value x); (on_goal 1 => subst x)) | (refine (have hx : State.Keeps msk s0 x.1 := ?_; ?_); (on_goal 2 => clear_value x); (on_goal 1 => subst x)) | clear_value x)
    | (with_reducible first
        | apply State.onBoot_keeps | apply Io.setF_keeps | apply State.setF_keeps | apply State.bootWindow_keeps | apply State.alert_keeps
        | apply State.enterUmber_keeps | apply State.activeDefect_keeps | apply State.bootStagedOr_keeps | refine State.ite_keeps ?_ ?_
        | refine Io.ite_keeps ?_ ?_)
    | split
    | (with_reducible first
        | exact State.Keeps.io (by assumption) | fail_if_no_progress refine State.Keeps.io ?_
        | fail_if_no_progress refine State.mk_keeps ?_ ?_ | fail_if_no_progress refine Io.mk_keeps ?_)

theorem State.restart_keeps {msk : Nat} {s0 : State} {s : State} {result : Bool} {umberLow : Bool} (hk0 : State.Keeps msk s0 s) (hm : Sub 0x10010460690042fc05040000000000000000000000020001c000004003800000000000000000001ffc1c5800000003fc80ffffff msk) :
    State.Keeps msk s0 (State.restart s result umberLow) := by
  unfold State.restart
  repeat' first
    | with_reducible assumption | exact Sub.of hm rfl | exact Has.of hm rfl | intro _
    | (with_reducible first
        | apply State.cleared_keeps | apply State.rom_keeps)

theorem State.startPins_keeps {msk : Nat} {s0 : State} {s : State} {d0 d1 : Int} {t : Nat} (hk0 : State.Keeps msk s0 s) (hm : Sub 0x800040 msk) :
    State.Keeps msk s0 (State.startPins s d0 d1 t) := by
  unfold State.startPins
  repeat' first
    | with_reducible assumption | exact Sub.of hm rfl | exact Has.of hm rfl | intro _
    | (extract_lets +onlyGivenNames x; first | (refine (have hx : State.Keeps msk s0 x := ?_; ?_); (on_goal 2 => clear_value x); (on_goal 1 => subst x)) | clear_value x)
    | (with_reducible first
        | apply State.on_keeps | apply Io.at_keeps | apply State.onBoot_keeps | apply State.on_keeps | exact State.Keeps.io (by assumption)
        | fail_if_no_progress refine State.Keeps.io ?_ | fail_if_no_progress refine State.mk_keeps ?_ ?_
        | fail_if_no_progress refine Io.mk_keeps ?_)

theorem execPowerOn_keeps {msk : Nat} {s0 : State} {umberLow : Bool} {d0 d1 : Int} {t : Nat} {programmed : List (Nat × List Byte)} {s : State} (hk0 : State.Keeps msk s0 s) (hm : Sub 0x10010460690042fc05040000000000000000000000020001c000004003800000000000000000001ffc1c5800000003fc80ffffff msk) :
    Result.Keeps msk s0 (execPowerOn umberLow d0 d1 t s programmed) := by
  unfold execPowerOn
  repeat' first
    | with_reducible assumption | exact Sub.of hm rfl | exact Has.of hm rfl | intro _
    | (extract_lets +onlyGivenNames x; first | (refine (have hx : State.Keeps msk s0 x := ?_; ?_); (on_goal 2 => clear_value x); (on_goal 1 => subst x)) | (refine (have hx : State.Keeps msk s0 x.1 := ?_; ?_); (on_goal 2 => clear_value x); (on_goal 1 => subst x)) | clear_value x)
    | (with_reducible first
        | refine Result.next_keeps ?_ | apply State.onBoot_keeps | apply State.startPins_keeps | apply State.program_keeps
        | apply State.cleared_keeps | apply State.rom_keeps | refine Result.ite_keeps ?_ ?_ | refine State.ite_keeps ?_ ?_
        | refine Io.ite_keeps ?_ ?_)
    | split
    | (with_reducible first
        | exact State.Keeps.io (by assumption) | fail_if_no_progress refine State.Keeps.io ?_
        | fail_if_no_progress refine State.mk_keeps ?_ ?_ | fail_if_no_progress refine Io.mk_keeps ?_)

theorem execDeviceReset_keeps {msk : Nat} {s0 : State} {umberLow : Bool} {d0 d1 : Int} {t : Nat} {programmed : List (Nat × List Byte)} {s : State} (hk0 : State.Keeps msk s0 s) (hm : Sub 0x10010460690042fc05040000000000000000000000020001c000004003800000000000000000001ffc1c5800000003fc80ffffff msk) :
    Result.Keeps msk s0 (execDeviceReset umberLow d0 d1 t s programmed) := by
  unfold execDeviceReset
  repeat' first
    | with_reducible assumption | exact Sub.of hm rfl | exact Has.of hm rfl | intro _ | exact RegOf.CTL_ERR_STAT
    | (extract_lets +onlyGivenNames x; first | (refine (have hx : State.Keeps msk s0 x := ?_; ?_); (on_goal 2 => clear_value x); (on_goal 1 => subst x)) | (refine (have hx : State.Keeps msk s0 x.1 := ?_; ?_); (on_goal 2 => clear_value x); (on_goal 1 => subst x)) | clear_value x)
    | (with_reducible first
        | refine Result.next_keeps ?_ | apply State.startPins_keeps | apply State.onBoot_keeps | apply Io.setF_keeps
        | apply State.setF_keeps | apply State.program_keeps | apply State.cleared_keeps | apply State.rom_keeps
        | refine Result.ite_keeps ?_ ?_ | refine State.ite_keeps ?_ ?_)
    | split | with_reducible fail_if_no_progress refine State.mk_keeps ?_ ?_

theorem State.inReset_keeps {msk : Nat} {s0 : State} {s : State} (hk0 : State.Keeps msk s0 s) (hm : Sub 0x10400000000000000000000000000000000000000000000000000000000000000000000000000000000000000000080ffffff msk) :
    State.Keeps msk s0 (State.inReset s) := by
  unfold State.inReset
  repeat' first
    | with_reducible assumption | exact Sub.of hm rfl | exact Has.of hm rfl | intro _
    | (extract_lets +onlyGivenNames x; first | (refine (have hx : State.Keeps msk s0 x := ?_; ?_); (on_goal 2 => clear_value x); (on_goal 1 => subst x)) | clear_value x)
    | (with_reducible first
        | apply State.cleared_keeps | apply State.onBoot_keeps | fail_if_no_progress refine State.mk_keeps ?_ ?_)

theorem execPwrgoodFall_keeps {msk : Nat} {s0 : State} {s : State} (hk0 : State.Keeps msk s0 s) (hm : Sub 0x10400000000000000000000000000000000000000000000000000000000000000000000000000000000000000000080ffffff msk) :
    Result.Keeps msk s0 (execPwrgoodFall s) := by
  unfold execPwrgoodFall
  repeat' first
    | with_reducible assumption | exact Sub.of hm rfl | exact Has.of hm rfl | intro _
    | (extract_lets +onlyGivenNames x; first | (refine (have hx : State.Keeps msk s0 x := ?_; ?_); (on_goal 2 => clear_value x); (on_goal 1 => subst x)) | clear_value x)
    | (with_reducible first
        | refine Result.next_keeps ?_ | apply State.inReset_keeps | apply State.onBoot_keeps | refine Result.ite_keeps ?_ ?_
        | refine State.ite_keeps ?_ ?_)
    | split | with_reducible fail_if_no_progress refine State.mk_keeps ?_ ?_

theorem execRailUndervoltage_keeps {msk : Nat} {s0 : State} {s : State} (hk0 : State.Keeps msk s0 s) (hm : Sub 0x10400000000000000000000000000000000000000000000000000000000000000000000000000000000000000000080ffffff msk) :
    Result.Keeps msk s0 (execRailUndervoltage s) := by
  unfold execRailUndervoltage
  repeat' first
    | with_reducible assumption | exact Sub.of hm rfl | exact Has.of hm rfl | intro _
    | (extract_lets +onlyGivenNames x; first | (refine (have hx : State.Keeps msk s0 x := ?_; ?_); (on_goal 2 => clear_value x); (on_goal 1 => subst x)) | clear_value x)
    | (with_reducible first
        | refine Result.next_keeps ?_ | apply State.inReset_keeps | apply State.onBoot_keeps
        | fail_if_no_progress refine State.mk_keeps ?_ ?_)

theorem execMonitoredRailRecovery_keeps {msk : Nat} {s0 : State} {umberLow : Bool} {d0 d1 : Int} {t : Nat} {s : State} (hk0 : State.Keeps msk s0 s) (hm : Sub 0x10010460690042fc05040000000000000000000000020001c000004003800000000000000000001ffc1c5800000003fc80ffffff msk) :
    Result.Keeps msk s0 (execMonitoredRailRecovery umberLow d0 d1 t s) := by
  unfold execMonitoredRailRecovery
  repeat' first
    | with_reducible assumption | exact Sub.of hm rfl | exact Has.of hm rfl | intro _
    | (extract_lets +onlyGivenNames x; first | (refine (have hx : State.Keeps msk s0 x := ?_; ?_); (on_goal 2 => clear_value x); (on_goal 1 => subst x)) | (refine (have hx : State.Keeps msk s0 x.1 := ?_; ?_); (on_goal 2 => clear_value x); (on_goal 1 => subst x)) | clear_value x)
    | (with_reducible first
        | refine Result.next_keeps ?_ | apply State.onBoot_keeps | apply State.startPins_keeps | apply State.cleared_keeps
        | apply State.rom_keeps | refine Result.ite_keeps ?_ ?_ | refine State.ite_keeps ?_ ?_ | refine Io.ite_keeps ?_ ?_)
    | split
    | (with_reducible first
        | exact State.Keeps.io (by assumption) | fail_if_no_progress refine State.Keeps.io ?_
        | fail_if_no_progress refine State.mk_keeps ?_ ?_ | fail_if_no_progress refine Io.mk_keeps ?_)

theorem State.imageDefect_keeps {msk : Nat} {s0 : State} {s : State} {code : Nat} {sec : Option Nat} (hk0 : State.Keeps msk s0 s) (hm : Sub 0x10010460690042fc05040000000000000000000000020001c000004003800000000000000000001ffc1c5800000003fc80ffffff msk) :
    State.Keeps msk s0 (State.imageDefect s code sec) := by
  unfold State.imageDefect
  repeat' first
    | with_reducible assumption | exact Sub.of hm rfl | exact Has.of hm rfl | intro _
    | (extract_lets +onlyGivenNames x; first | (refine (have hx : State.Keeps msk s0 x := ?_; ?_); (on_goal 2 => clear_value x); (on_goal 1 => subst x)) | (refine (have hx : State.Keeps msk s0 x.1 := ?_; ?_); (on_goal 2 => clear_value x); (on_goal 1 => subst x)) | clear_value x)
    | (with_reducible first
        | apply State.discardStaging_keeps | apply State.onBoot_keeps | apply State.restart_keeps | apply State.activeDefect_keeps
        | refine State.ite_keeps ?_ ?_)
    | split
    | (with_reducible first
        | fail_if_no_progress refine State.mk_keeps ?_ ?_ | fail_if_no_progress refine Io.eraseRing_keeps ?_ ?_)

theorem State.startLoading_keeps {msk : Nat} {s0 : State} {s : State} (hk0 : State.Keeps msk s0 s) (hm : Sub 0x1000006069000040000000000000000000000000000000000000000000000000000000000000001ffc1c58000000000000278040 msk) :
    State.Keeps msk s0 (State.startLoading s) := by
  unfold State.startLoading
  repeat' first
    | with_reducible assumption | exact Sub.of hm rfl | exact Has.of hm rfl | intro _
    | (extract_lets +onlyGivenNames x; first | (refine (have hx : State.Keeps msk s0 x := ?_; ?_); (on_goal 2 => clear_value x); (on_goal 1 => subst x)) | (refine (have hx : State.Keeps msk s0 x.1 := ?_; ?_); (on_goal 2 => clear_value x); (on_goal 1 => subst x)) | clear_value x)
    | (with_reducible first
        | apply State.enter_keeps | apply State.loadRecords_keeps | apply Io.fire_keeps | apply State.fire_keeps
        | refine State.ite_keeps ?_ ?_ | refine Io.ite_keeps ?_ ?_)
    | split
    | (with_reducible first
        | exact State.Keeps.io (by assumption) | fail_if_no_progress refine State.Keeps.io ?_)

theorem State.sectionRead_keeps {msk : Nat} {s0 : State} {s : State} {i : Nat} {got : Option (List Byte)} (hk0 : State.Keeps msk s0 s) (hm : Sub 0x10010460690042fc05040000000000000000000000020001c000004003800000000000000000001ffc1c5800000003fc80ffffff msk) :
    State.Keeps msk s0 (State.sectionRead s i got) := by
  unfold State.sectionRead
  repeat' first
    | with_reducible assumption | exact Sub.of hm rfl | exact Has.of hm rfl | intro _
    | (extract_lets +onlyGivenNames x; first | (refine (have hx : State.Keeps msk s0 x := ?_; ?_); (on_goal 2 => clear_value x); (on_goal 1 => subst x)) | (refine (have hx : State.Keeps msk s0 x.1 := ?_; ?_); (on_goal 2 => clear_value x); (on_goal 1 => subst x)) | clear_value x)
    | (with_reducible first
        | apply State.imageDefect_keeps | apply State.onBoot_keeps | apply State.loaded_keeps | apply State.startLoading_keeps
        | refine State.ite_keeps ?_ ?_ | refine Io.ite_keeps ?_ ?_)
    | split
    | (with_reducible first
        | refine State.Keeps.fst (by assumption) ?_ | exact State.Keeps.io (by assumption) | fail_if_no_progress refine State.Keeps.io ?_
        | fail_if_no_progress refine State.mk_keeps ?_ ?_ | fail_if_no_progress refine Io.mk_keeps ?_)

theorem execImageSectionReadDone_keeps {msk : Nat} {s0 : State} {index : Nat} {got : Option (List Byte)} {s : State} (hk0 : State.Keeps msk s0 s) (hm : Sub 0x10010460690042fc05040000000000000000000000020001c000004003800000000000000000001ffc1c5800000003fc80ffffff msk) :
    Result.Keeps msk s0 (execImageSectionReadDone index got s) := by
  unfold execImageSectionReadDone
  repeat' first
    | with_reducible assumption | exact Sub.of hm rfl | exact Has.of hm rfl | intro _
    | (with_reducible first
        | refine Result.next_keeps ?_ | apply State.sectionRead_keeps)

theorem execNvmReadTimeout_keeps {msk : Nat} {s0 : State} {sec : Option Nat} {s : State} (hk0 : State.Keeps msk s0 s) (hm : Sub 0x10010460690042fc05040000000000000000000000020001c000004003800000000000000000001ffc1c5800000003fc80ffffff msk) :
    Result.Keeps msk s0 (execNvmReadTimeout sec s) := by
  unfold execNvmReadTimeout
  repeat' first
    | with_reducible assumption | exact Sub.of hm rfl | exact Has.of hm rfl | intro _
    | (with_reducible first
        | refine Result.next_keeps ?_ | apply State.imageDefect_keeps | refine Result.ite_keeps ?_ ?_ | refine State.ite_keeps ?_ ?_
        | refine Io.ite_keeps ?_ ?_)
    | split
    | (with_reducible first
        | exact State.Keeps.io (by assumption) | fail_if_no_progress refine State.Keeps.io ?_)

theorem State.watchdogExpiry_keeps {msk : Nat} {s0 : State} {s : State} (hk0 : State.Keeps msk s0 s) (hm : Sub 0x10000000002c00004000000000000000000000000000000000000038000000000000000000000000000000000037c0021806f msk) :
    State.Keeps msk s0 (State.watchdogExpiry s) := by
  unfold State.watchdogExpiry
  repeat' first
    | with_reducible assumption | exact Sub.of hm rfl | exact Has.of hm rfl | intro _
    | (extract_lets +onlyGivenNames x; first | (refine (have hx : State.Keeps msk s0 x := ?_; ?_); (on_goal 2 => clear_value x); (on_goal 1 => subst x)) | (refine (have hx : State.Keeps msk s0 x.1 := ?_; ?_); (on_goal 2 => clear_value x); (on_goal 1 => subst x)) | clear_value x)
    | (with_reducible first
        | apply State.enterUmber_keeps | apply State.bootWindow_keeps | apply State.onNvm_keeps | refine State.ite_keeps ?_ ?_
        | refine Io.ite_keeps ?_ ?_)
    | split
    | (with_reducible first
        | exact State.Keeps.io (by assumption) | fail_if_no_progress refine State.Keeps.io ?_
        | fail_if_no_progress refine State.mk_keeps ?_ ?_ | fail_if_no_progress refine Io.mk_keeps ?_)

theorem execBootWatchdogExpiry_keeps {msk : Nat} {s0 : State} {s : State} (hk0 : State.Keeps msk s0 s) (hm : Sub 0x10000000002c00004000000000000000000000000000000000000038000000000000000000000000000000000037c0021806f msk) :
    Result.Keeps msk s0 (execBootWatchdogExpiry s) := by
  unfold execBootWatchdogExpiry
  repeat' first
    | with_reducible assumption | exact Sub.of hm rfl | exact Has.of hm rfl | intro _
    | (with_reducible first
        | refine Result.next_keeps ?_ | apply State.watchdogExpiry_keeps)

theorem State.programBlock_keeps {msk : Nat} {s0 : State} {s : State} (hk0 : State.Keeps msk s0 s) (hm : Sub 0x1000006069000000000000000000000000000000000000000000000000000000000000000000001ffc1c58000000000000278040 msk) :
    State.Keeps msk s0 (State.programBlock s) := by
  unfold State.programBlock
  repeat' first
    | with_reducible assumption | exact Sub.of hm rfl | exact Has.of hm rfl | intro _
    | (extract_lets +onlyGivenNames x; first | (refine (have hx : State.Keeps msk s0 x := ?_; ?_); (on_goal 2 => clear_value x); (on_goal 1 => subst x)) | clear_value x)
    | (with_reducible first
        | apply State.nvmWrite_keeps | refine State.ite_keeps ?_ ?_)
    | split
    | (with_reducible first
        | refine State.Keeps.fst (by assumption) ?_ | fail_if_no_progress refine State.mk_keeps ?_ ?_
        | fail_if_no_progress refine Io.eraseRing_keeps ?_ ?_)

theorem State.diodeWindow_keeps {msk : Nat} {s0 : State} {s : State} {d0 d1 : Int} (hk0 : State.Keeps msk s0 s) (hm : Sub 0x10010460690042fc05040000000000000000000000020001c000004003800000000000000000001ffc1c5800000003fc80ffffff msk) :
    State.Keeps msk s0 (State.diodeWindow s d0 d1) := by
  unfold State.diodeWindow
  repeat' first
    | with_reducible assumption | exact Sub.of hm rfl | exact Has.of hm rfl | intro _
    | (extract_lets +onlyGivenNames x; first | (refine (have hx : State.Keeps msk s0 x := ?_; ?_); (on_goal 2 => clear_value x); (on_goal 1 => subst x)) | (refine (have hx : State.Keeps msk s0 x.1 := ?_; ?_); (on_goal 2 => clear_value x); (on_goal 1 => subst x)) | clear_value x)
    | (with_reducible first
        | apply State.onBoot_keeps | apply State.bootWindow_keeps | apply State.onNvm_keeps | apply State.eraseHeaderNow_keeps
        | apply State.programBlock_keeps | apply State.restart_keeps | refine State.ite_keeps ?_ ?_ | refine Io.ite_keeps ?_ ?_)
    | split
    | (with_reducible first
        | exact State.Keeps.io (by assumption) | fail_if_no_progress refine State.Keeps.io ?_
        | fail_if_no_progress refine State.mk_keeps ?_ ?_ | fail_if_no_progress refine Io.mk_keeps ?_
        | fail_if_no_progress refine Io.eraseRing_keeps ?_ ?_)

theorem execDiodeWindowChange_keeps {msk : Nat} {s0 : State} {d0 d1 : Int} {s : State} (hk0 : State.Keeps msk s0 s) (hm : Sub 0x10010460690042fc05040000000000000000000000020001c000004003800000000000000000001ffc1c5800000003fc80ffffff msk) :
    Result.Keeps msk s0 (execDiodeWindowChange d0 d1 s) := by
  unfold execDiodeWindowChange
  repeat' first
    | with_reducible assumption | exact Sub.of hm rfl | exact Has.of hm rfl | intro _
    | (with_reducible first
        | refine Result.next_keeps ?_ | apply State.diodeWindow_keeps)

end Sys2Proof.Machine
end

