-- ==== Sys2Proof/Laws/KeepsUmber.lean ====
section
/-! SUPPORT. What the operations of Machine/Umber.lean keep. -/

set_option linter.unusedTactic false
set_option linter.unreachableTactic false
set_option linter.tactic.unusedName false

set_option Elab.async false

namespace Sys2Proof.Machine

theorem State.onStage_keeps {msk : Nat} {s0 : State} {s : State} {f : Stage → Stage} (hk0 : State.Keeps msk s0 s) (hm : Sub 0x40 msk) :
    State.Keeps msk s0 (State.onStage s f) := by
  unfold State.onStage
  repeat' first
    | with_reducible assumption | exact Sub.of hm rfl | exact Has.of hm rfl | intro _
    | (extract_lets +onlyGivenNames x; first | (refine (have hx : State.Keeps msk s0 x := ?_; ?_); (on_goal 2 => clear_value x); (on_goal 1 => subst x)) | clear_value x)
    | (with_reducible first
        | apply State.onBoot_keeps | fail_if_no_progress refine State.mk_keeps ?_ ?_)

theorem State.stageOpen_keeps {msk : Nat} {s0 : State} {s : State} {txn total : Nat} (hk0 : State.Keeps msk s0 s) (hm : Sub 0x70000000000000000000000000000000000000000000000000000000000000000000000000000000000000200040 msk) :
    State.Keeps msk s0 (State.stageOpen s txn total) := by
  unfold State.stageOpen
  repeat' first
    | with_reducible assumption | exact Sub.of hm rfl | exact Has.of hm rfl | intro _ | exact RegOf.CTL_UPD_PROGRESS
    | exact RegOf.CTL_UPD_RESULT | exact RegOf.CTL_UPD_STATE
    | (extract_lets +onlyGivenNames x; first | (refine (have hx : State.Keeps msk s0 x := ?_; ?_); (on_goal 2 => clear_value x); (on_goal 1 => subst x)) | (refine (have hx : State.Keeps msk s0 x.1 := ?_; ?_); (on_goal 2 => clear_value x); (on_goal 1 => subst x)) | clear_value x)
    | (with_reducible first
        | apply State.eraseHeader_keeps | apply State.onNvm_keeps | apply State.onStage_keeps | apply Io.setF_keeps | apply State.setF_keeps
        | refine State.ite_keeps ?_ ?_)
    | split
    | (with_reducible first
        | fail_if_no_progress refine State.mk_keeps ?_ ?_ | fail_if_no_progress refine Io.eraseRing_keeps ?_ ?_)

theorem State.stageKeep_keeps {msk : Nat} {s0 : State} {s : State} {off : Nat} {bs : List Byte} (hk0 : State.Keeps msk s0 s) (hm : Sub 0x20000000000000000000000000000000000000000000000000000000000000000000000000000000000000000040 msk) :
    State.Keeps msk s0 (State.stageKeep s off bs) := by
  unfold State.stageKeep
  repeat' first
    | with_reducible assumption | exact Sub.of hm rfl | exact Has.of hm rfl | intro _ | exact RegOf.CTL_UPD_PROGRESS
    | (extract_lets +onlyGivenNames x; first | (refine (have hx : State.Keeps msk s0 x := ?_; ?_); (on_goal 2 => clear_value x); (on_goal 1 => subst x)) | (refine (have hx : State.Keeps msk s0 x.1 := ?_; ?_); (on_goal 2 => clear_value x); (on_goal 1 => subst x)) | clear_value x)
    | (with_reducible first
        | apply State.onStage_keeps | apply Io.setF_keeps | apply State.setF_keeps | fail_if_no_progress refine State.mk_keeps ?_ ?_
        | fail_if_no_progress refine Io.eraseRing_keeps ?_ ?_)

theorem State.stageProgram_keeps {msk : Nat} {s0 : State} {s : State} (hk0 : State.Keeps msk s0 s) (hm : Sub 0x1000006069000000000000000000000000000000000000000000000000000000000000000000001ffc1c58000000000000278040 msk) :
    State.Keeps msk s0 (State.stageProgram s) := by
  unfold State.stageProgram
  repeat' first
    | with_reducible assumption | exact Sub.of hm rfl | exact Has.of hm rfl | intro _
    | (extract_lets +onlyGivenNames x; first | (refine (have hx : State.Keeps msk s0 x := ?_; ?_); (on_goal 2 => clear_value x); (on_goal 1 => subst x)) | clear_value x)
    | with_reducible apply State.nvmWrite_keeps | split
    | (with_reducible first
        | refine State.Keeps.fst (by assumption) ?_ | fail_if_no_progress refine State.mk_keeps ?_ ?_
        | fail_if_no_progress refine Io.eraseRing_keeps ?_ ?_)

theorem State.stageArm_keeps {msk : Nat} {s0 : State} {s : State} (hk0 : State.Keeps msk s0 s) (hm : Sub 0x1000006069001000000000000000000000000000000000000000000000000000000000000000001ffc1c58000000000000278040 msk) :
    State.Keeps msk s0 (State.stageArm s) := by
  unfold State.stageArm
  repeat' first
    | with_reducible assumption | exact Sub.of hm rfl | exact Has.of hm rfl | intro _ | exact RegOf.CTL_UPD_STATE
    | (extract_lets +onlyGivenNames x; first | (refine (have hx : State.Keeps msk s0 x := ?_; ?_); (on_goal 2 => clear_value x); (on_goal 1 => subst x)) | clear_value x)
    | (with_reducible first
        | apply State.nvmWrite_keeps | apply Io.setF_keeps | apply State.setF_keeps | apply Io.fire_keeps | apply State.fire_keeps)
    | split
    | (with_reducible first
        | refine State.Keeps.fst (by assumption) ?_ | fail_if_no_progress refine State.mk_keeps ?_ ?_)

theorem State.stageClose_keeps {msk : Nat} {s0 : State} {s : State} (hk0 : State.Keeps msk s0 s) (hm : Sub 0x1000006069001000000000000000000000000000000000000000000000000000000000000000001ffc1c58000000000000278040 msk) :
    State.Keeps msk s0 (State.stageClose s) := by
  unfold State.stageClose
  repeat' first
    | with_reducible assumption | exact Sub.of hm rfl | exact Has.of hm rfl | intro _ | exact RegOf.CTL_UPD_STATE
    | (extract_lets +onlyGivenNames x; first | (refine (have hx : State.Keeps msk s0 x := ?_; ?_); (on_goal 2 => clear_value x); (on_goal 1 => subst x)) | clear_value x)
    | (with_reducible first
        | apply State.stageArm_keeps | apply Io.setF_keeps | apply State.setF_keeps | apply State.onNvm_keeps | refine State.ite_keeps ?_ ?_
        | refine Io.ite_keeps ?_ ?_)
    | split
    | (with_reducible first
        | exact State.Keeps.io (by assumption) | fail_if_no_progress refine State.Keeps.io ?_
        | fail_if_no_progress refine State.mk_keeps ?_ ?_ | fail_if_no_progress refine Io.mk_keeps ?_
        | fail_if_no_progress refine Io.eraseRing_keeps ?_ ?_)

theorem State.stageDiscard_keeps {msk : Nat} {s0 : State} {s : State} (hk0 : State.Keeps msk s0 s) (hm : Sub 0x10000000000000000000000000000000000000000000000000000000000000000000000000000000000000200040 msk) :
    State.Keeps msk s0 (State.stageDiscard s) := by
  unfold State.stageDiscard
  repeat' first
    | with_reducible assumption | exact Sub.of hm rfl | exact Has.of hm rfl | intro _ | exact RegOf.CTL_UPD_STATE
    | (extract_lets +onlyGivenNames x; first | (refine (have hx : State.Keeps msk s0 x := ?_; ?_); (on_goal 2 => clear_value x); (on_goal 1 => subst x)) | clear_value x)
    | (with_reducible first
        | apply State.eraseHeader_keeps | apply State.onStage_keeps | apply Io.setF_keeps | apply State.setF_keeps
        | fail_if_no_progress refine State.mk_keeps ?_ ?_ | fail_if_no_progress refine Io.eraseRing_keeps ?_ ?_)

theorem State.umberEnd_keeps {msk : Nat} {s0 : State} {s : State} {r : Nat} (hk0 : State.Keeps msk s0 s) (hm : Sub 0x1000000000000000000000000000000000000000000000000000000000000000000000000000000000000000000000 msk) :
    State.Keeps msk s0 (State.umberEnd s r) := by
  unfold State.umberEnd
  repeat' first
    | with_reducible assumption | exact Sub.of hm rfl | exact Has.of hm rfl | intro _ | exact RegOf.CTL_UMB_STAT
    | (with_reducible first
        | apply Io.setF_keeps | apply State.setF_keeps)

theorem State.umberCmd_keeps {msk : Nat} {s0 : State} {s : State} {cmd : Nat} {f : State → State} (hk0 : State.Keeps msk s0 s) (hf : ∀ x0, State.Keeps msk s0 x0 → State.Keeps msk s0 (f x0)) (hm : Sub 0x200000000000000000000000000000000000000000000000000000000000000000000000000000000000000000000 msk) :
    State.Keeps msk s0 (State.umberCmd s cmd f) := by
  unfold State.umberCmd
  repeat' first
    | with_reducible assumption | exact Sub.of hm rfl | exact Has.of hm rfl | intro _ | exact RegOf.CTL_UMB_CMD
    | (with_reducible first
        | apply hf | apply Io.setF_keeps | apply State.setF_keeps | refine State.ite_keeps ?_ ?_)
    | split

theorem execUmberNone_keeps {msk : Nat} {s0 : State} {s : State} (hk0 : State.Keeps msk s0 s) (hm : Sub 0x1200000000000000000000000000000000000000000000000000000000000000000000000000000000000000000000 msk) :
    Result.Keeps msk s0 (execUmberNone s) := by
  unfold execUmberNone
  repeat' first
    | with_reducible assumption | exact Sub.of hm rfl | exact Has.of hm rfl | intro _
    | (with_reducible first
        | refine Result.next_keeps ?_ | apply State.umberCmd_keeps | apply State.umberEnd_keeps)

theorem State.umberFormat_keeps {msk : Nat} {s0 : State} {s : State} (hk0 : State.Keeps msk s0 s) (hm : Sub 0x1000006069100000000000000000000000000000000000000000000000000000000000000000001ffc1c58000000000000278040 msk) :
    State.Keeps msk s0 (State.umberFormat s) := by
  unfold State.umberFormat
  repeat' first
    | with_reducible assumption | exact Sub.of hm rfl | exact Has.of hm rfl | intro _
    | (extract_lets +onlyGivenNames x; first | (refine (have hx : State.Keeps msk s0 x := ?_; ?_); (on_goal 2 => clear_value x); (on_goal 1 => subst x)) | (refine (have hx : State.Keeps msk s0 x.1 := ?_; ?_); (on_goal 2 => clear_value x); (on_goal 1 => subst x)) | clear_value x)
    | (with_reducible first
        | apply State.umberEnd_keeps | apply State.nvmWrite_keeps | refine State.ite_keeps ?_ ?_)
    | split

theorem execUmberFormat_keeps {msk : Nat} {s0 : State} {s : State} (hk0 : State.Keeps msk s0 s) (hm : Sub 0x1000006069120000000000000000000000000000000000000000000000000000000000000000001ffc1c58000000000000278040 msk) :
    Result.Keeps msk s0 (execUmberFormat s) := by
  unfold execUmberFormat
  repeat' first
    | with_reducible assumption | exact Sub.of hm rfl | exact Has.of hm rfl | intro _
    | (with_reducible first
        | refine Result.next_keeps ?_ | apply State.umberCmd_keeps | apply State.umberFormat_keeps)

theorem State.umberOpen_keeps {msk : Nat} {s0 : State} {s : State} (hk0 : State.Keeps msk s0 s) (hm : Sub 0x1070000000000000000000000000000000000000000000000000000000000000000000000000000000000000200040 msk) :
    State.Keeps msk s0 (State.umberOpen s) := by
  unfold State.umberOpen
  repeat' first
    | with_reducible assumption | exact Sub.of hm rfl | exact Has.of hm rfl | intro _
    | (extract_lets +onlyGivenNames x; first | (refine (have hx : State.Keeps msk s0 x := ?_; ?_); (on_goal 2 => clear_value x); (on_goal 1 => subst x)) | (refine (have hx : State.Keeps msk s0 x.1 := ?_; ?_); (on_goal 2 => clear_value x); (on_goal 1 => subst x)) | clear_value x)
    | (with_reducible first
        | apply State.umberEnd_keeps | apply State.onStage_keeps | apply State.stageOpen_keeps | refine State.ite_keeps ?_ ?_)
    | split | with_reducible fail_if_no_progress refine State.mk_keeps ?_ ?_

theorem execUmberOpen_keeps {msk : Nat} {s0 : State} {s : State} (hk0 : State.Keeps msk s0 s) (hm : Sub 0x1270000000000000000000000000000000000000000000000000000000000000000000000000000000000000200040 msk) :
    Result.Keeps msk s0 (execUmberOpen s) := by
  unfold execUmberOpen
  repeat' first
    | with_reducible assumption | exact Sub.of hm rfl | exact Has.of hm rfl | intro _
    | (with_reducible first
        | refine Result.next_keeps ?_ | apply State.umberCmd_keeps | apply State.umberOpen_keeps)

theorem State.umberBlock_keeps {msk : Nat} {s0 : State} {s : State} (hk0 : State.Keeps msk s0 s) (hm : Sub 0x1000006069100000000000000000000000000000000000000000000000000000000000000000001ffc1c58000000000000278040 msk) :
    State.Keeps msk s0 (State.umberBlock s) := by
  unfold State.umberBlock
  repeat' first
    | with_reducible assumption | exact Sub.of hm rfl | exact Has.of hm rfl | intro _ | exact RegOf.CTL_UMB_STAT
    | (extract_lets +onlyGivenNames x; first | (refine (have hx : State.Keeps msk s0 x := ?_; ?_); (on_goal 2 => clear_value x); (on_goal 1 => subst x)) | (refine (have hx : State.Keeps msk s0 x.1 := ?_; ?_); (on_goal 2 => clear_value x); (on_goal 1 => subst x)) | clear_value x)
    | (with_reducible first
        | apply State.umberEnd_keeps | apply State.onStage_keeps | apply Io.setF_keeps | apply State.setF_keeps
        | apply State.programBlock_keeps | refine State.ite_keeps ?_ ?_)
    | split
    | (with_reducible first
        | refine State.Keeps.fst (by assumption) ?_ | fail_if_no_progress refine State.mk_keeps ?_ ?_)

theorem execUmberBlock_keeps {msk : Nat} {s0 : State} {s : State} (hk0 : State.Keeps msk s0 s) (hm : Sub 0x1000006069120000000000000000000000000000000000000000000000000000000000000000001ffc1c58000000000000278040 msk) :
    Result.Keeps msk s0 (execUmberBlock s) := by
  unfold execUmberBlock
  repeat' first
    | with_reducible assumption | exact Sub.of hm rfl | exact Has.of hm rfl | intro _
    | (with_reducible first
        | refine Result.next_keeps ?_ | apply State.umberCmd_keeps | apply State.umberBlock_keeps)

theorem execUmberBlockProgrammed_keeps {msk : Nat} {s0 : State} {readback : Bool} {s : State} (hk0 : State.Keeps msk s0 s) (hm : Sub 0x1000006069102000000000000000000000000000000000000000000000000000000000000000001ffc1c58000000000000278040 msk) :
    Result.Keeps msk s0 (execUmberBlockProgrammed readback s) := by
  unfold execUmberBlockProgrammed
  repeat' first
    | with_reducible assumption | exact Sub.of hm rfl | exact Has.of hm rfl | intro _ | exact RegOf.CTL_UPD_PROGRESS
    | (extract_lets +onlyGivenNames x; first | (refine (have hx : State.Keeps msk s0 x := ?_; ?_); (on_goal 2 => clear_value x); (on_goal 1 => subst x)) | (refine (have hx : State.Keeps msk s0 x.1 := ?_; ?_); (on_goal 2 => clear_value x); (on_goal 1 => subst x)) | clear_value x)
    | (with_reducible first
        | refine Result.next_keeps ?_ | apply State.onStage_keeps | apply Io.setF_keeps | apply State.setF_keeps
        | apply State.umberEnd_keeps | apply State.programBlock_keeps | refine Result.ite_keeps ?_ ?_ | refine State.ite_keeps ?_ ?_
        | refine Io.ite_keeps ?_ ?_)
    | split
    | (with_reducible first
        | refine State.Keeps.fst (by assumption) ?_ | exact State.Keeps.io (by assumption) | fail_if_no_progress refine State.Keeps.io ?_
        | fail_if_no_progress refine State.mk_keeps ?_ ?_ | fail_if_no_progress refine Io.mk_keeps ?_)

theorem execUmberClose_keeps {msk : Nat} {s0 : State} {s : State} (hk0 : State.Keeps msk s0 s) (hm : Sub 0x1000006069121000000000000000000000000000000000000000000000000000000000000000001ffc1c58000000000000278040 msk) :
    Result.Keeps msk s0 (execUmberClose s) := by
  unfold execUmberClose
  repeat' first
    | with_reducible assumption | exact Sub.of hm rfl | exact Has.of hm rfl | intro _
    | (with_reducible first
        | refine Result.next_keeps ?_ | apply State.umberCmd_keeps | apply State.stageArm_keeps | apply State.umberEnd_keeps
        | refine Result.ite_keeps ?_ ?_ | refine State.ite_keeps ?_ ?_)
    | split

theorem execUmberDiscard_keeps {msk : Nat} {s0 : State} {s : State} (hk0 : State.Keeps msk s0 s) (hm : Sub 0x1210000000000000000000000000000000000000000000000000000000000000000000000000000000000000200040 msk) :
    Result.Keeps msk s0 (execUmberDiscard s) := by
  unfold execUmberDiscard
  repeat' first
    | with_reducible assumption | exact Sub.of hm rfl | exact Has.of hm rfl | intro _
    | (with_reducible first
        | refine Result.next_keeps ?_ | apply State.umberCmd_keeps | apply State.stageDiscard_keeps | apply State.umberEnd_keeps)

theorem execUmberRestart_keeps {msk : Nat} {s0 : State} {programmed : List (Nat × List Byte)} {s : State} (hk0 : State.Keeps msk s0 s) (hm : Sub 0x10010460690242fc05040000000000000000000000020001c000004003800000000000000000001ffc1c5800000003fc80ffffff msk) :
    Result.Keeps msk s0 (execUmberRestart s programmed) := by
  unfold execUmberRestart
  repeat' first
    | with_reducible assumption | exact Sub.of hm rfl | exact Has.of hm rfl | intro _
    | (with_reducible first
        | refine Result.next_keeps ?_ | apply State.umberCmd_keeps | apply State.program_keeps | apply State.restart_keeps
        | refine Result.ite_keeps ?_ ?_ | refine State.ite_keeps ?_ ?_)
    | split

theorem execUmberBootActive_keeps {msk : Nat} {s0 : State} {s : State} (hk0 : State.Keeps msk s0 s) (hm : Sub 0x10010460690252fc05040000000000000000000000020001c000004003800000000000000000001ffc1c5800000003fc80ffffff msk) :
    Result.Keeps msk s0 (execUmberBootActive s) := by
  unfold execUmberBootActive
  repeat' first
    | with_reducible assumption | exact Sub.of hm rfl | exact Has.of hm rfl | intro _
    | (extract_lets +onlyGivenNames x; first | (refine (have hx : State.Keeps msk s0 x := ?_; ?_); (on_goal 2 => clear_value x); (on_goal 1 => subst x)) | clear_value x)
    | (with_reducible first
        | refine Result.next_keeps ?_ | apply State.umberCmd_keeps | apply State.stageDiscard_keeps | apply State.onNvm_keeps
        | apply State.restart_keeps | fail_if_no_progress refine State.mk_keeps ?_ ?_)

theorem execUmberBadCmd_keeps {msk : Nat} {s0 : State} {cmd : Nat} {s : State} (hk0 : State.Keeps msk s0 s) (hm : Sub 0x1200000000000000000000000000000000000000000000000000000000000000000000000000000000000000000000 msk) :
    Result.Keeps msk s0 (execUmberBadCmd cmd s) := by
  unfold execUmberBadCmd
  repeat' first
    | with_reducible assumption | exact Sub.of hm rfl | exact Has.of hm rfl | intro _
    | (with_reducible first
        | refine Result.next_keeps ?_ | apply State.umberCmd_keeps | apply State.umberEnd_keeps)

end Sys2Proof.Machine
end

