-- ==== Sys2Proof/Laws/KeepsStage.lean ====
section
/-! SUPPORT. What the operations of Machine/Stage.lean keep. -/

set_option linter.unusedTactic false
set_option linter.unreachableTactic false
set_option linter.tactic.unusedName false

set_option Elab.async false

namespace Sys2Proof.Machine

theorem State.onEntry_keeps {msk : Nat} {s0 : State} {s : State} {n i op : Nat} {need64 : Bool} {fieldsOk : List Byte → Bool} {body : List Byte → State → State} (hk0 : State.Keeps msk s0 s) (hbody : ∀ x0 x1, State.Keeps msk s0 x1 → State.Keeps msk s0 (body x0 x1)) (hm : Sub 0x1000006069000000000000000000000000000000000000000000000000000000000000000000001ffc1c58000000000000278000 msk) :
    State.Keeps msk s0 (State.onEntry s n i op need64 fieldsOk body) := by
  unfold State.onEntry
  repeat' first
    | with_reducible assumption | exact Sub.of hm rfl | exact Has.of hm rfl | intro _
    | (extract_lets +onlyGivenNames x; first | (refine (have hx : State.Keeps msk s0 x := ?_; ?_); (on_goal 2 => clear_value x); (on_goal 1 => subst x)) | (refine (have hx : State.Keeps msk s0 x.1 := ?_; ?_); (on_goal 2 => clear_value x); (on_goal 1 => subst x)) | clear_value x)
    | (with_reducible first
        | apply hbody | apply Io.fire_keeps | apply State.fire_keeps | apply State.on_keeps | apply Io.answer_keeps | apply State.on_keeps
        | refine State.ite_keeps ?_ ?_ | refine Io.ite_keeps ?_ ?_)
    | split
    | (with_reducible first
        | refine State.Keeps.fst (by assumption) ?_ | exact State.Keeps.io (by assumption) | fail_if_no_progress refine State.Keeps.io ?_
        | fail_if_no_progress refine State.mk_keeps ?_ ?_ | fail_if_no_progress refine Io.mk_keeps ?_)

theorem State.wallCmdTo_keeps {msk : Nat} {s0 : State} {s : State} {chain pos cmd : Nat} {body : List Byte} (hk0 : State.Keeps msk s0 s) (hm : Sub 0x2 msk) :
    State.Keeps msk s0 (State.wallCmdTo s chain pos cmd body) := by
  unfold State.wallCmdTo
  repeat' first
    | with_reducible assumption | exact Sub.of hm rfl | exact Has.of hm rfl | intro _
    | with_reducible apply State.queueBulk_keeps

theorem State.wallCmdAll_keeps {msk : Nat} {s0 : State} {s : State} {p : Nat → Bool} {cmd : Nat} {body : List Byte} (hk0 : State.Keeps msk s0 s) (hm : Sub 0x2 msk) :
    State.Keeps msk s0 (State.wallCmdAll s p cmd body) := by
  unfold State.wallCmdAll
  repeat' first
    | with_reducible assumption | exact Sub.of hm rfl | exact Has.of hm rfl | intro _
    | (with_reducible first
        | apply State.queueBulk_keeps | apply State.foldl_keeps | apply State.foldl_keeps_fst)

theorem State.keptCmd_keeps {msk : Nat} {s0 : State} {s : State} {p cmd : Nat} {bs : List Byte} {states : List Nat} (hk0 : State.Keeps msk s0 s) (hm : Sub 0x1000006069000000000000000000000000000000000000000000000060000000000000000000001ffc1c58000000000000278000 msk) :
    State.Keeps msk s0 (State.keptCmd s p cmd bs states).1 := by
  unfold State.keptCmd
  repeat' first
    | with_reducible assumption | exact Sub.of hm rfl | exact Has.of hm rfl | intro _
    | (extract_lets +onlyGivenNames x; first | (refine (have hx : State.Keeps msk s0 x := ?_; ?_); (on_goal 2 => clear_value x); (on_goal 1 => subst x)) | clear_value x)
    | (with_reducible first
        | apply State.kept_keeps | refine State.ite_keeps ?_ ?_ | refine State.ite_keeps_fst ?_ ?_ | refine Io.ite_keeps ?_ ?_
        | refine Io.ite_keeps_fst ?_ ?_)
    | split
    | (with_reducible first
        | refine State.Keeps.fst (by assumption) ?_ | exact State.Keeps.io (by assumption) | fail_if_no_progress refine State.Keeps.io ?_
        | fail_if_no_progress refine State.mk_keeps ?_ ?_ | fail_if_no_progress refine Io.mk_keeps ?_)

theorem State.stageSend_keeps {msk : Nat} {s0 : State} {s : State} {tkind chain pos : Nat} {payload : List Byte} (hk0 : State.Keeps msk s0 s) (hm : Sub 0x2 msk) :
    State.Keeps msk s0 (State.stageSend s tkind chain pos payload) := by
  unfold State.stageSend
  repeat' first
    | with_reducible assumption | exact Sub.of hm rfl | exact Has.of hm rfl | intro _
    | (with_reducible first
        | apply State.queueBulk_keeps | apply State.foldl_keeps | apply State.foldl_keeps_fst | refine State.ite_keeps ?_ ?_)
    | split

theorem State.stageSendData_keeps {m : Nat} {s0 : State} {tkind chain pos part txn k off : Nat} {bs : List Byte} {s : State} (h : State.Keeps m s0 s)
    (hm : Sub 0x2 m) : State.Keeps m s0 (State.stageSendData tkind chain pos part txn k off bs s) := by
  induction k generalizing s off bs with
  | zero => exact h
  | succ k ih =>
    unfold State.stageSendData
    split
    · exact h
    · exact ih (State.stageSend_keeps h (Sub.of hm rfl))

theorem State.finishJob_keeps {msk : Nat} {s0 : State} {s : State} {j : StageJob} {d : Done} (hk0 : State.Keeps msk s0 s) (hm : Sub 0x1000006069000000000000000000000000000000000000000000000000000000000000000000001ffc1c58000000000000278040 msk) :
    State.Keeps msk s0 (State.finishJob s j d) := by
  unfold State.finishJob
  repeat' first
    | with_reducible assumption | exact Sub.of hm rfl | exact Has.of hm rfl | intro _
    | (extract_lets +onlyGivenNames x; first | (refine (have hx : State.Keeps msk s0 x := ?_; ?_); (on_goal 2 => clear_value x); (on_goal 1 => subst x)) | (refine (have hx : State.Keeps msk s0 x.1 := ?_; ?_); (on_goal 2 => clear_value x); (on_goal 1 => subst x)) | clear_value x)
    | (with_reducible first
        | apply State.onStage_keeps | apply State.on_keeps | apply Io.finish_keeps | apply State.on_keeps)
    | split
    | (with_reducible first
        | refine State.Keeps.fst (by assumption) ?_ | exact State.Keeps.io (by assumption) | fail_if_no_progress refine State.Keeps.io ?_
        | fail_if_no_progress refine State.mk_keeps ?_ ?_ | fail_if_no_progress refine Io.mk_keeps ?_)

theorem State.stageProgress_keeps {msk : Nat} {s0 : State} {s : State} (hk0 : State.Keeps msk s0 s) (hm : Sub 0x1000006069000000000000000000000000000000000000000000000000000000000000000000001ffc1c58000000000000278040 msk) :
    State.Keeps msk s0 (State.stageProgress s) := by
  unfold State.stageProgress
  repeat' first
    | with_reducible assumption | exact Sub.of hm rfl | exact Has.of hm rfl | intro _
    | (extract_lets +onlyGivenNames x; first | (refine (have hx : State.Keeps msk s0 x := ?_; ?_); (on_goal 2 => clear_value x); (on_goal 1 => subst x)) | clear_value x)
    | (with_reducible first
        | apply State.finishJob_keeps | refine State.ite_keeps ?_ ?_)
    | split
    | (with_reducible first
        | refine State.Keeps.fst (by assumption) ?_ | fail_if_no_progress refine State.mk_keeps ?_ ?_)

theorem State.closeProgress_keeps {msk : Nat} {s0 : State} {s : State} (hk0 : State.Keeps msk s0 s) (hm : Sub 0x1000006069000000000000000000000000000000000000000000000000000000000000000000001ffc1c58000000000000278040 msk) :
    State.Keeps msk s0 (State.closeProgress s) := by
  unfold State.closeProgress
  repeat' first
    | with_reducible assumption | exact Sub.of hm rfl | exact Has.of hm rfl | intro _
    | (extract_lets +onlyGivenNames x; first | (refine (have hx : State.Keeps msk s0 x := ?_; ?_); (on_goal 2 => clear_value x); (on_goal 1 => subst x)) | clear_value x)
    | (with_reducible first
        | apply State.finishJob_keeps | refine State.ite_keeps ?_ ?_)
    | split
    | (with_reducible first
        | refine State.Keeps.fst (by assumption) ?_ | fail_if_no_progress refine State.mk_keeps ?_ ?_)

theorem State.stageEntry_keeps {msk : Nat} {s0 : State} {s : State} {ring i : Nat} {mine : Nat → Bool} {run : List Byte → State → State} (hk0 : State.Keeps msk s0 s) (hrun : ∀ x0 x1, State.Keeps msk s0 x1 → State.Keeps msk s0 (run x0 x1)) (hm : Sub 0x1000006069000000000000000000000000000000000000000000000000000000000000000000001ffc1c58000000000000278000 msk) :
    State.Keeps msk s0 (State.stageEntry s ring i mine run) := by
  unfold State.stageEntry
  repeat' first
    | with_reducible assumption | exact Sub.of hm rfl | exact Has.of hm rfl | intro _
    | (extract_lets +onlyGivenNames x; first | (refine (have hx : State.Keeps msk s0 x := ?_; ?_); (on_goal 2 => clear_value x); (on_goal 1 => subst x)) | clear_value x)
    | (with_reducible first
        | apply hrun | apply Io.onEntry_keeps | apply State.onEntry_keeps | apply State.on_keeps | apply Io.answer_keeps
        | apply State.on_keeps | refine State.ite_keeps ?_ ?_ | refine Io.ite_keeps ?_ ?_)
    | split
    | (with_reducible first
        | refine State.Keeps.fst (by assumption) ?_ | exact State.Keeps.io (by assumption) | fail_if_no_progress refine State.Keeps.io ?_
        | fail_if_no_progress refine State.mk_keeps ?_ ?_ | fail_if_no_progress refine Io.mk_keeps ?_)

theorem State.startJob_keeps {msk : Nat} {s0 : State} {s : State} {ring i : Nat} {e : List Byte} {off fin : Nat} {targets : List (Nat × Nat × Nat × Nat)} (hk0 : State.Keeps msk s0 s) (hm : Sub 0x8040 msk) :
    State.Keeps msk s0 (State.startJob s ring i e off fin targets) := by
  unfold State.startJob
  repeat' first
    | with_reducible assumption | exact Sub.of hm rfl | exact Has.of hm rfl | intro _
    | (extract_lets +onlyGivenNames x; first | (refine (have hx : State.Keeps msk s0 x := ?_; ?_); (on_goal 2 => clear_value x); (on_goal 1 => subst x)) | clear_value x)
    | (with_reducible first
        | apply State.on_keeps | apply Io.activate_keeps | apply State.onStage_keeps | apply State.on_keeps)
    | split
    | (with_reducible first
        | exact State.Keeps.io (by assumption) | fail_if_no_progress refine State.Keeps.io ?_
        | fail_if_no_progress refine State.mk_keeps ?_ ?_ | fail_if_no_progress refine Io.mk_keeps ?_)

theorem execStageOpen_keeps {msk : Nat} {s0 : State} {ring i : Nat} {s : State} (hk0 : State.Keeps msk s0 s) (hm : Sub 0x1000006069007000000000000000000000000000000000000000000000000000000000000000001ffc1c58000000000000278042 msk) :
    Result.Keeps msk s0 (execStageOpen ring i s) := by
  unfold execStageOpen
  repeat' first
    | with_reducible assumption | exact Sub.of hm rfl | exact Has.of hm rfl | intro _
    | (extract_lets +onlyGivenNames x; first | (refine (have hx : State.Keeps msk s0 x := ?_; ?_); (on_goal 2 => clear_value x); (on_goal 1 => subst x)) | (refine (have hx : State.Keeps msk s0 x.1 := ?_; ?_); (on_goal 2 => clear_value x); (on_goal 1 => subst x)) | clear_value x)
    | (with_reducible first
        | refine Result.next_keeps ?_ | apply State.stageEntry_keeps | apply State.onStage_keeps | apply State.stageOpen_keeps
        | apply State.on_keeps | apply Io.answer_keeps | apply State.startJob_keeps | apply State.stageSend_keeps | apply State.on_keeps
        | refine Result.ite_keeps ?_ ?_ | refine State.ite_keeps ?_ ?_ | refine Io.ite_keeps ?_ ?_)
    | split
    | (with_reducible first
        | exact State.Keeps.io (by assumption) | fail_if_no_progress refine State.Keeps.io ?_
        | fail_if_no_progress refine State.mk_keeps ?_ ?_ | fail_if_no_progress refine Io.mk_keeps ?_)

theorem State.stageRead_keeps {msk : Nat} {s0 : State} {s : State} {ring i : Nat} {mem : HostMem} {late : Option Nat} {e : List Byte} (hk0 : State.Keeps msk s0 s) (hm : Sub 0x1000006069000000000000000000000000000000000000000000000000000000000000000004001ffc1c58000000000000278000 msk) :
    State.Keeps msk s0 (State.stageRead s ring i mem late e).1 := by
  unfold State.stageRead
  repeat' first
    | with_reducible assumption | exact Sub.of hm rfl | exact Has.of hm rfl | intro _
    | (extract_lets +onlyGivenNames x; first | (refine (have hx : State.Keeps msk s0 x := ?_; ?_); (on_goal 2 => clear_value x); (on_goal 1 => subst x)) | (refine (have hx : State.Keeps msk s0 x.1 := ?_; ?_); (on_goal 2 => clear_value x); (on_goal 1 => subst x)) | (refine (have hx : Io.Keeps msk s0.io x := ?_; ?_); (on_goal 2 => clear_value x); (on_goal 1 => subst x)) | (refine (have hx : Io.Keeps msk s0.io x.1 := ?_; ?_); (on_goal 2 => clear_value x); (on_goal 1 => subst x)) | (refine (have hx : ∀ y, State.Keeps msk s0 (x y) := ?_; ?_); (on_goal 2 => clear_value x); (on_goal 1 => subst x)) | (refine (have hx : ∀ y, State.Keeps msk s0 (x y).1 := ?_; ?_); (on_goal 2 => clear_value x); (on_goal 1 => subst x)) | clear_value x)
    | (with_reducible first
        | apply Io.readOps_keeps | apply Io.settle_keeps | apply Io.completeOwn_keeps | apply hx | refine State.ite_keeps ?_ ?_
        | refine State.ite_keeps_fst ?_ ?_ | refine Io.ite_keeps ?_ ?_ | refine Io.ite_keeps_fst ?_ ?_)
    | split
    | (with_reducible first
        | refine State.Keeps.fst (by assumption) ?_ | refine Io.Keeps.fst (by assumption) ?_ | exact State.Keeps.io (by assumption)
        | fail_if_no_progress refine State.Keeps.io ?_ | fail_if_no_progress refine State.mk_keeps ?_ ?_
        | fail_if_no_progress refine Io.mk_keeps ?_ | fail_if_no_progress refine Io.setOps_keeps ?_ ?_)

theorem State.stageForward_keeps {msk : Nat} {s0 : State} {s : State} {e bs : List Byte} (hk0 : State.Keeps msk s0 s) (hm : Sub 0x42 msk) :
    State.Keeps msk s0 (State.stageForward s e bs) := by
  unfold State.stageForward
  repeat' first
    | with_reducible assumption | exact Sub.of hm rfl | exact Has.of hm rfl | intro _
    | (extract_lets +onlyGivenNames x; first | (refine (have hx : State.Keeps msk s0 x := ?_; ?_); (on_goal 2 => clear_value x); (on_goal 1 => subst x)) | (refine (have hx : State.Keeps msk s0 x.1 := ?_; ?_); (on_goal 2 => clear_value x); (on_goal 1 => subst x)) | clear_value x)
    | (with_reducible first
        | apply State.stageSendData_keeps | apply State.onStage_keeps)
    | split
    | (with_reducible first
        | refine State.Keeps.fst (by assumption) ?_ | fail_if_no_progress refine State.mk_keeps ?_ ?_
        | fail_if_no_progress refine Io.eraseRing_keeps ?_ ?_)

theorem State.stageTake_keeps {msk : Nat} {s0 : State} {s : State} {e bs : List Byte} (hk0 : State.Keeps msk s0 s) (hm : Sub 0x20000000000000000000000000000000000000000000000000000000000000000000000000000000000000000042 msk) :
    State.Keeps msk s0 (State.stageTake s e bs) := by
  unfold State.stageTake
  repeat' first
    | with_reducible assumption | exact Sub.of hm rfl | exact Has.of hm rfl | intro _
    | (with_reducible first
        | apply State.stageKeep_keeps | apply State.stageForward_keeps | refine State.ite_keeps ?_ ?_)
    | split

theorem State.stageOwe_keeps {msk : Nat} {s0 : State} {s : State} {ring i : Nat} {e : List Byte} {d : Done} (hk0 : State.Keeps msk s0 s) (hm : Sub 0x1000006069000000000000000000000000000000000000000000000000000000000000000000001ffc5c58000000000000278000 msk) :
    State.Keeps msk s0 (State.stageOwe s ring i e d) := by
  unfold State.stageOwe
  repeat' first
    | with_reducible assumption | exact Sub.of hm rfl | exact Has.of hm rfl | intro _
    | (with_reducible first
        | apply State.on_keeps | apply Io.activate_keeps | apply Io.owe_keeps | apply State.on_keeps | exact State.Keeps.io (by assumption)
        | fail_if_no_progress refine State.Keeps.io ?_)

theorem State.stageData_keeps {msk : Nat} {s0 : State} {s : State} {ring i : Nat} {mem : HostMem} {late : Option Nat} (hk0 : State.Keeps msk s0 s) (hm : Sub 0x1000006069002000000000000000000000000000000000000000000000000000000000000004001ffc5c58000000000000278042 msk) :
    State.Keeps msk s0 (State.stageData s ring i mem late) := by
  unfold State.stageData
  repeat' first
    | with_reducible assumption | exact Sub.of hm rfl | exact Has.of hm rfl | intro _
    | (extract_lets +onlyGivenNames x; first | (refine (have hx : State.Keeps msk s0 x := ?_; ?_); (on_goal 2 => clear_value x); (on_goal 1 => subst x)) | clear_value x)
    | (with_reducible first
        | apply State.stageEntry_keeps | apply State.stageRead_keeps | apply State.stageTake_keeps | apply State.on_keeps
        | apply Io.settle_keeps | apply Io.countFault_keeps | apply Io.logFault_keeps | apply State.stageOwe_keeps
        | apply State.startJob_keeps | apply State.stageForward_keeps | apply State.on_keeps | refine State.ite_keeps ?_ ?_
        | refine Io.ite_keeps ?_ ?_)
    | split
    | (with_reducible first
        | refine State.Keeps.fst (by assumption) ?_ | exact State.Keeps.io (by assumption) | fail_if_no_progress refine State.Keeps.io ?_
        | fail_if_no_progress refine State.mk_keeps ?_ ?_ | fail_if_no_progress refine Io.mk_keeps ?_)

theorem execStageData_keeps {msk : Nat} {s0 : State} {ring i : Nat} {mem : HostData} {inFlight : Nat} {s : State} (hk0 : State.Keeps msk s0 s) (hm : Sub 0x1000006069002000000000000000000000000000000000000000000000000000000000000004001ffc5c58000000000000278042 msk) :
    Result.Keeps msk s0 (execStageData ring i mem inFlight s) := by
  unfold execStageData
  repeat' first
    | with_reducible assumption | exact Sub.of hm rfl | exact Has.of hm rfl | intro _
    | (with_reducible first
        | refine Result.next_keeps ?_ | apply State.stageData_keeps)
    | split

theorem execStageClose_keeps {msk : Nat} {s0 : State} {ring i : Nat} {s : State} (hk0 : State.Keeps msk s0 s) (hm : Sub 0x1000006069001000000000000000000000000000000000000000000000000000000000000000001ffc1c58000000000000278042 msk) :
    Result.Keeps msk s0 (execStageClose ring i s) := by
  unfold execStageClose
  repeat' first
    | with_reducible assumption | exact Sub.of hm rfl | exact Has.of hm rfl | intro _
    | (extract_lets +onlyGivenNames x; first | (refine (have hx : State.Keeps msk s0 x := ?_; ?_); (on_goal 2 => clear_value x); (on_goal 1 => subst x)) | (refine (have hx : State.Keeps msk s0 x.1 := ?_; ?_); (on_goal 2 => clear_value x); (on_goal 1 => subst x)) | clear_value x)
    | (with_reducible first
        | refine Result.next_keeps ?_ | apply State.stageEntry_keeps | apply State.startJob_keeps | apply State.stageClose_keeps
        | apply State.closeProgress_keeps | apply State.stageSend_keeps | refine Result.ite_keeps ?_ ?_ | refine State.ite_keeps ?_ ?_)
    | split
    | (with_reducible first
        | refine State.Keeps.fst (by assumption) ?_ | fail_if_no_progress refine State.mk_keeps ?_ ?_)

theorem execStageDiscard_keeps {msk : Nat} {s0 : State} {ring i : Nat} {s : State} (hk0 : State.Keeps msk s0 s) (hm : Sub 0x1000006069001000000000000000000000000000000000000000000000000000000000000000001ffc1c58000000000000278042 msk) :
    Result.Keeps msk s0 (execStageDiscard ring i s) := by
  unfold execStageDiscard
  repeat' first
    | with_reducible assumption | exact Sub.of hm rfl | exact Has.of hm rfl | intro _
    | (extract_lets +onlyGivenNames x; first | (refine (have hx : State.Keeps msk s0 x := ?_; ?_); (on_goal 2 => clear_value x); (on_goal 1 => subst x)) | (refine (have hx : State.Keeps msk s0 x.1 := ?_; ?_); (on_goal 2 => clear_value x); (on_goal 1 => subst x)) | clear_value x)
    | (with_reducible first
        | refine Result.next_keeps ?_ | apply State.stageEntry_keeps | apply State.stageDiscard_keeps | apply State.on_keeps
        | apply Io.answer_keeps | apply State.startJob_keeps | apply State.stageSend_keeps | apply State.on_keeps
        | refine Result.ite_keeps ?_ ?_ | refine State.ite_keeps ?_ ?_ | refine Io.ite_keeps ?_ ?_)
    | split
    | (with_reducible first
        | refine State.Keeps.fst (by assumption) ?_ | exact State.Keeps.io (by assumption) | fail_if_no_progress refine State.Keeps.io ?_
        | fail_if_no_progress refine State.mk_keeps ?_ ?_ | fail_if_no_progress refine Io.mk_keeps ?_)

theorem execStageCloseTimeout_keeps {msk : Nat} {s0 : State} {s : State} (hk0 : State.Keeps msk s0 s) (hm : Sub 0x1000006069000000000000000000000000000000000000000000000000000000000000000000001ffc1c58000000000000278040 msk) :
    Result.Keeps msk s0 (execStageCloseTimeout s) := by
  unfold execStageCloseTimeout
  repeat' first
    | with_reducible assumption | exact Sub.of hm rfl | exact Has.of hm rfl | intro _
    | (extract_lets +onlyGivenNames x; first | (refine (have hx : State.Keeps msk s0 x := ?_; ?_); (on_goal 2 => clear_value x); (on_goal 1 => subst x)) | (refine (have hx : State.Keeps msk s0 x.1 := ?_; ?_); (on_goal 2 => clear_value x); (on_goal 1 => subst x)) | clear_value x)
    | (with_reducible first
        | refine Result.next_keeps ?_ | apply State.finishJob_keeps | refine Result.ite_keeps ?_ ?_ | refine State.ite_keeps ?_ ?_)
    | split
    | (with_reducible first
        | refine State.Keeps.fst (by assumption) ?_ | fail_if_no_progress refine State.mk_keeps ?_ ?_)

theorem State.sendStageAck_keeps {msk : Nat} {s0 : State} {s : State} (hk0 : State.Keeps msk s0 s) (hm : Sub 0x2 msk) :
    State.Keeps msk s0 (State.sendStageAck s) := by
  unfold State.sendStageAck
  repeat' first
    | with_reducible assumption | exact Sub.of hm rfl | exact Has.of hm rfl | intro _
    | (with_reducible first
        | apply State.queueReturn_keeps | refine State.ite_keeps ?_ ?_ | refine Io.ite_keeps ?_ ?_)
    | split
    | (with_reducible first
        | exact State.Keeps.io (by assumption) | fail_if_no_progress refine State.Keeps.io ?_)

theorem State.stagePacket_keeps {msk : Nat} {s0 : State} {s : State} {p op : Nat} {bs : List Byte} {f : List Byte → State → State} (hk0 : State.Keeps msk s0 s) (hf : ∀ x0 x1, State.Keeps msk s0 x1 → State.Keeps msk s0 (f x0 x1)) (hm : Sub 0x1000006069000000000000000000000000000000000000000000000060000000000000000000001ffc1c58000000000000278000 msk) :
    State.Keeps msk s0 (State.stagePacket s p op bs f) := by
  unfold State.stagePacket
  repeat' first
    | with_reducible assumption | exact Sub.of hm rfl | exact Has.of hm rfl | intro _
    | (extract_lets +onlyGivenNames x; first | (refine (have hx : State.Keeps msk s0 x := ?_; ?_); (on_goal 2 => clear_value x); (on_goal 1 => subst x)) | (refine (have hx : State.Keeps msk s0 x.1 := ?_; ?_); (on_goal 2 => clear_value x); (on_goal 1 => subst x)) | clear_value x)
    | (with_reducible first
        | apply hf | apply State.kept_keeps | refine State.ite_keeps ?_ ?_ | refine Io.ite_keeps ?_ ?_)
    | split
    | (with_reducible first
        | refine State.Keeps.fst (by assumption) ?_ | exact State.Keeps.io (by assumption) | fail_if_no_progress refine State.Keeps.io ?_
        | fail_if_no_progress refine State.mk_keeps ?_ ?_ | fail_if_no_progress refine Io.mk_keeps ?_)

theorem execStageOpenPacket_keeps {msk : Nat} {s0 : State} {port : Nat} {packet : List Byte} {s : State} (hk0 : State.Keeps msk s0 s) (hm : Sub 0x1000006069007000000000000000000000000000000000000000000060000000000000000000001ffc1c58000000000000278040 msk) :
    Result.Keeps msk s0 (execStageOpenPacket port packet s) := by
  unfold execStageOpenPacket
  repeat' first
    | with_reducible assumption | exact Sub.of hm rfl | exact Has.of hm rfl | intro _
    | (with_reducible first
        | refine Result.next_keeps ?_ | apply State.stagePacket_keeps | apply State.stageOpen_keeps)

theorem execStageDataPacket_keeps {msk : Nat} {s0 : State} {port : Nat} {packet : List Byte} {s : State} (hk0 : State.Keeps msk s0 s) (hm : Sub 0x1000006069002000000000000000000000000000000000000000000060000000000000000000001ffc1c58000000000000278040 msk) :
    Result.Keeps msk s0 (execStageDataPacket port packet s) := by
  unfold execStageDataPacket
  repeat' first
    | with_reducible assumption | exact Sub.of hm rfl | exact Has.of hm rfl | intro _
    | (extract_lets +onlyGivenNames x; first | (refine (have hx : State.Keeps msk s0 x := ?_; ?_); (on_goal 2 => clear_value x); (on_goal 1 => subst x)) | (refine (have hx : State.Keeps msk s0 x.1 := ?_; ?_); (on_goal 2 => clear_value x); (on_goal 1 => subst x)) | clear_value x)
    | (with_reducible first
        | refine Result.next_keeps ?_ | apply State.stagePacket_keeps | apply State.stageKeep_keeps | apply State.nvmWrite_keeps
        | apply State.onStage_keeps | refine Result.ite_keeps ?_ ?_ | refine State.ite_keeps ?_ ?_ | refine Io.ite_keeps ?_ ?_)
    | split
    | (with_reducible first
        | refine State.Keeps.fst (by assumption) ?_ | exact State.Keeps.io (by assumption) | fail_if_no_progress refine State.Keeps.io ?_
        | fail_if_no_progress refine State.mk_keeps ?_ ?_ | fail_if_no_progress refine Io.mk_keeps ?_
        | fail_if_no_progress refine Io.eraseRing_keeps ?_ ?_)

theorem execStageClosePacket_keeps {msk : Nat} {s0 : State} {port : Nat} {packet : List Byte} {s : State} (hk0 : State.Keeps msk s0 s) (hm : Sub 0x1000006069001000000000000000000000000000000000000000000060000000000000000000001ffc1c58000000000000278042 msk) :
    Result.Keeps msk s0 (execStageClosePacket port packet s) := by
  unfold execStageClosePacket
  repeat' first
    | with_reducible assumption | exact Sub.of hm rfl | exact Has.of hm rfl | intro _
    | (with_reducible first
        | refine Result.next_keeps ?_ | apply State.stagePacket_keeps | apply State.stageClose_keeps | apply State.sendStageAck_keeps
        | refine Result.ite_keeps ?_ ?_ | refine State.ite_keeps ?_ ?_)
    | split

theorem execStageDiscardPacket_keeps {msk : Nat} {s0 : State} {port : Nat} {packet : List Byte} {s : State} (hk0 : State.Keeps msk s0 s) (hm : Sub 0x1000006069001000000000000000000000000000000000000000000060000000000000000000001ffc1c58000000000000278040 msk) :
    Result.Keeps msk s0 (execStageDiscardPacket port packet s) := by
  unfold execStageDiscardPacket
  repeat' first
    | with_reducible assumption | exact Sub.of hm rfl | exact Has.of hm rfl | intro _
    | (with_reducible first
        | refine Result.next_keeps ?_ | apply State.stagePacket_keeps | apply State.stageDiscard_keeps)

theorem execStageQueryPacket_keeps {msk : Nat} {s0 : State} {port : Nat} {packet : List Byte} {s : State} (hk0 : State.Keeps msk s0 s) (hm : Sub 0x1000006069000000000000000000000000000000000000000000000060000000000000000000001ffc1c58000000000000278002 msk) :
    Result.Keeps msk s0 (execStageQueryPacket port packet s) := by
  unfold execStageQueryPacket
  repeat' first
    | with_reducible assumption | exact Sub.of hm rfl | exact Has.of hm rfl | intro _
    | (with_reducible first
        | refine Result.next_keeps ?_ | apply State.stagePacket_keeps | apply State.sendStageAck_keeps)

theorem execStageProgramDone_keeps {msk : Nat} {s0 : State} {readback : Bool} {s : State} (hk0 : State.Keeps msk s0 s) (hm : Sub 0x1000006069001000000000000000000000000000000000000000000000000000000000000000001ffc1c58000000000000278042 msk) :
    Result.Keeps msk s0 (execStageProgramDone readback s) := by
  unfold execStageProgramDone
  repeat' first
    | with_reducible assumption | exact Sub.of hm rfl | exact Has.of hm rfl | intro _ | exact RegOf.CTL_UPD_STATE
    | (extract_lets +onlyGivenNames x; first | (refine (have hx : State.Keeps msk s0 x := ?_; ?_); (on_goal 2 => clear_value x); (on_goal 1 => subst x)) | clear_value x)
    | (with_reducible first
        | refine Result.next_keeps ?_ | apply State.stageProgram_keeps | apply State.stageArm_keeps | apply State.sendStageAck_keeps
        | apply State.closeProgress_keeps | apply State.onStage_keeps | apply Io.setF_keeps | apply State.setF_keeps | apply Io.fire_keeps
        | apply State.fire_keeps | refine Result.ite_keeps ?_ ?_ | refine State.ite_keeps ?_ ?_)
    | split | with_reducible fail_if_no_progress refine State.mk_keeps ?_ ?_

theorem State.resendRun_keeps {msk : Nat} {s0 : State} {s : State} {chain pos part txn total first count : Nat} (hk0 : State.Keeps msk s0 s) (hm : Sub 0x2 msk) :
    State.Keeps msk s0 (State.resendRun s chain pos part txn total first count) := by
  unfold State.resendRun
  repeat' first
    | with_reducible assumption | exact Sub.of hm rfl | exact Has.of hm rfl | intro _
    | (extract_lets +onlyGivenNames x; first | (refine (have hx : State.Keeps msk s0 x := ?_; ?_); (on_goal 2 => clear_value x); (on_goal 1 => subst x)) | (refine (have hx : State.Keeps msk s0 x.1 := ?_; ?_); (on_goal 2 => clear_value x); (on_goal 1 => subst x)) | clear_value x)
    | (with_reducible first
        | apply State.stageSend_keeps | apply State.foldl_keeps | apply State.foldl_keeps_fst | refine State.ite_keeps ?_ ?_)
    | split | with_reducible fail_if_no_progress refine Io.eraseRing_keeps ?_ ?_

theorem State.stageAckReceived_keeps {msk : Nat} {s0 : State} {s : State} {chain pos : Nat} {pl : List Byte} (hk0 : State.Keeps msk s0 s) (hm : Sub 0x1000006069000000000000000000000000000000000000000000000000000000000000000000001ffc1c58000000000000278042 msk) :
    State.Keeps msk s0 (State.stageAckReceived s chain pos pl) := by
  unfold State.stageAckReceived
  repeat' first
    | with_reducible assumption | exact Sub.of hm rfl | exact Has.of hm rfl | intro _
    | (extract_lets +onlyGivenNames x; first | (refine (have hx : State.Keeps msk s0 x := ?_; ?_); (on_goal 2 => clear_value x); (on_goal 1 => subst x)) | (refine (have hx : State.Keeps msk s0 x.1 := ?_; ?_); (on_goal 2 => clear_value x); (on_goal 1 => subst x)) | skip)
    | (with_reducible first
        | apply State.onStage_keeps | apply State.closeProgress_keeps | apply State.resendRun_keeps | apply State.stageSend_keeps
        | refine State.ite_keeps ?_ ?_)
    | split
    | (with_reducible first
        | refine State.Keeps.fst (by assumption) ?_ | fail_if_no_progress refine State.mk_keeps ?_ ?_)

theorem execStageAckReceived_keeps {msk : Nat} {s0 : State} {port : Nat} {cell : List Byte} {s : State} (hk0 : State.Keeps msk s0 s) (hm : Sub 0x1000006069000000000000000000000000000000000000000000000800000000000000000000001ffc1c58000000000000278142 msk) :
    Result.Keeps msk s0 (execStageAckReceived port cell s) := by
  unfold execStageAckReceived
  repeat' first
    | with_reducible assumption | exact Sub.of hm rfl | exact Has.of hm rfl | intro _
    | (extract_lets +onlyGivenNames x; first | (refine (have hx : State.Keeps msk s0 x := ?_; ?_); (on_goal 2 => clear_value x); (on_goal 1 => subst x)) | clear_value x)
    | (with_reducible first
        | refine Result.next_keeps ?_ | apply State.acceptCell_keeps | apply State.stageAckReceived_keeps)
    | split
    | (with_reducible first
        | refine State.Keeps.fst (by assumption) ?_ | fail_if_no_progress refine State.mk_keeps ?_ ?_)

theorem execActivationCopy_keeps {msk : Nat} {s0 : State} {s : State} (hk0 : State.Keeps msk s0 s) (hm : Sub 0x30000000000000000000000000000000000000000000000000000000000000000000000000000000000000000040 msk) :
    Result.Keeps msk s0 (execActivationCopy s) := by
  unfold execActivationCopy
  repeat' first
    | with_reducible assumption | exact Sub.of hm rfl | exact Has.of hm rfl | intro _ | exact RegOf.CTL_UPD_PROGRESS
    | exact RegOf.CTL_UPD_STATE
    | (extract_lets +onlyGivenNames x; first | (refine (have hx : State.Keeps msk s0 x := ?_; ?_); (on_goal 2 => clear_value x); (on_goal 1 => subst x)) | (refine (have hx : State.Keeps msk s0 x.1 := ?_; ?_); (on_goal 2 => clear_value x); (on_goal 1 => subst x)) | clear_value x)
    | (with_reducible first
        | refine Result.next_keeps ?_ | apply State.onNvm_keeps | apply Io.setF_keeps | apply State.setF_keeps
        | refine Result.ite_keeps ?_ ?_ | refine State.ite_keeps ?_ ?_ | refine Io.ite_keeps ?_ ?_)
    | split
    | (with_reducible first
        | refine State.Keeps.fst (by assumption) ?_ | exact State.Keeps.io (by assumption) | fail_if_no_progress refine State.Keeps.io ?_
        | fail_if_no_progress refine State.mk_keeps ?_ ?_ | fail_if_no_progress refine Io.mk_keeps ?_)

theorem State.activationFinish_keeps {msk : Nat} {s0 : State} {s : State} (hk0 : State.Keeps msk s0 s) (hm : Sub 0x1000006069011040000000000000000000000000000000000000000000000000000000000000001ffc1c58000000000000278040 msk) :
    State.Keeps msk s0 (State.activationFinish s) := by
  unfold State.activationFinish
  repeat' first
    | with_reducible assumption | exact Sub.of hm rfl | exact Has.of hm rfl | intro _ | exact RegOf.CTL_BOOT
    | exact RegOf.CTL_OTP_ROLLBACK | exact RegOf.CTL_UPD_STATE
    | (extract_lets +onlyGivenNames x; first | (refine (have hx : State.Keeps msk s0 x := ?_; ?_); (on_goal 2 => clear_value x); (on_goal 1 => subst x)) | (refine (have hx : State.Keeps msk s0 x.1 := ?_; ?_); (on_goal 2 => clear_value x); (on_goal 1 => subst x)) | clear_value x)
    | (with_reducible first
        | apply Io.setF_keeps | apply State.setF_keeps | apply State.eraseHeader_keeps | apply State.onNvm_keeps | apply Io.fire_keeps
        | apply State.fire_keeps | fail_if_no_progress refine State.mk_keeps ?_ ?_ | fail_if_no_progress refine Io.eraseRing_keeps ?_ ?_)

theorem State.activationEnd_keeps {msk : Nat} {s0 : State} {s : State} (hk0 : State.Keeps msk s0 s) (hm : Sub 0x1000006069011040000000000000000000000000000000000000000000000000000000000000001ffc1c58000000000000278040 msk) :
    State.Keeps msk s0 (State.activationEnd s) := by
  unfold State.activationEnd
  repeat' first
    | with_reducible assumption | exact Sub.of hm rfl | exact Has.of hm rfl | intro _
    | (with_reducible first
        | apply State.activationFinish_keeps | refine State.ite_keeps ?_ ?_)
    | split

theorem execActivationSectorDone_keeps {msk : Nat} {s0 : State} {sector : Nat} {same : Bool} {s : State} (hk0 : State.Keeps msk s0 s) (hm : Sub 0x1000006069013040000000000000000000000000000000000000000000000000000000000000001ffc1c58000000000000278040 msk) :
    Result.Keeps msk s0 (execActivationSectorDone sector same s) := by
  unfold execActivationSectorDone
  repeat' first
    | with_reducible assumption | exact Sub.of hm rfl | exact Has.of hm rfl | intro _ | exact RegOf.CTL_UPD_PROGRESS
    | (extract_lets +onlyGivenNames x; first | (refine (have hx : State.Keeps msk s0 x := ?_; ?_); (on_goal 2 => clear_value x); (on_goal 1 => subst x)) | (refine (have hx : State.Keeps msk s0 x.1 := ?_; ?_); (on_goal 2 => clear_value x); (on_goal 1 => subst x)) | clear_value x)
    | (with_reducible first
        | refine Result.next_keeps ?_ | apply State.nvmWrite_keeps | apply State.onNvm_keeps | apply Io.setF_keeps | apply State.setF_keeps
        | apply State.activationEnd_keeps | refine Result.ite_keeps ?_ ?_ | refine State.ite_keeps ?_ ?_)
    | split
    | (with_reducible first
        | refine State.Keeps.fst (by assumption) ?_ | fail_if_no_progress refine State.mk_keeps ?_ ?_)

theorem execWallRestart_keeps {msk : Nat} {s0 : State} {ring i : Nat} {s : State} (hk0 : State.Keeps msk s0 s) (hm : Sub 0x1000006069000000000000000000000000000000000000000000000000000000000000000000001ffc1c58000000000000278040 msk) :
    Result.Keeps msk s0 (execWallRestart ring i s) := by
  unfold execWallRestart
  repeat' first
    | with_reducible assumption | exact Sub.of hm rfl | exact Has.of hm rfl | intro _
    | (extract_lets +onlyGivenNames x; first | (refine (have hx : State.Keeps msk s0 x := ?_; ?_); (on_goal 2 => clear_value x); (on_goal 1 => subst x)) | (refine (have hx : State.Keeps msk s0 x.1 := ?_; ?_); (on_goal 2 => clear_value x); (on_goal 1 => subst x)) | clear_value x)
    | (with_reducible first
        | refine Result.next_keeps ?_ | apply Io.onEntry_keeps | apply State.onEntry_keeps | apply State.on_keeps | apply Io.answer_keeps
        | apply Io.activate_keeps | apply State.onBoot_keeps | apply State.on_keeps | refine Result.ite_keeps ?_ ?_
        | refine State.ite_keeps ?_ ?_ | refine Io.ite_keeps ?_ ?_)
    | split
    | (with_reducible first
        | exact State.Keeps.io (by assumption) | fail_if_no_progress refine State.Keeps.io ?_
        | fail_if_no_progress refine State.mk_keeps ?_ ?_ | fail_if_no_progress refine Io.mk_keeps ?_)

theorem State.wallRestartTick_keeps {msk : Nat} {s0 : State} {s : State} (hk0 : State.Keeps msk s0 s) (hm : Sub 0x1000006069000000000000000000000000000000000000000000000000000000000000000000001ffc1c58000000000000278042 msk) :
    State.Keeps msk s0 (State.wallRestartTick s) := by
  unfold State.wallRestartTick
  repeat' first
    | with_reducible assumption | exact Sub.of hm rfl | exact Has.of hm rfl | intro _
    | (extract_lets +onlyGivenNames x; first | (refine (have hx : State.Keeps msk s0 x := ?_; ?_); (on_goal 2 => clear_value x); (on_goal 1 => subst x)) | (refine (have hx : State.Keeps msk s0 x.1 := ?_; ?_); (on_goal 2 => clear_value x); (on_goal 1 => subst x)) | clear_value x)
    | (with_reducible first
        | apply State.wallCmdTo_keeps | apply State.wallCmdAll_keeps | apply State.onBoot_keeps | apply State.on_keeps
        | apply Io.finish_keeps | apply State.on_keeps | refine State.ite_keeps ?_ ?_ | refine Io.ite_keeps ?_ ?_)
    | split
    | (with_reducible first
        | refine State.Keeps.fst (by assumption) ?_ | exact State.Keeps.io (by assumption) | fail_if_no_progress refine State.Keeps.io ?_
        | fail_if_no_progress refine State.mk_keeps ?_ ?_ | fail_if_no_progress refine Io.mk_keeps ?_)

theorem execRestartReceived_keeps {msk : Nat} {s0 : State} {port : Nat} {packet : List Byte} {s : State} (hk0 : State.Keeps msk s0 s) (hm : Sub 0x10010460690042fc05040000000000000000000000020001c000004063800000000000000000001ffc1c5800000003fc80ffffff msk) :
    Result.Keeps msk s0 (execRestartReceived port packet s) := by
  unfold execRestartReceived
  repeat' first
    | with_reducible assumption | exact Sub.of hm rfl | exact Has.of hm rfl | intro _
    | (extract_lets +onlyGivenNames x; first | (refine (have hx : State.Keeps msk s0 x := ?_; ?_); (on_goal 2 => clear_value x); (on_goal 1 => subst x)) | (refine (have hx : State.Keeps msk s0 x.1 := ?_; ?_); (on_goal 2 => clear_value x); (on_goal 1 => subst x)) | clear_value x)
    | (with_reducible first
        | refine Result.next_keeps ?_ | apply State.keptCmd_keeps | apply State.restart_keeps | apply State.onBoot_keeps
        | apply Io.fire_keeps | apply State.fire_keeps | refine Result.ite_keeps ?_ ?_ | refine State.ite_keeps ?_ ?_
        | refine Io.ite_keeps ?_ ?_)
    | split
    | (with_reducible first
        | refine State.Keeps.fst (by assumption) ?_ | exact State.Keeps.io (by assumption) | fail_if_no_progress refine State.Keeps.io ?_
        | fail_if_no_progress refine State.mk_keeps ?_ ?_ | fail_if_no_progress refine Io.mk_keeps ?_)

theorem State.restartTick_keeps {msk : Nat} {s0 : State} {s : State} {umberLow : Bool} (hk0 : State.Keeps msk s0 s) (hm : Sub 0x10010460690042fc05040000000000000000000000020001c000004003800000000000000000001ffc1c5800000003fc80ffffff msk) :
    State.Keeps msk s0 (State.restartTick s umberLow) := by
  unfold State.restartTick
  repeat' first
    | with_reducible assumption | exact Sub.of hm rfl | exact Has.of hm rfl | intro _
    | (extract_lets +onlyGivenNames x; first | (refine (have hx : State.Keeps msk s0 x := ?_; ?_); (on_goal 2 => clear_value x); (on_goal 1 => subst x)) | clear_value x)
    | (with_reducible first
        | apply State.onBoot_keeps | apply State.restart_keeps | refine State.ite_keeps ?_ ?_ | refine Io.ite_keeps ?_ ?_)
    | split
    | (with_reducible first
        | refine State.Keeps.fst (by assumption) ?_ | exact State.Keeps.io (by assumption) | fail_if_no_progress refine State.Keeps.io ?_
        | fail_if_no_progress refine State.mk_keeps ?_ ?_ | fail_if_no_progress refine Io.mk_keeps ?_)

theorem State.restartSync_keeps {msk : Nat} {s0 : State} {s : State} (hk0 : State.Keeps msk s0 s) (hm : Sub 0x10010460690042fc05040000000000000000000000020001c000004003800000000000000000001ffc1c5800000003fc80ffffff msk) :
    State.Keeps msk s0 (State.restartSync s) := by
  unfold State.restartSync
  repeat' first
    | with_reducible assumption | exact Sub.of hm rfl | exact Has.of hm rfl | intro _
    | (extract_lets +onlyGivenNames x; first | (refine (have hx : State.Keeps msk s0 x := ?_; ?_); (on_goal 2 => clear_value x); (on_goal 1 => subst x)) | clear_value x)
    | (with_reducible first
        | apply State.restart_keeps | refine State.ite_keeps ?_ ?_ | refine Io.ite_keeps ?_ ?_)
    | split
    | (with_reducible first
        | refine State.Keeps.fst (by assumption) ?_ | exact State.Keeps.io (by assumption) | fail_if_no_progress refine State.Keeps.io ?_
        | fail_if_no_progress refine State.mk_keeps ?_ ?_ | fail_if_no_progress refine Io.mk_keeps ?_)

theorem State.attestOut_keeps {msk : Nat} {s0 : State} {s : State} {ring i : Nat} {e rep : List Byte} (hk0 : State.Keeps msk s0 s) (hm : Sub 0x1000006069000000000000000000000000000000000000000000000000000000000000000000001ffc5c58000000000000278000 msk) :
    State.Keeps msk s0 (State.attestOut s ring i e rep) := by
  unfold State.attestOut
  repeat' first
    | with_reducible assumption | exact Sub.of hm rfl | exact Has.of hm rfl | intro _
    | (extract_lets +onlyGivenNames x; first | (refine (have hx : State.Keeps msk s0 x := ?_; ?_); (on_goal 2 => clear_value x); (on_goal 1 => subst x)) | (refine (have hx : State.Keeps msk s0 x.1 := ?_; ?_); (on_goal 2 => clear_value x); (on_goal 1 => subst x)) | (refine (have hx : Io.Keeps msk s0.io x := ?_; ?_); (on_goal 2 => clear_value x); (on_goal 1 => subst x)) | (refine (have hx : Io.Keeps msk s0.io x.1 := ?_; ?_); (on_goal 2 => clear_value x); (on_goal 1 => subst x)) | (refine (have hx : ∀ y, State.Keeps msk s0 (x y) := ?_; ?_); (on_goal 2 => clear_value x); (on_goal 1 => subst x)) | (refine (have hx : ∀ y, State.Keeps msk s0 (x y).1 := ?_; ?_); (on_goal 2 => clear_value x); (on_goal 1 => subst x)) | clear_value x)
    | (with_reducible first
        | apply Io.issueWrite_keeps | apply Io.settle_keeps | apply Io.countFault_keeps | apply Io.logFault_keeps | apply State.on_keeps
        | apply Io.owe_keeps | apply State.on_keeps | apply hx | refine State.ite_keeps ?_ ?_ | refine State.ite_keeps_fst ?_ ?_
        | refine Io.ite_keeps ?_ ?_ | refine Io.ite_keeps_fst ?_ ?_)
    | split
    | (with_reducible first
        | refine State.Keeps.fst (by assumption) ?_ | refine Io.Keeps.fst (by assumption) ?_ | exact State.Keeps.io (by assumption)
        | fail_if_no_progress refine State.Keeps.io ?_ | fail_if_no_progress refine State.mk_keeps ?_ ?_
        | fail_if_no_progress refine Io.mk_keeps ?_)

theorem State.attestStart_keeps {msk : Nat} {s0 : State} {s : State} {entry : Option (Nat × Nat)} {nonce : Nat} (hk0 : State.Keeps msk s0 s) (hm : Sub 0x2000000000000000000000000000000000000000000000000000000000000000000000000000000000000000000040 msk) :
    State.Keeps msk s0 (State.attestStart s entry nonce) := by
  unfold State.attestStart
  repeat' first
    | with_reducible assumption | exact Sub.of hm rfl | exact Has.of hm rfl | intro _ | exact RegOf.CTL_ATT_STAT
    | (extract_lets +onlyGivenNames x; first | (refine (have hx : State.Keeps msk s0 x := ?_; ?_); (on_goal 2 => clear_value x); (on_goal 1 => subst x)) | clear_value x)
    | (with_reducible first
        | apply State.onBoot_keeps | apply Io.setF_keeps | apply State.setF_keeps)
    | split | with_reducible fail_if_no_progress refine State.mk_keeps ?_ ?_

theorem execAttestLocal_keeps {msk : Nat} {s0 : State} {ring i : Nat} {s : State} (hk0 : State.Keeps msk s0 s) (hm : Sub 0x1000006069200000000000000000000000000000000000000000000000000000000000000000001ffc1c58000000000000278040 msk) :
    Result.Keeps msk s0 (execAttestLocal ring i s) := by
  unfold execAttestLocal
  repeat' first
    | with_reducible assumption | exact Sub.of hm rfl | exact Has.of hm rfl | intro _
    | (extract_lets +onlyGivenNames x; first | (refine (have hx : State.Keeps msk s0 x := ?_; ?_); (on_goal 2 => clear_value x); (on_goal 1 => subst x)) | clear_value x)
    | (with_reducible first
        | refine Result.next_keeps ?_ | apply Io.onEntry_keeps | apply State.onEntry_keeps | apply State.on_keeps | apply Io.activate_keeps
        | apply State.attestStart_keeps | apply State.on_keeps | refine Result.ite_keeps ?_ ?_ | refine State.ite_keeps ?_ ?_
        | refine Io.ite_keeps ?_ ?_)
    | split
    | (with_reducible first
        | refine State.Keeps.fst (by assumption) ?_ | exact State.Keeps.io (by assumption) | fail_if_no_progress refine State.Keeps.io ?_
        | fail_if_no_progress refine State.mk_keeps ?_ ?_ | fail_if_no_progress refine Io.mk_keeps ?_)

theorem execAttestReportDone_keeps {m : Nat} {s0 s : State} (h : State.Keeps m s0 s) (hm : Sub 0x1000006069600000000000000000000000000000000000000000000000000000000000000000001ffc5c58000000000000278040 m) :
    Result.Keeps m s0 (execAttestReportDone s) := by
  unfold execAttestReportDone
  refine Result.next_keeps ?_
  cases s.boot.attest with
  | none => exact h
  | some p =>
    refine (fun (s3 : State) (h3 : State.Keeps m s0 s3) => (?_ : State.Keeps m s0 (match p.1 with
      | none => s3
      | some (ring, i) => match (s3.io.ring ring).active.find? (fun a => a.1 == i) with
        | some (_, e) => s3.attestOut ring i e (s.attestReport p.2)
        | none => s3))) _ (State.fire_keeps (State.onBoot_keeps (State.setF_keeps (State.setF_keeps
          (State.foldl_keeps h (fun s i k => State.setF_keeps k (RegOf.CTL_ATT_REPORT _) (Has.of hm rfl))) RegOf.CTL_ATT_STAT (Has.of hm rfl))
          RegOf.CTL_ATT_STAT (Has.of hm rfl)) (Sub.of hm rfl)) (Sub.of hm rfl))
    split
    · exact h3
    · split
      · exact State.attestOut_keeps h3 (Sub.of hm rfl)
      · exact h3

theorem execAttestCommandReceived_keeps {msk : Nat} {s0 : State} {port : Nat} {packet : List Byte} {s : State} (hk0 : State.Keeps msk s0 s) (hm : Sub 0x1000006069200000000000000000000000000000000000000000000060000000000000000000001ffc1c58000000000000278040 msk) :
    Result.Keeps msk s0 (execAttestCommandReceived port packet s) := by
  unfold execAttestCommandReceived
  repeat' first
    | with_reducible assumption | exact Sub.of hm rfl | exact Has.of hm rfl | intro _
    | (extract_lets +onlyGivenNames x; first | (refine (have hx : State.Keeps msk s0 x := ?_; ?_); (on_goal 2 => clear_value x); (on_goal 1 => subst x)) | clear_value x)
    | (with_reducible first
        | refine Result.next_keeps ?_ | apply State.keptCmd_keeps | apply State.attestStart_keeps | refine Result.ite_keeps ?_ ?_
        | refine State.ite_keeps ?_ ?_)
    | split
    | (with_reducible first
        | refine State.Keeps.fst (by assumption) ?_ | fail_if_no_progress refine State.mk_keeps ?_ ?_)

theorem execAttestTile_keeps {msk : Nat} {s0 : State} {ring i : Nat} {s : State} (hk0 : State.Keeps msk s0 s) (hm : Sub 0x1000006069000000000000000000000000000000000000000000000000000000000000000000001ffc1c58000000000000278042 msk) :
    Result.Keeps msk s0 (execAttestTile ring i s) := by
  unfold execAttestTile
  repeat' first
    | with_reducible assumption | exact Sub.of hm rfl | exact Has.of hm rfl | intro _
    | (extract_lets +onlyGivenNames x; first | (refine (have hx : State.Keeps msk s0 x := ?_; ?_); (on_goal 2 => clear_value x); (on_goal 1 => subst x)) | (refine (have hx : State.Keeps msk s0 x.1 := ?_; ?_); (on_goal 2 => clear_value x); (on_goal 1 => subst x)) | clear_value x)
    | (with_reducible first
        | refine Result.next_keeps ?_ | apply Io.onEntry_keeps | apply State.onEntry_keeps | apply State.on_keeps | apply Io.activate_keeps
        | apply State.onBoot_keeps | apply State.sendRegReq_keeps | apply State.on_keeps | refine Result.ite_keeps ?_ ?_
        | refine State.ite_keeps ?_ ?_ | refine Io.ite_keeps ?_ ?_)
    | split
    | (with_reducible first
        | refine State.Keeps.fst (by assumption) ?_ | exact State.Keeps.io (by assumption) | fail_if_no_progress refine State.Keeps.io ?_
        | fail_if_no_progress refine State.mk_keeps ?_ ?_ | fail_if_no_progress refine Io.mk_keeps ?_)

theorem State.attestReply_keeps {msk : Nat} {s0 : State} {s : State} {phase value : Nat} (hk0 : State.Keeps msk s0 s) (hm : Sub 0x1000006069000000000000000000000000000000000000000000000000000000000000000000001ffc5c58000000000000278042 msk) :
    State.Keeps msk s0 (State.attestReply s phase value) := by
  unfold State.attestReply
  repeat' first
    | with_reducible assumption | exact Sub.of hm rfl | exact Has.of hm rfl | intro _
    | (extract_lets +onlyGivenNames x; first | (refine (have hx : State.Keeps msk s0 x := ?_; ?_); (on_goal 2 => clear_value x); (on_goal 1 => subst x)) | (refine (have hx : State.Keeps msk s0 x.1 := ?_; ?_); (on_goal 2 => clear_value x); (on_goal 1 => subst x)) | skip)
    | (with_reducible first
        | apply State.onBoot_keeps | apply State.wallCmdTo_keeps | apply State.sendRegReq_keeps | apply State.attestOut_keeps
        | refine State.ite_keeps ?_ ?_ | refine Io.ite_keeps ?_ ?_)
    | split
    | (with_reducible first
        | refine State.Keeps.fst (by assumption) ?_ | exact State.Keeps.io (by assumption) | fail_if_no_progress refine State.Keeps.io ?_
        | fail_if_no_progress refine State.mk_keeps ?_ ?_ | fail_if_no_progress refine Io.mk_keeps ?_)

theorem State.attestTimeout_keeps {msk : Nat} {s0 : State} {s : State} (hk0 : State.Keeps msk s0 s) (hm : Sub 0x1000006069000000000000000000000000000000000000000000000000000000000000000000001ffc1c58000000000000278040 msk) :
    State.Keeps msk s0 (State.attestTimeout s) := by
  unfold State.attestTimeout
  repeat' first
    | with_reducible assumption | exact Sub.of hm rfl | exact Has.of hm rfl | intro _
    | (extract_lets +onlyGivenNames x; first | (refine (have hx : State.Keeps msk s0 x := ?_; ?_); (on_goal 2 => clear_value x); (on_goal 1 => subst x)) | (refine (have hx : State.Keeps msk s0 x.1 := ?_; ?_); (on_goal 2 => clear_value x); (on_goal 1 => subst x)) | clear_value x)
    | (with_reducible first
        | apply State.onBoot_keeps | apply State.on_keeps | apply Io.finish_keeps | apply State.on_keeps)
    | split
    | (with_reducible first
        | refine State.Keeps.fst (by assumption) ?_ | exact State.Keeps.io (by assumption) | fail_if_no_progress refine State.Keeps.io ?_
        | fail_if_no_progress refine State.mk_keeps ?_ ?_ | fail_if_no_progress refine Io.mk_keeps ?_)

end Sys2Proof.Machine
end

