-- ==== Sys2Proof/Laws/KeepsThermal.lean ====
section
/-! SUPPORT. What the operations of Machine/Thermal.lean keep. -/

set_option linter.unusedTactic false
set_option linter.unreachableTactic false
set_option linter.tactic.unusedName false

set_option Elab.async false

namespace Sys2Proof.Machine

theorem State.onTherm_keeps {msk : Nat} {s0 : State} {s : State} {f : Therm → Therm} (hk0 : State.Keeps msk s0 s) (hm : Sub 0x80 msk) :
    State.Keeps msk s0 (State.onTherm s f) := by
  unfold State.onTherm
  repeat' first
    | with_reducible assumption | exact Sub.of hm rfl | exact Has.of hm rfl | intro _
    | (extract_lets +onlyGivenNames x; first | (refine (have hx : State.Keeps msk s0 x := ?_; ?_); (on_goal 2 => clear_value x); (on_goal 1 => subst x)) | (refine (have hx : State.Keeps msk s0 x.1 := ?_; ?_); (on_goal 2 => clear_value x); (on_goal 1 => subst x)) | (refine (have hx : Io.Keeps msk s0.io x := ?_; ?_); (on_goal 2 => clear_value x); (on_goal 1 => subst x)) | (refine (have hx : Io.Keeps msk s0.io x.1 := ?_; ?_); (on_goal 2 => clear_value x); (on_goal 1 => subst x)) | (refine (have hx : ∀ y, State.Keeps msk s0 (x y) := ?_; ?_); (on_goal 2 => clear_value x); (on_goal 1 => subst x)) | (refine (have hx : ∀ y, State.Keeps msk s0 (x y).1 := ?_; ?_); (on_goal 2 => clear_value x); (on_goal 1 => subst x)) | clear_value x)
    | (with_reducible first
        | apply hx | refine State.Keeps.fst (by assumption) ?_ | refine Io.Keeps.fst (by assumption) ?_
        | exact State.Keeps.io (by assumption) | fail_if_no_progress refine State.Keeps.io ?_
        | fail_if_no_progress refine State.mk_keeps ?_ ?_ | fail_if_no_progress refine Io.mk_keeps ?_)

theorem State.startTemps_keeps {msk : Nat} {s0 : State} {s : State} (hk0 : State.Keeps msk s0 s) (hm : Sub 0x80 msk) :
    State.Keeps msk s0 (State.startTemps s) := by
  unfold State.startTemps
  repeat' first
    | with_reducible assumption | exact Sub.of hm rfl | exact Has.of hm rfl | intro _
    | (extract_lets +onlyGivenNames x; first | (refine (have hx : State.Keeps msk s0 x := ?_; ?_); (on_goal 2 => clear_value x); (on_goal 1 => subst x)) | (refine (have hx : State.Keeps msk s0 x.1 := ?_; ?_); (on_goal 2 => clear_value x); (on_goal 1 => subst x)) | clear_value x)
    | with_reducible apply State.onTherm_keeps | split
    | (with_reducible first
        | refine State.Keeps.fst (by assumption) ?_ | fail_if_no_progress refine State.mk_keeps ?_ ?_)

theorem State.publishTemps_keeps {msk : Nat} {s0 : State} {s : State} (hk0 : State.Keeps msk s0 s) (hm : Sub 0x1c0000000000000000000000000000000000000000000000000000000000000000000000000000000000000000 msk) :
    State.Keeps msk s0 (State.publishTemps s) := by
  unfold State.publishTemps
  repeat' first
    | with_reducible assumption | exact Sub.of hm rfl | exact Has.of hm rfl | intro _ | exact RegOf.THM_DIODE _
    | exact RegOf.THM_LAMP_T _ | exact RegOf.THM_NODE _
    | (extract_lets +onlyGivenNames x; first | (refine (have hx : State.Keeps msk s0 x := ?_; ?_); (on_goal 2 => clear_value x); (on_goal 1 => subst x)) | (refine (have hx : State.Keeps msk s0 x.1 := ?_; ?_); (on_goal 2 => clear_value x); (on_goal 1 => subst x)) | clear_value x)
    | (with_reducible first
        | apply Io.setF_keeps | apply State.setF_keeps | apply State.foldl_keeps | apply State.foldl_keeps_fst)
    | split | with_reducible refine State.Keeps.fst (by assumption) ?_

theorem State.updateWindow_keeps {msk : Nat} {s0 : State} {s : State} (hk0 : State.Keeps msk s0 s) (hm : Sub 0x1000006069000000040400000000000000000000000000000000000000000000000000000000001ffc1c58000000000000278040 msk) :
    State.Keeps msk s0 (State.updateWindow s) := by
  unfold State.updateWindow
  repeat' first
    | with_reducible assumption | exact Sub.of hm rfl | exact Has.of hm rfl | intro _ | exact RegOf.THM_STATE
    | (extract_lets +onlyGivenNames x; first | (refine (have hx : State.Keeps msk s0 x := ?_; ?_); (on_goal 2 => clear_value x); (on_goal 1 => subst x)) | (refine (have hx : State.Keeps msk s0 x.1 := ?_; ?_); (on_goal 2 => clear_value x); (on_goal 1 => subst x)) | clear_value x)
    | (with_reducible first
        | apply Io.setF_keeps | apply State.setF_keeps | apply Io.fire_keeps | apply State.fire_keeps | apply State.eraseHeaderNow_keeps
        | apply State.onNvm_keeps | apply State.startWrite_keeps | refine State.ite_keeps ?_ ?_)
    | split
    | (with_reducible first
        | fail_if_no_progress refine State.mk_keeps ?_ ?_ | fail_if_no_progress refine Io.eraseRing_keeps ?_ ?_)

theorem State.diodeCheck_keeps {msk : Nat} {s0 : State} {s : State} (hk0 : State.Keeps msk s0 s) (hm : Sub 0x1000006069000000000000000000000000000000000000000000000000000000000000000000001ffc1c58000000000000278080 msk) :
    State.Keeps msk s0 (State.diodeCheck s) := by
  unfold State.diodeCheck
  repeat' first
    | with_reducible assumption | exact Sub.of hm rfl | exact Has.of hm rfl | intro _
    | (extract_lets +onlyGivenNames x; first | (refine (have hx : State.Keeps msk s0 x := ?_; ?_); (on_goal 2 => clear_value x); (on_goal 1 => subst x)) | (refine (have hx : State.Keeps msk s0 x.1 := ?_; ?_); (on_goal 2 => clear_value x); (on_goal 1 => subst x)) | clear_value x)
    | (with_reducible first
        | apply State.onTherm_keeps | apply Io.fire_keeps | apply State.fire_keeps | refine State.ite_keeps ?_ ?_)
    | split
    | (with_reducible first
        | refine State.Keeps.fst (by assumption) ?_ | fail_if_no_progress refine State.mk_keeps ?_ ?_)

theorem State.modelUpdate_keeps {msk : Nat} {s0 : State} {s : State} {d0 d1 : Int} {busy : List (List Nat)} (hk0 : State.Keeps msk s0 s) (hm : Sub 0x100000606900001f040400000000000000000000000000000000000000000000000000000000001ffc1c580000000000002780c0 msk) :
    State.Keeps msk s0 (State.modelUpdate s d0 d1 busy) := by
  unfold State.modelUpdate
  repeat' first
    | with_reducible assumption | exact Sub.of hm rfl | exact Has.of hm rfl | intro _ | exact RegOf.THM_POWER_CORE
    | exact RegOf.THM_POWER_LED | exact RegOf.THM_STATE
    | (extract_lets +onlyGivenNames x; first | (refine (have hx : State.Keeps msk s0 x := ?_; ?_); (on_goal 2 => clear_value x); (on_goal 1 => subst x)) | (refine (have hx : State.Keeps msk s0 x.1 := ?_; ?_); (on_goal 2 => clear_value x); (on_goal 1 => subst x)) | clear_value x)
    | (with_reducible first
        | apply State.onBoot_keeps | apply State.onTherm_keeps | apply Io.setF_keeps | apply State.setF_keeps
        | apply State.publishTemps_keeps | apply State.updateWindow_keeps | apply State.diodeCheck_keeps | apply State.foldl_keeps
        | apply State.foldl_keeps_fst)
    | split
    | (with_reducible first
        | refine State.Keeps.fst (by assumption) ?_ | fail_if_no_progress refine State.mk_keeps ?_ ?_)

theorem execMeteringStaleTimeout_keeps {msk : Nat} {s0 : State} {s : State} (hk0 : State.Keeps msk s0 s) (hm : Sub 0x1000006069000000000400000000000000000000000000000000000000000000000000000000001ffc1c58000000000000278080 msk) :
    Result.Keeps msk s0 (execMeteringStaleTimeout s) := by
  unfold execMeteringStaleTimeout
  repeat' first
    | with_reducible assumption | exact Sub.of hm rfl | exact Has.of hm rfl | intro _ | exact RegOf.THM_STATE
    | (extract_lets +onlyGivenNames x; first | (refine (have hx : State.Keeps msk s0 x := ?_; ?_); (on_goal 2 => clear_value x); (on_goal 1 => subst x)) | clear_value x)
    | (with_reducible first
        | refine Result.next_keeps ?_ | apply State.onTherm_keeps | apply Io.setF_keeps | apply State.setF_keeps | apply Io.fire_keeps
        | apply State.fire_keeps | refine Result.ite_keeps ?_ ?_ | refine State.ite_keeps ?_ ?_ | refine Io.ite_keeps ?_ ?_)
    | split
    | (with_reducible first
        | exact State.Keeps.io (by assumption) | fail_if_no_progress refine State.Keeps.io ?_
        | fail_if_no_progress refine State.mk_keeps ?_ ?_ | fail_if_no_progress refine Io.mk_keeps ?_)

theorem State.throttleState_keeps {msk : Nat} {s0 : State} {s : State} (hk0 : State.Keeps msk s0 s) (hm : Sub 0x4000000000000000000000000000000000000000000000000000000000000000000000000000000000000 msk) :
    State.Keeps msk s0 (State.throttleState s) := by
  unfold State.throttleState
  repeat' first
    | with_reducible assumption | exact Sub.of hm rfl | exact Has.of hm rfl | intro _ | exact RegOf.THM_STATE
    | (extract_lets +onlyGivenNames x; first | (refine (have hx : State.Keeps msk s0 x := ?_; ?_); (on_goal 2 => clear_value x); (on_goal 1 => subst x)) | (refine (have hx : State.Keeps msk s0 x.1 := ?_; ?_); (on_goal 2 => clear_value x); (on_goal 1 => subst x)) | clear_value x)
    | (with_reducible first
        | apply Io.setF_keeps | apply State.setF_keeps | refine State.ite_keeps ?_ ?_ | refine Io.ite_keeps ?_ ?_)
    | split
    | (with_reducible first
        | exact State.Keeps.io (by assumption) | fail_if_no_progress refine State.Keeps.io ?_)

theorem State.writeLimits_keeps {msk : Nat} {s0 : State} {s : State} (hk0 : State.Keeps msk s0 s) (hm : Sub 0x104000000000000000000000002000000000000000000000000000000000000000000000000000000000000 msk) :
    State.Keeps msk s0 (State.writeLimits s) := by
  unfold State.writeLimits
  repeat' first
    | with_reducible assumption | exact Sub.of hm rfl | exact Has.of hm rfl | intro _ | exact RegOf.LMP_LIM _
    | exact RegOf.THM_TH
    | (extract_lets +onlyGivenNames x; first | (refine (have hx : State.Keeps msk s0 x := ?_; ?_); (on_goal 2 => clear_value x); (on_goal 1 => subst x)) | (refine (have hx : State.Keeps msk s0 x.1 := ?_; ?_); (on_goal 2 => clear_value x); (on_goal 1 => subst x)) | clear_value x)
    | (with_reducible first
        | apply Io.setF_keeps | apply State.setF_keeps | apply State.throttleState_keeps | apply State.foldl_keeps
        | apply State.foldl_keeps_fst | apply Io.foldl_keeps | apply Io.foldl_keeps_fst | refine State.ite_keeps ?_ ?_
        | refine Io.ite_keeps ?_ ?_)
    | split
    | (with_reducible first
        | exact State.Keeps.io (by assumption) | fail_if_no_progress refine State.Keeps.io ?_)

theorem State.evaluateLimits_keeps {msk : Nat} {s0 : State} {s : State} (hk0 : State.Keeps msk s0 s) (hm : Sub 0x1000006069000020310400000000000000000000000200000000000000000000000000000000001ffc1c58000000000000278080 msk) :
    State.Keeps msk s0 (State.evaluateLimits s) := by
  unfold State.evaluateLimits
  repeat' first
    | with_reducible assumption | exact Sub.of hm rfl | exact Has.of hm rfl | intro _ | exact RegOf.THM_LAMP_S _
    | exact RegOf.THM_STEPS_DOWN | exact RegOf.THM_STEPS_UP | exact RegOf.THM_TH
    | (extract_lets +onlyGivenNames x; first | (refine (have hx : State.Keeps msk s0 x := ?_; ?_); (on_goal 2 => clear_value x); (on_goal 1 => subst x)) | (refine (have hx : State.Keeps msk s0 x.1 := ?_; ?_); (on_goal 2 => clear_value x); (on_goal 1 => subst x)) | clear_value x)
    | (with_reducible first
        | apply State.onTherm_keeps | apply State.on_keeps | apply Io.fireObj_keeps | apply Io.setF_keeps | apply State.setF_keeps
        | apply Io.bumpF_keeps | apply State.bumpF_keeps | apply Io.fire_keeps | apply State.fire_keeps | apply State.writeLimits_keeps
        | apply State.foldl_keeps | apply State.foldl_keeps_fst | apply Io.foldl_keeps | apply Io.foldl_keeps_fst | apply State.on_keeps
        | refine State.ite_keeps ?_ ?_ | refine Io.ite_keeps ?_ ?_)
    | split
    | (with_reducible first
        | refine State.Keeps.fst (by assumption) ?_ | exact State.Keeps.io (by assumption) | fail_if_no_progress refine State.Keeps.io ?_
        | fail_if_no_progress refine State.mk_keeps ?_ ?_ | fail_if_no_progress refine Io.mk_keeps ?_)

theorem State.cclkTick_keeps {msk : Nat} {s0 : State} {s : State} (hk0 : State.Keeps msk s0 s) (hm : Sub 0x1000006069000000408400000000000000000000000000000000000000000000000000000000001ffc1c58000000000000278080 msk) :
    State.Keeps msk s0 (State.cclkTick s) := by
  unfold State.cclkTick
  repeat' first
    | with_reducible assumption | exact Sub.of hm rfl | exact Has.of hm rfl | intro _ | exact RegOf.THM_CCLK
    | exact RegOf.THM_CCLK_STEPS
    | (extract_lets +onlyGivenNames x; first | (refine (have hx : State.Keeps msk s0 x := ?_; ?_); (on_goal 2 => clear_value x); (on_goal 1 => subst x)) | (refine (have hx : State.Keeps msk s0 x.1 := ?_; ?_); (on_goal 2 => clear_value x); (on_goal 1 => subst x)) | clear_value x)
    | (with_reducible first
        | apply State.onTherm_keeps | apply Io.setF_keeps | apply State.setF_keeps | apply Io.bumpF_keeps | apply State.bumpF_keeps
        | apply Io.fire_keeps | apply State.fire_keeps | apply State.throttleState_keeps | refine State.ite_keeps ?_ ?_)
    | split
    | (with_reducible first
        | refine State.Keeps.fst (by assumption) ?_ | fail_if_no_progress refine State.mk_keeps ?_ ?_)

theorem State.sendTelemetry_keeps {msk : Nat} {s0 : State} {s : State} {kind : Nat} {body : List Byte} (hk0 : State.Keeps msk s0 s) (hm : Sub 0x2 msk) :
    State.Keeps msk s0 (State.sendTelemetry s kind body) := by
  unfold State.sendTelemetry
  repeat' first
    | with_reducible assumption | exact Sub.of hm rfl | exact Has.of hm rfl | intro _
    | (with_reducible first
        | apply State.queueReturn_keeps | refine State.ite_keeps ?_ ?_ | refine Io.ite_keeps ?_ ?_)
    | split
    | (with_reducible first
        | exact State.Keeps.io (by assumption) | fail_if_no_progress refine State.Keeps.io ?_)

end Sys2Proof.Machine
end

