-- ==== Sys2Proof/Laws/KeepsLayers.lean ====
section
/-! SUPPORT. What the operations of Machine/Layers.lean keep. -/

set_option linter.unusedTactic false
set_option linter.unreachableTactic false
set_option linter.tactic.unusedName false

set_option Elab.async false

namespace Sys2Proof.Machine

theorem State.onVideo_keeps {msk : Nat} {s0 : State} {s : State} {f : VideoState → VideoState} (hk0 : State.Keeps msk s0 s) (hm : Sub 0x200 msk) :
    State.Keeps msk s0 (State.onVideo s f) := by
  unfold State.onVideo
  repeat' first
    | with_reducible assumption | exact Sub.of hm rfl | exact Has.of hm rfl | intro _
    | (extract_lets +onlyGivenNames x; first | (refine (have hx : State.Keeps msk s0 x := ?_; ?_); (on_goal 2 => clear_value x); (on_goal 1 => subst x)) | (refine (have hx : State.Keeps msk s0 x.1 := ?_; ?_); (on_goal 2 => clear_value x); (on_goal 1 => subst x)) | (refine (have hx : Io.Keeps msk s0.io x := ?_; ?_); (on_goal 2 => clear_value x); (on_goal 1 => subst x)) | (refine (have hx : Io.Keeps msk s0.io x.1 := ?_; ?_); (on_goal 2 => clear_value x); (on_goal 1 => subst x)) | (refine (have hx : ∀ y, State.Keeps msk s0 (x y) := ?_; ?_); (on_goal 2 => clear_value x); (on_goal 1 => subst x)) | (refine (have hx : ∀ y, State.Keeps msk s0 (x y).1 := ?_; ?_); (on_goal 2 => clear_value x); (on_goal 1 => subst x)) | clear_value x)
    | (with_reducible first
        | apply hf | apply hx | refine State.Keeps.fst (by assumption) ?_ | refine Io.Keeps.fst (by assumption) ?_
        | exact State.Keeps.io (by assumption) | fail_if_no_progress refine State.Keeps.io ?_
        | fail_if_no_progress refine State.mk_keeps ?_ ?_ | fail_if_no_progress refine Io.mk_keeps ?_)

theorem State.onLay_keeps {msk : Nat} {s0 : State} {s : State} {f : LayerState → LayerState} (hk0 : State.Keeps msk s0 s) (hm : Sub 0x200 msk) :
    State.Keeps msk s0 (State.onLay s f) := by
  unfold State.onLay
  repeat' first
    | with_reducible assumption | exact Sub.of hm rfl | exact Has.of hm rfl | intro _
    | (extract_lets +onlyGivenNames x; first | (refine (have hx : State.Keeps msk s0 x := ?_; ?_); (on_goal 2 => clear_value x); (on_goal 1 => subst x)) | clear_value x)
    | (with_reducible first
        | apply hf | apply State.onVideo_keeps | fail_if_no_progress refine State.mk_keeps ?_ ?_)

theorem State.setCascade_keeps {msk : Nat} {s0 : State} {s : State} {c : CascadeIn} (hk0 : State.Keeps msk s0 s) (hm : Sub 0x200 msk) :
    State.Keeps msk s0 (State.setCascade s c) := by
  unfold State.setCascade
  repeat' first
    | with_reducible assumption | exact Sub.of hm rfl | exact Has.of hm rfl | intro _
    | (extract_lets +onlyGivenNames x; first | (refine (have hx : State.Keeps msk s0 x := ?_; ?_); (on_goal 2 => clear_value x); (on_goal 1 => subst x)) | clear_value x)
    | (with_reducible first
        | apply State.onLay_keeps | fail_if_no_progress refine State.mk_keeps ?_ ?_)

theorem State.commitEnd_keeps {msk : Nat} {s0 : State} {s : State} {c : CommitRun} {d : Done} (hk0 : State.Keeps msk s0 s) (hm : Sub 0x1000006069000000000000000000000000000000000000000000000000000000000000000000001ffc1c58000000000000278200 msk) :
    State.Keeps msk s0 (State.commitEnd s c d) := by
  unfold State.commitEnd
  repeat' first
    | with_reducible assumption | exact Sub.of hm rfl | exact Has.of hm rfl | intro _
    | (extract_lets +onlyGivenNames x; first | (refine (have hx : State.Keeps msk s0 x := ?_; ?_); (on_goal 2 => clear_value x); (on_goal 1 => subst x)) | (refine (have hx : State.Keeps msk s0 x.1 := ?_; ?_); (on_goal 2 => clear_value x); (on_goal 1 => subst x)) | clear_value x)
    | (with_reducible first
        | apply State.onLay_keeps | apply State.on_keeps | apply Io.setRing_keeps | apply Io.complete_keeps | apply Io.freeSlot_keeps
        | apply Io.finishDestroy_keeps | apply State.on_keeps | refine State.ite_keeps ?_ ?_ | refine Io.ite_keeps ?_ ?_)
    | split
    | (with_reducible first
        | exact State.Keeps.io (by assumption) | fail_if_no_progress refine State.Keeps.io ?_
        | fail_if_no_progress refine State.mk_keeps ?_ ?_ | fail_if_no_progress refine Io.mk_keeps ?_)

theorem State.noteReject_keeps {msk : Nat} {s0 : State} {s : State} {ring reason : Nat} {layer : Option Nat} (hk0 : State.Keeps msk s0 s) (hm : Sub 0x1000006069000000000000000000000000000000000000000000000000000000000000002400001ffc1c58000000000000278000 msk) :
    State.Keeps msk s0 (State.noteReject s ring reason layer).1 := by
  unfold State.noteReject
  repeat' first
    | with_reducible assumption | exact Sub.of hm rfl | exact Has.of hm rfl | intro _ | exact RegOf.CMP_COMMIT_REJECTED
    | exact RegOf.CMP_LAST_REJECT
    | (extract_lets +onlyGivenNames x; first | (refine (have hx : State.Keeps msk s0 x := ?_; ?_); (on_goal 2 => clear_value x); (on_goal 1 => subst x)) | (refine (have hx : State.Keeps msk s0 x.1 := ?_; ?_); (on_goal 2 => clear_value x); (on_goal 1 => subst x)) | clear_value x)
    | (with_reducible first
        | apply State.on_keeps | apply Io.setReg_keeps | apply Io.bumpF_keeps | apply State.bumpF_keeps | apply Io.fire_keeps
        | apply State.fire_keeps | apply State.on_keeps | exact State.Keeps.io (by assumption)
        | fail_if_no_progress refine State.Keeps.io ?_)

theorem Io.readFault_keeps {msk : Nat} {s0 : Io} {s : Io} {who : Waiter} {ctx addr k : Nat} (hk0 : Io.Keeps msk s0 s) (hm : Sub 0x1000006069000000000000000000000000000000000000000000000000000000000000000000001ffc1c58000000000000278000 msk) :
    Io.Keeps msk s0 (Io.readFault s who ctx addr k) := by
  unfold Io.readFault
  repeat' first
    | with_reducible assumption | exact Sub.of hm rfl | exact Has.of hm rfl | intro _
    | (extract_lets +onlyGivenNames x; first | (refine (have hx : Io.Keeps msk s0 x := ?_; ?_); (on_goal 2 => clear_value x); (on_goal 1 => subst x)) | (refine (have hx : Io.Keeps msk s0 x.1 := ?_; ?_); (on_goal 2 => clear_value x); (on_goal 1 => subst x)) | clear_value x)
    | (with_reducible first
        | apply Io.settle_keeps | apply Io.withdraw_keeps | apply Io.completeOwn_keeps | apply Io.forget_keeps | apply Io.countFault_keeps
        | apply Io.logFault_keeps)
    | split

theorem State.descFailed_keeps {msk : Nat} {s0 : State} {s : State} {ring i : Nat} (hk0 : State.Keeps msk s0 s) (hm : Sub 0x1000006069000000000000000000000000000000000000000000000000000000000000000000001ffc1c58000000000000278200 msk) :
    State.Keeps msk s0 (State.descFailed s ring i) := by
  unfold State.descFailed
  repeat' first
    | with_reducible assumption | exact Sub.of hm rfl | exact Has.of hm rfl | intro _
    | (extract_lets +onlyGivenNames x; first | (refine (have hx : State.Keeps msk s0 x := ?_; ?_); (on_goal 2 => clear_value x); (on_goal 1 => subst x)) | clear_value x)
    | with_reducible apply State.commitEnd_keeps | split
    | (with_reducible first
        | refine State.Keeps.fst (by assumption) ?_ | fail_if_no_progress refine State.mk_keeps ?_ ?_)

theorem execCommit_keeps {msk : Nat} {s0 : State} {ring i : Nat} {s : State} (hk0 : State.Keeps msk s0 s) (hm : Sub 0x1000006069000000000000000000000000000000000000000000000000000000000000002400001ffc1c58000000000000278200 msk) :
    Result.Keeps msk s0 (execCommit ring i s) := by
  unfold execCommit
  repeat' first
    | with_reducible assumption | exact Sub.of hm rfl | exact Has.of hm rfl | intro _
    | (extract_lets +onlyGivenNames x; first | (refine (have hx : State.Keeps msk s0 x := ?_; ?_); (on_goal 2 => clear_value x); (on_goal 1 => subst x)) | (refine (have hx : State.Keeps msk s0 x.1 := ?_; ?_); (on_goal 2 => clear_value x); (on_goal 1 => subst x)) | (refine (have hx : Io.Keeps msk s0.io x := ?_; ?_); (on_goal 2 => clear_value x); (on_goal 1 => subst x)) | (refine (have hx : Io.Keeps msk s0.io x.1 := ?_; ?_); (on_goal 2 => clear_value x); (on_goal 1 => subst x)) | (refine (have hx : ∀ y, State.Keeps msk s0 (x y) := ?_; ?_); (on_goal 2 => clear_value x); (on_goal 1 => subst x)) | (refine (have hx : ∀ y, State.Keeps msk s0 (x y).1 := ?_; ?_); (on_goal 2 => clear_value x); (on_goal 1 => subst x)) | clear_value x)
    | (with_reducible first
        | refine Result.next_keeps ?_ | apply Io.onEntry_keeps | apply State.onEntry_keeps | apply State.noteReject_keeps
        | apply State.on_keeps | apply Io.answer_keeps | apply Io.activate_keeps | apply State.onLay_keeps | apply Io.issueRead_keeps
        | apply Io.readFault_keeps | apply State.descFailed_keeps | apply State.on_keeps | apply hx | refine Result.ite_keeps ?_ ?_
        | refine State.ite_keeps ?_ ?_ | refine State.ite_keeps_fst ?_ ?_ | refine Io.ite_keeps ?_ ?_ | refine Io.ite_keeps_fst ?_ ?_)
    | split
    | (with_reducible first
        | refine State.Keeps.fst (by assumption) ?_ | refine Io.Keeps.fst (by assumption) ?_ | exact State.Keeps.io (by assumption)
        | fail_if_no_progress refine State.Keeps.io ?_ | fail_if_no_progress refine State.mk_keeps ?_ ?_
        | fail_if_no_progress refine Io.mk_keeps ?_)

theorem State.descRead_keeps {msk : Nat} {s0 : State} {s : State} {ring i : Nat} {res : ReadResult} (hk0 : State.Keeps msk s0 s) (hm : Sub 0x1000006069000000000000000000000000000000000000000000000000000000000000000000001ffc1c58000000000000278210 msk) :
    State.Keeps msk s0 (State.descRead s ring i res) := by
  unfold State.descRead
  repeat' first
    | with_reducible assumption | exact Sub.of hm rfl | exact Has.of hm rfl | intro _
    | (extract_lets +onlyGivenNames x; first | (refine (have hx : State.Keeps msk s0 x := ?_; ?_); (on_goal 2 => clear_value x); (on_goal 1 => subst x)) | (refine (have hx : State.Keeps msk s0 x.1 := ?_; ?_); (on_goal 2 => clear_value x); (on_goal 1 => subst x)) | clear_value x)
    | (with_reducible first
        | apply State.poisonSeen_keeps | apply State.on_keeps | apply Io.readFault_keeps | apply State.descFailed_keeps
        | apply Io.settle_keeps | apply Io.completeOwn_keeps | apply Io.forget_keeps | apply State.onLay_keeps | apply State.on_keeps
        | refine State.ite_keeps ?_ ?_ | refine Io.ite_keeps ?_ ?_)
    | split
    | (with_reducible first
        | refine State.Keeps.fst (by assumption) ?_ | exact State.Keeps.io (by assumption) | fail_if_no_progress refine State.Keeps.io ?_
        | fail_if_no_progress refine State.mk_keeps ?_ ?_ | fail_if_no_progress refine Io.mk_keeps ?_)

theorem execFenceSignal_keeps {msk : Nat} {s0 : State} {ring i : Nat} {s : State} (hk0 : State.Keeps msk s0 s) (hm : Sub 0x1000006069000000000000000000000000000000000000000000000000000000000000600000001ffc1c58000000000000278000 msk) :
    Result.Keeps msk s0 (execFenceSignal ring i s) := by
  unfold execFenceSignal
  repeat' first
    | with_reducible assumption | exact Sub.of hm rfl | exact Has.of hm rfl | intro _ | exact RegOf.CMP_FENCE_HI _
    | exact RegOf.CMP_FENCE_LO _
    | (extract_lets +onlyGivenNames x; first | (refine (have hx : State.Keeps msk s0 x := ?_; ?_); (on_goal 2 => clear_value x); (on_goal 1 => subst x)) | (refine (have hx : State.Keeps msk s0 x.1 := ?_; ?_); (on_goal 2 => clear_value x); (on_goal 1 => subst x)) | clear_value x)
    | (with_reducible first
        | refine Result.next_keeps ?_ | apply Io.onEntry_keeps | apply State.onEntry_keeps | apply State.on_keeps | apply Io.answer_keeps
        | apply Io.setWide_keeps | apply State.on_keeps | refine Result.ite_keeps ?_ ?_ | refine State.ite_keeps ?_ ?_
        | refine Io.ite_keeps ?_ ?_)
    | split
    | (with_reducible first
        | exact State.Keeps.io (by assumption) | fail_if_no_progress refine State.Keeps.io ?_)

theorem State.fenceFailed_keeps {msk : Nat} {s0 : State} {s : State} {r : FenceRead} {k : Nat} (hk0 : State.Keeps msk s0 s) (hm : Sub 0x1000006069000000000000000000000000000000000000000000000000000000000000000000001ffc1c58000000000000278000 msk) :
    State.Keeps msk s0 (State.fenceFailed s r k) := by
  unfold State.fenceFailed
  repeat' first
    | with_reducible assumption | exact Sub.of hm rfl | exact Has.of hm rfl | intro _
    | (with_reducible first
        | apply State.on_keeps | apply Io.readFault_keeps | apply Io.fire_keeps | apply State.fire_keeps | apply State.on_keeps
        | exact State.Keeps.io (by assumption) | fail_if_no_progress refine State.Keeps.io ?_)

theorem State.endFenceRead_keeps {msk : Nat} {s0 : State} {s : State} {r : FenceRead} (hk0 : State.Keeps msk s0 s) (hm : Sub 0x200 msk) :
    State.Keeps msk s0 (State.endFenceRead s r) := by
  unfold State.endFenceRead
  repeat' first
    | with_reducible assumption | exact Sub.of hm rfl | exact Has.of hm rfl | intro _
    | (extract_lets +onlyGivenNames x; first | (refine (have hx : State.Keeps msk s0 x := ?_; ?_); (on_goal 2 => clear_value x); (on_goal 1 => subst x)) | clear_value x)
    | (with_reducible first
        | apply State.onLay_keeps | fail_if_no_progress refine State.mk_keeps ?_ ?_ | fail_if_no_progress refine Io.eraseRing_keeps ?_ ?_)

theorem execFenceWordRead_keeps {msk : Nat} {s0 : State} {key : Nat} {s : State} (hk0 : State.Keeps msk s0 s) (hm : Sub 0x1000006069000000000000000000000000000000000000000000000000000000000000000000001ffc1c58000000000000278200 msk) :
    Result.Keeps msk s0 (execFenceWordRead key s) := by
  unfold execFenceWordRead
  repeat' first
    | with_reducible assumption | exact Sub.of hm rfl | exact Has.of hm rfl | intro _
    | (extract_lets +onlyGivenNames x; first | (refine (have hx : State.Keeps msk s0 x := ?_; ?_); (on_goal 2 => clear_value x); (on_goal 1 => subst x)) | (refine (have hx : State.Keeps msk s0 x.1 := ?_; ?_); (on_goal 2 => clear_value x); (on_goal 1 => subst x)) | (refine (have hx : Io.Keeps msk s0.io x := ?_; ?_); (on_goal 2 => clear_value x); (on_goal 1 => subst x)) | (refine (have hx : Io.Keeps msk s0.io x.1 := ?_; ?_); (on_goal 2 => clear_value x); (on_goal 1 => subst x)) | (refine (have hx : ∀ y, State.Keeps msk s0 (x y) := ?_; ?_); (on_goal 2 => clear_value x); (on_goal 1 => subst x)) | (refine (have hx : ∀ y, State.Keeps msk s0 (x y).1 := ?_; ?_); (on_goal 2 => clear_value x); (on_goal 1 => subst x)) | clear_value x)
    | (with_reducible first
        | refine Result.next_keeps ?_ | apply State.onLay_keeps | apply Io.issueRead_keeps | apply State.fenceFailed_keeps | apply hx
        | refine Result.ite_keeps ?_ ?_ | refine State.ite_keeps ?_ ?_ | refine State.ite_keeps_fst ?_ ?_ | refine Io.ite_keeps ?_ ?_
        | refine Io.ite_keeps_fst ?_ ?_)
    | split
    | (with_reducible first
        | refine State.Keeps.fst (by assumption) ?_ | refine Io.Keeps.fst (by assumption) ?_ | exact State.Keeps.io (by assumption)
        | fail_if_no_progress refine State.Keeps.io ?_ | fail_if_no_progress refine State.mk_keeps ?_ ?_
        | fail_if_no_progress refine Io.mk_keeps ?_)

theorem State.fenceRead_keeps {msk : Nat} {s0 : State} {s : State} {key : Nat} {res : ReadResult} (hk0 : State.Keeps msk s0 s) (hm : Sub 0x1000006069000000000000000000000000000000000000000000000000000000000000000000001ffc1c58000000000000278210 msk) :
    State.Keeps msk s0 (State.fenceRead s key res) := by
  unfold State.fenceRead
  repeat' first
    | with_reducible assumption | exact Sub.of hm rfl | exact Has.of hm rfl | intro _
    | (extract_lets +onlyGivenNames x; first | (refine (have hx : State.Keeps msk s0 x := ?_; ?_); (on_goal 2 => clear_value x); (on_goal 1 => subst x)) | (refine (have hx : State.Keeps msk s0 x.1 := ?_; ?_); (on_goal 2 => clear_value x); (on_goal 1 => subst x)) | clear_value x)
    | (with_reducible first
        | apply State.endFenceRead_keeps | apply State.poisonSeen_keeps | apply State.fenceFailed_keeps | apply State.on_keeps
        | apply Io.settle_keeps | apply Io.completeOwn_keeps | apply Io.forget_keeps | apply State.onLay_keeps | apply State.on_keeps
        | refine State.ite_keeps ?_ ?_ | refine Io.ite_keeps ?_ ?_)
    | split
    | (with_reducible first
        | refine State.Keeps.fst (by assumption) ?_ | exact State.Keeps.io (by assumption) | fail_if_no_progress refine State.Keeps.io ?_
        | fail_if_no_progress refine State.mk_keeps ?_ ?_ | fail_if_no_progress refine Io.mk_keeps ?_)

theorem State.announceCommit_keeps {msk : Nat} {s0 : State} {s : State} {tick : Nat} {rs : List LayerRec} (hk0 : State.Keeps msk s0 s) (hm : Sub 0x200100 msk) :
    State.Keeps msk s0 (State.announceCommit s tick rs) := by
  unfold State.announceCommit
  repeat' first
    | with_reducible assumption | exact Sub.of hm rfl | exact Has.of hm rfl | intro _
    | (with_reducible first
        | apply State.sendPair_keeps | refine State.ite_keeps ?_ ?_)
    | split

theorem State.staleLayer_keeps {msk : Nat} {s0 : State} {newer : Nat → Bool} {s : State} {l : Nat × List Byte} (hk0 : State.Keeps msk s0 s) (hm : Sub 0x1000006069000000000000000000000000000000000000000000000000000000000000020000001ffc1c58000000000000278200 msk) :
    State.Keeps msk s0 (State.staleLayer newer s l) := by
  unfold State.staleLayer
  repeat' first
    | with_reducible assumption | exact Sub.of hm rfl | exact Has.of hm rfl | intro _ | exact RegOf.CMP_LAYER_STATE _
    | (extract_lets +onlyGivenNames x; first | (refine (have hx : State.Keeps msk s0 x := ?_; ?_); (on_goal 2 => clear_value x); (on_goal 1 => subst x)) | (refine (have hx : State.Keeps msk s0 x.1 := ?_; ?_); (on_goal 2 => clear_value x); (on_goal 1 => subst x)) | clear_value x)
    | (with_reducible first
        | apply Io.setF_keeps | apply State.setF_keeps | apply State.onLay_keeps | apply State.on_keeps | apply Io.fireObj_keeps
        | apply State.on_keeps | refine State.ite_keeps ?_ ?_ | refine Io.ite_keeps ?_ ?_)
    | split
    | (with_reducible first
        | exact State.Keeps.io (by assumption) | fail_if_no_progress refine State.Keeps.io ?_
        | fail_if_no_progress refine State.mk_keeps ?_ ?_ | fail_if_no_progress refine Io.mk_keeps ?_)

theorem State.pinFrames_keeps {msk : Nat} {s0 : State} {s : State} (hk0 : State.Keeps msk s0 s) (hm : Sub 0x1000006069000000000000000000000000000000000000000000000000000000000000020000001ffc1c58000000000000278200 msk) :
    State.Keeps msk s0 (State.pinFrames s) := by
  unfold State.pinFrames
  repeat' first
    | with_reducible assumption | exact Sub.of hm rfl | exact Has.of hm rfl | intro _
    | (extract_lets +onlyGivenNames x; first | (refine (have hx : State.Keeps msk s0 x := ?_; ?_); (on_goal 2 => clear_value x); (on_goal 1 => subst x)) | (refine (have hx : State.Keeps msk s0 x.1 := ?_; ?_); (on_goal 2 => clear_value x); (on_goal 1 => subst x)) | clear_value x)
    | (with_reducible first
        | apply State.setCascade_keeps | apply State.staleLayer_keeps | apply State.foldl_keeps | apply State.foldl_keeps_fst)
    | split
    | (with_reducible first
        | refine State.Keeps.fst (by assumption) ?_ | fail_if_no_progress refine State.mk_keeps ?_ ?_)

theorem State.openDeadline_keeps {msk : Nat} {s0 : State} {s : State} (hk0 : State.Keeps msk s0 s) (hm : Sub 0x1000006069000000000000000000000000000000000400000000000000000040002000000000001ffc1c58032000040000278201 msk) :
    State.Keeps msk s0 (State.openDeadline s) := by
  unfold State.openDeadline
  repeat' first
    | with_reducible assumption | exact Sub.of hm rfl | exact Has.of hm rfl | intro _
    | (extract_lets +onlyGivenNames x; first | (refine (have hx : State.Keeps msk s0 x := ?_; ?_); (on_goal 2 => clear_value x); (on_goal 1 => subst x)) | clear_value x)
    | (with_reducible first
        | apply State.startKind_keeps | apply State.onLay_keeps | apply State.foldl_keeps | apply State.foldl_keeps_fst
        | apply Io.foldl_keeps | apply Io.foldl_keeps_fst)
    | split
    | (with_reducible first
        | refine State.Keeps.fst (by assumption) ?_ | exact State.Keeps.io (by assumption) | fail_if_no_progress refine State.Keeps.io ?_
        | fail_if_no_progress refine State.mk_keeps ?_ ?_ | fail_if_no_progress refine Io.mk_keeps ?_)

theorem Deadline.wait_keeps {m : Nat} {s0 : State} {d : Deadline} {c : CommitRun} {cause : Nat} {layer : Option Nat} (h : State.Keeps m s0 d.s)
    (hm : Sub 0x1000006069000000000000000000000000000000000400000000000000000040002000023c00001ffc1c58032000040000278301 m) : State.Keeps m s0 (d.wait c cause layer).s := by
  unfold Deadline.wait
  extract_lets own limit s1
  split
  · exact State.fire_keeps (State.commitEnd_keeps (State.bumpF_keeps h RegOf.CMP_COMMIT_TIMEOUTS (Has.of hm rfl)) (Sub.of hm rfl)) (Sub.of hm rfl)
  · dsimp only
    exact State.onLay_keeps (State.bumpF_keeps h RegOf.CMP_COMMIT_WAITS (Has.of hm rfl)) (Sub.of hm rfl)

theorem Deadline.reject_keeps {m : Nat} {s0 : State} {d : Deadline} {c : CommitRun} {reason info : Nat} {layer : Option Nat} (h : State.Keeps m s0 d.s)
    (hm : Sub 0x1000006069000000000000000000000000000000000400000000000000000040002000023c00001ffc1c58032000040000278301 m) : State.Keeps m s0 (d.reject c reason layer info).s := by
  unfold Deadline.reject
  exact State.commitEnd_keeps (State.noteReject_keeps h (Sub.of hm rfl)) (Sub.of hm rfl)

theorem Deadline.commit_keeps {m : Nat} {s0 : State} {k : Nat} {d : Deadline} {c : CommitRun} (h : State.Keeps m s0 d.s)
    (hm : Sub 0x1000006069000000000000000000000000000000000400000000000000000040002000023c00001ffc1c58032000040000278301 m) : State.Keeps m s0 (d.commit k c).s := by
  unfold Deadline.commit
  split
  · exact h
  · split
    · exact Deadline.wait_keeps h hm
    · dsimp only
      split
      · exact Deadline.reject_keeps h hm
      · split
        · exact Deadline.wait_keeps h hm
        · split
          · exact Deadline.wait_keeps h hm
          · split
            · exact Deadline.reject_keeps h hm
            · exact State.announceCommit_keeps (State.onLay_keeps h (Sub.of hm rfl)) (Sub.of hm rfl)

theorem State.compileAll_keeps {m k : Nat} {s0 s : State} (h : State.Keeps m s0 s) (hm : Sub 0x1000006069000000000000000000000000000000000400000000000000000040002000023c00001ffc1c58032000040000278301 m) :
    State.Keeps m s0 (s.compileAll k).s := by
  have H : ∀ (l : List CommitRun) (d : Deadline), State.Keeps m s0 d.s → State.Keeps m s0 (l.foldl (Deadline.commit k) d).s := by
    intro l
    induction l with
    | nil => intro d hd; exact hd
    | cons c t ih => intro d hd; exact ih _ (Deadline.commit_keeps hd hm)
  unfold State.compileAll
  exact H _ _ h

theorem State.compileDeadline_keeps {m : Nat} {s0 s : State} (h : State.Keeps m s0 s) (hm : Sub 0x1000006069000000000000000000000000000000000400000000000000000040002000023c00001ffc1c58032000040000278301 m) :
    State.Keeps m s0 s.compileDeadline := by
  unfold State.compileDeadline
  extract_lets k d s3
  have h1 : State.Keeps m s0 s.openDeadline := State.openDeadline_keeps h (Sub.of hm rfl)
  split
  · exact h
  · split
    · split
      · exact h1
      · exact State.pinFrames_keeps h1 (Sub.of hm rfl)
    · have hd : State.Keeps m s0 s3 := State.onLay_keeps (State.compileAll_keeps (State.pinFrames_keeps h1 (Sub.of hm rfl)) hm) (Sub.of hm rfl)
      split
      · exact State.fire_keeps hd (Sub.of hm rfl)
      · exact hd

theorem execCompileDeadline_keeps {msk : Nat} {s0 : State} {s : State} (hk0 : State.Keeps msk s0 s) (hm : Sub 0x1000006069000000000000000000000000000000000400000000000000000040002000023c00001ffc1c58032000040000278301 msk) :
    Result.Keeps msk s0 (execCompileDeadline s) := by
  unfold execCompileDeadline
  repeat' first
    | with_reducible assumption | exact Sub.of hm rfl | exact Has.of hm rfl | intro _
    | (with_reducible first
        | refine Result.next_keeps ?_ | apply State.compileDeadline_keeps)

theorem State.reportLayer_keeps {msk : Nat} {s0 : State} {s : State} {tag ring : Nat} {r : LayerRec} (hk0 : State.Keeps msk s0 s) (hm : Sub 0x1e00000000000000000000000000000200 msk) :
    State.Keeps msk s0 (State.reportLayer s tag ring r) := by
  unfold State.reportLayer
  repeat' first
    | with_reducible assumption | exact Sub.of hm rfl | exact Has.of hm rfl | intro _ | exact RegOf.CMP_LAYER_RING _
    | exact RegOf.CMP_LAYER_SINCE _ | exact RegOf.CMP_LAYER_STATE _ | exact RegOf.CMP_LAYER_TAG _
    | (extract_lets +onlyGivenNames x; first | (refine (have hx : State.Keeps msk s0 x := ?_; ?_); (on_goal 2 => clear_value x); (on_goal 1 => subst x)) | (refine (have hx : State.Keeps msk s0 x.1 := ?_; ?_); (on_goal 2 => clear_value x); (on_goal 1 => subst x)) | clear_value x)
    | (with_reducible first
        | apply Io.setF_keeps | apply State.setF_keeps | apply State.onLay_keeps | refine State.ite_keeps ?_ ?_ | refine Io.ite_keeps ?_ ?_)
    | split
    | (with_reducible first
        | exact State.Keeps.io (by assumption) | fail_if_no_progress refine State.Keeps.io ?_
        | fail_if_no_progress refine State.mk_keeps ?_ ?_ | fail_if_no_progress refine Io.mk_keeps ?_)

theorem State.applyCompiled_keeps {msk : Nat} {s0 : State} {s : State} {c : Compiled} (hk0 : State.Keeps msk s0 s) (hm : Sub 0x10000060690000000000000000000000000000000000000000000000000000000000001e0200001ffc1c58000000000000278200 msk) :
    State.Keeps msk s0 (State.applyCompiled s c) := by
  unfold State.applyCompiled
  repeat' first
    | with_reducible assumption | exact Sub.of hm rfl | exact Has.of hm rfl | intro _ | exact RegOf.CMP_COMMIT_APPLIED
    | (extract_lets +onlyGivenNames x; first | (refine (have hx : State.Keeps msk s0 x := ?_; ?_); (on_goal 2 => clear_value x); (on_goal 1 => subst x)) | (refine (have hx : State.Keeps msk s0 x.1 := ?_; ?_); (on_goal 2 => clear_value x); (on_goal 1 => subst x)) | clear_value x)
    | (with_reducible first
        | apply State.onLay_keeps | apply State.reportLayer_keeps | apply Io.bumpF_keeps | apply State.bumpF_keeps | apply Io.fire_keeps
        | apply State.fire_keeps | apply State.on_keeps | apply Io.setRing_keeps | apply Io.complete_keeps | apply State.foldl_keeps
        | apply State.foldl_keeps_fst | apply Io.foldl_keeps | apply Io.foldl_keeps_fst | apply State.on_keeps
        | refine State.ite_keeps ?_ ?_ | refine Io.ite_keeps ?_ ?_)
    | split
    | (with_reducible first
        | refine State.Keeps.fst (by assumption) ?_ | exact State.Keeps.io (by assumption) | fail_if_no_progress refine State.Keeps.io ?_
        | fail_if_no_progress refine State.mk_keeps ?_ ?_ | fail_if_no_progress refine Io.mk_keeps ?_)

theorem State.layersTick_keeps {msk : Nat} {s0 : State} {s : State} (hk0 : State.Keeps msk s0 s) (hm : Sub 0x10000060690000000000000000000000000000000000000000000000000000000000001e0200001ffc1c58000000000000278200 msk) :
    State.Keeps msk s0 (State.layersTick s) := by
  unfold State.layersTick
  repeat' first
    | with_reducible assumption | exact Sub.of hm rfl | exact Has.of hm rfl | intro _ | exact RegOf.CMP_LAYER_STATE _
    | (extract_lets +onlyGivenNames x; first | (refine (have hx : State.Keeps msk s0 x := ?_; ?_); (on_goal 2 => clear_value x); (on_goal 1 => subst x)) | (refine (have hx : State.Keeps msk s0 x.1 := ?_; ?_); (on_goal 2 => clear_value x); (on_goal 1 => subst x)) | clear_value x)
    | (with_reducible first
        | apply Io.setF_keeps | apply State.setF_keeps | apply State.onLay_keeps | apply State.applyCompiled_keeps | apply State.foldl_keeps
        | apply State.foldl_keeps_fst | apply Io.foldl_keeps | apply Io.foldl_keeps_fst | refine State.Keeps.fst (by assumption) ?_
        | exact State.Keeps.io (by assumption) | fail_if_no_progress refine State.Keeps.io ?_
        | fail_if_no_progress refine State.mk_keeps ?_ ?_ | fail_if_no_progress refine Io.mk_keeps ?_)

theorem execReleaseDue_keeps {msk : Nat} {s0 : State} {ring i : Nat} {s : State} (hk0 : State.Keeps msk s0 s) (hm : Sub 0x1000006069000000000000000000000000000000000000000000000000000000000000000000001ffc1c58000000000000278200 msk) :
    Result.Keeps msk s0 (execReleaseDue ring i s) := by
  unfold execReleaseDue
  repeat' first
    | with_reducible assumption | exact Sub.of hm rfl | exact Has.of hm rfl | intro _
    | (extract_lets +onlyGivenNames x; first | (refine (have hx : State.Keeps msk s0 x := ?_; ?_); (on_goal 2 => clear_value x); (on_goal 1 => subst x)) | (refine (have hx : State.Keeps msk s0 x.1 := ?_; ?_); (on_goal 2 => clear_value x); (on_goal 1 => subst x)) | clear_value x)
    | (with_reducible first
        | refine Result.next_keeps ?_ | apply State.onLay_keeps | apply State.on_keeps | apply Io.complete_keeps
        | apply Io.finishDestroy_keeps | apply State.on_keeps | refine Result.ite_keeps ?_ ?_ | refine State.ite_keeps ?_ ?_
        | refine Io.ite_keeps ?_ ?_)
    | split
    | (with_reducible first
        | refine State.Keeps.fst (by assumption) ?_ | exact State.Keeps.io (by assumption) | fail_if_no_progress refine State.Keeps.io ?_
        | fail_if_no_progress refine State.mk_keeps ?_ ?_ | fail_if_no_progress refine Io.mk_keeps ?_
        | fail_if_no_progress refine Io.eraseRing_keeps ?_ ?_)

theorem State.copyStatic_keeps {msk : Nat} {s0 : State} {s : State} (hk0 : State.Keeps msk s0 s) (hm : Sub 0x20000 msk) :
    State.Keeps msk s0 (State.copyStatic s) := by
  unfold State.copyStatic
  repeat' first
    | with_reducible assumption | exact Sub.of hm rfl | exact Has.of hm rfl | intro _
    | (extract_lets +onlyGivenNames x; first | (refine (have hx : State.Keeps msk s0 x := ?_; ?_); (on_goal 2 => clear_value x); (on_goal 1 => subst x)) | (refine (have hx : State.Keeps msk s0 x.1 := ?_; ?_); (on_goal 2 => clear_value x); (on_goal 1 => subst x)) | clear_value x)
    | (with_reducible first
        | apply State.on_keeps | apply Io.writeDram_keeps | apply Io.take_keeps | apply State.foldl_keeps | apply State.foldl_keeps_fst
        | apply Io.foldl_keeps | apply Io.foldl_keeps_fst | apply State.on_keeps | refine State.ite_keeps ?_ ?_ | refine Io.ite_keeps ?_ ?_)
    | split
    | (with_reducible first
        | refine State.Keeps.fst (by assumption) ?_ | exact State.Keeps.io (by assumption) | fail_if_no_progress refine State.Keeps.io ?_
        | fail_if_no_progress refine State.mk_keeps ?_ ?_ | fail_if_no_progress refine Io.mk_keeps ?_)

end Sys2Proof.Machine
end

