-- ==== Sys2Proof/Laws/KeepsCompose.lean ====
section
/-! SUPPORT. What the operations of Machine/Compose.lean keep. -/

set_option linter.unusedTactic false
set_option linter.unreachableTactic false
set_option linter.tactic.unusedName false

set_option Elab.async false

namespace Sys2Proof.Machine

theorem State.setMirror_keeps {msk : Nat} {s0 : State} {s : State} {m : Mirror} (hk0 : State.Keeps msk s0 s) (hm : Sub 0x200 msk) :
    State.Keeps msk s0 (State.setMirror s m) := by
  unfold State.setMirror
  repeat' first
    | with_reducible assumption | exact Sub.of hm rfl | exact Has.of hm rfl | intro _
    | (extract_lets +onlyGivenNames x; first | (refine (have hx : State.Keeps msk s0 x := ?_; ?_); (on_goal 2 => clear_value x); (on_goal 1 => subst x)) | clear_value x)
    | (with_reducible first
        | apply State.onVideo_keeps | fail_if_no_progress refine State.mk_keeps ?_ ?_)

theorem State.fetchLine_keeps {msk : Nat} {s0 : State} {s : State} {run : ComposeRun} {r : LayerRec} {f : Nat × Nat × Nat × Nat} (hk0 : State.Keeps msk s0 s) (hm : Sub 0x1000006069000000000000000000000000000000000000000000000000000000000000000004001ffc1c58000000000000278200 msk) :
    State.Keeps msk s0 (State.fetchLine s run r f).1 := by
  unfold State.fetchLine
  repeat' first
    | with_reducible assumption | exact Sub.of hm rfl | exact Has.of hm rfl | intro _
    | (extract_lets +onlyGivenNames x; first | (refine (have hx : State.Keeps msk s0 x := ?_; ?_); (on_goal 2 => clear_value x); (on_goal 1 => subst x)) | (refine (have hx : State.Keeps msk s0 x.1 := ?_; ?_); (on_goal 2 => clear_value x); (on_goal 1 => subst x)) | (refine (have hx : Io.Keeps msk s0.io x := ?_; ?_); (on_goal 2 => clear_value x); (on_goal 1 => subst x)) | (refine (have hx : Io.Keeps msk s0.io x.1 := ?_; ?_); (on_goal 2 => clear_value x); (on_goal 1 => subst x)) | (refine (have hx : ∀ y, State.Keeps msk s0 (x y) := ?_; ?_); (on_goal 2 => clear_value x); (on_goal 1 => subst x)) | (refine (have hx : ∀ y, State.Keeps msk s0 (x y).1 := ?_; ?_); (on_goal 2 => clear_value x); (on_goal 1 => subst x)) | skip)
    | (with_reducible first
        | apply Io.readOps_keeps | apply State.onVideo_keeps | apply hx)
    | split
    | (with_reducible first
        | refine State.Keeps.fst (by assumption) ?_ | refine Io.Keeps.fst (by assumption) ?_ | exact State.Keeps.io (by assumption)
        | fail_if_no_progress refine State.Keeps.io ?_ | fail_if_no_progress refine State.mk_keeps ?_ ?_
        | fail_if_no_progress refine Io.mk_keeps ?_ | fail_if_no_progress refine Io.setOps_keeps ?_ ?_)

theorem State.fetchLines_keeps {msk : Nat} {s0 : State} {run : ComposeRun} {r : LayerRec} {l : List (Nat × Nat × Nat × Nat)} {s : State} (h : State.Keeps msk s0 s) (hm : Sub 0x1000006069000000000000000000000000000000000000000000000000000000000000000004001ffc1c58000000000000278200 msk) :
    State.Keeps msk s0 (State.fetchLines run r l s).1 := by
  induction l generalizing s with
  | nil => exact h
  | cons a t ih =>
    unfold State.fetchLines
    repeat' first
        | with_reducible assumption | exact Sub.of hm rfl | exact Has.of hm rfl | intro _
        | (extract_lets +onlyGivenNames x; first | (refine (have hx : State.Keeps msk s0 x := ?_; ?_); (on_goal 2 => clear_value x); (on_goal 1 => subst x)) | clear_value x)
        | (with_reducible first
            | apply ih | apply State.fetchLine_keeps)
        | split
        | (with_reducible first
            | refine State.Keeps.fst (by assumption) ?_ | fail_if_no_progress refine State.mk_keeps ?_ ?_)

theorem State.lookAhead_keeps {msk : Nat} {s0 : State} {s : State} {run : ComposeRun} {all : List LayerRec} {row : Nat} (hk0 : State.Keeps msk s0 s) (hm : Sub 0x1000006069000000000000000000000000000000000000000000000060000000000000000000001ffc1c58000000000000278200 msk) :
    State.Keeps msk s0 (State.lookAhead s run all row) := by
  unfold State.lookAhead
  repeat' first
    | with_reducible assumption | exact Sub.of hm rfl | exact Has.of hm rfl | intro _
    | (extract_lets +onlyGivenNames x; first | (refine (have hx : State.Keeps msk s0 x := ?_; ?_); (on_goal 2 => clear_value x); (on_goal 1 => subst x)) | (refine (have hx : State.Keeps msk s0 x.1 := ?_; ?_); (on_goal 2 => clear_value x); (on_goal 1 => subst x)) | clear_value x)
    | (with_reducible first
        | apply Io.resolve_keeps | apply State.resolve_keeps | apply State.foldl_keeps | apply State.foldl_keeps_fst | apply Io.foldl_keeps
        | apply Io.foldl_keeps_fst | refine State.ite_keeps ?_ ?_ | refine Io.ite_keeps ?_ ?_)
    | split
    | (with_reducible first
        | refine State.Keeps.fst (by assumption) ?_ | exact State.Keeps.io (by assumption) | fail_if_no_progress refine State.Keeps.io ?_
        | fail_if_no_progress refine State.mk_keeps ?_ ?_ | fail_if_no_progress refine Io.mk_keeps ?_
        | fail_if_no_progress refine Io.eraseRing_keeps ?_ ?_)

theorem State.fallBack_keeps {msk : Nat} {s0 : State} {s : State} {run : ComposeRun} {lane : Nat} {r : LayerRec} {why : Option (Nat × Nat)} (hk0 : State.Keeps msk s0 s) (hm : Sub 0x1000006069000000000000000000000000000000000000000000000000000000000000004000001ffc1c58000000000000278200 msk) :
    State.Keeps msk s0 (State.fallBack s run lane r why) := by
  unfold State.fallBack
  repeat' first
    | with_reducible assumption | exact Sub.of hm rfl | exact Has.of hm rfl | intro _ | exact RegOf.CMP_FALLBACK_COUNT
    | (extract_lets +onlyGivenNames x; first | (refine (have hx : State.Keeps msk s0 x := ?_; ?_); (on_goal 2 => clear_value x); (on_goal 1 => subst x)) | (refine (have hx : State.Keeps msk s0 x.1 := ?_; ?_); (on_goal 2 => clear_value x); (on_goal 1 => subst x)) | clear_value x)
    | (with_reducible first
        | apply State.onVideo_keeps | apply State.on_keeps | apply Io.settle_keeps | apply Io.countFault_keeps | apply Io.logFault_keeps
        | apply Io.bumpF_keeps | apply State.bumpF_keeps | apply Io.fireOnce_keeps | apply State.on_keeps | refine State.ite_keeps ?_ ?_
        | refine Io.ite_keeps ?_ ?_)
    | split
    | (with_reducible first
        | refine State.Keeps.fst (by assumption) ?_ | exact State.Keeps.io (by assumption) | fail_if_no_progress refine State.Keeps.io ?_
        | fail_if_no_progress refine State.mk_keeps ?_ ?_ | fail_if_no_progress refine Io.mk_keeps ?_)

theorem State.fetchRow_keeps {msk : Nat} {s0 : State} {s : State} {run : ComposeRun} {lane row : Nat} {all : List LayerRec} (hk0 : State.Keeps msk s0 s) (hm : Sub 0x1000006069000000000000000000000000000000000000000000000060000000000000004004001ffc1c58000000000000278200 msk) :
    State.Keeps msk s0 (State.fetchRow s run lane row all) := by
  unfold State.fetchRow
  repeat' first
    | with_reducible assumption | exact Sub.of hm rfl | exact Has.of hm rfl | intro _
    | (extract_lets +onlyGivenNames x; first | (refine (have hx : State.Keeps msk s0 x := ?_; ?_); (on_goal 2 => clear_value x); (on_goal 1 => subst x)) | (refine (have hx : State.Keeps msk s0 x.1 := ?_; ?_); (on_goal 2 => clear_value x); (on_goal 1 => subst x)) | clear_value x)
    | (with_reducible first
        | apply State.lookAhead_keeps | apply State.fallBack_keeps | apply State.cellOps_keeps | apply State.fetchLines_keeps
        | apply State.on_keeps | apply Io.settle_keeps | apply Io.completeOwn_keeps | apply State.foldl_keeps | apply State.foldl_keeps_fst
        | apply Io.foldl_keeps | apply Io.foldl_keeps_fst | apply State.on_keeps | refine State.ite_keeps ?_ ?_ | refine Io.ite_keeps ?_ ?_)
    | split
    | (with_reducible first
        | refine State.Keeps.fst (by assumption) ?_ | exact State.Keeps.io (by assumption) | fail_if_no_progress refine State.Keeps.io ?_
        | fail_if_no_progress refine State.mk_keeps ?_ ?_ | fail_if_no_progress refine Io.mk_keeps ?_)

theorem State.dropLines_keeps {msk : Nat} {s0 : State} {s : State} {run : ComposeRun} {row : Nat} {all : List LayerRec} (hk0 : State.Keeps msk s0 s) (hm : Sub 0x200 msk) :
    State.Keeps msk s0 (State.dropLines s run row all) := by
  unfold State.dropLines
  repeat' first
    | with_reducible assumption | exact Sub.of hm rfl | exact Has.of hm rfl | intro _
    | (extract_lets +onlyGivenNames x; first | (refine (have hx : State.Keeps msk s0 x := ?_; ?_); (on_goal 2 => clear_value x); (on_goal 1 => subst x)) | (refine (have hx : State.Keeps msk s0 x.1 := ?_; ?_); (on_goal 2 => clear_value x); (on_goal 1 => subst x)) | clear_value x)
    | (with_reducible first
        | apply State.onVideo_keeps | refine State.ite_keeps ?_ ?_)
    | split
    | (with_reducible first
        | refine State.Keeps.fst (by assumption) ?_ | fail_if_no_progress refine State.mk_keeps ?_ ?_)

theorem State.countRow_keeps {msk : Nat} {s0 : State} {s : State} {run : ComposeRun} {all : List LayerRec} {row : Nat} (hk0 : State.Keeps msk s0 s) (hm : Sub 0x1000006069000000000000000000000000000000000000000000000000000000000902000000001ffc1c58000000000000278000 msk) :
    State.Keeps msk s0 (State.countRow s run all row) := by
  unfold State.countRow
  repeat' first
    | with_reducible assumption | exact Sub.of hm rfl | exact Has.of hm rfl | intro _ | exact RegOf.CMP_BLOCKS_DROPPED _
    | exact RegOf.CMP_CLAMP_COUNT | exact RegOf.CMP_SRC_PIXELS _
    | (extract_lets +onlyGivenNames x; first | (refine (have hx : State.Keeps msk s0 x := ?_; ?_); (on_goal 2 => clear_value x); (on_goal 1 => subst x)) | (refine (have hx : State.Keeps msk s0 x.1 := ?_; ?_); (on_goal 2 => clear_value x); (on_goal 1 => subst x)) | clear_value x)
    | (with_reducible first
        | apply Io.bumpF_keeps | apply State.bumpF_keeps | apply State.on_keeps | apply Io.fireOnce_keeps | apply State.foldl_keeps
        | apply State.foldl_keeps_fst | apply Io.foldl_keeps | apply Io.foldl_keeps_fst | apply State.on_keeps
        | refine State.ite_keeps ?_ ?_ | refine Io.ite_keeps ?_ ?_)
    | split
    | (with_reducible first
        | exact State.Keeps.io (by assumption) | fail_if_no_progress refine State.Keeps.io ?_)

theorem State.reportRows_keeps {msk : Nat} {s0 : State} {s : State} {n : Nat} (hk0 : State.Keeps msk s0 s) (hm : Sub 0x400000000000000000000000000000000000 msk) :
    State.Keeps msk s0 (State.reportRows s n) := by
  unfold State.reportRows
  repeat' first
    | with_reducible assumption | exact Sub.of hm rfl | exact Has.of hm rfl | intro _ | exact RegOf.CMP_ROW_STAT _
    | (extract_lets +onlyGivenNames x; first | (refine (have hx : State.Keeps msk s0 x := ?_; ?_); (on_goal 2 => clear_value x); (on_goal 1 => subst x)) | (refine (have hx : State.Keeps msk s0 x.1 := ?_; ?_); (on_goal 2 => clear_value x); (on_goal 1 => subst x)) | clear_value x)
    | (with_reducible first
        | apply Io.setF_keeps | apply State.setF_keeps)

theorem State.setCapture_keeps {msk : Nat} {s0 : State} {s : State} {b : CaptureBuf} (hk0 : State.Keeps msk s0 s) (hm : Sub 0x200 msk) :
    State.Keeps msk s0 (State.setCapture s b) := by
  unfold State.setCapture
  repeat' first
    | with_reducible assumption | exact Sub.of hm rfl | exact Has.of hm rfl | intro _
    | (extract_lets +onlyGivenNames x; first | (refine (have hx : State.Keeps msk s0 x := ?_; ?_); (on_goal 2 => clear_value x); (on_goal 1 => subst x)) | clear_value x)
    | (with_reducible first
        | apply State.onVideo_keeps | refine State.ite_keeps ?_ ?_)
    | split | with_reducible fail_if_no_progress refine State.mk_keeps ?_ ?_

theorem State.endCapture_keeps {msk : Nat} {s0 : State} {s : State} {b : CaptureBuf} {d : Done} (hk0 : State.Keeps msk s0 s) (hm : Sub 0x1000006069000000000000000000000000000000000000000000000000000000000040000000001ffc5c58000000000000278200 msk) :
    State.Keeps msk s0 (State.endCapture s b d) := by
  unfold State.endCapture
  repeat' first
    | with_reducible assumption | exact Sub.of hm rfl | exact Has.of hm rfl | intro _
    | (extract_lets +onlyGivenNames x; first | (refine (have hx : State.Keeps msk s0 x := ?_; ?_); (on_goal 2 => clear_value x); (on_goal 1 => subst x)) | (refine (have hx : State.Keeps msk s0 x.1 := ?_; ?_); (on_goal 2 => clear_value x); (on_goal 1 => subst x)) | clear_value x)
    | (with_reducible first
        | apply State.onVideo_keeps | apply State.on_keeps | apply Io.owe_keeps | apply State.reportRows_keeps | apply State.on_keeps
        | refine State.ite_keeps ?_ ?_ | refine Io.ite_keeps ?_ ?_)
    | split
    | (with_reducible first
        | exact State.Keeps.io (by assumption) | fail_if_no_progress refine State.Keeps.io ?_
        | fail_if_no_progress refine State.mk_keeps ?_ ?_ | fail_if_no_progress refine Io.mk_keeps ?_)

theorem State.captureDone_keeps {msk : Nat} {s0 : State} {s : State} {b : CaptureBuf} (hk0 : State.Keeps msk s0 s) (hm : Sub 0x1000006069000000000000000000000000000000000000000000000000000000000040000000001ffc5c58000000000000278200 msk) :
    State.Keeps msk s0 (State.captureDone s b) := by
  unfold State.captureDone
  repeat' first
    | with_reducible assumption | exact Sub.of hm rfl | exact Has.of hm rfl | intro _
    | (with_reducible first
        | apply State.endCapture_keeps | refine State.ite_keeps ?_ ?_)
    | split

theorem State.captureRow_keeps {msk : Nat} {s0 : State} {s : State} {row : ComposedRow} (hk0 : State.Keeps msk s0 s) (hm : Sub 0x100000606900000000000000000000000000000000000000000000006000000000004c000000001ffc5c58000000000000278200 msk) :
    State.Keeps msk s0 (State.captureRow s row) := by
  unfold State.captureRow
  repeat' first
    | with_reducible assumption | exact Sub.of hm rfl | exact Has.of hm rfl | intro _ | exact RegOf.CMP_CAPTURE_ROWS
    | exact RegOf.CMP_CAPTURE_SKIPPED
    | (extract_lets +onlyGivenNames x; first | (refine (have hx : State.Keeps msk s0 x := ?_; ?_); (on_goal 2 => clear_value x); (on_goal 1 => subst x)) | (refine (have hx : State.Keeps msk s0 x.1 := ?_; ?_); (on_goal 2 => clear_value x); (on_goal 1 => subst x)) | clear_value x)
    | (with_reducible first
        | apply Io.bumpF_keeps | apply State.bumpF_keeps | apply State.on_keeps | apply Io.fireIn_keeps | apply State.setCapture_keeps
        | apply State.captureDone_keeps | apply State.onVideo_keeps | apply State.on_keeps | refine State.ite_keeps ?_ ?_
        | refine Io.ite_keeps ?_ ?_)
    | split
    | (with_reducible first
        | refine State.Keeps.fst (by assumption) ?_ | exact State.Keeps.io (by assumption) | fail_if_no_progress refine State.Keeps.io ?_
        | fail_if_no_progress refine State.mk_keeps ?_ ?_ | fail_if_no_progress refine Io.mk_keeps ?_)

theorem State.captureTick_keeps {msk : Nat} {s0 : State} {s : State} (hk0 : State.Keeps msk s0 s) (hm : Sub 0x200 msk) :
    State.Keeps msk s0 (State.captureTick s) := by
  unfold State.captureTick
  repeat' first
    | with_reducible assumption | exact Sub.of hm rfl | exact Has.of hm rfl | intro _
    | (extract_lets +onlyGivenNames x; first | (refine (have hx : State.Keeps msk s0 x := ?_; ?_); (on_goal 2 => clear_value x); (on_goal 1 => subst x)) | clear_value x)
    | (with_reducible first
        | apply State.setCapture_keeps | apply State.foldl_keeps | apply State.foldl_keeps_fst | apply Io.foldl_keeps
        | apply Io.foldl_keeps_fst)
    | split
    | (with_reducible first
        | refine State.Keeps.fst (by assumption) ?_ | exact State.Keeps.io (by assumption) | fail_if_no_progress refine State.Keeps.io ?_
        | fail_if_no_progress refine State.mk_keeps ?_ ?_ | fail_if_no_progress refine Io.mk_keeps ?_)

theorem execCaptureBuffer_keeps {msk : Nat} {s0 : State} {ring i : Nat} {s : State} (hk0 : State.Keeps msk s0 s) (hm : Sub 0x1000006069000000000000000000000000000000000000000000000000000000000040000000001ffc1c58000000000000278200 msk) :
    Result.Keeps msk s0 (execCaptureBuffer ring i s) := by
  unfold execCaptureBuffer
  repeat' first
    | with_reducible assumption | exact Sub.of hm rfl | exact Has.of hm rfl | intro _
    | (extract_lets +onlyGivenNames x; first | (refine (have hx : State.Keeps msk s0 x := ?_; ?_); (on_goal 2 => clear_value x); (on_goal 1 => subst x)) | (refine (have hx : State.Keeps msk s0 x.1 := ?_; ?_); (on_goal 2 => clear_value x); (on_goal 1 => subst x)) | clear_value x)
    | (with_reducible first
        | refine Result.next_keeps ?_ | apply Io.onEntry_keeps | apply State.onEntry_keeps | apply State.on_keeps | apply Io.activate_keeps
        | apply State.onVideo_keeps | apply State.reportRows_keeps | apply Io.answer_keeps | apply State.on_keeps
        | refine Result.ite_keeps ?_ ?_ | refine State.ite_keeps ?_ ?_ | refine Io.ite_keeps ?_ ?_)
    | split
    | (with_reducible first
        | refine State.Keeps.fst (by assumption) ?_ | exact State.Keeps.io (by assumption) | fail_if_no_progress refine State.Keeps.io ?_
        | fail_if_no_progress refine State.mk_keeps ?_ ?_ | fail_if_no_progress refine Io.mk_keeps ?_)

theorem Io.captureOps_keeps {msk : Nat} {s0 : Io} {host : HostMem} {n : Nat} {b : CaptureBuf} {l : List (Nat × List Byte)} {s : Io} (h : Io.Keeps msk s0 s) (hm : Sub 0x1000006069000000000000000000000000000000000000000000000000000000000000000000001ffc1c58000000000000278000 msk) :
    Io.Keeps msk s0 (Io.captureOps host n b l s).1 := by
  induction l generalizing s with
  | nil => exact h
  | cons a t ih =>
    unfold Io.captureOps
    repeat' first
        | with_reducible assumption | exact Sub.of hm rfl | exact Has.of hm rfl | intro _
        | (extract_lets +onlyGivenNames x; first | (refine (have hx : Io.Keeps msk s0 x := ?_; ?_); (on_goal 2 => clear_value x); (on_goal 1 => subst x)) | (refine (have hx : Io.Keeps msk s0 x.1 := ?_; ?_); (on_goal 2 => clear_value x); (on_goal 1 => subst x)) | clear_value x)
        | (with_reducible first
            | apply ih | apply Io.writeOps_keeps | refine Io.ite_keeps ?_ ?_ | refine Io.ite_keeps_fst ?_ ?_)
        | split
        | (with_reducible first
            | refine Io.Keeps.fst (by assumption) ?_ | fail_if_no_progress refine Io.mk_keeps ?_)

theorem State.captureSlot_keeps {msk : Nat} {s0 : State} {s : State} {region lo hi lane : Nat} {mem : HostMem} (hk0 : State.Keeps msk s0 s) (hm : Sub 0x1000006069000000000000000000000000000000000000000000000000000000000040000000001ffc5c58000000000000278200 msk) :
    State.Keeps msk s0 (State.captureSlot s region lo hi lane mem) := by
  unfold State.captureSlot
  repeat' first
    | with_reducible assumption | exact Sub.of hm rfl | exact Has.of hm rfl | intro _
    | (extract_lets +onlyGivenNames x; first | (refine (have hx : State.Keeps msk s0 x := ?_; ?_); (on_goal 2 => clear_value x); (on_goal 1 => subst x)) | (refine (have hx : State.Keeps msk s0 x.1 := ?_; ?_); (on_goal 2 => clear_value x); (on_goal 1 => subst x)) | (refine (have hx : Io.Keeps msk s0.io x := ?_; ?_); (on_goal 2 => clear_value x); (on_goal 1 => subst x)) | (refine (have hx : Io.Keeps msk s0.io x.1 := ?_; ?_); (on_goal 2 => clear_value x); (on_goal 1 => subst x)) | (refine (have hx : ∀ y, State.Keeps msk s0 (x y) := ?_; ?_); (on_goal 2 => clear_value x); (on_goal 1 => subst x)) | (refine (have hx : ∀ y, State.Keeps msk s0 (x y).1 := ?_; ?_); (on_goal 2 => clear_value x); (on_goal 1 => subst x)) | clear_value x)
    | (with_reducible first
        | apply Io.captureOps_keeps | apply Io.settle_keeps | apply Io.completeOwn_keeps | apply State.on_keeps | apply Io.countFault_keeps
        | apply Io.logFault_keeps | apply Io.fireIn_keeps | apply State.endCapture_keeps | apply State.onVideo_keeps
        | apply State.setCapture_keeps | apply State.captureDone_keeps | apply State.reportRows_keeps | apply State.on_keeps | apply hx
        | refine State.ite_keeps ?_ ?_ | refine State.ite_keeps_fst ?_ ?_ | refine Io.ite_keeps ?_ ?_ | refine Io.ite_keeps_fst ?_ ?_)
    | split
    | (with_reducible first
        | refine State.Keeps.fst (by assumption) ?_ | refine Io.Keeps.fst (by assumption) ?_ | exact State.Keeps.io (by assumption)
        | fail_if_no_progress refine State.Keeps.io ?_ | fail_if_no_progress refine State.mk_keeps ?_ ?_
        | fail_if_no_progress refine Io.mk_keeps ?_)

theorem execHostCaptureWrite_keeps {msk : Nat} {s0 : State} {region slot : Nat} {mem : HostMem} {s : State} (hk0 : State.Keeps msk s0 s) (hm : Sub 0x1000006069000000000000000000000000000000000400000000000000000040002040000000001ffc5c58032000040000278201 msk) :
    Result.Keeps msk s0 (execHostCaptureWrite region slot mem s) := by
  unfold execHostCaptureWrite
  repeat' first
    | with_reducible assumption | exact Sub.of hm rfl | exact Has.of hm rfl | intro _
    | (extract_lets +onlyGivenNames x; first | (refine (have hx : State.Keeps msk s0 x := ?_; ?_); (on_goal 2 => clear_value x); (on_goal 1 => subst x)) | clear_value x)
    | (with_reducible first
        | refine Result.next_keeps ?_ | apply State.startSlot_keeps | apply State.captureSlot_keeps | refine Result.ite_keeps ?_ ?_
        | refine State.ite_keeps ?_ ?_)
    | split
    | (with_reducible first
        | refine State.Keeps.fst (by assumption) ?_ | fail_if_no_progress refine State.mk_keeps ?_ ?_)

theorem State.composeRow_keeps {msk : Nat} {s0 : State} {s : State} {run : ComposeRun} {row : Nat} (hk0 : State.Keeps msk s0 s) (hm : Sub 0x1000006069000000000000000000000000000000000000000000000060000000000bce000000001ffc5c58000000000000278200 msk) :
    State.Keeps msk s0 (State.composeRow s run row) := by
  unfold State.composeRow
  repeat' first
    | with_reducible assumption | exact Sub.of hm rfl | exact Has.of hm rfl | intro _ | exact RegOf.CMP_BLOCKS_HELD _
    | exact RegOf.CMP_ROWS_COMPOSED _ | exact RegOf.CMP_ROW_STAT _
    | (extract_lets +onlyGivenNames x; first | (refine (have hx : State.Keeps msk s0 x := ?_; ?_); (on_goal 2 => clear_value x); (on_goal 1 => subst x)) | (refine (have hx : State.Keeps msk s0 x.1 := ?_; ?_); (on_goal 2 => clear_value x); (on_goal 1 => subst x)) | clear_value x)
    | (with_reducible first
        | apply State.countRow_keeps | apply Io.bumpF_keeps | apply State.bumpF_keeps | apply State.on_keeps | apply Io.fireOnce_keeps
        | apply State.dropLines_keeps | apply State.onVideo_keeps | apply Io.setF_keeps | apply State.setF_keeps
        | apply State.captureRow_keeps | apply State.reportRows_keeps | apply State.on_keeps | refine State.ite_keeps ?_ ?_
        | refine Io.ite_keeps ?_ ?_)
    | split
    | (with_reducible first
        | exact State.Keeps.io (by assumption) | fail_if_no_progress refine State.Keeps.io ?_
        | fail_if_no_progress refine State.mk_keeps ?_ ?_ | fail_if_no_progress refine Io.mk_keeps ?_)

theorem State.composeOn_keeps {m : Nat} {s0 : State} {k lane : Nat} {run : ComposeRun} {s : State} (h : State.Keeps m s0 s)
    (hm : Sub 0x1000006069000000000000000000000000000000000000000000000060000000000fce004004001ffc5c58000000000000278200 m) : State.Keeps m s0 (State.composeOn k run lane s) := by
  induction k generalizing s run with
  | zero => exact h
  | succ k ih =>
    unfold State.composeOn
    dsimp only
    split
    · exact h
    · split
      · refine State.onVideo_keeps ?_ (Sub.of hm rfl)
        split
        · exact h
        · exact State.on_keeps (State.bumpF_keeps h (RegOf.CMP_HANDOFF_WAITS _) (Has.of hm rfl)) (fun io k => Io.fireOnce_keeps k (Sub.of hm rfl))
      · have hs : State.Keeps m s0 (if run.fetched = true then s else s.fetchRow run lane run.next run.all) := by
          split
          · exact h
          · exact State.fetchRow_keeps h (Sub.of hm rfl)
        generalize (if run.fetched = true then s else s.fetchRow run lane run.next run.all) = t at hs ⊢
        split
        · exact State.onVideo_keeps hs (Sub.of hm rfl)
        · exact ih (State.composeRow_keeps hs (Sub.of hm rfl))

theorem execFetchComposeSlot_keeps {msk : Nat} {s0 : State} {region slot : Nat} {late : Bool} {mem : HostData} {inFlight : Nat} {s : State} (hk0 : State.Keeps msk s0 s) (hm : Sub 0x1000006069000000000000000000000000000000000400000000000060000040002fce004004001ffc5c58032000040000278201 msk) :
    Result.Keeps msk s0 (execFetchComposeSlot region slot late mem inFlight s) := by
  unfold execFetchComposeSlot
  repeat' first
    | with_reducible assumption | exact Sub.of hm rfl | exact Has.of hm rfl | intro _
    | (extract_lets +onlyGivenNames x; first | (refine (have hx : State.Keeps msk s0 x := ?_; ?_); (on_goal 2 => clear_value x); (on_goal 1 => subst x)) | (refine (have hx : State.Keeps msk s0 x.1 := ?_; ?_); (on_goal 2 => clear_value x); (on_goal 1 => subst x)) | clear_value x)
    | (with_reducible first
        | refine Result.next_keeps ?_ | apply State.startSlot_keeps | apply State.composeOn_keeps | apply State.lookAhead_keeps
        | refine Result.ite_keeps ?_ ?_ | refine State.ite_keeps ?_ ?_ | refine Io.ite_keeps ?_ ?_)
    | split
    | (with_reducible first
        | refine State.Keeps.fst (by assumption) ?_ | exact State.Keeps.io (by assumption) | fail_if_no_progress refine State.Keeps.io ?_
        | fail_if_no_progress refine State.mk_keeps ?_ ?_ | fail_if_no_progress refine Io.mk_keeps ?_)

theorem State.resumeRun_keeps {msk : Nat} {s0 : State} {s : State} {run : ComposeRun} (hk0 : State.Keeps msk s0 s) (hm : Sub 0x1000006069000000000000000000000000000000000000000000000060000000000fce004004001ffc5c58000000000000278200 msk) :
    State.Keeps msk s0 (State.resumeRun s run) := by
  unfold State.resumeRun
  repeat' first
    | with_reducible assumption | exact Sub.of hm rfl | exact Has.of hm rfl | intro _
    | (extract_lets +onlyGivenNames x; first | (refine (have hx : State.Keeps msk s0 x := ?_; ?_); (on_goal 2 => clear_value x); (on_goal 1 => subst x)) | (refine (have hx : State.Keeps msk s0 x.1 := ?_; ?_); (on_goal 2 => clear_value x); (on_goal 1 => subst x)) | clear_value x)
    | (with_reducible first
        | apply State.composeOn_keeps | apply State.onVideo_keeps)
    | split
    | (with_reducible first
        | refine State.Keeps.fst (by assumption) ?_ | fail_if_no_progress refine State.mk_keeps ?_ ?_
        | fail_if_no_progress refine Io.eraseRing_keeps ?_ ?_)

theorem State.resumeFetches_keeps {msk : Nat} {s0 : State} {s : State} (hk0 : State.Keeps msk s0 s) (hm : Sub 0x1000006069000000000000000000000000000000000000000000000060000000000fce004004001ffc5c58000000000000278200 msk) :
    State.Keeps msk s0 (State.resumeFetches s) := by
  unfold State.resumeFetches
  repeat' first
    | with_reducible assumption | exact Sub.of hm rfl | exact Has.of hm rfl | intro _
    | (with_reducible first
        | apply State.resumeRun_keeps | apply State.foldl_keeps | apply State.foldl_keeps_fst | apply Io.foldl_keeps
        | apply Io.foldl_keeps_fst | exact State.Keeps.io (by assumption) | fail_if_no_progress refine State.Keeps.io ?_)

theorem execHandoffRowFree_keeps {msk : Nat} {s0 : State} {region : Nat} {s : State} (hk0 : State.Keeps msk s0 s) (hm : Sub 0x1000006069000000000000000000000000000000000000000000000060000000000fce004004001ffc5c58000000000000278200 msk) :
    Result.Keeps msk s0 (execHandoffRowFree region s) := by
  unfold execHandoffRowFree
  repeat' first
    | with_reducible assumption | exact Sub.of hm rfl | exact Has.of hm rfl | intro _
    | (extract_lets +onlyGivenNames x; first | (refine (have hx : State.Keeps msk s0 x := ?_; ?_); (on_goal 2 => clear_value x); (on_goal 1 => subst x)) | (refine (have hx : State.Keeps msk s0 x.1 := ?_; ?_); (on_goal 2 => clear_value x); (on_goal 1 => subst x)) | clear_value x)
    | (with_reducible first
        | refine Result.next_keeps ?_ | apply State.onVideo_keeps | apply State.reportRows_keeps | apply State.resumeRun_keeps)
    | split
    | (with_reducible first
        | refine State.Keeps.fst (by assumption) ?_ | fail_if_no_progress refine State.mk_keeps ?_ ?_
        | fail_if_no_progress refine Io.eraseRing_keeps ?_ ?_)

end Sys2Proof.Machine
end

