-- ==== Sys2Proof/Laws/KeepsKeys.lean ====
section
/-! SUPPORT. What the operations of Machine/Keys.lean keep. -/

set_option linter.unusedTactic false
set_option linter.unreachableTactic false
set_option linter.tactic.unusedName false

set_option Elab.async false

namespace Sys2Proof.Machine

theorem State.acceptKeys_keeps {msk : Nat} {s0 : State} {s : State} {chain pos tick first last : Nat} (hk0 : State.Keeps msk s0 s) (hm : Sub 0x200 msk) :
    State.Keeps msk s0 (State.acceptKeys s chain pos tick first last) := by
  unfold State.acceptKeys
  repeat' first
    | with_reducible assumption | exact Sub.of hm rfl | exact Has.of hm rfl | intro _
    | (extract_lets +onlyGivenNames x; first | (refine (have hx : State.Keeps msk s0 x := ?_; ?_); (on_goal 2 => clear_value x); (on_goal 1 => subst x)) | (refine (have hx : State.Keeps msk s0 x.1 := ?_; ?_); (on_goal 2 => clear_value x); (on_goal 1 => subst x)) | clear_value x)
    | (with_reducible first
        | apply State.setMirror_keeps | fail_if_no_progress refine State.mk_keeps ?_ ?_)

theorem State.keyRequest_keeps {msk : Nat} {s0 : State} {s : State} {chain pos : Nat} {pl : List Byte} {t : Nat} (hk0 : State.Keeps msk s0 s) (hm : Sub 0x200300 msk) :
    State.Keeps msk s0 (State.keyRequest s chain pos pl t) := by
  unfold State.keyRequest
  repeat' first
    | with_reducible assumption | exact Sub.of hm rfl | exact Has.of hm rfl | intro _
    | (extract_lets +onlyGivenNames x; first | (refine (have hx : State.Keeps msk s0 x := ?_; ?_); (on_goal 2 => clear_value x); (on_goal 1 => subst x)) | (refine (have hx : State.Keeps msk s0 x.1 := ?_; ?_); (on_goal 2 => clear_value x); (on_goal 1 => subst x)) | clear_value x)
    | (with_reducible first
        | apply State.acceptKeys_keeps | apply State.sendPair_keeps | refine State.ite_keeps ?_ ?_)
    | split
    | (with_reducible first
        | refine State.Keeps.fst (by assumption) ?_ | fail_if_no_progress refine State.mk_keeps ?_ ?_)

theorem execKeyRequestReceived_keeps {msk : Nat} {s0 : State} {port : Nat} {cell : List Byte} {t : Nat} {s : State} (hk0 : State.Keeps msk s0 s) (hm : Sub 0x1000006069000000000000000000000000000000000000000000000c00000000000000000000001ffc1c58000000000000a78302 msk) :
    Result.Keeps msk s0 (execKeyRequestReceived port cell t s) := by
  unfold execKeyRequestReceived
  repeat' first
    | with_reducible assumption | exact Sub.of hm rfl | exact Has.of hm rfl | intro _ | exact RegOf.LNK_KEYREQ_RX _ _
    | (extract_lets +onlyGivenNames x; first | (refine (have hx : State.Keeps msk s0 x := ?_; ?_); (on_goal 2 => clear_value x); (on_goal 1 => subst x)) | clear_value x)
    | (with_reducible first
        | refine Result.next_keeps ?_ | apply State.on_keeps | apply Io.at_keeps | apply State.acceptCell_keeps | apply State.portBump_keeps
        | apply State.keyRequest_keeps | apply State.on_keeps)
    | split
    | (with_reducible first
        | refine State.Keeps.fst (by assumption) ?_ | exact State.Keeps.io (by assumption) | fail_if_no_progress refine State.Keeps.io ?_
        | fail_if_no_progress refine State.mk_keeps ?_ ?_ | fail_if_no_progress refine Io.mk_keeps ?_)

theorem State.keysTick_keeps {msk : Nat} {s0 : State} {s : State} (hk0 : State.Keeps msk s0 s) (hm : Sub 0x200 msk) :
    State.Keeps msk s0 (State.keysTick s) := by
  unfold State.keysTick
  repeat' first
    | with_reducible assumption | exact Sub.of hm rfl | exact Has.of hm rfl | intro _
    | (extract_lets +onlyGivenNames x; first | (refine (have hx : State.Keeps msk s0 x := ?_; ?_); (on_goal 2 => clear_value x); (on_goal 1 => subst x)) | (refine (have hx : State.Keeps msk s0 x.1 := ?_; ?_); (on_goal 2 => clear_value x); (on_goal 1 => subst x)) | clear_value x)
    | (with_reducible first
        | apply State.onVideo_keeps | apply Io.invalidate_keeps | apply State.foldl_keeps | apply State.foldl_keeps_fst
        | apply Io.foldl_keeps | apply Io.foldl_keeps_fst | refine State.ite_keeps ?_ ?_ | refine Io.ite_keeps ?_ ?_)
    | split
    | (with_reducible first
        | refine State.Keeps.fst (by assumption) ?_ | exact State.Keeps.io (by assumption) | fail_if_no_progress refine State.Keeps.io ?_
        | fail_if_no_progress refine State.mk_keeps ?_ ?_ | fail_if_no_progress refine Io.mk_keeps ?_)

theorem State.clearMirrors_keeps {msk : Nat} {s0 : State} {s : State} {p : Mirror → Bool} (hk0 : State.Keeps msk s0 s) (hm : Sub 0x200 msk) :
    State.Keeps msk s0 (State.clearMirrors s p) := by
  unfold State.clearMirrors
  repeat' first
    | with_reducible assumption | exact Sub.of hm rfl | exact Has.of hm rfl | intro _
    | (extract_lets +onlyGivenNames x; first | (refine (have hx : State.Keeps msk s0 x := ?_; ?_); (on_goal 2 => clear_value x); (on_goal 1 => subst x)) | clear_value x)
    | (with_reducible first
        | apply State.onVideo_keeps | refine State.ite_keeps ?_ ?_)
    | split | with_reducible fail_if_no_progress refine State.mk_keeps ?_ ?_

end Sys2Proof.Machine
end

