-- ==== Sys2Proof/Laws/KeepsEncode.lean ====
section
/-! SUPPORT. What the operations of Machine/Encode.lean keep. -/

set_option linter.unusedTactic false
set_option linter.unreachableTactic false
set_option linter.tactic.unusedName false

set_option Elab.async false

namespace Sys2Proof.Machine

theorem SliceRun.holdRow_keeps {m : Nat} {s0 : State} {a : SliceRun} {n : Nat} {e : Position} {b : Budget} {frame row : Nat} (h : State.Keeps m s0 a.s)
    (hm : Sub 0x20000000000000000000000000000000000000000 m) : State.Keeps m s0 (a.holdRow n e b frame row).s := State.bumpF_keeps h (RegOf.ENC_HOLD_SEGS _) (Has.of hm rfl)

theorem State.countCoded_keeps {msk : Nat} {s0 : State} {s : State} {n : Nat} {r : CodedRow} {ochre key : Bool} {bytes : Nat} (hk0 : State.Keeps msk s0 s) (hm : Sub 0x5ffc0000000000000000000000000000000000000 msk) :
    State.Keeps msk s0 (State.countCoded s n r ochre key bytes) := by
  unfold State.countCoded
  repeat' first
    | with_reducible assumption | exact Sub.of hm rfl | exact Has.of hm rfl | intro _ | exact RegOf.ENC_BITS_HI _
    | exact RegOf.ENC_BITS_LO _ | exact RegOf.ENC_BLK_DCOPY _ | exact RegOf.ENC_BLK_FLOOR _ | exact RegOf.ENC_BLK_INTRA _
    | exact RegOf.ENC_BLK_LTSKIP _ | exact RegOf.ENC_BLK_RAW _ | exact RegOf.ENC_BLK_SKIP _ | exact RegOf.ENC_KEY_ROWS _
    | exact RegOf.ENC_OCHRE_ROWS _ | exact RegOf.ENC_ROWS _ | exact RegOf.ENC_ROWS_LOSSLESS _
    | (extract_lets +onlyGivenNames x; first | (refine (have hx : State.Keeps msk s0 x := ?_; ?_); (on_goal 2 => clear_value x); (on_goal 1 => subst x)) | (refine (have hx : State.Keeps msk s0 x.1 := ?_; ?_); (on_goal 2 => clear_value x); (on_goal 1 => subst x)) | clear_value x)
    | (with_reducible first
        | apply Io.bumpF_keeps | apply State.bumpF_keeps | apply State.on_keeps | apply Io.addWide_keeps | apply State.on_keeps
        | refine State.ite_keeps ?_ ?_ | refine Io.ite_keeps ?_ ?_)
    | split
    | (with_reducible first
        | refine State.Keeps.fst (by assumption) ?_ | exact State.Keeps.io (by assumption) | fail_if_no_progress refine State.Keeps.io ?_)

theorem SliceRun.codeRow_keeps {m : Nat} {s0 : State} {a : SliceRun} {n : Nat} {e : Position} {b : Budget} {frame row : Nat} {key : Bool}
    (h : State.Keeps m s0 a.s) (hm : Sub 0x5ffc0000000000000000000000000000000000000 m) : State.Keeps m s0 (a.codeRow n e b frame row key).s := by
  unfold SliceRun.codeRow
  exact State.countCoded_keeps h (Sub.of hm rfl)

theorem State.codeSlice_keeps {m : Nat} {s0 s : State} {n frame : Nat} {e : Position} {allHold : Bool} (h : State.Keeps m s0 s)
    (hm : Sub 0x7ffc0000000000000000000000000000000000000 m) : State.Keeps m s0 (s.codeSlice n e frame allHold).s := by
  unfold State.codeSlice
  extract_lets b m1 rows m2 keyed start
  have H : ∀ (l : List Nat) (a : SliceRun), State.Keeps m s0 a.s → State.Keeps m s0 (l.foldl (fun (a : SliceRun) r =>
      if allHold || s.rowFailed n 2 e.chain e.position r || s.unwritten n frame (r + e.y / 8) then a.holdRow n e b frame r
      else if s.cycleRow r frame || keyed.contains r then a.codeRow n e b frame r true
      else if (a.m.refSlot frame r).isNone then a.holdRow n e b frame r
      else a.codeRow n e b frame r false) a).s := by
    intro l
    induction l with
    | nil => intro a ha; exact ha
    | cons r t ih =>
      intro a ha
      refine ih _ ?_
      dsimp only
      repeat' split
      all_goals first | exact SliceRun.holdRow_keeps ha (Sub.of hm rfl) | exact SliceRun.codeRow_keeps ha (Sub.of hm rfl)
  exact H rows start h

theorem State.expectSegment_keeps {msk : Nat} {s0 : State} {s : State} {seg : List Byte} {frame : Nat} (hk0 : State.Keeps msk s0 s) (hm : Sub 0x100 msk) :
    State.Keeps msk s0 (State.expectSegment s seg frame) := by
  unfold State.expectSegment
  repeat' first
    | with_reducible assumption | exact Sub.of hm rfl | exact Has.of hm rfl | intro _
    | (extract_lets +onlyGivenNames x; first | (refine (have hx : State.Keeps msk s0 x := ?_; ?_); (on_goal 2 => clear_value x); (on_goal 1 => subst x)) | (refine (have hx : State.Keeps msk s0 x.1 := ?_; ?_); (on_goal 2 => clear_value x); (on_goal 1 => subst x)) | clear_value x)
    | (with_reducible first
        | apply State.onPair_keeps | refine State.ite_keeps ?_ ?_)
    | split | with_reducible fail_if_no_progress refine State.mk_keeps ?_ ?_

theorem State.flushChain_keeps {msk : Nat} {s0 : State} {s : State} {n chain : Nat} (hk0 : State.Keeps msk s0 s) (hm : Sub 0x202 msk) :
    State.Keeps msk s0 (State.flushChain s n chain) := by
  unfold State.flushChain
  repeat' first
    | with_reducible assumption | exact Sub.of hm rfl | exact Has.of hm rfl | intro _
    | (extract_lets +onlyGivenNames x; first | (refine (have hx : State.Keeps msk s0 x := ?_; ?_); (on_goal 2 => clear_value x); (on_goal 1 => subst x)) | (refine (have hx : State.Keeps msk s0 x.1 := ?_; ?_); (on_goal 2 => clear_value x); (on_goal 1 => subst x)) | clear_value x)
    | (with_reducible first
        | apply State.onVideo_keeps | apply State.setPort_keeps | apply State.foldl_keeps | apply State.foldl_keeps_fst)
    | split
    | (with_reducible first
        | refine State.Keeps.fst (by assumption) ?_ | fail_if_no_progress refine State.mk_keeps ?_ ?_)

theorem State.cutSegments_keeps {msk : Nat} {s0 : State} {s : State} {n slot k : Nat} (hk0 : State.Keeps msk s0 s) (hm : Sub 0x1000006069000000000000000000000000000000000000000000000000000000000000000000001ffc1c58010000000000278000 msk) :
    State.Keeps msk s0 (State.cutSegments s n slot k) := by
  unfold State.cutSegments
  repeat' first
    | with_reducible assumption | exact Sub.of hm rfl | exact Has.of hm rfl | intro _ | exact RegOf.TCK_CUT_COUNT _
    | (with_reducible first
        | apply State.on_keeps | apply Io.bumpF_keeps | apply State.bumpF_keeps | apply Io.fireObj_keeps | apply State.foldl_keeps
        | apply State.foldl_keeps_fst | apply Io.foldl_keeps | apply Io.foldl_keeps_fst | apply State.on_keeps)
    | split
    | (with_reducible first
        | exact State.Keeps.io (by assumption) | fail_if_no_progress refine State.Keeps.io ?_)

theorem State.sendSegments_keeps {msk : Nat} {s0 : State} {s : State} {n slot : Nat} {e : Position} {own : Bool} {frame : Nat} {late : Bool} {segs : List (List Byte)} (hk0 : State.Keeps msk s0 s) (hm : Sub 0x1000006069000000000000000000000000000000000000000000000000000000000000000000001ffc1c58010000000000278302 msk) :
    State.Keeps msk s0 (State.sendSegments s n slot e own frame late segs) := by
  unfold State.sendSegments
  repeat' first
    | with_reducible assumption | exact Sub.of hm rfl | exact Has.of hm rfl | intro _
    | (extract_lets +onlyGivenNames x; first | (refine (have hx : State.Keeps msk s0 x := ?_; ?_); (on_goal 2 => clear_value x); (on_goal 1 => subst x)) | (refine (have hx : State.Keeps msk s0 x.1 := ?_; ?_); (on_goal 2 => clear_value x); (on_goal 1 => subst x)) | clear_value x)
    | (with_reducible first
        | apply State.on_keeps | apply Io.emit_keeps | apply State.emit_keeps | apply State.expectSegment_keeps
        | apply State.cutSegments_keeps | apply State.onVideo_keeps | apply State.flushChain_keeps | apply State.foldl_keeps
        | apply State.foldl_keeps_fst | apply Io.foldl_keeps | apply Io.foldl_keeps_fst | apply State.on_keeps
        | refine State.ite_keeps ?_ ?_ | refine Io.ite_keeps ?_ ?_)
    | split
    | (with_reducible first
        | exact State.Keeps.io (by assumption) | fail_if_no_progress refine State.Keeps.io ?_
        | fail_if_no_progress refine State.mk_keeps ?_ ?_ | fail_if_no_progress refine Io.mk_keeps ?_)

theorem State.sliceEvents_keeps {msk : Nat} {s0 : State} {s : State} {n : Nat} {e : Position} {r : SliceRun} (hk0 : State.Keeps msk s0 s) (hm : Sub 0x1000006069000000000000000000000000000000000000000000000000000000000000000000001ffc1c58000000000000278000 msk) :
    State.Keeps msk s0 (State.sliceEvents s n e r) := by
  unfold State.sliceEvents
  repeat' first
    | with_reducible assumption | exact Sub.of hm rfl | exact Has.of hm rfl | intro _
    | (extract_lets +onlyGivenNames x; first | (refine (have hx : State.Keeps msk s0 x := ?_; ?_); (on_goal 2 => clear_value x); (on_goal 1 => subst x)) | (refine (have hx : State.Keeps msk s0 x.1 := ?_; ?_); (on_goal 2 => clear_value x); (on_goal 1 => subst x)) | skip)
    | (with_reducible first
        | apply State.on_keeps | apply Io.fireOnce_keeps | apply State.on_keeps | refine State.ite_keeps ?_ ?_ | refine Io.ite_keeps ?_ ?_)
    | split
    | (with_reducible first
        | refine State.Keeps.fst (by assumption) ?_ | exact State.Keeps.io (by assumption) | fail_if_no_progress refine State.Keeps.io ?_)

theorem State.sliceOps_keeps {msk : Nat} {s0 : State} {s : State} {n slot : Nat} {e : Position} {allHold : Bool} (hk0 : State.Keeps msk s0 s) (hm : Sub 0x1000006069000000000000000000000000000000000000000000000000000000000000000000001ffc1c58000000000000278000 msk) :
    State.Keeps msk s0 (State.sliceOps s n slot e allHold) := by
  unfold State.sliceOps
  repeat' first
    | with_reducible assumption | exact Sub.of hm rfl | exact Has.of hm rfl | intro _
    | (extract_lets +onlyGivenNames x; first | (refine (have hx : State.Keeps msk s0 x := ?_; ?_); (on_goal 2 => clear_value x); (on_goal 1 => subst x)) | (refine (have hx : State.Keeps msk s0 x.1 := ?_; ?_); (on_goal 2 => clear_value x); (on_goal 1 => subst x)) | clear_value x)
    | (with_reducible first
        | apply State.cellOps_keeps | refine State.ite_keeps ?_ ?_)
    | split
    | (with_reducible first
        | refine State.Keeps.fst (by assumption) ?_ | fail_if_no_progress refine State.mk_keeps ?_ ?_)

theorem State.encodeSlice_keeps {m : Nat} {s0 s : State} {n slot frame : Nat} {e : Position} {own late allHold : Bool} (h : State.Keeps m s0 s)
    (hm : Sub 0x1000006069000000000000000000000000000000000000000000000000000007ffc000000000001ffc1c58010000000000278302 m) : State.Keeps m s0 (s.encodeSlice n slot e own frame late allHold).1 := by
  unfold State.encodeSlice
  exact State.sendSegments_keeps (State.onVideo_keeps (State.sliceOps_keeps (State.sliceEvents_keeps (State.setMirror_keeps
    (State.codeSlice_keeps h (Sub.of hm rfl)) (Sub.of hm rfl)) (Sub.of hm rfl)) (Sub.of hm rfl)) (Sub.of hm rfl)) (Sub.of hm rfl)

theorem State.encodeTick_keeps {msk : Nat} {s0 : State} {s : State} (hk0 : State.Keeps msk s0 s) (hm : Sub 0x1000006069000000000000000000000000000000000000000000000000000000000000000000001ffc1c58010000000000278202 msk) :
    State.Keeps msk s0 (State.encodeTick s) := by
  unfold State.encodeTick
  repeat' first
    | with_reducible assumption | exact Sub.of hm rfl | exact Has.of hm rfl | intro _
    | (extract_lets +onlyGivenNames x; first | (refine (have hx : State.Keeps msk s0 x := ?_; ?_); (on_goal 2 => clear_value x); (on_goal 1 => subst x)) | (refine (have hx : State.Keeps msk s0 x.1 := ?_; ?_); (on_goal 2 => clear_value x); (on_goal 1 => subst x)) | clear_value x)
    | (with_reducible first
        | apply State.cutSegments_keeps | apply State.setPort_keeps | apply State.onVideo_keeps | apply State.foldl_keeps
        | apply State.foldl_keeps_fst | apply Io.foldl_keeps | apply Io.foldl_keeps_fst | refine State.ite_keeps ?_ ?_
        | refine Io.ite_keeps ?_ ?_)
    | split
    | (with_reducible first
        | exact State.Keeps.io (by assumption) | fail_if_no_progress refine State.Keeps.io ?_
        | fail_if_no_progress refine State.mk_keeps ?_ ?_ | fail_if_no_progress refine Io.mk_keeps ?_)

end Sys2Proof.Machine
end

