-- ==== Sys2Proof/Laws/KeepsDecoder.lean ====
section
/-! SUPPORT. What the operations of Machine/Decoder.lean keep. -/

set_option linter.unusedTactic false
set_option linter.unreachableTactic false
set_option linter.tactic.unusedName false

set_option Elab.async false

namespace Sys2Proof.Machine

theorem State.setDecoder_keeps {msk : Nat} {s0 : State} {s : State} {d : Decoder} (hk0 : State.Keeps msk s0 s) (hm : Sub 0x200 msk) :
    State.Keeps msk s0 (State.setDecoder s d) := by
  unfold State.setDecoder
  repeat' first
    | with_reducible assumption | exact Sub.of hm rfl | exact Has.of hm rfl | intro _
    | (extract_lets +onlyGivenNames x; first | (refine (have hx : State.Keeps msk s0 x := ?_; ?_); (on_goal 2 => clear_value x); (on_goal 1 => subst x)) | clear_value x)
    | (with_reducible first
        | apply State.onVideo_keeps | fail_if_no_progress refine State.mk_keeps ?_ ?_)

theorem State.discardSegment_keeps {msk : Nat} {s0 : State} {s : State} {st n : Nat} {e : Position} {row : Nat} (hk0 : State.Keeps msk s0 s) (hm : Sub 0x1000006069000000000000000000000000000000000000000000000000000200000000000000001ffc1c58000000000000278200 msk) :
    State.Keeps msk s0 (State.discardSegment s st n e row) := by
  unfold State.discardSegment
  repeat' first
    | with_reducible assumption | exact Sub.of hm rfl | exact Has.of hm rfl | intro _ | exact RegOf.DEC_SEG_DISCARDED _
    | (extract_lets +onlyGivenNames x; first | (refine (have hx : State.Keeps msk s0 x := ?_; ?_); (on_goal 2 => clear_value x); (on_goal 1 => subst x)) | (refine (have hx : State.Keeps msk s0 x.1 := ?_; ?_); (on_goal 2 => clear_value x); (on_goal 1 => subst x)) | clear_value x)
    | (with_reducible first
        | apply Io.bumpF_keeps | apply State.bumpF_keeps | apply State.on_keeps | apply Io.fireOnce_keeps | apply Io.pulse_keeps
        | apply State.setDecoder_keeps | apply State.on_keeps | refine State.ite_keeps ?_ ?_ | refine Io.ite_keeps ?_ ?_)
    | split
    | (with_reducible first
        | exact State.Keeps.io (by assumption) | fail_if_no_progress refine State.Keeps.io ?_)

theorem State.segError_keeps {msk : Nat} {s0 : State} {s : State} {n kind row tickLo : Nat} (hk0 : State.Keeps msk s0 s) (hm : Sub 0x1000006069000000000000000000000000000000000000000000000000010400000000000000001ffc1c58000000000000278000 msk) :
    State.Keeps msk s0 (State.segError s n kind row tickLo) := by
  unfold State.segError
  repeat' first
    | with_reducible assumption | exact Sub.of hm rfl | exact Has.of hm rfl | intro _ | exact RegOf.DEC_LAST_ERR _
    | exact RegOf.DEC_SEG_ERRORS _
    | (extract_lets +onlyGivenNames x; first | (refine (have hx : State.Keeps msk s0 x := ?_; ?_); (on_goal 2 => clear_value x); (on_goal 1 => subst x)) | (refine (have hx : State.Keeps msk s0 x.1 := ?_; ?_); (on_goal 2 => clear_value x); (on_goal 1 => subst x)) | clear_value x)
    | (with_reducible first
        | apply Io.bumpF_keeps | apply State.bumpF_keeps | apply Io.setF_keeps | apply State.setF_keeps | apply State.on_keeps
        | apply Io.fireIn_keeps | apply Io.pulse_keeps | apply State.on_keeps | exact State.Keeps.io (by assumption)
        | fail_if_no_progress refine State.Keeps.io ?_)

theorem State.slateRow_keeps {msk : Nat} {s0 : State} {s : State} {st n row nb : Nat} {good : List Nat} (hk0 : State.Keeps msk s0 s) (hm : Sub 0x20000000000000000000000000000000000000000200 msk) :
    State.Keeps msk s0 (State.slateRow s st n row nb good) := by
  unfold State.slateRow
  repeat' first
    | with_reducible assumption | exact Sub.of hm rfl | exact Has.of hm rfl | intro _ | exact RegOf.DEC_SLATE_ROWS _
    | (extract_lets +onlyGivenNames x; first | (refine (have hx : State.Keeps msk s0 x := ?_; ?_); (on_goal 2 => clear_value x); (on_goal 1 => subst x)) | (refine (have hx : State.Keeps msk s0 x.1 := ?_; ?_); (on_goal 2 => clear_value x); (on_goal 1 => subst x)) | clear_value x)
    | (with_reducible first
        | apply Io.bumpF_keeps | apply State.bumpF_keeps | apply State.setDecoder_keeps | fail_if_no_progress refine State.mk_keeps ?_ ?_)

theorem State.resolve_keeps {msk : Nat} {s0 : State} {s : State} {st frame row : Nat} (hk0 : State.Keeps msk s0 s) (hm : Sub 0x1000006069000000000000000000000000000000000000000000000060000000000000000000001ffc1c58000000000000278200 msk) :
    State.Keeps msk s0 (State.resolve s st frame row) := by
  unfold State.resolve
  repeat' first
    | with_reducible assumption | exact Sub.of hm rfl | exact Has.of hm rfl | intro _
    | (extract_lets +onlyGivenNames x; first | (refine (have hx : State.Keeps msk s0 x := ?_; ?_); (on_goal 2 => clear_value x); (on_goal 1 => subst x)) | (refine (have hx : State.Keeps msk s0 x.1 := ?_; ?_); (on_goal 2 => clear_value x); (on_goal 1 => subst x)) | clear_value x)
    | (with_reducible first
        | apply State.setDecoder_keeps | apply State.kept_keeps | fail_if_no_progress refine State.mk_keeps ?_ ?_)

theorem State.cascadeCell_keeps {msk : Nat} {s0 : State} {s : State} {st : Nat} {pl : List Byte} (hk0 : State.Keeps msk s0 s) (hm : Sub 0x1000006069000000000000000000000000000000000000000000000000000000000000000000001ffc1c58000000000000278200 msk) :
    State.Keeps msk s0 (State.cascadeCell s st pl) := by
  unfold State.cascadeCell
  repeat' first
    | with_reducible assumption | exact Sub.of hm rfl | exact Has.of hm rfl | intro _
    | (extract_lets +onlyGivenNames x; first | (refine (have hx : State.Keeps msk s0 x := ?_; ?_); (on_goal 2 => clear_value x); (on_goal 1 => subst x)) | (refine (have hx : State.Keeps msk s0 x.1 := ?_; ?_); (on_goal 2 => clear_value x); (on_goal 1 => subst x)) | clear_value x)
    | (with_reducible first
        | apply State.setDecoder_keeps | apply State.on_keeps | apply Io.emit_keeps | apply State.emit_keeps | apply Io.pulse_keeps
        | apply State.on_keeps)
    | split
    | (with_reducible first
        | refine State.Keeps.fst (by assumption) ?_ | exact State.Keeps.io (by assumption) | fail_if_no_progress refine State.Keeps.io ?_
        | fail_if_no_progress refine State.mk_keeps ?_ ?_ | fail_if_no_progress refine Io.mk_keeps ?_)

theorem State.postKeys_keeps {msk : Nat} {s0 : State} {s : State} {st : Nat} {e : Position} {frame : Nat} {k : KeyCause} (hk0 : State.Keeps msk s0 s) (hm : Sub 0x1000006069000000000000000000000000000000000000000000000000000000000000000000001ffc1c58000000000000278302 msk) :
    State.Keeps msk s0 (State.postKeys s st e frame k) := by
  unfold State.postKeys
  repeat' first
    | with_reducible assumption | exact Sub.of hm rfl | exact Has.of hm rfl | intro _
    | (extract_lets +onlyGivenNames x; first | (refine (have hx : State.Keeps msk s0 x := ?_; ?_); (on_goal 2 => clear_value x); (on_goal 1 => subst x)) | (refine (have hx : State.Keeps msk s0 x.1 := ?_; ?_); (on_goal 2 => clear_value x); (on_goal 1 => subst x)) | clear_value x)
    | (with_reducible first
        | apply State.on_keeps | apply Io.pulse_keeps | apply State.setDecoder_keeps | apply State.cascadeCell_keeps
        | apply State.queueReturn_keeps | apply State.keyRequest_keeps | apply State.on_keeps | refine State.ite_keeps ?_ ?_
        | refine Io.ite_keeps ?_ ?_)
    | split
    | (with_reducible first
        | exact State.Keeps.io (by assumption) | fail_if_no_progress refine State.Keeps.io ?_
        | fail_if_no_progress refine State.mk_keeps ?_ ?_ | fail_if_no_progress refine Io.mk_keeps ?_)

theorem State.frameEnd_keeps {msk : Nat} {s0 : State} {s : State} {st : Nat} {e : Position} {frame : Nat} (hk0 : State.Keeps msk s0 s) (hm : Sub 0x1000006069000000000000000000000000000000000000000000000000000000000000000000001ffc1c58000000000000278302 msk) :
    State.Keeps msk s0 (State.frameEnd s st e frame) := by
  unfold State.frameEnd
  repeat' first
    | with_reducible assumption | exact Sub.of hm rfl | exact Has.of hm rfl | intro _
    | (extract_lets +onlyGivenNames x; first | (refine (have hx : State.Keeps msk s0 x := ?_; ?_); (on_goal 2 => clear_value x); (on_goal 1 => subst x)) | (refine (have hx : State.Keeps msk s0 x.1 := ?_; ?_); (on_goal 2 => clear_value x); (on_goal 1 => subst x)) | clear_value x)
    | (with_reducible first
        | apply State.setDecoder_keeps | apply State.postKeys_keeps | refine State.ite_keeps ?_ ?_ | refine Io.ite_keeps ?_ ?_)
    | split
    | (with_reducible first
        | refine State.Keeps.fst (by assumption) ?_ | exact State.Keeps.io (by assumption) | fail_if_no_progress refine State.Keeps.io ?_
        | fail_if_no_progress refine State.mk_keeps ?_ ?_ | fail_if_no_progress refine Io.mk_keeps ?_)

theorem State.holdAccepted_keeps {msk : Nat} {s0 : State} {s : State} {st n : Nat} {e : Position} {h : SegHead} {frame : Nat} (hk0 : State.Keeps msk s0 s) (hm : Sub 0x100000606900000000000000000000000000000000000000000000006002a000000000000000001ffc1c58000000000000278302 msk) :
    State.Keeps msk s0 (State.holdAccepted s st n e h frame) := by
  unfold State.holdAccepted
  repeat' first
    | with_reducible assumption | exact Sub.of hm rfl | exact Has.of hm rfl | intro _ | exact RegOf.DEC_HOLDS _
    | exact RegOf.DEC_LAST_HOLD _
    | (extract_lets +onlyGivenNames x; first | (refine (have hx : State.Keeps msk s0 x := ?_; ?_); (on_goal 2 => clear_value x); (on_goal 1 => subst x)) | (refine (have hx : State.Keeps msk s0 x.1 := ?_; ?_); (on_goal 2 => clear_value x); (on_goal 1 => subst x)) | clear_value x)
    | (with_reducible first
        | apply Io.bumpF_keeps | apply State.bumpF_keeps | apply Io.setF_keeps | apply State.setF_keeps | apply State.on_keeps
        | apply Io.fireOnce_keeps | apply State.setDecoder_keeps | apply State.slateRow_keeps | apply Io.resolve_keeps
        | apply State.resolve_keeps | apply State.frameEnd_keeps | apply State.foldl_keeps | apply State.foldl_keeps_fst
        | apply Io.foldl_keeps | apply Io.foldl_keeps_fst | apply State.on_keeps | refine State.ite_keeps ?_ ?_ | refine Io.ite_keeps ?_ ?_)
    | split
    | (with_reducible first
        | exact State.Keeps.io (by assumption) | fail_if_no_progress refine State.Keeps.io ?_
        | fail_if_no_progress refine State.mk_keeps ?_ ?_ | fail_if_no_progress refine Io.mk_keeps ?_)

theorem State.keepSegment_keeps {msk : Nat} {s0 : State} {s : State} {st : Nat} {seg : List Byte} {ok : Bool} (hk0 : State.Keeps msk s0 s) (hm : Sub 0x100000606900000000000000000000000000000000000000000000006003a700000000000000001ffc1c58000000000000278302 msk) :
    State.Keeps msk s0 (State.keepSegment s st seg ok) := by
  unfold State.keepSegment
  repeat' first
    | with_reducible assumption | exact Sub.of hm rfl | exact Has.of hm rfl | intro _ | exact RegOf.DEC_SEG_KEPT _
    | (extract_lets +onlyGivenNames x; first | (refine (have hx : State.Keeps msk s0 x := ?_; ?_); (on_goal 2 => clear_value x); (on_goal 1 => subst x)) | (refine (have hx : State.Keeps msk s0 x.1 := ?_; ?_); (on_goal 2 => clear_value x); (on_goal 1 => subst x)) | clear_value x)
    | (with_reducible first
        | apply Io.bumpF_keeps | apply State.bumpF_keeps | apply State.on_keeps | apply Io.pulse_keeps | apply State.discardSegment_keeps
        | apply State.segError_keeps | apply State.setDecoder_keeps | apply State.holdAccepted_keeps | apply State.kept_keeps
        | apply State.cellOps_keeps | apply State.on_keeps | refine State.ite_keeps ?_ ?_ | refine Io.ite_keeps ?_ ?_)
    | split
    | (with_reducible first
        | refine State.Keeps.fst (by assumption) ?_ | exact State.Keeps.io (by assumption) | fail_if_no_progress refine State.Keeps.io ?_
        | fail_if_no_progress refine State.mk_keeps ?_ ?_ | fail_if_no_progress refine Io.mk_keeps ?_)

theorem State.seenSegment_keeps {msk : Nat} {s0 : State} {s : State} {p : Nat} {pl : List Byte} {ok aborted : Bool} (hk0 : State.Keeps msk s0 s) (hm : Sub 0x100 msk) :
    State.Keeps msk s0 (State.seenSegment s p pl ok aborted) := by
  unfold State.seenSegment
  repeat' first
    | with_reducible assumption | exact Sub.of hm rfl | exact Has.of hm rfl | intro _
    | (extract_lets +onlyGivenNames x; first | (refine (have hx : State.Keeps msk s0 x := ?_; ?_); (on_goal 2 => clear_value x); (on_goal 1 => subst x)) | (refine (have hx : State.Keeps msk s0 x.1 := ?_; ?_); (on_goal 2 => clear_value x); (on_goal 1 => subst x)) | clear_value x)
    | (with_reducible first
        | apply State.onPair_keeps | fail_if_no_progress refine State.mk_keeps ?_ ?_)

theorem State.segmentReceived_keeps {msk : Nat} {s0 : State} {s : State} {port : Nat} {packet : List Byte} {aborted : Bool} (hk0 : State.Keeps msk s0 s) (hm : Sub 0x100000606900000000000000000000000000000000000000000000006003a700000000000000001ffc1c58000000000000278302 msk) :
    State.Keeps msk s0 (State.segmentReceived s port packet aborted) := by
  unfold State.segmentReceived
  repeat' first
    | with_reducible assumption | exact Sub.of hm rfl | exact Has.of hm rfl | intro _
    | (extract_lets +onlyGivenNames x; first | (refine (have hx : State.Keeps msk s0 x := ?_; ?_); (on_goal 2 => clear_value x); (on_goal 1 => subst x)) | (refine (have hx : State.Keeps msk s0 x.1 := ?_; ?_); (on_goal 2 => clear_value x); (on_goal 1 => subst x)) | clear_value x)
    | (with_reducible first
        | apply State.seenSegment_keeps | apply State.takePacket_keeps | apply State.excusePort_keeps | apply State.keepSegment_keeps
        | refine State.ite_keeps ?_ ?_ | refine Io.ite_keeps ?_ ?_)
    | split
    | (with_reducible first
        | refine State.Keeps.fst (by assumption) ?_ | exact State.Keeps.io (by assumption) | fail_if_no_progress refine State.Keeps.io ?_
        | fail_if_no_progress refine State.mk_keeps ?_ ?_ | fail_if_no_progress refine Io.mk_keeps ?_)

theorem State.rowOps_keeps {msk : Nat} {s0 : State} {s : State} {st n lane : Nat} {e : Position} {len : Nat} (hk0 : State.Keeps msk s0 s) (hm : Sub 0x1000006069000000000000000000000000000000000000000000000000000000000000000000001ffc1c58000000000000278000 msk) :
    State.Keeps msk s0 (State.rowOps s st n lane e len) := by
  unfold State.rowOps
  repeat' first
    | with_reducible assumption | exact Sub.of hm rfl | exact Has.of hm rfl | intro _
    | (extract_lets +onlyGivenNames x; first | (refine (have hx : State.Keeps msk s0 x := ?_; ?_); (on_goal 2 => clear_value x); (on_goal 1 => subst x)) | (refine (have hx : State.Keeps msk s0 x.1 := ?_; ?_); (on_goal 2 => clear_value x); (on_goal 1 => subst x)) | clear_value x)
    | (with_reducible first
        | apply State.cellOps_keeps | refine State.ite_keeps ?_ ?_)
    | split

theorem State.decodeSegment_keeps {msk : Nat} {s0 : State} {s : State} {st n lane : Nat} {e : Position} {k : KeptSegment} (hk0 : State.Keeps msk s0 s) (hm : Sub 0x1000006069000000000000000000000000000000000000000000000060016480000000000000001ffc1c58000000000000278302 msk) :
    State.Keeps msk s0 (State.decodeSegment s st n lane e k) := by
  unfold State.decodeSegment
  repeat' first
    | with_reducible assumption | exact Sub.of hm rfl | exact Has.of hm rfl | intro _ | exact RegOf.DEC_REF_MISSING _
    | exact RegOf.DEC_ROWS _
    | (extract_lets +onlyGivenNames x; first | (refine (have hx : State.Keeps msk s0 x := ?_; ?_); (on_goal 2 => clear_value x); (on_goal 1 => subst x)) | (refine (have hx : State.Keeps msk s0 x.1 := ?_; ?_); (on_goal 2 => clear_value x); (on_goal 1 => subst x)) | clear_value x)
    | (with_reducible first
        | apply State.rowOps_keeps | apply State.setDecoder_keeps | apply State.segError_keeps | apply Io.bumpF_keeps
        | apply State.bumpF_keeps | apply State.on_keeps | apply Io.fireOnce_keeps | apply State.slateRow_keeps | apply Io.resolve_keeps
        | apply State.resolve_keeps | apply State.frameEnd_keeps | apply State.on_keeps | refine State.ite_keeps ?_ ?_
        | refine Io.ite_keeps ?_ ?_)
    | split
    | (with_reducible first
        | refine State.Keeps.fst (by assumption) ?_ | exact State.Keeps.io (by assumption) | fail_if_no_progress refine State.Keeps.io ?_
        | fail_if_no_progress refine State.mk_keeps ?_ ?_ | fail_if_no_progress refine Io.mk_keeps ?_)

theorem State.decodeRows_keeps {msk : Nat} {s0 : State} {s : State} {st n lane lo k : Nat} (hk0 : State.Keeps msk s0 s) (hm : Sub 0x1000006069000000000000000000000000000000000000000000000060016480000000000000001ffc1c58000000000000278302 msk) :
    State.Keeps msk s0 (State.decodeRows s st n lane lo k) := by
  unfold State.decodeRows
  repeat' first
    | with_reducible assumption | exact Sub.of hm rfl | exact Has.of hm rfl | intro _
    | (extract_lets +onlyGivenNames x; first | (refine (have hx : State.Keeps msk s0 x := ?_; ?_); (on_goal 2 => clear_value x); (on_goal 1 => subst x)) | clear_value x)
    | (with_reducible first
        | apply State.kept_keeps | apply State.decodeSegment_keeps | apply State.foldl_keeps | apply State.foldl_keeps_fst)
    | split
    | (with_reducible first
        | refine State.Keeps.fst (by assumption) ?_ | fail_if_no_progress refine State.mk_keeps ?_ ?_)

theorem execDecodeSlot_keeps {msk : Nat} {s0 : State} {region slot : Nat} {s : State} (hk0 : State.Keeps msk s0 s) (hm : Sub 0x10000060690000000000000000000000000000000004000000000000600164c0002000000000001ffc1c58032000040000278303 msk) :
    Result.Keeps msk s0 (execDecodeSlot region slot s) := by
  unfold execDecodeSlot
  repeat' first
    | with_reducible assumption | exact Sub.of hm rfl | exact Has.of hm rfl | intro _
    | (extract_lets +onlyGivenNames x; first | (refine (have hx : State.Keeps msk s0 x := ?_; ?_); (on_goal 2 => clear_value x); (on_goal 1 => subst x)) | clear_value x)
    | (with_reducible first
        | refine Result.next_keeps ?_ | apply State.startSlot_keeps | apply State.decodeRows_keeps | refine Result.ite_keeps ?_ ?_
        | refine State.ite_keeps ?_ ?_)
    | split
    | (with_reducible first
        | refine State.Keeps.fst (by assumption) ?_ | fail_if_no_progress refine State.mk_keeps ?_ ?_)

theorem execCascadedInputDecode_keeps {msk : Nat} {s0 : State} {region slot : Nat} {s : State} (hk0 : State.Keeps msk s0 s) (hm : Sub 0x10000060690000000000000000000000000000000004000000000000600164c0002000000000001ffc1c58032000040000278303 msk) :
    Result.Keeps msk s0 (execCascadedInputDecode region slot s) := by
  unfold execCascadedInputDecode
  repeat' first
    | with_reducible assumption | exact Sub.of hm rfl | exact Has.of hm rfl | intro _
    | (extract_lets +onlyGivenNames x; first | (refine (have hx : State.Keeps msk s0 x := ?_; ?_); (on_goal 2 => clear_value x); (on_goal 1 => subst x)) | (refine (have hx : State.Keeps msk s0 x.1 := ?_; ?_); (on_goal 2 => clear_value x); (on_goal 1 => subst x)) | clear_value x)
    | (with_reducible first
        | refine Result.next_keeps ?_ | apply State.startSlot_keeps | apply State.decodeRows_keeps | refine Result.ite_keeps ?_ ?_
        | refine State.ite_keeps ?_ ?_)
    | split
    | (with_reducible first
        | refine State.Keeps.fst (by assumption) ?_ | fail_if_no_progress refine State.mk_keeps ?_ ?_)

theorem State.lateRow_keeps {msk : Nat} {s0 : State} {s : State} {st n : Nat} {e : Position} {frame row : Nat} (hk0 : State.Keeps msk s0 s) (hm : Sub 0x1000006069000000000000000000000000000000000000000000000060003000000000000000001ffc1c58000000000000278302 msk) :
    State.Keeps msk s0 (State.lateRow s st n e frame row) := by
  unfold State.lateRow
  repeat' first
    | with_reducible assumption | exact Sub.of hm rfl | exact Has.of hm rfl | intro _ | exact RegOf.DEC_LATE_ROWS _
    | (extract_lets +onlyGivenNames x; first | (refine (have hx : State.Keeps msk s0 x := ?_; ?_); (on_goal 2 => clear_value x); (on_goal 1 => subst x)) | (refine (have hx : State.Keeps msk s0 x.1 := ?_; ?_); (on_goal 2 => clear_value x); (on_goal 1 => subst x)) | clear_value x)
    | (with_reducible first
        | apply Io.bumpF_keeps | apply State.bumpF_keeps | apply State.on_keeps | apply Io.fireOnce_keeps | apply State.setDecoder_keeps
        | apply State.slateRow_keeps | apply Io.resolve_keeps | apply State.resolve_keeps | apply State.frameEnd_keeps
        | apply State.on_keeps | refine State.ite_keeps ?_ ?_ | refine Io.ite_keeps ?_ ?_)
    | split
    | (with_reducible first
        | exact State.Keeps.io (by assumption) | fail_if_no_progress refine State.Keeps.io ?_
        | fail_if_no_progress refine State.mk_keeps ?_ ?_ | fail_if_no_progress refine Io.mk_keeps ?_)

theorem execRowCutoff_keeps {msk : Nat} {s0 : State} {region slot row : Nat} {late : Bool} {s : State} (hk0 : State.Keeps msk s0 s) (hm : Sub 0x1000006069000000000000000000000000000000000000000000000060003000000000000000001ffc1c58000000000000278302 msk) :
    Result.Keeps msk s0 (execRowCutoff region slot row late s) := by
  unfold execRowCutoff
  repeat' first
    | with_reducible assumption | exact Sub.of hm rfl | exact Has.of hm rfl | intro _
    | (extract_lets +onlyGivenNames x; first | (refine (have hx : State.Keeps msk s0 x := ?_; ?_); (on_goal 2 => clear_value x); (on_goal 1 => subst x)) | (refine (have hx : State.Keeps msk s0 x.1 := ?_; ?_); (on_goal 2 => clear_value x); (on_goal 1 => subst x)) | clear_value x)
    | (with_reducible first
        | refine Result.next_keeps ?_ | apply State.lateRow_keeps | refine Result.ite_keeps ?_ ?_ | refine State.ite_keeps ?_ ?_
        | refine Io.ite_keeps ?_ ?_)
    | split
    | (with_reducible first
        | refine State.Keeps.fst (by assumption) ?_ | exact State.Keeps.io (by assumption) | fail_if_no_progress refine State.Keeps.io ?_
        | fail_if_no_progress refine State.mk_keeps ?_ ?_ | fail_if_no_progress refine Io.mk_keeps ?_)

theorem execCascadeFrameComplete_keeps {msk : Nat} {s0 : State} {port t : Nat} {s : State} (hk0 : State.Keeps msk s0 s) (hm : Sub 0x800200 msk) :
    Result.Keeps msk s0 (execCascadeFrameComplete port t s) := by
  unfold execCascadeFrameComplete
  repeat' first
    | with_reducible assumption | exact Sub.of hm rfl | exact Has.of hm rfl | intro _
    | (extract_lets +onlyGivenNames x; first | (refine (have hx : State.Keeps msk s0 x := ?_; ?_); (on_goal 2 => clear_value x); (on_goal 1 => subst x)) | (refine (have hx : State.Keeps msk s0 x.1 := ?_; ?_); (on_goal 2 => clear_value x); (on_goal 1 => subst x)) | clear_value x)
    | (with_reducible first
        | refine Result.next_keeps ?_ | apply State.on_keeps | apply Io.at_keeps | apply State.setCascade_keeps
        | apply State.setDecoder_keeps | apply State.foldl_keeps | apply State.foldl_keeps_fst | apply Io.foldl_keeps
        | apply Io.foldl_keeps_fst | apply State.on_keeps | refine Result.ite_keeps ?_ ?_ | refine State.ite_keeps ?_ ?_
        | refine Io.ite_keeps ?_ ?_)
    | split
    | (with_reducible first
        | refine State.Keeps.fst (by assumption) ?_ | exact State.Keeps.io (by assumption) | fail_if_no_progress refine State.Keeps.io ?_
        | fail_if_no_progress refine State.mk_keeps ?_ ?_ | fail_if_no_progress refine Io.mk_keeps ?_)

theorem execAckReceived_keeps {msk : Nat} {s0 : State} {port : Nat} {packet : List Byte} {s : State} (hk0 : State.Keeps msk s0 s) (hm : Sub 0x1000006069000000000000000000000000000000000000000000000060100000000000000000001ffc1c58000000000000278202 msk) :
    Result.Keeps msk s0 (execAckReceived port packet s) := by
  unfold execAckReceived
  repeat' first
    | with_reducible assumption | exact Sub.of hm rfl | exact Has.of hm rfl | intro _
    | (extract_lets +onlyGivenNames x; first | (refine (have hx : State.Keeps msk s0 x := ?_; ?_); (on_goal 2 => clear_value x); (on_goal 1 => subst x)) | (refine (have hx : State.Keeps msk s0 x.1 := ?_; ?_); (on_goal 2 => clear_value x); (on_goal 1 => subst x)) | clear_value x)
    | (with_reducible first
        | refine Result.next_keeps ?_ | apply State.ackReceived_keeps | apply State.setDecoder_keeps | apply State.takePacket_keeps
        | refine Result.ite_keeps ?_ ?_ | refine State.ite_keeps ?_ ?_ | refine Io.ite_keeps ?_ ?_)
    | split
    | (with_reducible first
        | refine State.Keeps.fst (by assumption) ?_ | exact State.Keeps.io (by assumption) | fail_if_no_progress refine State.Keeps.io ?_
        | fail_if_no_progress refine State.mk_keeps ?_ ?_ | fail_if_no_progress refine Io.mk_keeps ?_)

theorem execReturnAckTimeout_keeps {msk : Nat} {s0 : State} {stream seq : Nat} {s : State} (hk0 : State.Keeps msk s0 s) (hm : Sub 0x1000006069000000000000000000000000000000000000000000000000300000000000000000001ffc1c58000000000000278202 msk) :
    Result.Keeps msk s0 (execReturnAckTimeout stream seq s) := by
  unfold execReturnAckTimeout
  repeat' first
    | with_reducible assumption | exact Sub.of hm rfl | exact Has.of hm rfl | intro _ | exact RegOf.LNK_RET_GIVEUP
    | (extract_lets +onlyGivenNames x; first | (refine (have hx : State.Keeps msk s0 x := ?_; ?_); (on_goal 2 => clear_value x); (on_goal 1 => subst x)) | (refine (have hx : State.Keeps msk s0 x.1 := ?_; ?_); (on_goal 2 => clear_value x); (on_goal 1 => subst x)) | clear_value x)
    | (with_reducible first
        | refine Result.next_keeps ?_ | apply State.returnTimeout_keeps | apply State.setDecoder_keeps | apply State.on_keeps
        | apply Io.emit_keeps | apply State.emit_keeps | apply Io.pulse_keeps | apply Io.bumpF_keeps | apply State.bumpF_keeps
        | apply Io.fireObj_keeps | apply State.on_keeps | refine Result.ite_keeps ?_ ?_ | refine State.ite_keeps ?_ ?_
        | refine Io.ite_keeps ?_ ?_)
    | split
    | (with_reducible first
        | refine State.Keeps.fst (by assumption) ?_ | exact State.Keeps.io (by assumption) | fail_if_no_progress refine State.Keeps.io ?_
        | fail_if_no_progress refine State.mk_keeps ?_ ?_ | fail_if_no_progress refine Io.mk_keeps ?_)

theorem State.encodeSlot_keeps {msk : Nat} {s0 : State} {s : State} {region slot : Nat} {late : Bool} (hk0 : State.Keeps msk s0 s) (hm : Sub 0x100000606900000000000000000000000000000000040000000000006003a747ffe000000000001ffc1c58032000040000278303 msk) :
    State.Keeps msk s0 (State.encodeSlot s region slot late) := by
  unfold State.encodeSlot
  repeat' first
    | with_reducible assumption | exact Sub.of hm rfl | exact Has.of hm rfl | intro _
    | (extract_lets +onlyGivenNames x; first | (refine (have hx : State.Keeps msk s0 x := ?_; ?_); (on_goal 2 => clear_value x); (on_goal 1 => subst x)) | (refine (have hx : State.Keeps msk s0 x.1 := ?_; ?_); (on_goal 2 => clear_value x); (on_goal 1 => subst x)) | clear_value x)
    | (with_reducible first
        | apply State.startSlot_keeps | apply State.encodeSlice_keeps | apply State.keepSegment_keeps | apply State.foldl_keeps
        | apply State.foldl_keeps_fst | apply Io.foldl_keeps | apply Io.foldl_keeps_fst | refine State.ite_keeps ?_ ?_
        | refine Io.ite_keeps ?_ ?_)
    | split
    | (with_reducible first
        | refine State.Keeps.fst (by assumption) ?_ | exact State.Keeps.io (by assumption) | fail_if_no_progress refine State.Keeps.io ?_
        | fail_if_no_progress refine State.mk_keeps ?_ ?_ | fail_if_no_progress refine Io.mk_keeps ?_)

theorem State.holdSlice_keeps {msk : Nat} {s0 : State} {s : State} {n : Nat} {e : Position} {own : Bool} {frame : Nat} (hk0 : State.Keeps msk s0 s) (hm : Sub 0x100000606900000000000000000000000000000000000000000000006003a702000000000000001ffc1c58000000000000278302 msk) :
    State.Keeps msk s0 (State.holdSlice s n e own frame) := by
  unfold State.holdSlice
  repeat' first
    | with_reducible assumption | exact Sub.of hm rfl | exact Has.of hm rfl | intro _ | exact RegOf.ENC_HOLD_SEGS _
    | (extract_lets +onlyGivenNames x; first | (refine (have hx : State.Keeps msk s0 x := ?_; ?_); (on_goal 2 => clear_value x); (on_goal 1 => subst x)) | (refine (have hx : State.Keeps msk s0 x.1 := ?_; ?_); (on_goal 2 => clear_value x); (on_goal 1 => subst x)) | clear_value x)
    | (with_reducible first
        | apply State.setMirror_keeps | apply Io.bumpF_keeps | apply State.bumpF_keeps | apply State.on_keeps | apply Io.fireOnce_keeps
        | apply Io.emit_keeps | apply State.emit_keeps | apply State.keepSegment_keeps | apply State.expectSegment_keeps
        | apply State.setPort_keeps | apply State.on_keeps | refine State.ite_keeps ?_ ?_ | refine Io.ite_keeps ?_ ?_)
    | split
    | (with_reducible first
        | exact State.Keeps.io (by assumption) | fail_if_no_progress refine State.Keeps.io ?_
        | fail_if_no_progress refine State.mk_keeps ?_ ?_ | fail_if_no_progress refine Io.mk_keeps ?_)

theorem State.holdTick_keeps {msk : Nat} {s0 : State} {s : State} (hk0 : State.Keeps msk s0 s) (hm : Sub 0x100000606900000000000000000000000000000000000000000000006003a702000000000000001ffc1c58000000000000278302 msk) :
    State.Keeps msk s0 (State.holdTick s) := by
  unfold State.holdTick
  repeat' first
    | with_reducible assumption | exact Sub.of hm rfl | exact Has.of hm rfl | intro _
    | (with_reducible first
        | apply State.holdSlice_keeps | apply State.foldl_keeps | apply State.foldl_keeps_fst | apply Io.foldl_keeps
        | apply Io.foldl_keeps_fst | refine State.ite_keeps ?_ ?_ | refine Io.ite_keeps ?_ ?_)
    | split
    | (with_reducible first
        | exact State.Keeps.io (by assumption) | fail_if_no_progress refine State.Keeps.io ?_)

theorem State.decodeTick_keeps {msk : Nat} {s0 : State} {s : State} (hk0 : State.Keeps msk s0 s) (hm : Sub 0x1000006069000000000000000000000000000000000000000000000060000000000000000000001ffc1c58000000000000278200 msk) :
    State.Keeps msk s0 (State.decodeTick s) := by
  unfold State.decodeTick
  repeat' first
    | with_reducible assumption | exact Sub.of hm rfl | exact Has.of hm rfl | intro _
    | (extract_lets +onlyGivenNames x; first | (refine (have hx : State.Keeps msk s0 x := ?_; ?_); (on_goal 2 => clear_value x); (on_goal 1 => subst x)) | (refine (have hx : State.Keeps msk s0 x.1 := ?_; ?_); (on_goal 2 => clear_value x); (on_goal 1 => subst x)) | clear_value x)
    | (with_reducible first
        | apply State.onVideo_keeps | apply State.kept_keeps | refine State.ite_keeps ?_ ?_ | refine Io.ite_keeps ?_ ?_)
    | split
    | (with_reducible first
        | exact State.Keeps.io (by assumption) | fail_if_no_progress refine State.Keeps.io ?_
        | fail_if_no_progress refine State.mk_keeps ?_ ?_ | fail_if_no_progress refine Io.mk_keeps ?_)

end Sys2Proof.Machine
end

