-- ==== Sys2Proof/Laws/KeepsBoards.lean ====
section
/-! SUPPORT. What the operations of Machine/Boards.lean keep. -/

set_option linter.unusedTactic false
set_option linter.unreachableTactic false
set_option linter.tactic.unusedName false

set_option Elab.async false

namespace Sys2Proof.Machine

theorem State.reportBoard_keeps {msk : Nat} {s0 : State} {s : State} {b : Nat} (hk0 : State.Keeps msk s0 s) (hm : Sub 0x68000000000000000000000000000000000000000000000000000000000000000000000 msk) :
    State.Keeps msk s0 (State.reportBoard s b) := by
  unfold State.reportBoard
  repeat' first
    | with_reducible assumption | exact Sub.of hm rfl | exact Has.of hm rfl | intro _ | exact RegOf.LBD_BOARD_FAULTS _
    | exact RegOf.LBD_BOARD_UNVER _ | exact RegOf.LBD_UNVERIFIED
    | (extract_lets +onlyGivenNames x; first | (refine (have hx : State.Keeps msk s0 x := ?_; ?_); (on_goal 2 => clear_value x); (on_goal 1 => subst x)) | (refine (have hx : State.Keeps msk s0 x.1 := ?_; ?_); (on_goal 2 => clear_value x); (on_goal 1 => subst x)) | clear_value x)
    | (with_reducible first
        | apply Io.setF_keeps | apply State.setF_keeps | apply State.foldl_keeps | apply State.foldl_keeps_fst)
    | split
    | (with_reducible first
        | refine State.Keeps.fst (by assumption) ?_ | fail_if_no_progress refine State.mk_keeps ?_ ?_)

theorem State.faultLog_keeps {msk : Nat} {s0 : State} {s : State} {c : Channel} {kind : Nat} (hk0 : State.Keeps msk s0 s) (hm : Sub 0x10000060690000000000000000000000e0400000000000000000000000000000000000000000001ffc1c58000000000000278000 msk) :
    State.Keeps msk s0 (State.faultLog s c kind) := by
  unfold State.faultLog
  repeat' first
    | with_reducible assumption | exact Sub.of hm rfl | exact Has.of hm rfl | intro _ | exact RegOf.LBD_FLOG_CHAN _
    | exact RegOf.LBD_FLOG_HEAD | exact RegOf.LBD_FLOG_INFO _ | exact RegOf.LBD_FLOG_TICK _
    | (extract_lets +onlyGivenNames x; first | (refine (have hx : State.Keeps msk s0 x := ?_; ?_); (on_goal 2 => clear_value x); (on_goal 1 => subst x)) | (refine (have hx : State.Keeps msk s0 x.1 := ?_; ?_); (on_goal 2 => clear_value x); (on_goal 1 => subst x)) | clear_value x)
    | (with_reducible first
        | apply Io.setF_keeps | apply State.setF_keeps | apply State.on_keeps | apply Io.fireIn_keeps | apply State.on_keeps
        | refine State.ite_keeps ?_ ?_ | refine Io.ite_keeps ?_ ?_)
    | split
    | (with_reducible first
        | exact State.Keeps.io (by assumption) | fail_if_no_progress refine State.Keeps.io ?_)

theorem State.boardState_keeps {msk : Nat} {s0 : State} {s : State} {b st : Nat} (hk0 : State.Keeps msk s0 s) (hm : Sub 0x1010000000000000000000000000000000000000000000000000000000000000000000000 msk) :
    State.Keeps msk s0 (State.boardState s b st) := by
  unfold State.boardState
  repeat' first
    | with_reducible assumption | exact Sub.of hm rfl | exact Has.of hm rfl | intro _ | exact RegOf.LBD_BOARD_STAT _
    | exact RegOf.LBD_BUS_STAT _ _
    | (extract_lets +onlyGivenNames x; first | (refine (have hx : State.Keeps msk s0 x := ?_; ?_); (on_goal 2 => clear_value x); (on_goal 1 => subst x)) | (refine (have hx : State.Keeps msk s0 x.1 := ?_; ?_); (on_goal 2 => clear_value x); (on_goal 1 => subst x)) | clear_value x)
    | (with_reducible first
        | apply Io.setF_keeps | apply State.setF_keeps)

theorem State.boardGone_keeps {msk : Nat} {s0 : State} {s : State} {b : Nat} (hk0 : State.Keeps msk s0 s) (hm : Sub 0x1000006069000000000000000000000107800000000000000000000060000000000000000000001ffc1c58000000000000278480 msk) :
    State.Keeps msk s0 (State.boardGone s b) := by
  unfold State.boardGone
  repeat' first
    | with_reducible assumption | exact Sub.of hm rfl | exact Has.of hm rfl | intro _ | exact RegOf.LBD_BOARD_STAT _
    | (extract_lets +onlyGivenNames x; first | (refine (have hx : State.Keeps msk s0 x := ?_; ?_); (on_goal 2 => clear_value x); (on_goal 1 => subst x)) | (refine (have hx : State.Keeps msk s0 x.1 := ?_; ?_); (on_goal 2 => clear_value x); (on_goal 1 => subst x)) | clear_value x)
    | (with_reducible first
        | apply State.boardState_keeps | apply Io.setF_keeps | apply State.setF_keeps | apply State.setBoard_keeps | apply State.kept_keeps
        | apply State.onLamp_keeps | apply State.onTherm_keeps | apply State.reportBoard_keeps | apply State.on_keeps
        | apply Io.fireObj_keeps | apply State.on_keeps | refine State.ite_keeps ?_ ?_ | refine Io.ite_keeps ?_ ?_)
    | split
    | (with_reducible first
        | exact State.Keeps.io (by assumption) | fail_if_no_progress refine State.Keeps.io ?_
        | fail_if_no_progress refine State.mk_keeps ?_ ?_ | fail_if_no_progress refine Io.mk_keeps ?_)

theorem State.boardReads_keeps {msk : Nat} {s0 : State} {s : State} {n : Nat} (hk0 : State.Keeps msk s0 s) (hm : Sub 0x1000006069000000000000000000000000000000000000000000000000000000000000000000001ffc1c58000000000000278000 msk) :
    State.Keeps msk s0 (State.boardReads s n) := by
  unfold State.boardReads
  repeat' first
    | with_reducible assumption | exact Sub.of hm rfl | exact Has.of hm rfl | intro _
    | (with_reducible first
        | apply State.on_keeps | apply Io.pulses_keeps | apply State.on_keeps | exact State.Keeps.io (by assumption)
        | fail_if_no_progress refine State.Keeps.io ?_)

theorem State.boardWrite_keeps {msk : Nat} {s0 : State} {s : State} {b off : Nat} {bs : List Byte} (hk0 : State.Keeps msk s0 s) (hm : Sub 0x1000006069000000000000000000000000000000000000000000000000000000000000000000001ffc1c58000000000000278000 msk) :
    State.Keeps msk s0 (State.boardWrite s b off bs) := by
  unfold State.boardWrite
  repeat' first
    | with_reducible assumption | exact Sub.of hm rfl | exact Has.of hm rfl | intro _
    | (with_reducible first
        | apply Io.emit_keeps | apply State.emit_keeps | apply State.boardReads_keeps)

theorem execPresencePoll_keeps {msk : Nat} {s0 : State} {bus slot : Nat} {header : List Byte} {s : State} (hk0 : State.Keeps msk s0 s) (hm : Sub 0x1000006069000000000000000000000107800000000000000000000060000000000000000000001ffc1c58000000000000278480 msk) :
    Result.Keeps msk s0 (execPresencePoll bus slot header s) := by
  unfold execPresencePoll
  repeat' first
    | with_reducible assumption | exact Sub.of hm rfl | exact Has.of hm rfl | intro _ | exact RegOf.LBD_BUS_STAT _ _
    | (extract_lets +onlyGivenNames x; first | (refine (have hx : State.Keeps msk s0 x := ?_; ?_); (on_goal 2 => clear_value x); (on_goal 1 => subst x)) | (refine (have hx : State.Keeps msk s0 x.1 := ?_; ?_); (on_goal 2 => clear_value x); (on_goal 1 => subst x)) | clear_value x)
    | (with_reducible first
        | refine Result.next_keeps ?_ | apply State.boardReads_keeps | apply State.onLamp_keeps | apply Io.setF_keeps
        | apply State.setF_keeps | apply State.boardState_keeps | apply State.boardGone_keeps | apply State.on_keeps | apply Io.fireIn_keeps
        | apply State.on_keeps | refine Result.ite_keeps ?_ ?_ | refine State.ite_keeps ?_ ?_ | refine Io.ite_keeps ?_ ?_)
    | split
    | (with_reducible first
        | refine State.Keeps.fst (by assumption) ?_ | exact State.Keeps.io (by assumption) | fail_if_no_progress refine State.Keeps.io ?_
        | fail_if_no_progress refine State.mk_keeps ?_ ?_ | fail_if_no_progress refine Io.mk_keeps ?_)

theorem State.writeBoth_keeps {msk : Nat} {s0 : State} {s : State} {idx : Nat} {r : List Byte} (hk0 : State.Keeps msk s0 s) (hm : Sub 0x20000 msk) :
    State.Keeps msk s0 (State.writeBoth s idx r) := by
  unfold State.writeBoth
  repeat' first
    | with_reducible assumption | exact Sub.of hm rfl | exact Has.of hm rfl | intro _
    | (with_reducible first
        | apply State.on_keeps | apply Io.writeDram_keeps | apply State.on_keeps | exact State.Keeps.io (by assumption)
        | fail_if_no_progress refine State.Keeps.io ?_)

theorem State.deriveBoard_keeps {msk : Nat} {s0 : State} {s : State} {b : Nat} {bins : List Byte} {chs : List Channel} (hk0 : State.Keeps msk s0 s) (hm : Sub 0x1000006069000000000000000000000000000000000002000000000000000000000000000000001ffc1c58000000000000278000 msk) :
    State.Keeps msk s0 (State.deriveBoard s b bins chs) := by
  unfold State.deriveBoard
  repeat' first
    | with_reducible assumption | exact Sub.of hm rfl | exact Has.of hm rfl | intro _ | exact RegOf.LMP_UNCORRECTABLE
    | (extract_lets +onlyGivenNames x; first | (refine (have hx : State.Keeps msk s0 x := ?_; ?_); (on_goal 2 => clear_value x); (on_goal 1 => subst x)) | (refine (have hx : State.Keeps msk s0 x.1 := ?_; ?_); (on_goal 2 => clear_value x); (on_goal 1 => subst x)) | clear_value x)
    | (with_reducible first
        | apply State.writeBoth_keeps | apply Io.bumpF_keeps | apply State.bumpF_keeps | apply State.on_keeps | apply Io.fireObj_keeps
        | apply State.foldl_keeps | apply State.foldl_keeps_fst | apply Io.foldl_keeps | apply Io.foldl_keeps_fst | apply State.on_keeps)
    | split
    | (with_reducible first
        | refine State.Keeps.fst (by assumption) ?_ | exact State.Keeps.io (by assumption) | fail_if_no_progress refine State.Keeps.io ?_
        | fail_if_no_progress refine State.mk_keeps ?_ ?_ | fail_if_no_progress refine Io.mk_keeps ?_)

theorem State.restoreLamps_keeps {msk : Nat} {s0 : State} {s : State} {b : Nat} {reads : List (Nat × List Byte)} {h : List Byte} {model : Option (List Byte)} {keep : Bool} (hk0 : State.Keeps msk s0 s) (hm : Sub 0x1000006069000000000000000000000000000000000000000000000000000000000000000000001ffc1c58000000000000278000 msk) :
    State.Keeps msk s0 (State.restoreLamps s b reads h model keep) := by
  unfold State.restoreLamps
  repeat' first
    | with_reducible assumption | exact Sub.of hm rfl | exact Has.of hm rfl | intro _
    | (extract_lets +onlyGivenNames x; first | (refine (have hx : State.Keeps msk s0 x := ?_; ?_); (on_goal 2 => clear_value x); (on_goal 1 => subst x)) | (refine (have hx : State.Keeps msk s0 x.1 := ?_; ?_); (on_goal 2 => clear_value x); (on_goal 1 => subst x)) | clear_value x)
    | (with_reducible first
        | apply State.on_keeps | apply Io.fireObj_keeps | apply Io.writeDram_keeps | apply State.foldl_keeps | apply State.foldl_keeps_fst
        | apply Io.foldl_keeps | apply Io.foldl_keeps_fst | apply State.on_keeps | refine State.ite_keeps ?_ ?_ | refine Io.ite_keeps ?_ ?_)
    | split
    | (with_reducible first
        | refine State.Keeps.fst (by assumption) ?_ | exact State.Keeps.io (by assumption) | fail_if_no_progress refine State.Keeps.io ?_
        | fail_if_no_progress refine State.mk_keeps ?_ ?_ | fail_if_no_progress refine Io.mk_keeps ?_)

theorem State.setGroup_keeps {msk : Nat} {s0 : State} {s : State} {g : Group} (hk0 : State.Keeps msk s0 s) (hm : Sub 0x400 msk) :
    State.Keeps msk s0 (State.setGroup s g) := by
  unfold State.setGroup
  repeat' first
    | with_reducible assumption | exact Sub.of hm rfl | exact Has.of hm rfl | intro _
    | (extract_lets +onlyGivenNames x; first | (refine (have hx : State.Keeps msk s0 x := ?_; ?_); (on_goal 2 => clear_value x); (on_goal 1 => subst x)) | clear_value x)
    | (with_reducible first
        | apply State.onLamp_keeps | fail_if_no_progress refine State.mk_keeps ?_ ?_)

theorem State.inventory_keeps {msk : Nat} {s0 : State} {s : State} {b : Nat} {h : List Byte} (hk0 : State.Keeps msk s0 s) (hm : Sub 0x1000006069000000840000000000000000000000000000000000000000000000000000000000001ffc1c58000000000000278040 msk) :
    State.Keeps msk s0 (State.inventory s b h) := by
  unfold State.inventory
  repeat' first
    | with_reducible assumption | exact Sub.of hm rfl | exact Has.of hm rfl | intro _
    | (extract_lets +onlyGivenNames x; first | (refine (have hx : State.Keeps msk s0 x := ?_; ?_); (on_goal 2 => clear_value x); (on_goal 1 => subst x)) | (refine (have hx : State.Keeps msk s0 x.1 := ?_; ?_); (on_goal 2 => clear_value x); (on_goal 1 => subst x)) | clear_value x)
    | (with_reducible first
        | apply State.queueRecord_keeps | apply State.on_keeps | apply Io.fireObj_keeps | apply State.on_keeps
        | refine State.ite_keeps ?_ ?_ | refine Io.ite_keeps ?_ ?_)
    | split
    | (with_reducible first
        | exact State.Keeps.io (by assumption) | fail_if_no_progress refine State.Keeps.io ?_)

theorem State.rejectBoard_keeps {msk : Nat} {s0 : State} {s : State} {b reason : Nat} (hk0 : State.Keeps msk s0 s) (hm : Sub 0x1000006069000000000000000000000101200000000000000000000000000000000000000000001ffc1c58000000000000278000 msk) :
    State.Keeps msk s0 (State.rejectBoard s b reason) := by
  unfold State.rejectBoard
  repeat' first
    | with_reducible assumption | exact Sub.of hm rfl | exact Has.of hm rfl | intro _ | exact RegOf.LBD_BOARD_STAT _
    | exact RegOf.LBD_SIG_FAIL
    | (extract_lets +onlyGivenNames x; first | (refine (have hx : State.Keeps msk s0 x := ?_; ?_); (on_goal 2 => clear_value x); (on_goal 1 => subst x)) | (refine (have hx : State.Keeps msk s0 x.1 := ?_; ?_); (on_goal 2 => clear_value x); (on_goal 1 => subst x)) | clear_value x)
    | (with_reducible first
        | apply State.boardState_keeps | apply Io.setF_keeps | apply State.setF_keeps | apply Io.bumpF_keeps | apply State.bumpF_keeps
        | apply State.on_keeps | apply Io.fireObj_keeps | apply State.on_keeps | refine State.ite_keeps ?_ ?_ | refine Io.ite_keeps ?_ ?_)
    | split
    | (with_reducible first
        | exact State.Keeps.io (by assumption) | fail_if_no_progress refine State.Keeps.io ?_)

theorem State.busError_keeps {msk : Nat} {s0 : State} {s : State} {bus : Nat} (hk0 : State.Keeps msk s0 s) (hm : Sub 0x1000006069000000000000000000000200000000000000000000000000000000000000000000001ffc1c58000000000000278000 msk) :
    State.Keeps msk s0 (State.busError s bus) := by
  unfold State.busError
  repeat' first
    | with_reducible assumption | exact Sub.of hm rfl | exact Has.of hm rfl | intro _ | exact RegOf.LBD_BUS_ERR _ _
    | (with_reducible first
        | apply Io.bumpF_keeps | apply State.bumpF_keeps | apply State.on_keeps | apply Io.fireOnce_keeps | apply State.on_keeps)
    | split
    | (with_reducible first
        | exact State.Keeps.io (by assumption) | fail_if_no_progress refine State.Keeps.io ?_)

theorem State.boardOps_keeps {msk : Nat} {s0 : State} {s : State} {b : Nat} {attach : Bool} (hk0 : State.Keeps msk s0 s) (hm : Sub 0x1000006069000000000000000000000000000000000000000000000000000000000000000000001ffc1c58000000000000278000 msk) :
    State.Keeps msk s0 (State.boardOps s b attach) := by
  unfold State.boardOps
  repeat' first
    | with_reducible assumption | exact Sub.of hm rfl | exact Has.of hm rfl | intro _
    | (extract_lets +onlyGivenNames x; first | (refine (have hx : State.Keeps msk s0 x := ?_; ?_); (on_goal 2 => clear_value x); (on_goal 1 => subst x)) | (refine (have hx : State.Keeps msk s0 x.1 := ?_; ?_); (on_goal 2 => clear_value x); (on_goal 1 => subst x)) | clear_value x)
    | (with_reducible first
        | apply State.unitOps_keeps | apply State.foldl_keeps | apply State.foldl_keeps_fst | refine State.ite_keeps ?_ ?_)
    | split

theorem State.attachBoard_keeps {msk : Nat} {s0 : State} {s : State} {b : Nat} {reads : List (Nat × List Byte)} (hk0 : State.Keeps msk s0 s) (hm : Sub 0x1000006069000000840000000000000117800000000002000000000060000000000000000000001ffc1c58000000000000278440 msk) :
    State.Keeps msk s0 (State.attachBoard s b reads) := by
  unfold State.attachBoard
  repeat' first
    | with_reducible assumption | exact Sub.of hm rfl | exact Has.of hm rfl | intro _ | exact RegOf.LBD_BOARD_SERIAL _ _
    | exact RegOf.LBD_BOARD_STAT _
    | (extract_lets +onlyGivenNames x; first | (refine (have hx : State.Keeps msk s0 x := ?_; ?_); (on_goal 2 => clear_value x); (on_goal 1 => subst x)) | (refine (have hx : State.Keeps msk s0 x.1 := ?_; ?_); (on_goal 2 => clear_value x); (on_goal 1 => subst x)) | clear_value x)
    | (with_reducible first
        | apply Io.setF_keeps | apply State.setF_keeps | apply State.on_keeps | apply Io.fireObj_keeps | apply State.restoreLamps_keeps
        | apply State.kept_keeps | apply State.deriveBoard_keeps | apply State.boardOps_keeps | apply State.setBoard_keeps
        | apply State.setGroup_keeps | apply State.boardState_keeps | apply State.inventory_keeps | apply State.reportBoard_keeps
        | apply State.foldl_keeps | apply State.foldl_keeps_fst | apply Io.foldl_keeps | apply Io.foldl_keeps_fst | apply State.on_keeps
        | refine State.ite_keeps ?_ ?_ | refine Io.ite_keeps ?_ ?_)
    | split
    | (with_reducible first
        | refine State.Keeps.fst (by assumption) ?_ | exact State.Keeps.io (by assumption) | fail_if_no_progress refine State.Keeps.io ?_
        | fail_if_no_progress refine State.mk_keeps ?_ ?_ | fail_if_no_progress refine Io.mk_keeps ?_)

theorem execAttachReadsDone_keeps {msk : Nat} {s0 : State} {board : Nat} {reads : Option (List (Nat × List Byte))} {s : State} (hk0 : State.Keeps msk s0 s) (hm : Sub 0x1000006069000000840000000000000317a00000000002000000000060000000000000000000001ffc1c58000000000000278440 msk) :
    Result.Keeps msk s0 (execAttachReadsDone board reads s) := by
  unfold execAttachReadsDone
  repeat' first
    | with_reducible assumption | exact Sub.of hm rfl | exact Has.of hm rfl | intro _
    | (extract_lets +onlyGivenNames x; first | (refine (have hx : State.Keeps msk s0 x := ?_; ?_); (on_goal 2 => clear_value x); (on_goal 1 => subst x)) | (refine (have hx : State.Keeps msk s0 x.1 := ?_; ?_); (on_goal 2 => clear_value x); (on_goal 1 => subst x)) | clear_value x)
    | (with_reducible first
        | refine Result.next_keeps ?_ | apply State.boardReads_keeps | apply State.busError_keeps | apply State.rejectBoard_keeps
        | apply State.attachBoard_keeps | refine Result.ite_keeps ?_ ?_ | refine State.ite_keeps ?_ ?_)
    | split
    | (with_reducible first
        | refine State.Keeps.fst (by assumption) ?_ | fail_if_no_progress refine State.mk_keeps ?_ ?_)

theorem execSensorRead_keeps {msk : Nat} {s0 : State} {board value : Nat} {s : State} (hk0 : State.Keeps msk s0 s) (hm : Sub 0x1000006069000000000000000000000009000000000000000000000000000000000000000000001ffc1c58000000000000278480 msk) :
    Result.Keeps msk s0 (execSensorRead board value s) := by
  unfold execSensorRead
  repeat' first
    | with_reducible assumption | exact Sub.of hm rfl | exact Has.of hm rfl | intro _ | exact RegOf.LBD_BOARD_STAT _
    | exact RegOf.LBD_BOARD_TEMP _
    | (extract_lets +onlyGivenNames x; first | (refine (have hx : State.Keeps msk s0 x := ?_; ?_); (on_goal 2 => clear_value x); (on_goal 1 => subst x)) | (refine (have hx : State.Keeps msk s0 x.1 := ?_; ?_); (on_goal 2 => clear_value x); (on_goal 1 => subst x)) | clear_value x)
    | (with_reducible first
        | refine Result.next_keeps ?_ | apply State.boardReads_keeps | apply Io.setF_keeps | apply State.setF_keeps
        | apply State.onTherm_keeps | apply State.setBoard_keeps | apply State.on_keeps | apply Io.fireObj_keeps | apply State.on_keeps
        | refine Result.ite_keeps ?_ ?_ | refine State.ite_keeps ?_ ?_ | refine Io.ite_keeps ?_ ?_)
    | split
    | (with_reducible first
        | exact State.Keeps.io (by assumption) | fail_if_no_progress refine State.Keeps.io ?_
        | fail_if_no_progress refine State.mk_keeps ?_ ?_ | fail_if_no_progress refine Io.mk_keeps ?_)

theorem State.setPass_keeps {msk : Nat} {s0 : State} {s : State} {p : StorePass} (hk0 : State.Keeps msk s0 s) (hm : Sub 0x400 msk) :
    State.Keeps msk s0 (State.setPass s p) := by
  unfold State.setPass
  repeat' first
    | with_reducible assumption | exact Sub.of hm rfl | exact Has.of hm rfl | intro _
    | (extract_lets +onlyGivenNames x; first | (refine (have hx : State.Keeps msk s0 x := ?_; ?_); (on_goal 2 => clear_value x); (on_goal 1 => subst x)) | clear_value x)
    | (with_reducible first
        | apply State.onLamp_keeps | refine State.ite_keeps ?_ ?_)
    | split | with_reducible fail_if_no_progress refine State.mk_keeps ?_ ?_

theorem State.writeFaultCopy_keeps {msk : Nat} {s0 : State} {s : State} {b : Nat} (hk0 : State.Keeps msk s0 s) (hm : Sub 0x1000006069000000000000000000000000000000000000000000000000000000000000000000001ffc1c58000000000000278400 msk) :
    State.Keeps msk s0 (State.writeFaultCopy s b) := by
  unfold State.writeFaultCopy
  repeat' first
    | with_reducible assumption | exact Sub.of hm rfl | exact Has.of hm rfl | intro _
    | (extract_lets +onlyGivenNames x; first | (refine (have hx : State.Keeps msk s0 x := ?_; ?_); (on_goal 2 => clear_value x); (on_goal 1 => subst x)) | (refine (have hx : State.Keeps msk s0 x.1 := ?_; ?_); (on_goal 2 => clear_value x); (on_goal 1 => subst x)) | clear_value x)
    | (with_reducible first
        | apply State.setBoard_keeps | apply State.boardWrite_keeps | fail_if_no_progress refine State.mk_keeps ?_ ?_)

theorem State.reportPass_keeps {msk : Nat} {s0 : State} {s : State} {bus : Nat} (hk0 : State.Keeps msk s0 s) (hm : Sub 0x1000000000000000000000000000000000000000000000000000000000000000000000000 msk) :
    State.Keeps msk s0 (State.reportPass s bus) := by
  unfold State.reportPass
  repeat' first
    | with_reducible assumption | exact Sub.of hm rfl | exact Has.of hm rfl | intro _ | exact RegOf.LBD_BUS_STAT _ _
    | (with_reducible first
        | apply Io.setF_keeps | apply State.setF_keeps)

theorem State.runPass_keeps {msk : Nat} {s0 : State} {s : State} {bus : Nat} (hk0 : State.Keeps msk s0 s) (hm : Sub 0x1000006069000000000000000000000100000000000000000000000000000000000000000000001ffc1c58000000000000278400 msk) :
    State.Keeps msk s0 (State.runPass s bus) := by
  unfold State.runPass
  repeat' first
    | with_reducible assumption | exact Sub.of hm rfl | exact Has.of hm rfl | intro _
    | (extract_lets +onlyGivenNames x; first | (refine (have hx : State.Keeps msk s0 x := ?_; ?_); (on_goal 2 => clear_value x); (on_goal 1 => subst x)) | (refine (have hx : State.Keeps msk s0 x.1 := ?_; ?_); (on_goal 2 => clear_value x); (on_goal 1 => subst x)) | clear_value x)
    | (with_reducible first
        | apply State.reportPass_keeps | apply Io.take_keeps | apply State.boardOps_keeps | apply State.setPass_keeps
        | apply State.boardWrite_keeps | refine State.ite_keeps ?_ ?_)
    | split
    | (with_reducible first
        | refine State.Keeps.fst (by assumption) ?_ | fail_if_no_progress refine State.mk_keeps ?_ ?_)

theorem State.queuePass_keeps {msk : Nat} {s0 : State} {s : State} {b why : Nat} {first : Bool} (hk0 : State.Keeps msk s0 s) (hm : Sub 0x1000006069000000000000000000000100000000000000000000000000000000000000000000001ffc1c58000000000000278400 msk) :
    State.Keeps msk s0 (State.queuePass s b why first) := by
  unfold State.queuePass
  repeat' first
    | with_reducible assumption | exact Sub.of hm rfl | exact Has.of hm rfl | intro _
    | (extract_lets +onlyGivenNames x; first | (refine (have hx : State.Keeps msk s0 x := ?_; ?_); (on_goal 2 => clear_value x); (on_goal 1 => subst x)) | (refine (have hx : State.Keeps msk s0 x.1 := ?_; ?_); (on_goal 2 => clear_value x); (on_goal 1 => subst x)) | clear_value x)
    | (with_reducible first
        | apply State.setBoard_keeps | apply State.onLamp_keeps | apply State.runPass_keeps | refine State.ite_keeps ?_ ?_)
    | split | with_reducible fail_if_no_progress refine State.mk_keeps ?_ ?_

theorem execWearStoreTimer_keeps {msk : Nat} {s0 : State} {s : State} (hk0 : State.Keeps msk s0 s) (hm : Sub 0x1000006069000000000000000000000100000000000000000000000000000000000000000000001ffc1c58000000000000278400 msk) :
    Result.Keeps msk s0 (execWearStoreTimer s) := by
  unfold execWearStoreTimer
  repeat' first
    | with_reducible assumption | exact Sub.of hm rfl | exact Has.of hm rfl | intro _
    | (with_reducible first
        | refine Result.next_keeps ?_ | apply State.queuePass_keeps | apply State.foldl_keeps | apply State.foldl_keeps_fst)

theorem State.nextChunk_keeps {msk : Nat} {s0 : State} {s : State} {p : StorePass} (hk0 : State.Keeps msk s0 s) (hm : Sub 0x400 msk) :
    State.Keeps msk s0 (State.nextChunk s p) := by
  unfold State.nextChunk
  repeat' first
    | with_reducible assumption | exact Sub.of hm rfl | exact Has.of hm rfl | intro _
    | (extract_lets +onlyGivenNames x; first | (refine (have hx : State.Keeps msk s0 x := ?_; ?_); (on_goal 2 => clear_value x); (on_goal 1 => subst x)) | clear_value x)
    | (with_reducible first
        | apply State.onLamp_keeps | apply State.setPass_keeps | refine State.ite_keeps ?_ ?_)
    | split
    | (with_reducible first
        | fail_if_no_progress refine State.mk_keeps ?_ ?_ | fail_if_no_progress refine Io.eraseRing_keeps ?_ ?_)

theorem execChunkWriteDone_keeps {msk : Nat} {s0 : State} {bus : Nat} {ok : Bool} {s : State} (hk0 : State.Keeps msk s0 s) (hm : Sub 0x1000006069000000000000000000000300100000000000000000000000000000000000000000001ffc1c58000000000000278400 msk) :
    Result.Keeps msk s0 (execChunkWriteDone bus ok s) := by
  unfold execChunkWriteDone
  repeat' first
    | with_reducible assumption | exact Sub.of hm rfl | exact Has.of hm rfl | intro _ | exact RegOf.LBD_WEAR_WRITES
    | (extract_lets +onlyGivenNames x; first | (refine (have hx : State.Keeps msk s0 x := ?_; ?_); (on_goal 2 => clear_value x); (on_goal 1 => subst x)) | (refine (have hx : State.Keeps msk s0 x.1 := ?_; ?_); (on_goal 2 => clear_value x); (on_goal 1 => subst x)) | clear_value x)
    | (with_reducible first
        | refine Result.next_keeps ?_ | apply State.boardReads_keeps | apply State.nextChunk_keeps | apply Io.bumpF_keeps
        | apply State.bumpF_keeps | apply State.runPass_keeps | apply State.setPass_keeps | apply State.boardWrite_keeps
        | apply State.busError_keeps | apply State.on_keeps | apply Io.fireObj_keeps | apply State.on_keeps | refine Result.ite_keeps ?_ ?_
        | refine State.ite_keeps ?_ ?_ | refine Io.ite_keeps ?_ ?_)
    | split
    | (with_reducible first
        | refine State.Keeps.fst (by assumption) ?_ | exact State.Keeps.io (by assumption) | fail_if_no_progress refine State.Keeps.io ?_
        | fail_if_no_progress refine State.mk_keeps ?_ ?_ | fail_if_no_progress refine Io.mk_keeps ?_)

theorem execStorePassDone_keeps {msk : Nat} {s0 : State} {bus : Nat} {s : State} (hk0 : State.Keeps msk s0 s) (hm : Sub 0x1000006069000000840000000000000101000000000000000000000000000000000000000000001ffc1c58000000000000278440 msk) :
    Result.Keeps msk s0 (execStorePassDone bus s) := by
  unfold execStorePassDone
  repeat' first
    | with_reducible assumption | exact Sub.of hm rfl | exact Has.of hm rfl | intro _ | exact RegOf.LBD_BOARD_STAT _
    | (extract_lets +onlyGivenNames x; first | (refine (have hx : State.Keeps msk s0 x := ?_; ?_); (on_goal 2 => clear_value x); (on_goal 1 => subst x)) | (refine (have hx : State.Keeps msk s0 x.1 := ?_; ?_); (on_goal 2 => clear_value x); (on_goal 1 => subst x)) | clear_value x)
    | (with_reducible first
        | refine Result.next_keeps ?_ | apply State.writeFaultCopy_keeps | apply State.onLamp_keeps | apply State.queueRecord_keeps
        | apply State.boardState_keeps | apply Io.setF_keeps | apply State.setF_keeps | apply State.setBoard_keeps | apply State.on_keeps
        | apply Io.fireObj_keeps | apply State.runPass_keeps | apply State.on_keeps | refine Result.ite_keeps ?_ ?_
        | refine State.ite_keeps ?_ ?_ | refine Io.ite_keeps ?_ ?_)
    | split
    | (with_reducible first
        | refine State.Keeps.fst (by assumption) ?_ | exact State.Keeps.io (by assumption) | fail_if_no_progress refine State.Keeps.io ?_
        | fail_if_no_progress refine State.mk_keeps ?_ ?_ | fail_if_no_progress refine Io.mk_keeps ?_
        | fail_if_no_progress refine Io.eraseRing_keeps ?_ ?_)

theorem execFaultCopyWrite_keeps {msk : Nat} {s0 : State} {board : Nat} {s : State} (hk0 : State.Keeps msk s0 s) (hm : Sub 0x1000006069000000000000000000000000000000000000000000000000000000000000000000001ffc1c58000000000000278400 msk) :
    Result.Keeps msk s0 (execFaultCopyWrite board s) := by
  unfold execFaultCopyWrite
  repeat' first
    | with_reducible assumption | exact Sub.of hm rfl | exact Has.of hm rfl | intro _
    | (with_reducible first
        | refine Result.next_keeps ?_ | apply State.writeFaultCopy_keeps | refine Result.ite_keeps ?_ ?_ | refine State.ite_keeps ?_ ?_)
    | split

theorem State.releaseBoard_keeps {msk : Nat} {s0 : State} {s : State} {b : Nat} (hk0 : State.Keeps msk s0 s) (hm : Sub 0x1000006069000000000000000000000100000000000000000000000000000000000000000000001ffc1c58000000000000278400 msk) :
    State.Keeps msk s0 (State.releaseBoard s b) := by
  unfold State.releaseBoard
  repeat' first
    | with_reducible assumption | exact Sub.of hm rfl | exact Has.of hm rfl | intro _
    | (extract_lets +onlyGivenNames x; first | (refine (have hx : State.Keeps msk s0 x := ?_; ?_); (on_goal 2 => clear_value x); (on_goal 1 => subst x)) | clear_value x)
    | (with_reducible first
        | apply State.setBoard_keeps | apply State.queuePass_keeps | refine State.ite_keeps ?_ ?_)
    | split | with_reducible fail_if_no_progress refine State.mk_keeps ?_ ?_

theorem State.shutdownPasses_keeps {msk : Nat} {s0 : State} {s : State} (hk0 : State.Keeps msk s0 s) (hm : Sub 0x1000006069000000000000000000000100000000000000000000000060000000000000000000001ffc1c58000000000000278400 msk) :
    State.Keeps msk s0 (State.shutdownPasses s) := by
  unfold State.shutdownPasses
  repeat' first
    | with_reducible assumption | exact Sub.of hm rfl | exact Has.of hm rfl | intro _
    | (extract_lets +onlyGivenNames x; first | (refine (have hx : State.Keeps msk s0 x := ?_; ?_); (on_goal 2 => clear_value x); (on_goal 1 => subst x)) | (refine (have hx : State.Keeps msk s0 x.1 := ?_; ?_); (on_goal 2 => clear_value x); (on_goal 1 => subst x)) | clear_value x)
    | (with_reducible first
        | apply State.onLamp_keeps | apply State.queuePass_keeps | apply State.foldl_keeps | apply State.foldl_keeps_fst
        | refine State.ite_keeps ?_ ?_)
    | split
    | (with_reducible first
        | refine State.Keeps.fst (by assumption) ?_ | fail_if_no_progress refine State.mk_keeps ?_ ?_)

end Sys2Proof.Machine
end

