-- ==== Sys2Proof/Laws/KeepsDriver.lean ====
section
/-! SUPPORT. What the operations of Machine/Driver.lean keep. -/

set_option linter.unusedTactic false
set_option linter.unreachableTactic false
set_option linter.tactic.unusedName false

set_option Elab.async false

namespace Sys2Proof.Machine

theorem State.mapChannels_keeps {msk : Nat} {s0 : State} {s : State} {b : Nat} {f : Channel → Channel} (hk0 : State.Keeps msk s0 s) (hm : Sub 0x400 msk) :
    State.Keeps msk s0 (State.mapChannels s b f) := by
  unfold State.mapChannels
  repeat' first
    | with_reducible assumption | exact Sub.of hm rfl | exact Has.of hm rfl | intro _
    | (extract_lets +onlyGivenNames x; first | (refine (have hx : State.Keeps msk s0 x := ?_; ?_); (on_goal 2 => clear_value x); (on_goal 1 => subst x)) | clear_value x)
    | with_reducible apply State.setBoard_keeps | split
    | (with_reducible first
        | refine State.Keeps.fst (by assumption) ?_ | fail_if_no_progress refine State.mk_keeps ?_ ?_)

theorem State.setChannel_keeps {msk : Nat} {s0 : State} {s : State} {c : Channel} (hk0 : State.Keeps msk s0 s) (hm : Sub 0x400 msk) :
    State.Keeps msk s0 (State.setChannel s c) := by
  unfold State.setChannel
  repeat' first
    | with_reducible assumption | exact Sub.of hm rfl | exact Has.of hm rfl | intro _
    | (with_reducible first
        | apply State.mapChannels_keeps | refine State.ite_keeps ?_ ?_)
    | split

theorem State.enterChannel_keeps {msk : Nat} {s0 : State} {s : State} {c : Channel} {st : Nat} (hk0 : State.Keeps msk s0 s) (hm : Sub 0x10000060690000000000000000000000e6c00000000000000000000000000000000000000000001ffc1c58000000000000278400 msk) :
    State.Keeps msk s0 (State.enterChannel s c st) := by
  unfold State.enterChannel
  repeat' first
    | with_reducible assumption | exact Sub.of hm rfl | exact Has.of hm rfl | intro _
    | (extract_lets +onlyGivenNames x; first | (refine (have hx : State.Keeps msk s0 x := ?_; ?_); (on_goal 2 => clear_value x); (on_goal 1 => subst x)) | (refine (have hx : State.Keeps msk s0 x.1 := ?_; ?_); (on_goal 2 => clear_value x); (on_goal 1 => subst x)) | clear_value x)
    | (with_reducible first
        | apply State.setChannel_keeps | apply State.setBoard_keeps | apply State.onLamp_keeps | apply State.faultLog_keeps
        | apply State.on_keeps | apply Io.fireObj_keeps | apply State.reportBoard_keeps | apply State.on_keeps
        | refine State.ite_keeps ?_ ?_ | refine Io.ite_keeps ?_ ?_)
    | split
    | (with_reducible first
        | refine State.Keeps.fst (by assumption) ?_ | exact State.Keeps.io (by assumption) | fail_if_no_progress refine State.Keeps.io ?_
        | fail_if_no_progress refine State.mk_keeps ?_ ?_ | fail_if_no_progress refine Io.mk_keeps ?_)

theorem State.checkUnverified_keeps {msk : Nat} {s0 : State} {s : State} {c : Channel} (hk0 : State.Keeps msk s0 s) (hm : Sub 0x10000060690000000000000000000000e0400000000000000000000000000000000000000000001ffc1c58000000000000278400 msk) :
    State.Keeps msk s0 (State.checkUnverified s c) := by
  unfold State.checkUnverified
  repeat' first
    | with_reducible assumption | exact Sub.of hm rfl | exact Has.of hm rfl | intro _
    | (extract_lets +onlyGivenNames x; first | (refine (have hx : State.Keeps msk s0 x := ?_; ?_); (on_goal 2 => clear_value x); (on_goal 1 => subst x)) | (refine (have hx : State.Keeps msk s0 x.1 := ?_; ?_); (on_goal 2 => clear_value x); (on_goal 1 => subst x)) | clear_value x)
    | (with_reducible first
        | apply State.setChannel_keeps | apply State.faultLog_keeps | apply State.onLamp_keeps | apply State.on_keeps
        | apply Io.fireObj_keeps | apply State.on_keeps | refine State.ite_keeps ?_ ?_ | refine Io.ite_keeps ?_ ?_)
    | split
    | (with_reducible first
        | exact State.Keeps.io (by assumption) | fail_if_no_progress refine State.Keeps.io ?_
        | fail_if_no_progress refine State.mk_keeps ?_ ?_ | fail_if_no_progress refine Io.mk_keeps ?_)

theorem State.classifyFrame_keeps {msk : Nat} {s0 : State} {s : State} {w frame : Nat} (hk0 : State.Keeps msk s0 s) (hm : Sub 0x100000606900000000000000006c8000e6c00000000000000000000000000000000000000000001ffc1c58000000000000279400 msk) :
    State.Keeps msk s0 (State.classifyFrame s w frame) := by
  unfold State.classifyFrame
  repeat' first
    | with_reducible assumption | exact Sub.of hm rfl | exact Has.of hm rfl | intro _
    | (extract_lets +onlyGivenNames x; first | (refine (have hx : State.Keeps msk s0 x := ?_; ?_); (on_goal 2 => clear_value x); (on_goal 1 => subst x)) | (refine (have hx : State.Keeps msk s0 x.1 := ?_; ?_); (on_goal 2 => clear_value x); (on_goal 1 => subst x)) | clear_value x)
    | (with_reducible first
        | apply State.measured_keeps | apply State.checkUnverified_keeps | apply State.reportBoard_keeps | apply State.foldl_keeps
        | apply State.foldl_keeps_fst | refine State.ite_keeps ?_ ?_)
    | split | with_reducible fail_if_no_progress refine State.mk_keeps ?_ ?_

theorem execLampPipelineSlot_keeps {msk : Nat} {s0 : State} {region slot : Nat} {late : Bool} {s : State} (hk0 : State.Keeps msk s0 s) (hm : Sub 0x100000606900000000000000006c8004e6c00000001c01b00000000000000040002000000000001ffc1c58032000040000279681 msk) :
    Result.Keeps msk s0 (execLampPipelineSlot region slot late s) := by
  unfold execLampPipelineSlot
  repeat' first
    | with_reducible assumption | exact Sub.of hm rfl | exact Has.of hm rfl | intro _
    | (extract_lets +onlyGivenNames x; first | (refine (have hx : State.Keeps msk s0 x := ?_; ?_); (on_goal 2 => clear_value x); (on_goal 1 => subst x)) | (refine (have hx : State.Keeps msk s0 x.1 := ?_; ?_); (on_goal 2 => clear_value x); (on_goal 1 => subst x)) | clear_value x)
    | (with_reducible first
        | refine Result.next_keeps ?_ | apply State.lampSlot_keeps | apply State.classifyFrame_keeps | refine Result.ite_keeps ?_ ?_
        | refine State.ite_keeps ?_ ?_ | refine Io.ite_keeps ?_ ?_)
    | split
    | (with_reducible first
        | refine State.Keeps.fst (by assumption) ?_ | exact State.Keeps.io (by assumption) | fail_if_no_progress refine State.Keeps.io ?_
        | fail_if_no_progress refine State.mk_keeps ?_ ?_ | fail_if_no_progress refine Io.mk_keeps ?_)

theorem State.applyReadout_keeps {msk : Nat} {s0 : State} {s : State} {c : Channel} {op sh : Bool} (hk0 : State.Keeps msk s0 s) (hm : Sub 0x10000060690000000000000000000000e6c00000000000000000000000000000000000000000001ffc1c58000000000000278400 msk) :
    State.Keeps msk s0 (State.applyReadout s c op sh) := by
  unfold State.applyReadout
  repeat' first
    | with_reducible assumption | exact Sub.of hm rfl | exact Has.of hm rfl | intro _
    | (extract_lets +onlyGivenNames x; first | (refine (have hx : State.Keeps msk s0 x := ?_; ?_); (on_goal 2 => clear_value x); (on_goal 1 => subst x)) | (refine (have hx : State.Keeps msk s0 x.1 := ?_; ?_); (on_goal 2 => clear_value x); (on_goal 1 => subst x)) | clear_value x)
    | (with_reducible first
        | apply State.setChannel_keeps | apply State.enterChannel_keeps | refine State.ite_keeps ?_ ?_)
    | split | with_reducible fail_if_no_progress refine State.mk_keeps ?_ ?_

theorem State.readout_keeps {msk : Nat} {s0 : State} {s : State} {g j : Nat} {status : List Nat} {lost : Bool} (hk0 : State.Keeps msk s0 s) (hm : Sub 0x100000606900000000000000006c8008e6c00000000000000000000000000000000000000000001ffc1c58000000000000279400 msk) :
    State.Keeps msk s0 (State.readout s g j status lost) := by
  unfold State.readout
  repeat' first
    | with_reducible assumption | exact Sub.of hm rfl | exact Has.of hm rfl | intro _ | exact RegOf.LBD_READOUTS_DISCARDED _
    | (extract_lets +onlyGivenNames x; first | (refine (have hx : State.Keeps msk s0 x := ?_; ?_); (on_goal 2 => clear_value x); (on_goal 1 => subst x)) | (refine (have hx : State.Keeps msk s0 x.1 := ?_; ?_); (on_goal 2 => clear_value x); (on_goal 1 => subst x)) | clear_value x)
    | (with_reducible first
        | apply Io.bumpF_keeps | apply State.bumpF_keeps | apply State.measured_keeps | apply State.setChannel_keeps
        | apply State.applyReadout_keeps | apply State.reportBoard_keeps | apply State.foldl_keeps | apply State.foldl_keeps_fst
        | refine State.ite_keeps ?_ ?_)
    | split
    | (with_reducible first
        | refine State.Keeps.fst (by assumption) ?_ | fail_if_no_progress refine State.mk_keeps ?_ ?_)

theorem State.writeConfig_keeps {msk : Nat} {s0 : State} {s : State} {g : Nat} (hk0 : State.Keeps msk s0 s) (hm : Sub 0x200000 msk) :
    State.Keeps msk s0 (State.writeConfig s g) := by
  unfold State.writeConfig
  repeat' first
    | with_reducible assumption | exact Sub.of hm rfl | exact Has.of hm rfl | intro _
    | (with_reducible first
        | apply Io.emit_keeps | apply State.emit_keeps)

theorem State.loadRowGroup_keeps {msk : Nat} {s0 : State} {s : State} {g frame r : Nat} {bad : Bool} (hk0 : State.Keeps msk s0 s) (hm : Sub 0x1000006069000000000000000000000000000480080000000000000000000000000000000000001ffc1c58000000000000278400 msk) :
    State.Keeps msk s0 (State.loadRowGroup s g frame r bad) := by
  unfold State.loadRowGroup
  repeat' first
    | with_reducible assumption | exact Sub.of hm rfl | exact Has.of hm rfl | intro _ | exact RegOf.DRV_FETCH_FAIL _ _
    | exact RegOf.DRV_GROUP_STAT _ _ | exact RegOf.SCN_RANGE_ERR
    | (extract_lets +onlyGivenNames x; first | (refine (have hx : State.Keeps msk s0 x := ?_; ?_); (on_goal 2 => clear_value x); (on_goal 1 => subst x)) | (refine (have hx : State.Keeps msk s0 x.1 := ?_; ?_); (on_goal 2 => clear_value x); (on_goal 1 => subst x)) | clear_value x)
    | (with_reducible first
        | apply Io.bumpF_keeps | apply State.bumpF_keeps | apply State.on_keeps | apply Io.fireObj_keeps | apply Io.fireOnce_keeps
        | apply State.unitOps_keeps | apply Io.emit_keeps | apply State.emit_keeps | apply Io.setF_keeps | apply State.setF_keeps
        | apply State.setGroup_keeps | apply State.onLamp_keeps | apply State.foldl_keeps | apply State.foldl_keeps_fst
        | apply Io.foldl_keeps | apply Io.foldl_keeps_fst | apply State.on_keeps | refine State.ite_keeps ?_ ?_ | refine Io.ite_keeps ?_ ?_)
    | split
    | (with_reducible first
        | exact State.Keeps.io (by assumption) | fail_if_no_progress refine State.Keeps.io ?_
        | fail_if_no_progress refine State.mk_keeps ?_ ?_ | fail_if_no_progress refine Io.mk_keeps ?_)

theorem State.startLoad_keeps {msk : Nat} {s0 : State} {s : State} {g frame : Nat} (hk0 : State.Keeps msk s0 s) (hm : Sub 0x1000006069000000000000000000000000000080000000000000000000000000000000000000001ffc1c58000000000000278400 msk) :
    State.Keeps msk s0 (State.startLoad s g frame) := by
  unfold State.startLoad
  repeat' first
    | with_reducible assumption | exact Sub.of hm rfl | exact Has.of hm rfl | intro _ | exact RegOf.DRV_GROUP_STAT _ _
    | (extract_lets +onlyGivenNames x; first | (refine (have hx : State.Keeps msk s0 x := ?_; ?_); (on_goal 2 => clear_value x); (on_goal 1 => subst x)) | (refine (have hx : State.Keeps msk s0 x.1 := ?_; ?_); (on_goal 2 => clear_value x); (on_goal 1 => subst x)) | clear_value x)
    | (with_reducible first
        | apply Io.setF_keeps | apply State.setF_keeps | apply State.on_keeps | apply Io.fireObj_keeps | apply State.writeConfig_keeps
        | apply State.setGroup_keeps | apply Io.emit_keeps | apply State.emit_keeps | apply State.on_keeps | refine State.ite_keeps ?_ ?_
        | refine Io.ite_keeps ?_ ?_)
    | split
    | (with_reducible first
        | exact State.Keeps.io (by assumption) | fail_if_no_progress refine State.Keeps.io ?_
        | fail_if_no_progress refine State.mk_keeps ?_ ?_ | fail_if_no_progress refine Io.mk_keeps ?_)

theorem State.endLoad_keeps {msk : Nat} {s0 : State} {s : State} {g frame : Nat} {status : List Nat} (hk0 : State.Keeps msk s0 s) (hm : Sub 0x100000606900000000000000006c8008e6c02180020000000000000000000000000000000000001ffc1c58000000000000279400 msk) :
    State.Keeps msk s0 (State.endLoad s g frame status) := by
  unfold State.endLoad
  repeat' first
    | with_reducible assumption | exact Sub.of hm rfl | exact Has.of hm rfl | intro _ | exact RegOf.DRV_GROUP_STAT _ _
    | exact RegOf.DRV_LOADS _ _ | exact RegOf.DRV_STATUS_READS _ _ | exact RegOf.SCN_STAT
    | (extract_lets +onlyGivenNames x; first | (refine (have hx : State.Keeps msk s0 x := ?_; ?_); (on_goal 2 => clear_value x); (on_goal 1 => subst x)) | (refine (have hx : State.Keeps msk s0 x.1 := ?_; ?_); (on_goal 2 => clear_value x); (on_goal 1 => subst x)) | clear_value x)
    | (with_reducible first
        | apply Io.emit_keeps | apply State.emit_keeps | apply Io.bumpF_keeps | apply State.bumpF_keeps | apply State.readout_keeps
        | apply State.writeConfig_keeps | apply Io.setF_keeps | apply State.setF_keeps | refine State.ite_keeps ?_ ?_)
    | split

theorem State.frameWrites_keeps {msk : Nat} {s0 : State} {s : State} {i : LoadInput} {r : Nat} (hk0 : State.Keeps msk s0 s) (hm : Sub 0x40000000000000000000000000000000000000000000000000000000000000 msk) :
    State.Keeps msk s0 (State.frameWrites s i r) := by
  unfold State.frameWrites
  repeat' first
    | with_reducible assumption | exact Sub.of hm rfl | exact Has.of hm rfl | intro _ | exact RegOf.SCN_FRAME_ADDR
    | (with_reducible first
        | apply State.on_keeps | apply Io.setReg_keeps | apply State.foldl_keeps | apply State.foldl_keeps_fst | apply Io.foldl_keeps
        | apply Io.foldl_keeps_fst | apply State.on_keeps | exact State.Keeps.io (by assumption)
        | fail_if_no_progress refine State.Keeps.io ?_)

theorem State.loadSlot_keeps {msk : Nat} {s0 : State} {s : State} {g frame first count : Nat} {i : LoadInput} (hk0 : State.Keeps msk s0 s) (hm : Sub 0x100000606900000000000000006c8008e6c02d800a4000000000000000000000000000000000001ffc1c58000000000000279400 msk) :
    State.Keeps msk s0 (State.loadSlot s g frame first count i) := by
  unfold State.loadSlot
  repeat' first
    | with_reducible assumption | exact Sub.of hm rfl | exact Has.of hm rfl | intro _ | exact RegOf.DRV_RB_ERR _ _
    | (extract_lets +onlyGivenNames x; first | (refine (have hx : State.Keeps msk s0 x := ?_; ?_); (on_goal 2 => clear_value x); (on_goal 1 => subst x)) | (refine (have hx : State.Keeps msk s0 x.1 := ?_; ?_); (on_goal 2 => clear_value x); (on_goal 1 => subst x)) | clear_value x)
    | (with_reducible first
        | apply State.startLoad_keeps | apply State.frameWrites_keeps | apply State.loadRowGroup_keeps | apply State.setGroup_keeps
        | apply Io.bumpF_keeps | apply State.bumpF_keeps | apply State.on_keeps | apply Io.fireOnce_keeps | apply State.endLoad_keeps
        | apply State.foldl_keeps | apply State.foldl_keeps_fst | apply State.on_keeps | refine State.ite_keeps ?_ ?_)
    | split
    | (with_reducible first
        | exact State.Keeps.io (by assumption) | fail_if_no_progress refine State.Keeps.io ?_
        | fail_if_no_progress refine State.mk_keeps ?_ ?_)

theorem execDriverLoadSlot_keeps {msk : Nat} {s0 : State} {region slot : Nat} {late : Bool} {input : LoadInput} {s : State} (hk0 : State.Keeps msk s0 s) (hm : Sub 0x100000606900000000000000006c8008e6c02d800a4400000000000000000040002000000000001ffc1c58032000040000279601 msk) :
    Result.Keeps msk s0 (execDriverLoadSlot region slot late input s) := by
  unfold execDriverLoadSlot
  repeat' first
    | with_reducible assumption | exact Sub.of hm rfl | exact Has.of hm rfl | intro _
    | (extract_lets +onlyGivenNames x; first | (refine (have hx : State.Keeps msk s0 x := ?_; ?_); (on_goal 2 => clear_value x); (on_goal 1 => subst x)) | (refine (have hx : State.Keeps msk s0 x.1 := ?_; ?_); (on_goal 2 => clear_value x); (on_goal 1 => subst x)) | clear_value x)
    | (with_reducible first
        | refine Result.next_keeps ?_ | apply State.startSlot_keeps | apply State.setGroup_keeps | apply State.loadSlot_keeps
        | refine Result.ite_keeps ?_ ?_ | refine State.ite_keeps ?_ ?_ | refine Io.ite_keeps ?_ ?_)
    | split
    | (with_reducible first
        | refine State.Keeps.fst (by assumption) ?_ | exact State.Keeps.io (by assumption) | fail_if_no_progress refine State.Keeps.io ?_
        | fail_if_no_progress refine State.mk_keeps ?_ ?_ | fail_if_no_progress refine Io.mk_keeps ?_)

theorem State.teStart_keeps {msk : Nat} {s0 : State} {s : State} {g : Nat} (hk0 : State.Keeps msk s0 s) (hm : Sub 0x100000606900000000000000006c8008e6c02d800a4000000000000000000000000000000000001ffc1c58000000000000279400 msk) :
    State.Keeps msk s0 (State.teStart s g) := by
  unfold State.teStart
  repeat' first
    | with_reducible assumption | exact Sub.of hm rfl | exact Has.of hm rfl | intro _
    | (extract_lets +onlyGivenNames x; first | (refine (have hx : State.Keeps msk s0 x := ?_; ?_); (on_goal 2 => clear_value x); (on_goal 1 => subst x)) | clear_value x)
    | (with_reducible first
        | apply State.setGroup_keeps | apply State.loadSlot_keeps)
    | split
    | (with_reducible first
        | refine State.Keeps.fst (by assumption) ?_ | fail_if_no_progress refine State.mk_keeps ?_ ?_)

theorem execTeEdge_keeps {msk : Nat} {s0 : State} {region : Nat} {rising : Bool} {s : State} (hk0 : State.Keeps msk s0 s) (hm : Sub 0x100000606900000000000000006c8008e6c02da80a4000000000000000000000000000000000001ffc1c58000000000000279400 msk) :
    Result.Keeps msk s0 (execTeEdge region rising s) := by
  unfold execTeEdge
  repeat' first
    | with_reducible assumption | exact Sub.of hm rfl | exact Has.of hm rfl | intro _ | exact RegOf.DRV_TE_OVERRUN _
    | exact RegOf.DRV_TE_STAT _
    | (extract_lets +onlyGivenNames x; first | (refine (have hx : State.Keeps msk s0 x := ?_; ?_); (on_goal 2 => clear_value x); (on_goal 1 => subst x)) | (refine (have hx : State.Keeps msk s0 x.1 := ?_; ?_); (on_goal 2 => clear_value x); (on_goal 1 => subst x)) | clear_value x)
    | (with_reducible first
        | refine Result.next_keeps ?_ | apply Io.setF_keeps | apply State.setF_keeps | apply State.teStart_keeps | apply Io.bumpF_keeps
        | apply State.bumpF_keeps | apply State.on_keeps | apply Io.fireObj_keeps | apply State.foldl_keeps | apply State.foldl_keeps_fst
        | apply Io.foldl_keeps | apply Io.foldl_keeps_fst | apply State.on_keeps | refine Result.ite_keeps ?_ ?_
        | refine State.ite_keeps ?_ ?_ | refine Io.ite_keeps ?_ ?_)
    | split
    | (with_reducible first
        | exact State.Keeps.io (by assumption) | fail_if_no_progress refine State.Keeps.io ?_)

theorem execTeTimeout_keeps {msk : Nat} {s0 : State} {group : Nat} {s : State} (hk0 : State.Keeps msk s0 s) (hm : Sub 0x100000606900000000000000006c8008e6c02d900a4000000000000000000000000000000000001ffc1c58000000000000279400 msk) :
    Result.Keeps msk s0 (execTeTimeout group s) := by
  unfold execTeTimeout
  repeat' first
    | with_reducible assumption | exact Sub.of hm rfl | exact Has.of hm rfl | intro _ | exact RegOf.DRV_TE_MISSING _
    | (with_reducible first
        | refine Result.next_keeps ?_ | apply State.teStart_keeps | apply Io.bumpF_keeps | apply State.bumpF_keeps | apply State.on_keeps
        | apply Io.fireObj_keeps | apply State.on_keeps | refine Result.ite_keeps ?_ ?_ | refine State.ite_keeps ?_ ?_
        | refine Io.ite_keeps ?_ ?_)
    | split
    | (with_reducible first
        | exact State.Keeps.io (by assumption) | fail_if_no_progress refine State.Keeps.io ?_)

theorem State.cutLoad_keeps {msk : Nat} {s0 : State} {s : State} {g t : Nat} {cut : Option Nat} (hk0 : State.Keeps msk s0 s) (hm : Sub 0x100000606900000000000000006c8008e6c00280000000000000000000000000000000000000001ffc1c58010000000000279400 msk) :
    State.Keeps msk s0 (State.cutLoad s g t cut) := by
  unfold State.cutLoad
  repeat' first
    | with_reducible assumption | exact Sub.of hm rfl | exact Has.of hm rfl | intro _ | exact RegOf.DRV_CUTS _ _
    | exact RegOf.DRV_GROUP_STAT _ _ | exact RegOf.TCK_CUT_COUNT _
    | (extract_lets +onlyGivenNames x; first | (refine (have hx : State.Keeps msk s0 x := ?_; ?_); (on_goal 2 => clear_value x); (on_goal 1 => subst x)) | (refine (have hx : State.Keeps msk s0 x.1 := ?_; ?_); (on_goal 2 => clear_value x); (on_goal 1 => subst x)) | clear_value x)
    | (with_reducible first
        | apply State.on_keeps | apply Io.bumpF_keeps | apply State.bumpF_keeps | apply Io.fireObj_keeps | apply State.setGroup_keeps
        | apply Io.setF_keeps | apply State.setF_keeps | apply State.readout_keeps | apply State.onLamp_keeps | apply State.foldl_keeps
        | apply State.foldl_keeps_fst | apply Io.foldl_keeps | apply Io.foldl_keeps_fst | apply State.on_keeps
        | refine State.ite_keeps ?_ ?_ | refine Io.ite_keeps ?_ ?_)
    | split
    | (with_reducible first
        | exact State.Keeps.io (by assumption) | fail_if_no_progress refine State.Keeps.io ?_
        | fail_if_no_progress refine State.mk_keeps ?_ ?_ | fail_if_no_progress refine Io.mk_keeps ?_)

theorem State.latchCrc_keeps {msk : Nat} {s0 : State} {s : State} {t : Nat} (hk0 : State.Keeps msk s0 s) (hm : Sub 0x1000006069000000000000000000000000000000c00000000000000000000000000000000000001ffc1c58000000000000278000 msk) :
    State.Keeps msk s0 (State.latchCrc s t) := by
  unfold State.latchCrc
  repeat' first
    | with_reducible assumption | exact Sub.of hm rfl | exact Has.of hm rfl | intro _ | exact RegOf.SCN_CRC_TICK _
    | exact RegOf.SCN_CRC_VAL _
    | (extract_lets +onlyGivenNames x; first | (refine (have hx : State.Keeps msk s0 x := ?_; ?_); (on_goal 2 => clear_value x); (on_goal 1 => subst x)) | (refine (have hx : State.Keeps msk s0 x.1 := ?_; ?_); (on_goal 2 => clear_value x); (on_goal 1 => subst x)) | clear_value x)
    | (with_reducible first
        | apply Io.setF_keeps | apply State.setF_keeps | apply State.on_keeps | apply Io.fireOnce_keeps | apply State.foldl_keeps
        | apply State.foldl_keeps_fst | apply Io.foldl_keeps | apply Io.foldl_keeps_fst | apply State.on_keeps
        | refine State.ite_keeps ?_ ?_ | refine Io.ite_keeps ?_ ?_)
    | split
    | (with_reducible first
        | refine State.Keeps.fst (by assumption) ?_ | exact State.Keeps.io (by assumption) | fail_if_no_progress refine State.Keeps.io ?_
        | fail_if_no_progress refine State.mk_keeps ?_ ?_ | fail_if_no_progress refine Io.mk_keeps ?_)

theorem State.syncGroup_keeps {msk : Nat} {s0 : State} {s : State} {g t : Nat} (hk0 : State.Keeps msk s0 s) (hm : Sub 0x100000606900000000000000006c8008e6c00280000400000000000000000040002000000000001ffc1c58032000040000279601 msk) :
    State.Keeps msk s0 (State.syncGroup s g t) := by
  unfold State.syncGroup
  repeat' first
    | with_reducible assumption | exact Sub.of hm rfl | exact Has.of hm rfl | intro _
    | (extract_lets +onlyGivenNames x; first | (refine (have hx : State.Keeps msk s0 x := ?_; ?_); (on_goal 2 => clear_value x); (on_goal 1 => subst x)) | (refine (have hx : State.Keeps msk s0 x.1 := ?_; ?_); (on_goal 2 => clear_value x); (on_goal 1 => subst x)) | clear_value x)
    | (with_reducible first
        | apply State.cutLane_keeps | apply State.startKind_keeps | apply State.cutLoad_keeps | apply Io.emit_keeps | apply State.emit_keeps)

theorem State.broadcastSync_keeps {msk : Nat} {s0 : State} {s : State} (hk0 : State.Keeps msk s0 s) (hm : Sub 0x10010460690042fc05040000006c8008e6c00280c4060001c000004003800040002000000000001ffc1c5803200007fc80ffffff msk) :
    State.Keeps msk s0 (State.broadcastSync s) := by
  unfold State.broadcastSync
  repeat' first
    | with_reducible assumption | exact Sub.of hm rfl | exact Has.of hm rfl | intro _ | exact RegOf.DRV_GROUP_STAT _ _
    | exact RegOf.DRV_SYNC_COUNT
    | (extract_lets +onlyGivenNames x; first | (refine (have hx : State.Keeps msk s0 x := ?_; ?_); (on_goal 2 => clear_value x); (on_goal 1 => subst x)) | (refine (have hx : State.Keeps msk s0 x.1 := ?_; ?_); (on_goal 2 => clear_value x); (on_goal 1 => subst x)) | clear_value x)
    | (with_reducible first
        | apply State.syncGroup_keeps | apply State.on_keeps | apply Io.fireIn_keeps | apply Io.bumpF_keeps | apply State.bumpF_keeps
        | apply State.onVideo_keeps | apply State.latchCrc_keeps | apply State.restartSync_keeps | apply Io.setF_keeps
        | apply State.setF_keeps | apply State.foldl_keeps | apply State.foldl_keeps_fst | apply Io.foldl_keeps | apply Io.foldl_keeps_fst
        | apply State.on_keeps | refine State.ite_keeps ?_ ?_ | refine Io.ite_keeps ?_ ?_)
    | split
    | (with_reducible first
        | exact State.Keeps.io (by assumption) | fail_if_no_progress refine State.Keeps.io ?_
        | fail_if_no_progress refine State.mk_keeps ?_ ?_ | fail_if_no_progress refine Io.mk_keeps ?_)

theorem execBroadcastSync_keeps {msk : Nat} {s0 : State} {s : State} (hk0 : State.Keeps msk s0 s) (hm : Sub 0x10010460690042fc05040000006c8008e6c00280c4060001c000004003800040002000000000001ffc1c5803200007fc80ffffff msk) :
    Result.Keeps msk s0 (execBroadcastSync s) := by
  unfold execBroadcastSync
  repeat' first
    | with_reducible assumption | exact Sub.of hm rfl | exact Has.of hm rfl | intro _
    | (with_reducible first
        | refine Result.next_keeps ?_ | apply State.broadcastSync_keeps)

theorem State.greyWindow_keeps {msk : Nat} {s0 : State} {s : State} {n i : Nat} (hk0 : State.Keeps msk s0 s) (hm : Sub 0x1000006069000000000000000000000000080000000400000000000000000040002000000000001ffc1c58032000040000278601 msk) :
    State.Keeps msk s0 (State.greyWindow s n i) := by
  unfold State.greyWindow
  repeat' first
    | with_reducible assumption | exact Sub.of hm rfl | exact Has.of hm rfl | intro _ | exact RegOf.LBD_GREY_PULSES
    | (extract_lets +onlyGivenNames x; first | (refine (have hx : State.Keeps msk s0 x := ?_; ?_); (on_goal 2 => clear_value x); (on_goal 1 => subst x)) | (refine (have hx : State.Keeps msk s0 x.1 := ?_; ?_); (on_goal 2 => clear_value x); (on_goal 1 => subst x)) | clear_value x)
    | (with_reducible first
        | apply State.startSlot_keeps | apply Io.take_keeps | apply State.onLamp_keeps | apply Io.bumpF_keeps | apply State.bumpF_keeps
        | apply State.foldl_keeps | apply State.foldl_keeps_fst | apply Io.foldl_keeps | apply Io.foldl_keeps_fst
        | refine State.ite_keeps ?_ ?_ | refine Io.ite_keeps ?_ ?_)
    | split
    | (with_reducible first
        | refine State.Keeps.fst (by assumption) ?_ | exact State.Keeps.io (by assumption) | fail_if_no_progress refine State.Keeps.io ?_
        | fail_if_no_progress refine State.mk_keeps ?_ ?_ | fail_if_no_progress refine Io.mk_keeps ?_)

theorem execGreyPulseWindow_keeps {msk : Nat} {s0 : State} {region slot : Nat} {s : State} (hk0 : State.Keeps msk s0 s) (hm : Sub 0x1000006069000000000000000000000000080000000400000000000000000040002000000000001ffc1c58032000040000278601 msk) :
    Result.Keeps msk s0 (execGreyPulseWindow region slot s) := by
  unfold execGreyPulseWindow
  repeat' first
    | with_reducible assumption | exact Sub.of hm rfl | exact Has.of hm rfl | intro _
    | (with_reducible first
        | refine Result.next_keeps ?_ | apply State.greyWindow_keeps)

theorem State.retestBoard_keeps {msk : Nat} {s0 : State} {s : State} {b : Nat} (hk0 : State.Keeps msk s0 s) (hm : Sub 0x10000060690000000000000000000000e6c00000000000000000000000000000000000000000001ffc1c58000000000000278400 msk) :
    State.Keeps msk s0 (State.retestBoard s b) := by
  unfold State.retestBoard
  repeat' first
    | with_reducible assumption | exact Sub.of hm rfl | exact Has.of hm rfl | intro _
    | (extract_lets +onlyGivenNames x; first | (refine (have hx : State.Keeps msk s0 x := ?_; ?_); (on_goal 2 => clear_value x); (on_goal 1 => subst x)) | clear_value x)
    | (with_reducible first
        | apply State.enterChannel_keeps | apply State.foldl_keeps | apply State.foldl_keeps_fst | refine State.ite_keeps ?_ ?_)
    | split | with_reducible fail_if_no_progress refine State.mk_keeps ?_ ?_

theorem execUnverifiedMinute_keeps {msk : Nat} {s0 : State} {s : State} (hk0 : State.Keeps msk s0 s) (hm : Sub 0x68000000000000000000000000000000000000000000000000000000000000000000400 msk) :
    Result.Keeps msk s0 (execUnverifiedMinute s) := by
  unfold execUnverifiedMinute
  repeat' first
    | with_reducible assumption | exact Sub.of hm rfl | exact Has.of hm rfl | intro _
    | (extract_lets +onlyGivenNames x; first | (refine (have hx : State.Keeps msk s0 x := ?_; ?_); (on_goal 2 => clear_value x); (on_goal 1 => subst x)) | clear_value x)
    | (with_reducible first
        | refine Result.next_keeps ?_ | apply State.mapChannels_keeps | apply State.reportBoard_keeps | apply State.foldl_keeps
        | apply State.foldl_keeps_fst | refine Result.ite_keeps ?_ ?_ | refine State.ite_keeps ?_ ?_)
    | split | with_reducible fail_if_no_progress refine State.mk_keeps ?_ ?_

theorem State.blendRequest_keeps {msk : Nat} {s0 : State} {s : State} {updates : List (Nat × List Byte)} (hk0 : State.Keeps msk s0 s) (hm : Sub 0x1000006069000000000000000000000000000000000002040000000000000000000000000000001ffc1c58000000000000278400 msk) :
    State.Keeps msk s0 (State.blendRequest s updates) := by
  unfold State.blendRequest
  repeat' first
    | with_reducible assumption | exact Sub.of hm rfl | exact Has.of hm rfl | intro _ | exact RegOf.LMP_SET
    | exact RegOf.LMP_UNCORRECTABLE
    | (extract_lets +onlyGivenNames x; first | (refine (have hx : State.Keeps msk s0 x := ?_; ?_); (on_goal 2 => clear_value x); (on_goal 1 => subst x)) | (refine (have hx : State.Keeps msk s0 x.1 := ?_; ?_); (on_goal 2 => clear_value x); (on_goal 1 => subst x)) | clear_value x)
    | (with_reducible first
        | apply State.onLamp_keeps | apply State.on_keeps | apply Io.writeDram_keeps | apply Io.bumpF_keeps | apply State.bumpF_keeps
        | apply Io.fireObj_keeps | apply Io.setF_keeps | apply State.setF_keeps | apply State.foldl_keeps | apply State.foldl_keeps_fst
        | apply Io.foldl_keeps | apply Io.foldl_keeps_fst | apply State.on_keeps | refine State.ite_keeps ?_ ?_ | refine Io.ite_keeps ?_ ?_)
    | split
    | (with_reducible first
        | refine State.Keeps.fst (by assumption) ?_ | exact State.Keeps.io (by assumption) | fail_if_no_progress refine State.Keeps.io ?_
        | fail_if_no_progress refine State.mk_keeps ?_ ?_ | fail_if_no_progress refine Io.mk_keeps ?_)

theorem State.blendAgain_keeps {msk : Nat} {s0 : State} {s : State} (hk0 : State.Keeps msk s0 s) (hm : Sub 0x1000006069000000000000000000000000000000000002040000000000000000000000000000001ffc1c58000000000000278400 msk) :
    State.Keeps msk s0 (State.blendAgain s) := by
  unfold State.blendAgain
  repeat' first
    | with_reducible assumption | exact Sub.of hm rfl | exact Has.of hm rfl | intro _
    | (extract_lets +onlyGivenNames x; first | (refine (have hx : State.Keeps msk s0 x := ?_; ?_); (on_goal 2 => clear_value x); (on_goal 1 => subst x)) | clear_value x)
    | (with_reducible first
        | apply State.onLamp_keeps | apply State.blendRequest_keeps | refine State.ite_keeps ?_ ?_)
    | split
    | (with_reducible first
        | refine State.Keeps.fst (by assumption) ?_ | fail_if_no_progress refine State.mk_keeps ?_ ?_)

theorem State.driverTick_keeps {msk : Nat} {s0 : State} {s : State} (hk0 : State.Keeps msk s0 s) (hm : Sub 0x1000006069000000000000000000000000001080000002040000000000000000000000000000001ffc1c58000000000000278400 msk) :
    State.Keeps msk s0 (State.driverTick s) := by
  unfold State.driverTick
  repeat' first
    | with_reducible assumption | exact Sub.of hm rfl | exact Has.of hm rfl | intro _ | exact RegOf.DRV_GROUP_STAT _ _
    | exact RegOf.DRV_RB_PINS _ _
    | (extract_lets +onlyGivenNames x; first | (refine (have hx : State.Keeps msk s0 x := ?_; ?_); (on_goal 2 => clear_value x); (on_goal 1 => subst x)) | (refine (have hx : State.Keeps msk s0 x.1 := ?_; ?_); (on_goal 2 => clear_value x); (on_goal 1 => subst x)) | clear_value x)
    | (with_reducible first
        | apply State.blendAgain_keeps | apply Io.setF_keeps | apply State.setF_keeps | apply State.setGroup_keeps | apply State.foldl_keeps
        | apply State.foldl_keeps_fst | apply Io.foldl_keeps | apply Io.foldl_keeps_fst | refine State.ite_keeps ?_ ?_
        | refine Io.ite_keeps ?_ ?_)
    | split
    | (with_reducible first
        | exact State.Keeps.io (by assumption) | fail_if_no_progress refine State.Keeps.io ?_
        | fail_if_no_progress refine State.mk_keeps ?_ ?_ | fail_if_no_progress refine Io.mk_keeps ?_)

theorem execBlendRequest_keeps {msk : Nat} {s0 : State} {updates : List (Nat × List Byte)} {s : State} (hk0 : State.Keeps msk s0 s) (hm : Sub 0x1000006069000000000000000000000000000000000002040000000000000000000000000000001ffc1c58000000000000278400 msk) :
    Result.Keeps msk s0 (execBlendRequest updates s) := by
  unfold execBlendRequest
  repeat' first
    | with_reducible assumption | exact Sub.of hm rfl | exact Has.of hm rfl | intro _
    | (with_reducible first
        | refine Result.next_keeps ?_ | apply State.blendRequest_keeps | refine Result.ite_keeps ?_ ?_ | refine State.ite_keeps ?_ ?_
        | refine Io.ite_keeps ?_ ?_)
    | split
    | (with_reducible first
        | exact State.Keeps.io (by assumption) | fail_if_no_progress refine State.Keeps.io ?_)

theorem execPersistHourly_keeps {msk : Nat} {s0 : State} {s : State} (hk0 : State.Keeps msk s0 s) (hm : Sub 0x8400000000000000000000000000000000000000000000000000000000000000000000000000000000000840 msk) :
    Result.Keeps msk s0 (execPersistHourly s) := by
  unfold execPersistHourly
  repeat' first
    | with_reducible assumption | exact Sub.of hm rfl | exact Has.of hm rfl | intro _
    | (extract_lets +onlyGivenNames x; first | (refine (have hx : State.Keeps msk s0 x := ?_; ?_); (on_goal 2 => clear_value x); (on_goal 1 => subst x)) | (refine (have hx : State.Keeps msk s0 x.1 := ?_; ?_); (on_goal 2 => clear_value x); (on_goal 1 => subst x)) | clear_value x)
    | (with_reducible first
        | refine Result.next_keeps ?_ | apply State.writeCeiling_keeps | apply State.queueRecord_keeps | refine Result.ite_keeps ?_ ?_
        | refine State.ite_keeps ?_ ?_ | refine Io.ite_keeps ?_ ?_)
    | split
    | (with_reducible first
        | refine State.Keeps.fst (by assumption) ?_ | exact State.Keeps.io (by assumption) | fail_if_no_progress refine State.Keeps.io ?_
        | fail_if_no_progress refine State.mk_keeps ?_ ?_ | fail_if_no_progress refine Io.mk_keeps ?_)

end Sys2Proof.Machine
end

