-- ==== Sys2Proof/Laws/KeepsAudio.lean ====
section
/-! SUPPORT. What the operations of Machine/Audio.lean keep. -/

set_option linter.unusedTactic false
set_option linter.unreachableTactic false
set_option linter.tactic.unusedName false

set_option Elab.async false

namespace Sys2Proof.Machine

theorem State.onAudio_keeps {msk : Nat} {s0 : State} {s : State} {f : AudioState → AudioState} (hk0 : State.Keeps msk s0 s) (hm : Sub 0x1000 msk) :
    State.Keeps msk s0 (State.onAudio s f) := by
  unfold State.onAudio
  repeat' first
    | with_reducible assumption | exact Sub.of hm rfl | exact Has.of hm rfl | intro _
    | (extract_lets +onlyGivenNames x; first | (refine (have hx : State.Keeps msk s0 x := ?_; ?_); (on_goal 2 => clear_value x); (on_goal 1 => subst x)) | (refine (have hx : State.Keeps msk s0 x.1 := ?_; ?_); (on_goal 2 => clear_value x); (on_goal 1 => subst x)) | (refine (have hx : Io.Keeps msk s0.io x := ?_; ?_); (on_goal 2 => clear_value x); (on_goal 1 => subst x)) | (refine (have hx : Io.Keeps msk s0.io x.1 := ?_; ?_); (on_goal 2 => clear_value x); (on_goal 1 => subst x)) | (refine (have hx : ∀ y, State.Keeps msk s0 (x y) := ?_; ?_); (on_goal 2 => clear_value x); (on_goal 1 => subst x)) | (refine (have hx : ∀ y, State.Keeps msk s0 (x y).1 := ?_; ?_); (on_goal 2 => clear_value x); (on_goal 1 => subst x)) | clear_value x)
    | (with_reducible first
        | apply hf | apply hx | refine State.Keeps.fst (by assumption) ?_ | refine Io.Keeps.fst (by assumption) ?_
        | exact State.Keeps.io (by assumption) | fail_if_no_progress refine State.Keeps.io ?_
        | fail_if_no_progress refine State.mk_keeps ?_ ?_ | fail_if_no_progress refine Io.mk_keeps ?_)

theorem State.loadAudio_keeps {msk : Nat} {s0 : State} {s : State} {cls : Nat} (hk0 : State.Keeps msk s0 s) (hm : Sub 0x34000000000000000000000000000000000000000000000000000000000000000000000000000 msk) :
    State.Keeps msk s0 (State.loadAudio s cls) := by
  unfold State.loadAudio
  repeat' first
    | with_reducible assumption | exact Sub.of hm rfl | exact Has.of hm rfl | intro _ | exact RegOf.AUD_MASK _ _
    | exact RegOf.AUD_MASK_SHADOW _ _ | exact RegOf.AUD_PORT_CFG _ _
    | (extract_lets +onlyGivenNames x; first | (refine (have hx : State.Keeps msk s0 x := ?_; ?_); (on_goal 2 => clear_value x); (on_goal 1 => subst x)) | (refine (have hx : State.Keeps msk s0 x.1 := ?_; ?_); (on_goal 2 => clear_value x); (on_goal 1 => subst x)) | (refine (have hx : Io.Keeps msk s0.io x := ?_; ?_); (on_goal 2 => clear_value x); (on_goal 1 => subst x)) | (refine (have hx : Io.Keeps msk s0.io x.1 := ?_; ?_); (on_goal 2 => clear_value x); (on_goal 1 => subst x)) | (refine (have hx : ∀ y, State.Keeps msk s0 (x y) := ?_; ?_); (on_goal 2 => clear_value x); (on_goal 1 => subst x)) | (refine (have hx : ∀ y, State.Keeps msk s0 (x y).1 := ?_; ?_); (on_goal 2 => clear_value x); (on_goal 1 => subst x)) | clear_value x)
    | (with_reducible first
        | apply State.on_keeps | apply Io.setReg_keeps | apply Io.setF_keeps | apply State.setF_keeps | apply State.foldl_keeps
        | apply State.foldl_keeps_fst | apply Io.foldl_keeps | apply Io.foldl_keeps_fst | apply State.on_keeps | apply hx)
    | split
    | (with_reducible first
        | refine State.Keeps.fst (by assumption) ?_ | refine Io.Keeps.fst (by assumption) ?_ | exact State.Keeps.io (by assumption)
        | fail_if_no_progress refine State.Keeps.io ?_ | fail_if_no_progress refine State.mk_keeps ?_ ?_
        | fail_if_no_progress refine Io.mk_keeps ?_)

theorem State.setAudState_keeps {msk : Nat} {s0 : State} {s : State} {p v : Nat} (hk0 : State.Keeps msk s0 s) (hm : Sub 0x8000000000000000000000000000000000000000000000000000000000000000000000000000 msk) :
    State.Keeps msk s0 (State.setAudState s p v) := by
  unfold State.setAudState
  repeat' first
    | with_reducible assumption | exact Sub.of hm rfl | exact Has.of hm rfl | intro _ | exact RegOf.AUD_PORT_STAT _ _
    | (with_reducible first
        | apply Io.setF_keeps | apply State.setF_keeps)

theorem State.setAudPort_keeps {msk : Nat} {s0 : State} {s : State} {a : AudioPort} (hk0 : State.Keeps msk s0 s) (hm : Sub 0x1000 msk) :
    State.Keeps msk s0 (State.setAudPort s a) := by
  unfold State.setAudPort
  repeat' first
    | with_reducible assumption | exact Sub.of hm rfl | exact Has.of hm rfl | intro _
    | (extract_lets +onlyGivenNames x; first | (refine (have hx : State.Keeps msk s0 x := ?_; ?_); (on_goal 2 => clear_value x); (on_goal 1 => subst x)) | clear_value x)
    | (with_reducible first
        | apply State.onAudio_keeps | fail_if_no_progress refine State.mk_keeps ?_ ?_)

theorem State.fireAud_keeps {msk : Nat} {s0 : State} {s : State} {e p : Nat} (hk0 : State.Keeps msk s0 s) (hm : Sub 0x1000006069000000000000000000000000000000000000000000000000000000000000000000001ffc1c58000000000000278000 msk) :
    State.Keeps msk s0 (State.fireAud s e p) := by
  unfold State.fireAud
  repeat' first
    | with_reducible assumption | exact Sub.of hm rfl | exact Has.of hm rfl | intro _
    | (with_reducible first
        | apply State.on_keeps | apply Io.fireObj_keeps | apply State.on_keeps)
    | split
    | (with_reducible first
        | exact State.Keeps.io (by assumption) | fail_if_no_progress refine State.Keeps.io ?_)

theorem State.endAudio_keeps {msk : Nat} {s0 : State} {s : State} {b : AudioBuf} {status detail : Nat} (hk0 : State.Keeps msk s0 s) (hm : Sub 0x1000006069000000000000000000000000000000000000000000000000000000000000000000001ffc5c58000000000000279000 msk) :
    State.Keeps msk s0 (State.endAudio s b status detail) := by
  unfold State.endAudio
  repeat' first
    | with_reducible assumption | exact Sub.of hm rfl | exact Has.of hm rfl | intro _
    | (extract_lets +onlyGivenNames x; first | (refine (have hx : State.Keeps msk s0 x := ?_; ?_); (on_goal 2 => clear_value x); (on_goal 1 => subst x)) | (refine (have hx : State.Keeps msk s0 x.1 := ?_; ?_); (on_goal 2 => clear_value x); (on_goal 1 => subst x)) | clear_value x)
    | (with_reducible first
        | apply State.onAudio_keeps | apply State.on_keeps | apply Io.owe_keeps | apply State.on_keeps
        | exact State.Keeps.io (by assumption) | fail_if_no_progress refine State.Keeps.io ?_
        | fail_if_no_progress refine State.mk_keeps ?_ ?_ | fail_if_no_progress refine Io.mk_keeps ?_)

theorem State.audioFault_keeps {msk : Nat} {s0 : State} {s : State} {b : AudioBuf} {n lane kind iova : Nat} {write : Bool} (hk0 : State.Keeps msk s0 s) (hm : Sub 0x1000006069000000000000000000000000000000000000000000000000000000000000000000001ffc5c58000000000000279000 msk) :
    State.Keeps msk s0 (State.audioFault s b n lane kind iova write) := by
  unfold State.audioFault
  repeat' first
    | with_reducible assumption | exact Sub.of hm rfl | exact Has.of hm rfl | intro _
    | (extract_lets +onlyGivenNames x; first | (refine (have hx : State.Keeps msk s0 x := ?_; ?_); (on_goal 2 => clear_value x); (on_goal 1 => subst x)) | (refine (have hx : State.Keeps msk s0 x.1 := ?_; ?_); (on_goal 2 => clear_value x); (on_goal 1 => subst x)) | clear_value x)
    | (with_reducible first
        | apply State.on_keeps | apply Io.settle_keeps | apply Io.countFault_keeps | apply Io.logFault_keeps | apply State.endAudio_keeps
        | apply State.on_keeps | refine State.ite_keeps ?_ ?_ | refine Io.ite_keeps ?_ ?_)
    | split
    | (with_reducible first
        | exact State.Keeps.io (by assumption) | fail_if_no_progress refine State.Keeps.io ?_)

theorem State.setBuf_keeps {msk : Nat} {s0 : State} {s : State} {b : AudioBuf} (hk0 : State.Keeps msk s0 s) (hm : Sub 0x1000 msk) :
    State.Keeps msk s0 (State.setBuf s b) := by
  unfold State.setBuf
  repeat' first
    | with_reducible assumption | exact Sub.of hm rfl | exact Has.of hm rfl | intro _
    | (extract_lets +onlyGivenNames x; first | (refine (have hx : State.Keeps msk s0 x := ?_; ?_); (on_goal 2 => clear_value x); (on_goal 1 => subst x)) | (refine (have hx : State.Keeps msk s0 x.1 := ?_; ?_); (on_goal 2 => clear_value x); (on_goal 1 => subst x)) | clear_value x)
    | (with_reducible first
        | apply State.onAudio_keeps | refine State.ite_keeps ?_ ?_)
    | split
    | (with_reducible first
        | refine State.Keeps.fst (by assumption) ?_ | fail_if_no_progress refine State.mk_keeps ?_ ?_)

theorem State.readPlay_keeps {msk : Nat} {s0 : State} {s : State} {mem : HostMem} {region : Nat} {b : AudioBuf} {m : Nat} (hk0 : State.Keeps msk s0 s) (hm : Sub 0x1000006069000000000000000000000000000000000000000000000000000000000000000004001ffc1c58000000000000278000 msk) :
    State.Keeps msk s0 (State.readPlay s mem region b m).1 := by
  unfold State.readPlay
  repeat' first
    | with_reducible assumption | exact Sub.of hm rfl | exact Has.of hm rfl | intro _
    | (extract_lets +onlyGivenNames x; first | (refine (have hx : State.Keeps msk s0 x := ?_; ?_); (on_goal 2 => clear_value x); (on_goal 1 => subst x)) | (refine (have hx : State.Keeps msk s0 x.1 := ?_; ?_); (on_goal 2 => clear_value x); (on_goal 1 => subst x)) | (refine (have hx : Io.Keeps msk s0.io x := ?_; ?_); (on_goal 2 => clear_value x); (on_goal 1 => subst x)) | (refine (have hx : Io.Keeps msk s0.io x.1 := ?_; ?_); (on_goal 2 => clear_value x); (on_goal 1 => subst x)) | (refine (have hx : ∀ y, State.Keeps msk s0 (x y) := ?_; ?_); (on_goal 2 => clear_value x); (on_goal 1 => subst x)) | (refine (have hx : ∀ y, State.Keeps msk s0 (x y).1 := ?_; ?_); (on_goal 2 => clear_value x); (on_goal 1 => subst x)) | clear_value x)
    | (with_reducible first
        | apply Io.readOps_keeps | apply Io.settle_keeps | apply Io.completeOwn_keeps | apply hx | refine State.ite_keeps ?_ ?_
        | refine State.ite_keeps_fst ?_ ?_ | refine Io.ite_keeps ?_ ?_ | refine Io.ite_keeps_fst ?_ ?_)
    | split
    | (with_reducible first
        | refine State.Keeps.fst (by assumption) ?_ | refine Io.Keeps.fst (by assumption) ?_ | exact State.Keeps.io (by assumption)
        | fail_if_no_progress refine State.Keeps.io ?_ | fail_if_no_progress refine State.mk_keeps ?_ ?_
        | fail_if_no_progress refine Io.mk_keeps ?_ | fail_if_no_progress refine Io.setOps_keeps ?_ ?_)

theorem State.consume_keeps {msk : Nat} {s0 : State} {mem : HostMem} {region lane t fuel n idx : Nat} {s : State} (h : State.Keeps msk s0 s) (hm : Sub 0x1000006069000000000000000000000000000000000000000000000000000000000000000004001ffc5c58000000000000279000 msk) :
    State.Keeps msk s0 (State.consume mem region lane t fuel n idx s).1 := by
  induction fuel generalizing s n idx with
  | zero => exact h
  | succ k ih =>
    unfold State.consume
    repeat' first
        | with_reducible assumption | exact Sub.of hm rfl | exact Has.of hm rfl | intro _
        | (extract_lets +onlyGivenNames x; first | (refine (have hx : State.Keeps msk s0 x := ?_; ?_); (on_goal 2 => clear_value x); (on_goal 1 => subst x)) | (refine (have hx : State.Keeps msk s0 x.1 := ?_; ?_); (on_goal 2 => clear_value x); (on_goal 1 => subst x)) | clear_value x)
        | (with_reducible first
            | apply ih | apply State.readPlay_keeps | apply State.setBuf_keeps | apply State.audioFault_keeps | apply State.endAudio_keeps
            | refine State.ite_keeps ?_ ?_ | refine State.ite_keeps_fst ?_ ?_)
        | split
        | (with_reducible first
            | refine State.Keeps.fst (by assumption) ?_ | fail_if_no_progress refine State.mk_keeps ?_ ?_)

theorem State.buildAudio_keeps {m : Nat} {s0 s : State} {mem : HostMem} {region lane t : Nat} (h : State.Keeps m s0 s)
    (hm : Sub 0x1000006069000000000000000000100000000000000000000000000000000000000000000004001ffc5c58000000000000279000 m) : State.Keeps m s0 (s.buildAudio mem region lane t).1 := by
  unfold State.buildAudio
  extract_lets k spt count s1
  have h1 : State.Keeps m s0 s1 := State.onAudio_keeps h (Sub.of hm rfl)
  clear_value s1
  split
  · exact h1
  · have hc := State.consume_keeps (mem := mem) (region := region) (lane := lane) (t := t) (fuel := s1.audio.plays.length + 1) (n := spt)
      (idx := k * spt) h1 (Sub.of hm rfl)
    generalize State.consume mem region lane t (s1.audio.plays.length + 1) spt (k * spt) s1 = c at hc ⊢
    obtain ⟨s2, fs⟩ := c
    dsimp only at hc ⊢
    split
    · exact State.on_keeps (State.bumpF_keeps hc (RegOf.AUD_UNDERRUN _) (Has.of hm rfl)) (fun io k => Io.fireOnce_keeps k (Sub.of hm rfl))
    · exact hc

theorem State.keepPack_keeps {msk : Nat} {s0 : State} {s : State} {k : Nat} {fs : List (List Int)} (hk0 : State.Keeps msk s0 s) (hm : Sub 0x1000 msk) :
    State.Keeps msk s0 (State.keepPack s k fs) := by
  unfold State.keepPack
  repeat' first
    | with_reducible assumption | exact Sub.of hm rfl | exact Has.of hm rfl | intro _
    | (extract_lets +onlyGivenNames x; first | (refine (have hx : State.Keeps msk s0 x := ?_; ?_); (on_goal 2 => clear_value x); (on_goal 1 => subst x)) | clear_value x)
    | (with_reducible first
        | apply State.onAudio_keeps | fail_if_no_progress refine State.mk_keeps ?_ ?_)

theorem execAudioWindow_keeps {msk : Nat} {s0 : State} {region slot target aligns : Nat} {mem : HostData} {inFlight : Nat} {s : State} (hk0 : State.Keeps msk s0 s) (hm : Sub 0x1000006069000000000000000000100000000000000400000000000000000040002000000004001ffc5c58032000040000279201 msk) :
    Result.Keeps msk s0 (execAudioWindow region slot target aligns mem inFlight s) := by
  unfold execAudioWindow
  repeat' first
    | with_reducible assumption | exact Sub.of hm rfl | exact Has.of hm rfl | intro _
    | (extract_lets +onlyGivenNames x; first | (refine (have hx : State.Keeps msk s0 x := ?_; ?_); (on_goal 2 => clear_value x); (on_goal 1 => subst x)) | (refine (have hx : State.Keeps msk s0 x.1 := ?_; ?_); (on_goal 2 => clear_value x); (on_goal 1 => subst x)) | clear_value x)
    | (with_reducible first
        | refine Result.next_keeps ?_ | apply State.startSlot_keeps | apply State.buildAudio_keeps | apply State.keepPack_keeps
        | apply State.onAudio_keeps | apply Io.take_keeps | apply Io.emit_keeps | apply State.emit_keeps | refine Result.ite_keeps ?_ ?_
        | refine State.ite_keeps ?_ ?_ | refine Io.ite_keeps ?_ ?_)
    | split
    | (with_reducible first
        | refine State.Keeps.fst (by assumption) ?_ | exact State.Keeps.io (by assumption) | fail_if_no_progress refine State.Keeps.io ?_
        | fail_if_no_progress refine State.mk_keeps ?_ ?_ | fail_if_no_progress refine Io.mk_keeps ?_)

theorem execPlay_keeps {msk : Nat} {s0 : State} {ring i : Nat} {s : State} (hk0 : State.Keeps msk s0 s) (hm : Sub 0x1000006069000000000000000000000000000000000000000000000000000000000000000000001ffc1c58000000000000279000 msk) :
    Result.Keeps msk s0 (execPlay ring i s) := by
  unfold execPlay
  repeat' first
    | with_reducible assumption | exact Sub.of hm rfl | exact Has.of hm rfl | intro _
    | (extract_lets +onlyGivenNames x; first | (refine (have hx : State.Keeps msk s0 x := ?_; ?_); (on_goal 2 => clear_value x); (on_goal 1 => subst x)) | (refine (have hx : State.Keeps msk s0 x.1 := ?_; ?_); (on_goal 2 => clear_value x); (on_goal 1 => subst x)) | clear_value x)
    | (with_reducible first
        | refine Result.next_keeps ?_ | apply Io.onEntry_keeps | apply State.onEntry_keeps | apply State.on_keeps | apply Io.answer_keeps
        | apply Io.activate_keeps | apply State.onAudio_keeps | apply State.on_keeps | refine Result.ite_keeps ?_ ?_
        | refine State.ite_keeps ?_ ?_ | refine Io.ite_keeps ?_ ?_)
    | split
    | (with_reducible first
        | exact State.Keeps.io (by assumption) | fail_if_no_progress refine State.Keeps.io ?_
        | fail_if_no_progress refine State.mk_keeps ?_ ?_ | fail_if_no_progress refine Io.mk_keeps ?_)

theorem execAudioCapture_keeps {msk : Nat} {s0 : State} {ring i : Nat} {s : State} (hk0 : State.Keeps msk s0 s) (hm : Sub 0x1000006069000000000000000000000000000000000000000000000000000000000000000000001ffc1c58000000000000279000 msk) :
    Result.Keeps msk s0 (execAudioCapture ring i s) := by
  unfold execAudioCapture
  repeat' first
    | with_reducible assumption | exact Sub.of hm rfl | exact Has.of hm rfl | intro _
    | (extract_lets +onlyGivenNames x; first | (refine (have hx : State.Keeps msk s0 x := ?_; ?_); (on_goal 2 => clear_value x); (on_goal 1 => subst x)) | (refine (have hx : State.Keeps msk s0 x.1 := ?_; ?_); (on_goal 2 => clear_value x); (on_goal 1 => subst x)) | clear_value x)
    | (with_reducible first
        | refine Result.next_keeps ?_ | apply Io.onEntry_keeps | apply State.onEntry_keeps | apply State.on_keeps | apply Io.answer_keeps
        | apply Io.activate_keeps | apply State.onAudio_keeps | apply State.on_keeps | refine Result.ite_keeps ?_ ?_
        | refine State.ite_keeps ?_ ?_ | refine Io.ite_keeps ?_ ?_)
    | split
    | (with_reducible first
        | exact State.Keeps.io (by assumption) | fail_if_no_progress refine State.Keeps.io ?_
        | fail_if_no_progress refine State.mk_keeps ?_ ?_ | fail_if_no_progress refine Io.mk_keeps ?_)

theorem State.audioOrder_keeps {msk : Nat} {s0 : State} {s : State} {ring i op : Nat} (hk0 : State.Keeps msk s0 s) (hm : Sub 0x1000006069000000000000000000000000000000000000000000000000000000000000000000001ffc1c58000000000000279000 msk) :
    State.Keeps msk s0 (State.audioOrder s ring i op) := by
  unfold State.audioOrder
  repeat' first
    | with_reducible assumption | exact Sub.of hm rfl | exact Has.of hm rfl | intro _
    | (extract_lets +onlyGivenNames x; first | (refine (have hx : State.Keeps msk s0 x := ?_; ?_); (on_goal 2 => clear_value x); (on_goal 1 => subst x)) | (refine (have hx : State.Keeps msk s0 x.1 := ?_; ?_); (on_goal 2 => clear_value x); (on_goal 1 => subst x)) | clear_value x)
    | (with_reducible first
        | apply Io.onEntry_keeps | apply State.onEntry_keeps | apply State.on_keeps | apply Io.answer_keeps | apply Io.activate_keeps
        | apply State.onAudio_keeps | apply State.on_keeps | refine State.ite_keeps ?_ ?_ | refine Io.ite_keeps ?_ ?_)
    | split
    | (with_reducible first
        | exact State.Keeps.io (by assumption) | fail_if_no_progress refine State.Keeps.io ?_
        | fail_if_no_progress refine State.mk_keeps ?_ ?_ | fail_if_no_progress refine Io.mk_keeps ?_)

theorem execAudioStart_keeps {msk : Nat} {s0 : State} {ring i : Nat} {s : State} (hk0 : State.Keeps msk s0 s) (hm : Sub 0x1000006069000000000000000000000000000000000000000000000000000000000000000000001ffc1c58000000000000279000 msk) :
    Result.Keeps msk s0 (execAudioStart ring i s) := by
  unfold execAudioStart
  repeat' first
    | with_reducible assumption | exact Sub.of hm rfl | exact Has.of hm rfl | intro _
    | (with_reducible first
        | refine Result.next_keeps ?_ | apply State.audioOrder_keeps)

theorem execAudioStop_keeps {msk : Nat} {s0 : State} {ring i : Nat} {s : State} (hk0 : State.Keeps msk s0 s) (hm : Sub 0x1000006069000000000000000000000000000000000000000000000000000000000000000000001ffc1c58000000000000279000 msk) :
    Result.Keeps msk s0 (execAudioStop ring i s) := by
  unfold execAudioStop
  repeat' first
    | with_reducible assumption | exact Sub.of hm rfl | exact Has.of hm rfl | intro _
    | (with_reducible first
        | refine Result.next_keeps ?_ | apply State.audioOrder_keeps)

theorem execMask_keeps {msk : Nat} {s0 : State} {ring i : Nat} {s : State} (hk0 : State.Keeps msk s0 s) (hm : Sub 0x1000006069000000000000000002000000000000000000000000000000000000000000000000001ffc1c58000000000000279002 msk) :
    Result.Keeps msk s0 (execMask ring i s) := by
  unfold execMask
  repeat' first
    | with_reducible assumption | exact Sub.of hm rfl | exact Has.of hm rfl | intro _ | exact RegOf.AUD_MASK_SHADOW _ _
    | (extract_lets +onlyGivenNames x; first | (refine (have hx : State.Keeps msk s0 x := ?_; ?_); (on_goal 2 => clear_value x); (on_goal 1 => subst x)) | (refine (have hx : State.Keeps msk s0 x.1 := ?_; ?_); (on_goal 2 => clear_value x); (on_goal 1 => subst x)) | clear_value x)
    | (with_reducible first
        | refine Result.next_keeps ?_ | apply Io.onEntry_keeps | apply State.onEntry_keeps | apply State.on_keeps | apply Io.answer_keeps
        | apply Io.activate_keeps | apply State.onAudio_keeps | apply Io.setF_keeps | apply State.setF_keeps | apply State.queueBulk_keeps
        | apply State.on_keeps | refine Result.ite_keeps ?_ ?_ | refine State.ite_keeps ?_ ?_ | refine Io.ite_keeps ?_ ?_)
    | split
    | (with_reducible first
        | exact State.Keeps.io (by assumption) | fail_if_no_progress refine State.Keeps.io ?_
        | fail_if_no_progress refine State.mk_keeps ?_ ?_ | fail_if_no_progress refine Io.mk_keeps ?_)

theorem State.resendMasks_keeps {msk : Nat} {s0 : State} {s : State} (hk0 : State.Keeps msk s0 s) (hm : Sub 0x2 msk) :
    State.Keeps msk s0 (State.resendMasks s) := by
  unfold State.resendMasks
  repeat' first
    | with_reducible assumption | exact Sub.of hm rfl | exact Has.of hm rfl | intro _
    | (extract_lets +onlyGivenNames x; first | (refine (have hx : State.Keeps msk s0 x := ?_; ?_); (on_goal 2 => clear_value x); (on_goal 1 => subst x)) | (refine (have hx : State.Keeps msk s0 x.1 := ?_; ?_); (on_goal 2 => clear_value x); (on_goal 1 => subst x)) | clear_value x)
    | (with_reducible first
        | apply State.queueBulk_keeps | apply State.foldl_keeps | apply State.foldl_keeps_fst)
    | split
    | (with_reducible first
        | refine State.Keeps.fst (by assumption) ?_ | fail_if_no_progress refine State.mk_keeps ?_ ?_)

theorem execSlotMaskReceived_keeps {msk : Nat} {s0 : State} {port : Nat} {packet : List Byte} {s : State} (hk0 : State.Keeps msk s0 s) (hm : Sub 0x1000006069000000000000000002080000000000000000000000000060000000000000000000001ffc1c58000000000000279000 msk) :
    Result.Keeps msk s0 (execSlotMaskReceived port packet s) := by
  unfold execSlotMaskReceived
  repeat' first
    | with_reducible assumption | exact Sub.of hm rfl | exact Has.of hm rfl | intro _ | exact RegOf.AUD_MASK_LATE
    | exact RegOf.AUD_MASK_SHADOW _ _
    | (extract_lets +onlyGivenNames x; first | (refine (have hx : State.Keeps msk s0 x := ?_; ?_); (on_goal 2 => clear_value x); (on_goal 1 => subst x)) | (refine (have hx : State.Keeps msk s0 x.1 := ?_; ?_); (on_goal 2 => clear_value x); (on_goal 1 => subst x)) | clear_value x)
    | (with_reducible first
        | refine Result.next_keeps ?_ | apply State.keptCmd_keeps | apply Io.setF_keeps | apply State.setF_keeps | apply Io.bumpF_keeps
        | apply State.bumpF_keeps | apply State.fireAud_keeps | apply State.onAudio_keeps | refine Result.ite_keeps ?_ ?_
        | refine State.ite_keeps ?_ ?_ | refine Io.ite_keeps ?_ ?_)
    | split
    | (with_reducible first
        | refine State.Keeps.fst (by assumption) ?_ | exact State.Keeps.io (by assumption) | fail_if_no_progress refine State.Keeps.io ?_
        | fail_if_no_progress refine State.mk_keeps ?_ ?_ | fail_if_no_progress refine Io.mk_keeps ?_)

theorem execAudioPacketReceived_keeps {msk : Nat} {s0 : State} {port : Nat} {packet : List Byte} {s : State} (hk0 : State.Keeps msk s0 s) (hm : Sub 0x1000006069000000000000000000000000000000000000000000000060000000000000000000001ffc1c58000000000000279000 msk) :
    Result.Keeps msk s0 (execAudioPacketReceived port packet s) := by
  unfold execAudioPacketReceived
  repeat' first
    | with_reducible assumption | exact Sub.of hm rfl | exact Has.of hm rfl | intro _
    | (extract_lets +onlyGivenNames x; first | (refine (have hx : State.Keeps msk s0 x := ?_; ?_); (on_goal 2 => clear_value x); (on_goal 1 => subst x)) | (refine (have hx : State.Keeps msk s0 x.1 := ?_; ?_); (on_goal 2 => clear_value x); (on_goal 1 => subst x)) | clear_value x)
    | (with_reducible first
        | refine Result.next_keeps ?_ | apply State.kept_keeps | apply State.keepPack_keeps | refine Result.ite_keeps ?_ ?_
        | refine State.ite_keeps ?_ ?_ | refine Io.ite_keeps ?_ ?_)
    | split
    | (with_reducible first
        | refine State.Keeps.fst (by assumption) ?_ | exact State.Keeps.io (by assumption) | fail_if_no_progress refine State.Keeps.io ?_
        | fail_if_no_progress refine State.mk_keeps ?_ ?_ | fail_if_no_progress refine Io.mk_keeps ?_)

theorem execAudioPacketDeadline_keeps {msk : Nat} {s0 : State} {k : Nat} {s : State} (hk0 : State.Keeps msk s0 s) (hm : Sub 0x1000006069000000000000000000040000000000000000000000000000000000000000000000001ffc1c58000000000000279000 msk) :
    Result.Keeps msk s0 (execAudioPacketDeadline k s) := by
  unfold execAudioPacketDeadline
  repeat' first
    | with_reducible assumption | exact Sub.of hm rfl | exact Has.of hm rfl | intro _ | exact RegOf.AUD_MISSING
    | (extract_lets +onlyGivenNames x; first | (refine (have hx : State.Keeps msk s0 x := ?_; ?_); (on_goal 2 => clear_value x); (on_goal 1 => subst x)) | clear_value x)
    | (with_reducible first
        | refine Result.next_keeps ?_ | apply State.onAudio_keeps | apply Io.bumpF_keeps | apply State.bumpF_keeps | apply State.on_keeps
        | apply Io.fires_keeps | apply State.on_keeps | refine Result.ite_keeps ?_ ?_ | refine State.ite_keeps ?_ ?_
        | refine Io.ite_keeps ?_ ?_)
    | split
    | (with_reducible first
        | exact State.Keeps.io (by assumption) | fail_if_no_progress refine State.Keeps.io ?_
        | fail_if_no_progress refine State.mk_keeps ?_ ?_ | fail_if_no_progress refine Io.mk_keeps ?_)

theorem State.freeSample_keeps {msk : Nat} {s0 : State} {s : State} {w : Nat} (hk0 : State.Keeps msk s0 s) (hm : Sub 0x400000 msk) :
    State.Keeps msk s0 (State.freeSample s w).1 := by
  unfold State.freeSample
  repeat' first
    | with_reducible assumption | exact Sub.of hm rfl | exact Has.of hm rfl | intro _
    | (with_reducible first
        | apply State.on_keeps | apply Io.spend_keeps | apply State.on_keeps | exact State.Keeps.io (by assumption)
        | fail_if_no_progress refine State.Keeps.io ?_)

theorem State.outSlots_keeps {m : Nat} {s0 : State} {p : Nat} {val : Nat → Option Int} {l : List Nat} {ch : Nat} {s : State} (h : State.Keeps m s0 s)
    (hm : Sub 0x400000 m) : State.Keeps m s0 (State.outSlots p val l ch s).1 := by
  induction l generalizing s ch with
  | nil => exact h
  | cons k t ih =>
    unfold State.outSlots
    split
    · refine ih (s := Prod.fst _) ?_
      split
      · exact h
      · exact State.freeSample_keeps h (Sub.of hm rfl)
    · exact ih h

theorem State.outFrame_keeps {msk : Nat} {s0 : State} {s : State} {p t n : Nat} (hk0 : State.Keeps msk s0 s) (hm : Sub 0x600000 msk) :
    State.Keeps msk s0 (State.outFrame s p t n) := by
  unfold State.outFrame
  repeat' first
    | with_reducible assumption | exact Sub.of hm rfl | exact Has.of hm rfl | intro _
    | (extract_lets +onlyGivenNames x; first | (refine (have hx : State.Keeps msk s0 x.1 := ?_; ?_); (on_goal 2 => clear_value x); (on_goal 1 => subst x)) | clear_value x)
    | (with_reducible first
        | apply State.outSlots_keeps | apply Io.emit_keeps | apply State.emit_keeps)
    | split | with_reducible refine State.Keeps.fst (by assumption) ?_

theorem State.capSample_keeps {msk : Nat} {s0 : State} {s : State} {p idx : Nat} {xs : List Int} (hk0 : State.Keeps msk s0 s) (hm : Sub 0x1000006069000000000000000000200000000000000000000000000000000000000000000000001ffc5c58000000000000279000 msk) :
    State.Keeps msk s0 (State.capSample s p idx xs) := by
  unfold State.capSample
  repeat' first
    | with_reducible assumption | exact Sub.of hm rfl | exact Has.of hm rfl | intro _ | exact RegOf.AUD_OVERRUN _
    | (extract_lets +onlyGivenNames x; first | (refine (have hx : State.Keeps msk s0 x := ?_; ?_); (on_goal 2 => clear_value x); (on_goal 1 => subst x)) | (refine (have hx : State.Keeps msk s0 x.1 := ?_; ?_); (on_goal 2 => clear_value x); (on_goal 1 => subst x)) | clear_value x)
    | (with_reducible first
        | apply Io.bumpF_keeps | apply State.bumpF_keeps | apply State.on_keeps | apply Io.fireOnce_keeps | apply Io.issueWrite_keeps
        | apply State.audioFault_keeps | apply State.endAudio_keeps | apply State.setBuf_keeps | apply State.on_keeps
        | refine State.ite_keeps ?_ ?_ | refine Io.ite_keeps ?_ ?_)
    | split
    | (with_reducible first
        | refine State.Keeps.fst (by assumption) ?_ | exact State.Keeps.io (by assumption) | fail_if_no_progress refine State.Keeps.io ?_
        | fail_if_no_progress refine State.mk_keeps ?_ ?_ | fail_if_no_progress refine Io.mk_keeps ?_)

theorem State.freeSlots_keeps {m : Nat} {s0 : State} {n : Nat} {s : State} (h : State.Keeps m s0 s) (hm : Sub 0x400000 m) :
    State.Keeps m s0 (State.freeSlots n s).1 := by
  induction n generalizing s with
  | zero => exact h
  | succ n ih => exact ih (s := (s.freeSample 32).1) (State.freeSample_keeps h (Sub.of hm rfl))

theorem State.deliver_keeps {msk : Nat} {s0 : State} {p : Nat} {given : Option (List Int)} {n : Nat} {s : State} (h : State.Keeps msk s0 s) (hm : Sub 0x1000006069000000000000000000200000000000000000000000000000000000000000000000001ffc5c58000000000000679000 msk) :
    State.Keeps msk s0 (State.deliver p given n s) := by
  induction n generalizing s with
  | zero => exact h
  | succ k ih =>
    unfold State.deliver
    repeat' first
        | with_reducible assumption | exact Sub.of hm rfl | exact Has.of hm rfl | intro _
        | (extract_lets +onlyGivenNames x; first | (refine (have hx : State.Keeps msk s0 x := ?_; ?_); (on_goal 2 => clear_value x); (on_goal 1 => subst x)) | (refine (have hx : State.Keeps msk s0 x.1 := ?_; ?_); (on_goal 2 => clear_value x); (on_goal 1 => subst x)) | clear_value x)
        | (with_reducible first
            | apply ih | apply State.freeSlots_keeps | apply State.capSample_keeps | apply State.setAudPort_keeps | refine State.ite_keeps ?_ ?_
            | refine Io.ite_keeps ?_ ?_)
        | split
        | (with_reducible first
            | refine State.Keeps.fst (by assumption) ?_ | exact State.Keeps.io (by assumption) | fail_if_no_progress refine State.Keeps.io ?_
            | fail_if_no_progress refine State.mk_keeps ?_ ?_ | fail_if_no_progress refine Io.mk_keeps ?_)

theorem State.deliverTo_keeps {m : Nat} {s0 s : State} {p upTo : Nat} {given : Option (List Int)} (h : State.Keeps m s0 s)
    (hm : Sub 0x1000006069000000000000000000200000000000000000000000000000000000000000000000001ffc5c58000000000000679000 m) : State.Keeps m s0 (s.deliverTo p upTo given) := State.deliver_keeps h (Sub.of hm rfl)

theorem State.relock_keeps {msk : Nat} {s0 : State} {s : State} {p : Nat} (hk0 : State.Keeps msk s0 s) (hm : Sub 0x1000006069000000000000000040800000000000000000000000000000000000000000000000001ffc1c58000000000000279000 msk) :
    State.Keeps msk s0 (State.relock s p) := by
  unfold State.relock
  repeat' first
    | with_reducible assumption | exact Sub.of hm rfl | exact Has.of hm rfl | intro _ | exact RegOf.AUD_RELOCKS _ _
    | (extract_lets +onlyGivenNames x; first | (refine (have hx : State.Keeps msk s0 x := ?_; ?_); (on_goal 2 => clear_value x); (on_goal 1 => subst x)) | clear_value x)
    | (with_reducible first
        | apply State.setAudState_keeps | apply State.setAudPort_keeps | apply Io.bumpF_keeps | apply State.bumpF_keeps
        | apply State.fireAud_keeps)
    | split | with_reducible fail_if_no_progress refine State.mk_keeps ?_ ?_

theorem State.clockLost_keeps {msk : Nat} {s0 : State} {s : State} {p : Nat} {outside : Bool} (hk0 : State.Keeps msk s0 s) (hm : Sub 0x1000006069000000000000000020800000000000000000000000000000000000000000000000001ffc1c58000000000000279000 msk) :
    State.Keeps msk s0 (State.clockLost s p outside) := by
  unfold State.clockLost
  repeat' first
    | with_reducible assumption | exact Sub.of hm rfl | exact Has.of hm rfl | intro _ | exact RegOf.AUD_CLOCK_LOSS _ _
    | (extract_lets +onlyGivenNames x; first | (refine (have hx : State.Keeps msk s0 x := ?_; ?_); (on_goal 2 => clear_value x); (on_goal 1 => subst x)) | (refine (have hx : State.Keeps msk s0 x.1 := ?_; ?_); (on_goal 2 => clear_value x); (on_goal 1 => subst x)) | clear_value x)
    | (with_reducible first
        | apply State.setAudState_keeps | apply State.setAudPort_keeps | apply Io.bumpF_keeps | apply State.bumpF_keeps
        | apply State.fireAud_keeps)
    | split
    | (with_reducible first
        | exact State.Keeps.io (by assumption) | fail_if_no_progress refine State.Keeps.io ?_
        | fail_if_no_progress refine State.mk_keeps ?_ ?_ | fail_if_no_progress refine Io.mk_keeps ?_)

theorem State.measured_keeps {msk : Nat} {s0 : State} {s : State} {p rate : Nat} (hk0 : State.Keeps msk s0 s) (hm : Sub 0x100000606900000000000000006c800000000000000000000000000000000000000000000000001ffc1c58000000000000279000 msk) :
    State.Keeps msk s0 (State.measured s p rate) := by
  unfold State.measured
  repeat' first
    | with_reducible assumption | exact Sub.of hm rfl | exact Has.of hm rfl | intro _ | exact RegOf.AUD_PORT_STAT _ _
    | exact RegOf.AUD_RATE _ _ | exact RegOf.AUD_RATIO _ _
    | (extract_lets +onlyGivenNames x; first | (refine (have hx : State.Keeps msk s0 x := ?_; ?_); (on_goal 2 => clear_value x); (on_goal 1 => subst x)) | (refine (have hx : State.Keeps msk s0 x.1 := ?_; ?_); (on_goal 2 => clear_value x); (on_goal 1 => subst x)) | clear_value x)
    | (with_reducible first
        | apply Io.setF_keeps | apply State.setF_keeps | apply State.setAudPort_keeps | apply State.fireAud_keeps
        | apply State.clockLost_keeps | apply State.setAudState_keeps | apply State.relock_keeps | refine State.ite_keeps ?_ ?_)
    | split
    | (with_reducible first
        | refine State.Keeps.fst (by assumption) ?_ | fail_if_no_progress refine State.mk_keeps ?_ ?_)

theorem State.countFrame_keeps {msk : Nat} {s0 : State} {s : State} {p t : Nat} (hk0 : State.Keeps msk s0 s) (hm : Sub 0x100000606900000000000000006c800000000000000000000000000000000000000000000000001ffc1c58000000000000279000 msk) :
    State.Keeps msk s0 (State.countFrame s p t) := by
  unfold State.countFrame
  repeat' first
    | with_reducible assumption | exact Sub.of hm rfl | exact Has.of hm rfl | intro _
    | (extract_lets +onlyGivenNames x; first | (refine (have hx : State.Keeps msk s0 x := ?_; ?_); (on_goal 2 => clear_value x); (on_goal 1 => subst x)) | (refine (have hx : State.Keeps msk s0 x.1 := ?_; ?_); (on_goal 2 => clear_value x); (on_goal 1 => subst x)) | clear_value x)
    | (with_reducible first
        | apply State.setAudPort_keeps | apply State.measured_keeps | refine State.ite_keeps ?_ ?_)
    | split
    | (with_reducible first
        | refine State.Keeps.fst (by assumption) ?_ | fail_if_no_progress refine State.mk_keeps ?_ ?_)

theorem State.framing_keeps {msk : Nat} {s0 : State} {s : State} {p bclks : Nat} (hk0 : State.Keeps msk s0 s) (hm : Sub 0x1000006069000000000000000050800000000000000000000000000000000000000000000000001ffc1c58000000000000279000 msk) :
    State.Keeps msk s0 (State.framing s p bclks) := by
  unfold State.framing
  repeat' first
    | with_reducible assumption | exact Sub.of hm rfl | exact Has.of hm rfl | intro _ | exact RegOf.AUD_FRAME_ERR _ _
    | (extract_lets +onlyGivenNames x; first | (refine (have hx : State.Keeps msk s0 x := ?_; ?_); (on_goal 2 => clear_value x); (on_goal 1 => subst x)) | (refine (have hx : State.Keeps msk s0 x.1 := ?_; ?_); (on_goal 2 => clear_value x); (on_goal 1 => subst x)) | clear_value x)
    | (with_reducible first
        | apply State.setAudPort_keeps | apply Io.bumpF_keeps | apply State.bumpF_keeps | apply State.on_keeps | apply Io.fireOnce_keeps
        | apply State.relock_keeps | apply State.on_keeps | refine State.ite_keeps ?_ ?_ | refine Io.ite_keeps ?_ ?_)
    | split
    | (with_reducible first
        | exact State.Keeps.io (by assumption) | fail_if_no_progress refine State.Keeps.io ?_
        | fail_if_no_progress refine State.mk_keeps ?_ ?_ | fail_if_no_progress refine Io.mk_keeps ?_)

theorem execAudioFrame_keeps {msk : Nat} {s0 : State} {port t bclks : Nat} {slots : List Nat} {overflow underflow : Bool} {s : State} (hk0 : State.Keeps msk s0 s) (hm : Sub 0x100000606900000000000000007ca00000000000000000000000000000000000000000000000001ffc5c58000000000000e79000 msk) :
    Result.Keeps msk s0 (execAudioFrame port t bclks slots overflow underflow s) := by
  unfold execAudioFrame
  repeat' first
    | with_reducible assumption | exact Sub.of hm rfl | exact Has.of hm rfl | intro _
    | (extract_lets +onlyGivenNames x; first | (refine (have hx : State.Keeps msk s0 x := ?_; ?_); (on_goal 2 => clear_value x); (on_goal 1 => subst x)) | (refine (have hx : State.Keeps msk s0 x.1 := ?_; ?_); (on_goal 2 => clear_value x); (on_goal 1 => subst x)) | clear_value x)
    | (with_reducible first
        | refine Result.next_keeps ?_ | apply State.on_keeps | apply Io.at_keeps | apply State.framing_keeps | apply State.relock_keeps
        | apply State.deliverTo_keeps | apply State.outFrame_keeps | apply State.countFrame_keeps | apply State.on_keeps
        | refine Result.ite_keeps ?_ ?_ | refine State.ite_keeps ?_ ?_ | refine Io.ite_keeps ?_ ?_)
    | split
    | (with_reducible first
        | refine State.Keeps.fst (by assumption) ?_ | exact State.Keeps.io (by assumption) | fail_if_no_progress refine State.Keeps.io ?_
        | fail_if_no_progress refine State.mk_keeps ?_ ?_ | fail_if_no_progress refine Io.mk_keeps ?_)

theorem execBclkLoss_keeps {msk : Nat} {s0 : State} {port : Nat} {s : State} (hk0 : State.Keeps msk s0 s) (hm : Sub 0x1000006069000000000000000020800000000000000000000000000000000000000000000000001ffc1c58000000000000279000 msk) :
    Result.Keeps msk s0 (execBclkLoss port s) := by
  unfold execBclkLoss
  repeat' first
    | with_reducible assumption | exact Sub.of hm rfl | exact Has.of hm rfl | intro _
    | (extract_lets +onlyGivenNames x; first | (refine (have hx : State.Keeps msk s0 x := ?_; ?_); (on_goal 2 => clear_value x); (on_goal 1 => subst x)) | (refine (have hx : State.Keeps msk s0 x.1 := ?_; ?_); (on_goal 2 => clear_value x); (on_goal 1 => subst x)) | clear_value x)
    | (with_reducible first
        | refine Result.next_keeps ?_ | apply State.clockLost_keeps | refine Result.ite_keeps ?_ ?_ | refine State.ite_keeps ?_ ?_)
    | split

theorem execBclkReturn_keeps {msk : Nat} {s0 : State} {port : Nat} {s : State} (hk0 : State.Keeps msk s0 s) (hm : Sub 0x8000000000000000000000000000000000000000000000000000000000000000000000000000 msk) :
    Result.Keeps msk s0 (execBclkReturn port s) := by
  unfold execBclkReturn
  repeat' first
    | with_reducible assumption | exact Sub.of hm rfl | exact Has.of hm rfl | intro _
    | (extract_lets +onlyGivenNames x; first | (refine (have hx : State.Keeps msk s0 x := ?_; ?_); (on_goal 2 => clear_value x); (on_goal 1 => subst x)) | (refine (have hx : State.Keeps msk s0 x.1 := ?_; ?_); (on_goal 2 => clear_value x); (on_goal 1 => subst x)) | clear_value x)
    | (with_reducible first
        | refine Result.next_keeps ?_ | apply State.setAudState_keeps | refine Result.ite_keeps ?_ ?_ | refine State.ite_keeps ?_ ?_)
    | split

theorem execAudioPortLocked_keeps {msk : Nat} {s0 : State} {port : Nat} {s : State} (hk0 : State.Keeps msk s0 s) (hm : Sub 0x1000006069000000000000000000800000000000000000000000000000000000000000000000001ffc1c58000000000000279000 msk) :
    Result.Keeps msk s0 (execAudioPortLocked port s) := by
  unfold execAudioPortLocked
  repeat' first
    | with_reducible assumption | exact Sub.of hm rfl | exact Has.of hm rfl | intro _
    | (extract_lets +onlyGivenNames x; first | (refine (have hx : State.Keeps msk s0 x := ?_; ?_); (on_goal 2 => clear_value x); (on_goal 1 => subst x)) | (refine (have hx : State.Keeps msk s0 x.1 := ?_; ?_); (on_goal 2 => clear_value x); (on_goal 1 => subst x)) | clear_value x)
    | (with_reducible first
        | refine Result.next_keeps ?_ | apply State.setAudState_keeps | apply State.setAudPort_keeps | apply State.fireAud_keeps
        | refine Result.ite_keeps ?_ ?_ | refine State.ite_keeps ?_ ?_)
    | split | with_reducible fail_if_no_progress refine State.mk_keeps ?_ ?_

theorem execAudioFadeDone_keeps {msk : Nat} {s0 : State} {port : Nat} {s : State} (hk0 : State.Keeps msk s0 s) (hm : Sub 0x8000000000000000000000000000000000000000000000000000000000000000000000000000 msk) :
    Result.Keeps msk s0 (execAudioFadeDone port s) := by
  unfold execAudioFadeDone
  repeat' first
    | with_reducible assumption | exact Sub.of hm rfl | exact Has.of hm rfl | intro _
    | (with_reducible first
        | refine Result.next_keeps ?_ | apply State.setAudState_keeps | refine Result.ite_keeps ?_ ?_ | refine State.ite_keeps ?_ ?_)
    | split

theorem State.closeCapture_keeps {msk : Nat} {s0 : State} {s : State} {p detail : Nat} (hk0 : State.Keeps msk s0 s) (hm : Sub 0x1000006069000000000000000000000000000000000000000000000000000000000000000000001ffc5c58000000000000279000 msk) :
    State.Keeps msk s0 (State.closeCapture s p detail) := by
  unfold State.closeCapture
  repeat' first
    | with_reducible assumption | exact Sub.of hm rfl | exact Has.of hm rfl | intro _
    | (extract_lets +onlyGivenNames x; first | (refine (have hx : State.Keeps msk s0 x := ?_; ?_); (on_goal 2 => clear_value x); (on_goal 1 => subst x)) | clear_value x)
    | with_reducible apply State.endAudio_keeps | split
    | (with_reducible first
        | refine State.Keeps.fst (by assumption) ?_ | fail_if_no_progress refine State.mk_keeps ?_ ?_)

theorem State.applyMask_keeps {msk : Nat} {s0 : State} {s : State} {k spt : Nat} {m : MaskOrder} (hk0 : State.Keeps msk s0 s) (hm : Sub 0x1000006069000000000000000001000000000000000000000000000000000000000000000000001ffc5c58000000000000279000 msk) :
    State.Keeps msk s0 (State.applyMask s k spt m) := by
  unfold State.applyMask
  repeat' first
    | with_reducible assumption | exact Sub.of hm rfl | exact Has.of hm rfl | intro _ | exact RegOf.AUD_MASK _ _
    | (extract_lets +onlyGivenNames x; first | (refine (have hx : State.Keeps msk s0 x := ?_; ?_); (on_goal 2 => clear_value x); (on_goal 1 => subst x)) | (refine (have hx : State.Keeps msk s0 x.1 := ?_; ?_); (on_goal 2 => clear_value x); (on_goal 1 => subst x)) | clear_value x)
    | (with_reducible first
        | apply State.closeCapture_keeps | apply Io.setF_keeps | apply State.setF_keeps | apply State.fireAud_keeps | apply State.on_keeps
        | apply Io.finish_keeps | apply State.on_keeps | refine State.ite_keeps ?_ ?_ | refine Io.ite_keeps ?_ ?_)
    | split
    | (with_reducible first
        | refine State.Keeps.fst (by assumption) ?_ | exact State.Keeps.io (by assumption) | fail_if_no_progress refine State.Keeps.io ?_
        | fail_if_no_progress refine State.mk_keeps ?_ ?_ | fail_if_no_progress refine Io.mk_keeps ?_)

theorem State.applyOrder_keeps {msk : Nat} {s0 : State} {s : State} {k spt : Nat} {o : AudioOrder} (hk0 : State.Keeps msk s0 s) (hm : Sub 0x1000006069000000000000000000030000000000000000000000000000000000000000000000001ffc5c58000000000000279000 msk) :
    State.Keeps msk s0 (State.applyOrder s k spt o) := by
  unfold State.applyOrder
  repeat' first
    | with_reducible assumption | exact Sub.of hm rfl | exact Has.of hm rfl | intro _ | exact RegOf.AUD_CAP_RUN
    | exact RegOf.AUD_PLAY_RUN
    | (extract_lets +onlyGivenNames x; first | (refine (have hx : State.Keeps msk s0 x := ?_; ?_); (on_goal 2 => clear_value x); (on_goal 1 => subst x)) | (refine (have hx : State.Keeps msk s0 x.1 := ?_; ?_); (on_goal 2 => clear_value x); (on_goal 1 => subst x)) | clear_value x)
    | (with_reducible first
        | apply Io.setF_keeps | apply State.setF_keeps | apply State.endAudio_keeps | apply State.closeCapture_keeps
        | apply State.setAudPort_keeps | apply State.on_keeps | apply Io.fires_keeps | apply State.fireAud_keeps | apply Io.finish_keeps
        | apply State.foldl_keeps | apply State.foldl_keeps_fst | apply Io.foldl_keeps | apply Io.foldl_keeps_fst | apply State.on_keeps
        | refine State.ite_keeps ?_ ?_ | refine Io.ite_keeps ?_ ?_)
    | split
    | (with_reducible first
        | refine State.Keeps.fst (by assumption) ?_ | exact State.Keeps.io (by assumption) | fail_if_no_progress refine State.Keeps.io ?_
        | fail_if_no_progress refine State.mk_keeps ?_ ?_ | fail_if_no_progress refine Io.mk_keeps ?_)

theorem State.startPort_keeps {msk : Nat} {s0 : State} {s : State} {p : Nat} (hk0 : State.Keeps msk s0 s) (hm : Sub 0x8000000000000000000000000000000000000000000000000000000000000000000000000000 msk) :
    State.Keeps msk s0 (State.startPort s p) := by
  unfold State.startPort
  repeat' first
    | with_reducible assumption | exact Sub.of hm rfl | exact Has.of hm rfl | intro _
    | (with_reducible first
        | apply State.setAudState_keeps | refine State.ite_keeps ?_ ?_)
    | split

theorem State.audioTick_keeps {msk : Nat} {s0 : State} {s : State} {jumped : Bool} (hk0 : State.Keeps msk s0 s) (hm : Sub 0x1000006069000000000000000001a37000000000000000000000000000000000000000000000001ffc5c58000000000000679000 msk) :
    State.Keeps msk s0 (State.audioTick s jumped) := by
  unfold State.audioTick
  repeat' first
    | with_reducible assumption | exact Sub.of hm rfl | exact Has.of hm rfl | intro _ | exact RegOf.AUD_SAMPLE_HI
    | exact RegOf.AUD_SAMPLE_LO | exact RegOf.AUD_STATE
    | (extract_lets +onlyGivenNames x; first | (refine (have hx : State.Keeps msk s0 x := ?_; ?_); (on_goal 2 => clear_value x); (on_goal 1 => subst x)) | (refine (have hx : State.Keeps msk s0 x.1 := ?_; ?_); (on_goal 2 => clear_value x); (on_goal 1 => subst x)) | clear_value x)
    | (with_reducible first
        | apply State.deliverTo_keeps | apply State.onAudio_keeps | apply Io.take_keeps | apply Io.setF_keeps | apply State.setF_keeps
        | apply State.on_keeps | apply Io.setWide_keeps | apply State.startPort_keeps | apply State.fireAud_keeps
        | apply State.applyMask_keeps | apply State.applyOrder_keeps | apply State.foldl_keeps | apply State.foldl_keeps_fst
        | apply Io.foldl_keeps | apply Io.foldl_keeps_fst | apply State.on_keeps | refine State.ite_keeps ?_ ?_ | refine Io.ite_keeps ?_ ?_)
    | split
    | (with_reducible first
        | refine State.Keeps.fst (by assumption) ?_ | exact State.Keeps.io (by assumption) | fail_if_no_progress refine State.Keeps.io ?_
        | fail_if_no_progress refine State.mk_keeps ?_ ?_ | fail_if_no_progress refine Io.mk_keeps ?_)

end Sys2Proof.Machine
end

