-- ==== Sys2Proof/Laws/KeepsMeter.lean ====
section
/-! SUPPORT. What the operations of Machine/Meter.lean keep. -/

set_option linter.unusedTactic false
set_option linter.unreachableTactic false
set_option linter.tactic.unusedName false

set_option Elab.async false

namespace Sys2Proof.Machine

theorem State.onMeter_keeps {msk : Nat} {s0 : State} {s : State} {f : MeterState → MeterState} (hk0 : State.Keeps msk s0 s) (hm : Sub 0x2000 msk) :
    State.Keeps msk s0 (State.onMeter s f) := by
  unfold State.onMeter
  repeat' first
    | with_reducible assumption | exact Sub.of hm rfl | exact Has.of hm rfl | intro _
    | (extract_lets +onlyGivenNames x; first | (refine (have hx : State.Keeps msk s0 x := ?_; ?_); (on_goal 2 => clear_value x); (on_goal 1 => subst x)) | (refine (have hx : State.Keeps msk s0 x.1 := ?_; ?_); (on_goal 2 => clear_value x); (on_goal 1 => subst x)) | (refine (have hx : Io.Keeps msk s0.io x := ?_; ?_); (on_goal 2 => clear_value x); (on_goal 1 => subst x)) | (refine (have hx : Io.Keeps msk s0.io x.1 := ?_; ?_); (on_goal 2 => clear_value x); (on_goal 1 => subst x)) | (refine (have hx : ∀ y, State.Keeps msk s0 (x y) := ?_; ?_); (on_goal 2 => clear_value x); (on_goal 1 => subst x)) | (refine (have hx : ∀ y, State.Keeps msk s0 (x y).1 := ?_; ?_); (on_goal 2 => clear_value x); (on_goal 1 => subst x)) | clear_value x)
    | (with_reducible first
        | apply hf | apply hx | refine State.Keeps.fst (by assumption) ?_ | refine Io.Keeps.fst (by assumption) ?_
        | exact State.Keeps.io (by assumption) | fail_if_no_progress refine State.Keeps.io ?_
        | fail_if_no_progress refine State.mk_keeps ?_ ?_ | fail_if_no_progress refine Io.mk_keeps ?_)

theorem State.setMpoint_keeps {msk : Nat} {s0 : State} {s : State} {p : Nat} {f : MeterPoint → MeterPoint} (hk0 : State.Keeps msk s0 s) (hm : Sub 0x2000 msk) :
    State.Keeps msk s0 (State.setMpoint s p f) := by
  unfold State.setMpoint
  repeat' first
    | with_reducible assumption | exact Sub.of hm rfl | exact Has.of hm rfl | intro _
    | (extract_lets +onlyGivenNames x; first | (refine (have hx : State.Keeps msk s0 x := ?_; ?_); (on_goal 2 => clear_value x); (on_goal 1 => subst x)) | clear_value x)
    | (with_reducible first
        | apply State.onMeter_keeps | fail_if_no_progress refine State.mk_keeps ?_ ?_)

theorem State.reportSeal_keeps {msk : Nat} {s0 : State} {s : State} (hk0 : State.Keeps msk s0 s) (hm : Sub 0x800000000000000000000000000000000000000000000000000000000000000000000000000000 msk) :
    State.Keeps msk s0 (State.reportSeal s) := by
  unfold State.reportSeal
  repeat' first
    | with_reducible assumption | exact Sub.of hm rfl | exact Has.of hm rfl | intro _ | exact RegOf.MTR_STATE
    | (extract_lets +onlyGivenNames x; first | (refine (have hx : State.Keeps msk s0 x := ?_; ?_); (on_goal 2 => clear_value x); (on_goal 1 => subst x)) | (refine (have hx : State.Keeps msk s0 x.1 := ?_; ?_); (on_goal 2 => clear_value x); (on_goal 1 => subst x)) | clear_value x)
    | (with_reducible first
        | apply Io.setF_keeps | apply State.setF_keeps)

theorem State.mirrorEntry_keeps {msk : Nat} {s0 : State} {s : State} {i : Nat} {e : List Byte} (hk0 : State.Keeps msk s0 s) (hm : Sub 0x80000000000000000000000000000000000000000000000000000000000000000000000000000000000 msk) :
    State.Keeps msk s0 (State.mirrorEntry s i e) := by
  unfold State.mirrorEntry
  repeat' first
    | with_reducible assumption | exact Sub.of hm rfl | exact Has.of hm rfl | intro _ | exact RegOf.MTR_LOG _
    | (with_reducible first
        | apply State.on_keeps | apply Io.setReg_keeps | apply State.foldl_keeps | apply State.foldl_keeps_fst | apply Io.foldl_keeps
        | apply Io.foldl_keeps_fst | apply State.on_keeps | exact State.Keeps.io (by assumption)
        | fail_if_no_progress refine State.Keeps.io ?_)

theorem State.reportLog_keeps {msk : Nat} {s0 : State} {s : State} (hk0 : State.Keeps msk s0 s) (hm : Sub 0x21000000000000000000000000000000000000000000000000000000000000000000000000000000 msk) :
    State.Keeps msk s0 (State.reportLog s) := by
  unfold State.reportLog
  repeat' first
    | with_reducible assumption | exact Sub.of hm rfl | exact Has.of hm rfl | intro _ | exact RegOf.MTR_HEALTH
    | exact RegOf.MTR_LOG_COUNT
    | (with_reducible first
        | apply Io.setF_keeps | apply State.setF_keeps)

theorem State.flushMeter_keeps {msk : Nat} {s0 : State} {s : State} (hk0 : State.Keeps msk s0 s) (hm : Sub 0x1000006069000000000000000000000000000000000000000000000000000000000000000000001ffc1c5800000000000027a040 msk) :
    State.Keeps msk s0 (State.flushMeter s) := by
  unfold State.flushMeter
  repeat' first
    | with_reducible assumption | exact Sub.of hm rfl | exact Has.of hm rfl | intro _
    | (extract_lets +onlyGivenNames x; first | (refine (have hx : State.Keeps msk s0 x := ?_; ?_); (on_goal 2 => clear_value x); (on_goal 1 => subst x)) | (refine (have hx : State.Keeps msk s0 x.1 := ?_; ?_); (on_goal 2 => clear_value x); (on_goal 1 => subst x)) | clear_value x)
    | (with_reducible first
        | apply State.onMeter_keeps | apply State.onNvm_keeps | apply Io.emit_keeps | apply State.emit_keeps | apply State.nvmWrite_keeps
        | apply State.foldl_keeps | apply State.foldl_keeps_fst | refine State.ite_keeps ?_ ?_)
    | split
    | (with_reducible first
        | refine State.Keeps.fst (by assumption) ?_ | fail_if_no_progress refine State.mk_keeps ?_ ?_
        | fail_if_no_progress refine Io.eraseRing_keeps ?_ ?_)

theorem State.meterStore_keeps {msk : Nat} {s0 : State} {s : State} {off : Nat} {bs : List Byte} (hk0 : State.Keeps msk s0 s) (hm : Sub 0x1000006069000000000000000000000000000000000000000000000000000000000000000000001ffc1c5800000000000027a040 msk) :
    State.Keeps msk s0 (State.meterStore s off bs) := by
  unfold State.meterStore
  repeat' first
    | with_reducible assumption | exact Sub.of hm rfl | exact Has.of hm rfl | intro _
    | (extract_lets +onlyGivenNames x; first | (refine (have hx : State.Keeps msk s0 x := ?_; ?_); (on_goal 2 => clear_value x); (on_goal 1 => subst x)) | clear_value x)
    | (with_reducible first
        | apply State.onMeter_keeps | apply State.flushMeter_keeps | fail_if_no_progress refine State.mk_keeps ?_ ?_)

theorem State.storeConfig_keeps {msk : Nat} {s0 : State} {s : State} (hk0 : State.Keeps msk s0 s) (hm : Sub 0x1000006069000000000000000000000000000000000000000000000000000000000000000000001ffc1c5800000000000027a040 msk) :
    State.Keeps msk s0 (State.storeConfig s) := by
  unfold State.storeConfig
  repeat' first
    | with_reducible assumption | exact Sub.of hm rfl | exact Has.of hm rfl | intro _
    | (extract_lets +onlyGivenNames x; first | (refine (have hx : State.Keeps msk s0 x := ?_; ?_); (on_goal 2 => clear_value x); (on_goal 1 => subst x)) | (refine (have hx : State.Keeps msk s0 x.1 := ?_; ?_); (on_goal 2 => clear_value x); (on_goal 1 => subst x)) | clear_value x)
    | (with_reducible first
        | apply State.onMeter_keeps | apply State.meterStore_keeps | refine State.ite_keeps ?_ ?_)
    | split | with_reducible fail_if_no_progress refine State.mk_keeps ?_ ?_

theorem State.audit_keeps {msk : Nat} {s0 : State} {s : State} {kind points : Nat} {data : List Byte} (hk0 : State.Keeps msk s0 s) (hm : Sub 0x1000006069000000000008002100000000000000000000000000000000000000000000000000001ffc1c5800000000000027a040 msk) :
    State.Keeps msk s0 (State.audit s kind points data) := by
  unfold State.audit
  repeat' first
    | with_reducible assumption | exact Sub.of hm rfl | exact Has.of hm rfl | intro _
    | (extract_lets +onlyGivenNames x; first | (refine (have hx : State.Keeps msk s0 x := ?_; ?_); (on_goal 2 => clear_value x); (on_goal 1 => subst x)) | (refine (have hx : State.Keeps msk s0 x.1 := ?_; ?_); (on_goal 2 => clear_value x); (on_goal 1 => subst x)) | clear_value x)
    | (with_reducible first
        | apply State.onMeter_keeps | apply State.meterStore_keeps | apply State.mirrorEntry_keeps | apply State.reportLog_keeps
        | apply Io.fire_keeps | apply State.fire_keeps | fail_if_no_progress refine State.mk_keeps ?_ ?_)

theorem State.auditInfo_keeps {msk : Nat} {s0 : State} {s : State} {kind points : Nat} {data : List Byte} (hk0 : State.Keeps msk s0 s) (hm : Sub 0x1000006069000000000008006100000000000000000000000000000000000000000000000000001ffc1c5800000000000027a040 msk) :
    State.Keeps msk s0 (State.auditInfo s kind points data) := by
  unfold State.auditInfo
  repeat' first
    | with_reducible assumption | exact Sub.of hm rfl | exact Has.of hm rfl | intro _ | exact RegOf.MTR_LOG_DROPPED
    | (extract_lets +onlyGivenNames x; first | (refine (have hx : State.Keeps msk s0 x := ?_; ?_); (on_goal 2 => clear_value x); (on_goal 1 => subst x)) | (refine (have hx : State.Keeps msk s0 x.1 := ?_; ?_); (on_goal 2 => clear_value x); (on_goal 1 => subst x)) | clear_value x)
    | (with_reducible first
        | apply State.audit_keeps | apply Io.bumpF_keeps | apply State.bumpF_keeps | apply State.onMeter_keeps | apply Io.fire_keeps
        | apply State.fire_keeps | refine State.ite_keeps ?_ ?_)
    | split | with_reducible fail_if_no_progress refine State.mk_keeps ?_ ?_

theorem State.breakSeal_keeps {msk : Nat} {s0 : State} {s : State} (hk0 : State.Keeps msk s0 s) (hm : Sub 0x100000606900000000000800a180000000000000000000000000000000000000000000000000001ffc1c5800000000000027a040 msk) :
    State.Keeps msk s0 (State.breakSeal s) := by
  unfold State.breakSeal
  repeat' first
    | with_reducible assumption | exact Sub.of hm rfl | exact Has.of hm rfl | intro _ | exact RegOf.MTR_SEAL_BREAKS
    | (extract_lets +onlyGivenNames x; first | (refine (have hx : State.Keeps msk s0 x := ?_; ?_); (on_goal 2 => clear_value x); (on_goal 1 => subst x)) | (refine (have hx : State.Keeps msk s0 x.1 := ?_; ?_); (on_goal 2 => clear_value x); (on_goal 1 => subst x)) | clear_value x)
    | (with_reducible first
        | apply State.onMeter_keeps | apply State.audit_keeps | apply Io.setF_keeps | apply State.setF_keeps | apply State.reportSeal_keeps
        | apply Io.fire_keeps | apply State.fire_keeps | refine State.ite_keeps ?_ ?_)
    | split | with_reducible fail_if_no_progress refine State.mk_keeps ?_ ?_

theorem State.saveNow_keeps {msk : Nat} {s0 : State} {s : State} {shutdown : Bool} (hk0 : State.Keeps msk s0 s) (hm : Sub 0x1000006069000000000000000000000000000000000000000000000000000000000000000000001ffc1c5800000000000027a040 msk) :
    State.Keeps msk s0 (State.saveNow s shutdown) := by
  unfold State.saveNow
  repeat' first
    | with_reducible assumption | exact Sub.of hm rfl | exact Has.of hm rfl | intro _
    | (extract_lets +onlyGivenNames x; first | (refine (have hx : State.Keeps msk s0 x := ?_; ?_); (on_goal 2 => clear_value x); (on_goal 1 => subst x)) | (refine (have hx : State.Keeps msk s0 x.1 := ?_; ?_); (on_goal 2 => clear_value x); (on_goal 1 => subst x)) | clear_value x)
    | (with_reducible first
        | apply State.onMeter_keeps | apply State.meterStore_keeps | refine State.ite_keeps ?_ ?_)
    | split
    | (with_reducible first
        | refine State.Keeps.fst (by assumption) ?_ | fail_if_no_progress refine State.mk_keeps ?_ ?_)

theorem State.saveEnergy_keeps {msk : Nat} {s0 : State} {s : State} {shutdown : Bool} (hk0 : State.Keeps msk s0 s) (hm : Sub 0x1000006069000000000000000000000000000000000000000000000000000000000000000000001ffc1c5800000000000027a040 msk) :
    State.Keeps msk s0 (State.saveEnergy s shutdown) := by
  unfold State.saveEnergy
  repeat' first
    | with_reducible assumption | exact Sub.of hm rfl | exact Has.of hm rfl | intro _
    | (extract_lets +onlyGivenNames x; first | (refine (have hx : State.Keeps msk s0 x := ?_; ?_); (on_goal 2 => clear_value x); (on_goal 1 => subst x)) | clear_value x)
    | (with_reducible first
        | apply State.saveNow_keeps | apply State.onMeter_keeps | refine State.ite_keeps ?_ ?_)
    | split | with_reducible fail_if_no_progress refine State.mk_keeps ?_ ?_

theorem execEnergySave_keeps {msk : Nat} {s0 : State} {s : State} (hk0 : State.Keeps msk s0 s) (hm : Sub 0x1000006069000000000000000000000000000000000000000000000000000000000000000000001ffc1c5800000000000027a040 msk) :
    Result.Keeps msk s0 (execEnergySave s) := by
  unfold execEnergySave
  repeat' first
    | with_reducible assumption | exact Sub.of hm rfl | exact Has.of hm rfl | intro _
    | (extract_lets +onlyGivenNames x; first | (refine (have hx : State.Keeps msk s0 x := ?_; ?_); (on_goal 2 => clear_value x); (on_goal 1 => subst x)) | clear_value x)
    | (with_reducible first
        | refine Result.next_keeps ?_ | apply State.flushMeter_keeps | apply State.saveNow_keeps | refine Result.ite_keeps ?_ ?_
        | refine State.ite_keeps ?_ ?_ | refine Io.ite_keeps ?_ ?_)
    | split
    | (with_reducible first
        | refine State.Keeps.fst (by assumption) ?_ | exact State.Keeps.io (by assumption) | fail_if_no_progress refine State.Keeps.io ?_
        | fail_if_no_progress refine State.mk_keeps ?_ ?_ | fail_if_no_progress refine Io.mk_keeps ?_)

theorem execShutdownNotice_keeps {msk : Nat} {s0 : State} {s : State} (hk0 : State.Keeps msk s0 s) (hm : Sub 0x1000006069000000000000000000000000000000000000000000000000000000000000000000001ffc1c5800000000000027a040 msk) :
    Result.Keeps msk s0 (execShutdownNotice s) := by
  unfold execShutdownNotice
  repeat' first
    | with_reducible assumption | exact Sub.of hm rfl | exact Has.of hm rfl | intro _
    | (extract_lets +onlyGivenNames x; first | (refine (have hx : State.Keeps msk s0 x := ?_; ?_); (on_goal 2 => clear_value x); (on_goal 1 => subst x)) | clear_value x)
    | (with_reducible first
        | refine Result.next_keeps ?_ | apply State.onMeter_keeps | apply State.saveEnergy_keeps | refine Result.ite_keeps ?_ ?_
        | refine State.ite_keeps ?_ ?_ | refine Io.ite_keeps ?_ ?_)
    | split
    | (with_reducible first
        | exact State.Keeps.io (by assumption) | fail_if_no_progress refine State.Keeps.io ?_
        | fail_if_no_progress refine State.mk_keeps ?_ ?_ | fail_if_no_progress refine Io.mk_keeps ?_)

theorem State.clearMeterPage_keeps {msk : Nat} {s0 : State} {s : State} (hk0 : State.Keeps msk s0 s) (hm : Sub 0x80000000 msk) :
    State.Keeps msk s0 (State.clearMeterPage s) := by
  unfold State.clearMeterPage
  repeat' first
    | with_reducible assumption | exact Sub.of hm rfl | exact Has.of hm rfl | intro _ | exact RegOf.anyReg _
    | (extract_lets +onlyGivenNames x; first | (refine (have hx : State.Keeps msk s0 x := ?_; ?_); (on_goal 2 => clear_value x); (on_goal 1 => subst x)) | (refine (have hx : State.Keeps msk s0 x.1 := ?_; ?_); (on_goal 2 => clear_value x); (on_goal 1 => subst x)) | clear_value x)
    | (with_reducible first
        | apply State.on_keeps | apply State.on_keeps | exact State.Keeps.io (by assumption) | fail_if_no_progress refine State.Keeps.io ?_
        | fail_if_no_progress refine State.mk_keeps ?_ ?_ | fail_if_no_progress refine Io.mk_keeps ?_
        | fail_if_no_progress refine Io.filterRegs_keeps ?_ ?_)

theorem State.reportFirmware_keeps {msk : Nat} {s0 : State} {s : State} (hk0 : State.Keeps msk s0 s) (hm : Sub 0x411000000000000000000000000000000000000000000000000000000000000000000000000000000 msk) :
    State.Keeps msk s0 (State.reportFirmware s) := by
  unfold State.reportFirmware
  repeat' first
    | with_reducible assumption | exact Sub.of hm rfl | exact Has.of hm rfl | intro _ | exact RegOf.MTR_FW_DIGEST _
    | exact RegOf.MTR_FW_VERSION | exact RegOf.MTR_HEALTH
    | (extract_lets +onlyGivenNames x; first | (refine (have hx : State.Keeps msk s0 x := ?_; ?_); (on_goal 2 => clear_value x); (on_goal 1 => subst x)) | (refine (have hx : State.Keeps msk s0 x.1 := ?_; ?_); (on_goal 2 => clear_value x); (on_goal 1 => subst x)) | clear_value x)
    | (with_reducible first
        | apply Io.setF_keeps | apply State.setF_keeps | apply State.foldl_keeps | apply State.foldl_keeps_fst)

theorem State.reportEnergy_keeps {msk : Nat} {s0 : State} {s : State} {p : Nat} (hk0 : State.Keeps msk s0 s) (hm : Sub 0x2300000000000000000000000000000000000000000000000000000000000000000000000000000000000 msk) :
    State.Keeps msk s0 (State.reportEnergy s p) := by
  unfold State.reportEnergy
  repeat' first
    | with_reducible assumption | exact Sub.of hm rfl | exact Has.of hm rfl | intro _ | exact RegOf.MTR_ENERGY_HI _
    | exact RegOf.MTR_ENERGY_LO _ | exact RegOf.MTR_POINT_STAT _
    | (extract_lets +onlyGivenNames x; first | (refine (have hx : State.Keeps msk s0 x := ?_; ?_); (on_goal 2 => clear_value x); (on_goal 1 => subst x)) | (refine (have hx : State.Keeps msk s0 x.1 := ?_; ?_); (on_goal 2 => clear_value x); (on_goal 1 => subst x)) | clear_value x)
    | (with_reducible first
        | apply State.on_keeps | apply Io.setWide_keeps | apply Io.setF_keeps | apply State.setF_keeps | apply State.on_keeps
        | exact State.Keeps.io (by assumption) | fail_if_no_progress refine State.Keeps.io ?_)

theorem execMeterPowerOn_keeps {msk : Nat} {s0 : State} {calEn : Bool} {temp : Int} {s : State} (hk0 : State.Keeps msk s0 s) (hm : Sub 0x100100606900000086063804f780000100000000000200000000000060000000000000000000001ffc1c5800000000008037a540 msk) :
    Result.Keeps msk s0 (execMeterPowerOn calEn temp s) := by
  unfold execMeterPowerOn
  repeat' first
    | with_reducible assumption | exact Sub.of hm rfl | exact Has.of hm rfl | intro _ | exact RegOf.MTR_HEALTH
    | exact RegOf.MTR_INTERVAL_HI | exact RegOf.MTR_INTERVAL_LO | exact RegOf.MTR_SEAL_BREAKS
    | (extract_lets +onlyGivenNames x; first | (refine (have hx : State.Keeps msk s0 x := ?_; ?_); (on_goal 2 => clear_value x); (on_goal 1 => subst x)) | (refine (have hx : State.Keeps msk s0 x.1 := ?_; ?_); (on_goal 2 => clear_value x); (on_goal 1 => subst x)) | (refine (have hx : Io.Keeps msk s0.io x := ?_; ?_); (on_goal 2 => clear_value x); (on_goal 1 => subst x)) | (refine (have hx : Io.Keeps msk s0.io x.1 := ?_; ?_); (on_goal 2 => clear_value x); (on_goal 1 => subst x)) | (refine (have hx : ∀ y, State.Keeps msk s0 (x y) := ?_; ?_); (on_goal 2 => clear_value x); (on_goal 1 => subst x)) | (refine (have hx : ∀ y, State.Keeps msk s0 (x y).1 := ?_; ?_); (on_goal 2 => clear_value x); (on_goal 1 => subst x)) | clear_value x)
    | (with_reducible first
        | refine Result.next_keeps ?_ | apply State.clearMeterPage_keeps | apply State.reportEnergy_keeps | apply State.on_keeps
        | apply Io.setWide_keeps | apply State.reportFirmware_keeps | apply Io.setF_keeps | apply State.setF_keeps
        | apply State.mirrorEntry_keeps | apply State.reportLog_keeps | apply State.reportSeal_keeps | apply State.shutdown_keeps
        | apply State.auditInfo_keeps | apply Io.fire_keeps | apply State.fire_keeps | apply State.breakSeal_keeps | apply State.foldl_keeps
        | apply State.foldl_keeps_fst | apply Io.foldl_keeps | apply Io.foldl_keeps_fst | apply State.on_keeps | apply hx
        | refine Result.ite_keeps ?_ ?_ | refine State.ite_keeps ?_ ?_ | refine State.ite_keeps_fst ?_ ?_ | refine Io.ite_keeps ?_ ?_
        | refine Io.ite_keeps_fst ?_ ?_)
    | split
    | (with_reducible first
        | refine State.Keeps.fst (by assumption) ?_ | refine Io.Keeps.fst (by assumption) ?_ | exact State.Keeps.io (by assumption)
        | fail_if_no_progress refine State.Keeps.io ?_ | fail_if_no_progress refine State.mk_keeps ?_ ?_
        | fail_if_no_progress refine Io.mk_keeps ?_)

theorem execMeterPowerLoss_keeps {msk : Nat} {s0 : State} {s : State} (hk0 : State.Keeps msk s0 s) (hm : Sub 0x80102000 msk) :
    Result.Keeps msk s0 (execMeterPowerLoss s) := by
  unfold execMeterPowerLoss
  repeat' first
    | with_reducible assumption | exact Sub.of hm rfl | exact Has.of hm rfl | intro _
    | (extract_lets +onlyGivenNames x; first | (refine (have hx : State.Keeps msk s0 x := ?_; ?_); (on_goal 2 => clear_value x); (on_goal 1 => subst x)) | (refine (have hx : State.Keeps msk s0 x.1 := ?_; ?_); (on_goal 2 => clear_value x); (on_goal 1 => subst x)) | (refine (have hx : Io.Keeps msk s0.io x := ?_; ?_); (on_goal 2 => clear_value x); (on_goal 1 => subst x)) | (refine (have hx : Io.Keeps msk s0.io x.1 := ?_; ?_); (on_goal 2 => clear_value x); (on_goal 1 => subst x)) | (refine (have hx : ∀ y, State.Keeps msk s0 (x y) := ?_; ?_); (on_goal 2 => clear_value x); (on_goal 1 => subst x)) | (refine (have hx : ∀ y, State.Keeps msk s0 (x y).1 := ?_; ?_); (on_goal 2 => clear_value x); (on_goal 1 => subst x)) | clear_value x)
    | (with_reducible first
        | refine Result.next_keeps ?_ | apply State.onMeter_keeps | apply State.clearMeterPage_keeps | apply hx
        | refine Result.ite_keeps ?_ ?_ | refine State.ite_keeps ?_ ?_ | refine State.ite_keeps_fst ?_ ?_ | refine Io.ite_keeps ?_ ?_
        | refine Io.ite_keeps_fst ?_ ?_)
    | split
    | (with_reducible first
        | refine State.Keeps.fst (by assumption) ?_ | refine Io.Keeps.fst (by assumption) ?_ | exact State.Keeps.io (by assumption)
        | fail_if_no_progress refine State.Keeps.io ?_ | fail_if_no_progress refine State.mk_keeps ?_ ?_
        | fail_if_no_progress refine Io.mk_keeps ?_)

theorem State.measurePoint_keeps {msk : Nat} {s0 : State} {s : State} {fault : Bool} {p : Nat} {raw : List (Int × Int)} (hk0 : State.Keeps msk s0 s) (hm : Sub 0x10000060690000000003f0000000000000000000000000000000000000000000000000000000001ffc1c5800000000000027a000 msk) :
    State.Keeps msk s0 (State.measurePoint s fault p raw) := by
  unfold State.measurePoint
  repeat' first
    | with_reducible assumption | exact Sub.of hm rfl | exact Has.of hm rfl | intro _ | exact RegOf.MTR_IRMS _
    | exact RegOf.MTR_POINT_STAT _ | exact RegOf.MTR_POWER _ | exact RegOf.MTR_VRMS _
    | (extract_lets +onlyGivenNames x; first | (refine (have hx : State.Keeps msk s0 x := ?_; ?_); (on_goal 2 => clear_value x); (on_goal 1 => subst x)) | (refine (have hx : State.Keeps msk s0 x.1 := ?_; ?_); (on_goal 2 => clear_value x); (on_goal 1 => subst x)) | clear_value x)
    | (with_reducible first
        | apply Io.setF_keeps | apply State.setF_keeps | apply State.setMpoint_keeps | apply Io.take_keeps | apply State.on_keeps
        | apply Io.fireObj_keeps | apply State.reportEnergy_keeps | apply State.on_keeps | refine State.ite_keeps ?_ ?_
        | refine Io.ite_keeps ?_ ?_)
    | split
    | (with_reducible first
        | refine State.Keeps.fst (by assumption) ?_ | exact State.Keeps.io (by assumption) | fail_if_no_progress refine State.Keeps.io ?_
        | fail_if_no_progress refine State.mk_keeps ?_ ?_ | fail_if_no_progress refine Io.mk_keeps ?_)

theorem State.calResult_keeps {msk : Nat} {s0 : State} {s : State} {r : Nat} (hk0 : State.Keeps msk s0 s) (hm : Sub 0x10000000000000000000000000000000000000000000000000000000000000000000000000000000000 msk) :
    State.Keeps msk s0 (State.calResult s r) := by
  unfold State.calResult
  repeat' first
    | with_reducible assumption | exact Sub.of hm rfl | exact Has.of hm rfl | intro _ | exact RegOf.MTR_CAL_STAT
    | (with_reducible first
        | apply Io.setF_keeps | apply State.setF_keeps)

theorem State.calEnd_keeps {msk : Nat} {s0 : State} {s : State} {r : CalRun} (hk0 : State.Keeps msk s0 s) (hm : Sub 0x10000000000000000000000000000000000000000000000000000000000000000000000000000002000 msk) :
    State.Keeps msk s0 (State.calEnd s r) := by
  unfold State.calEnd
  repeat' first
    | with_reducible assumption | exact Sub.of hm rfl | exact Has.of hm rfl | intro _
    | (extract_lets +onlyGivenNames x; first | (refine (have hx : State.Keeps msk s0 x := ?_; ?_); (on_goal 2 => clear_value x); (on_goal 1 => subst x)) | (refine (have hx : State.Keeps msk s0 x.1 := ?_; ?_); (on_goal 2 => clear_value x); (on_goal 1 => subst x)) | clear_value x)
    | (with_reducible first
        | apply State.onMeter_keeps | apply State.setMpoint_keeps | apply State.calResult_keeps | refine State.ite_keeps ?_ ?_)
    | split
    | (with_reducible first
        | refine State.Keeps.fst (by assumption) ?_ | fail_if_no_progress refine State.mk_keeps ?_ ?_)

theorem State.calAverage_keeps {msk : Nat} {s0 : State} {s : State} {fault : Bool} {samples : List (List (Int × Int))} (hk0 : State.Keeps msk s0 s) (hm : Sub 0x10000000000000000000000000000000000000000000000000000000000000000000000000000002000 msk) :
    State.Keeps msk s0 (State.calAverage s fault samples) := by
  unfold State.calAverage
  repeat' first
    | with_reducible assumption | exact Sub.of hm rfl | exact Has.of hm rfl | intro _
    | (extract_lets +onlyGivenNames x; first | (refine (have hx : State.Keeps msk s0 x := ?_; ?_); (on_goal 2 => clear_value x); (on_goal 1 => subst x)) | (refine (have hx : State.Keeps msk s0 x.1 := ?_; ?_); (on_goal 2 => clear_value x); (on_goal 1 => subst x)) | clear_value x)
    | (with_reducible first
        | apply State.calEnd_keeps | apply State.onMeter_keeps | refine State.ite_keeps ?_ ?_)
    | split
    | (with_reducible first
        | refine State.Keeps.fst (by assumption) ?_ | fail_if_no_progress refine State.mk_keeps ?_ ?_)

theorem State.takeRequest_keeps {msk : Nat} {s0 : State} {s : State} (hk0 : State.Keeps msk s0 s) (hm : Sub 0x1000006069000000000000000000000000000000000000000000000000000000000000000000001ffc1c5800000000000027a040 msk) :
    State.Keeps msk s0 (State.takeRequest s) := by
  unfold State.takeRequest
  repeat' first
    | with_reducible assumption | exact Sub.of hm rfl | exact Has.of hm rfl | intro _
    | (extract_lets +onlyGivenNames x; first | (refine (have hx : State.Keeps msk s0 x := ?_; ?_); (on_goal 2 => clear_value x); (on_goal 1 => subst x)) | (refine (have hx : State.Keeps msk s0 x.1 := ?_; ?_); (on_goal 2 => clear_value x); (on_goal 1 => subst x)) | clear_value x)
    | (with_reducible first
        | apply Io.request_keeps | apply State.onMeter_keeps | apply State.saveNow_keeps | refine State.ite_keeps ?_ ?_)
    | split
    | (with_reducible first
        | refine State.Keeps.fst (by assumption) ?_ | fail_if_no_progress refine State.mk_keeps ?_ ?_)

theorem execRecordSigned_keeps {msk : Nat} {s0 : State} {s : State} (hk0 : State.Keeps msk s0 s) (hm : Sub 0x1000006069000000000004030000000000000000000000000000000000000000000000000000001ffc1c5800000000000027a000 msk) :
    Result.Keeps msk s0 (execRecordSigned s) := by
  unfold execRecordSigned
  repeat' first
    | with_reducible assumption | exact Sub.of hm rfl | exact Has.of hm rfl | intro _ | exact RegOf.MTR_REC _
    | exact RegOf.MTR_REC_REQ | exact RegOf.MTR_REC_STAT
    | (extract_lets +onlyGivenNames x; first | (refine (have hx : State.Keeps msk s0 x := ?_; ?_); (on_goal 2 => clear_value x); (on_goal 1 => subst x)) | (refine (have hx : State.Keeps msk s0 x.1 := ?_; ?_); (on_goal 2 => clear_value x); (on_goal 1 => subst x)) | clear_value x)
    | (with_reducible first
        | refine Result.next_keeps ?_ | apply Io.setF_keeps | apply State.setF_keeps | apply State.onMeter_keeps | apply Io.fire_keeps
        | apply State.fire_keeps | apply State.foldl_keeps | apply State.foldl_keeps_fst | apply Io.foldl_keeps | apply Io.foldl_keeps_fst
        | refine Result.ite_keeps ?_ ?_ | refine State.ite_keeps ?_ ?_ | refine Io.ite_keeps ?_ ?_)
    | split
    | (with_reducible first
        | refine State.Keeps.fst (by assumption) ?_ | exact State.Keeps.io (by assumption) | fail_if_no_progress refine State.Keeps.io ?_
        | fail_if_no_progress refine State.mk_keeps ?_ ?_ | fail_if_no_progress refine Io.mk_keeps ?_)

theorem State.recordRead_keeps {msk : Nat} {s0 : State} {s : State} (hk0 : State.Keeps msk s0 s) (hm : Sub 0x100000000000000000000000000000000000000000000000000000000000000000000000000002000 msk) :
    State.Keeps msk s0 (State.recordRead s).1 := by
  unfold State.recordRead
  repeat' first
    | with_reducible assumption | exact Sub.of hm rfl | exact Has.of hm rfl | intro _ | exact RegOf.MTR_REC_REQ
    | (extract_lets +onlyGivenNames x; first | (refine (have hx : State.Keeps msk s0 x := ?_; ?_); (on_goal 2 => clear_value x); (on_goal 1 => subst x)) | (refine (have hx : State.Keeps msk s0 x.1 := ?_; ?_); (on_goal 2 => clear_value x); (on_goal 1 => subst x)) | clear_value x)
    | (with_reducible first
        | apply Io.setF_keeps | apply State.setF_keeps | apply State.onMeter_keeps | refine State.ite_keeps ?_ ?_
        | refine State.ite_keeps_fst ?_ ?_ | refine Io.ite_keeps ?_ ?_ | refine Io.ite_keeps_fst ?_ ?_)
    | split
    | (with_reducible first
        | exact State.Keeps.io (by assumption) | fail_if_no_progress refine State.Keeps.io ?_
        | fail_if_no_progress refine State.mk_keeps ?_ ?_ | fail_if_no_progress refine Io.mk_keeps ?_)

theorem State.meterBoundary_keeps {msk : Nat} {s0 : State} {s : State} (hk0 : State.Keeps msk s0 s) (hm : Sub 0x1000006069000000000201041180000000000000000000000000000000000000000000000000001ffc1c5800000000000027a000 msk) :
    State.Keeps msk s0 (State.meterBoundary s) := by
  unfold State.meterBoundary
  repeat' first
    | with_reducible assumption | exact Sub.of hm rfl | exact Has.of hm rfl | intro _ | exact RegOf.MTR_CAL_STAT
    | exact RegOf.MTR_POINT_STAT _ | exact RegOf.MTR_STATE
    | (extract_lets +onlyGivenNames x; first | (refine (have hx : State.Keeps msk s0 x := ?_; ?_); (on_goal 2 => clear_value x); (on_goal 1 => subst x)) | (refine (have hx : State.Keeps msk s0 x.1 := ?_; ?_); (on_goal 2 => clear_value x); (on_goal 1 => subst x)) | clear_value x)
    | (with_reducible first
        | apply State.onMeter_keeps | apply Io.setF_keeps | apply State.setF_keeps | apply State.reportFirmware_keeps | apply Io.fire_keeps
        | apply State.fire_keeps | apply State.foldl_keeps | apply State.foldl_keeps_fst | refine State.ite_keeps ?_ ?_)
    | split
    | (with_reducible first
        | refine State.Keeps.fst (by assumption) ?_ | fail_if_no_progress refine State.mk_keeps ?_ ?_)

theorem execMeterInterval_keeps {msk : Nat} {s0 : State} {mclk : Nat} {samples : List (List (Int × Int))} {temp : Int} {s : State} (hk0 : State.Keeps msk s0 s) (hm : Sub 0x10000060690000000003f9047f80000000000000000000000000000000000000000000000000001ffc1c5800000000000027a0c0 msk) :
    Result.Keeps msk s0 (execMeterInterval mclk samples temp s) := by
  unfold execMeterInterval
  repeat' first
    | with_reducible assumption | exact Sub.of hm rfl | exact Has.of hm rfl | intro _ | exact RegOf.MTR_HEALTH
    | exact RegOf.MTR_INTERVAL_HI | exact RegOf.MTR_INTERVAL_LO | exact RegOf.MTR_MCLK_MEAS | exact RegOf.MTR_STATE
    | (extract_lets +onlyGivenNames x; first | (refine (have hx : State.Keeps msk s0 x := ?_; ?_); (on_goal 2 => clear_value x); (on_goal 1 => subst x)) | (refine (have hx : State.Keeps msk s0 x.1 := ?_; ?_); (on_goal 2 => clear_value x); (on_goal 1 => subst x)) | clear_value x)
    | (with_reducible first
        | refine Result.next_keeps ?_ | apply State.onMeter_keeps | apply Io.setF_keeps | apply State.setF_keeps
        | apply State.auditInfo_keeps | apply Io.fire_keeps | apply State.fire_keeps | apply State.measurePoint_keeps | apply State.on_keeps
        | apply Io.setWide_keeps | apply State.calAverage_keeps | apply State.meterBoundary_keeps | apply State.takeRequest_keeps
        | apply State.flushMeter_keeps | apply State.saveNow_keeps | apply State.onTherm_keeps | apply State.foldl_keeps
        | apply State.foldl_keeps_fst | apply Io.foldl_keeps | apply Io.foldl_keeps_fst | apply State.on_keeps
        | refine Result.ite_keeps ?_ ?_ | refine State.ite_keeps ?_ ?_ | refine Io.ite_keeps ?_ ?_)
    | split
    | (with_reducible first
        | refine State.Keeps.fst (by assumption) ?_ | exact State.Keeps.io (by assumption) | fail_if_no_progress refine State.Keeps.io ?_
        | fail_if_no_progress refine State.mk_keeps ?_ ?_ | fail_if_no_progress refine Io.mk_keeps ?_)

theorem execBitstreamStuck_keeps {msk : Nat} {s0 : State} {point : Nat} {s : State} (hk0 : State.Keeps msk s0 s) (hm : Sub 0x1000006069000000000200000000000000000000000000000000000000000000000000000000001ffc1c5800000000000027a000 msk) :
    Result.Keeps msk s0 (execBitstreamStuck point s) := by
  unfold execBitstreamStuck
  repeat' first
    | with_reducible assumption | exact Sub.of hm rfl | exact Has.of hm rfl | intro _ | exact RegOf.MTR_POINT_STAT _
    | (extract_lets +onlyGivenNames x; first | (refine (have hx : State.Keeps msk s0 x := ?_; ?_); (on_goal 2 => clear_value x); (on_goal 1 => subst x)) | (refine (have hx : State.Keeps msk s0 x.1 := ?_; ?_); (on_goal 2 => clear_value x); (on_goal 1 => subst x)) | clear_value x)
    | (with_reducible first
        | refine Result.next_keeps ?_ | apply State.setMpoint_keeps | apply Io.setF_keeps | apply State.setF_keeps | apply State.on_keeps
        | apply Io.fireObj_keeps | apply State.on_keeps | refine Result.ite_keeps ?_ ?_ | refine State.ite_keeps ?_ ?_
        | refine Io.ite_keeps ?_ ?_)
    | split
    | (with_reducible first
        | exact State.Keeps.io (by assumption) | fail_if_no_progress refine State.Keeps.io ?_
        | fail_if_no_progress refine State.mk_keeps ?_ ?_ | fail_if_no_progress refine Io.mk_keeps ?_)

theorem State.calAbort_keeps {msk : Nat} {s0 : State} {s : State} (hk0 : State.Keeps msk s0 s) (hm : Sub 0x1000006069000000000009006180000000000000000000000000000000000000000000000000001ffc1c5800000000000027a040 msk) :
    State.Keeps msk s0 (State.calAbort s) := by
  unfold State.calAbort
  repeat' first
    | with_reducible assumption | exact Sub.of hm rfl | exact Has.of hm rfl | intro _ | exact RegOf.MTR_CAL_STAT
    | exact RegOf.MTR_STATE
    | (extract_lets +onlyGivenNames x; first | (refine (have hx : State.Keeps msk s0 x := ?_; ?_); (on_goal 2 => clear_value x); (on_goal 1 => subst x)) | (refine (have hx : State.Keeps msk s0 x.1 := ?_; ?_); (on_goal 2 => clear_value x); (on_goal 1 => subst x)) | clear_value x)
    | (with_reducible first
        | apply State.onMeter_keeps | apply Io.setF_keeps | apply State.setF_keeps | apply State.auditInfo_keeps | apply Io.fire_keeps
        | apply State.fire_keeps)
    | split | with_reducible fail_if_no_progress refine State.mk_keeps ?_ ?_

theorem execCalEnAssert_keeps {msk : Nat} {s0 : State} {s : State} (hk0 : State.Keeps msk s0 s) (hm : Sub 0x100000606900000000000800a180000000000000000000000000000000000000000000000000001ffc1c5800000000000027a040 msk) :
    Result.Keeps msk s0 (execCalEnAssert s) := by
  unfold execCalEnAssert
  repeat' first
    | with_reducible assumption | exact Sub.of hm rfl | exact Has.of hm rfl | intro _ | exact RegOf.MTR_HEALTH
    | (with_reducible first
        | refine Result.next_keeps ?_ | apply Io.setF_keeps | apply State.setF_keeps | apply State.breakSeal_keeps
        | refine Result.ite_keeps ?_ ?_ | refine State.ite_keeps ?_ ?_ | refine Io.ite_keeps ?_ ?_)
    | split
    | (with_reducible first
        | exact State.Keeps.io (by assumption) | fail_if_no_progress refine State.Keeps.io ?_)

theorem execCalEnRelease_keeps {msk : Nat} {s0 : State} {s : State} (hk0 : State.Keeps msk s0 s) (hm : Sub 0x1000006069000000000009006180000000000000000000000000000000000000000000000000001ffc1c5800000000000027a040 msk) :
    Result.Keeps msk s0 (execCalEnRelease s) := by
  unfold execCalEnRelease
  repeat' first
    | with_reducible assumption | exact Sub.of hm rfl | exact Has.of hm rfl | intro _ | exact RegOf.MTR_CAL_STAT
    | exact RegOf.MTR_HEALTH
    | (extract_lets +onlyGivenNames x; first | (refine (have hx : State.Keeps msk s0 x := ?_; ?_); (on_goal 2 => clear_value x); (on_goal 1 => subst x)) | (refine (have hx : State.Keeps msk s0 x.1 := ?_; ?_); (on_goal 2 => clear_value x); (on_goal 1 => subst x)) | clear_value x)
    | (with_reducible first
        | refine Result.next_keeps ?_ | apply Io.setF_keeps | apply State.setF_keeps | apply State.calAbort_keeps
        | apply State.onMeter_keeps | apply State.reportSeal_keeps | apply Io.fire_keeps | apply State.fire_keeps
        | refine Result.ite_keeps ?_ ?_ | refine State.ite_keeps ?_ ?_ | refine Io.ite_keeps ?_ ?_)
    | split
    | (with_reducible first
        | exact State.Keeps.io (by assumption) | fail_if_no_progress refine State.Keeps.io ?_
        | fail_if_no_progress refine State.mk_keeps ?_ ?_ | fail_if_no_progress refine Io.mk_keeps ?_)

theorem State.calStart_keeps {msk : Nat} {s0 : State} {s : State} (hk0 : State.Keeps msk s0 s) (hm : Sub 0x1000006069000000000001000080000000000000000000000000000000000000000000000000001ffc1c5800000000000027a000 msk) :
    State.Keeps msk s0 (State.calStart s) := by
  unfold State.calStart
  repeat' first
    | with_reducible assumption | exact Sub.of hm rfl | exact Has.of hm rfl | intro _ | exact RegOf.MTR_CAL_STAT
    | exact RegOf.MTR_STATE
    | (extract_lets +onlyGivenNames x; first | (refine (have hx : State.Keeps msk s0 x := ?_; ?_); (on_goal 2 => clear_value x); (on_goal 1 => subst x)) | (refine (have hx : State.Keeps msk s0 x.1 := ?_; ?_); (on_goal 2 => clear_value x); (on_goal 1 => subst x)) | clear_value x)
    | (with_reducible first
        | apply State.calResult_keeps | apply State.onMeter_keeps | apply Io.setF_keeps | apply State.setF_keeps | apply Io.fire_keeps
        | apply State.fire_keeps | refine State.ite_keeps ?_ ?_)
    | split | with_reducible fail_if_no_progress refine State.mk_keeps ?_ ?_

theorem State.calPoint_keeps {msk : Nat} {s0 : State} {s : State} {run : Nat → State → State} (hk0 : State.Keeps msk s0 s) (hrun : ∀ x0 x1, State.Keeps msk s0 x1 → State.Keeps msk s0 (run x0 x1)) (hm : Sub 0x10000000000000000000000000000000000000000000000000000000000000000000000000000000000 msk) :
    State.Keeps msk s0 (State.calPoint s run) := by
  unfold State.calPoint
  repeat' first
    | with_reducible assumption | exact Sub.of hm rfl | exact Has.of hm rfl | intro _
    | (extract_lets +onlyGivenNames x; first | (refine (have hx : State.Keeps msk s0 x := ?_; ?_); (on_goal 2 => clear_value x); (on_goal 1 => subst x)) | (refine (have hx : State.Keeps msk s0 x.1 := ?_; ?_); (on_goal 2 => clear_value x); (on_goal 1 => subst x)) | clear_value x)
    | (with_reducible first
        | apply hrun | apply State.calResult_keeps | refine State.ite_keeps ?_ ?_)
    | split

theorem State.calRun_keeps {msk : Nat} {s0 : State} {s : State} {cmd : Nat} (hk0 : State.Keeps msk s0 s) (hm : Sub 0x10000000000000000000000000000000000000000000000000000000000000000000000000000002000 msk) :
    State.Keeps msk s0 (State.calRun s cmd) := by
  unfold State.calRun
  repeat' first
    | with_reducible assumption | exact Sub.of hm rfl | exact Has.of hm rfl | intro _ | exact RegOf.MTR_CAL_STAT
    | (extract_lets +onlyGivenNames x; first | (refine (have hx : State.Keeps msk s0 x := ?_; ?_); (on_goal 2 => clear_value x); (on_goal 1 => subst x)) | clear_value x)
    | (with_reducible first
        | apply State.calPoint_keeps | apply State.onMeter_keeps | apply Io.setF_keeps | apply State.setF_keeps)
    | split | with_reducible fail_if_no_progress refine State.mk_keeps ?_ ?_

theorem State.calDelay_keeps {msk : Nat} {s0 : State} {s : State} (hk0 : State.Keeps msk s0 s) (hm : Sub 0x10000000000000000000000000000000000000000000000000000000000000000000000000000002000 msk) :
    State.Keeps msk s0 (State.calDelay s) := by
  unfold State.calDelay
  repeat' first
    | with_reducible assumption | exact Sub.of hm rfl | exact Has.of hm rfl | intro _
    | (extract_lets +onlyGivenNames x; first | (refine (have hx : State.Keeps msk s0 x := ?_; ?_); (on_goal 2 => clear_value x); (on_goal 1 => subst x)) | clear_value x)
    | (with_reducible first
        | apply State.calPoint_keeps | apply State.setMpoint_keeps | apply State.calResult_keeps
        | fail_if_no_progress refine State.mk_keeps ?_ ?_)

theorem State.calCommit_keeps {msk : Nat} {s0 : State} {s : State} (hk0 : State.Keeps msk s0 s) (hm : Sub 0x1000006069000000000209002100000000000000000000000000000000000000000000000000001ffc1c5800000000000027a040 msk) :
    State.Keeps msk s0 (State.calCommit s) := by
  unfold State.calCommit
  repeat' first
    | with_reducible assumption | exact Sub.of hm rfl | exact Has.of hm rfl | intro _ | exact RegOf.MTR_POINT_STAT _
    | (extract_lets +onlyGivenNames x; first | (refine (have hx : State.Keeps msk s0 x := ?_; ?_); (on_goal 2 => clear_value x); (on_goal 1 => subst x)) | (refine (have hx : State.Keeps msk s0 x.1 := ?_; ?_); (on_goal 2 => clear_value x); (on_goal 1 => subst x)) | clear_value x)
    | (with_reducible first
        | apply State.calResult_keeps | apply State.onMeter_keeps | apply Io.setF_keeps | apply State.setF_keeps
        | apply State.storeConfig_keeps | apply State.audit_keeps | apply Io.fire_keeps | apply State.fire_keeps | apply State.foldl_keeps
        | apply State.foldl_keeps_fst | refine State.ite_keeps ?_ ?_)
    | split
    | (with_reducible first
        | refine State.Keeps.fst (by assumption) ?_ | fail_if_no_progress refine State.mk_keeps ?_ ?_)

theorem State.calSeal_keeps {msk : Nat} {s0 : State} {s : State} (hk0 : State.Keeps msk s0 s) (hm : Sub 0x1000006069000000000009002100000000000000000000000000000000000000000000000000001ffc1c5800000000000027a040 msk) :
    State.Keeps msk s0 (State.calSeal s) := by
  unfold State.calSeal
  repeat' first
    | with_reducible assumption | exact Sub.of hm rfl | exact Has.of hm rfl | intro _ | exact RegOf.MTR_CAL_STAT
    | (extract_lets +onlyGivenNames x; first | (refine (have hx : State.Keeps msk s0 x := ?_; ?_); (on_goal 2 => clear_value x); (on_goal 1 => subst x)) | (refine (have hx : State.Keeps msk s0 x.1 := ?_; ?_); (on_goal 2 => clear_value x); (on_goal 1 => subst x)) | clear_value x)
    | (with_reducible first
        | apply State.calResult_keeps | apply State.audit_keeps | apply Io.setF_keeps | apply State.setF_keeps
        | refine State.ite_keeps ?_ ?_ | refine Io.ite_keeps ?_ ?_)
    | split
    | (with_reducible first
        | exact State.Keeps.io (by assumption) | fail_if_no_progress refine State.Keeps.io ?_)

theorem State.calCommand_keeps {msk : Nat} {s0 : State} {s : State} {v : Nat} (hk0 : State.Keeps msk s0 s) (hm : Sub 0x1000006069000000000209086180000000000000000000000000000000000000000000000000001ffc1c5800000000000027a040 msk) :
    State.Keeps msk s0 (State.calCommand s v) := by
  unfold State.calCommand
  repeat' first
    | with_reducible assumption | exact Sub.of hm rfl | exact Has.of hm rfl | intro _ | exact RegOf.MTR_CAL_CMD
    | exact RegOf.MTR_CAL_STAT
    | (extract_lets +onlyGivenNames x; first | (refine (have hx : State.Keeps msk s0 x := ?_; ?_); (on_goal 2 => clear_value x); (on_goal 1 => subst x)) | (refine (have hx : State.Keeps msk s0 x.1 := ?_; ?_); (on_goal 2 => clear_value x); (on_goal 1 => subst x)) | clear_value x)
    | (with_reducible first
        | apply Io.setF_keeps | apply State.setF_keeps | apply State.calResult_keeps | apply State.calStart_keeps | apply State.calRun_keeps
        | apply State.calDelay_keeps | apply State.calCommit_keeps | apply State.calAbort_keeps | apply State.calSeal_keeps
        | refine State.ite_keeps ?_ ?_ | refine Io.ite_keeps ?_ ?_)
    | split
    | (with_reducible first
        | refine State.Keeps.fst (by assumption) ?_ | exact State.Keeps.io (by assumption) | fail_if_no_progress refine State.Keeps.io ?_
        | fail_if_no_progress refine State.mk_keeps ?_ ?_ | fail_if_no_progress refine Io.mk_keeps ?_)

theorem execMeterActivationNotice_keeps {msk : Nat} {s0 : State} {verified : Bool} {s : State} (hk0 : State.Keeps msk s0 s) (hm : Sub 0x1000006069011040000008006100000000000000000000000000000000000000000000000000001ffc1c5800000000000027a040 msk) :
    Result.Keeps msk s0 (execMeterActivationNotice verified s) := by
  unfold execMeterActivationNotice
  repeat' first
    | with_reducible assumption | exact Sub.of hm rfl | exact Has.of hm rfl | intro _ | exact RegOf.MTR_HEALTH
    | (extract_lets +onlyGivenNames x; first | (refine (have hx : State.Keeps msk s0 x := ?_; ?_); (on_goal 2 => clear_value x); (on_goal 1 => subst x)) | (refine (have hx : State.Keeps msk s0 x.1 := ?_; ?_); (on_goal 2 => clear_value x); (on_goal 1 => subst x)) | clear_value x)
    | (with_reducible first
        | refine Result.next_keeps ?_ | apply State.meterStore_keeps | apply State.saveEnergy_keeps | apply State.audit_keeps
        | apply State.onMeter_keeps | apply State.onBoot_keeps | apply State.activationEnd_keeps | apply State.auditInfo_keeps
        | apply Io.setF_keeps | apply State.setF_keeps | apply Io.fire_keeps | apply State.fire_keeps | refine Result.ite_keeps ?_ ?_
        | refine State.ite_keeps ?_ ?_ | refine Io.ite_keeps ?_ ?_)
    | split
    | (with_reducible first
        | refine State.Keeps.fst (by assumption) ?_ | exact State.Keeps.io (by assumption) | fail_if_no_progress refine State.Keeps.io ?_
        | fail_if_no_progress refine State.mk_keeps ?_ ?_ | fail_if_no_progress refine Io.mk_keeps ?_)

end Sys2Proof.Machine
end

