-- ==== Sys2Proof/Laws/KeepsCompare.lean ====
section
/-! SUPPORT. What the operations of Machine/Compare.lean keep. -/

set_option linter.unusedTactic false
set_option linter.unreachableTactic false
set_option linter.tactic.unusedName false

set_option Elab.async false

namespace Sys2Proof.Machine

theorem State.deposePartner_keeps {msk : Nat} {s0 : State} {s : State} {cause : Nat} (hk0 : State.Keeps msk s0 s) (hm : Sub 0x200100 msk) :
    State.Keeps msk s0 (State.deposePartner s cause) := by
  unfold State.deposePartner
  repeat' first
    | with_reducible assumption | exact Sub.of hm rfl | exact Has.of hm rfl | intro _
    | (extract_lets +onlyGivenNames x; first | (refine (have hx : State.Keeps msk s0 x := ?_; ?_); (on_goal 2 => clear_value x); (on_goal 1 => subst x)) | (refine (have hx : State.Keeps msk s0 x.1 := ?_; ?_); (on_goal 2 => clear_value x); (on_goal 1 => subst x)) | clear_value x)
    | (with_reducible first
        | apply State.sendPair_keeps | apply State.onPair_keeps | refine State.ite_keeps ?_ ?_ | refine Io.ite_keeps ?_ ?_)
    | split
    | (with_reducible first
        | exact State.Keeps.io (by assumption) | fail_if_no_progress refine State.Keeps.io ?_
        | fail_if_no_progress refine State.mk_keeps ?_ ?_ | fail_if_no_progress refine Io.mk_keeps ?_)

theorem State.enterSuspect_keeps {msk : Nat} {s0 : State} {s : State} (hk0 : State.Keeps msk s0 s) (hm : Sub 0x1001006069000000000000000000000000000000000000000000004000000000000000000000001ffc1c58000000040000278100 msk) :
    State.Keeps msk s0 (State.enterSuspect s) := by
  unfold State.enterSuspect
  repeat' first
    | with_reducible assumption | exact Sub.of hm rfl | exact Has.of hm rfl | intro _ | exact RegOf.PAIR_STATE
    | (extract_lets +onlyGivenNames x; first | (refine (have hx : State.Keeps msk s0 x := ?_; ?_); (on_goal 2 => clear_value x); (on_goal 1 => subst x)) | (refine (have hx : State.Keeps msk s0 x.1 := ?_; ?_); (on_goal 2 => clear_value x); (on_goal 1 => subst x)) | clear_value x)
    | (with_reducible first
        | apply State.setPairState_keeps | apply State.alert_keeps | apply Io.bumpF_keeps | apply State.bumpF_keeps | apply Io.fire_keeps
        | apply State.fire_keeps | apply State.onPair_keeps | refine State.ite_keeps ?_ ?_ | refine Io.ite_keeps ?_ ?_)
    | split
    | (with_reducible first
        | exact State.Keeps.io (by assumption) | fail_if_no_progress refine State.Keeps.io ?_
        | fail_if_no_progress refine State.mk_keeps ?_ ?_ | fail_if_no_progress refine Io.mk_keeps ?_)

theorem State.decideMismatch_keeps {msk : Nat} {s0 : State} {s : State} {frame : Nat} (hk0 : State.Keeps msk s0 s) (hm : Sub 0x1001006069000000000000000000000000000000000000000001004000000000000000000000001ffc1c58000000040000278100 msk) :
    State.Keeps msk s0 (State.decideMismatch s frame) := by
  unfold State.decideMismatch
  repeat' first
    | with_reducible assumption | exact Sub.of hm rfl | exact Has.of hm rfl | intro _ | exact RegOf.PAIR_DECISIONS
    | (extract_lets +onlyGivenNames x; first | (refine (have hx : State.Keeps msk s0 x := ?_; ?_); (on_goal 2 => clear_value x); (on_goal 1 => subst x)) | (refine (have hx : State.Keeps msk s0 x.1 := ?_; ?_); (on_goal 2 => clear_value x); (on_goal 1 => subst x)) | clear_value x)
    | (with_reducible first
        | apply State.onPair_keeps | apply Io.bumpF_keeps | apply State.bumpF_keeps | apply Io.fire_keeps | apply State.fire_keeps
        | apply State.deposePartner_keeps | apply State.enterSuspect_keeps | refine State.ite_keeps ?_ ?_)
    | split | with_reducible fail_if_no_progress refine State.mk_keeps ?_ ?_

theorem State.setOutcome_keeps {msk : Nat} {s0 : State} {s : State} {e : Expect} {o : Nat} (hk0 : State.Keeps msk s0 s) (hm : Sub 0x100 msk) :
    State.Keeps msk s0 (State.setOutcome s e o) := by
  unfold State.setOutcome
  repeat' first
    | with_reducible assumption | exact Sub.of hm rfl | exact Has.of hm rfl | intro _
    | (extract_lets +onlyGivenNames x; first | (refine (have hx : State.Keeps msk s0 x := ?_; ?_); (on_goal 2 => clear_value x); (on_goal 1 => subst x)) | clear_value x)
    | (with_reducible first
        | apply State.onPair_keeps | refine State.ite_keeps ?_ ?_)
    | split | with_reducible fail_if_no_progress refine State.mk_keeps ?_ ?_

theorem State.judge_keeps {msk : Nat} {s0 : State} {s : State} {e : Expect} (hk0 : State.Keeps msk s0 s) (hm : Sub 0x1001006069000000000000000000000000000000000000000001004000000000000000000000001ffc1c58000000040000278100 msk) :
    State.Keeps msk s0 (State.judge s e) := by
  unfold State.judge
  repeat' first
    | with_reducible assumption | exact Sub.of hm rfl | exact Has.of hm rfl | intro _
    | (extract_lets +onlyGivenNames x; first | (refine (have hx : State.Keeps msk s0 x := ?_; ?_); (on_goal 2 => clear_value x); (on_goal 1 => subst x)) | (refine (have hx : State.Keeps msk s0 x.1 := ?_; ?_); (on_goal 2 => clear_value x); (on_goal 1 => subst x)) | clear_value x)
    | (with_reducible first
        | apply Io.take_keeps | apply State.decideMismatch_keeps | refine State.ite_keeps ?_ ?_)
    | split
    | (with_reducible first
        | refine State.Keeps.fst (by assumption) ?_ | fail_if_no_progress refine State.mk_keeps ?_ ?_)

theorem State.mismatch_keeps {msk : Nat} {s0 : State} {s : State} {e : Expect} {kind : Nat} (hk0 : State.Keeps msk s0 s) (hm : Sub 0x1001006069000000000000000000000000000000000000000005404000000000000000000000001ffc1c58000000040000278100 msk) :
    State.Keeps msk s0 (State.mismatch s e kind) := by
  unfold State.mismatch
  repeat' first
    | with_reducible assumption | exact Sub.of hm rfl | exact Has.of hm rfl | intro _ | exact RegOf.PAIR_LAST_MISMATCH
    | exact RegOf.PAIR_MISMATCHED
    | (extract_lets +onlyGivenNames x; first | (refine (have hx : State.Keeps msk s0 x := ?_; ?_); (on_goal 2 => clear_value x); (on_goal 1 => subst x)) | (refine (have hx : State.Keeps msk s0 x.1 := ?_; ?_); (on_goal 2 => clear_value x); (on_goal 1 => subst x)) | clear_value x)
    | (with_reducible first
        | apply State.setOutcome_keeps | apply Io.bumpF_keeps | apply State.bumpF_keeps | apply Io.setF_keeps | apply State.setF_keeps
        | apply State.on_keeps | apply Io.fireOnce_keeps | apply State.onPair_keeps | apply State.judge_keeps | apply State.on_keeps)
    | split
    | (with_reducible first
        | exact State.Keeps.io (by assumption) | fail_if_no_progress refine State.Keeps.io ?_
        | fail_if_no_progress refine State.mk_keeps ?_ ?_ | fail_if_no_progress refine Io.mk_keeps ?_)

theorem State.excused_keeps {msk : Nat} {s0 : State} {s : State} {e : Expect} (hk0 : State.Keeps msk s0 s) (hm : Sub 0x1001006069000000000000000000000000000000000000000001804000000000000000000000001ffc1c58000000040000278100 msk) :
    State.Keeps msk s0 (State.excused s e) := by
  unfold State.excused
  repeat' first
    | with_reducible assumption | exact Sub.of hm rfl | exact Has.of hm rfl | intro _ | exact RegOf.PAIR_EXCUSED
    | (with_reducible first
        | apply State.setOutcome_keeps | apply Io.bumpF_keeps | apply State.bumpF_keeps | apply State.judge_keeps)

theorem State.compared_keeps {msk : Nat} {s0 : State} {s : State} {chain : Nat} (hk0 : State.Keeps msk s0 s) (hm : Sub 0x3000000000000000000000000000000000000000000000000100 msk) :
    State.Keeps msk s0 (State.compared s chain) := by
  unfold State.compared
  repeat' first
    | with_reducible assumption | exact Sub.of hm rfl | exact Has.of hm rfl | intro _ | exact RegOf.PAIR_COMPARED_HI
    | exact RegOf.PAIR_COMPARED_LO
    | (extract_lets +onlyGivenNames x; first | (refine (have hx : State.Keeps msk s0 x := ?_; ?_); (on_goal 2 => clear_value x); (on_goal 1 => subst x)) | clear_value x)
    | (with_reducible first
        | apply State.on_keeps | apply Io.addWide_keeps | apply State.onPair_keeps | apply State.on_keeps | refine State.ite_keeps ?_ ?_
        | refine Io.ite_keeps ?_ ?_)
    | split
    | (with_reducible first
        | exact State.Keeps.io (by assumption) | fail_if_no_progress refine State.Keeps.io ?_
        | fail_if_no_progress refine State.mk_keeps ?_ ?_ | fail_if_no_progress refine Io.mk_keeps ?_)

theorem State.settlePair_keeps {msk : Nat} {s0 : State} {s : State} {x : Seen} {e : Expect} (hk0 : State.Keeps msk s0 s) (hm : Sub 0x1001006069000000000000000000000000000000000000000005f04000000000000000000000001ffc1c58000000040000278100 msk) :
    State.Keeps msk s0 (State.settlePair s x e) := by
  unfold State.settlePair
  repeat' first
    | with_reducible assumption | exact Sub.of hm rfl | exact Has.of hm rfl | intro _
    | (with_reducible first
        | apply State.excused_keeps | apply State.mismatch_keeps | apply State.setOutcome_keeps | apply State.compared_keeps
        | refine State.ite_keeps ?_ ?_)
    | split | with_reducible refine State.Keeps.fst (by assumption) ?_

theorem State.matchSeen_keeps {msk : Nat} {s0 : State} {s : State} {x : Seen} (hk0 : State.Keeps msk s0 s) (hm : Sub 0x1001006069000000000000000000000000000000000000000005f04000000000000000000000001ffc1c58000000040000278100 msk) :
    State.Keeps msk s0 (State.matchSeen s x) := by
  unfold State.matchSeen
  repeat' first
    | with_reducible assumption | exact Sub.of hm rfl | exact Has.of hm rfl | intro _
    | (extract_lets +onlyGivenNames x; first | (refine (have hx : State.Keeps msk s0 x := ?_; ?_); (on_goal 2 => clear_value x); (on_goal 1 => subst x)) | clear_value x)
    | (with_reducible first
        | apply State.settlePair_keeps | apply State.onPair_keeps | refine State.ite_keeps ?_ ?_)
    | split
    | (with_reducible first
        | refine State.Keeps.fst (by assumption) ?_ | fail_if_no_progress refine State.mk_keeps ?_ ?_)

theorem State.compareAll_keeps {msk : Nat} {s0 : State} {s : State} (hk0 : State.Keeps msk s0 s) (hm : Sub 0x1001006069000000000000000000000000000000000000000005f04000000000000000000000001ffc1c58000000040000278100 msk) :
    State.Keeps msk s0 (State.compareAll s) := by
  unfold State.compareAll
  repeat' first
    | with_reducible assumption | exact Sub.of hm rfl | exact Has.of hm rfl | intro _
    | (extract_lets +onlyGivenNames x; first | (refine (have hx : State.Keeps msk s0 x := ?_; ?_); (on_goal 2 => clear_value x); (on_goal 1 => subst x)) | (refine (have hx : State.Keeps msk s0 x.1 := ?_; ?_); (on_goal 2 => clear_value x); (on_goal 1 => subst x)) | clear_value x)
    | (with_reducible first
        | apply State.onPair_keeps | apply State.matchSeen_keeps | apply State.foldl_keeps | apply State.foldl_keeps_fst
        | refine State.ite_keeps ?_ ?_)
    | split
    | (with_reducible first
        | refine State.Keeps.fst (by assumption) ?_ | fail_if_no_progress refine State.mk_keeps ?_ ?_)

theorem State.strayed_keeps {msk : Nat} {s0 : State} {s : State} {frame : Nat} {x : Seen} (hk0 : State.Keeps msk s0 s) (hm : Sub 0x1001006069000000000000000000000000000000000000000005f04000000000000000000000001ffc1c58000000040000278100 msk) :
    State.Keeps msk s0 (State.strayed s frame x) := by
  unfold State.strayed
  repeat' first
    | with_reducible assumption | exact Sub.of hm rfl | exact Has.of hm rfl | intro _
    | (extract_lets +onlyGivenNames x; first | (refine (have hx : State.Keeps msk s0 x := ?_; ?_); (on_goal 2 => clear_value x); (on_goal 1 => subst x)) | clear_value x)
    | (with_reducible first
        | apply State.excused_keeps | apply State.compared_keeps | apply State.mismatch_keeps | refine State.ite_keeps ?_ ?_)
    | split
    | (with_reducible first
        | refine State.Keeps.fst (by assumption) ?_ | fail_if_no_progress refine State.mk_keeps ?_ ?_)

theorem State.comparisonDeadline_keeps {msk : Nat} {s0 : State} {s : State} {chain frame : Nat} (hk0 : State.Keeps msk s0 s) (hm : Sub 0x1001006069000000000000000000000000000000000000000005f04000000000000000000000001ffc1c58000000040000278100 msk) :
    State.Keeps msk s0 (State.comparisonDeadline s chain frame) := by
  unfold State.comparisonDeadline
  repeat' first
    | with_reducible assumption | exact Sub.of hm rfl | exact Has.of hm rfl | intro _
    | (extract_lets +onlyGivenNames x; first | (refine (have hx : State.Keeps msk s0 x := ?_; ?_); (on_goal 2 => clear_value x); (on_goal 1 => subst x)) | (refine (have hx : State.Keeps msk s0 x.1 := ?_; ?_); (on_goal 2 => clear_value x); (on_goal 1 => subst x)) | clear_value x)
    | (with_reducible first
        | apply State.onPair_keeps | apply State.strayed_keeps | apply State.excused_keeps | apply State.mismatch_keeps
        | apply State.foldl_keeps | apply State.foldl_keeps_fst | apply Io.foldl_keeps | apply Io.foldl_keeps_fst
        | refine State.ite_keeps ?_ ?_ | refine Io.ite_keeps ?_ ?_)
    | split
    | (with_reducible first
        | refine State.Keeps.fst (by assumption) ?_ | exact State.Keeps.io (by assumption) | fail_if_no_progress refine State.Keeps.io ?_
        | fail_if_no_progress refine State.mk_keeps ?_ ?_ | fail_if_no_progress refine Io.mk_keeps ?_)

theorem execComparisonDeadline_keeps {msk : Nat} {s0 : State} {chain frame : Nat} {s : State} (hk0 : State.Keeps msk s0 s) (hm : Sub 0x1001006069000000000000000000000000000000000000000005f04000000000000000000000001ffc1c58000000040000278100 msk) :
    Result.Keeps msk s0 (execComparisonDeadline chain frame s) := by
  unfold execComparisonDeadline
  repeat' first
    | with_reducible assumption | exact Sub.of hm rfl | exact Has.of hm rfl | intro _
    | (with_reducible first
        | refine Result.next_keeps ?_ | apply State.comparisonDeadline_keeps)

theorem execSegmentReceived_keeps {msk : Nat} {s0 : State} {port : Nat} {packet : List Byte} {aborted : Bool} {s : State} (hk0 : State.Keeps msk s0 s) (hm : Sub 0x1001006069000000000000000000000000000000000000000005f0406003a700000000000000001ffc1c58000000040000278302 msk) :
    Result.Keeps msk s0 (execSegmentReceived port packet aborted s) := by
  unfold execSegmentReceived
  repeat' first
    | with_reducible assumption | exact Sub.of hm rfl | exact Has.of hm rfl | intro _
    | (with_reducible first
        | refine Result.next_keeps ?_ | apply State.segmentReceived_keeps | apply State.compareAll_keeps)

theorem execEncodeSlot_keeps {msk : Nat} {s0 : State} {region slot : Nat} {late : Bool} {s : State} (hk0 : State.Keeps msk s0 s) (hm : Sub 0x1001006069000000000000000000000000000000000400000005f0406003a747ffe000000000001ffc1c58032000040000278303 msk) :
    Result.Keeps msk s0 (execEncodeSlot region slot late s) := by
  unfold execEncodeSlot
  repeat' first
    | with_reducible assumption | exact Sub.of hm rfl | exact Has.of hm rfl | intro _
    | (with_reducible first
        | refine Result.next_keeps ?_ | apply State.encodeSlot_keeps | apply State.compareAll_keeps)

theorem State.endCommits_keeps {msk : Nat} {s0 : State} {s : State} (hk0 : State.Keeps msk s0 s) (hm : Sub 0x1000006069000000000000000000000000000000000000000000000000000000000000000000001ffc1c58000000000000278200 msk) :
    State.Keeps msk s0 (State.endCommits s) := by
  unfold State.endCommits
  repeat' first
    | with_reducible assumption | exact Sub.of hm rfl | exact Has.of hm rfl | intro _
    | (extract_lets +onlyGivenNames x; first | (refine (have hx : State.Keeps msk s0 x := ?_; ?_); (on_goal 2 => clear_value x); (on_goal 1 => subst x)) | (refine (have hx : State.Keeps msk s0 x.1 := ?_; ?_); (on_goal 2 => clear_value x); (on_goal 1 => subst x)) | clear_value x)
    | (with_reducible first
        | apply State.commitEnd_keeps | apply State.onLay_keeps | apply State.foldl_keeps | apply State.foldl_keeps_fst)
    | split
    | (with_reducible first
        | refine State.Keeps.fst (by assumption) ?_ | fail_if_no_progress refine State.mk_keeps ?_ ?_)

theorem State.dropForward_keeps {msk : Nat} {s0 : State} {s : State} (hk0 : State.Keeps msk s0 s) (hm : Sub 0x2 msk) :
    State.Keeps msk s0 (State.dropForward s) := by
  unfold State.dropForward
  repeat' first
    | with_reducible assumption | exact Sub.of hm rfl | exact Has.of hm rfl | intro _
    | (extract_lets +onlyGivenNames x; first | (refine (have hx : State.Keeps msk s0 x := ?_; ?_); (on_goal 2 => clear_value x); (on_goal 1 => subst x)) | (refine (have hx : State.Keeps msk s0 x.1 := ?_; ?_); (on_goal 2 => clear_value x); (on_goal 1 => subst x)) | clear_value x)
    | (with_reducible first
        | apply State.setPort_keeps | apply State.foldl_keeps | apply State.foldl_keeps_fst
        | fail_if_no_progress refine State.mk_keeps ?_ ?_)

theorem State.standDown_keeps {msk : Nat} {s0 : State} {s : State} (hk0 : State.Keeps msk s0 s) (hm : Sub 0x1000006069000000000000000000000000000000000000000000024000800000000000000000001ffc1c58000000040000278303 msk) :
    State.Keeps msk s0 (State.standDown s) := by
  unfold State.standDown
  repeat' first
    | with_reducible assumption | exact Sub.of hm rfl | exact Has.of hm rfl | intro _
    | (extract_lets +onlyGivenNames x; first | (refine (have hx : State.Keeps msk s0 x := ?_; ?_); (on_goal 2 => clear_value x); (on_goal 1 => subst x)) | (refine (have hx : State.Keeps msk s0 x.1 := ?_; ?_); (on_goal 2 => clear_value x); (on_goal 1 => subst x)) | (refine (have hx : Io.Keeps msk s0.io x := ?_; ?_); (on_goal 2 => clear_value x); (on_goal 1 => subst x)) | (refine (have hx : Io.Keeps msk s0.io x.1 := ?_; ?_); (on_goal 2 => clear_value x); (on_goal 1 => subst x)) | (refine (have hx : ∀ y, State.Keeps msk s0 (x y) := ?_; ?_); (on_goal 2 => clear_value x); (on_goal 1 => subst x)) | (refine (have hx : ∀ y, State.Keeps msk s0 (x y).1 := ?_; ?_); (on_goal 2 => clear_value x); (on_goal 1 => subst x)) | clear_value x)
    | (with_reducible first
        | apply State.endCommits_keeps | apply State.dropForward_keeps | apply State.toJoining_keeps | apply State.onPair_keeps
        | apply State.setMode_keeps | apply State.updateOrigin_keeps | apply hx)
    | split
    | (with_reducible first
        | refine State.Keeps.fst (by assumption) ?_ | refine Io.Keeps.fst (by assumption) ?_ | exact State.Keeps.io (by assumption)
        | fail_if_no_progress refine State.Keeps.io ?_ | fail_if_no_progress refine State.mk_keeps ?_ ?_
        | fail_if_no_progress refine Io.mk_keeps ?_)

theorem State.becomeActive_keeps {msk : Nat} {s0 : State} {s : State} (hk0 : State.Keeps msk s0 s) (hm : Sub 0x1000006069000000000000000000000000000000000000000002054000800000000000000000001ffc1c58000000440000278101 msk) :
    State.Keeps msk s0 (State.becomeActive s) := by
  unfold State.becomeActive
  repeat' first
    | with_reducible assumption | exact Sub.of hm rfl | exact Has.of hm rfl | intro _ | exact RegOf.PAIR_EPOCH
    | exact RegOf.PAIR_FEED | exact RegOf.PAIR_TAKEOVERS | exact RegOf.TCK_REF_PERIOD | exact RegOf.TCK_STATE
    | (extract_lets +onlyGivenNames x; first | (refine (have hx : State.Keeps msk s0 x := ?_; ?_); (on_goal 2 => clear_value x); (on_goal 1 => subst x)) | (refine (have hx : State.Keeps msk s0 x.1 := ?_; ?_); (on_goal 2 => clear_value x); (on_goal 1 => subst x)) | clear_value x)
    | (with_reducible first
        | apply Io.setF_keeps | apply State.setF_keeps | apply State.setPairState_keeps | apply Io.bumpF_keeps | apply State.bumpF_keeps
        | apply State.joinPhase_keeps | apply State.setMode_keeps | apply Io.fire_keeps | apply State.fire_keeps | apply State.onPair_keeps
        | apply State.updateOrigin_keeps)
    | split
    | (with_reducible first
        | exact State.Keeps.io (by assumption) | fail_if_no_progress refine State.Keeps.io ?_
        | fail_if_no_progress refine State.mk_keeps ?_ ?_ | fail_if_no_progress refine Io.mk_keeps ?_)

theorem State.cleanTick_keeps {msk : Nat} {s0 : State} {s : State} (hk0 : State.Keeps msk s0 s) (hm : Sub 0x1000006069000000000000000000000000000000000000000000024000000000000000000000001ffc1c58000000040000278000 msk) :
    State.Keeps msk s0 (State.cleanTick s) := by
  unfold State.cleanTick
  repeat' first
    | with_reducible assumption | exact Sub.of hm rfl | exact Has.of hm rfl | intro _ | exact RegOf.PAIR_CLEAN
    | exact RegOf.PAIR_STATE
    | (extract_lets +onlyGivenNames x; first | (refine (have hx : State.Keeps msk s0 x := ?_; ?_); (on_goal 2 => clear_value x); (on_goal 1 => subst x)) | (refine (have hx : State.Keeps msk s0 x.1 := ?_; ?_); (on_goal 2 => clear_value x); (on_goal 1 => subst x)) | clear_value x)
    | (with_reducible first
        | apply State.joinPhase_keeps | apply Io.setF_keeps | apply State.setF_keeps | apply State.setPairState_keeps | apply Io.fire_keeps
        | apply State.fire_keeps | refine State.ite_keeps ?_ ?_ | refine Io.ite_keeps ?_ ?_)
    | split
    | (with_reducible first
        | refine State.Keeps.fst (by assumption) ?_ | exact State.Keeps.io (by assumption) | fail_if_no_progress refine State.Keeps.io ?_
        | fail_if_no_progress refine State.mk_keeps ?_ ?_ | fail_if_no_progress refine Io.mk_keeps ?_)

theorem State.startFeeding_keeps {msk : Nat} {s0 : State} {s : State} (hk0 : State.Keeps msk s0 s) (hm : Sub 0x1000006069000000000000000000000000000000000000000000040000800000000000000000001ffc1c58000000000000278100 msk) :
    State.Keeps msk s0 (State.startFeeding s) := by
  unfold State.startFeeding
  repeat' first
    | with_reducible assumption | exact Sub.of hm rfl | exact Has.of hm rfl | intro _ | exact RegOf.PAIR_FEED
    | (extract_lets +onlyGivenNames x; first | (refine (have hx : State.Keeps msk s0 x := ?_; ?_); (on_goal 2 => clear_value x); (on_goal 1 => subst x)) | (refine (have hx : State.Keeps msk s0 x.1 := ?_; ?_); (on_goal 2 => clear_value x); (on_goal 1 => subst x)) | clear_value x)
    | (with_reducible first
        | apply State.onPair_keeps | apply Io.setF_keeps | apply State.setF_keeps | apply Io.fire_keeps | apply State.fire_keeps
        | apply State.updateOrigin_keeps | apply State.foldl_keeps | apply State.foldl_keeps_fst | refine State.ite_keeps ?_ ?_)
    | split
    | (with_reducible first
        | refine State.Keeps.fst (by assumption) ?_ | fail_if_no_progress refine State.mk_keeps ?_ ?_)

theorem State.reuniteTick_keeps {msk : Nat} {s0 : State} {s : State} (hk0 : State.Keeps msk s0 s) (hm : Sub 0x1000006069000000000000000000000000000000000000000000040000800000000000000000001ffc1c58000000000000278100 msk) :
    State.Keeps msk s0 (State.reuniteTick s) := by
  unfold State.reuniteTick
  repeat' first
    | with_reducible assumption | exact Sub.of hm rfl | exact Has.of hm rfl | intro _ | exact RegOf.PAIR_FEED
    | (extract_lets +onlyGivenNames x; first | (refine (have hx : State.Keeps msk s0 x := ?_; ?_); (on_goal 2 => clear_value x); (on_goal 1 => subst x)) | (refine (have hx : State.Keeps msk s0 x.1 := ?_; ?_); (on_goal 2 => clear_value x); (on_goal 1 => subst x)) | clear_value x)
    | (with_reducible first
        | apply State.onPair_keeps | apply Io.setF_keeps | apply State.setF_keeps | apply Io.fire_keeps | apply State.fire_keeps
        | apply State.updateOrigin_keeps | apply State.foldl_keeps | apply State.foldl_keeps_fst | apply Io.foldl_keeps
        | apply Io.foldl_keeps_fst)
    | split
    | (with_reducible first
        | refine State.Keeps.fst (by assumption) ?_ | exact State.Keeps.io (by assumption) | fail_if_no_progress refine State.Keeps.io ?_
        | fail_if_no_progress refine State.mk_keeps ?_ ?_ | fail_if_no_progress refine Io.mk_keeps ?_)

theorem State.silentCheck_keeps {msk : Nat} {s0 : State} {s : State} (hk0 : State.Keeps msk s0 s) (hm : Sub 0x1001006069000000000000000000000000000000000000000000024000000000000000000000001ffc1c58000000040000278100 msk) :
    State.Keeps msk s0 (State.silentCheck s) := by
  unfold State.silentCheck
  repeat' first
    | with_reducible assumption | exact Sub.of hm rfl | exact Has.of hm rfl | intro _
    | (with_reducible first
        | apply State.alert_keeps | apply State.leaveLockstep_keeps | apply State.deposePartner_keeps | refine State.ite_keeps ?_ ?_)
    | split

end Sys2Proof.Machine
end

