-- ==== Sys2Proof/Laws/KeepsPair.lean ====
section
/-! SUPPORT. What the operations of Machine/Pair.lean keep. -/

set_option linter.unusedTactic false
set_option linter.unreachableTactic false
set_option linter.tactic.unusedName false

set_option Elab.async false

namespace Sys2Proof.Machine

theorem State.sendHello_keeps {msk : Nat} {s0 : State} {s : State} (hk0 : State.Keeps msk s0 s) (hm : Sub 0x200100 msk) :
    State.Keeps msk s0 (State.sendHello s) := by
  unfold State.sendHello
  repeat' first
    | with_reducible assumption | exact Sub.of hm rfl | exact Has.of hm rfl | intro _
    | (with_reducible first
        | apply State.sendPair_keeps | refine State.ite_keeps ?_ ?_)
    | split

theorem execHelloSend_keeps {msk : Nat} {s0 : State} {s : State} (hk0 : State.Keeps msk s0 s) (hm : Sub 0x200100 msk) :
    Result.Keeps msk s0 (execHelloSend s) := by
  unfold execHelloSend
  repeat' first
    | with_reducible assumption | exact Sub.of hm rfl | exact Has.of hm rfl | intro _
    | (with_reducible first
        | refine Result.next_keeps ?_ | apply State.sendHello_keeps)

theorem State.notePartner_keeps {msk : Nat} {s0 : State} {s : State} {b : List Byte} (hk0 : State.Keeps msk s0 s) (hm : Sub 0x1001006069000000000000000000000000000000000000000030004000000000000000000000001ffc1c58000000000000278100 msk) :
    State.Keeps msk s0 (State.notePartner s b) := by
  unfold State.notePartner
  repeat' first
    | with_reducible assumption | exact Sub.of hm rfl | exact Has.of hm rfl | intro _ | exact RegOf.PAIR_PARTNER_SERIAL_HI
    | exact RegOf.PAIR_PARTNER_SERIAL_LO | exact RegOf.PAIR_STATE
    | (extract_lets +onlyGivenNames x; first | (refine (have hx : State.Keeps msk s0 x := ?_; ?_); (on_goal 2 => clear_value x); (on_goal 1 => subst x)) | (refine (have hx : State.Keeps msk s0 x.1 := ?_; ?_); (on_goal 2 => clear_value x); (on_goal 1 => subst x)) | clear_value x)
    | (with_reducible first
        | apply State.onPair_keeps | apply State.on_keeps | apply Io.setWide_keeps | apply Io.setF_keeps | apply State.setF_keeps
        | apply State.alert_keeps | apply Io.fire_keeps | apply State.fire_keeps | apply State.on_keeps | refine State.ite_keeps ?_ ?_
        | refine Io.ite_keeps ?_ ?_)
    | split
    | (with_reducible first
        | exact State.Keeps.io (by assumption) | fail_if_no_progress refine State.Keeps.io ?_
        | fail_if_no_progress refine State.mk_keeps ?_ ?_ | fail_if_no_progress refine Io.mk_keeps ?_)

theorem State.dualActive_keeps {msk : Nat} {s0 : State} {s : State} {epoch : Nat} (hk0 : State.Keeps msk s0 s) (hm : Sub 0x1000006069000000000000000000000000000000000000000000024000800000000000000000001ffc1c58000000040000278303 msk) :
    State.Keeps msk s0 (State.dualActive s epoch) := by
  unfold State.dualActive
  repeat' first
    | with_reducible assumption | exact Sub.of hm rfl | exact Has.of hm rfl | intro _
    | (extract_lets +onlyGivenNames x; first | (refine (have hx : State.Keeps msk s0 x := ?_; ?_); (on_goal 2 => clear_value x); (on_goal 1 => subst x)) | (refine (have hx : State.Keeps msk s0 x.1 := ?_; ?_); (on_goal 2 => clear_value x); (on_goal 1 => subst x)) | clear_value x)
    | (with_reducible first
        | apply Io.fire_keeps | apply State.fire_keeps | apply State.standDown_keeps | refine State.ite_keeps ?_ ?_)
    | split

theorem State.actOnHello_keeps {msk : Nat} {s0 : State} {s : State} (hk0 : State.Keeps msk s0 s) (hm : Sub 0x1000006069000000000000000000000000000000000000000000034000800000000000000000001ffc1c58000000040000278303 msk) :
    State.Keeps msk s0 (State.actOnHello s) := by
  unfold State.actOnHello
  repeat' first
    | with_reducible assumption | exact Sub.of hm rfl | exact Has.of hm rfl | intro _ | exact RegOf.PAIR_EPOCH
    | (extract_lets +onlyGivenNames x; first | (refine (have hx : State.Keeps msk s0 x := ?_; ?_); (on_goal 2 => clear_value x); (on_goal 1 => subst x)) | clear_value x)
    | (with_reducible first
        | apply State.dualActive_keeps | apply Io.setF_keeps | apply State.setF_keeps | apply State.setPairState_keeps
        | apply State.updateOrigin_keeps | apply State.onPair_keeps | refine State.ite_keeps ?_ ?_ | refine Io.ite_keeps ?_ ?_)
    | split
    | (with_reducible first
        | refine State.Keeps.fst (by assumption) ?_ | exact State.Keeps.io (by assumption) | fail_if_no_progress refine State.Keeps.io ?_
        | fail_if_no_progress refine State.mk_keeps ?_ ?_ | fail_if_no_progress refine Io.mk_keeps ?_)

theorem execHelloReceived_keeps {msk : Nat} {s0 : State} {payload : List Byte} {s : State} (hk0 : State.Keeps msk s0 s) (hm : Sub 0x1001006069000000000000000000000000000000000000000030034000800000000000000000001ffc1c58000000040000278303 msk) :
    Result.Keeps msk s0 (execHelloReceived payload s) := by
  unfold execHelloReceived
  repeat' first
    | with_reducible assumption | exact Sub.of hm rfl | exact Has.of hm rfl | intro _
    | (extract_lets +onlyGivenNames x; first | (refine (have hx : State.Keeps msk s0 x := ?_; ?_); (on_goal 2 => clear_value x); (on_goal 1 => subst x)) | clear_value x)
    | (with_reducible first
        | refine Result.next_keeps ?_ | apply State.takePair_keeps | apply State.notePartner_keeps | apply State.actOnHello_keeps
        | refine Result.ite_keeps ?_ ?_ | refine State.ite_keeps ?_ ?_)
    | split
    | (with_reducible first
        | refine State.Keeps.fst (by assumption) ?_ | fail_if_no_progress refine State.mk_keeps ?_ ?_)

theorem State.pin_keeps {msk : Nat} {s0 : State} {s : State} {p v : Nat} (hk0 : State.Keeps msk s0 s) (hm : Sub 0x200 msk) :
    State.Keeps msk s0 (State.pin s p v) := by
  unfold State.pin
  repeat' first
    | with_reducible assumption | exact Sub.of hm rfl | exact Has.of hm rfl | intro _
    | (extract_lets +onlyGivenNames x; first | (refine (have hx : State.Keeps msk s0 x := ?_; ?_); (on_goal 2 => clear_value x); (on_goal 1 => subst x)) | clear_value x)
    | (with_reducible first
        | apply State.setCascade_keeps | refine State.ite_keeps ?_ ?_)
    | split | with_reducible fail_if_no_progress refine State.mk_keeps ?_ ?_

theorem State.takeCommit_keeps {msk : Nat} {s0 : State} {s : State} {b : List Byte} (hk0 : State.Keeps msk s0 s) (hm : Sub 0x200 msk) :
    State.Keeps msk s0 (State.takeCommit s b) := by
  unfold State.takeCommit
  repeat' first
    | with_reducible assumption | exact Sub.of hm rfl | exact Has.of hm rfl | intro _
    | (extract_lets +onlyGivenNames x; first | (refine (have hx : State.Keeps msk s0 x := ?_; ?_); (on_goal 2 => clear_value x); (on_goal 1 => subst x)) | (refine (have hx : State.Keeps msk s0 x.1 := ?_; ?_); (on_goal 2 => clear_value x); (on_goal 1 => subst x)) | clear_value x)
    | (with_reducible first
        | apply State.pin_keeps | apply State.onLay_keeps | apply State.foldl_keeps | apply State.foldl_keeps_fst
        | refine State.ite_keeps ?_ ?_)
    | split
    | (with_reducible first
        | refine State.Keeps.fst (by assumption) ?_ | fail_if_no_progress refine State.mk_keeps ?_ ?_)

theorem execCommitAnnReceived_keeps {msk : Nat} {s0 : State} {payload : List Byte} {s : State} (hk0 : State.Keeps msk s0 s) (hm : Sub 0x200300 msk) :
    Result.Keeps msk s0 (execCommitAnnReceived payload s) := by
  unfold execCommitAnnReceived
  repeat' first
    | with_reducible assumption | exact Sub.of hm rfl | exact Has.of hm rfl | intro _
    | (extract_lets +onlyGivenNames x; first | (refine (have hx : State.Keeps msk s0 x := ?_; ?_); (on_goal 2 => clear_value x); (on_goal 1 => subst x)) | clear_value x)
    | (with_reducible first
        | refine Result.next_keeps ?_ | apply State.takePair_keeps | apply State.takeCommit_keeps | refine Result.ite_keeps ?_ ?_
        | refine State.ite_keeps ?_ ?_)
    | split
    | (with_reducible first
        | refine State.Keeps.fst (by assumption) ?_ | fail_if_no_progress refine State.mk_keeps ?_ ?_)

theorem execKeyAnnReceived_keeps {msk : Nat} {s0 : State} {payload : List Byte} {s : State} (hk0 : State.Keeps msk s0 s) (hm : Sub 0x200300 msk) :
    Result.Keeps msk s0 (execKeyAnnReceived payload s) := by
  unfold execKeyAnnReceived
  repeat' first
    | with_reducible assumption | exact Sub.of hm rfl | exact Has.of hm rfl | intro _
    | (extract_lets +onlyGivenNames x; first | (refine (have hx : State.Keeps msk s0 x := ?_; ?_); (on_goal 2 => clear_value x); (on_goal 1 => subst x)) | (refine (have hx : State.Keeps msk s0 x.1 := ?_; ?_); (on_goal 2 => clear_value x); (on_goal 1 => subst x)) | clear_value x)
    | (with_reducible first
        | refine Result.next_keeps ?_ | apply State.takePair_keeps | apply State.acceptKeys_keeps | refine Result.ite_keeps ?_ ?_
        | refine State.ite_keeps ?_ ?_)
    | split
    | (with_reducible first
        | refine State.Keeps.fst (by assumption) ?_ | fail_if_no_progress refine State.mk_keeps ?_ ?_)

theorem execCycleAnnReceived_keeps {msk : Nat} {s0 : State} {payload : List Byte} {s : State} (hk0 : State.Keeps msk s0 s) (hm : Sub 0x200300 msk) :
    Result.Keeps msk s0 (execCycleAnnReceived payload s) := by
  unfold execCycleAnnReceived
  repeat' first
    | with_reducible assumption | exact Sub.of hm rfl | exact Has.of hm rfl | intro _
    | (extract_lets +onlyGivenNames x; first | (refine (have hx : State.Keeps msk s0 x := ?_; ?_); (on_goal 2 => clear_value x); (on_goal 1 => subst x)) | clear_value x)
    | (with_reducible first
        | refine Result.next_keeps ?_ | apply State.takePair_keeps | apply State.onVideo_keeps | refine Result.ite_keeps ?_ ?_
        | refine State.ite_keeps ?_ ?_)
    | split
    | (with_reducible first
        | refine State.Keeps.fst (by assumption) ?_ | fail_if_no_progress refine State.mk_keeps ?_ ?_)

theorem execAnnouncementMissing_keeps {msk : Nat} {s0 : State} {s : State} (hk0 : State.Keeps msk s0 s) (hm : Sub 0x1000006069000000000000000000000000000000000000000000024000000000000000000000001ffc1c58000000040000278100 msk) :
    Result.Keeps msk s0 (execAnnouncementMissing s) := by
  unfold execAnnouncementMissing
  repeat' first
    | with_reducible assumption | exact Sub.of hm rfl | exact Has.of hm rfl | intro _
    | (with_reducible first
        | refine Result.next_keeps ?_ | apply Io.fire_keeps | apply State.fire_keeps | apply State.leaveLockstep_keeps
        | refine Result.ite_keeps ?_ ?_ | refine State.ite_keeps ?_ ?_)
    | split

theorem State.sendSnapshot_keeps {msk : Nat} {s0 : State} {s : State} (hk0 : State.Keeps msk s0 s) (hm : Sub 0x200300 msk) :
    State.Keeps msk s0 (State.sendSnapshot s) := by
  unfold State.sendSnapshot
  repeat' first
    | with_reducible assumption | exact Sub.of hm rfl | exact Has.of hm rfl | intro _
    | (extract_lets +onlyGivenNames x; first | (refine (have hx : State.Keeps msk s0 x := ?_; ?_); (on_goal 2 => clear_value x); (on_goal 1 => subst x)) | (refine (have hx : State.Keeps msk s0 x.1 := ?_; ?_); (on_goal 2 => clear_value x); (on_goal 1 => subst x)) | clear_value x)
    | (with_reducible first
        | apply State.onPair_keeps | apply State.sendPair_keeps | apply State.onVideo_keeps)
    | split
    | (with_reducible first
        | exact State.Keeps.io (by assumption) | fail_if_no_progress refine State.Keeps.io ?_
        | fail_if_no_progress refine State.mk_keeps ?_ ?_ | fail_if_no_progress refine Io.mk_keeps ?_)

theorem State.applyLayerBlock_keeps {msk : Nat} {s0 : State} {s : State} {b : List Byte} (hk0 : State.Keeps msk s0 s) (hm : Sub 0x1e00000000000000000000000000000200 msk) :
    State.Keeps msk s0 (State.applyLayerBlock s b) := by
  unfold State.applyLayerBlock
  repeat' first
    | with_reducible assumption | exact Sub.of hm rfl | exact Has.of hm rfl | intro _ | exact RegOf.CMP_LAYER_RING _
    | exact RegOf.CMP_LAYER_SINCE _ | exact RegOf.CMP_LAYER_STATE _ | exact RegOf.CMP_LAYER_TAG _
    | (extract_lets +onlyGivenNames x; first | (refine (have hx : State.Keeps msk s0 x := ?_; ?_); (on_goal 2 => clear_value x); (on_goal 1 => subst x)) | (refine (have hx : State.Keeps msk s0 x.1 := ?_; ?_); (on_goal 2 => clear_value x); (on_goal 1 => subst x)) | clear_value x)
    | (with_reducible first
        | apply State.onLay_keeps | apply Io.setF_keeps | apply State.setF_keeps | apply State.foldl_keeps | apply State.foldl_keeps_fst
        | refine State.ite_keeps ?_ ?_)
    | split
    | (with_reducible first
        | refine State.Keeps.fst (by assumption) ?_ | fail_if_no_progress refine State.mk_keeps ?_ ?_
        | fail_if_no_progress refine Io.eraseRing_keeps ?_ ?_)

theorem State.applyCommits_keeps {m : Nat} {s0 : State} {k : Nat} {b : List Byte} {s : State} (h : State.Keeps m s0 s) (hm : Sub 0x200 m) :
    State.Keeps m s0 (State.applyCommits k b s) := by
  induction k generalizing s b with
  | zero => exact h
  | succ k ih => exact ih (State.takeCommit_keeps h (Sub.of hm rfl))

theorem State.applyDelays_keeps {msk : Nat} {s0 : State} {s : State} {b : List Byte} (hk0 : State.Keeps msk s0 s) (hm : Sub 0x1800000000000000 msk) :
    State.Keeps msk s0 (State.applyDelays s b) := by
  unfold State.applyDelays
  repeat' first
    | with_reducible assumption | exact Sub.of hm rfl | exact Has.of hm rfl | intro _ | exact RegOf.TCK_END_DELAY _
    | exact RegOf.TCK_HOP_DELAY _ _
    | (extract_lets +onlyGivenNames x; first | (refine (have hx : State.Keeps msk s0 x := ?_; ?_); (on_goal 2 => clear_value x); (on_goal 1 => subst x)) | (refine (have hx : State.Keeps msk s0 x.1 := ?_; ?_); (on_goal 2 => clear_value x); (on_goal 1 => subst x)) | skip)
    | (with_reducible first
        | apply Io.setF_keeps | apply State.setF_keeps | apply State.foldl_keeps | apply State.foldl_keeps_fst
        | refine State.Keeps.fst (by assumption) ?_)

theorem State.applyKeys_keeps {m : Nat} {s0 : State} {k : Nat} {b : List Byte} {s : State} (h : State.Keeps m s0 s) (hm : Sub 0x200 m) :
    State.Keeps m s0 (State.applyKeys k b s) := by
  induction k generalizing s b with
  | zero => exact h
  | succ k ih => exact ih (State.setMirror_keeps h (Sub.of hm rfl))

theorem State.applySchedules_keeps {msk : Nat} {s0 : State} {s : State} {b : List Byte} (hk0 : State.Keeps msk s0 s) (hm : Sub 0x1000006069000000840000000000000000000000000000000000000000000000000000000000001ffc1c580000000000002788c0 msk) :
    State.Keeps msk s0 (State.applySchedules s b) := by
  unfold State.applySchedules
  repeat' first
    | with_reducible assumption | exact Sub.of hm rfl | exact Has.of hm rfl | intro _
    | (extract_lets +onlyGivenNames x; first | (refine (have hx : State.Keeps msk s0 x := ?_; ?_); (on_goal 2 => clear_value x); (on_goal 1 => subst x)) | (refine (have hx : State.Keeps msk s0 x.1 := ?_; ?_); (on_goal 2 => clear_value x); (on_goal 1 => subst x)) | clear_value x)
    | (with_reducible first
        | apply State.takeSchedule_keeps | apply State.takeThrottle_keeps | refine State.ite_keeps ?_ ?_)
    | split

theorem State.applySnapshot_keeps {msk : Nat} {s0 : State} {s : State} {bs : List (Nat × List Byte)} (hk0 : State.Keeps msk s0 s) (hm : Sub 0x10000060690000008400000000000000000000000000000000000340000000000000001e0000001ffc1c580218001c0000278bc1 msk) :
    State.Keeps msk s0 (State.applySnapshot s bs) := by
  unfold State.applySnapshot
  repeat' first
    | with_reducible assumption | exact Sub.of hm rfl | exact Has.of hm rfl | intro _ | exact RegOf.PAIR_CLEAN
    | exact RegOf.PAIR_EPOCH | exact RegOf.TCK_COUNT_HI | exact RegOf.TCK_COUNT_LO
    | (extract_lets +onlyGivenNames x; first | (refine (have hx : State.Keeps msk s0 x := ?_; ?_); (on_goal 2 => clear_value x); (on_goal 1 => subst x)) | (refine (have hx : State.Keeps msk s0 x.1 := ?_; ?_); (on_goal 2 => clear_value x); (on_goal 1 => subst x)) | clear_value x)
    | (with_reducible first
        | apply Io.setF_keeps | apply State.setF_keeps | apply State.setRateSet_keeps | apply State.on_keeps | apply Io.setWide_keeps
        | apply State.onLay_keeps | apply State.applyLayerBlock_keeps | apply State.applyCommits_keeps | apply State.pin_keeps
        | apply State.applyDelays_keeps | apply State.applyKeys_keeps | apply State.clearMirrors_keeps | apply State.onVideo_keeps
        | apply State.applySchedules_keeps | apply State.joinPhase_keeps | apply State.onPair_keeps | apply State.foldl_keeps
        | apply State.foldl_keeps_fst | apply Io.foldl_keeps | apply Io.foldl_keeps_fst | apply State.on_keeps
        | refine State.ite_keeps ?_ ?_ | refine Io.ite_keeps ?_ ?_)
    | split
    | (with_reducible first
        | refine State.Keeps.fst (by assumption) ?_ | exact State.Keeps.io (by assumption) | fail_if_no_progress refine State.Keeps.io ?_
        | fail_if_no_progress refine State.mk_keeps ?_ ?_ | fail_if_no_progress refine Io.mk_keeps ?_)

theorem execSnapshotReceived_keeps {msk : Nat} {s0 : State} {payload : List Byte} {s : State} (hk0 : State.Keeps msk s0 s) (hm : Sub 0x10000060690000008400000000000000000000000000000000000340000000000000001e0000001ffc1c580218001c0000278bc1 msk) :
    Result.Keeps msk s0 (execSnapshotReceived payload s) := by
  unfold execSnapshotReceived
  repeat' first
    | with_reducible assumption | exact Sub.of hm rfl | exact Has.of hm rfl | intro _
    | (extract_lets +onlyGivenNames x; first | (refine (have hx : State.Keeps msk s0 x := ?_; ?_); (on_goal 2 => clear_value x); (on_goal 1 => subst x)) | (refine (have hx : State.Keeps msk s0 x.1 := ?_; ?_); (on_goal 2 => clear_value x); (on_goal 1 => subst x)) | clear_value x)
    | (with_reducible first
        | refine Result.next_keeps ?_ | apply State.takePair_keeps | apply State.joinPhase_keeps | apply State.applySnapshot_keeps
        | refine Result.ite_keeps ?_ ?_ | refine State.ite_keeps ?_ ?_)
    | split
    | (with_reducible first
        | refine State.Keeps.fst (by assumption) ?_ | fail_if_no_progress refine State.mk_keeps ?_ ?_)

theorem execPairAckReceived_keeps {msk : Nat} {s0 : State} {payload : List Byte} {s : State} (hk0 : State.Keeps msk s0 s) (hm : Sub 0x100 msk) :
    Result.Keeps msk s0 (execPairAckReceived payload s) := by
  unfold execPairAckReceived
  repeat' first
    | with_reducible assumption | exact Sub.of hm rfl | exact Has.of hm rfl | intro _
    | (extract_lets +onlyGivenNames x; first | (refine (have hx : State.Keeps msk s0 x := ?_; ?_); (on_goal 2 => clear_value x); (on_goal 1 => subst x)) | (refine (have hx : State.Keeps msk s0 x.1 := ?_; ?_); (on_goal 2 => clear_value x); (on_goal 1 => subst x)) | clear_value x)
    | (with_reducible first
        | refine Result.next_keeps ?_ | apply State.onPair_keeps | refine Result.ite_keeps ?_ ?_ | refine State.ite_keeps ?_ ?_
        | refine Io.ite_keeps ?_ ?_)
    | split
    | (with_reducible first
        | exact State.Keeps.io (by assumption) | fail_if_no_progress refine State.Keeps.io ?_
        | fail_if_no_progress refine State.mk_keeps ?_ ?_ | fail_if_no_progress refine Io.mk_keeps ?_)

theorem execPairPacketTimeout_keeps {msk : Nat} {s0 : State} {pseq : Nat} {s : State} (hk0 : State.Keeps msk s0 s) (hm : Sub 0x1001006069000000000000000000000000000000000000000100024000000000000000000000001ffc1c58000000040000278100 msk) :
    Result.Keeps msk s0 (execPairPacketTimeout pseq s) := by
  unfold execPairPacketTimeout
  repeat' first
    | with_reducible assumption | exact Sub.of hm rfl | exact Has.of hm rfl | intro _
    | (extract_lets +onlyGivenNames x; first | (refine (have hx : State.Keeps msk s0 x := ?_; ?_); (on_goal 2 => clear_value x); (on_goal 1 => subst x)) | (refine (have hx : State.Keeps msk s0 x.1 := ?_; ?_); (on_goal 2 => clear_value x); (on_goal 1 => subst x)) | clear_value x)
    | (with_reducible first
        | refine Result.next_keeps ?_ | apply State.pairLost_keeps | apply State.onPair_keeps | apply Io.emit_keeps | apply State.emit_keeps
        | refine Result.ite_keeps ?_ ?_ | refine State.ite_keeps ?_ ?_)
    | split
    | (with_reducible first
        | refine State.Keeps.fst (by assumption) ?_ | fail_if_no_progress refine State.mk_keeps ?_ ?_)

theorem execPairPacketReserved_keeps {msk : Nat} {s0 : State} {ptype : Nat} {s : State} (hk0 : State.Keeps msk s0 s) (hm : Sub 0x80000000000000000000000000000000000000000000000000000 msk) :
    Result.Keeps msk s0 (execPairPacketReserved ptype s) := by
  unfold execPairPacketReserved
  repeat' first
    | with_reducible assumption | exact Sub.of hm rfl | exact Has.of hm rfl | intro _ | exact RegOf.PAIR_PKT_UNKNOWN
    | (with_reducible first
        | refine Result.next_keeps ?_ | apply Io.bumpF_keeps | apply State.bumpF_keeps | refine Result.ite_keeps ?_ ?_
        | refine State.ite_keeps ?_ ?_)
    | split

theorem execDeposeAckTimeout_keeps {msk : Nat} {s0 : State} {s : State} (hk0 : State.Keeps msk s0 s) (hm : Sub 0x1000006069000000000000000000000000000000000000000000024000000000000000000000001ffc1c58000000040000278100 msk) :
    Result.Keeps msk s0 (execDeposeAckTimeout s) := by
  unfold execDeposeAckTimeout
  repeat' first
    | with_reducible assumption | exact Sub.of hm rfl | exact Has.of hm rfl | intro _
    | (extract_lets +onlyGivenNames x; first | (refine (have hx : State.Keeps msk s0 x := ?_; ?_); (on_goal 2 => clear_value x); (on_goal 1 => subst x)) | clear_value x)
    | (with_reducible first
        | refine Result.next_keeps ?_ | apply State.onPair_keeps | apply State.leaveLockstep_keeps | apply Io.fire_keeps
        | apply State.fire_keeps | refine Result.ite_keeps ?_ ?_ | refine State.ite_keeps ?_ ?_)
    | split | with_reducible fail_if_no_progress refine State.mk_keeps ?_ ?_

theorem execReadDoneReceived_keeps {msk : Nat} {s0 : State} {payload : List Byte} {s : State} (hk0 : State.Keeps msk s0 s) (hm : Sub 0x200100 msk) :
    Result.Keeps msk s0 (execReadDoneReceived payload s) := by
  unfold execReadDoneReceived
  repeat' first
    | with_reducible assumption | exact Sub.of hm rfl | exact Has.of hm rfl | intro _
    | (extract_lets +onlyGivenNames x; first | (refine (have hx : State.Keeps msk s0 x := ?_; ?_); (on_goal 2 => clear_value x); (on_goal 1 => subst x)) | (refine (have hx : State.Keeps msk s0 x.1 := ?_; ?_); (on_goal 2 => clear_value x); (on_goal 1 => subst x)) | clear_value x)
    | (with_reducible first
        | refine Result.next_keeps ?_ | apply State.takePair_keeps | apply State.onPair_keeps | refine Result.ite_keeps ?_ ?_
        | refine State.ite_keeps ?_ ?_)
    | split
    | (with_reducible first
        | refine State.Keeps.fst (by assumption) ?_ | fail_if_no_progress refine State.mk_keeps ?_ ?_)

theorem execDeposeReceived_keeps {msk : Nat} {s0 : State} {payload : List Byte} {s : State} (hk0 : State.Keeps msk s0 s) (hm : Sub 0x1000006069000000000000000000000000000000000000000000024000800000000000000000001ffc1c58000000040000278303 msk) :
    Result.Keeps msk s0 (execDeposeReceived payload s) := by
  unfold execDeposeReceived
  repeat' first
    | with_reducible assumption | exact Sub.of hm rfl | exact Has.of hm rfl | intro _
    | (extract_lets +onlyGivenNames x; first | (refine (have hx : State.Keeps msk s0 x := ?_; ?_); (on_goal 2 => clear_value x); (on_goal 1 => subst x)) | clear_value x)
    | (with_reducible first
        | refine Result.next_keeps ?_ | apply State.takePair_keeps | apply State.standDown_keeps | apply Io.fire_keeps
        | apply State.fire_keeps | refine Result.ite_keeps ?_ ?_ | refine State.ite_keeps ?_ ?_)
    | split
    | (with_reducible first
        | refine State.Keeps.fst (by assumption) ?_ | fail_if_no_progress refine State.mk_keeps ?_ ?_)

theorem execHandoverReceived_keeps {msk : Nat} {s0 : State} {payload : List Byte} {s : State} (hk0 : State.Keeps msk s0 s) (hm : Sub 0x200100 msk) :
    Result.Keeps msk s0 (execHandoverReceived payload s) := by
  unfold execHandoverReceived
  repeat' first
    | with_reducible assumption | exact Sub.of hm rfl | exact Has.of hm rfl | intro _
    | (extract_lets +onlyGivenNames x; first | (refine (have hx : State.Keeps msk s0 x := ?_; ?_); (on_goal 2 => clear_value x); (on_goal 1 => subst x)) | (refine (have hx : State.Keeps msk s0 x.1 := ?_; ?_); (on_goal 2 => clear_value x); (on_goal 1 => subst x)) | clear_value x)
    | (with_reducible first
        | refine Result.next_keeps ?_ | apply State.takePair_keeps | apply State.onPair_keeps | refine Result.ite_keeps ?_ ?_
        | refine State.ite_keeps ?_ ?_ | refine Io.ite_keeps ?_ ?_)
    | split
    | (with_reducible first
        | refine State.Keeps.fst (by assumption) ?_ | exact State.Keeps.io (by assumption) | fail_if_no_progress refine State.Keeps.io ?_
        | fail_if_no_progress refine State.mk_keeps ?_ ?_ | fail_if_no_progress refine Io.mk_keeps ?_)

theorem execSuspectTimeout_keeps {msk : Nat} {s0 : State} {s : State} (hk0 : State.Keeps msk s0 s) (hm : Sub 0x1001006069000000000000000000000000000000000000000000024000000000000000000000001ffc1c58000000040000278100 msk) :
    Result.Keeps msk s0 (execSuspectTimeout s) := by
  unfold execSuspectTimeout
  repeat' first
    | with_reducible assumption | exact Sub.of hm rfl | exact Has.of hm rfl | intro _
    | (with_reducible first
        | refine Result.next_keeps ?_ | apply State.alert_keeps | apply State.leaveLockstep_keeps | refine Result.ite_keeps ?_ ?_
        | refine State.ite_keeps ?_ ?_ | refine Io.ite_keeps ?_ ?_)
    | split
    | (with_reducible first
        | exact State.Keeps.io (by assumption) | fail_if_no_progress refine State.Keeps.io ?_)

theorem execPairPortTimeout_keeps {msk : Nat} {s0 : State} {s : State} (hk0 : State.Keeps msk s0 s) (hm : Sub 0x1001006069000000000000000000000000000000000000000000000000000000000000000000001ffc1c58000000000000278000 msk) :
    Result.Keeps msk s0 (execPairPortTimeout s) := by
  unfold execPairPortTimeout
  repeat' first
    | with_reducible assumption | exact Sub.of hm rfl | exact Has.of hm rfl | intro _
    | (with_reducible first
        | refine Result.next_keeps ?_ | apply State.alert_keeps | apply Io.fire_keeps | apply State.fire_keeps
        | refine Result.ite_keeps ?_ ?_ | refine State.ite_keeps ?_ ?_ | refine Io.ite_keeps ?_ ?_)
    | split
    | (with_reducible first
        | exact State.Keeps.io (by assumption) | fail_if_no_progress refine State.Keeps.io ?_)

theorem State.relayedCell_keeps {msk : Nat} {s0 : State} {s : State} {chain : Nat} {bs : List Byte} (hk0 : State.Keeps msk s0 s) (hm : Sub 0x1000006079000000000000000000000000000000000000000000000c00000000000000000000001ffc5c58000000000080278346 msk) :
    State.Keeps msk s0 (State.relayedCell s chain bs) := by
  unfold State.relayedCell
  repeat' first
    | with_reducible assumption | exact Sub.of hm rfl | exact Has.of hm rfl | intro _ | exact RegOf.LNK_KEYREQ_RX _ _
    | (extract_lets +onlyGivenNames x; first | (refine (have hx : State.Keeps msk s0 x := ?_; ?_); (on_goal 2 => clear_value x); (on_goal 1 => subst x)) | (refine (have hx : State.Keeps msk s0 x.1 := ?_; ?_); (on_goal 2 => clear_value x); (on_goal 1 => subst x)) | clear_value x)
    | (with_reducible first
        | apply State.onPair_keeps | apply State.acceptCell_keeps | apply State.portBump_keeps | apply State.keyRequest_keeps
        | apply State.remoteEvent_keeps | apply State.regReply_keeps | apply State.telemetry_keeps | apply State.stageAckReceived_keeps
        | refine State.ite_keeps ?_ ?_ | refine Io.ite_keeps ?_ ?_)
    | split
    | (with_reducible first
        | refine State.Keeps.fst (by assumption) ?_ | exact State.Keeps.io (by assumption) | fail_if_no_progress refine State.Keeps.io ?_
        | fail_if_no_progress refine State.mk_keeps ?_ ?_ | fail_if_no_progress refine Io.mk_keeps ?_)

theorem State.relayedBulk_keeps {msk : Nat} {s0 : State} {s : State} {chain : Nat} {bs : List Byte} (hk0 : State.Keeps msk s0 s) (hm : Sub 0x1000006069000000840000000000000000000000000000000000000000000000000000000000001ffc1c580000000000002788c6 msk) :
    State.Keeps msk s0 (State.relayedBulk s chain bs) := by
  unfold State.relayedBulk
  repeat' first
    | with_reducible assumption | exact Sub.of hm rfl | exact Has.of hm rfl | intro _
    | (extract_lets +onlyGivenNames x; first | (refine (have hx : State.Keeps msk s0 x := ?_; ?_); (on_goal 2 => clear_value x); (on_goal 1 => subst x)) | (refine (have hx : State.Keeps msk s0 x.1 := ?_; ?_); (on_goal 2 => clear_value x); (on_goal 1 => subst x)) | clear_value x)
    | (with_reducible first
        | apply State.telemetry_keeps | apply State.takeSchedule_keeps | apply State.takeThrottle_keeps | apply State.queueBulk_keeps
        | refine State.ite_keeps ?_ ?_)
    | split
    | (with_reducible first
        | refine State.Keeps.fst (by assumption) ?_ | fail_if_no_progress refine State.mk_keeps ?_ ?_)

theorem execRelayReceived_keeps {msk : Nat} {s0 : State} {payload : List Byte} {s : State} (hk0 : State.Keeps msk s0 s) (hm : Sub 0x1000006079000000840000000000000000000000000000000000000c00000000000000000000001ffc5c58000000000080278bc6 msk) :
    Result.Keeps msk s0 (execRelayReceived payload s) := by
  unfold execRelayReceived
  repeat' first
    | with_reducible assumption | exact Sub.of hm rfl | exact Has.of hm rfl | intro _
    | (extract_lets +onlyGivenNames x; first | (refine (have hx : State.Keeps msk s0 x := ?_; ?_); (on_goal 2 => clear_value x); (on_goal 1 => subst x)) | clear_value x)
    | (with_reducible first
        | refine Result.next_keeps ?_ | apply State.takePair_keeps | apply State.relayedCell_keeps | apply State.relayedBulk_keeps
        | refine Result.ite_keeps ?_ ?_ | refine State.ite_keeps ?_ ?_)
    | split
    | (with_reducible first
        | refine State.Keeps.fst (by assumption) ?_ | fail_if_no_progress refine State.mk_keeps ?_ ?_)

theorem execReunitePoll_keeps {msk : Nat} {s0 : State} {chain : Nat} {up : Bool} {s : State} (hk0 : State.Keeps msk s0 s) (hm : Sub 0x200100 msk) :
    Result.Keeps msk s0 (execReunitePoll chain up s) := by
  unfold execReunitePoll
  repeat' first
    | with_reducible assumption | exact Sub.of hm rfl | exact Has.of hm rfl | intro _
    | (extract_lets +onlyGivenNames x; first | (refine (have hx : State.Keeps msk s0 x := ?_; ?_); (on_goal 2 => clear_value x); (on_goal 1 => subst x)) | (refine (have hx : State.Keeps msk s0 x.1 := ?_; ?_); (on_goal 2 => clear_value x); (on_goal 1 => subst x)) | clear_value x)
    | (with_reducible first
        | refine Result.next_keeps ?_ | apply State.onPair_keeps | apply State.sendPair_keeps | refine Result.ite_keeps ?_ ?_
        | refine State.ite_keeps ?_ ?_ | refine Io.ite_keeps ?_ ?_)
    | split
    | (with_reducible first
        | exact State.Keeps.io (by assumption) | fail_if_no_progress refine State.Keeps.io ?_
        | fail_if_no_progress refine State.mk_keeps ?_ ?_ | fail_if_no_progress refine Io.mk_keeps ?_)

theorem execReuniteReceived_keeps {msk : Nat} {s0 : State} {payload : List Byte} {s : State} (hk0 : State.Keeps msk s0 s) (hm : Sub 0x200100 msk) :
    Result.Keeps msk s0 (execReuniteReceived payload s) := by
  unfold execReuniteReceived
  repeat' first
    | with_reducible assumption | exact Sub.of hm rfl | exact Has.of hm rfl | intro _
    | (extract_lets +onlyGivenNames x; first | (refine (have hx : State.Keeps msk s0 x := ?_; ?_); (on_goal 2 => clear_value x); (on_goal 1 => subst x)) | clear_value x)
    | (with_reducible first
        | refine Result.next_keeps ?_ | apply State.takePair_keeps | apply State.onPair_keeps | refine Result.ite_keeps ?_ ?_
        | refine State.ite_keeps ?_ ?_)
    | split
    | (with_reducible first
        | refine State.Keeps.fst (by assumption) ?_ | fail_if_no_progress refine State.mk_keeps ?_ ?_)

theorem State.pairHandover_keeps {msk : Nat} {s0 : State} {s : State} (hk0 : State.Keeps msk s0 s) (hm : Sub 0x1000006069000000000000000000000000000000000000000000000000000000000000000000001ffc1c58000000000000278100 msk) :
    State.Keeps msk s0 (State.pairHandover s) := by
  unfold State.pairHandover
  repeat' first
    | with_reducible assumption | exact Sub.of hm rfl | exact Has.of hm rfl | intro _
    | (extract_lets +onlyGivenNames x; first | (refine (have hx : State.Keeps msk s0 x := ?_; ?_); (on_goal 2 => clear_value x); (on_goal 1 => subst x)) | (refine (have hx : State.Keeps msk s0 x.1 := ?_; ?_); (on_goal 2 => clear_value x); (on_goal 1 => subst x)) | clear_value x)
    | (with_reducible first
        | apply State.sendPair_keeps | apply State.onPair_keeps | apply Io.fire_keeps | apply State.fire_keeps
        | refine State.ite_keeps ?_ ?_ | refine Io.ite_keeps ?_ ?_)
    | split
    | (with_reducible first
        | refine State.Keeps.fst (by assumption) ?_ | exact State.Keeps.io (by assumption) | fail_if_no_progress refine State.Keeps.io ?_
        | fail_if_no_progress refine State.mk_keeps ?_ ?_ | fail_if_no_progress refine Io.mk_keeps ?_)

theorem State.pairForeign_keeps {msk : Nat} {s0 : State} {s : State} (hk0 : State.Keeps msk s0 s) (hm : Sub 0x1000006069000000000000000000000000000000000000000000000000000000000000000000001ffc1c58000000000000278102 msk) :
    State.Keeps msk s0 (State.pairForeign s) := by
  unfold State.pairForeign
  repeat' first
    | with_reducible assumption | exact Sub.of hm rfl | exact Has.of hm rfl | intro _
    | (extract_lets +onlyGivenNames x; first | (refine (have hx : State.Keeps msk s0 x := ?_; ?_); (on_goal 2 => clear_value x); (on_goal 1 => subst x)) | (refine (have hx : State.Keeps msk s0 x.1 := ?_; ?_); (on_goal 2 => clear_value x); (on_goal 1 => subst x)) | clear_value x)
    | (with_reducible first
        | apply State.sendPair_keeps | apply State.onPair_keeps | apply State.wallCmdAll_keeps | apply Io.fire_keeps
        | apply State.fire_keeps | refine State.ite_keeps ?_ ?_ | refine Io.ite_keeps ?_ ?_)
    | split
    | (with_reducible first
        | refine State.Keeps.fst (by assumption) ?_ | exact State.Keeps.io (by assumption) | fail_if_no_progress refine State.Keeps.io ?_
        | fail_if_no_progress refine State.mk_keeps ?_ ?_ | fail_if_no_progress refine Io.mk_keeps ?_)

theorem State.pairRoles_keeps {msk : Nat} {s0 : State} {s : State} (hk0 : State.Keeps msk s0 s) (hm : Sub 0x1000006069000000000000000000000000000000000000000002074000800000000000000000001ffc1c58000000440000278303 msk) :
    State.Keeps msk s0 (State.pairRoles s) := by
  unfold State.pairRoles
  repeat' first
    | with_reducible assumption | exact Sub.of hm rfl | exact Has.of hm rfl | intro _
    | (extract_lets +onlyGivenNames x; first | (refine (have hx : State.Keeps msk s0 x := ?_; ?_); (on_goal 2 => clear_value x); (on_goal 1 => subst x)) | (refine (have hx : State.Keeps msk s0 x.1 := ?_; ?_); (on_goal 2 => clear_value x); (on_goal 1 => subst x)) | clear_value x)
    | (with_reducible first
        | apply State.becomeActive_keeps | apply State.standDown_keeps | apply State.clearMirrors_keeps | apply State.onPair_keeps
        | refine State.ite_keeps ?_ ?_ | refine Io.ite_keeps ?_ ?_)
    | split
    | (with_reducible first
        | refine State.Keeps.fst (by assumption) ?_ | exact State.Keeps.io (by assumption) | fail_if_no_progress refine State.Keeps.io ?_
        | fail_if_no_progress refine State.mk_keeps ?_ ?_ | fail_if_no_progress refine Io.mk_keeps ?_)

theorem State.pairLockstep_keeps {msk : Nat} {s0 : State} {s : State} (hk0 : State.Keeps msk s0 s) (hm : Sub 0x1000006069000000000000000000000000000000000000000000024000000000000000000000001ffc1c58000000040000278300 msk) :
    State.Keeps msk s0 (State.pairLockstep s) := by
  unfold State.pairLockstep
  repeat' first
    | with_reducible assumption | exact Sub.of hm rfl | exact Has.of hm rfl | intro _
    | (extract_lets +onlyGivenNames x; first | (refine (have hx : State.Keeps msk s0 x := ?_; ?_); (on_goal 2 => clear_value x); (on_goal 1 => subst x)) | clear_value x)
    | (with_reducible first
        | apply State.cleanTick_keeps | apply State.sendPair_keeps | apply State.sendSnapshot_keeps | refine State.ite_keeps ?_ ?_)
    | split

theorem State.pairTick_keeps {msk : Nat} {s0 : State} {s : State} (hk0 : State.Keeps msk s0 s) (hm : Sub 0x10010060690000000000000000000000000000000000000000020f4000800000000000000000001ffc1c58000000440000278303 msk) :
    State.Keeps msk s0 (State.pairTick s) := by
  unfold State.pairTick
  repeat' first
    | with_reducible assumption | exact Sub.of hm rfl | exact Has.of hm rfl | intro _ | exact RegOf.PAIR_OBSERVED
    | (extract_lets +onlyGivenNames x; first | (refine (have hx : State.Keeps msk s0 x := ?_; ?_); (on_goal 2 => clear_value x); (on_goal 1 => subst x)) | (refine (have hx : State.Keeps msk s0 x.1 := ?_; ?_); (on_goal 2 => clear_value x); (on_goal 1 => subst x)) | clear_value x)
    | (with_reducible first
        | apply State.pairRoles_keeps | apply State.reuniteTick_keeps | apply State.startFeeding_keeps | apply State.silentCheck_keeps
        | apply State.pairLockstep_keeps | apply Io.setF_keeps | apply State.setF_keeps | apply State.onPair_keeps | apply State.foldl_keeps
        | apply State.foldl_keeps_fst | apply Io.foldl_keeps | apply Io.foldl_keeps_fst | refine State.ite_keeps ?_ ?_
        | refine Io.ite_keeps ?_ ?_)
    | split
    | (with_reducible first
        | exact State.Keeps.io (by assumption) | fail_if_no_progress refine State.Keeps.io ?_)

theorem State.chainMissed_keeps {msk : Nat} {s0 : State} {s : State} {p : Nat} (hk0 : State.Keeps msk s0 s) (hm : Sub 0x101 msk) :
    State.Keeps msk s0 (State.chainMissed s p) := by
  unfold State.chainMissed
  repeat' first
    | with_reducible assumption | exact Sub.of hm rfl | exact Has.of hm rfl | intro _
    | (extract_lets +onlyGivenNames x; first | (refine (have hx : State.Keeps msk s0 x := ?_; ?_); (on_goal 2 => clear_value x); (on_goal 1 => subst x)) | (refine (have hx : State.Keeps msk s0 x.1 := ?_; ?_); (on_goal 2 => clear_value x); (on_goal 1 => subst x)) | clear_value x)
    | (with_reducible first
        | apply State.setPortRun_keeps | apply State.excusePort_keeps | apply State.onPair_keeps | refine State.ite_keeps ?_ ?_)
    | split
    | (with_reducible first
        | refine State.Keeps.fst (by assumption) ?_ | fail_if_no_progress refine State.mk_keeps ?_ ?_)

theorem execTickMarkerReceived_keeps {msk : Nat} {s0 : State} {port payload t : Nat} {s : State} (hk0 : State.Keeps msk s0 s) (hm : Sub 0x1000006069000000000000000000000000000000000000000000000010800000000000000000001ffc1c58000400040000a78101 msk) :
    Result.Keeps msk s0 (execTickMarkerReceived port payload t s) := by
  unfold execTickMarkerReceived
  repeat' first
    | with_reducible assumption | exact Sub.of hm rfl | exact Has.of hm rfl | intro _
    | (extract_lets +onlyGivenNames x; first | (refine (have hx : State.Keeps msk s0 x := ?_; ?_); (on_goal 2 => clear_value x); (on_goal 1 => subst x)) | (refine (have hx : State.Keeps msk s0 x.1 := ?_; ?_); (on_goal 2 => clear_value x); (on_goal 1 => subst x)) | clear_value x)
    | (with_reducible first
        | refine Result.next_keeps ?_ | apply State.markerReceived_keeps | apply State.on_keeps | apply Io.at_keeps
        | apply State.setPortRun_keeps | apply State.cwError_keeps | apply State.chainMissed_keeps | apply State.on_keeps
        | refine Result.ite_keeps ?_ ?_ | refine State.ite_keeps ?_ ?_ | refine Io.ite_keeps ?_ ?_)
    | split
    | (with_reducible first
        | exact State.Keeps.io (by assumption) | fail_if_no_progress refine State.Keeps.io ?_)

theorem execMarkerMissing_keeps {msk : Nat} {s0 : State} {port : Nat} {s : State} (hk0 : State.Keeps msk s0 s) (hm : Sub 0x1000006069000000000000000000000000000000000000000000000000000000000000000000001ffc1c58000400040000278101 msk) :
    Result.Keeps msk s0 (execMarkerMissing port s) := by
  unfold execMarkerMissing
  repeat' first
    | with_reducible assumption | exact Sub.of hm rfl | exact Has.of hm rfl | intro _
    | (with_reducible first
        | refine Result.next_keeps ?_ | apply State.markerMissing_keeps | apply State.chainMissed_keeps | refine Result.ite_keeps ?_ ?_
        | refine State.ite_keeps ?_ ?_ | refine Io.ite_keeps ?_ ?_)
    | split
    | (with_reducible first
        | exact State.Keeps.io (by assumption) | fail_if_no_progress refine State.Keeps.io ?_)

end Sys2Proof.Machine
end

