-- ==== Sys2Proof/Laws/KeepsErrors.lean ====
section
/-! SUPPORT. What the operations of Machine/Errors.lean keep. -/

set_option linter.unusedTactic false
set_option linter.unreachableTactic false
set_option linter.tactic.unusedName false

set_option Elab.async false

namespace Sys2Proof.Machine

theorem State.logError_keeps {msk : Nat} {s0 : State} {s : State} {level region block cell cause row tile : Nat} (hk0 : State.Keeps msk s0 s) (hm : Sub 0x1e0000000000000000000000000000000000000000000000000000000000000000000000000000000000000000000000000000 msk) :
    State.Keeps msk s0 (State.logError s level region block cell cause row tile) := by
  unfold State.logError
  repeat' first
    | with_reducible assumption | exact Sub.of hm rfl | exact Has.of hm rfl | intro _ | exact RegOf.CTL_ERR_HEAD
    | exact RegOf.CTL_ERR_LOG_A _ | exact RegOf.CTL_ERR_LOG_ROW _ | exact RegOf.CTL_ERR_LOG_TICK _
    | (extract_lets +onlyGivenNames x; first | (refine (have hx : State.Keeps msk s0 x := ?_; ?_); (on_goal 2 => clear_value x); (on_goal 1 => subst x)) | (refine (have hx : State.Keeps msk s0 x.1 := ?_; ?_); (on_goal 2 => clear_value x); (on_goal 1 => subst x)) | clear_value x)
    | (with_reducible first
        | apply Io.setF_keeps | apply State.setF_keeps | apply State.on_keeps | apply Io.setReg_keeps | apply State.on_keeps
        | refine State.ite_keeps ?_ ?_ | refine Io.ite_keeps ?_ ?_)
    | split
    | (with_reducible first
        | exact State.Keeps.io (by assumption) | fail_if_no_progress refine State.Keeps.io ?_)

theorem State.chipError_keeps {msk : Nat} {s0 : State} {s : State} {block cell cause : Nat} {umberLow : Bool} (hk0 : State.Keeps msk s0 s) (hm : Sub 0x101f8460690042fc05040000000000000000000000020001c000004003800000000000000000001ffc1c5800000003fc80ffffff msk) :
    State.Keeps msk s0 (State.chipError s block cell cause umberLow) := by
  unfold State.chipError
  repeat' first
    | with_reducible assumption | exact Sub.of hm rfl | exact Has.of hm rfl | intro _ | exact RegOf.CTL_ERR_CHIP
    | exact RegOf.CTL_ERR_STAT
    | (extract_lets +onlyGivenNames x; first | (refine (have hx : State.Keeps msk s0 x := ?_; ?_); (on_goal 2 => clear_value x); (on_goal 1 => subst x)) | (refine (have hx : State.Keeps msk s0 x.1 := ?_; ?_); (on_goal 2 => clear_value x); (on_goal 1 => subst x)) | clear_value x)
    | (with_reducible first
        | apply Io.bumpF_keeps | apply State.bumpF_keeps | apply State.logError_keeps | apply State.alert_keeps | apply State.resign_keeps
        | apply State.onBoot_keeps | apply Io.setF_keeps | apply State.setF_keeps | apply State.restart_keeps | refine State.ite_keeps ?_ ?_
        | refine Io.ite_keeps ?_ ?_)
    | split
    | (with_reducible first
        | exact State.Keeps.io (by assumption) | fail_if_no_progress refine State.Keeps.io ?_
        | fail_if_no_progress refine State.mk_keeps ?_ ?_ | fail_if_no_progress refine Io.mk_keeps ?_)

theorem execChipError_keeps {msk : Nat} {s0 : State} {cell : Nat} {umberLow : Bool} {s : State} (hk0 : State.Keeps msk s0 s) (hm : Sub 0x101f8460690042fc05040000000000000000000000020001c000004003800000000000000000001ffc1c5800000003fc80ffffff msk) :
    Result.Keeps msk s0 (execChipError cell umberLow s) := by
  unfold execChipError
  repeat' first
    | with_reducible assumption | exact Sub.of hm rfl | exact Has.of hm rfl | intro _
    | (with_reducible first
        | refine Result.next_keeps ?_ | apply State.chipError_keeps | refine Result.ite_keeps ?_ ?_ | refine State.ite_keeps ?_ ?_)
    | split

theorem execFirmwareWatchdogExpiry_keeps {msk : Nat} {s0 : State} {core : Nat} {umberLow : Bool} {s : State} (hk0 : State.Keeps msk s0 s) (hm : Sub 0x101f8460690042fc05040000000000000000000000020001c000004003800000000000000000001ffc1c5800000003fc80ffffff msk) :
    Result.Keeps msk s0 (execFirmwareWatchdogExpiry core umberLow s) := by
  unfold execFirmwareWatchdogExpiry
  repeat' first
    | with_reducible assumption | exact Sub.of hm rfl | exact Has.of hm rfl | intro _
    | (with_reducible first
        | refine Result.next_keeps ?_ | apply State.chipError_keeps | refine Result.ite_keeps ?_ ?_ | refine State.ite_keeps ?_ ?_)
    | split

theorem State.standbyContains_keeps {msk : Nat} {s0 : State} {s : State} (hk0 : State.Keeps msk s0 s) (hm : Sub 0x1000006069000000000000000000000000000000000000000000024000000000000000000000001ffc1c58000000040000278100 msk) :
    State.Keeps msk s0 (State.standbyContains s) := by
  unfold State.standbyContains
  repeat' first
    | with_reducible assumption | exact Sub.of hm rfl | exact Has.of hm rfl | intro _
    | (with_reducible first
        | apply State.leaveLockstep_keeps | refine State.ite_keeps ?_ ?_)
    | split

theorem State.withdrawCells_keeps {msk : Nat} {s0 : State} {s : State} {n : Nat} {lanes : List Nat} (hk0 : State.Keeps msk s0 s) (hm : Sub 0x10000 msk) :
    State.Keeps msk s0 (State.withdrawCells s n lanes) := by
  unfold State.withdrawCells
  repeat' first
    | with_reducible assumption | exact Sub.of hm rfl | exact Has.of hm rfl | intro _
    | (extract_lets +onlyGivenNames x; first | (refine (have hx : State.Keeps msk s0 x := ?_; ?_); (on_goal 2 => clear_value x); (on_goal 1 => subst x)) | (refine (have hx : State.Keeps msk s0 x.1 := ?_; ?_); (on_goal 2 => clear_value x); (on_goal 1 => subst x)) | clear_value x)
    | (with_reducible first
        | apply State.on_keeps | apply Io.withdraw_keeps | apply State.foldl_keeps | apply State.foldl_keeps_fst | apply Io.foldl_keeps
        | apply Io.foldl_keeps_fst | apply State.on_keeps | exact State.Keeps.io (by assumption)
        | fail_if_no_progress refine State.Keeps.io ?_)

theorem State.stopRegion_keeps {msk : Nat} {s0 : State} {s : State} {n : Nat} (hk0 : State.Keeps msk s0 s) (hm : Sub 0x1000006069000000000000000000000000000000000400000000000000000040002000000000001ffc1c58020000040000278203 msk) :
    State.Keeps msk s0 (State.stopRegion s n) := by
  unfold State.stopRegion
  repeat' first
    | with_reducible assumption | exact Sub.of hm rfl | exact Has.of hm rfl | intro _
    | (extract_lets +onlyGivenNames x; first | (refine (have hx : State.Keeps msk s0 x := ?_; ?_); (on_goal 2 => clear_value x); (on_goal 1 => subst x)) | (refine (have hx : State.Keeps msk s0 x.1 := ?_; ?_); (on_goal 2 => clear_value x); (on_goal 1 => subst x)) | clear_value x)
    | (with_reducible first
        | apply State.withdrawCells_keeps | apply State.idleLanes_keeps | apply State.onVideo_keeps | apply State.setPort_keeps
        | apply State.foldl_keeps | apply State.foldl_keeps_fst | fail_if_no_progress refine State.mk_keeps ?_ ?_)

theorem State.regionFault_keeps {msk : Nat} {s0 : State} {s : State} {n block cause : Nat} {umberLow : Bool} (hk0 : State.Keeps msk s0 s) (hm : Sub 0x101fc460690042fc05040000000000000000000000060001c000024003800040002000000000001ffc1c5802000007fc80ffffff msk) :
    State.Keeps msk s0 (State.regionFault s n block cause umberLow) := by
  unfold State.regionFault
  repeat' first
    | with_reducible assumption | exact Sub.of hm rfl | exact Has.of hm rfl | intro _ | exact RegOf.CTL_ERR_FENCES
    | exact RegOf.CTL_ERR_STAT
    | (extract_lets +onlyGivenNames x; first | (refine (have hx : State.Keeps msk s0 x := ?_; ?_); (on_goal 2 => clear_value x); (on_goal 1 => subst x)) | (refine (have hx : State.Keeps msk s0 x.1 := ?_; ?_); (on_goal 2 => clear_value x); (on_goal 1 => subst x)) | clear_value x)
    | (with_reducible first
        | apply State.chipError_keeps | apply Io.bumpF_keeps | apply State.bumpF_keeps | apply State.logError_keeps | apply Io.setF_keeps
        | apply State.setF_keeps | apply State.stopRegion_keeps | apply State.alert_keeps | apply State.onVideo_keeps
        | apply State.standbyContains_keeps | refine State.ite_keeps ?_ ?_ | refine Io.ite_keeps ?_ ?_)
    | split
    | (with_reducible first
        | refine State.Keeps.fst (by assumption) ?_ | exact State.Keeps.io (by assumption) | fail_if_no_progress refine State.Keeps.io ?_
        | fail_if_no_progress refine State.mk_keeps ?_ ?_ | fail_if_no_progress refine Io.mk_keeps ?_)

theorem execRegionFault_keeps {msk : Nat} {s0 : State} {region : Nat} {umberLow : Bool} {s : State} (hk0 : State.Keeps msk s0 s) (hm : Sub 0x101fc460690042fc05040000000000000000000000060001c000024003800040002000000000001ffc1c5802000007fc80ffffff msk) :
    Result.Keeps msk s0 (execRegionFault region umberLow s) := by
  unfold execRegionFault
  repeat' first
    | with_reducible assumption | exact Sub.of hm rfl | exact Has.of hm rfl | intro _
    | (with_reducible first
        | refine Result.next_keeps ?_ | apply State.regionFault_keeps | refine Result.ite_keeps ?_ ?_ | refine State.ite_keeps ?_ ?_
        | refine Io.ite_keeps ?_ ?_)
    | split
    | (with_reducible first
        | exact State.Keeps.io (by assumption) | fail_if_no_progress refine State.Keeps.io ?_)

theorem State.freshMirrors_keeps {msk : Nat} {s0 : State} {s : State} {n : Nat} (hk0 : State.Keeps msk s0 s) (hm : Sub 0x200 msk) :
    State.Keeps msk s0 (State.freshMirrors s n) := by
  unfold State.freshMirrors
  repeat' first
    | with_reducible assumption | exact Sub.of hm rfl | exact Has.of hm rfl | intro _
    | with_reducible apply State.clearMirrors_keeps

theorem State.freshDecoders_keeps {msk : Nat} {s0 : State} {s : State} {n : Nat} (hk0 : State.Keeps msk s0 s) (hm : Sub 0x1000006069000000000000000000000000000000000000000000000060000000000000000000001ffc1c58000000000000278200 msk) :
    State.Keeps msk s0 (State.freshDecoders s n) := by
  unfold State.freshDecoders
  repeat' first
    | with_reducible assumption | exact Sub.of hm rfl | exact Has.of hm rfl | intro _
    | (extract_lets +onlyGivenNames x; first | (refine (have hx : State.Keeps msk s0 x := ?_; ?_); (on_goal 2 => clear_value x); (on_goal 1 => subst x)) | (refine (have hx : State.Keeps msk s0 x.1 := ?_; ?_); (on_goal 2 => clear_value x); (on_goal 1 => subst x)) | clear_value x)
    | (with_reducible first
        | apply State.setDecoder_keeps | apply State.foldl_keeps | apply State.foldl_keeps_fst)
    | split | with_reducible fail_if_no_progress refine State.mk_keeps ?_ ?_

theorem State.freshDrivers_keeps {msk : Nat} {s0 : State} {s : State} {n : Nat} (hk0 : State.Keeps msk s0 s) (hm : Sub 0x400 msk) :
    State.Keeps msk s0 (State.freshDrivers s n) := by
  unfold State.freshDrivers
  repeat' first
    | with_reducible assumption | exact Sub.of hm rfl | exact Has.of hm rfl | intro _
    | (extract_lets +onlyGivenNames x; first | (refine (have hx : State.Keeps msk s0 x := ?_; ?_); (on_goal 2 => clear_value x); (on_goal 1 => subst x)) | clear_value x)
    | (with_reducible first
        | apply State.setGroup_keeps | apply State.foldl_keeps | apply State.foldl_keeps_fst | refine State.ite_keeps ?_ ?_)
    | split | with_reducible fail_if_no_progress refine State.mk_keeps ?_ ?_

theorem State.blockFresh_keeps {msk : Nat} {s0 : State} {s : State} {n block : Nat} (hk0 : State.Keeps msk s0 s) (hm : Sub 0x1000006069000000000000000000000000000000000000000000000060000000000000000000001ffc1c58000000000000278600 msk) :
    State.Keeps msk s0 (State.blockFresh s n block) := by
  unfold State.blockFresh
  repeat' first
    | with_reducible assumption | exact Sub.of hm rfl | exact Has.of hm rfl | intro _
    | (extract_lets +onlyGivenNames x; first | (refine (have hx : State.Keeps msk s0 x := ?_; ?_); (on_goal 2 => clear_value x); (on_goal 1 => subst x)) | clear_value x)
    | (with_reducible first
        | apply State.freshMirrors_keeps | apply State.freshDecoders_keeps | apply State.freshDrivers_keeps)
    | split
    | (with_reducible first
        | refine State.Keeps.fst (by assumption) ?_ | fail_if_no_progress refine State.mk_keeps ?_ ?_)

theorem State.stopBlock_keeps {msk : Nat} {s0 : State} {s : State} {n block : Nat} (hk0 : State.Keeps msk s0 s) (hm : Sub 0x1000006069000000000000000000000000000000000400000000000000000040002000000000001ffc1c58020000040000279203 msk) :
    State.Keeps msk s0 (State.stopBlock s n block) := by
  unfold State.stopBlock
  repeat' first
    | with_reducible assumption | exact Sub.of hm rfl | exact Has.of hm rfl | intro _
    | (extract_lets +onlyGivenNames x; first | (refine (have hx : State.Keeps msk s0 x := ?_; ?_); (on_goal 2 => clear_value x); (on_goal 1 => subst x)) | (refine (have hx : State.Keeps msk s0 x.1 := ?_; ?_); (on_goal 2 => clear_value x); (on_goal 1 => subst x)) | clear_value x)
    | (with_reducible first
        | apply State.on_keeps | apply Io.withdraw_keeps | apply State.idleLanes_keeps | apply State.withdrawCells_keeps
        | apply State.onVideo_keeps | apply State.setPort_keeps | apply State.onAudio_keeps | apply State.foldl_keeps
        | apply State.foldl_keeps_fst | apply Io.foldl_keeps | apply Io.foldl_keeps_fst | apply State.on_keeps)
    | split
    | (with_reducible first
        | refine State.Keeps.fst (by assumption) ?_ | exact State.Keeps.io (by assumption) | fail_if_no_progress refine State.Keeps.io ?_
        | fail_if_no_progress refine State.mk_keeps ?_ ?_ | fail_if_no_progress refine Io.mk_keeps ?_)

theorem State.blockFault_keeps {msk : Nat} {s0 : State} {s : State} {n block cell cause : Nat} {umberLow : Bool} (hk0 : State.Keeps msk s0 s) (hm : Sub 0x101fe460690042fc05040000000000000000000000060001c000024003800040002000000000001ffc1c5802000007fc80ffffff msk) :
    State.Keeps msk s0 (State.blockFault s n block cell cause umberLow) := by
  unfold State.blockFault
  repeat' first
    | with_reducible assumption | exact Sub.of hm rfl | exact Has.of hm rfl | intro _ | exact RegOf.CTL_ERR_BLOCK_RESTARTS
    | (extract_lets +onlyGivenNames x; first | (refine (have hx : State.Keeps msk s0 x := ?_; ?_); (on_goal 2 => clear_value x); (on_goal 1 => subst x)) | (refine (have hx : State.Keeps msk s0 x.1 := ?_; ?_); (on_goal 2 => clear_value x); (on_goal 1 => subst x)) | clear_value x)
    | (with_reducible first
        | apply State.regionFault_keeps | apply Io.bumpF_keeps | apply State.bumpF_keeps | apply State.logError_keeps
        | apply State.stopBlock_keeps | apply State.onVideo_keeps | apply State.standbyContains_keeps | refine State.ite_keeps ?_ ?_
        | refine Io.ite_keeps ?_ ?_)
    | split
    | (with_reducible first
        | exact State.Keeps.io (by assumption) | fail_if_no_progress refine State.Keeps.io ?_
        | fail_if_no_progress refine State.mk_keeps ?_ ?_ | fail_if_no_progress refine Io.mk_keeps ?_)

theorem execBlockFault_keeps {msk : Nat} {s0 : State} {region block : Nat} {umberLow : Bool} {s : State} (hk0 : State.Keeps msk s0 s) (hm : Sub 0x101fe460690042fc05040000000000000000000000060001c000024003800040002000000000001ffc1c5802000007fc80ffffff msk) :
    Result.Keeps msk s0 (execBlockFault region block umberLow s) := by
  unfold execBlockFault
  repeat' first
    | with_reducible assumption | exact Sub.of hm rfl | exact Has.of hm rfl | intro _
    | (with_reducible first
        | refine Result.next_keeps ?_ | apply State.blockFault_keeps | refine Result.ite_keeps ?_ ?_ | refine State.ite_keeps ?_ ?_
        | refine Io.ite_keeps ?_ ?_)
    | split
    | (with_reducible first
        | exact State.Keeps.io (by assumption) | fail_if_no_progress refine State.Keeps.io ?_)

theorem State.blockReturn_keeps {msk : Nat} {s0 : State} {s : State} {n block : Nat} (hk0 : State.Keeps msk s0 s) (hm : Sub 0x1000006069000000000000000000000000000000000000000000000060000000000000000000001ffc1c58000000000000278600 msk) :
    State.Keeps msk s0 (State.blockReturn s n block) := by
  unfold State.blockReturn
  repeat' first
    | with_reducible assumption | exact Sub.of hm rfl | exact Has.of hm rfl | intro _
    | (extract_lets +onlyGivenNames x; first | (refine (have hx : State.Keeps msk s0 x := ?_; ?_); (on_goal 2 => clear_value x); (on_goal 1 => subst x)) | (refine (have hx : State.Keeps msk s0 x.1 := ?_; ?_); (on_goal 2 => clear_value x); (on_goal 1 => subst x)) | clear_value x)
    | (with_reducible first
        | apply State.onVideo_keeps | apply State.blockFresh_keeps | exact State.Keeps.io (by assumption)
        | fail_if_no_progress refine State.Keeps.io ?_ | fail_if_no_progress refine State.mk_keeps ?_ ?_
        | fail_if_no_progress refine Io.mk_keeps ?_)

theorem execBlockRestartDone_keeps {msk : Nat} {s0 : State} {region block : Nat} {s : State} (hk0 : State.Keeps msk s0 s) (hm : Sub 0x1000006069000000000000000000000000000000000000000000000060000000000000000000001ffc1c58000000000000278600 msk) :
    Result.Keeps msk s0 (execBlockRestartDone region block s) := by
  unfold execBlockRestartDone
  repeat' first
    | with_reducible assumption | exact Sub.of hm rfl | exact Has.of hm rfl | intro _
    | (extract_lets +onlyGivenNames x; first | (refine (have hx : State.Keeps msk s0 x := ?_; ?_); (on_goal 2 => clear_value x); (on_goal 1 => subst x)) | (refine (have hx : State.Keeps msk s0 x.1 := ?_; ?_); (on_goal 2 => clear_value x); (on_goal 1 => subst x)) | clear_value x)
    | (with_reducible first
        | refine Result.next_keeps ?_ | apply State.blockReturn_keeps | apply State.onVideo_keeps | refine Result.ite_keeps ?_ ?_
        | refine State.ite_keeps ?_ ?_ | refine Io.ite_keeps ?_ ?_)
    | split
    | (with_reducible first
        | refine State.Keeps.fst (by assumption) ?_ | exact State.Keeps.io (by assumption) | fail_if_no_progress refine State.Keeps.io ?_
        | fail_if_no_progress refine State.mk_keeps ?_ ?_ | fail_if_no_progress refine Io.mk_keeps ?_)

theorem execBlockRestartTimeout_keeps {msk : Nat} {s0 : State} {region block : Nat} {umberLow : Bool} {s : State} (hk0 : State.Keeps msk s0 s) (hm : Sub 0x101fc460690042fc05040000000000000000000000060001c000024003800040002000000000001ffc1c5802000007fc80ffffff msk) :
    Result.Keeps msk s0 (execBlockRestartTimeout region block umberLow s) := by
  unfold execBlockRestartTimeout
  repeat' first
    | with_reducible assumption | exact Sub.of hm rfl | exact Has.of hm rfl | intro _
    | (extract_lets +onlyGivenNames x; first | (refine (have hx : State.Keeps msk s0 x := ?_; ?_); (on_goal 2 => clear_value x); (on_goal 1 => subst x)) | (refine (have hx : State.Keeps msk s0 x.1 := ?_; ?_); (on_goal 2 => clear_value x); (on_goal 1 => subst x)) | clear_value x)
    | (with_reducible first
        | refine Result.next_keeps ?_ | apply State.regionFault_keeps | refine Result.ite_keeps ?_ ?_ | refine State.ite_keeps ?_ ?_
        | refine Io.ite_keeps ?_ ?_)
    | split
    | (with_reducible first
        | refine State.Keeps.fst (by assumption) ?_ | exact State.Keeps.io (by assumption) | fail_if_no_progress refine State.Keeps.io ?_
        | fail_if_no_progress refine State.mk_keeps ?_ ?_ | fail_if_no_progress refine Io.mk_keeps ?_)

theorem State.loseSegments_keeps {msk : Nat} {s0 : State} {s : State} {chain pos row : Nat} (hk0 : State.Keeps msk s0 s) (hm : Sub 0x202 msk) :
    State.Keeps msk s0 (State.loseSegments s chain pos row) := by
  unfold State.loseSegments
  repeat' first
    | with_reducible assumption | exact Sub.of hm rfl | exact Has.of hm rfl | intro _
    | (extract_lets +onlyGivenNames x; first | (refine (have hx : State.Keeps msk s0 x := ?_; ?_); (on_goal 2 => clear_value x); (on_goal 1 => subst x)) | (refine (have hx : State.Keeps msk s0 x.1 := ?_; ?_); (on_goal 2 => clear_value x); (on_goal 1 => subst x)) | clear_value x)
    | with_reducible apply State.setPort_keeps | split
    | (with_reducible first
        | refine State.Keeps.fst (by assumption) ?_ | fail_if_no_progress refine State.mk_keeps ?_ ?_)

theorem State.substitute_keeps {msk : Nat} {s0 : State} {s : State} {x : BadRow} (hk0 : State.Keeps msk s0 s) (hm : Sub 0x1202 msk) :
    State.Keeps msk s0 (State.substitute s x) := by
  unfold State.substitute
  repeat' first
    | with_reducible assumption | exact Sub.of hm rfl | exact Has.of hm rfl | intro _
    | (extract_lets +onlyGivenNames x; first | (refine (have hx : State.Keeps msk s0 x := ?_; ?_); (on_goal 2 => clear_value x); (on_goal 1 => subst x)) | (refine (have hx : State.Keeps msk s0 x.1 := ?_; ?_); (on_goal 2 => clear_value x); (on_goal 1 => subst x)) | clear_value x)
    | (with_reducible first
        | apply State.onVideo_keeps | apply State.loseSegments_keeps | apply State.onAudio_keeps)
    | split
    | (with_reducible first
        | refine State.Keeps.fst (by assumption) ?_ | fail_if_no_progress refine State.mk_keeps ?_ ?_)

theorem State.cellFault_keeps {msk : Nat} {s0 : State} {s : State} {n block cell chain pos row cause : Nat} {again umberLow : Bool} (hk0 : State.Keeps msk s0 s) (hm : Sub 0x101ffc60690042fc05040000000000000000000000060001c000024003800848002000000000001ffc1c5802000007fc80ffffff msk) :
    State.Keeps msk s0 (State.cellFault s n block cell chain pos row cause again umberLow) := by
  unfold State.cellFault
  repeat' first
    | with_reducible assumption | exact Sub.of hm rfl | exact Has.of hm rfl | intro _ | exact RegOf.CTL_ERR_CELL_RETRY
    | exact RegOf.CTL_ERR_CELL_SUBST | exact RegOf.DEC_RETRIES _ | exact RegOf.ENC_RETRIES _
    | (extract_lets +onlyGivenNames x; first | (refine (have hx : State.Keeps msk s0 x := ?_; ?_); (on_goal 2 => clear_value x); (on_goal 1 => subst x)) | (refine (have hx : State.Keeps msk s0 x.1 := ?_; ?_); (on_goal 2 => clear_value x); (on_goal 1 => subst x)) | clear_value x)
    | (with_reducible first
        | apply State.regionFault_keeps | apply Io.bumpF_keeps | apply State.bumpF_keeps | apply State.logError_keeps
        | apply State.substitute_keeps | apply State.blockFault_keeps | refine State.ite_keeps ?_ ?_ | refine Io.ite_keeps ?_ ?_)
    | split
    | (with_reducible first
        | exact State.Keeps.io (by assumption) | fail_if_no_progress refine State.Keeps.io ?_)

theorem execCellFault_keeps {msk : Nat} {s0 : State} {region block cell chain position row : Nat} {check again umberLow : Bool} {s : State} (hk0 : State.Keeps msk s0 s) (hm : Sub 0x101ffc60690042fc05040000000000000000000000060001c000024003800848002000000000001ffc1c5802000007fc80ffffff msk) :
    Result.Keeps msk s0 (execCellFault region block cell chain position row check again umberLow s) := by
  unfold execCellFault
  repeat' first
    | with_reducible assumption | exact Sub.of hm rfl | exact Has.of hm rfl | intro _
    | (with_reducible first
        | refine Result.next_keeps ?_ | apply State.cellFault_keeps | refine Result.ite_keeps ?_ ?_ | refine State.ite_keeps ?_ ?_
        | refine Io.ite_keeps ?_ ?_)
    | split
    | (with_reducible first
        | exact State.Keeps.io (by assumption) | fail_if_no_progress refine State.Keeps.io ?_)

theorem execCellStall_keeps {msk : Nat} {s0 : State} {region block cell chain position row : Nat} {again umberLow : Bool} {s : State} (hk0 : State.Keeps msk s0 s) (hm : Sub 0x101ffc60690042fc05040000000000000000000000060001c000024003800848002000000000001ffc1c5802000007fc80ffffff msk) :
    Result.Keeps msk s0 (execCellStall region block cell chain position row again umberLow s) := by
  unfold execCellStall
  repeat' first
    | with_reducible assumption | exact Sub.of hm rfl | exact Has.of hm rfl | intro _
    | (with_reducible first
        | refine Result.next_keeps ?_ | apply State.cellFault_keeps | refine Result.ite_keeps ?_ ?_ | refine State.ite_keeps ?_ ?_
        | refine Io.ite_keeps ?_ ?_)
    | split
    | (with_reducible first
        | exact State.Keeps.io (by assumption) | fail_if_no_progress refine State.Keeps.io ?_)

theorem State.returnRegion_keeps {msk : Nat} {s0 : State} {s : State} {n : Nat} (hk0 : State.Keeps msk s0 s) (hm : Sub 0x1001046069000000000000000000000000000000000000000000000060000000000000000000001ffc1c58000000000000278600 msk) :
    State.Keeps msk s0 (State.returnRegion s n) := by
  unfold State.returnRegion
  repeat' first
    | with_reducible assumption | exact Sub.of hm rfl | exact Has.of hm rfl | intro _ | exact RegOf.CTL_ERR_STAT
    | (extract_lets +onlyGivenNames x; first | (refine (have hx : State.Keeps msk s0 x := ?_; ?_); (on_goal 2 => clear_value x); (on_goal 1 => subst x)) | (refine (have hx : State.Keeps msk s0 x.1 := ?_; ?_); (on_goal 2 => clear_value x); (on_goal 1 => subst x)) | clear_value x)
    | (with_reducible first
        | apply State.onVideo_keeps | apply Io.setF_keeps | apply State.setF_keeps | apply State.alert_keeps
        | apply State.freshMirrors_keeps | apply State.freshDecoders_keeps | apply State.freshDrivers_keeps | apply State.on_keeps
        | apply Io.settle_keeps | apply Io.grantAll_keeps | apply State.on_keeps | refine State.ite_keeps ?_ ?_ | refine Io.ite_keeps ?_ ?_)
    | split
    | (with_reducible first
        | exact State.Keeps.io (by assumption) | fail_if_no_progress refine State.Keeps.io ?_
        | fail_if_no_progress refine State.mk_keeps ?_ ?_ | fail_if_no_progress refine Io.mk_keeps ?_)

theorem State.errorTick_keeps {msk : Nat} {s0 : State} {s : State} (hk0 : State.Keeps msk s0 s) (hm : Sub 0x1001046069000000000000000000000000000000000000000000000060000000000000000000001ffc1c58000000000000278600 msk) :
    State.Keeps msk s0 (State.errorTick s) := by
  unfold State.errorTick
  repeat' first
    | with_reducible assumption | exact Sub.of hm rfl | exact Has.of hm rfl | intro _ | exact RegOf.CTL_ERR_STAT
    | (extract_lets +onlyGivenNames x; first | (refine (have hx : State.Keeps msk s0 x := ?_; ?_); (on_goal 2 => clear_value x); (on_goal 1 => subst x)) | (refine (have hx : State.Keeps msk s0 x.1 := ?_; ?_); (on_goal 2 => clear_value x); (on_goal 1 => subst x)) | clear_value x)
    | (with_reducible first
        | apply State.returnRegion_keeps | apply State.blockReturn_keeps | apply Io.setF_keeps | apply State.setF_keeps
        | apply State.foldl_keeps | apply State.foldl_keeps_fst | apply Io.foldl_keeps | apply Io.foldl_keeps_fst
        | refine State.ite_keeps ?_ ?_ | refine Io.ite_keeps ?_ ?_)
    | split
    | (with_reducible first
        | exact State.Keeps.io (by assumption) | fail_if_no_progress refine State.Keeps.io ?_)

end Sys2Proof.Machine
end

