-- ==== Sys2Proof/Laws/KeepsPins.lean ====
section
/-! SUPPORT. What the operations of Machine/Pins.lean keep. -/

set_option linter.unusedTactic false
set_option linter.unreachableTactic false
set_option linter.tactic.unusedName false

set_option Elab.async false

namespace Sys2Proof.Machine

theorem State.readPins_keeps {msk : Nat} {s0 : State} {s : State} (hk0 : State.Keeps msk s0 s) (hm : Sub 0x400000 msk) :
    State.Keeps msk s0 (State.readPins s).1 := by
  unfold State.readPins
  repeat' first
    | with_reducible assumption | exact Sub.of hm rfl | exact Has.of hm rfl | intro _
    | (with_reducible first
        | apply State.on_keeps | apply Io.spend_keeps | apply State.on_keeps | exact State.Keeps.io (by assumption)
        | fail_if_no_progress refine State.Keeps.io ?_)

end Sys2Proof.Machine
end

