-- ==== Sys2Proof/Laws/KeepsAccess.lean ====
section
/-! SUPPORT. What the operations of Machine/Access.lean keep. -/

set_option linter.unusedTactic false
set_option linter.unreachableTactic false
set_option linter.tactic.unusedName false

set_option Elab.async false

namespace Sys2Proof.Machine

theorem Io.readLatched_keeps {msk : Nat} {s0 : Io} {s : Io} {a : Nat} (hk0 : Io.Keeps msk s0 s) (hm : Sub 0x80000 msk) :
    Io.Keeps msk s0 (Io.readLatched s a).1 := by
  unfold Io.readLatched
  repeat' first
    | with_reducible assumption | exact Sub.of hm rfl | exact Has.of hm rfl | intro _
    | (extract_lets +onlyGivenNames x; first | (refine (have hx : Io.Keeps msk s0 x := ?_; ?_); (on_goal 2 => clear_value x); (on_goal 1 => subst x)) | (refine (have hx : Io.Keeps msk s0 x.1 := ?_; ?_); (on_goal 2 => clear_value x); (on_goal 1 => subst x)) | clear_value x)
    | (with_reducible first
        | refine Io.ite_keeps ?_ ?_ | refine Io.ite_keeps_fst ?_ ?_)
    | split
    | (with_reducible first
        | refine Io.Keeps.fst (by assumption) ?_ | fail_if_no_progress refine Io.mk_keeps ?_
        | fail_if_no_progress refine Io.eraseRing_keeps ?_ ?_)

theorem State.readReg_keeps {msk : Nat} {s0 : State} {s : State} {a : Nat} (hk0 : State.Keeps msk s0 s) (hm : Sub 0x100000000000000000000000000000000000000000000000000000000000000000000000000482000 msk) :
    State.Keeps msk s0 (State.readReg s a).1 := by
  unfold State.readReg
  repeat' first
    | with_reducible assumption | exact Sub.of hm rfl | exact Has.of hm rfl | intro _
    | (extract_lets +onlyGivenNames x; first | (refine (have hx : State.Keeps msk s0 x := ?_; ?_); (on_goal 2 => clear_value x); (on_goal 1 => subst x)) | (refine (have hx : State.Keeps msk s0 x.1 := ?_; ?_); (on_goal 2 => clear_value x); (on_goal 1 => subst x)) | (refine (have hx : Io.Keeps msk s0.io x := ?_; ?_); (on_goal 2 => clear_value x); (on_goal 1 => subst x)) | (refine (have hx : Io.Keeps msk s0.io x.1 := ?_; ?_); (on_goal 2 => clear_value x); (on_goal 1 => subst x)) | (refine (have hx : ∀ y, State.Keeps msk s0 (x y) := ?_; ?_); (on_goal 2 => clear_value x); (on_goal 1 => subst x)) | (refine (have hx : ∀ y, State.Keeps msk s0 (x y).1 := ?_; ?_); (on_goal 2 => clear_value x); (on_goal 1 => subst x)) | clear_value x)
    | (with_reducible first
        | apply State.recordRead_keeps | apply State.readPins_keeps | apply Io.readLatched_keeps | apply hx | refine State.ite_keeps ?_ ?_
        | refine State.ite_keeps_fst ?_ ?_ | refine Io.ite_keeps ?_ ?_ | refine Io.ite_keeps_fst ?_ ?_)
    | split
    | (with_reducible first
        | refine State.Keeps.fst (by assumption) ?_ | refine Io.Keeps.fst (by assumption) ?_ | exact State.Keeps.io (by assumption)
        | fail_if_no_progress refine State.Keeps.io ?_ | fail_if_no_progress refine State.mk_keeps ?_ ?_
        | fail_if_no_progress refine Io.mk_keeps ?_)

theorem State.clearStatus_keeps {msk : Nat} {s0 : State} {s : State} {i v : Nat} {coincident : List Nat} (hk0 : State.Keeps msk s0 s) (hm : Sub 0x1000006069000000000000000000000000000000000000000000000000000000000000000000001ffc1c58000000000000278000 msk) :
    State.Keeps msk s0 (State.clearStatus s i v coincident) := by
  unfold State.clearStatus
  repeat' first
    | with_reducible assumption | exact Sub.of hm rfl | exact Has.of hm rfl | intro _ | exact RegOf.CTL_EVT_COUNT _
    | (extract_lets +onlyGivenNames x; first | (refine (have hx : State.Keeps msk s0 x := ?_; ?_); (on_goal 2 => clear_value x); (on_goal 1 => subst x)) | (refine (have hx : State.Keeps msk s0 x.1 := ?_; ?_); (on_goal 2 => clear_value x); (on_goal 1 => subst x)) | clear_value x)
    | (with_reducible first
        | apply State.on_keeps | apply Io.settle_keeps | apply Io.occur_keeps | apply Io.setStatus_keeps | apply Io.setF_keeps
        | apply State.setF_keeps | apply State.foldl_keeps | apply State.foldl_keeps_fst | apply Io.foldl_keeps | apply Io.foldl_keeps_fst
        | apply State.on_keeps | refine State.ite_keeps ?_ ?_ | refine Io.ite_keeps ?_ ?_)
    | split
    | (with_reducible first
        | exact State.Keeps.io (by assumption) | fail_if_no_progress refine State.Keeps.io ?_)

theorem State.writeMask_keeps {msk : Nat} {s0 : State} {s : State} {i v : Nat} (hk0 : State.Keeps msk s0 s) (hm : Sub 0x10000000020000000000000000000000000000000000000000000000000000000000000000000000000000000000000000200000 msk) :
    State.Keeps msk s0 (State.writeMask s i v) := by
  unfold State.writeMask
  repeat' first
    | with_reducible assumption | exact Sub.of hm rfl | exact Has.of hm rfl | intro _ | exact RegOf.CTL_EVT_MASK _
    | (extract_lets +onlyGivenNames x; first | (refine (have hx : State.Keeps msk s0 x := ?_; ?_); (on_goal 2 => clear_value x); (on_goal 1 => subst x)) | (refine (have hx : State.Keeps msk s0 x.1 := ?_; ?_); (on_goal 2 => clear_value x); (on_goal 1 => subst x)) | clear_value x)
    | (with_reducible first
        | apply State.on_keeps | apply Io.setReg_keeps | apply Io.evtMessage_keeps | apply State.foldl_keeps | apply State.foldl_keeps_fst
        | apply Io.foldl_keeps | apply Io.foldl_keeps_fst | apply State.on_keeps | refine State.ite_keeps ?_ ?_ | refine Io.ite_keeps ?_ ?_)
    | split
    | (with_reducible first
        | exact State.Keeps.io (by assumption) | fail_if_no_progress refine State.Keeps.io ?_)

theorem State.snapshot_keeps {msk : Nat} {s0 : State} {s : State} (hk0 : State.Keeps msk s0 s) (hm : Sub 0x380000000000000000000000000000000000000000000000000000000000000000000000000000000000000000000080000 msk) :
    State.Keeps msk s0 (State.snapshot s) := by
  unfold State.snapshot
  repeat' first
    | with_reducible assumption | exact Sub.of hm rfl | exact Has.of hm rfl | intro _ | exact RegOf.CTL_CNT_SNAP_SEQ
    | exact RegOf.CTL_CNT_SNAP_TICK_HI | exact RegOf.CTL_CNT_SNAP_TICK_LO
    | (extract_lets +onlyGivenNames x; first | (refine (have hx : State.Keeps msk s0 x := ?_; ?_); (on_goal 2 => clear_value x); (on_goal 1 => subst x)) | (refine (have hx : State.Keeps msk s0 x.1 := ?_; ?_); (on_goal 2 => clear_value x); (on_goal 1 => subst x)) | clear_value x)
    | (with_reducible first
        | apply State.on_keeps | apply Io.setF_keeps | apply State.setF_keeps | apply Io.setWide_keeps | apply State.on_keeps
        | exact State.Keeps.io (by assumption) | fail_if_no_progress refine State.Keeps.io ?_
        | fail_if_no_progress refine State.mk_keeps ?_ ?_ | fail_if_no_progress refine Io.mk_keeps ?_)

theorem State.clearCounters_keeps {msk : Nat} {s0 : State} {s : State} (hk0 : State.Keeps msk s0 s) (hm : Sub 0x60000000000000000000000000000000000000000000000000000000000000000000000000000000000000000000040000 msk) :
    State.Keeps msk s0 (State.clearCounters s) := by
  unfold State.clearCounters
  repeat' first
    | with_reducible assumption | exact Sub.of hm rfl | exact Has.of hm rfl | intro _ | exact RegOf.CTL_CNT_OVF_A
    | exact RegOf.CTL_CNT_OVF_B
    | (extract_lets +onlyGivenNames x; first | (refine (have hx : State.Keeps msk s0 x := ?_; ?_); (on_goal 2 => clear_value x); (on_goal 1 => subst x)) | clear_value x)
    | (with_reducible first
        | apply State.on_keeps | apply Io.setReg_keeps | apply State.on_keeps | exact State.Keeps.io (by assumption)
        | fail_if_no_progress refine State.Keeps.io ?_ | fail_if_no_progress refine State.mk_keeps ?_ ?_
        | fail_if_no_progress refine Io.mk_keeps ?_)

theorem State.writeGlobal_keeps {msk : Nat} {s0 : State} {s : State} {v : Nat} (hk0 : State.Keeps msk s0 s) (hm : Sub 0x100003f069000000000000000000000000000000000000000000000000000000000000000000001ffc1c580000000000002f8000 msk) :
    State.Keeps msk s0 (State.writeGlobal s v) := by
  unfold State.writeGlobal
  repeat' first
    | with_reducible assumption | exact Sub.of hm rfl | exact Has.of hm rfl | intro _ | exact RegOf.CTL_CNT_GLOBAL
    | (extract_lets +onlyGivenNames x; first | (refine (have hx : State.Keeps msk s0 x := ?_; ?_); (on_goal 2 => clear_value x); (on_goal 1 => subst x)) | (refine (have hx : State.Keeps msk s0 x.1 := ?_; ?_); (on_goal 2 => clear_value x); (on_goal 1 => subst x)) | clear_value x)
    | (with_reducible first
        | apply State.snapshot_keeps | apply State.clearCounters_keeps | apply State.on_keeps | apply Io.setReg_keeps | apply Io.fire_keeps
        | apply State.fire_keeps | apply State.on_keeps | refine State.ite_keeps ?_ ?_ | refine Io.ite_keeps ?_ ?_)
    | split
    | (with_reducible first
        | exact State.Keeps.io (by assumption) | fail_if_no_progress refine State.Keeps.io ?_)

theorem State.resetCounter_keeps {msk : Nat} {s0 : State} {s : State} {c : Nat} (hk0 : State.Keeps msk s0 s) (hm : Sub 0x40000 msk) :
    State.Keeps msk s0 (State.resetCounter s c) := by
  unfold State.resetCounter
  repeat' first
    | with_reducible assumption | exact Sub.of hm rfl | exact Has.of hm rfl | intro _
    | (extract_lets +onlyGivenNames x; first | (refine (have hx : State.Keeps msk s0 x := ?_; ?_); (on_goal 2 => clear_value x); (on_goal 1 => subst x)) | clear_value x)
    | (with_reducible first
        | apply State.on_keeps | apply State.on_keeps | exact State.Keeps.io (by assumption) | fail_if_no_progress refine State.Keeps.io ?_
        | fail_if_no_progress refine State.mk_keeps ?_ ?_ | fail_if_no_progress refine Io.mk_keeps ?_
        | fail_if_no_progress refine Io.eraseRing_keeps ?_ ?_)

theorem State.writeCounter_keeps {msk : Nat} {s0 : State} {s : State} {c v : Nat} (hk0 : State.Keeps msk s0 s) (hm : Sub 0x800000000000000000000000000000000000000000000000000000000000000000000000000000000000000000040000 msk) :
    State.Keeps msk s0 (State.writeCounter s c v) := by
  unfold State.writeCounter
  repeat' first
    | with_reducible assumption | exact Sub.of hm rfl | exact Has.of hm rfl | intro _ | exact RegOf.CTL_CNT_CFG _
    | (extract_lets +onlyGivenNames x; first | (refine (have hx : State.Keeps msk s0 x := ?_; ?_); (on_goal 2 => clear_value x); (on_goal 1 => subst x)) | (refine (have hx : State.Keeps msk s0 x.1 := ?_; ?_); (on_goal 2 => clear_value x); (on_goal 1 => subst x)) | clear_value x)
    | (with_reducible first
        | apply State.on_keeps | apply Io.setReg_keeps | apply State.resetCounter_keeps | apply State.on_keeps
        | refine State.ite_keeps ?_ ?_ | refine Io.ite_keeps ?_ ?_)
    | split
    | (with_reducible first
        | exact State.Keeps.io (by assumption) | fail_if_no_progress refine State.Keeps.io ?_)

theorem after_keeps {m : Nat} {s0 s : State} {r : Result} (h : State.Keeps m s0 s) (hr : Result.Keeps m s0 r) : State.Keeps m s0 (after s r) := by
  unfold after
  split
  · exact hr.next _ rfl
  · exact h

theorem State.writeUmber_keeps {msk : Nat} {s0 : State} {s : State} {v : Nat} (hk0 : State.Keeps msk s0 s) (hm : Sub 0x10010460691272fc05040000000000000000000000020001c000004003800000000000000000001ffc1c5800000003fc80ffffff msk) :
    State.Keeps msk s0 (State.writeUmber s v) := by
  unfold State.writeUmber
  repeat' first
    | with_reducible assumption | exact Sub.of hm rfl | exact Has.of hm rfl | intro _
    | (extract_lets +onlyGivenNames x; first | (refine (have hx : State.Keeps msk s0 x := ?_; ?_); (on_goal 2 => clear_value x); (on_goal 1 => subst x)) | clear_value x)
    | (with_reducible first
        | apply after_keeps | apply execUmberNone_keeps | apply execUmberFormat_keeps | apply execUmberOpen_keeps
        | apply execUmberBlock_keeps | apply execUmberClose_keeps | apply execUmberDiscard_keeps | apply execUmberRestart_keeps
        | apply execUmberBootActive_keeps | apply execUmberBadCmd_keeps)
    | split
    | (with_reducible first
        | refine State.Keeps.fst (by assumption) ?_ | fail_if_no_progress refine State.mk_keeps ?_ ?_)

theorem State.linkRetry_keeps {msk : Nat} {s0 : State} {s : State} {p : Nat} (hk0 : State.Keeps msk s0 s) (hm : Sub 0x8000000000000000000000000000000000000000200002 msk) :
    State.Keeps msk s0 (State.linkRetry s p) := by
  unfold State.linkRetry
  repeat' first
    | with_reducible assumption | exact Sub.of hm rfl | exact Has.of hm rfl | intro _
    | (with_reducible first
        | apply State.startAttempts_keeps | refine State.ite_keeps ?_ ?_ | refine Io.ite_keeps ?_ ?_)
    | split
    | (with_reducible first
        | exact State.Keeps.io (by assumption) | fail_if_no_progress refine State.Keeps.io ?_)

theorem State.linkForce_keeps {msk : Nat} {s0 : State} {s : State} {p : Nat} (hk0 : State.Keeps msk s0 s) (hm : Sub 0x1001006069000000000000000000000000000000000000000100024100800000000000000000001ffc1c58000000040000278102 msk) :
    State.Keeps msk s0 (State.linkForce s p) := by
  unfold State.linkForce
  repeat' first
    | with_reducible assumption | exact Sub.of hm rfl | exact Has.of hm rfl | intro _
    | (with_reducible first
        | apply State.retrain_keeps | refine State.ite_keeps ?_ ?_ | refine Io.ite_keeps ?_ ?_)
    | split
    | (with_reducible first
        | exact State.Keeps.io (by assumption) | fail_if_no_progress refine State.Keeps.io ?_)

theorem State.writeLinkTest_keeps {msk : Nat} {s0 : State} {s : State} {p v : Nat} (hk0 : State.Keeps msk s0 s) (hm : Sub 0x1001006069000000000000000000000000000000000000000100024100800000000000000000001ffc1c58000000040000278102 msk) :
    State.Keeps msk s0 (State.writeLinkTest s p v) := by
  unfold State.writeLinkTest
  repeat' first
    | with_reducible assumption | exact Sub.of hm rfl | exact Has.of hm rfl | intro _
    | (extract_lets +onlyGivenNames x; first | (refine (have hx : State.Keeps msk s0 x := ?_; ?_); (on_goal 2 => clear_value x); (on_goal 1 => subst x)) | (refine (have hx : State.Keeps msk s0 x.1 := ?_; ?_); (on_goal 2 => clear_value x); (on_goal 1 => subst x)) | clear_value x)
    | (with_reducible first
        | apply State.linkRetry_keeps | apply State.linkForce_keeps | refine State.ite_keeps ?_ ?_)
    | split

theorem State.writePairTest_keeps {msk : Nat} {s0 : State} {s : State} {v : Nat} (hk0 : State.Keeps msk s0 s) (hm : Sub 0x1000006069000000000000000000000000000000000000000000000000000000000000000000001ffc1c58000000000000278102 msk) :
    State.Keeps msk s0 (State.writePairTest s v) := by
  unfold State.writePairTest
  repeat' first
    | with_reducible assumption | exact Sub.of hm rfl | exact Has.of hm rfl | intro _
    | (extract_lets +onlyGivenNames x; first | (refine (have hx : State.Keeps msk s0 x := ?_; ?_); (on_goal 2 => clear_value x); (on_goal 1 => subst x)) | (refine (have hx : State.Keeps msk s0 x.1 := ?_; ?_); (on_goal 2 => clear_value x); (on_goal 1 => subst x)) | clear_value x)
    | (with_reducible first
        | apply State.pairHandover_keeps | apply State.pairForeign_keeps | refine State.ite_keeps ?_ ?_)
    | split

theorem State.writeBoardTest_keeps {msk : Nat} {s0 : State} {s : State} {v : Nat} (hk0 : State.Keeps msk s0 s) (hm : Sub 0x10000060690000000000000000000001e6c40000000000000000000000000000000000000000001ffc1c58000000000000278400 msk) :
    State.Keeps msk s0 (State.writeBoardTest s v) := by
  unfold State.writeBoardTest
  repeat' first
    | with_reducible assumption | exact Sub.of hm rfl | exact Has.of hm rfl | intro _ | exact RegOf.LBD_TEST
    | (extract_lets +onlyGivenNames x; first | (refine (have hx : State.Keeps msk s0 x := ?_; ?_); (on_goal 2 => clear_value x); (on_goal 1 => subst x)) | (refine (have hx : State.Keeps msk s0 x.1 := ?_; ?_); (on_goal 2 => clear_value x); (on_goal 1 => subst x)) | clear_value x)
    | (with_reducible first
        | apply Io.setF_keeps | apply State.setF_keeps | apply State.releaseBoard_keeps | apply State.retestBoard_keeps
        | refine State.ite_keeps ?_ ?_)
    | split

theorem State.writeMsix_keeps {msk : Nat} {s0 : State} {s : State} {a v : Nat} (hk0 : State.Keeps msk s0 s) (hm : Sub 0x18000000000000000000000000000000000000000000000000000000000000000000000000000000000000000000000080280000 msk) :
    State.Keeps msk s0 (State.writeMsix s a v) := by
  unfold State.writeMsix
  repeat' first
    | with_reducible assumption | exact Sub.of hm rfl | exact Has.of hm rfl | intro _ | exact RegOf.anyReg _
    | (extract_lets +onlyGivenNames x; first | (refine (have hx : State.Keeps msk s0 x := ?_; ?_); (on_goal 2 => clear_value x); (on_goal 1 => subst x)) | (refine (have hx : State.Keeps msk s0 x.1 := ?_; ?_); (on_goal 2 => clear_value x); (on_goal 1 => subst x)) | (refine (have hx : Io.Keeps msk s0.io x := ?_; ?_); (on_goal 2 => clear_value x); (on_goal 1 => subst x)) | (refine (have hx : Io.Keeps msk s0.io x.1 := ?_; ?_); (on_goal 2 => clear_value x); (on_goal 1 => subst x)) | (refine (have hx : ∀ y, State.Keeps msk s0 (x y) := ?_; ?_); (on_goal 2 => clear_value x); (on_goal 1 => subst x)) | (refine (have hx : ∀ y, State.Keeps msk s0 (x y).1 := ?_; ?_); (on_goal 2 => clear_value x); (on_goal 1 => subst x)) | clear_value x)
    | (with_reducible first
        | apply State.on_keeps | apply Io.setReg_keeps | apply Io.msixUnmask_keeps | apply State.on_keeps | apply hx
        | refine State.ite_keeps ?_ ?_ | refine State.ite_keeps_fst ?_ ?_ | refine Io.ite_keeps ?_ ?_ | refine Io.ite_keeps_fst ?_ ?_)
    | split
    | (with_reducible first
        | refine State.Keeps.fst (by assumption) ?_ | refine Io.Keeps.fst (by assumption) ?_ | exact State.Keeps.io (by assumption)
        | fail_if_no_progress refine State.Keeps.io ?_ | fail_if_no_progress refine State.mk_keeps ?_ ?_
        | fail_if_no_progress refine Io.mk_keeps ?_ | fail_if_no_progress refine Io.eraseRing_keeps ?_ ?_)

theorem State.writePatCtl_keeps {msk : Nat} {s0 : State} {s : State} {ch v : Nat} (hk0 : State.Keeps msk s0 s) (hm : Sub 0x500000000000000000000000420000 msk) :
    State.Keeps msk s0 (State.writePatCtl s ch v) := by
  unfold State.writePatCtl
  repeat' first
    | with_reducible assumption | exact Sub.of hm rfl | exact Has.of hm rfl | intro _ | exact RegOf.DMC_CH_PAT_CTL _ _
    | (extract_lets +onlyGivenNames x; first | (refine (have hx : State.Keeps msk s0 x := ?_; ?_); (on_goal 2 => clear_value x); (on_goal 1 => subst x)) | (refine (have hx : State.Keeps msk s0 x.1 := ?_; ?_); (on_goal 2 => clear_value x); (on_goal 1 => subst x)) | clear_value x)
    | (with_reducible first
        | apply State.patternStart_keeps | apply State.on_keeps | apply Io.setReg_keeps | apply State.on_keeps
        | refine State.ite_keeps ?_ ?_ | refine Io.ite_keeps ?_ ?_)
    | split
    | (with_reducible first
        | exact State.Keeps.io (by assumption) | fail_if_no_progress refine State.Keeps.io ?_)

theorem State.performWrite_keeps {msk : Nat} {s0 : State} {s : State} {a v : Nat} {r : RegRow} {i : Nat} {locked : Bool} (hk0 : State.Keeps msk s0 s) (hm : Sub 0x180107f0eb1272fc8706090861800001e6c4000000020001c100024163800000000000000050001ffc1c5800000007fc80ffffff msk) :
    State.Keeps msk s0 (State.performWrite s a v r i locked) := by
  unfold State.performWrite
  repeat' first
    | with_reducible assumption | exact Sub.of hm rfl | exact Has.of hm rfl | intro _ | exact RegOf.anyReg _
    | (extract_lets +onlyGivenNames x; first | (refine (have hx : State.Keeps msk s0 x := ?_; ?_); (on_goal 2 => clear_value x); (on_goal 1 => subst x)) | (refine (have hx : State.Keeps msk s0 x.1 := ?_; ?_); (on_goal 2 => clear_value x); (on_goal 1 => subst x)) | clear_value x)
    | (with_reducible first
        | apply State.calCommand_keeps | apply State.on_keeps | apply Io.setReg_keeps | apply State.clearStatus_keeps
        | apply State.writeMask_keeps | apply State.writeCounter_keeps | apply State.writeGlobal_keeps | apply State.writeUmber_keeps
        | apply State.writeLinkTest_keeps | apply State.writePairTest_keeps | apply State.writeBoardTest_keeps | apply State.shutdown_keeps
        | apply State.writeMsix_keeps | apply State.writePatCtl_keeps | apply State.on_keeps | refine State.ite_keeps ?_ ?_
        | refine Io.ite_keeps ?_ ?_)
    | split
    | (with_reducible first
        | exact State.Keeps.io (by assumption) | fail_if_no_progress refine State.Keeps.io ?_)

theorem State.writeReg_keeps {msk : Nat} {s0 : State} {s : State} {a v : Nat} (hk0 : State.Keeps msk s0 s) (hm : Sub 0x180107f0eb1272fc8706090861800001e6c4000000020001c100024163800000000000000050001ffc1c5800000007fc80ffffff msk) :
    State.Keeps msk s0 (State.writeReg s a v).1 := by
  unfold State.writeReg
  repeat' first
    | with_reducible assumption | exact Sub.of hm rfl | exact Has.of hm rfl | intro _
    | (extract_lets +onlyGivenNames x; first | (refine (have hx : State.Keeps msk s0 x := ?_; ?_); (on_goal 2 => clear_value x); (on_goal 1 => subst x)) | (refine (have hx : State.Keeps msk s0 x.1 := ?_; ?_); (on_goal 2 => clear_value x); (on_goal 1 => subst x)) | clear_value x)
    | (with_reducible first
        | apply Io.fire_keeps | apply State.fire_keeps | apply State.performWrite_keeps | refine State.ite_keeps ?_ ?_
        | refine State.ite_keeps_fst ?_ ?_ | refine Io.ite_keeps ?_ ?_ | refine Io.ite_keeps_fst ?_ ?_)
    | split
    | (with_reducible first
        | refine State.Keeps.fst (by assumption) ?_ | exact State.Keeps.io (by assumption) | fail_if_no_progress refine State.Keeps.io ?_
        | fail_if_no_progress refine State.mk_keeps ?_ ?_ | fail_if_no_progress refine Io.mk_keeps ?_)

theorem State.pathWrite_keeps {msk : Nat} {s0 : State} {s : State} {p : RegPath} {a v : Nat} (hk0 : State.Keeps msk s0 s) (hm : Sub 0x180107f0eb1272fc8706090861800001e6c4000000020001c100024163800000000000000050001ffc1c5800000007fc80ffffff msk) :
    State.Keeps msk s0 (State.pathWrite s p a v).1 := by
  unfold State.pathWrite
  repeat' first
    | with_reducible assumption | exact Sub.of hm rfl | exact Has.of hm rfl | intro _
    | (with_reducible first
        | apply State.writeReg_keeps | apply Io.fire_keeps | apply State.fire_keeps | refine State.ite_keeps ?_ ?_
        | refine State.ite_keeps_fst ?_ ?_ | refine Io.ite_keeps ?_ ?_ | refine Io.ite_keeps_fst ?_ ?_)
    | split
    | (with_reducible first
        | exact State.Keeps.io (by assumption) | fail_if_no_progress refine State.Keeps.io ?_)

theorem State.pathRead_keeps {msk : Nat} {s0 : State} {s : State} {p : RegPath} {a : Nat} (hk0 : State.Keeps msk s0 s) (hm : Sub 0x100000000000000000000000000000000000000000000000000000000000000000000000000482000 msk) :
    State.Keeps msk s0 (State.pathRead s p a).1 := by
  unfold State.pathRead
  repeat' first
    | with_reducible assumption | exact Sub.of hm rfl | exact Has.of hm rfl | intro _
    | (extract_lets +onlyGivenNames x; first | (refine (have hx : State.Keeps msk s0 x.1 := ?_; ?_); (on_goal 2 => clear_value x); (on_goal 1 => subst x)) | clear_value x)
    | (with_reducible first
        | apply State.readReg_keeps | refine State.ite_keeps ?_ ?_ | refine State.ite_keeps_fst ?_ ?_ | refine Io.ite_keeps ?_ ?_
        | refine Io.ite_keeps_fst ?_ ?_)
    | split
    | (with_reducible first
        | refine State.Keeps.fst (by assumption) ?_ | exact State.Keeps.io (by assumption) | fail_if_no_progress refine State.Keeps.io ?_)

theorem execRegisterWrite_keeps {msk : Nat} {s0 : State} {path : RegPath} {off value size : Nat} {enables : Bool} {s : State} (hk0 : State.Keeps msk s0 s) (hm : Sub 0x180107f0eb1272fc8706090861800001e6c4000000020001c100024163800000000000000050001ffc1c5800000007fc80ffffff msk) :
    Result.Keeps msk s0 (execRegisterWrite path off value size enables s) := by
  unfold execRegisterWrite
  repeat' first
    | with_reducible assumption | exact Sub.of hm rfl | exact Has.of hm rfl | intro _
    | (with_reducible first
        | refine Result.next_keeps ?_ | apply Io.fire_keeps | apply State.fire_keeps | apply State.pathWrite_keeps
        | refine Result.ite_keeps ?_ ?_ | refine State.ite_keeps ?_ ?_)
    | split

theorem execLowHalfRead_keeps {msk : Nat} {s0 : State} {path : RegPath} {off size : Nat} {enables : Bool} {s : State} (hk0 : State.Keeps msk s0 s) (hm : Sub 0x1000006069000000000000010000000000000000000000000000000000000000000000000000001ffc1c580000000000006fa000 msk) :
    Result.Keeps msk s0 (execLowHalfRead path off size enables s) := by
  unfold execLowHalfRead
  repeat' first
    | with_reducible assumption | exact Sub.of hm rfl | exact Has.of hm rfl | intro _
    | (extract_lets +onlyGivenNames x; first | (refine (have hx : State.Keeps msk s0 x := ?_; ?_); (on_goal 2 => clear_value x); (on_goal 1 => subst x)) | clear_value x)
    | (with_reducible first
        | refine Result.next_keeps ?_ | apply Io.emit_keeps | apply State.emit_keeps | apply Io.fire_keeps | apply State.fire_keeps
        | apply State.pathRead_keeps | refine Result.ite_keeps ?_ ?_ | refine State.ite_keeps ?_ ?_)
    | split
    | (with_reducible first
        | refine State.Keeps.fst (by assumption) ?_ | fail_if_no_progress refine State.mk_keeps ?_ ?_)

theorem execRecordRequestRead_keeps {msk : Nat} {s0 : State} {path : RegPath} {s : State} (hk0 : State.Keeps msk s0 s) (hm : Sub 0x100000000000000000000000000000000000000000000000000000000000000000000000000682000 msk) :
    Result.Keeps msk s0 (execRecordRequestRead path s) := by
  unfold execRecordRequestRead
  repeat' first
    | with_reducible assumption | exact Sub.of hm rfl | exact Has.of hm rfl | intro _
    | (extract_lets +onlyGivenNames x; first | (refine (have hx : State.Keeps msk s0 x := ?_; ?_); (on_goal 2 => clear_value x); (on_goal 1 => subst x)) | clear_value x)
    | (with_reducible first
        | refine Result.next_keeps ?_ | apply State.pathRead_keeps | apply Io.emit_keeps | apply State.emit_keeps
        | refine Result.ite_keeps ?_ ?_ | refine State.ite_keeps ?_ ?_)
    | split
    | (with_reducible first
        | refine State.Keeps.fst (by assumption) ?_ | fail_if_no_progress refine State.mk_keeps ?_ ?_)

theorem execEventStatusClear_keeps {msk : Nat} {s0 : State} {path : RegPath} {i value : Nat} {coincident : List Nat} {s : State} (hk0 : State.Keeps msk s0 s) (hm : Sub 0x1000006069000000000000000000000000000000000000000000000000000000000000000000001ffc1c58000000000000278000 msk) :
    Result.Keeps msk s0 (execEventStatusClear path i value coincident s) := by
  unfold execEventStatusClear
  repeat' first
    | with_reducible assumption | exact Sub.of hm rfl | exact Has.of hm rfl | intro _
    | (with_reducible first
        | refine Result.next_keeps ?_ | apply Io.fire_keeps | apply State.fire_keeps | apply State.clearStatus_keeps
        | refine Result.ite_keeps ?_ ?_ | refine State.ite_keeps ?_ ?_ | refine Io.ite_keeps ?_ ?_)
    | split
    | (with_reducible first
        | exact State.Keeps.io (by assumption) | fail_if_no_progress refine State.Keeps.io ?_)

theorem execEventMaskWrite_keeps {msk : Nat} {s0 : State} {path : RegPath} {i value : Nat} {s : State} (hk0 : State.Keeps msk s0 s) (hm : Sub 0x180107f0eb1272fc8706090861800001e6c4000000020001c100024163800000000000000050001ffc1c5800000007fc80ffffff msk) :
    Result.Keeps msk s0 (execEventMaskWrite path i value s) := by
  unfold execEventMaskWrite
  repeat' first
    | with_reducible assumption | exact Sub.of hm rfl | exact Has.of hm rfl | intro _
    | (with_reducible first
        | refine Result.next_keeps ?_ | apply State.pathWrite_keeps | refine Result.ite_keeps ?_ ?_ | refine State.ite_keeps ?_ ?_)
    | split

theorem State.globalAct_keeps {msk : Nat} {s0 : State} {s : State} {path : RegPath} {b : Nat} (hk0 : State.Keeps msk s0 s) (hm : Sub 0x180107f0eb1272fc8706090861800001e6c4000000020001c100024163800000000000000050001ffc1c5800000007fc80ffffff msk) :
    State.Keeps msk s0 (State.globalAct s path b) := by
  unfold State.globalAct
  repeat' first
    | with_reducible assumption | exact Sub.of hm rfl | exact Has.of hm rfl | intro _
    | (with_reducible first
        | apply State.pathWrite_keeps | exact State.Keeps.io (by assumption) | fail_if_no_progress refine State.Keeps.io ?_)

theorem execCounterSnap_keeps {msk : Nat} {s0 : State} {path : RegPath} {s : State} (hk0 : State.Keeps msk s0 s) (hm : Sub 0x180107f0eb1272fc8706090861800001e6c4000000020001c100024163800000000000000050001ffc1c5800000007fc80ffffff msk) :
    Result.Keeps msk s0 (execCounterSnap path s) := by
  unfold execCounterSnap
  repeat' first
    | with_reducible assumption | exact Sub.of hm rfl | exact Has.of hm rfl | intro _
    | (with_reducible first
        | refine Result.next_keeps ?_ | apply State.globalAct_keeps)

theorem execCounterClear_keeps {msk : Nat} {s0 : State} {path : RegPath} {s : State} (hk0 : State.Keeps msk s0 s) (hm : Sub 0x180107f0eb1272fc8706090861800001e6c4000000020001c100024163800000000000000050001ffc1c5800000007fc80ffffff msk) :
    Result.Keeps msk s0 (execCounterClear path s) := by
  unfold execCounterClear
  repeat' first
    | with_reducible assumption | exact Sub.of hm rfl | exact Has.of hm rfl | intro _
    | (with_reducible first
        | refine Result.next_keeps ?_ | apply State.globalAct_keeps)

theorem execCounterReset_keeps {msk : Nat} {s0 : State} {path : RegPath} {c : Nat} {s : State} (hk0 : State.Keeps msk s0 s) (hm : Sub 0x180107f0eb1272fc8706090861800001e6c4000000020001c100024163800000000000000050001ffc1c5800000007fc80ffffff msk) :
    Result.Keeps msk s0 (execCounterReset path c s) := by
  unfold execCounterReset
  repeat' first
    | with_reducible assumption | exact Sub.of hm rfl | exact Has.of hm rfl | intro _
    | (with_reducible first
        | refine Result.next_keeps ?_ | apply State.pathWrite_keeps | refine Result.ite_keeps ?_ ?_ | refine State.ite_keeps ?_ ?_
        | refine Io.ite_keeps ?_ ?_)
    | split
    | (with_reducible first
        | exact State.Keeps.io (by assumption) | fail_if_no_progress refine State.Keeps.io ?_)

theorem execCounterWrap_keeps {msk : Nat} {s0 : State} {c : Nat} {s : State} (hk0 : State.Keeps msk s0 s) (hm : Sub 0x1000006069000000000000000000000000000000000000000000000000000000000000000000001ffc1c58000000000000278000 msk) :
    Result.Keeps msk s0 (execCounterWrap c s) := by
  unfold execCounterWrap
  repeat' first
    | with_reducible assumption | exact Sub.of hm rfl | exact Has.of hm rfl | intro _
    | (extract_lets +onlyGivenNames x; first | (refine (have hx : State.Keeps msk s0 x := ?_; ?_); (on_goal 2 => clear_value x); (on_goal 1 => subst x)) | clear_value x)
    | (with_reducible first
        | refine Result.next_keeps ?_ | apply State.on_keeps | apply Io.settle_keeps | apply Io.countOne_keeps | apply State.on_keeps
        | refine Result.ite_keeps ?_ ?_ | refine State.ite_keeps ?_ ?_ | refine Io.ite_keeps ?_ ?_)
    | split
    | (with_reducible first
        | exact State.Keeps.io (by assumption) | fail_if_no_progress refine State.Keeps.io ?_
        | fail_if_no_progress refine State.mk_keeps ?_ ?_ | fail_if_no_progress refine Io.mk_keeps ?_
        | fail_if_no_progress refine Io.eraseRing_keeps ?_ ?_)

theorem execPatternRunStart_keeps {msk : Nat} {s0 : State} {channel pattern : Nat} {write : Bool} {length : Nat} {path : RegPath} {s : State} (hk0 : State.Keeps msk s0 s) (hm : Sub 0x180107f0eb1272fc8706090861800001e6c4000000020001c100024163800000000000000050001ffc1c5800000007fc80ffffff msk) :
    Result.Keeps msk s0 (execPatternRunStart channel pattern write length path s) := by
  unfold execPatternRunStart
  repeat' first
    | with_reducible assumption | exact Sub.of hm rfl | exact Has.of hm rfl | intro _
    | (with_reducible first
        | refine Result.next_keeps ?_ | apply State.pathWrite_keeps | refine Result.ite_keeps ?_ ?_ | refine State.ite_keeps ?_ ?_)
    | split

theorem execLinkTestRetry_keeps {msk : Nat} {s0 : State} {port : Nat} {path : RegPath} {s : State} (hk0 : State.Keeps msk s0 s) (hm : Sub 0x180107f0eb1272fc8706090861800001e6c4000000020001c100024163800000000000000050001ffc1c5800000007fc80ffffff msk) :
    Result.Keeps msk s0 (execLinkTestRetry port path s) := by
  unfold execLinkTestRetry
  repeat' first
    | with_reducible assumption | exact Sub.of hm rfl | exact Has.of hm rfl | intro _
    | (with_reducible first
        | refine Result.next_keeps ?_ | apply State.pathWrite_keeps | refine Result.ite_keeps ?_ ?_ | refine State.ite_keeps ?_ ?_)
    | split

theorem execLinkTestForceDown_keeps {msk : Nat} {s0 : State} {port : Nat} {path : RegPath} {s : State} (hk0 : State.Keeps msk s0 s) (hm : Sub 0x180107f0eb1272fc8706090861800001e6c4000000020001c100024163800000000000000050001ffc1c5800000007fc80ffffff msk) :
    Result.Keeps msk s0 (execLinkTestForceDown port path s) := by
  unfold execLinkTestForceDown
  repeat' first
    | with_reducible assumption | exact Sub.of hm rfl | exact Has.of hm rfl | intro _
    | (with_reducible first
        | refine Result.next_keeps ?_ | apply State.pathWrite_keeps | refine Result.ite_keeps ?_ ?_ | refine State.ite_keeps ?_ ?_)
    | split

theorem execPairTestHandover_keeps {msk : Nat} {s0 : State} {path : RegPath} {s : State} (hk0 : State.Keeps msk s0 s) (hm : Sub 0x180107f0eb1272fc8706090861800001e6c4000000020001c100024163800000000000000050001ffc1c5800000007fc80ffffff msk) :
    Result.Keeps msk s0 (execPairTestHandover path s) := by
  unfold execPairTestHandover
  repeat' first
    | with_reducible assumption | exact Sub.of hm rfl | exact Has.of hm rfl | intro _
    | (with_reducible first
        | refine Result.next_keeps ?_ | apply State.pathWrite_keeps)

theorem execPairTestForeign_keeps {msk : Nat} {s0 : State} {path : RegPath} {s : State} (hk0 : State.Keeps msk s0 s) (hm : Sub 0x180107f0eb1272fc8706090861800001e6c4000000020001c100024163800000000000000050001ffc1c5800000007fc80ffffff msk) :
    Result.Keeps msk s0 (execPairTestForeign path s) := by
  unfold execPairTestForeign
  repeat' first
    | with_reducible assumption | exact Sub.of hm rfl | exact Has.of hm rfl | intro _
    | (with_reducible first
        | refine Result.next_keeps ?_ | apply State.pathWrite_keeps)

theorem execBoardRelease_keeps {msk : Nat} {s0 : State} {board : Nat} {path : RegPath} {s : State} (hk0 : State.Keeps msk s0 s) (hm : Sub 0x180107f0eb1272fc8706090861800001e6c4000000020001c100024163800000000000000050001ffc1c5800000007fc80ffffff msk) :
    Result.Keeps msk s0 (execBoardRelease board path s) := by
  unfold execBoardRelease
  repeat' first
    | with_reducible assumption | exact Sub.of hm rfl | exact Has.of hm rfl | intro _
    | (with_reducible first
        | refine Result.next_keeps ?_ | apply State.pathWrite_keeps)

theorem execBoardRetest_keeps {msk : Nat} {s0 : State} {board : Nat} {path : RegPath} {s : State} (hk0 : State.Keeps msk s0 s) (hm : Sub 0x180107f0eb1272fc8706090861800001e6c4000000020001c100024163800000000000000050001ffc1c5800000007fc80ffffff msk) :
    Result.Keeps msk s0 (execBoardRetest board path s) := by
  unfold execBoardRetest
  repeat' first
    | with_reducible assumption | exact Sub.of hm rfl | exact Has.of hm rfl | intro _
    | (with_reducible first
        | refine Result.next_keeps ?_ | apply State.pathWrite_keeps)

theorem execThmTestShutdown_keeps {msk : Nat} {s0 : State} {path : RegPath} {s : State} (hk0 : State.Keeps msk s0 s) (hm : Sub 0x180107f0eb1272fc8706090861800001e6c4000000020001c100024163800000000000000050001ffc1c5800000007fc80ffffff msk) :
    Result.Keeps msk s0 (execThmTestShutdown path s) := by
  unfold execThmTestShutdown
  repeat' first
    | with_reducible assumption | exact Sub.of hm rfl | exact Has.of hm rfl | intro _
    | (with_reducible first
        | refine Result.next_keeps ?_ | apply State.pathWrite_keeps)

theorem execCalNone_keeps {msk : Nat} {s0 : State} {path : RegPath} {s : State} (hk0 : State.Keeps msk s0 s) (hm : Sub 0x180107f0eb1272fc8706090861800001e6c4000000020001c100024163800000000000000050001ffc1c5800000007fc80ffffff msk) :
    Result.Keeps msk s0 (execCalNone path s) := by
  unfold execCalNone
  repeat' first
    | with_reducible assumption | exact Sub.of hm rfl | exact Has.of hm rfl | intro _
    | (with_reducible first
        | refine Result.next_keeps ?_ | apply State.pathWrite_keeps)

theorem execCalStart_keeps {msk : Nat} {s0 : State} {path : RegPath} {s : State} (hk0 : State.Keeps msk s0 s) (hm : Sub 0x180107f0eb1272fc8706090861800001e6c4000000020001c100024163800000000000000050001ffc1c5800000007fc80ffffff msk) :
    Result.Keeps msk s0 (execCalStart path s) := by
  unfold execCalStart
  repeat' first
    | with_reducible assumption | exact Sub.of hm rfl | exact Has.of hm rfl | intro _
    | (with_reducible first
        | refine Result.next_keeps ?_ | apply State.pathWrite_keeps)

theorem execCalZero_keeps {msk : Nat} {s0 : State} {path : RegPath} {s : State} (hk0 : State.Keeps msk s0 s) (hm : Sub 0x180107f0eb1272fc8706090861800001e6c4000000020001c100024163800000000000000050001ffc1c5800000007fc80ffffff msk) :
    Result.Keeps msk s0 (execCalZero path s) := by
  unfold execCalZero
  repeat' first
    | with_reducible assumption | exact Sub.of hm rfl | exact Has.of hm rfl | intro _
    | (with_reducible first
        | refine Result.next_keeps ?_ | apply State.pathWrite_keeps)

theorem execCalVref_keeps {msk : Nat} {s0 : State} {path : RegPath} {s : State} (hk0 : State.Keeps msk s0 s) (hm : Sub 0x180107f0eb1272fc8706090861800001e6c4000000020001c100024163800000000000000050001ffc1c5800000007fc80ffffff msk) :
    Result.Keeps msk s0 (execCalVref path s) := by
  unfold execCalVref
  repeat' first
    | with_reducible assumption | exact Sub.of hm rfl | exact Has.of hm rfl | intro _
    | (with_reducible first
        | refine Result.next_keeps ?_ | apply State.pathWrite_keeps)

theorem execCalIref_keeps {msk : Nat} {s0 : State} {path : RegPath} {s : State} (hk0 : State.Keeps msk s0 s) (hm : Sub 0x180107f0eb1272fc8706090861800001e6c4000000020001c100024163800000000000000050001ffc1c5800000007fc80ffffff msk) :
    Result.Keeps msk s0 (execCalIref path s) := by
  unfold execCalIref
  repeat' first
    | with_reducible assumption | exact Sub.of hm rfl | exact Has.of hm rfl | intro _
    | (with_reducible first
        | refine Result.next_keeps ?_ | apply State.pathWrite_keeps)

theorem execCalDelay_keeps {msk : Nat} {s0 : State} {path : RegPath} {s : State} (hk0 : State.Keeps msk s0 s) (hm : Sub 0x180107f0eb1272fc8706090861800001e6c4000000020001c100024163800000000000000050001ffc1c5800000007fc80ffffff msk) :
    Result.Keeps msk s0 (execCalDelay path s) := by
  unfold execCalDelay
  repeat' first
    | with_reducible assumption | exact Sub.of hm rfl | exact Has.of hm rfl | intro _
    | (with_reducible first
        | refine Result.next_keeps ?_ | apply State.pathWrite_keeps)

theorem execCalCommit_keeps {msk : Nat} {s0 : State} {path : RegPath} {s : State} (hk0 : State.Keeps msk s0 s) (hm : Sub 0x180107f0eb1272fc8706090861800001e6c4000000020001c100024163800000000000000050001ffc1c5800000007fc80ffffff msk) :
    Result.Keeps msk s0 (execCalCommit path s) := by
  unfold execCalCommit
  repeat' first
    | with_reducible assumption | exact Sub.of hm rfl | exact Has.of hm rfl | intro _
    | (with_reducible first
        | refine Result.next_keeps ?_ | apply State.pathWrite_keeps)

theorem execCalAbort_keeps {msk : Nat} {s0 : State} {path : RegPath} {s : State} (hk0 : State.Keeps msk s0 s) (hm : Sub 0x180107f0eb1272fc8706090861800001e6c4000000020001c100024163800000000000000050001ffc1c5800000007fc80ffffff msk) :
    Result.Keeps msk s0 (execCalAbort path s) := by
  unfold execCalAbort
  repeat' first
    | with_reducible assumption | exact Sub.of hm rfl | exact Has.of hm rfl | intro _
    | (with_reducible first
        | refine Result.next_keeps ?_ | apply State.pathWrite_keeps)

theorem execCalSeal_keeps {msk : Nat} {s0 : State} {path : RegPath} {s : State} (hk0 : State.Keeps msk s0 s) (hm : Sub 0x180107f0eb1272fc8706090861800001e6c4000000020001c100024163800000000000000050001ffc1c5800000007fc80ffffff msk) :
    Result.Keeps msk s0 (execCalSeal path s) := by
  unfold execCalSeal
  repeat' first
    | with_reducible assumption | exact Sub.of hm rfl | exact Has.of hm rfl | intro _
    | (with_reducible first
        | refine Result.next_keeps ?_ | apply State.pathWrite_keeps)

theorem execCalBadCmd_keeps {msk : Nat} {s0 : State} {cmd : Nat} {path : RegPath} {s : State} (hk0 : State.Keeps msk s0 s) (hm : Sub 0x180107f0eb1272fc8706090861800001e6c4000000020001c100024163800000000000000050001ffc1c5800000007fc80ffffff msk) :
    Result.Keeps msk s0 (execCalBadCmd cmd path s) := by
  unfold execCalBadCmd
  repeat' first
    | with_reducible assumption | exact Sub.of hm rfl | exact Has.of hm rfl | intro _
    | (with_reducible first
        | refine Result.next_keeps ?_ | apply State.pathWrite_keeps | refine Result.ite_keeps ?_ ?_ | refine State.ite_keeps ?_ ?_)
    | split

theorem State.remoteAccess_keeps {msk : Nat} {s0 : State} {s : State} {op off v : Nat} (hk0 : State.Keeps msk s0 s) (hm : Sub 0x180107f0eb1272fc8706090961800001e6c4000000020001c100024163800000000000000050001ffc1c5800000007fc80ffffff msk) :
    State.Keeps msk s0 (State.remoteAccess s op off v).1 := by
  unfold State.remoteAccess
  repeat' first
    | with_reducible assumption | exact Sub.of hm rfl | exact Has.of hm rfl | intro _
    | (extract_lets +onlyGivenNames x; first | (refine (have hx : State.Keeps msk s0 x := ?_; ?_); (on_goal 2 => clear_value x); (on_goal 1 => subst x)) | (refine (have hx : State.Keeps msk s0 x.1 := ?_; ?_); (on_goal 2 => clear_value x); (on_goal 1 => subst x)) | clear_value x)
    | (with_reducible first
        | apply State.pathRead_keeps | apply State.pathWrite_keeps | refine State.ite_keeps ?_ ?_ | refine State.ite_keeps_fst ?_ ?_
        | refine Io.ite_keeps ?_ ?_ | refine Io.ite_keeps_fst ?_ ?_)
    | split
    | (with_reducible first
        | refine State.Keeps.fst (by assumption) ?_ | exact State.Keeps.io (by assumption) | fail_if_no_progress refine State.Keeps.io ?_
        | fail_if_no_progress refine State.mk_keeps ?_ ?_ | fail_if_no_progress refine Io.mk_keeps ?_)

theorem execRegReqReceived_keeps {msk : Nat} {s0 : State} {port : Nat} {packet : List Byte} {s : State} (hk0 : State.Keeps msk s0 s) (hm : Sub 0x180107f0eb1272fc8706090961800001e6c4000000020001c100024163800000000000000050001ffc1c5800000007fc80ffffff msk) :
    Result.Keeps msk s0 (execRegReqReceived port packet s) := by
  unfold execRegReqReceived
  repeat' first
    | with_reducible assumption | exact Sub.of hm rfl | exact Has.of hm rfl | intro _
    | (extract_lets +onlyGivenNames x; first | (refine (have hx : State.Keeps msk s0 x := ?_; ?_); (on_goal 2 => clear_value x); (on_goal 1 => subst x)) | (refine (have hx : State.Keeps msk s0 x.1 := ?_; ?_); (on_goal 2 => clear_value x); (on_goal 1 => subst x)) | (refine (have hx : Io.Keeps msk s0.io x := ?_; ?_); (on_goal 2 => clear_value x); (on_goal 1 => subst x)) | (refine (have hx : Io.Keeps msk s0.io x.1 := ?_; ?_); (on_goal 2 => clear_value x); (on_goal 1 => subst x)) | (refine (have hx : ∀ y, State.Keeps msk s0 (x y) := ?_; ?_); (on_goal 2 => clear_value x); (on_goal 1 => subst x)) | (refine (have hx : ∀ y, State.Keeps msk s0 (x y).1 := ?_; ?_); (on_goal 2 => clear_value x); (on_goal 1 => subst x)) | clear_value x)
    | (with_reducible first
        | refine Result.next_keeps ?_ | apply State.kept_keeps | apply State.queueReturn_keeps | apply State.remoteAccess_keeps
        | apply Io.take_keeps | apply hx | refine Result.ite_keeps ?_ ?_ | refine State.ite_keeps ?_ ?_ | refine State.ite_keeps_fst ?_ ?_
        | refine Io.ite_keeps ?_ ?_ | refine Io.ite_keeps_fst ?_ ?_)
    | split
    | (with_reducible first
        | refine State.Keeps.fst (by assumption) ?_ | refine Io.Keeps.fst (by assumption) ?_ | exact State.Keeps.io (by assumption)
        | fail_if_no_progress refine State.Keeps.io ?_ | fail_if_no_progress refine State.mk_keeps ?_ ?_
        | fail_if_no_progress refine Io.mk_keeps ?_)

theorem State.onJtag_keeps {msk : Nat} {s0 : State} {s : State} {f : Jtag → Jtag} (hk0 : State.Keeps msk s0 s) (hm : Sub 0x4000 msk) :
    State.Keeps msk s0 (State.onJtag s f) := by
  unfold State.onJtag
  repeat' first
    | with_reducible assumption | exact Sub.of hm rfl | exact Has.of hm rfl | intro _
    | (extract_lets +onlyGivenNames x; first | (refine (have hx : State.Keeps msk s0 x := ?_; ?_); (on_goal 2 => clear_value x); (on_goal 1 => subst x)) | (refine (have hx : State.Keeps msk s0 x.1 := ?_; ?_); (on_goal 2 => clear_value x); (on_goal 1 => subst x)) | (refine (have hx : Io.Keeps msk s0.io x := ?_; ?_); (on_goal 2 => clear_value x); (on_goal 1 => subst x)) | (refine (have hx : Io.Keeps msk s0.io x.1 := ?_; ?_); (on_goal 2 => clear_value x); (on_goal 1 => subst x)) | (refine (have hx : ∀ y, State.Keeps msk s0 (x y) := ?_; ?_); (on_goal 2 => clear_value x); (on_goal 1 => subst x)) | (refine (have hx : ∀ y, State.Keeps msk s0 (x y).1 := ?_; ?_); (on_goal 2 => clear_value x); (on_goal 1 => subst x)) | clear_value x)
    | (with_reducible first
        | apply hx | refine State.Keeps.fst (by assumption) ?_ | refine Io.Keeps.fst (by assumption) ?_
        | exact State.Keeps.io (by assumption) | fail_if_no_progress refine State.Keeps.io ?_
        | fail_if_no_progress refine State.mk_keeps ?_ ?_ | fail_if_no_progress refine Io.mk_keeps ?_)

theorem execJtagReset_keeps {msk : Nat} {s0 : State} {s : State} (hk0 : State.Keeps msk s0 s) (hm : Sub 0x4000 msk) :
    Result.Keeps msk s0 (execJtagReset s) := by
  unfold execJtagReset
  repeat' first
    | with_reducible assumption | exact Sub.of hm rfl | exact Has.of hm rfl | intro _
    | (extract_lets +onlyGivenNames x; first | (refine (have hx : State.Keeps msk s0 x := ?_; ?_); (on_goal 2 => clear_value x); (on_goal 1 => subst x)) | clear_value x)
    | (with_reducible first
        | refine Result.next_keeps ?_ | apply State.onJtag_keeps | fail_if_no_progress refine State.mk_keeps ?_ ?_)

theorem execJtagExtest_keeps {msk : Nat} {s0 : State} {levels : Nat} {s : State} (hk0 : State.Keeps msk s0 s) (hm : Sub 0x204000 msk) :
    Result.Keeps msk s0 (execJtagExtest levels s) := by
  unfold execJtagExtest
  repeat' first
    | with_reducible assumption | exact Sub.of hm rfl | exact Has.of hm rfl | intro _
    | (extract_lets +onlyGivenNames x; first | (refine (have hx : State.Keeps msk s0 x := ?_; ?_); (on_goal 2 => clear_value x); (on_goal 1 => subst x)) | clear_value x)
    | (with_reducible first
        | refine Result.next_keeps ?_ | apply State.onJtag_keeps | apply Io.emit_keeps | apply State.emit_keeps
        | fail_if_no_progress refine State.mk_keeps ?_ ?_)

theorem execJtagSamplePreload_keeps {msk : Nat} {s0 : State} {pins levels width : Nat} {s : State} (hk0 : State.Keeps msk s0 s) (hm : Sub 0x204000 msk) :
    Result.Keeps msk s0 (execJtagSamplePreload pins levels width s) := by
  unfold execJtagSamplePreload
  repeat' first
    | with_reducible assumption | exact Sub.of hm rfl | exact Has.of hm rfl | intro _
    | (extract_lets +onlyGivenNames x; first | (refine (have hx : State.Keeps msk s0 x := ?_; ?_); (on_goal 2 => clear_value x); (on_goal 1 => subst x)) | clear_value x)
    | (with_reducible first
        | refine Result.next_keeps ?_ | apply State.onJtag_keeps | apply Io.emit_keeps | apply State.emit_keeps
        | fail_if_no_progress refine State.mk_keeps ?_ ?_)

theorem execJtagBypass_keeps {msk : Nat} {s0 : State} {code : Nat} {s : State} (hk0 : State.Keeps msk s0 s) (hm : Sub 0x4000 msk) :
    Result.Keeps msk s0 (execJtagBypass code s) := by
  unfold execJtagBypass
  repeat' first
    | with_reducible assumption | exact Sub.of hm rfl | exact Has.of hm rfl | intro _
    | (extract_lets +onlyGivenNames x; first | (refine (have hx : State.Keeps msk s0 x := ?_; ?_); (on_goal 2 => clear_value x); (on_goal 1 => subst x)) | clear_value x)
    | (with_reducible first
        | refine Result.next_keeps ?_ | apply State.onJtag_keeps | refine Result.ite_keeps ?_ ?_ | refine State.ite_keeps ?_ ?_)
    | split | with_reducible fail_if_no_progress refine State.mk_keeps ?_ ?_

theorem execJtagRegaccUpdate_keeps {msk : Nat} {s0 : State} {dr : Nat} {busy : Bool} {s : State} (hk0 : State.Keeps msk s0 s) (hm : Sub 0x180107f0eb1272fc8706090961800001e6c4000000020001c100024163800000000000000050001ffc1c5800000007fc80ffffff msk) :
    Result.Keeps msk s0 (execJtagRegaccUpdate dr busy s) := by
  unfold execJtagRegaccUpdate
  repeat' first
    | with_reducible assumption | exact Sub.of hm rfl | exact Has.of hm rfl | intro _
    | (extract_lets +onlyGivenNames x; first | (refine (have hx : State.Keeps msk s0 x := ?_; ?_); (on_goal 2 => clear_value x); (on_goal 1 => subst x)) | (refine (have hx : State.Keeps msk s0 x.1 := ?_; ?_); (on_goal 2 => clear_value x); (on_goal 1 => subst x)) | clear_value x)
    | (with_reducible first
        | refine Result.next_keeps ?_ | apply State.onJtag_keeps | apply State.pathWrite_keeps | apply State.pathRead_keeps
        | refine Result.ite_keeps ?_ ?_ | refine State.ite_keeps ?_ ?_)
    | split
    | (with_reducible first
        | refine State.Keeps.fst (by assumption) ?_ | fail_if_no_progress refine State.mk_keeps ?_ ?_)

theorem execJtagRegaccCapture_keeps {msk : Nat} {s0 : State} {s : State} (hk0 : State.Keeps msk s0 s) (hm : Sub 0x204000 msk) :
    Result.Keeps msk s0 (execJtagRegaccCapture s) := by
  unfold execJtagRegaccCapture
  repeat' first
    | with_reducible assumption | exact Sub.of hm rfl | exact Has.of hm rfl | intro _
    | (extract_lets +onlyGivenNames x; first | (refine (have hx : State.Keeps msk s0 x := ?_; ?_); (on_goal 2 => clear_value x); (on_goal 1 => subst x)) | clear_value x)
    | (with_reducible first
        | refine Result.next_keeps ?_ | apply State.onJtag_keeps | apply Io.emit_keeps | apply State.emit_keeps
        | fail_if_no_progress refine State.mk_keeps ?_ ?_)

end Sys2Proof.Machine
end

