-- ==== Sys2Proof/Laws/KeepsTraining.lean ====
section
/-! SUPPORT. What the operations of Machine/Training.lean keep. -/

set_option linter.unusedTactic false
set_option linter.unreachableTactic false
set_option linter.tactic.unusedName false

set_option Elab.async false

namespace Sys2Proof.Machine

theorem State.leaveTraining_keeps {msk : Nat} {s0 : State} {s : State} (hk0 : State.Keeps msk s0 s) (hm : Sub 0x1000006069000040000000000000000000000000000000000000000000000000000000000000001ffc1c58000000000000278000 msk) :
    State.Keeps msk s0 (State.leaveTraining s) := by
  unfold State.leaveTraining
  repeat' first
    | with_reducible assumption | exact Sub.of hm rfl | exact Has.of hm rfl | intro _
    | (with_reducible first
        | apply State.enter_keeps | refine State.ite_keeps ?_ ?_ | refine Io.ite_keeps ?_ ?_)
    | split
    | (with_reducible first
        | exact State.Keeps.io (by assumption) | fail_if_no_progress refine State.Keeps.io ?_)

theorem State.restoreLanes_keeps {msk : Nat} {s0 : State} {s : State} (hk0 : State.Keeps msk s0 s) (hm : Sub 0x2 msk) :
    State.Keeps msk s0 (State.restoreLanes s) := by
  unfold State.restoreLanes
  repeat' first
    | with_reducible assumption | exact Sub.of hm rfl | exact Has.of hm rfl | intro _
    | (extract_lets +onlyGivenNames x; first | (refine (have hx : State.Keeps msk s0 x := ?_; ?_); (on_goal 2 => clear_value x); (on_goal 1 => subst x)) | clear_value x)
    | (with_reducible first
        | apply State.setPort_keeps | apply State.foldl_keeps | apply State.foldl_keeps_fst)
    | split
    | (with_reducible first
        | refine State.Keeps.fst (by assumption) ?_ | fail_if_no_progress refine State.mk_keeps ?_ ?_)

theorem State.learnLane_keeps {msk : Nat} {s0 : State} {s : State} {p : Nat} (hk0 : State.Keeps msk s0 s) (hm : Sub 0x8400000000000000000000000000000000000000000000000000000000000000000000000000000000000042 msk) :
    State.Keeps msk s0 (State.learnLane s p) := by
  unfold State.learnLane
  repeat' first
    | with_reducible assumption | exact Sub.of hm rfl | exact Has.of hm rfl | intro _
    | (extract_lets +onlyGivenNames x; first | (refine (have hx : State.Keeps msk s0 x := ?_; ?_); (on_goal 2 => clear_value x); (on_goal 1 => subst x)) | (refine (have hx : State.Keeps msk s0 x.1 := ?_; ?_); (on_goal 2 => clear_value x); (on_goal 1 => subst x)) | clear_value x)
    | (with_reducible first
        | apply State.setPort_keeps | apply State.queueRecord_keeps | refine State.ite_keeps ?_ ?_ | refine Io.ite_keeps ?_ ?_)
    | split
    | (with_reducible first
        | refine State.Keeps.fst (by assumption) ?_ | exact State.Keeps.io (by assumption) | fail_if_no_progress refine State.Keeps.io ?_
        | fail_if_no_progress refine State.mk_keeps ?_ ?_ | fail_if_no_progress refine Io.mk_keeps ?_)

theorem execEqualisationDone_keeps {msk : Nat} {s0 : State} {port ctle t1 t2 t3 fom skew : Nat} {s : State} (hk0 : State.Keeps msk s0 s) (hm : Sub 0x1000006069000000000000000000000000000000000000000000000007800000000000000000001ffc1c58000000000000278002 msk) :
    Result.Keeps msk s0 (execEqualisationDone port ctle t1 t2 t3 fom skew s) := by
  unfold execEqualisationDone
  repeat' first
    | with_reducible assumption | exact Sub.of hm rfl | exact Has.of hm rfl | intro _
    | (with_reducible first
        | refine Result.next_keeps ?_ | apply State.equalised_keeps)

theorem State.pairUp_keeps {msk : Nat} {s0 : State} {s : State} (hk0 : State.Keeps msk s0 s) (hm : Sub 0x40000000000000000000000000000000000000000000000100 msk) :
    State.Keeps msk s0 (State.pairUp s) := by
  unfold State.pairUp
  repeat' first
    | with_reducible assumption | exact Sub.of hm rfl | exact Has.of hm rfl | intro _ | exact RegOf.PAIR_STATE
    | (extract_lets +onlyGivenNames x; first | (refine (have hx : State.Keeps msk s0 x := ?_; ?_); (on_goal 2 => clear_value x); (on_goal 1 => subst x)) | clear_value x)
    | (with_reducible first
        | apply Io.setF_keeps | apply State.setF_keeps | apply State.onPair_keeps | fail_if_no_progress refine State.mk_keeps ?_ ?_)

theorem execPortUp_keeps {msk : Nat} {s0 : State} {port h : Nat} {s : State} (hk0 : State.Keeps msk s0 s) (hm : Sub 0x1000006069000040840000000000000000000000000000000000004001800000000000000000001ffc1c58000200000000278142 msk) :
    Result.Keeps msk s0 (execPortUp port h s) := by
  unfold execPortUp
  repeat' first
    | with_reducible assumption | exact Sub.of hm rfl | exact Has.of hm rfl | intro _
    | (extract_lets +onlyGivenNames x; first | (refine (have hx : State.Keeps msk s0 x := ?_; ?_); (on_goal 2 => clear_value x); (on_goal 1 => subst x)) | (refine (have hx : State.Keeps msk s0 x.1 := ?_; ?_); (on_goal 2 => clear_value x); (on_goal 1 => subst x)) | clear_value x)
    | (with_reducible first
        | refine Result.next_keeps ?_ | apply State.portComesUp_keeps | apply State.learnLane_keeps | apply State.pairUp_keeps
        | apply State.leaveTraining_keeps | refine Result.ite_keeps ?_ ?_ | refine State.ite_keeps ?_ ?_)
    | split

theorem execTrainingAttemptTimeout_keeps {msk : Nat} {s0 : State} {port : Nat} {s : State} (hk0 : State.Keeps msk s0 s) (hm : Sub 0x1000006069000040000000000000000000000000000000000000000000800000000000000000001ffc1c58000000000000278002 msk) :
    Result.Keeps msk s0 (execTrainingAttemptTimeout port s) := by
  unfold execTrainingAttemptTimeout
  repeat' first
    | with_reducible assumption | exact Sub.of hm rfl | exact Has.of hm rfl | intro _
    | (with_reducible first
        | refine Result.next_keeps ?_ | apply State.attemptFailed_keeps | apply State.leaveTraining_keeps | refine Result.ite_keeps ?_ ?_
        | refine State.ite_keeps ?_ ?_)
    | split

end Sys2Proof.Machine
end

