-- ==== Sys2Proof/Laws/KeepsStart.lean ====
section
/-! SUPPORT. What the operations of Machine/Start.lean keep. -/

set_option linter.unusedTactic false
set_option linter.unreachableTactic false
set_option linter.tactic.unusedName false

set_option Elab.async false

namespace Sys2Proof.Machine

theorem State.tileReady_keeps {msk : Nat} {s0 : State} {s : State} (hk0 : State.Keeps msk s0 s) (hm : Sub 0x2000000000000000000000000000000000000000000000000000000000000000000000000000000000000000000 msk) :
    State.Keeps msk s0 (State.tileReady s) := by
  unfold State.tileReady
  repeat' first
    | with_reducible assumption | exact Sub.of hm rfl | exact Has.of hm rfl | intro _
    | (with_reducible first
        | apply State.stopWatchdog_keeps | refine State.ite_keeps ?_ ?_ | refine Io.ite_keeps ?_ ?_)
    | split
    | (with_reducible first
        | exact State.Keeps.io (by assumption) | fail_if_no_progress refine State.Keeps.io ?_)

theorem execEnumSend_keeps {msk : Nat} {s0 : State} {port t : Nat} {s : State} (hk0 : State.Keeps msk s0 s) (hm : Sub 0xa00002 msk) :
    Result.Keeps msk s0 (execEnumSend port t s) := by
  unfold execEnumSend
  repeat' first
    | with_reducible assumption | exact Sub.of hm rfl | exact Has.of hm rfl | intro _
    | (with_reducible first
        | refine Result.next_keeps ?_ | apply State.enumSend_keeps)

theorem execEnumReceived_keeps {msk : Nat} {s0 : State} {port payload : Nat} {s : State} (hk0 : State.Keeps msk s0 s) (hm : Sub 0x1000006069000200000000000003400000000000000000000000000010000000000000000000001ffc1c58000000180200278003 msk) :
    Result.Keeps msk s0 (execEnumReceived port payload s) := by
  unfold execEnumReceived
  repeat' first
    | with_reducible assumption | exact Sub.of hm rfl | exact Has.of hm rfl | intro _
    | (extract_lets +onlyGivenNames x; first | (refine (have hx : State.Keeps msk s0 x := ?_; ?_); (on_goal 2 => clear_value x); (on_goal 1 => subst x)) | (refine (have hx : State.Keeps msk s0 x.1 := ?_; ?_); (on_goal 2 => clear_value x); (on_goal 1 => subst x)) | clear_value x)
    | (with_reducible first
        | refine Result.next_keeps ?_ | apply State.enumReceived_keeps | apply State.loadAudio_keeps | apply State.seedSlice_keeps
        | apply State.tileReady_keeps | refine Result.ite_keeps ?_ ?_ | refine State.ite_keeps ?_ ?_)
    | split

theorem execDelayAssignReceived_keeps {msk : Nat} {s0 : State} {port : Nat} {packet : List Byte} {s : State} (hk0 : State.Keeps msk s0 s) (hm : Sub 0x1000006069000200000000000000000000000000000000000040000060000000000000000000001ffc1c58000180000000278001 msk) :
    Result.Keeps msk s0 (execDelayAssignReceived port packet s) := by
  unfold execDelayAssignReceived
  repeat' first
    | with_reducible assumption | exact Sub.of hm rfl | exact Has.of hm rfl | intro _
    | (extract_lets +onlyGivenNames x; first | (refine (have hx : State.Keeps msk s0 x := ?_; ?_); (on_goal 2 => clear_value x); (on_goal 1 => subst x)) | clear_value x)
    | (with_reducible first
        | refine Result.next_keeps ?_ | apply State.takePairDelay_keeps | apply State.kept_keeps | apply State.takeDelays_keeps
        | apply State.tileReady_keeps | refine Result.ite_keeps ?_ ?_ | refine State.ite_keeps ?_ ?_)
    | split
    | (with_reducible first
        | refine State.Keeps.fst (by assumption) ?_ | fail_if_no_progress refine State.mk_keeps ?_ ?_)

theorem execTransmitWindow_keeps {msk : Nat} {s0 : State} {region slot aligns : Nat} {s : State} (hk0 : State.Keeps msk s0 s) (hm : Sub 0x1000006069000000000000000000000000000000000400000000000000000040002000000000001ffc1c58032000040000279343 msk) :
    Result.Keeps msk s0 (execTransmitWindow region slot aligns s) := by
  unfold execTransmitWindow
  repeat' first
    | with_reducible assumption | exact Sub.of hm rfl | exact Has.of hm rfl | intro _
    | (with_reducible first
        | refine Result.next_keeps ?_ | apply State.transmitWindow_keeps | apply State.stageProgress_keeps)

theorem State.postReset_keeps {msk : Nat} {s0 : State} {s : State} (hk0 : State.Keeps msk s0 s) (hm : Sub 0x1000006069000000000000000000000000000000000000000000000000000000000000000000001ffc1c58000000000000278302 msk) :
    State.Keeps msk s0 (State.postReset s) := by
  unfold State.postReset
  repeat' first
    | with_reducible assumption | exact Sub.of hm rfl | exact Has.of hm rfl | intro _
    | (extract_lets +onlyGivenNames x; first | (refine (have hx : State.Keeps msk s0 x := ?_; ?_); (on_goal 2 => clear_value x); (on_goal 1 => subst x)) | clear_value x)
    | with_reducible apply State.postKeys_keeps | split
    | (with_reducible first
        | refine State.Keeps.fst (by assumption) ?_ | exact State.Keeps.io (by assumption) | fail_if_no_progress refine State.Keeps.io ?_
        | fail_if_no_progress refine State.mk_keeps ?_ ?_ | fail_if_no_progress refine Io.mk_keeps ?_)

theorem State.goOperational_keeps {msk : Nat} {s0 : State} {s : State} (hk0 : State.Keeps msk s0 s) (hm : Sub 0x1001006069000340000000000000000000000000000000000000000000000000000000000000001ffc1c58000000000000278b42 msk) :
    State.Keeps msk s0 (State.goOperational s) := by
  unfold State.goOperational
  repeat' first
    | with_reducible assumption | exact Sub.of hm rfl | exact Has.of hm rfl | intro _ | exact RegOf.CTL_BOOT_TIME
    | (extract_lets +onlyGivenNames x; first | (refine (have hx : State.Keeps msk s0 x := ?_; ?_); (on_goal 2 => clear_value x); (on_goal 1 => subst x)) | (refine (have hx : State.Keeps msk s0 x.1 := ?_; ?_); (on_goal 2 => clear_value x); (on_goal 1 => subst x)) | clear_value x)
    | (with_reducible first
        | apply State.enter_keeps | apply Io.fire_keeps | apply State.fire_keeps | apply State.onBoot_keeps | apply State.on_keeps
        | apply Io.createRing0_keeps | apply State.alert_keeps | apply State.stopWatchdog_keeps | apply Io.setF_keeps
        | apply State.setF_keeps | apply State.startCeiling_keeps | apply State.postReset_keeps | apply State.foldl_keeps
        | apply State.foldl_keeps_fst | apply Io.foldl_keeps | apply Io.foldl_keeps_fst | apply State.on_keeps
        | refine State.ite_keeps ?_ ?_ | refine Io.ite_keeps ?_ ?_)
    | split
    | (with_reducible first
        | refine State.Keeps.fst (by assumption) ?_ | exact State.Keeps.io (by assumption) | fail_if_no_progress refine State.Keeps.io ?_
        | fail_if_no_progress refine State.mk_keeps ?_ ?_ | fail_if_no_progress refine Io.mk_keeps ?_)

theorem State.tickFirst_keeps {msk : Nat} {s0 : State} {s : State} (hk0 : State.Keeps msk s0 s) (hm : Sub 0x100107e0690003400000000000000000000000000000000000020f4060800000000000000000001ffc1c58026180fc0000af8f43 msk) :
    State.Keeps msk s0 (State.tickFirst s) := by
  unfold State.tickFirst
  repeat' first
    | with_reducible assumption | exact Sub.of hm rfl | exact Has.of hm rfl | intro _
    | (extract_lets +onlyGivenNames x; first | (refine (have hx : State.Keeps msk s0 x := ?_; ?_); (on_goal 2 => clear_value x); (on_goal 1 => subst x)) | (refine (have hx : State.Keeps msk s0 x.1 := ?_; ?_); (on_goal 2 => clear_value x); (on_goal 1 => subst x)) | clear_value x)
    | (with_reducible first
        | apply State.raiseTick_keeps | apply State.goOperational_keeps | apply State.snapshot_keeps | apply State.errorTick_keeps
        | apply State.pairTick_keeps | refine State.ite_keeps ?_ ?_)
    | split

theorem State.tickVideo_keeps {msk : Nat} {s0 : State} {s : State} (hk0 : State.Keeps msk s0 s) (hm : Sub 0x100000606900000000000000000000000000000000000000000000006003a7020000001e0200001ffc1c58010000000000278302 msk) :
    State.Keeps msk s0 (State.tickVideo s) := by
  unfold State.tickVideo
  repeat' first
    | with_reducible assumption | exact Sub.of hm rfl | exact Has.of hm rfl | intro _
    | (with_reducible first
        | apply State.layersTick_keeps | apply State.captureTick_keeps | apply State.keysTick_keeps | apply State.encodeTick_keeps
        | apply State.decodeTick_keeps | apply State.holdTick_keeps)

theorem State.tickRestart_keeps {msk : Nat} {s0 : State} {s : State} {umberLow : Bool} (hk0 : State.Keeps msk s0 s) (hm : Sub 0x10010460690042fc05040000000000000000000000020001c000004003800000000000000000001ffc1c5800000003fc80ffffff msk) :
    State.Keeps msk s0 (State.tickRestart s umberLow) := by
  unfold State.tickRestart
  repeat' first
    | with_reducible assumption | exact Sub.of hm rfl | exact Has.of hm rfl | intro _
    | (with_reducible first
        | apply State.wallRestartTick_keeps | apply State.restartTick_keeps)

theorem State.tickLast_keeps {msk : Nat} {s0 : State} {s : State} {jumped : Bool} (hk0 : State.Keeps msk s0 s) (hm : Sub 0x1000006069000000c58400000001a3700100108000000a0fc000000060000000000fce004004001ffc5c58000000000000679ec2 msk) :
    State.Keeps msk s0 (State.tickLast s jumped) := by
  unfold State.tickLast
  repeat' first
    | with_reducible assumption | exact Sub.of hm rfl | exact Has.of hm rfl | intro _
    | (with_reducible first
        | apply State.lampTick_keeps | apply State.driverTick_keeps | apply State.cclkTick_keeps | apply State.throttleTick_keeps
        | apply State.audioTick_keeps | apply State.advance_keeps)

theorem State.numberedTick_keeps {msk : Nat} {s0 : State} {s : State} {umberLow : Bool} (hk0 : State.Keeps msk s0 s) (hm : Sub 0x100107e0690043fcc58400000001a3700100108000020a0fc0020f406383a702000fce1e4204001ffc5c58036180fffc80ffffff msk) :
    State.Keeps msk s0 (State.numberedTick s umberLow) := by
  unfold State.numberedTick
  repeat' first
    | with_reducible assumption | exact Sub.of hm rfl | exact Has.of hm rfl | intro _
    | (extract_lets +onlyGivenNames x; first | (refine (have hx : State.Keeps msk s0 x := ?_; ?_); (on_goal 2 => clear_value x); (on_goal 1 => subst x)) | (refine (have hx : State.Keeps msk s0 x.1 := ?_; ?_); (on_goal 2 => clear_value x); (on_goal 1 => subst x)) | clear_value x)
    | (with_reducible first
        | apply State.tickFirst_keeps | apply State.tickVideo_keeps | apply State.tickRestart_keeps | apply State.tickLast_keeps
        | refine State.ite_keeps ?_ ?_)
    | split

theorem execTick_keeps {msk : Nat} {s0 : State} {s : State} {umberLow : Bool} (hk0 : State.Keeps msk s0 s) (hm : Sub 0x100107e0690043fcc58400000001a3700100108000020a0fc0020f406383a702000fce1e4204001ffc5c58036180fffc80ffffff msk) :
    Result.Keeps msk s0 (execTick umberLow s) := by
  unfold execTick
  repeat' first
    | with_reducible assumption | exact Sub.of hm rfl | exact Has.of hm rfl | intro _
    | (with_reducible first
        | refine Result.next_keeps ?_ | apply State.numberedTick_keeps | refine Result.ite_keeps ?_ ?_ | refine State.ite_keeps ?_ ?_
        | refine Io.ite_keeps ?_ ?_)
    | split
    | (with_reducible first
        | exact State.Keeps.io (by assumption) | fail_if_no_progress refine State.Keeps.io ?_)

end Sys2Proof.Machine
end

