-- ==== Sys2Proof/Laws/Commands.lean ====
section
/-! SUPPORT. What every command keeps: the queue, the canonical form of the shared state, time; and how the set of parts of a
command's lemma gives the list of a statement. -/

set_option Elab.async false

namespace Sys2Proof.Machine

/-- The parts of a list, as a number. -/
def maskOf (l : List Nat) : Nat := l.foldl (fun m p => m ||| 2 ^ p) 0

theorem has_foldl {p : Nat} (l : List Nat) (m : Nat) (h : Has p (l.foldl (fun m p => m ||| 2 ^ p) m)) : Has p m ∨ p ∈ l := by
  induction l generalizing m with
  | nil => exact .inl h
  | cons x t ih =>
    rcases ih _ h with k | k
    · unfold Has at k
      rw [Nat.testBit_or, Nat.testBit_two_pow, Bool.or_eq_true, decide_eq_true_eq] at k
      rcases k with k | k
      · exact .inl k
      · exact .inr (by simp [k])
    · exact .inr (List.mem_cons_of_mem _ k)

theorem has_maskOf {p : Nat} {l : List Nat} (h : Has p (maskOf l)) : p ∈ l := by
  rcases has_foldl l 0 h with k | k
  · simp [Has] at k
  · exact k

theorem Alike.same {α : Type} {p : Nat} {l : List Nat} {a b : α} (h : Alike p (maskOf l) a b) : Same p l a b :=
  h.elim (fun x => .inl (has_maskOf x)) .inr

theorem State.Keeps.only {l : List Nat} {s t : State} (h : State.Keeps (maskOf l) s t) : State.Only l s t := by
  exact ⟨h.tick.same, h.link.same, h.tiles.same, h.chans.same, h.host.same, h.plan.same, h.boot.same, h.therm.same, h.pairUnit.same, h.video.same, h.lamp.same, h.wall.same, h.audio.same, h.meter.same, h.jtag.same,
    h.io.rings.same, h.io.tc.same, h.io.walks.same, h.io.ops.same, h.io.reads.same, h.io.badReads.same, h.io.bar2.same, h.io.owed.same, h.io.maxRead.same, h.io.dram.same, h.io.cnt.same, h.io.fwd.same, h.io.fwdLost.same, h.io.once.same, h.io.latch.same, h.io.wideHold.same, h.io.snap.same, h.io.meterUp.same, h.io.linkUp.same, h.io.d3hot.same, h.io.out.same, h.io.fresh.same, h.io.now.same,
    fun a ha => h.io.regs a (fun p hp => ha p (has_maskOf hp))⟩

theorem subAll {a : Nat} (h : Nat.beq (Nat.land a 0x181ffff0fb7373fff7fffd0ffffffffffffe7ffbcfdfffffff7fff5ffff3ffffffefcffefe5ffe3ffffcfef7ffbcfffe80ffffff) a = true) : Sub a 0x181ffff0fb7373fff7fffd0ffffffffffffe7ffbcfdfffffff7fff5ffff3ffffffefcffefe5ffe3ffffcfef7ffbcfffe80ffffff := Nat.eq_of_beq_eq_true h

/-- The meaning of every command keeps what `State.Keeps` says, whatever parts it touches. -/
theorem exec_keeps (c : Instr) (s : State) : Result.Keeps 0x181ffff0fb7373fff7fffd0ffffffffffffe7ffbcfdfffffff7fff5ffff3ffffffefcffefe5ffe3ffffcfef7ffbcfffe80ffffff s (exec c s) := by
  cases c with
  | powerOn _ _ _ _ _ => exact execPowerOn_keeps (.refl s) (subAll rfl)
  | deviceReset _ _ _ _ _ => exact execDeviceReset_keeps (.refl s) (subAll rfl)
  | railUndervoltage => exact execRailUndervoltage_keeps (.refl s) (subAll rfl)
  | imageSectionReadDone _ _ => exact execImageSectionReadDone_keeps (.refl s) (subAll rfl)
  | nvmReadTimeout _ => exact execNvmReadTimeout_keeps (.refl s) (subAll rfl)
  | dramTrainingDone _ _ _ _ _ _ _ _ => exact execDramTrainingDone_keeps (.refl s) (subAll rfl)
  | loadingComplete => exact execLoadingComplete_keeps (.refl s) (subAll rfl)
  | bootWatchdogExpiry => exact execBootWatchdogExpiry_keeps (.refl s) (subAll rfl)
  | registerWrite _ _ _ _ _ => exact execRegisterWrite_keeps (.refl s) (subAll rfl)
  | lowHalfRead _ _ _ _ => exact execLowHalfRead_keeps (.refl s) (subAll rfl)
  | referenceEdge _ => exact execReferenceEdge_keeps (.refl s) (subAll rfl)
  | edgeMissing => exact execEdgeMissing_keeps (.refl s) (subAll rfl)
  | tick _ => exact execTick_keeps (.refl s) (subAll rfl)
  | repeatBoundary => exact execRepeatBoundary_keeps (.refl s) (subAll rfl)
  | tickMarkerSend _ _ => exact execTickMarkerSend_keeps (.refl s) (subAll rfl)
  | tickMarkerReceived _ _ _ => exact execTickMarkerReceived_keeps (.refl s) (subAll rfl)
  | markerMissing _ => exact execMarkerMissing_keeps (.refl s) (subAll rfl)
  | enumSend _ _ => exact execEnumSend_keeps (.refl s) (subAll rfl)
  | enumReceived _ _ => exact execEnumReceived_keeps (.refl s) (subAll rfl)
  | delayProbe _ _ _ => exact execDelayProbe_keeps (.refl s) (subAll rfl)
  | probeReceived _ _ _ _ => exact execProbeReceived_keeps (.refl s) (subAll rfl)
  | probeEchoReceived _ _ _ => exact execProbeEchoReceived_keeps (.refl s) (subAll rfl)
  | delayAssignReceived _ _ => exact execDelayAssignReceived_keeps (.refl s) (subAll rfl)
  | fetchComposeSlot _ _ _ _ _ => exact execFetchComposeSlot_keeps (.refl s) (subAll rfl)
  | handoffRowFree _ => exact execHandoffRowFree_keeps (.refl s) (subAll rfl)
  | encodeSlot _ _ _ => exact execEncodeSlot_keeps (.refl s) (subAll rfl)
  | transmitWindow _ _ _ => exact execTransmitWindow_keeps (.refl s) (subAll rfl)
  | elasticSlotComplete _ _ _ => exact execElasticSlotComplete_keeps (.refl s) (subAll rfl)
  | segmentReceived _ _ _ => exact execSegmentReceived_keeps (.refl s) (subAll rfl)
  | reservedPacket _ _ => exact execReservedPacket_keeps (.refl s) (subAll rfl)
  | decodeSlot _ _ => exact execDecodeSlot_keeps (.refl s) (subAll rfl)
  | cascadedInputDecode _ _ => exact execCascadedInputDecode_keeps (.refl s) (subAll rfl)
  | cascadeFrameComplete _ _ => exact execCascadeFrameComplete_keeps (.refl s) (subAll rfl)
  | rowCutoff _ _ _ _ => exact execRowCutoff_keeps (.refl s) (subAll rfl)
  | lampPipelineSlot _ _ _ => exact execLampPipelineSlot_keeps (.refl s) (subAll rfl)
  | wearSampleSlot _ _ _ => exact execWearSampleSlot_keeps (.refl s) (subAll rfl)
  | driverLoadSlot _ _ _ _ => exact execDriverLoadSlot_keeps (.refl s) (subAll rfl)
  | broadcastSync => exact execBroadcastSync_keeps (.refl s) (subAll rfl)
  | teEdge _ _ => exact execTeEdge_keeps (.refl s) (subAll rfl)
  | teTimeout _ => exact execTeTimeout_keeps (.refl s) (subAll rfl)
  | greyPulseWindow _ _ => exact execGreyPulseWindow_keeps (.refl s) (subAll rfl)
  | audioWindow _ _ _ _ _ _ => exact execAudioWindow_keeps (.refl s) (subAll rfl)
  | hostCaptureWrite _ _ _ => exact execHostCaptureWrite_keeps (.refl s) (subAll rfl)
  | compileDeadline => exact execCompileDeadline_keeps (.refl s) (subAll rfl)
  | fenceWordRead _ => exact execFenceWordRead_keeps (.refl s) (subAll rfl)
  | fenceReadComplete _ _ => exact execFenceReadComplete_keeps (.refl s) (subAll rfl)
  | releaseDue _ _ => exact execReleaseDue_keeps (.refl s) (subAll rfl)
  | pcieLinkUp _ _ => exact execPcieLinkUp_keeps (.refl s) (subAll rfl)
  | pcieLinkDown => exact execPcieLinkDown_keeps (.refl s) (subAll rfl)
  | hotReset => exact execHotReset_keeps (.refl s) (subAll rfl)
  | functionLevelReset => exact execFunctionLevelReset_keeps (.refl s) (subAll rfl)
  | d3hotEntry => exact execD3hotEntry_keeps (.refl s) (subAll rfl)
  | d3hotToD0 => exact execD3hotToD0_keeps (.refl s) (subAll rfl)
  | bar2Access _ _ _ _ _ => exact execBar2Access_keeps (.refl s) (subAll rfl)
  | completionTimeout _ => exact execCompletionTimeout_keeps (.refl s) (subAll rfl)
  | unexpectedCompletion => exact execUnexpectedCompletion_keeps (.refl s) (subAll rfl)
  | doorbellWrite _ _ _ _ => exact execDoorbellWrite_keeps (.refl s) (subAll rfl)
  | msixUnmask _ => exact execMsixUnmask_keeps (.refl s) (subAll rfl)
  | ringFetch _ => exact execRingFetch_keeps (.refl s) (subAll rfl)
  | sqReadComplete _ _ _ => exact execSqReadComplete_keeps (.refl s) (subAll rfl)
  | nop _ _ => exact execNop_keeps (.refl s) (subAll rfl)
  | reservedOpcode _ _ => exact execReservedOpcode_keeps (.refl s) (subAll rfl)
  | ringCreate _ _ => exact execRingCreate_keeps (.refl s) (subAll rfl)
  | ringDestroy _ _ => exact execRingDestroy_keeps (.refl s) (subAll rfl)
  | ringReset _ _ => exact execRingReset_keeps (.refl s) (subAll rfl)
  | vectorMap _ _ => exact execVectorMap_keeps (.refl s) (subAll rfl)
  | xltSet _ _ => exact execXltSet_keeps (.refl s) (subAll rfl)
  | xltDisable _ _ => exact execXltDisable_keeps (.refl s) (subAll rfl)
  | xltInvalidateAll _ _ => exact execXltInvalidateAll_keeps (.refl s) (subAll rfl)
  | xltInvalidateRange _ _ => exact execXltInvalidateRange_keeps (.refl s) (subAll rfl)
  | invalidationDrained _ _ => exact execInvalidationDrained_keeps (.refl s) (subAll rfl)
  | translationWalkDone _ _ _ => exact execTranslationWalkDone_keeps (.refl s) (subAll rfl)
  | operationComplete _ _ _ _ _ => exact execOperationComplete_keeps (.refl s) (subAll rfl)
  | dmaCopy _ _ => exact execDmaCopy_keeps (.refl s) (subAll rfl)
  | dmaCopyDone _ _ _ _ => exact execDmaCopyDone_keeps (.refl s) (subAll rfl)
  | dramGrant _ _ _ => exact execDramGrant_keeps (.refl s) (subAll rfl)
  | dramWriteAccept _ _ _ _ _ => exact execDramWriteAccept_keeps (.refl s) (subAll rfl)
  | dramReadComplete _ _ _ _ => exact execDramReadComplete_keeps (.refl s) (subAll rfl)
  | portPanicEnter _ _ _ _ => exact execPortPanicEnter_keeps (.refl s) (subAll rfl)
  | portPanicExit _ _ _ _ => exact execPortPanicExit_keeps (.refl s) (subAll rfl)
  | panicWindowEnd _ => exact execPanicWindowEnd_keeps (.refl s) (subAll rfl)
  | requestAged _ _ _ => exact execRequestAged_keeps (.refl s) (subAll rfl)
  | refreshIntervalEnd _ => exact execRefreshIntervalEnd_keeps (.refl s) (subAll rfl)
  | mr4Poll _ _ _ => exact execMr4Poll_keeps (.refl s) (subAll rfl)
  | patternRunStart _ _ _ _ _ => exact execPatternRunStart_keeps (.refl s) (subAll rfl)
  | patternRunDone _ _ _ => exact execPatternRunDone_keeps (.refl s) (subAll rfl)
  | commit _ _ => exact execCommit_keeps (.refl s) (subAll rfl)
  | commitDescriptorReadDone _ _ _ => exact execCommitDescriptorReadDone_keeps (.refl s) (subAll rfl)
  | fenceSignal _ _ => exact execFenceSignal_keeps (.refl s) (subAll rfl)
  | captureBuffer _ _ => exact execCaptureBuffer_keeps (.refl s) (subAll rfl)
  | play _ _ => exact execPlay_keeps (.refl s) (subAll rfl)
  | audioCapture _ _ => exact execAudioCapture_keeps (.refl s) (subAll rfl)
  | mask _ _ => exact execMask_keeps (.refl s) (subAll rfl)
  | audioStart _ _ => exact execAudioStart_keeps (.refl s) (subAll rfl)
  | audioStop _ _ => exact execAudioStop_keeps (.refl s) (subAll rfl)
  | remoteRegRead _ _ => exact execRemoteRegRead_keeps (.refl s) (subAll rfl)
  | remoteRegWrite _ _ => exact execRemoteRegWrite_keeps (.refl s) (subAll rfl)
  | regReqReceived _ _ => exact execRegReqReceived_keeps (.refl s) (subAll rfl)
  | regRspReceived _ _ => exact execRegRspReceived_keeps (.refl s) (subAll rfl)
  | regReqTimeout _ _ => exact execRegReqTimeout_keeps (.refl s) (subAll rfl)
  | ackReceived _ _ => exact execAckReceived_keeps (.refl s) (subAll rfl)
  | returnAckTimeout _ _ => exact execReturnAckTimeout_keeps (.refl s) (subAll rfl)
  | returnCellPass _ _ => exact execReturnCellPass_keeps (.refl s) (subAll rfl)
  | alignSend _ => exact execAlignSend_keeps (.refl s) (subAll rfl)
  | keyRequestReceived _ _ _ => exact execKeyRequestReceived_keeps (.refl s) (subAll rfl)
  | remoteEventReceived _ _ => exact execRemoteEventReceived_keeps (.refl s) (subAll rfl)
  | telemetryReceived _ _ => exact execTelemetryReceived_keeps (.refl s) (subAll rfl)
  | telemetryStale _ _ => exact execTelemetryStale_keeps (.refl s) (subAll rfl)
  | stageAckReceived _ _ => exact execStageAckReceived_keeps (.refl s) (subAll rfl)
  | wordLockLoss _ _ => exact execWordLockLoss_keeps (.refl s) (subAll rfl)
  | rxClockLost _ => exact execRxClockLost_keeps (.refl s) (subAll rfl)
  | ts1Received _ => exact execTs1Received_keeps (.refl s) (subAll rfl)
  | tsWordsReceived _ _ _ => exact execTsWordsReceived_keeps (.refl s) (subAll rfl)
  | equalisationDone _ _ _ _ _ _ _ => exact execEqualisationDone_keeps (.refl s) (subAll rfl)
  | portUp _ _ => exact execPortUp_keeps (.refl s) (subAll rfl)
  | trainingAttemptTimeout _ => exact execTrainingAttemptTimeout_keeps (.refl s) (subAll rfl)
  | trainingRetryTimer _ => exact execTrainingRetryTimer_keeps (.refl s) (subAll rfl)
  | rxClockActivity _ => exact execRxClockActivity_keeps (.refl s) (subAll rfl)
  | linkTestRetry _ _ => exact execLinkTestRetry_keeps (.refl s) (subAll rfl)
  | linkTestForceDown _ _ => exact execLinkTestForceDown_keeps (.refl s) (subAll rfl)
  | fomMeasurement _ _ _ _ => exact execFomMeasurement_keeps (.refl s) (subAll rfl)
  | eqStepAdopt _ => exact execEqStepAdopt_keeps (.refl s) (subAll rfl)
  | helloSend => exact execHelloSend_keeps (.refl s) (subAll rfl)
  | helloReceived _ => exact execHelloReceived_keeps (.refl s) (subAll rfl)
  | commitAnnReceived _ => exact execCommitAnnReceived_keeps (.refl s) (subAll rfl)
  | keyAnnReceived _ => exact execKeyAnnReceived_keeps (.refl s) (subAll rfl)
  | cycleAnnReceived _ => exact execCycleAnnReceived_keeps (.refl s) (subAll rfl)
  | snapshotReceived _ => exact execSnapshotReceived_keeps (.refl s) (subAll rfl)
  | relayReceived _ => exact execRelayReceived_keeps (.refl s) (subAll rfl)
  | deposeReceived _ => exact execDeposeReceived_keeps (.refl s) (subAll rfl)
  | handoverReceived _ => exact execHandoverReceived_keeps (.refl s) (subAll rfl)
  | pairAckReceived _ => exact execPairAckReceived_keeps (.refl s) (subAll rfl)
  | readDoneReceived _ => exact execReadDoneReceived_keeps (.refl s) (subAll rfl)
  | reuniteReceived _ => exact execReuniteReceived_keeps (.refl s) (subAll rfl)
  | pairPacketTimeout _ => exact execPairPacketTimeout_keeps (.refl s) (subAll rfl)
  | comparisonDeadline _ _ => exact execComparisonDeadline_keeps (.refl s) (subAll rfl)
  | deposeAckTimeout => exact execDeposeAckTimeout_keeps (.refl s) (subAll rfl)
  | announcementMissing => exact execAnnouncementMissing_keeps (.refl s) (subAll rfl)
  | reunitePoll _ _ => exact execReunitePoll_keeps (.refl s) (subAll rfl)
  | suspectTimeout => exact execSuspectTimeout_keeps (.refl s) (subAll rfl)
  | pairPortTimeout => exact execPairPortTimeout_keeps (.refl s) (subAll rfl)
  | pairTestHandover _ => exact execPairTestHandover_keeps (.refl s) (subAll rfl)
  | pairTestForeign _ => exact execPairTestForeign_keeps (.refl s) (subAll rfl)
  | ceilingCheck => exact execCeilingCheck_keeps (.refl s) (subAll rfl)
  | ceilingReceived _ _ => exact execCeilingReceived_keeps (.refl s) (subAll rfl)
  | wallThrottleCheck => exact execWallThrottleCheck_keeps (.refl s) (subAll rfl)
  | throttleReceived _ _ => exact execThrottleReceived_keeps (.refl s) (subAll rfl)
  | wallCmdResend => exact execWallCmdResend_keeps (.refl s) (subAll rfl)
  | slotMaskReceived _ _ => exact execSlotMaskReceived_keeps (.refl s) (subAll rfl)
  | admissionPoll => exact execAdmissionPoll_keeps (.refl s) (subAll rfl)
  | admitReceived _ _ => exact execAdmitReceived_keeps (.refl s) (subAll rfl)
  | restartReceived _ _ => exact execRestartReceived_keeps (.refl s) (subAll rfl)
  | attestCommandReceived _ _ => exact execAttestCommandReceived_keeps (.refl s) (subAll rfl)
  | blendRequest _ => exact execBlendRequest_keeps (.refl s) (subAll rfl)
  | sensorRead _ _ => exact execSensorRead_keeps (.refl s) (subAll rfl)
  | presencePoll _ _ _ => exact execPresencePoll_keeps (.refl s) (subAll rfl)
  | attachReadsDone _ _ => exact execAttachReadsDone_keeps (.refl s) (subAll rfl)
  | boardRelease _ _ => exact execBoardRelease_keeps (.refl s) (subAll rfl)
  | boardRetest _ _ => exact execBoardRetest_keeps (.refl s) (subAll rfl)
  | wearStoreTimer => exact execWearStoreTimer_keeps (.refl s) (subAll rfl)
  | chunkWriteDone _ _ => exact execChunkWriteDone_keeps (.refl s) (subAll rfl)
  | storePassDone _ => exact execStorePassDone_keeps (.refl s) (subAll rfl)
  | faultCopyWrite _ => exact execFaultCopyWrite_keeps (.refl s) (subAll rfl)
  | unverifiedMinute => exact execUnverifiedMinute_keeps (.refl s) (subAll rfl)
  | persistHourly => exact execPersistHourly_keeps (.refl s) (subAll rfl)
  | nvmWriteComplete => exact execNvmWriteComplete_keeps (.refl s) (subAll rfl)
  | audioPacketReceived _ _ => exact execAudioPacketReceived_keeps (.refl s) (subAll rfl)
  | audioPacketDeadline _ => exact execAudioPacketDeadline_keeps (.refl s) (subAll rfl)
  | audioFrame _ _ _ _ _ _ => exact execAudioFrame_keeps (.refl s) (subAll rfl)
  | bclkLoss _ => exact execBclkLoss_keeps (.refl s) (subAll rfl)
  | bclkReturn _ => exact execBclkReturn_keeps (.refl s) (subAll rfl)
  | audioPortLocked _ => exact execAudioPortLocked_keeps (.refl s) (subAll rfl)
  | audioFadeDone _ => exact execAudioFadeDone_keeps (.refl s) (subAll rfl)
  | meterPowerOn _ _ => exact execMeterPowerOn_keeps (.refl s) (subAll rfl)
  | meterInterval _ _ _ => exact execMeterInterval_keeps (.refl s) (subAll rfl)
  | bitstreamStuck _ => exact execBitstreamStuck_keeps (.refl s) (subAll rfl)
  | energySave => exact execEnergySave_keeps (.refl s) (subAll rfl)
  | recordRequestRead _ => exact execRecordRequestRead_keeps (.refl s) (subAll rfl)
  | recordSigned => exact execRecordSigned_keeps (.refl s) (subAll rfl)
  | shutdownNotice => exact execShutdownNotice_keeps (.refl s) (subAll rfl)
  | meterActivationNotice _ => exact execMeterActivationNotice_keeps (.refl s) (subAll rfl)
  | calEnAssert => exact execCalEnAssert_keeps (.refl s) (subAll rfl)
  | calEnRelease => exact execCalEnRelease_keeps (.refl s) (subAll rfl)
  | calStart _ => exact execCalStart_keeps (.refl s) (subAll rfl)
  | calZero _ => exact execCalZero_keeps (.refl s) (subAll rfl)
  | calVref _ => exact execCalVref_keeps (.refl s) (subAll rfl)
  | calIref _ => exact execCalIref_keeps (.refl s) (subAll rfl)
  | calDelay _ => exact execCalDelay_keeps (.refl s) (subAll rfl)
  | calCommit _ => exact execCalCommit_keeps (.refl s) (subAll rfl)
  | calAbort _ => exact execCalAbort_keeps (.refl s) (subAll rfl)
  | calSeal _ => exact execCalSeal_keeps (.refl s) (subAll rfl)
  | calNone _ => exact execCalNone_keeps (.refl s) (subAll rfl)
  | calBadCmd _ _ => exact execCalBadCmd_keeps (.refl s) (subAll rfl)
  | thermalModelUpdate _ _ _ _ => exact execThermalModelUpdate_keeps (.refl s) (subAll rfl)
  | meteringStaleTimeout => exact execMeteringStaleTimeout_keeps (.refl s) (subAll rfl)
  | thermalEvaluation => exact execThermalEvaluation_keeps (.refl s) (subAll rfl)
  | thmTestShutdown _ => exact execThmTestShutdown_keeps (.refl s) (subAll rfl)
  | shutdownTimeout => exact execShutdownTimeout_keeps (.refl s) (subAll rfl)
  | diodeTrip => exact execDiodeTrip_keeps (.refl s) (subAll rfl)
  | thermalRestart _ _ _ _ => exact execThermalRestart_keeps (.refl s) (subAll rfl)
  | umberNone => exact execUmberNone_keeps (.refl s) (subAll rfl)
  | umberFormat => exact execUmberFormat_keeps (.refl s) (subAll rfl)
  | umberOpen => exact execUmberOpen_keeps (.refl s) (subAll rfl)
  | umberBlock => exact execUmberBlock_keeps (.refl s) (subAll rfl)
  | umberBlockProgrammed _ => exact execUmberBlockProgrammed_keeps (.refl s) (subAll rfl)
  | umberClose => exact execUmberClose_keeps (.refl s) (subAll rfl)
  | umberDiscard => exact execUmberDiscard_keeps (.refl s) (subAll rfl)
  | umberRestart _ => exact execUmberRestart_keeps (.refl s) (subAll rfl)
  | umberBootActive => exact execUmberBootActive_keeps (.refl s) (subAll rfl)
  | umberBadCmd _ => exact execUmberBadCmd_keeps (.refl s) (subAll rfl)
  | stageOpen _ _ => exact execStageOpen_keeps (.refl s) (subAll rfl)
  | stageData _ _ _ _ => exact execStageData_keeps (.refl s) (subAll rfl)
  | stageClose _ _ => exact execStageClose_keeps (.refl s) (subAll rfl)
  | stageDiscard _ _ => exact execStageDiscard_keeps (.refl s) (subAll rfl)
  | stageCloseTimeout => exact execStageCloseTimeout_keeps (.refl s) (subAll rfl)
  | stageOpenPacket _ _ => exact execStageOpenPacket_keeps (.refl s) (subAll rfl)
  | stageDataPacket _ _ => exact execStageDataPacket_keeps (.refl s) (subAll rfl)
  | stageClosePacket _ _ => exact execStageClosePacket_keeps (.refl s) (subAll rfl)
  | stageDiscardPacket _ _ => exact execStageDiscardPacket_keeps (.refl s) (subAll rfl)
  | stageQueryPacket _ _ => exact execStageQueryPacket_keeps (.refl s) (subAll rfl)
  | stageProgramDone _ => exact execStageProgramDone_keeps (.refl s) (subAll rfl)
  | wallRestart _ _ => exact execWallRestart_keeps (.refl s) (subAll rfl)
  | activationCopy => exact execActivationCopy_keeps (.refl s) (subAll rfl)
  | activationSectorDone _ _ => exact execActivationSectorDone_keeps (.refl s) (subAll rfl)
  | attestLocal _ _ => exact execAttestLocal_keeps (.refl s) (subAll rfl)
  | attestTile _ _ => exact execAttestTile_keeps (.refl s) (subAll rfl)
  | attestReportDone => exact execAttestReportDone_keeps (.refl s) (subAll rfl)
  | eventStatusClear _ _ _ _ => exact execEventStatusClear_keeps (.refl s) (subAll rfl)
  | eventMaskWrite _ _ _ => exact execEventMaskWrite_keeps (.refl s) (subAll rfl)
  | counterSnap _ => exact execCounterSnap_keeps (.refl s) (subAll rfl)
  | counterClear _ => exact execCounterClear_keeps (.refl s) (subAll rfl)
  | counterReset _ _ => exact execCounterReset_keeps (.refl s) (subAll rfl)
  | counterWrap _ => exact execCounterWrap_keeps (.refl s) (subAll rfl)
  | cellFault _ _ _ _ _ _ _ _ _ => exact execCellFault_keeps (.refl s) (subAll rfl)
  | cellStall _ _ _ _ _ _ _ _ => exact execCellStall_keeps (.refl s) (subAll rfl)
  | blockFault _ _ _ => exact execBlockFault_keeps (.refl s) (subAll rfl)
  | blockRestartDone _ _ => exact execBlockRestartDone_keeps (.refl s) (subAll rfl)
  | blockRestartTimeout _ _ _ => exact execBlockRestartTimeout_keeps (.refl s) (subAll rfl)
  | regionFault _ _ => exact execRegionFault_keeps (.refl s) (subAll rfl)
  | regionReturn _ _ _ => exact execRegionReturn_keeps (.refl s) (subAll rfl)
  | chipError _ _ => exact execChipError_keeps (.refl s) (subAll rfl)
  | firmwareWatchdogExpiry _ _ => exact execFirmwareWatchdogExpiry_keeps (.refl s) (subAll rfl)
  | jtagReset => exact execJtagReset_keeps (.refl s) (subAll rfl)
  | jtagExtest _ => exact execJtagExtest_keeps (.refl s) (subAll rfl)
  | jtagSamplePreload _ _ _ => exact execJtagSamplePreload_keeps (.refl s) (subAll rfl)
  | jtagBypass _ => exact execJtagBypass_keeps (.refl s) (subAll rfl)
  | jtagRegaccUpdate _ _ => exact execJtagRegaccUpdate_keeps (.refl s) (subAll rfl)
  | jtagRegaccCapture => exact execJtagRegaccCapture_keeps (.refl s) (subAll rfl)
  | configurationWrite _ => exact execConfigurationWrite_keeps (.refl s) (subAll rfl)
  | pcieLinkSpeedChange _ _ => exact execPcieLinkSpeedChange_keeps (.refl s) (subAll rfl)
  | pcieCorrectableError => exact execPcieCorrectableError_keeps (.refl s) (subAll rfl)
  | cellDrop _ _ => exact execCellDrop_keeps (.refl s) (subAll rfl)
  | pairPacketReserved _ => exact execPairPacketReserved_keeps (.refl s) (subAll rfl)
  | meterPowerLoss => exact execMeterPowerLoss_keeps (.refl s) (subAll rfl)
  | pwrgoodFall => exact execPwrgoodFall_keeps (.refl s) (subAll rfl)
  | monitoredRailRecovery _ _ _ _ => exact execMonitoredRailRecovery_keeps (.refl s) (subAll rfl)
  | diodeWindowChange _ _ => exact execDiodeWindowChange_keeps (.refl s) (subAll rfl)

end Sys2Proof.Machine
end

