-- ==== Sys2Proof/Laws/Status.lean ====
section
/-! SUPPORT. The event collector: a status bit stays set through whatever events do, an event that can fire is recorded, and fields of
registers that the collector has no part in keep their values. -/

set_option Elab.async false

namespace Sys2Proof.Machine

/-- Every status bit that is set in `s` is set in `t`. -/
def Io.StatusUp (s t : Io) : Prop := ∀ e, e < 512 → s.evtStatus e = true → t.evtStatus e = true

theorem Io.StatusUp.refl (s : Io) : Io.StatusUp s s := fun _ _ h => h
theorem Io.StatusUp.trans {s t u : Io} (h : Io.StatusUp s t) (k : Io.StatusUp t u) : Io.StatusUp s u := fun e he x => k e he (h e he x)

/-- An operation with no part in the status words leaves every status bit. -/
theorem Io.Keeps.statusUp {m : Nat} {s t : Io} (h : Io.Keeps m s t) (hc : clear m Part.CTL_EVT_STATUS = true) : Io.StatusUp s t := fun e _ x => by
  unfold Io.evtStatus at x ⊢; rw [h.getReg (RegOf.CTL_EVT_STATUS _) (by decide) hc]; exact x

/-- Whether an event can fire does not change by an operation with no part in CTL_VARIANT and CTL_BOOT. -/
theorem Io.Keeps.canFire {m : Nat} {s t : Io} (h : Io.Keeps m s t) (hv : clear m Part.CTL_VARIANT = true) (hb : clear m Part.CTL_BOOT = true) (o : Occ) :
    t.canFire o = s.canFire o := by
  have g : ∀ f : Field, f.reg = Reg.CTL_VARIANT → t.getF f = s.getF f := fun f hf => h.getF (q := Part.CTL_VARIANT) (by rw [hf]; exact RegOf.CTL_VARIANT) (by decide) hv
  have b : t.boot = s.boot := h.getF (q := Part.CTL_BOOT) RegOf.CTL_BOOT (by decide) hb
  simp only [Io.canFire, Io.collecting, b, Io.subsystem, Io.hasHost, Io.hasLamps, Io.isTile, Io.isCombined, Io.isF, Io.regionActive,
    g Fld.CTL_VARIANT_ROLE rfl, g Fld.CTL_VARIANT_REGION_MASK rfl, g Fld.CTL_VARIANT_PAIR_PORT rfl, g Fld.CTL_VARIANT_METER_FITTED rfl]

/-- A write outside the status words leaves every status bit. -/
theorem Io.evtStatus_setReg (s : Io) {a e : Nat} (v : BitVec 32) (h : Reg.CTL_EVT_STATUS (e / 32) ≠ a) :
    (s.setReg a v).evtStatus e = s.evtStatus e := by
  unfold Io.evtStatus; rw [Io.getReg_setReg_other _ _ h]

/-- A status bit stays set when a register that is no status word is written. -/
theorem Io.evtStatus_setF (s : Io) {f : Field} {e : Nat} (v : Nat) (h : Reg.CTL_EVT_STATUS (e / 32) ≠ f.reg) : (s.setF f v).evtStatus e = s.evtStatus e :=
  Io.evtStatus_setReg s _ h

theorem bit_eq_bits (v i : Nat) : bit v i = decide (bits v i 1 = 1) := rfl

/-- Status bit `x` after the bit of event `e` is set. -/
theorem Io.evtStatus_setStatus (s : Io) {e x : Nat} (he : e < 512) (hx : x < 512) :
    (s.setStatus e 1).evtStatus x = (decide (x = e) || s.evtStatus x) := by
  unfold Io.evtStatus Io.setStatus
  dsimp only
  by_cases hw : x / 32 = e / 32
  · rw [hw, Io.getReg_setReg_same, Io.toNat_putBits _ _ _ _ _ (by omega), bit_eq_bits, bit_eq_bits]
    rcases Nat.lt_trichotomy (x % 32) (e % 32) with h | h | h
    · rw [bits_putBits_below (by omega)]; simp [show x ≠ e by omega]
    · rw [h, bits_putBits]; simp [show x = e by omega]
    · rw [bits_putBits_above (by omega)]; simp [show x ≠ e by omega]
  · have : Reg.CTL_EVT_STATUS (x / 32) ≠ Reg.CTL_EVT_STATUS (e / 32) := by unfold Reg.CTL_EVT_STATUS; omega
    rw [Io.getReg_setReg_other _ _ this]
    simp [show x ≠ e by rintro rfl; exact hw rfl]

theorem Io.setStatus_up (s : Io) {e : Nat} (h : e < 512) : Io.StatusUp s (s.setStatus e 1) := fun x hl hx => by
  rw [Io.evtStatus_setStatus s h hl, hx, Bool.or_true]

theorem Io.countEvent_up (s : Io) {e : Nat} (v : Nat) (h : e < 512) : Io.StatusUp s (s.setF (Fld.CTL_EVT_COUNT e) v) := fun x hl hx => by
  rw [Io.evtStatus_setF s v (by simp only [Fld.CTL_EVT_COUNT, Reg.CTL_EVT_COUNT, Reg.CTL_EVT_STATUS]; omega)]; exact hx

theorem eventDefined_lt {e : Nat} (h : eventDefined e = true) : e < 512 := by
  simp [eventDefined] at h; exact h.1.1

theorem Io.canFire_defined {s : Io} {o : Occ} (h : s.canFire o = true) : eventDefined o.event = true := by
  simp only [Io.canFire, Bool.and_eq_true] at h; exact h.1.1.2

/-- What the record of an occurrence does leaves every status bit. -/
theorem Io.recordOf_up (s : Io) (h : RecordHead) : Io.StatusUp s ((s.writeRecords h).1.forwardRecord h).1 :=
  ((Io.writeRecords_keeps (h := h) (Io.Keeps.refl s) (Sub.self _)).statusUp (by decide +kernel)).trans
    ((Io.forwardRecord_keeps (h := h) (Io.Keeps.refl _) (Sub.self _)).statusUp (by decide +kernel))

theorem Io.occur_up (s : Io) (o : Occ) (again : Bool) : Io.StatusUp s (s.occur o again).1 := by
  unfold Io.occur
  split
  · exact .refl s
  · next h =>
    have he := eventDefined_lt (Io.canFire_defined (by simpa using h))
    extract_lets e was s1 s2
    have h1 : Io.StatusUp s s1 := by
      unfold s1
      split
      · exact Io.countEvent_up s _ he
      · exact .refl s
    clear_value s1
    have h2 : Io.StatusUp s s2 := (h1.trans (Io.setStatus_up s1 he)).trans (Io.countEvent_up _ _ he)
    clear_value s2
    have h3 := h2.trans ((Io.countSource_keeps (src := e) (region := o.region) (Io.Keeps.refl s2) (Sub.self _)).statusUp (by decide +kernel))
    generalize s2.countSource e o.region = p at h3 ⊢
    obtain ⟨s3, o1⟩ := p
    dsimp only at h3 ⊢
    split
    · exact h3
    · have h4 : Io.StatusUp s (if was = true then s3 else s3.evtMessage e) := by
        split
        · exact h3
        · exact h3.trans ((Io.evtMessage_keeps (Io.Keeps.refl s3) (Sub.self _)).statusUp (by decide +kernel))
      exact h4.trans (Io.recordOf_up _ _)

theorem Io.occur_keepsFire (s : Io) (o p : Occ) : (s.occur o).1.canFire p = s.canFire p :=
  (Io.occur_keeps (o := o) (again := false) (Io.Keeps.refl s) (Sub.self _)).canFire (by decide +kernel) (by decide +kernel) p

/-- An occurrence that can fire sets its status bit (R504). -/
theorem Io.occur_recorded (s : Io) (o : Occ) (h : s.canFire o = true) : (s.occur o).1.evtStatus o.event = true := by
  have he := eventDefined_lt (Io.canFire_defined h)
  unfold Io.occur
  split
  · next h' => simp [h] at h'
  · extract_lets e was s1 s2
    have h2 : s2.evtStatus o.event = true := Io.countEvent_up _ _ he _ he (by rw [Io.evtStatus_setStatus _ he he]; simp)
    clear_value s2
    have h3 := ((Io.countSource_keeps (src := e) (region := o.region) (Io.Keeps.refl s2) (Sub.self _)).statusUp (by decide +kernel)) _ he h2
    generalize s2.countSource e o.region = p at h3 ⊢
    obtain ⟨s3, o1⟩ := p
    dsimp only at h3 ⊢
    split
    · exact h3
    · refine Io.recordOf_up _ _ _ he ?_
      split
      · exact h3
      · exact ((Io.evtMessage_keeps (Io.Keeps.refl s3) (Sub.self _)).statusUp (by decide +kernel)) _ he h3

theorem Io.drain_up (k : Nat) (os : List Occ) (s : Io) : Io.StatusUp s (Io.drain k os s) := by
  induction k generalizing os s with
  | zero => exact .refl s
  | succ k ih =>
    cases os with
    | nil => exact .refl s
    | cons o t => exact (Io.occur_up s o false).trans (ih _ _)

/-- The front of the list is dealt with first, and what it causes comes after the list. -/
theorem Io.drain_recorded (k : Nat) (os more : List Occ) (s : Io) (hk : os.length ≤ k) (o : Occ) (ho : o ∈ os) (h : s.canFire o = true) :
    (Io.drain k (os ++ more) s).evtStatus o.event = true := by
  induction k generalizing os more s with
  | zero => cases os with | nil => cases ho | cons => simp at hk
  | succ k ih =>
    cases os with
    | nil => cases ho
    | cons x t =>
      show (Io.drain k ((t ++ more) ++ (s.occur x).2) (s.occur x).1).evtStatus o.event = true
      rw [List.append_assoc]
      rcases List.mem_cons.mp ho with rfl | ho
      · exact Io.drain_up _ _ _ _ (eventDefined_lt (Io.canFire_defined h)) (Io.occur_recorded s o h)
      · exact ih t _ _ (by simpa using hk) ho (by rw [Io.occur_keepsFire]; exact h)

/-- Every occurrence that fires is recorded (R503, R504). -/
theorem Io.fires_recorded (s : Io) (os : List Occ) (o : Occ) (ho : o ∈ os) (h : s.canFire o = true) : (s.fires os).evtStatus o.event = true := by
  have hk : os.length ≤ s.drainFuel os.length := by
    unfold Io.drainFuel
    exact (Nat.le_add_left _ _).trans (Nat.le_mul_of_pos_right _ (by omega))
  have := Io.drain_recorded _ os [] s hk o ho h
  rwa [List.append_nil] at this

theorem Io.fire_recorded (s : Io) (e : Nat) (h : s.canFire { event := e } = true) : (s.fire e).evtStatus e = true :=
  Io.fires_recorded s _ { event := e } (by simp) h

/-- An event that can fire is recorded when it fires with an object. -/
theorem Io.fireObj_recorded (s : Io) (e : Nat) (r : Option Nat) (o : Nat) (d : List Byte) (h : s.canFire { event := e, region := r } = true) :
    (s.fireObj e r o d).evtStatus e = true :=
  Io.fires_recorded s _ { event := e, region := r, obj := o, detail := d } (by simp) h

theorem Io.fireIn_recorded (s : Io) (e n : Nat) (h : s.canFire { event := e, region := some n } = true) : (s.fireIn e n).evtStatus e = true :=
  Io.fires_recorded s _ { event := e, region := some n } (by simp) h

/-- A status bit that is set stays set through events. -/
theorem Io.fires_up (s : Io) (os : List Occ) : Io.StatusUp s (s.fires os) := Io.drain_up _ _ _
theorem Io.fire_up (s : Io) (e : Nat) : Io.StatusUp s (s.fire e) := Io.drain_up _ _ _

/-- Whether an event can fire does not change when others do. -/
theorem Io.canFire_fires (s : Io) (os : List Occ) (o : Occ) : (s.fires os).canFire o = s.canFire o :=
  (Io.fires_keeps (os := os) (Io.Keeps.refl s) (Sub.self _)).canFire (by decide +kernel) (by decide +kernel) o
theorem Io.canFire_fire (s : Io) (e : Nat) (o : Occ) : (s.fire e).canFire o = s.canFire o := Io.canFire_fires s _ o

/-- The parts that events have. -/
def eventParts : Nat := 0x1000006069000000000000000000000000000000000000000000000000000000000000000000001ffc1c58000000000000278000

/-- The offsets, from each first to before each second, that the registers of these parts lie in. -/
def eventSpans : List (Nat × Nat) := [(8192, 8256), (8384, 8388), (8392, 8396), (10240, 12288), (17668, 17676), (262180, 262188), (262192, 262196), (335872, 335936), (393224, 393236), (409600, 459264)]

/-- Offset `a` may belong to a register that events, completions and memory accesses write. -/
def eventReg (a : Nat) : Bool := eventSpans.any (fun x => Nat.ble x.1 a && Nat.blt a x.2)

theorem eventReg_span : (List.range 1024).all (fun p => !Nat.testBit eventParts p || Nat.blt p 32 ||
    eventSpans.any (fun x => Nat.ble x.1 (spanOf p).1 && Nat.ble (spanOf p).2.1 x.2)) = true := by decide +kernel

theorem eventParts_lt {p : Nat} (h : Has p eventParts) : p < 1024 := by
  by_contra hc
  have : eventParts < 2 ^ p := lt_of_lt_of_le (by decide +kernel : eventParts < 2 ^ 1024) (Nat.pow_le_pow_right (by decide) (by omega))
  unfold Has at h
  rw [Nat.testBit_lt_two_pow this] at h
  exact absurd h (by decide)

theorem eventReg_not {a : Nat} (h : eventReg a = false) : ∀ p, Has p eventParts → ¬ RegOf p a := by
  intro p hp hr
  have hne : p ≠ Part.anyReg := by rintro rfl; exact absurd hp (by unfold Has; decide +kernel)
  have hs := hr.span hne
  have hall := eventReg_span
  rw [List.all_eq_true] at hall
  have hx := hall p (List.mem_range.mpr (eventParts_lt hp))
  have hge := hr.ge hne
  unfold Has at hp
  simp only [hp, Bool.not_true, Bool.false_or, Bool.or_eq_true, Nat.blt_eq, List.any_eq_true, Bool.and_eq_true, Nat.ble_eq] at hx
  rcases hx with hx | ⟨x, hm, h1, h2⟩
  · omega
  · have : eventReg a = true := by
      unfold eventReg
      rw [List.any_eq_true]
      exact ⟨x, hm, by simp only [Bool.and_eq_true, Nat.ble_eq, Nat.blt_eq]; exact ⟨h1.trans hs.1, lt_of_lt_of_le hs.2.1 h2⟩⟩
    rw [h] at this; exact absurd this (by decide)

/-- A field keeps its value through events, where they have no part in its register. -/
theorem Io.getF_fires (s : Io) (os : List Occ) {f : Field} (h : eventReg f.reg = false) : (s.fires os).getF f = s.getF f := by
  unfold Io.getF; rw [(Io.fires_keeps (msk := eventParts) (os := os) (Io.Keeps.refl s) (Sub.self _)).regs _ (eventReg_not h)]
theorem Io.getF_fire (s : Io) (e : Nat) {f : Field} (h : eventReg f.reg = false) : (s.fire e).getF f = s.getF f := Io.getF_fires s _ h
theorem Io.getF_fireIn (s : Io) (e n : Nat) {f : Field} (h : eventReg f.reg = false) : (s.fireIn e n).getF f = s.getF f := Io.getF_fires s _ h
theorem Io.getF_fireObj (s : Io) (e : Nat) (r : Option Nat) (o : Nat) (d : List Byte) {f : Field} (h : eventReg f.reg = false) :
    (s.fireObj e r o d).getF f = s.getF f := Io.getF_fires s _ h

end Sys2Proof.Machine
end

