-- ==== Sys2Proof/Laws/State.lean ====
section
/-! SUPPORT. What each update of the state leaves in each of its components, so that no proof unfolds an update of a record. -/

set_option Elab.async false

namespace Sys2Proof.Machine

/-! ### on -/

@[simp] theorem State.on_tick (s : State) (f : Io → Io) : (s.on f).tick = s.tick := rfl
@[simp] theorem State.on_link (s : State) (f : Io → Io) : (s.on f).link = s.link := rfl
@[simp] theorem State.on_tiles (s : State) (f : Io → Io) : (s.on f).tiles = s.tiles := rfl
@[simp] theorem State.on_chans (s : State) (f : Io → Io) : (s.on f).chans = s.chans := rfl
@[simp] theorem State.on_host (s : State) (f : Io → Io) : (s.on f).host = s.host := rfl
@[simp] theorem State.on_plan (s : State) (f : Io → Io) : (s.on f).plan = s.plan := rfl
@[simp] theorem State.on_boot (s : State) (f : Io → Io) : (s.on f).boot = s.boot := rfl
@[simp] theorem State.on_therm (s : State) (f : Io → Io) : (s.on f).therm = s.therm := rfl
@[simp] theorem State.on_pairUnit (s : State) (f : Io → Io) : (s.on f).pairUnit = s.pairUnit := rfl
@[simp] theorem State.on_video (s : State) (f : Io → Io) : (s.on f).video = s.video := rfl
@[simp] theorem State.on_lamp (s : State) (f : Io → Io) : (s.on f).lamp = s.lamp := rfl
@[simp] theorem State.on_wall (s : State) (f : Io → Io) : (s.on f).wall = s.wall := rfl
@[simp] theorem State.on_audio (s : State) (f : Io → Io) : (s.on f).audio = s.audio := rfl
@[simp] theorem State.on_meter (s : State) (f : Io → Io) : (s.on f).meter = s.meter := rfl
@[simp] theorem State.on_jtag (s : State) (f : Io → Io) : (s.on f).jtag = s.jtag := rfl
@[simp] theorem State.on_pending (s : State) (f : Io → Io) : (s.on f).pending = s.pending := rfl

/-! ### setF -/

@[simp] theorem State.setF_tick (s : State) (f : Field) (v : Nat) : (s.setF f v).tick = s.tick := rfl
@[simp] theorem State.setF_link (s : State) (f : Field) (v : Nat) : (s.setF f v).link = s.link := rfl
@[simp] theorem State.setF_tiles (s : State) (f : Field) (v : Nat) : (s.setF f v).tiles = s.tiles := rfl
@[simp] theorem State.setF_chans (s : State) (f : Field) (v : Nat) : (s.setF f v).chans = s.chans := rfl
@[simp] theorem State.setF_host (s : State) (f : Field) (v : Nat) : (s.setF f v).host = s.host := rfl
@[simp] theorem State.setF_plan (s : State) (f : Field) (v : Nat) : (s.setF f v).plan = s.plan := rfl
@[simp] theorem State.setF_boot (s : State) (f : Field) (v : Nat) : (s.setF f v).boot = s.boot := rfl
@[simp] theorem State.setF_therm (s : State) (f : Field) (v : Nat) : (s.setF f v).therm = s.therm := rfl
@[simp] theorem State.setF_pairUnit (s : State) (f : Field) (v : Nat) : (s.setF f v).pairUnit = s.pairUnit := rfl
@[simp] theorem State.setF_video (s : State) (f : Field) (v : Nat) : (s.setF f v).video = s.video := rfl
@[simp] theorem State.setF_lamp (s : State) (f : Field) (v : Nat) : (s.setF f v).lamp = s.lamp := rfl
@[simp] theorem State.setF_wall (s : State) (f : Field) (v : Nat) : (s.setF f v).wall = s.wall := rfl
@[simp] theorem State.setF_audio (s : State) (f : Field) (v : Nat) : (s.setF f v).audio = s.audio := rfl
@[simp] theorem State.setF_meter (s : State) (f : Field) (v : Nat) : (s.setF f v).meter = s.meter := rfl
@[simp] theorem State.setF_jtag (s : State) (f : Field) (v : Nat) : (s.setF f v).jtag = s.jtag := rfl
@[simp] theorem State.setF_pending (s : State) (f : Field) (v : Nat) : (s.setF f v).pending = s.pending := rfl

/-! ### bumpF -/

@[simp] theorem State.bumpF_tick (s : State) (f : Field) (n : Nat) : (s.bumpF f n).tick = s.tick := rfl
@[simp] theorem State.bumpF_link (s : State) (f : Field) (n : Nat) : (s.bumpF f n).link = s.link := rfl
@[simp] theorem State.bumpF_tiles (s : State) (f : Field) (n : Nat) : (s.bumpF f n).tiles = s.tiles := rfl
@[simp] theorem State.bumpF_chans (s : State) (f : Field) (n : Nat) : (s.bumpF f n).chans = s.chans := rfl
@[simp] theorem State.bumpF_host (s : State) (f : Field) (n : Nat) : (s.bumpF f n).host = s.host := rfl
@[simp] theorem State.bumpF_plan (s : State) (f : Field) (n : Nat) : (s.bumpF f n).plan = s.plan := rfl
@[simp] theorem State.bumpF_boot (s : State) (f : Field) (n : Nat) : (s.bumpF f n).boot = s.boot := rfl
@[simp] theorem State.bumpF_therm (s : State) (f : Field) (n : Nat) : (s.bumpF f n).therm = s.therm := rfl
@[simp] theorem State.bumpF_pairUnit (s : State) (f : Field) (n : Nat) : (s.bumpF f n).pairUnit = s.pairUnit := rfl
@[simp] theorem State.bumpF_video (s : State) (f : Field) (n : Nat) : (s.bumpF f n).video = s.video := rfl
@[simp] theorem State.bumpF_lamp (s : State) (f : Field) (n : Nat) : (s.bumpF f n).lamp = s.lamp := rfl
@[simp] theorem State.bumpF_wall (s : State) (f : Field) (n : Nat) : (s.bumpF f n).wall = s.wall := rfl
@[simp] theorem State.bumpF_audio (s : State) (f : Field) (n : Nat) : (s.bumpF f n).audio = s.audio := rfl
@[simp] theorem State.bumpF_meter (s : State) (f : Field) (n : Nat) : (s.bumpF f n).meter = s.meter := rfl
@[simp] theorem State.bumpF_jtag (s : State) (f : Field) (n : Nat) : (s.bumpF f n).jtag = s.jtag := rfl
@[simp] theorem State.bumpF_pending (s : State) (f : Field) (n : Nat) : (s.bumpF f n).pending = s.pending := rfl

/-! ### fire -/

@[simp] theorem State.fire_tick (s : State) (e : Nat) : (s.fire e).tick = s.tick := rfl
@[simp] theorem State.fire_link (s : State) (e : Nat) : (s.fire e).link = s.link := rfl
@[simp] theorem State.fire_tiles (s : State) (e : Nat) : (s.fire e).tiles = s.tiles := rfl
@[simp] theorem State.fire_chans (s : State) (e : Nat) : (s.fire e).chans = s.chans := rfl
@[simp] theorem State.fire_host (s : State) (e : Nat) : (s.fire e).host = s.host := rfl
@[simp] theorem State.fire_plan (s : State) (e : Nat) : (s.fire e).plan = s.plan := rfl
@[simp] theorem State.fire_boot (s : State) (e : Nat) : (s.fire e).boot = s.boot := rfl
@[simp] theorem State.fire_therm (s : State) (e : Nat) : (s.fire e).therm = s.therm := rfl
@[simp] theorem State.fire_pairUnit (s : State) (e : Nat) : (s.fire e).pairUnit = s.pairUnit := rfl
@[simp] theorem State.fire_video (s : State) (e : Nat) : (s.fire e).video = s.video := rfl
@[simp] theorem State.fire_lamp (s : State) (e : Nat) : (s.fire e).lamp = s.lamp := rfl
@[simp] theorem State.fire_wall (s : State) (e : Nat) : (s.fire e).wall = s.wall := rfl
@[simp] theorem State.fire_audio (s : State) (e : Nat) : (s.fire e).audio = s.audio := rfl
@[simp] theorem State.fire_meter (s : State) (e : Nat) : (s.fire e).meter = s.meter := rfl
@[simp] theorem State.fire_jtag (s : State) (e : Nat) : (s.fire e).jtag = s.jtag := rfl
@[simp] theorem State.fire_pending (s : State) (e : Nat) : (s.fire e).pending = s.pending := rfl

/-! ### emit -/

@[simp] theorem State.emit_tick (s : State) (o : Out) : (s.emit o).tick = s.tick := rfl
@[simp] theorem State.emit_link (s : State) (o : Out) : (s.emit o).link = s.link := rfl
@[simp] theorem State.emit_tiles (s : State) (o : Out) : (s.emit o).tiles = s.tiles := rfl
@[simp] theorem State.emit_chans (s : State) (o : Out) : (s.emit o).chans = s.chans := rfl
@[simp] theorem State.emit_host (s : State) (o : Out) : (s.emit o).host = s.host := rfl
@[simp] theorem State.emit_plan (s : State) (o : Out) : (s.emit o).plan = s.plan := rfl
@[simp] theorem State.emit_boot (s : State) (o : Out) : (s.emit o).boot = s.boot := rfl
@[simp] theorem State.emit_therm (s : State) (o : Out) : (s.emit o).therm = s.therm := rfl
@[simp] theorem State.emit_pairUnit (s : State) (o : Out) : (s.emit o).pairUnit = s.pairUnit := rfl
@[simp] theorem State.emit_video (s : State) (o : Out) : (s.emit o).video = s.video := rfl
@[simp] theorem State.emit_lamp (s : State) (o : Out) : (s.emit o).lamp = s.lamp := rfl
@[simp] theorem State.emit_wall (s : State) (o : Out) : (s.emit o).wall = s.wall := rfl
@[simp] theorem State.emit_audio (s : State) (o : Out) : (s.emit o).audio = s.audio := rfl
@[simp] theorem State.emit_meter (s : State) (o : Out) : (s.emit o).meter = s.meter := rfl
@[simp] theorem State.emit_jtag (s : State) (o : Out) : (s.emit o).jtag = s.jtag := rfl
@[simp] theorem State.emit_pending (s : State) (o : Out) : (s.emit o).pending = s.pending := rfl

/-! ### alert -/

@[simp] theorem State.alert_io (s : State) (i : Nat) (b : Bool) : (s.alert i b).io = s.io.setF Fld.CTL_ALERT_CAUSES (putBits (s.getF Fld.CTL_ALERT_CAUSES) i 1 (flag b)) := rfl
@[simp] theorem State.alert_tick (s : State) (i : Nat) (b : Bool) : (s.alert i b).tick = s.tick := rfl
@[simp] theorem State.alert_link (s : State) (i : Nat) (b : Bool) : (s.alert i b).link = s.link := rfl
@[simp] theorem State.alert_tiles (s : State) (i : Nat) (b : Bool) : (s.alert i b).tiles = s.tiles := rfl
@[simp] theorem State.alert_chans (s : State) (i : Nat) (b : Bool) : (s.alert i b).chans = s.chans := rfl
@[simp] theorem State.alert_host (s : State) (i : Nat) (b : Bool) : (s.alert i b).host = s.host := rfl
@[simp] theorem State.alert_plan (s : State) (i : Nat) (b : Bool) : (s.alert i b).plan = s.plan := rfl
@[simp] theorem State.alert_boot (s : State) (i : Nat) (b : Bool) : (s.alert i b).boot = s.boot := rfl
@[simp] theorem State.alert_therm (s : State) (i : Nat) (b : Bool) : (s.alert i b).therm = s.therm := rfl
@[simp] theorem State.alert_pairUnit (s : State) (i : Nat) (b : Bool) : (s.alert i b).pairUnit = s.pairUnit := rfl
@[simp] theorem State.alert_video (s : State) (i : Nat) (b : Bool) : (s.alert i b).video = s.video := rfl
@[simp] theorem State.alert_lamp (s : State) (i : Nat) (b : Bool) : (s.alert i b).lamp = s.lamp := rfl
@[simp] theorem State.alert_wall (s : State) (i : Nat) (b : Bool) : (s.alert i b).wall = s.wall := rfl
@[simp] theorem State.alert_audio (s : State) (i : Nat) (b : Bool) : (s.alert i b).audio = s.audio := rfl
@[simp] theorem State.alert_meter (s : State) (i : Nat) (b : Bool) : (s.alert i b).meter = s.meter := rfl
@[simp] theorem State.alert_jtag (s : State) (i : Nat) (b : Bool) : (s.alert i b).jtag = s.jtag := rfl
@[simp] theorem State.alert_pending (s : State) (i : Nat) (b : Bool) : (s.alert i b).pending = s.pending := rfl

/-! ### onJtag -/

@[simp] theorem State.onJtag_io (s : State) (f : Jtag → Jtag) : (s.onJtag f).io = s.io := rfl
@[simp] theorem State.onJtag_tick (s : State) (f : Jtag → Jtag) : (s.onJtag f).tick = s.tick := rfl
@[simp] theorem State.onJtag_link (s : State) (f : Jtag → Jtag) : (s.onJtag f).link = s.link := rfl
@[simp] theorem State.onJtag_tiles (s : State) (f : Jtag → Jtag) : (s.onJtag f).tiles = s.tiles := rfl
@[simp] theorem State.onJtag_chans (s : State) (f : Jtag → Jtag) : (s.onJtag f).chans = s.chans := rfl
@[simp] theorem State.onJtag_host (s : State) (f : Jtag → Jtag) : (s.onJtag f).host = s.host := rfl
@[simp] theorem State.onJtag_plan (s : State) (f : Jtag → Jtag) : (s.onJtag f).plan = s.plan := rfl
@[simp] theorem State.onJtag_boot (s : State) (f : Jtag → Jtag) : (s.onJtag f).boot = s.boot := rfl
@[simp] theorem State.onJtag_therm (s : State) (f : Jtag → Jtag) : (s.onJtag f).therm = s.therm := rfl
@[simp] theorem State.onJtag_pairUnit (s : State) (f : Jtag → Jtag) : (s.onJtag f).pairUnit = s.pairUnit := rfl
@[simp] theorem State.onJtag_video (s : State) (f : Jtag → Jtag) : (s.onJtag f).video = s.video := rfl
@[simp] theorem State.onJtag_lamp (s : State) (f : Jtag → Jtag) : (s.onJtag f).lamp = s.lamp := rfl
@[simp] theorem State.onJtag_wall (s : State) (f : Jtag → Jtag) : (s.onJtag f).wall = s.wall := rfl
@[simp] theorem State.onJtag_audio (s : State) (f : Jtag → Jtag) : (s.onJtag f).audio = s.audio := rfl
@[simp] theorem State.onJtag_meter (s : State) (f : Jtag → Jtag) : (s.onJtag f).meter = s.meter := rfl
@[simp] theorem State.onJtag_jtag (s : State) (f : Jtag → Jtag) : (s.onJtag f).jtag = f s.jtag := rfl
@[simp] theorem State.onJtag_pending (s : State) (f : Jtag → Jtag) : (s.onJtag f).pending = s.pending := rfl

/-! ### onLamp -/

@[simp] theorem State.onLamp_io (s : State) (f : LampState → LampState) : (s.onLamp f).io = s.io := rfl
@[simp] theorem State.onLamp_tick (s : State) (f : LampState → LampState) : (s.onLamp f).tick = s.tick := rfl
@[simp] theorem State.onLamp_link (s : State) (f : LampState → LampState) : (s.onLamp f).link = s.link := rfl
@[simp] theorem State.onLamp_tiles (s : State) (f : LampState → LampState) : (s.onLamp f).tiles = s.tiles := rfl
@[simp] theorem State.onLamp_chans (s : State) (f : LampState → LampState) : (s.onLamp f).chans = s.chans := rfl
@[simp] theorem State.onLamp_host (s : State) (f : LampState → LampState) : (s.onLamp f).host = s.host := rfl
@[simp] theorem State.onLamp_plan (s : State) (f : LampState → LampState) : (s.onLamp f).plan = s.plan := rfl
@[simp] theorem State.onLamp_boot (s : State) (f : LampState → LampState) : (s.onLamp f).boot = s.boot := rfl
@[simp] theorem State.onLamp_therm (s : State) (f : LampState → LampState) : (s.onLamp f).therm = s.therm := rfl
@[simp] theorem State.onLamp_pairUnit (s : State) (f : LampState → LampState) : (s.onLamp f).pairUnit = s.pairUnit := rfl
@[simp] theorem State.onLamp_video (s : State) (f : LampState → LampState) : (s.onLamp f).video = s.video := rfl
@[simp] theorem State.onLamp_lamp (s : State) (f : LampState → LampState) : (s.onLamp f).lamp = f s.lamp := rfl
@[simp] theorem State.onLamp_wall (s : State) (f : LampState → LampState) : (s.onLamp f).wall = s.wall := rfl
@[simp] theorem State.onLamp_audio (s : State) (f : LampState → LampState) : (s.onLamp f).audio = s.audio := rfl
@[simp] theorem State.onLamp_meter (s : State) (f : LampState → LampState) : (s.onLamp f).meter = s.meter := rfl
@[simp] theorem State.onLamp_jtag (s : State) (f : LampState → LampState) : (s.onLamp f).jtag = s.jtag := rfl
@[simp] theorem State.onLamp_pending (s : State) (f : LampState → LampState) : (s.onLamp f).pending = s.pending := rfl

/-! ### onTherm -/

@[simp] theorem State.onTherm_io (s : State) (f : Therm → Therm) : (s.onTherm f).io = s.io := rfl
@[simp] theorem State.onTherm_tick (s : State) (f : Therm → Therm) : (s.onTherm f).tick = s.tick := rfl
@[simp] theorem State.onTherm_link (s : State) (f : Therm → Therm) : (s.onTherm f).link = s.link := rfl
@[simp] theorem State.onTherm_tiles (s : State) (f : Therm → Therm) : (s.onTherm f).tiles = s.tiles := rfl
@[simp] theorem State.onTherm_chans (s : State) (f : Therm → Therm) : (s.onTherm f).chans = s.chans := rfl
@[simp] theorem State.onTherm_host (s : State) (f : Therm → Therm) : (s.onTherm f).host = s.host := rfl
@[simp] theorem State.onTherm_plan (s : State) (f : Therm → Therm) : (s.onTherm f).plan = s.plan := rfl
@[simp] theorem State.onTherm_boot (s : State) (f : Therm → Therm) : (s.onTherm f).boot = s.boot := rfl
@[simp] theorem State.onTherm_therm (s : State) (f : Therm → Therm) : (s.onTherm f).therm = f s.therm := rfl
@[simp] theorem State.onTherm_pairUnit (s : State) (f : Therm → Therm) : (s.onTherm f).pairUnit = s.pairUnit := rfl
@[simp] theorem State.onTherm_video (s : State) (f : Therm → Therm) : (s.onTherm f).video = s.video := rfl
@[simp] theorem State.onTherm_lamp (s : State) (f : Therm → Therm) : (s.onTherm f).lamp = s.lamp := rfl
@[simp] theorem State.onTherm_wall (s : State) (f : Therm → Therm) : (s.onTherm f).wall = s.wall := rfl
@[simp] theorem State.onTherm_audio (s : State) (f : Therm → Therm) : (s.onTherm f).audio = s.audio := rfl
@[simp] theorem State.onTherm_meter (s : State) (f : Therm → Therm) : (s.onTherm f).meter = s.meter := rfl
@[simp] theorem State.onTherm_jtag (s : State) (f : Therm → Therm) : (s.onTherm f).jtag = s.jtag := rfl
@[simp] theorem State.onTherm_pending (s : State) (f : Therm → Therm) : (s.onTherm f).pending = s.pending := rfl

/-! ### onVideo -/

@[simp] theorem State.onVideo_io (s : State) (f : VideoState → VideoState) : (s.onVideo f).io = s.io := rfl
@[simp] theorem State.onVideo_tick (s : State) (f : VideoState → VideoState) : (s.onVideo f).tick = s.tick := rfl
@[simp] theorem State.onVideo_link (s : State) (f : VideoState → VideoState) : (s.onVideo f).link = s.link := rfl
@[simp] theorem State.onVideo_tiles (s : State) (f : VideoState → VideoState) : (s.onVideo f).tiles = s.tiles := rfl
@[simp] theorem State.onVideo_chans (s : State) (f : VideoState → VideoState) : (s.onVideo f).chans = s.chans := rfl
@[simp] theorem State.onVideo_host (s : State) (f : VideoState → VideoState) : (s.onVideo f).host = s.host := rfl
@[simp] theorem State.onVideo_plan (s : State) (f : VideoState → VideoState) : (s.onVideo f).plan = s.plan := rfl
@[simp] theorem State.onVideo_boot (s : State) (f : VideoState → VideoState) : (s.onVideo f).boot = s.boot := rfl
@[simp] theorem State.onVideo_therm (s : State) (f : VideoState → VideoState) : (s.onVideo f).therm = s.therm := rfl
@[simp] theorem State.onVideo_pairUnit (s : State) (f : VideoState → VideoState) : (s.onVideo f).pairUnit = s.pairUnit := rfl
@[simp] theorem State.onVideo_video (s : State) (f : VideoState → VideoState) : (s.onVideo f).video = f s.video := rfl
@[simp] theorem State.onVideo_lamp (s : State) (f : VideoState → VideoState) : (s.onVideo f).lamp = s.lamp := rfl
@[simp] theorem State.onVideo_wall (s : State) (f : VideoState → VideoState) : (s.onVideo f).wall = s.wall := rfl
@[simp] theorem State.onVideo_audio (s : State) (f : VideoState → VideoState) : (s.onVideo f).audio = s.audio := rfl
@[simp] theorem State.onVideo_meter (s : State) (f : VideoState → VideoState) : (s.onVideo f).meter = s.meter := rfl
@[simp] theorem State.onVideo_jtag (s : State) (f : VideoState → VideoState) : (s.onVideo f).jtag = s.jtag := rfl
@[simp] theorem State.onVideo_pending (s : State) (f : VideoState → VideoState) : (s.onVideo f).pending = s.pending := rfl

/-! ### onLay -/

@[simp] theorem State.onLay_io (s : State) (f : LayerState → LayerState) : (s.onLay f).io = s.io := rfl
@[simp] theorem State.onLay_tick (s : State) (f : LayerState → LayerState) : (s.onLay f).tick = s.tick := rfl
@[simp] theorem State.onLay_link (s : State) (f : LayerState → LayerState) : (s.onLay f).link = s.link := rfl
@[simp] theorem State.onLay_tiles (s : State) (f : LayerState → LayerState) : (s.onLay f).tiles = s.tiles := rfl
@[simp] theorem State.onLay_chans (s : State) (f : LayerState → LayerState) : (s.onLay f).chans = s.chans := rfl
@[simp] theorem State.onLay_host (s : State) (f : LayerState → LayerState) : (s.onLay f).host = s.host := rfl
@[simp] theorem State.onLay_plan (s : State) (f : LayerState → LayerState) : (s.onLay f).plan = s.plan := rfl
@[simp] theorem State.onLay_boot (s : State) (f : LayerState → LayerState) : (s.onLay f).boot = s.boot := rfl
@[simp] theorem State.onLay_therm (s : State) (f : LayerState → LayerState) : (s.onLay f).therm = s.therm := rfl
@[simp] theorem State.onLay_pairUnit (s : State) (f : LayerState → LayerState) : (s.onLay f).pairUnit = s.pairUnit := rfl
@[simp] theorem State.onLay_video (s : State) (f : LayerState → LayerState) : (s.onLay f).video = { s.video with lay := f s.video.lay } := rfl
@[simp] theorem State.onLay_lamp (s : State) (f : LayerState → LayerState) : (s.onLay f).lamp = s.lamp := rfl
@[simp] theorem State.onLay_wall (s : State) (f : LayerState → LayerState) : (s.onLay f).wall = s.wall := rfl
@[simp] theorem State.onLay_audio (s : State) (f : LayerState → LayerState) : (s.onLay f).audio = s.audio := rfl
@[simp] theorem State.onLay_meter (s : State) (f : LayerState → LayerState) : (s.onLay f).meter = s.meter := rfl
@[simp] theorem State.onLay_jtag (s : State) (f : LayerState → LayerState) : (s.onLay f).jtag = s.jtag := rfl
@[simp] theorem State.onLay_pending (s : State) (f : LayerState → LayerState) : (s.onLay f).pending = s.pending := rfl

/-! ### onBoot -/

@[simp] theorem State.onBoot_io (s : State) (f : BootState → BootState) : (s.onBoot f).io = s.io := rfl
@[simp] theorem State.onBoot_tick (s : State) (f : BootState → BootState) : (s.onBoot f).tick = s.tick := rfl
@[simp] theorem State.onBoot_link (s : State) (f : BootState → BootState) : (s.onBoot f).link = s.link := rfl
@[simp] theorem State.onBoot_tiles (s : State) (f : BootState → BootState) : (s.onBoot f).tiles = s.tiles := rfl
@[simp] theorem State.onBoot_chans (s : State) (f : BootState → BootState) : (s.onBoot f).chans = s.chans := rfl
@[simp] theorem State.onBoot_host (s : State) (f : BootState → BootState) : (s.onBoot f).host = s.host := rfl
@[simp] theorem State.onBoot_plan (s : State) (f : BootState → BootState) : (s.onBoot f).plan = s.plan := rfl
@[simp] theorem State.onBoot_boot (s : State) (f : BootState → BootState) : (s.onBoot f).boot = f s.boot := rfl
@[simp] theorem State.onBoot_therm (s : State) (f : BootState → BootState) : (s.onBoot f).therm = s.therm := rfl
@[simp] theorem State.onBoot_pairUnit (s : State) (f : BootState → BootState) : (s.onBoot f).pairUnit = s.pairUnit := rfl
@[simp] theorem State.onBoot_video (s : State) (f : BootState → BootState) : (s.onBoot f).video = s.video := rfl
@[simp] theorem State.onBoot_lamp (s : State) (f : BootState → BootState) : (s.onBoot f).lamp = s.lamp := rfl
@[simp] theorem State.onBoot_wall (s : State) (f : BootState → BootState) : (s.onBoot f).wall = s.wall := rfl
@[simp] theorem State.onBoot_audio (s : State) (f : BootState → BootState) : (s.onBoot f).audio = s.audio := rfl
@[simp] theorem State.onBoot_meter (s : State) (f : BootState → BootState) : (s.onBoot f).meter = s.meter := rfl
@[simp] theorem State.onBoot_jtag (s : State) (f : BootState → BootState) : (s.onBoot f).jtag = s.jtag := rfl
@[simp] theorem State.onBoot_pending (s : State) (f : BootState → BootState) : (s.onBoot f).pending = s.pending := rfl

/-! ### onNvm -/

@[simp] theorem State.onNvm_io (s : State) (f : Nvm → Nvm) : (s.onNvm f).io = s.io := rfl
@[simp] theorem State.onNvm_tick (s : State) (f : Nvm → Nvm) : (s.onNvm f).tick = s.tick := rfl
@[simp] theorem State.onNvm_link (s : State) (f : Nvm → Nvm) : (s.onNvm f).link = s.link := rfl
@[simp] theorem State.onNvm_tiles (s : State) (f : Nvm → Nvm) : (s.onNvm f).tiles = s.tiles := rfl
@[simp] theorem State.onNvm_chans (s : State) (f : Nvm → Nvm) : (s.onNvm f).chans = s.chans := rfl
@[simp] theorem State.onNvm_host (s : State) (f : Nvm → Nvm) : (s.onNvm f).host = s.host := rfl
@[simp] theorem State.onNvm_plan (s : State) (f : Nvm → Nvm) : (s.onNvm f).plan = s.plan := rfl
@[simp] theorem State.onNvm_boot (s : State) (f : Nvm → Nvm) : (s.onNvm f).boot = { s.boot with nvm := f s.boot.nvm } := rfl
@[simp] theorem State.onNvm_therm (s : State) (f : Nvm → Nvm) : (s.onNvm f).therm = s.therm := rfl
@[simp] theorem State.onNvm_pairUnit (s : State) (f : Nvm → Nvm) : (s.onNvm f).pairUnit = s.pairUnit := rfl
@[simp] theorem State.onNvm_video (s : State) (f : Nvm → Nvm) : (s.onNvm f).video = s.video := rfl
@[simp] theorem State.onNvm_lamp (s : State) (f : Nvm → Nvm) : (s.onNvm f).lamp = s.lamp := rfl
@[simp] theorem State.onNvm_wall (s : State) (f : Nvm → Nvm) : (s.onNvm f).wall = s.wall := rfl
@[simp] theorem State.onNvm_audio (s : State) (f : Nvm → Nvm) : (s.onNvm f).audio = s.audio := rfl
@[simp] theorem State.onNvm_meter (s : State) (f : Nvm → Nvm) : (s.onNvm f).meter = s.meter := rfl
@[simp] theorem State.onNvm_jtag (s : State) (f : Nvm → Nvm) : (s.onNvm f).jtag = s.jtag := rfl
@[simp] theorem State.onNvm_pending (s : State) (f : Nvm → Nvm) : (s.onNvm f).pending = s.pending := rfl

/-! ### onStage -/

@[simp] theorem State.onStage_io (s : State) (f : Stage → Stage) : (s.onStage f).io = s.io := rfl
@[simp] theorem State.onStage_tick (s : State) (f : Stage → Stage) : (s.onStage f).tick = s.tick := rfl
@[simp] theorem State.onStage_link (s : State) (f : Stage → Stage) : (s.onStage f).link = s.link := rfl
@[simp] theorem State.onStage_tiles (s : State) (f : Stage → Stage) : (s.onStage f).tiles = s.tiles := rfl
@[simp] theorem State.onStage_chans (s : State) (f : Stage → Stage) : (s.onStage f).chans = s.chans := rfl
@[simp] theorem State.onStage_host (s : State) (f : Stage → Stage) : (s.onStage f).host = s.host := rfl
@[simp] theorem State.onStage_plan (s : State) (f : Stage → Stage) : (s.onStage f).plan = s.plan := rfl
@[simp] theorem State.onStage_boot (s : State) (f : Stage → Stage) : (s.onStage f).boot = { s.boot with stage := f s.boot.stage } := rfl
@[simp] theorem State.onStage_therm (s : State) (f : Stage → Stage) : (s.onStage f).therm = s.therm := rfl
@[simp] theorem State.onStage_pairUnit (s : State) (f : Stage → Stage) : (s.onStage f).pairUnit = s.pairUnit := rfl
@[simp] theorem State.onStage_video (s : State) (f : Stage → Stage) : (s.onStage f).video = s.video := rfl
@[simp] theorem State.onStage_lamp (s : State) (f : Stage → Stage) : (s.onStage f).lamp = s.lamp := rfl
@[simp] theorem State.onStage_wall (s : State) (f : Stage → Stage) : (s.onStage f).wall = s.wall := rfl
@[simp] theorem State.onStage_audio (s : State) (f : Stage → Stage) : (s.onStage f).audio = s.audio := rfl
@[simp] theorem State.onStage_meter (s : State) (f : Stage → Stage) : (s.onStage f).meter = s.meter := rfl
@[simp] theorem State.onStage_jtag (s : State) (f : Stage → Stage) : (s.onStage f).jtag = s.jtag := rfl
@[simp] theorem State.onStage_pending (s : State) (f : Stage → Stage) : (s.onStage f).pending = s.pending := rfl

/-! ### onMeter -/

@[simp] theorem State.onMeter_io (s : State) (f : MeterState → MeterState) : (s.onMeter f).io = s.io := rfl
@[simp] theorem State.onMeter_tick (s : State) (f : MeterState → MeterState) : (s.onMeter f).tick = s.tick := rfl
@[simp] theorem State.onMeter_link (s : State) (f : MeterState → MeterState) : (s.onMeter f).link = s.link := rfl
@[simp] theorem State.onMeter_tiles (s : State) (f : MeterState → MeterState) : (s.onMeter f).tiles = s.tiles := rfl
@[simp] theorem State.onMeter_chans (s : State) (f : MeterState → MeterState) : (s.onMeter f).chans = s.chans := rfl
@[simp] theorem State.onMeter_host (s : State) (f : MeterState → MeterState) : (s.onMeter f).host = s.host := rfl
@[simp] theorem State.onMeter_plan (s : State) (f : MeterState → MeterState) : (s.onMeter f).plan = s.plan := rfl
@[simp] theorem State.onMeter_boot (s : State) (f : MeterState → MeterState) : (s.onMeter f).boot = s.boot := rfl
@[simp] theorem State.onMeter_therm (s : State) (f : MeterState → MeterState) : (s.onMeter f).therm = s.therm := rfl
@[simp] theorem State.onMeter_pairUnit (s : State) (f : MeterState → MeterState) : (s.onMeter f).pairUnit = s.pairUnit := rfl
@[simp] theorem State.onMeter_video (s : State) (f : MeterState → MeterState) : (s.onMeter f).video = s.video := rfl
@[simp] theorem State.onMeter_lamp (s : State) (f : MeterState → MeterState) : (s.onMeter f).lamp = s.lamp := rfl
@[simp] theorem State.onMeter_wall (s : State) (f : MeterState → MeterState) : (s.onMeter f).wall = s.wall := rfl
@[simp] theorem State.onMeter_audio (s : State) (f : MeterState → MeterState) : (s.onMeter f).audio = s.audio := rfl
@[simp] theorem State.onMeter_meter (s : State) (f : MeterState → MeterState) : (s.onMeter f).meter = f s.meter := rfl
@[simp] theorem State.onMeter_jtag (s : State) (f : MeterState → MeterState) : (s.onMeter f).jtag = s.jtag := rfl
@[simp] theorem State.onMeter_pending (s : State) (f : MeterState → MeterState) : (s.onMeter f).pending = s.pending := rfl

/-! ### setMpoint -/

@[simp] theorem State.setMpoint_io (s : State) (p : Nat) (f : MeterPoint → MeterPoint) : (s.setMpoint p f).io = s.io := rfl
@[simp] theorem State.setMpoint_tick (s : State) (p : Nat) (f : MeterPoint → MeterPoint) : (s.setMpoint p f).tick = s.tick := rfl
@[simp] theorem State.setMpoint_link (s : State) (p : Nat) (f : MeterPoint → MeterPoint) : (s.setMpoint p f).link = s.link := rfl
@[simp] theorem State.setMpoint_tiles (s : State) (p : Nat) (f : MeterPoint → MeterPoint) : (s.setMpoint p f).tiles = s.tiles := rfl
@[simp] theorem State.setMpoint_chans (s : State) (p : Nat) (f : MeterPoint → MeterPoint) : (s.setMpoint p f).chans = s.chans := rfl
@[simp] theorem State.setMpoint_host (s : State) (p : Nat) (f : MeterPoint → MeterPoint) : (s.setMpoint p f).host = s.host := rfl
@[simp] theorem State.setMpoint_plan (s : State) (p : Nat) (f : MeterPoint → MeterPoint) : (s.setMpoint p f).plan = s.plan := rfl
@[simp] theorem State.setMpoint_boot (s : State) (p : Nat) (f : MeterPoint → MeterPoint) : (s.setMpoint p f).boot = s.boot := rfl
@[simp] theorem State.setMpoint_therm (s : State) (p : Nat) (f : MeterPoint → MeterPoint) : (s.setMpoint p f).therm = s.therm := rfl
@[simp] theorem State.setMpoint_pairUnit (s : State) (p : Nat) (f : MeterPoint → MeterPoint) : (s.setMpoint p f).pairUnit = s.pairUnit := rfl
@[simp] theorem State.setMpoint_video (s : State) (p : Nat) (f : MeterPoint → MeterPoint) : (s.setMpoint p f).video = s.video := rfl
@[simp] theorem State.setMpoint_lamp (s : State) (p : Nat) (f : MeterPoint → MeterPoint) : (s.setMpoint p f).lamp = s.lamp := rfl
@[simp] theorem State.setMpoint_wall (s : State) (p : Nat) (f : MeterPoint → MeterPoint) : (s.setMpoint p f).wall = s.wall := rfl
@[simp] theorem State.setMpoint_audio (s : State) (p : Nat) (f : MeterPoint → MeterPoint) : (s.setMpoint p f).audio = s.audio := rfl
@[simp] theorem State.setMpoint_meter (s : State) (p : Nat) (f : MeterPoint → MeterPoint) : (s.setMpoint p f).meter = { s.meter with points := setNth s.meter.points p (f (s.meter.points.getD p {})) } := rfl
@[simp] theorem State.setMpoint_jtag (s : State) (p : Nat) (f : MeterPoint → MeterPoint) : (s.setMpoint p f).jtag = s.jtag := rfl
@[simp] theorem State.setMpoint_pending (s : State) (p : Nat) (f : MeterPoint → MeterPoint) : (s.setMpoint p f).pending = s.pending := rfl

/-! ### onAudio -/

@[simp] theorem State.onAudio_io (s : State) (f : AudioState → AudioState) : (s.onAudio f).io = s.io := rfl
@[simp] theorem State.onAudio_tick (s : State) (f : AudioState → AudioState) : (s.onAudio f).tick = s.tick := rfl
@[simp] theorem State.onAudio_link (s : State) (f : AudioState → AudioState) : (s.onAudio f).link = s.link := rfl
@[simp] theorem State.onAudio_tiles (s : State) (f : AudioState → AudioState) : (s.onAudio f).tiles = s.tiles := rfl
@[simp] theorem State.onAudio_chans (s : State) (f : AudioState → AudioState) : (s.onAudio f).chans = s.chans := rfl
@[simp] theorem State.onAudio_host (s : State) (f : AudioState → AudioState) : (s.onAudio f).host = s.host := rfl
@[simp] theorem State.onAudio_plan (s : State) (f : AudioState → AudioState) : (s.onAudio f).plan = s.plan := rfl
@[simp] theorem State.onAudio_boot (s : State) (f : AudioState → AudioState) : (s.onAudio f).boot = s.boot := rfl
@[simp] theorem State.onAudio_therm (s : State) (f : AudioState → AudioState) : (s.onAudio f).therm = s.therm := rfl
@[simp] theorem State.onAudio_pairUnit (s : State) (f : AudioState → AudioState) : (s.onAudio f).pairUnit = s.pairUnit := rfl
@[simp] theorem State.onAudio_video (s : State) (f : AudioState → AudioState) : (s.onAudio f).video = s.video := rfl
@[simp] theorem State.onAudio_lamp (s : State) (f : AudioState → AudioState) : (s.onAudio f).lamp = s.lamp := rfl
@[simp] theorem State.onAudio_wall (s : State) (f : AudioState → AudioState) : (s.onAudio f).wall = s.wall := rfl
@[simp] theorem State.onAudio_audio (s : State) (f : AudioState → AudioState) : (s.onAudio f).audio = f s.audio := rfl
@[simp] theorem State.onAudio_meter (s : State) (f : AudioState → AudioState) : (s.onAudio f).meter = s.meter := rfl
@[simp] theorem State.onAudio_jtag (s : State) (f : AudioState → AudioState) : (s.onAudio f).jtag = s.jtag := rfl
@[simp] theorem State.onAudio_pending (s : State) (f : AudioState → AudioState) : (s.onAudio f).pending = s.pending := rfl

/-! ### setAudPort -/

@[simp] theorem State.setAudPort_io (s : State) (a : AudioPort) : (s.setAudPort a).io = s.io := rfl
@[simp] theorem State.setAudPort_tick (s : State) (a : AudioPort) : (s.setAudPort a).tick = s.tick := rfl
@[simp] theorem State.setAudPort_link (s : State) (a : AudioPort) : (s.setAudPort a).link = s.link := rfl
@[simp] theorem State.setAudPort_tiles (s : State) (a : AudioPort) : (s.setAudPort a).tiles = s.tiles := rfl
@[simp] theorem State.setAudPort_chans (s : State) (a : AudioPort) : (s.setAudPort a).chans = s.chans := rfl
@[simp] theorem State.setAudPort_host (s : State) (a : AudioPort) : (s.setAudPort a).host = s.host := rfl
@[simp] theorem State.setAudPort_plan (s : State) (a : AudioPort) : (s.setAudPort a).plan = s.plan := rfl
@[simp] theorem State.setAudPort_boot (s : State) (a : AudioPort) : (s.setAudPort a).boot = s.boot := rfl
@[simp] theorem State.setAudPort_therm (s : State) (a : AudioPort) : (s.setAudPort a).therm = s.therm := rfl
@[simp] theorem State.setAudPort_pairUnit (s : State) (a : AudioPort) : (s.setAudPort a).pairUnit = s.pairUnit := rfl
@[simp] theorem State.setAudPort_video (s : State) (a : AudioPort) : (s.setAudPort a).video = s.video := rfl
@[simp] theorem State.setAudPort_lamp (s : State) (a : AudioPort) : (s.setAudPort a).lamp = s.lamp := rfl
@[simp] theorem State.setAudPort_wall (s : State) (a : AudioPort) : (s.setAudPort a).wall = s.wall := rfl
@[simp] theorem State.setAudPort_audio (s : State) (a : AudioPort) : (s.setAudPort a).audio = { s.audio with ports := s.audio.ports.filter (·.port != a.port) ++ [a] } := rfl
@[simp] theorem State.setAudPort_meter (s : State) (a : AudioPort) : (s.setAudPort a).meter = s.meter := rfl
@[simp] theorem State.setAudPort_jtag (s : State) (a : AudioPort) : (s.setAudPort a).jtag = s.jtag := rfl
@[simp] theorem State.setAudPort_pending (s : State) (a : AudioPort) : (s.setAudPort a).pending = s.pending := rfl

/-! ### onPair -/

@[simp] theorem State.onPair_io (s : State) (f : PairUnit → PairUnit) : (s.onPair f).io = s.io := rfl
@[simp] theorem State.onPair_tick (s : State) (f : PairUnit → PairUnit) : (s.onPair f).tick = s.tick := rfl
@[simp] theorem State.onPair_link (s : State) (f : PairUnit → PairUnit) : (s.onPair f).link = s.link := rfl
@[simp] theorem State.onPair_tiles (s : State) (f : PairUnit → PairUnit) : (s.onPair f).tiles = s.tiles := rfl
@[simp] theorem State.onPair_chans (s : State) (f : PairUnit → PairUnit) : (s.onPair f).chans = s.chans := rfl
@[simp] theorem State.onPair_host (s : State) (f : PairUnit → PairUnit) : (s.onPair f).host = s.host := rfl
@[simp] theorem State.onPair_plan (s : State) (f : PairUnit → PairUnit) : (s.onPair f).plan = s.plan := rfl
@[simp] theorem State.onPair_boot (s : State) (f : PairUnit → PairUnit) : (s.onPair f).boot = s.boot := rfl
@[simp] theorem State.onPair_therm (s : State) (f : PairUnit → PairUnit) : (s.onPair f).therm = s.therm := rfl
@[simp] theorem State.onPair_pairUnit (s : State) (f : PairUnit → PairUnit) : (s.onPair f).pairUnit = f s.pairUnit := rfl
@[simp] theorem State.onPair_video (s : State) (f : PairUnit → PairUnit) : (s.onPair f).video = s.video := rfl
@[simp] theorem State.onPair_lamp (s : State) (f : PairUnit → PairUnit) : (s.onPair f).lamp = s.lamp := rfl
@[simp] theorem State.onPair_wall (s : State) (f : PairUnit → PairUnit) : (s.onPair f).wall = s.wall := rfl
@[simp] theorem State.onPair_audio (s : State) (f : PairUnit → PairUnit) : (s.onPair f).audio = s.audio := rfl
@[simp] theorem State.onPair_meter (s : State) (f : PairUnit → PairUnit) : (s.onPair f).meter = s.meter := rfl
@[simp] theorem State.onPair_jtag (s : State) (f : PairUnit → PairUnit) : (s.onPair f).jtag = s.jtag := rfl
@[simp] theorem State.onPair_pending (s : State) (f : PairUnit → PairUnit) : (s.onPair f).pending = s.pending := rfl

/-! ### onWall -/

@[simp] theorem State.onWall_io (s : State) (f : WallState → WallState) : (s.onWall f).io = s.io := rfl
@[simp] theorem State.onWall_tick (s : State) (f : WallState → WallState) : (s.onWall f).tick = s.tick := rfl
@[simp] theorem State.onWall_link (s : State) (f : WallState → WallState) : (s.onWall f).link = s.link := rfl
@[simp] theorem State.onWall_tiles (s : State) (f : WallState → WallState) : (s.onWall f).tiles = s.tiles := rfl
@[simp] theorem State.onWall_chans (s : State) (f : WallState → WallState) : (s.onWall f).chans = s.chans := rfl
@[simp] theorem State.onWall_host (s : State) (f : WallState → WallState) : (s.onWall f).host = s.host := rfl
@[simp] theorem State.onWall_plan (s : State) (f : WallState → WallState) : (s.onWall f).plan = s.plan := rfl
@[simp] theorem State.onWall_boot (s : State) (f : WallState → WallState) : (s.onWall f).boot = s.boot := rfl
@[simp] theorem State.onWall_therm (s : State) (f : WallState → WallState) : (s.onWall f).therm = s.therm := rfl
@[simp] theorem State.onWall_pairUnit (s : State) (f : WallState → WallState) : (s.onWall f).pairUnit = s.pairUnit := rfl
@[simp] theorem State.onWall_video (s : State) (f : WallState → WallState) : (s.onWall f).video = s.video := rfl
@[simp] theorem State.onWall_lamp (s : State) (f : WallState → WallState) : (s.onWall f).lamp = s.lamp := rfl
@[simp] theorem State.onWall_wall (s : State) (f : WallState → WallState) : (s.onWall f).wall = f s.wall := rfl
@[simp] theorem State.onWall_audio (s : State) (f : WallState → WallState) : (s.onWall f).audio = s.audio := rfl
@[simp] theorem State.onWall_meter (s : State) (f : WallState → WallState) : (s.onWall f).meter = s.meter := rfl
@[simp] theorem State.onWall_jtag (s : State) (f : WallState → WallState) : (s.onWall f).jtag = s.jtag := rfl
@[simp] theorem State.onWall_pending (s : State) (f : WallState → WallState) : (s.onWall f).pending = s.pending := rfl

/-! ### setPort -/

@[simp] theorem State.setPort_io (s : State) (p : Nat) (v : Port) : (s.setPort p v).io = s.io := rfl
@[simp] theorem State.setPort_tick (s : State) (p : Nat) (v : Port) : (s.setPort p v).tick = s.tick := rfl
@[simp] theorem State.setPort_link (s : State) (p : Nat) (v : Port) : (s.setPort p v).link = { s.link with ports := setNth s.link.ports p v } := rfl
@[simp] theorem State.setPort_tiles (s : State) (p : Nat) (v : Port) : (s.setPort p v).tiles = s.tiles := rfl
@[simp] theorem State.setPort_chans (s : State) (p : Nat) (v : Port) : (s.setPort p v).chans = s.chans := rfl
@[simp] theorem State.setPort_host (s : State) (p : Nat) (v : Port) : (s.setPort p v).host = s.host := rfl
@[simp] theorem State.setPort_plan (s : State) (p : Nat) (v : Port) : (s.setPort p v).plan = s.plan := rfl
@[simp] theorem State.setPort_boot (s : State) (p : Nat) (v : Port) : (s.setPort p v).boot = s.boot := rfl
@[simp] theorem State.setPort_therm (s : State) (p : Nat) (v : Port) : (s.setPort p v).therm = s.therm := rfl
@[simp] theorem State.setPort_pairUnit (s : State) (p : Nat) (v : Port) : (s.setPort p v).pairUnit = s.pairUnit := rfl
@[simp] theorem State.setPort_video (s : State) (p : Nat) (v : Port) : (s.setPort p v).video = s.video := rfl
@[simp] theorem State.setPort_lamp (s : State) (p : Nat) (v : Port) : (s.setPort p v).lamp = s.lamp := rfl
@[simp] theorem State.setPort_wall (s : State) (p : Nat) (v : Port) : (s.setPort p v).wall = s.wall := rfl
@[simp] theorem State.setPort_audio (s : State) (p : Nat) (v : Port) : (s.setPort p v).audio = s.audio := rfl
@[simp] theorem State.setPort_meter (s : State) (p : Nat) (v : Port) : (s.setPort p v).meter = s.meter := rfl
@[simp] theorem State.setPort_jtag (s : State) (p : Nat) (v : Port) : (s.setPort p v).jtag = s.jtag := rfl
@[simp] theorem State.setPort_pending (s : State) (p : Nat) (v : Port) : (s.setPort p v).pending = s.pending := rfl

/-! ### setTile -/

@[simp] theorem State.setTile_io (s : State) (t : TileInfo) : (s.setTile t).io = s.io := rfl
@[simp] theorem State.setTile_tick (s : State) (t : TileInfo) : (s.setTile t).tick = s.tick := rfl
@[simp] theorem State.setTile_link (s : State) (t : TileInfo) : (s.setTile t).link = s.link := rfl
@[simp] theorem State.setTile_tiles (s : State) (t : TileInfo) : (s.setTile t).tiles = t :: s.tiles.filter (fun u => !(u.chain == t.chain && u.position == t.position)) := rfl
@[simp] theorem State.setTile_chans (s : State) (t : TileInfo) : (s.setTile t).chans = s.chans := rfl
@[simp] theorem State.setTile_host (s : State) (t : TileInfo) : (s.setTile t).host = s.host := rfl
@[simp] theorem State.setTile_plan (s : State) (t : TileInfo) : (s.setTile t).plan = s.plan := rfl
@[simp] theorem State.setTile_boot (s : State) (t : TileInfo) : (s.setTile t).boot = s.boot := rfl
@[simp] theorem State.setTile_therm (s : State) (t : TileInfo) : (s.setTile t).therm = s.therm := rfl
@[simp] theorem State.setTile_pairUnit (s : State) (t : TileInfo) : (s.setTile t).pairUnit = s.pairUnit := rfl
@[simp] theorem State.setTile_video (s : State) (t : TileInfo) : (s.setTile t).video = s.video := rfl
@[simp] theorem State.setTile_lamp (s : State) (t : TileInfo) : (s.setTile t).lamp = s.lamp := rfl
@[simp] theorem State.setTile_wall (s : State) (t : TileInfo) : (s.setTile t).wall = s.wall := rfl
@[simp] theorem State.setTile_audio (s : State) (t : TileInfo) : (s.setTile t).audio = s.audio := rfl
@[simp] theorem State.setTile_meter (s : State) (t : TileInfo) : (s.setTile t).meter = s.meter := rfl
@[simp] theorem State.setTile_jtag (s : State) (t : TileInfo) : (s.setTile t).jtag = s.jtag := rfl
@[simp] theorem State.setTile_pending (s : State) (t : TileInfo) : (s.setTile t).pending = s.pending := rfl

/-! ### setPortRun -/

@[simp] theorem State.setPortRun_io (s : State) (p m v : Nat) : (s.setPortRun p m v).io = s.io := rfl
@[simp] theorem State.setPortRun_tick (s : State) (p m v : Nat) : (s.setPortRun p m v).tick = { s.tick with ports := (p, m, v) :: s.tick.ports.filter (fun e => e.1 != p) } := rfl
@[simp] theorem State.setPortRun_link (s : State) (p m v : Nat) : (s.setPortRun p m v).link = s.link := rfl
@[simp] theorem State.setPortRun_tiles (s : State) (p m v : Nat) : (s.setPortRun p m v).tiles = s.tiles := rfl
@[simp] theorem State.setPortRun_chans (s : State) (p m v : Nat) : (s.setPortRun p m v).chans = s.chans := rfl
@[simp] theorem State.setPortRun_host (s : State) (p m v : Nat) : (s.setPortRun p m v).host = s.host := rfl
@[simp] theorem State.setPortRun_plan (s : State) (p m v : Nat) : (s.setPortRun p m v).plan = s.plan := rfl
@[simp] theorem State.setPortRun_boot (s : State) (p m v : Nat) : (s.setPortRun p m v).boot = s.boot := rfl
@[simp] theorem State.setPortRun_therm (s : State) (p m v : Nat) : (s.setPortRun p m v).therm = s.therm := rfl
@[simp] theorem State.setPortRun_pairUnit (s : State) (p m v : Nat) : (s.setPortRun p m v).pairUnit = s.pairUnit := rfl
@[simp] theorem State.setPortRun_video (s : State) (p m v : Nat) : (s.setPortRun p m v).video = s.video := rfl
@[simp] theorem State.setPortRun_lamp (s : State) (p m v : Nat) : (s.setPortRun p m v).lamp = s.lamp := rfl
@[simp] theorem State.setPortRun_wall (s : State) (p m v : Nat) : (s.setPortRun p m v).wall = s.wall := rfl
@[simp] theorem State.setPortRun_audio (s : State) (p m v : Nat) : (s.setPortRun p m v).audio = s.audio := rfl
@[simp] theorem State.setPortRun_meter (s : State) (p m v : Nat) : (s.setPortRun p m v).meter = s.meter := rfl
@[simp] theorem State.setPortRun_jtag (s : State) (p m v : Nat) : (s.setPortRun p m v).jtag = s.jtag := rfl
@[simp] theorem State.setPortRun_pending (s : State) (p m v : Nat) : (s.setPortRun p m v).pending = s.pending := rfl

/-! ### setMirror -/

@[simp] theorem State.setMirror_io (s : State) (m : Mirror) : (s.setMirror m).io = s.io := rfl
@[simp] theorem State.setMirror_tick (s : State) (m : Mirror) : (s.setMirror m).tick = s.tick := rfl
@[simp] theorem State.setMirror_link (s : State) (m : Mirror) : (s.setMirror m).link = s.link := rfl
@[simp] theorem State.setMirror_tiles (s : State) (m : Mirror) : (s.setMirror m).tiles = s.tiles := rfl
@[simp] theorem State.setMirror_chans (s : State) (m : Mirror) : (s.setMirror m).chans = s.chans := rfl
@[simp] theorem State.setMirror_host (s : State) (m : Mirror) : (s.setMirror m).host = s.host := rfl
@[simp] theorem State.setMirror_plan (s : State) (m : Mirror) : (s.setMirror m).plan = s.plan := rfl
@[simp] theorem State.setMirror_boot (s : State) (m : Mirror) : (s.setMirror m).boot = s.boot := rfl
@[simp] theorem State.setMirror_therm (s : State) (m : Mirror) : (s.setMirror m).therm = s.therm := rfl
@[simp] theorem State.setMirror_pairUnit (s : State) (m : Mirror) : (s.setMirror m).pairUnit = s.pairUnit := rfl
@[simp] theorem State.setMirror_video (s : State) (m : Mirror) : (s.setMirror m).video = { s.video with mirrors := m :: s.video.mirrors.filter (fun x => !(x.chain == m.chain && x.position == m.position)) } := rfl
@[simp] theorem State.setMirror_lamp (s : State) (m : Mirror) : (s.setMirror m).lamp = s.lamp := rfl
@[simp] theorem State.setMirror_wall (s : State) (m : Mirror) : (s.setMirror m).wall = s.wall := rfl
@[simp] theorem State.setMirror_audio (s : State) (m : Mirror) : (s.setMirror m).audio = s.audio := rfl
@[simp] theorem State.setMirror_meter (s : State) (m : Mirror) : (s.setMirror m).meter = s.meter := rfl
@[simp] theorem State.setMirror_jtag (s : State) (m : Mirror) : (s.setMirror m).jtag = s.jtag := rfl
@[simp] theorem State.setMirror_pending (s : State) (m : Mirror) : (s.setMirror m).pending = s.pending := rfl

/-! ### setDecoder -/

@[simp] theorem State.setDecoder_io (s : State) (d : Decoder) : (s.setDecoder d).io = s.io := rfl
@[simp] theorem State.setDecoder_tick (s : State) (d : Decoder) : (s.setDecoder d).tick = s.tick := rfl
@[simp] theorem State.setDecoder_link (s : State) (d : Decoder) : (s.setDecoder d).link = s.link := rfl
@[simp] theorem State.setDecoder_tiles (s : State) (d : Decoder) : (s.setDecoder d).tiles = s.tiles := rfl
@[simp] theorem State.setDecoder_chans (s : State) (d : Decoder) : (s.setDecoder d).chans = s.chans := rfl
@[simp] theorem State.setDecoder_host (s : State) (d : Decoder) : (s.setDecoder d).host = s.host := rfl
@[simp] theorem State.setDecoder_plan (s : State) (d : Decoder) : (s.setDecoder d).plan = s.plan := rfl
@[simp] theorem State.setDecoder_boot (s : State) (d : Decoder) : (s.setDecoder d).boot = s.boot := rfl
@[simp] theorem State.setDecoder_therm (s : State) (d : Decoder) : (s.setDecoder d).therm = s.therm := rfl
@[simp] theorem State.setDecoder_pairUnit (s : State) (d : Decoder) : (s.setDecoder d).pairUnit = s.pairUnit := rfl
@[simp] theorem State.setDecoder_video (s : State) (d : Decoder) : (s.setDecoder d).video = { s.video with decoders := d :: s.video.decoders.filter (·.stream != d.stream) } := rfl
@[simp] theorem State.setDecoder_lamp (s : State) (d : Decoder) : (s.setDecoder d).lamp = s.lamp := rfl
@[simp] theorem State.setDecoder_wall (s : State) (d : Decoder) : (s.setDecoder d).wall = s.wall := rfl
@[simp] theorem State.setDecoder_audio (s : State) (d : Decoder) : (s.setDecoder d).audio = s.audio := rfl
@[simp] theorem State.setDecoder_meter (s : State) (d : Decoder) : (s.setDecoder d).meter = s.meter := rfl
@[simp] theorem State.setDecoder_jtag (s : State) (d : Decoder) : (s.setDecoder d).jtag = s.jtag := rfl
@[simp] theorem State.setDecoder_pending (s : State) (d : Decoder) : (s.setDecoder d).pending = s.pending := rfl

/-! ### setBoard -/

@[simp] theorem State.setBoard_io (s : State) (b : Board) : (s.setBoard b).io = s.io := rfl
@[simp] theorem State.setBoard_tick (s : State) (b : Board) : (s.setBoard b).tick = s.tick := rfl
@[simp] theorem State.setBoard_link (s : State) (b : Board) : (s.setBoard b).link = s.link := rfl
@[simp] theorem State.setBoard_tiles (s : State) (b : Board) : (s.setBoard b).tiles = s.tiles := rfl
@[simp] theorem State.setBoard_chans (s : State) (b : Board) : (s.setBoard b).chans = s.chans := rfl
@[simp] theorem State.setBoard_host (s : State) (b : Board) : (s.setBoard b).host = s.host := rfl
@[simp] theorem State.setBoard_plan (s : State) (b : Board) : (s.setBoard b).plan = s.plan := rfl
@[simp] theorem State.setBoard_boot (s : State) (b : Board) : (s.setBoard b).boot = s.boot := rfl
@[simp] theorem State.setBoard_therm (s : State) (b : Board) : (s.setBoard b).therm = s.therm := rfl
@[simp] theorem State.setBoard_pairUnit (s : State) (b : Board) : (s.setBoard b).pairUnit = s.pairUnit := rfl
@[simp] theorem State.setBoard_video (s : State) (b : Board) : (s.setBoard b).video = s.video := rfl
@[simp] theorem State.setBoard_lamp (s : State) (b : Board) : (s.setBoard b).lamp = { s.lamp with boards := b :: s.lamp.boards.filter (·.index != b.index) } := rfl
@[simp] theorem State.setBoard_wall (s : State) (b : Board) : (s.setBoard b).wall = s.wall := rfl
@[simp] theorem State.setBoard_audio (s : State) (b : Board) : (s.setBoard b).audio = s.audio := rfl
@[simp] theorem State.setBoard_meter (s : State) (b : Board) : (s.setBoard b).meter = s.meter := rfl
@[simp] theorem State.setBoard_jtag (s : State) (b : Board) : (s.setBoard b).jtag = s.jtag := rfl
@[simp] theorem State.setBoard_pending (s : State) (b : Board) : (s.setBoard b).pending = s.pending := rfl

/-! ### setGroup -/

@[simp] theorem State.setGroup_io (s : State) (g : Group) : (s.setGroup g).io = s.io := rfl
@[simp] theorem State.setGroup_tick (s : State) (g : Group) : (s.setGroup g).tick = s.tick := rfl
@[simp] theorem State.setGroup_link (s : State) (g : Group) : (s.setGroup g).link = s.link := rfl
@[simp] theorem State.setGroup_tiles (s : State) (g : Group) : (s.setGroup g).tiles = s.tiles := rfl
@[simp] theorem State.setGroup_chans (s : State) (g : Group) : (s.setGroup g).chans = s.chans := rfl
@[simp] theorem State.setGroup_host (s : State) (g : Group) : (s.setGroup g).host = s.host := rfl
@[simp] theorem State.setGroup_plan (s : State) (g : Group) : (s.setGroup g).plan = s.plan := rfl
@[simp] theorem State.setGroup_boot (s : State) (g : Group) : (s.setGroup g).boot = s.boot := rfl
@[simp] theorem State.setGroup_therm (s : State) (g : Group) : (s.setGroup g).therm = s.therm := rfl
@[simp] theorem State.setGroup_pairUnit (s : State) (g : Group) : (s.setGroup g).pairUnit = s.pairUnit := rfl
@[simp] theorem State.setGroup_video (s : State) (g : Group) : (s.setGroup g).video = s.video := rfl
@[simp] theorem State.setGroup_lamp (s : State) (g : Group) : (s.setGroup g).lamp = { s.lamp with groups := g :: s.lamp.groups.filter (·.group != g.group) } := rfl
@[simp] theorem State.setGroup_wall (s : State) (g : Group) : (s.setGroup g).wall = s.wall := rfl
@[simp] theorem State.setGroup_audio (s : State) (g : Group) : (s.setGroup g).audio = s.audio := rfl
@[simp] theorem State.setGroup_meter (s : State) (g : Group) : (s.setGroup g).meter = s.meter := rfl
@[simp] theorem State.setGroup_jtag (s : State) (g : Group) : (s.setGroup g).jtag = s.jtag := rfl
@[simp] theorem State.setGroup_pending (s : State) (g : Group) : (s.setGroup g).pending = s.pending := rfl

/-! ### The register fields of a state -/

@[simp] theorem State.getF_on (s : State) (f : Io → Io) (x : Field) : (s.on f).getF x = (f s.io).getF x := rfl
@[simp] theorem State.getF_setF (s : State) (f : Field) (v : Nat) (x : Field) : (s.setF f v).getF x = (s.io.setF f v).getF x := rfl
@[simp] theorem State.getF_fire (s : State) (e : Nat) (x : Field) : (s.fire e).getF x = (s.io.fire e).getF x := rfl
@[simp] theorem State.getF_onJtag (s : State) (f : Jtag → Jtag) (x : Field) : (s.onJtag f).getF x = s.getF x := rfl
@[simp] theorem State.isF_onJtag (s : State) (f : Jtag → Jtag) (x : Field) : (s.onJtag f).isF x = s.isF x := rfl
@[simp] theorem State.getF_onLamp (s : State) (f : LampState → LampState) (x : Field) : (s.onLamp f).getF x = s.getF x := rfl
@[simp] theorem State.isF_onLamp (s : State) (f : LampState → LampState) (x : Field) : (s.onLamp f).isF x = s.isF x := rfl
@[simp] theorem State.getF_onTherm (s : State) (f : Therm → Therm) (x : Field) : (s.onTherm f).getF x = s.getF x := rfl
@[simp] theorem State.isF_onTherm (s : State) (f : Therm → Therm) (x : Field) : (s.onTherm f).isF x = s.isF x := rfl
@[simp] theorem State.getF_onVideo (s : State) (f : VideoState → VideoState) (x : Field) : (s.onVideo f).getF x = s.getF x := rfl
@[simp] theorem State.isF_onVideo (s : State) (f : VideoState → VideoState) (x : Field) : (s.onVideo f).isF x = s.isF x := rfl
@[simp] theorem State.getF_onLay (s : State) (f : LayerState → LayerState) (x : Field) : (s.onLay f).getF x = s.getF x := rfl
@[simp] theorem State.isF_onLay (s : State) (f : LayerState → LayerState) (x : Field) : (s.onLay f).isF x = s.isF x := rfl
@[simp] theorem State.getF_onBoot (s : State) (f : BootState → BootState) (x : Field) : (s.onBoot f).getF x = s.getF x := rfl
@[simp] theorem State.isF_onBoot (s : State) (f : BootState → BootState) (x : Field) : (s.onBoot f).isF x = s.isF x := rfl
@[simp] theorem State.getF_onNvm (s : State) (f : Nvm → Nvm) (x : Field) : (s.onNvm f).getF x = s.getF x := rfl
@[simp] theorem State.isF_onNvm (s : State) (f : Nvm → Nvm) (x : Field) : (s.onNvm f).isF x = s.isF x := rfl
@[simp] theorem State.getF_onStage (s : State) (f : Stage → Stage) (x : Field) : (s.onStage f).getF x = s.getF x := rfl
@[simp] theorem State.isF_onStage (s : State) (f : Stage → Stage) (x : Field) : (s.onStage f).isF x = s.isF x := rfl
@[simp] theorem State.getF_onMeter (s : State) (f : MeterState → MeterState) (x : Field) : (s.onMeter f).getF x = s.getF x := rfl
@[simp] theorem State.isF_onMeter (s : State) (f : MeterState → MeterState) (x : Field) : (s.onMeter f).isF x = s.isF x := rfl
@[simp] theorem State.getF_setMpoint (s : State) (p : Nat) (f : MeterPoint → MeterPoint) (x : Field) : (s.setMpoint p f).getF x = s.getF x := rfl
@[simp] theorem State.isF_setMpoint (s : State) (p : Nat) (f : MeterPoint → MeterPoint) (x : Field) : (s.setMpoint p f).isF x = s.isF x := rfl
@[simp] theorem State.getF_onAudio (s : State) (f : AudioState → AudioState) (x : Field) : (s.onAudio f).getF x = s.getF x := rfl
@[simp] theorem State.isF_onAudio (s : State) (f : AudioState → AudioState) (x : Field) : (s.onAudio f).isF x = s.isF x := rfl
@[simp] theorem State.getF_setAudPort (s : State) (a : AudioPort) (x : Field) : (s.setAudPort a).getF x = s.getF x := rfl
@[simp] theorem State.isF_setAudPort (s : State) (a : AudioPort) (x : Field) : (s.setAudPort a).isF x = s.isF x := rfl
@[simp] theorem State.getF_onPair (s : State) (f : PairUnit → PairUnit) (x : Field) : (s.onPair f).getF x = s.getF x := rfl
@[simp] theorem State.isF_onPair (s : State) (f : PairUnit → PairUnit) (x : Field) : (s.onPair f).isF x = s.isF x := rfl
@[simp] theorem State.getF_onWall (s : State) (f : WallState → WallState) (x : Field) : (s.onWall f).getF x = s.getF x := rfl
@[simp] theorem State.isF_onWall (s : State) (f : WallState → WallState) (x : Field) : (s.onWall f).isF x = s.isF x := rfl
@[simp] theorem State.getF_setPort (s : State) (p : Nat) (v : Port) (x : Field) : (s.setPort p v).getF x = s.getF x := rfl
@[simp] theorem State.isF_setPort (s : State) (p : Nat) (v : Port) (x : Field) : (s.setPort p v).isF x = s.isF x := rfl
@[simp] theorem State.getF_setTile (s : State) (t : TileInfo) (x : Field) : (s.setTile t).getF x = s.getF x := rfl
@[simp] theorem State.isF_setTile (s : State) (t : TileInfo) (x : Field) : (s.setTile t).isF x = s.isF x := rfl
@[simp] theorem State.getF_setPortRun (s : State) (p m v : Nat) (x : Field) : (s.setPortRun p m v).getF x = s.getF x := rfl
@[simp] theorem State.isF_setPortRun (s : State) (p m v : Nat) (x : Field) : (s.setPortRun p m v).isF x = s.isF x := rfl
@[simp] theorem State.getF_setMirror (s : State) (m : Mirror) (x : Field) : (s.setMirror m).getF x = s.getF x := rfl
@[simp] theorem State.isF_setMirror (s : State) (m : Mirror) (x : Field) : (s.setMirror m).isF x = s.isF x := rfl
@[simp] theorem State.getF_setDecoder (s : State) (d : Decoder) (x : Field) : (s.setDecoder d).getF x = s.getF x := rfl
@[simp] theorem State.isF_setDecoder (s : State) (d : Decoder) (x : Field) : (s.setDecoder d).isF x = s.isF x := rfl
@[simp] theorem State.getF_setBoard (s : State) (b : Board) (x : Field) : (s.setBoard b).getF x = s.getF x := rfl
@[simp] theorem State.isF_setBoard (s : State) (b : Board) (x : Field) : (s.setBoard b).isF x = s.isF x := rfl
@[simp] theorem State.getF_setGroup (s : State) (g : Group) (x : Field) : (s.setGroup g).getF x = s.getF x := rfl
@[simp] theorem State.isF_setGroup (s : State) (g : Group) (x : Field) : (s.setGroup g).isF x = s.isF x := rfl

/-! ### Register fields -/

/-- A field keeps its value when a field of another register, or an apart field of the same register, is set. -/
theorem Io.getF_setF_ne (s : Io) {f g : Field} (v : Nat)
    (h : g.reg ≠ f.reg ∨ (g.reg = f.reg ∧ f.lo + f.width ≤ 32 ∧ (g.lo + g.width ≤ f.lo ∨ f.lo + f.width ≤ g.lo))) : (s.setF f v).getF g = s.getF g := by
  rcases h with h | ⟨h, k, l⟩
  · exact Io.getF_setF_other s v h
  · exact Io.getF_setF_apart s v h k l

/-! ### Whether an event can fire -/

theorem Io.canFire_setReg (s : Io) {a : Nat} (v : BitVec 32) (o : Occ) (hv : Reg.CTL_VARIANT ≠ a) (hb : Reg.CTL_BOOT ≠ a) :
    (s.setReg a v).canFire o = s.canFire o := by
  have h1 : ∀ f : Field, f.reg = Reg.CTL_VARIANT → (s.setReg a v).getF f = s.getF f := fun f hf => Io.getF_setReg_other s v (by rw [hf]; exact hv)
  have h2 : (s.setReg a v).boot = s.boot := Io.getF_setReg_other s v hb
  have r := h1 Fld.CTL_VARIANT_ROLE rfl
  have g := h1 Fld.CTL_VARIANT_REGION_MASK rfl
  have p := h1 Fld.CTL_VARIANT_PAIR_PORT rfl
  have m := h1 Fld.CTL_VARIANT_METER_FITTED rfl
  simp only [Io.canFire, Io.collecting, h2, Io.subsystem, Io.hasHost, Io.hasLamps, Io.isTile, Io.isCombined, Io.isF, Io.regionActive, r, g, p, m]

theorem Io.canFire_setF (s : Io) {f : Field} (v : Nat) (o : Occ) (hv : Reg.CTL_VARIANT ≠ f.reg) (hb : Reg.CTL_BOOT ≠ f.reg) :
    (s.setF f v).canFire o = s.canFire o := Io.canFire_setReg s _ o hv hb

theorem Io.canFire_bumpF (s : Io) {f : Field} (n : Nat) (o : Occ) (hv : Reg.CTL_VARIANT ≠ f.reg) (hb : Reg.CTL_BOOT ≠ f.reg) :
    (s.bumpF f n).canFire o = s.canFire o := Io.canFire_setReg s _ o hv hb

/-- Whether an event can fire depends on the registers alone. -/
theorem Io.canFire_regs {s t : Io} (h : t.regs = s.regs) (o : Occ) : t.canFire o = s.canFire o := by
  have hg : ∀ f, t.getF f = s.getF f := fun f => by simp only [Io.getF, Io.getReg, h]
  simp only [Io.canFire, Io.collecting, Io.boot, Io.subsystem, Io.hasHost, Io.hasLamps, Io.isTile, Io.isCombined, Io.isF, Io.regionActive, hg]
  rfl

end Sys2Proof.Machine
end

