-- ==== Sys2Proof/WellFormed.lean ====
section
/-! DEFINITION. Well-formed commands: the operands that name a resource lie in the range that the spec gives the resource. A command that
is not well-formed names nothing that the device has; its meaning leaves the state as it is or reads fields as 0. -/

namespace Sys2Proof

/-- Every operand of a command that names a port, a region, a channel, a ring, a slot, a board or another resource lies in its range. -/
def Instr.wellFormed (i : Instr) : Bool :=
  match i with
  | .powerOn _ _ _ _ _ => true
  | .deviceReset _ _ _ _ _ => true
  | .railUndervoltage => true
  | .imageSectionReadDone index _ => decide (index < 64)
  | .nvmReadTimeout _ => true
  | .dramTrainingDone channel density _ _ _ _ _ _ => decide (channel < 16) && decide (density < 4)
  | .loadingComplete => true
  | .bootWatchdogExpiry => true
  | .registerWrite _ off value _ _ => decide (off < 8388608) && decide (value < 4294967296)
  | .lowHalfRead _ off _ _ => decide (off < 8388608)
  | .referenceEdge _ => true
  | .edgeMissing => true
  | .tick _ => true
  | .repeatBoundary => true
  | .tickMarkerSend port offset => decide (port < 17) && decide (offset ≤ 65)
  | .tickMarkerReceived port _ _ => decide (port < 17)
  | .markerMissing port => decide (port < 17)
  | .enumSend port _ => decide (port < 17)
  | .enumReceived port _ => decide (port < 17)
  | .delayProbe port _ _ => decide (port < 17)
  | .probeReceived port _ _ _ => decide (port < 17)
  | .probeEchoReceived port _ _ => decide (port < 17)
  | .delayAssignReceived port _ => decide (port < 17)
  | .fetchComposeSlot region slot _ _ _ => decide (region < 4) && decide (slot < 4096)
  | .handoffRowFree region => decide (region < 4)
  | .encodeSlot region slot _ => decide (region < 4) && decide (slot < 4096)
  | .transmitWindow region slot _ => decide (region < 4) && decide (slot < 4096)
  | .elasticSlotComplete region slot _ => decide (region < 4) && decide (slot < 4096)
  | .segmentReceived port _ _ => decide (port < 17)
  | .reservedPacket port _ => decide (port < 17)
  | .decodeSlot region slot => decide (region < 4) && decide (slot < 4096)
  | .cascadedInputDecode region slot => decide (region < 4) && decide (slot < 4096)
  | .cascadeFrameComplete port _ => decide (port < 17)
  | .rowCutoff region slot row _ => decide (region < 4) && decide (slot < 4096) && decide (row < 4096)
  | .lampPipelineSlot region slot _ => decide (region < 4) && decide (slot < 4096)
  | .wearSampleSlot region slot _ => decide (region < 4) && decide (slot < 4096)
  | .driverLoadSlot region slot _ _ => decide (region < 4) && decide (slot < 4096)
  | .broadcastSync => true
  | .teEdge region _ => decide (region < 4)
  | .teTimeout group => decide (group < 48)
  | .greyPulseWindow region slot => decide (region < 4) && decide (slot < 4096)
  | .audioWindow region slot _ _ _ _ => decide (region < 4) && decide (slot < 4096)
  | .hostCaptureWrite region slot _ => decide (region < 4) && decide (slot < 4096)
  | .compileDeadline => true
  | .fenceWordRead _ => true
  | .fenceReadComplete _ _ => true
  | .releaseDue ring index => decide (ring < 65536) && decide (index < 4294967296)
  | .pcieLinkUp speed _ => decide (speed < 7)
  | .pcieLinkDown => true
  | .hotReset => true
  | .functionLevelReset => true
  | .d3hotEntry => true
  | .d3hotToD0 => true
  | .bar2Access _ _ _ _ _ => true
  | .completionTimeout _ => true
  | .unexpectedCompletion => true
  | .doorbellWrite _ _ _ _ => true
  | .msixUnmask vector => decide (vector < 512)
  | .ringFetch _ => true
  | .sqReadComplete ring _ _ => decide (ring < 65536)
  | .nop ring index => decide (ring < 65536) && decide (index < 4294967296)
  | .reservedOpcode ring index => decide (ring < 65536) && decide (index < 4294967296)
  | .ringCreate ring index => decide (ring < 65536) && decide (index < 4294967296)
  | .ringDestroy ring index => decide (ring < 65536) && decide (index < 4294967296)
  | .ringReset ring index => decide (ring < 65536) && decide (index < 4294967296)
  | .vectorMap ring index => decide (ring < 65536) && decide (index < 4294967296)
  | .xltSet ring index => decide (ring < 65536) && decide (index < 4294967296)
  | .xltDisable ring index => decide (ring < 65536) && decide (index < 4294967296)
  | .xltInvalidateAll ring index => decide (ring < 65536) && decide (index < 4294967296)
  | .xltInvalidateRange ring index => decide (ring < 65536) && decide (index < 4294967296)
  | .invalidationDrained ring index => decide (ring < 65536) && decide (index < 4294967296)
  | .translationWalkDone _ _ _ => true
  | .operationComplete region cls _ _ _ => decide (region < 4) && decide (cls < 4)
  | .dmaCopy ring index => decide (ring < 65536) && decide (index < 4294967296)
  | .dmaCopyDone ring index _ _ => decide (ring < 65536) && decide (index < 4294967296)
  | .dramGrant channel _ _ => decide (channel < 16)
  | .dramWriteAccept channel cls _ _ _ => decide (channel < 16) && decide (cls < 4)
  | .dramReadComplete channel cls _ _ => decide (channel < 16) && decide (cls < 4)
  | .portPanicEnter channel _ _ _ => decide (channel < 16)
  | .portPanicExit channel _ _ _ => decide (channel < 16)
  | .panicWindowEnd channel => decide (channel < 16)
  | .requestAged channel cls _ => decide (channel < 16) && decide (cls < 4)
  | .refreshIntervalEnd channel => decide (channel < 16)
  | .mr4Poll channel _ _ => decide (channel < 16)
  | .patternRunStart channel pattern _ length _ => decide (channel < 16) && decide (pattern < 4) && decide (length < 1048576)
  | .patternRunDone channel dqErr _ => decide (channel < 16) && decide (dqErr < 65536)
  | .commit ring index => decide (ring < 65536) && decide (index < 4294967296)
  | .commitDescriptorReadDone ring index _ => decide (ring < 65536) && decide (index < 4294967296)
  | .fenceSignal ring index => decide (ring < 65536) && decide (index < 4294967296)
  | .captureBuffer ring index => decide (ring < 65536) && decide (index < 4294967296)
  | .play ring index => decide (ring < 65536) && decide (index < 4294967296)
  | .audioCapture ring index => decide (ring < 65536) && decide (index < 4294967296)
  | .mask ring index => decide (ring < 65536) && decide (index < 4294967296)
  | .audioStart ring index => decide (ring < 65536) && decide (index < 4294967296)
  | .audioStop ring index => decide (ring < 65536) && decide (index < 4294967296)
  | .remoteRegRead ring index => decide (ring < 65536) && decide (index < 4294967296)
  | .remoteRegWrite ring index => decide (ring < 65536) && decide (index < 4294967296)
  | .regReqReceived port _ => decide (port < 17)
  | .regRspReceived port _ => decide (port < 17)
  | .regReqTimeout chain tag => decide (chain < 16) && decide (tag < 256)
  | .ackReceived port _ => decide (port < 17)
  | .returnAckTimeout stream _ => decide (stream < 17)
  | .returnCellPass _ _ => true
  | .alignSend port => decide (port < 17)
  | .keyRequestReceived port _ _ => decide (port < 17)
  | .remoteEventReceived port _ => decide (port < 17)
  | .telemetryReceived port _ => decide (port < 17)
  | .telemetryStale chain position => decide (chain < 16) && decide (position < 64)
  | .stageAckReceived port _ => decide (port < 17)
  | .wordLockLoss port invalid => decide (port < 17) && decide (16 ≤ invalid)
  | .rxClockLost port => decide (port < 17)
  | .ts1Received port => decide (port < 17)
  | .tsWordsReceived port _ offer => decide (port < 17) && decide (offer < 4)
  | .equalisationDone port ctle t1 t2 t3 fom _ => decide (port < 17) && decide (ctle < 16) && decide (t1 < 64) && decide (t2 < 32) && decide (t3 < 32) && decide (fom < 256)
  | .portUp port _ => decide (port < 17)
  | .trainingAttemptTimeout port => decide (port < 17)
  | .trainingRetryTimer port => decide (port < 17)
  | .rxClockActivity port => decide (port < 17)
  | .linkTestRetry port _ => decide (port < 17)
  | .linkTestForceDown port _ => decide (port < 17)
  | .fomMeasurement port _ _ _ => decide (port < 17)
  | .eqStepAdopt port => decide (port < 17)
  | .helloSend => true
  | .helloReceived _ => true
  | .commitAnnReceived _ => true
  | .keyAnnReceived _ => true
  | .cycleAnnReceived _ => true
  | .snapshotReceived _ => true
  | .relayReceived _ => true
  | .deposeReceived _ => true
  | .handoverReceived _ => true
  | .pairAckReceived _ => true
  | .readDoneReceived _ => true
  | .reuniteReceived _ => true
  | .pairPacketTimeout _ => true
  | .comparisonDeadline chain _ => decide (chain < 16)
  | .deposeAckTimeout => true
  | .announcementMissing => true
  | .reunitePoll chain _ => decide (chain < 16)
  | .suspectTimeout => true
  | .pairPortTimeout => true
  | .pairTestHandover _ => true
  | .pairTestForeign _ => true
  | .ceilingCheck => true
  | .ceilingReceived port _ => decide (port < 17)
  | .wallThrottleCheck => true
  | .throttleReceived port _ => decide (port < 17)
  | .wallCmdResend => true
  | .slotMaskReceived port _ => decide (port < 17)
  | .admissionPoll => true
  | .admitReceived port _ => decide (port < 17)
  | .restartReceived port _ => decide (port < 17)
  | .attestCommandReceived port _ => decide (port < 17)
  | .blendRequest _ => true
  | .sensorRead board _ => decide (board < 64)
  | .presencePoll bus slot _ => decide (bus < 16) && decide (slot < 4)
  | .attachReadsDone board _ => decide (board < 64)
  | .boardRelease board _ => decide (board < 64)
  | .boardRetest board _ => decide (board < 64)
  | .wearStoreTimer => true
  | .chunkWriteDone bus _ => decide (bus < 16)
  | .storePassDone bus => decide (bus < 16)
  | .faultCopyWrite board => decide (board < 64)
  | .unverifiedMinute => true
  | .persistHourly => true
  | .nvmWriteComplete => true
  | .audioPacketReceived port _ => decide (port < 17)
  | .audioPacketDeadline _ => true
  | .audioFrame port _ _ _ _ _ => decide (port < 16)
  | .bclkLoss port => decide (port < 17)
  | .bclkReturn port => decide (port < 17)
  | .audioPortLocked port => decide (port < 17)
  | .audioFadeDone port => decide (port < 17)
  | .meterPowerOn _ _ => true
  | .meterInterval _ _ _ => true
  | .bitstreamStuck point => decide (point < 16)
  | .energySave => true
  | .recordRequestRead _ => true
  | .recordSigned => true
  | .shutdownNotice => true
  | .meterActivationNotice _ => true
  | .calEnAssert => true
  | .calEnRelease => true
  | .calStart _ => true
  | .calZero _ => true
  | .calVref _ => true
  | .calIref _ => true
  | .calDelay _ => true
  | .calCommit _ => true
  | .calAbort _ => true
  | .calSeal _ => true
  | .calNone _ => true
  | .calBadCmd cmd _ => decide (cmd < 256)
  | .thermalModelUpdate _ _ _ _ => true
  | .meteringStaleTimeout => true
  | .thermalEvaluation => true
  | .thmTestShutdown _ => true
  | .shutdownTimeout => true
  | .diodeTrip => true
  | .thermalRestart _ _ _ _ => true
  | .umberNone => true
  | .umberFormat => true
  | .umberOpen => true
  | .umberBlock => true
  | .umberBlockProgrammed _ => true
  | .umberClose => true
  | .umberDiscard => true
  | .umberRestart _ => true
  | .umberBootActive => true
  | .umberBadCmd cmd => decide (cmd < 256)
  | .stageOpen ring index => decide (ring < 65536) && decide (index < 4294967296)
  | .stageData ring index _ _ => decide (ring < 65536) && decide (index < 4294967296)
  | .stageClose ring index => decide (ring < 65536) && decide (index < 4294967296)
  | .stageDiscard ring index => decide (ring < 65536) && decide (index < 4294967296)
  | .stageCloseTimeout => true
  | .stageOpenPacket port _ => decide (port < 17)
  | .stageDataPacket port _ => decide (port < 17)
  | .stageClosePacket port _ => decide (port < 17)
  | .stageDiscardPacket port _ => decide (port < 17)
  | .stageQueryPacket port _ => decide (port < 17)
  | .stageProgramDone _ => true
  | .wallRestart ring index => decide (ring < 65536) && decide (index < 4294967296)
  | .activationCopy => true
  | .activationSectorDone _ _ => true
  | .attestLocal ring index => decide (ring < 65536) && decide (index < 4294967296)
  | .attestTile ring index => decide (ring < 65536) && decide (index < 4294967296)
  | .attestReportDone => true
  | .eventStatusClear _ i value _ => decide (i < 16) && decide (value < 4294967296)
  | .eventMaskWrite _ i value => decide (i < 16) && decide (value < 4294967296)
  | .counterSnap _ => true
  | .counterClear _ => true
  | .counterReset _ c => decide (c < 64)
  | .counterWrap c => decide (c < 64)
  | .cellFault region block _ chain position row _ _ _ => decide (region < 4) && decide (block < 9) && decide (chain < 16) && decide (position < 64) && decide (row < 4096)
  | .cellStall region block _ chain position row _ _ => decide (region < 4) && decide (block < 9) && decide (chain < 16) && decide (position < 64) && decide (row < 4096)
  | .blockFault region block _ => decide (region < 4) && decide (block < 11)
  | .blockRestartDone region block => decide (region < 4) && decide (block < 11)
  | .blockRestartTimeout region block _ => decide (region < 4) && decide (block < 11)
  | .regionFault region _ => decide (region < 4)
  | .regionReturn region _ _ => decide (region < 4)
  | .chipError _ _ => true
  | .firmwareWatchdogExpiry core _ => decide (core < 4)
  | .jtagReset => true
  | .jtagExtest _ => true
  | .jtagSamplePreload _ _ _ => true
  | .jtagBypass _ => true
  | .jtagRegaccUpdate _ _ => true
  | .jtagRegaccCapture => true
  | .configurationWrite _ => true
  | .pcieLinkSpeedChange speed _ => decide (speed < 7)
  | .pcieCorrectableError => true
  | .cellDrop port _ => decide (port < 17)
  | .pairPacketReserved ptype => decide (ptype < 256)
  | .meterPowerLoss => true
  | .pwrgoodFall => true
  | .monitoredRailRecovery _ _ _ _ => true
  | .diodeWindowChange _ _ => true

end Sys2Proof
end

