-- ==== Sys2Proof/Tests/Slice0.lean ====
section
/-! SUPPORT. Tests: ill-formed commands are refused by each check, the words that spell no command, one step on small states, and
states that meet the hypotheses of the statements. Expected results are taken from the rules named. -/

set_option Elab.async false

namespace Sys2Proof.Machine

/-! ### Well-formed commands: each operand at its bound is refused, and just below it is accepted -/

theorem test_illFormed_refused_1 : ([
   .imageSectionReadDone 64 none, .dramTrainingDone 16 0 0 0 0 false false [], .dramTrainingDone 0 4 0 0 0 false false [],
   .registerWrite .bar0 8388608 0 0 false, .registerWrite .bar0 0 4294967296 0 false, .lowHalfRead .bar0 8388608 0 false,
   .tickMarkerSend 17 0, .tickMarkerSend 0 66, .tickMarkerReceived 17 0 0, .markerMissing 17, .enumSend 17 0, .enumReceived 17 0,
   .delayProbe 17 0 0, .probeReceived 17 0 0 0, .probeEchoReceived 17 [] 0, .delayAssignReceived 17 [],
   .fetchComposeSlot 4 0 false {} 0, .fetchComposeSlot 0 4096 false {} 0, .handoffRowFree 4, .encodeSlot 4 0 false,
   .encodeSlot 0 4096 false, .transmitWindow 4 0 0, .transmitWindow 0 4096 0, .elasticSlotComplete 4 0 0,
   .elasticSlotComplete 0 4096 0, .segmentReceived 17 [] false, .reservedPacket 17 [], .decodeSlot 4 0, .decodeSlot 0 4096,
   .cascadedInputDecode 4 0, .cascadedInputDecode 0 4096, .cascadeFrameComplete 17 0, .rowCutoff 4 0 0 false,
   .rowCutoff 0 4096 0 false, .rowCutoff 0 0 4096 false, .lampPipelineSlot 4 0 false, .lampPipelineSlot 0 4096 false,
   .wearSampleSlot 4 0 false, .wearSampleSlot 0 4096 false, .driverLoadSlot 4 0 false ⟨[], [], 0, 0, 0, []⟩,
   .driverLoadSlot 0 4096 false ⟨[], [], 0, 0, 0, []⟩, .teEdge 4 false, .teTimeout 48, .greyPulseWindow 4 0,
   .greyPulseWindow 0 4096, .audioWindow 4 0 0 0 {} 0, .audioWindow 0 4096 0 0 {} 0, .hostCaptureWrite 4 0 {},
   .hostCaptureWrite 0 4096 {}, .releaseDue 65536 0] : List Instr).all (fun i => !i.wellFormed) = true := by decide

theorem test_illFormed_refused_2 : ([
   .releaseDue 0 4294967296, .pcieLinkUp 7 0, .msixUnmask 512, .sqReadComplete 65536 0 (.fault 0), .nop 65536 0, .nop 0 4294967296,
   .reservedOpcode 65536 0, .reservedOpcode 0 4294967296, .ringCreate 65536 0, .ringCreate 0 4294967296, .ringDestroy 65536 0,
   .ringDestroy 0 4294967296, .ringReset 65536 0, .ringReset 0 4294967296, .vectorMap 65536 0, .vectorMap 0 4294967296,
   .xltSet 65536 0, .xltSet 0 4294967296, .xltDisable 65536 0, .xltDisable 0 4294967296, .xltInvalidateAll 65536 0,
   .xltInvalidateAll 0 4294967296, .xltInvalidateRange 65536 0, .xltInvalidateRange 0 4294967296, .invalidationDrained 65536 0,
   .invalidationDrained 0 4294967296, .operationComplete 4 0 false false false, .operationComplete 0 4 false false false,
   .dmaCopy 65536 0, .dmaCopy 0 4294967296, .dmaCopyDone 65536 0 {} 0, .dmaCopyDone 0 4294967296 {} 0, .dramGrant 16 [] 0,
   .dramWriteAccept 16 0 0 0 0, .dramWriteAccept 0 4 0 0 0, .dramReadComplete 16 0 0 0, .dramReadComplete 0 4 0 0,
   .portPanicEnter 16 0 0 false, .portPanicExit 16 0 0 false, .panicWindowEnd 16, .requestAged 16 0 0, .requestAged 0 4 0,
   .refreshIntervalEnd 16, .mr4Poll 16 0 0, .patternRunStart 16 0 false 0 .bar0, .patternRunStart 0 4 false 0 .bar0,
   .patternRunStart 0 0 false 1048576 .bar0, .patternRunDone 16 0 0, .patternRunDone 0 65536 0, .commit 65536 0] : List Instr).all (fun i => !i.wellFormed) = true := by decide

theorem test_illFormed_refused_3 : ([
   .commit 0 4294967296, .commitDescriptorReadDone 65536 0 (.fault 0), .commitDescriptorReadDone 0 4294967296 (.fault 0),
   .fenceSignal 65536 0, .fenceSignal 0 4294967296, .captureBuffer 65536 0, .captureBuffer 0 4294967296, .play 65536 0,
   .play 0 4294967296, .audioCapture 65536 0, .audioCapture 0 4294967296, .mask 65536 0, .mask 0 4294967296, .audioStart 65536 0,
   .audioStart 0 4294967296, .audioStop 65536 0, .audioStop 0 4294967296, .remoteRegRead 65536 0, .remoteRegRead 0 4294967296,
   .remoteRegWrite 65536 0, .remoteRegWrite 0 4294967296, .regReqReceived 17 [], .regRspReceived 17 [], .regReqTimeout 16 0,
   .regReqTimeout 0 256, .ackReceived 17 [], .returnAckTimeout 17 0, .alignSend 17, .keyRequestReceived 17 [] 0,
   .remoteEventReceived 17 [], .telemetryReceived 17 [], .telemetryStale 16 0, .telemetryStale 0 64, .stageAckReceived 17 [],
   .wordLockLoss 17 16, .wordLockLoss 0 15, .rxClockLost 17, .ts1Received 17, .tsWordsReceived 17 false 0,
   .tsWordsReceived 0 false 4, .equalisationDone 17 0 0 0 0 0 0, .equalisationDone 0 16 0 0 0 0 0,
   .equalisationDone 0 0 64 0 0 0 0, .equalisationDone 0 0 0 32 0 0 0, .equalisationDone 0 0 0 0 32 0 0,
   .equalisationDone 0 0 0 0 0 256 0, .portUp 17 0, .trainingAttemptTimeout 17, .trainingRetryTimer 17, .rxClockActivity 17] : List Instr).all (fun i => !i.wellFormed) = true := by decide

theorem test_illFormed_refused_4 : ([
   .linkTestRetry 17 .bar0, .linkTestForceDown 17 .bar0, .fomMeasurement 17 false 0 0, .eqStepAdopt 17, .comparisonDeadline 16 0,
   .reunitePoll 16 false, .ceilingReceived 17 [], .throttleReceived 17 [], .slotMaskReceived 17 [], .admitReceived 17 [],
   .restartReceived 17 [], .attestCommandReceived 17 [], .sensorRead 64 0, .presencePoll 16 0 [], .presencePoll 0 4 [],
   .attachReadsDone 64 none, .boardRelease 64 .bar0, .boardRetest 64 .bar0, .chunkWriteDone 16 false, .storePassDone 16,
   .faultCopyWrite 64, .audioPacketReceived 17 [], .audioFrame 16 0 0 [] false false, .bclkLoss 17, .bclkReturn 17,
   .audioPortLocked 17, .audioFadeDone 17, .bitstreamStuck 16, .calBadCmd 256 .bar0, .umberBadCmd 256, .stageOpen 65536 0,
   .stageOpen 0 4294967296, .stageData 65536 0 {} 0, .stageData 0 4294967296 {} 0, .stageClose 65536 0, .stageClose 0 4294967296,
   .stageDiscard 65536 0, .stageDiscard 0 4294967296, .stageOpenPacket 17 [], .stageDataPacket 17 [], .stageClosePacket 17 [],
   .stageDiscardPacket 17 [], .stageQueryPacket 17 [], .wallRestart 65536 0, .wallRestart 0 4294967296, .attestLocal 65536 0,
   .attestLocal 0 4294967296, .attestTile 65536 0, .attestTile 0 4294967296, .eventStatusClear .bar0 16 0 []] : List Instr).all (fun i => !i.wellFormed) = true := by decide

theorem test_illFormed_refused_5 : ([
   .eventStatusClear .bar0 0 4294967296 [], .eventMaskWrite .bar0 16 0, .eventMaskWrite .bar0 0 4294967296, .counterReset .bar0 64,
   .counterWrap 64, .cellFault 4 0 0 0 0 0 false false false, .cellFault 0 9 0 0 0 0 false false false,
   .cellFault 0 0 0 16 0 0 false false false, .cellFault 0 0 0 0 64 0 false false false,
   .cellFault 0 0 0 0 0 4096 false false false, .cellStall 4 0 0 0 0 0 false false, .cellStall 0 9 0 0 0 0 false false,
   .cellStall 0 0 0 16 0 0 false false, .cellStall 0 0 0 0 64 0 false false, .cellStall 0 0 0 0 0 4096 false false,
   .blockFault 4 0 false, .blockFault 0 11 false, .blockRestartDone 4 0, .blockRestartDone 0 11, .blockRestartTimeout 4 0 false,
   .blockRestartTimeout 0 11 false, .regionFault 4 false, .regionReturn 4 [] [], .firmwareWatchdogExpiry 4 false,
   .pcieLinkSpeedChange 7 0, .cellDrop 17 [], .pairPacketReserved 256] : List Instr).all (fun i => !i.wellFormed) = true := by decide

theorem test_wellFormed_accepted_1 : ([
   .imageSectionReadDone 63 none, .dramTrainingDone 15 3 0 0 0 false false [], .registerWrite .bar0 8388607 4294967295 0 false,
   .lowHalfRead .bar0 8388607 0 false, .tickMarkerSend 16 65, .tickMarkerReceived 16 0 0, .markerMissing 16, .enumSend 16 0,
   .enumReceived 16 0, .delayProbe 16 0 0, .probeReceived 16 0 0 0, .probeEchoReceived 16 [] 0, .delayAssignReceived 16 [],
   .fetchComposeSlot 3 4095 false {} 0, .handoffRowFree 3, .encodeSlot 3 4095 false, .transmitWindow 3 4095 0,
   .elasticSlotComplete 3 4095 0, .segmentReceived 16 [] false, .reservedPacket 16 [], .decodeSlot 3 4095,
   .cascadedInputDecode 3 4095, .cascadeFrameComplete 16 0, .rowCutoff 3 4095 4095 false, .lampPipelineSlot 3 4095 false,
   .wearSampleSlot 3 4095 false, .driverLoadSlot 3 4095 false ⟨[], [], 0, 0, 0, []⟩, .teEdge 3 false, .teTimeout 47,
   .greyPulseWindow 3 4095, .audioWindow 3 4095 0 0 {} 0, .hostCaptureWrite 3 4095 {}, .releaseDue 65535 4294967295,
   .pcieLinkUp 6 0, .msixUnmask 511, .sqReadComplete 65535 0 (.fault 0), .nop 65535 4294967295, .reservedOpcode 65535 4294967295,
   .ringCreate 65535 4294967295, .ringDestroy 65535 4294967295, .ringReset 65535 4294967295, .vectorMap 65535 4294967295,
   .xltSet 65535 4294967295, .xltDisable 65535 4294967295, .xltInvalidateAll 65535 4294967295,
   .xltInvalidateRange 65535 4294967295, .invalidationDrained 65535 4294967295, .operationComplete 3 3 false false false,
   .dmaCopy 65535 4294967295, .dmaCopyDone 65535 4294967295 {} 0] : List Instr).all (fun i => i.wellFormed) = true := by decide

theorem test_wellFormed_accepted_2 : ([
   .dramGrant 15 [] 0, .dramWriteAccept 15 3 0 0 0, .dramReadComplete 15 3 0 0, .portPanicEnter 15 0 0 false,
   .portPanicExit 15 0 0 false, .panicWindowEnd 15, .requestAged 15 3 0, .refreshIntervalEnd 15, .mr4Poll 15 0 0,
   .patternRunStart 15 3 false 1048575 .bar0, .patternRunDone 15 65535 0, .commit 65535 4294967295,
   .commitDescriptorReadDone 65535 4294967295 (.fault 0), .fenceSignal 65535 4294967295, .captureBuffer 65535 4294967295,
   .play 65535 4294967295, .audioCapture 65535 4294967295, .mask 65535 4294967295, .audioStart 65535 4294967295,
   .audioStop 65535 4294967295, .remoteRegRead 65535 4294967295, .remoteRegWrite 65535 4294967295, .regReqReceived 16 [],
   .regRspReceived 16 [], .regReqTimeout 15 255, .ackReceived 16 [], .returnAckTimeout 16 0, .alignSend 16,
   .keyRequestReceived 16 [] 0, .remoteEventReceived 16 [], .telemetryReceived 16 [], .telemetryStale 15 63,
   .stageAckReceived 16 [], .wordLockLoss 16 16, .rxClockLost 16, .ts1Received 16, .tsWordsReceived 16 false 3,
   .equalisationDone 16 15 63 31 31 255 0, .portUp 16 0, .trainingAttemptTimeout 16, .trainingRetryTimer 16, .rxClockActivity 16,
   .linkTestRetry 16 .bar0, .linkTestForceDown 16 .bar0, .fomMeasurement 16 false 0 0, .eqStepAdopt 16, .comparisonDeadline 15 0,
   .reunitePoll 15 false, .ceilingReceived 16 [], .throttleReceived 16 []] : List Instr).all (fun i => i.wellFormed) = true := by decide

theorem test_wellFormed_accepted_3 : ([
   .slotMaskReceived 16 [], .admitReceived 16 [], .restartReceived 16 [], .attestCommandReceived 16 [], .sensorRead 63 0,
   .presencePoll 15 3 [], .attachReadsDone 63 none, .boardRelease 63 .bar0, .boardRetest 63 .bar0, .chunkWriteDone 15 false,
   .storePassDone 15, .faultCopyWrite 63, .audioPacketReceived 16 [], .audioFrame 15 0 0 [] false false, .bclkLoss 16,
   .bclkReturn 16, .audioPortLocked 16, .audioFadeDone 16, .bitstreamStuck 15, .calBadCmd 255 .bar0, .umberBadCmd 255,
   .stageOpen 65535 4294967295, .stageData 65535 4294967295 {} 0, .stageClose 65535 4294967295, .stageDiscard 65535 4294967295,
   .stageOpenPacket 16 [], .stageDataPacket 16 [], .stageClosePacket 16 [], .stageDiscardPacket 16 [], .stageQueryPacket 16 [],
   .wallRestart 65535 4294967295, .attestLocal 65535 4294967295, .attestTile 65535 4294967295,
   .eventStatusClear .bar0 15 4294967295 [], .eventMaskWrite .bar0 15 4294967295, .counterReset .bar0 63, .counterWrap 63,
   .cellFault 3 8 0 15 63 4095 false false false, .cellStall 3 8 0 15 63 4095 false false, .blockFault 3 10 false,
   .blockRestartDone 3 10, .blockRestartTimeout 3 10 false, .regionFault 3 false, .regionReturn 3 [] [],
   .firmwareWatchdogExpiry 3 false, .pcieLinkSpeedChange 6 0, .cellDrop 16 [], .pairPacketReserved 255] : List Instr).all (fun i => i.wellFormed) = true := by decide

/-! ### States and operands that meet the hypotheses of each statement, clause by clause -/

/-- The default part with power and no command carried out. -/
def wOn : State := State.reset.onBoot (fun b => { b with held := false, pwrgood := true })
/-- The device in a boot state. -/
def wIn (st : Nat) : State := (wOn.setF Fld.CTL_BOOT_STATE st).on (fun io => { io with linkUp := true, meterUp := true })
/-- The device in OPERATIONAL. -/
def wUp : State := wIn stOPERATIONAL
/-- A Tile part with one region, in a boot state. -/
def wTileIn (st : Nat) : State := ((wIn st).setF Fld.CTL_VARIANT_ROLE 1).setF Fld.CTL_VARIANT_REGION_MASK 1
/-- A Tile part in OPERATIONAL. -/
def wTile : State := wTileIn stOPERATIONAL
/-- Registers set. -/
def wSet (s : State) (l : List (Field × Nat)) : State := l.foldl (fun s x => s.setF x.1 x.2) s
/-- A PART entry of the manifest in STAGING: kind 2, part code 0, offset 0x2000, length 1,024 (R491). -/
def wPart : List (Nat × Byte) :=
  [(0x201020, 2), (0x201021, 0), (0x201024, 0), (0x201025, 32), (0x201026, 0), (0x201027, 0), (0x201028, 0), (0x201029, 4), (0x20102A, 0),
   (0x20102B, 0), (0x20102C, 0), (0x20102D, 0), (0x20102E, 0), (0x20102F, 0)]
/-- A partition directory of five entries at NVM address 0, with its CRC-32 (R40, R41): the bytes that are not erased. -/
def wNvm : List (Nat × Byte) :=
  [(0, 78), (1, 86), (2, 77), (3, 68), (4, 1), (5, 0), (6, 0), (7, 0), (8, 5), (9, 0), (10, 0), (11, 0), (64, 1), (65, 0), (68, 0),
   (69, 0), (70, 16), (71, 0), (72, 0), (73, 0), (74, 16), (75, 0), (96, 2), (97, 0), (100, 0), (101, 0), (102, 32), (103, 0), (104, 0),
   (105, 0), (106, 16), (107, 0), (128, 3), (129, 0), (132, 0), (133, 0), (134, 48), (135, 0), (136, 0), (137, 0), (138, 16), (139, 0),
   (160, 4), (161, 0), (164, 0), (165, 0), (166, 64), (167, 0), (168, 0), (169, 0), (170, 64), (171, 0), (192, 5), (193, 0), (196, 0),
   (197, 0), (198, 128), (199, 0), (200, 0), (201, 0), (202, 4), (203, 0), (4092, 41), (4093, 116), (4094, 166), (4095, 2)]
   ++ wPart
/-- A state whose NVM holds it. -/
def wParts (s : State) : State := s.onNvm (fun v => { v with mem := wNvm })
/-- An entry: its opcode and its other fields, by offset, width and value. -/
def wEntry (op : Nat) (f : List (Nat × Nat × Nat)) : List Byte :=
  (List.range 64).map (fun i => match ((0, 1, op) :: f).find? (fun x => decide (x.1 ≤ i ∧ i < x.1 + x.2.1)) with
    | some x => (leBytes x.2.1 x.2.2).getD (i - x.1) 0
    | none => 0)
/-- Ring 1 of a class with an entry to be executed at index 0. -/
def wRing (s : State) (cls : Nat) (e : List Byte) : State :=
  s.on (·.setRing 1 { state := 1, cls := cls, sqLog2 := 4, cqLog2 := 5, entry64 := true, sqTail := 1, sqHead := 1, cqReserved := 1, fetched := [(0, e)] })
/-- Ring 1 of a class with an entry executed at index 0 whose completion is owed. -/
def wAct (s : State) (cls : Nat) (e : List Byte) : State :=
  s.on (·.setRing 1 { state := 1, cls := cls, sqLog2 := 4, cqLog2 := 5, entry64 := true, sqTail := 1, sqHead := 1, cqReserved := 1, active := [(0, e)] })
/-- Port 0 enabled and UP, on chain 0 of two tiles, which two positions of the table name. -/
def wPos (p : Nat) : Position := { chain := 0, position := p, cls := 0, x := 0, y := 16 * p, width := 16, height := 16, budget := 64, bands := [0], bandRegions := [0] }
def wPlan (s : State) : State := { s with plan := { s.plan with routes := [{ chain := 0, tiles := 2, ring := false }], positions := [wPos 0, wPos 1] } }
def wPort (s : State) : State := wSet s [(Fld.LNK_PORT_CFG_ENABLE 0 0, 1), (Fld.LNK_STATE_STATE 0 0, 2)]
/-- A unit that drives chain 0. -/
def wNet : State := wPort (wPlan wUp)
/-- A tile that holds address 0 of chain 0, receives from port 0 and has its tick. -/
def wNode (st : Nat) : State :=
  let s := wPort (wPlan (wTileIn st))
  let s := wSet s [(Fld.CTL_TILE_ADDR_VALID, 1), (Fld.LNK_STATE_SELECTED 0 0, 1)]
  { s with tick := { s.tick with marked := true, next := some 20000000, last := 10000000 } }
/-- One slot entry in region 0's table. -/
def wSlot (s : State) (kind lane operand : Nat) : State :=
  { s with plan := { s.plan with rsets := [{ nom := 60000, low := 59000, high := 61000, compileDeadline := 0, decodeLead := 0, tables := [[{ nomStart := 0, kind := kind, nomDur := 100, lane := lane, minDur := 10, depValid := false, dep := 0, operand := operand }]] }] } }
/-- A packet to the tile at position 0 of chain 0. -/
def wPkt (ptype : Nat) (pl : List Byte) : List Byte := packetBytes ptype false 0 0 pl
/-- A WALL_CMD. -/
def wCmd (cmd : Nat) (body : List Byte) : List Byte := wPkt 7 (leBytes 4 cmd ++ body)
/-- A block of `n` bytes, fields by offset, width and value. -/
def wBlock : Nat → List (Nat × Nat × Nat) → List Byte
  | n, [] => List.replicate n 0
  | n, (o, w, v) :: t => memBlock (wBlock n t) o (leBytes w v)
where memBlock (l : List Byte) (o : Nat) (bs : List Byte) : List Byte := l.take o ++ bs ++ l.drop (o + bs.length)
/-- A section of the image, loaded. -/
def wSect (s : State) (t : Nat) (bs : List Byte) : State :=
  s.onBoot (fun b => { b with dir := b.dir ++ [{ typ := t, optional := false, version := 0, off := 0, len := bs.length, digest := [] }], loaded := b.loaded ++ [(b.dir.length, bs)] })

/-- The header of a SNAPSHOT block (R319). -/
def wBlockHead (t n : Nat) : List Byte := leBytes 2 t ++ zeros 2 ++ leBytes 4 n
theorem wSnap_step (k t n : Nat) (body Y : List Byte) (hl : body.length = n) (hf : fieldAt (wBlockHead t n ++ (body ++ Y)) 4 4 = n)
    (ht : fieldAt (wBlockHead t n ++ (body ++ Y)) 0 2 = t) (hn : n % 4 = 0) :
    snapBlocks (k + 1) (wBlockHead t n ++ (body ++ Y)) = (t, body) :: snapBlocks k Y := by
  have hh : (wBlockHead t n).length = 8 := rfl
  have hd : ∀ m, (wBlockHead t n ++ (body ++ Y)).drop (8 + m) = (body ++ Y).drop m := fun m => by
    rw [show 8 + m = (wBlockHead t n).length + m by rw [hh]]; simp [List.drop_append]
  rw [snapBlocks, if_neg (by rw [List.length_append, hh]; omega)]
  simp only [hf, ht, hn]
  rw [show (wBlockHead t n ++ (body ++ Y)).drop 8 = body ++ Y from rfl, List.take_append_of_le_length (by omega), List.take_of_length_le (by omega)]
  rw [show 8 + n + (4 - 0) % 4 = 8 + n by omega, hd, ← hl, List.drop_left]
theorem wField_left (l X : List Byte) (o n : Nat) (h : o + n ≤ l.length) : fieldAt (l ++ X) o n = fieldAt l o n := by
  unfold fieldAt sub
  rw [List.drop_append_of_le_length (by omega), List.take_append_of_le_length (by rw [List.length_drop]; omega)]
/-- A SNAPSHOT's blocks of types 1, 6, 7 and 2, with bodies of zeros. -/
def wSnapBody : List Byte :=
  zeros 8 ++ (wBlockHead 1 20 ++ (zeros 20 ++ (wBlockHead 6 4 ++ (zeros 4 ++ (wBlockHead 7 8 ++ (zeros 8 ++ (wBlockHead 2 (64 * layerEntry) ++ (zeros (64 * layerEntry) ++ []))))))))
theorem wSnap_all (k : Nat) : snapBlocks (k + 5) (wSnapBody.drop 8) = [(1, zeros 20), (6, zeros 4), (7, zeros 8), (2, zeros (64 * layerEntry))] := by
  have h0 : ∀ k, snapBlocks k [] = [] := fun k => by cases k <;> simp [snapBlocks]
  have hz : ∀ n, (zeros n).length = n := fun n => by simp [zeros]
  have hf : ∀ (t n o m : Nat) (X : List Byte), o + m ≤ 8 → fieldAt (wBlockHead t n ++ X) o m = fieldAt (wBlockHead t n) o m := fun t n o m X h => wField_left _ _ _ _ h
  unfold wSnapBody
  rw [List.drop_left' (hz 8), wSnap_step _ _ _ _ _ (hz _) ((hf _ _ _ _ _ (by decide)).trans (by decide +kernel)) ((hf _ _ _ _ _ (by decide)).trans (by decide +kernel)) rfl, wSnap_step _ _ _ _ _ (hz _) ((hf _ _ _ _ _ (by decide)).trans (by decide +kernel)) ((hf _ _ _ _ _ (by decide)).trans (by decide +kernel)) rfl,
    wSnap_step _ _ _ _ _ (hz _) ((hf _ _ _ _ _ (by decide)).trans (by decide +kernel)) ((hf _ _ _ _ _ (by decide)).trans (by decide +kernel)) rfl, wSnap_step _ _ _ _ _ (hz _) ((hf _ _ _ _ _ (by decide)).trans (by decide +kernel)) ((hf _ _ _ _ _ (by decide)).trans (by decide +kernel)) rfl, h0]
theorem wSnap_ok : (([1, 2, 6, 7].all (fun t => (snapOf (snapBlocks wSnapBody.length (wSnapBody.drop 8)) t).isSome)) &&
    (snapBlocks wSnapBody.length (wSnapBody.drop 8)).all blockSound) = true := by
  have hz : ∀ n, (zeros n).length = n := fun n => by simp [zeros]
  obtain ⟨k, hk⟩ : ∃ k, wSnapBody.length = k + 5 :=
    ⟨wSnapBody.length - 5, (Nat.sub_add_cancel (by unfold wSnapBody; rw [List.length_append, List.length_append]; exact Nat.le_add_left_of_le (Nat.le_add_right_of_le (by decide)))).symm⟩
  rw [hk, wSnap_all k]
  have hb : blockSound (2, zeros (64 * layerEntry)) = true := by
    show (decide ((zeros (64 * layerEntry)).length = 64 * layerEntry)) = true
    rw [hz]; rfl
  simp only [snapOf, List.all_cons, hb, List.all_nil]
  rfl

theorem wRead_add (m : List (Nat × Byte)) (n k : Nat) : ∀ a, memRead nvmErased m a (n + k) = memRead nvmErased m a n ++ memRead nvmErased m (a + n) k := by
  induction n with
  | zero => intro a; simp [memRead]
  | succ n ih => intro a; rw [show n + 1 + k = (n + k) + 1 by omega]; simp only [memRead, List.cons_append]; rw [ih, show a + 1 + n = a + (n + 1) by omega]
/-- The running CRC over the `n` bytes at an address. -/
def wCrc (c a n : Nat) : Nat := (memRead nvmErased wNvm a n).foldl crc32Byte c
/-- The same, each byte's value found before the next byte is looked at. -/
def wForce : List Byte → Nat → Nat
  | [], c => c
  | b :: t, c => match crc32Byte c b with
    | 0 => wForce t 0
    | k + 1 => wForce t (k + 1)
theorem wForce_foldl : ∀ (l : List Byte) (c : Nat), l.foldl crc32Byte c = wForce l c
  | [], _ => rfl
  | b :: t, c => by
    have h : ∀ n, wForce t n = (match n with | 0 => wForce t 0 | k + 1 => wForce t (k + 1)) := fun n => by cases n <;> rfl
    rw [List.foldl_cons, wForce_foldl t]; exact h _
theorem wCrc32 {bs : List Byte} {c : Nat} (h : bs.foldl crc32Byte 0xFFFFFFFF = c) : crc32 bs = Nat.xor c 0xFFFFFFFF := by subst h; rfl
theorem wCrc_split (c a n k : Nat) : wCrc c a (n + k) = wCrc (wCrc c a n) (a + n) k := by
  unfold wCrc; rw [wRead_add, List.foldl_append]
theorem wCrc_0 : wCrc 4294967295 0 256 = 4212837728 := by unfold wCrc; rw [wForce_foldl]; decide +kernel
theorem wCrc_1 : wCrc 4212837728 256 256 = 160247657 := by unfold wCrc; rw [wForce_foldl]; decide +kernel
theorem wCrc_2 : wCrc 160247657 512 256 = 2188385414 := by unfold wCrc; rw [wForce_foldl]; decide +kernel
theorem wCrc_3 : wCrc 2188385414 768 256 = 1324330370 := by unfold wCrc; rw [wForce_foldl]; decide +kernel
theorem wCrc_4 : wCrc 1324330370 1024 256 = 1455112463 := by unfold wCrc; rw [wForce_foldl]; decide +kernel
theorem wCrc_5 : wCrc 1455112463 1280 256 = 1856866607 := by unfold wCrc; rw [wForce_foldl]; decide +kernel
theorem wCrc_6 : wCrc 1856866607 1536 256 = 3376783228 := by unfold wCrc; rw [wForce_foldl]; decide +kernel
theorem wCrc_7 : wCrc 3376783228 1792 256 = 977788534 := by unfold wCrc; rw [wForce_foldl]; decide +kernel
theorem wCrc_8 : wCrc 977788534 2048 256 = 3602007704 := by unfold wCrc; rw [wForce_foldl]; decide +kernel
theorem wCrc_9 : wCrc 3602007704 2304 256 = 258431687 := by unfold wCrc; rw [wForce_foldl]; decide +kernel
theorem wCrc_10 : wCrc 258431687 2560 256 = 379178652 := by unfold wCrc; rw [wForce_foldl]; decide +kernel
theorem wCrc_11 : wCrc 379178652 2816 256 = 2908410089 := by unfold wCrc; rw [wForce_foldl]; decide +kernel
theorem wCrc_12 : wCrc 2908410089 3072 256 = 604178169 := by unfold wCrc; rw [wForce_foldl]; decide +kernel
theorem wCrc_13 : wCrc 604178169 3328 256 = 235754189 := by unfold wCrc; rw [wForce_foldl]; decide +kernel
theorem wCrc_14 : wCrc 235754189 3584 256 = 2945950297 := by unfold wCrc; rw [wForce_foldl]; decide +kernel
theorem wCrc_15 : wCrc 2945950297 3840 252 = 4250504150 := by unfold wCrc; rw [wForce_foldl]; decide +kernel
theorem wCrc_all : wCrc 4294967295 0 4092 = 4250504150 := by
  rw [show (4092 : Nat) = 256 + 3836 from rfl, wCrc_split, wCrc_0, show (0 : Nat) + 256 = 256 from rfl]
  rw [show (3836 : Nat) = 256 + 3580 from rfl, wCrc_split, wCrc_1, show (256 : Nat) + 256 = 512 from rfl]
  rw [show (3580 : Nat) = 256 + 3324 from rfl, wCrc_split, wCrc_2, show (512 : Nat) + 256 = 768 from rfl]
  rw [show (3324 : Nat) = 256 + 3068 from rfl, wCrc_split, wCrc_3, show (768 : Nat) + 256 = 1024 from rfl]
  rw [show (3068 : Nat) = 256 + 2812 from rfl, wCrc_split, wCrc_4, show (1024 : Nat) + 256 = 1280 from rfl]
  rw [show (2812 : Nat) = 256 + 2556 from rfl, wCrc_split, wCrc_5, show (1280 : Nat) + 256 = 1536 from rfl]
  rw [show (2556 : Nat) = 256 + 2300 from rfl, wCrc_split, wCrc_6, show (1536 : Nat) + 256 = 1792 from rfl]
  rw [show (2300 : Nat) = 256 + 2044 from rfl, wCrc_split, wCrc_7, show (1792 : Nat) + 256 = 2048 from rfl]
  rw [show (2044 : Nat) = 256 + 1788 from rfl, wCrc_split, wCrc_8, show (2048 : Nat) + 256 = 2304 from rfl]
  rw [show (1788 : Nat) = 256 + 1532 from rfl, wCrc_split, wCrc_9, show (2304 : Nat) + 256 = 2560 from rfl]
  rw [show (1532 : Nat) = 256 + 1276 from rfl, wCrc_split, wCrc_10, show (2560 : Nat) + 256 = 2816 from rfl]
  rw [show (1276 : Nat) = 256 + 1020 from rfl, wCrc_split, wCrc_11, show (2816 : Nat) + 256 = 3072 from rfl]
  rw [show (1020 : Nat) = 256 + 764 from rfl, wCrc_split, wCrc_12, show (3072 : Nat) + 256 = 3328 from rfl]
  rw [show (764 : Nat) = 256 + 508 from rfl, wCrc_split, wCrc_13, show (3328 : Nat) + 256 = 3584 from rfl]
  rw [show (508 : Nat) = 256 + 252 from rfl, wCrc_split, wCrc_14, show (3584 : Nat) + 256 = 3840 from rfl]
  exact wCrc_15
/-- Where the NVM holds that directory and answers, the device finds its partitions (R40, R41). -/
theorem wParts_found (t : State) (h : t.boot.nvm.mem = wNvm) (hz : t.nvmHiZ = false) :
    t.directory.isSome = true ∧ t.partition 1 = some ⟨1, 0x100000, 0x100000⟩ ∧ t.partition 2 = some ⟨2, 0x200000, 0x100000⟩ := by
  have hr : ∀ a n, t.nvmRead a n = memRead nvmErased wNvm a n := fun a n => by unfold State.nvmRead; rw [hz, h]; rfl
  have he : ∀ a, t.dirEntries a = ((List.range (leNat (memRead nvmErased wNvm (a + 8) 4))).map (fun i =>
      ({ typ := leNat (memRead nvmErased wNvm (a + 0x40 + 32 * i) 2), start := leNat (memRead nvmErased wNvm (a + 0x40 + 32 * i + 4) 4),
         size := leNat (memRead nvmErased wNvm (a + 0x40 + 32 * i + 8) 4) } : Partition))).filter (fun p => decide (1 ≤ p.typ ∧ p.typ ≤ 5)) := by
    intro a; unfold State.dirEntries State.nvmNat; simp only [hr]
  have e0 : t.dirEntries 0 = [⟨1, 0x100000, 0x100000⟩, ⟨2, 0x200000, 0x100000⟩, ⟨3, 0x300000, 0x100000⟩, ⟨4, 0x400000, 0x400000⟩, ⟨5, 0x800000, 0x40000⟩] := by
    rw [he]; decide +kernel
  have hc : crc32 (memRead nvmErased wNvm 0 0xFFC) = leNat (memRead nvmErased wNvm 0xFFC 4) := by
    exact (wCrc32 wCrc_all).trans (by decide +kernel)
  have d0 : t.dirValid 0 = true := by
    unfold State.dirValid State.nvmNat
    rw [e0]; simp only [hr, hc]; decide +kernel
  have d1 : t.dirValid 0x10000 = false := by
    unfold State.dirValid
    have : (t.nvmRead 0x10000 4 == [0x4E, 0x56, 0x4D, 0x44]) = false := by rw [hr]; decide +kernel
    rw [this]; rfl
  have hd : t.directory = some (t.dirEntries 0) := by unfold State.directory; rw [d0, d1]
  have hp : t.partitions = some (t.dirEntries 0) := by
    unfold State.partitions; rw [hd, e0]; cases t.needsMeter <;> decide +kernel
  refine ⟨by rw [hd]; rfl, ?_, ?_⟩ <;> unfold State.partition <;> rw [hp, e0] <;> decide +kernel

theorem witness_StepTakesFrontCommand :
    (∃ (s : State) (c : Instr) (rest : List Instr), (s.pending = c :: rest)) ∧
    (∃ (s : State), (s.pending = [])) :=
  ⟨⟨({ State.reset with pending := [.referenceEdge 5] } : State), .referenceEdge 5, [], by decide +kernel⟩,
   ⟨State.reset, by decide +kernel⟩⟩

theorem witness_CommandsLeaveTheQueue :
    ∃ (c : Instr) (s t : State), (exec c s = .next t) :=
  ⟨.referenceEdge 5, State.reset, _, rfl⟩

theorem witness_StepKeepsCanonicalForm :
    ∃ (s t : State), (step s = .next t) ∧ (Registers.wf s = true) ∧ (Memory.wf s = true) ∧ (Sparse.wf (fun _ => ({} : Ring)) s.io.rings = true) ∧
    (s.io.ops.length = 4) :=
  ⟨({ State.reset with pending := [.referenceEdge 5] } : State), _, rfl, by decide +kernel, by decide +kernel, by decide +kernel, by decide +kernel⟩

theorem witness_TimeNeverGoesBack :
    ∃ (s t : State), (step s = .next t) :=
  ⟨({ State.reset with pending := [.referenceEdge 5] } : State), _, rfl⟩

theorem witness_OccurrenceSetsStatusAndCount :
    (∃ (i b : Nat), (i < 16) ∧ (b < 32) ∧ (eventDefined (32 * i + b) = false)) ∧
    (∃ (o : Occ), (eventDefined o.event = false)) ∧
    (∃ (s : Io) (o : Occ), (s.canFire o = true)) ∧
    (∃ (s : Io) (o : Occ), (s.canFire o = true) ∧ (s.evtMask o.event = true)) ∧
    (∃ (s : Io) (o : Occ), (s.canFire o = true) ∧ (s.evtMask o.event = false)) ∧
    (∃ (e : _), (e < 512) ∧ (eventDefined e = false)) :=
  ⟨⟨2, 12, by decide +kernel, by decide +kernel, by decide +kernel⟩,
   ⟨{ event := 76 }, by decide +kernel⟩,
   ⟨wUp.io, { event := 12 }, by decide +kernel⟩,
   ⟨wUp.io, { event := 12 }, by decide +kernel, by decide +kernel⟩,
   ⟨wUp.io.setReg (Reg.CTL_EVT_MASK 0) 0, { event := 12 }, by decide +kernel, by decide +kernel⟩,
   ⟨511, by decide +kernel, by decide +kernel⟩⟩

theorem witness_StatusWriteClears :
    (∃ (i b : Nat), (i < 16) ∧ (b < 32) ∧ (eventDefined (32 * i + b) = true)) ∧
    (∃ (s : State) (i b : Nat), (i < 16) ∧ (b < 32) ∧ (s.io.canFire { event := 32 * i + b } = true)) ∧
    (∃ (s : State) (i b : Nat), (i < 16) ∧ (b < 32) ∧ (s.io.canFire { event := 32 * i + b } = true) ∧ (s.io.evtMask (32 * i + b) = false)) ∧
    (∃ (s : State) (i b : Nat) (p : RegPath), (i < 16) ∧ (b < 32) ∧ (s.Accepts p (Reg.CTL_EVT_COUNT (32 * i + b)))) :=
  ⟨⟨15, 0, by decide +kernel, by decide +kernel, by decide +kernel⟩,
   ⟨wUp, 0, 12, by decide +kernel, by decide +kernel, by decide +kernel⟩,
   ⟨wUp.on (·.setReg (Reg.CTL_EVT_MASK 0) 0), 0, 12, by decide +kernel, by decide +kernel, by decide +kernel, by decide +kernel⟩,
   ⟨wUp, 15, 31, .debug, by decide +kernel, by decide +kernel, ⟨by decide +kernel, by decide +kernel, by decide +kernel, by decide +kernel⟩⟩⟩

theorem witness_CounterWraps :
    (∃ (s : Io) (c : Nat), (c < 64) ∧ (Sparse.get (fun _ => 0) s.cnt c = 2 ^ 48 - 1)) ∧
    (∃ (s : Io) (c : Nat), (c < 64) ∧ (Sparse.get (fun _ => 0) s.cnt c = 2 ^ 48 - 1) ∧ (c < 32)) ∧
    (∃ (s : Io) (c : Nat), (c < 64) ∧ (Sparse.get (fun _ => 0) s.cnt c = 2 ^ 48 - 1) ∧ (32 ≤ c)) ∧
    (∃ (s : Io) (c : Nat), (c < 64) ∧ (Sparse.get (fun _ => 0) s.cnt c = 2 ^ 48 - 1) ∧ (s.canFire { event := 18 } = true)) :=
  ⟨⟨{ wUp.io with cnt := [(63, 2 ^ 48 - 1)] }, 63, by decide +kernel, by decide +kernel⟩,
   ⟨{ wUp.io with cnt := [(31, 2 ^ 48 - 1)] }, 31, by decide +kernel, by decide +kernel, by decide +kernel⟩,
   ⟨{ wUp.io with cnt := [(32, 2 ^ 48 - 1)] }, 32, by decide +kernel, by decide +kernel, by decide +kernel⟩,
   ⟨{ wUp.io with cnt := [(0, 2 ^ 48 - 1)] }, 0, by decide +kernel, by decide +kernel, by decide +kernel⟩⟩

theorem witness_WideRegistersInHalves :
    (∃ (a : Nat), (lowHalf a = true) ∧ (lowHalf (a + 4) = false)) ∧
    (∃ (s t : Io) (a : Nat), (lowHalf a = true) ∧ (lowHalf (a + 4) = false) ∧ (t.latch = (s.readLatched a).1.latch)) ∧
    (∃ (s : State) (n v : Nat) (u : _), (n < 512) ∧ (u = s.writeMsix (Reg.HRG_MSIX_ADDR_LO n) v)) :=
  ⟨⟨Reg.TCK_COUNT_LO, by decide +kernel, by decide +kernel⟩,
   ⟨wUp.io, (wUp.io.readLatched Reg.TCK_COUNT_LO).1, Reg.TCK_COUNT_LO, by decide +kernel, by decide +kernel, by decide +kernel⟩,
   ⟨wUp, 511, 0, _, by decide +kernel, rfl⟩⟩

theorem witness_PowerAndResetCommands :
    (∃ (s : State), (s.boot.pwrgood = false) ∧ (s.boot.railLow = false)) ∧
    (∃ (s : State), (s.boot.pwrgood = true) ∧ (s.boot.railLow = false)) ∧
    (∃ (s u v : State), (u = (((s.onBoot (fun b => { b with held := false, startedAt := s.io.now })).setF Fld.CTL_BOOT_STATE stROM).bootWindow true)) ∧
      (v = (u.setF Fld.CTL_WDOG_LEFT (u.getF Fld.CTL_WDOG_PERIOD)).setF Fld.CTL_WDOG_STOPPED 0)) ∧
    (∃ (s : State), (s.boot.pwrgood = true)) ∧
    (∃ (s : State), (s.boot.railLow = true) ∧ (s.boot.pwrgood = false)) ∧
    (∃ (s : State) (d0 d1 : Int) (t : Nat) (v : State), (s.boot.railLow = true) ∧
      (v = (s.onBoot (fun b => { b with railLow := false })).startPins d0 d1 t) ∧ (s.boot.pwrgood = true)) ∧
    (∃ (s : State), (s.boot.pwrgood = true) ∧ (s.io.boot ≤ stLOADING ∨ s.io.boot = stUMBER) ∧ (s.windowOpen = true)) :=
  ⟨⟨State.reset, by decide +kernel, by decide +kernel⟩,
   ⟨wOn, by decide +kernel, by decide +kernel⟩,
   ⟨State.reset, _, _, rfl, rfl⟩,
   ⟨wOn, by decide +kernel⟩,
   ⟨wOn.onBoot (fun b => { b with railLow := true, pwrgood := false }), by decide +kernel, by decide +kernel⟩,
   ⟨wOn.onBoot (fun b => { b with railLow := true }), 0, 0, 0, _, by decide +kernel, rfl, by decide +kernel⟩,
   ⟨(wIn stLOADING).setF Fld.THM_STATE_WINDOW 1, by decide +kernel, by decide +kernel, by decide +kernel⟩⟩

theorem witness_ImageLoadingCommands :
    (∃ (s : State) (index : Nat) (got : Option (List Byte)) (d : Section) (bs : List Byte), (s.boot.held = false) ∧ (s.io.boot ≤ stLOADING) ∧
      (s.nextSection = some index) ∧ (s.boot.dir[index]? = some d) ∧ (bs = got.getD (s.nvmRead (s.boot.base + d.off) d.len)) ∧
      (d.typ = 0 ∨ 0x10 ≤ d.typ ∧ d.optional = false)) ∧
    (∃ (s : State) (index : Nat) (got : Option (List Byte)) (d : Section) (bs : List Byte), (s.boot.held = false) ∧ (s.io.boot ≤ stLOADING) ∧
      (s.nextSection = some index) ∧ (s.boot.dir[index]? = some d) ∧ (bs = got.getD (s.nvmRead (s.boot.base + d.off) d.len)) ∧ (d.typ ≠ 0) ∧
      (d.typ < 0x10) ∧ (sha512 bs ≠ d.digest) ∧ (s.boot.failedReads.contains index = false)) ∧
    (∃ (s : State) (index : Nat) (got : Option (List Byte)) (d : Section) (bs : List Byte), (s.boot.held = false) ∧ (s.io.boot ≤ stLOADING) ∧
      (s.nextSection = some index) ∧ (s.boot.dir[index]? = some d) ∧ (bs = got.getD (s.nvmRead (s.boot.base + d.off) d.len)) ∧ (d.typ ≠ 0) ∧
      (d.typ < 0x10) ∧ (sha512 bs ≠ d.digest) ∧ (s.boot.failedReads.contains index = true)) ∧
    (∃ (s : State) (index : Nat) (got : Option (List Byte)) (d : Section) (bs : List Byte), (s.boot.held = false) ∧ (s.io.boot ≤ stLOADING) ∧
      (s.nextSection = some index) ∧ (s.boot.dir[index]? = some d) ∧ (bs = got.getD (s.nvmRead (s.boot.base + d.off) d.len)) ∧ (d.typ ≠ 0) ∧
      (d.typ < 0x10) ∧ (sha512 bs = d.digest)) ∧
    (∃ (s : State), (s.boot.held = false) ∧ (s.boot.pwrgood = true) ∧ (s.io.boot ≤ stLOADING)) ∧
    (∃ (s : State), (s.boot.held = false) ∧ (s.boot.pwrgood = true) ∧ (s.isF Fld.CTL_WDOG_STOPPED = false) ∧ (s.io.boot < stOPERATIONAL) ∧
      (s.isF Fld.CTL_BOOT_ACTIVATING = false ∨ s.copying = true)) ∧
    (∃ (s u : State), (s.boot.held = false) ∧ (s.boot.pwrgood = true) ∧ (s.isF Fld.CTL_WDOG_STOPPED = false) ∧ (s.io.boot < stOPERATIONAL) ∧
      (u = (s.enterUmber 4).bootWindow s.windowOpen) ∧ (s.isF Fld.CTL_BOOT_ACTIVATING = true) ∧ (s.copying = false)) ∧
    (∃ (s u : State) (channel : Nat), (channel < 16) ∧ (s.boot.held = false) ∧ (s.io.boot = stLOADING) ∧ ((s.sect 5).isSome = true) ∧
      (s.enabledChannels.contains channel = true) ∧ (s.trainResult channel = 0) ∧
      (u = (s.setF Fld.DMC_CFG_RATE (fieldAt (s.sectOr 5) 0 1)).setF Fld.DMC_CFG_GRAIN (fieldAt (s.sectOr 5) 1 1)) ∧ (u.record 1 = none)) ∧
    (∃ (s u : State) (channel density margin : Nat) (settings : List Byte) (v w : State), (channel < 16) ∧ (s.boot.held = false) ∧
      (s.io.boot = stLOADING) ∧ ((s.sect 5).isSome = true) ∧ (s.enabledChannels.contains channel = true) ∧ (s.trainResult channel = 0) ∧
      (u = (s.setF Fld.DMC_CFG_RATE (fieldAt (s.sectOr 5) 0 1)).setF Fld.DMC_CFG_GRAIN (fieldAt (s.sectOr 5) 1 1)) ∧ (u.record 1 = none) ∧ (density < 3) ∧
      (v = (((u.setF (Fld.DMC_CH_TRAIN_RESULT (channel / 4) (channel % 4)) 2).setF (Fld.DMC_CH_STAT_STATE (channel / 4) (channel % 4)) 1).setF (Fld.DMC_CH_TRAIN_MARGIN (channel / 4) (channel % 4)) (min 255 margin)).setF (Fld.DMC_CH_STAT_DENSITY (channel / 4) (channel % 4)) density) ∧
      (w = v.setChan channel { v.chan channel with intervalEnd := v.io.now + trefi false, density := density, settings := sub settings 0 256 })) ∧
    (∃ (s : State), (s.boot.held = false) ∧ (s.io.boot = stLOADING) ∧ (s.nextSection = none) ∧
      (s.requiredSections.any (fun t => (dirIndex s.boot.dir t).isNone) = true)) ∧
    (∃ (s : State), (s.boot.held = false) ∧ (s.io.boot = stLOADING) ∧ (s.nextSection = none) ∧
      (s.requiredSections.any (fun t => (dirIndex s.boot.dir t).isNone) = false) ∧ (s.dramUp = false)) ∧
    (∃ (s : State) (d : _), (s.boot.held = false) ∧ (s.io.boot = stLOADING) ∧ (s.nextSection = none) ∧
      (s.requiredSections.any (fun t => (dirIndex s.boot.dir t).isNone) = false) ∧ (s.dramUp = true) ∧
      (s.targetDefect (fieldAt s.boot.header 0x0C 1) (fieldAt s.boot.header 0x0D 1) = some d)) ∧
    (∃ (s : State), (s.boot.held = false) ∧ (s.io.boot = stLOADING) ∧ (s.nextSection = none) ∧
      (s.requiredSections.any (fun t => (dirIndex s.boot.dir t).isNone) = false) ∧ (s.dramUp = true) ∧
      (s.targetDefect (fieldAt s.boot.header 0x0C 1) (fieldAt s.boot.header 0x0D 1) = none) ∧ (s.pairsBad = true)) ∧
    (∃ (s : State) (r : _), (s.boot.held = false) ∧ (s.io.boot = stLOADING) ∧ (s.nextSection = none) ∧
      (s.requiredSections.any (fun t => (dirIndex s.boot.dir t).isNone) = false) ∧ (s.dramUp = true) ∧
      (s.targetDefect (fieldAt s.boot.header 0x0C 1) (fieldAt s.boot.header 0x0D 1) = none) ∧ (s.pairsBad = false) ∧ (r = Config.routing (s.sectOr 3))) ∧
    (∃ (s : State), (s.boot.nvm.busy.isSome = true)) :=
  ⟨⟨(wIn stLOADING).onBoot (fun b => { b with dir := [{ typ := 0x10, optional := false, version := 0, off := 0, len := 4, digest := [] }] }),
     (((wIn stLOADING).onBoot (fun b => { b with dir := [{ typ := 0x10, optional := false, version := 0, off := 0, len := 4, digest := [] }] }) : State).nextSection).get (by decide +kernel),
     some [1, 2, 3, 4], { typ := 0x10, optional := false, version := 0, off := 0, len := 4, digest := [] }, _, by decide +kernel, by decide +kernel,
     by decide +kernel, by decide +kernel, rfl, by decide +kernel⟩,
   ⟨(wIn stLOADING).onBoot (fun b => { b with dir := [{ typ := 1, optional := false, version := 0, off := 0, len := 4, digest := [] }] }),
     (((wIn stLOADING).onBoot (fun b => { b with dir := [{ typ := 1, optional := false, version := 0, off := 0, len := 4, digest := [] }] }) : State).nextSection).get (by decide +kernel),
     some [1, 2, 3, 4], { typ := 1, optional := false, version := 0, off := 0, len := 4, digest := [] }, _, by decide +kernel, by decide +kernel,
     by decide +kernel, by decide +kernel, rfl, by decide +kernel, by decide +kernel, by decide +kernel, by decide +kernel⟩,
   ⟨(wIn stLOADING).onBoot (fun b => { b with dir := [{ typ := 1, optional := false, version := 0, off := 0, len := 4, digest := [] }], failedReads := [0] }),
     (((wIn stLOADING).onBoot (fun b => { b with dir := [{ typ := 1, optional := false, version := 0, off := 0, len := 4, digest := [] }], failedReads := [0] }) : State).nextSection).get (by decide +kernel),
     some [1, 2, 3, 4], { typ := 1, optional := false, version := 0, off := 0, len := 4, digest := [] }, _, by decide +kernel, by decide +kernel,
     by decide +kernel, by decide +kernel, rfl, by decide +kernel, by decide +kernel, by decide +kernel, by decide +kernel⟩,
   ⟨(wIn stLOADING).onBoot (fun b => { b with dir := [{ typ := 1, optional := false, version := 0, off := 0, len := 4, digest := sha512 [1, 2, 3, 4] }] }),
     (((wIn stLOADING).onBoot (fun b => { b with dir := [{ typ := 1, optional := false, version := 0, off := 0, len := 4, digest := sha512 [1, 2, 3, 4] }] }) : State).nextSection).get (by decide +kernel),
     some [1, 2, 3, 4], { typ := 1, optional := false, version := 0, off := 0, len := 4, digest := sha512 [1, 2, 3, 4] }, _, by decide +kernel,
     by decide +kernel, by decide +kernel, by decide +kernel, rfl, by decide +kernel, by decide +kernel, by decide +kernel⟩,
   ⟨wOn, by decide +kernel, by decide +kernel, by decide +kernel⟩,
   ⟨wIn stLOADING, by decide +kernel, by decide +kernel, by decide +kernel, by decide +kernel, by decide +kernel⟩,
   ⟨(wIn stLOADING).setF Fld.CTL_BOOT_ACTIVATING 1, _, by decide +kernel, by decide +kernel, by decide +kernel, by decide +kernel, rfl,
     by decide +kernel, by decide +kernel⟩,
   ⟨(wIn stLOADING).onBoot (fun b => { b with dir := [{ typ := 5, optional := false, version := 0, off := 0, len := 4, digest := [] }], loaded := [(0, zeros 8)] }),
     _, 0, by decide +kernel, by decide +kernel, by decide +kernel, by decide +kernel, by decide +kernel, by decide +kernel, rfl, by decide +kernel⟩,
   ⟨(wIn stLOADING).onBoot (fun b => { b with dir := [{ typ := 5, optional := false, version := 0, off := 0, len := 4, digest := [] }], loaded := [(0, zeros 8)] }),
     _, 0, 0, 0, [], _, _, by decide +kernel, by decide +kernel, by decide +kernel, by decide +kernel, by decide +kernel, by decide +kernel, rfl,
     by decide +kernel, by decide +kernel, rfl, rfl⟩,
   ⟨wIn stLOADING, by decide +kernel, by decide +kernel, by decide +kernel, by decide +kernel⟩,
   ⟨(wIn stLOADING).onBoot (fun b => { b with dir := [1, 2, 3, 4, 5, 6, 7, 8, 9, 10, 11, 13, 15].map (fun t => { typ := t, optional := false, version := 0, off := 0, len := 4, digest := [] }), loaded := (List.range 13).map (fun i => (i, zeros 8)) }),
     by decide +kernel, by decide +kernel, by decide +kernel, by decide +kernel, by decide +kernel⟩,
   ⟨wSet ((wIn stLOADING).onBoot (fun b => { b with dir := [1, 2, 3, 4, 5, 6, 7, 8, 9, 10, 11, 13, 15].map (fun t => { typ := t, optional := false, version := 0, off := 0, len := 4, digest := [] }), loaded := (List.range 13).map (fun i => (i, zeros 8)) })) ((List.range 16).map (fun c => (Fld.DMC_CH_TRAIN_RESULT (c / 4) (c % 4), 1))),
     4, by decide +kernel, by decide +kernel, by decide +kernel, by decide +kernel, by decide +kernel, by decide +kernel⟩,
   ⟨(wSet (wSet ((wIn stLOADING).onBoot (fun b => { b with dir := [1, 2, 3, 4, 5, 6, 7, 8, 9, 10, 11, 13, 15].map (fun t => { typ := t, optional := false, version := 0, off := 0, len := 4, digest := [] }), loaded := (List.range 13).map (fun i => (i, zeros 8)) })) ((List.range 16).map (fun c => (Fld.DMC_CH_TRAIN_RESULT (c / 4) (c % 4), 1)))) [(Fld.CTL_VARIANT_PART, 0), (Fld.CTL_VARIANT_STEPPING, 0)]).onBoot (fun b => { b with loaded := (List.range 13).map (fun i => (i, [1, 0, 0, 0, 0, 0, 0, 0])) }),
     by decide +kernel, by decide +kernel, by decide +kernel, by decide +kernel, by decide +kernel, by decide +kernel, by decide +kernel⟩,
   ⟨wSet (wSet ((wIn stLOADING).onBoot (fun b => { b with dir := [1, 2, 3, 4, 5, 6, 7, 8, 9, 10, 11, 13, 15].map (fun t => { typ := t, optional := false, version := 0, off := 0, len := 4, digest := [] }), loaded := (List.range 13).map (fun i => (i, zeros 8)) })) ((List.range 16).map (fun c => (Fld.DMC_CH_TRAIN_RESULT (c / 4) (c % 4), 1)))) [(Fld.CTL_VARIANT_PART, 0), (Fld.CTL_VARIANT_STEPPING, 0)],
     _, by decide +kernel, by decide +kernel, by decide +kernel, by decide +kernel, by decide +kernel, by decide +kernel, by decide +kernel, rfl⟩,
   ⟨wOn.onNvm (fun v => { v with busy := some NvmOp.clear }), by decide +kernel⟩⟩

theorem witness_UmberCommandsComplete :
    (∃ (s : State), (s.umberReady = true)) ∧
    (∃ (r : Nat), (r < 256)) ∧
    (∃ (s u : State), (s.umberReady = true) ∧ (u = s.setF Fld.CTL_UMB_CMD_CMD 1) ∧ (u.directory.isSome = true)) ∧
    (∃ (s u : State), (s.umberReady = true) ∧ (u = s.setF Fld.CTL_UMB_CMD_CMD 1) ∧ (u.directory = none)) ∧
    (∃ (s u : State), (s.umberReady = true) ∧ (u = s.setF Fld.CTL_UMB_CMD_CMD 2) ∧ (u.partition 2 = none)) ∧
    (∃ (s u : State), (s.umberReady = true) ∧ (u = s.setF Fld.CTL_UMB_CMD_CMD 2) ∧ ((u.partition 2).isSome = true)) ∧
    (∃ (s u : State) (n off : Nat), (s.umberReady = true) ∧ (u = s.setF Fld.CTL_UMB_CMD_CMD 3) ∧ (n = u.getF Fld.CTL_UMB_LENGTH_LENGTH) ∧
      (off = u.getF Fld.CTL_UMB_OFFSET) ∧ (n % 4 ≠ 0 ∨ n < 4 ∨ 65536 < n ∨ off % 4096 ≠ 0 ∨ off < 0x1000 ∨ u.boot.stage.total < off + n)) ∧
    (∃ (s u : State) (n off : Nat), (s.umberReady = true) ∧ (u = s.setF Fld.CTL_UMB_CMD_CMD 3) ∧ (n = u.getF Fld.CTL_UMB_LENGTH_LENGTH) ∧
      (off = u.getF Fld.CTL_UMB_OFFSET) ∧ (¬(n % 4 ≠ 0 ∨ n < 4 ∨ 65536 < n ∨ off % 4096 ≠ 0 ∨ off < 0x1000 ∨ u.boot.stage.total < off + n)) ∧
      (u.upd ≠ uRECEIVING ∨ u.partition 2 = none)) ∧
    (∃ (s u : State) (n off : Nat) (p : _), (s.umberReady = true) ∧ (u = s.setF Fld.CTL_UMB_CMD_CMD 3) ∧ (n = u.getF Fld.CTL_UMB_LENGTH_LENGTH) ∧
      (off = u.getF Fld.CTL_UMB_OFFSET) ∧ (¬(n % 4 ≠ 0 ∨ n < 4 ∨ 65536 < n ∨ off % 4096 ≠ 0 ∨ off < 0x1000 ∨ u.boot.stage.total < off + n)) ∧
      (u.upd = uRECEIVING) ∧ (u.partition 2 = some p) ∧ (p.size < off + n)) ∧
    (∃ (s u : State) (n off : Nat) (p : _), (s.umberReady = true) ∧ (u = s.setF Fld.CTL_UMB_CMD_CMD 3) ∧ (n = u.getF Fld.CTL_UMB_LENGTH_LENGTH) ∧
      (off = u.getF Fld.CTL_UMB_OFFSET) ∧ (¬(n % 4 ≠ 0 ∨ n < 4 ∨ 65536 < n ∨ off % 4096 ≠ 0 ∨ off < 0x1000 ∨ u.boot.stage.total < off + n)) ∧
      (u.upd = uRECEIVING) ∧ (u.partition 2 = some p) ∧ (off + n ≤ p.size)) ∧
    (∃ (s : State) (off : Nat) (bs : List Byte) (fails : _), (s.windowOpen = true) ∧ (s.io.boot = stUMBER) ∧ (s.nvmHiZ = false) ∧
      (s.boot.stage.block = some (off, bs, fails))) ∧
    (∃ (s : State) (off : Nat) (bs : List Byte) (readback : _), (s.windowOpen = true) ∧ (s.io.boot = stUMBER) ∧ (readback = false ∨ s.nvmHiZ = true) ∧
      (s.boot.stage.block = some (off, bs, 0))) ∧
    (∃ (s : State) (off : Nat) (bs : List Byte) (readback : _), (s.windowOpen = true) ∧ (s.io.boot = stUMBER) ∧ (readback = false ∨ s.nvmHiZ = true) ∧
      (s.boot.stage.block = some (off, bs, 1))) ∧
    (∃ (s u : State), (s.umberReady = true) ∧ (u = s.setF Fld.CTL_UMB_CMD_CMD 4) ∧ (u.upd = uRECEIVING) ∧ (u.missingChunks = [])) ∧
    (∃ (s u : State), (s.umberReady = true) ∧ (u = s.setF Fld.CTL_UMB_CMD_CMD 4) ∧ (u.upd ≠ uRECEIVING ∨ u.missingChunks ≠ [])) ∧
    (∃ (s u : State), (s.umberReady = true) ∧ (u = s.setF Fld.CTL_UMB_CMD_CMD 5)) ∧
    (∃ (s u : State), (s.umberReady = true) ∧ (u = s.setF Fld.CTL_UMB_CMD_CMD 6)) :=
  ⟨⟨wIn stUMBER, by decide +kernel⟩,
   ⟨0, by decide +kernel⟩,
   ⟨wParts (wIn stUMBER), _, by decide +kernel, rfl, (wParts_found _ (by decide +kernel) (by decide +kernel)).1⟩,
   ⟨wIn stUMBER, _, by decide +kernel, rfl, by decide +kernel⟩,
   ⟨wIn stUMBER, _, by decide +kernel, rfl, by decide +kernel⟩,
   ⟨wParts (wIn stUMBER), _, by decide +kernel, rfl, by rw [(wParts_found _ (by decide +kernel) (by decide +kernel)).2.2]; rfl⟩,
   ⟨wIn stUMBER, _, _, _, by decide +kernel, rfl, rfl, rfl, by decide +kernel⟩,
   ⟨(wSet (wIn stUMBER) [(Fld.CTL_UPD_STATE_STATE, uRECEIVING), (Fld.CTL_UMB_LENGTH_LENGTH, 4), (Fld.CTL_UMB_OFFSET, 0x1000)]).onStage (fun g => { g with total := 0x200000 }),
     _, _, _, by decide +kernel, rfl, rfl, rfl, by decide +kernel, by decide +kernel⟩,
   ⟨(wSet (wParts (wIn stUMBER)) [(Fld.CTL_UPD_STATE_STATE, uRECEIVING), (Fld.CTL_UMB_LENGTH_LENGTH, 4), (Fld.CTL_UMB_OFFSET, 0x100000)]).onStage (fun g => { g with total := 0x200000 }),
     _, _, _, ⟨2, 0x200000, 0x100000⟩, by decide +kernel, rfl, rfl, rfl, by decide +kernel, by decide +kernel,
     (wParts_found _ (by decide +kernel) (by decide +kernel)).2.2, by decide +kernel⟩,
   ⟨(wSet (wParts (wIn stUMBER)) [(Fld.CTL_UPD_STATE_STATE, uRECEIVING), (Fld.CTL_UMB_LENGTH_LENGTH, 4), (Fld.CTL_UMB_OFFSET, 0x1000)]).onStage (fun g => { g with total := 0x200000 }),
     _, _, _, ⟨2, 0x200000, 0x100000⟩, by decide +kernel, rfl, rfl, rfl, by decide +kernel, by decide +kernel,
     (wParts_found _ (by decide +kernel) (by decide +kernel)).2.2, by decide +kernel⟩,
   ⟨((wIn stUMBER).setF Fld.THM_STATE_WINDOW 1).onStage (fun g => { g with block := some (0x1000, [1], 0) }), 0x1000, [1], 0, by decide +kernel,
     by decide +kernel, by decide +kernel, by decide +kernel⟩,
   ⟨((wIn stUMBER).setF Fld.THM_STATE_WINDOW 1).onStage (fun g => { g with block := some (0x1000, [1], 0) }), 0x1000, [1], false, by decide +kernel,
     by decide +kernel, by decide +kernel, by decide +kernel⟩,
   ⟨((wIn stUMBER).setF Fld.THM_STATE_WINDOW 1).onStage (fun g => { g with block := some (0x1000, [1], 1) }), 0x1000, [1], false, by decide +kernel,
     by decide +kernel, by decide +kernel, by decide +kernel⟩,
   ⟨(wIn stUMBER).setF Fld.CTL_UPD_STATE_STATE uRECEIVING, _, by decide +kernel, rfl, by decide +kernel, by decide +kernel⟩,
   ⟨wIn stUMBER, _, by decide +kernel, rfl, by decide +kernel⟩,
   ⟨wIn stUMBER, _, by decide +kernel, rfl⟩,
   ⟨wIn stUMBER, _, by decide +kernel, rfl⟩⟩

theorem witness_StageEntryCommands :
    (∃ (s : State) (ring i : Nat) (e : List Byte) (d : _), (s.io.Ready ring i 0x42 true (stageFieldsOk e) e) ∧ (s.stageIdle) ∧ (fieldAt e 8 1 ≠ 1) ∧
      (fieldAt e 8 1 ≠ 2) ∧ (fieldAt e 8 1 ≠ 3) ∧ (s.stageReject e = some d)) ∧
    (∃ (s : State) (ring i : Nat) (e : List Byte) (u : State), (s.io.Ready ring i 0x42 true (stageFieldsOk e) e) ∧ (s.stageIdle) ∧
      (u = s.onStage (fun g => { g with nextTxn := (g.nextTxn + 1) % 65536 })) ∧ (fieldAt e 8 1 = 0) ∧ (s.stageReject e = none) ∧ (fieldAt e 9 1 = 0)) ∧
    (∃ (s : State) (ring i : Nat) (e : List Byte) (u : State), (s.io.Ready ring i 0x42 true (stageFieldsOk e) e) ∧ (s.stageIdle) ∧
      (u = s.onStage (fun g => { g with nextTxn := (g.nextTxn + 1) % 65536 })) ∧ (fieldAt e 8 1 = 0) ∧ (s.stageReject e = none) ∧ (fieldAt e 9 1 ≠ 0)) ∧
    (∃ (s u : State) (ring i : Nat) (mem : HostData) (n : Nat) (e got : List Byte) (f : Option (Nat × Nat)) (d : _),
      (s.io.Ready ring i 0x42 true (stageFieldsOk e) e) ∧ (s.stageIdle) ∧ (fieldAt e 8 1 = 1) ∧
      (s.stageRead ring i { mem with inFlight := n } none e = (u, got, f)) ∧ (s.stageReject e = some d)) ∧
    (∃ (s u : State) (ring i : Nat) (mem : HostData) (n : Nat) (e got : List Byte) (f : Option (Nat × Nat)),
      (s.io.Ready ring i 0x42 true (stageFieldsOk e) e) ∧ (s.stageIdle) ∧ (fieldAt e 8 1 = 1) ∧
      (s.stageRead ring i { mem with inFlight := n } none e = (u, got, f)) ∧ (s.stageReject e = none) ∧ (f = none) ∧ (fieldAt e 9 1 = 0)) ∧
    (∃ (s u : State) (ring i : Nat) (mem : HostData) (n : Nat) (e got : List Byte) (f : Option (Nat × Nat)),
      (s.io.Ready ring i 0x42 true (stageFieldsOk e) e) ∧ (s.stageIdle) ∧ (fieldAt e 8 1 = 1) ∧
      (s.stageRead ring i { mem with inFlight := n } none e = (u, got, f)) ∧ (s.stageReject e = none) ∧ (f = none) ∧ (fieldAt e 9 1 ≠ 0)) ∧
    (∃ (s u : State) (ring i : Nat) (mem : HostData) (n : Nat) (e got : List Byte) (f : Option (Nat × Nat)) (k a : _),
      (s.io.Ready ring i 0x42 true (stageFieldsOk e) e) ∧ (s.stageIdle) ∧ (fieldAt e 8 1 = 1) ∧
      (s.stageRead ring i { mem with inFlight := n } none e = (u, got, f)) ∧ (s.stageReject e = none) ∧ (f = some (k, a))) ∧
    (∃ (s : State) (ring i : Nat) (e : List Byte) (d : _), (s.io.Ready ring i 0x42 true (stageFieldsOk e) e) ∧ (s.stageIdle) ∧ (fieldAt e 8 1 = 2) ∧
      (s.stageReject e = some d)) ∧
    (∃ (s : State) (ring i : Nat) (e : List Byte), (s.io.Ready ring i 0x42 true (stageFieldsOk e) e) ∧ (s.stageIdle) ∧ (fieldAt e 8 1 = 2) ∧
      (s.stageReject e = none) ∧ (fieldAt e 9 1 = 0)) ∧
    (∃ (s : State) (ring i : Nat) (e : List Byte) (txn total : _), (s.io.Ready ring i 0x42 true (stageFieldsOk e) e) ∧ (s.stageIdle) ∧
      (fieldAt e 8 1 = 2) ∧ (s.stageReject e = none) ∧ (fieldAt e 9 1 ≠ 0) ∧ (s.boot.stage.opened = some (txn, total))) ∧
    (∃ (s : State) (ring i : Nat) (e : List Byte) (d : _), (s.io.Ready ring i 0x42 true (stageFieldsOk e) e) ∧ (s.stageIdle) ∧ (fieldAt e 8 1 = 3) ∧
      (s.stageReject e = some d)) ∧
    (∃ (s : State) (ring i : Nat) (e : List Byte), (s.io.Ready ring i 0x42 true (stageFieldsOk e) e) ∧ (s.stageIdle) ∧ (fieldAt e 8 1 = 3) ∧
      (s.stageReject e = none) ∧ (fieldAt e 9 1 = 0)) ∧
    (∃ (s : State) (ring i : Nat) (e : List Byte) (txn total : _), (s.io.Ready ring i 0x42 true (stageFieldsOk e) e) ∧ (s.stageIdle) ∧
      (fieldAt e 8 1 = 3) ∧ (s.stageReject e = none) ∧ (fieldAt e 9 1 ≠ 0) ∧ (s.boot.stage.opened = some (txn, total))) ∧
    (∃ (s : State) (j : StageJob), (s.boot.stage.job = some j) ∧ (j.op = 2) ∧ (j.tkind = 0)) ∧
    (∃ (s : State) (j : StageJob) (a : _), (s.boot.stage.job = some j) ∧ (j.op = 2) ∧ (a = (j.targets.filter (fun t => t.2.2.2 == 1)).length) ∧
      (j.tkind ≠ 0)) :=
  ⟨⟨wRing (wUp) 4 (wEntry 66 [(8, 1, 0), (9, 1, 4)]), 1, 0, wEntry 66 [(8, 1, 0), (9, 1, 4)], 1,
     ⟨by decide +kernel, by decide +kernel, by decide +kernel⟩, ⟨by decide +kernel, by decide +kernel⟩, by decide +kernel, by decide +kernel,
     by decide +kernel, by decide +kernel⟩,
   ⟨wRing (wUp) 4 (wEntry 66 [(8, 1, 0)]), 1, 0, wEntry 66 [(8, 1, 0)], _, ⟨by decide +kernel, by decide +kernel, by decide +kernel⟩,
     ⟨by decide +kernel, by decide +kernel⟩, rfl, by decide +kernel, by decide +kernel, by decide +kernel⟩,
   ⟨wRing (wNet) 4 (wEntry 66 [(8, 1, 0), (9, 1, 1)]), 1, 0, wEntry 66 [(8, 1, 0), (9, 1, 1)], _,
     ⟨by decide +kernel, by decide +kernel, by decide +kernel⟩, ⟨by decide +kernel, by decide +kernel⟩, rfl, by decide +kernel, by decide +kernel,
     by decide +kernel⟩,
   ⟨wRing (wUp) 4 (wEntry 66 [(8, 1, 1), (24, 8, 1)]),
     ((wRing (wUp) 4 (wEntry 66 [(8, 1, 1), (24, 8, 1)]) : State).stageRead (1 : Nat) (0 : Nat) { ({} : HostData) with inFlight := (0 : Nat) } none (wEntry 66 [(8, 1, 1), (24, 8, 1)] : List Byte)).1,
     1, 0, {}, 0, wEntry 66 [(8, 1, 1), (24, 8, 1)],
     ((wRing (wUp) 4 (wEntry 66 [(8, 1, 1), (24, 8, 1)]) : State).stageRead (1 : Nat) (0 : Nat) { ({} : HostData) with inFlight := (0 : Nat) } none (wEntry 66 [(8, 1, 1), (24, 8, 1)] : List Byte)).2.1,
     ((wRing (wUp) 4 (wEntry 66 [(8, 1, 1), (24, 8, 1)]) : State).stageRead (1 : Nat) (0 : Nat) { ({} : HostData) with inFlight := (0 : Nat) } none (wEntry 66 [(8, 1, 1), (24, 8, 1)] : List Byte)).2.2,
     2, ⟨by decide +kernel, by decide +kernel, by decide +kernel⟩, ⟨by decide +kernel, by decide +kernel⟩, by decide +kernel, by decide +kernel,
     by decide +kernel⟩,
   ⟨wRing ((wParts (wUp.setF (Fld.XLT_CTX_MODE_MODE 0) 2)).onStage (fun g => { g with total := 0x2000 })) 4 (wEntry 66 [(8, 1, 1), (24, 8, 4096), (32, 8, 4)]),
     ((wRing ((wParts (wUp.setF (Fld.XLT_CTX_MODE_MODE 0) 2)).onStage (fun g => { g with total := 0x2000 })) 4 (wEntry 66 [(8, 1, 1), (24, 8, 4096), (32, 8, 4)]) : State).stageRead (1 : Nat) (0 : Nat) { ({ data := [(0, zeros 64)] } : HostData) with inFlight := (0 : Nat) } none (wEntry 66 [(8, 1, 1), (24, 8, 4096), (32, 8, 4)] : List Byte)).1,
     1, 0, { data := [(0, zeros 64)] }, 0, wEntry 66 [(8, 1, 1), (24, 8, 4096), (32, 8, 4)],
     ((wRing ((wParts (wUp.setF (Fld.XLT_CTX_MODE_MODE 0) 2)).onStage (fun g => { g with total := 0x2000 })) 4 (wEntry 66 [(8, 1, 1), (24, 8, 4096), (32, 8, 4)]) : State).stageRead (1 : Nat) (0 : Nat) { ({ data := [(0, zeros 64)] } : HostData) with inFlight := (0 : Nat) } none (wEntry 66 [(8, 1, 1), (24, 8, 4096), (32, 8, 4)] : List Byte)).2.1,
     ((wRing ((wParts (wUp.setF (Fld.XLT_CTX_MODE_MODE 0) 2)).onStage (fun g => { g with total := 0x2000 })) 4 (wEntry 66 [(8, 1, 1), (24, 8, 4096), (32, 8, 4)]) : State).stageRead (1 : Nat) (0 : Nat) { ({ data := [(0, zeros 64)] } : HostData) with inFlight := (0 : Nat) } none (wEntry 66 [(8, 1, 1), (24, 8, 4096), (32, 8, 4)] : List Byte)).2.2,
     ⟨by decide +kernel, by decide +kernel, by decide +kernel⟩, ⟨by decide +kernel, by decide +kernel⟩, by decide +kernel, by decide +kernel,
     by simp only [State.stageReject, (wParts_found (wRing ((wParts (wUp.setF (Fld.XLT_CTX_MODE_MODE 0) 2)).onStage (fun g => { g with total := 0x2000 })) 4 (wEntry 66 [(8, 1, 1), (24, 8, 4096), (32, 8, 4)])) (by decide +kernel) (by decide +kernel)).2.2]; decide +kernel,
     by decide +kernel, by decide +kernel⟩,
   ⟨wRing (((wNet).onStage (fun g => { g with opened := some (1, 0x2000) })).setF (Fld.XLT_CTX_MODE_MODE 0) 2) 4 (wEntry 66 [(8, 1, 1), (9, 1, 1), (24, 8, 4096), (32, 8, 4)]),
     ((wRing (((wNet).onStage (fun g => { g with opened := some (1, 0x2000) })).setF (Fld.XLT_CTX_MODE_MODE 0) 2) 4 (wEntry 66 [(8, 1, 1), (9, 1, 1), (24, 8, 4096), (32, 8, 4)]) : State).stageRead (1 : Nat) (0 : Nat) { ({ data := [(0, zeros 64)] } : HostData) with inFlight := (0 : Nat) } none (wEntry 66 [(8, 1, 1), (9, 1, 1), (24, 8, 4096), (32, 8, 4)] : List Byte)).1,
     1, 0, { data := [(0, zeros 64)] }, 0, wEntry 66 [(8, 1, 1), (9, 1, 1), (24, 8, 4096), (32, 8, 4)],
     ((wRing (((wNet).onStage (fun g => { g with opened := some (1, 0x2000) })).setF (Fld.XLT_CTX_MODE_MODE 0) 2) 4 (wEntry 66 [(8, 1, 1), (9, 1, 1), (24, 8, 4096), (32, 8, 4)]) : State).stageRead (1 : Nat) (0 : Nat) { ({ data := [(0, zeros 64)] } : HostData) with inFlight := (0 : Nat) } none (wEntry 66 [(8, 1, 1), (9, 1, 1), (24, 8, 4096), (32, 8, 4)] : List Byte)).2.1,
     ((wRing (((wNet).onStage (fun g => { g with opened := some (1, 0x2000) })).setF (Fld.XLT_CTX_MODE_MODE 0) 2) 4 (wEntry 66 [(8, 1, 1), (9, 1, 1), (24, 8, 4096), (32, 8, 4)]) : State).stageRead (1 : Nat) (0 : Nat) { ({ data := [(0, zeros 64)] } : HostData) with inFlight := (0 : Nat) } none (wEntry 66 [(8, 1, 1), (9, 1, 1), (24, 8, 4096), (32, 8, 4)] : List Byte)).2.2,
     ⟨by decide +kernel, by decide +kernel, by decide +kernel⟩, ⟨by decide +kernel, by decide +kernel⟩, by decide +kernel, by decide +kernel,
     by decide +kernel, by decide +kernel, by decide +kernel⟩,
   ⟨wRing ((wNet).onStage (fun g => { g with opened := some (1, 0x2000) })) 4 (wEntry 66 [(8, 1, 1), (9, 1, 1), (24, 8, 4096), (32, 8, 4)]),
     ((wRing ((wNet).onStage (fun g => { g with opened := some (1, 0x2000) })) 4 (wEntry 66 [(8, 1, 1), (9, 1, 1), (24, 8, 4096), (32, 8, 4)]) : State).stageRead (1 : Nat) (0 : Nat) { ({} : HostData) with inFlight := (0 : Nat) } none (wEntry 66 [(8, 1, 1), (9, 1, 1), (24, 8, 4096), (32, 8, 4)] : List Byte)).1,
     1, 0, {}, 0, wEntry 66 [(8, 1, 1), (9, 1, 1), (24, 8, 4096), (32, 8, 4)],
     ((wRing ((wNet).onStage (fun g => { g with opened := some (1, 0x2000) })) 4 (wEntry 66 [(8, 1, 1), (9, 1, 1), (24, 8, 4096), (32, 8, 4)]) : State).stageRead (1 : Nat) (0 : Nat) { ({} : HostData) with inFlight := (0 : Nat) } none (wEntry 66 [(8, 1, 1), (9, 1, 1), (24, 8, 4096), (32, 8, 4)] : List Byte)).2.1,
     ((wRing ((wNet).onStage (fun g => { g with opened := some (1, 0x2000) })) 4 (wEntry 66 [(8, 1, 1), (9, 1, 1), (24, 8, 4096), (32, 8, 4)]) : State).stageRead (1 : Nat) (0 : Nat) { ({} : HostData) with inFlight := (0 : Nat) } none (wEntry 66 [(8, 1, 1), (9, 1, 1), (24, 8, 4096), (32, 8, 4)] : List Byte)).2.2,
     (((((wRing ((wNet).onStage (fun g => { g with opened := some (1, 0x2000) })) 4 (wEntry 66 [(8, 1, 1), (9, 1, 1), (24, 8, 4096), (32, 8, 4)]) : State).stageRead (1 : Nat) (0 : Nat) { ({} : HostData) with inFlight := (0 : Nat) } none (wEntry 66 [(8, 1, 1), (9, 1, 1), (24, 8, 4096), (32, 8, 4)] : List Byte)).2.2 : Option (Nat × Nat))).get (by decide +kernel)).1,
     (((((wRing ((wNet).onStage (fun g => { g with opened := some (1, 0x2000) })) 4 (wEntry 66 [(8, 1, 1), (9, 1, 1), (24, 8, 4096), (32, 8, 4)]) : State).stageRead (1 : Nat) (0 : Nat) { ({} : HostData) with inFlight := (0 : Nat) } none (wEntry 66 [(8, 1, 1), (9, 1, 1), (24, 8, 4096), (32, 8, 4)] : List Byte)).2.2 : Option (Nat × Nat))).get (by decide +kernel)).2,
     ⟨by decide +kernel, by decide +kernel, by decide +kernel⟩, ⟨by decide +kernel, by decide +kernel⟩, by decide +kernel, by decide +kernel,
     by decide +kernel, by decide +kernel⟩,
   ⟨wRing (wUp) 4 (wEntry 66 [(8, 1, 2), (9, 1, 4)]), 1, 0, wEntry 66 [(8, 1, 2), (9, 1, 4)], 1,
     ⟨by decide +kernel, by decide +kernel, by decide +kernel⟩, ⟨by decide +kernel, by decide +kernel⟩, by decide +kernel, by decide +kernel⟩,
   ⟨wRing (wUp) 4 (wEntry 66 [(8, 1, 2)]), 1, 0, wEntry 66 [(8, 1, 2)], ⟨by decide +kernel, by decide +kernel, by decide +kernel⟩,
     ⟨by decide +kernel, by decide +kernel⟩, by decide +kernel, by decide +kernel, by decide +kernel⟩,
   ⟨wRing ((wNet).onStage (fun g => { g with opened := some (1, 0x2000) })) 4 (wEntry 66 [(8, 1, 2), (9, 1, 1)]), 1, 0, wEntry 66 [(8, 1, 2), (9, 1, 1)],
     1, 0x2000, ⟨by decide +kernel, by decide +kernel, by decide +kernel⟩, ⟨by decide +kernel, by decide +kernel⟩, by decide +kernel, by decide +kernel,
     by decide +kernel, by decide +kernel⟩,
   ⟨wRing (wUp) 4 (wEntry 66 [(8, 1, 3), (9, 1, 4)]), 1, 0, wEntry 66 [(8, 1, 3), (9, 1, 4)], 1,
     ⟨by decide +kernel, by decide +kernel, by decide +kernel⟩, ⟨by decide +kernel, by decide +kernel⟩, by decide +kernel, by decide +kernel⟩,
   ⟨wRing (wUp) 4 (wEntry 66 [(8, 1, 3)]), 1, 0, wEntry 66 [(8, 1, 3)], ⟨by decide +kernel, by decide +kernel, by decide +kernel⟩,
     ⟨by decide +kernel, by decide +kernel⟩, by decide +kernel, by decide +kernel, by decide +kernel⟩,
   ⟨wRing ((wNet).onStage (fun g => { g with opened := some (1, 0x2000) })) 4 (wEntry 66 [(8, 1, 3), (9, 1, 1)]), 1, 0, wEntry 66 [(8, 1, 3), (9, 1, 1)],
     1, 0x2000, ⟨by decide +kernel, by decide +kernel, by decide +kernel⟩, ⟨by decide +kernel, by decide +kernel⟩, by decide +kernel, by decide +kernel,
     by decide +kernel, by decide +kernel⟩,
   ⟨wNet.onStage (fun g => { g with job := some { ring := 1, index := 0, op := 2, tkind := 0, chain := 0, position := 0, part := 0, off := 0, fin := 0, targets := [(0, 0, 1, 0)] } }),
     { ring := 1, index := 0, op := 2, tkind := 0, chain := 0, position := 0, part := 0, off := 0, fin := 0, targets := [(0, 0, 1, 0)] },
     by decide +kernel, by decide +kernel, by decide +kernel⟩,
   ⟨wNet.onStage (fun g => { g with job := some { ring := 1, index := 0, op := 2, tkind := 1, chain := 0, position := 0, part := 0, off := 0, fin := 0, targets := [(0, 0, 1, 0)] } }),
     { ring := 1, index := 0, op := 2, tkind := 1, chain := 0, position := 0, part := 0, off := 0, fin := 0, targets := [(0, 0, 1, 0)] }, _,
     by decide +kernel, by decide +kernel, rfl, by decide +kernel⟩⟩

theorem witness_StagePacketCommands :
    (∃ (s u : State) (port : Nat) (packet pl : List Byte), (s.kept port 0x06 packet = (u, some pl)) ∧ (u.io.isTile = true) ∧ (fieldAt pl 0 1 = 0) ∧
      (fieldAt pl 1 1 = 0xFF ∨ fieldAt pl 1 1 = u.io.part)) ∧
    (∃ (s u v : State) (port off : Nat) (packet pl bs : List Byte), (s.kept port 0x06 packet = (u, some pl)) ∧ (u.io.isTile = true) ∧
      (fieldAt pl 0 1 = 1) ∧ (fieldAt pl 1 1 = 0xFF ∨ fieldAt pl 1 1 = u.io.part) ∧ (u.upd = uRECEIVING) ∧
      (u.getF Fld.CTL_UPD_STATE_TXN = fieldAt pl 2 2) ∧ (off = 4096 * fieldAt pl 4 4) ∧ (bs = sub pl 16 (min 4096 (fieldAt pl 8 4))) ∧
      (v = u.stageKeep off bs) ∧ (v.io.boot ≠ stUMBER ∨ v.windowOpen = false ∨ v.eraseOk = false ∨ v.partition 2 = none)) ∧
    (∃ (s u v : State) (port off : Nat) (packet pl bs : List Byte) (q : _), (s.kept port 0x06 packet = (u, some pl)) ∧ (u.io.isTile = true) ∧
      (fieldAt pl 0 1 = 1) ∧ (fieldAt pl 1 1 = 0xFF ∨ fieldAt pl 1 1 = u.io.part) ∧ (u.upd = uRECEIVING) ∧
      (u.getF Fld.CTL_UPD_STATE_TXN = fieldAt pl 2 2) ∧ (off = 4096 * fieldAt pl 4 4) ∧ (bs = sub pl 16 (min 4096 (fieldAt pl 8 4))) ∧
      (v = u.stageKeep off bs) ∧ (v.io.boot = stUMBER) ∧ (v.windowOpen = true) ∧ (v.eraseOk = true) ∧ (v.partition 2 = some q)) ∧
    (∃ (s u : State) (port : Nat) (packet pl : List Byte), (s.kept port 0x06 packet = (u, some pl)) ∧ (u.io.isTile = true) ∧ (fieldAt pl 0 1 = 2) ∧
      (fieldAt pl 1 1 = 0xFF ∨ fieldAt pl 1 1 = u.io.part)) ∧
    (∃ (s u : State) (port : Nat) (packet pl : List Byte), (s.kept port 0x06 packet = (u, some pl)) ∧ (u.io.isTile = true) ∧ (fieldAt pl 0 1 = 3) ∧
      (fieldAt pl 1 1 = 0xFF ∨ fieldAt pl 1 1 = u.io.part)) ∧
    (∃ (s u : State) (port : Nat) (packet pl : List Byte), (s.kept port 0x06 packet = (u, some pl)) ∧ (u.io.isTile = true) ∧ (fieldAt pl 0 1 = 4) ∧
      (fieldAt pl 1 1 = 0xFF ∨ fieldAt pl 1 1 = u.io.part)) ∧
    (∃ (s : State), (s.upd = uPROGRAMMING) ∧ (s.boot.nvm.programWaits = false)) ∧
    (∃ (s : State), (s.upd = uPROGRAMMING) ∧ (s.boot.nvm.programWaits = false) ∧ (s.boot.stage.fails = 0)) ∧
    (∃ (s : State), (s.upd = uPROGRAMMING) ∧ (s.boot.nvm.programWaits = false) ∧ (s.boot.stage.fails ≠ 0)) ∧
    (∃ (s u : State) (port : Nat) (cell : List Byte) (c : Cell), (s.acceptCell port 0x6 cell = (u, some c))) ∧
    (∃ (s : State) (chain position rounds : Nat) (pl : List Byte) (j : StageJob), (s.boot.stage.job = some j) ∧ (j.op = 2) ∧
      (j.targets.find? (fun t => t.1 == chain && t.2.1 == position) = some (chain, position, rounds, 0)) ∧
      (fieldAt pl 0 2 ≠ (s.boot.stage.opened.getD (0, 0)).1 ∨ fieldAt pl 2 1 = uIDLE ∨ fieldAt pl 2 1 = uFAILED)) :=
  ⟨⟨wNode stOPERATIONAL, ((wNode stOPERATIONAL : State).kept (0 : Nat) 0x06 (wPkt 6 (leBytes 1 0 ++ leBytes 1 0xFF ++ zeros 18) : List Byte)).1, 0,
     wPkt 6 (leBytes 1 0 ++ leBytes 1 0xFF ++ zeros 18),
     (((wNode stOPERATIONAL : State).kept (0 : Nat) 0x06 (wPkt 6 (leBytes 1 0 ++ leBytes 1 0xFF ++ zeros 18) : List Byte)).2).get (by decide +kernel),
     by decide +kernel, by decide +kernel, by decide +kernel, by decide +kernel⟩,
   ⟨wSet (wNode stOPERATIONAL) [(Fld.CTL_UPD_STATE_STATE, uRECEIVING)],
     ((wSet (wNode stOPERATIONAL) [(Fld.CTL_UPD_STATE_STATE, uRECEIVING)] : State).kept (0 : Nat) 0x06 (wPkt 6 (leBytes 1 1 ++ leBytes 1 0xFF ++ leBytes 2 0 ++ leBytes 4 1 ++ leBytes 4 4 ++ zeros 8) : List Byte)).1,
     _, 0, _, wPkt 6 (leBytes 1 1 ++ leBytes 1 0xFF ++ leBytes 2 0 ++ leBytes 4 1 ++ leBytes 4 4 ++ zeros 8),
     (((wSet (wNode stOPERATIONAL) [(Fld.CTL_UPD_STATE_STATE, uRECEIVING)] : State).kept (0 : Nat) 0x06 (wPkt 6 (leBytes 1 1 ++ leBytes 1 0xFF ++ leBytes 2 0 ++ leBytes 4 1 ++ leBytes 4 4 ++ zeros 8) : List Byte)).2).get (by decide +kernel),
     _, by decide +kernel, by decide +kernel, by decide +kernel, by decide +kernel, by decide +kernel, by decide +kernel, rfl, rfl, rfl, by decide +kernel⟩,
   ⟨wParts (wSet (wNode stUMBER) [(Fld.CTL_UPD_STATE_STATE, uRECEIVING), (Fld.THM_STATE_WINDOW, 1), (Fld.THM_STATE_ERASE_OK, 1)]),
     ((wParts (wSet (wNode stUMBER) [(Fld.CTL_UPD_STATE_STATE, uRECEIVING), (Fld.THM_STATE_WINDOW, 1), (Fld.THM_STATE_ERASE_OK, 1)]) : State).kept (0 : Nat) 0x06 (wPkt 6 (leBytes 1 1 ++ leBytes 1 0xFF ++ leBytes 2 0 ++ leBytes 4 1 ++ leBytes 4 4 ++ zeros 8) : List Byte)).1,
     _, 0, _, wPkt 6 (leBytes 1 1 ++ leBytes 1 0xFF ++ leBytes 2 0 ++ leBytes 4 1 ++ leBytes 4 4 ++ zeros 8),
     (((wParts (wSet (wNode stUMBER) [(Fld.CTL_UPD_STATE_STATE, uRECEIVING), (Fld.THM_STATE_WINDOW, 1), (Fld.THM_STATE_ERASE_OK, 1)]) : State).kept (0 : Nat) 0x06 (wPkt 6 (leBytes 1 1 ++ leBytes 1 0xFF ++ leBytes 2 0 ++ leBytes 4 1 ++ leBytes 4 4 ++ zeros 8) : List Byte)).2).get (by decide +kernel),
     _, ⟨2, 0x200000, 0x100000⟩, by decide +kernel, by decide +kernel, by decide +kernel, by decide +kernel, by decide +kernel, by decide +kernel, rfl,
     rfl, rfl, by decide +kernel, by decide +kernel, by decide +kernel, (wParts_found _ (by decide +kernel) (by decide +kernel)).2.2⟩,
   ⟨wNode stOPERATIONAL, ((wNode stOPERATIONAL : State).kept (0 : Nat) 0x06 (wPkt 6 (leBytes 1 2 ++ leBytes 1 0xFF ++ zeros 18) : List Byte)).1, 0,
     wPkt 6 (leBytes 1 2 ++ leBytes 1 0xFF ++ zeros 18),
     (((wNode stOPERATIONAL : State).kept (0 : Nat) 0x06 (wPkt 6 (leBytes 1 2 ++ leBytes 1 0xFF ++ zeros 18) : List Byte)).2).get (by decide +kernel),
     by decide +kernel, by decide +kernel, by decide +kernel, by decide +kernel⟩,
   ⟨wNode stOPERATIONAL, ((wNode stOPERATIONAL : State).kept (0 : Nat) 0x06 (wPkt 6 (leBytes 1 3 ++ leBytes 1 0xFF ++ zeros 18) : List Byte)).1, 0,
     wPkt 6 (leBytes 1 3 ++ leBytes 1 0xFF ++ zeros 18),
     (((wNode stOPERATIONAL : State).kept (0 : Nat) 0x06 (wPkt 6 (leBytes 1 3 ++ leBytes 1 0xFF ++ zeros 18) : List Byte)).2).get (by decide +kernel),
     by decide +kernel, by decide +kernel, by decide +kernel, by decide +kernel⟩,
   ⟨wNode stOPERATIONAL, ((wNode stOPERATIONAL : State).kept (0 : Nat) 0x06 (wPkt 6 (leBytes 1 4 ++ leBytes 1 0xFF ++ zeros 18) : List Byte)).1, 0,
     wPkt 6 (leBytes 1 4 ++ leBytes 1 0xFF ++ zeros 18),
     (((wNode stOPERATIONAL : State).kept (0 : Nat) 0x06 (wPkt 6 (leBytes 1 4 ++ leBytes 1 0xFF ++ zeros 18) : List Byte)).2).get (by decide +kernel),
     by decide +kernel, by decide +kernel, by decide +kernel, by decide +kernel⟩,
   ⟨wUp.setF Fld.CTL_UPD_STATE_STATE uPROGRAMMING, by decide +kernel, by decide +kernel⟩,
   ⟨wUp.setF Fld.CTL_UPD_STATE_STATE uPROGRAMMING, by decide +kernel, by decide +kernel, by decide +kernel⟩,
   ⟨(wUp.setF Fld.CTL_UPD_STATE_STATE uPROGRAMMING).onStage (fun g => { g with fails := 1 }), by decide +kernel, by decide +kernel, by decide +kernel⟩,
   ⟨wNet, ((wNet : State).acceptCell (0 : Nat) 0x6 (cellBytes 6 0 0 1 (zeros 20) : List Byte)).1, 0, cellBytes 6 0 0 1 (zeros 20),
     (((wNet : State).acceptCell (0 : Nat) 0x6 (cellBytes 6 0 0 1 (zeros 20) : List Byte)).2).get (by decide +kernel), by decide +kernel⟩,
   ⟨wNet.onStage (fun g => { g with job := some { ring := 1, index := 0, op := 2, tkind := 1, chain := 0, position := 0, part := 0, off := 0, fin := 0, targets := [(0, 0, 0, 0)] }, opened := some (1, 0) }),
     0, 0, 0, zeros 4,
     { ring := 1, index := 0, op := 2, tkind := 1, chain := 0, position := 0, part := 0, off := 0, fin := 0, targets := [(0, 0, 0, 0)] },
     by decide +kernel, by decide +kernel, by decide +kernel, by decide +kernel⟩⟩

theorem witness_ActivationAndAttestation :
    (∃ (s : State) (l : List Nat), (s.io.operational = true) ∧ (s.isF Fld.CTL_BOOT_ACTIVATING = true) ∧ (s.upd ≠ uCOPYING) ∧
      (l = match s.boot.nvm.journal with | .copying l => l | _ => [])) ∧
    (∃ (s u v : State) (sector : Nat) (l : List Nat) (p : Partition), (s.upd = uCOPYING) ∧ (s.windowOpen = true) ∧ (s.boot.nvm.journal = .copying l) ∧
      (s.partition 1 = some p) ∧ (s.nextSector = some sector) ∧
      (u = s.nvmWrite (p.start + 0x10000 * sector) (s.nvmRead (s.boot.base + 0x10000 * sector) (min 0x10000 (leNat (sub s.boot.header 8 4) - 0x10000 * sector)))) ∧
      (v = (u.onNvm (fun v => { v with journal := .copying (l ++ [sector]) })).setF Fld.CTL_UPD_PROGRESS_CHUNKS (16 * (l.length + 1)))) ∧
    (∃ (s : State) (ring i : Nat) (e : List Byte), (s.io.Ready ring i 0x43 true true e) ∧ (s.boot.wallRestart = none) ∧
      (3 < fieldAt e 8 1 ∨ 1 < fieldAt e 13 1 ∨ allZero e 14 2 = false ∨ allZero e 22 42 = false)) ∧
    (∃ (s : State) (ring i : Nat) (e : List Byte), (s.io.Ready ring i 0x43 true true e) ∧ (s.boot.wallRestart = none) ∧ (fieldAt e 8 1 ≤ 3) ∧
      (fieldAt e 13 1 ≤ 1) ∧ (allZero e 14 2 = true) ∧ (allZero e 22 42 = true) ∧ (fieldAt e 16 6 < s.io.tick + 12)) ∧
    (∃ (s : State) (ring i : Nat) (e : List Byte), (s.io.Ready ring i 0x43 true true e) ∧ (s.boot.wallRestart = none) ∧ (fieldAt e 8 1 ≤ 3) ∧
      (fieldAt e 13 1 ≤ 1) ∧ (allZero e 14 2 = true) ∧ (allZero e 22 42 = true) ∧ (s.io.tick + 12 ≤ fieldAt e 16 6) ∧
      (fieldAt e 8 1 = 1 ∨ fieldAt e 8 1 = 2) ∧ (s.outputs.contains (fieldAt e 9 1) = false ∨ s.portState (fieldAt e 9 1) = 4)) ∧
    (∃ (s : State) (ring i : Nat) (e : List Byte), (s.io.Ready ring i 0x43 true true e) ∧ (s.boot.wallRestart = none) ∧ (fieldAt e 8 1 ≤ 3) ∧
      (fieldAt e 13 1 ≤ 1) ∧ (allZero e 14 2 = true) ∧ (allZero e 22 42 = true) ∧ (s.io.tick + 12 ≤ fieldAt e 16 6) ∧
      (fieldAt e 8 1 = 0 ∨ fieldAt e 8 1 = 3 ∨ s.outputs.contains (fieldAt e 9 1) = true ∧ s.portState (fieldAt e 9 1) ≠ 4)) ∧
    (∃ (s u : State) (port : Nat) (packet b : List Byte), (s.keptCmd port 0x02 packet [stJOINING, stOPERATIONAL, stUMBER] = (u, some b)) ∧
      (fieldAt b 6 1 = 0xFF ∨ fieldAt b 6 1 = u.io.part) ∧ (u.io.boot ≠ stOPERATIONAL)) ∧
    (∃ (s u : State) (port : Nat) (packet b : List Byte), (s.keptCmd port 0x02 packet [stJOINING, stOPERATIONAL, stUMBER] = (u, some b)) ∧
      (fieldAt b 6 1 = 0xFF ∨ fieldAt b 6 1 = u.io.part) ∧ (u.io.boot = stOPERATIONAL) ∧ (u.boot.restartAt = none) ∧ (u.boot.restartAfter = none)) ∧
    (∃ (s : State) (ring i : Nat) (e : List Byte), (s.io.Ready ring i 0x06 true (attestFieldsOk e) e) ∧ (fieldAt e 8 1 ≠ 1) ∧ (s.boot.attest = none)) ∧
    (∃ (s : State) (ring i : Nat) (e : List Byte), (s.io.Ready ring i 0x06 true (attestFieldsOk e) e) ∧ (fieldAt e 8 1 = 1) ∧ (s.boot.attestTile = none)) ∧
    (∃ (s v : State) (nonce : Nat) (u : State),
      (v = (List.range 256).foldl (fun s' i => s'.setF (Fld.CTL_ATT_REPORT i) (fieldAt (s.attestReport nonce) (4 * i) 4)) s) ∧
      (u = ((((v.setF Fld.CTL_ATT_STAT_SEQ (v.getF Fld.CTL_ATT_STAT_SEQ + 1)).setF Fld.CTL_ATT_STAT_BUSY 0)).onBoot (fun b => { b with attest := none })).fire 12) ∧
      (s.boot.attest = some (none, nonce))) ∧
    (∃ (s v : State) (nonce : Nat) (u : State) (ring i : _),
      (v = (List.range 256).foldl (fun s' i => s'.setF (Fld.CTL_ATT_REPORT i) (fieldAt (s.attestReport nonce) (4 * i) 4)) s) ∧
      (u = ((((v.setF Fld.CTL_ATT_STAT_SEQ (v.getF Fld.CTL_ATT_STAT_SEQ + 1)).setF Fld.CTL_ATT_STAT_BUSY 0)).onBoot (fun b => { b with attest := none })).fire 12) ∧
      (s.boot.attest = some (some (ring, i), nonce))) ∧
    (∃ (s u : State) (port : Nat) (packet b : List Byte), (s.keptCmd port 0x06 packet [stOPERATIONAL] = (u, some b)) ∧ (u.boot.attest = none)) :=
  ⟨⟨wUp.setF Fld.CTL_BOOT_ACTIVATING 1, _, by decide +kernel, by decide +kernel, by decide +kernel, rfl⟩,
   ⟨((wParts (wSet wUp [(Fld.CTL_UPD_STATE_STATE, uCOPYING), (Fld.THM_STATE_WINDOW, 1)])).onNvm (fun v => { v with journal := .copying [] })).onBoot (fun b => { b with base := 0x200000, header := zeros 8 ++ leBytes 4 0x10000 }),
     _, _, 0, [], ⟨1, 0x100000, 0x100000⟩, by decide +kernel, by decide +kernel, by decide +kernel,
     (wParts_found _ (by decide +kernel) (by decide +kernel)).2.1, by decide +kernel, rfl, rfl⟩,
   ⟨wRing (wNet) 4 (wEntry 67 [(8, 1, 4)]), 1, 0, wEntry 67 [(8, 1, 4)], ⟨by decide +kernel, by decide +kernel, by decide +kernel⟩, by decide +kernel,
     by decide +kernel⟩,
   ⟨wRing (wNet.on (fun io => io)) 4 (wEntry 67 []), 1, 0, wEntry 67 [], ⟨by decide +kernel, by decide +kernel, by decide +kernel⟩, by decide +kernel,
     by decide +kernel, by decide +kernel, by decide +kernel, by decide +kernel, by decide +kernel⟩,
   ⟨wRing (wNet) 4 (wEntry 67 [(8, 1, 1), (9, 1, 3), (16, 6, 100)]), 1, 0, wEntry 67 [(8, 1, 1), (9, 1, 3), (16, 6, 100)],
     ⟨by decide +kernel, by decide +kernel, by decide +kernel⟩, by decide +kernel, by decide +kernel, by decide +kernel, by decide +kernel,
     by decide +kernel, by decide +kernel, by decide +kernel, by decide +kernel⟩,
   ⟨wRing (wNet) 4 (wEntry 67 [(16, 6, 100)]), 1, 0, wEntry 67 [(16, 6, 100)], ⟨by decide +kernel, by decide +kernel, by decide +kernel⟩,
     by decide +kernel, by decide +kernel, by decide +kernel, by decide +kernel, by decide +kernel, by decide +kernel, by decide +kernel⟩,
   ⟨wNode stUMBER,
     ((wNode stUMBER : State).keptCmd (0 : Nat) 0x02 (wCmd 2 (leBytes 6 100 ++ leBytes 1 0xFF ++ zeros 1) : List Byte) [stJOINING, stOPERATIONAL, stUMBER]).1,
     0, wCmd 2 (leBytes 6 100 ++ leBytes 1 0xFF ++ zeros 1),
     (((wNode stUMBER : State).keptCmd (0 : Nat) 0x02 (wCmd 2 (leBytes 6 100 ++ leBytes 1 0xFF ++ zeros 1) : List Byte) [stJOINING, stOPERATIONAL, stUMBER]).2).get (by decide +kernel),
     by decide +kernel, by decide +kernel, by decide +kernel⟩,
   ⟨wNode stOPERATIONAL,
     ((wNode stOPERATIONAL : State).keptCmd (0 : Nat) 0x02 (wCmd 2 (leBytes 6 100 ++ leBytes 1 0xFF ++ zeros 1) : List Byte) [stJOINING, stOPERATIONAL, stUMBER]).1,
     0, wCmd 2 (leBytes 6 100 ++ leBytes 1 0xFF ++ zeros 1),
     (((wNode stOPERATIONAL : State).keptCmd (0 : Nat) 0x02 (wCmd 2 (leBytes 6 100 ++ leBytes 1 0xFF ++ zeros 1) : List Byte) [stJOINING, stOPERATIONAL, stUMBER]).2).get (by decide +kernel),
     by decide +kernel, by decide +kernel, by decide +kernel, by decide +kernel, by decide +kernel⟩,
   ⟨wRing (wNet) 0 (wEntry 6 []), 1, 0, wEntry 6 [], ⟨by decide +kernel, by decide +kernel, by decide +kernel⟩, by decide +kernel, by decide +kernel⟩,
   ⟨wRing (wNet) 0 (wEntry 6 [(8, 1, 1)]), 1, 0, wEntry 6 [(8, 1, 1)], ⟨by decide +kernel, by decide +kernel, by decide +kernel⟩, by decide +kernel,
     by decide +kernel⟩,
   ⟨wUp.onBoot (fun b => { b with attest := some (none, 5) }), _, 5, _, rfl, rfl, by decide +kernel⟩,
   ⟨wUp.onBoot (fun b => { b with attest := some (some (1, 0), 5) }), _, 5, _, 1, 0, rfl, rfl, by decide +kernel⟩,
   ⟨wNode stOPERATIONAL, ((wNode stOPERATIONAL : State).keptCmd (0 : Nat) 0x06 (wCmd 6 (zeros 8) : List Byte) [stOPERATIONAL]).1, 0, wCmd 6 (zeros 8),
     (((wNode stOPERATIONAL : State).keptCmd (0 : Nat) 0x06 (wCmd 6 (zeros 8) : List Byte) [stOPERATIONAL]).2).get (by decide +kernel), by decide +kernel,
     by decide +kernel⟩⟩

theorem witness_TickAndMarkers :
    (∃ (s : State), (s.refUsed = true) ∧ (s.tick.edge = none)) ∧
    (∃ (s : State) (x : Nat) (e0 e : _), (s.refUsed = true) ∧ (s.tick.edge = some e0) ∧ (s.tick.expected = some e) ∧ (s.mode ≠ mFREE) ∧
      (s.mode ≠ mHOLDOVER) ∧ (s.tick.every.length < 7) ∧ (absDiff x e * 50 ≤ s.getF Fld.TCK_REF_PERIOD)) ∧
    (∃ (s : State) (x : Nat) (e0 e : _), (s.refUsed = true) ∧ (s.tick.edge = some e0) ∧ (s.tick.expected = some e) ∧ (s.mode ≠ mFREE) ∧
      (s.mode ≠ mHOLDOVER) ∧ (s.tick.every.length < 7) ∧ (s.getF Fld.TCK_REF_PERIOD < absDiff x e * 50)) ∧
    (∃ (s u : State), (s.serving = true) ∧ (s.isF Fld.TCK_GLK_CFG_ENABLE = true) ∧ (s.mode = mTRACKING ∨ s.mode = mLOCKED ∨ s.mode = mSLEWING) ∧
      (u = s.missEdge) ∧ (s.tick.missing ≠ 2)) ∧
    (∃ (s u : State), (s.serving = true) ∧ (s.isF Fld.TCK_GLK_CFG_ENABLE = true) ∧ (s.mode = mTRACKING ∨ s.mode = mLOCKED ∨ s.mode = mSLEWING) ∧
      (u = s.missEdge) ∧ (s.tick.missing = 2)) ∧
    (∃ (s u : State), (s.serving = true) ∧ (s.isF Fld.TCK_GLK_CFG_ENABLE = true) ∧ (s.mode = mTRACKING ∨ s.mode = mLOCKED ∨ s.mode = mSLEWING) ∧
      (u = s.missEdge)) ∧
    (∃ (s : State) (p g n : _), (s.tick.repeatAt = none) ∧ (s.dueJump = some (p, g)) ∧ (s.tick.next = some n) ∧ (s.serving = true)) ∧
    (∃ (s : State) (n : _), (s.tick.repeatAt = some n) ∧ (s.follows = true)) ∧
    (∃ (s : State) (p offset : Nat), (s.sendsTime p = true) ∧ (offset ≤ 65) ∧ (p = pairPort)) ∧
    (∃ (s : State) (p offset : Nat) (i : _), (s.sendsTime p = true) ∧ (offset ≤ 65) ∧ (p ≠ pairPort) ∧ (s.slotOn (p / 4) 0x08 (25 + p % 4) = some i)) ∧
    (∃ (s : State) (p offset : Nat), (s.sendsTime p = true) ∧ (offset ≤ 65) ∧ (s.dueJump = none) ∧ (s.tick.pending = [])) ∧
    (∃ (s : State) (p payload x : Nat), (s.io.isTile = true) ∧ (p ≠ pairPort) ∧
      ((s.countMarker p payload x).selected = none ∨ (s.countMarker p payload x).selected = some p)) ∧
    (∃ (s : State) (p payload x : Nat), (s.io.isTile = true) ∧ (p ≠ pairPort) ∧ ((s.countMarker p payload x).io.isTile = true) ∧
      (∃ q, q ≠ p ∧ (s.countMarker p payload x).selected = some q)) ∧
    (∃ (s : State), (s.io.isTile = true) ∧ (s.follows = true) ∧ (s.tick.marked = true) ∧ (s.selected = none)) ∧
    (∃ (s : State), (s.tickReady = true) ∧ (s.boot.pwrgood = true) ∧ (s.boot.power < 2) ∧ (s.boot.held = false) ∧ (stTRAINING ≤ s.io.boot) ∧
      (s.io.boot ≤ stOPERATIONAL)) ∧
    (∃ (s : State) (n : Nat), (s.tick.next = some n)) :=
  ⟨⟨wSet wUp [(Fld.TCK_GLK_CFG_ENABLE, 1), (Fld.TCK_STATE_MODE, mFREE), (Fld.TCK_REF_PERIOD, 1000)], by decide +kernel, by decide +kernel⟩,
   ⟨{ wSet wUp [(Fld.TCK_GLK_CFG_ENABLE, 1), (Fld.TCK_STATE_MODE, mLOCKED), (Fld.TCK_REF_PERIOD, 1000)] with tick := { (wSet wUp [(Fld.TCK_GLK_CFG_ENABLE, 1), (Fld.TCK_STATE_MODE, mLOCKED), (Fld.TCK_REF_PERIOD, 1000)]).tick with edge := some 4000, expected := some 5000 } },
     5001, 4000, 5000, by decide +kernel, by decide +kernel, by decide +kernel, by decide +kernel, by decide +kernel, by decide +kernel, by decide +kernel⟩,
   ⟨{ wSet wUp [(Fld.TCK_GLK_CFG_ENABLE, 1), (Fld.TCK_STATE_MODE, mLOCKED), (Fld.TCK_REF_PERIOD, 1000)] with tick := { (wSet wUp [(Fld.TCK_GLK_CFG_ENABLE, 1), (Fld.TCK_STATE_MODE, mLOCKED), (Fld.TCK_REF_PERIOD, 1000)]).tick with edge := some 4000, expected := some 5000 } },
     5500, 4000, 5000, by decide +kernel, by decide +kernel, by decide +kernel, by decide +kernel, by decide +kernel, by decide +kernel, by decide +kernel⟩,
   ⟨wSet wUp [(Fld.TCK_GLK_CFG_ENABLE, 1), (Fld.TCK_STATE_MODE, mLOCKED), (Fld.TCK_REF_PERIOD, 1000)], _, by decide +kernel, by decide +kernel,
     by decide +kernel, rfl, by decide +kernel⟩,
   ⟨{ wSet wUp [(Fld.TCK_GLK_CFG_ENABLE, 1), (Fld.TCK_STATE_MODE, mLOCKED), (Fld.TCK_REF_PERIOD, 1000)] with tick := { (wSet wUp [(Fld.TCK_GLK_CFG_ENABLE, 1), (Fld.TCK_STATE_MODE, mLOCKED), (Fld.TCK_REF_PERIOD, 1000)]).tick with missing := 2 } },
     _, by decide +kernel, by decide +kernel, by decide +kernel, rfl, by decide +kernel⟩,
   ⟨wSet wUp [(Fld.TCK_GLK_CFG_ENABLE, 1), (Fld.TCK_STATE_MODE, mTRACKING), (Fld.TCK_REF_PERIOD, 1000)], _, by decide +kernel, by decide +kernel,
     by decide +kernel, rfl⟩,
   ⟨{ wUp with tick := { (wUp).tick with pending := [{ mode := mTRACKING, rateSet := 0, period := 1000, jump := true }], next := some 1500 } },
     ((({ wUp with tick := { (wUp).tick with pending := [{ mode := mTRACKING, rateSet := 0, period := 1000, jump := true }], next := some 1500 } } : State).dueJump).get (by decide +kernel)).1,
     ((({ wUp with tick := { (wUp).tick with pending := [{ mode := mTRACKING, rateSet := 0, period := 1000, jump := true }], next := some 1500 } } : State).dueJump).get (by decide +kernel)).2,
     (({ wUp with tick := { (wUp).tick with pending := [{ mode := mTRACKING, rateSet := 0, period := 1000, jump := true }], next := some 1500 } } : State).tick.next).get (by decide +kernel),
     by decide +kernel, by decide +kernel, by decide +kernel, by decide +kernel⟩,
   ⟨{ wTile with tick := { (wTile).tick with repeatAt := some 5000, next := some 6000 } }, 5000, by decide +kernel, by decide +kernel⟩,
   ⟨wSet wUp [(Fld.PAIR_STATE_STATE, pACTIVE), (Fld.LNK_STATE_STATE 4 0, 2)], pairPort, 3, by decide +kernel, by decide +kernel, by decide +kernel⟩,
   ⟨wSlot ({ wNet with tick := { (wNet).tick with next := some 20000000 } }) 8 25 0, 0, 65, 0, by decide +kernel, by decide +kernel, by decide +kernel,
     by decide +kernel⟩,
   ⟨{ wNet with tick := { (wNet).tick with next := some 20000000 } }, 0, 0, by decide +kernel, by decide +kernel, by decide +kernel, by decide +kernel⟩,
   ⟨wTile, 0, 0, 0, by decide +kernel, by decide +kernel, by decide +kernel⟩,
   ⟨wSet wTile [(Fld.LNK_STATE_SELECTED 0 1, 1)], 0, 0, 0, by decide +kernel, by decide +kernel, by decide +kernel,
     ⟨1, by decide +kernel, by decide +kernel⟩⟩,
   ⟨{ wTile with tick := { (wTile).tick with marked := true } }, by decide +kernel, by decide +kernel, by decide +kernel, by decide +kernel⟩,
   ⟨{ wUp with tick := { (wUp).tick with next := some 5000 } }, by decide +kernel, by decide +kernel, by decide +kernel, by decide +kernel,
     by decide +kernel, by decide +kernel⟩,
   ⟨{ wUp with tick := { (wUp).tick with next := some 5000 } }, 5000, by decide +kernel⟩⟩

theorem witness_EnumerationAndDelays :
    (∃ (s : State) (p x n : Nat) (r : Route), (s.route p = some r) ∧ (s.tick.next = some n) ∧ (s.transmits p = true) ∧ (s.portUp p = true) ∧
      (x + 6400000 < n)) ∧
    (∃ (s : State) (payload pos : Nat), (s.io.isTile = true) ∧ (wordOk payload = true) ∧ (wordType payload = 0x09) ∧ (enumPosition payload = some pos) ∧
      (s.isF Fld.CTL_TILE_ADDR_VALID = true)) ∧
    (∃ (s : State) (p payload pos : Nat) (u : State), (s.io.isTile = true) ∧ (wordOk payload = true) ∧ (wordType payload = 0x09) ∧
      (enumPosition payload = some pos) ∧ (u = (s.passEnum p payload).takeAddress p (bits payload 8 4) pos (bits payload 19 1) (bits payload 27 24)) ∧
      (s.isF Fld.CTL_TILE_ADDR_VALID = false) ∧ (u.isF Fld.CTL_TILE_ADDR_VALID = true)) ∧
    (∃ (s : State) (p chain pos : Nat), (p ≤ 1) ∧ (chain < 16) ∧ (pos < 64) ∧ (s.tick.marked = false) ∧ ((s.positionOf chain pos).isSome = true)) ∧
    (∃ (s : State) (p k : Nat), (s.sendsTime p = true) ∧ (s.probePosition p = k) ∧ (p = pairPort)) ∧
    (∃ (s : State) (p k : Nat) (i : _), (s.sendsTime p = true) ∧ (s.probePosition p = k) ∧ (p ≠ pairPort) ∧ (s.tick.inGap = false) ∧
      (s.slotOn (p / 4) 0x0F (25 + p % 4) = some i)) ∧
    (∃ (s : State) (p k : Nat), (s.sendsTime p = true) ∧ (s.probePosition p = k)) ∧
    (∃ (s : State) (p payload : Nat), (wordOk payload = true) ∧ (wordType payload = 0x08) ∧ (s.io.isTile = true → s.forwardFrom p = true) ∧
      (s.io.isTile = true) ∧ (s.probeMine p (bits payload 8 7) = true)) ∧
    (∃ (s : State) (p payload : Nat), (wordOk payload = true) ∧ (wordType payload = 0x08) ∧ (s.io.isTile = true → s.forwardFrom p = true) ∧
      (s.io.isTile = false) ∧ (s.probeMine p (bits payload 8 7) = true)) ∧
    (∃ (s : State) (p payload : Nat), (wordOk payload = true) ∧ (wordType payload = 0x08) ∧ (s.io.isTile = true → s.forwardFrom p = true) ∧
      (s.probeMine p (bits payload 8 7) = false)) ∧
    (∃ (port : Nat) (cell : List Byte), (port = pairPort) ∧ ((readCell cell).crcOk = true) ∧ ((readCell cell).ptype = 5)) ∧
    (∃ (s : State) (port : Nat) (cell : List Byte) (u : State) (c : Cell), (port ≠ pairPort) ∧ (s.acceptCell port 0x5 cell = (u, some c))) ∧
    (∃ (s : State) (p : Nat) (packet : List Byte) (u pl : _), (p ≠ pairPort) ∧ (s.kept p 0x05 packet = (u, some pl))) ∧
    (∃ (s : State) (p : Nat) (packet : List Byte) (h pl : _), (p = pairPort) ∧ (readPacket packet = .packet h pl true) ∧ (h.ptype = 5) ∧
      (pJOINING ≤ s.pair)) ∧
    (∃ (s : State) (n i : Nat) (e : Lane) (r : Running), (s.tick.lanes.find? (fun e => e.region == n && (e.running.map (·.slot)) == some i) = some e) ∧
      (e.running = some r)) :=
  ⟨⟨{ wNet with tick := { (wNet).tick with next := some 20000000 } }, 0, 1000,
     (({ wNet with tick := { (wNet).tick with next := some 20000000 } } : State).tick.next).get (by decide +kernel),
     (({ wNet with tick := { (wNet).tick with next := some 20000000 } } : State).route (0 : Nat)).get (by decide +kernel), by decide +kernel,
     by decide +kernel, by decide +kernel, by decide +kernel, by decide +kernel⟩,
   ⟨wNode stOPERATIONAL, sealWord (0x09 + 2 ^ 12 * 2), 0, by decide +kernel, by decide +kernel, by decide +kernel, by decide +kernel, by decide +kernel⟩,
   ⟨wPort (wPlan (wTileIn stJOINING)), 0, sealWord (0x09 + 2 ^ 12 * 2), 0, _, by decide +kernel, by decide +kernel, by decide +kernel, by decide +kernel,
     rfl, by decide +kernel, by decide +kernel⟩,
   ⟨wPort (wPlan (wTileIn stJOINING)), 0, 0, 0, by decide +kernel, by decide +kernel, by decide +kernel, by decide +kernel, by decide +kernel⟩,
   ⟨wSet wUp [(Fld.PAIR_STATE_STATE, pACTIVE), (Fld.LNK_STATE_STATE 4 0, 2)], pairPort,
     (wSet wUp [(Fld.PAIR_STATE_STATE, pACTIVE), (Fld.LNK_STATE_STATE 4 0, 2)] : State).probePosition (pairPort : Nat), by decide +kernel,
     by decide +kernel, by decide +kernel⟩,
   ⟨wSlot ({ wNet with tick := { (wNet).tick with next := some 20000000 } }) 0xF 25 0, 0,
     (wSlot ({ wNet with tick := { (wNet).tick with next := some 20000000 } }) 0xF 25 0 : State).probePosition (0 : Nat), 0, by decide +kernel,
     by decide +kernel, by decide +kernel, by decide +kernel, by decide +kernel⟩,
   ⟨{ wNet with tick := { (wNet).tick with next := some 20000000 } }, 0,
     ({ wNet with tick := { (wNet).tick with next := some 20000000 } } : State).probePosition (0 : Nat), by decide +kernel, by decide +kernel⟩,
   ⟨wNode stOPERATIONAL, 0, sealWord 0x08, by decide +kernel, by decide +kernel, fun _ => by decide +kernel, by decide +kernel, by decide +kernel⟩,
   ⟨wPort { wUp with plan := { wUp.plan with routes := [{ chain := 0, tiles := 0, ring := true }] } } |>.onBoot (fun b => { b with silent := true }), 0,
     sealWord 0x08, by decide +kernel, by decide +kernel, fun h => absurd h (by decide +kernel), by decide +kernel, by decide +kernel⟩,
   ⟨wNode stOPERATIONAL, 0, sealWord (0x08 + 256), by decide +kernel, by decide +kernel, fun _ => by decide +kernel, by decide +kernel⟩,
   ⟨pairPort, cellBytes 5 0 0 1 (zeros 20), by decide +kernel, by decide +kernel, by decide +kernel⟩,
   ⟨wNet, 0, cellBytes 5 0 0 1 (zeros 20), ((wNet : State).acceptCell (0 : Nat) 0x5 (cellBytes 5 0 0 1 (zeros 20) : List Byte)).1,
     (((wNet : State).acceptCell (0 : Nat) 0x5 (cellBytes 5 0 0 1 (zeros 20) : List Byte)).2).get (by decide +kernel), by decide +kernel, by decide +kernel⟩,
   ⟨wNode stOPERATIONAL, 0, wPkt 5 (zeros 8), ((wNode stOPERATIONAL : State).kept (0 : Nat) 0x05 (wPkt 5 (zeros 8) : List Byte)).1,
     (((wNode stOPERATIONAL : State).kept (0 : Nat) 0x05 (wPkt 5 (zeros 8) : List Byte)).2).get (by decide +kernel), by decide +kernel, by decide +kernel⟩,
   ⟨wSet wUp [(Fld.PAIR_STATE_STATE, pJOINING), (Fld.LNK_STATE_STATE 4 0, 2)], pairPort, wPkt 5 (zeros 8), ⟨5, false, 2, 0, 0⟩, zeros 8,
     by decide +kernel, by decide +kernel, by decide +kernel, by decide +kernel⟩,
   ⟨{ wUp with tick := { (wUp).tick with lanes := [{ region := 0, lane := 2, late := 0, prevEnd := 0, running := some { slot := 0, entry := { nomStart := 0, kind := 1, nomDur := 100, lane := 2, minDur := 10, depValid := false, dep := 0, operand := 0 }, start := 0, allot := 100, base := 0 } }] } },
     0, 0,
     { region := 0, lane := 2, late := 0, prevEnd := 0, running := some { slot := 0, entry := { nomStart := 0, kind := 1, nomDur := 100, lane := 2, minDur := 10, depValid := false, dep := 0, operand := 0 }, start := 0, allot := 100, base := 0 } },
     { slot := 0, entry := { nomStart := 0, kind := 1, nomDur := 100, lane := 2, minDur := 10, depValid := false, dep := 0, operand := 0 }, start := 0, allot := 100, base := 0 },
     by decide +kernel, by decide +kernel⟩⟩

theorem witness_LinkTraining :
    (∃ (s : State) (port : Nat), (s.portState port ≠ 0)) ∧
    (∃ (s : State) (p : Nat), (p ≠ pairPort) ∧ (p < s.link.ports.length) ∧ (s.portUp p = true)) ∧
    (∃ (s : State) (port : Nat), (s.portUp port = true)) ∧
    (∃ (s : State) (port offer : Nat) (ts2 : Bool) (u v : State), ((s.port port).trying = true) ∧ ((s.port port).agreed = false) ∧
      (u = s.setPort port { s.port port with ts2 := true, farOffer := offer }) ∧
      (v = (if (s.port port).ts2 then u else u.on (·.emit (.training port 2)))) ∧ (ts2 = true) ∧ (¬ (v.offer port = 3 ∧ offer = 3))) ∧
    (∃ (s : State) (port offer : Nat) (ts2 : Bool) (u v : State), ((s.port port).trying = true) ∧ ((s.port port).agreed = false) ∧
      (u = s.setPort port { s.port port with ts2 := true, farOffer := offer }) ∧
      (v = (if (s.port port).ts2 then u else u.on (·.emit (.training port 2)))) ∧ (ts2 = false ∨ (v.offer port = 3 ∧ offer = 3))) ∧
    (∃ (s : State) (port ctle t1 t2 t3 fom skew : Nat) (u : State), ((s.port port).trying = true) ∧ ((s.port port).agreed = true) ∧
      (u = ((s.on (fun io => (((io.setF (Fld.LNK_FOM_CTLE (port / 4) (port % 4)) ctle).setF (Fld.LNK_DFE_TAP1 (port / 4) (port % 4)) t1).setF (Fld.LNK_DFE_TAP2 (port / 4) (port % 4)) t2).setF (Fld.LNK_DFE_TAP3 (port / 4) (port % 4)) t3)).portF Fld.LNK_DESKEW_SKEW port skew).portF Fld.LNK_FOM_FOM port fom) ∧
      (u.getF Fld.LNK_EQ_CFG_FOM_MIN ≤ fom)) ∧
    (∃ (s : State) (port ctle t1 t2 t3 fom skew : Nat) (u : State), ((s.port port).trying = true) ∧ ((s.port port).agreed = true) ∧
      (u = ((s.on (fun io => (((io.setF (Fld.LNK_FOM_CTLE (port / 4) (port % 4)) ctle).setF (Fld.LNK_DFE_TAP1 (port / 4) (port % 4)) t1).setF (Fld.LNK_DFE_TAP2 (port / 4) (port % 4)) t2).setF (Fld.LNK_DFE_TAP3 (port / 4) (port % 4)) t3)).portF Fld.LNK_DESKEW_SKEW port skew).portF Fld.LNK_FOM_FOM port fom) ∧
      (fom < u.getF Fld.LNK_EQ_CFG_FOM_MIN)) ∧
    (∃ (s : State) (port : Nat), ((s.port port).idle = true)) ∧
    (∃ (s : State) (port : Nat), (s.awaitsOffer port = false) ∧ ((s.port port).trying = true)) ∧
    (∃ (s : State) (port : Nat), (s.portState port = 1 ∨ s.portState port = 3) ∧ ((s.port port).trying = false)) ∧
    (∃ (s : State) (port : Nat), (s.portState port = 4)) ∧
    (∃ (s : State) (port ew eh : Nat), (s.portUp port = true) ∧ (port < s.link.ports.length) ∧ (s.getF Fld.LNK_EQ_CFG_FOM_DOWN ≤ min (min ew eh) 255)) ∧
    (∃ (s : State) (port : Nat), (s.portUp port = true) ∧ (port < s.link.ports.length)) ∧
    (∃ (s : State) (port k : Nat) (c : List Nat), (port < s.link.ports.length) ∧ ((s.port port).adopt = some k) ∧
      (eqCandidate k (s.eqSettings port) = some c)) :=
  ⟨⟨wNet, 0, by decide +kernel⟩,
   ⟨wNet, 0, by decide +kernel, by decide +kernel, by decide +kernel⟩,
   ⟨wNet, 0, by decide +kernel⟩,
   ⟨(wNet).setPort 0 { (wNet).port 0 with trying := true }, 0, 0, true, _, _, by decide +kernel, by decide +kernel, rfl, rfl, by decide +kernel,
     by decide +kernel⟩,
   ⟨(wNet).setPort 0 { (wNet).port 0 with trying := true }, 0, 0, false, _, _, by decide +kernel, by decide +kernel, rfl, rfl, by decide +kernel⟩,
   ⟨(wNet).setPort 0 { (wNet).port 0 with trying := true, agreed := true }, 0, 0, 0, 0, 0, 255, 0, _, by decide +kernel, by decide +kernel, rfl,
     by decide +kernel⟩,
   ⟨(wSet wNet [(Fld.LNK_EQ_CFG_FOM_MIN, 9)]).setPort 0 { (wSet wNet [(Fld.LNK_EQ_CFG_FOM_MIN, 9)]).port 0 with trying := true, agreed := true }, 0, 0,
     0, 0, 0, 0, 0, _, by decide +kernel, by decide +kernel, rfl, by decide +kernel⟩,
   ⟨(wNet).setPort 0 { (wNet).port 0 with idle := true }, 0, by decide +kernel⟩,
   ⟨(wNet).setPort 0 { (wNet).port 0 with trying := true, farOffer := 0 }, 0, by decide +kernel, by decide +kernel⟩,
   ⟨wSet wNet [(Fld.LNK_STATE_STATE 0 0, 1)], 0, by decide +kernel, by decide +kernel⟩,
   ⟨wSet wNet [(Fld.LNK_STATE_STATE 0 0, 4)], 0, by decide +kernel⟩,
   ⟨wNet, 0, 255, 255, by decide +kernel, by decide +kernel, by decide +kernel⟩,
   ⟨wNet, 0, by decide +kernel, by decide +kernel⟩,
   ⟨(wNet).setPort 0 { (wNet).port 0 with adopt := some 0 }, 0, 0, _, by decide +kernel, by decide +kernel, rfl⟩⟩

theorem witness_ReturnChannel :
    (∃ (s : State) (port : Nat), (port < s.link.ports.length) ∧ (s.portUp port = true) ∧ ((s.transmits port || s.originates port) = true)) ∧
    (∃ (s u : State) (port : Nat) (packet pl : List Byte) (h : PacketHead) (ok : Bool), (s.takePacket port packet = (u, some (h, pl, ok))) ∧
      (h.ptype = 0 ∨ 8 ≤ h.ptype)) ∧
    (∃ (s u : State) (p : Nat), (s.drainForward = u) ∧ (s.io.isTile = true) ∧ (u.selected = some p) ∧ (u.nextReturn = none)) ∧
    (∃ (s u : State) (cell alignSeq p : Nat) (q : RetPacket), (s.drainForward = u) ∧ (s.io.isTile = true) ∧ (u.selected = some p) ∧
      (u.nextReturn = some q) ∧ (u.mayFill cell alignSeq = false)) ∧
    (∃ (s u : State) (cell alignSeq p : Nat) (q : RetPacket), (s.drainForward = u) ∧ (s.io.isTile = true) ∧ (u.selected = some p) ∧
      (u.nextReturn = some q) ∧ (u.mayFill cell alignSeq = true)) ∧
    (∃ (s : State), (s.io.isTile = true)) ∧
    (∃ (s : State) (port : Nat) (cell : List Byte), (s.io.isTile = false) ∧ (s.io.hasHost = true) ∧ (s.cellBad port (readCell cell) = true)) ∧
    (∃ (s u : State) (port : Nat) (cell : List Byte) (c : Cell), (s.acceptCell port 0x2 cell = (u, some c))) ∧
    (∃ (s u : State) (port : Nat) (cell : List Byte) (c : Cell), (s.acceptCell port 0x4 cell = (u, some c)) ∧ (fieldAt c.payload 6 1 = 0)) ∧
    (∃ (s u : State) (port : Nat) (cell : List Byte) (c : Cell), (s.acceptCell port 0x4 cell = (u, some c)) ∧ (fieldAt c.payload 6 1 = 1)) ∧
    (∃ (s u : State) (port : Nat) (cell : List Byte) (c : Cell), (s.acceptCell port 0x4 cell = (u, some c)) ∧ (2 ≤ fieldAt c.payload 6 1)) ∧
    (∃ (s : State) (chain position : Nat), (s.io.hasHost = true) ∧ ((s.tile chain position).admitted = true) ∧ ((s.tile chain position).stale = false)) ∧
    (∃ (s : State) (ring i : Nat) (e : List Byte), (s.io.Ready ring i 0x41 true (remoteFieldsOk e) e) ∧ (1 < fieldAt e 10 1)) ∧
    (∃ (s : State) (ring i : Nat) (e : List Byte), (s.io.Ready ring i 0x41 true (remoteFieldsOk e) e) ∧ (fieldAt e 10 1 = 0) ∧
      (s.isOutput (fieldAt e 8 1) = false)) ∧
    (∃ (s : State) (ring i : Nat) (e : List Byte), (s.io.Ready ring i 0x41 true (remoteFieldsOk e) e) ∧ (fieldAt e 10 1 = 0) ∧
      (s.isOutput (fieldAt e 8 1) = true) ∧ (s.portState (fieldAt e 8 1) = 4)) ∧
    (∃ (s : State) (ring i : Nat) (e : List Byte), (s.io.Ready ring i 0x41 true (remoteFieldsOk e) e) ∧ (fieldAt e 10 1 = 0) ∧
      (s.isOutput (fieldAt e 8 1) = true) ∧ (s.portState (fieldAt e 8 1) ≠ 4)) ∧
    (∃ (s : State) (ring i : Nat) (e : List Byte), (s.io.Ready ring i 0x41 true (remoteFieldsOk e) e) ∧ (fieldAt e 10 1 = 1) ∧
      (s.isOutput (fieldAt e 8 1) = false)) ∧
    (∃ (s : State) (ring i : Nat) (e : List Byte), (s.io.Ready ring i 0x41 true (remoteFieldsOk e) e) ∧ (fieldAt e 10 1 = 1) ∧
      (s.isOutput (fieldAt e 8 1) = true) ∧ (s.portState (fieldAt e 8 1) = 4)) ∧
    (∃ (s : State) (ring i : Nat) (e : List Byte), (s.io.Ready ring i 0x41 true (remoteFieldsOk e) e) ∧ (fieldAt e 10 1 = 1) ∧
      (s.isOutput (fieldAt e 8 1) = true) ∧ (s.portState (fieldAt e 8 1) ≠ 4)) ∧
    (∃ (s u : State) (port : Nat) (cell : List Byte) (c : Cell), (s.acceptCell port 0x3 cell = (u, some c))) ∧
    (∃ (s : State) (chain pos : Nat) (pl e : List Byte) (w : RegWait) (i : Nat),
      (s.link.regs.find? (fun w => w.chain == chain && w.position == pos && w.tag == fieldAt pl 0 2) = some w) ∧ (w.ring ≠ attestRing) ∧
      (w.ring ≠ pollRing) ∧ ((s.io.ring w.ring).active.find? (fun a => a.1 == w.index) = some (i, e))) ∧
    (∃ (s : State) (chain tag : Nat) (w : RegWait) (u : State) (i e : _), (s.link.regs.find? (fun w => w.chain == chain && w.tag == tag) = some w) ∧
      (w.ring ≠ attestRing) ∧ (w.sent + max 1 (s.getF Fld.LNK_CFG_REG_TIMEOUT) ≤ s.io.tick) ∧ (s.getF Fld.LNK_CFG_RETRY_MAX ≤ w.repeats) ∧
      (u = ({ s with link := { s.link with regs := eraseFirst (· == w) s.link.regs } } : State).on (·.fireObj 265 (some (chain / 4)) (chain % 4))) ∧
      ((u.io.ring w.ring).active.find? (fun a => a.1 == w.index) = some (i, e))) ∧
    (∃ (s : State) (chain tag : Nat) (w : RegWait) (u : State), (s.link.regs.find? (fun w => w.chain == chain && w.tag == tag) = some w) ∧
      (w.ring ≠ attestRing) ∧ (w.sent + max 1 (s.getF Fld.LNK_CFG_REG_TIMEOUT) ≤ s.io.tick) ∧ (s.getF Fld.LNK_CFG_RETRY_MAX ≤ w.repeats) ∧
      (u = ({ s with link := { s.link with regs := eraseFirst (· == w) s.link.regs } } : State).on (·.fireObj 265 (some (chain / 4)) (chain % 4))) ∧
      ((u.io.ring w.ring).active.find? (fun a => a.1 == w.index) = none)) ∧
    (∃ (s : State) (chain tag : Nat) (w : RegWait), (s.link.regs.find? (fun w => w.chain == chain && w.tag == tag) = some w) ∧ (w.ring ≠ attestRing) ∧
      (s.io.tick < w.sent + max 1 (s.getF Fld.LNK_CFG_REG_TIMEOUT))) ∧
    (∃ (s : State) (port : Nat) (packet : List Byte) (c : CascadePort) (u : State) (h : PacketHead) (pl : List Byte) (cells : _), (s.io.isTile = false) ∧
      (s.cascadePort port = some c) ∧ (s.takePacket port packet = (u, some (h, pl, true))) ∧ (h.ptype = 3) ∧
      (cells = (u.decoder (port + 1)).cells.filter (fun x => !((List.range (pl.length / 4)).map (fun i => fieldAt pl (4 * i) 4)).any (fun w => decide (bits w 0 4 = c.chain ∧ bits w 4 6 = c.position ∧ bits w 10 8 = x.1))))) ∧
    (∃ (s : State) (seq stream : Nat) (c : CascadePort) (sent k : Nat) (pl : List Byte), (stream ≠ 0) ∧
      ((s.decoder stream).cells.find? (fun x => x.1 == seq) = some (seq, sent, k, pl)) ∧ (s.cascadePort (stream - 1) = some c) ∧
      (sent + max 1 (s.getF Fld.LNK_CFG_ACK_TIMEOUT) ≤ s.io.tick) ∧ (k < s.getF Fld.LNK_CFG_RETRY_MAX)) ∧
    (∃ (s : State) (seq stream : Nat) (c : CascadePort) (sent k : Nat) (pl : List Byte), (stream ≠ 0) ∧
      ((s.decoder stream).cells.find? (fun x => x.1 == seq) = some (seq, sent, k, pl)) ∧ (s.cascadePort (stream - 1) = some c) ∧
      (sent + max 1 (s.getF Fld.LNK_CFG_ACK_TIMEOUT) ≤ s.io.tick) ∧ (s.getF Fld.LNK_CFG_RETRY_MAX ≤ k)) :=
  ⟨⟨wNet, 0, by decide +kernel, by decide +kernel, by decide +kernel⟩,
   ⟨wNode stOPERATIONAL, ((wNode stOPERATIONAL : State).takePacket (0 : Nat) (wPkt 9 (zeros 4) : List Byte)).1, 0, wPkt 9 (zeros 4),
     ((((wNode stOPERATIONAL : State).takePacket (0 : Nat) (wPkt 9 (zeros 4) : List Byte)).2).get (by decide +kernel)).2.1,
     ((((wNode stOPERATIONAL : State).takePacket (0 : Nat) (wPkt 9 (zeros 4) : List Byte)).2).get (by decide +kernel)).1,
     ((((wNode stOPERATIONAL : State).takePacket (0 : Nat) (wPkt 9 (zeros 4) : List Byte)).2).get (by decide +kernel)).2.2, by decide +kernel,
     by decide +kernel⟩,
   ⟨wNode stOPERATIONAL, _, 0, rfl, by decide +kernel, by decide +kernel, by decide +kernel⟩,
   ⟨{ wSet (wNode stOPERATIONAL) [(Fld.CTL_TILE_ADDR_POSITION, 1)] with link := { (wSet (wNode stOPERATIONAL) [(Fld.CTL_TILE_ADDR_POSITION, 1)]).link with waiting := [{ ptype := 4, payload := zeros 20, seq := none, sent := 0, repeats := 0 }], chainLen := 2 } },
     _, 0, 0, 0, { ptype := 4, payload := zeros 20, seq := none, sent := 0, repeats := 0 }, rfl, by decide +kernel, by decide +kernel, by decide +kernel,
     by decide +kernel⟩,
   ⟨{ wNode stOPERATIONAL with link := { (wNode stOPERATIONAL).link with waiting := [{ ptype := 4, payload := zeros 20, seq := none, sent := 0, repeats := 0 }], chainLen := 2 } },
     _, 0, 0, 0, { ptype := 4, payload := zeros 20, seq := none, sent := 0, repeats := 0 }, rfl, by decide +kernel, by decide +kernel, by decide +kernel,
     by decide +kernel⟩,
   ⟨wTile, by decide +kernel⟩,
   ⟨wUp, 0, [], by decide +kernel, by decide +kernel, by decide +kernel⟩,
   ⟨wNet, ((wNet : State).acceptCell (0 : Nat) 0x2 (cellBytes 2 0 0 1 (zeros 20) : List Byte)).1, 0, cellBytes 2 0 0 1 (zeros 20),
     (((wNet : State).acceptCell (0 : Nat) 0x2 (cellBytes 2 0 0 1 (zeros 20) : List Byte)).2).get (by decide +kernel), by decide +kernel⟩,
   ⟨wNet, ((wNet : State).acceptCell (0 : Nat) 0x4 (cellBytes 4 0 0 1 (zeros 20) : List Byte)).1, 0, cellBytes 4 0 0 1 (zeros 20),
     (((wNet : State).acceptCell (0 : Nat) 0x4 (cellBytes 4 0 0 1 (zeros 20) : List Byte)).2).get (by decide +kernel), by decide +kernel, by decide +kernel⟩,
   ⟨wNet, ((wNet : State).acceptCell (0 : Nat) 0x4 (cellBytes 4 0 0 1 (zeros 6 ++ [1] ++ zeros 13) : List Byte)).1, 0,
     cellBytes 4 0 0 1 (zeros 6 ++ [1] ++ zeros 13),
     (((wNet : State).acceptCell (0 : Nat) 0x4 (cellBytes 4 0 0 1 (zeros 6 ++ [1] ++ zeros 13) : List Byte)).2).get (by decide +kernel),
     by decide +kernel, by decide +kernel⟩,
   ⟨wNet, ((wNet : State).acceptCell (0 : Nat) 0x4 (cellBytes 4 0 0 1 (zeros 6 ++ [2] ++ zeros 13) : List Byte)).1, 0,
     cellBytes 4 0 0 1 (zeros 6 ++ [2] ++ zeros 13),
     (((wNet : State).acceptCell (0 : Nat) 0x4 (cellBytes 4 0 0 1 (zeros 6 ++ [2] ++ zeros 13) : List Byte)).2).get (by decide +kernel),
     by decide +kernel, by decide +kernel⟩,
   ⟨wNet.setTile { wNet.tile 0 0 with admitted := true, stale := false }, 0, 0, by decide +kernel, by decide +kernel, by decide +kernel⟩,
   ⟨wRing (wNet) 4 (wEntry 65 [(10, 1, 2)]), 1, 0, wEntry 65 [(10, 1, 2)], ⟨by decide +kernel, by decide +kernel, by decide +kernel⟩, by decide +kernel⟩,
   ⟨wRing (wUp) 4 (wEntry 65 [(10, 1, 0)]), 1, 0, wEntry 65 [(10, 1, 0)], ⟨by decide +kernel, by decide +kernel, by decide +kernel⟩, by decide +kernel,
     by decide +kernel⟩,
   ⟨wRing (wSet wNet [(Fld.LNK_STATE_STATE 0 0, 4)]) 4 (wEntry 65 [(10, 1, 0)]), 1, 0, wEntry 65 [(10, 1, 0)],
     ⟨by decide +kernel, by decide +kernel, by decide +kernel⟩, by decide +kernel, by decide +kernel, by decide +kernel⟩,
   ⟨wRing (wNet) 4 (wEntry 65 [(10, 1, 0)]), 1, 0, wEntry 65 [(10, 1, 0)], ⟨by decide +kernel, by decide +kernel, by decide +kernel⟩, by decide +kernel,
     by decide +kernel, by decide +kernel⟩,
   ⟨wRing (wUp) 4 (wEntry 65 [(10, 1, 1)]), 1, 0, wEntry 65 [(10, 1, 1)], ⟨by decide +kernel, by decide +kernel, by decide +kernel⟩, by decide +kernel,
     by decide +kernel⟩,
   ⟨wRing (wSet wNet [(Fld.LNK_STATE_STATE 0 0, 4)]) 4 (wEntry 65 [(10, 1, 1)]), 1, 0, wEntry 65 [(10, 1, 1)],
     ⟨by decide +kernel, by decide +kernel, by decide +kernel⟩, by decide +kernel, by decide +kernel, by decide +kernel⟩,
   ⟨wRing (wNet) 4 (wEntry 65 [(10, 1, 1)]), 1, 0, wEntry 65 [(10, 1, 1)], ⟨by decide +kernel, by decide +kernel, by decide +kernel⟩, by decide +kernel,
     by decide +kernel, by decide +kernel⟩,
   ⟨wNet, ((wNet : State).acceptCell (0 : Nat) 0x3 (cellBytes 3 0 0 1 (zeros 20) : List Byte)).1, 0, cellBytes 3 0 0 1 (zeros 20),
     (((wNet : State).acceptCell (0 : Nat) 0x3 (cellBytes 3 0 0 1 (zeros 20) : List Byte)).2).get (by decide +kernel), by decide +kernel⟩,
   ⟨{ wSet (wAct wNet 4 (wEntry 65 [])) [(Fld.TCK_COUNT_LO, 100), (Fld.LNK_CFG_REG_TIMEOUT, 4)] with link := { (wSet (wAct wNet 4 (wEntry 65 [])) [(Fld.TCK_COUNT_LO, 100), (Fld.LNK_CFG_REG_TIMEOUT, 4)]).link with regs := [{ chain := 0, position := 0, tag := 0, ring := 1, index := 0, op := 0, offset := 0, value := 0, sent := 0, repeats := 0 }] } },
     0, 0, zeros 20, wEntry 65 [],
     { chain := 0, position := 0, tag := 0, ring := 1, index := 0, op := 0, offset := 0, value := 0, sent := 0, repeats := 0 }, 0, by decide +kernel,
     by decide +kernel, by decide +kernel, by decide +kernel⟩,
   ⟨{ wSet (wAct wNet 4 (wEntry 65 [])) [(Fld.TCK_COUNT_LO, 100), (Fld.LNK_CFG_REG_TIMEOUT, 4)] with link := { (wSet (wAct wNet 4 (wEntry 65 [])) [(Fld.TCK_COUNT_LO, 100), (Fld.LNK_CFG_REG_TIMEOUT, 4)]).link with regs := [{ chain := 0, position := 0, tag := 0, ring := 1, index := 0, op := 0, offset := 0, value := 0, sent := 0, repeats := 3 }] } },
     0, 0, { chain := 0, position := 0, tag := 0, ring := 1, index := 0, op := 0, offset := 0, value := 0, sent := 0, repeats := 3 }, _, 0, wEntry 65 [],
     by decide +kernel, by decide +kernel, by decide +kernel, by decide +kernel, rfl, by decide +kernel⟩,
   ⟨{ wSet (wNet) [(Fld.TCK_COUNT_LO, 100), (Fld.LNK_CFG_REG_TIMEOUT, 4)] with link := { (wSet (wNet) [(Fld.TCK_COUNT_LO, 100), (Fld.LNK_CFG_REG_TIMEOUT, 4)]).link with regs := [{ chain := 0, position := 0, tag := 0, ring := 1, index := 0, op := 0, offset := 0, value := 0, sent := 0, repeats := 3 }] } },
     0, 0, { chain := 0, position := 0, tag := 0, ring := 1, index := 0, op := 0, offset := 0, value := 0, sent := 0, repeats := 3 }, _,
     by decide +kernel, by decide +kernel, by decide +kernel, by decide +kernel, rfl, by decide +kernel⟩,
   ⟨{ wSet (wAct wNet 4 (wEntry 65 [])) [(Fld.TCK_COUNT_LO, 0), (Fld.LNK_CFG_REG_TIMEOUT, 4)] with link := { (wSet (wAct wNet 4 (wEntry 65 [])) [(Fld.TCK_COUNT_LO, 0), (Fld.LNK_CFG_REG_TIMEOUT, 4)]).link with regs := [{ chain := 0, position := 0, tag := 0, ring := 1, index := 0, op := 0, offset := 0, value := 0, sent := 0, repeats := 0 }] } },
     0, 0, { chain := 0, position := 0, tag := 0, ring := 1, index := 0, op := 0, offset := 0, value := 0, sent := 0, repeats := 0 }, by decide +kernel,
     by decide +kernel, by decide +kernel⟩,
   ⟨wNet.onLay (fun l => { l with inputs := [{ port := 0, chain := 0, position := 0, width := 16, height := 16, budget := 0 }] }), 0, wPkt 3 (zeros 4),
     { port := 0, chain := 0, position := 0, width := 16, height := 16, budget := 0 },
     ((wNet.onLay (fun l => { l with inputs := [{ port := 0, chain := 0, position := 0, width := 16, height := 16, budget := 0 }] }) : State).takePacket (0 : Nat) (wPkt 3 (zeros 4) : List Byte)).1,
     ((((wNet.onLay (fun l => { l with inputs := [{ port := 0, chain := 0, position := 0, width := 16, height := 16, budget := 0 }] }) : State).takePacket (0 : Nat) (wPkt 3 (zeros 4) : List Byte)).2).get (by decide +kernel)).1,
     ((((wNet.onLay (fun l => { l with inputs := [{ port := 0, chain := 0, position := 0, width := 16, height := 16, budget := 0 }] }) : State).takePacket (0 : Nat) (wPkt 3 (zeros 4) : List Byte)).2).get (by decide +kernel)).2.1,
     _, by decide +kernel, by decide +kernel, by decide +kernel, by decide +kernel, rfl⟩,
   ⟨(wSet (wNet.onLay (fun l => { l with inputs := [{ port := 0, chain := 0, position := 0, width := 16, height := 16, budget := 0 }] })) [(Fld.TCK_COUNT_LO, 100), (Fld.LNK_CFG_ACK_TIMEOUT, 4)]).onVideo (fun v => { v with decoders := [{ stream := 1, cells := [(7, 0, 0, zeros 20)] }] }),
     7, 1, { port := 0, chain := 0, position := 0, width := 16, height := 16, budget := 0 }, 0, 0, zeros 20, by decide +kernel, by decide +kernel,
     by decide +kernel, by decide +kernel, by decide +kernel⟩,
   ⟨(wSet (wNet.onLay (fun l => { l with inputs := [{ port := 0, chain := 0, position := 0, width := 16, height := 16, budget := 0 }] })) [(Fld.TCK_COUNT_LO, 100), (Fld.LNK_CFG_ACK_TIMEOUT, 4)]).onVideo (fun v => { v with decoders := [{ stream := 1, cells := [(7, 0, 3, zeros 20)] }] }),
     7, 1, { port := 0, chain := 0, position := 0, width := 16, height := 16, budget := 0 }, 0, 3, zeros 20, by decide +kernel, by decide +kernel,
     by decide +kernel, by decide +kernel, by decide +kernel⟩⟩

theorem witness_CommitsAndFences :
    (∃ (s : State) (ring i : Nat) (e : List Byte), (s.io.Ready ring i 0x10 true (commitFieldsOk e) e) ∧
      (fieldAt e 18 1 = 0 ∨ 64 < fieldAt e 18 1 ∨ fieldAt e 8 8 % 64 ≠ 0)) ∧
    (∃ (s : State) (ring i : Nat) (e : List Byte) (u : State) (r : Io × Option (Nat × Nat)), (s.io.Ready ring i 0x10 true (commitFieldsOk e) e) ∧
      (u = (s.on (fun io => io.activate ring i e)).onLay (fun l => { l with commits := l.commits.filter (·.ring != ring) ++ [({ ring := ring, index := i, entry := e, desc := none, waits := 0 } : CommitRun)] })) ∧
      (r = u.io.issueRead (.descriptors ring i) 2 (bit (fieldAt e 16 1) 0) (fieldAt e 17 1) (fieldAt e 8 8) (128 * fieldAt e 18 1)) ∧
      (fieldAt e 18 1 ≠ 0) ∧ (fieldAt e 18 1 ≤ 64) ∧ (fieldAt e 8 8 % 64 = 0) ∧ (r.2 = none)) ∧
    (∃ (s : State) (ring i : Nat) (e : List Byte) (u : State) (r : Io × Option (Nat × Nat)) (k a : _),
      (s.io.Ready ring i 0x10 true (commitFieldsOk e) e) ∧
      (u = (s.on (fun io => io.activate ring i e)).onLay (fun l => { l with commits := l.commits.filter (·.ring != ring) ++ [({ ring := ring, index := i, entry := e, desc := none, waits := 0 } : CommitRun)] })) ∧
      (r = u.io.issueRead (.descriptors ring i) 2 (bit (fieldAt e 16 1) 0) (fieldAt e 17 1) (fieldAt e 8 8) (128 * fieldAt e 18 1)) ∧
      (fieldAt e 18 1 ≠ 0) ∧ (fieldAt e 18 1 ≤ 64) ∧ (fieldAt e 8 8 % 64 = 0) ∧ (r.2 = some (k, a))) ∧
    (∃ (s u : State) (ring i : Nat) (res : ReadResult) (c : CommitRun) (bs : _),
      (s.video.lay.commits.find? (fun c => c.ring == ring && c.index == i && c.desc.isNone) = some c) ∧ (s.io.held (.descriptors ring i) = false) ∧
      (u = s.poisonSeen res) ∧ (readOutcome res = .inl bs) ∧ (u.io.badReads.contains (.descriptors ring i) = false)) ∧
    (∃ (s u : State) (ring i : Nat) (res : ReadResult) (c : CommitRun) (k : _),
      (s.video.lay.commits.find? (fun c => c.ring == ring && c.index == i && c.desc.isNone) = some c) ∧ (s.io.held (.descriptors ring i) = false) ∧
      (u = s.poisonSeen res) ∧
      ((readOutcome res = .inr k ∧ u.io.badReads.contains (.descriptors ring i) = false) ∨ (k = 8 ∧ u.io.badReads.contains (.descriptors ring i) = true))) ∧
    (∃ (s : State) (ring i : Nat) (e : List Byte), (s.io.Ready ring i 0x11 true (fenceFieldsOk e) e) ∧ (255 < fieldAt e 8 2)) ∧
    (∃ (s : State) (ring i : Nat) (e : List Byte) (v : _), (s.io.Ready ring i 0x11 true (fenceFieldsOk e) e) ∧
      (v = max (s.io.getWide (Fld.CMP_FENCE_LO (fieldAt e 8 2)) (Fld.CMP_FENCE_HI (fieldAt e 8 2))) (fieldAt e 16 8)) ∧ (fieldAt e 8 2 ≤ 255)) ∧
    (∃ (s : State) (key i : Nat) (r : LayerRec) (u : State) (f : FenceRead) (x : Io × Option (Nat × Nat)), (s.fenceRecord key = some (r, i)) ∧
      (s.video.lay.fences.any (fun f => f.key == key && f.index == i) = false) ∧
      (f = { key := key, index := i, period := s.io.tick, host := r.fenceKind % 16 == 3, ctx := r.fenceCtx, addr := r.fenceAddr }) ∧
      (u = s.onLay (fun l => { l with fences := { key := key, index := i, value := none } :: l.fences })) ∧
      (x = u.io.issueRead (.fence key) 2 (!f.host) f.ctx f.addr 8) ∧ (x.2 = none)) ∧
    (∃ (s : State) (key i : Nat) (r : LayerRec) (u : State) (f : FenceRead) (x : Io × Option (Nat × Nat)) (k a : _), (s.fenceRecord key = some (r, i)) ∧
      (s.video.lay.fences.any (fun f => f.key == key && f.index == i) = false) ∧
      (f = { key := key, index := i, period := s.io.tick, host := r.fenceKind % 16 == 3, ctx := r.fenceCtx, addr := r.fenceAddr }) ∧
      (u = s.onLay (fun l => { l with fences := { key := key, index := i, value := none } :: l.fences })) ∧
      (x = u.io.issueRead (.fence key) 2 (!f.host) f.ctx f.addr 8) ∧ (x.2 = some (k, a))) ∧
    (∃ (k : Nat) (d : Deadline) (c : CommitRun) (r j : _), ((d.s.io.activeEntry c.ring c.index 0x10).isSome = true) ∧ (fieldAt c.entry 24 6 ≤ k + 2) ∧
      (c.desc.isSome = true) ∧ (d.s.recordFault [] c.records = none) ∧ (c.records.find? (fun (r : LayerRec) => d.changed.contains r.layer) = none) ∧
      ((c.records.zipIdx).find? (fun (r : LayerRec × Nat) => !d.s.fenceMet c r.2 r.1) = some (r, j))) ∧
    (∃ (s u : State) (key : Nat) (res : ReadResult) (f : FenceRead) (bs v : _), (s.video.lay.fenceReads.find? (·.key == key) = some f) ∧
      (s.io.held (.fence key) = false) ∧ (u = (s.endFenceRead f).poisonSeen res) ∧ (readOutcome res = .inl bs) ∧
      (u.io.badReads.contains (.fence key) = false) ∧ (v = (if f.host then fieldAt bs 0 8 else leNat (u.io.found (.fence key) f.addr 8)))) ∧
    (∃ (s u : State) (key : Nat) (res : ReadResult) (f : FenceRead) (k : _), (s.video.lay.fenceReads.find? (·.key == key) = some f) ∧
      (s.io.held (.fence key) = false) ∧ (u = (s.endFenceRead f).poisonSeen res) ∧
      ((readOutcome res = .inr k ∧ u.io.badReads.contains (.fence key) = false) ∨ (k = 8 ∧ u.io.badReads.contains (.fence key) = true))) ∧
    (∃ (s : State), (s.io.operational = true) ∧ (s.io.hasHost = true) ∧ (s.tick.inGap = false) ∧ (s.video.lay.deadline ≠ some s.io.tick) ∧
      (s.serving = false) ∧ (s.openDeadline.video.lay.compiled.any (fun c => c.tick == s.io.tick + 1) = true)) ∧
    (∃ (s : State), (s.io.operational = true) ∧ (s.io.hasHost = true) ∧ (s.tick.inGap = false) ∧ (s.video.lay.deadline ≠ some s.io.tick) ∧
      (s.serving = false) ∧ (s.openDeadline.video.lay.compiled.any (fun c => c.tick == s.io.tick + 1) = false)) ∧
    (∃ (s u : State) (d : Deadline), (s.io.operational = true) ∧ (s.io.hasHost = true) ∧ (s.tick.inGap = false) ∧
      (s.video.lay.deadline ≠ some s.io.tick) ∧ (s.serving = true) ∧ (u = s.openDeadline.pinFrames) ∧
      (d = (u.video.lay.commits.foldl (fun l c => insertCommit c l) []).foldl (Deadline.commit s.io.tick) { s := u, layers := u.video.lay.compiled.foldl (fun ls c => if s.io.tick < c.tick then u.applyRecords ls c.records else ls) u.video.lay.layers, changed := [], waited := false })) ∧
    (∃ (s : State) (ring i : Nat) (r : ReleaseDue), (s.video.lay.releases.find? (fun r => r.ring == ring && r.index == i) = some r) ∧
      (r.tick ≤ s.io.tick) ∧ (s.readsRun (r.tick - 2) = false) ∧
      (s.pair ≠ pACTIVE ∨ s.pairLink = false ∨ s.pairUnit.lockstep = false ∨ r.tick ≤ s.pairUnit.readDone)) :=
  ⟨⟨wRing (wUp) 1 (wEntry 16 [(18, 1, 0)]), 1, 0, wEntry 16 [(18, 1, 0)], ⟨by decide +kernel, by decide +kernel, by decide +kernel⟩, by decide +kernel⟩,
   ⟨wRing (wUp.setF (Fld.XLT_CTX_MODE_MODE 0) 2) 1 (wEntry 16 [(18, 1, 1)]), 1, 0, wEntry 16 [(18, 1, 1)], _, _,
     ⟨by decide +kernel, by decide +kernel, by decide +kernel⟩, rfl, rfl, by decide +kernel, by decide +kernel, by decide +kernel, by decide +kernel⟩,
   ⟨wRing (wUp) 1 (wEntry 16 [(18, 1, 1)]), 1, 0, wEntry 16 [(18, 1, 1)], _, _,
     ((((((wRing (wUp) 1 (wEntry 16 [(18, 1, 1)]) : State).on (fun io => io.activate (1 : Nat) (0 : Nat) (wEntry 16 [(18, 1, 1)] : List Byte))).onLay (fun l => { l with commits := l.commits.filter (·.ring != (1 : Nat)) ++
        [({ ring := (1 : Nat), index := (0 : Nat), entry := (wEntry 16 [(18, 1, 1)] : List Byte), desc := none, waits := 0 } : CommitRun)] }) : State).io.issueRead (.descriptors (1 : Nat) (0 : Nat)) 2 (bit (fieldAt (wEntry 16 [(18, 1, 1)] : List Byte) 16 1) 0) (fieldAt (wEntry 16 [(18, 1, 1)] : List Byte) 17 1) (fieldAt (wEntry 16 [(18, 1, 1)] : List Byte) 8 8) (128 * fieldAt (wEntry 16 [(18, 1, 1)] : List Byte) 18 1) : Io × Option (Nat × Nat)).2).get (by decide +kernel)).1,
     ((((((wRing (wUp) 1 (wEntry 16 [(18, 1, 1)]) : State).on (fun io => io.activate (1 : Nat) (0 : Nat) (wEntry 16 [(18, 1, 1)] : List Byte))).onLay (fun l => { l with commits := l.commits.filter (·.ring != (1 : Nat)) ++
        [({ ring := (1 : Nat), index := (0 : Nat), entry := (wEntry 16 [(18, 1, 1)] : List Byte), desc := none, waits := 0 } : CommitRun)] }) : State).io.issueRead (.descriptors (1 : Nat) (0 : Nat)) 2 (bit (fieldAt (wEntry 16 [(18, 1, 1)] : List Byte) 16 1) 0) (fieldAt (wEntry 16 [(18, 1, 1)] : List Byte) 17 1) (fieldAt (wEntry 16 [(18, 1, 1)] : List Byte) 8 8) (128 * fieldAt (wEntry 16 [(18, 1, 1)] : List Byte) 18 1) : Io × Option (Nat × Nat)).2).get (by decide +kernel)).2,
     ⟨by decide +kernel, by decide +kernel, by decide +kernel⟩, rfl, rfl, by decide +kernel, by decide +kernel, by decide +kernel, by decide +kernel⟩,
   ⟨(wAct wUp 1 (wEntry 16 [(18, 1, 1)])).onLay (fun l => { l with commits := [{ ring := 1, index := 0, entry := wEntry 16 [(18, 1, 1)], desc := none, waits := 0 }] }),
     _, 1, 0, .data (zeros 128), { ring := 1, index := 0, entry := wEntry 16 [(18, 1, 1)], desc := none, waits := 0 }, zeros 128, by decide +kernel,
     by decide +kernel, rfl, by decide +kernel, by decide +kernel⟩,
   ⟨(wAct wUp 1 (wEntry 16 [(18, 1, 1)])).onLay (fun l => { l with commits := [{ ring := 1, index := 0, entry := wEntry 16 [(18, 1, 1)], desc := none, waits := 0 }] }),
     _, 1, 0, .fault 8, { ring := 1, index := 0, entry := wEntry 16 [(18, 1, 1)], desc := none, waits := 0 }, 8, by decide +kernel, by decide +kernel,
     rfl, .inl (by decide +kernel)⟩,
   ⟨wRing (wUp) 1 (wEntry 17 [(8, 2, 256)]), 1, 0, wEntry 17 [(8, 2, 256)], ⟨by decide +kernel, by decide +kernel, by decide +kernel⟩, by decide +kernel⟩,
   ⟨wRing (wUp) 1 (wEntry 17 [(8, 2, 3), (16, 8, 9)]), 1, 0, wEntry 17 [(8, 2, 3), (16, 8, 9)], _,
     ⟨by decide +kernel, by decide +kernel, by decide +kernel⟩, rfl, by decide +kernel⟩,
   ⟨(wUp).onLay (fun l => { l with commits := [{ ring := 1, index := 0, entry := wEntry 16 [(18, 1, 1)], desc := some (wBlock 128 [(2, 1, 1), (60, 1, 3)]), waits := 0 }] })|>.setF (Fld.XLT_CTX_MODE_MODE 0) 2,
     64,
     ((((wUp).onLay (fun l => { l with commits := [{ ring := 1, index := 0, entry := wEntry 16 [(18, 1, 1)], desc := some (wBlock 128 [(2, 1, 1), (60, 1, 3)]), waits := 0 }] })|>.setF (Fld.XLT_CTX_MODE_MODE 0) 2 : State).fenceRecord (64 : Nat)).get (by decide +kernel)).2,
     ((((wUp).onLay (fun l => { l with commits := [{ ring := 1, index := 0, entry := wEntry 16 [(18, 1, 1)], desc := some (wBlock 128 [(2, 1, 1), (60, 1, 3)]), waits := 0 }] })|>.setF (Fld.XLT_CTX_MODE_MODE 0) 2 : State).fenceRecord (64 : Nat)).get (by decide +kernel)).1,
     _, _, _, by decide +kernel, by decide +kernel, rfl, rfl, rfl, by decide +kernel⟩,
   ⟨(wUp).onLay (fun l => { l with commits := [{ ring := 1, index := 0, entry := wEntry 16 [(18, 1, 1)], desc := some (wBlock 128 [(2, 1, 1), (60, 1, 3)]), waits := 0 }] }),
     64,
     ((((wUp).onLay (fun l => { l with commits := [{ ring := 1, index := 0, entry := wEntry 16 [(18, 1, 1)], desc := some (wBlock 128 [(2, 1, 1), (60, 1, 3)]), waits := 0 }] }) : State).fenceRecord (64 : Nat)).get (by decide +kernel)).2,
     ((((wUp).onLay (fun l => { l with commits := [{ ring := 1, index := 0, entry := wEntry 16 [(18, 1, 1)], desc := some (wBlock 128 [(2, 1, 1), (60, 1, 3)]), waits := 0 }] }) : State).fenceRecord (64 : Nat)).get (by decide +kernel)).1,
     _, _, _,
     ((((((wUp).onLay (fun l => { l with commits := [{ ring := 1, index := 0, entry := wEntry 16 [(18, 1, 1)], desc := some (wBlock 128 [(2, 1, 1), (60, 1, 3)]), waits := 0 }] }) : State).onLay (fun l => { l with fences := { key := (64 : Nat), index := (((((wUp).onLay (fun l => { l with commits := [{ ring := 1, index := 0, entry := wEntry 16 [(18, 1, 1)], desc := some (wBlock 128 [(2, 1, 1), (60, 1, 3)]), waits := 0 }] }) : State).fenceRecord (64 : Nat)).get (by decide +kernel)).2 : Nat), value := none } :: l.fences }) : State).io.issueRead (.fence (64 : Nat)) 2 (!({ key := (64 : Nat), index := (((((wUp).onLay (fun l => { l with commits := [{ ring := 1, index := 0, entry := wEntry 16 [(18, 1, 1)], desc := some (wBlock 128 [(2, 1, 1), (60, 1, 3)]), waits := 0 }] }) : State).fenceRecord (64 : Nat)).get (by decide +kernel)).2 : Nat), period := ((wUp).onLay (fun l => { l with commits := [{ ring := 1, index := 0, entry := wEntry 16 [(18, 1, 1)], desc := some (wBlock 128 [(2, 1, 1), (60, 1, 3)]), waits := 0 }] }) : State).io.tick, host := (((((wUp).onLay (fun l => { l with commits := [{ ring := 1, index := 0, entry := wEntry 16 [(18, 1, 1)], desc := some (wBlock 128 [(2, 1, 1), (60, 1, 3)]), waits := 0 }] }) : State).fenceRecord (64 : Nat)).get (by decide +kernel)).1 : LayerRec).fenceKind % 16 == 3, ctx := (((((wUp).onLay (fun l => { l with commits := [{ ring := 1, index := 0, entry := wEntry 16 [(18, 1, 1)], desc := some (wBlock 128 [(2, 1, 1), (60, 1, 3)]), waits := 0 }] }) : State).fenceRecord (64 : Nat)).get (by decide +kernel)).1 : LayerRec).fenceCtx, addr := (((((wUp).onLay (fun l => { l with commits := [{ ring := 1, index := 0, entry := wEntry 16 [(18, 1, 1)], desc := some (wBlock 128 [(2, 1, 1), (60, 1, 3)]), waits := 0 }] }) : State).fenceRecord (64 : Nat)).get (by decide +kernel)).1 : LayerRec).fenceAddr } : FenceRead).host) ({ key := (64 : Nat), index := (((((wUp).onLay (fun l => { l with commits := [{ ring := 1, index := 0, entry := wEntry 16 [(18, 1, 1)], desc := some (wBlock 128 [(2, 1, 1), (60, 1, 3)]), waits := 0 }] }) : State).fenceRecord (64 : Nat)).get (by decide +kernel)).2 : Nat), period := ((wUp).onLay (fun l => { l with commits := [{ ring := 1, index := 0, entry := wEntry 16 [(18, 1, 1)], desc := some (wBlock 128 [(2, 1, 1), (60, 1, 3)]), waits := 0 }] }) : State).io.tick, host := (((((wUp).onLay (fun l => { l with commits := [{ ring := 1, index := 0, entry := wEntry 16 [(18, 1, 1)], desc := some (wBlock 128 [(2, 1, 1), (60, 1, 3)]), waits := 0 }] }) : State).fenceRecord (64 : Nat)).get (by decide +kernel)).1 : LayerRec).fenceKind % 16 == 3, ctx := (((((wUp).onLay (fun l => { l with commits := [{ ring := 1, index := 0, entry := wEntry 16 [(18, 1, 1)], desc := some (wBlock 128 [(2, 1, 1), (60, 1, 3)]), waits := 0 }] }) : State).fenceRecord (64 : Nat)).get (by decide +kernel)).1 : LayerRec).fenceCtx, addr := (((((wUp).onLay (fun l => { l with commits := [{ ring := 1, index := 0, entry := wEntry 16 [(18, 1, 1)], desc := some (wBlock 128 [(2, 1, 1), (60, 1, 3)]), waits := 0 }] }) : State).fenceRecord (64 : Nat)).get (by decide +kernel)).1 : LayerRec).fenceAddr } : FenceRead).ctx ({ key := (64 : Nat), index := (((((wUp).onLay (fun l => { l with commits := [{ ring := 1, index := 0, entry := wEntry 16 [(18, 1, 1)], desc := some (wBlock 128 [(2, 1, 1), (60, 1, 3)]), waits := 0 }] }) : State).fenceRecord (64 : Nat)).get (by decide +kernel)).2 : Nat), period := ((wUp).onLay (fun l => { l with commits := [{ ring := 1, index := 0, entry := wEntry 16 [(18, 1, 1)], desc := some (wBlock 128 [(2, 1, 1), (60, 1, 3)]), waits := 0 }] }) : State).io.tick, host := (((((wUp).onLay (fun l => { l with commits := [{ ring := 1, index := 0, entry := wEntry 16 [(18, 1, 1)], desc := some (wBlock 128 [(2, 1, 1), (60, 1, 3)]), waits := 0 }] }) : State).fenceRecord (64 : Nat)).get (by decide +kernel)).1 : LayerRec).fenceKind % 16 == 3, ctx := (((((wUp).onLay (fun l => { l with commits := [{ ring := 1, index := 0, entry := wEntry 16 [(18, 1, 1)], desc := some (wBlock 128 [(2, 1, 1), (60, 1, 3)]), waits := 0 }] }) : State).fenceRecord (64 : Nat)).get (by decide +kernel)).1 : LayerRec).fenceCtx, addr := (((((wUp).onLay (fun l => { l with commits := [{ ring := 1, index := 0, entry := wEntry 16 [(18, 1, 1)], desc := some (wBlock 128 [(2, 1, 1), (60, 1, 3)]), waits := 0 }] }) : State).fenceRecord (64 : Nat)).get (by decide +kernel)).1 : LayerRec).fenceAddr } : FenceRead).addr 8 : Io × Option (Nat × Nat)).2).get (by decide +kernel)).1,
     ((((((wUp).onLay (fun l => { l with commits := [{ ring := 1, index := 0, entry := wEntry 16 [(18, 1, 1)], desc := some (wBlock 128 [(2, 1, 1), (60, 1, 3)]), waits := 0 }] }) : State).onLay (fun l => { l with fences := { key := (64 : Nat), index := (((((wUp).onLay (fun l => { l with commits := [{ ring := 1, index := 0, entry := wEntry 16 [(18, 1, 1)], desc := some (wBlock 128 [(2, 1, 1), (60, 1, 3)]), waits := 0 }] }) : State).fenceRecord (64 : Nat)).get (by decide +kernel)).2 : Nat), value := none } :: l.fences }) : State).io.issueRead (.fence (64 : Nat)) 2 (!({ key := (64 : Nat), index := (((((wUp).onLay (fun l => { l with commits := [{ ring := 1, index := 0, entry := wEntry 16 [(18, 1, 1)], desc := some (wBlock 128 [(2, 1, 1), (60, 1, 3)]), waits := 0 }] }) : State).fenceRecord (64 : Nat)).get (by decide +kernel)).2 : Nat), period := ((wUp).onLay (fun l => { l with commits := [{ ring := 1, index := 0, entry := wEntry 16 [(18, 1, 1)], desc := some (wBlock 128 [(2, 1, 1), (60, 1, 3)]), waits := 0 }] }) : State).io.tick, host := (((((wUp).onLay (fun l => { l with commits := [{ ring := 1, index := 0, entry := wEntry 16 [(18, 1, 1)], desc := some (wBlock 128 [(2, 1, 1), (60, 1, 3)]), waits := 0 }] }) : State).fenceRecord (64 : Nat)).get (by decide +kernel)).1 : LayerRec).fenceKind % 16 == 3, ctx := (((((wUp).onLay (fun l => { l with commits := [{ ring := 1, index := 0, entry := wEntry 16 [(18, 1, 1)], desc := some (wBlock 128 [(2, 1, 1), (60, 1, 3)]), waits := 0 }] }) : State).fenceRecord (64 : Nat)).get (by decide +kernel)).1 : LayerRec).fenceCtx, addr := (((((wUp).onLay (fun l => { l with commits := [{ ring := 1, index := 0, entry := wEntry 16 [(18, 1, 1)], desc := some (wBlock 128 [(2, 1, 1), (60, 1, 3)]), waits := 0 }] }) : State).fenceRecord (64 : Nat)).get (by decide +kernel)).1 : LayerRec).fenceAddr } : FenceRead).host) ({ key := (64 : Nat), index := (((((wUp).onLay (fun l => { l with commits := [{ ring := 1, index := 0, entry := wEntry 16 [(18, 1, 1)], desc := some (wBlock 128 [(2, 1, 1), (60, 1, 3)]), waits := 0 }] }) : State).fenceRecord (64 : Nat)).get (by decide +kernel)).2 : Nat), period := ((wUp).onLay (fun l => { l with commits := [{ ring := 1, index := 0, entry := wEntry 16 [(18, 1, 1)], desc := some (wBlock 128 [(2, 1, 1), (60, 1, 3)]), waits := 0 }] }) : State).io.tick, host := (((((wUp).onLay (fun l => { l with commits := [{ ring := 1, index := 0, entry := wEntry 16 [(18, 1, 1)], desc := some (wBlock 128 [(2, 1, 1), (60, 1, 3)]), waits := 0 }] }) : State).fenceRecord (64 : Nat)).get (by decide +kernel)).1 : LayerRec).fenceKind % 16 == 3, ctx := (((((wUp).onLay (fun l => { l with commits := [{ ring := 1, index := 0, entry := wEntry 16 [(18, 1, 1)], desc := some (wBlock 128 [(2, 1, 1), (60, 1, 3)]), waits := 0 }] }) : State).fenceRecord (64 : Nat)).get (by decide +kernel)).1 : LayerRec).fenceCtx, addr := (((((wUp).onLay (fun l => { l with commits := [{ ring := 1, index := 0, entry := wEntry 16 [(18, 1, 1)], desc := some (wBlock 128 [(2, 1, 1), (60, 1, 3)]), waits := 0 }] }) : State).fenceRecord (64 : Nat)).get (by decide +kernel)).1 : LayerRec).fenceAddr } : FenceRead).ctx ({ key := (64 : Nat), index := (((((wUp).onLay (fun l => { l with commits := [{ ring := 1, index := 0, entry := wEntry 16 [(18, 1, 1)], desc := some (wBlock 128 [(2, 1, 1), (60, 1, 3)]), waits := 0 }] }) : State).fenceRecord (64 : Nat)).get (by decide +kernel)).2 : Nat), period := ((wUp).onLay (fun l => { l with commits := [{ ring := 1, index := 0, entry := wEntry 16 [(18, 1, 1)], desc := some (wBlock 128 [(2, 1, 1), (60, 1, 3)]), waits := 0 }] }) : State).io.tick, host := (((((wUp).onLay (fun l => { l with commits := [{ ring := 1, index := 0, entry := wEntry 16 [(18, 1, 1)], desc := some (wBlock 128 [(2, 1, 1), (60, 1, 3)]), waits := 0 }] }) : State).fenceRecord (64 : Nat)).get (by decide +kernel)).1 : LayerRec).fenceKind % 16 == 3, ctx := (((((wUp).onLay (fun l => { l with commits := [{ ring := 1, index := 0, entry := wEntry 16 [(18, 1, 1)], desc := some (wBlock 128 [(2, 1, 1), (60, 1, 3)]), waits := 0 }] }) : State).fenceRecord (64 : Nat)).get (by decide +kernel)).1 : LayerRec).fenceCtx, addr := (((((wUp).onLay (fun l => { l with commits := [{ ring := 1, index := 0, entry := wEntry 16 [(18, 1, 1)], desc := some (wBlock 128 [(2, 1, 1), (60, 1, 3)]), waits := 0 }] }) : State).fenceRecord (64 : Nat)).get (by decide +kernel)).1 : LayerRec).fenceAddr } : FenceRead).addr 8 : Io × Option (Nat × Nat)).2).get (by decide +kernel)).2,
     by decide +kernel, by decide +kernel, rfl, rfl, rfl, by decide +kernel⟩,
   ⟨0,
     { s := wAct (wSet wUp [(Fld.CMP_RASTER_WIDTH 0, 16), (Fld.CMP_RASTER_HEIGHT 0, 16)]) 1 (wEntry 16 [(18, 1, 1)]), layers := [], changed := [], waited := false },
     { ring := 1, index := 0, entry := wEntry 16 [(18, 1, 1)], desc := some (wBlock 128 [(2, 1, 2), (4, 1, 1), (24, 4, 64), (40, 2, 2), (42, 2, 2), (48, 2, 2), (50, 2, 2), (60, 1, 2)]), waits := 0 },
     wBlock 128 [(2, 1, 2), (4, 1, 1), (24, 4, 64), (40, 2, 2), (42, 2, 2), (48, 2, 2), (50, 2, 2), (60, 1, 2)], 0, by decide +kernel, by decide +kernel,
     by decide +kernel, by decide +kernel, by decide +kernel, by decide +kernel⟩,
   ⟨(wUp).onLay (fun l => { l with fenceReads := [{ key := 64, index := 0, period := 0, host := true, ctx := 0, addr := 0 }] }), _, 64, .data (zeros 8),
     { key := 64, index := 0, period := 0, host := true, ctx := 0, addr := 0 }, zeros 8, _, by decide +kernel, by decide +kernel, rfl, by decide +kernel,
     by decide +kernel, rfl⟩,
   ⟨(wUp).onLay (fun l => { l with fenceReads := [{ key := 64, index := 0, period := 0, host := true, ctx := 0, addr := 0 }] }), _, 64, .fault 8,
     { key := 64, index := 0, period := 0, host := true, ctx := 0, addr := 0 }, 8, by decide +kernel, by decide +kernel, rfl, .inl (by decide +kernel)⟩,
   ⟨(wSet wUp [(Fld.PAIR_STATE_STATE, pARMED)]).onLay (fun l => { l with compiled := [{ ring := none, records := [], tick := 1 }] }), by decide +kernel,
     by decide +kernel, by decide +kernel, by decide +kernel, by decide +kernel, by decide +kernel⟩,
   ⟨wSet wUp [(Fld.PAIR_STATE_STATE, pARMED)], by decide +kernel, by decide +kernel, by decide +kernel, by decide +kernel, by decide +kernel,
     by decide +kernel⟩,
   ⟨wUp, _, _, by decide +kernel, by decide +kernel, by decide +kernel, by decide +kernel, by decide +kernel, rfl, rfl⟩,
   ⟨(wUp.setF Fld.TCK_COUNT_LO 5).onLay (fun l => { l with releases := [{ ring := 1, index := 0, entry := wEntry 16 [(18, 1, 1)], mask := 0, tick := 5 }] }),
     1, 0, { ring := 1, index := 0, entry := wEntry 16 [(18, 1, 1)], mask := 0, tick := 5 }, by decide +kernel, by decide +kernel, by decide +kernel,
     by decide +kernel⟩⟩

theorem witness_CaptureAndComposition :
    (∃ (s : State) (ring i : Nat) (e : List Byte) (d : _), (s.io.Ready ring i 0x30 true (captureFieldsOk e) e) ∧ (s.captureCase e = d) ∧ (d ≠ 0)) ∧
    (∃ (s : State) (ring i : Nat) (e : List Byte), (s.io.Ready ring i 0x30 true (captureFieldsOk e) e) ∧ (s.captureCase e = 0) ∧
      (4 ≤ (s.video.captures.filter (·.region == fieldAt e 8 1)).length)) ∧
    (∃ (s : State) (ring i : Nat) (e : List Byte), (s.io.Ready ring i 0x30 true (captureFieldsOk e) e) ∧ (s.captureCase e = 0) ∧
      ((s.video.captures.filter (·.region == fieldAt e 8 1)).length < 4) ∧ ((s.io.ring ring).fetched.head? = some (i, e))) ∧
    (∃ (s u : State) (region slot : Nat) (mem : HostMem) (sl : Slot) (r : ComposedRow) (rest : List ComposedRow) (b : CaptureBuf) (p : Io × Nat × Option (Nat × Nat)) (rows : _) (v : State) (k a : _),
      (s.dueSlot region slot = some sl) ∧ (sl.kind = 0x0C) ∧ (u = s.startSlot region slot true) ∧
      (u.video.fifo.filter (fun r => r.region == region && decide (bits sl.operand 0 12 ≤ r.row ∧ r.row ≤ bits sl.operand 0 12 + bits sl.operand 12 4)) = r :: rest) ∧
      (u.video.captures.find? (fun b => b.region == region && b.frame == some r.frame) = some b) ∧
      (rows = (r :: rest).filter (fun x => x.frame == r.frame)) ∧ (p = Io.captureOps mem region b (rows.flatMap (u.captureLines b)) u.io) ∧
      (v = { u with io := Io.settle (p.1.completeOwn (.entry b.ring b.index)) }) ∧ (p.2.2 = some (k, a))) ∧
    (∃ (s u : State) (region slot : Nat) (mem : HostMem) (sl : Slot) (r : ComposedRow) (rest : List ComposedRow) (b : CaptureBuf) (p : Io × Nat × Option (Nat × Nat)) (rows : _) (v : State) (b' : _),
      (s.dueSlot region slot = some sl) ∧ (sl.kind = 0x0C) ∧ (u = s.startSlot region slot true) ∧
      (u.video.fifo.filter (fun r => r.region == region && decide (bits sl.operand 0 12 ≤ r.row ∧ r.row ≤ bits sl.operand 0 12 + bits sl.operand 12 4)) = r :: rest) ∧
      (u.video.captures.find? (fun b => b.region == region && b.frame == some r.frame) = some b) ∧
      (rows = (r :: rest).filter (fun x => x.frame == r.frame)) ∧ (p = Io.captureOps mem region b (rows.flatMap (u.captureLines b)) u.io) ∧
      (v = { u with io := Io.settle (p.1.completeOwn (.entry b.ring b.index)) }) ∧ (p.2.2 = none) ∧
      (b' = { b with written := b.written + rows.length, bytes := b.bytes + p.2.1 })) ∧
    (∃ (s u : State) (region slot : Nat) (late : Bool) (mem : HostData) (n : Nat) (sl : Slot) (run : ComposeRun), (s.dueSlot region slot = some sl) ∧
      (sl.kind = 0x01) ∧ (s.io.operational = true) ∧ (s.video.fenced.contains region = false) ∧ (s.blockStopped region 0 = false) ∧
      (s.blockStopped region 1 = false) ∧ (u = s.startSlot region slot true late) ∧
      ((u.video.handoff ++ u.video.taken).any (fun r => r.region == region && r.frame == (if late then u.io.tick else u.io.tick + 1) && r.row == bits sl.operand 0 12) = false) ∧
      (u.video.composing.any (fun c => c.region == region && c.slot == slot) = false) ∧
      (run = { region := region, slot := slot, next := bits sl.operand 0 12, last := bits sl.operand 0 12 + bits sl.operand 12 4, frame := if late then u.io.tick else u.io.tick + 1, plan := if late then u.video.lay.before else u.video.lay.layers, mem := { mem with inFlight := n }, late := late, fetched := false, waiting := false })) ∧
    (∃ (run : ComposeRun) (lane : Nat) (s u : State), (run.next ≤ run.last) ∧ ((s.handoffOf run.region).length < 4) ∧
      (u = (if run.fetched then s else s.fetchRow run lane run.next run.all)) ∧ (u.io.busy (.slot run.region run.slot) = false)) ∧
    (∃ (run : ComposeRun) (lane : Nat) (s u : State), (run.next ≤ run.last) ∧ ((s.handoffOf run.region).length < 4) ∧
      (u = (if run.fetched then s else s.fetchRow run lane run.next run.all)) ∧ (u.io.busy (.slot run.region run.slot) = true)) ∧
    (∃ (s u : State) (region : Nat) (r : ComposedRow) (rest : List ComposedRow), (s.handoffOf region = r :: rest) ∧
      (u = (s.onVideo (fun v => { v with handoff := eraseFirst (fun x => x == r) v.handoff, taken := v.taken ++ [r] })).reportRows region) ∧
      (u.video.composing.find? (fun c => c.region == region && c.waiting) = none)) ∧
    (∃ (s u : State) (region : Nat) (r : ComposedRow) (rest : List ComposedRow) (run sl : _), (s.handoffOf region = r :: rest) ∧
      (u = (s.onVideo (fun v => { v with handoff := eraseFirst (fun x => x == r) v.handoff, taken := v.taken ++ [r] })).reportRows region) ∧
      (u.video.composing.find? (fun c => c.region == region && c.waiting) = some run) ∧ (u.slot run.region run.slot = some sl)) :=
  ⟨⟨wRing (wUp) 3 (wEntry 48 [(9, 1, 5)]), 1, 0, wEntry 48 [(9, 1, 5)], 2, ⟨by decide +kernel, by decide +kernel, by decide +kernel⟩, by decide +kernel,
     by decide +kernel⟩,
   ⟨wRing ((wSet wUp [(Fld.CMP_RASTER_WIDTH 0, 16), (Fld.CMP_RASTER_HEIGHT 0, 16)]).onVideo (fun v => { v with captures := [{ ring := 1, index := 1, entry := wEntry 48 [(36, 2, 1), (38, 2, 1), (12, 4, 64)], region := 0, frame := none, written := 0, skipped := 0, left := 1 }, { ring := 1, index := 2, entry := wEntry 48 [(36, 2, 1), (38, 2, 1), (12, 4, 64)], region := 0, frame := none, written := 0, skipped := 0, left := 1 }, { ring := 1, index := 3, entry := wEntry 48 [(36, 2, 1), (38, 2, 1), (12, 4, 64)], region := 0, frame := none, written := 0, skipped := 0, left := 1 }, { ring := 1, index := 4, entry := wEntry 48 [(36, 2, 1), (38, 2, 1), (12, 4, 64)], region := 0, frame := none, written := 0, skipped := 0, left := 1 }] })) 3 (wEntry 48 [(36, 2, 1), (38, 2, 1), (12, 4, 64)]),
     1, 0, wEntry 48 [(36, 2, 1), (38, 2, 1), (12, 4, 64)], ⟨by decide +kernel, by decide +kernel, by decide +kernel⟩, by decide +kernel, by decide +kernel⟩,
   ⟨wRing (wSet wUp [(Fld.CMP_RASTER_WIDTH 0, 16), (Fld.CMP_RASTER_HEIGHT 0, 16)]) 3 (wEntry 48 [(36, 2, 1), (38, 2, 1), (12, 4, 64)]), 1, 0,
     wEntry 48 [(36, 2, 1), (38, 2, 1), (12, 4, 64)], ⟨by decide +kernel, by decide +kernel, by decide +kernel⟩, by decide +kernel, by decide +kernel,
     by decide +kernel⟩,
   ⟨(wSlot (wAct (wSet wUp [(Fld.CMP_RASTER_WIDTH 0, 16), (Fld.CMP_RASTER_HEIGHT 0, 16)]) 3 (wEntry 48 [(36, 2, 1), (38, 2, 1), (12, 4, 64)])) 0x0C 29 0).onVideo (fun v => { v with captures := [{ ring := 1, index := 0, entry := wEntry 48 [(36, 2, 1), (38, 2, 1), (12, 4, 64)], region := 0, frame := some 1, written := 0, skipped := 0, left := 1 }], fifo := [{ region := 0, row := 0, frame := 1, blocks := [] }] }),
     _, 0, 0, {},
     (((wSlot (wAct (wSet wUp [(Fld.CMP_RASTER_WIDTH 0, 16), (Fld.CMP_RASTER_HEIGHT 0, 16)]) 3 (wEntry 48 [(36, 2, 1), (38, 2, 1), (12, 4, 64)])) 0x0C 29 0).onVideo (fun v => { v with captures := [{ ring := 1, index := 0, entry := wEntry 48 [(36, 2, 1), (38, 2, 1), (12, 4, 64)], region := 0, frame := some 1, written := 0, skipped := 0, left := 1 }], fifo := [{ region := 0, row := 0, frame := 1, blocks := [] }] }) : State).dueSlot (0 : Nat) (0 : Nat)).get (by decide +kernel),
     ((((wSlot (wAct (wSet wUp [(Fld.CMP_RASTER_WIDTH 0, 16), (Fld.CMP_RASTER_HEIGHT 0, 16)]) 3 (wEntry 48 [(36, 2, 1), (38, 2, 1), (12, 4, 64)])) 0x0C 29 0).onVideo (fun v => { v with captures := [{ ring := 1, index := 0, entry := wEntry 48 [(36, 2, 1), (38, 2, 1), (12, 4, 64)], region := 0, frame := some 1, written := 0, skipped := 0, left := 1 }], fifo := [{ region := 0, row := 0, frame := 1, blocks := [] }] }) : State).startSlot (0 : Nat) (0 : Nat) true : State).video.fifo.filter (fun r => r.region == (0 : Nat) && decide (bits ((((wSlot (wAct (wSet wUp [(Fld.CMP_RASTER_WIDTH 0, 16), (Fld.CMP_RASTER_HEIGHT 0, 16)]) 3 (wEntry 48 [(36, 2, 1), (38, 2, 1), (12, 4, 64)])) 0x0C 29 0).onVideo (fun v => { v with captures := [{ ring := 1, index := 0, entry := wEntry 48 [(36, 2, 1), (38, 2, 1), (12, 4, 64)], region := 0, frame := some 1, written := 0, skipped := 0, left := 1 }], fifo := [{ region := 0, row := 0, frame := 1, blocks := [] }] }) : State).dueSlot (0 : Nat) (0 : Nat)).get (by decide +kernel) : Slot).operand 0 12 ≤ r.row ∧ r.row ≤ bits ((((wSlot (wAct (wSet wUp [(Fld.CMP_RASTER_WIDTH 0, 16), (Fld.CMP_RASTER_HEIGHT 0, 16)]) 3 (wEntry 48 [(36, 2, 1), (38, 2, 1), (12, 4, 64)])) 0x0C 29 0).onVideo (fun v => { v with captures := [{ ring := 1, index := 0, entry := wEntry 48 [(36, 2, 1), (38, 2, 1), (12, 4, 64)], region := 0, frame := some 1, written := 0, skipped := 0, left := 1 }], fifo := [{ region := 0, row := 0, frame := 1, blocks := [] }] }) : State).dueSlot (0 : Nat) (0 : Nat)).get (by decide +kernel) : Slot).operand 0 12 + bits ((((wSlot (wAct (wSet wUp [(Fld.CMP_RASTER_WIDTH 0, 16), (Fld.CMP_RASTER_HEIGHT 0, 16)]) 3 (wEntry 48 [(36, 2, 1), (38, 2, 1), (12, 4, 64)])) 0x0C 29 0).onVideo (fun v => { v with captures := [{ ring := 1, index := 0, entry := wEntry 48 [(36, 2, 1), (38, 2, 1), (12, 4, 64)], region := 0, frame := some 1, written := 0, skipped := 0, left := 1 }], fifo := [{ region := 0, row := 0, frame := 1, blocks := [] }] }) : State).dueSlot (0 : Nat) (0 : Nat)).get (by decide +kernel) : Slot).operand 12 4))).head (by decide +kernel),
     ((((wSlot (wAct (wSet wUp [(Fld.CMP_RASTER_WIDTH 0, 16), (Fld.CMP_RASTER_HEIGHT 0, 16)]) 3 (wEntry 48 [(36, 2, 1), (38, 2, 1), (12, 4, 64)])) 0x0C 29 0).onVideo (fun v => { v with captures := [{ ring := 1, index := 0, entry := wEntry 48 [(36, 2, 1), (38, 2, 1), (12, 4, 64)], region := 0, frame := some 1, written := 0, skipped := 0, left := 1 }], fifo := [{ region := 0, row := 0, frame := 1, blocks := [] }] }) : State).startSlot (0 : Nat) (0 : Nat) true : State).video.fifo.filter (fun r => r.region == (0 : Nat) && decide (bits ((((wSlot (wAct (wSet wUp [(Fld.CMP_RASTER_WIDTH 0, 16), (Fld.CMP_RASTER_HEIGHT 0, 16)]) 3 (wEntry 48 [(36, 2, 1), (38, 2, 1), (12, 4, 64)])) 0x0C 29 0).onVideo (fun v => { v with captures := [{ ring := 1, index := 0, entry := wEntry 48 [(36, 2, 1), (38, 2, 1), (12, 4, 64)], region := 0, frame := some 1, written := 0, skipped := 0, left := 1 }], fifo := [{ region := 0, row := 0, frame := 1, blocks := [] }] }) : State).dueSlot (0 : Nat) (0 : Nat)).get (by decide +kernel) : Slot).operand 0 12 ≤ r.row ∧ r.row ≤ bits ((((wSlot (wAct (wSet wUp [(Fld.CMP_RASTER_WIDTH 0, 16), (Fld.CMP_RASTER_HEIGHT 0, 16)]) 3 (wEntry 48 [(36, 2, 1), (38, 2, 1), (12, 4, 64)])) 0x0C 29 0).onVideo (fun v => { v with captures := [{ ring := 1, index := 0, entry := wEntry 48 [(36, 2, 1), (38, 2, 1), (12, 4, 64)], region := 0, frame := some 1, written := 0, skipped := 0, left := 1 }], fifo := [{ region := 0, row := 0, frame := 1, blocks := [] }] }) : State).dueSlot (0 : Nat) (0 : Nat)).get (by decide +kernel) : Slot).operand 0 12 + bits ((((wSlot (wAct (wSet wUp [(Fld.CMP_RASTER_WIDTH 0, 16), (Fld.CMP_RASTER_HEIGHT 0, 16)]) 3 (wEntry 48 [(36, 2, 1), (38, 2, 1), (12, 4, 64)])) 0x0C 29 0).onVideo (fun v => { v with captures := [{ ring := 1, index := 0, entry := wEntry 48 [(36, 2, 1), (38, 2, 1), (12, 4, 64)], region := 0, frame := some 1, written := 0, skipped := 0, left := 1 }], fifo := [{ region := 0, row := 0, frame := 1, blocks := [] }] }) : State).dueSlot (0 : Nat) (0 : Nat)).get (by decide +kernel) : Slot).operand 12 4))).tail,
     ((((wSlot (wAct (wSet wUp [(Fld.CMP_RASTER_WIDTH 0, 16), (Fld.CMP_RASTER_HEIGHT 0, 16)]) 3 (wEntry 48 [(36, 2, 1), (38, 2, 1), (12, 4, 64)])) 0x0C 29 0).onVideo (fun v => { v with captures := [{ ring := 1, index := 0, entry := wEntry 48 [(36, 2, 1), (38, 2, 1), (12, 4, 64)], region := 0, frame := some 1, written := 0, skipped := 0, left := 1 }], fifo := [{ region := 0, row := 0, frame := 1, blocks := [] }] }) : State).startSlot (0 : Nat) (0 : Nat) true : State).video.captures.find? (fun b => b.region == (0 : Nat) && b.frame == some (((((wSlot (wAct (wSet wUp [(Fld.CMP_RASTER_WIDTH 0, 16), (Fld.CMP_RASTER_HEIGHT 0, 16)]) 3 (wEntry 48 [(36, 2, 1), (38, 2, 1), (12, 4, 64)])) 0x0C 29 0).onVideo (fun v => { v with captures := [{ ring := 1, index := 0, entry := wEntry 48 [(36, 2, 1), (38, 2, 1), (12, 4, 64)], region := 0, frame := some 1, written := 0, skipped := 0, left := 1 }], fifo := [{ region := 0, row := 0, frame := 1, blocks := [] }] }) : State).startSlot (0 : Nat) (0 : Nat) true : State).video.fifo.filter (fun r => r.region == (0 : Nat) && decide (bits ((((wSlot (wAct (wSet wUp [(Fld.CMP_RASTER_WIDTH 0, 16), (Fld.CMP_RASTER_HEIGHT 0, 16)]) 3 (wEntry 48 [(36, 2, 1), (38, 2, 1), (12, 4, 64)])) 0x0C 29 0).onVideo (fun v => { v with captures := [{ ring := 1, index := 0, entry := wEntry 48 [(36, 2, 1), (38, 2, 1), (12, 4, 64)], region := 0, frame := some 1, written := 0, skipped := 0, left := 1 }], fifo := [{ region := 0, row := 0, frame := 1, blocks := [] }] }) : State).dueSlot (0 : Nat) (0 : Nat)).get (by decide +kernel) : Slot).operand 0 12 ≤ r.row ∧ r.row ≤ bits ((((wSlot (wAct (wSet wUp [(Fld.CMP_RASTER_WIDTH 0, 16), (Fld.CMP_RASTER_HEIGHT 0, 16)]) 3 (wEntry 48 [(36, 2, 1), (38, 2, 1), (12, 4, 64)])) 0x0C 29 0).onVideo (fun v => { v with captures := [{ ring := 1, index := 0, entry := wEntry 48 [(36, 2, 1), (38, 2, 1), (12, 4, 64)], region := 0, frame := some 1, written := 0, skipped := 0, left := 1 }], fifo := [{ region := 0, row := 0, frame := 1, blocks := [] }] }) : State).dueSlot (0 : Nat) (0 : Nat)).get (by decide +kernel) : Slot).operand 0 12 + bits ((((wSlot (wAct (wSet wUp [(Fld.CMP_RASTER_WIDTH 0, 16), (Fld.CMP_RASTER_HEIGHT 0, 16)]) 3 (wEntry 48 [(36, 2, 1), (38, 2, 1), (12, 4, 64)])) 0x0C 29 0).onVideo (fun v => { v with captures := [{ ring := 1, index := 0, entry := wEntry 48 [(36, 2, 1), (38, 2, 1), (12, 4, 64)], region := 0, frame := some 1, written := 0, skipped := 0, left := 1 }], fifo := [{ region := 0, row := 0, frame := 1, blocks := [] }] }) : State).dueSlot (0 : Nat) (0 : Nat)).get (by decide +kernel) : Slot).operand 12 4))).head (by decide +kernel) : ComposedRow).frame)).get (by decide +kernel),
     _, _, _, 6, 0, by decide +kernel, by decide +kernel, rfl, by decide +kernel, by decide +kernel, rfl, rfl, rfl, by decide +kernel⟩,
   ⟨(wSlot (wAct ((wSet wUp [(Fld.CMP_RASTER_WIDTH 0, 16), (Fld.CMP_RASTER_HEIGHT 0, 16)]).setF (Fld.XLT_CTX_MODE_MODE 0) 2) 3 (wEntry 48 [(36, 2, 1), (38, 2, 1), (12, 4, 64)])) 0x0C 29 0).onVideo (fun v => { v with captures := [{ ring := 1, index := 0, entry := wEntry 48 [(36, 2, 1), (38, 2, 1), (12, 4, 64)], region := 0, frame := some 1, written := 0, skipped := 0, left := 1 }], fifo := [{ region := 0, row := 0, frame := 1, blocks := [] }] }),
     _, 0, 0, { data := [(0, zeros 4096)] },
     (((wSlot (wAct ((wSet wUp [(Fld.CMP_RASTER_WIDTH 0, 16), (Fld.CMP_RASTER_HEIGHT 0, 16)]).setF (Fld.XLT_CTX_MODE_MODE 0) 2) 3 (wEntry 48 [(36, 2, 1), (38, 2, 1), (12, 4, 64)])) 0x0C 29 0).onVideo (fun v => { v with captures := [{ ring := 1, index := 0, entry := wEntry 48 [(36, 2, 1), (38, 2, 1), (12, 4, 64)], region := 0, frame := some 1, written := 0, skipped := 0, left := 1 }], fifo := [{ region := 0, row := 0, frame := 1, blocks := [] }] }) : State).dueSlot (0 : Nat) (0 : Nat)).get (by decide +kernel),
     ((((wSlot (wAct ((wSet wUp [(Fld.CMP_RASTER_WIDTH 0, 16), (Fld.CMP_RASTER_HEIGHT 0, 16)]).setF (Fld.XLT_CTX_MODE_MODE 0) 2) 3 (wEntry 48 [(36, 2, 1), (38, 2, 1), (12, 4, 64)])) 0x0C 29 0).onVideo (fun v => { v with captures := [{ ring := 1, index := 0, entry := wEntry 48 [(36, 2, 1), (38, 2, 1), (12, 4, 64)], region := 0, frame := some 1, written := 0, skipped := 0, left := 1 }], fifo := [{ region := 0, row := 0, frame := 1, blocks := [] }] }) : State).startSlot (0 : Nat) (0 : Nat) true : State).video.fifo.filter (fun r => r.region == (0 : Nat) && decide (bits ((((wSlot (wAct ((wSet wUp [(Fld.CMP_RASTER_WIDTH 0, 16), (Fld.CMP_RASTER_HEIGHT 0, 16)]).setF (Fld.XLT_CTX_MODE_MODE 0) 2) 3 (wEntry 48 [(36, 2, 1), (38, 2, 1), (12, 4, 64)])) 0x0C 29 0).onVideo (fun v => { v with captures := [{ ring := 1, index := 0, entry := wEntry 48 [(36, 2, 1), (38, 2, 1), (12, 4, 64)], region := 0, frame := some 1, written := 0, skipped := 0, left := 1 }], fifo := [{ region := 0, row := 0, frame := 1, blocks := [] }] }) : State).dueSlot (0 : Nat) (0 : Nat)).get (by decide +kernel) : Slot).operand 0 12 ≤ r.row ∧ r.row ≤ bits ((((wSlot (wAct ((wSet wUp [(Fld.CMP_RASTER_WIDTH 0, 16), (Fld.CMP_RASTER_HEIGHT 0, 16)]).setF (Fld.XLT_CTX_MODE_MODE 0) 2) 3 (wEntry 48 [(36, 2, 1), (38, 2, 1), (12, 4, 64)])) 0x0C 29 0).onVideo (fun v => { v with captures := [{ ring := 1, index := 0, entry := wEntry 48 [(36, 2, 1), (38, 2, 1), (12, 4, 64)], region := 0, frame := some 1, written := 0, skipped := 0, left := 1 }], fifo := [{ region := 0, row := 0, frame := 1, blocks := [] }] }) : State).dueSlot (0 : Nat) (0 : Nat)).get (by decide +kernel) : Slot).operand 0 12 + bits ((((wSlot (wAct ((wSet wUp [(Fld.CMP_RASTER_WIDTH 0, 16), (Fld.CMP_RASTER_HEIGHT 0, 16)]).setF (Fld.XLT_CTX_MODE_MODE 0) 2) 3 (wEntry 48 [(36, 2, 1), (38, 2, 1), (12, 4, 64)])) 0x0C 29 0).onVideo (fun v => { v with captures := [{ ring := 1, index := 0, entry := wEntry 48 [(36, 2, 1), (38, 2, 1), (12, 4, 64)], region := 0, frame := some 1, written := 0, skipped := 0, left := 1 }], fifo := [{ region := 0, row := 0, frame := 1, blocks := [] }] }) : State).dueSlot (0 : Nat) (0 : Nat)).get (by decide +kernel) : Slot).operand 12 4))).head (by decide +kernel),
     ((((wSlot (wAct ((wSet wUp [(Fld.CMP_RASTER_WIDTH 0, 16), (Fld.CMP_RASTER_HEIGHT 0, 16)]).setF (Fld.XLT_CTX_MODE_MODE 0) 2) 3 (wEntry 48 [(36, 2, 1), (38, 2, 1), (12, 4, 64)])) 0x0C 29 0).onVideo (fun v => { v with captures := [{ ring := 1, index := 0, entry := wEntry 48 [(36, 2, 1), (38, 2, 1), (12, 4, 64)], region := 0, frame := some 1, written := 0, skipped := 0, left := 1 }], fifo := [{ region := 0, row := 0, frame := 1, blocks := [] }] }) : State).startSlot (0 : Nat) (0 : Nat) true : State).video.fifo.filter (fun r => r.region == (0 : Nat) && decide (bits ((((wSlot (wAct ((wSet wUp [(Fld.CMP_RASTER_WIDTH 0, 16), (Fld.CMP_RASTER_HEIGHT 0, 16)]).setF (Fld.XLT_CTX_MODE_MODE 0) 2) 3 (wEntry 48 [(36, 2, 1), (38, 2, 1), (12, 4, 64)])) 0x0C 29 0).onVideo (fun v => { v with captures := [{ ring := 1, index := 0, entry := wEntry 48 [(36, 2, 1), (38, 2, 1), (12, 4, 64)], region := 0, frame := some 1, written := 0, skipped := 0, left := 1 }], fifo := [{ region := 0, row := 0, frame := 1, blocks := [] }] }) : State).dueSlot (0 : Nat) (0 : Nat)).get (by decide +kernel) : Slot).operand 0 12 ≤ r.row ∧ r.row ≤ bits ((((wSlot (wAct ((wSet wUp [(Fld.CMP_RASTER_WIDTH 0, 16), (Fld.CMP_RASTER_HEIGHT 0, 16)]).setF (Fld.XLT_CTX_MODE_MODE 0) 2) 3 (wEntry 48 [(36, 2, 1), (38, 2, 1), (12, 4, 64)])) 0x0C 29 0).onVideo (fun v => { v with captures := [{ ring := 1, index := 0, entry := wEntry 48 [(36, 2, 1), (38, 2, 1), (12, 4, 64)], region := 0, frame := some 1, written := 0, skipped := 0, left := 1 }], fifo := [{ region := 0, row := 0, frame := 1, blocks := [] }] }) : State).dueSlot (0 : Nat) (0 : Nat)).get (by decide +kernel) : Slot).operand 0 12 + bits ((((wSlot (wAct ((wSet wUp [(Fld.CMP_RASTER_WIDTH 0, 16), (Fld.CMP_RASTER_HEIGHT 0, 16)]).setF (Fld.XLT_CTX_MODE_MODE 0) 2) 3 (wEntry 48 [(36, 2, 1), (38, 2, 1), (12, 4, 64)])) 0x0C 29 0).onVideo (fun v => { v with captures := [{ ring := 1, index := 0, entry := wEntry 48 [(36, 2, 1), (38, 2, 1), (12, 4, 64)], region := 0, frame := some 1, written := 0, skipped := 0, left := 1 }], fifo := [{ region := 0, row := 0, frame := 1, blocks := [] }] }) : State).dueSlot (0 : Nat) (0 : Nat)).get (by decide +kernel) : Slot).operand 12 4))).tail,
     ((((wSlot (wAct ((wSet wUp [(Fld.CMP_RASTER_WIDTH 0, 16), (Fld.CMP_RASTER_HEIGHT 0, 16)]).setF (Fld.XLT_CTX_MODE_MODE 0) 2) 3 (wEntry 48 [(36, 2, 1), (38, 2, 1), (12, 4, 64)])) 0x0C 29 0).onVideo (fun v => { v with captures := [{ ring := 1, index := 0, entry := wEntry 48 [(36, 2, 1), (38, 2, 1), (12, 4, 64)], region := 0, frame := some 1, written := 0, skipped := 0, left := 1 }], fifo := [{ region := 0, row := 0, frame := 1, blocks := [] }] }) : State).startSlot (0 : Nat) (0 : Nat) true : State).video.captures.find? (fun b => b.region == (0 : Nat) && b.frame == some (((((wSlot (wAct ((wSet wUp [(Fld.CMP_RASTER_WIDTH 0, 16), (Fld.CMP_RASTER_HEIGHT 0, 16)]).setF (Fld.XLT_CTX_MODE_MODE 0) 2) 3 (wEntry 48 [(36, 2, 1), (38, 2, 1), (12, 4, 64)])) 0x0C 29 0).onVideo (fun v => { v with captures := [{ ring := 1, index := 0, entry := wEntry 48 [(36, 2, 1), (38, 2, 1), (12, 4, 64)], region := 0, frame := some 1, written := 0, skipped := 0, left := 1 }], fifo := [{ region := 0, row := 0, frame := 1, blocks := [] }] }) : State).startSlot (0 : Nat) (0 : Nat) true : State).video.fifo.filter (fun r => r.region == (0 : Nat) && decide (bits ((((wSlot (wAct ((wSet wUp [(Fld.CMP_RASTER_WIDTH 0, 16), (Fld.CMP_RASTER_HEIGHT 0, 16)]).setF (Fld.XLT_CTX_MODE_MODE 0) 2) 3 (wEntry 48 [(36, 2, 1), (38, 2, 1), (12, 4, 64)])) 0x0C 29 0).onVideo (fun v => { v with captures := [{ ring := 1, index := 0, entry := wEntry 48 [(36, 2, 1), (38, 2, 1), (12, 4, 64)], region := 0, frame := some 1, written := 0, skipped := 0, left := 1 }], fifo := [{ region := 0, row := 0, frame := 1, blocks := [] }] }) : State).dueSlot (0 : Nat) (0 : Nat)).get (by decide +kernel) : Slot).operand 0 12 ≤ r.row ∧ r.row ≤ bits ((((wSlot (wAct ((wSet wUp [(Fld.CMP_RASTER_WIDTH 0, 16), (Fld.CMP_RASTER_HEIGHT 0, 16)]).setF (Fld.XLT_CTX_MODE_MODE 0) 2) 3 (wEntry 48 [(36, 2, 1), (38, 2, 1), (12, 4, 64)])) 0x0C 29 0).onVideo (fun v => { v with captures := [{ ring := 1, index := 0, entry := wEntry 48 [(36, 2, 1), (38, 2, 1), (12, 4, 64)], region := 0, frame := some 1, written := 0, skipped := 0, left := 1 }], fifo := [{ region := 0, row := 0, frame := 1, blocks := [] }] }) : State).dueSlot (0 : Nat) (0 : Nat)).get (by decide +kernel) : Slot).operand 0 12 + bits ((((wSlot (wAct ((wSet wUp [(Fld.CMP_RASTER_WIDTH 0, 16), (Fld.CMP_RASTER_HEIGHT 0, 16)]).setF (Fld.XLT_CTX_MODE_MODE 0) 2) 3 (wEntry 48 [(36, 2, 1), (38, 2, 1), (12, 4, 64)])) 0x0C 29 0).onVideo (fun v => { v with captures := [{ ring := 1, index := 0, entry := wEntry 48 [(36, 2, 1), (38, 2, 1), (12, 4, 64)], region := 0, frame := some 1, written := 0, skipped := 0, left := 1 }], fifo := [{ region := 0, row := 0, frame := 1, blocks := [] }] }) : State).dueSlot (0 : Nat) (0 : Nat)).get (by decide +kernel) : Slot).operand 12 4))).head (by decide +kernel) : ComposedRow).frame)).get (by decide +kernel),
     _, _, _, _, by decide +kernel, by decide +kernel, rfl, by decide +kernel, by decide +kernel, rfl, rfl, rfl, by decide +kernel, rfl⟩,
   ⟨wSlot wUp 0x01 2 0, _, 0, 0, false, {}, 0, ((wSlot wUp 0x01 2 0 : State).dueSlot (0 : Nat) (0 : Nat)).get (by decide +kernel), _, by decide +kernel,
     by decide +kernel, by decide +kernel, by decide +kernel, by decide +kernel, by decide +kernel, rfl, by decide +kernel, by decide +kernel, rfl⟩,
   ⟨{ region := 0, slot := 0, next := 0, last := 0, frame := 1, plan := [], mem := {}, late := false, fetched := true, waiting := false }, 0,
     wSet wUp [(Fld.CMP_RASTER_WIDTH 0, 16), (Fld.CMP_RASTER_HEIGHT 0, 16)], _, by decide +kernel, by decide +kernel, rfl, by decide +kernel⟩,
   ⟨{ region := 0, slot := 0, next := 0, last := 0, frame := 1, plan := [], mem := {}, late := false, fetched := true, waiting := false }, 0,
     (wSet wUp [(Fld.CMP_RASTER_WIDTH 0, 16), (Fld.CMP_RASTER_HEIGHT 0, 16)]).on (fun io => { io with ops := [{ used := [{ cls := 0, shared := false, host := true, write := false, addr := 0, tags := 0, who := .slot 0 0, ctx := none }] }, {}, {}, {}] }),
     _, by decide +kernel, by decide +kernel, rfl, by decide +kernel⟩,
   ⟨wUp.onVideo (fun v => { v with handoff := [{ region := 0, row := 0, frame := 1, blocks := [] }] }), _, 0,
     ((wUp.onVideo (fun v => { v with handoff := [{ region := 0, row := 0, frame := 1, blocks := [] }] }) : State).handoffOf (0 : Nat)).head (by decide +kernel),
     ((wUp.onVideo (fun v => { v with handoff := [{ region := 0, row := 0, frame := 1, blocks := [] }] }) : State).handoffOf (0 : Nat)).tail,
     by decide +kernel, rfl, by decide +kernel⟩,
   ⟨(wSlot wUp 0x01 2 0).onVideo (fun v => { v with handoff := [{ region := 0, row := 0, frame := 1, blocks := [] }], composing := [{ region := 0, slot := 0, next := 0, last := 0, frame := 1, plan := [], mem := {}, late := false, fetched := true, waiting := true }] }),
     _, 0,
     (((wSlot wUp 0x01 2 0).onVideo (fun v => { v with handoff := [{ region := 0, row := 0, frame := 1, blocks := [] }], composing := [{ region := 0, slot := 0, next := 0, last := 0, frame := 1, plan := [], mem := {}, late := false, fetched := true, waiting := true }] }) : State).handoffOf (0 : Nat)).head (by decide +kernel),
     (((wSlot wUp 0x01 2 0).onVideo (fun v => { v with handoff := [{ region := 0, row := 0, frame := 1, blocks := [] }], composing := [{ region := 0, slot := 0, next := 0, last := 0, frame := 1, plan := [], mem := {}, late := false, fetched := true, waiting := true }] }) : State).handoffOf (0 : Nat)).tail,
     (((((wSlot wUp 0x01 2 0).onVideo (fun v => { v with handoff := [{ region := 0, row := 0, frame := 1, blocks := [] }], composing := [{ region := 0, slot := 0, next := 0, last := 0, frame := 1, plan := [], mem := {}, late := false, fetched := true, waiting := true }] }) : State).onVideo (fun v => { v with handoff := eraseFirst (fun x => x == ((((wSlot wUp 0x01 2 0).onVideo (fun v => { v with handoff := [{ region := 0, row := 0, frame := 1, blocks := [] }], composing := [{ region := 0, slot := 0, next := 0, last := 0, frame := 1, plan := [], mem := {}, late := false, fetched := true, waiting := true }] }) : State).handoffOf (0 : Nat)).head (by decide +kernel) : ComposedRow)) v.handoff, taken := v.taken ++ [((((wSlot wUp 0x01 2 0).onVideo (fun v => { v with handoff := [{ region := 0, row := 0, frame := 1, blocks := [] }], composing := [{ region := 0, slot := 0, next := 0, last := 0, frame := 1, plan := [], mem := {}, late := false, fetched := true, waiting := true }] }) : State).handoffOf (0 : Nat)).head (by decide +kernel) : ComposedRow)] })).reportRows (0 : Nat) : State).video.composing.find? (fun c => c.region == (0 : Nat) && c.waiting)).get (by decide +kernel),
     (((((wSlot wUp 0x01 2 0).onVideo (fun v => { v with handoff := [{ region := 0, row := 0, frame := 1, blocks := [] }], composing := [{ region := 0, slot := 0, next := 0, last := 0, frame := 1, plan := [], mem := {}, late := false, fetched := true, waiting := true }] }) : State).onVideo (fun v => { v with handoff := eraseFirst (fun x => x == ((((wSlot wUp 0x01 2 0).onVideo (fun v => { v with handoff := [{ region := 0, row := 0, frame := 1, blocks := [] }], composing := [{ region := 0, slot := 0, next := 0, last := 0, frame := 1, plan := [], mem := {}, late := false, fetched := true, waiting := true }] }) : State).handoffOf (0 : Nat)).head (by decide +kernel) : ComposedRow)) v.handoff, taken := v.taken ++ [((((wSlot wUp 0x01 2 0).onVideo (fun v => { v with handoff := [{ region := 0, row := 0, frame := 1, blocks := [] }], composing := [{ region := 0, slot := 0, next := 0, last := 0, frame := 1, plan := [], mem := {}, late := false, fetched := true, waiting := true }] }) : State).handoffOf (0 : Nat)).head (by decide +kernel) : ComposedRow)] })).reportRows (0 : Nat) : State).slot ((((((wSlot wUp 0x01 2 0).onVideo (fun v => { v with handoff := [{ region := 0, row := 0, frame := 1, blocks := [] }], composing := [{ region := 0, slot := 0, next := 0, last := 0, frame := 1, plan := [], mem := {}, late := false, fetched := true, waiting := true }] }) : State).onVideo (fun v => { v with handoff := eraseFirst (fun x => x == ((((wSlot wUp 0x01 2 0).onVideo (fun v => { v with handoff := [{ region := 0, row := 0, frame := 1, blocks := [] }], composing := [{ region := 0, slot := 0, next := 0, last := 0, frame := 1, plan := [], mem := {}, late := false, fetched := true, waiting := true }] }) : State).handoffOf (0 : Nat)).head (by decide +kernel) : ComposedRow)) v.handoff, taken := v.taken ++ [((((wSlot wUp 0x01 2 0).onVideo (fun v => { v with handoff := [{ region := 0, row := 0, frame := 1, blocks := [] }], composing := [{ region := 0, slot := 0, next := 0, last := 0, frame := 1, plan := [], mem := {}, late := false, fetched := true, waiting := true }] }) : State).handoffOf (0 : Nat)).head (by decide +kernel) : ComposedRow)] })).reportRows (0 : Nat) : State).video.composing.find? (fun c => c.region == (0 : Nat) && c.waiting)).get (by decide +kernel)).region ((((((wSlot wUp 0x01 2 0).onVideo (fun v => { v with handoff := [{ region := 0, row := 0, frame := 1, blocks := [] }], composing := [{ region := 0, slot := 0, next := 0, last := 0, frame := 1, plan := [], mem := {}, late := false, fetched := true, waiting := true }] }) : State).onVideo (fun v => { v with handoff := eraseFirst (fun x => x == ((((wSlot wUp 0x01 2 0).onVideo (fun v => { v with handoff := [{ region := 0, row := 0, frame := 1, blocks := [] }], composing := [{ region := 0, slot := 0, next := 0, last := 0, frame := 1, plan := [], mem := {}, late := false, fetched := true, waiting := true }] }) : State).handoffOf (0 : Nat)).head (by decide +kernel) : ComposedRow)) v.handoff, taken := v.taken ++ [((((wSlot wUp 0x01 2 0).onVideo (fun v => { v with handoff := [{ region := 0, row := 0, frame := 1, blocks := [] }], composing := [{ region := 0, slot := 0, next := 0, last := 0, frame := 1, plan := [], mem := {}, late := false, fetched := true, waiting := true }] }) : State).handoffOf (0 : Nat)).head (by decide +kernel) : ComposedRow)] })).reportRows (0 : Nat) : State).video.composing.find? (fun c => c.region == (0 : Nat) && c.waiting)).get (by decide +kernel)).slot).get (by decide +kernel),
     by decide +kernel, rfl, by decide +kernel, by decide +kernel⟩⟩

theorem witness_EncodingAndDecoding :
    (∃ (s u : State) (region slot : Nat) (late : Bool) (sl : Slot) (e : Position) (r : State × List (List Byte)), (s.dueSlot region slot = some sl) ∧
      (s.sliceOf (bits sl.operand 6 4) (bits sl.operand 0 6) = some e) ∧ (sl.kind = 0x02) ∧ (s.io.operational = true) ∧
      (s.video.fenced.contains region = false) ∧ (u = s.startSlot region slot true late) ∧
      (r = u.encodeSlice region slot e (s.plan.own == some e) (if late then s.io.tick else s.io.tick + 1) late (s.blockStopped region 2))) ∧
    (∃ (s u : State) (port : Nat) (cell : List Byte) (x : Nat) (c : Cell), ((s.on (·.at x)).acceptCell port 0x1 cell = (u, some c))) ∧
    (∃ (s : State) (chain pos first last : Nat) (pl : List Byte), (s.serving = true) ∧ (s.pair ≠ pACTIVE) ∧ (s.keyRows chain pos pl = some (first, last))) ∧
    (∃ (s u : State) (port : Nat) (packet pl : List Byte) (h : PacketHead) (ok : Bool), (s.takePacket port packet = (u, some (h, pl, ok))) ∧
      (h.ptype = 1) ∧ (u.io.isTile = true) ∧ (u.keeps h = true) ∧ (h.bcast = false)) ∧
    (∃ (s u : State) (port : Nat) (packet pl : List Byte) (h : PacketHead) (ok : Bool), (s.takePacket port packet = (u, some (h, pl, ok))) ∧
      (h.ptype = 1) ∧ (u.io.isTile = true) ∧ (u.keeps h = false ∨ h.bcast = true)) ∧
    (∃ (s u : State) (port : Nat) (packet pl : List Byte) (h : PacketHead) (ok : Bool) (c : _), (s.takePacket port packet = (u, some (h, pl, ok))) ∧
      (h.ptype = 1) ∧ (u.io.isTile = false) ∧ (u.cascadePort port = some c) ∧ (c.chain = h.chain) ∧ (c.position = h.position)) ∧
    (∃ (s : State) (region slot lo k : Nat) (sl : Slot), (s.dueSlot region slot = some sl) ∧ (sl.decodes 0 region = some (lo, k)) ∧
      (s.video.fenced.contains region = false) ∧ (s.blockStopped region 3 = false)) ∧
    (∃ (s : State) (region slot lo k : Nat) (sl : Slot), (s.dueSlot region slot = some sl) ∧ (sl.kind = 0x0E) ∧
      (sl.decodes (4 * region + bits sl.operand 12 2 + 1) region = some (lo, k)) ∧ (s.video.fenced.contains region = false) ∧
      (s.blockStopped region 3 = false)) ∧
    (∃ (s : State) (region slot row : Nat) (sl : Slot) (e : Position), (s.slot region slot = some sl) ∧ (sl.kind ≠ 0x0E) ∧ (s.streamSlice 0 = some e) ∧
      (sl.covers 0 region row = true) ∧ (row < e.rows)) ∧
    (∃ (s : State) (region slot row : Nat) (sl : Slot) (e : Position) (st : _), (s.slot region slot = some sl) ∧
      (st = 4 * region + bits sl.operand 12 2 + 1) ∧ (sl.kind = 0x0E) ∧ (s.streamSlice st = some e) ∧ (sl.covers st region row = true) ∧ (row < e.rows)) ∧
    (∃ (s : State) (st frame row : Nat), ((s.decoder st).settled frame row = true)) ∧
    (∃ (s : State) (port f : Nat) (e : Position), (s.streamSlice (port + 1) = some e) ∧ ((s.decoder (port + 1)).frame = some f) ∧
      ((List.range e.rows).all (fun r => (s.decoder (port + 1)).resolved.contains (f, r)) = true)) :=
  ⟨⟨wSlot (wPlan (wUp) |> fun s => { s with plan := { s.plan with own := some (wPos 0) } }) 0x02 5 0, _, 0, 0, false,
     ((wSlot (wPlan (wUp) |> fun s => { s with plan := { s.plan with own := some (wPos 0) } }) 0x02 5 0 : State).dueSlot (0 : Nat) (0 : Nat)).get (by decide +kernel),
     ((wSlot (wPlan (wUp) |> fun s => { s with plan := { s.plan with own := some (wPos 0) } }) 0x02 5 0 : State).sliceOf (bits (((wSlot (wPlan (wUp) |> fun s => { s with plan := { s.plan with own := some (wPos 0) } }) 0x02 5 0 : State).dueSlot (0 : Nat) (0 : Nat)).get (by decide +kernel) : Slot).operand 6 4) (bits (((wSlot (wPlan (wUp) |> fun s => { s with plan := { s.plan with own := some (wPos 0) } }) 0x02 5 0 : State).dueSlot (0 : Nat) (0 : Nat)).get (by decide +kernel) : Slot).operand 0 6)).get (by decide +kernel),
     _, by decide +kernel, by decide +kernel, by decide +kernel, by decide +kernel, by decide +kernel, rfl, rfl⟩,
   ⟨wNet, (((wNet : State).on (·.at (0 : Nat))).acceptCell (0 : Nat) 0x1 (cellBytes 1 0 0 1 (zeros 20) : List Byte)).1, 0, cellBytes 1 0 0 1 (zeros 20),
     0, ((((wNet : State).on (·.at (0 : Nat))).acceptCell (0 : Nat) 0x1 (cellBytes 1 0 0 1 (zeros 20) : List Byte)).2).get (by decide +kernel),
     by decide +kernel⟩,
   ⟨wNet, 0, 0, 0, 0, leBytes 8 (2 ^ 42) ++ zeros 12, by decide +kernel, by decide +kernel, by decide +kernel⟩,
   ⟨wNode stOPERATIONAL, ((wNode stOPERATIONAL : State).takePacket (0 : Nat) (wPkt 1 (zeros 32) : List Byte)).1, 0, wPkt 1 (zeros 32),
     ((((wNode stOPERATIONAL : State).takePacket (0 : Nat) (wPkt 1 (zeros 32) : List Byte)).2).get (by decide +kernel)).2.1,
     ((((wNode stOPERATIONAL : State).takePacket (0 : Nat) (wPkt 1 (zeros 32) : List Byte)).2).get (by decide +kernel)).1,
     ((((wNode stOPERATIONAL : State).takePacket (0 : Nat) (wPkt 1 (zeros 32) : List Byte)).2).get (by decide +kernel)).2.2, by decide +kernel,
     by decide +kernel, by decide +kernel, by decide +kernel, by decide +kernel⟩,
   ⟨wNode stOPERATIONAL, ((wNode stOPERATIONAL : State).takePacket (0 : Nat) (packetBytes 1 true 0 0 (zeros 32) : List Byte)).1, 0,
     packetBytes 1 true 0 0 (zeros 32),
     ((((wNode stOPERATIONAL : State).takePacket (0 : Nat) (packetBytes 1 true 0 0 (zeros 32) : List Byte)).2).get (by decide +kernel)).2.1,
     ((((wNode stOPERATIONAL : State).takePacket (0 : Nat) (packetBytes 1 true 0 0 (zeros 32) : List Byte)).2).get (by decide +kernel)).1,
     ((((wNode stOPERATIONAL : State).takePacket (0 : Nat) (packetBytes 1 true 0 0 (zeros 32) : List Byte)).2).get (by decide +kernel)).2.2,
     by decide +kernel, by decide +kernel, by decide +kernel, by decide +kernel⟩,
   ⟨wNet.onLay (fun l => { l with inputs := [{ port := 0, chain := 0, position := 0, width := 16, height := 16, budget := 0 }] }),
     ((wNet.onLay (fun l => { l with inputs := [{ port := 0, chain := 0, position := 0, width := 16, height := 16, budget := 0 }] }) : State).takePacket (0 : Nat) (wPkt 1 (zeros 32) : List Byte)).1,
     0, wPkt 1 (zeros 32),
     ((((wNet.onLay (fun l => { l with inputs := [{ port := 0, chain := 0, position := 0, width := 16, height := 16, budget := 0 }] }) : State).takePacket (0 : Nat) (wPkt 1 (zeros 32) : List Byte)).2).get (by decide +kernel)).2.1,
     ((((wNet.onLay (fun l => { l with inputs := [{ port := 0, chain := 0, position := 0, width := 16, height := 16, budget := 0 }] }) : State).takePacket (0 : Nat) (wPkt 1 (zeros 32) : List Byte)).2).get (by decide +kernel)).1,
     ((((wNet.onLay (fun l => { l with inputs := [{ port := 0, chain := 0, position := 0, width := 16, height := 16, budget := 0 }] }) : State).takePacket (0 : Nat) (wPkt 1 (zeros 32) : List Byte)).2).get (by decide +kernel)).2.2,
     ((((wNet.onLay (fun l => { l with inputs := [{ port := 0, chain := 0, position := 0, width := 16, height := 16, budget := 0 }] }) : State).takePacket (0 : Nat) (wPkt 1 (zeros 32) : List Byte)).1 : State).cascadePort (0 : Nat)).get (by decide +kernel),
     by decide +kernel, by decide +kernel, by decide +kernel, by decide +kernel, by decide +kernel, by decide +kernel⟩,
   ⟨wSlot (wPlan (wUp) |> fun s => { s with plan := { s.plan with own := some (wPos 0) } }) 0x04 9 0, 0, 0,
     (((((wSlot (wPlan (wUp) |> fun s => { s with plan := { s.plan with own := some (wPos 0) } }) 0x04 9 0 : State).dueSlot (0 : Nat) (0 : Nat)).get (by decide +kernel) : Slot).decodes 0 (0 : Nat)).get (by decide +kernel)).1,
     (((((wSlot (wPlan (wUp) |> fun s => { s with plan := { s.plan with own := some (wPos 0) } }) 0x04 9 0 : State).dueSlot (0 : Nat) (0 : Nat)).get (by decide +kernel) : Slot).decodes 0 (0 : Nat)).get (by decide +kernel)).2,
     ((wSlot (wPlan (wUp) |> fun s => { s with plan := { s.plan with own := some (wPos 0) } }) 0x04 9 0 : State).dueSlot (0 : Nat) (0 : Nat)).get (by decide +kernel),
     by decide +kernel, by decide +kernel, by decide +kernel, by decide +kernel⟩,
   ⟨wSlot (wNet.onLay (fun l => { l with inputs := [{ port := 0, chain := 0, position := 0, width := 16, height := 16, budget := 0 }] })) 0x0E 9 0, 0, 0,
     (((((wSlot (wNet.onLay (fun l => { l with inputs := [{ port := 0, chain := 0, position := 0, width := 16, height := 16, budget := 0 }] })) 0x0E 9 0 : State).dueSlot (0 : Nat) (0 : Nat)).get (by decide +kernel) : Slot).decodes (4 * (0 : Nat) + bits (((wSlot (wNet.onLay (fun l => { l with inputs := [{ port := 0, chain := 0, position := 0, width := 16, height := 16, budget := 0 }] })) 0x0E 9 0 : State).dueSlot (0 : Nat) (0 : Nat)).get (by decide +kernel) : Slot).operand 12 2 + 1) (0 : Nat)).get (by decide +kernel)).1,
     (((((wSlot (wNet.onLay (fun l => { l with inputs := [{ port := 0, chain := 0, position := 0, width := 16, height := 16, budget := 0 }] })) 0x0E 9 0 : State).dueSlot (0 : Nat) (0 : Nat)).get (by decide +kernel) : Slot).decodes (4 * (0 : Nat) + bits (((wSlot (wNet.onLay (fun l => { l with inputs := [{ port := 0, chain := 0, position := 0, width := 16, height := 16, budget := 0 }] })) 0x0E 9 0 : State).dueSlot (0 : Nat) (0 : Nat)).get (by decide +kernel) : Slot).operand 12 2 + 1) (0 : Nat)).get (by decide +kernel)).2,
     ((wSlot (wNet.onLay (fun l => { l with inputs := [{ port := 0, chain := 0, position := 0, width := 16, height := 16, budget := 0 }] })) 0x0E 9 0 : State).dueSlot (0 : Nat) (0 : Nat)).get (by decide +kernel),
     by decide +kernel, by decide +kernel, by decide +kernel, by decide +kernel, by decide +kernel⟩,
   ⟨wSlot (wPlan (wUp) |> fun s => { s with plan := { s.plan with own := some (wPos 0) } }) 0x04 9 0, 0, 0, 0,
     ((wSlot (wPlan (wUp) |> fun s => { s with plan := { s.plan with own := some (wPos 0) } }) 0x04 9 0 : State).slot (0 : Nat) (0 : Nat)).get (by decide +kernel),
     ((wSlot (wPlan (wUp) |> fun s => { s with plan := { s.plan with own := some (wPos 0) } }) 0x04 9 0 : State).streamSlice 0).get (by decide +kernel),
     by decide +kernel, by decide +kernel, by decide +kernel, by decide +kernel, by decide +kernel⟩,
   ⟨wSlot (wNet.onLay (fun l => { l with inputs := [{ port := 0, chain := 0, position := 0, width := 16, height := 16, budget := 0 }] })) 0x0E 9 0, 0, 0,
     0,
     ((wSlot (wNet.onLay (fun l => { l with inputs := [{ port := 0, chain := 0, position := 0, width := 16, height := 16, budget := 0 }] })) 0x0E 9 0 : State).slot (0 : Nat) (0 : Nat)).get (by decide +kernel),
     ((wSlot (wNet.onLay (fun l => { l with inputs := [{ port := 0, chain := 0, position := 0, width := 16, height := 16, budget := 0 }] })) 0x0E 9 0 : State).streamSlice (1)).get (by decide +kernel),
     1, by decide +kernel, by decide +kernel, by decide +kernel, by decide +kernel, by decide +kernel, by decide +kernel⟩,
   ⟨wUp.onVideo (fun v => { v with decoders := [{ stream := 0, accepted := [(5, 0)] }] }), 0, 5, 0, by decide +kernel⟩,
   ⟨(wNet.onLay (fun l => { l with inputs := [{ port := 0, chain := 0, position := 0, width := 16, height := 16, budget := 0 }] })).onVideo (fun v => { v with decoders := [{ stream := 1, frame := some 5, resolved := [(5, 0), (5, 1)] }] }),
     0, 5,
     (((wNet.onLay (fun l => { l with inputs := [{ port := 0, chain := 0, position := 0, width := 16, height := 16, budget := 0 }] })).onVideo (fun v => { v with decoders := [{ stream := 1, frame := some 5, resolved := [(5, 0), (5, 1)] }] }) : State).streamSlice ((0 : Nat) + 1)).get (by decide +kernel),
     by decide +kernel, by decide +kernel, by decide +kernel⟩⟩

theorem witness_LampsAndWear :
    (∃ (s u : State) (region slot frame : Nat) (late : Bool) (sl : Slot) (e : Position) (l : LampLatch), (s.dueSlot region slot = some sl) ∧
      (s.slice = some e) ∧ (frame = (if late then s.io.tick else s.io.tick + 1)) ∧ (sl.kind = 0x05) ∧ (s.video.fenced.contains region = false) ∧
      (s.blockStopped region 4 = false) ∧ (s.latchOf frame = some l) ∧
      (u = (((List.range (bits sl.operand 12 4 + 1)).map (bits sl.operand 0 12 + ·)).filter (fun r => decide (r < e.rows) && !s.lamp.rows.any (fun x => x.frame == frame && x.row == r))).foldl (fun s' r => s'.lampRow region sl.lane e l r) (s.startSlot region slot true late))) ∧
    (∃ (s u v : State) (region slot frame : Nat) (late : Bool) (sl : Slot) (e : Position) (l : LampLatch), (s.dueSlot region slot = some sl) ∧
      (s.slice = some e) ∧ (frame = (if late then s.io.tick else s.io.tick + 1)) ∧ (sl.kind = 0x0B) ∧ (s.io.operational = true) ∧
      (s.lamp.wearRun.contains (frame, region, slot) = false) ∧ (s.video.fenced.contains region = false) ∧ (s.blockStopped region 4 = false) ∧
      (s.latchOf frame = some l) ∧
      (u = (((List.range (bits sl.operand 12 4 + 1)).map (bits sl.operand 0 12 + ·)).filter (fun r => decide (r < e.rows))).foldl (fun s' r => s'.wearRow region sl.lane e l r) (s.startSlot region slot true late)) ∧
      (v = u.onLamp (fun m => { m with wearRun := (frame, region, slot) :: m.wearRun }))) ∧
    (∃ (s : State) (c : _), (s.io.operational = true) ∧ (s.ceilTile = true) ∧ (s.io.hasLamps = true) ∧ (s.isF Fld.LMP_HEADROOM_VALID = true) ∧
      (s.nextSchedule (s.getF Fld.LMP_HEADROOM_HMIN) = some c)) ∧
    (∃ (s : State) (c : _), (s.io.operational = true) ∧ (s.ceilTile = false) ∧ (s.hasCeiling = true) ∧ (s.serving = true) ∧ (s.io.tick % 64 = 0) ∧
      (s.wallHeadroom.bind s.nextSchedule = some c)) ∧
    (∃ (s u : State) (port : Nat) (packet b : List Byte), (s.keptCmd port 0x03 packet [stJOINING, stOPERATIONAL] = (u, some b)) ∧ (u.ceilTile = false)) :=
  ⟨⟨(wSlot ((wPlan (wUp) |> fun s => { s with plan := { s.plan with own := some (wPos 0) } })) 0x05 11 1).onLamp (fun m => { m with latches := [{ frame := 1, active := 0, alpha := none, q := 32768, lims := [0, 0, 0], lit := [], temps := [], rects := [] }] }),
     _, 0, 0, _, false,
     (((wSlot ((wPlan (wUp) |> fun s => { s with plan := { s.plan with own := some (wPos 0) } })) 0x05 11 1).onLamp (fun m => { m with latches := [{ frame := 1, active := 0, alpha := none, q := 32768, lims := [0, 0, 0], lit := [], temps := [], rects := [] }] }) : State).dueSlot (0 : Nat) (0 : Nat)).get (by decide +kernel),
     wPos 0, { frame := 1, active := 0, alpha := none, q := 32768, lims := [0, 0, 0], lit := [], temps := [], rects := [] }, by decide +kernel,
     by decide +kernel, rfl, by decide +kernel, by decide +kernel, by decide +kernel, by decide +kernel, rfl⟩,
   ⟨(wSlot ((wPlan (wUp) |> fun s => { s with plan := { s.plan with own := some (wPos 0) } })) 0x0B 12 1).onLamp (fun m => { m with latches := [{ frame := 1, active := 0, alpha := none, q := 32768, lims := [0, 0, 0], lit := [], temps := [], rects := [] }] }),
     _, _, 0, 0, _, false,
     (((wSlot ((wPlan (wUp) |> fun s => { s with plan := { s.plan with own := some (wPos 0) } })) 0x0B 12 1).onLamp (fun m => { m with latches := [{ frame := 1, active := 0, alpha := none, q := 32768, lims := [0, 0, 0], lit := [], temps := [], rects := [] }] }) : State).dueSlot (0 : Nat) (0 : Nat)).get (by decide +kernel),
     wPos 0, { frame := 1, active := 0, alpha := none, q := 32768, lims := [0, 0, 0], lit := [], temps := [], rects := [] }, by decide +kernel,
     by decide +kernel, rfl, by decide +kernel, by decide +kernel, by decide +kernel, by decide +kernel, by decide +kernel, by decide +kernel, rfl, rfl⟩,
   ⟨(wSet wUp [(Fld.LMP_CFG_SCOPE, 1), (Fld.LMP_HEADROOM_VALID, 1), (Fld.LMP_HEADROOM_HMIN, 9), (Fld.LMP_CEIL_LIMITS_MIN, 5)]).onWall (fun w => { w with target := 100 }),
     (((wSet wUp [(Fld.LMP_CFG_SCOPE, 1), (Fld.LMP_HEADROOM_VALID, 1), (Fld.LMP_HEADROOM_HMIN, 9), (Fld.LMP_CEIL_LIMITS_MIN, 5)]).onWall (fun w => { w with target := 100 }) : State).nextSchedule (((wSet wUp [(Fld.LMP_CFG_SCOPE, 1), (Fld.LMP_HEADROOM_VALID, 1), (Fld.LMP_HEADROOM_HMIN, 9), (Fld.LMP_CEIL_LIMITS_MIN, 5)]).onWall (fun w => { w with target := 100 }) : State).getF Fld.LMP_HEADROOM_HMIN)).get (by decide +kernel),
     by decide +kernel, by decide +kernel, by decide +kernel, by decide +kernel, by decide +kernel⟩,
   ⟨((wSect (wSet wUp [(Fld.LMP_CFG_SCOPE, 0), (Fld.LMP_HEADROOM_VALID, 1), (Fld.LMP_HEADROOM_HMIN, 9), (Fld.LMP_CEIL_LIMITS_MIN, 5), (Fld.LMP_CEIL_CFG_MARGIN, 0)]) 0x000F (zeros 64)).onWall (fun w => { w with target := 100 })),
     ((((wSect (wSet wUp [(Fld.LMP_CFG_SCOPE, 0), (Fld.LMP_HEADROOM_VALID, 1), (Fld.LMP_HEADROOM_HMIN, 9), (Fld.LMP_CEIL_LIMITS_MIN, 5), (Fld.LMP_CEIL_CFG_MARGIN, 0)]) 0x000F (zeros 64)).onWall (fun w => { w with target := 100 })) : State).wallHeadroom.bind (((wSect (wSet wUp [(Fld.LMP_CFG_SCOPE, 0), (Fld.LMP_HEADROOM_VALID, 1), (Fld.LMP_HEADROOM_HMIN, 9), (Fld.LMP_CEIL_LIMITS_MIN, 5), (Fld.LMP_CEIL_CFG_MARGIN, 0)]) 0x000F (zeros 64)).onWall (fun w => { w with target := 100 })) : State).nextSchedule).get (by decide +kernel),
     by decide +kernel, by decide +kernel, by decide +kernel, by decide +kernel, by decide +kernel, by decide +kernel⟩,
   ⟨wNode stOPERATIONAL, ((wNode stOPERATIONAL : State).keptCmd (0 : Nat) 0x03 (wCmd 3 (zeros 16) : List Byte) [stJOINING, stOPERATIONAL]).1, 0,
     wCmd 3 (zeros 16),
     (((wNode stOPERATIONAL : State).keptCmd (0 : Nat) 0x03 (wCmd 3 (zeros 16) : List Byte) [stJOINING, stOPERATIONAL]).2).get (by decide +kernel),
     by decide +kernel, by decide +kernel⟩⟩

theorem witness_DriversAndSync :
    (∃ (s u : State) (region slot : Nat) (late : Bool) (sl : Slot) (g : Nat), (s.dueSlot region slot = some sl) ∧ (g = 12 * region + (sl.lane - 13)) ∧
      (sl.kind = 0x06) ∧ (13 ≤ sl.lane) ∧ (sl.lane ≤ 24) ∧ (s.io.hasLamps = true) ∧ (s.io.operational = true) ∧ (s.groupUsed g = true) ∧
      (s.boot.power ≠ 2) ∧ (s.video.fenced.contains region = false) ∧ (s.driversStopped region = false) ∧ (s.video.synced < s.loadFrame sl late) ∧
      (u = s.startSlot region slot true late) ∧ (bits sl.operand 0 6 = 0) ∧ (u.selfRefresh (u.groupProfile g) = true) ∧
      (u.isF (Fld.DRV_TE_CFG_ENABLE region) = true)) ∧
    (∃ (s u : State) (region slot : Nat) (late : Bool) (sl : Slot) (g : Nat), (s.dueSlot region slot = some sl) ∧ (g = 12 * region + (sl.lane - 13)) ∧
      (sl.kind = 0x06) ∧ (13 ≤ sl.lane) ∧ (sl.lane ≤ 24) ∧ (s.io.hasLamps = true) ∧ (s.io.operational = true) ∧ (s.groupUsed g = true) ∧
      (s.boot.power ≠ 2) ∧ (s.video.fenced.contains region = false) ∧ (s.driversStopped region = false) ∧ (s.video.synced < s.loadFrame sl late) ∧
      (u = s.startSlot region slot true late) ∧
      (bits sl.operand 0 6 ≠ 0 ∨ u.selfRefresh (u.groupProfile g) = false ∨ u.isF (Fld.DRV_TE_CFG_ENABLE region) = false)) ∧
    (∃ (s : State) (region : Nat) (rising : _), (s.io.regionActive region = true) ∧
      (rising = s.isF (Fld.DRV_TE_CFG_POLARITY region) ∨ s.isF (Fld.DRV_TE_CFG_ENABLE region) = false)) ∧
    (∃ (s : State) (region : Nat) (rising u : _), (s.io.regionActive region = true) ∧ (u = s.setF (Fld.DRV_TE_STAT_LEVEL region) (flag rising)) ∧
      (rising ≠ s.isF (Fld.DRV_TE_CFG_POLARITY region)) ∧ (s.isF (Fld.DRV_TE_CFG_ENABLE region) = true)) ∧
    (∃ (s : State) (group : Nat), ((s.group group).waiting.isSome = true)) ∧
    (∃ (s : State), (s.io.hasLamps = true) ∧ (s.video.synced < s.io.tick) ∧ (s.tick.inGap = false) ∧ (s.boot.power = 0) ∧ (s.boot.restartAfter = none)) ∧
    (∃ (s : State) (region slot : Nat) (sl : Slot), (s.dueSlot region slot = some sl) ∧ (sl.kind = 0x0A) ∧ (s.io.hasLamps = true) ∧
      (s.isF Fld.LBD_CFG_GREY_EN = false)) ∧
    (∃ (s u : State) (region slot : Nat) (sl : Slot), (s.dueSlot region slot = some sl) ∧ (sl.kind = 0x0A) ∧ (s.io.hasLamps = true) ∧
      (s.isF Fld.LBD_CFG_GREY_EN = true) ∧ (u = s.startSlot region slot false)) ∧
    (∃ (s : State), (s.io.hasLamps = true)) ∧
    (∃ (s u : State), (stTRAINING ≤ s.io.boot) ∧ (s.io.boot ≠ stUMBER) ∧
      (u = if (match s.record 4 with | some r => sub r 16 2 != sub s.ceilRecord 16 2 || sub r 24 128 != sub s.ceilRecord 24 128 | none => true) || s.wall.changed then s.writeCeiling else s) ∧
      ((u.queueRecord 3 u.thermRecord).io.hasLamps = false)) ∧
    (∃ (s u : State), (stTRAINING ≤ s.io.boot) ∧ (s.io.boot ≠ stUMBER) ∧
      (u = if (match s.record 4 with | some r => sub r 16 2 != sub s.ceilRecord 16 2 || sub r 24 128 != sub s.ceilRecord 24 128 | none => true) || s.wall.changed then s.writeCeiling else s) ∧
      ((u.queueRecord 3 u.thermRecord).io.hasLamps = true)) :=
  ⟨⟨wSlot (wSect (wUp.setF (Fld.DRV_TE_CFG_ENABLE 0) 1) 8 (wBlock 0x944 [(0, 1, 1), (2, 1, 1), (0x46, 1, 2), (0x940, 1, 8)])) 0x06 13 0, _, 0, 0, false,
     ((wSlot (wSect (wUp.setF (Fld.DRV_TE_CFG_ENABLE 0) 1) 8 (wBlock 0x944 [(0, 1, 1), (2, 1, 1), (0x46, 1, 2), (0x940, 1, 8)])) 0x06 13 0 : State).dueSlot (0 : Nat) (0 : Nat)).get (by decide +kernel),
     _, by decide +kernel, rfl, by decide +kernel, by decide +kernel, by decide +kernel, by decide +kernel, by decide +kernel, by decide +kernel,
     by decide +kernel, by decide +kernel, by decide +kernel, by decide +kernel, rfl, by decide +kernel, by decide +kernel, by decide +kernel⟩,
   ⟨wSlot (wSect (wUp.setF (Fld.DRV_TE_CFG_ENABLE 0) 0) 8 (wBlock 0x944 [(0, 1, 1), (2, 1, 1), (0x46, 1, 0), (0x940, 1, 8)])) 0x06 13 0, _, 0, 0, false,
     ((wSlot (wSect (wUp.setF (Fld.DRV_TE_CFG_ENABLE 0) 0) 8 (wBlock 0x944 [(0, 1, 1), (2, 1, 1), (0x46, 1, 0), (0x940, 1, 8)])) 0x06 13 0 : State).dueSlot (0 : Nat) (0 : Nat)).get (by decide +kernel),
     _, by decide +kernel, rfl, by decide +kernel, by decide +kernel, by decide +kernel, by decide +kernel, by decide +kernel, by decide +kernel,
     by decide +kernel, by decide +kernel, by decide +kernel, by decide +kernel, rfl, .inr (by decide +kernel)⟩,
   ⟨wUp, 0, false, by decide +kernel, .inr (by decide +kernel)⟩,
   ⟨wUp.setF (Fld.DRV_TE_CFG_ENABLE 0) 1, 0, true, _, by decide +kernel, rfl, by decide +kernel, by decide +kernel⟩,
   ⟨(wUp).onLamp (fun m => { m with groups := [{ group := 0, waiting := some (0, ⟨[], [], 0, 0, 0, []⟩) }] }), 0, by decide +kernel⟩,
   ⟨wUp.setF Fld.TCK_COUNT_LO 5, by decide +kernel, by decide +kernel, by decide +kernel, by decide +kernel, by decide +kernel⟩,
   ⟨wSlot (wUp.setF Fld.LBD_CFG_GREY_EN 0) 0x0A 29 0, 0, 0,
     ((wSlot (wUp.setF Fld.LBD_CFG_GREY_EN 0) 0x0A 29 0 : State).dueSlot (0 : Nat) (0 : Nat)).get (by decide +kernel), by decide +kernel,
     by decide +kernel, by decide +kernel, by decide +kernel⟩,
   ⟨wSlot (wUp.setF Fld.LBD_CFG_GREY_EN 1) 0x0A 29 0, _, 0, 0,
     ((wSlot (wUp.setF Fld.LBD_CFG_GREY_EN 1) 0x0A 29 0 : State).dueSlot (0 : Nat) (0 : Nat)).get (by decide +kernel), by decide +kernel,
     by decide +kernel, by decide +kernel, by decide +kernel, rfl⟩,
   ⟨State.reset, by decide +kernel⟩,
   ⟨wUp.setF Fld.CTL_VARIANT_ROLE 0, _, by decide +kernel, by decide +kernel, rfl, by decide +kernel⟩,
   ⟨wUp, _, by decide +kernel, by decide +kernel, rfl, by decide +kernel⟩⟩

theorem witness_LampBoards :
    (∃ (s : State) (bus slot : Nat) (header : List Byte) (p : BoardSlot) (set : BoardSlot → State), (s.io.hasLamps = true) ∧ (stLOADING ≤ s.io.boot) ∧
      (s.io.boot ≠ stUMBER) ∧ (bus < 16) ∧ (slot < 4) ∧ (s.io.regionActive (bus / 4) = true) ∧
      (p = ((s.boardReads 1).lamp.slots.find? (fun x => x.bus == bus && x.slot == slot)).getD { bus := bus, slot := slot }) ∧
      (set = (fun q => (s.boardReads 1).onLamp (fun m => { m with slots := q :: m.slots.filter (fun x => !(x.bus == bus && x.slot == slot)) }))) ∧
      (headerValid header = p.present)) ∧
    (∃ (s : State) (bus slot : Nat) (header : List Byte) (p : BoardSlot) (set : BoardSlot → State), (s.io.hasLamps = true) ∧ (stLOADING ≤ s.io.boot) ∧
      (s.io.boot ≠ stUMBER) ∧ (bus < 16) ∧ (slot < 4) ∧ (s.io.regionActive (bus / 4) = true) ∧
      (p = ((s.boardReads 1).lamp.slots.find? (fun x => x.bus == bus && x.slot == slot)).getD { bus := bus, slot := slot }) ∧
      (set = (fun q => (s.boardReads 1).onLamp (fun m => { m with slots := q :: m.slots.filter (fun x => !(x.bus == bus && x.slot == slot)) }))) ∧
      (headerValid header ≠ p.present) ∧ (p.run = 0)) ∧
    (∃ (s : State) (bus slot : Nat) (header : List Byte) (p : BoardSlot) (set : BoardSlot → State) (u : State) (b : _), (s.io.hasLamps = true) ∧
      (stLOADING ≤ s.io.boot) ∧ (s.io.boot ≠ stUMBER) ∧ (bus < 16) ∧ (slot < 4) ∧ (s.io.regionActive (bus / 4) = true) ∧
      (p = ((s.boardReads 1).lamp.slots.find? (fun x => x.bus == bus && x.slot == slot)).getD { bus := bus, slot := slot }) ∧
      (set = (fun q => (s.boardReads 1).onLamp (fun m => { m with slots := q :: m.slots.filter (fun x => !(x.bus == bus && x.slot == slot)) }))) ∧
      (u = (set { p with present := headerValid header, run := 0 }).setF (Fld.LBD_BUS_STAT_PRESENT (bus / 4) (bus % 4)) (putBits ((set { p with present := headerValid header, run := 0 }).getF (Fld.LBD_BUS_STAT_PRESENT (bus / 4) (bus % 4))) slot 1 (flag (headerValid header)))) ∧
      (headerValid header ≠ p.present) ∧ (1 ≤ p.run) ∧ (u.namedBoard bus slot = some b)) ∧
    (∃ (s : State) (bus slot : Nat) (header : List Byte) (p : BoardSlot) (set : BoardSlot → State) (u : State), (s.io.hasLamps = true) ∧
      (stLOADING ≤ s.io.boot) ∧ (s.io.boot ≠ stUMBER) ∧ (bus < 16) ∧ (slot < 4) ∧ (s.io.regionActive (bus / 4) = true) ∧
      (p = ((s.boardReads 1).lamp.slots.find? (fun x => x.bus == bus && x.slot == slot)).getD { bus := bus, slot := slot }) ∧
      (set = (fun q => (s.boardReads 1).onLamp (fun m => { m with slots := q :: m.slots.filter (fun x => !(x.bus == bus && x.slot == slot)) }))) ∧
      (u = (set { p with present := headerValid header, run := 0 }).setF (Fld.LBD_BUS_STAT_PRESENT (bus / 4) (bus % 4)) (putBits ((set { p with present := headerValid header, run := 0 }).getF (Fld.LBD_BUS_STAT_PRESENT (bus / 4) (bus % 4))) slot 1 (flag (headerValid header)))) ∧
      (headerValid header ≠ p.present) ∧ (1 ≤ p.run) ∧ (u.namedBoard bus slot = none)) ∧
    (∃ (s : State) (board : Nat), (s.getF (Fld.LBD_BOARD_STAT_STATE board) = 1) ∧ (board < s.boardCount)) ∧
    (∃ (s : State) (board : Nat) (r u : _), (s.getF (Fld.LBD_BOARD_STAT_STATE board) = 1) ∧ (board < s.boardCount) ∧ (u = s.boardReads r.length) ∧
      (u.rejectReason board r = 0)) ∧
    (∃ (s : State) (board : Nat) (r u : _), (s.getF (Fld.LBD_BOARD_STAT_STATE board) = 1) ∧ (board < s.boardCount) ∧ (u = s.boardReads r.length) ∧
      (u.rejectReason board r ≠ 0)) ∧
    (∃ (s u : State) (board value : Nat), (s.getF (Fld.LBD_BOARD_STAT_STATE board) = 3) ∧ (s.isF (Fld.LBD_BOARD_STAT_SENSOR board) = true) ∧
      (u = s.boardReads 1) ∧ (-5120 ≤ signed 16 value) ∧ (signed 16 value ≤ 19200)) ∧
    (∃ (s u : State) (board value : Nat) (v : State), (s.getF (Fld.LBD_BOARD_STAT_STATE board) = 3) ∧ (s.isF (Fld.LBD_BOARD_STAT_SENSOR board) = true) ∧
      (u = s.boardReads 1) ∧
      (v = (u.setF (Fld.LBD_BOARD_STAT_SENSOR_FAULT board) 1).onTherm (fun m => { m with sensors := m.sensors.filter (·.1 != board) })) ∧
      (¬(-5120 ≤ signed 16 value ∧ signed 16 value ≤ 19200)) ∧ ((v.board board).fired.contains 396 = true)) ∧
    (∃ (s u : State) (board value : Nat) (v : State), (s.getF (Fld.LBD_BOARD_STAT_STATE board) = 3) ∧ (s.isF (Fld.LBD_BOARD_STAT_SENSOR board) = true) ∧
      (u = s.boardReads 1) ∧
      (v = (u.setF (Fld.LBD_BOARD_STAT_SENSOR_FAULT board) 1).onTherm (fun m => { m with sensors := m.sensors.filter (·.1 != board) })) ∧
      (¬(-5120 ≤ signed 16 value ∧ signed 16 value ≤ 19200)) ∧ ((v.board board).fired.contains 396 = false)) ∧
    (∃ (s u : State) (bus home : Nat) (p : StorePass), (s.busPass bus = some p) ∧ (p.bytes ≠ []) ∧ (u = s.boardReads 1) ∧
      (home = fieldAt (u.board p.board).header 0x48 4 + 4096 * p.chunk) ∧ (p.inPlace = true)) ∧
    (∃ (s u : State) (bus home : Nat) (p : StorePass), (s.busPass bus = some p) ∧ (p.bytes ≠ []) ∧ (u = s.boardReads 1) ∧
      (home = fieldAt (u.board p.board).header 0x48 4 + 4096 * p.chunk) ∧ (p.inPlace = false)) ∧
    (∃ (s u : State) (bus home : Nat) (p : StorePass), (s.busPass bus = some p) ∧ (p.bytes ≠ []) ∧ (u = s.boardReads 1) ∧
      (home = fieldAt (u.board p.board).header 0x48 4 + 4096 * p.chunk) ∧ (p.failed = false)) ∧
    (∃ (s u : State) (bus home : Nat) (p : StorePass), (s.busPass bus = some p) ∧ (p.bytes ≠ []) ∧ (u = s.boardReads 1) ∧
      (home = fieldAt (u.board p.board).header 0x48 4 + 4096 * p.chunk) ∧ (p.failed = true)) ∧
    (∃ (s u : State) (bus : Nat) (p : StorePass), (s.busPass bus = some p) ∧ (p.bytes = []) ∧ (s.chunkCount p.board ≤ p.chunk) ∧
      (u = (s.writeFaultCopy p.board).onLamp (fun m => { m with passes := eraseFirst (fun q => q == p) m.passes })) ∧ (p.why ≠ 1)) ∧
    (∃ (s u : State) (bus : Nat) (p : StorePass) (v : _), (s.busPass bus = some p) ∧ (p.bytes = []) ∧ (s.chunkCount p.board ≤ p.chunk) ∧
      (u = (s.writeFaultCopy p.board).onLamp (fun m => { m with passes := eraseFirst (fun q => q == p) m.passes })) ∧
      (v = ((u.queueRecord 6 u.unverifiedRecord).boardState p.board 4).setF (Fld.LBD_BOARD_STAT_LIFE_WARN p.board) 0) ∧ (p.why = 1)) ∧
    (∃ (s : State) (board : Nat), (s.litBoards.contains board = true) ∧ ((s.board board).dirty = true)) ∧
    (∃ (s : State) (board : Nat) (path : RegPath), (board < 64) ∧ (s.Accepts path Reg.LBD_TEST)) :=
  ⟨⟨wUp, 0, 0, [], _, _, by decide +kernel, by decide +kernel, by decide +kernel, by decide +kernel, by decide +kernel, by decide +kernel, rfl, rfl,
     by decide +kernel⟩,
   ⟨(wSect wUp 8 (wBlock 3 [(2, 1, 1)])).onLamp (fun m => { m with slots := [{ bus := 0, slot := 0, present := true, run := 0 }] }), 0, 0, [], _, _,
     by decide +kernel, by decide +kernel, by decide +kernel, by decide +kernel, by decide +kernel, by decide +kernel, rfl, rfl, by decide +kernel,
     by decide +kernel⟩,
   ⟨(wSect wUp 8 (wBlock 3 [(2, 1, 1)])).onLamp (fun m => { m with slots := [{ bus := 0, slot := 0, present := true, run := 1 }] }), 0, 0, [], _, _, _,
     0, by decide +kernel, by decide +kernel, by decide +kernel, by decide +kernel, by decide +kernel, by decide +kernel, rfl, rfl, rfl,
     by decide +kernel, by decide +kernel, by decide +kernel⟩,
   ⟨(wUp).onLamp (fun m => { m with slots := [{ bus := 0, slot := 0, present := true, run := 1 }] }), 0, 0, [], _, _, _, by decide +kernel,
     by decide +kernel, by decide +kernel, by decide +kernel, by decide +kernel, by decide +kernel, rfl, rfl, rfl, by decide +kernel, by decide +kernel,
     by decide +kernel⟩,
   ⟨(wSect wUp 8 (wBlock 3 [(2, 1, 1)])).setF (Fld.LBD_BOARD_STAT_STATE 0) 1, 0, by decide +kernel, by decide +kernel⟩,
   ⟨wSect ((wSect wUp 8 (wBlock 3 [(2, 1, 1)])).setF (Fld.LBD_BOARD_STAT_STATE 0) 1) 9 (wBlock 548 [(0, 4, 1), (20, 512, 2 ^ 4096 - 1), (532, 4, 1)]), 0,
     [(0, wBlock 0x400 [(0, 4, 1145651788), (4, 2, 1), (6, 1, 18), (64, 4, 1024), (68, 4, 1024), (72, 4, 4096), (76, 4, 4096), (80, 4, 8192), (272, 512, 767890585799176490671724123158636007503820539065493250484787811078373873222424890066168081340141226106747686214225037366069149627378270384834817167692502485044638110368481067923906972478858614002081360758166248552139854930021178511759352454615364132074302381357623437259538618921453930168970923097870666633139913143113040358377739682814252078278211384888642447284231206347403500663997943602080854243946000243058779106904240870347897986731836423265873560378415195364932815906402422609596887686774396168541164488238768719912708147614780739537559952640890372293176379549750894836928635076293404497597097653217570349464274340556261255679723932701820060768953852479392765806497565911056694024271354596998165337462597984405143618106973313112119404677841743737735649076407819750744590848468436027280922135382049004306589628662383747246107376753203861066941113459784157417024332443788463307679279478340717345076049903909715201503922228644629136445983686387447357695622241056292454160337208916222689830057979988586263513973155812372440277723559039961643705478535221427571027632121776347838280706464003602194745501414839337202108078026329777593453886922834491938279766993885362513473501693497435252777908229181391144726549204914517630974220319)]), (0x400, zeros 832)],
     _, by decide +kernel, by decide +kernel, rfl, by decide +kernel⟩,
   ⟨(wSect wUp 8 (wBlock 3 [(2, 1, 1)])).setF (Fld.LBD_BOARD_STAT_STATE 0) 1, 0, [], _, by decide +kernel, by decide +kernel, rfl, by decide +kernel⟩,
   ⟨wSet wUp [(Fld.LBD_BOARD_STAT_STATE 0, 3), (Fld.LBD_BOARD_STAT_SENSOR 0, 1)], _, 0, 19200, by decide +kernel, by decide +kernel, rfl,
     by decide +kernel, by decide +kernel⟩,
   ⟨(wSet wUp [(Fld.LBD_BOARD_STAT_STATE 0, 3), (Fld.LBD_BOARD_STAT_SENSOR 0, 1)]).onLamp (fun m => { m with boards := [{ index := 0, fired := [396] }] }),
     _, 0, 19201, _, by decide +kernel, by decide +kernel, rfl, rfl, by decide +kernel, by decide +kernel⟩,
   ⟨wSet wUp [(Fld.LBD_BOARD_STAT_STATE 0, 3), (Fld.LBD_BOARD_STAT_SENSOR 0, 1)], _, 0, 60415, _, by decide +kernel, by decide +kernel, rfl, rfl,
     by decide +kernel, by decide +kernel⟩,
   ⟨(wUp).onLamp (fun m => { m with passes := [{ board := 0, why := 0, seq := 1, chunk := 0, inPlace := true, failed := false, bytes := [1] }] }), _, 0,
     _, { board := 0, why := 0, seq := 1, chunk := 0, inPlace := true, failed := false, bytes := [1] }, by decide +kernel, by decide +kernel, rfl, rfl,
     by decide +kernel⟩,
   ⟨(wUp).onLamp (fun m => { m with passes := [{ board := 0, why := 0, seq := 1, chunk := 0, inPlace := false, failed := false, bytes := [1] }] }), _, 0,
     _, { board := 0, why := 0, seq := 1, chunk := 0, inPlace := false, failed := false, bytes := [1] }, by decide +kernel, by decide +kernel, rfl, rfl,
     by decide +kernel⟩,
   ⟨(wUp).onLamp (fun m => { m with passes := [{ board := 0, why := 0, seq := 1, chunk := 0, inPlace := false, failed := false, bytes := [1] }] }), _, 0,
     _, { board := 0, why := 0, seq := 1, chunk := 0, inPlace := false, failed := false, bytes := [1] }, by decide +kernel, by decide +kernel, rfl, rfl,
     by decide +kernel⟩,
   ⟨(wUp).onLamp (fun m => { m with passes := [{ board := 0, why := 0, seq := 1, chunk := 0, inPlace := false, failed := true, bytes := [1] }] }), _, 0,
     _, { board := 0, why := 0, seq := 1, chunk := 0, inPlace := false, failed := true, bytes := [1] }, by decide +kernel, by decide +kernel, rfl, rfl,
     by decide +kernel⟩,
   ⟨(wUp).onLamp (fun m => { m with passes := [{ board := 0, why := 0, seq := 1, chunk := 0, inPlace := false, failed := false, bytes := [] }] }), _, 0,
     { board := 0, why := 0, seq := 1, chunk := 0, inPlace := false, failed := false, bytes := [] }, by decide +kernel, by decide +kernel,
     by decide +kernel, rfl, by decide +kernel⟩,
   ⟨(wUp).onLamp (fun m => { m with passes := [{ board := 0, why := 1, seq := 1, chunk := 0, inPlace := false, failed := false, bytes := [] }] }), _, 0,
     { board := 0, why := 1, seq := 1, chunk := 0, inPlace := false, failed := false, bytes := [] }, _, by decide +kernel, by decide +kernel,
     by decide +kernel, rfl, rfl, by decide +kernel⟩,
   ⟨(wUp.setF (Fld.LBD_BOARD_STAT_STATE 0) 3).onLamp (fun m => { m with boards := [{ index := 0, dirty := true }] }), 0, by decide +kernel,
     by decide +kernel⟩,
   ⟨wUp, 0, .bar0, by decide +kernel, ⟨by decide +kernel, by decide +kernel, by decide +kernel, by decide +kernel⟩⟩⟩

theorem witness_AudioStreams :
    (∃ (s u : State) (region slot target : Nat) (sl : Slot), (s.dueSlot region slot = some sl) ∧ (sl.kind = 0x09) ∧ (29 ≤ sl.lane) ∧ (sl.lane ≤ 32) ∧
      (s.io.hasHost = true) ∧ (s.chCount target ≠ 0) ∧ (u = s.startSlot region slot false) ∧ (u.audio.built.contains target = true) ∧
      (u.audio.left.find? (·.1 == target) = none)) ∧
    (∃ (s u : State) (region slot target aligns : Nat) (sl : Slot) (cont bs room : _), (s.dueSlot region slot = some sl) ∧ (sl.kind = 0x09) ∧
      (29 ≤ sl.lane) ∧ (sl.lane ≤ 32) ∧ (s.io.hasHost = true) ∧ (s.chCount target ≠ 0) ∧ (u = s.startSlot region slot false) ∧
      (u.audio.built.contains target = true) ∧ (u.audio.left.find? (·.1 == target) = some (target, cont, bs)) ∧
      (room = windowBytes sl.nomDur (u.getF (Fld.LNK_STATE_RATE_NOW (target / 4) (target % 4))) aligns)) ∧
    (∃ (s : State) (ring i : Nat) (e : List Byte), (s.io.Ready ring i 0x20 true (playFieldsOk e) e) ∧
      (s.chCount (fieldAt e 8 1) < fieldAt e 9 1 + fieldAt e 10 1)) ∧
    (∃ (s : State) (ring i : Nat) (e : List Byte), (s.io.Ready ring i 0x20 true (playFieldsOk e) e) ∧
      (fieldAt e 9 1 + fieldAt e 10 1 ≤ s.chCount (fieldAt e 8 1))) ∧
    (∃ (s : State) (ring i : Nat) (e : List Byte), (s.io.Ready ring i 0x21 true (audioCaptureFieldsOk e) e) ∧ (s.inputPort (fieldAt e 8 1) = false)) ∧
    (∃ (s : State) (ring i : Nat) (e : List Byte), (s.io.Ready ring i 0x21 true (audioCaptureFieldsOk e) e) ∧ (s.inputPort (fieldAt e 8 1) = true)) ∧
    (∃ (s : State) (ring i : Nat) (e : List Byte), (s.io.Ready ring i 0x23 true (orderFieldsOk e) e) ∧
      ((setBits (fieldAt e 8 3) 17).any (fun t => decide (s.chCount t = 0)) = true ∨ (setBits (fieldAt e 12 2) 16).any (fun p => !s.inputPort p) = true)) ∧
    (∃ (s : State) (ring i : Nat) (e : List Byte), (s.io.Ready ring i 0x23 true (orderFieldsOk e) e) ∧
      ((setBits (fieldAt e 8 3) 17).any (fun t => decide (s.chCount t = 0)) = false) ∧ ((setBits (fieldAt e 12 2) 16).any (fun p => !s.inputPort p) = false)) ∧
    (∃ (s : State) (ring i : Nat) (e : List Byte), (s.io.Ready ring i 0x24 true (orderFieldsOk e) e) ∧
      ((setBits (fieldAt e 8 3) 17).any (fun t => decide (s.chCount t = 0)) = true ∨ (setBits (fieldAt e 12 2) 16).any (fun p => !s.inputPort p) = true)) ∧
    (∃ (s : State) (ring i : Nat) (e : List Byte), (s.io.Ready ring i 0x24 true (orderFieldsOk e) e) ∧
      ((setBits (fieldAt e 8 3) 17).any (fun t => decide (s.chCount t = 0)) = false) ∧ ((setBits (fieldAt e 12 2) 16).any (fun p => !s.inputPort p) = false)) ∧
    (∃ (s : State) (port : Nat), (port < 16) ∧ (s.audState port = 4)) :=
  ⟨⟨(wSlot (wSect (wUp) 7 (wBlock 42 [(8, 2, 480), (24, 1, 2)])) 0x09 29 0).onAudio (fun m => { m with built := [0] }), _, 0, 0, 0,
     (((wSlot (wSect (wUp) 7 (wBlock 42 [(8, 2, 480), (24, 1, 2)])) 0x09 29 0).onAudio (fun m => { m with built := [0] }) : State).dueSlot (0 : Nat) (0 : Nat)).get (by decide +kernel),
     by decide +kernel, by decide +kernel, by decide +kernel, by decide +kernel, by decide +kernel, by decide +kernel, rfl, by decide +kernel,
     by decide +kernel⟩,
   ⟨(wSlot (wSect (wUp) 7 (wBlock 42 [(8, 2, 480), (24, 1, 2)])) 0x09 29 0).onAudio (fun m => { m with built := [0], left := [(0, false, [1, 2])] }), _,
     0, 0, 0, 0,
     (((wSlot (wSect (wUp) 7 (wBlock 42 [(8, 2, 480), (24, 1, 2)])) 0x09 29 0).onAudio (fun m => { m with built := [0], left := [(0, false, [1, 2])] }) : State).dueSlot (0 : Nat) (0 : Nat)).get (by decide +kernel),
     false, [1, 2], _, by decide +kernel, by decide +kernel, by decide +kernel, by decide +kernel, by decide +kernel, by decide +kernel, rfl,
     by decide +kernel, by decide +kernel, rfl⟩,
   ⟨wRing (wUp) 2 (wEntry 32 [(8, 1, 16), (10, 1, 1), (12, 4, 64)]), 1, 0, wEntry 32 [(8, 1, 16), (10, 1, 1), (12, 4, 64)],
     ⟨by decide +kernel, by decide +kernel, by decide +kernel⟩, by decide +kernel⟩,
   ⟨wRing (wSect (wUp) 7 (wBlock 42 [(8, 2, 480), (40, 1, 2)])) 2 (wEntry 32 [(8, 1, 16), (10, 1, 1), (12, 4, 64)]), 1, 0,
     wEntry 32 [(8, 1, 16), (10, 1, 1), (12, 4, 64)], ⟨by decide +kernel, by decide +kernel, by decide +kernel⟩, by decide +kernel⟩,
   ⟨wRing (wUp) 2 (wEntry 33 [(12, 4, 64)]), 1, 0, wEntry 33 [(12, 4, 64)], ⟨by decide +kernel, by decide +kernel, by decide +kernel⟩, by decide +kernel⟩,
   ⟨wRing (wSet wUp [(Fld.AUD_PORT_CFG_ENABLE 0 0, 1), (Fld.AUD_PORT_CFG_DIR 0 0, 1)]) 2 (wEntry 33 [(12, 4, 64)]), 1, 0, wEntry 33 [(12, 4, 64)],
     ⟨by decide +kernel, by decide +kernel, by decide +kernel⟩, by decide +kernel⟩,
   ⟨wRing (wUp) 2 (wEntry 35 [(8, 3, 65536), (12, 2, 1)]), 1, 0, wEntry 35 [(8, 3, 65536), (12, 2, 1)],
     ⟨by decide +kernel, by decide +kernel, by decide +kernel⟩, .inl (by decide +kernel)⟩,
   ⟨wRing (wSect (wSet wUp [(Fld.AUD_PORT_CFG_ENABLE 0 0, 1), (Fld.AUD_PORT_CFG_DIR 0 0, 1)]) 7 (wBlock 42 [(8, 2, 480), (40, 1, 2)])) 2 (wEntry 35 [(8, 3, 65536), (12, 2, 1)]),
     1, 0, wEntry 35 [(8, 3, 65536), (12, 2, 1)], ⟨by decide +kernel, by decide +kernel, by decide +kernel⟩, by decide +kernel, by decide +kernel⟩,
   ⟨wRing (wUp) 2 (wEntry 36 [(8, 3, 65536), (12, 2, 1)]), 1, 0, wEntry 36 [(8, 3, 65536), (12, 2, 1)],
     ⟨by decide +kernel, by decide +kernel, by decide +kernel⟩, .inl (by decide +kernel)⟩,
   ⟨wRing (wSect (wSet wUp [(Fld.AUD_PORT_CFG_ENABLE 0 0, 1), (Fld.AUD_PORT_CFG_DIR 0 0, 1)]) 7 (wBlock 42 [(8, 2, 480), (40, 1, 2)])) 2 (wEntry 36 [(8, 3, 65536), (12, 2, 1)]),
     1, 0, wEntry 36 [(8, 3, 65536), (12, 2, 1)], ⟨by decide +kernel, by decide +kernel, by decide +kernel⟩, by decide +kernel, by decide +kernel⟩,
   ⟨wUp.setF (Fld.AUD_PORT_STAT_STATE 0 0) 4, 0, by decide +kernel, by decide +kernel⟩⟩

theorem witness_AudioPortsAndPackets :
    (∃ (s : State) (ring i : Nat) (e : List Byte) (p mask : Nat), (s.io.Ready ring i 0x22 true (maskFieldsOk e) e) ∧ (p = fieldAt e 10 1) ∧
      (mask = fieldAt e 12 4) ∧ (fieldAt e 8 1 = 16) ∧ (16 ≤ p ∨ s.audEnabled p = false)) ∧
    (∃ (s : State) (ring i : Nat) (e : List Byte) (p mask : Nat), (s.io.Ready ring i 0x22 true (maskFieldsOk e) e) ∧ (p = fieldAt e 10 1) ∧
      (mask = fieldAt e 12 4) ∧ (fieldAt e 8 1 = 16) ∧ (p < 16) ∧ (s.audEnabled p = true) ∧ (s.audInput p = false) ∧
      (s.maskExceeds 16 (s.getF (Fld.AUD_PORT_CFG_CHAN_BASE (p / 4) (p % 4))) mask = true)) ∧
    (∃ (s : State) (ring i : Nat) (e : List Byte) (p mask : Nat), (s.io.Ready ring i 0x22 true (maskFieldsOk e) e) ∧ (p = fieldAt e 10 1) ∧
      (mask = fieldAt e 12 4) ∧ (fieldAt e 8 1 = 16) ∧ (p < 16) ∧ (s.audEnabled p = true) ∧
      (s.audInput p = true ∨ s.maskExceeds 16 (s.getF (Fld.AUD_PORT_CFG_CHAN_BASE (p / 4) (p % 4))) mask = false)) ∧
    (∃ (s u : State) (port p : Nat) (packet b : List Byte), (s.keptCmd port 0x04 packet [stJOINING, stOPERATIONAL] = (u, some b)) ∧
      (fieldAt b 0 1 = u.audioClass) ∧ (p = fieldAt b 1 1) ∧ (p < 16) ∧ (u.audEnabled p = true) ∧ (u.io.tick < fieldAt b 6 6)) ∧
    (∃ (s u : State) (port k : Nat) (packet pl : List Byte), (s.kept port 0x02 packet = (u, some pl)) ∧ (k = fieldAt pl 0 6) ∧ (u.toPresent k = true) ∧
      (fieldAt pl 6 1 = u.chCount u.audioTarget) ∧ (fieldAt pl 8 2 = u.sptOf (if k ≤ u.io.tick then u.rateSet else u.nextSet))) ∧
    (∃ (s : State) (k : Nat), (s.chCount s.audioTarget ≠ 0) ∧ (s.toPresent k = true) ∧ (s.audio.packets.any (·.tick == k) = false)) ∧
    (∃ (s u : State) (port x : Nat), (port < 16) ∧ (s.audEnabled port = true) ∧ (s.audState port ≠ 0) ∧ (u = s.on (·.at x)) ∧ (s.audMaster port = true) ∧
      (u.audInput port = false)) ∧
    (∃ (s u : State) (port x bclks : Nat) (full dry : Bool) (v : State), (port < 16) ∧ (s.audEnabled port = true) ∧ (s.audState port ≠ 0) ∧
      (u = s.on (·.at x)) ∧
      (v = (if (full || dry) && decide ((u.framing port bclks).audState port = 2) then (u.framing port bclks).relock port else u.framing port bclks)) ∧
      (s.audMaster port = false) ∧ (v.audInput port = false)) ∧
    (∃ (s u : State) (port x bclks : Nat) (full dry : Bool) (v : State) (b i : _), (port < 16) ∧ (s.audEnabled port = true) ∧ (s.audState port ≠ 0) ∧
      (u = s.on (·.at x)) ∧
      (v = (if (full || dry) && decide ((u.framing port bclks).audState port = 2) then (u.framing port bclks).relock port else u.framing port bclks)) ∧
      (s.audMaster port = false) ∧ (v.audInput port = true) ∧ (v.wallSample x 0 = some (b, i))) ∧
    (∃ (s : State) (port x : Nat) (b : AudioBase) (i : Nat), (port < 16) ∧ (s.audEnabled port = true) ∧ (s.audState port ≠ 0) ∧
      (s.audMaster port = true) ∧ (s.audInput port = true) ∧ ((s.on (·.at x)).wallSample x 0 = some (b, i))) ∧
    (∃ (s : State) (port : Nat), (port < 16) ∧ (s.audEnabled port = true) ∧ (s.audMaster port = false) ∧
      (s.audState port = 1 ∨ s.audState port = 2 ∨ s.audState port = 4)) ∧
    (∃ (port : Nat), (port < 16)) ∧
    (∃ (s : State) (port : Nat), (port < 16) ∧ (s.audState port = 3) ∧ ((s.audPort port).outside = false)) ∧
    (∃ (s : State) (port : Nat), (port < 16) ∧ (s.audState port = 1)) :=
  ⟨⟨wRing (wUp) 2 (wEntry 34 [(8, 1, 16), (10, 1, 16), (12, 4, 3)]), 1, 0, wEntry 34 [(8, 1, 16), (10, 1, 16), (12, 4, 3)], _, _,
     ⟨by decide +kernel, by decide +kernel, by decide +kernel⟩, rfl, rfl, by decide +kernel, .inl (by decide +kernel)⟩,
   ⟨wRing (wSet wUp [(Fld.AUD_PORT_CFG_ENABLE 3 3, 1)]) 2 (wEntry 34 [(8, 1, 16), (10, 1, 15), (12, 4, 3)]), 1, 0,
     wEntry 34 [(8, 1, 16), (10, 1, 15), (12, 4, 3)], _, _, ⟨by decide +kernel, by decide +kernel, by decide +kernel⟩, rfl, rfl, by decide +kernel,
     by decide +kernel, by decide +kernel, by decide +kernel, by decide +kernel⟩,
   ⟨wRing (wSect (wSet wUp [(Fld.AUD_PORT_CFG_ENABLE 3 3, 1)]) 7 (wBlock 42 [(8, 2, 480), (40, 1, 2)])) 2 (wEntry 34 [(8, 1, 16), (10, 1, 15), (12, 4, 3)]),
     1, 0, wEntry 34 [(8, 1, 16), (10, 1, 15), (12, 4, 3)], _, _, ⟨by decide +kernel, by decide +kernel, by decide +kernel⟩, rfl, rfl, by decide +kernel,
     by decide +kernel, by decide +kernel, .inr (by decide +kernel)⟩,
   ⟨wSet (wNode stOPERATIONAL) [(Fld.AUD_PORT_CFG_ENABLE 3 3, 1)],
     ((wSet (wNode stOPERATIONAL) [(Fld.AUD_PORT_CFG_ENABLE 3 3, 1)] : State).keptCmd (0 : Nat) 0x04 (wCmd 4 (leBytes 1 0 ++ leBytes 1 15 ++ leBytes 4 1 ++ leBytes 6 9 ++ zeros 4) : List Byte) [stJOINING, stOPERATIONAL]).1,
     0, _, wCmd 4 (leBytes 1 0 ++ leBytes 1 15 ++ leBytes 4 1 ++ leBytes 6 9 ++ zeros 4),
     (((wSet (wNode stOPERATIONAL) [(Fld.AUD_PORT_CFG_ENABLE 3 3, 1)] : State).keptCmd (0 : Nat) 0x04 (wCmd 4 (leBytes 1 0 ++ leBytes 1 15 ++ leBytes 4 1 ++ leBytes 6 9 ++ zeros 4) : List Byte) [stJOINING, stOPERATIONAL]).2).get (by decide +kernel),
     by decide +kernel, by decide +kernel, rfl, by decide +kernel, by decide +kernel, by decide +kernel⟩,
   ⟨wSect (wNode stOPERATIONAL) 7 (wBlock 42 [(8, 2, 1), (24, 1, 2)]),
     ((wSect (wNode stOPERATIONAL) 7 (wBlock 42 [(8, 2, 1), (24, 1, 2)]) : State).kept (0 : Nat) 0x02 (wPkt 2 (leBytes 6 1 ++ leBytes 1 2 ++ zeros 1 ++ leBytes 2 1 ++ zeros 14) : List Byte)).1,
     0, _, wPkt 2 (leBytes 6 1 ++ leBytes 1 2 ++ zeros 1 ++ leBytes 2 1 ++ zeros 14),
     (((wSect (wNode stOPERATIONAL) 7 (wBlock 42 [(8, 2, 1), (24, 1, 2)]) : State).kept (0 : Nat) 0x02 (wPkt 2 (leBytes 6 1 ++ leBytes 1 2 ++ zeros 1 ++ leBytes 2 1 ++ zeros 14) : List Byte)).2).get (by decide +kernel),
     by decide +kernel, rfl, by decide +kernel, by decide +kernel, by decide +kernel⟩,
   ⟨wSect (wNode stOPERATIONAL) 7 (wBlock 42 [(8, 2, 480), (24, 1, 2)]), 1, by decide +kernel, by decide +kernel, by decide +kernel⟩,
   ⟨wSet wUp [(Fld.AUD_PORT_CFG_ENABLE 3 3, 1), (Fld.AUD_PORT_CFG_MASTER 3 3, 1), (Fld.AUD_PORT_CFG_DIR 3 3, 0), (Fld.AUD_PORT_STAT_STATE 3 3, 2)], _,
     15, 100, by decide +kernel, by decide +kernel, by decide +kernel, rfl, by decide +kernel, by decide +kernel⟩,
   ⟨wSet wUp [(Fld.AUD_PORT_CFG_ENABLE 3 3, 1), (Fld.AUD_PORT_CFG_MASTER 3 3, 0), (Fld.AUD_PORT_CFG_DIR 3 3, 0), (Fld.AUD_PORT_STAT_STATE 3 3, 2)], _,
     15, 100, 64, false, false, _, by decide +kernel, by decide +kernel, by decide +kernel, rfl, rfl, by decide +kernel, by decide +kernel⟩,
   ⟨(wSet wUp [(Fld.AUD_PORT_CFG_ENABLE 3 3, 1), (Fld.AUD_PORT_CFG_MASTER 3 3, 0), (Fld.AUD_PORT_CFG_DIR 3 3, 1), (Fld.AUD_PORT_STAT_STATE 3 3, 2)]).onAudio (fun m => { m with bases := [{ tick := 0, at_ := 0, period := 1000, rset := 0, spt := 10 }] }),
     _, 15, 100, 64, false, false, _, { tick := 0, at_ := 0, period := 1000, rset := 0, spt := 10 }, 1, by decide +kernel, by decide +kernel,
     by decide +kernel, rfl, rfl, by decide +kernel, by decide +kernel, by decide +kernel⟩,
   ⟨(wSet wUp [(Fld.AUD_PORT_CFG_ENABLE 3 3, 1), (Fld.AUD_PORT_CFG_MASTER 3 3, 1), (Fld.AUD_PORT_CFG_DIR 3 3, 1), (Fld.AUD_PORT_STAT_STATE 3 3, 2)]).onAudio (fun m => { m with bases := [{ tick := 0, at_ := 0, period := 1000, rset := 0, spt := 10 }] }),
     15, 999, { tick := 0, at_ := 0, period := 1000, rset := 0, spt := 10 }, 9, by decide +kernel, by decide +kernel, by decide +kernel,
     by decide +kernel, by decide +kernel, by decide +kernel⟩,
   ⟨wSet wUp [(Fld.AUD_PORT_CFG_ENABLE 3 3, 1), (Fld.AUD_PORT_CFG_MASTER 3 3, 0), (Fld.AUD_PORT_CFG_DIR 3 3, 1), (Fld.AUD_PORT_STAT_STATE 3 3, 2)], 15,
     by decide +kernel, by decide +kernel, by decide +kernel, .inr (.inl (by decide +kernel))⟩,
   ⟨15, by decide +kernel⟩,
   ⟨wUp.setF (Fld.AUD_PORT_STAT_STATE 3 3) 3, 15, by decide +kernel, by decide +kernel, by decide +kernel⟩,
   ⟨wUp.setF (Fld.AUD_PORT_STAT_STATE 3 3) 1, 15, by decide +kernel, by decide +kernel⟩⟩

theorem witness_DramController :
    (∃ (s : State) (ch : Nat), (s.chanRunning ch = true)) ∧
    (∃ (s u : State) (ch held : Nat) (arrivals : List (Nat × Nat × Nat × Nat × Nat)) (c : Chan), (s.chanRunning ch = true) ∧
      ((s.chan ch).arrive arrivals = (c, held)) ∧ (u = (s.setChan ch c).on (·.bumpF (Fld.DMC_CH_HAZARDS (ch / 4) (ch % 4)) held)) ∧
      (0 < u.getF (Fld.DMC_CH_STAT_OWED (ch / 4) (ch % 4))) ∧ (c.queue.any c.isPanic = false)) ∧
    (∃ (s u : State) (ch held : Nat) (arrivals : List (Nat × Nat × Nat × Nat × Nat)) (c : Chan), (s.chanRunning ch = true) ∧
      ((s.chan ch).arrive arrivals = (c, held)) ∧ (u = (s.setChan ch c).on (·.bumpF (Fld.DMC_CH_HAZARDS (ch / 4) (ch % 4)) held)) ∧
      (u.getF (Fld.DMC_CH_STAT_OWED (ch / 4) (ch % 4)) = 0 ∨ c.queue.any c.isPanic = true) ∧ (u.arbitrate c = none)) ∧
    (∃ (s u : State) (ch held : Nat) (arrivals : List (Nat × Nat × Nat × Nat × Nat)) (c : Chan) (r aged : _), (s.chanRunning ch = true) ∧
      ((s.chan ch).arrive arrivals = (c, held)) ∧ (u = (s.setChan ch c).on (·.bumpF (Fld.DMC_CH_HAZARDS (ch / 4) (ch % 4)) held)) ∧
      (u.getF (Fld.DMC_CH_STAT_OWED (ch / 4) (ch % 4)) = 0 ∨ c.queue.any c.isPanic = true) ∧ (u.arbitrate c = some (r, aged, false))) ∧
    (∃ (s : State) (ch cls : Nat), (s.chanRunning ch = true) ∧ ((s.chan ch).full cls = true)) ∧
    (∃ (s : State) (ch cls : Nat), (s.chanRunning ch = true) ∧ ((s.chan ch).full cls = false)) ∧
    (∃ (c : Chan) (cls : Nat), (c.full cls = true)) ∧
    (∃ (s : State) (ch cls addr : Nat) (u : State), ((s.chan ch).issued.any (fun (r : DReq) => r.cls == cls && r.addr == addr) = true) ∧
      (u = s.setChan ch { s.chan ch with issued := eraseFirst (fun (r : DReq) => r.cls == cls && r.addr == addr) (s.chan ch).issued }) ∧
      (u.isF Fld.DMC_CFG_LINK_ECC = false)) ∧
    (∃ (s : State) (ch cls addr : Nat) (u : State), ((s.chan ch).issued.any (fun (r : DReq) => r.cls == cls && r.addr == addr) = true) ∧
      (u = s.setChan ch { s.chan ch with issued := eraseFirst (fun (r : DReq) => r.cls == cls && r.addr == addr) (s.chan ch).issued }) ∧
      (u.isF Fld.DMC_CFG_LINK_ECC = true)) ∧
    (∃ (s u : State) (ch kind fill : Nat) (full : Bool), (s.chanRunning ch = true) ∧ (s.panicSide kind fill full = true) ∧
      ((s.chan ch).panic.contains (panicKey kind full) = false) ∧ (u = s.setChan ch { s.chan ch with panic := panicKey kind full :: (s.chan ch).panic }) ∧
      ((s.chan ch).inPanic kind = true)) ∧
    (∃ (s u : State) (ch kind fill : Nat) (full : Bool) (v : State), (s.chanRunning ch = true) ∧ (s.panicSide kind fill full = true) ∧
      ((s.chan ch).panic.contains (panicKey kind full) = false) ∧ (u = s.setChan ch { s.chan ch with panic := panicKey kind full :: (s.chan ch).panic }) ∧
      ((s.chan ch).inPanic kind = false) ∧
      (v = u.on (fun io => (io.bumpF (Fld.DMC_CH_PANICS (ch / 4) (ch % 4))).fireOnce ch { event := 130, region := some (ch / 4) }))) ∧
    (∃ (s : State) (kind fill : Nat) (full : Bool), (s.panicSide kind fill full = false)) ∧
    (∃ (s : State) (ch cls addr : Nat) (r : DReq), (cls ≠ 0) ∧ ((s.chan ch).queue.find? (fun r => r.cls == cls && r.addr == addr && !r.aged) = some r)) ∧
    (∃ (s : State) (channel : Nat) (path : RegPath), (channel < 16) ∧ (s.Accepts path (Reg.DMC_CH_PAT_CTL (channel / 4) (channel % 4))) ∧
      (s.boot.locked = false)) ∧
    (∃ (s : State) (channel : Nat) (path : RegPath), (channel < 16) ∧ (s.Accepts path (Reg.DMC_CH_PAT_CTL (channel / 4) (channel % 4))) ∧
      (s.boot.locked = true)) ∧
    (∃ (s : State) (ch : Nat), (s.isF (Fld.DMC_CH_PAT_CTL_START (ch / 4) (ch % 4)) = true)) ∧
    (∃ (s u : State) (channel quarters x : Nat), (s.chanRunning channel = true) ∧
      (u = ((s.on (·.at x)).setChan channel { (s.on (·.at x)).chan channel with mr4 := quarters }).decideRate channel) ∧ (8 < quarters)) ∧
    (∃ (s u : State) (channel quarters x : Nat), (s.chanRunning channel = true) ∧
      (u = ((s.on (·.at x)).setChan channel { (s.on (·.at x)).chan channel with mr4 := quarters }).decideRate channel) ∧ (quarters ≤ 8)) :=
  ⟨⟨(wUp.setF (Fld.DMC_CH_STAT_STATE 3 3) 1), 15, by decide +kernel⟩,
   ⟨((wUp.setF (Fld.DMC_CH_STAT_STATE 3 3) 1)).setF (Fld.DMC_CH_STAT_OWED 3 3) 1, _, 15,
     (((((wUp.setF (Fld.DMC_CH_STAT_STATE 3 3) 1)).setF (Fld.DMC_CH_STAT_OWED 3 3) 1 : State).chan (15 : Nat)).arrive ([(1, 6, 0, 64, 0)] : List (Nat × Nat × Nat × Nat × Nat))).2,
     [(1, 6, 0, 64, 0)],
     (((((wUp.setF (Fld.DMC_CH_STAT_STATE 3 3) 1)).setF (Fld.DMC_CH_STAT_OWED 3 3) 1 : State).chan (15 : Nat)).arrive ([(1, 6, 0, 64, 0)] : List (Nat × Nat × Nat × Nat × Nat))).1,
     by decide +kernel, by decide +kernel, rfl, by decide +kernel, by decide +kernel⟩,
   ⟨(wUp.setF (Fld.DMC_CH_STAT_STATE 3 3) 1), _, 15,
     ((((wUp.setF (Fld.DMC_CH_STAT_STATE 3 3) 1) : State).chan (15 : Nat)).arrive ([] : List (Nat × Nat × Nat × Nat × Nat))).2, [],
     ((((wUp.setF (Fld.DMC_CH_STAT_STATE 3 3) 1) : State).chan (15 : Nat)).arrive ([] : List (Nat × Nat × Nat × Nat × Nat))).1, by decide +kernel,
     by decide +kernel, rfl, .inl (by decide +kernel), by decide +kernel⟩,
   ⟨(wUp.setF (Fld.DMC_CH_STAT_STATE 3 3) 1), _, 15,
     ((((wUp.setF (Fld.DMC_CH_STAT_STATE 3 3) 1) : State).chan (15 : Nat)).arrive ([(1, 6, 0, 64, 0)] : List (Nat × Nat × Nat × Nat × Nat))).2,
     [(1, 6, 0, 64, 0)],
     ((((wUp.setF (Fld.DMC_CH_STAT_STATE 3 3) 1) : State).chan (15 : Nat)).arrive ([(1, 6, 0, 64, 0)] : List (Nat × Nat × Nat × Nat × Nat))).1,
     { id := 0, write := false, cls := 1, kind := 6, addr := 0, len := 64, aged := false, passed := 0 }, false, by decide +kernel, by decide +kernel, rfl,
     .inl (by decide +kernel), by decide +kernel⟩,
   ⟨((wUp.setF (Fld.DMC_CH_STAT_STATE 3 3) 1)).setChan 15 { queue := (List.range 8).map (fun i => { id := i, write := true, cls := 1, kind := 6, addr := 64 * i, len := 64, aged := false, passed := 0 }) },
     15, 1, by decide +kernel, by decide +kernel⟩,
   ⟨(wUp.setF (Fld.DMC_CH_STAT_STATE 3 3) 1), 15, 1, by decide +kernel, by decide +kernel⟩,
   ⟨{ queue := (List.range 8).map (fun i => { id := i, write := true, cls := 1, kind := 6, addr := 64 * i, len := 64, aged := false, passed := 0 }) }, 1,
     by decide +kernel⟩,
   ⟨(wUp.setF Fld.DMC_CFG_LINK_ECC 0).setChan 15 { (wUp.setF Fld.DMC_CFG_LINK_ECC 0).chan 15 with issued := [{ id := 0, write := false, cls := 1, kind := 6, addr := 0, len := 256, aged := false, passed := 0 }] },
     15, 1, 0, _, by decide +kernel, rfl, by decide +kernel⟩,
   ⟨(wUp.setF Fld.DMC_CFG_LINK_ECC 1).setChan 15 { (wUp.setF Fld.DMC_CFG_LINK_ECC 1).chan 15 with issued := [{ id := 0, write := false, cls := 1, kind := 6, addr := 0, len := 256, aged := false, passed := 0 }] },
     15, 1, 0, _, by decide +kernel, rfl, by decide +kernel⟩,
   ⟨(wSet wUp [(Fld.DMC_CH_STAT_STATE 3 3, 1), (Fld.DMC_PANIC_LVL_A_SCALER, 16), (Fld.DMC_PANIC_LVL_A_DECODER, 16)]).setChan 15 { (wSet wUp [(Fld.DMC_CH_STAT_STATE 3 3, 1), (Fld.DMC_PANIC_LVL_A_SCALER, 16), (Fld.DMC_PANIC_LVL_A_DECODER, 16)]).chan 15 with panic := [2] },
     _, 15, 2, 64, true, by decide +kernel, by decide +kernel, by decide +kernel, rfl, by decide +kernel⟩,
   ⟨wSet wUp [(Fld.DMC_CH_STAT_STATE 3 3, 1), (Fld.DMC_PANIC_LVL_A_SCALER, 16), (Fld.DMC_PANIC_LVL_A_DECODER, 16)], _, 15, 2, 0, false, _,
     by decide +kernel, by decide +kernel, by decide +kernel, rfl, by decide +kernel, rfl⟩,
   ⟨wSet wUp [(Fld.DMC_CH_STAT_STATE 3 3, 1), (Fld.DMC_PANIC_LVL_A_SCALER, 16), (Fld.DMC_PANIC_LVL_A_DECODER, 16)], 2, 32, true, by decide +kernel⟩,
   ⟨((wUp.setF (Fld.DMC_CH_STAT_STATE 3 3) 1)).setChan 15 { ((wUp.setF (Fld.DMC_CH_STAT_STATE 3 3) 1)).chan 15 with queue := [{ id := 0, write := false, cls := 1, kind := 6, addr := 0, len := 256, aged := false, passed := 0 }] },
     15, 1, 0, { id := 0, write := false, cls := 1, kind := 6, addr := 0, len := 256, aged := false, passed := 0 }, by decide +kernel, by decide +kernel⟩,
   ⟨wUp, 0, .bar0, by decide +kernel, ⟨by decide +kernel, by decide +kernel, by decide +kernel, by decide +kernel⟩, by decide +kernel⟩,
   ⟨wUp.onBoot (fun b => { b with locked := true }), 0, .bar0, by decide +kernel,
     ⟨by decide +kernel, by decide +kernel, by decide +kernel, by decide +kernel⟩, by decide +kernel⟩,
   ⟨wUp.setF (Fld.DMC_CH_PAT_CTL_START 3 3) 1, 15, by decide +kernel⟩,
   ⟨(wUp.setF (Fld.DMC_CH_STAT_STATE 3 3) 1), _, 15, 9, 5, by decide +kernel, rfl, by decide +kernel⟩,
   ⟨(wUp.setF (Fld.DMC_CH_STAT_STATE 3 3) 1), _, 15, 8, 5, by decide +kernel, rfl, by decide +kernel⟩⟩

theorem witness_MeteringDomain :
    (∃ (s u : State) (f : _), (s.io.meterUp = true) ∧ (s.meterWrites = true) ∧ (u = s.flushMeter) ∧ (u.meter.waiting = some f)) ∧
    (∃ (s u : State), (s.io.meterUp = true) ∧ (s.meterWrites = true) ∧ (u = s.flushMeter) ∧ (u.meter.waiting = none) ∧ (s.meter.saveS ≤ s.meter.sinceSave)) ∧
    (∃ (s u : State), (s.io.meterUp = true) ∧ (s.meterWrites = true) ∧ (u = s.flushMeter) ∧ (u.meter.waiting = none) ∧ (s.meter.sinceSave < s.meter.saveS)) ∧
    (∃ (m : MeterState), (m.intoB = false) ∧ (m.sectorA.length < 256)) ∧
    (∃ (m : MeterState), (m.intoB = false) ∧ (256 ≤ m.sectorA.length)) ∧
    (∃ (s : State), (s.io.meterUp = true) ∧ (s.meter.notice = true)) ∧
    (∃ (s : State), (s.io.meterUp = false) ∧ (s.needsMeter = true)) ∧
    (∃ (s : State), (s.io.meterUp = true)) ∧
    (∃ (s : State) (path : RegPath), (s.pathOpen path = true) ∧ (s.io.boot ≠ stUMBER) ∧ (s.io.regPresent Reg.MTR_REC_REQ = true) ∧ (s.io.meterUp = true) ∧
      (s.getF Fld.MTR_REC_REQ = 1)) ∧
    (∃ (s : State) (b : List Byte), (s.io.meterUp = true) ∧ (s.meter.built = some b)) ∧
    (∃ (s : State) (point : Nat), (s.io.meterUp = true) ∧ (point < 16) ∧ ((s.mpoint point).stuck = false)) ∧
    (∃ (s : State) (st : Partition) (q : ManifestPart) (a : Nat) (body d : List Byte) (u : State), (s.io.meterUp = true) ∧ (s.upd = uCOPYING) ∧
      (s.boot.meterReported = false) ∧ (s.partition 2 = some st) ∧
      ((s.manifestParts (st.start + 0x1000)).find? (fun p => p.kind == 2 && p.target == s.io.part) = some q) ∧ (a = st.start + q.off) ∧
      (body = s.nvmRead a (q.len - 768)) ∧ (d = sha512 (s.nvmRead a q.len)) ∧
      (u = ((s.meterStore (if s.meter.slotB then 0x60000 else 0xB0000) (s.nvmRead a q.len)).saveEnergy false).audit 0x05 0 (sub d 0 32))) ∧
    (∃ (s : State), (s.io.meterUp = true) ∧ (s.isF Fld.MTR_HEALTH_CAL_EN = false)) ∧
    (∃ (s : State), (s.mPart = true) ∧ (s.meter.intact = true)) ∧
    (∃ (s : State), (s.io.meterUp = true) ∧ (s.isF Fld.MTR_HEALTH_CAL_EN = true) ∧ (s.isF Fld.MTR_CAL_STAT_SESSION = true) ∧ (s.meter.closing = false) ∧
      (s.isF Fld.MTR_CAL_STAT_SEAL_PENDING = false)) ∧
    (∃ (s : State), (s.io.meterUp = true) ∧ (s.isF Fld.MTR_HEALTH_CAL_EN = true) ∧ (s.isF Fld.MTR_CAL_STAT_SESSION = false) ∧
      (s.isF Fld.MTR_CAL_STAT_SEAL_PENDING = true)) :=
  ⟨⟨(((wUp.setF Fld.CTL_VARIANT_METER_FITTED 1).setF Fld.CTL_VARIANT_METER_SEALED 1)).onMeter (fun m => { m with waiting := some false }), _, false,
     by decide +kernel, by decide +kernel, rfl, by decide +kernel⟩,
   ⟨(((wUp.setF Fld.CTL_VARIANT_METER_FITTED 1).setF Fld.CTL_VARIANT_METER_SEALED 1)).onMeter (fun m => { m with sinceSave := 60 }), _,
     by decide +kernel, by decide +kernel, rfl, by decide +kernel, by decide +kernel⟩,
   ⟨(((wUp.setF Fld.CTL_VARIANT_METER_FITTED 1).setF Fld.CTL_VARIANT_METER_SEALED 1)).onMeter (fun m => { m with sinceSave := 59 }), _,
     by decide +kernel, by decide +kernel, rfl, by decide +kernel, by decide +kernel⟩,
   ⟨{}, by decide +kernel, by decide +kernel⟩,
   ⟨{ sectorA := List.replicate 256 { seq := 0, interval := 0, recSeq := 0, accs := [], shutdown := false } }, by decide +kernel, by decide +kernel⟩,
   ⟨(((wUp.setF Fld.CTL_VARIANT_METER_FITTED 1).setF Fld.CTL_VARIANT_METER_SEALED 1)).onMeter (fun m => { m with notice := true }), by decide +kernel,
     by decide +kernel⟩,
   ⟨State.reset, by decide +kernel, by decide +kernel⟩,
   ⟨wUp, by decide +kernel⟩,
   ⟨wUp, .bar0, by decide +kernel, by decide +kernel, by decide +kernel, by decide +kernel, by decide +kernel⟩,
   ⟨(((wUp.setF Fld.CTL_VARIANT_METER_FITTED 1).setF Fld.CTL_VARIANT_METER_SEALED 1)).onMeter (fun m => { m with built := some [1] }), [1],
     by decide +kernel, by decide +kernel⟩,
   ⟨wUp, 0, by decide +kernel, by decide +kernel, by decide +kernel⟩,
   ⟨wParts (wSet wUp [(Fld.CTL_VARIANT_PART, 0), (Fld.CTL_UPD_STATE_STATE, uCOPYING)]), ⟨2, 0x200000, 0x100000⟩,
     { kind := 2, target := 0, off := 0x2000, len := 0x400, digest := List.replicate 64 0xFF }, _, _, _, _, by decide +kernel, by decide +kernel,
     by decide +kernel, (wParts_found _ (by decide +kernel) (by decide +kernel)).2.2, by decide +kernel, rfl, rfl, rfl, rfl⟩,
   ⟨wUp, by decide +kernel, by decide +kernel⟩,
   ⟨((wUp.setF Fld.CTL_VARIANT_METER_FITTED 1).setF Fld.CTL_VARIANT_METER_SEALED 1), by decide +kernel, by decide +kernel⟩,
   ⟨wSet wUp [(Fld.MTR_HEALTH_CAL_EN, 1), (Fld.MTR_CAL_STAT_SESSION, 1)], by decide +kernel, by decide +kernel, by decide +kernel, by decide +kernel,
     by decide +kernel⟩,
   ⟨wSet wUp [(Fld.MTR_HEALTH_CAL_EN, 1), (Fld.MTR_CAL_STAT_SEAL_PENDING, 1)], by decide +kernel, by decide +kernel, by decide +kernel, by decide +kernel⟩⟩

theorem witness_CalibrationCommands :
    (∃ (s : State) (path : RegPath), (s.CalReady path)) ∧
    (∃ (s : State) (path : RegPath), (s.CalReady path) ∧ (s.isF Fld.MTR_CAL_STAT_SESSION = true)) ∧
    (∃ (s : State) (path : RegPath), (s.CalReady path) ∧ (s.isF Fld.MTR_CAL_STAT_SESSION = false) ∧ (s.getF Fld.MTR_CAL_ARG0_POINTS ≠ 0) ∧ (2 ≤ s.logFree)) ∧
    (∃ (s : State), (s.isF Fld.MTR_CAL_STAT_SESSION = false ∨ s.meter.closing = true)) ∧
    (∃ (s : State), (s.isF Fld.MTR_CAL_STAT_SESSION = true) ∧ (s.meter.closing = false) ∧
      (16 ≤ s.getF Fld.MTR_CAL_ARG0_POINTS ∨ bit s.meter.session (s.getF Fld.MTR_CAL_ARG0_POINTS) = false)) ∧
    (∃ (s : State), (s.isF Fld.MTR_CAL_STAT_SESSION = true) ∧ (s.meter.closing = false) ∧ (s.getF Fld.MTR_CAL_ARG0_POINTS < 16) ∧
      (bit s.meter.session (s.getF Fld.MTR_CAL_ARG0_POINTS) = true)) ∧
    (∃ (s : State) (path : RegPath), (s.CalReady path) ∧ (s.isF Fld.MTR_CAL_STAT_SESSION = false ∨ s.meter.closing = true)) ∧
    (∃ (s : State) (path : RegPath), (s.CalReady path) ∧ (s.isF Fld.MTR_CAL_STAT_SESSION = true) ∧ (s.meter.closing = false) ∧ (2 ≤ s.logFree)) ∧
    (∃ (s : State) (path : RegPath), (s.CalReady path) ∧ (s.isF Fld.MTR_CAL_STAT_SESSION = true) ∧ (s.meter.closing = false)) ∧
    (∃ (s : State) (path : RegPath), (s.CalReady path) ∧ (s.isF Fld.MTR_CAL_STAT_SESSION = false) ∧ (s.mPart = false)) ∧
    (∃ (s : State) (path : RegPath) (u d : _), (s.CalReady path) ∧ (s.isF Fld.MTR_CAL_STAT_SESSION = false) ∧ (s.mPart = true) ∧ (2 ≤ s.logFree) ∧
      (u = s.setF Fld.MTR_CAL_CMD_CMD 8) ∧ (d = sha512 s.meter.config)) ∧
    (∃ (s : State) (cmd : Nat) (path : RegPath), (s.CalReady path) ∧ (9 ≤ cmd) ∧ (cmd < 256)) :=
  ⟨⟨wSet ((wUp.setF Fld.CTL_VARIANT_METER_FITTED 1).setF Fld.CTL_VARIANT_METER_SEALED 1) [(Fld.MTR_HEALTH_CAL_EN, 1)], .bar0,
     ⟨⟨by decide +kernel, by decide +kernel, by decide +kernel, by decide +kernel⟩, by decide +kernel, by decide +kernel, by decide +kernel, by decide +kernel⟩⟩,
   ⟨wSet ((wUp.setF Fld.CTL_VARIANT_METER_FITTED 1).setF Fld.CTL_VARIANT_METER_SEALED 1) [(Fld.MTR_HEALTH_CAL_EN, 1), (Fld.MTR_CAL_STAT_SESSION, 1)],
     .bar0,
     ⟨⟨by decide +kernel, by decide +kernel, by decide +kernel, by decide +kernel⟩, by decide +kernel, by decide +kernel, by decide +kernel, by decide +kernel⟩,
     by decide +kernel⟩,
   ⟨wSet ((wUp.setF Fld.CTL_VARIANT_METER_FITTED 1).setF Fld.CTL_VARIANT_METER_SEALED 1) [(Fld.MTR_HEALTH_CAL_EN, 1), (Fld.MTR_CAL_ARG0_POINTS, 32769)],
     .bar0,
     ⟨⟨by decide +kernel, by decide +kernel, by decide +kernel, by decide +kernel⟩, by decide +kernel, by decide +kernel, by decide +kernel, by decide +kernel⟩,
     by decide +kernel, by decide +kernel, by decide +kernel⟩,
   ⟨wSet ((wUp.setF Fld.CTL_VARIANT_METER_FITTED 1).setF Fld.CTL_VARIANT_METER_SEALED 1) [(Fld.MTR_HEALTH_CAL_EN, 1)], .inl (by decide +kernel)⟩,
   ⟨wSet ((wUp.setF Fld.CTL_VARIANT_METER_FITTED 1).setF Fld.CTL_VARIANT_METER_SEALED 1) [(Fld.MTR_HEALTH_CAL_EN, 1), (Fld.MTR_CAL_STAT_SESSION, 1)],
     by decide +kernel, by decide +kernel, .inr (by decide +kernel)⟩,
   ⟨(wSet ((wUp.setF Fld.CTL_VARIANT_METER_FITTED 1).setF Fld.CTL_VARIANT_METER_SEALED 1) [(Fld.MTR_HEALTH_CAL_EN, 1), (Fld.MTR_CAL_STAT_SESSION, 1), (Fld.MTR_CAL_ARG0_POINTS, 15)]).onMeter (fun m => { m with session := 0x8000 }),
     by decide +kernel, by decide +kernel, by decide +kernel, by decide +kernel⟩,
   ⟨wSet ((wUp.setF Fld.CTL_VARIANT_METER_FITTED 1).setF Fld.CTL_VARIANT_METER_SEALED 1) [(Fld.MTR_HEALTH_CAL_EN, 1)], .bar0,
     ⟨⟨by decide +kernel, by decide +kernel, by decide +kernel, by decide +kernel⟩, by decide +kernel, by decide +kernel, by decide +kernel, by decide +kernel⟩,
     .inl (by decide +kernel)⟩,
   ⟨wSet ((wUp.setF Fld.CTL_VARIANT_METER_FITTED 1).setF Fld.CTL_VARIANT_METER_SEALED 1) [(Fld.MTR_HEALTH_CAL_EN, 1), (Fld.MTR_CAL_STAT_SESSION, 1)],
     .bar0,
     ⟨⟨by decide +kernel, by decide +kernel, by decide +kernel, by decide +kernel⟩, by decide +kernel, by decide +kernel, by decide +kernel, by decide +kernel⟩,
     by decide +kernel, by decide +kernel, by decide +kernel⟩,
   ⟨wSet ((wUp.setF Fld.CTL_VARIANT_METER_FITTED 1).setF Fld.CTL_VARIANT_METER_SEALED 1) [(Fld.MTR_HEALTH_CAL_EN, 1), (Fld.MTR_CAL_STAT_SESSION, 1)],
     .bar0,
     ⟨⟨by decide +kernel, by decide +kernel, by decide +kernel, by decide +kernel⟩, by decide +kernel, by decide +kernel, by decide +kernel, by decide +kernel⟩,
     by decide +kernel, by decide +kernel⟩,
   ⟨wSet (wUp.setF Fld.CTL_VARIANT_METER_SEALED 0) [(Fld.MTR_HEALTH_CAL_EN, 1)], .bar0,
     ⟨⟨by decide +kernel, by decide +kernel, by decide +kernel, by decide +kernel⟩, by decide +kernel, by decide +kernel, by decide +kernel, by decide +kernel⟩,
     by decide +kernel, by decide +kernel⟩,
   ⟨wSet ((wUp.setF Fld.CTL_VARIANT_METER_FITTED 1).setF Fld.CTL_VARIANT_METER_SEALED 1) [(Fld.MTR_HEALTH_CAL_EN, 1)], .bar0, _, _,
     ⟨⟨by decide +kernel, by decide +kernel, by decide +kernel, by decide +kernel⟩, by decide +kernel, by decide +kernel, by decide +kernel, by decide +kernel⟩,
     by decide +kernel, by decide +kernel, by decide +kernel, rfl, rfl⟩,
   ⟨wSet ((wUp.setF Fld.CTL_VARIANT_METER_FITTED 1).setF Fld.CTL_VARIANT_METER_SEALED 1) [(Fld.MTR_HEALTH_CAL_EN, 1)], 255, .bar0,
     ⟨⟨by decide +kernel, by decide +kernel, by decide +kernel, by decide +kernel⟩, by decide +kernel, by decide +kernel, by decide +kernel, by decide +kernel⟩,
     by decide +kernel, by decide +kernel⟩⟩

theorem witness_WallCommands :
    (∃ (s : State), (s.io.operational = true) ∧ (s.serving = true) ∧ (s.io.tick % 64 = 0)) ∧
    (∃ (s u : State) (port : Nat) (packet b : List Byte), (s.keptCmd port 0x01 packet [stJOINING] = (u, some b))) ∧
    (∃ (s : State) (th : Nat), (s.io.operational = true) ∧ (s.serving = true) ∧ (s.io.tick % 64 = 0) ∧ (s.leastTh = some th) ∧
      (th ≠ (match s.therm.thCmd with | some c => c.1 | none => 32768))) ∧
    (∃ (s : State) (th : Nat), (s.io.operational = true) ∧ (s.serving = true) ∧ (s.io.tick % 64 = 0) ∧ (s.leastTh = some th) ∧
      (th = (match s.therm.thCmd with | some c => c.1 | none => 32768))) ∧
    (∃ (s u : State) (port : Nat) (packet b : List Byte), (s.keptCmd port 0x05 packet [stJOINING, stOPERATIONAL] = (u, some b))) ∧
    (∃ (s u : State) (c d : _), (s.io.operational = true) ∧ (s.serving = true) ∧ (s.io.tick % 256 = 0) ∧ (s.hasCeiling = true) ∧
      (s.wall.schedule = some c) ∧ (u = s.wallCommand 0x03 c.body) ∧ (u.therm.thCmd = some d)) ∧
    (∃ (s u : State) (c : _), (s.io.operational = true) ∧ (s.serving = true) ∧ (s.io.tick % 256 = 0) ∧ (s.hasCeiling = true) ∧
      (s.wall.schedule = some c) ∧ (u = s.wallCommand 0x03 c.body) ∧ (u.therm.thCmd = none)) ∧
    (∃ (s : State), (s.io.operational = true) ∧ (s.serving = true) ∧ (s.io.tick % 256 = 0) ∧ (s.hasCeiling = false ∨ s.wall.schedule = none) ∧
      (s.therm.thCmd = none)) ∧
    (∃ (s : State) (d : _), (s.io.operational = true) ∧ (s.serving = true) ∧ (s.io.tick % 256 = 0) ∧ (s.hasCeiling = false ∨ s.wall.schedule = none) ∧
      (s.therm.thCmd = some d)) :=
  ⟨⟨wUp, by decide +kernel, by decide +kernel, by decide +kernel⟩,
   ⟨wNode stJOINING, ((wNode stJOINING : State).keptCmd (0 : Nat) 0x01 (wCmd 1 (zeros 16) : List Byte) [stJOINING]).1, 0, wCmd 1 (zeros 16),
     (((wNode stJOINING : State).keptCmd (0 : Nat) 0x01 (wCmd 1 (zeros 16) : List Byte) [stJOINING]).2).get (by decide +kernel), by decide +kernel⟩,
   ⟨wUp.setF Fld.THM_TH_LOCAL 100, 100, by decide +kernel, by decide +kernel, by decide +kernel, by decide +kernel, by decide +kernel⟩,
   ⟨wUp.setF Fld.THM_TH_LOCAL 32768, 32768, by decide +kernel, by decide +kernel, by decide +kernel, by decide +kernel, by decide +kernel⟩,
   ⟨wNode stOPERATIONAL, ((wNode stOPERATIONAL : State).keptCmd (0 : Nat) 0x05 (wCmd 5 (zeros 16) : List Byte) [stJOINING, stOPERATIONAL]).1, 0,
     wCmd 5 (zeros 16),
     (((wNode stOPERATIONAL : State).keptCmd (0 : Nat) 0x05 (wCmd 5 (zeros 16) : List Byte) [stJOINING, stOPERATIONAL]).2).get (by decide +kernel),
     by decide +kernel⟩,
   ⟨(((wSect wUp 0x000F (zeros 64)).setF Fld.LMP_CFG_SCOPE 0).onWall (fun m => { m with schedule := some { qStart := 0, target := 1, start := 0 } })).onTherm (fun m => { m with thCmd := some (5, 6) }),
     _, { qStart := 0, target := 1, start := 0 }, (5, 6), by decide +kernel, by decide +kernel, by decide +kernel, by decide +kernel, by decide +kernel,
     rfl, by decide +kernel⟩,
   ⟨((wSect wUp 0x000F (zeros 64)).setF Fld.LMP_CFG_SCOPE 0).onWall (fun m => { m with schedule := some { qStart := 0, target := 1, start := 0 } }), _,
     { qStart := 0, target := 1, start := 0 }, by decide +kernel, by decide +kernel, by decide +kernel, by decide +kernel, by decide +kernel, rfl,
     by decide +kernel⟩,
   ⟨(wSect wUp 0x000F (zeros 64)).setF Fld.LMP_CFG_SCOPE 0, by decide +kernel, by decide +kernel, by decide +kernel, .inr (by decide +kernel),
     by decide +kernel⟩,
   ⟨((wSect wUp 0x000F (zeros 64)).setF Fld.LMP_CFG_SCOPE 0).onTherm (fun m => { m with thCmd := some (5, 6) }), (5, 6), by decide +kernel,
     by decide +kernel, by decide +kernel, .inr (by decide +kernel), by decide +kernel⟩⟩

theorem witness_ThermalAndShutdown :
    (∃ (s u v : State) (d0 d1 : Int) (busy : List (List Nat)) (x : Nat), (s.thermalRuns = true) ∧
      (v = (s.on (·.at x)).recentStops.modelUpdate d0 d1 busy) ∧ (u = v.boardNode (v.nodeAbove 5 85) (!v.nodeAbove 5 82))) ∧
    (∃ (s : State), (s.therm.absent = false) ∧ (s.needsMeter = true) ∧ (stTRAINING ≤ s.io.boot) ∧ (s.io.boot ≤ stOPERATIONAL)) ∧
    (∃ (s : State), (s.thermalRuns = true) ∧ (s.boot.power ≠ 1)) ∧
    (∃ (s : State) (path : RegPath), (s.Accepts path Reg.THM_TEST)) ∧
    (∃ (s : State), (s.boot.power = 1)) ∧
    (∃ (s : State), (s.boot.pwrgood = true) ∧ (s.boot.power ≠ 2) ∧ (s.boot.power = 1)) ∧
    (∃ (s : State), (s.boot.pwrgood = true) ∧ (s.boot.power ≠ 2) ∧ (s.boot.power ≠ 1)) ∧
    (∃ (s : State), (s.boot.power = 2) ∧ (s.boot.pwrgood = true) ∧ (s.boot.autoRestart = true)) ∧
    (∃ (s : State), (s.boot.power = 2) ∧ (s.boot.pwrgood = true) ∧ (s.boot.autoRestart = false)) :=
  ⟨⟨wUp, _, _, 0, 0, [], 0, by decide +kernel, rfl, rfl⟩,
   ⟨wUp, by decide +kernel, by decide +kernel, by decide +kernel, by decide +kernel⟩,
   ⟨wUp, by decide +kernel, by decide +kernel⟩,
   ⟨wUp, .bar0, ⟨by decide +kernel, by decide +kernel, by decide +kernel, by decide +kernel⟩⟩,
   ⟨wUp.onBoot (fun b => { b with power := 1, autoRestart := false }), by decide +kernel⟩,
   ⟨wUp.onBoot (fun b => { b with power := 1, autoRestart := false }), by decide +kernel, by decide +kernel, by decide +kernel⟩,
   ⟨wUp, by decide +kernel, by decide +kernel, by decide +kernel⟩,
   ⟨wUp.onBoot (fun b => { b with power := 2, autoRestart := true }), by decide +kernel, by decide +kernel, by decide +kernel⟩,
   ⟨wUp.onBoot (fun b => { b with power := 2, autoRestart := false }), by decide +kernel, by decide +kernel, by decide +kernel⟩⟩

theorem witness_PairExchange :
    (∃ (s : State) (chain frame : Nat), (s.compares = true) ∧ (s.comparesChain chain frame = true) ∧ (s.pairUnit.early = []) ∧ (frame ≤ s.io.tick) ∧
      (s.pairUnit.excuseOld.contains chain = true ∨ s.portUp chain = false)) ∧
    (∃ (s : State) (chain frame : Nat), (s.compares = true) ∧ (s.comparesChain chain frame = true) ∧ (s.pairUnit.early = []) ∧ (frame ≤ s.io.tick) ∧
      (s.pairUnit.excuseOld.contains chain = false) ∧ (s.portUp chain = true)) ∧
    (∃ (s : State), (s.paired = true)) ∧
    (∃ (s u : State) (payload b : List Byte), (s.takePair payload = (u, some b)) ∧ (u.paired = true)) ∧
    (∃ (s u : State) (payload b : List Byte), (s.takePair payload = (u, some b)) ∧ (u.compares = true)) ∧
    (∃ (s u : State) (payload b : List Byte) (w : Nat), (s.takePair payload = (u, some b)) ∧ (u.compares = true) ∧ (w = fieldAt b 8 8)) ∧
    (∃ (s : State), (s.compares = true)) ∧
    (∃ (s u : State) (payload b : List Byte) (p : Partner), (s.takePair payload = (u, some b)) ∧ (u.pair = pJOINING) ∧ (u.pairUnit.partner = some p) ∧
      (p.foreign = false) ∧
      ((([1, 2, 6, 7].all (fun t => (snapOf (snapBlocks b.length (b.drop 8)) t).isSome)) && (snapBlocks b.length (b.drop 8)).all blockSound) = true)) ∧
    (∃ (s u : State) (payload b : List Byte) (p : Partner), (s.takePair payload = (u, some b)) ∧ (u.pair = pJOINING) ∧ (u.pairUnit.partner = some p) ∧
      (p.foreign = false) ∧
      ((([1, 2, 6, 7].all (fun t => (snapOf (snapBlocks b.length (b.drop 8)) t).isSome)) && (snapBlocks b.length (b.drop 8)).all blockSound) = false)) ∧
    (∃ (s u : State) (payload b : List Byte), (s.takePair payload = (u, some b)) ∧ (u.pair = pACTIVE)) ∧
    (∃ (s u : State) (payload b : List Byte), (s.takePair payload = (u, some b)) ∧ (u.pair ≠ pACTIVE) ∧ (pJOINING ≤ u.pair)) ∧
    (∃ (s : State) (chain n : Nat), (s.pair = pACTIVE) ∧ (s.isF Fld.PAIR_CFG_AUTO_REUNITE = true) ∧ (s.pairUnit.splitChains.contains chain = true) ∧
      (s.pairUnit.reunite.any (·.1 == chain) = false) ∧ (n = ((s.pairUnit.goodReads.find? (·.1 == chain)).map (·.2)).getD 0)) ∧
    (∃ (s : State) (chain n : Nat), (s.pair = pACTIVE) ∧ (s.isF Fld.PAIR_CFG_AUTO_REUNITE = true) ∧ (s.pairUnit.splitChains.contains chain = true) ∧
      (s.pairUnit.reunite.any (·.1 == chain) = false) ∧ (n = ((s.pairUnit.goodReads.find? (·.1 == chain)).map (·.2)).getD 0) ∧ (n = 0)) ∧
    (∃ (s : State) (chain n : Nat), (s.pair = pACTIVE) ∧ (s.isF Fld.PAIR_CFG_AUTO_REUNITE = true) ∧ (s.pairUnit.splitChains.contains chain = true) ∧
      (s.pairUnit.reunite.any (·.1 == chain) = false) ∧ (n = ((s.pairUnit.goodReads.find? (·.1 == chain)).map (·.2)).getD 0) ∧ (1 ≤ n)) ∧
    (∃ (s u : State) (payload b : List Byte), (s.takePair payload = (u, some b)) ∧ (pJOINING ≤ u.pair)) :=
  ⟨⟨(wSet wUp [(Fld.PAIR_STATE_STATE, pJOINING), (Fld.PAIR_STATE_LINK, 1), (Fld.CTL_IMG_INFO_PAIR_IMAGE, 1), (Fld.CTL_VARIANT_PAIR_PORT, 1), (Fld.LNK_STATE_STATE 4 0, 2)]).onPair (fun v => { v with lockstep := true, excuseOld := [15] }),
     15, 0, by decide +kernel, by decide +kernel, by decide +kernel, by decide +kernel, .inl (by decide +kernel)⟩,
   ⟨(wSet wUp [(Fld.PAIR_STATE_STATE, pJOINING), (Fld.PAIR_STATE_LINK, 1), (Fld.CTL_IMG_INFO_PAIR_IMAGE, 1), (Fld.CTL_VARIANT_PAIR_PORT, 1), (Fld.LNK_STATE_STATE 4 0, 2), (Fld.LNK_STATE_STATE 3 3, 2)]).onPair (fun v => { v with lockstep := true }),
     15, 0, by decide +kernel, by decide +kernel, by decide +kernel, by decide +kernel, by decide +kernel, by decide +kernel⟩,
   ⟨wSet wUp [(Fld.PAIR_STATE_STATE, pACTIVE), (Fld.PAIR_STATE_LINK, 1), (Fld.CTL_IMG_INFO_PAIR_IMAGE, 1), (Fld.CTL_VARIANT_PAIR_PORT, 1), (Fld.LNK_STATE_STATE 4 0, 2)],
     by decide +kernel⟩,
   ⟨wSet wUp [(Fld.PAIR_STATE_STATE, pJOINING), (Fld.PAIR_STATE_LINK, 1), (Fld.CTL_IMG_INFO_PAIR_IMAGE, 1), (Fld.CTL_VARIANT_PAIR_PORT, 1), (Fld.LNK_STATE_STATE 4 0, 2)],
     ((wSet wUp [(Fld.PAIR_STATE_STATE, pJOINING), (Fld.PAIR_STATE_LINK, 1), (Fld.CTL_IMG_INFO_PAIR_IMAGE, 1), (Fld.CTL_VARIANT_PAIR_PORT, 1), (Fld.LNK_STATE_STATE 4 0, 2)] : State).takePair (leBytes 4 0 ++ (zeros 40) : List Byte)).1,
     leBytes 4 0 ++ (zeros 40),
     (((wSet wUp [(Fld.PAIR_STATE_STATE, pJOINING), (Fld.PAIR_STATE_LINK, 1), (Fld.CTL_IMG_INFO_PAIR_IMAGE, 1), (Fld.CTL_VARIANT_PAIR_PORT, 1), (Fld.LNK_STATE_STATE 4 0, 2)] : State).takePair (leBytes 4 0 ++ (zeros 40) : List Byte)).2).get (by decide +kernel),
     by decide +kernel, by decide +kernel⟩,
   ⟨(wSet wUp [(Fld.PAIR_STATE_STATE, pJOINING), (Fld.PAIR_STATE_LINK, 1), (Fld.CTL_IMG_INFO_PAIR_IMAGE, 1), (Fld.CTL_VARIANT_PAIR_PORT, 1), (Fld.LNK_STATE_STATE 4 0, 2)]).onPair (fun v => { v with lockstep := true }),
     (((wSet wUp [(Fld.PAIR_STATE_STATE, pJOINING), (Fld.PAIR_STATE_LINK, 1), (Fld.CTL_IMG_INFO_PAIR_IMAGE, 1), (Fld.CTL_VARIANT_PAIR_PORT, 1), (Fld.LNK_STATE_STATE 4 0, 2)]).onPair (fun v => { v with lockstep := true }) : State).takePair (leBytes 4 0 ++ (zeros 40) : List Byte)).1,
     leBytes 4 0 ++ (zeros 40),
     ((((wSet wUp [(Fld.PAIR_STATE_STATE, pJOINING), (Fld.PAIR_STATE_LINK, 1), (Fld.CTL_IMG_INFO_PAIR_IMAGE, 1), (Fld.CTL_VARIANT_PAIR_PORT, 1), (Fld.LNK_STATE_STATE 4 0, 2)]).onPair (fun v => { v with lockstep := true }) : State).takePair (leBytes 4 0 ++ (zeros 40) : List Byte)).2).get (by decide +kernel),
     by decide +kernel, by decide +kernel⟩,
   ⟨(wSet wUp [(Fld.PAIR_STATE_STATE, pJOINING), (Fld.PAIR_STATE_LINK, 1), (Fld.CTL_IMG_INFO_PAIR_IMAGE, 1), (Fld.CTL_VARIANT_PAIR_PORT, 1), (Fld.LNK_STATE_STATE 4 0, 2)]).onPair (fun v => { v with lockstep := true }),
     (((wSet wUp [(Fld.PAIR_STATE_STATE, pJOINING), (Fld.PAIR_STATE_LINK, 1), (Fld.CTL_IMG_INFO_PAIR_IMAGE, 1), (Fld.CTL_VARIANT_PAIR_PORT, 1), (Fld.LNK_STATE_STATE 4 0, 2)]).onPair (fun v => { v with lockstep := true }) : State).takePair (leBytes 4 0 ++ (zeros 40) : List Byte)).1,
     leBytes 4 0 ++ (zeros 40),
     ((((wSet wUp [(Fld.PAIR_STATE_STATE, pJOINING), (Fld.PAIR_STATE_LINK, 1), (Fld.CTL_IMG_INFO_PAIR_IMAGE, 1), (Fld.CTL_VARIANT_PAIR_PORT, 1), (Fld.LNK_STATE_STATE 4 0, 2)]).onPair (fun v => { v with lockstep := true }) : State).takePair (leBytes 4 0 ++ (zeros 40) : List Byte)).2).get (by decide +kernel),
     _, by decide +kernel, by decide +kernel, rfl⟩,
   ⟨(wSet wUp [(Fld.PAIR_STATE_STATE, pJOINING), (Fld.PAIR_STATE_LINK, 1), (Fld.CTL_IMG_INFO_PAIR_IMAGE, 1), (Fld.CTL_VARIANT_PAIR_PORT, 1), (Fld.LNK_STATE_STATE 4 0, 2)]).onPair (fun v => { v with lockstep := true }),
     by decide +kernel⟩,
   ⟨(wSet wUp [(Fld.PAIR_STATE_STATE, pJOINING), (Fld.PAIR_STATE_LINK, 1), (Fld.CTL_IMG_INFO_PAIR_IMAGE, 1), (Fld.CTL_VARIANT_PAIR_PORT, 1), (Fld.LNK_STATE_STATE 4 0, 2)]).onPair (fun v => { v with partner := some { serial := 5, epoch := 1, state := 1, wallId := 0, foreign := false } }),
     (((wSet wUp [(Fld.PAIR_STATE_STATE, pJOINING), (Fld.PAIR_STATE_LINK, 1), (Fld.CTL_IMG_INFO_PAIR_IMAGE, 1), (Fld.CTL_VARIANT_PAIR_PORT, 1), (Fld.LNK_STATE_STATE 4 0, 2)]).onPair (fun v => { v with partner := some { serial := 5, epoch := 1, state := 1, wallId := 0, foreign := false } }) : State).takePair (leBytes 4 0 ++ wSnapBody : List Byte)).1,
     leBytes 4 0 ++ wSnapBody, wSnapBody, { serial := 5, epoch := 1, state := 1, wallId := 0, foreign := false }, rfl, by decide +kernel,
     by decide +kernel, by decide +kernel, wSnap_ok⟩,
   ⟨(wSet wUp [(Fld.PAIR_STATE_STATE, pJOINING), (Fld.PAIR_STATE_LINK, 1), (Fld.CTL_IMG_INFO_PAIR_IMAGE, 1), (Fld.CTL_VARIANT_PAIR_PORT, 1), (Fld.LNK_STATE_STATE 4 0, 2)]).onPair (fun v => { v with partner := some { serial := 5, epoch := 1, state := 1, wallId := 0, foreign := false } }),
     (((wSet wUp [(Fld.PAIR_STATE_STATE, pJOINING), (Fld.PAIR_STATE_LINK, 1), (Fld.CTL_IMG_INFO_PAIR_IMAGE, 1), (Fld.CTL_VARIANT_PAIR_PORT, 1), (Fld.LNK_STATE_STATE 4 0, 2)]).onPair (fun v => { v with partner := some { serial := 5, epoch := 1, state := 1, wallId := 0, foreign := false } }) : State).takePair (leBytes 4 0 ++ (zeros 8) : List Byte)).1,
     leBytes 4 0 ++ (zeros 8),
     ((((wSet wUp [(Fld.PAIR_STATE_STATE, pJOINING), (Fld.PAIR_STATE_LINK, 1), (Fld.CTL_IMG_INFO_PAIR_IMAGE, 1), (Fld.CTL_VARIANT_PAIR_PORT, 1), (Fld.LNK_STATE_STATE 4 0, 2)]).onPair (fun v => { v with partner := some { serial := 5, epoch := 1, state := 1, wallId := 0, foreign := false } }) : State).takePair (leBytes 4 0 ++ (zeros 8) : List Byte)).2).get (by decide +kernel),
     { serial := 5, epoch := 1, state := 1, wallId := 0, foreign := false }, by decide +kernel, by decide +kernel, by decide +kernel, by decide +kernel,
     by decide +kernel⟩,
   ⟨wSet wUp [(Fld.PAIR_STATE_STATE, pACTIVE), (Fld.PAIR_STATE_LINK, 1), (Fld.CTL_IMG_INFO_PAIR_IMAGE, 1), (Fld.CTL_VARIANT_PAIR_PORT, 1), (Fld.LNK_STATE_STATE 4 0, 2)],
     ((wSet wUp [(Fld.PAIR_STATE_STATE, pACTIVE), (Fld.PAIR_STATE_LINK, 1), (Fld.CTL_IMG_INFO_PAIR_IMAGE, 1), (Fld.CTL_VARIANT_PAIR_PORT, 1), (Fld.LNK_STATE_STATE 4 0, 2)] : State).takePair (leBytes 4 0 ++ (zeros 40) : List Byte)).1,
     leBytes 4 0 ++ (zeros 40),
     (((wSet wUp [(Fld.PAIR_STATE_STATE, pACTIVE), (Fld.PAIR_STATE_LINK, 1), (Fld.CTL_IMG_INFO_PAIR_IMAGE, 1), (Fld.CTL_VARIANT_PAIR_PORT, 1), (Fld.LNK_STATE_STATE 4 0, 2)] : State).takePair (leBytes 4 0 ++ (zeros 40) : List Byte)).2).get (by decide +kernel),
     by decide +kernel, by decide +kernel⟩,
   ⟨wSet wUp [(Fld.PAIR_STATE_STATE, pJOINING), (Fld.PAIR_STATE_LINK, 1), (Fld.CTL_IMG_INFO_PAIR_IMAGE, 1), (Fld.CTL_VARIANT_PAIR_PORT, 1), (Fld.LNK_STATE_STATE 4 0, 2)],
     ((wSet wUp [(Fld.PAIR_STATE_STATE, pJOINING), (Fld.PAIR_STATE_LINK, 1), (Fld.CTL_IMG_INFO_PAIR_IMAGE, 1), (Fld.CTL_VARIANT_PAIR_PORT, 1), (Fld.LNK_STATE_STATE 4 0, 2)] : State).takePair (leBytes 4 0 ++ (zeros 40) : List Byte)).1,
     leBytes 4 0 ++ (zeros 40),
     (((wSet wUp [(Fld.PAIR_STATE_STATE, pJOINING), (Fld.PAIR_STATE_LINK, 1), (Fld.CTL_IMG_INFO_PAIR_IMAGE, 1), (Fld.CTL_VARIANT_PAIR_PORT, 1), (Fld.LNK_STATE_STATE 4 0, 2)] : State).takePair (leBytes 4 0 ++ (zeros 40) : List Byte)).2).get (by decide +kernel),
     by decide +kernel, by decide +kernel, by decide +kernel⟩,
   ⟨(wSet wUp [(Fld.PAIR_STATE_STATE, pACTIVE), (Fld.PAIR_STATE_LINK, 1), (Fld.CTL_IMG_INFO_PAIR_IMAGE, 1), (Fld.CTL_VARIANT_PAIR_PORT, 1), (Fld.LNK_STATE_STATE 4 0, 2), (Fld.PAIR_CFG_AUTO_REUNITE, 1)]).onPair (fun v => { v with splitChains := [15], goodReads := [(15, 0)] }),
     15, _, by decide +kernel, by decide +kernel, by decide +kernel, by decide +kernel, rfl⟩,
   ⟨(wSet wUp [(Fld.PAIR_STATE_STATE, pACTIVE), (Fld.PAIR_STATE_LINK, 1), (Fld.CTL_IMG_INFO_PAIR_IMAGE, 1), (Fld.CTL_VARIANT_PAIR_PORT, 1), (Fld.LNK_STATE_STATE 4 0, 2), (Fld.PAIR_CFG_AUTO_REUNITE, 1)]).onPair (fun v => { v with splitChains := [15], goodReads := [(15, 0)] }),
     15, _, by decide +kernel, by decide +kernel, by decide +kernel, by decide +kernel, rfl, by decide +kernel⟩,
   ⟨(wSet wUp [(Fld.PAIR_STATE_STATE, pACTIVE), (Fld.PAIR_STATE_LINK, 1), (Fld.CTL_IMG_INFO_PAIR_IMAGE, 1), (Fld.CTL_VARIANT_PAIR_PORT, 1), (Fld.LNK_STATE_STATE 4 0, 2), (Fld.PAIR_CFG_AUTO_REUNITE, 1)]).onPair (fun v => { v with splitChains := [15], goodReads := [(15, 1)] }),
     15, _, by decide +kernel, by decide +kernel, by decide +kernel, by decide +kernel, rfl, by decide +kernel⟩,
   ⟨wSet wUp [(Fld.PAIR_STATE_STATE, pJOINING), (Fld.PAIR_STATE_LINK, 1), (Fld.CTL_IMG_INFO_PAIR_IMAGE, 1), (Fld.CTL_VARIANT_PAIR_PORT, 1), (Fld.LNK_STATE_STATE 4 0, 2)],
     ((wSet wUp [(Fld.PAIR_STATE_STATE, pJOINING), (Fld.PAIR_STATE_LINK, 1), (Fld.CTL_IMG_INFO_PAIR_IMAGE, 1), (Fld.CTL_VARIANT_PAIR_PORT, 1), (Fld.LNK_STATE_STATE 4 0, 2)] : State).takePair (leBytes 4 0 ++ (zeros 40) : List Byte)).1,
     leBytes 4 0 ++ (zeros 40),
     (((wSet wUp [(Fld.PAIR_STATE_STATE, pJOINING), (Fld.PAIR_STATE_LINK, 1), (Fld.CTL_IMG_INFO_PAIR_IMAGE, 1), (Fld.CTL_VARIANT_PAIR_PORT, 1), (Fld.LNK_STATE_STATE 4 0, 2)] : State).takePair (leBytes 4 0 ++ (zeros 40) : List Byte)).2).get (by decide +kernel),
     by decide +kernel, by decide +kernel⟩⟩

theorem witness_PairTransport :
    (∃ (s u : State) (payload : List Byte), (s.pairLink = true) ∧ (s.pairUnit.sent.any (·.pseq == fieldAt payload 4 4) = true) ∧
      (u = s.onPair (fun v => { v with sent := v.sent.filter (·.pseq != fieldAt payload 4 4) })) ∧ (s.pairUnit.deposeSeq ≠ some (fieldAt payload 4 4)) ∧
      (s.pairUnit.snapshotSeq ≠ some (fieldAt payload 4 4))) ∧
    (∃ (s u : State) (payload : List Byte), (s.pairLink = true) ∧ (s.pairUnit.sent.any (·.pseq == fieldAt payload 4 4) = true) ∧
      (u = s.onPair (fun v => { v with sent := v.sent.filter (·.pseq != fieldAt payload 4 4) })) ∧ (s.pairUnit.deposeSeq ≠ some (fieldAt payload 4 4)) ∧
      (s.pairUnit.snapshotSeq = some (fieldAt payload 4 4)) ∧ (s.pair = pACTIVE)) ∧
    (∃ (s : State) (pseq : Nat) (p : PairSent), (s.pairUnit.sent.find? (·.pseq == pseq) = some p) ∧ (3 ≤ p.repeats)) ∧
    (∃ (s : State) (pseq : Nat) (p : PairSent), (s.pairUnit.sent.find? (·.pseq == pseq) = some p) ∧ (p.repeats < 3)) ∧
    (∃ (s : State) (ptype : Nat), (s.pairLink = true) ∧ (ptype < 0x10 ∨ 0x1A < ptype)) ∧
    (∃ (s : State), (s.pairUnit.deposeSeq.isSome = true)) ∧
    (∃ (s u : State) (payload b : List Byte), (s.takePair payload = (u, some b)) ∧ (u.pair = pACTIVE) ∧ (fieldAt b 0 6 = 2 ^ 48 - 1)) ∧
    (∃ (s u : State) (payload b : List Byte), (s.takePair payload = (u, some b)) ∧ (u.pair = pACTIVE) ∧ (fieldAt b 0 6 ≠ 2 ^ 48 - 1)) ∧
    (∃ (s u : State) (payload b : List Byte), (s.takePair payload = (u, some b)) ∧ (u.pair = pACTIVE) ∧ (fieldAt b 4 1 < 2)) ∧
    (∃ (s u : State) (payload b : List Byte), (s.takePair payload = (u, some b)) ∧ (fieldAt b 6 1 = 0) ∧ (u.pair = pARMED)) ∧
    (∃ (s u : State) (payload b : List Byte), (s.takePair payload = (u, some b)) ∧ (fieldAt b 6 1 = 1) ∧ (u.pair = pJOINING) ∧
      (u.isF Fld.PAIR_STATE_FOREIGN = true)) ∧
    (∃ (s u : State) (payload b : List Byte), (s.takePair payload = (u, some b)) ∧ (fieldAt b 6 1 = 2) ∧ (u.pair = pARMED) ∧ (u.pairUnit.trigger = none)) ∧
    (∃ (s u : State) (payload b : List Byte), (s.takePair payload = (u, some b)) ∧ (3 ≤ fieldAt b 6 1)) ∧
    (∃ (s : State), (s.pair = pSUSPECT) ∧ (s.pairUnit.suspectAt + 256 ≤ s.io.tick) ∧
      (s.getF Fld.PAIR_STATE_ATTEMPTS < max 1 (s.getF Fld.PAIR_CFG_JOIN_MAX))) ∧
    (∃ (s : State), (s.paired = true) ∧ (s.pair = pJOINING) ∧ (s.io.boot = stJOINING) ∧ (s.pairLink = false)) ∧
    (∃ (s : State) (path : RegPath), (s.Accepts path Reg.PAIR_TEST)) :=
  ⟨⟨(wSet wUp [(Fld.PAIR_STATE_STATE, pACTIVE), (Fld.PAIR_STATE_LINK, 1), (Fld.CTL_IMG_INFO_PAIR_IMAGE, 1), (Fld.CTL_VARIANT_PAIR_PORT, 1), (Fld.LNK_STATE_STATE 4 0, 2)]).onPair (fun v => { v with sent := [{ pseq := 7, ptype := 0x10, payload := [], repeats := 0 }] }),
     _, leBytes 4 0 ++ (leBytes 4 7), by decide +kernel, by decide +kernel, rfl, by decide +kernel, by decide +kernel⟩,
   ⟨(wSet wUp [(Fld.PAIR_STATE_STATE, pACTIVE), (Fld.PAIR_STATE_LINK, 1), (Fld.CTL_IMG_INFO_PAIR_IMAGE, 1), (Fld.CTL_VARIANT_PAIR_PORT, 1), (Fld.LNK_STATE_STATE 4 0, 2)]).onPair (fun v => { v with sent := [{ pseq := 7, ptype := 0x10, payload := [], repeats := 0 }], snapshotSeq := some 7 }),
     _, leBytes 4 0 ++ (leBytes 4 7), by decide +kernel, by decide +kernel, rfl, by decide +kernel, by decide +kernel, by decide +kernel⟩,
   ⟨(wSet wUp [(Fld.PAIR_STATE_STATE, pACTIVE), (Fld.PAIR_STATE_LINK, 1), (Fld.CTL_IMG_INFO_PAIR_IMAGE, 1), (Fld.CTL_VARIANT_PAIR_PORT, 1), (Fld.LNK_STATE_STATE 4 0, 2)]).onPair (fun v => { v with sent := [{ pseq := 7, ptype := 0x10, payload := [], repeats := 3 }] }),
     7, { pseq := 7, ptype := 0x10, payload := [], repeats := 3 }, by decide +kernel, by decide +kernel⟩,
   ⟨(wSet wUp [(Fld.PAIR_STATE_STATE, pACTIVE), (Fld.PAIR_STATE_LINK, 1), (Fld.CTL_IMG_INFO_PAIR_IMAGE, 1), (Fld.CTL_VARIANT_PAIR_PORT, 1), (Fld.LNK_STATE_STATE 4 0, 2)]).onPair (fun v => { v with sent := [{ pseq := 7, ptype := 0x10, payload := [], repeats := 2 }] }),
     7, { pseq := 7, ptype := 0x10, payload := [], repeats := 2 }, by decide +kernel, by decide +kernel⟩,
   ⟨wSet wUp [(Fld.PAIR_STATE_STATE, pACTIVE), (Fld.PAIR_STATE_LINK, 1), (Fld.CTL_IMG_INFO_PAIR_IMAGE, 1), (Fld.CTL_VARIANT_PAIR_PORT, 1), (Fld.LNK_STATE_STATE 4 0, 2)],
     0x1B, by decide +kernel, .inr (by decide +kernel)⟩,
   ⟨(wSet wUp [(Fld.PAIR_STATE_STATE, pACTIVE), (Fld.PAIR_STATE_LINK, 1), (Fld.CTL_IMG_INFO_PAIR_IMAGE, 1), (Fld.CTL_VARIANT_PAIR_PORT, 1), (Fld.LNK_STATE_STATE 4 0, 2)]).onPair (fun v => { v with deposeSeq := some 7 }),
     by decide +kernel⟩,
   ⟨wSet wUp [(Fld.PAIR_STATE_STATE, pACTIVE), (Fld.PAIR_STATE_LINK, 1), (Fld.CTL_IMG_INFO_PAIR_IMAGE, 1), (Fld.CTL_VARIANT_PAIR_PORT, 1), (Fld.LNK_STATE_STATE 4 0, 2)],
     ((wSet wUp [(Fld.PAIR_STATE_STATE, pACTIVE), (Fld.PAIR_STATE_LINK, 1), (Fld.CTL_IMG_INFO_PAIR_IMAGE, 1), (Fld.CTL_VARIANT_PAIR_PORT, 1), (Fld.LNK_STATE_STATE 4 0, 2)] : State).takePair (leBytes 4 0 ++ (leBytes 6 (2 ^ 48 - 1) ++ zeros 2) : List Byte)).1,
     leBytes 4 0 ++ (leBytes 6 (2 ^ 48 - 1) ++ zeros 2),
     (((wSet wUp [(Fld.PAIR_STATE_STATE, pACTIVE), (Fld.PAIR_STATE_LINK, 1), (Fld.CTL_IMG_INFO_PAIR_IMAGE, 1), (Fld.CTL_VARIANT_PAIR_PORT, 1), (Fld.LNK_STATE_STATE 4 0, 2)] : State).takePair (leBytes 4 0 ++ (leBytes 6 (2 ^ 48 - 1) ++ zeros 2) : List Byte)).2).get (by decide +kernel),
     by decide +kernel, by decide +kernel, by decide +kernel⟩,
   ⟨wSet wUp [(Fld.PAIR_STATE_STATE, pACTIVE), (Fld.PAIR_STATE_LINK, 1), (Fld.CTL_IMG_INFO_PAIR_IMAGE, 1), (Fld.CTL_VARIANT_PAIR_PORT, 1), (Fld.LNK_STATE_STATE 4 0, 2)],
     ((wSet wUp [(Fld.PAIR_STATE_STATE, pACTIVE), (Fld.PAIR_STATE_LINK, 1), (Fld.CTL_IMG_INFO_PAIR_IMAGE, 1), (Fld.CTL_VARIANT_PAIR_PORT, 1), (Fld.LNK_STATE_STATE 4 0, 2)] : State).takePair (leBytes 4 0 ++ (zeros 8) : List Byte)).1,
     leBytes 4 0 ++ (zeros 8),
     (((wSet wUp [(Fld.PAIR_STATE_STATE, pACTIVE), (Fld.PAIR_STATE_LINK, 1), (Fld.CTL_IMG_INFO_PAIR_IMAGE, 1), (Fld.CTL_VARIANT_PAIR_PORT, 1), (Fld.LNK_STATE_STATE 4 0, 2)] : State).takePair (leBytes 4 0 ++ (zeros 8) : List Byte)).2).get (by decide +kernel),
     by decide +kernel, by decide +kernel, by decide +kernel⟩,
   ⟨wSet wUp [(Fld.PAIR_STATE_STATE, pACTIVE), (Fld.PAIR_STATE_LINK, 1), (Fld.CTL_IMG_INFO_PAIR_IMAGE, 1), (Fld.CTL_VARIANT_PAIR_PORT, 1), (Fld.LNK_STATE_STATE 4 0, 2)],
     ((wSet wUp [(Fld.PAIR_STATE_STATE, pACTIVE), (Fld.PAIR_STATE_LINK, 1), (Fld.CTL_IMG_INFO_PAIR_IMAGE, 1), (Fld.CTL_VARIANT_PAIR_PORT, 1), (Fld.LNK_STATE_STATE 4 0, 2)] : State).takePair (leBytes 4 0 ++ (leBytes 4 0 ++ [1] ++ zeros 3) : List Byte)).1,
     leBytes 4 0 ++ (leBytes 4 0 ++ [1] ++ zeros 3),
     (((wSet wUp [(Fld.PAIR_STATE_STATE, pACTIVE), (Fld.PAIR_STATE_LINK, 1), (Fld.CTL_IMG_INFO_PAIR_IMAGE, 1), (Fld.CTL_VARIANT_PAIR_PORT, 1), (Fld.LNK_STATE_STATE 4 0, 2)] : State).takePair (leBytes 4 0 ++ (leBytes 4 0 ++ [1] ++ zeros 3) : List Byte)).2).get (by decide +kernel),
     by decide +kernel, by decide +kernel, by decide +kernel⟩,
   ⟨wSet wUp [(Fld.PAIR_STATE_STATE, pARMED), (Fld.PAIR_STATE_LINK, 1), (Fld.CTL_IMG_INFO_PAIR_IMAGE, 1), (Fld.CTL_VARIANT_PAIR_PORT, 1), (Fld.LNK_STATE_STATE 4 0, 2)],
     ((wSet wUp [(Fld.PAIR_STATE_STATE, pARMED), (Fld.PAIR_STATE_LINK, 1), (Fld.CTL_IMG_INFO_PAIR_IMAGE, 1), (Fld.CTL_VARIANT_PAIR_PORT, 1), (Fld.LNK_STATE_STATE 4 0, 2)] : State).takePair (leBytes 4 0 ++ (zeros 6 ++ [0] ++ zeros 9) : List Byte)).1,
     leBytes 4 0 ++ (zeros 6 ++ [0] ++ zeros 9),
     (((wSet wUp [(Fld.PAIR_STATE_STATE, pARMED), (Fld.PAIR_STATE_LINK, 1), (Fld.CTL_IMG_INFO_PAIR_IMAGE, 1), (Fld.CTL_VARIANT_PAIR_PORT, 1), (Fld.LNK_STATE_STATE 4 0, 2)] : State).takePair (leBytes 4 0 ++ (zeros 6 ++ [0] ++ zeros 9) : List Byte)).2).get (by decide +kernel),
     by decide +kernel, by decide +kernel, by decide +kernel⟩,
   ⟨wSet wUp [(Fld.PAIR_STATE_STATE, pJOINING), (Fld.PAIR_STATE_LINK, 1), (Fld.CTL_IMG_INFO_PAIR_IMAGE, 1), (Fld.CTL_VARIANT_PAIR_PORT, 1), (Fld.LNK_STATE_STATE 4 0, 2), (Fld.PAIR_STATE_FOREIGN, 1)],
     ((wSet wUp [(Fld.PAIR_STATE_STATE, pJOINING), (Fld.PAIR_STATE_LINK, 1), (Fld.CTL_IMG_INFO_PAIR_IMAGE, 1), (Fld.CTL_VARIANT_PAIR_PORT, 1), (Fld.LNK_STATE_STATE 4 0, 2), (Fld.PAIR_STATE_FOREIGN, 1)] : State).takePair (leBytes 4 0 ++ (zeros 6 ++ [1] ++ zeros 9) : List Byte)).1,
     leBytes 4 0 ++ (zeros 6 ++ [1] ++ zeros 9),
     (((wSet wUp [(Fld.PAIR_STATE_STATE, pJOINING), (Fld.PAIR_STATE_LINK, 1), (Fld.CTL_IMG_INFO_PAIR_IMAGE, 1), (Fld.CTL_VARIANT_PAIR_PORT, 1), (Fld.LNK_STATE_STATE 4 0, 2), (Fld.PAIR_STATE_FOREIGN, 1)] : State).takePair (leBytes 4 0 ++ (zeros 6 ++ [1] ++ zeros 9) : List Byte)).2).get (by decide +kernel),
     by decide +kernel, by decide +kernel, by decide +kernel, by decide +kernel⟩,
   ⟨wSet wUp [(Fld.PAIR_STATE_STATE, pARMED), (Fld.PAIR_STATE_LINK, 1), (Fld.CTL_IMG_INFO_PAIR_IMAGE, 1), (Fld.CTL_VARIANT_PAIR_PORT, 1), (Fld.LNK_STATE_STATE 4 0, 2)],
     ((wSet wUp [(Fld.PAIR_STATE_STATE, pARMED), (Fld.PAIR_STATE_LINK, 1), (Fld.CTL_IMG_INFO_PAIR_IMAGE, 1), (Fld.CTL_VARIANT_PAIR_PORT, 1), (Fld.LNK_STATE_STATE 4 0, 2)] : State).takePair (leBytes 4 0 ++ (zeros 6 ++ [2] ++ zeros 9) : List Byte)).1,
     leBytes 4 0 ++ (zeros 6 ++ [2] ++ zeros 9),
     (((wSet wUp [(Fld.PAIR_STATE_STATE, pARMED), (Fld.PAIR_STATE_LINK, 1), (Fld.CTL_IMG_INFO_PAIR_IMAGE, 1), (Fld.CTL_VARIANT_PAIR_PORT, 1), (Fld.LNK_STATE_STATE 4 0, 2)] : State).takePair (leBytes 4 0 ++ (zeros 6 ++ [2] ++ zeros 9) : List Byte)).2).get (by decide +kernel),
     by decide +kernel, by decide +kernel, by decide +kernel, by decide +kernel⟩,
   ⟨wSet wUp [(Fld.PAIR_STATE_STATE, pARMED), (Fld.PAIR_STATE_LINK, 1), (Fld.CTL_IMG_INFO_PAIR_IMAGE, 1), (Fld.CTL_VARIANT_PAIR_PORT, 1), (Fld.LNK_STATE_STATE 4 0, 2)],
     ((wSet wUp [(Fld.PAIR_STATE_STATE, pARMED), (Fld.PAIR_STATE_LINK, 1), (Fld.CTL_IMG_INFO_PAIR_IMAGE, 1), (Fld.CTL_VARIANT_PAIR_PORT, 1), (Fld.LNK_STATE_STATE 4 0, 2)] : State).takePair (leBytes 4 0 ++ (zeros 6 ++ [3] ++ zeros 9) : List Byte)).1,
     leBytes 4 0 ++ (zeros 6 ++ [3] ++ zeros 9),
     (((wSet wUp [(Fld.PAIR_STATE_STATE, pARMED), (Fld.PAIR_STATE_LINK, 1), (Fld.CTL_IMG_INFO_PAIR_IMAGE, 1), (Fld.CTL_VARIANT_PAIR_PORT, 1), (Fld.LNK_STATE_STATE 4 0, 2)] : State).takePair (leBytes 4 0 ++ (zeros 6 ++ [3] ++ zeros 9) : List Byte)).2).get (by decide +kernel),
     by decide +kernel, by decide +kernel⟩,
   ⟨wSet wUp [(Fld.PAIR_STATE_STATE, pSUSPECT), (Fld.PAIR_STATE_LINK, 1), (Fld.CTL_IMG_INFO_PAIR_IMAGE, 1), (Fld.CTL_VARIANT_PAIR_PORT, 1), (Fld.LNK_STATE_STATE 4 0, 2), (Fld.TCK_COUNT_LO, 256), (Fld.PAIR_CFG_JOIN_MAX, 3)],
     by decide +kernel, by decide +kernel, by decide +kernel⟩,
   ⟨wSet (wIn stJOINING) [(Fld.PAIR_STATE_STATE, pJOINING), (Fld.CTL_IMG_INFO_PAIR_IMAGE, 1), (Fld.CTL_VARIANT_PAIR_PORT, 1)], by decide +kernel,
     by decide +kernel, by decide +kernel, by decide +kernel⟩,
   ⟨wUp, .bar0, ⟨by decide +kernel, by decide +kernel, by decide +kernel, by decide +kernel⟩⟩⟩

theorem witness_HostPort :
    (∃ (s : State) (speed width : Nat), (s.io.hasHost = true) ∧ (s.io.linkUp = false) ∧ (s.io.trains speed width = true)) ∧
    (∃ (s : State), (s.io.linkUp = true)) ∧
    (∃ (s : State), (s.io.hasHost = true)) ∧
    (∃ (s : State), (s.io.d3hot = true)) ∧
    (∃ (s : State) (us : _), (s.io.hasHost = true) ∧ (timeoutOk us = true)) ∧
    (∃ (s : State) (us : _), (s.io.hasHost = true) ∧ (timeoutOk us = false)) ∧
    (∃ (s : State) (n : _), (s.io.hasHost = true) ∧ (maxReadOk n = true)) ∧
    (∃ (s : State) (n : _), (s.io.hasHost = true) ∧ (maxReadOk n = false)) ∧
    (∃ (s : State) (bar : _), (s.io.hasHost = true) ∧ (s.io.barSize bar ≠ 0)) ∧
    (∃ (s : State) (speed width : Nat), (s.io.linkUp = true) ∧ (s.io.trains speed width = true) ∧
      (¬ (s.getF Fld.HRG_LINK_SPEED = speed ∧ s.getF Fld.HRG_LINK_WIDTH = width))) :=
  ⟨⟨wUp.on (fun io => { io with linkUp := false }), 4, 1, by decide +kernel, by decide +kernel, by decide +kernel⟩,
   ⟨wUp, by decide +kernel⟩,
   ⟨State.reset, by decide +kernel⟩,
   ⟨wUp.on (fun io => { io with d3hot := true }), by decide +kernel⟩,
   ⟨wUp, 50, by decide +kernel, by decide +kernel⟩,
   ⟨wUp, 49, by decide +kernel, by decide +kernel⟩,
   ⟨wUp, 4096, by decide +kernel, by decide +kernel⟩,
   ⟨wUp, 4095, by decide +kernel, by decide +kernel⟩,
   ⟨wUp, 4, by decide +kernel, by decide +kernel⟩,
   ⟨wUp, 4, 1, by decide +kernel, by decide +kernel, by decide +kernel⟩⟩

theorem witness_HostTransactions :
    (∃ (s : State) (addr len : Nat) (bs : List Byte) (bad : Bool) (a : Bar2Access), (s.io.hasHost = true) ∧ (s.io.d3hot = false) ∧
      (s.io.operational = true) ∧ (a = { write := false, addr := addr, len := len, bytes := bs, bad := bad }) ∧ (s.io.beyond addr len = false)) ∧
    (∃ (s : State) (addr len : Nat) (bs : List Byte) (bad : Bool) (a : Bar2Access), (s.io.hasHost = true) ∧ (s.io.d3hot = false) ∧
      (s.io.operational = true) ∧ (a = { write := true, addr := addr, len := len, bytes := bs, bad := false }) ∧ (s.io.beyond addr bs.length = false)) ∧
    (∃ (s : State) (addr : Nat) (bs : List Byte), (s.io.hasHost = true) ∧ (s.io.d3hot = false) ∧ (s.io.operational = true) ∧
      (s.io.beyond addr bs.length = false)) ∧
    (∃ (s : State) (addr : Nat) (bs : List Byte), (s.io.hasHost = true) ∧ (s.io.d3hot = false) ∧ (s.io.operational = true) ∧
      (s.io.beyond addr bs.length = true)) ∧
    (∃ (s : State) (addr len : Nat), (s.io.hasHost = true) ∧ (s.io.d3hot = false) ∧ (s.io.operational = true) ∧ (s.io.beyond addr len = true)) ∧
    (∃ (s : State) (n v : Nat), (s.io.hasHost = true) ∧ (s.io.d3hot = false) ∧ (s.io.operational = true) ∧ (8 * n < 2 ^ 19) ∧ (v < 2 ^ 32) ∧
      ((s.io.ring n).state = 1) ∧ ((s.io.ring n).destroying = none) ∧ (v ≠ (s.io.ring n).sqTail) ∧
      (idxDiff v (s.io.ring n).sqHead ≤ 2 ^ (s.io.ring n).sqLog2)) ∧
    (∃ (s : State) (n v : Nat), (s.io.hasHost = true) ∧ (s.io.d3hot = false) ∧ (s.io.operational = true) ∧ (8 * n < 2 ^ 19) ∧ (v < 2 ^ 32) ∧
      ((s.io.ring n).state ≠ 0) ∧ ((s.io.ring n).destroying = none) ∧ (idxDiff v (s.io.ring n).cqHead ≤ idxDiff (s.io.ring n).cqTail (s.io.ring n).cqHead)) ∧
    (∃ (s : State) (n v : Nat), (s.io.hasHost = true) ∧ (s.io.d3hot = false) ∧ (s.io.operational = true) ∧ (8 * n < 2 ^ 19) ∧ (v < 2 ^ 32) ∧
      ((s.io.ring n).state = 0)) ∧
    (∃ (s : State) (n v : Nat) (w a b : _), (s.io.hasHost = true) ∧ (s.io.d3hot = false) ∧ (s.io.operational = true) ∧ (8 * n < 2 ^ 19) ∧ (v < 2 ^ 32) ∧
      (w < 2 ^ 32) ∧ (a = s.io.doorbellTail n v) ∧ (b = a.1.doorbellHead n w)) ∧
    (∃ (s : State), (s.io.hasHost = true) ∧ (s.io.d3hot = false)) ∧
    (∃ (s : State) (v : Nat), (s.io.hasHost = true) ∧ (v < 512)) ∧
    (∃ (s : State) (region cls : Nat) (host write shared : Bool) (p : OpEntry → Bool),
      (p = (fun e => e.cls == cls && e.host == host && e.write == write && e.shared == shared && !e.awaited && !s.writeHeld e)) ∧
      ((s.io.opTable region).used.any p = true)) :=
  ⟨⟨wUp, 0, 0, [], false, _, by decide +kernel, by decide +kernel, by decide +kernel, rfl, by decide +kernel⟩,
   ⟨wUp, 0, 0, [], false, _, by decide +kernel, by decide +kernel, by decide +kernel, rfl, by decide +kernel⟩,
   ⟨wUp, 0, [], by decide +kernel, by decide +kernel, by decide +kernel, by decide +kernel⟩,
   ⟨wUp, 2 ^ 48, [1], by decide +kernel, by decide +kernel, by decide +kernel, by decide +kernel⟩,
   ⟨wUp, 2 ^ 48, 1, by decide +kernel, by decide +kernel, by decide +kernel, by decide +kernel⟩,
   ⟨(wUp.on (·.setRing 65535 { state := 1, cls := 1, sqLog2 := 4, cqLog2 := 5, entry64 := true })), 65535, 16, by decide +kernel, by decide +kernel,
     by decide +kernel, by decide +kernel, by decide +kernel, by decide +kernel, by decide +kernel, by decide +kernel, by decide +kernel⟩,
   ⟨(wUp.on (·.setRing 65535 { state := 1, cls := 1, sqLog2 := 4, cqLog2 := 5, entry64 := true })), 65535, 0, by decide +kernel, by decide +kernel,
     by decide +kernel, by decide +kernel, by decide +kernel, by decide +kernel, by decide +kernel, by decide +kernel⟩,
   ⟨wUp, 65535, 2 ^ 32 - 1, by decide +kernel, by decide +kernel, by decide +kernel, by decide +kernel, by decide +kernel, by decide +kernel⟩,
   ⟨(wUp.on (·.setRing 65535 { state := 1, cls := 1, sqLog2 := 4, cqLog2 := 5, entry64 := true })), 65535, 16, 0, _, _, by decide +kernel,
     by decide +kernel, by decide +kernel, by decide +kernel, by decide +kernel, by decide +kernel, rfl, rfl⟩,
   ⟨wUp, by decide +kernel, by decide +kernel⟩,
   ⟨State.reset, 0, by decide +kernel, by decide +kernel⟩,
   ⟨wUp.on (fun io => { io with ops := [{}, {}, {}, { used := [{ cls := 1, shared := false, host := true, write := false, addr := 0, tags := 0, who := .slot 0 0, ctx := none }] }] }),
     3, 1, true, false, false, _, rfl, by decide +kernel⟩⟩

theorem witness_RingCommands :
    (∃ (s : State) (n i : Nat) (e : List Byte), (s.io.Ready n i 0x00 false true e)) ∧
    (∃ (s : State) (n i : Nat) (e : List Byte), ((s.io.ring n).entryAt i = some e) ∧ (opcodeClass (fieldAt e 0 1) = none)) ∧
    (∃ (s : State) (n i : Nat) (e : List Byte), (s.io.Ready n i 0x01 true (createFieldsOk e) e) ∧
      (bit (s.io.getReg Reg.HRG_RIGHTS).toNat (fieldAt e 10 1) = true) ∧ (s.io.createCase e = 0)) ∧
    (∃ (s : State) (n i : Nat) (e : List Byte), (s.io.Ready n i 0x01 true (createFieldsOk e) e) ∧
      (bit (s.io.getReg Reg.HRG_RIGHTS).toNat (fieldAt e 10 1) = true) ∧ (s.io.createCase e ≠ 0)) ∧
    (∃ (s : State) (n i : Nat) (e : List Byte), (s.io.Ready n i 0x02 false (tailZero e 10) e) ∧ (fieldAt e 8 2 = 0 ∨ (s.io.ring (fieldAt e 8 2)).state = 0)) ∧
    (∃ (s : State) (n i : Nat) (e : List Byte) (u : State), (s.io.Ready n i 0x02 false (tailZero e 10) e) ∧
      (u = s.on (fun io => ((io.popEntry n i).setRing (fieldAt e 8 2) { (io.popEntry n i).ring (fieldAt e 8 2) with destroying := some (n, i, e) }).finishDestroy (fieldAt e 8 2))) ∧
      (fieldAt e 8 2 ≠ 0) ∧ ((s.io.ring (fieldAt e 8 2)).state ≠ 0)) ∧
    (∃ (s : State) (n i : Nat) (e : List Byte), (s.io.Ready n i 0x03 false (tailZero e 10) e) ∧ (fieldAt e 8 2 = 0 ∨ (s.io.ring (fieldAt e 8 2)).state = 0)) ∧
    (∃ (s : State) (n i : Nat) (e : List Byte), (s.io.Ready n i 0x03 false (tailZero e 10) e) ∧
      ((s.io.ring (fieldAt e 8 2)).cls = 1 ∨ (s.io.ring (fieldAt e 8 2)).cls = 4) ∧ (s.abortQueued (fieldAt e 8 2) = s) ∧ (fieldAt e 8 2 ≠ 0) ∧
      ((s.io.ring (fieldAt e 8 2)).state ≠ 0)) ∧
    (∃ (s : State) (n i : Nat) (e : List Byte), (s.io.Ready n i 0x04 false (tailZero e 12) e) ∧ (fieldAt e 8 2 ≤ 511) ∧ (fieldAt e 10 2 ≤ 511)) ∧
    (∃ (s : State) (n i : Nat) (e : List Byte), (s.io.Ready n i 0x04 false (tailZero e 12) e) ∧ (511 < fieldAt e 8 2 ∨ 511 < fieldAt e 10 2)) ∧
    (∃ (s : State) (n count k : Nat), (s.io.operational = true) ∧ (s.getF Fld.HRG_OUTSTANDING_FETCHES < s.io.maxFetch) ∧
      (s.getF Fld.HRG_OUTSTANDING_NP_READS < s.io.maxNp) ∧ (s.io.nextRing s.host.served = some n) ∧ (k = min (max 1 count) (s.io.ring n).fetchLimit)) ∧
    (∃ (s : State) (n first count : Nat), ((s.io.ring n).fetches.find? (fun f => f.1 == first) = some (first, count)) ∧
      (s.io.held (.fetch n first count) = false) ∧ (s.io.badReads.contains (.fetch n first count) = false)) ∧
    (∃ (s : State) (n first count : Nat), ((s.io.ring n).fetches.find? (fun f => f.1 == first) = some (first, count)) ∧
      (s.io.held (.fetch n first count) = false)) ∧
    (∃ (s u : State) (x : _), (u = (s.aerUncorrectable 14).fire 71) ∧ (s.awaits x = true)) ∧
    (∃ (s u : State) (n : Nat) (f k : _), (u = (s.aerUncorrectable 14).fire 71) ∧
      ((u.io.ring n).fetches.find? (fun (f : Nat × Nat) => u.io.inFlight (.fetch n f.1 f.2)) = some (f, k))) ∧
    (∃ (s u : State), (u = (s.aerUncorrectable 14).fire 71)) ∧
    (∃ (s u : State) (n i : Nat) (b : _), (u = (s.aerUncorrectable 14).fire 71) ∧ (u.hostPlay n i = some b)) :=
  ⟨⟨wRing (wUp) 1 (wEntry 0 []), 1, 0, wEntry 0 [], ⟨by decide +kernel, by decide +kernel, by decide +kernel⟩⟩,
   ⟨wRing (wUp) 0 (wEntry 127 []), 1, 0, wEntry 127 [], by decide +kernel, by decide +kernel⟩,
   ⟨wRing (wUp.on (·.setReg Reg.HRG_RIGHTS 0x3F)) 0 (wEntry 1 [(8, 2, 5), (10, 1, 1), (11, 1, 3), (12, 1, 4), (13, 1, 4)]), 1, 0,
     wEntry 1 [(8, 2, 5), (10, 1, 1), (11, 1, 3), (12, 1, 4), (13, 1, 4)], ⟨by decide +kernel, by decide +kernel, by decide +kernel⟩, by decide +kernel,
     by decide +kernel⟩,
   ⟨wRing (wUp.on (·.setReg Reg.HRG_RIGHTS 0x3F)) 0 (wEntry 1 [(10, 1, 1)]), 1, 0, wEntry 1 [(10, 1, 1)],
     ⟨by decide +kernel, by decide +kernel, by decide +kernel⟩, by decide +kernel, by decide +kernel⟩,
   ⟨wRing (wUp) 0 (wEntry 2 []), 1, 0, wEntry 2 [], ⟨by decide +kernel, by decide +kernel, by decide +kernel⟩, .inl (by decide +kernel)⟩,
   ⟨wRing ((wUp.on (·.setRing 65535 { state := 1, cls := 1, sqLog2 := 4, cqLog2 := 5, entry64 := true }))) 0 (wEntry 2 [(8, 2, 65535)]), 1, 0,
     wEntry 2 [(8, 2, 65535)], _, ⟨by decide +kernel, by decide +kernel, by decide +kernel⟩, rfl, by decide +kernel, by decide +kernel⟩,
   ⟨wRing (wUp) 0 (wEntry 3 []), 1, 0, wEntry 3 [], ⟨by decide +kernel, by decide +kernel, by decide +kernel⟩, .inl (by decide +kernel)⟩,
   ⟨wRing ((wUp.on (·.setRing 65535 { state := 2, cls := 1, sqLog2 := 4, cqLog2 := 5, entry64 := true }))) 0 (wEntry 3 [(8, 2, 65535)]), 1, 0,
     wEntry 3 [(8, 2, 65535)], ⟨by decide +kernel, by decide +kernel, by decide +kernel⟩, .inl (by decide +kernel), by decide +kernel, by decide +kernel,
     by decide +kernel⟩,
   ⟨wRing (wUp) 0 (wEntry 4 [(8, 2, 511), (10, 2, 511)]), 1, 0, wEntry 4 [(8, 2, 511), (10, 2, 511)],
     ⟨by decide +kernel, by decide +kernel, by decide +kernel⟩, by decide +kernel, by decide +kernel⟩,
   ⟨wRing (wUp) 0 (wEntry 4 [(8, 2, 512)]), 1, 0, wEntry 4 [(8, 2, 512)], ⟨by decide +kernel, by decide +kernel, by decide +kernel⟩,
     .inl (by decide +kernel)⟩,
   ⟨(wUp.on (·.setRing 65535 { state := 1, cls := 1, sqLog2 := 4, cqLog2 := 5, entry64 := true, sqTail := 4 })), 65535, 16, _, by decide +kernel,
     by decide +kernel, by decide +kernel, by decide +kernel, rfl⟩,
   ⟨(wUp.on (·.setRing 65535 { state := 1, cls := 1, sqLog2 := 4, cqLog2 := 5, entry64 := true, sqTail := 4, fetches := [(0, 4)] })), 65535, 0, 4,
     by decide +kernel, by decide +kernel, by decide +kernel⟩,
   ⟨(wUp.on (·.setRing 65535 { state := 1, cls := 1, sqLog2 := 4, cqLog2 := 5, entry64 := true, sqTail := 4, fetches := [(0, 4)] })), 65535, 0, 4,
     by decide +kernel, by decide +kernel⟩,
   ⟨((wUp.on (·.setRing 65535 { state := 1, cls := 1, sqLog2 := 4, cqLog2 := 5, entry64 := true, sqTail := 4, fetches := [(0, 4)] }))).on (fun io => { io with ops := [{}, {}, {}, { used := [{ cls := 1, shared := false, host := true, write := false, addr := 0, tags := 0, who := .fetch 65535 0 4, ctx := none }] }] }),
     _, .ringFetch 65535, rfl, by decide +kernel⟩,
   ⟨((wUp.on (·.setRing 65535 { state := 1, cls := 1, sqLog2 := 4, cqLog2 := 5, entry64 := true, sqTail := 4, fetches := [(0, 4)] }))).on (fun io => { io with ops := [{}, {}, {}, { used := [{ cls := 1, shared := false, host := true, write := false, addr := 0, tags := 0, who := .fetch 65535 0 4, ctx := none }] }] }),
     _, 65535, 0, 4, rfl, by decide +kernel⟩,
   ⟨wUp, _, rfl⟩,
   ⟨(wUp).onAudio (fun m => { m with plays := [{ ring := 1, index := 0, entry := [], first := none, done := 0 }] }), _, 1, 0,
     { ring := 1, index := 0, entry := [], first := none, done := 0 }, rfl, by decide +kernel⟩⟩

theorem witness_TranslationAndDma :
    (∃ (s : State) (n i : Nat) (e : List Byte), (s.io.Ready n i 0x05 true (xltFieldsOk e) e) ∧ (fieldAt e 8 1 = 0) ∧ (s.io.xltCase e = 0)) ∧
    (∃ (s : State) (n i : Nat) (e : List Byte), (s.io.Ready n i 0x05 true (xltFieldsOk e) e) ∧ (fieldAt e 8 1 = 0) ∧ (s.io.xltCase e ≠ 0)) ∧
    (∃ (s : State) (n i : Nat) (e : List Byte), (s.io.Ready n i 0x05 true (xltFieldsOk e) e) ∧ (fieldAt e 8 1 = 1) ∧ (s.io.xltCase e = 0)) ∧
    (∃ (s : State) (n i : Nat) (e : List Byte), (s.io.Ready n i 0x05 true (xltFieldsOk e) e) ∧ (fieldAt e 8 1 = 1) ∧ (s.io.xltCase e ≠ 0)) ∧
    (∃ (s : State) (n i : Nat) (e : List Byte), (s.io.Ready n i 0x05 true (xltFieldsOk e) e) ∧ (fieldAt e 8 1 = 2) ∧ (s.io.xltCase e = 0)) ∧
    (∃ (s : State) (n i : Nat) (e : List Byte), (s.io.Ready n i 0x05 true (xltFieldsOk e) e) ∧ (fieldAt e 8 1 = 2) ∧ (s.io.xltCase e ≠ 0)) ∧
    (∃ (s : State) (n i : Nat) (e : List Byte), (s.io.Ready n i 0x05 true (xltFieldsOk e) e) ∧ (fieldAt e 8 1 = 3) ∧ (s.io.xltCase e = 0)) ∧
    (∃ (s : State) (n i : Nat) (e : List Byte), (s.io.Ready n i 0x05 true (xltFieldsOk e) e) ∧ (fieldAt e 8 1 = 3) ∧ (s.io.xltCase e ≠ 0)) ∧
    (∃ (s : State) (n i : Nat) (e : List Byte), (s.io.activeEntry n i 0x05 = some e) ∧ (s.io.drained (fieldAt e 9 1) = true)) ∧
    (∃ (s : State) (ctx page : Nat) (w v : Walk) (reads : List (Option Nat)) (io : Io) (r : WalkEnd) (f : Io → Io × List (Waiter × Nat × Nat)),
      (s.io.walks.find? (fun w => w.ctx == ctx && w.page == page && w.running) = some w) ∧ (Io.walkOn 5 w reads s.io = (io, v, some r)) ∧
      (f = (fun x => v.reqs.foldl (fun (acc : Io × List (Waiter × Nat × Nat)) q => ((acc.1.endRequest ctx (if io.ctxMode ctx ≠ 1 then WalkEnd.fault 6 else r) v.stale q).1, acc.2 ++ (acc.1.endRequest ctx (if io.ctxMode ctx ≠ 1 then WalkEnd.fault 6 else r) v.stale q).2.toList)) (x, [])))) ∧
    (∃ (s : State) (ctx page : Nat) (w v : Walk) (reads : List (Option Nat)) (io : Io) (r : WalkEnd) (f : Io → Io × List (Waiter × Nat × Nat)) (x : _),
      (s.io.walks.find? (fun w => w.ctx == ctx && w.page == page && w.running) = some w) ∧ (Io.walkOn 5 w reads s.io = (io, v, some r)) ∧
      (f = (fun x => v.reqs.foldl (fun (acc : Io × List (Waiter × Nat × Nat)) q => ((acc.1.endRequest ctx (if io.ctxMode ctx ≠ 1 then WalkEnd.fault 6 else r) v.stale q).1, acc.2 ++ (acc.1.endRequest ctx (if io.ctxMode ctx ≠ 1 then WalkEnd.fault 6 else r) v.stale q).2.toList)) (x, []))) ∧
      (x = Io.settle (Io.startWalks 16 { io with walks := eraseFirst (· == v) io.walks })) ∧ (io.ctxMode ctx = 1) ∧ (r = .fault 7)) ∧
    (∃ (s : State) (ctx page : Nat) (w v : Walk) (reads : List (Option Nat)) (io : Io) (r : WalkEnd) (f : Io → Io × List (Waiter × Nat × Nat)) (x bus log2 rd wr ns : _),
      (s.io.walks.find? (fun w => w.ctx == ctx && w.page == page && w.running) = some w) ∧ (Io.walkOn 5 w reads s.io = (io, v, some r)) ∧
      (f = (fun x => v.reqs.foldl (fun (acc : Io × List (Waiter × Nat × Nat)) q => ((acc.1.endRequest ctx (if io.ctxMode ctx ≠ 1 then WalkEnd.fault 6 else r) v.stale q).1, acc.2 ++ (acc.1.endRequest ctx (if io.ctxMode ctx ≠ 1 then WalkEnd.fault 6 else r) v.stale q).2.toList)) (x, []))) ∧
      (x = Io.settle (Io.startWalks 16 { io with walks := eraseFirst (· == v) io.walks })) ∧ (io.ctxMode ctx = 1) ∧ (r = .leaf bus log2 rd wr ns) ∧
      (v.stale = false)) ∧
    (∃ (s : State) (ctx page : Nat) (w v : Walk) (reads : List (Option Nat)) (io : Io) (r : WalkEnd) (f : Io → Io × List (Waiter × Nat × Nat)) (x : _),
      (s.io.walks.find? (fun w => w.ctx == ctx && w.page == page && w.running) = some w) ∧ (Io.walkOn 5 w reads s.io = (io, v, some r)) ∧
      (f = (fun x => v.reqs.foldl (fun (acc : Io × List (Waiter × Nat × Nat)) q => ((acc.1.endRequest ctx (if io.ctxMode ctx ≠ 1 then WalkEnd.fault 6 else r) v.stale q).1, acc.2 ++ (acc.1.endRequest ctx (if io.ctxMode ctx ≠ 1 then WalkEnd.fault 6 else r) v.stale q).2.toList)) (x, []))) ∧
      (x = Io.settle (Io.startWalks 16 { io with walks := eraseFirst (· == v) io.walks })) ∧ (io.ctxMode ctx ≠ 1)) ∧
    (∃ (s : State) (n i : Nat) (e : List Byte), (s.io.Ready n i 0x40 true (dmaFieldsOk e) e) ∧ ((s.io.ring n).copyBefore i = false) ∧
      ((bit (fieldAt e 32 1) 0 && s.io.beyond (fieldAt e 16 8) (fieldAt e 8 5) || bit (fieldAt e 32 1) 1 && s.io.beyond (fieldAt e 24 8) (fieldAt e 8 5)) = true)) ∧
    (∃ (s : State) (n i : Nat) (e : List Byte), (s.io.Ready n i 0x40 true (dmaFieldsOk e) e) ∧ ((s.io.ring n).copyBefore i = false) ∧
      (s.getF Fld.XLT_DMA_ACTIVE_COPIES < 16) ∧
      ((bit (fieldAt e 32 1) 0 && s.io.beyond (fieldAt e 16 8) (fieldAt e 8 5) || bit (fieldAt e 32 1) 1 && s.io.beyond (fieldAt e 24 8) (fieldAt e 8 5)) = false)) ∧
    (∃ (s : State) (n i : Nat) (e : List Byte) (m : HostData) (w : Nat) (io : Io) (f : Option (Nat × Nat × Bool)), (s.io.activeEntry n i 0x40 = some e) ∧
      (s.io.owed.any (fun o => o.ring == n && o.index == i) = false) ∧
      (Io.copyGranules { m with inFlight := min 16 w } (.entry n i) e none (fieldAt e 8 5 + 1) 0 (fieldAt e 8 5) s.io = (io, f)) ∧ (f = none)) ∧
    (∃ (s : State) (n i : Nat) (e : List Byte) (m : HostData) (w : Nat) (io : Io) (f : Option (Nat × Nat × Bool)) (k d onDst : _),
      (s.io.activeEntry n i 0x40 = some e) ∧ (s.io.owed.any (fun o => o.ring == n && o.index == i) = false) ∧
      (Io.copyGranules { m with inFlight := min 16 w } (.entry n i) e none (fieldAt e 8 5 + 1) 0 (fieldAt e 8 5) s.io = (io, f)) ∧ (f = some (k, d, onDst))) :=
  ⟨⟨wRing ((wUp.setF (Fld.XLT_CTX_MODE_MODE 15) 0)) 0 (wEntry 5 [(9, 1, 15), (10, 1, 1), (11, 1, 1), (16, 8, 4096)]), 1, 0,
     wEntry 5 [(9, 1, 15), (10, 1, 1), (11, 1, 1), (16, 8, 4096)], ⟨by decide +kernel, by decide +kernel, by decide +kernel⟩, by decide +kernel,
     by decide +kernel⟩,
   ⟨wRing ((wUp.setF (Fld.XLT_CTX_MODE_MODE 15) 0)) 0 (wEntry 5 [(9, 1, 15)]), 1, 0, wEntry 5 [(9, 1, 15)],
     ⟨by decide +kernel, by decide +kernel, by decide +kernel⟩, by decide +kernel, by decide +kernel⟩,
   ⟨wRing ((wUp.setF (Fld.XLT_CTX_MODE_MODE 15) 1)) 0 (wEntry 5 [(8, 1, 1), (9, 1, 15)]), 1, 0, wEntry 5 [(8, 1, 1), (9, 1, 15)],
     ⟨by decide +kernel, by decide +kernel, by decide +kernel⟩, by decide +kernel, by decide +kernel⟩,
   ⟨wRing ((wUp.setF (Fld.XLT_CTX_MODE_MODE 15) 0)) 0 (wEntry 5 [(8, 1, 1), (9, 1, 15)]), 1, 0, wEntry 5 [(8, 1, 1), (9, 1, 15)],
     ⟨by decide +kernel, by decide +kernel, by decide +kernel⟩, by decide +kernel, by decide +kernel⟩,
   ⟨wRing ((wUp.setF (Fld.XLT_CTX_MODE_MODE 15) 1)) 0 (wEntry 5 [(8, 1, 2), (9, 1, 15)]), 1, 0, wEntry 5 [(8, 1, 2), (9, 1, 15)],
     ⟨by decide +kernel, by decide +kernel, by decide +kernel⟩, by decide +kernel, by decide +kernel⟩,
   ⟨wRing ((wUp.setF (Fld.XLT_CTX_MODE_MODE 15) 0)) 0 (wEntry 5 [(8, 1, 2), (9, 1, 15)]), 1, 0, wEntry 5 [(8, 1, 2), (9, 1, 15)],
     ⟨by decide +kernel, by decide +kernel, by decide +kernel⟩, by decide +kernel, by decide +kernel⟩,
   ⟨wRing ((wUp.setF (Fld.XLT_CTX_MODE_MODE 15) 1)) 0 (wEntry 5 [(8, 1, 3), (9, 1, 15), (32, 8, 68719476736)]), 1, 0,
     wEntry 5 [(8, 1, 3), (9, 1, 15), (32, 8, 68719476736)], ⟨by decide +kernel, by decide +kernel, by decide +kernel⟩, by decide +kernel,
     by decide +kernel⟩,
   ⟨wRing ((wUp.setF (Fld.XLT_CTX_MODE_MODE 15) 1)) 0 (wEntry 5 [(8, 1, 3), (9, 1, 15), (32, 8, 68719476737)]), 1, 0,
     wEntry 5 [(8, 1, 3), (9, 1, 15), (32, 8, 68719476737)], ⟨by decide +kernel, by decide +kernel, by decide +kernel⟩, by decide +kernel,
     by decide +kernel⟩,
   ⟨wAct (wUp.setF (Fld.XLT_CTX_MODE_MODE 15) 1) 0 (wEntry 5 [(8, 1, 2), (9, 1, 15)]), 1, 0, wEntry 5 [(8, 1, 2), (9, 1, 15)], by decide +kernel,
     by decide +kernel⟩,
   ⟨(wUp.setF (Fld.XLT_CTX_MODE_MODE 15) 1).on (fun io => { io with walks := [{ ctx := 15, page := 1, running := true, stale := false, level := 0, table := 4096, reqs := [{ who := .fetch 65535 0 4, region := 0, cls := 1, iova := 4096, write := false, len := 64 }] }] }),
     15, 1,
     { ctx := 15, page := 1, running := true, stale := false, level := 0, table := 4096, reqs := [{ who := .fetch 65535 0 4, region := 0, cls := 1, iova := 4096, write := false, len := 64 }] },
     (Io.walkOn 5 ({ ctx := 15, page := 1, running := true, stale := false, level := 0, table := 4096, reqs := [{ who := .fetch 65535 0 4, region := 0, cls := 1, iova := 4096, write := false, len := 64 }] } : Walk) ([some 3] : List (Option Nat)) ((wUp.setF (Fld.XLT_CTX_MODE_MODE 15) 1).on (fun io => { io with walks := [{ ctx := 15, page := 1, running := true, stale := false, level := 0, table := 4096, reqs := [{ who := .fetch 65535 0 4, region := 0, cls := 1, iova := 4096, write := false, len := 64 }] }] }) : State).io).2.1,
     [some 3],
     (Io.walkOn 5 ({ ctx := 15, page := 1, running := true, stale := false, level := 0, table := 4096, reqs := [{ who := .fetch 65535 0 4, region := 0, cls := 1, iova := 4096, write := false, len := 64 }] } : Walk) ([some 3] : List (Option Nat)) ((wUp.setF (Fld.XLT_CTX_MODE_MODE 15) 1).on (fun io => { io with walks := [{ ctx := 15, page := 1, running := true, stale := false, level := 0, table := 4096, reqs := [{ who := .fetch 65535 0 4, region := 0, cls := 1, iova := 4096, write := false, len := 64 }] }] }) : State).io).1,
     ((Io.walkOn 5 ({ ctx := 15, page := 1, running := true, stale := false, level := 0, table := 4096, reqs := [{ who := .fetch 65535 0 4, region := 0, cls := 1, iova := 4096, write := false, len := 64 }] } : Walk) ([some 3] : List (Option Nat)) ((wUp.setF (Fld.XLT_CTX_MODE_MODE 15) 1).on (fun io => { io with walks := [{ ctx := 15, page := 1, running := true, stale := false, level := 0, table := 4096, reqs := [{ who := .fetch 65535 0 4, region := 0, cls := 1, iova := 4096, write := false, len := 64 }] }] }) : State).io).2.2).get (by decide +kernel),
     _, by decide +kernel, by decide +kernel, rfl⟩,
   ⟨(wUp.setF (Fld.XLT_CTX_MODE_MODE 15) 1).on (fun io => { io with walks := [{ ctx := 15, page := 1, running := true, stale := false, level := 0, table := 4096, reqs := [{ who := .fetch 65535 0 4, region := 0, cls := 1, iova := 4096, write := false, len := 64 }] }] }),
     15, 1,
     { ctx := 15, page := 1, running := true, stale := false, level := 0, table := 4096, reqs := [{ who := .fetch 65535 0 4, region := 0, cls := 1, iova := 4096, write := false, len := 64 }] },
     (Io.walkOn 5 ({ ctx := 15, page := 1, running := true, stale := false, level := 0, table := 4096, reqs := [{ who := .fetch 65535 0 4, region := 0, cls := 1, iova := 4096, write := false, len := 64 }] } : Walk) ([none] : List (Option Nat)) ((wUp.setF (Fld.XLT_CTX_MODE_MODE 15) 1).on (fun io => { io with walks := [{ ctx := 15, page := 1, running := true, stale := false, level := 0, table := 4096, reqs := [{ who := .fetch 65535 0 4, region := 0, cls := 1, iova := 4096, write := false, len := 64 }] }] }) : State).io).2.1,
     [none],
     (Io.walkOn 5 ({ ctx := 15, page := 1, running := true, stale := false, level := 0, table := 4096, reqs := [{ who := .fetch 65535 0 4, region := 0, cls := 1, iova := 4096, write := false, len := 64 }] } : Walk) ([none] : List (Option Nat)) ((wUp.setF (Fld.XLT_CTX_MODE_MODE 15) 1).on (fun io => { io with walks := [{ ctx := 15, page := 1, running := true, stale := false, level := 0, table := 4096, reqs := [{ who := .fetch 65535 0 4, region := 0, cls := 1, iova := 4096, write := false, len := 64 }] }] }) : State).io).1,
     ((Io.walkOn 5 ({ ctx := 15, page := 1, running := true, stale := false, level := 0, table := 4096, reqs := [{ who := .fetch 65535 0 4, region := 0, cls := 1, iova := 4096, write := false, len := 64 }] } : Walk) ([none] : List (Option Nat)) ((wUp.setF (Fld.XLT_CTX_MODE_MODE 15) 1).on (fun io => { io with walks := [{ ctx := 15, page := 1, running := true, stale := false, level := 0, table := 4096, reqs := [{ who := .fetch 65535 0 4, region := 0, cls := 1, iova := 4096, write := false, len := 64 }] }] }) : State).io).2.2).get (by decide +kernel),
     _, _, by decide +kernel, by decide +kernel, rfl, rfl, by decide +kernel, by decide +kernel⟩,
   ⟨(wUp.setF (Fld.XLT_CTX_MODE_MODE 15) 1).on (fun io => { io with walks := [{ ctx := 15, page := 1, running := true, stale := false, level := 0, table := 4096, reqs := [{ who := .fetch 65535 0 4, region := 0, cls := 1, iova := 4096, write := false, len := 64 }] }] }),
     15, 1,
     { ctx := 15, page := 1, running := true, stale := false, level := 0, table := 4096, reqs := [{ who := .fetch 65535 0 4, region := 0, cls := 1, iova := 4096, write := false, len := 64 }] },
     (Io.walkOn 5 ({ ctx := 15, page := 1, running := true, stale := false, level := 0, table := 4096, reqs := [{ who := .fetch 65535 0 4, region := 0, cls := 1, iova := 4096, write := false, len := 64 }] } : Walk) ([some 15] : List (Option Nat)) ((wUp.setF (Fld.XLT_CTX_MODE_MODE 15) 1).on (fun io => { io with walks := [{ ctx := 15, page := 1, running := true, stale := false, level := 0, table := 4096, reqs := [{ who := .fetch 65535 0 4, region := 0, cls := 1, iova := 4096, write := false, len := 64 }] }] }) : State).io).2.1,
     [some 15],
     (Io.walkOn 5 ({ ctx := 15, page := 1, running := true, stale := false, level := 0, table := 4096, reqs := [{ who := .fetch 65535 0 4, region := 0, cls := 1, iova := 4096, write := false, len := 64 }] } : Walk) ([some 15] : List (Option Nat)) ((wUp.setF (Fld.XLT_CTX_MODE_MODE 15) 1).on (fun io => { io with walks := [{ ctx := 15, page := 1, running := true, stale := false, level := 0, table := 4096, reqs := [{ who := .fetch 65535 0 4, region := 0, cls := 1, iova := 4096, write := false, len := 64 }] }] }) : State).io).1,
     ((Io.walkOn 5 ({ ctx := 15, page := 1, running := true, stale := false, level := 0, table := 4096, reqs := [{ who := .fetch 65535 0 4, region := 0, cls := 1, iova := 4096, write := false, len := 64 }] } : Walk) ([some 15] : List (Option Nat)) ((wUp.setF (Fld.XLT_CTX_MODE_MODE 15) 1).on (fun io => { io with walks := [{ ctx := 15, page := 1, running := true, stale := false, level := 0, table := 4096, reqs := [{ who := .fetch 65535 0 4, region := 0, cls := 1, iova := 4096, write := false, len := 64 }] }] }) : State).io).2.2).get (by decide +kernel),
     _, _, 0, 12, true, true, false, by decide +kernel, by decide +kernel, rfl, rfl, by decide +kernel, by decide +kernel, by decide +kernel⟩,
   ⟨(wUp.setF (Fld.XLT_CTX_MODE_MODE 15) 0).on (fun io => { io with walks := [{ ctx := 15, page := 1, running := true, stale := false, level := 0, table := 4096, reqs := [{ who := .fetch 65535 0 4, region := 0, cls := 1, iova := 4096, write := false, len := 64 }] }] }),
     15, 1,
     { ctx := 15, page := 1, running := true, stale := false, level := 0, table := 4096, reqs := [{ who := .fetch 65535 0 4, region := 0, cls := 1, iova := 4096, write := false, len := 64 }] },
     (Io.walkOn 5 ({ ctx := 15, page := 1, running := true, stale := false, level := 0, table := 4096, reqs := [{ who := .fetch 65535 0 4, region := 0, cls := 1, iova := 4096, write := false, len := 64 }] } : Walk) ([some 3] : List (Option Nat)) ((wUp.setF (Fld.XLT_CTX_MODE_MODE 15) 0).on (fun io => { io with walks := [{ ctx := 15, page := 1, running := true, stale := false, level := 0, table := 4096, reqs := [{ who := .fetch 65535 0 4, region := 0, cls := 1, iova := 4096, write := false, len := 64 }] }] }) : State).io).2.1,
     [some 3],
     (Io.walkOn 5 ({ ctx := 15, page := 1, running := true, stale := false, level := 0, table := 4096, reqs := [{ who := .fetch 65535 0 4, region := 0, cls := 1, iova := 4096, write := false, len := 64 }] } : Walk) ([some 3] : List (Option Nat)) ((wUp.setF (Fld.XLT_CTX_MODE_MODE 15) 0).on (fun io => { io with walks := [{ ctx := 15, page := 1, running := true, stale := false, level := 0, table := 4096, reqs := [{ who := .fetch 65535 0 4, region := 0, cls := 1, iova := 4096, write := false, len := 64 }] }] }) : State).io).1,
     ((Io.walkOn 5 ({ ctx := 15, page := 1, running := true, stale := false, level := 0, table := 4096, reqs := [{ who := .fetch 65535 0 4, region := 0, cls := 1, iova := 4096, write := false, len := 64 }] } : Walk) ([some 3] : List (Option Nat)) ((wUp.setF (Fld.XLT_CTX_MODE_MODE 15) 0).on (fun io => { io with walks := [{ ctx := 15, page := 1, running := true, stale := false, level := 0, table := 4096, reqs := [{ who := .fetch 65535 0 4, region := 0, cls := 1, iova := 4096, write := false, len := 64 }] }] }) : State).io).2.2).get (by decide +kernel),
     _, _, by decide +kernel, by decide +kernel, rfl, rfl, by decide +kernel⟩,
   ⟨wRing (wUp) 4 (wEntry 64 [(8, 5, 1), (16, 8, 281474976710656), (32, 1, 1)]), 1, 0, wEntry 64 [(8, 5, 1), (16, 8, 281474976710656), (32, 1, 1)],
     ⟨by decide +kernel, by decide +kernel, by decide +kernel⟩, by decide +kernel, by decide +kernel⟩,
   ⟨wRing (wUp) 4 (wEntry 64 [(8, 5, 1), (16, 8, 1099511627776), (32, 1, 0)]), 1, 0, wEntry 64 [(8, 5, 1), (16, 8, 1099511627776), (32, 1, 0)],
     ⟨by decide +kernel, by decide +kernel, by decide +kernel⟩, by decide +kernel, by decide +kernel, by decide +kernel⟩,
   ⟨wAct (wUp.setF (Fld.XLT_CTX_MODE_MODE 0) 2) 4 (wEntry 64 [(8, 5, 1), (24, 8, 64)]), 1, 0, wEntry 64 [(8, 5, 1), (24, 8, 64)],
     { data := [(0, zeros 4096)] }, 0,
     (Io.copyGranules { ({ data := [(0, zeros 4096)] } : HostData) with inFlight := min 16 (0 : Nat) } (.entry (1 : Nat) (0 : Nat)) (wEntry 64 [(8, 5, 1), (24, 8, 64)] : List Byte) none (fieldAt (wEntry 64 [(8, 5, 1), (24, 8, 64)] : List Byte) 8 5 + 1) 0 (fieldAt (wEntry 64 [(8, 5, 1), (24, 8, 64)] : List Byte) 8 5) (wAct (wUp.setF (Fld.XLT_CTX_MODE_MODE 0) 2) 4 (wEntry 64 [(8, 5, 1), (24, 8, 64)]) : State).io).1,
     (Io.copyGranules { ({ data := [(0, zeros 4096)] } : HostData) with inFlight := min 16 (0 : Nat) } (.entry (1 : Nat) (0 : Nat)) (wEntry 64 [(8, 5, 1), (24, 8, 64)] : List Byte) none (fieldAt (wEntry 64 [(8, 5, 1), (24, 8, 64)] : List Byte) 8 5 + 1) 0 (fieldAt (wEntry 64 [(8, 5, 1), (24, 8, 64)] : List Byte) 8 5) (wAct (wUp.setF (Fld.XLT_CTX_MODE_MODE 0) 2) 4 (wEntry 64 [(8, 5, 1), (24, 8, 64)]) : State).io).2,
     by decide +kernel, by decide +kernel, by decide +kernel, by decide +kernel⟩,
   ⟨wAct (wUp) 4 (wEntry 64 [(8, 5, 1)]), 1, 0, wEntry 64 [(8, 5, 1)], { data := [(0, zeros 4096)] }, 0,
     (Io.copyGranules { ({ data := [(0, zeros 4096)] } : HostData) with inFlight := min 16 (0 : Nat) } (.entry (1 : Nat) (0 : Nat)) (wEntry 64 [(8, 5, 1)] : List Byte) none (fieldAt (wEntry 64 [(8, 5, 1)] : List Byte) 8 5 + 1) 0 (fieldAt (wEntry 64 [(8, 5, 1)] : List Byte) 8 5) (wAct (wUp) 4 (wEntry 64 [(8, 5, 1)]) : State).io).1,
     (Io.copyGranules { ({ data := [(0, zeros 4096)] } : HostData) with inFlight := min 16 (0 : Nat) } (.entry (1 : Nat) (0 : Nat)) (wEntry 64 [(8, 5, 1)] : List Byte) none (fieldAt (wEntry 64 [(8, 5, 1)] : List Byte) 8 5 + 1) 0 (fieldAt (wEntry 64 [(8, 5, 1)] : List Byte) 8 5) (wAct (wUp) 4 (wEntry 64 [(8, 5, 1)]) : State).io).2,
     ((((Io.copyGranules { ({ data := [(0, zeros 4096)] } : HostData) with inFlight := min 16 (0 : Nat) } (.entry (1 : Nat) (0 : Nat)) (wEntry 64 [(8, 5, 1)] : List Byte) none (fieldAt (wEntry 64 [(8, 5, 1)] : List Byte) 8 5 + 1) 0 (fieldAt (wEntry 64 [(8, 5, 1)] : List Byte) 8 5) (wAct (wUp) 4 (wEntry 64 [(8, 5, 1)]) : State).io).2 : Option (Nat × Nat × Bool))).get (by decide +kernel)).1,
     ((((Io.copyGranules { ({ data := [(0, zeros 4096)] } : HostData) with inFlight := min 16 (0 : Nat) } (.entry (1 : Nat) (0 : Nat)) (wEntry 64 [(8, 5, 1)] : List Byte) none (fieldAt (wEntry 64 [(8, 5, 1)] : List Byte) 8 5 + 1) 0 (fieldAt (wEntry 64 [(8, 5, 1)] : List Byte) 8 5) (wAct (wUp) 4 (wEntry 64 [(8, 5, 1)]) : State).io).2 : Option (Nat × Nat × Bool))).get (by decide +kernel)).2.1,
     ((((Io.copyGranules { ({ data := [(0, zeros 4096)] } : HostData) with inFlight := min 16 (0 : Nat) } (.entry (1 : Nat) (0 : Nat)) (wEntry 64 [(8, 5, 1)] : List Byte) none (fieldAt (wEntry 64 [(8, 5, 1)] : List Byte) 8 5 + 1) 0 (fieldAt (wEntry 64 [(8, 5, 1)] : List Byte) 8 5) (wAct (wUp) 4 (wEntry 64 [(8, 5, 1)]) : State).io).2 : Option (Nat × Nat × Bool))).get (by decide +kernel)).2.2,
     by decide +kernel, by decide +kernel, by decide +kernel, by decide +kernel⟩⟩

theorem witness_RegisterAccesses :
    (∃ (s : State) (path : RegPath) (off size : Nat) (enables : Bool), (path = .bar0) ∧ (size ≠ 4 ∨ off % 4 ≠ 0 ∨ enables = false) ∧
      (s.pathOpen path = true)) ∧
    (∃ (path : RegPath) (off size : Nat) (enables : Bool), (path = .bar0 → size = 4 ∧ enables = true) ∧ (off % 4 = 0) ∧ (off < 0x800000)) ∧
    (∃ (s : State) (a : Nat) (r : RegRow) (i : Nat), (a < 0x380000) ∧ (regRow a = some (r, i)) ∧ (s.io.regPresent a = true) ∧ (r.rwl ≠ 0) ∧
      (s.boot.locked = true)) ∧
    (∃ (s : State) (a : Nat) (r : RegRow) (i : Nat), (a < 0x380000) ∧ (regRow a = some (r, i)) ∧ (s.io.regPresent a = true) ∧
      (r.rwl = 0 ∨ s.boot.locked = false)) ∧
    (∃ (s u : State) (path : RegPath) (off v : Nat), (off % 4 = 0) ∧ (off < 0x800000) ∧ (s.pathRead path off = (u, some v)) ∧ (path = .bar0)) ∧
    (∃ (s u : State) (path : RegPath) (off v : Nat), (off % 4 = 0) ∧ (off < 0x800000) ∧ (s.pathRead path off = (u, some v)) ∧ (path ≠ .bar0)) ∧
    (∃ (s u : State) (port : Nat) (packet pl : List Byte) (tag r : _), (s.pathOpen .remote = true) ∧ (s.kept port 0x04 packet = (u, some pl)) ∧
      (u.link.replies.find? (·.1 == fieldAt pl 0 2) = some (tag, r))) ∧
    (∃ (s u : State) (port : Nat) (packet pl : List Byte) (v st x r : _), (s.pathOpen .remote = true) ∧ (s.kept port 0x04 packet = (u, some pl)) ∧
      (u.link.replies.find? (·.1 == fieldAt pl 0 2) = none) ∧ (u.remoteAccess (fieldAt pl 2 1) (fieldAt pl 4 4) (fieldAt pl 8 4) = (v, st, x)) ∧
      (r = leBytes 2 (fieldAt pl 0 2) ++ leBytes 1 st ++ zeros 1 ++ sub pl 4 4 ++ leBytes 4 x)) ∧
    (∃ (s : State) (port : Nat) (path : RegPath), (port < 16) ∧ (s.Accepts path (Reg.LNK_TEST (port / 4) (port % 4)))) ∧
    (∃ (code : Nat), (code % 16 ≠ 0) ∧ (code % 16 ≠ 1) ∧ (code % 16 ≠ 8)) ∧
    (∃ (s u : State) (dr off data : Nat), (u = { s with jtag := { s.jtag with ir := 8, extest := false } }) ∧ (off = 4 * bits dr 1 21) ∧
      (data = bits dr 22 32)) ∧
    (∃ (s u : State) (dr off data : Nat), (u = { s with jtag := { s.jtag with ir := 8, extest := false } }) ∧ (off = 4 * bits dr 1 21) ∧
      (data = bits dr 22 32) ∧ (0x400000 ≤ off) ∧ (bit dr 0 = true)) ∧
    (∃ (s u : State) (dr off data : Nat), (u = { s with jtag := { s.jtag with ir := 8, extest := false } }) ∧ (off = 4 * bits dr 1 21) ∧
      (data = bits dr 22 32) ∧ (off < 0x400000) ∧ (bit dr 0 = true)) ∧
    (∃ (s u : State) (dr off data : Nat) (v x : _), (u = { s with jtag := { s.jtag with ir := 8, extest := false } }) ∧ (off = 4 * bits dr 1 21) ∧
      (data = bits dr 22 32) ∧ (bit dr 0 = false) ∧ (u.pathRead .debug off = (v, some x))) :=
  ⟨⟨wUp, _, 0, 0, false, rfl, by decide +kernel, by decide +kernel⟩,
   ⟨.bar0, 0x7FFFFC, 4, true, fun _ => ⟨rfl, rfl⟩, by decide +kernel, by decide +kernel⟩,
   ⟨wUp.onBoot (fun b => { b with locked := true }), Reg.TCK_GLK_CFG, ((regRow (Reg.TCK_GLK_CFG : Nat)).get (by decide +kernel)).1,
     ((regRow (Reg.TCK_GLK_CFG : Nat)).get (by decide +kernel)).2, by decide +kernel, by decide +kernel, by decide +kernel, by decide +kernel,
     by decide +kernel⟩,
   ⟨State.reset, 0, ((regRow (0 : Nat)).get (by decide +kernel)).1, ((regRow (0 : Nat)).get (by decide +kernel)).2, by decide +kernel, by decide +kernel,
     by decide +kernel, by decide +kernel⟩,
   ⟨wUp, ((wUp : State).pathRead (.bar0 : RegPath) (Reg.TCK_COUNT_LO : Nat)).1, .bar0, Reg.TCK_COUNT_LO,
     (((wUp : State).pathRead (.bar0 : RegPath) (Reg.TCK_COUNT_LO : Nat)).2).get (by decide +kernel), by decide +kernel, by decide +kernel,
     by decide +kernel, by decide +kernel⟩,
   ⟨wUp, ((wUp : State).pathRead (.debug : RegPath) (0 : Nat)).1, .debug, 0,
     (((wUp : State).pathRead (.debug : RegPath) (0 : Nat)).2).get (by decide +kernel), by decide +kernel, by decide +kernel, by decide +kernel,
     by decide +kernel⟩,
   ⟨{ wNode stOPERATIONAL with link := { (wNode stOPERATIONAL).link with replies := [(7, zeros 20)] } },
     (({ wNode stOPERATIONAL with link := { (wNode stOPERATIONAL).link with replies := [(7, zeros 20)] } } : State).kept (0 : Nat) 0x04 (wPkt 4 (leBytes 2 7 ++ leBytes 1 0 ++ zeros 1 ++ leBytes 4 0 ++ zeros 4) : List Byte)).1,
     0, wPkt 4 (leBytes 2 7 ++ leBytes 1 0 ++ zeros 1 ++ leBytes 4 0 ++ zeros 4),
     ((({ wNode stOPERATIONAL with link := { (wNode stOPERATIONAL).link with replies := [(7, zeros 20)] } } : State).kept (0 : Nat) 0x04 (wPkt 4 (leBytes 2 7 ++ leBytes 1 0 ++ zeros 1 ++ leBytes 4 0 ++ zeros 4) : List Byte)).2).get (by decide +kernel),
     ((((({ wNode stOPERATIONAL with link := { (wNode stOPERATIONAL).link with replies := [(7, zeros 20)] } } : State).kept (0 : Nat) 0x04 (wPkt 4 (leBytes 2 7 ++ leBytes 1 0 ++ zeros 1 ++ leBytes 4 0 ++ zeros 4) : List Byte)).1 : State).link.replies.find? (·.1 == fieldAt (((({ wNode stOPERATIONAL with link := { (wNode stOPERATIONAL).link with replies := [(7, zeros 20)] } } : State).kept (0 : Nat) 0x04 (wPkt 4 (leBytes 2 7 ++ leBytes 1 0 ++ zeros 1 ++ leBytes 4 0 ++ zeros 4) : List Byte)).2).get (by decide +kernel) : List Byte) 0 2)).get (by decide +kernel)).1,
     ((((({ wNode stOPERATIONAL with link := { (wNode stOPERATIONAL).link with replies := [(7, zeros 20)] } } : State).kept (0 : Nat) 0x04 (wPkt 4 (leBytes 2 7 ++ leBytes 1 0 ++ zeros 1 ++ leBytes 4 0 ++ zeros 4) : List Byte)).1 : State).link.replies.find? (·.1 == fieldAt (((({ wNode stOPERATIONAL with link := { (wNode stOPERATIONAL).link with replies := [(7, zeros 20)] } } : State).kept (0 : Nat) 0x04 (wPkt 4 (leBytes 2 7 ++ leBytes 1 0 ++ zeros 1 ++ leBytes 4 0 ++ zeros 4) : List Byte)).2).get (by decide +kernel) : List Byte) 0 2)).get (by decide +kernel)).2,
     by decide +kernel, by decide +kernel, by decide +kernel⟩,
   ⟨wNode stOPERATIONAL,
     ((wNode stOPERATIONAL : State).kept (0 : Nat) 0x04 (wPkt 4 (leBytes 2 7 ++ leBytes 1 0 ++ zeros 1 ++ leBytes 4 Reg.TCK_COUNT_LO ++ zeros 4) : List Byte)).1,
     0, wPkt 4 (leBytes 2 7 ++ leBytes 1 0 ++ zeros 1 ++ leBytes 4 Reg.TCK_COUNT_LO ++ zeros 4),
     (((wNode stOPERATIONAL : State).kept (0 : Nat) 0x04 (wPkt 4 (leBytes 2 7 ++ leBytes 1 0 ++ zeros 1 ++ leBytes 4 Reg.TCK_COUNT_LO ++ zeros 4) : List Byte)).2).get (by decide +kernel),
     ((((wNode stOPERATIONAL : State).kept (0 : Nat) 0x04 (wPkt 4 (leBytes 2 7 ++ leBytes 1 0 ++ zeros 1 ++ leBytes 4 Reg.TCK_COUNT_LO ++ zeros 4) : List Byte)).1 : State).remoteAccess (fieldAt ((((wNode stOPERATIONAL : State).kept (0 : Nat) 0x04 (wPkt 4 (leBytes 2 7 ++ leBytes 1 0 ++ zeros 1 ++ leBytes 4 Reg.TCK_COUNT_LO ++ zeros 4) : List Byte)).2).get (by decide +kernel) : List Byte) 2 1) (fieldAt ((((wNode stOPERATIONAL : State).kept (0 : Nat) 0x04 (wPkt 4 (leBytes 2 7 ++ leBytes 1 0 ++ zeros 1 ++ leBytes 4 Reg.TCK_COUNT_LO ++ zeros 4) : List Byte)).2).get (by decide +kernel) : List Byte) 4 4) (fieldAt ((((wNode stOPERATIONAL : State).kept (0 : Nat) 0x04 (wPkt 4 (leBytes 2 7 ++ leBytes 1 0 ++ zeros 1 ++ leBytes 4 Reg.TCK_COUNT_LO ++ zeros 4) : List Byte)).2).get (by decide +kernel) : List Byte) 8 4)).1,
     ((((wNode stOPERATIONAL : State).kept (0 : Nat) 0x04 (wPkt 4 (leBytes 2 7 ++ leBytes 1 0 ++ zeros 1 ++ leBytes 4 Reg.TCK_COUNT_LO ++ zeros 4) : List Byte)).1 : State).remoteAccess (fieldAt ((((wNode stOPERATIONAL : State).kept (0 : Nat) 0x04 (wPkt 4 (leBytes 2 7 ++ leBytes 1 0 ++ zeros 1 ++ leBytes 4 Reg.TCK_COUNT_LO ++ zeros 4) : List Byte)).2).get (by decide +kernel) : List Byte) 2 1) (fieldAt ((((wNode stOPERATIONAL : State).kept (0 : Nat) 0x04 (wPkt 4 (leBytes 2 7 ++ leBytes 1 0 ++ zeros 1 ++ leBytes 4 Reg.TCK_COUNT_LO ++ zeros 4) : List Byte)).2).get (by decide +kernel) : List Byte) 4 4) (fieldAt ((((wNode stOPERATIONAL : State).kept (0 : Nat) 0x04 (wPkt 4 (leBytes 2 7 ++ leBytes 1 0 ++ zeros 1 ++ leBytes 4 Reg.TCK_COUNT_LO ++ zeros 4) : List Byte)).2).get (by decide +kernel) : List Byte) 8 4)).2.1,
     ((((wNode stOPERATIONAL : State).kept (0 : Nat) 0x04 (wPkt 4 (leBytes 2 7 ++ leBytes 1 0 ++ zeros 1 ++ leBytes 4 Reg.TCK_COUNT_LO ++ zeros 4) : List Byte)).1 : State).remoteAccess (fieldAt ((((wNode stOPERATIONAL : State).kept (0 : Nat) 0x04 (wPkt 4 (leBytes 2 7 ++ leBytes 1 0 ++ zeros 1 ++ leBytes 4 Reg.TCK_COUNT_LO ++ zeros 4) : List Byte)).2).get (by decide +kernel) : List Byte) 2 1) (fieldAt ((((wNode stOPERATIONAL : State).kept (0 : Nat) 0x04 (wPkt 4 (leBytes 2 7 ++ leBytes 1 0 ++ zeros 1 ++ leBytes 4 Reg.TCK_COUNT_LO ++ zeros 4) : List Byte)).2).get (by decide +kernel) : List Byte) 4 4) (fieldAt ((((wNode stOPERATIONAL : State).kept (0 : Nat) 0x04 (wPkt 4 (leBytes 2 7 ++ leBytes 1 0 ++ zeros 1 ++ leBytes 4 Reg.TCK_COUNT_LO ++ zeros 4) : List Byte)).2).get (by decide +kernel) : List Byte) 8 4)).2.2,
     _, by decide +kernel, by decide +kernel, by decide +kernel, by decide +kernel, rfl⟩,
   ⟨wUp, 0, .bar0, by decide +kernel, ⟨by decide +kernel, by decide +kernel, by decide +kernel, by decide +kernel⟩⟩,
   ⟨15, by decide +kernel, by decide +kernel, by decide +kernel⟩,
   ⟨State.reset, _, 0, _, _, rfl, rfl, rfl⟩,
   ⟨wUp, _, 2 ^ 21 + 1, _, _, rfl, rfl, rfl, by decide +kernel, by decide +kernel⟩,
   ⟨wUp, _, 2 ^ 21 - 1, _, _, rfl, rfl, rfl, by decide +kernel, by decide +kernel⟩,
   ⟨wUp, _, 0, _, _,
     (({ (wUp : State) with jtag := { (wUp : State).jtag with ir := 8, extest := false } } : State).pathRead .debug (4 * bits (0 : Nat) 1 21 : Nat)).1,
     ((({ (wUp : State) with jtag := { (wUp : State).jtag with ir := 8, extest := false } } : State).pathRead .debug (4 * bits (0 : Nat) 1 21 : Nat)).2).get (by decide +kernel),
     rfl, rfl, rfl, by decide +kernel, by decide +kernel⟩⟩

theorem witness_EventsAndCounters :
    (∃ (s : State) (path : RegPath) (i : Nat), (i < 16) ∧ (s.pathOpen path = true) ∧ (s.io.boot ≠ stUMBER) ∧ (path = .bar0) ∧ (s.io.operational = false)) ∧
    (∃ (s : State) (path : RegPath) (i : Nat), (i < 16) ∧ (s.pathOpen path = true) ∧ (s.io.boot ≠ stUMBER) ∧ (path = .bar0 → s.io.operational = true)) ∧
    (∃ (i v b : Nat), (i < 16) ∧ (b < 32) ∧ (bit v b = true) ∧ (eventDefined (32 * i + b) = true)) ∧
    (∃ (i v b : Nat), (i < 16) ∧ (b < 32) ∧ (bit v b = false)) ∧
    (∃ (s : State) (path : RegPath) (i : Nat), (i < 16) ∧ (s.Accepts path (Reg.CTL_EVT_MASK i))) ∧
    (∃ (s : State) (path : RegPath), (s.Accepts path Reg.CTL_CNT_GLOBAL)) ∧
    (∃ (s : State) (path : RegPath) (c : Nat), (c < 64) ∧ (s.io.isTile = true → c < 16) ∧ (s.Accepts path (Reg.CTL_CNT_CFG c))) ∧
    (∃ (s : State) (c : Nat), (s.countsCycles c = true)) ∧
    (∃ (a : Nat), (lowHalf a = true)) ∧
    (∃ (s : Io) (a : Nat) (w : _), (lowHalf a = false) ∧ (s.latch.find? (·.1 == a) = some (a, w))) :=
  ⟨⟨wIn stLOADING, _, 0, by decide +kernel, by decide +kernel, by decide +kernel, rfl, by decide +kernel⟩,
   ⟨wUp, .bar0, 15, by decide +kernel, by decide +kernel, by decide +kernel, fun _ => by decide +kernel⟩,
   ⟨0, 2, 1, by decide +kernel, by decide +kernel, by decide +kernel, by decide +kernel⟩,
   ⟨0, 0, 0, by decide +kernel, by decide +kernel, by decide +kernel⟩,
   ⟨wUp, .bar0, 0, by decide +kernel, ⟨by decide +kernel, by decide +kernel, by decide +kernel, by decide +kernel⟩⟩,
   ⟨wUp, .bar0, ⟨by decide +kernel, by decide +kernel, by decide +kernel, by decide +kernel⟩⟩,
   ⟨wUp, .bar0, 0, by decide +kernel, by decide +kernel, ⟨by decide +kernel, by decide +kernel, by decide +kernel, by decide +kernel⟩⟩,
   ⟨wUp.setF (Fld.CTL_CNT_CFG_ENABLE 63) 1 |>.setF (Fld.CTL_CNT_CFG_MODE 63) 1, 63, by decide +kernel⟩,
   ⟨Reg.TCK_COUNT_LO, by decide +kernel⟩,
   ⟨{ wUp.io with latch := [(Reg.TCK_COUNT_HI, 5)] }, Reg.TCK_COUNT_HI, 5, by decide +kernel, by decide +kernel⟩⟩

theorem witness_ContainmentCommands :
    (∃ (s u : State) (region block cell chain position row : Nat) (check : Bool), (s.running = true) ∧ (s.io.regionActive region = true) ∧ (block < 8) ∧
      (s.video.fenced.contains region = false) ∧ (s.blockStopped region block = false) ∧
      (u = (s.bumpF Fld.CTL_ERR_CELL_RETRY).logError 0 region block cell (if check then 3 else 1) row (position % 64 + 64 * (chain % 16)))) ∧
    (∃ (s u v : State) (region block cell chain position row : Nat) (check : Bool), (s.running = true) ∧ (s.io.regionActive region = true) ∧ (block < 8) ∧
      (s.video.fenced.contains region = false) ∧ (s.blockStopped region block = false) ∧
      (u = (s.bumpF Fld.CTL_ERR_CELL_RETRY).logError 0 region block cell (if check then 3 else 1) row (position % 64 + 64 * (chain % 16))) ∧
      (v = ((if block = 2 then u.bumpF (Fld.ENC_RETRIES region) else u).bumpF Fld.CTL_ERR_CELL_SUBST).substitute { region := region, block := block, cell := cell, chain := chain, position := position, row := row, tick := ((if block = 2 then u.bumpF (Fld.ENC_RETRIES region) else u).bumpF Fld.CTL_ERR_CELL_SUBST).io.tick, failed := true })) ∧
    (∃ (s u v : State) (region block cell chain position row : Nat), (s.running = true) ∧ (s.io.regionActive region = true) ∧ (block < 8) ∧
      (s.video.fenced.contains region = false) ∧ (s.blockStopped region block = false) ∧
      (u = (s.bumpF Fld.CTL_ERR_CELL_RETRY).logError 0 region block cell 2 row (position % 64 + 64 * (chain % 16))) ∧
      (v = (if block = 2 then u.bumpF (Fld.ENC_RETRIES region) else u))) ∧
    (∃ (s : State) (region block : Nat), (s.running = true) ∧ (s.io.regionActive region = true) ∧ (block < 9) ∧
      (block = 8 ∨ s.video.returned.any (fun x => x.1 == region && x.2.1 == block && decide (s.io.tick < x.2.2 + 64)) = true)) ∧
    (∃ (s : State) (region block : Nat), (s.running = true) ∧ (s.io.regionActive region = true) ∧ (block < 9) ∧ (block ≠ 8) ∧
      (s.video.returned.any (fun x => x.1 == region && x.2.1 == block && decide (s.io.tick < x.2.2 + 64)) = false) ∧
      (s.blockStopped region block = false) ∧ (s.video.fenced.contains region = false)) ∧
    (∃ (s : State) (region block x : Nat), (s.video.stopped.find? (fun x => x.1 == region && x.2.1 == block) = some (region, block, x)) ∧ (x ≤ s.io.tick)) ∧
    (∃ (s : State) (region block x : Nat), (s.video.stopped.find? (fun x => x.1 == region && x.2.1 == block) = some (region, block, x)) ∧ (s.io.tick < x)) ∧
    (∃ (s : State) (region block x : Nat), (s.video.stopped.find? (fun x => x.1 == region && x.2.1 == block) = some (region, block, x)) ∧
      (x + 1 ≤ s.io.tick) ∧ (s.video.ready.contains (region, block) = false)) ∧
    (∃ (s : State) (region : Nat), (s.running = true) ∧ (s.io.regionActive region = true)) ∧
    (∃ (s u v : State) (region : Nat) (retrained new : List (Nat × List Byte)) (failed enabled : List Nat), (s.video.fenced.contains region = true) ∧
      (bit (s.getF Fld.CTL_ERR_STAT_FENCE_HELD) region = false) ∧
      (enabled = (List.range 4).filter (fun i => s.getF (Fld.DMC_CH_STAT_STATE region i) ≠ 0)) ∧
      (new = retrained.filter (fun r => enabled.contains r.1 && !failed.contains r.1)) ∧
      (u = new.foldl (fun x r => x.setChan (4 * region + r.1) { x.chan (4 * region + r.1) with settings := sub r.2 0 256 }) (enabled.foldl (fun x i => x.returnChannel region i (if failed.contains i then 3 else if new.any (·.1 == i) then 2 else 1)) s)) ∧
      (v = (if new.isEmpty then u else u.queueRecord 1 u.trainingRecord)) ∧ (enabled.any failed.contains = false)) ∧
    (∃ (s u v : State) (region : Nat) (retrained new : List (Nat × List Byte)) (failed enabled : List Nat), (s.video.fenced.contains region = true) ∧
      (bit (s.getF Fld.CTL_ERR_STAT_FENCE_HELD) region = false) ∧
      (enabled = (List.range 4).filter (fun i => s.getF (Fld.DMC_CH_STAT_STATE region i) ≠ 0)) ∧
      (new = retrained.filter (fun r => enabled.contains r.1 && !failed.contains r.1)) ∧
      (u = new.foldl (fun x r => x.setChan (4 * region + r.1) { x.chan (4 * region + r.1) with settings := sub r.2 0 256 }) (enabled.foldl (fun x i => x.returnChannel region i (if failed.contains i then 3 else if new.any (·.1 == i) then 2 else 1)) s)) ∧
      (v = (if new.isEmpty then u else u.queueRecord 1 u.trainingRecord)) ∧ (enabled.any failed.contains = true)) ∧
    (∃ (s : State), (s.boot.pwrgood = true) ∧ (s.boot.power ≠ 2) ∧ (s.boot.held = false)) ∧
    (∃ (s : State) (block cell cause : Nat) (u : _), (s.io.hasHost = false) ∧ (2 ≤ s.recentRestarts.length) ∧
      (u = (((s.bumpF Fld.CTL_ERR_CHIP).logError 3 0 block cell cause 0 0).alert 6 true)) ∧ (u.recentRestarts = s.recentRestarts)) ∧
    (∃ (s : State), (s.running = true) ∧ (s.boot.power ≠ 2)) :=
  ⟨⟨wUp, _, 0, 0, 0, 0, 0, 0, false, by decide +kernel, by decide +kernel, by decide +kernel, by decide +kernel, by decide +kernel, rfl⟩,
   ⟨wUp, _, _, 0, 0, 0, 0, 0, 0, false, by decide +kernel, by decide +kernel, by decide +kernel, by decide +kernel, by decide +kernel, rfl, rfl⟩,
   ⟨wUp, _, _, 0, 0, 0, 0, 0, 0, by decide +kernel, by decide +kernel, by decide +kernel, by decide +kernel, by decide +kernel, rfl, rfl⟩,
   ⟨wUp, 0, 8, by decide +kernel, by decide +kernel, by decide +kernel, .inl rfl⟩,
   ⟨wUp, 0, 0, by decide +kernel, by decide +kernel, by decide +kernel, by decide +kernel, by decide +kernel, by decide +kernel, by decide +kernel⟩,
   ⟨(wUp.setF Fld.TCK_COUNT_LO 5).onVideo (fun v => { v with stopped := [(0, 5, 5)] }), 0, 5, 5, by decide +kernel, by decide +kernel⟩,
   ⟨(wUp.setF Fld.TCK_COUNT_LO 4).onVideo (fun v => { v with stopped := [(0, 5, 5)] }), 0, 5, 5, by decide +kernel, by decide +kernel⟩,
   ⟨(wUp.setF Fld.TCK_COUNT_LO 6).onVideo (fun v => { v with stopped := [(0, 5, 5)] }), 0, 5, 5, by decide +kernel, by decide +kernel, by decide +kernel⟩,
   ⟨wUp, 0, by decide +kernel, by decide +kernel⟩,
   ⟨wUp.onVideo (fun v => { v with fenced := [0] }), _, _, 0, [(0, [1])], _, [], _, by decide +kernel, by decide +kernel, rfl, rfl, rfl, rfl,
     by decide +kernel⟩,
   ⟨wUp.onVideo (fun v => { v with fenced := [0] }) |>.setF (Fld.DMC_CH_STAT_STATE 0 0) 1, _, _, 0, [], _, [0], _, by decide +kernel, by decide +kernel,
     rfl, rfl, rfl, rfl, by decide +kernel⟩,
   ⟨wOn, by decide +kernel, by decide +kernel, by decide +kernel⟩,
   ⟨wTile.onBoot (fun b => { b with restarts := [0, 1] }), 0, 0, 0, _, by decide +kernel, by decide +kernel, rfl, by decide +kernel⟩,
   ⟨wUp, by decide +kernel, by decide +kernel⟩⟩

theorem witness_BootUmberFrame :
    (∃ τ, exec (.powerOn false 0 0 0 []) State.reset = .next τ) ∧
    (∃ τ, exec (.deviceReset false 0 0 0 []) State.reset = .next τ) ∧
    (∃ τ, exec (.railUndervoltage) State.reset = .next τ) ∧
    (∃ τ, exec (.imageSectionReadDone 0 none) State.reset = .next τ) ∧
    (∃ τ, exec (.nvmReadTimeout none) State.reset = .next τ) ∧
    (∃ τ, exec (.dramTrainingDone 0 0 0 0 0 false false []) State.reset = .next τ) ∧
    (∃ τ, exec (.loadingComplete) State.reset = .next τ) ∧
    (∃ τ, exec (.bootWatchdogExpiry) State.reset = .next τ) ∧
    (∃ τ, exec (.umberNone) State.reset = .next τ) ∧
    (∃ τ, exec (.umberFormat) State.reset = .next τ) ∧
    (∃ τ, exec (.umberOpen) State.reset = .next τ) ∧
    (∃ τ, exec (.umberBlock) State.reset = .next τ) ∧
    (∃ τ, exec (.umberBlockProgrammed false) State.reset = .next τ) ∧
    (∃ τ, exec (.umberClose) State.reset = .next τ) ∧
    (∃ τ, exec (.umberDiscard) State.reset = .next τ) ∧
    (∃ τ, exec (.umberRestart []) State.reset = .next τ) ∧
    (∃ τ, exec (.umberBootActive) State.reset = .next τ) ∧
    (∃ τ, exec (.umberBadCmd 0) State.reset = .next τ) ∧
    (∃ τ, exec (.pwrgoodFall) State.reset = .next τ) ∧
    (∃ τ, exec (.monitoredRailRecovery false 0 0 0) State.reset = .next τ) ∧
    (∃ τ, exec (.diodeWindowChange 0 0) State.reset = .next τ) :=
  ⟨⟨_, rfl⟩,
   ⟨_, rfl⟩,
   ⟨_, rfl⟩,
   ⟨_, rfl⟩,
   ⟨_, rfl⟩,
   ⟨_, rfl⟩,
   ⟨_, rfl⟩,
   ⟨_, rfl⟩,
   ⟨_, rfl⟩,
   ⟨_, rfl⟩,
   ⟨_, rfl⟩,
   ⟨_, rfl⟩,
   ⟨_, rfl⟩,
   ⟨_, rfl⟩,
   ⟨_, rfl⟩,
   ⟨_, rfl⟩,
   ⟨_, rfl⟩,
   ⟨_, rfl⟩,
   ⟨_, rfl⟩,
   ⟨_, rfl⟩,
   ⟨_, rfl⟩⟩

theorem witness_UpdateFrame :
    (∃ τ, exec (.stageAckReceived 0 []) State.reset = .next τ) ∧
    (∃ τ, exec (.restartReceived 0 []) State.reset = .next τ) ∧
    (∃ τ, exec (.attestCommandReceived 0 []) State.reset = .next τ) ∧
    (∃ τ, exec (.stageOpen 0 0) State.reset = .next τ) ∧
    (∃ τ, exec (.stageData 0 0 {} 0) State.reset = .next τ) ∧
    (∃ τ, exec (.stageClose 0 0) State.reset = .next τ) ∧
    (∃ τ, exec (.stageDiscard 0 0) State.reset = .next τ) ∧
    (∃ τ, exec (.stageCloseTimeout) State.reset = .next τ) ∧
    (∃ τ, exec (.stageOpenPacket 0 []) State.reset = .next τ) ∧
    (∃ τ, exec (.stageDataPacket 0 []) State.reset = .next τ) ∧
    (∃ τ, exec (.stageClosePacket 0 []) State.reset = .next τ) ∧
    (∃ τ, exec (.stageDiscardPacket 0 []) State.reset = .next τ) ∧
    (∃ τ, exec (.stageQueryPacket 0 []) State.reset = .next τ) ∧
    (∃ τ, exec (.stageProgramDone false) State.reset = .next τ) ∧
    (∃ τ, exec (.wallRestart 0 0) State.reset = .next τ) ∧
    (∃ τ, exec (.activationCopy) State.reset = .next τ) ∧
    (∃ τ, exec (.activationSectorDone 0 false) State.reset = .next τ) ∧
    (∃ τ, exec (.attestLocal 0 0) State.reset = .next τ) ∧
    (∃ τ, exec (.attestTile 0 0) State.reset = .next τ) ∧
    (∃ τ, exec (.attestReportDone) State.reset = .next τ) :=
  ⟨⟨_, rfl⟩,
   ⟨_, rfl⟩,
   ⟨_, rfl⟩,
   ⟨_, rfl⟩,
   ⟨_, rfl⟩,
   ⟨_, rfl⟩,
   ⟨_, rfl⟩,
   ⟨_, rfl⟩,
   ⟨_, rfl⟩,
   ⟨_, rfl⟩,
   ⟨_, rfl⟩,
   ⟨_, rfl⟩,
   ⟨_, rfl⟩,
   ⟨_, rfl⟩,
   ⟨_, rfl⟩,
   ⟨_, rfl⟩,
   ⟨_, rfl⟩,
   ⟨_, rfl⟩,
   ⟨_, rfl⟩,
   ⟨_, rfl⟩⟩

theorem witness_TickFrame :
    (∃ τ, exec (.referenceEdge 0) State.reset = .next τ) ∧
    (∃ τ, exec (.edgeMissing) State.reset = .next τ) ∧
    (∃ τ, exec (.tick false) State.reset = .next τ) ∧
    (∃ τ, exec (.repeatBoundary) State.reset = .next τ) ∧
    (∃ τ, exec (.tickMarkerSend 0 0) State.reset = .next τ) ∧
    (∃ τ, exec (.tickMarkerReceived 0 0 0) State.reset = .next τ) ∧
    (∃ τ, exec (.markerMissing 0) State.reset = .next τ) ∧
    (∃ τ, exec (.enumSend 0 0) State.reset = .next τ) ∧
    (∃ τ, exec (.enumReceived 0 0) State.reset = .next τ) ∧
    (∃ τ, exec (.delayProbe 0 0 0) State.reset = .next τ) ∧
    (∃ τ, exec (.probeReceived 0 0 0 0) State.reset = .next τ) ∧
    (∃ τ, exec (.probeEchoReceived 0 [] 0) State.reset = .next τ) ∧
    (∃ τ, exec (.delayAssignReceived 0 []) State.reset = .next τ) ∧
    (∃ τ, exec (.transmitWindow 0 0 0) State.reset = .next τ) ∧
    (∃ τ, exec (.elasticSlotComplete 0 0 0) State.reset = .next τ) :=
  ⟨⟨_, rfl⟩,
   ⟨_, rfl⟩,
   ⟨_, rfl⟩,
   ⟨_, rfl⟩,
   ⟨_, rfl⟩,
   ⟨_, rfl⟩,
   ⟨_, rfl⟩,
   ⟨_, rfl⟩,
   ⟨_, rfl⟩,
   ⟨_, rfl⟩,
   ⟨_, rfl⟩,
   ⟨_, rfl⟩,
   ⟨_, rfl⟩,
   ⟨_, rfl⟩,
   ⟨_, rfl⟩⟩

theorem witness_PictureSlotFrame :
    (∃ τ, exec (.fetchComposeSlot 0 0 false {} 0) State.reset = .next τ) ∧
    (∃ τ, exec (.handoffRowFree 0) State.reset = .next τ) ∧
    (∃ τ, exec (.encodeSlot 0 0 false) State.reset = .next τ) ∧
    (∃ τ, exec (.segmentReceived 0 [] false) State.reset = .next τ) ∧
    (∃ τ, exec (.decodeSlot 0 0) State.reset = .next τ) ∧
    (∃ τ, exec (.cascadedInputDecode 0 0) State.reset = .next τ) ∧
    (∃ τ, exec (.cascadeFrameComplete 0 0) State.reset = .next τ) ∧
    (∃ τ, exec (.rowCutoff 0 0 0 false) State.reset = .next τ) ∧
    (∃ τ, exec (.hostCaptureWrite 0 0 {}) State.reset = .next τ) ∧
    (∃ τ, exec (.captureBuffer 0 0) State.reset = .next τ) ∧
    (∃ τ, exec (.keyRequestReceived 0 [] 0) State.reset = .next τ) :=
  ⟨⟨_, rfl⟩,
   ⟨_, rfl⟩,
   ⟨_, rfl⟩,
   ⟨_, rfl⟩,
   ⟨_, rfl⟩,
   ⟨_, rfl⟩,
   ⟨_, rfl⟩,
   ⟨_, rfl⟩,
   ⟨_, rfl⟩,
   ⟨_, rfl⟩,
   ⟨_, rfl⟩⟩

theorem witness_CommitFrame :
    (∃ τ, exec (.compileDeadline) State.reset = .next τ) ∧
    (∃ τ, exec (.fenceWordRead 0) State.reset = .next τ) ∧
    (∃ τ, exec (.fenceReadComplete 0 (.fault 0)) State.reset = .next τ) ∧
    (∃ τ, exec (.releaseDue 0 0) State.reset = .next τ) ∧
    (∃ τ, exec (.commit 0 0) State.reset = .next τ) ∧
    (∃ τ, exec (.commitDescriptorReadDone 0 0 (.fault 0)) State.reset = .next τ) ∧
    (∃ τ, exec (.fenceSignal 0 0) State.reset = .next τ) :=
  ⟨⟨_, rfl⟩,
   ⟨_, rfl⟩,
   ⟨_, rfl⟩,
   ⟨_, rfl⟩,
   ⟨_, rfl⟩,
   ⟨_, rfl⟩,
   ⟨_, rfl⟩⟩

theorem witness_LampFrame :
    (∃ τ, exec (.lampPipelineSlot 0 0 false) State.reset = .next τ) ∧
    (∃ τ, exec (.wearSampleSlot 0 0 false) State.reset = .next τ) ∧
    (∃ τ, exec (.driverLoadSlot 0 0 false ⟨[], [], 0, 0, 0, []⟩) State.reset = .next τ) ∧
    (∃ τ, exec (.broadcastSync) State.reset = .next τ) ∧
    (∃ τ, exec (.teEdge 0 false) State.reset = .next τ) ∧
    (∃ τ, exec (.teTimeout 0) State.reset = .next τ) ∧
    (∃ τ, exec (.greyPulseWindow 0 0) State.reset = .next τ) ∧
    (∃ τ, exec (.ceilingCheck) State.reset = .next τ) ∧
    (∃ τ, exec (.ceilingReceived 0 []) State.reset = .next τ) ∧
    (∃ τ, exec (.blendRequest []) State.reset = .next τ) ∧
    (∃ τ, exec (.sensorRead 0 0) State.reset = .next τ) ∧
    (∃ τ, exec (.presencePoll 0 0 []) State.reset = .next τ) ∧
    (∃ τ, exec (.attachReadsDone 0 none) State.reset = .next τ) ∧
    (∃ τ, exec (.boardRelease 0 .bar0) State.reset = .next τ) ∧
    (∃ τ, exec (.boardRetest 0 .bar0) State.reset = .next τ) ∧
    (∃ τ, exec (.wearStoreTimer) State.reset = .next τ) ∧
    (∃ τ, exec (.chunkWriteDone 0 false) State.reset = .next τ) ∧
    (∃ τ, exec (.storePassDone 0) State.reset = .next τ) ∧
    (∃ τ, exec (.faultCopyWrite 0) State.reset = .next τ) ∧
    (∃ τ, exec (.unverifiedMinute) State.reset = .next τ) ∧
    (∃ τ, exec (.persistHourly) State.reset = .next τ) :=
  ⟨⟨_, rfl⟩,
   ⟨_, rfl⟩,
   ⟨_, rfl⟩,
   ⟨_, rfl⟩,
   ⟨_, rfl⟩,
   ⟨_, rfl⟩,
   ⟨_, rfl⟩,
   ⟨_, rfl⟩,
   ⟨_, rfl⟩,
   ⟨_, rfl⟩,
   ⟨_, rfl⟩,
   ⟨_, rfl⟩,
   ⟨_, rfl⟩,
   ⟨_, rfl⟩,
   ⟨_, rfl⟩,
   ⟨_, rfl⟩,
   ⟨_, rfl⟩,
   ⟨_, rfl⟩,
   ⟨_, rfl⟩,
   ⟨_, rfl⟩,
   ⟨_, rfl⟩⟩

theorem witness_AudioFrame :
    (∃ τ, exec (.audioWindow 0 0 0 0 {} 0) State.reset = .next τ) ∧
    (∃ τ, exec (.play 0 0) State.reset = .next τ) ∧
    (∃ τ, exec (.audioCapture 0 0) State.reset = .next τ) ∧
    (∃ τ, exec (.mask 0 0) State.reset = .next τ) ∧
    (∃ τ, exec (.audioStart 0 0) State.reset = .next τ) ∧
    (∃ τ, exec (.audioStop 0 0) State.reset = .next τ) ∧
    (∃ τ, exec (.slotMaskReceived 0 []) State.reset = .next τ) ∧
    (∃ τ, exec (.audioPacketReceived 0 []) State.reset = .next τ) ∧
    (∃ τ, exec (.audioPacketDeadline 0) State.reset = .next τ) ∧
    (∃ τ, exec (.audioFrame 0 0 0 [] false false) State.reset = .next τ) ∧
    (∃ τ, exec (.bclkLoss 0) State.reset = .next τ) ∧
    (∃ τ, exec (.bclkReturn 0) State.reset = .next τ) ∧
    (∃ τ, exec (.audioPortLocked 0) State.reset = .next τ) ∧
    (∃ τ, exec (.audioFadeDone 0) State.reset = .next τ) :=
  ⟨⟨_, rfl⟩,
   ⟨_, rfl⟩,
   ⟨_, rfl⟩,
   ⟨_, rfl⟩,
   ⟨_, rfl⟩,
   ⟨_, rfl⟩,
   ⟨_, rfl⟩,
   ⟨_, rfl⟩,
   ⟨_, rfl⟩,
   ⟨_, rfl⟩,
   ⟨_, rfl⟩,
   ⟨_, rfl⟩,
   ⟨_, rfl⟩,
   ⟨_, rfl⟩⟩

theorem witness_MeteringFrame :
    (∃ τ, exec (.meterPowerOn false 0) State.reset = .next τ) ∧
    (∃ τ, exec (.meterInterval 0 [] 0) State.reset = .next τ) ∧
    (∃ τ, exec (.bitstreamStuck 0) State.reset = .next τ) ∧
    (∃ τ, exec (.energySave) State.reset = .next τ) ∧
    (∃ τ, exec (.recordRequestRead .bar0) State.reset = .next τ) ∧
    (∃ τ, exec (.recordSigned) State.reset = .next τ) ∧
    (∃ τ, exec (.shutdownNotice) State.reset = .next τ) ∧
    (∃ τ, exec (.meterActivationNotice false) State.reset = .next τ) ∧
    (∃ τ, exec (.calEnAssert) State.reset = .next τ) ∧
    (∃ τ, exec (.calEnRelease) State.reset = .next τ) ∧
    (∃ τ, exec (.calStart .bar0) State.reset = .next τ) ∧
    (∃ τ, exec (.calZero .bar0) State.reset = .next τ) ∧
    (∃ τ, exec (.calVref .bar0) State.reset = .next τ) ∧
    (∃ τ, exec (.calIref .bar0) State.reset = .next τ) ∧
    (∃ τ, exec (.calDelay .bar0) State.reset = .next τ) ∧
    (∃ τ, exec (.calCommit .bar0) State.reset = .next τ) ∧
    (∃ τ, exec (.calAbort .bar0) State.reset = .next τ) ∧
    (∃ τ, exec (.calSeal .bar0) State.reset = .next τ) ∧
    (∃ τ, exec (.calNone .bar0) State.reset = .next τ) ∧
    (∃ τ, exec (.calBadCmd 0 .bar0) State.reset = .next τ) ∧
    (∃ τ, exec (.meterPowerLoss) State.reset = .next τ) :=
  ⟨⟨_, rfl⟩,
   ⟨_, rfl⟩,
   ⟨_, rfl⟩,
   ⟨_, rfl⟩,
   ⟨_, rfl⟩,
   ⟨_, rfl⟩,
   ⟨_, rfl⟩,
   ⟨_, rfl⟩,
   ⟨_, rfl⟩,
   ⟨_, rfl⟩,
   ⟨_, rfl⟩,
   ⟨_, rfl⟩,
   ⟨_, rfl⟩,
   ⟨_, rfl⟩,
   ⟨_, rfl⟩,
   ⟨_, rfl⟩,
   ⟨_, rfl⟩,
   ⟨_, rfl⟩,
   ⟨_, rfl⟩,
   ⟨_, rfl⟩,
   ⟨_, rfl⟩⟩

theorem witness_ThermalWallFrame :
    (∃ τ, exec (.wallThrottleCheck) State.reset = .next τ) ∧
    (∃ τ, exec (.throttleReceived 0 []) State.reset = .next τ) ∧
    (∃ τ, exec (.wallCmdResend) State.reset = .next τ) ∧
    (∃ τ, exec (.admissionPoll) State.reset = .next τ) ∧
    (∃ τ, exec (.admitReceived 0 []) State.reset = .next τ) ∧
    (∃ τ, exec (.nvmWriteComplete) State.reset = .next τ) ∧
    (∃ τ, exec (.thermalModelUpdate 0 0 [] 0) State.reset = .next τ) ∧
    (∃ τ, exec (.meteringStaleTimeout) State.reset = .next τ) ∧
    (∃ τ, exec (.thermalEvaluation) State.reset = .next τ) ∧
    (∃ τ, exec (.thmTestShutdown .bar0) State.reset = .next τ) ∧
    (∃ τ, exec (.shutdownTimeout) State.reset = .next τ) ∧
    (∃ τ, exec (.diodeTrip) State.reset = .next τ) ∧
    (∃ τ, exec (.thermalRestart false 0 0 0) State.reset = .next τ) :=
  ⟨⟨_, rfl⟩,
   ⟨_, rfl⟩,
   ⟨_, rfl⟩,
   ⟨_, rfl⟩,
   ⟨_, rfl⟩,
   ⟨_, rfl⟩,
   ⟨_, rfl⟩,
   ⟨_, rfl⟩,
   ⟨_, rfl⟩,
   ⟨_, rfl⟩,
   ⟨_, rfl⟩,
   ⟨_, rfl⟩,
   ⟨_, rfl⟩⟩

theorem witness_HostRingFrame :
    (∃ τ, exec (.pcieLinkUp 0 0) State.reset = .next τ) ∧
    (∃ τ, exec (.pcieLinkDown) State.reset = .next τ) ∧
    (∃ τ, exec (.hotReset) State.reset = .next τ) ∧
    (∃ τ, exec (.functionLevelReset) State.reset = .next τ) ∧
    (∃ τ, exec (.d3hotEntry) State.reset = .next τ) ∧
    (∃ τ, exec (.d3hotToD0) State.reset = .next τ) ∧
    (∃ τ, exec (.bar2Access false 0 0 [] false) State.reset = .next τ) ∧
    (∃ τ, exec (.unexpectedCompletion) State.reset = .next τ) ∧
    (∃ τ, exec (.doorbellWrite 0 0 0 false) State.reset = .next τ) ∧
    (∃ τ, exec (.msixUnmask 0) State.reset = .next τ) ∧
    (∃ τ, exec (.ringFetch 0) State.reset = .next τ) ∧
    (∃ τ, exec (.sqReadComplete 0 0 (.fault 0)) State.reset = .next τ) ∧
    (∃ τ, exec (.nop 0 0) State.reset = .next τ) ∧
    (∃ τ, exec (.reservedOpcode 0 0) State.reset = .next τ) ∧
    (∃ τ, exec (.ringCreate 0 0) State.reset = .next τ) ∧
    (∃ τ, exec (.ringDestroy 0 0) State.reset = .next τ) ∧
    (∃ τ, exec (.ringReset 0 0) State.reset = .next τ) ∧
    (∃ τ, exec (.vectorMap 0 0) State.reset = .next τ) ∧
    (∃ τ, exec (.operationComplete 0 0 false false false) State.reset = .next τ) ∧
    (∃ τ, exec (.configurationWrite .readAer) State.reset = .next τ) ∧
    (∃ τ, exec (.pcieLinkSpeedChange 0 0) State.reset = .next τ) ∧
    (∃ τ, exec (.pcieCorrectableError) State.reset = .next τ) :=
  ⟨⟨_, rfl⟩,
   ⟨_, rfl⟩,
   ⟨_, rfl⟩,
   ⟨_, rfl⟩,
   ⟨_, rfl⟩,
   ⟨_, rfl⟩,
   ⟨_, rfl⟩,
   ⟨_, rfl⟩,
   ⟨_, rfl⟩,
   ⟨_, rfl⟩,
   ⟨_, rfl⟩,
   ⟨_, rfl⟩,
   ⟨_, rfl⟩,
   ⟨_, rfl⟩,
   ⟨_, rfl⟩,
   ⟨_, rfl⟩,
   ⟨_, rfl⟩,
   ⟨_, rfl⟩,
   ⟨_, rfl⟩,
   ⟨_, rfl⟩,
   ⟨_, rfl⟩,
   ⟨_, rfl⟩⟩

theorem witness_TranslationFrame :
    (∃ τ, exec (.completionTimeout (.ringFetch 0)) State.reset = .next τ) ∧
    (∃ τ, exec (.xltSet 0 0) State.reset = .next τ) ∧
    (∃ τ, exec (.xltDisable 0 0) State.reset = .next τ) ∧
    (∃ τ, exec (.xltInvalidateAll 0 0) State.reset = .next τ) ∧
    (∃ τ, exec (.xltInvalidateRange 0 0) State.reset = .next τ) ∧
    (∃ τ, exec (.invalidationDrained 0 0) State.reset = .next τ) ∧
    (∃ τ, exec (.translationWalkDone 0 0 []) State.reset = .next τ) ∧
    (∃ τ, exec (.dmaCopy 0 0) State.reset = .next τ) ∧
    (∃ τ, exec (.dmaCopyDone 0 0 {} 0) State.reset = .next τ) :=
  ⟨⟨_, rfl⟩,
   ⟨_, rfl⟩,
   ⟨_, rfl⟩,
   ⟨_, rfl⟩,
   ⟨_, rfl⟩,
   ⟨_, rfl⟩,
   ⟨_, rfl⟩,
   ⟨_, rfl⟩,
   ⟨_, rfl⟩⟩

theorem witness_DramControllerFrame :
    (∃ τ, exec (.dramGrant 0 [] 0) State.reset = .next τ) ∧
    (∃ τ, exec (.dramWriteAccept 0 0 0 0 0) State.reset = .next τ) ∧
    (∃ τ, exec (.dramReadComplete 0 0 0 0) State.reset = .next τ) ∧
    (∃ τ, exec (.portPanicEnter 0 0 0 false) State.reset = .next τ) ∧
    (∃ τ, exec (.portPanicExit 0 0 0 false) State.reset = .next τ) ∧
    (∃ τ, exec (.panicWindowEnd 0) State.reset = .next τ) ∧
    (∃ τ, exec (.requestAged 0 0 0) State.reset = .next τ) ∧
    (∃ τ, exec (.refreshIntervalEnd 0) State.reset = .next τ) ∧
    (∃ τ, exec (.mr4Poll 0 0 0) State.reset = .next τ) ∧
    (∃ τ, exec (.patternRunStart 0 0 false 0 .bar0) State.reset = .next τ) ∧
    (∃ τ, exec (.patternRunDone 0 0 0) State.reset = .next τ) :=
  ⟨⟨_, rfl⟩,
   ⟨_, rfl⟩,
   ⟨_, rfl⟩,
   ⟨_, rfl⟩,
   ⟨_, rfl⟩,
   ⟨_, rfl⟩,
   ⟨_, rfl⟩,
   ⟨_, rfl⟩,
   ⟨_, rfl⟩,
   ⟨_, rfl⟩,
   ⟨_, rfl⟩⟩

theorem witness_LinkFrame :
    (∃ τ, exec (.reservedPacket 0 []) State.reset = .next τ) ∧
    (∃ τ, exec (.remoteRegRead 0 0) State.reset = .next τ) ∧
    (∃ τ, exec (.remoteRegWrite 0 0) State.reset = .next τ) ∧
    (∃ τ, exec (.regRspReceived 0 []) State.reset = .next τ) ∧
    (∃ τ, exec (.regReqTimeout 0 0) State.reset = .next τ) ∧
    (∃ τ, exec (.ackReceived 0 []) State.reset = .next τ) ∧
    (∃ τ, exec (.returnAckTimeout 0 0) State.reset = .next τ) ∧
    (∃ τ, exec (.returnCellPass 0 0) State.reset = .next τ) ∧
    (∃ τ, exec (.alignSend 0) State.reset = .next τ) ∧
    (∃ τ, exec (.remoteEventReceived 0 []) State.reset = .next τ) ∧
    (∃ τ, exec (.telemetryReceived 0 []) State.reset = .next τ) ∧
    (∃ τ, exec (.telemetryStale 0 0) State.reset = .next τ) ∧
    (∃ τ, exec (.wordLockLoss 0 0) State.reset = .next τ) ∧
    (∃ τ, exec (.rxClockLost 0) State.reset = .next τ) ∧
    (∃ τ, exec (.ts1Received 0) State.reset = .next τ) ∧
    (∃ τ, exec (.tsWordsReceived 0 false 0) State.reset = .next τ) ∧
    (∃ τ, exec (.equalisationDone 0 0 0 0 0 0 0) State.reset = .next τ) ∧
    (∃ τ, exec (.portUp 0 0) State.reset = .next τ) ∧
    (∃ τ, exec (.trainingAttemptTimeout 0) State.reset = .next τ) ∧
    (∃ τ, exec (.trainingRetryTimer 0) State.reset = .next τ) ∧
    (∃ τ, exec (.rxClockActivity 0) State.reset = .next τ) ∧
    (∃ τ, exec (.linkTestRetry 0 .bar0) State.reset = .next τ) ∧
    (∃ τ, exec (.linkTestForceDown 0 .bar0) State.reset = .next τ) ∧
    (∃ τ, exec (.fomMeasurement 0 false 0 0) State.reset = .next τ) ∧
    (∃ τ, exec (.eqStepAdopt 0) State.reset = .next τ) ∧
    (∃ τ, exec (.cellDrop 0 []) State.reset = .next τ) :=
  ⟨⟨_, rfl⟩,
   ⟨_, rfl⟩,
   ⟨_, rfl⟩,
   ⟨_, rfl⟩,
   ⟨_, rfl⟩,
   ⟨_, rfl⟩,
   ⟨_, rfl⟩,
   ⟨_, rfl⟩,
   ⟨_, rfl⟩,
   ⟨_, rfl⟩,
   ⟨_, rfl⟩,
   ⟨_, rfl⟩,
   ⟨_, rfl⟩,
   ⟨_, rfl⟩,
   ⟨_, rfl⟩,
   ⟨_, rfl⟩,
   ⟨_, rfl⟩,
   ⟨_, rfl⟩,
   ⟨_, rfl⟩,
   ⟨_, rfl⟩,
   ⟨_, rfl⟩,
   ⟨_, rfl⟩,
   ⟨_, rfl⟩,
   ⟨_, rfl⟩,
   ⟨_, rfl⟩,
   ⟨_, rfl⟩⟩

theorem witness_PairFrame :
    (∃ τ, exec (.helloSend) State.reset = .next τ) ∧
    (∃ τ, exec (.helloReceived []) State.reset = .next τ) ∧
    (∃ τ, exec (.commitAnnReceived []) State.reset = .next τ) ∧
    (∃ τ, exec (.keyAnnReceived []) State.reset = .next τ) ∧
    (∃ τ, exec (.cycleAnnReceived []) State.reset = .next τ) ∧
    (∃ τ, exec (.snapshotReceived []) State.reset = .next τ) ∧
    (∃ τ, exec (.relayReceived []) State.reset = .next τ) ∧
    (∃ τ, exec (.deposeReceived []) State.reset = .next τ) ∧
    (∃ τ, exec (.handoverReceived []) State.reset = .next τ) ∧
    (∃ τ, exec (.pairAckReceived []) State.reset = .next τ) ∧
    (∃ τ, exec (.readDoneReceived []) State.reset = .next τ) ∧
    (∃ τ, exec (.reuniteReceived []) State.reset = .next τ) ∧
    (∃ τ, exec (.pairPacketTimeout 0) State.reset = .next τ) ∧
    (∃ τ, exec (.comparisonDeadline 0 0) State.reset = .next τ) ∧
    (∃ τ, exec (.deposeAckTimeout) State.reset = .next τ) ∧
    (∃ τ, exec (.announcementMissing) State.reset = .next τ) ∧
    (∃ τ, exec (.reunitePoll 0 false) State.reset = .next τ) ∧
    (∃ τ, exec (.suspectTimeout) State.reset = .next τ) ∧
    (∃ τ, exec (.pairPortTimeout) State.reset = .next τ) ∧
    (∃ τ, exec (.pairTestHandover .bar0) State.reset = .next τ) ∧
    (∃ τ, exec (.pairTestForeign .bar0) State.reset = .next τ) ∧
    (∃ τ, exec (.pairPacketReserved 0) State.reset = .next τ) :=
  ⟨⟨_, rfl⟩,
   ⟨_, rfl⟩,
   ⟨_, rfl⟩,
   ⟨_, rfl⟩,
   ⟨_, rfl⟩,
   ⟨_, rfl⟩,
   ⟨_, rfl⟩,
   ⟨_, rfl⟩,
   ⟨_, rfl⟩,
   ⟨_, rfl⟩,
   ⟨_, rfl⟩,
   ⟨_, rfl⟩,
   ⟨_, rfl⟩,
   ⟨_, rfl⟩,
   ⟨_, rfl⟩,
   ⟨_, rfl⟩,
   ⟨_, rfl⟩,
   ⟨_, rfl⟩,
   ⟨_, rfl⟩,
   ⟨_, rfl⟩,
   ⟨_, rfl⟩,
   ⟨_, rfl⟩⟩

theorem witness_RegisterFrame :
    (∃ τ, exec (.registerWrite .bar0 0 0 0 false) State.reset = .next τ) ∧
    (∃ τ, exec (.lowHalfRead .bar0 0 0 false) State.reset = .next τ) ∧
    (∃ τ, exec (.regReqReceived 0 []) State.reset = .next τ) ∧
    (∃ τ, exec (.eventStatusClear .bar0 0 0 []) State.reset = .next τ) ∧
    (∃ τ, exec (.eventMaskWrite .bar0 0 0) State.reset = .next τ) ∧
    (∃ τ, exec (.counterSnap .bar0) State.reset = .next τ) ∧
    (∃ τ, exec (.counterClear .bar0) State.reset = .next τ) ∧
    (∃ τ, exec (.counterReset .bar0 0) State.reset = .next τ) ∧
    (∃ τ, exec (.counterWrap 0) State.reset = .next τ) ∧
    (∃ τ, exec (.jtagReset) State.reset = .next τ) ∧
    (∃ τ, exec (.jtagExtest 0) State.reset = .next τ) ∧
    (∃ τ, exec (.jtagSamplePreload 0 0 0) State.reset = .next τ) ∧
    (∃ τ, exec (.jtagBypass 0) State.reset = .next τ) ∧
    (∃ τ, exec (.jtagRegaccUpdate 0 false) State.reset = .next τ) ∧
    (∃ τ, exec (.jtagRegaccCapture) State.reset = .next τ) :=
  ⟨⟨_, rfl⟩,
   ⟨_, rfl⟩,
   ⟨_, rfl⟩,
   ⟨_, rfl⟩,
   ⟨_, rfl⟩,
   ⟨_, rfl⟩,
   ⟨_, rfl⟩,
   ⟨_, rfl⟩,
   ⟨_, rfl⟩,
   ⟨_, rfl⟩,
   ⟨_, rfl⟩,
   ⟨_, rfl⟩,
   ⟨_, rfl⟩,
   ⟨_, rfl⟩,
   ⟨_, rfl⟩⟩

theorem witness_ContainmentFrame :
    (∃ τ, exec (.cellFault 0 0 0 0 0 0 false false false) State.reset = .next τ) ∧
    (∃ τ, exec (.cellStall 0 0 0 0 0 0 false false) State.reset = .next τ) ∧
    (∃ τ, exec (.blockFault 0 0 false) State.reset = .next τ) ∧
    (∃ τ, exec (.blockRestartDone 0 0) State.reset = .next τ) ∧
    (∃ τ, exec (.blockRestartTimeout 0 0 false) State.reset = .next τ) ∧
    (∃ τ, exec (.regionFault 0 false) State.reset = .next τ) ∧
    (∃ τ, exec (.regionReturn 0 [] []) State.reset = .next τ) ∧
    (∃ τ, exec (.chipError 0 false) State.reset = .next τ) ∧
    (∃ τ, exec (.firmwareWatchdogExpiry 0 false) State.reset = .next τ) :=
  ⟨⟨_, rfl⟩,
   ⟨_, rfl⟩,
   ⟨_, rfl⟩,
   ⟨_, rfl⟩,
   ⟨_, rfl⟩,
   ⟨_, rfl⟩,
   ⟨_, rfl⟩,
   ⟨_, rfl⟩,
   ⟨_, rfl⟩⟩

end Sys2Proof.Machine
end

section
/-! Wide values in halves (R13): what the latch of a low-half read gives back, and when the halves of an MSI-X address take effect. -/

namespace Sys2Proof.Machine

/-! ### The entry that a sparse list holds for an address -/

theorem Sparse.find?_ins_same {α : Type} {l : List (Nat × α)} {a : Nat} (v : α) (h : ∀ p ∈ l, p.1 ≠ a) :
    (Sparse.ins l a v).find? (·.1 == a) = some (a, v) := by
  induction l with
  | nil => simp [Sparse.ins]
  | cons p t ih =>
    have hp : p.1 ≠ a := h p List.mem_cons_self
    have ht : ∀ q ∈ t, q.1 ≠ a := fun q hq => h q (List.mem_cons_of_mem p hq)
    by_cases hlt : p.1 < a
    · simp [Sparse.ins, hlt, hp, ih ht]
    · simp [Sparse.ins, hlt]

@[simp] theorem Sparse.find?_ins_erase {α : Type} (l : List (Nat × α)) (a : Nat) (v : α) :
    (Sparse.ins (Sparse.erase l a) a v).find? (·.1 == a) = some (a, v) :=
  Sparse.find?_ins_same v (Sparse.erase_ne l a)

/-! ### Latched reads -/

theorem Io.readLatched_low (s : Io) {a : Nat} (h : lowHalf a = true) :
    s.readLatched a =
      ({ s with latch := Sparse.ins (Sparse.erase s.latch (a + 4)) (a + 4) (BitVec.ofNat 32 (s.viewWord (a + 4))) }, s.viewWord a) := by
  simp [Io.readLatched, h]

theorem Io.readLatched_low_latches (s : Io) {a : Nat} (h : lowHalf a = true) :
    (s.readLatched a).1.latch.find? (·.1 == a + 4) = some (a + 4, BitVec.ofNat 32 (s.viewWord (a + 4))) := by
  rw [Io.readLatched_low s h]
  exact Sparse.find?_ins_erase s.latch (a + 4) _

theorem Io.readLatched_of_latched {s : Io} {a : Nat} {w : BitVec 32} (h : lowHalf a = false)
    (hw : s.latch.find? (·.1 == a) = some (a, w)) : s.readLatched a = (s, w.toNat) := by
  simp [Io.readLatched, h, hw]

/-! ### Writes of an MSI-X address -/

theorem Reg.HRG_MSIX_ADDR_LO_mod (n : Nat) : Reg.HRG_MSIX_ADDR_LO n % 16 = 0 := by
  unfold Reg.HRG_MSIX_ADDR_LO; omega

theorem Reg.HRG_MSIX_ADDR_HI_eq (n : Nat) : Reg.HRG_MSIX_ADDR_HI n = Reg.HRG_MSIX_ADDR_LO n + 4 := by
  unfold Reg.HRG_MSIX_ADDR_HI Reg.HRG_MSIX_ADDR_LO; omega

theorem Reg.HRG_MSIX_ADDR_HI_mod (n : Nat) : Reg.HRG_MSIX_ADDR_HI n % 16 = 4 := by
  have hlo := Reg.HRG_MSIX_ADDR_LO_mod n
  rw [Reg.HRG_MSIX_ADDR_HI_eq]; omega

/-- The low half is held aside: the register file is not touched. -/
theorem State.writeMsix_low (s : State) (n v : Nat) :
    (s.writeMsix (Reg.HRG_MSIX_ADDR_LO n) v).io =
      { s.io with
        wideHold := Sparse.ins (Sparse.erase s.io.wideHold (Reg.HRG_MSIX_ADDR_LO n)) (Reg.HRG_MSIX_ADDR_LO n)
          (BitVec.ofNat 32 (Nat.land v 0xFFFFFFFC)) } := by
  simp only [State.writeMsix, Reg.HRG_MSIX_ADDR_LO_mod, State.on_io]

/-- With a low half held, the high half's write stores both and drops what was held. -/
theorem State.writeMsix_high_of_held {s : State} {n : Nat} {lo : BitVec 32} (w : Nat)
    (h : s.io.wideHold.find? (·.1 == Reg.HRG_MSIX_ADDR_LO n) = some (Reg.HRG_MSIX_ADDR_LO n, lo)) :
    (s.writeMsix (Reg.HRG_MSIX_ADDR_HI n) w).io =
      { (s.io.setReg (Reg.HRG_MSIX_ADDR_LO n) lo).setReg (Reg.HRG_MSIX_ADDR_HI n) (BitVec.ofNat 32 w) with
        wideHold := Sparse.erase s.io.wideHold (Reg.HRG_MSIX_ADDR_LO n) } := by
  have hsub : Reg.HRG_MSIX_ADDR_HI n - 4 = Reg.HRG_MSIX_ADDR_LO n := by rw [Reg.HRG_MSIX_ADDR_HI_eq]; rfl
  simp only [State.writeMsix, Reg.HRG_MSIX_ADDR_HI_mod, State.on_io, hsub, h]

theorem Io.getReg_wideHold (s : Io) (l : List (Nat × BitVec 32)) (a : Nat) :
    Io.getReg { s with wideHold := l } a = s.getReg a := rfl

/-- The held low half and the high half read back together. -/
theorem State.writeMsix_high_getReg {s : State} {n : Nat} {lo : BitVec 32} (w : Nat)
    (h : s.io.wideHold.find? (·.1 == Reg.HRG_MSIX_ADDR_LO n) = some (Reg.HRG_MSIX_ADDR_LO n, lo)) :
    (s.writeMsix (Reg.HRG_MSIX_ADDR_HI n) w).io.getReg (Reg.HRG_MSIX_ADDR_LO n) = lo ∧
      (s.writeMsix (Reg.HRG_MSIX_ADDR_HI n) w).io.getReg (Reg.HRG_MSIX_ADDR_HI n) = BitVec.ofNat 32 w := by
  have hne : Reg.HRG_MSIX_ADDR_LO n ≠ Reg.HRG_MSIX_ADDR_HI n := by rw [Reg.HRG_MSIX_ADDR_HI_eq]; omega
  rw [State.writeMsix_high_of_held w h]
  constructor
  · rw [Io.getReg_wideHold, Io.getReg_setReg_other _ _ hne, Io.getReg_setReg_same]
  · rw [Io.getReg_wideHold, Io.getReg_setReg_same]

/-- Settles O12: the entry that a low-half read or write leaves in its list is the one that the high half's access finds. -/
theorem wideRegistersInHalves : Obligations.WideRegistersInHalves := by
  refine ⟨fun s t a hlow hhigh => ⟨by rw [Io.readLatched_low s hlow], fun hlatch => ?_⟩, ?_⟩
  · have hfound : t.latch.find? (·.1 == a + 4) = some (a + 4, BitVec.ofNat 32 (s.viewWord (a + 4))) := by
      rw [hlatch]; exact Io.readLatched_low_latches s hlow
    rw [Io.readLatched_of_latched hhigh hfound, BitVec.toNat_ofNat]
  · rintro s n v w - u rfl
    have hheld : (s.writeMsix (Reg.HRG_MSIX_ADDR_LO n) v).io.wideHold.find? (·.1 == Reg.HRG_MSIX_ADDR_LO n) =
        some (Reg.HRG_MSIX_ADDR_LO n, BitVec.ofNat 32 (Nat.land v 0xFFFFFFFC)) := by
      rw [State.writeMsix_low, Sparse.find?_ins_erase]
    exact ⟨fun a => by rw [State.writeMsix_low, Io.getReg_wideHold], State.writeMsix_high_getReg w hheld⟩

end Sys2Proof.Machine
end

section
/-! The event collector, rule by rule (R504, R505, R507): what acts whatever the mask holds, what follows only where the mask bit is 0,
and that neither touches a status bit or a count besides those of the event. -/

namespace Sys2Proof.Machine

/-! ### A register written with its own word -/

theorem Io.getReg_setReg_self (s : Io) (a b : Nat) : (s.setReg a (s.getReg a)).getReg b = s.getReg b := by
  by_cases h : b = a
  · rw [h, Io.getReg_setReg_same]
  · exact Io.getReg_setReg_other s _ h

/-! ### Status bits and counts -/

theorem Io.evtStatus_setStatus_same (s : Io) (e v : Nat) : (s.setStatus e v).evtStatus e = decide (v % 2 = 1) := by
  unfold Io.evtStatus Io.setStatus
  dsimp only
  rw [Io.getReg_setReg_same, Io.toNat_putBits _ _ _ _ _ (by omega), bit_eq_bits, bits_putBits, pow_one]

theorem Reg.CTL_EVT_COUNT_lt (n : Nat) : Reg.CTL_EVT_COUNT n < 0x3000 := by unfold Reg.CTL_EVT_COUNT; omega

theorem Fld.CTL_EVT_COUNT_fits (e : Nat) : (Fld.CTL_EVT_COUNT e).lo + (Fld.CTL_EVT_COUNT e).width ≤ 32 := by
  simp [Fld.CTL_EVT_COUNT]

theorem Fld.CTL_EVT_COUNT_ne_status (e x : Nat) : (Fld.CTL_EVT_COUNT e).reg ≠ Reg.CTL_EVT_STATUS x := by
  simp only [Fld.CTL_EVT_COUNT, Reg.CTL_EVT_COUNT, Reg.CTL_EVT_STATUS]; omega

theorem Fld.CTL_EVT_COUNT_ne {e x : Nat} (he : e < 512) (hx : x < 512) (h : x ≠ e) : (Fld.CTL_EVT_COUNT x).reg ≠ (Fld.CTL_EVT_COUNT e).reg := by
  simp only [Fld.CTL_EVT_COUNT, Reg.CTL_EVT_COUNT]; omega

theorem Io.getF_count_setStatus (s : Io) (e v x : Nat) :
    (s.setStatus e v).getF (Fld.CTL_EVT_COUNT x) = s.getF (Fld.CTL_EVT_COUNT x) :=
  Io.getF_setReg_other s _ (Fld.CTL_EVT_COUNT_ne_status x (e / 32))

theorem Io.evtStatus_setCount (s : Io) (e v x : Nat) : (s.setF (Fld.CTL_EVT_COUNT e) v).evtStatus x = s.evtStatus x :=
  Io.evtStatus_setF s v (Fld.CTL_EVT_COUNT_ne_status e (x / 32)).symm

/-- An operation with no part in the status words leaves every status bit as it is. -/
theorem Io.Keeps.evtStatus {m : Nat} {s t : Io} (h : Io.Keeps m s t) (hc : clear m Part.CTL_EVT_STATUS = true) (e : Nat) :
    t.evtStatus e = s.evtStatus e := by
  unfold Io.evtStatus; rw [h.getReg (RegOf.CTL_EVT_STATUS _) (by decide) hc]

theorem Io.Keeps.evtMask {m : Nat} {s t : Io} (h : Io.Keeps m s t) (hc : clear m Part.CTL_EVT_MASK = true) (e : Nat) :
    t.evtMask e = s.evtMask e := by
  unfold Io.evtMask; rw [h.getReg (RegOf.CTL_EVT_MASK _) (by decide) hc]

theorem Io.Keeps.evtCount {m : Nat} {s t : Io} (h : Io.Keeps m s t) (hc : clear m Part.CTL_EVT_COUNT = true) (e : Nat) :
    t.getF (Fld.CTL_EVT_COUNT e) = s.getF (Fld.CTL_EVT_COUNT e) :=
  h.getF (RegOf.CTL_EVT_COUNT e) (by decide) hc

/-! ### An occurrence in its stages -/

/-- The status bit of event `e` is set and its count goes up, from 0 where a clear of the bit coincides (`again`). -/
def Io.marked (s : Io) (e : Nat) (again : Bool) : Io :=
  ((if again then s.setF (Fld.CTL_EVT_COUNT e) 0 else s).setStatus e 1).bumpF (Fld.CTL_EVT_COUNT e)

/-- What an occurrence does whatever the mask holds: status, count and the performance counters. -/
def Io.tallied (s : Io) (o : Occ) (again : Bool) : Io := ((s.marked o.event again).countSource o.event o.region).1

/-- The record that an occurrence makes in state `s`. -/
def Io.recordHead (s : Io) (o : Occ) : RecordHead :=
  { event := o.event, source := (match o.region with | some n => n + 4 | none => 0), chain := 0, position := 0,
    count := s.getF (Fld.CTL_EVT_COUNT o.event), tick := s.tick, obj := o.obj, detail := o.detail }

/-- The record of an occurrence goes to the EVENT rings and to the forward queue. -/
def Io.putRecord (s : Io) (o : Occ) : Io := ((s.writeRecords (s.recordHead o)).1.forwardRecord (s.recordHead o)).1

theorem Io.occur_of_not_canFire {s : Io} {o : Occ} (again : Bool) (h : s.canFire o = false) : s.occur o again = (s, []) := by
  simp [Io.occur, h]

theorem Io.occur_of_undefined {s : Io} {o : Occ} (again : Bool) (h : eventDefined o.event = false) : s.occur o again = (s, []) :=
  Io.occur_of_not_canFire again (by simp [Io.canFire, h])

/-- The message of the event goes out where its status bit was clear, or where a clear coincides (R505, R507). -/
def Io.announced (s : Io) (o : Occ) (again : Bool) : Io :=
  if (s.evtStatus o.event && !again) = true then s.tallied o again else (s.tallied o again).evtMessage o.event

/-- The stages of an occurrence that can fire. -/
theorem Io.occur_eq {s : Io} {o : Occ} (again : Bool) (h : s.canFire o = true) :
    (s.occur o again).1 = if (s.tallied o again).evtMask o.event = true then s.tallied o again else (s.announced o again).putRecord o := by
  unfold Io.occur
  rw [if_neg (by simp [h])]
  show Prod.fst (if (s.tallied o again).evtMask o.event = true then _ else _) = _
  split <;> rfl

/-! ### What each stage leaves -/

/-- The parts that events have besides the status words and the counts. -/
def eventPartsBeyondMark : Nat := eventParts - 2 ^ Part.CTL_EVT_STATUS - 2 ^ Part.CTL_EVT_COUNT

theorem beyondMark_clear_status : clear eventPartsBeyondMark Part.CTL_EVT_STATUS = true := by decide +kernel
theorem beyondMark_clear_count : clear eventPartsBeyondMark Part.CTL_EVT_COUNT = true := by decide +kernel

theorem Io.tallied_keeps_marked (s : Io) (o : Occ) (again : Bool) :
    Io.Keeps eventPartsBeyondMark (s.marked o.event again) (s.tallied o again) :=
  Io.countSource_keeps (Io.Keeps.refl _) (by unfold Sub; decide +kernel)

theorem Io.announced_keeps_marked (s : Io) (o : Occ) (again : Bool) :
    Io.Keeps eventPartsBeyondMark (s.marked o.event again) (s.announced o again) := by
  unfold Io.announced
  split
  · exact Io.tallied_keeps_marked s o again
  · exact Io.evtMessage_keeps (Io.tallied_keeps_marked s o again) (by unfold Sub; decide +kernel)

/-- After the mark, an occurrence touches no status word and no count. -/
theorem Io.occur_keeps_marked {s : Io} {o : Occ} (again : Bool) (h : s.canFire o = true) :
    Io.Keeps eventPartsBeyondMark (s.marked o.event again) (s.occur o again).1 := by
  rw [Io.occur_eq again h]
  split
  · exact Io.tallied_keeps_marked s o again
  · exact Io.forwardRecord_keeps (Io.writeRecords_keeps (Io.announced_keeps_marked s o again) (by unfold Sub; decide +kernel))
      (by unfold Sub; decide +kernel)

/-- The parts of an occurrence that is masked. -/
def tallyParts : Nat :=
  2 ^ Part.CTL_EVT_STATUS + 2 ^ Part.CTL_EVT_COUNT + 2 ^ Part.collector + 2 ^ Part.CTL_CNT_OVF_A + 2 ^ Part.CTL_CNT_OVF_B

theorem Io.marked_keeps (s : Io) (e : Nat) (again : Bool) : Io.Keeps tallyParts s (s.marked e again) := by
  have hcount : Has Part.CTL_EVT_COUNT tallyParts := by unfold Has; decide +kernel
  refine Io.bumpF_keeps (Io.setStatus_keeps ?_ (by unfold Sub; decide +kernel)) (RegOf.CTL_EVT_COUNT e) hcount
  split
  · exact Io.setF_keeps (Io.Keeps.refl s) (RegOf.CTL_EVT_COUNT e) hcount
  · exact Io.Keeps.refl s

theorem Io.tallied_keeps (s : Io) (o : Occ) (again : Bool) : Io.Keeps tallyParts s (s.tallied o again) :=
  Io.countSource_keeps (Io.marked_keeps s o.event again) (by unfold Sub; decide +kernel)

theorem Io.tallied_evtMask (s : Io) (o : Occ) (again : Bool) (e : Nat) : (s.tallied o again).evtMask e = s.evtMask e :=
  (Io.tallied_keeps s o again).evtMask (by decide +kernel) e

theorem Io.occur_of_masked {s : Io} {o : Occ} (again : Bool) (h : s.canFire o = true) (hm : s.evtMask o.event = true) :
    (s.occur o again).1 = s.tallied o again := by
  rw [Io.occur_eq again h, Io.tallied_evtMask, if_pos hm]

theorem Io.occur_of_unmasked {s : Io} {o : Occ} (again : Bool) (h : s.canFire o = true) (hm : s.evtMask o.event = false) :
    (s.occur o again).1 = (s.announced o again).putRecord o := by
  rw [Io.occur_eq again h, Io.tallied_evtMask, if_neg (by simp [hm])]

/-! ### What counting leaves beside the counters and their overflow bits -/

theorem Io.countOne_view {α : Type} (f : Io → α) (hcnt : ∀ (s : Io) (l : List (Nat × Nat)), f { s with cnt := l } = f s)
    (hreg : ∀ (s : Io) (a : Nat) (v : BitVec 32), f (s.setReg a v) = f s) (s : Io) (c : Nat) : f (s.countOne c).1 = f s := by
  unfold Io.countOne
  dsimp only
  split
  · exact hcnt s _
  · dsimp only
    split <;> rw [hreg, hcnt]

theorem Io.tallied_view {α : Type} (f : Io → α) (hcnt : ∀ (s : Io) (l : List (Nat × Nat)), f { s with cnt := l } = f s)
    (hreg : ∀ (s : Io) (a : Nat) (v : BitVec 32), f (s.setReg a v) = f s) (s : Io) (o : Occ) (again : Bool) :
    f (s.tallied o again) = f s := by
  have hmark : f (s.marked o.event again) = f s := by
    unfold Io.marked Io.bumpF Io.setStatus Io.setF
    rw [hreg, hreg]
    split
    · exact hreg s _ _
    · rfl
  rw [← hmark]
  unfold Io.tallied Io.countSource
  split
  · rfl
  · exact List.foldlRecOn (motive := fun (p : Io × List Occ) => f p.1 = f (s.marked o.event again)) _ _ rfl
      (fun p hp c _ => (Io.countOne_view f hcnt hreg p.1 c).trans hp)

/-! ### The mark -/

theorem Io.marked_evtStatus_same (s : Io) (e : Nat) (again : Bool) : (s.marked e again).evtStatus e = true := by
  unfold Io.marked Io.bumpF
  rw [Io.evtStatus_setCount, Io.evtStatus_setStatus_same]; rfl

theorem Io.marked_evtStatus_other (s : Io) {e x : Nat} (again : Bool) (he : e < 512) (hx : x < 512) (h : x ≠ e) :
    (s.marked e again).evtStatus x = s.evtStatus x := by
  unfold Io.marked Io.bumpF
  rw [Io.evtStatus_setCount, Io.evtStatus_setStatus _ he hx, decide_eq_false h, Bool.false_or]
  split
  · exact Io.evtStatus_setCount s e 0 x
  · rfl

/-- The count goes up by one and stays at 65,535 (R504). -/
theorem Io.marked_count (s : Io) (e : Nat) :
    (s.marked e false).getF (Fld.CTL_EVT_COUNT e) = min (s.getF (Fld.CTL_EVT_COUNT e) + 1) 65535 := by
  unfold Io.marked
  rw [Io.getF_bumpF_same _ _ _ (Fld.CTL_EVT_COUNT_fits e), Io.getF_count_setStatus]; rfl

/-- The count restarts at 1 where a clear of the bit coincides (R505). -/
theorem Io.marked_again_count (s : Io) (e : Nat) : (s.marked e true).getF (Fld.CTL_EVT_COUNT e) = 1 := by
  unfold Io.marked
  rw [Io.getF_bumpF_same _ _ _ (Fld.CTL_EVT_COUNT_fits e), Io.getF_count_setStatus, if_pos rfl,
    Io.getF_setF_same _ _ _ (Fld.CTL_EVT_COUNT_fits e)]; rfl

theorem Io.marked_count_other (s : Io) {e x : Nat} (again : Bool) (he : e < 512) (hx : x < 512) (h : x ≠ e) :
    (s.marked e again).getF (Fld.CTL_EVT_COUNT x) = s.getF (Fld.CTL_EVT_COUNT x) := by
  have hr := Fld.CTL_EVT_COUNT_ne he hx h
  unfold Io.marked
  rw [Io.getF_bumpF_other _ _ hr, Io.getF_count_setStatus]
  split
  · exact Io.getF_setF_other s 0 hr
  · rfl

/-! ### The whole occurrence -/

/-- The set wins over a clear of the same cycle (R14, R505). -/
theorem Io.occur_again_recorded {s : Io} {o : Occ} (h : s.canFire o = true) : (s.occur o true).1.evtStatus o.event = true := by
  rw [(Io.occur_keeps_marked true h).evtStatus beyondMark_clear_status, Io.marked_evtStatus_same]

theorem Io.occur_count_same {s : Io} {o : Occ} (again : Bool) (h : s.canFire o = true) :
    (s.occur o again).1.getF (Fld.CTL_EVT_COUNT o.event) = (s.marked o.event again).getF (Fld.CTL_EVT_COUNT o.event) :=
  (Io.occur_keeps_marked again h).evtCount beyondMark_clear_count o.event

/-- An occurrence leaves the status bit and the count of every other event (those it causes are occurrences of their own). -/
theorem Io.occur_other {s : Io} {o : Occ} {x : Nat} (again : Bool) (h : s.canFire o = true) (hx : x < 512) (hne : x ≠ o.event) :
    (s.occur o again).1.evtStatus x = s.evtStatus x ∧
      (s.occur o again).1.getF (Fld.CTL_EVT_COUNT x) = s.getF (Fld.CTL_EVT_COUNT x) := by
  have he := eventDefined_lt (Io.canFire_defined h)
  have hk := Io.occur_keeps_marked again h
  exact ⟨(hk.evtStatus beyondMark_clear_status x).trans (Io.marked_evtStatus_other s again he hx hne),
    (hk.evtCount beyondMark_clear_count x).trans (Io.marked_count_other s again he hx hne)⟩

/-- A masked occurrence writes no record and neither sends a message nor leaves one pending. -/
theorem Io.occur_masked_quiet {s : Io} {o : Occ} (again : Bool) (h : s.canFire o = true) (hm : s.evtMask o.event = true) :
    (s.occur o again).1.rings = s.rings ∧ (s.occur o again).1.out = s.out ∧ (s.occur o again).1.fwd = s.fwd ∧
      ∀ n, (s.occur o again).1.getReg (Reg.HRG_MSIX_PBA n) = s.getReg (Reg.HRG_MSIX_PBA n) := by
  rw [Io.occur_of_masked again h hm]
  exact ⟨Io.tallied_view Io.rings (fun _ _ => rfl) (fun _ _ _ => rfl) s o again,
    Io.tallied_view Io.out (fun _ _ => rfl) (fun _ _ _ => rfl) s o again,
    Io.tallied_view Io.fwd (fun _ _ => rfl) (fun _ _ _ => rfl) s o again,
    fun n => (Io.tallied_keeps s o again).getReg (RegOf.HRG_MSIX_PBA n) (by decide) (by decide +kernel)⟩

/-- An unmasked occurrence is delivered: its message where the bit was clear or is cleared in the same cycle, and a record with the new count. -/
theorem Io.occur_delivered {s : Io} {o : Occ} (again : Bool) (h : s.canFire o = true) (hm : s.evtMask o.event = false) :
    ∃ (u : Io) (r : RecordHead), r.event = o.event ∧ r.obj = o.obj ∧ r.detail = o.detail ∧
      r.count = (s.marked o.event again).getF (Fld.CTL_EVT_COUNT o.event) ∧ u.evtStatus o.event = true ∧
      (s.occur o again).1 = (((if (s.evtStatus o.event && !again) = true then u else u.evtMessage o.event).writeRecords r).1.forwardRecord r).1 := by
  refine ⟨s.tallied o again, (s.announced o again).recordHead o, rfl, rfl, rfl, ?_, ?_, Io.occur_of_unmasked again h hm⟩
  · exact (Io.announced_keeps_marked s o again).evtCount beyondMark_clear_count o.event
  · rw [(Io.tallied_keeps_marked s o again).evtStatus beyondMark_clear_status, Io.marked_evtStatus_same]

end Sys2Proof.Machine
end

section
/-! A write to a status word acts on the bits that are written 1 (R505), and one to a count acts on nothing. -/

namespace Sys2Proof.Machine

/-! ### A write of a single status bit -/

theorem bit_two_pow (b i : Nat) : bit (2 ^ b) i = decide (b = i) := by
  rw [← Nat.testBit_two_pow, Nat.testBit_eq_decide_div_mod_eq]; rfl

/-- A fold over a range in which one step alone acts. -/
theorem foldl_range_single {α : Type} {f : α → Nat → α} {b : Nat} (h : ∀ s x, x ≠ b → f s x = s) (n : Nat) (hb : b < n) (s : α) :
    (List.range n).foldl f s = f s b := by
  have hbelow : ∀ k, k ≤ b → (List.range k).foldl f s = s := by
    intro k hk
    induction k with
    | zero => rfl
    | succ k ih => rw [List.range_succ, List.foldl_append, ih (by omega)]; exact h s k (by omega)
  induction n with
  | zero => omega
  | succ n ih =>
    rw [List.range_succ, List.foldl_append]
    by_cases hn : n = b
    · subst hn; rw [hbelow n le_rfl]; rfl
    · rw [ih (by omega)]; exact h _ n hn

/-- What a write of 1 to the status bit of event `e` does. -/
def State.clearEvent (s : State) (e : Nat) (coincident : List Nat) : State :=
  if eventDefined e = false then s
  else if coincident.contains e ∧ s.io.collecting then s.on (fun io => Io.settle (io.occur { event := e } true))
  else s.on (fun io => (io.setStatus e 0).setF (Fld.CTL_EVT_COUNT e) 0)

theorem State.clearStatus_two_pow (s : State) (i : Nat) {b : Nat} (coincident : List Nat) (hb : b < 32) :
    s.clearStatus i (2 ^ b) coincident = s.clearEvent (32 * i + b) coincident := by
  unfold State.clearStatus
  rw [foldl_range_single (b := b) _ 32 hb]
  · simp [State.clearEvent, bit_two_pow]
  · intro t x hx
    simp [bit_two_pow, hx.symm]

theorem State.clearEvent_of_undefined {s : State} {e : Nat} (coincident : List Nat) (h : eventDefined e = false) : s.clearEvent e coincident = s :=
  if_pos h

theorem State.clearEvent_alone {s : State} {e : Nat} (h : eventDefined e = true) :
    (s.clearEvent e []).io = (s.io.setStatus e 0).setF (Fld.CTL_EVT_COUNT e) 0 := by
  simp [State.clearEvent, h]

theorem State.clearEvent_coincident {s : State} {e : Nat} (h : s.io.canFire { event := e } = true) :
    (s.clearEvent e [e]).io = Io.settle (s.io.occur { event := e } true) := by
  have hd : eventDefined e = true := Io.canFire_defined h
  have hc : s.io.collecting = true := by simp only [Io.canFire, Bool.and_eq_true] at h; exact h.1.1.1
  simp [State.clearEvent, hd, hc]

/-! ### A write of a count -/

/-- The row of CTL_EVT_COUNT: read-only, and no write of it acts. -/
def evtCountRow : RegRow := ⟨0x2800, [(512, 4)], 0, 0, 0, 0, 0, 0, 0, 0⟩

theorem regRow_CTL_EVT_COUNT (n : Nat) : regRow (Reg.CTL_EVT_COUNT n) = some (evtCountRow, n % 512) := by
  have hrow : ∀ k : Fin 512, regRow (0x2800 + 4 * k.val) = some (evtCountRow, k.val) := by decide +kernel
  exact hrow ⟨n % 512, Nat.mod_lt n (by omega)⟩

/-- Merging under an empty mask gives the old word back. -/
theorem mergeBits_mask_zero {old : Nat} (v : Nat) (h : old < 2 ^ 32) : mergeBits old v 0 = old := by
  show (old &&& (2 ^ 32 - 1)) ||| (v &&& 0) = old
  rw [Nat.and_two_pow_sub_one_of_lt_two_pow h, Nat.and_zero, Nat.or_zero]

/-- A write to a register whose row has no writable bit, and that acts on nothing, stores the word that the register holds. -/
theorem State.performWrite_count (s : State) (n v : Nat) :
    (s.performWrite (Reg.CTL_EVT_COUNT n) v evtCountRow (n % 512) false).io =
      s.io.setReg (Reg.CTL_EVT_COUNT n) (s.io.getReg (Reg.CTL_EVT_COUNT n)) := by
  have hlow := Reg.CTL_EVT_COUNT_lt n
  have hpage : ¬ Reg.CTL_EVT_COUNT n / 0x20000 = 14 := by omega
  have hlast : s.performWrite (Reg.CTL_EVT_COUNT n) v evtCountRow (n % 512) false =
      s.on (fun io => io.setReg (Reg.CTL_EVT_COUNT n)
        (BitVec.ofNat 32 (mergeBits (Nat.land (io.getReg (Reg.CTL_EVT_COUNT n)).toNat (Nat.xor 0xFFFFFFFF (Nat.land v 0))) v 0))) :=
    (if_neg hpage).trans rfl
  have hword : (s.io.getReg (Reg.CTL_EVT_COUNT n)).toNat &&& (2 ^ 32 - 1) = (s.io.getReg (Reg.CTL_EVT_COUNT n)).toNat :=
    Nat.and_two_pow_sub_one_of_lt_two_pow (s.io.getReg (Reg.CTL_EVT_COUNT n)).isLt
  have hcleared : Nat.land (s.io.getReg (Reg.CTL_EVT_COUNT n)).toNat (Nat.xor 0xFFFFFFFF (Nat.land v 0)) =
      (s.io.getReg (Reg.CTL_EVT_COUNT n)).toNat := by
    rw [show Nat.land v 0 = 0 from Nat.and_zero v]; exact hword
  rw [hlast, State.on_io, hcleared, mergeBits_mask_zero v (s.io.getReg (Reg.CTL_EVT_COUNT n)).isLt, BitVec.ofNat_toNat, BitVec.setWidth_eq]

theorem State.writeReg_count (s : State) (n v a : Nat) :
    (s.writeReg (Reg.CTL_EVT_COUNT n) v).1.io.getReg a = s.io.getReg a := by
  have hlow := Reg.CTL_EVT_COUNT_lt n
  have hwindow : ¬ 0x400000 ≤ Reg.CTL_EVT_COUNT n := by omega
  have hmirror : ¬ (0x380000 ≤ Reg.CTL_EVT_COUNT n ∧ Reg.CTL_EVT_COUNT n < 0x390000) := by omega
  unfold State.writeReg
  rw [if_neg hwindow, if_neg hmirror, regRow_CTL_EVT_COUNT]
  dsimp only
  split
  · rfl
  · rw [if_neg (by simp [evtCountRow]), State.performWrite_count, Io.getReg_setReg_self]

/-- A path that reaches a count's register writes it as `State.writeReg` does. -/
theorem State.pathWrite_of_accepts {s : State} {p : RegPath} {a : Nat} (v : Nat) (h : s.Accepts p a) (ha : a < 0x400000) :
    s.pathWrite p a v = s.writeReg a v := by
  obtain ⟨hopen, hmode, hhost, -⟩ := h
  unfold State.pathWrite
  rw [if_neg (by simp [hopen]), if_neg (by omega), if_neg hmode, if_neg (fun hp => by simp [hhost hp.1] at hp)]

end Sys2Proof.Machine
end

section
/-! Events and counters (chapter 20): the wrap of a counter, the registers at reset, and the statements. -/

namespace Sys2Proof.Machine

/-- Settles O9: an occurrence is its mark, which R504 gives, and stages that touch no status word and no count. -/
theorem occurrenceSetsStatusAndCount : Obligations.OccurrenceSetsStatusAndCount := by
  refine ⟨fun s i b _ hb hd => ?_, fun s o => ⟨Io.occur_of_undefined false, fun h => ⟨?_, ?_, Io.occur_masked_quiet false h, fun hm => ?_⟩,
    fun e he hd => ?_⟩⟩
  · rw [State.clearStatus_two_pow s i [] hb, State.clearEvent_of_undefined [] hd]
  · exact Io.occur_recorded s o h
  · rw [Io.occur_count_same false h, Io.marked_count]
  · obtain ⟨u, r, hevent, hobj, hdetail, hcount, hstatus, heq⟩ := Io.occur_delivered false h hm
    exact ⟨u, r, hevent, hobj, hdetail, by rw [hcount, Io.marked_count], hstatus, by simpa using heq⟩
  · cases h : s.canFire o with
    | false => rw [Io.occur_of_not_canFire false h]; exact ⟨rfl, rfl⟩
    | true =>
      have hne : e ≠ o.event := by rintro rfl; simp [Io.canFire_defined h] at hd
      exact Io.occur_other false h he hne

/-- Settles O10: a write of one status bit is one step of the fold, which clears or, with a coincident occurrence, marks afresh. -/
theorem statusWriteClears : Obligations.StatusWriteClears := by
  intro s i b _ hb
  rw [State.clearStatus_two_pow s i [] hb, State.clearStatus_two_pow s i _ hb]
  refine ⟨fun hd => ?_, fun h => ⟨State.clearEvent_coincident h, Io.occur_again_recorded h, ?_, fun hm => ?_⟩, fun p v hacc a => ?_⟩
  · rw [State.clearEvent_alone hd, Io.evtStatus_setCount, Io.evtStatus_setStatus_same, Io.getF_setF_same _ _ _ (Fld.CTL_EVT_COUNT_fits _)]
    exact ⟨rfl, rfl⟩
  · rw [Io.occur_count_same true h, Io.marked_again_count]
  · obtain ⟨u, r, -, -, -, hcount, hstatus, heq⟩ := Io.occur_delivered true h hm
    exact ⟨u, r, hstatus, by rw [hcount, Io.marked_again_count], by simpa using heq⟩
  · rw [State.pathWrite_of_accepts v hacc ((Reg.CTL_EVT_COUNT_lt _).trans (by decide)), State.writeReg_count]

/-! ### The wrap of a counter -/

theorem Io.countOne_of_full {s : Io} {c : Nat} (h : Sparse.get (fun _ => 0) s.cnt c = 2 ^ 48 - 1) :
    s.countOne c =
      ((if c < 32 then Io.setReg { s with cnt := Sparse.set (fun _ => 0) s.cnt c 0 } Reg.CTL_CNT_OVF_A
          (BitVec.ofNat 32 (putBits (s.getReg Reg.CTL_CNT_OVF_A).toNat c 1 1))
        else Io.setReg { s with cnt := Sparse.set (fun _ => 0) s.cnt c 0 } Reg.CTL_CNT_OVF_B
          (BitVec.ofNat 32 (putBits (s.getReg Reg.CTL_CNT_OVF_B).toNat (c % 32) 1 1))), [{ event := 18 }]) := by
  unfold Io.countOne
  rw [h]
  exact if_neg (by omega)

theorem bit_putBits_one (v i : Nat) : bit (putBits v i 1 1) i = true := by
  rw [bit_eq_bits, bits_putBits]; rfl

/-- Settles O11: a counter that cannot count to 2^48 takes the wrapping branch, and what that branch answers fires. -/
theorem counterWraps : Obligations.CounterWraps := by
  intro s c hc hfull
  have hone := Io.countOne_of_full hfull
  refine ⟨?_, fun hlow => ?_, fun hhigh => ?_, fun h => ?_⟩
  · have hcnt : (s.countOne c).1.cnt = Sparse.set (fun _ => 0) s.cnt c 0 := by rw [hone]; dsimp only; split <;> rfl
    rw [hcnt, Sparse.get_set_same]
  · rw [hone, if_pos hlow, Io.getReg_setReg_same, Io.toNat_putBits _ _ _ _ _ (by omega), bit_putBits_one]
  · rw [hone, if_neg (by omega), Io.getReg_setReg_same, Io.toNat_putBits _ _ _ _ _ (by omega), show c % 32 = c - 32 by omega, bit_putBits_one]
  · have hfire : (s.countOne c).1.canFire { event := 18 } = true := by
      rw [(Io.countOne_keeps (c := c) (Io.Keeps.refl s) (Sub.self _)).canFire (by decide +kernel) (by decide +kernel), h]
    have hmem : ({ event := 18 } : Occ) ∈ (s.countOne c).2 := by rw [hone]; exact List.mem_singleton_self _
    exact Io.fires_recorded (s.countOne c).1 (s.countOne c).2 { event := 18 } hmem hfire

/-! ### Reset -/

/-- The register file lists nothing at reset: every register reads what its table gives. -/
theorem State.reset_getReg (a : Nat) : State.reset.io.getReg a = regReset a := rfl

/-- Settles O7: each register reads the reset value of its row. -/
theorem resetValues : Obligations.ResetValues := by
  unfold Obligations.ResetValues
  simp only [State.reset_getReg]
  refine ⟨?_, ?_, ?_, ?_, ?_, ?_, ?_, ?_, ?_, ?_, ?_, ?_, ?_, ?_, ?_, rfl, rfl, rfl⟩ <;> decide +kernel

end Sys2Proof.Machine
end

section
/-! The queue, the canonical form, time and the numbering of free values: what the lemma of each command says, for any command. Device DRAM
reads what was written. -/

set_option Elab.async false

namespace Sys2Proof.Machine

/-! ### A step -/

/-- Settles O1: the step is a match on the queue. -/
theorem stepTakesFrontCommand : Obligations.StepTakesFrontCommand := by
  refine ⟨fun s c rest h => ?_, fun s h => ?_⟩ <;> unfold step <;> rw [h]

/-- Settles O2: every arm of `exec` answers a next state. -/
theorem everyCommandIsCarriedOut : Obligations.EveryCommandIsCarriedOut := by
  intro c s
  cases c <;> exact ⟨_, rfl⟩

/-- Settles O3: the queue is a part that no command touches. -/
theorem commandsLeaveTheQueue : Obligations.CommandsLeaveTheQueue := fun c s t h =>
  ((exec_keeps c s).next t h).pending

/-- A step keeps the shared part of the state in form, and neither time nor the numbering of free values goes back. -/
theorem step_keeps_io {s t : State} (h : step s = .next t) : (s.io.Formed → t.io.Formed) ∧ s.io.now ≤ t.io.now ∧ s.io.fresh ≤ t.io.fresh := by
  cases hp : s.pending with
  | nil =>
    rw [stepTakesFrontCommand.2 s hp] at h
    cases h
    exact ⟨id, le_rfl, le_rfl⟩
  | cons c rest =>
    rw [stepTakesFrontCommand.1 s c rest hp] at h
    have hk := ((exec_keeps c { s with pending := rest }).next t h).io
    exact ⟨hk.formed, hk.upNow, hk.upFresh⟩

/-- Settles O4: the four parts of the form are those of `Io.Formed`, which every operation of the device keeps. -/
theorem stepKeepsCanonicalForm : Obligations.StepKeepsCanonicalForm := by
  intro s t h hregs hdram hrings hops
  obtain ⟨hdram', hregs', hrings', hops'⟩ := (step_keeps_io h).1 ⟨hdram, hregs, hrings, hops⟩
  exact ⟨hregs', hdram', hrings', hops'⟩

/-- Settles O5: reset lists no register, no byte and no ring. -/
theorem resetIsCanonical : Obligations.ResetIsCanonical := ⟨rfl, rfl, rfl, rfl⟩

/-- Settles O6: no operation of the device lowers either number. -/
theorem timeNeverGoesBack : Obligations.TimeNeverGoesBack := fun _ _ h => (step_keeps_io h).2

/-! ### Device DRAM -/

/-- Settles O8: a byte inside the range is one that was written, and a byte outside it is apart from every one that was. -/
theorem dramHoldsWhatIsWritten : Obligations.DramHoldsWhatIsWritten := by
  intro s a bs b
  show [Sparse.get dramDefault (memWrite dramDefault s.dram a bs) b] = if a ≤ b ∧ b < a + bs.length then _ else [Sparse.get dramDefault s.dram b]
  split
  · next h =>
    have hb : b = a + (b - a) := by omega
    rw [hb, memWrite_same bs (by omega), Nat.add_sub_cancel_left]
  · next h => rw [memWrite_other bs (by omega)]

end Sys2Proof.Machine
end

section
/-! Writes of the registers that act: which row a write of such a register reaches, and what it does there (R11, R104, R487). -/

set_option Elab.async false

namespace Sys2Proof.Machine

/-! ### The row of a register that acts -/

/-- The row of offset `a` has base `base`, is reached with index `i`, and has no bit that the image locks. -/
def actsAs (a base i : Nat) : Bool := (regRow a).any (fun x => x.1.base == base && x.2 == i && x.1.rwl == 0)

theorem regRow_of_actsAs {a base i : Nat} (h : actsAs a base i = true) : ∃ r, regRow a = some (r, i) ∧ r.base = base ∧ r.rwl = 0 := by
  unfold actsAs at h
  cases hr : regRow a with
  | none => simp [hr] at h
  | some x =>
    obtain ⟨r, j⟩ := x
    simp only [hr, Option.any_some, Bool.and_eq_true, beq_iff_eq] at h
    obtain ⟨⟨hbase, rfl⟩, hrwl⟩ := h
    exact ⟨r, rfl, hbase, hrwl⟩

theorem actsAs_MTR_CAL_CMD : actsAs Reg.MTR_CAL_CMD Reg.MTR_CAL_CMD 0 = true := by decide +kernel
theorem actsAs_PAIR_TEST : actsAs Reg.PAIR_TEST Reg.PAIR_TEST 0 = true := by decide +kernel
theorem actsAs_THM_TEST : actsAs Reg.THM_TEST Reg.THM_TEST 0 = true := by decide +kernel
theorem actsAs_LBD_TEST : actsAs Reg.LBD_TEST Reg.LBD_TEST 0 = true := by decide +kernel
theorem actsAs_CTL_CNT_GLOBAL : actsAs Reg.CTL_CNT_GLOBAL Reg.CTL_CNT_GLOBAL 0 = true := by decide +kernel

theorem actsAs_LNK_TEST {p : Nat} (h : p < 16) : actsAs (Reg.LNK_TEST (p / 4) (p % 4)) (Reg.LNK_TEST 0 0) p = true := by
  have hrow : ∀ q : Fin 16, actsAs (Reg.LNK_TEST (q.val / 4) (q.val % 4)) (Reg.LNK_TEST 0 0) q.val = true := by decide +kernel
  exact hrow ⟨p, h⟩

theorem actsAs_CTL_EVT_MASK {i : Nat} (h : i < 16) : actsAs (Reg.CTL_EVT_MASK i) (Reg.CTL_EVT_MASK 0) i = true := by
  have hrow : ∀ q : Fin 16, actsAs (Reg.CTL_EVT_MASK q.val) (Reg.CTL_EVT_MASK 0) q.val = true := by decide +kernel
  exact hrow ⟨i, h⟩

theorem actsAs_CTL_CNT_CFG {c : Nat} (h : c < 64) : actsAs (Reg.CTL_CNT_CFG c) (Reg.CTL_CNT_CFG 0) c = true := by
  have hrow : ∀ q : Fin 64, actsAs (Reg.CTL_CNT_CFG q.val) (Reg.CTL_CNT_CFG 0) q.val = true := by decide +kernel
  exact hrow ⟨c, h⟩

/-! ### What a write that reaches its row does -/

section
variable (s : State) (v i : Nat) {r : RegRow}

theorem State.performWrite_MTR_CAL_CMD (hb : r.base = Reg.MTR_CAL_CMD) :
    s.performWrite Reg.MTR_CAL_CMD v r i false = if !s.io.meterUp || !s.isF Fld.MTR_HEALTH_CAL_EN then s else s.calCommand (v % 256) := by
  unfold State.performWrite; rw [hb]; rfl

theorem State.performWrite_PAIR_TEST (hb : r.base = Reg.PAIR_TEST) : s.performWrite Reg.PAIR_TEST v r i false = s.writePairTest v := by
  unfold State.performWrite; rw [hb]; rfl

theorem State.performWrite_THM_TEST (hb : r.base = Reg.THM_TEST) :
    s.performWrite Reg.THM_TEST v r i false = if bit v 0 then s.shutdown 5 else s := by
  unfold State.performWrite; rw [hb]; rfl

theorem State.performWrite_LBD_TEST (hb : r.base = Reg.LBD_TEST) : s.performWrite Reg.LBD_TEST v r i false = s.writeBoardTest v := by
  unfold State.performWrite; rw [hb]; rfl

theorem State.performWrite_CTL_CNT_GLOBAL (hb : r.base = Reg.CTL_CNT_GLOBAL) : s.performWrite Reg.CTL_CNT_GLOBAL v r i false = s.writeGlobal v := by
  unfold State.performWrite; rw [hb]; rfl

theorem State.performWrite_LNK_TEST (n k : Nat) (hb : r.base = Reg.LNK_TEST 0 0) :
    s.performWrite (Reg.LNK_TEST n k) v r i false = s.writeLinkTest i v := by
  have hpage : ¬ Reg.LNK_TEST n k / 0x20000 = 14 := by unfold Reg.LNK_TEST; omega
  unfold State.performWrite; rw [if_neg hpage, hb]; rfl

theorem State.performWrite_CTL_EVT_MASK (n : Nat) (hb : r.base = Reg.CTL_EVT_MASK 0) :
    s.performWrite (Reg.CTL_EVT_MASK n) v r i false = s.writeMask i v := by
  have hpage : ¬ Reg.CTL_EVT_MASK n / 0x20000 = 14 := by unfold Reg.CTL_EVT_MASK; omega
  unfold State.performWrite; rw [if_neg hpage, hb]; rfl

theorem State.performWrite_CTL_CNT_CFG (n : Nat) (hb : r.base = Reg.CTL_CNT_CFG 0) :
    s.performWrite (Reg.CTL_CNT_CFG n) v r i false = s.writeCounter i v := by
  have hpage : ¬ Reg.CTL_CNT_CFG n / 0x20000 = 14 := by unfold Reg.CTL_CNT_CFG; omega
  unfold State.performWrite; rw [if_neg hpage, hb]; rfl

end

@[simp] theorem State.writeLinkTest_retry (s : State) (p : Nat) : s.writeLinkTest p 1 = s.linkRetry p := rfl
@[simp] theorem State.writeLinkTest_force (s : State) (p : Nat) : s.writeLinkTest p 2 = s.linkForce p := rfl

/-! ### Writes that reach a register -/

/-- A write to a present register below the windows of the rings and of BAR2 is the write of its row; a locked field is kept and event 1 fires. -/
theorem State.writeReg_of_row {s : State} {a : Nat} (v : Nat) {r : RegRow} {i : Nat} (ha : a < 0x380000) (hrow : regRow a = some (r, i))
    (hp : s.io.regPresent a = true) :
    s.writeReg a v = if r.rwl ≠ 0 ∧ s.boot.locked = true then ((s.performWrite a v r i true).fire 1, 1) else (s.performWrite a v r i false, 0) := by
  unfold State.writeReg
  rw [if_neg (by omega), if_neg (by omega), hrow]
  dsimp only
  rw [hp]; rfl

theorem State.pathWrite_of_actsAs {s : State} {p : RegPath} {a base i : Nat} (v : Nat) (hacc : s.Accepts p a) (hacts : actsAs a base i = true)
    (ha : a < 0x380000) : ∃ r : RegRow, r.base = base ∧ (s.pathWrite p a v).1 = s.performWrite a v r i false := by
  obtain ⟨r, hrow, hbase, hrwl⟩ := regRow_of_actsAs hacts
  refine ⟨r, hbase, ?_⟩
  rw [State.pathWrite_of_accepts v hacc (by omega), State.writeReg_of_row v ha hrow hacc.present, if_neg (by simp [hrwl])]

/-! ### What a write of a register that acts leaves alone -/

/-- Whatever comes of such a write, it touches no part but those of events and those of the row's write. -/
theorem State.pathWrite_keeps_of_actsAs {m : Nat} {s : State} {p : RegPath} {a v base i : Nat} (hacts : actsAs a base i = true) (ha : a < 0x380000)
    (hev : Sub eventParts m) (hw : ∀ r : RegRow, r.base = base → State.Keeps m s (s.performWrite a v r i false)) :
    State.Keeps m s (s.pathWrite p a v).1 := by
  obtain ⟨r, hrow, hbase, hrwl⟩ := regRow_of_actsAs hacts
  have hfire : ∀ e, State.Keeps m s (s.fire e) := fun e => State.fire_keeps (.refl s) hev
  have hreg : State.Keeps m s (s.writeReg a v).1 := by
    cases hp : s.io.regPresent a with
    | true =>
      rw [State.writeReg_of_row v ha hrow hp, if_neg (by simp [hrwl])]
      exact hw r hbase
    | false =>
      have hskip : s.writeReg a v = (s, 0) := by
        unfold State.writeReg
        rw [if_neg (by omega), if_neg (by omega), hrow]
        simp [hp]
      rw [hskip]
      exact .refl s
  unfold State.pathWrite
  exact State.ite_keeps_fst (.refl s) (State.ite_keeps_fst hreg
    (State.ite_keeps_fst (State.ite_keeps_fst hreg (.refl s)) (State.ite_keeps_fst (hfire 70) hreg)))

end Sys2Proof.Machine
end

section
/-! Frames: the parts that each command touches, by the lemma of its meaning, lie in the list that the statement gives. -/

set_option Elab.async false

namespace Sys2Proof.Machine

/-- The parts of a lemma lie in a list. -/
theorem sub_maskOf {a : Nat} {l : List Nat} (h : Nat.beq (Nat.land a (maskOf l)) a = true) : Sub a (maskOf l) := Nat.eq_of_beq_eq_true h

/-- What a command keeps outside the parts that its lemma names is the frame of its statement, where the statement's list has those parts. -/
theorem only_of_keeps {a : Nat} {l : List Nat} {s t : State} {r : Result} (k : Sub a (maskOf l) → Result.Keeps (maskOf l) s r)
    (h : Nat.beq (Nat.land a (maskOf l)) a = true := by decide +kernel) (e : r = .next t) : State.Only l s t :=
  ((k (sub_maskOf h)).next t e).only

/-! ### Lists with every register -/

/-- Where the list has every register, the parts of the lemma that are no registers lie in it. -/
theorem only_of_keeps_anyReg {a : Nat} {l : List Nat} {s t : State} {r : Result} (k : Sub a a → Result.Keeps a s r) (ha : Part.anyReg ∈ l)
    (h : (List.range 24).all (fun p => !a.testBit p || l.contains p) = true := by decide +kernel) (e : r = .next t) : State.Only l s t := by
  have hk := (k (Nat.and_self a)).next t e
  have hp : ∀ p, p < 24 → Has p a → p ∈ l := fun p hlt hhas => by
    have hall := List.all_eq_true.mp h p (List.mem_range.mpr hlt)
    unfold Has at hhas
    simpa [hhas] using hall
  have hsame : ∀ {α : Type} {p : Nat} {x y : α}, p < 24 → Alike p a x y → Same p l x y := fun hlt halike =>
    halike.imp (hp _ hlt) id
  exact ⟨hsame (by decide) hk.tick, hsame (by decide) hk.link, hsame (by decide) hk.tiles, hsame (by decide) hk.chans,
    hsame (by decide) hk.host, hsame (by decide) hk.plan, hsame (by decide) hk.boot, hsame (by decide) hk.therm,
    hsame (by decide) hk.pairUnit, hsame (by decide) hk.video, hsame (by decide) hk.lamp, hsame (by decide) hk.wall,
    hsame (by decide) hk.audio, hsame (by decide) hk.meter, hsame (by decide) hk.jtag, hsame (by decide) hk.io.rings,
    hsame (by decide) hk.io.tc, hsame (by decide) hk.io.walks, hsame (by decide) hk.io.ops, hsame (by decide) hk.io.reads,
    hsame (by decide) hk.io.badReads, hsame (by decide) hk.io.bar2, hsame (by decide) hk.io.owed, hsame (by decide) hk.io.maxRead,
    hsame (by decide) hk.io.dram, hsame (by decide) hk.io.cnt, hsame (by decide) hk.io.fwd, hsame (by decide) hk.io.fwdLost,
    hsame (by decide) hk.io.once, hsame (by decide) hk.io.latch, hsame (by decide) hk.io.wideHold, hsame (by decide) hk.io.snap,
    hsame (by decide) hk.io.meterUp, hsame (by decide) hk.io.linkUp, hsame (by decide) hk.io.d3hot, hsame (by decide) hk.io.out,
    hsame (by decide) hk.io.fresh, hsame (by decide) hk.io.now, fun x hnone => absurd (RegOf.anyReg x) (hnone _ ha)⟩

/-! ### Commands that write a register that acts -/

section
variable {l : List Nat} {s t u : State}

theorem only_of_next (h : State.Keeps (maskOf l) s u) (e : (.next u : Result) = .next t) : State.Only l s t := ((Result.next_keeps h).next t e).only

/-- The write of a register that acts keeps what the write of its row keeps, in a list with the parts of events. -/
theorem keeps_of_acting {p : RegPath} {a v base i : Nat} (hacts : actsAs a base i = true) (ha : a < 0x380000)
    (hw : ∀ r : RegRow, r.base = base → State.Keeps (maskOf l) s (s.performWrite a v r i false))
    (hev : Nat.beq (Nat.land eventParts (maskOf l)) eventParts = true := by decide +kernel) :
    State.Keeps (maskOf l) s (s.pathWrite p a v).1 :=
  State.pathWrite_keeps_of_actsAs hacts ha (sub_maskOf hev) hw

theorem keeps_of_linkTest {port v : Nat} {p : RegPath} (hw : State.Keeps (maskOf l) s (s.writeLinkTest port v))
    (hev : Nat.beq (Nat.land eventParts (maskOf l)) eventParts = true := by decide +kernel) :
    State.Keeps (maskOf l) s (if 16 ≤ port then s else (s.pathWrite p (Reg.LNK_TEST (port / 4) (port % 4)) v).1) := by
  split
  · exact .refl s
  · next h =>
    refine keeps_of_acting (actsAs_LNK_TEST (Nat.lt_of_not_le h)) (by unfold Reg.LNK_TEST; omega) (fun r hr => ?_) hev
    rwa [State.performWrite_LNK_TEST s v port _ _ hr]

theorem keeps_of_pairTest {v : Nat} {p : RegPath} (hw : State.Keeps (maskOf l) s (s.writePairTest v))
    (hev : Nat.beq (Nat.land eventParts (maskOf l)) eventParts = true := by decide +kernel) :
    State.Keeps (maskOf l) s (s.pathWrite p Reg.PAIR_TEST v).1 :=
  keeps_of_acting actsAs_PAIR_TEST (by decide) (fun r hr => by rwa [State.performWrite_PAIR_TEST s v 0 hr]) hev

theorem keeps_of_thermTest {p : RegPath} (hw : State.Keeps (maskOf l) s (s.shutdown 5))
    (hev : Nat.beq (Nat.land eventParts (maskOf l)) eventParts = true := by decide +kernel) :
    State.Keeps (maskOf l) s (s.pathWrite p Reg.THM_TEST 1).1 :=
  keeps_of_acting actsAs_THM_TEST (by decide) (fun r hr => by rwa [State.performWrite_THM_TEST s 1 0 hr, if_pos (by decide)]) hev

end

/-- Bits of the registers MTR_CAL_CMD and MTR_CAL_STAT. -/
def calParts : Nat := 2 ^ Part.MTR_CAL_CMD + 2 ^ Part.MTR_CAL_STAT

/-- What calibration command `v` does once it is taken (R453). -/
def State.calAct (s : State) (v : Nat) : State :=
  match v % 256 with
  | 0 => s.calResult 0
  | 1 => s.calStart
  | 2 | 3 | 4 => s.calRun (v % 256)
  | 5 => s.calDelay
  | 6 => s.calCommit
  | 7 => if !s.isF Fld.MTR_CAL_STAT_SESSION || s.meter.closing then s.calResult 2 else s.calAbort.calResult 0
  | 8 => s.calSeal
  | _ => s.calResult 10

theorem State.calCommand_eq (s : State) (v : Nat) :
    s.calCommand v = if !s.io.meterUp || !s.isF Fld.MTR_HEALTH_CAL_EN then s
      else if s.isF Fld.MTR_CAL_STAT_BUSY then s.setF Fld.MTR_CAL_STAT_RESULT 1
      else if (s.setF Fld.MTR_CAL_CMD_CMD v).isF Fld.MTR_CAL_STAT_SEAL_PENDING then (s.setF Fld.MTR_CAL_CMD_CMD v).calResult 9
      else (s.setF Fld.MTR_CAL_CMD_CMD v).calAct v := rfl

theorem State.calAct_bad (s : State) {v : Nat} (h : 9 ≤ v) (hv : v < 256) : s.calAct v = s.calResult 10 := by
  obtain ⟨k, rfl⟩ := Nat.exists_eq_add_of_le' h
  unfold State.calAct
  rw [Nat.mod_eq_of_lt hv]
  rfl

/-- A calibration command touches MTR_CAL_CMD, MTR_CAL_STAT and what it does once it is taken. -/
theorem keeps_of_cal {l : List Nat} {s : State} {p : RegPath} {v : Nat}
    (hact : ∀ u, State.Keeps (maskOf l) s u → State.Keeps (maskOf l) s (u.calAct (v % 256)))
    (hcal : Nat.beq (Nat.land calParts (maskOf l)) calParts = true := by decide +kernel)
    (hev : Nat.beq (Nat.land eventParts (maskOf l)) eventParts = true := by decide +kernel) :
    State.Keeps (maskOf l) s (s.pathWrite p Reg.MTR_CAL_CMD v).1 := by
  have hsub : Sub calParts (maskOf l) := sub_maskOf hcal
  have hset : ∀ x, State.Keeps (maskOf l) s (s.setF Fld.MTR_CAL_CMD_CMD x) := fun x =>
    State.setF_keeps (.refl s) RegOf.MTR_CAL_CMD (Has.of hsub (by decide +kernel))
  refine keeps_of_acting actsAs_MTR_CAL_CMD (by decide) (fun r hr => ?_) hev
  rw [State.performWrite_MTR_CAL_CMD s v 0 hr, State.calCommand_eq]
  refine State.ite_keeps (.refl s) (State.ite_keeps (.refl s) (State.ite_keeps ?_ (State.ite_keeps ?_ (hact _ (hset _)))))
  · exact State.setF_keeps (.refl s) RegOf.MTR_CAL_STAT (Has.of hsub (by decide +kernel))
  · exact State.calResult_keeps (hset _) (Sub.of hsub (by decide +kernel))

theorem State.calBadCmd_keeps (s : State) (cmd : Nat) (p : RegPath) :
    State.Keeps (maskOf (Parts.shared ++ [Part.MTR_CAL_CMD, Part.MTR_CAL_STAT])) s
      (if 9 ≤ cmd ∧ cmd < 256 then (s.pathWrite p Reg.MTR_CAL_CMD cmd).1 else s) := by
  split
  · next h =>
    refine keeps_of_cal fun u hu => ?_
    rw [Nat.mod_eq_of_lt h.2, State.calAct_bad u h.1 h.2]
    exact State.calResult_keeps hu (sub_maskOf (by decide +kernel))
  · exact .refl s

/-! ### The statements -/

/-- Settles O47: the parts in the lemma of each command lie in the list of its clause. -/
theorem tickFrame : Obligations.TickFrame := by
  intro σ τ
  exact ⟨fun _ => only_of_keeps (execReferenceEdge_keeps (.refl σ)),
    only_of_keeps (execEdgeMissing_keeps (.refl σ)),
    fun _ => only_of_keeps_anyReg (execTick_keeps (.refl σ)) (by decide),
    only_of_keeps (execRepeatBoundary_keeps (.refl σ)),
    fun _ _ => only_of_keeps (execTickMarkerSend_keeps (.refl σ)),
    fun _ _ _ => only_of_keeps (execTickMarkerReceived_keeps (.refl σ)),
    fun _ => only_of_keeps (execMarkerMissing_keeps (.refl σ)),
    fun _ _ => only_of_keeps (execEnumSend_keeps (.refl σ)),
    fun _ _ => only_of_keeps (execEnumReceived_keeps (.refl σ)),
    fun _ _ _ => only_of_keeps (execDelayProbe_keeps (.refl σ)),
    fun _ _ _ _ => only_of_keeps (execProbeReceived_keeps (.refl σ)),
    fun _ _ _ => only_of_keeps (execProbeEchoReceived_keeps (.refl σ)),
    fun _ _ => only_of_keeps (execDelayAssignReceived_keeps (.refl σ)),
    fun _ _ _ => only_of_keeps (execTransmitWindow_keeps (.refl σ)),
    fun _ _ _ => only_of_keeps (execElasticSlotComplete_keeps (.refl σ))⟩

/-- Settles O49: like `tickFrame`. -/
theorem commitFrame : Obligations.CommitFrame := by
  intro σ τ
  exact ⟨only_of_keeps (execCompileDeadline_keeps (.refl σ)),
    fun _ => only_of_keeps (execFenceWordRead_keeps (.refl σ)),
    fun _ _ => only_of_keeps (execFenceReadComplete_keeps (.refl σ)),
    fun _ _ => only_of_keeps (execReleaseDue_keeps (.refl σ)),
    fun _ _ => only_of_keeps (execCommit_keeps (.refl σ)),
    fun _ _ _ => only_of_keeps (execCommitDescriptorReadDone_keeps (.refl σ)),
    fun _ _ => only_of_keeps (execFenceSignal_keeps (.refl σ))⟩

/-- Settles O52: like `tickFrame`; a calibration command goes by the write of MTR_CAL_CMD. -/
theorem meteringFrame : Obligations.MeteringFrame := by
  intro σ τ
  exact ⟨fun _ _ => only_of_keeps_anyReg (execMeterPowerOn_keeps (.refl σ)) (by decide),
    fun _ _ _ => only_of_keeps (execMeterInterval_keeps (.refl σ)),
    fun _ => only_of_keeps (execBitstreamStuck_keeps (.refl σ)),
    only_of_keeps (execEnergySave_keeps (.refl σ)),
    fun _ => only_of_keeps (execRecordRequestRead_keeps (.refl σ)),
    only_of_keeps (execRecordSigned_keeps (.refl σ)),
    only_of_keeps (execShutdownNotice_keeps (.refl σ)),
    fun _ => only_of_keeps (execMeterActivationNotice_keeps (.refl σ)),
    only_of_keeps (execCalEnAssert_keeps (.refl σ)),
    only_of_keeps (execCalEnRelease_keeps (.refl σ)),
    fun _ => only_of_next (keeps_of_cal fun _ hu => State.calStart_keeps hu (sub_maskOf (by decide +kernel))),
    fun _ => only_of_next (keeps_of_cal fun _ hu => State.calRun_keeps hu (sub_maskOf (by decide +kernel))),
    fun _ => only_of_next (keeps_of_cal fun _ hu => State.calRun_keeps hu (sub_maskOf (by decide +kernel))),
    fun _ => only_of_next (keeps_of_cal fun _ hu => State.calRun_keeps hu (sub_maskOf (by decide +kernel))),
    fun _ => only_of_next (keeps_of_cal fun _ hu => State.calDelay_keeps hu (sub_maskOf (by decide +kernel))),
    fun _ => only_of_next (keeps_of_cal fun _ hu => State.calCommit_keeps hu (sub_maskOf (by decide +kernel))),
    fun _ => only_of_next (keeps_of_cal fun _ hu => State.ite_keeps (State.calResult_keeps hu (sub_maskOf (by decide +kernel)))
      (State.calResult_keeps (State.calAbort_keeps hu (sub_maskOf (by decide +kernel))) (sub_maskOf (by decide +kernel)))),
    fun _ => only_of_next (keeps_of_cal fun _ hu => State.calSeal_keeps hu (sub_maskOf (by decide +kernel))),
    fun _ => only_of_next (keeps_of_cal fun _ hu => State.calResult_keeps hu (sub_maskOf (by decide +kernel))),
    fun cmd path => only_of_next (σ.calBadCmd_keeps cmd path),
    only_of_keeps_anyReg (execMeterPowerLoss_keeps (.refl σ)) (by decide)⟩

/-- Settles O53: like `tickFrame`; THM_TEST goes by the write of its register. -/
theorem thermalWallFrame : Obligations.ThermalWallFrame := by
  intro σ τ
  exact ⟨only_of_keeps (execWallThrottleCheck_keeps (.refl σ)),
    fun _ _ => only_of_keeps (execThrottleReceived_keeps (.refl σ)),
    only_of_keeps (execWallCmdResend_keeps (.refl σ)),
    only_of_keeps (execAdmissionPoll_keeps (.refl σ)),
    fun _ _ => only_of_keeps (execAdmitReceived_keeps (.refl σ)),
    only_of_keeps (execNvmWriteComplete_keeps (.refl σ)),
    fun _ _ _ _ => only_of_keeps (execThermalModelUpdate_keeps (.refl σ)),
    only_of_keeps (execMeteringStaleTimeout_keeps (.refl σ)),
    only_of_keeps (execThermalEvaluation_keeps (.refl σ)),
    fun _ => only_of_next (keeps_of_thermTest (State.shutdown_keeps (.refl σ) (sub_maskOf (by decide +kernel)))),
    only_of_keeps_anyReg (execShutdownTimeout_keeps (.refl σ)) (by decide),
    only_of_keeps_anyReg (execDiodeTrip_keeps (.refl σ)) (by decide),
    fun _ _ _ _ => only_of_keeps_anyReg (execThermalRestart_keeps (.refl σ)) (by decide)⟩

/-- Settles O57: like `tickFrame`; LNK_TEST goes by the write of its register. -/
theorem linkFrame : Obligations.LinkFrame := by
  intro σ τ
  exact ⟨fun _ _ => only_of_keeps (execReservedPacket_keeps (.refl σ)),
    fun _ _ => only_of_keeps (execRemoteRegRead_keeps (.refl σ)),
    fun _ _ => only_of_keeps (execRemoteRegWrite_keeps (.refl σ)),
    fun _ _ => only_of_keeps_anyReg (execRegRspReceived_keeps (.refl σ)) (by decide),
    fun _ _ => only_of_keeps_anyReg (execRegReqTimeout_keeps (.refl σ)) (by decide),
    fun _ _ => only_of_keeps (execAckReceived_keeps (.refl σ)),
    fun _ _ => only_of_keeps (execReturnAckTimeout_keeps (.refl σ)),
    fun _ _ => only_of_keeps (execReturnCellPass_keeps (.refl σ)),
    fun _ => only_of_keeps (execAlignSend_keeps (.refl σ)),
    fun _ _ => only_of_keeps (execRemoteEventReceived_keeps (.refl σ)),
    fun _ _ => only_of_keeps (execTelemetryReceived_keeps (.refl σ)),
    fun _ _ => only_of_keeps (execTelemetryStale_keeps (.refl σ)),
    fun _ _ => only_of_keeps (execWordLockLoss_keeps (.refl σ)),
    fun _ => only_of_keeps (execRxClockLost_keeps (.refl σ)),
    fun _ => only_of_keeps (execTs1Received_keeps (.refl σ)),
    fun _ _ _ => only_of_keeps (execTsWordsReceived_keeps (.refl σ)),
    fun _ _ _ _ _ _ _ => only_of_keeps (execEqualisationDone_keeps (.refl σ)),
    fun _ _ => only_of_keeps (execPortUp_keeps (.refl σ)),
    fun _ => only_of_keeps (execTrainingAttemptTimeout_keeps (.refl σ)),
    fun _ => only_of_keeps (execTrainingRetryTimer_keeps (.refl σ)),
    fun _ => only_of_keeps (execRxClockActivity_keeps (.refl σ)),
    fun _ _ => only_of_next (keeps_of_linkTest (State.linkRetry_keeps (.refl σ) (sub_maskOf (by decide +kernel)))),
    fun _ _ => only_of_next (keeps_of_linkTest (State.linkForce_keeps (.refl σ) (sub_maskOf (by decide +kernel)))),
    fun _ _ _ _ => only_of_keeps (execFomMeasurement_keeps (.refl σ)),
    fun _ => only_of_keeps (execEqStepAdopt_keeps (.refl σ)),
    fun _ _ => only_of_keeps (execCellDrop_keeps (.refl σ))⟩

/-- Settles O58: like `tickFrame`; PAIR_TEST goes by the write of its register. -/
theorem pairFrame : Obligations.PairFrame := by
  intro σ τ
  exact ⟨only_of_keeps (execHelloSend_keeps (.refl σ)),
    fun _ => only_of_keeps (execHelloReceived_keeps (.refl σ)),
    fun _ => only_of_keeps (execCommitAnnReceived_keeps (.refl σ)),
    fun _ => only_of_keeps (execKeyAnnReceived_keeps (.refl σ)),
    fun _ => only_of_keeps (execCycleAnnReceived_keeps (.refl σ)),
    fun _ => only_of_keeps (execSnapshotReceived_keeps (.refl σ)),
    fun _ => only_of_keeps_anyReg (execRelayReceived_keeps (.refl σ)) (by decide),
    fun _ => only_of_keeps (execDeposeReceived_keeps (.refl σ)),
    fun _ => only_of_keeps (execHandoverReceived_keeps (.refl σ)),
    fun _ => only_of_keeps (execPairAckReceived_keeps (.refl σ)),
    fun _ => only_of_keeps (execReadDoneReceived_keeps (.refl σ)),
    fun _ => only_of_keeps (execReuniteReceived_keeps (.refl σ)),
    fun _ => only_of_keeps (execPairPacketTimeout_keeps (.refl σ)),
    fun _ _ => only_of_keeps (execComparisonDeadline_keeps (.refl σ)),
    only_of_keeps (execDeposeAckTimeout_keeps (.refl σ)),
    only_of_keeps (execAnnouncementMissing_keeps (.refl σ)),
    fun _ _ => only_of_keeps (execReunitePoll_keeps (.refl σ)),
    only_of_keeps (execSuspectTimeout_keeps (.refl σ)),
    only_of_keeps (execPairPortTimeout_keeps (.refl σ)),
    fun _ => only_of_next (keeps_of_pairTest (State.pairHandover_keeps (.refl σ) (sub_maskOf (by decide +kernel)))),
    fun _ => only_of_next (keeps_of_pairTest (State.pairForeign_keeps (.refl σ) (sub_maskOf (by decide +kernel)))),
    fun _ => only_of_keeps (execPairPacketReserved_keeps (.refl σ))⟩

end Sys2Proof.Machine
end

section
/-! Completion: a command answers the state that its meaning computes. The lemmas by which the clauses of the statements follow. -/

set_option Elab.async false

namespace Sys2Proof.Machine

theorem Completes.intro {c : Instr} {s t : State} {P : State → Prop} (h : exec c s = .next t) (hp : P t) : Completes c s P := ⟨t, h, hp⟩

/-- A part of the state that a mask leaves out is as before. -/
theorem Alike.eq {α : Type} {p m : Nat} {a b : α} (h : Alike p m a b) (hc : Nat.testBit m p = false) : b = a :=
  h.resolve_left (by simp [Has, hc])

/-! ### Entries of a ring -/

/-- An entry that is ready runs its body (R115, R118). -/
theorem State.onEntry_of_ready {s : State} {n i op : Nat} {need64 : Bool} {ok : List Byte → Bool} {e : List Byte} (body : List Byte → State → State)
    (h : s.io.Ready n i op need64 (ok e) e) : s.onEntry n i op need64 ok body = body e s := by
  obtain ⟨hentry, hop, hstatus⟩ := h
  simp [State.onEntry, hentry, hop, hstatus]

end Sys2Proof.Machine
end

section
/-! Power, reset and the load of the image (chapters 2, 19 and 22). -/

set_option Elab.async false

namespace Sys2Proof.Machine

/-! ### Reset -/

@[simp] theorem State.inReset_boot_held (s : State) : s.inReset.boot.held = true := rfl
@[simp] theorem State.inReset_rings (s : State) : s.inReset.io.rings = [] := rfl
@[simp] theorem State.inReset_plan (s : State) : s.inReset.plan = {} := rfl
@[simp] theorem State.inReset_nvm_mem (s : State) : s.inReset.boot.nvm.mem = s.boot.nvm.mem := by
  unfold State.inReset State.cleared; split <;> rfl
@[simp] theorem State.inReset_dram (s : State) : s.inReset.io.dram = s.io.dram := by
  unfold State.inReset State.cleared; split <;> rfl

/-- Settles O13: the level of the pins decides which branch each command takes. -/
theorem powerAndResetCommands : Obligations.PowerAndResetCommands := by
  refine ⟨?_, ?_, ?_, ?_, ?_, ?_, ?_⟩
  · intro s umberLow d0 d1 t programmed hp hr
    exact .intro rfl (if_neg (by simp [hp, hr]))
  · intro s umberLow d0 d1 t programmed hp hr
    exact .intro rfl (if_neg (by simp [hp, hr]))
  · rintro s u umberLow rfl v rfl
    simp only [State.rom, Bool.not_eq_true', Option.isNone_iff_eq_none]
  · intro s hp
    exact .intro (congrArg Host.Outcome.next (if_pos hp)) (by simp)
  · exact fun s => .intro rfl rfl
  · intro s umberLow d0 d1 t hr
    refine ⟨fun hp => .intro rfl ?_, ?_⟩
    · exact (if_neg (by simp [hr])).trans (if_neg (by simp [hp]))
    · rintro v rfl hp
      exact .intro rfl ((if_neg (by simp [hr])).trans (if_pos hp))
  · intro s d0 d1 hp hboot hopen
    refine .intro rfl ?_
    unfold State.diodeWindow
    rw [if_neg (by rcases hboot with h | h <;> simp [hp, h]), if_pos (by simp [hopen])]
    rw [hopen]

end Sys2Proof.Machine
end

section
/-! The load of the image (chapters 2, 6 and 19). -/

set_option Elab.async false

namespace Sys2Proof.Machine

/-- A section that is read at all is taken, read again or refused by its type and its digest (R50). -/
theorem State.sectionRead_of_next {s : State} {i : Nat} {got : Option (List Byte)} {d : Section} (hheld : s.boot.held = false)
    (hboot : s.io.boot ≤ stLOADING) (hnext : s.nextSection = some i) (hd : s.boot.dir[i]? = some d) :
    s.sectionRead i got = if d.typ = 0 ∨ (0x10 ≤ d.typ ∧ d.optional = false) then s.imageDefect 0x0B (some i)
      else if sha512 (got.getD (s.nvmRead (s.boot.base + d.off) d.len)) = d.digest then
        let u := s.onBoot (fun b => { b with loaded := b.loaded ++ [(i, got.getD (s.nvmRead (s.boot.base + d.off) d.len))] })
        if d.typ = 1 ∧ s.io.boot = stROM then u.startLoading else u
      else if s.boot.failedReads.contains i = true then s.imageDefect 0x09 (some i)
      else s.onBoot (fun b => { b with failedReads := i :: b.failedReads }) := by
  unfold State.sectionRead
  rw [if_neg (by simp [hheld, hnext, hboot]), hd]
  simp only [Bool.not_eq_true']
  rfl

/-- A channel whose training has no stored record to go by takes what the training found (R161). -/
theorem State.channelTrained_of_noRecord {s u : State} {ch density cap margin mr4 : Nat} {trained : Bool} {settings : List Byte}
    (hheld : s.boot.held = false) (hboot : s.io.boot = stLOADING) (hsect : (s.sect 5).isSome = true) (hch : s.enabledChannels.contains ch = true)
    (hresult : s.trainResult ch = 0) (hu : u = (s.setF Fld.DMC_CFG_RATE (fieldAt (s.sectOr 5) 0 1)).setF Fld.DMC_CFG_GRAIN (fieldAt (s.sectOr 5) 1 1))
    (hrec : u.record 1 = none) :
    s.channelTrained ch density cap margin mr4 false trained settings =
      if (trained && decide (density < 3)) = false then
        (((u.setF (Fld.DMC_CH_TRAIN_RESULT (ch / 4) (ch % 4)) 3).setF (Fld.DMC_CH_STAT_STATE (ch / 4) (ch % 4)) 2).on (·.fireIn 134 (ch / 4))).enterUmber 5
      else
        let v := (((u.setF (Fld.DMC_CH_TRAIN_RESULT (ch / 4) (ch % 4)) 2).setF (Fld.DMC_CH_STAT_STATE (ch / 4) (ch % 4)) 1).setF
          (Fld.DMC_CH_TRAIN_MARGIN (ch / 4) (ch % 4)) (min 255 margin)).setF (Fld.DMC_CH_STAT_DENSITY (ch / 4) (ch % 4)) density
        let w := v.setChan ch { v.chan ch with intervalEnd := v.io.now + trefi false, density := density, settings := sub settings 0 256 }
        let x := w.mr4Poll ch mr4 w.io.now
        if x.enabledChannels.all (fun c => x.trainResult c != 0) then x.channelsTrained else x := by
  subst hu
  unfold State.channelTrained
  rw [if_neg (by simp [hheld, hboot, Option.isSome_iff_ne_none.mp hsect, hch, hresult, -List.contains_eq_mem])]
  dsimp only
  rw [hrec]
  simp only [Bool.false_and, Bool.and_false, Bool.not_false, Bool.true_and, Option.isSome_none, Bool.false_eq_true, if_false, Bool.not_eq_true']

/-- A write of the NVM leaves what is in flight as it was. -/
@[simp] theorem State.nvmWrite_busy (s : State) (a : Nat) (bs : List Byte) : (s.nvmWrite a bs).boot.nvm.busy = s.boot.nvm.busy := by
  unfold State.nvmWrite
  dsimp only
  split
  · rfl
  · split
    · split <;> rfl
    · rfl

/-- A write that ends leaves none in flight (R63). -/
theorem State.finishWrite_busy (s : State) : s.finishWrite.boot.nvm.busy = none := by
  unfold State.finishWrite
  split
  · split
    · exact State.nvmWrite_busy ..
    · rfl
  · rfl

/-- Settles O14, command by command. -/
theorem imageLoadingCommands : Obligations.ImageLoadingCommands := by
  refine ⟨?_, ?_, ?_, ?_, ?_, fun s hbusy => .intro (congrArg Host.Outcome.next (if_pos hbusy)) ⟨rfl, s.finishWrite_busy⟩⟩
  · rintro s i got d bs hheld hboot hnext hd rfl
    have hread := State.sectionRead_of_next (got := got) hheld hboot hnext hd
    refine ⟨fun htyp => .intro rfl (hread.trans (if_pos htyp)), fun hne hlt => ?_⟩
    replace hread := hread.trans (if_neg (by omega))
    refine ⟨fun hsha hfail => .intro rfl (hread.trans ?_), fun hsha hfail => .intro rfl (hread.trans ?_), fun hsha => .intro rfl (hread.trans (if_pos hsha))⟩
    · rw [if_neg hsha, hfail]; rfl
    · rw [if_neg hsha, if_pos hfail]
  · intro s sec hheld hp hboot
    exact .intro rfl (if_neg (by simp [hheld, hp, hboot]))
  · intro s hheld hp hstop hboot
    have hgo : ¬ (s.boot.held || !s.boot.pwrgood || s.isF Fld.CTL_WDOG_STOPPED || decide (stOPERATIONAL ≤ s.io.boot)) = true := by
      simp [hheld, hp, hstop, hboot]
    refine ⟨fun h => .intro rfl ((if_neg hgo).trans (if_pos ?_)), ?_⟩
    · rcases h with h | h <;> simp [h]
    · rintro u rfl hact hcopy
      exact .intro rfl ((if_neg hgo).trans (if_neg (by simp [hact, hcopy])))
  · intro s u channel density cap margin mr4 settings hlt hheld hboot hsect hch hresult hu hrec
    have htrained := fun trained => State.channelTrained_of_noRecord (density := density) (cap := cap) (margin := margin) (mr4 := mr4)
      (trained := trained) (settings := settings) hheld hboot hsect hch hresult hu hrec
    refine ⟨.intro rfl ((htrained false).trans (if_pos (Bool.false_and _))), ?_⟩
    rintro hden v w rfl rfl
    exact .intro rfl ((htrained true).trans (if_neg (by simp [hden])))
  · intro s hheld hboot hnext
    have hgo : ¬ (s.boot.held || decide (s.io.boot ≠ stLOADING) || s.nextSection.isSome) = true := by simp [hheld, hboot, hnext]
    have hload : exec .loadingComplete s = .next s.finishLoading := congrArg Host.Outcome.next (if_neg hgo)
    unfold State.finishLoading at hload
    refine ⟨fun hreq => .intro hload (if_pos hreq), fun hreq hup => ?_, fun hreq hup => ?_⟩
    · rw [if_neg (by simp [hreq]), if_pos (by simp [hup])] at hload
      exact .intro hload rfl
    · rw [if_neg (by simp [hreq]), if_neg (by simp [hup])] at hload
      refine ⟨fun d hd => ?_, fun hnone => ⟨fun hbad => ?_, ?_⟩⟩
      · rw [hd] at hload; exact .intro hload rfl
      · rw [hnone, if_pos hbad] at hload; exact .intro hload rfl
      · rintro hbad r rfl
        rw [hnone, if_neg (by simp [hbad])] at hload; exact .intro hload rfl

end Sys2Proof.Machine
end

section
/-! The commands that stage an image (chapter 19): the entries of a ring and the packets of a chain. -/

set_option Elab.async false

namespace Sys2Proof.Machine

/-- A ready STAGE entry of the own operation, with no job under way, is rejected or run. -/
theorem State.stageEntry_of_ready {s : State} {ring i : Nat} {e : List Byte} {mine : Nat → Bool} (run : List Byte → State → State)
    (hready : s.io.Ready ring i 0x42 true (stageFieldsOk e) e) (hidle : s.stageIdle) (hmine : mine (fieldAt e 8 1) = true) :
    s.stageEntry ring i mine run = match s.stageReject e with
      | some d => s.on (·.answer ring i e { status := 0x01, detail := d })
      | none => run e s := by
  obtain ⟨hjob, howed⟩ := hidle
  unfold State.stageEntry
  rw [hready.entry]
  dsimp only
  rw [if_neg (by simpa [hready.opcode, hmine, hjob] using howed), State.onEntry_of_ready _ hready] <;> rfl

/-- An entry that is rejected completes with the detail of its rule. -/
theorem State.stageEntry_of_reject {s : State} {ring i d : Nat} {e : List Byte} {mine : Nat → Bool} (run : List Byte → State → State)
    (hready : s.io.Ready ring i 0x42 true (stageFieldsOk e) e) (hidle : s.stageIdle) (hmine : mine (fieldAt e 8 1) = true)
    (hreject : s.stageReject e = some d) :
    s.stageEntry ring i mine run = s.on (·.answer ring i e { status := 0x01, detail := d }) := by
  rw [State.stageEntry_of_ready run hready hidle hmine, hreject]

/-- An entry that is not rejected runs. -/
theorem State.stageEntry_of_accept {s : State} {ring i : Nat} {e : List Byte} {mine : Nat → Bool} (run : List Byte → State → State)
    (hready : s.io.Ready ring i 0x42 true (stageFieldsOk e) e) (hidle : s.stageIdle) (hmine : mine (fieldAt e 8 1) = true)
    (haccept : s.stageReject e = none) : s.stageEntry ring i mine run = run e s := by
  rw [State.stageEntry_of_ready run hready hidle hmine, haccept]

/-- Settles O16: an entry that is ready runs its body. -/
theorem stageEntryCommands : Obligations.StageEntryCommands := by
  refine ⟨?_, ?_, ?_, ?_, ?_⟩
  · intro s ring i e hready hidle
    refine ⟨fun d h1 h2 h3 hd => .intro rfl (State.stageEntry_of_reject _ hready hidle (by simp [h1, h2, h3]) hd), ?_⟩
    rintro u rfl hop hok
    have hrun := fun run => State.stageEntry_of_accept (mine := fun op => op != 1 && op != 2 && op != 3) run hready hidle (by simp [hop]) hok
    exact ⟨fun h => .intro rfl ((hrun _).trans (if_pos h)), fun h => .intro rfl ((hrun _).trans (if_neg h))⟩
  · intro s u ring i mem n e got f hready hidle hop hread
    have hrun := fun run hok => State.stageEntry_of_accept (mine := (· == 1)) run hready hidle (by simp [hop]) hok
    refine ⟨fun d hd => .intro rfl (State.stageEntry_of_reject _ hready hidle (by simp [hop]) hd), ?_, ?_, ?_⟩
    · rintro hok rfl h
      refine .intro rfl ((hrun _ hok).trans ?_)
      simp [hread, h, State.stageTake]
    · rintro hok rfl h
      refine .intro rfl ((hrun _ hok).trans ?_)
      simp [hread, h]
    · rintro k a hok rfl
      refine .intro rfl ((hrun _ hok).trans ?_)
      simp [hread]
  · intro s ring i e hready hidle hop
    have hrun := fun run hok => State.stageEntry_of_accept (mine := (· == 2)) run hready hidle (by simp [hop]) hok
    refine ⟨fun d hd => .intro rfl (State.stageEntry_of_reject _ hready hidle (by simp [hop]) hd),
      fun hok h => .intro rfl ((hrun _ hok).trans (if_pos h)), fun txn total hok h hopened => .intro rfl ((hrun _ hok).trans ((if_neg h).trans ?_))⟩
    simp only [hopened]
  · intro s ring i e hready hidle hop
    have hrun := fun run hok => State.stageEntry_of_accept (mine := (· == 3)) run hready hidle (by simp [hop]) hok
    refine ⟨fun d hd => .intro rfl (State.stageEntry_of_reject _ hready hidle (by simp [hop]) hd),
      fun hok h => .intro rfl ((hrun _ hok).trans (if_pos h)), fun txn total hok h hopened => .intro rfl ((hrun _ hok).trans ((if_neg h).trans ?_))⟩
    simp only [hopened]
  · intro s j hjob hop
    refine ⟨fun hkind => .intro (congrArg Host.Outcome.next ?_) rfl, ?_⟩
    · simp [hjob, hop, hkind]
    · rintro a rfl hkind
      refine .intro (congrArg Host.Outcome.next ?_) rfl
      simp [hjob, hop, hkind]

/-- A kept stage packet of the operation and for this part (or for both) acts on the tile. -/
theorem State.stagePacket_of_kept {s u : State} {p op : Nat} {bs pl : List Byte} (f : List Byte → State → State)
    (hkept : s.kept p 0x06 bs = (u, some pl)) (htile : u.io.isTile = true) (hop : fieldAt pl 0 1 = op)
    (hpart : fieldAt pl 1 1 = 0xFF ∨ fieldAt pl 1 1 = u.io.part) : s.stagePacket p op bs f = f pl u := by
  unfold State.stagePacket
  rw [hkept]
  exact if_pos ⟨htile, hop, hpart⟩

/-- Settles O17: a packet that is kept acts by its type. -/
theorem stagePacketCommands : Obligations.StagePacketCommands := by
  refine ⟨?_, ?_, ?_, ?_, ?_, ?_, ?_, ?_⟩
  · intro s u port packet pl hkept htile hop hpart
    exact .intro rfl (State.stagePacket_of_kept _ hkept htile hop hpart)
  · rintro s u v port off packet pl bs hkept htile hop hpart hupd htxn rfl rfl rfl
    have hrun := fun f => (State.stagePacket_of_kept f hkept htile hop hpart)
    refine ⟨fun hno => .intro rfl ((hrun _).trans ((if_neg (by simp [hupd, htxn])).trans ?_)),
      fun q h1 h2 h3 h4 => .intro rfl ((hrun _).trans ((if_neg (by simp [hupd, htxn])).trans ?_))⟩
    · rcases hno with h | h | h | h <;> simp [h]
    · simp [h1, h2, h3, h4]
  · intro s u port packet pl hkept htile hop hpart
    exact .intro rfl (State.stagePacket_of_kept _ hkept htile hop hpart)
  · intro s u port packet pl hkept htile hop hpart
    exact .intro rfl (State.stagePacket_of_kept _ hkept htile hop hpart)
  · intro s u port packet pl hkept htile hop hpart
    exact .intro rfl ((State.stagePacket_of_kept _ hkept htile hop hpart).trans (if_pos htile))
  · intro s hupd hwaits
    have hgo : ¬ (s.upd ≠ uPROGRAMMING ∨ s.boot.nvm.programWaits = true) := by simp [hupd, hwaits]
    exact ⟨.intro rfl (if_neg hgo), fun h => .intro rfl ((if_neg hgo).trans (if_pos h)), fun h => .intro rfl ((if_neg hgo).trans (if_neg h))⟩
  · intro s u port cell c hcell
    exact .intro (congrArg Host.Outcome.next (by rw [hcell])) rfl
  · intro s chain position rounds pl j hjob hop hfind hbad
    unfold State.stageAckReceived
    rw [hjob]
    dsimp only
    rw [hfind]
    exact (if_neg (by simp [hop])).trans (if_pos hbad)

end Sys2Proof.Machine
end

section
/-! The frame tick, the reference and the tick markers (chapter 3). -/

set_option Elab.async false

namespace Sys2Proof.Machine

/-! ### Reference edges -/

/-- Fewer than eight intervals show no change of the rate (R72). -/
theorem State.rateChange_of_short {s : State} {ivs : List Nat} (h : ivs.length < 8) : s.rateChange ivs = none :=
  if_neg fun hall => by omega

/-- An edge in a mode with a window, before eight intervals are known, is judged by the window alone (R70). -/
theorem State.judgeEdge_window {s : State} {t iv : Nat} {before : List Nat} (hfree : s.mode ≠ mFREE) (hhold : s.mode ≠ mHOLDOVER)
    (hshort : (s.windowEdge t).tick.every.length < 8) : s.judgeEdge t iv before = s.windowEdge t := by
  unfold State.judgeEdge
  rw [if_neg hfree]
  dsimp only
  rw [if_neg hhold, State.rateChange_of_short hshort]

/-- An edge in its window is accepted and measured (R70). -/
theorem State.windowEdge_accept {s : State} {t e : Nat} (he : s.tick.expected = some e) (h : absDiff t e * 50 ≤ s.getF Fld.TCK_REF_PERIOD) :
    s.windowEdge t = s.measure t (if s.tick.missing = 0 then ((t - s.tick.accepted.getD (t - s.getF Fld.TCK_REF_PERIOD)) :: s.tick.intervals).take 8
      else s.tick.intervals) := by
  unfold State.windowEdge
  simp only [he, h, if_true]

/-- An edge outside its window is counted, with event 35 (R70). -/
theorem State.windowEdge_glitch {s : State} {t e : Nat} (he : s.tick.expected = some e) (h : s.getF Fld.TCK_REF_PERIOD < absDiff t e * 50) :
    s.windowEdge t = s.on (fun io => (io.bumpF Fld.TCK_GLITCH_COUNT).fire 35) := by
  unfold State.windowEdge
  simp only [he, Nat.not_le.mpr h, if_false]

theorem State.measure_tick (s : State) (t : Nat) (ivs : List Nat) : (s.measure t ivs).tick =
    { s.tick with intervals := ivs, accepted := some t, expected := some (t + meanOf ivs), missing := 0 } := rfl

theorem State.windowEdge_every (s : State) (t : Nat) : (s.windowEdge t).tick.every = s.tick.every := by
  unfold State.windowEdge
  dsimp only
  split
  · split
    · rw [State.measure_tick]
    · rw [State.on_tick]
  · rfl

theorem State.noteEdge_tick (s : State) (t : Nat) (every : List Nat) : (s.noteEdge t every).tick = { s.tick with edge := some t, every := every } := rfl

/-- An edge in a mode with a window, before eight intervals are known, is noted and judged by the window (R70). -/
theorem State.referenceEdge_window {s : State} {t e0 : Nat} (hused : s.refUsed = true) (he0 : s.tick.edge = some e0) (hfree : s.mode ≠ mFREE)
    (hhold : s.mode ≠ mHOLDOVER) (hshort : s.tick.every.length < 7) :
    s.referenceEdge t = ((s.on (·.at t)).noteEdge t (((t - e0) :: s.tick.every).take 8)).windowEdge t := by
  unfold State.referenceEdge
  rw [if_neg (by simp [hused]), he0]
  refine State.judgeEdge_window (s := (s.on (·.at t)).noteEdge t (((t - e0) :: s.tick.every).take 8)) hfree hhold ?_
  rw [State.windowEdge_every, State.noteEdge]
  simp only [List.length_take, List.length_cons]
  omega

theorem State.withTick_io (s : State) (k : TickState) : ({ s with tick := k } : State).io = s.io := rfl

theorem State.missEdge_missing (s : State) : s.missEdge.tick.missing = s.tick.missing + 1 := by unfold State.missEdge; rfl

theorem State.missEdge_io (s : State) : s.missEdge.io = (s.io.bumpF Fld.TCK_MISS_COUNT).setF Fld.TCK_STATE_REF_PRESENT 0 := by
  unfold State.missEdge
  simp only [State.on_io]

theorem State.passRepeat_io (s : State) (n : Nat) :
    (s.passRepeat n).io = (((s.io.at n).setF Fld.TCK_STATE_REPEAT_PENDING 0).bumpF Fld.TCK_REPEAT_COUNT).fire 37 := by
  unfold State.passRepeat
  simp only [State.on_io]

/-! ### Markers -/

@[simp] theorem State.select_tick (s : State) (p : Nat) : (s.select p).tick = s.tick :=
  (State.select_keeps (State.Keeps.refl s) (Sub.self _)).tick.eq (by decide +kernel)

@[simp] theorem State.countMarker_tickHi (s : State) (p payload t : Nat) : (s.countMarker p payload t).tick.tickHi = s.tick.tickHi := by
  unfold State.countMarker
  dsimp only
  split <;> split <;> rfl

/-- The first marker, when it announces no repeat, fixes the next tick, its number and its rate set (R80). -/
theorem State.followMarker_first {s : State} (p t : Nat) {payload : Nat} (hfirst : s.tick.marked = false) (hrepeat : bit payload 42 = false) :
    (s.followMarker p t payload).tick.marked = true ∧ (s.followMarker p t payload).tick.fixed = true ∧
      (s.followMarker p t payload).tick.number = some (s.tick.tickHi * 2 ^ 24 + bits payload 8 24) ∧
      (s.followMarker p t payload).tick.nextRateSet = bits payload 44 3 := by
  unfold State.followMarker
  simp [hfirst, hrepeat, State.awaitChange, State.showSource, State.extendTick]

/-- The first marker of the port that is followed is taken, whenever it comes (R80). -/
theorem State.ownMarker_first {s : State} (p t : Nat) {payload : Nat} (hfirst : s.tick.marked = false) (htile : s.io.isTile = true) (hok : markerOk payload = true) :
    s.ownMarker p payload t = (s.select p).followMarker p t payload := by
  unfold State.ownMarker
  simp [hok, htile, State.inWindow, hfirst]

theorem State.missMarker_lost (s : State) : s.missMarker.tick.lost = s.tick.lost + 1 ∧ s.missMarker.tick.valid = 0 := by
  unfold State.missMarker
  dsimp only
  split <;> exact ⟨rfl, rfl⟩

/-- Settles O19: an edge and a marker each by the lock and the port that is followed. -/
theorem tickAndMarkers : Obligations.TickAndMarkers := by
  refine ⟨?_, ?_, ?_, ?_, ?_, ?_, ?_, ?_⟩
  · intro s x hused
    refine ⟨fun hnone => ?_, fun e0 e he0 he hfree hhold hshort => ?_⟩
    · have hedge : s.referenceEdge x = { (s.on (·.at x)) with tick := { s.tick with edge := some x, accepted := some x } } := by
        unfold State.referenceEdge
        simp [hused, hnone]
      exact .intro (congrArg Host.Outcome.next hedge) ⟨rfl, rfl⟩
    · have hedge := State.referenceEdge_window (t := x) hused he0 hfree hhold hshort
      refine ⟨fun hin => ?_, fun hout => ?_⟩
      · replace hedge := hedge.trans (State.windowEdge_accept (e := e) he hin)
        exact .intro (congrArg Host.Outcome.next hedge) ⟨rfl, rfl, Io.getF_setF_same _ _ _ (by decide), fun hmiss => if_pos hmiss⟩
      · replace hedge := hedge.trans (State.windowEdge_glitch (e := e) he hout)
        refine .intro (congrArg Host.Outcome.next hedge) ⟨by rw [State.on_tick, State.noteEdge_tick, State.on_tick], (Io.getF_fire _ _ (by decide)).trans (Io.getF_bumpF_same _ _ _ (by decide)), fun hcan => Io.fire_recorded _ _ ?_⟩
        exact (Io.canFire_bumpF _ _ _ (by decide) (by decide)).trans hcan
  · rintro s u hserving hglk hmode rfl
    have hmiss : exec .edgeMissing s = .next (if s.missEdge.tick.missing = 3 then
        (s.missEdge.awaitChange [{ mode := mHOLDOVER, rateSet := s.missEdge.rateSet, period := s.missEdge.period, jump := false, lost := true }]).forgetEdges
      else s.missEdge) := congrArg Host.Outcome.next (if_neg (by rcases hmode with h | h | h <;> simp [hserving, hglk, h]))
    have hcount := s.missEdge_missing
    refine ⟨fun h => ?_, fun h => ?_, hcount, s.missEdge_io⟩
    · rw [if_neg (by omega)] at hmiss
      exact .intro hmiss rfl
    · rw [if_pos (by omega)] at hmiss
      exact .intro hmiss rfl
  · intro s
    refine ⟨fun p g n hrep hdue hnext hserving => ?_, fun n hrep hfol => ?_, fun n => ⟨rfl, rfl, s.passRepeat_io n⟩⟩
    · have hrun : s.repeatBoundary = { (s.passRepeat n).switchRateSet p.rateSet with tick := { ((s.passRepeat n).switchRateSet p.rateSet).tick with
          next := some (n + g), pending := { p with jump := false } :: ((s.passRepeat n).switchRateSet p.rateSet).tick.pending.tail } } := by
        unfold State.repeatBoundary
        rw [hrep, hdue, hnext]
        exact if_neg (by simp [hserving])
      exact .intro (congrArg Host.Outcome.next hrun) ⟨rfl, State.withTick_io _ _, rfl⟩
    · have hrun : s.repeatBoundary = { s.passRepeat n with tick := { (s.passRepeat n).tick with
          steady := false, next := if (s.passRepeat n).tick.fixed then (s.passRepeat n).tick.next else some (n + (s.passRepeat n).period) } } := by
        unfold State.repeatBoundary
        rw [hrep]
        exact if_neg (by simp [hfol])
      exact .intro (congrArg Host.Outcome.next hrun) ⟨State.withTick_io _ _, rfl, rfl, rfl⟩
  · intro s p offset hsends hoff
    have hgo : ¬ ((!s.sendsTime p) = true ∨ 65 < offset) := by simp [hsends, hoff]
    refine ⟨fun hp => .intro rfl ((if_neg hgo).trans (if_pos hp)), fun i hp hslot => .intro rfl ((if_neg hgo).trans ((if_neg hp).trans ?_)), fun hdue hpend => ?_⟩
    · rw [hslot]
    · unfold State.markerSend
      simp [hdue, hpend]
  · intro s p payload x htile hp
    have hrun : exec (.tickMarkerReceived p payload x) s = .next ((if !(s.countMarker p payload x).io.isTile || (s.countMarker p payload x).selected == some p ||
          (s.countMarker p payload x).selected == none then (s.countMarker p payload x).ownMarker p payload x
        else (s.countMarker p payload x).otherMarker p payload x).repeatWord p payload) :=
      congrArg Host.Outcome.next ((if_pos (by simp [htile])).trans (if_neg (by simp [State.follows, htile, hp])))
    refine ⟨fun hsel => ?_, fun htile' hsel => ?_⟩
    · rw [if_pos (by rcases hsel with h | h <;> simp [h])] at hrun
      refine .intro hrun ⟨_, rfl, rfl, fun hfirst htile' hok hrepeat => ?_⟩
      rw [State.ownMarker_first p x hfirst htile' hok]
      simpa using State.followMarker_first (s := (s.countMarker p payload x).select p) p x (by simpa using hfirst) hrepeat
    · obtain ⟨q, hq, hsel⟩ := hsel
      rw [if_neg (by simp [htile', hsel, hq])] at hrun
      exact .intro hrun rfl
  · intro s p htile hfol hmarked hsel
    have hsel' : (s.setPortRun p ((s.portRun p).1 + 1) 0).selected = none := hsel
    have hrun : s.markerMissing p = (s.setPortRun p ((s.portRun p).1 + 1) 0).missMarker := by
      unfold State.markerMissing
      simp [hfol, hmarked, hsel']
    exact .intro (congrArg Host.Outcome.next ((if_pos (by simp [htile])).trans hrun)) ⟨rfl, State.missMarker_lost _⟩
  · intro s umberLow hready hp hpower hheld hlo hhi
    exact .intro rfl (if_pos (by simp [hready, hp, hpower, hheld, hlo, hhi]))
  · intro s n hnext
    have hraise : s.raiseTick = ((s.enterPeriod n).runPeriod n).showPeriod n := by unfold State.raiseTick; rw [hnext]
    refine ⟨hraise, ?_⟩
    rw [hraise]
    unfold State.showPeriod
    dsimp only
    split <;> split <;> exact ⟨rfl, rfl, rfl, _, rfl⟩

end Sys2Proof.Machine
end

section
/-! Enumeration, delay measurement and the slots of a schedule (chapters 1, 3 and 11). -/

set_option Elab.async false

namespace Sys2Proof.Machine

/-! ### Addresses -/

theorem State.positionOf_on (s : State) (f : Io → Io) (chain pos : Nat) : (s.on f).positionOf chain pos = s.positionOf chain pos := rfl

theorem State.positionOf_withTick (s : State) (k : TickState) (chain pos : Nat) : ({ s with tick := k } : State).positionOf chain pos = s.positionOf chain pos := rfl

/-- A tile that has followed no marker and finds its position in the plan takes the address with no event (R23). -/
theorem State.takeAddress_of_position {s : State} (p : Nat) {chain pos : Nat} (endB hi : Nat) (hmarked : s.tick.marked = false)
    (hpos : (s.positionOf chain pos).isSome = true) :
    s.takeAddress p chain pos endB hi =
      { s.on (·.setReg Reg.CTL_TILE_ADDR (BitVec.ofNat 32 (pos + 2 ^ 6 * chain + 2 ^ 10 * (if endB = 0 then p else 1 - p) + 2 ^ 11))) with
        tick := { s.tick with tickHi := hi } } := by
  have hmarked' : ∀ f, ¬ (s.on f).tick.marked = true := fun f => by simp [hmarked]
  unfold State.takeAddress
  dsimp only
  rw [if_neg (hmarked' _)]
  rw [State.positionOf_withTick, State.positionOf_on, if_pos hpos]
  rfl

/-- The word of a tile's address holds the position, the chain and the valid bit. -/
theorem tileAddrWord_bits {pos chain up : Nat} (hpos : pos < 64) (hchain : chain < 16) (hup : up ≤ 1) :
    bits (BitVec.ofNat 32 (pos + 2 ^ 6 * chain + 2 ^ 10 * up + 2 ^ 11)).toNat 0 6 = pos ∧
      bits (BitVec.ofNat 32 (pos + 2 ^ 6 * chain + 2 ^ 10 * up + 2 ^ 11)).toNat 6 4 = chain ∧
      bits (BitVec.ofNat 32 (pos + 2 ^ 6 * chain + 2 ^ 10 * up + 2 ^ 11)).toNat 11 1 = 1 := by
  rw [BitVec.toNat_ofNat]
  unfold bits
  refine ⟨?_, ?_, ?_⟩ <;> omega

/-! ### Words on the link -/

theorem State.repeatWord_out {s : State} {p : Nat} (payload : Nat) (hfwd : s.forwardFrom p = true) (hup : s.portUp (1 - p) = true) :
    (s.repeatWord p payload).io.out = .control (1 - p) payload :: s.io.out := by
  unfold State.repeatWord
  rw [if_pos (by simp [hfwd, hup])]
  rfl

theorem State.probeReceived_of_probe {s : State} {p payload : Nat} (t2 t3 : Nat) (hok : wordOk payload = true) (htype : wordType payload = 0x08)
    (hfwd : s.io.isTile = true → s.forwardFrom p = true) :
    s.probeReceived p payload t2 t3 =
      if s.probeMine p (bits payload 8 7) then
        if s.io.isTile then s.queueReturn 0x5 (leBytes 3 (t3 - t2) ++ zeros 1 ++ leBytes 3 (s.getF Fld.TCK_REPEAT_H) ++ zeros 1)
        else s.on (·.emit (.cell p (cellBytes 0x5 p (bits payload 8 7) 0 (leBytes 3 (t3 - t2) ++ zeros 1 ++ leBytes 3 (s.getF Fld.TCK_REPEAT_H) ++ zeros 1))))
      else s.repeatWord p payload := by
  unfold State.probeReceived
  rw [if_neg (by simp [hok])]
  exact if_neg (by simpa [htype] using hfwd)

/-- Settles O20: a packet that is kept acts by its type, and a delay by the probe that it echoes. -/
theorem enumerationAndDelays : Obligations.EnumerationAndDelays := by
  refine ⟨?_, ?_, ?_, ?_, ?_, ?_, ?_, ?_, fun s region slot aligns => .intro rfl rfl⟩
  · intro s p x n r hroute hnext htx hup hx
    have hsend : exec (.enumSend p x) s = .next (s.enumSend p x) := rfl
    unfold State.enumSend at hsend
    rw [hroute, hnext] at hsend
    exact .intro (hsend.trans (congrArg Host.Outcome.next (if_pos (by simp [htx, hup, hx])))) ⟨rfl, rfl⟩
  · intro s p payload pos htile hok htype hpos
    have hrecv : s.enumReceived p payload = if s.isF Fld.CTL_TILE_ADDR_VALID then (s.passEnum p payload).checkAddress (bits payload 8 4) pos (bits payload 27 24)
        else (s.passEnum p payload).takeAddress p (bits payload 8 4) pos (bits payload 19 1) (bits payload 27 24) := by
      unfold State.enumReceived
      rw [if_neg (by simp [htile]), if_neg (by simp [hok, htype]), hpos]
    refine ⟨fun hvalid => ?_, ?_⟩
    · rw [if_pos hvalid] at hrecv
      exact .intro rfl ((if_pos (by simp [hvalid])).trans hrecv)
    · rintro u rfl hvalid hu
      rw [if_neg (by simp [hvalid])] at hrecv
      rw [← hrecv] at hu ⊢
      exact .intro rfl (if_neg (by simp [hvalid, hu]))
  · intro s p chain pos endB hi hp hchain hpos hmarked hplan
    rw [State.takeAddress_of_position p endB hi hmarked hplan]
    obtain ⟨hbpos, hbchain, hbvalid⟩ := tileAddrWord_bits hpos hchain (up := if endB = 0 then p else 1 - p) (by split <;> omega)
    exact ⟨(Io.getF_setReg_same _ Fld.CTL_TILE_ADDR_POSITION _).trans hbpos, (Io.getF_setReg_same _ Fld.CTL_TILE_ADDR_CHAIN _).trans hbchain,
      (Io.getF_setReg_same _ Fld.CTL_TILE_ADDR_VALID _).trans hbvalid, rfl⟩
  · rintro s p k t1 hsends rfl
    have hgo : ¬ (!s.sendsTime p || s.probePosition p != s.probePosition p) = true := by simp [hsends]
    refine ⟨fun hp => .intro rfl ((if_neg hgo).trans (if_pos hp)), fun i hp hgap hslot => .intro rfl ((if_neg hgo).trans ((if_neg hp).trans ?_)), rfl, rfl⟩
    rw [if_neg (by simp [hgap]), hslot]
  · intro s p payload t2 t3 hok htype hfwd
    have hprobe := State.probeReceived_of_probe t2 t3 hok htype hfwd
    refine ⟨fun htile hmine => ?_, fun htile hmine => ?_, fun hmine => ?_⟩
    · rw [if_pos hmine, if_pos htile] at hprobe
      exact .intro (congrArg Host.Outcome.next hprobe) rfl
    · rw [if_pos hmine, if_neg (by simp [htile])] at hprobe
      exact .intro (congrArg Host.Outcome.next hprobe) rfl
    · rw [if_neg (by simp [hmine])] at hprobe
      exact .intro (congrArg Host.Outcome.next hprobe) ⟨rfl, fun htile hup => State.repeatWord_out payload (hfwd htile) hup⟩
  · intro s port t4 cell
    refine ⟨fun hp hcrc htype => .intro rfl ((if_pos hp).trans (if_pos (by simp [hcrc, htype]))), fun u c hp hcell => .intro rfl ((if_neg hp).trans ?_)⟩
    rw [hcell]
  · intro s p packet
    refine ⟨fun u pl hp hkept => .intro rfl ((if_neg hp).trans ?_), fun h pl hp hread htype hpair => .intro rfl ((if_pos hp).trans ?_)⟩
    · rw [hkept]
    · unfold State.takePairDelay
      rw [hread]
      exact if_pos ⟨htype, hpair⟩
  · intro s n i fin e r hlane hrun
    refine .intro (congrArg Host.Outcome.next (?_ : s.slotComplete n i fin = s.slotEnd n e r fin)) ⟨rfl, _, _, rfl, rfl, rfl⟩
    unfold State.slotComplete
    rw [hlane]
    dsimp only
    rw [hrun]

end Sys2Proof.Machine
end

section
/-! Link training (chapter 11): the ports, their attempts and their equalisers. -/

set_option Elab.async false

namespace Sys2Proof.Machine

/-! ### The ports -/

/-- The entry written is read back. -/
theorem setNth_getD_same {α : Type} (l : List α) (d v : α) : ∀ n, n < l.length → (setNth l n v).getD n d = v := by
  induction l with
  | nil => intro n h; simp at h
  | cons x xs ih =>
    intro n h
    cases n with
    | zero => rfl
    | succ n => simpa [setNth] using ih n (by simpa using h)

theorem State.port_setPort (s : State) {p : Nat} (v : Port) (h : p < s.link.ports.length) : (s.setPort p v).port p = v := by
  unfold State.port
  rw [State.setPort_link]
  exact setNth_getD_same _ _ _ _ h

theorem State.port_of_link {s t : State} (h : t.link = s.link) (p : Nat) : t.port p = s.port p := by
  unfold State.port
  rw [h]

@[simp] theorem State.updateOrigin_link (s : State) : s.updateOrigin.link = s.link :=
  (State.updateOrigin_keeps (State.Keeps.refl s) (Sub.self _)).link.eq (by decide +kernel)

@[simp] theorem State.excusePort_link (s : State) (p : Nat) : (s.excusePort p).link = s.link :=
  (State.excusePort_keeps (State.Keeps.refl s) (Sub.self _)).link.eq (by decide +kernel)

@[simp] theorem State.firePort_link (s : State) (e p : Nat) : (s.firePort e p).link = s.link := State.on_link ..

@[simp] theorem State.portF_link (s : State) (f : Nat → Nat → Field) (p v : Nat) : (s.portF f p v).link = s.link := State.on_link ..

@[simp] theorem State.portBump_link (s : State) (f : Nat → Nat → Field) (p : Nat) : (s.portBump f p).link = s.link := State.on_link ..

/-! ### Attempts -/

theorem State.startAttempts_port (s : State) {p : Nat} (state : Nat) (h : p < s.link.ports.length) :
    (s.startAttempts p state).port p = { s.port p with trying := true, ts2 := false, agreed := false, idle := false, farOffer := 3 } := by
  have hport : ((s.portF Fld.LNK_STATE_STATE p state).portF Fld.LNK_STATE_ATTEMPT p 0).port p = s.port p :=
    State.port_of_link (by simp only [State.portF_link]) p
  unfold State.startAttempts
  rw [State.port_of_link (State.on_link ..), State.port_setPort _ _ (by simpa using h), hport]

theorem State.startAttempts_ports (s : State) (p state : Nat) : (s.startAttempts p state).link.ports.length = s.link.ports.length := by
  unfold State.startAttempts
  simp only [State.on_link, State.setPort_link, State.portF_link, setNth_length]

/-- A port that is up and retrains tries again, with no count of bad measurements and no candidate to adopt (R299). -/
theorem State.retrain_port {s : State} {p : Nat} (hp : p ≠ pairPort) (h : p < s.link.ports.length) (hup : s.portUp p = true) :
    ((s.retrain p).port p).trying = true ∧ ((s.retrain p).port p).low = 0 ∧ ((s.retrain p).port p).adopt = none := by
  unfold State.retrain
  rw [if_neg (by simp [hup])]
  dsimp only
  rw [if_neg hp, State.port_of_link (State.updateOrigin_link _), State.port_of_link (State.firePort_link ..), State.port_of_link (State.excusePort_link ..),
    State.port_setPort _ _ (by simpa [State.startAttempts_ports] using h)]
  refine ⟨?_, rfl, rfl⟩
  rw [State.port_of_link (State.portBump_link ..), State.startAttempts_port _ _ h]

/-! ### Measurements -/

theorem lnkFom_ne_eqCfg (n i : Nat) : Reg.LNK_EQ_CFG ≠ Reg.LNK_FOM n i := by
  unfold Reg.LNK_EQ_CFG Reg.LNK_FOM
  omega

theorem Io.getF_fom_setFom (s : Io) (n i v w : Nat) :
    ((s.setF (Fld.LNK_FOM_FOM n i) v).setF (Fld.LNK_FOM_FOM_LOW n i) w).getF (Fld.LNK_FOM_FOM n i) = v % 256 :=
  (Io.getF_setF_apart (f := Fld.LNK_FOM_FOM_LOW n i) (g := Fld.LNK_FOM_FOM n i) _ _ rfl (show 8 + 8 ≤ 32 by decide) (.inl (show 0 + 8 ≤ 8 by decide))).trans
    (Io.getF_setF_same _ _ _ (show 0 + 8 ≤ 32 by decide))

/-- A figure of merit that is not low clears the count of low ones and is shown (R296). -/
theorem State.fomMeasured_good {s : State} {p ew eh : Nat} (hup : s.portUp p = true) (h : p < s.link.ports.length)
    (hgood : s.getF Fld.LNK_EQ_CFG_FOM_DOWN ≤ min (min ew eh) 255) :
    ((s.fomMeasured p true ew eh).port p).low = 0 ∧ (s.fomMeasured p true ew eh).getF (Fld.LNK_FOM_FOM (p / 4) (p % 4)) = min (min ew eh) 255 := by
  have hdown : ∀ v w, ((s.portF Fld.LNK_FOM_FOM p v).portF Fld.LNK_FOM_FOM_LOW p w).getF Fld.LNK_EQ_CFG_FOM_DOWN = s.getF Fld.LNK_EQ_CFG_FOM_DOWN := fun v w =>
    (Io.getF_setF_other _ _ (lnkFom_ne_eqCfg _ _)).trans (Io.getF_setF_other _ _ (lnkFom_ne_eqCfg _ _))
  unfold State.fomMeasured
  rw [if_neg (by simp [hup])]
  dsimp only
  rw [if_pos rfl, if_neg (by rw [hdown]; omega)]
  refine ⟨?_, ?_⟩
  · rw [State.port_setPort _ _ (by simpa using h)]
  · rw [State.getF, State.setPort_io]
    exact (Io.getF_fom_setFom ..).trans (Nat.mod_eq_of_lt (by omega))

theorem State.portF_out (s : State) (f : Nat → Nat → Field) (p v : Nat) : (s.portF f p v).io.out = s.io.out := rfl

theorem State.portBump_out (s : State) (f : Nat → Nat → Field) (p : Nat) : (s.portBump f p).io.out = s.io.out := Io.bumpF_out ..

theorem State.on_emit_out (s : State) (o : Out) : (s.on (·.emit o)).io.out = o :: s.io.out := rfl

theorem State.eqSettings_setPort (s : State) (p q : Nat) (v : Port) : (s.setPort p v).eqSettings q = s.eqSettings q := rfl

/-- Settles O21: each command by the state of its port, which leaves one branch. -/
theorem linkTraining : Obligations.LinkTraining := by
  refine ⟨?_, fun s port => .intro rfl rfl, fun s p hp h hup => State.retrain_port hp h hup, ?_, ?_, ?_, ?_, ?_, ?_, ?_, ?_, ?_⟩
  · exact fun s port invalid h => .intro rfl (if_neg h)
  · exact fun s port hup => .intro rfl ⟨rfl, fun hp h => State.retrain_port hp h hup⟩
  · rintro s port offer ts2 htry hagreed u v rfl rfl
    have hgo : ¬ (!(s.port port).trying || (s.port port).agreed) = true := by simp [htry, hagreed]
    exact ⟨fun h1 h2 => .intro rfl ((if_neg hgo).trans (if_pos ⟨h1, h2⟩)), fun h => .intro rfl ((if_neg hgo).trans (if_neg fun hmet => h.elim (by simp [hmet.1]) hmet.2))⟩
  · rintro s port ctle t1 t2 t3 fom skew htry hagreed u rfl
    have hgo : ¬ (!(s.port port).trying || !(s.port port).agreed) = true := by simp [htry, hagreed]
    exact ⟨fun h => .intro rfl ((if_neg hgo).trans (if_pos h)), fun h => .intro rfl ((if_neg hgo).trans (if_neg (by omega)))⟩
  · exact fun s port h hidle => .intro rfl (if_neg (by simp [hidle]))
  · intro s port hoffer htry
    exact .intro rfl ⟨if_neg (by simp [hoffer]), _, _, rfl, rfl, if_neg (by simp [htry])⟩
  · exact fun s port hst htry => .intro rfl (if_pos ⟨hst, by simp [htry]⟩)
  · exact fun s port hst => .intro rfl (if_pos hst)
  · intro s port ew eh hup h
    refine ⟨fun hgood => .intro rfl (State.fomMeasured_good hup h hgood), .intro (congrArg Host.Outcome.next (if_neg (by simp [hup]))) ?_⟩
    rw [if_neg (by decide), State.port_setPort _ _ h]
    simp only [decide_eq_true_eq]
  · intro s port k c h hadopt hcand
    have hstep : exec (.eqStepAdopt port) s = .next (s.eqAdopt port) := rfl
    unfold State.eqAdopt at hstep
    rw [hadopt] at hstep
    dsimp only at hstep
    rw [State.eqSettings_setPort, hcand] at hstep
    refine .intro hstep ⟨?_, ?_⟩
    · rw [State.port_of_link (State.on_link ..), State.port_of_link (State.portBump_link ..), State.port_of_link (State.portF_link ..),
        State.port_of_link (State.portF_link ..), State.port_of_link (State.portF_link ..), State.port_of_link (State.portF_link ..), State.port_setPort _ _ h]
    · rw [State.on_emit_out, State.portBump_out, State.portF_out, State.portF_out, State.portF_out, State.portF_out, State.setPort_io]

end Sys2Proof.Machine
end

section
/-! The return channel (chapter 11): cells, remote registers, telemetry and acknowledgements. -/

set_option Elab.async false

namespace Sys2Proof.Machine

@[simp] theorem State.reportReturn_link (s : State) : s.reportReturn.link = s.link := State.on_link ..

/-- A cell with a packet to send carries it: the packet waits no longer and, where its type is acknowledged, is outstanding (R290). -/
theorem State.cellPass_of_fill {s u : State} {c sq p : Nat} {q : RetPacket} (hdrain : s.drainForward = u) (htile : s.io.isTile = true)
    (hsel : u.selected = some p) (hnext : u.nextReturn = some q) (hfill : u.mayFill c sq = true) :
    (s.cellPass c sq).link = { u.link with
      waiting := eraseFirst (· == q) u.link.waiting
      outstanding := if acknowledged q.ptype then u.link.outstanding ++ [{ q with seq := some (q.seq.getD u.link.seq), sent := u.io.tick }] else u.link.outstanding
      seq := if acknowledged q.ptype && q.seq.isNone then (u.link.seq + 1) % 256 else u.link.seq } := by
  unfold State.cellPass
  rw [if_neg (by simp [htile]), hdrain]
  dsimp only
  rw [hsel, hnext]
  dsimp only
  rw [if_neg (by simp [hfill]), State.on_link, State.reportReturn_link]

/-- A ready remote register entry of the own operation is rejected, or sends its request (R294). -/
theorem State.remoteReg_of_ready {s : State} {ring i : Nat} {e : List Byte} {mine : Nat → Bool} (hready : s.io.Ready ring i 0x41 true (remoteFieldsOk e) e)
    (hmine : mine (fieldAt e 10 1) = true) :
    s.remoteReg ring i mine =
      if 1 < fieldAt e 10 1 then s.on (·.answer ring i e { status := 0x01, detail := 1 })
      else if !s.isOutput (fieldAt e 8 1) then s.on (·.answer ring i e { status := 0x01, detail := 2 })
      else if s.portState (fieldAt e 8 1) = 4 then s.on (·.answer ring i e { status := 0x01, detail := 3 })
      else (s.on (·.activate ring i e)).sendRegReq (fieldAt e 8 1) (fieldAt e 9 1) ring i (fieldAt e 10 1) (fieldAt e 12 4) (fieldAt e 16 4) := by
  obtain ⟨hentry, hop, hstatus⟩ := hready
  unfold State.remoteReg
  rw [hentry]
  dsimp only
  rw [if_neg (by simp [hop, hmine]), hstatus]

/-- What a ready remote register entry with operation `op` 0 or 1 does (R294). -/
theorem State.remoteReg_cases {s : State} {ring i op : Nat} {e : List Byte} {mine : Nat → Bool} (hready : s.io.Ready ring i 0x41 true (remoteFieldsOk e) e)
    (hop : fieldAt e 10 1 = op) (hle : op ≤ 1) (hmine : mine op = true) :
    (s.isOutput (fieldAt e 8 1) = false → s.remoteReg ring i mine = s.on (·.answer ring i e { status := 0x01, detail := 2 })) ∧
    (s.isOutput (fieldAt e 8 1) = true → s.portState (fieldAt e 8 1) = 4 → s.remoteReg ring i mine = s.on (·.answer ring i e { status := 0x01, detail := 3 })) ∧
    (s.isOutput (fieldAt e 8 1) = true → s.portState (fieldAt e 8 1) ≠ 4 →
      s.remoteReg ring i mine = (s.on (·.activate ring i e)).sendRegReq (fieldAt e 8 1) (fieldAt e 9 1) ring i op (fieldAt e 12 4) (fieldAt e 16 4)) := by
  subst hop
  have hrun := (State.remoteReg_of_ready hready hmine).trans (if_neg (by omega))
  refine ⟨fun hout => hrun.trans (if_pos (by simp [hout])), fun hout hstate => ?_, fun hout hstate => ?_⟩
  · exact hrun.trans ((if_neg (by simp [hout])).trans (if_pos hstate))
  · exact hrun.trans ((if_neg (by simp [hout])).trans (if_neg hstate))

/-- Settles O22: a packet that is kept acts by its type, and a request by the entry that waits for it. -/
theorem returnChannel : Obligations.ReturnChannel := by
  refine ⟨?_, ?_, ?_, ?_, ?_, ?_, ?_, ?_, ?_, ?_, ?_, ?_, ?_, ?_, ?_⟩
  · intro s port hport hup hsends
    refine .intro (congrArg Host.Outcome.next (if_neg (by simp [hup, hsends]))) ⟨rfl, ?_⟩
    rw [State.port_of_link (State.on_link ..), State.port_setPort _ _ hport]
  · intro s u port packet pl h ok htake htype
    refine .intro (congrArg Host.Outcome.next ?_) rfl
    rw [htake]
    exact if_pos htype
  · intro s u cell alignSeq p hdrain htile hsel
    have hpass : exec (.returnCellPass cell alignSeq) s = .next (s.cellPass cell alignSeq) := rfl
    refine ⟨fun hnone => ?_, fun q hnext => ⟨fun hfill => ?_, fun hfill => .intro hpass ?_⟩⟩
    · unfold State.cellPass at hpass
      rw [if_neg (by simp [htile]), hdrain] at hpass
      dsimp only at hpass
      rw [hsel, hnone] at hpass
      exact .intro hpass rfl
    · unfold State.cellPass at hpass
      rw [if_neg (by simp [htile]), hdrain] at hpass
      dsimp only at hpass
      rw [hsel, hnext] at hpass
      exact .intro hpass (if_pos (by simp [hfill]))
    · rw [State.cellPass_of_fill hdrain htile hsel hnext hfill]
      exact ⟨rfl, rfl, rfl⟩
  · intro s port cell
    exact ⟨fun htile => .intro rfl (if_pos htile), fun htile hhost hbad => .intro rfl ((if_neg (by simp [htile])).trans (if_pos (by simp [hhost, hbad])))⟩
  · intro s u port cell c hcell
    exact .intro (congrArg Host.Outcome.next (by rw [hcell])) rfl
  · intro s u port cell c hcell
    have hrun : exec (.telemetryReceived port cell) s = .next (u.telemetry c.chain c.position c.payload) := congrArg Host.Outcome.next (by rw [hcell])
    unfold State.telemetry at hrun
    refine ⟨fun h => ?_, fun h => ?_, fun h => ?_⟩
    · rw [h] at hrun
      exact .intro hrun rfl
    · rw [h] at hrun
      exact .intro hrun rfl
    · obtain ⟨k, hk⟩ := Nat.exists_eq_add_of_le' h
      rw [hk] at hrun
      exact .intro hrun rfl
  · intro s chain position hhost hadm hstale
    refine .intro (congrArg Host.Outcome.next (if_pos (by simp [hhost, hadm, hstale]))) ⟨rfl, fun hcan => ?_⟩
    exact Io.fireObj_recorded _ _ _ _ _ hcan
  · intro s ring i e hready
    refine ⟨fun h => .intro rfl ((State.remoteReg_of_ready hready (by simp; omega)).trans (if_pos h)), fun h => ?_⟩
    obtain ⟨h1, h2, h3⟩ := State.remoteReg_cases (mine := (· != 1)) hready h (by decide) rfl
    exact ⟨fun hout => .intro rfl (h1 hout), fun hout hst => .intro rfl (h2 hout hst), fun hout hst => .intro rfl (h3 hout hst)⟩
  · intro s ring i e hready h
    obtain ⟨h1, h2, h3⟩ := State.remoteReg_cases (mine := (· == 1)) hready h (by decide) rfl
    exact ⟨fun hout => .intro rfl (h1 hout), fun hout hst => .intro rfl (h2 hout hst), fun hout hst => .intro rfl (h3 hout hst)⟩
  · exact fun s chain pos ring index op off v => rfl
  · intro s u port cell c hcell
    exact .intro (congrArg Host.Outcome.next (by rw [hcell])) rfl
  · intro s chain pos pl e w i hwait hattest hpoll hactive
    unfold State.regReply
    rw [hwait]
    dsimp only
    rw [if_neg hattest, if_neg hpoll, hactive]
    dsimp only
    rw [State.on_link, State.on_io]
    exact ⟨rfl, rfl⟩
  · intro s chain tag w hwait hattest
    have hrun : exec (.regReqTimeout chain tag) s = .next (s.regTimeout chain tag) := by
      refine congrArg Host.Outcome.next ?_
      rw [hwait]
      exact if_neg fun h => hattest h.1
    unfold State.regTimeout at hrun
    rw [hwait] at hrun
    dsimp only at hrun
    refine ⟨?_, fun hwaits => .intro hrun (if_pos hwaits)⟩
    rintro hdue hmax u rfl
    rw [if_neg (Nat.not_lt.mpr hdue), if_neg (Nat.not_lt.mpr hmax)] at hrun
    refine ⟨fun i e hactive => ?_, fun hactive => ?_⟩
    · rw [hactive] at hrun
      exact .intro hrun rfl
    · rw [hactive] at hrun
      exact .intro hrun rfl
  · intro s port packet
    refine ⟨fun htile => .intro rfl (if_pos htile), ?_⟩
    rintro c u h pl htile hcascade htake htype cells rfl
    refine .intro rfl ((if_neg (by simp [htile])).trans ?_)
    rw [hcascade, htake]
    exact if_neg (by simp [htype])
  · intro s seq
    refine ⟨.intro rfl (if_pos rfl), fun stream c sent k pl hstream hfind hcascade hdue => ?_⟩
    have hrun : exec (.returnAckTimeout stream seq) s = _ := congrArg Host.Outcome.next (if_neg hstream)
    dsimp only at hrun
    rw [hfind, hcascade] at hrun
    replace hrun := hrun.trans (congrArg Host.Outcome.next (if_neg (Nat.not_lt.mpr hdue)))
    exact ⟨fun hk => .intro hrun (if_pos hk), fun hk => .intro hrun (if_neg (Nat.not_lt.mpr hk))⟩

end Sys2Proof.Machine
end

section
/-! Layers, commits and fences (chapter 7). -/

set_option Elab.async false

namespace Sys2Proof.Machine

theorem State.on_congr {s : State} {f g : Io → Io} (h : f s.io = g s.io) : s.on f = s.on g := by
  unfold State.on
  rw [h]

/-! ### Reads of the host that end -/

/-- A read that ended with data, with no bad part, has its data; one that failed, or had a bad part, its fault. -/
theorem readOutcome_of_bad {bad : Bool} {res : ReadResult} {k : Nat} (h : (readOutcome res = .inr k ∧ bad = false) ∨ (k = 8 ∧ bad = true)) :
    (if bad = true then .inr 8 else readOutcome res) = .inr k := by
  rcases h with ⟨hout, rfl⟩ | ⟨rfl, rfl⟩
  · exact hout
  · rfl

/-! ### COMMIT entries -/

/-- A read of descriptors that ends, with its fault or its data (R176). -/
theorem State.descRead_of_run {s u : State} {ring i : Nat} {res : ReadResult} {c : CommitRun} (hrun : s.video.lay.commits.find? (fun c => c.ring == ring && c.index == i && c.desc.isNone) = some c)
    (hheld : s.io.held (.descriptors ring i) = false) (hu : u = s.poisonSeen res) :
    s.descRead ring i res = match (if u.io.badReads.contains (.descriptors ring i) then .inr 8 else readOutcome res) with
      | .inr k => (u.on (·.readFault (.descriptors ring i) (fieldAt c.entry 17 1) (fieldAt c.entry 8 8) k)).descFailed ring i
      | .inl bs => (u.on (fun io => (Io.settle (io.completeOwn (.descriptors ring i))).forget (.descriptors ring i))).onLay (fun l =>
          { l with commits := l.commits.map (fun x => if x.ring = ring then { x with desc := some (if bit (fieldAt c.entry 16 1) 0
              then u.io.found (.descriptors ring i) (fieldAt c.entry 8 8) (128 * fieldAt c.entry 18 1) else sub bs 0 (128 * fieldAt c.entry 18 1)) } else x) }) := by
  subst hu
  unfold State.descRead
  rw [hrun]
  dsimp only
  rw [if_neg (by simp [hheld])] <;> rfl

/-- A read of a fence word that ends, with its fault or its value (R180). -/
theorem State.fenceRead_of_run {s u : State} {key : Nat} {res : ReadResult} {f : FenceRead} (hrun : s.video.lay.fenceReads.find? (·.key == key) = some f)
    (hheld : s.io.held (.fence key) = false) (hu : u = (s.endFenceRead f).poisonSeen res) :
    s.fenceRead key res = match (if u.io.badReads.contains (.fence key) then .inr 8 else readOutcome res) with
      | .inr k => u.fenceFailed f k
      | .inl bs => (u.on (fun io => (Io.settle (io.completeOwn (.fence key))).forget (.fence key))).onLay (fun l =>
          { l with fences := l.fences.map (fun e => if e.key = key ∧ e.index = f.index ∧ f.period = u.io.tick
              then { e with value := some (if f.host then fieldAt bs 0 8 else leNat (u.io.found (.fence key) f.addr 8)) } else e) }) := by
  subst hu
  unfold State.fenceRead
  rw [hrun]
  dsimp only
  rw [if_neg (by simp [hheld])] <;> rfl

/-- Settles O23: a commit by the checks of its descriptor, its fences and its deadline. -/
theorem commitsAndFences : Obligations.CommitsAndFences := by
  refine ⟨?_, ?_, ?_, ?_, ?_, ?_, ?_, ?_⟩
  · intro s ring i e hready
    have hrun := fun body => State.onEntry_of_ready body hready
    refine ⟨fun hbad => .intro rfl ((hrun _).trans (if_pos hbad)), ?_⟩
    rintro u ⟨io, o⟩ rfl hr h0 h64 halign
    have hgo : ¬ (fieldAt e 18 1 = 0 ∨ 64 < fieldAt e 18 1 ∨ fieldAt e 8 8 % 64 ≠ 0) := by omega
    refine ⟨?_, ?_⟩
    · rintro rfl
      refine .intro rfl ((hrun _).trans ((if_neg hgo).trans ?_))
      dsimp only
      rw [← hr]
    · rintro k a rfl
      refine .intro rfl ((hrun _).trans ((if_neg hgo).trans ?_))
      dsimp only
      rw [← hr]
  · intro s u ring i res c hc hheld hu
    have hread := State.descRead_of_run hc hheld hu
    refine ⟨fun bs hbs hbad => .intro rfl (congrArg State.advance (hread.trans ?_)), fun k hk => .intro rfl (congrArg State.advance (hread.trans ?_))⟩
    · rw [hbad, hbs]
      rfl
    · rw [readOutcome_of_bad hk]
  · intro s ring i e hready
    have hrun := fun body => State.onEntry_of_ready body hready
    refine ⟨fun h => .intro rfl ((hrun _).trans (if_pos h)), ?_⟩
    rintro v rfl h
    exact .intro rfl ((hrun _).trans ((if_neg (Nat.not_lt.mpr h)).trans (State.on_congr rfl)))
  · rintro s key i r u f ⟨io, o⟩ hrec hany rfl rfl hx
    have hrun : exec (.fenceWordRead key) s = execFenceWordRead key s := rfl
    unfold execFenceWordRead at hrun
    rw [hrec] at hrun
    dsimp only at hrun
    rw [if_neg (by simp [hany]), ← hx] at hrun
    refine ⟨?_, ?_⟩
    · rintro rfl
      exact .intro hrun rfl
    · rintro k a rfl
      exact .intro hrun rfl
  · intro k d c hactive hdue hdesc hfault hchanged r j hfence
    unfold Deadline.commit
    rw [if_neg (by simp [Option.isSome_iff_ne_none.mp hactive, hdue]), if_neg (by simp [Option.isSome_iff_ne_none.mp hdesc])]
    dsimp only
    rw [hfault]
    dsimp only
    rw [hchanged]
    dsimp only
    rw [hfence]
  · intro s u key res f hf hheld hu
    have hread := State.fenceRead_of_run hf hheld hu
    refine ⟨?_, fun k hk => .intro rfl (congrArg State.advance (hread.trans ?_))⟩
    · rintro bs v hbs hbad rfl
      refine .intro rfl (congrArg State.advance (hread.trans ?_))
      rw [hbad, hbs]
      rfl
    · rw [readOutcome_of_bad hk]
  · intro s hop hhost hgap hdeadline
    have hrun : exec .compileDeadline s = .next s.compileDeadline := rfl
    unfold State.compileDeadline at hrun
    rw [if_neg (by simp [hop, hhost, hgap, hdeadline])] at hrun
    refine ⟨fun hserving hany => ?_, fun hserving hany => ?_, ?_⟩
    · rw [if_pos (by simp [hserving]), if_pos hany] at hrun
      exact .intro hrun rfl
    · rw [if_pos (by simp [hserving]), if_neg (by simp [hany])] at hrun
      exact .intro hrun rfl
    · intro u d hserving hu hd
      have hall : u.compileAll s.io.tick = d := by
        unfold State.compileAll
        exact hd.symm
      rw [if_neg (by simp [hserving]), ← hu] at hrun
      dsimp only at hrun
      rw [hall] at hrun
      exact .intro hrun rfl
  · intro s ring i r hrel hdue hreads hpair
    have hrun : exec (.releaseDue ring i) s = execReleaseDue ring i s := rfl
    unfold execReleaseDue at hrun
    rw [hrel] at hrun
    dsimp only at hrun
    rw [if_neg (by rcases hpair with h | h | h | h <;> simp [hreads, hdue, h])] at hrun
    refine .intro hrun ?_
    rw [State.on_video, State.on_io, State.onLay_io]
    exact ⟨rfl, rfl⟩

end Sys2Proof.Machine
end

section
/-! Capture and composition (chapters 7 and 8). -/

set_option Elab.async false

namespace Sys2Proof.Machine

/-- A capture slot with rows of a captured frame writes them to its buffer, to a fault or to the end (R216). -/
theorem State.captureSlot_of_rows {s : State} {region lo hi lane : Nat} {mem : HostMem} {r : ComposedRow} {rest : List ComposedRow} {b : CaptureBuf}
    {rows : List ComposedRow} {io : Io} {done : Nat} {f : Option (Nat × Nat)}
    (hmine : s.video.fifo.filter (fun r => r.region == region && decide (lo ≤ r.row ∧ r.row ≤ hi)) = r :: rest)
    (hbuf : s.video.captures.find? (fun b => b.region == region && b.frame == some r.frame) = some b)
    (hrows : rows = (r :: rest).filter (fun x => x.frame == r.frame))
    (hops : (io, done, f) = Io.captureOps mem region b (rows.flatMap (s.captureLines b)) s.io) :
    s.captureSlot region lo hi lane mem =
      let v : State := { s with io := Io.settle (io.completeOwn (.entry b.ring b.index)) }
      match (generalizing := false) f with
      | some (k, a) =>
        (v.on (fun io => (Io.settle ((io.countFault).logFault region a k 1 (if bit (fieldAt b.entry 10 1) 0 then 0 else fieldAt b.entry 11 1) lane none true)).fireIn 101 region)).endCapture b
          { status := 0x06, detail := k, info := b.bytes + done }
      | none =>
        (((v.onVideo (fun x => { x with fifo := x.fifo.filter (fun r => !rows.contains r) })).setCapture
          { b with written := b.written + rows.length, bytes := b.bytes + done }).captureDone
          { b with written := b.written + rows.length, bytes := b.bytes + done }).reportRows region := by
  subst hrows
  unfold State.captureSlot
  dsimp only
  rw [hmine]
  dsimp only
  rw [hbuf]
  dsimp only
  rw [← hops] <;> rfl

/-- A turn of a compose run with room for a row composes it, or waits for its reads (R207). -/
theorem State.composeOn_of_room {k lane : Nat} {run : ComposeRun} {s u : State} (hmore : run.next ≤ run.last) (hroom : (s.handoffOf run.region).length < 4)
    (hu : u = (if run.fetched then s else s.fetchRow run lane run.next run.all)) :
    State.composeOn (k + 1) run lane s =
      if u.io.busy (.slot run.region run.slot) then u.onVideo (fun v => { v with composing := v.composing ++ [{ run with fetched := true, waiting := false }] })
      else State.composeOn k { run with next := run.next + 1, fetched := false, waiting := false } lane (u.composeRow run run.next) := by
  subst hu
  rw [State.composeOn]
  dsimp only
  rw [if_neg (Nat.not_lt.mpr hmore), if_neg (Nat.not_le.mpr hroom)]

/-- Settles O24: an entry by the case of its checks, a slot by the operation that it was given. -/
theorem captureAndComposition : Obligations.CaptureAndComposition := by
  refine ⟨?_, ?_, ?_, ?_, ?_⟩
  · intro s ring i e hready
    have hrun : exec (.captureBuffer ring i) s = _ := congrArg Host.Outcome.next (State.onEntry_of_ready _ hready)
    refine ⟨?_, fun hcase hfull => ?_, fun hcase hroom _ => ?_⟩
    · intro d hcase hd
      obtain ⟨k, rfl⟩ := Nat.exists_eq_succ_of_ne_zero hd
      dsimp only at hrun
      rw [hcase] at hrun
      exact .intro hrun rfl
    · dsimp only at hrun
      rw [hcase] at hrun
      exact .intro hrun (if_pos hfull)
    · dsimp only at hrun
      rw [hcase] at hrun
      exact .intro hrun (if_neg (Nat.not_le.mpr hroom))
  · rintro s u region slot mem sl r rest b ⟨io, done, f⟩ hdue hkind rfl hmine hbuf rows hrows hops v rfl
    have hrun : exec (.hostCaptureWrite region slot mem) s = execHostCaptureWrite region slot mem s := rfl
    unfold execHostCaptureWrite at hrun
    rw [hdue] at hrun
    dsimp only at hrun
    rw [if_neg (by simp [hkind]), State.captureSlot_of_rows hmine hbuf hrows hops] at hrun
    refine ⟨?_, ?_⟩
    · rintro k a rfl
      exact .intro hrun rfl
    · rintro rfl b' rfl
      exact .intro hrun rfl
  · rintro s u region slot late mem n sl run hdue hkind hop hfenced hfetch hcompose rfl hdone hcomposing rfl
    have hrun : exec (.fetchComposeSlot region slot late mem n) s = execFetchComposeSlot region slot late mem n s := rfl
    unfold execFetchComposeSlot at hrun
    rw [hdue] at hrun
    dsimp only at hrun
    rw [if_neg (by simp [hkind, hop, hfenced, hfetch, hcompose, -List.contains_eq_mem]), if_neg (by rw [hdone, hcomposing]; decide)] at hrun
    exact .intro hrun rfl
  · intro k run lane s u hmore hroom hu
    have hturn := State.composeOn_of_room (k := k) hmore hroom hu
    exact ⟨fun hbusy => hturn.trans (if_neg (by simp [hbusy])), fun hbusy => hturn.trans (if_pos hbusy)⟩
  · rintro s u region r rest hhand rfl
    have hrun : exec (.handoffRowFree region) s = execHandoffRowFree region s := rfl
    unfold execHandoffRowFree at hrun
    rw [hhand] at hrun
    dsimp only at hrun
    refine ⟨fun hnone => ?_, fun run sl hwaiting hslot => ?_⟩
    · rw [hnone] at hrun
      exact .intro hrun rfl
    · rw [hwaiting] at hrun
      dsimp only at hrun
      unfold State.resumeRun at hrun
      rw [hslot] at hrun
      exact .intro hrun rfl

end Sys2Proof.Machine
end

section
/-! Encode slots, key requests and decoding (chapters 9 and 10). -/

set_option Elab.async false

namespace Sys2Proof.Machine

/-! ### Decoders -/

theorem State.decoder_stream (s : State) (st : Nat) : (s.decoder st).stream = st := by
  unfold State.decoder
  cases h : s.video.decoders.find? (·.stream == st) with
  | none => rfl
  | some d => simpa using List.find?_some h

theorem State.decoder_setDecoder (s : State) {d : Decoder} {st : Nat} (h : d.stream = st) : (s.setDecoder d).decoder st = d := by
  unfold State.decoder State.setDecoder
  rw [State.onVideo_video, List.find?_cons_of_pos (by simp [h])]
  rfl

/-! ### Segments and key requests -/

/-- A segment packet that is taken by a tile is kept where it is the tile's own (R240). -/
theorem State.segmentReceived_of_tile {s u : State} {port : Nat} {packet pl : List Byte} {h : PacketHead} {ok : Bool}
    (htake : s.takePacket port packet = (u, some (h, pl, ok))) (htype : h.ptype = 1) (htile : u.io.isTile = true) :
    s.segmentReceived port packet false = if u.keeps h && !h.bcast then u.keepSegment 0 pl ok else u := by
  unfold State.segmentReceived
  dsimp only
  rw [if_neg (by decide), htake]
  dsimp only
  rw [if_neg (by simp [htype]), if_pos htile]

/-- A segment packet of a cascade's own tile is kept for its decoder (R240). -/
theorem State.segmentReceived_of_cascade {s u : State} {port : Nat} {packet pl : List Byte} {h : PacketHead} {ok : Bool} {c : CascadePort}
    (htake : s.takePacket port packet = (u, some (h, pl, ok))) (htype : h.ptype = 1) (htile : u.io.isTile = false) (hport : u.cascadePort port = some c)
    (hchain : c.chain = h.chain) (hpos : c.position = h.position) : s.segmentReceived port packet false = u.keepSegment (port + 1) pl ok := by
  unfold State.segmentReceived
  dsimp only
  rw [if_neg (by decide), htake]
  dsimp only
  rw [if_neg (by simp [htype]), if_neg (by simp [htile]), hport]
  exact if_pos ⟨hchain, hpos⟩

/-- Settles O25: a slot by its operation, a segment by its place in the frame, a row by its cut-off. -/
theorem encodingAndDecoding : Obligations.EncodingAndDecoding := by
  refine ⟨?_, ?_, ?_, ?_, ?_, ?_, ?_, ?_, ?_⟩
  · rintro s u region slot late sl e r hdue hslice hkind hop hfenced rfl rfl
    have hrun : exec (.encodeSlot region slot late) s = .next (s.encodeSlot region slot late).compareAll := rfl
    unfold State.encodeSlot at hrun
    rw [hdue] at hrun
    dsimp only at hrun
    rw [hslice] at hrun
    dsimp only at hrun
    rw [if_neg (by simp [hkind, hop, hfenced, -List.contains_eq_mem])] at hrun
    refine .intro hrun ?_
    simp only [beq_iff_eq]
  · intro s u port cell x c hcell
    exact .intro (congrArg Host.Outcome.next (by rw [hcell])) rfl
  · intro s chain pos x first last pl hserving hpair hrows
    unfold State.keyRequest
    rw [if_neg (by simp [hserving]), hrows]
    exact if_neg hpair
  · intro s u port packet pl h ok htake htype
    refine ⟨fun htile hkeeps hbcast => ?_, fun htile hnot => ?_, fun c htile hport hchain hpos => ?_⟩
    · exact .intro rfl (congrArg State.compareAll ((State.segmentReceived_of_tile htake htype htile).trans (if_pos (by simp [hkeeps, hbcast]))))
    · exact .intro rfl (congrArg State.compareAll ((State.segmentReceived_of_tile htake htype htile).trans
        (if_neg (by rcases hnot with h | h <;> simp [h]))))
    · exact .intro rfl (congrArg State.compareAll (State.segmentReceived_of_cascade htake htype htile hport hchain hpos))
  · intro s region slot lo k sl hdue hdec hfenced hstopped
    have hrun : exec (.decodeSlot region slot) s = execDecodeSlot region slot s := rfl
    unfold execDecodeSlot at hrun
    rw [hdue] at hrun
    dsimp only at hrun
    rw [hdec] at hrun
    exact .intro hrun (if_neg (by simp [hfenced, hstopped, -List.contains_eq_mem]))
  · intro s region slot lo k sl hdue hkind hdec hfenced hstopped
    have hrun : exec (.cascadedInputDecode region slot) s = execCascadedInputDecode region slot s := rfl
    unfold execCascadedInputDecode at hrun
    rw [hdue] at hrun
    dsimp only at hrun
    rw [hdec] at hrun
    exact .intro hrun (if_neg (by simp [hkind, hfenced, hstopped, -List.contains_eq_mem]))
  · intro s region slot row late sl e hslot
    have hrun : exec (.rowCutoff region slot row late) s = execRowCutoff region slot row late s := rfl
    unfold execRowCutoff at hrun
    rw [hslot] at hrun
    dsimp only at hrun
    refine ⟨fun hkind hslice hcovers hrow => ?_, ?_⟩
    · rw [if_neg hkind, hslice] at hrun
      dsimp only at hrun
      rw [if_neg (by simp [hcovers, hrow]), if_pos rfl] at hrun
      exact .intro hrun rfl
    · rintro st rfl hkind hslice hcovers hrow
      rw [if_pos hkind, hslice] at hrun
      dsimp only at hrun
      rw [if_neg (by simp [hcovers, hrow]), if_neg (by omega)] at hrun
      exact .intro hrun rfl
  · intro s st n e frame row hsettled
    unfold State.lateRow
    exact if_pos hsettled
  · intro s port x f e hslice hframe hall
    have hrun : exec (.cascadeFrameComplete port x) s = execCascadeFrameComplete port x s := rfl
    unfold execCascadeFrameComplete at hrun
    dsimp only at hrun
    rw [hslice, hframe] at hrun
    dsimp only at hrun
    rw [if_neg (by rw [hall]; decide)] at hrun
    refine .intro hrun ?_
    rw [State.decoder_setDecoder (st := port + 1)]
    · exact ⟨rfl, rfl⟩
    · exact s.decoder_stream _

end Sys2Proof.Machine
end

section
/-! The lamp pipeline, wear and the ceiling of the wall (chapter 13). -/

set_option Elab.async false

namespace Sys2Proof.Machine

/-- A lamp slot that runs turns the rows of its operand that are not yet done into drive codes (R340). -/
theorem State.lampSlot_of_run {s : State} {n i frame : Nat} {late : Bool} {sl : Slot} {e : Position} {l : LampLatch} (hdue : s.dueSlot n i = some sl)
    (hslice : s.slice = some e) (hframe : frame = (if late then s.io.tick else s.io.tick + 1)) (hkind : sl.kind = 0x05)
    (hfenced : s.video.fenced.contains n = false) (hstopped : s.blockStopped n 4 = false) (hlatch : s.latchOf frame = some l) :
    s.lampSlot n i late = (((List.range (bits sl.operand 12 4 + 1)).map (bits sl.operand 0 12 + ·)).filter (fun r =>
      decide (r < e.rows) && !s.lamp.rows.any (fun x => x.frame == frame && x.row == r))).foldl (fun s r => s.lampRow n sl.lane e l r) (s.startSlot n i true late) := by
  subst hframe
  unfold State.lampSlot
  rw [hdue, hslice]
  dsimp only
  rw [if_neg (by simp [hkind, hfenced, hstopped, -List.contains_eq_mem]), hlatch]

/-- Settles O26: a slot by its operation, the ceiling by who sets it. -/
theorem lampsAndWear : Obligations.LampsAndWear := by
  refine ⟨?_, ?_, ?_, ?_⟩
  · intro s u region slot frame late sl e l hdue hslice hframe hkind hfenced hstopped hlatch hu
    have hslot := (State.lampSlot_of_run hdue hslice hframe hkind hfenced hstopped hlatch).trans hu.symm
    have hrun : exec (.lampPipelineSlot region slot late) s = execLampPipelineSlot region slot late s := rfl
    unfold execLampPipelineSlot at hrun
    rw [hslice] at hrun
    dsimp only at hrun
    rw [hslot, ← hframe] at hrun
    refine .intro hrun ?_
    simp only [Bool.and_eq_true, Bool.not_eq_true', decide_eq_false_iff_not, decide_eq_true_eq]
  · rintro s u v region slot frame late sl e l hdue hslice rfl hkind hop hwear hfenced hstopped hlatch rfl rfl
    have hrun : exec (.wearSampleSlot region slot late) s = .next (s.wearSlot region slot late) := rfl
    unfold State.wearSlot at hrun
    rw [hdue, hslice] at hrun
    dsimp only at hrun
    rw [if_neg (by simp [hkind, hop, hwear, hfenced, hstopped, -List.contains_eq_mem]), hlatch] at hrun
    exact .intro hrun rfl
  · intro s hop
    refine ⟨fun c htile hlamps hvalid hnext => .intro rfl ((if_neg (by simp [hop])).trans ((if_pos htile).trans ((if_pos (by simp [hlamps, hvalid])).trans ?_))),
      fun c htile hceil hserving htick hnext => .intro rfl ((if_neg (by simp [hop])).trans ((if_neg (by simp [htile])).trans
        ((if_pos (by simp [hceil, hserving, htick])).trans ?_)))⟩
    · rw [hnext]
    · rw [hnext]
  · intro s u port packet b hkept htile
    refine .intro (congrArg Host.Outcome.next ?_) rfl
    rw [hkept]
    exact if_neg (by simp [htile])

end Sys2Proof.Machine
end

section
/-! Driver groups, the broadcast SYNC and the diagnostics of lamps (chapters 14 and 15). -/

set_option Elab.async false

namespace Sys2Proof.Machine

/-! ### Loads and TE -/

/-- A driver-load slot that runs waits for TE or loads its groups' first rows (R370, R377). -/
theorem State.driverLoadSlot_of_run {s : State} {region slot g : Nat} {late : Bool} {input : LoadInput} {sl : Slot} (hdue : s.dueSlot region slot = some sl)
    (hg : g = 12 * region + (sl.lane - 13)) (hkind : sl.kind = 0x06) (hlo : 13 ≤ sl.lane) (hhi : sl.lane ≤ 24) (hlamps : s.io.hasLamps = true)
    (hop : s.io.operational = true) (hused : s.groupUsed g = true) (hpower : s.boot.power ≠ 2) (hfenced : s.video.fenced.contains region = false)
    (hstopped : s.driversStopped region = false) (hsynced : s.video.synced < s.loadFrame sl late) :
    exec (.driverLoadSlot region slot late input) s =
      let u := s.startSlot region slot true late
      .next (if bits sl.operand 0 6 = 0 && u.selfRefresh (u.groupProfile g) && u.isF (Fld.DRV_TE_CFG_ENABLE region) then
          u.setGroup { u.group g with waiting := some (slot, input) }
        else u.loadSlot g (s.loadFrame sl late) (bits sl.operand 0 6) (bits sl.operand 6 6 + 1) input) := by
  subst hg
  have hrun : exec (.driverLoadSlot region slot late input) s = execDriverLoadSlot region slot late input s := rfl
  unfold execDriverLoadSlot at hrun
  rw [hdue] at hrun
  dsimp only at hrun
  rw [if_neg (by simp [hkind, hlamps, hop, hused, hpower, hfenced, hstopped, -List.contains_eq_mem]; omega)] at hrun
  exact hrun

/-- The level of TE is shown; its polarity and its enable stay as configured. -/
theorem State.teLevel_isF (s : State) (n v : Nat) :
    (s.setF (Fld.DRV_TE_STAT_LEVEL n) v).isF (Fld.DRV_TE_CFG_POLARITY n) = s.isF (Fld.DRV_TE_CFG_POLARITY n) ∧
      (s.setF (Fld.DRV_TE_STAT_LEVEL n) v).isF (Fld.DRV_TE_CFG_ENABLE n) = s.isF (Fld.DRV_TE_CFG_ENABLE n) := by
  have hreg : Reg.DRV_TE_CFG n ≠ Reg.DRV_TE_STAT n := by unfold Reg.DRV_TE_CFG Reg.DRV_TE_STAT; omega
  unfold State.isF Io.isF
  rw [State.setF_io, Io.getF_setF_other _ _ hreg, Io.getF_setF_other _ _ hreg]
  exact ⟨rfl, rfl⟩

/-! ### The broadcast SYNC -/

/-- The groups of a broadcast SYNC are synchronised and counted, with event 352 for their regions (R374). -/
def State.syncAll (s : State) : State :=
  let u := s.syncGroups.foldl (fun s' g => s'.syncGroup g s.io.tick) s
  if s.syncGroups.isEmpty then u
  else [0, 1, 2, 3].foldl (fun v n => if s.syncGroups.any (fun g => g / 12 == n) then v.on (·.fireIn 352 n) else v) (u.bumpF Fld.DRV_SYNC_COUNT)

/-- Events of regions leave the registers outside the event block, and all but the shared state. -/
theorem State.foldl_fireIn (c : Nat → Bool) (e : Nat) (l : List Nat) (s : State) {f : Field} (hf : eventReg f.reg = false) :
    (l.foldl (fun v n => if c n then v.on (·.fireIn e n) else v) s).boot = s.boot ∧
      (l.foldl (fun v n => if c n then v.on (·.fireIn e n) else v) s).getF f = s.getF f := by
  induction l generalizing s with
  | nil => exact ⟨rfl, rfl⟩
  | cons n l ih =>
    rw [List.foldl_cons]
    obtain ⟨hboot, hget⟩ := ih (if c n then s.on (·.fireIn e n) else s)
    rw [hboot, hget]
    cases c n with
    | false => exact ⟨rfl, rfl⟩
    | true => exact ⟨State.on_boot .., Io.getF_fireIn _ _ _ hf⟩

theorem State.foldl_syncGroup (s : State) (l : List Nat) (t : Nat) : (l.foldl (fun s' g => s'.syncGroup g t) s).boot = s.boot ∧
    (l.foldl (fun s' g => s'.syncGroup g t) s).getF Fld.DRV_SYNC_COUNT = s.getF Fld.DRV_SYNC_COUNT := by
  have h := State.foldl_keeps (f := fun s' g => s'.syncGroup g t) (l := l) (State.Keeps.refl s) fun _ _ hk => State.syncGroup_keeps hk (Sub.self _)
  exact ⟨h.boot.eq (by decide +kernel), h.getF RegOf.DRV_SYNC_COUNT (by decide) (by decide +kernel)⟩

@[simp] theorem State.syncAll_boot (s : State) : s.syncAll.boot = s.boot := by
  unfold State.syncAll
  dsimp only
  split
  · exact (s.foldl_syncGroup _ _).1
  · rw [(State.foldl_fireIn (f := Fld.DRV_SYNC_COUNT) _ 352 _ _ (by decide)).1, State.bumpF_boot, (s.foldl_syncGroup _ _).1]

theorem State.syncAll_count (s : State) :
    (s.syncGroups ≠ [] → s.syncAll.getF Fld.DRV_SYNC_COUNT = min (s.getF Fld.DRV_SYNC_COUNT + 1) (2 ^ 32 - 1)) ∧
      (s.syncGroups = [] → s.syncAll.getF Fld.DRV_SYNC_COUNT = s.getF Fld.DRV_SYNC_COUNT) := by
  unfold State.syncAll
  dsimp only
  refine ⟨fun hne => ?_, fun hnil => ?_⟩
  · rw [if_neg (by simp [hne]), (State.foldl_fireIn (f := Fld.DRV_SYNC_COUNT) _ 352 _ _ (by decide)).2]
    refine (Io.getF_bumpF_same _ _ _ (by decide)).trans ?_
    rw [← (s.foldl_syncGroup s.syncGroups s.io.tick).2]
    rfl
  · rw [if_pos (by simp [hnil])]
    exact (s.foldl_syncGroup _ _).2

/-- A SYNC with power on and no restart waiting latches the checksums after its groups (R374). -/
theorem State.broadcastSync_of_power {s : State} (hlamps : s.io.hasLamps = true) (hsynced : s.video.synced < s.io.tick) (hgap : s.tick.inGap = false)
    (hpower : s.boot.power = 0) (hrestart : s.boot.restartAfter = none) :
    s.broadcastSync = (s.syncAll.onVideo (fun v => { v with synced := s.io.tick })).latchCrc s.io.tick := by
  have hboot : ((s.syncAll.onVideo (fun v => { v with synced := s.io.tick })).latchCrc s.io.tick).boot = s.boot :=
    ((State.latchCrc_keeps (State.Keeps.refl _) (Sub.self _)).boot.eq (by decide +kernel)).trans s.syncAll_boot
  have hsync : ((s.syncAll.onVideo (fun v => { v with synced := s.io.tick })).latchCrc s.io.tick).restartSync =
      (s.syncAll.onVideo (fun v => { v with synced := s.io.tick })).latchCrc s.io.tick := by
    unfold State.restartSync
    rw [hboot, hrestart]
  have hrun : s.broadcastSync = s.broadcastSync := rfl
  conv at hrun => rhs; unfold State.broadcastSync
  rw [if_neg (by simp [hlamps, hsynced, hgap, hpower])] at hrun
  refine hrun.trans ((if_neg ?_).trans hsync)
  intro hdark
  have hone : ((s.syncAll.onVideo (fun v => { v with synced := s.io.tick })).latchCrc s.io.tick).restartSync.boot.power = 1 := by
    simp only [Bool.and_eq_true, decide_eq_true_eq] at hdark
    exact hdark.1.1
  rw [hsync, hboot, hpower] at hone
  exact absurd hone (by decide)

/-! ### Grey pulses -/

theorem mem_insertChannel {x c : Channel} : ∀ {l : List Channel}, c ∈ insertChannel x l → c = x ∨ c ∈ l
  | [], h => by simpa [insertChannel] using h
  | y :: t, h => by
    unfold insertChannel at h
    split at h
    · simpa using h
    · rcases List.mem_cons.mp h with h | h
      · exact .inr (by simp [h])
      · rcases mem_insertChannel h with h | h
        · exact .inl h
        · exact .inr (by simp [h])

theorem mem_foldl_insertChannel {c : Channel} {l : List Channel} : ∀ {m : List Channel}, c ∈ l.foldl (fun l c => insertChannel c l) m → c ∈ l ∨ c ∈ m := by
  induction l with
  | nil => exact fun h => .inr h
  | cons x l ih =>
    intro m h
    rcases ih h with h | h
    · exact .inl (by simp [h])
    · rcases mem_insertChannel h with h | h
      · exact .inl (by simp [h])
      · exact .inr h

/-- The frame that a Grey-pulse window takes is one of the next three (R409). -/
theorem greyFrame_bounds (t : Nat) (p q : Nat → Bool) :
    t ≤ (([t, t + 1, t + 2].filter p).find? q).getD (t + 2) ∧ (([t, t + 1, t + 2].filter p).find? q).getD (t + 2) ≤ t + 2 := by
  cases h : ([t, t + 1, t + 2].filter p).find? q with
  | none => simp
  | some f =>
    have hmem := List.mem_of_mem_filter (List.mem_of_find?_eq_some h)
    simp only [List.mem_cons, List.not_mem_nil, or_false] at hmem
    simp only [Option.getD_some]
    omega

/-- A Grey-pulse window chooses channels of its region that have gone long unmeasured, no more than its slot has room for (R409). -/
theorem State.greyWindow_of_run {s u : State} {n i : Nat} {sl : Slot} (hdue : s.dueSlot n i = some sl) (hkind : sl.kind = 0x0A) (hen : s.isF Fld.LBD_CFG_GREY_EN = true)
    (hlamps : s.io.hasLamps = true) (hu : u = s.startSlot n i false) :
    ∃ (frame : Nat) (chosen : List Channel), u.io.tick ≤ frame ∧ frame ≤ u.io.tick + 2 ∧ chosen.length ≤ bits sl.operand 0 12 ∧
      (∀ c ∈ chosen, u.greyAfter ≤ c.unmeas ∧ u.channelRegion c = n) ∧
      s.greyWindow n i = (u.onLamp fun m => { m with grey := m.grey ++ chosen.map fun c => (frame, c.number) }).bumpF Fld.LBD_GREY_PULSES chosen.length := by
  subst hu
  unfold State.greyWindow
  rw [hdue]
  dsimp only
  rw [if_neg (by simp [hkind, hen, hlamps])]
  refine ⟨_, _, (greyFrame_bounds _ _ _).1, (greyFrame_bounds _ _ _).2, List.length_take_le .., fun c hc => ?_, rfl⟩
  rcases mem_foldl_insertChannel (List.mem_of_mem_take hc) with h | h
  · obtain ⟨b, -, hcb⟩ := List.mem_flatMap.mp h
    have hmeets := (List.mem_filter.mp hcb).2
    simp only [Bool.and_eq_true, decide_eq_true_eq, beq_iff_eq] at hmeets
    exact ⟨hmeets.1.1.2, hmeets.1.1.1.2⟩
  · cases h

/-- Settles O27: a group by the slot that loads it, the sync by what holds it back. -/
theorem driversAndSync : Obligations.DriversAndSync := by
  refine ⟨?_, ?_, ?_, ?_, ?_, fun s => .intro rfl rfl, fun s updates hlamps => .intro rfl (if_pos hlamps), ?_⟩
  · rintro s u region slot late input sl g hdue hg hkind hlo hhi hlamps hop hused hpower hfenced hstopped hsynced rfl
    have hrun := State.driverLoadSlot_of_run (late := late) (input := input) hdue hg hkind hlo hhi hlamps hop hused hpower hfenced hstopped hsynced
    exact ⟨fun hfirst hself hte => .intro hrun (if_pos (by simp [hfirst, hself, hte])),
      fun hnot => .intro hrun (if_neg (by rcases hnot with h | h | h <;> simp [h]))⟩
  · intro s region hactive
    refine ⟨fun rising hsame => .intro rfl ((if_neg (by simp [hactive])).trans (if_pos ?_)), ?_⟩
    · rw [(State.teLevel_isF ..).1, (State.teLevel_isF ..).2]
      rcases hsame with h | h <;> simp [h]
    · rintro rising u rfl hedge hen
      refine .intro rfl ((if_neg (by simp [hactive])).trans (if_neg ?_))
      rw [(State.teLevel_isF ..).1, (State.teLevel_isF ..).2]
      simp [hedge, hen]
  · exact fun s group hwaiting => .intro rfl (if_neg (by simp [Option.isSome_iff_ne_none.mp hwaiting]))
  · intro s hlamps hsynced hgap hpower hrestart
    refine .intro (congrArg Host.Outcome.next (State.broadcastSync_of_power hlamps hsynced hgap hpower hrestart)) ?_
    have hk := State.latchCrc_keeps (s := s.syncAll.onVideo (fun v => { v with synced := s.io.tick })) (t := s.io.tick) (State.Keeps.refl _) (Sub.self _)
    rw [hk.video.eq (by decide +kernel), hk.getF RegOf.DRV_SYNC_COUNT (by decide) (by decide +kernel)]
    exact ⟨rfl, s.syncAll_count⟩
  · intro s u region slot sl hdue hkind hlamps
    refine ⟨fun hen => .intro (congrArg Host.Outcome.next (?_ : s.greyWindow region slot = s)) rfl, fun hen hu => ?_⟩
    · unfold State.greyWindow
      rw [hdue]
      exact if_pos (by simp [hen])
    · exact .intro rfl (State.greyWindow_of_run hdue hkind hen hlamps hu)
  · rintro s u hboot humber rfl
    have hgo : ¬ (s.io.boot < stTRAINING ∨ s.io.boot = stUMBER) := by omega
    exact ⟨fun hlamps => .intro rfl ((if_neg hgo).trans (if_neg (Bool.eq_false_iff.mp hlamps))), fun hlamps => .intro rfl ((if_neg hgo).trans (if_pos hlamps))⟩

end Sys2Proof.Machine
end

section
/-! Lamp boards (chapter 15): presence, reads, stores and tests. -/

set_option Elab.async false

namespace Sys2Proof.Machine

/-! ### The boards of the lamp state -/

theorem State.board_index (s : State) (b : Nat) : (s.board b).index = b := by
  unfold State.board State.boardOf
  cases h : s.lamp.boards.find? (·.index == b) with
  | none => rfl
  | some x => simpa using List.find?_some h

theorem State.board_setBoard (s : State) {x : Board} {b : Nat} (h : x.index = b) : (s.setBoard x).board b = x := by
  unfold State.board State.boardOf State.setBoard
  rw [State.onLamp_lamp, List.find?_cons_of_pos (by simp [h])]
  rfl

theorem State.board_of_lamp {s t : State} (h : t.lamp = s.lamp) (b : Nat) : t.board b = s.board b := by
  unfold State.board State.boardOf
  rw [h]

theorem State.boardWrite_lamp (s : State) (b off : Nat) (bs : List Byte) : (s.boardWrite b off bs).lamp = s.lamp := rfl

theorem State.boardBus_on (s : State) (f : Io → Io) (b : Nat) : (s.on f).boardBus b = s.boardBus b := rfl

theorem State.boardBus_boardReads (s : State) (n b : Nat) : (s.boardReads n).boardBus b = s.boardBus b := State.boardBus_on ..

/-- A fault copy that is written leaves its board clean (R400). -/
theorem State.writeFaultCopy_dirty (s : State) (b : Nat) : ((s.writeFaultCopy b).board b).dirty = false := by
  unfold State.writeFaultCopy
  dsimp only
  rw [State.board_of_lamp (State.boardWrite_lamp ..), State.board_setBoard]
  exact s.board_index b

/-! ### LBD_TEST -/

/-- A write of LBD_TEST with RELEASE alone names and releases its board (R398). -/
theorem State.writeBoardTest_release (s : State) {b : Nat} (h : b < 64) :
    s.writeBoardTest (b % 64 + 64) = (s.setF Fld.LBD_TEST_BOARD b).releaseBoard b := by
  have hb : bits (b % 64 + 64) 0 6 = b := by unfold bits; omega
  have h6 : bit (b % 64 + 64) 6 = true := by simp only [bit, decide_eq_true_eq]; omega
  have h7 : bit (b % 64 + 64) 7 = false := by simp only [bit, decide_eq_false_iff_not]; omega
  unfold State.writeBoardTest
  dsimp only
  rw [hb, h6, h7]
  rfl

/-- A write of LBD_TEST with RETEST alone names and retests its board (R406). -/
theorem State.writeBoardTest_retest (s : State) {b : Nat} (h : b < 64) :
    s.writeBoardTest (b % 64 + 128) = (s.setF Fld.LBD_TEST_BOARD b).retestBoard b := by
  have hb : bits (b % 64 + 128) 0 6 = b := by unfold bits; omega
  have h6 : bit (b % 64 + 128) 6 = false := by simp only [bit, decide_eq_false_iff_not]; omega
  have h7 : bit (b % 64 + 128) 7 = true := by simp only [bit, decide_eq_true_eq]; omega
  unfold State.writeBoardTest
  dsimp only
  rw [hb, h6, h7]
  rfl

theorem State.pathWrite_LBD_TEST {s : State} {p : RegPath} (v : Nat) (hacc : s.Accepts p Reg.LBD_TEST) : (s.pathWrite p Reg.LBD_TEST v).1 = s.writeBoardTest v := by
  obtain ⟨r, hbase, hwrite⟩ := State.pathWrite_of_actsAs v hacc actsAs_LBD_TEST (by decide)
  exact hwrite.trans (State.performWrite_LBD_TEST _ _ _ hbase)

/-! ### Presence -/

/-- What a poll of a slot leaves of the slot: its run of polls against its state, and the state that two of them change (R388). -/
def BoardSlot.polled (p : BoardSlot) (ok : Bool) : BoardSlot :=
  { p with present := if 2 ≤ (if ok == p.present then 0 else p.run + 1) then ok else p.present
           run := if 2 ≤ (if ok == p.present then 0 else p.run + 1) then 0 else if ok == p.present then 0 else p.run + 1 }

/-- A poll of a slot records it and, where its state changes, shows the state and attaches or drops the slot's board (R388). -/
theorem State.presencePoll_eq {s : State} {bus slot : Nat} {header : List Byte} {p : BoardSlot} (hlamps : s.io.hasLamps = true) (hlo : stLOADING ≤ s.io.boot)
    (humber : s.io.boot ≠ stUMBER) (hbus : bus < 16) (hslot : slot < 4) (hactive : s.io.regionActive (bus / 4) = true)
    (hp : p = ((s.boardReads 1).lamp.slots.find? (fun x => x.bus == bus && x.slot == slot)).getD { bus := bus, slot := slot }) :
    exec (.presencePoll bus slot header) s =
      let v := (s.boardReads 1).onLamp (fun m => { m with slots := p.polled (headerValid header) :: m.slots.filter (fun x => !(x.bus == bus && x.slot == slot)) })
      .next (if !decide (2 ≤ (if headerValid header == p.present then 0 else p.run + 1)) then v
        else
          let u := v.setF (Fld.LBD_BUS_STAT_PRESENT (bus / 4) (bus % 4))
            (putBits (v.getF (Fld.LBD_BUS_STAT_PRESENT (bus / 4) (bus % 4))) slot 1 (flag (headerValid header)))
          match u.namedBoard bus slot, headerValid header with
          | some b, true => u.boardState b 1
          | some b, false => u.boardGone b
          | none, true => u.on (·.fireIn 398 (bus / 4))
          | none, false => u) := by
  have hrun : exec (.presencePoll bus slot header) s = execPresencePoll bus slot header s := rfl
  unfold execPresencePoll at hrun
  rw [if_neg (by simp [hlamps, humber, hactive]; omega)] at hrun
  dsimp only at hrun
  rw [← hp] at hrun
  rw [hrun]
  simp only [decide_eq_true_eq] <;> rfl

/-- Settles O28: a poll, a read and a pass each by the slot of its board, and the tests by the write of LBD_TEST. -/
theorem lampBoards : Obligations.LampBoards := by
  refine ⟨?_, ?_, ?_, fun s => .intro rfl rfl, ?_, ?_, ?_, ?_, ?_⟩
  · rintro s bus slot header p hlamps hlo humber hbus hslot hactive hp set rfl
    have hrun := State.presencePoll_eq (header := header) hlamps hlo humber hbus hslot hactive hp
    refine ⟨fun hsame => ?_, fun hdiff hzero => ?_, ?_⟩
    · have hpolled : p.polled (headerValid header) = { p with run := 0 } := by simp [BoardSlot.polled, hsame]
      rw [hpolled] at hrun
      exact .intro hrun (if_pos (by simp [hsame]))
    · have hpolled : p.polled (headerValid header) = { p with run := 1 } := by simp [BoardSlot.polled, hdiff, hzero]
      rw [hpolled] at hrun
      exact .intro hrun (if_pos (by simp [hdiff, hzero]))
    · rintro u rfl hdiff hone
      have hpolled : p.polled (headerValid header) = { p with present := headerValid header, run := 0 } := by simp [BoardSlot.polled, hdiff, hone]
      rw [hpolled] at hrun
      dsimp only at hrun
      rw [if_neg (by simp [hdiff]; omega)] at hrun
      refine ⟨fun b hb => ?_, fun hb => ?_⟩
      · rw [hb] at hrun
        refine .intro hrun ?_
        cases headerValid header with
        | false => exact (if_neg Bool.false_ne_true).symm
        | true => exact (if_pos rfl).symm
      · rw [hb] at hrun
        refine .intro hrun ?_
        cases headerValid header with
        | false => exact (if_neg Bool.false_ne_true).symm
        | true => exact (if_pos rfl).symm
  · intro s board hstate hcount
    have hgo : ¬ (s.getF (Fld.LBD_BOARD_STAT_STATE board) ≠ 1 ∨ s.boardCount ≤ board) := by omega
    refine ⟨.intro rfl ((if_neg hgo).trans ?_), ?_⟩
    · rw [State.boardBus_boardReads]
    rintro r u rfl
    have hrun : exec (.attachReadsDone board (some r)) s = _ := congrArg Host.Outcome.next (if_neg hgo)
    dsimp only at hrun
    refine ⟨fun hok => ?_, fun hbad => ?_⟩
    · rw [hok] at hrun
      exact .intro hrun rfl
    · obtain ⟨k, hk⟩ := Nat.exists_eq_succ_of_ne_zero hbad
      rw [hk] at hrun ⊢
      exact .intro hrun rfl
  · rintro s u board value hstate hsensor rfl
    have hgo : ¬ (s.getF (Fld.LBD_BOARD_STAT_STATE board) ≠ 3 ∨ (!s.isF (Fld.LBD_BOARD_STAT_SENSOR board)) = true) := by simp [hstate, hsensor]
    refine ⟨fun hlo hhi => .intro rfl ((if_neg hgo).trans (if_pos ⟨hlo, hhi⟩)), ?_⟩
    rintro v rfl hout
    exact ⟨fun hfired => .intro rfl ((if_neg hgo).trans ((if_neg hout).trans (if_pos hfired))),
      fun hfired => .intro rfl ((if_neg hgo).trans ((if_neg hout).trans (if_neg (Bool.eq_false_iff.mp hfired))))⟩
  · rintro s u bus home p hpass hbytes rfl rfl
    have hrun : ∀ ok, exec (.chunkWriteDone bus ok) s = execChunkWriteDone bus ok s := fun _ => rfl
    unfold execChunkWriteDone at hrun
    rw [hpass] at hrun
    dsimp only at hrun
    have hgo : ¬ p.bytes.isEmpty = true := by simp [hbytes]
    exact ⟨fun hplace => .intro (hrun true) ((if_neg hgo).trans ((if_pos rfl).trans (if_pos hplace))),
      fun hplace => .intro (hrun true) ((if_neg hgo).trans ((if_pos rfl).trans (if_neg (by simp [hplace])))),
      fun hfailed => .intro (hrun false) ((if_neg hgo).trans ((if_neg (by decide)).trans (if_pos (by simp [hfailed])))),
      fun hfailed => .intro (hrun false) ((if_neg hgo).trans ((if_neg (by decide)).trans (if_neg (by simp [hfailed]))))⟩
  · rintro s u bus p hpass hbytes hchunk rfl
    have hrun : exec (.storePassDone bus) s = execStorePassDone bus s := rfl
    unfold execStorePassDone at hrun
    rw [hpass] at hrun
    dsimp only at hrun
    rw [if_neg (by simp [hbytes, hchunk])] at hrun
    refine ⟨fun hwhy => ?_, ?_⟩
    · rw [if_neg hwhy] at hrun
      exact .intro hrun rfl
    · rintro v rfl hwhy
      rw [if_pos hwhy] at hrun
      exact .intro hrun rfl
  · exact fun s board hlit hdirty => .intro (congrArg Host.Outcome.next (if_pos (by rw [hlit, hdirty]; rfl))) ⟨rfl, s.writeFaultCopy_dirty board⟩
  · exact fun s board path hb hacc => .intro rfl ((State.pathWrite_LBD_TEST _ hacc).trans (s.writeBoardTest_release hb))
  · exact fun s board path hb hacc => .intro rfl ((State.pathWrite_LBD_TEST _ hacc).trans (s.writeBoardTest_retest hb))

end Sys2Proof.Machine
end

section
/-! Audio (chapter 16): windows, buffers, starts and stops. -/

set_option Elab.async false

namespace Sys2Proof.Machine

/-- A START or STOP entry with an unknown target or port is rejected (R426). -/
theorem State.audioOrder_reject {s : State} {ring i op : Nat} {e : List Byte} (hready : s.io.Ready ring i op true (orderFieldsOk e) e)
    (hbad : (setBits (fieldAt e 8 3) 17).any (fun t => decide (s.chCount t = 0)) = true ∨ (setBits (fieldAt e 12 2) 16).any (fun p => !s.inputPort p) = true) :
    s.audioOrder ring i op = s.on (·.answer ring i e { status := 0x01, detail := 2 }) :=
  (State.onEntry_of_ready _ hready).trans (if_pos hbad)

/-- A START or STOP entry with known targets and ports joins the orders (R426). -/
theorem State.audioOrder_accept {s : State} {ring i op : Nat} {e : List Byte} (hready : s.io.Ready ring i op true (orderFieldsOk e) e)
    (htargets : (setBits (fieldAt e 8 3) 17).any (fun t => decide (s.chCount t = 0)) = false) (hports : (setBits (fieldAt e 12 2) 16).any (fun p => !s.inputPort p) = false) :
    (s.audioOrder ring i op).audio.orders = s.audio.orders ++
      [{ ring := ring, index := i, entry := e, stop := op == 0x24, tick := max (fieldAt e 16 6) (s.io.tick + 1) }] := by
  have hrun : s.audioOrder ring i op = _ := (State.onEntry_of_ready _ hready).trans (if_neg (by rw [htargets, hports]; decide))
  rw [hrun]
  rfl

/-- A window that runs sends what is left for its target, as far as its room goes (R422). -/
theorem State.audioWindow_of_built {s u : State} {region slot target : Nat} (aligns : Nat) (mem : HostData) (n : Nat) {sl : Slot} (hdue : s.dueSlot region slot = some sl)
    (hkind : sl.kind = 0x09) (hlo : 29 ≤ sl.lane) (hhi : sl.lane ≤ 32) (hhost : s.io.hasHost = true) (hch : s.chCount target ≠ 0)
    (hu : u = s.startSlot region slot false) (hbuilt : u.audio.built.contains target = true) :
    exec (.audioWindow region slot target aligns mem n) s = .next (match u.audio.left.find? (·.1 == target) with
      | none => u
      | some (_, cont, bs) =>
        let room := windowBytes sl.nomDur (u.getF (Fld.LNK_STATE_RATE_NOW (target / 4) (target % 4))) aligns
        (((u.emit (.control target (sobWord cont))).emit (.packet target (bs.take room))).emit (.control target (eobWord false (decide ((bs.take room).length % 8 = 4))))).onAudio
          (fun a => { a with left := a.left.filter (·.1 != target) ++ (if room < bs.length then [(target, true, bs.drop room)] else []) })) := by
  subst hu
  have hrun : exec (.audioWindow region slot target aligns mem n) s = execAudioWindow region slot target aligns mem n s := rfl
  unfold execAudioWindow at hrun
  rw [hdue] at hrun
  dsimp only at hrun
  rw [if_neg (by simp [hkind, hhost, hch]; omega), if_pos hbuilt] at hrun
  exact hrun

/-- Settles O29: an entry that is ready runs its body, and a window takes the one branch its slot leaves it. -/
theorem audioStreams : Obligations.AudioStreams := by
  refine ⟨?_, ?_, ?_, ?_, ?_, ?_⟩
  · intro s u region slot target aligns mem n sl hdue hkind hlo hhi hhost hch hu hbuilt
    have hrun := State.audioWindow_of_built aligns mem n hdue hkind hlo hhi hhost hch hu hbuilt
    refine ⟨fun hnone => ?_, ?_⟩
    · rw [hnone] at hrun
      exact .intro hrun rfl
    · rintro cont bs room hleft rfl
      rw [hleft] at hrun
      exact .intro hrun ⟨rfl, rfl⟩
  · intro s ring i e hready
    refine ⟨fun h => .intro rfl ((State.onEntry_of_ready _ hready).trans (if_pos h)), fun h => ?_⟩
    refine .intro (congrArg Host.Outcome.next ((State.onEntry_of_ready _ hready).trans (if_neg (Nat.not_lt.mpr h)))) ?_
    exact ⟨rfl, rfl⟩
  · intro s ring i e hready
    refine ⟨fun h => .intro rfl ((State.onEntry_of_ready _ hready).trans (if_pos (by simp [h]))), fun h => ?_⟩
    refine .intro (congrArg Host.Outcome.next ((State.onEntry_of_ready _ hready).trans (if_neg (by simp [h])))) ?_
    exact ⟨rfl, rfl⟩
  · intro s ring i e hready
    exact ⟨fun h => .intro rfl (State.audioOrder_reject hready h), fun ht hp => .intro rfl (State.audioOrder_accept hready ht hp)⟩
  · intro s ring i e hready
    exact ⟨fun h => .intro rfl (State.audioOrder_reject hready h), fun ht hp => .intro rfl (State.audioOrder_accept hready ht hp)⟩
  · exact fun s port hport hstate => .intro rfl (if_neg (by omega))

end Sys2Proof.Machine
end

section
/-! Audio masks, packets, frames and clocks (chapter 16). -/

set_option Elab.async false

namespace Sys2Proof.Machine

/-! ### Registers of the audio block -/

theorem eventReg_of_ge {a : Nat} (h : 459264 ≤ a) : eventReg a = false := by
  unfold eventReg eventSpans
  simp only [List.any_cons, List.any_nil, Bool.or_false, Bool.or_eq_false_iff, Bool.and_eq_false_iff]
  refine ⟨?_, ?_, ?_, ?_, ?_, ?_, ?_, ?_, ?_, ?_⟩ <;> exact .inr (by rw [Bool.eq_false_iff, ne_eq, Nat.blt_eq]; omega)

theorem State.positionOf_setF (s : State) (f : Field) (v chain pos : Nat) : (s.setF f v).positionOf chain pos = s.positionOf chain pos := rfl

/-- A mask that is shown leaves the fields below the audio block. -/
theorem Io.getF_setMaskShadow (s : Io) (n i v : Nat) {g : Field} (hg : g.reg < 0x1a4000) : (s.setF (Fld.AUD_MASK_SHADOW n i) v).getF g = s.getF g := by
  refine Io.getF_setF_other _ _ ?_
  show g.reg ≠ Reg.AUD_MASK_SHADOW n i
  unfold Reg.AUD_MASK_SHADOW
  omega

theorem State.tick_setMaskShadow (s : State) (n i v : Nat) : (s.setF (Fld.AUD_MASK_SHADOW n i) v).io.tick = s.io.tick := by
  unfold Io.tick Io.getWide
  rw [State.setF_io, Io.getF_setMaskShadow _ _ _ _ (by decide), Io.getF_setMaskShadow _ _ _ _ (by decide)]

theorem State.audioTarget_setMaskShadow (s : State) (n i v : Nat) : (s.setF (Fld.AUD_MASK_SHADOW n i) v).audioTarget = s.audioTarget := by
  unfold State.audioTarget State.getF Io.isTile
  rw [State.setF_io, Io.getF_setMaskShadow _ _ _ _ (by decide), Io.getF_setMaskShadow _ _ _ _ (by decide)]

theorem State.audioClass_setMaskShadow (s : State) (n i v : Nat) : (s.setF (Fld.AUD_MASK_SHADOW n i) v).audioClass = s.audioClass := by
  unfold State.audioClass State.getF Io.isTile
  rw [State.setF_io, Io.getF_setMaskShadow _ _ _ _ (by decide), Io.getF_setMaskShadow _ _ _ _ (by decide), Io.getF_setMaskShadow _ _ _ _ (by decide),
    State.positionOf_setF]

/-- A mask of a tile that comes before its tick waits for the tick and is shown (R427). -/
theorem State.slotMask_of_early {s u : State} {port p : Nat} {packet b : List Byte} (hkept : s.keptCmd port 0x04 packet [stJOINING, stOPERATIONAL] = (u, some b))
    (hclass : fieldAt b 0 1 = u.audioClass) (hp : p = fieldAt b 1 1) (hlt : p < 16) (hen : u.audEnabled p = true) (hearly : u.io.tick < fieldAt b 6 6) :
    exec (.slotMaskReceived port packet) s = .next ((u.setF (Fld.AUD_MASK_SHADOW (p / 4) (p % 4)) (fieldAt b 2 4)).onAudio (fun a => { a with masks := a.masks ++
      [{ entry := none, target := u.audioTarget, cls := u.audioClass, port := p, mask := fieldAt b 2 4, apply := some (fieldAt b 6 6) }] })) := by
  have hrun : exec (.slotMaskReceived port packet) s = execSlotMaskReceived port packet s := rfl
  unfold execSlotMaskReceived at hrun
  rw [hkept] at hrun
  dsimp only at hrun
  rw [← hp, if_neg (by simp [hclass, hen]; omega), State.tick_setMaskShadow] at hrun
  have hnot : ¬ decide (fieldAt b 6 6 ≤ u.io.tick) = true := by simp [hearly]
  rw [if_neg hnot, if_neg hnot, State.audioTarget_setMaskShadow, State.audioClass_setMaskShadow] at hrun
  exact hrun

/-! ### Ports -/

theorem State.audPort_port (s : State) (p : Nat) : (s.audPort p).port = p := by
  unfold State.audPort
  cases h : s.audio.ports.find? (·.port == p) with
  | none => rfl
  | some a => simpa using List.find?_some h

theorem State.audPort_setAudPort (s : State) {a : AudioPort} {p : Nat} (h : a.port = p) : (s.setAudPort a).audPort p = a := by
  have hnone : (s.audio.ports.filter (·.port != a.port)).find? (·.port == p) = none := by
    rw [List.find?_eq_none]
    intro x hx
    simpa [h] using (List.mem_filter.mp hx).2
  unfold State.audPort State.setAudPort
  rw [State.onAudio_audio]
  dsimp only
  rw [List.find?_append, hnone]
  simp [h]

theorem State.audPort_of_audio {s t : State} (h : t.audio = s.audio) (p : Nat) : t.audPort p = s.audPort p := by
  unfold State.audPort
  rw [h]

theorem State.fireAud_audio (s : State) (e p : Nat) : (s.fireAud e p).audio = s.audio := State.on_audio ..

/-- A port that loses its clock is in state 3 and remembers whether the clock left its range (R431). -/
theorem State.clockLost_port (s : State) (p : Nat) (out : Bool) : (s.clockLost p out).audState p = 3 ∧ ((s.clockLost p out).audPort p).outside = out := by
  have hevent : eventReg (Reg.AUD_PORT_STAT (p / 4) (p % 4)) = false := eventReg_of_ge (by unfold Reg.AUD_PORT_STAT; omega)
  have hreg : Reg.AUD_PORT_STAT (p / 4) (p % 4) ≠ Reg.AUD_CLOCK_LOSS (p / 4) (p % 4) := by unfold Reg.AUD_PORT_STAT Reg.AUD_CLOCK_LOSS; omega
  unfold State.clockLost
  dsimp only
  refine ⟨?_, ?_⟩
  · exact (Io.getF_fireObj _ _ _ _ _ (f := Fld.AUD_PORT_STAT_STATE (p / 4) (p % 4)) hevent).trans ((Io.getF_bumpF_other _ _ hreg).trans
      (Io.getF_setF_same _ _ _ (show 0 + 3 ≤ 32 by decide)))
  · rw [State.audPort_of_audio (State.fireAud_audio ..), State.audPort_of_audio (State.bumpF_audio ..), State.audPort_setAudPort]
    exact s.audPort_port p

/-! ### Frames -/

/-- A frame of a port that is on: the framing of a port that follows its clock, then the samples in or out (R431). -/
theorem State.audioFrame_of_on {s : State} {p x bclks : Nat} {slots : List Nat} {full dry : Bool} (hp : p < 16) (hen : s.audEnabled p = true) (hstate : s.audState p ≠ 0) :
    exec (.audioFrame p x bclks slots full dry) s =
      let u := s.on (·.at x)
      let v := if u.audMaster p then u else u.framing p bclks
      let v := if (full || dry) && !u.audMaster p && decide (v.audState p = 2) then v.relock p else v
      let v := if v.audInput p then
          match v.wallSample x 0 with
          | some (b, i) => v.deliverTo p (b.tick * b.spt + i + 1)
              (if u.audMaster p then some (slots.map (fun w => signed 32 (w % 2 ^ v.audWidth p * 2 ^ (32 - v.audWidth p)))) else none)
          | none => v
        else v.outFrame p x (bclks / v.audWidth p)
      .next (if u.audMaster p then v else v.countFrame p x) :=
  congrArg Host.Outcome.next (if_neg (by simp [hen, hstate]; omega))

theorem State.audMaster_at (s : State) (x p : Nat) : (s.on (·.at x)).audMaster p = s.audMaster p := rfl

theorem State.audInput_at (s : State) (x p : Nat) : (s.on (·.at x)).audInput p = s.audInput p := rfl

/-- Settles O30: a mask by its target and range, a packet by its class and time, and a clock by the port that it belongs to. -/
theorem audioPortsAndPackets : Obligations.AudioPortsAndPackets := by
  refine ⟨?_, ?_, ?_, ?_, ?_, ?_, ?_, fun s port out _ => s.clockLost_port port out, ?_, ?_⟩
  · rintro s ring i e p mask hready rfl rfl ht
    have hrun : exec (.mask ring i) s = _ := congrArg Host.Outcome.next (State.onEntry_of_ready _ hready)
    dsimp only at hrun
    simp only [ht, if_true, true_or] at hrun
    refine ⟨fun hunknown => .intro (hrun.trans (congrArg Host.Outcome.next (if_pos ?_))) rfl, fun hp hen => ?_⟩
    · rcases hunknown with h | h <;> simp [h]
    · rw [if_neg (by simp [hp, hen])] at hrun
      exact ⟨fun hin hexceeds => .intro (hrun.trans (congrArg Host.Outcome.next (if_pos (by simp [hin, hexceeds])))) rfl,
        fun hfits => .intro (hrun.trans (congrArg Host.Outcome.next (if_neg (by rcases hfits with h | h <;> simp [h])))) rfl⟩
  · intro s u port p packet b hkept hclass hp hlt hen hearly
    refine .intro (State.slotMask_of_early hkept hclass hp hlt hen hearly) ⟨?_, ?_⟩
    · rw [State.onAudio_audio, State.setF_audio]
    · rw [State.getF, State.onAudio_io, State.setF_io]
      exact Io.getF_setF_same _ _ _ (show 0 + 32 ≤ 32 by decide)
  · rintro s u port k packet pl hkept rfl hpresent hcount hspt
    have hrun : exec (.audioPacketReceived port packet) s = execAudioPacketReceived port packet s := rfl
    unfold execAudioPacketReceived at hrun
    rw [hkept] at hrun
    dsimp only at hrun
    rw [if_neg (by simp [hpresent, hcount, hspt])] at hrun
    exact .intro hrun rfl
  · exact fun s k hch hpresent hany => .intro rfl (if_neg (by rw [hany]; simp [hch, hpresent]))
  · rintro s u port x bclks slots full dry hp hen hstate rfl
    have hrun := State.audioFrame_of_on (x := x) (bclks := bclks) (slots := slots) (full := full) (dry := dry) hp hen hstate
    dsimp only at hrun
    rw [State.audMaster_at] at hrun
    refine ⟨fun hmaster hin => ?_, ?_⟩
    · simp only [hmaster, hin, if_true, Bool.not_true, Bool.and_false, Bool.false_and, Bool.false_eq_true, if_false] at hrun
      exact .intro hrun rfl
    · intro v hv hmaster
      simp only [hmaster, Bool.not_false, Bool.and_true, Bool.false_eq_true, if_false] at hrun
      rw [← hv] at hrun
      refine ⟨fun hin => ?_, fun hin b i hsample => ?_⟩
      · rw [if_neg (by simp [hin])] at hrun
        exact .intro hrun rfl
      · rw [if_pos hin, hsample] at hrun
        exact .intro hrun rfl
  · intro s port x bclks slots b i hp hen hstate hmaster hin hsample
    have hrun := State.audioFrame_of_on (x := x) (bclks := bclks) (slots := slots) (full := false) (dry := false) hp hen hstate
    dsimp only at hrun
    rw [State.audMaster_at] at hrun
    simp only [hmaster, if_true, Bool.or_self, Bool.false_and, Bool.false_eq_true, if_false] at hrun
    rw [State.audInput_at, if_pos hin, hsample] at hrun
    exact .intro hrun rfl
  · exact fun s port hp hen hmaster hstate => .intro rfl (if_neg (by rcases hstate with h | h | h <;> simp [hen, hmaster, h] <;> omega))
  · exact fun s port hp hstate hout => .intro rfl (if_neg (by simp [hstate, hout]; omega))
  · exact fun s port hp hstate => .intro rfl (if_neg (by omega))

end Sys2Proof.Machine
end

section
/-! The DRAM controller (chapter 6). -/

set_option Elab.async false

namespace Sys2Proof.Machine

/-! ### Channels -/

/-- The refreshes a channel owes are not what writing back its queue changes. -/
theorem State.owed_setChan (s : State) (ch : Nat) (c : Chan) : (s.setChan ch c).getF (Fld.DMC_CH_STAT_OWED (ch / 4) (ch % 4)) = s.getF (Fld.DMC_CH_STAT_OWED (ch / 4) (ch % 4)) :=
  (Io.getF_setF_apart (f := Fld.DMC_CH_STAT_WQ_LEVEL (ch / 4) (ch % 4)) (g := Fld.DMC_CH_STAT_OWED (ch / 4) (ch % 4)) _ _ rfl (show 10 + 7 ≤ 32 by decide)
    (.inl (show 3 + 4 ≤ 10 by decide))).trans
  (Io.getF_setF_apart (f := Fld.DMC_CH_STAT_PANIC (ch / 4) (ch % 4)) (g := Fld.DMC_CH_STAT_OWED (ch / 4) (ch % 4)) _ _ rfl (show 7 + 1 ≤ 32 by decide)
    (.inl (show 3 + 4 ≤ 7 by decide)))

theorem State.doubled_at (s : State) (x ch : Nat) : (s.on (·.at x)).doubled ch = s.doubled ch := rfl

theorem State.owed_at (s : State) (x ch : Nat) :
    (s.on (·.at x)).getF (Fld.DMC_CH_STAT_OWED (ch / 4) (ch % 4)) = s.getF (Fld.DMC_CH_STAT_OWED (ch / 4) (ch % 4)) := rfl

/-- The end of a refresh interval opens the next and owes one refresh more (R157). -/
theorem State.intervalEnd_of_running {s : State} {ch : Nat} (hrun : s.chanRunning ch = true) :
    s.intervalEnd ch = (((s.on (·.at (s.chan ch).intervalEnd)).setChan ch { s.chan ch with intervalEnd := (s.chan ch).intervalEnd + trefi (s.doubled ch) }).setOwed ch
      (s.getF (Fld.DMC_CH_STAT_OWED (ch / 4) (ch % 4)) + 1)) := by
  unfold State.intervalEnd
  rw [if_neg (by simp [hrun])]
  dsimp only
  rw [State.owed_setChan, State.owed_at, State.doubled_at]

/-- A write that finds its class's entries full is held (R150). -/
theorem Chan.accept_of_full {c : Chan} {cls kind addr len : Nat} (h : c.full cls = true) :
    c.accept cls kind addr len = { c with heldWrites := c.heldWrites ++ [newReq true cls kind addr len] } := if_pos h

theorem Chan.accept_of_room {c : Chan} {cls kind addr len : Nat} (h : c.full cls = false) : c.accept cls kind addr len = c.enter (newReq true cls kind addr len) :=
  if_neg (Bool.eq_false_iff.mp h)

/-- What a channel that runs does with a write that arrives (R150). -/
theorem State.writeAccept_of_running {s : State} {ch : Nat} (cls kind addr len : Nat) (hrun : s.chanRunning ch = true) :
    s.writeAccept ch cls kind addr len =
      if (s.chan ch).full cls then s.setChan ch ((s.chan ch).accept cls kind addr len)
      else (s.setChan ch ((s.chan ch).accept cls kind addr len)).freeWrite ch cls addr := by
  unfold State.writeAccept
  exact if_neg (by simp [hrun])

/-- A channel with the refresh that is owed first, or its requests (R153). -/
theorem State.dramGrant_of_running {s u : State} {ch held : Nat} {arrivals : List (Nat × Nat × Nat × Nat × Nat)} {c : Chan} (ns : Nat) (hrun : s.chanRunning ch = true)
    (harrive : (s.chan ch).arrive arrivals = (c, held)) (hu : u = (s.setChan ch c).on (·.bumpF (Fld.DMC_CH_HAZARDS (ch / 4) (ch % 4)) held)) :
    (0 < u.getF (Fld.DMC_CH_STAT_OWED (ch / 4) (ch % 4)) → c.queue.any c.isPanic = false → s.dramGrant ch arrivals ns =
      ((u.setChan ch { c with lastAged := false }).refresh ch 1 false).on (·.setF (Fld.DMC_CH_STAT_OWED (ch / 4) (ch % 4)) (u.getF (Fld.DMC_CH_STAT_OWED (ch / 4) (ch % 4)) - 1))) ∧
    (u.getF (Fld.DMC_CH_STAT_OWED (ch / 4) (ch % 4)) = 0 ∨ c.queue.any c.isPanic = true → u.arbitrate c = none → s.dramGrant ch arrivals ns = u) := by
  subst hu
  unfold State.dramGrant
  rw [if_neg (by simp [hrun]), harrive]
  dsimp only
  refine ⟨fun howed hpanic => if_pos ⟨howed, by rw [hpanic]; decide⟩, fun hnot hnone => ?_⟩
  rw [if_neg (fun h => hnot.elim (by omega) h.2), hnone]

/-- A channel after a grant to a request, with no panic service: the request leaves the queue, and those it passed are counted (R153, R154). -/
def Chan.granted (c : Chan) (u : State) (r : DReq) (aged : Bool) : Chan :=
  { c with queue := (eraseFirst (· == r) c.queue).map (fun q => if q.id < r.id && c.effClass q == c.effClass r && c.ready q then { q with passed := q.passed + 1 } else q)
           issued := if r.write then c.issued else c.issued ++ [r]
           open_ := match u.io.dramLoc r.addr with
             | some l => (4 * l.bankGroup + l.bank, l.row) :: c.open_.filter (fun o => o.1 != 4 * l.bankGroup + l.bank)
             | none => c.open_
           lastAged := aged }

/-- A channel that owes no refresh, or has a request in panic, grants a request and admits the writes that it held (R150, R153). -/
theorem State.dramGrant_of_request {s u : State} {ch held : Nat} {arrivals : List (Nat × Nat × Nat × Nat × Nat)} {c : Chan} {r : DReq} {aged : Bool} (ns : Nat)
    (hrun : s.chanRunning ch = true) (harrive : (s.chan ch).arrive arrivals = (c, held)) (hu : u = (s.setChan ch c).on (·.bumpF (Fld.DMC_CH_HAZARDS (ch / 4) (ch % 4)) held))
    (hnot : u.getF (Fld.DMC_CH_STAT_OWED (ch / 4) (ch % 4)) = 0 ∨ c.queue.any c.isPanic = true) (harb : u.arbitrate c = some (r, aged, false)) :
    s.dramGrant ch arrivals ns =
      (c.granted u r aged).admitHeld.2.foldl (fun v q => v.freeWrite ch q.cls q.addr) (u.setChan ch (c.granted u r aged).admitHeld.1) := by
  subst hu
  unfold State.dramGrant
  rw [if_neg (by simp [hrun]), harrive]
  dsimp only
  rw [if_neg (fun h => hnot.elim (by omega) h.2), harb]
  simp only [Bool.false_and, Bool.or_false, Bool.false_eq_true, if_false] <;> rfl

/-! ### Pattern runs -/

theorem Io.getReg_fire (s : Io) (e : Nat) {a : Nat} (h : eventReg a = false) : (s.fire e).getReg a = s.getReg a :=
  (Io.fires_keeps (msk := eventParts) (os := [{ event := e }]) (Io.Keeps.refl s) (Sub.self _)).regs _ (eventReg_not h)

/-- A write of DMC_CH_PAT_CTL reaches its row, all of whose bits the image locks. -/
theorem regRow_patCtl {ch : Nat} (h : ch < 16) : ∃ r, regRow (Reg.DMC_CH_PAT_CTL (ch / 4) (ch % 4)) = some (r, ch) ∧
    r.base = Reg.DMC_CH_PAT_CTL 0 0 ∧ r.rwl ≠ 0 ∧ r.rw = 0 ∧ r.w1c = 0 := by
  have hrow : ∀ q : Fin 16, (regRow (Reg.DMC_CH_PAT_CTL (q.val / 4) (q.val % 4))).any (fun x =>
      x.1.base == Reg.DMC_CH_PAT_CTL 0 0 && x.2 == q.val && x.1.rwl != 0 && x.1.rw == 0 && x.1.w1c == 0) = true := by decide +kernel
  have hq := hrow ⟨ch, h⟩
  cases hr : regRow (Reg.DMC_CH_PAT_CTL (ch / 4) (ch % 4)) with
  | none => simp [hr] at hq
  | some x =>
    obtain ⟨r, j⟩ := x
    simp only [hr, Option.any_some, Bool.and_eq_true, beq_iff_eq, bne_iff_ne] at hq
    obtain ⟨⟨⟨⟨hbase, rfl⟩, hrwl⟩, hrw⟩, hw1c⟩ := hq
    exact ⟨r, rfl, hbase, hrwl, hrw, hw1c⟩

/-- The word that starts a pattern run starts it (R166). -/
theorem State.writePatCtl_start (s : State) (ch pattern length : Nat) (write : Bool) :
    s.writePatCtl ch (pattern % 4 + 4 * flag write + 8 + 16 * (length % 2 ^ 20)) = s.patternStart ch (pattern % 4) write (length % 2 ^ 20) := by
  have hflag : flag write ≤ 1 := by cases write <;> decide
  have hstart : bit (pattern % 4 + 4 * flag write + 8 + 16 * (length % 2 ^ 20)) 3 = true := by
    simp only [bit, decide_eq_true_eq]
    omega
  have hpattern : bits (pattern % 4 + 4 * flag write + 8 + 16 * (length % 2 ^ 20)) 0 2 = pattern % 4 := by
    unfold bits
    omega
  have hwrite : bit (pattern % 4 + 4 * flag write + 8 + 16 * (length % 2 ^ 20)) 2 = write := by
    cases write
    · show bit (pattern % 4 + 4 * 0 + 8 + 16 * (length % 2 ^ 20)) 2 = false
      simp only [bit, decide_eq_false_iff_not]
      omega
    · show bit (pattern % 4 + 4 * 1 + 8 + 16 * (length % 2 ^ 20)) 2 = true
      simp only [bit, decide_eq_true_eq]
      omega
  have hlength : bits (pattern % 4 + 4 * flag write + 8 + 16 * (length % 2 ^ 20)) 4 20 = length % 2 ^ 20 := by
    unfold bits
    omega
  unfold State.writePatCtl
  rw [if_pos hstart, hpattern, hwrite, hlength]

theorem State.performWrite_DMC_CH_PAT_CTL (s : State) (v i n k : Nat) {r : RegRow} (hb : r.base = Reg.DMC_CH_PAT_CTL 0 0) :
    s.performWrite (Reg.DMC_CH_PAT_CTL n k) v r i false = s.writePatCtl i v := by
  have hpage : ¬ Reg.DMC_CH_PAT_CTL n k / 0x20000 = 14 := by unfold Reg.DMC_CH_PAT_CTL; omega
  unfold State.performWrite; rw [if_neg hpage, hb]; rfl

theorem mergeBits_none (old v : Nat) (h : old < 2 ^ 32) : mergeBits old v 0 = old := by
  have hall : Nat.land old 0xFFFFFFFF = old := by
    show old &&& (2 ^ 32 - 1) = old
    rw [Nat.and_two_pow_sub_one_eq_mod, Nat.mod_eq_of_lt h]
  show Nat.lor (Nat.land old 0xFFFFFFFF) (v &&& 0) = old
  rw [hall, Nat.and_zero]
  exact Nat.or_zero old

/-- A write of a locked DMC_CH_PAT_CTL leaves its word (R487). -/
theorem State.performWrite_patCtl_locked (s : State) (v i n k : Nat) {r : RegRow} (hb : r.base = Reg.DMC_CH_PAT_CTL 0 0) (hrw : r.rw = 0) (hw1c : r.w1c = 0) :
    s.performWrite (Reg.DMC_CH_PAT_CTL n k) v r i true =
      s.on (fun io => io.setReg (Reg.DMC_CH_PAT_CTL n k) (io.getReg (Reg.DMC_CH_PAT_CTL n k))) := by
  have hpage : ¬ Reg.DMC_CH_PAT_CTL n k / 0x20000 = 14 := by unfold Reg.DMC_CH_PAT_CTL; omega
  have hplain : s.performWrite (Reg.DMC_CH_PAT_CTL n k) v r i true = s.on (fun io => io.setReg (Reg.DMC_CH_PAT_CTL n k)
      (BitVec.ofNat 32 (mergeBits (Nat.land (io.getReg (Reg.DMC_CH_PAT_CTL n k)).toNat (Nat.xor 0xFFFFFFFF (Nat.land v r.w1c))) v (Nat.lor r.rw 0)))) := by
    unfold State.performWrite; rw [if_neg hpage, hb]; rfl
  have hall : ∀ x : BitVec 32, Nat.land x.toNat (Nat.xor 0xFFFFFFFF (Nat.land v 0)) = x.toNat := fun x => by
    show x.toNat &&& (0xFFFFFFFF ^^^ (v &&& 0)) = x.toNat
    rw [Nat.and_zero, Nat.xor_zero]
    exact (Nat.and_two_pow_sub_one_eq_mod x.toNat 32).trans (Nat.mod_eq_of_lt x.isLt)
  rw [hplain, hrw, hw1c]
  refine State.on_congr ?_
  rw [hall]
  exact congrArg _ ((congrArg (BitVec.ofNat 32) (mergeBits_none _ _ (BitVec.isLt _))).trans ((BitVec.ofNat_toNat ..).trans (BitVec.setWidth_eq _)))

/-- Settles O31: a request by its class, a pattern by the write of its register, a poll by the factor that it reads. -/
theorem dramController : Obligations.DramController := by
  refine ⟨fun s ch hrun => .intro rfl (State.intervalEnd_of_running hrun), ?_, ?_, ?_, ?_, ?_, ?_, fun s ch => .intro rfl rfl, ?_, ?_, ?_, ?_⟩
  · intro s u ch ns held arrivals c hrun harrive hu
    obtain ⟨hrefresh, hnone⟩ := State.dramGrant_of_running ns hrun harrive hu
    refine ⟨fun howed hpanic => .intro rfl (congrArg State.advance (hrefresh howed hpanic)), fun hnot => ⟨fun harb => .intro rfl (congrArg State.advance (hnone hnot harb)), ?_⟩⟩
    intro r aged harb
    exact ⟨c.granted u r aged, _, _, rfl, rfl, rfl, rfl, rfl, rfl, .intro rfl (congrArg State.advance (State.dramGrant_of_request ns hrun harrive hu hnot harb))⟩
  · intro s ch cls kind addr len hrun
    have hwrite := State.writeAccept_of_running cls kind addr len hrun
    refine ⟨fun hfull => .intro rfl (congrArg State.advance ?_), fun hfull => .intro rfl (congrArg State.advance ?_)⟩
    · rw [hwrite, if_pos hfull, Chan.accept_of_full hfull]
    · rw [hwrite, if_neg (Bool.eq_false_iff.mp hfull), Chan.accept_of_room hfull]
  · intro c cls kind addr len hfull
    rw [Chan.accept_of_full hfull]
    exact ⟨rfl, by simp⟩
  · rintro s ch cls addr u hissued rfl
    have hrun : ∀ ecc, exec (.dramReadComplete ch cls addr ecc) s = .next (s.readComplete ch cls addr ecc) := fun _ => rfl
    have hgo : ¬ (!(s.chan ch).issued.any (fun (r : DReq) => r.cls == cls && r.addr == addr)) = true := by rw [hissued]; decide
    refine ⟨fun hecc ecc => .intro rfl ((if_neg hgo).trans (if_pos (by simp [hecc]))), fun hecc => ⟨?_, ?_, ?_⟩⟩ <;>
    exact .intro rfl ((if_neg hgo).trans (if_neg (by simp [hecc])))
  · rintro s u ch kind fill full hrun hside hnew rfl
    have hgo : (s.chanRunning ch && s.panicSide kind fill full && !(s.chan ch).panic.contains (panicKey kind full)) = true := by rw [hrun, hside, hnew]; rfl
    refine ⟨fun hwas => .intro rfl ((if_pos hgo).trans (if_pos hwas)), ?_⟩
    rintro hwas v rfl
    exact .intro rfl ((if_pos hgo).trans (if_neg (Bool.eq_false_iff.mp hwas)))
  · exact fun s ch kind fill full hside => .intro rfl (if_neg (Bool.eq_false_iff.mp hside))
  · intro s ch cls addr r hcls hfind
    refine .intro rfl ((if_neg hcls).trans ?_)
    rw [hfind]
  · intro s channel pattern length write path hch hacc
    obtain ⟨r, hrow, hbase, hrwl, hrw, hw1c⟩ := regRow_patCtl hch
    have hlow : Reg.DMC_CH_PAT_CTL (channel / 4) (channel % 4) < 0x380000 := by unfold Reg.DMC_CH_PAT_CTL; omega
    have hwrite := fun v => (congrArg Prod.fst ((State.pathWrite_of_accepts v hacc (by omega)).trans (State.writeReg_of_row v hlow hrow hacc.present)))
    refine ⟨fun hfree => .intro rfl ((if_neg (Nat.not_le.mpr hch)).trans ((hwrite _).trans ?_)), fun hlocked => ?_⟩
    · rw [if_neg (by simp [hfree]), State.performWrite_DMC_CH_PAT_CTL s _ _ _ _ hbase]
      exact State.writePatCtl_start ..
    · have hkept : (s.pathWrite path (Reg.DMC_CH_PAT_CTL (channel / 4) (channel % 4)) (pattern % 4 + 4 * flag write + 8 + 16 * (length % 2 ^ 20))).1 =
          (s.on (fun io => io.setReg (Reg.DMC_CH_PAT_CTL (channel / 4) (channel % 4)) (io.getReg (Reg.DMC_CH_PAT_CTL (channel / 4) (channel % 4))))).fire 1 := by
        rw [hwrite, if_pos ⟨hrwl, hlocked⟩, State.performWrite_patCtl_locked s _ _ _ _ hbase hrw hw1c]
      refine .intro (congrArg Host.Outcome.next ((if_neg (Nat.not_le.mpr hch)).trans hkept)) ⟨fun hcan => ?_, ?_⟩
      · refine Io.fire_recorded _ _ ((Io.canFire_setReg _ _ _ ?_ ?_).trans hcan)
        · unfold Reg.DMC_CH_PAT_CTL Reg.CTL_VARIANT
          omega
        · unfold Reg.DMC_CH_PAT_CTL Reg.CTL_BOOT
          omega
      · exact (Io.getReg_fire _ _ (eventReg_of_ge (by unfold Reg.DMC_CH_PAT_CTL; omega))).trans (Io.getReg_setReg_same ..)
  · intro s ch dqErr bursts hrun
    exact .intro (congrArg Host.Outcome.next (if_pos hrun)) (State.on_io ..)
  · rintro s u channel quarters x hrun rfl
    have hpoll : s.mr4Poll channel quarters x = _ := if_neg (by simp [hrun])
    refine ⟨fun hhot => .intro rfl ((if_pos ⟨hrun, hhot⟩).trans ?_), fun hcool => .intro rfl ((if_neg (by omega)).trans ?_)⟩
    · rw [hpoll]
      exact congrArg (State.shutdown · 3) (if_pos hhot)
    · rw [hpoll]
      exact if_neg (Nat.not_lt.mpr hcool)

end Sys2Proof.Machine
end

section
/-! The wall: admission, the throttle of the wall and its commands sent again. -/

set_option Elab.async false

namespace Sys2Proof.Machine

/-- The Sender that serves acts at every `n`th tick. -/
theorem State.dutyTick {s : State} {n : Nat} (hop : s.io.operational = true) (hserve : s.serving = true) (htick : s.io.tick % n = 0) :
    ¬(!s.io.operational || !s.serving || decide (s.io.tick % n ≠ 0)) = true := by
  simp [hop, hserve, htick]

/-- Settles O34: the ceiling's command, where there is one, goes before the throttle's. -/
theorem wallCommands : Obligations.WallCommands := by
  refine ⟨fun s hop hserve htick => ?_, fun s u port packet b hk => ?_, fun s th hop hserve htick hleast => ⟨fun hne => ?_, fun heq => ?_⟩,
    fun s u port packet b hk => ?_, fun s u hop hserve htick => ⟨fun c hceil hsched hu => ⟨fun d hd => ?_, fun hnone => ?_⟩,
      fun hnone => ⟨fun hth => ?_, fun d hd => ?_⟩⟩⟩
  · exact .intro rfl (if_neg (State.dutyTick hop hserve htick))
  · have hrun : exec (.admitReceived port packet) s = execAdmitReceived port packet s := rfl
    unfold execAdmitReceived at hrun
    rw [hk] at hrun
    exact .intro hrun rfl
  · have hrun : exec .wallThrottleCheck s = execWallThrottleCheck s := rfl
    unfold execWallThrottleCheck at hrun
    rw [if_neg (State.dutyTick hop hserve htick), hleast] at hrun
    dsimp only at hrun
    exact .intro (hrun.trans (congrArg Host.Outcome.next (if_neg hne))) rfl
  · have hrun : exec .wallThrottleCheck s = execWallThrottleCheck s := rfl
    unfold execWallThrottleCheck at hrun
    rw [if_neg (State.dutyTick hop hserve htick), hleast] at hrun
    dsimp only at hrun
    exact .intro (hrun.trans (congrArg Host.Outcome.next (if_pos heq))) rfl
  · have hrun : exec (.throttleReceived port packet) s = execThrottleReceived port packet s := rfl
    unfold execThrottleReceived at hrun
    rw [hk] at hrun
    exact .intro hrun rfl
  all_goals
    have hrun : exec .wallCmdResend s = execWallCmdResend s := rfl
    unfold execWallCmdResend at hrun
    rw [if_neg (State.dutyTick hop hserve htick)] at hrun
    dsimp only at hrun
  · rw [if_pos hceil, hsched] at hrun
    dsimp only at hrun
    rw [← hu, hd] at hrun
    exact .intro hrun rfl
  · rw [if_pos hceil, hsched] at hrun
    dsimp only at hrun
    rw [← hu, hnone] at hrun
    exact .intro hrun rfl
  · rcases hnone with hceil | hsched
    · rw [if_neg (Bool.eq_false_iff.mp hceil), hth] at hrun
      exact .intro hrun rfl
    · rw [hsched] at hrun
      dsimp only at hrun
      rw [ite_self, hth] at hrun
      exact .intro hrun rfl
  · rcases hnone with hceil | hsched
    · rw [if_neg (Bool.eq_false_iff.mp hceil), hd] at hrun
      exact .intro hrun rfl
    · rw [hsched] at hrun
      dsimp only at hrun
      rw [ite_self, hd] at hrun
      exact .intro hrun rfl

end Sys2Proof.Machine
end

section
/-! Events and counters (chapter 20): a write of a status register bit by bit, and the registers that snap, clear and configure the counters. -/

set_option Elab.async false

namespace Sys2Proof.Machine

/-! ### A write of a status register -/

/-- Setting or clearing one status bit leaves every other. -/
theorem Io.evtStatus_setStatus_other (s : Io) {e x : Nat} (v : Nat) (h : x ≠ e) (he : e < 512) (hx : x < 512) :
    (s.setStatus e v).evtStatus x = s.evtStatus x := by
  unfold Io.evtStatus Io.setStatus
  dsimp only
  by_cases hw : x / 32 = e / 32
  · rw [hw, Io.getReg_setReg_same, Io.toNat_putBits _ _ _ _ _ (by omega), bit_eq_bits, bit_eq_bits]
    rcases Nat.lt_or_gt_of_ne (show x % 32 ≠ e % 32 by omega) with hlt | hgt
    · rw [bits_putBits_below (by omega)]
    · rw [bits_putBits_above (by omega)]
  · rw [Io.getReg_setReg_other _ _ (by unfold Reg.CTL_EVT_STATUS; omega)]

/-- What bit `b` of the word `v` does, written to status register `i` with no event coincident. -/
def State.clearBit (i v : Nat) (s : State) (b : Nat) : State := if !bit v b then s else s.clearEvent (32 * i + b) []

theorem State.clearStatus_eq (s : State) (i v : Nat) : s.clearStatus i v [] = (List.range 32).foldl (State.clearBit i v) s := by
  unfold State.clearStatus
  congr 1
  funext t b
  cases hv : bit v b <;> simp [State.clearBit, State.clearEvent, hv]

theorem State.clearBit_same {s : State} {i v b : Nat} (hv : bit v b = true) (hd : eventDefined (32 * i + b) = true) :
    (s.clearBit i v b).io.evtStatus (32 * i + b) = false := by
  unfold State.clearBit
  rw [if_neg (by simp [hv]), State.clearEvent_alone hd, Io.evtStatus_setCount, Io.evtStatus_setStatus_same]; rfl

theorem State.clearBit_zero {s : State} {i v b : Nat} (hv : bit v b = false) : s.clearBit i v b = s := if_pos (by simp [hv])

theorem State.clearBit_other {s : State} {i v b x : Nat} (hi : i < 16) (hb : b < 32) (hx : x < 32) (h : b ≠ x) :
    (s.clearBit i v x).io.evtStatus (32 * i + b) = s.io.evtStatus (32 * i + b) := by
  cases hv : bit v x with
  | false => rw [State.clearBit_zero hv]
  | true =>
    unfold State.clearBit
    rw [if_neg (by simp [hv])]
    cases hd : eventDefined (32 * i + x) with
    | false => rw [State.clearEvent_of_undefined [] hd]
    | true =>
      rw [State.clearEvent_alone hd, Io.evtStatus_setCount, Io.evtStatus_setStatus_other _ _ (by omega) (by omega) (by omega)]

/-- After the bits of `l` are written, bit `b` stands where it stood and no 1 was written to it. -/
theorem State.clearBits_evtStatus {i v b : Nat} (hi : i < 16) (hb : b < 32) (hd : bit v b = true → eventDefined (32 * i + b) = true) (l : List Nat)
    (hl : ∀ x ∈ l, x < 32) (s : State) :
    (l.foldl (State.clearBit i v) s).io.evtStatus (32 * i + b) = (s.io.evtStatus (32 * i + b) && !(decide (b ∈ l) && bit v b)) := by
  induction l generalizing s with
  | nil => simp
  | cons x xs ih =>
    rw [List.foldl_cons, ih fun y hy => hl y (List.mem_cons_of_mem x hy)]
    by_cases hx : b = x
    · subst hx
      cases hv : bit v b with
      | false => simp [State.clearBit_zero hv]
      | true => simp [State.clearBit_same hv (hd hv)]
    · rw [State.clearBit_other hi hb (hl x List.mem_cons_self) hx]
      simp [hx]

/-! ### The registers of the counters -/

/-- What a command on CTL_CNT_GLOBAL writes: bits 0, 2 and 3 as they stand, and the bit of the command. -/
theorem bit_globalAct (w : Nat) : (bit (Nat.land w 0xD + 2) 1 = true ∧ bit (Nat.land w 0xD + 2) 4 = false) ∧
    bit (Nat.land w 0xD + 16) 1 = false ∧ bit (Nat.land w 0xD + 16) 4 = true := by
  have hlow : Nat.land w 0xD = Nat.land (w % 16) 0xD := by
    show w &&& 0xD = (w % 2 ^ 4) &&& 0xD
    rw [← Nat.and_two_pow_sub_one_eq_mod, Nat.and_assoc]
    rfl
  have hall : ∀ y : Fin 16, (bit (Nat.land y.val 0xD + 2) 1 = true ∧ bit (Nat.land y.val 0xD + 2) 4 = false) ∧
      bit (Nat.land y.val 0xD + 16) 1 = false ∧ bit (Nat.land y.val 0xD + 16) 4 = true := by decide
  rw [hlow]
  exact hall ⟨w % 16, Nat.mod_lt w (by decide)⟩

theorem State.globalAct_of_accepts {s : State} {p : RegPath} (b : Nat) (h : s.Accepts p Reg.CTL_CNT_GLOBAL) :
    s.globalAct p b = s.writeGlobal (Nat.land (s.io.getReg Reg.CTL_CNT_GLOBAL).toNat 0xD + b) := by
  obtain ⟨r, hbase, hw⟩ := State.pathWrite_of_actsAs (Nat.land (s.io.getReg Reg.CTL_CNT_GLOBAL).toNat 0xD + b) h actsAs_CTL_CNT_GLOBAL (by decide)
  unfold State.globalAct
  rw [hw, State.performWrite_CTL_CNT_GLOBAL _ _ _ hbase]

theorem State.snapshot_canFire (s : State) (o : Occ) : s.snapshot.io.canFire o = s.io.canFire o :=
  (State.snapshot_keeps (State.Keeps.refl s) (Sub.self _)).io.canFire (by decide +kernel) (by decide +kernel) o

theorem State.writeGlobal_snap {s : State} {v : Nat} (h1 : bit v 1 = true) (h4 : bit v 4 = false) :
    s.writeGlobal v = (s.snapshot.on (·.setReg Reg.CTL_CNT_GLOBAL (BitVec.ofNat 32 (Nat.land v 0xD)))).fire 19 := by
  simp [State.writeGlobal, h1, h4]

theorem State.writeGlobal_clear {s : State} {v : Nat} (h1 : bit v 1 = false) (h4 : bit v 4 = true) :
    s.writeGlobal v = s.clearCounters.on (·.setReg Reg.CTL_CNT_GLOBAL (BitVec.ofNat 32 (Nat.land v 0xD))) := by
  simp [State.writeGlobal, h1, h4]

/-- A command that resets a counter writes its configuration as it stands, with bit 15 set. -/
theorem bit_counterReset (w : Nat) : bit (Nat.land w 0x7FFF + 0x8000) 15 = true := by
  have hlow : Nat.land w 0x7FFF < 0x8000 := by
    show w &&& (2 ^ 15 - 1) < 2 ^ 15
    rw [Nat.and_two_pow_sub_one_eq_mod]
    exact Nat.mod_lt w (by decide)
  simp only [bit, decide_eq_true_eq]
  omega

theorem State.writeCounter_reset {s : State} {c v : Nat} (htile : s.io.isTile = true → c < 16) (hv : bit v 15 = true) :
    s.writeCounter c v = (s.on (fun io => io.setReg (Reg.CTL_CNT_CFG c)
      (BitVec.ofNat 32 (mergeBits (io.getReg (Reg.CTL_CNT_CFG c)).toNat v (if s.io.isTile then 0xC00 else 0x7FFF))))).resetCounter c := by
  unfold State.writeCounter
  rw [if_neg (by simpa using htile)]
  exact if_pos hv

/-- Settles O43: a status write is a fold over the bits of its word, and a write of a counter's register is that of its row. -/
theorem eventsAndCounters : Obligations.EventsAndCounters := by
  refine ⟨fun s path i value coincident hi hopen hmode => ⟨fun hp hop => ?_, fun hop => ?_⟩, fun s i v b hi hb hv hd => ?_, fun s i v b hi hb hv => ?_,
    fun s path i value hi hacc => ?_, fun s path hacc => ?_, fun s path hacc => ?_, fun s path c hc htile hacc => ?_, fun s c hcyc => ?_,
    fun s a => ⟨fun hlow => ?_, fun w hlow hw => Io.readLatched_of_latched hlow hw⟩⟩
  · exact .intro rfl ((if_neg (by simp [hi, hopen, hmode])).trans (if_pos (by simp [hp, hop])))
  · exact .intro rfl ((if_neg (by simp [hi, hopen, hmode])).trans (if_neg fun h => by simp [hop h.1] at h))
  · rw [State.clearStatus_eq, State.clearBits_evtStatus hi hb (fun _ => hd) _ (by simp), hv]
    simp [hb]
  · rw [State.clearStatus_eq, State.clearBits_evtStatus hi hb (by simp [hv]) _ (by simp), hv]
    simp
  · have hrun : exec (.eventMaskWrite path i value) s = execEventMaskWrite path i value s := rfl
    unfold execEventMaskWrite at hrun
    obtain ⟨r, hbase, hw⟩ := State.pathWrite_of_actsAs (value % 2 ^ 32) hacc (actsAs_CTL_EVT_MASK hi) (by unfold Reg.CTL_EVT_MASK; omega)
    rw [if_neg (by omega), hw, State.performWrite_CTL_EVT_MASK _ _ _ _ hbase] at hrun
    exact .intro hrun rfl
  · obtain ⟨⟨h1, h4⟩, -⟩ := bit_globalAct (s.io.getReg Reg.CTL_CNT_GLOBAL).toNat
    have hrun : exec (.counterSnap path) s = .next (s.globalAct path 2) := rfl
    rw [State.globalAct_of_accepts 2 hacc, State.writeGlobal_snap h1 h4] at hrun
    refine .intro hrun ⟨?_, fun hcan => ?_⟩
    · rw [(State.fire_keeps (e := 19) (State.Keeps.refl _) (Sub.self _)).io.snap.eq (by decide +kernel)]; rfl
    · refine Io.fire_recorded _ 19 ((Io.canFire_setReg _ _ _ (by decide) (by decide)).trans ?_)
      exact (State.snapshot_canFire s _).trans hcan
  · obtain ⟨-, h1, h4⟩ := bit_globalAct (s.io.getReg Reg.CTL_CNT_GLOBAL).toNat
    have hrun : exec (.counterClear path) s = .next (s.globalAct path 16) := rfl
    rw [State.globalAct_of_accepts 16 hacc, State.writeGlobal_clear h1 h4] at hrun
    refine .intro hrun ⟨rfl, ?_, ?_⟩
    · rw [State.on_io, Io.getReg_setReg_other _ _ (by decide)]
      unfold State.clearCounters
      rw [State.on_io, Io.getReg_setReg_other _ _ (by decide), Io.getReg_setReg_same]
    · rw [State.on_io, Io.getReg_setReg_other _ _ (by decide)]
      unfold State.clearCounters
      rw [State.on_io, Io.getReg_setReg_same]
  · have hrun : exec (.counterReset path c) s = execCounterReset path c s := rfl
    unfold execCounterReset at hrun
    obtain ⟨r, hbase, hw⟩ := State.pathWrite_of_actsAs (Nat.land (s.io.getReg (Reg.CTL_CNT_CFG c)).toNat 0x7FFF + 0x8000) hacc (actsAs_CTL_CNT_CFG hc)
      (by unfold Reg.CTL_CNT_CFG; omega)
    rw [if_neg (by omega), hw, State.performWrite_CTL_CNT_CFG _ _ _ _ hbase] at hrun
    rw [State.writeCounter_reset (by simpa using htile) (bit_counterReset _)] at hrun
    exact .intro hrun ⟨Sparse.get_erase_same _ _ _, fun d hd => Sparse.get_erase_other _ _ hd⟩
  · exact .intro rfl (congrArg State.io (if_pos hcyc))
  · rw [Io.readLatched_low s hlow]
    exact ⟨rfl, Sparse.find?_ins_erase _ _ _⟩

end Sys2Proof.Machine
end

section
/-! The metering domain's commands of MTR_CAL_CMD (R453 to R456), and what its stores and its audit log leave alone. -/

set_option Elab.async false

namespace Sys2Proof.Machine

/-! ### What the stores and the audit log leave alone -/

/-- The state of the domain but for its audit log, the bytes that wait for METER and the number of configuration copies. -/
def MeterState.core (m : MeterState) : MeterState := { m with log := [], unwritten := [], configSeq := 0, infoFull := false }

theorem MeterState.core_fields {m k : MeterState} (h : m.core = k.core) :
    (m.closing = k.closing ∧ m.session = k.session ∧ m.points = k.points) ∧ m.interval = k.interval ∧ m.temp = k.temp ∧ m.recSeq = k.recSeq ∧
      m.intact = k.intact ∧ m.breaks = k.breaks := by
  have view : ∀ {α : Type} (v : MeterState → α), v m.core = v k.core := fun v => congrArg v h
  exact ⟨⟨view (·.closing), view (·.session), view (·.points)⟩, view (·.interval), view (·.temp), view (·.recSeq), view (·.intact), view (·.breaks)⟩

/-- What no step of a fold changes, the fold does not change. -/
theorem foldl_view {α β γ : Type} (v : α → γ) {f : α → β → α} (h : ∀ a x, v (f a x) = v a) (l : List β) (a : α) : v (l.foldl f a) = v a := by
  induction l generalizing a with
  | nil => rfl
  | cons x xs ih => rw [List.foldl_cons, ih, h]

theorem State.flushMeter_core (s : State) : s.flushMeter.meter.core = s.meter.core := by
  unfold State.flushMeter
  cases s.partition 3 with
  | none => rfl
  | some p =>
    cases s.meterWrites with
    | false => rfl
    | true =>
      refine (foldl_view (fun t : State => t.meter.core) (fun t w => ?_) _ _).trans rfl
      split <;> rfl

theorem State.meterStore_core (s : State) (off : Nat) (bs : List Byte) : (s.meterStore off bs).meter.core = s.meter.core :=
  (State.flushMeter_core _).trans rfl

theorem State.storeConfig_core (s : State) : s.storeConfig.meter.core = s.meter.core :=
  (State.meterStore_core _ _ _).trans rfl

theorem State.audit_core (s : State) (kind points : Nat) (data : List Byte) : (s.audit kind points data).meter.core = s.meter.core := by
  unfold State.audit
  dsimp only
  rw [State.fire_meter, (State.reportLog_keeps (State.Keeps.refl _) (Sub.self _)).meter.eq (by decide +kernel),
    (State.mirrorEntry_keeps (State.Keeps.refl _) (Sub.self _)).meter.eq (by decide +kernel), State.meterStore_core]
  rfl

theorem State.auditInfo_core (s : State) (kind points : Nat) (data : List Byte) : (s.auditInfo kind points data).meter.core = s.meter.core := by
  unfold State.auditInfo
  split
  · exact State.audit_core s kind points data
  · dsimp only
    split
    · rw [State.bumpF_meter]
    · rw [State.fire_meter, State.onMeter_meter, State.bumpF_meter]; rfl

/-! ### An event that ends an operation -/

/-- An event that could fire before an operation fires after it, where the operation leaves it able to. -/
theorem Fires.of_fire {s u : State} {e : Nat} (h : u.io.canFire { event := e } = s.io.canFire { event := e }) : Fires e s (u.fire e) :=
  fun hcan => Io.fire_recorded u.io e (h.trans hcan)

/-! ### A command of MTR_CAL_CMD that is taken -/

/-- A command that is taken is written to MTR_CAL_CMD and carried out (R453). -/
theorem State.CalReady.write {s : State} {p : RegPath} {v : Nat} (h : s.CalReady p) (hv : v < 256) :
    (s.pathWrite p Reg.MTR_CAL_CMD v).1 = (s.setF Fld.MTR_CAL_CMD_CMD v).calAct v := by
  obtain ⟨hacc, hpower, hen, hidle, hunsealed⟩ := h
  obtain ⟨r, hbase, hw⟩ := State.pathWrite_of_actsAs v hacc actsAs_MTR_CAL_CMD (by decide)
  have hunsealed' : (s.setF Fld.MTR_CAL_CMD_CMD v).isF Fld.MTR_CAL_STAT_SEAL_PENDING = false := by
    rw [← hunsealed]
    unfold State.isF Io.isF
    rw [State.setF_io, Io.getF_setF_other _ _ (by decide)]
  rw [hw, State.performWrite_MTR_CAL_CMD _ _ _ hbase, if_neg (by simp [hpower, hen]), State.calCommand_eq, Nat.mod_eq_of_lt hv,
    if_neg (by simp [hpower, hen]), if_neg (by simp [hidle]), if_neg (by simp [hunsealed'])]

/-- Writing the command leaves the fields of the other registers. -/
theorem State.isF_calCmd (s : State) (v : Nat) {f : Field} (h : f.reg ≠ Reg.MTR_CAL_CMD) : (s.setF Fld.MTR_CAL_CMD_CMD v).isF f = s.isF f := by
  unfold State.isF Io.isF
  rw [State.setF_io, Io.getF_setF_other _ _ h]

theorem State.getF_calCmd (s : State) (v : Nat) {f : Field} (h : f.reg ≠ Reg.MTR_CAL_CMD) : (s.setF Fld.MTR_CAL_CMD_CMD v).getF f = s.getF f :=
  Io.getF_setF_other _ _ h

theorem State.calResult_meter (s : State) (r : Nat) : (s.calResult r).meter = s.meter := by
  unfold State.calResult; rw [State.setF_meter, State.setF_meter]

theorem State.calResult_canFire (s : State) (r : Nat) (o : Occ) : (s.calResult r).io.canFire o = s.io.canFire o := by
  unfold State.calResult
  rw [State.setF_io, Io.canFire_setF _ _ _ (by decide) (by decide), State.setF_io, Io.canFire_setF _ _ _ (by decide) (by decide)]

section
variable (s : State)

theorem State.calAct_none : s.calAct 0 = s.calResult 0 := rfl
theorem State.calAct_start : s.calAct 1 = s.calStart := rfl
theorem State.calAct_zero : s.calAct 2 = s.calRun 2 := rfl
theorem State.calAct_vref : s.calAct 3 = s.calRun 3 := rfl
theorem State.calAct_iref : s.calAct 4 = s.calRun 4 := rfl
theorem State.calAct_delay : s.calAct 5 = s.calDelay := rfl
theorem State.calAct_commit : s.calAct 6 = s.calCommit := rfl
theorem State.calAct_abort :
    s.calAct 7 = if !s.isF Fld.MTR_CAL_STAT_SESSION || s.meter.closing then s.calResult 2 else s.calAbort.calResult 0 := rfl
theorem State.calAct_seal : s.calAct 8 = s.calSeal := rfl

end

/-! ### START -/

/-- The candidates start from the coefficients, and the session opens (R454). -/
def State.openSession (s : State) : State :=
  ((s.onMeter (fun m => { m with session := s.getF Fld.MTR_CAL_ARG0_POINTS, points := m.points.map (fun p => { p with cand := p.coef }) })).setF
    Fld.MTR_STATE_CAL 1).setF Fld.MTR_CAL_STAT_SESSION 1

theorem State.calStart_of_free {s : State} (hopen : s.isF Fld.MTR_CAL_STAT_SESSION = false) (hmask : s.getF Fld.MTR_CAL_ARG0_POINTS ≠ 0)
    (hlog : 2 ≤ s.logFree) : s.calStart = (s.openSession.calResult 0).fire 451 :=
  (if_neg (by simp [hopen])).trans ((if_neg hmask).trans (if_neg (by omega)))

theorem State.openSession_session (s : State) : s.openSession.meter.session = s.getF Fld.MTR_CAL_ARG0_POINTS := rfl

theorem State.openSession_fields (s : State) : (s.openSession.calResult 0).getF Fld.MTR_STATE_CAL = 1 ∧
    (s.openSession.calResult 0).getF Fld.MTR_CAL_STAT_SESSION = 1 ∧ (s.openSession.calResult 0).getF Fld.MTR_CAL_STAT_RESULT = 0 := by
  unfold State.calResult State.openSession
  refine ⟨?_, ?_, ?_⟩
  · simp only [State.getF_setF, State.setF_io]
    rw [Io.getF_setF_ne _ _ (by decide), Io.getF_setF_ne _ _ (by decide), Io.getF_setF_ne _ _ (by decide), Io.getF_setF_same _ _ _ (by decide)]; rfl
  · simp only [State.getF_setF, State.setF_io]
    rw [Io.getF_setF_ne _ _ (by decide), Io.getF_setF_ne _ _ (by decide), Io.getF_setF_same _ _ _ (by decide)]; rfl
  · simp only [State.getF_setF, State.setF_io]
    rw [Io.getF_setF_ne _ _ (by decide), Io.getF_setF_same _ _ _ (by decide)]; rfl

/-! ### COMMIT -/

/-- The candidates of the session's points enter the sealed configuration (R455). -/
def State.commitCandidates (s : State) : State :=
  (setBits s.meter.session 16).foldl (fun u p => u.setF (Fld.MTR_POINT_STAT_CAL_SEQ p) (u.mpoint p).calSeq)
    (s.onMeter (fun m => { m with closing := true, points := m.points.zipIdx.map (fun (x : MeterPoint × Nat) => if bit s.meter.session x.2 then { x.1 with coef := x.1.cand, calSeq := (x.1.calSeq + 1) % 2 ^ 16 } else x.1) }))

theorem State.commitCandidates_meter (s : State) : s.commitCandidates.meter =
    { s.meter with closing := true, points := s.meter.points.zipIdx.map (fun (x : MeterPoint × Nat) => if bit s.meter.session x.2 then { x.1 with coef := x.1.cand, calSeq := (x.1.calSeq + 1) % 2 ^ 16 } else x.1) } := by
  unfold State.commitCandidates
  rw [foldl_view (fun t : State => t.meter) (fun t _ => State.setF_meter t _ _), State.onMeter_meter]

theorem State.calSeq_canFire (s : State) (p v : Nat) (o : Occ) : (s.setF (Fld.MTR_POINT_STAT_CAL_SEQ p) v).io.canFire o = s.io.canFire o :=
  Io.canFire_setF _ _ _ (by simp only [Fld.MTR_POINT_STAT_CAL_SEQ, Reg.MTR_POINT_STAT, Reg.CTL_VARIANT]; omega)
    (by simp only [Fld.MTR_POINT_STAT_CAL_SEQ, Reg.MTR_POINT_STAT, Reg.CTL_BOOT]; omega)

theorem State.commitCandidates_canFire (s : State) (o : Occ) : s.commitCandidates.io.canFire o = s.io.canFire o := by
  unfold State.commitCandidates
  rw [foldl_view (fun t : State => t.io.canFire o) (fun t p => State.calSeq_canFire t p _ o), State.onMeter_io]

theorem State.calCommit_of_open {s : State} (hopen : s.isF Fld.MTR_CAL_STAT_SESSION = true) (hclosing : s.meter.closing = false) (hlog : 2 ≤ s.logFree) :
    ∃ d, s.calCommit = ((s.commitCandidates.storeConfig.audit 0x03 s.meter.session d).calResult 0).fire 452 :=
  ⟨_, (if_neg (by simp [hopen, hclosing])).trans (if_neg (by omega))⟩

/-! ### SEAL -/

theorem ite_bnot {α : Type} (b : Bool) (x y : α) : (if (!b) = true then x else y) = if b = true then y else x := by cases b <;> rfl

/-- What the signature of a SEAL is over: the serial number, the length of the log and the configuration's digest (R456). -/
theorem State.calSeal_of_checked {s : State} {d : List Byte} (hd : d = sha512 s.meter.config) (hopen : s.isF Fld.MTR_CAL_STAT_SESSION = false)
    (hm : s.mPart = true) (hlog : 2 ≤ s.logFree) :
    s.calSeal = if sealingKeyOk (leBytes 8 (s.io.getWide Fld.CTL_SERIAL_LO Fld.CTL_SERIAL_HI) ++ leBytes 4 s.meter.log.length ++ sub d 0 64)
        ((List.range 128).flatMap (fun i => leBytes 4 (s.getF (Fld.MTR_CAL_DATA i)))) = true
      then ((s.audit 0x01 0 (sub d 0 32)).setF Fld.MTR_CAL_STAT_SEAL_PENDING 1).calResult 0 else s.calResult 8 := by
  subst hd
  unfold State.calSeal
  dsimp only
  rw [if_neg (by simp [hopen]), if_neg (by simp [hm]), if_neg (by omega)]
  exact ite_bnot _ _ _

/-! ### The statement -/

/-- Settles O33: a command that is taken is a match on its number. -/
theorem calibrationCommands : Obligations.CalibrationCommands := by
  refine ⟨fun s path h => ?_, fun s path h => ⟨fun hopen => ?_, fun hopen hmask hlog => ?_⟩,
    fun s path h => ?_, fun s path h => ?_, fun s path h => ?_,
    fun s path h => ?_,
    fun s run => ⟨fun hclosed => ?_, fun hopen hclosing => ⟨fun hout => ?_, fun hlt hbit => ?_⟩⟩,
    fun s path h => ⟨fun hclosed => ?_, fun hopen hclosing hlog => ?_⟩, fun s path h => ⟨fun hclosed => ?_, fun hopen hclosing => ?_⟩,
    fun s path h => ⟨fun hopen => ?_, fun hopen hm => ?_, fun hopen hm hlog u d hu hd => ?_⟩, fun s cmd path h hlo hhi => ?_⟩
  · exact .intro rfl ((h.write (by decide)).trans (State.calAct_none _))
  · exact .intro rfl ((h.write (by decide)).trans ((State.calAct_start _).trans (if_pos ((State.isF_calCmd s 1 (by decide)).trans hopen))))
  · have hrun : exec (.calStart path) s = .next ((s.setF Fld.MTR_CAL_CMD_CMD 1).calStart) := congrArg Host.Outcome.next ((h.write (by decide)).trans (State.calAct_start _))
    rw [State.calStart_of_free ((State.isF_calCmd s 1 (by decide)).trans hopen) (by rwa [State.getF_calCmd s 1 (by decide)]) hlog] at hrun
    obtain ⟨hcal, hsession, hresult⟩ := State.openSession_fields (s.setF Fld.MTR_CAL_CMD_CMD 1)
    refine .intro hrun ⟨?_, ?_, ?_, ?_, .of_fire ?_⟩
    · rw [State.fire_meter, State.calResult_meter, State.openSession_session, State.getF_calCmd s 1 (by decide)]
    · rw [State.getF_fire, Io.getF_fire _ _ (by decide)]; exact hcal
    · rw [State.getF_fire, Io.getF_fire _ _ (by decide)]; exact hsession
    · rw [State.getF_fire, Io.getF_fire _ _ (by decide)]; exact hresult
    · rw [State.calResult_canFire]
      unfold State.openSession
      rw [State.setF_io, Io.canFire_setF _ _ _ (by decide) (by decide), State.setF_io, Io.canFire_setF _ _ _ (by decide) (by decide), State.onMeter_io,
        State.setF_io, Io.canFire_setF _ _ _ (by decide) (by decide)]
  · exact .intro rfl ((h.write (by decide)).trans (State.calAct_zero _))
  · exact .intro rfl ((h.write (by decide)).trans (State.calAct_vref _))
  · exact .intro rfl ((h.write (by decide)).trans (State.calAct_iref _))
  · exact .intro rfl ((h.write (by decide)).trans (State.calAct_delay _))
  · unfold State.calPoint
    exact if_pos (by simpa using hclosed)
  · exact (if_neg (by simp [hopen, hclosing])).trans (if_pos (by simpa using hout))
  · exact (if_neg (by simp [hopen, hclosing])).trans (if_neg (by simp [hbit]; omega))
  · exact .intro rfl ((h.write (by decide)).trans ((State.calAct_commit _).trans (if_pos (by simpa [State.isF_calCmd s 6 (f := Fld.MTR_CAL_STAT_SESSION) (by decide)] using hclosed))))
  · have hrun : exec (.calCommit path) s = .next ((s.setF Fld.MTR_CAL_CMD_CMD 6).calCommit) := congrArg Host.Outcome.next ((h.write (by decide)).trans (State.calAct_commit _))
    obtain ⟨d, hd⟩ := State.calCommit_of_open (s := s.setF Fld.MTR_CAL_CMD_CMD 6) ((State.isF_calCmd s 6 (by decide)).trans hopen) hclosing hlog
    rw [State.setF_meter] at hd
    rw [hd] at hrun
    have hcore : ((((s.setF Fld.MTR_CAL_CMD_CMD 6).commitCandidates.storeConfig.audit 0x03 s.meter.session d).calResult 0).fire 452).meter.core =
        (s.setF Fld.MTR_CAL_CMD_CMD 6).commitCandidates.meter.core := by
      rw [State.fire_meter, State.calResult_meter, State.audit_core, State.storeConfig_core]
    rw [State.commitCandidates_meter, State.setF_meter] at hcore
    obtain ⟨⟨hclosed, hsession, hpoints⟩, -⟩ := MeterState.core_fields hcore
    refine .intro hrun ⟨hclosed, hsession, .of_fire ?_, hpoints⟩
    rw [State.calResult_canFire, (State.audit_keeps (State.Keeps.refl _) (Sub.self _)).io.canFire (by decide +kernel) (by decide +kernel),
      (State.storeConfig_keeps (State.Keeps.refl _) (Sub.self _)).io.canFire (by decide +kernel) (by decide +kernel), State.commitCandidates_canFire,
      State.setF_io, Io.canFire_setF _ _ _ (by decide) (by decide)]
  · exact .intro rfl ((h.write (by decide)).trans ((State.calAct_abort _).trans (if_pos (by simpa [State.isF_calCmd s 7 (f := Fld.MTR_CAL_STAT_SESSION) (by decide)] using hclosed))))
  · exact .intro rfl ((h.write (by decide)).trans ((State.calAct_abort _).trans (if_neg (by simp [State.isF_calCmd s 7 (f := Fld.MTR_CAL_STAT_SESSION) (by decide), hopen, hclosing]))))
  · exact .intro rfl ((h.write (by decide)).trans ((State.calAct_seal _).trans (if_pos ((State.isF_calCmd s 8 (by decide)).trans hopen))))
  · have hopen' := (State.isF_calCmd s 8 (f := Fld.MTR_CAL_STAT_SESSION) (by decide)).trans hopen
    have hm' : (s.setF Fld.MTR_CAL_CMD_CMD 8).mPart = false := (State.isF_calCmd s 8 (by decide)).trans hm
    exact .intro rfl ((h.write (by decide)).trans ((State.calAct_seal _).trans ((if_neg (by simp [hopen'])).trans (if_pos (by simp [hm'])))))
  · subst hu
    have hm' : (s.setF Fld.MTR_CAL_CMD_CMD 8).mPart = true := (State.isF_calCmd s 8 (by decide)).trans hm
    exact .intro rfl ((h.write (by decide)).trans ((State.calAct_seal _).trans (State.calSeal_of_checked hd ((State.isF_calCmd s 8 (by decide)).trans hopen) hm' hlog)))
  · exact .intro (congrArg Host.Outcome.next ((if_pos ⟨hlo, hhi⟩).trans (h.write hhi))) (State.calAct_bad _ hlo hhi)

end Sys2Proof.Machine
end

section
/-! The sealed metering domain: power, intervals, persistence, records and firmware (R436 to R458). -/

set_option Elab.async false

namespace Sys2Proof.Machine

/-! ### What reports, stores and audit entries leave of the domain -/

/-- The domain has power, its interval and temperature, and the number of its last record. -/
def State.clock (s : State) : Bool × Nat × Int × Nat := (s.io.meterUp, s.meter.interval, s.meter.temp, s.meter.recSeq)

theorem State.clock_of_core {s t : State} (hpower : t.io.meterUp = s.io.meterUp) (hcore : t.meter.core = s.meter.core) : t.clock = s.clock := by
  obtain ⟨-, hinterval, htemp, hrec, -⟩ := MeterState.core_fields hcore
  unfold State.clock
  rw [hpower, hinterval, htemp, hrec]

theorem State.clock_of_keeps {m : Nat} {s t : State} (h : State.Keeps m s t) (hpower : Nat.testBit m Part.power = false)
    (hmeter : Nat.testBit m Part.meter = false) : t.clock = s.clock :=
  State.clock_of_core (h.io.meterUp.eq hpower) (by rw [h.meter.eq hmeter])

theorem State.setF_clock (s : State) (f : Field) (v : Nat) : (s.setF f v).clock = s.clock := rfl
theorem State.on_setWide_clock (s : State) (lo hi : Field) (v : Nat) : (s.on (·.setWide lo hi v)).clock = s.clock := rfl

theorem State.fire_clock (s : State) (e : Nat) : (s.fire e).clock = s.clock :=
  State.clock_of_keeps (State.fire_keeps (State.Keeps.refl s) (Sub.self _)) (by decide +kernel) (by decide +kernel)

theorem State.flushMeter_clock (s : State) : s.flushMeter.clock = s.clock :=
  State.clock_of_core ((State.flushMeter_keeps (State.Keeps.refl s) (Sub.self _)).io.meterUp.eq (by decide +kernel)) (State.flushMeter_core s)

theorem State.meterStore_clock (s : State) (off : Nat) (bs : List Byte) : (s.meterStore off bs).clock = s.clock :=
  State.clock_of_core ((State.meterStore_keeps (State.Keeps.refl s) (Sub.self _)).io.meterUp.eq (by decide +kernel)) (State.meterStore_core s off bs)

theorem State.auditInfo_clock (s : State) (kind points : Nat) (data : List Byte) : (s.auditInfo kind points data).clock = s.clock :=
  State.clock_of_core ((State.auditInfo_keeps (State.Keeps.refl s) (Sub.self _)).io.meterUp.eq (by decide +kernel)) (State.auditInfo_core s kind points data)

/-! ### The seal -/

/-- The seal breaks: what the domain holds of it (R446). -/
theorem State.breakSeal_of_intact {s : State} (hm : s.mPart = true) (hintact : s.meter.intact = true) :
    s.breakSeal.meter.core = { s.meter with intact := false, breaks := min (2 ^ 32 - 1) (s.meter.breaks + 1) }.core := by
  unfold State.breakSeal
  rw [if_neg (by simp [hm, hintact])]
  dsimp only
  rw [State.fire_meter, (State.reportSeal_keeps (State.Keeps.refl _) (Sub.self _)).meter.eq (by decide +kernel), State.setF_meter]
  split
  · rw [State.audit_core, State.onMeter_meter]
  · rw [State.onMeter_meter]

theorem State.breakSeal_clock (s : State) : s.breakSeal.clock = s.clock := by
  have hpower : s.breakSeal.io.meterUp = s.io.meterUp := (State.breakSeal_keeps (State.Keeps.refl s) (Sub.self _)).io.meterUp.eq (by decide +kernel)
  by_cases h : s.mPart = true ∧ s.meter.intact = true
  · obtain ⟨-, hinterval, htemp, hrec, -⟩ := MeterState.core_fields (State.breakSeal_of_intact h.1 h.2)
    unfold State.clock
    rw [hpower, hinterval, htemp, hrec]
  · have hskip : s.breakSeal = s := if_pos (by simpa [Classical.or_iff_not_imp_left] using h)
    rw [hskip]

/-! ### Power -/

/-- The domain reports what it resumes with: energies, interval, firmware, seal and log (R438). -/
def State.reportMeter (s : State) (fresh : MeterState) : State :=
  let s := (List.range 16).foldl State.reportEnergy s
  let s := s.on (·.setWide Fld.MTR_INTERVAL_LO Fld.MTR_INTERVAL_HI (fresh.interval % 2 ^ 64))
  let s := s.reportFirmware.setF Fld.MTR_SEAL_BREAKS fresh.breaks
  let s := (fresh.log.zipIdx).foldl (fun s (x : List Byte × Nat) => s.mirrorEntry x.2 x.1) s
  s.reportLog.reportSeal

theorem State.reportMeter_clock (s : State) (fresh : MeterState) : (s.reportMeter fresh).clock = s.clock := by
  unfold State.reportMeter
  dsimp only
  rw [State.clock_of_keeps (State.reportSeal_keeps (State.Keeps.refl _) (Sub.self _)) (by decide +kernel) (by decide +kernel),
    State.clock_of_keeps (State.reportLog_keeps (State.Keeps.refl _) (Sub.self _)) (by decide +kernel) (by decide +kernel),
    foldl_view State.clock fun t x => State.clock_of_keeps (State.mirrorEntry_keeps (State.Keeps.refl t) (Sub.self _)) (by decide +kernel) (by decide +kernel),
    State.setF_clock, State.clock_of_keeps (State.reportFirmware_keeps (State.Keeps.refl _) (Sub.self _)) (by decide +kernel) (by decide +kernel),
    State.on_setWide_clock,
    foldl_view State.clock fun t p => State.clock_of_keeps (State.reportEnergy_keeps (State.Keeps.refl t) (Sub.self _)) (by decide +kernel) (by decide +kernel)]

/-- The state that the domain resumes with from its newest energy record (R436, R444). -/
def MeterState.resumed (m : MeterState) (last : Option EnergyRecord) (temp : Int) : MeterState :=
  { mclkHz := m.mclkHz, saveS := m.saveS, tempLo := m.tempLo, tempHi := m.tempHi
    points := (List.range 16).map (fun p =>
      let x := m.points.getD p {}
      ({ coef := x.coef, calSeq := x.calSeq, pub := x.coef, acc := nth (match last with | some r => r.accs | none => []) p } : MeterPoint))
    sectorA := m.sectorA, sectorB := m.sectorB, intoB := m.intoB, log := m.log, configSeq := m.configSeq, intact := m.intact, breaks := m.breaks
    recSeq := match last with | some r => r.recSeq | none => 0
    digest := m.digest, version := m.version, slotB := m.slotB, otp := m.otp
    interval := match last with | some r => r.interval | none => 0
    temp := temp, notice := m.notice }

/-- The domain takes power: it resumes and reports. -/
def State.meterResumed (s : State) (temp : Int) : State :=
  ({ s with meter := s.meter.resumed s.meter.newest temp, io := { s.io with meterUp := true } }.clearMeterPage).reportMeter (s.meter.resumed s.meter.newest temp)

theorem State.meterResumed_clock (s : State) (temp : Int) :
    (s.meterResumed temp).clock = (true, (s.meter.resumed s.meter.newest temp).interval, temp, (s.meter.resumed s.meter.newest temp).recSeq) := by
  unfold State.meterResumed
  rw [State.reportMeter_clock]
  rfl

/-- What follows the reports: MTR_CAL_EN that is asserted breaks the seal (R447). -/
def State.calEnAtPower (s : State) (calEn : Bool) : State := if calEn then (s.setF Fld.MTR_HEALTH_CAL_EN 1).breakSeal else s

theorem State.calEnAtPower_clock (s : State) (calEn : Bool) : (s.calEnAtPower calEn).clock = s.clock := by
  unfold State.calEnAtPower
  split
  · exact (State.breakSeal_clock _).trans (State.setF_clock _ _ _)
  · rfl

/-- The domain takes power with no energy record, or resumes from its newest, whose absent SHUTDOWN flag is an entry of the log (R444). -/
theorem State.meterPowerOn_eq {s : State} (calEn : Bool) (temp : Int) (hdown : s.io.meterUp = false) (hfit : s.needsMeter = true) :
    (s.meter.newest = none → exec (.meterPowerOn calEn temp) s = .next ((s.meterResumed temp).calEnAtPower calEn)) ∧
    ∀ r, s.meter.newest = some r → exec (.meterPowerOn calEn temp) s = .next
      ((if r.shutdown then s.meterResumed temp else ((s.meterResumed temp).auditInfo 0x07 0 []).fire 464).calEnAtPower calEn) := by
  have hrun : exec (.meterPowerOn calEn temp) s = execMeterPowerOn calEn temp s := rfl
  unfold execMeterPowerOn at hrun
  rw [if_neg (by simp [hdown, hfit])] at hrun
  unfold State.meterResumed State.reportMeter MeterState.resumed State.calEnAtPower
  refine ⟨fun hlast => ?_, fun r hlast => ?_⟩
  · dsimp only at hrun ⊢
    rw [hlast] at hrun ⊢
    exact hrun
  · dsimp only at hrun ⊢
    rw [hlast] at hrun ⊢
    exact hrun

/-! ### An interval -/

/-- A view of a state is that of both branches. -/
theorem ite_view {α β : Type} (v : α → β) {c : Prop} [Decidable c] {a b : α} {x : β} (ha : v a = x) (hb : v b = x) : v (if c then a else b) = x := by
  split <;> assumption

/-- The interval in progress and the domain's temperature. -/
def State.meterTime (s : State) : Nat × Int := (s.meter.interval, s.meter.temp)

section
variable (s : State)

theorem State.meterTime_of_clock {t : State} (h : t.clock = s.clock) : t.meterTime = s.meterTime :=
  congrArg (fun c => (c.2.1, c.2.2.1)) h

@[simp] theorem State.setF_meterTime (f : Field) (v : Nat) : (s.setF f v).meterTime = s.meterTime := (rfl)
@[simp] theorem State.on_meterTime (f : Io → Io) : (s.on f).meterTime = s.meterTime := (rfl)
@[simp] theorem State.fire_meterTime (e : Nat) : (s.fire e).meterTime = s.meterTime := by unfold State.meterTime; rw [State.fire_meter]
@[simp] theorem State.setMpoint_meterTime (p : Nat) (f : MeterPoint → MeterPoint) : (s.setMpoint p f).meterTime = s.meterTime := (rfl)
@[simp] theorem State.reportEnergy_meterTime (p : Nat) : (s.reportEnergy p).meterTime = s.meterTime := by
  unfold State.reportEnergy; rw [State.setF_meterTime, State.on_meterTime]
@[simp] theorem State.calResult_meterTime (r : Nat) : (s.calResult r).meterTime = s.meterTime := by
  unfold State.calResult; rw [State.setF_meterTime, State.setF_meterTime]

theorem State.onMeter_meterTime {f : MeterState → MeterState} (h : (f s.meter).interval = s.meter.interval ∧ (f s.meter).temp = s.meter.temp) :
    (s.onMeter f).meterTime = s.meterTime := by
  unfold State.meterTime; rw [State.onMeter_meter, h.1, h.2]

theorem State.measurePoint_meterTime (fault : Bool) (p : Nat) (raw : List (Int × Int)) : (s.measurePoint fault p raw).meterTime = s.meterTime := by
  unfold State.measurePoint
  extract_lets m high pairs stale ramp pub n now sums power s1 s2 s3 s4
  have h3 : s3.meterTime = s.meterTime := by simp only [s3, s2, s1, State.setMpoint_meterTime, State.setF_meterTime]
  clear_value s3
  have h4 : s4.meterTime = s.meterTime := ite_view State.meterTime ((s3.on_meterTime _).trans h3) h3
  clear_value s4
  refine ite_view State.meterTime ((State.setF_meterTime _ _ _).trans ((State.setF_meterTime _ _ _).trans h4)) ?_
  obtain ⟨v, i, w⟩ := published pub n (intervalSums pub m.tail pairs)
  dsimp -zeta only
  extract_lets t1 t2 t3 t4 t5
  have h2 : t2.meterTime = s.meterTime := by simp only [t1, t2, State.setF_meterTime, h4]
  clear_value t2
  have h4' : t4.meterTime = s.meterTime := by simp only [t4, t3, State.reportEnergy_meterTime, State.setMpoint_meterTime, h2]
  clear_value t4
  have h5 : t5.meterTime = s.meterTime := ite_view State.meterTime (((t4.setMpoint p _).on_meterTime _).trans ((t4.setMpoint_meterTime p _).trans h4')) h4'
  clear_value t5
  exact ite_view State.meterTime (((t5.setMpoint p _).on_meterTime _).trans ((t5.setMpoint_meterTime p _).trans h5)) h5

theorem State.calEnd_meterTime (r : CalRun) : (s.calEnd r).meterTime = s.meterTime := by
  have hrun : (s.onMeter (fun m => { m with run := none })).meterTime = s.meterTime := s.onMeter_meterTime ⟨rfl, rfl⟩
  unfold State.calEnd
  dsimp only
  split
  · split <;> simp [hrun]
  · split <;> simp [hrun]
  · split <;> simp [hrun]

theorem State.calAverage_meterTime (fault : Bool) (samples : List (List (Int × Int))) : (s.calAverage fault samples).meterTime = s.meterTime := by
  unfold State.calAverage
  split
  · exact ite_view State.meterTime rfl (ite_view State.meterTime (s.calEnd_meterTime _) (s.onMeter_meterTime ⟨rfl, rfl⟩))
  · rfl

theorem MeterState.save_time (m : MeterState) (b : Bool) : (m.save b).interval = m.interval ∧ (m.save b).temp = m.temp := by
  unfold MeterState.save
  dsimp only
  split <;> split <;> exact ⟨rfl, rfl⟩

theorem State.meterStore_meterTime (off : Nat) (bs : List Byte) : (s.meterStore off bs).meterTime = s.meterTime :=
  s.meterTime_of_clock (s.meterStore_clock off bs)

theorem State.saveNow_meterTime (b : Bool) : (s.saveNow b).meterTime = s.meterTime := by
  have hsave : (s.onMeter (·.save b)).meterTime = s.meterTime := s.onMeter_meterTime (s.meter.save_time b)
  unfold State.saveNow
  dsimp only
  split
  · exact ite_view State.meterTime (by rw [State.meterStore_meterTime, State.meterStore_meterTime, hsave]) (by rw [State.meterStore_meterTime, hsave])
  · exact hsave

theorem State.takeRequest_meterTime : s.takeRequest.meterTime = s.meterTime := by
  unfold State.takeRequest
  dsimp only
  refine ite_view State.meterTime rfl ?_
  rw [State.onMeter_meterTime _ ⟨rfl, rfl⟩, State.saveNow_meterTime, State.onMeter_meterTime _ ⟨rfl, rfl⟩]

theorem State.reportFirmware_meterTime : s.reportFirmware.meterTime = s.meterTime :=
  s.meterTime_of_clock (State.clock_of_keeps (State.reportFirmware_keeps (State.Keeps.refl s) (Sub.self _)) (by decide +kernel) (by decide +kernel))

/-- A committed session closes at the boundary; where there is none, the points in session are held in the next interval (R454, R455). -/
def State.sessionBoundary : State :=
  if s.meter.closing then
    let mask := s.meter.session
    let ramped := s.meter.points.zipIdx.map (fun (x : MeterPoint × Nat) => if bit mask x.2 then { x.1 with rampFrom := x.1.pub, ramp := 64 } else x.1)
    let s := s.onMeter (fun m => { m with closing := false, session := 0, held := 0, points := ramped })
    let s := (setBits mask 16).foldl (fun s p => s.setF (Fld.MTR_POINT_STAT_RAMP p) 64) s
    (s.setF Fld.MTR_STATE_CAL 0).setF Fld.MTR_CAL_STAT_SESSION 0
  else s.onMeter (fun m => { m with held := m.session })

theorem State.sessionBoundary_meterTime : s.sessionBoundary.meterTime = s.meterTime := by
  refine ite_view State.meterTime ?_ (s.onMeter_meterTime ⟨rfl, rfl⟩)
  rw [State.setF_meterTime, State.setF_meterTime, foldl_view State.meterTime fun t p => t.setF_meterTime _ _, State.onMeter_meterTime _ ⟨rfl, rfl⟩]

theorem State.meterBoundary_meterTime : s.meterBoundary.meterTime = s.meterTime := by
  have hsession := s.sessionBoundary_meterTime
  have hrun : s.meterBoundary = match s.sessionBoundary.meter.install with
      | some (d, v) => ((s.sessionBoundary.onMeter (fun m => { m with install := none, digest := some d, version := v, slotB := !m.slotB })).reportFirmware).fire 462
      | none => s.sessionBoundary := rfl
  rw [hrun]
  split
  · rw [State.fire_meterTime, State.reportFirmware_meterTime, State.onMeter_meterTime _ ⟨rfl, rfl⟩, hsession]
  · exact hsession

end

/-- The end of an interval: the interval advances, the temperature is the one measured, and event 448 fires last (R441). -/
theorem State.meterInterval_eq {s : State} (mclk : Nat) (samples : List (List (Int × Int))) (temp : Int) (hpower : s.io.meterUp = true) :
    ∃ u : State, exec (.meterInterval mclk samples temp) s = .next ((u.onTherm (fun t => { t with absent := false })).fire 448) ∧
      u.meterTime = (s.meter.interval + 1, temp) := by
  have hrun : exec (.meterInterval mclk samples temp) s = execMeterInterval mclk samples temp s := rfl
  unfold execMeterInterval at hrun
  rw [if_neg (by simp [hpower])] at hrun
  extract_lets fault began s1 s2 s3 s4 s5 s6 s7 s8 s9 s10 at hrun
  refine ⟨s10, hrun, ?_⟩
  clear hrun
  have h2 : s2.meterTime = (s.meter.interval + 1, temp) := by
    have h1 : s1.meterTime = (s.meter.interval + 1, temp) := rfl
    clear_value s1
    simp only [s2, State.setF_meterTime, h1]
  clear_value s2
  have h3 : s3.meterTime = s2.meterTime :=
    ite_view State.meterTime ((State.fire_meterTime _ _).trans (s2.meterTime_of_clock (s2.auditInfo_clock _ _ _))) rfl
  clear_value s3
  have h4 : s4.meterTime = s3.meterTime := foldl_view State.meterTime (fun t p => t.measurePoint_meterTime fault p _) _ _
  clear_value s4
  have h6 : s6.meterTime = s4.meterTime := by simp only [s6, s5, State.setF_meterTime, State.on_meterTime]
  clear_value s6
  have h7 : s7.meterTime = s6.meterTime := s6.calAverage_meterTime fault samples
  have h8 : s8.meterTime = s7.meterTime := (State.takeRequest_meterTime _).trans s7.meterBoundary_meterTime
  have h9 : s9.meterTime = s8.meterTime := s8.meterTime_of_clock s8.flushMeter_clock
  clear_value s9
  have h10 : s10.meterTime = s9.meterTime := by
    unfold s10
    cases s9.meter.waiting with
    | none => rfl
    | some f => exact ite_view State.meterTime (s9.saveNow_meterTime f) rfl
  rw [h10, h9, h8, h7, h6, h4, h3, h2]

/-! ### Records and firmware -/

/-- The record that was built is published (R450). -/
def State.publishRecord (s : State) (b : List Byte) : State :=
  ((((List.range 256).foldl (fun s i => s.setF (Fld.MTR_REC i) (fieldAt b (4 * i) 4)) s).onMeter (fun m => { m with built := none })).setF
    Fld.MTR_REC_STAT (fieldAt b 0x18 4)).setF Fld.MTR_REC_REQ 1

theorem State.recordWord_canFire (s : State) (i v : Nat) (o : Occ) : (s.setF (Fld.MTR_REC i) v).io.canFire o = s.io.canFire o :=
  Io.canFire_setF _ _ _ (by simp only [Fld.MTR_REC, Reg.MTR_REC, Reg.CTL_VARIANT]; omega) (by simp only [Fld.MTR_REC, Reg.MTR_REC, Reg.CTL_BOOT]; omega)

theorem State.publishRecord_canFire (s : State) (b : List Byte) (o : Occ) : (s.publishRecord b).io.canFire o = s.io.canFire o := by
  unfold State.publishRecord
  rw [State.setF_io, Io.canFire_setF _ _ _ (by decide) (by decide), State.setF_io, Io.canFire_setF _ _ _ (by decide) (by decide), State.onMeter_io,
    foldl_view (fun t : State => t.io.canFire o) fun t i => t.recordWord_canFire i _ o]

/-- A register of a sparse file that no entry lists reads its reset value. -/
theorem Sparse.get_filter_of_not {α : Type} (d : Nat → α) (l : List (Nat × α)) {f : Nat × α → Bool} {a : Nat} (h : ∀ v, f (a, v) = false) :
    Sparse.get d (l.filter f) a = d a := by
  induction l with
  | nil => rfl
  | cons p t ih =>
    obtain ⟨k, v⟩ := p
    cases hf : f (k, v) with
    | false => rw [List.filter_cons_of_neg (by simp [hf]), ih]
    | true =>
      have hk : k ≠ a := by rintro rfl; simp [h v] at hf
      rw [List.filter_cons_of_pos hf]
      simpa [Sparse.get, hk] using ih

theorem State.clearMeterPage_getReg (s : State) {a : Nat} (h : a / 0x20000 = 14) : s.clearMeterPage.io.getReg a = regReset a :=
  Sparse.get_filter_of_not regReset s.io.regs fun v => by simp [h]

/-- A save that is due, with its waiting bytes written first (R444). -/
theorem State.energySave_run {s u : State} (hpower : s.io.meterUp = true) (hwrites : s.meterWrites = true) (hu : u = s.flushMeter) :
    (∀ f, u.meter.waiting = some f → exec .energySave s = .next (u.saveNow f)) ∧
      (u.meter.waiting = none → exec .energySave s = .next (if s.meter.saveS ≤ s.meter.sinceSave then u.saveNow false else u)) := by
  subst hu
  have hrun : exec .energySave s = execEnergySave s := rfl
  unfold execEnergySave at hrun
  rw [if_neg (by simp [hpower, hwrites])] at hrun
  refine ⟨fun f hf => ?_, fun hnone => ?_⟩
  · rw [hf] at hrun
    exact hrun
  · rw [hnone] at hrun
    exact hrun

/-- A read of MTR_REC_REQ that is 1 posts a request, and answers the host where the host reads (R450). -/
theorem State.recordRequest_run {s : State} {path : RegPath} (hopen : s.pathOpen path = true) (hmode : s.io.boot ≠ stUMBER)
    (hpresent : s.io.regPresent Reg.MTR_REC_REQ = true) (hpower : s.io.meterUp = true) (hreq : s.getF Fld.MTR_REC_REQ = 1) :
    exec (.recordRequestRead path) s = .next (if path = .bar0
      then ((s.setF Fld.MTR_REC_REQ 0).onMeter (fun m => { m with request := true })).emit (.barData (leBytes 4 1) false)
      else (s.setF Fld.MTR_REC_REQ 0).onMeter (fun m => { m with request := true })) := by
  have hread : s.pathRead path Reg.MTR_REC_REQ = ((s.setF Fld.MTR_REC_REQ 0).onMeter (fun m => { m with request := true }), some 1) := by
    unfold State.pathRead State.readReg State.recordRead
    rw [if_neg (by simp [hopen, hmode]), if_pos rfl, if_pos hpresent, if_neg (by simp [hpower])]
    dsimp only
    rw [if_pos hreq]
  have hrun : exec (.recordRequestRead path) s = execRecordRequestRead path s := rfl
  unfold execRecordRequestRead at hrun
  rw [hread] at hrun
  exact hrun

/-- A point that is seen stuck in the interval, and was not so in the one before, fires event 455 (R443). -/
theorem State.bitstreamStuck_run {s : State} {point : Nat} (hpower : s.io.meterUp = true) (hlt : point < 16) (hstuck : (s.mpoint point).stuck = false) :
    exec (.bitstreamStuck point) s = .next (if s.isF (Fld.MTR_POINT_STAT_STUCK point)
      then (s.setMpoint point (fun m => { m with stuck := true })).setF (Fld.MTR_POINT_STAT_STUCK point) 1
      else ((s.setMpoint point (fun m => { m with stuck := true })).setF (Fld.MTR_POINT_STAT_STUCK point) 1).on (·.fireObj 455 none (2 ^ point))) :=
  congrArg Host.Outcome.next (if_neg (by simp [hpower, hstuck, hlt]))

/-- A release of the pin ends an open session as ABORT does, and a pending seal closes (R447, R454). -/
theorem State.calEnRelease_run {s u : State} (hpower : s.io.meterUp = true) (hasserted : s.isF Fld.MTR_HEALTH_CAL_EN = true)
    (hu : u = if (s.setF Fld.MTR_HEALTH_CAL_EN 0).isF Fld.MTR_CAL_STAT_SESSION && !s.meter.closing then (s.setF Fld.MTR_HEALTH_CAL_EN 0).calAbort
      else s.setF Fld.MTR_HEALTH_CAL_EN 0) :
    exec .calEnRelease s = .next (if u.isF Fld.MTR_CAL_STAT_SEAL_PENDING
      then (((u.setF Fld.MTR_CAL_STAT_SEAL_PENDING 0).onMeter (fun m => { m with intact := true })).reportSeal).fire 450 else u) := by
  subst hu
  exact congrArg Host.Outcome.next (if_neg (by simp [hpower, hasserted]))

/-- The pin's flag leaves the fields of the other registers. -/
theorem State.isF_calEn (s : State) (v : Nat) {f : Field} (h : f.reg ≠ Reg.MTR_HEALTH) : (s.setF Fld.MTR_HEALTH_CAL_EN v).isF f = s.isF f := by
  unfold State.isF Io.isF
  rw [State.setF_io, Io.getF_setF_other _ _ h]

theorem State.calAbort_pending (s : State) : s.calAbort.isF Fld.MTR_CAL_STAT_SEAL_PENDING = s.isF Fld.MTR_CAL_STAT_SEAL_PENDING := by
  unfold State.calAbort State.isF Io.isF
  dsimp only
  rw [(State.fire_keeps (State.Keeps.refl _) (Sub.self _)).io.getF RegOf.MTR_CAL_STAT (by decide) (by decide +kernel),
    (State.auditInfo_keeps (State.Keeps.refl _) (Sub.self _)).io.getF RegOf.MTR_CAL_STAT (by decide) (by decide +kernel), State.setF_io,
    Io.getF_setF_ne _ _ (by decide), State.setF_io, Io.getF_setF_ne _ _ (by decide), State.setF_io, Io.getF_setF_ne _ _ (by decide), State.onMeter_io]

theorem State.getF_emit (s : State) (o : Out) (f : Field) : (s.emit o).getF f = s.getF f := rfl

theorem State.stuck_canFire (s : State) (p v : Nat) (o : Occ) : (s.setF (Fld.MTR_POINT_STAT_STUCK p) v).io.canFire o = s.io.canFire o :=
  Io.canFire_setF _ _ _ (by simp only [Fld.MTR_POINT_STAT_STUCK, Reg.MTR_POINT_STAT, Reg.CTL_VARIANT]; omega)
    (by simp only [Fld.MTR_POINT_STAT_STUCK, Reg.MTR_POINT_STAT, Reg.CTL_BOOT]; omega)

/-- Metering firmware of the staged image is installed in the other slot, or refused and logged (R458). -/
theorem State.activationNotice_run {s u : State} {st : Partition} {q : ManifestPart} {a : Nat} {body d : List Byte} (verified : Bool)
    (hpower : s.io.meterUp = true) (hcopying : s.upd = uCOPYING) (hreported : s.boot.meterReported = false) (hpart : s.partition 2 = some st)
    (hfind : (s.manifestParts (st.start + 0x1000)).find? (fun p => p.kind == 2 && p.target == s.io.part) = some q) (ha : a = st.start + q.off)
    (hbody : body = s.nvmRead a (q.len - 768)) (hd : d = sha512 (s.nvmRead a q.len))
    (hu : u = ((s.meterStore (if s.meter.slotB then 0x60000 else 0xB0000) (s.nvmRead a q.len)).saveEnergy false).audit 0x05 0 (sub d 0 32)) :
    exec (.meterActivationNotice verified) s = .next
      (if (meterKeyOk body (s.nvmRead (a + q.len - 752) 512) && decide (s.meter.otp ≤ Config.meterVersion body) && decide (2 ≤ s.logFree) && verified) = true
        then ((u.onMeter (fun m => { m with install := some (d, Config.meterVersion body) })).onBoot (fun b => { b with meterReported := true })).activationEnd
        else ((((s.auditInfo 0x06 0 (sub d 0 32)).setF Fld.MTR_HEALTH_FW_REFUSED 1).fire 463).onBoot (fun b => { b with meterReported := true })).activationEnd) := by
  subst ha hbody hd hu
  have hrun : exec (.meterActivationNotice verified) s = execMeterActivationNotice verified s := rfl
  unfold execMeterActivationNotice at hrun
  rw [if_neg (by simp [hpower, hcopying, hreported]), hpart] at hrun
  dsimp only at hrun
  rw [hfind] at hrun
  exact hrun

/-! ### The statement -/

/-- Settles O32: what a power-on and an interval leave of the clock, case by case, and the branches of the other commands. -/
theorem meteringDomain : Obligations.MeteringDomain := by
  refine ⟨fun s u hpower hwrites hu => ⟨fun f hf => ?_, fun hnone hdue => ?_, fun hnone hnot => ?_⟩,
    fun m b hA => ⟨fun hlt => ?_, fun hfull => ?_⟩, fun s hpower hnotice => ?_, fun s calEn temp hdown hfit => ?_, fun s hpower => ?_,
    fun s path hopen hmode hpresent hpower hreq => ?_, fun s b hpower hbuilt => ?_, fun s mclk samples temp hpower => ?_,
    fun s point hpower hlt hstuck => ?_, fun s st q a body d u hpower hcopying hreported hpart hfind ha hbody hd hu => ⟨?_, ?_⟩,
    fun s hpower hreleased => ?_, fun s hm hintact => ?_, fun s hpower hasserted => ⟨fun hsession hclosing hseal => ?_, fun hsession hseal => ?_⟩⟩
  · exact .intro ((State.energySave_run hpower hwrites hu).1 f hf) rfl
  · exact .intro ((State.energySave_run hpower hwrites hu).2 hnone) (if_pos hdue)
  · exact .intro ((State.energySave_run hpower hwrites hu).2 hnone) (if_neg (by omega))
  · simp [MeterState.save, hA, hlt]
  · simp [MeterState.save, hA, Nat.not_lt.mpr hfull]
  · exact .intro rfl (if_neg (by simp [hpower, hnotice]))
  · obtain ⟨hnone, hsome⟩ := State.meterPowerOn_eq calEn temp hdown hfit
    have hfinal : ∀ v : State, v.clock = (s.meterResumed temp).clock → (v.calEnAtPower calEn).clock =
        (true, (s.meter.resumed s.meter.newest temp).interval, temp, (s.meter.resumed s.meter.newest temp).recSeq) := fun v hv =>
      ((v.calEnAtPower_clock calEn).trans hv).trans (s.meterResumed_clock temp)
    simp only [State.clock, Prod.mk.injEq] at hfinal
    cases hlast : s.meter.newest with
    | none =>
      obtain ⟨hup, hinterval, htemp, hrec⟩ := hfinal _ ⟨rfl, rfl, rfl, rfl⟩
      rw [hlast] at hinterval hrec
      exact .intro (hnone hlast) ⟨hup, htemp, fun r hr => (nomatch hr), fun _ => ⟨hinterval, hrec⟩⟩
    | some r =>
      have haudit := ite_view State.clock (c := r.shutdown = true) (a := s.meterResumed temp) rfl
        ((State.fire_clock _ 464).trans ((s.meterResumed temp).auditInfo_clock 0x07 0 []))
      simp only [State.clock, Prod.mk.injEq] at haudit
      obtain ⟨hup, hinterval, htemp, hrec⟩ := hfinal _ haudit
      rw [hlast] at hinterval hrec
      exact .intro (hsome r hlast) ⟨hup, htemp, fun r' hr => by cases hr; exact ⟨hinterval, hrec⟩, fun h => (nomatch h)⟩
  · exact .intro (congrArg Host.Outcome.next (if_neg (by simp [hpower]))) ⟨rfl, rfl, fun a ha => State.clearMeterPage_getReg _ ha⟩
  · refine .intro (State.recordRequest_run hopen hmode hpresent hpower hreq) ⟨ite_view (fun t : State => t.meter.request) rfl rfl, ?_⟩
    have hzero : ((s.setF Fld.MTR_REC_REQ 0).onMeter (fun m => { m with request := true })).getF Fld.MTR_REC_REQ = 0 := by
      rw [State.getF_onMeter, State.getF_setF, Io.getF_setF_same _ _ _ (by decide)]; rfl
    exact ite_view (fun t : State => t.getF Fld.MTR_REC_REQ) ((State.getF_emit _ _ _).trans hzero) hzero
  · have hrun : exec .recordSigned s = execRecordSigned s := rfl
    unfold execRecordSigned at hrun
    rw [hbuilt] at hrun
    dsimp only at hrun
    rw [if_neg (by simp [hpower])] at hrun
    have hpub : exec .recordSigned s = .next ((s.publishRecord b).fire 459) := hrun
    refine .intro hpub ⟨?_, ?_, .of_fire (s.publishRecord_canFire b _)⟩
    · rw [State.fire_meter]; rfl
    · rw [State.getF_fire, Io.getF_fire _ _ (by decide)]
      exact Io.getF_setF_same _ _ _ (by decide)
  · obtain ⟨u, hrun, htime⟩ := State.meterInterval_eq mclk samples temp hpower
    refine .intro hrun ⟨?_, ?_, ?_, .of_fire ?_⟩
    · rw [State.fire_meter, State.onTherm_meter]
      exact congrArg Prod.fst htime
    · rw [State.fire_meter, State.onTherm_meter]
      exact congrArg Prod.snd htime
    · rw [State.fire_therm, State.onTherm_therm]
    · have hcan := ((execMeterInterval_keeps (State.Keeps.refl s) (Sub.self _)).next _ hrun).io.canFire (by decide +kernel) (by decide +kernel) { event := 448 }
      exact (Io.canFire_fire _ 448 _).symm.trans hcan
  · have hset : ((s.setMpoint point (fun m => { m with stuck := true })).setF (Fld.MTR_POINT_STAT_STUCK point) 1).getF (Fld.MTR_POINT_STAT_STUCK point) = 1 :=
      Io.getF_setF_same _ _ _ (by simp [Fld.MTR_POINT_STAT_STUCK])
    refine .intro (State.bitstreamStuck_run hpower hlt hstuck) ⟨?_, fun hfresh => ?_⟩
    · refine ite_view (fun t : State => t.getF (Fld.MTR_POINT_STAT_STUCK point)) hset ?_
      rw [State.getF_on, Io.getF_fireObj _ _ _ _ _ (eventReg_of_ge (by simp only [Fld.MTR_POINT_STAT_STUCK, Reg.MTR_POINT_STAT]; omega))]
      exact hset
    · rw [if_neg (Bool.eq_false_iff.mp hfresh)]
      intro hcan
      exact Io.fireObj_recorded _ _ _ _ _ ((State.stuck_canFire _ point 1 _).trans hcan)
  · have hrun := State.activationNotice_run true hpower hcopying hreported hpart hfind ha hbody hd hu
    refine .intro hrun ⟨fun ⟨hkey, hver, hlog⟩ => if_pos (by simp [hkey, hver, hlog]), fun hbad => if_neg fun h => hbad ?_⟩
    simpa [and_assoc] using h
  · have hrun := State.activationNotice_run false hpower hcopying hreported hpart hfind ha hbody hd hu
    exact .intro hrun (if_neg (by simp))
  · exact .intro rfl (if_neg (by simp [hpower, hreleased]))
  · obtain ⟨-, -, -, -, hbroken, hbreaks⟩ := MeterState.core_fields (State.breakSeal_of_intact hm hintact)
    exact ⟨hbroken, hbreaks⟩
  · have hsession' : (s.setF Fld.MTR_HEALTH_CAL_EN 0).isF Fld.MTR_CAL_STAT_SESSION = true := (s.isF_calEn 0 (by decide)).trans hsession
    refine .intro (State.calEnRelease_run (u := (s.setF Fld.MTR_HEALTH_CAL_EN 0).calAbort) hpower hasserted (if_pos (by simp [hsession', hclosing])).symm) ?_
    rw [State.calAbort_pending, s.isF_calEn 0 (by decide)]
    exact if_neg (Bool.eq_false_iff.mp hseal)
  · have hsession' : (s.setF Fld.MTR_HEALTH_CAL_EN 0).isF Fld.MTR_CAL_STAT_SESSION = false := (s.isF_calEn 0 (by decide)).trans hsession
    have hrun := State.calEnRelease_run (u := s.setF Fld.MTR_HEALTH_CAL_EN 0) hpower hasserted (if_neg (by simp [hsession'])).symm
    rw [s.isF_calEn 0 (by decide), if_pos hseal] at hrun
    refine .intro hrun ⟨?_, .of_fire ?_⟩
    · rw [State.fire_meter, (State.reportSeal_keeps (State.Keeps.refl _) (Sub.self _)).meter.eq (by decide +kernel), State.onMeter_meter]
    · rw [(State.reportSeal_keeps (State.Keeps.refl _) (Sub.self _)).io.canFire (by decide +kernel) (by decide +kernel), State.onMeter_io, State.setF_io,
        Io.canFire_setF _ _ _ (by decide) (by decide), State.setF_io, Io.canFire_setF _ _ _ (by decide) (by decide)]

end Sys2Proof.Machine
end

section
/-! The thermal model, its limits, and the shutdown, the trip and the restart that follow (R464 to R477). -/

set_option Elab.async false

namespace Sys2Proof.Machine

/-- Settles O35: the state of the power decides which branch a command takes. -/
theorem thermalAndShutdown : Obligations.ThermalAndShutdown := by
  refine ⟨fun s u v d0 d1 busy x hruns hv hu => ?_, fun s hpresent hfit hlo hhi => ?_, fun s hruns hpower => ?_, fun s path hacc => ?_,
    fun s hpower => .intro rfl (if_pos hpower), fun s hgood hpower => ⟨fun hshut => ?_, fun hshut => ?_⟩,
    fun s umberLow d0 d1 x hpower hgood => ⟨fun hauto => ?_, fun hauto => ?_⟩⟩
  · subst hv hu
    exact .intro rfl (if_neg (by simp [hruns]))
  · have hrun : exec .meteringStaleTimeout s = .next (((s.onTherm (fun t => { t with absent := true })).setF Fld.THM_STATE_CORE_METERED 0).fire 487) :=
      congrArg Host.Outcome.next (if_neg (by simp [hpresent, hfit, hlo, hhi]))
    refine .intro hrun ⟨?_, ?_, .of_fire ?_⟩
    · rw [State.fire_therm, State.setF_therm, State.onTherm_therm]
    · rw [State.getF_fire, Io.getF_fire _ _ (by decide)]
      exact Io.getF_setF_same _ _ _ (by decide)
    · rw [State.setF_io, Io.canFire_setF _ _ _ (by decide) (by decide), State.onTherm_io]
  · exact .intro rfl (if_neg (by simp [hruns, hpower]))
  · obtain ⟨r, hbase, hw⟩ := State.pathWrite_of_actsAs 1 hacc actsAs_THM_TEST (by decide)
    refine .intro rfl (hw.trans ?_)
    rw [State.performWrite_THM_TEST _ _ _ hbase]
    exact if_pos (by decide)
  · have hrun : exec .diodeTrip s = execDiodeTrip s := rfl
    unfold execDiodeTrip at hrun
    rw [if_neg (by simp [hgood, hpower])] at hrun
    dsimp only at hrun
    rw [if_pos hshut] at hrun
    exact .intro hrun rfl
  · have hrun : exec .diodeTrip s = execDiodeTrip s := rfl
    unfold execDiodeTrip at hrun
    rw [if_neg (by simp [hgood, hpower])] at hrun
    dsimp only at hrun
    rw [if_neg hshut] at hrun
    exact .intro hrun rfl
  · exact .intro rfl (if_neg (by simp [hpower, hgood, hauto]))
  · exact .intro rfl (if_pos (by simp [hpower, hgood, hauto]))

end Sys2Proof.Machine
end

section
/-! What the two units of a pair tell each other: announcements, comparison, the snapshot, the relay and the reunion (R305 to R319). -/

set_option Elab.async false

namespace Sys2Proof.Machine

/-! ### Comparison -/

theorem State.onPair_self {s : State} {f : PairUnit → PairUnit} (h : f s.pairUnit = s.pairUnit) : s.onPair f = s := by
  unfold State.onPair
  rw [h]

theorem PairUnit.early_self {u : PairUnit} (h : u.early = []) : { u with early := [] } = u := by
  cases u
  cases h
  rfl

/-- A fold whose step does one of two things throughout. -/
theorem foldl_ite {α β : Type} (c : Prop) [Decidable c] (f g : α → β → α) (l : List β) (a : α) :
    l.foldl (fun u e => if c then f u e else g u e) a = if c then l.foldl f a else l.foldl g a := by
  by_cases h : c
  · simp only [if_pos h]
  · simp only [if_neg h]

/-- With no segment that came early, the frame's open segments are excused or missing (R311). -/
theorem State.comparisonDeadline_of_quiet {s : State} {chain frame : Nat} (hcmp : s.compares = true) (hchain : s.comparesChain chain frame = true)
    (hearly : s.pairUnit.early = []) (hframe : frame ≤ s.io.tick) :
    s.comparisonDeadline chain frame = if s.pairUnit.excuseOld.contains chain || !s.portUp chain
      then (s.openSegments chain frame).foldl (fun u e => u.excused e) s else (s.openSegments chain frame).foldl (fun u e => u.mismatch e 2) s := by
  unfold State.comparisonDeadline
  rw [if_neg (by simp [hcmp, hchain]), hearly, show ∀ f : Seen → Bool, List.partition f [] = ([], []) from fun _ => rfl]
  dsimp only
  rw [List.foldl_nil, State.onPair_self (PairUnit.early_self hearly), if_pos hframe, foldl_ite]

/-! ### Packets that are taken -/

section
variable {s u : State} {payload b : List Byte} (htake : s.takePair payload = (u, some b))
include htake

theorem State.helloReceived_run (hpaired : u.paired = true) : exec (.helloReceived payload) s = .next (u.notePartner b).actOnHello := by
  have hrun : exec (.helloReceived payload) s = execHelloReceived payload s := rfl
  unfold execHelloReceived at hrun
  rw [htake] at hrun
  exact hrun.trans (congrArg Host.Outcome.next (if_pos hpaired))

theorem State.commitAnnReceived_run (hcmp : u.compares = true) : exec (.commitAnnReceived payload) s = .next (u.takeCommit b) := by
  have hrun : exec (.commitAnnReceived payload) s = execCommitAnnReceived payload s := rfl
  unfold execCommitAnnReceived at hrun
  rw [htake] at hrun
  exact hrun.trans (congrArg Host.Outcome.next (if_pos hcmp))

theorem State.keyAnnReceived_run (hcmp : u.compares = true) : exec (.keyAnnReceived payload) s = .next
    (u.acceptKeys (bits (fieldAt b 8 8) 6 4) (bits (fieldAt b 8 8) 0 6) (fieldAt b 0 6) (bits (fieldAt b 8 8) 10 12) (bits (fieldAt b 8 8) 22 12)) := by
  have hrun : exec (.keyAnnReceived payload) s = execKeyAnnReceived payload s := rfl
  unfold execKeyAnnReceived at hrun
  rw [htake] at hrun
  exact hrun.trans (congrArg Host.Outcome.next (if_pos hcmp))

theorem State.cycleAnnReceived_run (hcmp : u.compares = true) :
    exec (.cycleAnnReceived payload) s = .next (u.onVideo (fun v => { v with cycle := some (fieldAt b 0 6) })) := by
  have hrun : exec (.cycleAnnReceived payload) s = execCycleAnnReceived payload s := rfl
  unfold execCycleAnnReceived at hrun
  rw [htake] at hrun
  exact hrun.trans (congrArg Host.Outcome.next (if_pos hcmp))

/-- A snapshot that a joining unit takes from a partner of its own wall is applied where it is whole and sound (R319). -/
theorem State.snapshotReceived_run {p : Partner} (hjoin : u.pair = pJOINING) (hpartner : u.pairUnit.partner = some p) (hown : p.foreign = false) :
    exec (.snapshotReceived payload) s = .next
      (if [1, 2, 6, 7].all (fun t => (snapOf (snapBlocks b.length (b.drop 8)) t).isSome) && (snapBlocks b.length (b.drop 8)).all blockSound
        then (u.joinPhase 1).applySnapshot (snapBlocks b.length (b.drop 8)) else u.joinPhase 0) := by
  have hrun : exec (.snapshotReceived payload) s = execSnapshotReceived payload s := rfl
  unfold execSnapshotReceived at hrun
  rw [htake] at hrun
  dsimp only at hrun
  rw [hpartner] at hrun
  dsimp only at hrun
  rw [if_neg (by simp [hjoin, hown])] at hrun
  exact hrun

theorem State.relayReceived_run : exec (.relayReceived payload) s = .next (if u.pair = pACTIVE then u.relayedCell (fieldAt b 0 1) (b.drop 4)
    else if pJOINING ≤ u.pair then u.relayedBulk (fieldAt b 0 1) (b.drop 4) else u) := by
  have hrun : exec (.relayReceived payload) s = execRelayReceived payload s := rfl
  unfold execRelayReceived at hrun
  rw [htake] at hrun
  exact hrun

theorem State.reuniteReceived_run (hjoin : pJOINING ≤ u.pair) :
    exec (.reuniteReceived payload) s = .next (u.onPair (fun x => { x with reunite := (fieldAt b 0 1, fieldAt b 2 6) :: x.reunite })) := by
  have hrun : exec (.reuniteReceived payload) s = execReuniteReceived payload s := rfl
  unfold execReuniteReceived at hrun
  rw [htake] at hrun
  exact hrun.trans (congrArg Host.Outcome.next (if_pos hjoin))

end

/-! ### Reunion -/

/-- Sending a packet to the partner leaves the reunions that were agreed. -/
theorem State.sendPair_reunite (s : State) (ptype : Nat) (body : List Byte) : (s.sendPair ptype body).pairUnit.reunite = s.pairUnit.reunite := by
  unfold State.sendPair
  split
  · rfl
  · dsimp only
    rw [State.emit_pairUnit, State.onPair_pairUnit]

/-- The poll of a chain that is split: the good reads in a row, and at the second the tick of the reunion (R316). -/
theorem State.reunitePoll_run {s v : State} {chain n : Nat} (up : Bool) (hactive : s.pair = pACTIVE) (hauto : s.isF Fld.PAIR_CFG_AUTO_REUNITE = true)
    (hsplit : s.pairUnit.splitChains.contains chain = true) (hfree : s.pairUnit.reunite.any (·.1 == chain) = false)
    (hn : n = ((s.pairUnit.goodReads.find? (·.1 == chain)).map (·.2)).getD 0)
    (hv : v = s.onPair (fun u => { u with goodReads := (chain, if up then n + 1 else 0) :: u.goodReads.filter (·.1 != chain) })) :
    exec (.reunitePoll chain up) s = .next (if up ∧ 2 ≤ n + 1
      then (v.sendPair 0x1A (leBytes 1 chain ++ zeros 1 ++ leBytes 6 (v.io.tick + 8))).onPair
        (fun u => { u with goodReads := u.goodReads.filter (·.1 != chain), reunite := (chain, v.io.tick + 8) :: u.reunite })
      else v) := by
  subst hn hv
  exact congrArg Host.Outcome.next (if_neg (by simp [hactive, hauto, hsplit, hfree, -List.contains_eq_mem]))

/-! ### The statement -/

/-- Settles O36: each packet that is taken has one branch left, and the deadline and the poll are settled by what they count. -/
theorem pairExchange : Obligations.PairExchange := by
  refine ⟨fun s chain frame hcmp hchain hearly hframe => ⟨fun hfree => ?_, fun hexcuse hport => ?_⟩, fun s hpaired => .intro rfl (if_neg (by simp [hpaired])),
    fun s u payload b htake hpaired => .intro (State.helloReceived_run htake hpaired) rfl,
    fun s u payload b htake hcmp => .intro (State.commitAnnReceived_run htake hcmp) rfl, fun s u payload b w htake hcmp hw => ?_,
    fun s u payload b htake hcmp => .intro (State.cycleAnnReceived_run htake hcmp) rfl, fun s hcmp => .intro rfl (if_pos hcmp),
    fun s u payload b p htake hjoin hpartner hown => ⟨fun hsound => ?_, fun hbad => ?_⟩, fun s u payload b htake => ⟨fun hactive => ?_, fun hnot hjoin => ?_⟩,
    fun s chain n hactive hauto hsplit hfree hn => ⟨?_, fun hzero => ?_, fun hone => ?_⟩,
    fun s u payload b htake hjoin => .intro (State.reuniteReceived_run htake hjoin) rfl⟩
  · refine .intro rfl ((State.comparisonDeadline_of_quiet hcmp hchain hearly hframe).trans (if_pos ?_))
    rcases hfree with h | h
    · rw [h, Bool.true_or]
    · rw [h, Bool.not_false, Bool.or_true]
  · exact .intro rfl ((State.comparisonDeadline_of_quiet hcmp hchain hearly hframe).trans (if_neg (by rw [hexcuse, hport]; decide)))
  · subst hw
    exact .intro (State.keyAnnReceived_run htake hcmp) rfl
  · exact .intro (State.snapshotReceived_run htake hjoin hpartner hown) (if_pos hsound)
  · exact .intro (State.snapshotReceived_run htake hjoin hpartner hown) (if_neg (Bool.eq_false_iff.mp hbad))
  · exact .intro (State.relayReceived_run htake) (if_pos hactive)
  · exact .intro (State.relayReceived_run htake) ((if_neg hnot).trans (if_pos hjoin))
  · refine .intro (State.reunitePoll_run false hactive hauto hsplit hfree hn rfl) ?_
    rw [if_neg (by simp), State.onPair_pairUnit]; rfl
  · refine .intro (State.reunitePoll_run true hactive hauto hsplit hfree hn rfl) ?_
    rw [if_neg (by omega), hzero, State.onPair_pairUnit]; rfl
  · refine .intro (State.reunitePoll_run true hactive hauto hsplit hfree hn rfl) ?_
    rw [if_pos ⟨rfl, by omega⟩, State.onPair_pairUnit, State.sendPair_reunite, State.onPair_pairUnit, State.onPair_io]

end Sys2Proof.Machine
end

section
/-! Packets of the pair port, depose, handover and takeover (R304 to R325). -/

set_option Elab.async false

namespace Sys2Proof.Machine

/-- An acknowledgement of a packet that waits for one and deposes nobody: where it is the snapshot's, the partner is in lockstep (R304, R308). -/
theorem State.pairAckReceived_run {s u : State} {payload : List Byte} (hlink : s.pairLink = true)
    (hknown : s.pairUnit.sent.any (·.pseq == fieldAt payload 4 4) = true)
    (hu : u = s.onPair (fun v => { v with sent := v.sent.filter (·.pseq != fieldAt payload 4 4) })) (hdepose : s.pairUnit.deposeSeq ≠ some (fieldAt payload 4 4)) :
    exec (.pairAckReceived payload) s = .next (if s.pairUnit.snapshotSeq = some (fieldAt payload 4 4) ∧ s.pair = pACTIVE
      then u.onPair (fun v => { v with snapshotSeq := none, lockstep := true, gotRead := false, readDone := s.io.tick }) else u) := by
  subst hu
  have hrun : exec (.pairAckReceived payload) s = execPairAckReceived payload s := rfl
  unfold execPairAckReceived at hrun
  rw [if_neg (by simp [hlink])] at hrun
  dsimp only at hrun
  rw [if_neg (by simp [hknown]), State.onPair_pairUnit, if_neg hdepose] at hrun
  exact hrun

section
variable {s u : State} {payload b : List Byte} (htake : s.takePair payload = (u, some b))
include htake

/-- What the partner has read: all of it, and lockstep ends, or up to a tick (R308). -/
theorem State.readDoneReceived_run (hactive : u.pair = pACTIVE) :
    exec (.readDoneReceived payload) s = .next (if fieldAt b 0 6 = 2 ^ 48 - 1 then u.onPair (fun x => { x with lockstep := false })
      else u.onPair (fun x => { x with readDone := fieldAt b 0 6, gotRead := true })) := by
  have hrun : exec (.readDoneReceived payload) s = execReadDoneReceived payload s := rfl
  unfold execReadDoneReceived at hrun
  rw [htake] at hrun
  dsimp only at hrun
  rw [if_neg (by simp [hactive])] at hrun
  exact hrun

theorem State.deposeReceived_run (hactive : u.pair = pACTIVE) (hkind : fieldAt b 4 1 < 2) : exec (.deposeReceived payload) s = .next (u.standDown.fire 292) := by
  have hrun : exec (.deposeReceived payload) s = execDeposeReceived payload s := rfl
  unfold execDeposeReceived at hrun
  rw [htake] at hrun
  exact hrun.trans (congrArg Host.Outcome.next (if_pos ⟨hactive, hkind⟩))

/-- The meaning of a handover, by its kind (R313). -/
theorem State.handoverReceived_run :
    (fieldAt b 6 1 = 0 → u.pair = pARMED → exec (.handoverReceived payload) s = .next (u.onPair (fun x => { x with takeAt := some (fieldAt b 0 6) }))) ∧
    (fieldAt b 6 1 = 1 → u.pair = pJOINING → u.isF Fld.PAIR_STATE_FOREIGN = true →
      exec (.handoverReceived payload) s = .next (u.onPair (fun x => { x with takeAt := some (fieldAt b 0 6) }))) ∧
    (fieldAt b 6 1 = 2 → u.pair = pARMED → u.pairUnit.trigger = none →
      exec (.handoverReceived payload) s = .next (u.onPair (fun x => { x with trigger := some u.io.now }))) ∧
    (3 ≤ fieldAt b 6 1 → exec (.handoverReceived payload) s = .next u) := by
  have hrun : exec (.handoverReceived payload) s = execHandoverReceived payload s := rfl
  unfold execHandoverReceived at hrun
  rw [htake] at hrun
  dsimp only at hrun
  refine ⟨fun hkind harmed => ?_, fun hkind hjoin hforeign => ?_, fun hkind harmed htrigger => ?_, fun hkind => ?_⟩
  · rw [hkind] at hrun
    exact hrun.trans (congrArg Host.Outcome.next (if_pos harmed))
  · rw [hkind] at hrun
    exact hrun.trans (congrArg Host.Outcome.next (if_pos ⟨hjoin, hforeign⟩))
  · rw [hkind] at hrun
    exact hrun.trans (congrArg Host.Outcome.next (if_pos ⟨harmed, htrigger⟩))
  · obtain ⟨k, hk⟩ := Nat.exists_eq_add_of_le' hkind
    rw [hk] at hrun
    exact hrun

end

/-- A packet that is not acknowledged is sent again, and after its third repeat the pair port is lost (R304). -/
theorem State.pairPacketTimeout_run {s : State} {pseq : Nat} {p : PairSent} (hsent : s.pairUnit.sent.find? (·.pseq == pseq) = some p) :
    exec (.pairPacketTimeout pseq) s = .next (if 3 ≤ p.repeats then s.pairLost
      else (s.onPair (fun u => { u with sent := u.sent.map (fun x => if x.pseq = pseq then { x with repeats := x.repeats + 1 } else x) })).emit
        (.pair p.ptype p.payload)) := by
  have hrun : exec (.pairPacketTimeout pseq) s = execPairPacketTimeout pseq s := rfl
  unfold execPairPacketTimeout at hrun
  rw [hsent] at hrun
  exact hrun

/-- Settles O37: each packet that is taken, each timeout and each test has one branch left. -/
theorem pairTransport : Obligations.PairTransport := by
  refine ⟨fun s u payload hlink hknown hu => ⟨fun hdepose hsnap => ?_, fun hdepose hsnap hactive => ?_⟩, fun s pseq p hsent => ⟨fun hmax => ?_, fun hless => ?_⟩,
    fun s ptype hlink hreserved => ?_, fun s hdepose => ?_, fun s u payload b htake hactive => ⟨fun hall => ?_, fun hpart => ?_⟩,
    fun s u payload b htake hactive hkind => .intro (State.deposeReceived_run htake hactive hkind) rfl, fun s u payload b htake => ?_,
    fun s hsuspect hage htries => ?_, fun s hpaired hjoin hboot hlink => ?_, fun s path hacc => ?_, fun s path hacc => ?_⟩
  · exact .intro (State.pairAckReceived_run hlink hknown hu hdepose) (if_neg fun h => hsnap h.1)
  · exact .intro (State.pairAckReceived_run hlink hknown hu hdepose) (if_pos ⟨hsnap, hactive⟩)
  · exact .intro (State.pairPacketTimeout_run hsent) (if_pos hmax)
  · have hrun := State.pairPacketTimeout_run hsent
    rw [if_neg (by omega)] at hrun
    exact .intro hrun ⟨rfl, rfl⟩
  · have hrun : exec (.pairPacketReserved ptype) s = .next (s.bumpF Fld.PAIR_PKT_UNKNOWN) := congrArg Host.Outcome.next (if_pos ⟨hlink, hreserved⟩)
    exact .intro hrun (Io.getF_bumpF_same s.io Fld.PAIR_PKT_UNKNOWN 1 (by decide))
  · exact .intro rfl (if_pos hdepose)
  · have hrun := State.readDoneReceived_run htake hactive
    rw [if_pos hall] at hrun
    exact .intro hrun rfl
  · have hrun := State.readDoneReceived_run htake hactive
    rw [if_neg hpart] at hrun
    exact .intro hrun ⟨rfl, rfl⟩
  · obtain ⟨htakeover, hforeign, htrigger, hother⟩ := State.handoverReceived_run htake
    exact ⟨fun hkind harmed => .intro (htakeover hkind harmed) rfl, fun hkind hjoin hf => .intro (hforeign hkind hjoin hf) rfl,
      fun hkind harmed hnone => .intro (htrigger hkind harmed hnone) rfl, fun hkind => .intro (hother hkind) rfl⟩
  · exact .intro rfl (if_pos ⟨hsuspect, hage, htries⟩)
  · exact .intro rfl (if_pos ⟨hpaired, hjoin, hboot, by rw [hlink]; rfl⟩)
  · obtain ⟨r, hbase, hw⟩ := State.pathWrite_of_actsAs 1 hacc actsAs_PAIR_TEST (by decide)
    exact .intro rfl (hw.trans (State.performWrite_PAIR_TEST _ _ _ hbase))
  · obtain ⟨r, hbase, hw⟩ := State.pathWrite_of_actsAs 2 hacc actsAs_PAIR_TEST (by decide)
    exact .intro rfl (hw.trans (State.performWrite_PAIR_TEST _ _ _ hbase))

end Sys2Proof.Machine
end

section
/-! The host port: the link, the resets of the function, configuration space and errors (R103 to R124). -/

set_option Elab.async false

namespace Sys2Proof.Machine

theorem State.onHost_io (s : State) (f : HostState → HostState) : (s.onHost f).io = s.io := rfl

theorem State.dropHost_served (s : State) : s.dropHost.host.served = [] := rfl

/-- A link that trains does so at a speed and a width that its fields hold. -/
theorem Io.trains_bounds {s : Io} {speed width : Nat} (h : s.trains speed width = true) : speed % 2 ^ 4 = speed ∧ width % 2 ^ 5 = width := by
  simp only [Io.trains, Bool.and_eq_true, decide_eq_true_eq, List.contains_cons, List.contains_nil, Bool.or_eq_true, beq_iff_eq,
    Bool.false_eq_true, or_false] at h
  obtain ⟨⟨-, hspeed, -⟩, hwidth⟩ := h
  constructor <;> omega

/-- The speed and the width of the link, once written, read back. -/
theorem Io.getF_link {s : Io} {speed width : Nat} (h : s.trains speed width = true) (u : Io) :
    ((u.setF Fld.HRG_LINK_SPEED speed).setF Fld.HRG_LINK_WIDTH width).getF Fld.HRG_LINK_SPEED = speed ∧
      ((u.setF Fld.HRG_LINK_SPEED speed).setF Fld.HRG_LINK_WIDTH width).getF Fld.HRG_LINK_WIDTH = width := by
  obtain ⟨hspeed, hwidth⟩ := Io.trains_bounds h
  constructor
  · rw [Io.getF_setF_ne _ _ (by decide), Io.getF_setF_same _ _ _ (by decide)]; exact hspeed
  · rw [Io.getF_setF_same _ _ _ (by decide)]; exact hwidth

theorem Io.canFire_link (u : Io) (speed width : Nat) (o : Occ) :
    ((u.setF Fld.HRG_LINK_SPEED speed).setF Fld.HRG_LINK_WIDTH width).canFire o = u.canFire o := by
  rw [Io.canFire_setF _ _ _ (by decide) (by decide), Io.canFire_setF _ _ _ (by decide) (by decide)]

theorem Io.fire_linkUp (s : Io) (e : Nat) : (s.fire e).linkUp = s.linkUp :=
  (Io.fire_keeps (Io.Keeps.refl s) (Sub.self _)).linkUp.eq (by decide +kernel)

/-- Settles O38: the link or the host stands, so each command takes its second branch. -/
theorem hostPort : Obligations.HostPort := by
  refine ⟨fun s speed width hhost hdown htrain => ?_, fun s hup => ?_, fun s hhost => ?_, fun s hhost => ?_, fun s hhost => ?_, fun s hd3 => ?_,
    fun s hhost => ?_, fun s speed width hup htrain hnew => ?_, fun s hhost => ?_, fun s hhost => .intro rfl (if_pos hhost)⟩
  · have hrun : exec (.pcieLinkUp speed width) s =
        .next (s.on fun io => (({ io with linkUp := true }.setF Fld.HRG_LINK_SPEED speed).setF Fld.HRG_LINK_WIDTH width).fire 64) :=
      congrArg Host.Outcome.next (State.on_congr (if_neg (by simp [hhost, hdown, htrain])))
    obtain ⟨hspeed, hwidth⟩ := Io.getF_link htrain { s.io with linkUp := true }
    refine .intro hrun ⟨?_, ?_, ?_, fun hcan => Io.fire_recorded _ 64 ?_⟩
    · rw [State.on_io, Io.fire_linkUp]; rfl
    · rw [State.getF_on, Io.getF_fire _ _ (by decide)]; exact hspeed
    · rw [State.getF_on, Io.getF_fire _ _ (by decide)]; exact hwidth
    · exact (Io.canFire_link _ speed width _).trans ((Io.canFire_regs (s := s.io) rfl _).trans hcan)
  · exact .intro rfl ⟨if_pos hup, if_neg (by simp [hup]), State.dropHost_served _⟩
  · exact .intro rfl ⟨if_pos hhost, if_pos hhost, State.dropHost_served _⟩
  · exact .intro rfl ⟨if_pos hhost, if_pos hhost, State.dropHost_served _⟩
  · exact .intro rfl (State.on_congr (if_pos hhost))
  · exact .intro rfl ⟨if_pos hd3, if_pos hd3, State.dropHost_served _⟩
  · have hno : ¬(!s.io.hasHost) = true := by simp [hhost]
    exact ⟨fun us hok => .intro rfl ((if_neg hno).trans (if_pos hok)), fun us hbad => .intro rfl ((if_neg hno).trans (if_neg (Bool.eq_false_iff.mp hbad))),
      fun en => .intro rfl (if_neg hno), fun n hok => .intro rfl ((if_neg hno).trans (if_pos hok)),
      fun n hbad => .intro rfl ((if_neg hno).trans (if_neg (Bool.eq_false_iff.mp hbad))), fun bar v hbar => .intro rfl ((if_neg hno).trans (if_neg hbar)),
      fun off v => .intro rfl (if_neg hno), fun off => .intro rfl (if_neg hno), .intro rfl (if_neg hno), .intro rfl (if_neg hno)⟩
  · have hrun : exec (.pcieLinkSpeedChange speed width) s =
        .next (s.on fun io => ((io.setF Fld.HRG_LINK_SPEED speed).setF Fld.HRG_LINK_WIDTH width).fire 75) :=
      congrArg Host.Outcome.next (if_pos (by simpa [hup, htrain, Decidable.imp_iff_not_or] using hnew))
    obtain ⟨hspeed, hwidth⟩ := Io.getF_link htrain s.io
    refine .intro hrun ⟨?_, ?_, ?_, fun hcan => Io.fire_recorded _ 75 ?_⟩
    · rw [State.on_io, Io.fire_linkUp]; exact hup
    · rw [State.getF_on, Io.getF_fire _ _ (by decide)]; exact hspeed
    · rw [State.getF_on, Io.getF_fire _ _ (by decide)]; exact hwidth
    · exact (Io.canFire_link _ speed width _).trans hcan
  · have hrun : exec .pcieCorrectableError s = .next ((s.onHost (fun h => { h with aerCor := putBits h.aerCor 0 1 1 })).fire 73) :=
      congrArg Host.Outcome.next (if_pos hhost)
    exact .intro hrun ⟨rfl, .of_fire (by rw [State.onHost_io])⟩

end Sys2Proof.Machine
end

section
/-! The host's transactions: BAR2, doorbells, vectors and operations that end (R107, R120, R122, R136). -/

set_option Elab.async false

namespace Sys2Proof.Machine

/-! ### BAR2 -/

theorem State.on_on (s : State) (f g : Io → Io) : (s.on f).on g = s.on (fun io => g (f io)) := rfl

theorem State.emit_fire (s : State) (o : Out) (e : Nat) : (s.emit o).fire e = s.on (fun io => (io.emit o).fire e) :=
  State.on_on s (·.emit o) (·.fire e)

/-- An access that is taken joins those under way, and begins where there is none (R107). -/
def Io.bar2Take (s : Io) (a : Bar2Access) : Io :=
  (if s.bar2 = [] then ({ s with bar2 := [a] } : Io).bar2Issue a else { s with bar2 := s.bar2 ++ [a] }).bar2Run

/-- An access in D0, before a host that operates: what turns it away, and what takes it (R104, R107). -/
theorem Io.bar2Access_eq {s : Io} (write : Bool) (addr len : Nat) (bs : List Byte) (bad : Bool) (hhost : s.hasHost = true) (hd0 : s.d3hot = false)
    (hop : s.operational = true) :
    s.bar2Access write addr len bs bad = if write && s.beyond addr bs.length then s.fire 70
      else if write && bad then s.fire 72
      else if !write && s.beyond addr len then (s.emit .barUR).fire 70
      else s.bar2Take { write := write, addr := addr, len := len, bytes := bs, bad := bad } := by
  have htake : ∀ a : Bar2Access, (if s.bar2.isEmpty then ({ s with bar2 := s.bar2 ++ [a] } : Io).bar2Issue a else { s with bar2 := s.bar2 ++ [a] }).bar2Run =
      s.bar2Take a := fun a => by
    unfold Io.bar2Take
    by_cases h : s.bar2 = []
    · rw [if_pos h, if_pos (by rw [h]; rfl), h, List.nil_append]
    · rw [if_neg h, if_neg (by simpa using h)]
  unfold Io.bar2Access
  rw [if_neg (by simp [hhost]), if_neg (by simp [hd0]), if_neg (by simp [hop])]
  dsimp only
  rw [htake]

/-! ### Doorbells -/

section
variable {s : Io} {n v : Nat} (hhost : s.hasHost = true) (hd0 : s.d3hot = false) (hop : s.operational = true)
include hhost hd0 hop

/-- A doorbell of 4 bytes in D0, before a host that operates, moves the tail of its ring. -/
theorem Io.doorbell_tail (hoff : 8 * n < 2 ^ 19) (hv : v < 2 ^ 32) : s.doorbell (8 * n) 4 v = Io.countIgnored (s.doorbellTail n v) := by
  unfold Io.doorbell
  rw [if_neg (by simp [hhost, hd0]), if_neg (by simp [hop]), if_neg (by omega)]
  dsimp only
  rw [if_neg (by omega), if_pos ⟨rfl, by omega⟩, Nat.mul_div_cancel_left n (by decide), Nat.mod_eq_of_lt hv]

/-- The other half of the doorbell moves the head. -/
theorem Io.doorbell_head (hoff : 8 * n < 2 ^ 19) (hv : v < 2 ^ 32) : s.doorbell (8 * n + 4) 4 v = Io.countIgnored (s.doorbellHead n v) := by
  unfold Io.doorbell
  rw [if_neg (by simp [hhost, hd0]), if_neg (by simp [hop]), if_neg (by omega)]
  dsimp only
  rw [if_neg (by omega), if_neg (by omega), if_pos ⟨rfl, by omega⟩, show (8 * n + 4) / 8 = n by omega, Nat.mod_eq_of_lt hv]

/-- A doorbell of 8 bytes moves both, and counts once what it ignores. -/
theorem Io.doorbell_both {a b : Io} {x w : Nat} {i j : Bool} (hoff : 8 * n < 2 ^ 19) (hx : x % 2 ^ 32 = v) (hx' : x / 2 ^ 32 % 2 ^ 32 = w)
    (ha : s.doorbellTail n v = (a, i)) (hb : a.doorbellHead n w = (b, j)) : s.doorbell (8 * n) 8 x = Io.countIgnored (b, i || j) := by
  unfold Io.doorbell
  rw [if_neg (by simp [hhost, hd0]), if_neg (by simp [hop]), if_neg (by omega)]
  dsimp only
  rw [if_pos ⟨rfl, by omega⟩, Nat.mul_div_cancel_left n (by decide), hx, hx', ha]
  dsimp only
  rw [hb]

end

theorem Io.countIgnored_taken (s : Io) : Io.countIgnored (s, false) = s := if_neg Bool.false_ne_true
theorem Io.countIgnored_ignored (s : Io) : Io.countIgnored (s, true) = s.ignoreDoorbell := if_pos rfl

theorem Io.doorbellTail_taken {s : Io} {n v : Nat} (hstate : (s.ring n).state = 1) (hlive : (s.ring n).destroying = none) (hnew : v ≠ (s.ring n).sqTail)
    (hfit : idxDiff v (s.ring n).sqHead ≤ 2 ^ (s.ring n).sqLog2) : s.doorbellTail n v = (s.setRing n { s.ring n with sqTail := v }, false) := by
  have hopen : ¬((s.ring n).state ≠ 1 ∨ (s.ring n).destroying.isSome = true) := by simp [hstate, hlive]
  unfold Io.doorbellTail
  dsimp only
  rw [if_neg hopen, if_neg hnew, if_neg (not_lt.mpr hfit)]

theorem Io.doorbellTail_ignored {s : Io} {n v : Nat} (hstate : (s.ring n).state = 0) : s.doorbellTail n v = (s, true) := by
  unfold Io.doorbellTail
  exact if_pos (.inl (by omega))

theorem Io.doorbellHead_taken {s : Io} {n v : Nat} (hstate : (s.ring n).state ≠ 0) (hlive : (s.ring n).destroying = none)
    (hfit : idxDiff v (s.ring n).cqHead ≤ idxDiff (s.ring n).cqTail (s.ring n).cqHead) :
    s.doorbellHead n v = (s.setRing n { s.ring n with cqHead := v }, false) := by
  unfold Io.doorbellHead
  dsimp only
  rw [if_neg (by simp [hstate, hlive]), if_neg (Nat.not_lt.mpr hfit)]

theorem State.doorbellWrite_run (s : State) (off size v : Nat) : exec (.doorbellWrite off size v false) s = .next (s.on (·.doorbell off size v)) :=
  congrArg Host.Outcome.next (State.on_congr (if_neg (by decide)))

theorem State.doorbellRead_run (s : State) (off size v : Nat) : exec (.doorbellWrite off size v true) s = .next (s.on (·.doorbellRead off size)) :=
  congrArg Host.Outcome.next (State.on_congr (if_pos rfl))

theorem length_leBytes (n v : Nat) : (leBytes n v).length = n := by
  induction n generalizing v with
  | zero => rfl
  | succ n ih => rw [leBytes, List.length_cons, ih]

/-- The bytes of a list read one by one. -/
theorem map_getD_range {α : Type} (l : List α) (d : α) {n : Nat} (h : l.length = n) : (List.range n).map (fun i => l.getD i d) = l := by
  subst h
  refine List.ext_getElem (by simp) fun i h1 h2 => ?_
  rw [List.getElem_map, List.getElem_range, List.getD_eq_getElem _ _ h2]

/-- A read of a ring's doorbell answers its tail and its head (R120). -/
theorem Io.doorbellRead_ring {s : Io} (n : Nat) (hhost : s.hasHost = true) (hd0 : s.d3hot = false) :
    s.doorbellRead (8 * n) 8 = s.emit (.barData (leBytes 4 (s.ring n).sqTail ++ leBytes 4 (s.ring n).cqHead) false) := by
  have hword : (List.range 8).map (fun i => (leBytes 4 (s.ring ((8 * n + i) / 8)).sqTail ++ leBytes 4 (s.ring ((8 * n + i) / 8)).cqHead).getD ((8 * n + i) % 8) 0) =
      leBytes 4 (s.ring n).sqTail ++ leBytes 4 (s.ring n).cqHead := by
    refine (List.map_congr_left fun i hi => ?_).trans (map_getD_range _ 0 (n := 8) (by rw [List.length_append, length_leBytes, length_leBytes]))
    have hlt : i < 8 := List.mem_range.mp hi
    rw [show (8 * n + i) / 8 = n by omega, show (8 * n + i) % 8 = i by omega]
  unfold Io.doorbellRead
  rw [if_neg (by simp [hhost]), if_neg (by simp [hd0])]
  dsimp only
  rw [hword]

/-! ### Vectors -/

/-- The state of a vector once it is unmasked and its pending message taken (R122). -/
theorem Io.msixUnmask_eq {s : Io} {v : Nat} (hhost : s.hasHost = true) (hv : v < 512) :
    s.msixUnmask v = if bit ((s.setF (Fld.HRG_MSIX_CTL v) 0).getReg (Reg.HRG_MSIX_PBA (v / 32))).toNat (v % 32) then
      ((s.setF (Fld.HRG_MSIX_CTL v) 0).setReg (Reg.HRG_MSIX_PBA (v / 32))
        (BitVec.ofNat 32 (putBits ((s.setF (Fld.HRG_MSIX_CTL v) 0).getReg (Reg.HRG_MSIX_PBA (v / 32))).toNat (v % 32) 1 0))).message v
      else s.setF (Fld.HRG_MSIX_CTL v) 0 :=
  if_neg (by simp [hhost, hv])

section
variable (s : Io) (v : Nat) (w : BitVec 32)

/-- The other registers of a vector stand while its mask is cleared and its pending bit written. -/
theorem Io.getF_unmasked {f : Field} (hctl : f.reg ≠ Reg.HRG_MSIX_CTL v) (hpba : f.reg ≠ Reg.HRG_MSIX_PBA (v / 32)) :
    ((s.setF (Fld.HRG_MSIX_CTL v) 0).setReg (Reg.HRG_MSIX_PBA (v / 32)) w).getF f = s.getF f := by
  rw [Io.getF_setReg_other _ _ hpba, Io.getF_setF_other _ _ hctl]

theorem Io.getF_unmasked_ctl : ((s.setF (Fld.HRG_MSIX_CTL v) 0).setReg (Reg.HRG_MSIX_PBA (v / 32)) w).getF (Fld.HRG_MSIX_CTL v) = 0 := by
  rw [Io.getF_setReg_other _ _ (by simp only [Fld.HRG_MSIX_CTL, Reg.HRG_MSIX_CTL, Reg.HRG_MSIX_PBA]; omega),
    Io.getF_setF_same _ _ _ (by simp [Fld.HRG_MSIX_CTL])]; rfl

theorem Io.message_unmasked {s : Io} {v : Nat} (hv : v < 512) (hup : s.linkUp = true) (hd0 : s.d3hot = false) (hmask : s.getF (Fld.HRG_MSIX_CTL v) = 0) :
    s.message v = s.emit (.msix v (s.getWide (Fld.HRG_MSIX_ADDR_LO v) (Fld.HRG_MSIX_ADDR_HI v)) (s.getF (Fld.HRG_MSIX_DATA v))) :=
  (if_neg (by simp [hup, hd0, hv])).trans (if_neg (by simp [Io.isF, hmask]))

end

/-! ### The statement -/

/-- Settles O39: each access has one branch left once the host operates; a vector's registers stand while it is unmasked. -/
theorem hostTransactions : Obligations.HostTransactions := by
  refine ⟨fun s addr len bs bad hhost hd0 hop => ⟨fun a ha hin => ?_, fun a ha hin => ?_, fun hin => ?_, fun hout => ?_, fun hout => ?_⟩,
    fun s n v hhost hd0 => ⟨fun hop hoff hv => ⟨fun hstate hlive hnew hfit => ?_, fun hstate hlive hfit => ?_, fun hstate => ?_, fun w a b hw ha hb => ?_⟩, ?_⟩,
    fun s v hhost hv => ?_, fun s region cls host write shared p hp hused => ?_⟩
  · refine .intro rfl ((Io.bar2Access_eq false addr len bs bad hhost hd0 hop).trans ?_)
    rw [ha, if_neg (by simp), if_neg (by simp), if_neg (by simp [hin])]
    rfl
  · refine .intro rfl ((Io.bar2Access_eq true addr len bs false hhost hd0 hop).trans ?_)
    rw [ha, if_neg (by simp [hin]), if_neg (by simp), if_neg (by simp)]
    rfl
  · have hrun : exec (.bar2Access true addr len bs true) s = .next (s.fire 72) := congrArg Host.Outcome.next (State.on_congr
      ((Io.bar2Access_eq true addr len bs true hhost hd0 hop).trans ((if_neg (by simp [hin])).trans (if_pos (by simp)))))
    exact .intro hrun (.of_fire rfl)
  · exact .intro rfl (State.on_congr ((Io.bar2Access_eq true addr len bs bad hhost hd0 hop).trans (if_pos (by simp [hout]))))
  · refine .intro rfl ((State.on_congr ?_).trans (s.emit_fire .barUR 70).symm)
    exact (Io.bar2Access_eq false addr len bs bad hhost hd0 hop).trans ((if_neg (by simp)).trans ((if_neg (by simp)).trans (if_pos (by simp [hout]))))
  · refine .intro (s.doorbellWrite_run _ _ _) (State.on_congr ((Io.doorbell_tail hhost hd0 hop hoff hv).trans ?_))
    rw [Io.doorbellTail_taken hstate hlive hnew hfit, Io.countIgnored_taken]
  · refine .intro (s.doorbellWrite_run _ _ _) (State.on_congr ((Io.doorbell_head hhost hd0 hop hoff hv).trans ?_))
    rw [Io.doorbellHead_taken hstate hlive hfit, Io.countIgnored_taken]
  · have hignored : s.io.doorbell (8 * n) 4 v = s.io.ignoreDoorbell :=
      (Io.doorbell_tail hhost hd0 hop hoff hv).trans (by rw [Io.doorbellTail_ignored hstate, Io.countIgnored_ignored])
    refine .intro (s.doorbellWrite_run _ _ _) ?_
    rw [State.on_congr (g := Io.ignoreDoorbell) hignored]
    refine ⟨?_, fun hcan => Io.fire_recorded _ 69 ((Io.canFire_bumpF _ _ _ (by decide) (by decide)).trans hcan)⟩
    rw [State.getF_on]
    exact (Io.getF_fire _ 69 (by decide)).trans (Io.getF_bumpF_same s.io Fld.HRG_DB_IGNORED 1 (by decide))
  · have hboth := Io.doorbell_both (x := v + 2 ^ 32 * w) hhost hd0 hop hoff (by omega) (by omega) ha.symm hb.symm
    exact .intro (s.doorbellWrite_run _ _ _) hboth
  · exact .intro (s.doorbellRead_run _ _ _) (State.on_congr (Io.doorbellRead_ring n hhost hd0))
  · have hrun : exec (.msixUnmask v) s = .next (s.on (·.msixUnmask v)) := rfl
    refine .intro hrun ⟨?_, fun hpending hup hd0 => ?_⟩
    · rw [State.getF_on, Io.msixUnmask_eq hhost hv]
      refine ite_view (fun u : Io => u.getF (Fld.HRG_MSIX_CTL v)) ?_ (Io.getF_setF_same _ _ _ (by simp [Fld.HRG_MSIX_CTL]))
      rw [(Io.message_keeps (Io.Keeps.refl _) (Sub.self _)).getF (RegOf.HRG_MSIX_CTL v) (by decide) (by decide +kernel)]
      exact Io.getF_unmasked_ctl s.io v _
    · have hpba : ∀ a : Nat, (s.io.setF (Fld.HRG_MSIX_CTL v) 0).getReg (Reg.HRG_MSIX_PBA a) = s.io.getReg (Reg.HRG_MSIX_PBA a) := fun a =>
        Io.getReg_setReg_other _ _ (by simp only [Fld.HRG_MSIX_CTL, Reg.HRG_MSIX_CTL, Reg.HRG_MSIX_PBA]; omega)
      rw [State.on_io, Io.msixUnmask_eq hhost hv, hpba, if_pos hpending, Io.message_unmasked hv (by exact hup) (by exact hd0) (Io.getF_unmasked_ctl _ _ _)]
      unfold Io.getWide
      rw [Io.getF_unmasked _ _ _ (by simp only [Fld.HRG_MSIX_ADDR_LO, Reg.HRG_MSIX_ADDR_LO, Reg.HRG_MSIX_CTL]; omega)
          (by simp only [Fld.HRG_MSIX_ADDR_LO, Reg.HRG_MSIX_ADDR_LO, Reg.HRG_MSIX_PBA]; omega),
        Io.getF_unmasked _ _ _ (by simp only [Fld.HRG_MSIX_ADDR_HI, Reg.HRG_MSIX_ADDR_HI, Reg.HRG_MSIX_CTL]; omega)
          (by simp only [Fld.HRG_MSIX_ADDR_HI, Reg.HRG_MSIX_ADDR_HI, Reg.HRG_MSIX_PBA]; omega),
        Io.getF_unmasked _ _ _ (by simp only [Fld.HRG_MSIX_DATA, Reg.HRG_MSIX_DATA, Reg.HRG_MSIX_CTL]; omega)
          (by simp only [Fld.HRG_MSIX_DATA, Reg.HRG_MSIX_DATA, Reg.HRG_MSIX_PBA]; omega)]
      rfl
  · subst hp
    exact .intro rfl (congrArg State.advance (State.on_congr (congrArg Io.settle (if_pos hused))))

end Sys2Proof.Machine
end

section
/-! What an event leaves of a fetch that waits: the fetches of every ring, and whether an operation of the fetch is held. The record of an event
enters completion queues and operation tables, and may start walks; none of them is the fetch's. -/

set_option Elab.async false

namespace Sys2Proof.Machine

/-- The fetches of ring `n`, and whether an operation of `w` is held. -/
def Io.waits (n : Nat) (w : Waiter) (s : Io) : List (Nat × Nat) × Bool := ((s.ring n).fetches, s.held w)

section
variable {n : Nat} {w : Waiter}

theorem Io.waits_of_eq {s t : Io} (hrings : t.rings = s.rings) (hops : t.ops = s.ops) (hwalks : t.walks = s.walks) : t.waits n w = s.waits n w := by
  unfold Io.waits Io.ring Io.held
  rw [hrings, hops, hwalks]

theorem Io.setReg_waits (s : Io) (a : Nat) (v : BitVec 32) : (s.setReg a v).waits n w = s.waits n w := Io.waits_of_eq rfl rfl rfl
theorem Io.setF_waits (s : Io) (f : Field) (v : Nat) : (s.setF f v).waits n w = s.waits n w := s.setReg_waits _ _
theorem Io.bumpF_waits (s : Io) (f : Field) (k : Nat) : (s.bumpF f k).waits n w = s.waits n w := s.setF_waits _ _
theorem Io.emit_waits (s : Io) (o : Out) : (s.emit o).waits n w = s.waits n w := Io.waits_of_eq rfl rfl rfl

theorem Io.setRing_waits {s : Io} {m : Nat} {r : Ring} (h : r.fetches = (s.ring m).fetches) : (s.setRing m r).waits n w = s.waits n w := by
  have hring : ((s.setRing m r).ring n).fetches = (s.ring n).fetches := by
    unfold Io.ring Io.setRing
    by_cases hn : n = m
    · subst hn
      rw [Sparse.get_set_same]; exact h
    · rw [Sparse.get_set_other _ _ _ hn]
  unfold Io.waits
  rw [hring]; rfl

/-! ### Counting, messages and once-only events -/

theorem Io.countSource_waits (s : Io) (src : Nat) (region : Option Nat) : (s.countSource src region).1.waits n w = s.waits n w := by
  unfold Io.countSource
  split
  · rfl
  · exact List.foldlRecOn (motive := fun (p : Io × List Occ) => p.1.waits n w = s.waits n w) _ _ rfl fun p hp c _ =>
      (Io.countOne_view (Io.waits n w) (fun _ _ => Io.waits_of_eq rfl rfl rfl) (fun t => t.setReg_waits) p.1 c).trans hp

theorem Io.message_waits (s : Io) (v : Nat) : (s.message v).waits n w = s.waits n w :=
  ite_view (Io.waits n w) rfl (ite_view (Io.waits n w) (s.setReg_waits _ _) (s.emit_waits _))

theorem Io.oncePer_waits (s : Io) (key : Nat) (o : Occ) : (s.oncePer key o).1.waits n w = s.waits n w :=
  ite_view (fun p : Io × List Occ => p.1.waits n w) rfl (Io.waits_of_eq rfl rfl rfl)

/-! ### Operation tables -/

/-- A table that gives way to one that holds the same of `w`. -/
theorem any_setNth {α : Type} (p : α → Bool) (d : α) (l : List α) (m : Nat) {v : α} (h : p v = p (l.getD m d)) : (setNth l m v).any p = l.any p := by
  induction l generalizing m with
  | nil => rfl
  | cons x t ih =>
    cases m with
    | zero => simp only [setNth, List.any_cons]; rw [h]; rfl
    | succ m => simp only [setNth, List.any_cons]; rw [ih m h]

theorem Io.setOpTable_waits {s : Io} {m : Nat} {t : OpTable} (h : t.held.any (·.acc.who == w) = (s.opTable m).held.any (·.acc.who == w)) :
    (s.setOpTable m t).waits n w = s.waits n w := by
  have hops : Io.waits n w { s with ops := setNth s.ops m t } = s.waits n w := by
    unfold Io.waits Io.held
    dsimp only
    rw [any_setNth (fun t : OpTable => t.held.any (·.acc.who == w)) {} s.ops m h]
    rfl
  unfold Io.setOpTable
  dsimp only
  rw [Io.setF_waits, Io.setReg_waits, Io.setReg_waits]
  exact ite_view (Io.waits n w) ((Io.setF_waits _ _ _).trans hops) hops

theorem Io.perform_waits (s : Io) (a : Access) : (s.perform a).waits n w = s.waits n w := by
  unfold Io.perform
  extract_lets s1
  have h1 : s1.waits n w = s.waits n w := by
    refine ite_view (Io.waits n w) (ite_view (Io.waits n w) (s.emit_waits _) (ite_view (Io.waits n w) ((Io.emit_waits _ _).trans (s.emit_waits _)) (s.emit_waits _)))
      (ite_view (Io.waits n w) (Io.waits_of_eq rfl rfl rfl) ?_)
    split
    case h_5 => rfl
    all_goals exact Io.waits_of_eq rfl rfl rfl
  clear_value s1
  split
  · exact (s1.message_waits _).trans h1
  · exact h1

theorem Io.take_waits (s : Io) (m : Nat) (e : OpEntry) (a : Access) : (s.take m e a).1.waits n w = s.waits n w := by
  unfold Io.take
  extract_lets t0 t v
  have hv : v.waits n w = s.waits n w := (Io.perform_waits _ a).trans (Io.setOpTable_waits rfl)
  clear_value v
  have hp : (if a.host then (v, []) else v.countSource (if a.write then 518 else 517) none).1.waits n w = s.waits n w :=
    ite_view (fun p : Io × List Occ => p.1.waits n w) hv ((v.countSource_waits _ _).trans hv)
  generalize (if a.host then (v, []) else v.countSource (if a.write then 518 else 517) none) = p at hp ⊢
  obtain ⟨u, o1⟩ := p
  exact ite_view (fun p : Io × List Occ => p.1.waits n w) ((u.oncePer_waits _ _).trans hp) hp

theorem Io.request_waits (s : Io) (m cls : Nat) {a : Access} (h : a.who ≠ w) : (s.request m cls a).1.waits n w = s.waits n w := by
  unfold Io.request
  extract_lets t
  split
  · exact s.take_waits m _ a
  · have hp : (if s.noneHeld then s.countSource 521 none else (s, [])).1.waits n w = s.waits n w :=
      ite_view (fun p : Io × List Occ => p.1.waits n w) (s.countSource_waits _ _) rfl
    have hops : (if s.noneHeld then s.countSource 521 none else (s, [])).1.ops = s.ops :=
      ite_view (fun p : Io × List Occ => p.1.ops) ((Io.countSource_keeps (Io.Keeps.refl s) (Sub.self _)).ops.eq (by decide +kernel)) rfl
    generalize (if s.noneHeld then s.countSource 521 none else (s, [])) = p at hp hops ⊢
    obtain ⟨u, o1⟩ := p
    dsimp -zeta only at hp hops ⊢
    extract_lets v
    have hv : v.waits n w = s.waits n w := by
      refine (Io.setOpTable_waits ?_).trans hp
      have htab : t = u.opTable m := by unfold t Io.opTable; rw [hops]
      rw [htab, List.any_append]
      simp [h]
    clear_value v
    exact ite_view (fun p : Io × List Occ => p.1.waits n w) hv ((Io.oncePer_waits _ _ _).trans ((Io.bumpF_waits _ _ _).trans hv))

/-! ### Walks -/

/-- Whether one of the walks has a request of `w`. -/
theorem Io.walks_waits {s : Io} {l : List Walk} (h : l.any (fun k => k.reqs.any (·.who == w)) = s.walks.any (fun k => k.reqs.any (·.who == w))) :
    Io.waits n w { s with walks := l } = s.waits n w := by
  unfold Io.waits Io.held
  dsimp only
  rw [h]; rfl

theorem Io.startWalk_waits (s : Io) (k : Walk) (h : ∀ c p, w ≠ .walk c p) : (s.startWalk k).1.waits n w = s.waits n w := by
  unfold Io.startWalk
  extract_lets v
  refine (Io.request_waits _ 0 _ (show v.tableRead.who ≠ w from (h k.ctx k.page).symm)).trans ((Io.bumpF_waits _ _ _).trans (Io.walks_waits ?_))
  rw [List.any_map]
  congr 1
  funext x
  show (if x == k then v else x).reqs.any _ = _
  by_cases hx : x = k
  · rw [if_pos (by simp [hx]), hx]
  · rw [if_neg (by simp [hx])]

theorem Io.startNext_waits (s : Io) (h : ∀ c p, w ≠ .walk c p) : s.startNext.1.waits n w = s.waits n w := by
  unfold Io.startNext
  split
  · rfl
  · split
    · rfl
    · exact s.startWalk_waits _ h

theorem Io.startWalks_waits (k : Nat) (s : Io) (h : ∀ c p, w ≠ .walk c p) : (Io.startWalks k s).1.waits n w = s.waits n w := by
  unfold Io.startWalks
  refine (Io.setReg_waits _ _ _).trans ?_
  exact List.foldlRecOn (motive := fun (p : Io × List Occ) => p.1.waits n w = s.waits n w) _ _ rfl fun p hp _ _ => (p.1.startNext_waits h).trans hp

theorem Io.addWalk_waits (s : Io) (c : Nat) {q : WalkReq} (hq : q.who ≠ w) (h : ∀ c p, w ≠ .walk c p) : (s.addWalk c q).1.waits n w = s.waits n w := by
  unfold Io.addWalk
  extract_lets page
  refine ite_view (fun p : Io × List Occ => p.1.waits n w) (Io.walks_waits ?_) ((Io.startWalks_waits 16 _ h).trans (Io.walks_waits ?_))
  · rw [List.any_map]
    congr 1
    funext x
    show (if x.ctx == c && x.page == page && !x.stale then { x with reqs := x.reqs ++ [q] } else x).reqs.any _ = _
    split
    · simp [List.any_append, hq]
    · rfl
  · simp [List.any_append, hq]

/-! ### Records -/

theorem Io.ringError_waits (s : Io) (m code idx : Nat) : (s.ringError m code idx).1.waits n w = s.waits n w :=
  ite_view (fun p : Io × List Occ => p.1.waits n w) rfl ((Io.bumpF_waits _ _ _).trans ((Io.setReg_waits _ _ _).trans (Io.setRing_waits rfl)))

theorem Io.countFault_waits (s : Io) : s.countFault.waits n w = s.waits n w := s.bumpF_waits _ _

theorem Io.logFault_waits (s : Io) (m iova kind cls ctx req : Nat) (layer : Option Nat) (write : Bool) :
    (s.logFault m iova kind cls ctx req layer write).1.waits n w = s.waits n w := by
  unfold Io.logFault
  dsimp only
  rw [Io.setF_waits, Io.setF_waits, Io.setReg_waits, Io.setReg_waits, Io.setReg_waits, Io.setReg_waits]

theorem Io.tc_waits (s : Io) (l : List TcEntry) : Io.waits n w { s with tc := l } = s.waits n w := Io.waits_of_eq rfl rfl rfl

theorem Io.translate_waits (s : Io) (m c iova : Nat) (write : Bool) : (s.translate m c iova write).1.waits n w = s.waits n w := by
  unfold Io.translate
  split
  · rfl
  · split
    · rfl
    · split
      · exact (Io.tc_waits _ _).trans (s.bumpF_waits (Fld.XLT_TC_HIT m) 1)
      · exact s.bumpF_waits _ _
  · rfl

theorem Io.cqWrite_waits (s : Io) (m i : Nat) (bs : List Byte) (msg : Option Nat) (isRecord : Bool) (hw : ∃ r f k, w = .fetch r f k) :
    (s.cqWrite m i bs msg isRecord).1.waits n w = s.waits n w := by
  obtain ⟨r, f, k, rfl⟩ := hw
  have hwho : (if isRecord then Waiter.record m bs msg else .cq m bs msg) ≠ .fetch r f k := by cases isRecord <;> simp
  unfold Io.cqWrite
  extract_lets ring a cls who
  refine ite_view (fun p : Io × List Occ => p.1.waits n (.fetch r f k)) (Io.request_waits s _ _ hwho) ?_
  have ht := s.translate_waits (n := n) (w := .fetch r f k) 0 ring.ctx a true
  generalize s.translate 0 ring.ctx a true = p at ht ⊢
  obtain ⟨u, x⟩ := p
  cases x with
  | bus b ns => exact (Io.request_waits u _ _ hwho).trans ht
  | fault kind => exact (Io.ringError_waits _ _ _ _).trans ((Io.logFault_waits _ _ _ _ _ _ _ _ _).trans ((Io.countFault_waits u).trans ht))
  | miss => exact (Io.addWalk_waits u _ hwho (by simp)).trans ht

theorem Io.writeRecord_waits (s : Io) (h : RecordHead) (m : Nat) (hw : ∃ r f k, w = .fetch r f k) : (s.writeRecord h m).1.waits n w = s.waits n w :=
  ite_view (fun p : Io × List Occ => p.1.waits n w) ((Io.bumpF_waits _ _ _).trans (Io.setRing_waits rfl))
    ((Io.cqWrite_waits _ _ _ _ _ _ hw).trans (Io.setRing_waits rfl))

theorem Io.writeRecords_waits (s : Io) (h : RecordHead) (hw : ∃ r f k, w = .fetch r f k) : (s.writeRecords h).1.waits n w = s.waits n w :=
  List.foldlRecOn (motive := fun (p : Io × List Occ) => p.1.waits n w = s.waits n w) _ _ rfl fun p hp m _ => (p.1.writeRecord_waits h m hw).trans hp

theorem Io.forwardRecord_waits (s : Io) (h : RecordHead) : (s.forwardRecord h).1.waits n w = s.waits n w :=
  ite_view (fun p : Io × List Occ => p.1.waits n w) rfl
    (ite_view (fun p : Io × List Occ => p.1.waits n w) ((Io.bumpF_waits _ _ _).trans (Io.waits_of_eq rfl rfl rfl)) (Io.waits_of_eq rfl rfl rfl))

/-! ### An occurrence -/

theorem Io.tallied_waits (s : Io) (o : Occ) (again : Bool) : (s.tallied o again).waits n w = s.waits n w :=
  Io.tallied_view (Io.waits n w) (fun _ _ => Io.waits_of_eq rfl rfl rfl) (fun t => t.setReg_waits) s o again

theorem Io.occur_waits (s : Io) (o : Occ) (hw : ∃ r f k, w = .fetch r f k) : (s.occur o).1.waits n w = s.waits n w := by
  cases h : s.canFire o with
  | false => rw [Io.occur_of_not_canFire false h]
  | true =>
    have hannounced : (s.announced o false).waits n w = s.waits n w :=
      ite_view (Io.waits n w) (s.tallied_waits o false)
        ((ite_view (Io.waits n w) (Io.message_waits _ _) rfl : ((s.tallied o false).evtMessage o.event).waits n w = _).trans (s.tallied_waits o false))
    rw [Io.occur_eq false h]
    exact ite_view (Io.waits n w) (s.tallied_waits o false)
      ((Io.forwardRecord_waits _ _).trans ((Io.writeRecords_waits _ _ hw).trans hannounced))

theorem Io.drain_waits (k : Nat) (os : List Occ) (s : Io) (hw : ∃ r f k, w = .fetch r f k) : (Io.drain k os s).waits n w = s.waits n w := by
  induction k generalizing os s with
  | zero => rfl
  | succ k ih =>
    cases os with
    | nil => rfl
    | cons o t => exact (ih _ _).trans (s.occur_waits o hw)

/-- An event leaves the fetches of every ring, and what is held of a fetch. -/
theorem Io.fire_waits (s : Io) (e : Nat) (hw : ∃ r f k, w = .fetch r f k) : (s.fire e).waits n w = s.waits n w := Io.drain_waits _ _ s hw

end

end Sys2Proof.Machine
end

section
/-! The rings: control entries, fetches and what waits for an answer (R103, R115 to R121). -/

set_option Elab.async false

namespace Sys2Proof.Machine

/-! ### Entries that are ready -/

/-- An entry that is ready runs its body (R115, R118). -/
theorem Io.onEntry_of_ready {s : Io} {n i op : Nat} {need64 : Bool} {ok : List Byte → Bool} {e : List Byte} (body : Ring → List Byte → Io → Io)
    (h : s.Ready n i op need64 (ok e) e) : s.onEntry n i op need64 ok body = body (s.ring n) e s := by
  obtain ⟨hentry, hop, hstatus⟩ := h
  simp [Io.onEntry, hentry, hop, hstatus]

section
variable {s : Io} {n i : Nat} {e : List Byte}

/-- A ring is created, or its entry answered with the case that turns it away, where the function may create rings of the class (R115). -/
theorem Io.ringCreate_of_ready (h : s.Ready n i 0x01 true (createFieldsOk e) e) (hright : bit (s.getReg Reg.HRG_RIGHTS).toNat (fieldAt e 10 1) = true) :
    (s.createCase e = 0 → s.ringCreate n i =
      (s.setRing (fieldAt e 8 2) { state := 1, cls := fieldAt e 10 1, sqLog2 := fieldAt e 11 1, cqLog2 := fieldAt e 12 1, entry64 := bit (fieldAt e 13 1) 2,
                                   sqDram := bit (fieldAt e 13 1) 3, cqDram := bit (fieldAt e 13 1) 4, ctx := fieldAt e 14 1, vector := fieldAt e 16 2,
                                   sqBase := fieldAt e 24 8, cqBase := fieldAt e 32 8 }).answer n i e {}) ∧
    (s.createCase e ≠ 0 → s.ringCreate n i = s.answer n i e { status := 0x01, detail := s.createCase e }) := by
  unfold Io.ringCreate
  dsimp only
  rw [h.entry]
  dsimp only
  rw [if_neg (by simp [hright]), Io.onEntry_of_ready _ h]
  refine ⟨fun hcase => ?_, fun hcase => ?_⟩
  · rw [hcase] <;> rfl
  · obtain ⟨d, hd⟩ := Nat.exists_eq_succ_of_ne_zero hcase
    rw [hd] <;> rfl

theorem Io.ringDestroy_of_ready (h : s.Ready n i 0x02 false (tailZero e 10) e) :
    s.ringDestroy n i = if fieldAt e 8 2 = 0 ∨ (s.ring (fieldAt e 8 2)).state = 0 then s.answer n i e { status := 0x01, detail := 1 }
      else ((s.popEntry n i).setRing (fieldAt e 8 2) { (s.popEntry n i).ring (fieldAt e 8 2) with destroying := some (n, i, e) }).finishDestroy (fieldAt e 8 2) :=
  Io.onEntry_of_ready _ h

theorem Io.ringReset_of_ready (h : s.Ready n i 0x03 false (tailZero e 10) e) :
    s.ringReset n i = if fieldAt e 8 2 = 0 ∨ (s.ring (fieldAt e 8 2)).state = 0 then s.answer n i e { status := 0x01, detail := 1 }
      else (s.setRing (fieldAt e 8 2) { s.ring (fieldAt e 8 2) with
        state := 1, error := 0, errIndex := 0, sqHead := (s.ring (fieldAt e 8 2)).sqTail, sinceMsg := none }).answer n i e {} :=
  Io.onEntry_of_ready _ h

theorem Io.vectorMap_of_ready (h : s.Ready n i 0x04 false (tailZero e 12) e) :
    s.vectorMap n i = if 511 < fieldAt e 8 2 ∨ 511 < fieldAt e 10 2 then s.answer n i e { status := 0x01, detail := 2 }
      else (if fieldAt e 8 2 % 2 = 0 then s.setF (Fld.HRG_EVT_VEC_VEC_EVEN (fieldAt e 8 2 / 2)) (fieldAt e 10 2)
        else s.setF (Fld.HRG_EVT_VEC_VEC_ODD (fieldAt e 8 2 / 2)) (fieldAt e 10 2)).answer n i e {} :=
  Io.onEntry_of_ready _ h

end

/-- The answer to an entry leaves the vector of every event. -/
theorem Io.answer_evtVector (s : Io) (n i : Nat) (e : List Byte) (d : Done) (ev : Nat) : (s.answer n i e d).evtVector ev = s.evtVector ev := by
  have hkeep := Io.answer_keeps (n := n) (i := i) (e := e) (d := d) (Io.Keeps.refl s) (Sub.self _)
  unfold Io.evtVector
  rw [hkeep.getF (RegOf.HRG_EVT_VEC _) (by decide) (by decide +kernel), hkeep.getF (RegOf.HRG_EVT_VEC _) (by decide) (by decide +kernel)]

/-- The vector of an event, once mapped, reads back (R115). -/
theorem Io.evtVector_mapped (s : Io) (ev : Nat) {v : Nat} (hv : v < 2 ^ 9) :
    (if ev % 2 = 0 then s.setF (Fld.HRG_EVT_VEC_VEC_EVEN (ev / 2)) v else s.setF (Fld.HRG_EVT_VEC_VEC_ODD (ev / 2)) v).evtVector ev = v := by
  unfold Io.evtVector
  by_cases h : ev % 2 = 0
  · rw [if_pos h, if_pos h, Io.getF_setF_same _ _ _ (by simp [Fld.HRG_EVT_VEC_VEC_EVEN])]
    exact Nat.mod_eq_of_lt hv
  · rw [if_neg h, if_neg h, Io.getF_setF_same _ _ _ (by simp [Fld.HRG_EVT_VEC_VEC_ODD])]
    exact Nat.mod_eq_of_lt hv

/-! ### RING_DESTROY and RING_RESET, with what the ring has queued -/

section
variable {s : State} {n i : Nat} {e : List Byte}

theorem State.ringDestroy_run (h : s.io.Ready n i 0x02 false (tailZero e 10) e) :
    (fieldAt e 8 2 = 0 ∨ (s.io.ring (fieldAt e 8 2)).state = 0 → exec (.ringDestroy n i) s = .next (s.on (·.ringDestroy n i))) ∧
    (fieldAt e 8 2 ≠ 0 → (s.io.ring (fieldAt e 8 2)).state ≠ 0 → ∀ u, u = s.on (·.ringDestroy n i) →
      exec (.ringDestroy n i) s = .next (if (u.io.ring (fieldAt e 8 2)).destroying = none then u else u.abortQueued (fieldAt e 8 2))) := by
  have hrun : exec (.ringDestroy n i) s = execRingDestroy n i s := rfl
  unfold execRingDestroy at hrun
  dsimp only at hrun
  rw [h.entry] at hrun
  dsimp only at hrun
  rw [h.opcode, h.status] at hrun
  refine ⟨fun hnone => ?_, fun hn hstate u hu => ?_⟩
  · rw [if_neg (by simp; tauto)] at hrun
    exact hrun
  · subst hu
    cases hd : ((s.on (·.ringDestroy n i)).io.ring (fieldAt e 8 2)).destroying with
    | none =>
      rw [if_neg (by rw [hd]; simp)] at hrun
      rw [if_pos rfl]
      exact hrun
    | some x =>
      rw [if_pos (by rw [hd]; simp [hn, hstate])] at hrun
      rw [if_neg (by simp)]
      exact hrun

theorem State.ringReset_run (h : s.io.Ready n i 0x03 false (tailZero e 10) e) :
    (fieldAt e 8 2 = 0 ∨ (s.io.ring (fieldAt e 8 2)).state = 0 → exec (.ringReset n i) s = .next (s.on (·.ringReset n i))) ∧
    (s.abortQueued (fieldAt e 8 2) = s → exec (.ringReset n i) s = .next (s.on (·.ringReset n i))) := by
  have hrun : exec (.ringReset n i) s = execRingReset n i s := rfl
  unfold execRingReset at hrun
  dsimp only at hrun
  rw [h.entry] at hrun
  dsimp only at hrun
  rw [h.opcode, h.status] at hrun
  refine ⟨fun hnone => ?_, fun hquiet => ?_⟩
  · rw [if_neg (by simp; tauto)] at hrun
    exact hrun
  · rw [hquiet, ite_self] at hrun
    exact hrun

end

/-! ### Fetches -/

/-- The ring whose turn it is fetches as many entries as it may (R121). -/
theorem Io.ringFetch_of_next {s : Io} {served : List (Nat × Nat)} {n count k : Nat} (hop : s.operational = true)
    (hfetch : s.getF Fld.HRG_OUTSTANDING_FETCHES < s.maxFetch) (hreads : s.getF Fld.HRG_OUTSTANDING_NP_READS < s.maxNp) (hnext : s.nextRing served = some n)
    (hk : k = min (max 1 count) (s.ring n).fetchLimit) :
    s.ringFetch served count = (((s.setRing n { s.ring n with fetches := (s.ring n).fetches ++ [((s.ring n).sqHead, k)]
                                                              sqHead := ((s.ring n).sqHead + k) % 2 ^ 32
                                                              cqReserved := (s.ring n).cqReserved + k * slotNeed (s.ring n).cls }).bumpF
      Fld.HRG_OUTSTANDING_FETCHES).issueFetch n (s.ring n).sqHead k, some n) := by
  subst hk
  unfold Io.ringFetch
  rw [if_neg (by simp [hop, hfetch, hreads]), hnext]

section
variable {s : State} {n first count : Nat} (hfetch : (s.io.ring n).fetches.find? (fun f => f.1 == first) = some (first, count))
include hfetch

theorem State.fetchReturns_due (res : ReadResult) : s.fetchReturns n first res = ((s.poisonSeen res).on (·.sqReadComplete n first res)).advance := by
  have hdue : (s.io.ring n).fetches.any (fun f => f.1 == first) = true :=
    List.any_eq_true.mpr ⟨_, List.mem_of_find?_eq_some hfetch, by simp⟩
  unfold State.fetchReturns
  dsimp only
  rw [if_pos hdue]

end

/-- The address that a fetch reads (R116). -/
def Ring.fetchAddr (r : Ring) (first : Nat) : Nat := r.sqBase + r.entryBytes * (first % 2 ^ r.sqLog2)

/-- The fetch of a ring ends with its fault, or its entries enter the ring (R116). -/
theorem Io.sqReadComplete_of_fetch {s : Io} {n first count : Nat} (hfetch : (s.ring n).fetches.find? (fun f => f.1 == first) = some (first, count))
    (hheld : s.held (.fetch n first count) = false) (res : ReadResult) :
    (∀ k, (if s.badReads.contains (.fetch n first count) then .inr 8 else readOutcome res) = Sum.inr k →
      s.sqReadComplete n first res = s.fetchFailed n first count k ((s.ring n).fetchAddr first)) ∧
    ∀ bs u, (if s.badReads.contains (.fetch n first count) then .inr 8 else readOutcome res) = Sum.inl bs →
      u = (Io.settle (s.completeOwn (.fetch n first count))).forget (.fetch n first count) →
      s.sqReadComplete n first res = (u.setRing n { u.ring n with
        fetches := eraseFirst (· == (first, count)) (u.ring n).fetches
        fetched := (u.ring n).fetched ++ splitEntries (s.ring n).entryBytes count first
          (if (s.ring n).sqDram then s.found (.fetch n first count) ((s.ring n).fetchAddr first) ((s.ring n).entryBytes * count) else bs)
        entries := ((u.ring n).entries + count) % 2 ^ 48 }).dropF Fld.HRG_OUTSTANDING_FETCHES := by
  unfold Io.sqReadComplete
  dsimp only
  rw [hfetch]
  dsimp only
  rw [if_neg (c := s.held (.fetch n first count) = true) (by simp [hheld])]
  refine ⟨fun k hk => ?_, fun bs u hbs hu => ?_⟩
  · rw [hk] <;> rfl
  · subst hu
    rw [hbs] <;> rfl

/-! ### What waits for an answer -/

/-- The reads of a layer, of a stage entry and of an audio buffer that time out, among the others (R103). -/
theorem State.timedOut_cases (u : State) (n i at_ : Nat) :
    (∀ f k, (u.io.ring n).fetches.find? (fun (f : Nat × Nat) => u.io.inFlight (.fetch n f.1 f.2)) = some (f, k) →
        u.timedOut (.ringFetch n) = (u.on fun io => io.fetchFailed n f k 8 ((io.ring n).fetchAddr f)).advance) ∧
    (∀ b, u.hostPlay n i = some b → u.timedOut (.audio n i at_) =
        u.audioFault b (if b.what < 16 then b.what / 4 else 0) (29 + b.what % 4) 8 at_ false) := by
  refine ⟨fun f k hf => ?_, fun b hb => ?_⟩
  · unfold State.timedOut
    dsimp only
    rw [hf] <;> rfl
  · unfold State.timedOut
    dsimp only
    rw [hb]

/-! ### The statement -/

/-- Settles O40: an entry that is ready runs its body; the event of poisoned data leaves the fetch that it ends. -/
theorem ringCommands : Obligations.RingCommands := by
  refine ⟨fun s n i e h => ?_, fun s n i e hentry hclass => ?_, fun s n i e h hright => ⟨fun hcase => ?_, fun hcase => ?_⟩,
    fun s n i e h => ⟨fun hnone => ?_, fun u hu hn hstate => ?_⟩, fun s n i e h => ⟨fun hnone => ?_, fun hcls hquiet hn hstate => ?_⟩,
    fun s n i e h => ⟨fun hev hvec => ?_, fun hout => ?_⟩, fun s n count k hop hfetch hreads hnext hk => ?_,
    fun s n first count hfetch hheld => ⟨fun bs hgood => ?_, fun k hgood => ?_, ?_⟩,
    fun s u n i c p at_ mem hu => ⟨fun x hx => ?_, (u.timedOut_cases n i at_).1, rfl, rfl, rfl, rfl, rfl, (u.timedOut_cases n i at_).2, rfl⟩⟩
  · exact .intro rfl (State.on_congr (Io.onEntry_of_ready _ h))
  · refine .intro rfl (State.on_congr ?_)
    rw [hentry]
    exact if_pos hclass
  · exact .intro rfl (State.on_congr ((Io.ringCreate_of_ready h hright).1 hcase))
  · exact .intro rfl (State.on_congr ((Io.ringCreate_of_ready h hright).2 hcase))
  · exact .intro ((State.ringDestroy_run h).1 hnone) (State.on_congr ((Io.ringDestroy_of_ready h).trans (if_pos hnone)))
  · refine .intro ((State.ringDestroy_run h).2 hn hstate u (hu.trans (State.on_congr ?_)) ) rfl
    exact ((Io.ringDestroy_of_ready h).trans (if_neg (by tauto))).symm
  · exact .intro ((State.ringReset_run h).1 hnone) (State.on_congr ((Io.ringReset_of_ready h).trans (if_pos hnone)))
  · exact .intro ((State.ringReset_run h).2 hquiet) (State.on_congr ((Io.ringReset_of_ready h).trans (if_neg (by tauto))))
  · have hrun : exec (.vectorMap n i) s = .next (s.on (·.vectorMap n i)) := rfl
    refine .intro hrun ?_
    rw [State.on_io, Io.vectorMap_of_ready h, if_neg (by omega), Io.answer_evtVector]
    exact Io.evtVector_mapped s.io (fieldAt e 8 2) (by omega)
  · exact .intro rfl (State.on_congr ((Io.vectorMap_of_ready h).trans (if_pos hout)))
  · have hrun : exec (.ringFetch count) s = execRingFetch count s := rfl
    unfold execRingFetch at hrun
    rw [Io.ringFetch_of_next hop hfetch hreads hnext hk] at hrun
    exact .intro hrun ⟨rfl, rfl⟩
  · refine .intro (congrArg Host.Outcome.next (State.fetchReturns_due hfetch (.data bs))) (congrArg State.advance (State.on_congr ?_))
    exact (Io.sqReadComplete_of_fetch hfetch hheld (.data bs)).2 bs _ (if_neg (by rw [hgood]; decide)) rfl
  · refine .intro (congrArg Host.Outcome.next (State.fetchReturns_due hfetch (.fault k))) (congrArg State.advance (State.on_congr ?_))
    exact (Io.sqReadComplete_of_fetch hfetch hheld (.fault k)).1 k (if_neg (by rw [hgood]; decide))
  · refine .intro (congrArg Host.Outcome.next (State.fetchReturns_due hfetch .poisoned)) (congrArg State.advance (State.on_congr ?_))
    have hwaits := s.io.fire_waits (n := n) (w := .fetch n first count) 72 ⟨n, first, count, rfl⟩
    unfold Io.waits at hwaits
    obtain ⟨hfetches, hkept⟩ := Prod.mk.inj hwaits
    exact (Io.sqReadComplete_of_fetch (s := s.io.fire 72) (hfetches ▸ hfetch) (hkept.trans hheld) .poisoned).1 8 (ite_self _)
  · subst hu
    exact .intro rfl (if_pos hx)

end Sys2Proof.Machine
end

section
set_option Elab.async false
namespace Sys2Proof.Machine

/-! ## Translation and DMA (spec 05) -/

/-! ### XLT_CONTEXT -/

section
variable {s : Io} {n i : Nat} {e : List Byte} {mine : Nat → Bool} (run : List Byte → Io → Io) (hready : s.Ready n i 0x05 true (xltFieldsOk e) e)
  (hmine : mine (fieldAt e 8 1) = true)
include hready hmine

theorem Io.xltContext_of_ready :
    s.xltContext n i mine run = match s.xltCase e with | 0 => run e s | d => s.answer n i e { status := 0x01, detail := d } := by
  unfold Io.xltContext
  rw [hready.entry]
  dsimp only
  rw [if_neg (by simp [hmine])]
  exact Io.onEntry_of_ready _ hready

theorem Io.xltContext_pass (hcase : s.xltCase e = 0) : s.xltContext n i mine run = run e s := by
  rw [Io.xltContext_of_ready run hready hmine, hcase] <;> rfl

theorem Io.xltContext_reject (hcase : s.xltCase e ≠ 0) : s.xltContext n i mine run = s.answer n i e { status := 0x01, detail := s.xltCase e } := by
  obtain ⟨k, hk⟩ := Nat.exists_eq_succ_of_ne_zero hcase
  rw [Io.xltContext_of_ready run hready hmine, hk] <;> rfl

end

theorem Io.invalidationDrained_of_active {s : Io} {n i : Nat} {e : List Byte} (hactive : s.activeEntry n i 0x05 = some e) (hdrained : s.drained (fieldAt e 9 1) = true) :
    s.invalidationDrained n i = (s.bumpF Fld.XLT_INVAL_COUNT).finish n i e {} := by
  unfold Io.invalidationDrained
  rw [hactive]
  exact if_pos hdrained

/-! ### A walk's end -/

/-- The requests that waited on a walk end one after another, and their faults are gathered (R133). -/
def Io.endRequests (ctx : Nat) (r : WalkEnd) (old : Bool) (reqs : List WalkReq) (s : Io) : Io × List (Waiter × Nat × Nat) :=
  reqs.foldl (fun (acc : Io × List (Waiter × Nat × Nat)) q => ((acc.1.endRequest ctx r old q).1, acc.2 ++ (acc.1.endRequest ctx r old q).2.toList)) (s, [])

/-- What a walk's end leaves in the cache and in the events before its requests end (R133). -/
def Io.walkFills (ctx page : Nat) (r : WalkEnd) (v : Walk) (s : Io) : Io :=
  match r with
  | .fault 7 => s.fireIn 97 0
  | .leaf bus log2 rd wr ns =>
    if v.stale then s
    else [0, 1, 2, 3].foldl (fun s n =>
      if v.reqs.any (fun q => q.region == n && (r.faultOf q.write).isNone) then s.cacheFill (leafEntry n ctx (page * 4096) bus log2 rd wr ns) else s) s
  | _ => s

theorem Io.walkFills_timeout (ctx page : Nat) (v : Walk) (s : Io) : Io.walkFills ctx page (.fault 7) v s = s.fireIn 97 0 := (rfl)

theorem Io.walkFills_modeFault (ctx page : Nat) (v : Walk) (s : Io) : Io.walkFills ctx page (.fault 6) v s = s := (rfl)

theorem Io.walkFills_leaf {ctx page bus log2 : Nat} {rd wr ns : Bool} {v : Walk} {s : Io} (hstale : v.stale = false) :
    Io.walkFills ctx page (.leaf bus log2 rd wr ns) v s = [0, 1, 2, 3].foldl (fun s n =>
      if v.reqs.any (fun q => q.region == n && ((WalkEnd.leaf bus log2 rd wr ns).faultOf q.write).isNone) then
        s.cacheFill (leafEntry n ctx (page * 4096) bus log2 rd wr ns) else s) s :=
  if_neg (by rw [hstale]; exact Bool.false_ne_true)

theorem Io.walkDone_of_end {s io : Io} {ctx page : Nat} {w v : Walk} {reads : List (Option Nat)} {r : WalkEnd}
    (hwalk : s.walks.find? (fun w => w.ctx == ctx && w.page == page && w.running) = some w) (hend : Io.walkOn 5 w reads s = (io, v, some r)) :
    s.walkDone ctx page reads = Io.endRequests ctx (if io.ctxMode ctx ≠ 1 then WalkEnd.fault 6 else r) v.stale v.reqs
      (Io.walkFills ctx page (if io.ctxMode ctx ≠ 1 then WalkEnd.fault 6 else r) v (Io.settle (Io.startWalks 16 { io with walks := eraseFirst (· == v) io.walks }))) := by
  unfold Io.walkDone
  rw [hwalk]
  dsimp only
  rw [hend]
  rfl

theorem State.endWalk_eq (s : State) (ctx page : Nat) (reads : List (Option Nat)) :
    s.endWalk ctx page reads = ((s.io.walkDone ctx page reads).2.foldl (fun (s : State) f => s.walkFault f.1 ctx f.2.1 f.2.2)
      { s with io := (s.io.walkDone ctx page reads).1 }).advance := by
  unfold State.endWalk
  generalize s.io.walkDone ctx page reads = p
  rfl

/-! ### Copies -/

theorem Io.dmaCopy_of_ready {s : Io} {n i : Nat} {e : List Byte} (hready : s.Ready n i 0x40 true (dmaFieldsOk e) e) (hfirst : (s.ring n).copyBefore i = false) :
    s.dmaCopy n i =
      if (bit (fieldAt e 32 1) 0 && s.beyond (fieldAt e 16 8) (fieldAt e 8 5)) || (bit (fieldAt e 32 1) 1 && s.beyond (fieldAt e 24 8) (fieldAt e 8 5)) then
        s.answer n i e { status := 0x01, detail := 1 }
      else if 16 ≤ s.getF Fld.XLT_DMA_ACTIVE_COPIES then s
      else ((s.popEntry n i).setRing n { (s.popEntry n i).ring n with active := ((s.popEntry n i).ring n).active ++ [(i, e)] }).bumpF Fld.XLT_DMA_ACTIVE_COPIES :=
  (if_neg (by rw [hfirst]; exact Bool.false_ne_true)).trans (Io.onEntry_of_ready _ hready)

section
variable {s io : Io} {n i : Nat} {e : List Byte} {m : HostMem} {f : Option (Nat × Nat × Bool)} (hactive : s.activeEntry n i 0x40 = some e)
  (howed : s.owed.any (fun o => o.ring == n && o.index == i) = false)
  (hcopy : Io.copyGranules { m with inFlight := min 16 m.inFlight } (.entry n i) e none (fieldAt e 8 5 + 1) 0 (fieldAt e 8 5) s = (io, f))
include hactive howed hcopy

theorem Io.dmaCopyDone_of_active :
    s.dmaCopyDone n i m none = match (generalizing := false) f with
      | none => (Io.settle (io.completeOwn (.entry n i))).owe { ring := n, index := i, entry := e, done := { info := fieldAt e 8 5 } }
      | some (k, d, onDst) => (Io.settle ((Io.settle (io.completeOwn (.entry n i))).countFault.logFault 0 ((if onDst then fieldAt e 24 8 else fieldAt e 16 8) + d) k 3
            (if onDst then fieldAt e 34 1 else fieldAt e 33 1) 36 none onDst)).owe
          { ring := n, index := i, entry := e, done := { status := 0x06, detail := k + 16 * flag onDst, info := d } } := by
  unfold Io.dmaCopyDone
  rw [hactive]
  dsimp only
  rw [if_neg (by rw [howed]; exact Bool.false_ne_true), hcopy] <;> rcases f with _ | ⟨k, d, onDst⟩ <;> rfl

end

/-- Settles O41: each clause from the equation that gives what its command leaves in the state. -/
theorem translationAndDma : Obligations.TranslationAndDma := by
  unfold Obligations.TranslationAndDma
  refine ⟨?_, ?_, ?_, ?_, ?_, ?_, ?_, ?_⟩
  · intro s n i e hready hop
    have hmine : (fieldAt e 8 1 == 0 || decide (3 < fieldAt e 8 1)) = true := by simp [hop]
    exact ⟨fun hcase => .intro rfl (State.on_congr (Io.xltContext_pass _ hready hmine hcase)),
      fun hcase => .intro rfl (State.on_congr (Io.xltContext_reject _ hready hmine hcase))⟩
  · intro s n i e hready hop
    have hmine : (fieldAt e 8 1 == 1) = true := by simp [hop]
    exact ⟨fun hcase => .intro rfl (State.on_congr (Io.xltContext_pass _ hready hmine hcase)),
      fun hcase => .intro rfl (State.on_congr (Io.xltContext_reject _ hready hmine hcase))⟩
  · intro s n i e hready hop
    have hmine : (fieldAt e 8 1 == 2) = true := by simp [hop]
    exact ⟨fun hcase => .intro rfl (State.on_congr (Io.xltContext_pass _ hready hmine hcase)),
      fun hcase => .intro rfl (State.on_congr (Io.xltContext_reject _ hready hmine hcase))⟩
  · intro s n i e hready hop
    have hmine : (fieldAt e 8 1 == 3) = true := by simp [hop]
    exact ⟨fun hcase => .intro rfl (State.on_congr (Io.xltContext_pass _ hready hmine hcase)),
      fun hcase => .intro rfl (State.on_congr (Io.xltContext_reject _ hready hmine hcase))⟩
  · exact fun s n i e hactive hdrained => .intro rfl (State.on_congr (Io.invalidationDrained_of_active hactive hdrained))
  · intro s ctx page w v reads io r f hwalk hend hf
    have hdone := Io.walkDone_of_end hwalk hend
    have hrequests : ∀ x, f x = Io.endRequests ctx (if io.ctxMode ctx ≠ 1 then WalkEnd.fault 6 else r) v.stale v.reqs x := fun x => congrFun hf x
    refine ⟨.intro rfl (State.endWalk_eq s ctx page reads), fun x hx => ?_⟩
    rw [← hx] at hdone
    refine ⟨fun hmode hr => ?_, fun hmode bus log2 rd wr ns hr hstale => ?_, fun hmode => ?_⟩
    · rw [hdone, hrequests, if_neg (not_not_intro hmode), hr, Io.walkFills_timeout]
    · rw [hdone, hrequests, if_neg (not_not_intro hmode), hr, Io.walkFills_leaf hstale]
    · rw [hdone, hrequests, if_pos hmode, Io.walkFills_modeFault]
  · intro s n i e hready hfirst
    have hrun := Io.dmaCopy_of_ready hready hfirst
    exact ⟨fun hbeyond => .intro rfl (State.on_congr (hrun.trans (if_pos hbeyond))),
      fun hroom hin => .intro rfl (State.on_congr (hrun.trans ((if_neg (by rw [hin]; exact Bool.false_ne_true)).trans (if_neg (Nat.not_le.mpr hroom)))))⟩
  · intro s n i e m w io f hactive howed hcopy
    have hrun := Io.dmaCopyDone_of_active (m := { m with inFlight := w }) hactive howed hcopy
    refine ⟨fun hf => ?_, fun k d onDst hf => ?_⟩ <;> subst hf
    · exact .intro rfl (State.on_congr hrun)
    · exact .intro rfl (State.on_congr hrun)

end Sys2Proof.Machine
end

section
set_option Elab.async false
namespace Sys2Proof.Machine

/-! ## Register accesses and the debug port (R11, R13, R293, R301, R556, R557) -/

/-! ### Writes and reads by a path -/

/-- A write of a word at an aligned offset of BAR0 reaches the path (R11, R106). -/
theorem execRegisterWrite_of_word (s : State) {path : RegPath} {off size : Nat} (value : Nat) {enables : Bool} (hword : path = .bar0 → size = 4 ∧ enables = true)
    (haligned : off % 4 = 0) (hoff : off < 0x800000) :
    exec (.registerWrite path off value size enables) s = .next (s.pathWrite path off (value % 2 ^ 32)).1 := by
  refine congrArg Host.Outcome.next ((if_neg ?_).trans (if_neg (by omega)))
  rintro ⟨hpath, hbad⟩
  obtain ⟨hsize, henables⟩ := hword hpath
  simp [hsize, haligned, henables] at hbad

/-- A read by a path that finds its word is answered through BAR0 by that word (R13, R106). -/
theorem execLowHalfRead_of_read {s u : State} {path : RegPath} {off v size : Nat} {enables : Bool} (hword : path = .bar0 → size = 4 ∧ enables = true)
    (haligned : off % 4 = 0) (hoff : off < 0x800000) (hread : s.pathRead path off = (u, some v)) :
    exec (.lowHalfRead path off size enables) s = .next (if path = .bar0 then u.emit (.barData (leBytes 4 v) false) else u) := by
  refine congrArg Host.Outcome.next ((if_neg ?_).trans ((if_neg (by omega)).trans ?_))
  · rintro ⟨hpath, hbad⟩
    obtain ⟨hsize, henables⟩ := hword hpath
    simp [hsize, haligned, henables] at hbad
  · rw [hread]

/-! ### LNK_TEST -/

theorem State.pathWrite_LNK_TEST {s : State} {path : RegPath} {port : Nat} (v : Nat) (hport : port < 16) (hacc : s.Accepts path (Reg.LNK_TEST (port / 4) (port % 4))) :
    (s.pathWrite path (Reg.LNK_TEST (port / 4) (port % 4)) v).1 = s.writeLinkTest port v := by
  obtain ⟨r, hbase, hwrite⟩ := State.pathWrite_of_actsAs v hacc (actsAs_LNK_TEST hport) (by unfold Reg.LNK_TEST; omega)
  exact hwrite.trans (State.performWrite_LNK_TEST _ _ _ _ _ hbase)

/-! ### REG_REQ -/

section
variable {s u : State} {port : Nat} {packet pl : List Byte} (hopen : s.pathOpen .remote = true) (hkept : s.kept port 0x04 packet = (u, some pl))
include hopen hkept

theorem execRegReqReceived_of_kept :
    exec (.regReqReceived port packet) s = .next (match u.link.replies.find? (·.1 == fieldAt pl 0 2) with
      | some (_, r) => u.queueReturn 0x3 r
      | none =>
        let (v, st, x) := u.remoteAccess (fieldAt pl 2 1) (fieldAt pl 4 4) (fieldAt pl 8 4)
        let r := leBytes 2 (fieldAt pl 0 2) ++ leBytes 1 st ++ zeros 1 ++ sub pl 4 4 ++ leBytes 4 x
        ({ v with link := { v.link with replies := ((fieldAt pl 0 2, r) :: v.link.replies).take 4 } }).queueReturn 0x3 r) := by
  have hrun : exec (.regReqReceived port packet) s = execRegReqReceived port packet s := rfl
  unfold execRegReqReceived at hrun
  rw [if_neg (by rw [hopen]; decide), hkept] at hrun
  exact hrun

theorem execRegReqReceived_repeat {tag : Nat} {r : List Byte} (hreply : u.link.replies.find? (·.1 == fieldAt pl 0 2) = some (tag, r)) :
    exec (.regReqReceived port packet) s = .next (u.queueReturn 0x3 r) := by
  rw [execRegReqReceived_of_kept hopen hkept, hreply]

theorem execRegReqReceived_fresh {v : State} {st x : Nat} {r : List Byte} (hfresh : u.link.replies.find? (·.1 == fieldAt pl 0 2) = none)
    (haccess : u.remoteAccess (fieldAt pl 2 1) (fieldAt pl 4 4) (fieldAt pl 8 4) = (v, st, x))
    (hr : r = leBytes 2 (fieldAt pl 0 2) ++ leBytes 1 st ++ zeros 1 ++ sub pl 4 4 ++ leBytes 4 x) :
    exec (.regReqReceived port packet) s =
      .next (State.queueReturn { v with link := { v.link with replies := ((fieldAt pl 0 2, r) :: v.link.replies).take 4 } } 0x3 r) := by
  subst hr
  rw [execRegReqReceived_of_kept hopen hkept, hfresh]
  dsimp only
  rw [haccess]

end

/-! ### REGACC -/

/-- The state in which Update-DR of REGACC looks at what was shifted in (R557). -/
def State.onRegacc (s : State) : State := s.onJtag fun j => { j with ir := 8, extest := false }

section
variable (s : State) {dr : Nat}

theorem execJtagRegaccUpdate_beyond (hoff : 0x400000 ≤ 4 * bits dr 1 21) (hwrite : bit dr 0 = true) :
    exec (.jtagRegaccUpdate dr false) s = .next (s.onRegacc.onJtag fun j => { j with status := 3, data := bits dr 22 32 }) :=
  congrArg Host.Outcome.next ((if_neg Bool.false_ne_true).trans (if_pos ⟨hoff, hwrite⟩))

theorem execJtagRegaccUpdate_write (hoff : 4 * bits dr 1 21 < 0x400000) (hwrite : bit dr 0 = true) :
    exec (.jtagRegaccUpdate dr false) s = .next ((s.onRegacc.pathWrite .debug (4 * bits dr 1 21) (bits dr 22 32)).1.onJtag fun j =>
      { j with status := if (s.onRegacc.pathWrite .debug (4 * bits dr 1 21) (bits dr 22 32)).2 = 2 then 3 else
                 (s.onRegacc.pathWrite .debug (4 * bits dr 1 21) (bits dr 22 32)).2
               data := bits dr 22 32 }) :=
  congrArg Host.Outcome.next ((if_neg Bool.false_ne_true).trans ((if_neg fun h => absurd h.1 (Nat.not_le.mpr hoff)).trans (if_pos hwrite)))

theorem execJtagRegaccUpdate_read {v : State} {x : Nat} (hread : bit dr 0 = false) (hx : s.onRegacc.pathRead .debug (4 * bits dr 1 21) = (v, some x)) :
    exec (.jtagRegaccUpdate dr false) s = .next (v.onJtag fun j => { j with status := 0, data := x }) := by
  have hnot : ¬ bit dr 0 = true := by rw [hread]; exact Bool.false_ne_true
  refine congrArg Host.Outcome.next ((if_neg Bool.false_ne_true).trans ((if_neg fun h => hnot h.2).trans ((if_neg hnot).trans ?_)))
  show (match s.onRegacc.pathRead .debug (4 * bits dr 1 21) with
    | (s, some v) => s.onJtag (fun j => { j with status := 0, data := v })
    | (s, none) => s.onJtag (fun j => { j with status := 3, data := 0 })) = _
  rw [hx]

end

/-- Settles O42: the register paths by the equation of each access, the debug port by its own. -/
theorem registerAccesses : Obligations.RegisterAccesses := by
  unfold Obligations.RegisterAccesses
  refine ⟨?_, ?_, ?_, ?_, ?_, ?_, ?_, ?_, ?_, ?_, ?_, ?_⟩
  · intro s path off value size enables
    refine ⟨fun hpath hbad hopen => ?_, fun hword haligned hoff => ?_⟩
    · exact .intro rfl ((if_pos ⟨hpath, by simpa using hbad⟩).trans (if_pos hopen))
    · exact .intro (execRegisterWrite_of_word s value hword haligned hoff) rfl
  · intro s a v r i ha hrow hp
    rw [State.writeReg_of_row v ha hrow hp]
    refine ⟨fun hrwl hlocked => if_pos ⟨hrwl, hlocked⟩, fun hfree => if_neg ?_⟩
    rintro ⟨hrwl, hlocked⟩
    rcases hfree with h | h
    · exact hrwl h
    · simp [h] at hlocked
  · intro s u path off v haligned hoff hread
    refine ⟨fun hpath => .intro (execLowHalfRead_of_read (fun _ => ⟨rfl, rfl⟩) haligned hoff hread) (if_pos hpath), fun hpath size enables => ?_⟩
    exact .intro (execLowHalfRead_of_read (fun h => absurd h hpath) haligned hoff hread) (if_neg hpath)
  · intro s u port packet pl hopen hkept
    refine ⟨fun tag r hreply => .intro (execRegReqReceived_repeat hopen hkept hreply) rfl, ?_⟩
    intro v st x r hfresh haccess hr
    exact .intro (execRegReqReceived_fresh hopen hkept hfresh haccess hr) rfl
  · intro s port path hport hacc
    exact .intro rfl ((if_neg (Nat.not_le.mpr hport)).trans ((State.pathWrite_LNK_TEST 1 hport hacc).trans (s.writeLinkTest_retry port)))
  · intro s port path hport hacc
    exact .intro rfl ((if_neg (Nat.not_le.mpr hport)).trans ((State.pathWrite_LNK_TEST 2 hport hacc).trans (s.writeLinkTest_force port)))
  · exact fun s => .intro rfl rfl
  · exact fun s levels => .intro rfl ⟨rfl, rfl⟩
  · exact fun s pins levels width => .intro rfl ⟨rfl, rfl⟩
  · exact fun s code h0 h1 h8 => .intro rfl (if_neg (by omega))
  · intro s u dr off data hu hoff hdata
    subst hu hoff hdata
    refine ⟨.intro rfl (if_pos rfl), fun hoff hwrite => .intro (execJtagRegaccUpdate_beyond s hoff hwrite) rfl,
      fun hoff hwrite => .intro (execJtagRegaccUpdate_write s hoff hwrite) ⟨rfl, rfl⟩, fun v x hread hx => .intro (execJtagRegaccUpdate_read s hread hx) rfl⟩
  · exact fun s => .intro rfl rfl

end Sys2Proof.Machine
end

section
set_option Elab.async false
namespace Sys2Proof.Machine

/-! ## Faults of cells, blocks, regions and the chip (spec 21) -/

/-! ### Cells -/

section
variable {s : State} {n block : Nat} (cell chain pos row cause : Nat) (umberLow : Bool) (hblock : block < 8) (hfenced : s.video.fenced.contains n = false)
  (hstopped : s.blockStopped n block = false) {u v : State}
  (hu : u = (s.bumpF Fld.CTL_ERR_CELL_RETRY).logError 0 n block cell cause row (pos % 64 + 64 * (chain % 16)))
include hblock hfenced hstopped hu

/-- The cell's retry recovers: the retry is counted, at the block's own counter where it has one (R523). -/
theorem State.cellFault_recovered :
    s.cellFault n block cell chain pos row cause false umberLow =
      if block = 2 then u.bumpF (Fld.ENC_RETRIES n) else if block = 3 then u.bumpF (Fld.DEC_RETRIES n) else u := by
  subst hu
  refine (if_neg (by omega)).trans ((if_neg (by simp [hfenced, hstopped, -List.contains_eq_mem])).trans ((if_pos rfl).trans ?_))
  by_cases h2 : block = 2
  · exact (if_pos h2).trans (if_pos h2).symm
  · refine (if_neg h2).trans (Eq.trans ?_ (if_neg h2).symm)
    by_cases h3 : block = 3
    · exact (if_pos ⟨h3, rfl⟩).trans (if_pos h3).symm
    · exact (if_neg fun h => h3 h.1).trans (if_neg h3).symm

/-- The retry fails too: a substitute is shown, and the block's fault follows a stall or a third substitute of the tick (R523). -/
theorem State.cellFault_failed
    (hv : v = ((if block = 2 then u.bumpF (Fld.ENC_RETRIES n) else u).bumpF Fld.CTL_ERR_CELL_SUBST).substitute
        { region := n, block := block, cell := cell, chain := chain, position := pos, row := row,
          tick := ((if block = 2 then u.bumpF (Fld.ENC_RETRIES n) else u).bumpF Fld.CTL_ERR_CELL_SUBST).io.tick, failed := true }) :
    s.cellFault n block cell chain pos row cause true umberLow =
      if cause = 2 ∨ 3 ≤ v.substituted n block cell then v.blockFault n block cell 8 umberLow else v := by
  subst hu hv
  have hcount : ∀ u : State, (if block = 2 then u.bumpF (Fld.ENC_RETRIES n) else if block = 3 ∧ (!true) = true then u.bumpF (Fld.DEC_RETRIES n) else u) =
      if block = 2 then u.bumpF (Fld.ENC_RETRIES n) else u := fun u => by simp
  have htick : ∀ u : State, (u.bumpF Fld.CTL_ERR_CELL_SUBST).io.tick = u.io.tick := fun u => by
    unfold Io.tick Io.getWide
    rw [State.bumpF_io, Io.getF_bumpF_other _ _ (by decide), Io.getF_bumpF_other _ _ (by decide)]
  unfold State.cellFault
  rw [if_neg (by omega), if_neg (by simp [hfenced, hstopped, -List.contains_eq_mem])]
  dsimp only
  rw [hcount, if_neg (c := (!true) = true) (by decide), htick]

end

/-! ### Blocks -/

section
variable {s : State} {n block : Nat} (cell cause : Nat) (umberLow : Bool)

theorem State.blockFault_escalates
    (h : block = 8 ∨ s.video.returned.any (fun x => x.1 == n && x.2.1 == block && decide (s.io.tick < x.2.2 + 64)) = true) :
    s.blockFault n block cell cause umberLow = s.regionFault n block 8 umberLow := if_pos h

theorem State.blockFault_restarts (hblock : block ≠ 8)
    (hlong : s.video.returned.any (fun x => x.1 == n && x.2.1 == block && decide (s.io.tick < x.2.2 + 64)) = false)
    (hstopped : s.blockStopped n block = false) (hfenced : s.video.fenced.contains n = false) :
    s.blockFault n block cell cause umberLow = (((((s.bumpF Fld.CTL_ERR_BLOCK_RESTARTS).logError 1 n block cell cause 0 0).stopBlock n block).onVideo
      (fun v => { v with stopped := v.stopped ++ [(n, block, (((s.bumpF Fld.CTL_ERR_BLOCK_RESTARTS).logError 1 n block cell cause 0 0).stopBlock n block).io.tick + 1)] })).standbyContains) :=
  (if_neg (by simp [hblock, hlong])).trans (if_neg (by simp [hfenced, hstopped, -List.contains_eq_mem]))

end

/-! ### The chip -/

section
variable {s : State} {block cell cause : Nat}

/-- The record of a chip error leaves the part's kind. -/
theorem State.chipLogged_hasHost (s : State) (block cell cause : Nat) :
    (((s.bumpF Fld.CTL_ERR_CHIP).logError 3 0 block cell cause 0 0).alert 6 true).io.hasHost = s.io.hasHost := by
  unfold Io.hasHost Io.isTile
  rw [(State.alert_keeps (State.Keeps.refl _) (Sub.self _)).io.getF RegOf.CTL_VARIANT (by decide) (by decide +kernel),
    (State.logError_keeps (State.Keeps.refl _) (Sub.self _)).io.getF RegOf.CTL_VARIANT (by decide) (by decide +kernel),
    State.bumpF_io, Io.getF_bumpF_other _ _ (by decide)]

/-- No third controlled restart within the hour: the chip stays at the end of the restart, blocked (R529). -/
theorem State.chipError_blocked {u : State} (hhost : s.io.hasHost = false) (hmany : 2 ≤ s.recentRestarts.length)
    (hu : u = (((s.bumpF Fld.CTL_ERR_CHIP).logError 3 0 block cell cause 0 0).alert 6 true)) (hrecent : u.recentRestarts = s.recentRestarts) :
    s.chipError block cell cause false = (((u.onBoot (fun b => { b with restarts := s.recentRestarts })).setF Fld.CTL_ERR_STAT_RESTARTS
      (min 2 s.recentRestarts.length)).setF Fld.CTL_ERR_STAT_RESTART_BLOCKED 1).restart false false := by
  have hkind : u.io.hasHost = false := by rw [hu, State.chipLogged_hasHost, hhost]
  unfold State.chipError
  dsimp only
  rw [← hu, if_neg (c := u.io.hasHost = true) (by simp [hkind]), hrecent, decide_eq_true hmany]
  rfl

end

/-- Settles O44: each level of containment by the equation of its own fault. -/
theorem containmentCommands : Obligations.ContainmentCommands := by
  unfold Obligations.ContainmentCommands
  refine ⟨?_, ?_, ?_, ?_, ?_, ?_, ?_, ?_, ?_, ?_⟩
  · intro s u v region block cell chain position row check umberLow hrun hactive hblock hfenced hstopped hu
    have hgo : (s.running && s.io.regionActive region && decide (block < 9)) = true := by simp [hrun, hactive]; omega
    refine ⟨.intro rfl ((if_pos hgo).trans (State.cellFault_recovered _ _ _ _ _ _ hblock hfenced hstopped hu)), fun hv => ?_⟩
    refine .intro rfl ((if_pos hgo).trans ((State.cellFault_failed _ _ _ _ _ _ hblock hfenced hstopped hu hv).trans ?_))
    have hcause : (if check then 3 else 1) ≠ 2 := by cases check <;> decide
    simp only [hcause, false_or]
  · intro s u v region block cell chain position row umberLow hrun hactive hblock hfenced hstopped hu hv
    have hgo : (s.running && s.io.regionActive region && decide (block < 9)) = true := by simp [hrun, hactive]; omega
    refine ⟨.intro rfl ((if_pos hgo).trans ((State.cellFault_recovered _ _ _ _ _ _ hblock hfenced hstopped hu).trans ?_)), ?_⟩
    · subst hv
      by_cases h3 : block = 3
      · rw [if_neg (by omega), if_pos h3, if_pos h3]
      · rw [if_neg h3, if_neg h3]
    · subst hv
      exact .intro rfl ((if_pos hgo).trans ((State.cellFault_failed _ _ _ _ _ _ hblock hfenced hstopped hu rfl).trans (if_pos (.inl rfl))))
  · intro s region block umberLow hrun hactive hblock
    have hgo : (s.running && s.io.regionActive region && decide (block < 9)) = true := by simp [hrun, hactive, hblock]
    exact ⟨fun h => .intro rfl ((if_pos hgo).trans (State.blockFault_escalates _ _ _ h)),
      fun h8 hlong hstopped hfenced => .intro rfl ((if_pos hgo).trans (State.blockFault_restarts _ _ _ h8 hlong hstopped hfenced))⟩
  · intro s region block x hfind
    have hrun : exec (.blockRestartDone region block) s = execBlockRestartDone region block s := rfl
    unfold execBlockRestartDone at hrun
    rw [hfind] at hrun
    dsimp only at hrun
    exact ⟨fun h => .intro (hrun.trans (congrArg Host.Outcome.next (if_pos h))) rfl,
      fun h => .intro (hrun.trans (congrArg Host.Outcome.next (if_neg (Nat.not_le.mpr h)))) rfl⟩
  · intro s region block x umberLow hfind hdue hnot
    have hrun : exec (.blockRestartTimeout region block umberLow) s = execBlockRestartTimeout region block umberLow s := rfl
    unfold execBlockRestartTimeout at hrun
    rw [hfind] at hrun
    dsimp only at hrun
    exact .intro (hrun.trans (congrArg Host.Outcome.next (if_pos ⟨hdue, by rw [hnot]; rfl⟩))) rfl
  · exact fun s region umberLow hrun hactive => .intro rfl (if_pos (by rw [hrun, hactive]; rfl))
  · intro s u v region retrained new failed enabled hfenced hheld henabled hnew hu hv
    have hgo : ¬ (!s.video.fenced.contains region || bit (s.getF Fld.CTL_ERR_STAT_FENCE_HELD) region) = true := by rw [hfenced, hheld]; decide
    subst henabled hnew hu hv
    exact ⟨fun hok => .intro rfl ((if_neg hgo).trans (if_pos (by rw [hok]; rfl))), fun hbad => .intro rfl ((if_neg hgo).trans (if_neg (by rw [hbad]; decide)))⟩
  · exact fun s cell umberLow hgood hpower hheld => .intro rfl (if_pos ⟨hgood, hpower, by rw [hheld]; rfl⟩)
  · exact fun s block cell cause hhost hmany u hu hrecent => State.chipError_blocked hhost hmany hu hrecent
  · exact fun s core umberLow hrun hpower => .intro rfl (if_pos ⟨hrun, hpower⟩)

end Sys2Proof.Machine
end
